-- ==== Sys2Proof/Word.lean ====
section
/-! DEFINITION. The word types of the model and their plainest arithmetic. -/

namespace Sys2Proof

/-- One byte. -/
abbrev Byte := BitVec 8

/-- A byte string, byte 0 first. -/
abbrev Bytes := List Byte

/-- A 16-bit polder ID (R13). -/
abbrev PolderId := BitVec 16

/-- A 13-bit instance ID (R4). -/
abbrev InstId := BitVec 13

/-- A 12-bit context number (R32). -/
abbrev CtxId := BitVec 12

/-- A destination: an instance ID, or a multicast group number with bit 15 set (R63). -/
abbrev Dest := BitVec 16

/-- A Datum count of nanoseconds (R276). -/
abbrev Datum := BitVec 64

/-- A function number at the host ports (R516): 0 is the PF and n + 1 is VF n. -/
abbrev FnId := BitVec 7

/-- A VF number (R392). -/
abbrev VfId := BitVec 6

/-- A SHA-384 digest. -/
abbrev Digest := BitVec 384

/-- A 256-bit key. -/
abbrev Key256 := BitVec 256

/-- A 512-bit key. -/
abbrev Key512 := BitVec 512

end Sys2Proof
end

