-- ==== Sys2Proof/Syntax.lean ====
section
/-! DEFINITION. The commands of the block: one constructor of Instr per row of spec/opcode_table.json,
with the operands the spec gives each. -/

namespace Sys2Proof

/-- The role of an instance (R1). -/
inductive Role where
  | e | s | t
  deriving DecidableEq, Repr

/-- The status codes of R382. -/
inductive Status where
  | ok | pending | badParam | denied | noSlot | slotBad | orphaned | breach | revoked | targetDead
  | outcomeUnknown | lineLost | polderGone | exhausted | timeout | squashed | syncUnderflow
  | syncOverflow | oversubscribed | busy | lcForbids | surveyFull | abandoned
  deriving DecidableEq, Repr

/-- A sluice (R346): the port a command arrives on. -/
inductive Sluice where
  | pf
  | vf (n : VfId)
  | sb
  | fm
  | dbg
  deriving DecidableEq, Repr

/-- Where a command came from: its sluice, and the SPDM session it travelled in, if any (R346, R351). -/
structure Origin where
  sluice  : Sluice
  session : Option (BitVec 32)
  deriving DecidableEq, Repr

/-- The kinds of switched power domain (R36). -/
inductive DomainKind where
  | lceTx | lceRx | sce | pie | rmuPair | bas | ctc | treeWalker | rootBank | levee | fau | replayBank
  | scaBank | barrierBank | ringBank | spmBank | weir | wardenCore | kcu | pku | hashUnit | entropy
  | cadastre | chartEngine | tracer | hostPath | dither | faultSram | tap | barrierUnit
  deriving DecidableEq, Repr

/-- One switched power domain (R36). -/
structure DomainId where
  kind  : DomainKind
  index : BitVec 8
  deriving DecidableEq, Repr

/-- One island: a datapath domain, or one of the others (R37); chip stands for what brings work to a domain at the block's
ports: the on-chip network, the link layer and the cores. -/
inductive IslandId where
  | domain (d : DomainId)
  | warden | datum | sideBand | gauge | chip
  deriving DecidableEq, Repr

/-- A culvert, by its two islands (R44). -/
structure CulvertId where
  left  : IslandId
  right : IslandId
  deriving DecidableEq, Repr

/-- What a failed host-path access was for (R395): a write, of an event record of a ring or another, a descriptor read, or
a dirty-log access. -/
inductive HostFailure where
  | write (ring : Option (BitVec 9))
  | descriptorRead
  | dirtyLog
  deriving DecidableEq, Repr

/-- A core's access to the stacks (R79, R85, R516). -/
structure StackReq where
  context : CtxId
  addr    : BitVec 40
  write   : Bool
  len     : Nat
  data    : Bytes
  mask    : Option (List Bool)
  deriving DecidableEq, Repr

/-- A core's remote request (R135). -/
structure RemoteReq where
  context   : CtxId
  opcode    : BitVec 8
  modifier  : BitVec 16
  dst       : InstId
  mc        : Bool
  regionKey : BitVec 32
  offset    : BitVec 64
  len       : BitVec 13
  localAddr : BitVec 40
  ctag      : BitVec 16
  increment : BitVec 32
  deriving DecidableEq, Repr

/-- A core-side SCA request (R258): the requesting core and the fields of the request but for op. -/
structure ScaReq where
  core    : BitVec 9
  target  : BitVec 9
  counter : BitVec 6
  value   : BitVec 32
  deriving DecidableEq, Repr

/-- Which stream an entry of the stream store holds (R75). -/
inductive StreamRef where
  | tx (polder : PolderId) (dest : Dest) (sid : BitVec 16)
  | rx (polder : PolderId) (src : InstId) (sid : BitVec 16) (group : Option InstId)
  deriving DecidableEq, Repr

/-- How a KCU job's checks came out (R313 to R315). -/
inductive KcuOutcome where
  | pass | mismatch | katFail
  deriving DecidableEq, Repr

/-- Which device read returned (R521): an outstanding stack read, or a tray device at an offset. -/
inductive DeviceRead where
  | stack (index : Nat)
  | tray (device : Nat) (offset : Nat)
  deriving DecidableEq, Repr

/-- Which host-port request completed (R516). -/
inductive HostDone where
  | eventRecord (fn : FnId) (ring : BitVec 9)
  | dirtyLog (vf : VfId)
  | chartBuffer (polder : PolderId)
  deriving DecidableEq, Repr

/-- The register window an access arrives through (R500 to R502). -/
inductive Window where
  | pf
  | vf (n : VfId)
  | sb
  deriving DecidableEq, Repr

/-- An SPDM request as its message carries it (R337 to R343); one inside a session is of that session. -/
inductive SpdmRequest where
  | getVersion
  | getCapabilities
  | negotiateAlgorithms (request : Bytes)
  | getDigests
  | getCertificate (slot : BitVec 8) (offset length : Nat)
  | challenge (slot : BitVec 8) (nonce : BitVec 256)
  | getMeasurements (index : BitVec 8) (signed : Bool) (nonce : BitVec 256)
  | kemOffer (key : Bytes)
  | keyExchange (session : BitVec 16) (share : Bytes) (kemHash : Digest) (wantMutual : Bool)
  | finish (verify : Digest)
  | pqSignature
  | heartbeat
  | keyUpdate (both : Bool)
  | endSession
  | chunkSend (handle : BitVec 8) (last : Bool) (data : Bytes)
  | chunkGet (handle : BitVec 8) (seq : BitVec 16)
  | deliverEncapsulatedResponse (chain signature : Bytes)
  | getEncapsulatedRequest
  | provision (params : Bytes)
  | warden (frame : Bytes)
  | unsupported (code : BitVec 8)
  deriving DecidableEq, Repr, Inhabited

/-- What an SPDM negotiation settles (R337). -/
inductive SpdmParameter where
  | baseHash | measurementHash | baseAsym | dhe | aead | keySchedule | measurementSpec | opaqueFormat
  deriving DecidableEq, Repr

/-- An algorithm that a requester may offer: those of R337, and others by their code. -/
inductive SpdmAlgorithm where
  | sha384 | ecdsaP384 | secp384r1 | aes256Gcm | spdmSchedule | dmtf | generalOpaque
  | other (code : Nat)
  deriving DecidableEq, Repr

/-- The commands of the block, one constructor per row of the opcode table. -/
inductive Instr where
  -- resets, boot, clocks and power (R34, R41, R48, R318 to R331, R519, R520, R527, R528)
  | powerOnResetRelease
  | powerOnResetAssert
  | blockResetAssert
  | blockResetRelease (strap : BitVec 2) (instanceId : InstId)
  | lcResolve
  | entropy (startUpPasses : Bool)
  | keys
  | imageLoad (flashAnswers : Bool)
  | imageVerify
  | firmwareInit (objects : List Digest)
  | ready
  | bootTimeout
  | wardenWatchdog
  | wardenEcc
  | correctableEcc (inRom : Bool)
  | clockStopRequest (d : DomainId)
  | clockStopRelease (d : DomainId)
  | domainGate (d : DomainId)
  | domainWake (d : DomainId)
  | powerGood (d : DomainId)
  | culvertHandshakeComplete (c : CulvertId)
  -- the fabric's status, functions and the host path (R156, R392, R395, R398, R518)
  | fabricStatusUnreachable (inst : InstId)
  | fabricStatusWithdraw (inst : InstId)
  | funcEn (vf : VfId) (enable : Bool)
  | flrReq (vf : VfId)
  | functionResetDrained (vf : VfId)
  | functionResetDone (vf : VfId)
  | hostPathFailure (fn : FnId) (what : HostFailure)
  | descriptorFetch (queue : BitVec 8) (data : Option Bytes)
  -- packets (R57, R71, R75)
  | protectedPacketReceive (port : BitVec 8) (packet : Bytes)
  | linkNoticeReceive (port : BitVec 8) (packet : Bytes)
  | streamEntryFetch (slice : BitVec 8) (stream : StreamRef)
  -- remote requests at the target and answers at the requester (R143 to R182, R534)
  | load
  | store
  | atomic
  | reduceIntoRemoteMemory
  | multicastStore
  | signal
  | signalHoldRelease (index : Nat)
  | fence
  | fenceAnswerRelease (index : Nat)
  | completion
  -- rings (R185 to R197)
  | ringHeartbeat
  | heartbeatSend (ring : BitVec 12)
  | heartbeatMissed (ring : BitVec 12) (member : BitVec 3)
  | readShared
  | readOwn
  | upgrade
  | writeBack
  | evictClean
  | invalidate
  | recall
  | downgrade
  | grant
  | ack
  | dataBack
  | lineRequest (ring : BitVec 12) (message : BitVec 4) (addr : BitVec 64) (data : Bytes)
  -- collectives and barriers (R242 to R254, R269 to R275)
  | open_
  | benchmarkCodes
  | benchmarks
  | contribution
  | result
  | filterCounts
  | filterBases
  | receipt
  | report
  | done_
  | abort
  | collectiveResend (index : Nat)
  | collectiveWatchdog (polder : PolderId) (collective : BitVec 32)
  | barrierArrival
  | barrierRelease
  | barrierArrivalResend (polder : PolderId) (barrier : BitVec 32)
  | barrierNodeWatchdog (polder : PolderId) (barrier : BitVec 32)
  | barrierParticipantWatchdog (polder : PolderId) (barrier : BitVec 32)
  | releasedListExpiry (index : Nat)
  -- the cores' ports (R92, R135, R258 to R265)
  | stackAccess (r : StackReq)
  | scaRead (r : ScaReq)
  | inc (r : ScaReq)
  | dec (r : ScaReq)
  | waitGe (r : ScaReq)
  | waitDec (r : ScaReq)
  | set (r : ScaReq)
  | scaInvalidOp (r : ScaReq) (op : BitVec 3)
  | waitIdleThreshold (core : BitVec 9)
  | remoteRequest (r : RemoteReq)
  -- the FAU's timers (R154, R167, R178, R181)
  | fauResend (index : Nat)
  | fauGiveUp (index : Nat)
  | answerLogExpiry (index : Nat)
  | replayEntryExpiry (index : Nat)
  | holdQueueDiscard (index : Nat)
  -- the Datum and Floodwatch (R278, R279, R283, R456)
  | markFire
  | datumExchange (t1 t2 t3 t4 : BitVec 64) (upstreamLocked : Bool)
  | datumExchangeMissed
  | floodwatchStop (polder : PolderId) (originator : InstId)
  -- devices, the Levee and Weirs (R127 to R131, R169, R411, R412, R506)
  | deviceFailed (device : Nat)
  | devicePresent (device : Nat)
  | rebuildRow (group : Nat)
  | rebuildEnd (group : Nat)
  | queueLevelReport (weir : BitVec 8) (level : BitVec 4) (capacity : Nat)
  | writeAcknowledged (index : Nat)
  | weirInterval (weir : BitVec 8) (backlogged : BitVec 16) (admitted : List Nat)
  | weirStatusMirror (weir : BitVec 8)
  -- leases, plots and regions running to their end (R99, R101, R115, R123, R142, R202)
  | leaseExpiry (extent : BitVec 13)
  | extentRevokeDrained (extent : BitVec 13)
  | extentInitialisationComplete (extent : BitVec 13)
  | extentRekeyCopyComplete (extent : BitVec 13)
  | zeroFillComplete (plot : BitVec 16)
  | plotReleaseDrained (plot : BitVec 16)
  | regionWithdrawDrained (index : BitVec 14)
  -- keys (R305, R306, R312, R317, R320)
  | kcuJobComplete (kcu : Bool) (outcome : KcuOutcome)
  | slotEvictionComplete (slot : BitVec 8)
  | slotLoadTimeout (polder : PolderId)
  | drbgReseed
  | entropyHealthFailure (test : BitVec 8)
  -- hangs, teardown and objects running to their end (R366, R372, R407, R419, R439, R440, R449)
  | engineWatchdogExpiry (unit : BitVec 16)
  | suspectCleared (unit : BitVec 16)
  | teardownDrained (polder : PolderId)
  | teardownComplete (polder : PolderId)
  | contextDestroyComplete (context : CtxId)
  | memobjLastReference (memobj : BitVec 13)
  | stepBeginBoundary (context : CtxId)
  | chartFreeze (polder : PolderId)
  | chartExportTimeout (polder : PolderId)
  | chartWritten (polder : PolderId)
  | imageRewriteComplete
  | lcTransitionComplete
  | kemOfferExpiry (sluice : Sluice)
  | nonceExpiry
  | authorisationExpiry
  | gaugeIncrement (polder : PolderId) (counter : Fin 7)
  | gaugePeriodicCapture
  | gaugeRecordSigned
  | eventRingSpaceReturn (fn : FnId) (ring : BitVec 9)
  -- mailboxes, the side-band and SPDM (R329 to R343, R353 to R357, R502)
  | mailboxDoorbell (fn : FnId)
  | fetch (o : Origin) (tag : BitVec 32)
  | securedMessage (o : Origin) (record : Bytes)
  | regRead (offset : BitVec 20) (wide : Bool)
  | recoveryLoad (image : Bytes)
  | getVersion (sluice : Sluice)
  | getCapabilities (sluice : Sluice)
  | negotiateAlgorithms (sluice : Sluice) (request : Bytes)
  | getDigests (sluice : Sluice)
  | getCertificate (sluice : Sluice) (slot : BitVec 8) (offset length : Nat)
  | challenge (sluice : Sluice) (slot : BitVec 8) (nonce : BitVec 256)
  | getMeasurements (sluice : Sluice) (index : BitVec 8) (signed : Bool) (nonce : BitVec 256)
  | kemOffer (sluice : Sluice) (key : Bytes)
  | keyExchange (sluice : Sluice) (session : BitVec 16) (share : Bytes) (kemHash : Digest) (wantMutual : Bool)
  | finish (sluice : Sluice) (session : BitVec 32) (verify : Digest)
  | pqSignature (sluice : Sluice)
  | heartbeat (sluice : Sluice) (session : BitVec 32)
  | keyUpdate (sluice : Sluice) (session : BitVec 32) (both : Bool)
  | endSession (sluice : Sluice) (session : BitVec 32)
  | chunkSend (sluice : Sluice) (handle : BitVec 8) (last : Bool) (data : Bytes)
  | chunkGet (sluice : Sluice) (handle : BitVec 8) (seq : BitVec 16)
  | unsupportedRequest (sluice : Sluice) (code : BitVec 8)
  -- Warden commands (R383): polders, keys, plots and memory objects
  | polderProvision (o : Origin) (tag : BitVec 32) (polder : PolderId) (confidential : BitVec 8) (pmk : Key256)
  | polderMembership (o : Origin) (tag : BitVec 32) (polder : PolderId) (mark : Datum) (members : BitVec 8192)
  | polderTeardown (o : Origin) (tag : BitVec 32) (polder : PolderId)
  | polderList (o : Origin) (tag : BitVec 32) (first : PolderId)
  | keySlotPin (o : Origin) (tag : BitVec 32) (polder : PolderId)
  | keySlotUnpin (o : Origin) (tag : BitVec 32) (polder : PolderId)
  | keySlotStatus (o : Origin) (tag : BitVec 32) (slot : BitVec 8)
  | plotAssign (o : Origin) (tag : BitVec 32) (memobj plot : BitVec 16) (base : BitVec 24) (writable zeroFill : Bool)
      (fillClass : BitVec 4)
  | plotRelease (o : Origin) (tag : BitVec 32) (plot : BitVec 16)
  | plotQuery (o : Origin) (tag : BitVec 32) (plot : BitVec 16)
  | memobjCreate (o : Origin) (tag : BitVec 32) (polder : PolderId)
  | memobjFree (o : Origin) (tag : BitVec 32) (memobj : BitVec 16)
  -- contexts, queues, event rings and fences
  | contextCreate (o : Origin) (tag : BitVec 32) (polder : PolderId) (cls : BitVec 8) (cores : BitVec 512)
  | contextDestroy (o : Origin) (tag : BitVec 32) (context : BitVec 16)
  | queueCreate (o : Origin) (tag : BitVec 32) (context ring depth : BitVec 16) (addr : BitVec 64)
  | queueDestroy (o : Origin) (tag : BitVec 32) (queue : BitVec 8)
  | eventRingCreate (o : Origin) (tag : BitVec 32) (size : BitVec 32) (vector : BitVec 16) (addr : BitVec 64)
  | eventRingDestroy (o : Origin) (tag : BitVec 32) (ring : BitVec 16)
  | fenceCreate (o : Origin) (tag : BitVec 32) (context : BitVec 16)
  | fenceShare (o : Origin) (tag : BitVec 32) (fence context : BitVec 16)
  | fenceDestroy (o : Origin) (tag : BitVec 32) (fence : BitVec 16)
  -- regions, extents and the tray
  | regionExport (o : Origin) (tag : BitVec 32) (memobj : BitVec 16) (kind perms : BitVec 8) (mcKey : BitVec 32)
      (length : BitVec 64) (firstOffset : BitVec 32) (core : BitVec 16) (base count : BitVec 8) (plots : List (BitVec 16))
  | regionWithdraw (o : Origin) (tag : BitVec 32) (key : BitVec 32)
  | regionQuery (o : Origin) (tag : BitVec 32) (index : BitVec 16)
  | extentGrant (o : Origin) (tag : BitVec 32) (polder : PolderId) (holder lease : BitVec 16) (perms : BitVec 8)
  | extentRenew (o : Origin) (tag : BitVec 32) (extent holder lease : BitVec 16)
  | extentHandover (o : Origin) (tag : BitVec 32) (extent holder newHolder lease : BitVec 16)
  | extentRevoke (o : Origin) (tag : BitVec 32) (extent : BitVec 16)
  | extentRekey (o : Origin) (tag : BitVec 32) (extent : BitVec 16)
  | extentHint (o : Origin) (tag : BitVec 32) (extent : BitVec 16) (hint : BitVec 8)
  | trayRebuildRate (o : Origin) (tag : BitVec 32) (percent : BitVec 8)
  | extentStatus (o : Origin) (tag : BitVec 32) (extent : BitVec 16)
  | trayStatus (o : Origin) (tag : BitVec 32)
  -- groups, rings and multicast
  | collectiveGroupDefine (o : Origin) (tag : BitVec 32) (mark : Datum) (desc : Bytes)
  | collectiveGroupDestroy (o : Origin) (tag : BitVec 32) (polder : PolderId) (group : BitVec 16)
  | groupQuery (o : Origin) (tag : BitVec 32) (polder : PolderId) (group : BitVec 16)
  | ringCreate (o : Origin) (tag : BitVec 32) (ring : BitVec 16) (polder : PolderId) (members : List InstId)
      (own : BitVec 8) (home : List (BitVec 16)) (mark : Datum)
  | ringMemberDead (o : Origin) (tag : BitVec 32) (ring inst : BitVec 16)
  | ringDestroy (o : Origin) (tag : BitVec 32) (ring : BitVec 16) (mark : Datum)
  | mcastGroupJoin (o : Origin) (tag : BitVec 32) (polder : PolderId) (group : InstId) (members : BitVec 8192)
  | mcastGroupLeave (o : Origin) (tag : BitVec 32) (polder : PolderId) (group : InstId)
  -- the Datum, counters, charts and Weirs
  | datumConfig (o : Origin) (tag : BitVec 32) (root port : BitVec 8)
  | datumStatus (o : Origin) (tag : BitVec 32)
  | syncCounterRead (o : Origin) (tag : BitVec 32) (core : BitVec 16)
  | contextStepRead (o : Origin) (tag : BitVec 32) (context : BitVec 16)
  | markQueueStatus (o : Origin) (tag : BitVec 32)
  | chartExport (o : Origin) (tag : BitVec 32) (polder : PolderId) (chart : BitVec 32) (step : BitVec 64)
      (addr len : BitVec 64)
  | chartImport (o : Origin) (tag : BitVec 32) (polder : PolderId) (memobj : BitVec 16) (chart : BitVec 32)
      (addr len : BitVec 64)
  | chartResume (o : Origin) (tag : BitVec 32) (polder : PolderId) (chart : BitVec 32) (mark : Datum)
  | chartDiscard (o : Origin) (tag : BitVec 32) (polder : PolderId) (chart : BitVec 32)
  | weirConfig (o : Origin) (tag : BitVec 32) (weir : BitVec 8) (minima : List (BitVec 16))
  | weirStatus (o : Origin) (tag : BitVec 32) (weir : BitVec 8)
  -- observation
  | counterRead (o : Origin) (tag : BitVec 32) (first count : BitVec 16)
  | streamCountersRead (o : Origin) (tag : BitVec 32) (polder : PolderId) (stream peer : BitVec 16) (direction : BitVec 8)
  | polderCountersRead (o : Origin) (tag : BitVec 32) (polder : PolderId)
  | traceConfig (o : Origin) (tag : BitVec 32) (sizeMib : BitVec 16) (enable : BitVec 8) (mask : BitVec 64)
  | traceFetch (o : Origin) (tag : BitVec 32) (offset : BitVec 64) (length : BitVec 16)
  -- life cycle and debug
  | lcStatus (o : Origin) (tag : BitVec 32)
  | lcChallenge (o : Origin) (tag : BitVec 32) (target : BitVec 8)
  | lcTransition (o : Origin) (tag : BitVec 32) (target : BitVec 8) (response : Bytes)
  | debugAuthorise (o : Origin) (tag : BitVec 32) (authorisation : Bytes)
  | debugClose (o : Origin) (tag : BitVec 32)
  -- the Gauge
  | gaugeIdentity (o : Origin) (tag : BitVec 32)
  | gaugeCountersRead (o : Origin) (tag : BitVec 32) (polder : PolderId)
  | gaugeRecordFetch (o : Origin) (tag : BitVec 32) (first : BitVec 32) (max : BitVec 8)
  | gaugeRecordRelease (o : Origin) (tag : BitVec 32) (through : BitVec 32)
  -- faults and resets
  | faultRead (o : Origin) (tag : BitVec 32) (first : BitVec 32) (count : BitVec 16)
  | resetEngine (o : Origin) (tag : BitVec 32) (unit : BitVec 16)
  | resetContext (o : Origin) (tag : BitVec 32) (context : BitVec 16)
  | resetPolder (o : Origin) (tag : BitVec 32) (polder : PolderId)
  | resetVf (o : Origin) (tag : BitVec 32) (vf : BitVec 16)
  | resetBlock (o : Origin) (tag : BitVec 32)
  | serviceRelease (o : Origin) (tag : BitVec 32)
  | floodwatchConfig (o : Origin) (tag : BitVec 32) (enable : BitVec 8)
  | crashDumpRead (o : Origin) (tag : BitVec 32) (unit : BitVec 16) (offset : BitVec 32) (length : BitVec 16)
  | stragglerRead (o : Origin) (tag : BitVec 32) (polder : PolderId) (inst : BitVec 16)
  -- firmware and survey
  | identityRead (o : Origin) (tag : BitVec 32)
  | surveyRead (o : Origin) (tag : BitVec 32) (first count : BitVec 8)
  | firmwareStage (o : Origin) (tag : BitVec 32) (offset : BitVec 32) (data : Bytes)
  | firmwareActivate (o : Origin) (tag : BitVec 32) (length : BitVec 32)
  | firmwareCommitSvn (o : Origin) (tag : BitVec 32) (n : BitVec 32)
  -- queue descriptors (R387), of the queue named
  | remoteOp (queue : BitVec 8)
  | collectiveLaunch (queue : BitVec 8)
  | barrierArrive (queue : BitVec 8)
  | stepBegin (queue : BitVec 8)
  | fenceSignal (queue : BitVec 8)
  | fenceWait (queue : BitVec 8)
  | bulkCopy (queue : BitVec 8)
  -- registers (R393 to R404, R474, R496 to R515)
  | stateReqLock (vf : VfId)
  | stateReqRun (vf : VfId)
  | stateReqUnlock (vf : VfId)
  | allotWrite (vf : VfId) (second : Bool) (value : BitVec 32)
  | dirtyEnable (vf : VfId) (enable : Bool)
  | swap (vf : VfId)
  | queueDoorbell (fn : FnId) (queue : BitVec 8) (value : BitVec 32)
  | eventRingHead (fn : FnId) (ring : BitVec 9) (head : BitVec 16)
  | arm (fn : FnId) (ring : BitVec 9)
  | profSelWrite (index : BitVec 6) (value : BitVec 64)
  | counterRegisterRead (index : BitVec 10) (wide : Bool)
  | lowHalfRead (window : Window) (offset : BitVec 20)
  | registerWrite (window : Window) (offset : BitVec 20) (wide : Bool) (value : BitVec 64)
  -- SPDM encapsulation, snoop answers and requests at the ports completing (R188, R338, R423, R516, R521)
  | deliverEncapsulatedResponse (sluice : Sluice) (session : BitVec 32) (chain signature : Bytes)
  | getEncapsulatedRequest (sluice : Sluice) (session : BitVec 32)
  | snoopResponse (ring : BitVec 12) (addr : BitVec 64) (data : Option Bytes)
  | deviceReadReturn (read : DeviceRead) (data : Bytes) (uncorrectable : Bool)
  | hostRequestComplete (what : HostDone)
  | chartImportComplete (polder : PolderId) (chart : Bytes)
  deriving DecidableEq, Repr

end Sys2Proof
end

