-- ==== Sys2Proof/Decode.lean ====
section
/-! DEFINITION. Reading a command from a table word. The opcode table of the spec gives no row any bits: a command
reaches the block at a port, and no word spells one. -/

namespace Sys2Proof

/-- The command that a word spells by the opcode table's bits: none, since the table gives no row bits. -/
def decodeTableWord (_nbits _w : Nat) : Option Instr := none

end Sys2Proof
end

