-- ==== Sys2Proof/Config.lean ====
section
/-! DEFINITION. What the spec leaves to a referenced standard, to one part's manufacture or to no rule at all.
Every constant here is opaque: nothing in Lean can evaluate it, so a statement holds whatever it is
(notes/assumptions/1.md, 2.md). -/

namespace Sys2Proof.Config

/-! Functions of referenced standards (R56, R62, R83, R110, R111, R290, R296, R323, R339). -/

/-- One AES-256 block encryption, key then block (FIPS 197, named by R83, R110, R225). -/
opaque aesEncrypt : BitVec 256 → BitVec 128 → BitVec 128

/-- One AES-256 block decryption (FIPS 197). -/
opaque aesDecrypt : BitVec 256 → BitVec 128 → BitVec 128

/-- The 15 round keys of AES-256, 240 B (FIPS 197, R311). -/
opaque aesSchedule : BitVec 256 → Bytes

/-- GHASH under a hash key over blocks, with no length block (SP 800-38D, R111). -/
opaque ghash : BitVec 128 → List (BitVec 128) → BitVec 128

/-- CMAC-AES-256 of a message (SP 800-38B, R62, R113). -/
opaque cmac : BitVec 256 → Bytes → BitVec 128

/-- AES-KW wrapping of a key (SP 800-38F, R295). -/
opaque kwWrap : BitVec 256 → Bytes → Bytes

/-- AES-KW unwrapping; none when the integrity check fails (SP 800-38F, R304). -/
opaque kwUnwrap : BitVec 256 → Bytes → Option Bytes

/-- SHA-384 of a byte string (FIPS 180-4). -/
opaque sha384 : Bytes → BitVec 384

/-- SHA-384 of a region of a sparse memory: its cells, first address and length. -/
opaque sha384Region : List Host.Cell → Nat → Nat → BitVec 384

/-- CRC-32C of a byte string (R300). -/
opaque crc32c : Bytes → BitVec 32

/-- ECDSA P-384 verification: public point, digest, signature (FIPS 186-5, R323). -/
opaque ecdsaVerify : BitVec 768 → BitVec 384 → BitVec 768 → Bool

/-- ECDSA P-384 signing with a private seed over a digest (FIPS 186-5, R338, R491). -/
opaque ecdsaSign : BitVec 512 → BitVec 384 → BitVec 768

/-- The public point that deterministic key generation gives for a seed (FIPS 186-5, R332, R484). -/
opaque ecdsaPublic : BitVec 512 → BitVec 768

/-- An ML-DSA-87 signature, 4,627 B, under a private seed over a digest (FIPS 204, R340). -/
opaque mldsaSign : BitVec 512 → BitVec 384 → Bytes

/-- ML-KEM-1024 encapsulation: encapsulation key and randomness to ciphertext (FIPS 203, R339). -/
opaque mlkemCiphertext : Bytes → BitVec 256 → Bytes

/-- ML-KEM-1024 shared secret of an encapsulation (FIPS 203, R339). -/
opaque mlkemSecret : Bytes → BitVec 256 → BitVec 256

/-- The ECDH secret of the responder's ephemeral key and the requester's share (R339). -/
opaque ecdhSecret : BitVec 256 → Bytes → BitVec 384

/-- The SPDM key schedule: transcript hash and input secret to the two directions' session keys (DSP0274). -/
opaque spdmKeys : BitVec 384 → Bytes → BitVec 256 × BitVec 256

/-- The KEY_UPDATE derivation of a next session key (DSP0274, R338). -/
opaque spdmUpdate : BitVec 256 → BitVec 256

/-- The requester's Finished value under a session key over a transcript hash (DSP0274, R338). -/
opaque spdmFinished : BitVec 256 → BitVec 384 → BitVec 384

/-- A secured-message record: session key, sequence number, session ID and application data (DSP0277, R357). -/
opaque spdmSeal : BitVec 256 → BitVec 64 → BitVec 32 → Bytes → Bytes

/-- The application data of a secured-message record under a session key and sequence number; none when it fails
authentication (DSP0277, R357). -/
opaque spdmOpen : BitVec 256 → BitVec 64 → Bytes → Option Bytes

/-- The data-phase key of a session direction: its handshake key and the transcript hash (DSP0274, R338). -/
opaque spdmData : BitVec 256 → BitVec 384 → BitVec 256

/-- The responder's verify data in KEY_EXCHANGE_RSP under a session key over a transcript hash (DSP0274, R338). -/
opaque spdmVerify : BitVec 256 → BitVec 384 → BitVec 384

/-- The responder's share of an ECDH exchange, 96 B, for its ephemeral secret (R337, R339). -/
opaque ecdhPublic : BitVec 256 → Bytes

/-- The request that an SPDM message's bytes spell (DSP0274 1.3, R338). -/
opaque spdmParse : Bytes → SpdmRequest

/-- The bytes of an SPDM request as the requester sends it (DSP0274 1.3), which enter the transcript (R338, R339). -/
opaque spdmEncode : SpdmRequest → Bytes

/-- The algorithms that a NEGOTIATE_ALGORITHMS request offers for a parameter (DSP0274 gives its layout, R337). -/
opaque spdmOffers : Bytes → SpdmParameter → List SpdmAlgorithm

/-- The body of an ALGORITHMS response that selects an algorithm, or none, for each parameter (DSP0274 gives its layout,
R337). -/
opaque spdmSelection : List (SpdmParameter × Option SpdmAlgorithm) → Bytes

/-- The three certificates of a slot that Ohmier issued, from the chain in the flash (X.509, R322, R334). -/
opaque issuedChain : BitVec 8 → List Host.Cell → Bytes

/-- The DeviceID certificate of a slot that no authority issued, from the DeviceID seed (X.509, R334). -/
opaque deviceCert : BitVec 8 → BitVec 512 → Bytes

/-- The alias certificate of a slot: signed by the DeviceID seed's key, for the alias seed's key, with the contents of
its TcbInfo extension (X.509, R334). -/
opaque aliasCert : BitVec 8 → BitVec 512 → BitVec 512 → Bytes → Bytes

/-- The digest of the fuses that survey entry 3 measures; no rule gives the object's layout (R336). -/
opaque fuseMeasure : Bytes → BitVec 384

/-- What the owner configuration partition says of the fabric manager's key (R342); no rule gives its layout. -/
opaque ownerFmKey : List Host.Cell → BitVec 384

/-- What the owner configuration partition says of the fault manager (R436); no rule gives its layout. -/
opaque ownerFaultManager : List Host.Cell → BitVec 8

/-- The reserved pool plots that the owner configuration sets, as a number added to 16 (R376); no rule gives its layout. -/
opaque ownerPoolPlots : List Host.Cell → Fin 241

/-- The cause that an OUT_OF_SERVICE record gives an engine hang (R433 names the field, no rule gives this value). -/
opaque hangCause : BitVec 8

/-- Whether a requester's certificate chain ends in a named key, as SPDM judges it (R342). -/
opaque chainEndsIn : Bytes → BitVec 384 → Bool

/-- The leaf public key digest of a requester's certificate chain (R343). -/
opaque chainLeaf : Bytes → BitVec 384

/-- Whether a requester's signature over a transcript verifies under its chain (DSP0274, R338). -/
opaque chainSigned : Bytes → Bytes → BitVec 384 → Bool

/-! Values fixed at manufacture, in ROM or at integration. -/

/-- The substitute test root, 256 bits fixed in boot ROM (R289). -/
opaque testRoot : BitVec 256

/-- The boot ROM version (R336, R503). -/
opaque romVersion : BitVec 32

/-- The boot ROM digest fixed at manufacture (R336). -/
opaque romDigest : BitVec 384

/-- The Gauge ROM version (R485). -/
opaque gaugeRomVersion : BitVec 32

/-- SHA-384 of the Gauge ROM (R485). -/
opaque gaugeRomDigest : BitVec 384

/-- The manufacturing key hash held in the ROM for BLANK (R324). -/
opaque manufacturingKeyHash : BitVec 384

/-- Control-state image bytes of a unit, by its control state (R442 gives the image's contents, not its layout). -/
opaque unitImage : BitVec 16 → List (BitVec 8) → Nat → BitVec 8

/-- Staging SRAM bytes an engine's work occupies at a hang: unit, sample number, offset (R441). -/
opaque stagingByte : BitVec 16 → BitVec 32 → Nat → BitVec 8

/-- The code a record gives a KCU mode or job kind, by the row of the table of modes (R433, R477 name the field, no rule
gives its values). -/
opaque kcuMode : Nat → BitVec 8

/-- The code a trace event gives the kind of a mark's action, by its place in R282 (R477 names the field, no rule gives
its values). -/
opaque markKind : Nat → BitVec 8

/-- The cause byte of a RING_HOME_LOST record, by the rule that writes it: 0 R189, 1 R197, 2 the home's lease (R433 names
the field, no rule gives its values). -/
opaque ringCause : Nat → BitVec 8

/-- The traffic class of ring messages and heartbeats of a polder (no rule names it). -/
opaque ringClass : BitVec 16 → BitVec 4

/-- The polder that owns a piece of a hang sample: unit, sample number, piece (R441). -/
opaque pieceOwner : BitVec 16 → BitVec 32 → Nat → BitVec 16

/-- The stack that holds a plot, as the integrator maps stack addresses (R80 asks only that a plot lies in one stack). -/
opaque plotStack : BitVec 16 → BitVec 3

/-- The PIE slice that serves a parcel: location and parcel index (R133 gives ten slices and no rule says which). -/
opaque pieSlice : Nat → Nat → Fin 10

/-- The RMU lane pair that works a collective, before the role's number of pairs bounds it (R36 gives the pairs and no rule
says which). -/
opaque lanePair : BitVec 32 → Nat

/-- What a launch's sink_disp and count come to at a sink of the collective (R251), by polder, collective ID and which
launch it is: no packet of R242 brings them there, and no rule says what does (notes/assumptions/35.md). -/
opaque sinkLaunch : BitVec 16 → BitVec 32 → Nat → BitVec 24 × Nat

/-! Free values. -/

/-- The TX slice at which the packets of a stream arrive while no slice caches its entry, by polder, destination and stream ID
(R75). A free value: no rule says which fabric port a stream is sent from (notes/assumptions/75.md). -/
opaque txSlice : BitVec 16 → BitVec 16 → BitVec 16 → Nat

/-- The working state that instantiating CTR_DRBG with its derivation function gives for an entropy input, a nonce and a
personalisation string (SP 800-90A, R319). -/
opaque drbgSeed : BitVec 384 → BitVec 128 → Bytes → BitVec 384

/-- The working state after a reseed with an entropy input (SP 800-90A, R319). -/
opaque drbgReseed : BitVec 384 → BitVec 384 → BitVec 384

/-- The output of CTR_DRBG from a working state, by the number of the draw (SP 800-90A, R319). -/
opaque drbgWord : BitVec 384 → Nat → BitVec 512

/-- A value the spec states for no rule, by the number of such values taken so far. -/
opaque freeValue : Nat → BitVec 512

end Sys2Proof.Config
end

