-- ==== Sys2Proof/Machine/State.lean ====
section
/-! DEFINITION. The state of one block as plain data, and the state right after reset. Lists keyed by a number or a
name are sparse: a key that a list does not hold stands for the entry's reset value. -/

namespace Sys2Proof.Machine

/-- Why the machine stops. -/
inductive Fault where
  /-- Raised by DEVICE_FAILED, DEVICE_PRESENT and DEVICE_READ_RETURN when they name a tray device, or an offset on one,
  that R105 and R106 say does not exist. Safe: the hardware has no such channel. -/
  | noSuchDevice
  deriving DecidableEq, Repr

/-- Why a command has no meaning. -/
inductive Refusal where
  /-- Raised only by an arm of exec whose command has no meaning yet. Safe. -/
  | notModelled (mnemonic : String)
  deriving DecidableEq, Repr

/-- A byte memory: address and byte pairs, addresses strictly rising, no entry at the value an unlisted address reads as. -/
abbrev Mem := List Host.Cell

/-! ### Integration, pins, boot -/

/-- What the integrating chip and the installation fix (R80, R363, R376, R392, R503): switches are the other instances of
role S, which a ring may not name (R185). -/
structure Integration where
  plots    : Nat
  cores    : Nat
  vfs      : Nat
  poolMib  : Nat
  poolGbs  : Nat
  switches : List InstId
  deriving DecidableEq, Repr

/-- The reset and strap inputs, the clock-stop handshake, the power switches and the function enables (R516, R519, R520). -/
structure Pins where
  porN       : Bool
  blockRstN  : Bool
  sbMode     : Bool
  clkStopReq : List DomainId
  clkStopAck : List DomainId
  pwrEn      : List DomainId
  pwrGood    : List DomainId
  deriving DecidableEq, Repr

/-- The stages of boot (R327); held is the time while block reset is asserted, code 0x0 (R507). -/
inductive BootStage where
  | held | romStart | lcResolve | entropy | keys | imageLoad | imageVerify | firmwareInit | ready | recovery | halted
  deriving DecidableEq, Repr

/-- One survey entry (R335); its index is its key. -/
structure SurveyEntry where
  index  : Nat
  kind   : Byte
  writer : Byte
  value  : BitVec 32
  digest : Digest
  deriving DecidableEq, Repr

/-- An image held in Warden SRAM (R328): its header bytes and its body, read from the flash or received. -/
structure Image where
  header : Bytes
  body   : Mem
  deriving DecidableEq, Repr

/-- A rewrite of the image partition in progress (R330 step 2, R383 FIRMWARE_ACTIVATE). -/
structure Rewrite where
  image    : Image
  recovery : Bool
  origin   : Origin
  tag      : BitVec 32
  deriving DecidableEq, Repr

/-- Boot, firmware, identity and survey state (R1, R327 to R336, R503, R507, R508). -/
structure Boot where
  stage        : BootStage
  reason       : BitVec 8
  role         : Role
  strapInvalid : Bool
  instanceId   : InstId
  stageAt      : Nat
  image        : Option Image
  codeLocked   : Bool
  svn          : BitVec 32
  svnFuse      : Nat
  ifMajor      : BitVec 16
  ifMinor      : BitVec 16
  idRom        : Bool
  idImage      : Bool
  idFirmware   : Bool
  rlLocked     : Bool
  survey       : List SurveyEntry
  surveyLocked : Bool
  deviceSeed   : BitVec 512
  devicePqSeed : BitVec 512
  cdi          : Key256
  aliasSeed    : BitVec 512
  aliasPqSeed  : BitVec 512
  devicePublic : BitVec 768
  certificates : List (Nat × Bytes)
  staged       : Mem
  stagedLength : Nat
  rewrite      : Option Rewrite
  watchdogAt   : Nat
  deriving DecidableEq, Repr

/-- The owner configuration the firmware loads from its partition (R324, R342, R376, R436). The spec gives no layout of it. -/
structure OwnerConfig where
  fmKey        : Digest
  faultManager : BitVec 8
  poolPlots    : Nat
  deriving DecidableEq, Repr

/-- One key slot of the fuses: a hash, written when it is not zero, and its revoke bit (R324). -/
structure FuseKey where
  hash    : Digest
  revoked : Bool
  deriving DecidableEq, Repr

/-- Three copies of a 64-bit fuse row of four code slots (R459). -/
structure Rows where
  copy0 : BitVec 64
  copy1 : BitVec 64
  copy2 : BitVec 64
  deriving DecidableEq, Repr

/-- The fuse macro (R524). -/
structure Fuses where
  root         : Key256
  rootFlag     : BitVec 8
  gaugeSecret  : Key256
  record       : Rows
  intent       : Rows
  vendor       : List FuseKey
  owner        : List FuseKey
  svn          : BitVec 64
  debugPolicy  : BitVec 8
  deriving DecidableEq, Repr

/-- The states of the life cycle (R458); invalid is state number 5 (R461). -/
inductive LcState where
  | blank | factory | field | analysis | retired | invalid
  deriving DecidableEq, Repr

/-- A pending nonce of LC_CHALLENGE (R463). -/
structure Nonce where
  target : BitVec 8
  value  : Digest
  at_    : Nat
  deriving DecidableEq, Repr

/-- A life-cycle transition in progress (R465). -/
structure Transition where
  code     : BitVec 16
  slot     : Nat
  rootKill : Bool
  origin   : Origin
  tag      : BitVec 32
  deriving DecidableEq, Repr

/-- A debug authorisation (R469, R470). -/
structure DebugAuth where
  scope  : BitVec 32
  expiry : Nat
  deriving DecidableEq, Repr

/-- Life-cycle and debug state (R458 to R470). -/
structure LifeCycle where
  code       : BitVec 16
  state      : LcState
  intent     : Bool
  frozen     : Bool
  nonce      : Option Nonce
  transition : Option Transition
  auth       : Option DebugAuth
  deriving DecidableEq, Repr

/-- A fault record (R431), with whether its polder was confidential when it was written (R435). -/
structure FaultRecord where
  seq      : BitVec 64
  datum    : Datum
  code     : BitVec 16
  severity : BitVec 2
  status   : BitVec 8
  unit     : BitVec 16
  polder   : PolderId
  context  : Option CtxId
  peer     : Option InstId
  count    : BitVec 32
  detail   : Bytes
  conf     : Bool
  deriving DecidableEq, Repr

/-- The side-band island (R34, R436, R445, R446, R507): it keeps its values across block reset. -/
structure SideBand where
  cause        : BitVec 4
  events       : List (Nat × BitVec 8)
  outOfService : Bool
  leaving      : Bool
  faultCopy    : List FaultRecord
  unsent       : Option FaultRecord
  deriving DecidableEq, Repr

/-! ### The Datum and the mark queue -/

/-- The states of the Datum (R278). -/
inductive DatumState where
  | freeRunning | acquiring | locked | holdover
  deriving DecidableEq, Repr

/-- An action queued with a mark (R282). -/
inductive MarkAction where
  | membership (polder : PolderId) (members : BitVec 8192)
  | ringCreate (polder : PolderId) (ring : BitVec 12)
  | groupDefine (polder : PolderId) (group : BitVec 16)
  | launch (polder : PolderId) (collective : BitVec 32)
  | stepBegin (polder : PolderId) (context : CtxId)
  | ringDestroy (polder : PolderId) (ring : BitVec 12) (origin : Origin) (tag : BitVec 32)
  | chartResume (polder : PolderId) (chart : BitVec 32)
  deriving DecidableEq, Repr

/-- One entry of the mark queue. -/
structure MarkEntry where
  mark   : Datum
  action : MarkAction
  deriving DecidableEq, Repr

/-- The Datum unit (R276 to R284, R505). -/
structure DatumUnit where
  value       : Datum
  state       : DatumState
  root        : Bool
  lockedOnce  : Bool
  upstream    : BitVec 8
  hasUpstream : Bool
  offset      : BitVec 32
  delay       : BitVec 32
  good        : Nat
  missed      : Nat
  slew        : Int
  sinceSlew   : Nat
  rate        : Int
  phase       : Nat
  marks       : List MarkEntry
  deriving DecidableEq, Repr

/-! ### Polders and keys -/

/-- Why a polder is held (R420, R426, R456). -/
inductive Freeze where
  | none
  | chart (id : BitVec 32)
  | imported (id : BitVec 32)
  | floodwatch
  deriving DecidableEq, Repr

/-- A teardown in progress (R449): its start, whether step 3 is done, the items squashed, and the commands it answers. -/
structure Teardown where
  start    : Nat
  drained  : Bool
  squashed : Nat
  forced   : Bool
  waiters  : List (Origin × BitVec 32)
  deriving DecidableEq, Repr

/-- Straggler counters (R457). -/
structure Straggler where
  lastStep : BitVec 64
  late     : BitVec 32
  worst    : BitVec 32
  deriving DecidableEq, Repr

/-- The per-polder counters of R535. -/
structure PolderCounters where
  malformed        : BitVec 32
  streamFull       : BitVec 32
  unattributedFail : BitVec 32
  membershipDrop   : BitVec 32
  goneDrop         : BitVec 32
  keyWaitDrop      : BitVec 32
  precisionLoss    : BitVec 32
  deriving DecidableEq, Repr

/-- A polder defined on this block (R13 to R20, R32, R343 to R345). -/
structure Polder where
  id           : PolderId
  confidential : Bool
  slot         : BitVec 12
  handle       : BitVec 13
  bound        : Sluice
  identity     : Option Digest
  members      : BitVec 8192
  fatal        : Bool
  teardown     : Option Teardown
  freeze       : Freeze
  exported     : List (BitVec 32)
  pinned       : Bool
  loadFailed   : Option Status
  slotBad      : Bool
  counters     : PolderCounters
  straggler    : Option Straggler
  deriving DecidableEq, Repr

/-- The state of a PVT entry (R297). -/
inductive PvtState where
  | free | live | retired
  deriving DecidableEq, Repr

/-- An entry of the Parent Validity Table (R297); an unlisted handle is FREE at generation 0. -/
structure PvtEntry where
  handle     : BitVec 13
  generation : BitVec 16
  state      : PvtState
  polderSlot : BitVec 12
  deriving DecidableEq, Repr

/-- The states of a key slot (R301). -/
inductive SlotState where
  | free | loading | resident | evicting | bad
  deriving DecidableEq, Repr

/-- A key slot (R299); an unlisted slot is FREE with every field zero. -/
structure KeySlot where
  index        : BitVec 8
  state        : SlotState
  polder       : PolderId
  pmk          : Key256
  link         : Key256
  stack        : Key512
  tray         : Key256
  seed         : Key256
  dump         : Key256
  chart        : Key256
  polderSlot   : BitVec 12
  present      : BitVec 8
  pinned       : Bool
  confidential : Bool
  check        : BitVec 32
  lastUse      : Nat
  deriving DecidableEq, Repr

/-- A deed in the deed store (R295): its 32 header bytes and its wrapped bytes. -/
structure Deed where
  polder  : PolderId
  kind    : BitVec 8
  header  : Bytes
  wrapped : Bytes
  deriving DecidableEq, Repr

/-- A load of a polder's slot in progress (R303, R306): the slot it took, since when it waits, the kinds still to
unwrap, and the KEY_SLOT_PIN commands that wait on it. -/
structure SlotLoad where
  polder  : PolderId
  slot    : Option (BitVec 8)
  start   : Nat
  wanted  : List (BitVec 8)
  waiters : List (Origin × BitVec 32)
  deriving DecidableEq, Repr

/-- The Cadastre (R288 to R307). -/
structure Cadastre where
  ladder    : Bool
  wrapKey   : Key256
  poolKey   : Key512
  sealKey   : Key256
  idSeed    : Key256
  bootNonce : BitVec 64
  slotMask  : BitVec 32
  pvt       : List PvtEntry
  slots     : List KeySlot
  deeds     : List Deed
  loads     : List SlotLoad
  deriving DecidableEq, Repr

/-- What a KCU job does (R308, R312). -/
inductive KcuWork where
  | unwrapPmk (polder : PolderId)
  | unwrapKey (polder : PolderId) (kind : BitVec 8)
  | streamKey (stream : StreamRef) (epoch : BitVec 32)
  | extentKey (extent : BitVec 13)
  | sealPiece (sample : Nat) (piece : Nat)
  | drbgRefill
  deriving DecidableEq, Repr

/-- Why unwrapping a deed fails: the status the load ends with and the check (R304). -/
structure DeedFail where
  status : Status
  check  : Nat
  deriving DecidableEq, Repr

/-- What checks 1 to 3 of R304 found as an unwrap started, and the parent entry's generation that check 6 compares. -/
structure DeedSeen where
  fail       : Option DeedFail
  parent     : BitVec 13
  generation : BitVec 16
  deriving DecidableEq, Repr

/-- A KCU job: its class and its work, with whether a comparison of it has failed once (R312, R315), the message lengths it
states (R309), and for an unwrap what its start found. -/
structure KcuJob where
  cls       : Nat
  work      : KcuWork
  restarted : Bool
  polder    : Option PolderId
  abandoned : Bool
  aad       : Nat
  text      : Nat
  seen      : Option DeedSeen
  deriving DecidableEq, Repr

/-- The device keys that a job may name: the root of the ladder, the device seed and the compound identity, the Device
Wrap, Seal and Reserved Pool Keys and the DRBG's (R289, R290, R319, R334). -/
inductive DeviceKey where
  | root | seed | cdi | wrap | seal | pool | drbg
  deriving DecidableEq, Repr

/-- Where a job's key comes from: a device key, a slot of the Cadastre and a kind, a stream store entry, an extent root
entry, or a session key register (R310). -/
inductive KeySource where
  | device (key : DeviceKey)
  | slot (polder : PolderId) (kind : BitVec 8)
  | stream (ref : StreamRef)
  | extent (id : BitVec 13)
  | session (id : BitVec 32)
  deriving DecidableEq, Repr

/-- The registers of a KCU while a job runs (R311): its key, round-key state, data buffer and the two results compared. -/
structure KcuRegs where
  key      : Key512
  schedule : Bytes
  data     : Bytes
  first    : BitVec 128
  second   : BitVec 128
  deriving DecidableEq, Repr

/-- A prefix state (R316): the key it was made under, the Label, the counter value i, and the CMAC state after the first
block of the fixed input. -/
structure Prefix where
  source : KeySource
  label  : Bytes
  i      : Nat
  state  : BitVec 128
  deriving DecidableEq, Repr

/-- One Key Cipher Unit, with its prefix cache, the key used longest ago first (R316). -/
structure Kcu where
  inService : Bool
  job       : Option KcuJob
  regs      : KcuRegs
  prefixes  : List Prefix
  deriving DecidableEq, Repr

/-- The KCUs, the DRBG and the entropy source (R308 to R320). drbg is the working state (Key and V) that the last
instantiation or reseed set, draws the outputs generated since power-on, and buffer the bytes in the output buffer, the
next to be drawn first (R319). -/
structure KeyUnits where
  kcu0          : Kcu
  kcu1          : Kcu
  queue         : List KcuJob
  mismatches    : List Nat
  instantiated  : Bool
  drbg          : BitVec 384
  requests      : BitVec 32
  reseededAt    : Nat
  buffer        : Bytes
  draws         : Nat
  sourceFailed  : Bool
  failures      : Nat
  deriving DecidableEq, Repr

/-! ### The link -/

/-- A transmit stream (R58, R64 to R66, R75); epoch and counter are those it seals next. stalled says that it rolled over
before its subkey was ready, and that no packet has met the stall yet (R65). -/
structure TxStream where
  polder    : PolderId
  dest      : Dest
  sid       : BitVec 16
  cls       : BitVec 4
  lane      : Nat
  epoch     : BitVec 32
  counter   : BitVec 32
  key       : Option Key256
  nextKey   : Option Key256
  requested : Bool
  stalled   : Bool
  ended     : Bool
  counts    : List (BitVec 32)
  deriving DecidableEq, Repr

/-- A receive stream (R67, R68, R75): H, W, the window map (bit i for the value W - i) and the three subkeys. -/
structure RxStream where
  polder    : PolderId
  src       : InstId
  sid       : BitVec 16
  group     : Option InstId
  cls       : BitVec 4
  h         : BitVec 32
  w         : BitVec 64
  window    : BitVec 1024
  prevKey   : Option Key256
  key       : Option Key256
  nextKey   : Option Key256
  counts    : List (BitVec 32)
  folded    : BitVec 32
  recordAt  : Option Nat
  deriving DecidableEq, Repr

/-- The inner header of a packet (R54). -/
structure Inner where
  offset     : BitVec 64
  regionKey  : BitVec 32
  seq        : BitVec 32
  ctag       : BitVec 16
  opLength   : BitVec 13
  opcode     : BitVec 8
  classLabel : BitVec 4
  opFlags    : BitVec 4
  modifier   : BitVec 16
  aux        : BitVec 32
  deriving DecidableEq, Repr

/-- A packet released by the receive checks to the FAU, the RMU or the ring directory (R71). -/
structure Released where
  polder  : PolderId
  src     : InstId
  group   : Option InstId
  sid     : BitVec 16
  epoch   : BitVec 32
  counter : BitVec 32
  kind    : BitVec 2
  cls     : BitVec 4
  retry   : Bool
  inner   : Inner
  payload : Bytes
  deriving DecidableEq, Repr

/-- What a packet to be sealed belongs to, for its failure (R538). -/
inductive TxOwner where
  | op (id : Nat)
  | collective (polder : PolderId) (id : BitVec 32)
  | barrier (polder : PolderId) (id : BitVec 32)
  | ring (ring : BitVec 12) (addr : BitVec 64)
  | ringRequest (ring : BitVec 12) (member : BitVec 3) (seq : BitVec 32)
  | none
  deriving DecidableEq, Repr

/-- A packet to be sealed: its destination, class, lane, kind and contents (R56). -/
structure TxPacket where
  polder  : PolderId
  dest    : Dest
  cls     : BitVec 4
  lane    : Nat
  kind    : BitVec 2
  retry   : Bool
  inner   : Inner
  payload : Bytes
  owner   : TxOwner
  deriving DecidableEq, Repr

/-- A multicast group this block has joined (R61). -/
structure McastJoin where
  group  : InstId
  polder : PolderId
  mask   : BitVec 8192
  deriving DecidableEq, Repr

/-- The Link Cipher Engine and the stream store (R50 to R75, R535, R536). txWait holds, in order, the packets in the TX miss
queues and those that back-pressure keeps at their senders; rxWait the RX miss queues, and rxPort what full ones leave at
their ports (R75). newFails holds, by stream not yet open, the failures folded and when the last record was written (R72). -/
structure Link where
  tx         : List TxStream
  rx         : List RxStream
  nextSid    : List ((PolderId × Dest) × Nat)
  joins      : List McastJoin
  malformed  : List (BitVec 8 × BitVec 32)
  unknown    : List (BitVec 8 × BitVec 32)
  txWait     : List TxPacket
  rxWait     : List (StreamRef × BitVec 8 × Bytes)
  rxPort     : List (BitVec 8 × Bytes)
  newFails   : List (StreamRef × BitVec 32 × Nat)
  cached     : List (StreamRef × BitVec 8)
  inbox      : List Released
  deriving DecidableEq, Repr

/-! ### Stacks -/

/-- A core's access held or under way at the SCE, with its polder and its turn: accesses to one data unit are performed
in the order of their turns (R87, R92, R93). -/
structure StackWait where
  req     : StackReq
  polder  : PolderId
  turn    : Nat
  deriving DecidableEq, Repr

/-- A data unit of a range as its lookup found it: its address and length, the check of R92 and the status it failed
with, if any, and its turn among the accesses to the unit (R87). A fill undone or a plot released while it waited fails
it too (R90, R101, R539). -/
structure Lookup where
  addr : Nat
  len  : Nat
  fail : Option (Nat × Status)
  turn : Nat
  deriving DecidableEq, Repr

/-- Who uses a stack range beside cores and the FAU's requests: a bulk copy, a collective that reads a contribution or writes a
result, the home of a line. -/
inductive StackUser where
  | copy (queue : BitVec 8) (index : BitVec 12)
  | source (polder : PolderId) (id : BitVec 32)
  | result (polder : PolderId) (id : BitVec 32)
  | home (ring : BitVec 12) (line : BitVec 37)
  deriving DecidableEq, Repr

/-- A use of a stack range that waits, with what its data units were found to be (R87, R90, R93, R101, R539). -/
structure OtherUse where
  user    : StackUser
  polder  : PolderId
  write   : Bool
  lookups : List Lookup
  deriving DecidableEq, Repr

/-- A zero-fill in progress (R99). -/
structure Fill where
  plot   : BitVec 16
  polder : PolderId
  cls    : BitVec 4
  deriving DecidableEq, Repr

/-- The stacks, their map and the SCE's waiting accesses (R79 to R102). keyWait holds the slices' miss queues (R93),
port the accesses that a slice with a full miss queue has not taken (R94), copies the stack keys that slices hold, by
slice and polder (R42, R305), others what waits beside cores and the FAU, and turns counts the accesses that have
reached their slices (R87). -/
structure Stack where
  mem      : Mem
  bad      : List Nat
  spm      : List (BitVec 16 × BitVec 64)
  fillWait : List StackWait
  keyWait  : List StackWait
  port     : List StackReq
  copies   : List ((Nat × PolderId) × Key512)
  held     : List StackWait
  others   : List OtherUse
  turns    : Nat
  reads    : List StackWait
  fills    : List Fill
  releases : List (BitVec 16 × List (Origin × BitVec 32))
  deriving DecidableEq, Repr

/-! ### Tray memory -/

/-- The states of a parity group (R132). -/
inductive GroupState where
  | normal | degraded | rebuilding | failed
  deriving DecidableEq, Repr

/-- A parity group of the Levee (R127 to R132): the first dead member, the spare taken, the row watermark, and the members that
died after it. -/
structure ParityGroup where
  state     : GroupState
  dead      : Option Nat
  spare     : Option Nat
  watermark : Nat
  others    : List Nat
  lostFrom  : Nat
  deriving DecidableEq, Repr

/-- The storage states of a location (R123). -/
inductive LocState where
  | free | initialising | active | rekeySource | rekeyTarget
  deriving DecidableEq, Repr

/-- The states of an extent (R204, R384). -/
inductive ExtState where
  | free | granting | leased | revoking | revoked
  deriving DecidableEq, Repr

/-- An EXTENT_REKEY in progress (R123): the new location, its nonce and key. -/
structure Rekey where
  location : Nat
  nonce    : BitVec 64
  key      : Option Key512
  copying  : Bool
  waiters  : List (Origin × BitVec 32)
  deriving DecidableEq, Repr

/-- An entry of the extent root table with its lease record (R108, R109, R113, R200). lease is the length asked for,
until the grant sets the expiry (R198); lastPage is the page that the last access touched (R125); the roots of an
EXTENT_REKEY's new location stand at 4 to 7. -/
structure Extent where
  id       : BitVec 13
  state    : ExtState
  polder   : PolderId
  slot     : BitVec 12
  location : Nat
  holder   : BitVec 16
  expiry   : Datum
  lease    : BitVec 16
  hint     : BitVec 2
  lastPage : Option Nat
  nonce    : BitVec 64
  key      : Option Key512
  roots    : List (Nat × BitVec 64)
  rekey    : Option Rekey
  granting : List (Origin × BitVec 32)
  revoking : List (Origin × BitVec 32)
  deriving DecidableEq, Repr

/-- A block of page records (level 0), a tree node (levels 1 to 5) or a tag block (level 6) of a location (R111, R113), as the
block last wrote it to the devices. An unlisted block is as R115 initialises it, or for tags zeros. -/
structure TreeBlock where
  location : Nat
  level    : Nat
  index    : Nat
  device   : BitVec 512
  deriving DecidableEq, Repr

/-- An entry of the CTC (R124): a block of a location, and the hint of its extent when it was inserted (R125). -/
structure CtcEntry where
  location : Nat
  level    : Nat
  index    : Nat
  value    : BitVec 512
  dirty    : Bool
  hint     : BitVec 2
  deriving DecidableEq, Repr

/-- Role T's memory (R105 to R132, R198 to R204). devices holds, for byte o of device d at d × 2^40 + o, the stored byte in
the data area and its parity; in the metadata area the exclusive or of the stored byte with the byte that blocks, parcelMarks
and pageMarks give it, which is 0 as long as the device holds what the block wrote; parity, being an exclusive or, is held in
the same way. badRows lists the device rows whose uncorrectable error could not be repaired (R128); remap names the device
that a rebuild put in another's place; ctc is ordered from the entry used longest ago. -/
structure Tray where
  devices     : Mem
  dead        : List Nat
  errors      : List (Nat × Nat)
  spares      : List Nat
  remap       : List (Nat × Nat)
  groups      : List (Nat × ParityGroup)
  rebuildRate : Nat
  extents     : List Extent
  locations   : List (Nat × LocState)
  blocks      : List TreeBlock
  ctc         : List CtcEntry
  badRows     : List (Nat × Nat)
  parcelMarks : List (Nat × Nat)
  pageMarks   : List (Nat × Nat)
  deriving DecidableEq, Repr

/-! ### The Fabric Access Unit -/

/-- Who asked for a remote operation: a core, or a descriptor of a queue. -/
inductive OpSource where
  | core
  | desc (queue : BitVec 8) (index : BitVec 12)
  deriving DecidableEq, Repr

/-- A sequence space at the requester (R161, R163). -/
structure SeqSpace where
  polder : PolderId
  dest   : Dest
  next   : BitVec 32
  deriving DecidableEq, Repr

/-- An outstanding operation (R152 to R155), one packet to one destination; aux is that of a signal (R176), id is the ctag its
packet carries, and lookups what its sink has been found to be while its answer waits to be written (R136). -/
structure OutOp where
  id       : Nat
  req      : RemoteReq
  source   : OpSource
  polder   : PolderId
  cls      : BitVec 4
  dest     : Dest
  seq      : BitVec 32
  aux      : BitVec 32
  payload  : Bytes
  firstTx  : Option Nat
  lastTx   : Nat
  resends  : Nat
  sentAs   : List (BitVec 16 × BitVec 32 × BitVec 32)
  awaiting : List InstId
  results  : List (InstId × Status)
  fence    : Option Nat
  lookups  : List Lookup
  deriving DecidableEq, Repr

/-- Why a request waits at the requester: it has not been tried, it is behind a fence or a hang, for an outstanding
operation to end (R152), for its sequence space (R163), or for a fill, a key or an earlier access to its local range (R136). -/
inductive WaitCause where
  | new | fence | ops | window | local_
  deriving DecidableEq, Repr

/-- A request that waits in the FAU, with what its source and its sink have been found to be while it waits (R136). -/
structure FauWait where
  req    : RemoteReq
  source : OpSource
  cause  : WaitCause
  reads  : List Lookup
  writes : List Lookup
  deriving DecidableEq, Repr

/-- A fence pending at the requester (R171 to R173); unsent lists the destinations whose packet waits (R152, R163). -/
structure PendingFence where
  id      : Nat
  context : CtxId
  ctag    : BitVec 16
  source  : OpSource
  covers  : List Dest
  earlier : List Nat
  packets : List Nat
  status  : Status
  wide    : Bool
  req     : RemoteReq
  unsent  : List Dest
  deriving DecidableEq, Repr

/-- A region table entry (R139). -/
structure Region where
  index       : Nat
  key         : BitVec 32
  withdrawing : Bool
  signalKind  : Bool
  polderSlot  : BitVec 12
  polder      : PolderId
  perms       : BitVec 5
  length      : BitVec 64
  rttBase     : Nat
  rttCount    : Nat
  firstOffset : BitVec 24
  core        : BitVec 9
  counterBase : BitVec 6
  counterCnt  : BitVec 6
  memobj      : Option (BitVec 13)
  waiters     : List (Origin × BitVec 32)
  deriving DecidableEq, Repr

/-- The receiver's record of a sequence space (R166); bit i of seen stands for the number ar + i. -/
structure SeqRecord where
  polder : PolderId
  src    : InstId
  dest   : Dest
  ar     : BitVec 32
  m      : BitVec 32
  seen   : BitVec 1024
  deriving DecidableEq, Repr

/-- An answer-log entry (R167); data is that of a member's ring answer (R189). -/
structure Answer where
  polder : PolderId
  src    : InstId
  dest   : Dest
  seq    : BitVec 32
  status : Status
  flags  : BitVec 6
  data   : Bytes
  at_    : Nat
  deriving DecidableEq, Repr

/-- An atomic replay table entry (R181): datum is the Datum count, at_ the simulated time its 2 ms run from. -/
structure Replay where
  polder : PolderId
  src    : InstId
  seq    : BitVec 32
  status : Status
  old    : BitVec 64
  width  : Nat
  at_    : Nat
  datum  : Datum
  deriving DecidableEq, Repr

/-- A held fence or signal (R172, R177, R178); noRoom says that its wait for the answer log has been counted. -/
structure Held where
  rel     : Released
  isFence : Bool
  at_     : Nat
  noRoom  : Bool
  deriving DecidableEq, Repr

/-- A request whose data is written and whose acknowledgement is still to come (R169). -/
structure Unacked where
  rel    : Released
  status : Status
  flags  : BitVec 6
  old    : BitVec 64
  region : Nat
  noRoom : Bool
  deriving DecidableEq, Repr

/-- A request that waits to be performed. admitted says that it has passed checks 4 and 5 of R143; lookups holds what its data
units were found to be, once its plots have been looked up (R90); noRoom says that its wait for the answer log or the atomic
table has been counted (R167, R181). -/
structure MemWait where
  rel      : Released
  admitted : Bool
  lookups  : List Lookup
  noRoom   : Bool
  deriving DecidableEq, Repr

/-- The Fabric Access Unit (R134 to R184). keyMiss holds, by region index, the mismatches folded and when the last record
was written (R144). memWait holds the requests that wait on a fill, a key, an earlier access, an initialisation, a rekey or
room for their answer (R87, R92, R123, R167, R201). discards counts the hold queue's discards (R178). -/
structure Fau where
  spaces        : List SeqSpace
  ops           : List OutOp
  nextId        : Nat
  waiting       : List FauWait
  fenceSets     : List (CtxId × Dest)
  fences        : List PendingFence
  lastNonSignal : List ((CtxId × Dest) × BitVec 32)
  dead          : List InstId
  regions       : List Region
  rtt           : List (Nat × BitVec 16)
  records       : List SeqRecord
  answers       : List Answer
  replays       : List Replay
  hold          : List Held
  unacked       : List Unacked
  keyMiss       : List (Nat × BitVec 32 × Nat)
  memWait       : List MemWait
  discards      : BitVec 32
  deriving DecidableEq, Repr

/-! ### Rings -/

/-- The states of a directory entry (R190). -/
inductive LineState where
  | shared | modified | lost
  deriving DecidableEq, Repr

/-- A directory entry (R190); a line that has none is uncached. order is its place in allocation order. -/
structure DirEntry where
  ring    : BitVec 12
  line    : BitVec 37
  state   : LineState
  busy    : Bool
  sharers : BitVec 8
  owner   : BitVec 3
  order   : Nat
  deriving DecidableEq, Repr

/-- What a home's transaction does once its waits are over (R192, R193, R385). -/
inductive RingGoal where
  | serve (msg : Released)
  | makeRoom (msg : Released)
  | destroy
  deriving DecidableEq, Repr

/-- A transaction at the home (R191): the line, the members whose ACK it waits for, and the one whose data it waits for;
answered says that this one has answered the snoop without data, which a WRITE_BACK must then bring (R192). -/
structure RingTxn where
  ring  : BitVec 12
  line  : BitVec 37
  acks  : List (BitVec 3)
  data  : Option (BitVec 3)
  answered : Bool
  goal  : RingGoal
  deriving DecidableEq, Repr

/-- What a member knows of another member (R194, R195). -/
structure RingPeer where
  member : BitVec 3
  last   : Option (BitVec 32)
  at_    : Nat
  dead   : Bool
  deriving DecidableEq, Repr

/-- A ring this block is a member of (R185, R186). -/
structure Ring where
  id         : BitVec 12
  polder     : PolderId
  members    : List InstId
  own        : BitVec 3
  home       : List (BitVec 16)
  active     : Bool
  heartbeat  : BitVec 32
  sentAt     : Nat
  peers      : List RingPeer
  destroying : Option (List (Origin × BitVec 32))
  rttBase    : Nat
  deriving DecidableEq, Repr

/-- A ring request outstanding at a member, or a home's snoop outstanding at another member (R188, R189); firstTx and
lastTx are the times of its first and last transmissions (R154). -/
structure RingReq where
  ring    : BitVec 12
  addr    : BitVec 64
  message : BitVec 4
  member  : BitVec 3
  seq     : BitVec 32
  data    : Bytes
  firstTx : Option Nat
  lastTx  : Nat
  resends : Nat
  deriving DecidableEq, Repr

/-- A snoop of a home that waits for a sequence number (R163, R189). -/
structure SnoopWait where
  ring    : BitVec 12
  member  : BitVec 3
  message : BitVec 4
  addr    : BitVec 64
  deriving DecidableEq, Repr

/-- The caching agent's answer to a snoop while it waits for home memory, or for room in the answer log (R167, R192). -/
structure SnoopReply where
  snoop  : Released
  data   : Option Bytes
  noRoom : Bool
  deriving DecidableEq, Repr

/-- A member's answer to a snoop that waits for home memory, with the line's data if it carries it (R192). -/
structure DataBack where
  ring   : BitVec 12
  line   : BitVec 37
  member : BitVec 3
  data   : Option Bytes
  deriving DecidableEq, Repr

/-- The rings and the ring directory (R185 to R197). waiting holds requests that wait at the home, snoops those that the
caching agent has still to answer, or whose answers wait in replies; backs holds other members' answers that wait for
memory; again holds the copies of answered requests whose GRANT waits for memory (R189); lineWait holds the agent's
requests, and snoopWait the home's snoops, that wait for a sequence number (R163). retired holds the rings destroyed
here whose other homes may still snoop lines of this member (R385). -/
structure Rings where
  rings     : List Ring
  directory : List DirEntry
  nextOrder : Nat
  txns      : List RingTxn
  waiting   : List Released
  requests  : List RingReq
  snoops    : List Released
  replies   : List SnoopReply
  backs     : List DataBack
  again     : List Released
  retired   : List Ring
  lineWait  : List (BitVec 12 × BitVec 4 × BitVec 64 × Bytes)
  snoopWait : List SnoopWait
  deriving DecidableEq, Repr

/-! ### Collectives and barriers -/

/-- A rank of a group (R236). -/
structure RankEntry where
  inst : InstId
  leaf : Nat
  deriving DecidableEq, Repr

/-- A node of a group (R236). -/
structure NodeEntry where
  inst   : InstId
  parent : Nat
  fanIn  : Nat
  deriving DecidableEq, Repr

/-- A sink of a group (R236). -/
structure SinkEntry where
  inst   : InstId
  op     : BitVec 4
  fmt    : BitVec 4
  key    : BitVec 32
  offset : BitVec 40
  deriving DecidableEq, Repr

/-- A group defined on this block (R235). -/
structure Group where
  id       : BitVec 16
  polder   : PolderId
  usable   : Bool
  result   : InstId
  watchdog : Nat
  ranks    : List RankEntry
  nodes    : List NodeEntry
  sinks    : List SinkEntry
  digest   : BitVec 64
  destroy  : List (Origin × BitVec 32)
  deriving DecidableEq, Repr

/-- What a launch fixes of a collective (R239, R243). -/
structure Launch where
  polder     : PolderId
  group      : BitVec 16
  id         : BitVec 32
  modifier   : BitVec 16
  count      : Nat
  threshold  : BitVec 32
  sinkDisp   : BitVec 24
  dstLength  : Nat
  step       : BitVec 64
  mark       : Datum
  deriving DecidableEq, Repr

/-- A collective held by a participant (R239 to R252, R545). sent, acked and credit count elements of the contribution,
or its bytes in a gather; second says that a filter's placement pass has begun. written and through lie in elements of the
result, or in its bytes in a gather or filter. -/
structure Participant where
  launch      : Launch
  context     : CtxId
  cls         : BitVec 4
  queue       : BitVec 8
  index       : BitVec 12
  ctag        : BitVec 16
  src         : BitVec 40
  dst         : BitVec 40
  fired       : Bool
  opened      : Bool
  coded       : Bool
  sent        : Nat
  acked       : Nat
  credit      : Nat
  second      : Bool
  written     : List (Nat × Nat)
  through     : Nat
  chunks      : Nat
  writeStatus : Option Status
  progressAt  : Nat
  deriving DecidableEq, Repr

/-- What a node knows of one child (R246): whether its open packet came, how far it has everything from it, what came
beyond that, and what it may send. -/
structure NodeChild where
  opened  : Bool
  through : Nat
  got     : List (Nat × Nat)
  credit  : Nat
  deriving DecidableEq, Repr

/-- One child's input that a node holds: a block of 256 partial elements, with the places in it of those whose conversion
discarded bits, or a chunk of a filter's contribution (R214, R227, R232, R246). -/
structure NodeInput where
  child  : Nat
  block  : Nat
  values : List (BitVec 128)
  lost   : List Nat
  raw    : Bytes
  deriving DecidableEq, Repr

/-- Something a node sends on: its place and length in the node's own stream, the offset it carries, the lane it travels
on, and its payload; it stays until the parent has received it (R244, R246). -/
structure OutPiece where
  pos     : Nat
  len     : Nat
  offset  : Nat
  lane    : Nat
  payload : Bytes
  sent    : Bool
  deriving DecidableEq, Repr

/-- A collective in progress at a role-S node (R243 to R252). kids follow the order of R214. ackedUp is the parent's
received_through, or at the root what every report has passed. -/
structure CollNode where
  launch     : Launch
  cls        : BitVec 4
  node       : Nat
  root       : Bool
  kids       : List NodeChild
  quanta     : Nat
  window     : Nat
  codes      : List (Nat × Nat × Byte)
  codesUp    : Nat
  bench      : List (Nat × Byte)
  inputs     : List NodeInput
  nextBlock  : Nat
  ready      : List (BitVec 128)
  out        : List OutPiece
  outPos     : Nat
  ackedUp    : Nat
  creditUp   : Nat
  sums       : List (Nat × Nat)
  counted    : Bool
  bases      : List (Nat × Nat)
  second     : Bool
  placed     : List (Nat × Nat)
  cuts       : List (Nat × Nat)
  reports    : List (Nat × Nat)
  sinkFails  : List (Nat × Status)
  flags      : BitVec 6
  outside    : Nat
  outsideAt  : Nat
  firstAt    : Datum
  progressAt : Nat
  deriving DecidableEq, Repr

/-- A sink's record of a collective (R245, R251). adding names the sink entries to which a chunk that still waits has been
added, by the chunk's first element; ended says that done or an abort has come, after which the record only keeps late
copies from being added again. -/
structure SinkRecord where
  polder  : PolderId
  group   : BitVec 16
  id      : BitVec 32
  sink    : Nat
  applied : List (Nat × Nat)
  through : Nat
  chunks  : Nat
  failure : Option Status
  flags   : BitVec 6
  adding  : List (Nat × Nat)
  disp    : BitVec 24
  total   : Nat
  heard   : List (BitVec 16 × BitVec 64)
  ended   : Option (BitVec 16 × Nat)
  deriving DecidableEq, Repr

/-- A collective packet sent and not yet receipted (R246). -/
structure CollSent where
  packet  : TxPacket
  id      : BitVec 32
  below   : Nat
  sentAt  : Nat
  resends : Nat
  deriving DecidableEq, Repr

/-- Collectives (R235 to R254). unrecorded counts lateness of pairs beyond 16,384 (R457), and sinkDrops the results for a
257th collective at a sink (R245). -/
structure Coll where
  groups       : List Group
  participants : List Participant
  nodes        : List CollNode
  sinks        : List SinkRecord
  sent         : List CollSent
  stragglers   : List ((PolderId × InstId) × Straggler)
  unrecorded   : Nat
  sinkDrops    : Nat
  deriving DecidableEq, Repr

/-- A barrier in progress at a participant (R267, R272). -/
structure Arrival where
  polder    : PolderId
  group     : BitVec 16
  id        : BitVec 32
  context   : CtxId
  cls       : BitVec 4
  queue     : BitVec 8
  index     : BitVec 12
  ctag      : BitVec 16
  core      : BitVec 9
  counter   : BitVec 6
  increment : BitVec 32
  start     : Nat
  lastTx    : Nat
  deriving DecidableEq, Repr

/-- A barrier counter at a node (R270): its first arrival came at time first, and at Datum firstAt. -/
structure BarrierCounter where
  polder   : PolderId
  group    : BitVec 16
  id       : BitVec 32
  cls      : BitVec 4
  node     : Nat
  children : BitVec 64
  first    : Nat
  firstAt  : Datum
  sentUp   : Bool
  lastTx   : Nat
  deriving DecidableEq, Repr

/-- An entry of a node's released list (R271). -/
structure ReleasedBarrier where
  polder : PolderId
  group  : BitVec 16
  id     : BitVec 32
  status : Status
  at_    : Nat
  deriving DecidableEq, Repr

/-- Barriers (R267 to R275). -/
structure Barriers where
  arrivals : List Arrival
  counters : List BarrierCounter
  released : List ReleasedBarrier
  dropped  : BitVec 32
  deriving DecidableEq, Repr

/-! ### Sync counters and host objects -/

/-- A pending wait of a core (R260, R262). -/
structure SyncWait where
  req       : ScaReq
  subtracts : Bool
  at_       : Nat
  deriving DecidableEq, Repr

/-- The Signal Counter Array (R256 to R265). -/
structure Sca where
  counters : List ((BitVec 9 × BitVec 6) × BitVec 32)
  waits    : List SyncWait
  held     : List (ScaReq × BitVec 3)
  hints    : List (BitVec 9)
  deriving DecidableEq, Repr

/-- The states of a context that is not FREE (R365). -/
inductive CtxState where
  | bound | stopped | destroying
  deriving DecidableEq, Repr

/-- A STEP_BEGIN acting on its context (R407): the queue and descriptor, the step, the mark, and where it stands; due
says that its mark has fired while its polder was frozen, so that its step begins when the polder resumes (R420). -/
structure StepHold where
  queue : BitVec 8
  index : BitVec 12
  step  : BitVec 64
  mark  : Datum
  atBoundary : Bool
  due   : Bool
  deriving DecidableEq, Repr

/-- A context (R365, R366, R444); resetting holds the resets of it that wait for its running descriptors. -/
structure Context where
  id      : CtxId
  state   : CtxState
  fn      : FnId
  polder  : PolderId
  cls     : BitVec 4
  cores   : BitVec 512
  step    : BitVec 64
  hold    : Option StepHold
  waiters : List (Origin × BitVec 32)
  resetting : List (Origin × BitVec 32) := []
  deriving DecidableEq, Repr

/-- A descriptor that has been started and has not ended (R405); begun once its engine has taken it, and done counts the
bytes that the bulk mover has copied (R406). -/
structure Started where
  index : BitVec 12
  data  : Bytes
  begun : Bool
  done  : Nat
  deriving DecidableEq, Repr

/-- The states of a queue that is not FREE (R368). -/
inductive QueueState where
  | active | halted | destroying
  deriving DecidableEq, Repr

/-- A queue (R367, R368, R405, R511). -/
structure Queue where
  id      : BitVec 8
  state   : QueueState
  context : CtxId
  fn      : FnId
  addr    : BitVec 64
  depth   : Nat
  ring    : BitVec 9
  head    : BitVec 12
  tail    : BitVec 12
  started : List Started
  waiters : List (Origin × BitVec 32)
  deriving DecidableEq, Repr

/-- An event record before its phase is set (R369). -/
structure EventRec where
  ctag    : BitVec 16
  status  : BitVec 8
  kind    : BitVec 8
  queue   : BitVec 8
  context : CtxId
  result  : BitVec 64
  datum   : Datum
  ref     : BitVec 32
  flags   : BitVec 6
  deriving DecidableEq, Repr

/-- An event ring (R369, R370, R513, R514). -/
structure EventRing where
  fn       : FnId
  id       : BitVec 9
  addr     : BitVec 64
  size     : Nat
  vector   : BitVec 16
  head     : Nat
  tail     : Nat
  phase    : Bool
  armed    : Bool
  waiting  : List EventRec
  dropped  : Nat
  inFlight : Nat
  waiters  : List (Origin × BitVec 32)
  deriving DecidableEq, Repr

/-- A memory object that is not FREE (R371, R372); ahead says, for each queue, how many descriptors stood in its ring when
the object was doomed and have not been read since. -/
structure MemObj where
  id      : BitVec 13
  doomed  : Bool
  ahead   : List (BitVec 8 × Nat) := []
  fn      : FnId
  polder  : PolderId
  plots   : List (BitVec 16)
  regions : List Nat
  waiters : List (Origin × BitVec 32)
  deriving DecidableEq, Repr

/-- A wait of a descriptor on a fence (R388). -/
structure FenceWaiter where
  queue  : BitVec 8
  index  : BitVec 12
  target : BitVec 64
  deriving DecidableEq, Repr

/-- A fence object (R373). -/
structure FenceObj where
  id      : BitVec 14
  owner   : CtxId
  fn      : FnId
  value   : BitVec 64
  shares  : List CtxId
  waits   : List FenceWaiter
  deriving DecidableEq, Repr

/-- Host objects (R363 to R374); early holds records of a function whose ring 0 does not exist yet (R369). -/
structure Objects where
  contexts : List Context
  queues   : List Queue
  rings    : List EventRing
  memobjs  : List MemObj
  fences   : List FenceObj
  early    : List (FnId × EventRec)
  lastIssue : BitVec 8
  lastCopy  : BitVec 8
  copiedAt  : Nat
  deriving DecidableEq, Repr

/-! ### Functions, mailboxes and SPDM -/

/-- The states of a VF (R395). -/
inductive VfState where
  | unlocked | locked | run | error
  deriving DecidableEq, Repr

/-- The function reset sequence of a VF (R398). -/
structure FnReset where
  start    : Nat
  drained  : Bool
  squashed : Nat
  waiters  : List (Origin × BitVec 32)
  deriving DecidableEq, Repr

/-- A cached line of a dirty-log buffer (R403). -/
structure DirtyLine where
  vf   : VfId
  buf  : Bool
  line : Nat
  bits : BitVec 512
  deriving DecidableEq, Repr

/-- A VF and its control block (R392 to R404). -/
structure Vf where
  id          : VfId
  enabled     : Bool
  state       : VfState
  forced      : Bool
  cause       : BitVec 4
  badReq      : Bool
  squashed    : BitVec 16
  allot0      : BitVec 32
  allot1      : BitVec 32
  dirtyEnable : Bool
  swapping    : Bool
  activeBuf   : Bool
  allDirty    : Bool
  pages       : BitVec 29
  base        : BitVec 64
  buf0        : BitVec 64
  buf1        : BitVec 64
  reset       : Option FnReset
  deriving DecidableEq, Repr

/-- A mailbox (R352, R353, R509): the two 4 KiB buffers and the doorbell. -/
structure Mailbox where
  fn  : FnId
  req : Mem
  rsp : Mem
  ring : Bool
  deriving DecidableEq, Repr

/-- A pending command (R355, R356); its final response once it has ended. -/
structure PendingCmd where
  origin : Origin
  tag    : BitVec 32
  opcode : BitVec 16
  final  : Option (Status × Bytes)
  deriving DecidableEq, Repr

/-- Where an SPDM session stands. -/
inductive SessionStage where
  | handshake | encapsulated | established
  deriving DecidableEq, Repr

/-- An SPDM session (R337 to R342). -/
structure Session where
  id         : BitVec 32
  sluice     : Sluice
  stage      : SessionStage
  wantMutual : Bool
  mutual_    : Bool
  identity   : Option Digest
  fabricKey  : Bool
  transcript : Digest
  chain      : Bytes
  rxKey      : Key256
  txKey      : Key256
  rxSeq      : BitVec 64
  txSeq      : BitVec 64
  asked      : Nat
  deriving DecidableEq, Repr

/-- A pending KEM offer (R339). -/
structure KemOffer where
  sluice : Sluice
  hash   : Digest
  answer : Digest
  secret : Key256
  at_    : Nat
  deriving DecidableEq, Repr

/-- SPDM responder state (R337 to R341, R354). transcript holds, by sluice, the bytes of the messages in the clear since
GET_VERSION. -/
structure Spdm where
  negotiated : List Sluice
  sessions   : List Session
  offers     : List KemOffer
  lastSigned : List (Sluice × Digest)
  transcript : List (Sluice × Bytes)
  chunksIn   : List ((Sluice × BitVec 8) × Bytes)
  chunksOut  : List ((Sluice × BitVec 8) × Bytes)
  deriving DecidableEq, Repr

/-- An access to a register of the Tracer that waits for the Tracer's domain (R42, R502). -/
inductive RegWork where
  | read (window : Window) (offset : Nat) (wide : Bool)
  | prof (index : BitVec 6) (value : BitVec 32)
  deriving DecidableEq, Repr

/-- Functions, mailboxes, pending commands and SPDM (R346 to R362, R392 to R404), and when the firmware last answered a command,
at which it services its watchdog (R34). -/
structure Functions where
  vfs       : List Vf
  mailboxes : List Mailbox
  pendings  : List PendingCmd
  dirty     : List DirtyLine
  serviced  : Nat
  regWork   : List RegWork
  deriving DecidableEq, Repr

/-! ### Weirs, charts, the Tracer, engines and the Gauge -/

/-- A Weir (R408 to R412, R506): its minima by class, the capacity and level last reported, whether it admits only
guarantees, the miss counters with the time of each class's last record and the misses folded since, and what it last
mirrored into the Tracer: scale, level and misses. -/
structure Weir where
  id          : BitVec 8
  minima      : List Nat
  capacity    : Nat
  level       : BitVec 4
  limited     : Bool
  misses      : List (BitVec 32)
  recordAt    : List (Nat × Nat)
  folded      : List (BitVec 32)
  mirrorScale : Nat
  mirrorLevel : BitVec 4
  mirrored    : List (BitVec 32)
  deriving DecidableEq, Repr

/-- What a freeze fixes of a chart (R418, R419): its datum and salt, its header, the records before and after the deeds
of its state section, its plots and its length. -/
structure Frozen where
  datum   : Datum
  salt    : BitVec 128
  header  : Bytes
  records : Bytes
  extents : Bytes
  plots   : List (BitVec 16)
  len     : Nat
  deriving DecidableEq, Repr

/-- A chart export in progress (R419): frozen once its step 4 has been reached; waits while it waits for keys. -/
structure Export where
  polder : PolderId
  chart  : BitVec 32
  step   : BitVec 64
  addr   : BitVec 64
  len    : BitVec 64
  origin : Origin
  tag    : BitVec 32
  start  : Nat
  frozen : Option Frozen
  waits  : Bool
  fn     : FnId
  deriving DecidableEq, Repr

/-- A chart import in progress (R423); waits while it waits for keys. -/
structure Import where
  polder : PolderId
  memobj : BitVec 13
  chart  : BitVec 32
  addr   : BitVec 64
  len    : BitVec 64
  fn     : FnId
  waits  : Bool
  origin : Origin
  tag    : BitVec 32
  deriving DecidableEq, Repr

/-- The Chart engine (R413 to R427). -/
structure Charts where
  exports : List Export
  imports : List Import
  deriving DecidableEq, Repr

/-- A trace event as written (R477). -/
structure TraceEvent where
  position : Nat
  at_      : Nat
  stamp    : Datum
  code     : BitVec 16
  unit     : BitVec 16
  polder   : PolderId
  context  : Option CtxId
  payload  : Bytes
  deriving DecidableEq, Repr

/-- A profiling select (R474). -/
structure ProfSel where
  index  : BitVec 6
  queue  : BitVec 8
  enable : Bool
  scope  : Bool
  since  : Nat
  bytes  : Nat
  ops    : Nat
  waited : Nat
  before : List Nat
  resetAt : Nat
  deriving DecidableEq, Repr

/-- A hang sample (R441): its slot, its record's number, and the pieces that wait to be sealed. -/
structure Sample where
  slot    : Nat
  seq     : BitVec 64
  datum   : Datum
  unit    : BitVec 16
  number  : BitVec 32
  owners  : List PolderId
  pieces  : List Bytes
  tags    : List (BitVec 128)
  waiting : List Nat
  deriving DecidableEq, Repr

/-- A hang being handled (R439, R440): the suspect under replay, those still to come, when this replay began, and the
RESET commands that wait for its end. -/
structure Hang where
  unit     : BitVec 16
  current  : Option CtxId
  suspects : List CtxId
  units    : List (CtxId × Nat)
  start    : Nat
  waiters  : List (Origin × BitVec 32)
  deriving DecidableEq, Repr

/-- The Tracer: fault ring, event counters, profiling sets and trace ring (R431 to R443, R471 to R479). -/
structure Tracer where
  faults      : List FaultRecord
  nextSeq     : BitVec 64
  overwritten : BitVec 64
  counters    : List (Nat × BitVec 63)
  resetSeen   : List Nat
  prof        : List ProfSel
  sizeMib     : Nat
  enabled     : Bool
  mask        : BitVec 64
  head        : Nat
  ring        : List TraceEvent
  dropped     : Nat
  inFlight    : List TraceEvent
  late        : List TraceEvent
  samples     : List Sample
  nextSample  : BitVec 32
  sealing     : List Sample
  hangs       : List Hang
  floodwatch  : Bool
  deriving DecidableEq, Repr

/-- A capture of a Gauge entry (R490). held says that it waits for the next periodic capture time, refused that it has been
counted as refused (R493). -/
structure Capture where
  kind      : BitVec 8
  polder    : PolderId
  spill     : Bool
  conf      : Bool
  datum     : Datum
  gaugeTime : Nat
  definedAt : Nat
  counters  : List (BitVec 64)
  held      : Bool
  refused   : Bool
  deriving DecidableEq, Repr

/-- A polder entry of the Gauge (R488). -/
structure GaugeEntry where
  polder    : PolderId
  conf      : Bool
  closed    : Bool
  definedAt : Nat
  counters  : List (BitVec 64)
  deriving DecidableEq, Repr

/-- The Gauge (R483 to R494); transit holds what the counting units have accumulated and not yet passed on (R487). -/
structure Gauge where
  powered   : Bool
  keySeed   : BitVec 512
  lcCode    : BitVec 16
  time      : Nat
  entries   : List GaugeEntry
  spill     : List (BitVec 64)
  spillLast : List (BitVec 64)
  transit   : List ((PolderId × Fin 7) × Nat)
  finals    : List Capture
  periodics : List Capture
  records   : List (BitVec 32 × Bytes)
  nextSeq   : BitVec 32
  refused   : BitVec 32
  prev      : Digest
  deriving DecidableEq, Repr

/-! ### Power, culverts and registers -/

/-- A request on its way into a domain: a stack access, a received packet or link notice, a remote request, an SCA request
with its op, or a caching agent's line request. -/
inductive CulvertEntry where
  | stack (r : StackReq)
  | packet (port : BitVec 8) (bytes : Bytes)
  | notice (port : BitVec 8) (bytes : Bytes)
  | remote (r : RemoteReq)
  | sca (op : BitVec 3) (r : ScaReq)
  | line (ring : BitVec 12) (message : BitVec 4) (addr : BitVec 64) (data : Bytes)
  deriving DecidableEq, Repr

/-- A culvert (R44 to R49): whether it is ready, the entries it holds, oldest first, and what its last reset discarded, told
to the surviving side. -/
structure Culvert where
  id        : CulvertId
  ready     : Bool
  entries   : List CulvertEntry
  discarded : Nat
  suspects  : List CtxId
  deriving DecidableEq, Repr

/-- Culverts that are not simply ready and empty (R44 to R49), what waits outside for a full or not-ready culvert (R46), and
when each domain last had work (R41). -/
structure Power where
  culverts : List Culvert
  outside  : List (DomainId × CulvertEntry)
  lastWork : List (DomainId × Nat)
  deriving DecidableEq, Repr

/-- The configuration registers and the half-read latches (R497, R504). -/
structure Regs where
  gateDelayUs : Nat
  waitIdleUs  : Nat
  stragglerUs : Nat
  watchdogMs  : List (Nat × Nat)
  latches     : List ((Window × BitVec 20) × BitVec 32)
  deriving DecidableEq, Repr

/-- The owner of granules of the reserved plot pool (R377). -/
inductive PoolUser where
  | deedStore | staging | traceRing
  | chart (polder : PolderId)
  | spill (polder : PolderId) (collective : BitVec 32)
  deriving DecidableEq, Repr

/-- What leaves the block at its ports (R516), oldest first. A dirtyUpdate reads a 64-byte line of a dirty-log buffer,
ORs the bits in and writes it back (R403). -/
inductive Output where
  | response (o : Origin) (tag : BitVec 32) (opcode : BitVec 16) (status : Status) (payload : Bytes)
  | packet (bytes : Bytes)
  | notice (bytes : Bytes)
  | interrupt (fn : FnId) (vector : BitVec 16)
  | hostWrite (fn : FnId) (addr : BitVec 64) (bytes : Bytes)
  | dirtyUpdate (addr : BitVec 64) (bits : BitVec 512)
  | stackAnswer (context : CtxId) (addr : BitVec 40) (status : Status) (data : Bytes)
  | scaAnswer (core : BitVec 9) (status : Status) (value : BitVec 32)
  | remoteAnswer (context : CtxId) (ctag : BitVec 16) (status : Status) (result : BitVec 64)
  | ringAnswer (ring : BitVec 12) (addr : BitVec 64) (status : Status) (grant : BitVec 2) (data : Bytes)
  | snoop (ring : BitVec 12) (addr : BitVec 64) (message : BitVec 4)
  | floodwatchStop (polder : PolderId) (inst : InstId)
  | functionResetDone (vf : VfId)
  | faultNotice (endpoint : BitVec 8) (record : FaultRecord)
  | registerData (answer : BitVec 8) (data : BitVec 64)
  | spdm (sluice : Sluice) (code : BitVec 8) (payload : Bytes)
  | debugClosed
  deriving DecidableEq, Repr

/-- The state of the block, with the queue of the commands that wait for it. -/
structure State where
  pending : List Instr
  out     : List Output
  time    : Nat
  chip    : Integration
  owner   : OwnerConfig
  pins    : Pins
  boot    : Boot
  fuses   : Fuses
  flash   : Mem
  lc      : LifeCycle
  sb      : SideBand
  datum   : DatumUnit
  polders : List Polder
  cad     : Cadastre
  keys    : KeyUnits
  link    : Link
  stack   : Stack
  tray    : Tray
  fau     : Fau
  rings   : Rings
  coll    : Coll
  bars    : Barriers
  sca     : Sca
  obj     : Objects
  fns     : Functions
  spdm    : Spdm
  weirs   : List Weir
  charts  : Charts
  tracer  : Tracer
  gauge   : Gauge
  power   : Power
  regs    : Regs
  pool    : List (PoolUser × Nat)
  free    : Nat
  deriving DecidableEq, Repr


/-! ### The values after reset. A value for which the spec gives no reset value is marked DESIGN CHOICE in
notes/assumptions/3.md to 5.md. -/

/-- The domains of the control cluster, whose power switches stay on during block reset (R36, R528). -/
def controlCluster : List DomainId :=
  [⟨.wardenCore, 0⟩, ⟨.kcu, 0⟩, ⟨.kcu, 1⟩, ⟨.pku, 0⟩, ⟨.hashUnit, 0⟩, ⟨.entropy, 0⟩, ⟨.cadastre, 0⟩]

/-- Integration values: the figures of the register map for stepping A1 (R503); DESIGN CHOICE where the integrator
decides. -/
def Integration.reset : Integration :=
  { plots := 49152, cores := 512, vfs := 64, poolMib := 1024, poolGbs := 512, switches := [] }

/-- Both resets asserted, no clock stopped, only the control cluster powered (R528). -/
def Pins.reset : Pins :=
  { porN := false, blockRstN := false, sbMode := false, clkStopReq := [], clkStopAck := [],
    pwrEn := controlCluster, pwrGood := controlCluster }

/-- Boot state while block reset is asserted (R507). -/
def Boot.reset : Boot :=
  { stage := .held, reason := 0, role := .e, strapInvalid := false, instanceId := 0, stageAt := 0, image := none,
    codeLocked := false, svn := 0, svnFuse := 0, ifMajor := 0, ifMinor := 0, idRom := false, idImage := false, idFirmware := false,
    rlLocked := false, survey := [], surveyLocked := false, deviceSeed := 0, devicePqSeed := 0, cdi := 0,
    aliasSeed := 0, aliasPqSeed := 0, devicePublic := 0, certificates := [], staged := [], stagedLength := 0,
    rewrite := none, watchdogAt := 0 }

/-- Owner configuration before any is loaded: the default pool of R376; the rest DESIGN CHOICE. -/
def OwnerConfig.reset : OwnerConfig := { fmKey := 0, faultManager := 0, poolPlots := 64 }

/-- An unwritten key slot of the fuses. -/
def FuseKey.blank : FuseKey := { hash := 0, revoked := false }

/-- Unwritten fuses read 0 (R524). -/
def Fuses.reset : Fuses :=
  { root := 0, rootFlag := 0, gaugeSecret := 0, record := ⟨0, 0, 0⟩, intent := ⟨0, 0, 0⟩,
    vendor := [.blank, .blank, .blank, .blank], owner := [.blank, .blank], svn := 0, debugPolicy := 0 }

/-- Life-cycle registers at power-on (R507). -/
def LifeCycle.reset : LifeCycle :=
  { code := 0, state := .blank, intent := false, frozen := false, nonce := none, transition := none, auth := none }

/-- The side-band island at power-on (R507). -/
def SideBand.reset : SideBand :=
  { cause := 0, events := [], outOfService := false, leaving := false, faultCopy := [], unsent := none }

/-- The Datum after block reset (R276, R505). -/
def DatumUnit.reset : DatumUnit :=
  { value := 0, state := .freeRunning, root := false, lockedOnce := false, upstream := 0, hasUpstream := false,
    offset := 0, delay := 0, good := 0, missed := 0, slew := 0, sinceSlew := 0,
    rate := 0, phase := 0, marks := [] }

/-- PVT entry 0 after block reset (R297). -/
def PvtEntry.device : PvtEntry := { handle := 0, generation := 0, state := .live, polderSlot := 0 }

/-- The Cadastre after block reset: every slot FREE, entry 0 of the PVT LIVE (R297, R301). -/
def Cadastre.reset : Cadastre :=
  { ladder := false, wrapKey := 0, poolKey := 0, sealKey := 0, idSeed := 0, bootNonce := 0, slotMask := 0,
    pvt := [.device], slots := [], deeds := [], loads := [] }

/-- The registers of a KCU that runs no job (R311). -/
def KcuRegs.zero : KcuRegs := { key := 0, schedule := [], data := [], first := 0, second := 0 }

/-- An idle Key Cipher Unit. -/
def Kcu.idle : Kcu := { inService := true, job := none, regs := .zero, prefixes := [] }

/-- The KCUs after block reset: in service and idle (R315). -/
def KeyUnits.reset : KeyUnits :=
  { kcu0 := .idle, kcu1 := .idle, queue := [], mismatches := [], instantiated := false, drbg := 0, requests := 0,
    reseededAt := 0, buffer := [], draws := 0, sourceFailed := false, failures := 0 }

/-- The link after block reset: no stream, no join, every counter 0. -/
def Link.reset : Link :=
  { tx := [], rx := [], nextSid := [], joins := [], malformed := [], unknown := [], txWait := [], rxWait := [], rxPort := [],
    newFails := [], cached := [], inbox := [] }

/-- The stacks after block reset: no valid plot (R88). -/
def Stack.reset : Stack :=
  { mem := [], bad := [], spm := [], fillWait := [], keyWait := [], port := [], copies := [], held := [], others := [],
    turns := 0, reads := [], fills := [],
    releases := [] }

/-- The tray: devices 72 and 73 spare (R105), rebuild rate 10 % (R130), no extent. -/
def Tray.reset : Tray :=
  { devices := [], dead := [], errors := [], spares := [72, 73], remap := [], groups := [], rebuildRate := 10, extents := [],
    locations := [], blocks := [], ctc := [], badRows := [], parcelMarks := [], pageMarks := [] }

/-- The Fabric Access Unit after block reset. -/
def Fau.reset : Fau :=
  { spaces := [], ops := [], nextId := 0, waiting := [], fenceSets := [], fences := [], lastNonSignal := [],
    dead := [], regions := [], rtt := [], records := [], answers := [], replays := [], hold := [], unacked := [], keyMiss := [],
    memWait := [], discards := 0 }

/-- No ring, an empty directory. -/
def Rings.reset : Rings :=
  { rings := [], directory := [], nextOrder := 0, txns := [], waiting := [], requests := [], snoops := [],
    replies := [], backs := [], again := [], retired := [], lineWait := [], snoopWait := [] }

/-- No group and no collective. -/
def Coll.reset : Coll :=
  { groups := [], participants := [], nodes := [], sinks := [], sent := [], stragglers := [], unrecorded := 0,
    sinkDrops := 0 }

/-- No barrier. -/
def Barriers.reset : Barriers := { arrivals := [], counters := [], released := [], dropped := 0 }

/-- Every sync counter 0 (R257), no wait. -/
def Sca.reset : Sca := { counters := [], waits := [], held := [], hints := [] }

/-- Every host object FREE (R365 to R373). -/
def Objects.reset : Objects :=
  { contexts := [], queues := [], rings := [], memobjs := [], fences := [], early := [], lastIssue := 255, lastCopy := 255,
    copiedAt := 0 }

/-- No VF enabled, every mailbox zeros, nothing pending. -/
def Functions.reset : Functions := { vfs := [], mailboxes := [], pendings := [], dirty := [], serviced := 0, regWork := [] }

/-- No SPDM session. -/
def Spdm.reset : Spdm :=
  { negotiated := [], sessions := [], offers := [], lastSigned := [], transcript := [], chunksIn := [], chunksOut := [] }

/-- No chart. -/
def Charts.reset : Charts := { exports := [], imports := [] }

/-- The profiling counters (R473, R474). -/
def profCounters : List Nat := (List.range 256).map (0x300 + ·)

/-- The Tracer after block reset: an empty fault ring, every counter 0 with the reset_seen latches of the profiling
counters set by that reset, no trace ring, Floodwatch off (R431, R453, R475). -/
def Tracer.reset : Tracer :=
  { faults := [], nextSeq := 0, overwritten := 0, counters := [], resetSeen := profCounters, prof := [], sizeMib := 0,
    enabled := false, mask := 0, head := 0, ring := [], dropped := 0, inFlight := [], late := [],
    samples := [], nextSample := 0, sealing := [], hangs := [], floodwatch := false }

/-- The Gauge without power (R483, R495). -/
def Gauge.reset : Gauge :=
  { powered := false, keySeed := 0, lcCode := 0, time := 0, entries := [], spill := List.replicate 7 0,
    spillLast := List.replicate 7 0, transit := [], finals := [], periodics := [], records := [], nextSeq := 0, refused := 0,
    prev := 0 }

/-- Every culvert ready and empty. -/
def Power.reset : Power := { culverts := [], outside := [], lastWork := [] }

/-- The configuration registers (R504); watchdogMs lists the kinds set to another value than 20. -/
def Regs.reset : Regs := { gateDelayUs := 10, waitIdleUs := 20, stragglerUs := 10, watchdogMs := [], latches := [] }

/-- The machine right after power-on reset, with both reset inputs still asserted. -/
def State.reset : State :=
  { pending := [], out := [], time := 0, chip := .reset, owner := .reset, pins := .reset, boot := .reset,
    fuses := .reset, flash := [], lc := .reset, sb := .reset, datum := .reset, polders := [], cad := .reset,
    keys := .reset, link := .reset, stack := .reset, tray := .reset, fau := .reset, rings := .reset, coll := .reset,
    bars := .reset, sca := .reset, obj := .reset, fns := .reset, spdm := .reset, weirs := [], charts := .reset,
    tracer := .reset, gauge := .reset, power := .reset, regs := .reset, pool := [], free := 0 }

end Sys2Proof.Machine
end

