-- ==== Sys2Proof/Machine/Ops.lean ====
section
/-! DEFINITION. Named operations over the state: bytes, sparse memory, keyed lists, saturating and event counters,
free values, outputs, host writes, trace events, event records and fault records. -/

namespace Sys2Proof.Machine

/-! ### Numbers and bytes -/

/-- A 32-bit counter that saturates (R73, R412, R431, R457). -/
def satInc (c : BitVec 32) : BitVec 32 := if c = BitVec.allOnes 32 then c else c + 1

/-- A saturating addition to a 32-bit counter. -/
def satAdd (c : BitVec 32) (n : Nat) : BitVec 32 :=
  if c.toNat + n ≥ 4294967295 then BitVec.allOnes 32 else c + BitVec.ofNat 32 n

/-- n bytes of a number, least significant first (R8). -/
def leBytes : Nat → Nat → Bytes
  | 0, _ => []
  | n + 1, v => BitVec.ofNat 8 v :: leBytes n (v / 256)

/-- The number that bytes spell, least significant first (R8). -/
def leNat : Bytes → Nat
  | [] => 0
  | b :: t => b.toNat + 256 * leNat t

/-- n bytes of a number, most significant first. -/
def beBytes (n v : Nat) : Bytes := (leBytes n v).reverse

/-- The number that bytes spell, most significant first. -/
def beNat (b : Bytes) : Nat := leNat b.reverse

/-- The bytes from an offset on, as many as there are up to a length. -/
def slice (b : Bytes) (off len : Nat) : Bytes := (b.drop off).take len

/-- A little-endian field of a byte string. -/
def leField (b : Bytes) (off len : Nat) : Nat := leNat (slice b off len)

/-- Zero bytes. -/
def zeros (n : Nat) : Bytes := List.replicate n 0

/-- A byte string brought to a length: cut, or filled with zeros. -/
def padTo (n : Nat) (b : Bytes) : Bytes := (b ++ zeros n).take n

/-- The bytes of ASCII text. -/
def ascii (t : String) : Bytes := t.toList.map fun c => BitVec.ofNat 8 c.toNat

/-- Byte-wise exclusive or, to the shorter length. -/
def xorBytes (a b : Bytes) : Bytes := List.zipWith (· ^^^ ·) a b

/-- Whether a < b in serial-number arithmetic modulo 2^32 (R162). -/
def serialLt (a b : BitVec 32) : Bool := a ≠ b && (b - a).toNat < 2147483648

/-- Whether a ≤ b in serial-number arithmetic modulo 2^32 (R162). -/
def serialLe (a b : BitVec 32) : Bool := a = b || serialLt a b

/-! ### Keyed lists -/

/-- Set the value of a key. -/
def assocSet {κ ν : Type} [DecidableEq κ] (k : κ) (v : ν) : List (κ × ν) → List (κ × ν)
  | [] => [(k, v)]
  | (k', v') :: t => if k' = k then (k, v) :: t else (k', v') :: assocSet k v t

/-- The value of a key, or a default. -/
def assocGet {κ ν : Type} [DecidableEq κ] (k : κ) (d : ν) (l : List (κ × ν)) : ν := (l.lookup k).getD d

/-- Drop a key. -/
def assocDel {κ ν : Type} [DecidableEq κ] (k : κ) (l : List (κ × ν)) : List (κ × ν) := l.filter fun x => x.1 ≠ k

/-- Replace the first element that satisfies p, or append. -/
def upsert {α : Type} (p : α → Bool) (a : α) : List α → List α
  | [] => [a]
  | x :: t => if p x then a :: t else x :: upsert p a t

/-- Change every element that satisfies p. -/
def alter {α : Type} (p : α → Bool) (f : α → α) (l : List α) : List α := l.map fun x => if p x then f x else x

/-- Keep the last n elements. -/
def lastN {α : Type} (n : Nat) (l : List α) : List α := l.drop (l.length - n)

/-- The element at an index, removed from the list. -/
def removeAt {α : Type} (n : Nat) (l : List α) : List α := l.take n ++ l.drop (n + 1)

/-- The least number below a bound that satisfies p. -/
def leastBelow (bound : Nat) (p : Nat → Bool) : Option Nat := (List.range bound).find? p

/-! ### Sparse memory -/

/-- The canonical form: addresses rise strictly, and no entry holds the value an unlisted address reads as. -/
def Mem.wf (d : Byte) : Mem → Bool
  | [] => true
  | (a, b) :: t => (b != d) && (t.all fun c => decide (a < c.1)) && Mem.wf d t

/-- Read one byte; d is what an unlisted address reads as. -/
def memRead (d : Byte) (m : Mem) (a : Nat) : Byte := (m.lookup a).getD d

/-- Write one byte, keeping the canonical form. -/
def memWrite (d : Byte) (m : Mem) (a : Nat) (b : Byte) : Mem :=
  match m with
  | [] => if b = d then [] else [(a, b)]
  | (x, y) :: t =>
    if a < x then (if b = d then (x, y) :: t else (a, b) :: (x, y) :: t)
    else if a = x then (if b = d then t else (a, b) :: t)
    else (x, y) :: memWrite d t a b

/-- Read n bytes from an address on. -/
def memReadN (d : Byte) (m : Mem) (a : Nat) : Nat → Bytes
  | 0 => []
  | n + 1 => memRead d m a :: memReadN d m (a + 1) n

/-- Write bytes from an address on. -/
def memWriteN (d : Byte) (m : Mem) (a : Nat) : Bytes → Mem
  | [] => m
  | b :: t => memWriteN d (memWrite d m a b) (a + 1) t

/-- Write n bytes that a function gives by their index. -/
def memFill (d : Byte) (m : Mem) (a : Nat) (f : Nat → Byte) : Nat → Mem
  | 0 => m
  | n + 1 => memWrite d (memFill d m a f n) (a + n) (f n)

/-- Bring every byte of a range back to what an unlisted address reads as. -/
def memErase (m : Mem) (a n : Nat) : Mem := m.filter fun c => c.1 < a || a + n ≤ c.1

/-! ### Outputs, free values and event counters -/

/-- Something leaves the block at a port. -/
def emit (o : Output) (s : State) : State := { s with out := s.out ++ [o] }

/-- The next free value (notes/assumptions/2.md). -/
def fresh (s : State) : BitVec 512 := Config.freeValue s.free

/-- One more free value has been taken. -/
def tookFree (s : State) : State := { s with free := s.free + 1 }

/-- Add to an event counter (R471). -/
def countBy (i n : Nat) (s : State) : State :=
  { s with tracer := { s.tracer with
      counters := assocSet i (assocGet i 0 s.tracer.counters + BitVec.ofNat 63 n) s.tracer.counters } }

/-- Add one to an event counter (R471). -/
def count (i : Nat) (s : State) : State := countBy i 1 s

/-- Add to what a counting unit has accumulated for a polder's Gauge counter (R487). -/
def meter (p : PolderId) (c : Fin 7) (n : Nat) (s : State) : State :=
  { s with gauge := { s.gauge with
      transit := assocSet (p, c) (assocGet (p, c) 0 s.gauge.transit + n) s.gauge.transit } }

/-! ### Roles and objects -/

/-- Whether the block is out of reset and runs. -/
def running (s : State) : Bool := s.pins.blockRstN && s.boot.stage != .held

/-- Whether boot has reached READY (R327). -/
def isReady (s : State) : Bool := s.pins.blockRstN && decide (s.boot.stage = .ready)

/-- The definition of a polder. -/
def findPolder (s : State) (p : PolderId) : Option Polder := s.polders.find? fun x => x.id = p

/-- Whether a polder is defined and confidential. -/
def isConfidential (s : State) (p : PolderId) : Bool :=
  match findPolder s p with
  | some q => q.confidential
  | none => false

/-- Whether a polder's teardown has begun: commands that name it are refused (R360). -/
def isTearing (s : State) (p : PolderId) : Bool :=
  match findPolder s p with
  | some q => q.teardown.isSome
  | none => false

/-- Whether POLDER_FATAL has been raised for a polder (R437). -/
def isFatal (s : State) (p : PolderId) : Bool :=
  match findPolder s p with
  | some q => q.fatal
  | none => false

/-- Whether a polder is frozen: by a chart, an import or Floodwatch (R420, R426, R456). -/
def isFrozen (s : State) (p : PolderId) : Bool :=
  match findPolder s p with
  | some q => q.freeze != .none
  | none => false

/-- Change a polder's definition. -/
def modPolder (p : PolderId) (f : Polder → Polder) (s : State) : State :=
  { s with polders := alter (fun x => x.id = p) f s.polders }

/-- Change a polder's counters (R535). -/
def modPolderCounters (p : PolderId) (f : PolderCounters → PolderCounters) (s : State) : State :=
  modPolder p (fun x => { x with counters := f x.counters }) s

/-- A context that is not FREE. -/
def findContext (s : State) (c : CtxId) : Option Context := s.obj.contexts.find? fun x => x.id = c

/-- Change a context. -/
def modContext (c : CtxId) (f : Context → Context) (s : State) : State :=
  { s with obj := { s.obj with contexts := alter (fun x => x.id = c) f s.obj.contexts } }

/-- A queue that is not FREE. -/
def findQueue (s : State) (q : BitVec 8) : Option Queue := s.obj.queues.find? fun x => x.id = q

/-- Change a queue. -/
def modQueue (q : BitVec 8) (f : Queue → Queue) (s : State) : State :=
  { s with obj := { s.obj with queues := alter (fun x => x.id = q) f s.obj.queues } }

/-- An event ring of a function. -/
def findRing (s : State) (fn : FnId) (r : BitVec 9) : Option EventRing :=
  s.obj.rings.find? fun x => x.fn = fn && x.id = r

/-- Change an event ring. -/
def modRing (fn : FnId) (r : BitVec 9) (f : EventRing → EventRing) (s : State) : State :=
  { s with obj := { s.obj with rings := alter (fun x => x.fn = fn && x.id = r) f s.obj.rings } }

/-- A VF as block reset leaves it (R393 to R403); an unlisted VF is as this. -/
def resetVf (n : VfId) : Vf :=
  { id := n, enabled := false, state := .unlocked, forced := false, cause := 0, badReq := false, squashed := 0,
    allot0 := 0, allot1 := 0, dirtyEnable := false, swapping := false, activeBuf := false, allDirty := false,
    pages := 0, base := 0, buf0 := 0, buf1 := 0, reset := none }

/-- A VF. -/
def getVf (s : State) (n : VfId) : Vf := (s.fns.vfs.find? fun v => v.id = n).getD (resetVf n)

/-- Change a VF. -/
def modVf (n : VfId) (f : Vf → Vf) (s : State) : State :=
  { s with fns := { s.fns with vfs := upsert (fun v => v.id = n) (f (getVf s n)) s.fns.vfs } }

/-- Whether a unit is under suspect replay and does not serve a context: it serves only the present suspect (R440). -/
def hungFor (s : State) (unit : BitVec 16) (c : Option CtxId) : Bool :=
  s.tracer.hangs.any fun h => h.unit = unit && !(c.isSome && h.current = c)

/-- The VF of a function number, if it is not the PF (R516). -/
def vfOf (fn : FnId) : Option VfId := if fn = 0 then none else some (BitVec.ofNat 6 (fn.toNat - 1))

/-- The function number of a VF (R516). -/
def fnOf (n : VfId) : FnId := BitVec.ofNat 7 (n.toNat + 1)

/-- The function of a sluice that has one. -/
def sluiceFn : Sluice → Option FnId
  | .pf => some 0
  | .vf n => some (fnOf n)
  | _ => none

/-- Whether a function's reset sequence runs, after which it gets no host write (R399). -/
def fnResetting (s : State) (fn : FnId) : Bool :=
  match vfOf fn with
  | some n => (getVf s n).reset.isSome
  | none => false

/-! ### Host writes and the dirty log -/

/-- Set the bit of one page in the cached line of the active buffer, writing the oldest line back when 256 are held
(R402, R403). Once a swap is set, new writes mark the other buffer (R404). -/
def dirtyPage (n : VfId) (page : Nat) (s : State) : State :=
  let v := getVf s n
  let buf := v.activeBuf != v.swapping
  let hit := fun (l : DirtyLine) => l.vf = n && l.buf = buf && l.line = page / 512
  let bit : BitVec 512 := BitVec.ofNat 512 (2 ^ (page % 512))
  match s.fns.dirty.find? hit with
  | some l => { s with fns := { s.fns with dirty := upsert hit { l with bits := l.bits ||| bit } s.fns.dirty } }
  | none =>
    let line : DirtyLine := { vf := n, buf := buf, line := page / 512, bits := bit }
    match s.fns.dirty with
    | old :: rest =>
      if s.fns.dirty.length < 256 then { s with fns := { s.fns with dirty := s.fns.dirty ++ [line] } }
      else
        let w := getVf s old.vf
        let base := if old.buf then w.buf1 else w.buf0
        emit (.dirtyUpdate (base + BitVec.ofNat 64 (64 * old.line)) old.bits)
          { s with fns := { s.fns with dirty := rest ++ [line] } }
    | [] => { s with fns := { s.fns with dirty := [line] } }

/-- Log a host write of a VF, page by page (R402). -/
def dirtyLog (n : VfId) (addr len : Nat) (s : State) : State :=
  let v := getVf s n
  if v.dirtyEnable && len != 0 then
    let pages := (List.range ((addr + len - 1) / 4096 - addr / 4096 + 1)).map (· + addr / 4096)
    pages.foldl (fun t p =>
      if v.base.toNat / 4096 ≤ p && p - v.base.toNat / 4096 < v.pages.toNat
      then dirtyPage n (p - v.base.toNat / 4096) t
      else modVf n (fun x => { x with allDirty := true }) t) s
  else s

/-- Write back every cached line of one buffer of a VF (R404). -/
def writeBackDirty (n : VfId) (buf : Bool) (s : State) : State :=
  let v := getVf s n
  let mine := s.fns.dirty.filter fun l => l.vf = n && l.buf = buf
  let base := if buf then v.buf1 else v.buf0
  mine.foldl (fun t l => emit (.dirtyUpdate (base + BitVec.ofNat 64 (64 * l.line)) l.bits) t)
    { s with fns := { s.fns with dirty := s.fns.dirty.filter fun l => !(l.vf = n && l.buf = buf) } }

/-- A write to host memory on behalf of a function (R402, R516). -/
def hostWrite (fn : FnId) (addr : BitVec 64) (b : Bytes) (s : State) : State :=
  if fnResetting s fn then s
  else
    match vfOf fn with
    | some n => dirtyLog n addr.toNat b.length (emit (.hostWrite fn addr b) s)
    | none => emit (.hostWrite fn addr b) s

/-! ### Trace events -/

/-- How far behind the Datum a unit's stamp may lie, in ns: three periods of its island's clock (R480). -/
def stampBound (unit : BitVec 16) : Nat :=
  match unit.toNat / 256 with
  | 0x18 => 15
  | 0x17 => 30
  | _ => 3

/-- Whether a domain is in the control cluster (R36). -/
def inCluster (k : DomainKind) : Bool :=
  match k with
  | .wardenCore | .kcu | .pku | .hashUnit | .entropy | .cadastre => true
  | _ => false

/-- The domain of a unit number; the bulk mover's domain is named by no rule. -/
def unitDomain (s : State) (u : BitVec 16) : Option DomainId :=
  let d := fun (k : DomainKind) => some (⟨k, u.extractLsb' 0 8⟩ : DomainId)
  match u.toNat / 256 with
  | 0x01 => d .lceTx | 0x02 => d .lceRx | 0x03 => d .sce | 0x04 => d .pie | 0x05 => d .fau | 0x06 => d .rmuPair
  | 0x07 => d .levee | 0x08 => d .chartEngine | 0x0A => d .tracer | 0x0B => d .kcu | 0x0C => d .wardenCore
  | 0x0E => d .cadastre | 0x0F => d .ctc | 0x10 => d .scaBank
  | 0x11 => if s.boot.role = .s then d .barrierBank else d .barrierUnit
  | 0x12 => d .ringBank | 0x13 => d .weir | 0x14 => d .spmBank | 0x15 => d .replayBank | 0x16 => d .bas
  | 0x19 => d .hostPath
  | _ => none

/-- The Tracer's domain. -/
def tracerDomain : DomainId := ⟨.tracer, 0⟩

/-! ### Values of 32-bit registers -/

/-- The island of a unit, by one of its units: the control cluster is one island, and each other domain one (R37). -/
def islandUnit (s : State) (u : BitVec 16) : BitVec 16 :=
  match unitDomain s u with
  | some d => if inCluster d.kind then 0x0C00 else u
  | none => u

/-- A stamp within the bound of R480; which one is a free value. Stamps of one island never decrease. -/
def stampOf (unit : BitVec 16) (s : State) : Datum :=
  let lag := (fresh s).toNat % (stampBound unit + 1)
  let d := s.datum.value - BitVec.ofNat 64 (min lag s.datum.value.toNat)
  match ((s.tracer.ring ++ s.tracer.inFlight).filter fun e => islandUnit s e.unit = islandUnit s unit).getLast? with
  | some e => if d.toNat < e.stamp.toNat && e.stamp.toNat ≤ s.datum.value.toNat then e.stamp else d
  | none => d

/-- A trace event with its stamp. -/
def stampEvent (e : TraceEvent) (s : State) : TraceEvent × State := ({ e with stamp := stampOf e.unit s }, tookFree s)

/-- Write one event at the trace head, keeping the ring's bytes (R479). -/
def writeTrace (e : TraceEvent) (s : State) : State :=
  { s with tracer := { s.tracer with
    head := s.tracer.head + 32
    ring := lastN (s.tracer.sizeMib * 32768) (s.tracer.ring ++ [{ e with position := s.tracer.head, at_ := s.time }]) } }

/-- How many events the limit of R478 admits in 10 µs. -/
def traceLimit (s : State) : Nat :=
  match s.boot.role with
  | .e => 15000
  | .t => 4800
  | .s => s.chip.poolGbs * 300 / 32

/-- A dropped event is counted (R473, R478). -/
def dropTrace (s : State) : State := count 0x010 { s with tracer := { s.tracer with dropped := s.tracer.dropped + 1 } }

/-- An event reaches the Tracer: it is written under the limit of R478, after a DROP where events have been dropped. -/
def takeTrace (e : TraceEvent) (s : State) : State :=
  let used := (s.tracer.ring.filter fun x => decide (s.time < x.at_ + 10000)).length
  if s.tracer.dropped = 0 then (if traceLimit s ≤ used then dropTrace s else writeTrace e s)
  else if traceLimit s ≤ used + 1 then dropTrace s
  else
    let x := stampEvent { e with code := 0x0006, unit := 0x0A00, polder := 0, context := none,
                                 payload := padTo 16 (leBytes 8 s.tracer.dropped) } s
    writeTrace e (writeTrace x.1 { x.2 with tracer := { x.2.tracer with dropped := 0 } })

/-- Whether the clock of a unit's island is stopped. -/
def emitterStopped (s : State) (unit : BitVec 16) : Bool :=
  match unitDomain s unit with | some d => s.pins.clkStopAck.contains d | none => false

/-- Whether the Tracer takes no events: it is gated, or its clock is stopped. -/
def tracerStopped (s : State) : Bool :=
  !(s.pins.pwrEn.contains tracerDomain && s.pins.pwrGood.contains tracerDomain) || s.pins.clkStopAck.contains tracerDomain

/-- A stamped event goes to the Tracer. While that is stopped, the culvert of the emitter's island holds 16, and what
comes then is dropped (R46, R478). -/
def sendTrace (e : TraceEvent) (s : State) : State :=
  if !tracerStopped s then takeTrace e s
  else if 16 ≤ (s.tracer.inFlight.filter fun x => islandUnit s x.unit = islandUnit s e.unit).length then dropTrace s
  else { s with tracer := { s.tracer with inFlight := s.tracer.inFlight ++ [e] } }

/-- Emit a trace event under its mask bit, R22 and the limit of R478. An island whose clock is stopped stamps nothing:
what happens there is emitted once it runs (R481). -/
def emitTrace (bit : Nat) (code unit : BitVec 16) (p : PolderId) (c : Option CtxId) (payload : Bytes)
    (s : State) : State :=
  if !s.tracer.enabled || s.tracer.sizeMib = 0 || !s.tracer.mask.getLsbD bit || isConfidential s p then s
  else
    let e : TraceEvent := { position := 0, at_ := s.time, stamp := 0, code := code, unit := unit, polder := p, context := c,
                            payload := padTo 16 payload }
    if emitterStopped s unit then { s with tracer := { s.tracer with late := s.tracer.late ++ [e] } }
    else sendTrace (stampEvent e s).1 (stampEvent e s).2

/-- The clock or the power of a domain has come: what its island could not stamp is emitted, and to the Tracer its
culverts deliver what they hold, with the stamps it has (R46, R481). -/
def releaseTrace (d : DomainId) (s : State) : State :=
  let mine := fun (e : TraceEvent) => unitDomain s e.unit = some d
  let late := s.tracer.late.filter mine
  let s := late.foldl (fun t e => sendTrace (stampEvent e t).1 (stampEvent e t).2)
    { s with tracer := { s.tracer with late := s.tracer.late.filter fun e => !mine e } }
  if d ≠ tracerDomain then s
  else s.tracer.inFlight.foldl (fun t e => takeTrace e t) { s with tracer := { s.tracer with inFlight := [] } }

/-! ### Status codes and event records -/

/-- The value of a status code (R382). -/
def statusCode : Status → BitVec 8
  | .ok => 0x00 | .pending => 0x01 | .badParam => 0x02 | .denied => 0x03 | .noSlot => 0x04 | .slotBad => 0x05
  | .orphaned => 0x06 | .breach => 0x07 | .revoked => 0x08 | .targetDead => 0x09 | .outcomeUnknown => 0x0A
  | .lineLost => 0x0B | .polderGone => 0x0C | .exhausted => 0x0D | .timeout => 0x0E | .squashed => 0x0F
  | .syncUnderflow => 0x10 | .syncOverflow => 0x11 | .oversubscribed => 0x12 | .busy => 0x13 | .lcForbids => 0x14
  | .surveyFull => 0x15 | .abandoned => 0x16

/-- The status of a code; a reserved value is none (R12). -/
def statusOf (v : Nat) : Option Status :=
  match v with
  | 0x00 => some .ok | 0x01 => some .pending | 0x02 => some .badParam | 0x03 => some .denied | 0x04 => some .noSlot
  | 0x05 => some .slotBad | 0x06 => some .orphaned | 0x07 => some .breach | 0x08 => some .revoked
  | 0x09 => some .targetDead | 0x0A => some .outcomeUnknown | 0x0B => some .lineLost | 0x0C => some .polderGone
  | 0x0D => some .exhausted | 0x0E => some .timeout | 0x0F => some .squashed | 0x10 => some .syncUnderflow
  | 0x11 => some .syncOverflow | 0x12 => some .oversubscribed | 0x13 => some .busy | 0x14 => some .lcForbids
  | 0x15 => some .surveyFull | 0x16 => some .abandoned | _ => none

/-- The 32 bytes of an event record under a phase (R369). -/
def eventBytes (e : EventRec) (phase : Bool) : Bytes :=
  leBytes 2 e.ctag.toNat ++ [e.status, e.kind, e.queue, 0]
    ++ leBytes 2 (e.context.toNat + (if phase then 32768 else 0))
    ++ leBytes 8 e.result.toNat ++ leBytes 8 e.datum.toNat ++ leBytes 4 e.ref.toNat
    ++ leBytes 1 e.flags.toNat ++ zeros 3

/-- Whether a ring has a slot the block may write: it holds fewer than size − 1 unconsumed records (R370). -/
def ringSpace (r : EventRing) : Bool := (r.tail + r.size - r.head) % r.size < r.size - 1

/-- Write one record into the next slot of a ring, and send its interrupt if it is armed (R369, R514). -/
def writeRecord (fn : FnId) (id : BitVec 9) (e : EventRec) (s : State) : State :=
  match findRing s fn id with
  | none => s
  | some r =>
    let s := hostWrite fn (r.addr + BitVec.ofNat 64 (32 * r.tail)) (eventBytes e r.phase) s
    let s := modRing fn id (fun r => { r with
      tail := (r.tail + 1) % r.size
      phase := if r.tail + 1 = r.size then !r.phase else r.phase
      inFlight := r.inFlight + 1
      armed := false }) s
    if r.armed then emit (.interrupt fn r.vector) s else s

/-- The overflow marker of a ring (R370). -/
def overflowMarker (dropped : Nat) (s : State) : EventRec :=
  { ctag := 0, status := 0, kind := 0x05, queue := 0, context := 0, result := BitVec.ofNat 64 dropped,
    datum := s.datum.value, ref := 0, flags := 0 }

/-- Once space has returned to a ring: its overflow marker, then its waiting records in order, at most n records
(R370). -/
def flushRing (fn : FnId) (id : BitVec 9) : Nat → State → State
  | 0, s => s
  | n + 1, s =>
    match findRing s fn id with
    | none => s
    | some r =>
      if !ringSpace r then s
      else if r.dropped ≠ 0 then
        flushRing fn id n (writeRecord fn id (overflowMarker r.dropped s)
          (modRing fn id (fun r => { r with dropped := 0 }) s))
      else
        match r.waiting with
        | [] => s
        | e :: rest => flushRing fn id n (writeRecord fn id e (modRing fn id (fun r => { r with waiting := rest }) s))

/-- Give an event record to a ring: written, held or dropped as R369, R370 and R399 say. -/
def postEvent (fn : FnId) (id : BitVec 9) (e : EventRec) (s : State) : State :=
  if fnResetting s fn then s
  else
    match findRing s fn id with
    | none =>
      if id ≠ 0 || e.kind = 0x03 then s
      else if e.kind = 0x04 && 64 ≤ (s.obj.early.filter fun x => x.1 = fn).length then count 0x011 s
      else { s with obj := { s.obj with early := s.obj.early ++ [(fn, e)] } }
    | some r =>
      let s := flushRing fn id (r.waiting.length + 1) s
      match findRing s fn id with
      | none => s
      | some r =>
        if ringSpace r && r.waiting.isEmpty then writeRecord fn id e s
        else if e.kind = 0x01 || e.kind = 0x02 then
          modRing fn id (fun r => { r with waiting := r.waiting ++ [e] }) s
        else count 0x011 (modRing fn id (fun r => { r with dropped := r.dropped + 1 }) s)

/-! ### Fault records -/

/-- The fault records of R433, by name. -/
inductive FaultName where
  | linkAuthFail | linkStreamFull | linkMembershipDrop | linkMalformed | linkStreamExhausted
  | stackRefused | stackUncorrectable
  | trayParcelBreach | trayPageBreach | trayDeviceDead | trayRebuildStart | trayRebuildEnd | trayGroupFailed
  | leaseExpired
  | fauRefused | fauKeyMismatch | fauTimeout | fauOutcomeUnknown | fauLoadTargetDead | fauHoldDiscard
  | ringMemberDead | ringHomeLost | syncFault | scaRefused | barrierWatchdog | collectiveOutOfWindow | datumState
  | keySlotBad | keyDeedFailed | keyLoadFailed | kcuOutOfService | entropyFailed | kcuJobRefused
  | weirMiss | queueHalted
  | engineHang | contextFaulted | teardownForced | outOfService | blockReset | floodwatchStop
  deriving DecidableEq, Repr

/-- The code of a fault record (R433). -/
def faultCode : FaultName → BitVec 16
  | .linkAuthFail => 0x0101 | .linkStreamFull => 0x0102 | .linkMembershipDrop => 0x0103 | .linkMalformed => 0x0104
  | .linkStreamExhausted => 0x0105 | .stackRefused => 0x0201 | .stackUncorrectable => 0x0202
  | .trayParcelBreach => 0x0301 | .trayPageBreach => 0x0302 | .trayDeviceDead => 0x0303 | .trayRebuildStart => 0x0304
  | .trayRebuildEnd => 0x0305 | .trayGroupFailed => 0x0306 | .leaseExpired => 0x0307
  | .fauRefused => 0x0401 | .fauKeyMismatch => 0x0402 | .fauTimeout => 0x0403 | .fauOutcomeUnknown => 0x0404
  | .fauLoadTargetDead => 0x0405 | .fauHoldDiscard => 0x0406
  | .ringMemberDead => 0x0501 | .ringHomeLost => 0x0502 | .syncFault => 0x0503 | .scaRefused => 0x0504
  | .barrierWatchdog => 0x0505 | .collectiveOutOfWindow => 0x0506 | .datumState => 0x0507
  | .keySlotBad => 0x0601 | .keyDeedFailed => 0x0602 | .keyLoadFailed => 0x0603 | .kcuOutOfService => 0x0604
  | .entropyFailed => 0x0605 | .kcuJobRefused => 0x0606
  | .weirMiss => 0x0701 | .queueHalted => 0x0702
  | .engineHang => 0x0801 | .contextFaulted => 0x0802 | .teardownForced => 0x0803 | .outOfService => 0x0804
  | .blockReset => 0x0805 | .floodwatchStop => 0x0806

/-- The severity of a fault record (R433); KEY_DEED_FAILED has 2 at checks 1 and 4, named in its first detail byte. -/
def faultSeverity (n : FaultName) (detail : Bytes) : BitVec 2 :=
  match n with
  | .trayRebuildStart | .trayRebuildEnd | .leaseExpired | .datumState | .kcuJobRefused => 0
  | .fauLoadTargetDead | .ringMemberDead | .ringHomeLost | .keySlotBad | .floodwatchStop => 2
  | .trayGroupFailed | .kcuOutOfService | .entropyFailed | .outOfService | .blockReset => 3
  | .keyDeedFailed => if detail.head? = some 1 || detail.head? = some 4 then 2 else 1
  | _ => 1

/-- Whether a fault record is copied to the side-band (R433). -/
def faultOnSideBand (n : FaultName) (detail : Bytes) : Bool :=
  match n with
  | .trayDeviceDead | .trayRebuildStart | .trayRebuildEnd | .trayGroupFailed | .fauLoadTargetDead | .ringMemberDead
  | .ringHomeLost | .keySlotBad | .kcuOutOfService | .entropyFailed | .engineHang | .outOfService | .blockReset
  | .floodwatchStop => true
  | .keyDeedFailed => faultSeverity n detail = 2
  | _ => false

/-- What a rule gives a fault record beside its code (R431). -/
structure FaultInfo where
  unit    : BitVec 16
  status  : BitVec 8 := 0
  polder  : PolderId := 0
  context : Option CtxId := none
  peer    : Option InstId := none
  count   : Nat := 0
  detail  : Bytes := []
  deriving DecidableEq, Repr

/-- The record that the Tracer writes now (R431). -/
def faultRecordOf (n : FaultName) (i : FaultInfo) (s : State) : FaultRecord :=
  { seq := s.tracer.nextSeq, datum := s.datum.value, code := faultCode n, severity := faultSeverity n i.detail,
    status := i.status, unit := i.unit, polder := i.polder, context := i.context, peer := i.peer,
    count := satAdd 0 i.count, detail := padTo 32 i.detail, conf := isConfidential s i.polder }

/-- Put a record into the fault ring of 4,096 records (R431, R434). -/
def pushFault (r : FaultRecord) (s : State) : State :=
  let full := decide (4096 ≤ s.tracer.faults.length)
  { s with tracer := { s.tracer with
      faults := (if full then s.tracer.faults.drop 1 else s.tracer.faults) ++ [r]
      nextSeq := s.tracer.nextSeq + 1
      overwritten := if full then s.tracer.overwritten + 1 else s.tracer.overwritten } }

/-- The mirror record of a fault record (R435). -/
def faultMirror (r : FaultRecord) (s : State) : EventRec :=
  { ctag := 0, status := r.status, kind := 0x04, queue := 0, context := 0, result := r.seq, datum := s.datum.value,
    ref := 0, flags := 0 }

/-- The VF that a record's context or polder belongs to (R435). -/
def recordFn (r : FaultRecord) (s : State) : Option FnId :=
  let byPolder := match findPolder s r.polder with
    | some p => (match p.bound with | .vf n => some (fnOf n) | _ => none)
    | none => none
  match r.context.bind (findContext s) with
  | some c => if c.fn = 0 then byPolder else some c.fn
  | none => byPolder

/-- The owner configuration partition (R322). -/
def ownerPartition (s : State) : Mem := s.flash.filter fun c => 0x100000 ≤ c.1 && c.1 < 0x200000

/-- The MCTP endpoint of the fault manager: the owner configuration names it, as the firmware holds it or as it stands
in flash (R322, R436). -/
def noticeEndpoint (s : State) : BitVec 8 :=
  if s.boot.codeLocked then s.owner.faultManager else Config.ownerFaultManager (ownerPartition s)

/-- Write a fault record: the ring, the side-band copy with its notice, the mirrors, the trace event, and for a record
of severity 2 POLDER_FATAL with the Floodwatch stop (R431 to R437, R454). -/
def writeFault (n : FaultName) (i : FaultInfo) (s : State) : State :=
  let r := faultRecordOf n i s
  let s := pushFault r s
  let s := if faultOnSideBand n i.detail then
      emit (.faultNotice (noticeEndpoint s) r) { s with sb := { s.sb with faultCopy := lastN 64 (s.sb.faultCopy ++ [r]) } }
    else s
  let s := postEvent 0 0 (faultMirror r s) s
  let s := match recordFn r s with
    | some fn => postEvent fn 0 (faultMirror r s) s
    | none => s
  let s := emitTrace 7 0x0701 i.unit i.polder i.context (leBytes 8 r.seq.toNat ++ leBytes 2 r.code.toNat) s
  if r.severity = 2 then
    let s := modPolder i.polder (fun p => { p with fatal := true }) s
    if s.tracer.floodwatch && i.polder ≠ 0 then emit (.floodwatchStop i.polder s.boot.instanceId) s else s
  else s

end Sys2Proof.Machine
end

