-- ==== Sys2Proof/Machine/Datum.lean ====
section
/-! DEFINITION. The Datum: its states, its alignment exchanges and the mark queue (R276 to R285, R546). -/

namespace Sys2Proof.Machine

/-- Change the Datum unit. -/
def modDatum (f : DatumUnit → DatumUnit) (s : State) : State := { s with datum := f s.datum }

/-- How a Datum state is coded in records (R278, R505). -/
def datumCode : DatumState → Nat
  | .freeRunning => 0 | .acquiring => 1 | .locked => 2 | .holdover => 3

/-- Enter a state of the Datum, with its record and trace event (R278). -/
def enterDatumState (new : DatumState) (s : State) : State :=
  let old := s.datum.state
  if old = new then s
  else
    let detail := [BitVec.ofNat 8 (datumCode old), BitVec.ofNat 8 (datumCode new)] ++ leBytes 4 s.datum.offset.toNat
    let s := modDatum (fun d => { d with state := new, lockedOnce := d.lockedOnce || decide (new = .locked) }) s
    emitTrace 0 0x0005 0x0D00 0 none detail (writeFault .datumState { unit := 0x0D00, detail := detail } s)

/-! ### Exchanges (R279) -/

/-- The signed difference of two Datum counts. -/
def datumDiff (a b : Datum) : Int := (a - b).toInt

/-- The offset that an exchange gives (R279). -/
def exchangeOffset (t1 t2 t3 t4 : Datum) : Int := (datumDiff t2 t1 - datumDiff t4 t3) / 2

/-- The path delay that an exchange gives (R279). -/
def exchangeDelay (t1 t2 t3 t4 : Datum) : Int := (datumDiff t2 t1 + datumDiff t4 t3) / 2

/-- Whether alignment exchanges concern this instance: it has an upstream and is not the root. -/
def followsUpstream (s : State) : Bool := running s && s.datum.hasUpstream && !s.datum.root

/-- What an offset says of the rate of the island clock, in nanoseconds for each interval between exchanges and at most
200 ppm of it (R277, R281). What has been left of the offset before is removed when nothing of it is still to be slewed,
and the offset has then grown within the intervals since. An offset within 2 ns changes nothing. DESIGN CHOICE: no rule
gives the control (notes/assumptions/81.md). -/
def rateAfter (off : Int) (d : DatumUnit) : Int :=
  if off.natAbs ≤ 2 || 1 < d.slew.natAbs then d.rate
  else max (-3125) (min 3125 (d.rate - off / (d.missed + 1)))

/-- Remove an offset, correct the rate, and count the exchanges within 2 ns (R277, R278, R281). -/
def steerTo (off : Int) (d : DatumUnit) : DatumUnit :=
  { d with rate := rateAfter off d, slew := -off, good := if off.natAbs ≤ 2 then d.good + 1 else 0 }

/-- What an exchange does to the Datum: a step on the first entry to ACQUIRING before any lock, else a slew; and the
change of state (R277, R278, R546). -/
def applyExchange (off delay : Int) (upstreamLocked : Bool) (s : State) : State :=
  let note := fun (d : DatumUnit) => { d with offset := BitVec.ofInt 32 off, delay := BitVec.ofInt 32 delay, missed := 0 }
  match s.datum.state with
  | .freeRunning =>
    if !upstreamLocked then modDatum note s
    else
      let step := fun (d : DatumUnit) =>
        if d.lockedOnce then { d with slew := -off, good := 0 }
        else { d with value := d.value - BitVec.ofInt 64 off, slew := 0, good := 0 }
      enterDatumState .acquiring (modDatum (fun d => step (note d)) s)
  | .locked =>
    let s := modDatum (fun d => note (steerTo off d)) s
    if off.natAbs ≤ 2 then s else enterDatumState .holdover s
  | _ =>
    let s := modDatum (fun d => note (steerTo off d)) s
    if 16 ≤ s.datum.good then enterDatumState .locked s else s

/-! ### Marks (R282 to R284) -/

/-- What accepting a mark comes to. -/
inductive MarkUse where
  | refused (status : Status)
  | now
  | later
  deriving DecidableEq, Repr

/-- Judge a mark (R282, R284). -/
def markUse (m : Datum) (s : State) : MarkUse :=
  match s.datum.state with
  | .freeRunning | .acquiring => .refused .busy
  | _ =>
    if s.datum.value.toNat + 68719476736 < m.toNat then .refused .badParam
    else if m.toNat ≤ s.datum.value.toNat then .now
    else if 1024 ≤ s.datum.marks.length then .refused .busy
    else .later

/-- Count a mark that the Datum has already passed (R284). -/
def countLate (m : Datum) (s : State) : State := if m.toNat < s.datum.value.toNat then count 0x004 s else s

/-- Put an action into the mark queue. -/
def enqueueMark (m : Datum) (a : MarkAction) (s : State) : State :=
  modDatum (fun d => { d with marks := d.marks ++ [{ mark := m, action := a }] }) s

/-- Drop the queued actions that a test names. -/
def dropMarks (f : MarkAction → Bool) (s : State) : State :=
  modDatum (fun d => { d with marks := d.marks.filter fun e => !f e.action }) s

/-- The entry with the earliest mark, the first queued among equals (R283). -/
def earliestMark (s : State) : Option MarkEntry :=
  s.datum.marks.foldl (fun best e => match best with
    | none => some e
    | some b => if e.mark.toNat < b.mark.toNat then some e else some b) none

/-- The polder whose action this is (R285). -/
def markPolder : MarkAction → PolderId
  | .membership p _ | .ringCreate p _ | .groupDefine p _ | .launch p _ | .stepBegin p _ | .ringDestroy p _ _ _
  | .chartResume p _ => p

/-- The place of an action in R282. -/
def markOrder : MarkAction → Nat
  | .membership _ _ => 0 | .ringCreate _ _ => 1 | .groupDefine _ _ => 2 | .launch _ _ => 3 | .stepBegin _ _ => 4
  | .ringDestroy _ _ _ _ => 5 | .chartResume _ _ => 6

/-! ### Meanings -/

/-- DATUM_EXCHANGE (R278, R279). -/
def execDatumExchange (t1 t2 t3 t4 : BitVec 64) (upstreamLocked : Bool) (s : State) :
    Host.Outcome State Fault Refusal :=
  .next <|
    if followsUpstream s then applyExchange (exchangeOffset t1 t2 t3 t4) (exchangeDelay t1 t2 t3 t4) upstreamLocked s
    else s

/-- DATUM_EXCHANGE_MISSED (R278): the eighth in a row leaves ACQUIRING for FREE_RUNNING, or LOCKED for HOLDOVER. -/
def execDatumExchangeMissed (s : State) : Host.Outcome State Fault Refusal :=
  .next <|
    if followsUpstream s then
      let s := modDatum (fun d => { d with missed := d.missed + 1, good := 0 }) s
      if s.datum.missed < 8 then s
      else
        match s.datum.state with
        | .acquiring => enterDatumState .freeRunning s
        | .locked => enterDatumState .holdover s
        | _ => s
    else s

end Sys2Proof.Machine
end

