-- ==== Sys2Proof/Machine/Flags.lean ====
section
/-! DEFINITION. Reduction arithmetic: formats, exact values, the canonical-tree and benchmarked modes, final rounding and
the reduction flags (chapter 9). -/

namespace Sys2Proof.Machine

/-! ### Reduction flags (R227) -/

/-- A NaN arose from inputs that were not NaN. -/
def flagInvalid : BitVec 6 := 0x01
/-- A NaN input was seen. -/
def flagNanIn : BitVec 6 := 0x02
/-- A rule of R213, R223 or R226 names an overflow. -/
def flagOverflow : BitVec 6 := 0x04
/-- A nonzero exact result rounded, inexactly, to a subnormal or to zero. -/
def flagUnderflow : BitVec 6 := 0x08
/-- A final rounding or saturation changed a value. -/
def flagInexact : BitVec 6 := 0x10
/-- Conversion to the window discarded bits. -/
def flagPrecisionLoss : BitVec 6 := 0x20

/-! ### The op_modifier (R205, R206, R208) -/

/-- Bits [3:0]. -/
def redOp (m : BitVec 16) : Nat := (m.extractLsb' 0 4).toNat
/-- Bits [7:4]. -/
def redIn (m : BitVec 16) : Nat := (m.extractLsb' 4 4).toNat
/-- Bits [11:8]. -/
def redOut (m : BitVec 16) : Nat := (m.extractLsb' 8 4).toNat
/-- Bits [13:12]. -/
def redRounding (m : BitVec 16) : Nat := (m.extractLsb' 12 2).toNat
/-- Bit [14]: benchmarked mode. -/
def redBenchmarked (m : BitVec 16) : Bool := m.getLsbD 14

/-- Whether a format code is one of the MX formats (R207). -/
def isMx (f : Nat) : Bool := 6 ≤ f && f ≤ 11

/-- Whether a reduction op_modifier is no invalid combination (R208); remote says reduce into remote memory. -/
def redValid (m : BitVec 16) (remote : Bool) : Bool :=
  redOp m ≤ 5 && redIn m ≤ 11 && redOut m ≤ 11 && redRounding m ≠ 3 && !m.getLsbD 15
    && (redIn m == 5) == (redOut m == 5)
    && !(redIn m = 5 && (redRounding m ≠ 0 || redOp m = 3))
    && !(redOp m = 4 && redOut m ≠ redIn m)
    && !(redOp m = 5 && (isMx (redIn m) || isMx (redOut m)))
    && !(remote && (2 < redOp m || redBenchmarked m || redRounding m = 2))

/-! ### Values and formats (R207 to R212) -/

/-- A decoded element: NaN, an infinity, or (−1)^neg × mag × 2^exp, with a signed zero when mag is 0. -/
inductive Val where
  | nan
  | inf (neg : Bool)
  | fin (neg : Bool) (mag : Nat) (exp : Int)
  deriving DecidableEq, Repr

/-- An exact value before final rounding: as Val, divided by den (R223). -/
structure Exact where
  val : Val
  den : Nat
  deriving DecidableEq, Repr

/-- A binary element format: stored bits, mantissa bits, bias, exponent of the least normal number, the greatest finite
significand and its quantum exponent, whether it has infinities, and its canonical NaN (R209). -/
structure Fmt where
  bits : Nat
  mant : Nat
  bias : Int
  emin : Int
  nmax : Nat
  qmax : Int
  inf  : Bool
  nan  : Nat
  deriving DecidableEq, Repr

/-- Binary32. -/
def fmtFp32 : Fmt :=
  { bits := 32, mant := 23, bias := 127, emin := -126, nmax := 16777215, qmax := 104, inf := true, nan := 0x7FC00000 }

/-- Binary64, in which max and min partials travel (R533). -/
def fmtFp64 : Fmt :=
  { bits := 64, mant := 52, bias := 1023, emin := -1022, nmax := 9007199254740991, qmax := 971, inf := true,
    nan := 0x7FF8000000000000 }

/-- The element format of a format code; int32 and MXINT8 are not binary floating formats (R207, R209). -/
def elementFmt (f : Nat) : Fmt :=
  match f with
  | 1 => { bits := 16, mant := 7, bias := 127, emin := -126, nmax := 255, qmax := 120, inf := true, nan := 0x7FC0 }
  | 2 => { bits := 16, mant := 10, bias := 15, emin := -14, nmax := 2047, qmax := 5, inf := true, nan := 0x7E00 }
  | 3 | 6 => { bits := 8, mant := 3, bias := 7, emin := -6, nmax := 14, qmax := 5, inf := false, nan := 0x7F }
  | 4 | 7 => { bits := 8, mant := 2, bias := 15, emin := -14, nmax := 7, qmax := 13, inf := true, nan := 0x7E }
  | 8 => { bits := 6, mant := 2, bias := 3, emin := -2, nmax := 7, qmax := 2, inf := false, nan := 0 }
  | 9 => { bits := 6, mant := 3, bias := 1, emin := 0, nmax := 15, qmax := -1, inf := false, nan := 0 }
  | 10 => { bits := 4, mant := 1, bias := 1, emin := 0, nmax := 3, qmax := 1, inf := false, nan := 0 }
  | _ => fmtFp32

/-- emax of an MX element format (R226 step 1). -/
def mxEmax (f : Nat) : Int :=
  match f with
  | 6 => 8 | 7 => 15 | 8 => 4 | 9 => 2 | 10 => 2 | _ => 0

/-- Decode an element of a binary format to its exact value (R209, R211). -/
def decodeFmt (t : Fmt) (code : Nat) : Val :=
  let neg := code / 2 ^ (t.bits - 1) % 2 = 1
  let mant := code % 2 ^ t.mant
  let e := code / 2 ^ t.mant % 2 ^ (t.bits - 1 - t.mant)
  if t.inf && e + 1 = 2 ^ (t.bits - 1 - t.mant) then (if mant = 0 then .inf neg else .nan)
  else if !t.inf && t.bits = 8 && code % 128 = 127 then .nan
  else if e = 0 then .fin neg mant (t.emin - t.mant)
  else .fin neg (2 ^ t.mant + mant) ((e : Int) - t.bias - t.mant)

/-- A signed byte, or word, as an exact value. -/
def signedVal (width code : Nat) (exp : Int) : Val :=
  if code < 2 ^ (width - 1) then .fin false code exp else .fin true (2 ^ width - code) exp

/-- An element's value times 2^x (R212). -/
def Val.scale (v : Val) (x : Int) : Val :=
  match v with
  | .fin n m e => .fin n m (e + x)
  | v => v

/-! ### Layout (R207, R212, R532) -/

/-- Bytes of an element of a format that is no MX format, or of a tile of one that is (R207). -/
def unitBytes (f : Nat) : Nat :=
  match f with
  | 0 | 5 => 4 | 1 | 2 => 2 | 3 | 4 => 1 | 6 | 7 | 11 => 2112 | 8 | 9 => 1600 | 10 => 1088 | _ => 1

/-- Elements in that many bytes (R207). -/
def unitElems (f : Nat) : Nat := if isMx f then 2048 else 1

/-- Bits of an MX element. -/
def mxBits (f : Nat) : Nat := match f with | 8 | 9 => 6 | 10 => 4 | _ => 8

/-- The bytes of n elements; a part of a tile counts as a whole one (R212). -/
def elemBytes (f n : Nat) : Nat := (n + unitElems f - 1) / unitElems f * unitBytes f

/-- Decode the code of an MX element. -/
def decodeMxElem (f code : Nat) : Val := if f = 11 then signedVal 8 code (-6) else decodeFmt (elementFmt f) code

/-- Decode one MX block: its scale byte and its element string (R212). -/
def decodeMxBlock (f scale : Nat) (b : Bytes) : List Val :=
  let all := leNat b
  (List.range 32).map fun k =>
    if scale = 255 then .nan
    else (decodeMxElem f (all / 2 ^ (mxBits f * k) % 2 ^ mxBits f)).scale ((scale : Int) - 127)

/-- Decode one tile (R212). -/
def decodeTile (f : Nat) (b : Bytes) : List Val :=
  (List.range 64).flatMap fun m =>
    decodeMxBlock f (leField b m 1) (slice b (64 + m * (4 * mxBits f)) (4 * mxBits f))

/-- Decode every element of a byte string, whole units only (R209, R532). -/
def decodeVals (f : Nat) (b : Bytes) : List Val :=
  (List.range (b.length / unitBytes f)).flatMap fun i =>
    let u := slice b (i * unitBytes f) (unitBytes f)
    if isMx f then decodeTile f u
    else if f = 5 then [signedVal 32 (leNat u) 0]
    else [decodeFmt (elementFmt f) (leNat u)]

/-! ### Rounding a magnitude (R223, R224) -/

/-- floor(log2(m × 2^e / d)) for m and d above zero. -/
def floorLog2 (m : Nat) (e : Int) (d : Nat) : Int :=
  let k : Int := (Nat.log2 m : Int) - Nat.log2 d
  let fits := if 0 ≤ k then d * 2 ^ k.toNat ≤ m else d ≤ m * 2 ^ (-k).toNat
  (if fits then k else k - 1) + e

/-- Round m × 2^e / d to a multiple of 2^q: the multiple, and whether it is exact; r is the dither value. -/
def roundAt (rounding r m : Nat) (e : Int) (d : Nat) (q : Int) : Nat × Bool :=
  let num := if q ≤ e then m * 2 ^ (e - q).toNat else m
  let den := if q ≤ e then d else d * 2 ^ (q - e).toNat
  let n := num / den
  let rem := num % den
  if rem = 0 then (n, true)
  else
    let up := match rounding with
      | 0 => decide (den < 2 * rem) || (decide (2 * rem = den) && n % 2 = 1)
      | 1 => false
      | _ => decide (65536 ≤ rem * 65536 / den + r)
    (if up then n + 1 else n, false)

/-- The quantum exponent at which a magnitude is rounded (R223). -/
def quantum (t : Fmt) (m : Nat) (e : Int) (d : Nat) : Int := max (floorLog2 m e d) t.emin - t.mant

/-- Whether n × 2^q exceeds the greatest finite magnitude. -/
def exceeds (t : Fmt) (n : Nat) (q : Int) : Bool := t.qmax < q || (q = t.qmax && t.nmax < n)

/-- The code of sign and n × 2^q, n at most 2^(mant + 1). -/
def encodeMag (t : Fmt) (neg : Bool) (n : Nat) (q : Int) : Nat :=
  let s := if neg then 2 ^ (t.bits - 1) else 0
  if n < 2 ^ t.mant then s + n
  else if n < 2 ^ (t.mant + 1) then s + (q + t.mant + t.bias).toNat * 2 ^ t.mant + (n - 2 ^ t.mant)
  else s + (q + 1 + t.mant + t.bias).toNat * 2 ^ t.mant

/-- The code of an infinity. -/
def encodeInf (t : Fmt) (neg : Bool) : Nat :=
  (if neg then 2 ^ (t.bits - 1) else 0) + (2 ^ (t.bits - 1 - t.mant) - 1) * 2 ^ t.mant

/-- Final rounding of one exact value to a binary format: its code and its flags. saturate says that a magnitude past the
greatest finite one saturates without overflow (R223, R226, R227). -/
def encodeFmt (t : Fmt) (rounding r : Nat) (saturate : Bool) (v : Exact) : Nat × BitVec 6 :=
  match v.val with
  | .nan => (t.nan, 0)
  | .inf neg =>
    if t.inf then (encodeInf t neg, 0) else (encodeMag t neg t.nmax t.qmax, flagOverflow ||| flagInexact)
  | .fin neg 0 _ => (encodeMag t neg 0 0, 0)
  | .fin neg m e =>
    let q := quantum t m e v.den
    let (n, exact) := roundAt rounding r m e v.den q
    if exceeds t n q then
      if saturate then (encodeMag t neg t.nmax t.qmax, flagInexact)
      else
        (if t.inf && rounding ≠ 1 then encodeInf t neg else encodeMag t neg t.nmax t.qmax, flagOverflow ||| flagInexact)
    else
      (encodeMag t neg n q,
        if exact then 0 else flagInexact ||| (if n < 2 ^ t.mant then flagUnderflow else 0))

/-- Final rounding of one exact value to an MXINT8 element (R226). -/
def encodeInt8 (rounding r : Nat) (saturate : Bool) (v : Exact) : Nat × BitVec 6 :=
  let code := fun (neg : Bool) (n : Nat) => if neg && n ≠ 0 then 256 - n else n
  match v.val with
  | .nan => (0, 0)
  | .inf neg => (code neg 127, flagOverflow ||| flagInexact)
  | .fin neg m e =>
    let (n, exact) := roundAt rounding r m e v.den (-6)
    if 127 < n then (code neg 127, if saturate then flagInexact else flagOverflow ||| flagInexact)
    else (code neg n, if exact then 0 else flagInexact ||| (if n = 0 then flagUnderflow else 0))

/-- Pack element codes of a width, the first in the lowest bits (R212). -/
def packCodes (width : Nat) : List Nat → Nat
  | [] => 0
  | c :: t => c + 2 ^ width * packCodes width t

/-- Whether an exact value is a NaN. -/
def Exact.isNan (v : Exact) : Bool := match v.val with | .nan => true | _ => false

/-- floor(log2 |v|) of a finite nonzero value. -/
def Exact.log2 (v : Exact) : Option Int :=
  match v.val with
  | .fin _ m e => if m = 0 then none else some (floorLog2 m e v.den)
  | _ => none

/-- The greatest of a list of integers. -/
def greatest : List Int → Option Int
  | [] => none
  | x :: t => match greatest t with | some y => some (max x y) | none => some x

/-- Encode one MX block: scale byte, element bytes and flags; r gives the dither value of an element of the block
(R226). DESIGN CHOICE: a NaN that makes the whole block 0xFF with zero elements raises no flag for the block's other results
(notes/assumptions/37.md). -/
def encodeMxBlock (f rounding : Nat) (r : Nat → Nat) (vs : List Exact) : Nat × Bytes × BitVec 6 :=
  if (8 ≤ f) && vs.any Exact.isNan then (255, zeros (4 * mxBits f), 0)
  else
    let x : Int := match greatest (vs.filterMap Exact.log2) with
      | some l => max (-127) (min 127 (l - mxEmax f))
      | none => 0
    let rs := (vs.zipIdx).map fun p =>
      let v : Exact := { p.1 with val := p.1.val.scale (-x) }
      if f = 11 then encodeInt8 rounding (r p.2) (x ≠ 127) v
      else encodeFmt (elementFmt f) rounding (r p.2) (x ≠ 127) v
    ((x + 127).toNat, leBytes (4 * mxBits f) (packCodes (mxBits f) (rs.map (·.1))),
      rs.foldl (fun a p => a ||| p.2) 0)

/-- Cut a list into runs of n, at most k runs, the last filled up with a value. -/
def runsOf {α : Type} (n : Nat) (fill : α) : Nat → List α → List (List α)
  | 0, _ => []
  | k + 1, l => (l.take n ++ List.replicate (n - l.length) fill) :: runsOf n fill k (l.drop n)

/-- Encode a run of exact values to the bytes of a format, with the flags; r gives the dither value of an element of the
run (R223 to R226). Tiles are filled up with zeros (R212). -/
def encodeVals (f rounding : Nat) (r : Nat → Nat) (vs : List Exact) : Bytes × BitVec 6 :=
  if isMx f then
    let tiles := runsOf 2048 ⟨.fin false 0 0, 1⟩ ((vs.length + 2047) / 2048) vs
    (tiles.zipIdx).foldl (fun (acc : Bytes × BitVec 6) t =>
      let bs := ((runsOf 32 ⟨.fin false 0 0, 1⟩ 64 t.1).zipIdx).map fun b =>
        encodeMxBlock f rounding (fun k => r (2048 * t.2 + 32 * b.2 + k)) b.1
      (acc.1 ++ bs.map (fun b => BitVec.ofNat 8 b.1) ++ bs.flatMap (fun b => b.2.1),
        bs.foldl (fun a b => a ||| b.2.2) acc.2)) ([], 0)
  else
    (vs.zipIdx).foldl (fun (acc : Bytes × BitVec 6) p =>
      let e := encodeFmt (elementFmt f) rounding (r p.2) false p.1
      (acc.1 ++ leBytes (unitBytes f) e.1, acc.2 ||| e.2)) ([], 0)

/-! ### Canonical-tree arithmetic (R213, R214) -/

/-- An element as binary32: an MX magnitude of 2^128 or more becomes an infinity with the overflow flag (R213). A NaN
input sets nan_in (R227). -/
def toFp32 (v : Val) : Val × BitVec 6 :=
  match v with
  | .nan => (.nan, flagNanIn)
  | .fin n m e => if m ≠ 0 && (128 ≤ floorLog2 m e 1) then (.inf n, flagOverflow) else (v, 0)
  | v => (v, 0)

/-- The exact sum of two values, with the IEEE rules for zeros and infinities. -/
def addVal (a b : Val) : Val :=
  match a, b with
  | .nan, _ | _, .nan => .nan
  | .inf x, .inf y => if x = y then .inf x else .nan
  | .inf x, _ => .inf x
  | _, .inf y => .inf y
  | .fin x m e, .fin y n f =>
    let g := min e f
    let p : Int := (m * 2 ^ (e - g).toNat : Nat)
    let q : Int := (n * 2 ^ (f - g).toNat : Nat)
    let t := (if x then -p else p) + (if y then -q else q)
    if t = 0 then .fin (x && y) 0 0 else .fin (t < 0) t.natAbs g

/-- Binary32 addition with roundTiesToEven, and invalid when a NaN arises (R214, R227). -/
def addFp32 (a b : Val) : Val × BitVec 6 :=
  let t := addVal a b
  (decodeFmt fmtFp32 (encodeFmt fmtFp32 0 0 false ⟨t, 1⟩).1,
    if t = .nan && a ≠ .nan && b ≠ .nan then flagInvalid else 0)

/-! ### Max and min (R228, R533) -/

/-- Whether a < b, exactly, for values that are no NaN; −0 lies below +0. -/
def ltVal (a b : Val) : Bool :=
  match a, b with
  | .inf x, .inf y => x && !y
  | .inf x, _ => x
  | _, .inf y => !y
  | .fin x m e, .fin y n f =>
    let g := min e f
    let p : Int := (m * 2 ^ (e - g).toNat : Nat)
    let q : Int := (n * 2 ^ (f - g).toNat : Nat)
    let p := if x then -p else p
    let q := if y then -q else q
    p < q || (p = q && x && !y)
  | _, _ => false

/-- The greater, or the lesser, of two values; any NaN gives NaN (R228). -/
def pickVal (least : Bool) (a b : Val) : Val :=
  if a = .nan || b = .nan then .nan
  else if least then (if ltVal b a then b else a) else (if ltVal a b then b else a)

/-! ### Benchmarked mode (R216 to R221) -/

/-- The benchmark code of a block's elements (R216). -/
def benchmarkCode (vs : List Val) : Byte :=
  match greatest (vs.filterMap fun v => Exact.log2 ⟨v, 1⟩) with
  | none => 0
  | some e => BitVec.ofNat 8 (max (e + 1) (-37) + 64).toNat

/-- The benchmark that a reduced code gives (R216). -/
def benchmarkOf (c : Byte) : Int := (max c.toNat 0x1B : Int) - 64

/-- A special partial with its flags (R218). -/
def special (flags : Nat) : BitVec 128 := BitVec.ofNat 128 (2 ^ 127 + flags)

/-- Whether a partial is special (R218). -/
def isSpecial (p : BitVec 128) : Bool := p.extractLsb' 4 124 = BitVec.ofNat 124 (2 ^ 123)

/-- Convert an element to the window of benchmark b, with the flags it raises (R217, R218). -/
def toWindow (b : Int) (v : Val) : BitVec 128 × BitVec 6 :=
  match v with
  | .nan => (special 1, flagNanIn)
  | .inf neg => (special (if neg then 4 else 2), 0)
  | .fin neg m e =>
    if m = 0 then (0, 0)
    else if b ≤ floorLog2 m e 1 then (special 8, 0)
    else
      let s := e + 112 - b
      if 0 ≤ s then
        let x : Int := (m * 2 ^ s.toNat : Nat)
        (BitVec.ofInt 128 (if neg then -x else x), 0)
      else
        let d : Int := (2 ^ (-s).toNat : Nat)
        let x : Int := if neg then -(m : Int) else m
        (BitVec.ofInt 128 (x.fdiv d), if x.fmod d = 0 then 0 else flagPrecisionLoss)

/-- Combine two partials (R218, R219). -/
def combineWindow (p q : BitVec 128) : BitVec 128 :=
  if isSpecial p && isSpecial q then p ||| q
  else if isSpecial p then p
  else if isSpecial q then q
  else p + q

/-- The value of a final partial with the flags it raises, and whether an out-of-window element was seen (R221). -/
def windowVal (b : Int) (p : BitVec 128) : Val × BitVec 6 × Bool :=
  if isSpecial p then
    let nan := p.getLsbD 0
    let pos := p.getLsbD 1
    let neg := p.getLsbD 2
    let outside := p.getLsbD 3
    if nan || outside || (pos && neg) then
      (.nan, if outside || (pos && neg) then flagInvalid else 0, outside)
    else (.inf neg, 0, false)
  else
    let x := p.toInt
    (.fin (x < 0) x.natAbs (b - 112), 0, false)

/-! ### Reduce into remote memory (R149, R233) -/

/-- Combine one stored and one payload element of a floating format under operation op (R233). -/
def reducePair (op : Nat) (s p : Val) : Val × BitVec 6 :=
  if op = 0 then
    let a := toFp32 s
    let b := toFp32 p
    let c := addFp32 a.1 b.1
    (c.1, a.2 ||| b.2 ||| c.2)
  else (pickVal (op = 2) s p, if s = .nan || p = .nan then flagNanIn else 0)

/-- Combine one stored and one payload int32 word (R229, R233). -/
def reduceInt (op : Nat) (s p : BitVec 32) : BitVec 32 :=
  match op with
  | 0 => s + p
  | 1 => if s.toInt < p.toInt then p else s
  | _ => if p.toInt < s.toInt then p else s

/-- The words of a byte string. -/
def words32 (b : Bytes) : List (BitVec 32) := (List.range (b.length / 4)).map fun i => BitVec.ofNat 32 (leField b (4 * i) 4)

/-- The bytes that a payload covers in stored memory (R149): as many elements of the stored format. -/
def storedBytes (m : BitVec 16) (payload : Nat) : Nat :=
  payload / unitBytes (redIn m) * unitElems (redIn m) / unitElems (redOut m) * unitBytes (redOut m)

/-- Whether a payload length is a whole number of units on both sides (R145, R149). -/
def storedWhole (m : BitVec 16) (payload : Nat) : Bool :=
  payload % unitBytes (redIn m) = 0
    && payload / unitBytes (redIn m) * unitElems (redIn m) % unitElems (redOut m) = 0

/-- Combine a payload with the stored bytes: the new bytes and the flags (R233). -/
def reduceStored (m : BitVec 16) (stored payload : Bytes) : Bytes × BitVec 6 :=
  if redIn m = 5 then
    ((List.zipWith (reduceInt (redOp m)) (words32 stored) (words32 payload)).flatMap fun w => leBytes 4 w.toNat, 0)
  else
    let cs := List.zipWith (reducePair (redOp m)) (decodeVals (redOut m) stored) (decodeVals (redIn m) payload)
    let e := encodeVals (redOut m) (redRounding m) (fun _ => 0) (cs.map fun c => ⟨c.1, 1⟩)
    (e.1, cs.foldl (fun a c => a ||| c.2) e.2)

/-! ### Node arithmetic for collectives -/

/-- The bytes of one partial element, by operation and mode (R213, R217, R248, R533). An int32 sum in benchmarked mode has
the wrapped sum in the low bytes of its 16 (notes/assumptions/34). -/
def partialBytes (m : BitVec 16) : Nat :=
  if redOp m = 1 || redOp m = 2 then 8 else if redBenchmarked m then 16 else 4

/-- One contribution element as a partial at the leaf, with its flags (R213, R217, R229, R533); b is its block's
benchmark. -/
def leafPartial (m : BitVec 16) (b : Int) (v : Val) : BitVec 128 × BitVec 6 :=
  if redOp m = 1 || redOp m = 2 then
    (BitVec.ofNat 128 (encodeFmt fmtFp64 0 0 false ⟨v, 1⟩).1, if v = .nan then flagNanIn else 0)
  else if redIn m = 5 then
    match v with
    | .fin neg n _ => (BitVec.ofNat 128 ((if neg then -(BitVec.ofNat 32 n) else BitVec.ofNat 32 n).toNat), 0)
    | _ => (0, 0)
  else if redBenchmarked m then toWindow b v
  else
    let x := toFp32 v
    (BitVec.ofNat 128 (encodeFmt fmtFp32 0 0 false ⟨x.1, 1⟩).1, x.2)

/-- Combine two partial elements, the first of the lower rank (R214, R218, R219, R228, R229). -/
def combinePartial (m : BitVec 16) (p q : BitVec 128) : BitVec 128 × BitVec 6 :=
  if redOp m = 1 || redOp m = 2 then
    let v := pickVal (redOp m = 2) (decodeFmt fmtFp64 p.toNat) (decodeFmt fmtFp64 q.toNat)
    (BitVec.ofNat 128 (encodeFmt fmtFp64 0 0 false ⟨v, 1⟩).1, 0)
  else if redIn m = 5 then (BitVec.ofNat 128 ((p.toNat + q.toNat) % 4294967296), 0)
  else if redBenchmarked m then (combineWindow p q, 0)
  else
    let t := addFp32 (decodeFmt fmtFp32 p.toNat) (decodeFmt fmtFp32 q.toNat)
    (BitVec.ofNat 128 (encodeFmt fmtFp32 0 0 false ⟨t.1, 1⟩).1, t.2)

/-- Combine two runs of partial elements, lower rank first. -/
def combineRuns (m : BitVec 16) (p q : List (BitVec 128)) : List (BitVec 128) × BitVec 6 :=
  let cs := List.zipWith (combinePartial m) p q
  (cs.map (·.1), cs.foldl (fun a c => a ||| c.2) 0)

/-- The exact value of a final partial, with the flags it raises and whether it was out of window; n divides an average
(R221, R223, R230). -/
def finalExact (m : BitVec 16) (b : Int) (n : Nat) (p : BitVec 128) : Exact × BitVec 6 × Bool :=
  let den := if redOp m = 3 then n else 1
  if redOp m = 1 || redOp m = 2 then (⟨decodeFmt fmtFp64 p.toNat, 1⟩, 0, false)
  else if redBenchmarked m then
    let w := windowVal b p
    (⟨w.1, den⟩, w.2.1, w.2.2)
  else (⟨decodeFmt fmtFp32 p.toNat, den⟩, 0, false)

/-- The dither value of an element (R225). -/
def dither (seed : Key256) (collective : BitVec 32) (step : BitVec 64) (k : Nat) : Nat :=
  let block := beBytes 4 collective.toNat ++ beBytes 8 step.toNat ++ beBytes 4 (k / 8)
  let d := beBytes 16 (Config.aesEncrypt seed (BitVec.ofNat 128 (beNat block))).toNat
  beNat (slice d (2 * (k % 8)) 2)

/-! ### Threshold-filter (R232) -/

/-- Whether a threshold is accepted: neither negative nor NaN, −0 counting as 0. -/
def thresholdValid (t : BitVec 32) : Bool :=
  match decodeFmt fmtFp32 t.toNat with
  | .nan => false
  | .inf neg => !neg
  | .fin neg m _ => !neg || m = 0

/-- The magnitude of a value. -/
def Val.abs (v : Val) : Val :=
  match v with
  | .nan => .nan
  | .inf _ => .inf false
  | .fin _ m e => .fin false m e

/-- Whether the filter emits an element: |x| ≥ t (R232). -/
def emits (t : BitVec 32) (v : Val) : Bool :=
  v ≠ .nan && !ltVal v.abs (decodeFmt fmtFp32 t.toNat).abs

/-- The value part of a filter pair: the element final-rounded to out_fmt in the low bytes of four (R232). -/
def filterValue (m : BitVec 16) (r : Nat) (v : Val) : Bytes × BitVec 6 :=
  if redOut m = 5 then
    match v with
    | .fin neg n _ => (leBytes 4 (if neg then -(BitVec.ofNat 32 n) else BitVec.ofNat 32 n).toNat, 0)
    | _ => (zeros 4, 0)
  else
    let e := encodeFmt (elementFmt (redOut m)) (redRounding m) r false ⟨v, 1⟩
    (leBytes 4 e.1, e.2)

/-- The filter record of one 4,096-byte chunk of a contribution, with its flags; empty when nothing is emitted. first is
the element index of its first element (R232). -/
def filterRecord (m : BitVec 16) (t : BitVec 32) (r : Nat → Nat) (chunk first : Nat) (b : Bytes) : Bytes × BitVec 6 :=
  let vals := decodeVals (redIn m) b
  let hits := vals.zipIdx.filter fun p => emits t p.1
  let seen := if vals.any fun v => v = .nan then flagNanIn else 0
  if hits.isEmpty then ([], seen)
  else
    let pairs := hits.map fun p =>
      let v := filterValue m (r (first + p.2)) p.1
      (leBytes 4 (first + p.2) ++ v.1, v.2)
    let body := leBytes 4 chunk ++ leBytes 4 hits.length ++ pairs.flatMap (·.1)
    (padTo ((body.length + 63) / 64 * 64) body, pairs.foldl (fun a p => a ||| p.2) seen)

end Sys2Proof.Machine
end

