-- ==== Sys2Proof/Machine/Domains.lean ====
section
/-! DEFINITION. Switched power domains and culverts as work meets them: which domain serves, the work that waits for one that
does not, and the units that the domains are (R36 to R49, R432, R520). -/

namespace Sys2Proof.Machine

/-! ### Domains -/

/-- How many domains of a kind a role has (R36). -/
def domainCount (role : Role) (k : DomainKind) : Nat :=
  let by3 := fun (e s t : Nat) => match role with | .e => e | .s => s | .t => t
  match k with
  | .lceTx | .lceRx => by3 16 48 16
  | .sce => by3 8 0 0
  | .pie => by3 0 0 10
  | .rmuPair => by3 8 16 4
  | .bas => by3 6 8 4
  | .ctc => by3 0 0 8
  | .treeWalker | .rootBank => by3 0 0 2
  | .levee => by3 0 0 8
  | .fau => by3 16 0 16
  | .replayBank => by3 2 0 2
  | .scaBank => by3 16 0 0
  | .barrierBank => by3 0 4 0
  | .ringBank => by3 8 0 8
  | .spmBank => by3 4 0 0
  | .weir => by3 9 4 9
  | .kcu => 2
  | .barrierUnit => by3 1 0 0
  | .wardenCore | .pku | .hashUnit | .entropy | .cadastre | .chartEngine | .tracer | .hostPath | .dither | .faultSram
  | .tap => 1

/-- The kinds of domain, in the order of R36. -/
def domainKinds : List DomainKind :=
  [.lceTx, .lceRx, .sce, .pie, .rmuPair, .bas, .ctc, .treeWalker, .rootBank, .levee, .fau, .replayBank, .scaBank,
   .barrierBank, .ringBank, .spmBank, .weir, .wardenCore, .kcu, .pku, .hashUnit, .entropy, .cadastre, .chartEngine, .tracer,
   .hostPath, .dither, .faultSram, .tap, .barrierUnit]

/-- Every domain of a role (R36). -/
def roleDomains (role : Role) : List DomainId :=
  domainKinds.flatMap fun k => (List.range (domainCount role k)).map fun i => ⟨k, BitVec.ofNat 8 i⟩

/-- Whether the role has a domain. -/
def domainExists (s : State) (d : DomainId) : Bool := d.index.toNat < domainCount s.boot.role d.kind

/-- Whether a domain may ever be gated (R37). -/
def gateable (k : DomainKind) : Bool :=
  match k with
  | .wardenCore | .entropy | .cadastre => false
  | _ => true

/-- Whether a domain's power is on and good (R520). -/
def domainOn (s : State) (d : DomainId) : Bool := s.pins.pwrEn.contains d && s.pins.pwrGood.contains d

/-- Whether a domain answers nothing: it is gated, or its clock may be stopped (R43, R46). -/
def domainHeld (s : State) (d : DomainId) : Bool := !domainOn s d || s.pins.clkStopAck.contains d

/-- Change the pins. -/
def modPins (f : Pins → Pins) (s : State) : State := { s with pins := f s.pins }

/-- Change the state of the domains and culverts. -/
def modPower (f : Power → Power) (s : State) : State := { s with power := f s.power }

/-- Close the switch of a domain for which work has arrived; the work waits (R42). -/
def wakeDomain (d : DomainId) (s : State) : State :=
  if !running s || !domainExists s d || s.pins.pwrEn.contains d then s
  else count 0x014 (modPins (fun p => { p with pwrEn := p.pwrEn ++ [d] }) s)

/-- A domain has work now, from which its gate delay runs (R41). -/
def markWork (d : DomainId) (s : State) : State :=
  modPower (fun p => { p with lastWork := assocSet d s.time p.lastWork }) s

/-! ### Culverts (R44 to R48) -/

/-- The culvert by which work enters a domain from outside the block. -/
def portCulvert (d : DomainId) : CulvertId := ⟨.domain d, .chip⟩

/-- A culvert; an unlisted one is ready and empty. -/
def getCulvert (s : State) (c : CulvertId) : Culvert :=
  (s.power.culverts.find? fun x => x.id = c).getD { id := c, ready := true, entries := [], discarded := 0, suspects := [] }

/-- Replace a culvert; one that is ready and holds nothing is not listed. -/
def setCulvert (c : Culvert) (s : State) : State :=
  modPower (fun p => { p with
    culverts := if c.ready && c.entries.isEmpty then p.culverts.filter fun x => x.id ≠ c.id
      else upsert (fun x => x.id = c.id) c p.culverts }) s

/-- Whether a domain takes work now: it has power and a clock, and its culvert is ready (R42, R46, R48). -/
def serves (s : State) (d : DomainId) : Bool := !domainHeld s d && (getCulvert s (portCulvert d)).ready

/-- Whether work waits to enter a domain. -/
def entering (s : State) (d : DomainId) : Bool :=
  !(getCulvert s (portCulvert d)).entries.isEmpty || s.power.outside.any fun x => x.1 = d

/-- How many entries a datapath culvert holds (R48's closing text). -/
def culvertDepth : Nat := 16

/-- Let an entry wait for a domain: in its culvert, or, when that is full or not ready, outside (R46, R48). -/
def waitToEnter (d : DomainId) (e : CulvertEntry) (s : State) : State :=
  let c := getCulvert s (portCulvert d)
  if c.ready && c.entries.length < culvertDepth && !s.power.outside.any (fun x => x.1 = d) then
    setCulvert { c with entries := c.entries ++ [e] } s
  else modPower (fun p => { p with outside := p.outside ++ [(d, e)] }) s

/-- Work arrives at a domain from outside: it is served, or the domain is woken while it waits in order (R42, R45, R46). -/
def enter (d : DomainId) (e : CulvertEntry) (serve : State → State) (s : State) : State :=
  if serves s d && !entering s d then serve (markWork d s) else wakeDomain d (waitToEnter d e s)

/-- Work that already stands in the block meets a domain: it is served, or waits where it is while the domain is woken. -/
def withDomain (d : DomainId) (serve : State → State) (s : State) : State :=
  if serves s d then serve (markWork d s) else wakeDomain d s

/-- Work needs a list of domains: those that do not serve are woken, else all have work now; whether any had to be woken
(R41, R42, R46). -/
def wakeAll (ds : List DomainId) (s : State) : Bool × State :=
  let off := ds.filter fun d => !serves s d
  if off.isEmpty then (false, ds.foldl (fun t d => markWork d t) s) else (true, off.foldl (fun t d => wakeDomain d t) s)

/-- Work for a list of domains begins if they all serve; else it waits where it is. -/
def withDomains (ds : List DomainId) (serve : State → State) (s : State) : State :=
  match wakeAll ds s with
  | (true, s) => s
  | (false, s) => serve s

/-- Reset the culverts of a domain: what they hold is discarded, the surviving side is told how many entries and the contexts
of each, and both report not-ready until the handshake (R47, R48). contextOf names the context of an entry. -/
def resetCulverts (d : DomainId) (contextOf : CulvertEntry → Option CtxId) (s : State) : State :=
  let port := getCulvert s (portCulvert d)
  let s := setCulvert { port with ready := false, entries := [], discarded := port.entries.length,
                                  suspects := port.entries.filterMap contextOf } s
  setCulvert { id := ⟨.domain d, .warden⟩, ready := false, entries := [], discarded := 0, suspects := [] } s

/-- Whether an island's clock may be stopped. -/
def islandStopped (s : State) : IslandId → Bool
  | .domain d => s.pins.clkStopAck.contains d
  | _ => false

/-- Whether the unit's culvert to the Warden reports not-ready. -/
def culvertBusy (s : State) (d : DomainId) : Bool := s.power.culverts.any fun c => c.id.left = .domain d && !c.ready

/-! ### Weirs (R36) -/

/-- The Weir of fabric egress at a port: role S has one for every twelve ports, the other roles one beside those of their stacks
or parity groups. -/
def portWeir (role : Role) (port : BitVec 8) : DomainId :=
  ⟨.weir, match role with | .s => port / 12 | _ => 8⟩

/-- A Weir as block reset leaves it: no minimum, full capacity, level 0 (R410, R411, R506). -/
def resetWeir (w : BitVec 8) : Weir :=
  { id := w, minima := List.replicate 16 0, capacity := 1000, level := 0, limited := false,
    misses := List.replicate 16 0, recordAt := [], folded := List.replicate 16 0, mirrorScale := 1000, mirrorLevel := 0,
    mirrored := List.replicate 16 0 }

/-- A Weir; an unlisted one is as block reset leaves it. -/
def getWeir (s : State) (w : BitVec 8) : Weir := (s.weirs.find? fun x => x.id = w).getD (resetWeir w)

/-- Whether a Weir admits new traffic at all: its queue level is below 15 and it has capacity (R410, R411). -/
def weirTakes (s : State) (w : BitVec 8) : Bool := (getWeir s w).level ≠ 15 && (getWeir s w).capacity ≠ 0

/-- Whether a Weir admits new traffic of a class: since a level of 12 or more, and until one of 8 or less, only a class with a
guarantee (R410, R411). How much of it is admitted in a time is timing (notes/assumptions/63.md). -/
def weirAdmits (s : State) (w : BitVec 8) (cls : BitVec 4) : Bool :=
  weirTakes s w && (!(getWeir s w).limited || (getWeir s w).minima.getD cls.toNat 0 ≠ 0)

/-! ### Units -/

/-- The unit number of a domain (R432); 0 for one that the table of units does not name. -/
def domainUnit (d : DomainId) : BitVec 16 :=
  let at_ := fun (k : Nat) => BitVec.ofNat 16 (256 * k + d.index.toNat)
  match d.kind with
  | .lceTx => at_ 0x01 | .lceRx => at_ 0x02 | .sce => at_ 0x03 | .pie => at_ 0x04 | .fau => at_ 0x05 | .rmuPair => at_ 0x06
  | .levee => at_ 0x07 | .chartEngine => at_ 0x08 | .tracer => at_ 0x0A | .kcu => at_ 0x0B | .wardenCore => at_ 0x0C
  | .cadastre => at_ 0x0E | .ctc => at_ 0x0F | .scaBank => at_ 0x10 | .barrierBank => at_ 0x11 | .barrierUnit => at_ 0x11
  | .ringBank => at_ 0x12 | .weir => at_ 0x13 | .spmBank => at_ 0x14 | .replayBank => at_ 0x15 | .bas => at_ 0x16
  | .hostPath => at_ 0x19
  | _ => 0

end Sys2Proof.Machine
end

