-- ==== Sys2Proof/Machine/Keys.lean ====
section
/-! DEFINITION. The Cadastre and the Key Cipher Units: the KDF, device and working keys, deeds, the Parent Validity
Table, key slots and their loads, KCU jobs and the DRBG (chapters 12 and 13). -/

namespace Sys2Proof.Machine

/-! ### Derivations -/

/-- A key as the big-endian byte string of the standards. -/
def keyBytes {w : Nat} (k : BitVec w) : Bytes := beBytes (w / 8) k.toNat

/-- A bit vector from a big-endian byte string. -/
def ofBytes (w : Nat) (b : Bytes) : BitVec w := BitVec.ofNat w (beNat b)

/-- The KDF of SP 800-108 in counter mode with CMAC, in the layout of R62: [i], Label, 0x00, Context, [L]. -/
def kdf (key : Key256) (label : Bytes) (context : Bytes) (bits : Nat) : Bytes :=
  (List.range (bits / 128)).flatMap fun i =>
    keyBytes (Config.cmac key (beBytes 4 (i + 1) ++ label ++ [0] ++ context ++ beBytes 4 bits))

/-- The number of key slots of a role (R299). -/
def slotCount : Role → Nat
  | .e => 64 | .s => 128 | .t => 64

/-- The key kinds that a role derives, in kind-code order (R293). -/
def roleKinds : Role → List (BitVec 8)
  | .e => [1, 2, 3, 6, 7] | .s => [1, 2, 5, 6, 7] | .t => [1, 2, 4, 6, 7]

/-- How a role is coded: 0 E, 1 S, 2 T (R1, R336). -/
def roleCode : Role → Nat
  | .e => 0 | .s => 1 | .t => 2

/-- The confidentiality attribute as R63 codes it. -/
def confCode (c : Bool) : Byte := if c then 1 else 0

/-- The root of the ladder by the life-cycle state (R289). -/
def ladderRoot (s : State) : Option Key256 :=
  match s.lc.state with
  | .factory | .analysis => some Config.testRoot
  | .field => some s.fuses.root
  | _ => none

/-- A working key of a polder from its PMK (R293). -/
def workingKey (pmk : Key256) (p : PolderId) (conf : Bool) (kind : BitVec 8) : Bytes :=
  kdf pmk (ascii "BR2 POLDER WORK") (beBytes 2 p.toNat ++ [confCode conf, kind]) (if kind = 3 then 512 else 256)

/-- Whether the two halves of a stack key are equal (R84). -/
def halvesEqual (stack : Bytes) : Bool := stack.take 32 = stack.drop 32

/-- The subkey of a stream and epoch (R62, R63). -/
def streamSubkey (link : Key256) (p : PolderId) (conf : Bool) (src : InstId) (dest : Dest) (sid : BitVec 16)
    (cls : BitVec 4) (epoch : BitVec 32) : Key256 :=
  ofBytes 256 (kdf link (ascii "BR2 LINK STREAM")
    (beBytes 2 p.toNat ++ [confCode conf] ++ beBytes 2 src.toNat ++ beBytes 2 dest.toNat ++ beBytes 2 sid.toNat
      ++ [BitVec.ofNat 8 cls.toNat] ++ beBytes 4 epoch.toNat ++ [0]) 256)

/-! ### XTS-AES-256 (R83, R110) -/

/-- Multiplication by α of a tweak, held as a little-endian number (IEEE 1619). -/
def alphaMul (t : BitVec 128) : BitVec 128 := (t <<< 1) ^^^ (if t.getLsbD 127 then 0x87 else 0)

/-- α applied j times. -/
def alphaPow : Nat → BitVec 128 → BitVec 128
  | 0, t => t
  | j + 1, t => alphaMul (alphaPow j t)

/-- Key1, the data key: bytes 0 to 31. -/
def xtsKey1 (k : Key512) : Key256 := k.extractLsb' 256 256

/-- Key2, the tweak key: bytes 32 to 63. -/
def xtsKey2 (k : Key512) : Key256 := k.extractLsb' 0 256

/-- Encrypt or decrypt the 16-byte block j of a data unit (IEEE 1619, R83). -/
def xtsBlock (enc : Bool) (k : Key512) (unit j : Nat) (b : Bytes) : Bytes :=
  let e := Config.aesEncrypt (xtsKey2 k) (ofBytes 128 (leBytes 16 unit))
  let t := leBytes 16 (alphaPow j (BitVec.ofNat 128 (leNat (keyBytes e)))).toNat
  let x := ofBytes 128 (xorBytes t b)
  xorBytes t (keyBytes (if enc then Config.aesEncrypt (xtsKey1 k) x else Config.aesDecrypt (xtsKey1 k) x))

/-! ### Deeds -/

/-- The first 32 bytes of a deed (R295). -/
def deedHeader (kind : BitVec 8) (conf chart : Bool) (p : PolderId) (parent own : BitVec 13)
    (parentGen ownGen : BitVec 16) (inst : InstId) : Bytes :=
  [1, kind, (if conf then 1 else 0) + (if chart then 2 else 0), if kind = 3 then 64 else 32]
    ++ leBytes 2 p.toNat ++ leBytes 2 parent.toNat ++ leBytes 2 parentGen.toNat ++ leBytes 2 own.toNat
    ++ leBytes 2 ownGen.toNat ++ leBytes 2 inst.toNat ++ zeros 16

/-- The wrapping key of a deed from its parent key and its header (R296). -/
def deedKey (parent : Key256) (header : Bytes) : Key256 :=
  ofBytes 256 (kdf parent (ascii "BR2 DEED KEYING") header 256)

/-- Make a deed: the key wrapped under the key its header gives (R295, R296). -/
def makeDeed (p : PolderId) (kind : BitVec 8) (header : Bytes) (parent : Key256) (key : Bytes) : Deed :=
  { polder := p, kind := kind, header := header, wrapped := padTo 72 (Config.kwWrap (deedKey parent header) key) }

/-- The bytes of AES-KW output that a deed of a kind holds (R295). -/
def wrappedBytes (d : Deed) : Bytes := d.wrapped.take (if d.kind = 3 then 72 else 40)

/-! ### The Parent Validity Table -/

/-- An entry of the PVT; an unlisted handle is FREE at generation 0 (R297). -/
def pvtEntry (s : State) (h : BitVec 13) : PvtEntry :=
  (s.cad.pvt.find? fun e => e.handle = h).getD { handle := h, generation := 0, state := .free, polderSlot := 0 }

/-- Replace an entry of the PVT. -/
def setPvt (e : PvtEntry) (s : State) : State :=
  { s with cad := { s.cad with pvt := upsert (fun x => x.handle = e.handle) e s.cad.pvt } }

/-- The lowest FREE handle from 1 upward (R297). -/
def freeHandle (s : State) : Option (BitVec 13) :=
  (((List.range 8191).map (· + 1)).find? fun h => (pvtEntry s (BitVec.ofNat 13 h)).state = .free).map (BitVec.ofNat 13)

/-- Invalidate a PMK handle (R298). -/
def invalidateHandle (h : BitVec 13) (s : State) : State :=
  let e := pvtEntry s h
  if e.generation = 0xFFFF then setPvt { e with state := .retired } s
  else setPvt { e with state := .free, generation := e.generation + 1 } s

/-! ### Key slots -/

/-- A slot as block reset leaves it. -/
def freeSlot (i : BitVec 8) : KeySlot :=
  { index := i, state := .free, polder := 0, pmk := 0, link := 0, stack := 0, tray := 0, seed := 0, dump := 0,
    chart := 0, polderSlot := 0, present := 0, pinned := false, confidential := false, check := 0, lastUse := 0 }

/-- A slot by number. -/
def getSlot (s : State) (i : BitVec 8) : KeySlot := (s.cad.slots.find? fun k => k.index = i).getD (freeSlot i)

/-- Replace a slot. -/
def setSlot (k : KeySlot) (s : State) : State :=
  { s with cad := { s.cad with slots := upsert (fun x => x.index = k.index) k s.cad.slots } }

/-- Bytes 0 to 259 of a slot (R299). -/
def slotRecord (k : KeySlot) : Bytes :=
  keyBytes k.pmk ++ keyBytes k.link ++ keyBytes k.stack ++ keyBytes k.tray ++ keyBytes k.seed ++ keyBytes k.dump
    ++ keyBytes k.chart ++ leBytes 2 k.polderSlot.toNat
    ++ [k.present, (if k.pinned then 1 else 0) + (if k.confidential then 2 else 0)]

/-- The check of a slot: CRC-32C of its record, exclusive or the slot mask (R300). -/
def slotCheck (mask : BitVec 32) (k : KeySlot) : BitVec 32 := Config.crc32c (slotRecord k) ^^^ mask

/-- Write a slot, recomputing its check (R300). -/
def writeSlot (k : KeySlot) (s : State) : State := setSlot { k with check := slotCheck s.cad.slotMask k } s

/-- The slot that holds, loads or evicts a polder (R301). -/
def slotOf (s : State) (p : PolderId) : Option KeySlot :=
  s.cad.slots.find? fun k => k.polder = p && k.state != .free && k.state != .bad

/-- Whether a key kind is held in a slot. -/
def slotHas (k : KeySlot) (kind : BitVec 8) : Bool := k.present.getLsbD (kind.toNat - 1)

/-- Put a key of a kind into a slot record. -/
def putKey (k : KeySlot) (kind : BitVec 8) (key : Bytes) : KeySlot :=
  let k := { k with present := k.present ||| BitVec.ofNat 8 (2 ^ (kind.toNat - 1)) }
  match kind.toNat with
  | 1 => { k with pmk := ofBytes 256 key } | 2 => { k with link := ofBytes 256 key }
  | 3 => { k with stack := ofBytes 512 key } | 4 => { k with tray := ofBytes 256 key }
  | 5 => { k with seed := ofBytes 256 key } | 6 => { k with dump := ofBytes 256 key }
  | 7 => { k with chart := ofBytes 256 key } | _ => k

/-- A 256-bit key of a kind in a slot. -/
def slotKey (k : KeySlot) (kind : BitVec 8) : Key256 :=
  match kind.toNat with
  | 1 => k.pmk | 2 => k.link | 4 => k.tray | 5 => k.seed | 6 => k.dump | 7 => k.chart | _ => 0

/-- The key of a kind that the slot of a polder holds; zero when it holds none. -/
def polderKey (s : State) (p : PolderId) (kind : BitVec 8) : Key256 :=
  match slotOf s p with
  | some k => slotKey k kind
  | none => 0

/-- The stack key that the slot of a polder holds. -/
def polderStackKey (s : State) (p : PolderId) : Key512 :=
  match slotOf s p with
  | some k => k.stack
  | none => 0

/-- Whether the check of a slot passes (R300). -/
def slotSound (s : State) (k : KeySlot) : Bool := k.check = slotCheck s.cad.slotMask k

/-- Drop the prefix states that a test names from both caches (R316). -/
def dropPrefixes (gone : KeySource → Bool) (s : State) : State :=
  let cut := fun (k : Kcu) => { k with prefixes := k.prefixes.filter fun x => !gone x.source }
  { s with keys := { s.keys with kcu0 := cut s.keys.kcu0, kcu1 := cut s.keys.kcu1 } }

/-- Whether a key source is a slot of a polder. -/
def sourceOf (p : PolderId) : KeySource → Bool
  | .slot q _ => q = p
  | _ => false

/-- A slot is zeroized: its record becomes as given, and the copies of its keys in the SCE slices and the prefix states made
under them go with it (R301, R305, R316). -/
def zeroizeSlot (k : KeySlot) (state : SlotState) (s : State) : State :=
  let s := dropPrefixes (sourceOf k.polder) s
  setSlot { freeSlot k.index with state := state }
    { s with stack := { s.stack with copies := s.stack.copies.filter fun c => c.1.2 ≠ k.polder } }

/-- Whether a confidential polder is resident (R23). -/
def confidentialResident (s : State) : Bool :=
  s.cad.slots.any fun k => k.confidential && (k.state = .resident || k.state = .evicting)

/-! ### Checks on unwrapping a deed (R304) -/

/-- The deed of a polder's kind. -/
def findDeed (s : State) (p : PolderId) (kind : BitVec 8) : Option Deed :=
  s.cad.deeds.find? fun d => d.polder = p && d.kind = kind

/-- The handle of the parent that a deed's header names (R295). -/
def deedParent (h : Bytes) : BitVec 13 := BitVec.ofNat 13 (leField h 6 2)

/-- Checks 1 to 3 of R304 on the deed of a polder's kind: the first that fails. -/
def deedChecks (s : State) (q : Polder) (kind : BitVec 8) : Option DeedFail :=
  match findDeed s q.id kind with
  | none => some ⟨.slotBad, 1⟩
  | some d =>
    let h := d.header
    let pmkDeed := decide (kind = 1)
    let parent := pvtEntry s (deedParent h)
    let own := pvtEntry s (BitVec.ofNat 13 (leField h 10 2))
    let wellFormed := leField h 0 1 = 1 && leField h 1 1 = kind.toNat && (roleKinds s.boot.role).contains kind
      && leField h 2 1 = (confCode q.confidential).toNat && leField h 3 1 = (if kind = 3 then 64 else 32)
      && leField h 4 2 = q.id.toNat && leField h 6 2 < 8192 && leField h 10 2 < 8192
      && leField h 14 2 = s.boot.instanceId.toNat && (h.drop 16).all (· = 0)
    if !wellFormed then some ⟨.slotBad, 1⟩
    else if !(parent.state = .live && parent.generation.toNat = leField h 8 2) then some ⟨.orphaned, 2⟩
    else if pmkDeed && !(own.state = .live && own.generation.toNat = leField h 12 2 && own.polderSlot = q.slot) then
      some ⟨.orphaned, 3⟩
    else none

/-- Checks 4 and 5 of R304, and the key that the deed gives. -/
def openDeed (s : State) (q : Polder) (kind : BitVec 8) : Except DeedFail Bytes :=
  match findDeed s q.id kind with
  | none => .error ⟨.slotBad, 1⟩
  | some d =>
    let parentKey := if kind = 1 then s.cad.wrapKey else polderKey s q.id 1
    match Config.kwUnwrap (deedKey parentKey d.header) (wrappedBytes d) with
    | none => .error ⟨.slotBad, 4⟩
    | some key => if kind = 3 && halvesEqual key then .error ⟨.badParam, 5⟩ else .ok key

/-- What an unwrap finds as it starts: checks 1 to 3, and the parent's generation (R304). -/
def deedSeen (s : State) (q : Polder) (kind : BitVec 8) : DeedSeen :=
  let parent := match findDeed s q.id kind with | some d => deedParent d.header | none => 0
  { fail := deedChecks s q kind, parent := parent, generation := (pvtEntry s parent).generation }

/-- The end of an unwrap whose start found something: its checks in order, check 6 comparing the parent's generation as the
key is written into the slot (R304). -/
def unwrapDeed (s : State) (q : Polder) (kind : BitVec 8) (seen : DeedSeen) : Except DeedFail Bytes :=
  match seen.fail with
  | some f => .error f
  | none =>
    match openDeed s q kind with
    | .error f => .error f
    | .ok key =>
      let parent := pvtEntry s seen.parent
      if parent.state = .live && parent.generation = seen.generation then .ok key else .error ⟨.orphaned, 6⟩

/-! ### KCU jobs (R308 to R313, R316) -/

/-- The oldest job of the highest non-empty class (R312). -/
def nextJob (s : State) : Option KcuJob :=
  [1, 2, 3, 4].findSome? fun c => s.keys.queue.find? fun j => j.cls = c

/-- The row of the table of KCU modes that a job runs in (R308). -/
def jobMode : KcuWork → Nat
  | .unwrapPmk _ => 2 | .unwrapKey _ _ => 2 | .streamKey _ _ => 1 | .extentKey _ => 1 | .sealPiece _ _ => 4
  | .drbgRefill => 5

/-- Whether the lengths that a job states lie in the ranges of its mode: CMAC, KDF, KW, KWP, GCM, CTR-DRBG (R308, R309). -/
def lengthsFit (mode aad text : Nat) : Bool :=
  match mode with
  | 0 => text ≤ 65536
  | 1 => 20 ≤ text && text ≤ 96
  | 2 => 16 ≤ text && text ≤ 4096 && text % 8 = 0
  | 3 => 1 ≤ text && text ≤ 4096
  | 4 => aad ≤ 1024 && text ≤ 65536
  | _ => 1 ≤ text && text ≤ 64

/-- The bytes of text that a job works on: a key, a fixed input of the KDF, a piece, a draw. -/
def jobText (s : State) : KcuWork → Nat
  | .unwrapPmk _ => 32
  | .unwrapKey _ kind => if kind = 3 then 64 else 32
  | .streamKey _ _ => 39
  | .extentKey _ => 37
  | .sealPiece n i => match s.tracer.sealing.find? fun x => x.number.toNat = n with
    | some x => (x.pieces.getD i []).length
    | none => 0
  | .drbgRefill => 64

/-- The bytes of associated data of a job: the header of a hang sample (R441). -/
def jobAad : KcuWork → Nat
  | .sealPiece _ _ => 64
  | _ => 0

/-- The unit number of a KCU (R432). -/
def kcuUnit (second : Bool) : BitVec 16 := if second then 0x0B01 else 0x0B00

/-- The domain of a KCU. -/
def kcuDomain (second : Bool) : DomainId := ⟨.kcu, if second then 1 else 0⟩

/-- A job's lengths lie outside its mode: it is refused with a record before any AES operation (R309). -/
def refuseJob (mode aad text : Nat) (p : Option PolderId) (s : State) : State :=
  writeFault .kcuJobRefused
    { unit := kcuUnit (!s.keys.kcu0.inService), status := statusCode .badParam, polder := p.getD 0,
      detail := [Config.kcuMode mode] ++ leBytes 4 (if 1024 < aad then aad else text) } s

/-- The source of the key a job uses (R310). -/
def jobSource (s : State) : KcuWork → KeySource
  | .unwrapPmk _ => .device .wrap
  | .unwrapKey p _ => .slot p 1
  | .streamKey (.tx p _ _) _ => .slot p 2
  | .streamKey (.rx p _ _ _) _ => .slot p 2
  | .extentKey e => match s.tray.extents.find? fun x => x.id = e with | some x => .slot x.polder 4 | none => .extent e
  | .sealPiece n i => match s.tracer.sealing.find? fun x => x.number.toNat = n with
    | some x => .slot (x.owners.getD i 0) 6
    | none => .device .drbg
  | .drbgRefill => .device .drbg

/-- A device key (R289, R290). -/
def deviceKey (s : State) : DeviceKey → Key256
  | .root => (ladderRoot s).getD 0
  | .seed => s.cad.idSeed
  | .cdi => s.boot.cdi
  | .wrap => s.cad.wrapKey
  | .seal => s.cad.sealKey
  | .pool => xtsKey1 s.cad.poolKey
  | .drbg => s.keys.drbg.setWidth 256

/-- The subkey that the stream store holds of a stream (R75). -/
def streamKeyOf (s : State) : StreamRef → Key256
  | .tx p d sid => ((s.link.tx.find? fun t => t.polder = p && t.dest = d && t.sid = sid).bind (·.key)).getD 0
  | .rx p i sid g =>
    ((s.link.rx.find? fun r => r.polder = p && r.src = i && r.sid = sid && r.group = g).bind (·.key)).getD 0

/-- The key that a source stands for, as the KCU fetches it (R310). -/
def sourceKey (s : State) : KeySource → Key256
  | .device k => deviceKey s k
  | .slot p kind => polderKey s p kind
  | .stream r => streamKeyOf s r
  | .extent e => xtsKey1 (((s.tray.extents.find? fun x => x.id = e).bind (·.key)).getD 0)
  | .session n => ((s.spdm.sessions.find? fun x => x.id = n).map (·.txKey)).getD 0

/-- The slot that a source names, when its check fails as the KCU fetches the key (R300, R310). -/
def unsoundSource (s : State) : KeySource → Option KeySlot
  | .slot p _ => (slotOf s p).filter fun k => !slotSound s k
  | _ => none

/-- The label of the derivation that a job runs, if it runs one (R62, R109, R296). -/
def jobLabel : KcuWork → Bytes
  | .unwrapPmk _ => ascii "BR2 DEED KEYING"
  | .unwrapKey _ _ => ascii "BR2 DEED KEYING"
  | .streamKey _ _ => ascii "BR2 LINK STREAM"
  | .extentKey _ => ascii "BR2 TRAY EXTENT"
  | _ => []

/-- The bytes that a KCU takes into its data buffer: the deed of an unwrap. -/
def jobData (s : State) : KcuWork → Bytes
  | .unwrapPmk p => match findDeed s p 1 with | some d => d.header ++ d.wrapped | none => []
  | .unwrapKey p kind => match findDeed s p kind with | some d => d.header ++ d.wrapped | none => []
  | _ => []

/-- The registers as a job starts: its key and round keys, its data, and the two computations of its first block (R311,
R313). -/
def loadRegs (s : State) (w : KcuWork) : KcuRegs :=
  let key := sourceKey s (jobSource s w)
  let data := jobData s w
  let block := Config.aesEncrypt key (ofBytes 128 (padTo 16 data))
  { key := key.setWidth 512, schedule := Config.aesSchedule key, data := data, first := block, second := block }

/-- The CMAC state after the first block of a derivation's fixed input: [i] and the first 12 bytes of the Label (R316). -/
def prefixState (key : Key256) (label : Bytes) (i : Nat) : BitVec 128 :=
  Config.aesEncrypt key (ofBytes 128 (beBytes 4 i ++ label.take 12))

/-- Keep prefix states of a key, at most 16 keys, the one used longest ago leaving first (R316). -/
def keepPrefixes (source : KeySource) (label : Bytes) (key : Key256) (n : Nat) (l : List Prefix) : List Prefix :=
  let mine := l.filter fun x => x.source = source && x.label ≠ label
  let others := l.filter fun x => x.source ≠ source
  let keys := (others.map (·.source)).eraseDups
  let others := if keys.length < 16 then others else others.filter fun x => keys.head? ≠ some x.source
  others ++ mine ++ (List.range n).map fun i => { source := source, label := label, i := i + 1,
                                                  state := prefixState key label (i + 1) }

/-- Whether a source still holds a key: that of a slot does until the slot is zeroized. -/
def sourceThere (s : State) : KeySource → Bool
  | .slot p _ => (slotOf s p).isSome
  | _ => true

/-- A derivation has run on a KCU: its prefix states are kept, unless the slot of its key is gone by now (R316). -/
def cacheJob (w : KcuWork) (s : State) (k : Kcu) : Kcu :=
  let label := jobLabel w
  let source := jobSource s w
  if label.isEmpty || !sourceThere s source then k
  else
    let n := match w with | .extentKey _ => 4 | _ => 2
    { k with prefixes := keepPrefixes source label (sourceKey s source) n k.prefixes }

/-- Trace the start or end of a KCU job (R477). -/
def traceJob (ended second : Bool) (j : KcuJob) (s : State) : State :=
  emitTrace 8 (if ended then 0x0802 else 0x0801) (kcuUnit second) (j.polder.getD 0) none
    [if second then 1 else 0, Config.kcuMode (jobMode j.work), BitVec.ofNat 8 j.cls] s

/-- What the start of an unwrap finds of its deed (R304). -/
def jobSeen (s : State) (w : KcuWork) : Option DeedSeen :=
  match w with
  | .unwrapPmk p => (findPolder s p).map fun q => deedSeen s q 1
  | .unwrapKey p kind => (findPolder s p).map fun q => deedSeen s q kind
  | _ => none

/-- Remove the queued jobs of a polder and leave the running ones to end unused (R304, R307). -/
def abandonJobs (p : PolderId) (s : State) : State :=
  let drop := fun (k : Kcu) => { k with job := k.job.map fun j => { j with abandoned := j.abandoned || j.polder = some p } }
  { s with keys := { s.keys with
      queue := s.keys.queue.filter fun j => j.polder ≠ some p
      kcu0 := drop s.keys.kcu0
      kcu1 := drop s.keys.kcu1 } }

/-- Mark a slot BAD: zeroized, recorded, the polder fatal; the jobs on its keys are not run (R301). -/
def markSlotBad (k : KeySlot) (kind : BitVec 8) (s : State) : State :=
  let s := abandonJobs k.polder (zeroizeSlot k .bad s)
  let s := modPolder k.polder (fun p => { p with slotBad := true }) s
  writeFault .keySlotBad
    { unit := 0x0E00, status := statusCode .slotBad, polder := k.polder, detail := [k.index, kind] } s

/-- The kind of key that a slot source names. -/
def sourceKind : KeySource → BitVec 8
  | .slot _ kind => kind
  | _ => 0

/-- Give a free KCU in service its next job (R312); one that is gated wakes while the job waits (R42). A job whose key
lies in a slot that fails its check does not run: the slot is BAD (R300, R301, R310). -/
def startJob (second : Bool) (s : State) : State :=
  let k := if second then s.keys.kcu1 else s.keys.kcu0
  if k.inService && k.job.isNone then
    match nextJob s with
    | some j =>
      if !serves s (kcuDomain second) then s
      else
        let source := jobSource s j.work
        let keys := { s.keys with queue := s.keys.queue.erase j }
        match unsoundSource s source with
        | some slot => markSlotBad slot (sourceKind source) { s with keys := keys }
        | none =>
          let k : Kcu := { k with job := some { j with seen := jobSeen s j.work }, regs := loadRegs s j.work }
          let keys := if second then { keys with kcu1 := k } else { keys with kcu0 := k }
          markWork (kcuDomain second) (traceJob false second j { s with keys := keys })
    | none => s
  else s

/-- Whether a KCU in service has power and a clock. -/
def kcuUp (s : State) (second : Bool) : Bool :=
  (if second then s.keys.kcu1 else s.keys.kcu0).inService && serves s (kcuDomain second)

/-- Let both KCUs take jobs; with both gated, one in service wakes for a job that waits (R42, R312). -/
def dispatchJobs (s : State) : State :=
  let s := startJob true (startJob false s)
  if s.keys.queue.isEmpty || kcuUp s false || kcuUp s true then s
  else wakeDomain (kcuDomain (!s.keys.kcu0.inService)) s

/-- Queue a KCU job; one whose lengths do not fit its mode is refused (R309). -/
def addJob (cls : Nat) (work : KcuWork) (p : Option PolderId) (s : State) : State :=
  let aad := jobAad work
  let text := jobText s work
  if !lengthsFit (jobMode work) aad text then refuseJob (jobMode work) aad text p s
  else dispatchJobs { s with keys := { s.keys with
    queue := s.keys.queue ++ [{ cls := cls, work := work, restarted := false, polder := p, abandoned := false, aad := aad,
                                text := text, seen := none }] } }

/-- A job that a command runs before it can answer: its class, mode and stated lengths, the source of its key and that
key as the KCU fetches it, and for a derivation its Label and output blocks (R308 to R310, R312). -/
structure InlineJob where
  cls    : Nat
  mode   : Nat
  aad    : Nat
  text   : Nat
  source : KeySource
  key    : Key256
  label  : Bytes := []
  blocks : Nat := 0
  deriving DecidableEq, Repr

/-- The KCU that a command's job runs on. -/
def inlineKcu (s : State) : Bool := !s.keys.kcu0.inService

/-- A command's job runs: its start and end are traced, it is work of its KCU, and its prefix states are kept
(R41, R316, R433). -/
def traceInline (j : InlineJob) (p : Option PolderId) (s : State) : State :=
  let second := inlineKcu s
  let trace := fun (code : BitVec 16) (t : State) => emitTrace 8 code (kcuUnit second) (p.getD 0) none
    [if second then 1 else 0, Config.kcuMode j.mode, BitVec.ofNat 8 j.cls] t
  let keep := fun (k : Kcu) => { k with prefixes := keepPrefixes j.source j.label j.key j.blocks k.prefixes }
  let keys := if j.label.isEmpty then s.keys
    else if second then { s.keys with kcu1 := keep s.keys.kcu1 } else { s.keys with kcu0 := keep s.keys.kcu0 }
  trace 0x0802 (trace 0x0801 (markWork (kcuDomain second) { s with keys := keys }))

/-- A job that a command needs before it can answer runs within the command, whose step is whole: its lengths are
judged, its start and end are traced, and its registers are zero again when it ends (notes/assumptions/67.md). False
when it is refused (R309). -/
def inlineJob (j : InlineJob) (p : Option PolderId) (s : State) : Bool × State :=
  if !lengthsFit j.mode j.aad j.text then (false, refuseJob j.mode j.aad j.text p s) else (true, traceInline j p s)

/-- The jobs that a command runs before it can answer, in order, up to one that is refused; whether all ran (R309). -/
def inlineJobs (p : Option PolderId) (l : List InlineJob) (s : State) : Bool × State :=
  l.foldl (fun x j => if x.1 then inlineJob j p x.2 else x) (true, s)

/-- The derivation of a wrapping key (R296) and the AES-KW operation that follows it on a deed of a kind (R308). -/
def deedKeying (cls : Nat) (kind : BitVec 8) (source : KeySource) (key : Key256) : List InlineJob :=
  [{ cls := cls, mode := 1, aad := 0, text := 56, source := source, key := key, label := ascii "BR2 DEED KEYING", blocks := 2 },
   { cls := cls, mode := 2, aad := 0, text := if kind = 3 then 64 else 32, source := source, key := key }]

/-- Every job queued or running. -/
def allJobs (s : State) : List KcuJob := s.keys.kcu0.job.toList ++ s.keys.kcu1.job.toList ++ s.keys.queue

/-- Queue a job unless the same work is queued or running; a queued one is raised to the class (R312). -/
def needJob (cls : Nat) (work : KcuWork) (p : Option PolderId) (s : State) : State :=
  if (allJobs s).any fun j => j.work = work && !j.abandoned then
    { s with keys := { s.keys with
        queue := alter (fun j => j.work = work && cls < j.cls) (fun j => { j with cls := cls }) s.keys.queue } }
  else addJob cls work p s

/-! ### The DRBG (R317 to R320) -/

/-- Whether a reseed falls due: 2^20 requests, or 60 s since the last (R317). -/
def reseedDue (s : State) : Bool := 1048576 ≤ s.keys.requests.toNat || s.keys.reseededAt + 60000000000 ≤ s.time

/-- The personalisation string: the instance ID, the life-cycle code and the boot ROM version (R319). -/
def drbgPersonal (s : State) : Bytes :=
  beBytes 2 s.boot.instanceId.toNat ++ beBytes 2 s.lc.code.toNat ++ beBytes 4 Config.romVersion.toNat

/-- Instantiate the DRBG: the entropy input and the nonce come from the source and are free values (R319). -/
def instantiate (s : State) : State :=
  let entropy : BitVec 384 := (fresh s).setWidth 384
  let nonce : BitVec 128 := (fresh (tookFree s)).setWidth 128
  tookFree (tookFree { s with keys := { s.keys with
    instantiated := true, drbg := Config.drbgSeed entropy nonce (drbgPersonal s), requests := 0, reseededAt := s.time } })

/-- Reseed the DRBG from the source (R317, R319). -/
def reseed (s : State) : State :=
  tookFree { s with keys := { s.keys with
    drbg := Config.drbgReseed s.keys.drbg ((fresh s).setWidth 384), requests := 0, reseededAt := s.time, failures := 0 } }

/-- Whether a draw can be served (R319, R320). -/
def drbgAvailable (s : State) : Bool := s.keys.instantiated && !(s.keys.sourceFailed && reseedDue s)

/-- The reseed that precedes a request for which it is due (R317). -/
def reseedIfDue (s : State) : State := if reseedDue s && !s.keys.sourceFailed then reseed s else s

/-- What the DRBG generates next: 64 bytes (R317, R319). -/
def drbgNext (s : State) : Bytes := leBytes 64 (Config.drbgWord s.keys.drbg s.keys.draws).toNat

/-- The bytes from which the next draw is served: those in the buffer, then what the DRBG generates (R319). -/
def drbgBytes (s : State) : Bytes := s.keys.buffer ++ drbgNext s

/-- The value of the next draw: its first bytes are the low ones. A draw of n bytes is the value's low n bytes. -/
def drbgValue (s : State) : BitVec 512 := BitVec.ofNat 512 (leNat ((drbgBytes (reseedIfDue s)).take 64))

/-- Draw n bytes: a due reseed first, then from the buffer, which is refilled in class 4 below 128 B (R317, R319). What the
buffer lacks is generated by a job of the command's own; no draw is of 0 or of more than 64 bytes, so none is refused. -/
def drbgDraw (n : Nat) (s : State) : State :=
  let s := reseedIfDue s
  let more : Bool := decide (s.keys.buffer.length < n)
  let keys : KeyUnits := { s.keys with buffer := s.keys.buffer.drop n }
  let s : State := if !more then { s with keys := keys }
    else (inlineJob { cls := 4, mode := 5, aad := 0, text := n, source := .device .drbg, key := deviceKey s .drbg } none
      { s with keys := { keys with requests := keys.requests + 1, draws := keys.draws + 1 } }).2
  if s.keys.buffer.length < 128 then needJob 4 .drbgRefill none s else s

/-! ### Loading on demand -/

/-- What a use of a key finds. -/
inductive KeyUse where
  | ready
  | wait
  | failed (status : Status)
  deriving DecidableEq, Repr

/-- Whether something uses a copy of the keys in the slot of a polder: an access in progress, or a job (R305). -/
def slotUsed (s : State) (p : PolderId) : Bool :=
  (s.stack.reads.any fun w => w.polder = p) || ((allJobs s).any fun j => j.polder = some p)

/-- Whether a holder keeps the slot of a polder (R96, R305): an access in progress or queued, a fill, a job, a collective
rooted here, a piece of a hang sample that waits to be sealed, a chart, or a user that waits on an unwrap. -/
def slotHeld (s : State) (p : PolderId) : Bool :=
  slotUsed s p || (s.stack.keyWait.any fun w => w.polder = p) || (s.stack.held.any fun w => w.polder = p)
    || (s.stack.fillWait.any fun w => w.polder = p)
    || (s.stack.fills.any fun f => f.polder = p)
    || (s.coll.nodes.any fun n => n.launch.polder = p && n.root)
    || (s.tracer.sealing.any fun x => x.waiting.any fun i => x.owners.getD i 0 = p)
    || (s.charts.exports.any fun e => e.polder = p) || (s.charts.imports.any fun i => i.polder = p)
    || (s.cad.loads.any fun l => l.polder = p)

/-- The slots of the role, in index order. -/
def roleSlots (s : State) : List KeySlot :=
  (List.range (slotCount s.boot.role)).map fun i => getSlot s (BitVec.ofNat 8 i)

/-- The victim: the RESIDENT, unpinned slot with no holder whose last use is oldest, the lowest-numbered among equals
(R305). -/
def victim (s : State) : Option KeySlot :=
  ((roleSlots s).filter fun k => k.state = .resident && !k.pinned && !slotHeld s k.polder).foldl
    (fun best k => match best with
      | none => some k
      | some b => if k.lastUse < b.lastUse then some k else some b) none

/-- Take a FREE slot for a load: LOADING, and the PMK deed goes to a KCU (R303). -/
def takeSlot (i : BitVec 8) (p : PolderId) (s : State) : State :=
  let conf := isConfidential s p
  let s := { s with cad := { s.cad with
    loads := alter (fun l => l.polder = p) (fun l => { l with slot := some i }) s.cad.loads } }
  let pinned := match findPolder s p with | some q => q.pinned | none => false
  let index := match findPolder s p with | some q => q.slot | none => 0
  let s := writeSlot { freeSlot i with
    state := .loading, polder := p, polderSlot := index, pinned := pinned, confidential := conf, lastUse := s.time } s
  addJob 1 (.unwrapPmk p) (some p) (count 0x006 s)

/-- The slots that are EVICTING for a load, not for a teardown (R303, R305, R307). -/
def victims (s : State) : List KeySlot :=
  (roleSlots s).filter fun k => k.state = .evicting
    && (match findPolder s k.polder with | some q => q.teardown.isNone | none => true)

/-- The loads that have no slot yet, oldest first. -/
def slotless (s : State) : List SlotLoad := s.cad.loads.filter fun l => l.slot.isNone

/-- Give a load of a polder its slot, or a victim of its own to wait for, or let it wait (R303, R305, R306). The slot of the
polder itself may still be EVICTING: then the load waits for it. -/
def findSlotFor (p : PolderId) (s : State) : State :=
  if (slotOf s p).isSome then s
  else
    match (roleSlots s).find? fun k => k.state = .free with
    | some k => takeSlot k.index p s
    | none =>
      if (slotless s).length ≤ (victims s).length then s
      else
        match victim s with
        | some k => setSlot { k with state := .evicting } s
        | none => s

/-- Let every load that has no slot look for one again (R303, R306). -/
def retryLoads (s : State) : State := (slotless s).foldl (fun t l => findSlotFor l.polder t) s

/-- Begin a load of a polder for a kind, or join the one in progress (R303). -/
def beginLoad (p : PolderId) (kind : BitVec 8) (s : State) : State :=
  match s.cad.loads.find? fun l => l.polder = p with
  | some l =>
    if l.wanted.contains kind then s
    else { s with cad := { s.cad with
      loads := alter (fun l => l.polder = p) (fun l => { l with wanted := l.wanted ++ [kind] }) s.cad.loads } }
  | none =>
    findSlotFor p { s with cad := { s.cad with
      loads := s.cad.loads ++ [{ polder := p, slot := none, start := s.time, wanted := [kind], waiters := [] }] } }

/-- Whether no slot can ever be had: every slot is pinned or BAD (R306). -/
def noSlotAtAll (s : State) : Bool :=
  (roleSlots s).all fun k => k.state = .bad || (k.pinned && k.state != .free)

/-- A load ends at once for want of any slot: its record (R95, R306). -/
def noSlotRecord (p : PolderId) (s : State) : State :=
  writeFault .keyLoadFailed
    { unit := 0x0E00, status := statusCode .noSlot, polder := p, count := 1, detail := [0xFF, 0xFF, 0xFF] } s

/-- A key of a kind that a slot holds is read, under the slot's check (R300, R301). -/
def readKey (k : KeySlot) (kind : BitVec 8) (s : State) : KeyUse × State :=
  if slotSound s k then (.ready, setSlot { k with lastUse := s.time } s) else (.failed .slotBad, markSlotBad k kind s)

/-- The use of a key by a user: served, waiting on a load or unwrap, or ended with a status (R301, R303, R304, R306,
R547). Once teardown has begun, the work admitted before it still uses the keys its slot held (R305, R449). -/
def needKey (p : PolderId) (kind : BitVec 8) (s : State) : KeyUse × State :=
  match findPolder s p with
  | none => (.failed .squashed, s)
  | some q =>
    if q.slotBad then (.failed .slotBad, s)
    else
      match q.loadFailed with
      | some st => (.failed st, s)
      | none =>
        match slotOf s p with
        | some k =>
          if q.teardown.isSome then
            (if k.state = .evicting && slotHas k kind then readKey k kind s else (.failed .squashed, s))
          else if k.state = .resident then
            if slotHas k kind then readKey k kind s
            else (.wait, needJob 1 (.unwrapKey p kind) (some p) s)
          else (.wait, beginLoad p kind s)
        | none =>
          if q.teardown.isSome then (.failed .squashed, s)
          else if noSlotAtAll s then (.failed .noSlot, noSlotRecord p s) else (.wait, beginLoad p kind s)

/-- End a load that failed a check: the slot is zeroized and FREE for the loads that wait, the deed failure recorded, and the
polder is not loaded again until its teardown (R303, R304, R547). -/
def failLoad (q : Polder) (kind : BitVec 8) (f : DeedFail) (s : State) : State :=
  let s := match slotOf s q.id with
    | some k => zeroizeSlot k .free s
    | none => s
  let s := modPolder q.id (fun p => { p with loadFailed := some f.status }) s
  let s := { s with cad := { s.cad with loads := s.cad.loads.filter fun l => l.polder ≠ q.id } }
  let s := abandonJobs q.id s
  retryLoads <| writeFault .keyDeedFailed
    { unit := 0x0E00, status := statusCode f.status, polder := q.id,
      detail := [BitVec.ofNat 8 f.check, kind] ++ leBytes 2 q.handle.toNat } s

/-- Close the debug sluice before a confidential polder's slot becomes resident (R23, R470). -/
def closeDebugFor (conf : Bool) (s : State) : State :=
  if conf && s.lc.auth.isSome then emit .debugClosed { s with lc := { s.lc with auth := none } } else s

/-- The PMK enters the slot: RESIDENT; the wanted kinds are unwrapped first, the others in the background (R303,
R304). -/
def pmkLoaded (q : Polder) (key : Bytes) (s : State) : State :=
  match slotOf s q.id with
  | none => s
  | some k =>
    let s := closeDebugFor q.confidential s
    let s := writeSlot { putKey k 1 key with state := .resident, lastUse := s.time } s
    let wanted := match s.cad.loads.find? fun l => l.polder = q.id with | some l => l.wanted | none => []
    let s := { s with cad := { s.cad with loads := s.cad.loads.filter fun l => l.polder ≠ q.id } }
    let kinds := (roleKinds s.boot.role).filter (· ≠ 1)
    let s := (kinds.filter wanted.contains).foldl (fun t c => needJob 1 (.unwrapKey q.id c) (some q.id) t) s
    (kinds.filter fun c => !wanted.contains c).foldl (fun t c => needJob 3 (.unwrapKey q.id c) (some q.id) t) s

/-- A working key enters the slot (R304). -/
def keyLoaded (q : Polder) (kind : BitVec 8) (key : Bytes) (s : State) : State :=
  match slotOf s q.id with
  | none => s
  | some k => writeSlot (putKey k kind key) s

end Sys2Proof.Machine
end

