-- ==== Sys2Proof/Machine/Operands.lean ====
section
/-! DEFINITION. The layouts that commands and packets are read from and written to: protected packets and link notices
(R50 to R57), queue descriptors (R387), and their fields. -/

namespace Sys2Proof.Machine

/-! ### Protected packets -/

/-- The clear headers of a packet (R51, R53), reserved bits included. -/
structure Header where
  dst        : InstId
  mc         : Bool
  version    : BitVec 2
  src        : InstId
  reserved0  : BitVec 3
  cls        : BitVec 4
  reserved1  : BitVec 4
  length     : BitVec 13
  reserved1b : BitVec 11
  polder     : PolderId
  sid        : BitVec 16
  epoch      : BitVec 32
  counter    : BitVec 32
  kind       : BitVec 2
  epochFirst : Bool
  retry      : Bool
  reserved7  : BitVec 28
  deriving DecidableEq, Repr

/-- Word n of a byte string. -/
def word32 (b : Bytes) (n : Nat) : BitVec 32 := BitVec.ofNat 32 (leField b (4 * n) 4)

/-- Read the two clear headers (R51, R53). -/
def parseHeader (b : Bytes) : Header :=
  let w0 := word32 b 0
  let w1 := word32 b 1
  let w4 := word32 b 4
  let w7 := word32 b 7
  { dst := w0.extractLsb' 0 13, mc := w0.getLsbD 13, version := w0.extractLsb' 14 2, src := w0.extractLsb' 16 13,
    reserved0 := w0.extractLsb' 29 3, cls := w1.extractLsb' 0 4, reserved1 := w1.extractLsb' 4 4,
    length := w1.extractLsb' 8 13, reserved1b := w1.extractLsb' 21 11, polder := w4.extractLsb' 0 16,
    sid := w4.extractLsb' 16 16, epoch := word32 b 5, counter := word32 b 6, kind := w7.extractLsb' 0 2,
    epochFirst := w7.getLsbD 2, retry := w7.getLsbD 3, reserved7 := w7.extractLsb' 4 28 }

/-- Whether reserved bits of outer words 0 and 1 are clear. -/
def outerClean (h : Header) : Bool := h.reserved0 = 0 && h.reserved1 = 0 && h.reserved1b = 0

/-- Outer words 0 and 1 (R51). -/
def outerWords (dst : InstId) (mc : Bool) (version : BitVec 2) (src : InstId) (cls : BitVec 4) (length : Nat) : Bytes :=
  leBytes 4 (dst.toNat + (if mc then 8192 else 0) + 16384 * version.toNat + 65536 * src.toNat)
    ++ leBytes 4 (cls.toNat + 256 * length)

/-- The security header (R53). -/
def securityHeader (p : PolderId) (sid : BitVec 16) (epoch counter : BitVec 32) (kind : BitVec 2)
    (epochFirst retry : Bool) : Bytes :=
  leBytes 2 p.toNat ++ leBytes 2 sid.toNat ++ leBytes 4 epoch.toNat ++ leBytes 4 counter.toNat
    ++ leBytes 4 (kind.toNat + (if epochFirst then 4 else 0) + (if retry then 8 else 0))

/-- The inner header as 32 bytes (R54). -/
def innerBytes (i : Inner) : Bytes :=
  leBytes 8 i.offset.toNat ++ leBytes 4 i.regionKey.toNat ++ leBytes 4 i.seq.toNat ++ leBytes 2 i.ctag.toNat
    ++ leBytes 2 i.opLength.toNat ++ [i.opcode, BitVec.ofNat 8 (i.classLabel.toNat + 16 * i.opFlags.toNat)]
    ++ leBytes 2 i.modifier.toNat ++ leBytes 4 i.aux.toNat ++ zeros 4

/-- Read an inner header (R54). -/
def parseInner (b : Bytes) : Inner :=
  { offset := BitVec.ofNat 64 (leField b 0 8), regionKey := BitVec.ofNat 32 (leField b 8 4),
    seq := BitVec.ofNat 32 (leField b 12 4), ctag := BitVec.ofNat 16 (leField b 16 2),
    opLength := BitVec.ofNat 13 (leField b 18 2), opcode := BitVec.ofNat 8 (leField b 20 1),
    classLabel := BitVec.ofNat 4 (leField b 21 1), opFlags := BitVec.ofNat 4 (leField b 21 1 / 16),
    modifier := BitVec.ofNat 16 (leField b 22 2), aux := BitVec.ofNat 32 (leField b 24 4) }

/-- Whether the reserved bits of an inner header are clear (R54). -/
def innerClean (b : Bytes) : Bool := leField b 18 2 < 8192 && leField b 28 4 = 0

/-- The 96-bit GCM IV of a packet (R56). -/
def packetIv (src : InstId) (sid : BitVec 16) (epoch counter : BitVec 32) : BitVec 96 :=
  BitVec.ofNat 96 (beNat (beBytes 2 src.toNat ++ beBytes 2 sid.toNat ++ beBytes 4 epoch.toNat ++ beBytes 4 counter.toNat))

/-- The counter block of GCM for a 96-bit IV and a counter; J0 is that of counter 1 (SP 800-38D, R56). -/
def gcmCounter (iv : BitVec 96) (n : Nat) : BitVec 128 := iv ++ BitVec.ofNat 32 n

/-- Byte n of the GCM key stream: the blocks from counter 2 on, encrypted (SP 800-38D, R56). -/
def gcmStream (key : Key256) (iv : BitVec 96) (n : Nat) : Byte :=
  (Config.aesEncrypt key (gcmCounter iv (2 + n / 16)) >>> (8 * (15 - n % 16))).setWidth 8

/-- Bytes as 16-byte blocks, the last filled with zeros. -/
def gcmBlocks (b : Bytes) : List (BitVec 128) :=
  (List.range ((b.length + 15) / 16)).map fun i => BitVec.ofNat 128 (beNat (padTo 16 (slice b (16 * i) 16)))

/-- The full 128-bit GCM tag: GHASH of the associated data, the ciphertext and their bit lengths, under the encrypted J0
(SP 800-38D, R56). -/
def gcmTag (key : Key256) (iv : BitVec 96) (aad ct : Bytes) : BitVec 128 :=
  let lengths : BitVec 128 := BitVec.ofNat 64 (8 * aad.length) ++ BitVec.ofNat 64 (8 * ct.length)
  Config.aesEncrypt key (gcmCounter iv 1)
    ^^^ Config.ghash (Config.aesEncrypt key 0) (gcmBlocks aad ++ gcmBlocks ct ++ [lengths])

/-- Encrypt or decrypt bytes with the GCM key stream (R56). -/
def gcmCrypt (key : Key256) (iv : BitVec 96) (b : Bytes) : Bytes :=
  (List.range b.length).zipWith (fun n x => x ^^^ gcmStream key iv n) b

/-- The 16-byte tag over associated data and ciphertext (R56). -/
def gcmTagBytes (key : Key256) (iv : BitVec 96) (aad ct : Bytes) : Bytes := beBytes 16 (gcmTag key iv aad ct).toNat

/-- The associated data of a packet: bytes 0 to 7 and 16 to 31 (R56). -/
def packetAad (b : Bytes) : Bytes := b.take 8 ++ slice b 16 16

/-- A link notice (R57): outer header of version 0b10 and length 0, then its body; words 2 and 3 are the fabric's. DESIGN
CHOICE: its class field is 0, which R57 does not give (notes/assumptions/69.md). -/
def linkNotice (dst src : InstId) (p : PolderId) (sid : BitVec 16) (epoch counter : BitVec 32) (words23 : Bytes) :
    Bytes :=
  outerWords dst false 2 src 0 0 ++ words23 ++ leBytes 2 p.toNat ++ leBytes 2 sid.toNat ++ leBytes 4 epoch.toNat
    ++ leBytes 4 counter.toNat ++ [statusCode .polderGone, 0, 0, 0]

/-- A destination as R63 codes it: a group has bit 15 set. -/
def destOf (mc : Bool) (d : InstId) : Dest := BitVec.ofNat 16 (d.toNat + if mc then 32768 else 0)

/-- Whether a destination is a multicast group. -/
def destIsGroup (d : Dest) : Bool := d.getLsbD 15

/-- The instance or group number of a destination. -/
def destId (d : Dest) : InstId := d.extractLsb' 0 13

/-- The width in bytes that an atomic's op_modifier names (R146). -/
def atomicWidth (m : BitVec 16) : Nat := 2 ^ (m.extractLsb' 4 2).toNat

/-- Whether an atomic is a compare-and-swap (R146). -/
def atomicIsCas (m : BitVec 16) : Bool := m.extractLsb' 0 4 = 2

/-- The operand bytes of an atomic: its width, or twice its width for compare-and-swap (R145, R542). -/
def atomicOperand (m : BitVec 16) : Nat := if atomicIsCas m then 2 * atomicWidth m else atomicWidth m

/-! ### Queue descriptors (R387) -/

/-- The kind of a descriptor. -/
def descKind (d : Bytes) : Nat := leField d 0 1

/-- The completion tag of a descriptor. -/
def descCtag (d : Bytes) : BitVec 16 := BitVec.ofNat 16 (leField d 2 2)

/-- The context a descriptor names. -/
def descContext (d : Bytes) : CtxId := BitVec.ofNat 12 (leField d 4 2)

/-- The reserved byte ranges of each kind, as offset and length (R387). -/
def descReserved (kind : Nat) : List (Nat × Nat) :=
  match kind with
  | 1 => [(9, 1), (20, 4), (37, 3), (44, 20)]
  | 2 => [(43, 5)]
  | 3 => [(13, 3), (24, 40)]
  | 4 => [(8, 8), (32, 32)]
  | 5 | 6 => [(10, 6), (24, 40)]
  | 7 => [(13, 3), (21, 3), (32, 32)]
  | _ => []

/-- The fields of each kind that hold fewer bits than their bytes: offset, length, bound of the value (R387). -/
def descBounds (kind : Nat) : List (Nat × Nat × Nat) :=
  match kind with
  | 1 => [(14, 2, 8192)]
  | 3 => [(10, 2, 512), (12, 1, 64)]
  | 5 | 6 => [(8, 2, 16384)]
  | _ => []

/-- Whether a descriptor's kind is assigned and its reserved bits are clear (R368, R387). In REMOTE_OP, bits 14 and 13
beside dst are reserved, and the increment is zero except in a signal. -/
def descWellFormed (d : Bytes) : Bool :=
  let k := descKind d
  d.length = 64 && 1 ≤ k && k ≤ 7 && leField d 1 1 = 0 && leField d 4 2 < 4096 && leField d 6 2 = 0
    && (descReserved k).all (fun r => (slice d r.1 r.2).all (· = 0))
    && (descBounds k).all (fun r => leField d r.1 r.2.1 < r.2.2)
    && (k ≠ 1 || ((BitVec.ofNat 16 (leField d 12 2)).extractLsb' 13 2 = 0
      && (leField d 8 1 = 6 || leField d 40 4 = 0)))

/-- The remote request of a REMOTE_OP descriptor (R135, R387). -/
def descRemote (d : Bytes) : RemoteReq :=
  { context := descContext d, opcode := BitVec.ofNat 8 (leField d 8 1), modifier := BitVec.ofNat 16 (leField d 10 2),
    dst := BitVec.ofNat 13 (leField d 12 2), mc := decide (32768 ≤ leField d 12 2),
    regionKey := BitVec.ofNat 32 (leField d 16 4), offset := BitVec.ofNat 64 (leField d 24 8),
    len := BitVec.ofNat 13 (leField d 14 2), localAddr := BitVec.ofNat 40 (leField d 32 5), ctag := descCtag d,
    increment := BitVec.ofNat 32 (leField d 40 4) }

end Sys2Proof.Machine
end

