-- ==== Sys2Proof/Machine/Link.lean ====
section
/-! DEFINITION. The Link Cipher Engine: streams, sealing, the receive checks, the replay window and link notices
(chapter 3, R537, R542). -/

namespace Sys2Proof.Machine

/-- Fabric ports, and so LCE slices per direction, of a role (R5, R36). -/
def portCount : Role → Nat
  | .e => 16 | .s => 48 | .t => 16

/-- The unit number of a TX slice (R432). -/
def txUnit (slice : BitVec 8) : BitVec 16 := BitVec.ofNat 16 (0x0100 + slice.toNat)

/-- The unit number of an RX slice (R432). -/
def rxUnit (slice : BitVec 8) : BitVec 16 := BitVec.ofNat 16 (0x0200 + slice.toNat)

/-- The event counters of a slice start here: TX slices first, then RX slices (R473). -/
def sliceCounter (s : State) (receive : Bool) (slice : BitVec 8) : Nat :=
  0x040 + 4 * (slice.toNat + if receive then portCount s.boot.role else 0)

/-- Whether an instance's bit is set in a membership list (R16). -/
def isMember (p : Polder) (i : InstId) : Bool := p.members.getLsbD i.toNat

/-- Whether this instance is admitted to a polder: its own bit is set (R15, R537). -/
def admitted (s : State) (p : PolderId) : Bool :=
  match findPolder s p with
  | some q => isMember q s.boot.instanceId
  | none => false

/-- Whether the instance seals and accepts packets at all: not out of service, not frozen by a transition (R446, R466). -/
def linkServes (s : State) : Bool := running s && !s.sb.outOfService && !s.lc.frozen

/-- Eight stream counters of zero (R536). -/
def noCounts : List (BitVec 32) := List.replicate 8 0

/-- Increment one of a stream's counters (R73, R536). -/
def incAt (i : Nat) (l : List (BitVec 32)) : List (BitVec 32) := l.modify i satInc

/-- Add to one of a stream's counters (R73, R536). -/
def addAt (i n : Nat) (l : List (BitVec 32)) : List (BitVec 32) := l.modify i fun c => satAdd c n

/-! ### Link notices -/

/-- Answer a dropped packet with ST_POLDER_GONE (R57). Words 2 and 3 are the fabric's and hold a free value. -/
def sendNotice (h : Header) (s : State) : State :=
  emit (.notice (linkNotice h.src s.boot.instanceId h.polder h.sid h.epoch h.counter (leBytes 8 (fresh s).toNat)))
    (tookFree s)

/-! ### Transmit -/

/-- The reference of a transmit stream. -/
def txRef (t : TxStream) : StreamRef := .tx t.polder t.dest t.sid

/-- The transmit stream of a destination, class and lane (R244). -/
def findTx (s : State) (p : PolderId) (d : Dest) (cls : BitVec 4) (lane : Nat) : Option TxStream :=
  s.link.tx.find? fun t => t.polder = p && t.dest = d && t.cls = cls && t.lane = lane

/-- Whether an element of the transmit table is this stream. -/
def sameTx (t : TxStream) (x : TxStream) : Bool := x.polder = t.polder && x.dest = t.dest && x.sid = t.sid

/-- Replace a transmit stream. -/
def setTx (t : TxStream) (s : State) : State :=
  { s with link := { s.link with tx := upsert (sameTx t) t s.link.tx } }

/-- The slice that caches a stream (R75). -/
def cachedIn (s : State) (r : StreamRef) : Option (BitVec 8) := s.link.cached.lookup r

/-- The first and the last stream ID of a destination (R53, R61). -/
def sidRange (d : Dest) : Nat × Nat := if destIsGroup d then (0x8000, 0xFFFE) else (0x0001, 0x7FFF)

/-- The record of a stream whose IDs or epochs are used up (R58, R66). DESIGN CHOICE: it names TX slice 0, since no slice has
sealed the packet, and stream ID 0 when the IDs are used up, since no ID was given (notes/assumptions/69.md). -/
def streamExhausted (p : PolderId) (d : Dest) (sid : BitVec 16) (s : State) : State :=
  writeFault .linkStreamExhausted
    { unit := 0x0100, status := statusCode .exhausted, polder := p,
      peer := if destIsGroup d then none else some (destId d),
      detail := leBytes 2 sid.toNat ++ leBytes 2 d.toNat } s

/-- The slice at which a packet of a stream arrives: the one that caches the entry, else a free one (R75). -/
def txSliceOf (s : State) (p : PolderId) (d : Dest) (cls : BitVec 4) (lane : Nat) : BitVec 8 :=
  match findTx s p d cls lane with
  | some t => (cachedIn s (txRef t)).getD (BitVec.ofNat 8 (Config.txSlice p d t.sid % portCount s.boot.role))
  | none => BitVec.ofNat 8 (Config.txSlice p d 0 % portCount s.boot.role)

/-- The slice at which a packet arrives. -/
def packetSlice (s : State) (k : TxPacket) : BitVec 8 := txSliceOf s k.polder k.dest k.cls k.lane

/-- The packets of a TX slice's miss queue (R75). -/
def missRoom : Nat := 16

/-- Whether a waiting packet stands behind a full miss queue: 16 packets that wait at its slice came before it, so that
the slice holds back everything after them (R40, R75). -/
def txBehind (s : State) (k : TxPacket) : Bool :=
  decide (missRoom ≤ ((s.link.txWait.takeWhile (· ≠ k)).filter fun w => packetSlice s w = packetSlice s k).length)

/-- Open a transmit stream: the next ID of its polder and destination, at epoch 0, counter 0 (R58, R60, R64). DEDUCED: a full
table writes the LINK_STREAM_FULL record of R60 with stream ID and port 0, as R160 asks for a record
(notes/assumptions/69.md). -/
def openTx (p : PolderId) (d : Dest) (cls : BitVec 4) (lane : Nat) (s : State) : Option TxStream × State :=
  if 16384 ≤ s.link.tx.length then
    (none, writeFault .linkStreamFull
      { unit := 0x0100, status := statusCode .exhausted, polder := p,
        peer := if destIsGroup d then none else some (destId d), detail := [0, 0, 0] } s)
  else
    let n := (sidRange d).1 + assocGet (p, d) 0 s.link.nextSid
    if (sidRange d).2 < n then (none, streamExhausted p d 0 s)
    else
      let t : TxStream :=
        { polder := p, dest := d, sid := BitVec.ofNat 16 n, cls := cls, lane := lane, epoch := 0, counter := 0,
          key := none, nextKey := none, requested := false, stalled := false, ended := false, counts := noCounts }
      (some t, { s with link := { s.link with
        tx := s.link.tx ++ [t]
        nextSid := assocSet (p, d) (assocGet (p, d) 0 s.link.nextSid + 1) s.link.nextSid } })

/-- The bytes of a sealed packet (R50 to R56). -/
def sealedBytes (s : State) (t : TxStream) (key : Key256) (k : TxPacket) : Bytes :=
  let src := s.boot.instanceId
  let outer := outerWords (destId t.dest) (destIsGroup t.dest) 1 src t.cls k.payload.length
  let sec := securityHeader t.polder t.sid t.epoch t.counter k.kind (t.counter = 0 && t.epoch ≠ 0) k.retry
  let iv := packetIv src t.sid t.epoch t.counter
  let ct := gcmCrypt key iv (innerBytes k.inner ++ k.payload)
  outer ++ leBytes 8 (fresh s).toNat ++ sec ++ ct ++ gcmTagBytes key iv (outer ++ sec) ct

/-- Note the transmission of an operation's packet (R154, R155). -/
def noteSent (owner : TxOwner) (t : TxStream) (s : State) : State :=
  match owner with
  | .op id =>
    let stamp := fun (o : OutOp) => { o with
      firstTx := some (o.firstTx.getD s.time)
      lastTx := s.time
      sentAs := o.sentAs ++ [(t.sid, t.epoch, t.counter)] }
    { s with fau := { s.fau with ops := alter (fun o => o.id = id) stamp s.fau.ops } }
  | .ringRequest ring member seq =>
    let mine := fun (q : RingReq) => q.ring = ring && q.member = member && q.seq = seq
    let stamp := fun (q : RingReq) => { q with firstTx := some (q.firstTx.getD s.time), lastTx := s.time }
    { s with rings := { s.rings with requests := alter (fun q => mine q) stamp s.rings.requests } }
  | _ => s

/-- The stream after it has sealed one packet: its counter, and at the last counter its epoch (R64 to R66). -/
def advanceTx (t : TxStream) (payload : Nat) (retry : Bool) : TxStream :=
  let counts := addAt 1 payload (incAt 0 t.counts)
  let counts := if retry then incAt 3 counts else counts
  if t.counter = BitVec.allOnes 32 then
    if t.epoch = BitVec.allOnes 32 then { t with ended := true, counts := counts }
    else { t with epoch := t.epoch + 1, counter := 0, key := t.nextKey, nextKey := none, requested := false,
                  stalled := t.nextKey.isNone, counts := counts }
  else { t with counter := t.counter + 1, counts := counts }

/-- The next number of a sequence space (R162). -/
def spaceNext (s : State) (p : PolderId) (d : Dest) : BitVec 32 :=
  match s.fau.spaces.find? fun x => x.polder = p && x.dest = d with
  | some x => x.next
  | none => 0

/-- The numbers of a space that are outstanding: remote operations and ring requests (R161, R189). -/
def outstandingSeqs (s : State) (p : PolderId) (d : Dest) : List (BitVec 32) :=
  ((s.fau.ops.filter fun o => o.polder = p && o.dest = d).map (·.seq))
    ++ s.rings.requests.filterMap fun r =>
      match (s.rings.rings ++ s.rings.retired).find? fun x => x.id = r.ring with
      | some x => if x.polder = p && destOf false (x.members.getD r.member.toNat 0) = d then some r.seq else none
      | none => none

/-- The value of A of a sequence space: its lowest number outstanding, or the next (R163). -/
def oldestUnanswered (s : State) (p : PolderId) (d : Dest) : BitVec 32 :=
  (outstandingSeqs s p d).foldl (fun a n => if serialLt n a then n else a) (spaceNext s p d)

/-- Take the next number of a space (R162). -/
def takeSeq (p : PolderId) (d : Dest) (s : State) : State :=
  { s with fau := { s.fau with
      spaces := upsert (fun x => x.polder = p && x.dest = d) { polder := p, dest := d, next := spaceNext s p d + 1 }
        s.fau.spaces } }

/-- The packet as it is sealed: a request other than a signal takes the present A into its aux (R164, R189). -/
def sealedForm (k : TxPacket) (s : State) : TxPacket :=
  let op := k.inner.opcode.toNat
  if k.kind = 0 && ((1 ≤ op && op ≤ 7 && op ≠ 6) || op = 0x0B) then
    { k with inner := { k.inner with aux := oldestUnanswered s k.polder k.dest } }
  else k

/-- Ask ahead for the subkey of a stream's next epoch (R65, R67): a use of the polder's link key like any other, which
may begin a load or find that none is to be had (R303, R547). Whether it was asked for. -/
def askNext (r : StreamRef) (p : PolderId) (epoch : BitVec 32) (s : State) : Bool × State :=
  match needKey p 2 s with
  | (.ready, s) => (true, needJob 3 (.streamKey r epoch) (some p) s)
  | (_, s) => (false, s)

/-- Seal one packet of a stream in a slice under its present key and send it (R56, R59, R486). The next epoch's subkey is asked
for at counter 0x8000_0000 (R65); where a load of the polder's keys comes first, with the packets after it. -/
def sealPacket (t : TxStream) (slice : BitVec 8) (key : Key256) (k : TxPacket) (s : State) : State :=
  let k := sealedForm k s
  let s := tookFree (emit (.packet (sealedBytes s t key k)) s)
  let s := countBy (sliceCounter s false slice + 1) k.payload.length (count (sliceCounter s false slice) s)
  let s := meter t.polder 0 (80 + k.payload.length) s
  let s := if t.counter.toNat % 4096 = 0 then
      emitTrace 1 0x0101 (txUnit slice) t.polder none
        (leBytes 2 s.boot.instanceId.toNat ++ leBytes 2 t.dest.toNat ++ leBytes 2 t.sid.toNat ++ zeros 2
          ++ leBytes 4 t.epoch.toNat ++ leBytes 4 t.counter.toNat) s
    else s
  let s := noteSent k.owner t s
  let t' := advanceTx t k.payload.length k.retry
  if 0x80000000 ≤ t.counter.toNat && t.counter ≠ BitVec.allOnes 32 && t.epoch ≠ BitVec.allOnes 32 && !t'.requested then
    let x := askNext (txRef t) t.polder (t.epoch + 1) s
    setTx { t' with requested := x.1 } x.2
  else setTx t' s

/-- Ask for what a stream lacks: its entry in a slice, or its subkey (R65, R75). A stall at a rollover is counted. -/
def requestTx (t : TxStream) (s : State) : State :=
  match t.key with
  | some _ => s
  | none =>
    let s := if t.stalled then setTx { t with counts := incAt 2 t.counts, stalled := false } s else s
    match needKey t.polder 2 s with
    | (.ready, s) => needJob 1 (.streamKey (txRef t) t.epoch) (some t.polder) s
    | (_, s) => s

/-- The context that a packet is sent for, if it has one. -/
def txContext (s : State) (k : TxPacket) : Option CtxId :=
  match k.owner with
  | .op id => (s.fau.ops.find? fun o => o.id = id).map (·.req.context)
  | .collective p id => (s.coll.participants.find? fun x => x.launch.polder = p && x.launch.id = id).map (·.context)
  | .barrier p id => (s.bars.arrivals.find? fun a => a.polder = p && a.id = id).map (·.context)
  | _ => none

/-- Whether a packet is admitted by the Weir at once, and only charged to its class: one without payload, as heartbeats
and barrier packets are, or a receipt (R408). -/
def atOnce (k : TxPacket) : Bool := k.payload.isEmpty || (k.kind = 2 && k.inner.opFlags = 4)

/-- The packet of a stream that is sealed next: the oldest, of those that its Weir admits once a slice caches the stream
(R411). -/
def nextTx (p : PolderId) (d : Dest) (cls : BitVec 4) (lane : Nat) (slice : Option (BitVec 8)) (s : State) : Option TxPacket :=
  let admits := fun (k : TxPacket) => match slice with
    | some n => atOnce k || weirAdmits s (portWeir s.boot.role n).index cls
    | none => true
  s.link.txWait.find? fun k => k.polder = p && k.dest = d && k.cls = cls && k.lane = lane && admits k

/-- Seal the packets that wait on a stream, in order, while its entry is cached and its subkey held, the slice and its
Weir serve and no full miss queue stands before them (R42, R75, R411); n bounds them. -/
def pumpTx (p : PolderId) (d : Dest) (cls : BitVec 4) (lane : Nat) : Nat → State → State
  | 0, s => s
  | n + 1, s =>
    let stream := findTx s p d cls lane
    match nextTx p d cls lane (stream.bind fun t => cachedIn s (txRef t)) s, stream with
    | some k, some t =>
      if !linkServes s || !admitted s p || isFrozen s p || t.ended || txBehind s k then s
      else
        match cachedIn s (txRef t), t.key with
        | some slice, some key =>
          if hungFor s (txUnit slice) (txContext s k) then s
          else
            match wakeAll [⟨.lceTx, slice⟩, portWeir s.boot.role slice] s with
            | (true, s) => s
            | (false, s) => pumpTx p d cls lane n
                (sealPacket t slice key k { s with link := { s.link with txWait := s.link.txWait.erase k } })
        | _, _ => requestTx t s
    | _, _ => s

/-- The stream that a packet is sent on: one that holds its subkey needs no key of the polder's slot (R294); one without
it, or a new one, needs the link key (R75, R303). An ended stream takes no packet (R66). -/
def streamFor (k : TxPacket) (s : State) : Except Status TxStream × State :=
  match findTx s k.polder k.dest k.cls k.lane with
  | some t =>
    if t.ended then (.error .exhausted, streamExhausted k.polder k.dest t.sid s)
    else if t.key.isSome then (.ok t, s)
    else
      match needKey k.polder 2 s with
      | (.failed st, s) => (.error st, s)
      | (_, s) => (.ok t, s)
  | none =>
    match needKey k.polder 2 s with
    | (.failed st, s) => (.error st, s)
    | (_, s) =>
      match openTx k.polder k.dest k.cls k.lane s with
      | (some t, s) => (.ok t, s)
      | (none, s) => (.error .exhausted, s)

/-- Send a packet: none when it is sealed or waits for its stream, or the status of a send that cannot be made (R15,
R58, R60, R66, R446, R537, R538). During teardown only the answers of admitted requests are still sent (R449). A packet
whose stream no slice caches counts a miss at the slice where it arrives (R75, R473). -/
def sendPacket (k : TxPacket) (s : State) : Option Status × State :=
  match findPolder s k.polder with
  | none => (some .badParam, s)
  | some q =>
    if (q.teardown.isSome && k.owner ≠ .none) || !linkServes s then (some .squashed, s)
    else if !isMember q s.boot.instanceId then (some .denied, s)
    else
      match streamFor k s with
      | (.error st, s) => (some st, s)
      | (.ok t, s) =>
        let s := if (cachedIn s (txRef t)).isNone then count (sliceCounter s false (packetSlice s k) + 3) s else s
        (none, pumpTx k.polder k.dest k.cls k.lane (s.link.txWait.length + 1)
          { s with link := { s.link with txWait := s.link.txWait ++ [k] } })

/-- Send a packet whose failure is of no further consequence: an answer, a heartbeat, a receipt (R537). -/
def sendQuietly (k : TxPacket) (s : State) : State := (sendPacket k s).2

/-! ### Answers -/

/-- A completion for a released request: status and flags in aux, and its data (R55, R242, R542). It returns on a
unicast stream of the request's class. -/
def sendCompletion (r : Released) (st : Status) (flags : BitVec 6) (data : Bytes) (s : State) : State :=
  sendQuietly
    { polder := r.polder, dest := destOf false r.src, cls := r.cls, lane := 0, kind := 1, retry := false,
      inner := { offset := 0, regionKey := 0, seq := r.inner.seq, ctag := r.inner.ctag,
                 opLength := BitVec.ofNat 13 data.length, opcode := 0x08, classLabel := r.cls, opFlags := 0,
                 modifier := 0, aux := BitVec.ofNat 32 ((statusCode st).toNat + 256 * flags.toNat) },
      payload := data, owner := .none } s

/-! ### Receive -/

/-- The receive stream of a packet (R58, R61). -/
def findRx (s : State) (p : PolderId) (src : InstId) (sid : BitVec 16) (g : Option InstId) : Option RxStream :=
  s.link.rx.find? fun r => r.polder = p && r.src = src && r.sid = sid && r.group = g

/-- Replace a receive stream, or add it. -/
def setRx (r : RxStream) (s : State) : State :=
  { s with link := { s.link with
      rx := upsert (fun x => x.polder = r.polder && x.src = r.src && x.sid = r.sid && x.group = r.group) r s.link.rx } }

/-- The group a packet is addressed to. -/
def headerGroup (h : Header) : Option InstId := if h.mc then some h.dst else none

/-- The reference of the receive stream of a packet. -/
def rxRef (h : Header) : StreamRef := .rx h.polder h.src h.sid (headerGroup h)

/-- Whether this instance has joined a group for a polder (R61). -/
def joined (s : State) (g : InstId) (p : PolderId) : Bool :=
  s.link.joins.any fun j => j.group = g && j.polder = p

/-- Count a drop at check 1 or 2 for a port (R71). -/
def countPort (malformed : Bool) (port : BitVec 8) (s : State) : State :=
  if malformed then
    { s with link := { s.link with malformed := assocSet port (satInc (assocGet port 0 s.link.malformed)) s.link.malformed } }
  else
    { s with link := { s.link with unknown := assocSet port (satInc (assocGet port 0 s.link.unknown)) s.link.unknown } }

/-- Whether a protected packet passes check 1 of R71. -/
def passesCheck1 (b : Bytes) (h : Header) (s : State) : Bool :=
  64 ≤ b.length && h.version = 1 && outerClean h && h.length.toNat ≤ 4096 && b.length = 80 + h.length.toNat
    && (if h.mc then joined s h.dst h.polder else h.dst = s.boot.instanceId)

/-- Whether a stream ID fits its packet: not reserved, and in the range of its kind of address (R71 check 4). -/
def sidFits (h : Header) : Bool :=
  h.sid ≠ 0 && h.sid ≠ 0xFFFF && (h.mc == decide (0x8000 ≤ h.sid.toNat))

/-- The sequence value of a packet (R68). -/
def packetSeq (h : Header) : Nat := h.epoch.toNat * 4294967296 + h.counter.toNat

/-- Whether a value may still be accepted by a window (R68). -/
def windowFree (r : RxStream) (v : Nat) : Bool :=
  r.w.toNat < v || (r.w.toNat ≤ v + 1023 && !r.window.getLsbD (r.w.toNat - v))

/-- Accept a value into a window (R68). -/
def windowSet (r : RxStream) (v : Nat) : RxStream :=
  if r.w.toNat < v then
    { r with w := BitVec.ofNat 64 v, window := (r.window <<< (v - r.w.toNat)) ||| 1 }
  else { r with window := r.window ||| BitVec.ofNat 1024 (2 ^ (r.w.toNat - v)) }

/-- The subkey that a receive stream holds for an epoch (R67). -/
def rxKey (r : RxStream) (epoch : BitVec 32) : Option Key256 :=
  if epoch = r.h then r.key else if epoch = r.h + 1 then r.nextKey else r.prevKey

/-- Whether an epoch lies within H − 1 to H + 1 (R67). -/
def epochHeld (r : RxStream) (epoch : BitVec 32) : Bool :=
  r.h.toNat ≤ epoch.toNat + 1 && epoch.toNat ≤ r.h.toNat + 1

/-- A verified packet of epoch H + 1 raises H: the oldest subkey goes, the next is requested (R67). -/
def raiseEpoch (r : RxStream) (epoch : BitVec 32) : RxStream :=
  if r.h.toNat < epoch.toNat then { r with h := epoch, prevKey := r.key, key := r.nextKey, nextKey := none } else r

/-- The record of a failed tag: the first in 1 ms, with the failures folded since the last (R72). -/
def authRecord (port : BitVec 8) (h : Header) (folded : BitVec 32) (s : State) : State :=
  writeFault .linkAuthFail
    { unit := rxUnit port, polder := h.polder, peer := some h.src, count := folded.toNat,
      detail := leBytes 2 h.sid.toNat ++ leBytes 4 h.epoch.toNat ++ leBytes 4 h.counter.toNat ++ [port] } s

/-- A tag fails to verify on an existing stream (R71 check 8, R72). -/
def authFailExisting (port : BitVec 8) (h : Header) (r : RxStream) (s : State) : State :=
  let r := { r with counts := incAt 2 r.counts }
  let recent := match r.recordAt with | some t => decide (s.time < t + 1000000) | none => false
  if recent then setRx { r with folded := satInc r.folded } s
  else authRecord port h r.folded (setRx { r with folded := 0, recordAt := some s.time } s)

/-- The failures of a stream that is not open: those folded, and when its last record was written (R72). -/
def newFail (s : State) (r : StreamRef) : Option (BitVec 32 × Nat) := (s.link.newFails.find? fun x => x.1 = r).map (·.2)

/-- A tag fails to verify on a packet of a new stream (R71 check 8, R72). -/
def authFailNew (port : BitVec 8) (h : Header) (q : Polder) (s : State) : State :=
  let s := modPolderCounters q.id (fun c => { c with unattributedFail := satInc c.unattributedFail }) s
  let put := fun (n : BitVec 32) (at_ : Nat) (t : State) =>
    { t with link := { t.link with newFails := assocSet (rxRef h) (n, at_) t.link.newFails } }
  match newFail s (rxRef h) with
  | none => authRecord port h 0 (put 0 s.time s)
  | some x => if s.time < x.2 + 1000000 then put (satInc x.1) x.2 s else authRecord port h x.1 (put 0 s.time s)

/-- Whether kind, op_length and payload length agree with the opcode (R242, R269, R542). -/
def opcodeConsistent (kind : BitVec 2) (i : Inner) (length : Nat) : Bool :=
  let n := i.opLength.toNat
  let paid := n = length && n ≤ 4096
  match i.opcode.toNat with
  | 0x01 => kind = 0 && length = 0 && (n = 0 || (n % 64 = 0 && n ≤ 4096))
  | 0x02 | 0x04 | 0x05 => kind = 0 && paid
  | 0x03 => kind = 0 && paid && n = atomicOperand i.modifier
  | 0x06 => kind = 0 && paid && n = 4
  | 0x07 => kind = 0 && paid && n = 0
  | 0x08 => kind = 1 && paid && (i.aux.extractLsb' 0 8 = 0 || n = 0)
  | 0x09 =>
    kind = 2 && paid &&
      match i.opFlags.toNat with
      | 0x0 => n = 64 || n = 0
      | 0x1 | 0x2 => 1 ≤ n
      | 0x3 => 1 ≤ n && n % 16 = 0
      | 0x5 => n = 8
      | 0x7 => n = 0
      | _ => false
  | 0x0A =>
    kind = 2 && paid &&
      match i.opFlags.toNat with
      | 0x1 | 0x2 => 1 ≤ n
      | 0x3 => 1 ≤ n && n % 16 = 0
      | 0x4 => n = 16
      | 0x6 => n = 8 || n = 0
      | 0x7 => n = 0
      | _ => false
  | 0x0B =>
    paid && i.modifier.toNat ≤ 0xA &&
      (if i.modifier.toNat ≤ 7 then kind = 0 else kind = 1) &&
      (match i.modifier.toNat with
        | 3 | 0xA => n = 256
        | 8 => n = 256 || n = 0
        | _ => n = 0)
  | 0x0C => kind = 0 && paid && n = 0
  | _ => false

/-- Release a packet that has passed every check (R71). -/
def release (port : BitVec 8) (h : Header) (inner : Inner) (payload : Bytes) (s : State) : State :=
  let s := countBy (sliceCounter s true port + 1) payload.length (count (sliceCounter s true port) s)
  let s := meter h.polder 1 (80 + payload.length) s
  let s := match findRx s h.polder h.src h.sid (headerGroup h) with
    | some r => setRx { r with counts := addAt 1 payload.length (incAt 0 r.counts) } s
    | none => s
  let s := if h.counter.toNat % 4096 = 0 then
      emitTrace 1 0x0102 (rxUnit port) h.polder none
        (leBytes 2 h.src.toNat ++ leBytes 2 (destOf h.mc h.dst).toNat ++ leBytes 2 h.sid.toNat ++ zeros 2
          ++ leBytes 4 h.epoch.toNat ++ leBytes 4 h.counter.toNat) s
    else s
  { s with link := { s.link with
      inbox := s.link.inbox ++ [{ polder := h.polder, src := h.src, group := headerGroup h, sid := h.sid,
                                  epoch := h.epoch, counter := h.counter, kind := h.kind, cls := h.cls,
                                  retry := h.retry, inner := inner, payload := payload }] } }

/-- A packet of a polder whose teardown has begun, or that is frozen, fails check 11 (R71, R74, R420). -/
def dropGone (h : Header) (q : Polder) (s : State) : State :=
  sendNotice h (modPolderCounters q.id (fun c => { c with goneDrop := satInc c.goneDrop }) s)

/-- A packet whose subkey cannot be had: in teardown it fails check 11 (R74), else it is dropped unverified (R538). -/
def dropKeyless (h : Header) (q : Polder) (s : State) : State :=
  if q.teardown.isSome then dropGone h q s
  else modPolderCounters q.id (fun c => { c with keyWaitDrop := satInc c.keyWaitDrop }) s

/-- Checks 9 to 12 of R71 on a packet whose tag has verified, and its release. DESIGN CHOICE: a packet of kind 0b10 that fails
check 12 is answered by nothing; R71 speaks of requests and responses only (notes/assumptions/69.md). -/
def afterTag (port : BitVec 8) (b : Bytes) (h : Header) (q : Polder) (r : RxStream) (key : Key256) (s : State) :
    State :=
  let r := raiseEpoch r h.epoch
  if !windowFree r (packetSeq h) then setRx { r with counts := incAt 3 r.counts } s
  else
    let s := setRx (windowSet r (packetSeq h)) s
    let s := if r.nextKey.isNone && r.h ≠ BitVec.allOnes 32 then (askNext (rxRef h) h.polder (r.h + 1) s).2 else s
    if !isMember q h.src || !isMember q s.boot.instanceId then
      let s := modPolderCounters q.id (fun c => { c with membershipDrop := satInc c.membershipDrop }) s
      writeFault .linkMembershipDrop
        { unit := rxUnit port, polder := h.polder, peer := some h.src,
          detail := leBytes 2 h.sid.toNat ++ leBytes 4 h.epoch.toNat ++ leBytes 4 h.counter.toNat } s
    else if q.teardown.isSome || q.freeze ≠ .none then dropGone h q s
    else
      let plain := gcmCrypt key (packetIv h.src h.sid h.epoch h.counter) (slice b 32 (32 + h.length.toNat))
      let inner := parseInner plain
      if innerClean plain && inner.classLabel = h.cls && opcodeConsistent h.kind inner h.length.toNat then
        release port h inner (plain.drop 32) s
      else
        let s := match findRx s h.polder h.src h.sid (headerGroup h) with
          | some r => setRx { r with counts := incAt 5 r.counts } s
          | none => s
        let s := writeFault .linkMalformed
          { unit := rxUnit port, status := if h.kind = 0 then statusCode .badParam else 0, polder := h.polder,
            peer := some h.src,
            detail := leBytes 2 h.sid.toNat ++ [inner.opcode, BitVec.ofNat 8 inner.opFlags.toNat] } s
        if h.kind = 0 then
          sendCompletion { polder := h.polder, src := h.src, group := headerGroup h, sid := h.sid, epoch := h.epoch,
                           counter := h.counter, kind := h.kind, cls := h.cls, retry := h.retry, inner := inner,
                           payload := [] } .badParam 0 [] s
        else s

/-- Whether the tag of a packet verifies under a subkey (R56). -/
def tagVerifies (b : Bytes) (h : Header) (key : Key256) : Bool :=
  gcmTagBytes key (packetIv h.src h.sid h.epoch h.counter) (packetAad b) (slice b 32 (32 + h.length.toNat))
    = slice b (64 + h.length.toNat) 16

/-- Checks 5 to 12 of R71 for a packet whose stream exists; the packet waits while its entry or subkey is fetched (R67,
R75). -/
def receiveExisting (port : BitVec 8) (b : Bytes) (h : Header) (q : Polder) (r : RxStream) (s : State) : State :=
  if !epochHeld r h.epoch then setRx { r with counts := incAt 4 r.counts } s
  else if !windowFree r (packetSeq h) then setRx { r with counts := incAt 3 r.counts } s
  else
    match rxKey r h.epoch with
    | some key =>
      if tagVerifies b h key then afterTag port b h q r key s else authFailExisting port h r s
    | none =>
      match needKey h.polder 2 s with
      | (.failed _, s) => dropKeyless h q s
      | (.ready, s) =>
        needJob 1 (.streamKey (rxRef h) h.epoch) (some h.polder)
          { s with link := { s.link with rxWait := s.link.rxWait ++ [(rxRef h, port, b)] } }
      | (.wait, s) => { s with link := { s.link with rxWait := s.link.rxWait ++ [(rxRef h, port, b)] } }

/-- The receive stream that a first verified packet opens (R67), with what R72 has counted of it. -/
def newRx (h : Header) (key : Key256) (failed : Option (BitVec 32 × Nat)) : RxStream :=
  { polder := h.polder, src := h.src, sid := h.sid, group := headerGroup h, cls := h.cls, h := h.epoch,
    w := BitVec.ofNat 64 (packetSeq h), window := 0, prevKey := none, key := some key, nextKey := none,
    counts := noCounts, folded := match failed with | some x => x.1 | none => 0, recordAt := failed.map (·.2) }

/-- Checks 7 and 8 of R71 for a packet of a new stream, whose subkey is derived first (R67); derived says that the KCU
has just derived it. -/
def receiveNew (port : BitVec 8) (b : Bytes) (h : Header) (q : Polder) (derived : Bool) (s : State) : State :=
  if 16384 ≤ s.link.rx.length then
    writeFault .linkStreamFull
      { unit := rxUnit port, polder := h.polder, peer := some h.src, detail := leBytes 2 h.sid.toNat ++ [port] }
      (modPolderCounters q.id (fun c => { c with streamFull := satInc c.streamFull }) s)
  else
    match needKey h.polder 2 s with
    | (.failed _, s) => dropKeyless h q s
    | (.wait, s) => { s with link := { s.link with rxWait := s.link.rxWait ++ [(rxRef h, port, b)] } }
    | (.ready, s) =>
      if derived then
        let key := streamSubkey (polderKey s h.polder 2) h.polder q.confidential h.src (destOf h.mc h.dst) h.sid h.cls
          h.epoch
        if tagVerifies b h key then afterTag port b h q (newRx h key (newFail s (rxRef h))) key s else authFailNew port h q s
      else
        needJob 1 (.streamKey (rxRef h) h.epoch) (some h.polder)
          { s with link := { s.link with rxWait := s.link.rxWait ++ [(rxRef h, port, b)] } }

/-- Checks 5 on of R71, once the slice holds the stream's entry. A polder that is gone by then is no longer defined: the packet
ends as at check 3. -/
def receiveCached (port : BitVec 8) (b : Bytes) (derived : Bool) (s : State) : State :=
  let h := parseHeader b
  match findPolder s h.polder with
  | none => sendNotice h (countPort false port s)
  | some q =>
    match findRx s h.polder h.src h.sid (headerGroup h) with
    | some r => receiveExisting port b h q r s
    | none => receiveNew port b h q derived s

/-- The receive checks of a protected packet, in order (R71). A slice that does not hold the stream's entry counts a miss,
and the packet waits for STREAM_ENTRY_FETCH (R75). DESIGN CHOICE: a packet of this instance's own with an invalid
hdr_version is counted at check 1; R61 drops it uncounted if it counts as a multicast packet (notes/assumptions/69.md). -/
def receivePacket (port : BitVec 8) (b : Bytes) (s : State) : State :=
  let h := parseHeader b
  if h.mc && h.src = s.boot.instanceId && h.version = 1 then s
  else if !passesCheck1 b h s then countPort true port s
  else
    match findPolder s h.polder with
    | none => sendNotice h (countPort false port s)
    | some q =>
      if h.kind = 3 || h.reserved7 ≠ 0 || !sidFits h then
        modPolderCounters q.id (fun c => { c with malformed := satInc c.malformed }) s
      else if cachedIn s (rxRef h) = some port then receiveCached port b false s
      else
        count (sliceCounter s true port + 3)
          { s with link := { s.link with rxWait := s.link.rxWait ++ [(rxRef h, port, b)] } }

/-- Take the waiting packets of a receive stream at a port and check them again, in order, while the slice serves (R42, R46). -/
def retryRx (r : StreamRef) (derived : Bool) (s : State) : State :=
  match cachedIn s r with
  | none => s
  | some port =>
    let mine := s.link.rxWait.filter fun w => w.1 = r && w.2.1 = port
    if mine.isEmpty then s
    else
      withDomain ⟨.lceRx, port⟩ (fun s =>
        mine.foldl (fun t w => receiveCached port w.2.2 derived t)
          { s with link := { s.link with rxWait := s.link.rxWait.filter fun w => !(w.1 = r && w.2.1 = port) } }) s

/-- Whether the miss queue of a slice is full, at 16 packets (R75). -/
def rxFull (s : State) (port : BitVec 8) : Bool := missRoom ≤ (s.link.rxWait.filter fun w => w.2.1 = port).length

/-- A packet arrives at its slice; while the miss queue is full it waits at the port with everything behind it (R75). -/
def arrivePacket (port : BitVec 8) (b : Bytes) (s : State) : State :=
  if rxFull s port || s.link.rxPort.any fun x => x.1 = port then
    { s with link := { s.link with rxPort := s.link.rxPort ++ [(port, b)] } }
  else receivePacket port b s

/-- Take the packets that wait at a port, in order, until the miss queue is full again; n bounds them (R75). -/
def pumpRxPort (port : BitVec 8) : Nat → State → State
  | 0, s => s
  | n + 1, s =>
    match s.link.rxPort.find? fun x => x.1 = port with
    | none => s
    | some x =>
      if rxFull s port then s
      else pumpRxPort port n (receivePacket port x.2 { s with link := { s.link with rxPort := s.link.rxPort.erase x } })

/-- Take what waits at every port (R75). -/
def pumpRxPorts (s : State) : State :=
  ((s.link.rxPort.map (·.1)).eraseDups).foldl (fun t p => pumpRxPort p t.link.rxPort.length t) s

/-- Whether a received link notice passes check 1 (R57). -/
def noticePasses (b : Bytes) (h : Header) (s : State) : Bool :=
  b.length = 32 && h.length = 0 && outerClean h && h.version = 2 && !h.mc && h.dst = s.boot.instanceId
    && leField b 29 3 = 0 && leField b 28 1 = (statusCode .polderGone).toNat

end Sys2Proof.Machine
end

