-- ==== Sys2Proof/Machine/Sluices.lean ====
section
/-! DEFINITION. The sluices: how a Warden command is admitted, checked in the order of R379, answered, left pending,
ended and collected (R346 to R362, R378 to R383). -/

namespace Sys2Proof.Machine

/-! ### Sessions, mailboxes and responses -/

/-- The session a command travelled in. -/
def sessionOf (o : Origin) (s : State) : Option Session :=
  o.session.bind fun n => s.spdm.sessions.find? fun x => x.id = n && x.sluice = o.sluice

/-- Change a session. -/
def modSession (id : BitVec 32) (f : Session → Session) (s : State) : State :=
  { s with spdm := { s.spdm with sessions := alter (fun x => x.id = id) f s.spdm.sessions } }

/-- A function's mailbox; an unlisted one holds zeros and an idle doorbell (R509). -/
def getMailbox (s : State) (fn : FnId) : Mailbox :=
  (s.fns.mailboxes.find? fun m => m.fn = fn).getD { fn := fn, req := [], rsp := [], ring := false }

/-- Replace a mailbox. -/
def setMailbox (m : Mailbox) (s : State) : State :=
  { s with fns := { s.fns with mailboxes := upsert (fun x => x.fn = m.fn) m s.fns.mailboxes } }

/-- The 16-byte frame header (R352). -/
def frameHeader (kind status : Byte) (opcode : BitVec 16) (tag : BitVec 32) (len : Nat) : Bytes :=
  [kind, status] ++ leBytes 2 opcode.toNat ++ leBytes 4 tag.toNat ++ leBytes 4 len ++ zeros 4

/-- Write a response into a function's mailbox and clear its doorbell (R353). -/
def writeResponse (fn : FnId) (b : Bytes) (s : State) : State :=
  let m := getMailbox s fn
  setMailbox { m with rsp := memWriteN 0 m.rsp 0 b, ring := false } s

/-- The job that seals or opens a record of a session: GCM in class 2 under a session key register, over a 12-byte record header
(R308 to R310, R312, R357). -/
def recordJob (session : BitVec 32) (key : Key256) (text : Nat) : InlineJob :=
  { cls := 2, mode := 4, aad := 12, text := text, source := .session session, key := key }

/-! ### SPDM messages (R337, R338) -/

/-- A response: its code and what follows the two bytes of version and code. -/
abbrev SpdmAnswer := Byte × Bytes

/-- Change the responder's state. -/
def modSpdm (f : Spdm → Spdm) (s : State) : State := { s with spdm := f s.spdm }

/-- The bytes of a message: version 1.3, code, and the rest (R337). -/
def spdmBytes (a : SpdmAnswer) : Bytes := [0x13, a.1] ++ a.2

/-- An Ohmier message in VENDOR_DEFINED_RESPONSE (R338, R357). -/
def wrapped (b : Bytes) : SpdmAnswer := (0x7E, zeros 2 ++ b)

/-- The lowest handle that no large response of a sluice has. -/
def freeHandleOf (sl : Sluice) (s : State) : BitVec 8 :=
  BitVec.ofNat 8 ((leastBelow 256 fun h => !(s.spdm.chunksOut.any fun c => c.1 = (sl, BitVec.ofNat 8 h))).getD 0)

/-- A response above the chunk size is kept, and ERROR LargeResponse names its handle (R338). The response that carries
a chunk, of up to 1,024 bytes of the message, is sent whole. -/
def chunkAnswer (sl : Sluice) (a : SpdmAnswer) (s : State) : SpdmAnswer × State :=
  if a.1 = 0x06 || (spdmBytes a).length ≤ 1024 then (a, s)
  else
    let h := freeHandleOf sl s
    ((0x7F, [0x0F, 0, h]), modSpdm (fun x => { x with chunksOut := assocSet (sl, h) (spdmBytes a) x.chunksOut }) s)

/-! ### Answers -/

/-- The next sequence number of a session's direction; the last is never passed (R317). -/
def nextSeq (n : BitVec 64) : BitVec 64 := if n = BitVec.allOnes 64 then n else n + 1

/-- The tag of the request that a function's mailbox holds. -/
def requestTag (sl : Sluice) (s : State) : BitVec 32 :=
  match sluiceFn sl with
  | none => 0
  | some fn => BitVec.ofNat 32 (leNat (memReadN 0 (getMailbox s fn).req 4 4))

/-- The tag of the outer frame that a sluice's answer goes back under: that of the frame in the mailbox whose doorbell
is rung, else the command's own (R352). -/
def outerTag (sl : Sluice) (tag : BitVec 32) (s : State) : BitVec 32 :=
  match sluiceFn sl with
  | none => tag
  | some fn => if (getMailbox s fn).ring then requestTag sl s else tag

/-- Answer a request of a kind: in the clear the response has that kind; the response to a session's command is a frame
in the VENDOR_DEFINED_RESPONSE wrapper, a large one by chunks, sealed as a record of the session, whose outer header
carries the request's tag, opcode zero and ST_OK or ST_PENDING (R338, R352, R353, R357, R378). A response that cannot be
sealed, its session's sequence number at the limit, is ST_EXHAUSTED whole (R317). The answer counts the record that the
session's command came in (R317). As it answers, the firmware services its watchdog (R34, notes/assumptions/11.md). -/
def answerAs (outer kind : Byte) (o : Origin) (tag : BitVec 32) (opcode : BitVec 16) (st : Status) (payload : Bytes)
    (s : State) : State :=
  let s := { s with fns := { s.fns with serviced := s.time } }
  let frame := frameHeader kind (statusCode st) opcode tag payload.length ++ payload
  let plain := emit (.response o tag opcode st payload) s
  let write := fun (b : Bytes) (s : State) => match sluiceFn o.sluice with
    | none => s
    | some fn => writeResponse fn b s
  match sessionOf o s with
  | none => write frame plain
  | some x =>
    let back := outerTag o.sluice tag s
    if x.txSeq = BitVec.allOnes 64 then
      write (frameHeader outer (statusCode .exhausted) 0 back 0) (emit (.response o tag opcode .exhausted []) s)
    else
      let a := chunkAnswer o.sluice (wrapped frame) plain
      let record := Config.spdmSeal x.txKey x.txSeq x.id (spdmBytes a.1)
      let status := if st = .pending then Status.pending else .ok
      let s := (inlineJob (recordJob x.id x.txKey (spdmBytes a.1).length) none a.2).2
      write (frameHeader outer (statusCode status) 0 back record.length ++ record)
        (modSession x.id (fun x => { x with txSeq := x.txSeq + 1, rxSeq := nextSeq x.rxSeq }) s)

/-- Answer a Warden command. -/
def reply (o : Origin) (tag : BitVec 32) (opcode : BitVec 16) (st : Status) (payload : Bytes) (s : State) : State :=
  answerAs 2 0 o tag opcode st payload s

/-- Answer with a status that carries no payload. -/
def refuse (o : Origin) (tag : BitVec 32) (opcode : BitVec 16) (st : Status) (s : State) : State :=
  reply o tag opcode st [] s

/-- Accept a command that ends later: it is pending, and its request is answered ST_PENDING (R380). -/
def pend (o : Origin) (tag : BitVec 32) (opcode : BitVec 16) (s : State) : State :=
  refuse o tag opcode .pending { s with fns := { s.fns with
    pendings := s.fns.pendings ++ [{ origin := o, tag := tag, opcode := opcode, final := none }] } }

/-- End a pending command: its final response is kept, and on the PF and VF sluices a notification record carries the
tag (R356, R369). -/
def finish (o : Origin) (tag : BitVec 32) (st : Status) (payload : Bytes) (s : State) : State :=
  let mine := fun (c : PendingCmd) => c.origin.sluice = o.sluice && c.tag = tag && c.final.isNone
  match s.fns.pendings.find? mine with
  | none => s
  | some c =>
    let s := { s with fns := { s.fns with
      pendings := upsert mine { c with final := some (st, payload) } s.fns.pendings } }
    match sluiceFn o.sluice with
    | none => s
    | some fn =>
      postEvent fn 0 { ctag := 0, status := if c.origin.session.isSome then statusCode .pending else statusCode st,
                       kind := 0x02, queue := 0, context := 0, result := 0, datum := s.datum.value, ref := tag,
                       flags := 0 } s

/-- End every pending command of a list with one status. -/
def finishAll (l : List (Origin × BitVec 32)) (st : Status) (s : State) : State :=
  l.foldl (fun t x => finish x.1 x.2 st [] t) s

/-! ### Permissions -/

/-- What the tables of R383 fix of a command: its opcode, the sluices that accept it, whether it needs the key ladder,
and the roles that have its unit (R33). -/
structure CmdInfo where
  opcode : BitVec 16
  pf     : Bool := false
  vf     : Bool := false
  sbp    : Bool := false
  sbt    : Bool := false
  fm     : Bool := false
  dbg    : Bool := false
  ladder : Bool := false
  roles  : List Role := [.e, .s, .t]
  deriving DecidableEq, Repr

/-- Whether the debug sluice is open (R458, R468 to R470). -/
def debugOpen (s : State) : Bool :=
  let resident := s.cad.slots.any fun k => k.confidential && (k.state = .resident || k.state = .evicting)
  match s.lc.state with
  | .blank => true
  | .factory | .analysis => !resident
  | .field => s.lc.auth.isSome && !resident
  | _ => false

/-- Whether debug admits a command: in FIELD its class must lie in the authorisation's scope (R468, R469). -/
def debugAdmits (opcode : BitVec 16) (s : State) : Bool :=
  debugOpen s &&
    match s.lc.state, s.lc.auth with
    | .field, some a =>
      let classA := opcode = 0x0C01 || opcode = 0x0F01 || opcode = 0x0F02
      let classB := opcode.toNat / 256 = 0x0B
      (!classA || a.scope.getLsbD 0) && (!classB || a.scope.getLsbD 1)
    | _, _ => true

/-- Whether a session is the fabric manager's (R342). -/
def isFabricManager (x : Session) : Bool := x.stage = .established && x.mutual_ && x.fabricKey

/-- Whether a command is permitted on its sluice (R347, R351, R383). -/
def permitted (ci : CmdInfo) (o : Origin) (s : State) : Bool :=
  match o.sluice with
  | .pf => ci.pf && o.session.isNone
  | .vf n =>
    let v := getVf s n
    ci.vf && v.enabled && v.reset.isNone && (v.state = .locked || v.state = .run) &&
      match sessionOf o s with
      | some x => x.stage = .established
      | none => false
  | .sb =>
    match o.session with
    | none => ci.sbp
    | some _ => ci.sbt && match sessionOf o s with | some x => x.stage = .established | none => false
  | .fm => ci.fm && match sessionOf o s with | some x => isFabricManager x | none => false
  | .dbg => ci.dbg && o.session.isNone

/-- How many commands a sluice may hold pending (R355). -/
def pendingLimit : Sluice → Nat
  | .pf => 256 | .vf _ => 16 | .sb => 16 | .fm => 64 | .dbg => 16

/-- The pending commands of a sluice. -/
def pendingOn (sl : Sluice) (s : State) : List PendingCmd := s.fns.pendings.filter fun c => c.origin.sluice = sl

/-- How many notifications of a sluice wait in the Warden for room in event ring 0, or for the ring itself, whose
results have been fetched: they count like pending commands (R355, R369, R370). -/
def noticesWaiting (sl : Sluice) (s : State) : Nat :=
  match sluiceFn sl with
  | none => 0
  | some fn =>
    let ring := match findRing s fn 0 with | some r => r.waiting | none => []
    let early := (s.obj.early.filter fun x => x.1 = fn).map (·.2)
    ((ring ++ early).filter fun e => e.kind = 0x02 && !(pendingOn sl s).any fun c => c.tag = e.ref).length

/-- Whether a command is a tenant's: in a session on a VF or the side-band sluice. -/
def isTenant (o : Origin) : Bool :=
  o.session.isSome && match o.sluice with | .vf _ | .sb => true | _ => false

/-- Whether a tenant's session may name a polder: it is bound to that sluice and identity (R344). -/
def tenantOf (o : Origin) (p : Polder) (s : State) : Bool :=
  p.bound = o.sluice &&
    match p.identity with
    | none => true
    | some d => match sessionOf o s with | some x => x.identity = some d | none => false

/-- Whether a command may name a polder: a tenant only its own (R344, R351). -/
def mayNamePolder (o : Origin) (p : PolderId) (s : State) : Bool :=
  !isTenant o || match findPolder s p with | some q => tenantOf o q s | none => true

/-- Whether a command may name an object of a function and a polder: its own function's, in its polder's session; for a
destruction, any from the PF and the plain side-band sluice (R364). -/
def mayName (o : Origin) (fn : FnId) (p : PolderId) (destroy : Bool) (s : State) : Bool :=
  (destroy && (o.sluice = .pf || (o.sluice = .sb && o.session.isNone)))
    || (sluiceFn o.sluice = some fn && mayNamePolder o p s)

/-- The read-only commands left to an instance out of service (R446). -/
def servedOutOfService (opcode : BitVec 16) : Bool := opcode = 0x0E01 || opcode = 0x0E05 || opcode = 0x0F01

/-- The commands left after step 1 of a life-cycle transition; RESET is judged by its scope (R466). -/
def servedFrozen (opcode : BitVec 16) (scopeBlock : Bool) : Bool :=
  opcode = 0x0C01 || opcode = 0x0F01 || opcode = 0x0E01 || (opcode = 0x0E02 && scopeBlock)

/-- Whether a sluice accepts nothing for now, whatever the command: before READY the PF, VF and fabric-manager sluices, and in
RECOVERY the side-band but for what R330 lists (R329, R330). -/
def shutSluice (o : Origin) (opcode : BitVec 16) (s : State) : Bool :=
  !isReady s && match o.sluice with
    | .pf | .vf _ | .fm => true
    | .sb => s.boot.stage = .recovery && opcode ≠ 0x0F01 && opcode ≠ 0x0E01
    | .dbg => false

/-- Whether a command's session has used up its receive sequence numbers, so that its record is refused whole (R317). -/
def sessionSpent (o : Origin) (s : State) : Bool :=
  match sessionOf o s with
  | some x => x.rxSeq = BitVec.allOnes 64
  | none => false

/-- The commands that HALTED leaves to the side-band: identity and boot-status reads, and with an invalid life-cycle code the
LC_STATUS that is to report it (R329, R461). -/
def servedHalted (opcode : BitVec 16) (s : State) : Bool := opcode = 0x0F01 || (opcode = 0x0C01 && s.lc.state = .invalid)

/-- What refuses a command before it is looked at: debug closed, a transition, HALTED, a sluice that accepts nothing
yet, a session at its limit (R317, R329, R330, R350, R466). -/
def closedCheck (ci : CmdInfo) (o : Origin) (scopeBlock : Bool) (s : State) : Option Status :=
  if o.sluice = .dbg && !debugAdmits ci.opcode s then some .lcForbids
  else if s.lc.frozen && !servedFrozen ci.opcode scopeBlock then some .lcForbids
  else if o.sluice = .sb && s.boot.stage = .halted && !servedHalted ci.opcode s then some .lcForbids
  else if shutSluice o ci.opcode s then some .busy
  else if sessionSpent o s then some .exhausted
  else none

/-- The checks that come before a command's own, in the order of R379; denied says that it names an object of another
function or identity, malformed that its length or a reserved field is wrong, scopeBlock that it is RESET of scope 4. -/
def cmdCheck (ci : CmdInfo) (o : Origin) (tag : BitVec 32) (denied malformed scopeBlock : Bool) (s : State) :
    Option Status :=
  if (closedCheck ci o scopeBlock s).isSome then closedCheck ci o scopeBlock s
  else if !permitted ci o s || denied then some .denied
  else if s.sb.outOfService && (o.sluice ≠ .sb && o.sluice ≠ .dbg) && !servedOutOfService ci.opcode then some .denied
  else if !isReady s && !(o.sluice = .sb && (ci.opcode = 0x0F01 || (ci.opcode = 0x0E01 && s.boot.stage = .recovery)
      || (s.boot.stage = .halted && servedHalted ci.opcode s)))
    then some .busy
  else if pendingLimit o.sluice ≤ (pendingOn o.sluice s).length + noticesWaiting o.sluice s then some .busy
  else if (pendingOn o.sluice s).any fun c => c.tag = tag then some .badParam
  else if ci.ladder && !s.cad.ladder then some .lcForbids
  else if !ci.roles.contains s.boot.role || malformed then some .badParam
  else none


/-- Run a command: refused at its first failing check, or by its own check; otherwise its effect (R379). Nothing happens
while the block is held in reset. scopeBlock says that it is RESET of scope 4. -/
def runCmdIn (ci : CmdInfo) (o : Origin) (tag : BitVec 32) (denied malformed scopeBlock : Bool)
    (own : State → Option Status) (effect : State → State) (s : State) : State :=
  if !running s then s
  else
    match cmdCheck ci o tag denied malformed scopeBlock s with
    | some st => refuse o tag ci.opcode st s
    | none =>
      match own s with
      | some st => refuse o tag ci.opcode st s
      | none => effect s

/-- Run a command other than RESET of scope 4. -/
def runCmd (ci : CmdInfo) (o : Origin) (tag : BitVec 32) (denied malformed : Bool) (own : State → Option Status)
    (effect : State → State) (s : State) : State :=
  runCmdIn ci o tag denied malformed false own effect s

/-- An own check that never fails. -/
def noCheck (_ : State) : Option Status := none

/-- The first failing check of a list. -/
def firstFail (l : List (Bool × Status)) : Option Status :=
  match l with
  | [] => none
  | (true, st) :: _ => some st
  | (false, _) :: t => firstFail t

end Sys2Proof.Machine
end

