-- ==== Sys2Proof/Machine/Stack.lean ====
section
/-! DEFINITION. The Stack Cipher Engine and the Stack Polder Map (chapter 4, R521, R539). -/

namespace Sys2Proof.Machine

/-! ### The map -/

/-- The SPM entry of a plot; an unlisted one is invalid (R88). -/
def plotEntry (s : State) (p : BitVec 16) : BitVec 64 := assocGet p 0 s.stack.spm

/-- Write an SPM entry; an entry of zeros is not listed. -/
def setPlot (p : BitVec 16) (e : BitVec 64) (s : State) : State :=
  { s with stack := { s.stack with
      spm := if e = 0 then assocDel p s.stack.spm else assocSet p e s.stack.spm } }

/-- Bit [0]. -/
def plotValid (e : BitVec 64) : Bool := e.getLsbD 0
/-- Bits [12:1]. -/
def plotSlot (e : BitVec 64) : BitVec 12 := e.extractLsb' 1 12
/-- Bits [36:13]. -/
def plotBase (e : BitVec 64) : BitVec 24 := e.extractLsb' 13 24
/-- Bit [37]. -/
def plotWritable (e : BitVec 64) : Bool := e.getLsbD 37
/-- Bit [38]. -/
def plotFilling (e : BitVec 64) : Bool := e.getLsbD 38
/-- Bit [39]. -/
def plotReserved (e : BitVec 64) : Bool := e.getLsbD 39

/-- An SPM entry from its fields (R88). -/
def mkPlot (slot : BitVec 12) (base : BitVec 24) (writable filling : Bool) : BitVec 64 :=
  BitVec.ofNat 64 (1 + 2 * slot.toNat + 8192 * base.toNat + (if writable then 2 ^ 37 else 0)
    + if filling then 2 ^ 38 else 0)

/-- Whether a plot is marked for release, so that later lookups find it unmapped (R101). -/
def plotReleasing (s : State) (p : BitVec 16) : Bool := s.stack.releases.any fun r => r.1 = p

/-- The plot of a stack address (R79). -/
def plotOf (addr : Nat) : BitVec 16 := BitVec.ofNat 16 (addr / 16777216)

/-- The polder offset of a stack address under an entry (R81). -/
def polderOffset (e : BitVec 64) (addr : Nat) : Nat := (plotBase e).toNat * 16777216 + addr % 16777216

/-! ### Ciphertext and plaintext -/

/-- The plaintext of the 16-byte block at a stack address (R83). -/
def stackBlock (s : State) (key : Key512) (addr : Nat) : Bytes :=
  let o := polderOffset (plotEntry s (plotOf addr)) addr
  xtsBlock false key (o / 256) (o % 256 / 16) (memReadN 0 s.stack.mem addr 16)

/-- The ciphertext of a 16-byte block to be stored at a stack address (R83). -/
def stackSeal (s : State) (key : Key512) (addr : Nat) (b : Bytes) : Bytes :=
  let o := polderOffset (plotEntry s (plotOf addr)) addr
  xtsBlock true key (o / 256) (o % 256 / 16) b

/-- Read plaintext from a stack address on. -/
def stackRead (s : State) (key : Key512) (addr len : Nat) : Bytes :=
  let first := addr / 16
  let blocks := (List.range ((addr + len + 15) / 16 - first)).flatMap fun i => stackBlock s key (16 * (first + i))
  slice blocks (addr % 16) len

/-- Write plaintext from a stack address on, block by block (R84, R86). -/
def stackWrite (key : Key512) (addr : Nat) (b : Bytes) (s : State) : State :=
  let first := addr / 16
  let n := (addr + b.length + 15) / 16 - first
  let plain := stackRead s key (16 * first) (16 * n)
  let merged := plain.take (addr % 16) ++ b ++ plain.drop (addr % 16 + b.length)
  let sealed := (List.range n).flatMap fun i => stackSeal s key (16 * (first + i)) (slice merged (16 * i) 16)
  { s with stack := { s.stack with
      mem := memWriteN 0 s.stack.mem (16 * first) sealed
      bad := s.stack.bad.filter fun u => !(addr ≤ 256 * u && 256 * u + 256 ≤ addr + b.length) } }

/-- Whether a range covers a data unit whose last read was reported uncorrectable. -/
def stackBad (s : State) (addr len : Nat) : Bool :=
  s.stack.bad.any fun u => decide (256 * u < addr + len) && decide (addr < 256 * u + 256)

/-! ### Checks -/

/-- The SCE slice of a plot: that of its stack. -/
def sceSlice (p : BitVec 16) : Nat := (Config.plotStack p).toNat

/-- The unit number of the slice of a stack address (R432). -/
def sceUnit (addr : Nat) : BitVec 16 := BitVec.ofNat 16 (0x0300 + sceSlice (plotOf addr))

/-- The event counter k of the slice of a stack address (R473). -/
def sceCounter (addr k : Nat) : Nat := 0x1C0 + 8 * sceSlice (plotOf addr) + k

/-- Whether an access has the shape that R85 asks for. -/
def stackShape (r : StackReq) : Bool :=
  16 ≤ r.len && r.len ≤ 256 && r.len % 16 = 0 && r.addr.toNat % 16 = 0 && r.addr.toNat % 256 + r.len ≤ 256
    && (!r.write || r.data.length = r.len)
    && (match r.mask with | some m => r.write && m.length = r.len | none => true)

/-- Checks 3 to 7 of R92 on one plot for a polder (R140): the failing check and its status. -/
def polderPlotChecks (s : State) (q : Polder) (plot : BitVec 16) (write : Bool) : Option (Nat × Status) :=
  let e := plotEntry s plot
  if q.teardown.isSome then some (3, .squashed)
  else if s.chip.plots ≤ plot.toNat || !plotValid e || plotReleasing s plot then some (4, .badParam)
  else if plotReserved e then some (5, .denied)
  else if plotSlot e ≠ q.slot then some (6, .denied)
  else if write && !plotWritable e then some (7, .denied)
  else none

/-- Checks 2 to 7 of R92 on one plot: the failing check and its status. -/
def plotChecks (s : State) (c : CtxId) (plot : BitVec 16) (write : Bool) : Option (Nat × Status) :=
  match findContext s c with
  | none => some (2, .badParam)
  | some x =>
    match findPolder s x.polder with
    | none => some (2, .badParam)
    | some q => polderPlotChecks s q plot write

/-- Checks 1 to 7 of R92. -/
def stackChecks (s : State) (r : StackReq) : Option (Nat × Status) :=
  if !stackShape r then some (1, .badParam) else plotChecks s r.context (plotOf r.addr.toNat) r.write

/-- The plots that a range touches. -/
def plotsOf (addr len : Nat) : List (BitVec 16) :=
  if len = 0 then []
  else (List.range ((addr + len - 1) / 16777216 - addr / 16777216 + 1)).map fun i =>
    BitVec.ofNat 16 (addr / 16777216 + i)

/-- What the lookups of a polder's data units find: checks 3 to 7 of R92 on each (R90, R136, R143). -/
def lookUp (s : State) (q : Polder) (pieces : List (Nat × Nat)) (write : Bool) : List Lookup :=
  pieces.map fun x =>
    { addr := x.1, len := x.2,
      fail := if 2 ^ 40 ≤ x.1 then some (4, .badParam) else polderPlotChecks s q (plotOf x.1) write, turn := s.stack.turns }

/-- Checks 2 to 7 of R92 on every plot of a local range. -/
def rangeChecks (s : State) (c : CtxId) (addr len : Nat) (write : Bool) : Option (Nat × Status) :=
  (plotsOf addr len).findSome? fun p => plotChecks s c p write

/-- Answer a core's stack access. -/
def stackAnswer (r : StackReq) (st : Status) (data : Bytes) (s : State) : State :=
  emit (.stackAnswer r.context r.addr st data) s

/-- Refuse a stack access, with a record except at check 3 (R92). -/
def stackRefuse (r : StackReq) (check : Nat) (st : Status) (s : State) : State :=
  let s := if check = 3 then s else
    writeFault .stackRefused
      { unit := sceUnit r.addr.toNat, status := statusCode st,
        polder := match findContext s r.context with | some x => x.polder | none => 0,
        context := some r.context,
        detail := leBytes 5 r.addr.toNat ++ [BitVec.ofNat 8 check, if r.write then 1 else 0] } s
  stackAnswer r st [] s

/-! ### Performing accesses -/

/-- The 16-byte blocks that a write leaves partly unwritten (R86). -/
def partialBlocks (r : StackReq) : List Nat :=
  match r.mask with
  | none => []
  | some m => (List.range (r.len / 16)).filter fun i =>
      let b := (m.drop (16 * i)).take 16
      b.any id && !b.all id

/-- The domain of the SCE slice of a stack address. -/
def sceDomain (addr : Nat) : DomainId := ⟨.sce, BitVec.ofNat 8 (sceSlice (plotOf addr))⟩

/-- The Weir of the stack that holds a stack address (R36). -/
def stackWeir (addr : Nat) : DomainId := ⟨.weir, BitVec.ofNat 8 (sceSlice (plotOf addr))⟩

/-- The domains that an access to a stack address passes through (R36). -/
def stackPath (addr : Nat) : List DomainId := [sceDomain addr, stackWeir addr]

/-- The domain of the SPM bank that maps a stack address (R36). -/
def spmDomain (addr : Nat) : DomainId := ⟨.spmBank, BitVec.ofNat 8 (addr / 16777216 / 16384)⟩

/-- A slice keeps a copy of the stack key of a polder that it works for (R305). -/
def keepCopy (slice : Nat) (p : PolderId) (s : State) : State :=
  { s with stack := { s.stack with copies := assocSet (slice, p) (polderStackKey s p) s.stack.copies } }

/-- A slice that wakes reloads the stack keys of the resident polders, each under the check of its slot (R42, R300, R301). -/
def reloadCopies (slice : Nat) (s : State) : State :=
  (s.cad.slots.filter fun k => k.state = .resident && slotHas k 3).foldl (fun t k =>
    if slotSound s k then keepCopy slice k.polder t else markSlotBad k 3 t) s

/-- A slice zeroizes the stack keys it holds (R41). -/
def dropCopies (slice : Nat) (s : State) : State :=
  { s with stack := { s.stack with copies := s.stack.copies.filter fun c => c.1.1 ≠ slice } }

/-- Perform a full-block write, or a read-modify-write on the stored plaintext of the access's range (R84, R86). -/
def performWrite (w : StackWait) (stored : Bytes) (s : State) : State :=
  let r := w.req
  let key := polderStackKey s w.polder
  let data := match r.mask with
    | none => r.data
    | some m => (List.zip m (List.zip r.data stored)).map fun x => if x.1 then x.2.1 else x.2.2
  let blocks := (List.range (r.len / 16)).filter fun i => match r.mask with
    | none => true
    | some m => ((m.drop (16 * i)).take 16).any id
  let s := blocks.foldl (fun t i => stackWrite key (r.addr.toNat + 16 * i) (slice data (16 * i) 16) t) s
  let s := countBy (sceCounter r.addr.toNat 3) r.len (count (sceCounter r.addr.toNat 1) s)
  let s := meter w.polder 2 (16 * (blocks.length + (partialBlocks r).length)) s
  stackAnswer r .ok [] s

/-- The pieces of a range by data unit: first address and length. -/
def unitPieces (addr len : Nat) : List (Nat × Nat) :=
  if len = 0 then []
  else (List.range ((addr + len - 1) / 256 - addr / 256 + 1)).map fun i =>
    let first := max addr (256 * (addr / 256 + i))
    (first, min (addr + len) (256 * (addr / 256 + i) + 256) - first)

/-- Count the accesses of a unit other than a core's port to a stack range: reads or writes per data unit, and the blocks
ciphered, the read of a partly written block included (R473, R486). -/
def stackCount (p : PolderId) (addr len : Nat) (write : Bool) (s : State) : State :=
  (unitPieces addr len).foldl (fun t x =>
    let k := if write then 1 else 0
    let blocks := (x.1 + x.2 + 15) / 16 - x.1 / 16
    let part := if write then
        (if x.1 % 16 ≠ 0 then 1 else 0)
          + (if (x.1 + x.2) % 16 ≠ 0 && (x.1 % 16 = 0 || (x.1 + x.2) / 16 ≠ x.1 / 16) then 1 else 0)
      else 0
    meter p 2 (16 * (blocks + part)) (countBy (sceCounter x.1 (2 + k)) x.2 (count (sceCounter x.1 k) t))) s

/-- Perform an access that has passed every check: a full write at once; a read, or a partial write, waits for its stack
controller (R521). -/
def stackPerform (w : StackWait) (s : State) : State :=
  let s := keepCopy (sceSlice (plotOf w.req.addr.toNat)) w.polder s
  if w.req.write && (partialBlocks w.req).isEmpty then performWrite w (zeros w.req.len) s
  else
    let s := if w.req.write then count (sceCounter w.req.addr.toNat 4) s else s
    { s with stack := { s.stack with reads := s.stack.reads ++ [w] } }

/-- Hold an access behind what stands before it. -/
def holdAccess (w : StackWait) (s : State) : State := { s with stack := { s.stack with held := s.stack.held ++ [w] } }

/-- The class of a context, whose accesses it labels (R408). -/
def contextClass (s : State) (c : CtxId) : BitVec 4 := match findContext s c with | some x => x.cls | none => 0

/-- Whether the Weir of a stack admits an access of a class to an address (R411). -/
def stackAdmits (s : State) (addr : Nat) (cls : BitVec 4) : Bool := weirAdmits s (stackWeir addr).index cls

/-- Whether an access must wait before its stack: its slice or its Weir must be woken, or the Weir does not admit it
(R42, R411). -/
def pathHolds (w : StackWait) (s : State) : Bool × State :=
  match wakeAll (stackPath w.req.addr.toNat) s with
  | (true, s) => (true, s)
  | (false, s) => (!stackAdmits s w.req.addr.toNat (contextClass s w.req.context), s)

/-- Checks 8 to 10 of R92, and the access; an access of a frozen polder is held (R420), one that a slice under suspect
replay does not serve waits (R440), and so does one whose slice or Weir must be woken, or whose Weir does not admit it
(R42, R411). -/
def stackProceed (w : StackWait) (s : State) : State :=
  if isFrozen s w.polder || hungFor s (sceUnit w.req.addr.toNat) (some w.req.context) then holdAccess w s
  else
    match pathHolds w s with
    | (true, s) => holdAccess w s
    | (false, s) =>
      if plotFilling (plotEntry s (plotOf w.req.addr.toNat)) then
        { s with stack := { s.stack with fillWait := s.stack.fillWait ++ [w] } }
      else
        match needKey w.polder 3 s with
        | (.ready, s) => stackPerform w s
        | (.wait, s) =>
          count 0x005 (count (sceCounter w.req.addr.toNat 5)
            { s with stack := { s.stack with keyWait := s.stack.keyWait ++ [w] } })
        | (.failed st, s) => stackAnswer w.req st [] s

/-- Whether an access touches a data unit. -/
def sameUnit (u : Nat) (r : StackReq) : Bool := r.addr.toNat / 256 = u

/-- Whether a data unit has an access waiting or under way (R87). -/
def unitBusy (s : State) (u : Nat) : Bool :=
  (s.stack.reads.any fun w => sameUnit u w.req) || (s.stack.keyWait.any fun w => sameUnit u w.req)
    || (s.stack.fillWait.any fun w => sameUnit u w.req)

/-- Whether the user of a waiting range is still at work: a use whose user has ended holds nothing up. -/
def userLives (s : State) : StackUser → Bool
  | .copy q i => s.obj.queues.any fun x => x.id = q && x.started.any fun d => d.index = i
  | .source p id => s.coll.participants.any fun c => c.launch.polder = p && c.launch.id = id
  | .result p id => s.coll.participants.any fun c => c.launch.polder = p && c.launch.id = id
  | .home ring _ => s.rings.rings.any fun r => r.id = ring

/-- The uses of stack ranges that wait beside cores and the FAU. -/
def otherUses (s : State) : List OtherUse := s.stack.others.filter fun u => userLives s u.user

/-- What waits at checks 8 and 9 from no core's port, with its polder: requests and answers in the FAU, copies, collectives and
homes (R87, R93). -/
def outsideWaits (s : State) : List (PolderId × List Lookup) :=
  (s.fau.memWait.map fun w => (w.rel.polder, w.lookups))
    ++ (s.fau.waiting.map fun w =>
      (match findContext s w.req.context with | some c => c.polder | none => 0, w.reads ++ w.writes))
    ++ (s.fau.ops.map fun o => (o.polder, o.lookups))
    ++ (otherUses s).map fun u => (u.polder, u.lookups)

/-- The data units that what waits from no core's port looked up and has not failed. -/
def outsideUnits (s : State) : List Lookup := (outsideWaits s).flatMap fun x => x.2.filter fun l => l.fail.isNone

/-- Whether an access from no core's port to a data unit came before a turn and still waits (R87). -/
def outsideFirst (s : State) (u turn : Nat) : Bool :=
  (outsideUnits s).any fun l => decide (l.addr / 256 = u) && decide (l.turn ≤ turn)

/-- The accesses in the miss queue of a slice (R93). -/
def missQueue (s : State) (slice : Nat) : List StackWait :=
  s.stack.keyWait.filter fun w => sceSlice (plotOf w.req.addr.toNat) = slice

/-- Whether the slot of a polder is resident with its stack key. -/
def stackKeyThere (s : State) (p : PolderId) : Bool :=
  match slotOf s p with
  | some k => k.state = .resident && slotHas k 3
  | none => false

/-- How many accesses from no core's port wait in the miss queue of a slice (R93). -/
def outsideMisses (s : State) (slice : Nat) : Nat :=
  ((outsideWaits s).filter fun x => !stackKeyThere s x.1).foldl (fun n x =>
    n + (x.2.filter fun l => l.fail.isNone && sceSlice (plotOf l.addr) = slice).length) 0

/-- Whether the miss queue of a slice is full, at 32 accesses, so that it takes nothing more (R93, R94). -/
def sliceFull (s : State) (slice : Nat) : Bool := 32 ≤ (missQueue s slice).length + outsideMisses s slice

/-- What a range of stack data units is for an access that comes from no core's port. -/
inductive RangeUse where
  | ready
  | wait
  | fail (addr check : Nat) (status : Status)
  deriving DecidableEq, Repr

/-- Whether an access to a data unit needs its stored bytes: a read, or a write that leaves part of a block (R86). -/
def needsStored (write : Bool) (x : Lookup) : Bool := !write || x.addr % 16 ≠ 0 || (x.addr + x.len) % 16 ≠ 0

/-- Whether a core access to the data unit came before an access from no core's port and is not done (R87). -/
def coreFirst (s : State) (x : Lookup) : Bool :=
  (s.stack.reads ++ s.stack.keyWait ++ s.stack.fillWait ++ s.stack.held).any fun w =>
    sameUnit (x.addr / 256) w.req && decide (w.turn < x.turn)

/-- Whether a data unit makes an access from no core's port wait: its slice takes nothing, or other accesses to the unit came
before it (R87, R94; notes/assumptions/68.md). -/
def pieceBusy (s : State) (x : Lookup) : Bool :=
  sliceFull s (sceSlice (plotOf x.addr)) || coreFirst s x
    || (outsideUnits s).any fun l => decide (l.addr / 256 = x.addr / 256) && decide (l.turn < x.turn)

/-- Wake the slices and Weirs of a range that do not serve; whether there are any, or a Weir takes nothing (R42, R46, R411). -/
def wakeSlices (l : List Lookup) (s : State) : Bool × State :=
  match wakeAll (l.flatMap fun x => stackPath x.addr) s with
  | (true, s) => (true, s)
  | (false, s) => (l.any fun x => !weirTakes s (stackWeir x.addr).index, s)

/-- Whether the Weirs of the stacks admit an access of a class to the data units of a range that have not failed (R411). -/
def rangeAdmits (s : State) (l : List Lookup) (cls : BitVec 4) : Bool := l.all fun x => x.fail.isSome || stackAdmits s x.addr cls

/-- A range of a polder's stack data units under checks 4 to 11 of R92: the first that fails or waits in address order stands
for the range (R136). A frozen polder's accesses are held, neither served nor refused (R420). -/
def rangeUse (p : PolderId) (write : Bool) (l : List Lookup) (s : State) : RangeUse × State :=
  let filling := fun (x : Lookup) => plotFilling (plotEntry s (plotOf x.addr))
  let early := fun (x : Lookup) => if filling x then RangeUse.wait else .ready
  let verdict := fun (x : Lookup) => match x.fail with | some f => RangeUse.fail x.addr f.1 f.2 | none => early x
  match l with
  | [] => (.ready, s)
  | h :: _ =>
    if isFrozen s p then (.wait, s)
    else if verdict h ≠ .ready then (verdict h, s)
    else
      match wakeSlices l s with
      | (true, s) => (.wait, s)
      | (false, s) =>
        match needKey p 3 s with
        | (.wait, s) => (.wait, s)
        | (.failed st, s) => (.fail h.addr 10 st, s)
        | (.ready, s) =>
          match l.find? fun x => verdict x ≠ .ready || pieceBusy s x || (needsStored write x && stackBad s x.addr x.len) with
          | none => (.ready, s)
          | some x =>
            if verdict x ≠ .ready then (verdict x, s)
            else if pieceBusy s x then (.wait, s)
            else (.fail x.addr 11 .breach, s)

/-- Let the held accesses of a data unit proceed in order, until one waits or one from no core's port comes first; n bounds
them. -/
def releaseHeld (u : Nat) : Nat → State → State
  | 0, s => s
  | n + 1, s =>
    if unitBusy s u then s
    else
      match s.stack.held.find? fun w => sameUnit u w.req with
      | none => s
      | some w =>
        if isFrozen s w.polder || hungFor s (sceUnit w.req.addr.toNat) (some w.req.context) || outsideFirst s u w.turn then s
        else
          match pathHolds w s with
          | (true, s) => s
          | (false, s) => releaseHeld u n (stackProceed w { s with stack := { s.stack with held := s.stack.held.erase w } })

/-- Let every held access proceed that may. -/
def resumeHeld (s : State) : State :=
  s.stack.held.foldl (fun t w => releaseHeld (w.req.addr.toNat / 256) (t.stack.held.length + 1) t) s

/-- Start an access that has passed checks 1 to 7. Accesses to one data unit are performed in order (R87); one whose unit has
accesses in the miss queue joins them (R93). -/
def stackStart (w : StackWait) (s : State) : State :=
  let u := w.req.addr.toNat / 256
  let busy := (s.stack.reads.any fun x => sameUnit u x.req) || (s.stack.fillWait.any fun x => sameUnit u x.req)
    || (s.stack.held.any fun x => sameUnit u x.req) || outsideFirst s u w.turn
  if busy then holdAccess w s
  else if s.stack.keyWait.any fun x => sameUnit u x.req then
    { s with stack := { s.stack with keyWait := s.stack.keyWait ++ [w] } }
  else stackProceed w s

/-- Let accesses proceed in order, and after them those held behind them. -/
def restart (ws : List StackWait) (s : State) : State :=
  let s := ws.foldl (fun t w => stackStart w t) s
  ws.foldl (fun t w => releaseHeld (w.req.addr.toNat / 256) (t.stack.held.length + 1) t) s

/-- Check the waiting accesses of a plot again once its fill has ended (R92 check 8). -/
def retryFillWait (plot : BitVec 16) (s : State) : State :=
  restart (s.stack.fillWait.filter fun w => plotOf w.req.addr.toNat = plot)
    { s with stack := { s.stack with fillWait := s.stack.fillWait.filter fun w => plotOf w.req.addr.toNat ≠ plot } }

/-- Whether the slice and the Weir of an access serve, and the Weir admits it. -/
def pathServes (s : State) (w : StackWait) : Bool :=
  (stackPath w.req.addr.toNat).all (serves s) && stackAdmits s w.req.addr.toNat (contextClass s w.req.context)

/-- The accesses of a polder that wait for its key proceed in arrival order at the slices that serve (R46, R93, R95). -/
def retryKeyWait (p : PolderId) (s : State) : State :=
  let go := fun (w : StackWait) => decide (w.polder = p) && pathServes s w
  restart (s.stack.keyWait.filter go) { s with stack := { s.stack with keyWait := s.stack.keyWait.filter fun w => !go w } }

/-- A slice takes an access: checks 1 to 7 of R92, and the access. -/
def takeAccess (r : StackReq) (s : State) : State :=
  match stackChecks s r with
  | some (check, st) => stackRefuse r check st s
  | none =>
    match findContext s r.context with
    | some x => stackStart ⟨r, x.polder, s.stack.turns⟩ { s with stack := { s.stack with turns := s.stack.turns + 1 } }
    | none => s

/-- The slice of a request. -/
def reqSlice (r : StackReq) : Nat := sceSlice (plotOf r.addr.toNat)

/-- Whether a request is of a polder that is frozen: it is held unjudged, and nothing waits behind it (R420). -/
def reqFrozen (s : State) (r : StackReq) : Bool :=
  match findContext s r.context with
  | some x => isFrozen s x.polder
  | none => false

/-- An access reaches its slice; while the miss queue is full, or the bank that maps it does not serve, it waits at the port
with everything behind it (R42, R94). -/
def arriveStack (r : StackReq) (s : State) : State :=
  let waits := { s with stack := { s.stack with port := s.stack.port ++ [r] } }
  if reqFrozen s r || sliceFull s (reqSlice r) || s.stack.port.any fun x => reqSlice x = reqSlice r && !reqFrozen s x then waits
  else if !serves s (spmDomain r.addr.toNat) then wakeDomain (spmDomain r.addr.toNat) waits
  else takeAccess r s

/-- Take the accesses that wait at the port of a slice, in order, until one must wait again; n bounds them (R94). -/
def pumpPort (slice : Nat) : Nat → State → State
  | 0, s => s
  | n + 1, s =>
    match s.stack.port.find? fun r => reqSlice r = slice && !reqFrozen s r with
    | none => s
    | some r =>
      if sliceFull s slice || !serves s (spmDomain r.addr.toNat) || !serves s (sceDomain r.addr.toNat) then s
      else pumpPort slice n (takeAccess r { s with stack := { s.stack with port := s.stack.port.erase r } })

/-- Take what waits at every slice's port (R94). -/
def pumpPorts (s : State) : State := (List.range 8).foldl (fun t i => pumpPort i t.stack.port.length t) s

/-- End every access of a polder, in progress or waiting, with a status (R95, R102). -/
def endStackAccesses (p : PolderId) (st : Status) (s : State) : State :=
  let mine := fun (w : StackWait) => decide (w.polder = p)
  let ours := fun (r : StackReq) => match findContext s r.context with | some x => decide (x.polder = p) | none => false
  let all := ((s.stack.reads.filter mine ++ s.stack.keyWait.filter mine ++ s.stack.fillWait.filter mine
    ++ s.stack.held.filter mine).map (·.req)) ++ s.stack.port.filter ours
  all.foldl (fun t r => stackAnswer r st [] t)
    { s with stack := { s.stack with
        reads := s.stack.reads.filter fun w => !mine w
        keyWait := s.stack.keyWait.filter fun w => !mine w
        fillWait := s.stack.fillWait.filter fun w => !mine w
        held := s.stack.held.filter fun w => !mine w
        port := s.stack.port.filter fun r => !ours r } }

/-- A read that the stack controller has returned is decrypted, or merged and written (R86). -/
def finishRead (w : StackWait) (data : Bytes) (s : State) : State :=
  let r := w.req
  let u := r.addr.toNat / 256
  let s := { s with stack := { s.stack with
    mem := memWriteN 0 s.stack.mem r.addr.toNat (padTo r.len data)
    bad := s.stack.bad.filter (· ≠ u) } }
  let plain := stackRead s (polderStackKey s w.polder) r.addr.toNat r.len
  if r.write then performWrite w plain s
  else
    let s := countBy (sceCounter r.addr.toNat 2) r.len (count (sceCounter r.addr.toNat 0) s)
    stackAnswer r .ok plain (meter w.polder 2 r.len s)

/-- A stack controller returns a read (R521): an uncorrectable error ends it with ST_BREACH; else the polder's key is used
under its check, and the access ends (R86, R92 checks 10 and 11, R301). -/
def stackReturn (w : StackWait) (data : Bytes) (uncorrectable : Bool) (s : State) : State :=
  let r := w.req
  let u := r.addr.toNat / 256
  let s := { s with stack := { s.stack with reads := s.stack.reads.erase w } }
  let s :=
    if isFrozen s w.polder then { s with stack := { s.stack with held := w :: s.stack.held } }
    else if uncorrectable then
      let s := count (sceCounter r.addr.toNat 7)
        { s with stack := { s.stack with bad := if s.stack.bad.contains u then s.stack.bad else s.stack.bad ++ [u] } }
      let s := writeFault .stackUncorrectable
        { unit := sceUnit r.addr.toNat, status := statusCode .breach, polder := w.polder, context := some r.context,
          detail := leBytes 5 r.addr.toNat } s
      stackAnswer r .breach [] s
    else
      match needKey w.polder 3 s with
      | (.failed st, s) => stackAnswer r st [] s
      | (.wait, s) => { s with stack := { s.stack with keyWait := s.stack.keyWait ++ [w] } }
      | (.ready, s) => finishRead w data s
  releaseHeld u (s.stack.held.length + 1) s

/-! ### Fills and releases -/

/-- Change a memory object. -/
def modMemobj (m : BitVec 13) (f : MemObj → MemObj) (s : State) : State :=
  { s with obj := { s.obj with memobjs := alter (fun x => x.id = m) f s.obj.memobjs } }

/-- A memory object that is not FREE. -/
def findMemobj (s : State) (m : BitVec 13) : Option MemObj := s.obj.memobjs.find? fun x => x.id = m

/-- Take a plot out of every memory object that holds it. -/
def dropPlot (plot : BitVec 16) (s : State) : State :=
  { s with obj := { s.obj with
      memobjs := s.obj.memobjs.map fun m => { m with plots := m.plots.filter (· ≠ plot) } } }

/-- Fail the lookups of a plot's data units with a check and a status. -/
def failLookups (plot : BitVec 16) (f : Nat × Status) (l : List Lookup) : List Lookup :=
  alter (fun x => plotOf x.addr = plot && x.fail.isNone) (fun x => { x with fail := some f }) l

/-- What waits for a fill of a plot from no core's port ends with a check and a status, when it is next tried (R101, R539). -/
def failPlotWaits (plot : BitVec 16) (f : Nat × Status) (s : State) : State :=
  { s with
    stack := { s.stack with others := s.stack.others.map fun u => { u with lookups := failLookups plot f u.lookups } }
    fau := { s.fau with
      memWait := s.fau.memWait.map fun w => { w with lookups := failLookups plot f w.lookups }
      waiting := s.fau.waiting.map fun w => { w with reads := failLookups plot f w.reads, writes := failLookups plot f w.writes }
      ops := s.fau.ops.map fun o => { o with lookups := failLookups plot f o.lookups } } }

/-- End the accesses to a plot that wait for its fill, with those held behind them, with a status; check names the check of R92
that they fail, if they are refused. -/
def endFillWait (plot : BitVec 16) (check : Option Nat) (st : Status) (s : State) : State :=
  let waits := s.stack.fillWait.filter fun w => plotOf w.req.addr.toNat = plot
  let behind := s.stack.held.filter fun r => plotOf r.req.addr.toNat = plot
    && waits.any fun w => sameUnit (r.req.addr.toNat / 256) w.req
  let s := { s with stack := { s.stack with
    fillWait := s.stack.fillWait.filter fun w => plotOf w.req.addr.toNat ≠ plot
    held := s.stack.held.filter fun r => !behind.contains r } }
  ((waits ++ behind).map (·.req)).foldl (fun t r => match check with
    | some c => stackRefuse r c st t
    | none => stackAnswer r st [] t) (failPlotWaits plot ((check.getD 10), st) s)

/-- Undo an assignment whose fill cannot have its key (R539). -/
def undoFill (f : Fill) (st : Status) (slot : Byte) (s : State) : State :=
  let s := { s with stack := { s.stack with fills := s.stack.fills.filter fun x => x.plot ≠ f.plot } }
  let s := dropPlot f.plot (setPlot f.plot 0 s)
  let n := (s.stack.fillWait.filter fun w => plotOf w.req.addr.toNat = f.plot).length
  let s := endFillWait f.plot none st s
  writeFault .keyLoadFailed
    { unit := 0x0E00, status := statusCode st, polder := f.polder, count := n,
      detail := [slot] ++ leBytes 2 f.plot.toNat } s

/-- The stored bytes of n units of zeros from the start of a plot (R99). -/
def zeroFill (plot : BitVec 16) (units : Nat) (key : Key512) (s : State) : State :=
  let base := plot.toNat * 16777216
  let e := plotEntry s plot
  let byte := fun (i : Nat) =>
    let o := polderOffset e i
    (xtsBlock true key (o / 256) (o % 256 / 16) (zeros 16)).getD (i % 16) 0
  { s with stack := { s.stack with
      mem := memFill 0 s.stack.mem base byte (256 * units)
      bad := s.stack.bad.filter fun u => !(base ≤ 256 * u && 256 * u < base + 256 * units) } }

/-- A fill ends: zeros are stored, filling is cleared and the waiting accesses proceed (R99). -/
def finishFill (f : Fill) (s : State) : State :=
  let s := meter f.polder 2 16777216 (zeroFill f.plot 65536 (polderStackKey s f.polder) s)
  let s := { s with stack := { s.stack with fills := s.stack.fills.filter fun x => x.plot ≠ f.plot } }
  let e := plotEntry s f.plot
  retryFillWait f.plot (setPlot f.plot (e &&& ~~~ (BitVec.ofNat 64 (2 ^ 38))) s)

/-- Mark a plot for release; a fill of it stops at a data unit that the spec leaves to timing, the slot's check being
made as the fill takes its key (R101, R300). -/
def startRelease (plot : BitVec 16) (waiters : List (Origin × BitVec 32)) (s : State) : State :=
  let s := { s with stack := { s.stack with
    releases := if s.stack.releases.any fun r => r.1 = plot
      then alter (fun r => r.1 = plot) (fun r => (r.1, r.2 ++ waiters)) s.stack.releases
      else s.stack.releases ++ [(plot, waiters)] } }
  match s.stack.fills.find? fun f => f.plot = plot with
  | none => s
  | some f =>
    let held : Bool := stackKeyThere s f.polder
    let use := if held then needKey f.polder 3 s else (.wait, s)
    let s := use.2
    let s := if use.1 = .ready then
        let units := (fresh s).toNat % 65537
        meter f.polder 2 (256 * units) (tookFree (zeroFill plot units (polderStackKey s f.polder) s))
      else s
    let s := { s with stack := { s.stack with fills := s.stack.fills.filter fun x => x.plot ≠ plot } }
    let e := plotEntry s plot
    endFillWait plot (some 4) .badParam (setPlot plot (e &&& ~~~ (BitVec.ofNat 64 (2 ^ 38))) s)

/-- Whether an access that looked up a plot has still to complete, a core's or any other's (R101). -/
def plotInUse (s : State) (plot : BitVec 16) : Bool :=
  (s.stack.reads.any fun w => plotOf w.req.addr.toNat = plot)
    || (s.stack.keyWait.any fun w => plotOf w.req.addr.toNat = plot)
    || (s.stack.fillWait.any fun w => plotOf w.req.addr.toNat = plot)
    || (s.stack.held.any fun w => plotOf w.req.addr.toNat = plot)
    || (outsideUnits s).any fun x => plotOf x.addr = plot

/-- A doomed memory object that holds no plot and no region any more is FREE (R372). -/
def settleMemobjs (s : State) : State :=
  let gone := s.obj.memobjs.filter fun m => m.doomed && m.plots.isEmpty && m.regions.isEmpty
  let keep := s.obj.memobjs.filter fun m => !(m.doomed && m.plots.isEmpty && m.regions.isEmpty)
  gone.foldl (fun t m => finishAll m.waiters .ok t) { s with obj := { s.obj with memobjs := keep } }

/-- The release of a plot is complete: the entry is invalid and the commands that wait for it end (R101). -/
def finishRelease (plot : BitVec 16) (s : State) : State :=
  let ws := s.stack.releases.flatMap fun r => if r.1 = plot then r.2 else []
  let s := { s with stack := { s.stack with releases := s.stack.releases.filter fun r => r.1 ≠ plot } }
  settleMemobjs (finishAll ws .ok (dropPlot plot (setPlot plot 0 s)))

/-! ### Meanings -/

/-- STACK_ACCESS (R42, R79, R85, R92, R94). Only role E has stacks. -/
def execStackAccess (r : StackReq) (s : State) : Host.Outcome State Fault Refusal :=
  .next <|
    if !running s || s.boot.role ≠ .e then s
    else enter (sceDomain r.addr.toNat) (.stack r) (arriveStack r) s

end Sys2Proof.Machine
end

