-- ==== Sys2Proof/Machine/Objects.lean ====
section
/-! DEFINITION. Host objects at work: descriptors starting and ending, queues, fences, contexts stopping, and the sync
counters of a core (R256 to R266, R365 to R373, R405, R474). -/

namespace Sys2Proof.Machine

/-! ### Profiling sets (R474, R475) -/

/-- Whether a profiling set counts: enabled, on a queue whose context belongs to no confidential polder. -/
def profLive (s : State) (p : ProfSel) : Bool :=
  p.enable &&
    match findQueue s p.queue with
    | some q => (match findContext s q.context with | some c => !isConfidential s c.polder | none => true)
    | none => true

/-- Reset a profiling set: its counters restart and their reset_seen latches are set; a read in the same cycle still
finds the values before (R475). -/
def profReset (n : BitVec 6) (s : State) : State :=
  let old := fun (p : ProfSel) =>
    if p.resetAt = s.time && !p.before.isEmpty then p.before
    else [if p.enable then s.datum.value.toNat - p.since else 0, p.bytes, p.ops, p.waited]
  let latches := (List.range 4).map fun k => 0x300 + 4 * n.toNat + k
  { s with tracer := { s.tracer with
      prof := alter (fun p => p.index = n)
        (fun p => { p with since := s.datum.value.toNat, bytes := 0, ops := 0, waited := 0, before := old p, resetAt := s.time })
        s.tracer.prof
      resetSeen := s.tracer.resetSeen ++ latches.filter fun i => !s.tracer.resetSeen.contains i } }

/-- Reset the sets of a queue that have a scope. -/
def profResetQueue (q : BitVec 8) (scope : Bool) (s : State) : State :=
  (s.tracer.prof.filter fun p => p.queue = q && p.enable && p.scope == scope).foldl (fun t p => profReset p.index t) s

/-- Count bytes moved and operations issued by the descriptors of a queue. -/
def profAdd (q : BitVec 8) (bytes ops : Nat) (s : State) : State :=
  { s with tracer := { s.tracer with
      prof := alter (fun p => p.queue = q && profLive s p)
        (fun p => { p with bytes := p.bytes + bytes, ops := p.ops + ops }) s.tracer.prof } }

/-! ### Descriptors -/

/-- The payload of a descriptor's trace events (R477). -/
def descTrace (q : BitVec 8) (d : Started) (st : Status) : Bytes :=
  [q, BitVec.ofNat 8 (descKind d.data)] ++ leBytes 2 (descCtag d.data).toNat ++ [statusCode st] ++ zeros 3
    ++ leBytes 4 d.index.toNat

/-- A started descriptor of a queue. -/
def findStarted (s : State) (q : BitVec 8) (idx : BitVec 12) : Option Started :=
  match findQueue s q with
  | some x => x.started.find? fun d => d.index = idx
  | none => none

/-- The completion record of a descriptor (R369, R390). -/
def completion (q : Queue) (idx : BitVec 12) (ctag : BitVec 16) (st : Status) (result : BitVec 64) (flags : BitVec 6)
    (s : State) : EventRec :=
  { ctag := ctag, status := statusCode st, kind := 0x01, queue := q.id, context := q.context, result := result,
    datum := s.datum.value, ref := BitVec.ofNat 32 idx.toNat, flags := flags }

/-- A queue being destroyed on its own is FREE once no descriptor of it runs (R374). -/
def settleQueue (q : BitVec 8) (s : State) : State :=
  match findQueue s q with
  | none => s
  | some x =>
    let ctx := match findContext s x.context with | some c => decide (c.state = .destroying) | none => false
    if x.state = .destroying && x.started.isEmpty && !ctx then
      finishAll x.waiters .ok { s with obj := { s.obj with queues := s.obj.queues.filter fun y => y.id ≠ q } }
    else s

/-- End a started descriptor: its completion record, its trace event, and it is started no longer (R369, R390, R405). -/
def endDescriptor (q : BitVec 8) (idx : BitVec 12) (st : Status) (result : BitVec 64) (flags : BitVec 6) (s : State) :
    State :=
  match findQueue s q with
  | none => s
  | some x =>
    match x.started.find? fun d => d.index = idx with
    | none => s
    | some d =>
      let s := modQueue q (fun x => { x with started := x.started.filter fun d => d.index ≠ idx }) s
      let p := match findContext s x.context with | some c => c.polder | none => 0
      let s := emitTrace 2 0x0202 0x0C00 p (some x.context) (descTrace q d st) s
      settleQueue q (postEvent x.fn x.ring (completion x idx (descCtag d.data) st result flags s) s)

/-- Complete a descriptor that never started (R366, R368). -/
def endUnstarted (x : Queue) (idx : BitVec 12) (ctag : BitVec 16) (st : Status) (s : State) : State :=
  postEvent x.fn x.ring (completion x idx ctag st 0 0 s) s

/-- Mark a started descriptor as taken by its engine. -/
def beginDescriptor (q : BitVec 8) (idx : BitVec 12) (s : State) : State :=
  let take := fun (d : Started) => if d.index = idx then { d with begun := true } else d
  modQueue q (fun x => { x with started := x.started.map take }) s

/-- Whether a queue's descriptors may begin: the queue is ACTIVE and its context runs (R264, R368). -/
def mayBegin (s : State) (x : Queue) : Bool :=
  x.state = .active && (match findContext s x.context with | some c => c.state = .bound | none => false)

/-- The oldest started descriptor of a kind that its engine has not taken and may begin. -/
def nextOfKind (s : State) (q : BitVec 8) (kind : Nat) : Option Started :=
  match findQueue s q with
  | some x => if mayBegin s x then x.started.find? fun d => !d.begun && descKind d.data = kind else none
  | none => none

/-- Whether every earlier descriptor of the queue has ended (R388): started descriptors stand in ring order. -/
def isOldest (s : State) (q : BitVec 8) (idx : BitVec 12) : Bool :=
  match findQueue s q with
  | some x => (match x.started with | d :: _ => d.index = idx | [] => false)
  | none => false

/-- Whether the ring that a queue feeds has room for its completions (R370). -/
def queueRingOpen (s : State) (x : Queue) : Bool :=
  match findRing s x.fn x.ring with
  | some r => ringSpace r && r.waiting.isEmpty
  | none => true

/-- Whether the function of a queue lets it start descriptors: the PF, or a VF in RUN with no reset under way (R395,
R398). -/
def fnRuns (s : State) (fn : FnId) : Bool :=
  match vfOf fn with
  | none => true
  | some n => (getVf s n).state = .run && (getVf s n).reset.isNone

/-- Whether a queue may start its next descriptor (R367, R368, R370, R388, R405, R407). -/
def mayStart (s : State) (x : Queue) : Bool :=
  x.state = .active && x.head ≠ x.tail && x.started.length < 64 && fnRuns s x.fn && queueRingOpen s x
    && (match findContext s x.context with
        | some c => c.state = .bound && c.hold.isNone && c.resetting.isEmpty
            && (match findPolder s c.polder with
                | some p => p.teardown.isNone && p.freeze = .none && !s.charts.exports.any fun e => e.polder = p.id
                | none => false)
        | none => false)
    && !x.started.any fun d => descKind d.data = 4 || descKind d.data = 5 || descKind d.data = 6

/-- Whether it is a queue's turn at an engine: of the queues with a unit ready it is the next after the one served last (R406).
DESIGN CHOICE: the rotation goes by queue number, and after reset begins at queue 0 (notes/assumptions/76.md). -/
def engineTurn (ready : BitVec 8 → Bool) (last q : BitVec 8) (s : State) : Bool :=
  s.obj.queues.all fun x => !ready x.id || (q - last - 1).toNat ≤ (x.id - last - 1).toNat

/-! ### Fences (R373, R388) -/

/-- A fence object. -/
def findFence (s : State) (f : BitVec 14) : Option FenceObj := s.obj.fences.find? fun x => x.id = f

/-- Change a fence. -/
def modFence (f : BitVec 14) (g : FenceObj → FenceObj) (s : State) : State :=
  { s with obj := { s.obj with fences := alter (fun x => x.id = f) g s.obj.fences } }

/-- Whether a context may signal and wait on a fence: its owner or a sharer. -/
def fenceNamedBy (f : FenceObj) (c : CtxId) : Bool := f.owner = c || f.shares.contains c

/-- Raise a fence to a value and end the waits it satisfies. -/
def raiseFence (f : BitVec 14) (v : BitVec 64) (s : State) : State :=
  match findFence s f with
  | none => s
  | some x =>
    let done := x.waits.filter fun w => w.target.toNat ≤ v.toNat
    let s := modFence f (fun x => { x with value := v, waits := x.waits.filter fun w => v.toNat < w.target.toNat }) s
    done.foldl (fun t w => endDescriptor w.queue w.index .ok 0 0 t) s

/-- The fence event of an abandonment (R373). -/
def fenceEvent (x : FenceObj) (c : CtxId) (s : State) : EventRec :=
  { ctag := 0, status := statusCode .abandoned, kind := 0x03, queue := 0, context := c, result := x.value,
    datum := s.datum.value, ref := BitVec.ofNat 32 x.id.toNat, flags := 0 }

/-- Abandon a fence: its waits end with ST_ABANDONED, each sharing context's function gets a fence event, and it is FREE
(R373). -/
def abandonFence (f : BitVec 14) (s : State) : State :=
  match findFence s f with
  | none => s
  | some x =>
    let s := { s with obj := { s.obj with fences := s.obj.fences.filter fun y => y.id ≠ f } }
    let s := x.waits.foldl (fun t w => endDescriptor w.queue w.index .abandoned 0 0 t) s
    x.shares.foldl (fun t c =>
      match findContext t c with
      | some y => postEvent y.fn 0 (fenceEvent x c t) t
      | none => t) s

/-- Drop a context's shares; the waits of its descriptors on them end with ST_SQUASHED. -/
def dropShares (c : CtxId) (s : State) : State :=
  let mine := fun (w : FenceWaiter) => match findQueue s w.queue with | some q => decide (q.context = c) | none => false
  s.obj.fences.foldl (fun t f =>
    if f.owner = c then t
    else
      let lost := f.waits.filter mine
      let cut := fun (x : FenceObj) =>
        { x with shares := x.shares.filter (· ≠ c), waits := x.waits.filter fun w => !mine w }
      lost.foldl (fun u w => endDescriptor w.queue w.index .squashed 0 0 u) (modFence f.id cut t)) s

/-! ### Cores and contexts -/

/-- The context a core is bound to (R257). -/
def coreContext (s : State) (core : BitVec 9) : Option Context :=
  s.obj.contexts.find? fun c => c.cores.getLsbD core.toNat

/-- Answer a core-side SCA request. -/
def scaAnswer (core : BitVec 9) (st : Status) (v : BitVec 32) (s : State) : State := emit (.scaAnswer core st v) s

/-- The oldest pending wait of a core. -/
def oldestWait (core : BitVec 9) (s : State) : Option SyncWait := s.sca.waits.find? fun w => w.req.core = core

/-- Answer a pending wait, which was held in the state before: the core's wait-idle hint drops when it was the oldest (R265). -/
def answerWait (before : State) (w : SyncWait) (st : Status) (v : BitVec 32) (s : State) : State :=
  let core := w.req.core
  let s := scaAnswer core st v s
  if oldestWait core before = some w then { s with sca := { s.sca with hints := s.sca.hints.filter (· ≠ core) } } else s

/-- Whether a core belongs to a context. -/
def coreOf (c : Context) (core : BitVec 9) : Bool := c.cores.getLsbD core.toNat

/-- End the pending waits of a context's cores, and those on its counters, with ST_SQUASHED (R264, R366). -/
def endWaits (c : Context) (s : State) : State :=
  let hit := fun (w : SyncWait) => coreOf c w.req.core || coreOf c w.req.target
  (s.sca.waits.filter hit).foldl (fun t w => answerWait s w .squashed 0 t)
    { s with sca := { s.sca with waits := s.sca.waits.filter fun w => !hit w } }

/-- Stop a context: STOPPED, its queues start nothing more, its cores' waits end (R263, R264, R368). -/
def stopContext (c : CtxId) (s : State) : State :=
  match findContext s c with
  | none => s
  | some x =>
    if x.state ≠ .bound then s
    else
      let s := modContext c (fun x => { x with state := .stopped }) s
      let halt := fun (q : Queue) => { q with state := .halted }
      let s := { s with obj := { s.obj with
        queues := alter (fun q => q.context = c && q.state = .active) halt s.obj.queues } }
      endWaits x s

/-! ### Sync counters (R256 to R263) -/

/-- The present value of a counter. -/
def syncValue (s : State) (core : BitVec 9) (i : BitVec 6) : BitVec 32 := assocGet (core, i) 0 s.sca.counters

/-- Set a counter. -/
def setSync (core : BitVec 9) (i : BitVec 6) (v : BitVec 32) (s : State) : State :=
  let cs := if v = 0 then assocDel (core, i) s.sca.counters else assocSet (core, i) v s.sca.counters
  { s with sca := { s.sca with counters := cs } }

/-- Zero the 48 counters of the cores of a set (R257). -/
def zeroSync (cores : BitVec 512) (s : State) : State :=
  { s with sca := { s.sca with counters := s.sca.counters.filter fun c => !cores.getLsbD c.1.1.toNat } }

/-- Whether a wait's condition holds against a value. -/
def waitHolds (w : SyncWait) (v : BitVec 32) : Bool := w.req.value.toNat ≤ v.toNat

/-- Examine the pending waits on a counter in the order they were issued, satisfying each whose condition holds at its
turn; n bounds them (R260). skip is how many have been examined and still wait. -/
def examineWaits (core : BitVec 9) (i : BitVec 6) : Nat → Nat → State → State
  | 0, _, s => s
  | n + 1, skip, s =>
    let here := s.sca.waits.filter fun w => w.req.target = core && w.req.counter = i
    match here.drop skip with
    | [] => s
    | w :: _ =>
      let v := syncValue s core i
      if waitHolds w v then
        let new := if w.subtracts then v - w.req.value else v
        let t := setSync core i new { s with sca := { s.sca with waits := s.sca.waits.erase w } }
        examineWaits core i n skip (answerWait s w .ok new t)
      else examineWaits core i n (skip + 1) s

/-- Set a counter and examine the waits on it (R260). -/
def changeSync (core : BitVec 9) (i : BitVec 6) (v : BitVec 32) (s : State) : State :=
  examineWaits core i (s.sca.waits.length + 1) 0 (setSync core i v s)

/-- The unit number of the SCA bank of a core: 32 cores a bank (R36, R432). -/
def scaUnit (core : BitVec 9) : BitVec 16 := BitVec.ofNat 16 (0x1000 + core.toNat / 32)

/-- The domain of the SCA bank of a core (R36). -/
def scaDomain (core : BitVec 9) : DomainId := ⟨.scaBank, BitVec.ofNat 8 (core.toNat / 32)⟩

/-- A sync fault: the record, whose last detail field holds the signal's number or the requesting core, and the context
that owns the counter stops (R263). -/
def syncFault (core : BitVec 9) (i : BitVec 6) (operand : BitVec 32) (st : Status) (peer : Option InstId) (seq : BitVec 32)
    (s : State) : State :=
  match coreContext s core with
  | none => s
  | some c =>
    let s := writeFault .syncFault
      { unit := scaUnit core, status := statusCode st, polder := c.polder, context := some c.id, peer := peer,
        detail := leBytes 2 core.toNat ++ [BitVec.ofNat 8 i.toNat] ++ leBytes 4 (syncValue s core i).toNat
          ++ leBytes 4 operand.toNat ++ leBytes 4 seq.toNat } s
    stopContext c.id s

end Sys2Proof.Machine
end

