-- ==== Sys2Proof/Machine/Fau.lean ====
section
/-! DEFINITION. The Fabric Access Unit as a requester: issuing remote operations, fences, re-sends, answers and link
notices (chapters 6 and 7). -/

namespace Sys2Proof.Machine

/-! ### Shapes (R145, R146, R171) -/

/-- Whether an atomic's op_modifier is valid (R146, R147). -/
def atomicValid (m : BitVec 16) : Bool :=
  let kind := m.extractLsb' 0 4
  let width := m.extractLsb' 4 2
  let signed := m.getLsbD 6
  let fmt := m.getLsbD 7
  kind.toNat ≤ 5 && m.extractLsb' 8 8 = 0 && (!signed || kind = 3 || kind = 4) && (!fmt || kind = 5)
    && (kind ≠ 5 || (width = 2 && !fmt) || (width = 1 && fmt))

/-- Whether a fence's scope is one of the three and its reserved bits are clear (R171). -/
def fenceScopeOk (m : BitVec 16) : Bool := m.extractLsb' 2 14 = 0 && m.extractLsb' 0 2 ≠ 3

/-- Whether an operation has the shape that R145 asks for. -/
def shapeOk (op : BitVec 8) (m : BitVec 16) (key : BitVec 32) (offset : BitVec 64) (n : Nat) : Bool :=
  match op.toNat with
  | 1 | 2 | 5 => (n = 0 || (64 ≤ n && n ≤ 4096 && n % 64 = 0)) && offset.toNat % 64 = 0
  | 3 => atomicValid m && n = atomicOperand m && offset.toNat % atomicWidth m = 0
  | 4 => redValid m true && 64 ≤ n && n ≤ 4096 && n % 64 = 0 && storedWhole m n && offset.toNat % 64 = 0
  | 6 => n = 4 && offset.toNat % 4 = 0
  | 7 => n = 0 && key = 0 && offset = 0 && fenceScopeOk m
  | _ => false

/-- Whether a request behaves as a fence: a fence, or a zero-length load or store (R174, R391). -/
def fenceLike (op : BitVec 8) (n : Nat) : Bool := op = 7 || ((op = 1 || op = 2 || op = 5) && n = 0)

/-- Whether a fence covers every destination of the context (R171). -/
def wideFence (r : RemoteReq) : Bool := r.opcode = 7 && r.modifier.extractLsb' 0 2 = 2

/-- Whether mc agrees with the opcode: multicast stores and fences of scope 0b01 go to a group. -/
def mcOk (r : RemoteReq) : Bool :=
  if r.opcode = 7 then (match (r.modifier.extractLsb' 0 2).toNat with | 0 => !r.mc | 1 => r.mc | _ => true)
  else r.mc == decide (r.opcode = 5)

/-- The destination of a request. -/
def reqDest (r : RemoteReq) : Dest := destOf r.mc r.dst

/-! ### Local accesses (R136) -/

/-- What a local access finds. -/
inductive LocalUse where
  | ready
  | wait
  | fail (status : Status)
  deriving DecidableEq, Repr

/-- The record of a local data unit that fails a check of R92 (R136); a key that cannot be had has its own record (R95). -/
def localRefused (c : CtxId) (p : PolderId) (addr check : Nat) (write : Bool) (st : Status) (s : State) : State :=
  if check = 3 || check = 10 then s
  else if check = 11 then
    writeFault .stackUncorrectable
      { unit := sceUnit addr, status := statusCode st, polder := p, context := some c, detail := leBytes 5 addr } s
  else
    writeFault .stackRefused
      { unit := sceUnit addr, status := statusCode st, polder := p, context := some c,
        detail := leBytes 5 addr ++ [BitVec.ofNat 8 check, if write then 1 else 0] } s

/-- Checks 2 to 11 of R92 on every data unit of a local range, in address order (R136): what it finds, and what its
units were found to be, which a range that waits keeps (R90). A range waits while a Weir on its way does not admit the
context's class (R411). seen is what an earlier try found. -/
def localUse (c : CtxId) (p : PolderId) (addr len : Nat) (write : Bool) (seen : List Lookup) (s : State) :
    LocalUse × List Lookup × State :=
  match findContext s c, findPolder s p with
  | some _, some q =>
    let l := if seen.isEmpty then lookUp s q (unitPieces addr len) write else seen
    if !rangeAdmits s l (contextClass s c) then (.wait, l, s) else
    match rangeUse p write l s with
    | (.ready, s) => (.ready, l, s)
    | (.wait, s) => (.wait, l, s)
    | (.fail a check st, s) => (.fail st, l, localRefused c p a check write st s)
  | _, _ => (.fail .badParam, [], localRefused c p addr 2 write .badParam s)

/-- Whether a waiting use is this user's of this range. -/
def sameUse (user : StackUser) (addr len : Nat) (write : Bool) (u : OtherUse) : Bool :=
  u.user = user && u.write = write && (u.lookups.map fun l => (l.addr, l.len)) = unitPieces addr len

/-- What a range was found to be when it was tried before; none of a range that has not waited. -/
def keptLookups (s : State) (user : StackUser) (addr len : Nat) (write : Bool) : List Lookup :=
  match s.stack.others.find? (sameUse user addr len write) with
  | some u => u.lookups
  | none => []

/-- Keep what a range that waits was found to be, or forget it (R90). -/
def keepLookups (user : StackUser) (p : PolderId) (addr len : Nat) (write : Bool) (l : List Lookup) (s : State) : State :=
  let others := (otherUses s).filter fun u => !sameUse user addr len write u
  { s with stack := { s.stack with
      others := if l.isEmpty then others else others ++ [{ user := user, polder := p, write := write, lookups := l }] } }

/-- The checks of a range that a copy or a collective uses: one that waits keeps what its data units were found to be (R87, R90,
R136). -/
def localCheck (user : StackUser) (c : CtxId) (p : PolderId) (addr len : Nat) (write : Bool) (s : State) : LocalUse × State :=
  match localUse c p addr len write (keptLookups s user addr len write) s with
  | (.wait, l, s) => (.wait, keepLookups user p addr len write l s)
  | (u, _, s) => (u, keepLookups user p addr len write [] s)

/-- The source range of a request: length only, at local_addr (R136). -/
def sourceLen (r : RemoteReq) : Nat :=
  match r.opcode.toNat with
  | 2 | 4 | 5 => r.len.toNat
  | 3 => atomicOperand r.modifier
  | _ => 0

/-- The sink range of a request (R136). -/
def sinkLen (r : RemoteReq) : Nat :=
  match r.opcode.toNat with
  | 1 => r.len.toNat
  | 3 => atomicWidth r.modifier
  | _ => 0

/-- The payload of a request: data from local_addr, or a signal's increment (R135, R145). -/
def reqPayload (r : RemoteReq) (p : PolderId) (s : State) : Bytes :=
  if r.opcode = 6 then leBytes 4 r.increment.toNat
  else stackRead s (polderStackKey s p) r.localAddr.toNat (sourceLen r)

/-! ### Ending operations -/

/-- The FAU's unit number: partition 0 stands for all (R432). -/
def fauUnit : BitVec 16 := 0x0500

/-- Answer the issuer of a request: a core, or a descriptor's completion record (R153). -/
def answerOp (c : CtxId) (ctag : BitVec 16) (src : OpSource) (st : Status) (result : BitVec 64) (flags : BitVec 6)
    (s : State) : State :=
  match src with
  | .core => emit (.remoteAnswer c ctag st result) s
  | .desc q i => endDescriptor q i st result flags s

/-- The FAU_REFUSED record of a request, with the requester's cause (R544). -/
def requestRefused (r : RemoteReq) (p : PolderId) (check : Byte) (st : Status) (s : State) : State :=
  writeFault .fauRefused
    { unit := fauUnit, status := statusCode st, polder := p, context := some r.context,
      peer := if r.mc then none else some r.dst,
      detail := [check, r.opcode] ++ leBytes 2 (r.regionKey.toNat / 262144) } s

/-- Refuse a request with a FAU_REFUSED record (R544). -/
def refuseOp (r : RemoteReq) (src : OpSource) (p : PolderId) (check : Byte) (st : Status) (s : State) : State :=
  answerOp r.context r.ctag src st 0 0 (requestRefused r p check st s)

/-- Take an ended operation out of the tables: the outstanding operations, the fences that waited for it and the packets
still to be sealed. -/
def dropOp (id : Nat) (s : State) : State :=
  let cut := fun (f : PendingFence) => { f with earlier := f.earlier.filter (· ≠ id), packets := f.packets.filter (· ≠ id) }
  { s with
    fau := { s.fau with ops := s.fau.ops.filter fun o => o.id ≠ id, fences := s.fau.fences.map cut }
    link := { s.link with txWait := s.link.txWait.filter fun k => k.owner ≠ .op id } }

/-- End an operation: a fence packet's failure becomes its fence's; any other operation is answered (R160, R173). -/
def finishOp (o : OutOp) (st : Status) (result : BitVec 64) (flags : BitVec 6) (s : State) : State :=
  let s := dropOp o.id s
  match o.fence with
  | some f =>
    let fail := fun (x : PendingFence) => if x.status = .ok then { x with status := st } else x
    { s with fau := { s.fau with fences := alter (fun x => x.id = f) fail s.fau.fences } }
  | none => answerOp o.req.context o.req.ctag o.source st result flags s

/-- The lowest-numbered member that failed gives a multicast operation its status (R151). -/
def groupStatus (results : List (InstId × Status)) : Status :=
  let failed := results.filter fun x => x.2 ≠ .ok
  match failed.foldl (fun (best : Option (InstId × Status)) x => match best with
    | none => some x
    | some b => if x.1.toNat < b.1.toNat then some x else some b) none with
  | some x => x.2
  | none => .ok

/-- Settle one awaited member of an operation; the last one completes it (R151). -/
def settleMember (o : OutOp) (m : InstId) (st : Status) (s : State) : State :=
  let o : OutOp := { o with awaiting := o.awaiting.filter (· ≠ m), results := o.results ++ [(m, st)] }
  if o.awaiting.isEmpty then
    finishOp o (groupStatus o.results) (BitVec.ofNat 64 (o.results.filter fun x => x.2 ≠ .ok).length) 0 s
  else { s with fau := { s.fau with ops := alter (fun x => x.id = o.id) (fun _ => o) s.fau.ops } }

/-- End an operation that matches a failure of one instance: a unicast operation, or one member of a multicast one. -/
def failTo (o : OutOp) (m : InstId) (st : Status) (s : State) : State :=
  if destIsGroup o.dest then settleMember o m st s else finishOp o st 0 0 s

/-- The record of an atomic whose outcome is not known (R183). -/
def outcomeUnknown (o : OutOp) (s : State) : State :=
  writeFault .fauOutcomeUnknown
    { unit := fauUnit, status := statusCode .outcomeUnknown, polder := o.polder, context := some o.req.context,
      peer := some (destId o.dest), detail := leBytes 4 o.seq.toNat ++ leBytes 2 o.req.modifier.toNat } s

/-! ### Issuing (R135, R152, R156, R162, R171 to R176) -/

/-- The least id that no outstanding operation carries. -/
def freeOpId (s : State) : Nat := (leastBelow 65536 fun n => s.fau.ops.all fun o => o.id ≠ n).getD 0

/-- The packet of an operation (R54, R135). -/
def opPacket (o : OutOp) (retry : Bool) : TxPacket :=
  { polder := o.polder, dest := o.dest, cls := o.cls, lane := 0, kind := 0, retry := retry,
    inner := { offset := o.req.offset, regionKey := o.req.regionKey, seq := o.seq, ctag := BitVec.ofNat 16 o.id,
               opLength := o.req.len, opcode := o.req.opcode, classLabel := o.cls, opFlags := 0,
               modifier := o.req.modifier, aux := o.aux },
    payload := o.payload, owner := .op o.id }

/-- The aux of a signal: the context's latest non-signal request to the destination when not below A, else A − 1
(R176). -/
def signalAux (c : CtxId) (p : PolderId) (d : Dest) (s : State) : BitVec 32 :=
  let a := oldestUnanswered s p d
  match s.fau.lastNonSignal.lookup (c, d) with
  | some n => if serialLt n a then a - 1 else n
  | none => a - 1

/-- The members of a group that a request awaits: those of the mask, other than this instance (R61, R151). -/
def awaitedMembers (s : State) (p : PolderId) (d : Dest) : List InstId :=
  if destIsGroup d then
    match s.link.joins.find? fun j => j.group = destId d && j.polder = p with
    | some j => ((List.range 8192).filter fun i => j.mask.getLsbD i && i ≠ s.boot.instanceId.toNat).map (BitVec.ofNat 13)
    | none => []
  else [destId d]

/-- Number one packet of a request, enter it in the tables and in the context's fence set, and send it (R151, R152,
R162, R171). A member already signalled unreachable is settled at once (R156, R158). DESIGN CHOICE: a destination enters
the fence set when a packet to it is numbered, so an operation that ends before that does not put it there; and a packet
to a group that has no awaited member, a fence's too, sends nothing and ends ST_OK (notes/assumptions/80.md). -/
def launchOp (r : RemoteReq) (src : OpSource) (c : Context) (d : Dest) (payload : Bytes) (fence : Option Nat)
    (s : State) : State :=
  let members := awaitedMembers s c.polder d
  let gone := members.filter fun m => s.fau.dead.contains m
  let o : OutOp :=
    { id := freeOpId s, req := r, source := src, polder := c.polder, cls := c.cls, dest := d,
      seq := spaceNext s c.polder d, aux := if r.opcode = 6 then signalAux c.id c.polder d s else 0,
      payload := payload, firstTx := none, lastTx := s.time, resends := 0, sentAs := [],
      awaiting := members.filter fun m => !gone.contains m, results := gone.map fun m => (m, .targetDead),
      fence := fence, lookups := [] }
  let s := takeSeq c.polder d s
  let last := if r.opcode = 6 then s.fau.lastNonSignal else assocSet (c.id, d) o.seq s.fau.lastNonSignal
  let sets := if s.fau.fenceSets.contains (c.id, d) then s.fau.fenceSets else s.fau.fenceSets ++ [(c.id, d)]
  let s := { s with fau := { s.fau with ops := s.fau.ops ++ [o], lastNonSignal := last, fenceSets := sets } }
  if o.awaiting.isEmpty then
    finishOp o (groupStatus o.results) (BitVec.ofNat 64 o.results.length) 0 s
  else
    match sendPacket (opPacket o false) s with
    | (none, s) => s
    | (some st, s) => finishOp o st 0 0 (if st = .denied then requestRefused o.req o.polder 0x85 st s else s)

/-- Whether a space has room for one more number (R163): fewer than 1,024 outstanding, and A above the number less
1,024. -/
def spaceOpen (s : State) (p : PolderId) (d : Dest) : Bool :=
  (outstandingSeqs s p d).length < 1024 && (spaceNext s p d - oldestUnanswered s p d).toNat < 1024

/-- Change a pending fence. -/
def modPending (id : Nat) (f : PendingFence → PendingFence) (s : State) : State :=
  { s with fau := { s.fau with fences := alter (fun x => x.id = id) f s.fau.fences } }

/-- Send the packet of a fence to one destination, if there is room for it (R152, R156, R163, R171). -/
def sendFencePacket (id : Nat) (s : State) (d : Dest) : State :=
  match s.fau.fences.find? fun x => x.id = id with
  | none => s
  | some f =>
    match findContext s f.context with
    | none => s
    | some c =>
      let sent := fun (x : PendingFence) => { x with unsent := x.unsent.erase d }
      if !destIsGroup d && s.fau.dead.contains (destId d) then
        let fail := fun (x : PendingFence) => if x.status = .ok then { x with status := .targetDead } else x
        modPending id (fun x => fail (sent x)) s
      else if 4096 ≤ s.fau.ops.length || !spaceOpen s c.polder d then s
      else
        let n := freeOpId s
        let add := fun (x : PendingFence) => { sent x with packets := x.packets ++ [n] }
        launchOp f.req f.source c d [] (some id) (modPending id add s)

/-- The destinations to which a fence's packet waits. -/
def unsentOf (s : State) (id : Nat) : List Dest := s.fau.fences.flatMap fun f => if f.id = id then f.unsent else []

/-- Issue a fence: a packet to each destination it covers, to end when they are answered and the context's earlier
operations in its scope have ended; packets for which there is no room wait, and are counted (R152, R163, R171, R173, R174). -/
def issueFence (r : RemoteReq) (src : OpSource) (c : Context) (s : State) : State :=
  let wide := wideFence r
  let covers := if wide then (s.fau.fenceSets.filter fun x => x.1 = c.id).map (·.2) else [reqDest r]
  let id := s.fau.nextId
  let earlier := (s.fau.ops.filter fun o => o.req.context = c.id && (wide || covers.contains o.dest)).map (·.id)
  let f : PendingFence :=
    { id := id, context := c.id, ctag := r.ctag, source := src, covers := covers, earlier := earlier, packets := [],
      status := .ok, wide := wide, req := r, unsent := covers }
  let s := covers.foldl (sendFencePacket id) { s with fau := { s.fau with fences := s.fau.fences ++ [f], nextId := id + 1 } }
  (unsentOf s id).foldl (fun t _ => count (if 4096 ≤ t.fau.ops.length then 0x008 else 0x009) t) s

/-- Send the packets of fences for which there is room now. -/
def sendUnsent (s : State) : State := s.fau.fences.foldl (fun t f => f.unsent.foldl (sendFencePacket f.id) t) s

/-- Whether a fence of a context is pending: what the context issues then waits (R173). -/
def fencePending (s : State) (c : CtxId) : Bool := s.fau.fences.any fun f => f.context = c

/-- A queue's descriptor has issued an operation: its profiling sets count it (R474). -/
def countIssued (r : RemoteReq) (src : OpSource) (s : State) : State :=
  match src with
  | .desc q _ => profAdd q r.len.toNat 1 s
  | .core => s

/-- Try to issue a request: none when it is issued or ended, or how it waits (R135, R136, R152, R156, R163, R173, R264, R544).
DESIGN CHOICE: of several causes the first in this order stands: the teardown or stop, then 0x82 to 0x85, all before any
wait (notes/assumptions/70.md). -/
def tryIssue (w : FauWait) (s : State) : Option FauWait × State :=
  let r := w.req
  let src := w.source
  match findContext s r.context with
  | none => (none, refuseOp r src 0 0x81 .badParam s)
  | some c =>
    match findPolder s c.polder with
    | none => (none, refuseOp r src 0 0x81 .badParam s)
    | some q =>
      let d := reqDest r
      if q.teardown.isSome || c.state = .destroying || (c.state = .stopped && src = .core) then
        (none, answerOp r.context r.ctag src .squashed 0 0 s)
      else if isFrozen s q.id then (some w, s)
      else if !shapeOk r.opcode r.modifier r.regionKey r.offset r.len.toNat || !mcOk r then
        (none, refuseOp r src q.id 0x82 .badParam s)
      else if !r.mc && !wideFence r && !isMember q r.dst then (none, refuseOp r src q.id 0x83 .denied s)
      else if r.mc && !wideFence r && !joined s r.dst q.id then (none, refuseOp r src q.id 0x84 .denied s)
      else if !isMember q s.boot.instanceId then (none, refuseOp r src q.id 0x85 .denied s)
      else if fencePending s r.context || hungFor s fauUnit (some r.context) then (some w, s)
      else if wideFence r then (none, issueFence r src c (countIssued r src s))
      else if 4096 ≤ s.fau.ops.length || !spaceOpen s q.id d then (some w, s)
      else if !r.mc && s.fau.dead.contains r.dst then (none, answerOp r.context r.ctag src .targetDead 0 0 s)
      else if fenceLike r.opcode r.len.toNat then (none, issueFence r src c (countIssued r src s))
      else
        match localUse c.id q.id r.localAddr.toNat (sourceLen r) false w.reads s with
        | (.fail st, _, s) => (none, answerOp r.context r.ctag src st 0 0 s)
        | (.wait, l, s) => (some { w with reads := l }, s)
        | (.ready, l, s) =>
          match localUse c.id q.id r.localAddr.toNat (sinkLen r) true w.writes s with
          | (.fail st, _, s) => (none, answerOp r.context r.ctag src st 0 0 s)
          | (.wait, l', s) => (some { w with reads := l, writes := l' }, s)
          | (.ready, _, s) =>
            let b := reqPayload r q.id s
            let s := if r.opcode = 6 then s else stackCount q.id r.localAddr.toNat (sourceLen r) false s
            (none, launchOp r src c d b none (count 0x280 (countIssued r src s)))

/-- The fences that are complete: every packet is sent and answered, and every earlier operation in scope has ended
(R173). DESIGN CHOICE: a fence of which a packet has failed ends then too, and not at the failure
(notes/assumptions/80.md). -/
def completeFences (s : State) : State :=
  let done := s.fau.fences.filter fun f => f.earlier.isEmpty && f.packets.isEmpty && f.unsent.isEmpty
  done.foldl (fun t f =>
    let sets := if f.status = .ok then t.fau.fenceSets.filter fun x => !(x.1 = f.context && f.covers.contains x.2)
      else t.fau.fenceSets
    answerOp f.context f.ctag f.source f.status 0 0
      { t with fau := { t.fau with fences := t.fau.fences.filter fun x => x.id ≠ f.id, fenceSets := sets } }) s

/-- What a request waits for now; a wait for an operation to end or for a number is counted when it begins (R152, R163). -/
def noteWait (w : FauWait) (s : State) : FauWait × State :=
  let closed := match findContext s w.req.context with
    | some c => !wideFence w.req && !spaceOpen s c.polder (reqDest w.req)
    | none => false
  let cause : WaitCause :=
    if fencePending s w.req.context || hungFor s fauUnit (some w.req.context) then .fence
    else if 4096 ≤ s.fau.ops.length then .ops
    else if closed then .window
    else .local_
  ({ w with cause := cause },
    if w.cause = cause then s
    else match cause with
      | .ops => count 0x008 s
      | .window => count 0x009 s
      | _ => s)

/-- Try every waiting request once, in order; a context whose request must still wait keeps its later ones waiting. -/
def pumpWaiting (s : State) : State :=
  (s.fau.waiting.foldl (fun (acc : List CtxId × State) x =>
    let keep := fun (w : FauWait) (t : State) =>
      let n := noteWait w t
      (acc.1 ++ [x.req.context], { n.2 with fau := { n.2.fau with waiting := n.2.fau.waiting ++ [n.1] } })
    if acc.1.contains x.req.context then keep x acc.2
    else
      match tryIssue x acc.2 with
      | (none, t) => (acc.1, t)
      | (some w, t) => keep w t) ([], { s with fau := { s.fau with waiting := [] } })).2

/-- Complete fences and issue what waited, until nothing more follows; n bounds the rounds. -/
def settleRounds : Nat → State → State
  | 0, s => s
  | n + 1, s =>
    let s := pumpWaiting (sendUnsent (completeFences s))
    if s.fau.fences.any fun f => f.earlier.isEmpty && f.packets.isEmpty && f.unsent.isEmpty then settleRounds n s else s

/-- Let everything that an ended operation held back proceed. -/
def fauSettle (s : State) : State := settleRounds (s.fau.fences.length + s.fau.waiting.length + 1) s

/-- Take a request from a core or a descriptor (R135, R152, R163). -/
def submitOp (r : RemoteReq) (src : OpSource) (s : State) : State :=
  fauSettle { s with fau := { s.fau with
    waiting := s.fau.waiting ++ [{ req := r, source := src, cause := .new, reads := [], writes := [] }] } }

/-! ### Ending many -/

/-- End the remote operations, fences and waiting requests of the contexts that a test names, with a status (R102, R160,
R366). -/
def endOps (mine : CtxId → Bool) (st : Status) (s : State) : State :=
  let ops := s.fau.ops.filter fun o => mine o.req.context
  let s := ops.foldl (fun t o => finishOp o st 0 0 t) s
  let fences := s.fau.fences.filter fun f => mine f.context
  let s := fences.foldl (fun t f => answerOp f.context f.ctag f.source st 0 0 t)
    { s with fau := { s.fau with fences := s.fau.fences.filter fun f => !mine f.context } }
  let waiting := s.fau.waiting.filter fun x => mine x.req.context
  let s := waiting.foldl (fun t x => answerOp x.req.context x.req.ctag x.source st 0 0 t)
    { s with fau := { s.fau with waiting := s.fau.waiting.filter fun x => !mine x.req.context } }
  { s with fau := { s.fau with
      fenceSets := s.fau.fenceSets.filter fun x => !mine x.1
      lastNonSignal := s.fau.lastNonSignal.filter fun x => !mine x.1.1 } }

/-- End the operations that an unreachable instance leaves, with POLDER_FATAL for each polder that had a load outstanding
to it (R156, R157). -/
def unreachableOps (m : InstId) (s : State) : State :=
  let hit := s.fau.ops.filter fun o => o.awaiting.contains m
  let loads := hit.filter fun o => o.req.opcode = 1 && o.fence.isNone
  let polders := (loads.map (·.polder)).eraseDups
  let s := hit.foldl (fun t o => failTo o m .targetDead t) s
  let s := polders.foldl (fun t p =>
    let mine := loads.filter fun o => o.polder = p
    match mine with
    | [] => t
    | o :: _ =>
      writeFault .fauLoadTargetDead
        { unit := fauUnit, status := statusCode .targetDead, polder := p, context := some o.req.context, peer := some m,
          count := mine.length, detail := leBytes 4 o.seq.toNat } t) s
  fauSettle s

/-! ### Answers (R153, R534) -/

/-- The outstanding operation that a completion answers: by its ctag, its number, its polder and its sender. -/
def answeredOp (s : State) (rel : Released) : Option OutOp :=
  s.fau.ops.find? fun o => o.id = rel.inner.ctag.toNat && o.seq = rel.inner.seq && o.polder = rel.polder
    && o.awaiting.contains rel.src && o.firstTx.isSome

/-- The bytes of data that an ST_OK answer to an operation carries (R534). -/
def answerBytes (o : OutOp) : Nat :=
  match o.req.opcode.toNat with
  | 1 => o.req.len.toNat
  | 3 => atomicWidth o.req.modifier
  | _ => 0

/-- A malformed answer: a FAU_REFUSED record, and the operation's end (R534). -/
def malformedAnswer (o : OutOp) (m : InstId) (s : State) : State :=
  let s := writeFault .fauRefused
    { unit := fauUnit, status := statusCode .badParam, polder := o.polder, context := some o.req.context, peer := some m,
      detail := [0x86, o.req.opcode] ++ leBytes 2 (o.req.regionKey.toNat / 262144) } s
  if o.req.opcode = 3 then finishOp o .outcomeUnknown 0 0 (outcomeUnknown o s) else failTo o m .badParam s

/-- Apply an answer to its operation; false when its local write must wait, with what its sink was found to be (R136, R183,
R534). -/
def applyAnswer (o : OutOp) (rel : Released) (s : State) : Bool × State :=
  let flags := rel.inner.aux.extractLsb' 8 6
  match statusOf (rel.inner.aux.extractLsb' 0 8).toNat with
  | none => (true, malformedAnswer o rel.src s)
  | some .ok =>
    if rel.payload.length ≠ answerBytes o then (true, malformedAnswer o rel.src s)
    else if destIsGroup o.dest then (true, settleMember o rel.src .ok s)
    else if answerBytes o = 0 then (true, finishOp o .ok 0 flags s)
    else
      let old := if o.req.opcode = 3 then BitVec.ofNat 64 (leNat rel.payload) else 0
      match localUse o.req.context o.polder o.req.localAddr.toNat rel.payload.length true o.lookups s with
      | (.wait, l, s) =>
        (false, { s with fau := { s.fau with ops := alter (fun x => x.id = o.id) (fun x => { x with lookups := l }) s.fau.ops } })
      | (.fail st, _, s) =>
        if o.req.opcode = 3 then (true, finishOp o .outcomeUnknown 0 0 (outcomeUnknown o s))
        else (true, finishOp o st 0 0 s)
      | (.ready, _, s) =>
        let s := stackWrite (polderStackKey s o.polder) o.req.localAddr.toNat rel.payload s
        let s := stackCount o.polder o.req.localAddr.toNat rel.payload.length true s
        (true, finishOp o .ok old flags s)
  | some st => (true, failTo o rel.src st s)

/-- The first released packet of an opcode and kind. -/
def nextReleased (s : State) (op : BitVec 8) (kind : BitVec 2) : Option Released :=
  s.link.inbox.find? fun r => r.inner.opcode = op && r.kind = kind

/-- Take a released packet out of the inbox. -/
def dropReleased (r : Released) (s : State) : State :=
  { s with link := { s.link with inbox := s.link.inbox.erase r } }

/-- Whether a released packet is a completion. -/
def isCompletion (r : Released) : Bool := r.inner.opcode = 0x08 && r.kind = 1

/-- Whether a completion waits to write its data (R136). -/
def answerWaits (s : State) (r : Released) : Bool :=
  match answeredOp s r with
  | some o => !o.lookups.isEmpty
  | none => false

/-- A completion reaches the FAU (R153, R534). An answer that matches nothing is counted and discarded. -/
def serveCompletion (s : State) (rel : Released) : State :=
  match answeredOp s rel with
  | none => count 0x00E (dropReleased rel s)
  | some o =>
    match applyAnswer o rel s with
    | (true, t) => fauSettle (dropReleased rel t)
    | (false, t) => t

/-- Try the answers that wait to write their data again (R136). -/
def retryAnswers (s : State) : State :=
  (s.link.inbox.filter fun r => isCompletion r && answerWaits s r).foldl serveCompletion s

/-- The members that an operation awaits and whose answer has not come (R154). -/
def silent (s : State) (o : OutOp) : List InstId :=
  o.awaiting.filter fun m => !s.link.inbox.any fun r =>
    isCompletion r && r.inner.ctag.toNat = o.id && r.inner.seq = o.seq && r.polder = o.polder && r.src = m

/-- Give an operation up (R154, R183): an atomic's outcome is not known, any other operation has timed out; of a multicast
operation the members without an answer have. -/
def giveUp (o : OutOp) (s : State) : State :=
  if o.req.opcode = 3 then finishOp o .outcomeUnknown 0 0 (outcomeUnknown o s)
  else
    let s := writeFault .fauTimeout
      { unit := fauUnit, status := statusCode .timeout, polder := o.polder, context := some o.req.context,
        peer := if destIsGroup o.dest then none else some (destId o.dest),
        detail := [o.req.opcode] ++ leBytes 4 o.seq.toNat ++ leBytes 2 o.dest.toNat } s
    if destIsGroup o.dest then
      let lost := silent s o
      let o : OutOp := { o with
        awaiting := o.awaiting.filter fun m => !lost.contains m
        results := o.results ++ lost.map fun m => (m, .timeout) }
      if o.awaiting.isEmpty then
        finishOp o (groupStatus o.results) (BitVec.ofNat 64 (o.results.filter fun x => x.2 ≠ .ok).length) 0 s
      else { s with fau := { s.fau with ops := alter (fun x => x.id = o.id) (fun _ => o) s.fau.ops } }
    else finishOp o .timeout 0 0 s

/-- Re-send an operation, at most three times (R154). Once this instance is not admitted any more, the operation ends in
place of its next re-send (R537). DESIGN CHOICE: a re-send that meets an ended stream writes that stream's record, as
every send does, and leaves the operation to its answer or to R154 (notes/assumptions/69.md). -/
def resendNow (o : OutOp) (s : State) : State :=
  if o.firstTx.isSome && o.resends < 3 && !(silent s o).isEmpty && !(s.link.txWait.any fun k => k.owner = .op o.id) then
    if !admitted s o.polder then giveUp o s
    else
      let again := fun (x : OutOp) => { x with resends := x.resends + 1, lastTx := s.time }
      (sendPacket (opPacket o true)
        { s with fau := { s.fau with ops := alter (fun x => x.id = o.id) again s.fau.ops } }).2
  else s

/-- Re-send an operation 250 µs after its last transmission (R154). -/
def resendOp (o : OutOp) (s : State) : State := if o.lastTx + 250000 ≤ s.time then resendNow o s else s

/-- Whether an operation is to be given up: 1 ms after the first transmission, with three re-sends unanswered (R154). -/
def opExpired (o : OutOp) (s : State) : Bool :=
  match o.firstTx with
  | some t => 3 ≤ o.resends && t + 1000000 ≤ s.time && !(silent s o).isEmpty
  | none => false

/-- The operation that a link notice matches: by stream, epoch and counter, and the sender among those it awaits (R57, R155).
DESIGN CHOICE: of operations to several groups that match, the first in the table; and a notice that names the packet of a
ring request matches nothing and is counted (notes/assumptions/69.md). -/
def noticedOp (s : State) (h : Header) : Option OutOp :=
  s.fau.ops.find? fun o => o.polder = h.polder && o.sentAs.contains (h.sid, h.epoch, h.counter)
    && o.awaiting.contains h.src

/-- A link notice reaches its slice (R57, R155). -/
def arriveNotice (port : BitVec 8) (packet : Bytes) (s : State) : State :=
  let h := parseHeader packet
  if !linkServes s then s
  else if !noticePasses packet h s then countPort true port s
  else
    match noticedOp s h with
    | none => count 0x00F s
    | some o => fauSettle (failTo o h.src .polderGone s)

/-- The FAU's domain: partition 0 stands for all (notes/assumptions/71.md). -/
def fauDomain : DomainId := ⟨.fau, 0⟩

end Sys2Proof.Machine
end

