-- ==== Sys2Proof/Machine/Weirs.lean ====
section
/-! DEFINITION. The Weirs: ratings, scale, queue levels, missed guarantees and their mirror in the Tracer (R408 to R412,
R506). The sharing of bandwidth itself is timing (notes/assumptions/63). -/

namespace Sys2Proof.Machine

/-- Change a Weir. -/
def modWeir (w : BitVec 8) (f : Weir → Weir) (s : State) : State :=
  { s with weirs := upsert (fun x => x.id = w) (f (getWeir s w)) s.weirs }

/-- The rating of a Weir in GB/s, 0 where the role lacks it (R408). -/
def weirRating (r : Role) (w : BitVec 8) : Nat :=
  match r with
  | .e => if w.toNat < 8 then 1600 else if w = 8 then 3584 else 0
  | .s => if w.toNat < 4 then 3072 else 0
  | .t => if w.toNat < 8 then 512 else if w = 8 then 3584 else 0

/-- Whether the role has a Weir. -/
def hasWeir (s : State) (w : BitVec 8) : Bool := weirRating s.boot.role w ≠ 0

/-- The rebuild share in permille: that of a parity-group Weir whose group rebuilds (R130, R410). -/
def rebuildShare (s : State) (w : BitVec 8) : Nat :=
  if s.boot.role = .t && s.tray.groups.any fun x => x.1 = w.toNat && x.2.state = .rebuilding
  then 10 * s.tray.rebuildRate else 0

/-- The scale of a Weir in permille (R410). -/
def weirScale (s : State) (w : BitVec 8) : Nat := (getWeir s w).capacity * (1000 - rebuildShare s w) / 1000

/-- A Weir mirrors its status into the Tracer (R506). -/
def mirrorWeir (w : BitVec 8) (s : State) : State :=
  let scale := weirScale s w
  modWeir w (fun x => { x with mirrorScale := scale, mirrorLevel := x.level, mirrored := x.misses }) s

/-- Every Weir whose scale differs from what it mirrored mirrors again (R506). -/
def mirrorChanged (s : State) : State :=
  [0, 1, 2, 3, 4, 5, 6, 7, 8].foldl (fun t (w : BitVec 8) =>
    if hasWeir t w && weirScale t w ≠ (getWeir t w).mirrorScale then mirrorWeir w t else t) s

/-- The unit number of a Weir (R432). -/
def weirUnit (w : BitVec 8) : BitVec 16 := BitVec.ofNat 16 (0x1300 + w.toNat)

/-- A reported level and capacity (R411). -/
def takeLevel (w : BitVec 8) (level : BitVec 4) (capacity : Nat) (s : State) : State :=
  let old := (getWeir s w).level
  let limited : Bool :=
    if 12 ≤ level.toNat then true else if level.toNat ≤ 8 then false else (getWeir s w).limited
  let s := modWeir w (fun x => { x with level := level, capacity := min 1000 capacity, limited := limited }) s
  let s := mirrorChanged s
  if level = old then s
  else
    let s := if level = 15 then count (0x2C4 + w.toNat) s else s
    emitTrace 6 0x0601 (weirUnit w) 0 none [w, BitVec.ofNat 8 level.toNat] s

/-- The bytes that a class's configured rate admits in 100 µs. -/
def configuredBytes (s : State) (w : BitVec 8) (c : Nat) : Nat :=
  (getWeir s w).minima.getD c 0 * weirRating s.boot.role w * 100

/-- One class misses its guarantee: counted, with at most one record in any 10 ms (R412). -/
def missGuarantee (w : BitVec 8) (c admitted : Nat) (s : State) : State :=
  let s := modWeir w (fun x => { x with misses := x.misses.modify c satInc }) s
  let x := getWeir s w
  let recent := match x.recordAt.lookup c with
    | some t => decide (s.time < t + 10000000)
    | none => false
  if recent then modWeir w (fun x => { x with folded := x.folded.modify c satInc }) s
  else
    let n := (x.folded.getD c 0).toNat
    let s := modWeir w (fun x => { x with recordAt := assocSet c s.time x.recordAt, folded := x.folded.set c 0 }) s
    writeFault .weirMiss
      { unit := weirUnit w, count := n,
        detail := [w, BitVec.ofNat 8 c] ++ leBytes 4 (configuredBytes s w c / 100) ++ leBytes 4 (admitted / 100) } s

/-! ### Meanings -/

/-- WEIR_INTERVAL (R412): the end of a 100 µs interval; bit c of backlogged says that class c was backlogged throughout it,
and admitted gives the bytes admitted by class. -/
def execWeirInterval (weir : BitVec 8) (backlogged : BitVec 16) (admitted : List Nat) (s : State) :
    Host.Outcome State Fault Refusal :=
  .next <|
    if running s && hasWeir s weir then
      (List.range 16).foldl (fun t c =>
        let got := admitted.getD c 0
        if backlogged.getLsbD c && got * 100 < 98 * configuredBytes t weir c then missGuarantee weir c got t else t) s
    else s

/-- WEIR_STATUS_MIRROR (R506). -/
def execWeirStatusMirror (weir : BitVec 8) (s : State) : Host.Outcome State Fault Refusal :=
  .next <| if running s && hasWeir s weir then mirrorWeir weir s else s

/-- WEIR_STATUS; bad says that its frame is malformed. -/
def weirStatusCmd (bad : Bool) (o : Origin) (tag : BitVec 32) (weir : BitVec 8) (s : State) : State :=
  runCmd { opcode := 0x0A02, pf := true, sbp := true } o tag false bad
    (fun s => firstFail [(!hasWeir s weir, .badParam)])
    (fun s => reply o tag 0x0A02 .ok
      (leBytes 4 (weirRating s.boot.role weir) ++ leBytes 2 (weirScale s weir) ++ zeros 2
        ++ (padTo 64 ((getWeir s weir).misses.flatMap fun v => leBytes 4 v.toNat))) s) s

/-- WEIR_STATUS (R408, R410, R412). -/
def execWeirStatus (o : Origin) (tag : BitVec 32) (weir : BitVec 8) (s : State) : Host.Outcome State Fault Refusal :=
  .next (weirStatusCmd false o tag weir s)

end Sys2Proof.Machine
end

