-- ==== Sys2Proof/Machine/Tray.lean ====
section
/-! DEFINITION. Tray memory: devices, parity and the Levee, the counter tree and its cache, and the parcel accesses of the
PIE (chapter 5, R521, R543). -/

namespace Sys2Proof.Machine

/-! ### Places (R105 to R107) -/

/-- Rows of a parity group (R106). -/
def trayRows : Nat := 402653184

/-- The start of the metadata area: 5,898 GiB (R107). -/
def metaBase : Nat := 5898 * 1073741824

/-- Bytes of a device: 96 GiB (R106). -/
def deviceBytes : Nat := 96 * 1073741824

/-- The metadata address of a page-record block (level 0), tree node (levels 1 to 5) or tag block (level 6) of a location;
the nodes of levels 1 to 5 follow one another in that order (R107; the order is a DESIGN CHOICE, notes/assumptions/22). -/
def blockAddr (location level index : Nat) : Nat :=
  let mib := 1048576
  match level with
  | 0 => metaBase + 188736 * mib + location * 8 * mib + 64 * index
  | 6 => metaBase + location * 32 * mib + 64 * index
  | l =>
    let before := match l with
      | 1 => 0 | 2 => 16384 | 3 => 18432 | 4 => 18688 | _ => 18720
    metaBase + 235920 * mib + location * 2 * mib + 64 * (before + index)

/-- The device-space address of a parcel of a location (R107, R110). -/
def parcelAddr (location q : Nat) : Nat := location * 1073741824 + 256 * q

/-- The parity group of a device-space address (R106). -/
def groupOf (a : Nat) : Nat := a / 2048 % 8

/-- The row of a device-space address (R106). -/
def rowOf (a : Nat) : Nat := a / 2048 / 8

/-- The data member, 0 to 7, of a device-space address (R106). -/
def memberOf (a : Nat) : Nat := a / 256 % 8

/-- The device number of member k of a group, 8 being its parity (R105). -/
def memberDevice (g k : Nat) : Nat := if k < 8 then 8 * g + k else 64 + g

/-! ### The devices and their parity (R126 to R132) -/

/-- A parity group at rest. -/
def ParityGroup.normal : ParityGroup :=
  { state := .normal, dead := none, spare := none, watermark := 0, others := [], lostFrom := trayRows }

/-- A parity group. -/
def getGroup (s : State) (g : Nat) : ParityGroup := assocGet g .normal s.tray.groups

/-- Replace a parity group; its Weir mirrors a scale that this changes (R410, R506). -/
def setGroup (g : Nat) (x : ParityGroup) (s : State) : State :=
  mirrorChanged { s with tray := { s.tray with groups := assocSet g x s.tray.groups } }

/-- The device in a member's place, unless it is dead and has none. -/
def liveDevice (s : State) (g k : Nat) : Option Nat :=
  let x := getGroup s g
  if x.dead = some k then x.spare
  else if x.others.contains k then none
  else some (assocGet (memberDevice g k) (memberDevice g k) s.tray.remap)

/-- The device that takes writes of a member's share of a row, if one does (R127, R129, R132). -/
def placeDevice (s : State) (g k row : Nat) : Option Nat :=
  if (getGroup s g).dead = some k && (getGroup s g).watermark ≤ row then none else liveDevice s g k

/-- The device from which a member's share of a row can be read (R127 to R129, R132). -/
def shareDevice (s : State) (g k row : Nat) : Option Nat :=
  match placeDevice s g k row with
  | some d => if s.tray.badRows.contains (d, row) then none else some d
  | none => none

/-- The place of a byte of a device in the device memory. -/
def deviceCell (device offset : Nat) : Nat := device * 1099511627776 + offset

/-- The 256 bytes that a device holds at a row. -/
def rawRead (s : State) (device row : Nat) : Bytes := memReadN 0 s.tray.devices (deviceCell device (256 * row)) 256

/-- Store 256 bytes at a row of a device, which can then be read. -/
def rawWrite (device row : Nat) (b : Bytes) (s : State) : State :=
  { s with tray := { s.tray with
      devices := memWriteN 0 s.tray.devices (deviceCell device (256 * row)) b
      badRows := s.tray.badRows.filter (· ≠ (device, row)) } }

/-- Whether a row of a group is lost (R132). -/
def rowLost (s : State) (g row : Nat) : Bool :=
  decide ((getGroup s g).lostFrom ≤ row) || 1 < ((List.range 9).filter fun k => (shareDevice s g k row).isNone).length

/-- A member's share of a row: from its device, or the exclusive or of the others; none when the row is lost (R128).
DESIGN CHOICE: of a stripe that R132 calls lost, a share on a device that is live is still read from it: step 6 of R117
asks only whether the parcel can be read or reconstructed (notes/assumptions/73.md). -/
def shareRead (s : State) (g k row : Nat) : Option Bytes :=
  match shareDevice s g k row with
  | some d => some (rawRead s d row)
  | none =>
    if rowLost s g row then none
    else
      some (((List.range 9).filter (· ≠ k)).foldl (fun acc m =>
        match shareDevice s g m row with
        | some d => xorBytes acc (rawRead s d row)
        | none => acc) (zeros 256))

/-- Write a member's share, and the new parity old parity ⊕ old ⊕ new (R126, R129). DESIGN CHOICE: an old share or an
old parity that can be neither read nor reconstructed counts as zeros, which R126 leaves open (notes/assumptions/73.md).
-/
def shareWrite (g k row : Nat) (b : Bytes) (s : State) : State :=
  let old := (shareRead s g k row).getD (zeros 256)
  let par := (shareRead s g 8 row).getD (zeros 256)
  let s := match placeDevice s g k row with | some d => rawWrite d row b s | none => s
  match placeDevice s g 8 row with
  | some d => rawWrite d row (xorBytes par (xorBytes old b)) s
  | none => s

/-- Write a whole stripe: eight shares and the parity of the new data alone (R126). -/
def stripeWrite (g row : Nat) (bs : List Bytes) (s : State) : State :=
  let s := (bs.zipIdx).foldl (fun t p =>
    match placeDevice t g p.2 row with | some d => rawWrite d row p.1 t | none => t) s
  match placeDevice s g 8 row with
  | some d => rawWrite d row (bs.foldl xorBytes (zeros 256)) s
  | none => s

/-- The unit number of a parity group (R432). -/
def leveeUnit (g : Nat) : BitVec 16 := BitVec.ofNat 16 (0x0700 + g)

/-- Take a free spare for a dead member and start its rebuild, or leave the group degraded (R129). -/
def startRebuild (g k device : Nat) (s : State) : State :=
  match s.tray.spares with
  | sp :: rest =>
    let s := setGroup g { (getGroup s g) with state := .rebuilding, dead := some k, spare := some sp, watermark := 0 }
      { s with tray := { s.tray with spares := rest } }
    let s := writeFault .trayDeviceDead
      { unit := leveeUnit g, detail := [BitVec.ofNat 8 g, BitVec.ofNat 8 device, BitVec.ofNat 8 sp] } s
    writeFault .trayRebuildStart
      { unit := leveeUnit g, detail := [BitVec.ofNat 8 g, BitVec.ofNat 8 device, BitVec.ofNat 8 sp] } s
  | [] =>
    let s := setGroup g { (getGroup s g) with state := .degraded, dead := some k, spare := none, watermark := 0 } s
    writeFault .trayDeviceDead
      { unit := leveeUnit g, detail := [BitVec.ofNat 8 g, BitVec.ofNat 8 device, 0xFF] } s

/-- A further member of a group dies: the rows not yet rebuilt are lost, or with a third death all (R132). -/
def failGroup (g k device : Nat) (s : State) : State :=
  let x := getGroup s g
  let first := match x.dead with | some m => assocGet (memberDevice g m) (memberDevice g m) s.tray.remap | none => 0
  let again := decide (x.state = .failed)
  let lost := if again then 0 else x.watermark
  let s := setGroup g { x with state := .failed, others := x.others ++ [k], lostFrom := min x.lostFrom lost } s
  let s := writeFault .trayDeviceDead
    { unit := leveeUnit g, detail := [BitVec.ofNat 8 g, BitVec.ofNat 8 device, 0xFF] } s
  if again then s
  else writeFault .trayGroupFailed
    { unit := leveeUnit g,
      detail := [BitVec.ofNat 8 g, BitVec.ofNat 8 first, BitVec.ofNat 8 device] ++ leBytes 4 lost } s

/-- The group and member in whose place a live device stands. -/
def servesMember (s : State) (device : Nat) : Option (Nat × Nat) :=
  (List.range 72).findSome? fun n =>
    let g := if n < 64 then n / 8 else n - 64
    let k := if n < 64 then n % 8 else 8
    if liveDevice s g k = some device then some (g, k) else none

/-- A device is dead (R127, R131). A spare in use leaves its group without it. -/
def deviceDead (device : Nat) (s : State) : State :=
  if s.tray.dead.contains device then s
  else
    let at_ := servesMember s device
    let s := { s with tray := { s.tray with
      dead := s.tray.dead ++ [device], spares := s.tray.spares.filter (· ≠ device)
      badRows := s.tray.badRows.filter fun x => x.1 ≠ device } }
    match at_ with
    | some (g, k) =>
      let x := getGroup s g
      if x.dead = some k then
        if x.state = .rebuilding then startRebuild g k device s
        else
          writeFault .trayDeviceDead
            { unit := leveeUnit g, detail := [BitVec.ofNat 8 g, BitVec.ofNat 8 device, 0xFF] }
            (setGroup g { x with spare := none, lostFrom := 0 } s)
      else if x.state = .normal then startRebuild g k device s
      else failGroup g k device s
    | none =>
      writeFault .trayDeviceDead
        { unit := leveeUnit 0, detail := [0xFF, BitVec.ofNat 8 device, 0xFF] } s

/-! ### What the devices hold of the metadata (R107, R126, R128) -/

/-- The difference between the bytes that can be read at a metadata address, within one share, and what the block wrote there;
none when they can be neither read nor reconstructed (R128, R132). -/
def deltaAt (s : State) (a len : Nat) : Option Bytes :=
  (shareRead s (groupOf a) (memberOf a) (rowOf a)).map fun b => slice b (a % 256) len

/-- Give the bytes at a metadata address, within one share, a difference, keeping the parity (R126). DESIGN CHOICE: of a
share that can be neither read nor reconstructed the bytes beside those written come back as the block last wrote them,
which R126 leaves open (notes/assumptions/73.md). -/
def writeDelta (a : Nat) (d : Bytes) (s : State) : State :=
  let old := (shareRead s (groupOf a) (memberOf a) (rowOf a)).getD (zeros 256)
  let new := old.take (a % 256) ++ d ++ old.drop (a % 256 + d.length)
  if new = old && (shareDevice s (groupOf a) (memberOf a) (rowOf a)).isSome then s
  else shareWrite (groupOf a) (memberOf a) (rowOf a) new s

/-- A whole part of the metadata area is written, so that its devices hold what the block wrote. -/
def eraseDeltas (a n : Nat) (s : State) : State :=
  let inside := fun (row : Nat) => decide (a / 16384 ≤ row) && decide (row < (a + n) / 16384)
  { s with tray := { s.tray with
      devices := s.tray.devices.filter fun c => !inside (c.1 % 1099511627776 / 256)
      badRows := s.tray.badRows.filter fun x => !inside x.2 } }

/-! ### The counter tree and its cache (R112 to R116, R124) -/

/-- Kenc, the data key of an extent: bytes 0 to 31 (R109). -/
def kenc (k : Key512) : Key256 := k.extractLsb' 256 256

/-- Kmac, the authentication key: bytes 32 to 63 (R109). -/
def kmac (k : Key512) : Key256 := k.extractLsb' 0 256

/-- The extent key (R109). -/
def extentKey (tray : Key256) (p : PolderId) (conf : Bool) (inst : InstId) (nonce : BitVec 64) : Key512 :=
  ofBytes 512 (kdf tray (ascii "BR2 TRAY EXTENT")
    (beBytes 2 p.toNat ++ [confCode conf] ++ beBytes 2 inst.toNat ++ beBytes 8 nonce.toNat) 512)

/-- The MAC of a block (R113). -/
def blockMac (k : Key256) (level index : Nat) (x : BitVec 512) : BitVec 64 :=
  let m := keyBytes (Config.cmac k ([3, BitVec.ofNat 8 level] ++ beBytes 4 index ++ zeros 10 ++ leBytes 64 x.toNat))
  BitVec.ofNat 64 (leNat (m.take 8))

/-- The page record of a page that no one has written (R115). -/
def freshRecord : BitVec 256 := BitVec.ofNat 256 (2 ^ 248)

/-- A block as R115 initialises it; tag blocks read as zeros. -/
def initBlock (k : Key256) : Nat → Nat → BitVec 512
  | 0, _ => BitVec.ofNat 512 (freshRecord.toNat + freshRecord.toNat * 2 ^ 256)
  | l + 1, n =>
    if l = 5 then 0
    else
      BitVec.ofNat 512 (leNat ((List.range 8).flatMap fun c =>
        leBytes 8 (blockMac k l (8 * n + c) (initBlock k l (8 * n + c))).toNat))

/-- Whether a block is this one. -/
def isBlock (location level index : Nat) (b : TreeBlock) : Bool :=
  b.location = location && b.level = level && b.index = index

/-- A block of a location, as initialised when it is not listed. -/
def getBlock (s : State) (k : Key256) (location level index : Nat) : TreeBlock :=
  (s.tray.blocks.find? (isBlock location level index)).getD
    { location := location, level := level, index := index, device := initBlock k level index }

/-- Replace a block. -/
def setBlock (b : TreeBlock) (s : State) : State :=
  { s with tray := { s.tray with blocks := upsert (isBlock b.location b.level b.index) b s.tray.blocks } }

/-- Where the root of level-5 node n of a location of an extent stands: its own location's at 0 to 3, a rekey's at 4 to
7. -/
def rootPlace (e : Extent) (location n : Nat) : Nat := if e.location = location then n else n + 4

/-- Change an extent. -/
def modExtent (id : BitVec 13) (f : Extent → Extent) (s : State) : State :=
  { s with tray := { s.tray with extents := alter (fun x => x.id = id) f s.tray.extents } }

/-- An entry of the extent root table. -/
def findExtent (s : State) (id : BitVec 13) : Option Extent := s.tray.extents.find? fun x => x.id = id

/-- The root MAC over a level-5 node of a location of an extent, as the extent root table now has it (R113). -/
def rootMac (s : State) (e : Extent) (location : Nat) (k : Key256) (n : Nat) : BitVec 64 :=
  assocGet (rootPlace ((findExtent s e.id).getD e) location n) (blockMac k 5 n (initBlock k 5 n))
    ((findExtent s e.id).getD e).roots

/-- A block as the devices return it (R128). -/
def storedBlock (s : State) (k : Key256) (location level index : Nat) : Option (BitVec 512) :=
  (deltaAt s (blockAddr location level index) 64).map fun d =>
    (getBlock s k location level index).device ^^^ BitVec.ofNat 512 (leNat d)

/-- The extent whose keyed location this is, its own or its rekey's, and the key there. -/
def locOwner (s : State) (location : Nat) : Option (Extent × Key512) :=
  s.tray.extents.findSome? fun e =>
    match e.key, e.rekey with
    | some k, some r =>
      if e.location = location then some (e, k)
      else if r.location = location then r.key.map fun x => (e, x)
      else none
    | some k, none => if e.location = location then some (e, k) else none
    | none, _ => none

/-- Whether an entry of the CTC is of a block. -/
def isEntry (location level index : Nat) (x : CtcEntry) : Bool :=
  x.location = location && x.level = level && x.index = index

/-- The CTC's entry of a block. -/
def ctcEntry (s : State) (location level index : Nat) : Option CtcEntry := s.tray.ctc.find? (isEntry location level index)

/-- Change the CTC. -/
def modCtc (f : List CtcEntry → List CtcEntry) (s : State) : State := { s with tray := { s.tray with ctc := f s.tray.ctc } }

/-- Put a block into the CTC as its most recent entry. One that it did not hold takes the present hint of its extent, and a tag
block of a COLD extent the least-recent position (R124, R125). -/
def putCtc (location level index : Nat) (x : BitVec 512) (dirty : Bool) (s : State) : State :=
  let rest := fun (l : List CtcEntry) => l.filter fun y => !isEntry location level index y
  match ctcEntry s location level index with
  | some y => modCtc (fun l => rest l ++ [{ y with value := x, dirty := y.dirty || dirty }]) s
  | none =>
    let hint : BitVec 2 := match locOwner s location with | some (e, _) => e.hint | none => 2
    let y : CtcEntry := { location := location, level := level, index := index, value := x, dirty := dirty, hint := hint }
    modCtc (fun l => if hint = 2 && level = 6 then y :: l else l ++ [y]) s

/-- Fetch a block through the CTC and verify it against its parent, up to the first ancestor held or the root; the failure
names the block that does not verify (R116). n bounds the levels. -/
def fetchBlock (e : Extent) (location : Nat) (k : Key256) : Nat → Nat → Nat → State → Except (Nat × Nat) (BitVec 512) × State
  | 0, level, index, s => (.error (level, index), s)
  | n + 1, level, index, s =>
    match ctcEntry s location level index with
    | some x => (.ok x.value, putCtc location level index x.value false (count 0x240 s))
    | none =>
      let s := count 0x241 s
      match storedBlock s k location level index with
      | none => (.error (level, index), s)
      | some x =>
        let above : Except (Nat × Nat) (BitVec 64) × State :=
          if level = 5 then (.ok (rootMac s e location k index), s)
          else
            match fetchBlock e location k n (level + 1) (index / 8) s with
            | (.ok x, s) => (.ok (x.extractLsb' (64 * (index % 8)) 64), s)
            | (.error f, s) => (.error f, s)
        match above with
        | (.error f, s) => (.error f, s)
        | (.ok mac, s) =>
          let s := count 0x242 s
          if blockMac k level index x = mac then (.ok x, putCtc location level index x false s)
          else (.error (level, index), s)

/-- A block that is written to the devices has its parent's MAC recomputed (R124). -/
def updateParent (x : CtcEntry) (s : State) : State :=
  if x.level = 6 then s
  else
    match locOwner s x.location with
    | none => s
    | some (e, key) =>
      let mac := blockMac (kmac key) x.level x.index x.value
      if x.level = 5 then
        modExtent e.id (fun e => { e with roots := assocSet (rootPlace e x.location x.index) mac e.roots }) s
      else
        match fetchBlock e x.location (kmac key) 6 (x.level + 1) (x.index / 8) s with
        | (.error _, s) => s
        | (.ok y, s) =>
          let lo := 64 * (x.index % 8)
          let y := (y &&& ~~~ (BitVec.ofNat 512 ((2 ^ 64 - 1) * 2 ^ lo))) ||| BitVec.ofNat 512 (mac.toNat * 2 ^ lo)
          putCtc x.location (x.level + 1) (x.index / 8) y true s

/-- What the devices hold of an entry's block once it is written. -/
def writtenBlock (x : CtcEntry) (s : State) : State :=
  setBlock { location := x.location, level := x.level, index := x.index, device := x.value } s

/-- The 32 dirty entries, the given one among them, that fill its stripe of the tags or of the page records (R124). -/
def stripeMates (x : CtcEntry) (s : State) : Option (List CtcEntry) :=
  if x.level ≠ 0 && x.level ≠ 6 then none
  else
    let mates := (List.range 32).filterMap fun i =>
      if 32 * (x.index / 32) + i = x.index then some x
      else match ctcEntry s x.location x.level (32 * (x.index / 32) + i) with
        | some y => if y.dirty then some y else none
        | none => none
    if mates.length = 32 then some mates else none

/-- Evict an entry of the CTC: it is written back if it is dirty, with its stripe in one when all of that is dirty (R124,
R126). -/
def evictCtc (x : CtcEntry) (s : State) : State :=
  let a := blockAddr x.location x.level x.index
  let out := fun (l : List CtcEntry) => l.filter fun y => !isEntry x.location x.level x.index y
  if !x.dirty then modCtc out s
  else
    match stripeMates x s with
    | some mates =>
      let s := mates.foldl (fun t y => writtenBlock y t) s
      let s := stripeWrite (groupOf a) (rowOf a) (List.replicate 8 (zeros 256)) s
      let clean := fun (y : CtcEntry) => { y with dirty := y.dirty && !mates.contains y }
      mates.foldl (fun t y => updateParent y t) (modCtc (fun l => (out l).map clean) s)
    | none => updateParent x (writeDelta a (zeros 64) (writtenBlock x (modCtc out s)))

/-- Evict entries until the CTC is within its 262,144 of 64 B: COLD first, HOT last, and of one class the entry used longest
ago, which R124 and R125 leave open (DESIGN CHOICE, notes/assumptions/73.md); n bounds them. -/
def trimRounds : Nat → State → State
  | 0, s => s
  | n + 1, s =>
    if s.tray.ctc.length ≤ 262144 then s
    else
      match [2, 1, 3, 0].findSome? fun h => s.tray.ctc.find? fun x => x.hint.toNat = h with
      | some x => trimRounds n (evictCtc x s)
      | none => s

/-- Keep the CTC within its 16 MiB (R124). -/
def trimCtc (s : State) : State := trimRounds s.tray.ctc.length s

/-! ### Page records (R112) -/

/-- The record of a page in its block. -/
def pageRecord (x : BitVec 512) (page : Nat) : BitVec 256 := x.extractLsb' (256 * (page % 2)) 256

/-- A record block with the record of a page replaced. -/
def putRecord (x : BitVec 512) (page : Nat) (r : BitVec 256) : BitVec 512 :=
  let lo := 256 * (page % 2)
  (x &&& ~~~ (BitVec.ofNat 512 ((2 ^ 256 - 1) * 2 ^ lo))) ||| BitVec.ofNat 512 (r.toNat * 2 ^ lo)

/-- The major counter of a record. -/
def recMajor (r : BitVec 256) : Nat := (r.extractLsb' 0 56).toNat

/-- The minor counter of parcel k of a record. -/
def recMinor (r : BitVec 256) (k : Nat) : Nat := (r.extractLsb' (56 + 12 * k) 12).toNat

/-- Bit [248]. -/
def recFresh (r : BitVec 256) : Bool := r.getLsbD 248

/-- Bit [249]. -/
def recFrozen (r : BitVec 256) : Bool := r.getLsbD 249

/-- A record with a major counter, sixteen zero minor counters, and neither flag. -/
def rolledRecord (major : Nat) : BitVec 256 := BitVec.ofNat 256 major

/-- A record with the minor counter of one parcel replaced. -/
def withMinor (r : BitVec 256) (k minor : Nat) : BitVec 256 :=
  (r &&& ~~~ (BitVec.ofNat 256 (4095 * 2 ^ (56 + 12 * k)))) ||| BitVec.ofNat 256 (minor * 2 ^ (56 + 12 * k))

/-! ### The parcel cipher (R110, R111) -/

/-- The counter block CB (R110). -/
def counterBlock (domain : Byte) (major minor q : Nat) (j : Byte) : BitVec 128 :=
  ofBytes 128 ([domain] ++ beBytes 7 major ++ beBytes 2 minor ++ beBytes 3 q ++ zeros 2 ++ [j])

/-- Encrypt or decrypt a parcel (R110). -/
def parcelCrypt (key : Key512) (major minor q : Nat) (b : Bytes) : Bytes :=
  (List.range 16).flatMap fun j =>
    xorBytes (slice b (16 * j) 16)
      (keyBytes (Config.aesEncrypt (kenc key) (counterBlock 1 major minor q (BitVec.ofNat 8 j))))

/-- The 8-byte tag of a parcel's ciphertext (R111). -/
def parcelTag (key : Key512) (major minor q : Nat) (ct : Bytes) : Bytes :=
  let h := Config.aesEncrypt (kmac key) 0
  let g := Config.ghash h ((List.range 16).map fun j => ofBytes 128 (slice ct (16 * j) 16))
  (keyBytes (g ^^^ Config.aesEncrypt (kenc key) (counterBlock 2 major minor q 0))).take 8

/-- The tag block of a parcel, from the CTC or from the devices. -/
def tagBlock (s : State) (location q : Nat) : Option (BitVec 512) :=
  match ctcEntry s location 6 (q / 8) with
  | some x => some x.value
  | none => storedBlock s 0 location 6 (q / 8)

/-- The stored tag of a parcel, when it can be read or reconstructed. -/
def storedTag (s : State) (location q : Nat) : Option Bytes :=
  (tagBlock s location q).map fun b => slice (leBytes 64 b.toNat) (8 * (q % 8)) 8

/-- Read the tag of a parcel through the CTC, which takes the tag block in (R124). -/
def loadTag (location q : Nat) (s : State) : Option Bytes × State :=
  let hit := (ctcEntry s location 6 (q / 8)).isSome
  let s := count (if hit then 0x240 else 0x241) s
  match tagBlock s location q with
  | none => (none, s)
  | some b => (some (slice (leBytes 64 b.toNat) (8 * (q % 8)) 8), trimCtc (putCtc location 6 (q / 8) b false s))

/-- Store the tag of a parcel in the CTC. -/
def setTag (location q : Nat) (tag : Bytes) (s : State) : State :=
  let old := leBytes 64 ((tagBlock s location q).getD 0).toNat
  let new := old.take (8 * (q % 8)) ++ tag ++ old.drop (8 * (q % 8) + 8)
  trimCtc (putCtc location 6 (q / 8) (BitVec.ofNat 512 (leNat new)) true s)

/-- The stored ciphertext of a parcel, when it can be read or reconstructed (R128). -/
def storedCt (s : State) (location q : Nat) : Option Bytes :=
  let a := parcelAddr location q
  shareRead s (groupOf a) (memberOf a) (rowOf a)

/-- The stored ciphertext and tag of a parcel, when both can be read or reconstructed (R117 step 6). -/
def storedParcel (s : State) (location q : Nat) : Option (Bytes × Bytes) :=
  match storedCt s location q, storedTag s location q with
  | some ct, some tag => some (ct, tag)
  | _, _ => none

/-! ### Marks and records (R119, R120) -/

/-- The PIE slice of a parcel. -/
def pieSlice (location q : Nat) : Nat := (Config.pieSlice location q).val

/-- The unit number of a parcel's PIE slice (R432). -/
def pieUnit (location q : Nat) : BitVec 16 := BitVec.ofNat 16 (0x0400 + pieSlice location q)

/-- Event counter k of a parcel's PIE slice (R473). -/
def pieCounter (location q k : Nat) : Nat := 0x1C0 + 8 * pieSlice location q + k

/-- The address of the byte of the parcel breach map that holds a parcel's bit (R107). -/
def parcelMapAddr (location q : Nat) : Nat := metaBase + 247716 * 1048576 + location * 524288 + q / 8

/-- The address of the byte of the page breach map that holds a page's bit (R107). -/
def pageMapAddr (location page : Nat) : Nat := metaBase + 250665 * 1048576 + location * 32768 + page / 8

/-- A bit of a breach map as the devices return it: what the block wrote, and the difference they hold. A byte that is lost
stands as it was written (DESIGN CHOICE, notes/assumptions/73.md). -/
def mapBit (s : State) (wrote : Bool) (a bit : Nat) : Bool :=
  wrote != (((deltaAt s a 1).getD [0]).headD 0).getLsbD bit

/-- A bit of a breach map is written: the devices hold it. -/
def mapWritten (a bit : Nat) (s : State) : State :=
  match deltaAt s a 1 with
  | some (d :: _) => if d.getLsbD bit then writeDelta a [d ^^^ BitVec.ofNat 8 (2 ^ bit)] s else s
  | _ => s

/-- Whether a parcel's breach bit is set. -/
def parcelMarked (s : State) (location q : Nat) : Bool :=
  mapBit s (s.tray.parcelMarks.contains (location, q)) (parcelMapAddr location q) (q % 8)

/-- Set a parcel's breach bit. -/
def markParcel (location q : Nat) (s : State) : State :=
  let l := s.tray.parcelMarks
  mapWritten (parcelMapAddr location q) (q % 8)
    { s with tray := { s.tray with parcelMarks := if l.contains (location, q) then l else l ++ [(location, q)] } }

/-- Clear a parcel's breach bit. -/
def unmarkParcel (location q : Nat) (s : State) : State :=
  mapWritten (parcelMapAddr location q) (q % 8)
    { s with tray := { s.tray with parcelMarks := s.tray.parcelMarks.filter (· ≠ (location, q)) } }

/-- Whether a page's breach bit is set. -/
def pageMarked (s : State) (location page : Nat) : Bool :=
  mapBit s (s.tray.pageMarks.contains (location, page)) (pageMapAddr location page) (page % 8)

/-- Set a page's breach bit. -/
def markPage (location page : Nat) (s : State) : State :=
  let l := s.tray.pageMarks
  mapWritten (pageMapAddr location page) (page % 8)
    { s with tray := { s.tray with pageMarks := if l.contains (location, page) then l else l ++ [(location, page)] } }

/-- Write a TRAY_PARCEL_BREACH record (R433). -/
def parcelBreach (e : Extent) (location q step : Nat) (s : State) : State :=
  writeFault .trayParcelBreach
    { unit := pieUnit location q, status := statusCode .breach, polder := e.polder,
      detail := leBytes 2 e.id.toNat ++ leBytes 4 q ++ [BitVec.ofNat 8 step] } s

/-- Mark every page that a failed block covers, and write one TRAY_PAGE_BREACH record (R117 step 2). -/
def pageBreach (e : Extent) (location level index page : Nat) (s : State) : State :=
  let n := 2 * 8 ^ level
  let new := ((List.range n).map (n * index + ·)).filter fun p => !pageMarked s location p
  let s := new.foldl (fun t p => markPage location p t) s
  writeFault .trayPageBreach
    { unit := pieUnit location (16 * page), status := statusCode .breach, polder := e.polder, count := new.length,
      detail := leBytes 2 e.id.toNat ++ leBytes 4 page ++ [BitVec.ofNat 8 level] } s

/-! ### Parcel access (R117) -/

/-- What an access does to a parcel (R117). -/
inductive ParcelKind where
  | read | write | modify
  deriving DecidableEq, Repr

/-- A parcel that steps 1 to 7 have admitted: its page record and its old plaintext; stale says that a tag failed at a
minor counter of 4,095 (R122). -/
structure OpenParcel where
  entry : BitVec 256
  plain : Bytes
  stale : Bool
  deriving DecidableEq, Repr

/-- Fetch the record of a page, or breach the pages that the failed block covers (R116, R117 step 2). -/
def fetchRecord (e : Extent) (location : Nat) (key : Key512) (page : Nat) (s : State) : Option (BitVec 256) × State :=
  match fetchBlock e location (kmac key) 6 0 (page / 2) s with
  | (.ok x, s) => (some (pageRecord x page), trimCtc s)
  | (.error f, s) => (none, pageBreach e location f.1 f.2 page (trimCtc s))

/-- Write the record of a page into the CTC. A block that the CTC does not hold any more is fetched and verified first,
since it holds the record of a second page (R116, R124). -/
def storeRecord (e : Extent) (location : Nat) (key : Key512) (page : Nat) (r : BitVec 256) (s : State) : State :=
  let put := fun (x : BitVec 512) (s : State) => trimCtc (putCtc location 0 (page / 2) (putRecord x page r) true s)
  match ctcEntry s location 0 (page / 2) with
  | some x => put x.value s
  | none =>
    if pageMarked s location page then count 0x246 s
    else
      match fetchBlock e location (kmac key) 6 0 (page / 2) s with
      | (.ok x, s) => put x s
      | (.error f, s) => pageBreach e location f.1 f.2 page (trimCtc s)

/-- Steps 1 to 7 of R117 for one parcel of an extent at a location. -/
def openParcel (e : Extent) (location : Nat) (key : Key512) (kind : ParcelKind) (q : Nat) (s : State) :
    Except Status OpenParcel × State :=
  let page := q / 16
  if pageMarked s location page then (.error .breach, count 0x246 s)
  else
    match fetchRecord e location key page s with
    | (none, s) => (.error .breach, s)
    | (some r, s) =>
      if kind ≠ .write && parcelMarked s location q then (.error .breach, count 0x246 s)
      else if kind ≠ .read && recFrozen r then (.error .exhausted, s)
      else if recFresh r || kind = .write then (.ok ⟨r, zeros 256, false⟩, s)
      else
        match storedCt s location q, loadTag location q s with
        | some ct, (some tag, s) =>
          let minor := recMinor r (q % 16)
          if parcelTag key (recMajor r) minor q ct = tag then
            (.ok ⟨r, parcelCrypt key (recMajor r) minor q ct, false⟩, s)
          else
            let s := parcelBreach e location q 7 (markParcel location q s)
            if kind = .modify && minor = 4095 then (.ok ⟨r, zeros 256, true⟩, s) else (.error .breach, s)
        | _, (_, s) => (.error .breach, parcelBreach e location q 6 (count (pieCounter location q 7) s))

/-- Store a parcel's plaintext under given counters, with its tag and parity. -/
def putParcel (location : Nat) (key : Key512) (major minor q : Nat) (plain : Bytes) (s : State) : State :=
  let a := parcelAddr location q
  let ct := parcelCrypt key major minor q plain
  setTag location q (parcelTag key major minor q ct) (shareWrite (groupOf a) (memberOf a) (rowOf a) ct s)

/-- Write a page whole: each parcel's stored bytes and tag, both stripes at once (R117, R121). -/
def putPage (location page : Nat) (cells : List (Bytes × Bytes)) (s : State) : State :=
  let half := fun (h : Nat) (t : State) =>
    let a := parcelAddr location (16 * page + 8 * h)
    stripeWrite (groupOf a) (rowOf a) (((cells.drop (8 * h)).take 8).map (·.1)) t
  (cells.zipIdx).foldl (fun t p => setTag location (16 * page + p.2) p.1.2 t) (half 1 (half 0 s))

/-- A stored form of a parcel: its ciphertext and tag under given counters. -/
def sealParcel (key : Key512) (major minor q : Nat) (plain : Bytes) : Bytes × Bytes :=
  let ct := parcelCrypt key major minor q plain
  (ct, parcelTag key major minor q ct)

/-- Verify the unmarked parcels of a page at a roll, marking those that fail; own is left out (R121 step 2, R122). DESIGN
CHOICE: one that cannot be read or reconstructed fails as one whose tag does not verify, and zeros are written in its place
(notes/assumptions/73.md). -/
def rollVerify (e : Extent) (location : Nat) (key : Key512) (page own : Nat) (r : BitVec 256) (s : State) : State :=
  (List.range 16).foldl (fun t i =>
    let q := 16 * page + i
    if parcelMarked t location q || q = own then t
    else
      match storedParcel t location q with
      | some x =>
        if parcelTag key (recMajor r) (recMinor r i) q x.1 = x.2 then t
        else parcelBreach e location q 7 (markParcel location q t)
      | none => parcelBreach e location q 7 (markParcel location q (count (pieCounter location q 7) t))) s

/-- Roll a page: major + 1, minor counters 0, unmarked parcels sealed again, marked ones written back unchanged; the
access's own parcel takes its new contents when it has any (R121, R122). -/
def rollPage (e : Extent) (location : Nat) (key : Key512) (q : Nat) (r : BitVec 256) (new : Option Bytes) (s : State) :
    State :=
  let page := q / 16
  let s := rollVerify e location key page q r s
  let major := recMajor r + 1
  let cells := (List.range 16).map fun i =>
    let x := 16 * page + i
    let ct := (storedCt s location x).getD (zeros 256)
    let tag := (storedTag s location x).getD (zeros 8)
    if x = q then
      match new with
      | some plain => sealParcel key major 0 x plain
      | none => (ct, tag)
    else if parcelMarked s location x then (ct, tag)
    else sealParcel key major 0 x (parcelCrypt key (recMajor r) (recMinor r i) x ct)
  let s := putPage location page cells (count (pieCounter location q 4) s)
  storeRecord e location key page (rolledRecord major) s

/-- Count a parcel that has been written (R473, R486). -/
def parcelWritten (e : Extent) (location q : Nat) (kind : ParcelKind) (s : State) : State :=
  let s := if kind = .modify then count (pieCounter location q 4) s else s
  meter e.polder 3 256 (countBy (pieCounter location q 3) 256 (count (pieCounter location q 1) s))

/-- Step 8 of R117 for a write or a modify: new is the parcel's whole new contents. DESIGN CHOICE: a modify whose tag
fails at a minor counter of 4,095 and the last major counter freezes the page and ends with ST_EXHAUSTED, where R123 and
step 7 of R117 both apply (notes/assumptions/73.md). -/
def commitParcel (e : Extent) (location : Nat) (key : Key512) (kind : ParcelKind) (q : Nat) (o : OpenParcel)
    (new : Bytes) (s : State) : Status × State :=
  let page := q / 16
  let k := q % 16
  let wrote := parcelWritten e location q kind
  if recFresh o.entry then
    let cells := (List.range 16).map fun i =>
      sealParcel key (recMajor o.entry) 0 (16 * page + i) (if i = k then new else zeros 256)
    let s := putPage location page cells s
    let s := storeRecord e location key page (rolledRecord (recMajor o.entry)) s
    (.ok, wrote ((List.range 16).foldl (fun t i => unmarkParcel location (16 * page + i) t) s))
  else if recMinor o.entry k = 4095 then
    if recMajor o.entry = 2 ^ 56 - 1 then
      (.exhausted, storeRecord e location key page (o.entry ||| BitVec.ofNat 256 (2 ^ 249)) s)
    else if o.stale then (.breach, rollPage e location key q o.entry none s)
    else
      let s := if kind = .write && !parcelMarked s location q then
          let good : Bool := match storedParcel s location q with
            | some x => parcelTag key (recMajor o.entry) 4095 q x.1 = x.2
            | none => false
          if good then s else parcelBreach e location q 7 s
        else s
      (.ok, wrote (unmarkParcel location q (rollPage e location key q o.entry (some new) s)))
  else if o.stale then (.breach, s)
  else
    let r := withMinor o.entry k (recMinor o.entry k + 1)
    let s := putParcel location key (recMajor r) (recMinor r k) q new s
    (.ok, wrote (unmarkParcel location q (storeRecord e location key page r s)))

/-- A whole aligned stripe of parcels is written, each under its next minor counter, with the parity of the new data alone
(R117 step 8, R126). r is the page's record; no parcel of it is to roll the page. -/
def commitStripe (e : Extent) (location : Nat) (key : Key512) (q : Nat) (r : BitVec 256) (news : List Bytes) (s : State) :
    State :=
  let r' := (List.range 8).foldl (fun r i => withMinor r (q % 16 + i) (recMinor r (q % 16 + i) + 1)) r
  let cells := (news.zipIdx).map fun x => sealParcel key (recMajor r) (recMinor r' (q % 16 + x.2)) (q + x.2) x.1
  let a := parcelAddr location q
  let s := stripeWrite (groupOf a) (rowOf a) (cells.map (·.1)) s
  let s := (cells.zipIdx).foldl (fun t x => setTag location (q + x.2) x.1.2 t) s
  let s := storeRecord e location key (q / 16) r' s
  (List.range 8).foldl (fun t i => parcelWritten e location (q + i) .write (unmarkParcel location (q + i) t)) s

/-! ### Accesses to a byte range (R543) -/

/-- The parcels that a byte range touches. -/
def parcelsOf (off len : Nat) : List Nat :=
  if len = 0 then [] else (List.range ((off + len - 1) / 256 - off / 256 + 1)).map (· + off / 256)

/-- The first failure of two statuses, in order. -/
def firstFailure (a b : Status) : Status := if a = .ok then b else a

/-- The metadata of the pages after a sequential run is brought into the CTC, as the hint says: 8 pages, one, or none. A
run is an access that begins on the page after the one the last access touched (DESIGN CHOICE, notes/assumptions/73.md).
A block that does not verify is left out, with no effect (R125). -/
def prefetch (e : Extent) (location : Nat) (key : Key512) (off len : Nat) (s : State) : State :=
  let first := off / 4096
  let last := (off + len - 1) / 4096
  let x := (findExtent s e.id).getD e
  let n := match x.hint.toNat with | 0 => 8 | 1 => 1 | _ => 0
  let s := modExtent e.id (fun y => { y with lastPage := some last }) s
  if x.lastPage.map (· + 1) = some first then
    trimCtc <| ((List.range n).map (last + 1 + ·)).foldl (fun t p =>
      if 262144 ≤ p || (ctcEntry t location 0 (p / 2)).isSome then t
      else match fetchBlock e location (kmac key) 6 0 (p / 2) t with
        | (.ok _, t') => t'
        | (.error _, _) => t) s
  else s

/-- Read a byte range of a location: its status and, when every parcel succeeds, its bytes. -/
def trayRead (e : Extent) (location : Nat) (key : Key512) (off len : Nat) (s : State) : (Status × Bytes) × State :=
  let r := (parcelsOf off len).foldl (fun (acc : Status × Bytes × State) q =>
    match openParcel e location key .read q acc.2.2 with
    | (.error st, t) => (firstFailure acc.1 st, acc.2.1 ++ zeros 256, t)
    | (.ok o, t) =>
      let t := countBy (pieCounter location q 2) 256 (count (pieCounter location q 0) t)
      (acc.1, acc.2.1 ++ o.plain, meter e.polder 4 256 t)) (.ok, [], s)
  ((r.1, if r.1 = .ok then slice r.2.1 (off % 256) len else []), prefetch e location key off len r.2.2)

/-- Free bytes in the place of a part of a range that could not be read (notes/assumptions/2.md). -/
def freeBytes (n : Nat) (s : State) : Bytes :=
  (List.range n).map fun i => (Config.freeValue (s.free + i / 64)).extractLsb' (8 * (i % 64)) 8

/-- A parcel of a range that is to be changed: its index, whether all of it is written, what steps 1 to 7 found, and its new
contents, if it is to have any. -/
structure ParcelChange where
  q      : Nat
  whole  : Bool
  opened : Except Status OpenParcel
  new    : Option Bytes

/-- Commit the change of one parcel: its status, and whether it was written (R117 step 8). Its page record may have changed
since it was opened, by an earlier parcel of the page; a page that has been marked since is only counted (R120). -/
def commitOne (e : Extent) (location : Nat) (key : Key512) (x : ParcelChange) (s : State) : (Status × Bool) × State :=
  match x.opened with
  | .error st => ((st, false), s)
  | .ok o =>
    if pageMarked s location (x.q / 16) then ((.breach, false), count 0x246 s)
    else
      match fetchRecord e location key (x.q / 16) s with
      | (none, s) => ((.breach, false), s)
      | (some r, s) =>
        let o := { o with entry := r }
        let s := if !x.whole && !o.stale then meter e.polder 4 256 s else s
        if !x.new.isSome && !o.stale then ((.ok, false), s)
        else if recFrozen r then ((.exhausted, false), s)
        else
          let c := commitParcel e location key (if x.whole then .write else .modify) x.q o (x.new.getD []) s
          ((c.1, c.1 = .ok), c.2)

/-- The record and the new contents of a whole aligned stripe at the head of a range's parcels, when each is written whole and
none is to roll or to make its page (R126). -/
def headStripe (e : Extent) (location : Nat) (key : Key512) (xs : List ParcelChange) (s : State) :
    Option (BitVec 256 × List Bytes) × State :=
  let eight := xs.take 8
  let fits := eight.length = 8
    && (match eight with | x :: _ => decide (x.q % 8 = 0) && !pageMarked s location (x.q / 16) | [] => false)
    && eight.all fun x => x.whole && x.new.isSome && (match x.opened with | .ok _ => true | .error _ => false)
  match fits, eight with
  | true, x :: _ =>
    (match fetchRecord e location key (x.q / 16) s with
     | (some r, s) =>
       if recFresh r || recFrozen r || eight.any fun y => recMinor r (y.q % 16) = 4095 then (none, s)
       else (some (r, eight.map fun y => y.new.getD []), s)
     | (none, s) => (none, s))
  | _, _ => (none, s)

/-- Commit the changes of a range's parcels in order: the first failure, and which were written; n bounds them. -/
def commitRun (e : Extent) (location : Nat) (key : Key512) : Nat → List ParcelChange → Status × List Nat × State →
    Status × List Nat × State
  | 0, _, acc => acc
  | _ + 1, [], acc => acc
  | n + 1, x :: rest, acc =>
    match headStripe e location key (x :: rest) acc.2.2 with
    | (some (r, news), s) =>
      commitRun e location key n (rest.drop 7)
        (acc.1, acc.2.1 ++ (List.range 8).map (x.q + ·), commitStripe e location key x.q r news s)
    | (none, s) =>
      let c := commitOne e location key x s
      commitRun e location key n rest (firstFailure acc.1 c.1.1, if c.1.2 then acc.2.1 ++ [x.q] else acc.2.1, c.2)

/-- The part of a byte range that lies in a parcel: where it starts in the range, and its length. -/
def partOf (off len q : Nat) : Nat × Nat :=
  (max off (256 * q) - off, min (off + len) (256 * q + 256) - max off (256 * q))

/-- Change a byte range of a location: change gives the new bytes of the whole range from its old ones, or that nothing
is written; full says that it uses none of the old (a store). It answers the status, the old range and the parts of the
range that were written. Parcels that fail keep their contents; where the change of another parcel needs a failed one's
bytes they are free. -/
def trayChange (e : Extent) (location : Nat) (key : Key512) (off len : Nat) (full : Bool)
    (change : Bytes → Option Bytes) (s : State) : (Status × Bytes × List (Nat × Nat)) × State :=
  let whole := fun (q : Nat) => full && decide (off ≤ 256 * q) && decide (256 * q + 256 ≤ off + len)
  let opened := (parcelsOf off len).foldl (fun (acc : List (Nat × Except Status OpenParcel) × State) q =>
    let x := openParcel e location key (if whole q then .write else .modify) q acc.2
    (acc.1 ++ [(q, x.1)], x.2)) ([], s)
  let old := opened.1.flatMap fun p => match p.2 with
    | .ok o => if o.stale then freeBytes 256 s else o.plain
    | .error _ => freeBytes 256 s
  let range := slice old (off % 256) len
  let new := (change range).map fun b => old.take (off % 256) ++ padTo len b ++ old.drop (off % 256 + len)
  let changes := opened.1.map fun p =>
    ({ q := p.1, whole := whole p.1, opened := p.2, new := new.map fun b => slice b (256 * (p.1 - off / 256)) 256 } :
      ParcelChange)
  let r := commitRun e location key changes.length changes (.ok, [], { opened.2 with free := opened.2.free + 4 })
  ((r.1, range, r.2.1.map (partOf off len)), prefetch e location key off len r.2.2)

/-! ### Locations (R115, R123, R204) -/

/-- The storage state of a location. -/
def locState (s : State) (l : Nat) : LocState := assocGet l .free s.tray.locations

/-- Set the storage state of a location. -/
def setLoc (l : Nat) (x : LocState) (s : State) : State :=
  { s with tray := { s.tray with
      locations := if x = .free then assocDel l s.tray.locations else assocSet l x s.tray.locations } }

/-- The lowest free location. -/
def freeLocation (s : State) : Option Nat := leastBelow 5898 fun l => locState s l = .free

/-- Clear the breach maps of a location. -/
def clearMaps (l : Nat) (s : State) : State :=
  eraseDeltas (parcelMapAddr l 0) 524288 (eraseDeltas (pageMapAddr l 0) 32768
    { s with tray := { s.tray with
        parcelMarks := s.tray.parcelMarks.filter fun m => m.1 ≠ l
        pageMarks := s.tray.pageMarks.filter fun m => m.1 ≠ l } })

/-- Write the page records and the tree of a location as R115 initialises them, and clear its breach maps. Tags stay. -/
def initLocation (l : Nat) (s : State) : State :=
  let s := { s with tray := { s.tray with
    blocks := s.tray.blocks.filter fun b => b.location ≠ l || b.level = 6
    ctc := s.tray.ctc.filter fun x => x.location ≠ l } }
  clearMaps l (eraseDeltas (blockAddr l 0 0) 8388608 (eraseDeltas (blockAddr l 1 0) 2097152 s))

/-- Reclaim a location: its CTC entries are discarded without being written back and it is free (R119, R123). -/
def reclaimLocation (l : Nat) (s : State) : State :=
  setLoc l .free (clearMaps l { s with tray := { s.tray with ctc := s.tray.ctc.filter fun x => x.location ≠ l } })

/-- Copy one page of an extent to the new location of an EXTENT_REKEY (R123). DESIGN CHOICE: a parcel that cannot be read or
reconstructed is marked at the new location, with a record that names step 6 (notes/assumptions/73.md). -/
def rekeyPage (e : Extent) (old new : Nat) (oldKey newKey : Key512) (page : Nat) (s : State) : State :=
  if pageMarked s old page then markPage new page s
  else
    match fetchRecord e old oldKey page s with
    | (none, s) => markPage new page s
    | (some r, s) =>
      if recFresh r then s
      else
        let s := storeRecord e new newKey page (rolledRecord 0) s
        (List.range 16).foldl (fun t i =>
          let q := 16 * page + i
          if parcelMarked t old q then markParcel new q t
          else
            match storedParcel t old q with
            | none => markParcel new q (parcelBreach e old q 6 t)
            | some x =>
              if parcelTag oldKey (recMajor r) (recMinor r i) q x.1 = x.2 then
                putParcel new newKey 0 0 q (parcelCrypt oldKey (recMajor r) (recMinor r i) q x.1) t
              else markParcel new q (parcelBreach e old q 7 (markParcel old q t))) s

/-! ### What the device controller reports (R127, R131, R521) -/

/-- Note an uncorrectable error of a device: the eighth within 1 s kills it; any other is repaired from its stripe, or, beside a
share that is missing, leaves the row unreadable (R117 step 6, R127, R128). A row that a spare does not hold yet needs
nothing. -/
def deviceError (device offset : Nat) (s : State) : State :=
  let recent := (s.tray.errors.filter fun x => decide (s.time < x.2 + 1000000000)) ++ [(device, s.time)]
  let s := { s with tray := { s.tray with errors := recent } }
  if 8 ≤ (recent.filter fun x => x.1 = device).length then deviceDead device s
  else
    match servesMember s device with
    | none => s
    | some (g, k) =>
      let row := offset / 256
      if (placeDevice s g k row).isNone then s
      else
        let bad := { s with tray := { s.tray with
          badRows := if s.tray.badRows.contains (device, row) then s.tray.badRows else s.tray.badRows ++ [(device, row)] } }
        match shareRead bad g k row with
        | some fixed => count 0x244 (count 0x243 (rawWrite device row fixed s))
        | none => bad

/-- The authentication key of the extent at a location. -/
def locationMacKey (s : State) (l : Nat) : Key256 :=
  match locOwner s l with
  | some (_, key) => kmac key
  | none => 0

/-- The bytes of a block of a location, as the block wrote them, from an offset on. -/
def blockBytes (s : State) (l level index off len : Nat) : Bytes :=
  slice (leBytes 64 (getBlock s (locationMacKey s l) l level index).device.toNat) off len

/-- Bytes of a breach map of a location as the block wrote them (R107, R120). -/
def mapBytes (marks : List (Nat × Nat)) (l first len : Nat) : Bytes :=
  (List.range len).map fun i =>
    BitVec.ofNat 8 (((List.range 8).filter fun b => marks.contains (l, 8 * (first + i) + b)).foldl (fun n b => n + 2 ^ b) 0)

/-- What the block wrote at a metadata address, within one 64-byte block (R107). -/
def metaBytes (s : State) (a len : Nat) : Bytes :=
  let mib := 1048576
  let o := a - metaBase
  if o < 188736 * mib then blockBytes s (o / (32 * mib)) 6 (o % (32 * mib) / 64) (o % 64) len
  else if o < 235920 * mib then
    let r := o - 188736 * mib
    blockBytes s (r / (8 * mib)) 0 (r % (8 * mib) / 64) (r % 64) len
  else if o < 247716 * mib then
    let r := o - 235920 * mib
    let n := r % (2 * mib) / 64
    let place := if n < 16384 then (1, n) else if n < 18432 then (2, n - 16384) else if n < 18688 then (3, n - 18432)
      else if n < 18720 then (4, n - 18688) else (5, n - 18720)
    if n < 18724 then blockBytes s (r / (2 * mib)) place.1 place.2 (r % 64) len else zeros len
  else if o < 250665 * mib then
    let r := o - 247716 * mib
    mapBytes s.tray.parcelMarks (r / 524288) (r % 524288) len
  else if o < 250849 * mib + 327680 then
    let r := o - 250665 * mib
    mapBytes s.tray.pageMarks (r / 32768) (r % 32768) len
  else zeros len

/-- What the block wrote at a byte of a member of a row, within one 64-byte block: metadata or its parity; zeros in the data
area, whose bytes stand as they are. -/
def wroteAt (s : State) (g k row off len : Nat) : Bytes :=
  let member := fun (m : Nat) => metaBytes s ((row * 8 + g) * 2048 + m * 256 + off) len
  if row < metaBase / 16384 then zeros len
  else if k < 8 then member k
  else (List.range 8).foldl (fun b m => xorBytes b (member m)) (zeros len)

/-- A device returned bytes at an offset, which therefore stand on it, each part within one 64-byte block in turn; n bounds the
parts. -/
def deviceReturned (device : Nat) : Nat → Nat → Bytes → State → State
  | 0, _, _, s => s
  | n + 1, offset, data, s =>
    if data.isEmpty then s
    else
      let here := data.take (64 - offset % 64)
      let held := match servesMember s device with
        | some (g, k) => xorBytes here (wroteAt s g k (offset / 256) (offset % 256) here.length)
        | none => here
      let s := { s with tray := { s.tray with devices := memWriteN 0 s.tray.devices (deviceCell device offset) held } }
      deviceReturned device n (offset + here.length) (data.drop (64 - offset % 64)) s

/-- Whether the tray exists: role T, out of reset. -/
def hasTray (s : State) : Bool := running s && s.boot.role = .t

/-- The domains that an access to tray memory passes through. Which of a kind serves a parcel is given nowhere, so an access
needs all of them (notes/assumptions/71.md). -/
def trayDomains : List DomainId :=
  (roleDomains .t).filter fun d => match d.kind with
    | .pie | .ctc | .treeWalker | .rootBank | .levee => true
    | _ => false

/-- The Levee of a parity group (R36). -/
def leveeDomain (g : Nat) : DomainId := ⟨.levee, BitVec.ofNat 8 g⟩

/-- A row at the watermark is rebuilt onto the spare: read or reconstructed, and written (R129). A row that cannot be
reconstructed stays unreadable there (DESIGN CHOICE, notes/assumptions/73.md). -/
def rebuildRow (group k sp : Nat) (x : ParityGroup) (s : State) : State :=
  match shareRead s group k x.watermark with
  | some b => setGroup group { x with watermark := x.watermark + 1 } (count 0x245 (rawWrite sp x.watermark b s))
  | none =>
    setGroup group { x with watermark := x.watermark + 1 }
      { s with tray := { s.tray with badRows := s.tray.badRows ++ [(sp, x.watermark)] } }

/-! ### Meanings -/

/-- DEVICE_FAILED (R127). -/
def execDeviceFailed (device : Nat) (s : State) : Host.Outcome State Fault Refusal :=
  if 74 ≤ device then .fault .noSuchDevice
  else .next (if hasTray s then deviceDead device s else s)

/-- DEVICE_PRESENT (R131): a device that was dead joins as a spare. -/
def execDevicePresent (device : Nat) (s : State) : Host.Outcome State Fault Refusal :=
  if 74 ≤ device then .fault .noSuchDevice
  else
    .next <|
      if hasTray s && s.tray.dead.contains device then
        { s with tray := { s.tray with
            dead := s.tray.dead.filter (· ≠ device)
            spares := s.tray.spares ++ [device]
            errors := s.tray.errors.filter fun x => x.1 ≠ device
            badRows := s.tray.badRows.filter fun x => x.1 ≠ device } }
      else s

/-- REBUILD_ROW (R42, R129): the group's Levee rebuilds the row at the watermark, or is woken. -/
def execRebuildRow (group : Nat) (s : State) : Host.Outcome State Fault Refusal :=
  .next <|
    let x := getGroup s group
    match x.state, x.dead, x.spare with
    | .rebuilding, some k, some sp =>
      if hasTray s && x.watermark < trayRows then withDomain (leveeDomain group) (rebuildRow group k sp x) s else s
    | _, _, _ => s

/-- REBUILD_END (R129, R131): the spare stands in the dead device's place. -/
def execRebuildEnd (group : Nat) (s : State) : Host.Outcome State Fault Refusal :=
  .next <|
    let x := getGroup s group
    match x.state, x.dead, x.spare with
    | .rebuilding, some k, some sp =>
      if hasTray s && x.watermark = trayRows then
        let dev := assocGet (memberDevice group k) (memberDevice group k) s.tray.remap
        let s := { s with tray := { s.tray with remap := assocSet (memberDevice group k) sp s.tray.remap } }
        writeFault .trayRebuildEnd
          { unit := leveeUnit group, detail := [BitVec.ofNat 8 group, BitVec.ofNat 8 dev] } (setGroup group .normal s)
      else s
    | _, _, _ => s

end Sys2Proof.Machine
end

