-- ==== Sys2Proof/Machine/FauTarget.lean ====
section
/-! DEFINITION. The Fabric Access Unit as a target: sequence records, the target checks, memory operations, atomics,
signals and fences held back, the answer log and the atomic replay table (R137 to R151, R166 to R182). -/

namespace Sys2Proof.Machine

/-! ### Sequence records (R166, R168) -/

/-- The destination of a released packet: its group, or this instance. -/
def relDest (r : Released) (s : State) : Dest :=
  match r.group with
  | some g => destOf true g
  | none => destOf false s.boot.instanceId

/-- Whether a released packet belongs to a sequence space. -/
def inSpace (p : PolderId) (src : InstId) (d : Dest) (s : State) (r : Released) : Bool :=
  r.polder = p && r.src = src && relDest r s = d

/-- The sequence record of a released packet's space. DESIGN CHOICE: one that is first made starts with A_r and M at 0,
also where the requester stands in the middle of its space (notes/assumptions/80.md). -/
def recordOf (r : Released) (s : State) : SeqRecord :=
  (s.fau.records.find? fun x => x.polder = r.polder && x.src = r.src && x.dest = relDest r s).getD
    { polder := r.polder, src := r.src, dest := relDest r s, ar := 0, m := 0, seen := 0 }

/-- Replace a sequence record. -/
def setRecord (x : SeqRecord) (s : State) : State :=
  { s with fau := { s.fau with
      records := upsert (fun y => y.polder = x.polder && y.src = x.src && y.dest = x.dest) x s.fau.records } }

/-- The later of two numbers (R162). -/
def serialMax (a b : BitVec 32) : BitVec 32 := if serialLt a b then b else a

/-- A record raised by a request: A_r to the highest of itself, the aux of a non-signal request and s − 1,023, and M
(R166). -/
def raisedRecord (x : SeqRecord) (r : Released) : SeqRecord :=
  let a := if r.inner.opcode = 6 then x.ar else serialMax x.ar r.inner.aux
  let a := serialMax a (r.inner.seq - 1023)
  let n := (a - x.ar).toNat
  { x with ar := a, m := serialMax x.m r.inner.seq, seen := if 1024 ≤ n then 0 else x.seen >>> n }

/-- Raise the record of a request's space, freeing the log and table entries passed, discarding the held entries whose own
number is passed, and dropping as stale the requests not yet performed whose number is passed (R166 to R168, R175, R178,
R181). -/
def raiseRecord (r : Released) (s : State) : State :=
  let x := raisedRecord (recordOf r s) r
  let passed := fun (n : BitVec 32) => serialLt n x.ar
  let past := fun (q : Released) => inSpace x.polder x.src x.dest s q && passed q.inner.seq
  let gone := fun (h : Held) => past h.rel
  let n := (s.fau.hold.filter gone).length
  let stale := (s.fau.memWait.filter fun w => past w.rel).length
  let s := if stale = 0 then s else countBy 0x00C stale s
  setRecord x { s with fau := { s.fau with
    memWait := s.fau.memWait.filter fun w => !past w.rel
    answers := s.fau.answers.filter fun a => !(a.polder = x.polder && a.src = x.src && a.dest = x.dest && passed a.seq)
    replays := if destIsGroup x.dest then s.fau.replays
      else s.fau.replays.filter fun a => !(a.polder = x.polder && a.src = x.src && passed a.seq)
    hold := s.fau.hold.filter fun h => !gone h
    discards := satAdd s.fau.discards n } }

/-- Every request of a space that is being performed or held. -/
def spaceBusy (p : PolderId) (src : InstId) (d : Dest) (s : State) : List (BitVec 32) :=
  let serving := s.rings.txns.filterMap fun t => match t.goal with
    | .serve m => some m | .makeRoom m => some m | .destroy => none
  ((s.fau.hold.map (·.rel) ++ s.fau.unacked.map (·.rel) ++ s.fau.memWait.map (·.rel) ++ s.rings.waiting ++ serving
    ++ s.rings.snoops).filter (inSpace p src d s)).map (·.inner.seq)

/-- The cases of R168. -/
inductive SeqCase where
  | stale | fresh | inProgress | answered
  deriving DecidableEq, Repr

/-- Classify a request against its record, which it has raised (R168). -/
def seqCase (r : Released) (s : State) : SeqCase :=
  let x := recordOf r s
  if serialLt r.inner.seq x.ar then .stale
  else if !x.seen.getLsbD (r.inner.seq - x.ar).toNat then .fresh
  else if (spaceBusy x.polder x.src x.dest s).contains r.inner.seq then .inProgress
  else .answered

/-- Set the seen bit of a request's number (R168). -/
def setSeen (r : Released) (s : State) : State :=
  let x := recordOf r s
  setRecord { x with seen := x.seen ||| BitVec.ofNat 1024 (2 ^ (r.inner.seq - x.ar).toNat) } s

/-- Whether every number of a request's space from A_r to a last one has completed, been discarded or been passed (R172,
R177). -/
def numbersDone (r : Released) (last : BitVec 32) (s : State) : Bool :=
  let x := recordOf r s
  let busy := spaceBusy x.polder x.src x.dest s
  serialLt last x.ar
    || (List.range (min ((last - x.ar).toNat + 1) 1025)).all fun i =>
      x.seen.getLsbD i && !busy.contains (x.ar + BitVec.ofNat 32 i)

/-- Whether a fence or a signal need be held no longer (R172, R177). -/
def holdMet (r : Released) (s : State) : Bool :=
  numbersDone r (if r.inner.opcode = 6 then r.inner.aux else r.inner.seq - 1) s

/-! ### Completing a request -/

/-- Whether a request's answer is logged: all but atomics and loads that read (R167, R174). -/
def logged (r : Released) : Bool :=
  r.inner.opcode ≠ 3 && (r.inner.opcode ≠ 1 || fenceLike r.inner.opcode r.inner.opLength.toNat)

/-- The banks of the atomic replay table: no rule says which of the two an entry lies in, so an atomic needs both
(notes/assumptions/71.md). -/
def replayDomains : List DomainId := [⟨.replayBank, 0⟩, ⟨.replayBank, 1⟩]

/-- Whether the answer of a request can be entered: in the log, or in the replay table, whose banks serve (R42, R167, R181). -/
def answerRoom (r : Released) (s : State) : Bool :=
  if r.inner.opcode = 3 then s.fau.replays.length < 8192 && replayDomains.all (serves s)
  else !logged r || s.fau.answers.length < 65536

/-- A wait for room for an answer begins: the replay banks are woken, and a full log or table is counted (R42, R167, R181). -/
def countRoom (r : Released) (counted : Bool) (s : State) : State :=
  if r.inner.opcode = 3 then
    let s := (wakeAll replayDomains s).2
    if counted || s.fau.replays.length < 8192 then s else count 0x00B s
  else if counted then s else count 0x00A s

/-- Enter an answer in the log, or an atomic's in the replay table, unless its number is passed (R167, R181). -/
def enterAnswer (r : Released) (st : Status) (flags : BitVec 6) (old : BitVec 64) (s : State) : State :=
  if serialLt r.inner.seq (recordOf r s).ar then s
  else if r.inner.opcode = 3 then
    { s with fau := { s.fau with
        replays := s.fau.replays ++ [{ polder := r.polder, src := r.src, seq := r.inner.seq, status := st, old := old,
                                       width := atomicWidth r.inner.modifier, at_ := s.time,
                                       datum := s.datum.value }] } }
  else if logged r then
    { s with fau := { s.fau with
        answers := s.fau.answers ++ [{ polder := r.polder, src := r.src, dest := relDest r s, seq := r.inner.seq,
                                       status := st, flags := flags, data := [], at_ := s.time }] } }
  else s

/-- The data of an atomic's answer: its old value (R145). -/
def oldBytes (r : Released) (st : Status) (old : BitVec 64) : Bytes :=
  if r.inner.opcode = 3 && st = .ok then leBytes (atomicWidth r.inner.modifier) old.toNat else []

/-- A request that writes nothing, or writes no data, completes: its answer is entered and sent (R143, R167). -/
def completeRequest (r : Released) (st : Status) (flags : BitVec 6) (data : Bytes) (s : State) : State :=
  sendCompletion r st flags data (enterAnswer r st flags 0 s)

/-- A request whose data has been written waits for its acknowledgement (R169). -/
def awaitAck (r : Released) (st : Status) (flags : BitVec 6) (old : BitVec 64) (region : Nat) (s : State) : State :=
  { s with fau := { s.fau with
      unacked := s.fau.unacked ++ [{ rel := r, status := st, flags := flags, old := old, region := region,
                                     noRoom := false }] } }

/-! ### Target checks (R143, R144, R201) -/

/-- The index that a region key names (R137). -/
def keyIndex (key : BitVec 32) : Nat := key.toNat / 262144

/-- A region table entry. -/
def findRegion (s : State) (i : Nat) : Option Region := s.fau.regions.find? fun g => g.index = i

/-- Count a key mismatch on an index; the first in 1 s writes a record with those folded since the last (R144). -/
def keyMismatch (r : Released) (s : State) : State :=
  let i := keyIndex r.inner.regionKey
  let put := fun (n : BitVec 32) (at_ : Nat) (t : State) =>
    { t with fau := { t.fau with keyMiss := upsert (fun x => x.1 = i) (i, n, at_) t.fau.keyMiss } }
  let record := fun (n : Nat) (t : State) =>
    writeFault .fauKeyMismatch
      { unit := fauUnit, status := statusCode .denied, polder := r.polder, peer := some r.src, count := n,
        detail := leBytes 2 i } t
  match s.fau.keyMiss.find? fun x => x.1 = i with
  | none => record 0 (put 0 s.time s)
  | some x => if s.time < x.2.2 + 1000000000 then put (satInc x.2.1) x.2.2 s else record x.2.1.toNat (put 0 s.time s)

/-- The record of a request refused at a check (R143, R544). -/
def targetRefused (r : Released) (check : Byte) (st : Status) (s : State) : State :=
  writeFault .fauRefused
    { unit := fauUnit, status := statusCode st, polder := r.polder, peer := some r.src,
      detail := [check, r.inner.opcode] ++ leBytes 2 (keyIndex r.inner.regionKey) } s

/-- What the lease check of an extent finds (R201). -/
inductive LeaseUse where
  | pass | wait | revoked
  deriving DecidableEq, Repr

/-- An expired or revoked lease begins its revocation: REVOKING, with a LEASE_EXPIRED record for an expiry (R202). -/
def beginRevoke (e : Extent) (expired : Bool) (s : State) : State :=
  let s := modExtent e.id (fun x => { x with state := .revoking }) s
  if expired then
    writeFault .leaseExpired
      { unit := fauUnit, polder := e.polder,
        detail := leBytes 2 e.id.toNat ++ leBytes 2 e.holder.toNat ++ leBytes 8 e.expiry.toNat } s
  else s

/-- Check 5 of R143 (R201). -/
def leaseCheck (e : Extent) (s : State) : LeaseUse × State :=
  match e.state with
  | .granting => (.wait, s)
  | .leased => if s.datum.value.toNat < e.expiry.toNat then (.pass, s) else (.revoked, beginRevoke e true s)
  | _ => (.revoked, s)

/-- Whether the permission bits of a region admit an opcode (R139, R143 check 6). -/
def permits (g : Region) (op : BitVec 8) : Bool := 1 ≤ op.toNat && op.toNat ≤ 5 && g.perms.getLsbD (op.toNat - 1)

/-- Whether the core of a signal region is bound to a context of the region's polder (R150). -/
def signalCoreBound (g : Region) (s : State) : Bool :=
  match coreContext s g.core with
  | some c => c.polder = g.polder
  | none => false

/-- The bytes of memory that a request covers at its target (R143 check 8, R149). -/
def coveredBytes (i : Inner) : Nat :=
  match i.opcode.toNat with
  | 3 => atomicWidth i.modifier
  | 4 => storedBytes i.modifier i.opLength.toNat
  | _ => i.opLength.toNat

/-- The length that check 8 of R143 tests: op_length, or a reduce's stored length. -/
def testedBytes (i : Inner) : Nat := if i.opcode = 4 then storedBytes i.modifier i.opLength.toNat else i.opLength.toNat

/-- What the target checks find. -/
inductive TargetUse where
  | pass (g : Region)
  | wait
  | fail (st : Status)
  deriving DecidableEq, Repr

/-- Checks 6 to 8 of R143. -/
def lateChecks (r : Released) (g : Region) (s : State) : TargetUse × State :=
  let i := r.inner
  let allowed := if i.opcode = 6 then g.signalKind && signalCoreBound g s else !g.signalKind && permits g i.opcode
  if !allowed then (.fail .denied, targetRefused r 6 .denied s)
  else if !shapeOk i.opcode i.modifier i.regionKey i.offset i.opLength.toNat then
    (.fail .badParam, targetRefused r 7 .badParam s)
  else if g.length.toNat < i.offset.toNat + testedBytes i then (.fail .badParam, targetRefused r 8 .badParam s)
  else (.pass g, s)

/-- Checks 2 to 8 of R143 on a request that touches a region; admitted says that it has passed checks 4 and 5 before. -/
def targetChecks (r : Released) (admitted : Bool) (s : State) : TargetUse × State :=
  match findRegion s (keyIndex r.inner.regionKey), findPolder s r.polder with
  | some g, some q =>
    if g.key ≠ r.inner.regionKey || g.key = 0 then (.fail .denied, keyMismatch r s)
    else if g.polderSlot ≠ q.slot then (.fail .denied, targetRefused r 3 .denied s)
    else if g.withdrawing && !admitted then (.fail .revoked, s)
    else if s.boot.role = .t && !admitted then
      match findExtent s (BitVec.ofNat 13 g.index) with
      | none => (.fail .denied, keyMismatch r s)
      | some e =>
        match leaseCheck e s with
        | (.wait, s) => (.wait, s)
        | (.revoked, s) => (.fail .revoked, s)
        | (.pass, s) => lateChecks r g s
    else lateChecks r g s
  | _, _ => (.fail .denied, keyMismatch r s)

/-! ### Memory at the target (R140, R143 check 9, R543) -/

/-- The stack address of the byte at a distance from the start of a region's first plot (R140). -/
def regionAddr (s : State) (g : Region) (u : Nat) : Nat :=
  (assocGet (g.rttBase + u / 16777216) 0 s.fau.rtt).toNat * 16777216 + u % 16777216

/-- The stack pieces of a range of a region: address and length in each data unit, in address order. -/
def regionPieces (s : State) (g : Region) (off len : Nat) : List (Nat × Nat) :=
  (unitPieces (g.firstOffset.toNat + off) len).map fun x => (regionAddr s g x.1, x.2)

/-- The statuses of looked-up data units under checks 4 to 11 of R92, with the records of those that fail; none when the whole
access must wait: for a fill, for the key, for a slice, or for earlier accesses to its units (R87, R92, R94, R143). reads says
that stored bytes are needed. -/
def pieceStatuses (p : PolderId) (l : List Lookup) (write reads : Bool) (s : State) : Option (List Status) × State :=
  let live := l.filter fun x => x.fail.isNone
  let record := fun (t : State) (x : Nat × Nat × Status) =>
    if x.2.2 = .ok || x.2.1 = 3 || x.2.1 = 10 then t
    else if x.2.1 = 11 then
      writeFault .stackUncorrectable
        { unit := sceUnit x.1, status := statusCode x.2.2, polder := p, detail := leBytes 5 x.1 } t
    else
      writeFault .stackRefused
        { unit := sceUnit x.1, status := statusCode x.2.2, polder := p,
          detail := leBytes 5 x.1 ++ [BitVec.ofNat 8 x.2.1, if write then 1 else 0] } t
  let judge := fun (key : Option Status) (s : State) =>
    let judged := l.map fun x => match x.fail, key with
      | some f, _ => (x.addr, f.1, f.2)
      | none, some st => (x.addr, 10, st)
      | none, none => if reads && stackBad s x.addr x.len then (x.addr, 11, .breach) else (x.addr, 0, .ok)
    (some (judged.map (·.2.2)), judged.foldl record s)
  if isFrozen s p then (none, s)
  else if live.isEmpty then judge none s
  else if live.any fun x => plotFilling (plotEntry s (plotOf x.addr)) || pieceBusy s x then (none, s)
  else
    match wakeSlices live s with
    | (true, s) => (none, s)
    | (false, s) =>
      match needKey p 3 s with
      | (.wait, s) => (none, s)
      | (.failed st, s) => judge (some st) s
      | (.ready, s) => judge none s

/-- The first failure in address order. -/
def firstBad (sts : List Status) : Status := (sts.find? (· ≠ .ok)).getD .ok

/-- What a request's data units are found to be, in role E (R90, R140). seen is what an earlier try found. -/
def targetLookups (p : PolderId) (g : Region) (off len : Nat) (write : Bool) (seen : List Lookup) (s : State) : List Lookup :=
  if s.boot.role = .t || !seen.isEmpty then seen
  else match findPolder s p with
    | some q => lookUp s q (regionPieces s g off len) write
    | none => []

/-- Read looked-up data units of a role-E region: the status and the bytes; none when it must wait. -/
def stackTargetRead (p : PolderId) (l : List Lookup) (s : State) : Option (Status × Bytes) × State :=
  match pieceStatuses p l false true s with
  | (none, s) => (none, s)
  | (some sts, s) =>
    let good := (l.zip sts).filter fun x => x.2 = .ok
    let s := good.foldl (fun t x => stackCount p x.1.addr x.1.len false t) s
    if firstBad sts = .ok then
      (some (.ok, l.flatMap fun x => stackRead s (polderStackKey s p) x.addr x.len), s)
    else (some (firstBad sts, []), s)

/-- Change looked-up data units of a role-E region; full says that the change uses none of the old bytes. The pieces
that fail keep their contents, and stand for free bytes in the change (R543). It answers the status, the old range and
the parts of the range that were written. -/
def stackTargetChange (p : PolderId) (l : List Lookup) (full : Bool) (change : Bytes → Option Bytes) (s : State) :
    Option (Status × Bytes × List (Nat × Nat)) × State :=
  match pieceStatuses p l true (!full) s with
  | (none, s) => (none, s)
  | (some sts, s) =>
    let key := polderStackKey s p
    let marked := l.zip sts
    let old := marked.flatMap fun x => if x.2 = .ok then stackRead s key x.1.addr x.1.len else freeBytes x.1.len s
    let s := { s with free := s.free + 4 }
    let good := marked.filter fun x => x.2 = .ok
    let s := if full then s else good.foldl (fun t x => stackCount p x.1.addr x.1.len false t) s
    match change old with
    | none => (some (firstBad sts, old, []), s)
    | some new =>
      let w := marked.foldl (fun (acc : Nat × List (Nat × Nat) × State) x =>
        if x.2 = .ok then
          (acc.1 + x.1.len, acc.2.1 ++ [(acc.1, x.1.len)],
            stackCount p x.1.addr x.1.len true (stackWrite key x.1.addr (slice new acc.1 x.1.len) acc.2.2))
        else (acc.1 + x.1.len, acc.2)) (0, [], s)
      (some (firstBad sts, old, w.2.1), w.2.2)

/-- The Weirs of the parity groups: an access and its metadata lie in groups that no rule names beforehand, so that it
needs all of them (R408; notes/assumptions/71.md). -/
def trayWeirs : List (BitVec 8) := [0, 1, 2, 3, 4, 5, 6, 7]

/-- Whether the Weirs on the way of a request of a class to its memory admit it (R411). -/
def targetAdmits (s : State) (l : List Lookup) (cls : BitVec 4) : Bool :=
  if s.boot.role = .t then trayWeirs.all fun w => weirAdmits s w cls else rangeAdmits s l cls

/-- An access to the tray: it waits while a domain on its way is woken, or a Weir takes nothing (R42, R411). -/
def withTray {α : Type} (access : State → Option α × State) (s : State) : Option α × State :=
  match wakeAll trayDomains s with
  | (true, s) => (none, s)
  | (false, s) => if trayWeirs.all (weirTakes s) then access s else (none, s)

/-- Read a range of a region (R143 check 9); l is what its data units were found to be. -/
def targetRead (p : PolderId) (g : Region) (off len : Nat) (l : List Lookup) (s : State) : Option (Status × Bytes) × State :=
  if s.boot.role = .t then
    match findExtent s (BitVec.ofNat 13 g.index) with
    | some e =>
      (match e.key with
       | some key => withTray (fun s => let x := trayRead e e.location key off len s; (some x.1, x.2)) s
       | none => (none, s))
    | none => (some (.denied, []), s)
  else stackTargetRead p l s

/-- Change a range of a region (R143 check 9); a tray's writes wait while a rekey copies from its location (R123). -/
def targetChange (p : PolderId) (g : Region) (off len : Nat) (full : Bool) (l : List Lookup) (change : Bytes → Option Bytes)
    (s : State) : Option (Status × Bytes × List (Nat × Nat)) × State :=
  if s.boot.role = .t then
    match findExtent s (BitVec.ofNat 13 g.index) with
    | some e =>
      (match e.key with
       | some key =>
         if locState s e.location = .rekeySource then (none, s)
         else withTray (fun s => let x := trayChange e e.location key off len full change s; (some x.1, x.2)) s
       | none => (none, s))
    | none => (some (.denied, [], []), s)
  else stackTargetChange p l full change s

/-! ### Operations -/

/-- The new stored value of an atomic, or none when a compare-and-swap does not match (R146, R147). -/
def atomicNew (m : BitVec 16) (operand old : Bytes) : Option Bytes :=
  let w := atomicWidth m
  let a := leNat old
  let b := leNat operand
  let signed := fun (x : Nat) => (if m.getLsbD 6 && 2 ^ (8 * w - 1) ≤ x then (x : Int) - 2 ^ (8 * w) else x)
  match (m.extractLsb' 0 4).toNat with
  | 0 => some (leBytes w (a + b))
  | 1 => some (leBytes w b)
  | 2 => if a = b % 2 ^ (8 * w) then some (leBytes w (b / 2 ^ (8 * w))) else none
  | 3 => some (leBytes w (if signed a < signed b then b else a))
  | 4 => some (leBytes w (if signed b < signed a then b else a))
  | _ =>
    let t := if m.getLsbD 7 then elementFmt 1 else fmtFp32
    some (leBytes w (encodeFmt t 0 0 false ⟨addVal (decodeFmt t a) (decodeFmt t b), 1⟩).1)

/-- A request that has passed checks 4 and 5 waits to be performed, with what its data units were found to be. -/
def waitMem (r : Released) (l : List Lookup) (s : State) : State :=
  { s with fau := { s.fau with
      memWait := s.fau.memWait ++ [{ rel := r, admitted := true, lookups := l, noRoom := false }] } }

/-- Perform a load that has passed checks 1 to 8, or leave it waiting. -/
def performLoad (r : Released) (g : Region) (seen : List Lookup) (s : State) : State :=
  let off := r.inner.offset.toNat
  let len := coveredBytes r.inner
  let l := targetLookups r.polder g off len false seen s
  if !targetAdmits s l r.cls then waitMem r l s else
  match targetRead r.polder g off len l s with
  | (some (st, b), s) => completeRequest r st 0 (if st = .ok then b else []) s
  | (none, s) => waitMem r l s

/-- Count elements that the RMU has taken into a combination for a polder (R486). -/
def meterElems (p : PolderId) (n : Nat) (s : State) : State := if n = 0 then s else meter p 5 n s

/-- Perform a write that has passed checks 1 to 8, or leave it waiting: new gives the new bytes from the old ones, and
combined the flags and the elements of the parts of the range that are written (R227, R486, R543). Once the data is
written its acknowledgement is awaited; a write of which nothing is written completes at once. -/
def performWriteAt (r : Released) (g : Region) (full : Bool) (new : Bytes → Option Bytes)
    (combined : Bytes → List (Nat × Nat) → BitVec 6 × Nat) (seen : List Lookup) (s : State) : State :=
  let off := r.inner.offset.toNat
  let len := coveredBytes r.inner
  let l := targetLookups r.polder g off len true seen s
  if !targetAdmits s l r.cls then waitMem r l s else
  match targetChange r.polder g off len full l new s with
  | (some (st, old, parts), s) =>
    let f := combined old parts
    let v := BitVec.ofNat 64 (leNat old)
    let s := meterElems r.polder f.2 s
    if !parts.isEmpty then awaitAck r st f.1 v g.index s
    else sendCompletion r st f.1 (oldBytes r st v) (enterAnswer r st f.1 v s)
  | (none, s) => waitMem r l s

/-- The least number of elements that both formats of a reduce hold in whole units: one, or a tile's. -/
def groupElems (m : BitVec 16) : Nat := max (unitElems (redIn m)) (unitElems (redOut m))

/-- Whether any byte of a run of stored bytes was written, of the parts that were. -/
def partWritten (parts : List (Nat × Nat)) (at_ len : Nat) : Bool :=
  parts.any fun d => decide (d.1 < at_ + len) && decide (at_ < d.1 + d.2)

/-- The flags and the number of the elements of a reduce that were combined: those of the stored parts that were written
(R227, R486, R543). DESIGN CHOICE: an MX tile of which a part was not written counts whole (notes/assumptions/79.md). -/
def reduceCombined (m : BitVec 16) (payload old : Bytes) (parts : List (Nat × Nat)) : BitVec 6 × Nat :=
  let n := groupElems m
  let bi := n / unitElems (redIn m) * unitBytes (redIn m)
  let bo := n / unitElems (redOut m) * unitBytes (redOut m)
  let done := (List.range (payload.length / bi)).filter fun j => partWritten parts (bo * j) bo
  (done.foldl (fun a j => a ||| (reduceStored m (slice old (bo * j) bo) (slice payload (bi * j) bi)).2) 0, done.length * n)

/-- Perform a reduce into remote memory (R149, R233). -/
def performReduce (r : Released) (g : Region) (seen : List Lookup) (s : State) : State :=
  let m := r.inner.modifier
  performWriteAt r g false (fun old => some (reduceStored m old r.payload).1) (reduceCombined m r.payload) seen s

/-- Perform a request that has passed checks 1 to 8 by its opcode; a signal is not among them. seen is what its data units were
found to be when it was tried before. -/
def performOn (r : Released) (g : Region) (seen : List Lookup) (s : State) : State :=
  match r.inner.opcode.toNat with
  | 1 => performLoad r g seen s
  | 3 => performWriteAt r g false (atomicNew r.inner.modifier r.payload) (fun _ _ => (0, 0)) seen s
  | 4 => performReduce r g seen s
  | _ => performWriteAt r g true (fun _ => some r.payload) (fun _ _ => (0, 0)) seen s

/-- The increment a signal carries (R145). -/
def signalIncrement (r : Released) : BitVec 32 := BitVec.ofNat 32 (leNat r.payload)

/-- Apply a signal whose hold-back has ended: its answer's status and the state (R150, R263, R264). DESIGN CHOICE: an increment
of 0 to a core whose context is STOPPED is answered as R264 answers it, not as R150 answers an increment of 0
(notes/assumptions/72.md). -/
def applySignal (r : Released) (g : Region) (s : State) : Status × State :=
  let i := g.counterBase + BitVec.ofNat 6 (r.inner.offset.toNat / 4)
  let n := signalIncrement r
  match coreContext s g.core with
  | none => (.denied, targetRefused r 6 .denied s)
  | some c =>
    if c.polder ≠ g.polder then (.denied, targetRefused r 6 .denied s)
    else if c.state = .stopped then (.squashed, s)
    else if n = 0 then (.ok, s)
    else
      let v := syncValue s g.core i
      if 4294967296 ≤ v.toNat + n.toNat then
        (.squashed, syncFault g.core i n .syncOverflow (some r.src) r.inner.seq s)
      else (.ok, changeSync g.core i (v + n) s)

/-- Apply a signal and answer it. -/
def answerSignal (r : Released) (s : State) : State :=
  match findRegion s (keyIndex r.inner.regionKey) with
  | some g => let x := applySignal r g s; completeRequest r x.1 0 [] x.2
  | none => completeRequest r .denied 0 [] s

/-- Put a fence or a signal into the hold queue (R172, R177). -/
def holdRequest (r : Released) (s : State) : State :=
  let s := if r.inner.opcode = 6 then count 0x282 s else s
  { s with fau := { s.fau with
      hold := s.fau.hold ++ [{ rel := r, isFence := r.inner.opcode ≠ 6, at_ := s.time, noRoom := false }] } }

/-- The SCA bank that a signal changes. -/
def signalBank (r : Released) (s : State) : List DomainId :=
  match findRegion s (keyIndex r.inner.regionKey) with
  | some g => if r.inner.opcode = 6 then [scaDomain g.core] else []
  | none => []

/-- The SCA bank that a signal changes serves, or is woken (R42). -/
def signalServed (r : Released) (s : State) : Bool × State :=
  let x := wakeAll (signalBank r s) s
  (!x.1, x.2)

/-- Apply a signal whose hold-back is met and answer it; it is held while its SCA bank is woken. -/
def meetSignal (r : Released) (s : State) : State :=
  match signalServed r s with
  | (true, s) => answerSignal r s
  | (false, s) => holdRequest r s

/-- Perform a request under R143; admitted says that it has passed checks 4 and 5 before. -/
def performRequest (r : Released) (admitted : Bool) (s : State) : State :=
  let i := r.inner
  if s.boot.role = .s || (s.boot.role = .t && i.opcode = 6) then
    completeRequest r .badParam 0 [] (targetRefused r 1 .badParam s)
  else if fenceLike i.opcode i.opLength.toNat then
    if !shapeOk i.opcode i.modifier i.regionKey i.offset i.opLength.toNat then
      completeRequest r .badParam 0 [] (targetRefused r 7 .badParam s)
    else if holdMet r s then completeRequest r .ok 0 [] s
    else holdRequest r s
  else
    match targetChecks r admitted s with
    | (.fail st, s) => completeRequest r st 0 [] s
    | (.wait, s) =>
      { s with fau := { s.fau with
          memWait := s.fau.memWait ++ [{ rel := r, admitted := false, lookups := [], noRoom := false }] } }
    | (.pass g, s) =>
      if i.opcode = 6 then (if holdMet r s then meetSignal r s else holdRequest r s) else performOn r g [] s

/-- Answer a copy of a request already answered (R168, R182). -/
def answerAgain (r : Released) (s : State) : State :=
  if r.inner.opcode = 3 then
    match s.fau.replays.find? fun a => a.polder = r.polder && a.src = r.src && a.seq = r.inner.seq with
    | some a => sendCompletion r a.status 0 (if a.status = .ok then leBytes a.width a.old.toNat else []) s
    | none => count 0x00D s
  else if !logged r then performRequest r false s
  else
    match s.fau.answers.find? fun a =>
      a.polder = r.polder && a.src = r.src && a.dest = relDest r s && a.seq = r.inner.seq with
    | some a => sendCompletion r a.status a.flags [] s
    | none => count 0x00D s

/-- Whether a new fence or signal would find the hold queue full (R178): one that need not be held, for its earlier
numbers or for its SCA bank, takes no room. -/
def holdFull (r : Released) (s : State) : Bool :=
  (r.inner.opcode = 6 || fenceLike r.inner.opcode r.inner.opLength.toNat) && 1024 ≤ s.fau.hold.length
    && !(holdMet r s && (signalBank r s).all (serves s))

/-- Perform a request that waited: one past checks 1 to 8 goes on where it stood (R90, R143). -/
def performWait (w : MemWait) (s : State) : State :=
  if !w.admitted || w.lookups.isEmpty then performRequest w.rel w.admitted s
  else match findRegion s (keyIndex w.rel.inner.regionKey) with
    | some g => performOn w.rel g w.lookups s
    | none => completeRequest w.rel .denied 0 [] s

/-- Perform again every request that waited on a fill, a key, an earlier access, an initialisation, a rekey or room for its
answer, in order; those that must still wait wait on (R87, R92, R123, R167, R181, R201). -/
def retryMemWait (s : State) : State :=
  s.fau.memWait.foldl (fun t w =>
    let keep := fun (w : MemWait) (t : State) => { t with fau := { t.fau with memWait := t.fau.memWait ++ [w] } }
    if isFrozen t w.rel.polder || holdFull w.rel t then keep w t
    else if answerRoom w.rel t then performWait w t
    else keep { w with noRoom := true } (countRoom w.rel w.noRoom t))
    { s with fau := { s.fau with memWait := [] } }

/-- Serve one released request: raise its record, let proceed what that frees, classify it by its number and act (R166 to
R168, R178). One that cannot be held stays where it is; one that cannot be entered in the log or the table waits. -/
def serveRequest (r : Released) (s : State) : State :=
  let s := retryMemWait (raiseRecord r s)
  match seqCase r s with
  | .stale => count 0x00C (dropReleased r s)
  | .inProgress => dropReleased r s
  | .answered => answerAgain r (dropReleased r s)
  | .fresh =>
    if holdFull r s then (if holdMet r s then (signalServed r s).2 else s)
    else
      let s := count 0x281 (setSeen r (dropReleased r s))
      if answerRoom r s then performRequest r false s
      else
        let w : MemWait := { rel := r, admitted := false, lookups := [], noRoom := true }
        countRoom r false { s with fau := { s.fau with memWait := s.fau.memWait ++ [w] } }

/-- Let the FAU serve, where the role has one, or be woken (R42). -/
def withFau (serve : State → State) (s : State) : State :=
  if domainExists s fauDomain then withDomain fauDomain serve s else serve s

/-- Take a region out of the table and free its RTT entries (R142). -/
def removeRegion (g : Region) (s : State) : State :=
  { s with
    fau := { s.fau with
      regions := s.fau.regions.filter fun x => x.index ≠ g.index
      rtt := s.fau.rtt.filter fun x => !(g.rttBase ≤ x.1 && x.1 < g.rttBase + g.rttCount) }
    obj := { s.obj with memobjs := s.obj.memobjs.map fun m => { m with regions := m.regions.filter (· ≠ g.index) } } }

/-- Whether a request past the region check of a region has still to complete (R142). -/
def regionInUse (i : Nat) (s : State) : Bool :=
  (s.fau.unacked.any fun u => u.region = i)
    || (s.fau.hold.any fun h => !h.isFence && keyIndex h.rel.inner.regionKey = i)
    || (s.fau.memWait.any fun w => w.admitted && keyIndex w.rel.inner.regionKey = i)

/-- A held request leaves the hold queue: a fence is answered ST_OK, a signal is applied and answered (R172, R177). It
stays while a signal's SCA bank is woken, and waits while its answer has no room (R42, R167). -/
def releaseHold (h : Held) (s : State) : State :=
  let out := fun (s : State) => { s with fau := { s.fau with hold := s.fau.hold.erase h } }
  if !answerRoom h.rel s then
    countRoom h.rel h.noRoom { s with fau := { s.fau with
      hold := alter (fun x => x = h) (fun x => { x with noRoom := true }) s.fau.hold } }
  else if h.isFence then completeRequest h.rel .ok 0 [] (out s)
  else
    match signalServed h.rel s with
    | (true, s) => answerSignal h.rel (out s)
    | (false, s) => s

/-- Whether a held request may leave the hold queue now: what it waits for is done, and its polder is not frozen (R172,
R177, R420). -/
def holdOver (h : Held) (s : State) : Bool := holdMet h.rel s && !isFrozen s h.rel.polder

/-- A write whose data is acknowledged completes; while its answer finds no room, in the log or in the table, the
acknowledgement waits (R167, R169, R181). noRoom says that it has come and waits. -/
def acknowledged (u : Unacked) (s : State) : State :=
  if !answerRoom u.rel s then
    countRoom u.rel u.noRoom { s with fau := { s.fau with
      unacked := alter (fun x => x = u) (fun x => { x with noRoom := true }) s.fau.unacked } }
  else
    let s := { s with fau := { s.fau with unacked := s.fau.unacked.erase u } }
    sendCompletion u.rel u.status u.flags (oldBytes u.rel u.status u.old) (enterAnswer u.rel u.status u.flags u.old s)

/-- The answers that waited for room try again: acknowledged writes, and held requests (R167, R181). -/
def retryAnswerRoom (s : State) : State :=
  let s := (s.fau.unacked.filter (·.noRoom)).foldl (fun t u => acknowledged u t) s
  (s.fau.hold.filter (·.noRoom)).foldl (fun t h => if holdOver h t then releaseHold h t else t) s

/-! ### Meanings -/

/-- REGION_WITHDRAW_DRAINED (R142): with its admitted requests done, the entry becomes invalid and the command ends. -/
def execRegionWithdrawDrained (index : BitVec 14) (s : State) : Host.Outcome State Fault Refusal :=
  .next <|
    match findRegion s index.toNat with
    | none => s
    | some g => if g.withdrawing && !regionInUse g.index s then settleMemobjs (finishAll g.waiters .ok (removeRegion g s)) else s

end Sys2Proof.Machine
end

