-- ==== Sys2Proof/Machine/Rings.lean ====
section
/-! DEFINITION. Rings: messages, the ring directory, heartbeats and dead members (R185 to R197, R385), and the re-send and
give-up timers that ring requests share with remote operations (R154). -/

namespace Sys2Proof.Machine

/-! ### Rings, members and addresses -/

/-- A ring this block is a member of. -/
def findRingOf (s : State) (r : BitVec 12) : Option Ring := s.rings.rings.find? fun x => x.id = r

/-- A ring this block is a member of, or one destroyed here of which other homes may still snoop this member (R385). -/
def findAnyRing (s : State) (r : BitVec 12) : Option Ring := (s.rings.rings ++ s.rings.retired).find? fun x => x.id = r

/-- Change a ring. -/
def modRingOf (r : BitVec 12) (f : Ring → Ring) (s : State) : State :=
  { s with rings := { s.rings with rings := alter (fun x => x.id = r) f s.rings.rings } }

/-- Change the ring state. -/
def modRings (f : Rings → Rings) (s : State) : State := { s with rings := f s.rings }

/-- The ring that a message names (R188). -/
def messageRing (i : Inner) : BitVec 12 := i.regionKey.extractLsb' 0 12

/-- The home of a ring address (R187). -/
def addrHome (a : BitVec 64) : BitVec 3 := a.extractLsb' 45 3

/-- The line number of a ring address (R187). -/
def addrLine (a : BitVec 64) : BitVec 37 := a.extractLsb' 8 37

/-- The ring address of a line of a home (R187). -/
def lineAddr (home : BitVec 3) (line : BitVec 37) : BitVec 64 :=
  BitVec.ofNat 64 (home.toNat * 2 ^ 45 + line.toNat * 256)

/-- Whether a ring address has its zero bits clear and names a member (R187). -/
def addrValid (r : Ring) (a : BitVec 64) : Bool :=
  a.extractLsb' 48 16 = 0 && a.extractLsb' 0 8 = 0 && (addrHome a).toNat < r.members.length

/-- The instance of a member. -/
def memberInst (r : Ring) (k : BitVec 3) : InstId := r.members.getD k.toNat 0

/-- The member index of an instance. -/
def memberIndex (r : Ring) (i : InstId) : Option (BitVec 3) :=
  match r.members.findIdx? fun x => x = i with
  | some n => some (BitVec.ofNat 3 n)
  | none => none

/-- Whether a member has been declared dead (R195). -/
def memberDead (r : Ring) (k : BitVec 3) : Bool := r.peers.any fun p => p.member = k && p.dead

/-- The unit number of a line's directory bank: 4,096 entries a bank (R36, R432). -/
def ringUnit (ring : BitVec 12) (line : BitVec 37) : BitVec 16 :=
  BitVec.ofNat 16 (0x1200 + ((line.extractLsb' 0 12) ^^^ ring).toNat / 512)

/-- The domain of a line's directory bank (R36). -/
def ringDomain (ring : BitVec 12) (line : BitVec 37) : DomainId :=
  ⟨.ringBank, BitVec.ofNat 8 (((line.extractLsb' 0 12) ^^^ ring).toNat / 512)⟩

/-- Write a RING_HOME_LOST record, which raises POLDER_FATAL (R189, R197). -/
def homeLost (r : Ring) (home : BitVec 3) (cause : Nat) (s : State) : State :=
  writeFault .ringHomeLost
    { unit := 0x1200, status := statusCode .lineLost, polder := r.polder, peer := some (memberInst r home),
      detail := leBytes 2 r.id.toNat ++ [BitVec.ofNat 8 home.toNat, Config.ringCause cause] } s

/-! ### Messages (R188) -/

/-- A ring message as a packet. -/
def ringPacket (r : Ring) (dst : InstId) (msg : BitVec 4) (addr : BitVec 64) (seq : BitVec 32) (ctag : BitVec 16)
    (st : Status) (data : Bytes) (retry : Bool) : TxPacket :=
  { polder := r.polder, dest := destOf false dst, cls := Config.ringClass r.polder, lane := 0,
    kind := if msg.toNat ≤ 7 then 0 else 1, retry := retry,
    inner := { offset := addr, regionKey := BitVec.ofNat 32 r.id.toNat, seq := seq, ctag := ctag,
               opLength := BitVec.ofNat 13 data.length, opcode := 0x0B, classLabel := Config.ringClass r.polder,
               opFlags := 0, modifier := BitVec.ofNat 16 msg.toNat, aux := BitVec.ofNat 32 (statusCode st).toNat },
    payload := data, owner := .ring r.id addr }

/-- Number a ring request to another member, enter it in the tables and seal it; the status of a send that cannot be made
(R189, R537, R538). -/
def sendRingRequest (r : Ring) (k : BitVec 3) (msg : BitVec 4) (addr : BitVec 64) (data : Bytes) (s : State) :
    Option Status × State :=
  let d := destOf false (memberInst r k)
  let n := spaceNext s r.polder d
  let q : RingReq := { ring := r.id, addr := addr, message := msg, member := k, seq := n, data := data,
                       firstTx := none, lastTx := s.time, resends := 0 }
  let s := modRings (fun x => { x with requests := x.requests ++ [q] }) (takeSeq r.polder d s)
  match sendPacket { ringPacket r (memberInst r k) msg addr n 0 .ok data false with owner := .ringRequest r.id k n } s with
  | (none, s) => (none, s)
  | (some st, s) =>
    if msg.toNat ≤ 4 || st = .denied then (some st, modRings (fun x => { x with requests := x.requests.erase q }) s) else (some st, s)

/-- Send the caching agent's request to its home; one that cannot be sent ends at once (R537, R538). -/
def sendLine (r : Ring) (k : BitVec 3) (msg : BitVec 4) (addr : BitVec 64) (data : Bytes) (s : State) : State :=
  match sendRingRequest r k msg addr data s with
  | (none, s) => s
  | (some st, s) => emit (.ringAnswer r.id addr st 0 []) s

/-- Answer a request: to the caching agent when it is this member's own, else by a packet to its sender; state is 1 for a
line granted shared and 2 for one granted modified. -/
def ringReply (r : Ring) (m : Released) (msg : BitVec 4) (st : Status) (state : BitVec 2) (data : Bytes) (s : State) :
    State :=
  if m.src = s.boot.instanceId then emit (.ringAnswer r.id m.inner.offset st state data) s
  else sendQuietly (ringPacket r m.src msg m.inner.offset m.inner.seq m.inner.ctag st data false) s

/-- Answer a request with a status that carries no line. -/
def ringRefuse (r : Ring) (m : Released) (st : Status) (s : State) : State := ringReply r m 9 st 0 [] s

/-- The entry of a line. -/
def findLine (s : State) (ring : BitVec 12) (line : BitVec 37) : Option DirEntry :=
  s.rings.directory.find? fun e => e.ring = ring && e.line = line

/-- Replace a line's entry. -/
def setLine (e : DirEntry) (s : State) : State :=
  modRings (fun x => { x with directory := upsert (fun y => y.ring = e.ring && y.line = e.line) e x.directory }) s

/-- Free a line's entry. -/
def freeLine (ring : BitVec 12) (line : BitVec 37) (s : State) : State :=
  modRings (fun x => { x with directory := x.directory.filter fun e => !(e.ring = ring && e.line = line) }) s

/-- A transaction whose snoops cannot be sent, since this instance is not admitted to the polder, ends with nothing
sent: the request that it serves ends ST_DENIED, and its line stands as it stood (R537). DESIGN CHOICE: a line of a ring
that is being destroyed is freed then (notes/assumptions/33.md). -/
def denyTxn (ring : BitVec 12) (line : BitVec 37) (s : State) : State :=
  let refuse := fun (m : Released) (s : State) => match findRingOf s (messageRing m.inner) with
    | some r => ringRefuse r m .denied s
    | none => s
  match s.rings.txns.find? fun t => t.ring = ring && t.line = line with
  | none => s
  | some t =>
    let s := modRings (fun x => { x with txns := x.txns.erase t }) s
    let free := fun (s : State) => match findLine s ring line with
      | some e => setLine { e with busy := false } s
      | none => s
    match t.goal with
    | .destroy => freeLine ring line s
    | .serve m => refuse m (free s)
    | .makeRoom m => refuse m (free s)

/-- Number a snoop and send it; one that may not be sent ends its transaction (R189, R537). -/
def numberSnoop (r : Ring) (k : BitVec 3) (msg : BitVec 4) (addr : BitVec 64) (s : State) : State :=
  match sendRingRequest r k msg addr [] s with
  | (some .denied, s) => denyTxn r.id (addrLine addr) s
  | (_, s) => s

/-- Send a snoop of a line to a member: to this instance's own caching agent, or by a request, which may have to wait for a
number (R163, R188, R189). -/
def sendSnoop (r : Ring) (line : BitVec 37) (k : BitVec 3) (msg : BitVec 4) (s : State) : State :=
  let addr := lineAddr r.own line
  if k = r.own then
    let m : Released :=
      { polder := r.polder, src := s.boot.instanceId, group := none, sid := 0, epoch := 0, counter := 0, kind := 0,
        cls := Config.ringClass r.polder, retry := false,
        inner := (ringPacket r s.boot.instanceId msg addr 0 0 .ok [] false).inner, payload := [] }
    emit (.snoop r.id addr msg) (modRings (fun x => { x with snoops := x.snoops ++ [m] }) s)
  else if spaceOpen s r.polder (destOf false (memberInst r k)) then numberSnoop r k msg addr s
  else
    count 0x009 (modRings (fun x => { x with
      snoopWait := x.snoopWait ++ [{ ring := r.id, member := k, message := msg, addr := addr }] }) s)

/-! ### Home memory (R186) -/

/-- What an access to home memory comes to; wait says that a fill, a key or a rekey holds it. -/
inductive HomeUse where
  | wait
  | ended (status : Status) (data : Bytes)
  deriving DecidableEq, Repr

/-- The plot, or extent ID, of home memory that holds a line, if any. -/
def homeUnit (r : Ring) (line : BitVec 37) (bytes : Nat) : Option (BitVec 16) := r.home[256 * line.toNat / bytes]?

/-- Read or write a line of home memory: through the SCE in role E, through the PIE in role T (R186, R192). A home extent whose
lease has ended, or that another polder now holds, answers ST_REVOKED, and POLDER_FATAL is raised. -/
def homeAccess (r : Ring) (line : BitVec 37) (data : Option Bytes) (s : State) : HomeUse × State :=
  if s.boot.role = .t then
    match (homeUnit r line 1073741824).bind fun x => findExtent s (BitVec.ofNat 13 x.toNat) with
    | none => (.ended .badParam [], s)
    | some e =>
      if e.polder ≠ r.polder then (.ended .revoked [], homeLost r r.own 2 s)
      else
        match leaseCheck e s, e.key with
        | (.pass, s), some key =>
          let off := 256 * line.toNat % 1073741824
          let access := fun (s : State) => match data with
            | none => let x := trayRead e e.location key off 256 s; (some x.1, x.2)
            | some b => let x := trayChange e e.location key off 256 true (fun _ => some b) s; (some (x.1.1, []), x.2)
          if data.isSome && locState s e.location = .rekeySource then (.wait, s)
          else
            match withTray access s with
            | (some x, s) => (.ended x.1 x.2, s)
            | (none, s) => (.wait, s)
        | (.revoked, s), _ => (.ended .revoked [], homeLost r r.own 2 s)
        | (_, s), _ => (.wait, s)
  else
    match homeUnit r line 16777216, findPolder s r.polder with
    | some plot, some q =>
      let addr := plot.toNat * 16777216 + 256 * line.toNat % 16777216
      let seen := keptLookups s (.home r.id line) addr 256 data.isSome
      let l := if seen.isEmpty then lookUp s q [(addr, 256)] data.isSome else seen
      let keep := keepLookups (.home r.id line) q.id addr 256 data.isSome
      match data with
      | none =>
        (match stackTargetRead q.id l s with
         | (some x, s) => (.ended x.1 x.2, keep [] s)
         | (none, s) => (.wait, keep l s))
      | some b =>
        (match stackTargetChange q.id l true (fun _ => some b) s with
         | (some x, s) => (.ended x.1 [], keep [] s)
         | (none, s) => (.wait, keep l s))
    | _, _ => (.ended .badParam [], s)

/-! ### The directory (R190) -/

/-- The set of a line (R190). -/
def lineSet (ring : BitVec 12) (line : BitVec 37) : BitVec 12 := line.extractLsb' 0 12 ^^^ ring

/-- The entries of a set. -/
def setEntries (s : State) (i : BitVec 12) : List DirEntry := s.rings.directory.filter fun e => lineSet e.ring e.line = i

/-- Enter a line in the directory (R193). -/
def allocLine (ring : BitVec 12) (line : BitVec 37) (state : LineState) (sharers : BitVec 8) (owner : BitVec 3)
    (s : State) : State :=
  modRings (fun x => { x with
    directory := x.directory ++ [{ ring := ring, line := line, state := state, busy := false, sharers := sharers,
                                   owner := owner, order := x.nextOrder }]
    nextOrder := x.nextOrder + 1 }) s

/-- The bit of a member in a sharer set. -/
def memberBit (k : BitVec 3) : BitVec 8 := BitVec.ofNat 8 (2 ^ k.toNat)

/-- The members of a sharer set. -/
def sharersOf (b : BitVec 8) : List (BitVec 3) := ((List.range 8).filter fun i => b.getLsbD i).map (BitVec.ofNat 3)

/-- Start a transaction on a line: busy, with the snoops it waits for (R191, R192). -/
def startTxn (r : Ring) (e : DirEntry) (invalidate : List (BitVec 3)) (recalled : Option (BitVec 3 × BitVec 4))
    (goal : RingGoal) (s : State) : State :=
  let t : RingTxn := { ring := e.ring, line := e.line, acks := invalidate, data := recalled.map (·.1), answered := false, goal := goal }
  let s := setLine { e with busy := true } (modRings (fun x => { x with txns := x.txns ++ [t] }) s)
  let s := invalidate.foldl (fun t k => sendSnoop r e.line k 5 t) s
  match recalled with
  | some x => sendSnoop r e.line x.1 x.2 s
  | none => s

/-- Clear a line through its sharers or its owner, for a goal (R193, R385). -/
def clearLine (r : Ring) (e : DirEntry) (goal : RingGoal) (s : State) : State :=
  match e.state with
  | .modified => startTxn r e [] (some (e.owner, 6)) goal s
  | _ => startTxn r e (sharersOf e.sharers) none goal s

/-! ### Serving requests at the home (R191 to R193) -/

/-- Leave a request waiting at the home. -/
def keepWaiting (m : Released) (s : State) : State := modRings (fun x => { x with waiting := x.waiting ++ [m] }) s

/-- The entry that a line keeps for the request that is to take it, while no member holds the line, goes when that
request ends without it (R192). -/
def dropHeld (ring : BitVec 12) (line : BitVec 37) (s : State) : State :=
  match findLine s ring line with
  | some e =>
    if e.state = .shared && e.sharers = 0 && !s.rings.txns.any (fun t => t.ring = ring && t.line = line) then freeLine ring line s
    else s
  | none => s

/-- Grant a line with its data, then enter the new state: the state held by upd. A request that cannot read home memory
ends with that status (R92, R117). -/
def grantLine (r : Ring) (m : Released) (line : BitVec 37) (state : BitVec 2) (upd : State → State) (s : State) : State :=
  match homeAccess r line none s with
  | (.wait, s) => keepWaiting m s
  | (.ended .ok data, s) => ringReply r m 8 .ok state data (upd s)
  | (.ended st _, s) => ringRefuse r m st (dropHeld r.id line s)

/-- Serve a request on a line that needs an entry (R192, R193). -/
def serveUncached (r : Ring) (k : BitVec 3) (m : Released) (line : BitVec 37) (shared : Bool) (s : State) : State :=
  let set := setEntries s (lineSet r.id line)
  if set.length < 8 then
    grantLine r m line (if shared then 1 else 2)
      (fun t => allocLine r.id line (if shared then .shared else .modified) (if shared then memberBit k else 0) k t) s
  else if set.all fun e => e.state = .lost then ringRefuse r m .exhausted s
  else
    let free := set.filter fun e => !e.busy && e.state ≠ .lost
    let oldest := free.foldl (fun (b : Option DirEntry) e => match b with
      | none => some e
      | some x => if e.order < x.order then some e else b) none
    match oldest with
    | none => keepWaiting m s
    | some e =>
      match findRingOf s e.ring with
      | some q => count 0x284 (clearLine q e (.makeRoom m) s)
      | none => keepWaiting m s

/-- Serve a request on a line in state S (R192). -/
def serveShared (r : Ring) (k : BitVec 3) (m : Released) (e : DirEntry) (s : State) : State :=
  let holds := e.sharers.getLsbD k.toNat
  let others := (sharersOf e.sharers).filter (· ≠ k)
  let own := fun (t : State) => setLine { e with state := .modified, busy := false, sharers := 0, owner := k } t
  match m.inner.modifier.toNat with
  | 0 => grantLine r m e.line 1 (fun t => setLine { e with busy := false, sharers := e.sharers ||| memberBit k } t) s
  | 4 =>
    if !holds then ringReply r m 9 .ok 0 [] s
    else
      let left := e.sharers &&& ~~~ memberBit k
      ringReply r m 9 .ok 0 [] (if left = 0 then freeLine e.ring e.line s else setLine { e with sharers := left } s)
  | 3 => ringReply r m 9 .ok 0 [] s
  | _ =>
    if !others.isEmpty then startTxn r e others none (.serve m) s
    else if m.inner.modifier = 2 && holds then ringReply r m 9 .ok 2 [] (own s)
    else grantLine r m e.line 2 own s

/-- Serve a request on a line in state M (R192). A request of the owner for the line it holds is granted again. -/
def serveModified (r : Ring) (k : BitVec 3) (m : Released) (e : DirEntry) (s : State) : State :=
  match m.inner.modifier.toNat with
  | 3 =>
    if e.owner ≠ k then ringReply r m 9 .ok 0 [] s
    else
      (match homeAccess r e.line (some m.payload) s with
       | (.wait, s) => keepWaiting m s
       | (.ended st _, s) => ringReply r m 9 st 0 [] (freeLine e.ring e.line s))
  | 4 => ringReply r m 9 .ok 0 [] s
  | 0 =>
    if e.owner = k then grantLine r m e.line 2 id s else startTxn r e [] (some (e.owner, 7)) (.serve m) s
  | _ => if e.owner = k then grantLine r m e.line 2 id s else startTxn r e [] (some (e.owner, 6)) (.serve m) s

/-- Whether a message is of a line. -/
def ofLine (ring : BitVec 12) (line : BitVec 37) (m : Released) : Bool :=
  messageRing m.inner = ring && addrLine m.inner.offset = line

/-- Whether a line has a transaction in progress, or a request that waits for room in its set (R191, R193). -/
def lineBusy (s : State) (ring : BitVec 12) (line : BitVec 37) : Bool :=
  s.rings.txns.any fun t => (t.ring = ring && t.line = line) || match t.goal with
    | .makeRoom m => ofLine ring line m
    | _ => false

/-- Serve a request at the home by the state of its line; one that finds the line busy, or its bank without power, waits (R42,
R191, R192). -/
def serveLine (m : Released) (s : State) : State :=
  match findRingOf s (messageRing m.inner) with
  | none => s
  | some r =>
    match memberIndex r m.src with
    | none => s
    | some k =>
      let line := addrLine m.inner.offset
      if memberDead r k then ringRefuse r m .lineLost (dropHeld r.id line s)
      else if r.destroying.isSome then ringRefuse r m .badParam (dropHeld r.id line s)
      else if lineBusy s r.id line || s.rings.waiting.any (ofLine r.id line) then keepWaiting m s
      else if !serves s (ringDomain r.id line) then wakeDomain (ringDomain r.id line) (keepWaiting m s)
      else
        match findLine s r.id line with
        | none =>
          if m.inner.modifier = 3 || m.inner.modifier = 4 then ringReply r m 9 .ok 0 [] s
          else serveUncached r k m line (m.inner.modifier = 0) s
        | some e =>
          match e.state with
          | .shared => serveShared r k m e s
          | .modified => serveModified r k m e s
          | .lost => ringRefuse r m .lineLost s

/-- Try every waiting request once, in order (R191). -/
def pumpRings (s : State) : State :=
  s.rings.waiting.foldl (fun t m => serveLine m t) (modRings (fun x => { x with waiting := [] }) s)

/-- A ring is no more: its home memory's RTT entries are free again (R186). -/
def dropRing (r : Ring) (s : State) : State :=
  let s := modRings (fun y => { y with rings := y.rings.filter fun q => q.id ≠ r.id }) s
  { s with fau := { s.fau with rtt := s.fau.rtt.filter fun x => !(r.rttBase ≤ x.1 && x.1 < r.rttBase + r.home.length) } }

/-- A ring that is destroyed here: it is no more, but the snoops of its other homes still find this member (R385). -/
def retireRing (r : Ring) (s : State) : State :=
  modRings (fun y => { y with retired := (y.retired.filter fun q => q.id ≠ r.id) ++ [{ r with destroying := none }] }) (dropRing r s)

/-- A ring being destroyed: begin on the entries that are free, and end when none remains (R385). -/
def destroyStep (r : Ring) (s : State) : State :=
  let s := (s.rings.directory.filter fun e => e.ring = r.id && !e.busy).foldl (fun t e =>
    if e.state = .lost then freeLine e.ring e.line t else clearLine r e .destroy t) s
  if s.rings.directory.any fun e => e.ring = r.id then s
  else
    match r.destroying with
    | some l => finishAll l .ok (retireRing r s)
    | none => s

/-- The waits of a transaction are over: its line takes the state they leave, and its goal goes on (R192, R193, R385). A
line that no member holds any more keeps its entry, busy, for the request that takes it, so that its place in allocation
order stays. lost says that the owner died before its data came. -/
def finishTxn (t : RingTxn) (lost : Bool) (s : State) : State :=
  let s := modRings (fun x => { x with txns := x.txns.erase t }) s
  let s := match findLine s t.ring t.line with
    | none => s
    | some e =>
      if lost then setLine { e with state := .lost, busy := false, sharers := 0 } s
      else
        match t.goal with
        | .serve m =>
          let k := ((findRingOf s t.ring).bind fun r => memberIndex r m.src).getD 0
          (match e.state with
           | .modified =>
             if m.inner.modifier = 0 then
               setLine { e with state := .shared, busy := false, sharers := memberBit e.owner } s
             else setLine { e with state := .shared, busy := true, sharers := 0 } s
           | _ => setLine { e with busy := decide (e.sharers &&& memberBit k = 0), sharers := e.sharers &&& memberBit k } s)
        | _ => freeLine t.ring t.line s
  let s := match t.goal with
    | .serve m => pumpRings (modRings (fun x => { x with waiting := m :: x.waiting }) s)
    | .makeRoom m => pumpRings (modRings (fun x => { x with waiting := m :: x.waiting }) s)
    | .destroy => pumpRings s
  match findRingOf s t.ring with
  | some r => if r.destroying.isSome then destroyStep r s else s
  | none => s

/-- Settle one member's wait of the transaction on a line (R192, R196). -/
def settleTxn (ring : BitVec 12) (line : BitVec 37) (k : BitVec 3) (lost : Bool) (s : State) : State :=
  match s.rings.txns.find? fun t => t.ring = ring && t.line = line with
  | none => s
  | some t =>
    let u : RingTxn := { t with acks := t.acks.filter (· ≠ k), data := if t.data = some k then none else t.data }
    let s := modRings (fun x => { x with txns := alter (fun y => y = t) (fun _ => u) x.txns }) s
    if u.acks.isEmpty && u.data.isNone then finishTxn u (lost && t.data = some k) s else s

/-- A member answers a snoop (R192): an ACK for which the home waits ends that wait; data for which it waits is written
to home memory first. False when home memory must be waited for. DESIGN CHOICE: where the home waits for data and the
member answers without, its WRITE_BACK of the line, which waits at the home or is still to come, brings the data
(notes/assumptions/33.md). -/
def snoopAnswered (r : Ring) (line : BitVec 37) (k : BitVec 3) (data : Option Bytes) (s : State) : Bool × State :=
  let mine := fun (t : RingTxn) => t.ring = r.id && t.line = line && t.data = some k
  let sent := fun (w : Released) => ofLine r.id line w && w.inner.modifier = 3 && w.src = memberInst r k
  if !s.rings.txns.any mine then (true, settleTxn r.id line k false s)
  else
    match data.or ((s.rings.waiting.find? sent).map (·.payload)) with
    | none => (true, modRings (fun x => { x with txns := alter (fun t => mine t) (fun t => { t with answered := true }) x.txns }) s)
    | some b =>
      match homeAccess r line (some b) s with
      | (.wait, s) => (false, s)
      | (.ended _ _, s) => (true, settleTxn r.id line k false s)

/-! ### Requests from members (R188, R189, R195) -/

/-- The first ring packet of a message type. -/
def nextRing (s : State) (msg : Nat) : Option Released :=
  s.link.inbox.find? fun r => r.inner.opcode = 0x0B && r.inner.modifier.toNat = msg

/-- Answer a copy of a request that the home has answered: the GRANT again while the requester holds the line in the state
granted, else nothing (R189). A copy whose GRANT waits for home memory is judged again then. -/
def homeAgain (r : Ring) (m : Released) (s : State) : State :=
  match memberIndex r m.src, findLine s r.id (addrLine m.inner.offset) with
  | some k, some e =>
    let shared := m.inner.modifier = 0 && e.state = .shared && e.sharers.getLsbD k.toNat
    let owned := (m.inner.modifier = 1 || m.inner.modifier = 2) && e.state = .modified && e.owner = k
    if shared || owned then
      (match homeAccess r e.line none s with
       | (.ended .ok data, s) => ringReply r m 8 .ok (if shared then 1 else 2) data s
       | (.wait, s) => modRings (fun x => { x with again := x.again ++ [m] }) s
       | (_, s) => s)
    else s
  | _, _ => s

/-- Whether a message names an active ring of its polder and an address of it, and comes from a member. -/
def ringAdmits (m : Released) (s : State) : Option Ring :=
  match findRingOf s (messageRing m.inner) with
  | some r =>
    if r.active && r.polder = m.polder && (memberIndex r m.src).isSome && addrValid r m.inner.offset then some r else none
  | none => none

/-- A ring that refuses a message it cannot place: only its identity is used for the answer. -/
def strayRing (m : Released) : Ring :=
  { id := messageRing m.inner, polder := m.polder, members := [m.src], own := 0, home := [], active := false,
    heartbeat := 0, sentAt := 0, peers := [], destroying := none, rttBase := 0 }

/-- The ring whose member, declared dead, a message comes from (R195). -/
def deadSender (m : Released) (s : State) : Option Ring :=
  match findRingOf s (messageRing m.inner) with
  | some r => if r.polder = m.polder && (memberIndex r m.src).any (memberDead r) then some r else none
  | none => none

/-- Take a request of a member: classified by its number, then served at the home (R168, R189, R191). One from a dead member,
a copy too, is answered ST_LINE_LOST (R195). -/
def homeRequest (msg : Nat) (s : State) : State :=
  match nextRing s msg with
  | none => s
  | some m =>
    if !running s then s
    else
      let s := retryMemWait (dropReleased m (raiseRecord m s))
      match deadSender m s, seqCase m s with
      | some r, _ => ringRefuse r m .lineLost s
      | none, .stale => count 0x00C s
      | none, .inProgress => s
      | none, .answered =>
        (match ringAdmits m s with | some r => homeAgain r m s | none => s)
      | none, .fresh =>
        let s := setSeen m s
        match ringAdmits m s with
        | none => ringRefuse (strayRing m) m .badParam s
        | some r =>
          if addrHome m.inner.offset ≠ r.own then ringRefuse r m .badParam s
          else count 0x283 (serveLine m s)

/-- The copies whose GRANT waited for home memory are judged again (R189). -/
def retryAgain (s : State) : State :=
  s.rings.again.foldl (fun t m => match ringAdmits m t with | some r => homeAgain r m t | none => t)
    (modRings (fun x => { x with again := [] }) s)

/-- The ring of a snoop: an active one, or one destroyed here, of its polder and an address of it, from a member (R385). -/
def snoopRing (m : Released) (s : State) : Option Ring :=
  (findAnyRing s (messageRing m.inner)).filter fun r =>
    r.active && r.polder = m.polder && (memberIndex r m.src).isSome && addrValid r m.inner.offset

/-- Answer a snoop for the home, logging the answer (R189). -/
def answerSnoop (r : Ring) (m : Released) (data : Option Bytes) (s : State) : State :=
  let s := { s with fau := { s.fau with
    answers := s.fau.answers ++ [{ polder := m.polder, src := m.src, dest := relDest m s, seq := m.inner.seq, status := .ok,
                                   flags := 0, data := data.getD [], at_ := s.time }] } }
  match data with
  | some b => ringReply r m 0xA .ok 0 (padTo 256 b) s
  | none => ringReply r m 9 .ok 0 [] s

/-- The caching agent's answer to a snoop: for this home its data goes to home memory, for another's it is logged and sent. One
that finds no memory, or no room in the log, waits (R167, R189, R192). -/
def takeReply (s : State) (x : SnoopReply) : State :=
  let m := x.snoop
  let wait := fun (y : SnoopReply) (t : State) => modRings (fun z => { z with replies := z.replies ++ [y] }) t
  let drop := fun (t : State) => modRings (fun y => { y with snoops := y.snoops.erase m }) t
  match findAnyRing s (messageRing m.inner) with
  | none => drop s
  | some r =>
    if m.src = s.boot.instanceId then
      match snoopAnswered r (addrLine m.inner.offset) r.own x.data s with
      | (true, s) => drop s
      | (false, s) => wait x s
    else if s.fau.answers.length < 65536 then answerSnoop r m x.data (drop s)
    else wait { x with noRoom := true } (if x.noRoom then s else count 0x00A s)

/-- Take the answers to snoops that waited again. -/
def retryReplies (s : State) : State :=
  s.rings.replies.foldl takeReply (modRings (fun x => { x with replies := [] }) s)

/-- Take a snoop of the home: classified by its number and put to the caching agent (R168, R188, R189). -/
def memberSnoop (msg : Nat) (s : State) : State :=
  match nextRing s msg with
  | none => s
  | some m =>
    if !running s then s
    else
      let s := retryMemWait (dropReleased m (raiseRecord m s))
      match deadSender m s, seqCase m s with
      | some r, _ => ringRefuse r m .lineLost s
      | none, .stale => count 0x00C s
      | none, .inProgress => s
      | none, .answered =>
        (match s.fau.answers.find? fun a =>
            a.polder = m.polder && a.src = m.src && a.dest = relDest m s && a.seq = m.inner.seq with
         | none => count 0x00D s
         | some a =>
           if a.data.isEmpty then ringReply (strayRing m) m 9 a.status 0 [] s
           else ringReply (strayRing m) m 0xA .ok 0 (padTo 256 a.data) s)
      | none, .fresh =>
        let s := setSeen m s
        match snoopRing m s with
        | none => ringRefuse (strayRing m) m .badParam s
        | some r =>
          if some (addrHome m.inner.offset) ≠ memberIndex r m.src then ringRefuse r m .badParam s
          else
            emit (.snoop r.id m.inner.offset (BitVec.ofNat 4 msg)) (modRings (fun x => { x with snoops := x.snoops ++ [m] }) s)

/-! ### Answers to members and homes (R188) -/

/-- The ring request that a response answers. -/
def answeredRing (m : Released) (s : State) : Option (Ring × RingReq) :=
  match findAnyRing s (messageRing m.inner) with
  | none => none
  | some r =>
    if r.polder ≠ m.polder || (memberIndex r m.src).any (memberDead r) then none
    else
      match s.rings.requests.find? fun q => q.ring = r.id && q.seq = m.inner.seq && memberInst r q.member = m.src with
      | some q => some (r, q)
      | none => none

/-- Take a ring request out of the tables. -/
def dropRingReq (q : RingReq) (s : State) : State := modRings (fun x => { x with requests := x.requests.erase q }) s

/-- The status that a response carries (R54). -/
def responseStatus (m : Released) : Status := (statusOf (m.inner.aux.extractLsb' 0 8).toNat).getD .badParam

/-- Send the snoops and the caching agent's requests that waited for a number (R163, R189). -/
def pumpLines (s : State) : State :=
  let s := s.rings.snoopWait.foldl (fun t x =>
    match findRingOf t x.ring with
    | none => t
    | some r =>
      if spaceOpen t r.polder (destOf false (memberInst r x.member)) then
        numberSnoop r x.member x.message x.addr t
      else modRings (fun y => { y with snoopWait := y.snoopWait ++ [x] }) t)
    (modRings (fun y => { y with snoopWait := [] }) s)
  s.rings.lineWait.foldl (fun t x =>
    match findRingOf t x.1 with
    | none => emit (.ringAnswer x.1 x.2.2.1 .badParam 0 []) t
    | some r =>
      let k := addrHome x.2.2.1
      if memberDead r k then emit (.ringAnswer r.id x.2.2.1 .lineLost 0 []) t
      else if spaceOpen t r.polder (destOf false (memberInst r k)) then sendLine r k x.2.1 x.2.2.1 x.2.2.2 t
      else modRings (fun y => { y with lineWait := y.lineWait ++ [x] }) t)
    (modRings (fun y => { y with lineWait := [] }) s)

/-- End a line request of the caching agent with the answer that has come. -/
def endLine (r : Ring) (q : RingReq) (st : Status) (data : Bytes) (s : State) : State :=
  let state : BitVec 2 := if st ≠ .ok then 0 else match q.message.toNat with | 0 => 1 | 1 | 2 => 2 | _ => 0
  pumpLines (emit (.ringAnswer r.id q.addr st state data) (dropRingReq q s))

/-- A response of one type: it ends a line request of this member, or settles a snoop of this home; a response that matches
nothing is counted and discarded (R153, R188, R192). -/
def ringResponse (msg : Nat) (s : State) : State :=
  match nextRing s msg with
  | none => s
  | some m =>
    match answeredRing m s with
    | none => count 0x00E (dropReleased m s)
    | some (r, q) =>
      if q.message.toNat ≤ 4 then
        if msg = 0xA then count 0x00E (dropReleased m s)
        else endLine r q (responseStatus m) m.payload (dropReleased m s)
      else if msg = 8 || (msg = 0xA && q.message = 5) then count 0x00E (dropReleased m s)
      else
        let s := dropRingReq q (dropReleased m s)
        let data := if msg = 0xA then some m.payload else none
        pumpLines <|
          match snoopAnswered r (addrLine q.addr) q.member data s with
          | (true, s) => s
          | (false, s) =>
            modRings (fun x => { x with
              backs := x.backs ++ [{ ring := r.id, line := addrLine q.addr, member := q.member, data := data }] }) s

/-- The transactions whose data a WRITE_BACK was to bring take it once it waits at the home (R192). -/
def settleLate (s : State) : State :=
  (s.rings.txns.filter (·.answered)).foldl (fun t x => match x.data, findRingOf t x.ring with
    | some k, some r => (snoopAnswered r x.line k none t).2
    | _, _ => t) s

/-- Take the members' answers that waited for home memory again (R192). -/
def retryBacks (s : State) : State :=
  settleLate <| s.rings.backs.foldl (fun t x =>
    match findRingOf t x.ring with
    | none => t
    | some r =>
      match snoopAnswered r x.line x.member x.data t with
      | (true, t) => t
      | (false, t) => modRings (fun y => { y with backs := y.backs ++ [x] }) t)
    (modRings (fun y => { y with backs := [] }) s)

/-- The rings that are being destroyed go on (R385). -/
def settleDestroys (s : State) : State :=
  (s.rings.rings.filter fun r => r.destroying.isSome).foldl (fun t r => match findRingOf t r.id with
    | some x => destroyStep x t
    | none => t) s

/-! ### Heartbeats and dead members (R194 to R197) -/

/-- The lines of this home that a dead member leaves: those it held modified are LOST, it leaves every sharer set, and the
transactions that wait on it are settled (R196). The number of lines made LOST is the second value. -/
def settleDead (r : Ring) (k : BitVec 3) (s : State) : State × Nat :=
  let owned := s.rings.directory.filter fun e => e.ring = r.id && e.state = .modified && e.owner = k
  let busy := s.rings.txns.filter fun t => t.ring = r.id && (t.acks.contains k || t.data = some k)
  let lose := fun (e : DirEntry) =>
    if e.ring ≠ r.id then e
    else if e.state = .modified && e.owner = k && !e.busy then { e with state := .lost, sharers := 0 }
    else { e with sharers := e.sharers &&& ~~~ memberBit k }
  let gone := fun (e : DirEntry) => e.ring = r.id && e.state = .shared && e.sharers = 0 && !e.busy
  let s := modRings (fun x => { x with directory := (x.directory.map lose).filter fun e => !gone e }) s
  (busy.foldl (fun t y => settleTxn y.ring y.line k true t) s, owned.length)

/-- Declare a member dead: final for the life of the ring (R195 to R197). A RING_MEMBER_DEAD record is written where this
member is a home, and a RING_HOME_LOST record where it used the dead one as a home. -/
def declareDead (r : Ring) (k : BitVec 3) (s : State) : State :=
  if memberDead r k || k = r.own then s
  else
    let mark := fun (p : RingPeer) => if p.member = k then { p with dead := true } else p
    let s := modRingOf r.id (fun x => { x with peers := x.peers.map mark }) s
    let mine := s.rings.requests.filter fun q => q.ring = r.id && q.member = k
    let s := modRings (fun x => { x with
      requests := x.requests.filter fun q => !(q.ring = r.id && q.member = k)
      snoopWait := x.snoopWait.filter fun q => !(q.ring = r.id && q.member = k)
      backs := x.backs.filter fun q => !(q.ring = r.id && q.member = k) }) s
    let asked := mine.filter fun q => q.message.toNat ≤ 4
    let s := asked.foldl (fun t q => emit (.ringAnswer r.id q.addr .lineLost 0 []) t) s
    let x := settleDead r k s
    let s := if r.home.isEmpty then x.1 else
      writeFault .ringMemberDead
        { unit := 0x1200, polder := r.polder, peer := some (memberInst r k), count := x.2,
          detail := leBytes 2 r.id.toNat ++ [BitVec.ofNat 8 k.toNat] } x.1
    let s := if r.home.isEmpty || !asked.isEmpty then homeLost r k 1 s else s
    pumpLines s

/-- Activate a ring at its mark: the heartbeat watch of every member starts at this Datum (R185, R194). -/
def activateRing (r : BitVec 12) (s : State) : State :=
  let d := s.datum.value.toNat
  modRingOf r (fun x => { x with active := true, sentAt := d, peers := x.peers.map fun p => { p with at_ := d } }) s

/-- What a member knows of the others when a ring is created. -/
def newPeers (members : Nat) (own : BitVec 3) : List RingPeer :=
  ((List.range members).filter fun i => i ≠ own.toNat).map fun i =>
    { member := BitVec.ofNat 3 i, last := none, at_ := 0, dead := false }

/-- A line request of the caching agent: it goes to the home, which may be this instance (R188, R197, R385). -/
def arriveLine (ring : BitVec 12) (message : BitVec 4) (addr : BitVec 64) (data : Bytes) (s : State) : State :=
  let refuse := fun (st : Status) (t : State) => emit (.ringAnswer ring addr st 0 []) t
  match findRingOf s ring with
  | none => refuse .badParam s
  | some r =>
    let k := addrHome addr
    let gone := match findPolder s r.polder with | some p => p.teardown.isSome | none => true
    if gone then refuse .squashed s
    else if !r.active || r.destroying.isSome || !addrValid r addr || 4 < message.toNat
        || data.length ≠ (if message = 3 then 256 else 0) then refuse .badParam s
    else if memberDead r k then homeLost r k 1 (refuse .lineLost s)
    else if k = r.own then
      count 0x283 (serveLine
        { polder := r.polder, src := s.boot.instanceId, group := none, sid := 0, epoch := 0, counter := 0, kind := 0,
          cls := Config.ringClass r.polder, retry := false,
          inner := (ringPacket r s.boot.instanceId message addr 0 0 .ok data false).inner, payload := data } s)
    else if spaceOpen s r.polder (destOf false (memberInst r k)) then sendLine r k message addr data s
    else count 0x009 (modRings (fun x => { x with lineWait := x.lineWait ++ [(ring, message, addr, data)] }) s)

/-- The domain that takes a line request: the line's bank at its home, the FAU elsewhere (R42). -/
def lineDomain (s : State) (ring : BitVec 12) (addr : BitVec 64) : DomainId :=
  match findRingOf s ring with
  | some r => if addrHome addr = r.own then ringDomain ring (addrLine addr) else fauDomain
  | none => fauDomain

/-- A ring request that is given up ends with ST_TIMEOUT to the caching agent and raises POLDER_FATAL (R189). -/
def giveUpRing (r : Ring) (q : RingReq) (s : State) : State :=
  homeLost r q.member 0 (if q.message.toNat ≤ 4 then endLine r q .timeout [] s else dropRingReq q s)

/-! ### Meanings -/

/-- RING_HEARTBEAT (R194, R195): accepted when its sequence follows the last one accepted, else discarded and counted. -/
def execRingHeartbeat (s : State) : Host.Outcome State Fault Refusal :=
  .next <|
    match nextReleased s 0x0C 0 with
    | none => s
    | some m =>
      let s := dropReleased m s
      match findRingOf s (messageRing m.inner) with
      | none => count 0x285 s
      | some r =>
        match r.peers.find? fun p => memberInst r p.member = m.src with
        | none => count 0x285 s
        | some p =>
          let follows := match p.last with | some n => serialLt n m.inner.aux | none => true
          if !r.active || r.polder ≠ m.polder || p.dead || !follows then count 0x285 s
          else
            let take := fun (x : RingPeer) =>
              if x.member = p.member then { x with last := some m.inner.aux, at_ := s.datum.value.toNat } else x
            modRingOf r.id (fun x => { x with peers := x.peers.map take }) s

/-- HEARTBEAT_SEND (R194): every 100 µs of Datum, one heartbeat to every other member. -/
def execHeartbeatSend (ring : BitVec 12) (s : State) : Host.Outcome State Fault Refusal :=
  .next <|
    match findRingOf s ring with
    | none => s
    | some r =>
      if !r.active || s.datum.value.toNat < r.sentAt + 100000 then s
      else
        let s := modRingOf ring (fun x => { x with heartbeat := x.heartbeat + 1, sentAt := s.datum.value.toNat }) s
        let cls := Config.ringClass r.polder
        r.peers.foldl (fun t p => sendQuietly
          { polder := r.polder, dest := destOf false (memberInst r p.member), cls := cls, lane := 0, kind := 0,
            retry := false,
            inner := { offset := 0, regionKey := BitVec.ofNat 32 ring.toNat, seq := 0, ctag := 0, opLength := 0,
                       opcode := 0x0C, classLabel := cls, opFlags := 0, modifier := 0, aux := r.heartbeat },
            payload := [], owner := .none } t) s

/-- Re-send a ring request as an operation is re-sent (R154, R189). DESIGN CHOICE: once this instance is not admitted
any more, a request that has been sent is given up in place of its next re-send, with ST_TIMEOUT and POLDER_FATAL, where
R537 also has a ring request end with ST_DENIED (notes/assumptions/33.md). -/
def resendRing (q : RingReq) (s : State) : State :=
  match findAnyRing s q.ring with
  | none => s
  | some r =>
    let owner : TxOwner := .ringRequest q.ring q.member q.seq
    if q.firstTx.isSome && q.resends < 3 && q.lastTx + 250000 ≤ s.time && !s.link.txWait.any (fun k => k.owner = owner) then
      if !admitted s r.polder then giveUpRing r q s
      else
        let again := fun (x : RingReq) => if x = q then { x with resends := x.resends + 1, lastTx := s.time } else x
        (sendPacket { ringPacket r (memberInst r q.member) q.message q.addr q.seq 0 .ok q.data true with owner := owner }
          (modRings (fun x => { x with requests := x.requests.map again }) s)).2
    else s

end Sys2Proof.Machine
end

