-- ==== Sys2Proof/Machine/Extents.lean ====
section
/-! DEFINITION. Extents and their leases: granting, renewing, handing over, revoking and rekeying, and the status of the
tray (R108 to R125, R130, R198 to R204, R383 group 0x06). -/

namespace Sys2Proof.Machine

/-- Whether a polder is defined and its teardown has not begun (R360). -/
def polderStands (s : State) (p : PolderId) : Bool :=
  match findPolder s p with
  | some q => q.teardown.isNone
  | none => false

/-- What an extent command fixes: only role T has extents. -/
def trayInfo (opcode : BitVec 16) (pf sbt fm ladder : Bool) : CmdInfo :=
  { opcode := opcode, pf := pf, sbt := sbt, fm := fm, ladder := ladder, roles := [.t] }

/-- The extent that a command's 16-bit field names, when it is not FREE. -/
def namedExtent (s : State) (id : BitVec 16) : Option Extent :=
  if id.toNat < 8192 then findExtent s (id.setWidth 13) else none

/-- Whether a tenant names an extent of a polder that is not its own (R344, R351). -/
def extentDenied (o : Origin) (id : BitVec 16) (s : State) : Bool :=
  match namedExtent s id with
  | some e => !mayNamePolder o e.polder s
  | none => false

/-- A lease length in range (R198, R391). -/
def leaseOk (lease : BitVec 16) : Bool := 1 ≤ lease.toNat && lease.toNat ≤ 3600

/-- The Datum a lease length from now. -/
def leaseEnd (s : State) (lease : BitVec 16) : Datum := s.datum.value + BitVec.ofNat 64 (lease.toNat * 1000000000)

/-! ### Keys of extents (R109) -/

/-- An extent whose key, or whose rekey's key, cannot be had: a grant leaves the ID FREE, a rekey ends; the location goes
back (R547). -/
def extentKeyFailed (e : Extent) (st : Status) (s : State) : State :=
  if e.state = .granting then
    let s := reclaimLocation e.location s
    let s := match findRegion s e.id.toNat with | some g => removeRegion g s | none => s
    finishAll e.granting st { s with tray := { s.tray with extents := s.tray.extents.filter fun x => x.id ≠ e.id } }
  else
    match e.rekey with
    | some r =>
      if r.copying then s
      else finishAll r.waiters st (modExtent e.id (fun x => { x with rekey := none }) (reclaimLocation r.location s))
    | none => s

/-- Whether an extent waits for its key, or for its rekey's key. -/
def extentKeyless (e : Extent) : Bool :=
  (e.state = .granting && e.key.isNone) || (match e.rekey with | some r => r.key.isNone | none => false)

/-- An extent that waits for a key uses the polder's tray key (R109, R303, R312). -/
def extentKeyStep (id : BitVec 13) (s : State) : State :=
  match findExtent s id with
  | none => s
  | some e =>
    if !extentKeyless e then s
    else
      match needKey e.polder 4 s with
      | (.ready, s) => needJob 3 (.extentKey id) (some e.polder) s
      | (.wait, s) => s
      | (.failed st, s) => extentKeyFailed e st s

/-- The extent key job has ended: the key enters the extent root table (R109). -/
def extentDerived (id : BitVec 13) (s : State) : State :=
  match findExtent s id with
  | none => s
  | some e =>
    if !extentKeyless e then s
    else
      match needKey e.polder 4 s with
      | (.wait, s) => s
      | (.failed st, s) => extentKeyFailed e st s
      | (.ready, s) =>
        let derive := fun (nonce : BitVec 64) =>
          extentKey (polderKey s e.polder 4) e.polder (isConfidential s e.polder) s.boot.instanceId nonce
        if e.state = .granting then modExtent id (fun x => { x with key := some (derive e.nonce) }) s
        else
          match e.rekey with
          | some r => modExtent id (fun x => { x with rekey := some { r with key := some (derive r.nonce) } }) s
          | none => s

/-! ### Moments -/

/-- The check value of a region key: any 18 bits but 0 (R137). -/
def checkValue (draw : BitVec 512) : Nat := 1 + draw.toNat % 262143

/-- LEASE_EXPIRY (R202): the Datum has reached a lease's expiry. -/
def execLeaseExpiry (extent : BitVec 13) (s : State) : Host.Outcome State Fault Refusal :=
  .next <|
    match findExtent s extent with
    | some e =>
      if hasTray s && e.state = .leased && e.expiry.toNat ≤ s.datum.value.toNat then beginRevoke e true s else s
    | none => s

/-- What waits for tray memory tries again: requests, answers, and the rings whose home memory it is (R123, R192, R198). -/
def retryTray (s : State) : State :=
  pumpLines (pumpRings (retryBacks (retryReplies (fauSettle (retryAnswers (retryMemWait s))))))

/-- EXTENT_REVOKE_DRAINED (R202, R203): the location is reclaimed and the extent is REVOKED; its region entry stays. -/
def execExtentRevokeDrained (extent : BitVec 13) (s : State) : Host.Outcome State Fault Refusal :=
  .next <|
    match findExtent s extent with
    | none => s
    | some e =>
      if !hasTray s || e.state ≠ .revoking || e.rekey.isSome || regionInUse extent.toNat s then s
      else
        let clear := fun (x : Extent) => { x with state := ExtState.revoked, key := none, roots := [], revoking := [] }
        finishAll e.revoking .ok (retryTray (modExtent extent clear (reclaimLocation e.location s)))

/-- The initialisation of a granted extent completes: its region key is drawn, its expiry set, and the grant answered
(R198). -/
def grantExtent (e : Extent) (s : State) : State :=
  if !drbgAvailable s then extentKeyFailed e .exhausted s
  else
    let key := BitVec.ofNat 32 (e.id.toNat * 262144 + checkValue (drbgValue s))
    let s := setLoc e.location .active (initLocation e.location (drbgDraw 3 s))
    let s := { s with fau := { s.fau with
      regions := alter (fun g => g.index = e.id.toNat) (fun g => { g with key := key }) s.fau.regions } }
    let lease := fun (x : Extent) =>
      { x with state := ExtState.leased, expiry := leaseEnd s e.lease, roots := [], granting := [] }
    let s := modExtent e.id lease s
    let payload := leBytes 2 e.id.toNat ++ zeros 2 ++ leBytes 4 key.toNat
    retryTray (e.granting.foldl (fun t x => finish x.1 x.2 .ok payload t) s)

/-- The new location of a rekey is initialised, and the copy from the old one starts (R123). -/
def startCopy (e : Extent) (r : Rekey) (s : State) : State :=
  let s := setLoc r.location .rekeyTarget (initLocation r.location s)
  let s := setLoc e.location .rekeySource s
  let start := fun (x : Extent) =>
    { x with rekey := some { r with copying := true }, roots := x.roots.filter fun y => y.1 < 4 }
  modExtent e.id start s

/-- EXTENT_INITIALISATION_COMPLETE (R42, R115, R123, R198): of a granted extent, or of the new location of a rekey, whose copy
then starts. -/
def execExtentInitialisationComplete (extent : BitVec 13) (s : State) : Host.Outcome State Fault Refusal :=
  .next <|
    match findExtent s extent with
    | none => s
    | some e =>
      if !hasTray s || extentKeyless e then s
      else if e.state = .granting then withDomains trayDomains (grantExtent e) s
      else
        match e.rekey with
        | some r => if r.copying then s else withDomains trayDomains (startCopy e r) s
        | none => s

/-- The copy of a rekey, page by page (R123). -/
def copyPages (id : BitVec 13) (old new : Nat) (oldKey newKey : Key512) : Nat → State → State
  | 0, s => s
  | n + 1, s =>
    let s := copyPages id old new oldKey newKey n s
    match findExtent s id with
    | some e => rekeyPage e old new oldKey newKey n s
    | none => s

/-- Every page of a rekey is copied, the extent ID names the new location, and the old one is reclaimed (R123). -/
def finishCopy (e : Extent) (r : Rekey) (oldKey newKey : Key512) (s : State) : State :=
  let s := copyPages e.id e.location r.location oldKey newKey 262144 s
  let move := fun (x : Extent) =>
    { x with location := r.location, nonce := r.nonce, key := some newKey, rekey := none,
             roots := (x.roots.filter fun y => 4 ≤ y.1).map fun y => (y.1 - 4, y.2) }
  let s := reclaimLocation e.location (setLoc r.location .active (modExtent e.id move s))
  finishAll r.waiters .ok (retryTray s)

/-- EXTENT_REKEY_COPY_COMPLETE (R42, R123): the copy of every page ends the command. -/
def execExtentRekeyCopyComplete (extent : BitVec 13) (s : State) : Host.Outcome State Fault Refusal :=
  .next <|
    match findExtent s extent with
    | none => s
    | some e =>
      match e.key, e.rekey with
      | some oldKey, some r =>
        match r.key with
        | none => s
        | some newKey =>
          if !hasTray s || !r.copying then s else withDomains trayDomains (finishCopy e r oldKey newKey) s
      | _, _ => s

/-! ### Commands (R383 group 0x06) -/

/-- Take an extent ID and a location and begin to initialise it (R198 steps 1 and 2). -/
def beginGrant (o : Origin) (tag : BitVec 32) (polder : PolderId) (holder lease : BitVec 16) (perms : BitVec 8)
    (id : BitVec 13) (location : Nat) (s : State) : State :=
  let slot := match findPolder s polder with | some q => q.slot | none => 0
  let s := match findRegion s id.toNat with | some g => removeRegion g s | none => s
  let region : Region :=
    { index := id.toNat, key := 0, withdrawing := false, signalKind := false, polderSlot := slot, polder := polder,
      perms := perms.setWidth 5, length := 1073741824, rttBase := 0, rttCount := 0, firstOffset := 0, core := 0,
      counterBase := 0, counterCnt := 0, memobj := none, waiters := [] }
  let e : Extent :=
    { id := id, state := .granting, polder := polder, slot := slot, location := location, holder := holder, expiry := 0,
      lease := lease, hint := 1, lastPage := none, nonce := (drbgValue s).setWidth 64, key := none, roots := [], rekey := none,
      granting := [(o, tag)], revoking := [] }
  let s := drbgDraw 8 (setLoc location .initialising s)
  let s := { s with
    fau := { s.fau with regions := s.fau.regions ++ [region] }
    tray := { s.tray with extents := upsert (fun x => x.id = id) e s.tray.extents } }
  extentKeyStep id (pend o tag 0x0601 s)

/-- The extent ID a grant takes: the lowest FREE, or else the lowest REVOKED (R198 step 1). -/
def grantId (s : State) : Option (BitVec 13) :=
  let st := fun (n : Nat) => match findExtent s (BitVec.ofNat 13 n) with | some e => e.state | none => ExtState.free
  let free := leastBelow 8192 fun n => st n = .free
  (match free with | some n => some n | none => leastBelow 8192 fun n => st n = ExtState.revoked).map (BitVec.ofNat 13)

/-- EXTENT_GRANT; bad says that its frame is malformed. -/
def extentGrantCmd (bad : Bool) (o : Origin) (tag : BitVec 32) (polder : PolderId) (holder lease : BitVec 16)
    (perms : BitVec 8) (s : State) : State :=
  runCmd (trayInfo 0x0601 false true true true) o tag (!mayNamePolder o polder s) (bad || decide (32 ≤ perms.toNat))
    (fun s => firstFail
      [(!polderStands s polder || !leaseOk lease, .badParam),
       ((grantId s).isNone || (freeLocation s).isNone || !drbgAvailable s, .exhausted)])
    (fun s =>
      match grantId s, freeLocation s with
      | some id, some l => beginGrant o tag polder holder lease perms id l s
      | _, _ => s) s

/-- EXTENT_GRANT (R198). -/
def execExtentGrant (o : Origin) (tag : BitVec 32) (polder : PolderId) (holder lease : BitVec 16) (perms : BitVec 8)
    (s : State) : Host.Outcome State Fault Refusal := .next (extentGrantCmd false o tag polder holder lease perms s)

/-- Why an extent with a lease cannot be renewed (R199). -/
def renewCheck (id holder lease : BitVec 16) (anyHolder : Bool) (s : State) : Option Status :=
  match namedExtent s id with
  | none => some .badParam
  | some e =>
    firstFail
      [(e.state = .granting || !leaseOk lease, .badParam),
       (!anyHolder && e.holder ≠ holder, .denied),
       (e.state ≠ .leased || decide (e.expiry.toNat ≤ s.datum.value.toNat), .revoked)]

/-- Set an extent's expiry a lease length from now. -/
def renewLease (id lease : BitVec 16) (s : State) : State :=
  modExtent (id.setWidth 13) (fun e => { e with expiry := leaseEnd s lease }) s

/-- EXTENT_RENEW; bad says that its frame is malformed. -/
def extentRenewCmd (bad : Bool) (o : Origin) (tag : BitVec 32) (extent holder lease : BitVec 16) (s : State) : State :=
  runCmd (trayInfo 0x0602 false true true false) o tag (extentDenied o extent s) bad (renewCheck extent holder lease false)
    (fun s => reply o tag 0x0602 .ok [] (renewLease extent lease s)) s

/-- EXTENT_RENEW (R199). -/
def execExtentRenew (o : Origin) (tag : BitVec 32) (extent holder lease : BitVec 16) (s : State) :
    Host.Outcome State Fault Refusal := .next (extentRenewCmd false o tag extent holder lease s)

/-- EXTENT_HANDOVER; bad says that its frame is malformed. The fabric manager needs no present holder. -/
def extentHandoverCmd (bad : Bool) (o : Origin) (tag : BitVec 32) (extent holder newHolder lease : BitVec 16) (s : State) :
    State :=
  runCmd (trayInfo 0x0603 false true true false) o tag (extentDenied o extent s) bad
    (renewCheck extent holder lease (o.sluice = .fm))
    (fun s => reply o tag 0x0603 .ok []
      (modExtent (extent.setWidth 13) (fun e => { e with holder := newHolder }) (renewLease extent lease s))) s

/-- EXTENT_HANDOVER (R200). -/
def execExtentHandover (o : Origin) (tag : BitVec 32) (extent holder newHolder lease : BitVec 16) (s : State) :
    Host.Outcome State Fault Refusal := .next (extentHandoverCmd false o tag extent holder newHolder lease s)

/-- Whether a command names an extent that is granted. -/
def extentGranted (id : BitVec 16) (s : State) : Bool :=
  match namedExtent s id with
  | some e => e.state != .granting
  | none => false

/-- EXTENT_REVOKE; bad says that its frame is malformed. A second one joins the first (R359). A lease that has already run out
has expired, with its record (R202). -/
def extentRevokeCmd (bad : Bool) (o : Origin) (tag : BitVec 32) (extent : BitVec 16) (s : State) : State :=
  runCmd (trayInfo 0x0604 false true true false) o tag (extentDenied o extent s) bad
    (fun s => firstFail [(!extentGranted extent s, .badParam)])
    (fun s =>
      match namedExtent s extent with
      | none => s
      | some e =>
        let s := pend o tag 0x0604 s
        if e.state = .revoked then finish o tag .ok [] s
        else
          let s := if e.state = .leased then beginRevoke e (decide (e.expiry.toNat ≤ s.datum.value.toNat)) s else s
          modExtent e.id (fun x => { x with revoking := x.revoking ++ [(o, tag)] }) s) s

/-- EXTENT_REVOKE (R202). -/
def execExtentRevoke (o : Origin) (tag : BitVec 32) (extent : BitVec 16) (s : State) : Host.Outcome State Fault Refusal :=
  .next (extentRevokeCmd false o tag extent s)

/-- EXTENT_REKEY; bad says that its frame is malformed. -/
def extentRekeyCmd (bad : Bool) (o : Origin) (tag : BitVec 32) (extent : BitVec 16) (s : State) : State :=
  runCmd (trayInfo 0x0605 false true false true) o tag (extentDenied o extent s) bad
    (fun s =>
      match namedExtent s extent with
      | none => some .badParam
      | some e =>
        firstFail
          [(e.state = .granting, .badParam),
           (e.state ≠ .leased || decide (e.expiry.toNat ≤ s.datum.value.toNat), .revoked),
           (e.rekey.isSome, .busy),
           ((freeLocation s).isNone || !drbgAvailable s, .exhausted)])
    (fun s =>
      match namedExtent s extent, freeLocation s with
      | some e, some l =>
        let r : Rekey := { location := l, nonce := (drbgValue s).setWidth 64, key := none, copying := false,
                           waiters := [(o, tag)] }
        let s := modExtent e.id (fun x => { x with rekey := some r }) (drbgDraw 8 (setLoc l .initialising s))
        extentKeyStep e.id (pend o tag 0x0605 s)
      | _, _ => s) s

/-- EXTENT_REKEY (R123). -/
def execExtentRekey (o : Origin) (tag : BitVec 32) (extent : BitVec 16) (s : State) : Host.Outcome State Fault Refusal :=
  .next (extentRekeyCmd false o tag extent s)

/-- EXTENT_HINT; bad says that its frame is malformed. -/
def extentHintCmd (bad : Bool) (o : Origin) (tag : BitVec 32) (extent : BitVec 16) (hint : BitVec 8) (s : State) : State :=
  runCmd (trayInfo 0x0606 true true false false) o tag (extentDenied o extent s) bad
    (fun s => firstFail [(!extentGranted extent s || decide (2 < hint.toNat), .badParam)])
    (fun s => reply o tag 0x0606 .ok []
      (modExtent (extent.setWidth 13) (fun e => { e with hint := hint.setWidth 2 }) s)) s

/-- EXTENT_HINT (R125). -/
def execExtentHint (o : Origin) (tag : BitVec 32) (extent : BitVec 16) (hint : BitVec 8) (s : State) :
    Host.Outcome State Fault Refusal := .next (extentHintCmd false o tag extent hint s)

/-- TRAY_REBUILD_RATE; bad says that its frame is malformed. -/
def trayRebuildRateCmd (bad : Bool) (o : Origin) (tag : BitVec 32) (percent : BitVec 8) (s : State) : State :=
  runCmd (trayInfo 0x0607 true false false false) o tag false bad
    (fun _ => firstFail [(!(1 ≤ percent.toNat && percent.toNat ≤ 50), .badParam)])
    (fun s => reply o tag 0x0607 .ok []
      (mirrorChanged { s with tray := { s.tray with rebuildRate := percent.toNat } })) s

/-- TRAY_REBUILD_RATE (R130). -/
def execTrayRebuildRate (o : Origin) (tag : BitVec 32) (percent : BitVec 8) (s : State) :
    Host.Outcome State Fault Refusal := .next (trayRebuildRateCmd false o tag percent s)

/-- The code of an extent's state (R384). -/
def extentCode : ExtState → Byte
  | .free => 0 | .granting => 1 | .leased => 2 | .revoking => 3 | .revoked => 4

/-- The 16 bytes of EXTENT_STATUS (R384). -/
def extentRecord (e : Option Extent) : Bytes :=
  match e with
  | none => zeros 16
  | some e => [extentCode e.state, BitVec.ofNat 8 e.hint.toNat] ++ leBytes 2 e.polder.toNat ++ leBytes 2 e.location
      ++ leBytes 2 e.holder.toNat ++ leBytes 8 e.expiry.toNat

/-- Whether a tenant reads an extent that is not of a polder of its own (R381). -/
def extentUnread (o : Origin) (id : BitVec 16) (s : State) : Bool :=
  isTenant o && decide (id.toNat < 8192) &&
    match namedExtent s id with
    | some e => (match findPolder s e.polder with | some q => !tenantOf o q s | none => true)
    | none => true

/-- EXTENT_STATUS; bad says that its frame is malformed. -/
def extentStatusCmd (bad : Bool) (o : Origin) (tag : BitVec 32) (extent : BitVec 16) (s : State) : State :=
  runCmd (trayInfo 0x0608 true true true false) o tag (extentUnread o extent s) bad
    (fun _ => firstFail [(decide (8192 ≤ extent.toNat), .badParam)])
    (fun s => reply o tag 0x0608 .ok (extentRecord (namedExtent s extent)) s) s

/-- EXTENT_STATUS (R384). -/
def execExtentStatus (o : Origin) (tag : BitVec 32) (extent : BitVec 16) (s : State) :
    Host.Outcome State Fault Refusal := .next (extentStatusCmd false o tag extent s)

/-- The code of a parity group's state (R383). -/
def groupCode : GroupState → Byte
  | .normal => 0 | .degraded => 1 | .rebuilding => 2 | .failed => 3

/-- The eight bytes of one parity group in TRAY_STATUS; the dead device of a group that has none is a free value. -/
def groupRecord (s : State) (g : Nat) : Bytes :=
  let x := getGroup s g
  let dead : Byte := match x.dead with
    | some k => BitVec.ofNat 8 (assocGet (memberDevice g k) (memberDevice g k) s.tray.remap)
    | none => (fresh s).extractLsb' (8 * g) 8
  [groupCode x.state, dead, 0, 0] ++ leBytes 4 x.watermark

/-- TRAY_STATUS; bad says that its frame is malformed. -/
def trayStatusCmd (bad : Bool) (o : Origin) (tag : BitVec 32) (s : State) : State :=
  runCmd (trayInfo 0x0609 true true true false) o tag false bad noCheck
    (fun s =>
      let free := ((List.range 5898).filter fun l => locState s l = .free).length
      reply o tag 0x0609 .ok ((List.range 8).flatMap (groupRecord s) ++ leBytes 2 free
        ++ [BitVec.ofNat 8 s.tray.spares.length, 0]) (tookFree s)) s

/-- TRAY_STATUS (R383). -/
def execTrayStatus (o : Origin) (tag : BitVec 32) (s : State) : Host.Outcome State Fault Refusal :=
  .next (trayStatusCmd false o tag s)

end Sys2Proof.Machine
end

