-- ==== Sys2Proof/Machine/Groups.lean ====
section
/-! DEFINITION. Groups: their descriptor, their tree, the commands on them, and the packets that collectives and barriers
share (R235 to R244, R541). -/

namespace Sys2Proof.Machine

/-! ### The descriptor (R236, R237) -/

/-- A rank entry's fields. -/
def parseRank (b : Bytes) (i : Nat) : RankEntry :=
  let w := leField b (1088 + 4 * i) 4
  { inst := BitVec.ofNat 13 w, leaf := w / 65536 % 512 }

/-- A node entry's fields; n is the number of ranks. -/
def parseNode (b : Bytes) (n i : Nat) : NodeEntry :=
  let w := leField b (1088 + 4 * n + 8 * i) 8
  { inst := BitVec.ofNat 13 w, parent := w / 65536 % 512, fanIn := w / 4294967296 % 128 }

/-- A sink entry's fields; at_ is where the sink table begins. -/
def parseSink (b : Bytes) (at_ i : Nat) : SinkEntry :=
  let w := leField b (at_ + 16 * i) 16
  { inst := BitVec.ofNat 13 w, op := BitVec.ofNat 4 (w / 65536), fmt := BitVec.ofNat 4 (w / 1048576),
    key := BitVec.ofNat 32 (w / 4294967296), offset := BitVec.ofNat 40 (w / 18446744073709551616) }

/-- Whether the reserved bits of a descriptor of n ranks, m nodes and k sinks are clear. -/
def groupReservedClear (b : Bytes) (n m k : Nat) : Bool :=
  let rank := fun i => let w := leField b (1088 + 4 * i) 4; w / 8192 % 8 = 0 && w / 33554432 = 0
  let node := fun i => let w := leField b (1088 + 4 * n + 8 * i) 8
    w / 8192 % 8 = 0 && w / 33554432 % 128 = 0 && w / 549755813888 = 0
  let sink := fun i => let w := leField b (1088 + 4 * n + 8 * m + 16 * i) 16
    w / 8192 % 8 = 0 && w / 16777216 % 256 = 0 && w / 2 ^ 104 = 0
  leField b 8 2 < 8192 && leField b 11 1 = 0 && (slice b 16 48).all (· = 0)
    && (List.range n).all rank && (List.range m).all node && (List.range k).all sink
    && (b.drop (1088 + 4 * n + 8 * m + 16 * k)).all (· = 0)

/-- The length of a descriptor, padded to 64 B. -/
def groupLength (n m k : Nat) : Nat := (1088 + 4 * n + 8 * m + 16 * k + 63) / 64 * 64

/-- A group from its descriptor, as far as the descriptor can be laid out at all. -/
def parseGroup (b : Bytes) : Group :=
  let n := leField b 4 2
  let m := leField b 6 2
  let ms := leField b 12 4
  { id := BitVec.ofNat 16 (leField b 0 2), polder := BitVec.ofNat 16 (leField b 2 2), usable := false,
    result := BitVec.ofNat 13 (leField b 8 2), watchdog := if ms = 0 then 2000 else ms,
    ranks := (List.range n).map (parseRank b), nodes := (List.range m).map (parseNode b n),
    sinks := (List.range (leField b 10 1)).map (parseSink b (1088 + 4 * n + 8 * m)),
    digest := BitVec.ofNat 64 (leNat (((beBytes 48 (Config.sha384 b).toNat)).take 8)), destroy := [] }

/-- Whether the counts of a descriptor lie in the ranges of R236. -/
def groupCountsOk (b : Bytes) : Bool :=
  1 ≤ leField b 0 2 && 2 ≤ leField b 4 2 && leField b 4 2 ≤ 4096 && 1 ≤ leField b 6 2 && leField b 6 2 ≤ 512
    && leField b 10 1 ≤ 16 && leField b 12 4 ≤ 60000

/-- Whether a node reaches the root over its parents within a number of steps. -/
def reachesRoot (g : Group) : Nat → Nat → Bool
  | 0, _ => false
  | f + 1, i =>
    match g.nodes[i]? with
    | some e => e.parent = i || reachesRoot g f e.parent
    | none => false

/-- Whether a descriptor defines a group (R237), but for the checks against the instance's state. -/
def groupTreeOk (b : Bytes) (g : Group) : Bool :=
  let n := g.ranks.length
  let m := g.nodes.length
  let mask := leField b 64 1024
  let named := g.ranks.map (·.inst)
  let ids := g.nodes.map (·.inst)
  ((List.range 8192).filter fun i => mask.testBit i).length = n
    && named.eraseDups.length = n && named.all (fun i => mask.testBit i.toNat)
    && g.ranks.all (fun r => decide (r.leaf < m)) && g.nodes.all (fun x => decide (x.parent < m))
    && ids.eraseDups.length = m
    && ((List.range m).filter fun i => (g.nodes.getD i ⟨0, 0, 0⟩).parent = i).length = 1
    && (List.range m).all (reachesRoot g m)
    && (List.range m).all (fun i =>
        let kids := (g.ranks.filter fun r => r.leaf = i).length
          + ((List.range m).filter fun j => j ≠ i && (g.nodes.getD j ⟨0, 0, 0⟩).parent = i).length
        kids = (g.nodes.getD i ⟨0, 0, 0⟩).fanIn && 1 ≤ kids && kids ≤ 64)
    && g.sinks.all (fun k => k.op.toNat ≤ 2 && k.fmt.toNat ≤ 11)

/-! ### The tree -/

/-- A child of a node: a rank or a node. -/
inductive Kid where
  | rank (r : Nat)
  | node (n : Nat)
  deriving DecidableEq, Repr

/-- The child of node j on the way from a child k of node n up to j, if the way leads there. -/
def kidToward (g : Group) (j : Nat) : Nat → Nat → Kid → Option Kid
  | 0, _, _ => none
  | f + 1, n, k =>
    if n = j then some k
    else
      match g.nodes[n]? with
      | some e => if e.parent = n then none else kidToward g j f e.parent (.node n)
      | none => none

/-- The ranks under a node, in rank order, each with the child it comes through. -/
def ranksUnder (g : Group) (j : Nat) : List (Nat × Kid) :=
  (g.ranks.zipIdx).filterMap fun x =>
    (kidToward g j (g.nodes.length + 1) x.1.leaf (.rank x.2)).map fun k => (x.2, k)

/-- The children of a node in the order of R214: a child node takes the lowest rank in its subtree. -/
def kidsOf (g : Group) (j : Nat) : List Kid := ((ranksUnder g j).map (·.2)).eraseDups

/-- The ranks that come through a child. -/
def ranksOf (g : Group) (j : Nat) (k : Kid) : List Nat := ((ranksUnder g j).filter fun x => x.2 = k).map (·.1)

/-- The instance of a child. -/
def kidInst (g : Group) (k : Kid) : InstId :=
  match k with
  | .rank r => match g.ranks[r]? with | some e => e.inst | none => 0
  | .node n => match g.nodes[n]? with | some e => e.inst | none => 0

/-- The instance of a node. -/
def nodeInst (g : Group) (n : Nat) : InstId := kidInst g (.node n)

/-- The parent of a node; the root's is itself. -/
def nodeParent (g : Group) (n : Nat) : Nat := match g.nodes[n]? with | some e => e.parent | none => n

/-- The rank of this instance. -/
def ownRank (g : Group) (s : State) : Option Nat := g.ranks.findIdx? fun r => r.inst = s.boot.instanceId

/-- The node of this instance. -/
def ownNode (g : Group) (s : State) : Option Nat := g.nodes.findIdx? fun n => n.inst = s.boot.instanceId

/-- Whether a group names an instance as a rank, node or sink. -/
def groupNames (g : Group) (i : InstId) : Bool :=
  (g.ranks.any fun r => r.inst = i) || (g.nodes.any fun n => n.inst = i) || g.sinks.any fun k => k.inst = i

/-- A group defined on this instance (R235). -/
def findGroup (s : State) (p : PolderId) (id : BitVec 16) : Option Group :=
  s.coll.groups.find? fun g => g.polder = p && g.id = id

/-- A group that is usable: its mark has come (R235). -/
def usableGroup (s : State) (p : PolderId) (id : BitVec 16) : Option Group := (findGroup s p id).filter (·.usable)

/-- Change the collective state. -/
def modColl (f : Coll → Coll) (s : State) : State := { s with coll := f s.coll }

/-- Change a group. -/
def modGroup (p : PolderId) (id : BitVec 16) (f : Group → Group) (s : State) : State :=
  modColl (fun c => { c with groups := alter (fun g => g.polder = p && g.id = id) f c.groups }) s

/-- A group becomes usable, when its mark comes (R235). -/
def groupUsable (p : PolderId) (id : BitVec 16) (s : State) : State := modGroup p id (fun g => { g with usable := true }) s

/-! ### Ends of groups (R235) -/

/-- Whether a collective or barrier of a group is in progress on this instance. -/
def groupBusy (s : State) (g : Group) : Bool :=
  (s.coll.participants.any fun c => c.launch.polder = g.polder && c.launch.group = g.id)
    || (s.coll.nodes.any fun n => n.launch.polder = g.polder && n.launch.group = g.id)
    || (s.coll.sinks.any fun k => k.polder = g.polder && k.group = g.id && k.ended.isNone)
    || (s.bars.arrivals.any fun a => a.polder = g.polder && a.group = g.id)
    || s.bars.counters.any fun c => c.polder = g.polder && c.group = g.id

/-- Remove a group, with the mark that was to make it usable. -/
def removeGroup (g : Group) (s : State) : State :=
  dropMarks (fun a => a = .groupDefine g.polder g.id) (modColl (fun c => { c with
    groups := c.groups.filter fun x => !(x.polder = g.polder && x.id = g.id)
    sinks := c.sinks.filter fun k => !(k.polder = g.polder && k.group = g.id) }) s)

/-- End the destroys of groups that are in no use any more. -/
def settleGroups (s : State) : State :=
  (s.coll.groups.filter fun g => !g.destroy.isEmpty && !groupBusy s g).foldl (fun t g =>
    finishAll g.destroy .ok (removeGroup g t)) s

/-! ### Commands (R383 group 0x07) -/

/-- COLLECTIVE_GROUP_DEFINE; bad says that its frame is malformed. -/
def collectiveGroupDefineCmd (bad : Bool) (o : Origin) (tag : BitVec 32) (mark : Datum) (desc : Bytes) (s : State) :
    State :=
  let n := leField desc 4 2
  let m := leField desc 6 2
  let k := leField desc 10 1
  let sized := decide (1088 ≤ desc.length) && groupCountsOk desc && decide (desc.length = groupLength n m k)
  let g := parseGroup desc
  runCmd { opcode := 0x0701, fm := true } o tag false (bad || !sized || !groupReservedClear desc n m k)
    (fun s =>
      firstFail
        [(!groupTreeOk desc g || !polderStands s g.polder || (findGroup s g.polder g.id).isSome, .badParam),
         (decide (1024 ≤ s.coll.groups.length), .exhausted),
         (markUse mark s = .refused .busy, .busy), (markUse mark s = .refused .badParam, .badParam)])
    (fun s =>
      let s := modColl (fun c => { c with groups := c.groups ++ [g] }) s
      let s := match markUse mark s with
        | .later => enqueueMark mark (.groupDefine g.polder g.id) s
        | _ => groupUsable g.polder g.id (countLate mark s)
      reply o tag 0x0701 .ok [] s) s

/-- COLLECTIVE_GROUP_DEFINE (R235, R237). -/
def execCollectiveGroupDefine (o : Origin) (tag : BitVec 32) (mark : Datum) (desc : Bytes) (s : State) :
    Host.Outcome State Fault Refusal := .next (collectiveGroupDefineCmd false o tag mark desc s)

/-- COLLECTIVE_GROUP_DESTROY; bad says that its frame is malformed. -/
def collectiveGroupDestroyCmd (bad : Bool) (o : Origin) (tag : BitVec 32) (polder : PolderId) (group : BitVec 16)
    (s : State) : State :=
  runCmd { opcode := 0x0702, fm := true } o tag false bad
    (fun s => firstFail [((findGroup s polder group).isNone, .badParam)])
    (fun s => settleGroups (modGroup polder group (fun g => { g with destroy := g.destroy ++ [(o, tag)] })
      (pend o tag 0x0702 s))) s

/-- COLLECTIVE_GROUP_DESTROY (R235, R359). -/
def execCollectiveGroupDestroy (o : Origin) (tag : BitVec 32) (polder : PolderId) (group : BitVec 16) (s : State) :
    Host.Outcome State Fault Refusal := .next (collectiveGroupDestroyCmd false o tag polder group s)

/-- The place of this instance as GROUP_QUERY gives it. -/
def ownPlace (i : Option Nat) : Bytes := leBytes 2 (i.getD 65535)

/-- GROUP_QUERY; bad says that its frame is malformed. -/
def groupQueryCmd (bad : Bool) (o : Origin) (tag : BitVec 32) (polder : PolderId) (group : BitVec 16) (s : State) :
    State :=
  runCmd { opcode := 0x0703, pf := true, vf := true, sbp := true, fm := true } o tag (!mayNamePolder o polder s) bad
    (fun s => firstFail
      [(isTearing s polder || (match findGroup s polder group with | some g => !g.destroy.isEmpty | none => true), .badParam)])
    (fun s =>
      match findGroup s polder group with
      | none => s
      | some g => reply o tag 0x0703 .ok (leBytes 8 g.digest.toNat ++ leBytes 2 g.ranks.length
          ++ leBytes 2 g.nodes.length ++ ownPlace (ownRank g s) ++ ownPlace (ownNode g s)) s) s

/-- GROUP_QUERY (R383). -/
def execGroupQuery (o : Origin) (tag : BitVec 32) (polder : PolderId) (group : BitVec 16) (s : State) :
    Host.Outcome State Fault Refusal := .next (groupQueryCmd false o tag polder group s)

/-- MCAST_GROUP_JOIN; bad says that its frame is malformed. -/
def mcastGroupJoinCmd (bad : Bool) (o : Origin) (tag : BitVec 32) (polder : PolderId) (group : InstId)
    (members : BitVec 8192) (s : State) : State :=
  runCmd { opcode := 0x0707, fm := true } o tag false bad
    (fun s => firstFail
      [(s.link.joins.any (fun j => j.group = group && j.polder ≠ polder)
          || !members.getLsbD s.boot.instanceId.toNat || !polderStands s polder, .badParam),
       (!(s.link.joins.any fun j => j.group = group) && decide (1024 ≤ s.link.joins.length), .exhausted)])
    (fun s => reply o tag 0x0707 .ok [] { s with link := { s.link with
      joins := upsert (fun j => j.group = group) { group := group, polder := polder, mask := members } s.link.joins } }) s

/-- MCAST_GROUP_JOIN (R61). -/
def execMcastGroupJoin (o : Origin) (tag : BitVec 32) (polder : PolderId) (group : InstId) (members : BitVec 8192)
    (s : State) : Host.Outcome State Fault Refusal := .next (mcastGroupJoinCmd false o tag polder group members s)

/-- Leave a multicast group: its join and its receive streams go (R61). -/
def leaveGroup (polder : PolderId) (group : InstId) (s : State) : State :=
  let mine := fun (r : RxStream) => r.polder = polder && r.group = some group
  let ofGroup := fun (r : StreamRef) => match r with
    | .rx p _ _ g => decide (p = polder) && decide (g = some group)
    | .tx _ _ _ => false
  { s with link := { s.link with
      joins := s.link.joins.filter fun j => j.group ≠ group
      rx := s.link.rx.filter fun r => !mine r
      rxWait := s.link.rxWait.filter fun w => !ofGroup w.1
      cached := s.link.cached.filter fun c => !ofGroup c.1 } }

/-- MCAST_GROUP_LEAVE; bad says that its frame is malformed. -/
def mcastGroupLeaveCmd (bad : Bool) (o : Origin) (tag : BitVec 32) (polder : PolderId) (group : InstId) (s : State) :
    State :=
  runCmd { opcode := 0x0708, fm := true } o tag false bad
    (fun s => firstFail [(isTearing s polder || !joined s group polder, .badParam)])
    (fun s => reply o tag 0x0708 .ok [] (leaveGroup polder group s)) s

/-- MCAST_GROUP_LEAVE (R61). -/
def execMcastGroupLeave (o : Origin) (tag : BitVec 32) (polder : PolderId) (group : InstId) (s : State) :
    Host.Outcome State Fault Refusal := .next (mcastGroupLeaveCmd false o tag polder group s)

/-! ### Packets (R242, R244, R269) -/

/-- A collective or barrier packet. -/
def collPacket (g : Group) (id : BitVec 32) (cls : BitVec 4) (up : Bool) (dest : Dest) (lane : Nat) (type : BitVec 4)
    (offset : Nat) (m : BitVec 16) (st : Status) (flags : BitVec 6) (payload : Bytes) (owner : TxOwner) : TxPacket :=
  { polder := g.polder, dest := dest, cls := cls, lane := lane, kind := 2, retry := false,
    inner := { offset := BitVec.ofNat 64 offset, regionKey := id, seq := g.digest.setWidth 32, ctag := g.id,
               opLength := BitVec.ofNat 13 payload.length, opcode := if up then 0x09 else 0x0A, classLabel := cls,
               opFlags := type, modifier := m,
               aux := BitVec.ofNat 32 ((statusCode st).toNat + 256 * flags.toNat) },
    payload := payload, owner := owner }

/-- The destination of an instance. -/
def toInst (i : InstId) : Dest := destOf false i

/-- The destination of a group's results, done and releases. -/
def toMembers (g : Group) : Dest := destOf true g.result

/-- The status that a packet's aux carries; a reserved value stands as ST_BAD_PARAM. -/
def packetStatus (r : Released) : Status := (statusOf (r.inner.aux.extractLsb' 0 8).toNat).getD .badParam

/-- The flags that a packet's aux carries. -/
def packetFlags (r : Released) : BitVec 6 := r.inner.aux.extractLsb' 8 6

/-- The first released collective packet of a direction and type; barrier says that it carries no payload (R242, R269). -/
def nextColl (s : State) (up : Bool) (type : BitVec 4) (barrier : Bool) : Option Released :=
  s.link.inbox.find? fun r => r.kind = 2 && r.inner.opcode = (if up then 0x09 else 0x0A) && r.inner.opFlags = type
    && r.payload.isEmpty == barrier

/-- Drop a packet and count it in its polder's malformed counter (R541, R535). -/
def dropMalformed (r : Released) (s : State) : State :=
  modPolderCounters r.polder (fun c => { c with malformed := satInc c.malformed }) s

/-- The group of a packet, when it is defined and the digest matches; else it is dropped and counted (R541). -/
def admitColl (r : Released) (open_ : Bool) (s : State) : Option Group × State :=
  match usableGroup s r.polder r.inner.ctag with
  | none => (none, dropMalformed r s)
  | some g =>
    if !open_ && r.inner.seq ≠ g.digest.setWidth 32 then (none, dropMalformed r s) else (some g, s)

/-- The unit number of the RMU lane pair that works a collective (R36, R432). -/
def rmuUnit (s : State) (id : BitVec 32) : BitVec 16 :=
  let pairs := match s.boot.role with | .e => 8 | .s => 16 | .t => 4
  BitVec.ofNat 16 (0x0600 + Config.lanePair id % pairs)

/-- The unit number of the barrier unit of a role E, or of a node's counter bank, one of four (R36, R432). -/
def barrierUnit (s : State) (id : BitVec 32) : BitVec 16 :=
  if s.boot.role = .s then BitVec.ofNat 16 (0x1100 + id.toNat % 4) else 0x1100

/-- The domains that work on a collective, or on a barrier, needs: its lane pair and every bank group of the BAS, or its
barrier unit or bank (R36; notes/assumptions/71). A role T has no barrier unit: its RMU drops releases (R272). -/
def collDomains (s : State) (id : BitVec 32) (barrier : Bool) : List DomainId :=
  if barrier then (if s.boot.role = .t then [] else (unitDomain s (barrierUnit s id)).toList)
  else (unitDomain s (rmuUnit s id)).toList
    ++ (List.range (domainCount s.boot.role .bas)).map fun i => ⟨.bas, BitVec.ofNat 8 i⟩

/-- Serve the first released packet of a direction and type, once its group is found; a frozen polder's stays (R420), and
one whose domains do not serve waits for them (R42). -/
def serveColl (up : Bool) (type : BitVec 4) (barrier : Bool) (serve : Group → Released → State → State) (s : State) :
    State :=
  match nextColl s up type barrier with
  | none => s
  | some r =>
    if !running s || isFrozen s r.polder then s
    else
      withDomains (collDomains s r.inner.regionKey barrier) (fun s =>
      match admitColl r (up && type = 0 && !barrier) (dropReleased r s) with
      | (some g, s) => serve g r s
      | (none, s) => s) s

/-- Record the lateness of a child of a node against the first child's packet (R457). -/
def recordLate (p : PolderId) (i : InstId) (first : Datum) (step : Option (BitVec 64)) (s : State) : State :=
  let late := s.datum.value.toNat - first.toNat
  let key := (p, i)
  let old := s.coll.stragglers.lookup key
  if old.isNone && 16384 ≤ s.coll.stragglers.length then modColl (fun c => { c with unrecorded := c.unrecorded + 1 }) s
  else
    let x := old.getD { lastStep := 0, late := 0, worst := 0 }
    let x : Straggler :=
      { lastStep := step.getD x.lastStep,
        late := if s.regs.stragglerUs * 1000 < late then satInc x.late else x.late,
        worst := BitVec.ofNat 32 (max x.worst.toNat (min late 4294967295)) }
    modColl (fun c => { c with stragglers := assocSet key x c.stragglers }) s

end Sys2Proof.Machine
end

