-- ==== Sys2Proof/Machine/Coll.lean ====
section
/-! DEFINITION. Collectives at a participant, and what participants, nodes and sinks share: launching, contributing,
receipts, results and ends (R239 to R254, R545). -/

namespace Sys2Proof.Machine

/-! ### Shapes -/

/-- Whether a collective has a benchmark pass (R247). -/
def needsBench (m : BitVec 16) : Bool := redBenchmarked m && (redOp m = 0 || redOp m = 3) && redIn m ≠ 5

/-- Whether a collective is a gather (R205). -/
def isGather (m : BitVec 16) : Bool := redOp m = 4

/-- Whether a collective is a threshold-filter (R205). -/
def isFilter (m : BitVec 16) : Bool := redOp m = 5

/-- The bytes of one contribution. -/
def contribBytes (l : Launch) : Nat := elemBytes (redIn l.modifier) l.count

/-- The elements of one packet of elements of a size in bytes: whole blocks of 256, at most eight of them and 4,096 B. -/
def perPacket (bytes : Nat) : Nat := min 2048 (4096 / bytes / 256 * 256)

/-- The elements of one packet in a format: a tile, or whole blocks (R242). -/
def packetElems (f : Nat) : Nat := if isMx f then 2048 else perPacket (unitBytes f)

/-- The byte offset of an element in a format. -/
def elemOffset (f e : Nat) : Nat := e / unitElems f * unitBytes f

/-- The block of 256 elements that a byte of a contribution in a format lies in. -/
def byteBlock (f off : Nat) : Nat := off / unitBytes f * unitElems f / 256

/-- The length of the result, in elements, or in bytes in a gather; a filter's is not known beforehand. -/
def resultTotal (l : Launch) (ranks : Nat) : Nat := if isGather l.modifier then ranks * contribBytes l else l.count

/-- The bytes that a launch needs at dst_addr (R240). -/
def resultBytes (l : Launch) (ranks : Nat) : Nat :=
  if isGather l.modifier then ranks * contribBytes l
  else if isFilter l.modifier then 0
  else elemBytes (redOut l.modifier) l.count

/-! ### Ranges -/

/-- Add the range from a up to b to a list of disjoint ranges in rising order. -/
def addRange (a b : Nat) : List (Nat × Nat) → List (Nat × Nat)
  | [] => [(a, b)]
  | (x, y) :: t =>
    if y < a then (x, y) :: addRange a b t
    else if b < x then (a, b) :: (x, y) :: t
    else addRange (min a x) (max b y) t

/-- Whether a list of ranges covers one. -/
def covers (a b : Nat) (l : List (Nat × Nat)) : Bool := l.any fun x => x.1 ≤ a && b ≤ x.2

/-- How far a list of ranges reaches from 0 without a gap. -/
def reach (l : List (Nat × Nat)) : Nat := match l with | (0, b) :: _ => b | _ => 0

/-! ### Sending (R242, R244, R246) -/

/-- The open packet's payload (R243). -/
def openPayload (l : Launch) (digest : BitVec 64) : Bytes :=
  leBytes 8 l.step.toNat ++ leBytes 8 l.mark.toNat ++ leBytes 8 l.count ++ leBytes 4 l.threshold.toNat
    ++ leBytes 4 l.sinkDisp.toNat ++ leBytes 8 l.dstLength ++ leBytes 8 digest.toNat ++ zeros 16

/-- Send a packet that its receiver is to receipt (R246); below is what a receipt must have passed. A send that cannot be
made gives its status. -/
def sendTracked (k : TxPacket) (id : BitVec 32) (below : Nat) (s : State) : Option Status × State :=
  match sendPacket k s with
  | (some st, s) => (some st, s)
  | (none, s) => (none, modColl (fun c => { c with
      sent := c.sent ++ [{ packet := k, id := id, below := below, sentAt := s.time, resends := 0 }] }) s)

/-- Send packets in order until one cannot be sent. -/
def sendAll (id : BitVec 32) : List (TxPacket × Nat) → State → Option Status × State
  | [], s => (none, s)
  | (k, below) :: t, s =>
    match sendTracked k id below s with
    | (some st, s) => (some st, s)
    | (none, s) => sendAll id t s

/-- Send packets that no receipt answers, until one cannot be sent. -/
def sendEach : List TxPacket → State → Option Status × State
  | [], s => (none, s)
  | k :: t, s =>
    match sendPacket k s with
    | (some st, s) => (some st, s)
    | (none, s) => sendEach t s

/-- Whether a receipt, or a report at the root, clears a packet that waits for it: an open or counts packet any, codes once
they are passed or credit is given, data once it is passed. -/
def receipted (k : CollSent) (through credit : Nat) : Bool :=
  match k.packet.inner.opFlags.toNat with
  | 0 | 3 => true
  | 1 => decide (k.below ≤ through) || decide (0 < credit)
  | _ => decide (0 < credit) && decide (k.below ≤ through)

/-- Clear the packets of a collective that a receipt covers. -/
def clearSent (p : PolderId) (id : BitVec 32) (through credit : Nat) (s : State) : State :=
  modColl (fun c => { c with sent := c.sent.filter fun k =>
    !(k.packet.polder = p && k.id = id && receipted k through credit) }) s

/-- Forget every packet of a collective, sent or still to be sealed. -/
def forgetPackets (p : PolderId) (id : BitVec 32) (s : State) : State :=
  let s := modColl (fun c => { c with sent := c.sent.filter fun k => !(k.packet.polder = p && k.id = id) }) s
  { s with link := { s.link with txWait := s.link.txWait.filter fun k => k.owner ≠ .collective p id } }

/-! ### Participants -/

/-- A collective held by this participant. -/
def findPart (s : State) (p : PolderId) (id : BitVec 32) : Option Participant :=
  s.coll.participants.find? fun c => c.launch.polder = p && c.launch.id = id

/-- Replace a participant's record. -/
def setPart (c : Participant) (s : State) : State :=
  let mine := fun (y : Participant) => decide (y.launch.polder = c.launch.polder) && decide (y.launch.id = c.launch.id)
  modColl (fun x => { x with participants := alter mine (fun _ => c) x.participants }) s

/-- Trace the open or the end of a collective (R477). -/
def traceColl (ended : Bool) (l : Launch) (c : Option CtxId) (st : Status) (s : State) : State :=
  emitTrace 5 (if ended then 0x0502 else 0x0501) (rmuUnit s l.id) l.polder c
    (leBytes 4 l.id.toNat ++ leBytes 2 l.group.toNat ++ [statusCode st]) s

/-- Complete a collective at its participant (R252, R390); a launch that still waited for its mark waits no more. -/
def completePart (c : Participant) (st : Status) (result : Nat) (flags : BitVec 6) (s : State) : State :=
  let l := c.launch
  let s := dropMarks (fun a => a = .launch l.polder l.id) s
  let s := modColl (fun x => { x with participants := x.participants.filter fun y =>
    !(y.launch.polder = l.polder && y.launch.id = l.id) }) (forgetPackets l.polder l.id s)
  let s := if st = .ok then count 0x2C0 s else s
  let s := traceColl true l (some c.context) st s
  settleGroups (endDescriptor c.queue c.index st (BitVec.ofNat 64 result) flags s)

/-- Send an abort: up to a parent, or from the root to every member (R253). -/
def sendAbort (g : Group) (id : BitVec 32) (cls : BitVec 4) (m : BitVec 16) (node : Option Nat) (st : Status)
    (inst : InstId) (s : State) : State :=
  let up := match node with | some j => nodeParent g j ≠ j | none => true
  let dest : Dest := match node with
    | some j => if nodeParent g j = j then toMembers g else toInst (nodeInst g (nodeParent g j))
    | none => match (ownRank g s).bind fun r => g.ranks[r]? with | some e => toInst (nodeInst g e.leaf) | none => 0
  sendQuietly (collPacket g id cls up dest 0 7 inst.toNat m st 0 [] .none) s

/-- A participant aborts its collective: it completes with the status and tells its leaf (R253, R254). -/
def abortPart (c : Participant) (st : Status) (s : State) : State :=
  let l := c.launch
  let s := completePart c st 0 0 s
  match findGroup s l.polder l.group with
  | some g => sendAbort g l.id c.cls l.modifier none st s.boot.instanceId s
  | none => s

/-- Read a range of the contribution (R246, R254). -/
def readSource (c : Participant) (off len : Nat) (s : State) : LocalUse × Bytes × State :=
  let a := c.src.toNat + off
  match localCheck (.source c.launch.polder c.launch.id) c.context c.launch.polder a len false s with
  | (.ready, s) => (.ready, stackRead s (polderStackKey s c.launch.polder) a len, stackCount c.launch.polder a len false s)
  | (u, s) => (u, [], s)

/-- A packet of a participant to its leaf. -/
def partPacket (g : Group) (c : Participant) (lane : Nat) (type : BitVec 4) (offset : Nat) (b : Bytes) (s : State) :
    TxPacket :=
  let leaf := match (ownRank g s).bind fun r => g.ranks[r]? with | some e => nodeInst g e.leaf | none => 0
  collPacket g c.launch.id c.cls true (toInst leaf) (lane % 16) type offset c.launch.modifier .ok 0 b
    (.collective c.launch.polder c.launch.id)

/-- The benchmark codes of a contribution, one per block of 256 elements (R216). -/
def sourceCodes (l : Launch) (b : Bytes) : List Byte :=
  let vals := (decodeVals (redIn l.modifier) b).take l.count
  (List.range ((l.count + 255) / 256)).map fun j => benchmarkCode ((vals.drop (256 * j)).take 256)

/-- The packets that carry a run of codes or benchmarks, at most 4,096 in each. -/
def codeRuns (first : Nat) (codes : List Byte) : List (Nat × Bytes) :=
  (List.range ((codes.length + 4095) / 4096)).map fun i => (first + 4096 * i, (codes.drop (4096 * i)).take 4096)

/-- The next piece of a contribution from a place on: its first byte, its length, the offset and lane its packet carries,
and the place behind it (R242, R244, R249). Every piece is whole blocks or a tile, and its lane is that of its first
element's block. -/
def nextPiece (c : Participant) (rank : Nat) : Nat × Nat × Nat × Nat × Nat :=
  let l := c.launch
  let f := redIn l.modifier
  let total := contribBytes l
  if isGather l.modifier then
    let n := min (elemBytes f (packetElems f)) (total - c.sent)
    (c.sent, n, rank * total + c.sent, byteBlock f c.sent, c.sent + n)
  else if isFilter l.modifier then
    let n := min 4096 (total - c.sent)
    (c.sent, n, c.sent / unitBytes f, byteBlock f c.sent, c.sent + n)
  else
    let n := min (packetElems f) (l.count - c.sent)
    (elemOffset f c.sent, elemBytes f n, c.sent, c.sent / 256, c.sent + n)

/-- The length of a contribution in the terms in which a participant counts what it has sent. -/
def partTotal (l : Launch) : Nat := if isGather l.modifier || isFilter l.modifier then contribBytes l else l.count

/-- Send the data that the credit allows; n bounds the packets (R246, R248). -/
def pumpData (g : Group) (rank : Nat) : Nat → Participant → State → State
  | 0, c, s => setPart c s
  | n + 1, c, s =>
    let x := nextPiece c rank
    if c.sent < partTotal c.launch && x.2.2.2.2 ≤ c.credit then
      match readSource c x.1 x.2.1 s with
      | (.fail st, _, s) => abortPart c st s
      | (.wait, _, s) => setPart c s
      | (.ready, b, s) =>
        match sendTracked (partPacket g c x.2.2.2.1 2 x.2.2.1 b s) c.launch.id x.2.2.2.2 s with
        | (some st, s) => abortPart c st s
        | (none, s) => pumpData g rank n { c with sent := x.2.2.2.2 } s
    else setPart c s

/-- A participant sends what it may: its open packet, its codes, its contribution (R241, R243, R247, R248). -/
def pumpPart (p : PolderId) (id : BitVec 32) (s : State) : State :=
  match findPart s p id with
  | none => s
  | some c =>
    match findGroup s p c.launch.group with
    | none => s
    | some g =>
      let l := c.launch
      let rank := (ownRank g s).getD 0
      let data := fun (c : Participant) (s : State) =>
        pumpData g rank ((partTotal l + 255) / 256 + 1) c s
      let codes := fun (c : Participant) (s : State) =>
        if !needsBench l.modifier || c.coded then data c s
        else
          match readSource c 0 (contribBytes l) s with
          | (.fail st, _, s) => abortPart c st s
          | (.wait, _, s) => setPart c s
          | (.ready, b, s) =>
            let ks := (codeRuns 0 (sourceCodes l b)).map fun x =>
              (partPacket g c x.1 1 x.1 x.2 s, min l.count (256 * (x.1 + x.2.length)))
            match sendAll l.id ks s with
            | (some st, s) => abortPart c st s
            | (none, s) => data { c with coded := true } s
      if !c.fired then s
      else if c.opened then codes c s
      else
        match sendTracked (partPacket g c 0 0 0 (openPayload l g.digest) s) l.id 0 s with
        | (some st, s) => abortPart c st s
        | (none, s) => codes { c with opened := true } (traceColl false l (some c.context) .ok s)

/-- A launch whose mark has come contributes (R241, R253). -/
def fireLaunch (p : PolderId) (id : BitVec 32) (s : State) : State :=
  match findPart s p id with
  | some c => pumpPart p id (setPart { c with fired := true, progressAt := s.time } s)
  | none => s

/-! ### Launching (R239 to R241) -/

/-- The launch that a descriptor asks for (R387). -/
def descLaunch (d : Bytes) (p : PolderId) : Launch :=
  { polder := p, group := BitVec.ofNat 16 (leField d 8 2), id := BitVec.ofNat 32 (leField d 12 4),
    modifier := BitVec.ofNat 16 (leField d 10 2), count := leField d 16 5, threshold := BitVec.ofNat 32 (leField d 36 4),
    sinkDisp := BitVec.ofNat 24 (leField d 40 3), dstLength := leField d 31 5, step := BitVec.ofNat 64 (leField d 48 8),
    mark := BitVec.ofNat 64 (leField d 56 8) }

/-- The op_modifier of a sink's add: the launch's out_fmt into the sink's stored_fmt (R240, R251). -/
def sinkModifier (k : SinkEntry) (m : BitVec 16) : BitVec 16 :=
  BitVec.ofNat 16 (k.op.toNat + 16 * redOut m + 256 * k.fmt.toNat)

/-- Whether a count is not the multiple of 2,048 that an MX format asks for, as input or as output (R239, R240). -/
def mxCountBad (l : Launch) : Bool := (isMx (redIn l.modifier) || isMx (redOut l.modifier)) && l.count % 2048 ≠ 0

/-- Why a launch is refused with ST_BAD_PARAM (R232, R239, R240). -/
def launchBad (l : Launch) (s : State) : Bool :=
  match usableGroup s l.polder l.group with
  | none => true
  | some g =>
    l.count = 0 || 4294967296 < l.count || !redValid l.modifier false
      || mxCountBad l
      || (ownRank g s).isNone || (findPart s l.polder l.id).isSome
      || (isFilter l.modifier && !thresholdValid l.threshold)
      || decide (l.dstLength < resultBytes l g.ranks.length)
      || (!g.sinks.isEmpty && (isGather l.modifier || isFilter l.modifier
          || g.sinks.any fun k => !redValid (sinkModifier k l.modifier) true))

/-- COLLECTIVE_LAUNCH (R239 to R241, R284): the oldest launch descriptor of a queue that has not been taken; beyond 32 in
progress it waits. -/
def execCollectiveLaunch (queue : BitVec 8) (s : State) : Host.Outcome State Fault Refusal :=
  .next <|
    if !running s || 32 ≤ s.coll.participants.length then s
    else
      match nextOfKind s queue 2, findQueue s queue with
      | some d, some q =>
        match findContext s q.context with
        | none => s
        | some x =>
          let l := descLaunch d.data x.polder
          if hungFor s (rmuUnit s l.id) (some x.id) then s else
          withDomains (collDomains s l.id false) (fun s =>
          let s := beginDescriptor queue d.index s
          if launchBad l s then endDescriptor queue d.index .badParam 0 0 s
          else
            match markUse l.mark s with
            | .refused st => endDescriptor queue d.index st 0 0 s
            | use =>
              let c : Participant :=
                { launch := l, context := x.id, cls := x.cls, queue := queue, index := d.index, ctag := descCtag d.data,
                  src := BitVec.ofNat 40 (leField d.data 21 5), dst := BitVec.ofNat 40 (leField d.data 26 5),
                  fired := false, opened := false, coded := false, sent := 0, acked := 0, credit := 0, second := false,
                  written := [], through := 0, chunks := 0, writeStatus := none, progressAt := s.time }
              let s := modColl (fun y => { y with participants := y.participants ++ [c] }) s
              if use = .later then enqueueMark l.mark (.launch l.polder l.id) s
              else fireLaunch l.polder l.id (countLate l.mark s)) s
      | _, _ => s

/-! ### Receipts and results at a participant -/

/-- A receipt at a participant: credit, and at the end of a filter's count pass the start of its second (R246, R249). In
the second pass a receipt beyond what has been sent is a copy of one of the first, and changes nothing. -/
def partReceipt (c : Participant) (through credit : Nat) (s : State) : State :=
  let l := c.launch
  if c.second && decide (c.sent < through) then s else
  let s := clearSent l.polder l.id through credit s
  let restart : Bool := isFilter l.modifier && !c.second && c.acked = contribBytes l && through = 0 && decide (0 < credit)
  let c : Participant :=
    if restart then { c with second := true, sent := 0, acked := 0, credit := credit, progressAt := s.time }
    else if credit = 0 then { c with progressAt := s.time }
    else { c with acked := max c.acked through, credit := max c.credit credit, progressAt := s.time }
  pumpPart l.polder l.id (setPart c s)

/-- Report how far the result has come to the leaf (R250); a report that cannot be sealed ends the collective (R538). -/
def partReport (g : Group) (c : Participant) (s : State) : State :=
  match sendPacket (partPacket g c 0 5 0 (leBytes 8 c.through) s) s with
  | (none, s) => s
  | (some st, s) => abortPart c st s

/-- The range of a result packet: from, to, and the byte offset at dst_addr. -/
def resultRange (l : Launch) (r : Released) : Nat × Nat × Nat :=
  let o := r.inner.offset.toNat
  if isGather l.modifier || isFilter l.modifier then (o, o + r.payload.length, o)
  else
    let f := redOut l.modifier
    (o, min l.count (o + r.payload.length / unitBytes f * unitElems f), elemOffset f o)

/-- A result chunk at a participant: written once, counted even where its write fails, reported after every 64 chunks
and at the end (R250). In a filter each chunk may be the end, whose length no packet tells before done. A copy of a
chunk is dropped, and has nothing answered but the report at the end, which it repeats unchanged
(notes/assumptions/34.md). It waits in the inbox while its write must wait. -/
def partResult (g : Group) (c : Participant) (r : Released) (s : State) : State :=
  let l := c.launch
  let x := resultRange l r
  let atEnd := fun (c : Participant) => isFilter l.modifier || c.through = resultTotal l g.ranks.length
  if covers x.1 x.2.1 c.written then
    let s := setPart { c with progressAt := s.time } s
    if atEnd c then partReport g c s else s
  else
    match localCheck (.result l.polder l.id) c.context l.polder (c.dst.toNat + x.2.2) r.payload.length true s with
    | (.wait, s) => { s with link := { s.link with inbox := s.link.inbox ++ [r] } }
    | (u, s) =>
      let s := match u with
        | .ready => stackCount l.polder (c.dst.toNat + x.2.2) r.payload.length true
            (stackWrite (polderStackKey s l.polder) (c.dst.toNat + x.2.2) r.payload s)
        | _ => s
      let written := addRange x.1 x.2.1 c.written
      let c : Participant := { c with
        written := written
        through := reach written
        chunks := c.chunks + 1
        writeStatus := match c.writeStatus, u with
          | some st, _ => some st
          | none, .fail st => some st
          | none, _ => none
        progressAt := s.time }
      let s := setPart c s
      if atEnd c || c.chunks % 64 = 0 then partReport g c s else s

/-- Done at a participant: it completes with the status and flags, or with its own write status (R252). -/
def partDone (c : Participant) (r : Released) (s : State) : State :=
  completePart c (c.writeStatus.getD (packetStatus r)) (leNat r.payload) (packetFlags r) s

/-! ### Sinks (R245, R251) -/

/-- The sink record of a collective, in progress or ended. -/
def findSinkRec (s : State) (p : PolderId) (group : BitVec 16) (id : BitVec 32) : Option SinkRecord :=
  s.coll.sinks.find? fun k => k.polder = p && k.group = group && k.id = id

/-- Put a sink record in place. -/
def setSinkRec (k : SinkRecord) (s : State) : State :=
  modColl (fun c => { c with
    sinks := upsert (fun x => x.polder = k.polder && x.group = k.group && x.id = k.id) k c.sinks }) s

/-- Replace the blocks of 32 elements of a stored tile that a result touches: n elements from the first on (R212, R226). -/
def spliceTile (f first n : Nat) (old new : Bytes) : Bytes :=
  let width := 4 * mxBits f
  let hit := fun (b : Nat) => decide (32 * b < first + n) && decide (first < 32 * b + 32)
  let pick := fun (off len b : Nat) => slice (if hit b then new else old) off len
  (List.range 64).flatMap (fun b => pick b 1 b) ++ (List.range 64).flatMap fun b => pick (64 + width * b) width b

/-- The new stored bytes of whole tiles of an MX format, of which n elements from the first on are combined with a result
payload, with the flags. -/
def combineTiles (m : BitVec 16) (first n : Nat) (old payload : Bytes) : Bytes × BitVec 6 :=
  let f := redOut m
  let vals := decodeVals f old
  let ps := (decodeVals (redIn m) payload).take n
  let cs := (vals.zipIdx).map fun x =>
    if first ≤ x.2 && x.2 < first + n then reducePair (redOp m) x.1 (ps.getD (x.2 - first) .nan) else (x.1, 0)
  let e := encodeVals f 0 (fun _ => 0) (cs.map fun c => ⟨c.1, 1⟩)
  let tiles := (List.range (old.length / unitBytes f)).flatMap fun t =>
    let lo := max first (2048 * t)
    let hi := min (first + n) (2048 * t + 2048)
    spliceTile f (lo - 2048 * t) (hi - lo) (slice old (unitBytes f * t) (unitBytes f)) (slice e.1 (unitBytes f * t) (unitBytes f))
  (tiles, cs.foldl (fun a c => a ||| c.2) e.2)

/-- Checks 2 to 8 of R143 on a sink's add (R251); none when the extent's initialisation must be waited for. Check 7 takes
the shape of the add as that of a reduce whose payload is filled up to 64 B: the last chunk of a result may be shorter
(notes/assumptions/35). -/
def sinkChecks (r : Released) (off len : Nat) (s : State) : Option (Except Status Region) × State :=
  match findRegion s (keyIndex r.inner.regionKey), findPolder s r.polder with
  | some g, some q =>
    if g.key ≠ r.inner.regionKey || g.key = 0 then (some (.error .denied), keyMismatch r s)
    else if g.polderSlot ≠ q.slot then (some (.error .denied), targetRefused r 3 .denied s)
    else if g.withdrawing then (some (.error .revoked), s)
    else
      match findExtent s (BitVec.ofNat 13 g.index) with
      | none => (some (.error .denied), keyMismatch r s)
      | some e =>
        match leaseCheck e s with
        | (.wait, s) => (none, s)
        | (.revoked, s) => (some (.error .revoked), s)
        | (.pass, s) =>
          if !permits g 4 then (some (.error .denied), targetRefused r 6 .denied s)
          else if !shapeOk 4 r.inner.modifier r.inner.regionKey r.inner.offset ((r.payload.length + 63) / 64 * 64) then
            (some (.error .badParam), targetRefused r 7 .badParam s)
          else if g.length.toNat < off + len then (some (.error .badParam), targetRefused r 8 .badParam s)
          else (some (.ok g), s)
  | _, _ => (some (.error .denied), keyMismatch r s)

/-- The flags and the number of the n elements from the first on that a sink's add has combined: those whose stored
parts were written (R227, R486, R543). -/
def sinkCombined (m : BitVec 16) (first n : Nat) (payload old : Bytes) (parts : List (Nat × Nat)) : BitVec 6 × Nat :=
  let ue := groupElems m
  let ub := ue / unitElems (redOut m) * unitBytes (redOut m)
  let done := (List.range (old.length / ub)).filter fun j => partWritten parts (ub * j) ub
  done.foldl (fun acc j =>
    let lo := max first (ue * j)
    let hi := min (first + n) (ue * j + ue)
    let stored := slice old (ub * j) ub
    let piece := slice payload (elemOffset (redIn m) (lo - first)) (elemBytes (redIn m) (hi - lo))
    if hi ≤ lo then acc
    else if isMx (redOut m) then (acc.1 ||| (combineTiles m (lo - ue * j) (hi - lo) stored piece).2, acc.2 + (hi - lo))
    else (acc.1 ||| (reduceStored m stored piece).2, acc.2 + (hi - lo))) (0, 0)

/-- Add one result chunk to one sink of this instance: the status and flags; none when it must wait (R251). -/
def sinkAdd (k : SinkEntry) (disp first n : Nat) (r : Released) (s : State) : Option (Status × BitVec 6) × State :=
  let m := sinkModifier k r.inner.modifier
  let f := k.fmt.toNat
  let whole := (first + n + unitElems f - 1) / unitElems f * unitElems f
  let start := first / unitElems f * unitElems f
  let len := elemOffset f whole - elemOffset f start
  let off := k.offset.toNat + disp * 65536 + elemOffset f start
  let inner : Inner := { r.inner with
    offset := BitVec.ofNat 64 off, regionKey := k.key, opcode := 4, modifier := m, opLength := BitVec.ofNat 13 r.payload.length }
  let q : Released := { r with inner := inner }
  match sinkChecks q off len s with
  | (none, s) => (none, s)
  | (some (.error st), s) => (some (st, 0), s)
  | (some (.ok g), s) =>
    if !targetAdmits s [] r.cls then (none, s) else
    let new := fun (old : Bytes) =>
      if isMx f then combineTiles m (first - start) n old r.payload
      else reduceStored m old (padTo (elemBytes (redIn m) n) r.payload)
    match targetChange q.polder g off len false [] (fun old => some (new old).1) s with
    | (none, s) => (none, s)
    | (some (st, old, parts), s) =>
      let c := sinkCombined m (first - start) n r.payload old parts
      (some (st, c.1), meterElems r.polder c.2 s)

/-- Add a chunk to the sinks of this instance in turn, each with its index in the group: the record with the sinks added to,
the first failure and the flags, and whether one must wait. -/
def sinkAddAll (disp first n : Nat) (r : Released) : List (SinkEntry × Nat) → SinkRecord → State →
    Bool × SinkRecord × State
  | [], k, s => (false, k, s)
  | (e, i) :: t, k, s =>
    if k.adding.contains (first, i) then sinkAddAll disp first n r t k s
    else
      match sinkAdd e disp first n r s with
      | (none, s) => (true, k, s)
      | (some (st, fl), s) =>
        sinkAddAll disp first n r t { k with
          adding := k.adding ++ [(first, i)]
          failure := if st = .ok then k.failure else some (k.failure.getD st)
          flags := k.flags ||| fl } s

/-- Report to the root; the final report carries the first failure (R251). -/
def sinkReport (g : Group) (k : SinkRecord) (r : Released) (total : Nat) (s : State) : State :=
  let root := ((List.range g.nodes.length).find? fun j => nodeParent g j = j).getD 0
  let st : Status := if k.through = total then k.failure.getD .ok else .ok
  sendQuietly (collPacket g k.id r.cls true (toInst (nodeInst g root)) 0 5 0 r.inner.modifier st k.flags
    (leBytes 8 k.through) .none) s

/-- The index of the first sink entry of this instance. -/
def ownSinkIndex (g : Group) (s : State) : Nat := (g.sinks.findIdx? fun k => k.inst = s.boot.instanceId).getD 0

/-- The place of a packet in its stream (R57). -/
def streamPlace (r : Released) : BitVec 64 := BitVec.ofNat 64 (r.epoch.toNat * 4294967296 + r.counter.toNat)

/-- A sink record that has heard a packet: the latest place in each stream of its collective. -/
def hearPacket (r : Released) (k : SinkRecord) : SinkRecord :=
  let last := assocGet r.sid 0 k.heard
  { k with heard := assocSet r.sid (if last.toNat < (streamPlace r).toNat then streamPlace r else last) k.heard }

/-- Whether a result chunk that comes after its collective's done belongs to that collective (R251). The collective's
done says that every chunk has been added, and a copy sent before a packet of its stream that this sink has heard is one
of it. So is a copy sent again on another stream than that of done, for the 50 ms in which the fabric may still deliver
it (R165); any other packet belongs to a later collective of that number (notes/assumptions/35.md). -/
def lateChunk (k : SinkRecord) (r : Released) (s : State) : Bool :=
  match k.ended with
  | none => false
  | some (sid, at_) =>
    (k.heard.any fun h => h.1 = r.sid && decide ((streamPlace r).toNat ≤ h.2.toNat))
      || (r.retry && r.sid ≠ sid && decide (s.time < at_ + 50000000))

/-- The sink record under which a result chunk is added, a new one where there is room (R245). A copy of a chunk of a
collective that has ended here is dropped (R251, R541). -/
def sinkRecord (g : Group) (r : Released) (s : State) : Option SinkRecord × State :=
  let id := r.inner.regionKey
  let launch := Config.sinkLaunch g.polder id s.free
  let begun : SinkRecord :=
    { polder := g.polder, group := g.id, id := id, sink := ownSinkIndex g s, applied := [], through := 0, chunks := 0,
      failure := none, flags := 0, adding := [], disp := launch.1, total := launch.2, heard := [], ended := none }
  let begin_ := fun (s : State) =>
    if !g.sinks.any (fun k => k.inst = s.boot.instanceId) then (none, s)
    else if 256 ≤ (s.coll.sinks.filter fun k => k.ended.isNone).length then
      (none, modColl (fun c => { c with sinkDrops := c.sinkDrops + 1 }) s)
    else (some begun, setSinkRec begun (tookFree s))
  match findSinkRec s g.polder g.id id with
  | none => begin_ s
  | some k => if k.ended.isNone then (some k, s) else if lateChunk k r s then (none, s) else begin_ s

/-- A result chunk at a role-T instance (R245, R251). -/
def sinkResult (g : Group) (r : Released) (s : State) : State :=
  match sinkRecord g r s with
  | (none, s) => s
  | (some k, s) =>
    let k := hearPacket r k
    let f := redOut r.inner.modifier
    let first := r.inner.offset.toNat
    let last := min k.total (first + r.payload.length / unitBytes f * unitElems f)
    if covers first last k.applied then
      let s := setSinkRec k s
      if k.through = k.total then sinkReport g k r k.total s else s
    else
      match sinkAddAll k.disp.toNat first (last - first) r
          (g.sinks.zipIdx.filter fun x => x.1.inst = s.boot.instanceId) k s with
      | (true, k, s) => setSinkRec k { s with link := { s.link with inbox := s.link.inbox ++ [r] } }
      | (false, k, s) =>
        let applied := addRange first last k.applied
        let k : SinkRecord :=
          { k with applied := applied, through := reach applied, chunks := k.chunks + 1,
                   adding := k.adding.filter fun x => x.1 ≠ first }
        let s := setSinkRec k s
        if k.chunks % 64 = 0 || k.through = k.total then sinkReport g k r k.total s else s

/-- A sink's record ends with its collective's done; the latest 256 that ended are kept (notes/assumptions/35.md). -/
def dropSinkRec (p : PolderId) (group : BitVec 16) (id : BitVec 32) (r : Released) (s : State) : State :=
  match findSinkRec s p group id with
  | none => settleGroups s
  | some k =>
    let k : SinkRecord := { hearPacket r k with ended := some (r.sid, s.time) }
    let others := s.coll.sinks.filter fun x => !(x.polder = p && x.group = group && x.id = id)
    settleGroups (modColl (fun c => { c with
      sinks := (others.filter (·.ended.isNone)) ++ lastN 256 ((others.filter (·.ended.isSome)) ++ [k]) }) s)

end Sys2Proof.Machine
end

