-- ==== Sys2Proof/Machine/CollNode.lean ====
section
/-! DEFINITION. Collectives at a role-S node, and the commands of collective packets, re-sends and watchdogs (R243 to
R254). -/

namespace Sys2Proof.Machine

/-! ### Records -/

/-- A collective held by this node. -/
def findNode (s : State) (p : PolderId) (id : BitVec 32) : Option CollNode :=
  s.coll.nodes.find? fun n => n.launch.polder = p && n.launch.id = id

/-- Whether a record is that of the same collective. -/
def sameColl (a b : Launch) : Bool := a.polder = b.polder && a.id = b.id

/-- Replace a node's record. -/
def setNode (n : CollNode) (s : State) : State :=
  modColl (fun c => { c with nodes := upsert (fun x => sameColl x.launch n.launch) n c.nodes }) s

/-- The state of child k of a node. -/
def getKid (n : CollNode) (k : Nat) : NodeChild := n.kids.getD k { opened := false, through := 0, got := [], credit := 0 }

/-- Change child k of a node. -/
def modKid (k : Nat) (f : NodeChild → NodeChild) (n : CollNode) : CollNode := { n with kids := n.kids.modify k f }

/-- Free a node's record; elements out of window are recorded once per collective (R221, R245). A root that drew dither from the
polder's key holds its slot no more, so that a load may take it (R305, R306). -/
def freeNode (n : CollNode) (s : State) : State :=
  let l := n.launch
  let s := modColl (fun c => { c with nodes := c.nodes.filter fun x => !sameColl x.launch l }) (forgetPackets l.polder l.id s)
  let s := if n.outside = 0 then s
    else writeFault .collectiveOutOfWindow
      { unit := rmuUnit s l.id, polder := l.polder, count := n.outside,
        detail := leBytes 4 l.id.toNat ++ leBytes 8 n.outsideAt } s
  retryLoads (settleGroups s)

/-- A node aborts its collective (R253, R254). -/
def abortNode (g : Group) (n : CollNode) (st : Status) (inst : InstId) (s : State) : State :=
  sendAbort g n.launch.id n.cls n.launch.modifier (some n.node) st inst (freeNode n s)

/-! ### BAS (R5, R245) -/

/-- The bytes that a collective reserves per element; in a gather or filter the window counts bytes. -/
def reservedBytes (m : BitVec 16) (fanIn : Nat) : Nat :=
  if isGather m || isFilter m then 1
  else if redOp m = 1 || redOp m = 2 then 16
  else if redBenchmarked m then 32 else 4 * (fanIn + 2)

/-- The quanta of 128 KiB that are free: 512 in 64 MiB. -/
def freeQuanta (s : State) : Nat := 512 - s.coll.nodes.foldl (fun a n => a + n.quanta) 0

/-- The quanta that a window of 2,048 elements needs. -/
def leastQuanta (m : BitVec 16) (fanIn : Nat) : Nat := (2048 * reservedBytes m fanIn + 131071) / 131072

/-- The window of a share, rounded down to a multiple of 2,048. -/
def windowOf (m : BitVec 16) (fanIn quanta : Nat) : Nat := quanta * 131072 / reservedBytes m fanIn / 2048 * 2048

/-! ### Places in a gather or filter (R249) -/

/-- The bytes that a rank has of the result: its contribution, or its records as far as they are placed. -/
def rankBytes (n : CollNode) (r : Nat) : Nat :=
  if isGather n.launch.modifier then contribBytes n.launch
  else
    let base := assocGet r 0 n.bases
    if n.launch.dstLength ≤ base then 0 else assocGet r (assocGet r 0 n.sums) n.cuts

/-- Where the bytes of a rank begin in the stream of a set of ranks. -/
def rankStart (n : CollNode) (ranks : List Nat) (r : Nat) : Nat :=
  (ranks.filter fun x => decide (x < r)).foldl (fun a x => a + rankBytes n x) 0

/-- The rank of a set whose bytes hold a destination offset, with the place in them. -/
def rankAt (n : CollNode) (ranks : List Nat) (offset : Nat) : Option (Nat × Nat) :=
  let base := fun (r : Nat) => if isGather n.launch.modifier then r * contribBytes n.launch else assocGet r 0 n.bases
  let size := fun (r : Nat) => if isGather n.launch.modifier then contribBytes n.launch else assocGet r 0 n.sums
  (ranks.find? fun r => decide (base r ≤ offset) && decide (offset < base r + size r)).map fun r => (r, offset - base r)

/-- How much of a child's stream lies below a limit in this node's stream. -/
def streamCredit (g : Group) (n : CollNode) (k : Kid) (limit : Nat) : Nat :=
  let all := (ranksUnder g n.node).map (·.1)
  (ranksOf g n.node k).foldl (fun a r => a + min (rankBytes n r) (limit - rankStart n all r)) 0

/-- The whole of a child's stream. -/
def streamTotal (g : Group) (n : CollNode) (k : Kid) : Nat := (ranksOf g n.node k).foldl (fun a r => a + rankBytes n r) 0

/-! ### Receipts (R246, R247) -/

/-- Whether every child's open packet has come. -/
def allOpened (n : CollNode) : Bool := n.kids.all (·.opened)

/-- The blocks of 256 elements. -/
def blockCount (l : Launch) : Nat := (l.count + 255) / 256

/-- Whether the node holds every benchmark that it needs. -/
def benchHeld (n : CollNode) : Bool := !needsBench n.launch.modifier || n.bench.length = blockCount n.launch

/-- The credit of a child. -/
def kidCredit (g : Group) (n : CollNode) (i : Nat) (k : Kid) : Nat :=
  let l := n.launch
  let kid := getKid n i
  if !allOpened n || !benchHeld n then 0
  else if isGather l.modifier then streamCredit g n k (n.ackedUp + n.window)
  else if isFilter l.modifier then
    match k with
    | .node _ => if n.second then streamCredit g n k (n.ackedUp + n.window) else 0
    | .rank r =>
      if !n.second then min (contribBytes l) (kid.through + n.window)
      else
        let all := (ranksUnder g n.node).map (·.1)
        if rankStart n all r + assocGet r 0 n.placed < n.ackedUp + n.window then min (contribBytes l) (kid.through + 4096)
        else kid.through
  else min l.count (n.ackedUp + n.window)

/-- The receipt of a child. -/
def receiptPacket (g : Group) (n : CollNode) (i : Nat) (k : Kid) : TxPacket :=
  let kid := getKid n i
  collPacket g n.launch.id n.cls false (toInst (kidInst g k)) 0 4 0 n.launch.modifier .ok 0
    (leBytes 8 kid.through ++ leBytes 8 kid.credit) (.collective n.launch.polder n.launch.id)

/-- Bring the credits up to date: the node, with a receipt for each child whose credit has grown and for the one named. -/
def refreshCredit (g : Group) (n : CollNode) (named : Option Nat) : CollNode × List TxPacket :=
  (((kidsOf g n.node).zipIdx).foldl (fun (acc : CollNode × List TxPacket) x =>
    let kid := getKid acc.1 x.2
    let credit := max kid.credit (kidCredit g acc.1 x.2 x.1)
    let m := modKid x.2 (fun y => { y with credit := credit }) acc.1
    if credit ≠ kid.credit || named = some x.2 then (m, acc.2 ++ [receiptPacket g m x.2 x.1]) else (m, acc.2)) (n, []))

/-- Grant the credits and send the receipts; one that cannot be sealed ends the collective (R246, R538). -/
def grantCredit (g : Group) (n : CollNode) (named : Option Nat) (s : State) : State :=
  match refreshCredit g n named with
  | (n, ks) =>
    match sendEach ks s with
    | (none, s) => setNode n s
    | (some st, s) => abortNode g n st s.boot.instanceId s

/-! ### Sending up, and the root's results (R246, R248, R249) -/

/-- The packet of a piece: a partial or forwarded contribution to the parent, or a result of the root. -/
def piecePacket (g : Group) (n : CollNode) (x : OutPiece) : TxPacket :=
  let l := n.launch
  let lane := x.lane % 16
  if n.root then
    collPacket g l.id n.cls false (toMembers g) lane 2 x.offset l.modifier .ok n.flags x.payload (.collective l.polder l.id)
  else
    collPacket g l.id n.cls true (toInst (nodeInst g (nodeParent g n.node))) lane 2 x.offset l.modifier .ok n.flags
      x.payload (.collective l.polder l.id)

/-- Send every piece that the parent's credit, or at the root the result window, allows. -/
def sendPieces (g : Group) (n : CollNode) (s : State) : Option Status × CollNode × State :=
  let limit := if n.root then n.ackedUp + n.window else n.creditUp
  let go := n.out.filter fun x => !x.sent && x.pos + x.len ≤ limit
  let out := n.out.map fun x => if x.pos + x.len ≤ limit then { x with sent := true } else x
  match sendAll n.launch.id (go.map fun x => (piecePacket g n x, x.pos + x.len)) s with
  | (st, s) => (st, { n with out := out }, s)

/-- The result bytes of a run of final partials, with the flags and the elements out of window (R221, R223, R229). -/
def finalRun (m : BitVec 16) (l : Launch) (ranks : Nat) (bench : Nat → Int) (seed : Key256) (first : Nat)
    (ps : List (BitVec 128)) : Bytes × BitVec 6 × List Nat :=
  if redIn m = 5 then
    let word := fun (p : BitVec 128) =>
      if redOp m = 1 || redOp m = 2 then
        match decodeFmt fmtFp64 p.toNat with
        | .fin neg n e =>
          let x : Nat := if 0 ≤ e then n * 2 ^ e.toNat else n / 2 ^ (-e).toNat
          (if neg then -(BitVec.ofNat 32 x) else BitVec.ofNat 32 x)
        | _ => 0
      else p.setWidth 32
    (ps.flatMap fun p => leBytes 4 (word p).toNat, 0, [])
  else
    let xs := (ps.zipIdx).map fun x => (finalExact m (bench ((first + x.2) / 256)) ranks x.1, first + x.2)
    let e := encodeVals (redOut m) (redRounding m) (fun k => dither seed l.id l.step (first + k)) (xs.map fun x => x.1.1)
    (e.1, xs.foldl (fun a x => a ||| x.1.2.1) e.2, (xs.filter fun x => x.1.2.2).map (·.2))

/-- The benchmark of a block. -/
def blockBench (n : CollNode) (b : Nat) : Int := benchmarkOf (assocGet b 0 n.bench)

/-- Cut the next piece of combined elements: a packet's worth, or what is left at the end. -/
def cutPiece (g : Group) (n : CollNode) (seed : Key256) : Option CollNode :=
  let l := n.launch
  let m := l.modifier
  let per := if n.root then packetElems (redOut m) else perPacket (partialBytes m)
  let whole := decide (l.count ≤ 256 * n.nextBlock)
  if n.ready.isEmpty || (n.ready.length < per && !whole) then none
  else
    let run := n.ready.take per
    let first := n.outPos
    let x : Bytes × BitVec 6 × List Nat :=
      if n.root then finalRun m l g.ranks.length (blockBench n) seed first run
      else (run.flatMap fun p => leBytes (partialBytes m) p.toNat, 0, [])
    some { n with
      ready := n.ready.drop per
      out := n.out ++ [{ pos := first, len := run.length, offset := first, lane := first / 256, payload := x.1, sent := false }]
      outPos := first + run.length
      flags := n.flags ||| x.2.1
      outsideAt := if n.outside = 0 then x.2.2.headD n.outsideAt else n.outsideAt
      outside := n.outside + x.2.2.length }

/-- Cut pieces while there are any; n bounds them. -/
def cutPieces (g : Group) (seed : Key256) : Nat → CollNode → CollNode
  | 0, n => n
  | f + 1, n => match cutPiece g n seed with | some n => cutPieces g seed f n | none => n

/-- The input of a child for a block, when it is held. -/
def kidBlock (n : CollNode) (b i : Nat) : Option NodeInput := n.inputs.find? fun x => x.child = i && x.block = b

/-- Combine the blocks that every child has sent, in order, in rank order (R214, R219); n bounds them. A leaf counts each
element of the result once, however many of its contributions lost precision there (R227). -/
def combineBlocks : Nat → CollNode → State → CollNode × State
  | 0, n, s => (n, s)
  | f + 1, n, s =>
    let xs := (List.range n.kids.length).map (kidBlock n n.nextBlock)
    match xs.filterMap id with
    | [] => (n, s)
    | x :: t =>
      if xs.any (·.isNone) then (n, s)
      else
        let m := n.launch.modifier
        let c := t.foldl (fun (acc : List (BitVec 128) × BitVec 6) y =>
          let z := combineRuns m acc.1 y.values
          (z.1, acc.2 ||| z.2)) (x.values, n.flags)
        let elems := (t.length + 1) * x.values.length
        let s := meter n.launch.polder 5 elems s
        let s := countBy (if needsBench m then 0x2C1 else 0x2C2) elems s
        let lost := (x.lost ++ t.flatMap (·.lost)).eraseDups.length
        let s := if lost = 0 then s
          else modPolderCounters n.launch.polder (fun c => { c with precisionLoss := satAdd c.precisionLoss lost }) s
        combineBlocks f { n with
          ready := n.ready ++ c.1
          flags := c.2
          inputs := n.inputs.filter fun y => y.block ≠ n.nextBlock
          nextBlock := n.nextBlock + 1 } s

/-! ### The passes of a filter (R232, R249) -/

/-- The place of an element in the counting of a filter's dither. -/
def filterDither (seed : Key256) (l : Launch) (k : Nat) : Nat := dither seed l.id l.step k

/-- The block of the first element that bytes of a filter record hold: those at its start carry the chunk's number and the
count of pairs before the first pair, others begin with a pair (R232). -/
def recordBlock (m : BitVec 16) (b : Bytes) : Nat :=
  let i := leField b 8 4
  if i * unitBytes (redIn m) / 4096 = leField b 0 4 then i / 256 else leField b 0 4 / 256

/-- A filter record as pieces of at most 4,096 B, from a place in the node's stream and a destination offset on (R242,
R249). -/
def recordPieces (m : BitVec 16) (pos offset : Nat) (b : Bytes) : List OutPiece :=
  (List.range ((b.length + 4095) / 4096)).map fun i =>
    let piece := (b.drop (4096 * i)).take 4096
    { pos := pos + 4096 * i, len := piece.length, offset := offset + 4096 * i, lane := recordBlock m piece, payload := piece,
      sent := false }

/-- Filter the chunks of one participant that have come in order: count them, or place their records; n bounds them. -/
def filterKid (i r : Nat) (seed : Key256) (all : List Nat) : Nat → CollNode → CollNode
  | 0, n => n
  | f + 1, n =>
    let l := n.launch
    let m := l.modifier
    let kid := getKid n i
    match n.inputs.find? fun x => x.child = i && 4096 * x.block = kid.through with
    | none => n
    | some x =>
      let rec_ := filterRecord m l.threshold (filterDither seed l) x.block (4096 * x.block / unitBytes (redIn m)) x.raw
      let n : CollNode := { n with inputs := n.inputs.erase x, flags := n.flags ||| rec_.2 }
      let n := modKid i (fun y => { y with through := y.through + x.raw.length }) n
      let size := rec_.1.length
      if !n.second then filterKid i r seed all f { n with sums := assocSet r (assocGet r 0 n.sums + size) n.sums }
      else
        let base := assocGet r 0 n.bases
        let placed := assocGet r 0 n.placed
        if size = 0 || (n.cuts.lookup r).isSome || l.dstLength ≤ base then filterKid i r seed all f n
        else if l.dstLength < base + placed + size then
          filterKid i r seed all f { n with cuts := assocSet r placed n.cuts }
        else
          filterKid i r seed all f { n with
            placed := assocSet r (placed + size) n.placed
            out := n.out ++ recordPieces m (rankStart n all r + placed) (base + placed) rec_.1 }

/-- Filter what every participant of this leaf has sent in order. -/
def filterKids (g : Group) (seed : Key256) (n : CollNode) : CollNode :=
  let all := (ranksUnder g n.node).map (·.1)
  ((kidsOf g n.node).zipIdx).foldl (fun n x => match x.1 with
    | .rank r => filterKid x.2 r seed all (n.inputs.length + 1) n
    | .node _ => n) n

/-- Whether the count pass of the subtree is complete: every participant has been counted, every child node has sent its
counts. -/
def countsComplete (g : Group) (n : CollNode) : Bool :=
  ((kidsOf g n.node).zipIdx).all fun x => match x.1 with
    | .rank _ => (getKid n x.2).through = contribBytes n.launch
    | .node _ => (ranksOf g n.node x.1).all fun r => (n.sums.lookup r).isSome

/-- Entries of filter counts or bases, 256 in a packet. -/
def rankEntries (l : List (Nat × Nat)) : List Bytes :=
  (List.range ((l.length + 255) / 256)).map fun i =>
    ((l.drop (256 * i)).take 256).flatMap fun x => leBytes 2 x.1 ++ zeros 6 ++ leBytes 8 x.2

/-- Read entries of filter counts or bases. -/
def parseEntries (b : Bytes) : List (Nat × Nat) :=
  (List.range (b.length / 16)).map fun i => (leField b (16 * i) 2, leField b (16 * i + 8) 8)

/-- The bases of all ranks from their byte totals, in rank order. -/
def basesOf (sums : List (Nat × Nat)) (ranks : Nat) : List (Nat × Nat) :=
  ((List.range ranks).foldl (fun (acc : List (Nat × Nat) × Nat) r =>
    (acc.1 ++ [(r, acc.2)], acc.2 + assocGet r 0 sums)) ([], 0)).1

/-- The placement pass begins at this node: bases go to the child nodes, every child starts again (R249). -/
def beginPlacement (g : Group) (n : CollNode) (s : State) : Option Status × CollNode × State :=
  let l := n.launch
  let n : CollNode := { n with
    second := true
    kids := n.kids.map fun k => { k with through := 0, got := [], credit := 0 } }
  let ks := (kidsOf g n.node).flatMap fun k => match k with
    | .rank _ => []
    | .node _ =>
      let mine := n.bases.filter fun x => (ranksOf g n.node k).contains x.1
      (rankEntries mine).map fun b =>
        collPacket g l.id n.cls false (toInst (kidInst g k)) 0 3 0 l.modifier .ok 0 b (.collective l.polder l.id)
  match sendEach ks s with
  | (st, s) => (st, n, s)

/-- The packets that carry counts up, with the flags that filtering has raised (R249, R252). -/
def countPackets (g : Group) (n : CollNode) (mine : List (Nat × Nat)) : List (TxPacket × Nat) :=
  let l := n.launch
  let parent := toInst (nodeInst g (nodeParent g n.node))
  (rankEntries mine).map fun b =>
    (collPacket g l.id n.cls true parent 0 3 0 l.modifier .ok n.flags b (.collective l.polder l.id), 0)

/-- The receipts that end the count pass of the participants of a leaf (R246, R249). -/
def countReceipts (g : Group) (n : CollNode) : List TxPacket :=
  ((kidsOf g n.node).zipIdx).filterMap fun x => match x.1 with
    | .rank _ => some (receiptPacket g n x.2 x.1)
    | .node _ => none

/-- The end of a subtree's count pass: its counts go up, or the root computes the bases (R249). A root that is a leaf
receipts every participant's whole contribution before the placement pass starts them again. -/
def endCounts (g : Group) (n : CollNode) (s : State) : Option Status × CollNode × State :=
  let l := n.launch
  if !isFilter l.modifier || n.counted || !allOpened n || !countsComplete g n then (none, n, s)
  else
    let n : CollNode := { n with counted := true }
    if n.root then
      match sendEach (countReceipts g n) s with
      | (none, s) => beginPlacement g { n with bases := basesOf n.sums g.ranks.length } s
      | (some st, s) => (some st, n, s)
    else
      let mine := (ranksUnder g n.node).map fun x => (x.1, assocGet x.1 0 n.sums)
      match sendAll l.id (countPackets g n mine) s with
      | (st, s) => (st, n, s)

/-- The ranks whose records were cut short here or below, and not yet told to the parent. -/
def newCuts (old new : CollNode) : List (Nat × Nat) := new.cuts.filter fun x => !old.cuts.contains x

/-- Tell the parent where a rank's records end short of its count. -/
def sendCuts (g : Group) (old n : CollNode) (s : State) : Option Status × State :=
  if n.root then (none, s) else sendAll n.launch.id (countPackets g n (newCuts old n)) s

/-! ### Results reported (R250, R252) -/

/-- The least that has been reported of the result, over the children and at the root over the sinks; sinks are numbered
from 4,096 on. -/
def leastReport (g : Group) (n : CollNode) : Nat :=
  let kids := (List.range n.kids.length).map fun i => assocGet i 0 n.reports
  let sinks := if n.root then (List.range g.sinks.length).map fun i => assocGet (4096 + i) 0 n.reports else []
  (kids ++ sinks).foldl (fun a x => min a x) (kids.headD 0)

/-- The length of the whole result, once the node can know it: a filter's only at its root, when no rank can still be cut
short. -/
def wholeResult (g : Group) (n : CollNode) : Option Nat :=
  let l := n.launch
  if !isFilter l.modifier then some (resultTotal l g.ranks.length)
  else if !n.second || !n.root then none
  else
    let open_ := (List.range g.ranks.length).any fun r =>
      let base := assocGet r 0 n.bases
      decide (base < l.dstLength) && decide (l.dstLength < base + assocGet r 0 n.sums) && (n.cuts.lookup r).isNone
    if open_ then none else some ((List.range g.ranks.length).foldl (fun a r => a + rankBytes n r) 0)

/-- The length that done carries: in a filter, the length required (R249). -/
def doneLength (g : Group) (n : CollNode) : Nat :=
  let l := n.launch
  if isFilter l.modifier then (List.range g.ranks.length).foldl (fun a r => a + assocGet r 0 n.sums) 0
  else if isGather l.modifier then g.ranks.length * contribBytes l
  else elemBytes (redOut l.modifier) l.count

/-- The status that done carries: the failure of the lowest-numbered sink, or ST_EXHAUSTED of a filter cut short. -/
def doneStatus (g : Group) (n : CollNode) : Status :=
  let first := (List.range g.sinks.length).findSome? fun i => n.sinkFails.lookup i
  match first with
  | some st => st
  | none => if isFilter n.launch.modifier && n.launch.dstLength < doneLength g n then .exhausted else .ok

/-- The root multicasts done once everything has been reported, and frees its record (R252). -/
def tryDone (g : Group) (n : CollNode) (s : State) : Option State :=
  if n.root && allOpened n && wholeResult g n = some (leastReport g n) && n.ready.isEmpty then
    let l := n.launch
    let st := doneStatus g n
    let s := freeNode n s
    some (traceColl true l none st (sendQuietly
      (collPacket g l.id n.cls false (toMembers g) 0 6 0 l.modifier st n.flags (leBytes 8 (doneLength g n)) .none) s))
  else none

/-- Let a node do all it can: filter or combine, cut pieces, end its count pass, send, and grant credit; the child named gets
a receipt in any case. -/
def nodeWork (g : Group) (n : CollNode) (named : Option Nat) (s : State) : State :=
  let l := n.launch
  let m := l.modifier
  let dithered : Bool := redRounding m = 2 && (isFilter m || n.root)
  let key : KeyUse × State := if dithered then needKey l.polder 5 s else (.ready, s)
  match key with
  | (.failed st, s) => abortNode g n st s.boot.instanceId s
  | (.wait, s) => grantCredit g n named s
  | (.ready, s) =>
    let seed := polderKey s l.polder 5
    let old := n
    let n := if isFilter m then filterKids g seed n else n
    let x := if isFilter m || isGather m then (n, s) else combineBlocks (n.inputs.length + 1) n s
    let n := if isFilter m || isGather m then x.1 else cutPieces g seed (x.1.ready.length + 1) x.1
    match sendCuts g old n x.2 with
    | (some st, s) => abortNode g n st s.boot.instanceId s
    | (none, s) =>
      match endCounts g n s with
      | (some st, n, s) => abortNode g n st s.boot.instanceId s
      | (none, n, s) =>
        match sendPieces g n s with
        | (some st, n, s) => abortNode g n st s.boot.instanceId s
        | (none, n, s) =>
          match tryDone g n s with
          | some s => s
          | none => grantCredit g n named s

/-! ### Packets at a node -/

/-- The child that a packet comes from. -/
def kidFrom (g : Group) (j : Nat) (src : InstId) : Option (Nat × Kid) :=
  (((kidsOf g j).zipIdx).find? fun x => kidInst g x.1 = src).map fun x => (x.2, x.1)

/-- The launch that an open packet describes (R243). -/
def openLaunch (r : Released) : Launch :=
  { polder := r.polder, group := r.inner.ctag, id := r.inner.regionKey, modifier := r.inner.modifier,
    count := leField r.payload 16 8, threshold := BitVec.ofNat 32 (leField r.payload 24 4),
    sinkDisp := BitVec.ofNat 24 (leField r.payload 28 4), dstLength := leField r.payload 32 8,
    step := BitVec.ofNat 64 (leField r.payload 0 8), mark := BitVec.ofNat 64 (leField r.payload 8 8) }

/-- Whether an open packet agrees with the group, and describes a collective at all (R243). -/
def openFits (g : Group) (r : Released) : Bool :=
  let l := openLaunch r
  r.inner.seq = g.digest.setWidth 32 && leField r.payload 40 8 = g.digest.toNat
    && redValid l.modifier false && 1 ≤ l.count && l.count ≤ 4294967296 && !mxCountBad l

/-- The record of a node at its first open packet (R245). -/
def newNode (g : Group) (j quanta : Nat) (r : Released) (s : State) : CollNode :=
  let l := openLaunch r
  let fanIn := (kidsOf g j).length
  { launch := l, cls := r.cls, node := j, root := nodeParent g j = j,
    kids := List.replicate fanIn { opened := false, through := 0, got := [], credit := 0 },
    quanta := quanta, window := windowOf l.modifier fanIn quanta, codes := [], codesUp := 0, bench := [], inputs := [],
    nextBlock := 0, ready := [], out := [], outPos := 0, ackedUp := 0, creditUp := 0, sums := [], counted := false,
    bases := [], second := false, placed := [], cuts := [], reports := [], sinkFails := [], flags := 0, outside := 0,
    outsideAt := 0, firstAt := s.datum.value, progressAt := s.time }

/-- An open packet of child i joins the node's record (R243). -/
def joinOpen (g : Group) (n : CollNode) (i : Nat) (r : Released) (s : State) : State :=
  if !openFits g r || openLaunch r ≠ n.launch then abortNode g n .badParam s.boot.instanceId s
  else if (getKid n i).opened then nodeWork g n (some i) s
  else
    let s := if n.kids.any (·.opened) then recordLate g.polder r.src n.firstAt (some n.launch.step) s else s
    let n : CollNode := modKid i (fun k => { k with opened := true }) { n with progressAt := s.time }
    let l := n.launch
    if allOpened n && !n.root then
      let k := collPacket g l.id n.cls true (toInst (nodeInst g (nodeParent g n.node))) 0 0 0 l.modifier .ok 0
        (openPayload l g.digest) (.collective l.polder l.id)
      match sendTracked k l.id 0 s with
      | (some st, s) => abortNode g n st s.boot.instanceId s
      | (none, s) => nodeWork g n (some i) s
    else nodeWork g n (some i) s

/-- A packet that names another group than the node's collective of its number: the node aborts that collective along its own
group (R243, R254). -/
def groupMismatch (n : CollNode) (s : State) : State :=
  match findGroup s n.launch.polder n.launch.group with
  | some g => abortNode g n .badParam s.boot.instanceId s
  | none => freeNode n s

/-- The first open packet of a collective at a node (R243, R245). -/
def firstOpen (g : Group) (j i : Nat) (r : Released) (s : State) : State :=
  let m := r.inner.modifier
  let refuse := fun (st : Status) (s : State) => sendAbort g r.inner.regionKey r.cls m (some j) st s.boot.instanceId s
  if !openFits g r then refuse .badParam s
  else
    let least := leastQuanta m (kidsOf g j).length
    if freeQuanta s < least || 512 ≤ s.coll.nodes.length then refuse .busy (countBy 0x2C3 least s)
    else
      let n := newNode g j (min 32 (freeQuanta s)) r s
      joinOpen g n i r (traceColl false n.launch none .ok s)

/-- An open packet (R243, R245). -/
def serveOpen (g : Group) (r : Released) (s : State) : State :=
  match findNode s g.polder r.inner.regionKey with
  | some n =>
    if n.launch.group ≠ g.id then groupMismatch n s
    else
      match kidFrom g n.node r.src with
      | some (i, _) => joinOpen g n i r s
      | none => s
  | none =>
    match ownNode g s with
    | none => s
    | some j =>
      match kidFrom g j r.src with
      | some (i, _) => firstOpen g j i r s
      | none => s

/-- A packet of a collective in progress at this node, of the collective's own group (R243, R541). -/
def ofNode (serve : Group → CollNode → Released → State → State) (g : Group) (r : Released) (s : State) : State :=
  match findNode s g.polder r.inner.regionKey with
  | none => s
  | some n => if n.launch.group = g.id then serve g n r s else groupMismatch n s

/-- A packet of a collective in progress at this node, from a child whose open packet has come (R541). -/
def atNode (serve : Group → CollNode → Nat → Kid → Released → State → State) (g : Group) (r : Released) (s : State) :
    State :=
  ofNode (fun g n r s =>
    match kidFrom g n.node r.src with
    | none => s
    | some (i, k) => if (getKid n i).opened then serve g { n with progressAt := s.time } i k r s else s) g r s

/-- The blocks below which a child has sent every code. -/
def codesThrough (n : CollNode) (i : Nat) : Nat :=
  reach ((n.codes.filter fun c => c.1 = i).foldl (fun a c => addRange c.2.1 (c.2.1 + 1) a) [])

/-- The combined code of a block: the unsigned maximum over the children (R247). -/
def combinedCode (n : CollNode) (b : Nat) : Byte :=
  BitVec.ofNat 8 ((n.codes.filter fun c => c.2.1 = b).foldl (fun a c => max a c.2.2.toNat) 0)

/-- The reduced codes that a node sends down to every child node (R247). -/
def benchPackets (g : Group) (n : CollNode) : List TxPacket :=
  let l := n.launch
  let runs := codeRuns 0 ((List.range (blockCount l)).map fun b => assocGet b 0 n.bench)
  (kidsOf g n.node).flatMap fun k => match k with
    | .rank _ => []
    | .node _ => runs.map fun x =>
        collPacket g l.id n.cls false (toInst (kidInst g k)) (x.1 % 16) 1 x.1 l.modifier .ok 0 x.2
          (.collective l.polder l.id)

/-- Send the reduced codes down, then go on (R247). -/
def sendBench (g : Group) (n : CollNode) (named : Option Nat) (s : State) : State :=
  match sendEach (benchPackets g n) s with
  | (none, s) => nodeWork g n named s
  | (some st, s) => abortNode g n st s.boot.instanceId s

/-- Once the benchmarks are held, the data pass begins: every child starts from 0. -/
def beginData (n : CollNode) : CollNode := { n with kids := n.kids.map fun k => { k with through := 0 } }

/-- Benchmark codes of a child (R247): combined block by block, and forwarded, or at the root sent down. -/
def nodeCodes (g : Group) (n : CollNode) (i : Nat) (_ : Kid) (r : Released) (s : State) : State :=
  let l := n.launch
  let first := r.inner.offset.toNat
  if !needsBench l.modifier || blockCount l < first + r.payload.length then s
  else if benchHeld n then (if n.root then sendBench g n (some i) s else nodeWork g n (some i) s)
  else
    let fresh := (r.payload.zipIdx).filterMap fun x =>
      if n.codes.any fun c => c.1 = i && c.2.1 = first + x.2 then none else some (i, first + x.2, x.1)
    let n : CollNode := { n with codes := n.codes ++ fresh }
    let n := modKid i (fun k => { k with through := min l.count (256 * codesThrough n i) }) n
    let upTo := (List.range n.kids.length).foldl (fun a k => min a (codesThrough n k)) (blockCount l)
    if n.root then
      if upTo = blockCount l then
        let n := beginData { n with bench := (List.range upTo).map fun b => (b, combinedCode n b), codesUp := upTo, codes := [] }
        sendBench g n (some i) s
      else nodeWork g n (some i) s
    else if upTo = blockCount l || n.codesUp + 4096 ≤ upTo then
      let run := (List.range (upTo - n.codesUp)).map fun b => combinedCode n (n.codesUp + b)
      let ks := (codeRuns n.codesUp run).map fun x =>
        (collPacket g l.id n.cls true (toInst (nodeInst g (nodeParent g n.node))) (x.1 % 16) 1 x.1 l.modifier .ok 0 x.2
          (.collective l.polder l.id), min l.count (256 * (x.1 + x.2.length)))
      match sendAll l.id ks s with
      | (some st, s) => abortNode g n st s.boot.instanceId s
      | (none, s) => nodeWork g { n with codesUp := upTo } (some i) s
    else nodeWork g n (some i) s

/-- Benchmarks from the parent (R247): held, passed on to child nodes, and the data pass begins. -/
def nodeBench (g : Group) (n : CollNode) (r : Released) (s : State) : State :=
  let l := n.launch
  let first := r.inner.offset.toNat
  if n.root || benchHeld n || blockCount l < first + r.payload.length then s
  else
    let fresh := (r.payload.zipIdx).filterMap fun x =>
      if n.bench.any fun b => b.1 = first + x.2 then none else some (first + x.2, x.1)
    let n : CollNode := { n with bench := n.bench ++ fresh, progressAt := s.time }
    let s := clearSent l.polder l.id l.count 0 s
    if benchHeld n then
      sendBench g (beginData { n with codes := [] }) none s
    else setNode n s

/-- The partial elements of a packet: a participant's elements converted, or a child node's partials; with the flags and
the places of the elements whose precision was lost (R213, R217, R248). -/
def packetPartials (n : CollNode) (k : Kid) (r : Released) : List (BitVec 128) × BitVec 6 × List Nat :=
  let m := n.launch.modifier
  let first := r.inner.offset.toNat
  match k with
  | .node _ =>
    let w := partialBytes m
    ((List.range (r.payload.length / w)).map fun e => BitVec.ofNat 128 (leField r.payload (w * e) w), packetFlags r, [])
  | .rank _ =>
    let vals := (decodeVals (redIn m) r.payload).take (n.launch.count - first)
    let ps := (vals.zipIdx).map fun x => leafPartial m (blockBench n ((first + x.2) / 256)) x.1
    (ps.map (·.1), ps.foldl (fun a p => a ||| p.2) 0, (ps.zipIdx.filter fun p => p.1.2.getLsbD 5).map (·.2))

/-- A contribution or partial of a reduction (R246, R248): each block of a child is taken once. -/
def nodeReduce (g : Group) (n : CollNode) (i : Nat) (k : Kid) (r : Released) (s : State) : State :=
  let l := n.launch
  let first := r.inner.offset.toNat
  let x := packetPartials n k r
  let last := first + x.1.length
  let kid := getKid n i
  if first % 256 ≠ 0 || kid.credit < last || (last % 256 ≠ 0 && last ≠ l.count) then s
  else if covers first last kid.got then nodeWork g n (some i) s
  else
    let blocks := (List.range ((x.1.length + 255) / 256)).filter fun b => !covers (first + 256 * b)
      (min last (first + 256 * b + 256)) kid.got
    let inputs := blocks.map fun b =>
      ({ child := i, block := first / 256 + b, values := (x.1.drop (256 * b)).take 256,
         lost := (x.2.2.filter fun e => e / 256 = b).map (· % 256), raw := [] } : NodeInput)
    let got := addRange first last kid.got
    let n := modKid i (fun y => { y with got := got, through := reach got })
      { n with inputs := n.inputs ++ inputs, flags := n.flags ||| x.2.1 }
    nodeWork g n (some i) s

/-- Bytes of a gather, or records of a child node in a filter, are forwarded (R249). -/
def nodeForward (g : Group) (n : CollNode) (i : Nat) (k : Kid) (r : Released) (s : State) : State :=
  let mine := ranksOf g n.node k
  let all := (ranksUnder g n.node).map (·.1)
  match rankAt n mine r.inner.offset.toNat with
  | none => s
  | some (rank, off) =>
    let kid := getKid n i
    let first := rankStart n mine rank + off
    let last := first + r.payload.length
    if kid.credit < last then s
    else if covers first last kid.got then nodeWork g n (some i) s
    else
      let got := addRange first last kid.got
      let piece : OutPiece :=
        { pos := rankStart n all rank + off, len := r.payload.length, offset := r.inner.offset.toNat,
          lane := if isGather n.launch.modifier then byteBlock (redIn n.launch.modifier) off
            else recordBlock n.launch.modifier r.payload,
          payload := r.payload, sent := false }
      let n := modKid i (fun y => { y with got := got, through := reach got })
        { n with out := n.out ++ [piece], flags := n.flags ||| packetFlags r }
      nodeWork g n (some i) s

/-- A chunk sent again by a participant of which nothing of the placement pass has come: the receipt of its whole
contribution was lost, and is sent again, with the one that starts the placement pass (R246, R249;
notes/assumptions/34.md). -/
def countAgain (g : Group) (n : CollNode) (i : Nat) (k : Kid) (s : State) : State :=
  let whole := modKid i (fun y => { y with through := contribBytes n.launch }) n
  match sendEach [receiptPacket g whole i k, receiptPacket g n i k] s with
  | (none, s) => setNode n s
  | (some st, s) => abortNode g n st s.boot.instanceId s

/-- A chunk of a participant in a filter waits for its turn (R232, R249). -/
def nodeChunk (g : Group) (n : CollNode) (i : Nat) (k : Kid) (r : Released) (s : State) : State :=
  let at_ := r.inner.offset.toNat * unitBytes (redIn n.launch.modifier)
  let kid := getKid n i
  let count := n.second && r.retry && kid.through = 0 && !(n.inputs.any fun x => x.child = i)
  if count && kid.credit < at_ + r.payload.length then countAgain g n i k s
  else if at_ % 4096 ≠ 0 || kid.credit < at_ + r.payload.length then s
  else if at_ < kid.through || n.inputs.any (fun x => x.child = i && x.block = at_ / 4096) then nodeWork g n (some i) s
  else
    let chunk : NodeInput := { child := i, block := at_ / 4096, values := [], lost := [], raw := r.payload }
    nodeWork g { n with inputs := n.inputs ++ [chunk] } (some i) s

/-- A contribution or partial (R246, R248, R249). -/
def nodeContribution (g : Group) (n : CollNode) (i : Nat) (k : Kid) (r : Released) (s : State) : State :=
  let m := n.launch.modifier
  if !allOpened n || !benchHeld n then s
  else if isFilter m then (match k with | .rank _ => nodeChunk g n i k r s | .node _ => nodeForward g n i k r s)
  else if isGather m then nodeForward g n i k r s
  else nodeReduce g n i k r s

/-- Filter counts of a child node, or where its records were cut short (R249). -/
def nodeCounts (g : Group) (n : CollNode) (i : Nat) (k : Kid) (r : Released) (s : State) : State :=
  let mine := (parseEntries r.payload).filter fun x => (ranksOf g n.node k).contains x.1
  let n : CollNode := { n with flags := n.flags ||| packetFlags r }
  if !isFilter n.launch.modifier then s
  else if !n.second then
    let fresh := mine.filter fun x => (n.sums.lookup x.1).isNone
    nodeWork g { n with sums := n.sums ++ fresh } (some i) s
  else
    let fresh := mine.filter fun x => (n.cuts.lookup x.1).isNone && decide (x.2 < assocGet x.1 0 n.sums)
    let n' : CollNode := { n with cuts := n.cuts ++ fresh }
    match sendCuts g n n' s with
    | (some st, s) => abortNode g n' st s.boot.instanceId s
    | (none, s) => nodeWork g n' (some i) s

/-- Filter bases from the parent: the placement pass begins (R249). -/
def nodeBases (g : Group) (n : CollNode) (r : Released) (s : State) : State :=
  if !isFilter n.launch.modifier || n.root || n.second then s
  else
    let fresh := (parseEntries r.payload).filter fun x => (n.bases.lookup x.1).isNone
    let n : CollNode := { n with bases := n.bases ++ fresh, progressAt := s.time }
    if (ranksUnder g n.node).all fun x => (n.bases.lookup x.1).isSome then
      match beginPlacement g n s with
      | (none, n, s) => nodeWork g n none s
      | (some st, n, s) => abortNode g n st s.boot.instanceId s
    else setNode n s

/-- A receipt from the parent (R246). -/
def nodeReceipt (g : Group) (n : CollNode) (r : Released) (s : State) : State :=
  let l := n.launch
  let through := leField r.payload 0 8
  let credit := leField r.payload 8 8
  let s := clearSent l.polder l.id through credit s
  let n : CollNode := { n with progressAt := s.time }
  if n.root then s
  else if credit = 0 then setNode n s
  else
    let acked := max n.ackedUp through
    nodeWork g { n with
      ackedUp := acked
      creditUp := max n.creditUp credit
      out := n.out.filter fun x => acked < x.pos + x.len } none s

/-- A report of a child, or at the root of a sink (R250 to R252): the least of the subtree goes up, or frees results. -/
def nodeReport (g : Group) (n : CollNode) (r : Released) (s : State) : State :=
  let l := n.launch
  let v := leNat r.payload
  let kid := (kidFrom g n.node r.src).map (·.1)
  let sink := if n.root then g.sinks.findIdx? fun k => k.inst = r.src else none
  let n : CollNode := { n with progressAt := s.time }
  let n : CollNode :=
    match kid, sink with
    | some i, _ => { n with reports := assocSet i (max v (assocGet i 0 n.reports)) n.reports }
    | none, some i =>
      let same := (List.range g.sinks.length).filter fun k => (g.sinks.map (·.inst))[k]? = some r.src
      let st := packetStatus r
      let fails := if st = .ok || (n.sinkFails.lookup i).isSome then n.sinkFails else n.sinkFails ++ [(i, st)]
      { n with
        reports := same.foldl (fun a k => assocSet (4096 + k) (max v (assocGet (4096 + k) 0 a)) a) n.reports
        flags := n.flags ||| packetFlags r
        sinkFails := fails }
    | none, none => n
  let least := leastReport g n
  if n.root then
    let s := clearSent l.polder l.id least (if least = 0 then 0 else 1) s
    nodeWork g { n with ackedUp := max n.ackedUp least, out := n.out.filter fun x => least < x.pos + x.len } none s
  else if kid.isNone then s
  else
    match sendPacket (collPacket g l.id n.cls true (toInst (nodeInst g (nodeParent g n.node))) 0 5 0 l.modifier .ok 0
        (leBytes 8 least) (.collective l.polder l.id)) s with
    | (none, s) => setNode n s
    | (some st, s) => abortNode g n st s.boot.instanceId s

/-- Whether nothing more is asked of a node other than the root: everything below it has reported the whole result, or in a
filter it has passed on all it had. -/
def nodeFinished (g : Group) (n : CollNode) : Bool :=
  !n.root &&
    (if isFilter n.launch.modifier then
      n.second && n.out.isEmpty && ((kidsOf g n.node).zipIdx).all fun x => match x.1 with
        | .rank _ => (getKid n x.2).through = contribBytes n.launch
        | .node _ => (getKid n x.2).through = streamTotal g n x.1
    else leastReport g n = resultTotal n.launch g.ranks.length)

/-! ### Everyone's part -/

/-- A collective of this instance ends because a send of its packets can no longer be made, or a key cannot be had (R538). -/
def collectiveFailed (p : PolderId) (id : BitVec 32) (st : Status) (s : State) : State :=
  match findPart s p id with
  | some c => abortPart c st s
  | none =>
    match findNode s p id with
    | none => s
    | some n =>
      match findGroup s p n.launch.group with
      | some g => abortNode g n st s.boot.instanceId s
      | none => freeNode n s

/-- Let every collective of a polder that waited for a key or a fill go on. -/
def pumpColl (p : PolderId) (s : State) : State :=
  let s := (s.coll.participants.filter fun c => c.launch.polder = p).foldl (fun t c => pumpPart p c.launch.id t) s
  (s.coll.nodes.filter fun n => n.launch.polder = p).foldl (fun t n =>
    match findNode t p n.launch.id, findGroup t p n.launch.group with
    | some m, some g => if allOpened m then nodeWork g m none t else t
    | _, _ => t) s

/-- End every collective of this instance that a test names, silently: participants complete with a status (R254, R449). -/
def endColl (mine : Launch → Bool) (st : Status) (s : State) : State :=
  let s := (s.coll.participants.filter fun c => mine c.launch).foldl (fun t c => completePart c st 0 0 t) s
  (s.coll.nodes.filter fun n => mine n.launch).foldl (fun t n => freeNode n t) s

/-- The collectives of the groups that name an unreachable instance end (R254, R545). -/
def unreachableColl (i : InstId) (s : State) : State :=
  let mine := fun (l : Launch) => match findGroup s l.polder l.group with | some g => groupNames g i | none => false
  let s := endColl mine .targetDead s
  let sink := fun (k : SinkRecord) => match findGroup s k.polder k.group with | some g => groupNames g i | none => false
  settleGroups (modColl (fun c => { c with sinks := c.sinks.filter fun k => !sink k }) s)

/-! ### Meanings -/

/-- OPEN (R243, R245). -/
def execOpen (s : State) : Host.Outcome State Fault Refusal := .next (serveColl true 0 false serveOpen s)

/-- BENCHMARK_CODES (R247). -/
def execBenchmarkCodes (s : State) : Host.Outcome State Fault Refusal := .next (serveColl true 1 false (atNode nodeCodes) s)

/-- BENCHMARKS (R247). -/
def execBenchmarks (s : State) : Host.Outcome State Fault Refusal :=
  .next (serveColl false 1 false (ofNode nodeBench) s)

/-- CONTRIBUTION (R246, R248, R249). -/
def execContribution (s : State) : Host.Outcome State Fault Refusal :=
  .next (serveColl true 2 false (atNode nodeContribution) s)

/-- RESULT (R250, R251): at a participant written, at a sink added. -/
def execResult (s : State) : Host.Outcome State Fault Refusal :=
  .next (serveColl false 2 false (fun g r s =>
    if s.boot.role = .t then sinkResult g r s
    else
      match findPart s g.polder r.inner.regionKey with
      | some c => if c.launch.group = g.id then partResult g c r s else s
      | none => s) s)

/-- FILTER_COUNTS (R249). -/
def execFilterCounts (s : State) : Host.Outcome State Fault Refusal := .next (serveColl true 3 false (atNode nodeCounts) s)

/-- FILTER_BASES (R249). -/
def execFilterBases (s : State) : Host.Outcome State Fault Refusal :=
  .next (serveColl false 3 false (ofNode nodeBases) s)

/-- RECEIPT (R246). -/
def execReceipt (s : State) : Host.Outcome State Fault Refusal :=
  .next (serveColl false 4 false (fun g r s =>
    match findPart s g.polder r.inner.regionKey with
    | some c => if c.launch.group = g.id then partReceipt c (leField r.payload 0 8) (leField r.payload 8 8) s else s
    | none => ofNode nodeReceipt g r s) s)

/-- REPORT (R250 to R252). -/
def execReport (s : State) : Host.Outcome State Fault Refusal :=
  .next (serveColl true 5 false (ofNode nodeReport) s)

/-- DONE (R252). -/
def execDone (s : State) : Host.Outcome State Fault Refusal :=
  .next (serveColl false 6 false (fun g r s =>
    let id := r.inner.regionKey
    match findPart s g.polder id, findNode s g.polder id with
    | some c, _ => if c.launch.group = g.id then partDone c r s else s
    | none, some n => if n.launch.group = g.id then freeNode n s else s
    | none, none => dropSinkRec g.polder g.id id r s) s)

/-- COLLECTIVE_WATCHDOG (R253). A collective that waits for an instance that was removed from the polder ends so, on the
watchdog; nothing of it is tried again (R451). -/
def execCollectiveWatchdog (polder : PolderId) (collective : BitVec 32) (s : State) : Host.Outcome State Fault Refusal :=
  .next <|
    let due := fun (g : Group) (at_ : Nat) => decide (at_ + g.watchdog * 1000000 ≤ s.time)
    match findPart s polder collective, findNode s polder collective with
    | some c, _ =>
      (match findGroup s polder c.launch.group with
       | some g => if c.fired && due g c.progressAt then abortPart c .timeout s else s
       | none => s)
    | none, some n =>
      (match findGroup s polder n.launch.group with
       | some g =>
         if !due g n.progressAt then s
         else if nodeFinished g n then freeNode n s
         else abortNode g n .timeout s.boot.instanceId s
       | none => s)
    | none, none => s

/-- A packet as it is sent again: a participant reads its contribution anew (R246). -/
def freshPacket (k : CollSent) (s : State) : LocalUse × TxPacket × State :=
  match findPart s k.packet.polder k.id with
  | some c =>
    if k.packet.inner.opFlags = 2 then
      let at_ : Nat :=
        if isGather c.launch.modifier then k.packet.inner.offset.toNat % contribBytes c.launch
        else elemOffset (redIn c.launch.modifier) k.packet.inner.offset.toNat
      let x := readSource c at_ k.packet.payload.length s
      (x.1, { k.packet with payload := x.2.1, retry := true }, x.2.2)
    else (.ready, { k.packet with retry := true }, s)
  | none => (.ready, { k.packet with retry := true }, s)

/-- COLLECTIVE_RESEND (R246, R254): 250 µs after it was sent a packet is sent again; after three re-sends its collective is
aborted with ST_TIMEOUT. -/
def execCollectiveResend (index : Nat) (s : State) : Host.Outcome State Fault Refusal :=
  .next <|
    match s.coll.sent[index]? with
    | none => s
    | some k =>
      if s.time < k.sentAt + 250000 || s.link.txWait.any (fun w => decide (w.inner = k.packet.inner)) then s
      else if 3 ≤ k.resends then collectiveFailed k.packet.polder k.id .timeout s
      else
        match freshPacket k s with
        | (.wait, _, s) => s
        | (.fail st, _, s) => collectiveFailed k.packet.polder k.id st s
        | (.ready, packet, s) =>
          let again := fun (x : CollSent) => if x = k then { x with sentAt := s.time, resends := x.resends + 1 } else x
          match sendPacket packet (modColl (fun c => { c with sent := c.sent.map again }) s) with
          | (none, s) => s
          | (some st, s) => collectiveFailed k.packet.polder k.id st s

end Sys2Proof.Machine
end

