-- ==== Sys2Proof/Machine/Barriers.lean ====
section
/-! DEFINITION. Barriers at participants and nodes, and the aborts of collectives and barriers (R253, R267 to R275). -/

namespace Sys2Proof.Machine

/-- Change the barrier state. -/
def modBars (f : Barriers → Barriers) (s : State) : State := { s with bars := f s.bars }

/-- The arrival of this participant at a barrier. -/
def findArrival (s : State) (p : PolderId) (id : BitVec 32) : Option Arrival :=
  s.bars.arrivals.find? fun a => a.polder = p && a.id = id

/-- The counter of a barrier at this node. -/
def findCounter (s : State) (p : PolderId) (id : BitVec 32) : Option BarrierCounter :=
  s.bars.counters.find? fun c => c.polder = p && c.id = id

/-- Replace a barrier counter, or add it. -/
def setCounter (c : BarrierCounter) (s : State) : State :=
  modBars (fun b => { b with counters := upsert (fun x => x.polder = c.polder && x.id = c.id) c b.counters }) s

/-- Send a barrier packet (R269). -/
def barrierPacket (g : Group) (id : BitVec 32) (cls : BitVec 4) (up : Bool) (dest : Dest) (type : BitVec 4) (offset : Nat)
    (st : Status) (retry : Bool) (owner : TxOwner) : TxPacket :=
  { collPacket g id cls up dest 0 type offset 0 st 0 [] owner with retry := retry }

/-- The leaf of this participant. -/
def ownLeaf (g : Group) (s : State) : InstId :=
  match (ownRank g s).bind fun r => g.ranks[r]? with | some e => nodeInst g e.leaf | none => 0

/-- Complete a participant's arrival (R272, R274, R275). -/
def completeArrival (a : Arrival) (st : Status) (s : State) : State :=
  let s := modBars (fun b => { b with arrivals := b.arrivals.filter fun x => !(x.polder = a.polder && x.id = a.id) }) s
  let s := { s with link := { s.link with txWait := s.link.txWait.filter fun k => k.owner ≠ .barrier a.polder a.id } }
  settleGroups (endDescriptor a.queue a.index st 0 0 s)

/-- Free a node's counter and enter the outcome in the released list, whose oldest entry makes room (R270, R271). -/
def endCounter (p : PolderId) (group : BitVec 16) (id : BitVec 32) (st : Status) (s : State) : State :=
  let e : ReleasedBarrier := { polder := p, group := group, id := id, status := st, at_ := s.time }
  let s := modBars (fun b => { b with
    counters := b.counters.filter fun c => !(c.polder = p && c.id = id)
    released := lastN 4096 (b.released ++ [e]) }) s
  settleGroups { s with link := { s.link with txWait := s.link.txWait.filter fun k => k.owner ≠ .barrier p id } }

/-- A node aborts a barrier: up to the root, which tells every member (R270, R274, R275). -/
def abortBarrier (g : Group) (j : Nat) (id : BitVec 32) (cls : BitVec 4) (st : Status) (inst : InstId) (s : State) : State :=
  sendAbort g id cls 0 (some j) st inst (endCounter g.polder g.id id st s)

/-! ### Arriving (R267, R268) -/

/-- Why an arrival is refused with ST_BAD_PARAM. -/
def arrivalBad (d : Bytes) (c : Context) (s : State) : Bool :=
  let id := BitVec.ofNat 32 (leField d 16 4)
  match usableGroup s c.polder (BitVec.ofNat 16 (leField d 8 2)) with
  | none => true
  | some g =>
    (ownRank g s).isNone || (findArrival s c.polder id).isSome || (findPart s c.polder id).isSome
      || 48 ≤ leField d 12 1
      || (match coreContext s (BitVec.ofNat 9 (leField d 10 2)) with
          | some x => x.polder ≠ c.polder
          | none => true)

/-- Begin an arrival: its packet goes to the leaf, or cannot be sent (R267, R268, R538). -/
def beginArrival (a : Arrival) (s : State) : State :=
  let s := modBars (fun b => { b with arrivals := b.arrivals ++ [a] }) s
  match usableGroup s a.polder a.group with
  | none => s
  | some g =>
    match sendPacket (barrierPacket g a.id a.cls true (toInst (ownLeaf g s)) 0 0 .ok false (.barrier a.polder a.id)) s with
    | (none, s) => s
    | (some st, s) => completeArrival a st s

/-- BARRIER_ARRIVE (R267, R268): the oldest arrival descriptor of a queue that has not been taken; beyond 32 in progress it
waits, and a stopped context begins none (R264). -/
def execBarrierArrive (queue : BitVec 8) (s : State) : Host.Outcome State Fault Refusal :=
  .next <|
    if !running s || 32 ≤ s.bars.arrivals.length then s
    else
      match nextOfKind s queue 3, findQueue s queue with
      | some d, some q =>
        match findContext s q.context with
        | none => s
        | some c =>
          let id := BitVec.ofNat 32 (leField d.data 16 4)
          withDomains (collDomains s id true) (fun s =>
            let s := beginDescriptor queue d.index s
            if arrivalBad d.data c s then endDescriptor queue d.index .badParam 0 0 s
            else
              beginArrival
                { polder := c.polder, group := BitVec.ofNat 16 (leField d.data 8 2), id := id, context := c.id, cls := c.cls,
                  queue := queue, index := d.index, ctag := descCtag d.data, core := BitVec.ofNat 9 (leField d.data 10 2),
                  counter := BitVec.ofNat 6 (leField d.data 12 1), increment := BitVec.ofNat 32 (leField d.data 20 4),
                  start := s.time, lastTx := s.time } s) s
      | _, _ => s

/-! ### Arrivals and releases at a node (R270, R271) -/

/-- The children of a node that have not arrived. -/
def missingKids (g : Group) (c : BarrierCounter) : List InstId :=
  (((kidsOf g c.node).zipIdx).filter fun x => !c.children.getLsbD x.2).map fun x => kidInst g x.1

/-- All children have arrived: the arrival goes up, or the root multicasts the release (R270). What cannot be sealed ends the
barrier (R538). -/
def fullCounter (g : Group) (c : BarrierCounter) (s : State) : State :=
  if nodeParent g c.node = c.node then
    match sendPacket (barrierPacket g c.id c.cls false (toMembers g) 6 0 .ok false .none) s with
    | (none, s) => endCounter c.polder c.group c.id .ok s
    | (some st, s) => abortBarrier g c.node c.id c.cls st s.boot.instanceId s
  else
    match sendPacket (barrierPacket g c.id c.cls true (toInst (nodeInst g (nodeParent g c.node))) 0 0 .ok false
        (.barrier c.polder c.id)) (setCounter { c with sentUp := true, lastTx := s.time } s) with
    | (none, s) => s
    | (some st, s) => abortBarrier g c.node c.id c.cls st s.boot.instanceId s

/-- Answer an arrival that matches an entry of the released list: the outcome goes to that child alone (R271). -/
def answerReleased (g : Group) (e : ReleasedBarrier) (r : Released) (s : State) : State :=
  let type : BitVec 4 := if e.status = .ok then 6 else 7
  let inst := if e.status = .ok then 0 else s.boot.instanceId.toNat
  sendQuietly (barrierPacket g e.id r.cls false (toInst r.src) type inst e.status false .none) s

/-- A barrier arrival at a node (R270, R271). -/
def serveArrival (g : Group) (r : Released) (s : State) : State :=
  let id := r.inner.regionKey
  match ownNode g s with
  | none => s
  | some j =>
    match kidFrom g j r.src with
    | none => s
    | some (i, _) =>
      match findCounter s g.polder id with
      | some c =>
        if c.group ≠ g.id || c.children.getLsbD i then s
        else
          let s := recordLate g.polder r.src c.firstAt none s
          let c : BarrierCounter := { c with children := c.children ||| BitVec.ofNat 64 (2 ^ i) }
          if (missingKids g c).isEmpty then fullCounter g c s else setCounter c s
      | none =>
        match s.bars.released.find? fun e => e.polder = g.polder && e.group = g.id && e.id = id with
        | some e => answerReleased g e r s
        | none =>
          if 4096 ≤ s.bars.counters.length then abortBarrier g j id r.cls .busy s.boot.instanceId s
          else
            let c : BarrierCounter :=
              { polder := g.polder, group := g.id, id := id, cls := r.cls, node := j, children := BitVec.ofNat 64 (2 ^ i),
                first := s.time, firstAt := s.datum.value, sentUp := false, lastTx := s.time }
            if (missingKids g c).isEmpty then fullCounter g c (setCounter c s) else setCounter c s

/-! ### Releases at a participant (R272) -/

/-- Add the release increment to the named counter (R260, R263, R264): the status of the arrival. -/
def applyRelease (a : Arrival) (s : State) : Status × State :=
  match coreContext s a.core with
  | none => (.squashed, s)
  | some c =>
    if c.polder ≠ a.polder || c.state ≠ .bound then (.squashed, s)
    else if a.increment = 0 then (.ok, s)
    else
      let v := syncValue s a.core a.counter
      if 4294967296 ≤ v.toNat + a.increment.toNat then
        (.squashed, syncFault a.core a.counter a.increment .syncOverflow none 0 s)
      else (.ok, changeSync a.core a.counter (v + a.increment) s)

/-- A barrier release (R270, R272). -/
def serveRelease (g : Group) (r : Released) (s : State) : State :=
  let id := r.inner.regionKey
  if s.boot.role = .t then modBars (fun b => { b with dropped := satInc b.dropped }) s
  else
    match findArrival s g.polder id, findCounter s g.polder id with
    | some a, _ =>
      if a.group ≠ g.id then s
      else
        let x := applyRelease a s
        completeArrival a x.1 x.2
    | none, some c => if c.group = g.id then endCounter g.polder g.id id .ok s else s
    | none, none => s

/-! ### Aborts (R253, R275) -/

/-- An abort on its way up: the node ends what it holds and passes the abort on (R253, R274, R275). -/
def serveAbortUp (g : Group) (r : Released) (s : State) : State :=
  let id := r.inner.regionKey
  let st := packetStatus r
  let inst := BitVec.ofNat 13 r.inner.offset.toNat
  match ownNode g s with
  | none => s
  | some j =>
    match findNode s g.polder id, findCounter s g.polder id with
    | some n, _ => if n.launch.group = g.id then abortNode g n st inst s else s
    | none, some c => if c.group = g.id then abortBarrier g j id c.cls st inst s else s
    | none, none =>
      if s.bars.released.any fun e => e.polder = g.polder && e.group = g.id && e.id = id then s
      else sendAbort g id r.cls r.inner.modifier (some j) st inst s

/-- An abort from the root or a parent: it ends the collective or barrier here (R253, R275). -/
def serveAbortDown (g : Group) (r : Released) (s : State) : State :=
  let id := r.inner.regionKey
  let st := packetStatus r
  let s := match findPart s g.polder id with
    | some c => if c.launch.group = g.id then completePart c st 0 (packetFlags r) s else s
    | none => s
  let s := match findArrival s g.polder id with
    | some a => if a.group = g.id then completeArrival a st s else s
    | none => s
  let s := match findNode s g.polder id with
    | some n => if n.launch.group = g.id then freeNode n s else s
    | none => s
  let s := match findCounter s g.polder id with
    | some c => if c.group = g.id then endCounter g.polder g.id id st s else s
    | none => s
  dropSinkRec g.polder g.id id r s

/-! ### Everyone's part -/

/-- A participant's arrival, or a node's, whose send can no longer be made (R538). -/
def barrierFailed (p : PolderId) (id : BitVec 32) (st : Status) (s : State) : State :=
  match findArrival s p id with
  | some a => completeArrival a st s
  | none =>
    match findCounter s p id with
    | none => s
    | some c =>
      match findGroup s p c.group with
      | some g => abortBarrier g c.node id c.cls st s.boot.instanceId s
      | none => endCounter p c.group id st s

/-- End every barrier of this instance that a test names: participants complete with a status (R275, R449). -/
def endBarriers (mine : PolderId → BitVec 16 → Bool) (st : Status) (s : State) : State :=
  let s := (s.bars.arrivals.filter fun a => mine a.polder a.group).foldl (fun t a => completeArrival a st t) s
  settleGroups (modBars (fun b => { b with
    counters := b.counters.filter fun c => !mine c.polder c.group
    released := b.released.filter fun e => !mine e.polder e.group }) s)

/-! ### Meanings -/

/-- ABORT (R253, R275): of a collective or a barrier, on its way up or down. -/
def execAbort (s : State) : Host.Outcome State Fault Refusal :=
  .next <|
    match nextColl s true 7 true with
    | some _ => serveColl true 7 true serveAbortUp s
    | none => serveColl false 7 true serveAbortDown s

/-- BARRIER_ARRIVAL (R270, R271). -/
def execBarrierArrival (s : State) : Host.Outcome State Fault Refusal := .next (serveColl true 0 true serveArrival s)

/-- BARRIER_RELEASE (R272). -/
def execBarrierRelease (s : State) : Host.Outcome State Fault Refusal := .next (serveColl false 6 true serveRelease s)

/-- BARRIER_ARRIVAL_RESEND (R271). -/
def execBarrierArrivalResend (polder : PolderId) (barrier : BitVec 32) (s : State) : Host.Outcome State Fault Refusal :=
  .next <|
    let waits := s.link.txWait.any fun k => decide (k.owner = .barrier polder barrier)
    match findArrival s polder barrier, findCounter s polder barrier with
    | some a, _ =>
      (match usableGroup s polder a.group with
       | none => s
       | some g =>
         if waits || s.time < a.lastTx + 250000 then s
         else
           let again := fun (x : Arrival) => if x.polder = polder && x.id = barrier then { x with lastTx := s.time } else x
           match sendPacket (barrierPacket g a.id a.cls true (toInst (ownLeaf g s)) 0 0 .ok true (.barrier polder barrier))
               (modBars (fun b => { b with arrivals := b.arrivals.map again }) s) with
           | (none, s) => s
           | (some st, s) => completeArrival a st s)
    | none, some c =>
      (match usableGroup s polder c.group with
       | none => s
       | some g =>
         if waits || !c.sentUp || s.time < c.lastTx + 250000 then s
         else
           match sendPacket (barrierPacket g c.id c.cls true (toInst (nodeInst g (nodeParent g c.node))) 0 0 .ok true
               (.barrier polder barrier)) (setCounter { c with lastTx := s.time } s) with
           | (none, s) => s
           | (some st, s) => abortBarrier g c.node c.id c.cls st s.boot.instanceId s)
    | none, none => s

/-- Put an ID into a list that rises. -/
def insertId (i : InstId) : List InstId → List InstId
  | [] => [i]
  | x :: t => if i.toNat ≤ x.toNat then i :: x :: t else x :: insertId i t

/-- Up to 16 instance IDs of 13 bits, the lowest first, packed into 26 bytes (R274, R433). -/
def packIds (l : List InstId) : Bytes := leBytes 26 (((l.foldr insertId []).take 16).foldr (fun i a => i.toNat + 8192 * a) 0)

/-- BARRIER_NODE_WATCHDOG (R274): also where an instance that was removed from the polder is awaited (R451). -/
def execBarrierNodeWatchdog (polder : PolderId) (barrier : BitVec 32) (s : State) : Host.Outcome State Fault Refusal :=
  .next <|
    match findCounter s polder barrier with
    | none => s
    | some c =>
      match findGroup s polder c.group with
      | none => s
      | some g =>
        if s.time < c.first + g.watchdog * 1000000 then s
        else
          let missing := missingKids g c
          let s := writeFault .barrierWatchdog
            { unit := barrierUnit s barrier, polder := polder, count := missing.length,
              detail := leBytes 2 c.group.toNat ++ leBytes 4 barrier.toNat ++ packIds missing } s
          abortBarrier g c.node barrier c.cls .timeout s.boot.instanceId s

/-- BARRIER_PARTICIPANT_WATCHDOG (R274): also where an instance that was removed from the polder is awaited (R451). -/
def execBarrierParticipantWatchdog (polder : PolderId) (barrier : BitVec 32) (s : State) :
    Host.Outcome State Fault Refusal :=
  .next <|
    match findArrival s polder barrier with
    | none => s
    | some a =>
      match findGroup s polder a.group with
      | none => s
      | some g =>
        if s.time < a.start + g.watchdog * 1000000 + 10000000 then s
        else
          let s := writeFault .barrierWatchdog
            { unit := barrierUnit s barrier, polder := polder, context := some a.context, peer := some (ownLeaf g s),
              count := 1, detail := leBytes 2 a.group.toNat ++ leBytes 4 barrier.toNat ++ packIds [ownLeaf g s] } s
          completeArrival a .timeout s

/-- RELEASED_LIST_EXPIRY (R271). -/
def execReleasedListExpiry (index : Nat) (s : State) : Host.Outcome State Fault Refusal :=
  .next <|
    match s.bars.released[index]? with
    | some e =>
      if e.at_ + 100000000 ≤ s.time then modBars (fun b => { b with released := removeAt index b.released }) s else s
    | none => s

end Sys2Proof.Machine
end

