-- ==== Sys2Proof/Machine/Gauge.lean ====
section
/-! DEFINITION. The Gauge: increments, captures, records and its commands (chapter 21, R383 group 0x0D). -/

namespace Sys2Proof.Machine

/-- Change the Gauge. -/
def modGauge (f : Gauge → Gauge) (s : State) : State := { s with gauge := f s.gauge }

/-- The open entry of a polder. -/
def gaugeEntry (s : State) (p : PolderId) : Option GaugeEntry := s.gauge.entries.find? fun e => e.polder = p && !e.closed

/-- Seven counters of zero. -/
def noVolumes : List (BitVec 64) := List.replicate 7 0

/-- Open an entry, when one is in use for none (R488, R489). -/
def openEntry (p : PolderId) (conf : Bool) (s : State) : State :=
  if (gaugeEntry s p).isSome then
    modGauge (fun g => { g with entries := alter (fun e => e.polder = p && !e.closed) (fun e => { e with conf := conf }) g.entries }) s
  else if 8192 ≤ s.gauge.entries.length then s
  else
    let e : GaugeEntry := { polder := p, conf := conf, closed := false, definedAt := s.gauge.time, counters := noVolumes }
    modGauge (fun g => { g with entries := g.entries ++ [e] }) s

/-- Add to one of seven counters. -/
def addVolume (c : Fin 7) (n : Nat) (l : List (BitVec 64)) : List (BitVec 64) :=
  l.modify c.val fun v => v + BitVec.ofNat 64 n

/-- The Gauge takes an increment: into the polder's entry, one opened for it, or the spill entry (R487 to R489). -/
def takeIncrement (p : PolderId) (c : Fin 7) (s : State) : State :=
  let n := assocGet (p, c) 0 s.gauge.transit
  let s := modGauge (fun g => { g with transit := assocDel (p, c) g.transit }) s
  if n = 0 then s
  else
    let s := if (gaugeEntry s p).isSome then s else openEntry p (isConfidential s p) s
    if (gaugeEntry s p).isSome then
      modGauge (fun g => { g with
        entries := alter (fun e => e.polder = p && !e.closed) (fun e => { e with counters := addVolume c n e.counters }) g.entries }) s
    else modGauge (fun g => { g with spill := addVolume c n g.spill }) s

/-- Take every increment of a polder that is in flight (R488). -/
def flushPolder (p : PolderId) (s : State) : State :=
  [0, 1, 2, 3, 4, 5, 6].foldl (fun t (c : Fin 7) => takeIncrement p c t) s

/-- Take every increment in flight (R487). -/
def flushAll (s : State) : State :=
  (s.gauge.transit.map (·.1)).foldl (fun t x => takeIncrement x.1 x.2 t) s

/-- The Datum as a capture holds it: 0 while FREE_RUNNING (R491). -/
def captureDatum (s : State) : Datum := if s.datum.state = .freeRunning then 0 else s.datum.value

/-- A capture of an entry now (R490). -/
def captureOf (kind : BitVec 8) (e : GaugeEntry) (s : State) : Capture :=
  { kind := kind, polder := e.polder, spill := false, conf := e.conf, datum := captureDatum s, gaugeTime := s.gauge.time,
    definedAt := e.definedAt, counters := e.counters, held := false, refused := false }

/-- Close a polder's entry: every increment in flight, then the final capture (R488, R490). -/
def closeEntry (p : PolderId) (kind : BitVec 8) (s : State) : State :=
  let s := flushPolder p s
  match gaugeEntry s p with
  | none => s
  | some e =>
    modGauge (fun g => { g with
      entries := alter (fun x => x.polder = p && !x.closed) (fun x => { x with closed := true }) g.entries
      finals := g.finals ++ [captureOf kind e s] }) s

/-- Block reset is asserted: every open entry is captured and closed (R490). -/
def closeAllEntries (s : State) : State :=
  let s := flushAll s
  ((s.gauge.entries.filter fun e => !e.closed).map (·.polder)).foldl (fun t p => closeEntry p 0x03 t) s

/-- The free entries that the Gauge reports (R489). -/
def freeEntries (s : State) : Nat := 8192 - s.gauge.entries.length

/-- At a periodic capture time: every open entry, the spill entry when its counters have changed since its last record, and
the final captures that were kept are offered again (R489, R490, R493). -/
def periodicCapture (s : State) : State :=
  let fresh := (s.gauge.entries.filter fun e => !e.closed).map fun e => captureOf 0x01 e s
  let spill : Capture :=
    { kind := 0x01, polder := 0xFFFF, spill := true, conf := false, datum := captureDatum s, gaugeTime := s.gauge.time,
      definedAt := 0, counters := s.gauge.spill, held := false, refused := false }
  let new := if s.gauge.spill = s.gauge.spillLast then fresh else fresh ++ [spill]
  modGauge (fun g => { g with
    periodics := (g.periodics.filter fun c => !new.any fun x => x.polder = c.polder && x.spill == c.spill) ++ new
    finals := g.finals.map fun c => { c with held := false } }) s

/-- The role as a record names it. -/
def roleByte : Role → Byte
  | .e => 0 | .s => 1 | .t => 2

/-- Bytes 0 to 159 of a record (R491). -/
def recordBody (c : Capture) (s : State) : Bytes :=
  let g := s.gauge
  leBytes 4 0x47325242 ++ [1, c.kind] ++ leBytes 2 g.lcCode.toNat ++ leBytes 4 g.nextSeq.toNat
    ++ leBytes 2 s.boot.instanceId.toNat
    ++ [roleByte s.boot.role, (if c.conf then 1 else 0) + (if c.spill then 2 else 0)]
    ++ leBytes 2 c.polder.toNat ++ zeros 2 ++ leBytes 4 g.refused.toNat ++ leBytes 8 c.datum.toNat
    ++ leBytes 8 c.gaugeTime ++ leBytes 8 c.definedAt ++ (padTo 56 (c.counters.flatMap fun v => leBytes 8 v.toNat))
    ++ beBytes 48 g.prev.toNat ++ zeros 8

/-- A record of 256 B, signed (R491, R492). -/
def recordBytes (c : Capture) (s : State) : Bytes :=
  let b := recordBody c s
  b ++ beBytes 96 (Config.ecdsaSign s.gauge.keySeed (Config.sha384 b)).toNat

/-- Write a record to the buffer; after a final record its entry is removed (R488, R491 to R493). -/
def writeGaugeRecord (c : Capture) (s : State) : State :=
  let b := recordBytes c s
  modGauge (fun g => { g with
    records := g.records ++ [(g.nextSeq, b)]
    nextSeq := g.nextSeq + 1
    refused := 0
    prev := Config.sha384 b
    spillLast := if c.spill then c.counters else g.spillLast
    entries := if c.kind = 0x01 then g.entries
      else g.entries.filter fun e => !(e.polder = c.polder && e.closed && e.definedAt = c.definedAt) }) s

/-- The signer ends a capture: final captures first, oldest first, then periodic ones; with a full buffer a periodic one is
discarded and a final one kept (R492, R493). -/
def signNext (s : State) : State :=
  let full : Bool := decide (1024 ≤ s.gauge.records.length)
  match s.gauge.finals.find? fun c => !c.held with
  | some c =>
    if full then
      let keep : Capture := { c with held := true, refused := true }
      modGauge (fun g => { g with
        finals := alter (fun x => x = c) (fun _ => keep) g.finals
        refused := if c.refused then g.refused else g.refused + 1 }) s
    else writeGaugeRecord c (modGauge (fun g => { g with finals := g.finals.erase c }) s)
  | none =>
    match s.gauge.periodics with
    | [] => s
    | c :: rest =>
      let s := modGauge (fun g => { g with periodics := rest }) s
      if full then modGauge (fun g => { g with refused := g.refused + 1 }) s else writeGaugeRecord c s

/-! ### Meanings -/

/-- GAUGE_INCREMENT (R487): what a counting unit has accumulated of one counter is taken. -/
def execGaugeIncrement (polder : PolderId) (counter : Fin 7) (s : State) : Host.Outcome State Fault Refusal :=
  .next <| if s.gauge.powered then takeIncrement polder counter s else s

/-- GAUGE_PERIODIC_CAPTURE (R490): Gauge time is a multiple of 900 s. -/
def execGaugePeriodicCapture (s : State) : Host.Outcome State Fault Refusal :=
  .next <|
    if s.gauge.powered && s.gauge.time ≠ 0 && s.gauge.time % 900000000000 = 0 then periodicCapture s else s

/-- GAUGE_RECORD_SIGNED (R492, R493). -/
def execGaugeRecordSigned (s : State) : Host.Outcome State Fault Refusal :=
  .next <| if s.gauge.powered then signNext s else s

/-- The sluices of the Gauge's reading commands. -/
def gaugeInfo (opcode : BitVec 16) : CmdInfo := { opcode := opcode, pf := true, vf := true, sbp := true, fm := true }

/-- The public key as GAUGE_IDENTITY returns it: x then y, big-endian. -/
def gaugePublic (s : State) : Bytes := beBytes 96 (Config.ecdsaPublic s.gauge.keySeed).toNat

/-- GAUGE_IDENTITY; bad says that its frame is malformed. -/
def gaugeIdentityCmd (bad : Bool) (o : Origin) (tag : BitVec 32) (s : State) : State :=
  runCmd (gaugeInfo 0x0D01) o tag false bad noCheck
    (fun s => reply o tag 0x0D01 .ok (leBytes 4 Config.gaugeRomVersion.toNat ++ zeros 4 ++ gaugePublic s) s) s

/-- GAUGE_IDENTITY (R383, R485). -/
def execGaugeIdentity (o : Origin) (tag : BitVec 32) (s : State) : Host.Outcome State Fault Refusal :=
  .next (gaugeIdentityCmd false o tag s)

/-- Whether a reader may not have a polder's Gauge counters: a tenant only its own, the spill entry on three sluices only
(R381, R489). -/
def gaugeUnread (o : Origin) (p : PolderId) (s : State) : Bool :=
  (isTenant o && match findPolder s p with | some q => !tenantOf o q s | none => true)
    || (p = 0xFFFF && match o.sluice with | .pf | .sb | .fm => false | _ => true)

/-- The counters that GAUGE_COUNTERS_READ returns: of the open entry, or of the spill entry. -/
def gaugeCounters (p : PolderId) (s : State) : Option (List (BitVec 64)) :=
  if p = 0xFFFF then some s.gauge.spill else (gaugeEntry s p).map (·.counters)

/-- GAUGE_COUNTERS_READ; bad says that its frame is malformed. -/
def gaugeCountersReadCmd (bad : Bool) (o : Origin) (tag : BitVec 32) (polder : PolderId) (s : State) : State :=
  runCmd (gaugeInfo 0x0D02) o tag (gaugeUnread o polder s) bad
    (fun s => firstFail [(isTearing s polder || (gaugeCounters polder s).isNone, .badParam)])
    (fun s => reply o tag 0x0D02 .ok (((gaugeCounters polder s).getD []).flatMap fun v => leBytes 8 v.toNat) s) s

/-- GAUGE_COUNTERS_READ (R383, R486, R489). -/
def execGaugeCountersRead (o : Origin) (tag : BitVec 32) (polder : PolderId) (s : State) :
    Host.Outcome State Fault Refusal := .next (gaugeCountersReadCmd false o tag polder s)

/-- Whether a record may be returned to a reader (R381, R494). -/
def recordRead (o : Origin) (b : Bytes) (s : State) : Bool :=
  !isTenant o || match findPolder s (BitVec.ofNat 16 (leField b 16 2)) with | some q => tenantOf o q s | none => false

/-- GAUGE_RECORD_FETCH; bad says that its frame is malformed. -/
def gaugeRecordFetchCmd (bad : Bool) (o : Origin) (tag : BitVec 32) (first : BitVec 32) (max : BitVec 8) (s : State) :
    State :=
  runCmd (gaugeInfo 0x0D03) o tag false bad (fun _ => firstFail [(max = 0, .badParam)])
    (fun s =>
      let hits := s.gauge.records.filter fun x => decide (first.toNat ≤ x.1.toNat) && recordRead o x.2 s
      let hits := hits.take (min 15 max.toNat)
      reply o tag 0x0D03 .ok ([BitVec.ofNat 8 hits.length] ++ zeros 7 ++ hits.flatMap (·.2)) s) s

/-- GAUGE_RECORD_FETCH (R494). -/
def execGaugeRecordFetch (o : Origin) (tag : BitVec 32) (first : BitVec 32) (max : BitVec 8) (s : State) :
    Host.Outcome State Fault Refusal := .next (gaugeRecordFetchCmd false o tag first max s)

/-- GAUGE_RECORD_RELEASE; bad says that its frame is malformed. -/
def gaugeRecordReleaseCmd (bad : Bool) (o : Origin) (tag : BitVec 32) (through : BitVec 32) (s : State) : State :=
  runCmd { opcode := 0x0D04, pf := true, sbp := true } o tag false bad noCheck
    (fun s => reply o tag 0x0D04 .ok []
      (modGauge (fun g => { g with records := g.records.filter fun x => decide (through.toNat < x.1.toNat) }) s)) s

/-- GAUGE_RECORD_RELEASE (R494). -/
def execGaugeRecordRelease (o : Origin) (tag : BitVec 32) (through : BitVec 32) (s : State) :
    Host.Outcome State Fault Refusal := .next (gaugeRecordReleaseCmd false o tag through s)

end Sys2Proof.Machine
end

