-- ==== Sys2Proof/Machine/Reset.lean ====
section
/-! DEFINITION. Resets: what a block reset leaves, the start of boot, and the life-cycle record in the fuses (R34, R444,
R445, R458 to R461, R467, R484, R527, R528). -/

namespace Sys2Proof.Machine

/-! ### The life-cycle record (R458 to R461, R467) -/

/-- The bitwise majority of three copies (R460). -/
def vote (r : Rows) : BitVec 64 := (r.copy0 &&& r.copy1) ||| (r.copy0 &&& r.copy2) ||| (r.copy1 &&& r.copy2)

/-- A code slot of a row (R459). -/
def codeSlot (row : BitVec 64) (i : Nat) : BitVec 16 := row.extractLsb' (16 * i) 16

/-- The highest slot whose value is not zero. -/
def highestSlot (row : BitVec 64) : Option Nat := [3, 2, 1, 0].find? fun i => codeSlot row i ≠ 0

/-- The voted life-cycle code (R460). -/
def lcCodeOf (f : Fuses) : BitVec 16 := match highestSlot (vote f.record) with | some i => codeSlot (vote f.record) i | none => 0

/-- The state of a code (R458, R461). -/
def lcStateOf (code : BitVec 16) : LcState :=
  match code.toNat with
  | 0x0000 => .blank | 0x00FF => .factory | 0xFF00 => .field | 0x0F0F => .analysis | 0xF0F0 => .retired | _ => .invalid

/-- The code of a state (R458). -/
def lcCodeFor : LcState → BitVec 16
  | .blank => 0x0000 | .factory => 0x00FF | .field => 0xFF00 | .analysis => 0x0F0F | .retired => 0xF0F0 | .invalid => 0

/-- The number of a state (R458, R461). -/
def lcNumber : LcState → Nat
  | .blank => 0 | .factory => 1 | .field => 2 | .analysis => 3 | .retired => 4 | .invalid => 5

/-- A code in a slot of a row of zeros. -/
def slotBits (code : BitVec 16) (i : Nat) : BitVec 64 := (code.setWidth 64) <<< (16 * i)

/-- Write a code into every copy of a slot; bits already blown stay blown (R459, R467). -/
def blowSlot (code : BitVec 16) (i : Nat) (r : Rows) : Rows :=
  let b := slotBits code i
  { copy0 := r.copy0 ||| b, copy1 := r.copy1 ||| b, copy2 := r.copy2 ||| b }

/-- The lowest slot that is empty in all three copies (R459). -/
def emptySlot (r : Rows) : Option Nat :=
  [0, 1, 2, 3].find? fun i => codeSlot (r.copy0 ||| r.copy1 ||| r.copy2) i = 0

/-- Whether a target state's transition kills the root (R462). -/
def killsRoot (code : BitVec 16) : Bool := code = 0x0F0F || code = 0xF0F0

/-- Blow every bit of the Fuse Root Secret, and the Gauge secret's row with it (R465, R484). -/
def killRoot (f : Fuses) : Fuses := { f with root := BitVec.allOnes 256, gaugeSecret := BitVec.allOnes 256 }

/-- Erase the sealed partition of the ward flash: erased bytes read 0xFF (R322, R465). -/
def eraseSealed (s : State) : State := { s with flash := memErase s.flash 0x0200000 0x3E00000 }

/-- The plots of the reserved pool: as the firmware holds their number, or as the owner configuration gives it (R322, R376). -/
def poolPlotsNow (s : State) : Nat :=
  if s.boot.codeLocked then s.owner.poolPlots else 16 + (Config.ownerPoolPlots (ownerPartition s)).val

/-- Zeroize the reserved pool's contents: in role E its plots; the deeds, the staged image, the trace and the hang
samples (R376, R465). -/
def wipePool (s : State) : State :=
  let plots := poolPlotsNow s
  let mem := if s.boot.role = .e then memErase s.stack.mem ((s.chip.plots - plots) * 16777216) (plots * 16777216)
    else s.stack.mem
  { s with
    stack := { s.stack with mem := mem }
    cad := { s.cad with deeds := [] }
    boot := { s.boot with staged := [], stagedLength := 0 }
    tracer := { s.tracer with ring := [], inFlight := [], late := [], samples := [], sealing := [] } }

/-- The interrupted transition that boot must complete: its slot and its code (R467). -/
def interrupted (f : Fuses) : Option (Nat × BitVec 16) :=
  match highestSlot (vote f.intent) with
  | none => none
  | some i =>
    let voted := codeSlot (vote f.intent) i
    let valid := fun (c : BitVec 16) => lcStateOf c ≠ .invalid && c ≠ 0
    let code := if valid voted then voted else codeSlot f.intent.copy0 i
    if valid code && codeSlot (vote f.record) i ≠ code then some (i, code) else none

/-- Complete an interrupted transition at boot: step 2 of R465 again, for what the reset has not cleared, and the code
(R467). -/
def completeInterrupted (s : State) : State :=
  match interrupted s.fuses with
  | none => s
  | some (i, code) =>
    let f := { s.fuses with intent := blowSlot code i s.fuses.intent }
    let f := if killsRoot code then killRoot f else f
    eraseSealed (wipePool { s with fuses := { f with record := blowSlot code i f.record } })

/-! ### The image partition (R323, R330) -/

/-- The body length that a header gives. -/
def bodyLength (h : Bytes) : Nat := leField h 8 4

/-- Write the first n bytes of an image to the image partition: the sectors that the whole image occupies are erased, then the
bytes are written (R330 step 2). -/
def writeImagePart (i : Image) (n : Nat) (s : State) : State :=
  let f := memErase s.flash 0 ((1024 + bodyLength i.header + 65535) / 65536 * 65536)
  let body := (i.body.filter fun c => c.1 < bodyLength i.header && c.1 + 1024 < n).map fun c => (c.1 + 1024, c.2)
  { s with flash := memWriteN 0xFF (body ++ f) 0 (i.header.take n) }

/-- Write a whole image to the image partition (R330 step 2). -/
def writeImage (i : Image) (s : State) : State := writeImagePart i (1024 + bodyLength i.header) s

/-- A rewrite of the image is cut short, by a power failure or a reset: how much of the image stands in the flash is a
free value (R330). -/
def cutRewrite (s : State) : State :=
  match s.boot.rewrite with
  | none => s
  | some w =>
    tookFree (writeImagePart w.image ((fresh s).toNat % (1024 + bodyLength w.image.header))
      { s with boot := { s.boot with rewrite := none } })

/-! ### Power-on and block reset -/

/-- The Gauge reads the voted life-cycle code and takes its signing key (R484). -/
def gaugeRead (s : State) : State :=
  let code := lcCodeOf s.fuses
  let secret : Key256 := if lcStateOf code = .field then s.fuses.gaugeSecret else Config.testRoot
  { s with gauge := { s.gauge with lcCode := code, keySeed := secret.setWidth 512 } }

/-- What a block reset leaves: the side-band island, the fuses, the flash, with an image half written where a rewrite
was under way, the Gauge with its captures, what the devices and stacks hold, and the world outside (R330, R444, R483,
R490). -/
def resetState (s : State) : State :=
  let s := cutRewrite (closeAllEntries s)
  { State.reset with
    pending := s.pending, out := s.out, time := s.time, chip := s.chip, free := s.free, fuses := s.fuses,
    flash := s.flash, sb := s.sb, gauge := s.gauge,
    pins := { s.pins with clkStopReq := [], clkStopAck := [], pwrEn := controlCluster, pwrGood := controlCluster }
    boot := { Boot.reset with reason := s.boot.reason, role := s.boot.role, strapInvalid := s.boot.strapInvalid,
                              instanceId := s.boot.instanceId }
    lc := { LifeCycle.reset with code := s.lc.code, state := s.lc.state, intent := s.lc.intent }
    stack := { Stack.reset with mem := s.stack.mem }
    tray := { Tray.reset with devices := s.tray.devices } }

/-- The counted events of the last 600 s (R445). -/
def recentEvents (s : State) : List (Nat × BitVec 8) := s.sb.events.filter fun e => s.time < e.1 + 600000000000

/-- Count an event towards leaving service: the third within 600 s has the instance leave, at once or as it next reaches
READY (R445, R446). -/
def countEvent (cause : BitVec 8) (s : State) : State :=
  let events := recentEvents s ++ [(s.time, cause)]
  { s with sb := { s.sb with events := events, leaving := s.sb.leaving || decide (3 ≤ events.length) } }

/-- The boot's first record leaves as a notice, once: when boot reaches READY or stops short of it (R436, R444). -/
def announceBoot (s : State) : State :=
  match s.sb.unsent with
  | none => s
  | some r => emit (.faultNotice (noticeEndpoint s) r) { s with sb := { s.sb with unsent := none } }

/-- The BLOCK_RESET record, the first of a boot (R444); its notice leaves once boot reaches READY or stops. -/
def bootRecord (s : State) : State :=
  let r := faultRecordOf .blockReset { unit := 0x0C00, detail := [s.sb.cause.setWidth 8] } s
  let s := pushFault r s
  { s with sb := { s.sb with faultCopy := lastN 64 (s.sb.faultCopy ++ [r]), unsent := some r } }

/-- The role a strap selects; 0b11 is invalid (R1, R2). -/
def strapRole (strap : BitVec 2) : Role :=
  match strap.toNat with
  | 0 => .e | 1 => .s | _ => .t

/-- ROM_START (R1, R2, R327); the ROM writes its identity fields (R503). -/
def romStart (s : State) : State :=
  let s := bootRecord (gaugeRead s)
  if s.boot.strapInvalid then
    announceBoot { s with boot := { s.boot with stage := .halted, reason := 0x20, stageAt := s.time } }
  else { s with boot := { s.boot with stage := .romStart, stageAt := s.time, idRom := true } }

/-- A block reset from inside, with its cause; boot starts again under the straps already sampled (R34, R444, R445,
R529). -/
def blockReset (cause : BitVec 4) (s : State) : State :=
  let s := if 2 ≤ cause.toNat && cause.toNat ≤ 5 then countEvent (cause.setWidth 8) s else s
  let s := resetState s
  romStart { s with sb := { s.sb with cause := cause } }

/-! ### Meanings -/

/-- POWER_ON_RESET_RELEASE (R498, R527): the always-on islands start. -/
def execPowerOnResetRelease (s : State) : Host.Outcome State Fault Refusal :=
  .next <|
    if s.pins.porN then s
    else gaugeRead { s with
      pins := { s.pins with porN := true }, sb := .reset, gauge := { Gauge.reset with powered := true }, datum := .reset }

/-- POWER_ON_RESET_ASSERT (R527, R528): as block reset, and the always-on state is lost as well. -/
def execPowerOnResetAssert (s : State) : Host.Outcome State Fault Refusal :=
  .next <|
    let t := resetState s
    { t with pins := { t.pins with porN := false, blockRstN := false }, sb := .reset, gauge := .reset, lc := .reset,
             boot := .reset }

/-- BLOCK_RESET_ASSERT (R444, R528). -/
def execBlockResetAssert (s : State) : Host.Outcome State Fault Refusal :=
  .next <|
    if !s.pins.blockRstN then s
    else
      let t := resetState s
      { t with pins := { t.pins with blockRstN := false }, sb := { t.sb with cause := 1 } }

/-- BLOCK_RESET_RELEASE (R1, R2, R327, R527): the straps and the instance ID are sampled and boot begins. -/
def execBlockResetRelease (strap : BitVec 2) (instanceId : InstId) (s : State) : Host.Outcome State Fault Refusal :=
  .next <|
    if !s.pins.porN || s.pins.blockRstN then s
    else romStart { s with
      pins := { s.pins with blockRstN := true }
      boot := { s.boot with role := strapRole strap, strapInvalid := decide (strap = 3), instanceId := instanceId } }

/-- Whether 250 ms have passed since the firmware was last seen to service the watchdog: as it started, and with every
command it answers (R34, notes/assumptions/11.md). -/
def watchdogDue (s : State) : Bool := max s.boot.watchdogAt s.fns.serviced + 250000000 ≤ s.time

/-- WARDEN_WATCHDOG (R34, R331): the firmware has not serviced the watchdog for 250 ms. -/
def execWardenWatchdog (s : State) : Host.Outcome State Fault Refusal :=
  .next <|
    if running s && (s.boot.stage = .firmwareInit || s.boot.stage = .ready) && watchdogDue s then blockReset 2 s else s

/-- WARDEN_ECC (R34). -/
def execWardenEcc (s : State) : Host.Outcome State Fault Refusal := .next <| if running s then blockReset 3 s else s

/-- CORRECTABLE_ECC (R35). -/
def execCorrectableEcc (inRom : Bool) (s : State) : Host.Outcome State Fault Refusal :=
  .next <| if running s then count (if inRom then 1 else 0) s else s

/-- BOOT_TIMEOUT (R331). -/
def execBootTimeout (s : State) : Host.Outcome State Fault Refusal :=
  .next <|
    if running s && s.boot.stage = .firmwareInit && s.boot.stageAt + 2000000000 ≤ s.time then blockReset 5 s else s

end Sys2Proof.Machine
end

