-- ==== Sys2Proof/Machine/Boot.lean ====
section
/-! DEFINITION. The stages of boot, the firmware image, the identity of the device, the survey, and the commands on
firmware (R322 to R336, R386). -/

namespace Sys2Proof.Machine

/-- Change the boot state. -/
def modBoot (f : Boot → Boot) (s : State) : State := { s with boot := f s.boot }

/-- Enter a stage of boot. -/
def enterStage (st : BootStage) (s : State) : State := modBoot (fun b => { b with stage := st, stageAt := s.time }) s

/-- Stop, or wait for an image, with a reason (R508); the boot's notice leaves (R436). -/
def stopBoot (st : BootStage) (reason : BitVec 8) (s : State) : State :=
  announceBoot (enterStage st (modBoot (fun b => { b with reason := reason }) s))

/-! ### The survey (R335, R336) -/

/-- A survey entry. -/
def surveyEntry (index : Nat) (kind writer : Byte) (value : BitVec 32) (digest : Digest) : SurveyEntry :=
  { index := index, kind := kind, writer := writer, value := value, digest := digest }

/-- A survey entry whose substance is its value: the digest is of the four value bytes. -/
def valueEntry (index : Nat) (kind : Byte) (value : BitVec 32) : SurveyEntry :=
  surveyEntry index kind 1 value (Config.sha384 (leBytes 4 value.toNat))

/-- Write survey entries. -/
def writeSurvey (l : List SurveyEntry) (s : State) : State := modBoot (fun b => { b with survey := b.survey ++ l }) s

/-- The 64 bytes of an entry (R335); an entry not written reads zeros. -/
def surveyBytes (s : State) (i : Nat) : Bytes :=
  match s.boot.survey.find? fun e => e.index = i with
  | some e => [e.kind, e.writer] ++ leBytes 2 i ++ leBytes 4 e.value.toNat ++ zeros 8 ++ beBytes 48 e.digest.toNat
  | none => zeros 64

/-- The value of the security-version counter: the bits blown (R324). -/
def svnCounter (f : Fuses) : Nat := ((List.range 64).filter fun i => f.svn.getLsbD i).length

/-- The fuses as survey entry 3 measures them. -/
def fuseBytes (f : Fuses) : Bytes :=
  (f.vendor ++ f.owner).flatMap (fun k => beBytes 48 k.hash.toNat ++ [if k.revoked then 1 else 0]) ++ [f.debugPolicy]

/-- The object that survey entry 4 measures (R485). -/
def gaugeObject (s : State) : Bytes :=
  beBytes 4 Config.gaugeRomVersion.toNat ++ beBytes 48 Config.gaugeRomDigest.toNat
    ++ beBytes 48 (Config.sha384 (gaugePublic s)).toNat

/-- The entries of the ROM that do not concern the image (R336). -/
def romEntries (s : State) : List SurveyEntry :=
  [surveyEntry 0 0 1 Config.romVersion Config.romDigest, valueEntry 1 2 (s.lc.code.setWidth 32),
   valueEntry 2 2 (BitVec.ofNat 32 (roleCode s.boot.role)), surveyEntry 3 2 1 0 (Config.fuseMeasure (fuseBytes s.fuses)),
   surveyEntry 4 0 1 Config.gaugeRomVersion (Config.sha384 (gaugeObject s)),
   valueEntry 7 2 (BitVec.ofNat 32 (svnCounter s.fuses))]

/-! ### The image (R323 to R325, R328) -/

/-- The svn that a header gives. -/
def headerSvn (h : Bytes) : Nat := leField h 12 4

/-- Whether a header is well formed (R325 check 2). -/
def headerOk (h : Bytes) : Bool :=
  h.length = 1024 && leField h 0 4 = 0x57325242 && leField h 4 2 = 1 && leField h 6 2 ≤ 1 && 4 ≤ bodyLength h
    && bodyLength h ≤ 393216 && bodyLength h % 4 = 0 && headerSvn h ≤ 64
    && (slice h 21 11).all (· = 0) && (slice h 272 240).all (· = 0) && (slice h 704 320).all (· = 0)

/-- Whether a key slot of the fuses is written. -/
def keyWritten (k : FuseKey) : Bool := k.hash ≠ 0

/-- The active owner slot: the lowest written and not revoked (R324). -/
def activeOwner (f : Fuses) : Option FuseKey := f.owner.find? fun k => keyWritten k && !k.revoked

/-- The hash that a vendor key must have: of its fuse slot, or in BLANK with no slot written of the ROM (R324). -/
def vendorHash (s : State) (i : Nat) : Option Digest :=
  if s.lc.state = .blank && !s.fuses.vendor.any keyWritten then some Config.manufacturingKeyHash
  else match s.fuses.vendor[i]? with | some k => if k.revoked then none else some k.hash | none => none

/-- The digest of an image's body. -/
def bodyDigest (i : Image) : Digest := Config.sha384Region i.body 0 (bodyLength i.header)

/-- The first failing check of 2 to 7 of R325, as its reason. -/
def imageFail (i : Image) (s : State) : Option (BitVec 8) :=
  let h := i.header
  let signed := Config.sha384 (h.take 512)
  let vendorKey := slice h 32 96
  let ownerKey := slice h 128 96
  let ownerBad := match activeOwner s.fuses with
    | none => false
    | some k => decide (leField h 6 2 = 0) || decide (Config.sha384 ownerKey ≠ k.hash)
        || !Config.ecdsaVerify (ofBytes 768 ownerKey) signed (ofBytes 768 (slice h 608 96))
  if !headerOk h then some 2
  else if vendorHash s (leField h 20 1) ≠ some (Config.sha384 vendorKey) then some 3
  else if bodyDigest i ≠ ofBytes 384 (slice h 224 48) then some 4
  else if !Config.ecdsaVerify (ofBytes 768 vendorKey) signed (ofBytes 768 (slice h 512 96)) then some 5
  else if ownerBad then some 6
  else if headerSvn h < svnCounter s.fuses then some 7
  else none

/-- Read the image from the flash: the header, and as much of a body as it says, up to 393,216 B (R328). -/
def flashImage (s : State) : Image :=
  let h := memReadN 0xFF s.flash 0 1024
  let n := min (bodyLength h) 393216
  { header := h, body := (s.flash.filter fun c => 1024 ≤ c.1 && c.1 < 1024 + n).map fun c => (c.1 - 1024, c.2) }

/-- An image from bytes. -/
def bytesImage (b : Bytes) : Image := { header := b.take 1024, body := memWriteN 0xFF [] 0 (b.drop 1024) }

/-- Load the image (R328). -/
def loadImage (s : State) : State := enterStage .imageLoad (modBoot (fun b => { b with image := some (flashImage s) }) s)

/-- The contents of the TcbInfo extension (R334). -/
def tcbInfo (i : Image) (s : State) : Bytes :=
  beBytes 48 (bodyDigest i).toNat ++ beBytes 4 (headerSvn i.header) ++ beBytes 4 (svnCounter s.fuses)
    ++ beBytes 4 s.lc.code.toNat ++ [BitVec.ofNat 8 (roleCode s.boot.role)]

/-- The DeviceID chain in the last sector of the image partition (R322). -/
def flashChain (s : State) : Mem := s.flash.filter fun c => 0xF0000 ≤ c.1 && c.1 < 0xF8000

/-- The certificate chain of a slot: Ohmier's three certificates and the alias, and in FACTORY and ANALYSIS, where
Ohmier issues none, the DeviceID and the alias alone (R334). -/
def slotChain (s : State) (slot : BitVec 8) (device alias_ : BitVec 512) (tcb : Bytes) : Bytes :=
  let own : Bool := match s.lc.state with | .factory | .analysis => true | _ => false
  (if own then Config.deviceCert slot device else Config.issuedChain slot (flashChain s))
    ++ Config.aliasCert slot device alias_ tcb

/-- The derivations that a step of boot runs from a device key, each of a Label, a fixed input of some bytes and an output of so
many blocks (R308, R310). -/
def bootDerivations (from_ : DeviceKey) (fixed : List (String × Nat × Nat)) (s : State) : State :=
  (inlineJobs none (fixed.map fun x =>
    { cls := 1, mode := 1, aad := 0, text := x.2.1, source := .device from_, key := deviceKey s from_, label := ascii x.1,
      blocks := x.2.2 }) s).2

/-- The image has passed: it is measured, and the alias keys and certificates are made (R333, R334, R336). -/
def measureImage (i : Image) (s : State) : State :=
  let h := i.header
  let cdi := kdf s.cad.idSeed (ascii "BR2 COMPOUND ID")
    (beBytes 48 (bodyDigest i).toNat ++ beBytes 4 (headerSvn h) ++ beBytes 4 (svnCounter s.fuses) ++ beBytes 4 s.lc.code.toNat)
    256
  let alias_ := fun (l : String) => ofBytes 512 (kdf (ofBytes 256 cdi) (ascii l) [] 512)
  let ec := alias_ "BR2 IDENTITY EC"
  let pq := alias_ "BR2 IDENTITY PQ"
  let tcb := tcbInfo i s
  let chain0 := slotChain s 0 s.boot.deviceSeed ec tcb
  let chain1 := slotChain s 1 s.boot.devicePqSeed pq tcb
  let s := bootDerivations .seed [("BR2 COMPOUND ID", 82, 2)] s
  let s := bootDerivations .cdi [("BR2 IDENTITY EC", 24, 4), ("BR2 IDENTITY PQ", 24, 4)]
    (modBoot (fun b => { b with cdi := ofBytes 256 cdi }) s)
  let s := writeSurvey
    [surveyEntry 5 1 1 (BitVec.ofNat 32 (headerSvn h)) (bodyDigest i),
     surveyEntry 6 3 1 (BitVec.ofNat 32 (leField h 20 1)) (Config.sha384 (slice h 32 192))] s
  modBoot (fun b => { b with
    svn := BitVec.ofNat 32 (headerSvn h), svnFuse := svnCounter s.fuses, ifMajor := BitVec.ofNat 16 (leField h 16 2),
    ifMinor := BitVec.ofNat 16 (leField h 18 2), idImage := true, aliasSeed := ec, aliasPqSeed := pq,
    certificates := [(0, chain0), (1, chain1)] }) s

/-! ### Boot stages (R327) -/

/-- LC_RESOLVE (R460, R461, R467). -/
def execLcResolve (s : State) : Host.Outcome State Fault Refusal :=
  .next <|
    if s.boot.stage ≠ .romStart then s
    else
      let s := completeInterrupted s
      let code := lcCodeOf s.fuses
      let st := lcStateOf code
      let s := { s with lc := { s.lc with code := code, state := st, intent := false } }
      if st = .retired || st = .invalid then stopBoot .halted 0x21 s else enterStage .lcResolve s

/-- ENTROPY (R318, R319): the start-up test, and the DRBG's instantiation. -/
def execEntropy (startUpPasses : Bool) (s : State) : Host.Outcome State Fault Refusal :=
  .next <|
    if s.boot.stage ≠ .lcResolve then s
    else if !startUpPasses then stopBoot .halted 0x22 s
    else
      needJob 4 .drbgRefill none (enterStage .entropy (instantiate s))

/-- The device keys, from the root that the state selects; none in BLANK (R289, R290, R332). -/
def deriveDeviceKeys (s : State) : State :=
  match ladderRoot s with
  | none => s
  | some root =>
    let code := beBytes 2 s.lc.code.toNat
    let nonce := (drbgValue s).setWidth 64
    let s := bootDerivations .root
      [("BR2 DEVICE WRAP", 34, 2), ("BR2 DEVICE POOL", 34, 4), ("BR2 DEVICE SEAL", 26, 2), ("BR2 DEVICE SEED", 26, 2)]
      (drbgDraw 8 s)
    let withNonce := code ++ beBytes 8 nonce.toNat
    let key := fun (l : String) (ctx : Bytes) => ofBytes 256 (kdf root (ascii l) ctx 256)
    let seed := key "BR2 DEVICE SEED" code
    let dev := fun (l : String) => ofBytes 512 (kdf seed (ascii l) [] 512)
    let s := { s with cad := { s.cad with
      ladder := true, wrapKey := key "BR2 DEVICE WRAP" withNonce,
      poolKey := ofBytes 512 (kdf root (ascii "BR2 DEVICE POOL") withNonce 512), sealKey := key "BR2 DEVICE SEAL" code,
      idSeed := seed, bootNonce := nonce } }
    modBoot (fun b => { b with
      deviceSeed := dev "BR2 IDENTITY EC", devicePqSeed := dev "BR2 IDENTITY PQ",
      devicePublic := Config.ecdsaPublic (dev "BR2 IDENTITY EC") })
      (bootDerivations .seed [("BR2 IDENTITY EC", 24, 4), ("BR2 IDENTITY PQ", 24, 4)] s)

/-- KEYS (R290, R300, R336): device keys, slot mask, the survey entries of the ROM. -/
def execKeys (s : State) : Host.Outcome State Fault Refusal :=
  .next <|
    if s.boot.stage ≠ .entropy then s
    else
      let s := deriveDeviceKeys s
      let s := { s with cad := { s.cad with slotMask := (drbgValue s).setWidth 32 } }
      let s := drbgDraw 4 s
      enterStage .keys (writeSurvey (romEntries s) s)

/-- IMAGE_LOAD (R325 check 1, R328). -/
def execImageLoad (flashAnswers : Bool) (s : State) : Host.Outcome State Fault Refusal :=
  .next <| if s.boot.stage ≠ .keys then s else if flashAnswers then loadImage s else stopBoot .recovery 1 s

/-- IMAGE_VERIFY (R325, R333, R334). -/
def execImageVerify (s : State) : Host.Outcome State Fault Refusal :=
  .next <|
    match s.boot.image with
    | none => s
    | some i =>
      if s.boot.stage ≠ .imageLoad then s
      else
        match imageFail i s with
        | some reason => stopBoot .recovery reason s
        | none => enterStage .imageVerify (measureImage i s)

/-! ### The reserved plot pool (R376, R377) -/

/-- The pool's size in granules of 64 KiB. -/
def poolGranules (s : State) : Nat :=
  match s.boot.role with
  | .e => s.owner.poolPlots * 256
  | .s => s.chip.poolMib * 16
  | .t => 16384

/-- The granules that no user holds. -/
def poolFree (s : State) : Nat := poolGranules s - s.pool.foldl (fun a x => a + x.2) 0

/-- Take granules for a user; a user that holds some gets more. -/
def poolTake (u : PoolUser) (n : Nat) (s : State) : State := { s with pool := assocSet u (assocGet u 0 s.pool + n) s.pool }

/-- Give back all that a user holds. -/
def poolGive (u : PoolUser) (s : State) : State := { s with pool := assocDel u s.pool }

/-- Mark the plots of the pool, the highest installed ones of a role E (R88, R376). -/
def markPool (s : State) : State :=
  if s.boot.role ≠ .e then s
  else
    (List.range s.owner.poolPlots).foldl (fun t i =>
      { t with stack := { t.stack with
          spm := assocSet (BitVec.ofNat 16 (t.chip.plots - 1 - i)) (BitVec.ofNat 64 (1 + 2 ^ 39)) t.stack.spm } }) s

/-- FIRMWARE_INIT (R288, R308, R327, R336, R377): the code is locked, the owner configuration is read and it and the
other objects are measured, and the pool's first users take their share. -/
def execFirmwareInit (objects : List Digest) (s : State) : Host.Outcome State Fault Refusal :=
  .next <|
    if s.boot.stage ≠ .imageVerify then s
    else
      let s := modBoot (fun b => { b with
        codeLocked := true, watchdogAt := s.time, deviceSeed := 0, devicePqSeed := 0 }) (enterStage .firmwareInit s)
      let s := (inlineJobs none
        [{ cls := 3, mode := 3, aad := 0, text := 4096, source := .device .seal, key := deviceKey s .seal }] s).2
      let part := ownerPartition s
      let s := { s with owner :=
        { fmKey := Config.ownerFmKey part, faultManager := Config.ownerFaultManager part,
          poolPlots := 16 + (Config.ownerPoolPlots part).val } }
      let all := Config.sha384Region part 0x100000 0x100000 :: objects
      let entries := (all.zipIdx).map fun x => surveyEntry (16 + x.2) 3 2 0 x.1
      if 238 < all.length then stopBoot .halted 0x10 (writeSurvey (entries.take 238) s)
      else if poolGranules s < 128 then stopBoot .halted 0x11 (writeSurvey entries s)
      else
        let s := poolTake .staging 64 (poolTake .deedStore 64 (markPool (writeSurvey entries s)))
        modBoot (fun b => { b with idFirmware := true }) s

/-- The status of an image that comes in another stage than RECOVERY, or while one is being written (R2, R329, R330);
READY takes images by FIRMWARE_STAGE alone, and there the message is for no command. -/
def recoveryClosed (s : State) : Option Status :=
  if s.boot.stage = .halted then some .lcForbids
  else if s.boot.stage = .ready then some .badParam
  else if s.boot.stage ≠ .recovery || s.boot.rewrite.isSome then some .busy
  else none

/-- RECOVERY_LOAD (R330): in RECOVERY an image that passes checks 2 to 7 is held and its rewrite begins. In another stage it is
refused as every side-band command there is (R2, R329). -/
def execRecoveryLoad (image : Bytes) (s : State) : Host.Outcome State Fault Refusal :=
  .next <|
    if !running s then s
    else match recoveryClosed s with
    | some st => emit (.response { sluice := .sb, session := none } 0 0 st []) s
    | none =>
      let i := bytesImage image
      match imageFail i s with
      | some reason => modBoot (fun b => { b with reason := reason }) s
      | none => modBoot (fun b => { b with
          rewrite := some { image := i, recovery := true, origin := { sluice := .sb, session := none }, tag := 0 } }) s

/-- IMAGE_REWRITE_COMPLETE (R330 steps 2 and 3, R383): the image partition holds the new image. -/
def execImageRewriteComplete (s : State) : Host.Outcome State Fault Refusal :=
  .next <|
    match s.boot.rewrite with
    | none => s
    | some w =>
      let s := modBoot (fun b => { b with rewrite := none }) (writeImage w.image s)
      if w.recovery then (if s.boot.stage = .recovery then loadImage s else s) else finish w.origin w.tag .ok [] s

/-! ### Commands (R383 group 0x0F) -/

/-- SURVEY_READ; bad says that its frame is malformed. -/
def surveyReadCmd (bad : Bool) (o : Origin) (tag : BitVec 32) (first count : BitVec 8) (s : State) : State :=
  runCmd { opcode := 0x0F02, pf := true, vf := true, sbp := true, fm := true, dbg := true } o tag false bad
    (fun _ => firstFail [(count = 0 || decide (63 < count.toNat) || decide (256 < first.toNat + count.toNat), .badParam)])
    (fun s => reply o tag 0x0F02 .ok
      ((List.range count.toNat).flatMap fun i => surveyBytes s (first.toNat + i)) s) s

/-- SURVEY_READ (R335, R383). -/
def execSurveyRead (o : Origin) (tag : BitVec 32) (first count : BitVec 8) (s : State) :
    Host.Outcome State Fault Refusal := .next (surveyReadCmd false o tag first count s)

/-- FIRMWARE_STAGE; bad says that its frame is malformed. -/
def firmwareStageCmd (bad : Bool) (o : Origin) (tag : BitVec 32) (offset : BitVec 32) (data : Bytes) (s : State) : State :=
  runCmd { opcode := 0x0F03, pf := true, sbp := true } o tag false (bad || (o.session.isNone && decide (4072 < data.length)))
    (fun s => firstFail
      [(data.isEmpty || decide (394240 < offset.toNat + data.length), .badParam), (s.boot.rewrite.isSome, .busy)])
    (fun s => reply o tag 0x0F03 .ok []
      (modBoot (fun b => { b with
        staged := memWriteN 0xFF b.staged offset.toNat data
        stagedLength := max b.stagedLength (offset.toNat + data.length) }) s)) s

/-- FIRMWARE_STAGE (R383, R386). -/
def execFirmwareStage (o : Origin) (tag : BitVec 32) (offset : BitVec 32) (data : Bytes) (s : State) :
    Host.Outcome State Fault Refusal := .next (firmwareStageCmd false o tag offset data s)

/-- The staged image. -/
def stagedImage (s : State) : Image :=
  { header := memReadN 0xFF s.boot.staged 0 1024,
    body := (s.boot.staged.filter fun c => 1024 ≤ c.1).map fun c => (c.1 - 1024, c.2) }

/-- FIRMWARE_ACTIVATE; bad says that its frame is malformed. -/
def firmwareActivateCmd (bad : Bool) (o : Origin) (tag : BitVec 32) (length : BitVec 32) (s : State) : State :=
  runCmd { opcode := 0x0F04, pf := true, sbp := true } o tag false bad
    (fun s => firstFail [(s.boot.rewrite.isSome, .busy)])
    (fun s =>
      let i := stagedImage s
      let s := pend o tag 0x0F04 s
      let short : Option (BitVec 8) := if length.toNat ≠ 1024 + bodyLength i.header then some 2 else none
      match (imageFail i s).or short with
      | some reason => finish o tag .badParam ([reason] ++ zeros 3) s
      | none => modBoot (fun b => { b with
          rewrite := some { image := i, recovery := false, origin := o, tag := tag } }) s) s

/-- FIRMWARE_ACTIVATE (R383, R386). -/
def execFirmwareActivate (o : Origin) (tag : BitVec 32) (length : BitVec 32) (s : State) :
    Host.Outcome State Fault Refusal := .next (firmwareActivateCmd false o tag length s)

/-- FIRMWARE_COMMIT_SVN; bad says that its frame is malformed. -/
def firmwareCommitSvnCmd (bad : Bool) (o : Origin) (tag : BitVec 32) (n : BitVec 32) (s : State) : State :=
  runCmd { opcode := 0x0F05, pf := true, sbp := true } o tag false bad
    (fun s => firstFail [(decide (s.boot.svn.toNat < n.toNat), .badParam)])
    (fun s =>
      let blown : BitVec 64 := BitVec.ofNat 64 (2 ^ n.toNat - 1)
      reply o tag 0x0F05 .ok []
        (if n.toNat ≤ svnCounter s.fuses then s else { s with fuses := { s.fuses with svn := s.fuses.svn ||| blown } })) s

/-- FIRMWARE_COMMIT_SVN (R326). -/
def execFirmwareCommitSvn (o : Origin) (tag : BitVec 32) (n : BitVec 32) (s : State) :
    Host.Outcome State Fault Refusal := .next (firmwareCommitSvnCmd false o tag n s)

end Sys2Proof.Machine
end

