-- ==== Sys2Proof/Machine/Sca.lean ====
section
/-! DEFINITION. The Signal Counter Array as its cores use it, and the wait-idle hints (R256 to R266). -/

namespace Sys2Proof.Machine

/-- The first failing check of R259 on a core-side request. -/
def scaCheck (r : ScaReq) (valid : Bool) (s : State) : Option Status :=
  match coreContext s r.core, coreContext s r.target with
  | some c, some t =>
    if !valid || 48 ≤ r.counter.toNat || s.chip.cores ≤ r.target.toNat then some .badParam
    else if c.polder ≠ t.polder then some .denied
    else none
  | _, _ => some .badParam

/-- Refuse a core-side request: a record, and no counter changes (R259). -/
def scaRefuse (r : ScaReq) (op : BitVec 3) (st : Status) (s : State) : State :=
  let c := coreContext s r.core
  let s := writeFault .scaRefused
    { unit := scaUnit r.target, status := statusCode st, polder := match c with | some x => x.polder | none => 0,
      context := c.map (·.id),
      detail := leBytes 2 r.target.toNat ++ [BitVec.ofNat 8 r.counter.toNat, BitVec.ofNat 8 op.toNat] } s
  scaAnswer r.core st 0 s

/-- Whether the context of a core, which is bound to one, does not run (R264). -/
def coreStopped (core : BitVec 9) (s : State) : Bool :=
  match coreContext s core with
  | some c => c.state ≠ .bound
  | none => true

/-- Whether a request must be held because its polder is frozen (R420). -/
def scaHeld (r : ScaReq) (s : State) : Bool :=
  match coreContext s r.core with
  | some c => isFrozen s c.polder
  | none => false

/-- READ (R258). -/
def scaReadEffect (r : ScaReq) (s : State) : State := scaAnswer r.core .ok (syncValue s r.target r.counter) s

/-- INC (R258, R260, R261, R263). -/
def incEffect (r : ScaReq) (s : State) : State :=
  let v := syncValue s r.target r.counter
  if 4294967296 ≤ v.toNat + r.value.toNat then
    scaAnswer r.core .syncOverflow 0
      (syncFault r.target r.counter r.value .syncOverflow none (BitVec.ofNat 32 r.core.toNat) s)
  else
    let s := scaAnswer r.core .ok (v + r.value) s
    if r.value = 0 then s else changeSync r.target r.counter (v + r.value) s

/-- DEC (R258, R260, R261, R263). -/
def decEffect (r : ScaReq) (s : State) : State :=
  let v := syncValue s r.target r.counter
  if v.toNat < r.value.toNat then
    scaAnswer r.core .syncUnderflow 0
      (syncFault r.target r.counter r.value .syncUnderflow none (BitVec.ofNat 32 r.core.toNat) s)
  else
    let s := scaAnswer r.core .ok (v - r.value) s
    if r.value = 0 then s else changeSync r.target r.counter (v - r.value) s

/-- SET (R258, R260). -/
def setEffect (r : ScaReq) (s : State) : State :=
  changeSync r.target r.counter r.value (scaAnswer r.core .ok (syncValue s r.target r.counter) s)

/-- WAIT_GE and WAIT_DEC: satisfied on arrival, pending, or refused when four are pending (R260 to R262). No wait of a stopped
context's core is pending (R264). -/
def waitEffect (subtracts : Bool) (r : ScaReq) (s : State) : State :=
  let v := syncValue s r.target r.counter
  let w : SyncWait := { req := r, subtracts := subtracts, at_ := s.datum.value.toNat }
  if waitHolds w v then
    let new := if subtracts then v - r.value else v
    count 0x286 (scaAnswer r.core .ok new (setSync r.target r.counter new s))
  else if coreStopped r.core s then scaAnswer r.core .squashed 0 s
  else if 4 ≤ (s.sca.waits.filter fun x => x.req.core = r.core).length then scaAnswer r.core .busy 0 s
  else count 0x286 { s with sca := { s.sca with waits := s.sca.waits ++ [w] } }

/-- The effect of a core-side operation by its op (R258). -/
def scaEffect (op : BitVec 3) (r : ScaReq) (s : State) : State :=
  match op.toNat with
  | 0 => scaReadEffect r s
  | 1 => incEffect r s
  | 2 => decEffect r s
  | 3 => waitEffect false r s
  | 4 => waitEffect true r s
  | _ => setEffect r s

/-- A core-side request: refused, ended with the stopped context of its counter, held with its frozen polder, or performed
(R258, R259, R264, R420). -/
def scaRequest (op : BitVec 3) (r : ScaReq) (s : State) : State :=
  if scaHeld r s then { s with sca := { s.sca with held := s.sca.held ++ [(r, op)] } }
  else
    match scaCheck r (decide (op.toNat < 6)) s with
    | some st => scaRefuse r op st s
    | none => if coreStopped r.target s then scaAnswer r.core .squashed 0 s else scaEffect op r s

/-- A core-side request reaches the bank of the named core; only role E has an SCA (R33, R42). -/
def scaArrive (op : BitVec 3) (r : ScaReq) (s : State) : State :=
  if !running s || s.boot.role ≠ .e then s else enter (scaDomain r.target) (.sca op r) (scaRequest op r) s

/-! ### Meanings -/

/-- SCA_READ (R258). -/
def execScaRead (r : ScaReq) (s : State) : Host.Outcome State Fault Refusal := .next (scaArrive 0 r s)

/-- INC (R260). -/
def execInc (r : ScaReq) (s : State) : Host.Outcome State Fault Refusal := .next (scaArrive 1 r s)

/-- DEC (R263). -/
def execDec (r : ScaReq) (s : State) : Host.Outcome State Fault Refusal := .next (scaArrive 2 r s)

/-- WAIT_GE (R260). -/
def execWaitGe (r : ScaReq) (s : State) : Host.Outcome State Fault Refusal := .next (scaArrive 3 r s)

/-- WAIT_DEC (R260). -/
def execWaitDec (r : ScaReq) (s : State) : Host.Outcome State Fault Refusal := .next (scaArrive 4 r s)

/-- SET (R258). -/
def execSet (r : ScaReq) (s : State) : Host.Outcome State Fault Refusal := .next (scaArrive 5 r s)

/-- SCA_INVALID_OP (R259): an op of 0b110 or 0b111 is refused. Another op is no command of this name. -/
def execScaInvalidOp (r : ScaReq) (op : BitVec 3) (s : State) : Host.Outcome State Fault Refusal :=
  .next (if 6 ≤ op.toNat then scaArrive op r s else s)

/-- WAIT_IDLE_THRESHOLD (R265): the hint of a core whose oldest wait has been pending for the threshold, on the SCA's
Datum copy, is asserted. -/
def execWaitIdleThreshold (core : BitVec 9) (s : State) : Host.Outcome State Fault Refusal :=
  .next <|
    match oldestWait core s with
    | none => s
    | some w =>
      if w.at_ + 1000 * s.regs.waitIdleUs ≤ s.datum.value.toNat && !s.sca.hints.contains core then
        count 0x287 { s with sca := { s.sca with hints := s.sca.hints ++ [core] } }
      else s

end Sys2Proof.Machine
end

