-- ==== Sys2Proof/Machine/Freeze.lean ====
section
/-! DEFINITION. What a freeze holds and lets go: steps of a context, core-side requests, charts in progress and what
waits with them (R407, R419, R420, R427). -/

namespace Sys2Proof.Machine

/-! ### Steps (R407) -/

/-- End a context's STEP_BEGIN, if one acts (R407). -/
def endHold (c : CtxId) (st : Status) (s : State) : State :=
  match findContext s c with
  | none => s
  | some x =>
    match x.hold with
    | none => s
    | some h =>
      endDescriptor h.queue h.index st 0 0
        (modContext c (fun x => { x with hold := none }) (dropMarks (fun a => a = .stepBegin x.polder c) s))

/-- Steps 4 and 5 of R407: the step number is checked and set, the STEP_BEGIN completes and the queues are released;
none enters a step whose polder is fatal (R437), and that of a frozen polder is due when it resumes (R420). -/
def completeStep (c : CtxId) (s : State) : State :=
  match findContext s c with
  | none => s
  | some x =>
    match x.hold with
    | none => s
    | some h =>
      if isFatal s x.polder then endHold c .squashed s
      else if isFrozen s x.polder then modContext c (fun y => { y with hold := some { h with due := true } }) s
      else if h.step.toNat ≤ x.step.toNat then endHold c .badParam s
      else
        let s := endHold c .ok (modContext c (fun y => { y with step := h.step }) s)
        let s := profResetQueue h.queue true s
        emitTrace 3 0x0301 0x0C00 x.polder (some c) (leBytes 8 h.step.toNat ++ leBytes 8 h.mark.toNat) s

/-- The steps of a polder that fell due while it was frozen begin (R407, R420). -/
def beginDueSteps (p : PolderId) (s : State) : State :=
  (s.obj.contexts.filter fun c => c.polder = p && c.hold.any (·.due)).foldl (fun t c => completeStep c.id t) s

/-! ### Leaving a freeze (R420, R427) -/

/-- The core-side SCA requests that a polder's freeze held are made again, in order. -/
def resumeSca (p : PolderId) (s : State) : State :=
  let mine := fun (h : ScaReq × BitVec 3) => match coreContext s h.1.core with | some c => c.polder = p | none => false
  (s.sca.held.filter mine).foldl (fun t h => scaRequest h.2 h.1 t)
    { s with sca := { s.sca with held := s.sca.held.filter fun h => !mine h } }

/-- The chart that a polder is held by, exported or imported. -/
def heldChart (q : Polder) : Option (BitVec 32) :=
  match q.freeze with
  | .chart id => some id
  | .imported id => some id
  | _ => none

/-- A polder leaves its freeze or hold: held accesses and requests are served, and steps that fell due begin. -/
def thaw (p : PolderId) (s : State) : State :=
  beginDueSteps p (resumeSca p (resumeHeld (modPolder p (fun q => { q with freeze := .none }) s)))

/-- A polder leaves the freeze of a chart; a Floodwatch freeze stays (R456). -/
def thawChart (p : PolderId) (s : State) : State :=
  match findPolder s p with
  | some q => if (heldChart q).isSome then thaw p s else s
  | none => s

/-! ### Charts in progress (R377, R419, R423) -/

/-- End a chart export: its granules go back and its command ends (R377, R419). -/
def endExport (p : PolderId) (st : Status) (payload : Bytes) (s : State) : State :=
  match s.charts.exports.find? fun e => e.polder = p with
  | none => s
  | some e =>
    finish e.origin e.tag st payload
      (poolGive (.chart p) { s with charts := { s.charts with exports := s.charts.exports.filter fun x => x.polder ≠ p } })

/-- End a chart import. -/
def endImport (p : PolderId) (st : Status) (s : State) : State :=
  match s.charts.imports.find? fun e => e.polder = p with
  | none => s
  | some e =>
    finish e.origin e.tag st []
      (poolGive (.chart p) { s with charts := { s.charts with imports := s.charts.imports.filter fun x => x.polder ≠ p } })

/-- A chart that waits for keys of its polder ends with the load's status, as every user of the load does: an export's
polder leaves the freeze (R304, R420). -/
def endChartWaits (p : PolderId) (st : Status) (s : State) : State :=
  let s := if s.charts.exports.any fun e => e.polder = p && e.waits then thawChart p (endExport p st [] s) else s
  if s.charts.imports.any fun m => m.polder = p && m.waits then endImport p st s else s

end Sys2Proof.Machine
end

