-- ==== Sys2Proof/Machine/Samples.lean ====
section
/-! DEFINITION. Hang samples: taken from an engine's staging SRAM, sealed piece by piece and stored in a slot (R441). -/

namespace Sys2Proof.Machine

/-- Change the Tracer. -/
def modTracer (f : Tracer → Tracer) (s : State) : State := { s with tracer := f s.tracer }

/-- The first 64 bytes of a stored sample. -/
def sampleHeader (x : Sample) : Bytes :=
  leBytes 8 x.seq.toNat ++ leBytes 8 x.datum.toNat ++ leBytes 2 x.unit.toNat ++ zeros 2 ++ leBytes 4 x.number.toNat
    ++ zeros 8 ++ x.owners.flatMap fun p => leBytes 2 p.toNat

/-- A stored sample: header, pieces and tags. -/
def sampleBytes (x : Sample) : Bytes :=
  sampleHeader x ++ x.pieces.flatMap (padTo 4096) ++ x.tags.flatMap fun t => keyBytes t

/-- The owner of a piece: none unless the polder is defined. -/
def pieceOwner (unit : BitVec 16) (number : BitVec 32) (s : State) (i : Nat) : PolderId :=
  if (findPolder s (Config.pieceOwner unit number i)).isSome then Config.pieceOwner unit number i else 0

/-- The samples whose pieces have all been treated go to their slots (R441). -/
def settleSamples (s : State) : State :=
  let ready := s.tracer.sealing.filter fun x => x.waiting.isEmpty
  let s := modTracer (fun t => { t with sealing := t.sealing.filter fun x => !x.waiting.isEmpty }) s
  ready.foldl (fun u x => modTracer (fun t => { t with samples := upsert (fun y => y.slot = x.slot) x t.samples }) u) s

/-- A sample being sealed. -/
def findSealing (s : State) (n : Nat) : Option Sample := s.tracer.sealing.find? fun x => x.number.toNat = n

/-- Store what a piece became: it waits no more. -/
def setPiece (n i : Nat) (b : Bytes) (tag : BitVec 128) (s : State) : State :=
  let put := fun (x : Sample) => { x with
    pieces := x.pieces.set i b, tags := x.tags.set i tag, waiting := x.waiting.filter (· ≠ i) }
  settleSamples (modTracer (fun t => { t with sealing := alter (fun x => x.number.toNat = n) put t.sealing }) s)

/-- A piece whose owner's dump key cannot be had holds zeros. -/
def blankPiece (n i : Nat) (s : State) : State := setPiece n i (zeros 4096) 0 s

/-- Ask for the job that seals a piece, once its owner's dump key is there. -/
def pumpPiece (n i : Nat) (s : State) : State :=
  match findSealing s n with
  | none => s
  | some x =>
    let p := x.owners.getD i 0
    match needKey p 6 s with
    | (.ready, s) => needJob 4 (.sealPiece n i) (some p) s
    | (.wait, s) => s
    | (.failed _, s) => blankPiece n i s

/-- Ask for the jobs of every piece that a polder owns and that waits. -/
def pumpSamples (p : PolderId) (s : State) : State :=
  s.tracer.sealing.foldl (fun t x =>
    (x.waiting.filter fun i => x.owners.getD i 0 = p).foldl (fun u i => pumpPiece x.number.toNat i u) t) s

/-- A sealing job has ended: the piece is stored as AES-256-GCM under its owner's dump key (R441). -/
def sealPiece (n i : Nat) (s : State) : State :=
  match findSealing s n with
  | none => s
  | some x =>
    let p := x.owners.getD i 0
    match needKey p 6 s with
    | (.wait, s) => s
    | (.failed _, s) => blankPiece n i s
    | (.ready, s) =>
      let key := polderKey s p 6
      let iv := ofBytes 96 (beBytes 2 s.boot.instanceId.toNat ++ beBytes 4 n ++ [BitVec.ofNat 8 i] ++ zeros 5)
      let ct := gcmCrypt key iv (x.pieces.getD i [])
      setPiece n i ct (gcmTag key iv (sampleHeader x) ct) s

/-- Whether the sample buffer is free: no sample is being sealed. -/
def sampleFree (s : State) : Bool := s.tracer.sealing.isEmpty

/-- Take a sample of an engine's staging SRAM: unowned pieces are zeros, ordinary ones stay in the clear, and those of
confidential polders wait to be sealed (R441). -/
def takeSample (unit : BitVec 16) (seq : BitVec 64) (s : State) : State :=
  let n := s.tracer.nextSample
  let owners := (List.range 16).map (pieceOwner unit n s)
  let piece := fun (i : Nat) =>
    if owners.getD i 0 = 0 then zeros 4096
    else (List.range 4096).map fun k => Config.stagingByte unit n (4096 * i + k)
  let wait := (List.range 16).filter fun i => isConfidential s (owners.getD i 0)
  let x : Sample :=
    { slot := n.toNat % 4, seq := seq, datum := s.datum.value, unit := unit, number := n, owners := owners,
      pieces := (List.range 16).map piece, tags := List.replicate 16 0, waiting := wait }
  let s := modTracer (fun t => { t with nextSample := n + 1, sealing := t.sealing ++ [x] }) s
  settleSamples (wait.foldl (fun t i => pumpPiece n.toNat i t) s)

/-- The polder's teardown leaves its pieces that still wait as zeros (R307, R441). -/
def dropPieces (p : PolderId) (s : State) : State :=
  s.tracer.sealing.foldl (fun t x =>
    (x.waiting.filter fun i => x.owners.getD i 0 = p).foldl (fun u i => blankPiece x.number.toNat i u) t) s

end Sys2Proof.Machine
end

