-- ==== Sys2Proof/Machine/KeyJobs.lean ====
section
/-! DEFINITION. The users of a key served or ended, KCU jobs ending, key slots evicted and loads timed out, the DRBG and
the entropy source, and packets meeting the stream store (R75, R95, R303 to R306, R312 to R320, R538). -/

namespace Sys2Proof.Machine

/-! ### Users of a key -/

/-- Change the key units. -/
def modKeys (f : KeyUnits → KeyUnits) (s : State) : State := { s with keys := f s.keys }

/-- Seal what waits on every transmit stream of a polder. -/
def pumpAllTx (p : PolderId) (s : State) : State :=
  (s.link.txWait.filter fun k => k.polder = p).foldl (fun t k =>
    pumpTx k.polder k.dest k.cls k.lane (t.link.txWait.length + 1) t) s

/-- The polder of a stream. -/
def refPolder : StreamRef → PolderId
  | .tx p _ _ => p
  | .rx p _ _ _ => p

/-- Check the waiting received packets of a polder again. -/
def retryAllRx (p : PolderId) (s : State) : State :=
  (((s.link.rxWait.map fun w => w.1).filter fun r => refPolder r = p).eraseDups).foldl (fun t r => retryRx r false t) s

/-- Let every fill of a polder that waits for the stack key ask for it; one that cannot have it is undone (R539). -/
def pumpFills (p : PolderId) (s : State) : State :=
  (s.stack.fills.filter fun f => f.polder = p).foldl (fun t f =>
    match needKey p 3 t with
    | (.failed st, t) => undoFill f st 0xFF t
    | (_, t) => t) s

/-- Everything of a polder that waits for a key tries again, in its order of arrival at each unit (R303). -/
def retryUsers (p : PolderId) (s : State) : State :=
  let s := pumpFills p (retryKeyWait p s)
  let s := retryAllRx p (pumpAllTx p s)
  let s := pumpLines (pumpRings (retryMemWait s))
  let s := (s.tray.extents.filter fun e => e.polder = p).foldl (fun t e => extentKeyStep e.id t) s
  fauSettle (pumpColl p (pumpSamples p s))

/-- What a packet that cannot be sealed ends (R538). An operation that a membership change ends unsent has its record (R537,
R544). -/
def endWaitingTx (k : TxPacket) (st : Status) (s : State) : State :=
  match k.owner with
  | .op id =>
    (match s.fau.ops.find? fun o => o.id = id with
     | some o =>
       if o.firstTx.isSome then s
       else finishOp o st 0 0 (if st = .denied then requestRefused o.req o.polder 0x85 st s else s)
     | none => s)
  | .collective p id => collectiveFailed p id st s
  | .barrier p id => barrierFailed p id st s
  | .ringRequest ring member seq =>
    (match findAnyRing s ring, s.rings.requests.find? fun q => q.ring = ring && q.member = member && q.seq = seq with
     | some r, some q =>
       if q.firstTx.isSome then s
       else if q.message.toNat ≤ 4 then endLine r q st [] s
       else if st = .denied then denyTxn ring (addrLine q.addr) (dropRingReq q s)
       else s
     | _, _ => s)
  | .ring _ _ => s
  | .none => s

/-- Whether the packet is an operation's that its failure ends. -/
def endsOp (s : State) (k : TxPacket) : Bool :=
  match k.owner with
  | .op id => s.fau.ops.any fun o => o.id = id && o.firstTx.isNone
  | _ => false

/-- Whether a packet that waits to be sealed needs the polder's link key: its stream holds no subkey (R294). -/
def lacksSubkey (s : State) (k : TxPacket) : Bool :=
  match findTx s k.polder k.dest k.cls k.lane with
  | some t => t.key.isNone
  | none => true

/-- End everything of a polder that needs a key which cannot be had, with a status: accesses in the slices and their fills,
packets to be sealed, and, as they try again, everything else (R95, R301, R304, R538, R539). slot is the one a failed load had
taken, or 0xFF. The second value counts the accesses and operations ended. -/
def endUsers (p : PolderId) (st : Status) (slot : Byte) (s : State) : State × Nat :=
  let mine := fun (w : StackWait) => decide (w.polder = p)
  let waits := (s.stack.reads ++ s.stack.keyWait).filter mine
  let s := { s with stack := { s.stack with
    reads := s.stack.reads.filter fun w => !mine w, keyWait := s.stack.keyWait.filter fun w => !mine w } }
  let s := waits.foldl (fun t w =>
    releaseHeld (w.req.addr.toNat / 256) (t.stack.held.length + 1) (stackAnswer w.req st [] t)) s
  let s := (s.stack.fills.filter fun f => f.polder = p).foldl (fun t f => undoFill f st slot t) s
  let sends := s.link.txWait.filter fun k => k.polder = p && lacksSubkey s k
  let ended := (sends.filter (endsOp s)).length
  let s := { s with link := { s.link with txWait := s.link.txWait.filter fun k => !(k.polder = p && lacksSubkey s k) } }
  let s := sends.foldl (fun t k => endWaitingTx k st t) s
  (retryUsers p (endChartWaits p st s), waits.length + ended)

/-- A load of a polder has failed: everything that waits for its keys ends with the load's status, and one record is
written, with one more for each assignment undone (R95, R304, R306, R538, R539, R547). Only a load for want of a slot may be
begun again. -/
def failUsers (p : PolderId) (st : Status) (slot : Byte) (s : State) : State :=
  let before := (findPolder s p).bind fun q => q.loadFailed
  let x := endUsers p st slot (modPolder p (fun q => { q with loadFailed := some st }) s)
  let s := writeFault .keyLoadFailed
    { unit := 0x0E00, status := statusCode st, polder := p, count := x.2, detail := [slot, 0xFF, 0xFF] } x.1
  if st = .noSlot then modPolder p (fun q => { q with loadFailed := before }) s else s

/-- Answer the pins that wait for a polder's load (R302). -/
def answerPins (p : PolderId) (st : Status) (s : State) : State :=
  let ws := s.cad.loads.flatMap fun l => if l.polder = p then l.waiters else []
  let s := if ws.isEmpty || st = .ok then s else modPolder p (fun q => { q with pinned := false }) s
  finishAll ws st { s with cad := { s.cad with
    loads := alter (fun l => l.polder = p) (fun l => { l with waiters := [] }) s.cad.loads } }

/-- A load for which there is no slot ends with ST_NO_SLOT, and with it all that wait on it, with one record (R95, R306). -/
def endSlotless (p : PolderId) (s : State) : State :=
  let s := answerPins p .noSlot s
  failUsers p .noSlot 0xFF { s with cad := { s.cad with loads := s.cad.loads.filter fun x => x.polder ≠ p } }

/-- With every slot pinned or BAD, the loads that have no slot end at once (R306). -/
def endHopeless (s : State) : State :=
  if noSlotAtAll s then (slotless s).foldl (fun t l => endSlotless l.polder t) s else s

/-- Whether anything of a polder waits for its keys. -/
def keyUsers (s : State) (p : PolderId) : Bool :=
  (s.stack.keyWait.any fun w => w.polder = p) || (s.stack.fills.any fun f => f.polder = p)
    || (s.link.txWait.any fun k => k.polder = p) || (s.link.rxWait.any fun w => refPolder w.1 = p)
    || !s.fau.memWait.isEmpty || !s.fau.waiting.isEmpty || (s.coll.nodes.any fun n => n.launch.polder = p)
    || (s.coll.participants.any fun c => c.launch.polder = p) || !s.tracer.sealing.isEmpty
    || (s.charts.exports.any fun e => e.polder = p && e.waits) || (s.charts.imports.any fun m => m.polder = p && m.waits)
    || (s.tray.extents.any fun e => e.polder = p && (e.key.isNone || e.rekey.any fun r => r.key.isNone))

/-- The users of the keys of every slot that has been found BAD end with ST_SLOT_BAD (R301). -/
def endBadUsers (s : State) : State :=
  (s.polders.filter fun q => q.slotBad && q.teardown.isNone).foldl (fun t q =>
    if keyUsers t q.id then (endUsers q.id .slotBad 0xFF t).1 else t) s

/-- The packets that wait on a transmit stream which has ended end with ST_EXHAUSTED, each with a record (R66). -/
def sweepTx (s : State) : State :=
  let spent := fun (k : TxPacket) => match findTx s k.polder k.dest k.cls k.lane with | some t => t.ended | none => false
  (s.link.txWait.filter spent).foldl (fun t k =>
    let sid := match findTx t k.polder k.dest k.cls k.lane with | some x => x.sid | none => 0
    endWaitingTx k .exhausted (streamExhausted k.polder k.dest sid t))
    { s with link := { s.link with txWait := s.link.txWait.filter fun k => !spent k } }

/-- The accesses in the miss queues whose polder's key is there, or cannot be had, proceed (R93). -/
def resumeStack (s : State) : State :=
  let ps := (s.stack.keyWait.map (·.polder)).eraseDups.filter fun p => (needKey p 3 s).1 ≠ .wait
  pumpPorts (ps.foldl (fun t p => pumpFills p (retryKeyWait p t)) s)

/-- The packets that wait to be sealed, and the received ones that wait at the slices, go on as far as they can (R42, R75). -/
def resumeLink (s : State) : State :=
  let s := s.link.txWait.foldl (fun t k => pumpTx k.polder k.dest k.cls k.lane (t.link.txWait.length + 1) t) s
  let s := ((s.link.rxWait.map fun w => refPolder w.1).eraseDups).foldl (fun t p => retryAllRx p t) s
  pumpRxPorts (sweepTx s)

/-- What waits beside the cores' accesses, the packets and the jobs tries again: requests and answers in the FAU, rings,
collectives. -/
def resumeOutside (s : State) : State :=
  let s := fauSettle (retryAnswers (retryAnswerRoom (retryMemWait s)))
  let s := pumpLines (settleDestroys (pumpRings (retryAgain (retryBacks (retryReplies s)))))
  let ps := (s.coll.participants.map (·.launch.polder) ++ s.coll.nodes.map (·.launch.polder)).eraseDups
  ps.foldl (fun t p => pumpColl p t) s

/-- Everything that waits in the block tries again, because something that it may have waited for has come: a key, a
slot, a stored byte, a fill, a domain, a number, room in a log or table (R42, R93, R136, R143, R163, R167, R181, R192,
R303, R306). A core's access that stood behind another use of its data unit goes on after it, and what stood behind that
after it (R87). -/
def resume (s : State) : State :=
  let s := endBadUsers (endHopeless (retryLoads s))
  let s := resumeHeld (resumeOutside (dispatchJobs (resumeLink (resumeStack s))))
  if (outsideUnits s).isEmpty then s else resumeHeld (resumeOutside s)

/-- The deed of a polder's kind, unwrapped: its key enters the slot, or the load fails (R304). seen is what the job found as it
started; a working key's parent is read from the slot under its check (R300, R301, R310). -/
def applyUnwrap (p : PolderId) (kind : BitVec 8) (seen : DeedSeen) (s : State) : State :=
  match findPolder s p, slotOf s p with
  | some q, some k =>
    if kind ≠ 1 && !slotSound s k then markSlotBad k 1 s else
    (match unwrapDeed s q kind seen with
     | .ok key =>
       if kind = 1 then retryUsers p (pmkLoaded q key (answerPins p .ok s)) else retryUsers p (keyLoaded q kind key s)
     | .error f => failUsers p f.status k.index (failLoad q kind f (answerPins p f.status s)))
  | _, _ => s

/-- A derivation whose key is gone again: the stream's next packet asks for the next epoch's subkey anew (R65). -/
def askAgain (r : StreamRef) (s : State) : State :=
  match r with
  | .tx p d sid => { s with link := { s.link with
      tx := alter (fun t => t.polder = p && t.dest = d && t.sid = sid) (fun t => { t with requested := false }) s.link.tx } }
  | .rx _ _ _ _ => s

/-- A stream's subkey has been derived (R62, R65, R67). -/
def applyStreamKey (r : StreamRef) (epoch : BitVec 32) (s : State) : State :=
  match needKey (refPolder r) 2 s with
  | (.failed _, s) => s
  | (.wait, s) => askAgain r s
  | (.ready, s) =>
    let link := polderKey s (refPolder r) 2
    let conf := isConfidential s (refPolder r)
    match r with
    | .tx p dest sid =>
      (match s.link.tx.find? fun t => t.polder = p && t.dest = dest && t.sid = sid with
       | none => s
       | some t =>
         let key := streamSubkey link p conf s.boot.instanceId dest sid t.cls epoch
         let t : TxStream := if epoch = t.epoch then { t with key := some key }
           else if epoch = t.epoch + 1 then { t with nextKey := some key } else t
         pumpTx p dest t.cls t.lane (s.link.txWait.length + 1) (setTx t s))
    | .rx p src sid group =>
      (match findRx s p src sid group with
       | none => retryRx r true s
       | some x =>
         let dest := match group with | some g => destOf true g | none => destOf false s.boot.instanceId
         let key := streamSubkey link p conf src dest sid x.cls epoch
         let x : RxStream := if epoch = x.h then { x with key := some key }
           else if epoch = x.h + 1 then { x with nextKey := some key }
           else if epoch + 1 = x.h then { x with prevKey := some key } else x
         retryRx r false (setRx x s))

/-- A refill of the DRBG's buffer: a due reseed comes first, and with the source FAILED there is none (R317, R319,
R320). It goes on until the buffer holds its 256 B. -/
def refillBuffer (s : State) : State :=
  if !drbgAvailable s then s
  else
    let s := reseedIfDue s
    let s := modKeys (fun u => { u with
      buffer := u.buffer ++ drbgNext s, draws := u.draws + 1, requests := u.requests + 1 }) s
    if s.keys.buffer.length + 64 ≤ 256 then needJob 4 .drbgRefill none s else s

/-- What an unwrap whose start was not noted finds now. -/
def seenNow (p : PolderId) (kind : BitVec 8) (s : State) : DeedSeen :=
  match findPolder s p with
  | some q => deedSeen s q kind
  | none => { fail := some ⟨.orphaned, 2⟩, parent := 0, generation := 0 }

/-- The result of a KCU job that has passed its checks (R308). -/
def applyJob (j : KcuJob) (s : State) : State :=
  match j.work with
  | .unwrapPmk p => applyUnwrap p 1 (j.seen.getD (seenNow p 1 s)) s
  | .unwrapKey p kind => applyUnwrap p kind (j.seen.getD (seenNow p kind s)) s
  | .streamKey r epoch => applyStreamKey r epoch s
  | .extentKey e => extentDerived e s
  | .sealPiece n i => sealPiece n i s
  | .drbgRefill => refillBuffer s

/-! ### KCU jobs ending (R312 to R315) -/

/-- A KCU. -/
def getKcu (second : Bool) (s : State) : Kcu := if second then s.keys.kcu1 else s.keys.kcu0

/-- Replace a KCU. -/
def setKcu (second : Bool) (k : Kcu) (s : State) : State :=
  modKeys (fun u => if second then { u with kcu1 := k } else { u with kcu0 := k }) s

/-- A KCU between jobs: its registers are zero (R311). -/
def idleKcu (k : Kcu) (inService : Bool) : Kcu := { k with inService := inService, job := none, regs := .zero }

/-- A KCU leaves service: its record, and its job goes back to the head of its class (R315). -/
def kcuOut (second : Bool) (j : KcuJob) (s : State) : State :=
  let s := setKcu second (idleKcu (getKcu second s) false) s
  let head : List KcuJob := if j.abandoned then [] else [{ j with restarted := false, seen := none }]
  let s := modKeys (fun u => { u with queue := head ++ u.queue }) s
  writeFault .kcuOutOfService
    { unit := kcuUnit second, count := s.keys.mismatches.length,
      detail := [if second then 1 else 0, Config.kcuMode (jobMode j.work)] } s

/-- With both KCUs out of service the block resets; else the one left goes on (R315). -/
def afterKcuOut (s : State) : State :=
  if !s.keys.kcu0.inService && !s.keys.kcu1.inService then blockReset 4 s else resume s

/-- The job of a KCU ends with its checks passed: its registers are zeroized, but for the prefix states of a derivation (R311,
R313, R316). Its domain has had work until now (R41). -/
def jobPasses (second : Bool) (j : KcuJob) (s : State) : State :=
  let k := idleKcu (getKcu second s) true
  let k := if j.abandoned then k else cacheJob j.work s k
  let s := markWork (kcuDomain second) (traceJob true second j (setKcu second k s))
  resume (if j.abandoned then s else applyJob j s)

/-- A comparison fails: the mismatch is counted, the job restarts once from its beginning, a second failure takes the KCU out of
service, and the sixteenth mismatch within 1 s resets the block (R315). -/
def jobMismatch (second : Bool) (j : KcuJob) (s : State) : State :=
  let recent := (s.keys.mismatches.filter fun t => s.time < t + 1000000000) ++ [s.time]
  let s := count 0x007 (modKeys (fun u => { u with mismatches := recent }) s)
  let full := decide (16 ≤ recent.length)
  if j.restarted then
    let s := kcuOut second j s
    if full then blockReset 4 s else afterKcuOut s
  else if full then blockReset 4 s
  else setKcu second { getKcu second s with
    job := some { j with restarted := true, seen := jobSeen s j.work }, regs := loadRegs s j.work } s

/-- Whether a job is an unwrap, after which the known-answer test of R314 runs. -/
def isUnwrap : KcuWork → Bool
  | .unwrapPmk _ => true
  | .unwrapKey _ _ => true
  | _ => false

/-- KCU_JOB_COMPLETE (R312 to R315). A failed known-answer test takes the KCU out of service; only an unwrap has one. -/
def execKcuJobComplete (kcu : Bool) (outcome : KcuOutcome) (s : State) : Host.Outcome State Fault Refusal :=
  .next <|
    match (getKcu kcu s).job with
    | none => s
    | some j =>
      match outcome with
      | .pass => jobPasses kcu j s
      | .mismatch => jobMismatch kcu j s
      | .katFail =>
        if isUnwrap j.work then
          let recent := s.keys.mismatches.filter fun t => s.time < t + 1000000000
          afterKcuOut (kcuOut kcu j (modKeys (fun u => { u with mismatches := recent }) s))
        else jobPasses kcu j s

/-! ### Slots (R305, R306) -/

/-- SLOT_EVICTION_COMPLETE (R305): the holders have finished; the slot is zeroized and FREE. The slot of a polder in teardown
is freed by step 4 of R449. -/
def execSlotEvictionComplete (slot : BitVec 8) (s : State) : Host.Outcome State Fault Refusal :=
  .next <|
    let k := getSlot s slot
    let ending : Bool := match findPolder s k.polder with | some q => q.teardown.isSome | none => false
    if running s && k.state = .evicting && !slotUsed s k.polder && !ending then resume (zeroizeSlot k .free s) else s

/-- Whether a load has no victim: as many loads have waited longer as slots are EVICTING for loads (R306). -/
def victimless (s : State) (p : PolderId) : Bool :=
  match (slotless s).findIdx? fun l => l.polder = p with
  | some i => decide ((victims s).length ≤ i)
  | none => false

/-- SLOT_LOAD_TIMEOUT (R306): 1 ms has passed without a victim. A slot that has become one by now is taken first. -/
def execSlotLoadTimeout (polder : PolderId) (s : State) : Host.Outcome State Fault Refusal :=
  .next <|
    match s.cad.loads.find? fun l => l.polder = polder && l.slot.isNone with
    | none => s
    | some l =>
      if l.start + 1000000 ≤ s.time then
        let s := retryLoads s
        if victimless s polder then resume (endSlotless polder s) else s
      else s

/-! ### The DRBG and the entropy source (R317, R320) -/

/-- DRBG_RESEED (R317). -/
def execDrbgReseed (s : State) : Host.Outcome State Fault Refusal :=
  .next <| if running s && s.keys.instantiated && reseedDue s && !s.keys.sourceFailed then reseed s else s

/-- ENTROPY_HEALTH_FAILURE (R320): the third failure in a row makes the source FAILED. -/
def execEntropyHealthFailure (test : BitVec 8) (s : State) : Host.Outcome State Fault Refusal :=
  .next <|
    if !running s || !s.keys.instantiated || s.keys.sourceFailed then s
    else
      let n := s.keys.failures + 1
      if n < 3 then modKeys (fun u => { u with failures := n }) s
      else writeFault .entropyFailed { unit := 0x0C00, detail := [test] }
        (modKeys (fun u => { u with failures := n, sourceFailed := true }) s)

/-! ### Packets and the stream store (R71, R75) -/

/-- PROTECTED_PACKET_RECEIVE (R42, R71, R75). A port that the role lacks delivers nothing. -/
def execProtectedPacketReceive (port : BitVec 8) (packet : Bytes) (s : State) : Host.Outcome State Fault Refusal :=
  .next <|
    if linkServes s && port.toNat < portCount s.boot.role then
      enter ⟨.lceRx, port⟩ (.packet port packet) (arrivePacket port packet) s
    else s

/-- How many streams a slice caches (R75). -/
def sliceEntries : Nat := 256

/-- Put an entry into a slice; when the slice is full, which entry leaves is a free value. -/
def cacheEntry (slice : BitVec 8) (r : StreamRef) (s : State) : State :=
  let isRx := fun (x : StreamRef) => match x with | .rx _ _ _ _ => true | _ => false
  let mine := s.link.cached.filter fun c => c.2 = slice && isRx c.1 == isRx r && c.1 ≠ r
  let s := if mine.length < sliceEntries then s
    else
      match mine[(fresh s).toNat % mine.length]? with
      | some v => tookFree { s with link := { s.link with cached := s.link.cached.erase v } }
      | none => s
  { s with link := { s.link with cached := assocSet r slice s.link.cached } }

/-- The domain of the slice that works on a stream. -/
def streamDomain (slice : BitVec 8) : StreamRef → DomainId
  | .tx _ _ _ => ⟨.lceTx, slice⟩
  | .rx _ _ _ _ => ⟨.lceRx, slice⟩

/-- Whether a stream, or what waits to open one at a slice, is there. -/
def streamThere (s : State) (slice : BitVec 8) : StreamRef → Bool
  | .tx p dest sid => s.link.tx.any fun t => t.polder = p && t.dest = dest && t.sid = sid
  | .rx p src sid group => (findRx s p src sid group).isSome
      || s.link.rxWait.any fun w => w.1 = .rx p src sid group && w.2.1 = slice

/-- STREAM_ENTRY_FETCH (R42, R75): the entry enters the slice and what waits on it goes on, in order. -/
def execStreamEntryFetch (slice : BitVec 8) (stream : StreamRef) (s : State) : Host.Outcome State Fault Refusal :=
  .next <|
    if !running s || portCount s.boot.role ≤ slice.toNat || !streamThere s slice stream then s
    else withDomain (streamDomain slice stream) (fun s => resume (cacheEntry slice stream s)) s

end Sys2Proof.Machine
end

