-- ==== Sys2Proof/Machine/Power.lean ====
section
/-! DEFINITION. Switched power domains, clock-stop handshakes and culverts as commands act on them, and the delivery of
what waited for a domain (R36 to R49, R481, R519, R520, R528). -/

namespace Sys2Proof.Machine

/-! ### Work of a domain -/

/-- Whether released packets of a kind wait in the block: kind 2 for the reduction and barrier units, else for the FAU. -/
def inboxFor (s : State) (coll barrier : Bool) : Bool :=
  s.link.inbox.any fun r => (r.kind = 2) == coll && (!coll || r.payload.isEmpty == barrier)

/-- Whether a domain has work, or holds state that R43 keeps it powered for. DESIGN CHOICE: no rule says which entries
lie in which bank of the replay table, the CTC, the BAS, the tree walkers and the extent root banks, so every bank of a
kind stays powered while any entry of the kind exists; the FAU's partition 0 stands for all (notes/assumptions/71.md).
-/
def domainBusy (s : State) (d : DomainId) : Bool :=
  let i := d.index.toNat
  let hung := s.tracer.hangs.any fun h => h.unit = domainUnit d
  hung || entering s d || match d.kind with
  | .lceTx => s.link.txWait.any fun k => s.link.tx.any fun t =>
      t.polder = k.polder && t.dest = k.dest && t.cls = k.cls && t.lane = k.lane && cachedIn s (txRef t) = some d.index
  | .lceRx => (s.link.rxWait.any fun w => w.2.1 = d.index) || s.link.rxPort.any fun w => w.1 = d.index
  | .sce => ((s.stack.reads ++ s.stack.keyWait ++ s.stack.fillWait ++ s.stack.held).any fun w => reqSlice w.req = i)
      || (s.stack.port.any fun r => reqSlice r = i) || s.stack.fills.any fun f => sceSlice f.plot = i
  | .pie => !s.fau.memWait.isEmpty || s.tray.extents.any fun e => e.state = .granting || e.rekey.isSome
  | .rmuPair => !s.coll.participants.isEmpty || !s.coll.nodes.isEmpty || (s.coll.sinks.any fun k => k.ended.isNone)
      || inboxFor s true false
  | .bas => !s.coll.nodes.isEmpty
  | .ctc => s.tray.ctc.any fun e => e.dirty
  | .treeWalker | .rootBank => s.tray.extents.any fun e => e.state ≠ .free && e.state ≠ .revoked
  | .levee => (getGroup s i).state = .rebuilding
  | .fau => !s.fau.ops.isEmpty || !s.fau.fences.isEmpty || !s.fau.waiting.isEmpty || !s.fau.unacked.isEmpty
      || !s.fau.memWait.isEmpty || !s.fau.hold.isEmpty || inboxFor s false false
  | .replayBank => (s.fau.replays.any fun r => decide (s.time < r.at_ + 2000000))
      || (s.fau.unacked.any fun u => u.rel.inner.opcode = 3) || s.fau.memWait.any fun w => w.rel.inner.opcode = 3
  | .scaBank => s.obj.contexts.any fun c => (List.range 32).any fun k => c.cores.getLsbD (32 * i + k)
  | .barrierBank => (s.bars.counters.any fun c => c.id.toNat % 4 = i) || inboxFor s true true
  | .barrierUnit => !s.bars.arrivals.isEmpty || inboxFor s true true
  | .ringBank => s.rings.directory.any fun e => ringUnit e.ring e.line = domainUnit d
  | .spmBank => s.stack.spm.any fun e => e.1.toNat / 16384 = i && plotValid e.2
  | .kcu => (if i = 0 then s.keys.kcu0 else s.keys.kcu1).job.isSome || !s.keys.queue.isEmpty
  | .chartEngine => !s.charts.exports.isEmpty || !s.charts.imports.isEmpty
  | .tracer => !s.tracer.sealing.isEmpty || s.tracer.enabled
  | .hostPath => (s.obj.rings.any fun r => r.inFlight ≠ 0) || s.obj.queues.any fun q => q.state = .active && q.head ≠ q.tail
  | .dither => s.coll.nodes.any fun n => n.root
  | .faultSram => !s.tracer.faults.isEmpty
  | .tap => s.lc.auth.isSome
  | _ => false

/-- Whether a domain has had no work for its gate delay (R41). -/
def idleLong (s : State) (d : DomainId) : Bool :=
  !domainBusy s d && decide (assocGet d 0 s.power.lastWork + 1000 * s.regs.gateDelayUs ≤ s.time)

/-! ### Delivery (R42, R45, R46, R48) -/

/-- The work that an entry stands for, as its domain takes it. -/
def serveEntry (e : CulvertEntry) (s : State) : State :=
  match e with
  | .stack r => arriveStack r s
  | .packet port b => arrivePacket port b s
  | .notice port b => arriveNotice port b s
  | .remote r => submitOp r .core s
  | .sca op r => scaRequest op r s
  | .line ring message addr data => arriveLine ring message addr data s

/-- The next entry for a domain: the oldest in its culvert, else the oldest outside. -/
def nextEntry (d : DomainId) (s : State) : Option (CulvertEntry × State) :=
  let c := getCulvert s (portCulvert d)
  match c.entries with
  | e :: t => some (e, setCulvert { c with entries := t } s)
  | [] =>
    match s.power.outside.find? fun x => x.1 = d with
    | some x => some (x.2, modPower (fun p => { p with outside := p.outside.erase x }) s)
    | none => none

/-- Deliver what waits for a domain, once each and in order, while the domain serves; n bounds the entries (R45). -/
def deliver (d : DomainId) : Nat → State → State
  | 0, s => s
  | n + 1, s =>
    if !serves s d then s
    else
      match nextEntry d s with
      | some (e, s) => deliver d n (serveEntry e (markWork d s))
      | none => s

/-- A domain may serve again: what waits for it is delivered, and what waits elsewhere in the block tries again. -/
def domainServes (d : DomainId) (s : State) : State :=
  let n := (getCulvert s (portCulvert d)).entries.length + s.power.outside.length
  resume (deliver d n s)

/-! ### Meanings -/

/-- CLOCK_STOP_REQUEST (R519): the domain emits CLOCK_STOP and acknowledges; a gated one acknowledges without an event. -/
def execClockStopRequest (d : DomainId) (s : State) : Host.Outcome State Fault Refusal :=
  .next <|
    if !running s || !domainExists s d || inCluster d.kind || s.pins.clkStopReq.contains d then s
    else
      let mhz := 800 + (fresh s).toNat % 801
      let s := if domainOn s d then
          tookFree (emitTrace 0 0x0001 (domainUnit d) 0 none (leBytes 4 mhz) s)
        else s
      modPins (fun p => { p with clkStopReq := p.clkStopReq ++ [d], clkStopAck := p.clkStopAck ++ [d] }) s

/-- The slice that a gated domain is: it writes back every stream entry it caches (R75). -/
def writeBackEntries (d : DomainId) (s : State) : State :=
  let isRx := fun (r : StreamRef) => match r with | .rx _ _ _ _ => true | _ => false
  let mine := fun (c : StreamRef × BitVec 8) => c.2 = d.index
    && ((d.kind = .lceRx && isRx c.1) || (d.kind = .lceTx && !isRx c.1))
  { s with link := { s.link with cached := s.link.cached.filter fun c => !mine c } }

/-- The key registers and staging buffers of a domain are zeroized before its power goes: the copies of stack keys in an
SCE slice, the prefix states of a KCU, the stream entries of an LCE slice (R41, R75, R305, R316). -/
def zeroizeDomain (d : DomainId) (s : State) : State :=
  match d.kind with
  | .sce => dropCopies d.index.toNat s
  | .kcu =>
    let second := decide (d.index.toNat = 1)
    setKcu second { getKcu second s with prefixes := [] } s
  | _ => writeBackEntries d s

/-- DOMAIN_GATE (R41, R43): a domain that has had no work for its gate delay loses its keys, its buffers and its power. -/
def execDomainGate (d : DomainId) (s : State) : Host.Outcome State Fault Refusal :=
  .next <|
    if !running s || !domainExists s d || !gateable d.kind || !domainOn s d || !idleLong s d
        || s.pins.clkStopAck.contains d then s
    else
      let s := count 0x013 (emitTrace 0 0x0003 (domainUnit d) 0 none [] (zeroizeDomain d s))
      modPins (fun p => { p with pwrEn := p.pwrEn.filter (· ≠ d), pwrGood := p.pwrGood.filter (· ≠ d) }) s

/-- DOMAIN_WAKE (R42). -/
def execDomainWake (d : DomainId) (s : State) : Host.Outcome State Fault Refusal := .next (wakeDomain d s)

end Sys2Proof.Machine
end

