-- ==== Sys2Proof/Machine/Replay.lean ====
section
/-! DEFINITION. Suspect replay: the work that contexts have in an engine, the engine's reset, and the suspects taken one at
a time (R439, R440). -/

namespace Sys2Proof.Machine

/-! ### Work in an engine -/

/-- Whether a packet waits in a TX slice. -/
def waitsInSlice (s : State) (slice : BitVec 8) (k : TxPacket) : Bool :=
  match findTx s k.polder k.dest k.cls k.lane with
  | some t => decide (cachedIn s (txRef t) = some slice)
  | none => false

/-- The contexts of the accesses that an SCE slice holds. -/
def sliceAccesses (s : State) (i : Nat) : List StackWait :=
  (s.stack.reads ++ s.stack.keyWait ++ s.stack.fillWait).filter fun w => sceSlice (plotOf w.req.addr.toNat) = i

/-- The bulk copies under way, by queue and descriptor (R387). -/
def bulkCopies (s : State) : List (Queue × Started) :=
  s.obj.queues.flatMap fun q => (q.started.filter fun d => d.begun && descKind d.data = 7).map fun d => (q, d)

/-- The pieces of work in progress in an engine: the context of each, and a number that tells it from the others there
(R439). -/
def unitsIn (s : State) (unit : BitVec 16) : List (CtxId × Nat) :=
  let i := unit.toNat % 256
  match unit.toNat / 256 with
  | 0x01 => (s.link.txWait.filter (waitsInSlice s (BitVec.ofNat 8 i))).filterMap fun k =>
      (txContext s k).map fun c => (c, k.inner.seq.toNat)
  | 0x03 => (sliceAccesses s i).map fun w => (w.req.context, w.turn)
  | 0x05 => if i = 0 then s.fau.ops.map (fun o => (o.req.context, o.id)) ++ s.fau.fences.map (fun f => (f.context, f.id)) else []
  | 0x06 => (s.coll.participants.filter fun x => rmuUnit s x.launch.id = unit).map fun x => (x.context, x.launch.id.toNat)
  | 0x09 => (bulkCopies s).map fun x => (x.1.context, 4096 * x.1.id.toNat + x.2.index.toNat)
  | _ => []

/-- The context of each piece of work in progress in an engine, one entry a piece (R439). -/
def engineWork (s : State) (unit : BitVec 16) : List CtxId := (unitsIn s unit).map (·.1)

/-- Insert a context number into a rising list. -/
def insertCtx (c : CtxId) : List CtxId → List CtxId
  | [] => [c]
  | x :: t => if c.toNat < x.toNat then c :: x :: t else if c = x then x :: t else x :: insertCtx c t

/-- The suspects of an engine, in increasing context number (R439, R440). -/
def suspectsOf (s : State) (unit : BitVec 16) : List CtxId := (engineWork s unit).foldl (fun l c => insertCtx c l) []

/-- End the work of one context in an engine with ST_SQUASHED (R440). -/
def squashIn (unit : BitVec 16) (c : CtxId) (s : State) : State :=
  let i := unit.toNat % 256
  match unit.toNat / 256 with
  | 0x01 =>
    let mine := fun (k : TxPacket) => waitsInSlice s (BitVec.ofNat 8 i) k && txContext s k = some c
    (s.link.txWait.filter mine).foldl (fun t k => endWaitingTx k .squashed t)
      { s with link := { s.link with txWait := s.link.txWait.filter fun k => !mine k } }
  | 0x03 =>
    let mine := fun (w : StackWait) => sceSlice (plotOf w.req.addr.toNat) = i && w.req.context = c
    let gone := (sliceAccesses s i).filter mine
    let s := { s with stack := { s.stack with
      reads := s.stack.reads.filter fun w => !mine w
      keyWait := s.stack.keyWait.filter fun w => !mine w
      fillWait := s.stack.fillWait.filter fun w => !mine w } }
    gone.foldl (fun t w => stackAnswer w.req .squashed [] t) s
  | 0x05 => endOps (fun x => x = c) .squashed s
  | 0x06 =>
    (s.coll.participants.filter fun x => rmuUnit s x.launch.id = unit && x.context = c).foldl
      (fun t x => abortPart x .squashed t) s
  | 0x09 =>
    ((bulkCopies s).filter fun x => x.1.context = c).foldl (fun t x => endDescriptor x.1.id x.2.index .squashed 0 0 t) s
  | _ => s

/-! ### Replay -/

/-- The hang of a unit. -/
def findHang (s : State) (unit : BitVec 16) : Option Hang := s.tracer.hangs.find? fun h => h.unit = unit

/-- What an engine's hang has kept waiting tries again. -/
def resumeWork (s : State) : State := resume (resumeHeld s)

/-- The context of an entry on its way into a domain, if it has one (R47). -/
def entryContext (s : State) (e : CulvertEntry) : Option CtxId :=
  match e with
  | .stack r => some r.context
  | .remote r => some r.context
  | .sca _ r => (coreContext s r.core).map (·.id)
  | .packet _ _ | .notice _ _ | .line _ _ _ _ => none

/-- The contexts that the last reset of a domain's culvert told become suspects of its hang (R47, R439). -/
def joinSuspects (unit : BitVec 16) (d : DomainId) (s : State) : State :=
  let told := (getCulvert s (portCulvert d)).suspects
  let join := fun (h : Hang) => { h with suspects := told.foldl (fun l c => if h.current = some c then l else insertCtx c l) h.suspects }
  modTracer (fun t => { t with hangs := alter (fun h => h.unit = unit) join t.hangs }) s

/-- What a hang's replay is to perform again is the work in progress now. -/
def noteUnits (unit : BitVec 16) (s : State) : State :=
  modTracer (fun t => { t with hangs := alter (fun h => h.unit = unit) (fun h => { h with units := unitsIn s unit }) t.hangs }) s

/-- Whether no unit of a suspect that was in progress at the reset is in the engine still (R440). -/
def suspectDone (s : State) (h : Hang) (c : CtxId) : Bool :=
  !h.units.any fun u => u.1 = c && (unitsIn s h.unit).contains u

/-- Reset an engine's domain: an RX slice discards its unverified packets, and a TX slice's, the SCE's and the FAU's
work stays to be performed again. Its culverts are reset, and the contexts of what they held join the suspects (R47,
R439). -/
def resetEngine (unit : BitVec 16) (s : State) : State :=
  let s := noteUnits unit s
  let s : State := if unit.toNat / 256 = 2 then
      { s with link := { s.link with rxWait := s.link.rxWait.filter fun w => w.2.1.toNat ≠ unit.toNat % 256 } }
    else s
  match unitDomain s unit with
  | some d => joinSuspects unit d (resetCulverts d (entryContext s) s)
  | none => s

/-- The FAU sends a suspect's operations again that were in progress at the reset, under R154 and with their sequence
numbers (R439). -/
def resendSuspect (h : Hang) (c : CtxId) (s : State) : State :=
  if h.unit.toNat / 256 ≠ 5 then s
  else (s.fau.ops.filter fun o => o.req.context = c && h.units.contains (c, o.id)).foldl (fun t o => resendNow o t) s

/-- A node asks its children for the blocks that it has not yet combined: each gets a receipt of what has come (R246, R439). -/
def askBlocks (n : CollNode) (s : State) : State :=
  match findGroup s n.launch.polder n.launch.group with
  | none => s
  | some g =>
    match sendEach (((kidsOf g n.node).zipIdx).map fun x => receiptPacket g n x.2 x.1) s with
    | (none, s) => s
    | (some st, s) => abortNode g n st s.boot.instanceId s

/-- What a reset engine performs again of itself, once it serves (R439, R440). -/
def reperform (unit : BitVec 16) (s : State) : State :=
  match findHang s unit with
  | none => s
  | some h =>
    let s := match h.current with | some c => resendSuspect h c s | none => s
    if unit.toNat / 256 ≠ 6 then s
    else (s.coll.nodes.filter fun n => rmuUnit s n.launch.id = unit).foldl (fun t n => askBlocks n t) s

/-- Take the next suspect of a hang, or let the engine serve all again and end the commands that wait (R440). -/
def advanceHang (unit : BitVec 16) (s : State) : State :=
  match findHang s unit with
  | none => s
  | some h =>
    match h.suspects with
    | c :: rest =>
      let next : Hang := { h with current := some c, suspects := rest, start := s.time }
      let s := resumeWork (modTracer (fun t => { t with hangs := upsert (fun x => x.unit = unit) next t.hangs }) s)
      if (unitDomain s unit).any (serves s) then resendSuspect next c s else s
    | [] =>
      resumeWork (finishAll h.waiters .ok (modTracer (fun t => { t with hangs := t.hangs.filter fun x => x.unit ≠ unit }) s))

/-- CULVERT_HANDSHAKE_COMPLETE (R48, R49): both clocks run and the pointers agree; the culvert reports ready, and what
its writer has kept enters it. An engine that was reset performs its work again (R439). -/
def execCulvertHandshakeComplete (c : CulvertId) (s : State) : Host.Outcome State Fault Refusal :=
  .next <|
    if islandStopped s c.left || islandStopped s c.right || (getCulvert s c).ready then s
    else
      let s := setCulvert { getCulvert s c with ready := true } s
      match c.left with
      | .domain d => reperform (domainUnit d) (domainServes d s)
      | _ => s

/-- A context's work has ended: it is a suspect no more, and where it was replayed the next one is taken. -/
def dropSuspect (c : CtxId) (s : State) : State :=
  let cut := fun (h : Hang) => { h with suspects := h.suspects.filter (· ≠ c) }
  let s := modTracer (fun t => { t with hangs := t.hangs.map cut }) s
  (s.tracer.hangs.filter fun h => h.current = some c).foldl (fun t h => advanceHang h.unit t) s

end Sys2Proof.Machine
end

