-- ==== Sys2Proof/Machine/Contexts.lean ====
section
/-! DEFINITION. Contexts, queues, event rings, fences and memory objects: their creation and destruction (R363 to R375,
R391, group 0x04 and part of group 0x03 of R383). -/

namespace Sys2Proof.Machine

/-- Change the host objects. -/
def modObj (f : Objects → Objects) (s : State) : State := { s with obj := f s.obj }

/-! ### Squashing -/

/-- How many descriptors of a queue have been made ready and not fetched (R511, R512). -/
def unfetched (q : Queue) : Nat := if q.depth = 0 then 0 else (q.tail.toNat + q.depth - q.head.toNat) % q.depth

/-- The next n descriptors of a queue have left its ring: a doomed memory object waits for so many fewer (R372). -/
def passAhead (q : BitVec 8) (n : Nat) (s : State) : State :=
  let pass := fun (x : BitVec 8 × Nat) => if x.1 = q then (q, x.2 - n) else x
  modObj (fun o => { o with
    memobjs := o.memobjs.map fun m => { m with ahead := (m.ahead.map pass).filter fun x => decide (x.2 ≠ 0) } }) s

/-- End the descriptors of a queue that have not been fetched: the block has not read their ctags, which the spec leaves
open here. -/
def squashUnfetched (q : Queue) : Nat → State → State
  | 0, s => s
  | n + 1, s =>
    let idx := BitVec.ofNat 12 ((q.head.toNat + (unfetched q - (n + 1))) % (max q.depth 1))
    squashUnfetched q n (tookFree (endUnstarted q idx ((fresh s).setWidth 16) .squashed s))

/-- End the unstarted descriptors of a queue: those not fetched, and those that no engine has taken (R366, R374). -/
def squashQueue (id : BitVec 8) (s : State) : State :=
  match findQueue s id with
  | none => s
  | some q =>
    let s := passAhead id (unfetched q) (modQueue id (fun x => { x with head := x.tail }) s)
    let s := squashUnfetched q (unfetched q) s
    (q.started.filter fun d => !d.begun).foldl (fun t d => endDescriptor id d.index .squashed 0 0 t) s

/-- How many descriptors of a queue squashQueue ends. -/
def unstartedOf (q : Queue) : Nat := unfetched q + (q.started.filter fun d => !d.begun).length

/-- A participant aborts its barrier and tells its leaf (R275). -/
def abortArrival (a : Arrival) (st : Status) (s : State) : State :=
  let s := completeArrival a st s
  match findGroup s a.polder a.group with
  | some g => sendAbort g a.id a.cls 0 none st s.boot.instanceId s
  | none => s

/-- End a context's collectives and barriers, each aborted (R366 step 3). -/
def abortContext (c : CtxId) (st : Status) (s : State) : State :=
  let parts := s.coll.participants.filter fun x => x.context = c
  let s := parts.foldl (fun t x => abortPart x st t) s
  (s.bars.arrivals.filter fun a => a.context = c).foldl (fun t a => abortArrival a st t) s

/-- End the SCA requests that a context's cores have held by a freeze. -/
def endHeldSca (x : Context) (s : State) : State :=
  let mine := s.sca.held.filter fun h => coreOf x h.1.core
  mine.foldl (fun t h => scaAnswer h.1.core .squashed 0 t)
    { s with sca := { s.sca with held := s.sca.held.filter fun h => !coreOf x h.1.core } }

/-- Steps 1 to 3 of R366 on a context. -/
def squashWork (c : CtxId) (s : State) : State :=
  match findContext s c with
  | none => s
  | some x =>
    let s := (s.obj.queues.filter fun q => q.context = c).foldl (fun t q => squashQueue q.id t) s
    let s := endHeldSca x (endWaits x (endOps (fun y => y = c) .squashed s))
    dropSuspect c (resume (endHold c .squashed (abortContext c .squashed s)))

/-- Step 4 of R366: owned fences are abandoned and shares dropped. -/
def endFences (c : CtxId) (s : State) : State :=
  dropShares c ((s.obj.fences.filter fun f => f.owner = c).foldl (fun t f => abandonFence f.id t) s)

/-- Begin the destruction of a context (R365, R366); the waiting commands end with it. -/
def beginDestroy (c : CtxId) (waiters : List (Origin × BitVec 32)) (s : State) : State :=
  match findContext s c with
  | none => s
  | some x =>
    let s := modContext c (fun x => { x with state := .destroying, waiters := x.waiters ++ waiters }) s
    if x.state = .destroying then s
    else
      let s := modObj (fun o => { o with
        queues := alter (fun q => q.context = c) (fun q => { q with state := .destroying }) o.queues }) s
      endFences c (squashWork c s)

/-- Whether a completion of one of a context's descriptors still waits for a slot of its event ring (R370). -/
def completionsWait (s : State) (c : CtxId) : Bool :=
  s.obj.rings.any fun r => r.waiting.any fun e => e.kind = 0x01 && e.context = c

/-- Whether a context that is being destroyed is idle (R366 step 5, R374). -/
def contextIdle (s : State) (c : CtxId) : Bool :=
  (s.obj.queues.all fun q => q.context ≠ c || q.started.isEmpty) && !completionsWait s c

/-- Free a context: its queues are FREE, its cores unbound and their counters discarded (R257, R366 step 6). -/
def freeContext (c : CtxId) (s : State) : State :=
  match findContext s c with
  | none => s
  | some x =>
    let qs := s.obj.queues.filter fun q => q.context = c
    let s := modObj (fun o => { o with
      queues := o.queues.filter fun q => q.context ≠ c, contexts := o.contexts.filter fun y => y.id ≠ c }) s
    let s := qs.foldl (fun t q => finishAll q.waiters .ok t) (zeroSync x.cores s)
    finishAll x.waiters .ok (finishAll x.resetting .squashed s)

/-! ### The reset of a context (R444, scope 1) -/

/-- Whether a descriptor of a context runs on an engine: the BULK_COPYs alone outlast steps 1 to 4 of R366. -/
def copyRuns (s : State) (c : CtxId) : Bool := (bulkCopies s).any fun x => x.1.context = c

/-- A context returns to BOUND: its counters 0, its queues ACTIVE and its step as it was (R444). -/
def bringBack (c : CtxId) (s : State) : State :=
  let s := match findContext s c with | some x => zeroSync x.cores s | none => s
  let again := fun (q : Queue) => { q with state := .active }
  let s := modObj (fun o => { o with queues := alter (fun q => q.context = c && q.state = .halted) again o.queues }) s
  modContext c (fun x => { x with state := .bound }) s

/-- Bring a context back to BOUND at once: steps 1 to 4 of R366, no descriptor running, then its return (R444). -/
def restoreContext (c : CtxId) (s : State) : State := bringBack c (endFences c (squashWork c s))

/-- The resets that wait for a context's last running descriptor end with it (R444, step 5 of R366). -/
def settleReset (c : CtxId) (s : State) : State :=
  match findContext s c with
  | some x =>
    if x.resetting.isEmpty || copyRuns s c then s
    else finishAll x.resetting .ok (bringBack c (modContext c (fun y => { y with resetting := [] }) s))
  | none => s

/-- RESET of scope 1: steps 1 to 4 of R366 at once; with step 5 done the context returns, else the command waits (R444). -/
def resetContext (c : CtxId) (o : Origin) (tag : BitVec 32) (s : State) : State :=
  let t := endFences c (squashWork c s)
  if copyRuns t c then modContext c (fun x => { x with resetting := x.resetting ++ [(o, tag)] }) t
  else finish o tag .ok [] (bringBack c t)

/-- CONTEXT_DESTROY_COMPLETE (R366). -/
def execContextDestroyComplete (context : CtxId) (s : State) : Host.Outcome State Fault Refusal :=
  .next <|
    match findContext s context with
    | none => s
    | some x => if x.state = .destroying && contextIdle s context then freeContext context s else s

/-! ### Limits (R363, R394) -/

/-- The VF of a sluice. -/
def sluiceVf : Sluice → Option VfId
  | .vf n => some n
  | _ => none

/-- Whether a VF holds as many objects of a kind as its allotment of it allows; the PF has none. -/
def allotted (o : Origin) (s : State) (have_ : FnId → Nat) (limit : Vf → Nat) : Bool :=
  match sluiceVf o.sluice with
  | some n => decide (limit (getVf s n) ≤ have_ (fnOf n))
  | none => false

/-- The function that owns what a command creates. -/
def ownerFn (o : Origin) : FnId := (sluiceFn o.sluice).getD 0

/-- The polder of a context. -/
def contextPolder (s : State) (c : CtxId) : PolderId := match findContext s c with | some x => x.polder | none => 0

/-- How many event rings a role holds (R363). -/
def ringLimit : Role → Nat
  | .e => 512
  | _ => 16

/-- Whether a number is a power of two between two bounds. -/
def powerWithin (lo hi n : Nat) : Bool := lo ≤ n && n ≤ hi && n &&& (n - 1) = 0

/-! ### Contexts -/

/-- CONTEXT_CREATE (R348, R365, R394); bad says that its frame is malformed. -/
def contextCreateCmd (bad : Bool) (o : Origin) (tag : BitVec 32) (polder : PolderId) (cls : BitVec 8) (cores : BitVec 512)
    (s : State) : State :=
  let ci : CmdInfo := { opcode := 0x0401, pf := true, vf := true, roles := [.e] }
  let free := leastBelow 4096 fun n => (findContext s (BitVec.ofNat 12 n)).isNone
  let taken := fun (i : Nat) => cores.getLsbD i && (s.chip.cores ≤ i || (coreContext s (BitVec.ofNat 9 i)).isSome)
  let own := fun (s : State) => firstFail
    [((findPolder s polder).isNone, .badParam),
     (o.sluice = .pf && isConfidential s polder, .denied),
     ((match findPolder s polder with | some q => q.teardown.isSome | none => true), .badParam),
     ((List.range 512).any taken, .badParam),
     ((match sluiceVf o.sluice with | some n => !(getVf s n).allot1.getLsbD cls.toNat | none => false), .denied),
     (allotted o s (fun f => (s.obj.contexts.filter fun c => c.fn = f).length) fun v => (v.allot0.extractLsb' 0 13).toNat,
       .exhausted),
     (free.isNone, .exhausted)]
  runCmd ci o tag (!mayNamePolder o polder s) (bad || decide (16 ≤ cls.toNat)) own (fun s =>
    let c : Context :=
      { id := BitVec.ofNat 12 (free.getD 0), state := .bound, fn := ownerFn o, polder := polder, cls := cls.setWidth 4,
        cores := cores, step := 0, hold := none, waiters := [] }
    reply o tag ci.opcode .ok (leBytes 2 c.id.toNat ++ zeros 2)
      (zeroSync cores (modObj (fun x => { x with contexts := x.contexts ++ [c] }) s))) s

/-- CONTEXT_CREATE. -/
def execContextCreate (o : Origin) (tag : BitVec 32) (polder : PolderId) (cls : BitVec 8) (cores : BitVec 512) (s : State) :
    Host.Outcome State Fault Refusal := .next (contextCreateCmd false o tag polder cls cores s)

/-- CONTEXT_DESTROY (R366, R359, R364). -/
def contextDestroyCmd (bad : Bool) (o : Origin) (tag : BitVec 32) (context : BitVec 16) (s : State) : State :=
  let ci : CmdInfo := { opcode := 0x0402, pf := true, vf := true, sbp := true, roles := [.e] }
  let id : CtxId := context.setWidth 12
  let found := if context.toNat < 4096 then findContext s id else none
  let denied := match found with | some c => !mayName o c.fn c.polder true s | none => false
  runCmd ci o tag denied bad (fun _ => firstFail [(found.isNone, .badParam)])
    (fun s => beginDestroy id [(o, tag)] (pend o tag ci.opcode s)) s

/-- CONTEXT_DESTROY. -/
def execContextDestroy (o : Origin) (tag : BitVec 32) (context : BitVec 16) (s : State) :
    Host.Outcome State Fault Refusal := .next (contextDestroyCmd false o tag context s)

/-! ### Queues -/

/-- Whether a command may name a context: one of its own function and polder (R364). -/
def contextDenied (o : Origin) (context : BitVec 16) (s : State) : Bool :=
  match (if context.toNat < 4096 then findContext s (context.setWidth 12) else none) with
  | some c => !mayName o c.fn c.polder false s
  | none => false

/-- Whether a context exists and its destruction has not begun (R360). -/
def contextLive (context : BitVec 16) (s : State) : Bool :=
  match (if context.toNat < 4096 then findContext s (context.setWidth 12) else none) with
  | some c => c.state ≠ .destroying
  | none => false

/-- QUEUE_CREATE (R367, R391, R394). -/
def queueCreateCmd (bad : Bool) (o : Origin) (tag : BitVec 32) (context ring depth : BitVec 16) (addr : BitVec 64)
    (s : State) : State :=
  let ci : CmdInfo := { opcode := 0x0403, pf := true, vf := true, roles := [.e] }
  let ringOk := decide (ring.toNat < 512) && match findRing s (ownerFn o) (ring.setWidth 9) with
    | some r => r.waiters.isEmpty
    | none => false
  let free := leastBelow 256 fun n => (findQueue s (BitVec.ofNat 8 n)).isNone
  let own := fun (s : State) => firstFail
    [(!contextLive context s, .badParam),
     (!powerWithin 16 4096 depth.toNat, .badParam),
     (decide (addr.toNat % 4096 ≠ 0), .badParam),
     (!ringOk, .badParam),
     (allotted o s (fun f => (s.obj.queues.filter fun q => q.fn = f).length) fun v => (v.allot0.extractLsb' 13 9).toNat,
       .exhausted),
     (free.isNone, .exhausted)]
  runCmd ci o tag (contextDenied o context s) bad own (fun s =>
    let stopped : Bool := match findContext s (context.setWidth 12) with | some c => decide (c.state = .stopped) | none => false
    let q : Queue :=
      { id := BitVec.ofNat 8 (free.getD 0), state := if stopped then .halted else .active, context := context.setWidth 12,
        fn := ownerFn o, addr := addr, depth := depth.toNat, ring := ring.setWidth 9, head := 0, tail := 0, started := [],
        waiters := [] }
    reply o tag ci.opcode .ok ([q.id] ++ zeros 3) (modObj (fun x => { x with queues := x.queues ++ [q] }) s)) s

/-- QUEUE_CREATE. -/
def execQueueCreate (o : Origin) (tag : BitVec 32) (context ring depth : BitVec 16) (addr : BitVec 64) (s : State) :
    Host.Outcome State Fault Refusal := .next (queueCreateCmd false o tag context ring depth addr s)

/-- QUEUE_DESTROY (R368, R374, R359). -/
def queueDestroyCmd (bad : Bool) (o : Origin) (tag : BitVec 32) (queue : BitVec 8) (s : State) : State :=
  let ci : CmdInfo := { opcode := 0x0404, pf := true, vf := true, sbp := true, roles := [.e] }
  let found := findQueue s queue
  let denied := match found with | some q => !mayName o q.fn (contextPolder s q.context) true s | none => false
  runCmd ci o tag denied bad (fun _ => firstFail [(found.isNone, .badParam)]) (fun s =>
    let s := modQueue queue (fun q => { q with state := .destroying, waiters := q.waiters ++ [(o, tag)] })
      (pend o tag ci.opcode s)
    settleQueue queue (squashQueue queue s)) s

/-- QUEUE_DESTROY. -/
def execQueueDestroy (o : Origin) (tag : BitVec 32) (queue : BitVec 8) (s : State) :
    Host.Outcome State Fault Refusal := .next (queueDestroyCmd false o tag queue s)

/-! ### Event rings -/

/-- The records of a function that waited for its event ring 0 are given to it (R369). -/
def releaseEarly (fn : FnId) (s : State) : State :=
  let mine := s.obj.early.filter fun x => x.1 = fn
  mine.foldl (fun t x => postEvent fn 0 x.2 t) (modObj (fun x => { x with early := x.early.filter fun y => y.1 ≠ fn }) s)

/-- EVENT_RING_CREATE (R369, R391, R394): the lowest ring number free in the function. The interrupt output carries a
vector of 11 bits (R516), which no greater vector fits. -/
def eventRingCreateCmd (bad : Bool) (o : Origin) (tag : BitVec 32) (size : BitVec 32) (vector : BitVec 16)
    (addr : BitVec 64) (s : State) : State :=
  let ci : CmdInfo := { opcode := 0x0405, pf := true, vf := true }
  let fn := ownerFn o
  let free := leastBelow (ringLimit s.boot.role) fun n => (findRing s fn (BitVec.ofNat 9 n)).isNone
  let own := fun (s : State) => firstFail
    [(!powerWithin 64 65536 size.toNat, .badParam),
     (decide (2048 ≤ vector.toNat), .badParam),
     (decide (addr.toNat % 4096 ≠ 0), .badParam),
     (allotted o s (fun f => (s.obj.rings.filter fun r => r.fn = f).length) fun v => (v.allot0.extractLsb' 22 10).toNat,
       .exhausted),
     (free.isNone || decide (ringLimit s.boot.role ≤ s.obj.rings.length), .exhausted)]
  runCmd ci o tag false bad own (fun s =>
    let r : EventRing :=
      { fn := fn, id := BitVec.ofNat 9 (free.getD 0), addr := addr, size := size.toNat, vector := vector, head := 0,
        tail := 0, phase := true, armed := false, waiting := [], dropped := 0, inFlight := 0, waiters := [] }
    let s := modObj (fun x => { x with rings := x.rings ++ [r] }) s
    let s := reply o tag ci.opcode .ok (leBytes 2 r.id.toNat ++ zeros 2) s
    if r.id = 0 then releaseEarly fn s else s) s

/-- EVENT_RING_CREATE. -/
def execEventRingCreate (o : Origin) (tag : BitVec 32) (size : BitVec 32) (vector : BitVec 16) (addr : BitVec 64)
    (s : State) : Host.Outcome State Fault Refusal := .next (eventRingCreateCmd false o tag size vector addr s)

/-- A ring being destroyed is FREE once no record write to it is in flight (R374). -/
def settleRing (fn : FnId) (id : BitVec 9) (s : State) : State :=
  match findRing s fn id with
  | none => s
  | some r =>
    if r.waiters.isEmpty || r.inFlight ≠ 0 then s
    else finishAll r.waiters .ok (modObj (fun x => { x with rings := x.rings.filter fun y => !(y.fn = fn && y.id = id) }) s)

/-- EVENT_RING_DESTROY (R374): a ring of the issuing sluice's function, on the side-band of the PF. -/
def eventRingDestroyCmd (bad : Bool) (o : Origin) (tag : BitVec 32) (ring : BitVec 16) (s : State) : State :=
  let ci : CmdInfo := { opcode := 0x0406, pf := true, vf := true, sbp := true }
  let fn := ownerFn o
  let id : BitVec 9 := ring.setWidth 9
  let found := if ring.toNat < 512 then findRing s fn id else none
  let named := fun (s : State) => ring = 0 || s.obj.queues.any fun q => q.fn = fn && q.ring = id
  runCmd ci o tag false bad (fun s => firstFail [(found.isNone, .badParam), (named s, .busy)]) (fun s =>
    settleRing fn id (modRing fn id (fun r => { r with waiters := r.waiters ++ [(o, tag)] }) (pend o tag ci.opcode s))) s

/-- EVENT_RING_DESTROY. -/
def execEventRingDestroy (o : Origin) (tag : BitVec 32) (ring : BitVec 16) (s : State) :
    Host.Outcome State Fault Refusal := .next (eventRingDestroyCmd false o tag ring s)

/-! ### Fences -/

/-- A fence named by a 16-bit field. -/
def fenceOf (fence : BitVec 16) (s : State) : Option FenceObj :=
  if fence.toNat < 16384 then findFence s (fence.setWidth 14) else none

/-- FENCE_CREATE (R373, R394). -/
def fenceCreateCmd (bad : Bool) (o : Origin) (tag : BitVec 32) (context : BitVec 16) (s : State) : State :=
  let ci : CmdInfo := { opcode := 0x0407, pf := true, vf := true, roles := [.e] }
  let free := leastBelow 16384 fun n => (findFence s (BitVec.ofNat 14 n)).isNone
  let own := fun (s : State) => firstFail
    [(!contextLive context s, .badParam),
     (allotted o s (fun f => (s.obj.fences.filter fun x => x.fn = f).length) fun v => (v.allot1.extractLsb' 16 15).toNat,
       .exhausted),
     (free.isNone, .exhausted)]
  runCmd ci o tag (contextDenied o context s) bad own (fun s =>
    let f : FenceObj :=
      { id := BitVec.ofNat 14 (free.getD 0), owner := context.setWidth 12, fn := ownerFn o, value := 0, shares := [],
        waits := [] }
    reply o tag ci.opcode .ok (leBytes 2 f.id.toNat ++ zeros 2) (modObj (fun x => { x with fences := x.fences ++ [f] }) s)) s

/-- FENCE_CREATE. -/
def execFenceCreate (o : Origin) (tag : BitVec 32) (context : BitVec 16) (s : State) :
    Host.Outcome State Fault Refusal := .next (fenceCreateCmd false o tag context s)

/-- FENCE_SHARE (R364, R373): the command names the fence and the context, so it must be allowed to name both. -/
def fenceShareCmd (bad : Bool) (o : Origin) (tag : BitVec 32) (fence context : BitVec 16) (s : State) : State :=
  let ci : CmdInfo := { opcode := 0x0408, pf := true, vf := true, roles := [.e] }
  let c : CtxId := context.setWidth 12
  let denied := contextDenied o context s || match fenceOf fence s with
    | some f => !mayName o f.fn (contextPolder s f.owner) false s
    | none => false
  let other := fun (s : State) => match fenceOf fence s, findContext s c with
    | some f, some x => x.fn ≠ f.fn
        || (isConfidential s (contextPolder s f.owner) && contextPolder s f.owner ≠ x.polder)
    | _, _ => false
  let own := fun (s : State) => firstFail
    [((fenceOf fence s).isNone || !contextLive context s, .badParam), (other s, .denied)]
  let add := fun (f : FenceObj) => if fenceNamedBy f c then f else { f with shares := f.shares ++ [c] }
  runCmd ci o tag denied bad own (fun s => reply o tag ci.opcode .ok [] (modFence (fence.setWidth 14) add s)) s

/-- FENCE_SHARE. -/
def execFenceShare (o : Origin) (tag : BitVec 32) (fence context : BitVec 16) (s : State) :
    Host.Outcome State Fault Refusal := .next (fenceShareCmd false o tag fence context s)

/-- FENCE_DESTROY (R373). -/
def fenceDestroyCmd (bad : Bool) (o : Origin) (tag : BitVec 32) (fence : BitVec 16) (s : State) : State :=
  let ci : CmdInfo := { opcode := 0x0409, pf := true, vf := true, sbp := true, roles := [.e] }
  let denied := match fenceOf fence s with
    | some f => !mayName o f.fn (contextPolder s f.owner) true s
    | none => false
  runCmd ci o tag denied bad (fun s => firstFail [((fenceOf fence s).isNone, .badParam)]) (fun s =>
    finish o tag .ok [] (abandonFence (fence.setWidth 14) (pend o tag ci.opcode s))) s

/-- FENCE_DESTROY. -/
def execFenceDestroy (o : Origin) (tag : BitVec 32) (fence : BitVec 16) (s : State) :
    Host.Outcome State Fault Refusal := .next (fenceDestroyCmd false o tag fence s)

/-! ### Memory objects -/

/-- A memory object named by a 16-bit field. -/
def memobjOf (m : BitVec 16) (s : State) : Option MemObj :=
  if m.toNat < 8192 then findMemobj s (m.setWidth 13) else none

/-- Whether a command may name a memory object. -/
def memobjDenied (o : Origin) (m : BitVec 16) (destroy : Bool) (s : State) : Bool :=
  match memobjOf m s with
  | some x => !mayName o x.fn x.polder destroy s
  | none => false

/-- MEMOBJ_CREATE (R371). -/
def memobjCreateCmd (bad : Bool) (o : Origin) (tag : BitVec 32) (polder : PolderId) (s : State) : State :=
  let ci : CmdInfo := { opcode := 0x0304, pf := true, vf := true, roles := [.e] }
  let free := leastBelow 8192 fun n => (findMemobj s (BitVec.ofNat 13 n)).isNone
  let own := fun (s : State) => firstFail
    [((match findPolder s polder with | some q => q.teardown.isSome | none => true), .badParam), (free.isNone, .exhausted)]
  runCmd ci o tag (!mayNamePolder o polder s) bad own (fun s =>
    let m : MemObj :=
      { id := BitVec.ofNat 13 (free.getD 0), doomed := false, fn := ownerFn o, polder := polder, plots := [], regions := [],
        waiters := [] }
    reply o tag ci.opcode .ok (leBytes 2 m.id.toNat ++ zeros 2)
      (modObj (fun x => { x with memobjs := x.memobjs ++ [m] }) s)) s

/-- MEMOBJ_CREATE. -/
def execMemobjCreate (o : Origin) (tag : BitVec 32) (polder : PolderId) (s : State) :
    Host.Outcome State Fault Refusal := .next (memobjCreateCmd false o tag polder s)

/-- Doom a memory object (R372): the descriptors of its polder's queues that stand in their rings already may still name
it. -/
def doomMemobj (m : BitVec 13) (s : State) : State :=
  let qs := s.obj.queues.filter fun q => unfetched q ≠ 0
  modMemobj m (fun x => if x.doomed then x else { x with
    doomed := true
    ahead := (qs.filter fun q => contextPolder s q.context = x.polder).map fun q => (q.id, unfetched q) }) s

/-- MEMOBJ_FREE (R372, R359). -/
def memobjFreeCmd (bad : Bool) (o : Origin) (tag : BitVec 32) (memobj : BitVec 16) (s : State) : State :=
  let ci : CmdInfo := { opcode := 0x0305, pf := true, vf := true, roles := [.e] }
  runCmd ci o tag (memobjDenied o memobj true s) bad (fun s => firstFail [((memobjOf memobj s).isNone, .badParam)]) (fun s =>
    modMemobj (memobj.setWidth 13) (fun m => { m with waiters := m.waiters ++ [(o, tag)] })
      (doomMemobj (memobj.setWidth 13) (pend o tag ci.opcode s))) s

/-- MEMOBJ_FREE. -/
def execMemobjFree (o : Origin) (tag : BitVec 32) (memobj : BitVec 16) (s : State) :
    Host.Outcome State Fault Refusal := .next (memobjFreeCmd false o tag memobj s)

/-- The ranges of stack addresses that a descriptor of a polder names, each with its length (R389). -/
def descRanges (p : PolderId) (d : Bytes) : List (Nat × Nat) :=
  match descKind d with
  | 1 => [((descRemote d).localAddr.toNat, max (sourceLen (descRemote d)) (sinkLen (descRemote d)))]
  | 2 => [(leField d 21 5, contribBytes (descLaunch d p)), (leField d 26 5, (descLaunch d p).dstLength)]
  | 7 => [(leField d 8 5, leField d 24 8), (leField d 16 5, leField d 24 8)]
  | _ => []

/-- Whether a descriptor of a polder names a memory object: a range of it holds a byte of the object's plots (R371). -/
def namesMemobj (p : PolderId) (d : Bytes) (m : MemObj) : Bool :=
  p = m.polder && (descRanges p d).any fun r => m.plots.any fun x =>
    decide (r.1 < (x.toNat + 1) * 16777216 && x.toNat * 16777216 < r.1 + r.2 && r.2 ≠ 0)

/-- Whether a descriptor read from a queue is a new one that names a doomed object; those that stood in the ring when the
object was doomed run (R372). -/
def namesDoomed (s : State) (x : Queue) (d : Bytes) : Bool :=
  s.obj.memobjs.any fun m =>
    m.doomed && !(m.ahead.any fun y => y.1 = x.id) && namesMemobj (contextPolder s x.context) d m

/-- Whether something refers to a memory object: a started descriptor that names it, one that stood in its ring when the
object was doomed and has not been read, or a ring home that lies in it (R371). -/
def memobjReferred (s : State) (m : MemObj) : Bool :=
  !m.ahead.isEmpty
    || (s.obj.queues.any fun q => q.started.any fun d => namesMemobj (contextPolder s q.context) d.data m)
    || s.rings.rings.any fun r => r.polder = m.polder && r.home.any fun h => m.plots.contains h

/-- MEMOBJ_LAST_REFERENCE (R372): the regions are withdrawn and the plots released; without any the object is FREE. -/
def execMemobjLastReference (memobj : BitVec 13) (s : State) : Host.Outcome State Fault Refusal :=
  .next <|
    match findMemobj s memobj with
    | none => s
    | some m =>
      if !m.doomed || memobjReferred s m then s
      else
        let s := { s with fau := { s.fau with
          regions := alter (fun g => m.regions.contains g.index) (fun g => { g with withdrawing := true }) s.fau.regions } }
        resume (settleMemobjs (m.plots.foldl (fun t p => if plotReleasing t p then t else startRelease p [] t) s))

end Sys2Proof.Machine
end

