-- ==== Sys2Proof/Machine/Teardown.lean ====
section
/-! DEFINITION. Teardown of a polder on this instance, and leaving service (R74, R102, R285, R307, R445 to R450). -/

namespace Sys2Proof.Machine

/-! ### Steps 1 and 2 (R449) -/

/-- The clear header that a released packet came with, as a link notice names it. -/
def headerOf (r : Released) (s : State) : Header :=
  { dst := r.group.getD s.boot.instanceId, mc := r.group.isSome, version := 1, src := r.src, reserved0 := 0, cls := r.cls,
    reserved1 := 0, length := BitVec.ofNat 13 r.payload.length, reserved1b := 0, polder := r.polder, sid := r.sid,
    epoch := r.epoch, counter := r.counter, kind := r.kind, epochFirst := false, retry := r.retry, reserved7 := 0 }

/-- Packets of the polder not yet released fail check 11 (R74). -/
def dropUnreleased (p : PolderId) (s : State) : State :=
  let mine := s.link.rxWait.filter fun w => refPolder w.1 = p
  mine.foldl (fun t w =>
    sendNotice (parseHeader w.2.2) (modPolderCounters p (fun c => { c with goneDrop := satInc c.goneDrop }) t))
    { s with link := { s.link with rxWait := s.link.rxWait.filter fun w => refPolder w.1 ≠ p } }

/-- Held fences and signals are discarded, each with a link notice to its sender. -/
def dropHolds (p : PolderId) (s : State) : State :=
  let mine := s.fau.hold.filter fun h => h.rel.polder = p
  mine.foldl (fun t h => sendNotice (headerOf h.rel t) t)
    { s with fau := { s.fau with hold := s.fau.hold.filter fun h => h.rel.polder ≠ p } }

/-- Ring transactions end with ST_SQUASHED: the caching agent's requests, and those of a destroy of a ring. -/
def endRings (p : PolderId) (s : State) : State :=
  let mine := fun (r : BitVec 12) => s.rings.rings.any fun x => x.id = r && x.polder = p
  let s := (s.rings.lineWait.filter fun x => mine x.1).foldl (fun t x =>
    emit (.ringAnswer x.1 x.2.2.1 .squashed 0 []) t) s
  let s := (s.rings.requests.filter fun q => mine q.ring && q.message.toNat ≤ 4).foldl (fun t q =>
    emit (.ringAnswer q.ring q.addr .squashed 0 []) t) s
  let s := (s.rings.rings.filter fun r => r.polder = p).foldl (fun t r =>
    match r.destroying with | some l => finishAll l .squashed t | none => t) s
  modRings (fun x => { x with
    rings := alter (fun r => r.polder = p) (fun r => { r with destroying := none }) x.rings
    txns := x.txns.filter fun t => !mine t.ring
    waiting := (x.txns.filterMap fun t => match t.goal with
        | .makeRoom m => if mine t.ring && m.polder ≠ p then some m else none
        | _ => none) ++ x.waiting.filter fun r => r.polder ≠ p
    again := x.again.filter fun r => r.polder ≠ p
    retired := x.retired.filter fun r => r.polder ≠ p
    requests := x.requests.filter fun q => !mine q.ring
    snoops := x.snoops.filter fun r => r.polder ≠ p
    replies := x.replies.filter fun y => y.snoop.polder ≠ p
    backs := x.backs.filter fun y => !mine y.ring
    snoopWait := x.snoopWait.filter fun y => !mine y.ring
    lineWait := x.lineWait.filter fun l => !mine l.1 }) s

/-- Queued actions of the polder are removed; a command or a descriptor among them ends with ST_SQUASHED (R285). -/
def endMarks (p : PolderId) (s : State) : State :=
  let mine := s.datum.marks.filter fun e => markPolder e.action = p
  mine.foldl (fun t e => match e.action with
    | .ringDestroy _ _ o tag => finish o tag .squashed [] t
    | .stepBegin _ c => endHold c .squashed t
    | _ => t) (dropMarks (fun a => markPolder a = p) s)

/-- Every extent of the polder enters REVOKING (R449 step 2): a lease that has run out has expired, with its record
(R202); a grant under way ends with ST_SQUASHED, its location reclaimed at step 4. -/
def revokeExtents (p : PolderId) (s : State) : State :=
  (s.tray.extents.filter fun e => e.polder = p).foldl (fun t e =>
    match e.state with
    | .leased => beginRevoke e (decide (e.expiry.toNat ≤ t.datum.value.toNat)) t
    | .granting =>
      finishAll e.granting .squashed (modExtent e.id (fun x => { x with granting := [] }) (beginRevoke e false t))
    | _ => t) s

/-- Steps 1 and 2 of a teardown (R102, R285, R307, R449). What is left runs on: descriptors that an engine has taken and
requests that the target checks have admitted. -/
def squashPolder (p : PolderId) (s : State) : State :=
  let s := dropUnreleased p (endMarks p (endStackAccesses p .squashed s))
  let loads := s.cad.loads.filter fun l => l.polder = p
  let s := { s with cad := { s.cad with loads := s.cad.loads.filter fun l => l.polder ≠ p } }
  let s := dropPieces p (abandonJobs p (loads.foldl (fun t l => finishAll l.waiters .squashed t) s))
  let s : State := match slotOf s p with
    | some k =>
      if k.state = .resident then setSlot { k with state := .evicting } s
      else if k.state = .evicting then s else zeroizeSlot k .free s
    | none => s
  let s := (s.obj.contexts.filter fun c => c.polder = p).foldl (fun t c => beginDestroy c.id [] t) s
  let s := modObj (fun o => { o with memobjs := alter (fun m => m.polder = p) (fun m => { m with doomed := true }) o.memobjs }) s
  let s := dropHolds p s
  let s := endBarriers (fun q _ => q = p) .squashed (endColl (fun l => l.polder = p) .squashed s)
  let s := modColl (fun c => { c with
    sinks := c.sinks.filter fun k => k.polder ≠ p, sent := c.sent.filter fun k => k.packet.polder ≠ p }) s
  let s := endRings p s
  let request := fun (r : Released) => r.kind = 0 && r.inner.opcode.toNat ≤ 7
  let link : Link := { s.link with
    inbox := s.link.inbox.filter fun r => r.polder ≠ p || request r
    txWait := s.link.txWait.filter fun k => k.polder ≠ p || k.owner = TxOwner.none }
  let s : State := { s with link := link }
  endImport p .squashed (endExport p .squashed [] (revokeExtents p s))

/-- Begin a teardown, or join the one begun (R359, R448); forced says that step 3 does not wait (R446). What waited for the load
that it abandons ends, and other polders' loads may take the slot (R303, R307). -/
def beginTeardown (p : PolderId) (forced : Bool) (waiters : List (Origin × BitVec 32)) (s : State) : State :=
  match findPolder s p with
  | none => s
  | some q =>
    match q.teardown with
    | some t =>
      modPolder p (fun x => { x with teardown := some { t with waiters := t.waiters ++ waiters, forced := t.forced || forced } }) s
    | none =>
      let t : Teardown := { start := s.time, drained := false, squashed := 0, forced := forced, waiters := waiters }
      resume (squashPolder p (modPolder p (fun x => { x with teardown := some t, freeze := .none }) s))

/-! ### Steps 3 and 4 -/

/-- How many items of a polder are still outstanding. -/
def outstanding (p : PolderId) (s : State) : Nat :=
  (s.fau.unacked.filter fun u => u.rel.polder = p).length
    + (s.fau.memWait.filter fun w => w.rel.polder = p).length
    + (s.link.inbox.filter fun r => r.polder = p).length
    + ((s.obj.queues.filter fun q => contextPolder s q.context = p).foldl (fun a q => a + q.started.length) 0)
    + (s.tray.extents.filter fun e => e.polder = p && (match e.rekey with | some r => r.copying | none => false)).length

/-- The admitted requests of a polder that are still outstanding end with ST_SQUASHED for their requesters (R450): what
has not yet been performed is not performed. -/
def squashRequests (p : PolderId) (s : State) : State :=
  let mine := ((s.fau.unacked.map (·.rel)) ++ (s.fau.memWait.map (·.rel)) ++ s.link.inbox).filter fun r => r.polder = p
  let s := { s with
    fau := { s.fau with
      unacked := s.fau.unacked.filter fun u => u.rel.polder ≠ p
      memWait := s.fau.memWait.filter fun w => w.rel.polder ≠ p }
    link := { s.link with inbox := s.link.inbox.filter fun r => r.polder ≠ p } }
  mine.foldl (fun t r => sendCompletion r .squashed 0 [] t) s

/-- End whatever is still outstanding (R450). -/
def squashRest (p : PolderId) (s : State) : State :=
  let s := (s.obj.queues.filter fun q => contextPolder s q.context = p).foldl (fun t q =>
    q.started.foldl (fun u d => endDescriptor q.id d.index .squashed 0 0 u) t) s
  let s := (s.tray.extents.filter fun e => e.polder = p).foldl (fun t e =>
    match e.rekey with
    | some r => finishAll r.waiters .squashed (modExtent e.id (fun x => { x with rekey := none }) (reclaimLocation r.location t))
    | none => t) s
  squashRequests p s

/-- The streams and what waits on them; the packets that still wait unreleased fail check 11 (R74). -/
def dropStreams (p : PolderId) (s : State) : State :=
  let s := dropUnreleased p s
  { s with link := { s.link with
      tx := s.link.tx.filter fun t => t.polder ≠ p
      rx := s.link.rx.filter fun r => r.polder ≠ p
      nextSid := s.link.nextSid.filter fun x => x.1.1 ≠ p
      joins := s.link.joins.filter fun j => j.polder ≠ p
      txWait := s.link.txWait.filter fun k => k.polder ≠ p
      newFails := s.link.newFails.filter fun x => refPolder x.1 ≠ p
      cached := s.link.cached.filter fun c => refPolder c.1 ≠ p } }

/-- The FAU's records of a polder. -/
def dropRecords (p : PolderId) (s : State) : State :=
  { s with fau := { s.fau with
      spaces := s.fau.spaces.filter fun x => x.polder ≠ p
      records := s.fau.records.filter fun x => x.polder ≠ p
      answers := s.fau.answers.filter fun x => x.polder ≠ p
      replays := s.fau.replays.filter fun x => x.polder ≠ p } }

/-- The plots of a polder are invalidated, and releases and fills of them end (R101, R102). -/
def dropPlots (p : PolderId) (slot : BitVec 12) (s : State) : State :=
  let mine := (s.stack.spm.filter fun e => plotValid e.2 && plotSlot e.2 = slot && !plotReserved e.2).map (·.1)
  let waiters := (s.stack.releases.filter fun r => mine.contains r.1).flatMap (·.2)
  let s := { s with stack := { s.stack with
    fills := s.stack.fills.filter fun f => f.polder ≠ p, releases := s.stack.releases.filter fun r => !mine.contains r.1 } }
  finishAll waiters .ok (mine.foldl (fun t n => dropPlot n (setPlot n 0 t)) s)

/-- The regions of a polder are withdrawn. In role T an extent that enters REVOKED keeps its entry, with its key (R203). -/
def dropRegions (p : PolderId) (s : State) : State :=
  if hasTray s then s
  else (s.fau.regions.filter fun g => g.polder = p).foldl (fun t g => finishAll g.waiters .ok (removeRegion g t)) s

/-- The memory objects of a polder are FREE. -/
def dropMemobjs (p : PolderId) (s : State) : State :=
  let mine := s.obj.memobjs.filter fun m => m.polder = p
  mine.foldl (fun t m => finishAll m.waiters .ok t)
    (modObj (fun o => { o with memobjs := o.memobjs.filter fun m => m.polder ≠ p }) s)

/-- The extents of a polder are reclaimed and enter REVOKED (R203, R449). -/
def dropExtents (p : PolderId) (s : State) : State :=
  (s.tray.extents.filter fun e => e.polder = p && e.state = .revoking).foldl (fun t e =>
    let clear := fun (x : Extent) => { x with state := ExtState.revoked, key := none, roots := [], revoking := [] }
    finishAll e.revoking .ok (modExtent e.id clear (reclaimLocation e.location t))) s

/-- Rings, groups, barriers' outcomes and stragglers of a polder. -/
def dropGroups (p : PolderId) (s : State) : State :=
  let rings := (s.rings.rings.filter fun r => r.polder = p).map (·.id)
  let s := (s.rings.rings.filter fun r => r.polder = p).foldl (fun t r =>
    dropRing r (match r.destroying with | some l => finishAll l .ok t | none => t)) s
  let s := modRings (fun x => { x with directory := x.directory.filter fun e => !rings.contains e.ring }) s
  let gone := s.coll.groups.filter fun g => g.polder = p
  let s := modColl (fun c => { c with
    groups := c.groups.filter fun g => g.polder ≠ p, stragglers := c.stragglers.filter fun x => x.1.1 ≠ p }) s
  gone.foldl (fun t g => finishAll g.destroy .ok t)
    (modBars (fun b => { b with released := b.released.filter fun e => e.polder ≠ p }) s)

/-- The key slot of a polder is zeroized, its handle invalidated and its deeds deleted (R298, R307). -/
def dropKeys (q : Polder) (s : State) : State :=
  let s := match slotOf s q.id with | some k => zeroizeSlot k .free s | none => s
  let s := invalidateHandle q.handle s
  retryLoads { s with cad := { s.cad with deeds := s.cad.deeds.filter fun d => d.polder ≠ q.id } }

/-- Step 4 of a teardown (R449). -/
def removePolderState (q : Polder) (s : State) : State :=
  let p := q.id
  let s := (s.obj.contexts.filter fun c => c.polder = p).foldl (fun t c => freeContext c.id t) s
  let s := dropMemobjs p (dropRegions p (dropPlots p q.slot s))
  let s := dropExtents p (dropGroups p (dropRecords p (dropStreams p s)))
  let s := modPolder p (fun x => { x with members := 0 }) (dropKeys q s)
  let s := { s with
    pool := s.pool.filter fun x => match x.1 with | .chart r => r ≠ p | .spill r _ => r ≠ p | _ => true }
  closeEntry p 0x02 s

/-- Steps 3 and 4: the rest is squashed, with a record when it ended anything (R449, R450). -/
def drainPolder (q : Polder) (t : Teardown) (s : State) : State :=
  let n := outstanding q.id s
  let s := squashRest q.id s
  let s := if n = 0 then s
    else writeFault .teardownForced { unit := 0x0C00, status := statusCode .squashed, polder := q.id, count := n } s
  modPolder q.id (fun x => { x with teardown := some { t with drained := true, squashed := n } }) (removePolderState q s)

/-- TEARDOWN_DRAINED (R449): step 2 has drained, or 10 ms have passed, or the teardown is forced. -/
def execTeardownDrained (polder : PolderId) (s : State) : Host.Outcome State Fault Refusal :=
  .next <|
    match findPolder s polder with
    | none => s
    | some q =>
      match q.teardown with
      | none => s
      | some t =>
        if t.drained || !(t.forced || outstanding polder s = 0 || t.start + 10000000 ≤ s.time) then s
        else drainPolder q t s

/-- Step 5: the polder is no longer defined and the waiting commands end (R449). Packets that have come since step 4
fail check 11, as until now (R74); what waited for the memory that step 4 freed goes on. -/
def completeTeardown (q : Polder) (t : Teardown) (s : State) : State :=
  let s := dropUnreleased q.id s
  resume (finishAll t.waiters .ok { s with polders := s.polders.filter fun x => x.id ≠ q.id })

/-- TEARDOWN_COMPLETE (R449). -/
def execTeardownComplete (polder : PolderId) (s : State) : Host.Outcome State Fault Refusal :=
  .next <|
    match findPolder s polder with
    | none => s
    | some q =>
      match q.teardown with
      | none => s
      | some t => if t.drained then completeTeardown q t s else s

/-! ### POLDER_TEARDOWN and RESET of scope 2 -/

/-- Whether a tenant may name a polder, and whether the fabric manager or an operator may. -/
def polderDenied (o : Origin) (p : PolderId) (s : State) : Bool := !mayNamePolder o p s

/-- POLDER_TEARDOWN (R448, R449, R359). -/
def polderTeardownCmd (bad : Bool) (o : Origin) (tag : BitVec 32) (polder : PolderId) (s : State) : State :=
  let ci : CmdInfo := { opcode := 0x0103, pf := true, vf := true, sbp := true, sbt := true, fm := true }
  runCmd ci o tag (polderDenied o polder s) bad (fun s => firstFail [((findPolder s polder).isNone, .badParam)])
    (fun s => beginTeardown polder false [(o, tag)] (pend o tag ci.opcode s)) s

/-- POLDER_TEARDOWN. -/
def execPolderTeardown (o : Origin) (tag : BitVec 32) (polder : PolderId) (s : State) :
    Host.Outcome State Fault Refusal := .next (polderTeardownCmd false o tag polder s)

/-- RESET of scope 2: a teardown (R444). -/
def resetPolderCmd (bad : Bool) (o : Origin) (tag : BitVec 32) (polder : PolderId) (s : State) : State :=
  let ci : CmdInfo := { opcode := 0x0E02, pf := true, vf := true, sbp := true, fm := true }
  runCmd ci o tag (polderDenied o polder s) bad (fun s => firstFail [((findPolder s polder).isNone, .badParam)])
    (fun s => beginTeardown polder false [(o, tag)] (pend o tag ci.opcode s)) s

/-- RESET of scope 2. -/
def execResetPolder (o : Origin) (tag : BitVec 32) (polder : PolderId) (s : State) :
    Host.Outcome State Fault Refusal := .next (resetPolderCmd false o tag polder s)

/-! ### Leaving service (R445 to R447) -/

/-- The instance leaves service (R446). -/
def leaveService (s : State) : State :=
  let s := writeFault .outOfService
    { unit := 0x0C00, count := s.sb.events.length, detail := (lastN 3 s.sb.events).map (·.2) } s
  let s := s.polders.foldl (fun t p => beginTeardown p.id true [] t) s
  { s with sb := { s.sb with outOfService := true, leaving := false } }

/-- Whether the instance must leave service as it reaches READY (R445, R446). -/
def mustLeave (s : State) : Bool := s.sb.leaving || s.sb.outOfService

/-- The first record of the boot is mirrored once READY is reached (R435, R444). -/
def mirrorBoot (s : State) : State :=
  match s.tracer.faults.find? fun r => r.code = 0x0805 with
  | none => s
  | some r => postEvent 0 0 (faultMirror r s) s

/-- READY (R327, R331, R446): the firmware-written registers and the survey's measurements are locked. An instance that
was out of service, or whose counted events call for it, leaves service again at once. -/
def execReady (s : State) : Host.Outcome State Fault Refusal :=
  .next <|
    if !running s || s.boot.stage ≠ .firmwareInit then s
    else
      let s := enterStage .ready (modBoot (fun b => { b with reason := 0, rlLocked := true, surveyLocked := true }) s)
      let s := mirrorBoot (announceBoot s)
      if mustLeave s then leaveService s else s

end Sys2Proof.Machine
end

