-- ==== Sys2Proof/Machine/Functions.lean ====
section
/-! DEFINITION. Virtual functions: their states, the function reset sequence, the dirty log, doorbells, event rings' heads,
descriptor fetch and the host path (R392 to R405, R511 to R514). -/

namespace Sys2Proof.Machine

/-- Whether a VF is one that this instance presents (R392). -/
def vfPresent (s : State) (n : VfId) : Bool := running s && s.boot.role = .e && n.toNat < s.chip.vfs

/-- Whether a function is one that this instance presents. -/
def fnPresent (s : State) (fn : FnId) : Bool :=
  running s && match vfOf fn with | some n => vfPresent s n | none => true

/-- Whether a function's window takes accesses: a disabled VF's takes none (R501). -/
def windowOpen (s : State) (fn : FnId) : Bool :=
  fnPresent s fn && match vfOf fn with | some n => (getVf s n).enabled | none => true

/-! ### The function reset sequence (R398) -/

/-- The contexts of a function. -/
def fnContexts (fn : FnId) (s : State) : List Context := s.obj.contexts.filter fun c => c.fn = fn

/-- The SPDM state of a sluice goes (R341). -/
def dropSpdm (sl : Sluice) (s : State) : State :=
  { s with spdm := { s.spdm with
      negotiated := s.spdm.negotiated.filter (· ≠ sl)
      sessions := s.spdm.sessions.filter fun x => x.sluice ≠ sl
      offers := s.spdm.offers.filter fun x => x.sluice ≠ sl
      lastSigned := s.spdm.lastSigned.filter fun x => x.1 ≠ sl
      chunksIn := s.spdm.chunksIn.filter fun x => x.1.1 ≠ sl
      chunksOut := s.spdm.chunksOut.filter fun x => x.1.1 ≠ sl } }

/-- The charts that a VF's commands have in progress end: nothing more of them is written, and a polder that an export
froze leaves the freeze (R361, R399, R420). -/
def endFnCharts (n : VfId) (s : State) : State :=
  let s := (s.charts.exports.filter fun e => e.origin.sluice = .vf n).foldl (fun t e =>
    if e.frozen.isSome then thawChart e.polder (endExport e.polder .squashed [] t) else endExport e.polder .squashed [] t) s
  (s.charts.imports.filter fun m => m.origin.sluice = .vf n).foldl (fun t m => endImport m.polder .squashed t) s

/-- Start the function reset sequence of a VF, or join the one that runs (R361, R398 step 1); its mailbox is zeroed
(R501). The pending commands and the descriptors that end with ST_SQUASHED are counted. -/
def startFnReset (n : VfId) (waiters : List (Origin × BitVec 32)) (s : State) : State :=
  match (getVf s n).reset with
  | some r => modVf n (fun v => { v with reset := some { r with waiters := r.waiters ++ waiters } }) s
  | none =>
    let qs := s.obj.queues.filter fun q => q.fn = fnOf n
    let r : FnReset :=
      { start := s.time, drained := false, waiters := waiters
        squashed := qs.foldl (fun a q => a + unstartedOf q) ((pendingOn (.vf n) s).filter fun c => c.final.isNone).length }
    let s := endFnCharts n (modVf n (fun v => { v with reset := some r }) s)
    let s := { s with fns := { s.fns with
      pendings := s.fns.pendings.filter fun c => c.origin.sluice ≠ .vf n
      mailboxes := s.fns.mailboxes.filter fun m => m.fn ≠ fnOf n } }
    qs.foldl (fun t q => squashQueue q.id t) (dropSpdm (.vf n) s)

/-- How many items of a function are still outstanding (R398 step 2). -/
def fnOutstanding (fn : FnId) (s : State) : Nat :=
  let mine := fun (c : CtxId) => (fnContexts fn s).any fun x => x.id = c
  (s.fau.ops.filter fun o => mine o.req.context && o.fence.isNone).length
    + (s.fau.fences.filter fun f => mine f.context).length
    + (s.fau.waiting.filter fun x => mine x.req.context).length
    + (s.coll.participants.filter fun c => mine c.context).length
    + (s.bars.arrivals.filter fun a => mine a.context).length
    + (s.obj.queues.filter fun q => q.fn = fn).foldl (fun a q => a + q.started.length) 0

/-- The host writes of a function that are in flight. -/
def writesInFlight (fn : FnId) (s : State) : Bool := s.obj.rings.any fun r => r.fn = fn && r.inFlight ≠ 0

/-- The polders bound to a VF. -/
def boundTo (n : VfId) (s : State) : List Polder := s.polders.filter fun p => p.bound = .vf n

/-- End every started descriptor of a function's queues. -/
def squashStarted (fn : FnId) (s : State) : State :=
  (s.obj.queues.filter fun q => q.fn = fn).foldl (fun t q =>
    q.started.foldl (fun u d => endDescriptor q.id d.index .squashed 0 0 u) t) s

/-- Destroy the host objects of a function that no polder's teardown destroys (R374, R398 step 4). -/
def dropFnObjects (fn : FnId) (s : State) : State :=
  let s := (fnContexts fn s).foldl (fun t c => beginDestroy c.id [] t) s
  let s := (s.obj.fences.filter fun f => f.fn = fn).foldl (fun t f => abandonFence f.id t) s
  let s := squashStarted fn s
  let s := (fnContexts fn s).foldl (fun t c => freeContext c.id t) s
  let rs := s.obj.rings.filter fun r => r.fn = fn
  let s := rs.foldl (fun t r => finishAll r.waiters .ok t) s
  modObj (fun o => { o with
    queues := o.queues.filter fun q => q.fn ≠ fn, rings := o.rings.filter fun r => r.fn ≠ fn
    early := o.early.filter fun x => x.1 ≠ fn
    memobjs := alter (fun m => m.fn = fn) (fun m => { m with doomed := true }) o.memobjs }) s

/-- Steps 3 and 4 of the sequence (R398). -/
def drainFn (n : VfId) (r : FnReset) (s : State) : State :=
  let fn := fnOf n
  let k := fnOutstanding fn s
  let s := (fnContexts fn s).foldl (fun t c => squashWork c.id t) s
  let s := squashStarted fn s
  let s := (boundTo n s).foldl (fun t p => beginTeardown p.id false [] t) s
  let s := dropFnObjects fn s
  modVf n (fun v => { v with
    forced := decide (k ≠ 0), squashed := BitVec.ofNat 16 (min (r.squashed + k) 65535)
    reset := some { r with drained := true, squashed := r.squashed + k } }) s

/-- FUNCTION_RESET_DRAINED (R398): the work has drained, or 10 ms have passed. -/
def execFunctionResetDrained (vf : VfId) (s : State) : Host.Outcome State Fault Refusal :=
  .next <|
    match (getVf s vf).reset with
    | none => s
    | some r =>
      let idle : Bool := fnOutstanding (fnOf vf) s = 0 && !writesInFlight (fnOf vf) s
      if r.drained || !(idle || r.start + 10000000 ≤ s.time) then s else resume (drainFn vf r s)

/-- Step 5 of the sequence: CONFIG_UNLOCKED, and completion is signalled (R398). -/
def completeFnReset (n : VfId) (r : FnReset) (s : State) : State :=
  finishAll r.waiters .ok
    (emit (.functionResetDone n) (modVf n (fun v => { v with state := .unlocked, reset := none }) s))

/-- FUNCTION_RESET_DONE (R398): the teardowns and destructions are complete. -/
def execFunctionResetDone (vf : VfId) (s : State) : Host.Outcome State Fault Refusal :=
  .next <|
    match (getVf s vf).reset with
    | none => s
    | some r => if r.drained && (boundTo vf s).isEmpty then completeFnReset vf r s else s

/-- FUNC_EN (R392, R395). -/
def execFuncEn (vf : VfId) (enable : Bool) (s : State) : Host.Outcome State Fault Refusal :=
  .next <|
    if !vfPresent s vf || (getVf s vf).enabled == enable then s
    else
      let s := modVf vf (fun v => { v with enabled := enable }) s
      if enable then s else startFnReset vf [] s

/-- FLR_REQ (R395, R398). -/
def execFlrReq (vf : VfId) (s : State) : Host.Outcome State Fault Refusal :=
  .next <| if vfPresent s vf then startFnReset vf [] s else s

/-- RESET of scope 3 (R398, R444). -/
def resetVfCmd (bad : Bool) (o : Origin) (tag : BitVec 32) (vf : BitVec 16) (s : State) : State :=
  let ci : CmdInfo := { opcode := 0x0E02, pf := true, sbp := true }
  let own := fun (s : State) => firstFail [(s.boot.role ≠ .e || decide (s.chip.vfs ≤ vf.toNat) || decide (64 ≤ vf.toNat), .badParam)]
  runCmd ci o tag false bad own (fun s => startFnReset (vf.setWidth 6) [(o, tag)] (pend o tag ci.opcode s)) s

/-- RESET of scope 3. -/
def execResetVf (o : Origin) (tag : BitVec 32) (vf : BitVec 16) (s : State) : Host.Outcome State Fault Refusal :=
  .next (resetVfCmd false o tag vf s)

/-! ### Function states (R395) -/

/-- A state_req that the present state does not allow. -/
def badReq (n : VfId) (s : State) : State := modVf n (fun v => { v with badReq := true }) s

/-- A VF enters ERROR with its cause. -/
def vfError (n : VfId) (cause : BitVec 4) (s : State) : State := modVf n (fun v => { v with state := .error, cause := cause }) s

/-- STATE_REQ_LOCK (R395). -/
def reqLock (vf : VfId) (s : State) : State :=
  if !vfPresent s vf then s
  else if (getVf s vf).state = .unlocked then modVf vf (fun v => { v with state := .locked }) s
  else badReq vf s

/-- STATE_REQ_LOCK. -/
def execStateReqLock (vf : VfId) (s : State) : Host.Outcome State Fault Refusal := .next (reqLock vf s)

/-- STATE_REQ_RUN (R395). -/
def reqRun (vf : VfId) (s : State) : State :=
  if !vfPresent s vf then s
  else if (getVf s vf).state = .locked then modVf vf (fun v => { v with state := .run }) s
  else badReq vf s

/-- STATE_REQ_RUN. -/
def execStateReqRun (vf : VfId) (s : State) : Host.Outcome State Fault Refusal := .next (reqRun vf s)

/-- STATE_REQ_UNLOCK (R395). -/
def reqUnlock (vf : VfId) (s : State) : State :=
  if !vfPresent s vf then s
  else if (getVf s vf).state = .unlocked then badReq vf s
  else startFnReset vf [] s

/-- STATE_REQ_UNLOCK. -/
def execStateReqUnlock (vf : VfId) (s : State) : Host.Outcome State Fault Refusal := .next (reqUnlock vf s)

/-- A field of an allotment register: kept when the value is out of range (R499). -/
def rangedField (old new : BitVec 32) (start len limit : Nat) : Nat :=
  let v := (new.extractLsb' start len).toNat
  (if v ≤ limit then v else (old.extractLsb' start len).toNat) * 2 ^ start

/-- An allotment register after a write in CONFIG_UNLOCKED (R393, R499). -/
def allotValue (second : Bool) (old new : BitVec 32) : BitVec 32 :=
  if second then BitVec.ofNat 32 ((new.extractLsb' 0 16).toNat + rangedField old new 16 15 16384)
  else BitVec.ofNat 32 (rangedField old new 0 13 4096 + rangedField old new 13 9 256 + rangedField old new 22 10 512)

/-- ALLOT_WRITE (R393, R395). -/
def writeAllot (vf : VfId) (second : Bool) (value : BitVec 32) (s : State) : State :=
  if !vfPresent s vf then s
  else
    match (getVf s vf).state with
    | .unlocked =>
      modVf vf (fun v => if second then { v with allot1 := allotValue true v.allot1 value }
        else { v with allot0 := allotValue false v.allot0 value }) s
    | .error => s
    | _ => vfError vf 1 s

/-- ALLOT_WRITE. -/
def execAllotWrite (vf : VfId) (second : Bool) (value : BitVec 32) (s : State) :
    Host.Outcome State Fault Refusal := .next (writeAllot vf second value s)

/-! ### The dirty log (R401 to R404) -/

/-- DIRTY_ENABLE (R401, R404). -/
def setDirty (vf : VfId) (enable : Bool) (s : State) : State :=
  if !vfPresent s vf then s
  else if enable then modVf vf (fun v => { v with dirtyEnable := decide (v.pages ≠ 0) || v.dirtyEnable }) s
  else
    let v := getVf s vf
    modVf vf (fun x => { x with dirtyEnable := false })
      (writeBackDirty vf (!v.activeBuf) (writeBackDirty vf v.activeBuf s))

/-- DIRTY_ENABLE. -/
def execDirtyEnable (vf : VfId) (enable : Bool) (s : State) :
    Host.Outcome State Fault Refusal := .next (setDirty vf enable s)

/-- A swap is complete: the active buffer changes and swap reads 0 (R404 steps 2 and 3). -/
def completeSwap (n : VfId) (s : State) : State :=
  modVf n (fun v => { v with activeBuf := !v.activeBuf, swapping := false }) s

/-- SWAP (R404): the cached lines of the active buffer are written back; with none the swap completes at once. -/
def setSwap (vf : VfId) (s : State) : State :=
  let v := getVf s vf
  if !vfPresent s vf || v.swapping then s
  else
    let s' := modVf vf (fun v => { v with swapping := true }) (writeBackDirty vf v.activeBuf s)
    if s.fns.dirty.any fun l => l.vf = vf && l.buf = v.activeBuf then s' else completeSwap vf s'

/-- SWAP. -/
def execSwap (vf : VfId) (s : State) : Host.Outcome State Fault Refusal := .next (setSwap vf s)

/-! ### The host path (R368, R395, R516) -/

/-- A write of an event record has ended: the ring counts one less in flight. -/
def recordDone (fn : FnId) (ring : BitVec 9) (s : State) : State :=
  settleRing fn ring (modRing fn ring (fun r => { r with inFlight := r.inFlight - 1 }) s)

/-- HOST_PATH_FAILURE (R395): a VF in RUN goes to ERROR. -/
def execHostPathFailure (fn : FnId) (what : HostFailure) (s : State) : Host.Outcome State Fault Refusal :=
  .next <|
    if !fnPresent s fn then s
    else
      let s := match what with | .write (some r) => recordDone fn r s | _ => s
      match vfOf fn with
      | none => s
      | some n =>
        if (getVf s n).state ≠ .run then s
        else vfError n (match what with | .dirtyLog => 3 | _ => 2) s

/-- HOST_REQUEST_COMPLETE (R374, R404, R516). -/
def execHostRequestComplete (what : HostDone) (s : State) : Host.Outcome State Fault Refusal :=
  .next <|
    match what with
    | .eventRecord fn ring => if running s then recordDone fn ring s else s
    | .dirtyLog vf => if (getVf s vf).swapping then completeSwap vf s else s
    | .chartBuffer _ => s

/-- Move a queue's head past the descriptor it names. -/
def advanceHead (q : BitVec 8) (s : State) : State :=
  passAhead q 1 (modQueue q (fun x => { x with head := BitVec.ofNat 12 ((x.head.toNat + 1) % max x.depth 1) }) s)

/-- A bad descriptor halts its queue: its completion carries ST_BAD_PARAM, and the record names it (R368). -/
def haltQueue (x : Queue) (ctag : BitVec 16) (s : State) : State :=
  let s := modQueue x.id (fun q => { q with state := .halted }) (advanceHead x.id s)
  let s := writeFault .queueHalted
    { unit := 0x1900, status := statusCode .badParam, polder := contextPolder s x.context, context := some x.context,
      detail := [x.id] ++ leBytes 2 x.head.toNat } s
  endUnstarted x x.head ctag .badParam s

/-- Start a descriptor that has been read (R367, R387, R405, R474); one that names another context, or anew a doomed memory
object (R372), ends ST_BAD_PARAM. -/
def startDescriptor (x : Queue) (d : Bytes) (s : State) : State :=
  let doomed := namesDoomed s x d
  let s := advanceHead x.id s
  let e : Started := { index := x.head, data := d, begun := false, done := 0 }
  if descContext d ≠ x.context || doomed then endUnstarted x x.head (descCtag d) .badParam s
  else
    let s := modQueue x.id (fun q => { q with started := q.started ++ [e] }) s
    profResetQueue x.id false
      (emitTrace 2 0x0201 0x0C00 (contextPolder s x.context) (some x.context) (descTrace x.id e .ok) s)

/-- DESCRIPTOR_FETCH (R367, R368, R387, R395, R405). -/
def execDescriptorFetch (queue : BitVec 8) (data : Option Bytes) (s : State) : Host.Outcome State Fault Refusal :=
  .next <|
    match findQueue s queue with
    | none => s
    | some x =>
      if !running s || !mayStart s x then s
      else
        match data with
        | none =>
          let s := haltQueue x ((fresh s).setWidth 16) (tookFree s)
          (match vfOf x.fn with
           | some n => if (getVf s n).state = .run then vfError n 2 s else s
           | none => s)
        | some d =>
          if d.length ≠ 64 || !descWellFormed d then haltQueue x (descCtag d) s
          else startDescriptor x d s

/-! ### Doorbells and event rings (R396, R511 to R514) -/

/-- Count an ignored write in a VF window (R396, R511, R513). -/
def countIgnored (fn : FnId) (s : State) : State := if fn = 0 then s else count 0x003 s

/-- QUEUE_DOORBELL (R396, R397, R511). -/
def writeTail (fn : FnId) (queue : BitVec 8) (value : BitVec 32) (s : State) : State :=
  if !windowOpen s fn then s
  else
    match findQueue s queue with
    | none => countIgnored fn s
    | some q =>
      let tail : BitVec 12 := value.extractLsb' 0 12
      if q.fn ≠ fn || !fnRuns s fn then countIgnored fn s
      else if q.depth ≤ tail.toNat || q.state = .destroying then s
      else modQueue queue (fun x => { x with tail := tail }) s

/-- QUEUE_DOORBELL. -/
def execQueueDoorbell (fn : FnId) (queue : BitVec 8) (value : BitVec 32) (s : State) :
    Host.Outcome State Fault Refusal := .next (writeTail fn queue value s)

/-- Whether a head write releases only slots that the block has written (R513). -/
def headFits (r : EventRing) (head : BitVec 16) : Bool :=
  head.toNat < r.size
    && decide ((head.toNat + r.size - r.head) % r.size ≤ (r.tail + r.size - r.head) % r.size)

/-- EVENT_RING_HEAD (R513). -/
def writeHead (fn : FnId) (ring : BitVec 9) (head : BitVec 16) (s : State) : State :=
  if !windowOpen s fn then s
  else
    match findRing s fn ring with
    | none => countIgnored fn s
    | some r => if headFits r head then modRing fn ring (fun x => { x with head := head.toNat }) s else countIgnored fn s

/-- EVENT_RING_HEAD. -/
def execEventRingHead (fn : FnId) (ring : BitVec 9) (head : BitVec 16) (s : State) :
    Host.Outcome State Fault Refusal := .next (writeHead fn ring head s)

/-- EVENT_RING_SPACE_RETURN (R370): the marker and the waiting records are written as far as there is space. -/
def execEventRingSpaceReturn (fn : FnId) (ring : BitVec 9) (s : State) : Host.Outcome State Fault Refusal :=
  .next <|
    match findRing s fn ring with
    | none => s
    | some r => if !running s || fnResetting s fn then s else flushRing fn ring (r.waiting.length + 1) s

/-- ARM (R514): with records already unconsumed the interrupt is sent at once. -/
def setArm (fn : FnId) (ring : BitVec 9) (s : State) : State :=
  if !windowOpen s fn then s
  else
    match findRing s fn ring with
    | none => s
    | some r =>
      if r.tail ≠ r.head then emit (.interrupt fn r.vector) (modRing fn ring (fun x => { x with armed := false }) s)
      else modRing fn ring (fun x => { x with armed := true }) s

/-- ARM. -/
def execArm (fn : FnId) (ring : BitVec 9) (s : State) : Host.Outcome State Fault Refusal := .next (setArm fn ring s)

end Sys2Proof.Machine
end

