-- ==== Sys2Proof/Machine/Hangs.lean ====
section
/-! DEFINITION. Engine hangs and their replay, the reset scopes, Floodwatch, and what is read of faults, units and
stragglers (R434 to R447, R453 to R457). -/

namespace Sys2Proof.Machine

/-! ### Hangs (R439, R440) -/

/-- Whether a unit has an engine watchdog (R439). -/
def watched (s : State) (unit : BitVec 16) : Bool :=
  let kind := unit.toNat / 256
  if kind = 9 then s.boot.role = .e && unit.toNat % 256 = 0
  else 1 ≤ kind && kind ≤ 8 && match unitDomain s unit with | some d => domainExists s d | none => false

/-- Whether an engine holds work (R439). -/
def engineHolds (s : State) (unit : BitVec 16) : Bool :=
  !(engineWork s unit).isEmpty || match unitDomain s unit with | some d => domainBusy s d && !domainHeld s d | none => false

/-- When an engine last ended a unit of work or was given work (R439). -/
def engineAt (s : State) (unit : BitVec 16) : Nat :=
  match unitDomain s unit with
  | some d => assocGet d 0 s.power.lastWork
  | none => s.obj.copiedAt

/-- The watchdog period of an engine kind, in ns (R439, R504). -/
def watchdogPeriod (s : State) (unit : BitVec 16) : Nat := assocGet (unit.toNat / 256) 20 s.regs.watchdogMs * 1000000

/-- The hang procedure up to the first suspect: the record, the sample where one is taken and the buffer is free, and the
reset of the domain (R439, R441). -/
def beginHang (unit : BitVec 16) (sampled : Bool) (waiters : List (Origin × BitVec 32)) (s : State) : State :=
  let suspects := suspectsOf s unit
  let take := sampled && sampleFree s
  let number := if take then s.tracer.nextSample else BitVec.allOnes 32
  let seq := s.tracer.nextSeq
  let s := writeFault .engineHang { unit := unit, count := suspects.length, detail := leBytes 4 number.toNat } s
  let s := if take then takeSample unit seq s else s
  let h : Hang := { unit := unit, current := none, suspects := suspects, units := [], start := s.time, waiters := waiters }
  advanceHang unit (resetEngine unit (modTracer (fun t => { t with hangs := t.hangs ++ [h] }) s))

/-- The watchdog fires during a suspect's replay: the engine is reset again, the context's work in it ends and the context
is faulted (R440). -/
def faultSuspect (unit : BitVec 16) (c : CtxId) (s : State) : State :=
  let n := ((engineWork s unit).filter (· = c)).length
  let p := contextPolder s c
  let s := stopContext c (squashIn unit c (resetEngine unit s))
  let s := writeFault .contextFaulted
    { unit := unit, status := statusCode .squashed, polder := p, context := some c, count := n } s
  advanceHang unit (settleReset c s)

/-- ENGINE_WATCHDOG_EXPIRY (R439, R440, R445, R446). -/
def execEngineWatchdogExpiry (unit : BitVec 16) (s : State) : Host.Outcome State Fault Refusal :=
  .next <|
    if !running s || !watched s unit then s
    else
      match findHang s unit with
      | some h =>
        (match h.current with
         | some c => if h.start + watchdogPeriod s unit ≤ s.time then faultSuspect unit c s else s
         | none => s)
      | none =>
        if !engineHolds s unit || decide (s.time < engineAt s unit + watchdogPeriod s unit) then s
        else
          let s := countEvent Config.hangCause (beginHang unit true [] s)
          if s.sb.leaving && !s.sb.outOfService then leaveService s else s

/-- SUSPECT_CLEARED (R440): the suspect's units that were in progress at the reset have ended; while one has not, nothing is
cleared. -/
def execSuspectCleared (unit : BitVec 16) (s : State) : Host.Outcome State Fault Refusal :=
  .next <|
    match findHang s unit with
    | some h =>
      (match h.current with
       | some c => if suspectDone s h c then advanceHang unit s else s
       | none => s)
    | none => s

/-! ### Reset scopes (R444, R447) -/

/-- RESET of scope 0; one that finds the unit's hang procedure running joins it. -/
def resetEngineCmd (bad : Bool) (o : Origin) (tag : BitVec 32) (unit : BitVec 16) (s : State) : State :=
  let ci : CmdInfo := { opcode := 0x0E02, pf := true, sbp := true }
  let join := fun (h : Hang) => { h with waiters := h.waiters ++ [(o, tag)] }
  runCmd ci o tag false bad (fun s => firstFail [(!watched s unit, .badParam)]) (fun s =>
    let s := pend o tag ci.opcode s
    if (findHang s unit).isSome then
      resetEngine unit (modTracer (fun t => { t with hangs := alter (fun h => h.unit = unit) join t.hangs }) s)
    else beginHang unit false [(o, tag)] s) s

/-- RESET of scope 0. -/
def execResetEngine (o : Origin) (tag : BitVec 32) (unit : BitVec 16) (s : State) :
    Host.Outcome State Fault Refusal := .next (resetEngineCmd false o tag unit s)

/-- RESET of scope 1. -/
def resetContextCmd (bad : Bool) (o : Origin) (tag : BitVec 32) (context : BitVec 16) (s : State) : State :=
  let ci : CmdInfo := { opcode := 0x0E02, pf := true, vf := true, sbp := true, roles := [.e] }
  let c : CtxId := context.setWidth 12
  let denied := match (if context.toNat < 4096 then findContext s c else none) with
    | some x => !mayName o x.fn x.polder (o.sluice = .sb) s
    | none => false
  runCmd ci o tag denied bad (fun s => firstFail [(!contextLive context s, .badParam)])
    (fun s => resetContext c o tag (pend o tag ci.opcode s)) s

/-- RESET of scope 1. -/
def execResetContext (o : Origin) (tag : BitVec 32) (context : BitVec 16) (s : State) :
    Host.Outcome State Fault Refusal := .next (resetContextCmd false o tag context s)

/-- RESET of scope 4: a block reset with cause COMMANDED. -/
def resetBlockCmd (bad : Bool) (o : Origin) (tag : BitVec 32) (s : State) : State :=
  let ci : CmdInfo := { opcode := 0x0E02, pf := true, sbp := true }
  runCmdIn ci o tag false bad true noCheck (fun s => blockReset 6 (pend o tag ci.opcode s)) s

/-- RESET of scope 4. -/
def execResetBlock (o : Origin) (tag : BitVec 32) (s : State) : Host.Outcome State Fault Refusal :=
  .next (resetBlockCmd false o tag s)

/-- SERVICE_RELEASE (R447). -/
def serviceReleaseCmd (bad : Bool) (o : Origin) (tag : BitVec 32) (s : State) : State :=
  let ci : CmdInfo := { opcode := 0x0E03, sbp := true }
  runCmd ci o tag false bad (fun s => firstFail [(!s.sb.outOfService, .badParam)]) (fun s =>
    blockReset 7 (reply o tag ci.opcode .ok [] { s with sb := { s.sb with events := [], outOfService := false, leaving := false } })) s

/-- SERVICE_RELEASE. -/
def execServiceRelease (o : Origin) (tag : BitVec 32) (s : State) : Host.Outcome State Fault Refusal :=
  .next (serviceReleaseCmd false o tag s)

/-! ### Floodwatch (R453 to R456) -/

/-- FLOODWATCH_CONFIG (R453). -/
def floodwatchConfigCmd (bad : Bool) (o : Origin) (tag : BitVec 32) (enable : BitVec 8) (s : State) : State :=
  let ci : CmdInfo := { opcode := 0x0E04, fm := true }
  runCmd ci o tag false bad (fun _ => firstFail [(decide (2 ≤ enable.toNat), .badParam)]) (fun s =>
    reply o tag ci.opcode .ok [] (modTracer (fun t => { t with floodwatch := decide (enable = 1) }) s)) s

/-- FLOODWATCH_CONFIG. -/
def execFloodwatchConfig (o : Origin) (tag : BitVec 32) (enable : BitVec 8) (s : State) :
    Host.Outcome State Fault Refusal := .next (floodwatchConfigCmd false o tag enable s)

/-- FLOODWATCH_STOP (R455, R456): ignored and counted while Floodwatch is off; else the polder is frozen, once. -/
def execFloodwatchStop (polder : PolderId) (originator : InstId) (s : State) : Host.Outcome State Fault Refusal :=
  .next <|
    if !running s then s
    else if !s.tracer.floodwatch then count 0x012 s
    else
      match findPolder s polder with
      | none => s
      | some q =>
        if q.freeze = .floodwatch then s
        else
          let s := if q.teardown.isSome then s else modPolder polder (fun x => { x with freeze := .floodwatch }) s
          writeFault .floodwatchStop
            { unit := 0x0C00, polder := polder, peer := some originator, detail := leBytes 2 originator.toNat } s

/-! ### Reading faults (R434 to R436) -/

/-- The 64 bytes of a fault record (R431). -/
def faultBytes (r : FaultRecord) : Bytes :=
  leBytes 8 r.seq.toNat ++ leBytes 8 r.datum.toNat ++ leBytes 2 r.code.toNat ++ leBytes 1 r.severity.toNat ++ [r.status]
    ++ leBytes 2 r.unit.toNat ++ leBytes 2 r.polder.toNat
    ++ leBytes 2 (match r.context with | some c => c.toNat + 32768 | none => 0)
    ++ leBytes 2 (match r.peer with | some i => i.toNat + 32768 | none => 0)
    ++ leBytes 4 r.count.toNat ++ padTo 32 r.detail

/-- A record as a sluice may see it: one of a confidential polder whole only in a tenant session of that polder (R435). -/
def shownRecord (o : Origin) (s : State) (r : FaultRecord) : FaultRecord :=
  let own := isTenant o && match findPolder s r.polder with | some q => tenantOf o q s | none => false
  if r.conf && !own then { r with context := none, count := 0, detail := [] } else r

/-- Whether a command may see a record: a tenant only those of its polders (R381). -/
def mayReadRecord (o : Origin) (s : State) (r : FaultRecord) : Bool :=
  !isTenant o || match findPolder s r.polder with | some q => tenantOf o q s | none => false

/-- FAULT_READ (R434 to R436): the ring, or on the side-band its copy. -/
def faultReadCmd (bad : Bool) (o : Origin) (tag : BitVec 32) (first : BitVec 32) (cnt : BitVec 16) (s : State) : State :=
  let ci : CmdInfo := { opcode := 0x0E01, pf := true, vf := true, sbp := true, fm := true }
  runCmd ci o tag false bad (fun _ => firstFail [(decide (cnt.toNat = 0 || 63 < cnt.toNat), .badParam)]) (fun s =>
    let held := if o.sluice = .sb then s.sb.faultCopy else s.tracer.faults
    let mine := (held.filter fun r => first.toNat ≤ r.seq.toNat && mayReadRecord o s r).take cnt.toNat
    reply o tag ci.opcode .ok (leBytes 8 s.tracer.overwritten.toNat ++ leBytes 2 mine.length ++ zeros 6
      ++ mine.flatMap fun r => faultBytes (shownRecord o s r)) s) s

/-- FAULT_READ. -/
def execFaultRead (o : Origin) (tag : BitVec 32) (first : BitVec 32) (cnt : BitVec 16) (s : State) :
    Host.Outcome State Fault Refusal := .next (faultReadCmd false o tag first cnt s)

/-! ### Crash dumps (R442, R443) -/

/-- Whether a unit number names a unit of this instance (R432); the units without a domain of their own are always on. -/
def unitExists (s : State) (unit : BitVec 16) : Bool :=
  match unitDomain s unit with
  | some d => domainExists s d
  | none => (unit = 0x0900 && s.boot.role = .e) || unit = 0x0D00 || unit = 0x1700 || unit = 0x1800

/-- The slot of a hang-sample unit. -/
def sampleUnit (unit : BitVec 16) : Bool := 0x8000 ≤ unit.toNat && unit.toNat ≤ 0x8003

/-- The stored bytes of a sample slot; none when the slot is empty. -/
def slotBytes (s : State) (unit : BitVec 16) : Bytes :=
  match s.tracer.samples.find? fun x => x.slot = unit.toNat - 0x8000 with
  | some x => sampleBytes x
  | none => []

/-- The event counters of a unit (R473). -/
def unitCounters (s : State) (unit : BitVec 16) : List (BitVec 63) :=
  let i := unit.toNat % 256
  let run := fun (first n : Nat) => (List.range n).map fun k => assocGet (first + k) (0 : BitVec 63) s.tracer.counters
  match unit.toNat / 256 with
  | 0x01 => run (sliceCounter s false (BitVec.ofNat 8 i)) 4
  | 0x02 => run (sliceCounter s true (BitVec.ofNat 8 i)) 4
  | 0x03 | 0x04 => run (0x1C0 + 8 * i) 8
  | _ => []

/-- The control state of a unit: the contexts and the numbers of its work in progress, when it last ended a unit, its
counters, and the errors that it has had recorded (R442). -/
def unitControl (s : State) (unit : BitVec 16) : Bytes :=
  (unitsIn s unit).flatMap (fun u => leBytes 2 u.1.toNat ++ leBytes 8 u.2) ++ leBytes 8 (engineAt s unit)
    ++ (unitCounters s unit).flatMap (fun v => leBytes 8 v.toNat)
    ++ leBytes 4 (s.tracer.faults.filter fun r => r.unit = unit).length

/-- The 4 KiB control-state image of a unit; no rule gives its layout (R442). -/
def unitImage (s : State) (unit : BitVec 16) : Bytes := (List.range 4096).map (Config.unitImage unit (unitControl s unit))

/-- What CRASH_DUMP_READ answers: held while the unit's clock is stopped or its domain gated, silent while it is being
reset, else the bytes of the range (R442, R443). -/
def dumpAnswer (s : State) (unit : BitVec 16) (offset len : Nat) : Byte × Bytes :=
  if sampleUnit unit then (0, slice (slotBytes s unit) offset len)
  else
    match unitDomain s unit with
    | some d =>
      if domainHeld s d then (1, [])
      else if culvertBusy s d then (2, [])
      else (0, slice (unitImage s unit) offset len)
    | none => (0, slice (unitImage s unit) offset len)

/-- CRASH_DUMP_READ (R442, R443). -/
def crashDumpReadCmd (bad : Bool) (o : Origin) (tag : BitVec 32) (unit : BitVec 16) (offset : BitVec 32) (len : BitVec 16)
    (s : State) : State :=
  let ci : CmdInfo := { opcode := 0x0E05, pf := true, sbp := true }
  let own := fun (s : State) => firstFail
    [(!sampleUnit unit && !unitExists s unit, .badParam), (decide (len.toNat = 0 || 4072 < len.toNat), .badParam)]
  runCmd ci o tag false bad own (fun s =>
    let a := dumpAnswer s unit offset.toNat len.toNat
    reply o tag ci.opcode .ok ([a.1] ++ zeros 7 ++ a.2) s) s

/-- CRASH_DUMP_READ. -/
def execCrashDumpRead (o : Origin) (tag : BitVec 32) (unit : BitVec 16) (offset : BitVec 32) (len : BitVec 16)
    (s : State) : Host.Outcome State Fault Refusal := .next (crashDumpReadCmd false o tag unit offset len s)

/-! ### Stragglers (R457) -/

/-- The lateness counters that a role keeps of an instance for a polder. -/
def stragglerOf (s : State) (p : PolderId) (inst : BitVec 16) : Option Straggler :=
  if 8192 ≤ inst.toNat then none
  else
    match s.boot.role with
    | .e => if inst.setWidth 13 = s.boot.instanceId then (findPolder s p).bind fun q => q.straggler else none
    | .s => s.coll.stragglers.lookup (p, inst.setWidth 13)
    | .t => none

/-- STRAGGLER_READ (R457). -/
def stragglerReadCmd (bad : Bool) (o : Origin) (tag : BitVec 32) (polder : PolderId) (inst : BitVec 16) (s : State) : State :=
  let ci : CmdInfo := { opcode := 0x0E06, pf := true, fm := true, roles := [.e, .s] }
  let own := fun (s : State) => firstFail [(isTearing s polder || (stragglerOf s polder inst).isNone, .badParam)]
  runCmd ci o tag false bad own (fun s =>
    let hide := isConfidential s polder && o.sluice = .pf
    let body := match stragglerOf s polder inst with
      | some x => leBytes 8 x.lastStep.toNat ++ leBytes 4 x.late.toNat ++ leBytes 4 x.worst.toNat
      | none => []
    reply o tag ci.opcode .ok (if hide then zeros 16 else body) s) s

/-- STRAGGLER_READ. -/
def execStragglerRead (o : Origin) (tag : BitVec 32) (polder : PolderId) (inst : BitVec 16) (s : State) :
    Host.Outcome State Fault Refusal := .next (stragglerReadCmd false o tag polder inst s)

end Sys2Proof.Machine
end

