-- ==== Sys2Proof/Machine/Polders.lean ====
section
/-! DEFINITION. Defining a polder, admitting members to it, listing polders, and pinning key slots (R13 to R20, R292, R302,
R343 to R345, groups 0x01 and 0x02 of R383). -/

namespace Sys2Proof.Machine

/-! ### Provisioning (R292, R343) -/

/-- The definition indexes in use (R32). -/
def slotTaken (s : State) (n : Nat) : Bool := s.polders.any fun p => p.slot.toNat = n

/-- The lowest free definition index. -/
def freeIndex (s : State) : Option Nat := leastBelow 4096 fun n => !slotTaken s n

/-- The counters of a polder before it has any (R535). -/
def noPolderCounters : PolderCounters :=
  { malformed := 0, streamFull := 0, unattributedFail := 0, membershipDrop := 0, goneDrop := 0, keyWaitDrop := 0,
    precisionLoss := 0 }

/-- A polder just defined: no member, not held (R17, R343). -/
def newPolder (id : PolderId) (conf : Bool) (slot : BitVec 12) (handle : BitVec 13) (bound : Sluice)
    (identity : Option Digest) : Polder :=
  { id := id, confidential := conf, slot := slot, handle := handle, bound := bound, identity := identity, members := 0,
    fatal := false, teardown := none, freeze := .none, exported := [], pinned := false,
    loadFailed := none, slotBad := false, counters := noPolderCounters, straggler := none }

/-- The deeds of a polder: the PMK's, and one for each working key of the role (R292 to R296). -/
def polderDeeds (s : State) (p : PolderId) (conf : Bool) (pmk : Key256) (handle : BitVec 13) : List Deed :=
  let gen := (pvtEntry s handle).generation
  let inst := s.boot.instanceId
  let top := deedHeader 1 conf false p 0 handle (pvtEntry s 0).generation gen inst
  let work := fun (kind : BitVec 8) =>
    makeDeed p kind (deedHeader kind conf false p handle 0 gen 0 inst) pmk (workingKey pmk p conf kind)
  makeDeed p 1 top s.cad.wrapKey (keyBytes pmk) :: ((roleKinds s.boot.role).filter (· ≠ 1)).map work

/-- The jobs that make a deed: the derivation of its wrapping key and the wrap, and for a working key the key's own derivation
(R293, R296, R308, R310). The parent of a PMK deed is the Device Wrap Key, that of the others the PMK. -/
def deedJobs (s : State) (p : PolderId) (pmk : Key256) (d : Deed) : List InlineJob :=
  if d.kind = 1 then deedKeying 1 1 (.device .wrap) s.cad.wrapKey
  else
    { cls := 1, mode := 1, aad := 0, text := 28, source := .slot p 1, key := pmk, label := ascii "BR2 POLDER WORK",
      blocks := if d.kind = 3 then 4 else 2 } :: deedKeying 1 d.kind (.slot p 1) pmk

/-- The job of the key-check value: a CMAC under the PMK (R308, R343). -/
def keyCheckJob (p : PolderId) (pmk : Key256) : InlineJob :=
  { cls := 1, mode := 0, aad := 0, text := 13, source := .slot p 1, key := pmk }

/-- The key-check value of a PMK (R343). -/
def keyCheck (pmk : Key256) : Bytes := (keyBytes (Config.cmac pmk (ascii "BR2 PMK CHECK"))).take 8

/-- Define a polder: its handle LIVE, its deeds written, bound to its sluice and identity, and the Gauge told (R292, R297,
R343, R488). -/
def definePolder (o : Origin) (p : PolderId) (conf : Bool) (pmk : Key256) (s : State) : State :=
  let slot : BitVec 12 := BitVec.ofNat 12 ((freeIndex s).getD 0)
  let handle := (freeHandle s).getD 0
  let identity := (sessionOf o s).bind fun x => if x.mutual_ then x.identity else none
  let deeds := polderDeeds s p conf pmk handle
  let s := setPvt { pvtEntry s handle with state := .live, polderSlot := slot } s
  let s := (inlineJobs (some p) (deeds.flatMap (deedJobs s p pmk) ++ [keyCheckJob p pmk])
    { s with cad := { s.cad with deeds := s.cad.deeds ++ deeds } }).2
  openEntry p conf { s with polders := s.polders ++ [newPolder p conf slot handle o.sluice identity] }

/-- Whether a command arrives where polders are provisioned: in role E on a VF's sluice, else on the side-band's (R343). -/
def provisionPlace (o : Origin) (s : State) : Bool :=
  match o.sluice with
  | .vf _ => s.boot.role = .e
  | .sb => s.boot.role ≠ .e
  | _ => false

/-- Whether the session is mutually authenticated. -/
def mutualSession (o : Origin) (s : State) : Bool := match sessionOf o s with | some x => x.mutual_ | none => false

/-- Check 1 of R343: a reserved byte is not zero, or a field has no meaning. -/
def provisionMalformed (bad : Bool) (p : PolderId) (conf : BitVec 8) : Bool :=
  bad || decide (p = 0 || p = 0xFFFF) || decide (2 ≤ conf.toNat)

/-- The checks of R343 in order; bad says that a reserved byte is not zero. -/
def provisionCheck (bad : Bool) (o : Origin) (p : PolderId) (conf : BitVec 8) (pmk : Key256) (s : State) : Option Status :=
  firstFail
    [(provisionMalformed bad p conf, .badParam),
     (!provisionPlace o s, .denied),
     (decide (conf = 1) && !mutualSession o s, .denied),
     ((findPolder s p).isSome, .badParam),
     ((freeIndex s).isNone || (freeHandle s).isNone || decide (freeEntries s < 64), .exhausted),
     (!s.cad.ladder, .lcForbids),
     (s.boot.role = .e && halvesEqual (workingKey pmk p (conf = 1) 3), .badParam)]

/-- POLDER_PROVISION (R343): the first of its own checks comes before its sluice is judged, as its table has it; the
others after the checks of R379. -/
def polderProvisionCmd (bad : Bool) (o : Origin) (tag : BitVec 32) (polder : PolderId) (confidential : BitVec 8)
    (pmk : Key256) (s : State) : State :=
  let ci : CmdInfo := { opcode := 0x0101, vf := true, sbt := true }
  if running s && (closedCheck ci o false s).isNone && provisionMalformed bad polder confidential then
    refuse o tag ci.opcode .badParam s
  else
  runCmd ci o tag false false (provisionCheck bad o polder confidential pmk) (fun s =>
    reply o tag ci.opcode .ok (keyCheck pmk) (definePolder o polder (confidential = 1) pmk s)) s

/-- POLDER_PROVISION. -/
def execPolderProvision (o : Origin) (tag : BitVec 32) (polder : PolderId) (confidential : BitVec 8) (pmk : Key256)
    (s : State) : Host.Outcome State Fault Refusal := .next (polderProvisionCmd false o tag polder confidential pmk s)

/-! ### Membership (R16, R17, R345, R537) -/

/-- Apply a membership change. An instance that is no longer admitted ends what waits to be sent (R17, R537). Groups,
collectives and barriers are left as they are: those that name a removed instance end on their watchdogs, and nothing is
tried again (R451). -/
def setMembers (p : PolderId) (members : BitVec 8192) (s : State) : State :=
  let s := modPolder p (fun q => { q with members := members }) s
  if members.getLsbD s.boot.instanceId.toNat then s
  else
    let mine := s.link.txWait.filter fun k => k.polder = p
    let s := { s with link := { s.link with txWait := s.link.txWait.filter fun k => k.polder ≠ p } }
    resume (mine.foldl (fun t k => endWaitingTx k .denied t) s)

/-- Whether a polder is defined and its teardown has not begun (R360). -/
def polderLive (s : State) (p : PolderId) : Bool :=
  match findPolder s p with
  | some q => q.teardown.isNone
  | none => false

/-- POLDER_MEMBERSHIP (R17, R284, R345). -/
def polderMembershipCmd (bad : Bool) (o : Origin) (tag : BitVec 32) (polder : PolderId) (mark : Datum)
    (members : BitVec 8192) (s : State) : State :=
  let ci : CmdInfo := { opcode := 0x0102, fm := true }
  let own := fun (s : State) => firstFail
    [(!polderLive s polder || decide (members = 0), .badParam),
     (markUse mark s = .refused .busy, .busy), (markUse mark s = .refused .badParam, .badParam)]
  runCmd ci o tag false bad own (fun s =>
    let s := if markUse mark s = .later then enqueueMark mark (.membership polder members) s
      else setMembers polder members (countLate mark s)
    reply o tag ci.opcode .ok [] s) s

/-- POLDER_MEMBERSHIP. -/
def execPolderMembership (o : Origin) (tag : BitVec 32) (polder : PolderId) (mark : Datum) (members : BitVec 8192)
    (s : State) : Host.Outcome State Fault Refusal := .next (polderMembershipCmd false o tag polder mark members s)

/-! ### Listing -/

/-- The state byte of a listed polder (R383). -/
def listState (s : State) (q : Polder) : Byte :=
  let low := if q.teardown.isSome then 2 else if isMember q s.boot.instanceId then 1 else 0
  BitVec.ofNat 8 (low + (if q.freeze = .none then 0 else 4) + (if q.fatal then 8 else 0))

/-- One entry of POLDER_LIST. -/
def listEntry (s : State) (q : Polder) : Bytes := leBytes 2 q.id.toNat ++ [confCode q.confidential, listState s q]

/-- Insert a polder into a list of rising IDs. -/
def insertPolder (q : Polder) : List Polder → List Polder
  | [] => [q]
  | x :: t => if q.id.toNat < x.id.toNat then q :: x :: t else x :: insertPolder q t

/-- The polders listed from an ID on, in increasing order. -/
def listedPolders (s : State) (first : PolderId) : List Polder :=
  ((s.polders.filter fun q => first.toNat ≤ q.id.toNat).foldl (fun l q => insertPolder q l) []).take 1019

/-- POLDER_LIST (R383). -/
def polderListCmd (bad : Bool) (o : Origin) (tag : BitVec 32) (first : PolderId) (s : State) : State :=
  let ci : CmdInfo := { opcode := 0x0104, pf := true, sbp := true }
  runCmd ci o tag false bad noCheck (fun s =>
    let l := listedPolders s first
    reply o tag ci.opcode .ok (leBytes 2 l.length ++ zeros 2 ++ l.flatMap (listEntry s)) s) s

/-- POLDER_LIST. -/
def execPolderList (o : Origin) (tag : BitVec 32) (first : PolderId) (s : State) : Host.Outcome State Fault Refusal :=
  .next (polderListCmd false o tag first s)

/-! ### Key slots (R301, R302) -/

/-- How many polders are pinned. -/
def pinnedCount (s : State) : Nat := (s.polders.filter fun q => q.pinned).length

/-- Pin or unpin a polder, and its slot where it has one (R302). -/
def setPinned (p : PolderId) (b : Bool) (s : State) : State :=
  let s := modPolder p (fun q => { q with pinned := b }) s
  match slotOf s p with
  | some k => if k.state = .evicting then s else writeSlot { k with pinned := b } s
  | none => s

/-- Whether a polder's slot is RESIDENT. -/
def isResident (s : State) (p : PolderId) : Bool := match slotOf s p with | some k => decide (k.state = .resident) | none => false

/-- The status that every use of a polder's keys ends with, if it has one (R301, R547). -/
def keyTrouble (s : State) (p : PolderId) : Option Status :=
  match findPolder s p with
  | some q => if q.slotBad then some .slotBad else q.loadFailed
  | none => none

/-- A command that pins waits for the load to end. -/
def waitForLoad (p : PolderId) (o : Origin) (tag : BitVec 32) (s : State) : State :=
  let s := beginLoad p 1 s
  let add := fun (l : SlotLoad) => { l with waiters := l.waiters ++ [(o, tag)] }
  { s with cad := { s.cad with loads := alter (fun l => l.polder = p) add s.cad.loads } }

/-- KEY_SLOT_PIN (R302): final when the polder is resident, else pending until its load ends. -/
def keySlotPinCmd (bad : Bool) (o : Origin) (tag : BitVec 32) (polder : PolderId) (s : State) : State :=
  let ci : CmdInfo := { opcode := 0x0201, pf := true, vf := true, sbt := true, ladder := true }
  let pinned := fun (s : State) => match findPolder s polder with | some q => q.pinned | none => false
  let own := fun (s : State) => firstFail
    [(!polderLive s polder, .badParam),
     ((keyTrouble s polder).isSome, (keyTrouble s polder).getD .ok),
     (!pinned s && decide (slotCount s.boot.role - 8 ≤ pinnedCount s), .noSlot),
     (!isResident s polder && noSlotAtAll s && (slotOf s polder).isNone, .noSlot)]
  runCmd ci o tag (polderDenied o polder s) bad own (fun s =>
    let s := setPinned polder true s
    if isResident s polder then reply o tag ci.opcode .ok [] s
    else waitForLoad polder o tag (pend o tag ci.opcode s)) s

/-- KEY_SLOT_PIN. -/
def execKeySlotPin (o : Origin) (tag : BitVec 32) (polder : PolderId) (s : State) : Host.Outcome State Fault Refusal :=
  .next (keySlotPinCmd false o tag polder s)

/-- KEY_SLOT_UNPIN (R302); loads that wait look for a victim again. -/
def keySlotUnpinCmd (bad : Bool) (o : Origin) (tag : BitVec 32) (polder : PolderId) (s : State) : State :=
  let ci : CmdInfo := { opcode := 0x0202, pf := true, vf := true, sbt := true, ladder := true }
  let pinned := fun (s : State) => match findPolder s polder with | some q => q.pinned && q.teardown.isNone | none => false
  runCmd ci o tag (polderDenied o polder s) bad (fun s => firstFail [(!pinned s, .badParam)])
    (fun s => resume (reply o tag ci.opcode .ok [] (setPinned polder false s))) s

/-- KEY_SLOT_UNPIN. -/
def execKeySlotUnpin (o : Origin) (tag : BitVec 32) (polder : PolderId) (s : State) : Host.Outcome State Fault Refusal :=
  .next (keySlotUnpinCmd false o tag polder s)

/-- The code of a slot state (R383). -/
def slotStateCode : SlotState → Byte
  | .free => 0 | .loading => 1 | .resident => 2 | .evicting => 3 | .bad => 4

/-- Whether a read names an object of another tenant: in a session, anything but what is of its own polders (R381). -/
def readDenied (o : Origin) (p : Option Polder) (s : State) : Bool :=
  isTenant o && match p with | some q => !tenantOf o q s | none => true

/-- KEY_SLOT_STATUS (R383). -/
def keySlotStatusCmd (bad : Bool) (o : Origin) (tag : BitVec 32) (slot : BitVec 8) (s : State) : State :=
  let ci : CmdInfo := { opcode := 0x0203, pf := true, vf := true, sbt := true }
  let k := getSlot s slot
  let denied := readDenied o (if k.state = .free || k.state = .bad then none else findPolder s k.polder) s
  runCmd ci o tag denied bad (fun s => firstFail [(decide (slotCount s.boot.role ≤ slot.toNat), .badParam)]) (fun s =>
    reply o tag ci.opcode .ok ([slotStateCode k.state, if k.pinned then 1 else 0, k.present, 0] ++ leBytes 2 k.polder.toNat
      ++ zeros 2) s) s

/-- KEY_SLOT_STATUS. -/
def execKeySlotStatus (o : Origin) (tag : BitVec 32) (slot : BitVec 8) (s : State) : Host.Outcome State Fault Refusal :=
  .next (keySlotStatusCmd false o tag slot s)

end Sys2Proof.Machine
end

