-- ==== Sys2Proof/Machine/Plots.lean ====
section
/-! DEFINITION. Plots and fabric regions of role E, and rings as commands form and end them (R82, R97 to R101, R137 to R142,
R185, R186, R195, R385, R539, R540, groups 0x03, 0x05 and part of 0x07 of R383). -/

namespace Sys2Proof.Machine

/-! ### Plots -/

/-- The polder that a plot is mapped to (R88). -/
def plotPolder (s : State) (plot : BitVec 16) : Option Polder :=
  let e := plotEntry s plot
  if plotValid e && !plotReserved e then s.polders.find? fun q => q.slot = plotSlot e else none

/-- The memory object that a plot belongs to (R371). -/
def plotMemobj (s : State) (plot : BitVec 16) : Option MemObj := s.obj.memobjs.find? fun m => m.plots.contains plot

/-- Whether a memory object takes new plots and regions: LIVE, of a polder not in teardown (R360, R372). -/
def memobjLive (memobj : BitVec 16) (s : State) : Bool :=
  match memobjOf memobj s with
  | some m => !m.doomed && polderLive s m.polder
  | none => false

/-- The polder of a memory object. -/
def memobjPolder (memobj : BitVec 16) (s : State) : Option Polder := (memobjOf memobj s).bind fun m => findPolder s m.polder

/-- Whether the polder of a definition index already has a plot at an offset base (R82). -/
def baseTaken (s : State) (slot : BitVec 12) (base : BitVec 24) : Bool :=
  s.stack.spm.any fun e => plotValid e.2 && !plotReserved e.2 && plotSlot e.2 = slot && plotBase e.2 = base

/-- Map a plot, and begin its fill (R97, R99, R100). -/
def assignPlot (m : MemObj) (q : Polder) (plot : BitVec 16) (base : BitVec 24) (writable fill : Bool) (cls : BitVec 4)
    (s : State) : State :=
  let s := setPlot plot (mkPlot q.slot base writable fill) s
  let s := modMemobj m.id (fun x => { x with plots := x.plots ++ [plot] }) s
  if fill then { s with stack := { s.stack with fills := s.stack.fills ++ [{ plot := plot, polder := q.id, cls := cls }] } }
  else s

/-- PLOT_ASSIGN (R82, R97 to R100, R371, R539). -/
def plotAssignCmd (bad : Bool) (o : Origin) (tag : BitVec 32) (memobj plot : BitVec 16) (base : BitVec 24)
    (writable zeroFill : Bool) (fillClass : BitVec 4) (s : State) : State :=
  let ci : CmdInfo := { opcode := 0x0301, pf := true, vf := true, roles := [.e] }
  let e := plotEntry s plot
  let own := fun (s : State) => firstFail
    [(!memobjLive memobj s, .badParam),
     (plotValid e || plotReserved e || decide (s.chip.plots ≤ plot.toNat), .badParam),
     ((match memobjPolder memobj s with | some q => baseTaken s q.slot base | none => true), .badParam),
     ((match memobjOf memobj s with | some m => decide (4096 ≤ m.plots.length) | none => true), .exhausted)]
  runCmd ci o tag (memobjDenied o memobj false s) bad own (fun s =>
    match memobjOf memobj s, memobjPolder memobj s with
    | some m, some q =>
      pumpFills q.id (reply o tag ci.opcode .ok []
        (assignPlot m q plot base writable (zeroFill || q.confidential) fillClass s))
    | _, _ => s) s

/-- PLOT_ASSIGN. -/
def execPlotAssign (o : Origin) (tag : BitVec 32) (memobj plot : BitVec 16) (base : BitVec 24) (writable zeroFill : Bool)
    (fillClass : BitVec 4) (s : State) : Host.Outcome State Fault Refusal :=
  .next (plotAssignCmd false o tag memobj plot base writable zeroFill fillClass s)

/-- Whether a command may release a plot: any on the PF, else one of its own function and polder (R344, R348, R364). -/
def releaseDenied (o : Origin) (plot : BitVec 16) (s : State) : Bool :=
  match plotPolder s plot with
  | none => false
  | some q =>
    o.sluice ≠ .pf && ((match plotMemobj s plot with | some m => sluiceFn o.sluice ≠ some m.fn | none => false)
      || !mayNamePolder o q.id s)

/-- PLOT_RELEASE (R101, R359). -/
def plotReleaseCmd (bad : Bool) (o : Origin) (tag : BitVec 32) (plot : BitVec 16) (s : State) : State :=
  let ci : CmdInfo := { opcode := 0x0302, pf := true, vf := true, roles := [.e] }
  let own := fun (s : State) => firstFail
    [(!plotValid (plotEntry s plot) || plotReserved (plotEntry s plot), .badParam)]
  runCmd ci o tag (releaseDenied o plot s) bad own (fun s => resume (startRelease plot [(o, tag)] (pend o tag ci.opcode s))) s

/-- PLOT_RELEASE. -/
def execPlotRelease (o : Origin) (tag : BitVec 32) (plot : BitVec 16) (s : State) : Host.Outcome State Fault Refusal :=
  .next (plotReleaseCmd false o tag plot s)

/-- PLOT_QUERY (R88, R381). -/
def plotQueryCmd (bad : Bool) (o : Origin) (tag : BitVec 32) (plot : BitVec 16) (s : State) : State :=
  let ci : CmdInfo := { opcode := 0x0303, pf := true, vf := true, roles := [.e] }
  let own := fun (s : State) => firstFail [(decide (s.chip.plots ≤ plot.toNat), .badParam)]
  runCmd ci o tag (readDenied o (plotPolder s plot) s) bad own (fun s =>
    let m := match plotMemobj s plot with | some m => m.id.toNat | none => 0
    reply o tag ci.opcode .ok (leBytes 8 (plotEntry s plot).toNat ++ leBytes 2 m ++ zeros 6) s) s

/-- PLOT_QUERY. -/
def execPlotQuery (o : Origin) (tag : BitVec 32) (plot : BitVec 16) (s : State) : Host.Outcome State Fault Refusal :=
  .next (plotQueryCmd false o tag plot s)

/-! ### Regions -/

/-- The lowest run of free RTT entries (R140). -/
def freeRtt (s : State) (n : Nat) : Option Nat :=
  leastBelow (65537 - n) fun b => !s.fau.rtt.any fun x => decide (b ≤ x.1) && decide (x.1 < b + n)

/-- Take a run of RTT entries for plots (R140, R186). -/
def fillRtt (base : Nat) (plots : List (BitVec 16)) (s : State) : State :=
  let entries := (List.range plots.length).map fun i => (base + i, plots.getD i 0)
  { s with fau := { s.fau with rtt := s.fau.rtt ++ entries } }

/-- The lowest region index in use by none. -/
def freeRegion (s : State) : Option Nat := leastBelow 16384 fun i => (findRegion s i).isNone

/-- Whether a plot lies in the home memory of a ring (R186). -/
def inRingHome (s : State) (plot : BitVec 16) : Bool := s.rings.rings.any fun r => r.home.contains plot

/-- Whether a plot lies in an exported region (R186). -/
def inRegion (s : State) (plot : BitVec 16) : Bool :=
  s.fau.regions.any fun g => (List.range g.rttCount).any fun i => assocGet (g.rttBase + i) 0 s.fau.rtt = plot

/-- Whether a plot can be translated to for a polder: valid, of that polder, and not marked for release (R101, R140). -/
def plotOfPolder (s : State) (q : Polder) (plot : BitVec 16) : Bool :=
  let e := plotEntry s plot
  plotValid e && !plotReserved e && plotSlot e = q.slot && !plotReleasing s plot

/-- The checks on a region of the memory kind (R139, R140, R186, R391). -/
def memoryRegionBad (s : State) (q : Polder) (length : BitVec 64) (first : BitVec 32) (plots : List (BitVec 16)) : Bool :=
  decide (length = 0 || 1099511627776 < length.toNat || length.toNat % 64 ≠ 0 || first.toNat % 64 ≠ 0)
    || decide (plots.length ≠ (first.toNat + length.toNat + 16777215) / 16777216)
    || (plots.any fun p => !plotOfPolder s q p || inRingHome s p) || (freeRtt s plots.length).isNone

/-- The checks on a region of the signal kind (R540). -/
def signalRegionBad (s : State) (q : Polder) (length : BitVec 64) (core : BitVec 16) (base count : BitVec 8)
    (plots : List (BitVec 16)) : Bool :=
  decide (length.toNat ≠ 4 * count.toNat) || decide (count = 0) || decide (48 < base.toNat + count.toNat)
    || !plots.isEmpty || decide (s.chip.cores ≤ core.toNat) || decide (512 ≤ core.toNat)
    || match coreContext s (core.setWidth 9) with | some c => c.polder ≠ q.id | none => true

/-- The index that a key's upper bits name, or the lowest free one for a key that the block draws (R137, R141). -/
def exportIndex (perms : BitVec 8) (mcKey : BitVec 32) (s : State) : Option Nat :=
  if perms.getLsbD 4 then some (keyIndex mcKey) else freeRegion s

/-- Write the region's entry and RTT run, and answer with its key (R137 to R141). -/
def exportRegion (m : MemObj) (q : Polder) (kind perms : BitVec 8) (mcKey : BitVec 32) (length : BitVec 64)
    (first : BitVec 32) (core : BitVec 16) (base count : BitVec 8) (plots : List (BitVec 16)) (s : State) :
    BitVec 32 × State :=
  let index := (exportIndex perms mcKey s).getD 0
  let key := if perms.getLsbD 4 then mcKey else BitVec.ofNat 32 (index * 262144 + checkValue (drbgValue s))
  let s := if perms.getLsbD 4 then s else drbgDraw 3 s
  let signal := decide (kind = 1)
  let rtt := if signal then 0 else (freeRtt s plots.length).getD 0
  let g : Region :=
    { index := index, key := key, withdrawing := false, signalKind := signal, polderSlot := q.slot, polder := q.id,
      perms := perms.setWidth 5, length := length, rttBase := rtt, rttCount := plots.length,
      firstOffset := if signal then 0 else first.setWidth 24, core := core.setWidth 9, counterBase := base.setWidth 6,
      counterCnt := count.setWidth 6, memobj := some m.id, waiters := [] }
  let s := modMemobj m.id (fun x => { x with regions := x.regions ++ [index] }) s
  (key, fillRtt rtt plots { s with fau := { s.fau with regions := s.fau.regions ++ [g] } })

/-- REGION_EXPORT (R137 to R141, R186, R371, R540). -/
def regionExportCmd (bad : Bool) (o : Origin) (tag : BitVec 32) (memobj : BitVec 16) (kind perms : BitVec 8)
    (mcKey : BitVec 32) (length : BitVec 64) (firstOffset : BitVec 32) (core : BitVec 16) (base count : BitVec 8)
    (plots : List (BitVec 16)) (s : State) : State :=
  let ci : CmdInfo := { opcode := 0x0501, pf := true, vf := true, roles := [.e] }
  let mc := perms.getLsbD 4
  let shapeBad := fun (s : State) => match memobjPolder memobj s with
    | some q => if kind = 0 then memoryRegionBad s q length firstOffset plots
        else signalRegionBad s q length core base count plots
    | none => true
  let own := fun (s : State) => firstFail
    [(!memobjLive memobj s || decide (2 ≤ kind.toNat) || (!mc && decide (mcKey ≠ 0)), .badParam),
     (shapeBad s, .badParam),
     (mc && (decide (mcKey.toNat % 262144 = 0) || (findRegion s (keyIndex mcKey)).isSome), .badParam),
     ((match memobjOf memobj s with | some m => decide (256 ≤ m.regions.length) | none => true), .exhausted),
     ((exportIndex perms mcKey s).isNone || (!mc && !drbgAvailable s), .exhausted)]
  let malformed := bad || decide (32 ≤ perms.toNat) || decide (16777216 ≤ firstOffset.toNat)
    || (o.session.isNone && decide (2024 < plots.length))
  runCmd ci o tag (memobjDenied o memobj false s) malformed own (fun s =>
    match memobjOf memobj s, memobjPolder memobj s with
    | some m, some q =>
      let x := exportRegion m q kind perms mcKey length firstOffset core base count plots s
      reply o tag ci.opcode .ok (leBytes 4 x.1.toNat) x.2
    | _, _ => s) s

/-- REGION_EXPORT. -/
def execRegionExport (o : Origin) (tag : BitVec 32) (memobj : BitVec 16) (kind perms : BitVec 8) (mcKey : BitVec 32)
    (length : BitVec 64) (firstOffset : BitVec 32) (core : BitVec 16) (base count : BitVec 8) (plots : List (BitVec 16))
    (s : State) : Host.Outcome State Fault Refusal :=
  .next (regionExportCmd false o tag memobj kind perms mcKey length firstOffset core base count plots s)

/-- The region whose whole key a command names. -/
def regionByKey (s : State) (key : BitVec 32) : Option Region := (findRegion s (keyIndex key)).filter fun g => g.key = key

/-- Whether a command may end a region: one of its own function and polder, or from the PF (R364). -/
def withdrawDenied (o : Origin) (key : BitVec 32) (s : State) : Bool :=
  match regionByKey s key with
  | none => false
  | some g =>
    match g.memobj.bind (findMemobj s) with
    | some m => !mayName o m.fn g.polder true s
    | none => !mayNamePolder o g.polder s

/-- REGION_WITHDRAW (R142, R359). -/
def regionWithdrawCmd (bad : Bool) (o : Origin) (tag : BitVec 32) (key : BitVec 32) (s : State) : State :=
  let ci : CmdInfo := { opcode := 0x0502, pf := true, vf := true, roles := [.e] }
  let shut := fun (g : Region) => { g with withdrawing := true, waiters := g.waiters ++ [(o, tag)] }
  runCmd ci o tag (withdrawDenied o key s) bad (fun s => firstFail [((regionByKey s key).isNone, .badParam)]) (fun s =>
    let s := pend o tag ci.opcode s
    { s with fau := { s.fau with regions := alter (fun g => g.index = keyIndex key) shut s.fau.regions } }) s

/-- REGION_WITHDRAW. -/
def execRegionWithdraw (o : Origin) (tag : BitVec 32) (key : BitVec 32) (s : State) : Host.Outcome State Fault Refusal :=
  .next (regionWithdrawCmd false o tag key s)

/-- The 32 bytes of a region table entry (R139). -/
def regionBytes (g : Region) : Bytes :=
  let flags := 1 + (if g.withdrawing then 2 else 0) + (if g.signalKind then 4 else 0) + 16 * g.polderSlot.toNat
  let place := if g.signalKind then leBytes 2 g.core.toNat ++ leBytes 1 g.counterBase.toNat ++ leBytes 1 g.counterCnt.toNat
    else leBytes 4 g.firstOffset.toNat
  leBytes 4 g.key.toNat ++ leBytes 2 flags ++ leBytes 2 g.perms.toNat ++ leBytes 8 g.length.toNat
    ++ leBytes 2 g.rttBase ++ leBytes 2 g.rttCount ++ place ++ zeros 8

/-- REGION_QUERY (R139, R381). -/
def regionQueryCmd (bad : Bool) (o : Origin) (tag : BitVec 32) (index : BitVec 16) (s : State) : State :=
  let ci : CmdInfo := { opcode := 0x0503, pf := true, vf := true, roles := [.e] }
  let denied := readDenied o ((findRegion s index.toNat).bind fun g => findPolder s g.polder) s
  runCmd ci o tag denied bad (fun _ => firstFail [(decide (16384 ≤ index.toNat), .badParam)]) (fun s =>
    let body := match findRegion s index.toNat with | some g => regionBytes g | none => zeros 32
    reply o tag ci.opcode .ok body s) s

/-- REGION_QUERY. -/
def execRegionQuery (o : Origin) (tag : BitVec 32) (index : BitVec 16) (s : State) : Host.Outcome State Fault Refusal :=
  .next (regionQueryCmd false o tag index s)

/-! ### Rings -/

/-- Whether an entry may be home memory of a ring of a polder: in role E one of its plots that no region exports, in role T
an extent leased to it (R186). -/
def homeFits (s : State) (p : PolderId) (h : BitVec 16) : Bool :=
  match s.boot.role, findPolder s p with
  | .e, some q => plotOfPolder s q h && !inRegion s h
  | .t, _ =>
    decide (h.toNat < 8192) && match s.tray.extents.find? fun e => e.id = h.setWidth 13 with
      | some e => e.state = .leased && e.polder = p
      | none => false
  | _, _ => false

/-- Whether a RING_CREATE is refused with ST_BAD_PARAM (R30, R185, R186, R360). Which other instances carry role S stands in the
integration's facts (notes/assumptions/49.md). -/
def ringBad (s : State) (ring : BitVec 16) (p : PolderId) (members : List InstId) (own : BitVec 8)
    (home : List (BitVec 16)) : Bool :=
  decide (4096 ≤ ring.toNat) || (findRingOf s (ring.setWidth 12)).isSome || !polderLive s p
    || decide (members.length < 2) || decide (8 < members.length)
    || (match findPolder s p with | some q => members.any fun i => !isMember q i | none => true)
    || (s.rings.rings.any fun r => r.polder = p)
    || (members.any fun i => i ≠ s.boot.instanceId && s.chip.switches.contains i)
    || members[own.toNat]? ≠ some s.boot.instanceId
    || (home.any fun h => !homeFits s p h)
    || (s.boot.role = .e && (freeRtt s home.length).isNone)

/-- Create a ring, not yet active (R185). -/
def createRing (ring : BitVec 12) (p : PolderId) (members : List InstId) (own : BitVec 3) (home : List (BitVec 16))
    (s : State) : State :=
  let base := if s.boot.role = .e then (freeRtt s home.length).getD 0 else 0
  let r : Ring :=
    { id := ring, polder := p, members := members, own := own, home := home, active := false, heartbeat := 0, sentAt := 0,
      peers := newPeers members.length own, destroying := none, rttBase := base }
  let s := modRings (fun x => { x with rings := x.rings ++ [r], retired := x.retired.filter (·.id ≠ ring) }) s
  if s.boot.role = .e then fillRtt base home s else s

/-- RING_CREATE (R30, R185, R186, R284). -/
def ringCreateCmd (bad : Bool) (o : Origin) (tag : BitVec 32) (ring : BitVec 16) (polder : PolderId)
    (members : List InstId) (own : BitVec 8) (home : List (BitVec 16)) (mark : Datum) (s : State) : State :=
  let ci : CmdInfo := { opcode := 0x0704, fm := true, roles := [.e, .t] }
  let check := fun (s : State) => firstFail
    [(ringBad s ring polder members own home, .badParam), (decide (16 ≤ s.rings.rings.length), .exhausted),
     (markUse mark s = .refused .busy, .busy), (markUse mark s = .refused .badParam, .badParam)]
  runCmd ci o tag false bad check (fun s =>
    let id : BitVec 12 := ring.setWidth 12
    let s := createRing id polder members (own.setWidth 3) home s
    let s := if markUse mark s = .later then enqueueMark mark (.ringCreate polder id) s
      else activateRing id (countLate mark s)
    reply o tag ci.opcode .ok [] s) s

/-- RING_CREATE. -/
def execRingCreate (o : Origin) (tag : BitVec 32) (ring : BitVec 16) (polder : PolderId) (members : List InstId)
    (own : BitVec 8) (home : List (BitVec 16)) (mark : Datum) (s : State) : Host.Outcome State Fault Refusal :=
  .next (ringCreateCmd false o tag ring polder members own home mark s)

/-- A ring named by a 16-bit field. -/
def ringNamed (ring : BitVec 16) (s : State) : Option Ring :=
  if ring.toNat < 4096 then findRingOf s (ring.setWidth 12) else none

/-- Whether a ring's destruction, or its polder's teardown, has begun (R359, R360). -/
def ringEnding (r : Ring) (s : State) : Bool :=
  r.destroying.isSome || match findPolder s r.polder with | some q => q.teardown.isSome | none => true

/-- The other member of a ring that a 16-bit field names. -/
def namedMember (ring inst : BitVec 16) (s : State) : Option (Ring × BitVec 3) :=
  if 8192 ≤ inst.toNat then none
  else ((ringNamed ring s).filter fun r => !ringEnding r s).bind fun r =>
    ((memberIndex r (inst.setWidth 13)).filter fun k => k ≠ r.own).map fun k => (r, k)

/-- RING_MEMBER_DEAD (R195). -/
def ringMemberDeadCmd (bad : Bool) (o : Origin) (tag : BitVec 32) (ring inst : BitVec 16) (s : State) : State :=
  let ci : CmdInfo := { opcode := 0x0705, fm := true, roles := [.e, .t] }
  runCmd ci o tag false bad (fun s => firstFail [((namedMember ring inst s).isNone, .badParam)]) (fun s =>
    match namedMember ring inst s with
    | some x => reply o tag ci.opcode .ok [] (resume (declareDead x.1 x.2 s))
    | none => s) s

/-- RING_MEMBER_DEAD. -/
def execRingMemberDead (o : Origin) (tag : BitVec 32) (ring inst : BitVec 16) (s : State) :
    Host.Outcome State Fault Refusal := .next (ringMemberDeadCmd false o tag ring inst s)

/-- Begin the destruction of a ring, or join the one begun (R359, R385). -/
def beginRingDestroy (ring : BitVec 12) (o : Origin) (tag : BitVec 32) (s : State) : State :=
  match findRingOf s ring with
  | none => finish o tag .ok [] s
  | some r =>
    let ending := ringEnding r s
    let s := modRingOf ring (fun x => { x with destroying := some (x.destroying.getD [] ++ [(o, tag)]) }) s
    if ending then s
    else match findRingOf s ring with | some x => destroyStep x s | none => s

/-- RING_DESTROY (R284, R359, R385). -/
def ringDestroyCmd (bad : Bool) (o : Origin) (tag : BitVec 32) (ring : BitVec 16) (mark : Datum) (s : State) : State :=
  let ci : CmdInfo := { opcode := 0x0706, fm := true, roles := [.e, .t] }
  let begun := fun (s : State) => match ringNamed ring s with | some r => ringEnding r s | none => false
  let own := fun (s : State) => firstFail
    [((ringNamed ring s).isNone, .badParam),
     (!begun s && markUse mark s = .refused .busy, .busy), (!begun s && markUse mark s = .refused .badParam, .badParam)]
  runCmd ci o tag false bad own (fun s =>
    match ringNamed ring s with
    | none => s
    | some r =>
      let later := !begun s && markUse mark s = .later
      let s := pend o tag ci.opcode s
      if later then enqueueMark mark (.ringDestroy r.polder r.id o tag) s
      else resume (beginRingDestroy r.id o tag (if begun s then s else countLate mark s))) s

/-- RING_DESTROY. -/
def execRingDestroy (o : Origin) (tag : BitVec 32) (ring : BitVec 16) (mark : Datum) (s : State) :
    Host.Outcome State Fault Refusal := .next (ringDestroyCmd false o tag ring mark s)

end Sys2Proof.Machine
end

