-- ==== Sys2Proof/Machine/Observe.lean ====
section
/-! DEFINITION. The fabric's status, the configuration and reading of the Datum, and observation: event, stream and polder
counters, sync counters, steps, and the trace ring (R156, R276 to R284, R518, R471 to R479, R535, R536; groups 0x08 and
0x0B of R383). -/

namespace Sys2Proof.Machine

/-! ### The fabric's status (R156, R254, R518) -/

/-- FABRIC_STATUS_UNREACHABLE: operations to the instance and collectives of its groups end; its own ID is ignored. -/
def execFabricStatusUnreachable (inst : InstId) (s : State) : Host.Outcome State Fault Refusal :=
  .next <|
    if !running s || inst = s.boot.instanceId then s
    else
      let dead := if s.fau.dead.contains inst then s.fau.dead else s.fau.dead ++ [inst]
      resume <| unreachableColl inst (unreachableOps inst { s with fau := { s.fau with dead := dead } })

/-- FABRIC_STATUS_WITHDRAW (R156, R518). -/
def execFabricStatusWithdraw (inst : InstId) (s : State) : Host.Outcome State Fault Refusal :=
  .next <|
    if !running s || inst = s.boot.instanceId then s
    else { s with fau := { s.fau with dead := s.fau.dead.filter (· ≠ inst) } }

/-! ### Weirs (R409, R411) -/

/-- QUEUE_LEVEL_REPORT (R411): what the Weir did not admit goes on when it does again. -/
def execQueueLevelReport (weir : BitVec 8) (level : BitVec 4) (capacity : Nat) (s : State) :
    Host.Outcome State Fault Refusal :=
  .next <| if running s && hasWeir s weir then resume (takeLevel weir level capacity s) else s

/-- WEIR_CONFIG; bad says that its frame is malformed. -/
def weirConfigCmd (bad : Bool) (o : Origin) (tag : BitVec 32) (weir : BitVec 8) (minima : List (BitVec 16)) (s : State) :
    State :=
  let values := (List.range 16).map fun c => (minima.getD c 0).toNat
  runCmd { opcode := 0x0A01, pf := true } o tag false bad
    (fun s => firstFail [(!hasWeir s weir || values.any (1000 < ·), .badParam), (900 < values.sum, .oversubscribed)])
    (fun s => reply o tag 0x0A01 .ok [] (resume (modWeir weir (fun x => { x with minima := values }) s))) s

/-- WEIR_CONFIG (R409); what a Weir did not admit goes on if it does now. -/
def execWeirConfig (o : Origin) (tag : BitVec 32) (weir : BitVec 8) (minima : List (BitVec 16)) (s : State) :
    Host.Outcome State Fault Refusal := .next (weirConfigCmd false o tag weir minima s)

/-! ### The Datum -/

/-- The fabric ports of a role (R1, R77). -/
def fabricPorts : Role → Nat
  | .e => 16 | .s => 48 | .t => 16

/-- DATUM_CONFIG accepted (R278, R279): a root is LOCKED; without an upstream the Datum is FREE_RUNNING. -/
def configureDatum (root : Bool) (port : BitVec 8) (s : State) : State :=
  if root then
    enterDatumState .locked
      (modDatum (fun d => { d with root := true, hasUpstream := false, slew := 0, rate := 0, missed := 0 }) s)
  else if port = 0xFF then
    enterDatumState .freeRunning
      (modDatum (fun d => { d with
        root := false, hasUpstream := false, upstream := port, slew := 0, rate := 0, missed := 0, good := 0 }) s)
  else modDatum (fun d => { d with root := false, hasUpstream := true, upstream := port, missed := 0, good := 0 }) s

/-- DATUM_CONFIG; bad says that its frame is malformed. -/
def datumConfigCmd (bad : Bool) (o : Origin) (tag : BitVec 32) (root port : BitVec 8) (s : State) : State :=
  let own := fun (s : State) => firstFail
    [(1 < root.toNat || (root = 0 && port ≠ 0xFF && fabricPorts s.boot.role ≤ port.toNat), .badParam),
     (!s.datum.marks.isEmpty, .busy)]
  runCmd { opcode := 0x0801, fm := true } o tag false bad own
    (fun s => reply o tag 0x0801 .ok [] (configureDatum (root = 1) port s)) s

/-- DATUM_CONFIG (R279). -/
def execDatumConfig (o : Origin) (tag : BitVec 32) (root port : BitVec 8) (s : State) :
    Host.Outcome State Fault Refusal := .next (datumConfigCmd false o tag root port s)

/-- DATUM_STATUS; bad says that its frame is malformed. -/
def datumStatusCmd (bad : Bool) (o : Origin) (tag : BitVec 32) (s : State) : State :=
  runCmd { opcode := 0x0802, pf := true, vf := true, sbp := true, fm := true } o tag false bad noCheck
    (fun s => reply o tag 0x0802 .ok
      (leBytes 8 s.datum.value.toNat ++ [BitVec.ofNat 8 (datumCode s.datum.state)] ++ zeros 3
        ++ leBytes 4 s.datum.offset.toNat ++ leBytes 4 s.datum.delay.toNat) s) s

/-- DATUM_STATUS (R278, R279). -/
def execDatumStatus (o : Origin) (tag : BitVec 32) (s : State) : Host.Outcome State Fault Refusal :=
  .next (datumStatusCmd false o tag s)

/-- The earliest queued mark, all ones when none is queued (R282, R505). -/
def earliestValue (s : State) : Nat :=
  match earliestMark s with
  | some e => e.mark.toNat
  | none => 18446744073709551615

/-- MARK_QUEUE_STATUS; bad says that its frame is malformed. -/
def markQueueStatusCmd (bad : Bool) (o : Origin) (tag : BitVec 32) (s : State) : State :=
  runCmd { opcode := 0x0805, pf := true, sbp := true, fm := true } o tag false bad noCheck
    (fun s => reply o tag 0x0805 .ok
      (leBytes 2 s.datum.marks.length ++ zeros 2 ++ leBytes 8 (earliestValue s)) s) s

/-- MARK_QUEUE_STATUS (R282). -/
def execMarkQueueStatus (o : Origin) (tag : BitVec 32) (s : State) : Host.Outcome State Fault Refusal :=
  .next (markQueueStatusCmd false o tag s)

/-! ### Sync counters and steps -/

/-- The polder of the context that a core named by a 16-bit field is bound to (R257). -/
def corePolder (s : State) (core : BitVec 16) : Option Polder :=
  if s.chip.cores ≤ core.toNat then none
  else (coreContext s (core.setWidth 9)).bind fun c => findPolder s c.polder

/-- SYNC_COUNTER_READ; bad says that its frame is malformed. -/
def syncCounterReadCmd (bad : Bool) (o : Origin) (tag : BitVec 32) (core : BitVec 16) (s : State) : State :=
  let p := corePolder s core
  let conf := match p with | some q => q.confidential | none => false
  let denied := readDenied o p s || (o.sluice = .pf && conf)
  runCmd { opcode := 0x0803, pf := true, vf := true, roles := [.e] } o tag denied bad
    (fun s => firstFail [((corePolder s core).isNone, .badParam)])
    (fun s => reply o tag 0x0803 .ok
      ((List.range 48).flatMap fun i => leBytes 4 (syncValue s (core.setWidth 9) (BitVec.ofNat 6 i)).toNat) s) s

/-- SYNC_COUNTER_READ (R257, R383). -/
def execSyncCounterRead (o : Origin) (tag : BitVec 32) (core : BitVec 16) (s : State) :
    Host.Outcome State Fault Refusal := .next (syncCounterReadCmd false o tag core s)

/-- Whether a context is at a step boundary: none of its started descriptors but its STEP_BEGIN remains, and no STEP_BEGIN
that no engine has taken counts as started (R287, R407). -/
def atBoundary (s : State) (c : CtxId) : Bool :=
  s.obj.queues.all fun q => q.context ≠ c || q.started.all fun d => descKind d.data = 4

/-- CONTEXT_STEP_READ; bad says that its frame is malformed. -/
def contextStepReadCmd (bad : Bool) (o : Origin) (tag : BitVec 32) (context : BitVec 16) (s : State) : State :=
  let find := fun (s : State) => if context.toNat < 4096 then findContext s (context.setWidth 12) else none
  let own := fun (s : State) => firstFail [(!contextLive context s, .badParam)]
  runCmd { opcode := 0x0804, pf := true, vf := true, roles := [.e] } o tag (contextDenied o context s) bad own
    (fun s =>
      let step := match find s with | some c => c.step.toNat | none => 0
      reply o tag 0x0804 .ok
        (leBytes 8 step ++ [if atBoundary s (context.setWidth 12) then 1 else 0] ++ zeros 7) s) s

/-- CONTEXT_STEP_READ (R286, R287). -/
def execContextStepRead (o : Origin) (tag : BitVec 32) (context : BitVec 16) (s : State) :
    Host.Outcome State Fault Refusal := .next (contextStepReadCmd false o tag context s)

/-! ### Event counters (R471 to R475) -/

/-- Whether a profiling set counts nothing and reads 0: its queue's context belongs to a confidential polder (R22, R474). -/
def profHidden (s : State) (p : ProfSel) : Bool :=
  match findQueue s p.queue with
  | some q => (match findContext s q.context with | some c => isConfidential s c.polder | none => false)
  | none => false

/-- A counter of a profiling set: Datum since the last reset, bytes, operations, waiting; nothing for a confidential
polder (R474). A set that is not enabled holds what it last counted, of its time nothing. A read in the cycle of a reset
returns the value before it (R475). -/
def profValue (s : State) (p : ProfSel) (k : Nat) : Nat :=
  if profHidden s p then 0
  else if p.resetAt = s.time && !p.before.isEmpty then p.before.getD k 0
  else
    match k with
    | 0 => if p.enable then s.datum.value.toNat - p.since else 0
    | 1 => p.bytes
    | 2 => p.ops
    | _ => p.waited

/-- The value of an event counter (R471, R473, R474). -/
def counterValue (s : State) (i : Nat) : BitVec 63 :=
  if 0x300 ≤ i then
    if s.boot.role ≠ .e then 0
    else
      match s.tracer.prof.find? fun p => p.index = BitVec.ofNat 6 ((i - 0x300) / 4) with
      | some p => BitVec.ofNat 63 (profValue s p (i % 4))
      | none => 0
  else assocGet i 0 s.tracer.counters

/-- Whether a counter is one of a set that reads 0, or of a role that has no sets (R471, R474). -/
def setHidden (s : State) (i : Nat) : Bool :=
  s.boot.role ≠ .e || (s.tracer.prof.any fun p => p.index = BitVec.ofNat 6 ((i - 0x300) / 4) && profHidden s p)

/-- A reading: the value, with reset_seen in bit 63 (R471, R475). -/
def counterReading (s : State) (i : Nat) : BitVec 64 :=
  (counterValue s i).setWidth 64
    ||| (if s.tracer.resetSeen.contains i && !setHidden s i then BitVec.ofNat 64 (2 ^ 63) else 0)

/-- Clear the reset_seen latches that a read has returned (R475). -/
def clearSeen (first n : Nat) (s : State) : State :=
  { s with tracer := { s.tracer with resetSeen := s.tracer.resetSeen.filter fun i => i < first || first + n ≤ i } }

/-- COUNTER_READ; bad says that its frame is malformed. -/
def counterReadCmd (bad : Bool) (o : Origin) (tag : BitVec 32) (first n : BitVec 16) (s : State) : State :=
  runCmd { opcode := 0x0B01, pf := true, vf := true, sbp := true, fm := true, dbg := true } o tag false bad
    (fun _ => firstFail [(n = 0 || 510 < n.toNat || 1024 < first.toNat + n.toNat, .badParam)])
    (fun s =>
      let values := (List.range n.toNat).flatMap fun i => leBytes 8 (counterReading s (first.toNat + i)).toNat
      clearSeen first.toNat n.toNat (reply o tag 0x0B01 .ok values s)) s

/-- COUNTER_READ (R472, R475). -/
def execCounterRead (o : Origin) (tag : BitVec 32) (first count : BitVec 16) (s : State) :
    Host.Outcome State Fault Refusal := .next (counterReadCmd false o tag first count s)

/-! ### Stream and polder counters (R73, R535, R536) -/

/-- What STREAM_COUNTERS_READ returns of a stream: epoch, counter and the eight counters (R536). Two receive streams of
one source and stream ID in different multicast groups cannot be told apart by the command: the first in the table is
read (DESIGN CHOICE, notes/assumptions/69.md). -/
def streamReading (s : State) (p : PolderId) (sid peer : BitVec 16) (dir : BitVec 8) :
    Option (BitVec 32 × BitVec 32 × List (BitVec 32)) :=
  if dir = 0 then
    (s.link.tx.find? fun t => t.polder = p && t.sid = sid && t.dest = peer).map fun t => (t.epoch, t.counter, t.counts)
  else if dir = 1 then
    (s.link.rx.find? fun r => r.polder = p && r.sid = sid && r.src.setWidth 16 = peer).map fun r =>
      (r.w.extractLsb' 32 32, r.w.extractLsb' 0 32, r.counts)
  else none

/-- STREAM_COUNTERS_READ; bad says that its frame is malformed. -/
def streamCountersReadCmd (bad : Bool) (o : Origin) (tag : BitVec 32) (polder : PolderId) (stream peer : BitVec 16)
    (direction : BitVec 8) (s : State) : State :=
  runCmd { opcode := 0x0B02, pf := true, vf := true, sbp := true, fm := true, dbg := true } o tag
    (readDenied o (findPolder s polder) s) bad
    (fun s => firstFail [(isTearing s polder || (streamReading s polder stream peer direction).isNone, .badParam)])
    (fun s =>
      match streamReading s polder stream peer direction with
      | some x =>
        let counts := if isConfidential s polder then [] else x.2.2.flatMap fun v => leBytes 4 v.toNat
        reply o tag 0x0B02 .ok (leBytes 4 x.1.toNat ++ leBytes 4 x.2.1.toNat ++ padTo 32 counts) s
      | none => s) s

/-- STREAM_COUNTERS_READ (R536). -/
def execStreamCountersRead (o : Origin) (tag : BitVec 32) (polder : PolderId) (stream peer : BitVec 16)
    (direction : BitVec 8) (s : State) : Host.Outcome State Fault Refusal :=
  .next (streamCountersReadCmd false o tag polder stream peer direction s)

/-- The sixteen counters of a polder, zeros for a confidential one (R22, R535). -/
def polderReading (p : Polder) : Bytes :=
  let c := p.counters
  if p.confidential then zeros 64
  else
    padTo 64 ([c.malformed, c.streamFull, c.unattributedFail, c.membershipDrop, c.goneDrop, c.keyWaitDrop,
      c.precisionLoss].flatMap fun v => leBytes 4 v.toNat)

/-- POLDER_COUNTERS_READ; bad says that its frame is malformed. -/
def polderCountersReadCmd (bad : Bool) (o : Origin) (tag : BitVec 32) (polder : PolderId) (s : State) : State :=
  runCmd { opcode := 0x0B03, pf := true, vf := true, sbp := true, fm := true, dbg := true } o tag
    (readDenied o (findPolder s polder) s) bad
    (fun s => firstFail [(!polderLive s polder, .badParam)])
    (fun s =>
      match findPolder s polder with
      | some p => reply o tag 0x0B03 .ok (polderReading p) s
      | none => s) s

/-- POLDER_COUNTERS_READ (R535). -/
def execPolderCountersRead (o : Origin) (tag : BitVec 32) (polder : PolderId) (s : State) :
    Host.Outcome State Fault Refusal := .next (polderCountersReadCmd false o tag polder s)

/-! ### The trace ring (R476 to R479) -/

/-- Set the trace: a size that differs discards the ring and the head (R476, R377). -/
def configureTrace (size : Nat) (enable : Bool) (mask : BitVec 64) (s : State) : State :=
  let s :=
    if size = s.tracer.sizeMib then s
    else
      poolTake .traceRing (16 * size) (poolGive .traceRing
        { s with tracer := { s.tracer with sizeMib := size, head := 0, ring := [], inFlight := [], late := [] } })
  wakeDomain tracerDomain { s with tracer := { s.tracer with enabled := enable, mask := mask } }

/-- Whether the pool can hold a trace ring of a size once it has the present ring's granules back. -/
def traceFits (s : State) (size : Nat) : Bool := 16 * size ≤ poolFree s + assocGet .traceRing 0 s.pool

/-- TRACE_CONFIG; bad says that its frame is malformed. -/
def traceConfigCmd (bad : Bool) (o : Origin) (tag : BitVec 32) (size : BitVec 16) (enable : BitVec 8) (mask : BitVec 64)
    (s : State) : State :=
  let own := fun (s : State) => firstFail
    [(size = 0 || 256 < size.toNat || 1 < enable.toNat || 512 ≤ mask.toNat || (enable = 1 && !mask.getLsbD 0), .badParam),
     (!traceFits s size.toNat, .exhausted)]
  runCmd { opcode := 0x0B04, pf := true } o tag false bad own
    (fun s => reply o tag 0x0B04 .ok [] (configureTrace size.toNat (enable = 1) mask s)) s

/-- TRACE_CONFIG (R377, R476). -/
def execTraceConfig (o : Origin) (tag : BitVec 32) (sizeMib : BitVec 16) (enable : BitVec 8) (mask : BitVec 64)
    (s : State) : Host.Outcome State Fault Refusal := .next (traceConfigCmd false o tag sizeMib enable mask s)

/-- The 32 bytes of a trace event (R477). -/
def traceBytes (e : TraceEvent) : Bytes :=
  leBytes 8 e.stamp.toNat ++ leBytes 2 e.code.toNat ++ leBytes 2 e.unit.toNat ++ leBytes 2 e.polder.toNat
    ++ leBytes 2 (match e.context with | some c => 32768 + c.toNat | none => 0) ++ padTo 16 e.payload

/-- The ring's bytes. -/
def ringBytes (s : State) : Nat := s.tracer.sizeMib * 1048576

/-- How often the ring has wrapped, 0 without a ring (R479). -/
def wrapCount (s : State) : Nat := if s.tracer.sizeMib = 0 then 0 else s.tracer.head / ringBytes s

/-- TRACE_FETCH; bad says that its frame is malformed. -/
def traceFetchCmd (bad : Bool) (o : Origin) (tag : BitVec 32) (offset : BitVec 64) (length : BitVec 16) (s : State) :
    State :=
  let own := fun (s : State) => firstFail
    [(offset.toNat % 32 ≠ 0 || length.toNat % 32 ≠ 0 || length = 0 || 4072 < length.toNat, .badParam),
     (offset.toNat + ringBytes s < s.tracer.head, .exhausted)]
  runCmd { opcode := 0x0B05, pf := true, sbp := true, dbg := true } o tag false bad own
    (fun s =>
      let hits := s.tracer.ring.filter fun e =>
        offset.toNat ≤ e.position && e.position < offset.toNat + length.toNat
      reply o tag 0x0B05 .ok (leBytes 4 (wrapCount s) ++ zeros 4 ++ hits.flatMap traceBytes) s) s

/-- TRACE_FETCH (R479). -/
def execTraceFetch (o : Origin) (tag : BitVec 32) (offset : BitVec 64) (length : BitVec 16) (s : State) :
    Host.Outcome State Fault Refusal := .next (traceFetchCmd false o tag offset length s)

end Sys2Proof.Machine
end

