-- ==== Sys2Proof/Machine/Charts.lean ====
section
/-! DEFINITION. Charts: their layout and seal, export and the freeze, import, resumption (R413 to R427, group 0x09 of
R383). -/

namespace Sys2Proof.Machine

/-- Change the Chart engine's state. -/
def modCharts (f : Charts → Charts) (s : State) : State := { s with charts := f s.charts }

/-! ### Records (R415) -/

/-- The installed cores of a set, in increasing number. -/
def coreList (cores : BitVec 512) : List (BitVec 9) :=
  ((List.range 512).filter fun i => cores.getLsbD i).map (BitVec.ofNat 9)

/-- The record of a context, with the counters of its bound cores. -/
def contextRecord (s : State) (c : Context) : Bytes :=
  leBytes 2 c.id.toNat ++ [BitVec.ofNat 8 c.cls.toNat] ++ zeros 5 ++ leBytes 8 c.step.toNat ++ leBytes 64 c.cores.toNat
    ++ zeros 16
    ++ (coreList c.cores).flatMap fun k => (List.range 48).flatMap fun i => leBytes 4 (syncValue s k (BitVec.ofNat 6 i)).toNat

/-- The contexts of a polder, in increasing number. -/
def polderContexts (s : State) (p : PolderId) : List Context :=
  ((List.range 4096).filterMap fun i => findContext s (BitVec.ofNat 12 i)).filter fun c => c.polder = p

/-- The regions of a polder that charts carry, in increasing index: those of role E (R413). -/
def polderRegions (s : State) (p : PolderId) : List Region :=
  if s.boot.role = .e then ((List.range 16384).filterMap (findRegion s)).filter fun g => g.polder = p else []

/-- The plots of a polder, in increasing number. -/
def polderPlots (s : State) (q : Polder) : List (BitVec 16) :=
  if s.boot.role = .e then
    ((List.range s.chip.plots).map (BitVec.ofNat 16)).filter fun n =>
      plotValid (plotEntry s n) && !plotReserved (plotEntry s n) && plotSlot (plotEntry s n) = q.slot
  else []

/-- The record of a region: its entry, with the index of its first plot in place of its first RTT entry. -/
def regionRecord (s : State) (plots : List (BitVec 16)) (g : Region) : Bytes :=
  let first := plots.findIdx fun n => n = assocGet g.rttBase 0 s.fau.rtt
  regionBytes { g with rttBase := if g.signalKind then 0 else first }

/-- The record of a plot. -/
def plotRecord (s : State) (n : BitVec 16) : Bytes :=
  leBytes 4 (plotBase (plotEntry s n)).toNat ++ [if plotWritable (plotEntry s n) then 1 else 0] ++ zeros 3

/-- The record of a transmit stream. -/
def streamRecord (t : TxStream) : Bytes :=
  leBytes 2 t.dest.toNat ++ leBytes 2 t.sid.toNat ++ [BitVec.ofNat 8 t.cls.toNat] ++ zeros 3 ++ leBytes 4 t.epoch.toNat
    ++ leBytes 4 t.counter.toNat

/-- The record of a sequence space. -/
def spaceRecord (x : SeqSpace) : Bytes := leBytes 2 x.dest.toNat ++ zeros 2 ++ leBytes 4 x.next.toNat ++ zeros 8

/-- The working keys whose deeds a chart carries: all but the chart key (R413). -/
def chartKinds (r : Role) : List (BitVec 8) := (roleKinds r).filter fun k => k ≠ 1 && k ≠ 7

/-- A working key that the polder's slot holds, as bytes. -/
def heldKey (s : State) (p : PolderId) (kind : BitVec 8) : Bytes :=
  if kind = 3 then keyBytes (polderStackKey s p) else keyBytes (polderKey s p kind)

/-- The deed of a working key, wrapped under the chart key (R296). -/
def chartDeed (s : State) (q : Polder) (kind : BitVec 8) : Bytes :=
  let h := deedHeader kind q.confidential true q.id q.handle 0 (pvtEntry s q.handle).generation 0 s.boot.instanceId
  let d := makeDeed q.id kind h (polderKey s q.id 7) (heldKey s q.id kind)
  padTo 128 (d.header ++ d.wrapped)

/-- The extents that a role-T chart lists: those leased to the polder. -/
def chartExtents (s : State) (p : PolderId) : List Extent :=
  if s.boot.role = .t then s.tray.extents.filter fun e => e.polder = p && e.state = .leased else []

/-- The record of an extent. -/
def chartExtentRecord (e : Extent) : Bytes :=
  leBytes 2 e.id.toNat ++ leBytes 2 e.holder.toNat ++ zeros 4 ++ leBytes 8 e.expiry.toNat

/-- The transmit streams that a chart carries: those of role E (R413). -/
def chartStreams (s : State) (p : PolderId) : List TxStream :=
  if s.boot.role = .e then s.link.tx.filter fun t => t.polder = p else []

/-- The sequence spaces that a chart carries: those of role E (R413). -/
def chartSpaces (s : State) (p : PolderId) : List SeqSpace :=
  if s.boot.role = .e then s.fau.spaces.filter fun x => x.polder = p else []

/-- The records of the state section before its deeds (R415). -/
def stateRecords (s : State) (q : Polder) : Bytes :=
  let plots := polderPlots s q
  (polderContexts s q.id).flatMap (contextRecord s) ++ (polderRegions s q.id).flatMap (regionRecord s plots)
    ++ plots.flatMap (plotRecord s) ++ (chartStreams s q.id).flatMap streamRecord
    ++ (chartSpaces s q.id).flatMap spaceRecord

/-- The bytes of the state section, which need no key to count. -/
def stateLen (s : State) (q : Polder) : Nat :=
  (polderContexts s q.id).foldl (fun a c => a + 96 + 192 * (coreList c.cores).length) 0
    + 32 * (polderRegions s q.id).length + 8 * (polderPlots s q).length + 16 * (chartStreams s q.id).length
    + 16 * (chartSpaces s q.id).length + 128 * (chartKinds s.boot.role).length + 16 * (chartExtents s q.id).length

/-- The length of a chart (R414). -/
def sealedLen (s : State) (q : Polder) : Nat := 256 + stateLen s q + 16777216 * (polderPlots s q).length + 16

/-! ### Header and seal (R414, R416) -/

/-- The header of a chart. -/
def chartHeader (s : State) (q : Polder) (e : Export) (datum : Datum) (salt : BitVec 128) : Bytes :=
  padTo 256
    (leBytes 4 0x43325242 ++ leBytes 2 1 ++ [BitVec.ofNat 8 (roleCode s.boot.role), confCode q.confidential]
      ++ leBytes 2 q.id.toNat ++ leBytes 2 s.boot.instanceId.toNat ++ leBytes 4 e.chart.toNat ++ leBytes 8 e.step.toNat
      ++ leBytes 8 datum.toNat ++ leBytes 4 (polderContexts s q.id).length ++ leBytes 4 (polderRegions s q.id).length
      ++ leBytes 4 (polderPlots s q).length ++ leBytes 4 (chartStreams s q.id).length
      ++ leBytes 4 (chartSpaces s q.id).length ++ leBytes 4 (stateLen s q) ++ leBytes 8 (sealedLen s q)
      ++ beBytes 16 salt.toNat)

/-- The seal key of a chart (R416). -/
def sealKeyOf (chartKey : Key256) (p : PolderId) (exporter : InstId) (chart : BitVec 32) (salt : Bytes) : Key256 :=
  ofBytes 256 (kdf chartKey (ascii "BR2 CHART SEALS")
    (beBytes 2 p.toNat ++ beBytes 2 exporter.toNat ++ beBytes 4 chart.toNat ++ salt) 256)

/-- The ciphertext that the plots of a polder hold (R417). -/
def plotSection (s : State) (plots : List (BitVec 16)) : Bytes :=
  plots.flatMap fun n => memReadN 0 s.stack.mem (n.toNat * 16777216) 16777216

/-- What the freeze of an export fixes (R418, R419 step 4). -/
def frozenOf (s : State) (q : Polder) (e : Export) (salt : BitVec 128) : Frozen :=
  { datum := s.datum.value, salt := salt, header := chartHeader s q e s.datum.value salt, records := stateRecords s q,
    extents := (chartExtents s q.id).flatMap chartExtentRecord, plots := polderPlots s q, len := sealedLen s q }

/-- A whole chart: the state of the freeze, with its deeds and the ciphertext of its plots (R414, R416). -/
def chartBytes (s : State) (q : Polder) (e : Export) (f : Frozen) : Bytes :=
  let plots := plotSection s f.plots
  let key := sealKeyOf (polderKey s q.id 7) q.id s.boot.instanceId e.chart (beBytes 16 f.salt.toNat)
  let ct := gcmCrypt key 0 (f.records ++ (chartKinds s.boot.role).flatMap (chartDeed s q) ++ f.extents)
  f.header ++ ct ++ plots ++ gcmTagBytes key 0 (f.header ++ plots) ct

/-- The use of several keys of a polder: the first that is not ready decides. -/
def needKeys (p : PolderId) : List (BitVec 8) → State → KeyUse × State
  | [], s => (.ready, s)
  | k :: rest, s =>
    match needKey p k s with
    | (.ready, s) => needKeys p rest s
    | x => x

/-- A polder leaves its hold, and all that waited for it goes on. -/
def resumePolder (p : PolderId) (s : State) : State := resume (thaw p s)

/-- A chart resumption falls due: only the polder that the chart still holds leaves its hold (R427, R456). -/
def resumeChart (p : PolderId) (chart : BitVec 32) (s : State) : State :=
  match findPolder s p with
  | some q => if heldChart q = some chart then resumePolder p s else s
  | none => s

/-! ### Export (R418, R419) -/

/-- The domain of the Chart engine. -/
def chartDomain : DomainId := ⟨.chartEngine, 0⟩

/-- The jobs that wrap or unwrap the deeds of a chart: for each the derivation of its wrapping key from the chart key
and AES-KW, in class 3 (R296, R308, R312). -/
def deedRewraps (p : PolderId) (s : State) : State :=
  (inlineJobs (some p) ((chartKinds s.boot.role).flatMap fun k => deedKeying 3 k (.slot p 7) (polderKey s p 7)) s).2

/-- Whether a chart of a polder is in progress on the instance. -/
def chartBusy (s : State) (p : PolderId) : Bool :=
  (s.charts.exports.any fun e => e.polder = p) || (s.charts.imports.any fun e => e.polder = p)

/-- Whether a polder has work outstanding that an export waits for (R419 step 2). -/
def exportWaits (s : State) (p : PolderId) : Bool :=
  let mine := fun (c : CtxId) => match findContext s c with | some x => x.polder = p | none => false
  ((s.obj.contexts.filter fun c => c.polder = p).any fun c => !atBoundary s c.id)
    || (s.fau.ops.any fun o => o.polder = p) || (s.fau.waiting.any fun w => mine w.req.context)
    || (s.fau.fences.any fun f => mine f.context) || (s.fau.hold.any fun h => h.rel.polder = p)
    || (s.coll.participants.any fun c => c.launch.polder = p) || (s.coll.nodes.any fun n => n.launch.polder = p)
    || (s.coll.sinks.any fun k => k.polder = p && k.ended.isNone) || (s.bars.arrivals.any fun a => a.polder = p)
    || (s.bars.counters.any fun b => b.polder = p)

/-- What an export's end returns of the chart: its length and its plot count. -/
def chartResult (len : Nat) (plots : List (BitVec 16)) : Bytes := leBytes 8 len ++ leBytes 4 plots.length ++ zeros 4

/-- CHART_EXPORT; bad says that its frame is malformed. -/
def chartExportCmd (bad : Bool) (o : Origin) (tag : BitVec 32) (polder : PolderId) (chart : BitVec 32) (step : BitVec 64)
    (addr len : BitVec 64) (s : State) : State :=
  let own := fun (s : State) => firstFail
    [(!polderLive s polder || len = 0, .badParam), (isFatal s polder, .squashed),
     ((s.rings.rings.any fun r => r.polder = polder) || poolFree s < 256 || chartBusy s polder, .busy),
     ((match findPolder s polder with | some q => q.exported.contains chart | none => true), .badParam)]
  runCmd { opcode := 0x0901, vf := true, sbt := true, ladder := true } o tag (!mayNamePolder o polder s) bad own (fun s =>
    let e : Export :=
      { polder := polder, chart := chart, step := step, addr := addr, len := len, origin := o, tag := tag, start := s.time,
        frozen := none, waits := false, fn := ownerFn o }
    poolTake (.chart polder) 256
      (modCharts (fun c => { c with exports := c.exports ++ [e] }) (pend o tag 0x0901 s))) s

/-- CHART_EXPORT (R418, R419 step 1). -/
def execChartExport (o : Origin) (tag : BitVec 32) (polder : PolderId) (chart : BitVec 32) (step : BitVec 64)
    (addr len : BitVec 64) (s : State) : Host.Outcome State Fault Refusal :=
  .next (chartExportCmd false o tag polder chart step addr len s)

/-- The freeze of an export takes effect, unless a context stands at another step or the buffer is too short (R418, R419
steps 3 and 4). DESIGN CHOICE: of a polder that an earlier chart still holds the later chart takes the freeze over
(notes/assumptions/78.md). -/
def takeFreeze (q : Polder) (e : Export) (s : State) : State :=
  if (polderContexts s q.id).any fun c => c.step ≠ e.step then resume (endExport q.id .badParam [] s)
  else if e.len.toNat < sealedLen s q then
    resume (endExport q.id .exhausted (chartResult (sealedLen s q) (polderPlots s q)) s)
  else if !drbgAvailable s then resume (endExport q.id .exhausted [] s)
  else
    let f := frozenOf s q e ((drbgValue s).setWidth 128)
    modPolder q.id (fun p => { p with freeze := .chart e.chart })
      (modCharts (fun c => { c with
        exports := alter (fun x => x.polder = q.id) (fun x => { x with frozen := some f }) c.exports }) (drbgDraw 16 s))

/-- CHART_FREEZE (R419 steps 2 to 4). -/
def execChartFreeze (polder : PolderId) (s : State) : Host.Outcome State Fault Refusal :=
  .next <|
    match s.charts.exports.find? fun e => e.polder = polder, findPolder s polder with
    | some e, some q =>
      if !running s || e.frozen.isSome then s
      else if isFatal s polder then resume (endExport polder .squashed [] s)
      else if e.start + 10000000000 ≤ s.time || exportWaits s polder then s
      else withDomain chartDomain (takeFreeze q e) s
    | _, _ => s

/-- CHART_EXPORT_TIMEOUT (R419 step 2). -/
def execChartExportTimeout (polder : PolderId) (s : State) : Host.Outcome State Fault Refusal :=
  .next <|
    match s.charts.exports.find? fun e => e.polder = polder with
    | some e =>
      if running s && e.frozen.isNone && e.start + 10000000000 ≤ s.time then
        resume (endExport polder (if isFatal s polder then .squashed else .timeout) [] s)
      else s
    | none => s

/-- A frozen polder's chart is written, once its keys are there. -/
def writeChart (polder : PolderId) (q : Polder) (e : Export) (f : Frozen) (s : State) : State :=
  match needKeys polder (7 :: chartKinds s.boot.role) s with
  | (.wait, s) =>
    modCharts (fun c => { c with exports := alter (fun x => x.polder = polder) (fun x => { x with waits := true }) c.exports }) s
  | (.failed st, s) => resume (thawChart polder (endExport polder st [] s))
  | (.ready, s) =>
    let s := deedRewraps polder s
    let s := hostWrite e.fn e.addr (chartBytes s q e f) s
    let s := modPolder polder (fun p => { p with exported := p.exported ++ [e.chart] }) s
    resume (endExport polder .ok (chartResult f.len f.plots) s)

/-- CHART_WRITTEN (R419 steps 5 and 6): once the keys it rewraps are loaded, the chart is written and the export ends with
the polder still frozen. An export whose keys cannot be had ends with the load's status. -/
def execChartWritten (polder : PolderId) (s : State) : Host.Outcome State Fault Refusal :=
  .next <|
    match s.charts.exports.find? fun e => e.polder = polder, findPolder s polder with
    | some e, some q =>
      match e.frozen with
      | none => s
      | some f =>
        if !running s then s
        else if isFatal s polder then resume (thawChart polder (endExport polder .squashed [] s))
        else if hungFor s 0x0800 none then s
        else withDomain chartDomain (writeChart polder q e f) s
    | _, _ => s

/-! ### Import (R422 to R426) -/

/-- A charted context. -/
structure ChartContext where
  number   : Nat
  cls      : BitVec 4
  step     : BitVec 64
  cores    : BitVec 512
  counters : Bytes
  deriving DecidableEq, Repr

/-- What an import reads from a chart. -/
structure Chart where
  header   : Bytes
  exporter : InstId
  contexts : List ChartContext
  regions  : List Bytes
  plots    : List Bytes
  contents : Bytes
  streams  : List Bytes
  spaces   : List Bytes
  deeds    : List Bytes
  tagOk    : Bool
  deriving DecidableEq, Repr

/-- Cut n pieces of a size from a byte string. -/
def pieces (n size : Nat) (b : Bytes) : List Bytes := (List.range n).map fun i => slice b (size * i) size

/-- Read n context records; the bytes that follow them. -/
def readContexts : Nat → Bytes → List ChartContext × Bytes
  | 0, b => ([], b)
  | n + 1, b =>
    let cores : BitVec 512 := BitVec.ofNat 512 (leField b 16 64)
    let size := 192 * (coreList cores).length
    let c : ChartContext :=
      { number := leField b 0 2, cls := BitVec.ofNat 4 (leField b 2 1), step := BitVec.ofNat 64 (leField b 8 8),
        cores := cores, counters := slice b 96 size }
    let rest := readContexts n (b.drop (96 + size))
    (c :: rest.1, rest.2)

/-- Read a chart with the importer's chart key (R414 to R416). -/
def readChart (chartKey : Key256) (kinds : Nat) (b : Bytes) : Chart :=
  let h := b.take 256
  let exporter : InstId := BitVec.ofNat 13 (leField h 10 2)
  let stateBytes := leField h 52 4
  let nPlots := leField h 40 4
  let ct := slice b 256 stateBytes
  let contents := slice b (256 + stateBytes) (16777216 * nPlots)
  let key := sealKeyOf chartKey (BitVec.ofNat 16 (leField h 8 2)) exporter (BitVec.ofNat 32 (leField h 12 4)) (slice h 64 16)
  let cs := readContexts (leField h 32 4) (gcmCrypt key 0 ct)
  let nRegions := leField h 36 4
  let nStreams := leField h 44 4
  let nSpaces := leField h 48 4
  let afterRegions := cs.2.drop (32 * nRegions)
  let afterPlots := afterRegions.drop (8 * nPlots)
  let afterStreams := afterPlots.drop (16 * nStreams)
  { header := h, exporter := exporter, contexts := cs.1, regions := pieces nRegions 32 cs.2,
    plots := pieces nPlots 8 afterRegions, contents := contents, streams := pieces nStreams 16 afterPlots,
    spaces := pieces nSpaces 16 afterStreams, deeds := pieces kinds 128 (afterStreams.drop (16 * nSpaces)),
    tagOk := decide (slice b (256 + stateBytes + 16777216 * nPlots) 16 = gcmTagBytes key 0 (h ++ contents) ct) }

/-- Check 3 of R423 on a chart's header. -/
def chartHeaderBad (s : State) (q : Polder) (m : Import) (h : Bytes) : Bool :=
  h.length ≠ 256 || leField h 0 4 ≠ 0x43325242 || leField h 4 2 ≠ 1 || leField h 6 1 ≠ roleCode s.boot.role
    || leField h 7 1 ≠ (confCode q.confidential).toNat || leField h 8 2 ≠ q.id.toNat || 8192 ≤ leField h 10 2
    || leField h 12 4 ≠ m.chart.toNat || leField h 52 4 % 8 ≠ 0 || leField h 56 8 ≠ m.len.toNat
    || leField h 56 8 ≠ 256 + leField h 52 4 + 16777216 * leField h 40 4 + 16
    || (h.drop 80).any (· ≠ 0)

/-- The installed plots that are free and not in the pool, in increasing number (R424). -/
def freePlots (s : State) : List (BitVec 16) :=
  ((List.range s.chip.plots).map (BitVec.ofNat 16)).filter fun n =>
    !plotValid (plotEntry s n) && !plotReserved (plotEntry s n)

/-- Whether a core cannot be bound: not installed, or bound already. -/
def coreTaken (s : State) (k : BitVec 9) : Bool := decide (s.chip.cores ≤ k.toNat) || (coreContext s k).isSome

/-- The RTT entries that a charted region needs: none of the signal kind. -/
def regionRtt (r : Bytes) : Nat := if (leField r 4 2 / 4) % 4 = 1 then 0 else leField r 18 2

/-- Whether each of a chart's regions finds a run of free RTT entries, one after another. -/
def rttFits : List Bytes → State → Bool
  | [], _ => true
  | r :: rest, s =>
    if regionRtt r = 0 then rttFits rest s
    else
      match freeRtt s (regionRtt r) with
      | none => false
      | some b => rttFits rest (fillRtt b (List.replicate (regionRtt r) 0) s)

/-- Whether the streams that a chart restores would pass the bound of the stream store (R60, R425). -/
def streamsOver (s : State) (c : Chart) : Bool :=
  c.exporter = s.boot.instanceId && decide (16384 < s.link.tx.length + c.streams.length)

/-- Check 4 of R423: what a chart names is in use, or does not fit. Streams that the store has no room for, and regions
that find no run of free RTT entries, end the import as what else does not fit does (notes/assumptions/42.md). -/
def chartTaken (s : State) (c : Chart) : Bool :=
  (c.contexts.any fun x => 4096 ≤ x.number || (findContext s (BitVec.ofNat 12 x.number)).isSome
      || (coreList x.cores).any (coreTaken s))
    || (c.regions.any fun r => (findRegion s (leField r 0 4 / 262144)).isSome)
    || (freePlots s).length < c.plots.length || 4096 < c.plots.length || 256 < c.regions.length
    || !rttFits c.regions s || streamsOver s c

/-- Checks 1 and 4 of R304 on a chart's deed, and whether it opens to the key this instance holds (R423 check 6). -/
def chartDeedOk (s : State) (q : Polder) (exporter : InstId) (b : Bytes) : Bool :=
  let h := b.take 32
  let kind : BitVec 8 := BitVec.ofNat 8 (leField h 1 1)
  let wrapped := slice b 32 (if kind = 3 then 72 else 40)
  leField h 0 1 = 1 && (chartKinds s.boot.role).contains kind
    && leField h 2 1 = (confCode q.confidential).toNat + 2 && leField h 3 1 = (if kind = 3 then 64 else 32)
    && leField h 4 2 = q.id.toNat && leField h 6 2 < 8192 && leField h 10 2 < 8192
    && leField h 14 2 = exporter.toNat && ((h.drop 16).all (· = 0)) && ((b.drop 104).all (· = 0))
    && (Config.kwUnwrap (deedKey (polderKey s q.id 7) h) wrapped = some (heldKey s q.id kind))

/-- Check 2 of R423. A memory object is asked of role E only, the one role that has them (R371). -/
def notFresh (s : State) (polder : PolderId) (memobj : BitVec 16) : Bool :=
  let plots := match findPolder s polder with | some q => polderPlots s q | none => []
  (s.obj.contexts.any fun c => c.polder = polder) || !plots.isEmpty || (s.fau.regions.any fun g => g.polder = polder)
    || (s.link.tx.any fun t => t.polder = polder) || (s.link.rx.any fun r => r.polder = polder)
    || (s.boot.role = .e &&
      ((s.obj.memobjs.any fun m => m.polder = polder && m.id.setWidth 16 ≠ memobj)
        || match memobjOf memobj s with
          | some m => m.doomed || m.polder ≠ polder || !m.plots.isEmpty || !m.regions.isEmpty
          | none => true))

/-- The first failing check 2 to 6 of R423. DESIGN CHOICE: check 2 is made again here, since a command that came after
the import was accepted may have given the polder a plot, a context or a region (notes/assumptions/78.md). -/
def importFail (s : State) (q : Polder) (m : Import) (c : Chart) : Option Status :=
  if notFresh s q.id (m.memobj.setWidth 16) then some .badParam
  else if chartHeaderBad s q m c.header then some .badParam
  else if chartTaken s c then some .exhausted
  else if !c.tagOk then some .breach
  else if c.deeds.any fun d => !chartDeedOk s q c.exporter d then some .breach
  else none

/-- Restore a context: its number, cores, counters and step (R424). -/
def importContext (m : Import) (x : ChartContext) (s : State) : State :=
  let c : Context :=
    { id := BitVec.ofNat 12 x.number, state := .bound, fn := m.fn, polder := m.polder, cls := x.cls, cores := x.cores,
      step := x.step, hold := none, waiters := [] }
  let s := modObj (fun o => { o with contexts := o.contexts ++ [c] }) s
  (List.range (coreList x.cores).length).foldl (fun t i =>
    (List.range 48).foldl (fun u k =>
      setSync ((coreList x.cores).getD i 0) (BitVec.ofNat 6 k) (BitVec.ofNat 32 (leField x.counters (192 * i + 4 * k) 4)) u) t) s

/-- Restore plot record i with its ciphertext (R424). -/
def restorePlot (memobj : BitVec 13) (q : Polder) (n : BitVec 16) (r contents : Bytes) (s : State) : State :=
  let base := n.toNat * 16777216
  let e := mkPlot q.slot (BitVec.ofNat 24 (leField r 0 4)) (leField r 4 1 % 2 = 1) false
  let s := modMemobj memobj (fun x => { x with plots := x.plots ++ [n] }) (setPlot n e s)
  { s with stack := { s.stack with
    mem := memWriteN 0 s.stack.mem base contents
    bad := s.stack.bad.filter fun u => !(base ≤ 256 * u && 256 * u < base + 16777216) } }

/-- Restore a region under its charted index and key, its RTT pointing at the new plots (R424). -/
def restoreRegion (memobj : BitVec 13) (q : Polder) (plots : List (BitVec 16)) (r : Bytes) (s : State) : State :=
  let flags : BitVec 16 := BitVec.ofNat 16 (leField r 4 2)
  let signal := flags.extractLsb' 2 2 = 1
  let n := regionRtt r
  let base := if n = 0 then 0 else (freeRtt s n).getD 0
  let index := leField r 0 4 / 262144
  let g : Region :=
    { index := index, key := BitVec.ofNat 32 (leField r 0 4), withdrawing := flags.getLsbD 1, signalKind := signal,
      polderSlot := q.slot, polder := q.id, perms := BitVec.ofNat 5 (leField r 6 2), length := BitVec.ofNat 64 (leField r 8 8),
      rttBase := base, rttCount := n, firstOffset := if signal then 0 else BitVec.ofNat 24 (leField r 20 4),
      core := if signal then BitVec.ofNat 9 (leField r 20 2) else 0,
      counterBase := if signal then BitVec.ofNat 6 (leField r 22 1) else 0,
      counterCnt := if signal then BitVec.ofNat 6 (leField r 23 1) else 0, memobj := some memobj, waiters := [] }
  let s := modMemobj memobj (fun x => { x with regions := x.regions ++ [index] }) s
  fillRtt base ((plots.drop (leField r 16 2)).take n) { s with fau := { s.fau with regions := s.fau.regions ++ [g] } }

/-- Restore a transmit stream at epoch + 1, counter 0; new IDs go on above it (R425). The lane is the stream's place among
those restored of its destination and class. -/
def restoreStream (p : PolderId) (r : Bytes) (s : State) : State :=
  let dest : Dest := BitVec.ofNat 16 (leField r 0 2)
  let sid := leField r 2 2
  let cls : BitVec 4 := BitVec.ofNat 4 (leField r 4 1)
  let epoch : BitVec 32 := BitVec.ofNat 32 (leField r 8 4)
  let lane := (s.link.tx.filter fun t => t.polder = p && t.dest = dest && t.cls = cls).length
  let t : TxStream :=
    { polder := p, dest := dest, sid := BitVec.ofNat 16 sid, cls := cls, lane := lane, epoch := epoch + 1, counter := 0,
      key := none, nextKey := none, requested := false, stalled := false, ended := decide (epoch = BitVec.allOnes 32), counts := noCounts }
  let next := max (assocGet (p, dest) 0 s.link.nextSid) (sid + 1 - (sidRange dest).1)
  { s with link := { s.link with tx := s.link.tx ++ [t], nextSid := assocSet (p, dest) next s.link.nextSid } }

/-- Restore a sequence space at its charted next number (R425). -/
def restoreSpace (p : PolderId) (r : Bytes) (s : State) : State :=
  let x : SeqSpace :=
    { polder := p, dest := BitVec.ofNat 16 (leField r 0 2), next := BitVec.ofNat 32 (leField r 4 4) }
  { s with fau := { s.fau with spaces := s.fau.spaces ++ [x] } }

/-- Restore everything that a chart carries; streams and spaces only onto the exporter (R422, R424 to R426). A
Floodwatch freeze stays (R456). -/
def restoreChart (q : Polder) (m : Import) (c : Chart) (s : State) : State :=
  let plots := (freePlots s).take c.plots.length
  let s := (List.range plots.length).foldl (fun t i =>
    restorePlot m.memobj q (plots.getD i 0) (c.plots.getD i []) (slice c.contents (16777216 * i) 16777216) t) s
  let s := c.regions.foldl (fun t r => restoreRegion m.memobj q plots r t) s
  let s := c.contexts.foldl (fun t x => importContext m x t) s
  let s := if c.exporter = s.boot.instanceId then
      c.spaces.foldl (fun t r => restoreSpace q.id r t) (c.streams.foldl (fun t r => restoreStream q.id r t) s)
    else s
  modPolder q.id (fun p => { p with freeze := if p.freeze = .floodwatch then .floodwatch else .imported m.chart }) s

/-- CHART_IMPORT; bad says that its frame is malformed. -/
def chartImportCmd (bad : Bool) (o : Origin) (tag : BitVec 32) (polder : PolderId) (memobj : BitVec 16) (chart : BitVec 32)
    (addr len : BitVec 64) (s : State) : State :=
  let own := fun (s : State) => firstFail
    [(!polderLive s polder || len = 0, .badParam),
     (s.boot.role = .t, .badParam),
     (chartBusy s polder || poolFree s < 256, .busy),
     (notFresh s polder memobj, .badParam)]
  runCmd { opcode := 0x0902, vf := true, sbt := true, ladder := true } o tag (!mayNamePolder o polder s || memobjDenied o memobj false s) bad own
    (fun s =>
      let m : Import :=
        { polder := polder, memobj := memobj.setWidth 13, chart := chart, addr := addr, len := len, fn := ownerFn o,
          waits := false, origin := o, tag := tag }
      poolTake (.chart polder) 256
        (modCharts (fun c => { c with imports := c.imports ++ [m] }) (pend o tag 0x0902 s))) s

/-- CHART_IMPORT (R423 checks 1 and 2). -/
def execChartImport (o : Origin) (tag : BitVec 32) (polder : PolderId) (memobj : BitVec 16) (chart : BitVec 32)
    (addr len : BitVec 64) (s : State) : Host.Outcome State Fault Refusal :=
  .next (chartImportCmd false o tag polder memobj chart addr len s)

/-- What a chart's buffer held is checked and restored, once the polder's keys are there. -/
def takeChart (polder : PolderId) (chart : Bytes) (q : Polder) (m : Import) (s : State) : State :=
  match needKeys polder (7 :: chartKinds s.boot.role) s with
  | (.wait, s) =>
    modCharts (fun c => { c with imports := alter (fun x => x.polder = polder) (fun x => { x with waits := true }) c.imports }) s
  | (.failed st, s) => resume (endImport polder st s)
  | (.ready, s) =>
    let s := deedRewraps polder s
    let c := readChart (polderKey s polder 7) (chartKinds s.boot.role).length (padTo m.len.toNat chart)
    match importFail s q m c with
    | some st => resume (endImport polder st s)
    | none => resume (endImport polder .ok (restoreChart q m c s))

/-- CHART_IMPORT_COMPLETE (R423 to R426): chart is what the buffer held. While the polder's keys are loaded nothing happens;
an import whose keys cannot be had ends with the load's status. -/
def execChartImportComplete (polder : PolderId) (chart : Bytes) (s : State) : Host.Outcome State Fault Refusal :=
  .next <|
    match s.charts.imports.find? fun m => m.polder = polder, findPolder s polder with
    | some m, some q =>
      if !running s || hungFor s 0x0800 none then s else withDomain chartDomain (takeChart polder chart q m) s
    | _, _ => s

/-! ### Resumption and discarding (R426, R427) -/

/-- CHART_RESUME; bad says that its frame is malformed. -/
def chartResumeCmd (bad : Bool) (o : Origin) (tag : BitVec 32) (polder : PolderId) (chart : BitVec 32) (mark : Datum)
    (s : State) : State :=
  let own := fun (s : State) => firstFail
    [((match findPolder s polder with | some q => q.teardown.isSome || heldChart q ≠ some chart | none => true), .badParam),
     (chartBusy s polder, .busy)]
  runCmd { opcode := 0x0903, vf := true, sbt := true, fm := true } o tag (!mayNamePolder o polder s) bad own (fun s =>
    match markUse mark s with
    | .refused st => refuse o tag 0x0903 st s
    | .now => resumeChart polder chart (countLate mark (reply o tag 0x0903 .ok [] s))
    | .later => enqueueMark mark (.chartResume polder chart) (reply o tag 0x0903 .ok [] s)) s

/-- CHART_RESUME (R427). -/
def execChartResume (o : Origin) (tag : BitVec 32) (polder : PolderId) (chart : BitVec 32) (mark : Datum) (s : State) :
    Host.Outcome State Fault Refusal := .next (chartResumeCmd false o tag polder chart mark s)

/-- Undo an import that has not resumed: its contexts, plots, regions, streams and spaces go, and the hold (R423, R426). -/
def undoImport (q : Polder) (s : State) : State :=
  let p := q.id
  let s := (s.obj.contexts.filter fun c => c.polder = p).foldl (fun t c => freeContext c.id (beginDestroy c.id [] t)) s
  let joins := s.link.joins
  let s := dropRecords p (dropStreams p (dropPlots p q.slot (dropRegions p s)))
  let s : State := { s with link := { s.link with joins := joins } }
  modPolder p (fun x => { x with freeze := .none }) (dropMarks (fun a => match a with | .chartResume r _ => r = p | _ => false) s)

/-- Whether a polder has exported a chart, or holds it imported. -/
def knowsChart (s : State) (polder : PolderId) (chart : BitVec 32) : Bool :=
  match findPolder s polder with
  | some q => q.teardown.isNone && (q.exported.contains chart || heldChart q = some chart)
  | none => false

/-- CHART_DISCARD; bad says that its frame is malformed. -/
def chartDiscardCmd (bad : Bool) (o : Origin) (tag : BitVec 32) (polder : PolderId) (chart : BitVec 32) (s : State) : State :=
  let own := fun (s : State) => firstFail [(!knowsChart s polder chart, .badParam), (chartBusy s polder, .busy)]
  runCmd { opcode := 0x0904, vf := true, sbt := true } o tag (!mayNamePolder o polder s) bad own (fun s =>
    let s := pend o tag 0x0904 s
    let s := match findPolder s polder with
      | some q => if q.freeze = .imported chart then undoImport q s else s
      | none => s
    finish o tag .ok [] s) s

/-- CHART_DISCARD (R426). -/
def execChartDiscard (o : Origin) (tag : BitVec 32) (polder : PolderId) (chart : BitVec 32) (s : State) :
    Host.Outcome State Fault Refusal := .next (chartDiscardCmd false o tag polder chart s)

end Sys2Proof.Machine
end

