-- ==== Sys2Proof/Machine/Descriptors.lean ====
section
/-! DEFINITION. Queue descriptors that no other unit's file holds, and the marks: remote operations, steps, fences, bulk
copies (R282 to R287, R387 to R391, R407, R457). -/

namespace Sys2Proof.Machine

/-! ### Remote operations -/

/-- The FAU takes a REMOTE_OP descriptor. -/
def takeRemote (queue : BitVec 8) (d : Started) (s : State) : State :=
  submitOp (descRemote d.data) (.desc queue d.index)
    { beginDescriptor queue d.index s with obj := { (beginDescriptor queue d.index s).obj with lastIssue := queue } }

/-- REMOTE_OP (R42, R135, R387, R406): the oldest such descriptor of a queue that the FAU has not taken, when it is the
queue's turn. -/
def execRemoteOp (queue : BitVec 8) (s : State) : Host.Outcome State Fault Refusal :=
  .next <|
    match nextOfKind s queue 1 with
    | some d =>
      if !running s || !engineTurn (fun q => (nextOfKind s q 1).isSome) s.obj.lastIssue queue s then s
      else withFau (takeRemote queue d) s
    | none => s

/-! ### Fences (R373, R388) -/

/-- The fence that a descriptor names, when its context may. -/
def descFence (d : Bytes) (c : CtxId) (s : State) : Option FenceObj :=
  (findFence s (BitVec.ofNat 14 (leField d 8 2))).filter fun f => fenceNamedBy f c

/-- FENCE_SIGNAL (R373, R388): it starts once every earlier descriptor of its queue has ended. -/
def execFenceSignal (queue : BitVec 8) (s : State) : Host.Outcome State Fault Refusal :=
  .next <|
    match nextOfKind s queue 5, findQueue s queue with
    | some d, some q =>
      if !running s || !isOldest s queue d.index then s
      else
        let v : BitVec 64 := BitVec.ofNat 64 (leField d.data 16 8)
        match descFence d.data q.context s with
        | none => endDescriptor queue d.index .badParam 0 0 s
        | some f =>
          if v.toNat < f.value.toNat then endDescriptor queue d.index .badParam 0 0 s
          else raiseFence f.id v (endDescriptor queue d.index .ok 0 0 s)
    | _, _ => s

/-- FENCE_WAIT (R388): satisfied at once, or it waits on the fence. -/
def execFenceWait (queue : BitVec 8) (s : State) : Host.Outcome State Fault Refusal :=
  .next <|
    match nextOfKind s queue 6, findQueue s queue with
    | some d, some q =>
      if !running s then s
      else
        let target : BitVec 64 := BitVec.ofNat 64 (leField d.data 16 8)
        match descFence d.data q.context s with
        | none => endDescriptor queue d.index .badParam 0 0 s
        | some f =>
          if target.toNat ≤ f.value.toNat then endDescriptor queue d.index .ok 0 0 s
          else
            let w : FenceWaiter := { queue := queue, index := d.index, target := target }
            modFence f.id (fun x => { x with waits := x.waits ++ [w] }) (beginDescriptor queue d.index s)
    | _, _ => s

/-! ### Bulk copies (R389) -/

/-- The oldest started bulk copy of a queue that has begun, or may begin (R264). -/
def nextCopy (s : State) (q : BitVec 8) : Option Started :=
  match findQueue s q with
  | some x => x.started.find? fun d => descKind d.data = 7 && (d.begun || mayBegin s x)
  | none => none

/-- Whether a copy is refused for its shape: alignment, or overlapping ranges. -/
def copyBad (src dst len : Nat) : Bool :=
  src % 256 ≠ 0 || dst % 256 ≠ 0 || len % 256 ≠ 0 || (src < dst + len && dst < src + len)

/-- Copy a range through the SCE, in increasing address order (R389). -/
def copyRange (p : PolderId) (src dst len : Nat) (s : State) : State :=
  let key := polderStackKey s p
  let b := stackRead s key src len
  stackCount p dst len true (stackCount p src len false (stackWrite key dst b s))

/-- Whether a range of stack addresses leaves the address space, with its refusal under check 4 of R92. -/
def copyLeaves (c : CtxId) (p : PolderId) (addr len : Nat) (write : Bool) (s : State) : Option State :=
  if 2 ^ 40 < addr + len then some (localRefused c p addr 4 write .badParam s) else none

/-- The bytes of a bulk mover's unit (R406). -/
def moverUnit : Nat := 65536

/-- End a copy: its result is the bytes copied (R390). -/
def endCopy (queue : BitVec 8) (d : Started) (st : Status) (copied : Nat) (s : State) : State :=
  endDescriptor queue d.index st (BitVec.ofNat 64 copied) 0 s

/-- A copy's next unit has been moved: the copy ends with its last, and the mover's turn is another queue's (R389, R390,
R406). -/
def unitCopied (queue : BitVec 8) (d : Started) (len n : Nat) (s : State) : State :=
  let s := profAdd queue n 0 { s with obj := { s.obj with lastCopy := queue } }
  if d.done + n < len then
    modQueue queue (fun x => { x with started := alter (fun y => y.index = d.index) (fun y => { y with done := d.done + n }) x.started }) s
  else endCopy queue d .ok len s

/-- The next unit of a copy of some bytes: the copy is refused, or the unit waits on a fill, a key, a slice that is
gated or an access that came first to one of its data units (R42, R86, R87), or it is moved. DESIGN CHOICE: the checks
of R92 are made of each unit as it comes, so that what precedes a unit that fails has been copied
(notes/assumptions/76.md). -/
def performCopy (queue : BitVec 8) (d : Started) (c : Context) (src dst len : Nat) (s : State) : State :=
  let n := min moverUnit (len - d.done)
  let user : StackUser := .copy queue d.index
  let fail := fun (st : Status) (s : State) => endCopy queue d st d.done s
  match copyLeaves c.id c.polder src len false s with
  | some s => fail .badParam s
  | none =>
    match copyLeaves c.id c.polder dst len true s with
    | some s => fail .badParam s
    | none =>
      match localCheck user c.id c.polder (src + d.done) n false s with
      | (.fail st, s) => fail st s
      | (.wait, s) => s
      | (.ready, s) =>
        match localCheck user c.id c.polder (dst + d.done) n true s with
        | (.fail st, s) => fail st s
        | (.wait, s) => s
        | (.ready, s) => unitCopied queue d len n (copyRange c.polder (src + d.done) (dst + d.done) n s)

/-- Whether the bulk mover has a unit of a queue ready: its next copy has begun or may begin, its polder is not frozen,
and it waits for no access to the stacks (R406, R420). -/
def copyReady (s : State) (q : BitVec 8) : Bool :=
  match nextCopy s q, findQueue s q with
  | some d, some x =>
    (match findContext s x.context with | some c => !isFrozen s c.polder && !hungFor s 0x0900 (some c.id) | none => false)
      && (leField d.data 24 8 ≠ 0 || isOldest s q d.index) && !s.stack.others.any fun u => u.user = .copy q d.index
  | _, _ => false

/-- A unit of a queue's oldest copy: what is refused for its shape ends, one of zero length ends once every earlier
descriptor of its queue has (R389, R391, R406). What its accesses held up goes on after them (R87). -/
def moveUnit (queue : BitVec 8) (d : Started) (c : Context) (s : State) : State :=
  let src := leField d.data 8 5
  let dst := leField d.data 16 5
  let len := leField d.data 24 8
  if len = 0 then (if isOldest s queue d.index then endDescriptor queue d.index .ok 0 0 s else s)
  else if copyBad src dst len then endDescriptor queue d.index .badParam 0 0 s
  else settleReset c.id (resumeHeld (performCopy queue d c src dst len
    (modObj (fun o => { o with copiedAt := s.time }) (beginDescriptor queue d.index s))))

/-- BULK_COPY (R389 to R391, R406): the bulk mover moves a unit of a queue whose turn it is. -/
def execBulkCopy (queue : BitVec 8) (s : State) : Host.Outcome State Fault Refusal :=
  .next <|
    match nextCopy s queue, findQueue s queue with
    | some d, some q =>
      match findContext s q.context with
      | none => s
      | some c =>
        if !running s || isFrozen s c.polder || hungFor s 0x0900 (some c.id)
            || !engineTurn (copyReady s) s.obj.lastCopy queue s then s
        else moveUnit queue d c s
    | _, _ => s

/-! ### Steps (R286, R287, R407, R457) -/

/-- How late a context reached the boundary before its next STEP_BEGIN (R457). -/
def recordStepLate (x : Context) (h : StepHold) (s : State) : State :=
  let late := s.datum.value.toNat - h.mark.toNat
  if h.mark = 0 || late = 0 then s
  else
    let note := fun (old : Option Straggler) =>
      let y : Straggler := old.getD { lastStep := 0, late := 0, worst := 0 }
      let new : Straggler :=
        { lastStep := h.step, late := if s.regs.stragglerUs * 1000 < late then satInc y.late else y.late,
          worst := if y.worst.toNat < late then satAdd 0 late else y.worst }
      some new
    modPolder x.polder (fun p => { p with straggler := note p.straggler }) s

/-- STEP_BEGIN (R407 step 1): it holds every queue of its context; while another acts on the context it does not start.
One of a polder for which POLDER_FATAL has been raised ends ST_SQUASHED (R437). -/
def execStepBegin (queue : BitVec 8) (s : State) : Host.Outcome State Fault Refusal :=
  .next <|
    match nextOfKind s queue 4, findQueue s queue with
    | some d, some q =>
      match findContext s q.context with
      | none => s
      | some c =>
        if !running s then s
        else if isFatal s c.polder then endDescriptor queue d.index .squashed 0 0 s
        else if c.hold.isSome then s
        else
          let h : StepHold :=
            { queue := queue, index := d.index, step := BitVec.ofNat 64 (leField d.data 16 8),
              mark := BitVec.ofNat 64 (leField d.data 24 8), atBoundary := false, due := false }
          modContext c.id (fun x => { x with hold := some h }) (beginDescriptor queue d.index s)
    | _, _ => s

/-- STEP_BEGIN_BOUNDARY (R407 steps 2 to 5): every started descriptor of the context has ended; the mark is judged. A
STEP_BEGIN that finds its polder fatal while it waits ends ST_SQUASHED (R437). -/
def execStepBeginBoundary (context : CtxId) (s : State) : Host.Outcome State Fault Refusal :=
  .next <|
    match findContext s context with
    | none => s
    | some x =>
      match x.hold with
      | none => s
      | some h =>
        if !running s then s
        else if isFatal s x.polder then endHold context .squashed s
        else if h.atBoundary || !atBoundary s context then s
        else
          let s := recordStepLate x h (modContext context (fun y => { y with hold := some { h with atBoundary := true } }) s)
          if h.mark = 0 then completeStep context s
          else
            match markUse h.mark s with
            | .refused st => endHold context st s
            | .now => completeStep context (countLate h.mark s)
            | .later => enqueueMark h.mark (.stepBegin x.polder context) s

/-! ### Marks (R282, R283) -/

/-- The context that a mark's action concerns. -/
def markContext : MarkAction → Option CtxId
  | .stepBegin _ c => some c
  | _ => none

/-- What an action does when its mark fires. -/
def fireAction (a : MarkAction) (s : State) : State :=
  match a with
  | .membership p members => setMembers p members s
  | .ringCreate _ ring => activateRing ring s
  | .groupDefine p group => groupUsable p group s
  | .launch p id => fireLaunch p id s
  | .stepBegin _ c => completeStep c s
  | .ringDestroy _ ring o tag => resume (beginRingDestroy ring o tag s)
  | .chartResume p chart => resumeChart p chart s

/-- MARK_FIRE (R283): the earliest entry, once the Datum has reached its mark. -/
def execMarkFire (s : State) : Host.Outcome State Fault Refusal :=
  .next <|
    match earliestMark s with
    | none => s
    | some e =>
      if !running s || s.datum.value.toNat < e.mark.toNat then s
      else
        let s := modDatum (fun d => { d with marks := d.marks.erase e }) s
        let s := emitTrace 4 0x0401 0x0D00 (markPolder e.action) (markContext e.action)
          (leBytes 8 e.mark.toNat ++ [Config.markKind (markOrder e.action)]) s
        fireAction e.action s

end Sys2Proof.Machine
end

