-- ==== Sys2Proof/Machine/LifeCycle.lean ====
section
/-! DEFINITION. The life cycle's transitions and the debug sluice (R458 to R470, group 0x0C of R383). -/

namespace Sys2Proof.Machine

/-- Change the life-cycle state. -/
def modLc (f : LifeCycle → LifeCycle) (s : State) : State := { s with lc := f s.lc }

/-! ### Status and nonces (R458, R463) -/

/-- LC_STATUS; bad says that its frame is malformed. -/
def lcStatusCmd (bad : Bool) (o : Origin) (tag : BitVec 32) (s : State) : State :=
  runCmd { opcode := 0x0C01, pf := true, sbp := true, dbg := true } o tag false bad noCheck
    (fun s => reply o tag 0x0C01 .ok
      (leBytes 2 s.lc.code.toNat ++ [BitVec.ofNat 8 (lcNumber s.lc.state), (if s.lc.intent then 1 else 0),
        (if debugOpen s then 1 else 0)] ++ zeros 3) s) s

/-- LC_STATUS (R458). -/
def execLcStatus (o : Origin) (tag : BitVec 32) (s : State) : Host.Outcome State Fault Refusal :=
  .next (lcStatusCmd false o tag s)

/-- Whether a byte names a target of LC_CHALLENGE: a state's number, or a debug authorisation (R463). -/
def challengeTarget (t : BitVec 8) : Bool := t.toNat ≤ 4 || t = 0x10

/-- LC_CHALLENGE; bad says that its frame is malformed. -/
def lcChallengeCmd (bad : Bool) (o : Origin) (tag : BitVec 32) (target : BitVec 8) (s : State) : State :=
  runCmd { opcode := 0x0C02, sbp := true } o tag false bad
    (fun s => firstFail [(!challengeTarget target, .badParam), (!drbgAvailable s, .exhausted)])
    (fun s =>
      let value : Digest := (drbgValue s).setWidth 384
      let s := modLc (fun l => { l with nonce := some { target := target, value := value, at_ := s.time } }) (drbgDraw 48 s)
      reply o tag 0x0C02 .ok (beBytes 48 value.toNat) s) s

/-- LC_CHALLENGE (R463). -/
def execLcChallenge (o : Origin) (tag : BitVec 32) (target : BitVec 8) (s : State) : Host.Outcome State Fault Refusal :=
  .next (lcChallengeCmd false o tag target s)

/-- Whether a nonce's 60 s are over. -/
def nonceOver (n : Nonce) (s : State) : Bool := n.at_ + 60000000000 ≤ s.time

/-- NONCE_EXPIRY (R463). -/
def execNonceExpiry (s : State) : Host.Outcome State Fault Refusal :=
  .next <|
    match s.lc.nonce with
    | some n => if running s && nonceOver n s then modLc (fun l => { l with nonce := none }) s else s
    | none => s

/-- The pending nonce for a target. -/
def nonceFor (target : BitVec 8) (s : State) : Option Nonce :=
  s.lc.nonce.filter fun n => n.target = target && !nonceOver n s

/-! ### Signed responses (R464) -/

/-- The fuse slot of a key, by kind and number. -/
def fuseKeyOf (f : Fuses) (owner : Bool) (slot : Nat) : Option FuseKey := if owner then f.owner[slot]? else f.vendor[slot]?

/-- Whether a response of 196 bytes is signed as R464 asks, over the nonce, the instance, the present code and the rest. -/
def responseOk (owner : Bool) (n : Nonce) (rest r : Bytes) (s : State) : Bool :=
  let key := slice r 4 96
  let message := beBytes 48 n.value.toNat ++ beBytes 2 s.boot.instanceId.toNat ++ beBytes 2 s.lc.code.toNat ++ rest
  leField r 0 1 = (if owner then 1 else 0)
    && (match fuseKeyOf s.fuses owner (leField r 1 1) with
        | some k => keyWritten k && !k.revoked && Config.sha384 key = k.hash
        | none => false)
    && Config.ecdsaVerify (ofBytes 768 key) (Config.sha384 message) (ofBytes 768 (slice r 100 96))

/-- Whether a response has its length and its reserved bytes clear. -/
def responseShape (r : Bytes) : Bool := r.length = 196 && leField r 2 2 = 0

/-! ### Transitions (R462, R465, R466) -/

/-- The state that a number names as a target. -/
def lcTarget (n : BitVec 8) : Option LcState :=
  match n.toNat with
  | 1 => some .factory | 2 => some .field | 3 => some .analysis | 4 => some .retired | _ => none

/-- The Fuse Root Secret's programmed flag, voted: at least 5 of its 8 bits are set (R462, R524). -/
def rootProgrammed (f : Fuses) : Bool := decide (5 ≤ ((List.range 8).filter fun i => f.rootFlag.getLsbD i).length)

/-- Whether R462 permits a transition: the fuses' programmed flag is asked for FIELD, and a code slot must be free. -/
def transitionPermitted (target : LcState) (s : State) : Bool :=
  (match s.lc.state, target with
   | .blank, .factory => true
   | .factory, .field => rootProgrammed s.fuses
   | .field, .analysis => true
   | .factory, .retired | .field, .retired | .analysis, .retired => true
   | _, _ => false)
    && (emptySlot s.fuses.record).isSome

/-- Whether the authorisation of a transition is the owner's: RETIRED, when an owner slot is active. -/
def ownerSigns (target : LcState) (s : State) : Bool := target = .retired && (activeOwner s.fuses).isSome

/-- Step 1 of R465, and the start of its step 2: the intent is written, and every polder is torn down at once. -/
def startTransition (target : LcState) (o : Origin) (tag : BitVec 32) (s : State) : State :=
  let code := lcCodeFor target
  let slot := (emptySlot s.fuses.record).getD 0
  let t : Transition := { code := code, slot := slot, rootKill := killsRoot code, origin := o, tag := tag }
  let s := pend o tag 0x0C03 s
  let s : State := { s with fuses := { s.fuses with intent := blowSlot code slot s.fuses.intent } }
  let s := modLc (fun l => { l with intent := true, frozen := true, nonce := none, transition := some t }) s
  s.polders.foldl (fun t p => beginTeardown p.id true [] t) s

/-- LC_TRANSITION; bad says that its frame is malformed. -/
def lcTransitionCmd (bad : Bool) (o : Origin) (tag : BitVec 32) (target : BitVec 8) (response : Bytes) (s : State) : State :=
  let next := lcTarget target
  let permitted := fun (s : State) => match next with | some t => transitionPermitted t s | none => false
  let signed := decide (s.lc.state ≠ .blank)
  let shape : Bool := if signed then responseShape response else response.isEmpty
  let sideOnly : Bool := decide (s.lc.state = .field) && decide (next = some .analysis) && decide (o.sluice = .dbg)
  runCmd { opcode := 0x0C03, sbp := true, dbg := true } o tag sideOnly bad
    (fun s => firstFail [(!permitted s, .lcForbids), (!shape, .badParam)])
    (fun s =>
      match next with
      | none => s
      | some t =>
        if !signed then startTransition t o tag s
        else
          let ok := match nonceFor target s with
            | some n => responseOk (ownerSigns t s) n (beBytes 2 (lcCodeFor t).toNat) response s
            | none => false
          if ok then startTransition t o tag s
          else refuse o tag 0x0C03 .denied (modLc (fun l => { l with nonce := none }) s)) s

/-- LC_TRANSITION (R462 to R465). -/
def execLcTransition (o : Origin) (tag : BitVec 32) (target : BitVec 8) (response : Bytes) (s : State) :
    Host.Outcome State Fault Refusal := .next (lcTransitionCmd false o tag target response s)

/-- Step 2 of R465 once the polders are gone: key slots, stream store, extent root table, pool and sealed partition. -/
def wipe (s : State) : State :=
  eraseSealed (wipePool { s with
    cad := { s.cad with slots := [], loads := [] }
    link := { s.link with tx := [], rx := [], nextSid := [], cached := [], txWait := [], rxWait := [] }
    tray := { s.tray with extents := [], locations := [] } })

/-- LC_TRANSITION_COMPLETE (R465 steps 2 and 3): once every polder's teardown has ended. -/
def execLcTransitionComplete (s : State) : Host.Outcome State Fault Refusal :=
  .next <|
    match s.lc.transition with
    | none => s
    | some t =>
      if !running s || !s.polders.isEmpty then s
      else
        let s := wipe s
        let fuses := if t.rootKill then killRoot s.fuses else s.fuses
        let s : State := { s with fuses := { fuses with record := blowSlot t.code t.slot fuses.record } }
        finish t.origin t.tag .ok [] (modLc (fun l => { l with intent := false, transition := none }) s)

/-! ### Debug authorisations (R469, R470) -/

/-- An authorisation ends, and with it the debug sluice (R470). -/
def endAuthorisation (s : State) : State :=
  if s.lc.auth.isSome then emit .debugClosed (modLc (fun l => { l with auth := none }) s) else s

/-- Whether an authorisation has the form of R469. -/
def authorisationShape (a : Bytes) : Bool :=
  a.length = 204 && leField a 0 4 < 4 && 1 ≤ leField a 4 4 && leField a 4 4 ≤ 86400 && responseShape (a.drop 8)

/-- DEBUG_AUTHORISE; bad says that its frame is malformed. -/
def debugAuthoriseCmd (bad : Bool) (o : Origin) (tag : BitVec 32) (authorisation : Bytes) (s : State) : State :=
  let own := fun (s : State) => firstFail
    [(!authorisationShape authorisation, .badParam), ((activeOwner s.fuses).isNone, .denied),
     (s.lc.state = .field && !s.fuses.debugPolicy.getLsbD 0, .denied), (confidentialResident s, .lcForbids)]
  runCmd { opcode := 0x0C04, sbp := true, dbg := true } o tag false bad own (fun s =>
    let scope := leField authorisation 0 4
    let duration := leField authorisation 4 4
    let ok := match nonceFor 0x10 s with
      | some n => responseOk true n (beBytes 4 scope ++ beBytes 4 duration) (authorisation.drop 8) s
      | none => false
    let s := modLc (fun l => { l with nonce := none }) s
    if ok then
      let a : DebugAuth := { scope := BitVec.ofNat 32 scope, expiry := s.time + duration * 1000000000 }
      reply o tag 0x0C04 .ok [] (modLc (fun l => { l with auth := some a }) s)
    else refuse o tag 0x0C04 .denied s) s

/-- DEBUG_AUTHORISE (R469). -/
def execDebugAuthorise (o : Origin) (tag : BitVec 32) (authorisation : Bytes) (s : State) :
    Host.Outcome State Fault Refusal := .next (debugAuthoriseCmd false o tag authorisation s)

/-- DEBUG_CLOSE; bad says that its frame is malformed. -/
def debugCloseCmd (bad : Bool) (o : Origin) (tag : BitVec 32) (s : State) : State :=
  runCmd { opcode := 0x0C05, sbp := true, dbg := true } o tag false bad noCheck
    (fun s => endAuthorisation (reply o tag 0x0C05 .ok [] s)) s

/-- DEBUG_CLOSE (R470). -/
def execDebugClose (o : Origin) (tag : BitVec 32) (s : State) : Host.Outcome State Fault Refusal :=
  .next (debugCloseCmd false o tag s)

/-- AUTHORISATION_EXPIRY (R470). -/
def execAuthorisationExpiry (s : State) : Host.Outcome State Fault Refusal :=
  .next <|
    match s.lc.auth with
    | some a => if running s && a.expiry ≤ s.time then endAuthorisation s else s
    | none => s

end Sys2Proof.Machine
end

