-- ==== Sys2Proof/Machine/Identity.lean ====
section
/-! DEFINITION. The identity registers and IDENTITY_READ (R503). -/

namespace Sys2Proof.Machine

/-- A word of fields, each with its lowest bit and its value. -/
def packWord (fields : List (Nat × Nat)) : BitVec 32 :=
  fields.foldl (fun a f => a ||| BitVec.ofNat 32 (f.2 * 2 ^ f.1)) 0

/-- The value of a role (R503's role E / role S / role T). -/
def byRole (r : Role) (e s t : Nat) : Nat := match r with | .e => e | .s => s | .t => t

/-- A field that is zero until the boot has written it. -/
def written (b : Bool) (v : Nat) : Nat := if b then v else 0

/-- The key slots in state BAD (R301). -/
def badSlots (s : State) : Nat := (s.cad.slots.filter fun k => k.state = .bad).length

/-- A word of the identity registers that the boot ROM writes at ROM_START (R503). -/
def romWord (s : State) (off : Nat) : BitVec 32 :=
  let r := s.boot.role
  let rl := fun (e n t : Nat) => written s.boot.idRom (byRole r e n t)
  match off with
  | 0x18 => packWord [(0, rl 16 48 16), (8, rl 224 256 224)]
  | 0x1C => packWord [(0, rl 8 0 0), (8, rl 1600 0 0)]
  | 0x20 => packWord [(0, rl s.chip.plots 0 0)]
  | 0x24 => packWord [(0, rl 0 0 74), (8, rl 0 0 64)]
  | 0x28 => packWord [(0, rl s.chip.cores 0 0), (10, rl s.chip.vfs 0 0)]
  | 0x2C => packWord [(0, rl 64 128 64), (8, badSlots s)]
  | 0x30 => packWord [(0, rl 16 32 8), (8, rl 24 64 16), (16, rl 0 0 16)]
  | 0x34 => packWord [(0, rl 4096 0 0), (16, rl 256 0 0)]
  | 0x38 => packWord [(0, rl 512 16 16), (16, rl 8192 0 0)]
  | 0x3C => packWord [(0, rl 16384 0 0), (16, rl 16384 0 8192)]
  | 0x40 => packWord [(0, rl 16384 16384 16384), (16, rl 16384 16384 16384)]
  | 0x44 => packWord [(0, rl 4096 0 0), (16, rl 32 512 0)]
  | 0x48 => packWord [(0, rl 32 4096 0), (16, rl 4096 4096 4096)]
  | 0x4C => packWord [(0, rl 123 141 118)]
  | 0x50 => packWord [(0, written s.boot.idFirmware (poolGranules s / 16)), (16, rl 1600 s.chip.poolGbs 512)]
  | _ => 0

/-- A word of the identity registers (R503); a reserved one reads zero (R9). -/
def identityWord (s : State) (off : Nat) : BitVec 32 :=
  match off with
  | 0x00 => packWord [(0, 0x4F48), (16, 0x0B02)]
  | 0x04 => packWord [(0, 0xA1), (8, if s.boot.strapInvalid then 3 else roleCode s.boot.role)]
  | 0x08 => Config.romVersion
  | 0x0C => packWord [(0, s.boot.instanceId.toNat)]
  | 0x10 =>
    packWord [(0, written s.boot.idFirmware s.boot.ifMinor.toNat), (16, written s.boot.idFirmware s.boot.ifMajor.toNat)]
  | 0x14 =>
    packWord [(0, written s.boot.idImage (s.boot.svn.toNat % 256)), (8, written s.boot.idImage s.boot.svnFuse)]
  | _ => romWord s off

/-- Bytes 0x00 to 0xFF of the identity registers. -/
def identityBytes (s : State) : Bytes := (List.range 64).flatMap fun i => leBytes 4 (identityWord s (4 * i)).toNat

/-- IDENTITY_READ; bad says that its frame is malformed. -/
def identityReadCmd (bad : Bool) (o : Origin) (tag : BitVec 32) (s : State) : State :=
  runCmd { opcode := 0x0F01, pf := true, vf := true, sbp := true, fm := true, dbg := true } o tag false bad noCheck
    (fun s => reply o tag 0x0F01 .ok (identityBytes s) s) s

/-- IDENTITY_READ (R503, R383). -/
def execIdentityRead (o : Origin) (tag : BitVec 32) (s : State) : Host.Outcome State Fault Refusal :=
  .next (identityReadCmd false o tag s)

end Sys2Proof.Machine
end

