-- ==== Sys2Proof/Machine/Spdm.lean ====
section
/-! DEFINITION. The SPDM responder: versions, certificates, measurements, hybrid key exchange, sessions and chunks (R337 to
R342). The codes of requests, responses and errors are those of DSP0274, which R337 names. -/

namespace Sys2Proof.Machine

/-- ERROR with its code and data. -/
def spdmError (code data : Byte) : SpdmAnswer := (0x7F, [code, data])

/-- ERROR InvalidRequest. -/
def invalidRequest : SpdmAnswer := spdmError 0x01 0
/-- ERROR InvalidSession. -/
def invalidSession : SpdmAnswer := spdmError 0x02 0
/-- ERROR Busy. -/
def spdmBusy : SpdmAnswer := spdmError 0x03 0
/-- ERROR UnexpectedRequest. -/
def unexpectedRequest : SpdmAnswer := spdmError 0x04 0
/-- ERROR DecryptError. -/
def decryptError : SpdmAnswer := spdmError 0x06 0

/-- Not a message: the request needs a draw that the DRBG cannot give, and ends with ST_EXHAUSTED (R320). No response of
SPDM has the code 0. -/
def noDraw : SpdmAnswer := (0, [])

/-- Whether a sluice carries SPDM: the VF's, the side-band's and the fabric manager's (R337). -/
def carriesSpdm (s : State) : Sluice → Bool
  | .vf n => windowOpen s (fnOf n)
  | .sb | .fm => running s
  | _ => false

/-! ### Responses -/

/-- Write a frame that answers a request which was no Warden command into a function's mailbox, if the sluice has one. -/
def answerFrame (sl : Sluice) (kind : Byte) (tag : BitVec 32) (st : Status) (payload : Bytes) (s : State) : State :=
  match sluiceFn sl with
  | none => s
  | some fn => writeResponse fn (frameHeader kind (statusCode st) 0 tag payload.length ++ payload) s

/-- A request ends with a status and no message. -/
def endRequest (sl : Sluice) (session : Option (BitVec 32)) (st : Status) (s : State) : State :=
  answerFrame sl (if session.isSome then 2 else 1) (requestTag sl s) st []
    (emit (.response { sluice := sl, session := session } (requestTag sl s) 0 st []) s)

/-- Send a response: in the clear, or as a record of its session, sealed by a job of class 2. A record that the
session's sequence number allows no more is ST_EXHAUSTED whole, and so is a request without its draw (R308, R312, R317,
R320, R357). -/
def sendSpdm (sl : Sluice) (session : Option (BitVec 32)) (a : SpdmAnswer) (s : State) : State :=
  let tag := requestTag sl s
  if a = noDraw then endRequest sl session .exhausted s
  else
    match session.bind fun n => s.spdm.sessions.find? fun x => x.id = n && x.sluice = sl with
    | none => answerFrame sl 1 tag .ok (spdmBytes a) (emit (.spdm sl a.1 a.2) s)
    | some x =>
      if x.txSeq = BitVec.allOnes 64 then endRequest sl session .exhausted s
      else
        answerFrame sl 2 tag .ok (Config.spdmSeal x.txKey x.txSeq x.id (spdmBytes a))
          (modSession x.id (fun x => { x with txSeq := x.txSeq + 1 })
            (inlineJob (recordJob x.id x.txKey (spdmBytes a).length) none (emit (.spdm sl a.1 a.2) s)).2)

/-- The status that ends a request before it is looked at: on the debug sluice ST_LC_FORBIDS while debug is closed, else
ST_DENIED, as it carries no SPDM; on a VF's and the fabric manager's sluice ST_BUSY before READY; on the side-band
ST_LC_FORBIDS in HALTED and ST_BUSY in RECOVERY (R2, R329, R330, R337, R350, R379). -/
def spdmClosed (sl : Sluice) (s : State) : Option Status :=
  match sl with
  | .dbg => if debugOpen s then some .denied else some .lcForbids
  | .pf => if isReady s then some .denied else some .busy
  | .vf _ | .fm => if isReady s then none else some .busy
  | .sb =>
    if s.boot.stage = .halted then some .lcForbids
    else if s.boot.stage = .recovery then some .busy
    else none

/-- Whether a sluice's frames reach the Warden. -/
def sluiceOpen (s : State) (sl : Sluice) : Bool :=
  running s && match sl with | .vf n => windowOpen s (fnOf n) | _ => true

/-- Handle a request: one that its sluice does not take ends with a status, and before READY the responder on the
side-band is busy (R329). -/
def runSpdm (sl : Sluice) (session : Option (BitVec 32)) (f : State → SpdmAnswer × State) (s : State) : State :=
  if !sluiceOpen s sl then s
  else
    match spdmClosed sl s with
    | some st => endRequest sl session st s
    | none =>
      if !isReady s then sendSpdm sl session spdmBusy s
      else
        let r := f s
        let c := chunkAnswer sl r.1 r.2
        sendSpdm sl session c.1 c.2

/-- A request that asks for negotiated algorithms first. -/
def negotiated (sl : Sluice) (f : State → SpdmAnswer × State) (s : State) : SpdmAnswer × State :=
  if s.spdm.negotiated.contains sl then f s else (unexpectedRequest, s)

/-- A request of a session. -/
def inSession (sl : Sluice) (session : Option (BitVec 32)) (f : Session → State → SpdmAnswer × State) (s : State) :
    SpdmAnswer × State :=
  match session.bind fun n => s.spdm.sessions.find? fun x => x.id = n && x.sluice = sl with
  | some x => f x s
  | none => (invalidSession, s)

/-- End a session (R341, R357). -/
def dropSession (id : BitVec 32) (sl : Sluice) (s : State) : State :=
  modSpdm (fun x => { x with sessions := x.sessions.filter fun y => !(y.id = id && y.sluice = sl) }) s

/-! ### Connection (R337, R338) -/

/-- VERSION: 1.3 alone; negotiation and the transcript start anew. -/
def spdmVersion (sl : Sluice) (s : State) : SpdmAnswer × State :=
  ((0x04, [0, 0, 0, 1, 0x00, 0x13]), modSpdm (fun x => { x with
    negotiated := x.negotiated.filter (· ≠ sl), transcript := assocDel sl x.transcript }) s)

/-- The capability flags of R338, at the bits DSP0274 gives them. -/
def spdmFlags : Nat := 0x000263F6

/-- CAPABILITIES: the flags and the chunk size. -/
def spdmCapabilities (s : State) : SpdmAnswer × State :=
  ((0x61, zeros 6 ++ leBytes 4 spdmFlags ++ leBytes 4 1024 ++ leBytes 4 65536), s)

/-- The algorithm of each parameter, which alone the block negotiates (R337). -/
def chosenAlgorithms : List (SpdmParameter × SpdmAlgorithm) :=
  [(.baseHash, .sha384), (.measurementHash, .sha384), (.baseAsym, .ecdsaP384), (.dhe, .secp384r1), (.aead, .aes256Gcm),
   (.keySchedule, .spdmSchedule), (.measurementSpec, .dmtf), (.opaqueFormat, .generalOpaque)]

/-- What the block selects from a request: its algorithm of each parameter, where the request offers it (R337). -/
def selection (request : Bytes) : List (SpdmParameter × Option SpdmAlgorithm) :=
  chosenAlgorithms.map fun x => (x.1, if (Config.spdmOffers request x.1).contains x.2 then some x.2 else none)

/-- Whether a request offers every algorithm of R337. -/
def agrees (request : Bytes) : Bool := (selection request).all fun x => x.2.isSome

/-- ALGORITHMS: a request that offers all of R337 negotiates them. -/
def spdmAlgorithms (sl : Sluice) (request : Bytes) (s : State) : SpdmAnswer × State :=
  let rest := s.spdm.negotiated.filter (· ≠ sl)
  ((0x63, Config.spdmSelection (selection request)),
    modSpdm (fun x => { x with negotiated := if agrees request then rest ++ [sl] else rest }) s)

/-! ### Certificates, challenges and measurements -/

/-- The certificate chain of a slot (R334). -/
def certificate (s : State) (slot : Nat) : Bytes := (s.boot.certificates.lookup slot).getD []

/-- DIGESTS of slots 0 and 1. -/
def spdmDigests (s : State) : SpdmAnswer × State :=
  ((0x01, [0x03, 0x03] ++ beBytes 48 (Config.sha384 (certificate s 0)).toNat
    ++ beBytes 48 (Config.sha384 (certificate s 1)).toNat), s)

/-- CERTIFICATE: a portion of a slot's chain, with what remains. -/
def spdmCertificate (slot : BitVec 8) (offset length : Nat) (s : State) : SpdmAnswer × State :=
  let chain := certificate s slot.toNat
  if 1 < slot.toNat || chain.length < offset then (invalidRequest, s)
  else
    let part := slice chain offset (min length 65535)
    ((0x02, [slot, 0] ++ leBytes 2 part.length ++ leBytes 2 (chain.length - offset - part.length) ++ part), s)

/-- The bytes of the messages in the clear on a sluice since GET_VERSION. -/
def transcriptOf (s : State) (sl : Sluice) : Bytes := assocGet sl [] s.spdm.transcript

/-- Sign a response with the alias ECDSA key. The signature covers the hash of the messages before it, the request, with
its nonce or its KEM hash, and the response up to the signature; PQ_SIGNATURE may sign the same hash again (R338 to
R340). PRESUMED: which messages DSP0274 has enter a hash is not in the spec; all of them since GET_VERSION do
(notes/assumptions/77.md). -/
def signTranscript (sl : Sluice) (r : SpdmRequest) (a : SpdmAnswer) (s : State) : Bytes × Digest × State :=
  let hash : Digest := Config.sha384 (transcriptOf s sl ++ Config.spdmEncode r ++ spdmBytes a)
  (beBytes 96 (Config.ecdsaSign s.boot.aliasSeed hash).toNat, hash,
    modSpdm (fun x => { x with lastSigned := assocSet sl hash x.lastSigned }) s)

/-- Handle a request in the clear whose bytes enter the sluice's transcript, with those of its response (R338). -/
def noted (sl : Sluice) (session : Option (BitVec 32)) (r : SpdmRequest) (f : State → SpdmAnswer × State) (s : State) :
    SpdmAnswer × State :=
  let x := f s
  if session.isSome || x.1 = noDraw then x
  else
    (x.1, modSpdm (fun y => { y with
      transcript := assocSet sl (transcriptOf x.2 sl ++ Config.spdmEncode r ++ spdmBytes x.1) y.transcript }) x.2)

/-- A responder nonce of 32 bytes. -/
def drawNonce (s : State) : Bytes × State := (beBytes 32 ((drbgValue s).setWidth 256).toNat, drbgDraw 32 s)

/-- CHALLENGE_AUTH, signed by the alias ECDSA key. -/
def spdmChallenge (sl : Sluice) (slot : BitVec 8) (nonce : BitVec 256) (s : State) : SpdmAnswer × State :=
  if 1 < slot.toNat then (invalidRequest, s)
  else if !drbgAvailable s then (noDraw, s)
  else
    let n := drawNonce s
    let body := [slot, 0x03] ++ beBytes 48 (Config.sha384 (certificate s slot.toNat)).toNat ++ n.1 ++ zeros 2
    let g := signTranscript sl (.challenge slot nonce) (0x03, body) n.2
    ((0x03, body ++ g.1), g.2.2)

/-- A measurement block: index, specification, and the entry's kind and digest (R335, R338). -/
def measurementBlock (e : SurveyEntry) : Bytes :=
  [BitVec.ofNat 8 (e.index + 1), 0x01] ++ leBytes 2 51 ++ [e.kind] ++ leBytes 2 48 ++ beBytes 48 e.digest.toNat

/-- The survey entries that a measurement index names: 0xFF every written one, k + 1 entry k; index 0 asks for their
number alone. -/
def measured (s : State) (index : BitVec 8) : Option (List SurveyEntry) :=
  let all := s.boot.survey.filter fun e => e.index ≤ 253
  if index = 0xFF then some all
  else if index = 0 then some []
  else (all.find? fun e => e.index + 1 = index.toNat).map fun e => [e]

/-- MEASUREMENTS, signed on request, with the requester's nonce under the signature. -/
def spdmMeasurements (sl : Sluice) (index : BitVec 8) (signed : Bool) (nonce : BitVec 256) (s : State) : SpdmAnswer × State :=
  match measured s index with
  | none => (invalidRequest, s)
  | some l =>
    if !drbgAvailable s then (noDraw, s)
    else
      let n := drawNonce s
      let total := if index = 0 then (s.boot.survey.filter fun e => e.index ≤ 253).length else 0
      let record := l.flatMap measurementBlock
      let body := [BitVec.ofNat 8 total, 0, BitVec.ofNat 8 l.length] ++ leBytes 3 record.length ++ record ++ n.1 ++ zeros 2
      if signed then
        let g := signTranscript sl (.getMeasurements index signed nonce) (0x60, body) n.2
        ((0x60, body ++ g.1), g.2.2)
      else ((0x60, body), n.2)

/-- PQ_SIGNATURE over the hash that the preceding signed response covers (R340). -/
def spdmPqSignature (sl : Sluice) (s : State) : SpdmAnswer × State :=
  match s.spdm.lastSigned.lookup sl with
  | none => (invalidRequest, s)
  | some h => (wrapped (Config.mldsaSign s.boot.aliasPqSeed h), s)

/-! ### Key exchange and sessions (R339, R341, R342) -/

/-- KEM_OFFER: the secret is encapsulated, and the offer is pending for one KEY_EXCHANGE, or 10 s. -/
def spdmKemOffer (sl : Sluice) (key : Bytes) (s : State) : SpdmAnswer × State :=
  if key.length ≠ 1568 then (invalidRequest, s)
  else if !drbgAvailable s then (noDraw, s)
  else
    let r : BitVec 256 := (drbgValue s).setWidth 256
    let ct := Config.mlkemCiphertext key r
    let offer : KemOffer :=
      { sluice := sl, hash := Config.sha384 key, answer := Config.sha384 ct, secret := Config.mlkemSecret key r, at_ := s.time }
    (wrapped ct, modSpdm (fun x => { x with offers := upsert (fun y => y.sluice = sl) offer x.offers }) (drbgDraw 32 s))

/-- Whether an offer's 10 s are over. -/
def offerOver (k : KemOffer) (s : State) : Bool := k.at_ + 10000000000 ≤ s.time

/-- The sessions a sluice may hold (R341). -/
def sessionLimit : Sluice → Nat
  | .vf _ => 2 | .sb => 4 | .fm => 4 | _ => 0

/-- A session ID that no session has: the requester's half below, the lowest free number above. -/
def newSessionId (half : BitVec 16) (s : State) : BitVec 32 :=
  let id := fun (n : Nat) => BitVec.ofNat 32 (half.toNat + 65536 * n)
  id ((leastBelow 65536 fun n => !(s.spdm.sessions.any fun x => x.id = id n)).getD 0)

/-- KEY_EXCHANGE: the ECDH and ML-KEM secrets together make the session's keys; the pending offer is spent (R339). -/
def spdmKeyExchange (sl : Sluice) (half : BitVec 16) (share : Bytes) (kemHash : Digest) (wantMutual : Bool) (s : State) :
    SpdmAnswer × State :=
  let offer := (s.spdm.offers.find? fun k => k.sluice = sl).filter fun k => !offerOver k s
  let s := modSpdm (fun x => { x with offers := x.offers.filter fun k => k.sluice ≠ sl }) s
  match offer with
  | none => (invalidRequest, s)
  | some k =>
    if k.hash ≠ kemHash then (invalidRequest, s)
    else if sessionLimit sl ≤ (s.spdm.sessions.filter fun x => x.sluice = sl).length then (spdmBusy, s)
    else if !drbgAvailable s then (noDraw, s)
    else
      let e : BitVec 256 := (drbgValue s).setWidth 256
      let id := newSessionId half s
      let body := zeros 2 ++ leBytes 2 (id.toNat / 65536) ++ [if wantMutual then 1 else 0, 0] ++ Config.ecdhPublic e
        ++ beBytes 48 k.answer.toNat
      let g := signTranscript sl (.keyExchange half share kemHash wantMutual) (0x64, body) (drbgDraw 32 s)
      let secret := beBytes 48 (Config.ecdhSecret e share).toNat ++ keyBytes k.secret
      let keys := Config.spdmKeys g.2.1 secret
      let x : Session :=
        { id := id, sluice := sl, stage := .handshake, wantMutual := wantMutual, mutual_ := false, identity := none,
          fabricKey := false, transcript := g.2.1, chain := [], rxKey := keys.1, txKey := keys.2, rxSeq := 0, txSeq := 0,
          asked := 0 }
      let verify := beBytes 48 (Config.spdmVerify keys.2 g.2.1).toNat
      ((0x64, body ++ g.1 ++ verify),
        modSpdm (fun y => { y with sessions := y.sessions ++ [x] }) g.2.2)

/-- The next encapsulated request to a requester: its digests, its certificate chain, then its signature (R338). -/
def encapsulated (asked : Nat) : Bytes :=
  match asked with
  | 0 => [0x13, 0x81, 0, 0] | 1 => [0x13, 0x82, 0, 0] | 2 => [0x13, 0x83, 0, 0] | _ => []

/-- GET_ENCAPSULATED_REQUEST: while mutual authentication is wanted and not complete, the next request. -/
def spdmNextRequest (x : Session) (s : State) : SpdmAnswer × State :=
  if !x.wantMutual || x.stage = .established || 3 ≤ x.asked then (unexpectedRequest, s)
  else
    ((0x6A, [BitVec.ofNat 8 (x.asked + 1), 0] ++ encapsulated x.asked),
      modSession x.id (fun x => { x with stage := .encapsulated, asked := x.asked + 1 }) s)

/-- DELIVER_ENCAPSULATED_RESPONSE: a chain is kept; a signature that verifies under it authenticates the requester, and
one that does not ends the session (R338, R342, R343). -/
def spdmDelivered (x : Session) (chain signature : Bytes) (s : State) : SpdmAnswer × State :=
  if x.stage ≠ .encapsulated then (unexpectedRequest, s)
  else
    let chain := if chain.isEmpty then x.chain else chain
    let s := modSession x.id (fun x => { x with chain := chain }) s
    let ack : SpdmAnswer := (0x6B, [BitVec.ofNat 8 x.asked, 0] ++ (if x.asked < 3 then encapsulated x.asked else []))
    if signature.isEmpty then (ack, modSession x.id (fun x => { x with asked := min 3 (x.asked + 1) }) s)
    else if !Config.chainSigned chain signature x.transcript then (decryptError, dropSession x.id x.sluice s)
    else
      ((0x6B, zeros 2), modSession x.id (fun y => { y with
        mutual_ := true, identity := some (Config.chainLeaf chain), asked := 3
        fabricKey := Config.chainEndsIn chain s.owner.fmKey }) s)

/-- FINISH: a right Finished value completes the session, if mutual authentication is not still wanted; a wrong one ends
it. The data phase has keys and sequence numbers of its own. -/
def spdmFinish (x : Session) (verify : Digest) (s : State) : SpdmAnswer × State :=
  if x.stage = .established || (x.wantMutual && !x.mutual_) then (unexpectedRequest, s)
  else if verify ≠ Config.spdmFinished x.rxKey x.transcript then (decryptError, dropSession x.id x.sluice s)
  else
    ((0x65, zeros 2), modSession x.id (fun y => { y with
      stage := .established, rxKey := Config.spdmData y.rxKey y.transcript, txKey := Config.spdmData y.txKey y.transcript
      rxSeq := 0, txSeq := 0 }) s)

/-- HEARTBEAT. -/
def spdmHeartbeat (x : Session) (s : State) : SpdmAnswer × State :=
  if x.stage = .established then ((0x68, zeros 2), s) else (unexpectedRequest, s)

/-- KEY_UPDATE: the requester's key, or both, are replaced and their sequence numbers restart (R317). -/
def spdmKeyUpdate (x : Session) (both : Bool) (s : State) : SpdmAnswer × State :=
  if x.stage ≠ .established then (unexpectedRequest, s)
  else
    ((0x69, [if both then 2 else 1, 0]), modSession x.id (fun y =>
      let y := { y with rxKey := Config.spdmUpdate y.rxKey, rxSeq := 0 }
      if both then { y with txKey := Config.spdmUpdate y.txKey, txSeq := 0 } else y) s)

/-- The answer to END_SESSION; the session ends once it has been sent. -/
def spdmEnded (_ : Session) (s : State) : SpdmAnswer × State := ((0x6C, zeros 2), s)

/-- END_SESSION. -/
def endSessionSpdm (sl : Sluice) (session : Option (BitVec 32)) (s : State) : State :=
  let t := runSpdm sl session (inSession sl session spdmEnded) s
  match session with
  | some n => if isReady s then dropSession n sl t else t
  | none => t

/-! ### Chunks (R338, R354) -/

/-- CHUNK_GET: 1,024 bytes of a kept response; its last chunk releases it. -/
def spdmChunkGet (sl : Sluice) (handle : BitVec 8) (seq : BitVec 16) (s : State) : SpdmAnswer × State :=
  match s.spdm.chunksOut.lookup (sl, handle) with
  | none => (invalidRequest, s)
  | some m =>
    let off := seq.toNat * 1024
    let last : Bool := m.length ≤ off + 1024
    if m.length ≤ off then (invalidRequest, s)
    else
      let part := slice m off 1024
      ((0x06, [if last then 1 else 0, handle] ++ leBytes 2 seq.toNat ++ zeros 2 ++ leBytes 4 part.length ++ part),
        if last then modSpdm (fun x => { x with chunksOut := assocDel (sl, handle) x.chunksOut }) s else s)

/-- The parts of a request received so far under a handle. -/
def chunksOf (sl : Sluice) (handle : BitVec 8) (s : State) : Bytes := assocGet (sl, handle) [] s.spdm.chunksIn

/-- CHUNK_SEND of a part: kept, and acknowledged. -/
def spdmChunkSend (sl : Sluice) (handle : BitVec 8) (last : Bool) (data : Bytes) (s : State) : SpdmAnswer × State :=
  if 1024 < data.length then (invalidRequest, s)
  else
    let all := chunksOf sl handle s ++ data
    ((0x05, [0, handle]), modSpdm (fun x => { x with
      chunksIn := if last then assocDel (sl, handle) x.chunksIn else assocSet (sl, handle) all x.chunksIn }) s)

end Sys2Proof.Machine
end

