-- ==== Sys2Proof/Machine/Frames.lean ====
section
/-! DEFINITION. Frames: how the payload of a Warden command is read (R378, R383), the mailbox, fetches and secured records
(R352 to R357), and the SPDM rows. -/

namespace Sys2Proof.Machine

/-! ### The fields of a payload (R378) -/

/-- A one-byte field. -/
def at8 (p : Bytes) (off : Nat) : BitVec 8 := BitVec.ofNat 8 (leField p off 1)
/-- A two-byte field. -/
def at16 (p : Bytes) (off : Nat) : BitVec 16 := BitVec.ofNat 16 (leField p off 2)
/-- A four-byte field. -/
def at32 (p : Bytes) (off : Nat) : BitVec 32 := BitVec.ofNat 32 (leField p off 4)
/-- An eight-byte field. -/
def at64 (p : Bytes) (off : Nat) : BitVec 64 := BitVec.ofNat 64 (leField p off 8)
/-- A list of 8,192 bits. -/
def at8192 (p : Bytes) (off : Nat) : BitVec 8192 := BitVec.ofNat 8192 (leField p off 1024)

/-- Whether a frame is malformed: already, by the payload's length, or by a reserved range that is not zero (R10). -/
def shape (bad : Bool) (p : Bytes) (len : Nat) (reserved : List (Nat × Nat)) : Bool :=
  bad || p.length ≠ len || reserved.any fun r => leField p r.1 r.2 ≠ 0

/-- n two-byte entries from an offset on. -/
def entries16 (p : Bytes) (off n : Nat) : List (BitVec 16) := (List.range n).map fun i => at16 p (off + 2 * i)

/-! ### Warden commands by group (R383) -/

/-- An opcode that no table assigns (R379 check 1). -/
def unassigned (o : Origin) (tag : BitVec 32) (opcode : BitVec 16) (s : State) : State :=
  if !running s then s
  else if o.sluice = .dbg && !debugOpen s then refuse o tag opcode .lcForbids s
  else if s.lc.frozen then refuse o tag opcode .lcForbids s
  else if o.sluice = .sb && s.boot.stage = .halted then refuse o tag opcode .lcForbids s
  else if shutSluice o opcode s then refuse o tag opcode .busy s
  else refuse o tag opcode .badParam s

/-- Group 0x01. -/
def polderFrame (low : Nat) (o : Origin) (tag : BitVec 32) (bad : Bool) (p : Bytes) (s : State) : State :=
  let id := at16 p 0
  match low with
  | 0x01 => polderProvisionCmd (shape bad p 64 [(35, 29)]) o tag id (at8 p 2) (ofBytes 256 (slice p 3 32)) s
  | 0x02 => polderMembershipCmd (shape bad p 1040 [(2, 6)]) o tag id (at64 p 8) (at8192 p 16) s
  | 0x03 => polderTeardownCmd (shape bad p 4 [(2, 2)]) o tag id s
  | 0x04 => polderListCmd (shape bad p 4 [(2, 2)]) o tag id s
  | n => unassigned o tag (BitVec.ofNat 16 (0x0100 + n)) s

/-- Group 0x02. -/
def keyFrame (low : Nat) (o : Origin) (tag : BitVec 32) (bad : Bool) (p : Bytes) (s : State) : State :=
  match low with
  | 0x01 => keySlotPinCmd (shape bad p 4 [(2, 2)]) o tag (at16 p 0) s
  | 0x02 => keySlotUnpinCmd (shape bad p 4 [(2, 2)]) o tag (at16 p 0) s
  | 0x03 => keySlotStatusCmd (shape bad p 4 [(1, 3)]) o tag (at8 p 0) s
  | n => unassigned o tag (BitVec.ofNat 16 (0x0200 + n)) s

/-- Group 0x03. -/
def plotFrame (low : Nat) (o : Origin) (tag : BitVec 32) (bad : Bool) (p : Bytes) (s : State) : State :=
  let id := at16 p 0
  match low with
  | 0x01 =>
    let high : Bool := 4 ≤ leField p 8 1 || 16 ≤ leField p 9 1
    plotAssignCmd (shape bad p 12 [(7, 1), (10, 2)] || high) o tag id (at16 p 2) (BitVec.ofNat 24 (leField p 4 3))
      ((at8 p 8).getLsbD 0) ((at8 p 8).getLsbD 1) ((at8 p 9).setWidth 4) s
  | 0x02 => plotReleaseCmd (shape bad p 4 [(2, 2)]) o tag id s
  | 0x03 => plotQueryCmd (shape bad p 4 [(2, 2)]) o tag id s
  | 0x04 => memobjCreateCmd (shape bad p 4 [(2, 2)]) o tag id s
  | 0x05 => memobjFreeCmd (shape bad p 4 [(2, 2)]) o tag id s
  | n => unassigned o tag (BitVec.ofNat 16 (0x0300 + n)) s

/-- Group 0x04. -/
def objectFrame (low : Nat) (o : Origin) (tag : BitVec 32) (bad : Bool) (p : Bytes) (s : State) : State :=
  let id := at16 p 0
  match low with
  | 0x01 => contextCreateCmd (shape bad p 68 [(3, 1)]) o tag id (at8 p 2) (BitVec.ofNat 512 (leField p 4 64)) s
  | 0x02 => contextDestroyCmd (shape bad p 4 [(2, 2)]) o tag id s
  | 0x03 => queueCreateCmd (shape bad p 16 [(6, 2)]) o tag id (at16 p 2) (at16 p 4) (at64 p 8) s
  | 0x04 => queueDestroyCmd (shape bad p 4 [(1, 3)]) o tag (at8 p 0) s
  | 0x05 => eventRingCreateCmd (shape bad p 16 [(6, 2)]) o tag (at32 p 0) (at16 p 4) (at64 p 8) s
  | 0x06 => eventRingDestroyCmd (shape bad p 4 [(2, 2)]) o tag id s
  | 0x07 => fenceCreateCmd (shape bad p 4 [(2, 2)]) o tag id s
  | 0x08 => fenceShareCmd (shape bad p 4 []) o tag id (at16 p 2) s
  | 0x09 => fenceDestroyCmd (shape bad p 4 [(2, 2)]) o tag id s
  | n => unassigned o tag (BitVec.ofNat 16 (0x0400 + n)) s

/-- Group 0x05. -/
def regionFrame (low : Nat) (o : Origin) (tag : BitVec 32) (bad : Bool) (p : Bytes) (s : State) : State :=
  match low with
  | 0x01 =>
    let n := leField p 24 2
    regionExportCmd (shape bad p (32 + 2 * n) [(26, 6)]) o tag (at16 p 0) (at8 p 2) (at8 p 3) (at32 p 4) (at64 p 8)
      (at32 p 16) (at16 p 20) (at8 p 22) (at8 p 23) (entries16 p 32 (min n ((p.length - 32) / 2))) s
  | 0x02 => regionWithdrawCmd (shape bad p 4 []) o tag (at32 p 0) s
  | 0x03 => regionQueryCmd (shape bad p 4 [(2, 2)]) o tag (at16 p 0) s
  | n => unassigned o tag (BitVec.ofNat 16 (0x0500 + n)) s

/-- Group 0x06. -/
def extentFrame (low : Nat) (o : Origin) (tag : BitVec 32) (bad : Bool) (p : Bytes) (s : State) : State :=
  let id := at16 p 0
  match low with
  | 0x01 => extentGrantCmd (shape bad p 8 [(7, 1)]) o tag id (at16 p 2) (at16 p 4) (at8 p 6) s
  | 0x02 => extentRenewCmd (shape bad p 8 [(6, 2)]) o tag id (at16 p 2) (at16 p 4) s
  | 0x03 => extentHandoverCmd (shape bad p 8 []) o tag id (at16 p 2) (at16 p 4) (at16 p 6) s
  | 0x04 => extentRevokeCmd (shape bad p 4 [(2, 2)]) o tag id s
  | 0x05 => extentRekeyCmd (shape bad p 4 [(2, 2)]) o tag id s
  | 0x06 => extentHintCmd (shape bad p 4 [(3, 1)]) o tag id (at8 p 2) s
  | 0x07 => trayRebuildRateCmd (shape bad p 4 [(1, 3)]) o tag (at8 p 0) s
  | 0x08 => extentStatusCmd (shape bad p 4 [(2, 2)]) o tag id s
  | 0x09 => trayStatusCmd (shape bad p 0 []) o tag s
  | n => unassigned o tag (BitVec.ofNat 16 (0x0600 + n)) s

/-- Group 0x07; in RING_CREATE the member places beyond n_members are reserved. -/
def groupFrame (low : Nat) (o : Origin) (tag : BitVec 32) (bad : Bool) (p : Bytes) (s : State) : State :=
  match low with
  | 0x01 =>
    let d := p.drop 16
    collectiveGroupDefineCmd (shape bad p (16 + leField p 8 4) [(12, 4)]) o tag (at64 p 0) d s
  | 0x02 => collectiveGroupDestroyCmd (shape bad p 4 []) o tag (at16 p 0) (at16 p 2) s
  | 0x03 => groupQueryCmd (shape bad p 4 []) o tag (at16 p 0) (at16 p 2) s
  | 0x04 =>
    let n := leField p 4 1
    let k := leField p 6 2
    let all := entries16 p 16 8
    let odd : Bool := 8 < n || (all.drop n).any (fun m => m ≠ 0) || all.any fun m => 8192 ≤ m.toNat
    ringCreateCmd (shape bad p (32 + 2 * k) [] || odd) o tag (at16 p 0) (at16 p 2)
      ((all.take n).map fun m => m.setWidth 13) (at8 p 5) (entries16 p 32 (min k ((p.length - 32) / 2))) (at64 p 8) s
  | 0x05 => ringMemberDeadCmd (shape bad p 4 []) o tag (at16 p 0) (at16 p 2) s
  | 0x06 => ringDestroyCmd (shape bad p 16 [(2, 6)]) o tag (at16 p 0) (at64 p 8) s
  | 0x07 =>
    mcastGroupJoinCmd (shape bad p 1028 [] || decide (8192 ≤ leField p 2 2)) o tag (at16 p 0) ((at16 p 2).setWidth 13)
      (at8192 p 4) s
  | 0x08 =>
    mcastGroupLeaveCmd (shape bad p 4 [] || decide (8192 ≤ leField p 2 2)) o tag (at16 p 0) ((at16 p 2).setWidth 13) s
  | n => unassigned o tag (BitVec.ofNat 16 (0x0700 + n)) s

/-- Group 0x08. -/
def syncFrame (low : Nat) (o : Origin) (tag : BitVec 32) (bad : Bool) (p : Bytes) (s : State) : State :=
  match low with
  | 0x01 => datumConfigCmd (shape bad p 4 [(2, 2)]) o tag (at8 p 0) (at8 p 1) s
  | 0x02 => datumStatusCmd (shape bad p 0 []) o tag s
  | 0x03 => syncCounterReadCmd (shape bad p 4 [(2, 2)]) o tag (at16 p 0) s
  | 0x04 => contextStepReadCmd (shape bad p 4 [(2, 2)]) o tag (at16 p 0) s
  | 0x05 => markQueueStatusCmd (shape bad p 0 []) o tag s
  | n => unassigned o tag (BitVec.ofNat 16 (0x0800 + n)) s

/-- Group 0x09. -/
def chartFrame (low : Nat) (o : Origin) (tag : BitVec 32) (bad : Bool) (p : Bytes) (s : State) : State :=
  let id := at16 p 0
  match low with
  | 0x01 => chartExportCmd (shape bad p 32 [(2, 2)]) o tag id (at32 p 4) (at64 p 8) (at64 p 16) (at64 p 24) s
  | 0x02 => chartImportCmd (shape bad p 24 []) o tag id (at16 p 2) (at32 p 4) (at64 p 8) (at64 p 16) s
  | 0x03 => chartResumeCmd (shape bad p 16 [(2, 2)]) o tag id (at32 p 4) (at64 p 8) s
  | 0x04 => chartDiscardCmd (shape bad p 8 [(2, 2)]) o tag id (at32 p 4) s
  | n => unassigned o tag (BitVec.ofNat 16 (0x0900 + n)) s

/-- Group 0x0A. -/
def weirFrame (low : Nat) (o : Origin) (tag : BitVec 32) (bad : Bool) (p : Bytes) (s : State) : State :=
  match low with
  | 0x01 => weirConfigCmd (shape bad p 36 [(1, 3)]) o tag (at8 p 0) (entries16 p 4 16) s
  | 0x02 => weirStatusCmd (shape bad p 4 [(1, 3)]) o tag (at8 p 0) s
  | n => unassigned o tag (BitVec.ofNat 16 (0x0A00 + n)) s

/-- Group 0x0B. -/
def observeFrame (low : Nat) (o : Origin) (tag : BitVec 32) (bad : Bool) (p : Bytes) (s : State) : State :=
  match low with
  | 0x01 => counterReadCmd (shape bad p 4 []) o tag (at16 p 0) (at16 p 2) s
  | 0x02 => streamCountersReadCmd (shape bad p 8 [(7, 1)]) o tag (at16 p 0) (at16 p 2) (at16 p 4) (at8 p 6) s
  | 0x03 => polderCountersReadCmd (shape bad p 4 [(2, 2)]) o tag (at16 p 0) s
  | 0x04 => traceConfigCmd (shape bad p 12 [(3, 1)]) o tag (at16 p 0) (at8 p 2) (at64 p 4) s
  | 0x05 => traceFetchCmd (shape bad p 12 [(10, 2)]) o tag (at64 p 0) (at16 p 8) s
  | n => unassigned o tag (BitVec.ofNat 16 (0x0B00 + n)) s

/-- Group 0x0C. -/
def lcFrame (low : Nat) (o : Origin) (tag : BitVec 32) (bad : Bool) (p : Bytes) (s : State) : State :=
  match low with
  | 0x01 => lcStatusCmd (shape bad p 0 []) o tag s
  | 0x02 => lcChallengeCmd (shape bad p 4 [(1, 3)]) o tag (at8 p 0) s
  | 0x03 => lcTransitionCmd (shape bad p (4 + leField p 2 2) [(1, 1)]) o tag (at8 p 0) (p.drop 4) s
  | 0x04 => debugAuthoriseCmd (shape bad p (4 + leField p 0 2) [(2, 2)]) o tag (p.drop 4) s
  | 0x05 => debugCloseCmd (shape bad p 0 []) o tag s
  | n => unassigned o tag (BitVec.ofNat 16 (0x0C00 + n)) s

/-- Group 0x0D. -/
def gaugeFrame (low : Nat) (o : Origin) (tag : BitVec 32) (bad : Bool) (p : Bytes) (s : State) : State :=
  match low with
  | 0x01 => gaugeIdentityCmd (shape bad p 0 []) o tag s
  | 0x02 => gaugeCountersReadCmd (shape bad p 4 [(2, 2)]) o tag (at16 p 0) s
  | 0x03 => gaugeRecordFetchCmd (shape bad p 8 [(5, 3)]) o tag (at32 p 0) (at8 p 4) s
  | 0x04 => gaugeRecordReleaseCmd (shape bad p 4 []) o tag (at32 p 0) s
  | n => unassigned o tag (BitVec.ofNat 16 (0x0D00 + n)) s

/-- RESET, by its scope; another scope fails the command's own checks. -/
def resetFrame (o : Origin) (tag : BitVec 32) (bad : Bool) (p : Bytes) (s : State) : State :=
  let bad := shape bad p 4 [(1, 1)]
  let target := at16 p 2
  match leField p 0 1 with
  | 0 => resetEngineCmd bad o tag target s
  | 1 => resetContextCmd bad o tag target s
  | 2 => resetPolderCmd bad o tag target s
  | 3 => resetVfCmd bad o tag target s
  | 4 => resetBlockCmd bad o tag s
  | _ =>
    runCmd { opcode := 0x0E02, pf := true, vf := true, sbp := true, fm := true } o tag false bad
      (fun _ => some .badParam) id s

/-- Group 0x0E. -/
def faultFrame (low : Nat) (o : Origin) (tag : BitVec 32) (bad : Bool) (p : Bytes) (s : State) : State :=
  match low with
  | 0x01 => faultReadCmd (shape bad p 8 [(6, 2)]) o tag (at32 p 0) (at16 p 4) s
  | 0x02 => resetFrame o tag bad p s
  | 0x03 => serviceReleaseCmd (shape bad p 0 []) o tag s
  | 0x04 => floodwatchConfigCmd (shape bad p 4 [(1, 3)]) o tag (at8 p 0) s
  | 0x05 => crashDumpReadCmd (shape bad p 12 [(2, 2), (10, 2)]) o tag (at16 p 0) (at32 p 4) (at16 p 8) s
  | 0x06 => stragglerReadCmd (shape bad p 4 []) o tag (at16 p 0) (at16 p 2) s
  | n => unassigned o tag (BitVec.ofNat 16 (0x0E00 + n)) s

/-- Group 0x0F. -/
def firmwareFrame (low : Nat) (o : Origin) (tag : BitVec 32) (bad : Bool) (p : Bytes) (s : State) : State :=
  match low with
  | 0x01 => identityReadCmd (shape bad p 0 []) o tag s
  | 0x02 => surveyReadCmd (shape bad p 4 [(2, 2)]) o tag (at8 p 0) (at8 p 1) s
  | 0x03 => firmwareStageCmd (shape bad p (8 + leField p 4 2) [(6, 2)]) o tag (at32 p 0) (p.drop 8) s
  | 0x04 => firmwareActivateCmd (shape bad p 4 []) o tag (at32 p 0) s
  | 0x05 => firmwareCommitSvnCmd (shape bad p 4 []) o tag (at32 p 0) s
  | n => unassigned o tag (BitVec.ofNat 16 (0x0F00 + n)) s

/-- Run the command of a frame, by its opcode; bad says that the frame is already malformed. -/
def runFrame (o : Origin) (tag : BitVec 32) (opcode : BitVec 16) (bad : Bool) (p : Bytes) (s : State) : State :=
  let low := opcode.toNat % 256
  match opcode.toNat / 256 with
  | 0x01 => polderFrame low o tag bad p s
  | 0x02 => keyFrame low o tag bad p s
  | 0x03 => plotFrame low o tag bad p s
  | 0x04 => objectFrame low o tag bad p s
  | 0x05 => regionFrame low o tag bad p s
  | 0x06 => extentFrame low o tag bad p s
  | 0x07 => groupFrame low o tag bad p s
  | 0x08 => syncFrame low o tag bad p s
  | 0x09 => chartFrame low o tag bad p s
  | 0x0A => weirFrame low o tag bad p s
  | 0x0B => observeFrame low o tag bad p s
  | 0x0C => lcFrame low o tag bad p s
  | 0x0D => gaugeFrame low o tag bad p s
  | 0x0E => faultFrame low o tag bad p s
  | 0x0F => firmwareFrame low o tag bad p s
  | _ => unassigned o tag opcode s

/-! ### Fetch (R356) -/

/-- Answer a frame that is no Warden command with a status. -/
def refuseFrame (o : Origin) (kind : Byte) (tag : BitVec 32) (st : Status) (s : State) : State :=
  answerFrame o.sluice kind tag st [] (emit (.response o tag 0 st []) s)

/-- The frame checks that come before any kind is looked at: debug closed, HALTED, boot not READY (R329, R350). -/
def frameCheck (sl : Sluice) (s : State) : Option Status :=
  firstFail
    [(sl = .dbg && !debugOpen s, .lcForbids), (sl = .sb && s.boot.stage = .halted, .lcForbids), (!isReady s, .busy)]

/-- A fetch: a result that has come is returned and released; that of a session which has ended is released without its
contents. The response has the fetch's kind and no opcode; that of a session's command is its sealed response (R352, R357). -/
def fetchResult (o : Origin) (tag : BitVec 32) (s : State) : State :=
  let mine := fun (c : PendingCmd) => c.origin.sluice = o.sluice && c.tag = tag
  match s.fns.pendings.find? mine with
  | none => refuseFrame o 3 tag .badParam s
  | some c =>
    match c.final with
    | none => refuseFrame o 3 tag .pending s
    | some r =>
      let s := { s with fns := { s.fns with pendings := s.fns.pendings.eraseP mine } }
      if c.origin.session.isSome && (sessionOf c.origin s).isNone then refuseFrame o 3 tag .ok s
      else answerAs 3 (if c.origin.session.isSome then 0 else 3) c.origin tag (if c.origin.session.isSome then c.opcode else 0)
        r.1 r.2 s

/-- A fetch frame. -/
def fetchFrame (o : Origin) (tag : BitVec 32) (s : State) : State :=
  if !sluiceOpen s o.sluice then s
  else
    match frameCheck o.sluice s with
    | some st => refuseFrame o 3 tag st s
    | none => fetchResult o tag s

/-- FETCH (R356). -/
def execFetch (o : Origin) (tag : BitVec 32) (s : State) : Host.Outcome State Fault Refusal := .next (fetchFrame o tag s)

/-! ### SPDM requests -/

/-- Handle a request that is neither a chunk nor a Warden message. -/
def plainSpdm (sl : Sluice) (n : Option (BitVec 32)) (r : SpdmRequest) (s : State) : State :=
  let run := fun (f : State → SpdmAnswer × State) => runSpdm sl n (noted sl n r f) s
  match r with
  | .getVersion => run (spdmVersion sl)
  | .getCapabilities => run spdmCapabilities
  | .negotiateAlgorithms q => run (spdmAlgorithms sl q)
  | .getDigests => run (negotiated sl spdmDigests)
  | .getCertificate slot off len => run (negotiated sl (spdmCertificate slot off len))
  | .challenge slot nonce => run (negotiated sl (spdmChallenge sl slot nonce))
  | .getMeasurements i signed nonce => run (negotiated sl (spdmMeasurements sl i signed nonce))
  | .kemOffer key => run (negotiated sl (spdmKemOffer sl key))
  | .keyExchange half share hash m => run (negotiated sl (spdmKeyExchange sl half share hash m))
  | .finish verify => run (inSession sl n fun x => spdmFinish x verify)
  | .pqSignature => run (spdmPqSignature sl)
  | .heartbeat => run (inSession sl n spdmHeartbeat)
  | .keyUpdate both => run (inSession sl n fun x => spdmKeyUpdate x both)
  | .endSession => endSessionSpdm sl n s
  | .deliverEncapsulatedResponse chain sig => run (inSession sl n fun x => spdmDelivered x chain sig)
  | .getEncapsulatedRequest => run (inSession sl n spdmNextRequest)
  | .chunkSend h last data => run (spdmChunkSend sl h last data)
  | .chunkGet h seq => run (spdmChunkGet sl h seq)
  | .unsupported code => run (fun s => (spdmError 0x07 code, s))
  | .provision _ | .warden _ => run (fun s => (unexpectedRequest, s))

/-- A Warden command in its wrapper, or POLDER_PROVISION: accepted only in a session (R343, R347, R357). Its tag is that of
the frame. -/
def vendorMessage (sl : Sluice) (n : BitVec 32) (r : SpdmRequest) (s : State) : State :=
  let o : Origin := { sluice := sl, session := some n }
  match r with
  | .warden f =>
    let p := f.drop 16
    let bad : Bool := f.length < 16 || leField f 1 1 ≠ 0 || leField f 12 4 ≠ 0 || leField f 8 4 ≠ p.length
    if leField f 0 1 = 0 then runFrame o (at32 f 4) (at16 f 2) bad p s else refuseFrame o 2 (at32 f 4) .badParam s
  | .provision p => polderFrame 1 o (requestTag sl s) false p s
  | r => plainSpdm sl (some n) r s

/-- The record that a request of a session came in counts (R317). -/
def countRecord (sl : Sluice) (n : Option (BitVec 32)) (s : State) : State :=
  match sessionOf { sluice := sl, session := n } s with
  | some x => modSession x.id (fun y => { y with rxSeq := nextSeq y.rxSeq }) s
  | none => s

/-- Whether a request is a Warden command, whose answer counts its record. -/
def isVendor : SpdmRequest → Bool
  | .warden f => leField f 0 1 = 0
  | .provision _ => true
  | _ => false

/-- Handle a request; a chunk that ends its message has the whole message handled (R354). A session's record counts, and
at the limit of its sequence number it is refused whole (R317). -/
def handleSpdm (sl : Sluice) (n : Option (BitVec 32)) (r : SpdmRequest) (s : State) : State :=
  let count := fun (r : SpdmRequest) (s : State) => if isVendor r then s else countRecord sl n s
  let whole := fun (r : SpdmRequest) (s : State) =>
    match n with
    | some x => vendorMessage sl x r s
    | none => plainSpdm sl none r s
  if sessionSpent { sluice := sl, session := n } s then endRequest sl n .exhausted s
  else
    match r with
    | .chunkSend h true data =>
      let all := Config.spdmParse (chunksOf sl h s ++ data)
      let ends := carriesSpdm s sl && isReady s && data.length ≤ 1024
      let t := plainSpdm sl n r (if ends then count all s else countRecord sl n s)
      if ends then whole all t else t
    | r => whole r (if n.isSome then count r s else s)

/-- GET_VERSION (R337). -/
def execGetVersion (sl : Sluice) (s : State) : Host.Outcome State Fault Refusal := .next (handleSpdm sl none .getVersion s)

/-- GET_CAPABILITIES (R338). -/
def execGetCapabilities (sl : Sluice) (s : State) : Host.Outcome State Fault Refusal :=
  .next (handleSpdm sl none .getCapabilities s)

/-- NEGOTIATE_ALGORITHMS (R337). -/
def execNegotiateAlgorithms (sl : Sluice) (request : Bytes) (s : State) : Host.Outcome State Fault Refusal :=
  .next (handleSpdm sl none (.negotiateAlgorithms request) s)

/-- GET_DIGESTS (R334, R338). -/
def execGetDigests (sl : Sluice) (s : State) : Host.Outcome State Fault Refusal := .next (handleSpdm sl none .getDigests s)

/-- GET_CERTIFICATE (R334, R338). -/
def execGetCertificate (sl : Sluice) (slot : BitVec 8) (offset length : Nat) (s : State) :
    Host.Outcome State Fault Refusal := .next (handleSpdm sl none (.getCertificate slot offset length) s)

/-- CHALLENGE (R338). -/
def execChallenge (sl : Sluice) (slot : BitVec 8) (nonce : BitVec 256) (s : State) : Host.Outcome State Fault Refusal :=
  .next (handleSpdm sl none (.challenge slot nonce) s)

/-- GET_MEASUREMENTS (R338). -/
def execGetMeasurements (sl : Sluice) (index : BitVec 8) (signed : Bool) (nonce : BitVec 256) (s : State) :
    Host.Outcome State Fault Refusal := .next (handleSpdm sl none (.getMeasurements index signed nonce) s)

/-- KEM_OFFER (R339). -/
def execKemOffer (sl : Sluice) (key : Bytes) (s : State) : Host.Outcome State Fault Refusal :=
  .next (handleSpdm sl none (.kemOffer key) s)

/-- KEY_EXCHANGE (R339, R341). -/
def execKeyExchange (sl : Sluice) (session : BitVec 16) (share : Bytes) (kemHash : Digest) (wantMutual : Bool) (s : State) :
    Host.Outcome State Fault Refusal := .next (handleSpdm sl none (.keyExchange session share kemHash wantMutual) s)

/-- FINISH (R338). -/
def execFinish (sl : Sluice) (session : BitVec 32) (verify : Digest) (s : State) : Host.Outcome State Fault Refusal :=
  .next (handleSpdm sl (some session) (.finish verify) s)

/-- PQ_SIGNATURE (R340). -/
def execPqSignature (sl : Sluice) (s : State) : Host.Outcome State Fault Refusal := .next (handleSpdm sl none .pqSignature s)

/-- HEARTBEAT (R338). -/
def execHeartbeat (sl : Sluice) (session : BitVec 32) (s : State) : Host.Outcome State Fault Refusal :=
  .next (handleSpdm sl (some session) .heartbeat s)

/-- KEY_UPDATE (R317, R338). -/
def execKeyUpdate (sl : Sluice) (session : BitVec 32) (both : Bool) (s : State) : Host.Outcome State Fault Refusal :=
  .next (handleSpdm sl (some session) (.keyUpdate both) s)

/-- END_SESSION (R338). -/
def execEndSession (sl : Sluice) (session : BitVec 32) (s : State) : Host.Outcome State Fault Refusal :=
  .next (handleSpdm sl (some session) .endSession s)

/-- CHUNK_SEND (R338, R354). -/
def execChunkSend (sl : Sluice) (handle : BitVec 8) (last : Bool) (data : Bytes) (s : State) :
    Host.Outcome State Fault Refusal := .next (handleSpdm sl none (.chunkSend handle last data) s)

/-- CHUNK_GET (R338). -/
def execChunkGet (sl : Sluice) (handle : BitVec 8) (seq : BitVec 16) (s : State) : Host.Outcome State Fault Refusal :=
  .next (handleSpdm sl none (.chunkGet handle seq) s)

/-- UNSUPPORTED_REQUEST (R338). -/
def execUnsupportedRequest (sl : Sluice) (code : BitVec 8) (s : State) : Host.Outcome State Fault Refusal :=
  .next (handleSpdm sl none (.unsupported code) s)

/-- DELIVER_ENCAPSULATED_RESPONSE (R338). -/
def execDeliverEncapsulatedResponse (sl : Sluice) (session : BitVec 32) (chain signature : Bytes) (s : State) :
    Host.Outcome State Fault Refusal :=
  .next (handleSpdm sl (some session) (.deliverEncapsulatedResponse chain signature) s)

/-- GET_ENCAPSULATED_REQUEST (R338). -/
def execGetEncapsulatedRequest (sl : Sluice) (session : BitVec 32) (s : State) : Host.Outcome State Fault Refusal :=
  .next (handleSpdm sl (some session) .getEncapsulatedRequest s)

/-- KEM_OFFER_EXPIRY (R339). -/
def execKemOfferExpiry (sl : Sluice) (s : State) : Host.Outcome State Fault Refusal :=
  .next <|
    if !running s then s
    else modSpdm (fun x => { x with offers := x.offers.filter fun k => !(k.sluice = sl && offerOver k s) }) s

/-! ### Secured records and the mailbox (R353, R357) -/

/-- A secured record: what it carries is handled in its session; one whose length no job takes is ST_BAD_PARAM, one that fails
authentication ends the session, and at the sequence number's limit it is refused whole (R309, R317, R357). -/
def securedRecord (sl : Sluice) (n : Option (BitVec 32)) (record : Bytes) (s : State) : State :=
  match n.bind fun i => s.spdm.sessions.find? fun x => x.id = i && x.sluice = sl with
  | none => sendSpdm sl none invalidSession s
  | some x =>
    if x.rxSeq = BitVec.allOnes 64 then refuseFrame { sluice := sl, session := none } 2 (requestTag sl s) .exhausted s
    else
      match inlineJob (recordJob x.id x.rxKey record.length) none s with
      | (false, s) => refuseFrame { sluice := sl, session := none } 2 (requestTag sl s) .badParam s
      | (true, s) =>
        match Config.spdmOpen x.rxKey x.rxSeq record with
        | none => sendSpdm sl none decryptError (dropSession x.id sl s)
        | some data => handleSpdm sl (some x.id) (Config.spdmParse data) s

/-- A secured frame: on a sluice that carries SPDM, once boot is READY, its record; on another it ends with a status
(R337, R350). -/
def securedFrame (sl : Sluice) (n : Option (BitVec 32)) (record : Bytes) (s : State) : State :=
  if !sluiceOpen s sl then s
  else
    match (frameCheck sl s).or (spdmClosed sl s) with
    | some st => refuseFrame { sluice := sl, session := none } 2 (requestTag sl s) st s
    | none => securedRecord sl n record s

/-- SECURED_MESSAGE (R357). -/
def execSecuredMessage (o : Origin) (record : Bytes) (s : State) : Host.Outcome State Fault Refusal :=
  .next (securedFrame o.sluice o.session record s)

/-- The frame that a mailbox holds, by its kind (R346, R347, R352, R354). -/
def mailboxFrame (fn : FnId) (s : State) : State :=
  let b := (getMailbox s fn).req
  let h := memReadN 0 b 0 16
  let tag := at32 h 4
  let n := leField h 8 4
  let p := memReadN 0 b 16 (min n 4080)
  let bad : Bool := leField h 1 1 ≠ 0 || leField h 12 4 ≠ 0
  let sl : Sluice := match vfOf fn with | some v => .vf v | none => .pf
  let o : Origin := { sluice := sl, session := none }
  match leField h 0 1 with
  | 0 =>
    if vfOf fn ≠ none then reply o tag (at16 h 2) (if isReady s then .denied else .busy) [] s
    else if 4080 < n then reply o tag (at16 h 2) (if isReady s then .badParam else .busy) [] s
    else runFrame o tag (at16 h 2) bad p s
  | 1 =>
    if !isReady s then refuseFrame o 1 tag .busy s
    else if vfOf fn = none then refuseFrame o 1 tag .denied s
    else if bad || 4080 < n || leField h 2 2 ≠ 0 then refuseFrame o 1 tag .badParam s
    else handleSpdm sl none (Config.spdmParse p) s
  | 2 =>
    if !isReady s then refuseFrame o 2 tag .busy s
    else if vfOf fn = none then refuseFrame o 2 tag .denied s
    else if bad || 4080 < n || leField h 2 2 ≠ 0 then refuseFrame o 2 tag .badParam s
    else securedFrame sl (some (at32 p 0)) p s
  | 3 =>
    if isReady s && (bad || n ≠ 0 || leField h 2 2 ≠ 0) then refuseFrame o 3 tag .badParam s else fetchFrame o tag s
  | k => refuseFrame o (BitVec.ofNat 8 k) tag (if isReady s then .badParam else .busy) s

/-- Ring a doorbell: while one request is unanswered it is ignored and counted; else the Warden reads the request, writes
the response and clears the doorbell (R353, R510). -/
def ringDoorbell (fn : FnId) (s : State) : State :=
  if !windowOpen s fn then s
  else if (getMailbox s fn).ring then count 0x002 s
  else mailboxFrame fn (setMailbox { getMailbox s fn with ring := true } s)

/-- MAILBOX_DOORBELL (R353). -/
def execMailboxDoorbell (fn : FnId) (s : State) : Host.Outcome State Fault Refusal := .next (ringDoorbell fn s)

end Sys2Proof.Machine
end

