-- ==== Sys2Proof/Machine/Registers.lean ====
section
/-! DEFINITION. The register map: what each register reads as, the half-read latches, the side-band's reads, and register
writes (R393, R474, R496 to R515). -/

namespace Sys2Proof.Machine

/-! ### Windows and islands (R500 to R502) -/

/-- The function whose window this is; the side-band's registers stand at the PF window's offsets. -/
def windowFn : Window → FnId
  | .vf n => fnOf n
  | _ => 0

/-- Whether a window shows an offset (R500, R501). -/
def shows (s : State) (w : Window) (off : Nat) : Bool :=
  let between := fun (a b : Nat) => decide (a ≤ off) && decide (off < b)
  match w with
  | .pf => true
  | .vf n =>
    windowOpen s (fnOf n) && (off < 0x100 || between 0x200 0x214 || between 0x1000 0x4000 || between 0x8000 0x8800
      || between 0xA000 0xB000)
  | .sb => off < 0x100 || between 0x200 0x300 || between 0x300 0x310 || between 0x400 0xA00

/-- Whether an offset is a Tracer register (R500). -/
def inTracer (off : Nat) : Bool :=
  (0x300 ≤ off && off < 0x900) || (0x40000 ≤ off && off < 0x42000) || (0x90000 ≤ off && off < 0x90200)

/-- Whether an offset lies in the Warden island (R500). -/
def inWarden (off : Nat) : Bool :=
  (0x100 ≤ off && off < 0x200) || (0x1000 ≤ off && off < 0x4000) || (0x80000 ≤ off && off < 0x81000)

/-- The watchdog period of an engine kind; zero where the role has no engine of it (R504). -/
def wdogPeriod (s : State) (k : Nat) : Nat :=
  if watched s (BitVec.ofNat 16 (256 * k)) then assocGet k 20 s.regs.watchdogMs else 0

/-- A word of the configuration registers (R504). -/
def configWord (s : State) (off : Nat) : BitVec 32 :=
  match off with
  | 0x100 => BitVec.ofNat 32 s.regs.gateDelayUs
  | 0x104 => if s.boot.role = .e then BitVec.ofNat 32 s.regs.waitIdleUs else 0
  | 0x108 => BitVec.ofNat 32 s.regs.stragglerUs
  | _ => if 0x114 ≤ off && off < 0x138 then BitVec.ofNat 32 (wdogPeriod s ((off - 0x110) / 4)) else 0

/-- A word of the Datum registers (R505). -/
def datumWord (s : State) (off : Nat) : BitVec 32 :=
  let bit := fun (b : Bool) => if b then 1 else 0
  let d := s.datum
  match off with
  | 0x208 => packWord [(0, datumCode d.state), (2, bit d.root), (3, bit d.lockedOnce), (8, d.upstream.toNat)]
  | 0x20C => d.offset
  | 0x210 => d.delay
  | 0x218 => BitVec.ofNat 32 d.marks.length
  | _ => 0

/-- A word of the Weir registers (R506). -/
def weirWord (s : State) (off : Nat) : BitVec 32 :=
  let w : BitVec 8 := BitVec.ofNat 8 ((off - 0x400) / 0x80)
  let r := (off - 0x400) % 0x80
  if !hasWeir s w then 0
  else
    let x := getWeir s w
    if r = 0 then packWord [(0, weirRating s.boot.role w), (16, x.mirrorScale), (28, x.mirrorLevel.toNat)]
    else if 0x40 ≤ r then x.mirrored.getD ((r - 0x40) / 4) 0
    else 0

/-- The code of a boot stage (R327, R507). -/
def stageCode : BootStage → Nat
  | .held => 0 | .romStart => 1 | .lcResolve => 2 | .entropy => 3 | .keys => 4 | .imageLoad => 5 | .imageVerify => 6
  | .firmwareInit => 7 | .ready => 8 | .recovery => 0xE | .halted => 0xF

/-- A word of the side-band island's registers (R507). -/
def sideWord (s : State) (off : Nat) : BitVec 32 :=
  let bit := fun (b : Bool) => if b then 1 else 0
  match off with
  | 0x900 => packWord [(0, s.sb.cause.toNat), (4, min 3 (recentEvents s).length), (6, bit s.sb.outOfService)]
  | 0x904 => packWord [(0, stageCode s.boot.stage), (8, s.boot.reason.toNat)]
  | 0x908 =>
    packWord [(0, s.lc.code.toNat), (16, lcNumber s.lc.state), (19, bit s.lc.intent), (20, bit (debugOpen s)),
      (21, bit s.lc.frozen)]
  | 0x90C => BitVec.ofNat 32 s.sb.faultCopy.length
  | _ => 0

/-- A word of a mailbox (R509). -/
def mailboxWord (s : State) (fn : FnId) (off : Nat) : BitVec 32 :=
  let m := getMailbox s fn
  if off = 0x1000 then (if m.ring then 1 else 0)
  else if 0x2000 ≤ off && off < 0x3000 then BitVec.ofNat 32 (leNat (memReadN 0 m.req (off - 0x2000) 4))
  else if 0x3000 ≤ off then BitVec.ofNat 32 (leNat (memReadN 0 m.rsp (off - 0x3000) 4))
  else 0

/-- A queue doorbell (R511); a FREE queue's reads as at reset (R498). -/
def doorbellWord (s : State) (q : BitVec 8) : BitVec 32 :=
  match findQueue s q with
  | none => 0
  | some x => packWord [(0, x.tail.toNat), (16, x.head.toNat), (31, if x.state = .halted then 1 else 0)]

/-- The code of a VF's state (R393). -/
def vfCode : VfState → Nat
  | .unlocked => 0 | .locked => 1 | .run => 2 | .error => 3

/-- A word of a VF's control block; state_req is write-only (R393, R401). -/
def vfWord (s : State) (off : Nat) : BitVec 32 :=
  let n : VfId := BitVec.ofNat 6 ((off - 0x80000) / 0x40)
  let bit := fun (b : Bool) => if b then 1 else 0
  if !vfPresent s n then 0
  else
    let v := getVf s n
    match (off - 0x80000) % 0x40 with
    | 0x04 =>
      packWord [(0, vfCode v.state), (2, bit v.reset.isSome), (3, bit v.forced), (4, v.cause.toNat), (8, bit v.badReq),
        (16, v.squashed.toNat)]
    | 0x08 => v.allot0
    | 0x0C => v.allot1
    | 0x10 => packWord [(0, bit v.dirtyEnable), (1, bit v.swapping), (2, bit v.activeBuf), (3, bit v.allDirty)]
    | 0x14 => v.pages.setWidth 32
    | _ => 0

/-- A 32-bit register; an offset that no table assigns reads zero (R9, R496). -/
def reg32 (s : State) (fn : FnId) (off : Nat) : BitVec 32 :=
  if off < 0x100 then identityWord s off
  else if off < 0x200 then configWord s off
  else if off < 0x300 then datumWord s off
  else if off < 0x400 then 0
  else if off < 0x880 then weirWord s off
  else if off < 0x900 then 0
  else if off < 0x1000 then sideWord s off
  else if off < 0x4000 then mailboxWord s fn off
  else if 0x8000 ≤ off && off < 0x8800 && off % 8 = 0 then doorbellWord s (BitVec.ofNat 8 ((off - 0x8000) / 8))
  else if 0x80000 ≤ off && off < 0x81000 then vfWord s off
  else 0

/-! ### Values of 64-bit registers -/

/-- An event ring's head register; a FREE ring's reads as at reset (R498, R513). -/
def ringHead (s : State) (fn : FnId) (e : BitVec 9) : BitVec 64 :=
  match findRing s fn e with
  | none => 0
  | some r => BitVec.ofNat 64 (r.head + (if r.armed then 65536 else 0) + 4294967296 * r.tail)

/-- A profiling select (R474). -/
def profSelect (s : State) (i : BitVec 6) : BitVec 64 :=
  match s.tracer.prof.find? fun p => p.index = i with
  | some p => BitVec.ofNat 64 (p.queue.toNat + (if p.enable then 256 else 0) + (if p.scope then 512 else 0))
  | none => 0

/-- A 64-bit register of a VF's control block (R401). -/
def vfWide (s : State) (off : Nat) : Option (BitVec 64) :=
  let n : VfId := BitVec.ofNat 6 ((off - 0x80000) / 0x40)
  let v := if vfPresent s n then getVf s n else resetVf n
  match (off - 0x80000) % 0x40 with
  | 0x18 => some v.base
  | 0x20 => some v.buf0
  | 0x28 => some v.buf1
  | _ => none

/-- The newest record of the side-band copy (R507). -/
def newestSeq (s : State) : BitVec 64 := match s.sb.faultCopy.getLast? with | some r => r.seq | none => BitVec.allOnes 64

/-- The trace status (R506). -/
def traceStatus (s : State) : BitVec 64 :=
  BitVec.ofNat 64 (s.tracer.sizeMib + (if s.tracer.enabled then 512 else 0) + 4294967296 * (wrapCount s % 4294967296))

/-- The 64-bit register at an offset, if there is one. -/
def reg64 (s : State) (fn : FnId) (off : Nat) : Option (BitVec 64) :=
  if off = 0x200 then some s.datum.value
  else if off = 0x220 then some (BitVec.ofNat 64 (earliestValue s))
  else if off = 0x300 then some s.tracer.nextSeq
  else if off = 0x308 then some s.tracer.overwritten
  else if off = 0x310 then some (BitVec.ofNat 64 s.tracer.head)
  else if off = 0x318 then some (traceStatus s)
  else if off = 0x910 then some (newestSeq s)
  else if off % 8 ≠ 0 then none
  else if 0xA000 ≤ off && off < 0xB000 then some (ringHead s fn (BitVec.ofNat 9 ((off - 0xA000) / 8)))
  else if 0x40000 ≤ off && off < 0x42000 then some (counterReading s ((off - 0x40000) / 8))
  else if 0x80000 ≤ off && off < 0x81000 then vfWide s off
  else if 0x90000 ≤ off && off < 0x90200 then some (profSelect s (BitVec.ofNat 6 ((off - 0x90000) / 8)))
  else none

/-! ### Reads (R496, R497, R502) -/

/-- What a read of a counter register clears (R475, R515). -/
def seenRead (off : Nat) (s : State) : State :=
  if 0x40000 ≤ off && off < 0x42000 then clearSeen ((off - 0x40000) / 8) 1 s else s

/-- A 64-bit read: one sample. -/
def readWide (w : Window) (off : Nat) (s : State) : BitVec 64 × State :=
  if off % 8 ≠ 0 || !shows s w off then (0, s)
  else
    match reg64 s (windowFn w) off with
    | some v => (v, seenRead off s)
    | none => ((reg32 s (windowFn w) (off + 4) ++ reg32 s (windowFn w) off : BitVec 64), s)

/-- The read of the low half of a 64-bit register, which latches the upper half (R497). -/
def readLow (w : Window) (off : Nat) (v : BitVec 64) (s : State) : BitVec 32 × State :=
  let s : State := { s with regs := { s.regs with
    latches := assocSet (w, BitVec.ofNat 20 off) (v.extractLsb' 32 32) s.regs.latches } }
  (v.extractLsb' 0 32, seenRead off s)

/-- The read of the high half: what is latched, or with no latch pending the present bits (R497). -/
def readHigh (w : Window) (base : Nat) (v : BitVec 64) (s : State) : BitVec 32 × State :=
  match s.regs.latches.lookup (w, BitVec.ofNat 20 base) with
  | some x =>
    (x, { s with regs := { s.regs with latches := assocDel (w, BitVec.ofNat 20 base) s.regs.latches } })
  | none => (v.extractLsb' 32 32, seenRead base s)

/-- A 32-bit read. -/
def readNarrow (w : Window) (off : Nat) (s : State) : BitVec 32 × State :=
  if off % 4 ≠ 0 || !shows s w off then (0, s)
  else
    let base := off - off % 8
    match reg64 s (windowFn w) base with
    | some v => if off = base then readLow w off v s else readHigh w base v s
    | none => (reg32 s (windowFn w) off, s)

/-- Answer a read of a register. -/
def answerRead (w : Window) (off : Nat) (wide : Bool) (s : State) : State :=
  if wide then
    let r := readWide w off s
    emit (.registerData 0 r.1) r.2
  else
    let r := readNarrow w off s
    emit (.registerData 0 (r.1.setWidth 64)) r.2

/-- An access to the Tracer's registers waits while its domain does not serve, and wakes it (R42, R46). -/
def inTracerDomain (work : RegWork) (serve : State → State) (s : State) : State :=
  if serves s tracerDomain then serve (markWork tracerDomain s)
  else wakeDomain tracerDomain { s with fns := { s.fns with regWork := s.fns.regWork ++ [work] } }

/-- A read of a register through a function's window, or by the side-band set: one of the Tracer's through a function's
window waits for the Tracer (R42, R502). -/
def readWindow (w : Window) (off : Nat) (wide : Bool) (s : State) : State :=
  if w ≠ .sb && inTracer off && shows s w off then inTracerDomain (.read w off wide) (answerRead w off wide) s
  else answerRead w off wide s

/-- Whether a side-band read is held: the Tracer's domain is gated or stopped, or the Warden is in reset (R46, R502). -/
def sideHeld (s : State) (off : Nat) : Bool :=
  (inTracer off && shows s .sb off && domainHeld s tracerDomain) || (inWarden off && !s.pins.blockRstN)

/-- REG_READ (R502): the side-band island has power once power-on reset is released. -/
def execRegRead (offset : BitVec 20) (wide : Bool) (s : State) : Host.Outcome State Fault Refusal :=
  .next <|
    if !s.pins.porN then s
    else if sideHeld s offset.toNat then emit (.registerData 1 0) s
    else readWindow .sb offset.toNat wide s

/-- LOW_HALF_READ (R497): a 32-bit read through a window. -/
def execLowHalfRead (window : Window) (offset : BitVec 20) (s : State) : Host.Outcome State Fault Refusal :=
  .next <|
    if !s.pins.porN then s
    else if window = .sb && sideHeld s offset.toNat then emit (.registerData 1 0) s
    else readWindow window offset.toNat false s

/-- COUNTER_REGISTER_READ (R515), through the PF window. -/
def execCounterRegisterRead (index : BitVec 10) (wide : Bool) (s : State) : Host.Outcome State Fault Refusal :=
  .next <| if !s.pins.porN then s else readWindow .pf (0x40000 + 8 * index.toNat) wide s

/-! ### Writes (R474, R496, R499) -/

/-- A field kept unless the value lies in its range (R499). -/
def ranged (old v low high : Nat) : Nat := if low ≤ v && v ≤ high then v else old

/-- A write of a configuration register (R499, R504). -/
def writeConfig (off : Nat) (v : BitVec 32) (s : State) : State :=
  let r := s.regs
  match off with
  | 0x100 => { s with regs := { r with gateDelayUs := ranged r.gateDelayUs (v.extractLsb' 0 10).toNat 1 1000 } }
  | 0x104 =>
    if s.boot.role ≠ .e then s
    else { s with regs := { r with waitIdleUs := ranged r.waitIdleUs (v.extractLsb' 0 14).toNat 1 10000 } }
  | 0x108 => { s with regs := { r with stragglerUs := ranged r.stragglerUs (v.extractLsb' 0 20).toNat 1 1000000 } }
  | _ =>
    let k := (off - 0x110) / 4
    let p := (v.extractLsb' 0 10).toNat
    if 0x114 ≤ off && off < 0x138 && wdogPeriod s k ≠ 0 then
      { s with regs := { r with watchdogMs := assocSet k (ranged (wdogPeriod s k) p 1 1000) r.watchdogMs } }
    else s

/-- A write into a mailbox's request buffer, ignored while its doorbell is set (R510). -/
def writeRequest (fn : FnId) (off : Nat) (v : BitVec 32) (s : State) : State :=
  let m := getMailbox s fn
  if m.ring then s else setMailbox { m with req := memWriteN 0 m.req (off - 0x2000) (leBytes 4 v.toNat) } s

/-- A write of an event ring's head register: head, and arm when its bit is set (R513). -/
def writeRingHead (fn : FnId) (e : BitVec 9) (v : BitVec 32) (s : State) : State :=
  let s := writeHead fn e (v.extractLsb' 0 16) s
  if v.getLsbD 16 then setArm fn e s else s

/-- Replace one half of a 64-bit value, and clear its low bits that are reserved. -/
def setHalf (high : Bool) (clear : Nat) (old : BitVec 64) (v : BitVec 32) : BitVec 64 :=
  let n : BitVec 64 := if high then v ++ old.extractLsb' 0 32 else old.extractLsb' 32 32 ++ v
  (n >>> clear) <<< clear

/-- A write of a dirty-log register other than its control; ignored while the log is on (R401). -/
def writeDirty (n : VfId) (r : Nat) (x : BitVec 32) (s : State) : State :=
  if (getVf s n).dirtyEnable then s
  else
    modVf n (fun v =>
      match r with
      | 0x14 => { v with pages := if (x.extractLsb' 0 29).toNat ≤ 268435456 then x.extractLsb' 0 29 else v.pages }
      | 0x18 => { v with base := setHalf false 12 v.base x }
      | 0x1C => { v with base := setHalf true 12 v.base x }
      | 0x20 => { v with buf0 := setHalf false 6 v.buf0 x }
      | 0x24 => { v with buf0 := setHalf true 6 v.buf0 x }
      | 0x28 => { v with buf1 := setHalf false 6 v.buf1 x }
      | 0x2C => { v with buf1 := setHalf true 6 v.buf1 x }
      | _ => v) s

/-- A write of a dirty-log control register: all_dirty by writing 1, enable, then a swap (R401, R404). -/
def writeDirtyCtrl (n : VfId) (x : BitVec 32) (s : State) : State :=
  let s := if x.getLsbD 3 then modVf n (fun v => { v with allDirty := false }) s else s
  let s := setDirty n (x.getLsbD 0) s
  if x.getLsbD 1 then setSwap n s else s

/-- A write of a VF's control block (R393, R395, R401). -/
def writeVf (off : Nat) (x : BitVec 32) (s : State) : State :=
  let n : VfId := BitVec.ofNat 6 ((off - 0x80000) / 0x40)
  if !vfPresent s n then s
  else
    match (off - 0x80000) % 0x40 with
    | 0x00 =>
      (match (x.extractLsb' 0 2).toNat with
       | 1 => reqLock n s
       | 2 => reqRun n s
       | 3 => reqUnlock n s
       | _ => s)
    | 0x04 =>
      modVf n (fun v => { v with forced := v.forced && !x.getLsbD 3, badReq := v.badReq && !x.getLsbD 8 }) s
    | 0x08 => writeAllot n false x s
    | 0x0C => writeAllot n true x s
    | 0x10 => writeDirtyCtrl n x s
    | r => writeDirty n r x s

/-- A profiling set is programmed and reset (R474). -/
def setProf (i : BitVec 6) (x : BitVec 32) (s : State) : State :=
  let old : ProfSel := (s.tracer.prof.find? fun y => y.index = i).getD
    { index := i, queue := 0, enable := false, scope := false, since := 0, bytes := 0, ops := 0, waited := 0, before := [],
      resetAt := 0 }
  let p : ProfSel := { old with queue := x.extractLsb' 0 8, enable := x.getLsbD 8, scope := x.getLsbD 9 }
  profReset i { s with tracer := { s.tracer with prof := upsert (fun y => y.index = i) p s.tracer.prof } }

/-- A write of a profiling select, which lies in the Tracer; only role E has sets (R42, R474). -/
def writeProf (i : BitVec 6) (x : BitVec 32) (s : State) : State :=
  if !running s || s.boot.role ≠ .e then s else inTracerDomain (.prof i x) (setProf i x) s

/-- PROF_SEL_WRITE (R474). -/
def execProfSelWrite (index : BitVec 6) (value : BitVec 64) (s : State) : Host.Outcome State Fault Refusal :=
  .next (writeProf index (value.extractLsb' 0 32) s)

/-- A 32-bit write; one to a read-only or unassigned offset is ignored (R9, R496). -/
def write32 (w : Window) (off : Nat) (x : BitVec 32) (s : State) : State :=
  let fn := windowFn w
  if !shows s w off then s
  else if 0x100 ≤ off && off < 0x200 then writeConfig off x s
  else if off = 0x1000 then (if x.getLsbD 0 then ringDoorbell fn s else s)
  else if 0x2000 ≤ off && off < 0x3000 then writeRequest fn off x s
  else if 0x8000 ≤ off && off < 0x8800 && off % 8 = 0 then writeTail fn (BitVec.ofNat 8 ((off - 0x8000) / 8)) x s
  else if 0xA000 ≤ off && off < 0xB000 && off % 8 = 0 then writeRingHead fn (BitVec.ofNat 9 ((off - 0xA000) / 8)) x s
  else if 0x80000 ≤ off && off < 0x81000 then writeVf off x s
  else if 0x90000 ≤ off && off < 0x90200 && off % 8 = 0 then writeProf (BitVec.ofNat 6 ((off - 0x90000) / 8)) x s
  else s

/-- REGISTER_WRITE (R496, R499, R502): the side-band set is read-only; a 64-bit write writes its two halves in order. -/
def execRegisterWrite (window : Window) (offset : BitVec 20) (wide : Bool) (value : BitVec 64) (s : State) :
    Host.Outcome State Fault Refusal :=
  .next <|
    let off := offset.toNat
    if !running s || window = .sb || off % (if wide then 8 else 4) ≠ 0 then s
    else
      let t := write32 window off (value.extractLsb' 0 32) s
      if wide then write32 window (off + 4) (value.extractLsb' 32 32) t else t

/-! ### A domain's clock or power comes (R42, R46) -/

/-- The accesses to the Tracer's registers that wait are served, in order. -/
def serveRegs (s : State) : State :=
  s.fns.regWork.foldl (fun t w => match w with
    | .read win off wide => answerRead win off wide t
    | .prof i x => setProf i x t) { s with fns := { s.fns with regWork := [] } }

/-- A domain may serve again: what waits for it goes on, at the Tracer the register accesses too. -/
def restartDomain (d : DomainId) (s : State) : State :=
  let s := domainServes d s
  if d = tracerDomain && serves s tracerDomain then serveRegs s else s

/-- CLOCK_STOP_RELEASE (R46, R481, R519): the clock runs again, CLOCK_START is the first event, the acknowledgement falls, and
delivery resumes. -/
def execClockStopRelease (d : DomainId) (s : State) : Host.Outcome State Fault Refusal :=
  .next <|
    if !s.pins.clkStopReq.contains d then s
    else
      let mhz := 800 + (fresh s).toNat % 801
      let s := modPins (fun p => { p with
        clkStopReq := p.clkStopReq.filter (· ≠ d), clkStopAck := p.clkStopAck.filter (· ≠ d) }) s
      let s := if domainOn s d then
          tookFree (emitTrace 0 0x0002 (domainUnit d) 0 none (leBytes 4 mhz) s)
        else s
      restartDomain d (releaseTrace d s)

/-- POWER_GOOD (R42, R481, R520): the domain is ready, DOMAIN_WAKE is its first event, an SCE slice reloads its subkeys,
and what waited is delivered. -/
def execPowerGood (d : DomainId) (s : State) : Host.Outcome State Fault Refusal :=
  .next <|
    if !s.pins.pwrEn.contains d || s.pins.pwrGood.contains d then s
    else
      let s := emitTrace 0 0x0004 (domainUnit d) 0 none [] (modPins (fun p => { p with pwrGood := p.pwrGood ++ [d] }) s)
      let s := if d.kind = .sce then reloadCopies d.index.toNat s else s
      restartDomain d (markWork d (releaseTrace d s))

end Sys2Proof.Machine
end

