-- ==== Sys2Proof/Machine/Devices.lean ====
section
/-! DEFINITION. What the stack and tray device controllers return of reads (R86, R92, R127, R128, R521). -/

namespace Sys2Proof.Machine

/-- The bytes that one tray device holds: 96 GiB (R106). -/
def deviceSize : Nat := 103079215104

/-- A stack read returns: the access that has waited for it ends, or the merged write follows. -/
def stackReadReturn (index : Nat) (data : Bytes) (uncorrectable : Bool) (s : State) : State :=
  if !running s then s
  else match s.stack.reads[index]? with
    | some w => withDomain (sceDomain w.req.addr.toNat) (fun s => resume (stackReturn w data uncorrectable s)) s
    | none => s

/-- A tray device read returns: what the device holds there, or an error that the Levee repairs and counts. -/
def trayReadReturn (device offset : Nat) (data : Bytes) (uncorrectable : Bool) (s : State) : State :=
  if !hasTray s || s.tray.dead.contains device then s
  else withDomains (trayDomains.filter fun d => d.kind = .levee)
    (fun s => if uncorrectable then deviceError device offset s else deviceReturned device (data.length + 1) offset data s) s

/-- DEVICE_READ_RETURN (R521); a device, or an offset on one, that the tray does not have does not exist. -/
def execDeviceReadReturn (read : DeviceRead) (data : Bytes) (uncorrectable : Bool) (s : State) :
    Host.Outcome State Fault Refusal :=
  match read with
  | .stack index => .next (stackReadReturn index data uncorrectable s)
  | .tray device offset =>
    if 74 ≤ device || deviceSize < offset + data.length then .fault .noSuchDevice
    else .next (trayReadReturn device offset data uncorrectable s)

end Sys2Proof.Machine
end

