-- ==== Sys2Proof/Machine/Entries.lean ====
section
/-! DEFINITION. Commands after which what waits in the block may go on: requests and packets as they arrive, answers,
re-sends and give-ups, fills and releases of plots (R42, R99, R101, R134, R153 to R155, R188, R189). -/

namespace Sys2Proof.Machine

/-- REMOTE_REQUEST (R42, R134, R135). Only role E issues. -/
def execRemoteRequest (r : RemoteReq) (s : State) : Host.Outcome State Fault Refusal :=
  .next <| if running s && s.boot.role = .e then enter fauDomain (.remote r) (submitOp r .core) s else s

/-- COMPLETION (R153, R534): the first completion that does not wait to write its data reaches the FAU. -/
def execCompletion (s : State) : Host.Outcome State Fault Refusal :=
  .next <|
    match s.link.inbox.find? fun r => isCompletion r && !answerWaits s r with
    | some r => withFau (fun s => resume (serveCompletion s r)) s
    | none => s

/-- LINK_NOTICE_RECEIVE (R42, R57, R155). A port that the role lacks delivers nothing. -/
def execLinkNoticeReceive (port : BitVec 8) (packet : Bytes) (s : State) : Host.Outcome State Fault Refusal :=
  .next <|
    if linkServes s && port.toNat < portCount s.boot.role then
      enter ⟨.lceRx, port⟩ (.notice port packet) (fun s => resume (arriveNotice port packet s)) s
    else s

/-! ### Requests at the target (R143 to R151, R166 to R182) -/

/-- Serve the first released request of an opcode; a frozen polder's stays, and what its number frees goes on (R166,
R420). An atomic needs the banks of the replay table too (R42). -/
def serveOp (op : BitVec 8) (s : State) : State :=
  match nextReleased s op 0 with
  | some r =>
    if running s && !isFrozen s r.polder then
      withFau (withDomains (if op = 3 && s.boot.role ≠ .s then replayDomains else []) (fun s => resume (serveRequest r s))) s
    else s
  | none => s

/-- LOAD (R143, R145, R168). -/
def execLoad (s : State) : Host.Outcome State Fault Refusal := .next (serveOp 0x01 s)

/-- STORE (R143, R145, R169). -/
def execStore (s : State) : Host.Outcome State Fault Refusal := .next (serveOp 0x02 s)

/-- ATOMIC (R146 to R148, R181, R182). -/
def execAtomic (s : State) : Host.Outcome State Fault Refusal := .next (serveOp 0x03 s)

/-- REDUCE_INTO_REMOTE_MEMORY (R149). -/
def execReduceIntoRemoteMemory (s : State) : Host.Outcome State Fault Refusal := .next (serveOp 0x04 s)

/-- MULTICAST_STORE (R151). -/
def execMulticastStore (s : State) : Host.Outcome State Fault Refusal := .next (serveOp 0x05 s)

/-- SIGNAL (R150, R177). -/
def execSignal (s : State) : Host.Outcome State Fault Refusal := .next (serveOp 0x06 s)

/-- FENCE (R172). -/
def execFence (s : State) : Host.Outcome State Fault Refusal := .next (serveOp 0x07 s)

/-- SIGNAL_HOLD_RELEASE (R177): a held signal whose condition is met is applied. -/
def execSignalHoldRelease (index : Nat) (s : State) : Host.Outcome State Fault Refusal :=
  .next <|
    match s.fau.hold[index]? with
    | some h => if !h.isFence && holdOver h s then resume (releaseHold h s) else s
    | none => s

/-- FENCE_ANSWER_RELEASE (R172): a held fence whose earlier numbers are done is answered ST_OK. -/
def execFenceAnswerRelease (index : Nat) (s : State) : Host.Outcome State Fault Refusal :=
  .next <|
    match s.fau.hold[index]? with
    | some h => if h.isFence && holdOver h s then resume (releaseHold h s) else s
    | none => s

/-- WRITE_ACKNOWLEDGED (R169): the request's data is written, so it completes. -/
def execWriteAcknowledged (index : Nat) (s : State) : Host.Outcome State Fault Refusal :=
  .next <|
    match s.fau.unacked[index]? with
    | some u => resume (acknowledged u s)
    | none => s

/-- ANSWER_LOG_EXPIRY (R167): 2 ms after it was written; what waited for room goes on. -/
def execAnswerLogExpiry (index : Nat) (s : State) : Host.Outcome State Fault Refusal :=
  .next <|
    match s.fau.answers[index]? with
    | some a =>
      if a.at_ + 2000000 ≤ s.time then resume { s with fau := { s.fau with answers := removeAt index s.fau.answers } } else s
    | none => s

/-- REPLAY_ENTRY_EXPIRY (R181): 2 ms after it was written; what waited for room goes on. -/
def execReplayEntryExpiry (index : Nat) (s : State) : Host.Outcome State Fault Refusal :=
  .next <|
    match s.fau.replays[index]? with
    | some a =>
      if a.at_ + 2000000 ≤ s.time then resume { s with fau := { s.fau with replays := removeAt index s.fau.replays } } else s
    | none => s

/-- HOLD_QUEUE_DISCARD (R178): an entry held for 2 ms is discarded unapplied, with a record. -/
def execHoldQueueDiscard (index : Nat) (s : State) : Host.Outcome State Fault Refusal :=
  .next <|
    match s.fau.hold[index]? with
    | none => s
    | some h =>
      if h.at_ + 2000000 ≤ s.time then
        resume <| writeFault .fauHoldDiscard
          { unit := fauUnit, polder := h.rel.polder, peer := some h.rel.src,
            detail := leBytes 4 h.rel.inner.seq.toNat ++ leBytes 4 h.rel.inner.aux.toNat }
          { s with fau := { s.fau with hold := removeAt index s.fau.hold, discards := satInc s.fau.discards } }
      else s

/-! ### Rings (R188, R189, R192) -/

/-- LINE_REQUEST (R42, R188, R197, R385): the caching agent's request goes to the home, which may be this instance. -/
def execLineRequest (ring : BitVec 12) (message : BitVec 4) (addr : BitVec 64) (data : Bytes) (s : State) :
    Host.Outcome State Fault Refusal :=
  .next <|
    if !running s then s
    else
      let serve := arriveLine ring message addr data
      let d := lineDomain s ring addr
      if domainExists s d then enter d (.line ring message addr data) serve s else serve s

/-- SNOOP_RESPONSE (R188): the caching agent answers a snoop, for another home or for this one. -/
def execSnoopResponse (ring : BitVec 12) (addr : BitVec 64) (data : Option Bytes) (s : State) :
    Host.Outcome State Fault Refusal :=
  .next <|
    let open_ := fun (m : Released) => messageRing m.inner = ring && m.inner.offset = addr
      && !s.rings.replies.any fun x => x.snoop = m
    match s.rings.snoops.find? open_ with
    | some m =>
      let kept := if m.inner.modifier = 5 then none else data.map (padTo 256)
      withFau (fun s => resume (takeReply s { snoop := m, data := kept, noRoom := false })) s
    | none => s

/-- The FAU takes a ring message, and what that lets go on goes on (R42, R163, R167, R192). -/
def serveRing (serve : State → State) (s : State) : State := withFau (fun s => resume (serve s)) s

/-- READ_SHARED (R192). -/
def execReadShared (s : State) : Host.Outcome State Fault Refusal := .next (serveRing (homeRequest 0) s)

/-- READ_OWN (R192). -/
def execReadOwn (s : State) : Host.Outcome State Fault Refusal := .next (serveRing (homeRequest 1) s)

/-- UPGRADE (R192). -/
def execUpgrade (s : State) : Host.Outcome State Fault Refusal := .next (serveRing (homeRequest 2) s)

/-- WRITE_BACK (R192). -/
def execWriteBack (s : State) : Host.Outcome State Fault Refusal := .next (serveRing (homeRequest 3) s)

/-- EVICT_CLEAN (R192). -/
def execEvictClean (s : State) : Host.Outcome State Fault Refusal := .next (serveRing (homeRequest 4) s)

/-- INVALIDATE (R192). -/
def execInvalidate (s : State) : Host.Outcome State Fault Refusal := .next (serveRing (memberSnoop 5) s)

/-- RECALL (R192). -/
def execRecall (s : State) : Host.Outcome State Fault Refusal := .next (serveRing (memberSnoop 6) s)

/-- DOWNGRADE (R192). -/
def execDowngrade (s : State) : Host.Outcome State Fault Refusal := .next (serveRing (memberSnoop 7) s)

/-- GRANT (R192). -/
def execGrant (s : State) : Host.Outcome State Fault Refusal := .next (serveRing (ringResponse 8) s)

/-- ACK (R192). -/
def execAck (s : State) : Host.Outcome State Fault Refusal := .next (serveRing (ringResponse 9) s)

/-- DATA_BACK (R192). -/
def execDataBack (s : State) : Host.Outcome State Fault Refusal := .next (serveRing (ringResponse 0xA) s)

/-- HEARTBEAT_MISSED (R195): 350 µs of Datum since the last heartbeat accepted declare the member dead. -/
def execHeartbeatMissed (ring : BitVec 12) (member : BitVec 3) (s : State) : Host.Outcome State Fault Refusal :=
  .next <|
    match findRingOf s ring with
    | none => s
    | some r =>
      match r.peers.find? fun p => p.member = member with
      | none => s
      | some p => if r.active && p.at_ + 350000 ≤ s.datum.value.toNat then resume (declareDead r member s) else s

/-- FAU_RESEND (R154, R189): of an outstanding operation, or past them of a ring request. -/
def execFauResend (index : Nat) (s : State) : Host.Outcome State Fault Refusal :=
  .next <|
    match s.fau.ops[index]? with
    | some o => withFau (fun s => fauSettle (resendOp o s)) s
    | none =>
      match s.rings.requests[index - s.fau.ops.length]? with
      | some q => withFau (fun s => resume (resendRing q s)) s
      | none => s

/-- Give up a ring request that has had its re-sends, 1 ms after its first transmission (R154, R189). -/
def expireRing (q : RingReq) (s : State) : State :=
  match findAnyRing s q.ring, q.firstTx with
  | some r, some t => if 3 ≤ q.resends && t + 1000000 ≤ s.time then giveUpRing r q s else s
  | _, _ => s

/-- FAU_GIVE_UP (R154, R183, R189): of an outstanding operation, or past them of a ring request. -/
def execFauGiveUp (index : Nat) (s : State) : Host.Outcome State Fault Refusal :=
  .next <|
    match s.fau.ops[index]? with
    | some o => if opExpired o s then withFau (fun s => resume (giveUp o s)) s else s
    | none =>
      match s.rings.requests[index - s.fau.ops.length]? with
      | some q => withFau (fun s => resume (expireRing q s)) s
      | none => s

/-- ZERO_FILL_COMPLETE (R99, R539): what waits on the fill goes on. While the fill waits for its key or its slice nothing
happens. -/
def execZeroFillComplete (plot : BitVec 16) (s : State) : Host.Outcome State Fault Refusal :=
  .next <|
    match s.stack.fills.find? fun f => f.plot = plot with
    | none => s
    | some f =>
      withDomain (sceDomain (16777216 * plot.toNat)) (fun s =>
        match needKey f.polder 3 s with
        | (.ready, s) => resume (finishFill f s)
        | (.wait, s) => s
        | (.failed st, s) => resume (undoFill f st 0xFF s)) s

/-- PLOT_RELEASE_DRAINED (R101). -/
def execPlotReleaseDrained (plot : BitVec 16) (s : State) : Host.Outcome State Fault Refusal :=
  .next <| if plotReleasing s plot && !plotInUse s plot then resume (finishRelease plot s) else s

end Sys2Proof.Machine
end

