-- ==== Sys2Proof/Machine/Dispatch.lean ====
section
/-! DEFINITION. One arm per command: a direct call of its meaning. -/

namespace Sys2Proof.Machine

def exec (i : Instr) (s : State) : Host.Outcome State Fault Refusal :=
  match i with
  | .powerOnResetRelease => Sys2Proof.Machine.execPowerOnResetRelease s
  | .powerOnResetAssert => Sys2Proof.Machine.execPowerOnResetAssert s
  | .blockResetAssert => Sys2Proof.Machine.execBlockResetAssert s
  | .blockResetRelease strap instanceId => Sys2Proof.Machine.execBlockResetRelease strap instanceId s
  | .lcResolve => Sys2Proof.Machine.execLcResolve s
  | .entropy startUpPasses => Sys2Proof.Machine.execEntropy startUpPasses s
  | .keys => Sys2Proof.Machine.execKeys s
  | .imageLoad flashAnswers => Sys2Proof.Machine.execImageLoad flashAnswers s
  | .imageVerify => Sys2Proof.Machine.execImageVerify s
  | .firmwareInit objects => Sys2Proof.Machine.execFirmwareInit objects s
  | .ready => Sys2Proof.Machine.execReady s
  | .bootTimeout => Sys2Proof.Machine.execBootTimeout s
  | .wardenWatchdog => Sys2Proof.Machine.execWardenWatchdog s
  | .wardenEcc => Sys2Proof.Machine.execWardenEcc s
  | .correctableEcc inRom => Sys2Proof.Machine.execCorrectableEcc inRom s
  | .clockStopRequest d => Sys2Proof.Machine.execClockStopRequest d s
  | .clockStopRelease d => Sys2Proof.Machine.execClockStopRelease d s
  | .domainGate d => Sys2Proof.Machine.execDomainGate d s
  | .domainWake d => Sys2Proof.Machine.execDomainWake d s
  | .powerGood d => Sys2Proof.Machine.execPowerGood d s
  | .culvertHandshakeComplete c => Sys2Proof.Machine.execCulvertHandshakeComplete c s
  | .fabricStatusUnreachable inst => Sys2Proof.Machine.execFabricStatusUnreachable inst s
  | .fabricStatusWithdraw inst => Sys2Proof.Machine.execFabricStatusWithdraw inst s
  | .funcEn vf enable => Sys2Proof.Machine.execFuncEn vf enable s
  | .flrReq vf => Sys2Proof.Machine.execFlrReq vf s
  | .functionResetDrained vf => Sys2Proof.Machine.execFunctionResetDrained vf s
  | .functionResetDone vf => Sys2Proof.Machine.execFunctionResetDone vf s
  | .hostPathFailure fn what => Sys2Proof.Machine.execHostPathFailure fn what s
  | .descriptorFetch queue data => Sys2Proof.Machine.execDescriptorFetch queue data s
  | .protectedPacketReceive port packet => Sys2Proof.Machine.execProtectedPacketReceive port packet s
  | .linkNoticeReceive port packet => Sys2Proof.Machine.execLinkNoticeReceive port packet s
  | .streamEntryFetch slice stream => Sys2Proof.Machine.execStreamEntryFetch slice stream s
  | .load => Sys2Proof.Machine.execLoad s
  | .store => Sys2Proof.Machine.execStore s
  | .atomic => Sys2Proof.Machine.execAtomic s
  | .reduceIntoRemoteMemory => Sys2Proof.Machine.execReduceIntoRemoteMemory s
  | .multicastStore => Sys2Proof.Machine.execMulticastStore s
  | .signal => Sys2Proof.Machine.execSignal s
  | .signalHoldRelease index => Sys2Proof.Machine.execSignalHoldRelease index s
  | .fence => Sys2Proof.Machine.execFence s
  | .fenceAnswerRelease index => Sys2Proof.Machine.execFenceAnswerRelease index s
  | .completion => Sys2Proof.Machine.execCompletion s
  | .ringHeartbeat => Sys2Proof.Machine.execRingHeartbeat s
  | .heartbeatSend ring => Sys2Proof.Machine.execHeartbeatSend ring s
  | .heartbeatMissed ring member => Sys2Proof.Machine.execHeartbeatMissed ring member s
  | .readShared => Sys2Proof.Machine.execReadShared s
  | .readOwn => Sys2Proof.Machine.execReadOwn s
  | .upgrade => Sys2Proof.Machine.execUpgrade s
  | .writeBack => Sys2Proof.Machine.execWriteBack s
  | .evictClean => Sys2Proof.Machine.execEvictClean s
  | .invalidate => Sys2Proof.Machine.execInvalidate s
  | .recall => Sys2Proof.Machine.execRecall s
  | .downgrade => Sys2Proof.Machine.execDowngrade s
  | .grant => Sys2Proof.Machine.execGrant s
  | .ack => Sys2Proof.Machine.execAck s
  | .dataBack => Sys2Proof.Machine.execDataBack s
  | .lineRequest ring message addr data => Sys2Proof.Machine.execLineRequest ring message addr data s
  | .open_ => Sys2Proof.Machine.execOpen s
  | .benchmarkCodes => Sys2Proof.Machine.execBenchmarkCodes s
  | .benchmarks => Sys2Proof.Machine.execBenchmarks s
  | .contribution => Sys2Proof.Machine.execContribution s
  | .result => Sys2Proof.Machine.execResult s
  | .filterCounts => Sys2Proof.Machine.execFilterCounts s
  | .filterBases => Sys2Proof.Machine.execFilterBases s
  | .receipt => Sys2Proof.Machine.execReceipt s
  | .report => Sys2Proof.Machine.execReport s
  | .done_ => Sys2Proof.Machine.execDone s
  | .abort => Sys2Proof.Machine.execAbort s
  | .collectiveResend index => Sys2Proof.Machine.execCollectiveResend index s
  | .collectiveWatchdog polder collective => Sys2Proof.Machine.execCollectiveWatchdog polder collective s
  | .barrierArrival => Sys2Proof.Machine.execBarrierArrival s
  | .barrierRelease => Sys2Proof.Machine.execBarrierRelease s
  | .barrierArrivalResend polder barrier => Sys2Proof.Machine.execBarrierArrivalResend polder barrier s
  | .barrierNodeWatchdog polder barrier => Sys2Proof.Machine.execBarrierNodeWatchdog polder barrier s
  | .barrierParticipantWatchdog polder barrier => Sys2Proof.Machine.execBarrierParticipantWatchdog polder barrier s
  | .releasedListExpiry index => Sys2Proof.Machine.execReleasedListExpiry index s
  | .stackAccess r => Sys2Proof.Machine.execStackAccess r s
  | .scaRead r => Sys2Proof.Machine.execScaRead r s
  | .inc r => Sys2Proof.Machine.execInc r s
  | .dec r => Sys2Proof.Machine.execDec r s
  | .waitGe r => Sys2Proof.Machine.execWaitGe r s
  | .waitDec r => Sys2Proof.Machine.execWaitDec r s
  | .set r => Sys2Proof.Machine.execSet r s
  | .scaInvalidOp r op => Sys2Proof.Machine.execScaInvalidOp r op s
  | .waitIdleThreshold core => Sys2Proof.Machine.execWaitIdleThreshold core s
  | .remoteRequest r => Sys2Proof.Machine.execRemoteRequest r s
  | .fauResend index => Sys2Proof.Machine.execFauResend index s
  | .fauGiveUp index => Sys2Proof.Machine.execFauGiveUp index s
  | .answerLogExpiry index => Sys2Proof.Machine.execAnswerLogExpiry index s
  | .replayEntryExpiry index => Sys2Proof.Machine.execReplayEntryExpiry index s
  | .holdQueueDiscard index => Sys2Proof.Machine.execHoldQueueDiscard index s
  | .markFire => Sys2Proof.Machine.execMarkFire s
  | .datumExchange t1 t2 t3 t4 upstreamLocked => Sys2Proof.Machine.execDatumExchange t1 t2 t3 t4 upstreamLocked s
  | .datumExchangeMissed => Sys2Proof.Machine.execDatumExchangeMissed s
  | .floodwatchStop polder originator => Sys2Proof.Machine.execFloodwatchStop polder originator s
  | .deviceFailed device => Sys2Proof.Machine.execDeviceFailed device s
  | .devicePresent device => Sys2Proof.Machine.execDevicePresent device s
  | .rebuildRow group => Sys2Proof.Machine.execRebuildRow group s
  | .rebuildEnd group => Sys2Proof.Machine.execRebuildEnd group s
  | .queueLevelReport weir level capacity => Sys2Proof.Machine.execQueueLevelReport weir level capacity s
  | .writeAcknowledged index => Sys2Proof.Machine.execWriteAcknowledged index s
  | .weirInterval weir backlogged admitted => Sys2Proof.Machine.execWeirInterval weir backlogged admitted s
  | .weirStatusMirror weir => Sys2Proof.Machine.execWeirStatusMirror weir s
  | .leaseExpiry extent => Sys2Proof.Machine.execLeaseExpiry extent s
  | .extentRevokeDrained extent => Sys2Proof.Machine.execExtentRevokeDrained extent s
  | .extentInitialisationComplete extent => Sys2Proof.Machine.execExtentInitialisationComplete extent s
  | .extentRekeyCopyComplete extent => Sys2Proof.Machine.execExtentRekeyCopyComplete extent s
  | .zeroFillComplete plot => Sys2Proof.Machine.execZeroFillComplete plot s
  | .plotReleaseDrained plot => Sys2Proof.Machine.execPlotReleaseDrained plot s
  | .regionWithdrawDrained index => Sys2Proof.Machine.execRegionWithdrawDrained index s
  | .kcuJobComplete kcu outcome => Sys2Proof.Machine.execKcuJobComplete kcu outcome s
  | .slotEvictionComplete slot => Sys2Proof.Machine.execSlotEvictionComplete slot s
  | .slotLoadTimeout polder => Sys2Proof.Machine.execSlotLoadTimeout polder s
  | .drbgReseed => Sys2Proof.Machine.execDrbgReseed s
  | .entropyHealthFailure test => Sys2Proof.Machine.execEntropyHealthFailure test s
  | .engineWatchdogExpiry unit => Sys2Proof.Machine.execEngineWatchdogExpiry unit s
  | .suspectCleared unit => Sys2Proof.Machine.execSuspectCleared unit s
  | .teardownDrained polder => Sys2Proof.Machine.execTeardownDrained polder s
  | .teardownComplete polder => Sys2Proof.Machine.execTeardownComplete polder s
  | .contextDestroyComplete context => Sys2Proof.Machine.execContextDestroyComplete context s
  | .memobjLastReference memobj => Sys2Proof.Machine.execMemobjLastReference memobj s
  | .stepBeginBoundary context => Sys2Proof.Machine.execStepBeginBoundary context s
  | .chartFreeze polder => Sys2Proof.Machine.execChartFreeze polder s
  | .chartExportTimeout polder => Sys2Proof.Machine.execChartExportTimeout polder s
  | .chartWritten polder => Sys2Proof.Machine.execChartWritten polder s
  | .imageRewriteComplete => Sys2Proof.Machine.execImageRewriteComplete s
  | .lcTransitionComplete => Sys2Proof.Machine.execLcTransitionComplete s
  | .kemOfferExpiry sluice => Sys2Proof.Machine.execKemOfferExpiry sluice s
  | .nonceExpiry => Sys2Proof.Machine.execNonceExpiry s
  | .authorisationExpiry => Sys2Proof.Machine.execAuthorisationExpiry s
  | .gaugeIncrement polder counter => Sys2Proof.Machine.execGaugeIncrement polder counter s
  | .gaugePeriodicCapture => Sys2Proof.Machine.execGaugePeriodicCapture s
  | .gaugeRecordSigned => Sys2Proof.Machine.execGaugeRecordSigned s
  | .eventRingSpaceReturn fn ring => Sys2Proof.Machine.execEventRingSpaceReturn fn ring s
  | .mailboxDoorbell fn => Sys2Proof.Machine.execMailboxDoorbell fn s
  | .fetch o tag => Sys2Proof.Machine.execFetch o tag s
  | .securedMessage o record => Sys2Proof.Machine.execSecuredMessage o record s
  | .regRead offset wide => Sys2Proof.Machine.execRegRead offset wide s
  | .recoveryLoad image => Sys2Proof.Machine.execRecoveryLoad image s
  | .getVersion sluice => Sys2Proof.Machine.execGetVersion sluice s
  | .getCapabilities sluice => Sys2Proof.Machine.execGetCapabilities sluice s
  | .negotiateAlgorithms sluice request => Sys2Proof.Machine.execNegotiateAlgorithms sluice request s
  | .getDigests sluice => Sys2Proof.Machine.execGetDigests sluice s
  | .getCertificate sluice slot offset length => Sys2Proof.Machine.execGetCertificate sluice slot offset length s
  | .challenge sluice slot nonce => Sys2Proof.Machine.execChallenge sluice slot nonce s
  | .getMeasurements sluice index signed nonce => Sys2Proof.Machine.execGetMeasurements sluice index signed nonce s
  | .kemOffer sluice key => Sys2Proof.Machine.execKemOffer sluice key s
  | .keyExchange sluice session share kemHash wantMutual => Sys2Proof.Machine.execKeyExchange sluice session share kemHash wantMutual s
  | .finish sluice session verify => Sys2Proof.Machine.execFinish sluice session verify s
  | .pqSignature sluice => Sys2Proof.Machine.execPqSignature sluice s
  | .heartbeat sluice session => Sys2Proof.Machine.execHeartbeat sluice session s
  | .keyUpdate sluice session both => Sys2Proof.Machine.execKeyUpdate sluice session both s
  | .endSession sluice session => Sys2Proof.Machine.execEndSession sluice session s
  | .chunkSend sluice handle last data => Sys2Proof.Machine.execChunkSend sluice handle last data s
  | .chunkGet sluice handle seq => Sys2Proof.Machine.execChunkGet sluice handle seq s
  | .unsupportedRequest sluice code => Sys2Proof.Machine.execUnsupportedRequest sluice code s
  | .polderProvision o tag polder confidential pmk => Sys2Proof.Machine.execPolderProvision o tag polder confidential pmk s
  | .polderMembership o tag polder mark members => Sys2Proof.Machine.execPolderMembership o tag polder mark members s
  | .polderTeardown o tag polder => Sys2Proof.Machine.execPolderTeardown o tag polder s
  | .polderList o tag first => Sys2Proof.Machine.execPolderList o tag first s
  | .keySlotPin o tag polder => Sys2Proof.Machine.execKeySlotPin o tag polder s
  | .keySlotUnpin o tag polder => Sys2Proof.Machine.execKeySlotUnpin o tag polder s
  | .keySlotStatus o tag slot => Sys2Proof.Machine.execKeySlotStatus o tag slot s
  | .plotAssign o tag memobj plot base writable zeroFill fillClass => Sys2Proof.Machine.execPlotAssign o tag memobj plot base writable zeroFill fillClass s
  | .plotRelease o tag plot => Sys2Proof.Machine.execPlotRelease o tag plot s
  | .plotQuery o tag plot => Sys2Proof.Machine.execPlotQuery o tag plot s
  | .memobjCreate o tag polder => Sys2Proof.Machine.execMemobjCreate o tag polder s
  | .memobjFree o tag memobj => Sys2Proof.Machine.execMemobjFree o tag memobj s
  | .contextCreate o tag polder cls cores => Sys2Proof.Machine.execContextCreate o tag polder cls cores s
  | .contextDestroy o tag context => Sys2Proof.Machine.execContextDestroy o tag context s
  | .queueCreate o tag context ring depth addr => Sys2Proof.Machine.execQueueCreate o tag context ring depth addr s
  | .queueDestroy o tag queue => Sys2Proof.Machine.execQueueDestroy o tag queue s
  | .eventRingCreate o tag size vector addr => Sys2Proof.Machine.execEventRingCreate o tag size vector addr s
  | .eventRingDestroy o tag ring => Sys2Proof.Machine.execEventRingDestroy o tag ring s
  | .fenceCreate o tag context => Sys2Proof.Machine.execFenceCreate o tag context s
  | .fenceShare o tag fence context => Sys2Proof.Machine.execFenceShare o tag fence context s
  | .fenceDestroy o tag fence => Sys2Proof.Machine.execFenceDestroy o tag fence s
  | .regionExport o tag memobj kind perms mcKey length firstOffset core base count plots => Sys2Proof.Machine.execRegionExport o tag memobj kind perms mcKey length firstOffset core base count plots s
  | .regionWithdraw o tag key => Sys2Proof.Machine.execRegionWithdraw o tag key s
  | .regionQuery o tag index => Sys2Proof.Machine.execRegionQuery o tag index s
  | .extentGrant o tag polder holder lease perms => Sys2Proof.Machine.execExtentGrant o tag polder holder lease perms s
  | .extentRenew o tag extent holder lease => Sys2Proof.Machine.execExtentRenew o tag extent holder lease s
  | .extentHandover o tag extent holder newHolder lease => Sys2Proof.Machine.execExtentHandover o tag extent holder newHolder lease s
  | .extentRevoke o tag extent => Sys2Proof.Machine.execExtentRevoke o tag extent s
  | .extentRekey o tag extent => Sys2Proof.Machine.execExtentRekey o tag extent s
  | .extentHint o tag extent hint => Sys2Proof.Machine.execExtentHint o tag extent hint s
  | .trayRebuildRate o tag percent => Sys2Proof.Machine.execTrayRebuildRate o tag percent s
  | .extentStatus o tag extent => Sys2Proof.Machine.execExtentStatus o tag extent s
  | .trayStatus o tag => Sys2Proof.Machine.execTrayStatus o tag s
  | .collectiveGroupDefine o tag mark desc => Sys2Proof.Machine.execCollectiveGroupDefine o tag mark desc s
  | .collectiveGroupDestroy o tag polder group => Sys2Proof.Machine.execCollectiveGroupDestroy o tag polder group s
  | .groupQuery o tag polder group => Sys2Proof.Machine.execGroupQuery o tag polder group s
  | .ringCreate o tag ring polder members own home mark => Sys2Proof.Machine.execRingCreate o tag ring polder members own home mark s
  | .ringMemberDead o tag ring inst => Sys2Proof.Machine.execRingMemberDead o tag ring inst s
  | .ringDestroy o tag ring mark => Sys2Proof.Machine.execRingDestroy o tag ring mark s
  | .mcastGroupJoin o tag polder group members => Sys2Proof.Machine.execMcastGroupJoin o tag polder group members s
  | .mcastGroupLeave o tag polder group => Sys2Proof.Machine.execMcastGroupLeave o tag polder group s
  | .datumConfig o tag root port => Sys2Proof.Machine.execDatumConfig o tag root port s
  | .datumStatus o tag => Sys2Proof.Machine.execDatumStatus o tag s
  | .syncCounterRead o tag core => Sys2Proof.Machine.execSyncCounterRead o tag core s
  | .contextStepRead o tag context => Sys2Proof.Machine.execContextStepRead o tag context s
  | .markQueueStatus o tag => Sys2Proof.Machine.execMarkQueueStatus o tag s
  | .chartExport o tag polder chart step addr len => Sys2Proof.Machine.execChartExport o tag polder chart step addr len s
  | .chartImport o tag polder memobj chart addr len => Sys2Proof.Machine.execChartImport o tag polder memobj chart addr len s
  | .chartResume o tag polder chart mark => Sys2Proof.Machine.execChartResume o tag polder chart mark s
  | .chartDiscard o tag polder chart => Sys2Proof.Machine.execChartDiscard o tag polder chart s
  | .weirConfig o tag weir minima => Sys2Proof.Machine.execWeirConfig o tag weir minima s
  | .weirStatus o tag weir => Sys2Proof.Machine.execWeirStatus o tag weir s
  | .counterRead o tag first count => Sys2Proof.Machine.execCounterRead o tag first count s
  | .streamCountersRead o tag polder stream peer direction => Sys2Proof.Machine.execStreamCountersRead o tag polder stream peer direction s
  | .polderCountersRead o tag polder => Sys2Proof.Machine.execPolderCountersRead o tag polder s
  | .traceConfig o tag sizeMib enable mask => Sys2Proof.Machine.execTraceConfig o tag sizeMib enable mask s
  | .traceFetch o tag offset length => Sys2Proof.Machine.execTraceFetch o tag offset length s
  | .lcStatus o tag => Sys2Proof.Machine.execLcStatus o tag s
  | .lcChallenge o tag target => Sys2Proof.Machine.execLcChallenge o tag target s
  | .lcTransition o tag target response => Sys2Proof.Machine.execLcTransition o tag target response s
  | .debugAuthorise o tag authorisation => Sys2Proof.Machine.execDebugAuthorise o tag authorisation s
  | .debugClose o tag => Sys2Proof.Machine.execDebugClose o tag s
  | .gaugeIdentity o tag => Sys2Proof.Machine.execGaugeIdentity o tag s
  | .gaugeCountersRead o tag polder => Sys2Proof.Machine.execGaugeCountersRead o tag polder s
  | .gaugeRecordFetch o tag first max => Sys2Proof.Machine.execGaugeRecordFetch o tag first max s
  | .gaugeRecordRelease o tag through => Sys2Proof.Machine.execGaugeRecordRelease o tag through s
  | .faultRead o tag first count => Sys2Proof.Machine.execFaultRead o tag first count s
  | .resetEngine o tag unit => Sys2Proof.Machine.execResetEngine o tag unit s
  | .resetContext o tag context => Sys2Proof.Machine.execResetContext o tag context s
  | .resetPolder o tag polder => Sys2Proof.Machine.execResetPolder o tag polder s
  | .resetVf o tag vf => Sys2Proof.Machine.execResetVf o tag vf s
  | .resetBlock o tag => Sys2Proof.Machine.execResetBlock o tag s
  | .serviceRelease o tag => Sys2Proof.Machine.execServiceRelease o tag s
  | .floodwatchConfig o tag enable => Sys2Proof.Machine.execFloodwatchConfig o tag enable s
  | .crashDumpRead o tag unit offset length => Sys2Proof.Machine.execCrashDumpRead o tag unit offset length s
  | .stragglerRead o tag polder inst => Sys2Proof.Machine.execStragglerRead o tag polder inst s
  | .identityRead o tag => Sys2Proof.Machine.execIdentityRead o tag s
  | .surveyRead o tag first count => Sys2Proof.Machine.execSurveyRead o tag first count s
  | .firmwareStage o tag offset data => Sys2Proof.Machine.execFirmwareStage o tag offset data s
  | .firmwareActivate o tag length => Sys2Proof.Machine.execFirmwareActivate o tag length s
  | .firmwareCommitSvn o tag n => Sys2Proof.Machine.execFirmwareCommitSvn o tag n s
  | .remoteOp queue => Sys2Proof.Machine.execRemoteOp queue s
  | .collectiveLaunch queue => Sys2Proof.Machine.execCollectiveLaunch queue s
  | .barrierArrive queue => Sys2Proof.Machine.execBarrierArrive queue s
  | .stepBegin queue => Sys2Proof.Machine.execStepBegin queue s
  | .fenceSignal queue => Sys2Proof.Machine.execFenceSignal queue s
  | .fenceWait queue => Sys2Proof.Machine.execFenceWait queue s
  | .bulkCopy queue => Sys2Proof.Machine.execBulkCopy queue s
  | .stateReqLock vf => Sys2Proof.Machine.execStateReqLock vf s
  | .stateReqRun vf => Sys2Proof.Machine.execStateReqRun vf s
  | .stateReqUnlock vf => Sys2Proof.Machine.execStateReqUnlock vf s
  | .allotWrite vf second value => Sys2Proof.Machine.execAllotWrite vf second value s
  | .dirtyEnable vf enable => Sys2Proof.Machine.execDirtyEnable vf enable s
  | .swap vf => Sys2Proof.Machine.execSwap vf s
  | .queueDoorbell fn queue value => Sys2Proof.Machine.execQueueDoorbell fn queue value s
  | .eventRingHead fn ring head => Sys2Proof.Machine.execEventRingHead fn ring head s
  | .arm fn ring => Sys2Proof.Machine.execArm fn ring s
  | .profSelWrite index value => Sys2Proof.Machine.execProfSelWrite index value s
  | .counterRegisterRead index wide => Sys2Proof.Machine.execCounterRegisterRead index wide s
  | .lowHalfRead window offset => Sys2Proof.Machine.execLowHalfRead window offset s
  | .registerWrite window offset wide value => Sys2Proof.Machine.execRegisterWrite window offset wide value s
  | .deliverEncapsulatedResponse sluice session chain signature => Sys2Proof.Machine.execDeliverEncapsulatedResponse sluice session chain signature s
  | .getEncapsulatedRequest sluice session => Sys2Proof.Machine.execGetEncapsulatedRequest sluice session s
  | .snoopResponse ring addr data => Sys2Proof.Machine.execSnoopResponse ring addr data s
  | .deviceReadReturn read data uncorrectable => Sys2Proof.Machine.execDeviceReadReturn read data uncorrectable s
  | .hostRequestComplete what => Sys2Proof.Machine.execHostRequestComplete what s
  | .chartImportComplete polder chart => Sys2Proof.Machine.execChartImportComplete polder chart s

end Sys2Proof.Machine
end

