-- ==== Sys2Proof/Machine/Tick.lean ====
section
/-! DEFINITION. What one nanosecond of the block's clocks does when no command waits (R277, R486, R490). -/

namespace Sys2Proof.Machine

/-- The correction of the clock's rate over one cycle: it comes due evenly over the 15,625,000 cycles between two
exchanges (R277, R279; notes/assumptions/81.md). -/
def steer (d : DatumUnit) : DatumUnit :=
  let phase := d.phase + d.rate.natAbs
  if 15625000 ≤ phase then { d with phase := phase - 15625000, slew := d.slew + d.rate.sign } else { d with phase := phase }

/-- The Datum over one cycle of its island clock: 1, or 0 or 2 in one cycle of 5,000 while an offset is to be removed
(R277). -/
def slewTick (d : DatumUnit) : DatumUnit :=
  if d.slew ≠ 0 && 4999 ≤ d.sinceSlew then
    { d with value := d.value + (if 0 < d.slew then 2 else 0), slew := if 0 < d.slew then d.slew - 1 else d.slew + 1,
             sinceSlew := 0 }
  else { d with value := d.value + 1, sinceSlew := if d.slew = 0 then d.sinceSlew else d.sinceSlew + 1 }

/-- One cycle of the Datum island clock. -/
def datumTick (d : DatumUnit) : DatumUnit := slewTick (steer d)

/-- The polders whose key slot is LOADING, RESIDENT or EVICTING (R486). -/
def residentPolders (s : State) : List PolderId :=
  (s.cad.slots.filter fun k => k.state = .loading || k.state = .resident || k.state = .evicting).map (·.polder)

/-- Residency is metered as the Gauge time advances by one period of its 100 MHz clock (R486, R490). -/
def gaugeTick (s : State) : State :=
  if s.gauge.powered && (s.time + 1) % 10 = 0 then
    let s := { s with gauge := { s.gauge with time := s.gauge.time + 10 } }
    (residentPolders s).foldl (fun t p => meter p 6 10 t) s
  else s

/-- One nanosecond: the Datum runs unless power-on or block reset holds it, and the Gauge while it has power. -/
def tick (s : State) : State :=
  let s := gaugeTick s
  let s := if s.pins.porN && s.pins.blockRstN then { s with datum := datumTick s.datum } else s
  { s with time := s.time + 1 }

end Sys2Proof.Machine
end

