-- ==== Sys2Proof/Safety.lean ====
section
/-! DEFINITION. What every step of the block keeps: memories in canonical form, configuration registers within their
ranges, bounded fault rings, and fuses that stay blown. -/

namespace Sys2Proof.Machine

/-- The stacks and the tray devices are in canonical form. -/
def State.memoriesWf (s : State) : Prop :=
  Mem.wf 0 s.stack.mem = true ∧ Mem.wf 0 s.tray.devices = true

/-- The configuration registers hold values of their ranges (R499, R504). -/
def Regs.inRange (r : Regs) : Prop :=
  1 ≤ r.gateDelayUs ∧ r.gateDelayUs ≤ 1000 ∧ 1 ≤ r.waitIdleUs ∧ r.waitIdleUs ≤ 10000
    ∧ 1 ≤ r.stragglerUs ∧ r.stragglerUs ≤ 1000000 ∧ ∀ x ∈ r.watchdogMs, 1 ≤ x.2 ∧ x.2 ≤ 1000

/-- Every bit blown in the copies of one row of code slots is blown in the other's. -/
def Rows.blownIn (a b : Rows) : Prop :=
  a.copy0 &&& b.copy0 = a.copy0 ∧ a.copy1 &&& b.copy1 = a.copy1 ∧ a.copy2 &&& b.copy2 = a.copy2

/-- Every fuse blown in f is blown in g; what no command blows is the same (R459, R524). -/
def Fuses.blownIn (f g : Fuses) : Prop :=
  f.root &&& g.root = f.root ∧ f.gaugeSecret &&& g.gaugeSecret = f.gaugeSecret ∧ f.record.blownIn g.record
    ∧ f.intent.blownIn g.intent ∧ f.svn &&& g.svn = f.svn ∧ f.vendor = g.vendor ∧ f.owner = g.owner
    ∧ f.rootFlag = g.rootFlag ∧ f.debugPolicy = g.debugPolicy

/-- The fault ring holds at most 4,096 records and its side-band copy at most 64 (R431, R436). -/
def State.ringsBounded (s : State) : Prop := s.tracer.faults.length ≤ 4096 ∧ s.sb.faultCopy.length ≤ 64

/-- What is fixed from one state to the next: the fuses that were once blown, the queue and the chip's sizes. -/
structure Kept where
  fuses   : Fuses
  pending : List Instr
  chip    : Integration
  deriving DecidableEq, Repr

/-- What a state has now, to be kept. -/
def State.kept (s : State) : Kept := { fuses := s.fuses, pending := s.pending, chip := s.chip }

/-- The fuses blown in k are blown in s; the queue and the chip's sizes are the same. -/
def State.keeps (k : Kept) (s : State) : Prop := k.fuses.blownIn s.fuses ∧ s.pending = k.pending ∧ s.chip = k.chip

/-- What every command keeps. -/
def State.Sound (k : Kept) (s : State) : Prop :=
  s.memoriesWf ∧ s.regs.inRange ∧ s.keeps k ∧ s.ringsBounded

/-- The parts of State. -/
inductive Part where
  | pending | out | time | chip | owner | pins | boot | fuses | flash | lc | sb | datum | polders | cad | keys | link | stack
  | tray | fau | rings | coll | bars | sca | obj | fns | spdm | weirs | charts | tracer | gauge | power | regs | pool | free
  deriving DecidableEq, Repr

/-- Two states hold the same in a part. -/
abbrev Part.same (p : Part) (s t : State) : Prop :=
  match p with
  | .pending => t.pending = s.pending
  | .out => t.out = s.out
  | .time => t.time = s.time
  | .chip => t.chip = s.chip
  | .owner => t.owner = s.owner
  | .pins => t.pins = s.pins
  | .boot => t.boot = s.boot
  | .fuses => t.fuses = s.fuses
  | .flash => t.flash = s.flash
  | .lc => t.lc = s.lc
  | .sb => t.sb = s.sb
  | .datum => t.datum = s.datum
  | .polders => t.polders = s.polders
  | .cad => t.cad = s.cad
  | .keys => t.keys = s.keys
  | .link => t.link = s.link
  | .stack => t.stack = s.stack
  | .tray => t.tray = s.tray
  | .fau => t.fau = s.fau
  | .rings => t.rings = s.rings
  | .coll => t.coll = s.coll
  | .bars => t.bars = s.bars
  | .sca => t.sca = s.sca
  | .obj => t.obj = s.obj
  | .fns => t.fns = s.fns
  | .spdm => t.spdm = s.spdm
  | .weirs => t.weirs = s.weirs
  | .charts => t.charts = s.charts
  | .tracer => t.tracer = s.tracer
  | .gauge => t.gauge = s.gauge
  | .power => t.power = s.power
  | .regs => t.regs = s.regs
  | .pool => t.pool = s.pool
  | .free => t.free = s.free

/-- Two states hold the same in every part but those listed. -/
def State.agree (A : List Part) (s t : State) : Prop := ∀ p, A.contains p = false → Part.same p s t

/-- Whether every part of W is one of A. -/
def partsIn (W A : List Part) : Bool := W.all A.contains

end Sys2Proof.Machine
end

