-- ==== Sys2Proof/Claims.lean ====
section
/-! DEFINITION. The terms that statements use: a command that completes, a Warden command that passes the checks before its
own, and the parts of State that each command may change. -/

namespace Sys2Proof.Machine

/-- The command answers a next state, of which P holds. -/
def Completes (c : Instr) (s : State) (P : State → Prop) : Prop := ∃ t, exec c s = .next t ∧ P t

/-- A POLDER_PROVISION with a field that check 1 of R343 refuses. -/
def badProvision : Instr → Bool
  | .polderProvision _ _ p conf _ => provisionMalformed false p conf
  | _ => false

/-- The Warden commands: each one's row of R383's tables (its opcode, the sluices that carry it, its roles), its sender and
its tag. -/
def wardenRow : Instr → Option (CmdInfo × Origin × BitVec 32)
  | .polderProvision o tag .. => some ({ opcode := 0x0101, vf := true, sbt := true }, o, tag)
  | .polderMembership o tag .. => some ({ opcode := 0x0102, fm := true }, o, tag)
  | .polderTeardown o tag .. => some ({ opcode := 0x0103, pf := true, vf := true, sbp := true, sbt := true, fm := true }, o, tag)
  | .polderList o tag .. => some ({ opcode := 0x0104, pf := true, sbp := true }, o, tag)
  | .keySlotPin o tag .. => some ({ opcode := 0x0201, pf := true, vf := true, sbt := true, ladder := true }, o, tag)
  | .keySlotUnpin o tag .. => some ({ opcode := 0x0202, pf := true, vf := true, sbt := true, ladder := true }, o, tag)
  | .keySlotStatus o tag .. => some ({ opcode := 0x0203, pf := true, vf := true, sbt := true }, o, tag)
  | .plotAssign o tag .. => some ({ opcode := 0x0301, pf := true, vf := true, roles := [.e] }, o, tag)
  | .plotRelease o tag .. => some ({ opcode := 0x0302, pf := true, vf := true, roles := [.e] }, o, tag)
  | .plotQuery o tag .. => some ({ opcode := 0x0303, pf := true, vf := true, roles := [.e] }, o, tag)
  | .memobjCreate o tag .. => some ({ opcode := 0x0304, pf := true, vf := true, roles := [.e] }, o, tag)
  | .memobjFree o tag .. => some ({ opcode := 0x0305, pf := true, vf := true, roles := [.e] }, o, tag)
  | .contextCreate o tag .. => some ({ opcode := 0x0401, pf := true, vf := true, roles := [.e] }, o, tag)
  | .contextDestroy o tag .. => some ({ opcode := 0x0402, pf := true, vf := true, sbp := true, roles := [.e] }, o, tag)
  | .queueCreate o tag .. => some ({ opcode := 0x0403, pf := true, vf := true, roles := [.e] }, o, tag)
  | .queueDestroy o tag .. => some ({ opcode := 0x0404, pf := true, vf := true, sbp := true, roles := [.e] }, o, tag)
  | .eventRingCreate o tag .. => some ({ opcode := 0x0405, pf := true, vf := true }, o, tag)
  | .eventRingDestroy o tag .. => some ({ opcode := 0x0406, pf := true, vf := true, sbp := true }, o, tag)
  | .fenceCreate o tag .. => some ({ opcode := 0x0407, pf := true, vf := true, roles := [.e] }, o, tag)
  | .fenceShare o tag .. => some ({ opcode := 0x0408, pf := true, vf := true, roles := [.e] }, o, tag)
  | .fenceDestroy o tag .. => some ({ opcode := 0x0409, pf := true, vf := true, sbp := true, roles := [.e] }, o, tag)
  | .regionExport o tag .. => some ({ opcode := 0x0501, pf := true, vf := true, roles := [.e] }, o, tag)
  | .regionWithdraw o tag .. => some ({ opcode := 0x0502, pf := true, vf := true, roles := [.e] }, o, tag)
  | .regionQuery o tag .. => some ({ opcode := 0x0503, pf := true, vf := true, roles := [.e] }, o, tag)
  | .extentGrant o tag .. => some (trayInfo 0x0601 false true true true, o, tag)
  | .extentRenew o tag .. => some (trayInfo 0x0602 false true true false, o, tag)
  | .extentHandover o tag .. => some (trayInfo 0x0603 false true true false, o, tag)
  | .extentRevoke o tag .. => some (trayInfo 0x0604 false true true false, o, tag)
  | .extentRekey o tag .. => some (trayInfo 0x0605 false true false true, o, tag)
  | .extentHint o tag .. => some (trayInfo 0x0606 true true false false, o, tag)
  | .trayRebuildRate o tag .. => some (trayInfo 0x0607 true false false false, o, tag)
  | .extentStatus o tag .. => some (trayInfo 0x0608 true true true false, o, tag)
  | .trayStatus o tag => some (trayInfo 0x0609 true true true false, o, tag)
  | .collectiveGroupDefine o tag .. => some ({ opcode := 0x0701, fm := true }, o, tag)
  | .collectiveGroupDestroy o tag .. => some ({ opcode := 0x0702, fm := true }, o, tag)
  | .groupQuery o tag .. => some ({ opcode := 0x0703, pf := true, vf := true, sbp := true, fm := true }, o, tag)
  | .ringCreate o tag .. => some ({ opcode := 0x0704, fm := true, roles := [.e, .t] }, o, tag)
  | .ringMemberDead o tag .. => some ({ opcode := 0x0705, fm := true, roles := [.e, .t] }, o, tag)
  | .ringDestroy o tag .. => some ({ opcode := 0x0706, fm := true, roles := [.e, .t] }, o, tag)
  | .mcastGroupJoin o tag .. => some ({ opcode := 0x0707, fm := true }, o, tag)
  | .mcastGroupLeave o tag .. => some ({ opcode := 0x0708, fm := true }, o, tag)
  | .datumConfig o tag .. => some ({ opcode := 0x0801, fm := true }, o, tag)
  | .datumStatus o tag => some ({ opcode := 0x0802, pf := true, vf := true, sbp := true, fm := true }, o, tag)
  | .syncCounterRead o tag .. => some ({ opcode := 0x0803, pf := true, vf := true, roles := [.e] }, o, tag)
  | .contextStepRead o tag .. => some ({ opcode := 0x0804, pf := true, vf := true, roles := [.e] }, o, tag)
  | .markQueueStatus o tag => some ({ opcode := 0x0805, pf := true, sbp := true, fm := true }, o, tag)
  | .chartExport o tag .. => some ({ opcode := 0x0901, vf := true, sbt := true, ladder := true }, o, tag)
  | .chartImport o tag .. => some ({ opcode := 0x0902, vf := true, sbt := true, ladder := true }, o, tag)
  | .chartResume o tag .. => some ({ opcode := 0x0903, vf := true, sbt := true, fm := true }, o, tag)
  | .chartDiscard o tag .. => some ({ opcode := 0x0904, vf := true, sbt := true }, o, tag)
  | .weirConfig o tag .. => some ({ opcode := 0x0A01, pf := true }, o, tag)
  | .weirStatus o tag .. => some ({ opcode := 0x0A02, pf := true, sbp := true }, o, tag)
  | .counterRead o tag .. => some ({ opcode := 0x0B01, pf := true, vf := true, sbp := true, fm := true, dbg := true }, o, tag)
  | .streamCountersRead o tag .. => some ({ opcode := 0x0B02, pf := true, vf := true, sbp := true, fm := true, dbg := true }, o, tag)
  | .polderCountersRead o tag .. => some ({ opcode := 0x0B03, pf := true, vf := true, sbp := true, fm := true, dbg := true }, o, tag)
  | .traceConfig o tag .. => some ({ opcode := 0x0B04, pf := true }, o, tag)
  | .traceFetch o tag .. => some ({ opcode := 0x0B05, pf := true, sbp := true, dbg := true }, o, tag)
  | .lcStatus o tag => some ({ opcode := 0x0C01, pf := true, sbp := true, dbg := true }, o, tag)
  | .lcChallenge o tag .. => some ({ opcode := 0x0C02, sbp := true }, o, tag)
  | .lcTransition o tag .. => some ({ opcode := 0x0C03, sbp := true, dbg := true }, o, tag)
  | .debugAuthorise o tag .. => some ({ opcode := 0x0C04, sbp := true, dbg := true }, o, tag)
  | .debugClose o tag => some ({ opcode := 0x0C05, sbp := true, dbg := true }, o, tag)
  | .gaugeIdentity o tag => some (gaugeInfo 0x0D01, o, tag)
  | .gaugeCountersRead o tag .. => some (gaugeInfo 0x0D02, o, tag)
  | .gaugeRecordFetch o tag .. => some (gaugeInfo 0x0D03, o, tag)
  | .gaugeRecordRelease o tag .. => some ({ opcode := 0x0D04, pf := true, sbp := true }, o, tag)
  | .faultRead o tag .. => some ({ opcode := 0x0E01, pf := true, vf := true, sbp := true, fm := true }, o, tag)
  | .resetEngine o tag .. => some ({ opcode := 0x0E02, pf := true, sbp := true }, o, tag)
  | .resetContext o tag .. => some ({ opcode := 0x0E02, pf := true, vf := true, sbp := true, roles := [.e] }, o, tag)
  | .resetPolder o tag .. => some ({ opcode := 0x0E02, pf := true, vf := true, sbp := true, fm := true }, o, tag)
  | .resetVf o tag .. => some ({ opcode := 0x0E02, pf := true, sbp := true }, o, tag)
  | .resetBlock o tag => some ({ opcode := 0x0E02, pf := true, sbp := true }, o, tag)
  | .serviceRelease o tag => some ({ opcode := 0x0E03, sbp := true }, o, tag)
  | .floodwatchConfig o tag .. => some ({ opcode := 0x0E04, fm := true }, o, tag)
  | .crashDumpRead o tag .. => some ({ opcode := 0x0E05, pf := true, sbp := true }, o, tag)
  | .stragglerRead o tag .. => some ({ opcode := 0x0E06, pf := true, fm := true, roles := [.e, .s] }, o, tag)
  | .identityRead o tag => some ({ opcode := 0x0F01, pf := true, vf := true, sbp := true, fm := true, dbg := true }, o, tag)
  | .surveyRead o tag .. => some ({ opcode := 0x0F02, pf := true, vf := true, sbp := true, fm := true, dbg := true }, o, tag)
  | .firmwareStage o tag .. => some ({ opcode := 0x0F03, pf := true, sbp := true }, o, tag)
  | .firmwareActivate o tag .. => some ({ opcode := 0x0F04, pf := true, sbp := true }, o, tag)
  | .firmwareCommitSvn o tag .. => some ({ opcode := 0x0F05, pf := true, sbp := true }, o, tag)
  | _ => none

/-- Whether a command is RESET of scope 4, the whole block (R466). -/
def resetsBlock : Instr → Bool
  | .resetBlock .. => true
  | _ => false

/-- An origin's session, if it has one, can seal one more response (R317). -/
def canSeal (o : Origin) (s : State) : Prop := ∀ x, sessionOf o s = some x → x.txSeq ≠ BitVec.allOnes 64

/-- A Warden command, its length right and its reserved fields zero, passes every check of R379 that comes before its
own, and its response can be sealed. -/
def Passes (c : Instr) (s : State) : Prop :=
  ∃ ci o tag, wardenRow c = some (ci, o, tag) ∧ running s = true ∧ canSeal o s
    ∧ cmdCheck ci o tag false false (resetsBlock c) s = none

/-- A Warden command completes, answers with a status and a payload, and leaves a state of which P holds. -/
def Answers (c : Instr) (s : State) (st : Status) (payload : Bytes) (P : State → Prop) : Prop :=
  ∃ ci o tag, wardenRow c = some (ci, o, tag)
    ∧ Completes c s fun t => .response o tag ci.opcode st payload ∈ t.out ∧ P t

/-- The Tracer but for its trace: the ring, its head, its dropped events and those on their way, which the trace of a record's
AES work moves on. -/
def Tracer.still (t : Tracer) : Tracer :=
  { t with ring := [], head := 0, dropped := 0, inFlight := [], late := [], counters := t.counters.filter fun x => x.1 ≠ 0x010 }

/-- The value of an event counter (R471). -/
def counterOf (i : Nat) (s : State) : BitVec 63 := assocGet i 0 s.tracer.counters

/-- A domain takes work that arrives now: it serves, and nothing waits to enter it (R42, R45, R46, R48). -/
def accepts (s : State) (d : DomainId) : Bool := serves s d && !entering s d

/-- A packet that arrives at a port is received now: the link serves, the port's slice takes work, and no packet waits before
it (R42, R71, R75). -/
def portOpen (port : BitVec 8) (s : State) : Bool :=
  linkServes s && decide (port.toNat < portCount s.boot.role) && accepts s ⟨.lceRx, port⟩ && !rxFull s port
    && !s.link.rxPort.any fun x => x.1 = port

/-- The FAU, in a role that has one, takes work now (R42, R46, R48). -/
def fauServes (s : State) : Bool := !domainExists s fauDomain || serves s fauDomain

/-- The state in which the FAU takes work: its domain has work now (R41). -/
def atFau (s : State) : State := if domainExists s fauDomain then markWork fauDomain s else s

/-- The FAU takes a request of an opcode now: an atomic's replay banks serve too (R42, R181). -/
def opServes (op : BitVec 8) (s : State) : Bool :=
  fauServes s && (op ≠ 3 || s.boot.role = .s || replayDomains.all (serves s))

/-- The state in which the FAU takes a request of an opcode: an atomic's replay banks have work too (R41, R181). -/
def atTarget (op : BitVec 8) (s : State) : State :=
  if op = 3 && s.boot.role ≠ .s then replayDomains.foldl (fun t d => markWork d t) (atFau s) else atFau s

/-- The state in which a request is judged: its record raised, and what waited for memory or room tried again (R166). -/
def raisedAt (r : Released) (s : State) : State := retryMemWait (raiseRecord r (atTarget r.inner.opcode s))

/-- The state in which a new request is performed: its record raised, its number seen, the request out of the inbox and
counted (R166, R168). -/
def taken (r : Released) (s : State) : State := count 0x281 (setSeen r (dropReleased r (raisedAt r s)))

/-- A request of an opcode is the next to be served and new (R166 to R168, R178): its number is unseen, its answer can be
entered, and it can be held if it must be. -/
def FreshRequest (op : BitVec 8) (r : Released) (s : State) : Prop :=
  running s = true ∧ nextReleased s op 0 = some r ∧ isFrozen s r.polder = false ∧ opServes op s = true
    ∧ seqCase r (raisedAt r s) = .fresh ∧ holdFull r (raisedAt r s) = false ∧ answerRoom r (taken r s) = true

/-- The state in which a ring message is judged: its record raised and the message out of the inbox (R168, R189). -/
def ringAt (m : Released) (s : State) : State := retryMemWait (dropReleased m (raiseRecord m (atFau s)))

/-- The state in which a ring message that is new is acted on: its number seen too (R168, R189). -/
def seenRing (m : Released) (s : State) : State := setSeen m (ringAt m s)

/-- A ring message of a type is the next to be taken, new, of a member that is not dead, and names an active ring and an
address of it (R187, R189, R195). -/
def FreshRing (msg : Nat) (r : Ring) (m : Released) (s : State) : Prop :=
  running s = true ∧ nextRing s msg = some m ∧ fauServes s = true ∧ deadSender m (ringAt m s) = none
    ∧ seqCase m (ringAt m s) = .fresh ∧ ringAdmits m (seenRing m s) = some r

/-- Whether the home awaits a line's data of the member that a snoop of its own asked (R192). -/
def awaitsData (r : Ring) (q : RingReq) (s : State) : Bool :=
  s.rings.txns.any fun t => t.ring = r.id && t.line = addrLine q.addr && t.data = some q.member

/-- A request of a member k at the home of its line, which no transaction or earlier request of the line holds back and
whose directory bank serves (R191). -/
def AtHome (msg : Nat) (r : Ring) (k : BitVec 3) (m : Released) (s : State) : Prop :=
  FreshRing msg r m s ∧ addrHome m.inner.offset = r.own ∧ memberIndex r m.src = some k ∧ memberDead r k = false
    ∧ r.destroying = none ∧ lineBusy (seenRing m s) r.id (addrLine m.inner.offset) = false
    ∧ (seenRing m s).rings.waiting.any (ofLine r.id (addrLine m.inner.offset)) = false
    ∧ serves (seenRing m s) (ringDomain r.id (addrLine m.inner.offset)) = true

/-- An access to the stacks that its slice takes now: the slice and the plot's map take work, its polder is not frozen, the
slice's miss queue has room, and no access waits before it at the slice's port (R42, R94, R420). -/
def AtStack (r : StackReq) (s : State) : Prop :=
  running s = true ∧ s.boot.role = .e ∧ accepts s (sceDomain r.addr.toNat) = true
    ∧ serves s (spmDomain r.addr.toNat) = true ∧ reqFrozen s r = false ∧ sliceFull s (reqSlice r) = false
    ∧ ∀ p ∈ s.stack.port, reqSlice p = reqSlice r → reqFrozen s p = true

/-- No access to an access's data unit is before it, of a core or of another unit of the block (R87). -/
def UnitFree (r : StackReq) (s : State) : Prop :=
  unitBusy s (r.addr.toNat / 256) = false ∧ (∀ h ∈ s.stack.held, sameUnit (r.addr.toNat / 256) h.req = false)
    ∧ outsideFirst s (r.addr.toNat / 256) s.stack.turns = false

/-- What an access is once its slice has taken it: its polder, and its turn among those to its data unit (R87). -/
def asWait (r : StackReq) (x : Context) (s : State) : StackWait := ⟨r, x.polder, s.stack.turns⟩

/-- The state in which an access goes on to its keys: its turn is taken, and its slice and its Weir have work (R41, R87). -/
def atSlice (r : StackReq) (s : State) : State :=
  let t := markWork (sceDomain r.addr.toNat) s
  (stackPath r.addr.toNat).foldl (fun t d => markWork d t) { t with stack := { t.stack with turns := t.stack.turns + 1 } }

/-- A collective or barrier packet of a direction and type is the next to be taken, the domains of its units serve, and it is
of a group that this block holds and that names its sender (R42, R541); u is the state in which it is served. -/
def Admitted (up : Bool) (type : BitVec 4) (barrier : Bool) (g : Group) (r : Released) (s u : State) : Prop :=
  running s = true ∧ nextColl s up type barrier = some r ∧ isFrozen s r.polder = false
    ∧ (∀ d ∈ collDomains s r.inner.regionKey barrier, serves s d = true)
    ∧ admitColl r (up && type = 0 && !barrier)
        (dropReleased r ((collDomains s r.inner.regionKey barrier).foldl (fun t d => markWork d t) s)) = (some g, u)

/-- A packet comes from child i of the node that this block is in a collective, and the child has opened it (R243, R541). -/
def FromKid (g : Group) (r : Released) (n : CollNode) (i : Nat) (k : Kid) (u : State) : Prop :=
  findNode u g.polder r.inner.regionKey = some n ∧ n.launch.group = g.id ∧ kidFrom g n.node r.src = some (i, k)
    ∧ (getKid n i).opened = true

/-- The parts of State that a command may change. -/
def touches : Instr → List Part
  | .powerOnResetRelease .. => [.pins, .sb, .datum, .gauge]
  | .powerOnResetAssert .. | .blockResetAssert .. =>
    [.owner, .pins, .boot, .flash, .lc, .sb, .datum, .polders, .cad, .keys, .link, .stack, .tray, .fau, .rings,
     .coll, .bars, .sca, .obj, .fns, .spdm, .weirs, .charts, .tracer, .gauge, .power, .regs, .pool, .free]
  | .blockResetRelease .. => [.out, .pins, .boot, .sb, .tracer, .gauge]
  | .lcResolve .. => [.out, .boot, .fuses, .flash, .lc, .sb, .cad, .stack, .tracer]
  | .entropy .. | .keys .. =>
    [.out, .pins, .boot, .sb, .polders, .cad, .keys, .stack, .obj, .fns, .tracer, .power, .free]
  | .imageLoad .. => [.out, .boot, .sb]
  | .imageVerify .. => [.out, .boot, .sb, .polders, .keys, .obj, .fns, .tracer, .power, .free]
  | .firmwareInit .. => [.out, .owner, .boot, .sb, .polders, .keys, .stack, .obj, .fns, .tracer, .power, .pool, .free]
  | .ready .. =>
    [.out, .pins, .boot, .sb, .datum, .polders, .cad, .keys, .link, .stack, .tray, .fau, .rings, .coll, .bars,
     .sca, .obj, .fns, .charts, .tracer, .gauge, .power, .pool, .free]
  | .bootTimeout .. | .wardenWatchdog .. | .wardenEcc .. | .kcuJobComplete .. | .resetBlock ..
  | .serviceRelease .. =>
    [.out, .owner, .pins, .boot, .flash, .lc, .sb, .datum, .polders, .cad, .keys, .link, .stack, .tray, .fau,
     .rings, .coll, .bars, .sca, .obj, .fns, .spdm, .weirs, .charts, .tracer, .gauge, .power, .regs, .pool, .free]
  | .correctableEcc .. => [.tracer]
  | .clockStopRequest .. => [.pins, .tracer, .free]
  | .clockStopRelease .. | .powerGood .. =>
    [.out, .pins, .sb, .datum, .polders, .cad, .keys, .link, .stack, .tray, .fau, .rings, .coll, .bars, .sca, .obj,
     .fns, .charts, .tracer, .gauge, .power, .regs, .pool, .free]
  | .domainGate .. => [.pins, .keys, .link, .stack, .tracer, .free]
  | .domainWake .. => [.pins, .tracer]
  | .culvertHandshakeComplete .. | .fabricStatusUnreachable .. | .functionResetDrained ..
  | .linkNoticeReceive .. | .streamEntryFetch .. | .load .. | .store .. | .atomic ..
  | .reduceIntoRemoteMemory .. | .multicastStore .. | .signal .. | .signalHoldRelease .. | .fence ..
  | .fenceAnswerRelease .. | .completion .. | .heartbeatMissed .. | .readShared .. | .readOwn .. | .upgrade ..
  | .writeBack .. | .evictClean .. | .invalidate .. | .recall .. | .downgrade .. | .grant .. | .ack ..
  | .dataBack .. | .fauResend .. | .fauGiveUp .. | .answerLogExpiry .. | .replayEntryExpiry ..
  | .holdQueueDiscard .. | .markFire .. | .writeAcknowledged .. | .zeroFillComplete .. | .plotReleaseDrained ..
  | .slotEvictionComplete .. | .slotLoadTimeout .. | .engineWatchdogExpiry .. | .suspectCleared ..
  | .teardownComplete .. | .memobjLastReference .. | .chartFreeze .. | .chartExportTimeout ..
  | .chartWritten .. | .snoopResponse .. | .chartImportComplete .. =>
    [.out, .pins, .sb, .datum, .polders, .cad, .keys, .link, .stack, .tray, .fau, .rings, .coll, .bars, .sca, .obj,
     .fns, .charts, .tracer, .gauge, .power, .pool, .free]
  | .fabricStatusWithdraw .. => [.fau]
  | .funcEn .. | .flrReq .. | .resetVf .. | .stateReqUnlock .. =>
    [.out, .pins, .sb, .datum, .polders, .cad, .keys, .stack, .sca, .obj, .fns, .spdm, .charts, .tracer, .gauge,
     .power, .pool, .free]
  | .functionResetDone .. | .hostPathFailure .. | .hostRequestComplete .. => [.out, .obj, .fns, .tracer]
  | .descriptorFetch .. | .floodwatchStop .. => [.out, .sb, .polders, .obj, .fns, .tracer, .free]
  | .protectedPacketReceive .. | .heartbeatSend .. | .remoteRequest .. | .remoteOp .. =>
    [.out, .pins, .sb, .polders, .cad, .keys, .link, .stack, .fau, .rings, .obj, .fns, .tracer, .gauge, .power,
     .free]
  | .ringHeartbeat .. => [.link, .rings, .tracer]
  | .lineRequest .. =>
    [.out, .pins, .sb, .polders, .cad, .keys, .link, .stack, .tray, .fau, .rings, .obj, .fns, .tracer, .gauge,
     .power, .free]
  | .open_ .. | .benchmarkCodes .. | .benchmarks .. | .contribution .. | .filterCounts .. | .filterBases ..
  | .receipt .. | .report .. | .collectiveResend .. | .collectiveWatchdog .. | .collectiveLaunch .. =>
    [.out, .pins, .sb, .datum, .polders, .cad, .keys, .link, .stack, .fau, .rings, .coll, .obj, .fns, .tracer,
     .gauge, .power, .free]
  | .result .. =>
    [.out, .pins, .sb, .datum, .polders, .cad, .keys, .link, .stack, .tray, .fau, .rings, .coll, .obj, .fns,
     .tracer, .gauge, .power, .free]
  | .done_ .. =>
    [.out, .pins, .sb, .datum, .polders, .cad, .keys, .link, .stack, .coll, .obj, .fns, .tracer, .power, .free]
  | .abort .. | .barrierArrival .. | .barrierArrivalResend .. | .barrierNodeWatchdog .. | .barrierArrive .. =>
    [.out, .pins, .sb, .datum, .polders, .cad, .keys, .link, .stack, .fau, .rings, .coll, .bars, .obj, .fns,
     .tracer, .gauge, .power, .free]
  | .barrierRelease .. =>
    [.out, .pins, .sb, .datum, .polders, .link, .coll, .bars, .sca, .obj, .fns, .tracer, .power, .free]
  | .barrierParticipantWatchdog .. => [.out, .sb, .datum, .polders, .link, .coll, .bars, .obj, .fns, .tracer, .free]
  | .releasedListExpiry .. => [.bars]
  | .stackAccess .. => [.out, .pins, .sb, .polders, .cad, .keys, .stack, .obj, .fns, .tracer, .gauge, .power, .free]
  | .scaRead .. | .inc .. | .dec .. | .waitGe .. | .waitDec .. | .set .. | .scaInvalidOp .. =>
    [.out, .pins, .sb, .polders, .sca, .obj, .fns, .tracer, .power, .free]
  | .waitIdleThreshold .. => [.sca, .tracer]
  | .datumExchange .. | .datumExchangeMissed .. => [.out, .sb, .datum, .polders, .obj, .fns, .tracer, .free]
  | .deviceFailed .. | .rebuildEnd .. => [.out, .sb, .polders, .tray, .obj, .fns, .weirs, .tracer, .free]
  | .devicePresent .. => [.tray]
  | .rebuildRow .. => [.pins, .tray, .weirs, .tracer, .power]
  | .queueLevelReport .. | .deviceReadReturn .. =>
    [.out, .pins, .sb, .datum, .polders, .cad, .keys, .link, .stack, .tray, .fau, .rings, .coll, .bars, .sca, .obj,
     .fns, .weirs, .charts, .tracer, .gauge, .power, .pool, .free]
  | .weirInterval .. => [.out, .sb, .polders, .obj, .fns, .weirs, .tracer, .free]
  | .weirStatusMirror .. => [.weirs]
  | .leaseExpiry .. => [.out, .sb, .polders, .tray, .obj, .fns, .tracer, .free]
  | .extentRevokeDrained .. | .extentInitialisationComplete .. | .extentRekeyCopyComplete .. =>
    [.out, .pins, .sb, .polders, .cad, .keys, .link, .stack, .tray, .fau, .rings, .sca, .obj, .fns, .tracer,
     .gauge, .power, .free]
  | .regionWithdrawDrained .. => [.out, .fau, .obj, .fns, .tracer]
  | .drbgReseed .. => [.keys, .free]
  | .entropyHealthFailure .. => [.out, .sb, .polders, .keys, .obj, .fns, .tracer, .free]
  | .teardownDrained .. =>
    [.out, .pins, .sb, .polders, .cad, .keys, .link, .stack, .tray, .fau, .rings, .coll, .bars, .sca, .obj, .fns,
     .tracer, .gauge, .power, .pool, .free]
  | .contextDestroyComplete .. => [.out, .sca, .obj, .fns, .tracer]
  | .stepBeginBoundary .. => [.out, .datum, .polders, .obj, .fns, .tracer, .free]
  | .imageRewriteComplete .. => [.out, .boot, .flash, .obj, .fns, .tracer]
  | .lcTransitionComplete .. => [.out, .boot, .fuses, .flash, .lc, .cad, .link, .stack, .tray, .obj, .fns, .tracer]
  | .kemOfferExpiry .. => [.spdm]
  | .nonceExpiry .. => [.lc]
  | .authorisationExpiry .. => [.out, .lc]
  | .gaugeIncrement .. | .gaugePeriodicCapture .. | .gaugeRecordSigned .. => [.gauge]
  | .eventRingSpaceReturn .. => [.out, .obj, .fns]
  | .mailboxDoorbell .. | .securedMessage .. | .registerWrite .. =>
    [.out, .owner, .pins, .boot, .fuses, .flash, .lc, .sb, .datum, .polders, .cad, .keys, .link, .stack, .tray,
     .fau, .rings, .coll, .bars, .sca, .obj, .fns, .spdm, .weirs, .charts, .tracer, .gauge, .power, .regs, .pool,
     .free]
  | .fetch .. | .getVersion .. | .getCapabilities .. | .negotiateAlgorithms .. | .getDigests ..
  | .getCertificate .. | .finish .. | .pqSignature .. | .heartbeat .. | .keyUpdate .. | .endSession ..
  | .chunkGet .. | .unsupportedRequest .. | .polderList .. | .keySlotStatus .. | .plotQuery ..
  | .memobjCreate .. | .memobjFree .. | .queueCreate .. | .queueDestroy .. | .eventRingCreate ..
  | .eventRingDestroy .. | .fenceCreate .. | .fenceShare .. | .fenceDestroy .. | .regionQuery ..
  | .extentStatus .. | .trayStatus .. | .groupQuery .. | .datumStatus .. | .syncCounterRead ..
  | .contextStepRead .. | .markQueueStatus .. | .weirStatus .. | .counterRead .. | .streamCountersRead ..
  | .polderCountersRead .. | .traceFetch .. | .lcStatus .. | .gaugeIdentity .. | .gaugeCountersRead ..
  | .gaugeRecordFetch .. | .faultRead .. | .floodwatchConfig .. | .crashDumpRead .. | .stragglerRead ..
  | .identityRead .. | .surveyRead .. | .deliverEncapsulatedResponse .. | .getEncapsulatedRequest .. =>
    [.out, .sb, .polders, .keys, .obj, .fns, .spdm, .tracer, .power, .free]
  | .regRead .. | .counterRegisterRead .. | .lowHalfRead .. => [.out, .pins, .fns, .tracer, .power, .regs]
  | .recoveryLoad .. => [.out, .boot]
  | .challenge .. | .getMeasurements .. | .kemOffer .. | .keyExchange .. | .chunkSend .. | .keySlotPin .. =>
    [.out, .pins, .sb, .polders, .cad, .keys, .stack, .obj, .fns, .spdm, .tracer, .power, .free]
  | .polderProvision .. => [.out, .sb, .polders, .cad, .keys, .obj, .fns, .spdm, .tracer, .gauge, .power, .free]
  | .polderMembership .. | .polderTeardown .. | .keySlotUnpin .. | .plotRelease .. | .contextDestroy ..
  | .ringMemberDead .. | .ringDestroy .. | .chartResume .. | .chartDiscard .. | .resetEngine ..
  | .resetContext .. | .resetPolder .. =>
    [.out, .pins, .sb, .datum, .polders, .cad, .keys, .link, .stack, .tray, .fau, .rings, .coll, .bars, .sca, .obj,
     .fns, .spdm, .charts, .tracer, .gauge, .power, .pool, .free]
  | .plotAssign .. | .regionExport .. =>
    [.out, .pins, .sb, .polders, .cad, .keys, .stack, .fau, .obj, .fns, .spdm, .tracer, .power, .free]
  | .contextCreate .. => [.out, .sb, .polders, .keys, .sca, .obj, .fns, .spdm, .tracer, .power, .free]
  | .regionWithdraw .. => [.out, .sb, .polders, .keys, .fau, .obj, .fns, .spdm, .tracer, .power, .free]
  | .extentGrant .. | .extentRekey .. =>
    [.out, .pins, .sb, .polders, .cad, .keys, .stack, .tray, .fau, .obj, .fns, .spdm, .tracer, .power, .free]
  | .extentRenew .. | .extentHandover .. | .extentRevoke .. | .extentHint .. =>
    [.out, .sb, .polders, .keys, .tray, .obj, .fns, .spdm, .tracer, .power, .free]
  | .trayRebuildRate .. => [.out, .sb, .polders, .keys, .tray, .obj, .fns, .spdm, .weirs, .tracer, .power, .free]
  | .collectiveGroupDefine .. | .collectiveGroupDestroy .. =>
    [.out, .sb, .datum, .polders, .keys, .coll, .obj, .fns, .spdm, .tracer, .power, .free]
  | .ringCreate .. => [.out, .sb, .datum, .polders, .keys, .fau, .rings, .obj, .fns, .spdm, .tracer, .power, .free]
  | .mcastGroupJoin .. | .mcastGroupLeave .. =>
    [.out, .sb, .polders, .keys, .link, .obj, .fns, .spdm, .tracer, .power, .free]
  | .datumConfig .. => [.out, .sb, .datum, .polders, .keys, .obj, .fns, .spdm, .tracer, .power, .free]
  | .chartExport .. | .chartImport .. =>
    [.out, .sb, .polders, .keys, .obj, .fns, .spdm, .charts, .tracer, .power, .pool, .free]
  | .weirConfig .. =>
    [.out, .pins, .sb, .datum, .polders, .cad, .keys, .link, .stack, .tray, .fau, .rings, .coll, .bars, .sca, .obj,
     .fns, .spdm, .weirs, .charts, .tracer, .gauge, .power, .pool, .free]
  | .traceConfig .. => [.out, .pins, .sb, .polders, .keys, .obj, .fns, .spdm, .tracer, .power, .pool, .free]
  | .lcChallenge .. =>
    [.out, .pins, .lc, .sb, .polders, .cad, .keys, .stack, .obj, .fns, .spdm, .tracer, .power, .free]
  | .lcTransition .. =>
    [.out, .pins, .fuses, .lc, .sb, .datum, .polders, .cad, .keys, .link, .stack, .tray, .fau, .rings, .coll,
     .bars, .sca, .obj, .fns, .spdm, .charts, .tracer, .gauge, .power, .pool, .free]
  | .debugAuthorise .. | .debugClose .. =>
    [.out, .lc, .sb, .polders, .keys, .obj, .fns, .spdm, .tracer, .power, .free]
  | .gaugeRecordRelease .. => [.out, .sb, .polders, .keys, .obj, .fns, .spdm, .tracer, .gauge, .power, .free]
  | .firmwareStage .. | .firmwareActivate .. =>
    [.out, .boot, .sb, .polders, .keys, .obj, .fns, .spdm, .tracer, .power, .free]
  | .firmwareCommitSvn .. => [.out, .fuses, .sb, .polders, .keys, .obj, .fns, .spdm, .tracer, .power, .free]
  | .stepBegin .. | .fenceSignal .. | .fenceWait .. => [.out, .obj, .fns, .tracer, .free]
  | .bulkCopy .. =>
    [.out, .pins, .sb, .polders, .cad, .keys, .stack, .sca, .obj, .fns, .tracer, .gauge, .power, .free]
  | .stateReqLock .. | .stateReqRun .. | .allotWrite .. => [.fns]
  | .dirtyEnable .. | .swap .. => [.out, .fns]
  | .queueDoorbell .. | .eventRingHead .. => [.obj, .tracer]
  | .arm .. => [.out, .obj]
  | .profSelWrite .. => [.pins, .fns, .tracer, .power]

end Sys2Proof.Machine
end

