-- ==== Sys2Proof/WellFormed.lean ====
section
/-! DEFINITION. Which commands are well-formed: every operand fits the field, the buffer or the count that the spec gives
it. What a command's own checks refuse is no matter of form. -/

namespace Sys2Proof

/-- A core's stack access carries at most 256 B: as many data bytes as it writes, and a mask of as many bits (R516). -/
def stackReqWf (r : StackReq) : Bool :=
  decide (r.len ≤ 256) && decide (r.data.length = if r.write then r.len else 0)
    && (match r.mask with | some m => decide (m.length = r.len) | none => true)

/-- A device of a read return is one of the 74 (R127), the bytes lie on it (R106), and they are at most 256 (R128). -/
def readWf (read : DeviceRead) (data : Bytes) : Bool :=
  decide (0 < data.length) && decide (data.length ≤ 256) && match read with
  | .tray device offset => decide (device < 74) && decide (offset + data.length ≤ 103079215104)
  | .stack _ => true

/-- Whether a command is well-formed: devices are below 74 (R127), groups below 8 (R126) and Weirs below 9 (R408); a
controller reports a capacity of at most 1,000 thousandths (R411) and sixteen byte counts (R412); a descriptor has 64 B
(R387), a packet at most 4,176 B (R50); and the lists and blocks of a Warden command fit their length fields (R383). -/
def Instr.wf : Instr → Bool
  | .descriptorFetch _ data => match data with | some d => d.length = 64 | none => true
  | .protectedPacketReceive _ packet => decide (packet.length ≤ 4176)
  | .linkNoticeReceive _ packet => decide (packet.length ≤ 4176)
  | .stackAccess r => stackReqWf r
  | .deviceFailed d => decide (d < 74)
  | .devicePresent d => decide (d < 74)
  | .rebuildRow g => decide (g < 8)
  | .rebuildEnd g => decide (g < 8)
  | .queueLevelReport w _ c => decide (w.toNat < 9) && decide (c ≤ 1000)
  | .weirInterval w _ admitted => decide (w.toNat < 9) && admitted.length = 16
  | .weirStatusMirror w => decide (w.toNat < 9)
  | .getCertificate _ _ offset length => decide (offset ≤ 65535) && decide (length ≤ 65535)
  | .regionExport _ _ _ _ _ _ _ _ _ _ _ plots => decide (plots.length ≤ 65535)
  | .collectiveGroupDefine _ _ _ desc => decide (desc.length < 4294967296)
  | .ringCreate _ _ _ _ members _ home _ => decide (members.length ≤ 8) && decide (home.length ≤ 65535)
  | .weirConfig _ _ _ minima => decide (minima.length = 16)
  | .lcTransition _ _ _ response => decide (response.length ≤ 65535)
  | .debugAuthorise _ _ authorisation => decide (authorisation.length ≤ 65535)
  | .firmwareStage _ _ _ data => decide (data.length ≤ 65535)
  | .deviceReadReturn read data _ => readWf read data
  | .powerOnResetRelease .. | .powerOnResetAssert .. | .blockResetAssert .. | .blockResetRelease ..
  | .lcResolve .. | .entropy .. | .keys .. | .imageLoad .. | .imageVerify .. | .firmwareInit .. | .ready ..
  | .bootTimeout .. | .wardenWatchdog .. | .wardenEcc .. | .correctableEcc .. | .clockStopRequest ..
  | .clockStopRelease .. | .domainGate .. | .domainWake .. | .powerGood .. | .culvertHandshakeComplete ..
  | .fabricStatusUnreachable .. | .fabricStatusWithdraw .. | .funcEn .. | .flrReq .. | .functionResetDrained ..
  | .functionResetDone .. | .hostPathFailure .. | .streamEntryFetch .. | .load .. | .store .. | .atomic ..
  | .reduceIntoRemoteMemory .. | .multicastStore .. | .signal .. | .signalHoldRelease .. | .fence ..
  | .fenceAnswerRelease .. | .completion .. | .ringHeartbeat .. | .heartbeatSend .. | .heartbeatMissed ..
  | .readShared .. | .readOwn .. | .upgrade .. | .writeBack .. | .evictClean .. | .invalidate .. | .recall ..
  | .downgrade .. | .grant .. | .ack .. | .dataBack .. | .lineRequest .. | .open_ .. | .benchmarkCodes ..
  | .benchmarks .. | .contribution .. | .result .. | .filterCounts .. | .filterBases .. | .receipt ..
  | .report .. | .done_ .. | .abort .. | .collectiveResend .. | .collectiveWatchdog .. | .barrierArrival ..
  | .barrierRelease .. | .barrierArrivalResend .. | .barrierNodeWatchdog .. | .barrierParticipantWatchdog ..
  | .releasedListExpiry .. | .scaRead .. | .inc .. | .dec .. | .waitGe .. | .waitDec .. | .set ..
  | .scaInvalidOp .. | .waitIdleThreshold .. | .remoteRequest .. | .fauResend .. | .fauGiveUp ..
  | .answerLogExpiry .. | .replayEntryExpiry .. | .holdQueueDiscard .. | .markFire .. | .datumExchange ..
  | .datumExchangeMissed .. | .floodwatchStop .. | .writeAcknowledged .. | .leaseExpiry ..
  | .extentRevokeDrained .. | .extentInitialisationComplete .. | .extentRekeyCopyComplete ..
  | .zeroFillComplete .. | .plotReleaseDrained .. | .regionWithdrawDrained .. | .kcuJobComplete ..
  | .slotEvictionComplete .. | .slotLoadTimeout .. | .drbgReseed .. | .entropyHealthFailure ..
  | .engineWatchdogExpiry .. | .suspectCleared .. | .teardownDrained .. | .teardownComplete ..
  | .contextDestroyComplete .. | .memobjLastReference .. | .stepBeginBoundary .. | .chartFreeze ..
  | .chartExportTimeout .. | .chartWritten .. | .imageRewriteComplete .. | .lcTransitionComplete ..
  | .kemOfferExpiry .. | .nonceExpiry .. | .authorisationExpiry .. | .gaugeIncrement ..
  | .gaugePeriodicCapture .. | .gaugeRecordSigned .. | .eventRingSpaceReturn .. | .mailboxDoorbell ..
  | .fetch .. | .securedMessage .. | .regRead .. | .recoveryLoad .. | .getVersion .. | .getCapabilities ..
  | .negotiateAlgorithms .. | .getDigests .. | .challenge .. | .getMeasurements .. | .kemOffer ..
  | .keyExchange .. | .finish .. | .pqSignature .. | .heartbeat .. | .keyUpdate .. | .endSession ..
  | .chunkSend .. | .chunkGet .. | .unsupportedRequest .. | .polderProvision .. | .polderMembership ..
  | .polderTeardown .. | .polderList .. | .keySlotPin .. | .keySlotUnpin .. | .keySlotStatus ..
  | .plotAssign .. | .plotRelease .. | .plotQuery .. | .memobjCreate .. | .memobjFree .. | .contextCreate ..
  | .contextDestroy .. | .queueCreate .. | .queueDestroy .. | .eventRingCreate .. | .eventRingDestroy ..
  | .fenceCreate .. | .fenceShare .. | .fenceDestroy .. | .regionWithdraw .. | .regionQuery ..
  | .extentGrant .. | .extentRenew .. | .extentHandover .. | .extentRevoke .. | .extentRekey ..
  | .extentHint .. | .trayRebuildRate .. | .extentStatus .. | .trayStatus .. | .collectiveGroupDestroy ..
  | .groupQuery .. | .ringMemberDead .. | .ringDestroy .. | .mcastGroupJoin .. | .mcastGroupLeave ..
  | .datumConfig .. | .datumStatus .. | .syncCounterRead .. | .contextStepRead .. | .markQueueStatus ..
  | .chartExport .. | .chartImport .. | .chartResume .. | .chartDiscard .. | .weirStatus .. | .counterRead ..
  | .streamCountersRead .. | .polderCountersRead .. | .traceConfig .. | .traceFetch .. | .lcStatus ..
  | .lcChallenge .. | .debugClose .. | .gaugeIdentity .. | .gaugeCountersRead .. | .gaugeRecordFetch ..
  | .gaugeRecordRelease .. | .faultRead .. | .resetEngine .. | .resetContext .. | .resetPolder .. | .resetVf ..
  | .resetBlock .. | .serviceRelease .. | .floodwatchConfig .. | .crashDumpRead .. | .stragglerRead ..
  | .identityRead .. | .surveyRead .. | .firmwareActivate .. | .firmwareCommitSvn .. | .remoteOp ..
  | .collectiveLaunch .. | .barrierArrive .. | .stepBegin .. | .fenceSignal .. | .fenceWait .. | .bulkCopy ..
  | .stateReqLock .. | .stateReqRun .. | .stateReqUnlock .. | .allotWrite .. | .dirtyEnable .. | .swap ..
  | .queueDoorbell .. | .eventRingHead .. | .arm .. | .profSelWrite .. | .counterRegisterRead ..
  | .lowHalfRead .. | .registerWrite .. | .deliverEncapsulatedResponse .. | .getEncapsulatedRequest ..
  | .snoopResponse .. | .hostRequestComplete .. | .chartImportComplete .. => true

end Sys2Proof
end

