-- ==== Sys2Proof/Certificates/Slice0/Obligations.lean ====
section
/-! DEFINITION. The statements for the provers. Each names the rules of spec/ that it formalises, or says what it rests
on. -/

open Sys2Proof Sys2Proof.Machine

/-! ### The machine as a whole -/

/-- Taking a step runs the command at the front of the queue on the state with the queue's rest, for every command; on an
empty queue one nanosecond passes (a choice of the model, notes/assumptions/6.md). -/
def Obligations.StepRunsTheFrontCommand : Prop :=
  (∀ (c : Instr) (rest : List Instr) (s : State), s.pending = c :: rest → step s = exec c { s with pending := rest })
    ∧ ∀ s : State, s.pending = [] → step s = .next (tick s)

/-- Every step keeps what Safety.lean names: memories in canonical form, configuration registers within their ranges
(R499, R504), every blown fuse blown (R459), at most 4,096 fault records and 64 side-band copies (R431, R436), the chip's
sizes, and the queue but for the command taken. -/
def Obligations.EveryStepKeepsSound : Prop :=
  ∀ (k : Kept) (s t : State), s.Sound k → step s = .next t → t.Sound { k with pending := k.pending.tail }

/-- The state right after reset has the invariant (the values of reset are those of notes/assumptions/3.md to 5.md). -/
def Obligations.ResetIsSound : Prop := State.reset.Sound State.reset.kept

/-- What a command leaves as it was: every part of State but those that touches lists for it, for every command and every
state. -/
def Obligations.EveryCommandTouchesOnlyItsParts : Prop :=
  ∀ (c : Instr) (s t : State), exec c s = .next t → s.agree (touches c) t

/-- No command stops with a refusal, and the only fault is that of a device that does not exist (R127 names 74): a failed,
present or returning device of number 74 or more, or a read beyond a device's 96 GiB. -/
def Obligations.OnlyAbsentDevicesStop : Prop :=
  (∀ (c : Instr) (s : State) (r : Refusal), exec c s ≠ .refused r)
    ∧ (∀ (c : Instr) (s : State) (r : Fault), exec c s = .fault r → r = .noSuchDevice ∧ c.wf = false)
    ∧ (∀ (d : Nat) (s : State), 74 ≤ d →
        exec (.deviceFailed d) s = .fault .noSuchDevice ∧ exec (.devicePresent d) s = .fault .noSuchDevice
          ∧ ∀ (offset : Nat) (data : Bytes) (u : Bool),
              exec (.deviceReadReturn (.tray d offset) data u) s = .fault .noSuchDevice)

/-- The next nanosecond (notes/assumptions/6.md): the Datum of an instance with nothing to slew goes on by one, and with an
offset to remove every 5,000th cycle counts 2 or 0 (R277); it stands still in either reset. The corrections of its learned
rate are spread over 15,625,000 cycles, each one more nanosecond to remove (a choice of the model, notes/assumptions/81.md). -/
def Obligations.TheDatumRuns : Prop :=
  ∀ s : State,
    let d := steer s.datum
    (s.pins.porN = false ∨ s.pins.blockRstN = false → (tick s).datum = s.datum)
      ∧ (s.pins.porN = true → s.pins.blockRstN = true →
          (d.slew = 0 → (tick s).datum = { d with value := d.value + 1 })
            ∧ (0 < d.slew → 4999 ≤ d.sinceSlew →
                (tick s).datum = { d with value := d.value + 2, slew := d.slew - 1, sinceSlew := 0 })
            ∧ (d.slew < 0 → 4999 ≤ d.sinceSlew → (tick s).datum = { d with slew := d.slew + 1, sinceSlew := 0 })
            ∧ (d.slew ≠ 0 → d.sinceSlew < 4999 →
                (tick s).datum = { d with value := d.value + 1, sinceSlew := d.sinceSlew + 1 }))
      ∧ (s.datum.rate = 0 → s.datum.phase < 15625000 → d = s.datum)
      ∧ (s.datum.phase + s.datum.rate.natAbs < 15625000 →
          d = { s.datum with phase := s.datum.phase + s.datum.rate.natAbs })
      ∧ (15625000 ≤ s.datum.phase + s.datum.rate.natAbs → d.slew = s.datum.slew + s.datum.rate.sign)
      ∧ (tick s).time = s.time + 1

/-! ### Resets and boot -/

/-- Resets (R1, R2, R34, R35, R331, R444, R445, R498, R527, R528): releasing power-on reset starts the always-on
islands; asserting it holds both resets and clears them; either reset leaves the flash as it was, but for an image whose
rewrite it cuts short (R330); asserting block reset holds the block, with cause CHIP_RESET; releasing it samples the
role and the instance ID, and boot is at ROM_START, or HALTED with reason 0x20 for the strap 0b11; the watchdog, an
uncorrectable error of the Warden and the boot timeout reset the block with causes 2, 3 and 5, counted towards leaving
service, which the third in 600 seconds decides; a correctable error is counted. Where the rules leave a choice, it is
that of notes/assumptions/10.md and notes/assumptions/11.md. -/
def Obligations.ResetsComplete : Prop :=
  (∀ s : State, s.pins.porN = false → Completes .powerOnResetRelease s fun t =>
      t.pins = { s.pins with porN := true } ∧ t.sb = SideBand.reset ∧ t.datum.value = 0 ∧ t.datum.state = .freeRunning
        ∧ t.gauge.powered = true ∧ t.gauge.time = 0 ∧ t.gauge.lcCode = lcCodeOf s.fuses)
    ∧ (∀ s : State, Completes .powerOnResetAssert s fun t =>
      t.pins.porN = false ∧ t.pins.blockRstN = false ∧ t.sb = SideBand.reset ∧ t.gauge = Gauge.reset
        ∧ t.boot.stage = .held ∧ t.polders = [] ∧ t.fuses = s.fuses ∧ (s.boot.rewrite = none → t.flash = s.flash)
        ∧ ∀ w, s.boot.rewrite = some w →
          ∃ n < 1024 + bodyLength w.image.header, t.flash = (writeImagePart w.image n s).flash)
    ∧ (∀ s : State, s.pins.blockRstN = true → Completes .blockResetAssert s fun t =>
      t.pins.blockRstN = false ∧ t.boot.stage = .held ∧ t.sb = { s.sb with cause := 1 } ∧ t.polders = []
        ∧ t.cad = Cadastre.reset ∧ t.obj = Objects.reset ∧ t.fuses = s.fuses ∧ (s.boot.rewrite = none → t.flash = s.flash)
        ∧ t.stack.mem = s.stack.mem ∧ t.tray.devices = s.tray.devices)
    ∧ (∀ (strap : BitVec 2) (id : InstId) (s : State), s.pins.porN = true → s.pins.blockRstN = false →
      Completes (.blockResetRelease strap id) s fun t =>
        t.pins.blockRstN = true ∧ t.boot.instanceId = id
          ∧ (strap = 0 → t.boot.role = .e) ∧ (strap = 1 → t.boot.role = .s) ∧ (strap = 2 → t.boot.role = .t)
          ∧ (strap ≠ 3 → t.boot.stage = .romStart)
          ∧ (strap = 3 → t.boot.stage = .halted ∧ t.boot.reason = 0x20))
    ∧ (∀ s : State, running s = true → (s.boot.stage = .firmwareInit ∨ s.boot.stage = .ready) →
      watchdogDue s = true → Completes .wardenWatchdog s fun t =>
        t.sb.cause = 2 ∧ (s.time, (2 : BitVec 8)) ∈ t.sb.events ∧ t.polders = [] ∧ t.boot.role = s.boot.role
          ∧ (t.sb.leaving = true ↔ s.sb.leaving = true ∨ 2 ≤ (recentEvents s).length))
    ∧ (∀ s : State, running s = true → Completes .wardenEcc s fun t =>
        t.sb.cause = 3 ∧ (s.time, (3 : BitVec 8)) ∈ t.sb.events ∧ t.polders = [] ∧ t.boot.role = s.boot.role
          ∧ (t.sb.leaving = true ↔ s.sb.leaving = true ∨ 2 ≤ (recentEvents s).length))
    ∧ (∀ s : State, running s = true → s.boot.stage = .firmwareInit → s.boot.stageAt + 2000000000 ≤ s.time →
      Completes .bootTimeout s fun t =>
        t.sb.cause = 5 ∧ (s.time, (5 : BitVec 8)) ∈ t.sb.events ∧ t.polders = [] ∧ t.boot.role = s.boot.role
          ∧ (t.sb.leaving = true ↔ s.sb.leaving = true ∨ 2 ≤ (recentEvents s).length))
    ∧ (∀ (inRom : Bool) (s : State), running s = true → Completes (.correctableEcc inRom) s fun t =>
        counterOf (if inRom then 1 else 0) t = counterOf (if inRom then 1 else 0) s + 1)

/-- The stages of boot, each from the one before it (R290, R318 to R331, R460, R461): the life cycle is read by majority
from the fuses, RETIRED and invalid codes halt; the start-up test instantiates the DRBG or halts; the ROM writes its
survey entries; the image is loaded, or RECOVERY waits for one; it is verified; the firmware locks the code; READY locks
the RL registers and the survey, sends the notice of the reset that no stop has sent (R436), and takes an instance whose
three events have come out of service (R445). An image loaded in RECOVERY that passes the checks is rewritten, and the
rewrite's end loads it; in HALTED one is answered ST_LC_FORBIDS. Where the rules leave a choice, it is that of
notes/assumptions/3.md and notes/assumptions/12.md. -/
def Obligations.BootStagesComplete : Prop :=
  (∀ s : State, s.boot.stage = .romStart → interrupted s.fuses = none → Completes .lcResolve s fun t =>
      t.lc.code = lcCodeOf s.fuses ∧ t.lc.state = lcStateOf (lcCodeOf s.fuses) ∧ t.fuses = s.fuses
        ∧ (t.lc.state = .retired ∨ t.lc.state = .invalid → t.boot.stage = .halted ∧ t.boot.reason = 0x21)
        ∧ (t.lc.state ≠ .retired → t.lc.state ≠ .invalid → t.boot.stage = .lcResolve))
    ∧ (∀ (passes : Bool) (s : State), s.boot.stage = .lcResolve → Completes (.entropy passes) s fun t =>
      (passes = true → t.boot.stage = .entropy ∧ t.keys.instantiated = true)
        ∧ (passes = false → t.boot.stage = .halted ∧ t.boot.reason = 0x22 ∧ t.keys = s.keys))
    ∧ (∀ s : State, s.boot.stage = .entropy → Completes .keys s fun t =>
      t.boot.stage = .keys ∧ (ladderRoot s = none → t.cad.ladder = s.cad.ladder)
        ∧ (ladderRoot s ≠ none → t.cad.ladder = true) ∧ t.boot.survey.length = s.boot.survey.length + 6)
    ∧ (∀ (answers : Bool) (s : State), s.boot.stage = .keys → Completes (.imageLoad answers) s fun t =>
      (answers = true → t.boot.stage = .imageLoad ∧ t.boot.image = some (flashImage s))
        ∧ (answers = false → t.boot.stage = .recovery ∧ t.boot.reason = 1))
    ∧ (∀ (i : Image) (s : State), s.boot.stage = .imageLoad → s.boot.image = some i → Completes .imageVerify s fun t =>
      (∀ reason, imageFail i s = some reason → t.boot.stage = .recovery ∧ t.boot.reason = reason)
        ∧ (imageFail i s = none → t.boot.stage = .imageVerify ∧ t.boot.svn.toNat = headerSvn i.header % 2 ^ 32
            ∧ t.boot.idImage = true))
    ∧ (∀ (objects : List Digest) (s : State), s.boot.stage = .imageVerify → objects.length ≤ 237 →
      (s.boot.role = .s → 8 ≤ s.chip.poolMib) → Completes (.firmwareInit objects) s fun t =>
        t.boot.stage = .firmwareInit ∧ t.boot.codeLocked = true ∧ t.boot.idFirmware = true
          ∧ t.boot.survey.length = s.boot.survey.length + objects.length + 1)
    ∧ (∀ s : State, running s = true → s.boot.stage = .firmwareInit → Completes .ready s fun t =>
      t.boot.stage = .ready ∧ t.boot.reason = 0 ∧ t.boot.rlLocked = true ∧ t.boot.surveyLocked = true
        ∧ t.boot.survey = s.boot.survey ∧ t.sb.unsent = none ∧ t.sb.leaving = false
        ∧ (s.sb.leaving = true ∨ s.sb.outOfService = true ↔ t.sb.outOfService = true)
        ∧ ∀ r, s.sb.unsent = some r → ∃ e, .faultNotice e r ∈ t.out)
    ∧ (∀ (image : Bytes) (s : State), running s = true → s.boot.stage = .halted →
      exec (.recoveryLoad image) s = .next (emit (.response { sluice := .sb, session := none } 0 0 .lcForbids []) s))
    ∧ (∀ (image : Bytes) (s : State), running s = true → s.boot.stage = .recovery → s.boot.rewrite = none →
      Completes (.recoveryLoad image) s fun t =>
        (∀ reason, imageFail (bytesImage image) s = some reason → t.boot.reason = reason ∧ t.boot.rewrite = none)
          ∧ (imageFail (bytesImage image) s = none → ∃ w, t.boot.rewrite = some w ∧ w.image = bytesImage image
              ∧ w.recovery = true))
    ∧ (∀ (w : Rewrite) (s : State), s.boot.rewrite = some w → Completes .imageRewriteComplete s fun t =>
        t.flash = (writeImage w.image s).flash ∧ t.boot.rewrite = none
          ∧ (w.recovery = true → s.boot.stage = .recovery → t.boot.stage = .imageLoad))

/-! ### Clocks and power -/

/-- Clocks and power (R41 to R48, R481, R519, R520): a clock-stop request is acknowledged for every domain outside
the control cluster, and its release takes both away and has what waited delivered; a domain without work for its gate
delay is gated, counted, and loses its power and the keys it kept; work for a domain without power closes its switch and
is counted; power that is good makes it ready, and what waited is delivered; so it is when a handshake makes its culvert
ready. Work that comes to a domain that does not serve stands in its culvert, or outside it, and its switch closes. Where
the rules leave a choice, it is that of notes/assumptions/44.md and notes/assumptions/71.md. -/
def Obligations.ClocksAndPowerComplete : Prop :=
  (∀ (d : DomainId) (s : State), running s = true → domainExists s d = true → inCluster d.kind = false →
    s.pins.clkStopReq.contains d = false → Completes (.clockStopRequest d) s fun t =>
      t.pins = { s.pins with clkStopReq := s.pins.clkStopReq ++ [d], clkStopAck := s.pins.clkStopAck ++ [d] }
        ∧ (domainOn s d = false → t.tracer = s.tracer))
    ∧ (∀ (d : DomainId) (s : State), s.pins.clkStopReq.contains d = true →
      ∃ u, exec (.clockStopRelease d) s = .next (restartDomain d u)
        ∧ d ∉ u.pins.clkStopReq ∧ d ∉ u.pins.clkStopAck ∧ u.pins.pwrEn = s.pins.pwrEn ∧ u.pins.pwrGood = s.pins.pwrGood
        ∧ (∀ e ≠ d, e ∈ u.pins.clkStopReq ↔ e ∈ s.pins.clkStopReq)
        ∧ (∀ e ≠ d, e ∈ u.pins.clkStopAck ↔ e ∈ s.pins.clkStopAck)
        ∧ u.power = s.power ∧ u.link = s.link ∧ u.stack = s.stack ∧ u.fau = s.fau)
    ∧ (∀ (d : DomainId) (s : State), running s = true → domainExists s d = true → gateable d.kind = true →
      domainOn s d = true → idleLong s d = true → s.pins.clkStopAck.contains d = false →
      Completes (.domainGate d) s fun t =>
        domainOn t d = false ∧ (∀ e ≠ d, domainOn t e = domainOn s e) ∧ counterOf 0x013 t = counterOf 0x013 s + 1
          ∧ (d.kind = .sce → ∀ c ∈ t.stack.copies, c.1.1 ≠ d.index.toNat)
          ∧ (d.kind = .kcu → (getKcu (decide (d.index.toNat = 1)) t).prefixes = [])
          ∧ (d.kind = .lceRx → ∀ (p : PolderId) (src : InstId) (sid : BitVec 16) (g : Option InstId),
              (StreamRef.rx p src sid g, d.index) ∉ t.link.cached))
    ∧ (∀ (d : DomainId) (s : State), running s = true → domainExists s d = true → s.pins.pwrEn.contains d = false →
      Completes (.domainWake d) s fun t =>
        t.pins = { s.pins with pwrEn := s.pins.pwrEn ++ [d] } ∧ counterOf 0x014 t = counterOf 0x014 s + 1)
    ∧ (∀ (d : DomainId) (s : State), s.pins.pwrEn.contains d = true → s.pins.pwrGood.contains d = false →
      ∃ u, exec (.powerGood d) s = .next (restartDomain d u) ∧ u.pins = { s.pins with pwrGood := s.pins.pwrGood ++ [d] }
        ∧ domainOn u d = true ∧ assocGet d 0 u.power.lastWork = s.time ∧ u.power.outside = s.power.outside
        ∧ u.link = s.link ∧ (d.kind ≠ .sce → u.stack = s.stack))
    ∧ (∀ (c : CulvertId) (d : DomainId) (s : State), c.left = .domain d → islandStopped s c.left = false →
      islandStopped s c.right = false → (getCulvert s c).ready = false →
      ∃ u, exec (.culvertHandshakeComplete c) s = .next (reperform (domainUnit d) (domainServes d u)) ∧ (getCulvert u c).ready = true
        ∧ (getCulvert u c).entries = (getCulvert s c).entries ∧ (∀ x ≠ c, getCulvert u x = getCulvert s x)
        ∧ u.pins = s.pins ∧ u.power.outside = s.power.outside)
    ∧ (∀ (d : DomainId) (e : CulvertEntry) (serve : State → State) (s : State), running s = true →
      domainExists s d = true → serves s d = false →
      let t := enter d e serve s
      t.pins.pwrEn.contains d = true ∧ t.link = s.link ∧ t.stack = s.stack
        ∧ ((getCulvert t (portCulvert d)).entries = (getCulvert s (portCulvert d)).entries ++ [e]
              ∧ t.power.outside = s.power.outside
            ∨ getCulvert t (portCulvert d) = getCulvert s (portCulvert d)
              ∧ t.power.outside = s.power.outside ++ [(d, e)]))

/-! ### Functions and the host path -/

/-- The function reset sequence (R392, R395, R398): it starts on a disable, an FLR or a request for CONFIG_UNLOCKED;
once the work has drained or 10 ms have passed, the work that stopped there is counted into squashed and makes forced, and
what waited for it goes on;
and its end leaves the VF in CONFIG_UNLOCKED and signals completion. Where the rules leave a choice, it is that of
notes/assumptions/62.md. -/
def Obligations.FunctionResetCompletes : Prop :=
  (∀ (vf : VfId) (s : State), vfPresent s vf = true → (getVf s vf).enabled = false → Completes (.funcEn vf true) s fun t =>
      getVf t vf = { getVf s vf with enabled := true } ∧ ∀ m ≠ vf, getVf t m = getVf s m)
    ∧ (∀ (vf : VfId) (s : State), vfPresent s vf = true → (getVf s vf).enabled = true → (getVf s vf).reset = none →
      Completes (.funcEn vf false) s fun t =>
        (getVf t vf).enabled = false
          ∧ ∃ r, (getVf t vf).reset = some r ∧ r.start = s.time ∧ r.drained = false ∧ r.waiters = [])
    ∧ (∀ (vf : VfId) (s : State), vfPresent s vf = true → (getVf s vf).reset = none → Completes (.flrReq vf) s fun t =>
        ∃ r, (getVf t vf).reset = some r ∧ r.start = s.time ∧ r.drained = false ∧ r.waiters = [])
    ∧ (∀ (vf : VfId) (s : State), vfPresent s vf = true → (getVf s vf).reset = none → (getVf s vf).state ≠ .unlocked →
      Completes (.stateReqUnlock vf) s fun t =>
        ∃ r, (getVf t vf).reset = some r ∧ r.start = s.time ∧ r.drained = false ∧ r.waiters = [])
    ∧ (∀ (vf : VfId) (r : FnReset) (s : State), (getVf s vf).reset = some r → r.drained = false →
      r.start + 10000000 ≤ s.time → ∃ u, exec (.functionResetDrained vf) s = .next (resume u)
          ∧ (getVf u vf).reset = some { r with drained := true, squashed := r.squashed + fnOutstanding (fnOf vf) s }
          ∧ (getVf u vf).forced = decide (fnOutstanding (fnOf vf) s ≠ 0)
          ∧ (getVf u vf).squashed = BitVec.ofNat 16 (min (r.squashed + fnOutstanding (fnOf vf) s) 65535))
    ∧ (∀ (vf : VfId) (r : FnReset) (s : State), (getVf s vf).reset = some r → r.drained = true → boundTo vf s = [] →
      Completes (.functionResetDone vf) s fun t =>
        (getVf t vf).state = .unlocked ∧ (getVf t vf).reset = none ∧ .functionResetDone vf ∈ t.out)

/-- The states of a VF and its allotment (R393, R395, R499): the requests that a state allows move it and any other sets
bad_req; CONFIG_UNLOCKED takes the allotment, field by field, and keeps a field whose new value is out of range; a write in
CONFIG_LOCKED or RUN is the error 1. -/
def Obligations.FunctionStatesComplete : Prop :=
  (∀ (vf : VfId) (s : State), vfPresent s vf = true → (getVf s vf).state = .unlocked →
      Completes (.stateReqLock vf) s fun t => getVf t vf = { getVf s vf with state := .locked })
    ∧ (∀ (vf : VfId) (s : State), vfPresent s vf = true → (getVf s vf).state = .locked →
      Completes (.stateReqRun vf) s fun t => getVf t vf = { getVf s vf with state := .run })
    ∧ (∀ (vf : VfId) (s : State), vfPresent s vf = true →
      ((getVf s vf).state ≠ .unlocked → exec (.stateReqLock vf) s = .next (badReq vf s))
        ∧ ((getVf s vf).state ≠ .locked → exec (.stateReqRun vf) s = .next (badReq vf s))
        ∧ ((getVf s vf).state = .unlocked → exec (.stateReqUnlock vf) s = .next (badReq vf s))
        ∧ (getVf (badReq vf s) vf).badReq = true)
    ∧ (∀ (vf : VfId) (value : BitVec 32) (s : State), vfPresent s vf = true → (getVf s vf).state = .unlocked →
      Completes (.allotWrite vf false value) s fun t =>
        let old := (getVf s vf).allot0
        let new := (getVf t vf).allot0
        (new.extractLsb' 0 13 = if (value.extractLsb' 0 13).toNat ≤ 4096 then value.extractLsb' 0 13 else old.extractLsb' 0 13)
          ∧ (new.extractLsb' 13 9 = if (value.extractLsb' 13 9).toNat ≤ 256 then value.extractLsb' 13 9
              else old.extractLsb' 13 9)
          ∧ (new.extractLsb' 22 10 = if (value.extractLsb' 22 10).toNat ≤ 512 then value.extractLsb' 22 10
              else old.extractLsb' 22 10)
          ∧ (getVf t vf).allot1 = (getVf s vf).allot1)
    ∧ (∀ (vf : VfId) (value : BitVec 32) (s : State), vfPresent s vf = true → (getVf s vf).state = .unlocked →
      Completes (.allotWrite vf true value) s fun t =>
        let old := (getVf s vf).allot1
        let new := (getVf t vf).allot1
        new.extractLsb' 0 16 = value.extractLsb' 0 16
          ∧ (new.extractLsb' 16 15 = if (value.extractLsb' 16 15).toNat ≤ 16384 then value.extractLsb' 16 15
              else old.extractLsb' 16 15)
          ∧ (getVf t vf).allot0 = (getVf s vf).allot0)
    ∧ (∀ (vf : VfId) (second : Bool) (value : BitVec 32) (s : State), vfPresent s vf = true →
      (getVf s vf).state = .locked ∨ (getVf s vf).state = .run → Completes (.allotWrite vf second value) s fun t =>
        getVf t vf = { getVf s vf with state := .error, cause := 1 })

/-- The dirty log and the host path (R368, R374, R395, R401, R404): the log takes an enable once it has pages; a disable
and a swap write the cached lines back; the swap ends with the last of them; a failed host access takes a VF in RUN to
ERROR; the end of an event record's write counts it out of its ring. Where the rules leave a choice, it is that of
notes/assumptions/62.md. -/
def Obligations.HostPathCompletes : Prop :=
  (∀ (vf : VfId) (s : State), vfPresent s vf = true → (getVf s vf).pages ≠ 0 → Completes (.dirtyEnable vf true) s fun t =>
      getVf t vf = { getVf s vf with dirtyEnable := true } ∧ t.fns.dirty = s.fns.dirty)
    ∧ (∀ (vf : VfId) (s : State), vfPresent s vf = true → Completes (.dirtyEnable vf false) s fun t =>
      getVf t vf = { getVf s vf with dirtyEnable := false } ∧ (∀ l ∈ t.fns.dirty, l.vf ≠ vf)
        ∧ ∀ l, l.vf ≠ vf → (l ∈ t.fns.dirty ↔ l ∈ s.fns.dirty))
    ∧ (∀ (vf : VfId) (s : State), vfPresent s vf = true → (getVf s vf).swapping = false → Completes (.swap vf) s fun t =>
      (∀ l ∈ t.fns.dirty, l.vf = vf → l.buf ≠ (getVf s vf).activeBuf)
        ∧ ((∃ l ∈ s.fns.dirty, l.vf = vf ∧ l.buf = (getVf s vf).activeBuf) →
            getVf t vf = { getVf s vf with swapping := true })
        ∧ ((∀ l ∈ s.fns.dirty, l.vf = vf → l.buf ≠ (getVf s vf).activeBuf) →
            getVf t vf = { getVf s vf with activeBuf := !(getVf s vf).activeBuf, swapping := false }))
    ∧ (∀ (vf : VfId) (s : State), (getVf s vf).swapping = true →
      Completes (.hostRequestComplete (.dirtyLog vf)) s fun t =>
        getVf t vf = { getVf s vf with activeBuf := !(getVf s vf).activeBuf, swapping := false })
    ∧ (∀ (fn : FnId) (ring : BitVec 9) (r : EventRing) (s : State), running s = true → findRing s fn ring = some r →
      r.waiters = [] → Completes (.hostRequestComplete (.eventRecord fn ring)) s fun t =>
        findRing t fn ring = some { r with inFlight := r.inFlight - 1 })
    ∧ (∀ (fn : FnId) (n : VfId) (what : HostFailure) (s : State), fnPresent s fn = true → vfOf fn = some n →
      (getVf s n).state = .run → (∀ r, what ≠ .write (some r)) → Completes (.hostPathFailure fn what) s fun t =>
        getVf t n = { getVf s n with state := .error, cause := if what = .dirtyLog then 3 else 2 })
    ∧ (∀ (fn : FnId) (n : VfId) (ring : BitVec 9) (s : State), fnPresent s fn = true → vfOf fn = some n →
      (getVf s n).state = .run → (∀ r, findRing s fn ring = some r → r.waiters = []) →
      Completes (.hostPathFailure fn (.write (some ring))) s fun t =>
        getVf t n = { getVf s n with state := .error, cause := 2 })

/-- Queues and event rings at the host (R367, R368, R370, R372, R396, R511, R513, R514): a doorbell sets the tail; a
well-formed descriptor of the queue's context is started and the head moves past it, but one that newly names a doomed
memory object ends ST_BAD_PARAM; a malformed one halts the queue, and one that can not be read also takes the VF to ERROR;
a head register takes a value that releases written slots; space that has returned takes the marker and the waiting
records; an armed ring with unconsumed records interrupts at once. Where the rules leave a choice, it is that of
notes/assumptions/39.md and notes/assumptions/40.md. -/
def Obligations.QueuesAndEventRingsComplete : Prop :=
  (∀ (fn : FnId) (queue : BitVec 8) (value : BitVec 32) (q : Queue) (s : State), windowOpen s fn = true →
      findQueue s queue = some q → q.fn = fn → fnRuns s fn = true → (value.extractLsb' 0 12).toNat < q.depth →
      q.state ≠ .destroying → Completes (.queueDoorbell fn queue value) s fun t =>
        findQueue t queue = some { q with tail := value.extractLsb' 0 12 } ∧ t.out = s.out)
    ∧ (∀ (queue : BitVec 8) (x : Queue) (d : Bytes) (s : State), running s = true → findQueue s queue = some x →
      mayStart s x = true → d.length = 64 → descWellFormed d = true → descContext d = x.context →
      (namesDoomed s x d = false → Completes (.descriptorFetch queue (some d)) s fun t =>
        findQueue t queue = some { x with
          head := BitVec.ofNat 12 ((x.head.toNat + 1) % max x.depth 1)
          started := x.started ++ [{ index := x.head, data := d, begun := false, done := 0 }] })
        ∧ (namesDoomed s x d = true → ∃ u, exec (.descriptorFetch queue (some d)) s
            = .next (endUnstarted x x.head (descCtag d) .badParam u)
          ∧ findQueue u queue = some { x with head := BitVec.ofNat 12 ((x.head.toNat + 1) % max x.depth 1) }))
    ∧ (∀ (queue : BitVec 8) (x : Queue) (d : Bytes) (s : State), running s = true → findQueue s queue = some x →
      mayStart s x = true → descWellFormed d = false → Completes (.descriptorFetch queue (some d)) s fun t =>
        ∃ y, findQueue t queue = some y ∧ y.state = .halted)
    ∧ (∀ (queue : BitVec 8) (x : Queue) (n : VfId) (s : State), running s = true → findQueue s queue = some x →
      mayStart s x = true → vfOf x.fn = some n → Completes (.descriptorFetch queue none) s fun t =>
        (getVf t n).state = .error ∧ (getVf t n).cause = 2 ∧ ∃ y, findQueue t queue = some y ∧ y.state = .halted)
    ∧ (∀ (fn : FnId) (ring : BitVec 9) (head : BitVec 16) (r : EventRing) (s : State), windowOpen s fn = true →
      findRing s fn ring = some r → headFits r head = true → Completes (.eventRingHead fn ring head) s fun t =>
        findRing t fn ring = some { r with head := head.toNat } ∧ t.out = s.out)
    ∧ (∀ (fn : FnId) (ring : BitVec 9) (r : EventRing) (s : State), running s = true → fnResetting s fn = false →
      findRing s fn ring = some r →
      exec (.eventRingSpaceReturn fn ring) s = .next (flushRing fn ring (r.waiting.length + 1) s)
        ∧ (ringSpace r = true → r.dropped ≠ 0 → r.waiting = [] →
            exec (.eventRingSpaceReturn fn ring) s = .next (writeRecord fn ring (overflowMarker r.dropped s)
              (modRing fn ring (fun r => { r with dropped := 0 }) s))))
    ∧ (∀ (fn : FnId) (ring : BitVec 9) (r : EventRing) (s : State), windowOpen s fn = true →
      findRing s fn ring = some r → Completes (.arm fn ring) s fun t =>
        (r.tail = r.head → findRing t fn ring = some { r with armed := true } ∧ t.out = s.out)
          ∧ (r.tail ≠ r.head → findRing t fn ring = some { r with armed := false }
              ∧ t.out = s.out ++ [.interrupt fn r.vector]))

/-- Fabric status (R156, R254, R518): an instance reported unreachable is dead to the FAU: no operation awaits it any longer,
and one that awaited it alone is answered ST_TARGET_DEAD; the participants and nodes of collectives whose group names it end;
then what waited goes on. A withdrawal makes it a target again. -/
def Obligations.FabricStatusCompletes : Prop :=
  (∀ (inst : InstId) (s : State), running s = true → inst ≠ s.boot.instanceId →
      ∃ u, exec (.fabricStatusUnreachable inst) s = .next (resume (unreachableColl inst (fauSettle u)))
        ∧ (∀ i, i ∈ u.fau.dead ↔ i ∈ s.fau.dead ∨ i = inst)
        ∧ (∀ o ∈ u.fau.ops, inst ∉ o.awaiting)
        ∧ (∀ o ∈ s.fau.ops, (∀ p ∈ s.fau.ops, inst ∈ p.awaiting → p.id ≠ o.id) → o ∈ u.fau.ops)
        ∧ (∀ o ∈ s.fau.ops, inst ∈ o.awaiting → destIsGroup o.dest = false → o.fence = none → o.source = .core →
            .remoteAnswer o.req.context o.req.ctag .targetDead 0 ∈ u.out))
    ∧ (∀ (inst : InstId) (l : Launch) (g : Group) (s : State), findGroup s l.polder l.group = some g →
      groupNames g inst = true →
      (∀ c ∈ s.coll.participants, c.launch = l →
          ∀ d ∈ (unreachableColl inst s).coll.participants, ¬(d.launch.polder = l.polder ∧ d.launch.id = l.id))
        ∧ (∀ n ∈ s.coll.nodes, n.launch = l →
          ∀ d ∈ (unreachableColl inst s).coll.nodes, sameColl d.launch l = false))
    ∧ (∀ (inst : InstId) (s : State), running s = true → inst ≠ s.boot.instanceId →
      Completes (.fabricStatusWithdraw inst) s fun t =>
        inst ∉ t.fau.dead ∧ (∀ i ≠ inst, i ∈ t.fau.dead ↔ i ∈ s.fau.dead) ∧ t.fau.ops = s.fau.ops)

/-! ### Packets, the Fabric Access Unit as a target -/

/-- A protected packet at a port (R71): one that fails check 1 is counted malformed there, one of no polder is counted
and answered with a link notice; one whose stream the slice does not hold waits for its entry; and one that passes every
check is released with the inner header and the payload that its plaintext holds. A notice ends what it matches with
ST_POLDER_GONE (R57, R155). A fetched entry lets the packets of its stream that wait at the slice go on (R75). Where the
rules leave a choice, it is that of notes/assumptions/14.md and notes/assumptions/69.md. -/
def Obligations.PacketReceptionCompletes : Prop :=
  (∀ (port : BitVec 8) (b : Bytes) (s : State), portOpen port s = true →
      ¬((parseHeader b).mc = true ∧ (parseHeader b).src = s.boot.instanceId ∧ (parseHeader b).version = 1) →
      let u := markWork ⟨.lceRx, port⟩ s
      (passesCheck1 b (parseHeader b) s = false →
          exec (.protectedPacketReceive port b) s = .next (countPort true port u))
        ∧ (passesCheck1 b (parseHeader b) s = true → findPolder s (parseHeader b).polder = none →
          exec (.protectedPacketReceive port b) s = .next (sendNotice (parseHeader b) (countPort false port u)))
        ∧ (∀ q, passesCheck1 b (parseHeader b) s = true → findPolder s (parseHeader b).polder = some q →
          (parseHeader b).kind ≠ 3 → (parseHeader b).reserved7 = 0 → sidFits (parseHeader b) = true →
          cachedIn s (rxRef (parseHeader b)) ≠ some port → Completes (.protectedPacketReceive port b) s fun t =>
            t.link.rxWait = s.link.rxWait ++ [(rxRef (parseHeader b), port, b)] ∧ t.link.inbox = s.link.inbox))
    ∧ (∀ (port : BitVec 8) (b : Bytes) (q : Polder) (r : RxStream) (key : Key256) (s : State),
      let h := parseHeader b
      let plain := gcmCrypt key (packetIv h.src h.sid h.epoch h.counter) (slice b 32 (32 + h.length.toNat))
      portOpen port s = true → ¬(h.mc = true ∧ h.src = s.boot.instanceId) →
      passesCheck1 b h s = true → findPolder s h.polder = some q → h.kind ≠ 3 → h.reserved7 = 0 → sidFits h = true →
      cachedIn s (rxRef h) = some port → findRx s h.polder h.src h.sid (headerGroup h) = some r →
      epochHeld r h.epoch = true → windowFree r (packetSeq h) = true → rxKey r h.epoch = some key →
      tagVerifies b h key = true → isMember q h.src = true → isMember q s.boot.instanceId = true → q.teardown = none →
      q.freeze = .none → innerClean plain = true → (parseInner plain).classLabel = h.cls →
      opcodeConsistent h.kind (parseInner plain) h.length.toNat = true →
      Completes (.protectedPacketReceive port b) s fun t =>
        t.link.inbox = s.link.inbox ++ [
          { polder := h.polder, src := h.src, group := headerGroup h, sid := h.sid, epoch := h.epoch,
            counter := h.counter, kind := h.kind, cls := h.cls, retry := h.retry, inner := parseInner plain,
            payload := plain.drop 32 }])
    ∧ (∀ (port : BitVec 8) (b : Bytes) (s : State), linkServes s = true → port.toNat < portCount s.boot.role →
      accepts s ⟨.lceRx, port⟩ = true →
      let u := markWork ⟨.lceRx, port⟩ s
      (∀ o, noticePasses b (parseHeader b) s = true → noticedOp s (parseHeader b) = some o →
          exec (.linkNoticeReceive port b) s = .next (resume (fauSettle (failTo o (parseHeader b).src .polderGone u))))
        ∧ (noticePasses b (parseHeader b) s = true → noticedOp s (parseHeader b) = none →
          exec (.linkNoticeReceive port b) s = .next (resume (count 0x00F u)))
        ∧ (noticePasses b (parseHeader b) s = false →
          exec (.linkNoticeReceive port b) s = .next (resume (countPort true port u))))
    ∧ (∀ (slice : BitVec 8) (r : StreamRef) (s : State), running s = true → slice.toNat < portCount s.boot.role →
      streamThere s slice r = true → serves s (streamDomain slice r) = true →
      let u := cacheEntry slice r (markWork (streamDomain slice r) s)
      exec (.streamEntryFetch slice r) s = .next (resume u) ∧ cachedIn u r = some slice ∧ u.link.rxWait = s.link.rxWait
        ∧ u.link.tx = s.link.tx ∧ u.link.rx = s.link.rx)

/-- Memory operations at their target (R143, R145 to R151, R167 to R169): a new request that passes the checks reads or
changes its region. A load is answered with the bytes; a store, a multicast store, a reduce and an atomic that write
data wait for its acknowledgement, the atomic with the value from before, the reduce with the flags of the units that it
combined, which are also those that the gauge counts, whatever its status (R227, R486); an atomic that writes nothing is
answered at once. Where the rules leave a choice, it is that of notes/assumptions/28.md and notes/assumptions/29.md. -/
def Obligations.TargetMemoryOperationsComplete : Prop :=
  (∀ (r : Released) (g : Region) (b : Bytes) (s u v : State), FreshRequest 0x01 r s → s.boot.role ≠ .s →
      r.inner.opLength ≠ 0 → targetChecks r false (taken r s) = (.pass g, u) →
      let off := r.inner.offset.toNat
      let len := coveredBytes r.inner
      let l := targetLookups r.polder g off len false [] u
      targetAdmits u l r.cls = true → targetRead r.polder g off len l u = (some (.ok, b), v) →
      exec .load s = .next (resume (completeRequest r .ok 0 b v)))
    ∧ (∀ (c : Instr) (op : BitVec 8), (c, op) ∈ [((.store : Instr), (0x02 : BitVec 8)), (.multicastStore, 0x05)] →
      ∀ (r : Released) (g : Region) (old : Bytes) (parts : List (Nat × Nat)) (s u v : State), FreshRequest op r s →
        s.boot.role ≠ .s → r.inner.opLength ≠ 0 → targetChecks r false (taken r s) = (.pass g, u) →
        let off := r.inner.offset.toNat
        let len := coveredBytes r.inner
        let l := targetLookups r.polder g off len true [] u
        targetAdmits u l r.cls = true → parts ≠ [] →
        targetChange r.polder g off len true l (fun _ => some r.payload) u = (some (.ok, old, parts), v) →
        exec c s = .next (resume (awaitAck r .ok 0 (BitVec.ofNat 64 (leNat old)) g.index v)))
    ∧ (∀ (r : Released) (g : Region) (old : Bytes) (parts : List (Nat × Nat)) (s u v : State), FreshRequest 0x03 r s →
      s.boot.role ≠ .s → targetChecks r false (taken r s) = (.pass g, u) →
      let off := r.inner.offset.toNat
      let len := coveredBytes r.inner
      let l := targetLookups r.polder g off len true [] u
      let value := BitVec.ofNat 64 (leNat old)
      targetAdmits u l r.cls = true →
      targetChange r.polder g off len false l (atomicNew r.inner.modifier r.payload) u = (some (.ok, old, parts), v) →
      (parts ≠ [] → exec .atomic s = .next (resume (awaitAck r .ok 0 value g.index v)))
        ∧ (parts = [] → exec .atomic s = .next (resume (sendCompletion r .ok 0
            (leBytes (atomicWidth r.inner.modifier) value.toNat) (enterAnswer r .ok 0 value v)))))
    ∧ (∀ (r : Released) (g : Region) (st : Status) (old : Bytes) (parts : List (Nat × Nat)) (s u v : State),
      FreshRequest 0x04 r s → s.boot.role ≠ .s → targetChecks r false (taken r s) = (.pass g, u) →
      let off := r.inner.offset.toNat
      let len := coveredBytes r.inner
      let l := targetLookups r.polder g off len true [] u
      targetAdmits u l r.cls = true → parts ≠ [] →
      targetChange r.polder g off len false l (fun old => some (reduceStored r.inner.modifier old r.payload).1) u
        = (some (st, old, parts), v) →
      let done := reduceCombined r.inner.modifier r.payload old parts
      exec .reduceIntoRemoteMemory s
        = .next (resume (awaitAck r st done.1 (BitVec.ofNat 64 (leNat old)) g.index (meterElems r.polder done.2 v))))

/-- A request that fails a check of R143 is answered with the status of the check that failed, whatever its opcode, and
one that must wait for a fill, a key or an initialisation waits. Where the rules leave a choice, it is that of
notes/assumptions/30.md. -/
def Obligations.RefusedRequestsAreAnswered : Prop :=
  ∀ (c : Instr) (op : BitVec 8), (c, op) ∈ [((.load : Instr), (0x01 : BitVec 8)), (.store, 0x02), (.atomic, 0x03),
      (.reduceIntoRemoteMemory, 0x04), (.multicastStore, 0x05), (.signal, 0x06)] →
    ∀ (r : Released) (s : State), FreshRequest op r s → ¬(s.boot.role = .s ∨ s.boot.role = .t ∧ op = 6) →
      fenceLike op r.inner.opLength.toNat = false →
      (∀ (st : Status) (u : State), targetChecks r false (taken r s) = (.fail st, u) →
        exec c s = .next (resume (completeRequest r st 0 [] u)))
      ∧ ∀ u : State, targetChecks r false (taken r s) = (.wait, u) →
        exec c s = .next (resume { u with fau := { u.fau with
          memWait := u.fau.memWait ++ [{ rel := r, admitted := false, lookups := [], noRoom := false }] } })

/-- A copy of a request (R168, R182), whatever its opcode: with a number below A_r it is counted and dropped, and while the
first copy is being performed it is dropped. -/
def Obligations.CopiesAreNotPerformedTwice : Prop :=
  ∀ (c : Instr) (op : BitVec 8), (c, op) ∈ [((.load : Instr), (0x01 : BitVec 8)), (.store, 0x02), (.atomic, 0x03),
      (.reduceIntoRemoteMemory, 0x04), (.multicastStore, 0x05), (.signal, 0x06), (.fence, 0x07)] →
    ∀ (r : Released) (s : State), running s = true → nextReleased s op 0 = some r → isFrozen s r.polder = false →
      opServes op s = true →
      (seqCase r (raisedAt r s) = .stale → exec c s = .next (resume (count 0x00C (dropReleased r (raisedAt r s)))))
      ∧ (seqCase r (raisedAt r s) = .inProgress → exec c s = .next (resume (dropReleased r (raisedAt r s))))

/-- Signals and fences at their target (R150, R172, R177, R178, R264): one whose earlier numbers are done takes effect at
once, another is held until they are; a signal adds its increment to a sync counter, a fence is only answered; what is held
for 2 ms is discarded. -/
def Obligations.SignalsAndFencesComplete : Prop :=
  (∀ (r : Released) (g : Region) (c : Context) (s u : State), FreshRequest 0x06 r s → s.boot.role = .e →
      targetChecks r false (taken r s) = (.pass g, u) → holdMet r u = true →
      findRegion u (keyIndex r.inner.regionKey) = some g → coreContext u g.core = some c → c.polder = g.polder →
      c.state ≠ .stopped → signalIncrement r ≠ 0 → serves u (scaDomain g.core) = true →
      let i := g.counterBase + BitVec.ofNat 6 (r.inner.offset.toNat / 4)
      (syncValue u g.core i).toNat + (signalIncrement r).toNat < 4294967296 →
      exec .signal s
        = .next (resume (completeRequest r .ok 0 [] (changeSync g.core i (syncValue u g.core i + signalIncrement r)
            (markWork (scaDomain g.core) u)))))
    ∧ (∀ (r : Released) (g : Region) (s u : State), FreshRequest 0x06 r s → s.boot.role = .e →
      targetChecks r false (taken r s) = (.pass g, u) → holdMet r u = false → exec .signal s = .next (resume (holdRequest r u)))
    ∧ (∀ (r : Released) (s : State), FreshRequest 0x07 r s → s.boot.role ≠ .s → r.inner.opcode = 7 →
      shapeOk 7 r.inner.modifier r.inner.regionKey r.inner.offset r.inner.opLength.toNat = true →
      (holdMet r (taken r s) = true → exec .fence s = .next (resume (completeRequest r .ok 0 [] (taken r s))))
        ∧ (holdMet r (taken r s) = false → exec .fence s = .next (resume (holdRequest r (taken r s)))))
    ∧ (∀ (n : Nat) (h : Held) (g : Region) (s : State), s.fau.hold[n]? = some h → h.isFence = false →
      h.rel.inner.opcode = 6 → holdMet h.rel s = true → isFrozen s h.rel.polder = false → answerRoom h.rel s = true →
      findRegion s (keyIndex h.rel.inner.regionKey) = some g → serves s (scaDomain g.core) = true →
      let u := markWork (scaDomain g.core) s
      exec (.signalHoldRelease n) s
        = .next (resume (answerSignal h.rel { u with fau := { u.fau with hold := u.fau.hold.erase h } })))
    ∧ (∀ (n : Nat) (h : Held) (s : State), s.fau.hold[n]? = some h → h.isFence = true → holdMet h.rel s = true →
      isFrozen s h.rel.polder = false → answerRoom h.rel s = true →
      exec (.fenceAnswerRelease n) s
        = .next (resume (completeRequest h.rel .ok 0 [] { s with fau := { s.fau with hold := s.fau.hold.erase h } })))
    ∧ (∀ (n : Nat) (h : Held) (s : State), s.fau.hold[n]? = some h → h.at_ + 2000000 ≤ s.time →
      ∃ u, exec (.holdQueueDiscard n) s = .next (resume u) ∧ u.fau.hold = removeAt n s.fau.hold
        ∧ u.fau.discards = satInc s.fau.discards ∧ u.tracer.nextSeq = s.tracer.nextSeq + 1)

/-- The tables of the target (R142, R167, R169, R181): an acknowledged write is entered in the answer log, or an atomic
in the replay table, and answered, or waits, counted, for room there; an entry goes 2 ms after it was written, and what
waited for memory or room is tried again; a region whose withdrawal has drained leaves the table and the command that
asked for it ends. Where the rules leave a choice, it is that of notes/assumptions/30.md. -/
def Obligations.TargetTablesComplete : Prop :=
  (∀ (n : Nat) (x : Unacked) (s : State), s.fau.unacked[n]? = some x → answerRoom x.rel s = true →
      exec (.writeAcknowledged n) s = .next
        (let u := { s with fau := { s.fau with unacked := s.fau.unacked.erase x } }
         resume (sendCompletion x.rel x.status x.flags (oldBytes x.rel x.status x.old)
           (enterAnswer x.rel x.status x.flags x.old u))))
    ∧ (∀ (n : Nat) (x : Unacked) (s : State), s.fau.unacked[n]? = some x → answerRoom x.rel s = false →
      exec (.writeAcknowledged n) s = .next (resume (countRoom x.rel x.noRoom { s with fau := { s.fau with
        unacked := alter (fun y => y = x) (fun y => { y with noRoom := true }) s.fau.unacked } })))
    ∧ (∀ (n : Nat) (a : Answer) (s : State), s.fau.answers[n]? = some a → a.at_ + 2000000 ≤ s.time →
      exec (.answerLogExpiry n) s
        = .next (resume { s with fau := { s.fau with answers := removeAt n s.fau.answers } }))
    ∧ (∀ (n : Nat) (a : Replay) (s : State), s.fau.replays[n]? = some a → a.at_ + 2000000 ≤ s.time →
      exec (.replayEntryExpiry n) s
        = .next (resume { s with fau := { s.fau with replays := removeAt n s.fau.replays } }))
    ∧ (∀ (n : Nat) (s : State), (∀ a, s.fau.answers[n]? = some a → s.time < a.at_ + 2000000) →
      exec (.answerLogExpiry n) s = .next s)
    ∧ (∀ (i : BitVec 14) (g : Region) (s : State), findRegion s i.toNat = some g → g.withdrawing = true →
      regionInUse g.index s = false → exec (.regionWithdrawDrained i) s
        = .next (settleMemobjs (finishAll g.waiters .ok (removeRegion g s))))

/-! ### The Fabric Access Unit as a requester -/

/-- Requests, answers, re-sends and giving up (R136, R152 to R156, R162, R183, R534, R537): a request in role E that passes
the checks is numbered and sent; an ST_OK answer to a load writes its data at the operation's address; an operation
unanswered for 250 µs is sent again, at most three times, or given up where this instance is no member any longer (R537);
one unanswered 1 ms after its first transmission and three re-
sends ends with ST_TIMEOUT, an atomic with ST_OUTCOME_UNKNOWN. Where the rules leave a choice, it is that of
notes/assumptions/27.md. -/
def Obligations.RequesterCompletes : Prop :=
  (∀ (r : RemoteReq) (c : Context) (q : Polder) (l m : List Lookup) (s u v : State), running s = true →
      s.boot.role = .e → accepts s fauDomain = true →
      s.fau.waiting = [] → s.fau.fences = [] → findContext s r.context = some c → findPolder s c.polder = some q →
      q.teardown = none → c.state = .bound → isFrozen s q.id = false →
      shapeOk r.opcode r.modifier r.regionKey r.offset r.len.toNat = true → r.opcode ≠ 7 → r.len ≠ 0 → mcOk r = true →
      (r.mc = false → isMember q r.dst = true ∧ r.dst ∉ s.fau.dead) → (r.mc = true → joined s r.dst q.id = true) →
      isMember q s.boot.instanceId = true → hungFor s fauUnit (some r.context) = false → s.fau.ops.length < 4096 →
      spaceOpen s q.id (reqDest r) = true →
      localUse c.id q.id r.localAddr.toNat (sourceLen r) false [] (markWork fauDomain s) = (.ready, l, u) →
      localUse c.id q.id r.localAddr.toNat (sinkLen r) true [] u = (.ready, m, v) →
      let t := launchOp r .core c (reqDest r) (reqPayload r q.id v) none
        (count 0x280 (countIssued r .core
          (if r.opcode = 6 then v else stackCount q.id r.localAddr.toNat (sourceLen r) false v)))
      t.fau.waiting = [] → t.fau.fences = [] → exec (.remoteRequest r) s = .next t)
    ∧ (∀ (rel : Released) (o : OutOp) (l : List Lookup) (s u : State), fauServes s = true →
      (s.link.inbox.find? fun r => isCompletion r && !answerWaits s r) = some rel → answeredOp s rel = some o →
      o.req.opcode = 1 → destIsGroup o.dest = false → o.req.len ≠ 0 → rel.payload.length = o.req.len.toNat →
      rel.inner.aux.extractLsb' 0 8 = 0 →
      localUse o.req.context o.polder o.req.localAddr.toNat rel.payload.length true o.lookups (atFau s) = (.ready, l, u) →
      exec .completion s = .next (resume (fauSettle (dropReleased rel (finishOp o .ok 0 (rel.inner.aux.extractLsb' 8 6)
        (stackCount o.polder o.req.localAddr.toNat rel.payload.length true
          (stackWrite (polderStackKey u o.polder) o.req.localAddr.toNat rel.payload u)))))))
    ∧ (∀ (rel : Released) (s : State), fauServes s = true →
      (s.link.inbox.find? fun r => isCompletion r && !answerWaits s r) = some rel → answeredOp s rel = none →
      exec .completion s = .next (resume (count 0x00E (dropReleased rel (atFau s)))))
    ∧ (∀ (n : Nat) (o : OutOp) (s : State), fauServes s = true → s.fau.ops[n]? = some o → o.firstTx.isSome = true →
      o.resends < 3 → o.lastTx + 250000 ≤ s.time → silent s o ≠ [] → (∀ k ∈ s.link.txWait, k.owner ≠ .op o.id) →
      let u := atFau s
      (admitted s o.polder = true → exec (.fauResend n) s = .next (fauSettle (sendPacket (opPacket o true)
          { u with fau := { u.fau with
            ops := alter (fun x => x.id = o.id) (fun x => { x with resends := x.resends + 1, lastTx := s.time }) u.fau.ops } }).2))
        ∧ (admitted s o.polder = false → exec (.fauResend n) s = .next (fauSettle (giveUp o u))))
    ∧ (∀ (n : Nat) (o : OutOp) (s : State), fauServes s = true → s.fau.ops[n]? = some o → opExpired o s = true →
      exec (.fauGiveUp n) s = .next (resume (giveUp o (atFau s)))
        ∧ (o.req.opcode = 3 → giveUp o s = finishOp o .outcomeUnknown 0 0 (outcomeUnknown o s)))

/-! ### Rings -/

/-- Requests at the home (R190 to R193), for a line that nothing holds back. A line that is not cached is granted shared
or modified and enters the directory. A shared line takes one more sharer; READ_OWN first invalidates the others; an
UPGRADE of the only sharer makes it the owner. A modified line is downgraded or recalled from its owner first. A
WRITE_BACK of the owner writes home memory and frees the entry; an EVICT_CLEAN takes its sender out, and the last one
frees the entry. Where the rules leave a choice, it is that of notes/assumptions/33.md. -/
def Obligations.HomeRequestsComplete : Prop :=
  ∀ (r : Ring) (k : BitVec 3) (m : Released) (s : State),
    let line := addrLine m.inner.offset
    let u := seenRing m s
    (∀ (data : Bytes) (v : State), AtHome 0 r k m s → findLine u r.id line = none →
        (setEntries u (lineSet r.id line)).length < 8 → homeAccess r line none u = (.ended .ok data, v) →
        exec .readShared s
          = .next (resume (count 0x283 (ringReply r m 8 .ok 1 data (allocLine r.id line .shared (memberBit k) k v)))))
      ∧ (∀ (e : DirEntry) (data : Bytes) (v : State), AtHome 0 r k m s → findLine u r.id line = some e →
        e.state = .shared → homeAccess r e.line none u = (.ended .ok data, v) →
        exec .readShared s
          = .next (resume (count 0x283 (ringReply r m 8 .ok 1 data
              (setLine { e with busy := false, sharers := e.sharers ||| memberBit k } v)))))
      ∧ (∀ (e : DirEntry), AtHome 0 r k m s → findLine u r.id line = some e → e.state = .modified → e.owner ≠ k →
        exec .readShared s = .next (resume (count 0x283 (startTxn r e [] (some (e.owner, 7)) (.serve m) u))))
      ∧ (∀ (data : Bytes) (v : State), AtHome 1 r k m s → findLine u r.id line = none →
        (setEntries u (lineSet r.id line)).length < 8 → homeAccess r line none u = (.ended .ok data, v) →
        exec .readOwn s = .next (resume (count 0x283 (ringReply r m 8 .ok 2 data (allocLine r.id line .modified 0 k v)))))
      ∧ (∀ (e : DirEntry), AtHome 1 r k m s → findLine u r.id line = some e → e.state = .shared →
        (∃ j ∈ sharersOf e.sharers, j ≠ k) → exec .readOwn s
          = .next (resume (count 0x283 (startTxn r e ((sharersOf e.sharers).filter (· ≠ k)) none (.serve m) u))))
      ∧ (∀ (e : DirEntry), AtHome 1 r k m s → findLine u r.id line = some e → e.state = .modified → e.owner ≠ k →
        exec .readOwn s = .next (resume (count 0x283 (startTxn r e [] (some (e.owner, 6)) (.serve m) u))))
      ∧ (∀ (e : DirEntry), AtHome 2 r k m s → findLine u r.id line = some e → e.state = .shared →
        e.sharers.getLsbD k.toNat = true → (∀ j ∈ sharersOf e.sharers, j = k) → exec .upgrade s
          = .next (resume (count 0x283 (ringReply r m 9 .ok 2 []
              (setLine { e with state := .modified, busy := false, sharers := 0, owner := k } u)))))
      ∧ (∀ (e : DirEntry) (v : State), AtHome 3 r k m s → findLine u r.id line = some e → e.state = .modified →
        e.owner = k → homeAccess r e.line (some m.payload) u = (.ended .ok [], v) → exec .writeBack s
          = .next (resume (count 0x283 (ringReply r m 9 .ok 0 [] (freeLine e.ring e.line v)))))
      ∧ (∀ (e : DirEntry), AtHome 4 r k m s → findLine u r.id line = some e → e.state = .shared →
        e.sharers.getLsbD k.toNat = true → exec .evictClean s = .next (resume (count 0x283 (ringReply r m 9 .ok 0 []
          (if e.sharers &&& ~~~ memberBit k = 0 then freeLine e.ring e.line u
           else setLine { e with sharers := e.sharers &&& ~~~ memberBit k } u)))))

/-- Snoops and answers (R188, R189, R192): a new snoop of a home is put to the caching agent; a response ends the
request of this member that it answers, and with it the line request of its agent, or settles this home's snoop, its
data written to home memory first, and an answer without data to a home that awaits data leaves it waiting for the owner's
WRITE_BACK; one that answers nothing is counted and discarded. Where the rules leave a choice, it
is that of notes/assumptions/33.md. -/
def Obligations.SnoopsAndAnswersComplete : Prop :=
  (∀ (c : Instr) (msg : Nat), (c, msg) ∈ [((.invalidate : Instr), 5), (.recall, 6), (.downgrade, 7)] →
      ∀ (r : Ring) (m : Released) (k : BitVec 3) (s : State), FreshRing msg r m s → memberIndex r m.src = some k →
        addrHome m.inner.offset = k → exec c s = .next
          (resume (emit (.snoop r.id m.inner.offset (BitVec.ofNat 4 msg))
            (modRings (fun x => { x with snoops := x.snoops ++ [m] }) (seenRing m s)))))
    ∧ (∀ (c : Instr) (msg : Nat), (c, msg) ∈ [((.grant : Instr), 8), (.ack, 9)] →
      ∀ (r : Ring) (q : RingReq) (m : Released) (s : State), fauServes s = true → nextRing s msg = some m →
        answeredRing m s = some (r, q) → q.message.toNat ≤ 4 →
        exec c s = .next (resume (endLine r q (responseStatus m) m.payload (dropReleased m (atFau s)))))
    ∧ (∀ (r : Ring) (q : RingReq) (m : Released) (s v : State), fauServes s = true → nextRing s 0xA = some m →
      answeredRing m s = some (r, q) → 5 < q.message.toNat → awaitsData r q s = true →
      homeAccess r (addrLine q.addr) (some m.payload) (dropRingReq q (dropReleased m (atFau s))) = (.ended .ok [], v) →
      exec .dataBack s = .next (resume (pumpLines (settleTxn r.id (addrLine q.addr) q.member false v))))
    ∧ (∀ (r : Ring) (q : RingReq) (m : Released) (s : State), fauServes s = true → nextRing s 9 = some m →
      answeredRing m s = some (r, q) → 4 < q.message.toNat →
      let u := dropRingReq q (dropReleased m (atFau s))
      (awaitsData r q s = false →
        exec .ack s = .next (resume (pumpLines (settleTxn r.id (addrLine q.addr) q.member false u))))
        ∧ (awaitsData r q s = true → (∀ w ∈ s.rings.waiting, ofLine r.id (addrLine q.addr) w = false) →
          exec .ack s = .next (resume (pumpLines (modRings (fun x => { x with
            txns := alter (fun t => t.ring = r.id && t.line = addrLine q.addr && t.data = some q.member)
              (fun t => { t with answered := true }) x.txns }) u)))))
    ∧ (∀ (c : Instr) (msg : Nat), (c, msg) ∈ [((.grant : Instr), 8), (.ack, 9), (.dataBack, 0xA)] →
      ∀ (m : Released) (s : State), fauServes s = true → nextRing s msg = some m → answeredRing m s = none →
        exec c s = .next (resume (count 0x00E (dropReleased m (atFau s)))))
    ∧ (∀ (ring : BitVec 12) (addr : BitVec 64) (data : Option Bytes) (r : Ring) (m : Released) (s : State),
      fauServes s = true → (s.rings.snoops.find? fun m => messageRing m.inner = ring && m.inner.offset = addr
        && !s.rings.replies.any fun x => x.snoop = m) = some m →
      findRingOf s ring = some r → m.src ≠ s.boot.instanceId → s.fau.answers.length < 65536 →
      exec (.snoopResponse ring addr data) s
        = .next (resume (answerSnoop r m (if m.inner.modifier = 5 then none else data.map (padTo 256))
            (modRings (fun x => { x with snoops := x.snoops.erase m }) (atFau s)))))

/-- The caching agent's requests (R187, R188, R195, R197): one for this member's own memory is served here, one for
another member's is sent as a ring request, and one to a dead member ends with ST_LINE_LOST and raises POLDER_FATAL.
Heartbeats (R194, R195): one whose sequence follows the last accepted restarts the watch of its sender; this member
sends its own every 100 µs of Datum; and 350 µs without one declare a member dead. Where the rules leave a choice, it is
that of notes/assumptions/33.md. -/
def Obligations.LineRequestsAndHeartbeatsComplete : Prop :=
  (∀ (ring : BitVec 12) (message : BitVec 4) (addr : BitVec 64) (data : Bytes) (r : Ring) (q : Polder) (s : State),
     running s = true → findRingOf s ring = some r → findPolder s r.polder = some q → q.teardown = none →
     r.active = true → r.destroying = none → addrValid r addr = true → message.toNat ≤ 4 →
     data.length = (if message = 3 then 256 else 0) →
     (domainExists s (lineDomain s ring addr) = true → accepts s (lineDomain s ring addr) = true) →
     let k := addrHome addr
     let u := if domainExists s (lineDomain s ring addr) then markWork (lineDomain s ring addr) s else s
     (memberDead r k = false → k = r.own → ∃ m : Released, m.src = s.boot.instanceId ∧ m.inner.offset = addr
         ∧ m.inner.modifier.toNat = message.toNat ∧ m.payload = data
         ∧ exec (.lineRequest ring message addr data) s = .next (count 0x283 (serveLine m u)))
       ∧ (memberDead r k = false → k ≠ r.own → spaceOpen s r.polder (destOf false (memberInst r k)) = true →
         exec (.lineRequest ring message addr data) s = .next (sendLine r k message addr data u))
       ∧ (memberDead r k = true → exec (.lineRequest ring message addr data) s
         = .next (homeLost r k 1 (emit (.ringAnswer ring addr .lineLost 0 []) u))))
    ∧ ((∀ (m : Released) (r : Ring) (p : RingPeer) (s : State), nextReleased s 0x0C 0 = some m →
       findRingOf s (messageRing m.inner) = some r → (r.peers.find? fun p => memberInst r p.member = m.src) = some p →
       r.active = true → r.polder = m.polder → p.dead = false → (∀ n, p.last = some n → serialLt n m.inner.aux = true) →
       Completes .ringHeartbeat s fun t =>
         t.link.inbox = s.link.inbox.erase m ∧ findRingOf t r.id = some { r with peers := r.peers.map fun x =>
           if x.member = p.member then { x with last := some m.inner.aux, at_ := s.datum.value.toNat } else x })
     ∧ (∀ (ring : BitVec 12) (r : Ring) (s : State), findRingOf s ring = some r → r.active = true →
       r.sentAt + 100000 ≤ s.datum.value.toNat → Completes (.heartbeatSend ring) s fun t =>
         findRingOf t ring = some { r with heartbeat := r.heartbeat + 1, sentAt := s.datum.value.toNat })
     ∧ (∀ (ring : BitVec 12) (member : BitVec 3) (r : Ring) (p : RingPeer) (s : State), findRingOf s ring = some r →
       (r.peers.find? fun p => p.member = member) = some p → r.active = true → p.at_ + 350000 ≤ s.datum.value.toNat →
       exec (.heartbeatMissed ring member) s = .next (resume (declareDead r member s)))
     ∧ (∀ (ring : BitVec 12) (member : BitVec 3) (r : Ring) (p : RingPeer) (s : State), findRingOf s ring = some r →
       (r.peers.find? fun p => p.member = member) = some p → s.datum.value.toNat < p.at_ + 350000 →
       exec (.heartbeatMissed ring member) s = .next s))


/-! ### Collectives and barriers -/

/-- Collectives at a node (R243 to R252): the first open packet takes a record where BAS has the quanta, or is refused
with ST_BUSY; the codes of a child are combined, at a node other than the root the benchmarks are taken from the parent;
each block of a contribution is taken once, into the inputs of the node; the counts of a filter are summed and its bases
placed; receipts free what they cover; the least report goes on. What a node then does is nodeWork. Where the rules
leave a choice, it is that of notes/assumptions/34.md and notes/assumptions/35.md. -/
def Obligations.CollectiveNodesComplete : Prop :=
  (∀ (g : Group) (r : Released) (i j : Nat) (k : Kid) (s u : State), Admitted true 0 false g r s u →
      ownNode g u = some j → kidFrom g j r.src = some (i, k) → findNode u g.polder r.inner.regionKey = none →
      openFits g r = true →
      (leastQuanta r.inner.modifier (kidsOf g j).length ≤ freeQuanta u → u.coll.nodes.length < 512 → exec .open_ s
        = .next (let n := newNode g j (min 32 (freeQuanta u)) r u
                 joinOpen g n i r (traceColl false n.launch none .ok u)))
      ∧ (freeQuanta u < leastQuanta r.inner.modifier (kidsOf g j).length → exec .open_ s
        = .next (sendAbort g r.inner.regionKey r.cls r.inner.modifier (some j) .busy u.boot.instanceId
            (countBy 0x2C3 (leastQuanta r.inner.modifier (kidsOf g j).length) u))))
    ∧ (∀ (g : Group) (r : Released) (n : CollNode) (i : Nat) (k : Kid) (s u : State), Admitted true 1 false g r s u →
      FromKid g r n i k u → exec .benchmarkCodes s = .next (nodeCodes g { n with progressAt := u.time } i k r u))
    ∧ (∀ (g : Group) (r : Released) (n : CollNode) (s u : State), Admitted false 1 false g r s u →
      findNode u g.polder r.inner.regionKey = some n → n.launch.group = g.id → n.root = false → benchHeld n = false →
      r.inner.offset.toNat + r.payload.length ≤ blockCount n.launch →
      let m : CollNode := { n with
        bench := n.bench ++ (r.payload.zipIdx).filterMap fun x =>
          if n.bench.any fun b => b.1 = r.inner.offset.toNat + x.2 then none else some (r.inner.offset.toNat + x.2, x.1)
        progressAt := u.time }
      let v := clearSent n.launch.polder n.launch.id n.launch.count 0 u
      (benchHeld m = false → exec .benchmarks s = .next (setNode m v))
        ∧ (benchHeld m = true → exec .benchmarks s = .next (sendBench g (beginData { m with codes := [] }) none v)))
    ∧ (∀ (g : Group) (r : Released) (n : CollNode) (i : Nat) (k : Kid) (s u : State), Admitted true 2 false g r s u →
      FromKid g r n i k u → allOpened n = true → benchHeld n = true → isFilter n.launch.modifier = false →
      isGather n.launch.modifier = false →
      let x := packetPartials { n with progressAt := u.time } k r
      let first := r.inner.offset.toNat
      let last := first + x.1.length
      first % 256 = 0 → last ≤ (getKid n i).credit → (last % 256 = 0 ∨ last = n.launch.count) →
      covers first last (getKid n i).got = false →
      ∃ m : CollNode, exec .contribution s = .next (nodeWork g m (some i) u)
        ∧ m.flags = n.flags ||| x.2.1 ∧ m.launch = n.launch ∧ m.nextBlock = n.nextBlock ∧ m.ready = n.ready
        ∧ (∃ more, m.inputs = n.inputs ++ more ∧ ∀ y ∈ more, y.child = i
            ∧ covers (256 * y.block) (min last (256 * y.block + 256)) (getKid n i).got = false)
        ∧ (i < n.kids.length → (getKid m i).got = addRange first last (getKid n i).got))
    ∧ (∀ (g : Group) (r : Released) (n : CollNode) (i : Nat) (k : Kid) (s u : State), Admitted true 3 false g r s u →
      FromKid g r n i k u → isFilter n.launch.modifier = true → n.second = false → exec .filterCounts s
        = .next (nodeWork g { n with
            progressAt := u.time
            flags := n.flags ||| packetFlags r
            sums := n.sums ++ ((parseEntries r.payload).filter fun x => (ranksOf g n.node k).contains x.1).filter
              fun x => (n.sums.lookup x.1).isNone } (some i) u))
    ∧ (∀ (g : Group) (r : Released) (n : CollNode) (s u : State), Admitted false 3 false g r s u →
      findNode u g.polder r.inner.regionKey = some n → n.launch.group = g.id → isFilter n.launch.modifier = true →
      n.root = false → n.second = false →
      let m : CollNode := { n with
        bases := n.bases ++ (parseEntries r.payload).filter fun x => (n.bases.lookup x.1).isNone
        progressAt := u.time }
      (∀ (w : CollNode) (v : State), (∀ x ∈ ranksUnder g n.node, (m.bases.lookup x.1).isSome = true) →
          (beginPlacement g m u = (none, w, v) → exec .filterBases s = .next (nodeWork g w none v))
            ∧ (∀ st, beginPlacement g m u = (some st, w, v) →
              exec .filterBases s = .next (abortNode g w st v.boot.instanceId v)))
        ∧ ((∃ x ∈ ranksUnder g n.node, m.bases.lookup x.1 = none) → exec .filterBases s = .next (setNode m u)))
    ∧ (∀ (g : Group) (r : Released) (n : CollNode) (s u : State), Admitted false 4 false g r s u →
      findPart u g.polder r.inner.regionKey = none → findNode u g.polder r.inner.regionKey = some n →
      n.launch.group = g.id → n.root = false → leField r.payload 8 8 ≠ 0 → exec .receipt s
        = .next (nodeWork g { n with
            progressAt := u.time
            ackedUp := max n.ackedUp (leField r.payload 0 8)
            creditUp := max n.creditUp (leField r.payload 8 8)
            out := n.out.filter fun x => max n.ackedUp (leField r.payload 0 8) < x.pos + x.len } none
          (clearSent n.launch.polder n.launch.id (leField r.payload 0 8) (leField r.payload 8 8) u)))
    ∧ (∀ (g : Group) (r : Released) (n : CollNode) (s u : State), Admitted true 5 false g r s u →
      findNode u g.polder r.inner.regionKey = some n → n.launch.group = g.id →
      exec .report s = .next (nodeReport g n r u))

/-- Collectives at a participant, at a sink and at their end (R246, R250 to R254): a receipt gives credit; a result is
written to the destination once, and a copy of one is dropped, but that the last report goes again; done completes the
participant with the status and flags it carries, and frees the record of a node or a sink; an abort is taken on its way
up or down; an unreceipted packet is sent again three times, then its collective is aborted with ST_TIMEOUT, as it is
when its group's watchdog runs out. Where the rules leave a choice, it is that of notes/assumptions/34.md and
notes/assumptions/35.md. -/
def Obligations.CollectiveParticipantsComplete : Prop :=
  (∀ (g : Group) (r : Released) (c : Participant) (s u : State), Admitted false 4 false g r s u →
      findPart u g.polder r.inner.regionKey = some c → c.launch.group = g.id →
      exec .receipt s = .next (partReceipt c (leField r.payload 0 8) (leField r.payload 8 8) u))
    ∧ (∀ (g : Group) (r : Released) (c : Participant) (s u v : State), Admitted false 2 false g r s u →
      u.boot.role ≠ .t → findPart u g.polder r.inner.regionKey = some c → c.launch.group = g.id →
      let x := resultRange c.launch r
      covers x.1 x.2.1 c.written = false →
      localCheck (.result c.launch.polder c.launch.id) c.context c.launch.polder (c.dst.toNat + x.2.2) r.payload.length
        true u = (.ready, v) →
      let w := stackCount c.launch.polder (c.dst.toNat + x.2.2) r.payload.length true
        (stackWrite (polderStackKey v c.launch.polder) (c.dst.toNat + x.2.2) r.payload v)
      let d : Participant := { c with
        written := addRange x.1 x.2.1 c.written
        through := reach (addRange x.1 x.2.1 c.written)
        chunks := c.chunks + 1
        progressAt := w.time }
      exec .result s = .next
        (if isFilter c.launch.modifier || d.chunks % 64 = 0 || d.through = resultTotal c.launch g.ranks.length
         then partReport g d (setPart d w) else setPart d w))
    ∧ (∀ (g : Group) (r : Released) (c : Participant) (s u : State), Admitted false 2 false g r s u →
      u.boot.role ≠ .t → findPart u g.polder r.inner.regionKey = some c → c.launch.group = g.id →
      let x := resultRange c.launch r
      let v := setPart { c with progressAt := u.time } u
      covers x.1 x.2.1 c.written = true → exec .result s = .next
        (if isFilter c.launch.modifier || c.through = resultTotal c.launch g.ranks.length then partReport g c v else v))
    ∧ (∀ (g : Group) (r : Released) (s u : State), Admitted false 2 false g r s u → u.boot.role = .t →
      exec .result s = .next (sinkResult g r u))
    ∧ (∀ (g : Group) (r : Released) (c : Participant) (s u : State), Admitted false 6 false g r s u →
      findPart u g.polder r.inner.regionKey = some c → c.launch.group = g.id → exec .done_ s
        = .next (completePart c (c.writeStatus.getD (packetStatus r)) (leNat r.payload) (packetFlags r) u))
    ∧ (∀ (g : Group) (r : Released) (n : CollNode) (s u : State), Admitted false 6 false g r s u →
      findPart u g.polder r.inner.regionKey = none → findNode u g.polder r.inner.regionKey = some n →
      n.launch.group = g.id → exec .done_ s = .next (freeNode n u))
    ∧ (∀ (g : Group) (r : Released) (s u : State), Admitted false 6 false g r s u →
      findPart u g.polder r.inner.regionKey = none → findNode u g.polder r.inner.regionKey = none →
      exec .done_ s = .next (dropSinkRec g.polder g.id r.inner.regionKey r u))
    ∧ (∀ (g : Group) (r : Released) (n : CollNode) (j : Nat) (s u : State), Admitted true 7 true g r s u →
      ownNode g u = some j → findNode u g.polder r.inner.regionKey = some n → n.launch.group = g.id → exec .abort s
        = .next (abortNode g n (packetStatus r) (BitVec.ofNat 13 r.inner.offset.toNat) u))
    ∧ (∀ (g : Group) (r : Released) (s u : State), nextColl s true 7 true = none → Admitted false 7 true g r s u →
      exec .abort s = .next (serveAbortDown g r u))
    ∧ (∀ (n : Nat) (k : CollSent) (s : State), s.coll.sent[n]? = some k → k.sentAt + 250000 ≤ s.time →
      (∀ w ∈ s.link.txWait, w.inner ≠ k.packet.inner) → 3 ≤ k.resends →
      exec (.collectiveResend n) s = .next (collectiveFailed k.packet.polder k.id .timeout s))
    ∧ (∀ (n : Nat) (k : CollSent) (s t : State), s.coll.sent[n]? = some k → k.sentAt + 250000 ≤ s.time →
      (∀ w ∈ s.link.txWait, w.inner ≠ k.packet.inner) → k.resends < 3 → findPart s k.packet.polder k.id = none →
      sendPacket { k.packet with retry := true } (modColl (fun c => { c with
        sent := c.sent.map fun x => if x = k then { x with sentAt := s.time, resends := x.resends + 1 } else x }) s)
        = (none, t) → exec (.collectiveResend n) s = .next t)
    ∧ (∀ (p : PolderId) (id : BitVec 32) (c : Participant) (g : Group) (s : State), findPart s p id = some c →
      findGroup s p c.launch.group = some g → c.fired = true → c.progressAt + g.watchdog * 1000000 ≤ s.time →
      exec (.collectiveWatchdog p id) s = .next (abortPart c .timeout s))
    ∧ (∀ (p : PolderId) (id : BitVec 32) (n : CollNode) (g : Group) (s : State), findPart s p id = none →
      findNode s p id = some n → findGroup s p n.launch.group = some g → n.progressAt + g.watchdog * 1000000 ≤ s.time →
      nodeFinished g n = false →
      exec (.collectiveWatchdog p id) s = .next (abortNode g n .timeout s.boot.instanceId s))

/-- Barriers (R270 to R274): the first arrival of a child takes a counter; the last of the root's children multicasts
the release and enters the outcome in the released list; a release adds the increment to the participant's counter and
completes its arrival; an arrival unanswered for 250 µs is sent again, and one that cannot be sent ends its barrier
(R538); the watchdogs end a barrier with ST_TIMEOUT, with a record; an outcome leaves the released list after 100 ms.
Where the rules leave a choice, it is that of notes/assumptions/36.md. -/
def Obligations.BarriersComplete : Prop :=
  (∀ (g : Group) (r : Released) (i j : Nat) (k : Kid) (s u : State), Admitted true 0 true g r s u →
      ownNode g u = some j → kidFrom g j r.src = some (i, k) → findCounter u g.polder r.inner.regionKey = none →
      (∀ e ∈ u.bars.released, ¬(e.polder = g.polder ∧ e.group = g.id ∧ e.id = r.inner.regionKey)) →
      u.bars.counters.length < 4096 →
      let c : BarrierCounter :=
        { polder := g.polder, group := g.id, id := r.inner.regionKey, cls := r.cls, node := j,
          children := BitVec.ofNat 64 (2 ^ i), first := u.time, firstAt := u.datum.value, sentUp := false, lastTx := u.time }
      missingKids g c ≠ [] → exec .barrierArrival s = .next (setCounter c u))
    ∧ (∀ (g : Group) (r : Released) (i j : Nat) (k : Kid) (c : BarrierCounter) (s u : State),
      Admitted true 0 true g r s u → ownNode g u = some j → kidFrom g j r.src = some (i, k) →
      findCounter u g.polder r.inner.regionKey = some c → c.group = g.id → c.children.getLsbD i = false →
      let d : BarrierCounter := { c with children := c.children ||| BitVec.ofNat 64 (2 ^ i) }
      missingKids g d = [] → nodeParent g c.node = c.node → ∀ v,
      (sendPacket (barrierPacket g c.id c.cls false (toMembers g) 6 0 .ok false .none)
          (recordLate g.polder r.src c.firstAt none u) = (none, v) →
        exec .barrierArrival s = .next (endCounter c.polder c.group c.id .ok v))
        ∧ (∀ st, sendPacket (barrierPacket g c.id c.cls false (toMembers g) 6 0 .ok false .none)
            (recordLate g.polder r.src c.firstAt none u) = (some st, v) →
          exec .barrierArrival s = .next (abortBarrier g c.node c.id c.cls st v.boot.instanceId v)))
    ∧ (∀ (g : Group) (r : Released) (a : Arrival) (c : Context) (s u : State), Admitted false 6 true g r s u →
      u.boot.role ≠ .t → findArrival u g.polder r.inner.regionKey = some a → a.group = g.id →
      coreContext u a.core = some c → c.polder = a.polder → c.state = .bound → a.increment ≠ 0 →
      (syncValue u a.core a.counter).toNat + a.increment.toNat < 4294967296 → exec .barrierRelease s
        = .next (completeArrival a .ok
            (changeSync a.core a.counter (syncValue u a.core a.counter + a.increment) u)))
    ∧ (∀ (p : PolderId) (id : BitVec 32) (a : Arrival) (g : Group) (s : State), findArrival s p id = some a →
      usableGroup s p a.group = some g → (∀ k ∈ s.link.txWait, k.owner ≠ .barrier p id) → a.lastTx + 250000 ≤ s.time →
      let x := sendPacket (barrierPacket g a.id a.cls true (toInst (ownLeaf g s)) 0 0 .ok true (.barrier p id))
        (modBars (fun b => { b with arrivals := b.arrivals.map fun x =>
          if x.polder = p && x.id = id then { x with lastTx := s.time } else x }) s)
      (x.1 = none → exec (.barrierArrivalResend p id) s = .next x.2)
        ∧ (∀ st, x.1 = some st → exec (.barrierArrivalResend p id) s = .next (completeArrival a st x.2)))
    ∧ (∀ (p : PolderId) (id : BitVec 32) (c : BarrierCounter) (g : Group) (s : State), findCounter s p id = some c →
      findGroup s p c.group = some g → c.first + g.watchdog * 1000000 ≤ s.time → exec (.barrierNodeWatchdog p id) s
        = .next (abortBarrier g c.node id c.cls .timeout s.boot.instanceId (writeFault .barrierWatchdog
            { unit := barrierUnit s id, polder := p, count := (missingKids g c).length,
              detail := leBytes 2 c.group.toNat ++ leBytes 4 id.toNat ++ packIds (missingKids g c) } s)))
    ∧ (∀ (p : PolderId) (id : BitVec 32) (a : Arrival) (g : Group) (s : State), findArrival s p id = some a →
      findGroup s p a.group = some g → a.start + g.watchdog * 1000000 + 10000000 ≤ s.time →
      ∃ f, exec (.barrierParticipantWatchdog p id) s = .next (completeArrival a .timeout (writeFault .barrierWatchdog f s)))
    ∧ (∀ (n : Nat) (e : ReleasedBarrier) (s : State), s.bars.released[n]? = some e → e.at_ + 100000000 ≤ s.time →
      exec (.releasedListExpiry n) s = .next { s with bars := { s.bars with released := removeAt n s.bars.released } })

/-! ### Stacks and sync counters -/

/-- Accesses to the stacks (R84 to R87, R92, R93, R100, R101): one that its slice takes and that passes checks 1 to 7 of
R92 goes on where its data unit is free: a write of whole blocks stores their ciphertext and is answered, leaves every
byte outside them and waits for nothing; any other goes to the stack controller. Checks 1 to 7 refuse with their status,
and with a record but for check 3. One behind an access to its unit, of a core or of another unit of the block, or whose
slice or Weir does not take it (R42, R411), to a plot that is filling, or that its polder's freeze or a full miss queue
keeps out, waits. A read that returns is answered with its plaintext, an uncorrectable one with ST_BREACH. The end of a
zero-fill leaves the plot filled and readable, and one whose key can not be had leaves it unmapped; the end of a release
leaves it unmapped. Where the rules leave a choice, it is that of notes/assumptions/9.md and notes/assumptions/21.md. -/
def Obligations.StackAccessesComplete : Prop :=
  (∀ (r : StackReq) (x : Context) (s u : State), AtStack r s → stackChecks s r = none → findContext s r.context = some x →
      UnitFree r s → hungFor s (sceUnit r.addr.toNat) (some r.context) = false → pathServes s (asWait r x s) = true →
      plotFilling (plotEntry s (plotOf r.addr.toNat)) = false → needKey x.polder 3 (atSlice r s) = (.ready, u) →
      (r.write = true → partialBlocks r = [] → Completes (.stackAccess r) s fun t =>
          .stackAnswer r.context r.addr .ok [] ∈ t.out ∧ t.stack.reads = u.stack.reads ∧ t.stack.keyWait = u.stack.keyWait
            ∧ (Mem.wf 0 u.stack.mem = true → ∀ a, (a < r.addr.toNat ∨ r.addr.toNat + r.len ≤ a) →
                memRead 0 t.stack.mem a = memRead 0 u.stack.mem a)
            ∧ (Mem.wf 0 u.stack.mem = true → r.mask = none → ∀ i < r.len / 16,
                memReadN 0 t.stack.mem (r.addr.toNat + 16 * i) 16
                  = stackSeal u (polderStackKey u x.polder) (r.addr.toNat + 16 * i) (slice r.data (16 * i) 16)))
        ∧ ((r.write = false ∨ partialBlocks r ≠ []) → Completes (.stackAccess r) s fun t =>
          t.stack.reads = u.stack.reads ++ [asWait r x s] ∧ t.stack.mem = u.stack.mem ∧ t.out = u.out))
    ∧ (∀ (r : StackReq) (check : Nat) (st : Status) (s : State), AtStack r s → stackChecks s r = some (check, st) →
      Completes (.stackAccess r) s fun t =>
        .stackAnswer r.context r.addr st [] ∈ t.out ∧ t.stack = s.stack
          ∧ t.tracer.nextSeq = if check = 3 then s.tracer.nextSeq else s.tracer.nextSeq + 1)
    ∧ (∀ (r : StackReq) (x : Context) (s : State), AtStack r s → stackChecks s r = none →
      findContext s r.context = some x → Completes (.stackAccess r) s fun t =>
        let later := { s.stack with turns := s.stack.turns + 1 }
        let waits := t.stack = { later with held := s.stack.held ++ [asWait r x s] } ∧ t.out = s.out
        ((∃ w ∈ s.stack.reads ++ s.stack.fillWait ++ s.stack.held, sameUnit (r.addr.toNat / 256) w.req = true) → waits)
          ∧ (outsideFirst s (r.addr.toNat / 256) s.stack.turns = true → waits)
          ∧ (UnitFree r s → pathServes s (asWait r x s) = false → waits)
          ∧ (UnitFree r s → hungFor s (sceUnit r.addr.toNat) (some r.context) = false → pathServes s (asWait r x s) = true →
              plotFilling (plotEntry s (plotOf r.addr.toNat)) = true →
              t.stack = { later with fillWait := s.stack.fillWait ++ [asWait r x s] } ∧ t.out = s.out))
    ∧ (∀ (r : StackReq) (s : State), running s = true → s.boot.role = .e → accepts s (sceDomain r.addr.toNat) = true →
      (reqFrozen s r = true ∨ sliceFull s (reqSlice r) = true) → Completes (.stackAccess r) s fun t =>
        t.stack = { s.stack with port := s.stack.port ++ [r] } ∧ t.out = s.out ∧ t.fau = s.fau)
    ∧ (∀ (n : Nat) (data : Bytes) (bad : Bool) (w : StackWait) (s : State), running s = true →
      s.stack.reads[n]? = some w → serves s (sceDomain w.req.addr.toNat) = true → isFrozen s w.polder = false →
      (∀ h ∈ s.stack.held, sameUnit (w.req.addr.toNat / 256) h.req = false) →
      ∃ u, exec (.deviceReadReturn (.stack n) data bad) s = .next (resume u)
        ∧ (bad = true → .stackAnswer w.req.context w.req.addr .breach [] ∈ u.out ∧ w.req.addr.toNat / 256 ∈ u.stack.bad
            ∧ u.stack.mem = s.stack.mem ∧ u.stack.reads = s.stack.reads.erase w)
        ∧ (∀ v, bad = false → w.req.write = false → needKey w.polder 3 { markWork (sceDomain w.req.addr.toNat) s with
              stack := { s.stack with reads := s.stack.reads.erase w } } = (.ready, v) →
            u.stack.mem = memWriteN 0 s.stack.mem w.req.addr.toNat (padTo w.req.len data)
              ∧ u.stack.reads = s.stack.reads.erase w
              ∧ .stackAnswer w.req.context w.req.addr .ok
                  (stackRead u (polderStackKey v w.polder) w.req.addr.toNat w.req.len) ∈ u.out))
    ∧ (∀ (plot : BitVec 16) (f : Fill) (s : State), (s.stack.fills.find? fun f => f.plot = plot) = some f →
      serves s (sceDomain (16777216 * plot.toNat)) = true →
      (∀ w ∈ s.stack.fillWait, plotOf w.req.addr.toNat ≠ plot) →
      (∀ u, needKey f.polder 3 (markWork (sceDomain (16777216 * plot.toNat)) s) = (.ready, u) →
          ∃ v, exec (.zeroFillComplete plot) s = .next (resume v) ∧ (∀ g ∈ v.stack.fills, g.plot ≠ plot)
            ∧ plotFilling (plotEntry v plot) = false
            ∧ (∀ i < 64, i ≠ 38 → (plotEntry v plot).getLsbD i = (plotEntry s plot).getLsbD i)
            ∧ (Mem.wf 0 s.stack.mem = true → ∀ a < 16777216, memRead 0 v.stack.mem (16777216 * plot.toNat + a)
                = let o := polderOffset (plotEntry s plot) a
                  (xtsBlock true (polderStackKey u f.polder) (o / 256) (o % 256 / 16) (zeros 16)).getD (a % 16) 0))
        ∧ (∀ st u, needKey f.polder 3 (markWork (sceDomain (16777216 * plot.toNat)) s) = (.failed st, u) →
          ∃ v, exec (.zeroFillComplete plot) s = .next (resume v) ∧ (∀ g ∈ v.stack.fills, g.plot ≠ plot)
            ∧ plotEntry v plot = 0 ∧ v.tracer.nextSeq = u.tracer.nextSeq + 1))
    ∧ (∀ (plot : BitVec 16) (s : State), plotReleasing s plot = true → plotInUse s plot = false →
      ∃ u, exec (.plotReleaseDrained plot) s = .next (resume u) ∧ plotEntry u plot = 0 ∧ plotReleasing u plot = false
        ∧ (∀ q ≠ plot, plotEntry u q = plotEntry s q) ∧ (∀ q ≠ plot, plotReleasing u q = plotReleasing s q)
        ∧ ∀ m ∈ u.obj.memobjs, plot ∉ m.plots)

/-- A core's request to the Signal Counter Array that its bank takes and no check refuses, of a target whose context runs and a
core whose polder is not frozen (R258 to R264): READ answers the counter; INC, DEC and SET change it, and answer the new value
or for SET the old one; a result out of range faults and changes nothing; a wait whose condition holds is answered at once, and
another waits. A request to a stopped target is squashed. An op that does not exist is refused and recorded (R259), but waits
like any other while its polder is frozen (R420); the hint of
a core whose oldest wait has lasted the threshold is asserted and counted (R265). Where the rules leave a choice, it is that of
notes/assumptions/31.md. -/
def Obligations.SyncCountersComplete : Prop :=
  (∀ (r : ScaReq) (s : State), running s = true → s.boot.role = .e → accepts s (scaDomain r.target) = true →
     scaCheck r true s = none → coreStopped r.target s = false → scaHeld r s = false →
     let u := markWork (scaDomain r.target) s
     let v := syncValue s r.target r.counter
     exec (.scaRead r) s = .next (scaAnswer r.core .ok v u)
       ∧ (v.toNat + r.value.toNat < 4294967296 → r.value ≠ 0 → exec (.inc r) s
           = .next (changeSync r.target r.counter (v + r.value) (scaAnswer r.core .ok (v + r.value) u)))
       ∧ (4294967296 ≤ v.toNat + r.value.toNat → exec (.inc r) s = .next (scaAnswer r.core .syncOverflow 0
           (syncFault r.target r.counter r.value .syncOverflow none (BitVec.ofNat 32 r.core.toNat) u)))
       ∧ (r.value.toNat ≤ v.toNat → r.value ≠ 0 → exec (.dec r) s
           = .next (changeSync r.target r.counter (v - r.value) (scaAnswer r.core .ok (v - r.value) u)))
       ∧ (v.toNat < r.value.toNat → exec (.dec r) s = .next (scaAnswer r.core .syncUnderflow 0
           (syncFault r.target r.counter r.value .syncUnderflow none (BitVec.ofNat 32 r.core.toNat) u)))
       ∧ (r.value = 0 → exec (.inc r) s = .next (scaAnswer r.core .ok v u)
           ∧ exec (.dec r) s = .next (scaAnswer r.core .ok v u))
       ∧ exec (.set r) s = .next (changeSync r.target r.counter r.value (scaAnswer r.core .ok v u))
       ∧ (r.value.toNat ≤ v.toNat →
           (exec (.waitGe r) s = .next (count 0x286 (scaAnswer r.core .ok v (setSync r.target r.counter v u))))
             ∧ exec (.waitDec r) s
               = .next (count 0x286 (scaAnswer r.core .ok (v - r.value) (setSync r.target r.counter (v - r.value) u))))
       ∧ (v.toNat < r.value.toNat → coreStopped r.core s = false →
           (s.sca.waits.filter fun x => x.req.core = r.core).length < 4 →
           (exec (.waitGe r) s = .next (count 0x286 { u with sca := { s.sca with
               waits := s.sca.waits ++ [{ req := r, subtracts := false, at_ := s.datum.value.toNat }] } }))
             ∧ exec (.waitDec r) s = .next (count 0x286 { u with sca := { s.sca with
               waits := s.sca.waits ++ [{ req := r, subtracts := true, at_ := s.datum.value.toNat }] } }))
       ∧ (v.toNat < r.value.toNat → coreStopped r.core s = false →
           4 ≤ (s.sca.waits.filter fun x => x.req.core = r.core).length →
           exec (.waitGe r) s = .next (scaAnswer r.core .busy 0 u) ∧ exec (.waitDec r) s = .next (scaAnswer r.core .busy 0 u))
       ∧ (v.toNat < r.value.toNat → coreStopped r.core s = true →
           exec (.waitGe r) s = .next (scaAnswer r.core .squashed 0 u)
             ∧ exec (.waitDec r) s = .next (scaAnswer r.core .squashed 0 u)))
    ∧ ((∀ (r : ScaReq) (op : BitVec 3) (s : State), running s = true → s.boot.role = .e →
       accepts s (scaDomain r.target) = true → 6 ≤ op.toNat →
       let u := markWork (scaDomain r.target) s
       (scaHeld r s = false →
         ∃ f, exec (.scaInvalidOp r op) s = .next (scaAnswer r.core .badParam 0 (writeFault .scaRefused f u))
           ∧ f.status = statusCode .badParam)
         ∧ (scaHeld r s = true →
           exec (.scaInvalidOp r op) s = .next { u with sca := { u.sca with held := u.sca.held ++ [(r, op)] } }))
     ∧ (∀ (core : BitVec 9) (w : SyncWait) (s : State), oldestWait core s = some w →
       w.at_ + 1000 * s.regs.waitIdleUs ≤ s.datum.value.toNat → core ∉ s.sca.hints →
       Completes (.waitIdleThreshold core) s fun t =>
         t.sca = { s.sca with hints := s.sca.hints ++ [core] } ∧ counterOf 0x287 t = counterOf 0x287 s + 1))

/-! ### The Datum, its marks and Floodwatch -/

/-- Alignment, marks and Floodwatch (R278, R279, R282, R283, R456): an exchange sets the offset and the delay; in LOCKED
a small offset slews and a greater one leaves for HOLDOVER; before the first lock the first entry to ACQUIRING steps;
the eighth missed exchange in a row leaves ACQUIRING or LOCKED; the earliest mark that the Datum has reached leaves the
queue and its action is done; a Floodwatch stop freezes the polder and is recorded, and while Floodwatch is off it is
counted. Where the rules leave a choice, it is that of notes/assumptions/32.md, and for the rate that a greater offset
corrects that of notes/assumptions/81.md. -/
def Obligations.DatumAndMarksComplete : Prop :=
  (∀ (t1 t2 t3 t4 : BitVec 64) (up : Bool) (s : State), followsUpstream s = true →
      let off := exchangeOffset t1 t2 t3 t4
      Completes (.datumExchange t1 t2 t3 t4 up) s fun t =>
        t.datum.offset = BitVec.ofInt 32 off ∧ t.datum.delay = BitVec.ofInt 32 (exchangeDelay t1 t2 t3 t4)
          ∧ t.datum.missed = 0
          ∧ (s.datum.state = .locked → off.natAbs ≤ 2 → t.datum.state = .locked ∧ t.datum.slew = -off
              ∧ t.datum.good = s.datum.good + 1 ∧ t.datum.rate = s.datum.rate)
          ∧ (s.datum.state = .locked → 2 < off.natAbs → t.datum.state = .holdover ∧ t.datum.slew = -off
              ∧ t.datum.rate = rateAfter off s.datum)
          ∧ (s.datum.state = .freeRunning → up = true → s.datum.lockedOnce = false → t.datum.state = .acquiring
              ∧ t.datum.value = s.datum.value - BitVec.ofInt 64 off ∧ t.datum.slew = 0)
          ∧ (s.datum.state = .freeRunning → up = false → t.datum.state = .freeRunning ∧ t.datum.value = s.datum.value)
          ∧ (s.datum.state = .acquiring → off.natAbs ≤ 2 → s.datum.good = 15 → t.datum.state = .locked
              ∧ t.datum.lockedOnce = true))
    ∧ (∀ s : State, followsUpstream s = true → s.datum.missed = 7 → Completes .datumExchangeMissed s fun t =>
      t.datum.missed = 8
        ∧ (s.datum.state = .acquiring → t.datum.state = .freeRunning)
        ∧ (s.datum.state = .locked → t.datum.state = .holdover)
        ∧ (s.datum.state = .holdover → t.datum.state = .holdover))
    ∧ (∀ (e : MarkEntry) (s : State), earliestMark s = some e → running s = true → e.mark.toNat ≤ s.datum.value.toNat →
      exec .markFire s = .next (fireAction e.action (emitTrace 4 0x0401 0x0D00 (markPolder e.action)
        (markContext e.action) (leBytes 8 e.mark.toNat ++ [Config.markKind (markOrder e.action)])
        (modDatum (fun d => { d with marks := d.marks.erase e }) s))))
    ∧ (∀ (e : MarkEntry) (s : State), earliestMark s = some e → s.datum.value.toNat < e.mark.toNat →
      exec .markFire s = .next s)
    ∧ (∀ (p : PolderId) (q : Polder) (i : InstId) (s : State), running s = true → s.tracer.floodwatch = true →
      findPolder s p = some q → q.freeze ≠ .floodwatch → q.teardown = none → Completes (.floodwatchStop p i) s fun t =>
        isFrozen t p = true ∧ t.tracer.nextSeq = s.tracer.nextSeq + 1)
    ∧ (∀ (p : PolderId) (i : InstId) (s : State), running s = true → s.tracer.floodwatch = false →
      exec (.floodwatchStop p i) s = .next (count 0x012 s))

/-! ### Tray devices, leases and Weirs -/

/-- The tray's devices and its parity groups (R106, R127 to R131): a device that fails is dead, one that is present
again is a spare; a rebuild writes row by row to the spare, leaves
a row that the other shares no longer give lost, and at its end the spare stands in the dead device's place.
A read that a device returns is what it holds; an uncorrectable one is an error of the device. Where the rules leave a
choice, it is that of notes/assumptions/24.md. -/
def Obligations.TrayDevicesComplete : Prop :=
  (∀ (d : Nat) (s : State), d < 74 → hasTray s = true →
      exec (.deviceFailed d) s = .next (deviceDead d s))
    ∧ (∀ (d : Nat) (s : State), d < 74 → hasTray s = true → d ∈ s.tray.dead → Completes (.devicePresent d) s fun t =>
      d ∉ t.tray.dead ∧ t.tray.spares = s.tray.spares ++ [d] ∧ t.tray.devices = s.tray.devices
        ∧ ∀ x ∈ t.tray.errors, x.1 ≠ d)
    ∧ (∀ (g k spare : Nat) (b : Bytes) (s : State), hasTray s = true → (getGroup s g).state = .rebuilding →
      (getGroup s g).dead = some k → (getGroup s g).spare = some spare → (getGroup s g).watermark < trayRows →
      serves s (leveeDomain g) = true → shareRead s g k (getGroup s g).watermark = some b → Completes (.rebuildRow g) s fun t =>
        (getGroup t g).watermark = (getGroup s g).watermark + 1
          ∧ t.tray.devices = (rawWrite spare (getGroup s g).watermark b s).tray.devices
          ∧ counterOf 0x245 t = counterOf 0x245 s + 1)
    ∧ (∀ (g k spare : Nat) (s : State), hasTray s = true → (getGroup s g).state = .rebuilding →
      (getGroup s g).dead = some k → (getGroup s g).spare = some spare → (getGroup s g).watermark < trayRows →
      serves s (leveeDomain g) = true → shareRead s g k (getGroup s g).watermark = none → Completes (.rebuildRow g) s fun t =>
        (getGroup t g).watermark = (getGroup s g).watermark + 1 ∧ t.tray.devices = s.tray.devices
          ∧ (spare, (getGroup s g).watermark) ∈ t.tray.badRows)
    ∧ (∀ (g k spare : Nat) (s : State), hasTray s = true → (getGroup s g).state = .rebuilding →
      (getGroup s g).dead = some k → (getGroup s g).spare = some spare → (getGroup s g).watermark = trayRows →
      Completes (.rebuildEnd g) s fun t =>
        getGroup t g = .normal ∧ assocGet (memberDevice g k) (memberDevice g k) t.tray.remap = spare
          ∧ t.tracer.nextSeq = s.tracer.nextSeq + 1)
    ∧ (∀ (d offset : Nat) (data : Bytes) (s : State), d < 74 → offset + data.length ≤ deviceSize → hasTray s = true →
      d ∉ s.tray.dead → (∀ x ∈ trayDomains, x.kind = .levee → serves s x = true) →
      let u := (trayDomains.filter fun x => x.kind = .levee).foldl (fun t x => markWork x t) s
      exec (.deviceReadReturn (.tray d offset) data false) s = .next (deviceReturned d (data.length + 1) offset data u)
        ∧ exec (.deviceReadReturn (.tray d offset) data true) s = .next (deviceError d offset u))

/-- Leases and extents (R123, R198 to R204): an expired lease starts its revocation with a record; a drained revocation
leaves the extent REVOKED, without its key, and ends the commands that wait; the initialisation of a location ends a
grant or starts the copy of a rekey; the copy's end moves the extent to its new location and key. Where the rules leave
a choice, it is that of notes/assumptions/25.md. -/
def Obligations.ExtentTimersComplete : Prop :=
  (∀ (x : BitVec 13) (e : Extent) (s : State), findExtent s x = some e → hasTray s = true → e.state = .leased →
      e.expiry.toNat ≤ s.datum.value.toNat → Completes (.leaseExpiry x) s fun t =>
        findExtent t x = some { e with state := .revoking } ∧ t.tracer.nextSeq = s.tracer.nextSeq + 1)
    ∧ (∀ (x : BitVec 13) (e : Extent) (s : State), findExtent s x = some e → s.datum.value.toNat < e.expiry.toNat →
      exec (.leaseExpiry x) s = .next s)
    ∧ (∀ (x : BitVec 13) (e : Extent) (s : State), findExtent s x = some e → hasTray s = true → e.state = .revoking →
      e.rekey = none → regionInUse x.toNat s = false → exec (.extentRevokeDrained x) s
        = .next (finishAll e.revoking .ok (retryTray (modExtent x (fun y =>
            { y with state := .revoked, key := none, roots := [], revoking := [] }) (reclaimLocation e.location s)))))
    ∧ (∀ (x : BitVec 13) (e : Extent) (s : State), findExtent s x = some e → hasTray s = true → extentKeyless e = false →
      e.state = .granting → (∀ d ∈ trayDomains, serves s d = true) → exec (.extentInitialisationComplete x) s
        = .next (grantExtent e (trayDomains.foldl (fun t d => markWork d t) s)))
    ∧ (∀ (x : BitVec 13) (e : Extent) (r : Rekey) (s : State), findExtent s x = some e → hasTray s = true →
      extentKeyless e = false → e.state ≠ .granting → e.rekey = some r → r.copying = false →
      (∀ d ∈ trayDomains, serves s d = true) →
      Completes (.extentInitialisationComplete x) s fun t => findExtent t x = some { e with
        rekey := some { r with copying := true }, roots := e.roots.filter fun y => y.1 < 4 })
    ∧ (∀ (x : BitVec 13) (e : Extent) (r : Rekey) (old new : Key512) (s : State), findExtent s x = some e →
      hasTray s = true → e.key = some old → e.rekey = some r → r.key = some new → r.copying = true →
      (∀ d ∈ trayDomains, serves s d = true) →
      exec (.extentRekeyCopyComplete x) s = .next (finishAll r.waiters .ok (retryTray
        (reclaimLocation e.location (setLoc r.location .active (modExtent x (fun y =>
          { y with location := r.location, nonce := r.nonce, key := some new, rekey := none,
                   roots := (y.roots.filter fun z => 4 ≤ z.1).map fun z => (z.1 - 4, z.2) })
          (copyPages x e.location r.location old new 262144 (trayDomains.foldl (fun t d => markWork d t) s))))))))


/-! ### Keys, hangs, teardown and objects -/

/-- The key units (R300, R305, R306, R311 to R320): a job that passes its checks leaves its unit idle with its registers
zeroed, takes effect, and what waited goes on; a failed comparison is counted and the job starts again once; a second
takes the KCU out of service, with no reset while the other serves; the 16th within a second resets the block. The
eviction of a slot that no use holds zeroizes it with the copies and prefixes of its keys; a load without a victim for 1
ms, then too, fails with ST_NO_SLOT; a reseed mixes new entropy in and starts the count of requests anew; the third
failure of the entropy source in a row makes it FAILED. Where the rules leave a choice, it is that of
notes/assumptions/17.md and notes/assumptions/18.md. -/
def Obligations.KeyUnitsComplete : Prop :=
  (∀ (kcu : Bool) (j : KcuJob) (s : State), (getKcu kcu s).job = some j → j.abandoned = false →
      ∃ k, exec (.kcuJobComplete kcu .pass) s
          = .next (resume (applyJob j (markWork (kcuDomain kcu) (traceJob true kcu j (setKcu kcu k s)))))
        ∧ k.inService = true ∧ k.job = none ∧ k.regs = .zero)
    ∧ (∀ (kcu : Bool) (j : KcuJob) (s : State), (getKcu kcu s).job = some j → j.restarted = false →
      (s.keys.mismatches.filter fun t => s.time < t + 1000000000).length < 15 →
      Completes (.kcuJobComplete kcu .mismatch) s fun t =>
        (getKcu kcu t).job = some { j with restarted := true, seen := jobSeen s j.work }
          ∧ (getKcu kcu t).regs = loadRegs s j.work ∧ (getKcu kcu t).inService = (getKcu kcu s).inService
          ∧ getKcu (!kcu) t = getKcu (!kcu) s ∧ counterOf 0x007 t = counterOf 0x007 s + 1)
    ∧ (∀ (kcu : Bool) (j : KcuJob) (s : State), (getKcu kcu s).job = some j → j.restarted = true →
      (s.keys.mismatches.filter fun t => s.time < t + 1000000000).length < 15 → (getKcu (!kcu) s).inService = true →
      ∃ u, exec (.kcuJobComplete kcu .mismatch) s = .next (resume u) ∧ (getKcu kcu u).inService = false
        ∧ (getKcu kcu u).job = none ∧ (getKcu kcu u).regs = .zero ∧ counterOf 0x007 u = counterOf 0x007 s + 1
        ∧ (j.abandoned = false → u.keys.queue = { j with restarted := false, seen := none } :: s.keys.queue)
        ∧ u.tracer.nextSeq = s.tracer.nextSeq + 1)
    ∧ (∀ (kcu : Bool) (j : KcuJob) (s : State), (getKcu kcu s).job = some j →
      15 ≤ (s.keys.mismatches.filter fun t => s.time < t + 1000000000).length →
      ∃ u, exec (.kcuJobComplete kcu .mismatch) s = .next (blockReset 4 u) ∧ counterOf 0x007 u = counterOf 0x007 s + 1
        ∧ (j.restarted = true → u.tracer.nextSeq = s.tracer.nextSeq + 1))
    ∧ (∀ (i : BitVec 8) (s : State), running s = true → (getSlot s i).state = .evicting →
      slotUsed s (getSlot s i).polder = false →
      (∀ q, findPolder s (getSlot s i).polder = some q → q.teardown = none) →
      ∃ u, exec (.slotEvictionComplete i) s = .next (resume u) ∧ getSlot u i = freeSlot i
        ∧ (∀ c ∈ u.stack.copies, c.1.2 ≠ (getSlot s i).polder)
        ∧ ∀ (kcu : Bool), ∀ x ∈ (getKcu kcu u).prefixes, sourceOf (getSlot s i).polder x.source = false)
    ∧ (∀ (p : PolderId) (l : SlotLoad) (s : State),
      (s.cad.loads.find? fun l => l.polder = p && l.slot.isNone) = some l → l.start + 1000000 ≤ s.time →
      let v := retryLoads s
      (victimless v p = true →
        ∃ u, exec (.slotLoadTimeout p) s = .next (resume (failUsers p .noSlot 0xFF u)) ∧ (∀ x ∈ u.cad.loads, x.polder ≠ p)
          ∧ u.stack = v.stack ∧ u.link = v.link)
        ∧ (victimless v p = false → exec (.slotLoadTimeout p) s = .next v))
    ∧ (∀ s : State, running s = true → s.keys.instantiated = true → reseedDue s = true → s.keys.sourceFailed = false →
      Completes .drbgReseed s fun t =>
        t.keys.requests = 0 ∧ t.keys.reseededAt = s.time ∧ t.keys.failures = 0 ∧ t.keys.buffer = s.keys.buffer
          ∧ t.keys.drbg = Config.drbgReseed s.keys.drbg ((fresh s).setWidth 384) ∧ t.free = s.free + 1)
    ∧ (∀ (test : BitVec 8) (s : State), running s = true → s.keys.instantiated = true → s.keys.sourceFailed = false →
      Completes (.entropyHealthFailure test) s fun t =>
        t.keys.failures = s.keys.failures + 1 ∧ (t.keys.sourceFailed = true ↔ 2 ≤ s.keys.failures)
          ∧ t.keys.buffer = s.keys.buffer)

/-- Engine hangs (R439, R440): the watchdog of an engine that holds work, and has done none for its period, starts the hang
procedure: every context with work
there is a suspect, the packets that wait in a receive slice are dropped, and the event counts towards leaving service. During
a suspect's replay it stops that suspect's accesses in the engine and faults its context. A suspect is cleared once the work
that it had there has ended, and not before: the next one is replayed alone, what it has sent goes again, and after the last
the hang is over. Where the rules leave a choice, it is that of
notes/assumptions/43.md. -/
def Obligations.EngineHangsComplete : Prop :=
  (∀ (unit : BitVec 16) (s : State), running s = true → watched s unit = true → findHang s unit = none →
      engineHolds s unit = true → engineAt s unit + watchdogPeriod s unit ≤ s.time →
      ∃ w, (let u := countEvent Config.hangCause (advanceHang unit w)
          exec (.engineWatchdogExpiry unit) s
            = .next (if u.sb.leaving = true ∧ u.sb.outOfService = false then leaveService u else u))
        ∧ (∃ h ∈ w.tracer.hangs, h.unit = unit ∧ h.start = s.time ∧ h.waiters = []
            ∧ ∀ c ∈ engineWork s unit, c ∈ h.suspects)
        ∧ (unit.toNat / 256 = 2 → ∀ x ∈ w.link.rxWait, x.2.1.toNat ≠ unit.toNat % 256))
    ∧ (∀ (unit : BitVec 16) (h : Hang) (c : CtxId) (s : State), running s = true → watched s unit = true →
      findHang s unit = some h → h.current = some c → h.start + watchdogPeriod s unit ≤ s.time →
      ∃ w, exec (.engineWatchdogExpiry unit) s = .next (advanceHang unit w)
        ∧ (unit.toNat / 256 = 3 → ∀ x ∈ w.stack.reads ++ w.stack.keyWait ++ w.stack.fillWait,
            ¬(sceSlice (plotOf x.req.addr.toNat) = unit.toNat % 256 ∧ x.req.context = c)))
    ∧ (∀ (unit : BitVec 16) (s : State), findHang s unit = none → engineHolds s unit = true →
      s.time < engineAt s unit + watchdogPeriod s unit → exec (.engineWatchdogExpiry unit) s = .next s)
    ∧ (∀ (unit : BitVec 16) (h : Hang) (c : CtxId) (s : State), findHang s unit = some h → h.current = some c →
      (suspectDone s h c = false → exec (.suspectCleared unit) s = .next s)
        ∧ (suspectDone s h c = true → h.suspects = [] → h.waiters = [] →
          ∃ w, exec (.suspectCleared unit) s = .next (resumeWork w) ∧ findHang w unit = none
            ∧ ∀ v ≠ unit, findHang w v = findHang s v)
        ∧ (∀ d rest, suspectDone s h c = true → h.suspects = d :: rest →
          let next : Hang := { h with current := some d, suspects := rest, start := s.time }
          ∃ w, (let v := resumeWork w
              exec (.suspectCleared unit) s
                = .next (if (unitDomain v unit).any (serves v) then resendSuspect next d v else v))
            ∧ findHang w unit = some next ∧ (∀ v ≠ unit, findHang w v = findHang s v) ∧ w.out = s.out))

/-- The ends of teardowns and destructions (R366, R371, R372, R449, R450): what is still outstanding after 10 ms is
squashed and recorded, the polder's state is freed and then it is no longer defined; a context being destroyed that is
idle is freed; a memory object without references gives up its regions and its plots. Where the rules leave a choice, it
is that of notes/assumptions/19.md. -/
def Obligations.DestructionsComplete : Prop :=
  (∀ (p : PolderId) (q : Polder) (d : Teardown) (s : State), findPolder s p = some q → q.teardown = some d →
      d.drained = false → (d.forced = true ∨ outstanding p s = 0 ∨ d.start + 10000000 ≤ s.time) →
      exec (.teardownDrained p) s = .next (drainPolder q d s))
    ∧ (∀ (p : PolderId) (q : Polder) (d : Teardown) (s : State), findPolder s p = some q → q.teardown = some d →
      d.drained = true → ∃ u, exec (.teardownComplete p) s = .next (resume u)
        ∧ findPolder u p = none ∧ ∀ r ≠ p, findPolder u r = findPolder s r)
    ∧ (∀ (p : PolderId) (q : Polder) (d : Teardown) (s : State), findPolder s p = some q → q.teardown = some d →
      d.drained = false → d.forced = false → outstanding p s ≠ 0 → s.time < d.start + 10000000 →
      exec (.teardownDrained p) s = .next s ∧ exec (.teardownComplete p) s = .next s)
    ∧ (∀ (c : CtxId) (x : Context) (s : State), findContext s c = some x → x.state = .destroying → contextIdle s c = true →
      exec (.contextDestroyComplete c) s = .next (freeContext c s))
    ∧ (∀ (m : BitVec 13) (x : MemObj) (s : State), findMemobj s m = some x → x.doomed = true →
      memobjReferred s x = false → exec (.memobjLastReference m) s
        = .next (resume (settleMemobjs (x.plots.foldl (fun t p => if plotReleasing t p then t else startRelease p [] t)
            { s with fau := { s.fau with
              regions := alter (fun g => x.regions.contains g.index) (fun g => { g with withdrawing := true })
                s.fau.regions } }))))

/-- Step boundaries and charts (R407, R418 to R426, R437): a STEP_BEGIN without a mark takes effect at its boundary, one
with a later mark waits for it; an export freezes its polder once it is drained, with the header, the records and the
length that its chart will carry, or ends with ST_TIMEOUT after 10 s; a frozen one is written, and the chart counts as
exported; of a polder that is fatal, both end ST_SQUASHED; an import restores what its chart carries, or ends with the
check that failed. Where the rules leave a choice, it is that of notes/assumptions/41.md and notes/assumptions/42.md. -/
def Obligations.ChartsComplete : Prop :=
  (∀ (c : CtxId) (x : Context) (h : StepHold) (s : State), findContext s c = some x → x.hold = some h →
      running s = true → isFatal s x.polder = false → h.atBoundary = false → atBoundary s c = true →
      let u := recordStepLate x h (modContext c (fun y => { y with hold := some { h with atBoundary := true } }) s)
      (h.mark = 0 → exec (.stepBeginBoundary c) s = .next (completeStep c u))
        ∧ (h.mark ≠ 0 → markUse h.mark u = .later → exec (.stepBeginBoundary c) s
          = .next (enqueueMark h.mark (.stepBegin x.polder c) u))
        ∧ (∀ st, h.mark ≠ 0 → markUse h.mark u = .refused st →
          exec (.stepBeginBoundary c) s = .next (endHold c st u)))
    ∧ (∀ (c : CtxId) (x : Context) (h : StepHold) (s : State), findContext s c = some x → x.hold = some h →
      running s = true → isFatal s x.polder = true →
      exec (.stepBeginBoundary c) s = .next (endHold c .squashed s))
    ∧ (∀ (p : PolderId) (e : Export) (q : Polder) (s : State), (s.charts.exports.find? fun e => e.polder = p) = some e →
      findPolder s p = some q → running s = true → e.frozen = none → s.time < e.start + 10000000000 →
      isFatal s p = false → exportWaits s p = false → serves s chartDomain = true →
      (∀ c ∈ polderContexts s q.id, c.step = e.step) → sealedLen s q ≤ e.len.toNat → drbgAvailable s = true →
      Completes (.chartFreeze p) s fun t => isFrozen t p = true ∧ ∀ x ∈ t.charts.exports, x.polder = p →
        ∃ f, x.frozen = some f ∧ f.datum = s.datum.value ∧ f.records = stateRecords s q ∧ f.plots = polderPlots s q
          ∧ f.len = sealedLen s q ∧ f.header = chartHeader s q e f.datum f.salt)
    ∧ (∀ (p : PolderId) (e : Export) (s : State), (s.charts.exports.find? fun e => e.polder = p) = some e →
      running s = true → e.frozen = none → e.start + 10000000000 ≤ s.time → exec (.chartExportTimeout p) s
        = .next (resume (endExport p (if isFatal s p then .squashed else .timeout) [] s)))
    ∧ (∀ (p : PolderId) (e : Export) (q : Polder) (s : State), (s.charts.exports.find? fun e => e.polder = p) = some e →
      findPolder s p = some q → running s = true → isFatal s p = true →
      (e.frozen = none → exec (.chartFreeze p) s = .next (resume (endExport p .squashed [] s)))
        ∧ (e.frozen ≠ none → exec (.chartWritten p) s = .next (resume (thawChart p (endExport p .squashed [] s)))))
    ∧ (∀ (p : PolderId) (e : Export) (q : Polder) (f : Frozen) (s u : State),
      (s.charts.exports.find? fun e => e.polder = p) = some e → findPolder s p = some q → e.frozen = some f →
      running s = true → isFatal s p = false → hungFor s 0x0800 none = false → serves s chartDomain = true →
      needKeys p (7 :: chartKinds s.boot.role) (markWork chartDomain s) = (.ready, u) →
      ∃ v w, exec (.chartWritten p) s = .next (resume (endExport p .ok (chartResult f.len f.plots) v)) ∧ w = deedRewraps p u
        ∧ v = modPolder p (fun x => { x with exported := x.exported ++ [e.chart] })
          (hostWrite e.fn e.addr (chartBytes w q e f) w))
    ∧ (∀ (p : PolderId) (chart : Bytes) (m : Import) (q : Polder) (s u : State),
      (s.charts.imports.find? fun m => m.polder = p) = some m → findPolder s p = some q → running s = true →
      hungFor s 0x0800 none = false → serves s chartDomain = true →
      needKeys p (7 :: chartKinds s.boot.role) (markWork chartDomain s) = (.ready, u) →
      let w := deedRewraps p u
      let c := readChart (polderKey w p 7) (chartKinds w.boot.role).length (padTo m.len.toNat chart)
      (importFail w q m c = none →
          exec (.chartImportComplete p chart) s = .next (resume (endImport p .ok (restoreChart q m c w))))
        ∧ (∀ st, importFail w q m c = some st →
          exec (.chartImportComplete p chart) s = .next (resume (endImport p st w))))

/-- Expiries and the Gauge (R341, R463, R465, R470, R487, R490, R492, R493): an offer of 10 s and a nonce of 60 s go; an
expired authorisation closes debug; with the last polder gone a life-cycle transition wipes the block, burns its code
and ends; the Gauge takes what its units have counted, captures every open entry at each 900 s, and signs the oldest
capture into its buffer. Where the rules leave a choice, it is that of notes/assumptions/38.md and
notes/assumptions/53.md. -/
def Obligations.ExpiriesAndGaugeComplete : Prop :=
  (∀ (sl : Sluice) (s : State), running s = true → Completes (.kemOfferExpiry sl) s fun t =>
      (∀ k, k ∈ t.spdm.offers ↔ k ∈ s.spdm.offers ∧ ¬(k.sluice = sl ∧ k.at_ + 10000000000 ≤ s.time))
        ∧ t.spdm.sessions = s.spdm.sessions)
    ∧ (∀ (n : Nonce) (s : State), running s = true → s.lc.nonce = some n → n.at_ + 60000000000 ≤ s.time →
      exec .nonceExpiry s = .next { s with lc := { s.lc with nonce := none } })
    ∧ (∀ (a : DebugAuth) (s : State), running s = true → s.lc.auth = some a → a.expiry ≤ s.time →
      Completes .authorisationExpiry s fun t =>
        t.lc = { s.lc with auth := none } ∧ t.out = s.out ++ [.debugClosed] ∧ t.fuses = s.fuses)
    ∧ (∀ (x : Transition) (s : State), running s = true → s.lc.transition = some x → s.polders = [] →
      Completes .lcTransitionComplete s fun t =>
        t.fuses.record = blowSlot x.code x.slot s.fuses.record ∧ (x.rootKill = true → t.fuses.root = BitVec.allOnes 256)
          ∧ (x.rootKill = false → t.fuses.root = s.fuses.root) ∧ t.lc.transition = none ∧ t.lc.intent = false
          ∧ t.cad.slots = [] ∧ t.link.tx = [] ∧ t.link.rx = [] ∧ t.tray.extents = [])
    ∧ (∀ (p : PolderId) (c : Fin 7) (e : GaugeEntry) (s : State), s.gauge.powered = true → gaugeEntry s p = some e →
      assocGet (p, c) 0 s.gauge.transit ≠ 0 → Completes (.gaugeIncrement p c) s fun t =>
        gaugeEntry t p = some { e with counters := addVolume c (assocGet (p, c) 0 s.gauge.transit) e.counters }
          ∧ t.gauge.transit = assocDel (p, c) s.gauge.transit ∧ t.gauge.spill = s.gauge.spill)
    ∧ (∀ s : State, s.gauge.powered = true → s.gauge.time ≠ 0 → s.gauge.time % 900000000000 = 0 →
      Completes .gaugePeriodicCapture s fun t =>
        (∀ e ∈ s.gauge.entries, e.closed = false → ∃ c ∈ t.gauge.periodics, c.polder = e.polder ∧ c.counters = e.counters
          ∧ c.gaugeTime = s.gauge.time)
        ∧ t.gauge.entries = s.gauge.entries ∧ t.gauge.finals.length = s.gauge.finals.length)
    ∧ (∀ (c : Capture) (s : State), s.gauge.powered = true → s.gauge.records.length < 1024 →
      (s.gauge.finals.find? fun c => !c.held) = some c → Completes .gaugeRecordSigned s fun t =>
        t.gauge.records = s.gauge.records ++ [(s.gauge.nextSeq, recordBytes c s)]
          ∧ t.gauge.nextSeq = s.gauge.nextSeq + 1 ∧ t.gauge.finals = s.gauge.finals.erase c)

/-! ### Descriptors -/

/-- The kinds of descriptor (R135, R239, R267, R373, R387 to R389, R407, R437): the oldest of its kind that no engine
has taken is begun; a remote operation goes to the FAU when its queue's turn has come (R406); a launch makes this
instance a participant, at its mark or at once; an arrival goes to the leaf; a STEP_BEGIN holds its context, or ends
ST_SQUASHED when its polder is fatal; a fence is raised or waited for; a bulk copy is performed in units of 64 KiB, a
queue's at its turn, and ends with its length, and a reset that waited for it goes on. Where the rules leave a choice,
it is that of notes/assumptions/40.md, notes/assumptions/43.md and notes/assumptions/76.md. -/
def Obligations.DescriptorsComplete : Prop :=
  (∀ (queue : BitVec 8) (d : Started) (s : State), nextOfKind s queue 1 = some d → running s = true →
      fauServes s = true →
      (engineTurn (fun q => (nextOfKind s q 1).isSome) s.obj.lastIssue queue s = true → exec (.remoteOp queue) s
          = .next (submitOp (descRemote d.data) (.desc queue d.index)
              (modObj (fun o => { o with lastIssue := queue }) (beginDescriptor queue d.index (atFau s)))))
        ∧ (engineTurn (fun q => (nextOfKind s q 1).isSome) s.obj.lastIssue queue s = false →
          exec (.remoteOp queue) s = .next s))
    ∧ (∀ (queue : BitVec 8) (d : Started) (q : Queue) (x : Context) (s : State), running s = true →
      s.coll.participants.length < 32 → nextOfKind s queue 2 = some d → findQueue s queue = some q →
      findContext s q.context = some x →
      let l := descLaunch d.data x.polder
      let u := beginDescriptor queue d.index ((collDomains s l.id false).foldl (fun t e => markWork e t) s)
      hungFor s (rmuUnit s l.id) (some x.id) = false → (∀ e ∈ collDomains s l.id false, serves s e = true) →
      (launchBad l u = true → exec (.collectiveLaunch queue) s = .next (endDescriptor queue d.index .badParam 0 0 u))
        ∧ (launchBad l u = false → ∀ st, markUse l.mark u = .refused st →
          exec (.collectiveLaunch queue) s = .next (endDescriptor queue d.index st 0 0 u))
        ∧ (launchBad l u = false → ∃ c : Participant, c.launch = l ∧ c.context = x.id ∧ c.queue = queue
          ∧ c.index = d.index ∧ c.fired = false ∧ c.sent = 0 ∧
          let v := modColl (fun y => { y with participants := y.participants ++ [c] }) u
          (markUse l.mark u = .later →
              exec (.collectiveLaunch queue) s = .next (enqueueMark l.mark (.launch l.polder l.id) v))
            ∧ (markUse l.mark u = .now →
              exec (.collectiveLaunch queue) s = .next (fireLaunch l.polder l.id (countLate l.mark v)))))
    ∧ (∀ (queue : BitVec 8) (d : Started) (q : Queue) (x : Context) (s : State), running s = true →
      s.bars.arrivals.length < 32 → nextOfKind s queue 3 = some d → findQueue s queue = some q →
      findContext s q.context = some x →
      let p := x.polder
      let id := BitVec.ofNat 32 (leField d.data 16 4)
      let u := beginDescriptor queue d.index ((collDomains s id true).foldl (fun t e => markWork e t) s)
      (∀ e ∈ collDomains s id true, serves s e = true) →
      (arrivalBad d.data x u = true → exec (.barrierArrive queue) s = .next (endDescriptor queue d.index .badParam 0 0 u))
        ∧ (arrivalBad d.data x u = false → ∃ a : Arrival, a.polder = p ∧ a.id = id ∧ a.context = x.id ∧ a.queue = queue
          ∧ a.index = d.index ∧ a.increment = BitVec.ofNat 32 (leField d.data 20 4) ∧ a.start = s.time
          ∧ ∀ (g : Group) (t : State),
            let v := modBars (fun b => { b with arrivals := b.arrivals ++ [a] }) u
            usableGroup v p a.group = some g →
            sendPacket (barrierPacket g id x.cls true (toInst (ownLeaf g v)) 0 0 .ok false (.barrier p id)) v = (none, t) →
            exec (.barrierArrive queue) s = .next t))
    ∧ (∀ (queue : BitVec 8) (d : Started) (q : Queue) (x : Context) (s : State), running s = true →
      nextOfKind s queue 4 = some d → findQueue s queue = some q → findContext s q.context = some x →
      isFatal s x.polder = true →
      exec (.stepBegin queue) s = .next (endDescriptor queue d.index .squashed 0 0 s))
    ∧ (∀ (queue : BitVec 8) (d : Started) (q : Queue) (x : Context) (s : State), running s = true →
      nextOfKind s queue 4 = some d → findQueue s queue = some q → findContext s q.context = some x → x.hold = none →
      isFatal s x.polder = false →
      let h : StepHold :=
        { queue := queue, index := d.index, step := BitVec.ofNat 64 (leField d.data 16 8),
          mark := BitVec.ofNat 64 (leField d.data 24 8), atBoundary := false, due := false }
      Completes (.stepBegin queue) s fun t => findContext t x.id = some { x with hold := some h })
    ∧ (∀ (queue : BitVec 8) (d : Started) (q : Queue) (f : FenceObj) (s : State), running s = true →
      nextOfKind s queue 5 = some d → findQueue s queue = some q → isOldest s queue d.index = true →
      descFence d.data q.context s = some f → f.value.toNat ≤ (BitVec.ofNat 64 (leField d.data 16 8)).toNat →
      exec (.fenceSignal queue) s
        = .next (raiseFence f.id (BitVec.ofNat 64 (leField d.data 16 8)) (endDescriptor queue d.index .ok 0 0 s)))
    ∧ (∀ (queue : BitVec 8) (d : Started) (q : Queue) (f : FenceObj) (s : State), running s = true →
      nextOfKind s queue 6 = some d → findQueue s queue = some q → descFence d.data q.context s = some f →
      let target := BitVec.ofNat 64 (leField d.data 16 8)
      (target.toNat ≤ f.value.toNat → exec (.fenceWait queue) s = .next (endDescriptor queue d.index .ok 0 0 s))
        ∧ (f.value.toNat < target.toNat → exec (.fenceWait queue) s = .next (modFence f.id (fun x =>
            { x with waits := x.waits ++ [{ queue := queue, index := d.index, target := target }] })
            (beginDescriptor queue d.index s))))
    ∧ (∀ (queue : BitVec 8) (d : Started) (q : Queue) (x : Context) (s v w : State), running s = true →
      nextCopy s queue = some d → findQueue s queue = some q → findContext s q.context = some x →
      isFrozen s x.polder = false → hungFor s 0x0900 (some x.id) = false →
      engineTurn (copyReady s) s.obj.lastCopy queue s = true →
      let src := leField d.data 8 5
      let dst := leField d.data 16 5
      let len := leField d.data 24 8
      let n := min 65536 (len - d.done)
      let u := modObj (fun o => { o with copiedAt := s.time }) (beginDescriptor queue d.index s)
      len ≠ 0 → copyBad src dst len = false → src + len ≤ 2 ^ 40 → dst + len ≤ 2 ^ 40 →
      localCheck (.copy queue d.index) x.id x.polder (src + d.done) n false u = (.ready, v) →
      localCheck (.copy queue d.index) x.id x.polder (dst + d.done) n true v = (.ready, w) →
      let c := profAdd queue n 0 (modObj (fun o => { o with lastCopy := queue })
        (copyRange x.polder (src + d.done) (dst + d.done) n w))
      exec (.bulkCopy queue) s = .next (settleReset x.id (resumeHeld
        (if d.done + n < len then modQueue queue (fun y => { y with
            started := alter (fun z => z.index = d.index) (fun z => { z with done := d.done + n }) y.started }) c
         else endDescriptor queue d.index .ok (BitVec.ofNat 64 len) 0 c))))
    ∧ (∀ (queue : BitVec 8) (s : State), engineTurn (copyReady s) s.obj.lastCopy queue s = false →
      exec (.bulkCopy queue) s = .next s)

/-! ### Registers and the mailbox -/

/-- Reads of registers (R475, R496, R497, R502, R515): a 64-bit read answers the register; the low half of one latches
its high half, which the next read of the high half takes; a counter register is read through the PF window; what the
side-band may not read now answers 1. A read of the Tracer through a function's window, while it serves no work, waits for it
and closes its switch (R42). Where the rules
leave a choice, it is that of notes/assumptions/55.md. -/
def Obligations.RegisterReadsComplete : Prop :=
  (∀ (off : BitVec 20) (v : BitVec 64) (s : State), s.pins.porN = true → sideHeld s off.toNat = false →
      off.toNat % 8 = 0 → shows s .sb off.toNat = true → reg64 s (windowFn .sb) off.toNat = some v →
      Completes (.regRead off true) s fun t => t.out = s.out ++ [.registerData 0 v] ∧ t.regs = s.regs)
    ∧ (∀ (off : BitVec 20) (wide : Bool) (s : State), s.pins.porN = true → sideHeld s off.toNat = true →
      exec (.regRead off wide) s = .next (emit (.registerData 1 0) s))
    ∧ (∀ (w : Window) (off : BitVec 20) (v : BitVec 64) (s : State), s.pins.porN = true → off.toNat % 8 = 0 →
      (w = .sb → sideHeld s off.toNat = false) → shows s w off.toNat = true →
      (w ≠ .sb → inTracer off.toNat = true → serves s tracerDomain = true) → reg64 s (windowFn w) off.toNat = some v →
      Completes (.lowHalfRead w off) s fun t =>
        t.out = s.out ++ [.registerData 0 ((v.extractLsb' 0 32).setWidth 64)]
          ∧ t.regs.latches.lookup (w, off) = some (v.extractLsb' 32 32))
    ∧ (∀ (w : Window) (off : BitVec 20) (s : State), s.pins.porN = true → w ≠ .sb → inTracer off.toNat = true →
      shows s w off.toNat = true → serves s tracerDomain = false → exec (.lowHalfRead w off) s
        = .next (wakeDomain tracerDomain { s with fns := { s.fns with
            regWork := s.fns.regWork ++ [.read w off.toNat false] } }))
    ∧ (∀ (w : Window) (off : BitVec 20) (v : BitVec 64) (x : BitVec 32) (s : State), s.pins.porN = true →
      off.toNat % 8 = 4 → (w = .sb → sideHeld s off.toNat = false) → inTracer off.toNat = false →
      shows s w off.toNat = true → reg64 s (windowFn w) (off.toNat - 4) = some v →
      s.regs.latches.lookup (w, BitVec.ofNat 20 (off.toNat - 4)) = some x → Completes (.lowHalfRead w off) s fun t =>
        t.out = s.out ++ [.registerData 0 (x.setWidth 64)]
          ∧ t.regs.latches.lookup (w, BitVec.ofNat 20 (off.toNat - 4)) = none)
    ∧ (∀ (i : BitVec 10) (s : State), s.pins.porN = true → shows s .pf (0x40000 + 8 * i.toNat) = true →
      (inTracer (0x40000 + 8 * i.toNat) = true → serves s tracerDomain = true) →
      Completes (.counterRegisterRead i true) s fun t =>
        t.out = s.out ++ [.registerData 0 (counterReading s i.toNat)])

/-- Writes of registers (R474, R496, R499, R504, R510): the configuration registers take a value in range and keep
theirs otherwise, and the SCA's is only role E's (R33); the side-band set is read-only; a mailbox takes its request's
bytes while its doorbell is clear; a profiling select is programmed and its set starts anew; a 64-bit write is that of
its two halves. Where the rules leave a choice, it is that of notes/assumptions/55.md. -/
def Obligations.RegisterWritesComplete : Prop :=
  (∀ (v : BitVec 64) (s : State), running s = true →
      Completes (.registerWrite .pf 0x100 false v) s fun t =>
        t.regs = { s.regs with gateDelayUs :=
          if 1 ≤ (v.extractLsb' 0 10).toNat ∧ (v.extractLsb' 0 10).toNat ≤ 1000 then (v.extractLsb' 0 10).toNat
          else s.regs.gateDelayUs })
    ∧ (∀ (v : BitVec 64) (s : State), running s = true →
      Completes (.registerWrite .pf 0x104 false v) s fun t =>
        t.regs = { s.regs with waitIdleUs :=
          if s.boot.role = .e ∧ 1 ≤ (v.extractLsb' 0 14).toNat ∧ (v.extractLsb' 0 14).toNat ≤ 10000
          then (v.extractLsb' 0 14).toNat else s.regs.waitIdleUs })
    ∧ (∀ (off : BitVec 20) (wide : Bool) (v : BitVec 64) (s : State),
      exec (.registerWrite .sb off wide v) s = .next s)
    ∧ (∀ (off : BitVec 20) (v : BitVec 64) (w : Window) (s : State), running s = true → w ≠ .sb →
      0x2000 ≤ off.toNat → off.toNat < 0x3000 → off.toNat % 4 = 0 → shows s w off.toNat = true →
      (getMailbox s (windowFn w)).ring = false → Mem.wf 0 (getMailbox s (windowFn w)).req = true →
      Completes (.registerWrite w off false v) s fun t =>
        ∀ i < 4, memRead 0 (getMailbox t (windowFn w)).req (off.toNat - 0x2000 + i)
          = (leBytes 4 (v.extractLsb' 0 32).toNat).getD i 0)
    ∧ (∀ (off : BitVec 20) (v : BitVec 64) (w : Window) (s : State), running s = true → w ≠ .sb → off.toNat % 8 = 0 →
      exec (.registerWrite w off true v) s = .next (write32 w (off.toNat + 4) (v.extractLsb' 32 32)
        (write32 w off.toNat (v.extractLsb' 0 32) s)))
    ∧ (∀ (i : BitVec 6) (v : BitVec 64) (s : State), running s = true → s.boot.role = .e →
      serves s tracerDomain = true → Completes (.profSelWrite i v) s fun t => ∃ p, (t.tracer.prof.find? fun y => y.index = i) = some p
        ∧ p.queue = v.extractLsb' 0 8 ∧ p.enable = v.getLsbD 8 ∧ p.scope = v.getLsbD 9 ∧ p.bytes = 0 ∧ p.ops = 0)

/-- The mailbox (R317, R353, R356, R357): a doorbell has its frame served, and while one is unanswered a second is
counted; a fetch returns a result that has come and releases it, sealed for a session's command, and one still pending
is answered so; a record that authenticates is handled in its session, whose count of records goes up, and one that does
not ends the session. Where the rules leave a choice, it is that of notes/assumptions/56.md. -/
def Obligations.MailboxCompletes : Prop :=
  (∀ (fn : FnId) (s : State), windowOpen s fn = true →
      ((getMailbox s fn).ring = false → exec (.mailboxDoorbell fn) s
          = .next (mailboxFrame fn (setMailbox { getMailbox s fn with ring := true } s)))
        ∧ ((getMailbox s fn).ring = true → exec (.mailboxDoorbell fn) s = .next (count 0x002 s)))
    ∧ (∀ (o : Origin) (tag : BitVec 32) (c : PendingCmd) (st : Status) (payload : Bytes) (s : State),
      sluiceOpen s o.sluice = true → frameCheck o.sluice s = none →
      (s.fns.pendings.find? fun c => c.origin.sluice = o.sluice && c.tag = tag) = some c → c.final = some (st, payload) →
      let u := { s with fns := { s.fns with
        pendings := s.fns.pendings.eraseP fun c => c.origin.sluice = o.sluice && c.tag = tag } }
      (c.origin.session = none → exec (.fetch o tag) s = .next (answerAs 3 3 c.origin tag 0 st payload u)
          ∧ .response c.origin tag 0 st payload ∈ (answerAs 3 3 c.origin tag 0 st payload u).out)
        ∧ (∀ x, sessionOf c.origin s = some x →
          exec (.fetch o tag) s = .next (answerAs 3 0 c.origin tag c.opcode st payload u)))
    ∧ (∀ (o : Origin) (tag : BitVec 32) (c : PendingCmd) (s : State), sluiceOpen s o.sluice = true →
      frameCheck o.sluice s = none →
      (s.fns.pendings.find? fun c => c.origin.sluice = o.sluice && c.tag = tag) = some c → c.final = none →
      exec (.fetch o tag) s = .next (refuseFrame o 3 tag .pending s)
        ∧ .response o tag 0 .pending [] ∈ (refuseFrame o 3 tag .pending s).out
        ∧ (refuseFrame o 3 tag .pending s).fns.pendings = s.fns.pendings)
    ∧ (∀ (o : Origin) (n : BitVec 32) (record : Bytes) (x : Session) (s : State), carriesSpdm s o.sluice = true →
      frameCheck o.sluice s = none → spdmClosed o.sluice s = none → o.session = some n →
      (s.spdm.sessions.find? fun x => x.id = n && x.sluice = o.sluice) = some x → x.rxSeq ≠ BitVec.allOnes 64 →
      record.length ≤ 65536 →
      let u := traceInline (recordJob x.id x.rxKey record.length) none s
      (∀ data, Config.spdmOpen x.rxKey x.rxSeq record = some data → exec (.securedMessage o record) s
          = .next (handleSpdm o.sluice (some x.id) (Config.spdmParse data) u))
        ∧ (Config.spdmOpen x.rxKey x.rxSeq record = none → exec (.securedMessage o record) s
            = .next (sendSpdm o.sluice none decryptError (dropSession n o.sluice u))
          ∧ ∀ y ∈ (dropSession n o.sluice u).spdm.sessions, ¬(y.id = n ∧ y.sluice = o.sluice)))
    ∧ (∀ (sl : Sluice) (n : BitVec 32) (r : SpdmRequest) (x : Session) (s : State),
      sessionOf { sluice := sl, session := some n } s = some x → x.rxSeq ≠ BitVec.allOnes 64 →
      isVendor r = false → (∀ h data, r ≠ .chunkSend h true data) → handleSpdm sl (some n) r s
        = vendorMessage sl n r (modSession x.id (fun y => { y with rxSeq := nextSeq y.rxSeq }) s))

/-! ### SPDM -/

/-- The connection and what is read without a session (R334, R337, R338, R340), on a sluice that carries SPDM once boot
is READY. A signed response is signed over the messages in the clear since GET_VERSION, the requester's nonce among them
(R338; notes/assumptions/77.md). The codes of messages are those of DSP0274 (PRESUMED, notes/assumptions/57). Where the
rules leave a choice, it is that of notes/assumptions/57.md and notes/assumptions/58.md. -/
def Obligations.SpdmConnectionCompletes : Prop :=
  ∀ (sl : Sluice) (s : State), carriesSpdm s sl = true → isReady s = true →
    (Completes (.getVersion sl) s fun t => .spdm sl 0x04 [0, 0, 0, 1, 0x00, 0x13] ∈ t.out ∧ sl ∉ t.spdm.negotiated)
      ∧ (Completes (.getCapabilities sl) s fun t =>
        .spdm sl 0x61 (zeros 6 ++ leBytes 4 spdmFlags ++ leBytes 4 1024 ++ leBytes 4 65536) ∈ t.out)
      ∧ (∀ request, Completes (.negotiateAlgorithms sl request) s fun t =>
        sl ∈ t.spdm.negotiated ↔ agrees request = true)
      ∧ (sl ∈ s.spdm.negotiated → Completes (.getDigests sl) s fun t =>
        .spdm sl 0x01 ([0x03, 0x03] ++ beBytes 48 (Config.sha384 (certificate s 0)).toNat
          ++ beBytes 48 (Config.sha384 (certificate s 1)).toNat) ∈ t.out)
      ∧ (∀ (slot : BitVec 8) (off len : Nat), sl ∈ s.spdm.negotiated → slot.toNat ≤ 1 →
        off ≤ (certificate s slot.toNat).length → len ≤ 512 → Completes (.getCertificate sl slot off len) s fun t =>
          let part := slice (certificate s slot.toNat) off len
          .spdm sl 0x02 ([slot, 0] ++ leBytes 2 part.length
            ++ leBytes 2 ((certificate s slot.toNat).length - off - part.length) ++ part) ∈ t.out)
      ∧ (∀ (slot : BitVec 8) (nonce : BitVec 256), sl ∈ s.spdm.negotiated → slot.toNat ≤ 1 → drbgAvailable s = true →
        Completes (.challenge sl slot nonce) s fun t => ∃ body,
          let h := Config.sha384 (transcriptOf s sl ++ Config.spdmEncode (.challenge slot nonce) ++ spdmBytes (0x03, body))
          .spdm sl 0x03 (body ++ beBytes 96 (Config.ecdsaSign s.boot.aliasSeed h).toNat) ∈ t.out
            ∧ t.spdm.lastSigned.lookup sl = some h)
      ∧ (∀ (index : BitVec 8) (signed : Bool) (nonce : BitVec 256) (l : List SurveyEntry), sl ∈ s.spdm.negotiated →
        index ≠ 0xFF → measured s index = some l → drbgAvailable s = true →
        Completes (.getMeasurements sl index signed nonce) s fun t => ∃ body,
          let h := Config.sha384 (transcriptOf s sl ++ Config.spdmEncode (.getMeasurements index signed nonce)
            ++ spdmBytes (0x60, body))
          (signed = false → .spdm sl 0x60 body ∈ t.out)
            ∧ (signed = true → .spdm sl 0x60 (body ++ beBytes 96 (Config.ecdsaSign s.boot.aliasSeed h).toNat) ∈ t.out
              ∧ t.spdm.lastSigned.lookup sl = some h))
      ∧ (∀ h, s.spdm.lastSigned.lookup sl = some h → exec (.pqSignature sl) s
        = .next (let x := noted sl none .pqSignature (fun s => (wrapped (Config.mldsaSign s.boot.aliasPqSeed h), s)) s
                 let c := chunkAnswer sl x.1 x.2
                 sendSpdm sl none c.1 c.2))
      ∧ (∀ code, Completes (.unsupportedRequest sl code) s fun t => .spdm sl 0x7F [0x07, code] ∈ t.out)
      ∧ (∀ (h : BitVec 8) (data : Bytes), data.length ≤ 1024 → Completes (.chunkSend sl h false data) s fun t =>
        chunksOf sl h t = chunksOf sl h s ++ data ∧ .spdm sl 0x05 [0, h] ∈ t.out)
      ∧ (∀ (h : BitVec 8) (seq : BitVec 16) (m : Bytes), s.spdm.chunksOut.lookup (sl, h) = some m →
        seq.toNat * 1024 + 1024 < m.length → exec (.chunkGet sl h seq) s
          = .next (let part := slice m (seq.toNat * 1024) 1024
                   let a := (0x06, [0, h] ++ leBytes 2 seq.toNat ++ zeros 2 ++ leBytes 4 part.length ++ part)
                   sendSpdm sl none a (noted sl none (.chunkGet h seq) (fun s => (a, s)) s).2))

/-- Key exchange and sessions (R317, R338, R339, R341, R342): an offer is kept for one exchange; an exchange that names
the pending offer makes a session; the right Finished value establishes it, once mutual authentication that was wanted
is done; a key update replaces the requester's key, or both, and its sequence starts anew; END_SESSION ends it. Where
the rules leave a choice, it is that of notes/assumptions/57.md and notes/assumptions/58.md. -/
def Obligations.SpdmSessionsComplete : Prop :=
  (∀ (sl : Sluice) (key : Bytes) (s : State), carriesSpdm s sl = true → isReady s = true → sl ∈ s.spdm.negotiated →
      key.length = 1568 → drbgAvailable s = true → Completes (.kemOffer sl key) s fun t =>
        ∃ k ∈ t.spdm.offers, k.sluice = sl ∧ k.hash = Config.sha384 key ∧ k.at_ = s.time)
    ∧ (∀ (sl : Sluice) (half : BitVec 16) (share : Bytes) (k : KemOffer) (m : Bool) (s : State),
      carriesSpdm s sl = true → isReady s = true → sl ∈ s.spdm.negotiated →
      (s.spdm.offers.find? fun k => k.sluice = sl) = some k → offerOver k s = false →
      (s.spdm.sessions.filter fun x => x.sluice = sl).length < sessionLimit sl → drbgAvailable s = true →
      Completes (.keyExchange sl half share k.hash m) s fun t =>
        (∀ y ∈ t.spdm.offers, y.sluice ≠ sl) ∧ ∃ x, t.spdm.sessions = s.spdm.sessions ++ [x] ∧ x.sluice = sl
          ∧ x.id = newSessionId half s ∧ x.stage = .handshake ∧ x.wantMutual = m ∧ x.rxSeq = 0 ∧ x.txSeq = 0)
    ∧ (∀ (sl : Sluice) (n : BitVec 32) (x : Session) (s : State), carriesSpdm s sl = true → isReady s = true →
      (s.spdm.sessions.find? fun x => x.id = n && x.sluice = sl) = some x → x.rxSeq ≠ BitVec.allOnes 64 →
      x.txSeq ≠ BitVec.allOnes 64 →
      (∀ verify, x.stage ≠ .established → (x.wantMutual = true → x.mutual_ = true) →
        verify = Config.spdmFinished x.rxKey x.transcript → Completes (.finish sl n verify) s fun t =>
          ∃ y ∈ t.spdm.sessions, y.id = n ∧ y.sluice = sl ∧ y.stage = .established ∧ y.rxSeq = 0)
        ∧ (x.stage = .established → Completes (.heartbeat sl n) s fun t => .spdm sl 0x68 (zeros 2) ∈ t.out)
        ∧ (∀ both, x.stage = .established → Completes (.keyUpdate sl n both) s fun t =>
          ∃ y ∈ t.spdm.sessions, y.id = n ∧ y.sluice = sl ∧ y.rxKey = Config.spdmUpdate x.rxKey ∧ y.rxSeq = 0
            ∧ y.txKey = if both then Config.spdmUpdate x.txKey else x.txKey)
        ∧ (Completes (.endSession sl n) s fun t => .spdm sl 0x6C (zeros 2) ∈ t.out
          ∧ ∀ y ∈ t.spdm.sessions, ¬(y.id = n ∧ y.sluice = sl))
        ∧ (x.wantMutual = true → x.stage ≠ .established → x.asked < 3 →
          Completes (.getEncapsulatedRequest sl n) s fun t =>
            ∃ y ∈ t.spdm.sessions, y.id = n ∧ y.sluice = sl ∧ y.stage = .encapsulated ∧ y.asked = x.asked + 1)
        ∧ (∀ chain sig, x.stage = .encapsulated → chain ≠ [] → sig ≠ [] →
          Config.chainSigned chain sig x.transcript = true →
          Completes (.deliverEncapsulatedResponse sl n chain sig) s fun t =>
            ∃ y ∈ t.spdm.sessions, y.id = n ∧ y.sluice = sl ∧ y.mutual_ = true
              ∧ y.identity = some (Config.chainLeaf chain) ∧ y.fabricKey = Config.chainEndsIn chain s.owner.fmKey))

/-! ### Warden commands -/

/-- The checks before a command's own (R317, R329, R343, R347, R350, R351, R379, R466): on the debug sluice a command that debug
does not admit is answered ST_LC_FORBIDS; after step 1 of a life-cycle transition, every command but LC_STATUS, IDENTITY_READ,
FAULT_READ and RESET of scope 4 is; a mailbox's command before READY ST_BUSY; a command that came in a session with no sequence
number left ST_EXHAUSTED; then a malformed POLDER_PROVISION ST_BAD_PARAM, and any other command not permitted on its sluice
ST_DENIED. Such an answer is all that happens. -/
def Obligations.WardenCommandsAreChecked : Prop :=
  ∀ (c : Instr) (ci : CmdInfo) (o : Origin) (tag : BitVec 32) (s : State),
    wardenRow c = some (ci, o, tag) → running s = true →
    (o.sluice = .dbg → debugAdmits ci.opcode s = false → exec c s = .next (refuse o tag ci.opcode .lcForbids s))
      ∧ (s.lc.frozen = true → ci.opcode ≠ 0x0C01 → ci.opcode ≠ 0x0F01 → ci.opcode ≠ 0x0E01 → resetsBlock c = false →
        exec c s = .next (refuse o tag ci.opcode .lcForbids s))
      ∧ ((o.sluice = .dbg → debugAdmits ci.opcode s = true) → s.lc.frozen = false →
        (o.sluice = .sb → s.boot.stage = .halted → servedHalted ci.opcode s = true) →
        (shutSluice o ci.opcode s = true → exec c s = .next (refuse o tag ci.opcode .busy s))
          ∧ (shutSluice o ci.opcode s = false →
            (sessionSpent o s = true → exec c s = .next (refuse o tag ci.opcode .exhausted s))
              ∧ (sessionSpent o s = false →
                (badProvision c = true → exec c s = .next (refuse o tag ci.opcode .badParam s))
                  ∧ (badProvision c = false → permitted ci o s = false →
                    exec c s = .next (refuse o tag ci.opcode .denied s)))))

/-- What turns a command away whatever its own operands (R355, R370, R379, R446), with no effect but the answer: an instance
not READY, but for IDENTITY_READ on the side-band, FAULT_READ there in RECOVERY and what HALTED leaves to it; an instance
out of service, but for the read-only commands, the side-band and debug; a sluice that holds all the commands it may, of which
one still counts whose notification waits for room; another role. A command
that ends later is answered pending and held (R355, R356); a session that has used its last sequence number seals no answer
and the answer is ST_EXHAUSTED (R317). Where the rules leave a choice, it is that of
notes/assumptions/61.md. -/
def Obligations.WardenCommandsAreTurnedAway : Prop :=
  (∀ (c : Instr) (ci : CmdInfo) (o : Origin) (tag : BitVec 32) (s : State),
    wardenRow c = some (ci, o, tag) → running s = true →
    (sessionSpent o s = false → badProvision c = false →
        (isReady s = false →
          ¬(o.sluice = .sb ∧ (ci.opcode = 0x0F01 ∨ (ci.opcode = 0x0E01 ∧ s.boot.stage = .recovery)
            ∨ (s.boot.stage = .halted ∧ servedHalted ci.opcode s = true))) →
          ∃ st ∈ [Status.lcForbids, .denied, .busy], exec c s = .next (refuse o tag ci.opcode st s))
        ∧ (s.sb.outOfService = true → o.sluice ≠ .sb → o.sluice ≠ .dbg → servedOutOfService ci.opcode = false →
          isReady s = true → ∃ st ∈ [Status.lcForbids, .denied], exec c s = .next (refuse o tag ci.opcode st s))
        ∧ (pendingLimit o.sluice ≤ (pendingOn o.sluice s).length + noticesWaiting o.sluice s →
          ∃ st ∈ [Status.lcForbids, .denied, .busy], exec c s = .next (refuse o tag ci.opcode st s)))
      ∧ (s.boot.role ∉ ci.roles →
        ∃ st, st ≠ .ok ∧ st ≠ .pending ∧ exec c s = .next (refuse o tag ci.opcode st s)))
    ∧ ∀ (o : Origin) (tag : BitVec 32) (opcode : BitVec 16) (s : State),
      (canSeal o s → .response o tag opcode .pending [] ∈ (pend o tag opcode s).out)
        ∧ (pend o tag opcode s).fns.pendings
          = s.fns.pendings ++ [{ origin := o, tag := tag, opcode := opcode, final := none }]
        ∧ ∀ (x : Session) (st : Status) (payload : Bytes), sessionOf o s = some x → x.txSeq = BitVec.allOnes 64 →
          .response o tag opcode .exhausted [] ∈ (reply o tag opcode st payload s).out
            ∧ (reply o tag opcode st payload s).spdm = s.spdm

/-- Polders and key slots (R16, R17, R292, R297, R302, R343 to R345, R383, R449, R547): a provisioning that passes
R343's checks defines the polder with no member, the lowest free handle LIVE and its deeds written, and answers the key-
check value; a membership change that is not for later admits the members, one for later waits for its mark; a teardown
is answered pending and begins; a list answers the polders in order; pinning a resident polder, and unpinning, is final,
and pinning another waits for its load; a slot's status answers the slot. Where the rules leave a choice, it is that of
notes/assumptions/16.md and notes/assumptions/17.md. -/
def Obligations.PoldersAndKeySlotsComplete : Prop :=
  ∀ (o : Origin) (tag : BitVec 32) (p : PolderId) (s : State),
    (∀ (conf : BitVec 8) (pmk : Key256), Passes (.polderProvision o tag p conf pmk) s → p ≠ 0 → p ≠ 0xFFFF →
        conf.toNat < 2 → provisionPlace o s = true → (conf = 1 → mutualSession o s = true) → findPolder s p = none →
        (freeIndex s).isSome = true → (freeHandle s).isSome = true → 64 ≤ freeEntries s → s.cad.ladder = true →
        (s.boot.role = .e → halvesEqual (workingKey pmk p (decide (conf = 1)) 3) = false) →
        Answers (.polderProvision o tag p conf pmk) s .ok (keyCheck pmk) fun t =>
          ∃ q, t.polders = s.polders ++ [q] ∧ q.id = p ∧ q.confidential = decide (conf = 1) ∧ q.members = 0
            ∧ q.bound = o.sluice ∧ freeHandle s = some q.handle ∧ (pvtEntry t q.handle).state = .live
            ∧ t.cad.deeds = s.cad.deeds ++ polderDeeds s p (decide (conf = 1)) pmk q.handle)
      ∧ (∀ (mark : Datum) (members : BitVec 8192), Passes (.polderMembership o tag p mark members) s →
        polderLive s p = true → members ≠ 0 →
        (markUse mark s = .later → Answers (.polderMembership o tag p mark members) s .ok [] fun t =>
            t.polders = s.polders
              ∧ t.datum.marks = s.datum.marks ++ [{ mark := mark, action := .membership p members }])
          ∧ (markUse mark s = .now → members.getLsbD s.boot.instanceId.toNat = true →
            Answers (.polderMembership o tag p mark members) s .ok [] fun t =>
              t.polders = alter (fun q => q.id = p) (fun q => { q with members := members }) s.polders))
      ∧ (∀ q, Passes (.polderTeardown o tag p) s → findPolder s p = some q → mayNamePolder o p s = true →
        exec (.polderTeardown o tag p) s = .next (beginTeardown p false [(o, tag)] (pend o tag 0x0103 s)))
      ∧ (Passes (.polderList o tag p) s →
        let l := listedPolders s p
        Answers (.polderList o tag p) s .ok (leBytes 2 l.length ++ zeros 2 ++ l.flatMap (listEntry s)) fun t =>
          t.polders = s.polders)
      ∧ (Passes (.keySlotPin o tag p) s → polderLive s p = true → mayNamePolder o p s = true → keyTrouble s p = none →
        pinnedCount s < slotCount s.boot.role - 8 →
        (isResident s p = true → Answers (.keySlotPin o tag p) s .ok [] fun t =>
            ∀ q, findPolder t p = some q → q.pinned = true)
          ∧ (isResident s p = false → noSlotAtAll s = false →
            exec (.keySlotPin o tag p) s = .next (waitForLoad p o tag (pend o tag 0x0201 (setPinned p true s)))))
      ∧ (∀ q, Passes (.keySlotUnpin o tag p) s → findPolder s p = some q → mayNamePolder o p s = true → q.pinned = true →
        q.teardown = none →
        exec (.keySlotUnpin o tag p) s = .next (resume (reply o tag 0x0202 .ok [] (setPinned p false s))))
      ∧ (∀ slot : BitVec 8, Passes (.keySlotStatus o tag slot) s → slot.toNat < slotCount s.boot.role →
        let k := getSlot s slot
        (isTenant o = true → k.state ≠ .free ∧ k.state ≠ .bad ∧ ∃ q, findPolder s k.polder = some q ∧ tenantOf o q s = true) →
        Answers (.keySlotStatus o tag slot) s .ok
          ([slotStateCode k.state, if k.pinned then 1 else 0, k.present, 0] ++ leBytes 2 k.polder.toNat ++ zeros 2)
          fun t => t.cad = s.cad)

/-- Memory objects and plots (R82, R97 to R101, R359, R371, R372, R383, R539): creation takes the lowest free number; an
assigned plot's entry names its polder and base, and a fill of it begins where one is wanted or its polder is
confidential; a release, and freeing a memory object, is answered pending and begins; a query answers the plot's entry.
Where the rules leave a choice, it is that of notes/assumptions/39.md. -/
def Obligations.PlotsComplete : Prop :=
  ∀ (o : Origin) (tag : BitVec 32) (s : State),
    (∀ (p : PolderId) (q : Polder) (n : Nat), Passes (.memobjCreate o tag p) s → findPolder s p = some q →
        q.teardown = none → mayNamePolder o p s = true →
        (leastBelow 8192 fun n => (findMemobj s (BitVec.ofNat 13 n)).isNone) = some n →
        Answers (.memobjCreate o tag p) s .ok (leBytes 2 n ++ zeros 2) fun t =>
          ∃ m, t.obj.memobjs = s.obj.memobjs ++ [m] ∧ m.id = BitVec.ofNat 13 n ∧ m.polder = p ∧ m.fn = ownerFn o
            ∧ m.plots = [] ∧ m.regions = [] ∧ m.doomed = false)
      ∧ (∀ (mo : BitVec 16) (m : MemObj), Passes (.memobjFree o tag mo) s → memobjOf mo s = some m →
        memobjDenied o mo true s = false → Answers (.memobjFree o tag mo) s .pending [] fun t =>
          t.obj.memobjs = alter (fun x => x.id = m.id)
            (fun x => { (if x.doomed then x else { x with
                doomed := true
                ahead := (s.obj.queues.filter fun q => unfetched q ≠ 0 && contextPolder s q.context = x.polder).map fun q =>
                  (q.id, unfetched q) }) with waiters := x.waiters ++ [(o, tag)] }) s.obj.memobjs)
      ∧ (∀ (mo plot : BitVec 16) (base : BitVec 24) (w z : Bool) (cls : BitVec 4) (m : MemObj) (q : Polder),
        Passes (.plotAssign o tag mo plot base w z cls) s → memobjOf mo s = some m → findPolder s m.polder = some q →
        memobjDenied o mo false s = false → m.doomed = false → q.teardown = none → plotValid (plotEntry s plot) = false →
        plotReserved (plotEntry s plot) = false → plot.toNat < s.chip.plots → baseTaken s q.slot base = false →
        m.plots.length < 4096 →
        exec (.plotAssign o tag mo plot base w z cls) s = .next (pumpFills q.id (reply o tag 0x0301 .ok []
          (assignPlot m q plot base w (z || q.confidential) cls s)))
          ∧ (z = false → q.confidential = false → ∃ t, assignPlot m q plot base w (z || q.confidential) cls s = t
            ∧ plotEntry t plot = mkPlot q.slot base w false ∧ t.stack.fills = s.stack.fills))
      ∧ (∀ plot : BitVec 16, Passes (.plotRelease o tag plot) s → plotValid (plotEntry s plot) = true →
        plotReserved (plotEntry s plot) = false → releaseDenied o plot s = false →
        exec (.plotRelease o tag plot) s = .next (resume (startRelease plot [(o, tag)] (pend o tag 0x0302 s))))
      ∧ (∀ plot : BitVec 16, Passes (.plotQuery o tag plot) s → plot.toNat < s.chip.plots →
        readDenied o (plotPolder s plot) s = false → Answers (.plotQuery o tag plot) s .ok
          (leBytes 8 (plotEntry s plot).toNat ++ leBytes 2 (match plotMemobj s plot with | some m => m.id.toNat | none => 0)
            ++ zeros 6) fun t => t.stack = s.stack)

/-- Contexts, queues, event rings and fences as commands make and end them (R364 to R369, R373, R374, R383, R391, R394):
a creation takes the lowest free number, answers it and starts the object as those rules say; a share adds the context;
a destruction is answered pending, or refused, and begins. Where the rules leave a choice, it is that of
notes/assumptions/39.md. -/
def Obligations.HostObjectsComplete : Prop :=
  ∀ (o : Origin) (tag : BitVec 32) (s : State),
    (∀ (p : PolderId) (cls : BitVec 8) (cores : BitVec 512) (q : Polder) (n : Nat),
        Passes (.contextCreate o tag p cls cores) s → findPolder s p = some q → (o.sluice = .pf → q.confidential = false) →
        q.teardown = none → mayNamePolder o p s = true → cls.toNat < 16 →
        (∀ i, cores.getLsbD i = true → i < s.chip.cores ∧ coreContext s (BitVec.ofNat 9 i) = none) →
        (∀ v, sluiceVf o.sluice = some v → (getVf s v).allot1.getLsbD cls.toNat = true
          ∧ (s.obj.contexts.filter fun c => c.fn = fnOf v).length < ((getVf s v).allot0.extractLsb' 0 13).toNat) →
        (leastBelow 4096 fun n => (findContext s (BitVec.ofNat 12 n)).isNone) = some n →
        Answers (.contextCreate o tag p cls cores) s .ok (leBytes 2 n ++ zeros 2) fun t =>
          ∃ c, t.obj.contexts = s.obj.contexts ++ [c] ∧ c.id = BitVec.ofNat 12 n ∧ c.state = .bound ∧ c.fn = ownerFn o
            ∧ c.polder = p ∧ c.cls = cls.setWidth 4 ∧ c.cores = cores ∧ c.step = 0
            ∧ ∀ x ∈ t.sca.counters, cores.getLsbD x.1.1.toNat = false)
      ∧ (∀ (c : BitVec 16) (x : Context), Passes (.contextDestroy o tag c) s → c.toNat < 4096 →
        findContext s (c.setWidth 12) = some x → mayName o x.fn x.polder true s = true →
        exec (.contextDestroy o tag c) s = .next (beginDestroy (c.setWidth 12) [(o, tag)] (pend o tag 0x0402 s)))
      ∧ (∀ (c ring depth : BitVec 16) (addr : BitVec 64) (x : Context) (r : EventRing) (n : Nat),
        Passes (.queueCreate o tag c ring depth addr) s → c.toNat < 4096 → findContext s (c.setWidth 12) = some x →
        contextLive c s = true → mayName o x.fn x.polder false s = true → powerWithin 16 4096 depth.toNat = true →
        addr.toNat % 4096 = 0 → ring.toNat < 512 → findRing s (ownerFn o) (ring.setWidth 9) = some r → r.waiters = [] →
        (∀ v, sluiceVf o.sluice = some v → (s.obj.queues.filter fun q => q.fn = fnOf v).length
          < ((getVf s v).allot0.extractLsb' 13 9).toNat) →
        (leastBelow 256 fun n => (findQueue s (BitVec.ofNat 8 n)).isNone) = some n →
        Answers (.queueCreate o tag c ring depth addr) s .ok ([BitVec.ofNat 8 n] ++ zeros 3) fun t =>
          ∃ q, t.obj.queues = s.obj.queues ++ [q] ∧ q.id = BitVec.ofNat 8 n ∧ q.context = c.setWidth 12
            ∧ q.state = (if x.state = .stopped then .halted else .active) ∧ q.fn = ownerFn o ∧ q.addr = addr
            ∧ q.depth = depth.toNat ∧ q.ring = ring.setWidth 9 ∧ q.head = 0 ∧ q.tail = 0 ∧ q.started = [])
      ∧ (∀ (q : BitVec 8) (x : Queue), Passes (.queueDestroy o tag q) s → findQueue s q = some x →
        mayName o x.fn (contextPolder s x.context) true s = true →
        exec (.queueDestroy o tag q) s = .next (settleQueue q (squashQueue q (modQueue q
          (fun y => { y with state := .destroying, waiters := y.waiters ++ [(o, tag)] }) (pend o tag 0x0404 s)))))
      ∧ (∀ (size : BitVec 32) (vector : BitVec 16) (addr : BitVec 64) (n : Nat),
        Passes (.eventRingCreate o tag size vector addr) s → powerWithin 64 65536 size.toNat = true →
        vector.toNat < 2048 → addr.toNat % 4096 = 0 → s.obj.rings.length < ringLimit s.boot.role →
        (∀ v, sluiceVf o.sluice = some v → (s.obj.rings.filter fun r => r.fn = fnOf v).length
          < ((getVf s v).allot0.extractLsb' 22 10).toNat) → 0 < n →
        (leastBelow (ringLimit s.boot.role) fun n => (findRing s (ownerFn o) (BitVec.ofNat 9 n)).isNone) = some n →
        n < 512 →
        Answers (.eventRingCreate o tag size vector addr) s .ok (leBytes 2 n ++ zeros 2) fun t =>
          ∃ r, t.obj.rings = s.obj.rings ++ [r] ∧ r.fn = ownerFn o ∧ r.id = BitVec.ofNat 9 n ∧ r.addr = addr
            ∧ r.size = size.toNat ∧ r.vector = vector ∧ r.head = 0 ∧ r.tail = 0 ∧ r.phase = true ∧ r.dropped = 0)
      ∧ (∀ (size : BitVec 32) (vector : BitVec 16) (addr : BitVec 64),
        Passes (.eventRingCreate o tag size vector addr) s → powerWithin 64 65536 size.toNat = true →
        vector.toNat < 2048 → addr.toNat % 4096 = 0 → s.obj.rings.length < ringLimit s.boot.role →
        (∀ v, sluiceVf o.sluice = some v → (s.obj.rings.filter fun r => r.fn = fnOf v).length
          < ((getVf s v).allot0.extractLsb' 22 10).toNat) → findRing s (ownerFn o) 0 = none →
        ∃ u, exec (.eventRingCreate o tag size vector addr) s = .next (releaseEarly (ownerFn o) u)
          ∧ .response o tag 0x0405 .ok (zeros 4) ∈ u.out
          ∧ ∃ r, u.obj.rings = s.obj.rings ++ [r] ∧ r.fn = ownerFn o ∧ r.id = 0 ∧ r.size = size.toNat)
      ∧ (∀ (ring : BitVec 16) (r : EventRing), Passes (.eventRingDestroy o tag ring) s → ring ≠ 0 → ring.toNat < 512 →
        findRing s (ownerFn o) (ring.setWidth 9) = some r →
        (∀ q ∈ s.obj.queues, q.fn = ownerFn o → q.ring ≠ ring.setWidth 9) →
        exec (.eventRingDestroy o tag ring) s = .next (settleRing (ownerFn o) r.id (modRing (ownerFn o) r.id
          (fun x => { x with waiters := x.waiters ++ [(o, tag)] }) (pend o tag 0x0406 s))))
      ∧ (∀ (c : BitVec 16) (x : Context) (n : Nat), Passes (.fenceCreate o tag c) s → c.toNat < 4096 →
        findContext s (c.setWidth 12) = some x → contextLive c s = true → mayName o x.fn x.polder false s = true →
        (∀ v, sluiceVf o.sluice = some v → (s.obj.fences.filter fun f => f.fn = fnOf v).length
          < ((getVf s v).allot1.extractLsb' 16 15).toNat) →
        (leastBelow 16384 fun n => (findFence s (BitVec.ofNat 14 n)).isNone) = some n →
        Answers (.fenceCreate o tag c) s .ok (leBytes 2 n ++ zeros 2) fun t =>
          ∃ f, t.obj.fences = s.obj.fences ++ [f] ∧ f.id = BitVec.ofNat 14 n ∧ f.owner = c.setWidth 12
            ∧ f.fn = ownerFn o ∧ f.value = 0 ∧ f.shares = [] ∧ f.waits = [])
      ∧ (∀ (fence c : BitVec 16) (f : FenceObj) (x : Context), Passes (.fenceShare o tag fence c) s →
        fenceOf fence s = some f → findContext s (c.setWidth 12) = some x → contextLive c s = true →
        mayName o f.fn (contextPolder s f.owner) false s = true →
        mayName o x.fn x.polder false s = true → x.fn = f.fn →
        (isConfidential s (contextPolder s f.owner) = true → x.polder = contextPolder s f.owner) →
        Answers (.fenceShare o tag fence c) s .ok [] fun t => ∀ y, findFence t f.id = some y → fenceNamedBy y x.id = true)
      ∧ (∀ (fence : BitVec 16) (f : FenceObj), Passes (.fenceDestroy o tag fence) s → fenceOf fence s = some f →
        mayName o f.fn (contextPolder s f.owner) true s = true →
        exec (.fenceDestroy o tag fence) s
          = .next (finish o tag .ok [] (abandonFence f.id (pend o tag 0x0409 s))))

/-- Regions and rings as commands make and end them (R137 to R142, R185, R186, R195, R383, R385, R540): an export under
a multicast key takes that key, and one under a drawn key the lowest free index and a check value from 1 on; a
withdrawal is answered pending and shuts the region; a query answers the entry; a ring is created, active at once unless
its mark is for later; a member declared dead is answered; a destruction is answered pending and begins, or waits for
its mark. Where the rules leave a choice, it is that of notes/assumptions/48.md and notes/assumptions/49.md. -/
def Obligations.RegionsAndRingsComplete : Prop :=
  ∀ (o : Origin) (tag : BitVec 32) (s : State),
    (∀ (mo : BitVec 16) (perms : BitVec 8) (key : BitVec 32) (length : BitVec 64) (first : BitVec 32) (core : BitVec 16)
        (base count : BitVec 8) (plots : List (BitVec 16)) (m : MemObj) (q : Polder),
        Passes (.regionExport o tag mo 0 perms key length first core base count plots) s → memobjOf mo s = some m →
        findPolder s m.polder = some q → memobjDenied o mo false s = false → m.doomed = false → q.teardown = none →
        perms.toNat < 32 → first.toNat < 16777216 → (o.session = none → plots.length ≤ 2024) →
        memoryRegionBad s q length first plots = false →
        m.regions.length < 256 →
        (perms.getLsbD 4 = true → key.toNat % 262144 ≠ 0 → findRegion s (keyIndex key) = none →
          Answers (.regionExport o tag mo 0 perms key length first core base count plots) s .ok (leBytes 4 key.toNat)
            fun t => ∃ g, t.fau.regions = s.fau.regions ++ [g] ∧ g.index = keyIndex key ∧ g.key = key
              ∧ g.withdrawing = false ∧ g.signalKind = false ∧ g.polder = q.id ∧ g.polderSlot = q.slot
              ∧ g.perms = perms.setWidth 5 ∧ g.length = length ∧ g.firstOffset = first.setWidth 24
              ∧ g.rttCount = plots.length ∧ g.memobj = some m.id
              ∧ freeRtt s plots.length = some g.rttBase
              ∧ t.fau.rtt = s.fau.rtt ++ (List.range plots.length).map fun i => (g.rttBase + i, plots.getD i 0))
          ∧ (perms.getLsbD 4 = false → key = 0 → drbgAvailable s = true → ∀ i, freeRegion s = some i →
            ∃ k : BitVec 32, k.toNat / 262144 = i ∧ k.toNat % 262144 ≠ 0 ∧
              Answers (.regionExport o tag mo 0 perms key length first core base count plots) s .ok (leBytes 4 k.toNat)
                fun t => ∃ g, t.fau.regions = s.fau.regions ++ [g] ∧ g.index = i ∧ g.key = k ∧ g.polder = q.id))
      ∧ (∀ (mo : BitVec 16) (perms : BitVec 8) (key : BitVec 32) (length : BitVec 64) (first : BitVec 32)
        (core : BitVec 16) (base count : BitVec 8) (m : MemObj) (q : Polder),
        Passes (.regionExport o tag mo 1 perms key length first core base count []) s → memobjOf mo s = some m →
        findPolder s m.polder = some q → memobjDenied o mo false s = false → m.doomed = false → q.teardown = none →
        perms.toNat < 32 → first.toNat < 16777216 → signalRegionBad s q length core base count [] = false →
        m.regions.length < 256 → perms.getLsbD 4 = true → key.toNat % 262144 ≠ 0 → findRegion s (keyIndex key) = none →
        Answers (.regionExport o tag mo 1 perms key length first core base count []) s .ok (leBytes 4 key.toNat)
          fun t => ∃ g, t.fau.regions = s.fau.regions ++ [g] ∧ g.key = key ∧ g.signalKind = true
            ∧ g.core = core.setWidth 9 ∧ g.counterBase = base.setWidth 6 ∧ g.counterCnt = count.setWidth 6
            ∧ t.fau.rtt = s.fau.rtt)
      ∧ (∀ (key : BitVec 32) (g : Region), Passes (.regionWithdraw o tag key) s → regionByKey s key = some g →
        withdrawDenied o key s = false → Answers (.regionWithdraw o tag key) s .pending [] fun t =>
          t.fau.regions = alter (fun x => x.index = keyIndex key)
            (fun x => { x with withdrawing := true, waiters := x.waiters ++ [(o, tag)] }) s.fau.regions)
      ∧ (∀ index : BitVec 16, Passes (.regionQuery o tag index) s → index.toNat < 16384 →
        readDenied o ((findRegion s index.toNat).bind fun g => findPolder s g.polder) s = false →
        Answers (.regionQuery o tag index) s .ok
          (match findRegion s index.toNat with | some g => regionBytes g | none => zeros 32) fun t => t.fau = s.fau)
      ∧ (∀ (ring : BitVec 16) (p : PolderId) (members : List InstId) (own : BitVec 8) (home : List (BitVec 16))
        (mark : Datum), Passes (.ringCreate o tag ring p members own home mark) s →
        ringBad s ring p members own home = false → s.rings.rings.length < 16 →
        (markUse mark s = .now ∨ markUse mark s = .later) →
        Answers (.ringCreate o tag ring p members own home mark) s .ok [] fun t =>
          ∃ r, t.rings.rings = s.rings.rings ++ [r] ∧ r.id = ring.setWidth 12 ∧ r.polder = p ∧ r.members = members
            ∧ r.own = own.setWidth 3 ∧ r.home = home ∧ r.active = decide (markUse mark s = .now) ∧ r.heartbeat = 0
            ∧ (∀ x ∈ r.peers, x.dead = false) ∧ r.destroying = none)
      ∧ (∀ (ring inst : BitVec 16) (x : Ring × BitVec 3), Passes (.ringMemberDead o tag ring inst) s →
        namedMember ring inst s = some x →
        exec (.ringMemberDead o tag ring inst) s = .next (reply o tag 0x0705 .ok [] (resume (declareDead x.1 x.2 s))))
      ∧ (∀ (ring : BitVec 16) (mark : Datum) (r : Ring), Passes (.ringDestroy o tag ring mark) s →
        ringNamed ring s = some r → ringEnding r s = false →
        (markUse mark s = .later → Answers (.ringDestroy o tag ring mark) s .pending [] fun t => t.rings = s.rings
          ∧ t.datum.marks = s.datum.marks ++ [{ mark := mark, action := .ringDestroy r.polder r.id o tag }])
          ∧ (markUse mark s = .now → exec (.ringDestroy o tag ring mark) s
            = .next (resume (beginRingDestroy r.id o tag (countLate mark (pend o tag 0x0706 s))))))

/-- Groups as commands make and end them (R61, R235 to R237, R383): a descriptor that R236 and R237 admit defines a
group, usable at once unless its mark is for later; a destruction is answered pending, and waits while the group is
busy; a query answers its digest, sizes and this instance's places; joining a multicast group records its members, and
leaving removes the join and its receive streams. Where the rules leave a choice, it is that of notes/assumptions/34.md.
-/
def Obligations.GroupsComplete : Prop :=
  ∀ (o : Origin) (tag : BitVec 32) (s : State),
    (∀ (mark : Datum) (desc : Bytes), Passes (.collectiveGroupDefine o tag mark desc) s → 1088 ≤ desc.length →
        groupCountsOk desc = true →
        desc.length = groupLength (leField desc 4 2) (leField desc 6 2) (leField desc 10 1) →
        groupReservedClear desc (leField desc 4 2) (leField desc 6 2) (leField desc 10 1) = true →
        groupTreeOk desc (parseGroup desc) = true → polderStands s (parseGroup desc).polder = true →
        findGroup s (parseGroup desc).polder (parseGroup desc).id = none → s.coll.groups.length < 1024 →
        (markUse mark s = .now ∨ markUse mark s = .later) →
        Answers (.collectiveGroupDefine o tag mark desc) s .ok [] fun t =>
          findGroup t (parseGroup desc).polder (parseGroup desc).id
            = some { parseGroup desc with usable := decide (markUse mark s = .now) })
      ∧ (∀ (p : PolderId) (id : BitVec 16) (g : Group), Passes (.collectiveGroupDestroy o tag p id) s →
        findGroup s p id = some g →
        exec (.collectiveGroupDestroy o tag p id) s = .next (settleGroups (modGroup p id
          (fun g => { g with destroy := g.destroy ++ [(o, tag)] }) (pend o tag 0x0702 s))))
      ∧ (∀ (p : PolderId) (id : BitVec 16) (g : Group), Passes (.groupQuery o tag p id) s →
        mayNamePolder o p s = true → isTearing s p = false → findGroup s p id = some g → g.destroy = [] →
        Answers (.groupQuery o tag p id) s .ok (leBytes 8 g.digest.toNat ++ leBytes 2 g.ranks.length
          ++ leBytes 2 g.nodes.length ++ ownPlace (ownRank g s) ++ ownPlace (ownNode g s)) fun t => t.coll = s.coll)
      ∧ (∀ (p : PolderId) (group : InstId) (members : BitVec 8192), Passes (.mcastGroupJoin o tag p group members) s →
        (∀ j ∈ s.link.joins, j.group = group → j.polder = p) → members.getLsbD s.boot.instanceId.toNat = true →
        polderStands s p = true → s.link.joins.length < 1024 →
        Answers (.mcastGroupJoin o tag p group members) s .ok [] fun t =>
          (t.link.joins.find? fun j => j.group = group) = some { group := group, polder := p, mask := members })
      ∧ (∀ (p : PolderId) (group : InstId), Passes (.mcastGroupLeave o tag p group) s → isTearing s p = false →
        joined s group p = true →
        Answers (.mcastGroupLeave o tag p group) s .ok [] fun t => (∀ j ∈ t.link.joins, j.group ≠ group)
          ∧ ∀ r ∈ t.link.rx, ¬(r.polder = p ∧ r.group = some group))

/-- Extents as the Warden's commands see them (R123, R125, R130, R198 to R203, R359, R383, R384): a grant takes the
lowest free ID and location and is answered pending; a renewal or handover in its lease sets the expiry a lease length
from now, a handover the holder too; a revocation of a LEASED extent shuts it and waits, one of a REVOKED extent ends at
once, and a lease that has expired leaves its record; a rekey takes a location and waits; a hint and the rebuild rate
are set; the statuses answer what the tables hold. Where the rules leave a choice, it is that of notes/assumptions/25.md
and notes/assumptions/26.md. -/
def Obligations.ExtentCommandsComplete : Prop :=
  ∀ (o : Origin) (tag : BitVec 32) (s : State),
    (∀ (p : PolderId) (holder lease : BitVec 16) (perms : BitVec 8) (id : BitVec 13) (l : Nat),
        Passes (.extentGrant o tag p holder lease perms) s → mayNamePolder o p s = true → perms.toNat < 32 →
        polderStands s p = true → leaseOk lease = true → grantId s = some id → freeLocation s = some l →
        drbgAvailable s = true →
        exec (.extentGrant o tag p holder lease perms) s = .next (beginGrant o tag p holder lease perms id l s))
      ∧ (∀ (id holder lease : BitVec 16) (e : Extent), namedExtent s id = some e → extentDenied o id s = false →
        leaseOk lease = true → e.state = .leased → s.datum.value.toNat < e.expiry.toNat →
        (Passes (.extentRenew o tag id holder lease) s → e.holder = holder →
          Answers (.extentRenew o tag id holder lease) s .ok [] fun t =>
            findExtent t e.id = some { e with expiry := leaseEnd s lease })
          ∧ (∀ taker : BitVec 16, Passes (.extentHandover o tag id holder taker lease) s →
            (o.sluice ≠ .fm → e.holder = holder) →
            Answers (.extentHandover o tag id holder taker lease) s .ok [] fun t =>
              findExtent t e.id = some { e with expiry := leaseEnd s lease, holder := taker }))
      ∧ (∀ (id : BitVec 16) (e : Extent), Passes (.extentRevoke o tag id) s → namedExtent s id = some e →
        extentDenied o id s = false →
        (e.state = .leased → Answers (.extentRevoke o tag id) s .pending [] fun t =>
            findExtent t e.id = some { e with state := .revoking, revoking := e.revoking ++ [(o, tag)] }
              ∧ t.tracer.nextSeq = if e.expiry.toNat ≤ s.datum.value.toNat then s.tracer.nextSeq + 1 else s.tracer.nextSeq)
          ∧ (e.state = .revoking → Answers (.extentRevoke o tag id) s .pending [] fun t =>
            findExtent t e.id = some { e with revoking := e.revoking ++ [(o, tag)] })
          ∧ (e.state = .revoked → exec (.extentRevoke o tag id) s = .next (finish o tag .ok [] (pend o tag 0x0604 s))))
      ∧ (∀ (id : BitVec 16) (e : Extent) (l : Nat), Passes (.extentRekey o tag id) s → namedExtent s id = some e →
        extentDenied o id s = false → e.state = .leased → s.datum.value.toNat < e.expiry.toNat → e.rekey = none →
        freeLocation s = some l → drbgAvailable s = true →
        exec (.extentRekey o tag id) s = .next (extentKeyStep e.id (pend o tag 0x0605 (modExtent e.id
          (fun x => { x with rekey := some { location := l, nonce := (drbgValue s).setWidth 64, key := none,
                                             copying := false, waiters := [(o, tag)] } })
          (drbgDraw 8 (setLoc l .initialising s))))))
      ∧ (∀ (id : BitVec 16) (hint : BitVec 8) (e : Extent), Passes (.extentHint o tag id hint) s →
        namedExtent s id = some e → extentDenied o id s = false → e.state ≠ .granting → hint.toNat ≤ 2 →
        Answers (.extentHint o tag id hint) s .ok [] fun t => findExtent t e.id = some { e with hint := hint.setWidth 2 })
      ∧ (∀ percent : BitVec 8, Passes (.trayRebuildRate o tag percent) s → 1 ≤ percent.toNat → percent.toNat ≤ 50 →
        Answers (.trayRebuildRate o tag percent) s .ok [] fun t => t.tray = { s.tray with rebuildRate := percent.toNat })
      ∧ (∀ id : BitVec 16, Passes (.extentStatus o tag id) s → id.toNat < 8192 → extentUnread o id s = false →
        Answers (.extentStatus o tag id) s .ok (extentRecord (namedExtent s id)) fun t => t.tray = s.tray)
      ∧ (Passes (.trayStatus o tag) s →
        Answers (.trayStatus o tag) s .ok ((List.range 8).flatMap (groupRecord s)
          ++ leBytes 2 ((List.range 5898).filter fun l => locState s l = .free).length
          ++ [BitVec.ofNat 8 s.tray.spares.length, 0]) fun t => t.tray = s.tray)

/-- The Datum's configuration and what the Warden reads of it, of counters and of steps (R257, R278, R279, R282, R286,
R287, R360, R383, R471, R472, R474, R475, R535, R536): with no mark queued, a root is LOCKED with no upstream, an
instance without an upstream is FREE_RUNNING, and one with an upstream keeps its state; a reading of counters clears the
latches it returned; the other readings change nothing, and one of a polder in teardown is refused. Where the rules
leave a choice, it is that of notes/assumptions/32.md and notes/assumptions/51.md. -/
def Obligations.DatumAndCountersComplete : Prop :=
  ∀ (o : Origin) (tag : BitVec 32) (s : State),
    (∀ root port : BitVec 8, Passes (.datumConfig o tag root port) s → s.datum.marks = [] →
        (root = 1 → Answers (.datumConfig o tag root port) s .ok [] fun t =>
            t.datum.root = true ∧ t.datum.hasUpstream = false ∧ t.datum.state = .locked ∧ t.datum.slew = 0)
          ∧ (root = 0 → port = 0xFF → Answers (.datumConfig o tag root port) s .ok [] fun t =>
            t.datum.root = false ∧ t.datum.hasUpstream = false ∧ t.datum.state = .freeRunning ∧ t.datum.slew = 0)
          ∧ (root = 0 → port ≠ 0xFF → port.toNat < fabricPorts s.boot.role →
            Answers (.datumConfig o tag root port) s .ok [] fun t => t.datum.root = false ∧ t.datum.hasUpstream = true
              ∧ t.datum.upstream = port ∧ t.datum.state = s.datum.state ∧ t.datum.value = s.datum.value))
      ∧ (Passes (.datumStatus o tag) s → Answers (.datumStatus o tag) s .ok
        (leBytes 8 s.datum.value.toNat ++ [BitVec.ofNat 8 (datumCode s.datum.state)] ++ zeros 3
          ++ leBytes 4 s.datum.offset.toNat ++ leBytes 4 s.datum.delay.toNat) fun t => t.datum = s.datum)
      ∧ (Passes (.markQueueStatus o tag) s → Answers (.markQueueStatus o tag) s .ok
        (leBytes 2 s.datum.marks.length ++ zeros 2 ++ leBytes 8 (earliestValue s)) fun t => t.datum = s.datum)
      ∧ (∀ (core : BitVec 16) (q : Polder), Passes (.syncCounterRead o tag core) s → corePolder s core = some q →
        readDenied o (some q) s = false → (o.sluice = .pf → q.confidential = false) →
        Answers (.syncCounterRead o tag core) s .ok
          ((List.range 48).flatMap fun i => leBytes 4 (syncValue s (core.setWidth 9) (BitVec.ofNat 6 i)).toNat)
          fun t => t.sca = s.sca)
      ∧ (∀ (c : BitVec 16) (x : Context), Passes (.contextStepRead o tag c) s → c.toNat < 4096 →
        findContext s (c.setWidth 12) = some x → x.state ≠ .destroying → contextDenied o c s = false →
        Answers (.contextStepRead o tag c) s .ok
          (leBytes 8 x.step.toNat ++ [if atBoundary s x.id then 1 else 0] ++ zeros 7) fun t => t.obj = s.obj)
      ∧ (∀ first n : BitVec 16, Passes (.counterRead o tag first n) s → n ≠ 0 → n.toNat ≤ 510 →
        first.toNat + n.toNat ≤ 1024 →
        Answers (.counterRead o tag first n) s .ok
          ((List.range n.toNat).flatMap fun i => leBytes 8 (counterReading s (first.toNat + i)).toNat) fun t =>
            t.tracer.still = { s.tracer.still with resetSeen := t.tracer.resetSeen }
              ∧ ∀ i, i ∈ t.tracer.resetSeen ↔ i ∈ s.tracer.resetSeen ∧ ¬(first.toNat ≤ i ∧ i < first.toNat + n.toNat))
      ∧ (∀ (p : PolderId) (sid peer : BitVec 16) (dir : BitVec 8) (x : BitVec 32 × BitVec 32 × List (BitVec 32)),
        Passes (.streamCountersRead o tag p sid peer dir) s → isTearing s p = false → streamReading s p sid peer dir = some x →
        readDenied o (findPolder s p) s = false → Answers (.streamCountersRead o tag p sid peer dir) s .ok
          (leBytes 4 x.1.toNat ++ leBytes 4 x.2.1.toNat
            ++ padTo 32 (if isConfidential s p then [] else x.2.2.flatMap fun v => leBytes 4 v.toNat))
          fun t => t.link = s.link)
      ∧ (∀ (p : PolderId) (q : Polder), Passes (.polderCountersRead o tag p) s → findPolder s p = some q →
        readDenied o (some q) s = false →
        (q.teardown = none → Answers (.polderCountersRead o tag p) s .ok (polderReading q) fun t => t.polders = s.polders)
          ∧ (q.teardown ≠ none → Answers (.polderCountersRead o tag p) s .badParam [] fun t => t.polders = s.polders))

/-- Weirs (R410 to R412, R506): a report sets the level and the capacity, and from level 12 until 8 only guarantees are
admitted; a class that was backlogged and got less than 98 % of its minimum has missed its guarantee, counted once; the
mirror copies scale, level and misses. Weirs and the trace (R377, R408 to R412, R476, R477, R479): minima of at most
1,000 each and 900 in sum are set; more than 900 in sum are refused; a status answers rating, scale and misses; a trace
ring that the pool can hold is set, and a ring of another size starts empty; a fetch of what the ring still holds
answers the events of the range. Where the rules leave a choice, it is that of notes/assumptions/50.md and
notes/assumptions/52.md. -/
def Obligations.WeirsAndTraceComplete : Prop :=
  ((∀ (w : BitVec 8) (level : BitVec 4) (capacity : Nat) (s : State), running s = true → hasWeir s w = true →
       Completes (.queueLevelReport w level capacity) s fun t =>
         (getWeir t w).level = level ∧ (getWeir t w).capacity = min 1000 capacity
           ∧ (12 ≤ level.toNat → (getWeir t w).limited = true) ∧ (level.toNat ≤ 8 → (getWeir t w).limited = false)
           ∧ (8 < level.toNat → level.toNat < 12 → (getWeir t w).limited = (getWeir s w).limited)
           ∧ (getWeir t w).misses = (getWeir s w).misses)
     ∧ (∀ (w : BitVec 8) (s : State), running s = true → hasWeir s w = true → exec (.weirInterval w 0 []) s = .next s)
     ∧ (∀ (w : BitVec 8) (c : Nat) (got : List Nat) (s : State), running s = true → hasWeir s w = true → c < 16 →
       got.getD c 0 * 100 < 98 * configuredBytes s w c →
       exec (.weirInterval w (BitVec.ofNat 16 (2 ^ c)) got) s = .next (missGuarantee w c (got.getD c 0) s)
         ∧ (getWeir (missGuarantee w c (got.getD c 0) s) w).misses = (getWeir s w).misses.modify c satInc)
     ∧ (∀ (w : BitVec 8) (s : State), running s = true → hasWeir s w = true → Completes (.weirStatusMirror w) s fun t =>
       getWeir t w = { getWeir s w with
         mirrorScale := weirScale s w, mirrorLevel := (getWeir s w).level, mirrored := (getWeir s w).misses }))
    ∧ (∀ (o : Origin) (tag : BitVec 32) (s : State),
     (∀ (w : BitVec 8) (minima : List (BitVec 16)), Passes (.weirConfig o tag w minima) s → hasWeir s w = true →
         minima.length = 16 → (∀ m ∈ minima, m.toNat ≤ 1000) →
         ((minima.map BitVec.toNat).sum ≤ 900 → Answers (.weirConfig o tag w minima) s .ok [] fun t =>
             (getWeir t w).minima = minima.map BitVec.toNat)
           ∧ (900 < (minima.map BitVec.toNat).sum →
             exec (.weirConfig o tag w minima) s = .next (refuse o tag 0x0A01 .oversubscribed s)))
       ∧ (∀ w : BitVec 8, Passes (.weirStatus o tag w) s → hasWeir s w = true →
         Answers (.weirStatus o tag w) s .ok (leBytes 4 (weirRating s.boot.role w) ++ leBytes 2 (weirScale s w) ++ zeros 2
           ++ padTo 64 ((getWeir s w).misses.flatMap fun v => leBytes 4 v.toNat)) fun t => t.weirs = s.weirs)
       ∧ (∀ (size : BitVec 16) (enable : BitVec 8) (mask : BitVec 64), Passes (.traceConfig o tag size enable mask) s →
         size ≠ 0 → size.toNat ≤ 256 → enable.toNat ≤ 1 → mask.toNat < 512 →
         (enable = 1 → mask.getLsbD 0 = true) → traceFits s size.toNat = true →
         Answers (.traceConfig o tag size enable mask) s .ok [] fun t => t.tracer.sizeMib = size.toNat
           ∧ t.tracer.enabled = decide (enable = 1) ∧ t.tracer.mask = mask
           ∧ (sessionOf o s = none → size.toNat ≠ s.tracer.sizeMib → t.tracer.head = 0 ∧ t.tracer.ring = [])
           ∧ (sessionOf o s = none → size.toNat = s.tracer.sizeMib →
               t.tracer.head = s.tracer.head ∧ t.tracer.ring = s.tracer.ring))
       ∧ (∀ (offset : BitVec 64) (length : BitVec 16), Passes (.traceFetch o tag offset length) s →
         offset.toNat % 32 = 0 → length.toNat % 32 = 0 → length ≠ 0 → length.toNat ≤ 4072 →
         s.tracer.head ≤ offset.toNat + ringBytes s →
         Answers (.traceFetch o tag offset length) s .ok (leBytes 4 (wrapCount s) ++ zeros 4
           ++ (s.tracer.ring.filter fun e => offset.toNat ≤ e.position && e.position < offset.toNat + length.toNat).flatMap
             traceBytes) fun t => t.tracer.still = s.tracer.still))
/-- Charts as commands begin and end them (R418, R419, R423, R426, R427, R437, R456): an export or an import that passes
its checks is answered pending and takes 256 granules of the pool, an export of a fatal polder ST_SQUASHED; a resumption
now ends the polder's hold, one for a later mark waits for it; discarding an imported chart undoes it, and discarding an
exported one has no other effect. Where the rules leave a choice, it is that of notes/assumptions/41.md and
notes/assumptions/42.md. -/
def Obligations.ChartCommandsComplete : Prop :=
  ∀ (o : Origin) (tag : BitVec 32) (p : PolderId) (q : Polder) (s : State), findPolder s p = some q → q.teardown = none →
    mayNamePolder o p s = true →
    (∀ (chart : BitVec 32) (step addr len : BitVec 64), Passes (.chartExport o tag p chart step addr len) s → len ≠ 0 →
        q.fatal = true → Answers (.chartExport o tag p chart step addr len) s .squashed [] fun t => t.charts = s.charts)
      ∧ (∀ (chart : BitVec 32) (step addr len : BitVec 64), Passes (.chartExport o tag p chart step addr len) s → len ≠ 0 →
        q.fatal = false → (∀ r ∈ s.rings.rings, r.polder ≠ p) → 256 ≤ poolFree s → chartBusy s p = false → chart ∉ q.exported →
        Answers (.chartExport o tag p chart step addr len) s .pending [] fun t =>
          (∃ e, t.charts.exports = s.charts.exports ++ [e] ∧ e.polder = p ∧ e.chart = chart ∧ e.step = step
            ∧ e.addr = addr ∧ e.len = len ∧ e.frozen = none ∧ e.fn = ownerFn o)
            ∧ assocGet (.chart p) 0 t.pool = assocGet (.chart p) 0 s.pool + 256)
      ∧ (∀ (mo : BitVec 16) (chart : BitVec 32) (addr len : BitVec 64), Passes (.chartImport o tag p mo chart addr len) s →
        len ≠ 0 → s.boot.role ≠ .t → chartBusy s p = false → 256 ≤ poolFree s →
        notFresh s p mo = false → memobjDenied o mo false s = false →
        Answers (.chartImport o tag p mo chart addr len) s .pending [] fun t =>
          (∃ m, t.charts.imports = s.charts.imports ++ [m] ∧ m.polder = p ∧ m.memobj = mo.setWidth 13 ∧ m.chart = chart
            ∧ m.addr = addr ∧ m.len = len)
            ∧ assocGet (.chart p) 0 t.pool = assocGet (.chart p) 0 s.pool + 256)
      ∧ (∀ (chart : BitVec 32) (mark : Datum), Passes (.chartResume o tag p chart mark) s → heldChart q = some chart →
        chartBusy s p = false →
        (markUse mark s = .later → Answers (.chartResume o tag p chart mark) s .ok [] fun t =>
            t.polders = s.polders ∧ t.datum.marks = s.datum.marks ++ [{ mark := mark, action := .chartResume p chart }])
          ∧ (markUse mark s = .now → exec (.chartResume o tag p chart mark) s
            = .next (resumePolder p (countLate mark (reply o tag 0x0903 .ok [] s)))))
      ∧ (∀ chart : BitVec 32, Passes (.chartDiscard o tag p chart) s → chartBusy s p = false →
        (q.freeze = .imported chart → exec (.chartDiscard o tag p chart) s
            = .next (finish o tag .ok [] (undoImport q (pend o tag 0x0904 s))))
          ∧ (chart ∈ q.exported → q.freeze ≠ .imported chart → exec (.chartDiscard o tag p chart) s
            = .next (finish o tag .ok [] (pend o tag 0x0904 s))))

/-- The life cycle as commands change it (R458, R462 to R466, R469, R470, R524): a status answers the code, the state and
whether debug is open; a challenge draws a nonce for one target; a permitted transition that needs no signature, or one
that is rightly signed, is answered pending, and from then on the instance is frozen with its intent blown; a wrong
response is answered ST_DENIED and consumes the nonce; a right authorisation opens debug to its scope until its time,
but in FIELD only where the owner's debug fuse is set; closing ends it. Where the rules leave a choice, it is that of
notes/assumptions/53.md. -/
def Obligations.LifeCycleCommandsComplete : Prop :=
  ∀ (o : Origin) (tag : BitVec 32) (s : State),
    (Passes (.lcStatus o tag) s → Answers (.lcStatus o tag) s .ok
        (leBytes 2 s.lc.code.toNat ++ [BitVec.ofNat 8 (lcNumber s.lc.state), (if s.lc.intent then 1 else 0),
          (if debugOpen s then 1 else 0)] ++ zeros 3) fun t => t.lc = s.lc)
      ∧ (∀ target : BitVec 8, Passes (.lcChallenge o tag target) s → challengeTarget target = true →
        drbgAvailable s = true → ∃ v : Digest, Answers (.lcChallenge o tag target) s .ok (beBytes 48 v.toNat) fun t =>
          t.lc = { s.lc with nonce := some { target := target, value := v, at_ := s.time } })
      ∧ (∀ (target : BitVec 8) (goal : LcState) (response : Bytes), Passes (.lcTransition o tag target response) s →
        lcTarget target = some goal → transitionPermitted goal s = true → ¬(s.lc.state = .field ∧ goal = .analysis ∧ o.sluice = .dbg) →
        (s.lc.state = .blank → response = [] →
          exec (.lcTransition o tag target response) s = .next (startTransition goal o tag s))
          ∧ (∀ n, s.lc.state ≠ .blank → responseShape response = true → nonceFor target s = some n →
            (responseOk (ownerSigns goal s) n (beBytes 2 (lcCodeFor goal).toNat) response s = true →
              exec (.lcTransition o tag target response) s = .next (startTransition goal o tag s))
            ∧ (responseOk (ownerSigns goal s) n (beBytes 2 (lcCodeFor goal).toNat) response s = false →
              Answers (.lcTransition o tag target response) s .denied [] fun t => t.lc = { s.lc with nonce := none }
                ∧ t.fuses = s.fuses)))
      ∧ (∀ authorisation : Bytes, Passes (.debugAuthorise o tag authorisation) s → authorisationShape authorisation = true →
        (activeOwner s.fuses).isSome = true → confidentialResident s = false →
        (s.lc.state = .field → s.fuses.debugPolicy.getLsbD 0 = true) → ∀ n, nonceFor 0x10 s = some n →
        responseOk true n (beBytes 4 (leField authorisation 0 4) ++ beBytes 4 (leField authorisation 4 4))
          (authorisation.drop 8) s = true →
        Answers (.debugAuthorise o tag authorisation) s .ok [] fun t =>
          t.lc = { s.lc with nonce := none, auth := some { scope := BitVec.ofNat 32 (leField authorisation 0 4),
                                                           expiry := s.time + leField authorisation 4 4 * 1000000000 } })
      ∧ (∀ authorisation : Bytes, Passes (.debugAuthorise o tag authorisation) s → authorisationShape authorisation = true →
        s.lc.state = .field → s.fuses.debugPolicy.getLsbD 0 = false →
        Answers (.debugAuthorise o tag authorisation) s .denied [] fun t => t.lc = s.lc)
      ∧ (Passes (.debugClose o tag) s → Answers (.debugClose o tag) s .ok [] fun t =>
        t.lc = { s.lc with auth := none } ∧ (s.lc.auth.isSome = true → .debugClosed ∈ t.out))

/-- What the Warden answers of the Gauge, the survey and the identity, and firmware (R326, R335, R383, R386, R485, R486,
R489, R494, R503): none of the readings changes the Gauge or the boot state; releasing records removes those up to a
number; staging writes the staged image; an activation of a staged image that passes the boot's checks, of the length it
says, is answered pending and begins the rewrite; committing a security version blows the counter's fuses up to it.
Where the rules leave a choice, it is that of notes/assumptions/13.md and notes/assumptions/38.md. -/
def Obligations.GaugeSurveyAndFirmwareComplete : Prop :=
  ∀ (o : Origin) (tag : BitVec 32) (s : State),
    (Passes (.gaugeIdentity o tag) s → Answers (.gaugeIdentity o tag) s .ok
        (leBytes 4 Config.gaugeRomVersion.toNat ++ zeros 4 ++ gaugePublic s) fun t => t.gauge = s.gauge)
      ∧ (∀ (p : PolderId) (l : List (BitVec 64)), Passes (.gaugeCountersRead o tag p) s → isTearing s p = false → gaugeUnread o p s = false →
        gaugeCounters p s = some l → Answers (.gaugeCountersRead o tag p) s .ok
          (l.flatMap fun v => leBytes 8 v.toNat) fun t => t.gauge = s.gauge)
      ∧ (∀ (first : BitVec 32) (max : BitVec 8), Passes (.gaugeRecordFetch o tag first max) s → max ≠ 0 →
        let hits := (s.gauge.records.filter fun x => decide (first.toNat ≤ x.1.toNat) && recordRead o x.2 s).take
          (min 15 max.toNat)
        Answers (.gaugeRecordFetch o tag first max) s .ok
          ([BitVec.ofNat 8 hits.length] ++ zeros 7 ++ hits.flatMap (·.2)) fun t => t.gauge = s.gauge)
      ∧ (∀ through : BitVec 32, Passes (.gaugeRecordRelease o tag through) s →
        Answers (.gaugeRecordRelease o tag through) s .ok [] fun t => ∀ x, x ∈ t.gauge.records ↔
          x ∈ s.gauge.records ∧ through.toNat < x.1.toNat)
      ∧ (Passes (.identityRead o tag) s → Answers (.identityRead o tag) s .ok (identityBytes s) fun t => t.boot = s.boot)
      ∧ (∀ first n : BitVec 8, Passes (.surveyRead o tag first n) s → n ≠ 0 → n.toNat ≤ 63 → first.toNat + n.toNat ≤ 256 →
        Answers (.surveyRead o tag first n) s .ok
          ((List.range n.toNat).flatMap fun i => surveyBytes s (first.toNat + i)) fun t => t.boot = s.boot)
      ∧ (∀ (offset : BitVec 32) (data : Bytes), Passes (.firmwareStage o tag offset data) s → data ≠ [] →
        offset.toNat + data.length ≤ 394240 → (o.session = none → data.length ≤ 4072) → s.boot.rewrite = none →
        Answers (.firmwareStage o tag offset data) s .ok [] fun t =>
          t.boot.staged = memWriteN 0xFF s.boot.staged offset.toNat data
            ∧ t.boot.stagedLength = max s.boot.stagedLength (offset.toNat + data.length))
      ∧ (∀ length : BitVec 32, Passes (.firmwareActivate o tag length) s → s.boot.rewrite = none →
        (imageFail (stagedImage s) s = none → length.toNat = 1024 + bodyLength (stagedImage s).header →
          Answers (.firmwareActivate o tag length) s .pending [] fun t =>
            t.boot.rewrite = some { image := stagedImage s, recovery := false, origin := o, tag := tag })
          ∧ (∀ reason, imageFail (stagedImage s) s = some reason → exec (.firmwareActivate o tag length) s
            = .next (finish o tag .badParam ([reason] ++ zeros 3) (pend o tag 0x0F04 s))))
      ∧ (∀ n : BitVec 32, Passes (.firmwareCommitSvn o tag n) s → n.toNat ≤ s.boot.svn.toNat →
        Answers (.firmwareCommitSvn o tag n) s .ok [] fun t =>
          (n.toNat ≤ svnCounter s.fuses → t.fuses = s.fuses)
            ∧ (svnCounter s.fuses < n.toNat → ∀ i : Nat, i < 64 →
              t.fuses.svn.getLsbD i = (s.fuses.svn.getLsbD i || decide (i < n.toNat))))

/-- Fault records, resets by command and observation of failures (R348, R430 to R436, R438, R440, R444, R449, R450,
R455, R383): FAULT_READ answers the records from a number on that the reader may see; each scope of RESET begins what
its rule says; the fabric manager turns floodwatch on and off; a crash dump and a straggler entry are answered. Where
the rules leave a choice, it is that of notes/assumptions/43.md and notes/assumptions/45.md and notes/assumptions/47.md.
-/
def Obligations.FaultsAndResetsComplete : Prop :=
  ∀ (o : Origin) (tag : BitVec 32) (s : State),
    (∀ (first : BitVec 32) (n : BitVec 16), Passes (.faultRead o tag first n) s → n ≠ 0 → n.toNat ≤ 63 →
        let held := if o.sluice = .sb then s.sb.faultCopy else s.tracer.faults
        let mine := (held.filter fun r => first.toNat ≤ r.seq.toNat && mayReadRecord o s r).take n.toNat
        Answers (.faultRead o tag first n) s .ok (leBytes 8 s.tracer.overwritten.toNat ++ leBytes 2 mine.length ++ zeros 6
          ++ mine.flatMap fun r => faultBytes (shownRecord o s r)) fun t => t.tracer.faults = s.tracer.faults)
      ∧ (∀ unit : BitVec 16, Passes (.resetEngine o tag unit) s → watched s unit = true →
        (findHang s unit = none →
          exec (.resetEngine o tag unit) s = .next (beginHang unit false [(o, tag)] (pend o tag 0x0E02 s)))
          ∧ (∀ h, findHang s unit = some h → exec (.resetEngine o tag unit) s
            = .next (resetEngine unit (modTracer (fun t => { t with
                hangs := alter (fun h => h.unit = unit)
                  (fun h => { h with waiters := h.waiters ++ [(o, tag)] }) t.hangs }) (pend o tag 0x0E02 s)))))
      ∧ (∀ (c : BitVec 16) (x : Context), Passes (.resetContext o tag c) s → c.toNat < 4096 →
        findContext s (c.setWidth 12) = some x → contextLive c s = true →
        mayName o x.fn x.polder (o.sluice = .sb) s = true →
        let u := endFences x.id (squashWork x.id (pend o tag 0x0E02 s))
        (copyRuns u x.id = false →
          exec (.resetContext o tag c) s = .next (finish o tag .ok [] (restoreContext x.id (pend o tag 0x0E02 s))))
          ∧ (copyRuns u x.id = true → exec (.resetContext o tag c) s
            = .next (modContext x.id (fun y => { y with resetting := y.resetting ++ [(o, tag)] }) u)))
      ∧ (∀ (p : PolderId) (q : Polder), Passes (.resetPolder o tag p) s → findPolder s p = some q →
        mayNamePolder o p s = true →
        exec (.resetPolder o tag p) s = .next (beginTeardown p false [(o, tag)] (pend o tag 0x0E02 s)))
      ∧ (∀ vf : BitVec 16, Passes (.resetVf o tag vf) s → s.boot.role = .e → vf.toNat < s.chip.vfs → vf.toNat < 64 →
        exec (.resetVf o tag vf) s = .next (startFnReset (vf.setWidth 6) [(o, tag)] (pend o tag 0x0E02 s)))
      ∧ (Passes (.resetBlock o tag) s → exec (.resetBlock o tag) s = .next (blockReset 6 (pend o tag 0x0E02 s)))
      ∧ (∀ enable : BitVec 8, Passes (.floodwatchConfig o tag enable) s → enable.toNat ≤ 1 →
        Answers (.floodwatchConfig o tag enable) s .ok [] fun t =>
          t.tracer.still = { s.tracer.still with floodwatch := decide (enable = 1) })
      ∧ (∀ (unit : BitVec 16) (offset : BitVec 32) (len : BitVec 16), Passes (.crashDumpRead o tag unit offset len) s →
        (sampleUnit unit = true ∨ unitExists s unit = true) → len ≠ 0 → len.toNat ≤ 4072 →
        let a := dumpAnswer s unit offset.toNat len.toNat
        Answers (.crashDumpRead o tag unit offset len) s .ok ([a.1] ++ zeros 7 ++ a.2) fun t => t.tracer.still = s.tracer.still)
      ∧ (∀ (p : PolderId) (inst : BitVec 16) (x : Straggler), Passes (.stragglerRead o tag p inst) s → isTearing s p = false →
        stragglerOf s p inst = some x → Answers (.stragglerRead o tag p inst) s .ok
          (if isConfidential s p && o.sluice = .pf then zeros 16
           else leBytes 8 x.lastStep.toNat ++ leBytes 4 x.late.toNat ++ leBytes 4 x.worst.toNat)
          fun t => t.tracer.still = s.tracer.still)

/-! ### Rules stated whole -/

/-- R276: the Datum is a 64-bit count of nanoseconds, and after block reset, from the pin or from inside, it is 0 and
FREE_RUNNING. -/
def Obligations.TheDatumAfterBlockReset : Prop :=
  (∀ s : State, s.pins.porN = true → s.pins.blockRstN = true → s.datum.slew = 0 → s.datum.rate = 0 →
        s.datum.phase < 15625000 →
      (tick s).datum.value = s.datum.value + 1 ∧ (tick s).time = s.time + 1)
    ∧ (∀ s : State, s.pins.blockRstN = true → Completes .blockResetAssert s fun t =>
      t.datum.value = (0 : BitVec 64) ∧ t.datum.state = .freeRunning)
    ∧ ∀ (cause : BitVec 4) (s : State), (blockReset cause s).datum.value = 0
      ∧ (blockReset cause s).datum.state = .freeRunning

/-- R447: SERVICE_RELEASE on the side-band sluice, of an instance out of service (R383), clears the count of R445 and the
out-of-service state, and resets the block with cause 7. -/
def Obligations.ServiceReleaseResets : Prop :=
  ∀ (tag : BitVec 32) (s : State), Passes (.serviceRelease { sluice := .sb, session := none } tag) s →
    (s.sb.outOfService = true → Answers (.serviceRelease { sluice := .sb, session := none } tag) s .ok [] fun t =>
        t.sb.events = [] ∧ t.sb.outOfService = false ∧ t.sb.leaving = false ∧ t.sb.cause = 7 ∧ t.polders = [] ∧ t.cad = Cadastre.reset
          ∧ t.boot.stage = if s.boot.strapInvalid then .halted else .romStart)
      ∧ (s.sb.outOfService = false → exec (.serviceRelease { sluice := .sb, session := none } tag) s
        = .next (refuse { sluice := .sb, session := none } tag 0x0E03 .badParam s))

/-- R453: Floodwatch is off after block reset, and FLOODWATCH_CONFIG, on the fabric manager's sluice and on no other, turns it
on or off for the instance. -/
def Obligations.FloodwatchIsConfigured : Prop :=
  (∀ s : State, s.pins.blockRstN = true → Completes .blockResetAssert s fun t => t.tracer.floodwatch = false)
    ∧ (∀ (cause : BitVec 4) (s : State), (blockReset cause s).tracer.floodwatch = false)
    ∧ (∀ (o : Origin) (tag : BitVec 32) (s : State), Passes (.floodwatchConfig o tag 1) s →
      Answers (.floodwatchConfig o tag 1) s .ok [] fun t => t.tracer.floodwatch = true)
    ∧ (∀ (o : Origin) (tag : BitVec 32) (s : State), Passes (.floodwatchConfig o tag 0) s →
      Answers (.floodwatchConfig o tag 0) s .ok [] fun t => t.tracer.floodwatch = false)
    ∧ ∀ (o : Origin) (tag : BitVec 32) (enable : BitVec 8) (s t : State), o.sluice ≠ .fm →
      exec (.floodwatchConfig o tag enable) s = .next t → t.tracer.floodwatch = s.tracer.floodwatch
end

