-- ==== Sys2Proof/Laws/Memory.lean ====
section
/-! SUPPORT. The laws of sparse memories: a read after a write, and that every operation keeps the canonical form. -/

namespace Sys2Proof.Machine

/-- Every listed address lies above a bound. -/
def Mem.above (a : Nat) (m : Mem) : Prop := ∀ c ∈ m, a < c.1

theorem Mem.wf_nil (d : Byte) : Mem.wf d [] = true := rfl

theorem Mem.wf_cons (d : Byte) (a : Nat) (b : Byte) (t : Mem) :
    Mem.wf d ((a, b) :: t) = true ↔ b ≠ d ∧ Mem.above a t ∧ Mem.wf d t = true := by
  simp [Mem.wf, Mem.above, and_assoc]

theorem Mem.above_write {d : Byte} {x a : Nat} {b : Byte} {m : Mem} (hm : Mem.above x m) (h : x < a) :
    Mem.above x (memWrite d m a b) := by
  induction m with
  | nil =>
    unfold memWrite
    split <;> simp_all [Mem.above]
  | cons c t ih =>
    obtain ⟨y, z⟩ := c
    have hy : x < y := hm (y, z) (by simp)
    have ht : Mem.above x t := fun c hc => hm c (by simp [hc])
    unfold memWrite
    split
    · split
      · exact hm
      · intro c hc
        rcases List.mem_cons.1 hc with rfl | hc
        · exact h
        · exact hm c hc
    · split
      · split
        · exact ht
        · intro c hc
          rcases List.mem_cons.1 hc with rfl | hc
          · exact h
          · exact ht c hc
      · intro c hc
        rcases List.mem_cons.1 hc with rfl | hc
        · exact hy
        · exact ih ht c hc

/-- A write keeps the canonical form. -/
theorem memWrite_wf {d : Byte} {m : Mem} (h : Mem.wf d m = true) (a : Nat) (b : Byte) :
    Mem.wf d (memWrite d m a b) = true := by
  induction m with
  | nil =>
    unfold memWrite
    split <;> simp_all [Mem.wf]
  | cons c t ih =>
    obtain ⟨x, y⟩ := c
    obtain ⟨hy, ha, ht⟩ := (Mem.wf_cons d x y t).1 h
    unfold memWrite
    split
    · split
      · exact h
      · refine (Mem.wf_cons ..).2 ⟨by assumption, ?_, h⟩
        intro c hc
        rcases List.mem_cons.1 hc with rfl | hc
        · assumption
        · have := ha c hc
          omega
    · split
      · split
        · exact ht
        · rename_i h1 h2 h3
          subst h2
          exact (Mem.wf_cons ..).2 ⟨h3, ha, ht⟩
      · exact (Mem.wf_cons ..).2 ⟨hy, Mem.above_write ha (by omega), ih ht⟩

/-- Writing a run of bytes keeps the canonical form. -/
theorem memWriteN_wf {d : Byte} {m : Mem} (h : Mem.wf d m = true) (a : Nat) (b : Bytes) :
    Mem.wf d (memWriteN d m a b) = true := by
  induction b generalizing m a with
  | nil => exact h
  | cons x t ih => exact ih (memWrite_wf h a x) (a + 1)

/-- Filling a range keeps the canonical form. -/
theorem memFill_wf {d : Byte} {m : Mem} (h : Mem.wf d m = true) (a : Nat) (f : Nat → Byte) (n : Nat) :
    Mem.wf d (memFill d m a f n) = true := by
  induction n with
  | zero => exact h
  | succ n ih => exact memWrite_wf ih _ _

/-- Leaving entries out keeps the canonical form. -/
theorem Mem.filter_wf {d : Byte} {m : Mem} (h : Mem.wf d m = true) (p : Host.Cell → Bool) :
    Mem.wf d (m.filter p) = true := by
  induction m with
  | nil => exact h
  | cons c t ih =>
    obtain ⟨x, y⟩ := c
    obtain ⟨hy, ha, ht⟩ := (Mem.wf_cons d x y t).1 h
    rw [List.filter_cons]
    split
    · exact (Mem.wf_cons ..).2 ⟨hy, fun c hc => ha c (List.mem_filter.1 hc).1, ih ht⟩
    · exact ih ht

/-- Erasing a range keeps the canonical form. -/
theorem memErase_wf {d : Byte} {m : Mem} (h : Mem.wf d m = true) (a n : Nat) : Mem.wf d (memErase m a n) = true :=
  Mem.filter_wf h _

theorem memRead_nil (d : Byte) (a : Nat) : memRead d [] a = d := rfl

theorem memRead_cons (d : Byte) (x : Nat) (y : Byte) (t : Mem) (a : Nat) :
    memRead d ((x, y) :: t) a = if a = x then y else memRead d t a := by
  unfold memRead
  by_cases h : a = x
  · simp [h]
  · have hb : (a == x) = false := by simpa using h
    simp [List.lookup_cons, hb, h]

theorem memRead_above {d : Byte} {m : Mem} {a : Nat} (h : ∀ c ∈ m, a < c.1) : memRead d m a = d := by
  induction m with
  | nil => rfl
  | cons c t ih =>
    obtain ⟨x, y⟩ := c
    have hx : a < x := h (x, y) (by simp)
    rw [memRead_cons, if_neg (by omega)]
    exact ih fun c hc => h c (by simp [hc])

/-- A read after a write: the byte written at its address, and at every other what was there. -/
theorem memRead_memWrite {d : Byte} {m : Mem} (h : Mem.wf d m = true) (a : Nat) (b : Byte) (x : Nat) :
    memRead d (memWrite d m a b) x = if x = a then b else memRead d m x := by
  induction m with
  | nil =>
    unfold memWrite
    split
    · simp_all [memRead_nil]
    · rw [memRead_cons]
  | cons c t ih =>
    obtain ⟨y, z⟩ := c
    obtain ⟨hz, ha, ht⟩ := (Mem.wf_cons d y z t).1 h
    unfold memWrite
    split
    · rename_i hlt
      split
      · rename_i hb
        by_cases hx : x = a
        · subst hx
          rw [if_pos rfl, hb]
          refine memRead_above fun c hc => ?_
          rcases List.mem_cons.1 hc with rfl | hc
          · exact hlt
          · have := ha c hc
            omega
        · rw [if_neg hx]
      · rw [memRead_cons]
    · split
      · rename_i heq
        subst heq
        split
        · rename_i hb
          by_cases hx : x = a
          · subst hx
            rw [if_pos rfl, hb]
            exact memRead_above ha
          · rw [if_neg hx, memRead_cons, if_neg hx]
        · rw [memRead_cons, memRead_cons]
          by_cases hx : x = a <;> simp [hx]
      · rename_i hne
        rw [memRead_cons, memRead_cons, ih ht]
        by_cases hx : x = y
        · subst hx
          rw [if_pos rfl, if_pos rfl, if_neg (Ne.symm hne)]
        · rw [if_neg hx, if_neg hx]

end Sys2Proof.Machine
end

