-- ==== Sys2Proof/Laws/FrameOps.lean ====
section
/-! SUPPORT. Which parts of the state the operations of Machine/Ops.lean may change (State.agree). -/

namespace Sys2Proof.Machine

theorem partsIn_trans {W V A : List Part} (h : partsIn W V = true) (k : partsIn V A = true) : partsIn W A = true := by
  simp only [partsIn, List.all_eq_true, List.contains_iff_mem] at h k ⊢
  exact fun p hp => k p (h p hp)

theorem agree_refl (A : List Part) (s : State) : s.agree A s := fun p _ => by cases p <;> rfl

/-- A record update that changes only parts of W. -/
theorem agree_upd {A W : List Part} {s0 s : State} {x0 x1 x2 x3 x4 x5 x6 x7 x8 x9 x10 x11 x12 x13 x14 x15 x16 x17 x18
    x19 x20 x21 x22 x23 x24 x25 x26 x27 x28 x29 x30 x31 x32 x33} (h : s0.agree A s) (_hp : x0 = s.pending)
    (hk : ∀ p, W.contains p = false → Part.same p s (State.mk x0 x1 x2 x3 x4 x5 x6 x7 x8 x9 x10 x11 x12 x13 x14 x15 x16
      x17 x18 x19 x20 x21 x22 x23 x24 x25 x26 x27 x28 x29 x30 x31 x32 x33))
    (hw : partsIn W A = true) :
    s0.agree A (State.mk x0 x1 x2 x3 x4 x5 x6 x7 x8 x9 x10 x11 x12 x13 x14 x15 x16
      x17 x18 x19 x20 x21 x22 x23 x24 x25 x26 x27 x28 x29 x30 x31 x32 x33) := by
  intro p hp
  have hW : W.contains p = false := by
    simp only [partsIn, List.all_eq_true, List.contains_iff_mem] at hw
    simp only [← Bool.not_eq_true, List.contains_iff_mem] at hp ⊢
    exact fun m => hp (hw p m)
  have h1 := h p hp
  have h2 := hk p hW
  cases p <;> exact h2.trans h1

theorem agree_out {A : List Part} {s0 s : State} {v} (h : s0.agree A s) (hw : partsIn [.out] A = true) :
    s0.agree A { s with out := v } :=
  agree_upd h rfl (by intro p hp; cases p <;> first | rfl | exact absurd hp (by decide)) hw

theorem agree_owner {A : List Part} {s0 s : State} {v} (h : s0.agree A s) (hw : partsIn [.owner] A = true) :
    s0.agree A { s with owner := v } :=
  agree_upd h rfl (by intro p hp; cases p <;> first | rfl | exact absurd hp (by decide)) hw

theorem agree_pins {A : List Part} {s0 s : State} {v} (h : s0.agree A s) (hw : partsIn [.pins] A = true) :
    s0.agree A { s with pins := v } :=
  agree_upd h rfl (by intro p hp; cases p <;> first | rfl | exact absurd hp (by decide)) hw

theorem agree_boot {A : List Part} {s0 s : State} {v} (h : s0.agree A s) (hw : partsIn [.boot] A = true) :
    s0.agree A { s with boot := v } :=
  agree_upd h rfl (by intro p hp; cases p <;> first | rfl | exact absurd hp (by decide)) hw

theorem agree_fuses {A : List Part} {s0 s : State} {v} (h : s0.agree A s) (hw : partsIn [.fuses] A = true) :
    s0.agree A { s with fuses := v } :=
  agree_upd h rfl (by intro p hp; cases p <;> first | rfl | exact absurd hp (by decide)) hw

theorem agree_flash {A : List Part} {s0 s : State} {v} (h : s0.agree A s) (hw : partsIn [.flash] A = true) :
    s0.agree A { s with flash := v } :=
  agree_upd h rfl (by intro p hp; cases p <;> first | rfl | exact absurd hp (by decide)) hw

theorem agree_lc {A : List Part} {s0 s : State} {v} (h : s0.agree A s) (hw : partsIn [.lc] A = true) :
    s0.agree A { s with lc := v } :=
  agree_upd h rfl (by intro p hp; cases p <;> first | rfl | exact absurd hp (by decide)) hw

theorem agree_sb {A : List Part} {s0 s : State} {v} (h : s0.agree A s) (hw : partsIn [.sb] A = true) :
    s0.agree A { s with sb := v } :=
  agree_upd h rfl (by intro p hp; cases p <;> first | rfl | exact absurd hp (by decide)) hw

theorem agree_datum {A : List Part} {s0 s : State} {v} (h : s0.agree A s) (hw : partsIn [.datum] A = true) :
    s0.agree A { s with datum := v } :=
  agree_upd h rfl (by intro p hp; cases p <;> first | rfl | exact absurd hp (by decide)) hw

theorem agree_polders {A : List Part} {s0 s : State} {v} (h : s0.agree A s) (hw : partsIn [.polders] A = true) :
    s0.agree A { s with polders := v } :=
  agree_upd h rfl (by intro p hp; cases p <;> first | rfl | exact absurd hp (by decide)) hw

theorem agree_cad {A : List Part} {s0 s : State} {v} (h : s0.agree A s) (hw : partsIn [.cad] A = true) :
    s0.agree A { s with cad := v } :=
  agree_upd h rfl (by intro p hp; cases p <;> first | rfl | exact absurd hp (by decide)) hw

theorem agree_keys {A : List Part} {s0 s : State} {v} (h : s0.agree A s) (hw : partsIn [.keys] A = true) :
    s0.agree A { s with keys := v } :=
  agree_upd h rfl (by intro p hp; cases p <;> first | rfl | exact absurd hp (by decide)) hw

theorem agree_link {A : List Part} {s0 s : State} {v} (h : s0.agree A s) (hw : partsIn [.link] A = true) :
    s0.agree A { s with link := v } :=
  agree_upd h rfl (by intro p hp; cases p <;> first | rfl | exact absurd hp (by decide)) hw

theorem agree_stack {A : List Part} {s0 s : State} {v} (h : s0.agree A s) (hw : partsIn [.stack] A = true) :
    s0.agree A { s with stack := v } :=
  agree_upd h rfl (by intro p hp; cases p <;> first | rfl | exact absurd hp (by decide)) hw

theorem agree_tray {A : List Part} {s0 s : State} {v} (h : s0.agree A s) (hw : partsIn [.tray] A = true) :
    s0.agree A { s with tray := v } :=
  agree_upd h rfl (by intro p hp; cases p <;> first | rfl | exact absurd hp (by decide)) hw

theorem agree_fau {A : List Part} {s0 s : State} {v} (h : s0.agree A s) (hw : partsIn [.fau] A = true) :
    s0.agree A { s with fau := v } :=
  agree_upd h rfl (by intro p hp; cases p <;> first | rfl | exact absurd hp (by decide)) hw

theorem agree_rings {A : List Part} {s0 s : State} {v} (h : s0.agree A s) (hw : partsIn [.rings] A = true) :
    s0.agree A { s with rings := v } :=
  agree_upd h rfl (by intro p hp; cases p <;> first | rfl | exact absurd hp (by decide)) hw

theorem agree_coll {A : List Part} {s0 s : State} {v} (h : s0.agree A s) (hw : partsIn [.coll] A = true) :
    s0.agree A { s with coll := v } :=
  agree_upd h rfl (by intro p hp; cases p <;> first | rfl | exact absurd hp (by decide)) hw

theorem agree_bars {A : List Part} {s0 s : State} {v} (h : s0.agree A s) (hw : partsIn [.bars] A = true) :
    s0.agree A { s with bars := v } :=
  agree_upd h rfl (by intro p hp; cases p <;> first | rfl | exact absurd hp (by decide)) hw

theorem agree_sca {A : List Part} {s0 s : State} {v} (h : s0.agree A s) (hw : partsIn [.sca] A = true) :
    s0.agree A { s with sca := v } :=
  agree_upd h rfl (by intro p hp; cases p <;> first | rfl | exact absurd hp (by decide)) hw

theorem agree_obj {A : List Part} {s0 s : State} {v} (h : s0.agree A s) (hw : partsIn [.obj] A = true) :
    s0.agree A { s with obj := v } :=
  agree_upd h rfl (by intro p hp; cases p <;> first | rfl | exact absurd hp (by decide)) hw

theorem agree_fns {A : List Part} {s0 s : State} {v} (h : s0.agree A s) (hw : partsIn [.fns] A = true) :
    s0.agree A { s with fns := v } :=
  agree_upd h rfl (by intro p hp; cases p <;> first | rfl | exact absurd hp (by decide)) hw

theorem agree_spdm {A : List Part} {s0 s : State} {v} (h : s0.agree A s) (hw : partsIn [.spdm] A = true) :
    s0.agree A { s with spdm := v } :=
  agree_upd h rfl (by intro p hp; cases p <;> first | rfl | exact absurd hp (by decide)) hw

theorem agree_weirs {A : List Part} {s0 s : State} {v} (h : s0.agree A s) (hw : partsIn [.weirs] A = true) :
    s0.agree A { s with weirs := v } :=
  agree_upd h rfl (by intro p hp; cases p <;> first | rfl | exact absurd hp (by decide)) hw

theorem agree_charts {A : List Part} {s0 s : State} {v} (h : s0.agree A s) (hw : partsIn [.charts] A = true) :
    s0.agree A { s with charts := v } :=
  agree_upd h rfl (by intro p hp; cases p <;> first | rfl | exact absurd hp (by decide)) hw

theorem agree_tracer {A : List Part} {s0 s : State} {v} (h : s0.agree A s) (hw : partsIn [.tracer] A = true) :
    s0.agree A { s with tracer := v } :=
  agree_upd h rfl (by intro p hp; cases p <;> first | rfl | exact absurd hp (by decide)) hw

theorem agree_gauge {A : List Part} {s0 s : State} {v} (h : s0.agree A s) (hw : partsIn [.gauge] A = true) :
    s0.agree A { s with gauge := v } :=
  agree_upd h rfl (by intro p hp; cases p <;> first | rfl | exact absurd hp (by decide)) hw

theorem agree_power {A : List Part} {s0 s : State} {v} (h : s0.agree A s) (hw : partsIn [.power] A = true) :
    s0.agree A { s with power := v } :=
  agree_upd h rfl (by intro p hp; cases p <;> first | rfl | exact absurd hp (by decide)) hw

theorem agree_regs {A : List Part} {s0 s : State} {v} (h : s0.agree A s) (hw : partsIn [.regs] A = true) :
    s0.agree A { s with regs := v } :=
  agree_upd h rfl (by intro p hp; cases p <;> first | rfl | exact absurd hp (by decide)) hw

theorem agree_pool {A : List Part} {s0 s : State} {v} (h : s0.agree A s) (hw : partsIn [.pool] A = true) :
    s0.agree A { s with pool := v } :=
  agree_upd h rfl (by intro p hp; cases p <;> first | rfl | exact absurd hp (by decide)) hw

theorem agree_free {A : List Part} {s0 s : State} {v} (h : s0.agree A s) (hw : partsIn [.free] A = true) :
    s0.agree A { s with free := v } :=
  agree_upd h rfl (by intro p hp; cases p <;> first | rfl | exact absurd hp (by decide)) hw

theorem foldl_frame {A : List Part} {s0 : State} {α : Type} (g : State → α → State) (l : List α) (s : State) (h : s0.agree A s)
    (hg : ∀ t x, s0.agree A t → s0.agree A (g t x)) : s0.agree A (l.foldl g s) := by
  induction l generalizing s with
  | nil => exact h
  | cons x t ih => exact ih _ (hg _ _ h)

theorem frame_of_pair {A : List Part} {s0 : State} {α : Type} {p : α × State} {a : α} {t : State} (e : p = (a, t)) (h : s0.agree A p.2) :
    s0.agree A t := by subst e; exact h

theorem frame_of_trip {A : List Part} {s0 : State} {α β : Type} {p : α × β × State} {a : α} {b : β} {t : State} (e : p = (a, b, t))
    (h : s0.agree A p.2.2) : s0.agree A t := by subst e; exact h

theorem foldl_pair_frame {A : List Part} {s0 : State} {α β : Type} (g : α × State → β → α × State) (l : List β) (p : α × State)
    (h : s0.agree A p.2) (hg : ∀ q x, s0.agree A q.2 → s0.agree A (g q x).2) : s0.agree A (l.foldl g p).2 := by
  induction l generalizing p with
  | nil => exact h
  | cons x t ih => exact ih _ (hg _ _ h)

theorem foldl_trip_frame {A : List Part} {s0 : State} {α β γ : Type} (g : α × γ × State → β → α × γ × State) (l : List β)
    (p : α × γ × State) (h : s0.agree A p.2.2) (hg : ∀ q x, s0.agree A q.2.2 → s0.agree A (g q x).2.2) :
    s0.agree A (l.foldl g p).2.2 := by
  induction l generalizing p with
  | nil => exact h
  | cons x t ih => exact ih _ (hg _ _ h)

theorem id_frame {A : List Part} {s0 : State} {s : State} (h : s0.agree A s) : s0.agree A (id s) := h

/-- Every state that an answer holds agrees. -/
def FrameOpt (A : List Part) (s0 : State) : Option State → Prop
  | none => True
  | some t => s0.agree A t

theorem frameOpt_none {A : List Part} {s0 : State} : FrameOpt A s0 none := trivial

theorem frameOpt_some {A : List Part} {s0 : State} {t : State} (h : s0.agree A t) : FrameOpt A s0 (some t) := h

theorem frame_of_opt {A : List Part} {s0 : State} {o : Option State} {t : State} (e : o = some t) (h : FrameOpt A s0 o) : s0.agree A t := by
  subst e; exact h

theorem ite_frame {A : List Part} {s0 : State} {c : Prop} [Decidable c] {s t : State} (hs : s0.agree A s) (ht : s0.agree A t) :
    s0.agree A (if c then s else t) := by split <;> assumption

theorem ite_pair_frame {A : List Part} {s0 : State} {α : Type} {c : Prop} [Decidable c] {p q : α × State} (hp : s0.agree A p.2)
    (hq : s0.agree A q.2) : s0.agree A (if c then p else q).2 := by split <;> assumption

theorem ite_trip_frame {A : List Part} {s0 : State} {α β : Type} {c : Prop} [Decidable c] {p q : α × β × State} (hp : s0.agree A p.2.2)
    (hq : s0.agree A q.2.2) : s0.agree A (if c then p else q).2.2 := by split <;> assumption

/-- The next state of an outcome, if it has one, agrees. -/
def FrameOut (A : List Part) (s0 : State) : Host.Outcome State Fault Refusal → Prop
  | .next t => s0.agree A t
  | .fault _ => True
  | .refused _ => True

theorem frameOut_next {A : List Part} {s0 : State} {t : State} (h : s0.agree A t) : FrameOut A s0 (.next t) := h

theorem frameOut_fault {A : List Part} {s0 : State} {r : Fault} : FrameOut A s0 (.fault r) := trivial

theorem frameOut_ite {A : List Part} {s0 : State} {c : Prop} [Decidable c] {x y : Host.Outcome State Fault Refusal}
    (hx : FrameOut A s0 x) (hy : FrameOut A s0 y) : FrameOut A s0 (if c then x else y) := by split <;> assumption


theorem emit_frame {A : List Part} {s0 : State} (o : Output) (s : State) (hs : s0.agree A s)
    (hw : partsIn [.out] A = true) : s0.agree A (emit o s) := by
  unfold emit
  try dsimp only
  repeat' (first
      | with_reducible assumption | (with_reducible exact partsIn_trans (by decide) hw)
      | (with_reducible refine agree_out ?_ ?_))

theorem tookFree_frame {A : List Part} {s0 : State} (s : State) (hs : s0.agree A s)
    (hw : partsIn [.free] A = true) : s0.agree A (tookFree s) := by
  unfold tookFree
  try dsimp only
  repeat' (first
      | with_reducible assumption | (with_reducible exact partsIn_trans (by decide) hw)
      | (with_reducible refine agree_free ?_ ?_))

theorem countBy_frame {A : List Part} {s0 : State} (i : Nat) (n : Nat) (s : State) (hs : s0.agree A s)
    (hw : partsIn [.tracer] A = true) : s0.agree A (countBy i n s) := by
  unfold countBy
  try dsimp only
  repeat' (first
      | with_reducible assumption | (with_reducible exact partsIn_trans (by decide) hw)
      | (with_reducible refine agree_tracer ?_ ?_))

theorem count_frame {A : List Part} {s0 : State} (i : Nat) (s : State) (hs : s0.agree A s)
    (hw : partsIn [.tracer] A = true) : s0.agree A (count i s) := by
  unfold count
  try dsimp only
  repeat' (first
      | with_reducible assumption | with_reducible apply countBy_frame
      | (with_reducible exact partsIn_trans (by decide) hw))

theorem meter_frame {A : List Part} {s0 : State} (p : PolderId) (c : Fin 7) (n : Nat) (s : State) (hs :
    s0.agree A s) (hw : partsIn [.gauge] A = true) : s0.agree A (meter p c n s) := by
  unfold meter
  try dsimp only
  repeat' (first
      | with_reducible assumption | (with_reducible exact partsIn_trans (by decide) hw)
      | (with_reducible refine agree_gauge ?_ ?_))

theorem modPolder_frame {A : List Part} {s0 : State} (p : PolderId) (f : Polder → Polder) (s : State) (hs :
    s0.agree A s) (hw : partsIn [.polders] A = true) : s0.agree A (modPolder p f s) := by
  unfold modPolder
  try dsimp only
  repeat' (first
      | with_reducible assumption | (with_reducible intro _) | (with_reducible exact partsIn_trans (by decide) hw)
      | (with_reducible refine agree_polders ?_ ?_))

theorem modPolderCounters_frame {A : List Part} {s0 : State} (p : PolderId) (f : PolderCounters → PolderCounters)
    (s : State) (hs : s0.agree A s) (hw : partsIn [.polders] A = true) : s0.agree A (modPolderCounters p f s) := by
  unfold modPolderCounters
  try dsimp only
  repeat' (first
      | with_reducible assumption | (with_reducible intro _) | with_reducible apply modPolder_frame
      | (with_reducible exact partsIn_trans (by decide) hw))

theorem modContext_frame {A : List Part} {s0 : State} (c : CtxId) (f : Context → Context) (s : State) (hs :
    s0.agree A s) (hw : partsIn [.obj] A = true) : s0.agree A (modContext c f s) := by
  unfold modContext
  try dsimp only
  repeat' (first
      | with_reducible assumption | (with_reducible intro _) | (with_reducible exact partsIn_trans (by decide) hw)
      | (with_reducible refine agree_obj ?_ ?_))

theorem modQueue_frame {A : List Part} {s0 : State} (q : BitVec 8) (f : Queue → Queue) (s : State) (hs :
    s0.agree A s) (hw : partsIn [.obj] A = true) : s0.agree A (modQueue q f s) := by
  unfold modQueue
  try dsimp only
  repeat' (first
      | with_reducible assumption | (with_reducible intro _) | (with_reducible exact partsIn_trans (by decide) hw)
      | (with_reducible refine agree_obj ?_ ?_))

theorem modRing_frame {A : List Part} {s0 : State} (fn : FnId) (r : BitVec 9) (f : EventRing → EventRing)
    (s : State) (hs : s0.agree A s) (hw : partsIn [.obj] A = true) : s0.agree A (modRing fn r f s) := by
  unfold modRing
  try dsimp only
  repeat' (first
      | with_reducible assumption | (with_reducible intro _) | (with_reducible exact partsIn_trans (by decide) hw)
      | (with_reducible refine agree_obj ?_ ?_))

theorem modVf_frame {A : List Part} {s0 : State} (n : VfId) (f : Vf → Vf) (s : State) (hs : s0.agree A s)
    (hw : partsIn [.fns] A = true) : s0.agree A (modVf n f s) := by
  unfold modVf
  try dsimp only
  repeat' (first
      | with_reducible assumption | (with_reducible intro _) | (with_reducible exact partsIn_trans (by decide) hw)
      | (with_reducible refine agree_fns ?_ ?_))

theorem dirtyPage_frame {A : List Part} {s0 : State} (n : VfId) (page : Nat) (s : State) (hs : s0.agree A s)
    (hw : partsIn [.out, .fns] A = true) : s0.agree A (dirtyPage n page s) := by
  unfold dirtyPage
  try dsimp only
  repeat' (first
      | with_reducible assumption | (with_reducible intro _) | with_reducible apply emit_frame
      | (with_reducible exact partsIn_trans (by decide) hw) | (with_reducible refine ite_frame ?_ ?_) | split
      | (with_reducible refine agree_fns ?_ ?_))

theorem dirtyLog_frame {A : List Part} {s0 : State} (n : VfId) (addr : Nat) (len : Nat) (s : State) (hs :
    s0.agree A s) (hw : partsIn [.out, .fns] A = true) : s0.agree A (dirtyLog n addr len s) := by
  unfold dirtyLog
  try dsimp only
  repeat' (first
      | with_reducible assumption | (with_reducible intro _) | with_reducible apply dirtyPage_frame
      | with_reducible apply modVf_frame | (with_reducible exact partsIn_trans (by decide) hw)
      | (with_reducible apply foldl_frame) | (with_reducible refine ite_frame ?_ ?_) | split | (dsimp only))

theorem writeBackDirty_frame {A : List Part} {s0 : State} (n : VfId) (buf : Bool) (s : State) (hs : s0.agree A s)
    (hw : partsIn [.out, .fns] A = true) : s0.agree A (writeBackDirty n buf s) := by
  unfold writeBackDirty
  try dsimp only
  repeat' (first
      | with_reducible assumption | (with_reducible intro _) | with_reducible apply emit_frame
      | (with_reducible exact partsIn_trans (by decide) hw) | (with_reducible apply foldl_frame)
      | (with_reducible refine ite_frame ?_ ?_) | split | (with_reducible refine agree_fns ?_ ?_) | (dsimp only))

theorem hostWrite_frame {A : List Part} {s0 : State} (fn : FnId) (addr : BitVec 64) (b : Bytes) (s : State) (hs :
    s0.agree A s) (hw : partsIn [.out, .fns] A = true) : s0.agree A (hostWrite fn addr b s) := by
  unfold hostWrite
  try dsimp only
  repeat' (first
      | with_reducible assumption | with_reducible apply dirtyLog_frame | with_reducible apply emit_frame
      | (with_reducible exact partsIn_trans (by decide) hw) | (with_reducible refine ite_frame ?_ ?_) | split)

theorem stampEvent_frame {A : List Part} {s0 : State} (e : TraceEvent) (s : State) (hs : s0.agree A s)
    (hw : partsIn [.free] A = true) : s0.agree A (stampEvent e s).2 := by
  unfold stampEvent
  try dsimp only
  repeat' (first
      | with_reducible assumption | with_reducible apply tookFree_frame
      | (with_reducible exact partsIn_trans (by decide) hw) | (with_reducible refine ite_pair_frame ?_ ?_)
      | (with_reducible refine ite_trip_frame ?_ ?_) | (dsimp only))

theorem writeTrace_frame {A : List Part} {s0 : State} (e : TraceEvent) (s : State) (hs : s0.agree A s)
    (hw : partsIn [.tracer] A = true) : s0.agree A (writeTrace e s) := by
  unfold writeTrace
  try dsimp only
  repeat' (first
      | with_reducible assumption | (with_reducible exact partsIn_trans (by decide) hw)
      | (with_reducible refine agree_tracer ?_ ?_))

theorem dropTrace_frame {A : List Part} {s0 : State} (s : State) (hs : s0.agree A s)
    (hw : partsIn [.tracer] A = true) : s0.agree A (dropTrace s) := by
  unfold dropTrace
  try dsimp only
  repeat' (first
      | with_reducible assumption | with_reducible apply count_frame
      | (with_reducible exact partsIn_trans (by decide) hw) | (with_reducible refine agree_tracer ?_ ?_))

theorem takeTrace_frame {A : List Part} {s0 : State} (e : TraceEvent) (s : State) (hs : s0.agree A s)
    (hw : partsIn [.tracer, .free] A = true) : s0.agree A (takeTrace e s) := by
  unfold takeTrace
  try dsimp only
  repeat' (first
      | with_reducible assumption | (with_reducible intro _) | with_reducible apply dropTrace_frame
      | with_reducible apply stampEvent_frame | with_reducible apply writeTrace_frame
      | (with_reducible exact partsIn_trans (by decide) hw) | (with_reducible refine ite_frame ?_ ?_)
      | (with_reducible refine ite_pair_frame ?_ ?_) | (with_reducible refine ite_trip_frame ?_ ?_) | split
      | (with_reducible refine agree_tracer ?_ ?_) | (dsimp only))

theorem sendTrace_frame {A : List Part} {s0 : State} (e : TraceEvent) (s : State) (hs : s0.agree A s)
    (hw : partsIn [.tracer, .free] A = true) : s0.agree A (sendTrace e s) := by
  unfold sendTrace
  try dsimp only
  repeat' (first
      | with_reducible assumption | (with_reducible intro _) | with_reducible apply dropTrace_frame
      | with_reducible apply takeTrace_frame | (with_reducible exact partsIn_trans (by decide) hw)
      | (with_reducible refine ite_frame ?_ ?_) | split | (with_reducible refine agree_tracer ?_ ?_))

theorem emitTrace_frame {A : List Part} {s0 : State} (bit : Nat) (code : BitVec 16) (unit : BitVec 16)
    (p : PolderId) (c : Option CtxId) (payload : Bytes) (s : State) (hs : s0.agree A s)
    (hw : partsIn [.tracer, .free] A = true) : s0.agree A (emitTrace bit code unit p c payload s) := by
  unfold emitTrace
  try dsimp only
  repeat' (first
      | with_reducible assumption | with_reducible apply sendTrace_frame | with_reducible apply stampEvent_frame
      | (with_reducible exact partsIn_trans (by decide) hw) | (with_reducible refine ite_frame ?_ ?_)
      | (with_reducible refine ite_pair_frame ?_ ?_) | (with_reducible refine ite_trip_frame ?_ ?_) | split
      | (with_reducible refine agree_tracer ?_ ?_) | (dsimp only))

theorem releaseTrace_frame {A : List Part} {s0 : State} (d : DomainId) (s : State) (hs : s0.agree A s)
    (hw : partsIn [.tracer, .free] A = true) : s0.agree A (releaseTrace d s) := by
  unfold releaseTrace
  try dsimp only
  repeat' (first
      | with_reducible assumption | (with_reducible intro _) | with_reducible apply sendTrace_frame
      | with_reducible apply stampEvent_frame | with_reducible apply takeTrace_frame
      | (with_reducible exact partsIn_trans (by decide) hw) | (with_reducible apply foldl_frame)
      | (with_reducible apply foldl_pair_frame) | (with_reducible apply foldl_trip_frame)
      | (with_reducible refine ite_frame ?_ ?_) | (with_reducible refine ite_pair_frame ?_ ?_)
      | (with_reducible refine ite_trip_frame ?_ ?_) | split | (with_reducible refine agree_tracer ?_ ?_)
      | (dsimp only))

theorem writeRecord_frame {A : List Part} {s0 : State} (fn : FnId) (id : BitVec 9) (e : EventRec) (s : State) (hs :
    s0.agree A s) (hw : partsIn [.out, .obj, .fns] A = true) : s0.agree A (writeRecord fn id e s) := by
  unfold writeRecord
  try dsimp only
  repeat' (first
      | with_reducible assumption | (with_reducible intro _) | with_reducible apply emit_frame
      | with_reducible apply hostWrite_frame | with_reducible apply modRing_frame
      | (with_reducible exact partsIn_trans (by decide) hw) | (with_reducible apply id_frame)
      | (with_reducible refine ite_frame ?_ ?_) | split)

theorem flushRing_frame {A : List Part} {s0 : State} (fn : FnId) (id : BitVec 9) (a0 : Nat) (a1 : State) (hs :
    s0.agree A a1) (hw : partsIn [.out, .obj, .fns] A = true) : s0.agree A (flushRing fn id a0 a1) := by
  induction a0 generalizing a1 with
  | zero => 
    unfold flushRing
    try dsimp only
    repeat' (first
        | with_reducible assumption | (with_reducible intro _) | with_reducible apply modRing_frame
        | with_reducible apply writeRecord_frame | (with_reducible exact partsIn_trans (by decide) hw)
        | (with_reducible apply id_frame) | (with_reducible refine ite_frame ?_ ?_)
        | (with_reducible refine ite_pair_frame ?_ ?_) | (with_reducible refine ite_trip_frame ?_ ?_) | split
        | (refine frame_of_pair (by with_reducible assumption) ?_)
        | (refine frame_of_trip (by with_reducible assumption) ?_) | (dsimp only))
  | succ n ih => 
    unfold flushRing
    try dsimp only
    repeat' (first
        | with_reducible assumption | (with_reducible intro _) | with_reducible apply modRing_frame
        | with_reducible apply writeRecord_frame | (with_reducible exact partsIn_trans (by decide) hw)
        | with_reducible apply ih | (with_reducible apply id_frame) | (with_reducible refine ite_frame ?_ ?_)
        | (with_reducible refine ite_pair_frame ?_ ?_) | (with_reducible refine ite_trip_frame ?_ ?_) | split
        | (refine frame_of_pair (by with_reducible assumption) ?_)
        | (refine frame_of_trip (by with_reducible assumption) ?_) | (dsimp only))

theorem postEvent_frame {A : List Part} {s0 : State} (fn : FnId) (id : BitVec 9) (e : EventRec) (s : State) (hs :
    s0.agree A s) (hw : partsIn [.out, .obj, .fns, .tracer] A = true) : s0.agree A (postEvent fn id e s) := by
  unfold postEvent
  try dsimp only
  repeat' (first
      | with_reducible assumption | (with_reducible intro _) | with_reducible apply count_frame
      | with_reducible apply flushRing_frame | with_reducible apply modRing_frame
      | with_reducible apply writeRecord_frame | (with_reducible exact partsIn_trans (by decide) hw)
      | (with_reducible apply id_frame) | (with_reducible refine ite_frame ?_ ?_)
      | (with_reducible refine ite_pair_frame ?_ ?_) | (with_reducible refine ite_trip_frame ?_ ?_) | split
      | (refine frame_of_pair (by with_reducible assumption) ?_)
      | (refine frame_of_trip (by with_reducible assumption) ?_) | (with_reducible refine agree_obj ?_ ?_)
      | (dsimp only))

theorem pushFault_frame {A : List Part} {s0 : State} (r : FaultRecord) (s : State) (hs : s0.agree A s)
    (hw : partsIn [.tracer] A = true) : s0.agree A (pushFault r s) := by
  unfold pushFault
  try dsimp only
  repeat' (first
      | with_reducible assumption | (with_reducible exact partsIn_trans (by decide) hw)
      | (with_reducible refine ite_frame ?_ ?_) | split | (with_reducible refine agree_tracer ?_ ?_))

theorem writeFault_frame {A : List Part} {s0 : State} (n : FaultName) (i : FaultInfo) (s : State) (hs :
    s0.agree A s) (hw : partsIn [.out, .sb, .polders, .obj, .fns, .tracer, .free] A = true) : s0.agree A
    (writeFault n i s) := by
  unfold writeFault
  try dsimp only
  repeat' (first
      | with_reducible assumption | (with_reducible intro _) | with_reducible apply emit_frame
      | with_reducible apply emitTrace_frame | with_reducible apply modPolder_frame
      | with_reducible apply postEvent_frame | with_reducible apply pushFault_frame
      | (with_reducible exact partsIn_trans (by decide) hw) | (with_reducible refine ite_frame ?_ ?_) | split
      | (with_reducible refine agree_sb ?_ ?_))

end Sys2Proof.Machine
end

