-- ==== Sys2Proof/Laws/FrameDomains.lean ====
section
/-! SUPPORT. Which parts of the state the operations of Machine/Domains.lean may change (State.agree). -/

namespace Sys2Proof.Machine

theorem modPins_frame {A : List Part} {s0 : State} (f : Pins → Pins) (s : State) (hs : s0.agree A s)
    (hw : partsIn [.pins] A = true) : s0.agree A (modPins f s) := by
  unfold modPins
  try dsimp only
  repeat' (first
      | with_reducible assumption | (with_reducible exact partsIn_trans (by decide) hw)
      | (with_reducible refine agree_pins ?_ ?_))

theorem modPower_frame {A : List Part} {s0 : State} (f : Power → Power) (s : State) (hs : s0.agree A s)
    (hw : partsIn [.power] A = true) : s0.agree A (modPower f s) := by
  unfold modPower
  try dsimp only
  repeat' (first
      | with_reducible assumption | (with_reducible exact partsIn_trans (by decide) hw)
      | (with_reducible refine agree_power ?_ ?_))

theorem wakeDomain_frame {A : List Part} {s0 : State} (d : DomainId) (s : State) (hs : s0.agree A s)
    (hw : partsIn [.pins, .tracer] A = true) : s0.agree A (wakeDomain d s) := by
  unfold wakeDomain
  try dsimp only
  repeat' (first
      | with_reducible assumption | (with_reducible intro _) | with_reducible apply count_frame
      | with_reducible apply modPins_frame | (with_reducible exact partsIn_trans (by decide) hw)
      | (with_reducible refine ite_frame ?_ ?_) | split)

theorem markWork_frame {A : List Part} {s0 : State} (d : DomainId) (s : State) (hs : s0.agree A s)
    (hw : partsIn [.power] A = true) : s0.agree A (markWork d s) := by
  unfold markWork
  try dsimp only
  repeat' (first
      | with_reducible assumption | (with_reducible intro _) | with_reducible apply modPower_frame
      | (with_reducible exact partsIn_trans (by decide) hw))

theorem setCulvert_frame {A : List Part} {s0 : State} (c : Culvert) (s : State) (hs : s0.agree A s)
    (hw : partsIn [.power] A = true) : s0.agree A (setCulvert c s) := by
  unfold setCulvert
  try dsimp only
  repeat' (first
      | with_reducible assumption | (with_reducible intro _) | with_reducible apply modPower_frame
      | (with_reducible exact partsIn_trans (by decide) hw) | (with_reducible refine ite_frame ?_ ?_) | split)

theorem waitToEnter_frame {A : List Part} {s0 : State} (d : DomainId) (e : CulvertEntry) (s : State) (hs :
    s0.agree A s) (hw : partsIn [.power] A = true) : s0.agree A (waitToEnter d e s) := by
  unfold waitToEnter
  try dsimp only
  repeat' (first
      | with_reducible assumption | (with_reducible intro _) | with_reducible apply modPower_frame
      | with_reducible apply setCulvert_frame | (with_reducible exact partsIn_trans (by decide) hw)
      | (with_reducible refine ite_frame ?_ ?_) | split)

theorem enter_frame {A : List Part} {s0 : State} (d : DomainId) (e : CulvertEntry) (serve : State → State)
    (s : State) (hs : s0.agree A s) (h_serve : ∀ s : State, s0.agree A s → s0.agree A (serve s))
    (hw : partsIn [.pins, .tracer, .power] A = true) : s0.agree A (enter d e serve s) := by
  unfold enter
  try dsimp only
  repeat' (first
      | with_reducible assumption | with_reducible apply markWork_frame | with_reducible apply waitToEnter_frame
      | with_reducible apply wakeDomain_frame | (with_reducible exact partsIn_trans (by decide) hw)
      | with_reducible apply h_serve | (with_reducible refine ite_frame ?_ ?_) | split)

theorem withDomain_frame {A : List Part} {s0 : State} (d : DomainId) (serve : State → State) (s : State) (hs :
    s0.agree A s) (h_serve : ∀ s : State, s0.agree A s → s0.agree A (serve s))
    (hw : partsIn [.pins, .tracer, .power] A = true) : s0.agree A (withDomain d serve s) := by
  unfold withDomain
  try dsimp only
  repeat' (first
      | with_reducible assumption | with_reducible apply markWork_frame | with_reducible apply wakeDomain_frame
      | (with_reducible exact partsIn_trans (by decide) hw) | with_reducible apply h_serve
      | (with_reducible refine ite_frame ?_ ?_) | split)

theorem wakeAll_frame {A : List Part} {s0 : State} (ds : List DomainId) (s : State) (hs : s0.agree A s)
    (hw : partsIn [.pins, .tracer, .power] A = true) : s0.agree A (wakeAll ds s).2 := by
  unfold wakeAll
  try dsimp only
  repeat' (first
      | with_reducible assumption | (with_reducible intro _) | with_reducible apply markWork_frame
      | with_reducible apply wakeDomain_frame | (with_reducible exact partsIn_trans (by decide) hw)
      | (with_reducible apply foldl_frame) | (with_reducible apply foldl_pair_frame)
      | (with_reducible apply foldl_trip_frame) | (with_reducible refine ite_frame ?_ ?_)
      | (with_reducible refine ite_pair_frame ?_ ?_) | (with_reducible refine ite_trip_frame ?_ ?_) | split
      | (dsimp only))

theorem withDomains_frame {A : List Part} {s0 : State} (ds : List DomainId) (serve : State → State) (s : State)
    (hs : s0.agree A s) (h_serve : ∀ s : State, s0.agree A s → s0.agree A (serve s))
    (hw : partsIn [.pins, .tracer, .power] A = true) : s0.agree A (withDomains ds serve s) := by
  unfold withDomains
  try dsimp only
  repeat' (first
      | with_reducible assumption | with_reducible apply wakeAll_frame
      | (with_reducible exact partsIn_trans (by decide) hw) | with_reducible apply h_serve
      | (with_reducible refine ite_pair_frame ?_ ?_) | (with_reducible refine ite_trip_frame ?_ ?_) | split
      | (refine frame_of_pair (by with_reducible assumption) ?_)
      | (refine frame_of_trip (by with_reducible assumption) ?_) | (dsimp only))

theorem resetCulverts_frame {A : List Part} {s0 : State} (d : DomainId) (contextOf : CulvertEntry → Option CtxId)
    (s : State) (hs : s0.agree A s) (hw : partsIn [.power] A = true) : s0.agree A
    (resetCulverts d contextOf s) := by
  unfold resetCulverts
  try dsimp only
  repeat' (first
      | with_reducible assumption | with_reducible apply setCulvert_frame
      | (with_reducible exact partsIn_trans (by decide) hw) | (with_reducible apply id_frame))

end Sys2Proof.Machine
end

