-- ==== Sys2Proof/Laws/FrameKeys.lean ====
section
/-! SUPPORT. Which parts of the state the operations of Machine/Keys.lean may change (State.agree). -/

namespace Sys2Proof.Machine

theorem setPvt_frame {A : List Part} {s0 : State} (e : PvtEntry) (s : State) (hs : s0.agree A s)
    (hw : partsIn [.cad] A = true) : s0.agree A (setPvt e s) := by
  unfold setPvt
  try dsimp only
  repeat' (first
      | with_reducible assumption | (with_reducible intro _) | (with_reducible exact partsIn_trans (by decide) hw)
      | (with_reducible refine agree_cad ?_ ?_))

theorem invalidateHandle_frame {A : List Part} {s0 : State} (h : BitVec 13) (s : State) (hs : s0.agree A s)
    (hw : partsIn [.cad] A = true) : s0.agree A (invalidateHandle h s) := by
  unfold invalidateHandle
  try dsimp only
  repeat' (first
      | with_reducible assumption | with_reducible apply setPvt_frame
      | (with_reducible exact partsIn_trans (by decide) hw) | (with_reducible refine ite_frame ?_ ?_) | split)

theorem setSlot_frame {A : List Part} {s0 : State} (k : KeySlot) (s : State) (hs : s0.agree A s)
    (hw : partsIn [.cad] A = true) : s0.agree A (setSlot k s) := by
  unfold setSlot
  try dsimp only
  repeat' (first
      | with_reducible assumption | (with_reducible intro _) | (with_reducible exact partsIn_trans (by decide) hw)
      | (with_reducible refine agree_cad ?_ ?_))

theorem writeSlot_frame {A : List Part} {s0 : State} (k : KeySlot) (s : State) (hs : s0.agree A s)
    (hw : partsIn [.cad] A = true) : s0.agree A (writeSlot k s) := by
  unfold writeSlot
  try dsimp only
  repeat' (first
      | with_reducible assumption | with_reducible apply setSlot_frame
      | (with_reducible exact partsIn_trans (by decide) hw))

theorem dropPrefixes_frame {A : List Part} {s0 : State} (gone : KeySource → Bool) (s : State) (hs : s0.agree A s)
    (hw : partsIn [.keys] A = true) : s0.agree A (dropPrefixes gone s) := by
  unfold dropPrefixes
  try dsimp only
  repeat' (first
      | with_reducible assumption | (with_reducible intro _) | (with_reducible exact partsIn_trans (by decide) hw)
      | (with_reducible refine agree_keys ?_ ?_))

theorem zeroizeSlot_frame {A : List Part} {s0 : State} (k : KeySlot) (state : SlotState) (s : State) (hs :
    s0.agree A s) (hw : partsIn [.cad, .keys, .stack] A = true) : s0.agree A (zeroizeSlot k state s) := by
  unfold zeroizeSlot
  try dsimp only
  repeat' (first
      | with_reducible assumption | (with_reducible intro _) | with_reducible apply dropPrefixes_frame
      | with_reducible apply setSlot_frame | (with_reducible exact partsIn_trans (by decide) hw)
      | (with_reducible refine agree_stack ?_ ?_))

theorem refuseJob_frame {A : List Part} {s0 : State} (mode : Nat) (aad : Nat) (text : Nat) (p : Option PolderId)
    (s : State) (hs : s0.agree A s) (hw : partsIn [.out, .sb, .polders, .obj, .fns, .tracer, .free] A = true) :
    s0.agree A (refuseJob mode aad text p s) := by
  unfold refuseJob
  try dsimp only
  repeat' (first
      | with_reducible assumption | with_reducible apply writeFault_frame
      | (with_reducible exact partsIn_trans (by decide) hw) | split)

theorem traceJob_frame {A : List Part} {s0 : State} (ended : Bool) (second : Bool) (j : KcuJob) (s : State) (hs :
    s0.agree A s) (hw : partsIn [.tracer, .free] A = true) : s0.agree A (traceJob ended second j s) := by
  unfold traceJob
  try dsimp only
  repeat' (first
      | with_reducible assumption | with_reducible apply emitTrace_frame
      | (with_reducible exact partsIn_trans (by decide) hw) | split)

theorem abandonJobs_frame {A : List Part} {s0 : State} (p : PolderId) (s : State) (hs : s0.agree A s)
    (hw : partsIn [.keys] A = true) : s0.agree A (abandonJobs p s) := by
  unfold abandonJobs
  try dsimp only
  repeat' (first
      | with_reducible assumption | (with_reducible intro _) | (with_reducible exact partsIn_trans (by decide) hw)
      | split | (with_reducible refine agree_keys ?_ ?_))

theorem markSlotBad_frame {A : List Part} {s0 : State} (k : KeySlot) (kind : BitVec 8) (s : State) (hs :
    s0.agree A s) (hw : partsIn [.out, .sb, .polders, .cad, .keys, .stack, .obj, .fns, .tracer, .free] A = true) :
    s0.agree A (markSlotBad k kind s) := by
  unfold markSlotBad
  try dsimp only
  repeat' (first
      | with_reducible assumption | (with_reducible intro _) | with_reducible apply abandonJobs_frame
      | with_reducible apply modPolder_frame | with_reducible apply writeFault_frame
      | with_reducible apply zeroizeSlot_frame | (with_reducible exact partsIn_trans (by decide) hw))

theorem startJob_frame {A : List Part} {s0 : State} (second : Bool) (s : State) (hs : s0.agree A s)
    (hw : partsIn [.out, .sb, .polders, .cad, .keys, .stack, .obj, .fns, .tracer, .power, .free] A = true) :
    s0.agree A (startJob second s) := by
  unfold startJob
  try dsimp only
  repeat' (first
      | with_reducible assumption | with_reducible apply markSlotBad_frame | with_reducible apply markWork_frame
      | with_reducible apply traceJob_frame | (with_reducible exact partsIn_trans (by decide) hw)
      | (with_reducible refine ite_frame ?_ ?_) | split | (with_reducible refine agree_keys ?_ ?_))

theorem dispatchJobs_frame {A : List Part} {s0 : State} (s : State) (hs : s0.agree A s)
    (hw : partsIn [.out, .pins, .sb, .polders, .cad, .keys, .stack, .obj, .fns, .tracer, .power, .free] A = true) :
    s0.agree A (dispatchJobs s) := by
  unfold dispatchJobs
  try dsimp only
  repeat' (first
      | with_reducible assumption | with_reducible apply startJob_frame | with_reducible apply wakeDomain_frame
      | (with_reducible exact partsIn_trans (by decide) hw) | (with_reducible refine ite_frame ?_ ?_) | split)

theorem addJob_frame {A : List Part} {s0 : State} (cls : Nat) (work : KcuWork) (p : Option PolderId) (s : State)
    (hs : s0.agree A s)
    (hw : partsIn [.out, .pins, .sb, .polders, .cad, .keys, .stack, .obj, .fns, .tracer, .power, .free] A = true) :
    s0.agree A (addJob cls work p s) := by
  unfold addJob
  try dsimp only
  repeat' (first
      | with_reducible assumption | with_reducible apply dispatchJobs_frame | with_reducible apply refuseJob_frame
      | (with_reducible exact partsIn_trans (by decide) hw) | (with_reducible refine ite_frame ?_ ?_) | split
      | (with_reducible refine agree_keys ?_ ?_))

theorem traceInline_frame {A : List Part} {s0 : State} (j : InlineJob) (p : Option PolderId) (s : State) (hs :
    s0.agree A s) (hw : partsIn [.keys, .tracer, .power, .free] A = true) : s0.agree A (traceInline j p s) := by
  unfold traceInline
  try dsimp only
  repeat' (first
      | with_reducible assumption | (with_reducible intro _) | with_reducible apply emitTrace_frame
      | with_reducible apply markWork_frame | (with_reducible exact partsIn_trans (by decide) hw)
      | (with_reducible refine ite_frame ?_ ?_) | split | (with_reducible refine agree_keys ?_ ?_))

theorem inlineJob_frame {A : List Part} {s0 : State} (j : InlineJob) (p : Option PolderId) (s : State) (hs :
    s0.agree A s) (hw : partsIn [.out, .sb, .polders, .keys, .obj, .fns, .tracer, .power, .free] A = true) :
    s0.agree A (inlineJob j p s).2 := by
  unfold inlineJob
  try dsimp only
  repeat' (first
      | with_reducible assumption | with_reducible apply refuseJob_frame | with_reducible apply traceInline_frame
      | (with_reducible exact partsIn_trans (by decide) hw) | (with_reducible refine ite_frame ?_ ?_)
      | (with_reducible refine ite_pair_frame ?_ ?_) | (with_reducible refine ite_trip_frame ?_ ?_) | split
      | (dsimp only))

theorem inlineJobs_frame {A : List Part} {s0 : State} (p : Option PolderId) (l : List InlineJob) (s : State) (hs :
    s0.agree A s) (hw : partsIn [.out, .sb, .polders, .keys, .obj, .fns, .tracer, .power, .free] A = true) :
    s0.agree A (inlineJobs p l s).2 := by
  unfold inlineJobs
  try dsimp only
  repeat' (first
      | with_reducible assumption | (with_reducible intro _) | with_reducible apply inlineJob_frame
      | (with_reducible exact partsIn_trans (by decide) hw) | (with_reducible apply foldl_frame)
      | (with_reducible apply foldl_pair_frame) | (with_reducible apply foldl_trip_frame)
      | (with_reducible refine ite_frame ?_ ?_) | (with_reducible refine ite_pair_frame ?_ ?_)
      | (with_reducible refine ite_trip_frame ?_ ?_) | split | (dsimp only))

theorem needJob_frame {A : List Part} {s0 : State} (cls : Nat) (work : KcuWork) (p : Option PolderId) (s : State)
    (hs : s0.agree A s)
    (hw : partsIn [.out, .pins, .sb, .polders, .cad, .keys, .stack, .obj, .fns, .tracer, .power, .free] A = true) :
    s0.agree A (needJob cls work p s) := by
  unfold needJob
  try dsimp only
  repeat' (first
      | with_reducible assumption | (with_reducible intro _) | with_reducible apply addJob_frame
      | (with_reducible exact partsIn_trans (by decide) hw) | (with_reducible refine ite_frame ?_ ?_) | split
      | (with_reducible refine agree_keys ?_ ?_))

theorem instantiate_frame {A : List Part} {s0 : State} (s : State) (hs : s0.agree A s)
    (hw : partsIn [.keys, .free] A = true) : s0.agree A (instantiate s) := by
  unfold instantiate
  try dsimp only
  repeat' (first
      | with_reducible assumption | with_reducible apply tookFree_frame
      | (with_reducible exact partsIn_trans (by decide) hw) | (with_reducible refine agree_keys ?_ ?_))

theorem reseed_frame {A : List Part} {s0 : State} (s : State) (hs : s0.agree A s)
    (hw : partsIn [.keys, .free] A = true) : s0.agree A (reseed s) := by
  unfold reseed
  try dsimp only
  repeat' (first
      | with_reducible assumption | with_reducible apply tookFree_frame
      | (with_reducible exact partsIn_trans (by decide) hw) | (with_reducible refine agree_keys ?_ ?_))

theorem reseedIfDue_frame {A : List Part} {s0 : State} (s : State) (hs : s0.agree A s)
    (hw : partsIn [.keys, .free] A = true) : s0.agree A (reseedIfDue s) := by
  unfold reseedIfDue
  try dsimp only
  repeat' (first
      | with_reducible assumption | with_reducible apply reseed_frame
      | (with_reducible exact partsIn_trans (by decide) hw) | (with_reducible refine ite_frame ?_ ?_) | split)

theorem drbgDraw_frame {A : List Part} {s0 : State} (n : Nat) (s : State) (hs : s0.agree A s)
    (hw : partsIn [.out, .pins, .sb, .polders, .cad, .keys, .stack, .obj, .fns, .tracer, .power, .free] A = true) :
    s0.agree A (drbgDraw n s) := by
  unfold drbgDraw
  try dsimp only
  repeat' (first
      | with_reducible assumption | with_reducible apply inlineJob_frame | with_reducible apply needJob_frame
      | with_reducible apply reseedIfDue_frame | (with_reducible exact partsIn_trans (by decide) hw)
      | (with_reducible refine ite_frame ?_ ?_) | (with_reducible refine ite_pair_frame ?_ ?_)
      | (with_reducible refine ite_trip_frame ?_ ?_) | split | (with_reducible refine agree_keys ?_ ?_)
      | (dsimp only))

theorem takeSlot_frame {A : List Part} {s0 : State} (i : BitVec 8) (p : PolderId) (s : State) (hs : s0.agree A s)
    (hw : partsIn [.out, .pins, .sb, .polders, .cad, .keys, .stack, .obj, .fns, .tracer, .power, .free] A = true) :
    s0.agree A (takeSlot i p s) := by
  unfold takeSlot
  try dsimp only
  repeat' (first
      | with_reducible assumption | (with_reducible intro _) | with_reducible apply addJob_frame
      | with_reducible apply count_frame | with_reducible apply writeSlot_frame
      | (with_reducible exact partsIn_trans (by decide) hw) | split | (with_reducible refine agree_cad ?_ ?_))

theorem findSlotFor_frame {A : List Part} {s0 : State} (p : PolderId) (s : State) (hs : s0.agree A s)
    (hw : partsIn [.out, .pins, .sb, .polders, .cad, .keys, .stack, .obj, .fns, .tracer, .power, .free] A = true) :
    s0.agree A (findSlotFor p s) := by
  unfold findSlotFor
  try dsimp only
  repeat' (first
      | with_reducible assumption | (with_reducible intro _) | with_reducible apply setSlot_frame
      | with_reducible apply takeSlot_frame | (with_reducible exact partsIn_trans (by decide) hw)
      | (with_reducible refine ite_frame ?_ ?_) | split)

theorem retryLoads_frame {A : List Part} {s0 : State} (s : State) (hs : s0.agree A s)
    (hw : partsIn [.out, .pins, .sb, .polders, .cad, .keys, .stack, .obj, .fns, .tracer, .power, .free] A = true) :
    s0.agree A (retryLoads s) := by
  unfold retryLoads
  try dsimp only
  repeat' (first
      | with_reducible assumption | (with_reducible intro _) | with_reducible apply findSlotFor_frame
      | (with_reducible exact partsIn_trans (by decide) hw) | (with_reducible apply foldl_frame) | (dsimp only))

theorem beginLoad_frame {A : List Part} {s0 : State} (p : PolderId) (kind : BitVec 8) (s : State) (hs :
    s0.agree A s)
    (hw : partsIn [.out, .pins, .sb, .polders, .cad, .keys, .stack, .obj, .fns, .tracer, .power, .free] A = true) :
    s0.agree A (beginLoad p kind s) := by
  unfold beginLoad
  try dsimp only
  repeat' (first
      | with_reducible assumption | (with_reducible intro _) | with_reducible apply findSlotFor_frame
      | (with_reducible exact partsIn_trans (by decide) hw) | (with_reducible refine ite_frame ?_ ?_) | split
      | (with_reducible refine agree_cad ?_ ?_))

theorem noSlotRecord_frame {A : List Part} {s0 : State} (p : PolderId) (s : State) (hs : s0.agree A s)
    (hw : partsIn [.out, .sb, .polders, .obj, .fns, .tracer, .free] A = true) : s0.agree A (noSlotRecord p s) := by
  unfold noSlotRecord
  try dsimp only
  repeat' (first
      | with_reducible assumption | with_reducible apply writeFault_frame
      | (with_reducible exact partsIn_trans (by decide) hw))

theorem readKey_frame {A : List Part} {s0 : State} (k : KeySlot) (kind : BitVec 8) (s : State) (hs : s0.agree A s)
    (hw : partsIn [.out, .sb, .polders, .cad, .keys, .stack, .obj, .fns, .tracer, .free] A = true) : s0.agree A
    (readKey k kind s).2 := by
  unfold readKey
  try dsimp only
  repeat' (first
      | with_reducible assumption | with_reducible apply markSlotBad_frame | with_reducible apply setSlot_frame
      | (with_reducible exact partsIn_trans (by decide) hw) | (with_reducible refine ite_frame ?_ ?_)
      | (with_reducible refine ite_pair_frame ?_ ?_) | (with_reducible refine ite_trip_frame ?_ ?_) | split
      | (dsimp only))

theorem needKey_frame {A : List Part} {s0 : State} (p : PolderId) (kind : BitVec 8) (s : State) (hs : s0.agree A s)
    (hw : partsIn [.out, .pins, .sb, .polders, .cad, .keys, .stack, .obj, .fns, .tracer, .power, .free] A = true) :
    s0.agree A (needKey p kind s).2 := by
  unfold needKey
  try dsimp only
  repeat' (first
      | with_reducible assumption | with_reducible apply beginLoad_frame | with_reducible apply needJob_frame
      | with_reducible apply noSlotRecord_frame | with_reducible apply readKey_frame
      | (with_reducible exact partsIn_trans (by decide) hw) | (with_reducible refine ite_frame ?_ ?_)
      | (with_reducible refine ite_pair_frame ?_ ?_) | (with_reducible refine ite_trip_frame ?_ ?_) | split
      | (refine frame_of_pair (by with_reducible assumption) ?_)
      | (refine frame_of_trip (by with_reducible assumption) ?_) | (dsimp only))

theorem failLoad_frame {A : List Part} {s0 : State} (q : Polder) (kind : BitVec 8) (f : DeedFail) (s : State) (hs :
    s0.agree A s)
    (hw : partsIn [.out, .pins, .sb, .polders, .cad, .keys, .stack, .obj, .fns, .tracer, .power, .free] A = true) :
    s0.agree A (failLoad q kind f s) := by
  unfold failLoad
  try dsimp only
  repeat' (first
      | with_reducible assumption | (with_reducible intro _) | with_reducible apply abandonJobs_frame
      | with_reducible apply modPolder_frame | with_reducible apply retryLoads_frame
      | with_reducible apply writeFault_frame | with_reducible apply zeroizeSlot_frame
      | (with_reducible exact partsIn_trans (by decide) hw) | split | (with_reducible refine agree_cad ?_ ?_))

theorem closeDebugFor_frame {A : List Part} {s0 : State} (conf : Bool) (s : State) (hs : s0.agree A s)
    (hw : partsIn [.out, .lc] A = true) : s0.agree A (closeDebugFor conf s) := by
  unfold closeDebugFor
  try dsimp only
  repeat' (first
      | with_reducible assumption | with_reducible apply emit_frame
      | (with_reducible exact partsIn_trans (by decide) hw) | (with_reducible refine ite_frame ?_ ?_) | split
      | (with_reducible refine agree_lc ?_ ?_))

theorem pmkLoaded_frame {A : List Part} {s0 : State} (q : Polder) (key : Bytes) (s : State) (hs : s0.agree A s)
    (hw : partsIn [.out, .pins, .lc, .sb, .polders, .cad, .keys, .stack, .obj, .fns, .tracer, .power, .free] A = true) :
    s0.agree A (pmkLoaded q key s) := by
  unfold pmkLoaded
  try dsimp only
  repeat' (first
      | with_reducible assumption | (with_reducible intro _) | with_reducible apply closeDebugFor_frame
      | with_reducible apply needJob_frame | with_reducible apply writeSlot_frame
      | (with_reducible exact partsIn_trans (by decide) hw) | (with_reducible apply foldl_frame) | split
      | (with_reducible refine agree_cad ?_ ?_) | (dsimp only))

theorem keyLoaded_frame {A : List Part} {s0 : State} (q : Polder) (kind : BitVec 8) (key : Bytes) (s : State) (hs :
    s0.agree A s) (hw : partsIn [.cad] A = true) : s0.agree A (keyLoaded q kind key s) := by
  unfold keyLoaded
  try dsimp only
  repeat' (first
      | with_reducible assumption | with_reducible apply writeSlot_frame
      | (with_reducible exact partsIn_trans (by decide) hw) | split)

end Sys2Proof.Machine
end

