-- ==== Sys2Proof/Laws/FrameSluices.lean ====
section
/-! SUPPORT. Which parts of the state the operations of Machine/Sluices.lean may change (State.agree). -/

namespace Sys2Proof.Machine

theorem modSession_frame {A : List Part} {s0 : State} (id : BitVec 32) (f : Session → Session) (s : State) (hs :
    s0.agree A s) (hw : partsIn [.spdm] A = true) : s0.agree A (modSession id f s) := by
  unfold modSession
  try dsimp only
  repeat' (first
      | with_reducible assumption | (with_reducible intro _) | (with_reducible exact partsIn_trans (by decide) hw)
      | (with_reducible refine agree_spdm ?_ ?_))

theorem setMailbox_frame {A : List Part} {s0 : State} (m : Mailbox) (s : State) (hs : s0.agree A s)
    (hw : partsIn [.fns] A = true) : s0.agree A (setMailbox m s) := by
  unfold setMailbox
  try dsimp only
  repeat' (first
      | with_reducible assumption | (with_reducible intro _) | (with_reducible exact partsIn_trans (by decide) hw)
      | (with_reducible refine agree_fns ?_ ?_))

theorem writeResponse_frame {A : List Part} {s0 : State} (fn : FnId) (b : Bytes) (s : State) (hs : s0.agree A s)
    (hw : partsIn [.fns] A = true) : s0.agree A (writeResponse fn b s) := by
  unfold writeResponse
  try dsimp only
  repeat' (first
      | with_reducible assumption | with_reducible apply setMailbox_frame
      | (with_reducible exact partsIn_trans (by decide) hw))

theorem modSpdm_frame {A : List Part} {s0 : State} (f : Spdm → Spdm) (s : State) (hs : s0.agree A s)
    (hw : partsIn [.spdm] A = true) : s0.agree A (modSpdm f s) := by
  unfold modSpdm
  try dsimp only
  repeat' (first
      | with_reducible assumption | (with_reducible exact partsIn_trans (by decide) hw)
      | (with_reducible refine agree_spdm ?_ ?_))

theorem chunkAnswer_frame {A : List Part} {s0 : State} (sl : Sluice) (a : SpdmAnswer) (s : State) (hs :
    s0.agree A s) (hw : partsIn [.spdm] A = true) : s0.agree A (chunkAnswer sl a s).2 := by
  unfold chunkAnswer
  try dsimp only
  repeat' (first
      | with_reducible assumption | (with_reducible intro _) | with_reducible apply modSpdm_frame
      | (with_reducible exact partsIn_trans (by decide) hw) | (with_reducible refine ite_frame ?_ ?_)
      | (with_reducible refine ite_pair_frame ?_ ?_) | (with_reducible refine ite_trip_frame ?_ ?_) | split
      | (dsimp only))

theorem answerAs_frame {A : List Part} {s0 : State} (outer : Byte) (kind : Byte) (o : Origin) (tag : BitVec 32)
    (opcode : BitVec 16) (st : Status) (payload : Bytes) (s : State) (hs : s0.agree A s)
    (hw : partsIn [.out, .sb, .polders, .keys, .obj, .fns, .spdm, .tracer, .power, .free] A = true) : s0.agree A
    (answerAs outer kind o tag opcode st payload s) := by
  unfold answerAs
  try dsimp only
  repeat' (first
      | with_reducible assumption | (with_reducible intro _) | with_reducible apply chunkAnswer_frame
      | with_reducible apply emit_frame | with_reducible apply inlineJob_frame
      | with_reducible apply modSession_frame | with_reducible apply writeResponse_frame
      | (with_reducible exact partsIn_trans (by decide) hw) | (with_reducible refine ite_frame ?_ ?_)
      | (with_reducible refine ite_pair_frame ?_ ?_) | (with_reducible refine ite_trip_frame ?_ ?_) | split
      | (refine frame_of_pair (by with_reducible assumption) ?_)
      | (refine frame_of_trip (by with_reducible assumption) ?_) | (with_reducible refine agree_fns ?_ ?_)
      | (dsimp only))

theorem reply_frame {A : List Part} {s0 : State} (o : Origin) (tag : BitVec 32) (opcode : BitVec 16) (st : Status)
    (payload : Bytes) (s : State) (hs : s0.agree A s)
    (hw : partsIn [.out, .sb, .polders, .keys, .obj, .fns, .spdm, .tracer, .power, .free] A = true) : s0.agree A
    (reply o tag opcode st payload s) := by
  unfold reply
  try dsimp only
  repeat' (first
      | with_reducible assumption | with_reducible apply answerAs_frame
      | (with_reducible exact partsIn_trans (by decide) hw))

theorem refuse_frame {A : List Part} {s0 : State} (o : Origin) (tag : BitVec 32) (opcode : BitVec 16) (st : Status)
    (s : State) (hs : s0.agree A s)
    (hw : partsIn [.out, .sb, .polders, .keys, .obj, .fns, .spdm, .tracer, .power, .free] A = true) : s0.agree A
    (refuse o tag opcode st s) := by
  unfold refuse
  try dsimp only
  repeat' (first
      | with_reducible assumption | with_reducible apply reply_frame
      | (with_reducible exact partsIn_trans (by decide) hw))

theorem pend_frame {A : List Part} {s0 : State} (o : Origin) (tag : BitVec 32) (opcode : BitVec 16) (s : State)
    (hs : s0.agree A s)
    (hw : partsIn [.out, .sb, .polders, .keys, .obj, .fns, .spdm, .tracer, .power, .free] A = true) : s0.agree A
    (pend o tag opcode s) := by
  unfold pend
  try dsimp only
  repeat' (first
      | with_reducible assumption | with_reducible apply refuse_frame
      | (with_reducible exact partsIn_trans (by decide) hw) | (with_reducible refine agree_fns ?_ ?_))

theorem finish_frame {A : List Part} {s0 : State} (o : Origin) (tag : BitVec 32) (st : Status) (payload : Bytes)
    (s : State) (hs : s0.agree A s) (hw : partsIn [.out, .obj, .fns, .tracer] A = true) : s0.agree A
    (finish o tag st payload s) := by
  unfold finish
  try dsimp only
  repeat' (first
      | with_reducible assumption | (with_reducible intro _) | with_reducible apply postEvent_frame
      | (with_reducible exact partsIn_trans (by decide) hw) | (with_reducible refine ite_frame ?_ ?_) | split
      | (with_reducible refine agree_fns ?_ ?_))

theorem finishAll_frame {A : List Part} {s0 : State} (l : List (Origin × BitVec 32)) (st : Status) (s : State) (hs :
    s0.agree A s) (hw : partsIn [.out, .obj, .fns, .tracer] A = true) : s0.agree A (finishAll l st s) := by
  unfold finishAll
  try dsimp only
  repeat' (first
      | with_reducible assumption | (with_reducible intro _) | with_reducible apply finish_frame
      | (with_reducible exact partsIn_trans (by decide) hw) | (with_reducible apply foldl_frame) | (dsimp only))

theorem runCmdIn_frame {A : List Part} {s0 : State} (ci : CmdInfo) (o : Origin) (tag : BitVec 32) (denied : Bool)
    (malformed : Bool) (scopeBlock : Bool) (own : State → Option Status) (effect : State → State) (s : State) (hs :
    s0.agree A s) (h_effect : ∀ s : State, s0.agree A s → s0.agree A (effect s))
    (hw : partsIn [.out, .sb, .polders, .keys, .obj, .fns, .spdm, .tracer, .power, .free] A = true) : s0.agree A
    (runCmdIn ci o tag denied malformed scopeBlock own effect s) := by
  unfold runCmdIn
  try dsimp only
  repeat' (first
      | with_reducible assumption | with_reducible apply refuse_frame
      | (with_reducible exact partsIn_trans (by decide) hw) | with_reducible apply h_effect
      | (with_reducible refine ite_frame ?_ ?_) | split)

theorem runCmd_frame {A : List Part} {s0 : State} (ci : CmdInfo) (o : Origin) (tag : BitVec 32) (denied : Bool)
    (malformed : Bool) (own : State → Option Status) (effect : State → State) (s : State) (hs : s0.agree A s)
    (h_effect : ∀ s : State, s0.agree A s → s0.agree A (effect s))
    (hw : partsIn [.out, .sb, .polders, .keys, .obj, .fns, .spdm, .tracer, .power, .free] A = true) : s0.agree A
    (runCmd ci o tag denied malformed own effect s) := by
  unfold runCmd
  try dsimp only
  repeat' (first
      | with_reducible assumption | (with_reducible intro _) | with_reducible apply runCmdIn_frame
      | (with_reducible exact partsIn_trans (by decide) hw) | with_reducible apply h_effect)

end Sys2Proof.Machine
end

