-- ==== Sys2Proof/Laws/FrameGauge.lean ====
section
/-! SUPPORT. Which parts of the state the operations of Machine/Gauge.lean may change (State.agree). -/

namespace Sys2Proof.Machine

theorem modGauge_frame {A : List Part} {s0 : State} (f : Gauge → Gauge) (s : State) (hs : s0.agree A s)
    (hw : partsIn [.gauge] A = true) : s0.agree A (modGauge f s) := by
  unfold modGauge
  try dsimp only
  repeat' (first
      | with_reducible assumption | (with_reducible exact partsIn_trans (by decide) hw)
      | (with_reducible refine agree_gauge ?_ ?_))

theorem openEntry_frame {A : List Part} {s0 : State} (p : PolderId) (conf : Bool) (s : State) (hs : s0.agree A s)
    (hw : partsIn [.gauge] A = true) : s0.agree A (openEntry p conf s) := by
  unfold openEntry
  try dsimp only
  repeat' (first
      | with_reducible assumption | (with_reducible intro _) | with_reducible apply modGauge_frame
      | (with_reducible exact partsIn_trans (by decide) hw) | (with_reducible refine ite_frame ?_ ?_) | split)

theorem takeIncrement_frame {A : List Part} {s0 : State} (p : PolderId) (c : Fin 7) (s : State) (hs : s0.agree A s)
    (hw : partsIn [.gauge] A = true) : s0.agree A (takeIncrement p c s) := by
  unfold takeIncrement
  try dsimp only
  repeat' (first
      | with_reducible assumption | (with_reducible intro _) | with_reducible apply modGauge_frame
      | with_reducible apply openEntry_frame | (with_reducible exact partsIn_trans (by decide) hw)
      | (with_reducible refine ite_frame ?_ ?_) | split)

theorem flushPolder_frame {A : List Part} {s0 : State} (p : PolderId) (s : State) (hs : s0.agree A s)
    (hw : partsIn [.gauge] A = true) : s0.agree A (flushPolder p s) := by
  unfold flushPolder
  try dsimp only
  repeat' (first
      | with_reducible assumption | (with_reducible intro _) | with_reducible apply takeIncrement_frame
      | (with_reducible exact partsIn_trans (by decide) hw) | (with_reducible apply foldl_frame) | (dsimp only))

theorem flushAll_frame {A : List Part} {s0 : State} (s : State) (hs : s0.agree A s)
    (hw : partsIn [.gauge] A = true) : s0.agree A (flushAll s) := by
  unfold flushAll
  try dsimp only
  repeat' (first
      | with_reducible assumption | (with_reducible intro _) | with_reducible apply takeIncrement_frame
      | (with_reducible exact partsIn_trans (by decide) hw) | (with_reducible apply foldl_frame) | (dsimp only))

theorem closeEntry_frame {A : List Part} {s0 : State} (p : PolderId) (kind : BitVec 8) (s : State) (hs :
    s0.agree A s) (hw : partsIn [.gauge] A = true) : s0.agree A (closeEntry p kind s) := by
  unfold closeEntry
  try dsimp only
  repeat' (first
      | with_reducible assumption | (with_reducible intro _) | with_reducible apply flushPolder_frame
      | with_reducible apply modGauge_frame | (with_reducible exact partsIn_trans (by decide) hw) | split)

theorem closeAllEntries_frame {A : List Part} {s0 : State} (s : State) (hs : s0.agree A s)
    (hw : partsIn [.gauge] A = true) : s0.agree A (closeAllEntries s) := by
  unfold closeAllEntries
  try dsimp only
  repeat' (first
      | with_reducible assumption | (with_reducible intro _) | with_reducible apply closeEntry_frame
      | with_reducible apply flushAll_frame | (with_reducible exact partsIn_trans (by decide) hw)
      | (with_reducible apply foldl_frame) | (dsimp only))

theorem periodicCapture_frame {A : List Part} {s0 : State} (s : State) (hs : s0.agree A s)
    (hw : partsIn [.gauge] A = true) : s0.agree A (periodicCapture s) := by
  unfold periodicCapture
  try dsimp only
  repeat' (first
      | with_reducible assumption | (with_reducible intro _) | with_reducible apply modGauge_frame
      | (with_reducible exact partsIn_trans (by decide) hw) | (with_reducible refine ite_frame ?_ ?_) | split)

theorem writeGaugeRecord_frame {A : List Part} {s0 : State} (c : Capture) (s : State) (hs : s0.agree A s)
    (hw : partsIn [.gauge] A = true) : s0.agree A (writeGaugeRecord c s) := by
  unfold writeGaugeRecord
  try dsimp only
  repeat' (first
      | with_reducible assumption | (with_reducible intro _) | with_reducible apply modGauge_frame
      | (with_reducible exact partsIn_trans (by decide) hw) | (with_reducible refine ite_frame ?_ ?_) | split)

theorem signNext_frame {A : List Part} {s0 : State} (s : State) (hs : s0.agree A s)
    (hw : partsIn [.gauge] A = true) : s0.agree A (signNext s) := by
  unfold signNext
  try dsimp only
  repeat' (first
      | with_reducible assumption | (with_reducible intro _) | with_reducible apply modGauge_frame
      | with_reducible apply writeGaugeRecord_frame | (with_reducible exact partsIn_trans (by decide) hw)
      | (with_reducible refine ite_frame ?_ ?_) | split)

theorem execGaugeIncrement_frame {A : List Part} {s0 : State} (polder : PolderId) (counter : Fin 7) (s : State)
    (hs : s0.agree A s) (hw : partsIn [.gauge] A = true) : FrameOut A s0 (execGaugeIncrement polder counter s) := by
  unfold execGaugeIncrement
  try dsimp only
  repeat' (first
      | with_reducible exact frameOut_fault | (with_reducible apply frameOut_next)
      | (with_reducible refine frameOut_ite ?_ ?_) | with_reducible assumption | (with_reducible intro _)
      | with_reducible apply takeIncrement_frame | (with_reducible exact partsIn_trans (by decide) hw)
      | (with_reducible refine ite_frame ?_ ?_) | split | (dsimp only))

theorem execGaugePeriodicCapture_frame {A : List Part} {s0 : State} (s : State) (hs : s0.agree A s)
    (hw : partsIn [.gauge] A = true) : FrameOut A s0 (execGaugePeriodicCapture s) := by
  unfold execGaugePeriodicCapture
  try dsimp only
  repeat' (first
      | with_reducible exact frameOut_fault | (with_reducible apply frameOut_next)
      | (with_reducible refine frameOut_ite ?_ ?_) | with_reducible assumption | (with_reducible intro _)
      | with_reducible apply periodicCapture_frame | (with_reducible exact partsIn_trans (by decide) hw)
      | (with_reducible refine ite_frame ?_ ?_) | split | (dsimp only))

theorem execGaugeRecordSigned_frame {A : List Part} {s0 : State} (s : State) (hs : s0.agree A s)
    (hw : partsIn [.gauge] A = true) : FrameOut A s0 (execGaugeRecordSigned s) := by
  unfold execGaugeRecordSigned
  try dsimp only
  repeat' (first
      | with_reducible exact frameOut_fault | (with_reducible apply frameOut_next)
      | (with_reducible refine frameOut_ite ?_ ?_) | with_reducible assumption | (with_reducible intro _)
      | with_reducible apply signNext_frame | (with_reducible exact partsIn_trans (by decide) hw)
      | (with_reducible refine ite_frame ?_ ?_) | split | (dsimp only))

theorem gaugeIdentityCmd_frame {A : List Part} {s0 : State} (bad : Bool) (o : Origin) (tag : BitVec 32) (s : State)
    (hs : s0.agree A s)
    (hw : partsIn [.out, .sb, .polders, .keys, .obj, .fns, .spdm, .tracer, .power, .free] A = true) : s0.agree A
    (gaugeIdentityCmd bad o tag s) := by
  unfold gaugeIdentityCmd
  try dsimp only
  repeat' (first
      | with_reducible assumption | (with_reducible intro _) | with_reducible apply reply_frame
      | with_reducible apply runCmd_frame | (with_reducible exact partsIn_trans (by decide) hw))

theorem execGaugeIdentity_frame {A : List Part} {s0 : State} (o : Origin) (tag : BitVec 32) (s : State) (hs :
    s0.agree A s) (hw : partsIn [.out, .sb, .polders, .keys, .obj, .fns, .spdm, .tracer, .power, .free] A = true) :
    FrameOut A s0 (execGaugeIdentity o tag s) := by
  unfold execGaugeIdentity
  try dsimp only
  repeat' (first
      | with_reducible exact frameOut_fault | (with_reducible apply frameOut_next)
      | (with_reducible refine frameOut_ite ?_ ?_) | with_reducible assumption | (with_reducible intro _)
      | with_reducible apply gaugeIdentityCmd_frame | (with_reducible exact partsIn_trans (by decide) hw)
      | (dsimp only))

theorem gaugeCountersReadCmd_frame {A : List Part} {s0 : State} (bad : Bool) (o : Origin) (tag : BitVec 32)
    (polder : PolderId) (s : State) (hs : s0.agree A s)
    (hw : partsIn [.out, .sb, .polders, .keys, .obj, .fns, .spdm, .tracer, .power, .free] A = true) : s0.agree A
    (gaugeCountersReadCmd bad o tag polder s) := by
  unfold gaugeCountersReadCmd
  try dsimp only
  repeat' (first
      | with_reducible assumption | (with_reducible intro _) | with_reducible apply reply_frame
      | with_reducible apply runCmd_frame | (with_reducible exact partsIn_trans (by decide) hw) | split)

theorem execGaugeCountersRead_frame {A : List Part} {s0 : State} (o : Origin) (tag : BitVec 32) (polder : PolderId)
    (s : State) (hs : s0.agree A s)
    (hw : partsIn [.out, .sb, .polders, .keys, .obj, .fns, .spdm, .tracer, .power, .free] A = true) : FrameOut A s0
    (execGaugeCountersRead o tag polder s) := by
  unfold execGaugeCountersRead
  try dsimp only
  repeat' (first
      | with_reducible exact frameOut_fault | (with_reducible apply frameOut_next)
      | (with_reducible refine frameOut_ite ?_ ?_) | with_reducible assumption | (with_reducible intro _)
      | with_reducible apply gaugeCountersReadCmd_frame | (with_reducible exact partsIn_trans (by decide) hw)
      | (dsimp only))

theorem gaugeRecordFetchCmd_frame {A : List Part} {s0 : State} (bad : Bool) (o : Origin) (tag : BitVec 32)
    (first : BitVec 32) (max : BitVec 8) (s : State) (hs : s0.agree A s)
    (hw : partsIn [.out, .sb, .polders, .keys, .obj, .fns, .spdm, .tracer, .power, .free] A = true) : s0.agree A
    (gaugeRecordFetchCmd bad o tag first max s) := by
  unfold gaugeRecordFetchCmd
  try dsimp only
  repeat' (first
      | with_reducible assumption | (with_reducible intro _) | with_reducible apply reply_frame
      | with_reducible apply runCmd_frame | (with_reducible exact partsIn_trans (by decide) hw))

theorem execGaugeRecordFetch_frame {A : List Part} {s0 : State} (o : Origin) (tag : BitVec 32) (first : BitVec 32)
    (max : BitVec 8) (s : State) (hs : s0.agree A s)
    (hw : partsIn [.out, .sb, .polders, .keys, .obj, .fns, .spdm, .tracer, .power, .free] A = true) : FrameOut A s0
    (execGaugeRecordFetch o tag first max s) := by
  unfold execGaugeRecordFetch
  try dsimp only
  repeat' (first
      | with_reducible exact frameOut_fault | (with_reducible apply frameOut_next)
      | (with_reducible refine frameOut_ite ?_ ?_) | with_reducible assumption | (with_reducible intro _)
      | with_reducible apply gaugeRecordFetchCmd_frame | (with_reducible exact partsIn_trans (by decide) hw)
      | (dsimp only))

theorem gaugeRecordReleaseCmd_frame {A : List Part} {s0 : State} (bad : Bool) (o : Origin) (tag : BitVec 32)
    (through : BitVec 32) (s : State) (hs : s0.agree A s)
    (hw : partsIn [.out, .sb, .polders, .keys, .obj, .fns, .spdm, .tracer, .gauge, .power, .free] A = true) :
    s0.agree A (gaugeRecordReleaseCmd bad o tag through s) := by
  unfold gaugeRecordReleaseCmd
  try dsimp only
  repeat' (first
      | with_reducible assumption | (with_reducible intro _) | with_reducible apply modGauge_frame
      | with_reducible apply reply_frame | with_reducible apply runCmd_frame
      | (with_reducible exact partsIn_trans (by decide) hw))

theorem execGaugeRecordRelease_frame {A : List Part} {s0 : State} (o : Origin) (tag : BitVec 32)
    (through : BitVec 32) (s : State) (hs : s0.agree A s)
    (hw : partsIn [.out, .sb, .polders, .keys, .obj, .fns, .spdm, .tracer, .gauge, .power, .free] A = true) :
    FrameOut A s0 (execGaugeRecordRelease o tag through s) := by
  unfold execGaugeRecordRelease
  try dsimp only
  repeat' (first
      | with_reducible exact frameOut_fault | (with_reducible apply frameOut_next)
      | (with_reducible refine frameOut_ite ?_ ?_) | with_reducible assumption | (with_reducible intro _)
      | with_reducible apply gaugeRecordReleaseCmd_frame | (with_reducible exact partsIn_trans (by decide) hw)
      | (dsimp only))

end Sys2Proof.Machine
end

