-- ==== Sys2Proof/Laws/FrameReset.lean ====
section
/-! SUPPORT. Which parts of the state the operations of Machine/Reset.lean may change (State.agree). -/

namespace Sys2Proof.Machine

theorem eraseSealed_frame {A : List Part} {s0 : State} (s : State) (hs : s0.agree A s)
    (hw : partsIn [.flash] A = true) : s0.agree A (eraseSealed s) := by
  unfold eraseSealed
  try dsimp only
  repeat' (first
      | with_reducible assumption | (with_reducible exact partsIn_trans (by decide) hw)
      | (with_reducible refine agree_flash ?_ ?_))

theorem wipePool_frame {A : List Part} {s0 : State} (s : State) (hs : s0.agree A s)
    (hw : partsIn [.boot, .cad, .stack, .tracer] A = true) : s0.agree A (wipePool s) := by
  unfold wipePool
  try dsimp only
  repeat' (first
      | with_reducible assumption | (with_reducible exact partsIn_trans (by decide) hw)
      | (with_reducible refine ite_frame ?_ ?_) | split | (with_reducible refine agree_boot ?_ ?_)
      | (with_reducible refine agree_cad ?_ ?_) | (with_reducible refine agree_stack ?_ ?_)
      | (with_reducible refine agree_tracer ?_ ?_)
      | (with_reducible refine agree_upd (W := [.boot, .cad, .stack, .tracer]) ?_ rfl (by intro p hp; cases p <;> (try exact absurd hp (by decide)) <;> exact rfl) ?_))

theorem completeInterrupted_frame {A : List Part} {s0 : State} (s : State) (hs : s0.agree A s)
    (hw : partsIn [.boot, .fuses, .flash, .cad, .stack, .tracer] A = true) : s0.agree A
    (completeInterrupted s) := by
  unfold completeInterrupted
  try dsimp only
  repeat' (first
      | with_reducible assumption | with_reducible apply eraseSealed_frame | with_reducible apply wipePool_frame
      | (with_reducible exact partsIn_trans (by decide) hw) | (with_reducible refine ite_frame ?_ ?_) | split
      | (with_reducible refine agree_fuses ?_ ?_))

theorem writeImagePart_frame {A : List Part} {s0 : State} (i : Image) (n : Nat) (s : State) (hs : s0.agree A s)
    (hw : partsIn [.flash] A = true) : s0.agree A (writeImagePart i n s) := by
  unfold writeImagePart
  try dsimp only
  repeat' (first
      | with_reducible assumption | (with_reducible intro _) | (with_reducible exact partsIn_trans (by decide) hw)
      | (with_reducible refine agree_flash ?_ ?_))

theorem writeImage_frame {A : List Part} {s0 : State} (i : Image) (s : State) (hs : s0.agree A s)
    (hw : partsIn [.flash] A = true) : s0.agree A (writeImage i s) := by
  unfold writeImage
  try dsimp only
  repeat' (first
      | with_reducible assumption | with_reducible apply writeImagePart_frame
      | (with_reducible exact partsIn_trans (by decide) hw))

theorem cutRewrite_frame {A : List Part} {s0 : State} (s : State) (hs : s0.agree A s)
    (hw : partsIn [.boot, .flash, .free] A = true) : s0.agree A (cutRewrite s) := by
  unfold cutRewrite
  try dsimp only
  repeat' (first
      | with_reducible assumption | with_reducible apply tookFree_frame | with_reducible apply writeImagePart_frame
      | (with_reducible exact partsIn_trans (by decide) hw) | split | (with_reducible refine agree_boot ?_ ?_))

theorem gaugeRead_frame {A : List Part} {s0 : State} (s : State) (hs : s0.agree A s)
    (hw : partsIn [.gauge] A = true) : s0.agree A (gaugeRead s) := by
  unfold gaugeRead
  try dsimp only
  repeat' (first
      | with_reducible assumption | (with_reducible exact partsIn_trans (by decide) hw)
      | (with_reducible refine ite_frame ?_ ?_) | split | (with_reducible refine agree_gauge ?_ ?_))

theorem resetState_frame {A : List Part} {s0 : State} (s : State) (hs : s0.agree A s)
    (hw : partsIn [.owner, .pins, .boot, .flash, .lc, .datum, .polders, .cad, .keys, .link, .stack, .tray, .fau, .rings, .coll, .bars, .sca, .obj, .fns, .spdm, .weirs, .charts, .tracer, .gauge, .power, .regs, .pool, .free] A = true) :
    s0.agree A (resetState s) := by
  unfold resetState
  try dsimp only
  repeat' (first
      | with_reducible assumption | with_reducible apply closeAllEntries_frame
      | with_reducible apply cutRewrite_frame | (with_reducible exact partsIn_trans (by decide) hw) | split
      | (with_reducible refine agree_owner ?_ ?_) | (with_reducible refine agree_pins ?_ ?_)
      | (with_reducible refine agree_boot ?_ ?_) | (with_reducible refine agree_flash ?_ ?_)
      | (with_reducible refine agree_lc ?_ ?_) | (with_reducible refine agree_datum ?_ ?_)
      | (with_reducible refine agree_polders ?_ ?_) | (with_reducible refine agree_cad ?_ ?_)
      | (with_reducible refine agree_keys ?_ ?_) | (with_reducible refine agree_link ?_ ?_)
      | (with_reducible refine agree_stack ?_ ?_) | (with_reducible refine agree_tray ?_ ?_)
      | (with_reducible refine agree_fau ?_ ?_) | (with_reducible refine agree_rings ?_ ?_)
      | (with_reducible refine agree_coll ?_ ?_) | (with_reducible refine agree_bars ?_ ?_)
      | (with_reducible refine agree_sca ?_ ?_) | (with_reducible refine agree_obj ?_ ?_)
      | (with_reducible refine agree_fns ?_ ?_) | (with_reducible refine agree_spdm ?_ ?_)
      | (with_reducible refine agree_weirs ?_ ?_) | (with_reducible refine agree_charts ?_ ?_)
      | (with_reducible refine agree_tracer ?_ ?_) | (with_reducible refine agree_gauge ?_ ?_)
      | (with_reducible refine agree_power ?_ ?_) | (with_reducible refine agree_regs ?_ ?_)
      | (with_reducible refine agree_pool ?_ ?_) | (with_reducible refine agree_free ?_ ?_)
      | (with_reducible refine agree_upd (W := [.owner, .pins, .boot, .flash, .lc, .datum, .polders, .cad, .keys, .link, .stack, .tray, .fau, .rings, .coll, .bars, .sca, .obj, .fns, .spdm, .weirs, .charts, .tracer, .gauge, .power, .regs, .pool, .free]) ?_ rfl (by intro p hp; cases p <;> (try exact absurd hp (by decide)) <;> exact rfl) ?_))

theorem countEvent_frame {A : List Part} {s0 : State} (cause : BitVec 8) (s : State) (hs : s0.agree A s)
    (hw : partsIn [.sb] A = true) : s0.agree A (countEvent cause s) := by
  unfold countEvent
  try dsimp only
  repeat' (first
      | with_reducible assumption | (with_reducible exact partsIn_trans (by decide) hw) | split
      | (with_reducible refine agree_sb ?_ ?_))

theorem announceBoot_frame {A : List Part} {s0 : State} (s : State) (hs : s0.agree A s)
    (hw : partsIn [.out, .sb] A = true) : s0.agree A (announceBoot s) := by
  unfold announceBoot
  try dsimp only
  repeat' (first
      | with_reducible assumption | with_reducible apply emit_frame
      | (with_reducible exact partsIn_trans (by decide) hw) | split | (with_reducible refine agree_sb ?_ ?_))

theorem bootRecord_frame {A : List Part} {s0 : State} (s : State) (hs : s0.agree A s)
    (hw : partsIn [.sb, .tracer] A = true) : s0.agree A (bootRecord s) := by
  unfold bootRecord
  try dsimp only
  repeat' (first
      | with_reducible assumption | with_reducible apply pushFault_frame
      | (with_reducible exact partsIn_trans (by decide) hw) | (with_reducible refine agree_sb ?_ ?_))

theorem romStart_frame {A : List Part} {s0 : State} (s : State) (hs : s0.agree A s)
    (hw : partsIn [.out, .boot, .sb, .tracer, .gauge] A = true) : s0.agree A (romStart s) := by
  unfold romStart
  try dsimp only
  repeat' (first
      | with_reducible assumption | with_reducible apply announceBoot_frame | with_reducible apply bootRecord_frame
      | with_reducible apply gaugeRead_frame | (with_reducible exact partsIn_trans (by decide) hw)
      | (with_reducible refine ite_frame ?_ ?_) | split | (with_reducible refine agree_boot ?_ ?_))

theorem blockReset_frame {A : List Part} {s0 : State} (cause : BitVec 4) (s : State) (hs : s0.agree A s)
    (hw : partsIn [.out, .owner, .pins, .boot, .flash, .lc, .sb, .datum, .polders, .cad, .keys, .link, .stack, .tray, .fau, .rings, .coll, .bars, .sca, .obj, .fns, .spdm, .weirs, .charts, .tracer, .gauge, .power, .regs, .pool, .free] A = true) :
    s0.agree A (blockReset cause s) := by
  unfold blockReset
  try dsimp only
  repeat' (first
      | with_reducible assumption | with_reducible apply countEvent_frame | with_reducible apply resetState_frame
      | with_reducible apply romStart_frame | (with_reducible exact partsIn_trans (by decide) hw)
      | (with_reducible refine ite_frame ?_ ?_) | split | (with_reducible refine agree_sb ?_ ?_))

theorem execPowerOnResetRelease_frame {A : List Part} {s0 : State} (s : State) (hs : s0.agree A s)
    (hw : partsIn [.pins, .sb, .datum, .gauge] A = true) : FrameOut A s0 (execPowerOnResetRelease s) := by
  unfold execPowerOnResetRelease
  try dsimp only
  repeat' (first
      | with_reducible exact frameOut_fault | (with_reducible apply frameOut_next)
      | (with_reducible refine frameOut_ite ?_ ?_) | with_reducible assumption | (with_reducible intro _)
      | with_reducible apply gaugeRead_frame | (with_reducible exact partsIn_trans (by decide) hw)
      | (with_reducible refine ite_frame ?_ ?_) | split | (with_reducible refine agree_pins ?_ ?_)
      | (with_reducible refine agree_sb ?_ ?_) | (with_reducible refine agree_datum ?_ ?_)
      | (with_reducible refine agree_gauge ?_ ?_)
      | (with_reducible refine agree_upd (W := [.pins, .sb, .datum, .gauge]) ?_ rfl (by intro p hp; cases p <;> (try exact absurd hp (by decide)) <;> exact rfl) ?_)
      | (dsimp only))

theorem execPowerOnResetAssert_frame {A : List Part} {s0 : State} (s : State) (hs : s0.agree A s)
    (hw : partsIn [.owner, .pins, .boot, .flash, .lc, .sb, .datum, .polders, .cad, .keys, .link, .stack, .tray, .fau, .rings, .coll, .bars, .sca, .obj, .fns, .spdm, .weirs, .charts, .tracer, .gauge, .power, .regs, .pool, .free] A = true) :
    FrameOut A s0 (execPowerOnResetAssert s) := by
  unfold execPowerOnResetAssert
  try dsimp only
  repeat' (first
      | with_reducible exact frameOut_fault | (with_reducible apply frameOut_next)
      | (with_reducible refine frameOut_ite ?_ ?_) | with_reducible assumption | (with_reducible intro _)
      | with_reducible apply resetState_frame | (with_reducible exact partsIn_trans (by decide) hw) | split
      | (with_reducible refine agree_pins ?_ ?_) | (with_reducible refine agree_boot ?_ ?_)
      | (with_reducible refine agree_lc ?_ ?_) | (with_reducible refine agree_sb ?_ ?_)
      | (with_reducible refine agree_gauge ?_ ?_)
      | (with_reducible refine agree_upd (W := [.pins, .boot, .lc, .sb, .gauge]) ?_ rfl (by intro p hp; cases p <;> (try exact absurd hp (by decide)) <;> exact rfl) ?_)
      | (dsimp only))

theorem execBlockResetAssert_frame {A : List Part} {s0 : State} (s : State) (hs : s0.agree A s)
    (hw : partsIn [.owner, .pins, .boot, .flash, .lc, .sb, .datum, .polders, .cad, .keys, .link, .stack, .tray, .fau, .rings, .coll, .bars, .sca, .obj, .fns, .spdm, .weirs, .charts, .tracer, .gauge, .power, .regs, .pool, .free] A = true) :
    FrameOut A s0 (execBlockResetAssert s) := by
  unfold execBlockResetAssert
  try dsimp only
  repeat' (first
      | with_reducible exact frameOut_fault | (with_reducible apply frameOut_next)
      | (with_reducible refine frameOut_ite ?_ ?_) | with_reducible assumption | (with_reducible intro _)
      | with_reducible apply resetState_frame | (with_reducible exact partsIn_trans (by decide) hw)
      | (with_reducible refine ite_frame ?_ ?_) | split | (with_reducible refine agree_pins ?_ ?_)
      | (with_reducible refine agree_sb ?_ ?_)
      | (with_reducible refine agree_upd (W := [.pins, .sb]) ?_ rfl (by intro p hp; cases p <;> (try exact absurd hp (by decide)) <;> exact rfl) ?_)
      | (dsimp only))

theorem execBlockResetRelease_frame {A : List Part} {s0 : State} (strap : BitVec 2) (instanceId : InstId)
    (s : State) (hs : s0.agree A s) (hw : partsIn [.out, .pins, .boot, .sb, .tracer, .gauge] A = true) :
    FrameOut A s0 (execBlockResetRelease strap instanceId s) := by
  unfold execBlockResetRelease
  try dsimp only
  repeat' (first
      | with_reducible exact frameOut_fault | (with_reducible apply frameOut_next)
      | (with_reducible refine frameOut_ite ?_ ?_) | with_reducible assumption | (with_reducible intro _)
      | with_reducible apply romStart_frame | (with_reducible exact partsIn_trans (by decide) hw)
      | (with_reducible refine ite_frame ?_ ?_) | split | (with_reducible refine agree_pins ?_ ?_)
      | (with_reducible refine agree_boot ?_ ?_)
      | (with_reducible refine agree_upd (W := [.pins, .boot]) ?_ rfl (by intro p hp; cases p <;> (try exact absurd hp (by decide)) <;> exact rfl) ?_)
      | (dsimp only))

theorem execWardenWatchdog_frame {A : List Part} {s0 : State} (s : State) (hs : s0.agree A s)
    (hw : partsIn [.out, .owner, .pins, .boot, .flash, .lc, .sb, .datum, .polders, .cad, .keys, .link, .stack, .tray, .fau, .rings, .coll, .bars, .sca, .obj, .fns, .spdm, .weirs, .charts, .tracer, .gauge, .power, .regs, .pool, .free] A = true) :
    FrameOut A s0 (execWardenWatchdog s) := by
  unfold execWardenWatchdog
  try dsimp only
  repeat' (first
      | with_reducible exact frameOut_fault | (with_reducible apply frameOut_next)
      | (with_reducible refine frameOut_ite ?_ ?_) | with_reducible assumption | (with_reducible intro _)
      | with_reducible apply blockReset_frame | (with_reducible exact partsIn_trans (by decide) hw)
      | (with_reducible refine ite_frame ?_ ?_) | split | (dsimp only))

theorem execWardenEcc_frame {A : List Part} {s0 : State} (s : State) (hs : s0.agree A s)
    (hw : partsIn [.out, .owner, .pins, .boot, .flash, .lc, .sb, .datum, .polders, .cad, .keys, .link, .stack, .tray, .fau, .rings, .coll, .bars, .sca, .obj, .fns, .spdm, .weirs, .charts, .tracer, .gauge, .power, .regs, .pool, .free] A = true) :
    FrameOut A s0 (execWardenEcc s) := by
  unfold execWardenEcc
  try dsimp only
  repeat' (first
      | with_reducible exact frameOut_fault | (with_reducible apply frameOut_next)
      | (with_reducible refine frameOut_ite ?_ ?_) | with_reducible assumption | (with_reducible intro _)
      | with_reducible apply blockReset_frame | (with_reducible exact partsIn_trans (by decide) hw)
      | (with_reducible refine ite_frame ?_ ?_) | split | (dsimp only))

theorem execCorrectableEcc_frame {A : List Part} {s0 : State} (inRom : Bool) (s : State) (hs : s0.agree A s)
    (hw : partsIn [.tracer] A = true) : FrameOut A s0 (execCorrectableEcc inRom s) := by
  unfold execCorrectableEcc
  try dsimp only
  repeat' (first
      | with_reducible exact frameOut_fault | (with_reducible apply frameOut_next)
      | (with_reducible refine frameOut_ite ?_ ?_) | with_reducible assumption | (with_reducible intro _)
      | with_reducible apply count_frame | (with_reducible exact partsIn_trans (by decide) hw)
      | (with_reducible refine ite_frame ?_ ?_) | split | (dsimp only))

theorem execBootTimeout_frame {A : List Part} {s0 : State} (s : State) (hs : s0.agree A s)
    (hw : partsIn [.out, .owner, .pins, .boot, .flash, .lc, .sb, .datum, .polders, .cad, .keys, .link, .stack, .tray, .fau, .rings, .coll, .bars, .sca, .obj, .fns, .spdm, .weirs, .charts, .tracer, .gauge, .power, .regs, .pool, .free] A = true) :
    FrameOut A s0 (execBootTimeout s) := by
  unfold execBootTimeout
  try dsimp only
  repeat' (first
      | with_reducible exact frameOut_fault | (with_reducible apply frameOut_next)
      | (with_reducible refine frameOut_ite ?_ ?_) | with_reducible assumption | (with_reducible intro _)
      | with_reducible apply blockReset_frame | (with_reducible exact partsIn_trans (by decide) hw)
      | (with_reducible refine ite_frame ?_ ?_) | split | (dsimp only))

end Sys2Proof.Machine
end

