-- ==== Sys2Proof/Laws/FrameBoot.lean ====
section
/-! SUPPORT. Which parts of the state the operations of Machine/Boot.lean may change (State.agree). -/

namespace Sys2Proof.Machine

theorem modBoot_frame {A : List Part} {s0 : State} (f : Boot → Boot) (s : State) (hs : s0.agree A s)
    (hw : partsIn [.boot] A = true) : s0.agree A (modBoot f s) := by
  unfold modBoot
  try dsimp only
  repeat' (first
      | with_reducible assumption | (with_reducible exact partsIn_trans (by decide) hw)
      | (with_reducible refine agree_boot ?_ ?_))

theorem enterStage_frame {A : List Part} {s0 : State} (st : BootStage) (s : State) (hs : s0.agree A s)
    (hw : partsIn [.boot] A = true) : s0.agree A (enterStage st s) := by
  unfold enterStage
  try dsimp only
  repeat' (first
      | with_reducible assumption | (with_reducible intro _) | with_reducible apply modBoot_frame
      | (with_reducible exact partsIn_trans (by decide) hw))

theorem stopBoot_frame {A : List Part} {s0 : State} (st : BootStage) (reason : BitVec 8) (s : State) (hs :
    s0.agree A s) (hw : partsIn [.out, .boot, .sb] A = true) : s0.agree A (stopBoot st reason s) := by
  unfold stopBoot
  try dsimp only
  repeat' (first
      | with_reducible assumption | (with_reducible intro _) | with_reducible apply announceBoot_frame
      | with_reducible apply enterStage_frame | with_reducible apply modBoot_frame
      | (with_reducible exact partsIn_trans (by decide) hw))

theorem writeSurvey_frame {A : List Part} {s0 : State} (l : List SurveyEntry) (s : State) (hs : s0.agree A s)
    (hw : partsIn [.boot] A = true) : s0.agree A (writeSurvey l s) := by
  unfold writeSurvey
  try dsimp only
  repeat' (first
      | with_reducible assumption | (with_reducible intro _) | with_reducible apply modBoot_frame
      | (with_reducible exact partsIn_trans (by decide) hw))

theorem loadImage_frame {A : List Part} {s0 : State} (s : State) (hs : s0.agree A s)
    (hw : partsIn [.boot] A = true) : s0.agree A (loadImage s) := by
  unfold loadImage
  try dsimp only
  repeat' (first
      | with_reducible assumption | (with_reducible intro _) | with_reducible apply enterStage_frame
      | with_reducible apply modBoot_frame | (with_reducible exact partsIn_trans (by decide) hw))

theorem bootDerivations_frame {A : List Part} {s0 : State} (from_ : DeviceKey) (fixed : List (String × Nat × Nat))
    (s : State) (hs : s0.agree A s)
    (hw : partsIn [.out, .sb, .polders, .keys, .obj, .fns, .tracer, .power, .free] A = true) : s0.agree A
    (bootDerivations from_ fixed s) := by
  unfold bootDerivations
  try dsimp only
  repeat' (first
      | with_reducible assumption | (with_reducible intro _) | with_reducible apply inlineJobs_frame
      | (with_reducible exact partsIn_trans (by decide) hw) | (with_reducible refine ite_pair_frame ?_ ?_)
      | (with_reducible refine ite_trip_frame ?_ ?_) | (dsimp only))

theorem measureImage_frame {A : List Part} {s0 : State} (i : Image) (s : State) (hs : s0.agree A s)
    (hw : partsIn [.out, .boot, .sb, .polders, .keys, .obj, .fns, .tracer, .power, .free] A = true) : s0.agree A
    (measureImage i s) := by
  unfold measureImage
  try dsimp only
  repeat' (first
      | with_reducible assumption | (with_reducible intro _) | with_reducible apply bootDerivations_frame
      | with_reducible apply modBoot_frame | with_reducible apply writeSurvey_frame
      | (with_reducible exact partsIn_trans (by decide) hw) | split)

theorem execLcResolve_frame {A : List Part} {s0 : State} (s : State) (hs : s0.agree A s)
    (hw : partsIn [.out, .boot, .fuses, .flash, .lc, .sb, .cad, .stack, .tracer] A = true) : FrameOut A s0
    (execLcResolve s) := by
  unfold execLcResolve
  try dsimp only
  repeat' (first
      | with_reducible exact frameOut_fault | (with_reducible apply frameOut_next)
      | (with_reducible refine frameOut_ite ?_ ?_) | with_reducible assumption | (with_reducible intro _)
      | with_reducible apply completeInterrupted_frame | with_reducible apply enterStage_frame
      | with_reducible apply stopBoot_frame | (with_reducible exact partsIn_trans (by decide) hw)
      | (with_reducible refine ite_frame ?_ ?_) | split | (with_reducible refine agree_lc ?_ ?_) | (dsimp only))

theorem execEntropy_frame {A : List Part} {s0 : State} (startUpPasses : Bool) (s : State) (hs : s0.agree A s)
    (hw : partsIn [.out, .pins, .boot, .sb, .polders, .cad, .keys, .stack, .obj, .fns, .tracer, .power, .free] A = true) :
    FrameOut A s0 (execEntropy startUpPasses s) := by
  unfold execEntropy
  try dsimp only
  repeat' (first
      | with_reducible exact frameOut_fault | (with_reducible apply frameOut_next)
      | (with_reducible refine frameOut_ite ?_ ?_) | with_reducible assumption | (with_reducible intro _)
      | with_reducible apply enterStage_frame | with_reducible apply instantiate_frame
      | with_reducible apply needJob_frame | with_reducible apply stopBoot_frame
      | (with_reducible exact partsIn_trans (by decide) hw) | (with_reducible refine ite_frame ?_ ?_) | split
      | (dsimp only))

theorem deriveDeviceKeys_frame {A : List Part} {s0 : State} (s : State) (hs : s0.agree A s)
    (hw : partsIn [.out, .pins, .boot, .sb, .polders, .cad, .keys, .stack, .obj, .fns, .tracer, .power, .free] A = true) :
    s0.agree A (deriveDeviceKeys s) := by
  unfold deriveDeviceKeys
  try dsimp only
  repeat' (first
      | with_reducible assumption | (with_reducible intro _) | with_reducible apply bootDerivations_frame
      | with_reducible apply drbgDraw_frame | with_reducible apply modBoot_frame
      | (with_reducible exact partsIn_trans (by decide) hw) | split | (with_reducible refine agree_cad ?_ ?_))

theorem execKeys_frame {A : List Part} {s0 : State} (s : State) (hs : s0.agree A s)
    (hw : partsIn [.out, .pins, .boot, .sb, .polders, .cad, .keys, .stack, .obj, .fns, .tracer, .power, .free] A = true) :
    FrameOut A s0 (execKeys s) := by
  unfold execKeys
  try dsimp only
  repeat' (first
      | with_reducible exact frameOut_fault | (with_reducible apply frameOut_next)
      | (with_reducible refine frameOut_ite ?_ ?_) | with_reducible assumption | (with_reducible intro _)
      | with_reducible apply deriveDeviceKeys_frame | with_reducible apply drbgDraw_frame
      | with_reducible apply enterStage_frame | with_reducible apply writeSurvey_frame
      | (with_reducible exact partsIn_trans (by decide) hw) | (with_reducible refine ite_frame ?_ ?_) | split
      | (with_reducible refine agree_cad ?_ ?_) | (dsimp only))

theorem execImageLoad_frame {A : List Part} {s0 : State} (flashAnswers : Bool) (s : State) (hs : s0.agree A s)
    (hw : partsIn [.out, .boot, .sb] A = true) : FrameOut A s0 (execImageLoad flashAnswers s) := by
  unfold execImageLoad
  try dsimp only
  repeat' (first
      | with_reducible exact frameOut_fault | (with_reducible apply frameOut_next)
      | (with_reducible refine frameOut_ite ?_ ?_) | with_reducible assumption | (with_reducible intro _)
      | with_reducible apply loadImage_frame | with_reducible apply stopBoot_frame
      | (with_reducible exact partsIn_trans (by decide) hw) | (with_reducible refine ite_frame ?_ ?_) | split
      | (dsimp only))

theorem execImageVerify_frame {A : List Part} {s0 : State} (s : State) (hs : s0.agree A s)
    (hw : partsIn [.out, .boot, .sb, .polders, .keys, .obj, .fns, .tracer, .power, .free] A = true) : FrameOut A s0
    (execImageVerify s) := by
  unfold execImageVerify
  try dsimp only
  repeat' (first
      | with_reducible exact frameOut_fault | (with_reducible apply frameOut_next)
      | (with_reducible refine frameOut_ite ?_ ?_) | with_reducible assumption | (with_reducible intro _)
      | with_reducible apply enterStage_frame | with_reducible apply measureImage_frame
      | with_reducible apply stopBoot_frame | (with_reducible exact partsIn_trans (by decide) hw)
      | (with_reducible refine ite_frame ?_ ?_) | split | (dsimp only))

theorem poolTake_frame {A : List Part} {s0 : State} (u : PoolUser) (n : Nat) (s : State) (hs : s0.agree A s)
    (hw : partsIn [.pool] A = true) : s0.agree A (poolTake u n s) := by
  unfold poolTake
  try dsimp only
  repeat' (first
      | with_reducible assumption | (with_reducible exact partsIn_trans (by decide) hw)
      | (with_reducible refine agree_pool ?_ ?_))

theorem poolGive_frame {A : List Part} {s0 : State} (u : PoolUser) (s : State) (hs : s0.agree A s)
    (hw : partsIn [.pool] A = true) : s0.agree A (poolGive u s) := by
  unfold poolGive
  try dsimp only
  repeat' (first
      | with_reducible assumption | (with_reducible exact partsIn_trans (by decide) hw)
      | (with_reducible refine agree_pool ?_ ?_))

theorem markPool_frame {A : List Part} {s0 : State} (s : State) (hs : s0.agree A s)
    (hw : partsIn [.stack] A = true) : s0.agree A (markPool s) := by
  unfold markPool
  try dsimp only
  repeat' (first
      | with_reducible assumption | (with_reducible intro _) | (with_reducible exact partsIn_trans (by decide) hw)
      | (with_reducible apply foldl_frame) | (with_reducible refine ite_frame ?_ ?_) | split
      | (with_reducible refine agree_stack ?_ ?_) | (dsimp only))

theorem execFirmwareInit_frame {A : List Part} {s0 : State} (objects : List Digest) (s : State) (hs : s0.agree A s)
    (hw : partsIn [.out, .owner, .boot, .sb, .polders, .keys, .stack, .obj, .fns, .tracer, .power, .pool, .free] A = true) :
    FrameOut A s0 (execFirmwareInit objects s) := by
  unfold execFirmwareInit
  try dsimp only
  repeat' (first
      | with_reducible exact frameOut_fault | (with_reducible apply frameOut_next)
      | (with_reducible refine frameOut_ite ?_ ?_) | with_reducible assumption | (with_reducible intro _)
      | with_reducible apply enterStage_frame | with_reducible apply inlineJobs_frame
      | with_reducible apply markPool_frame | with_reducible apply modBoot_frame
      | with_reducible apply poolTake_frame | with_reducible apply stopBoot_frame
      | with_reducible apply writeSurvey_frame | (with_reducible exact partsIn_trans (by decide) hw)
      | (with_reducible refine ite_frame ?_ ?_) | (with_reducible refine ite_pair_frame ?_ ?_)
      | (with_reducible refine ite_trip_frame ?_ ?_) | split | (with_reducible refine agree_owner ?_ ?_)
      | (dsimp only))

theorem execRecoveryLoad_frame {A : List Part} {s0 : State} (image : Bytes) (s : State) (hs : s0.agree A s)
    (hw : partsIn [.out, .boot] A = true) : FrameOut A s0 (execRecoveryLoad image s) := by
  unfold execRecoveryLoad
  try dsimp only
  repeat' (first
      | with_reducible exact frameOut_fault | (with_reducible apply frameOut_next)
      | (with_reducible refine frameOut_ite ?_ ?_) | with_reducible assumption | (with_reducible intro _)
      | with_reducible apply emit_frame | with_reducible apply modBoot_frame
      | (with_reducible exact partsIn_trans (by decide) hw) | (with_reducible refine ite_frame ?_ ?_) | split
      | (dsimp only))

theorem execImageRewriteComplete_frame {A : List Part} {s0 : State} (s : State) (hs : s0.agree A s)
    (hw : partsIn [.out, .boot, .flash, .obj, .fns, .tracer] A = true) : FrameOut A s0
    (execImageRewriteComplete s) := by
  unfold execImageRewriteComplete
  try dsimp only
  repeat' (first
      | with_reducible exact frameOut_fault | (with_reducible apply frameOut_next)
      | (with_reducible refine frameOut_ite ?_ ?_) | with_reducible assumption | (with_reducible intro _)
      | with_reducible apply finish_frame | with_reducible apply loadImage_frame
      | with_reducible apply modBoot_frame | with_reducible apply writeImage_frame
      | (with_reducible exact partsIn_trans (by decide) hw) | (with_reducible refine ite_frame ?_ ?_) | split
      | (dsimp only))

theorem surveyReadCmd_frame {A : List Part} {s0 : State} (bad : Bool) (o : Origin) (tag : BitVec 32)
    (first : BitVec 8) (count : BitVec 8) (s : State) (hs : s0.agree A s)
    (hw : partsIn [.out, .sb, .polders, .keys, .obj, .fns, .spdm, .tracer, .power, .free] A = true) : s0.agree A
    (surveyReadCmd bad o tag first count s) := by
  unfold surveyReadCmd
  try dsimp only
  repeat' (first
      | with_reducible assumption | (with_reducible intro _) | with_reducible apply reply_frame
      | with_reducible apply runCmd_frame | (with_reducible exact partsIn_trans (by decide) hw) | split)

theorem execSurveyRead_frame {A : List Part} {s0 : State} (o : Origin) (tag : BitVec 32) (first : BitVec 8)
    (count : BitVec 8) (s : State) (hs : s0.agree A s)
    (hw : partsIn [.out, .sb, .polders, .keys, .obj, .fns, .spdm, .tracer, .power, .free] A = true) : FrameOut A s0
    (execSurveyRead o tag first count s) := by
  unfold execSurveyRead
  try dsimp only
  repeat' (first
      | with_reducible exact frameOut_fault | (with_reducible apply frameOut_next)
      | (with_reducible refine frameOut_ite ?_ ?_) | with_reducible assumption | (with_reducible intro _)
      | with_reducible apply surveyReadCmd_frame | (with_reducible exact partsIn_trans (by decide) hw)
      | (dsimp only))

theorem firmwareStageCmd_frame {A : List Part} {s0 : State} (bad : Bool) (o : Origin) (tag : BitVec 32)
    (offset : BitVec 32) (data : Bytes) (s : State) (hs : s0.agree A s)
    (hw : partsIn [.out, .boot, .sb, .polders, .keys, .obj, .fns, .spdm, .tracer, .power, .free] A = true) :
    s0.agree A (firmwareStageCmd bad o tag offset data s) := by
  unfold firmwareStageCmd
  try dsimp only
  repeat' (first
      | with_reducible assumption | (with_reducible intro _) | with_reducible apply modBoot_frame
      | with_reducible apply reply_frame | with_reducible apply runCmd_frame
      | (with_reducible exact partsIn_trans (by decide) hw) | split)

theorem execFirmwareStage_frame {A : List Part} {s0 : State} (o : Origin) (tag : BitVec 32) (offset : BitVec 32)
    (data : Bytes) (s : State) (hs : s0.agree A s)
    (hw : partsIn [.out, .boot, .sb, .polders, .keys, .obj, .fns, .spdm, .tracer, .power, .free] A = true) :
    FrameOut A s0 (execFirmwareStage o tag offset data s) := by
  unfold execFirmwareStage
  try dsimp only
  repeat' (first
      | with_reducible exact frameOut_fault | (with_reducible apply frameOut_next)
      | (with_reducible refine frameOut_ite ?_ ?_) | with_reducible assumption | (with_reducible intro _)
      | with_reducible apply firmwareStageCmd_frame | (with_reducible exact partsIn_trans (by decide) hw)
      | (dsimp only))

theorem firmwareActivateCmd_frame {A : List Part} {s0 : State} (bad : Bool) (o : Origin) (tag : BitVec 32)
    (length : BitVec 32) (s : State) (hs : s0.agree A s)
    (hw : partsIn [.out, .boot, .sb, .polders, .keys, .obj, .fns, .spdm, .tracer, .power, .free] A = true) :
    s0.agree A (firmwareActivateCmd bad o tag length s) := by
  unfold firmwareActivateCmd
  try dsimp only
  repeat' (first
      | with_reducible assumption | (with_reducible intro _) | with_reducible apply finish_frame
      | with_reducible apply modBoot_frame | with_reducible apply pend_frame | with_reducible apply runCmd_frame
      | (with_reducible exact partsIn_trans (by decide) hw) | (with_reducible refine ite_frame ?_ ?_) | split)

theorem execFirmwareActivate_frame {A : List Part} {s0 : State} (o : Origin) (tag : BitVec 32) (length : BitVec 32)
    (s : State) (hs : s0.agree A s)
    (hw : partsIn [.out, .boot, .sb, .polders, .keys, .obj, .fns, .spdm, .tracer, .power, .free] A = true) :
    FrameOut A s0 (execFirmwareActivate o tag length s) := by
  unfold execFirmwareActivate
  try dsimp only
  repeat' (first
      | with_reducible exact frameOut_fault | (with_reducible apply frameOut_next)
      | (with_reducible refine frameOut_ite ?_ ?_) | with_reducible assumption | (with_reducible intro _)
      | with_reducible apply firmwareActivateCmd_frame | (with_reducible exact partsIn_trans (by decide) hw)
      | (dsimp only))

theorem firmwareCommitSvnCmd_frame {A : List Part} {s0 : State} (bad : Bool) (o : Origin) (tag : BitVec 32)
    (n : BitVec 32) (s : State) (hs : s0.agree A s)
    (hw : partsIn [.out, .fuses, .sb, .polders, .keys, .obj, .fns, .spdm, .tracer, .power, .free] A = true) :
    s0.agree A (firmwareCommitSvnCmd bad o tag n s) := by
  unfold firmwareCommitSvnCmd
  try dsimp only
  repeat' (first
      | with_reducible assumption | (with_reducible intro _) | with_reducible apply reply_frame
      | with_reducible apply runCmd_frame | (with_reducible exact partsIn_trans (by decide) hw) | split
      | (with_reducible refine agree_fuses ?_ ?_))

theorem execFirmwareCommitSvn_frame {A : List Part} {s0 : State} (o : Origin) (tag : BitVec 32) (n : BitVec 32)
    (s : State) (hs : s0.agree A s)
    (hw : partsIn [.out, .fuses, .sb, .polders, .keys, .obj, .fns, .spdm, .tracer, .power, .free] A = true) :
    FrameOut A s0 (execFirmwareCommitSvn o tag n s) := by
  unfold execFirmwareCommitSvn
  try dsimp only
  repeat' (first
      | with_reducible exact frameOut_fault | (with_reducible apply frameOut_next)
      | (with_reducible refine frameOut_ite ?_ ?_) | with_reducible assumption | (with_reducible intro _)
      | with_reducible apply firmwareCommitSvnCmd_frame | (with_reducible exact partsIn_trans (by decide) hw)
      | (dsimp only))

end Sys2Proof.Machine
end

