-- ==== Sys2Proof/Laws/FrameDatum.lean ====
section
/-! SUPPORT. Which parts of the state the operations of Machine/Datum.lean may change (State.agree). -/

namespace Sys2Proof.Machine

theorem modDatum_frame {A : List Part} {s0 : State} (f : DatumUnit → DatumUnit) (s : State) (hs : s0.agree A s)
    (hw : partsIn [.datum] A = true) : s0.agree A (modDatum f s) := by
  unfold modDatum
  try dsimp only
  repeat' (first
      | with_reducible assumption | (with_reducible exact partsIn_trans (by decide) hw)
      | (with_reducible refine agree_datum ?_ ?_))

theorem enterDatumState_frame {A : List Part} {s0 : State} (new : DatumState) (s : State) (hs : s0.agree A s)
    (hw : partsIn [.out, .sb, .datum, .polders, .obj, .fns, .tracer, .free] A = true) : s0.agree A
    (enterDatumState new s) := by
  unfold enterDatumState
  try dsimp only
  repeat' (first
      | with_reducible assumption | (with_reducible intro _) | with_reducible apply emitTrace_frame
      | with_reducible apply modDatum_frame | with_reducible apply writeFault_frame
      | (with_reducible exact partsIn_trans (by decide) hw) | (with_reducible refine ite_frame ?_ ?_) | split)

theorem applyExchange_frame {A : List Part} {s0 : State} (off : Int) (delay : Int) (upstreamLocked : Bool)
    (s : State) (hs : s0.agree A s)
    (hw : partsIn [.out, .sb, .datum, .polders, .obj, .fns, .tracer, .free] A = true) : s0.agree A
    (applyExchange off delay upstreamLocked s) := by
  unfold applyExchange
  try dsimp only
  repeat' (first
      | with_reducible assumption | (with_reducible intro _) | with_reducible apply enterDatumState_frame
      | with_reducible apply modDatum_frame | (with_reducible exact partsIn_trans (by decide) hw)
      | (with_reducible refine ite_frame ?_ ?_) | split)

theorem countLate_frame {A : List Part} {s0 : State} (m : Datum) (s : State) (hs : s0.agree A s)
    (hw : partsIn [.tracer] A = true) : s0.agree A (countLate m s) := by
  unfold countLate
  try dsimp only
  repeat' (first
      | with_reducible assumption | with_reducible apply count_frame
      | (with_reducible exact partsIn_trans (by decide) hw) | (with_reducible refine ite_frame ?_ ?_) | split)

theorem enqueueMark_frame {A : List Part} {s0 : State} (m : Datum) (a : MarkAction) (s : State) (hs : s0.agree A s)
    (hw : partsIn [.datum] A = true) : s0.agree A (enqueueMark m a s) := by
  unfold enqueueMark
  try dsimp only
  repeat' (first
      | with_reducible assumption | (with_reducible intro _) | with_reducible apply modDatum_frame
      | (with_reducible exact partsIn_trans (by decide) hw))

theorem dropMarks_frame {A : List Part} {s0 : State} (f : MarkAction → Bool) (s : State) (hs : s0.agree A s)
    (hw : partsIn [.datum] A = true) : s0.agree A (dropMarks f s) := by
  unfold dropMarks
  try dsimp only
  repeat' (first
      | with_reducible assumption | (with_reducible intro _) | with_reducible apply modDatum_frame
      | (with_reducible exact partsIn_trans (by decide) hw))

theorem execDatumExchange_frame {A : List Part} {s0 : State} (t1 : BitVec 64) (t2 : BitVec 64) (t3 : BitVec 64)
    (t4 : BitVec 64) (upstreamLocked : Bool) (s : State) (hs : s0.agree A s)
    (hw : partsIn [.out, .sb, .datum, .polders, .obj, .fns, .tracer, .free] A = true) : FrameOut A s0
    (execDatumExchange t1 t2 t3 t4 upstreamLocked s) := by
  unfold execDatumExchange
  try dsimp only
  repeat' (first
      | with_reducible exact frameOut_fault | (with_reducible apply frameOut_next)
      | (with_reducible refine frameOut_ite ?_ ?_) | with_reducible assumption | (with_reducible intro _)
      | with_reducible apply applyExchange_frame | (with_reducible exact partsIn_trans (by decide) hw)
      | (with_reducible refine ite_frame ?_ ?_) | split | (dsimp only))

theorem execDatumExchangeMissed_frame {A : List Part} {s0 : State} (s : State) (hs : s0.agree A s)
    (hw : partsIn [.out, .sb, .datum, .polders, .obj, .fns, .tracer, .free] A = true) : FrameOut A s0
    (execDatumExchangeMissed s) := by
  unfold execDatumExchangeMissed
  try dsimp only
  repeat' (first
      | with_reducible exact frameOut_fault | (with_reducible apply frameOut_next)
      | (with_reducible refine frameOut_ite ?_ ?_) | with_reducible assumption | (with_reducible intro _)
      | with_reducible apply enterDatumState_frame | with_reducible apply modDatum_frame
      | (with_reducible exact partsIn_trans (by decide) hw) | (with_reducible refine ite_frame ?_ ?_) | split
      | (dsimp only))

end Sys2Proof.Machine
end

