-- ==== Sys2Proof/Laws/FrameLink.lean ====
section
/-! SUPPORT. Which parts of the state the operations of Machine/Link.lean may change (State.agree). -/

namespace Sys2Proof.Machine

theorem sendNotice_frame {A : List Part} {s0 : State} (h : Header) (s : State) (hs : s0.agree A s)
    (hw : partsIn [.out, .free] A = true) : s0.agree A (sendNotice h s) := by
  unfold sendNotice
  try dsimp only
  repeat' (first
      | with_reducible assumption | with_reducible apply emit_frame | with_reducible apply tookFree_frame
      | (with_reducible exact partsIn_trans (by decide) hw))

theorem setTx_frame {A : List Part} {s0 : State} (t : TxStream) (s : State) (hs : s0.agree A s)
    (hw : partsIn [.link] A = true) : s0.agree A (setTx t s) := by
  unfold setTx
  try dsimp only
  repeat' (first
      | with_reducible assumption | (with_reducible exact partsIn_trans (by decide) hw)
      | (with_reducible refine agree_link ?_ ?_))

theorem streamExhausted_frame {A : List Part} {s0 : State} (p : PolderId) (d : Dest) (sid : BitVec 16) (s : State)
    (hs : s0.agree A s) (hw : partsIn [.out, .sb, .polders, .obj, .fns, .tracer, .free] A = true) : s0.agree A
    (streamExhausted p d sid s) := by
  unfold streamExhausted
  try dsimp only
  repeat' (first
      | with_reducible assumption | with_reducible apply writeFault_frame
      | (with_reducible exact partsIn_trans (by decide) hw) | (with_reducible refine ite_frame ?_ ?_) | split)

theorem openTx_frame {A : List Part} {s0 : State} (p : PolderId) (d : Dest) (cls : BitVec 4) (lane : Nat)
    (s : State) (hs : s0.agree A s)
    (hw : partsIn [.out, .sb, .polders, .link, .obj, .fns, .tracer, .free] A = true) : s0.agree A
    (openTx p d cls lane s).2 := by
  unfold openTx
  try dsimp only
  repeat' (first
      | with_reducible assumption | with_reducible apply streamExhausted_frame
      | with_reducible apply writeFault_frame | (with_reducible exact partsIn_trans (by decide) hw)
      | (with_reducible refine ite_frame ?_ ?_) | (with_reducible refine ite_pair_frame ?_ ?_)
      | (with_reducible refine ite_trip_frame ?_ ?_) | split | (with_reducible refine agree_link ?_ ?_)
      | (dsimp only))

theorem noteSent_frame {A : List Part} {s0 : State} (owner : TxOwner) (t : TxStream) (s : State) (hs : s0.agree A s)
    (hw : partsIn [.fau, .rings] A = true) : s0.agree A (noteSent owner t s) := by
  unfold noteSent
  try dsimp only
  repeat' (first
      | with_reducible assumption | (with_reducible intro _) | (with_reducible exact partsIn_trans (by decide) hw)
      | (with_reducible apply id_frame) | split | (with_reducible refine agree_fau ?_ ?_)
      | (with_reducible refine agree_rings ?_ ?_)
      | (with_reducible refine agree_upd (W := [.fau, .rings]) ?_ rfl (by intro p hp; cases p <;> (try exact absurd hp (by decide)) <;> exact rfl) ?_))

theorem takeSeq_frame {A : List Part} {s0 : State} (p : PolderId) (d : Dest) (s : State) (hs : s0.agree A s)
    (hw : partsIn [.fau] A = true) : s0.agree A (takeSeq p d s) := by
  unfold takeSeq
  try dsimp only
  repeat' (first
      | with_reducible assumption | (with_reducible intro _) | (with_reducible exact partsIn_trans (by decide) hw)
      | (with_reducible refine agree_fau ?_ ?_))

theorem askNext_frame {A : List Part} {s0 : State} (r : StreamRef) (p : PolderId) (epoch : BitVec 32) (s : State)
    (hs : s0.agree A s)
    (hw : partsIn [.out, .pins, .sb, .polders, .cad, .keys, .stack, .obj, .fns, .tracer, .power, .free] A = true) :
    s0.agree A (askNext r p epoch s).2 := by
  unfold askNext
  try dsimp only
  repeat' (first
      | with_reducible assumption | with_reducible apply needJob_frame | with_reducible apply needKey_frame
      | (with_reducible exact partsIn_trans (by decide) hw) | (with_reducible refine ite_pair_frame ?_ ?_)
      | (with_reducible refine ite_trip_frame ?_ ?_) | split
      | (refine frame_of_pair (by with_reducible assumption) ?_)
      | (refine frame_of_trip (by with_reducible assumption) ?_) | (dsimp only))

theorem sealPacket_frame {A : List Part} {s0 : State} (t : TxStream) (slice : BitVec 8) (key : Key256)
    (k : TxPacket) (s : State) (hs : s0.agree A s)
    (hw : partsIn [.out, .pins, .sb, .polders, .cad, .keys, .link, .stack, .fau, .rings, .obj, .fns, .tracer, .gauge, .power, .free] A = true) :
    s0.agree A (sealPacket t slice key k s) := by
  unfold sealPacket
  try dsimp only
  repeat' (first
      | with_reducible assumption | with_reducible apply askNext_frame | with_reducible apply count_frame
      | with_reducible apply countBy_frame | with_reducible apply emit_frame | with_reducible apply emitTrace_frame
      | with_reducible apply meter_frame | with_reducible apply noteSent_frame | with_reducible apply setTx_frame
      | with_reducible apply tookFree_frame | (with_reducible exact partsIn_trans (by decide) hw)
      | (with_reducible refine ite_frame ?_ ?_) | (with_reducible refine ite_pair_frame ?_ ?_)
      | (with_reducible refine ite_trip_frame ?_ ?_) | split | (dsimp only))

theorem requestTx_frame {A : List Part} {s0 : State} (t : TxStream) (s : State) (hs : s0.agree A s)
    (hw : partsIn [.out, .pins, .sb, .polders, .cad, .keys, .link, .stack, .obj, .fns, .tracer, .power, .free] A = true) :
    s0.agree A (requestTx t s) := by
  unfold requestTx
  try dsimp only
  repeat' (first
      | with_reducible assumption | with_reducible apply needJob_frame | with_reducible apply needKey_frame
      | with_reducible apply setTx_frame | (with_reducible exact partsIn_trans (by decide) hw)
      | (with_reducible refine ite_frame ?_ ?_) | (with_reducible refine ite_pair_frame ?_ ?_)
      | (with_reducible refine ite_trip_frame ?_ ?_) | split
      | (refine frame_of_pair (by with_reducible assumption) ?_)
      | (refine frame_of_trip (by with_reducible assumption) ?_) | (dsimp only))

theorem pumpTx_frame {A : List Part} {s0 : State} (p : PolderId) (d : Dest) (cls : BitVec 4) (lane : Nat) (a0 : Nat)
    (a1 : State) (hs : s0.agree A a1)
    (hw : partsIn [.out, .pins, .sb, .polders, .cad, .keys, .link, .stack, .fau, .rings, .obj, .fns, .tracer, .gauge, .power, .free] A = true) :
    s0.agree A (pumpTx p d cls lane a0 a1) := by
  induction a0 generalizing a1 with
  | zero => 
    unfold pumpTx
    try dsimp only
    repeat' (first
        | with_reducible assumption | (with_reducible intro _) | with_reducible apply requestTx_frame
        | with_reducible apply sealPacket_frame | with_reducible apply wakeAll_frame
        | (with_reducible exact partsIn_trans (by decide) hw) | (with_reducible refine ite_frame ?_ ?_)
        | (with_reducible refine ite_pair_frame ?_ ?_) | (with_reducible refine ite_trip_frame ?_ ?_) | split
        | (refine frame_of_pair (by with_reducible assumption) ?_)
        | (refine frame_of_trip (by with_reducible assumption) ?_) | (with_reducible refine agree_link ?_ ?_)
        | (dsimp only))
  | succ n ih => 
    unfold pumpTx
    try dsimp only
    repeat' (first
        | with_reducible assumption | (with_reducible intro _) | with_reducible apply requestTx_frame
        | with_reducible apply sealPacket_frame | with_reducible apply wakeAll_frame
        | (with_reducible exact partsIn_trans (by decide) hw) | with_reducible apply ih
        | (with_reducible refine ite_frame ?_ ?_) | (with_reducible refine ite_pair_frame ?_ ?_)
        | (with_reducible refine ite_trip_frame ?_ ?_) | split
        | (refine frame_of_pair (by with_reducible assumption) ?_)
        | (refine frame_of_trip (by with_reducible assumption) ?_) | (with_reducible refine agree_link ?_ ?_)
        | (dsimp only))

theorem streamFor_frame {A : List Part} {s0 : State} (k : TxPacket) (s : State) (hs : s0.agree A s)
    (hw : partsIn [.out, .pins, .sb, .polders, .cad, .keys, .link, .stack, .obj, .fns, .tracer, .power, .free] A = true) :
    s0.agree A (streamFor k s).2 := by
  unfold streamFor
  try dsimp only
  repeat' (first
      | with_reducible assumption | with_reducible apply needKey_frame | with_reducible apply openTx_frame
      | with_reducible apply streamExhausted_frame | (with_reducible exact partsIn_trans (by decide) hw)
      | (with_reducible refine ite_frame ?_ ?_) | (with_reducible refine ite_pair_frame ?_ ?_)
      | (with_reducible refine ite_trip_frame ?_ ?_) | split
      | (refine frame_of_pair (by with_reducible assumption) ?_)
      | (refine frame_of_trip (by with_reducible assumption) ?_) | (dsimp only))

theorem sendPacket_frame {A : List Part} {s0 : State} (k : TxPacket) (s : State) (hs : s0.agree A s)
    (hw : partsIn [.out, .pins, .sb, .polders, .cad, .keys, .link, .stack, .fau, .rings, .obj, .fns, .tracer, .gauge, .power, .free] A = true) :
    s0.agree A (sendPacket k s).2 := by
  unfold sendPacket
  try dsimp only
  repeat' (first
      | with_reducible assumption | with_reducible apply count_frame | with_reducible apply pumpTx_frame
      | with_reducible apply streamFor_frame | (with_reducible exact partsIn_trans (by decide) hw)
      | (with_reducible refine ite_frame ?_ ?_) | (with_reducible refine ite_pair_frame ?_ ?_)
      | (with_reducible refine ite_trip_frame ?_ ?_) | split
      | (refine frame_of_pair (by with_reducible assumption) ?_)
      | (refine frame_of_trip (by with_reducible assumption) ?_) | (with_reducible refine agree_link ?_ ?_)
      | (dsimp only))

theorem sendQuietly_frame {A : List Part} {s0 : State} (k : TxPacket) (s : State) (hs : s0.agree A s)
    (hw : partsIn [.out, .pins, .sb, .polders, .cad, .keys, .link, .stack, .fau, .rings, .obj, .fns, .tracer, .gauge, .power, .free] A = true) :
    s0.agree A (sendQuietly k s) := by
  unfold sendQuietly
  try dsimp only
  repeat' (first
      | with_reducible assumption | with_reducible apply sendPacket_frame
      | (with_reducible exact partsIn_trans (by decide) hw) | (with_reducible refine ite_pair_frame ?_ ?_)
      | (with_reducible refine ite_trip_frame ?_ ?_) | (dsimp only))

theorem sendCompletion_frame {A : List Part} {s0 : State} (r : Released) (st : Status) (flags : BitVec 6)
    (data : Bytes) (s : State) (hs : s0.agree A s)
    (hw : partsIn [.out, .pins, .sb, .polders, .cad, .keys, .link, .stack, .fau, .rings, .obj, .fns, .tracer, .gauge, .power, .free] A = true) :
    s0.agree A (sendCompletion r st flags data s) := by
  unfold sendCompletion
  try dsimp only
  repeat' (first
      | with_reducible assumption | with_reducible apply sendQuietly_frame
      | (with_reducible exact partsIn_trans (by decide) hw) | split)

theorem setRx_frame {A : List Part} {s0 : State} (r : RxStream) (s : State) (hs : s0.agree A s)
    (hw : partsIn [.link] A = true) : s0.agree A (setRx r s) := by
  unfold setRx
  try dsimp only
  repeat' (first
      | with_reducible assumption | (with_reducible intro _) | (with_reducible exact partsIn_trans (by decide) hw)
      | (with_reducible refine agree_link ?_ ?_))

theorem countPort_frame {A : List Part} {s0 : State} (malformed : Bool) (port : BitVec 8) (s : State) (hs :
    s0.agree A s) (hw : partsIn [.link] A = true) : s0.agree A (countPort malformed port s) := by
  unfold countPort
  try dsimp only
  repeat' (first
      | with_reducible assumption | (with_reducible exact partsIn_trans (by decide) hw)
      | (with_reducible refine ite_frame ?_ ?_) | split | (with_reducible refine agree_link ?_ ?_))

theorem authRecord_frame {A : List Part} {s0 : State} (port : BitVec 8) (h : Header) (folded : BitVec 32)
    (s : State) (hs : s0.agree A s) (hw : partsIn [.out, .sb, .polders, .obj, .fns, .tracer, .free] A = true) :
    s0.agree A (authRecord port h folded s) := by
  unfold authRecord
  try dsimp only
  repeat' (first
      | with_reducible assumption | with_reducible apply writeFault_frame
      | (with_reducible exact partsIn_trans (by decide) hw))

theorem authFailExisting_frame {A : List Part} {s0 : State} (port : BitVec 8) (h : Header) (r : RxStream)
    (s : State) (hs : s0.agree A s)
    (hw : partsIn [.out, .sb, .polders, .link, .obj, .fns, .tracer, .free] A = true) : s0.agree A
    (authFailExisting port h r s) := by
  unfold authFailExisting
  try dsimp only
  repeat' (first
      | with_reducible assumption | with_reducible apply authRecord_frame | with_reducible apply setRx_frame
      | (with_reducible exact partsIn_trans (by decide) hw) | (with_reducible refine ite_frame ?_ ?_) | split)

theorem authFailNew_frame {A : List Part} {s0 : State} (port : BitVec 8) (h : Header) (q : Polder) (s : State) (hs :
    s0.agree A s) (hw : partsIn [.out, .sb, .polders, .link, .obj, .fns, .tracer, .free] A = true) : s0.agree A
    (authFailNew port h q s) := by
  unfold authFailNew
  try dsimp only
  repeat' (first
      | with_reducible assumption | (with_reducible intro _) | with_reducible apply authRecord_frame
      | with_reducible apply modPolderCounters_frame | (with_reducible exact partsIn_trans (by decide) hw)
      | (with_reducible refine ite_frame ?_ ?_) | split | (with_reducible refine agree_link ?_ ?_))

theorem release_frame {A : List Part} {s0 : State} (port : BitVec 8) (h : Header) (inner : Inner) (payload : Bytes)
    (s : State) (hs : s0.agree A s) (hw : partsIn [.link, .tracer, .gauge, .free] A = true) : s0.agree A
    (release port h inner payload s) := by
  unfold release
  try dsimp only
  repeat' (first
      | with_reducible assumption | with_reducible apply count_frame | with_reducible apply countBy_frame
      | with_reducible apply emitTrace_frame | with_reducible apply meter_frame | with_reducible apply setRx_frame
      | (with_reducible exact partsIn_trans (by decide) hw) | (with_reducible refine ite_frame ?_ ?_) | split
      | (with_reducible refine agree_link ?_ ?_))

theorem dropGone_frame {A : List Part} {s0 : State} (h : Header) (q : Polder) (s : State) (hs : s0.agree A s)
    (hw : partsIn [.out, .polders, .free] A = true) : s0.agree A (dropGone h q s) := by
  unfold dropGone
  try dsimp only
  repeat' (first
      | with_reducible assumption | (with_reducible intro _) | with_reducible apply modPolderCounters_frame
      | with_reducible apply sendNotice_frame | (with_reducible exact partsIn_trans (by decide) hw))

theorem dropKeyless_frame {A : List Part} {s0 : State} (h : Header) (q : Polder) (s : State) (hs : s0.agree A s)
    (hw : partsIn [.out, .polders, .free] A = true) : s0.agree A (dropKeyless h q s) := by
  unfold dropKeyless
  try dsimp only
  repeat' (first
      | with_reducible assumption | (with_reducible intro _) | with_reducible apply dropGone_frame
      | with_reducible apply modPolderCounters_frame | (with_reducible exact partsIn_trans (by decide) hw)
      | (with_reducible refine ite_frame ?_ ?_) | split)

theorem afterTag_frame {A : List Part} {s0 : State} (port : BitVec 8) (b : Bytes) (h : Header) (q : Polder)
    (r : RxStream) (key : Key256) (s : State) (hs : s0.agree A s)
    (hw : partsIn [.out, .pins, .sb, .polders, .cad, .keys, .link, .stack, .fau, .rings, .obj, .fns, .tracer, .gauge, .power, .free] A = true) :
    s0.agree A (afterTag port b h q r key s) := by
  unfold afterTag
  try dsimp only
  repeat' (first
      | with_reducible assumption | (with_reducible intro _) | with_reducible apply askNext_frame
      | with_reducible apply dropGone_frame | with_reducible apply modPolderCounters_frame
      | with_reducible apply release_frame | with_reducible apply sendCompletion_frame
      | with_reducible apply setRx_frame | with_reducible apply writeFault_frame
      | (with_reducible exact partsIn_trans (by decide) hw) | (with_reducible refine ite_frame ?_ ?_)
      | (with_reducible refine ite_pair_frame ?_ ?_) | (with_reducible refine ite_trip_frame ?_ ?_) | split
      | (refine frame_of_pair (by with_reducible assumption) ?_)
      | (refine frame_of_trip (by with_reducible assumption) ?_) | (dsimp only))

theorem receiveExisting_frame {A : List Part} {s0 : State} (port : BitVec 8) (b : Bytes) (h : Header) (q : Polder)
    (r : RxStream) (s : State) (hs : s0.agree A s)
    (hw : partsIn [.out, .pins, .sb, .polders, .cad, .keys, .link, .stack, .fau, .rings, .obj, .fns, .tracer, .gauge, .power, .free] A = true) :
    s0.agree A (receiveExisting port b h q r s) := by
  unfold receiveExisting
  try dsimp only
  repeat' (first
      | with_reducible assumption | with_reducible apply afterTag_frame
      | with_reducible apply authFailExisting_frame | with_reducible apply dropKeyless_frame
      | with_reducible apply needJob_frame | with_reducible apply needKey_frame | with_reducible apply setRx_frame
      | (with_reducible exact partsIn_trans (by decide) hw) | (with_reducible refine ite_frame ?_ ?_)
      | (with_reducible refine ite_pair_frame ?_ ?_) | (with_reducible refine ite_trip_frame ?_ ?_) | split
      | (refine frame_of_pair (by with_reducible assumption) ?_)
      | (refine frame_of_trip (by with_reducible assumption) ?_) | (with_reducible refine agree_link ?_ ?_)
      | (dsimp only))

theorem receiveNew_frame {A : List Part} {s0 : State} (port : BitVec 8) (b : Bytes) (h : Header) (q : Polder)
    (derived : Bool) (s : State) (hs : s0.agree A s)
    (hw : partsIn [.out, .pins, .sb, .polders, .cad, .keys, .link, .stack, .fau, .rings, .obj, .fns, .tracer, .gauge, .power, .free] A = true) :
    s0.agree A (receiveNew port b h q derived s) := by
  unfold receiveNew
  try dsimp only
  repeat' (first
      | with_reducible assumption | (with_reducible intro _) | with_reducible apply afterTag_frame
      | with_reducible apply authFailNew_frame | with_reducible apply dropKeyless_frame
      | with_reducible apply modPolderCounters_frame | with_reducible apply needJob_frame
      | with_reducible apply needKey_frame | with_reducible apply writeFault_frame
      | (with_reducible exact partsIn_trans (by decide) hw) | (with_reducible refine ite_frame ?_ ?_)
      | (with_reducible refine ite_pair_frame ?_ ?_) | (with_reducible refine ite_trip_frame ?_ ?_) | split
      | (refine frame_of_pair (by with_reducible assumption) ?_)
      | (refine frame_of_trip (by with_reducible assumption) ?_) | (with_reducible refine agree_link ?_ ?_)
      | (dsimp only))

theorem receiveCached_frame {A : List Part} {s0 : State} (port : BitVec 8) (b : Bytes) (derived : Bool) (s : State)
    (hs : s0.agree A s)
    (hw : partsIn [.out, .pins, .sb, .polders, .cad, .keys, .link, .stack, .fau, .rings, .obj, .fns, .tracer, .gauge, .power, .free] A = true) :
    s0.agree A (receiveCached port b derived s) := by
  unfold receiveCached
  try dsimp only
  repeat' (first
      | with_reducible assumption | with_reducible apply countPort_frame
      | with_reducible apply receiveExisting_frame | with_reducible apply receiveNew_frame
      | with_reducible apply sendNotice_frame | (with_reducible exact partsIn_trans (by decide) hw) | split)

theorem receivePacket_frame {A : List Part} {s0 : State} (port : BitVec 8) (b : Bytes) (s : State) (hs :
    s0.agree A s)
    (hw : partsIn [.out, .pins, .sb, .polders, .cad, .keys, .link, .stack, .fau, .rings, .obj, .fns, .tracer, .gauge, .power, .free] A = true) :
    s0.agree A (receivePacket port b s) := by
  unfold receivePacket
  try dsimp only
  repeat' (first
      | with_reducible assumption | (with_reducible intro _) | with_reducible apply count_frame
      | with_reducible apply countPort_frame | with_reducible apply modPolderCounters_frame
      | with_reducible apply receiveCached_frame | with_reducible apply sendNotice_frame
      | (with_reducible exact partsIn_trans (by decide) hw) | (with_reducible refine ite_frame ?_ ?_) | split
      | (with_reducible refine agree_link ?_ ?_))

theorem retryRx_frame {A : List Part} {s0 : State} (r : StreamRef) (derived : Bool) (s : State) (hs : s0.agree A s)
    (hw : partsIn [.out, .pins, .sb, .polders, .cad, .keys, .link, .stack, .fau, .rings, .obj, .fns, .tracer, .gauge, .power, .free] A = true) :
    s0.agree A (retryRx r derived s) := by
  unfold retryRx
  try dsimp only
  repeat' (first
      | with_reducible assumption | (with_reducible intro _) | with_reducible apply receiveCached_frame
      | with_reducible apply withDomain_frame | (with_reducible exact partsIn_trans (by decide) hw)
      | (with_reducible apply foldl_frame) | (with_reducible refine ite_frame ?_ ?_) | split
      | (with_reducible refine agree_link ?_ ?_) | (dsimp only))

theorem arrivePacket_frame {A : List Part} {s0 : State} (port : BitVec 8) (b : Bytes) (s : State) (hs :
    s0.agree A s)
    (hw : partsIn [.out, .pins, .sb, .polders, .cad, .keys, .link, .stack, .fau, .rings, .obj, .fns, .tracer, .gauge, .power, .free] A = true) :
    s0.agree A (arrivePacket port b s) := by
  unfold arrivePacket
  try dsimp only
  repeat' (first
      | with_reducible assumption | (with_reducible intro _) | with_reducible apply receivePacket_frame
      | (with_reducible exact partsIn_trans (by decide) hw) | (with_reducible refine ite_frame ?_ ?_) | split
      | (with_reducible refine agree_link ?_ ?_))

theorem pumpRxPort_frame {A : List Part} {s0 : State} (port : BitVec 8) (a0 : Nat) (a1 : State) (hs : s0.agree A a1)
    (hw : partsIn [.out, .pins, .sb, .polders, .cad, .keys, .link, .stack, .fau, .rings, .obj, .fns, .tracer, .gauge, .power, .free] A = true) :
    s0.agree A (pumpRxPort port a0 a1) := by
  induction a0 generalizing a1 with
  | zero => 
    unfold pumpRxPort
    try dsimp only
    repeat' (first
        | with_reducible assumption | (with_reducible intro _) | with_reducible apply receivePacket_frame
        | (with_reducible exact partsIn_trans (by decide) hw) | (with_reducible refine ite_frame ?_ ?_)
        | (with_reducible refine ite_pair_frame ?_ ?_) | (with_reducible refine ite_trip_frame ?_ ?_) | split
        | (refine frame_of_pair (by with_reducible assumption) ?_)
        | (refine frame_of_trip (by with_reducible assumption) ?_) | (with_reducible refine agree_link ?_ ?_)
        | (dsimp only))
  | succ n ih => 
    unfold pumpRxPort
    try dsimp only
    repeat' (first
        | with_reducible assumption | (with_reducible intro _) | with_reducible apply receivePacket_frame
        | (with_reducible exact partsIn_trans (by decide) hw) | with_reducible apply ih
        | (with_reducible refine ite_frame ?_ ?_) | (with_reducible refine ite_pair_frame ?_ ?_)
        | (with_reducible refine ite_trip_frame ?_ ?_) | split
        | (refine frame_of_pair (by with_reducible assumption) ?_)
        | (refine frame_of_trip (by with_reducible assumption) ?_) | (with_reducible refine agree_link ?_ ?_)
        | (dsimp only))

theorem pumpRxPorts_frame {A : List Part} {s0 : State} (s : State) (hs : s0.agree A s)
    (hw : partsIn [.out, .pins, .sb, .polders, .cad, .keys, .link, .stack, .fau, .rings, .obj, .fns, .tracer, .gauge, .power, .free] A = true) :
    s0.agree A (pumpRxPorts s) := by
  unfold pumpRxPorts
  try dsimp only
  repeat' (first
      | with_reducible assumption | (with_reducible intro _) | with_reducible apply pumpRxPort_frame
      | (with_reducible exact partsIn_trans (by decide) hw) | (with_reducible apply foldl_frame)
      | (with_reducible apply foldl_pair_frame) | (with_reducible apply foldl_trip_frame)
      | (with_reducible refine ite_pair_frame ?_ ?_) | (with_reducible refine ite_trip_frame ?_ ?_) | (dsimp only))

end Sys2Proof.Machine
end

