-- ==== Sys2Proof/Laws/FrameObjects.lean ====
section
/-! SUPPORT. Which parts of the state the operations of Machine/Objects.lean may change (State.agree). -/

namespace Sys2Proof.Machine

theorem profReset_frame {A : List Part} {s0 : State} (n : BitVec 6) (s : State) (hs : s0.agree A s)
    (hw : partsIn [.tracer] A = true) : s0.agree A (profReset n s) := by
  unfold profReset
  try dsimp only
  repeat' (first
      | with_reducible assumption | (with_reducible intro _) | (with_reducible exact partsIn_trans (by decide) hw)
      | (with_reducible refine ite_frame ?_ ?_) | split | (with_reducible refine agree_tracer ?_ ?_))

theorem profResetQueue_frame {A : List Part} {s0 : State} (q : BitVec 8) (scope : Bool) (s : State) (hs :
    s0.agree A s) (hw : partsIn [.tracer] A = true) : s0.agree A (profResetQueue q scope s) := by
  unfold profResetQueue
  try dsimp only
  repeat' (first
      | with_reducible assumption | (with_reducible intro _) | with_reducible apply profReset_frame
      | (with_reducible exact partsIn_trans (by decide) hw) | (with_reducible apply foldl_frame) | (dsimp only))

theorem profAdd_frame {A : List Part} {s0 : State} (q : BitVec 8) (bytes : Nat) (ops : Nat) (s : State) (hs :
    s0.agree A s) (hw : partsIn [.tracer] A = true) : s0.agree A (profAdd q bytes ops s) := by
  unfold profAdd
  try dsimp only
  repeat' (first
      | with_reducible assumption | (with_reducible intro _) | (with_reducible exact partsIn_trans (by decide) hw)
      | (with_reducible refine agree_tracer ?_ ?_))

theorem settleQueue_frame {A : List Part} {s0 : State} (q : BitVec 8) (s : State) (hs : s0.agree A s)
    (hw : partsIn [.out, .obj, .fns, .tracer] A = true) : s0.agree A (settleQueue q s) := by
  unfold settleQueue
  try dsimp only
  repeat' (first
      | with_reducible assumption | (with_reducible intro _) | with_reducible apply finishAll_frame
      | (with_reducible exact partsIn_trans (by decide) hw) | (with_reducible refine ite_frame ?_ ?_) | split
      | (with_reducible refine agree_obj ?_ ?_))

theorem endDescriptor_frame {A : List Part} {s0 : State} (q : BitVec 8) (idx : BitVec 12) (st : Status)
    (result : BitVec 64) (flags : BitVec 6) (s : State) (hs : s0.agree A s)
    (hw : partsIn [.out, .obj, .fns, .tracer, .free] A = true) : s0.agree A
    (endDescriptor q idx st result flags s) := by
  unfold endDescriptor
  try dsimp only
  repeat' (first
      | with_reducible assumption | (with_reducible intro _) | with_reducible apply emitTrace_frame
      | with_reducible apply modQueue_frame | with_reducible apply postEvent_frame
      | with_reducible apply settleQueue_frame | (with_reducible exact partsIn_trans (by decide) hw) | split)

theorem endUnstarted_frame {A : List Part} {s0 : State} (x : Queue) (idx : BitVec 12) (ctag : BitVec 16)
    (st : Status) (s : State) (hs : s0.agree A s) (hw : partsIn [.out, .obj, .fns, .tracer] A = true) : s0.agree A
    (endUnstarted x idx ctag st s) := by
  unfold endUnstarted
  try dsimp only
  repeat' (first
      | with_reducible assumption | with_reducible apply postEvent_frame
      | (with_reducible exact partsIn_trans (by decide) hw))

theorem beginDescriptor_frame {A : List Part} {s0 : State} (q : BitVec 8) (idx : BitVec 12) (s : State) (hs :
    s0.agree A s) (hw : partsIn [.obj] A = true) : s0.agree A (beginDescriptor q idx s) := by
  unfold beginDescriptor
  try dsimp only
  repeat' (first
      | with_reducible assumption | (with_reducible intro _) | with_reducible apply modQueue_frame
      | (with_reducible exact partsIn_trans (by decide) hw) | (with_reducible refine ite_frame ?_ ?_) | split)

theorem modFence_frame {A : List Part} {s0 : State} (f : BitVec 14) (g : FenceObj → FenceObj) (s : State) (hs :
    s0.agree A s) (hw : partsIn [.obj] A = true) : s0.agree A (modFence f g s) := by
  unfold modFence
  try dsimp only
  repeat' (first
      | with_reducible assumption | (with_reducible intro _) | (with_reducible exact partsIn_trans (by decide) hw)
      | (with_reducible refine agree_obj ?_ ?_))

theorem raiseFence_frame {A : List Part} {s0 : State} (f : BitVec 14) (v : BitVec 64) (s : State) (hs :
    s0.agree A s) (hw : partsIn [.out, .obj, .fns, .tracer, .free] A = true) : s0.agree A (raiseFence f v s) := by
  unfold raiseFence
  try dsimp only
  repeat' (first
      | with_reducible assumption | (with_reducible intro _) | with_reducible apply endDescriptor_frame
      | with_reducible apply modFence_frame | (with_reducible exact partsIn_trans (by decide) hw)
      | (with_reducible apply foldl_frame) | split | (dsimp only))

theorem abandonFence_frame {A : List Part} {s0 : State} (f : BitVec 14) (s : State) (hs : s0.agree A s)
    (hw : partsIn [.out, .obj, .fns, .tracer, .free] A = true) : s0.agree A (abandonFence f s) := by
  unfold abandonFence
  try dsimp only
  repeat' (first
      | with_reducible assumption | (with_reducible intro _) | with_reducible apply endDescriptor_frame
      | with_reducible apply postEvent_frame | (with_reducible exact partsIn_trans (by decide) hw)
      | (with_reducible apply foldl_frame) | split | (with_reducible refine agree_obj ?_ ?_) | (dsimp only))

theorem dropShares_frame {A : List Part} {s0 : State} (c : CtxId) (s : State) (hs : s0.agree A s)
    (hw : partsIn [.out, .obj, .fns, .tracer, .free] A = true) : s0.agree A (dropShares c s) := by
  unfold dropShares
  try dsimp only
  repeat' (first
      | with_reducible assumption | (with_reducible intro _) | with_reducible apply endDescriptor_frame
      | with_reducible apply modFence_frame | (with_reducible exact partsIn_trans (by decide) hw)
      | (with_reducible apply foldl_frame) | (with_reducible refine ite_frame ?_ ?_) | split | (dsimp only))

theorem scaAnswer_frame {A : List Part} {s0 : State} (core : BitVec 9) (st : Status) (v : BitVec 32) (s : State)
    (hs : s0.agree A s) (hw : partsIn [.out] A = true) : s0.agree A (scaAnswer core st v s) := by
  unfold scaAnswer
  try dsimp only
  repeat' (first
      | with_reducible assumption | with_reducible apply emit_frame
      | (with_reducible exact partsIn_trans (by decide) hw))

theorem answerWait_frame {A : List Part} {s0 : State} (before : State) (w : SyncWait) (st : Status) (v : BitVec 32)
    (s : State) (hs : s0.agree A before) (hs1 : s0.agree A s) (hw : partsIn [.out, .sca] A = true) : s0.agree A
    (answerWait before w st v s) := by
  unfold answerWait
  try dsimp only
  repeat' (first
      | with_reducible assumption | with_reducible apply scaAnswer_frame
      | (with_reducible exact partsIn_trans (by decide) hw) | (with_reducible refine ite_frame ?_ ?_) | split
      | (with_reducible refine agree_sca ?_ ?_))

theorem endWaits_frame {A : List Part} {s0 : State} (c : Context) (s : State) (hs : s0.agree A s)
    (hw : partsIn [.out, .sca] A = true) : s0.agree A (endWaits c s) := by
  unfold endWaits
  try dsimp only
  repeat' (first
      | with_reducible assumption | (with_reducible intro _) | with_reducible apply answerWait_frame
      | (with_reducible exact partsIn_trans (by decide) hw) | (with_reducible apply foldl_frame) | split
      | (with_reducible refine agree_sca ?_ ?_) | (dsimp only))

theorem stopContext_frame {A : List Part} {s0 : State} (c : CtxId) (s : State) (hs : s0.agree A s)
    (hw : partsIn [.out, .sca, .obj] A = true) : s0.agree A (stopContext c s) := by
  unfold stopContext
  try dsimp only
  repeat' (first
      | with_reducible assumption | (with_reducible intro _) | with_reducible apply endWaits_frame
      | with_reducible apply modContext_frame | (with_reducible exact partsIn_trans (by decide) hw)
      | (with_reducible refine ite_frame ?_ ?_) | split | (with_reducible refine agree_obj ?_ ?_))

theorem setSync_frame {A : List Part} {s0 : State} (core : BitVec 9) (i : BitVec 6) (v : BitVec 32) (s : State)
    (hs : s0.agree A s) (hw : partsIn [.sca] A = true) : s0.agree A (setSync core i v s) := by
  unfold setSync
  try dsimp only
  repeat' (first
      | with_reducible assumption | (with_reducible exact partsIn_trans (by decide) hw)
      | (with_reducible refine ite_frame ?_ ?_) | split | (with_reducible refine agree_sca ?_ ?_))

theorem zeroSync_frame {A : List Part} {s0 : State} (cores : BitVec 512) (s : State) (hs : s0.agree A s)
    (hw : partsIn [.sca] A = true) : s0.agree A (zeroSync cores s) := by
  unfold zeroSync
  try dsimp only
  repeat' (first
      | with_reducible assumption | (with_reducible intro _) | (with_reducible exact partsIn_trans (by decide) hw)
      | (with_reducible refine agree_sca ?_ ?_))

theorem examineWaits_frame {A : List Part} {s0 : State} (core : BitVec 9) (i : BitVec 6) (a0 : Nat) (a1 : Nat)
    (a2 : State) (hs : s0.agree A a2) (hw : partsIn [.out, .sca] A = true) : s0.agree A
    (examineWaits core i a0 a1 a2) := by
  induction a0 generalizing a1 a2 with
  | zero => 
    unfold examineWaits
    try dsimp only
    repeat' (first
        | with_reducible assumption | (with_reducible intro _) | with_reducible apply answerWait_frame
        | with_reducible apply setSync_frame | (with_reducible exact partsIn_trans (by decide) hw)
        | (with_reducible refine ite_frame ?_ ?_) | (with_reducible refine ite_pair_frame ?_ ?_)
        | (with_reducible refine ite_trip_frame ?_ ?_) | split
        | (refine frame_of_pair (by with_reducible assumption) ?_)
        | (refine frame_of_trip (by with_reducible assumption) ?_) | (with_reducible refine agree_sca ?_ ?_)
        | (dsimp only))
  | succ n ih => 
    unfold examineWaits
    try dsimp only
    repeat' (first
        | with_reducible assumption | (with_reducible intro _) | with_reducible apply answerWait_frame
        | with_reducible apply setSync_frame | (with_reducible exact partsIn_trans (by decide) hw)
        | with_reducible apply ih | (with_reducible refine ite_frame ?_ ?_)
        | (with_reducible refine ite_pair_frame ?_ ?_) | (with_reducible refine ite_trip_frame ?_ ?_) | split
        | (refine frame_of_pair (by with_reducible assumption) ?_)
        | (refine frame_of_trip (by with_reducible assumption) ?_) | (with_reducible refine agree_sca ?_ ?_)
        | (dsimp only))

theorem changeSync_frame {A : List Part} {s0 : State} (core : BitVec 9) (i : BitVec 6) (v : BitVec 32) (s : State)
    (hs : s0.agree A s) (hw : partsIn [.out, .sca] A = true) : s0.agree A (changeSync core i v s) := by
  unfold changeSync
  try dsimp only
  repeat' (first
      | with_reducible assumption | with_reducible apply examineWaits_frame | with_reducible apply setSync_frame
      | (with_reducible exact partsIn_trans (by decide) hw) | (with_reducible refine ite_pair_frame ?_ ?_)
      | (with_reducible refine ite_trip_frame ?_ ?_) | (dsimp only))

theorem syncFault_frame {A : List Part} {s0 : State} (core : BitVec 9) (i : BitVec 6) (operand : BitVec 32)
    (st : Status) (peer : Option InstId) (seq : BitVec 32) (s : State) (hs : s0.agree A s)
    (hw : partsIn [.out, .sb, .polders, .sca, .obj, .fns, .tracer, .free] A = true) : s0.agree A
    (syncFault core i operand st peer seq s) := by
  unfold syncFault
  try dsimp only
  repeat' (first
      | with_reducible assumption | with_reducible apply stopContext_frame | with_reducible apply writeFault_frame
      | (with_reducible exact partsIn_trans (by decide) hw) | split)

end Sys2Proof.Machine
end

