-- ==== Sys2Proof/Laws/FrameStack.lean ====
section
/-! SUPPORT. Which parts of the state the operations of Machine/Stack.lean may change (State.agree). -/

namespace Sys2Proof.Machine

theorem setPlot_frame {A : List Part} {s0 : State} (p : BitVec 16) (e : BitVec 64) (s : State) (hs : s0.agree A s)
    (hw : partsIn [.stack] A = true) : s0.agree A (setPlot p e s) := by
  unfold setPlot
  try dsimp only
  repeat' (first
      | with_reducible assumption | (with_reducible exact partsIn_trans (by decide) hw)
      | (with_reducible refine ite_frame ?_ ?_) | split | (with_reducible refine agree_stack ?_ ?_))

theorem stackWrite_frame {A : List Part} {s0 : State} (key : Key512) (addr : Nat) (b : Bytes) (s : State) (hs :
    s0.agree A s) (hw : partsIn [.stack] A = true) : s0.agree A (stackWrite key addr b s) := by
  unfold stackWrite
  try dsimp only
  repeat' (first
      | with_reducible assumption | (with_reducible intro _) | (with_reducible exact partsIn_trans (by decide) hw)
      | (with_reducible refine agree_stack ?_ ?_))

theorem stackAnswer_frame {A : List Part} {s0 : State} (r : StackReq) (st : Status) (data : Bytes) (s : State) (hs :
    s0.agree A s) (hw : partsIn [.out] A = true) : s0.agree A (stackAnswer r st data s) := by
  unfold stackAnswer
  try dsimp only
  repeat' (first
      | with_reducible assumption | with_reducible apply emit_frame
      | (with_reducible exact partsIn_trans (by decide) hw))

theorem stackRefuse_frame {A : List Part} {s0 : State} (r : StackReq) (check : Nat) (st : Status) (s : State) (hs :
    s0.agree A s) (hw : partsIn [.out, .sb, .polders, .obj, .fns, .tracer, .free] A = true) : s0.agree A
    (stackRefuse r check st s) := by
  unfold stackRefuse
  try dsimp only
  repeat' (first
      | with_reducible assumption | with_reducible apply stackAnswer_frame | with_reducible apply writeFault_frame
      | (with_reducible exact partsIn_trans (by decide) hw) | (with_reducible refine ite_frame ?_ ?_) | split)

theorem keepCopy_frame {A : List Part} {s0 : State} (slice : Nat) (p : PolderId) (s : State) (hs : s0.agree A s)
    (hw : partsIn [.stack] A = true) : s0.agree A (keepCopy slice p s) := by
  unfold keepCopy
  try dsimp only
  repeat' (first
      | with_reducible assumption | (with_reducible exact partsIn_trans (by decide) hw)
      | (with_reducible refine agree_stack ?_ ?_))

theorem reloadCopies_frame {A : List Part} {s0 : State} (slice : Nat) (s : State) (hs : s0.agree A s)
    (hw : partsIn [.out, .sb, .polders, .cad, .keys, .stack, .obj, .fns, .tracer, .free] A = true) : s0.agree A
    (reloadCopies slice s) := by
  unfold reloadCopies
  try dsimp only
  repeat' (first
      | with_reducible assumption | (with_reducible intro _) | with_reducible apply keepCopy_frame
      | with_reducible apply markSlotBad_frame | (with_reducible exact partsIn_trans (by decide) hw)
      | (with_reducible apply foldl_frame) | (with_reducible refine ite_frame ?_ ?_) | split | (dsimp only))

theorem dropCopies_frame {A : List Part} {s0 : State} (slice : Nat) (s : State) (hs : s0.agree A s)
    (hw : partsIn [.stack] A = true) : s0.agree A (dropCopies slice s) := by
  unfold dropCopies
  try dsimp only
  repeat' (first
      | with_reducible assumption | (with_reducible intro _) | (with_reducible exact partsIn_trans (by decide) hw)
      | (with_reducible refine agree_stack ?_ ?_))

theorem performWrite_frame {A : List Part} {s0 : State} (w : StackWait) (stored : Bytes) (s : State) (hs :
    s0.agree A s) (hw : partsIn [.out, .stack, .tracer, .gauge] A = true) : s0.agree A
    (performWrite w stored s) := by
  unfold performWrite
  try dsimp only
  repeat' (first
      | with_reducible assumption | (with_reducible intro _) | with_reducible apply count_frame
      | with_reducible apply countBy_frame | with_reducible apply meter_frame
      | with_reducible apply stackAnswer_frame | with_reducible apply stackWrite_frame
      | (with_reducible exact partsIn_trans (by decide) hw) | (with_reducible apply foldl_frame)
      | (with_reducible refine ite_frame ?_ ?_) | split | (dsimp only))

theorem stackCount_frame {A : List Part} {s0 : State} (p : PolderId) (addr : Nat) (len : Nat) (write : Bool)
    (s : State) (hs : s0.agree A s) (hw : partsIn [.tracer, .gauge] A = true) : s0.agree A
    (stackCount p addr len write s) := by
  unfold stackCount
  try dsimp only
  repeat' (first
      | with_reducible assumption | (with_reducible intro _) | with_reducible apply count_frame
      | with_reducible apply countBy_frame | with_reducible apply meter_frame
      | (with_reducible exact partsIn_trans (by decide) hw) | (with_reducible apply foldl_frame)
      | (with_reducible refine ite_frame ?_ ?_) | split | (dsimp only))

theorem stackPerform_frame {A : List Part} {s0 : State} (w : StackWait) (s : State) (hs : s0.agree A s)
    (hw : partsIn [.out, .stack, .tracer, .gauge] A = true) : s0.agree A (stackPerform w s) := by
  unfold stackPerform
  try dsimp only
  repeat' (first
      | with_reducible assumption | with_reducible apply count_frame | with_reducible apply keepCopy_frame
      | with_reducible apply performWrite_frame | (with_reducible exact partsIn_trans (by decide) hw)
      | (with_reducible refine ite_frame ?_ ?_) | split | (with_reducible refine agree_stack ?_ ?_))

theorem holdAccess_frame {A : List Part} {s0 : State} (w : StackWait) (s : State) (hs : s0.agree A s)
    (hw : partsIn [.stack] A = true) : s0.agree A (holdAccess w s) := by
  unfold holdAccess
  try dsimp only
  repeat' (first
      | with_reducible assumption | (with_reducible exact partsIn_trans (by decide) hw)
      | (with_reducible refine agree_stack ?_ ?_))

theorem pathHolds_frame {A : List Part} {s0 : State} (w : StackWait) (s : State) (hs : s0.agree A s)
    (hw : partsIn [.pins, .tracer, .power] A = true) : s0.agree A (pathHolds w s).2 := by
  unfold pathHolds
  try dsimp only
  repeat' (first
      | with_reducible assumption | with_reducible apply wakeAll_frame
      | (with_reducible exact partsIn_trans (by decide) hw) | (with_reducible refine ite_pair_frame ?_ ?_)
      | (with_reducible refine ite_trip_frame ?_ ?_) | split
      | (refine frame_of_pair (by with_reducible assumption) ?_)
      | (refine frame_of_trip (by with_reducible assumption) ?_) | (dsimp only))

theorem stackProceed_frame {A : List Part} {s0 : State} (w : StackWait) (s : State) (hs : s0.agree A s)
    (hw : partsIn [.out, .pins, .sb, .polders, .cad, .keys, .stack, .obj, .fns, .tracer, .gauge, .power, .free] A = true) :
    s0.agree A (stackProceed w s) := by
  unfold stackProceed
  try dsimp only
  repeat' (first
      | with_reducible assumption | with_reducible apply count_frame | with_reducible apply holdAccess_frame
      | with_reducible apply needKey_frame | with_reducible apply pathHolds_frame
      | with_reducible apply stackAnswer_frame | with_reducible apply stackPerform_frame
      | (with_reducible exact partsIn_trans (by decide) hw) | (with_reducible refine ite_frame ?_ ?_)
      | (with_reducible refine ite_pair_frame ?_ ?_) | (with_reducible refine ite_trip_frame ?_ ?_) | split
      | (refine frame_of_pair (by with_reducible assumption) ?_)
      | (refine frame_of_trip (by with_reducible assumption) ?_) | (with_reducible refine agree_stack ?_ ?_)
      | (dsimp only))

theorem wakeSlices_frame {A : List Part} {s0 : State} (l : List Lookup) (s : State) (hs : s0.agree A s)
    (hw : partsIn [.pins, .tracer, .power] A = true) : s0.agree A (wakeSlices l s).2 := by
  unfold wakeSlices
  try dsimp only
  repeat' (first
      | with_reducible assumption | (with_reducible intro _) | with_reducible apply wakeAll_frame
      | (with_reducible exact partsIn_trans (by decide) hw) | (with_reducible refine ite_pair_frame ?_ ?_)
      | (with_reducible refine ite_trip_frame ?_ ?_) | split
      | (refine frame_of_pair (by with_reducible assumption) ?_)
      | (refine frame_of_trip (by with_reducible assumption) ?_) | (dsimp only))

theorem rangeUse_frame {A : List Part} {s0 : State} (p : PolderId) (write : Bool) (l : List Lookup) (s : State)
    (hs : s0.agree A s)
    (hw : partsIn [.out, .pins, .sb, .polders, .cad, .keys, .stack, .obj, .fns, .tracer, .power, .free] A = true) :
    s0.agree A (rangeUse p write l s).2 := by
  unfold rangeUse
  try dsimp only
  repeat' (first
      | with_reducible assumption | (with_reducible intro _) | with_reducible apply needKey_frame
      | with_reducible apply wakeSlices_frame | (with_reducible exact partsIn_trans (by decide) hw)
      | (with_reducible refine ite_frame ?_ ?_) | (with_reducible refine ite_pair_frame ?_ ?_)
      | (with_reducible refine ite_trip_frame ?_ ?_) | split
      | (refine frame_of_pair (by with_reducible assumption) ?_)
      | (refine frame_of_trip (by with_reducible assumption) ?_) | (dsimp only))

theorem releaseHeld_frame {A : List Part} {s0 : State} (u : Nat) (a0 : Nat) (a1 : State) (hs : s0.agree A a1)
    (hw : partsIn [.out, .pins, .sb, .polders, .cad, .keys, .stack, .obj, .fns, .tracer, .gauge, .power, .free] A = true) :
    s0.agree A (releaseHeld u a0 a1) := by
  induction a0 generalizing a1 with
  | zero => 
    unfold releaseHeld
    try dsimp only
    repeat' (first
        | with_reducible assumption | (with_reducible intro _) | with_reducible apply pathHolds_frame
        | with_reducible apply stackProceed_frame | (with_reducible exact partsIn_trans (by decide) hw)
        | (with_reducible refine ite_frame ?_ ?_) | (with_reducible refine ite_pair_frame ?_ ?_)
        | (with_reducible refine ite_trip_frame ?_ ?_) | split
        | (refine frame_of_pair (by with_reducible assumption) ?_)
        | (refine frame_of_trip (by with_reducible assumption) ?_) | (with_reducible refine agree_stack ?_ ?_)
        | (dsimp only))
  | succ n ih => 
    unfold releaseHeld
    try dsimp only
    repeat' (first
        | with_reducible assumption | (with_reducible intro _) | with_reducible apply pathHolds_frame
        | with_reducible apply stackProceed_frame | (with_reducible exact partsIn_trans (by decide) hw)
        | with_reducible apply ih | (with_reducible refine ite_frame ?_ ?_)
        | (with_reducible refine ite_pair_frame ?_ ?_) | (with_reducible refine ite_trip_frame ?_ ?_) | split
        | (refine frame_of_pair (by with_reducible assumption) ?_)
        | (refine frame_of_trip (by with_reducible assumption) ?_) | (with_reducible refine agree_stack ?_ ?_)
        | (dsimp only))

theorem resumeHeld_frame {A : List Part} {s0 : State} (s : State) (hs : s0.agree A s)
    (hw : partsIn [.out, .pins, .sb, .polders, .cad, .keys, .stack, .obj, .fns, .tracer, .gauge, .power, .free] A = true) :
    s0.agree A (resumeHeld s) := by
  unfold resumeHeld
  try dsimp only
  repeat' (first
      | with_reducible assumption | (with_reducible intro _) | with_reducible apply releaseHeld_frame
      | (with_reducible exact partsIn_trans (by decide) hw) | (with_reducible apply foldl_frame)
      | (with_reducible apply foldl_pair_frame) | (with_reducible apply foldl_trip_frame)
      | (with_reducible refine ite_pair_frame ?_ ?_) | (with_reducible refine ite_trip_frame ?_ ?_) | (dsimp only))

theorem stackStart_frame {A : List Part} {s0 : State} (w : StackWait) (s : State) (hs : s0.agree A s)
    (hw : partsIn [.out, .pins, .sb, .polders, .cad, .keys, .stack, .obj, .fns, .tracer, .gauge, .power, .free] A = true) :
    s0.agree A (stackStart w s) := by
  unfold stackStart
  try dsimp only
  repeat' (first
      | with_reducible assumption | (with_reducible intro _) | with_reducible apply holdAccess_frame
      | with_reducible apply stackProceed_frame | (with_reducible exact partsIn_trans (by decide) hw)
      | (with_reducible refine ite_frame ?_ ?_) | split | (with_reducible refine agree_stack ?_ ?_))

theorem restart_frame {A : List Part} {s0 : State} (ws : List StackWait) (s : State) (hs : s0.agree A s)
    (hw : partsIn [.out, .pins, .sb, .polders, .cad, .keys, .stack, .obj, .fns, .tracer, .gauge, .power, .free] A = true) :
    s0.agree A (restart ws s) := by
  unfold restart
  try dsimp only
  repeat' (first
      | with_reducible assumption | (with_reducible intro _) | with_reducible apply releaseHeld_frame
      | with_reducible apply stackStart_frame | (with_reducible exact partsIn_trans (by decide) hw)
      | (with_reducible apply foldl_frame) | (with_reducible apply foldl_pair_frame)
      | (with_reducible apply foldl_trip_frame) | (with_reducible refine ite_pair_frame ?_ ?_)
      | (with_reducible refine ite_trip_frame ?_ ?_) | (dsimp only))

theorem retryFillWait_frame {A : List Part} {s0 : State} (plot : BitVec 16) (s : State) (hs : s0.agree A s)
    (hw : partsIn [.out, .pins, .sb, .polders, .cad, .keys, .stack, .obj, .fns, .tracer, .gauge, .power, .free] A = true) :
    s0.agree A (retryFillWait plot s) := by
  unfold retryFillWait
  try dsimp only
  repeat' (first
      | with_reducible assumption | (with_reducible intro _) | with_reducible apply restart_frame
      | (with_reducible exact partsIn_trans (by decide) hw) | (with_reducible refine agree_stack ?_ ?_))

theorem retryKeyWait_frame {A : List Part} {s0 : State} (p : PolderId) (s : State) (hs : s0.agree A s)
    (hw : partsIn [.out, .pins, .sb, .polders, .cad, .keys, .stack, .obj, .fns, .tracer, .gauge, .power, .free] A = true) :
    s0.agree A (retryKeyWait p s) := by
  unfold retryKeyWait
  try dsimp only
  repeat' (first
      | with_reducible assumption | (with_reducible intro _) | with_reducible apply restart_frame
      | (with_reducible exact partsIn_trans (by decide) hw) | (with_reducible refine agree_stack ?_ ?_))

theorem takeAccess_frame {A : List Part} {s0 : State} (r : StackReq) (s : State) (hs : s0.agree A s)
    (hw : partsIn [.out, .pins, .sb, .polders, .cad, .keys, .stack, .obj, .fns, .tracer, .gauge, .power, .free] A = true) :
    s0.agree A (takeAccess r s) := by
  unfold takeAccess
  try dsimp only
  repeat' (first
      | with_reducible assumption | with_reducible apply stackRefuse_frame | with_reducible apply stackStart_frame
      | (with_reducible exact partsIn_trans (by decide) hw) | split | (with_reducible refine agree_stack ?_ ?_))

theorem arriveStack_frame {A : List Part} {s0 : State} (r : StackReq) (s : State) (hs : s0.agree A s)
    (hw : partsIn [.out, .pins, .sb, .polders, .cad, .keys, .stack, .obj, .fns, .tracer, .gauge, .power, .free] A = true) :
    s0.agree A (arriveStack r s) := by
  unfold arriveStack
  try dsimp only
  repeat' (first
      | with_reducible assumption | (with_reducible intro _) | with_reducible apply takeAccess_frame
      | with_reducible apply wakeDomain_frame | (with_reducible exact partsIn_trans (by decide) hw)
      | (with_reducible refine ite_frame ?_ ?_) | split | (with_reducible refine agree_stack ?_ ?_))

theorem pumpPort_frame {A : List Part} {s0 : State} (slice : Nat) (a0 : Nat) (a1 : State) (hs : s0.agree A a1)
    (hw : partsIn [.out, .pins, .sb, .polders, .cad, .keys, .stack, .obj, .fns, .tracer, .gauge, .power, .free] A = true) :
    s0.agree A (pumpPort slice a0 a1) := by
  induction a0 generalizing a1 with
  | zero => 
    unfold pumpPort
    try dsimp only
    repeat' (first
        | with_reducible assumption | (with_reducible intro _) | with_reducible apply takeAccess_frame
        | (with_reducible exact partsIn_trans (by decide) hw) | (with_reducible refine ite_frame ?_ ?_)
        | (with_reducible refine ite_pair_frame ?_ ?_) | (with_reducible refine ite_trip_frame ?_ ?_) | split
        | (refine frame_of_pair (by with_reducible assumption) ?_)
        | (refine frame_of_trip (by with_reducible assumption) ?_) | (with_reducible refine agree_stack ?_ ?_)
        | (dsimp only))
  | succ n ih => 
    unfold pumpPort
    try dsimp only
    repeat' (first
        | with_reducible assumption | (with_reducible intro _) | with_reducible apply takeAccess_frame
        | (with_reducible exact partsIn_trans (by decide) hw) | with_reducible apply ih
        | (with_reducible refine ite_frame ?_ ?_) | (with_reducible refine ite_pair_frame ?_ ?_)
        | (with_reducible refine ite_trip_frame ?_ ?_) | split
        | (refine frame_of_pair (by with_reducible assumption) ?_)
        | (refine frame_of_trip (by with_reducible assumption) ?_) | (with_reducible refine agree_stack ?_ ?_)
        | (dsimp only))

theorem pumpPorts_frame {A : List Part} {s0 : State} (s : State) (hs : s0.agree A s)
    (hw : partsIn [.out, .pins, .sb, .polders, .cad, .keys, .stack, .obj, .fns, .tracer, .gauge, .power, .free] A = true) :
    s0.agree A (pumpPorts s) := by
  unfold pumpPorts
  try dsimp only
  repeat' (first
      | with_reducible assumption | (with_reducible intro _) | with_reducible apply pumpPort_frame
      | (with_reducible exact partsIn_trans (by decide) hw) | (with_reducible apply foldl_frame)
      | (with_reducible apply foldl_pair_frame) | (with_reducible apply foldl_trip_frame)
      | (with_reducible refine ite_pair_frame ?_ ?_) | (with_reducible refine ite_trip_frame ?_ ?_) | (dsimp only))

theorem endStackAccesses_frame {A : List Part} {s0 : State} (p : PolderId) (st : Status) (s : State) (hs :
    s0.agree A s) (hw : partsIn [.out, .stack] A = true) : s0.agree A (endStackAccesses p st s) := by
  unfold endStackAccesses
  try dsimp only
  repeat' (first
      | with_reducible assumption | (with_reducible intro _) | with_reducible apply stackAnswer_frame
      | (with_reducible exact partsIn_trans (by decide) hw) | (with_reducible apply foldl_frame) | split
      | (with_reducible refine agree_stack ?_ ?_) | (dsimp only))

theorem finishRead_frame {A : List Part} {s0 : State} (w : StackWait) (data : Bytes) (s : State) (hs : s0.agree A s)
    (hw : partsIn [.out, .stack, .tracer, .gauge] A = true) : s0.agree A (finishRead w data s) := by
  unfold finishRead
  try dsimp only
  repeat' (first
      | with_reducible assumption | with_reducible apply count_frame | with_reducible apply countBy_frame
      | with_reducible apply meter_frame | with_reducible apply performWrite_frame
      | with_reducible apply stackAnswer_frame | (with_reducible exact partsIn_trans (by decide) hw)
      | (with_reducible refine ite_frame ?_ ?_) | split | (with_reducible refine agree_stack ?_ ?_))

theorem stackReturn_frame {A : List Part} {s0 : State} (w : StackWait) (data : Bytes) (uncorrectable : Bool)
    (s : State) (hs : s0.agree A s)
    (hw : partsIn [.out, .pins, .sb, .polders, .cad, .keys, .stack, .obj, .fns, .tracer, .gauge, .power, .free] A = true) :
    s0.agree A (stackReturn w data uncorrectable s) := by
  unfold stackReturn
  try dsimp only
  repeat' (first
      | with_reducible assumption | with_reducible apply count_frame | with_reducible apply finishRead_frame
      | with_reducible apply needKey_frame | with_reducible apply releaseHeld_frame
      | with_reducible apply stackAnswer_frame | with_reducible apply writeFault_frame
      | (with_reducible exact partsIn_trans (by decide) hw) | (with_reducible refine ite_frame ?_ ?_)
      | (with_reducible refine ite_pair_frame ?_ ?_) | (with_reducible refine ite_trip_frame ?_ ?_) | split
      | (refine frame_of_pair (by with_reducible assumption) ?_)
      | (refine frame_of_trip (by with_reducible assumption) ?_) | (with_reducible refine agree_stack ?_ ?_)
      | (dsimp only))

theorem modMemobj_frame {A : List Part} {s0 : State} (m : BitVec 13) (f : MemObj → MemObj) (s : State) (hs :
    s0.agree A s) (hw : partsIn [.obj] A = true) : s0.agree A (modMemobj m f s) := by
  unfold modMemobj
  try dsimp only
  repeat' (first
      | with_reducible assumption | (with_reducible intro _) | (with_reducible exact partsIn_trans (by decide) hw)
      | (with_reducible refine agree_obj ?_ ?_))

theorem dropPlot_frame {A : List Part} {s0 : State} (plot : BitVec 16) (s : State) (hs : s0.agree A s)
    (hw : partsIn [.obj] A = true) : s0.agree A (dropPlot plot s) := by
  unfold dropPlot
  try dsimp only
  repeat' (first
      | with_reducible assumption | (with_reducible intro _) | (with_reducible exact partsIn_trans (by decide) hw)
      | (with_reducible refine agree_obj ?_ ?_))

theorem failPlotWaits_frame {A : List Part} {s0 : State} (plot : BitVec 16) (f : Nat × Status) (s : State) (hs :
    s0.agree A s) (hw : partsIn [.stack, .fau] A = true) : s0.agree A (failPlotWaits plot f s) := by
  unfold failPlotWaits
  try dsimp only
  repeat' (first
      | with_reducible assumption | (with_reducible intro _) | (with_reducible exact partsIn_trans (by decide) hw)
      | (with_reducible refine agree_stack ?_ ?_) | (with_reducible refine agree_fau ?_ ?_)
      | (with_reducible refine agree_upd (W := [.stack, .fau]) ?_ rfl (by intro p hp; cases p <;> (try exact absurd hp (by decide)) <;> exact rfl) ?_))

theorem endFillWait_frame {A : List Part} {s0 : State} (plot : BitVec 16) (check : Option Nat) (st : Status)
    (s : State) (hs : s0.agree A s)
    (hw : partsIn [.out, .sb, .polders, .stack, .fau, .obj, .fns, .tracer, .free] A = true) : s0.agree A
    (endFillWait plot check st s) := by
  unfold endFillWait
  try dsimp only
  repeat' (first
      | with_reducible assumption | (with_reducible intro _) | with_reducible apply failPlotWaits_frame
      | with_reducible apply stackAnswer_frame | with_reducible apply stackRefuse_frame
      | (with_reducible exact partsIn_trans (by decide) hw) | (with_reducible apply foldl_frame) | split
      | (with_reducible refine agree_stack ?_ ?_) | (dsimp only))

theorem undoFill_frame {A : List Part} {s0 : State} (f : Fill) (st : Status) (slot : Byte) (s : State) (hs :
    s0.agree A s) (hw : partsIn [.out, .sb, .polders, .stack, .fau, .obj, .fns, .tracer, .free] A = true) :
    s0.agree A (undoFill f st slot s) := by
  unfold undoFill
  try dsimp only
  repeat' (first
      | with_reducible assumption | (with_reducible intro _) | with_reducible apply dropPlot_frame
      | with_reducible apply endFillWait_frame | with_reducible apply setPlot_frame
      | with_reducible apply writeFault_frame | (with_reducible exact partsIn_trans (by decide) hw)
      | (with_reducible refine agree_stack ?_ ?_))

theorem zeroFill_frame {A : List Part} {s0 : State} (plot : BitVec 16) (units : Nat) (key : Key512) (s : State)
    (hs : s0.agree A s) (hw : partsIn [.stack] A = true) : s0.agree A (zeroFill plot units key s) := by
  unfold zeroFill
  try dsimp only
  repeat' (first
      | with_reducible assumption | (with_reducible intro _) | (with_reducible exact partsIn_trans (by decide) hw)
      | (with_reducible refine agree_stack ?_ ?_))

theorem finishFill_frame {A : List Part} {s0 : State} (f : Fill) (s : State) (hs : s0.agree A s)
    (hw : partsIn [.out, .pins, .sb, .polders, .cad, .keys, .stack, .obj, .fns, .tracer, .gauge, .power, .free] A = true) :
    s0.agree A (finishFill f s) := by
  unfold finishFill
  try dsimp only
  repeat' (first
      | with_reducible assumption | (with_reducible intro _) | with_reducible apply meter_frame
      | with_reducible apply retryFillWait_frame | with_reducible apply setPlot_frame
      | with_reducible apply zeroFill_frame | (with_reducible exact partsIn_trans (by decide) hw)
      | (with_reducible refine agree_stack ?_ ?_))

theorem startRelease_frame {A : List Part} {s0 : State} (plot : BitVec 16) (waiters : List (Origin × BitVec 32))
    (s : State) (hs : s0.agree A s)
    (hw : partsIn [.out, .pins, .sb, .polders, .cad, .keys, .stack, .fau, .obj, .fns, .tracer, .gauge, .power, .free] A = true) :
    s0.agree A (startRelease plot waiters s) := by
  unfold startRelease
  try dsimp only
  repeat' (first
      | with_reducible assumption | (with_reducible intro _) | with_reducible apply endFillWait_frame
      | with_reducible apply meter_frame | with_reducible apply needKey_frame | with_reducible apply setPlot_frame
      | with_reducible apply tookFree_frame | with_reducible apply zeroFill_frame
      | (with_reducible exact partsIn_trans (by decide) hw) | (with_reducible refine ite_frame ?_ ?_)
      | (with_reducible refine ite_pair_frame ?_ ?_) | (with_reducible refine ite_trip_frame ?_ ?_) | split
      | (refine frame_of_pair (by with_reducible assumption) ?_)
      | (refine frame_of_trip (by with_reducible assumption) ?_) | (with_reducible refine agree_stack ?_ ?_)
      | (dsimp only))

theorem settleMemobjs_frame {A : List Part} {s0 : State} (s : State) (hs : s0.agree A s)
    (hw : partsIn [.out, .obj, .fns, .tracer] A = true) : s0.agree A (settleMemobjs s) := by
  unfold settleMemobjs
  try dsimp only
  repeat' (first
      | with_reducible assumption | (with_reducible intro _) | with_reducible apply finishAll_frame
      | (with_reducible exact partsIn_trans (by decide) hw) | (with_reducible apply foldl_frame)
      | (with_reducible refine agree_obj ?_ ?_) | (dsimp only))

theorem finishRelease_frame {A : List Part} {s0 : State} (plot : BitVec 16) (s : State) (hs : s0.agree A s)
    (hw : partsIn [.out, .stack, .obj, .fns, .tracer] A = true) : s0.agree A (finishRelease plot s) := by
  unfold finishRelease
  try dsimp only
  repeat' (first
      | with_reducible assumption | (with_reducible intro _) | with_reducible apply dropPlot_frame
      | with_reducible apply finishAll_frame | with_reducible apply setPlot_frame
      | with_reducible apply settleMemobjs_frame | (with_reducible exact partsIn_trans (by decide) hw)
      | (with_reducible refine ite_frame ?_ ?_) | split | (with_reducible refine agree_stack ?_ ?_))

theorem execStackAccess_frame {A : List Part} {s0 : State} (r : StackReq) (s : State) (hs : s0.agree A s)
    (hw : partsIn [.out, .pins, .sb, .polders, .cad, .keys, .stack, .obj, .fns, .tracer, .gauge, .power, .free] A = true) :
    FrameOut A s0 (execStackAccess r s) := by
  unfold execStackAccess
  try dsimp only
  repeat' (first
      | with_reducible exact frameOut_fault | (with_reducible apply frameOut_next)
      | (with_reducible refine frameOut_ite ?_ ?_) | with_reducible assumption | (with_reducible intro _)
      | with_reducible apply arriveStack_frame | with_reducible apply enter_frame
      | (with_reducible exact partsIn_trans (by decide) hw) | (with_reducible refine ite_frame ?_ ?_) | split
      | (dsimp only))

end Sys2Proof.Machine
end

