-- ==== Sys2Proof/Laws/FrameFau.lean ====
section
/-! SUPPORT. Which parts of the state the operations of Machine/Fau.lean may change (State.agree). -/

namespace Sys2Proof.Machine

theorem localRefused_frame {A : List Part} {s0 : State} (c : CtxId) (p : PolderId) (addr : Nat) (check : Nat)
    (write : Bool) (st : Status) (s : State) (hs : s0.agree A s)
    (hw : partsIn [.out, .sb, .polders, .obj, .fns, .tracer, .free] A = true) : s0.agree A
    (localRefused c p addr check write st s) := by
  unfold localRefused
  try dsimp only
  repeat' (first
      | with_reducible assumption | with_reducible apply writeFault_frame
      | (with_reducible exact partsIn_trans (by decide) hw) | (with_reducible refine ite_frame ?_ ?_) | split)

theorem localUse_frame {A : List Part} {s0 : State} (c : CtxId) (p : PolderId) (addr : Nat) (len : Nat)
    (write : Bool) (seen : List Lookup) (s : State) (hs : s0.agree A s)
    (hw : partsIn [.out, .pins, .sb, .polders, .cad, .keys, .stack, .obj, .fns, .tracer, .power, .free] A = true) :
    s0.agree A (localUse c p addr len write seen s).2.2 := by
  unfold localUse
  try dsimp only
  repeat' (first
      | with_reducible assumption | with_reducible apply localRefused_frame | with_reducible apply rangeUse_frame
      | (with_reducible exact partsIn_trans (by decide) hw) | (with_reducible refine ite_frame ?_ ?_)
      | (with_reducible refine ite_pair_frame ?_ ?_) | (with_reducible refine ite_trip_frame ?_ ?_) | split
      | (refine frame_of_pair (by with_reducible assumption) ?_)
      | (refine frame_of_trip (by with_reducible assumption) ?_) | (dsimp only))

theorem keepLookups_frame {A : List Part} {s0 : State} (user : StackUser) (p : PolderId) (addr : Nat) (len : Nat)
    (write : Bool) (l : List Lookup) (s : State) (hs : s0.agree A s) (hw : partsIn [.stack] A = true) : s0.agree A
    (keepLookups user p addr len write l s) := by
  unfold keepLookups
  try dsimp only
  repeat' (first
      | with_reducible assumption | (with_reducible intro _) | (with_reducible exact partsIn_trans (by decide) hw)
      | (with_reducible refine ite_frame ?_ ?_) | split | (with_reducible refine agree_stack ?_ ?_))

theorem localCheck_frame {A : List Part} {s0 : State} (user : StackUser) (c : CtxId) (p : PolderId) (addr : Nat)
    (len : Nat) (write : Bool) (s : State) (hs : s0.agree A s)
    (hw : partsIn [.out, .pins, .sb, .polders, .cad, .keys, .stack, .obj, .fns, .tracer, .power, .free] A = true) :
    s0.agree A (localCheck user c p addr len write s).2 := by
  unfold localCheck
  try dsimp only
  repeat' (first
      | with_reducible assumption | with_reducible apply keepLookups_frame | with_reducible apply localUse_frame
      | (with_reducible exact partsIn_trans (by decide) hw) | (with_reducible refine ite_pair_frame ?_ ?_)
      | (with_reducible refine ite_trip_frame ?_ ?_) | split
      | (refine frame_of_pair (by with_reducible assumption) ?_)
      | (refine frame_of_trip (by with_reducible assumption) ?_) | (dsimp only))

theorem answerOp_frame {A : List Part} {s0 : State} (c : CtxId) (ctag : BitVec 16) (src : OpSource) (st : Status)
    (result : BitVec 64) (flags : BitVec 6) (s : State) (hs : s0.agree A s)
    (hw : partsIn [.out, .obj, .fns, .tracer, .free] A = true) : s0.agree A
    (answerOp c ctag src st result flags s) := by
  unfold answerOp
  try dsimp only
  repeat' (first
      | with_reducible assumption | with_reducible apply emit_frame | with_reducible apply endDescriptor_frame
      | (with_reducible exact partsIn_trans (by decide) hw) | split)

theorem requestRefused_frame {A : List Part} {s0 : State} (r : RemoteReq) (p : PolderId) (check : Byte)
    (st : Status) (s : State) (hs : s0.agree A s)
    (hw : partsIn [.out, .sb, .polders, .obj, .fns, .tracer, .free] A = true) : s0.agree A
    (requestRefused r p check st s) := by
  unfold requestRefused
  try dsimp only
  repeat' (first
      | with_reducible assumption | with_reducible apply writeFault_frame
      | (with_reducible exact partsIn_trans (by decide) hw) | (with_reducible refine ite_frame ?_ ?_) | split)

theorem refuseOp_frame {A : List Part} {s0 : State} (r : RemoteReq) (src : OpSource) (p : PolderId) (check : Byte)
    (st : Status) (s : State) (hs : s0.agree A s)
    (hw : partsIn [.out, .sb, .polders, .obj, .fns, .tracer, .free] A = true) : s0.agree A
    (refuseOp r src p check st s) := by
  unfold refuseOp
  try dsimp only
  repeat' (first
      | with_reducible assumption | with_reducible apply answerOp_frame | with_reducible apply requestRefused_frame
      | (with_reducible exact partsIn_trans (by decide) hw))

theorem dropOp_frame {A : List Part} {s0 : State} (id : Nat) (s : State) (hs : s0.agree A s)
    (hw : partsIn [.link, .fau] A = true) : s0.agree A (dropOp id s) := by
  unfold dropOp
  try dsimp only
  repeat' (first
      | with_reducible assumption | (with_reducible intro _) | (with_reducible exact partsIn_trans (by decide) hw)
      | (with_reducible apply id_frame) | (with_reducible refine agree_link ?_ ?_)
      | (with_reducible refine agree_fau ?_ ?_)
      | (with_reducible refine agree_upd (W := [.link, .fau]) ?_ rfl (by intro p hp; cases p <;> (try exact absurd hp (by decide)) <;> exact rfl) ?_))

theorem finishOp_frame {A : List Part} {s0 : State} (o : OutOp) (st : Status) (result : BitVec 64)
    (flags : BitVec 6) (s : State) (hs : s0.agree A s)
    (hw : partsIn [.out, .link, .fau, .obj, .fns, .tracer, .free] A = true) : s0.agree A
    (finishOp o st result flags s) := by
  unfold finishOp
  try dsimp only
  repeat' (first
      | with_reducible assumption | (with_reducible intro _) | with_reducible apply answerOp_frame
      | with_reducible apply dropOp_frame | (with_reducible exact partsIn_trans (by decide) hw)
      | (with_reducible refine ite_frame ?_ ?_) | split | (with_reducible refine agree_fau ?_ ?_))

theorem settleMember_frame {A : List Part} {s0 : State} (o : OutOp) (m : InstId) (st : Status) (s : State) (hs :
    s0.agree A s) (hw : partsIn [.out, .link, .fau, .obj, .fns, .tracer, .free] A = true) : s0.agree A
    (settleMember o m st s) := by
  unfold settleMember
  try dsimp only
  repeat' (first
      | with_reducible assumption | (with_reducible intro _) | with_reducible apply finishOp_frame
      | (with_reducible exact partsIn_trans (by decide) hw) | (with_reducible refine ite_frame ?_ ?_) | split
      | (with_reducible refine agree_fau ?_ ?_))

theorem failTo_frame {A : List Part} {s0 : State} (o : OutOp) (m : InstId) (st : Status) (s : State) (hs :
    s0.agree A s) (hw : partsIn [.out, .link, .fau, .obj, .fns, .tracer, .free] A = true) : s0.agree A
    (failTo o m st s) := by
  unfold failTo
  try dsimp only
  repeat' (first
      | with_reducible assumption | with_reducible apply finishOp_frame | with_reducible apply settleMember_frame
      | (with_reducible exact partsIn_trans (by decide) hw) | (with_reducible refine ite_frame ?_ ?_) | split)

theorem outcomeUnknown_frame {A : List Part} {s0 : State} (o : OutOp) (s : State) (hs : s0.agree A s)
    (hw : partsIn [.out, .sb, .polders, .obj, .fns, .tracer, .free] A = true) : s0.agree A
    (outcomeUnknown o s) := by
  unfold outcomeUnknown
  try dsimp only
  repeat' (first
      | with_reducible assumption | with_reducible apply writeFault_frame
      | (with_reducible exact partsIn_trans (by decide) hw) | split)

theorem launchOp_frame {A : List Part} {s0 : State} (r : RemoteReq) (src : OpSource) (c : Context) (d : Dest)
    (payload : Bytes) (fence : Option Nat) (s : State) (hs : s0.agree A s)
    (hw : partsIn [.out, .pins, .sb, .polders, .cad, .keys, .link, .stack, .fau, .rings, .obj, .fns, .tracer, .gauge, .power, .free] A = true) :
    s0.agree A (launchOp r src c d payload fence s) := by
  unfold launchOp
  try dsimp only
  repeat' (first
      | with_reducible assumption | (with_reducible intro _) | with_reducible apply finishOp_frame
      | with_reducible apply requestRefused_frame | with_reducible apply sendPacket_frame
      | with_reducible apply takeSeq_frame | (with_reducible exact partsIn_trans (by decide) hw)
      | (with_reducible apply id_frame) | (with_reducible refine ite_frame ?_ ?_)
      | (with_reducible refine ite_pair_frame ?_ ?_) | (with_reducible refine ite_trip_frame ?_ ?_) | split
      | (refine frame_of_pair (by with_reducible assumption) ?_)
      | (refine frame_of_trip (by with_reducible assumption) ?_) | (with_reducible refine agree_fau ?_ ?_)
      | (dsimp only))

theorem modPending_frame {A : List Part} {s0 : State} (id : Nat) (f : PendingFence → PendingFence) (s : State) (hs :
    s0.agree A s) (hw : partsIn [.fau] A = true) : s0.agree A (modPending id f s) := by
  unfold modPending
  try dsimp only
  repeat' (first
      | with_reducible assumption | (with_reducible intro _) | (with_reducible exact partsIn_trans (by decide) hw)
      | (with_reducible refine agree_fau ?_ ?_))

theorem sendFencePacket_frame {A : List Part} {s0 : State} (id : Nat) (s : State) (d : Dest) (hs : s0.agree A s)
    (hw : partsIn [.out, .pins, .sb, .polders, .cad, .keys, .link, .stack, .fau, .rings, .obj, .fns, .tracer, .gauge, .power, .free] A = true) :
    s0.agree A (sendFencePacket id s d) := by
  unfold sendFencePacket
  try dsimp only
  repeat' (first
      | with_reducible assumption | (with_reducible intro _) | with_reducible apply launchOp_frame
      | with_reducible apply modPending_frame | (with_reducible exact partsIn_trans (by decide) hw)
      | (with_reducible apply id_frame) | (with_reducible refine ite_frame ?_ ?_) | split)

theorem issueFence_frame {A : List Part} {s0 : State} (r : RemoteReq) (src : OpSource) (c : Context) (s : State)
    (hs : s0.agree A s)
    (hw : partsIn [.out, .pins, .sb, .polders, .cad, .keys, .link, .stack, .fau, .rings, .obj, .fns, .tracer, .gauge, .power, .free] A = true) :
    s0.agree A (issueFence r src c s) := by
  unfold issueFence
  try dsimp only
  repeat' (first
      | with_reducible assumption | (with_reducible intro _) | with_reducible apply count_frame
      | with_reducible apply sendFencePacket_frame | (with_reducible exact partsIn_trans (by decide) hw)
      | (with_reducible apply foldl_frame) | (with_reducible apply id_frame)
      | (with_reducible refine ite_frame ?_ ?_) | split | (with_reducible refine agree_fau ?_ ?_) | (dsimp only))

theorem sendUnsent_frame {A : List Part} {s0 : State} (s : State) (hs : s0.agree A s)
    (hw : partsIn [.out, .pins, .sb, .polders, .cad, .keys, .link, .stack, .fau, .rings, .obj, .fns, .tracer, .gauge, .power, .free] A = true) :
    s0.agree A (sendUnsent s) := by
  unfold sendUnsent
  try dsimp only
  repeat' (first
      | with_reducible assumption | (with_reducible intro _) | with_reducible apply sendFencePacket_frame
      | (with_reducible exact partsIn_trans (by decide) hw) | (with_reducible apply foldl_frame) | (dsimp only))

theorem countIssued_frame {A : List Part} {s0 : State} (r : RemoteReq) (src : OpSource) (s : State) (hs :
    s0.agree A s) (hw : partsIn [.tracer] A = true) : s0.agree A (countIssued r src s) := by
  unfold countIssued
  try dsimp only
  repeat' (first
      | with_reducible assumption | with_reducible apply profAdd_frame
      | (with_reducible exact partsIn_trans (by decide) hw) | split)

theorem tryIssue_frame {A : List Part} {s0 : State} (w : FauWait) (s : State) (hs : s0.agree A s)
    (hw : partsIn [.out, .pins, .sb, .polders, .cad, .keys, .link, .stack, .fau, .rings, .obj, .fns, .tracer, .gauge, .power, .free] A = true) :
    s0.agree A (tryIssue w s).2 := by
  unfold tryIssue
  try dsimp only
  repeat' (first
      | with_reducible assumption | with_reducible apply answerOp_frame | with_reducible apply count_frame
      | with_reducible apply countIssued_frame | with_reducible apply issueFence_frame
      | with_reducible apply launchOp_frame | with_reducible apply localUse_frame
      | with_reducible apply refuseOp_frame | with_reducible apply stackCount_frame
      | (with_reducible exact partsIn_trans (by decide) hw) | (with_reducible refine ite_frame ?_ ?_)
      | (with_reducible refine ite_pair_frame ?_ ?_) | (with_reducible refine ite_trip_frame ?_ ?_) | split
      | (refine frame_of_pair (by with_reducible assumption) ?_)
      | (refine frame_of_trip (by with_reducible assumption) ?_) | (dsimp only))

theorem completeFences_frame {A : List Part} {s0 : State} (s : State) (hs : s0.agree A s)
    (hw : partsIn [.out, .fau, .obj, .fns, .tracer, .free] A = true) : s0.agree A (completeFences s) := by
  unfold completeFences
  try dsimp only
  repeat' (first
      | with_reducible assumption | (with_reducible intro _) | with_reducible apply answerOp_frame
      | (with_reducible exact partsIn_trans (by decide) hw) | (with_reducible apply foldl_frame)
      | (with_reducible refine ite_frame ?_ ?_) | split | (with_reducible refine agree_fau ?_ ?_) | (dsimp only))

theorem noteWait_frame {A : List Part} {s0 : State} (w : FauWait) (s : State) (hs : s0.agree A s)
    (hw : partsIn [.tracer] A = true) : s0.agree A (noteWait w s).2 := by
  unfold noteWait
  try dsimp only
  repeat' (first
      | with_reducible assumption | with_reducible apply count_frame
      | (with_reducible exact partsIn_trans (by decide) hw) | (with_reducible refine ite_frame ?_ ?_)
      | (with_reducible refine ite_pair_frame ?_ ?_) | (with_reducible refine ite_trip_frame ?_ ?_) | split
      | (refine frame_of_pair (by with_reducible assumption) ?_)
      | (refine frame_of_trip (by with_reducible assumption) ?_) | (dsimp only))

theorem pumpWaiting_frame {A : List Part} {s0 : State} (s : State) (hs : s0.agree A s)
    (hw : partsIn [.out, .pins, .sb, .polders, .cad, .keys, .link, .stack, .fau, .rings, .obj, .fns, .tracer, .gauge, .power, .free] A = true) :
    s0.agree A (pumpWaiting s) := by
  unfold pumpWaiting
  try dsimp only
  repeat' (first
      | with_reducible assumption | (with_reducible intro _) | with_reducible apply noteWait_frame
      | with_reducible apply tryIssue_frame | (with_reducible exact partsIn_trans (by decide) hw)
      | (with_reducible apply foldl_frame) | (with_reducible apply foldl_pair_frame)
      | (with_reducible apply foldl_trip_frame) | (with_reducible refine ite_frame ?_ ?_)
      | (with_reducible refine ite_pair_frame ?_ ?_) | (with_reducible refine ite_trip_frame ?_ ?_) | split
      | (refine frame_of_pair (by with_reducible assumption) ?_)
      | (refine frame_of_trip (by with_reducible assumption) ?_) | (with_reducible refine agree_fau ?_ ?_)
      | (dsimp only))

theorem settleRounds_frame {A : List Part} {s0 : State}  (a0 : Nat) (a1 : State) (hs : s0.agree A a1)
    (hw : partsIn [.out, .pins, .sb, .polders, .cad, .keys, .link, .stack, .fau, .rings, .obj, .fns, .tracer, .gauge, .power, .free] A = true) :
    s0.agree A (settleRounds a0 a1) := by
  induction a0 generalizing a1 with
  | zero => 
    unfold settleRounds
    try dsimp only
    repeat' (first
        | with_reducible assumption | (with_reducible intro _) | with_reducible apply completeFences_frame
        | with_reducible apply pumpWaiting_frame | with_reducible apply sendUnsent_frame
        | (with_reducible exact partsIn_trans (by decide) hw) | (with_reducible refine ite_frame ?_ ?_)
        | (with_reducible refine ite_pair_frame ?_ ?_) | (with_reducible refine ite_trip_frame ?_ ?_) | split
        | (dsimp only))
  | succ n ih => 
    unfold settleRounds
    try dsimp only
    repeat' (first
        | with_reducible assumption | (with_reducible intro _) | with_reducible apply completeFences_frame
        | with_reducible apply pumpWaiting_frame | with_reducible apply sendUnsent_frame
        | (with_reducible exact partsIn_trans (by decide) hw) | with_reducible apply ih
        | (with_reducible refine ite_frame ?_ ?_) | (with_reducible refine ite_pair_frame ?_ ?_)
        | (with_reducible refine ite_trip_frame ?_ ?_) | split | (dsimp only))

theorem fauSettle_frame {A : List Part} {s0 : State} (s : State) (hs : s0.agree A s)
    (hw : partsIn [.out, .pins, .sb, .polders, .cad, .keys, .link, .stack, .fau, .rings, .obj, .fns, .tracer, .gauge, .power, .free] A = true) :
    s0.agree A (fauSettle s) := by
  unfold fauSettle
  try dsimp only
  repeat' (first
      | with_reducible assumption | with_reducible apply settleRounds_frame
      | (with_reducible exact partsIn_trans (by decide) hw) | (with_reducible refine ite_pair_frame ?_ ?_)
      | (with_reducible refine ite_trip_frame ?_ ?_) | (dsimp only))

theorem submitOp_frame {A : List Part} {s0 : State} (r : RemoteReq) (src : OpSource) (s : State) (hs : s0.agree A s)
    (hw : partsIn [.out, .pins, .sb, .polders, .cad, .keys, .link, .stack, .fau, .rings, .obj, .fns, .tracer, .gauge, .power, .free] A = true) :
    s0.agree A (submitOp r src s) := by
  unfold submitOp
  try dsimp only
  repeat' (first
      | with_reducible assumption | with_reducible apply fauSettle_frame
      | (with_reducible exact partsIn_trans (by decide) hw) | (with_reducible refine agree_fau ?_ ?_))

theorem endOps_frame {A : List Part} {s0 : State} (mine : CtxId → Bool) (st : Status) (s : State) (hs :
    s0.agree A s) (hw : partsIn [.out, .link, .fau, .obj, .fns, .tracer, .free] A = true) : s0.agree A
    (endOps mine st s) := by
  unfold endOps
  try dsimp only
  repeat' (first
      | with_reducible assumption | (with_reducible intro _) | with_reducible apply answerOp_frame
      | with_reducible apply finishOp_frame | (with_reducible exact partsIn_trans (by decide) hw)
      | (with_reducible apply foldl_frame) | (with_reducible refine agree_fau ?_ ?_) | (dsimp only))

theorem unreachableOps_frame {A : List Part} {s0 : State} (m : InstId) (s : State) (hs : s0.agree A s)
    (hw : partsIn [.out, .pins, .sb, .polders, .cad, .keys, .link, .stack, .fau, .rings, .obj, .fns, .tracer, .gauge, .power, .free] A = true) :
    s0.agree A (unreachableOps m s) := by
  unfold unreachableOps
  try dsimp only
  repeat' (first
      | with_reducible assumption | (with_reducible intro _) | with_reducible apply failTo_frame
      | with_reducible apply fauSettle_frame | with_reducible apply writeFault_frame
      | (with_reducible exact partsIn_trans (by decide) hw) | (with_reducible apply foldl_frame) | split
      | (dsimp only))

theorem malformedAnswer_frame {A : List Part} {s0 : State} (o : OutOp) (m : InstId) (s : State) (hs : s0.agree A s)
    (hw : partsIn [.out, .sb, .polders, .link, .fau, .obj, .fns, .tracer, .free] A = true) : s0.agree A
    (malformedAnswer o m s) := by
  unfold malformedAnswer
  try dsimp only
  repeat' (first
      | with_reducible assumption | with_reducible apply failTo_frame | with_reducible apply finishOp_frame
      | with_reducible apply outcomeUnknown_frame | with_reducible apply writeFault_frame
      | (with_reducible exact partsIn_trans (by decide) hw) | (with_reducible refine ite_frame ?_ ?_) | split)

theorem applyAnswer_frame {A : List Part} {s0 : State} (o : OutOp) (rel : Released) (s : State) (hs : s0.agree A s)
    (hw : partsIn [.out, .pins, .sb, .polders, .cad, .keys, .link, .stack, .fau, .obj, .fns, .tracer, .gauge, .power, .free] A = true) :
    s0.agree A (applyAnswer o rel s).2 := by
  unfold applyAnswer
  try dsimp only
  repeat' (first
      | with_reducible assumption | (with_reducible intro _) | with_reducible apply failTo_frame
      | with_reducible apply finishOp_frame | with_reducible apply localUse_frame
      | with_reducible apply malformedAnswer_frame | with_reducible apply outcomeUnknown_frame
      | with_reducible apply settleMember_frame | with_reducible apply stackCount_frame
      | with_reducible apply stackWrite_frame | (with_reducible exact partsIn_trans (by decide) hw)
      | (with_reducible refine ite_frame ?_ ?_) | (with_reducible refine ite_pair_frame ?_ ?_)
      | (with_reducible refine ite_trip_frame ?_ ?_) | split
      | (refine frame_of_pair (by with_reducible assumption) ?_)
      | (refine frame_of_trip (by with_reducible assumption) ?_) | (with_reducible refine agree_fau ?_ ?_)
      | (dsimp only))

theorem dropReleased_frame {A : List Part} {s0 : State} (r : Released) (s : State) (hs : s0.agree A s)
    (hw : partsIn [.link] A = true) : s0.agree A (dropReleased r s) := by
  unfold dropReleased
  try dsimp only
  repeat' (first
      | with_reducible assumption | (with_reducible exact partsIn_trans (by decide) hw)
      | (with_reducible refine agree_link ?_ ?_))

theorem serveCompletion_frame {A : List Part} {s0 : State} (s : State) (rel : Released) (hs : s0.agree A s)
    (hw : partsIn [.out, .pins, .sb, .polders, .cad, .keys, .link, .stack, .fau, .rings, .obj, .fns, .tracer, .gauge, .power, .free] A = true) :
    s0.agree A (serveCompletion s rel) := by
  unfold serveCompletion
  try dsimp only
  repeat' (first
      | with_reducible assumption | with_reducible apply applyAnswer_frame | with_reducible apply count_frame
      | with_reducible apply dropReleased_frame | with_reducible apply fauSettle_frame
      | (with_reducible exact partsIn_trans (by decide) hw) | (with_reducible refine ite_pair_frame ?_ ?_)
      | (with_reducible refine ite_trip_frame ?_ ?_) | split
      | (refine frame_of_pair (by with_reducible assumption) ?_)
      | (refine frame_of_trip (by with_reducible assumption) ?_) | (dsimp only))

theorem retryAnswers_frame {A : List Part} {s0 : State} (s : State) (hs : s0.agree A s)
    (hw : partsIn [.out, .pins, .sb, .polders, .cad, .keys, .link, .stack, .fau, .rings, .obj, .fns, .tracer, .gauge, .power, .free] A = true) :
    s0.agree A (retryAnswers s) := by
  unfold retryAnswers
  try dsimp only
  repeat' (first
      | with_reducible assumption | (with_reducible intro _) | with_reducible apply serveCompletion_frame
      | (with_reducible exact partsIn_trans (by decide) hw) | (with_reducible apply foldl_frame) | (dsimp only))

theorem giveUp_frame {A : List Part} {s0 : State} (o : OutOp) (s : State) (hs : s0.agree A s)
    (hw : partsIn [.out, .sb, .polders, .link, .fau, .obj, .fns, .tracer, .free] A = true) : s0.agree A
    (giveUp o s) := by
  unfold giveUp
  try dsimp only
  repeat' (first
      | with_reducible assumption | (with_reducible intro _) | with_reducible apply finishOp_frame
      | with_reducible apply outcomeUnknown_frame | with_reducible apply writeFault_frame
      | (with_reducible exact partsIn_trans (by decide) hw) | (with_reducible refine ite_frame ?_ ?_) | split
      | (with_reducible refine agree_fau ?_ ?_))

theorem resendNow_frame {A : List Part} {s0 : State} (o : OutOp) (s : State) (hs : s0.agree A s)
    (hw : partsIn [.out, .pins, .sb, .polders, .cad, .keys, .link, .stack, .fau, .rings, .obj, .fns, .tracer, .gauge, .power, .free] A = true) :
    s0.agree A (resendNow o s) := by
  unfold resendNow
  try dsimp only
  repeat' (first
      | with_reducible assumption | (with_reducible intro _) | with_reducible apply giveUp_frame
      | with_reducible apply sendPacket_frame | (with_reducible exact partsIn_trans (by decide) hw)
      | (with_reducible refine ite_frame ?_ ?_) | (with_reducible refine ite_pair_frame ?_ ?_)
      | (with_reducible refine ite_trip_frame ?_ ?_) | split | (with_reducible refine agree_fau ?_ ?_)
      | (dsimp only))

theorem resendOp_frame {A : List Part} {s0 : State} (o : OutOp) (s : State) (hs : s0.agree A s)
    (hw : partsIn [.out, .pins, .sb, .polders, .cad, .keys, .link, .stack, .fau, .rings, .obj, .fns, .tracer, .gauge, .power, .free] A = true) :
    s0.agree A (resendOp o s) := by
  unfold resendOp
  try dsimp only
  repeat' (first
      | with_reducible assumption | with_reducible apply resendNow_frame
      | (with_reducible exact partsIn_trans (by decide) hw) | (with_reducible refine ite_frame ?_ ?_) | split)

theorem arriveNotice_frame {A : List Part} {s0 : State} (port : BitVec 8) (packet : Bytes) (s : State) (hs :
    s0.agree A s)
    (hw : partsIn [.out, .pins, .sb, .polders, .cad, .keys, .link, .stack, .fau, .rings, .obj, .fns, .tracer, .gauge, .power, .free] A = true) :
    s0.agree A (arriveNotice port packet s) := by
  unfold arriveNotice
  try dsimp only
  repeat' (first
      | with_reducible assumption | with_reducible apply count_frame | with_reducible apply countPort_frame
      | with_reducible apply failTo_frame | with_reducible apply fauSettle_frame
      | (with_reducible exact partsIn_trans (by decide) hw) | (with_reducible refine ite_frame ?_ ?_) | split)

end Sys2Proof.Machine
end

