-- ==== Sys2Proof/Laws/FrameWeirs.lean ====
section
/-! SUPPORT. Which parts of the state the operations of Machine/Weirs.lean may change (State.agree). -/

namespace Sys2Proof.Machine

theorem modWeir_frame {A : List Part} {s0 : State} (w : BitVec 8) (f : Weir → Weir) (s : State) (hs : s0.agree A s)
    (hw : partsIn [.weirs] A = true) : s0.agree A (modWeir w f s) := by
  unfold modWeir
  try dsimp only
  repeat' (first
      | with_reducible assumption | (with_reducible intro _) | (with_reducible exact partsIn_trans (by decide) hw)
      | (with_reducible refine agree_weirs ?_ ?_))

theorem mirrorWeir_frame {A : List Part} {s0 : State} (w : BitVec 8) (s : State) (hs : s0.agree A s)
    (hw : partsIn [.weirs] A = true) : s0.agree A (mirrorWeir w s) := by
  unfold mirrorWeir
  try dsimp only
  repeat' (first
      | with_reducible assumption | (with_reducible intro _) | with_reducible apply modWeir_frame
      | (with_reducible exact partsIn_trans (by decide) hw))

theorem mirrorChanged_frame {A : List Part} {s0 : State} (s : State) (hs : s0.agree A s)
    (hw : partsIn [.weirs] A = true) : s0.agree A (mirrorChanged s) := by
  unfold mirrorChanged
  try dsimp only
  repeat' (first
      | with_reducible assumption | (with_reducible intro _) | with_reducible apply mirrorWeir_frame
      | (with_reducible exact partsIn_trans (by decide) hw) | (with_reducible apply foldl_frame)
      | (with_reducible refine ite_frame ?_ ?_) | split | (dsimp only))

theorem takeLevel_frame {A : List Part} {s0 : State} (w : BitVec 8) (level : BitVec 4) (capacity : Nat) (s : State)
    (hs : s0.agree A s) (hw : partsIn [.weirs, .tracer, .free] A = true) : s0.agree A
    (takeLevel w level capacity s) := by
  unfold takeLevel
  try dsimp only
  repeat' (first
      | with_reducible assumption | (with_reducible intro _) | with_reducible apply count_frame
      | with_reducible apply emitTrace_frame | with_reducible apply mirrorChanged_frame
      | with_reducible apply modWeir_frame | (with_reducible exact partsIn_trans (by decide) hw)
      | (with_reducible refine ite_frame ?_ ?_) | split)

theorem missGuarantee_frame {A : List Part} {s0 : State} (w : BitVec 8) (c : Nat) (admitted : Nat) (s : State) (hs :
    s0.agree A s) (hw : partsIn [.out, .sb, .polders, .obj, .fns, .weirs, .tracer, .free] A = true) : s0.agree A
    (missGuarantee w c admitted s) := by
  unfold missGuarantee
  try dsimp only
  repeat' (first
      | with_reducible assumption | (with_reducible intro _) | with_reducible apply modWeir_frame
      | with_reducible apply writeFault_frame | (with_reducible exact partsIn_trans (by decide) hw)
      | (with_reducible refine ite_frame ?_ ?_) | split)

theorem execWeirInterval_frame {A : List Part} {s0 : State} (weir : BitVec 8) (backlogged : BitVec 16)
    (admitted : List Nat) (s : State) (hs : s0.agree A s)
    (hw : partsIn [.out, .sb, .polders, .obj, .fns, .weirs, .tracer, .free] A = true) : FrameOut A s0
    (execWeirInterval weir backlogged admitted s) := by
  unfold execWeirInterval
  try dsimp only
  repeat' (first
      | with_reducible exact frameOut_fault | (with_reducible apply frameOut_next)
      | (with_reducible refine frameOut_ite ?_ ?_) | with_reducible assumption | (with_reducible intro _)
      | with_reducible apply missGuarantee_frame | (with_reducible exact partsIn_trans (by decide) hw)
      | (with_reducible apply foldl_frame) | (with_reducible refine ite_frame ?_ ?_) | split | (dsimp only))

theorem execWeirStatusMirror_frame {A : List Part} {s0 : State} (weir : BitVec 8) (s : State) (hs : s0.agree A s)
    (hw : partsIn [.weirs] A = true) : FrameOut A s0 (execWeirStatusMirror weir s) := by
  unfold execWeirStatusMirror
  try dsimp only
  repeat' (first
      | with_reducible exact frameOut_fault | (with_reducible apply frameOut_next)
      | (with_reducible refine frameOut_ite ?_ ?_) | with_reducible assumption | (with_reducible intro _)
      | with_reducible apply mirrorWeir_frame | (with_reducible exact partsIn_trans (by decide) hw)
      | (with_reducible refine ite_frame ?_ ?_) | split | (dsimp only))

theorem weirStatusCmd_frame {A : List Part} {s0 : State} (bad : Bool) (o : Origin) (tag : BitVec 32)
    (weir : BitVec 8) (s : State) (hs : s0.agree A s)
    (hw : partsIn [.out, .sb, .polders, .keys, .obj, .fns, .spdm, .tracer, .power, .free] A = true) : s0.agree A
    (weirStatusCmd bad o tag weir s) := by
  unfold weirStatusCmd
  try dsimp only
  repeat' (first
      | with_reducible assumption | (with_reducible intro _) | with_reducible apply reply_frame
      | with_reducible apply runCmd_frame | (with_reducible exact partsIn_trans (by decide) hw))

theorem execWeirStatus_frame {A : List Part} {s0 : State} (o : Origin) (tag : BitVec 32) (weir : BitVec 8)
    (s : State) (hs : s0.agree A s)
    (hw : partsIn [.out, .sb, .polders, .keys, .obj, .fns, .spdm, .tracer, .power, .free] A = true) : FrameOut A s0
    (execWeirStatus o tag weir s) := by
  unfold execWeirStatus
  try dsimp only
  repeat' (first
      | with_reducible exact frameOut_fault | (with_reducible apply frameOut_next)
      | (with_reducible refine frameOut_ite ?_ ?_) | with_reducible assumption | (with_reducible intro _)
      | with_reducible apply weirStatusCmd_frame | (with_reducible exact partsIn_trans (by decide) hw)
      | (dsimp only))

end Sys2Proof.Machine
end

