-- ==== Sys2Proof/Laws/FrameTray.lean ====
section
/-! SUPPORT. Which parts of the state the operations of Machine/Tray.lean may change (State.agree). -/

namespace Sys2Proof.Machine

theorem setGroup_frame {A : List Part} {s0 : State} (g : Nat) (x : ParityGroup) (s : State) (hs : s0.agree A s)
    (hw : partsIn [.tray, .weirs] A = true) : s0.agree A (setGroup g x s) := by
  unfold setGroup
  try dsimp only
  repeat' (first
      | with_reducible assumption | with_reducible apply mirrorChanged_frame
      | (with_reducible exact partsIn_trans (by decide) hw) | (with_reducible refine agree_tray ?_ ?_))

theorem rawWrite_frame {A : List Part} {s0 : State} (device : Nat) (row : Nat) (b : Bytes) (s : State) (hs :
    s0.agree A s) (hw : partsIn [.tray] A = true) : s0.agree A (rawWrite device row b s) := by
  unfold rawWrite
  try dsimp only
  repeat' (first
      | with_reducible assumption | (with_reducible exact partsIn_trans (by decide) hw)
      | (with_reducible refine agree_tray ?_ ?_))

theorem shareWrite_frame {A : List Part} {s0 : State} (g : Nat) (k : Nat) (row : Nat) (b : Bytes) (s : State) (hs :
    s0.agree A s) (hw : partsIn [.tray] A = true) : s0.agree A (shareWrite g k row b s) := by
  unfold shareWrite
  try dsimp only
  repeat' (first
      | with_reducible assumption | with_reducible apply rawWrite_frame
      | (with_reducible exact partsIn_trans (by decide) hw) | split)

theorem stripeWrite_frame {A : List Part} {s0 : State} (g : Nat) (row : Nat) (bs : List Bytes) (s : State) (hs :
    s0.agree A s) (hw : partsIn [.tray] A = true) : s0.agree A (stripeWrite g row bs s) := by
  unfold stripeWrite
  try dsimp only
  repeat' (first
      | with_reducible assumption | (with_reducible intro _) | with_reducible apply rawWrite_frame
      | (with_reducible exact partsIn_trans (by decide) hw) | (with_reducible apply foldl_frame) | split
      | (dsimp only))

theorem startRebuild_frame {A : List Part} {s0 : State} (g : Nat) (k : Nat) (device : Nat) (s : State) (hs :
    s0.agree A s) (hw : partsIn [.out, .sb, .polders, .tray, .obj, .fns, .weirs, .tracer, .free] A = true) :
    s0.agree A (startRebuild g k device s) := by
  unfold startRebuild
  try dsimp only
  repeat' (first
      | with_reducible assumption | with_reducible apply setGroup_frame | with_reducible apply writeFault_frame
      | (with_reducible exact partsIn_trans (by decide) hw) | split | (with_reducible refine agree_tray ?_ ?_))

theorem failGroup_frame {A : List Part} {s0 : State} (g : Nat) (k : Nat) (device : Nat) (s : State) (hs :
    s0.agree A s) (hw : partsIn [.out, .sb, .polders, .tray, .obj, .fns, .weirs, .tracer, .free] A = true) :
    s0.agree A (failGroup g k device s) := by
  unfold failGroup
  try dsimp only
  repeat' (first
      | with_reducible assumption | with_reducible apply setGroup_frame | with_reducible apply writeFault_frame
      | (with_reducible exact partsIn_trans (by decide) hw) | (with_reducible refine ite_frame ?_ ?_) | split)

theorem deviceDead_frame {A : List Part} {s0 : State} (device : Nat) (s : State) (hs : s0.agree A s)
    (hw : partsIn [.out, .sb, .polders, .tray, .obj, .fns, .weirs, .tracer, .free] A = true) : s0.agree A
    (deviceDead device s) := by
  unfold deviceDead
  try dsimp only
  repeat' (first
      | with_reducible assumption | (with_reducible intro _) | with_reducible apply failGroup_frame
      | with_reducible apply setGroup_frame | with_reducible apply startRebuild_frame
      | with_reducible apply writeFault_frame | (with_reducible exact partsIn_trans (by decide) hw)
      | (with_reducible refine ite_frame ?_ ?_) | split | (with_reducible refine agree_tray ?_ ?_))

theorem writeDelta_frame {A : List Part} {s0 : State} (a : Nat) (d : Bytes) (s : State) (hs : s0.agree A s)
    (hw : partsIn [.tray] A = true) : s0.agree A (writeDelta a d s) := by
  unfold writeDelta
  try dsimp only
  repeat' (first
      | with_reducible assumption | with_reducible apply shareWrite_frame
      | (with_reducible exact partsIn_trans (by decide) hw) | (with_reducible refine ite_frame ?_ ?_) | split)

theorem eraseDeltas_frame {A : List Part} {s0 : State} (a : Nat) (n : Nat) (s : State) (hs : s0.agree A s)
    (hw : partsIn [.tray] A = true) : s0.agree A (eraseDeltas a n s) := by
  unfold eraseDeltas
  try dsimp only
  repeat' (first
      | with_reducible assumption | (with_reducible intro _) | (with_reducible exact partsIn_trans (by decide) hw)
      | (with_reducible refine agree_tray ?_ ?_))

theorem setBlock_frame {A : List Part} {s0 : State} (b : TreeBlock) (s : State) (hs : s0.agree A s)
    (hw : partsIn [.tray] A = true) : s0.agree A (setBlock b s) := by
  unfold setBlock
  try dsimp only
  repeat' (first
      | with_reducible assumption | (with_reducible exact partsIn_trans (by decide) hw)
      | (with_reducible refine agree_tray ?_ ?_))

theorem modExtent_frame {A : List Part} {s0 : State} (id : BitVec 13) (f : Extent → Extent) (s : State) (hs :
    s0.agree A s) (hw : partsIn [.tray] A = true) : s0.agree A (modExtent id f s) := by
  unfold modExtent
  try dsimp only
  repeat' (first
      | with_reducible assumption | (with_reducible intro _) | (with_reducible exact partsIn_trans (by decide) hw)
      | (with_reducible refine agree_tray ?_ ?_))

theorem modCtc_frame {A : List Part} {s0 : State} (f : List CtcEntry → List CtcEntry) (s : State) (hs :
    s0.agree A s) (hw : partsIn [.tray] A = true) : s0.agree A (modCtc f s) := by
  unfold modCtc
  try dsimp only
  repeat' (first
      | with_reducible assumption | (with_reducible exact partsIn_trans (by decide) hw)
      | (with_reducible refine agree_tray ?_ ?_))

theorem putCtc_frame {A : List Part} {s0 : State} (location : Nat) (level : Nat) (index : Nat) (x : BitVec 512)
    (dirty : Bool) (s : State) (hs : s0.agree A s) (hw : partsIn [.tray] A = true) : s0.agree A
    (putCtc location level index x dirty s) := by
  unfold putCtc
  try dsimp only
  repeat' (first
      | with_reducible assumption | (with_reducible intro _) | with_reducible apply modCtc_frame
      | (with_reducible exact partsIn_trans (by decide) hw) | (with_reducible refine ite_frame ?_ ?_) | split)

theorem fetchBlock_frame {A : List Part} {s0 : State} (e : Extent) (location : Nat) (k : Key256) (a0 : Nat)
    (a1 : Nat) (a2 : Nat) (a3 : State) (hs : s0.agree A a3) (hw : partsIn [.tray, .tracer] A = true) : s0.agree A
    (fetchBlock e location k a0 a1 a2 a3).2 := by
  induction a0 generalizing a1 a2 a3 with
  | zero => 
    unfold fetchBlock
    try dsimp only
    repeat' (first
        | with_reducible assumption | with_reducible apply count_frame | with_reducible apply putCtc_frame
        | (with_reducible exact partsIn_trans (by decide) hw) | (with_reducible refine ite_frame ?_ ?_)
        | (with_reducible refine ite_pair_frame ?_ ?_) | (with_reducible refine ite_trip_frame ?_ ?_) | split
        | (refine frame_of_pair (by with_reducible assumption) ?_)
        | (refine frame_of_trip (by with_reducible assumption) ?_) | (dsimp only))
  | succ n ih => 
    unfold fetchBlock
    try dsimp only
    repeat' (first
        | with_reducible assumption | with_reducible apply count_frame | with_reducible apply putCtc_frame
        | (with_reducible exact partsIn_trans (by decide) hw) | with_reducible apply ih
        | (with_reducible refine ite_frame ?_ ?_) | (with_reducible refine ite_pair_frame ?_ ?_)
        | (with_reducible refine ite_trip_frame ?_ ?_) | split
        | (refine frame_of_pair (by with_reducible assumption) ?_)
        | (refine frame_of_trip (by with_reducible assumption) ?_) | (dsimp only))

theorem updateParent_frame {A : List Part} {s0 : State} (x : CtcEntry) (s : State) (hs : s0.agree A s)
    (hw : partsIn [.tray, .tracer] A = true) : s0.agree A (updateParent x s) := by
  unfold updateParent
  try dsimp only
  repeat' (first
      | with_reducible assumption | (with_reducible intro _) | with_reducible apply fetchBlock_frame
      | with_reducible apply modExtent_frame | with_reducible apply putCtc_frame
      | (with_reducible exact partsIn_trans (by decide) hw) | (with_reducible refine ite_frame ?_ ?_)
      | (with_reducible refine ite_pair_frame ?_ ?_) | (with_reducible refine ite_trip_frame ?_ ?_) | split
      | (refine frame_of_pair (by with_reducible assumption) ?_)
      | (refine frame_of_trip (by with_reducible assumption) ?_) | (dsimp only))

theorem writtenBlock_frame {A : List Part} {s0 : State} (x : CtcEntry) (s : State) (hs : s0.agree A s)
    (hw : partsIn [.tray] A = true) : s0.agree A (writtenBlock x s) := by
  unfold writtenBlock
  try dsimp only
  repeat' (first
      | with_reducible assumption | with_reducible apply setBlock_frame
      | (with_reducible exact partsIn_trans (by decide) hw))

theorem evictCtc_frame {A : List Part} {s0 : State} (x : CtcEntry) (s : State) (hs : s0.agree A s)
    (hw : partsIn [.tray, .tracer] A = true) : s0.agree A (evictCtc x s) := by
  unfold evictCtc
  try dsimp only
  repeat' (first
      | with_reducible assumption | (with_reducible intro _) | with_reducible apply modCtc_frame
      | with_reducible apply stripeWrite_frame | with_reducible apply updateParent_frame
      | with_reducible apply writeDelta_frame | with_reducible apply writtenBlock_frame
      | (with_reducible exact partsIn_trans (by decide) hw) | (with_reducible apply foldl_frame)
      | (with_reducible refine ite_frame ?_ ?_) | split | (dsimp only))

theorem trimRounds_frame {A : List Part} {s0 : State}  (a0 : Nat) (a1 : State) (hs : s0.agree A a1)
    (hw : partsIn [.tray, .tracer] A = true) : s0.agree A (trimRounds a0 a1) := by
  induction a0 generalizing a1 with
  | zero => 
    unfold trimRounds
    try dsimp only
    repeat' (first
        | with_reducible assumption | (with_reducible intro _) | with_reducible apply evictCtc_frame
        | (with_reducible exact partsIn_trans (by decide) hw) | (with_reducible refine ite_frame ?_ ?_)
        | (with_reducible refine ite_pair_frame ?_ ?_) | (with_reducible refine ite_trip_frame ?_ ?_) | split
        | (refine frame_of_pair (by with_reducible assumption) ?_)
        | (refine frame_of_trip (by with_reducible assumption) ?_) | (dsimp only))
  | succ n ih => 
    unfold trimRounds
    try dsimp only
    repeat' (first
        | with_reducible assumption | (with_reducible intro _) | with_reducible apply evictCtc_frame
        | (with_reducible exact partsIn_trans (by decide) hw) | with_reducible apply ih
        | (with_reducible refine ite_frame ?_ ?_) | (with_reducible refine ite_pair_frame ?_ ?_)
        | (with_reducible refine ite_trip_frame ?_ ?_) | split
        | (refine frame_of_pair (by with_reducible assumption) ?_)
        | (refine frame_of_trip (by with_reducible assumption) ?_) | (dsimp only))

theorem trimCtc_frame {A : List Part} {s0 : State} (s : State) (hs : s0.agree A s)
    (hw : partsIn [.tray, .tracer] A = true) : s0.agree A (trimCtc s) := by
  unfold trimCtc
  try dsimp only
  repeat' (first
      | with_reducible assumption | with_reducible apply trimRounds_frame
      | (with_reducible exact partsIn_trans (by decide) hw) | (with_reducible refine ite_pair_frame ?_ ?_)
      | (with_reducible refine ite_trip_frame ?_ ?_) | (dsimp only))

theorem loadTag_frame {A : List Part} {s0 : State} (location : Nat) (q : Nat) (s : State) (hs : s0.agree A s)
    (hw : partsIn [.tray, .tracer] A = true) : s0.agree A (loadTag location q s).2 := by
  unfold loadTag
  try dsimp only
  repeat' (first
      | with_reducible assumption | with_reducible apply count_frame | with_reducible apply putCtc_frame
      | with_reducible apply trimCtc_frame | (with_reducible exact partsIn_trans (by decide) hw)
      | (with_reducible refine ite_pair_frame ?_ ?_) | (with_reducible refine ite_trip_frame ?_ ?_) | split
      | (refine frame_of_pair (by with_reducible assumption) ?_)
      | (refine frame_of_trip (by with_reducible assumption) ?_) | (dsimp only))

theorem setTag_frame {A : List Part} {s0 : State} (location : Nat) (q : Nat) (tag : Bytes) (s : State) (hs :
    s0.agree A s) (hw : partsIn [.tray, .tracer] A = true) : s0.agree A (setTag location q tag s) := by
  unfold setTag
  try dsimp only
  repeat' (first
      | with_reducible assumption | with_reducible apply putCtc_frame | with_reducible apply trimCtc_frame
      | (with_reducible exact partsIn_trans (by decide) hw))

theorem mapWritten_frame {A : List Part} {s0 : State} (a : Nat) (bit : Nat) (s : State) (hs : s0.agree A s)
    (hw : partsIn [.tray] A = true) : s0.agree A (mapWritten a bit s) := by
  unfold mapWritten
  try dsimp only
  repeat' (first
      | with_reducible assumption | with_reducible apply writeDelta_frame
      | (with_reducible exact partsIn_trans (by decide) hw) | (with_reducible refine ite_frame ?_ ?_) | split)

theorem markParcel_frame {A : List Part} {s0 : State} (location : Nat) (q : Nat) (s : State) (hs : s0.agree A s)
    (hw : partsIn [.tray] A = true) : s0.agree A (markParcel location q s) := by
  unfold markParcel
  try dsimp only
  repeat' (first
      | with_reducible assumption | with_reducible apply mapWritten_frame
      | (with_reducible exact partsIn_trans (by decide) hw) | (with_reducible refine ite_frame ?_ ?_) | split
      | (with_reducible refine agree_tray ?_ ?_))

theorem unmarkParcel_frame {A : List Part} {s0 : State} (location : Nat) (q : Nat) (s : State) (hs : s0.agree A s)
    (hw : partsIn [.tray] A = true) : s0.agree A (unmarkParcel location q s) := by
  unfold unmarkParcel
  try dsimp only
  repeat' (first
      | with_reducible assumption | with_reducible apply mapWritten_frame
      | (with_reducible exact partsIn_trans (by decide) hw) | (with_reducible refine agree_tray ?_ ?_))

theorem markPage_frame {A : List Part} {s0 : State} (location : Nat) (page : Nat) (s : State) (hs : s0.agree A s)
    (hw : partsIn [.tray] A = true) : s0.agree A (markPage location page s) := by
  unfold markPage
  try dsimp only
  repeat' (first
      | with_reducible assumption | with_reducible apply mapWritten_frame
      | (with_reducible exact partsIn_trans (by decide) hw) | (with_reducible refine ite_frame ?_ ?_) | split
      | (with_reducible refine agree_tray ?_ ?_))

theorem parcelBreach_frame {A : List Part} {s0 : State} (e : Extent) (location : Nat) (q : Nat) (step : Nat)
    (s : State) (hs : s0.agree A s) (hw : partsIn [.out, .sb, .polders, .obj, .fns, .tracer, .free] A = true) :
    s0.agree A (parcelBreach e location q step s) := by
  unfold parcelBreach
  try dsimp only
  repeat' (first
      | with_reducible assumption | with_reducible apply writeFault_frame
      | (with_reducible exact partsIn_trans (by decide) hw))

theorem pageBreach_frame {A : List Part} {s0 : State} (e : Extent) (location : Nat) (level : Nat) (index : Nat)
    (page : Nat) (s : State) (hs : s0.agree A s)
    (hw : partsIn [.out, .sb, .polders, .tray, .obj, .fns, .tracer, .free] A = true) : s0.agree A
    (pageBreach e location level index page s) := by
  unfold pageBreach
  try dsimp only
  repeat' (first
      | with_reducible assumption | (with_reducible intro _) | with_reducible apply markPage_frame
      | with_reducible apply writeFault_frame | (with_reducible exact partsIn_trans (by decide) hw)
      | (with_reducible apply foldl_frame) | (dsimp only))

theorem fetchRecord_frame {A : List Part} {s0 : State} (e : Extent) (location : Nat) (key : Key512) (page : Nat)
    (s : State) (hs : s0.agree A s)
    (hw : partsIn [.out, .sb, .polders, .tray, .obj, .fns, .tracer, .free] A = true) : s0.agree A
    (fetchRecord e location key page s).2 := by
  unfold fetchRecord
  try dsimp only
  repeat' (first
      | with_reducible assumption | with_reducible apply fetchBlock_frame | with_reducible apply pageBreach_frame
      | with_reducible apply trimCtc_frame | (with_reducible exact partsIn_trans (by decide) hw)
      | (with_reducible refine ite_pair_frame ?_ ?_) | (with_reducible refine ite_trip_frame ?_ ?_) | split
      | (refine frame_of_pair (by with_reducible assumption) ?_)
      | (refine frame_of_trip (by with_reducible assumption) ?_) | (dsimp only))

theorem storeRecord_frame {A : List Part} {s0 : State} (e : Extent) (location : Nat) (key : Key512) (page : Nat)
    (r : BitVec 256) (s : State) (hs : s0.agree A s)
    (hw : partsIn [.out, .sb, .polders, .tray, .obj, .fns, .tracer, .free] A = true) : s0.agree A
    (storeRecord e location key page r s) := by
  unfold storeRecord
  try dsimp only
  repeat' (first
      | with_reducible assumption | (with_reducible intro _) | with_reducible apply count_frame
      | with_reducible apply fetchBlock_frame | with_reducible apply pageBreach_frame
      | with_reducible apply putCtc_frame | with_reducible apply trimCtc_frame
      | (with_reducible exact partsIn_trans (by decide) hw) | (with_reducible refine ite_frame ?_ ?_)
      | (with_reducible refine ite_pair_frame ?_ ?_) | (with_reducible refine ite_trip_frame ?_ ?_) | split
      | (refine frame_of_pair (by with_reducible assumption) ?_)
      | (refine frame_of_trip (by with_reducible assumption) ?_) | (dsimp only))

theorem openParcel_frame {A : List Part} {s0 : State} (e : Extent) (location : Nat) (key : Key512)
    (kind : ParcelKind) (q : Nat) (s : State) (hs : s0.agree A s)
    (hw : partsIn [.out, .sb, .polders, .tray, .obj, .fns, .tracer, .free] A = true) : s0.agree A
    (openParcel e location key kind q s).2 := by
  unfold openParcel
  try dsimp only
  repeat' (first
      | with_reducible assumption | with_reducible apply count_frame | with_reducible apply fetchRecord_frame
      | with_reducible apply loadTag_frame | with_reducible apply markParcel_frame
      | with_reducible apply parcelBreach_frame | (with_reducible exact partsIn_trans (by decide) hw)
      | (with_reducible refine ite_frame ?_ ?_) | (with_reducible refine ite_pair_frame ?_ ?_)
      | (with_reducible refine ite_trip_frame ?_ ?_) | split
      | (refine frame_of_pair (by with_reducible assumption) ?_)
      | (refine frame_of_trip (by with_reducible assumption) ?_) | (dsimp only))

theorem putParcel_frame {A : List Part} {s0 : State} (location : Nat) (key : Key512) (major : Nat) (minor : Nat)
    (q : Nat) (plain : Bytes) (s : State) (hs : s0.agree A s) (hw : partsIn [.tray, .tracer] A = true) : s0.agree A
    (putParcel location key major minor q plain s) := by
  unfold putParcel
  try dsimp only
  repeat' (first
      | with_reducible assumption | with_reducible apply setTag_frame | with_reducible apply shareWrite_frame
      | (with_reducible exact partsIn_trans (by decide) hw))

theorem putPage_frame {A : List Part} {s0 : State} (location : Nat) (page : Nat) (cells : List (Bytes × Bytes))
    (s : State) (hs : s0.agree A s) (hw : partsIn [.tray, .tracer] A = true) : s0.agree A
    (putPage location page cells s) := by
  unfold putPage
  try dsimp only
  repeat' (first
      | with_reducible assumption | (with_reducible intro _) | with_reducible apply setTag_frame
      | with_reducible apply stripeWrite_frame | (with_reducible exact partsIn_trans (by decide) hw)
      | (with_reducible apply foldl_frame) | (dsimp only))

theorem rollVerify_frame {A : List Part} {s0 : State} (e : Extent) (location : Nat) (key : Key512) (page : Nat)
    (own : Nat) (r : BitVec 256) (s : State) (hs : s0.agree A s)
    (hw : partsIn [.out, .sb, .polders, .tray, .obj, .fns, .tracer, .free] A = true) : s0.agree A
    (rollVerify e location key page own r s) := by
  unfold rollVerify
  try dsimp only
  repeat' (first
      | with_reducible assumption | (with_reducible intro _) | with_reducible apply count_frame
      | with_reducible apply markParcel_frame | with_reducible apply parcelBreach_frame
      | (with_reducible exact partsIn_trans (by decide) hw) | (with_reducible apply foldl_frame)
      | (with_reducible refine ite_frame ?_ ?_) | split | (dsimp only))

theorem rollPage_frame {A : List Part} {s0 : State} (e : Extent) (location : Nat) (key : Key512) (q : Nat)
    (r : BitVec 256) (new : Option Bytes) (s : State) (hs : s0.agree A s)
    (hw : partsIn [.out, .sb, .polders, .tray, .obj, .fns, .tracer, .free] A = true) : s0.agree A
    (rollPage e location key q r new s) := by
  unfold rollPage
  try dsimp only
  repeat' (first
      | with_reducible assumption | (with_reducible intro _) | with_reducible apply count_frame
      | with_reducible apply putPage_frame | with_reducible apply rollVerify_frame
      | with_reducible apply storeRecord_frame | (with_reducible exact partsIn_trans (by decide) hw)
      | (with_reducible refine ite_frame ?_ ?_) | split)

theorem parcelWritten_frame {A : List Part} {s0 : State} (e : Extent) (location : Nat) (q : Nat) (kind : ParcelKind)
    (s : State) (hs : s0.agree A s) (hw : partsIn [.tracer, .gauge] A = true) : s0.agree A
    (parcelWritten e location q kind s) := by
  unfold parcelWritten
  try dsimp only
  repeat' (first
      | with_reducible assumption | with_reducible apply count_frame | with_reducible apply countBy_frame
      | with_reducible apply meter_frame | (with_reducible exact partsIn_trans (by decide) hw)
      | (with_reducible refine ite_frame ?_ ?_) | split)

theorem commitParcel_frame {A : List Part} {s0 : State} (e : Extent) (location : Nat) (key : Key512)
    (kind : ParcelKind) (q : Nat) (o : OpenParcel) (new : Bytes) (s : State) (hs : s0.agree A s)
    (hw : partsIn [.out, .sb, .polders, .tray, .obj, .fns, .tracer, .gauge, .free] A = true) : s0.agree A
    (commitParcel e location key kind q o new s).2 := by
  unfold commitParcel
  try dsimp only
  repeat' (first
      | with_reducible assumption | (with_reducible intro _) | with_reducible apply parcelBreach_frame
      | with_reducible apply parcelWritten_frame | with_reducible apply putPage_frame
      | with_reducible apply putParcel_frame | with_reducible apply rollPage_frame
      | with_reducible apply storeRecord_frame | with_reducible apply unmarkParcel_frame
      | (with_reducible exact partsIn_trans (by decide) hw) | (with_reducible apply foldl_frame)
      | (with_reducible apply foldl_pair_frame) | (with_reducible apply foldl_trip_frame)
      | (with_reducible refine ite_frame ?_ ?_) | (with_reducible refine ite_pair_frame ?_ ?_)
      | (with_reducible refine ite_trip_frame ?_ ?_) | split
      | (refine frame_of_pair (by with_reducible assumption) ?_)
      | (refine frame_of_trip (by with_reducible assumption) ?_) | (dsimp only))

theorem commitStripe_frame {A : List Part} {s0 : State} (e : Extent) (location : Nat) (key : Key512) (q : Nat)
    (r : BitVec 256) (news : List Bytes) (s : State) (hs : s0.agree A s)
    (hw : partsIn [.out, .sb, .polders, .tray, .obj, .fns, .tracer, .gauge, .free] A = true) : s0.agree A
    (commitStripe e location key q r news s) := by
  unfold commitStripe
  try dsimp only
  repeat' (first
      | with_reducible assumption | (with_reducible intro _) | with_reducible apply parcelWritten_frame
      | with_reducible apply setTag_frame | with_reducible apply storeRecord_frame
      | with_reducible apply stripeWrite_frame | with_reducible apply unmarkParcel_frame
      | (with_reducible exact partsIn_trans (by decide) hw) | (with_reducible apply foldl_frame) | (dsimp only))

theorem prefetch_frame {A : List Part} {s0 : State} (e : Extent) (location : Nat) (key : Key512) (off : Nat)
    (len : Nat) (s : State) (hs : s0.agree A s) (hw : partsIn [.tray, .tracer] A = true) : s0.agree A
    (prefetch e location key off len s) := by
  unfold prefetch
  try dsimp only
  repeat' (first
      | with_reducible assumption | (with_reducible intro _) | with_reducible apply fetchBlock_frame
      | with_reducible apply modExtent_frame | with_reducible apply trimCtc_frame
      | (with_reducible exact partsIn_trans (by decide) hw) | (with_reducible apply foldl_frame)
      | (with_reducible apply foldl_pair_frame) | (with_reducible apply foldl_trip_frame)
      | (with_reducible refine ite_frame ?_ ?_) | (with_reducible refine ite_pair_frame ?_ ?_)
      | (with_reducible refine ite_trip_frame ?_ ?_) | split
      | (refine frame_of_pair (by with_reducible assumption) ?_)
      | (refine frame_of_trip (by with_reducible assumption) ?_) | (dsimp only))

theorem trayRead_frame {A : List Part} {s0 : State} (e : Extent) (location : Nat) (key : Key512) (off : Nat)
    (len : Nat) (s : State) (hs : s0.agree A s)
    (hw : partsIn [.out, .sb, .polders, .tray, .obj, .fns, .tracer, .gauge, .free] A = true) : s0.agree A
    (trayRead e location key off len s).2 := by
  unfold trayRead
  try dsimp only
  repeat' (first
      | with_reducible assumption | (with_reducible intro _) | with_reducible apply count_frame
      | with_reducible apply countBy_frame | with_reducible apply meter_frame
      | with_reducible apply openParcel_frame | with_reducible apply prefetch_frame
      | (with_reducible exact partsIn_trans (by decide) hw) | (with_reducible apply foldl_frame)
      | (with_reducible apply foldl_pair_frame) | (with_reducible apply foldl_trip_frame)
      | (with_reducible refine ite_frame ?_ ?_) | (with_reducible refine ite_pair_frame ?_ ?_)
      | (with_reducible refine ite_trip_frame ?_ ?_) | split
      | (refine frame_of_pair (by with_reducible assumption) ?_)
      | (refine frame_of_trip (by with_reducible assumption) ?_) | (dsimp only))

theorem commitOne_frame {A : List Part} {s0 : State} (e : Extent) (location : Nat) (key : Key512) (x : ParcelChange)
    (s : State) (hs : s0.agree A s)
    (hw : partsIn [.out, .sb, .polders, .tray, .obj, .fns, .tracer, .gauge, .free] A = true) : s0.agree A
    (commitOne e location key x s).2 := by
  unfold commitOne
  try dsimp only
  repeat' (first
      | with_reducible assumption | with_reducible apply commitParcel_frame | with_reducible apply count_frame
      | with_reducible apply fetchRecord_frame | with_reducible apply meter_frame
      | (with_reducible exact partsIn_trans (by decide) hw) | (with_reducible refine ite_frame ?_ ?_)
      | (with_reducible refine ite_pair_frame ?_ ?_) | (with_reducible refine ite_trip_frame ?_ ?_) | split
      | (refine frame_of_pair (by with_reducible assumption) ?_)
      | (refine frame_of_trip (by with_reducible assumption) ?_) | (dsimp only))

theorem headStripe_frame {A : List Part} {s0 : State} (e : Extent) (location : Nat) (key : Key512)
    (xs : List ParcelChange) (s : State) (hs : s0.agree A s)
    (hw : partsIn [.out, .sb, .polders, .tray, .obj, .fns, .tracer, .free] A = true) : s0.agree A
    (headStripe e location key xs s).2 := by
  unfold headStripe
  try dsimp only
  repeat' (first
      | with_reducible assumption | (with_reducible intro _) | with_reducible apply fetchRecord_frame
      | (with_reducible exact partsIn_trans (by decide) hw) | (with_reducible refine ite_frame ?_ ?_)
      | (with_reducible refine ite_pair_frame ?_ ?_) | (with_reducible refine ite_trip_frame ?_ ?_) | split
      | (refine frame_of_pair (by with_reducible assumption) ?_)
      | (refine frame_of_trip (by with_reducible assumption) ?_) | (dsimp only))

theorem commitRun_frame {A : List Part} {s0 : State} (e : Extent) (location : Nat) (key : Key512) (a0 : Nat)
    (a1 : List ParcelChange) (a2 : Status × List Nat × State) (hs : s0.agree A a2.2.2)
    (hw : partsIn [.out, .sb, .polders, .tray, .obj, .fns, .tracer, .gauge, .free] A = true) : s0.agree A
    (commitRun e location key a0 a1 a2).2.2 := by
  induction a0 generalizing a1 a2 with
  | zero => exact hs
  | succ n ih =>
    cases a1 with
    | nil => exact hs
    | cons x rest =>
      unfold commitRun
      try dsimp only
      repeat' (first
          | with_reducible assumption | with_reducible apply ih | with_reducible apply commitStripe_frame
          | with_reducible apply headStripe_frame | with_reducible apply commitOne_frame
          | (with_reducible exact partsIn_trans (by decide) hw) | split
          | (refine frame_of_pair (by with_reducible assumption) ?_) | (dsimp only))


theorem trayChange_frame {A : List Part} {s0 : State} (e : Extent) (location : Nat) (key : Key512) (off : Nat)
    (len : Nat) (full : Bool) (change : Bytes → Option Bytes) (s : State) (hs : s0.agree A s)
    (hw : partsIn [.out, .sb, .polders, .tray, .obj, .fns, .tracer, .gauge, .free] A = true) : s0.agree A
    (trayChange e location key off len full change s).2 := by
  unfold trayChange
  try dsimp only
  repeat' (first
      | with_reducible assumption | (with_reducible intro _) | with_reducible apply commitRun_frame
      | with_reducible apply openParcel_frame | with_reducible apply prefetch_frame
      | (with_reducible exact partsIn_trans (by decide) hw) | (with_reducible apply foldl_frame)
      | (with_reducible apply foldl_pair_frame) | (with_reducible apply foldl_trip_frame)
      | (with_reducible refine ite_frame ?_ ?_) | (with_reducible refine ite_pair_frame ?_ ?_)
      | (with_reducible refine ite_trip_frame ?_ ?_) | split
      | (refine frame_of_pair (by with_reducible assumption) ?_)
      | (refine frame_of_trip (by with_reducible assumption) ?_) | (with_reducible refine agree_free ?_ ?_)
      | (dsimp only))

theorem setLoc_frame {A : List Part} {s0 : State} (l : Nat) (x : LocState) (s : State) (hs : s0.agree A s)
    (hw : partsIn [.tray] A = true) : s0.agree A (setLoc l x s) := by
  unfold setLoc
  try dsimp only
  repeat' (first
      | with_reducible assumption | (with_reducible exact partsIn_trans (by decide) hw)
      | (with_reducible refine ite_frame ?_ ?_) | split | (with_reducible refine agree_tray ?_ ?_))

theorem clearMaps_frame {A : List Part} {s0 : State} (l : Nat) (s : State) (hs : s0.agree A s)
    (hw : partsIn [.tray] A = true) : s0.agree A (clearMaps l s) := by
  unfold clearMaps
  try dsimp only
  repeat' (first
      | with_reducible assumption | (with_reducible intro _) | with_reducible apply eraseDeltas_frame
      | (with_reducible exact partsIn_trans (by decide) hw) | (with_reducible refine agree_tray ?_ ?_))

theorem initLocation_frame {A : List Part} {s0 : State} (l : Nat) (s : State) (hs : s0.agree A s)
    (hw : partsIn [.tray] A = true) : s0.agree A (initLocation l s) := by
  unfold initLocation
  try dsimp only
  repeat' (first
      | with_reducible assumption | (with_reducible intro _) | with_reducible apply clearMaps_frame
      | with_reducible apply eraseDeltas_frame | (with_reducible exact partsIn_trans (by decide) hw) | split
      | (with_reducible refine agree_tray ?_ ?_))

theorem reclaimLocation_frame {A : List Part} {s0 : State} (l : Nat) (s : State) (hs : s0.agree A s)
    (hw : partsIn [.tray] A = true) : s0.agree A (reclaimLocation l s) := by
  unfold reclaimLocation
  try dsimp only
  repeat' (first
      | with_reducible assumption | (with_reducible intro _) | with_reducible apply clearMaps_frame
      | with_reducible apply setLoc_frame | (with_reducible exact partsIn_trans (by decide) hw)
      | (with_reducible refine agree_tray ?_ ?_))

theorem rekeyPage_frame {A : List Part} {s0 : State} (e : Extent) (old : Nat) (new : Nat) (oldKey : Key512)
    (newKey : Key512) (page : Nat) (s : State) (hs : s0.agree A s)
    (hw : partsIn [.out, .sb, .polders, .tray, .obj, .fns, .tracer, .free] A = true) : s0.agree A
    (rekeyPage e old new oldKey newKey page s) := by
  unfold rekeyPage
  try dsimp only
  repeat' (first
      | with_reducible assumption | (with_reducible intro _) | with_reducible apply fetchRecord_frame
      | with_reducible apply markPage_frame | with_reducible apply markParcel_frame
      | with_reducible apply parcelBreach_frame | with_reducible apply putParcel_frame
      | with_reducible apply storeRecord_frame | (with_reducible exact partsIn_trans (by decide) hw)
      | (with_reducible apply foldl_frame) | (with_reducible apply foldl_pair_frame)
      | (with_reducible apply foldl_trip_frame) | (with_reducible refine ite_frame ?_ ?_)
      | (with_reducible refine ite_pair_frame ?_ ?_) | (with_reducible refine ite_trip_frame ?_ ?_) | split
      | (refine frame_of_pair (by with_reducible assumption) ?_)
      | (refine frame_of_trip (by with_reducible assumption) ?_) | (dsimp only))

theorem deviceError_frame {A : List Part} {s0 : State} (device : Nat) (offset : Nat) (s : State) (hs : s0.agree A s)
    (hw : partsIn [.out, .sb, .polders, .tray, .obj, .fns, .weirs, .tracer, .free] A = true) : s0.agree A
    (deviceError device offset s) := by
  unfold deviceError
  try dsimp only
  repeat' (first
      | with_reducible assumption | (with_reducible intro _) | with_reducible apply count_frame
      | with_reducible apply deviceDead_frame | with_reducible apply rawWrite_frame
      | (with_reducible exact partsIn_trans (by decide) hw) | (with_reducible refine ite_frame ?_ ?_) | split
      | (with_reducible refine agree_tray ?_ ?_))

theorem deviceReturned_frame {A : List Part} {s0 : State} (device : Nat) (a0 : Nat) (a1 : Nat) (a2 : Bytes)
    (a3 : State) (hs : s0.agree A a3) (hw : partsIn [.tray] A = true) : s0.agree A
    (deviceReturned device a0 a1 a2 a3) := by
  induction a0 generalizing a1 a2 a3 with
  | zero => 
    unfold deviceReturned
    try dsimp only
    repeat' (first
        | with_reducible assumption | (with_reducible exact partsIn_trans (by decide) hw)
        | (with_reducible refine ite_frame ?_ ?_) | (with_reducible refine ite_pair_frame ?_ ?_)
        | (with_reducible refine ite_trip_frame ?_ ?_) | split
        | (refine frame_of_pair (by with_reducible assumption) ?_)
        | (refine frame_of_trip (by with_reducible assumption) ?_) | (with_reducible refine agree_tray ?_ ?_)
        | (dsimp only))
  | succ n ih => 
    unfold deviceReturned
    try dsimp only
    repeat' (first
        | with_reducible assumption | (with_reducible exact partsIn_trans (by decide) hw) | with_reducible apply ih
        | (with_reducible refine ite_frame ?_ ?_) | (with_reducible refine ite_pair_frame ?_ ?_)
        | (with_reducible refine ite_trip_frame ?_ ?_) | split
        | (refine frame_of_pair (by with_reducible assumption) ?_)
        | (refine frame_of_trip (by with_reducible assumption) ?_) | (with_reducible refine agree_tray ?_ ?_)
        | (dsimp only))

theorem rebuildRow_frame {A : List Part} {s0 : State} (group : Nat) (k : Nat) (sp : Nat) (x : ParityGroup)
    (s : State) (hs : s0.agree A s) (hw : partsIn [.tray, .weirs, .tracer] A = true) : s0.agree A
    (rebuildRow group k sp x s) := by
  unfold rebuildRow
  try dsimp only
  repeat' (first
      | with_reducible assumption | with_reducible apply count_frame | with_reducible apply rawWrite_frame
      | with_reducible apply setGroup_frame | (with_reducible exact partsIn_trans (by decide) hw) | split
      | (with_reducible refine agree_tray ?_ ?_))

theorem execDeviceFailed_frame {A : List Part} {s0 : State} (device : Nat) (s : State) (hs : s0.agree A s)
    (hw : partsIn [.out, .sb, .polders, .tray, .obj, .fns, .weirs, .tracer, .free] A = true) : FrameOut A s0
    (execDeviceFailed device s) := by
  unfold execDeviceFailed
  try dsimp only
  repeat' (first
      | with_reducible exact frameOut_fault | (with_reducible apply frameOut_next)
      | (with_reducible refine frameOut_ite ?_ ?_) | with_reducible assumption | (with_reducible intro _)
      | with_reducible apply deviceDead_frame | (with_reducible exact partsIn_trans (by decide) hw)
      | (with_reducible refine ite_frame ?_ ?_) | split | (dsimp only))

theorem execDevicePresent_frame {A : List Part} {s0 : State} (device : Nat) (s : State) (hs : s0.agree A s)
    (hw : partsIn [.tray] A = true) : FrameOut A s0 (execDevicePresent device s) := by
  unfold execDevicePresent
  try dsimp only
  repeat' (first
      | with_reducible exact frameOut_fault | (with_reducible apply frameOut_next)
      | (with_reducible refine frameOut_ite ?_ ?_) | with_reducible assumption | (with_reducible intro _)
      | (with_reducible exact partsIn_trans (by decide) hw) | (with_reducible refine ite_frame ?_ ?_) | split
      | (with_reducible refine agree_tray ?_ ?_) | (dsimp only))

theorem execRebuildRow_frame {A : List Part} {s0 : State} (group : Nat) (s : State) (hs : s0.agree A s)
    (hw : partsIn [.pins, .tray, .weirs, .tracer, .power] A = true) : FrameOut A s0 (execRebuildRow group s) := by
  unfold execRebuildRow
  try dsimp only
  repeat' (first
      | with_reducible exact frameOut_fault | (with_reducible apply frameOut_next)
      | (with_reducible refine frameOut_ite ?_ ?_) | with_reducible assumption | (with_reducible intro _)
      | with_reducible apply rebuildRow_frame | with_reducible apply withDomain_frame
      | (with_reducible exact partsIn_trans (by decide) hw) | (with_reducible refine ite_frame ?_ ?_) | split
      | (dsimp only))

theorem execRebuildEnd_frame {A : List Part} {s0 : State} (group : Nat) (s : State) (hs : s0.agree A s)
    (hw : partsIn [.out, .sb, .polders, .tray, .obj, .fns, .weirs, .tracer, .free] A = true) : FrameOut A s0
    (execRebuildEnd group s) := by
  unfold execRebuildEnd
  try dsimp only
  repeat' (first
      | with_reducible exact frameOut_fault | (with_reducible apply frameOut_next)
      | (with_reducible refine frameOut_ite ?_ ?_) | with_reducible assumption | (with_reducible intro _)
      | with_reducible apply setGroup_frame | with_reducible apply writeFault_frame
      | (with_reducible exact partsIn_trans (by decide) hw) | (with_reducible refine ite_frame ?_ ?_) | split
      | (with_reducible refine agree_tray ?_ ?_) | (dsimp only))

end Sys2Proof.Machine
end

