-- ==== Sys2Proof/Laws/FrameFauTarget.lean ====
section
/-! SUPPORT. Which parts of the state the operations of Machine/FauTarget.lean may change (State.agree). -/

namespace Sys2Proof.Machine

theorem setRecord_frame {A : List Part} {s0 : State} (x : SeqRecord) (s : State) (hs : s0.agree A s)
    (hw : partsIn [.fau] A = true) : s0.agree A (setRecord x s) := by
  unfold setRecord
  try dsimp only
  repeat' (first
      | with_reducible assumption | (with_reducible intro _) | (with_reducible exact partsIn_trans (by decide) hw)
      | (with_reducible refine agree_fau ?_ ?_))

theorem raiseRecord_frame {A : List Part} {s0 : State} (r : Released) (s : State) (hs : s0.agree A s)
    (hw : partsIn [.fau, .tracer] A = true) : s0.agree A (raiseRecord r s) := by
  unfold raiseRecord
  try dsimp only
  repeat' (first
      | with_reducible assumption | (with_reducible intro _) | with_reducible apply countBy_frame
      | with_reducible apply setRecord_frame | (with_reducible exact partsIn_trans (by decide) hw)
      | (with_reducible refine ite_frame ?_ ?_) | split | (with_reducible refine agree_fau ?_ ?_))

theorem setSeen_frame {A : List Part} {s0 : State} (r : Released) (s : State) (hs : s0.agree A s)
    (hw : partsIn [.fau] A = true) : s0.agree A (setSeen r s) := by
  unfold setSeen
  try dsimp only
  repeat' (first
      | with_reducible assumption | with_reducible apply setRecord_frame
      | (with_reducible exact partsIn_trans (by decide) hw) | split)

theorem countRoom_frame {A : List Part} {s0 : State} (r : Released) (counted : Bool) (s : State) (hs : s0.agree A s)
    (hw : partsIn [.pins, .tracer, .power] A = true) : s0.agree A (countRoom r counted s) := by
  unfold countRoom
  try dsimp only
  repeat' (first
      | with_reducible assumption | with_reducible apply count_frame | with_reducible apply wakeAll_frame
      | (with_reducible exact partsIn_trans (by decide) hw) | (with_reducible refine ite_frame ?_ ?_)
      | (with_reducible refine ite_pair_frame ?_ ?_) | (with_reducible refine ite_trip_frame ?_ ?_) | split
      | (dsimp only))

theorem enterAnswer_frame {A : List Part} {s0 : State} (r : Released) (st : Status) (flags : BitVec 6)
    (old : BitVec 64) (s : State) (hs : s0.agree A s) (hw : partsIn [.fau] A = true) : s0.agree A
    (enterAnswer r st flags old s) := by
  unfold enterAnswer
  try dsimp only
  repeat' (first
      | with_reducible assumption | (with_reducible exact partsIn_trans (by decide) hw)
      | (with_reducible refine ite_frame ?_ ?_) | split | (with_reducible refine agree_fau ?_ ?_))

theorem completeRequest_frame {A : List Part} {s0 : State} (r : Released) (st : Status) (flags : BitVec 6)
    (data : Bytes) (s : State) (hs : s0.agree A s)
    (hw : partsIn [.out, .pins, .sb, .polders, .cad, .keys, .link, .stack, .fau, .rings, .obj, .fns, .tracer, .gauge, .power, .free] A = true) :
    s0.agree A (completeRequest r st flags data s) := by
  unfold completeRequest
  try dsimp only
  repeat' (first
      | with_reducible assumption | with_reducible apply enterAnswer_frame
      | with_reducible apply sendCompletion_frame | (with_reducible exact partsIn_trans (by decide) hw))

theorem awaitAck_frame {A : List Part} {s0 : State} (r : Released) (st : Status) (flags : BitVec 6)
    (old : BitVec 64) (region : Nat) (s : State) (hs : s0.agree A s) (hw : partsIn [.fau] A = true) : s0.agree A
    (awaitAck r st flags old region s) := by
  unfold awaitAck
  try dsimp only
  repeat' (first
      | with_reducible assumption | (with_reducible exact partsIn_trans (by decide) hw)
      | (with_reducible refine agree_fau ?_ ?_))

theorem keyMismatch_frame {A : List Part} {s0 : State} (r : Released) (s : State) (hs : s0.agree A s)
    (hw : partsIn [.out, .sb, .polders, .fau, .obj, .fns, .tracer, .free] A = true) : s0.agree A
    (keyMismatch r s) := by
  unfold keyMismatch
  try dsimp only
  repeat' (first
      | with_reducible assumption | (with_reducible intro _) | with_reducible apply writeFault_frame
      | (with_reducible exact partsIn_trans (by decide) hw) | (with_reducible refine ite_frame ?_ ?_) | split
      | (with_reducible refine agree_fau ?_ ?_))

theorem targetRefused_frame {A : List Part} {s0 : State} (r : Released) (check : Byte) (st : Status) (s : State)
    (hs : s0.agree A s) (hw : partsIn [.out, .sb, .polders, .obj, .fns, .tracer, .free] A = true) : s0.agree A
    (targetRefused r check st s) := by
  unfold targetRefused
  try dsimp only
  repeat' (first
      | with_reducible assumption | with_reducible apply writeFault_frame
      | (with_reducible exact partsIn_trans (by decide) hw))

theorem beginRevoke_frame {A : List Part} {s0 : State} (e : Extent) (expired : Bool) (s : State) (hs : s0.agree A s)
    (hw : partsIn [.out, .sb, .polders, .tray, .obj, .fns, .tracer, .free] A = true) : s0.agree A
    (beginRevoke e expired s) := by
  unfold beginRevoke
  try dsimp only
  repeat' (first
      | with_reducible assumption | (with_reducible intro _) | with_reducible apply modExtent_frame
      | with_reducible apply writeFault_frame | (with_reducible exact partsIn_trans (by decide) hw)
      | (with_reducible refine ite_frame ?_ ?_) | split)

theorem leaseCheck_frame {A : List Part} {s0 : State} (e : Extent) (s : State) (hs : s0.agree A s)
    (hw : partsIn [.out, .sb, .polders, .tray, .obj, .fns, .tracer, .free] A = true) : s0.agree A
    (leaseCheck e s).2 := by
  unfold leaseCheck
  try dsimp only
  repeat' (first
      | with_reducible assumption | with_reducible apply beginRevoke_frame
      | (with_reducible exact partsIn_trans (by decide) hw) | (with_reducible refine ite_frame ?_ ?_)
      | (with_reducible refine ite_pair_frame ?_ ?_) | (with_reducible refine ite_trip_frame ?_ ?_) | split
      | (refine frame_of_pair (by with_reducible assumption) ?_)
      | (refine frame_of_trip (by with_reducible assumption) ?_) | (dsimp only))

theorem lateChecks_frame {A : List Part} {s0 : State} (r : Released) (g : Region) (s : State) (hs : s0.agree A s)
    (hw : partsIn [.out, .sb, .polders, .obj, .fns, .tracer, .free] A = true) : s0.agree A
    (lateChecks r g s).2 := by
  unfold lateChecks
  try dsimp only
  repeat' (first
      | with_reducible assumption | with_reducible apply targetRefused_frame
      | (with_reducible exact partsIn_trans (by decide) hw) | (with_reducible refine ite_frame ?_ ?_)
      | (with_reducible refine ite_pair_frame ?_ ?_) | (with_reducible refine ite_trip_frame ?_ ?_) | split
      | (dsimp only))

theorem targetChecks_frame {A : List Part} {s0 : State} (r : Released) (admitted : Bool) (s : State) (hs :
    s0.agree A s) (hw : partsIn [.out, .sb, .polders, .tray, .fau, .obj, .fns, .tracer, .free] A = true) :
    s0.agree A (targetChecks r admitted s).2 := by
  unfold targetChecks
  try dsimp only
  repeat' (first
      | with_reducible assumption | with_reducible apply keyMismatch_frame | with_reducible apply lateChecks_frame
      | with_reducible apply leaseCheck_frame | with_reducible apply targetRefused_frame
      | (with_reducible exact partsIn_trans (by decide) hw) | (with_reducible refine ite_frame ?_ ?_)
      | (with_reducible refine ite_pair_frame ?_ ?_) | (with_reducible refine ite_trip_frame ?_ ?_) | split
      | (refine frame_of_pair (by with_reducible assumption) ?_)
      | (refine frame_of_trip (by with_reducible assumption) ?_) | (dsimp only))

theorem pieceStatuses_frame {A : List Part} {s0 : State} (p : PolderId) (l : List Lookup) (write : Bool)
    (reads : Bool) (s : State) (hs : s0.agree A s)
    (hw : partsIn [.out, .pins, .sb, .polders, .cad, .keys, .stack, .obj, .fns, .tracer, .power, .free] A = true) :
    s0.agree A (pieceStatuses p l write reads s).2 := by
  unfold pieceStatuses
  try dsimp only
  repeat' (first
      | with_reducible assumption | (with_reducible intro _) | with_reducible apply needKey_frame
      | with_reducible apply wakeSlices_frame | with_reducible apply writeFault_frame
      | (with_reducible exact partsIn_trans (by decide) hw) | (with_reducible apply foldl_frame)
      | (with_reducible apply foldl_pair_frame) | (with_reducible apply foldl_trip_frame)
      | (with_reducible refine ite_frame ?_ ?_) | (with_reducible refine ite_pair_frame ?_ ?_)
      | (with_reducible refine ite_trip_frame ?_ ?_) | split
      | (refine frame_of_pair (by with_reducible assumption) ?_)
      | (refine frame_of_trip (by with_reducible assumption) ?_) | (dsimp only))

theorem stackTargetRead_frame {A : List Part} {s0 : State} (p : PolderId) (l : List Lookup) (s : State) (hs :
    s0.agree A s)
    (hw : partsIn [.out, .pins, .sb, .polders, .cad, .keys, .stack, .obj, .fns, .tracer, .gauge, .power, .free] A = true) :
    s0.agree A (stackTargetRead p l s).2 := by
  unfold stackTargetRead
  try dsimp only
  repeat' (first
      | with_reducible assumption | (with_reducible intro _) | with_reducible apply pieceStatuses_frame
      | with_reducible apply stackCount_frame | (with_reducible exact partsIn_trans (by decide) hw)
      | (with_reducible apply foldl_frame) | (with_reducible apply foldl_pair_frame)
      | (with_reducible apply foldl_trip_frame) | (with_reducible refine ite_frame ?_ ?_)
      | (with_reducible refine ite_pair_frame ?_ ?_) | (with_reducible refine ite_trip_frame ?_ ?_) | split
      | (refine frame_of_pair (by with_reducible assumption) ?_)
      | (refine frame_of_trip (by with_reducible assumption) ?_) | (dsimp only))

theorem stackTargetChange_frame {A : List Part} {s0 : State} (p : PolderId) (l : List Lookup) (full : Bool)
    (change : Bytes → Option Bytes) (s : State) (hs : s0.agree A s)
    (hw : partsIn [.out, .pins, .sb, .polders, .cad, .keys, .stack, .obj, .fns, .tracer, .gauge, .power, .free] A = true) :
    s0.agree A (stackTargetChange p l full change s).2 := by
  unfold stackTargetChange
  try dsimp only
  repeat' (first
      | with_reducible assumption | (with_reducible intro _) | with_reducible apply pieceStatuses_frame
      | with_reducible apply stackCount_frame | with_reducible apply stackWrite_frame
      | (with_reducible exact partsIn_trans (by decide) hw) | (with_reducible apply foldl_frame)
      | (with_reducible apply foldl_pair_frame) | (with_reducible apply foldl_trip_frame)
      | (with_reducible refine ite_frame ?_ ?_) | (with_reducible refine ite_pair_frame ?_ ?_)
      | (with_reducible refine ite_trip_frame ?_ ?_) | split
      | (refine frame_of_pair (by with_reducible assumption) ?_)
      | (refine frame_of_trip (by with_reducible assumption) ?_) | (with_reducible refine agree_free ?_ ?_)
      | (dsimp only))

theorem withTray_frame {A : List Part} {s0 : State} {α : Type} (access : State → Option α × State) (s : State) (hs :
    s0.agree A s) (h_access : ∀ (s : State), s0.agree A s → s0.agree A (access s).2)
    (hw : partsIn [.pins, .tracer, .power] A = true) : s0.agree A (withTray access s).2 := by
  unfold withTray
  try dsimp only
  repeat' (first
      | with_reducible assumption | with_reducible apply wakeAll_frame
      | (with_reducible exact partsIn_trans (by decide) hw) | with_reducible apply h_access
      | (with_reducible refine ite_frame ?_ ?_) | (with_reducible refine ite_pair_frame ?_ ?_)
      | (with_reducible refine ite_trip_frame ?_ ?_) | split
      | (refine frame_of_pair (by with_reducible assumption) ?_)
      | (refine frame_of_trip (by with_reducible assumption) ?_) | (dsimp only))

theorem targetRead_frame {A : List Part} {s0 : State} (p : PolderId) (g : Region) (off : Nat) (len : Nat)
    (l : List Lookup) (s : State) (hs : s0.agree A s)
    (hw : partsIn [.out, .pins, .sb, .polders, .cad, .keys, .stack, .tray, .obj, .fns, .tracer, .gauge, .power, .free] A = true) :
    s0.agree A (targetRead p g off len l s).2 := by
  unfold targetRead
  try dsimp only
  repeat' (first
      | with_reducible assumption | (with_reducible intro _) | with_reducible apply stackTargetRead_frame
      | with_reducible apply trayRead_frame | with_reducible apply withTray_frame
      | (with_reducible exact partsIn_trans (by decide) hw) | (with_reducible refine ite_frame ?_ ?_)
      | (with_reducible refine ite_pair_frame ?_ ?_) | (with_reducible refine ite_trip_frame ?_ ?_) | split
      | (refine frame_of_pair (by with_reducible assumption) ?_)
      | (refine frame_of_trip (by with_reducible assumption) ?_) | (dsimp only))

theorem targetChange_frame {A : List Part} {s0 : State} (p : PolderId) (g : Region) (off : Nat) (len : Nat)
    (full : Bool) (l : List Lookup) (change : Bytes → Option Bytes) (s : State) (hs : s0.agree A s)
    (hw : partsIn [.out, .pins, .sb, .polders, .cad, .keys, .stack, .tray, .obj, .fns, .tracer, .gauge, .power, .free] A = true) :
    s0.agree A (targetChange p g off len full l change s).2 := by
  unfold targetChange
  try dsimp only
  repeat' (first
      | with_reducible assumption | (with_reducible intro _) | with_reducible apply stackTargetChange_frame
      | with_reducible apply trayChange_frame | with_reducible apply withTray_frame
      | (with_reducible exact partsIn_trans (by decide) hw) | (with_reducible refine ite_frame ?_ ?_)
      | (with_reducible refine ite_pair_frame ?_ ?_) | (with_reducible refine ite_trip_frame ?_ ?_) | split
      | (refine frame_of_pair (by with_reducible assumption) ?_)
      | (refine frame_of_trip (by with_reducible assumption) ?_) | (dsimp only))

theorem waitMem_frame {A : List Part} {s0 : State} (r : Released) (l : List Lookup) (s : State) (hs : s0.agree A s)
    (hw : partsIn [.fau] A = true) : s0.agree A (waitMem r l s) := by
  unfold waitMem
  try dsimp only
  repeat' (first
      | with_reducible assumption | (with_reducible exact partsIn_trans (by decide) hw)
      | (with_reducible refine agree_fau ?_ ?_))

theorem performLoad_frame {A : List Part} {s0 : State} (r : Released) (g : Region) (seen : List Lookup) (s : State)
    (hs : s0.agree A s)
    (hw : partsIn [.out, .pins, .sb, .polders, .cad, .keys, .link, .stack, .tray, .fau, .rings, .obj, .fns, .tracer, .gauge, .power, .free] A = true) :
    s0.agree A (performLoad r g seen s) := by
  unfold performLoad
  try dsimp only
  repeat' (first
      | with_reducible assumption | with_reducible apply completeRequest_frame
      | with_reducible apply targetRead_frame | with_reducible apply waitMem_frame
      | (with_reducible exact partsIn_trans (by decide) hw) | (with_reducible refine ite_frame ?_ ?_)
      | (with_reducible refine ite_pair_frame ?_ ?_) | (with_reducible refine ite_trip_frame ?_ ?_) | split
      | (refine frame_of_pair (by with_reducible assumption) ?_)
      | (refine frame_of_trip (by with_reducible assumption) ?_) | (dsimp only))

theorem meterElems_frame {A : List Part} {s0 : State} (p : PolderId) (n : Nat) (s : State) (hs : s0.agree A s)
    (hw : partsIn [.gauge] A = true) : s0.agree A (meterElems p n s) := by
  unfold meterElems
  try dsimp only
  repeat' (first
      | with_reducible assumption | with_reducible apply meter_frame
      | (with_reducible exact partsIn_trans (by decide) hw) | (with_reducible refine ite_frame ?_ ?_) | split)

theorem performWriteAt_frame {A : List Part} {s0 : State} (r : Released) (g : Region) (full : Bool)
    (new : Bytes → Option Bytes) (combined : Bytes → List (Nat × Nat) → BitVec 6 × Nat) (seen : List Lookup)
    (s : State) (hs : s0.agree A s)
    (hw : partsIn [.out, .pins, .sb, .polders, .cad, .keys, .link, .stack, .tray, .fau, .rings, .obj, .fns, .tracer, .gauge, .power, .free] A = true) :
    s0.agree A (performWriteAt r g full new combined seen s) := by
  unfold performWriteAt
  try dsimp only
  repeat' (first
      | with_reducible assumption | with_reducible apply awaitAck_frame | with_reducible apply enterAnswer_frame
      | with_reducible apply meterElems_frame | with_reducible apply sendCompletion_frame
      | with_reducible apply targetChange_frame | with_reducible apply waitMem_frame
      | (with_reducible exact partsIn_trans (by decide) hw) | (with_reducible refine ite_frame ?_ ?_)
      | (with_reducible refine ite_pair_frame ?_ ?_) | (with_reducible refine ite_trip_frame ?_ ?_) | split
      | (refine frame_of_pair (by with_reducible assumption) ?_)
      | (refine frame_of_trip (by with_reducible assumption) ?_) | (dsimp only))

theorem performReduce_frame {A : List Part} {s0 : State} (r : Released) (g : Region) (seen : List Lookup)
    (s : State) (hs : s0.agree A s)
    (hw : partsIn [.out, .pins, .sb, .polders, .cad, .keys, .link, .stack, .tray, .fau, .rings, .obj, .fns, .tracer, .gauge, .power, .free] A = true) :
    s0.agree A (performReduce r g seen s) := by
  unfold performReduce
  try dsimp only
  repeat' (first
      | with_reducible assumption | (with_reducible intro _) | with_reducible apply performWriteAt_frame
      | (with_reducible exact partsIn_trans (by decide) hw) | split)

theorem performOn_frame {A : List Part} {s0 : State} (r : Released) (g : Region) (seen : List Lookup) (s : State)
    (hs : s0.agree A s)
    (hw : partsIn [.out, .pins, .sb, .polders, .cad, .keys, .link, .stack, .tray, .fau, .rings, .obj, .fns, .tracer, .gauge, .power, .free] A = true) :
    s0.agree A (performOn r g seen s) := by
  unfold performOn
  try dsimp only
  repeat' (first
      | with_reducible assumption | (with_reducible intro _) | with_reducible apply performLoad_frame
      | with_reducible apply performReduce_frame | with_reducible apply performWriteAt_frame
      | (with_reducible exact partsIn_trans (by decide) hw) | split)

theorem applySignal_frame {A : List Part} {s0 : State} (r : Released) (g : Region) (s : State) (hs : s0.agree A s)
    (hw : partsIn [.out, .sb, .polders, .sca, .obj, .fns, .tracer, .free] A = true) : s0.agree A
    (applySignal r g s).2 := by
  unfold applySignal
  try dsimp only
  repeat' (first
      | with_reducible assumption | with_reducible apply changeSync_frame | with_reducible apply syncFault_frame
      | with_reducible apply targetRefused_frame | (with_reducible exact partsIn_trans (by decide) hw)
      | (with_reducible refine ite_frame ?_ ?_) | (with_reducible refine ite_pair_frame ?_ ?_)
      | (with_reducible refine ite_trip_frame ?_ ?_) | split
      | (refine frame_of_pair (by with_reducible assumption) ?_)
      | (refine frame_of_trip (by with_reducible assumption) ?_) | (dsimp only))

theorem answerSignal_frame {A : List Part} {s0 : State} (r : Released) (s : State) (hs : s0.agree A s)
    (hw : partsIn [.out, .pins, .sb, .polders, .cad, .keys, .link, .stack, .fau, .rings, .sca, .obj, .fns, .tracer, .gauge, .power, .free] A = true) :
    s0.agree A (answerSignal r s) := by
  unfold answerSignal
  try dsimp only
  repeat' (first
      | with_reducible assumption | with_reducible apply applySignal_frame
      | with_reducible apply completeRequest_frame | (with_reducible exact partsIn_trans (by decide) hw)
      | (with_reducible refine ite_pair_frame ?_ ?_) | (with_reducible refine ite_trip_frame ?_ ?_) | split
      | (refine frame_of_pair (by with_reducible assumption) ?_)
      | (refine frame_of_trip (by with_reducible assumption) ?_) | (dsimp only))

theorem holdRequest_frame {A : List Part} {s0 : State} (r : Released) (s : State) (hs : s0.agree A s)
    (hw : partsIn [.fau, .tracer] A = true) : s0.agree A (holdRequest r s) := by
  unfold holdRequest
  try dsimp only
  repeat' (first
      | with_reducible assumption | with_reducible apply count_frame
      | (with_reducible exact partsIn_trans (by decide) hw) | (with_reducible refine ite_frame ?_ ?_) | split
      | (with_reducible refine agree_fau ?_ ?_))

theorem signalServed_frame {A : List Part} {s0 : State} (r : Released) (s : State) (hs : s0.agree A s)
    (hw : partsIn [.pins, .tracer, .power] A = true) : s0.agree A (signalServed r s).2 := by
  unfold signalServed
  try dsimp only
  repeat' (first
      | with_reducible assumption | with_reducible apply wakeAll_frame
      | (with_reducible exact partsIn_trans (by decide) hw) | (with_reducible refine ite_pair_frame ?_ ?_)
      | (with_reducible refine ite_trip_frame ?_ ?_) | (dsimp only))

theorem meetSignal_frame {A : List Part} {s0 : State} (r : Released) (s : State) (hs : s0.agree A s)
    (hw : partsIn [.out, .pins, .sb, .polders, .cad, .keys, .link, .stack, .fau, .rings, .sca, .obj, .fns, .tracer, .gauge, .power, .free] A = true) :
    s0.agree A (meetSignal r s) := by
  unfold meetSignal
  try dsimp only
  repeat' (first
      | with_reducible assumption | with_reducible apply answerSignal_frame | with_reducible apply holdRequest_frame
      | with_reducible apply signalServed_frame | (with_reducible exact partsIn_trans (by decide) hw)
      | (with_reducible refine ite_pair_frame ?_ ?_) | (with_reducible refine ite_trip_frame ?_ ?_) | split
      | (refine frame_of_pair (by with_reducible assumption) ?_)
      | (refine frame_of_trip (by with_reducible assumption) ?_) | (dsimp only))

theorem performRequest_frame {A : List Part} {s0 : State} (r : Released) (admitted : Bool) (s : State) (hs :
    s0.agree A s)
    (hw : partsIn [.out, .pins, .sb, .polders, .cad, .keys, .link, .stack, .tray, .fau, .rings, .sca, .obj, .fns, .tracer, .gauge, .power, .free] A = true) :
    s0.agree A (performRequest r admitted s) := by
  unfold performRequest
  try dsimp only
  repeat' (first
      | with_reducible assumption | with_reducible apply completeRequest_frame
      | with_reducible apply holdRequest_frame | with_reducible apply meetSignal_frame
      | with_reducible apply performOn_frame | with_reducible apply targetChecks_frame
      | with_reducible apply targetRefused_frame | (with_reducible exact partsIn_trans (by decide) hw)
      | (with_reducible refine ite_frame ?_ ?_) | (with_reducible refine ite_pair_frame ?_ ?_)
      | (with_reducible refine ite_trip_frame ?_ ?_) | split
      | (refine frame_of_pair (by with_reducible assumption) ?_)
      | (refine frame_of_trip (by with_reducible assumption) ?_) | (with_reducible refine agree_fau ?_ ?_)
      | (dsimp only))

theorem answerAgain_frame {A : List Part} {s0 : State} (r : Released) (s : State) (hs : s0.agree A s)
    (hw : partsIn [.out, .pins, .sb, .polders, .cad, .keys, .link, .stack, .tray, .fau, .rings, .sca, .obj, .fns, .tracer, .gauge, .power, .free] A = true) :
    s0.agree A (answerAgain r s) := by
  unfold answerAgain
  try dsimp only
  repeat' (first
      | with_reducible assumption | (with_reducible intro _) | with_reducible apply count_frame
      | with_reducible apply performRequest_frame | with_reducible apply sendCompletion_frame
      | (with_reducible exact partsIn_trans (by decide) hw) | (with_reducible refine ite_frame ?_ ?_) | split)

theorem performWait_frame {A : List Part} {s0 : State} (w : MemWait) (s : State) (hs : s0.agree A s)
    (hw : partsIn [.out, .pins, .sb, .polders, .cad, .keys, .link, .stack, .tray, .fau, .rings, .sca, .obj, .fns, .tracer, .gauge, .power, .free] A = true) :
    s0.agree A (performWait w s) := by
  unfold performWait
  try dsimp only
  repeat' (first
      | with_reducible assumption | with_reducible apply completeRequest_frame
      | with_reducible apply performOn_frame | with_reducible apply performRequest_frame
      | (with_reducible exact partsIn_trans (by decide) hw) | (with_reducible refine ite_frame ?_ ?_) | split)

theorem retryMemWait_frame {A : List Part} {s0 : State} (s : State) (hs : s0.agree A s)
    (hw : partsIn [.out, .pins, .sb, .polders, .cad, .keys, .link, .stack, .tray, .fau, .rings, .sca, .obj, .fns, .tracer, .gauge, .power, .free] A = true) :
    s0.agree A (retryMemWait s) := by
  unfold retryMemWait
  try dsimp only
  repeat' (first
      | with_reducible assumption | (with_reducible intro _) | with_reducible apply countRoom_frame
      | with_reducible apply performWait_frame | (with_reducible exact partsIn_trans (by decide) hw)
      | (with_reducible apply foldl_frame) | (with_reducible refine ite_frame ?_ ?_) | split
      | (with_reducible refine agree_fau ?_ ?_) | (dsimp only))

theorem serveRequest_frame {A : List Part} {s0 : State} (r : Released) (s : State) (hs : s0.agree A s)
    (hw : partsIn [.out, .pins, .sb, .polders, .cad, .keys, .link, .stack, .tray, .fau, .rings, .sca, .obj, .fns, .tracer, .gauge, .power, .free] A = true) :
    s0.agree A (serveRequest r s) := by
  unfold serveRequest
  try dsimp only
  repeat' (first
      | with_reducible assumption | with_reducible apply answerAgain_frame | with_reducible apply count_frame
      | with_reducible apply countRoom_frame | with_reducible apply dropReleased_frame
      | with_reducible apply performRequest_frame | with_reducible apply raiseRecord_frame
      | with_reducible apply retryMemWait_frame | with_reducible apply setSeen_frame
      | with_reducible apply signalServed_frame | (with_reducible exact partsIn_trans (by decide) hw)
      | (with_reducible refine ite_frame ?_ ?_) | (with_reducible refine ite_pair_frame ?_ ?_)
      | (with_reducible refine ite_trip_frame ?_ ?_) | split
      | (refine frame_of_pair (by with_reducible assumption) ?_)
      | (refine frame_of_trip (by with_reducible assumption) ?_) | (with_reducible refine agree_fau ?_ ?_)
      | (dsimp only))

theorem withFau_frame {A : List Part} {s0 : State} (serve : State → State) (s : State) (hs : s0.agree A s)
    (h_serve : ∀ s : State, s0.agree A s → s0.agree A (serve s)) (hw : partsIn [.pins, .tracer, .power] A = true) :
    s0.agree A (withFau serve s) := by
  unfold withFau
  try dsimp only
  repeat' (first
      | with_reducible assumption | (with_reducible intro _) | with_reducible apply withDomain_frame
      | (with_reducible exact partsIn_trans (by decide) hw) | with_reducible apply h_serve
      | (with_reducible refine ite_frame ?_ ?_) | split)

theorem removeRegion_frame {A : List Part} {s0 : State} (g : Region) (s : State) (hs : s0.agree A s)
    (hw : partsIn [.fau, .obj] A = true) : s0.agree A (removeRegion g s) := by
  unfold removeRegion
  try dsimp only
  repeat' (first
      | with_reducible assumption | (with_reducible intro _) | (with_reducible exact partsIn_trans (by decide) hw)
      | (with_reducible refine agree_fau ?_ ?_) | (with_reducible refine agree_obj ?_ ?_)
      | (with_reducible refine agree_upd (W := [.fau, .obj]) ?_ rfl (by intro p hp; cases p <;> (try exact absurd hp (by decide)) <;> exact rfl) ?_))

theorem releaseHold_frame {A : List Part} {s0 : State} (h : Held) (s : State) (hs : s0.agree A s)
    (hw : partsIn [.out, .pins, .sb, .polders, .cad, .keys, .link, .stack, .fau, .rings, .sca, .obj, .fns, .tracer, .gauge, .power, .free] A = true) :
    s0.agree A (releaseHold h s) := by
  unfold releaseHold
  try dsimp only
  repeat' (first
      | with_reducible assumption | (with_reducible intro _) | with_reducible apply answerSignal_frame
      | with_reducible apply completeRequest_frame | with_reducible apply countRoom_frame
      | with_reducible apply signalServed_frame | (with_reducible exact partsIn_trans (by decide) hw)
      | (with_reducible refine ite_frame ?_ ?_) | (with_reducible refine ite_pair_frame ?_ ?_)
      | (with_reducible refine ite_trip_frame ?_ ?_) | split
      | (refine frame_of_pair (by with_reducible assumption) ?_)
      | (refine frame_of_trip (by with_reducible assumption) ?_) | (with_reducible refine agree_fau ?_ ?_)
      | (dsimp only))

theorem acknowledged_frame {A : List Part} {s0 : State} (u : Unacked) (s : State) (hs : s0.agree A s)
    (hw : partsIn [.out, .pins, .sb, .polders, .cad, .keys, .link, .stack, .fau, .rings, .obj, .fns, .tracer, .gauge, .power, .free] A = true) :
    s0.agree A (acknowledged u s) := by
  unfold acknowledged
  try dsimp only
  repeat' (first
      | with_reducible assumption | (with_reducible intro _) | with_reducible apply countRoom_frame
      | with_reducible apply enterAnswer_frame | with_reducible apply sendCompletion_frame
      | (with_reducible exact partsIn_trans (by decide) hw) | (with_reducible refine ite_frame ?_ ?_) | split
      | (with_reducible refine agree_fau ?_ ?_))

theorem retryAnswerRoom_frame {A : List Part} {s0 : State} (s : State) (hs : s0.agree A s)
    (hw : partsIn [.out, .pins, .sb, .polders, .cad, .keys, .link, .stack, .fau, .rings, .sca, .obj, .fns, .tracer, .gauge, .power, .free] A = true) :
    s0.agree A (retryAnswerRoom s) := by
  unfold retryAnswerRoom
  try dsimp only
  repeat' (first
      | with_reducible assumption | (with_reducible intro _) | with_reducible apply acknowledged_frame
      | with_reducible apply releaseHold_frame | (with_reducible exact partsIn_trans (by decide) hw)
      | (with_reducible apply foldl_frame) | (with_reducible refine ite_frame ?_ ?_) | split | (dsimp only))

theorem execRegionWithdrawDrained_frame {A : List Part} {s0 : State} (index : BitVec 14) (s : State) (hs :
    s0.agree A s) (hw : partsIn [.out, .fau, .obj, .fns, .tracer] A = true) : FrameOut A s0
    (execRegionWithdrawDrained index s) := by
  unfold execRegionWithdrawDrained
  try dsimp only
  repeat' (first
      | with_reducible exact frameOut_fault | (with_reducible apply frameOut_next)
      | (with_reducible refine frameOut_ite ?_ ?_) | with_reducible assumption | (with_reducible intro _)
      | with_reducible apply finishAll_frame | with_reducible apply removeRegion_frame
      | with_reducible apply settleMemobjs_frame | (with_reducible exact partsIn_trans (by decide) hw)
      | (with_reducible refine ite_frame ?_ ?_) | split | (dsimp only))

end Sys2Proof.Machine
end

