-- ==== Sys2Proof/Laws/FrameGroups.lean ====
section
/-! SUPPORT. Which parts of the state the operations of Machine/Groups.lean may change (State.agree). -/

namespace Sys2Proof.Machine

theorem modColl_frame {A : List Part} {s0 : State} (f : Coll → Coll) (s : State) (hs : s0.agree A s)
    (hw : partsIn [.coll] A = true) : s0.agree A (modColl f s) := by
  unfold modColl
  try dsimp only
  repeat' (first
      | with_reducible assumption | (with_reducible exact partsIn_trans (by decide) hw)
      | (with_reducible refine agree_coll ?_ ?_))

theorem modGroup_frame {A : List Part} {s0 : State} (p : PolderId) (id : BitVec 16) (f : Group → Group) (s : State)
    (hs : s0.agree A s) (hw : partsIn [.coll] A = true) : s0.agree A (modGroup p id f s) := by
  unfold modGroup
  try dsimp only
  repeat' (first
      | with_reducible assumption | (with_reducible intro _) | with_reducible apply modColl_frame
      | (with_reducible exact partsIn_trans (by decide) hw))

theorem groupUsable_frame {A : List Part} {s0 : State} (p : PolderId) (id : BitVec 16) (s : State) (hs :
    s0.agree A s) (hw : partsIn [.coll] A = true) : s0.agree A (groupUsable p id s) := by
  unfold groupUsable
  try dsimp only
  repeat' (first
      | with_reducible assumption | (with_reducible intro _) | with_reducible apply modGroup_frame
      | (with_reducible exact partsIn_trans (by decide) hw) | (with_reducible apply id_frame))

theorem removeGroup_frame {A : List Part} {s0 : State} (g : Group) (s : State) (hs : s0.agree A s)
    (hw : partsIn [.datum, .coll] A = true) : s0.agree A (removeGroup g s) := by
  unfold removeGroup
  try dsimp only
  repeat' (first
      | with_reducible assumption | (with_reducible intro _) | with_reducible apply dropMarks_frame
      | with_reducible apply modColl_frame | (with_reducible exact partsIn_trans (by decide) hw))

theorem settleGroups_frame {A : List Part} {s0 : State} (s : State) (hs : s0.agree A s)
    (hw : partsIn [.out, .datum, .coll, .obj, .fns, .tracer] A = true) : s0.agree A (settleGroups s) := by
  unfold settleGroups
  try dsimp only
  repeat' (first
      | with_reducible assumption | (with_reducible intro _) | with_reducible apply finishAll_frame
      | with_reducible apply removeGroup_frame | (with_reducible exact partsIn_trans (by decide) hw)
      | (with_reducible apply foldl_frame) | (dsimp only))

theorem collectiveGroupDefineCmd_frame {A : List Part} {s0 : State} (bad : Bool) (o : Origin) (tag : BitVec 32)
    (mark : Datum) (desc : Bytes) (s : State) (hs : s0.agree A s)
    (hw : partsIn [.out, .sb, .datum, .polders, .keys, .coll, .obj, .fns, .spdm, .tracer, .power, .free] A = true) :
    s0.agree A (collectiveGroupDefineCmd bad o tag mark desc s) := by
  unfold collectiveGroupDefineCmd
  try dsimp only
  repeat' (first
      | with_reducible assumption | (with_reducible intro _) | with_reducible apply countLate_frame
      | with_reducible apply enqueueMark_frame | with_reducible apply groupUsable_frame
      | with_reducible apply modColl_frame | with_reducible apply reply_frame | with_reducible apply runCmd_frame
      | (with_reducible exact partsIn_trans (by decide) hw) | split)

theorem execCollectiveGroupDefine_frame {A : List Part} {s0 : State} (o : Origin) (tag : BitVec 32) (mark : Datum)
    (desc : Bytes) (s : State) (hs : s0.agree A s)
    (hw : partsIn [.out, .sb, .datum, .polders, .keys, .coll, .obj, .fns, .spdm, .tracer, .power, .free] A = true) :
    FrameOut A s0 (execCollectiveGroupDefine o tag mark desc s) := by
  unfold execCollectiveGroupDefine
  try dsimp only
  repeat' (first
      | with_reducible exact frameOut_fault | (with_reducible apply frameOut_next)
      | (with_reducible refine frameOut_ite ?_ ?_) | with_reducible assumption | (with_reducible intro _)
      | with_reducible apply collectiveGroupDefineCmd_frame | (with_reducible exact partsIn_trans (by decide) hw)
      | (dsimp only))

theorem collectiveGroupDestroyCmd_frame {A : List Part} {s0 : State} (bad : Bool) (o : Origin) (tag : BitVec 32)
    (polder : PolderId) (group : BitVec 16) (s : State) (hs : s0.agree A s)
    (hw : partsIn [.out, .sb, .datum, .polders, .keys, .coll, .obj, .fns, .spdm, .tracer, .power, .free] A = true) :
    s0.agree A (collectiveGroupDestroyCmd bad o tag polder group s) := by
  unfold collectiveGroupDestroyCmd
  try dsimp only
  repeat' (first
      | with_reducible assumption | (with_reducible intro _) | with_reducible apply modGroup_frame
      | with_reducible apply pend_frame | with_reducible apply runCmd_frame
      | with_reducible apply settleGroups_frame | (with_reducible exact partsIn_trans (by decide) hw))

theorem execCollectiveGroupDestroy_frame {A : List Part} {s0 : State} (o : Origin) (tag : BitVec 32)
    (polder : PolderId) (group : BitVec 16) (s : State) (hs : s0.agree A s)
    (hw : partsIn [.out, .sb, .datum, .polders, .keys, .coll, .obj, .fns, .spdm, .tracer, .power, .free] A = true) :
    FrameOut A s0 (execCollectiveGroupDestroy o tag polder group s) := by
  unfold execCollectiveGroupDestroy
  try dsimp only
  repeat' (first
      | with_reducible exact frameOut_fault | (with_reducible apply frameOut_next)
      | (with_reducible refine frameOut_ite ?_ ?_) | with_reducible assumption | (with_reducible intro _)
      | with_reducible apply collectiveGroupDestroyCmd_frame | (with_reducible exact partsIn_trans (by decide) hw)
      | (dsimp only))

theorem groupQueryCmd_frame {A : List Part} {s0 : State} (bad : Bool) (o : Origin) (tag : BitVec 32)
    (polder : PolderId) (group : BitVec 16) (s : State) (hs : s0.agree A s)
    (hw : partsIn [.out, .sb, .polders, .keys, .obj, .fns, .spdm, .tracer, .power, .free] A = true) : s0.agree A
    (groupQueryCmd bad o tag polder group s) := by
  unfold groupQueryCmd
  try dsimp only
  repeat' (first
      | with_reducible assumption | (with_reducible intro _) | with_reducible apply reply_frame
      | with_reducible apply runCmd_frame | (with_reducible exact partsIn_trans (by decide) hw) | split)

theorem execGroupQuery_frame {A : List Part} {s0 : State} (o : Origin) (tag : BitVec 32) (polder : PolderId)
    (group : BitVec 16) (s : State) (hs : s0.agree A s)
    (hw : partsIn [.out, .sb, .polders, .keys, .obj, .fns, .spdm, .tracer, .power, .free] A = true) : FrameOut A s0
    (execGroupQuery o tag polder group s) := by
  unfold execGroupQuery
  try dsimp only
  repeat' (first
      | with_reducible exact frameOut_fault | (with_reducible apply frameOut_next)
      | (with_reducible refine frameOut_ite ?_ ?_) | with_reducible assumption | (with_reducible intro _)
      | with_reducible apply groupQueryCmd_frame | (with_reducible exact partsIn_trans (by decide) hw)
      | (dsimp only))

theorem mcastGroupJoinCmd_frame {A : List Part} {s0 : State} (bad : Bool) (o : Origin) (tag : BitVec 32)
    (polder : PolderId) (group : InstId) (members : BitVec 8192) (s : State) (hs : s0.agree A s)
    (hw : partsIn [.out, .sb, .polders, .keys, .link, .obj, .fns, .spdm, .tracer, .power, .free] A = true) :
    s0.agree A (mcastGroupJoinCmd bad o tag polder group members s) := by
  unfold mcastGroupJoinCmd
  try dsimp only
  repeat' (first
      | with_reducible assumption | (with_reducible intro _) | with_reducible apply reply_frame
      | with_reducible apply runCmd_frame | (with_reducible exact partsIn_trans (by decide) hw) | split
      | (with_reducible refine agree_link ?_ ?_))

theorem execMcastGroupJoin_frame {A : List Part} {s0 : State} (o : Origin) (tag : BitVec 32) (polder : PolderId)
    (group : InstId) (members : BitVec 8192) (s : State) (hs : s0.agree A s)
    (hw : partsIn [.out, .sb, .polders, .keys, .link, .obj, .fns, .spdm, .tracer, .power, .free] A = true) :
    FrameOut A s0 (execMcastGroupJoin o tag polder group members s) := by
  unfold execMcastGroupJoin
  try dsimp only
  repeat' (first
      | with_reducible exact frameOut_fault | (with_reducible apply frameOut_next)
      | (with_reducible refine frameOut_ite ?_ ?_) | with_reducible assumption | (with_reducible intro _)
      | with_reducible apply mcastGroupJoinCmd_frame | (with_reducible exact partsIn_trans (by decide) hw)
      | (dsimp only))

theorem leaveGroup_frame {A : List Part} {s0 : State} (polder : PolderId) (group : InstId) (s : State) (hs :
    s0.agree A s) (hw : partsIn [.link] A = true) : s0.agree A (leaveGroup polder group s) := by
  unfold leaveGroup
  try dsimp only
  repeat' (first
      | with_reducible assumption | (with_reducible intro _) | (with_reducible exact partsIn_trans (by decide) hw)
      | split | (with_reducible refine agree_link ?_ ?_))

theorem mcastGroupLeaveCmd_frame {A : List Part} {s0 : State} (bad : Bool) (o : Origin) (tag : BitVec 32)
    (polder : PolderId) (group : InstId) (s : State) (hs : s0.agree A s)
    (hw : partsIn [.out, .sb, .polders, .keys, .link, .obj, .fns, .spdm, .tracer, .power, .free] A = true) :
    s0.agree A (mcastGroupLeaveCmd bad o tag polder group s) := by
  unfold mcastGroupLeaveCmd
  try dsimp only
  repeat' (first
      | with_reducible assumption | (with_reducible intro _) | with_reducible apply leaveGroup_frame
      | with_reducible apply reply_frame | with_reducible apply runCmd_frame
      | (with_reducible exact partsIn_trans (by decide) hw) | split)

theorem execMcastGroupLeave_frame {A : List Part} {s0 : State} (o : Origin) (tag : BitVec 32) (polder : PolderId)
    (group : InstId) (s : State) (hs : s0.agree A s)
    (hw : partsIn [.out, .sb, .polders, .keys, .link, .obj, .fns, .spdm, .tracer, .power, .free] A = true) :
    FrameOut A s0 (execMcastGroupLeave o tag polder group s) := by
  unfold execMcastGroupLeave
  try dsimp only
  repeat' (first
      | with_reducible exact frameOut_fault | (with_reducible apply frameOut_next)
      | (with_reducible refine frameOut_ite ?_ ?_) | with_reducible assumption | (with_reducible intro _)
      | with_reducible apply mcastGroupLeaveCmd_frame | (with_reducible exact partsIn_trans (by decide) hw)
      | (dsimp only))

theorem dropMalformed_frame {A : List Part} {s0 : State} (r : Released) (s : State) (hs : s0.agree A s)
    (hw : partsIn [.polders] A = true) : s0.agree A (dropMalformed r s) := by
  unfold dropMalformed
  try dsimp only
  repeat' (first
      | with_reducible assumption | (with_reducible intro _) | with_reducible apply modPolderCounters_frame
      | (with_reducible exact partsIn_trans (by decide) hw))

theorem admitColl_frame {A : List Part} {s0 : State} (r : Released) (open_ : Bool) (s : State) (hs : s0.agree A s)
    (hw : partsIn [.polders] A = true) : s0.agree A (admitColl r open_ s).2 := by
  unfold admitColl
  try dsimp only
  repeat' (first
      | with_reducible assumption | with_reducible apply dropMalformed_frame
      | (with_reducible exact partsIn_trans (by decide) hw) | (with_reducible refine ite_frame ?_ ?_)
      | (with_reducible refine ite_pair_frame ?_ ?_) | (with_reducible refine ite_trip_frame ?_ ?_) | split
      | (refine frame_of_pair (by with_reducible assumption) ?_)
      | (refine frame_of_trip (by with_reducible assumption) ?_) | (dsimp only))

theorem serveColl_frame {A : List Part} {s0 : State} (up : Bool) (type : BitVec 4) (barrier : Bool)
    (serve : Group → Released → State → State) (s : State) (hs : s0.agree A s) (h_serve : ∀ x0 x1 (s : State),
    s0.agree A s → s0.agree A (serve x0 x1 s)) (hw : partsIn [.pins, .polders, .link, .tracer, .power] A = true) :
    s0.agree A (serveColl up type barrier serve s) := by
  unfold serveColl
  try dsimp only
  repeat' (first
      | with_reducible assumption | (with_reducible intro _) | with_reducible apply admitColl_frame
      | with_reducible apply dropReleased_frame | with_reducible apply withDomains_frame
      | (with_reducible exact partsIn_trans (by decide) hw) | with_reducible apply h_serve
      | (with_reducible refine ite_frame ?_ ?_) | (with_reducible refine ite_pair_frame ?_ ?_)
      | (with_reducible refine ite_trip_frame ?_ ?_) | split
      | (refine frame_of_pair (by with_reducible assumption) ?_)
      | (refine frame_of_trip (by with_reducible assumption) ?_) | (dsimp only))

theorem recordLate_frame {A : List Part} {s0 : State} (p : PolderId) (i : InstId) (first : Datum) (step : Option
    (BitVec 64)) (s : State) (hs : s0.agree A s) (hw : partsIn [.coll] A = true) : s0.agree A
    (recordLate p i first step s) := by
  unfold recordLate
  try dsimp only
  repeat' (first
      | with_reducible assumption | (with_reducible intro _) | with_reducible apply modColl_frame
      | (with_reducible exact partsIn_trans (by decide) hw) | (with_reducible refine ite_frame ?_ ?_) | split)

end Sys2Proof.Machine
end

