-- ==== Sys2Proof/Laws/FrameColl.lean ====
section
/-! SUPPORT. Which parts of the state the operations of Machine/Coll.lean may change (State.agree). -/

namespace Sys2Proof.Machine

theorem sendTracked_frame {A : List Part} {s0 : State} (k : TxPacket) (id : BitVec 32) (below : Nat) (s : State)
    (hs : s0.agree A s)
    (hw : partsIn [.out, .pins, .sb, .polders, .cad, .keys, .link, .stack, .fau, .rings, .coll, .obj, .fns, .tracer, .gauge, .power, .free] A = true) :
    s0.agree A (sendTracked k id below s).2 := by
  unfold sendTracked
  try dsimp only
  repeat' (first
      | with_reducible assumption | (with_reducible intro _) | with_reducible apply modColl_frame
      | with_reducible apply sendPacket_frame | (with_reducible exact partsIn_trans (by decide) hw)
      | (with_reducible apply id_frame) | (with_reducible refine ite_pair_frame ?_ ?_)
      | (with_reducible refine ite_trip_frame ?_ ?_) | split
      | (refine frame_of_pair (by with_reducible assumption) ?_)
      | (refine frame_of_trip (by with_reducible assumption) ?_) | (dsimp only))

theorem sendAll_frame {A : List Part} {s0 : State} (id : BitVec 32) (a0 : List (TxPacket × Nat)) (a1 : State) (hs :
    s0.agree A a1)
    (hw : partsIn [.out, .pins, .sb, .polders, .cad, .keys, .link, .stack, .fau, .rings, .coll, .obj, .fns, .tracer, .gauge, .power, .free] A = true) :
    s0.agree A (sendAll id a0 a1).2 := by
  induction a0 generalizing a1 with
  | nil => 
    unfold sendAll
    try dsimp only
    repeat' (first
        | with_reducible assumption | with_reducible apply sendTracked_frame
        | (with_reducible exact partsIn_trans (by decide) hw) | (with_reducible apply id_frame)
        | (with_reducible refine ite_pair_frame ?_ ?_) | (with_reducible refine ite_trip_frame ?_ ?_) | split
        | (refine frame_of_pair (by with_reducible assumption) ?_)
        | (refine frame_of_trip (by with_reducible assumption) ?_) | (dsimp only))
  | cons x l ih => 
    unfold sendAll
    try dsimp only
    repeat' (first
        | with_reducible assumption | with_reducible apply sendTracked_frame
        | (with_reducible exact partsIn_trans (by decide) hw) | with_reducible apply ih
        | (with_reducible apply id_frame) | (with_reducible refine ite_pair_frame ?_ ?_)
        | (with_reducible refine ite_trip_frame ?_ ?_) | split
        | (refine frame_of_pair (by with_reducible assumption) ?_)
        | (refine frame_of_trip (by with_reducible assumption) ?_) | (dsimp only))

theorem sendEach_frame {A : List Part} {s0 : State}  (a0 : List TxPacket) (a1 : State) (hs : s0.agree A a1)
    (hw : partsIn [.out, .pins, .sb, .polders, .cad, .keys, .link, .stack, .fau, .rings, .obj, .fns, .tracer, .gauge, .power, .free] A = true) :
    s0.agree A (sendEach a0 a1).2 := by
  induction a0 generalizing a1 with
  | nil => 
    unfold sendEach
    try dsimp only
    repeat' (first
        | with_reducible assumption | with_reducible apply sendPacket_frame
        | (with_reducible exact partsIn_trans (by decide) hw) | (with_reducible refine ite_pair_frame ?_ ?_)
        | (with_reducible refine ite_trip_frame ?_ ?_) | split
        | (refine frame_of_pair (by with_reducible assumption) ?_)
        | (refine frame_of_trip (by with_reducible assumption) ?_) | (dsimp only))
  | cons x l ih => 
    unfold sendEach
    try dsimp only
    repeat' (first
        | with_reducible assumption | with_reducible apply sendPacket_frame
        | (with_reducible exact partsIn_trans (by decide) hw) | with_reducible apply ih
        | (with_reducible refine ite_pair_frame ?_ ?_) | (with_reducible refine ite_trip_frame ?_ ?_) | split
        | (refine frame_of_pair (by with_reducible assumption) ?_)
        | (refine frame_of_trip (by with_reducible assumption) ?_) | (dsimp only))

theorem clearSent_frame {A : List Part} {s0 : State} (p : PolderId) (id : BitVec 32) (through : Nat) (credit : Nat)
    (s : State) (hs : s0.agree A s) (hw : partsIn [.coll] A = true) : s0.agree A
    (clearSent p id through credit s) := by
  unfold clearSent
  try dsimp only
  repeat' (first
      | with_reducible assumption | (with_reducible intro _) | with_reducible apply modColl_frame
      | (with_reducible exact partsIn_trans (by decide) hw) | (with_reducible apply id_frame))

theorem forgetPackets_frame {A : List Part} {s0 : State} (p : PolderId) (id : BitVec 32) (s : State) (hs :
    s0.agree A s) (hw : partsIn [.link, .coll] A = true) : s0.agree A (forgetPackets p id s) := by
  unfold forgetPackets
  try dsimp only
  repeat' (first
      | with_reducible assumption | (with_reducible intro _) | with_reducible apply modColl_frame
      | (with_reducible exact partsIn_trans (by decide) hw) | (with_reducible apply id_frame)
      | (with_reducible refine agree_link ?_ ?_))

theorem setPart_frame {A : List Part} {s0 : State} (c : Participant) (s : State) (hs : s0.agree A s)
    (hw : partsIn [.coll] A = true) : s0.agree A (setPart c s) := by
  unfold setPart
  try dsimp only
  repeat' (first
      | with_reducible assumption | (with_reducible intro _) | with_reducible apply modColl_frame
      | (with_reducible exact partsIn_trans (by decide) hw))

theorem traceColl_frame {A : List Part} {s0 : State} (ended : Bool) (l : Launch) (c : Option CtxId) (st : Status)
    (s : State) (hs : s0.agree A s) (hw : partsIn [.tracer, .free] A = true) : s0.agree A
    (traceColl ended l c st s) := by
  unfold traceColl
  try dsimp only
  repeat' (first
      | with_reducible assumption | with_reducible apply emitTrace_frame
      | (with_reducible exact partsIn_trans (by decide) hw) | split)

theorem completePart_frame {A : List Part} {s0 : State} (c : Participant) (st : Status) (result : Nat)
    (flags : BitVec 6) (s : State) (hs : s0.agree A s)
    (hw : partsIn [.out, .datum, .link, .coll, .obj, .fns, .tracer, .free] A = true) : s0.agree A
    (completePart c st result flags s) := by
  unfold completePart
  try dsimp only
  repeat' (first
      | with_reducible assumption | (with_reducible intro _) | with_reducible apply count_frame
      | with_reducible apply dropMarks_frame | with_reducible apply endDescriptor_frame
      | with_reducible apply forgetPackets_frame | with_reducible apply modColl_frame
      | with_reducible apply settleGroups_frame | with_reducible apply traceColl_frame
      | (with_reducible exact partsIn_trans (by decide) hw) | (with_reducible refine ite_frame ?_ ?_) | split)

theorem sendAbort_frame {A : List Part} {s0 : State} (g : Group) (id : BitVec 32) (cls : BitVec 4) (m : BitVec 16)
    (node : Option Nat) (st : Status) (inst : InstId) (s : State) (hs : s0.agree A s)
    (hw : partsIn [.out, .pins, .sb, .polders, .cad, .keys, .link, .stack, .fau, .rings, .obj, .fns, .tracer, .gauge, .power, .free] A = true) :
    s0.agree A (sendAbort g id cls m node st inst s) := by
  unfold sendAbort
  try dsimp only
  repeat' (first
      | with_reducible assumption | (with_reducible intro _) | with_reducible apply sendQuietly_frame
      | (with_reducible exact partsIn_trans (by decide) hw) | (with_reducible apply id_frame)
      | (with_reducible refine ite_frame ?_ ?_) | split)

theorem abortPart_frame {A : List Part} {s0 : State} (c : Participant) (st : Status) (s : State) (hs : s0.agree A s)
    (hw : partsIn [.out, .pins, .sb, .datum, .polders, .cad, .keys, .link, .stack, .fau, .rings, .coll, .obj, .fns, .tracer, .gauge, .power, .free] A = true) :
    s0.agree A (abortPart c st s) := by
  unfold abortPart
  try dsimp only
  repeat' (first
      | with_reducible assumption | with_reducible apply completePart_frame | with_reducible apply sendAbort_frame
      | (with_reducible exact partsIn_trans (by decide) hw) | split)

theorem readSource_frame {A : List Part} {s0 : State} (c : Participant) (off : Nat) (len : Nat) (s : State) (hs :
    s0.agree A s)
    (hw : partsIn [.out, .pins, .sb, .polders, .cad, .keys, .stack, .obj, .fns, .tracer, .gauge, .power, .free] A = true) :
    s0.agree A (readSource c off len s).2.2 := by
  unfold readSource
  try dsimp only
  repeat' (first
      | with_reducible assumption | with_reducible apply localCheck_frame | with_reducible apply stackCount_frame
      | (with_reducible exact partsIn_trans (by decide) hw) | (with_reducible refine ite_pair_frame ?_ ?_)
      | (with_reducible refine ite_trip_frame ?_ ?_) | split
      | (refine frame_of_pair (by with_reducible assumption) ?_)
      | (refine frame_of_trip (by with_reducible assumption) ?_) | (dsimp only))

theorem pumpData_frame {A : List Part} {s0 : State} (g : Group) (rank : Nat) (a0 : Nat) (a1 : Participant)
    (a2 : State) (hs : s0.agree A a2)
    (hw : partsIn [.out, .pins, .sb, .datum, .polders, .cad, .keys, .link, .stack, .fau, .rings, .coll, .obj, .fns, .tracer, .gauge, .power, .free] A = true) :
    s0.agree A (pumpData g rank a0 a1 a2) := by
  induction a0 generalizing a1 a2 with
  | zero => 
    unfold pumpData
    try dsimp only
    repeat' (first
        | with_reducible assumption | with_reducible apply abortPart_frame | with_reducible apply readSource_frame
        | with_reducible apply sendTracked_frame | with_reducible apply setPart_frame
        | (with_reducible exact partsIn_trans (by decide) hw) | (with_reducible refine ite_frame ?_ ?_)
        | (with_reducible refine ite_pair_frame ?_ ?_) | (with_reducible refine ite_trip_frame ?_ ?_) | split
        | (refine frame_of_pair (by with_reducible assumption) ?_)
        | (refine frame_of_trip (by with_reducible assumption) ?_) | (dsimp only))
  | succ n ih => 
    unfold pumpData
    try dsimp only
    repeat' (first
        | with_reducible assumption | with_reducible apply abortPart_frame | with_reducible apply readSource_frame
        | with_reducible apply sendTracked_frame | with_reducible apply setPart_frame
        | (with_reducible exact partsIn_trans (by decide) hw) | with_reducible apply ih
        | (with_reducible refine ite_frame ?_ ?_) | (with_reducible refine ite_pair_frame ?_ ?_)
        | (with_reducible refine ite_trip_frame ?_ ?_) | split
        | (refine frame_of_pair (by with_reducible assumption) ?_)
        | (refine frame_of_trip (by with_reducible assumption) ?_) | (dsimp only))

theorem pumpPart_frame {A : List Part} {s0 : State} (p : PolderId) (id : BitVec 32) (s : State) (hs : s0.agree A s)
    (hw : partsIn [.out, .pins, .sb, .datum, .polders, .cad, .keys, .link, .stack, .fau, .rings, .coll, .obj, .fns, .tracer, .gauge, .power, .free] A = true) :
    s0.agree A (pumpPart p id s) := by
  unfold pumpPart
  try dsimp only
  repeat' (first
      | with_reducible assumption | (with_reducible intro _) | with_reducible apply abortPart_frame
      | with_reducible apply pumpData_frame | with_reducible apply readSource_frame
      | with_reducible apply sendAll_frame | with_reducible apply sendTracked_frame
      | with_reducible apply setPart_frame | with_reducible apply traceColl_frame
      | (with_reducible exact partsIn_trans (by decide) hw) | (with_reducible apply id_frame)
      | (with_reducible refine ite_frame ?_ ?_) | (with_reducible refine ite_pair_frame ?_ ?_)
      | (with_reducible refine ite_trip_frame ?_ ?_) | split
      | (refine frame_of_pair (by with_reducible assumption) ?_)
      | (refine frame_of_trip (by with_reducible assumption) ?_) | (dsimp only))

theorem fireLaunch_frame {A : List Part} {s0 : State} (p : PolderId) (id : BitVec 32) (s : State) (hs :
    s0.agree A s)
    (hw : partsIn [.out, .pins, .sb, .datum, .polders, .cad, .keys, .link, .stack, .fau, .rings, .coll, .obj, .fns, .tracer, .gauge, .power, .free] A = true) :
    s0.agree A (fireLaunch p id s) := by
  unfold fireLaunch
  try dsimp only
  repeat' (first
      | with_reducible assumption | with_reducible apply pumpPart_frame | with_reducible apply setPart_frame
      | (with_reducible exact partsIn_trans (by decide) hw) | (with_reducible apply id_frame) | split)

theorem execCollectiveLaunch_frame {A : List Part} {s0 : State} (queue : BitVec 8) (s : State) (hs : s0.agree A s)
    (hw : partsIn [.out, .pins, .sb, .datum, .polders, .cad, .keys, .link, .stack, .fau, .rings, .coll, .obj, .fns, .tracer, .gauge, .power, .free] A = true) :
    FrameOut A s0 (execCollectiveLaunch queue s) := by
  unfold execCollectiveLaunch
  try dsimp only
  repeat' (first
      | with_reducible exact frameOut_fault | (with_reducible apply frameOut_next)
      | (with_reducible refine frameOut_ite ?_ ?_) | with_reducible assumption | (with_reducible intro _)
      | with_reducible apply beginDescriptor_frame | with_reducible apply countLate_frame
      | with_reducible apply endDescriptor_frame | with_reducible apply enqueueMark_frame
      | with_reducible apply fireLaunch_frame | with_reducible apply modColl_frame
      | with_reducible apply withDomains_frame | (with_reducible exact partsIn_trans (by decide) hw)
      | (with_reducible refine ite_frame ?_ ?_) | split | (dsimp only))

theorem partReceipt_frame {A : List Part} {s0 : State} (c : Participant) (through : Nat) (credit : Nat) (s : State)
    (hs : s0.agree A s)
    (hw : partsIn [.out, .pins, .sb, .datum, .polders, .cad, .keys, .link, .stack, .fau, .rings, .coll, .obj, .fns, .tracer, .gauge, .power, .free] A = true) :
    s0.agree A (partReceipt c through credit s) := by
  unfold partReceipt
  try dsimp only
  repeat' (first
      | with_reducible assumption | with_reducible apply clearSent_frame | with_reducible apply pumpPart_frame
      | with_reducible apply setPart_frame | (with_reducible exact partsIn_trans (by decide) hw)
      | (with_reducible refine ite_frame ?_ ?_) | split)

theorem partReport_frame {A : List Part} {s0 : State} (g : Group) (c : Participant) (s : State) (hs : s0.agree A s)
    (hw : partsIn [.out, .pins, .sb, .datum, .polders, .cad, .keys, .link, .stack, .fau, .rings, .coll, .obj, .fns, .tracer, .gauge, .power, .free] A = true) :
    s0.agree A (partReport g c s) := by
  unfold partReport
  try dsimp only
  repeat' (first
      | with_reducible assumption | with_reducible apply abortPart_frame | with_reducible apply sendPacket_frame
      | (with_reducible exact partsIn_trans (by decide) hw) | (with_reducible refine ite_pair_frame ?_ ?_)
      | (with_reducible refine ite_trip_frame ?_ ?_) | split
      | (refine frame_of_pair (by with_reducible assumption) ?_)
      | (refine frame_of_trip (by with_reducible assumption) ?_) | (dsimp only))

theorem partResult_frame {A : List Part} {s0 : State} (g : Group) (c : Participant) (r : Released) (s : State) (hs :
    s0.agree A s)
    (hw : partsIn [.out, .pins, .sb, .datum, .polders, .cad, .keys, .link, .stack, .fau, .rings, .coll, .obj, .fns, .tracer, .gauge, .power, .free] A = true) :
    s0.agree A (partResult g c r s) := by
  unfold partResult
  try dsimp only
  repeat' (first
      | with_reducible assumption | (with_reducible intro _) | with_reducible apply localCheck_frame
      | with_reducible apply partReport_frame | with_reducible apply setPart_frame
      | with_reducible apply stackCount_frame | with_reducible apply stackWrite_frame
      | (with_reducible exact partsIn_trans (by decide) hw) | (with_reducible refine ite_frame ?_ ?_)
      | (with_reducible refine ite_pair_frame ?_ ?_) | (with_reducible refine ite_trip_frame ?_ ?_) | split
      | (refine frame_of_pair (by with_reducible assumption) ?_)
      | (refine frame_of_trip (by with_reducible assumption) ?_) | (with_reducible refine agree_link ?_ ?_)
      | (dsimp only))

theorem partDone_frame {A : List Part} {s0 : State} (c : Participant) (r : Released) (s : State) (hs : s0.agree A s)
    (hw : partsIn [.out, .datum, .link, .coll, .obj, .fns, .tracer, .free] A = true) : s0.agree A
    (partDone c r s) := by
  unfold partDone
  try dsimp only
  repeat' (first
      | with_reducible assumption | with_reducible apply completePart_frame
      | (with_reducible exact partsIn_trans (by decide) hw))

theorem setSinkRec_frame {A : List Part} {s0 : State} (k : SinkRecord) (s : State) (hs : s0.agree A s)
    (hw : partsIn [.coll] A = true) : s0.agree A (setSinkRec k s) := by
  unfold setSinkRec
  try dsimp only
  repeat' (first
      | with_reducible assumption | (with_reducible intro _) | with_reducible apply modColl_frame
      | (with_reducible exact partsIn_trans (by decide) hw))

theorem sinkChecks_frame {A : List Part} {s0 : State} (r : Released) (off : Nat) (len : Nat) (s : State) (hs :
    s0.agree A s) (hw : partsIn [.out, .sb, .polders, .tray, .fau, .obj, .fns, .tracer, .free] A = true) :
    s0.agree A (sinkChecks r off len s).2 := by
  unfold sinkChecks
  try dsimp only
  repeat' (first
      | with_reducible assumption | with_reducible apply keyMismatch_frame | with_reducible apply leaseCheck_frame
      | with_reducible apply targetRefused_frame | (with_reducible exact partsIn_trans (by decide) hw)
      | (with_reducible refine ite_frame ?_ ?_) | (with_reducible refine ite_pair_frame ?_ ?_)
      | (with_reducible refine ite_trip_frame ?_ ?_) | split
      | (refine frame_of_pair (by with_reducible assumption) ?_)
      | (refine frame_of_trip (by with_reducible assumption) ?_) | (dsimp only))

theorem sinkAdd_frame {A : List Part} {s0 : State} (k : SinkEntry) (disp : Nat) (first : Nat) (n : Nat)
    (r : Released) (s : State) (hs : s0.agree A s)
    (hw : partsIn [.out, .pins, .sb, .polders, .cad, .keys, .stack, .tray, .fau, .obj, .fns, .tracer, .gauge, .power, .free] A = true) :
    s0.agree A (sinkAdd k disp first n r s).2 := by
  unfold sinkAdd
  try dsimp only
  repeat' (first
      | with_reducible assumption | (with_reducible intro _) | with_reducible apply meterElems_frame
      | with_reducible apply sinkChecks_frame | with_reducible apply targetChange_frame
      | (with_reducible exact partsIn_trans (by decide) hw) | (with_reducible refine ite_frame ?_ ?_)
      | (with_reducible refine ite_pair_frame ?_ ?_) | (with_reducible refine ite_trip_frame ?_ ?_) | split
      | (refine frame_of_pair (by with_reducible assumption) ?_)
      | (refine frame_of_trip (by with_reducible assumption) ?_) | (dsimp only))

theorem sinkAddAll_frame {A : List Part} {s0 : State} (disp : Nat) (first : Nat) (n : Nat) (r : Released) (a0 : List
    (SinkEntry × Nat)) (a1 : SinkRecord) (a2 : State) (hs : s0.agree A a2)
    (hw : partsIn [.out, .pins, .sb, .polders, .cad, .keys, .stack, .tray, .fau, .obj, .fns, .tracer, .gauge, .power, .free] A = true) :
    s0.agree A (sinkAddAll disp first n r a0 a1 a2).2.2 := by
  induction a0 generalizing a1 a2 with
  | nil => 
    unfold sinkAddAll
    try dsimp only
    repeat' (first
        | with_reducible assumption | with_reducible apply sinkAdd_frame
        | (with_reducible exact partsIn_trans (by decide) hw) | (with_reducible refine ite_frame ?_ ?_)
        | (with_reducible refine ite_pair_frame ?_ ?_) | (with_reducible refine ite_trip_frame ?_ ?_) | split
        | (refine frame_of_pair (by with_reducible assumption) ?_)
        | (refine frame_of_trip (by with_reducible assumption) ?_) | (dsimp only))
  | cons x l ih => 
    unfold sinkAddAll
    try dsimp only
    repeat' (first
        | with_reducible assumption | with_reducible apply sinkAdd_frame
        | (with_reducible exact partsIn_trans (by decide) hw) | with_reducible apply ih
        | (with_reducible refine ite_frame ?_ ?_) | (with_reducible refine ite_pair_frame ?_ ?_)
        | (with_reducible refine ite_trip_frame ?_ ?_) | split
        | (refine frame_of_pair (by with_reducible assumption) ?_)
        | (refine frame_of_trip (by with_reducible assumption) ?_) | (dsimp only))

theorem sinkReport_frame {A : List Part} {s0 : State} (g : Group) (k : SinkRecord) (r : Released) (total : Nat)
    (s : State) (hs : s0.agree A s)
    (hw : partsIn [.out, .pins, .sb, .polders, .cad, .keys, .link, .stack, .fau, .rings, .obj, .fns, .tracer, .gauge, .power, .free] A = true) :
    s0.agree A (sinkReport g k r total s) := by
  unfold sinkReport
  try dsimp only
  repeat' (first
      | with_reducible assumption | (with_reducible intro _) | with_reducible apply sendQuietly_frame
      | (with_reducible exact partsIn_trans (by decide) hw) | (with_reducible refine ite_frame ?_ ?_) | split)

theorem sinkRecord_frame {A : List Part} {s0 : State} (g : Group) (r : Released) (s : State) (hs : s0.agree A s)
    (hw : partsIn [.coll, .free] A = true) : s0.agree A (sinkRecord g r s).2 := by
  unfold sinkRecord
  try dsimp only
  repeat' (first
      | with_reducible assumption | (with_reducible intro _) | with_reducible apply modColl_frame
      | with_reducible apply setSinkRec_frame | with_reducible apply tookFree_frame
      | (with_reducible exact partsIn_trans (by decide) hw) | (with_reducible apply id_frame)
      | (with_reducible refine ite_frame ?_ ?_) | (with_reducible refine ite_pair_frame ?_ ?_)
      | (with_reducible refine ite_trip_frame ?_ ?_) | split
      | (refine frame_of_pair (by with_reducible assumption) ?_)
      | (refine frame_of_trip (by with_reducible assumption) ?_) | (dsimp only))

theorem sinkResult_frame {A : List Part} {s0 : State} (g : Group) (r : Released) (s : State) (hs : s0.agree A s)
    (hw : partsIn [.out, .pins, .sb, .polders, .cad, .keys, .link, .stack, .tray, .fau, .rings, .coll, .obj, .fns, .tracer, .gauge, .power, .free] A = true) :
    s0.agree A (sinkResult g r s) := by
  unfold sinkResult
  try dsimp only
  repeat' (first
      | with_reducible assumption | (with_reducible intro _) | with_reducible apply setSinkRec_frame
      | with_reducible apply sinkAddAll_frame | with_reducible apply sinkRecord_frame
      | with_reducible apply sinkReport_frame | (with_reducible exact partsIn_trans (by decide) hw)
      | (with_reducible refine ite_frame ?_ ?_) | (with_reducible refine ite_pair_frame ?_ ?_)
      | (with_reducible refine ite_trip_frame ?_ ?_) | split
      | (refine frame_of_pair (by with_reducible assumption) ?_)
      | (refine frame_of_trip (by with_reducible assumption) ?_) | (with_reducible refine agree_link ?_ ?_)
      | (dsimp only))

theorem dropSinkRec_frame {A : List Part} {s0 : State} (p : PolderId) (group : BitVec 16) (id : BitVec 32)
    (r : Released) (s : State) (hs : s0.agree A s)
    (hw : partsIn [.out, .datum, .coll, .obj, .fns, .tracer] A = true) : s0.agree A
    (dropSinkRec p group id r s) := by
  unfold dropSinkRec
  try dsimp only
  repeat' (first
      | with_reducible assumption | (with_reducible intro _) | with_reducible apply modColl_frame
      | with_reducible apply settleGroups_frame | (with_reducible exact partsIn_trans (by decide) hw)
      | (with_reducible apply id_frame) | split)

end Sys2Proof.Machine
end

