-- ==== Sys2Proof/Laws/FrameCollNode.lean ====
section
/-! SUPPORT. Which parts of the state the operations of Machine/CollNode.lean may change (State.agree). -/

namespace Sys2Proof.Machine

theorem setNode_frame {A : List Part} {s0 : State} (n : CollNode) (s : State) (hs : s0.agree A s)
    (hw : partsIn [.coll] A = true) : s0.agree A (setNode n s) := by
  unfold setNode
  try dsimp only
  repeat' (first
      | with_reducible assumption | (with_reducible intro _) | with_reducible apply modColl_frame
      | (with_reducible exact partsIn_trans (by decide) hw))

theorem freeNode_frame {A : List Part} {s0 : State} (n : CollNode) (s : State) (hs : s0.agree A s)
    (hw : partsIn [.out, .pins, .sb, .datum, .polders, .cad, .keys, .link, .stack, .coll, .obj, .fns, .tracer, .power, .free] A = true) :
    s0.agree A (freeNode n s) := by
  unfold freeNode
  try dsimp only
  repeat' (first
      | with_reducible assumption | (with_reducible intro _) | with_reducible apply forgetPackets_frame
      | with_reducible apply modColl_frame | with_reducible apply retryLoads_frame
      | with_reducible apply settleGroups_frame | with_reducible apply writeFault_frame
      | (with_reducible exact partsIn_trans (by decide) hw) | (with_reducible refine ite_frame ?_ ?_) | split)

theorem abortNode_frame {A : List Part} {s0 : State} (g : Group) (n : CollNode) (st : Status) (inst : InstId)
    (s : State) (hs : s0.agree A s)
    (hw : partsIn [.out, .pins, .sb, .datum, .polders, .cad, .keys, .link, .stack, .fau, .rings, .coll, .obj, .fns, .tracer, .gauge, .power, .free] A = true) :
    s0.agree A (abortNode g n st inst s) := by
  unfold abortNode
  try dsimp only
  repeat' (first
      | with_reducible assumption | with_reducible apply freeNode_frame | with_reducible apply sendAbort_frame
      | (with_reducible exact partsIn_trans (by decide) hw) | split)

theorem grantCredit_frame {A : List Part} {s0 : State} (g : Group) (n : CollNode) (named : Option Nat) (s : State)
    (hs : s0.agree A s)
    (hw : partsIn [.out, .pins, .sb, .datum, .polders, .cad, .keys, .link, .stack, .fau, .rings, .coll, .obj, .fns, .tracer, .gauge, .power, .free] A = true) :
    s0.agree A (grantCredit g n named s) := by
  unfold grantCredit
  try dsimp only
  repeat' (first
      | with_reducible assumption | with_reducible apply abortNode_frame | with_reducible apply sendEach_frame
      | with_reducible apply setNode_frame | (with_reducible exact partsIn_trans (by decide) hw)
      | (with_reducible refine ite_pair_frame ?_ ?_) | (with_reducible refine ite_trip_frame ?_ ?_) | split
      | (refine frame_of_pair (by with_reducible assumption) ?_)
      | (refine frame_of_trip (by with_reducible assumption) ?_) | (dsimp only))

theorem sendPieces_frame {A : List Part} {s0 : State} (g : Group) (n : CollNode) (s : State) (hs : s0.agree A s)
    (hw : partsIn [.out, .pins, .sb, .polders, .cad, .keys, .link, .stack, .fau, .rings, .coll, .obj, .fns, .tracer, .gauge, .power, .free] A = true) :
    s0.agree A (sendPieces g n s).2.2 := by
  unfold sendPieces
  try dsimp only
  repeat' (first
      | with_reducible assumption | (with_reducible intro _) | with_reducible apply sendAll_frame
      | (with_reducible exact partsIn_trans (by decide) hw) | (with_reducible refine ite_frame ?_ ?_)
      | (with_reducible refine ite_pair_frame ?_ ?_) | (with_reducible refine ite_trip_frame ?_ ?_) | split
      | (refine frame_of_pair (by with_reducible assumption) ?_)
      | (refine frame_of_trip (by with_reducible assumption) ?_) | (dsimp only))

theorem combineBlocks_frame {A : List Part} {s0 : State}  (a0 : Nat) (a1 : CollNode) (a2 : State) (hs :
    s0.agree A a2) (hw : partsIn [.polders, .tracer, .gauge] A = true) : s0.agree A (combineBlocks a0 a1 a2).2 := by
  induction a0 generalizing a1 a2 with
  | zero => 
    unfold combineBlocks
    try dsimp only
    repeat' (first
        | with_reducible assumption | (with_reducible intro _) | with_reducible apply countBy_frame
        | with_reducible apply meter_frame | with_reducible apply modPolderCounters_frame
        | (with_reducible exact partsIn_trans (by decide) hw) | (with_reducible apply foldl_frame)
        | (with_reducible apply foldl_pair_frame) | (with_reducible apply foldl_trip_frame)
        | (with_reducible apply id_frame) | (with_reducible refine ite_frame ?_ ?_)
        | (with_reducible refine ite_pair_frame ?_ ?_) | (with_reducible refine ite_trip_frame ?_ ?_) | split
        | (refine frame_of_pair (by with_reducible assumption) ?_)
        | (refine frame_of_trip (by with_reducible assumption) ?_) | (dsimp only))
  | succ n ih => 
    unfold combineBlocks
    try dsimp only
    repeat' (first
        | with_reducible assumption | (with_reducible intro _) | with_reducible apply countBy_frame
        | with_reducible apply meter_frame | with_reducible apply modPolderCounters_frame
        | (with_reducible exact partsIn_trans (by decide) hw) | (with_reducible apply foldl_frame)
        | (with_reducible apply foldl_pair_frame) | (with_reducible apply foldl_trip_frame)
        | with_reducible apply ih | (with_reducible apply id_frame) | (with_reducible refine ite_frame ?_ ?_)
        | (with_reducible refine ite_pair_frame ?_ ?_) | (with_reducible refine ite_trip_frame ?_ ?_) | split
        | (refine frame_of_pair (by with_reducible assumption) ?_)
        | (refine frame_of_trip (by with_reducible assumption) ?_) | (dsimp only))

theorem beginPlacement_frame {A : List Part} {s0 : State} (g : Group) (n : CollNode) (s : State) (hs : s0.agree A s)
    (hw : partsIn [.out, .pins, .sb, .polders, .cad, .keys, .link, .stack, .fau, .rings, .obj, .fns, .tracer, .gauge, .power, .free] A = true) :
    s0.agree A (beginPlacement g n s).2.2 := by
  unfold beginPlacement
  try dsimp only
  repeat' (first
      | with_reducible assumption | (with_reducible intro _) | with_reducible apply sendEach_frame
      | (with_reducible exact partsIn_trans (by decide) hw) | (with_reducible refine ite_pair_frame ?_ ?_)
      | (with_reducible refine ite_trip_frame ?_ ?_) | split
      | (refine frame_of_pair (by with_reducible assumption) ?_)
      | (refine frame_of_trip (by with_reducible assumption) ?_) | (dsimp only))

theorem endCounts_frame {A : List Part} {s0 : State} (g : Group) (n : CollNode) (s : State) (hs : s0.agree A s)
    (hw : partsIn [.out, .pins, .sb, .polders, .cad, .keys, .link, .stack, .fau, .rings, .coll, .obj, .fns, .tracer, .gauge, .power, .free] A = true) :
    s0.agree A (endCounts g n s).2.2 := by
  unfold endCounts
  try dsimp only
  repeat' (first
      | with_reducible assumption | (with_reducible intro _) | with_reducible apply beginPlacement_frame
      | with_reducible apply sendAll_frame | with_reducible apply sendEach_frame
      | (with_reducible exact partsIn_trans (by decide) hw) | (with_reducible refine ite_frame ?_ ?_)
      | (with_reducible refine ite_pair_frame ?_ ?_) | (with_reducible refine ite_trip_frame ?_ ?_) | split
      | (refine frame_of_pair (by with_reducible assumption) ?_)
      | (refine frame_of_trip (by with_reducible assumption) ?_) | (dsimp only))

theorem sendCuts_frame {A : List Part} {s0 : State} (g : Group) (old : CollNode) (n : CollNode) (s : State) (hs :
    s0.agree A s)
    (hw : partsIn [.out, .pins, .sb, .polders, .cad, .keys, .link, .stack, .fau, .rings, .coll, .obj, .fns, .tracer, .gauge, .power, .free] A = true) :
    s0.agree A (sendCuts g old n s).2 := by
  unfold sendCuts
  try dsimp only
  repeat' (first
      | with_reducible assumption | with_reducible apply sendAll_frame
      | (with_reducible exact partsIn_trans (by decide) hw) | (with_reducible refine ite_frame ?_ ?_)
      | (with_reducible refine ite_pair_frame ?_ ?_) | (with_reducible refine ite_trip_frame ?_ ?_) | split
      | (dsimp only))

theorem tryDone_frame {A : List Part} {s0 : State} (g : Group) (n : CollNode) (s : State) (hs : s0.agree A s)
    (hw : partsIn [.out, .pins, .sb, .datum, .polders, .cad, .keys, .link, .stack, .fau, .rings, .coll, .obj, .fns, .tracer, .gauge, .power, .free] A = true) :
    FrameOpt A s0 (tryDone g n s) := by
  unfold tryDone
  try dsimp only
  repeat' (first
      | with_reducible assumption | with_reducible apply freeNode_frame | with_reducible apply sendQuietly_frame
      | with_reducible apply traceColl_frame | (with_reducible exact partsIn_trans (by decide) hw)
      | (with_reducible exact frameOpt_none) | (with_reducible apply frameOpt_some)
      | (refine frame_of_opt (by with_reducible assumption) ?_) | (with_reducible refine ite_frame ?_ ?_) | split
      | (dsimp only))

theorem nodeWork_frame {A : List Part} {s0 : State} (g : Group) (n : CollNode) (named : Option Nat) (s : State)
    (hs : s0.agree A s)
    (hw : partsIn [.out, .pins, .sb, .datum, .polders, .cad, .keys, .link, .stack, .fau, .rings, .coll, .obj, .fns, .tracer, .gauge, .power, .free] A = true) :
    s0.agree A (nodeWork g n named s) := by
  unfold nodeWork
  try dsimp only
  repeat' (first
      | with_reducible assumption | with_reducible apply abortNode_frame | with_reducible apply combineBlocks_frame
      | with_reducible apply endCounts_frame | with_reducible apply grantCredit_frame
      | with_reducible apply needKey_frame | with_reducible apply sendCuts_frame
      | with_reducible apply sendPieces_frame | with_reducible apply tryDone_frame
      | (with_reducible exact partsIn_trans (by decide) hw)
      | (refine frame_of_opt (by with_reducible assumption) ?_) | (with_reducible refine ite_frame ?_ ?_)
      | (with_reducible refine ite_pair_frame ?_ ?_) | (with_reducible refine ite_trip_frame ?_ ?_) | split
      | (refine frame_of_pair (by with_reducible assumption) ?_)
      | (refine frame_of_trip (by with_reducible assumption) ?_) | (dsimp only))

theorem joinOpen_frame {A : List Part} {s0 : State} (g : Group) (n : CollNode) (i : Nat) (r : Released) (s : State)
    (hs : s0.agree A s)
    (hw : partsIn [.out, .pins, .sb, .datum, .polders, .cad, .keys, .link, .stack, .fau, .rings, .coll, .obj, .fns, .tracer, .gauge, .power, .free] A = true) :
    s0.agree A (joinOpen g n i r s) := by
  unfold joinOpen
  try dsimp only
  repeat' (first
      | with_reducible assumption | (with_reducible intro _) | with_reducible apply abortNode_frame
      | with_reducible apply nodeWork_frame | with_reducible apply recordLate_frame
      | with_reducible apply sendTracked_frame | (with_reducible exact partsIn_trans (by decide) hw)
      | (with_reducible refine ite_frame ?_ ?_) | (with_reducible refine ite_pair_frame ?_ ?_)
      | (with_reducible refine ite_trip_frame ?_ ?_) | split
      | (refine frame_of_pair (by with_reducible assumption) ?_)
      | (refine frame_of_trip (by with_reducible assumption) ?_) | (dsimp only))

theorem groupMismatch_frame {A : List Part} {s0 : State} (n : CollNode) (s : State) (hs : s0.agree A s)
    (hw : partsIn [.out, .pins, .sb, .datum, .polders, .cad, .keys, .link, .stack, .fau, .rings, .coll, .obj, .fns, .tracer, .gauge, .power, .free] A = true) :
    s0.agree A (groupMismatch n s) := by
  unfold groupMismatch
  try dsimp only
  repeat' (first
      | with_reducible assumption | with_reducible apply abortNode_frame | with_reducible apply freeNode_frame
      | (with_reducible exact partsIn_trans (by decide) hw) | split)

theorem firstOpen_frame {A : List Part} {s0 : State} (g : Group) (j : Nat) (i : Nat) (r : Released) (s : State)
    (hs : s0.agree A s)
    (hw : partsIn [.out, .pins, .sb, .datum, .polders, .cad, .keys, .link, .stack, .fau, .rings, .coll, .obj, .fns, .tracer, .gauge, .power, .free] A = true) :
    s0.agree A (firstOpen g j i r s) := by
  unfold firstOpen
  try dsimp only
  repeat' (first
      | with_reducible assumption | (with_reducible intro _) | with_reducible apply countBy_frame
      | with_reducible apply joinOpen_frame | with_reducible apply sendAbort_frame
      | with_reducible apply traceColl_frame | (with_reducible exact partsIn_trans (by decide) hw)
      | (with_reducible refine ite_frame ?_ ?_) | split)

theorem serveOpen_frame {A : List Part} {s0 : State} (g : Group) (r : Released) (s : State) (hs : s0.agree A s)
    (hw : partsIn [.out, .pins, .sb, .datum, .polders, .cad, .keys, .link, .stack, .fau, .rings, .coll, .obj, .fns, .tracer, .gauge, .power, .free] A = true) :
    s0.agree A (serveOpen g r s) := by
  unfold serveOpen
  try dsimp only
  repeat' (first
      | with_reducible assumption | with_reducible apply firstOpen_frame | with_reducible apply groupMismatch_frame
      | with_reducible apply joinOpen_frame | (with_reducible exact partsIn_trans (by decide) hw)
      | (with_reducible refine ite_frame ?_ ?_) | split)

theorem ofNode_frame {A : List Part} {s0 : State} (serve : Group → CollNode → Released → State → State) (g : Group)
    (r : Released) (s : State) (hs : s0.agree A s) (h_serve : ∀ x0 x1 x2 (s : State), s0.agree A s → s0.agree A
    (serve x0 x1 x2 s))
    (hw : partsIn [.out, .pins, .sb, .datum, .polders, .cad, .keys, .link, .stack, .fau, .rings, .coll, .obj, .fns, .tracer, .gauge, .power, .free] A = true) :
    s0.agree A (ofNode serve g r s) := by
  unfold ofNode
  try dsimp only
  repeat' (first
      | with_reducible assumption | with_reducible apply groupMismatch_frame
      | (with_reducible exact partsIn_trans (by decide) hw) | with_reducible apply h_serve
      | (with_reducible refine ite_frame ?_ ?_) | split)

theorem atNode_frame {A : List Part} {s0 : State} (serve : Group → CollNode → Nat → Kid → Released → State → State)
    (g : Group) (r : Released) (s : State) (hs : s0.agree A s) (h_serve : ∀ x0 x1 x2 x3 x4 (s : State),
    s0.agree A s → s0.agree A (serve x0 x1 x2 x3 x4 s))
    (hw : partsIn [.out, .pins, .sb, .datum, .polders, .cad, .keys, .link, .stack, .fau, .rings, .coll, .obj, .fns, .tracer, .gauge, .power, .free] A = true) :
    s0.agree A (atNode serve g r s) := by
  unfold atNode
  try dsimp only
  repeat' (first
      | with_reducible assumption | (with_reducible intro _) | with_reducible apply ofNode_frame
      | (with_reducible exact partsIn_trans (by decide) hw) | with_reducible apply h_serve
      | (with_reducible refine ite_frame ?_ ?_) | split)

theorem sendBench_frame {A : List Part} {s0 : State} (g : Group) (n : CollNode) (named : Option Nat) (s : State)
    (hs : s0.agree A s)
    (hw : partsIn [.out, .pins, .sb, .datum, .polders, .cad, .keys, .link, .stack, .fau, .rings, .coll, .obj, .fns, .tracer, .gauge, .power, .free] A = true) :
    s0.agree A (sendBench g n named s) := by
  unfold sendBench
  try dsimp only
  repeat' (first
      | with_reducible assumption | with_reducible apply abortNode_frame | with_reducible apply nodeWork_frame
      | with_reducible apply sendEach_frame | (with_reducible exact partsIn_trans (by decide) hw)
      | (with_reducible refine ite_pair_frame ?_ ?_) | (with_reducible refine ite_trip_frame ?_ ?_) | split
      | (refine frame_of_pair (by with_reducible assumption) ?_)
      | (refine frame_of_trip (by with_reducible assumption) ?_) | (dsimp only))

theorem nodeCodes_frame {A : List Part} {s0 : State} (g : Group) (n : CollNode) (i : Nat) (unused : Kid)
    (r : Released) (s : State) (hs : s0.agree A s)
    (hw : partsIn [.out, .pins, .sb, .datum, .polders, .cad, .keys, .link, .stack, .fau, .rings, .coll, .obj, .fns, .tracer, .gauge, .power, .free] A = true) :
    s0.agree A (nodeCodes g n i unused r s) := by
  unfold nodeCodes
  try dsimp only
  repeat' (first
      | with_reducible assumption | (with_reducible intro _) | with_reducible apply abortNode_frame
      | with_reducible apply nodeWork_frame | with_reducible apply sendAll_frame
      | with_reducible apply sendBench_frame | (with_reducible exact partsIn_trans (by decide) hw)
      | (with_reducible apply foldl_frame) | (with_reducible apply foldl_pair_frame)
      | (with_reducible apply foldl_trip_frame) | (with_reducible refine ite_frame ?_ ?_)
      | (with_reducible refine ite_pair_frame ?_ ?_) | (with_reducible refine ite_trip_frame ?_ ?_) | split
      | (refine frame_of_pair (by with_reducible assumption) ?_)
      | (refine frame_of_trip (by with_reducible assumption) ?_) | (dsimp only))

theorem nodeBench_frame {A : List Part} {s0 : State} (g : Group) (n : CollNode) (r : Released) (s : State) (hs :
    s0.agree A s)
    (hw : partsIn [.out, .pins, .sb, .datum, .polders, .cad, .keys, .link, .stack, .fau, .rings, .coll, .obj, .fns, .tracer, .gauge, .power, .free] A = true) :
    s0.agree A (nodeBench g n r s) := by
  unfold nodeBench
  try dsimp only
  repeat' (first
      | with_reducible assumption | (with_reducible intro _) | with_reducible apply clearSent_frame
      | with_reducible apply sendBench_frame | with_reducible apply setNode_frame
      | (with_reducible exact partsIn_trans (by decide) hw) | (with_reducible refine ite_frame ?_ ?_) | split)

theorem nodeReduce_frame {A : List Part} {s0 : State} (g : Group) (n : CollNode) (i : Nat) (k : Kid) (r : Released)
    (s : State) (hs : s0.agree A s)
    (hw : partsIn [.out, .pins, .sb, .datum, .polders, .cad, .keys, .link, .stack, .fau, .rings, .coll, .obj, .fns, .tracer, .gauge, .power, .free] A = true) :
    s0.agree A (nodeReduce g n i k r s) := by
  unfold nodeReduce
  try dsimp only
  repeat' (first
      | with_reducible assumption | (with_reducible intro _) | with_reducible apply nodeWork_frame
      | (with_reducible exact partsIn_trans (by decide) hw) | (with_reducible refine ite_frame ?_ ?_) | split)

theorem nodeForward_frame {A : List Part} {s0 : State} (g : Group) (n : CollNode) (i : Nat) (k : Kid) (r : Released)
    (s : State) (hs : s0.agree A s)
    (hw : partsIn [.out, .pins, .sb, .datum, .polders, .cad, .keys, .link, .stack, .fau, .rings, .coll, .obj, .fns, .tracer, .gauge, .power, .free] A = true) :
    s0.agree A (nodeForward g n i k r s) := by
  unfold nodeForward
  try dsimp only
  repeat' (first
      | with_reducible assumption | (with_reducible intro _) | with_reducible apply nodeWork_frame
      | (with_reducible exact partsIn_trans (by decide) hw) | (with_reducible refine ite_frame ?_ ?_) | split)

theorem countAgain_frame {A : List Part} {s0 : State} (g : Group) (n : CollNode) (i : Nat) (k : Kid) (s : State)
    (hs : s0.agree A s)
    (hw : partsIn [.out, .pins, .sb, .datum, .polders, .cad, .keys, .link, .stack, .fau, .rings, .coll, .obj, .fns, .tracer, .gauge, .power, .free] A = true) :
    s0.agree A (countAgain g n i k s) := by
  unfold countAgain
  try dsimp only
  repeat' (first
      | with_reducible assumption | (with_reducible intro _) | with_reducible apply abortNode_frame
      | with_reducible apply sendEach_frame | with_reducible apply setNode_frame
      | (with_reducible exact partsIn_trans (by decide) hw) | (with_reducible refine ite_pair_frame ?_ ?_)
      | (with_reducible refine ite_trip_frame ?_ ?_) | split
      | (refine frame_of_pair (by with_reducible assumption) ?_)
      | (refine frame_of_trip (by with_reducible assumption) ?_) | (dsimp only))

theorem nodeChunk_frame {A : List Part} {s0 : State} (g : Group) (n : CollNode) (i : Nat) (k : Kid) (r : Released)
    (s : State) (hs : s0.agree A s)
    (hw : partsIn [.out, .pins, .sb, .datum, .polders, .cad, .keys, .link, .stack, .fau, .rings, .coll, .obj, .fns, .tracer, .gauge, .power, .free] A = true) :
    s0.agree A (nodeChunk g n i k r s) := by
  unfold nodeChunk
  try dsimp only
  repeat' (first
      | with_reducible assumption | (with_reducible intro _) | with_reducible apply countAgain_frame
      | with_reducible apply nodeWork_frame | (with_reducible exact partsIn_trans (by decide) hw)
      | (with_reducible refine ite_frame ?_ ?_) | split)

theorem nodeContribution_frame {A : List Part} {s0 : State} (g : Group) (n : CollNode) (i : Nat) (k : Kid)
    (r : Released) (s : State) (hs : s0.agree A s)
    (hw : partsIn [.out, .pins, .sb, .datum, .polders, .cad, .keys, .link, .stack, .fau, .rings, .coll, .obj, .fns, .tracer, .gauge, .power, .free] A = true) :
    s0.agree A (nodeContribution g n i k r s) := by
  unfold nodeContribution
  try dsimp only
  repeat' (first
      | with_reducible assumption | with_reducible apply nodeChunk_frame | with_reducible apply nodeForward_frame
      | with_reducible apply nodeReduce_frame | (with_reducible exact partsIn_trans (by decide) hw)
      | (with_reducible refine ite_frame ?_ ?_) | split)

theorem nodeCounts_frame {A : List Part} {s0 : State} (g : Group) (n : CollNode) (i : Nat) (k : Kid) (r : Released)
    (s : State) (hs : s0.agree A s)
    (hw : partsIn [.out, .pins, .sb, .datum, .polders, .cad, .keys, .link, .stack, .fau, .rings, .coll, .obj, .fns, .tracer, .gauge, .power, .free] A = true) :
    s0.agree A (nodeCounts g n i k r s) := by
  unfold nodeCounts
  try dsimp only
  repeat' (first
      | with_reducible assumption | (with_reducible intro _) | with_reducible apply abortNode_frame
      | with_reducible apply nodeWork_frame | with_reducible apply sendCuts_frame
      | (with_reducible exact partsIn_trans (by decide) hw) | (with_reducible refine ite_frame ?_ ?_)
      | (with_reducible refine ite_pair_frame ?_ ?_) | (with_reducible refine ite_trip_frame ?_ ?_) | split
      | (refine frame_of_pair (by with_reducible assumption) ?_)
      | (refine frame_of_trip (by with_reducible assumption) ?_) | (dsimp only))

theorem nodeBases_frame {A : List Part} {s0 : State} (g : Group) (n : CollNode) (r : Released) (s : State) (hs :
    s0.agree A s)
    (hw : partsIn [.out, .pins, .sb, .datum, .polders, .cad, .keys, .link, .stack, .fau, .rings, .coll, .obj, .fns, .tracer, .gauge, .power, .free] A = true) :
    s0.agree A (nodeBases g n r s) := by
  unfold nodeBases
  try dsimp only
  repeat' (first
      | with_reducible assumption | (with_reducible intro _) | with_reducible apply abortNode_frame
      | with_reducible apply beginPlacement_frame | with_reducible apply nodeWork_frame
      | with_reducible apply setNode_frame | (with_reducible exact partsIn_trans (by decide) hw)
      | (with_reducible refine ite_frame ?_ ?_) | (with_reducible refine ite_pair_frame ?_ ?_)
      | (with_reducible refine ite_trip_frame ?_ ?_) | split
      | (refine frame_of_pair (by with_reducible assumption) ?_)
      | (refine frame_of_trip (by with_reducible assumption) ?_) | (dsimp only))

theorem nodeReceipt_frame {A : List Part} {s0 : State} (g : Group) (n : CollNode) (r : Released) (s : State) (hs :
    s0.agree A s)
    (hw : partsIn [.out, .pins, .sb, .datum, .polders, .cad, .keys, .link, .stack, .fau, .rings, .coll, .obj, .fns, .tracer, .gauge, .power, .free] A = true) :
    s0.agree A (nodeReceipt g n r s) := by
  unfold nodeReceipt
  try dsimp only
  repeat' (first
      | with_reducible assumption | (with_reducible intro _) | with_reducible apply clearSent_frame
      | with_reducible apply nodeWork_frame | with_reducible apply setNode_frame
      | (with_reducible exact partsIn_trans (by decide) hw) | (with_reducible refine ite_frame ?_ ?_) | split)

theorem nodeReport_frame {A : List Part} {s0 : State} (g : Group) (n : CollNode) (r : Released) (s : State) (hs :
    s0.agree A s)
    (hw : partsIn [.out, .pins, .sb, .datum, .polders, .cad, .keys, .link, .stack, .fau, .rings, .coll, .obj, .fns, .tracer, .gauge, .power, .free] A = true) :
    s0.agree A (nodeReport g n r s) := by
  unfold nodeReport
  try dsimp only
  repeat' (first
      | with_reducible assumption | (with_reducible intro _) | with_reducible apply abortNode_frame
      | with_reducible apply clearSent_frame | with_reducible apply nodeWork_frame
      | with_reducible apply sendPacket_frame | with_reducible apply setNode_frame
      | (with_reducible exact partsIn_trans (by decide) hw) | (with_reducible apply foldl_frame)
      | (with_reducible apply foldl_pair_frame) | (with_reducible apply foldl_trip_frame)
      | (with_reducible refine ite_frame ?_ ?_) | (with_reducible refine ite_pair_frame ?_ ?_)
      | (with_reducible refine ite_trip_frame ?_ ?_) | split
      | (refine frame_of_pair (by with_reducible assumption) ?_)
      | (refine frame_of_trip (by with_reducible assumption) ?_) | (dsimp only))

theorem collectiveFailed_frame {A : List Part} {s0 : State} (p : PolderId) (id : BitVec 32) (st : Status)
    (s : State) (hs : s0.agree A s)
    (hw : partsIn [.out, .pins, .sb, .datum, .polders, .cad, .keys, .link, .stack, .fau, .rings, .coll, .obj, .fns, .tracer, .gauge, .power, .free] A = true) :
    s0.agree A (collectiveFailed p id st s) := by
  unfold collectiveFailed
  try dsimp only
  repeat' (first
      | with_reducible assumption | with_reducible apply abortNode_frame | with_reducible apply abortPart_frame
      | with_reducible apply freeNode_frame | (with_reducible exact partsIn_trans (by decide) hw)
      | (with_reducible apply id_frame) | split)

theorem pumpColl_frame {A : List Part} {s0 : State} (p : PolderId) (s : State) (hs : s0.agree A s)
    (hw : partsIn [.out, .pins, .sb, .datum, .polders, .cad, .keys, .link, .stack, .fau, .rings, .coll, .obj, .fns, .tracer, .gauge, .power, .free] A = true) :
    s0.agree A (pumpColl p s) := by
  unfold pumpColl
  try dsimp only
  repeat' (first
      | with_reducible assumption | (with_reducible intro _) | with_reducible apply nodeWork_frame
      | with_reducible apply pumpPart_frame | (with_reducible exact partsIn_trans (by decide) hw)
      | (with_reducible apply foldl_frame) | (with_reducible refine ite_frame ?_ ?_) | split | (dsimp only))

theorem endColl_frame {A : List Part} {s0 : State} (mine : Launch → Bool) (st : Status) (s : State) (hs :
    s0.agree A s)
    (hw : partsIn [.out, .pins, .sb, .datum, .polders, .cad, .keys, .link, .stack, .coll, .obj, .fns, .tracer, .power, .free] A = true) :
    s0.agree A (endColl mine st s) := by
  unfold endColl
  try dsimp only
  repeat' (first
      | with_reducible assumption | (with_reducible intro _) | with_reducible apply completePart_frame
      | with_reducible apply freeNode_frame | (with_reducible exact partsIn_trans (by decide) hw)
      | (with_reducible apply foldl_frame) | (dsimp only))

theorem unreachableColl_frame {A : List Part} {s0 : State} (i : InstId) (s : State) (hs : s0.agree A s)
    (hw : partsIn [.out, .pins, .sb, .datum, .polders, .cad, .keys, .link, .stack, .coll, .obj, .fns, .tracer, .power, .free] A = true) :
    s0.agree A (unreachableColl i s) := by
  unfold unreachableColl
  try dsimp only
  repeat' (first
      | with_reducible assumption | (with_reducible intro _) | with_reducible apply endColl_frame
      | with_reducible apply modColl_frame | with_reducible apply settleGroups_frame
      | (with_reducible exact partsIn_trans (by decide) hw) | split)

theorem execOpen_frame {A : List Part} {s0 : State} (s : State) (hs : s0.agree A s)
    (hw : partsIn [.out, .pins, .sb, .datum, .polders, .cad, .keys, .link, .stack, .fau, .rings, .coll, .obj, .fns, .tracer, .gauge, .power, .free] A = true) :
    FrameOut A s0 (execOpen s) := by
  unfold execOpen
  try dsimp only
  repeat' (first
      | with_reducible exact frameOut_fault | (with_reducible apply frameOut_next)
      | (with_reducible refine frameOut_ite ?_ ?_) | with_reducible assumption | (with_reducible intro _)
      | with_reducible apply serveColl_frame | with_reducible apply serveOpen_frame
      | (with_reducible exact partsIn_trans (by decide) hw) | (dsimp only))

theorem execBenchmarkCodes_frame {A : List Part} {s0 : State} (s : State) (hs : s0.agree A s)
    (hw : partsIn [.out, .pins, .sb, .datum, .polders, .cad, .keys, .link, .stack, .fau, .rings, .coll, .obj, .fns, .tracer, .gauge, .power, .free] A = true) :
    FrameOut A s0 (execBenchmarkCodes s) := by
  unfold execBenchmarkCodes
  try dsimp only
  repeat' (first
      | with_reducible exact frameOut_fault | (with_reducible apply frameOut_next)
      | (with_reducible refine frameOut_ite ?_ ?_) | with_reducible assumption | (with_reducible intro _)
      | with_reducible apply atNode_frame | with_reducible apply nodeCodes_frame
      | with_reducible apply serveColl_frame | (with_reducible exact partsIn_trans (by decide) hw) | (dsimp only))

theorem execBenchmarks_frame {A : List Part} {s0 : State} (s : State) (hs : s0.agree A s)
    (hw : partsIn [.out, .pins, .sb, .datum, .polders, .cad, .keys, .link, .stack, .fau, .rings, .coll, .obj, .fns, .tracer, .gauge, .power, .free] A = true) :
    FrameOut A s0 (execBenchmarks s) := by
  unfold execBenchmarks
  try dsimp only
  repeat' (first
      | with_reducible exact frameOut_fault | (with_reducible apply frameOut_next)
      | (with_reducible refine frameOut_ite ?_ ?_) | with_reducible assumption | (with_reducible intro _)
      | with_reducible apply nodeBench_frame | with_reducible apply ofNode_frame
      | with_reducible apply serveColl_frame | (with_reducible exact partsIn_trans (by decide) hw) | (dsimp only))

theorem execContribution_frame {A : List Part} {s0 : State} (s : State) (hs : s0.agree A s)
    (hw : partsIn [.out, .pins, .sb, .datum, .polders, .cad, .keys, .link, .stack, .fau, .rings, .coll, .obj, .fns, .tracer, .gauge, .power, .free] A = true) :
    FrameOut A s0 (execContribution s) := by
  unfold execContribution
  try dsimp only
  repeat' (first
      | with_reducible exact frameOut_fault | (with_reducible apply frameOut_next)
      | (with_reducible refine frameOut_ite ?_ ?_) | with_reducible assumption | (with_reducible intro _)
      | with_reducible apply atNode_frame | with_reducible apply nodeContribution_frame
      | with_reducible apply serveColl_frame | (with_reducible exact partsIn_trans (by decide) hw) | (dsimp only))

theorem execResult_frame {A : List Part} {s0 : State} (s : State) (hs : s0.agree A s)
    (hw : partsIn [.out, .pins, .sb, .datum, .polders, .cad, .keys, .link, .stack, .tray, .fau, .rings, .coll, .obj, .fns, .tracer, .gauge, .power, .free] A = true) :
    FrameOut A s0 (execResult s) := by
  unfold execResult
  try dsimp only
  repeat' (first
      | with_reducible exact frameOut_fault | (with_reducible apply frameOut_next)
      | (with_reducible refine frameOut_ite ?_ ?_) | with_reducible assumption | (with_reducible intro _)
      | with_reducible apply partResult_frame | with_reducible apply serveColl_frame
      | with_reducible apply sinkResult_frame | (with_reducible exact partsIn_trans (by decide) hw)
      | (with_reducible refine ite_frame ?_ ?_) | split | (dsimp only))

theorem execFilterCounts_frame {A : List Part} {s0 : State} (s : State) (hs : s0.agree A s)
    (hw : partsIn [.out, .pins, .sb, .datum, .polders, .cad, .keys, .link, .stack, .fau, .rings, .coll, .obj, .fns, .tracer, .gauge, .power, .free] A = true) :
    FrameOut A s0 (execFilterCounts s) := by
  unfold execFilterCounts
  try dsimp only
  repeat' (first
      | with_reducible exact frameOut_fault | (with_reducible apply frameOut_next)
      | (with_reducible refine frameOut_ite ?_ ?_) | with_reducible assumption | (with_reducible intro _)
      | with_reducible apply atNode_frame | with_reducible apply nodeCounts_frame
      | with_reducible apply serveColl_frame | (with_reducible exact partsIn_trans (by decide) hw) | (dsimp only))

theorem execFilterBases_frame {A : List Part} {s0 : State} (s : State) (hs : s0.agree A s)
    (hw : partsIn [.out, .pins, .sb, .datum, .polders, .cad, .keys, .link, .stack, .fau, .rings, .coll, .obj, .fns, .tracer, .gauge, .power, .free] A = true) :
    FrameOut A s0 (execFilterBases s) := by
  unfold execFilterBases
  try dsimp only
  repeat' (first
      | with_reducible exact frameOut_fault | (with_reducible apply frameOut_next)
      | (with_reducible refine frameOut_ite ?_ ?_) | with_reducible assumption | (with_reducible intro _)
      | with_reducible apply nodeBases_frame | with_reducible apply ofNode_frame
      | with_reducible apply serveColl_frame | (with_reducible exact partsIn_trans (by decide) hw) | (dsimp only))

theorem execReceipt_frame {A : List Part} {s0 : State} (s : State) (hs : s0.agree A s)
    (hw : partsIn [.out, .pins, .sb, .datum, .polders, .cad, .keys, .link, .stack, .fau, .rings, .coll, .obj, .fns, .tracer, .gauge, .power, .free] A = true) :
    FrameOut A s0 (execReceipt s) := by
  unfold execReceipt
  try dsimp only
  repeat' (first
      | with_reducible exact frameOut_fault | (with_reducible apply frameOut_next)
      | (with_reducible refine frameOut_ite ?_ ?_) | with_reducible assumption | (with_reducible intro _)
      | with_reducible apply nodeReceipt_frame | with_reducible apply ofNode_frame
      | with_reducible apply partReceipt_frame | with_reducible apply serveColl_frame
      | (with_reducible exact partsIn_trans (by decide) hw) | (with_reducible refine ite_frame ?_ ?_) | split
      | (dsimp only))

theorem execReport_frame {A : List Part} {s0 : State} (s : State) (hs : s0.agree A s)
    (hw : partsIn [.out, .pins, .sb, .datum, .polders, .cad, .keys, .link, .stack, .fau, .rings, .coll, .obj, .fns, .tracer, .gauge, .power, .free] A = true) :
    FrameOut A s0 (execReport s) := by
  unfold execReport
  try dsimp only
  repeat' (first
      | with_reducible exact frameOut_fault | (with_reducible apply frameOut_next)
      | (with_reducible refine frameOut_ite ?_ ?_) | with_reducible assumption | (with_reducible intro _)
      | with_reducible apply nodeReport_frame | with_reducible apply ofNode_frame
      | with_reducible apply serveColl_frame | (with_reducible exact partsIn_trans (by decide) hw) | (dsimp only))

theorem execDone_frame {A : List Part} {s0 : State} (s : State) (hs : s0.agree A s)
    (hw : partsIn [.out, .pins, .sb, .datum, .polders, .cad, .keys, .link, .stack, .coll, .obj, .fns, .tracer, .power, .free] A = true) :
    FrameOut A s0 (execDone s) := by
  unfold execDone
  try dsimp only
  repeat' (first
      | with_reducible exact frameOut_fault | (with_reducible apply frameOut_next)
      | (with_reducible refine frameOut_ite ?_ ?_) | with_reducible assumption | (with_reducible intro _)
      | with_reducible apply dropSinkRec_frame | with_reducible apply freeNode_frame
      | with_reducible apply partDone_frame | with_reducible apply serveColl_frame
      | (with_reducible exact partsIn_trans (by decide) hw) | (with_reducible apply id_frame)
      | (with_reducible refine ite_frame ?_ ?_) | split | (dsimp only))

theorem execCollectiveWatchdog_frame {A : List Part} {s0 : State} (polder : PolderId) (collective : BitVec 32)
    (s : State) (hs : s0.agree A s)
    (hw : partsIn [.out, .pins, .sb, .datum, .polders, .cad, .keys, .link, .stack, .fau, .rings, .coll, .obj, .fns, .tracer, .gauge, .power, .free] A = true) :
    FrameOut A s0 (execCollectiveWatchdog polder collective s) := by
  unfold execCollectiveWatchdog
  try dsimp only
  repeat' (first
      | with_reducible exact frameOut_fault | (with_reducible apply frameOut_next)
      | (with_reducible refine frameOut_ite ?_ ?_) | with_reducible assumption | (with_reducible intro _)
      | with_reducible apply abortNode_frame | with_reducible apply abortPart_frame
      | with_reducible apply freeNode_frame | (with_reducible exact partsIn_trans (by decide) hw)
      | (with_reducible refine ite_frame ?_ ?_) | split | (dsimp only))

theorem freshPacket_frame {A : List Part} {s0 : State} (k : CollSent) (s : State) (hs : s0.agree A s)
    (hw : partsIn [.out, .pins, .sb, .polders, .cad, .keys, .stack, .obj, .fns, .tracer, .gauge, .power, .free] A = true) :
    s0.agree A (freshPacket k s).2.2 := by
  unfold freshPacket
  try dsimp only
  repeat' (first
      | with_reducible assumption | with_reducible apply readSource_frame
      | (with_reducible exact partsIn_trans (by decide) hw) | (with_reducible refine ite_frame ?_ ?_)
      | (with_reducible refine ite_pair_frame ?_ ?_) | (with_reducible refine ite_trip_frame ?_ ?_) | split
      | (refine frame_of_pair (by with_reducible assumption) ?_)
      | (refine frame_of_trip (by with_reducible assumption) ?_) | (dsimp only))

theorem execCollectiveResend_frame {A : List Part} {s0 : State} (index : Nat) (s : State) (hs : s0.agree A s)
    (hw : partsIn [.out, .pins, .sb, .datum, .polders, .cad, .keys, .link, .stack, .fau, .rings, .coll, .obj, .fns, .tracer, .gauge, .power, .free] A = true) :
    FrameOut A s0 (execCollectiveResend index s) := by
  unfold execCollectiveResend
  try dsimp only
  repeat' (first
      | with_reducible exact frameOut_fault | (with_reducible apply frameOut_next)
      | (with_reducible refine frameOut_ite ?_ ?_) | with_reducible assumption | (with_reducible intro _)
      | with_reducible apply collectiveFailed_frame | with_reducible apply freshPacket_frame
      | with_reducible apply modColl_frame | with_reducible apply sendPacket_frame
      | (with_reducible exact partsIn_trans (by decide) hw) | (with_reducible refine ite_frame ?_ ?_)
      | (with_reducible refine ite_pair_frame ?_ ?_) | (with_reducible refine ite_trip_frame ?_ ?_) | split
      | (refine frame_of_pair (by with_reducible assumption) ?_)
      | (refine frame_of_trip (by with_reducible assumption) ?_) | (dsimp only))

end Sys2Proof.Machine
end

