-- ==== Sys2Proof/Laws/FrameBarriers.lean ====
section
/-! SUPPORT. Which parts of the state the operations of Machine/Barriers.lean may change (State.agree). -/

namespace Sys2Proof.Machine

theorem modBars_frame {A : List Part} {s0 : State} (f : Barriers → Barriers) (s : State) (hs : s0.agree A s)
    (hw : partsIn [.bars] A = true) : s0.agree A (modBars f s) := by
  unfold modBars
  try dsimp only
  repeat' (first
      | with_reducible assumption | (with_reducible exact partsIn_trans (by decide) hw)
      | (with_reducible refine agree_bars ?_ ?_))

theorem setCounter_frame {A : List Part} {s0 : State} (c : BarrierCounter) (s : State) (hs : s0.agree A s)
    (hw : partsIn [.bars] A = true) : s0.agree A (setCounter c s) := by
  unfold setCounter
  try dsimp only
  repeat' (first
      | with_reducible assumption | (with_reducible intro _) | with_reducible apply modBars_frame
      | (with_reducible exact partsIn_trans (by decide) hw))

theorem completeArrival_frame {A : List Part} {s0 : State} (a : Arrival) (st : Status) (s : State) (hs :
    s0.agree A s) (hw : partsIn [.out, .datum, .link, .coll, .bars, .obj, .fns, .tracer, .free] A = true) :
    s0.agree A (completeArrival a st s) := by
  unfold completeArrival
  try dsimp only
  repeat' (first
      | with_reducible assumption | (with_reducible intro _) | with_reducible apply endDescriptor_frame
      | with_reducible apply modBars_frame | with_reducible apply settleGroups_frame
      | (with_reducible exact partsIn_trans (by decide) hw) | (with_reducible refine agree_link ?_ ?_))

theorem endCounter_frame {A : List Part} {s0 : State} (p : PolderId) (group : BitVec 16) (id : BitVec 32)
    (st : Status) (s : State) (hs : s0.agree A s)
    (hw : partsIn [.out, .datum, .link, .coll, .bars, .obj, .fns, .tracer] A = true) : s0.agree A
    (endCounter p group id st s) := by
  unfold endCounter
  try dsimp only
  repeat' (first
      | with_reducible assumption | (with_reducible intro _) | with_reducible apply modBars_frame
      | with_reducible apply settleGroups_frame | (with_reducible exact partsIn_trans (by decide) hw)
      | (with_reducible apply id_frame) | (with_reducible refine agree_link ?_ ?_))

theorem abortBarrier_frame {A : List Part} {s0 : State} (g : Group) (j : Nat) (id : BitVec 32) (cls : BitVec 4)
    (st : Status) (inst : InstId) (s : State) (hs : s0.agree A s)
    (hw : partsIn [.out, .pins, .sb, .datum, .polders, .cad, .keys, .link, .stack, .fau, .rings, .coll, .bars, .obj, .fns, .tracer, .gauge, .power, .free] A = true) :
    s0.agree A (abortBarrier g j id cls st inst s) := by
  unfold abortBarrier
  try dsimp only
  repeat' (first
      | with_reducible assumption | with_reducible apply endCounter_frame | with_reducible apply sendAbort_frame
      | (with_reducible exact partsIn_trans (by decide) hw) | (with_reducible apply id_frame))

theorem beginArrival_frame {A : List Part} {s0 : State} (a : Arrival) (s : State) (hs : s0.agree A s)
    (hw : partsIn [.out, .pins, .sb, .datum, .polders, .cad, .keys, .link, .stack, .fau, .rings, .coll, .bars, .obj, .fns, .tracer, .gauge, .power, .free] A = true) :
    s0.agree A (beginArrival a s) := by
  unfold beginArrival
  try dsimp only
  repeat' (first
      | with_reducible assumption | (with_reducible intro _) | with_reducible apply completeArrival_frame
      | with_reducible apply modBars_frame | with_reducible apply sendPacket_frame
      | (with_reducible exact partsIn_trans (by decide) hw) | (with_reducible refine ite_pair_frame ?_ ?_)
      | (with_reducible refine ite_trip_frame ?_ ?_) | split
      | (refine frame_of_pair (by with_reducible assumption) ?_)
      | (refine frame_of_trip (by with_reducible assumption) ?_) | (dsimp only))

theorem execBarrierArrive_frame {A : List Part} {s0 : State} (queue : BitVec 8) (s : State) (hs : s0.agree A s)
    (hw : partsIn [.out, .pins, .sb, .datum, .polders, .cad, .keys, .link, .stack, .fau, .rings, .coll, .bars, .obj, .fns, .tracer, .gauge, .power, .free] A = true) :
    FrameOut A s0 (execBarrierArrive queue s) := by
  unfold execBarrierArrive
  try dsimp only
  repeat' (first
      | with_reducible exact frameOut_fault | (with_reducible apply frameOut_next)
      | (with_reducible refine frameOut_ite ?_ ?_) | with_reducible assumption | (with_reducible intro _)
      | with_reducible apply beginArrival_frame | with_reducible apply beginDescriptor_frame
      | with_reducible apply endDescriptor_frame | with_reducible apply withDomains_frame
      | (with_reducible exact partsIn_trans (by decide) hw) | (with_reducible apply id_frame)
      | (with_reducible refine ite_frame ?_ ?_) | split | (dsimp only))

theorem fullCounter_frame {A : List Part} {s0 : State} (g : Group) (c : BarrierCounter) (s : State) (hs :
    s0.agree A s)
    (hw : partsIn [.out, .pins, .sb, .datum, .polders, .cad, .keys, .link, .stack, .fau, .rings, .coll, .bars, .obj, .fns, .tracer, .gauge, .power, .free] A = true) :
    s0.agree A (fullCounter g c s) := by
  unfold fullCounter
  try dsimp only
  repeat' (first
      | with_reducible assumption | with_reducible apply abortBarrier_frame | with_reducible apply endCounter_frame
      | with_reducible apply sendPacket_frame | with_reducible apply setCounter_frame
      | (with_reducible exact partsIn_trans (by decide) hw) | (with_reducible refine ite_frame ?_ ?_)
      | (with_reducible refine ite_pair_frame ?_ ?_) | (with_reducible refine ite_trip_frame ?_ ?_) | split
      | (refine frame_of_pair (by with_reducible assumption) ?_)
      | (refine frame_of_trip (by with_reducible assumption) ?_) | (dsimp only))

theorem answerReleased_frame {A : List Part} {s0 : State} (g : Group) (e : ReleasedBarrier) (r : Released)
    (s : State) (hs : s0.agree A s)
    (hw : partsIn [.out, .pins, .sb, .polders, .cad, .keys, .link, .stack, .fau, .rings, .obj, .fns, .tracer, .gauge, .power, .free] A = true) :
    s0.agree A (answerReleased g e r s) := by
  unfold answerReleased
  try dsimp only
  repeat' (first
      | with_reducible assumption | with_reducible apply sendQuietly_frame
      | (with_reducible exact partsIn_trans (by decide) hw) | (with_reducible refine ite_frame ?_ ?_) | split)

theorem serveArrival_frame {A : List Part} {s0 : State} (g : Group) (r : Released) (s : State) (hs : s0.agree A s)
    (hw : partsIn [.out, .pins, .sb, .datum, .polders, .cad, .keys, .link, .stack, .fau, .rings, .coll, .bars, .obj, .fns, .tracer, .gauge, .power, .free] A = true) :
    s0.agree A (serveArrival g r s) := by
  unfold serveArrival
  try dsimp only
  repeat' (first
      | with_reducible assumption | (with_reducible intro _) | with_reducible apply abortBarrier_frame
      | with_reducible apply answerReleased_frame | with_reducible apply fullCounter_frame
      | with_reducible apply recordLate_frame | with_reducible apply setCounter_frame
      | (with_reducible exact partsIn_trans (by decide) hw) | (with_reducible apply id_frame)
      | (with_reducible refine ite_frame ?_ ?_) | split)

theorem applyRelease_frame {A : List Part} {s0 : State} (a : Arrival) (s : State) (hs : s0.agree A s)
    (hw : partsIn [.out, .sb, .polders, .sca, .obj, .fns, .tracer, .free] A = true) : s0.agree A
    (applyRelease a s).2 := by
  unfold applyRelease
  try dsimp only
  repeat' (first
      | with_reducible assumption | with_reducible apply changeSync_frame | with_reducible apply syncFault_frame
      | (with_reducible exact partsIn_trans (by decide) hw) | (with_reducible refine ite_frame ?_ ?_)
      | (with_reducible refine ite_pair_frame ?_ ?_) | (with_reducible refine ite_trip_frame ?_ ?_) | split
      | (refine frame_of_pair (by with_reducible assumption) ?_)
      | (refine frame_of_trip (by with_reducible assumption) ?_) | (dsimp only))

theorem serveRelease_frame {A : List Part} {s0 : State} (g : Group) (r : Released) (s : State) (hs : s0.agree A s)
    (hw : partsIn [.out, .sb, .datum, .polders, .link, .coll, .bars, .sca, .obj, .fns, .tracer, .free] A = true) :
    s0.agree A (serveRelease g r s) := by
  unfold serveRelease
  try dsimp only
  repeat' (first
      | with_reducible assumption | (with_reducible intro _) | with_reducible apply applyRelease_frame
      | with_reducible apply completeArrival_frame | with_reducible apply endCounter_frame
      | with_reducible apply modBars_frame | (with_reducible exact partsIn_trans (by decide) hw)
      | (with_reducible apply id_frame) | (with_reducible refine ite_frame ?_ ?_)
      | (with_reducible refine ite_pair_frame ?_ ?_) | (with_reducible refine ite_trip_frame ?_ ?_) | split
      | (refine frame_of_pair (by with_reducible assumption) ?_)
      | (refine frame_of_trip (by with_reducible assumption) ?_) | (dsimp only))

theorem serveAbortUp_frame {A : List Part} {s0 : State} (g : Group) (r : Released) (s : State) (hs : s0.agree A s)
    (hw : partsIn [.out, .pins, .sb, .datum, .polders, .cad, .keys, .link, .stack, .fau, .rings, .coll, .bars, .obj, .fns, .tracer, .gauge, .power, .free] A = true) :
    s0.agree A (serveAbortUp g r s) := by
  unfold serveAbortUp
  try dsimp only
  repeat' (first
      | with_reducible assumption | (with_reducible intro _) | with_reducible apply abortBarrier_frame
      | with_reducible apply abortNode_frame | with_reducible apply sendAbort_frame
      | (with_reducible exact partsIn_trans (by decide) hw) | (with_reducible apply id_frame)
      | (with_reducible refine ite_frame ?_ ?_) | split)

theorem serveAbortDown_frame {A : List Part} {s0 : State} (g : Group) (r : Released) (s : State) (hs : s0.agree A s)
    (hw : partsIn [.out, .pins, .sb, .datum, .polders, .cad, .keys, .link, .stack, .coll, .bars, .obj, .fns, .tracer, .power, .free] A = true) :
    s0.agree A (serveAbortDown g r s) := by
  unfold serveAbortDown
  try dsimp only
  repeat' (first
      | with_reducible assumption | with_reducible apply completeArrival_frame
      | with_reducible apply completePart_frame | with_reducible apply dropSinkRec_frame
      | with_reducible apply endCounter_frame | with_reducible apply freeNode_frame
      | (with_reducible exact partsIn_trans (by decide) hw) | (with_reducible apply id_frame)
      | (with_reducible refine ite_frame ?_ ?_) | split)

theorem barrierFailed_frame {A : List Part} {s0 : State} (p : PolderId) (id : BitVec 32) (st : Status) (s : State)
    (hs : s0.agree A s)
    (hw : partsIn [.out, .pins, .sb, .datum, .polders, .cad, .keys, .link, .stack, .fau, .rings, .coll, .bars, .obj, .fns, .tracer, .gauge, .power, .free] A = true) :
    s0.agree A (barrierFailed p id st s) := by
  unfold barrierFailed
  try dsimp only
  repeat' (first
      | with_reducible assumption | with_reducible apply abortBarrier_frame
      | with_reducible apply completeArrival_frame | with_reducible apply endCounter_frame
      | (with_reducible exact partsIn_trans (by decide) hw) | (with_reducible apply id_frame) | split)

theorem endBarriers_frame {A : List Part} {s0 : State} (mine : PolderId → BitVec 16 → Bool) (st : Status)
    (s : State) (hs : s0.agree A s)
    (hw : partsIn [.out, .datum, .link, .coll, .bars, .obj, .fns, .tracer, .free] A = true) : s0.agree A
    (endBarriers mine st s) := by
  unfold endBarriers
  try dsimp only
  repeat' (first
      | with_reducible assumption | (with_reducible intro _) | with_reducible apply completeArrival_frame
      | with_reducible apply modBars_frame | with_reducible apply settleGroups_frame
      | (with_reducible exact partsIn_trans (by decide) hw) | (with_reducible apply foldl_frame) | (dsimp only))

theorem execAbort_frame {A : List Part} {s0 : State} (s : State) (hs : s0.agree A s)
    (hw : partsIn [.out, .pins, .sb, .datum, .polders, .cad, .keys, .link, .stack, .fau, .rings, .coll, .bars, .obj, .fns, .tracer, .gauge, .power, .free] A = true) :
    FrameOut A s0 (execAbort s) := by
  unfold execAbort
  try dsimp only
  repeat' (first
      | with_reducible exact frameOut_fault | (with_reducible apply frameOut_next)
      | (with_reducible refine frameOut_ite ?_ ?_) | with_reducible assumption | (with_reducible intro _)
      | with_reducible apply serveAbortDown_frame | with_reducible apply serveAbortUp_frame
      | with_reducible apply serveColl_frame | (with_reducible exact partsIn_trans (by decide) hw) | split
      | (dsimp only))

theorem execBarrierArrival_frame {A : List Part} {s0 : State} (s : State) (hs : s0.agree A s)
    (hw : partsIn [.out, .pins, .sb, .datum, .polders, .cad, .keys, .link, .stack, .fau, .rings, .coll, .bars, .obj, .fns, .tracer, .gauge, .power, .free] A = true) :
    FrameOut A s0 (execBarrierArrival s) := by
  unfold execBarrierArrival
  try dsimp only
  repeat' (first
      | with_reducible exact frameOut_fault | (with_reducible apply frameOut_next)
      | (with_reducible refine frameOut_ite ?_ ?_) | with_reducible assumption | (with_reducible intro _)
      | with_reducible apply serveArrival_frame | with_reducible apply serveColl_frame
      | (with_reducible exact partsIn_trans (by decide) hw) | (dsimp only))

theorem execBarrierRelease_frame {A : List Part} {s0 : State} (s : State) (hs : s0.agree A s)
    (hw : partsIn [.out, .pins, .sb, .datum, .polders, .link, .coll, .bars, .sca, .obj, .fns, .tracer, .power, .free] A = true) :
    FrameOut A s0 (execBarrierRelease s) := by
  unfold execBarrierRelease
  try dsimp only
  repeat' (first
      | with_reducible exact frameOut_fault | (with_reducible apply frameOut_next)
      | (with_reducible refine frameOut_ite ?_ ?_) | with_reducible assumption | (with_reducible intro _)
      | with_reducible apply serveColl_frame | with_reducible apply serveRelease_frame
      | (with_reducible exact partsIn_trans (by decide) hw) | (dsimp only))

theorem execBarrierArrivalResend_frame {A : List Part} {s0 : State} (polder : PolderId) (barrier : BitVec 32)
    (s : State) (hs : s0.agree A s)
    (hw : partsIn [.out, .pins, .sb, .datum, .polders, .cad, .keys, .link, .stack, .fau, .rings, .coll, .bars, .obj, .fns, .tracer, .gauge, .power, .free] A = true) :
    FrameOut A s0 (execBarrierArrivalResend polder barrier s) := by
  unfold execBarrierArrivalResend
  try dsimp only
  repeat' (first
      | with_reducible exact frameOut_fault | (with_reducible apply frameOut_next)
      | (with_reducible refine frameOut_ite ?_ ?_) | with_reducible assumption | (with_reducible intro _)
      | with_reducible apply abortBarrier_frame | with_reducible apply completeArrival_frame
      | with_reducible apply modBars_frame | with_reducible apply sendPacket_frame
      | with_reducible apply setCounter_frame | (with_reducible exact partsIn_trans (by decide) hw)
      | (with_reducible refine ite_frame ?_ ?_) | (with_reducible refine ite_pair_frame ?_ ?_)
      | (with_reducible refine ite_trip_frame ?_ ?_) | split
      | (refine frame_of_pair (by with_reducible assumption) ?_)
      | (refine frame_of_trip (by with_reducible assumption) ?_) | (dsimp only))

theorem execBarrierNodeWatchdog_frame {A : List Part} {s0 : State} (polder : PolderId) (barrier : BitVec 32)
    (s : State) (hs : s0.agree A s)
    (hw : partsIn [.out, .pins, .sb, .datum, .polders, .cad, .keys, .link, .stack, .fau, .rings, .coll, .bars, .obj, .fns, .tracer, .gauge, .power, .free] A = true) :
    FrameOut A s0 (execBarrierNodeWatchdog polder barrier s) := by
  unfold execBarrierNodeWatchdog
  try dsimp only
  repeat' (first
      | with_reducible exact frameOut_fault | (with_reducible apply frameOut_next)
      | (with_reducible refine frameOut_ite ?_ ?_) | with_reducible assumption | (with_reducible intro _)
      | with_reducible apply abortBarrier_frame | with_reducible apply writeFault_frame
      | (with_reducible exact partsIn_trans (by decide) hw) | (with_reducible refine ite_frame ?_ ?_) | split
      | (dsimp only))

theorem execBarrierParticipantWatchdog_frame {A : List Part} {s0 : State} (polder : PolderId) (barrier : BitVec 32)
    (s : State) (hs : s0.agree A s)
    (hw : partsIn [.out, .sb, .datum, .polders, .link, .coll, .bars, .obj, .fns, .tracer, .free] A = true) :
    FrameOut A s0 (execBarrierParticipantWatchdog polder barrier s) := by
  unfold execBarrierParticipantWatchdog
  try dsimp only
  repeat' (first
      | with_reducible exact frameOut_fault | (with_reducible apply frameOut_next)
      | (with_reducible refine frameOut_ite ?_ ?_) | with_reducible assumption | (with_reducible intro _)
      | with_reducible apply completeArrival_frame | with_reducible apply writeFault_frame
      | (with_reducible exact partsIn_trans (by decide) hw) | (with_reducible refine ite_frame ?_ ?_) | split
      | (dsimp only))

theorem execReleasedListExpiry_frame {A : List Part} {s0 : State} (index : Nat) (s : State) (hs : s0.agree A s)
    (hw : partsIn [.bars] A = true) : FrameOut A s0 (execReleasedListExpiry index s) := by
  unfold execReleasedListExpiry
  try dsimp only
  repeat' (first
      | with_reducible exact frameOut_fault | (with_reducible apply frameOut_next)
      | (with_reducible refine frameOut_ite ?_ ?_) | with_reducible assumption | (with_reducible intro _)
      | with_reducible apply modBars_frame | (with_reducible exact partsIn_trans (by decide) hw)
      | (with_reducible refine ite_frame ?_ ?_) | split | (dsimp only))

end Sys2Proof.Machine
end

