-- ==== Sys2Proof/Laws/FrameRings.lean ====
section
/-! SUPPORT. Which parts of the state the operations of Machine/Rings.lean may change (State.agree). -/

namespace Sys2Proof.Machine

theorem modRingOf_frame {A : List Part} {s0 : State} (r : BitVec 12) (f : Ring → Ring) (s : State) (hs :
    s0.agree A s) (hw : partsIn [.rings] A = true) : s0.agree A (modRingOf r f s) := by
  unfold modRingOf
  try dsimp only
  repeat' (first
      | with_reducible assumption | (with_reducible intro _) | (with_reducible exact partsIn_trans (by decide) hw)
      | (with_reducible refine agree_rings ?_ ?_))

theorem modRings_frame {A : List Part} {s0 : State} (f : Rings → Rings) (s : State) (hs : s0.agree A s)
    (hw : partsIn [.rings] A = true) : s0.agree A (modRings f s) := by
  unfold modRings
  try dsimp only
  repeat' (first
      | with_reducible assumption | (with_reducible exact partsIn_trans (by decide) hw)
      | (with_reducible refine agree_rings ?_ ?_))

theorem homeLost_frame {A : List Part} {s0 : State} (r : Ring) (home : BitVec 3) (cause : Nat) (s : State) (hs :
    s0.agree A s) (hw : partsIn [.out, .sb, .polders, .obj, .fns, .tracer, .free] A = true) : s0.agree A
    (homeLost r home cause s) := by
  unfold homeLost
  try dsimp only
  repeat' (first
      | with_reducible assumption | with_reducible apply writeFault_frame
      | (with_reducible exact partsIn_trans (by decide) hw))

theorem sendRingRequest_frame {A : List Part} {s0 : State} (r : Ring) (k : BitVec 3) (msg : BitVec 4)
    (addr : BitVec 64) (data : Bytes) (s : State) (hs : s0.agree A s)
    (hw : partsIn [.out, .pins, .sb, .polders, .cad, .keys, .link, .stack, .fau, .rings, .obj, .fns, .tracer, .gauge, .power, .free] A = true) :
    s0.agree A (sendRingRequest r k msg addr data s).2 := by
  unfold sendRingRequest
  try dsimp only
  repeat' (first
      | with_reducible assumption | (with_reducible intro _) | with_reducible apply modRings_frame
      | with_reducible apply sendPacket_frame | with_reducible apply takeSeq_frame
      | (with_reducible exact partsIn_trans (by decide) hw) | (with_reducible refine ite_frame ?_ ?_)
      | (with_reducible refine ite_pair_frame ?_ ?_) | (with_reducible refine ite_trip_frame ?_ ?_) | split
      | (refine frame_of_pair (by with_reducible assumption) ?_)
      | (refine frame_of_trip (by with_reducible assumption) ?_) | (dsimp only))

theorem sendLine_frame {A : List Part} {s0 : State} (r : Ring) (k : BitVec 3) (msg : BitVec 4) (addr : BitVec 64)
    (data : Bytes) (s : State) (hs : s0.agree A s)
    (hw : partsIn [.out, .pins, .sb, .polders, .cad, .keys, .link, .stack, .fau, .rings, .obj, .fns, .tracer, .gauge, .power, .free] A = true) :
    s0.agree A (sendLine r k msg addr data s) := by
  unfold sendLine
  try dsimp only
  repeat' (first
      | with_reducible assumption | with_reducible apply emit_frame | with_reducible apply sendRingRequest_frame
      | (with_reducible exact partsIn_trans (by decide) hw) | (with_reducible refine ite_pair_frame ?_ ?_)
      | (with_reducible refine ite_trip_frame ?_ ?_) | split
      | (refine frame_of_pair (by with_reducible assumption) ?_)
      | (refine frame_of_trip (by with_reducible assumption) ?_) | (dsimp only))

theorem ringReply_frame {A : List Part} {s0 : State} (r : Ring) (m : Released) (msg : BitVec 4) (st : Status)
    (state : BitVec 2) (data : Bytes) (s : State) (hs : s0.agree A s)
    (hw : partsIn [.out, .pins, .sb, .polders, .cad, .keys, .link, .stack, .fau, .rings, .obj, .fns, .tracer, .gauge, .power, .free] A = true) :
    s0.agree A (ringReply r m msg st state data s) := by
  unfold ringReply
  try dsimp only
  repeat' (first
      | with_reducible assumption | with_reducible apply emit_frame | with_reducible apply sendQuietly_frame
      | (with_reducible exact partsIn_trans (by decide) hw) | (with_reducible refine ite_frame ?_ ?_) | split)

theorem ringRefuse_frame {A : List Part} {s0 : State} (r : Ring) (m : Released) (st : Status) (s : State) (hs :
    s0.agree A s)
    (hw : partsIn [.out, .pins, .sb, .polders, .cad, .keys, .link, .stack, .fau, .rings, .obj, .fns, .tracer, .gauge, .power, .free] A = true) :
    s0.agree A (ringRefuse r m st s) := by
  unfold ringRefuse
  try dsimp only
  repeat' (first
      | with_reducible assumption | with_reducible apply ringReply_frame
      | (with_reducible exact partsIn_trans (by decide) hw))

theorem setLine_frame {A : List Part} {s0 : State} (e : DirEntry) (s : State) (hs : s0.agree A s)
    (hw : partsIn [.rings] A = true) : s0.agree A (setLine e s) := by
  unfold setLine
  try dsimp only
  repeat' (first
      | with_reducible assumption | (with_reducible intro _) | with_reducible apply modRings_frame
      | (with_reducible exact partsIn_trans (by decide) hw))

theorem freeLine_frame {A : List Part} {s0 : State} (ring : BitVec 12) (line : BitVec 37) (s : State) (hs :
    s0.agree A s) (hw : partsIn [.rings] A = true) : s0.agree A (freeLine ring line s) := by
  unfold freeLine
  try dsimp only
  repeat' (first
      | with_reducible assumption | (with_reducible intro _) | with_reducible apply modRings_frame
      | (with_reducible exact partsIn_trans (by decide) hw))

theorem denyTxn_frame {A : List Part} {s0 : State} (ring : BitVec 12) (line : BitVec 37) (s : State) (hs :
    s0.agree A s)
    (hw : partsIn [.out, .pins, .sb, .polders, .cad, .keys, .link, .stack, .fau, .rings, .obj, .fns, .tracer, .gauge, .power, .free] A = true) :
    s0.agree A (denyTxn ring line s) := by
  unfold denyTxn
  try dsimp only
  repeat' (first
      | with_reducible assumption | (with_reducible intro _) | with_reducible apply freeLine_frame
      | with_reducible apply modRings_frame | with_reducible apply ringRefuse_frame
      | with_reducible apply setLine_frame | (with_reducible exact partsIn_trans (by decide) hw) | split)

theorem numberSnoop_frame {A : List Part} {s0 : State} (r : Ring) (k : BitVec 3) (msg : BitVec 4) (addr : BitVec 64)
    (s : State) (hs : s0.agree A s)
    (hw : partsIn [.out, .pins, .sb, .polders, .cad, .keys, .link, .stack, .fau, .rings, .obj, .fns, .tracer, .gauge, .power, .free] A = true) :
    s0.agree A (numberSnoop r k msg addr s) := by
  unfold numberSnoop
  try dsimp only
  repeat' (first
      | with_reducible assumption | with_reducible apply denyTxn_frame | with_reducible apply sendRingRequest_frame
      | (with_reducible exact partsIn_trans (by decide) hw) | (with_reducible refine ite_pair_frame ?_ ?_)
      | (with_reducible refine ite_trip_frame ?_ ?_) | split
      | (refine frame_of_pair (by with_reducible assumption) ?_)
      | (refine frame_of_trip (by with_reducible assumption) ?_) | (dsimp only))

theorem sendSnoop_frame {A : List Part} {s0 : State} (r : Ring) (line : BitVec 37) (k : BitVec 3) (msg : BitVec 4)
    (s : State) (hs : s0.agree A s)
    (hw : partsIn [.out, .pins, .sb, .polders, .cad, .keys, .link, .stack, .fau, .rings, .obj, .fns, .tracer, .gauge, .power, .free] A = true) :
    s0.agree A (sendSnoop r line k msg s) := by
  unfold sendSnoop
  try dsimp only
  repeat' (first
      | with_reducible assumption | (with_reducible intro _) | with_reducible apply count_frame
      | with_reducible apply emit_frame | with_reducible apply modRings_frame
      | with_reducible apply numberSnoop_frame | (with_reducible exact partsIn_trans (by decide) hw)
      | (with_reducible refine ite_frame ?_ ?_) | split)

theorem homeAccess_frame {A : List Part} {s0 : State} (r : Ring) (line : BitVec 37) (data : Option Bytes)
    (s : State) (hs : s0.agree A s)
    (hw : partsIn [.out, .pins, .sb, .polders, .cad, .keys, .stack, .tray, .obj, .fns, .tracer, .gauge, .power, .free] A = true) :
    s0.agree A (homeAccess r line data s).2 := by
  unfold homeAccess
  try dsimp only
  repeat' (first
      | with_reducible assumption | (with_reducible intro _) | with_reducible apply homeLost_frame
      | with_reducible apply keepLookups_frame | with_reducible apply leaseCheck_frame
      | with_reducible apply stackTargetChange_frame | with_reducible apply stackTargetRead_frame
      | with_reducible apply trayChange_frame | with_reducible apply trayRead_frame
      | with_reducible apply withTray_frame | (with_reducible exact partsIn_trans (by decide) hw)
      | (with_reducible refine ite_frame ?_ ?_) | (with_reducible refine ite_pair_frame ?_ ?_)
      | (with_reducible refine ite_trip_frame ?_ ?_) | split
      | (refine frame_of_pair (by with_reducible assumption) ?_)
      | (refine frame_of_trip (by with_reducible assumption) ?_) | (dsimp only))

theorem allocLine_frame {A : List Part} {s0 : State} (ring : BitVec 12) (line : BitVec 37) (state : LineState)
    (sharers : BitVec 8) (owner : BitVec 3) (s : State) (hs : s0.agree A s) (hw : partsIn [.rings] A = true) :
    s0.agree A (allocLine ring line state sharers owner s) := by
  unfold allocLine
  try dsimp only
  repeat' (first
      | with_reducible assumption | (with_reducible intro _) | with_reducible apply modRings_frame
      | (with_reducible exact partsIn_trans (by decide) hw))

theorem startTxn_frame {A : List Part} {s0 : State} (r : Ring) (e : DirEntry) (invalidate : List (BitVec 3))
    (recalled : Option (BitVec 3 × BitVec 4)) (goal : RingGoal) (s : State) (hs : s0.agree A s)
    (hw : partsIn [.out, .pins, .sb, .polders, .cad, .keys, .link, .stack, .fau, .rings, .obj, .fns, .tracer, .gauge, .power, .free] A = true) :
    s0.agree A (startTxn r e invalidate recalled goal s) := by
  unfold startTxn
  try dsimp only
  repeat' (first
      | with_reducible assumption | (with_reducible intro _) | with_reducible apply modRings_frame
      | with_reducible apply sendSnoop_frame | with_reducible apply setLine_frame
      | (with_reducible exact partsIn_trans (by decide) hw) | (with_reducible apply foldl_frame) | split
      | (dsimp only))

theorem clearLine_frame {A : List Part} {s0 : State} (r : Ring) (e : DirEntry) (goal : RingGoal) (s : State) (hs :
    s0.agree A s)
    (hw : partsIn [.out, .pins, .sb, .polders, .cad, .keys, .link, .stack, .fau, .rings, .obj, .fns, .tracer, .gauge, .power, .free] A = true) :
    s0.agree A (clearLine r e goal s) := by
  unfold clearLine
  try dsimp only
  repeat' (first
      | with_reducible assumption | with_reducible apply startTxn_frame
      | (with_reducible exact partsIn_trans (by decide) hw) | split)

theorem keepWaiting_frame {A : List Part} {s0 : State} (m : Released) (s : State) (hs : s0.agree A s)
    (hw : partsIn [.rings] A = true) : s0.agree A (keepWaiting m s) := by
  unfold keepWaiting
  try dsimp only
  repeat' (first
      | with_reducible assumption | (with_reducible intro _) | with_reducible apply modRings_frame
      | (with_reducible exact partsIn_trans (by decide) hw))

theorem dropHeld_frame {A : List Part} {s0 : State} (ring : BitVec 12) (line : BitVec 37) (s : State) (hs :
    s0.agree A s) (hw : partsIn [.rings] A = true) : s0.agree A (dropHeld ring line s) := by
  unfold dropHeld
  try dsimp only
  repeat' (first
      | with_reducible assumption | (with_reducible intro _) | with_reducible apply freeLine_frame
      | (with_reducible exact partsIn_trans (by decide) hw) | (with_reducible refine ite_frame ?_ ?_) | split)

theorem grantLine_frame {A : List Part} {s0 : State} (r : Ring) (m : Released) (line : BitVec 37) (state : BitVec 2)
    (upd : State → State) (s : State) (hs : s0.agree A s) (h_upd : ∀ s : State, s0.agree A s → s0.agree A (upd s))
    (hw : partsIn [.out, .pins, .sb, .polders, .cad, .keys, .link, .stack, .tray, .fau, .rings, .obj, .fns, .tracer, .gauge, .power, .free] A = true) :
    s0.agree A (grantLine r m line state upd s) := by
  unfold grantLine
  try dsimp only
  repeat' (first
      | with_reducible assumption | with_reducible apply dropHeld_frame | with_reducible apply homeAccess_frame
      | with_reducible apply keepWaiting_frame | with_reducible apply ringRefuse_frame
      | with_reducible apply ringReply_frame | (with_reducible exact partsIn_trans (by decide) hw)
      | with_reducible apply h_upd | (with_reducible refine ite_pair_frame ?_ ?_)
      | (with_reducible refine ite_trip_frame ?_ ?_) | split
      | (refine frame_of_pair (by with_reducible assumption) ?_)
      | (refine frame_of_trip (by with_reducible assumption) ?_) | (dsimp only))

theorem serveUncached_frame {A : List Part} {s0 : State} (r : Ring) (k : BitVec 3) (m : Released) (line : BitVec 37)
    (shared : Bool) (s : State) (hs : s0.agree A s)
    (hw : partsIn [.out, .pins, .sb, .polders, .cad, .keys, .link, .stack, .tray, .fau, .rings, .obj, .fns, .tracer, .gauge, .power, .free] A = true) :
    s0.agree A (serveUncached r k m line shared s) := by
  unfold serveUncached
  try dsimp only
  repeat' (first
      | with_reducible assumption | (with_reducible intro _) | with_reducible apply allocLine_frame
      | with_reducible apply clearLine_frame | with_reducible apply count_frame
      | with_reducible apply grantLine_frame | with_reducible apply keepWaiting_frame
      | with_reducible apply ringRefuse_frame | (with_reducible exact partsIn_trans (by decide) hw)
      | (with_reducible apply foldl_frame) | (with_reducible refine ite_frame ?_ ?_) | split | (dsimp only))

theorem serveShared_frame {A : List Part} {s0 : State} (r : Ring) (k : BitVec 3) (m : Released) (e : DirEntry)
    (s : State) (hs : s0.agree A s)
    (hw : partsIn [.out, .pins, .sb, .polders, .cad, .keys, .link, .stack, .tray, .fau, .rings, .obj, .fns, .tracer, .gauge, .power, .free] A = true) :
    s0.agree A (serveShared r k m e s) := by
  unfold serveShared
  try dsimp only
  repeat' (first
      | with_reducible assumption | (with_reducible intro _) | with_reducible apply freeLine_frame
      | with_reducible apply grantLine_frame | with_reducible apply ringReply_frame
      | with_reducible apply setLine_frame | with_reducible apply startTxn_frame
      | (with_reducible exact partsIn_trans (by decide) hw) | (with_reducible refine ite_frame ?_ ?_) | split)

theorem serveModified_frame {A : List Part} {s0 : State} (r : Ring) (k : BitVec 3) (m : Released) (e : DirEntry)
    (s : State) (hs : s0.agree A s)
    (hw : partsIn [.out, .pins, .sb, .polders, .cad, .keys, .link, .stack, .tray, .fau, .rings, .obj, .fns, .tracer, .gauge, .power, .free] A = true) :
    s0.agree A (serveModified r k m e s) := by
  unfold serveModified
  try dsimp only
  repeat' (first
      | with_reducible assumption | (with_reducible intro _) | with_reducible apply freeLine_frame
      | with_reducible apply grantLine_frame | with_reducible apply homeAccess_frame
      | with_reducible apply keepWaiting_frame | with_reducible apply ringReply_frame
      | with_reducible apply startTxn_frame | (with_reducible exact partsIn_trans (by decide) hw)
      | (with_reducible apply id_frame) | (with_reducible refine ite_frame ?_ ?_)
      | (with_reducible refine ite_pair_frame ?_ ?_) | (with_reducible refine ite_trip_frame ?_ ?_) | split
      | (refine frame_of_pair (by with_reducible assumption) ?_)
      | (refine frame_of_trip (by with_reducible assumption) ?_) | (dsimp only))

theorem serveLine_frame {A : List Part} {s0 : State} (m : Released) (s : State) (hs : s0.agree A s)
    (hw : partsIn [.out, .pins, .sb, .polders, .cad, .keys, .link, .stack, .tray, .fau, .rings, .obj, .fns, .tracer, .gauge, .power, .free] A = true) :
    s0.agree A (serveLine m s) := by
  unfold serveLine
  try dsimp only
  repeat' (first
      | with_reducible assumption | with_reducible apply dropHeld_frame | with_reducible apply keepWaiting_frame
      | with_reducible apply ringRefuse_frame | with_reducible apply ringReply_frame
      | with_reducible apply serveModified_frame | with_reducible apply serveShared_frame
      | with_reducible apply serveUncached_frame | with_reducible apply wakeDomain_frame
      | (with_reducible exact partsIn_trans (by decide) hw) | (with_reducible refine ite_frame ?_ ?_) | split)

theorem pumpRings_frame {A : List Part} {s0 : State} (s : State) (hs : s0.agree A s)
    (hw : partsIn [.out, .pins, .sb, .polders, .cad, .keys, .link, .stack, .tray, .fau, .rings, .obj, .fns, .tracer, .gauge, .power, .free] A = true) :
    s0.agree A (pumpRings s) := by
  unfold pumpRings
  try dsimp only
  repeat' (first
      | with_reducible assumption | (with_reducible intro _) | with_reducible apply modRings_frame
      | with_reducible apply serveLine_frame | (with_reducible exact partsIn_trans (by decide) hw)
      | (with_reducible apply foldl_frame) | (dsimp only))

theorem dropRing_frame {A : List Part} {s0 : State} (r : Ring) (s : State) (hs : s0.agree A s)
    (hw : partsIn [.fau, .rings] A = true) : s0.agree A (dropRing r s) := by
  unfold dropRing
  try dsimp only
  repeat' (first
      | with_reducible assumption | (with_reducible intro _) | with_reducible apply modRings_frame
      | (with_reducible exact partsIn_trans (by decide) hw) | (with_reducible refine agree_fau ?_ ?_))

theorem retireRing_frame {A : List Part} {s0 : State} (r : Ring) (s : State) (hs : s0.agree A s)
    (hw : partsIn [.fau, .rings] A = true) : s0.agree A (retireRing r s) := by
  unfold retireRing
  try dsimp only
  repeat' (first
      | with_reducible assumption | (with_reducible intro _) | with_reducible apply dropRing_frame
      | with_reducible apply modRings_frame | (with_reducible exact partsIn_trans (by decide) hw))

theorem destroyStep_frame {A : List Part} {s0 : State} (r : Ring) (s : State) (hs : s0.agree A s)
    (hw : partsIn [.out, .pins, .sb, .polders, .cad, .keys, .link, .stack, .fau, .rings, .obj, .fns, .tracer, .gauge, .power, .free] A = true) :
    s0.agree A (destroyStep r s) := by
  unfold destroyStep
  try dsimp only
  repeat' (first
      | with_reducible assumption | (with_reducible intro _) | with_reducible apply clearLine_frame
      | with_reducible apply finishAll_frame | with_reducible apply freeLine_frame
      | with_reducible apply retireRing_frame | (with_reducible exact partsIn_trans (by decide) hw)
      | (with_reducible apply foldl_frame) | (with_reducible refine ite_frame ?_ ?_) | split | (dsimp only))

theorem finishTxn_frame {A : List Part} {s0 : State} (t : RingTxn) (lost : Bool) (s : State) (hs : s0.agree A s)
    (hw : partsIn [.out, .pins, .sb, .polders, .cad, .keys, .link, .stack, .tray, .fau, .rings, .obj, .fns, .tracer, .gauge, .power, .free] A = true) :
    s0.agree A (finishTxn t lost s) := by
  unfold finishTxn
  try dsimp only
  repeat' (first
      | with_reducible assumption | (with_reducible intro _) | with_reducible apply destroyStep_frame
      | with_reducible apply freeLine_frame | with_reducible apply modRings_frame
      | with_reducible apply pumpRings_frame | with_reducible apply setLine_frame
      | (with_reducible exact partsIn_trans (by decide) hw) | (with_reducible refine ite_frame ?_ ?_) | split)

theorem settleTxn_frame {A : List Part} {s0 : State} (ring : BitVec 12) (line : BitVec 37) (k : BitVec 3)
    (lost : Bool) (s : State) (hs : s0.agree A s)
    (hw : partsIn [.out, .pins, .sb, .polders, .cad, .keys, .link, .stack, .tray, .fau, .rings, .obj, .fns, .tracer, .gauge, .power, .free] A = true) :
    s0.agree A (settleTxn ring line k lost s) := by
  unfold settleTxn
  try dsimp only
  repeat' (first
      | with_reducible assumption | (with_reducible intro _) | with_reducible apply finishTxn_frame
      | with_reducible apply modRings_frame | (with_reducible exact partsIn_trans (by decide) hw)
      | (with_reducible refine ite_frame ?_ ?_) | split)

theorem snoopAnswered_frame {A : List Part} {s0 : State} (r : Ring) (line : BitVec 37) (k : BitVec 3)
    (data : Option Bytes) (s : State) (hs : s0.agree A s)
    (hw : partsIn [.out, .pins, .sb, .polders, .cad, .keys, .link, .stack, .tray, .fau, .rings, .obj, .fns, .tracer, .gauge, .power, .free] A = true) :
    s0.agree A (snoopAnswered r line k data s).2 := by
  unfold snoopAnswered
  try dsimp only
  repeat' (first
      | with_reducible assumption | (with_reducible intro _) | with_reducible apply homeAccess_frame
      | with_reducible apply modRings_frame | with_reducible apply settleTxn_frame
      | (with_reducible exact partsIn_trans (by decide) hw) | (with_reducible refine ite_frame ?_ ?_)
      | (with_reducible refine ite_pair_frame ?_ ?_) | (with_reducible refine ite_trip_frame ?_ ?_) | split
      | (refine frame_of_pair (by with_reducible assumption) ?_)
      | (refine frame_of_trip (by with_reducible assumption) ?_) | (dsimp only))

theorem homeAgain_frame {A : List Part} {s0 : State} (r : Ring) (m : Released) (s : State) (hs : s0.agree A s)
    (hw : partsIn [.out, .pins, .sb, .polders, .cad, .keys, .link, .stack, .tray, .fau, .rings, .obj, .fns, .tracer, .gauge, .power, .free] A = true) :
    s0.agree A (homeAgain r m s) := by
  unfold homeAgain
  try dsimp only
  repeat' (first
      | with_reducible assumption | (with_reducible intro _) | with_reducible apply homeAccess_frame
      | with_reducible apply modRings_frame | with_reducible apply ringReply_frame
      | (with_reducible exact partsIn_trans (by decide) hw) | (with_reducible refine ite_frame ?_ ?_)
      | (with_reducible refine ite_pair_frame ?_ ?_) | (with_reducible refine ite_trip_frame ?_ ?_) | split
      | (refine frame_of_pair (by with_reducible assumption) ?_)
      | (refine frame_of_trip (by with_reducible assumption) ?_) | (dsimp only))

theorem homeRequest_frame {A : List Part} {s0 : State} (msg : Nat) (s : State) (hs : s0.agree A s)
    (hw : partsIn [.out, .pins, .sb, .polders, .cad, .keys, .link, .stack, .tray, .fau, .rings, .sca, .obj, .fns, .tracer, .gauge, .power, .free] A = true) :
    s0.agree A (homeRequest msg s) := by
  unfold homeRequest
  try dsimp only
  repeat' (first
      | with_reducible assumption | with_reducible apply count_frame | with_reducible apply dropReleased_frame
      | with_reducible apply homeAgain_frame | with_reducible apply raiseRecord_frame
      | with_reducible apply retryMemWait_frame | with_reducible apply ringRefuse_frame
      | with_reducible apply serveLine_frame | with_reducible apply setSeen_frame
      | (with_reducible exact partsIn_trans (by decide) hw) | (with_reducible refine ite_frame ?_ ?_) | split)

theorem retryAgain_frame {A : List Part} {s0 : State} (s : State) (hs : s0.agree A s)
    (hw : partsIn [.out, .pins, .sb, .polders, .cad, .keys, .link, .stack, .tray, .fau, .rings, .obj, .fns, .tracer, .gauge, .power, .free] A = true) :
    s0.agree A (retryAgain s) := by
  unfold retryAgain
  try dsimp only
  repeat' (first
      | with_reducible assumption | (with_reducible intro _) | with_reducible apply homeAgain_frame
      | with_reducible apply modRings_frame | (with_reducible exact partsIn_trans (by decide) hw)
      | (with_reducible apply foldl_frame) | split | (dsimp only))

theorem answerSnoop_frame {A : List Part} {s0 : State} (r : Ring) (m : Released) (data : Option Bytes) (s : State)
    (hs : s0.agree A s)
    (hw : partsIn [.out, .pins, .sb, .polders, .cad, .keys, .link, .stack, .fau, .rings, .obj, .fns, .tracer, .gauge, .power, .free] A = true) :
    s0.agree A (answerSnoop r m data s) := by
  unfold answerSnoop
  try dsimp only
  repeat' (first
      | with_reducible assumption | with_reducible apply ringReply_frame
      | (with_reducible exact partsIn_trans (by decide) hw) | split | (with_reducible refine agree_fau ?_ ?_))

theorem takeReply_frame {A : List Part} {s0 : State} (s : State) (x : SnoopReply) (hs : s0.agree A s)
    (hw : partsIn [.out, .pins, .sb, .polders, .cad, .keys, .link, .stack, .tray, .fau, .rings, .obj, .fns, .tracer, .gauge, .power, .free] A = true) :
    s0.agree A (takeReply s x) := by
  unfold takeReply
  try dsimp only
  repeat' (first
      | with_reducible assumption | (with_reducible intro _) | with_reducible apply answerSnoop_frame
      | with_reducible apply count_frame | with_reducible apply modRings_frame
      | with_reducible apply snoopAnswered_frame | (with_reducible exact partsIn_trans (by decide) hw)
      | (with_reducible refine ite_frame ?_ ?_) | (with_reducible refine ite_pair_frame ?_ ?_)
      | (with_reducible refine ite_trip_frame ?_ ?_) | split
      | (refine frame_of_pair (by with_reducible assumption) ?_)
      | (refine frame_of_trip (by with_reducible assumption) ?_) | (dsimp only))

theorem retryReplies_frame {A : List Part} {s0 : State} (s : State) (hs : s0.agree A s)
    (hw : partsIn [.out, .pins, .sb, .polders, .cad, .keys, .link, .stack, .tray, .fau, .rings, .obj, .fns, .tracer, .gauge, .power, .free] A = true) :
    s0.agree A (retryReplies s) := by
  unfold retryReplies
  try dsimp only
  repeat' (first
      | with_reducible assumption | (with_reducible intro _) | with_reducible apply modRings_frame
      | with_reducible apply takeReply_frame | (with_reducible exact partsIn_trans (by decide) hw)
      | (with_reducible apply foldl_frame) | (dsimp only))

theorem memberSnoop_frame {A : List Part} {s0 : State} (msg : Nat) (s : State) (hs : s0.agree A s)
    (hw : partsIn [.out, .pins, .sb, .polders, .cad, .keys, .link, .stack, .tray, .fau, .rings, .sca, .obj, .fns, .tracer, .gauge, .power, .free] A = true) :
    s0.agree A (memberSnoop msg s) := by
  unfold memberSnoop
  try dsimp only
  repeat' (first
      | with_reducible assumption | (with_reducible intro _) | with_reducible apply count_frame
      | with_reducible apply dropReleased_frame | with_reducible apply emit_frame
      | with_reducible apply modRings_frame | with_reducible apply raiseRecord_frame
      | with_reducible apply retryMemWait_frame | with_reducible apply ringRefuse_frame
      | with_reducible apply ringReply_frame | with_reducible apply setSeen_frame
      | (with_reducible exact partsIn_trans (by decide) hw) | (with_reducible refine ite_frame ?_ ?_) | split)

theorem dropRingReq_frame {A : List Part} {s0 : State} (q : RingReq) (s : State) (hs : s0.agree A s)
    (hw : partsIn [.rings] A = true) : s0.agree A (dropRingReq q s) := by
  unfold dropRingReq
  try dsimp only
  repeat' (first
      | with_reducible assumption | (with_reducible intro _) | with_reducible apply modRings_frame
      | (with_reducible exact partsIn_trans (by decide) hw))

theorem pumpLines_frame {A : List Part} {s0 : State} (s : State) (hs : s0.agree A s)
    (hw : partsIn [.out, .pins, .sb, .polders, .cad, .keys, .link, .stack, .fau, .rings, .obj, .fns, .tracer, .gauge, .power, .free] A = true) :
    s0.agree A (pumpLines s) := by
  unfold pumpLines
  try dsimp only
  repeat' (first
      | with_reducible assumption | (with_reducible intro _) | with_reducible apply emit_frame
      | with_reducible apply modRings_frame | with_reducible apply numberSnoop_frame
      | with_reducible apply sendLine_frame | (with_reducible exact partsIn_trans (by decide) hw)
      | (with_reducible apply foldl_frame) | (with_reducible refine ite_frame ?_ ?_) | split | (dsimp only))

theorem endLine_frame {A : List Part} {s0 : State} (r : Ring) (q : RingReq) (st : Status) (data : Bytes) (s : State)
    (hs : s0.agree A s)
    (hw : partsIn [.out, .pins, .sb, .polders, .cad, .keys, .link, .stack, .fau, .rings, .obj, .fns, .tracer, .gauge, .power, .free] A = true) :
    s0.agree A (endLine r q st data s) := by
  unfold endLine
  try dsimp only
  repeat' (first
      | with_reducible assumption | with_reducible apply dropRingReq_frame | with_reducible apply emit_frame
      | with_reducible apply pumpLines_frame | (with_reducible exact partsIn_trans (by decide) hw)
      | (with_reducible refine ite_frame ?_ ?_) | split)

theorem ringResponse_frame {A : List Part} {s0 : State} (msg : Nat) (s : State) (hs : s0.agree A s)
    (hw : partsIn [.out, .pins, .sb, .polders, .cad, .keys, .link, .stack, .tray, .fau, .rings, .obj, .fns, .tracer, .gauge, .power, .free] A = true) :
    s0.agree A (ringResponse msg s) := by
  unfold ringResponse
  try dsimp only
  repeat' (first
      | with_reducible assumption | (with_reducible intro _) | with_reducible apply count_frame
      | with_reducible apply dropReleased_frame | with_reducible apply dropRingReq_frame
      | with_reducible apply endLine_frame | with_reducible apply modRings_frame
      | with_reducible apply pumpLines_frame | with_reducible apply snoopAnswered_frame
      | (with_reducible exact partsIn_trans (by decide) hw) | (with_reducible refine ite_frame ?_ ?_)
      | (with_reducible refine ite_pair_frame ?_ ?_) | (with_reducible refine ite_trip_frame ?_ ?_) | split
      | (refine frame_of_pair (by with_reducible assumption) ?_)
      | (refine frame_of_trip (by with_reducible assumption) ?_) | (dsimp only))

theorem settleLate_frame {A : List Part} {s0 : State} (s : State) (hs : s0.agree A s)
    (hw : partsIn [.out, .pins, .sb, .polders, .cad, .keys, .link, .stack, .tray, .fau, .rings, .obj, .fns, .tracer, .gauge, .power, .free] A = true) :
    s0.agree A (settleLate s) := by
  unfold settleLate
  try dsimp only
  repeat' (first
      | with_reducible assumption | (with_reducible intro _) | with_reducible apply snoopAnswered_frame
      | (with_reducible exact partsIn_trans (by decide) hw) | (with_reducible apply foldl_frame)
      | (with_reducible apply foldl_pair_frame) | (with_reducible apply foldl_trip_frame)
      | (with_reducible refine ite_pair_frame ?_ ?_) | (with_reducible refine ite_trip_frame ?_ ?_) | split
      | (refine frame_of_pair (by with_reducible assumption) ?_)
      | (refine frame_of_trip (by with_reducible assumption) ?_) | (dsimp only))

theorem retryBacks_frame {A : List Part} {s0 : State} (s : State) (hs : s0.agree A s)
    (hw : partsIn [.out, .pins, .sb, .polders, .cad, .keys, .link, .stack, .tray, .fau, .rings, .obj, .fns, .tracer, .gauge, .power, .free] A = true) :
    s0.agree A (retryBacks s) := by
  unfold retryBacks
  try dsimp only
  repeat' (first
      | with_reducible assumption | (with_reducible intro _) | with_reducible apply modRings_frame
      | with_reducible apply settleLate_frame | with_reducible apply snoopAnswered_frame
      | (with_reducible exact partsIn_trans (by decide) hw) | (with_reducible apply foldl_frame)
      | (with_reducible apply foldl_pair_frame) | (with_reducible apply foldl_trip_frame)
      | (with_reducible refine ite_pair_frame ?_ ?_) | (with_reducible refine ite_trip_frame ?_ ?_) | split
      | (refine frame_of_pair (by with_reducible assumption) ?_)
      | (refine frame_of_trip (by with_reducible assumption) ?_) | (dsimp only))

theorem settleDestroys_frame {A : List Part} {s0 : State} (s : State) (hs : s0.agree A s)
    (hw : partsIn [.out, .pins, .sb, .polders, .cad, .keys, .link, .stack, .fau, .rings, .obj, .fns, .tracer, .gauge, .power, .free] A = true) :
    s0.agree A (settleDestroys s) := by
  unfold settleDestroys
  try dsimp only
  repeat' (first
      | with_reducible assumption | (with_reducible intro _) | with_reducible apply destroyStep_frame
      | (with_reducible exact partsIn_trans (by decide) hw) | (with_reducible apply foldl_frame) | split
      | (dsimp only))

theorem settleDead_frame {A : List Part} {s0 : State} (r : Ring) (k : BitVec 3) (s : State) (hs : s0.agree A s)
    (hw : partsIn [.out, .pins, .sb, .polders, .cad, .keys, .link, .stack, .tray, .fau, .rings, .obj, .fns, .tracer, .gauge, .power, .free] A = true) :
    s0.agree A (settleDead r k s).1 := by
  unfold settleDead
  try dsimp only
  repeat' (first
      | with_reducible assumption | (with_reducible intro _) | with_reducible apply modRings_frame
      | with_reducible apply settleTxn_frame | (with_reducible exact partsIn_trans (by decide) hw)
      | (with_reducible apply foldl_frame) | (with_reducible apply foldl_pair_frame)
      | (with_reducible apply foldl_trip_frame) | (with_reducible refine ite_frame ?_ ?_)
      | (with_reducible refine ite_pair_frame ?_ ?_) | (with_reducible refine ite_trip_frame ?_ ?_) | split
      | (dsimp only))

theorem declareDead_frame {A : List Part} {s0 : State} (r : Ring) (k : BitVec 3) (s : State) (hs : s0.agree A s)
    (hw : partsIn [.out, .pins, .sb, .polders, .cad, .keys, .link, .stack, .tray, .fau, .rings, .obj, .fns, .tracer, .gauge, .power, .free] A = true) :
    s0.agree A (declareDead r k s) := by
  unfold declareDead
  try dsimp only
  repeat' (first
      | with_reducible assumption | (with_reducible intro _) | with_reducible apply emit_frame
      | with_reducible apply homeLost_frame | with_reducible apply modRingOf_frame
      | with_reducible apply modRings_frame | with_reducible apply pumpLines_frame
      | with_reducible apply settleDead_frame | with_reducible apply writeFault_frame
      | (with_reducible exact partsIn_trans (by decide) hw) | (with_reducible apply foldl_frame)
      | (with_reducible apply foldl_pair_frame) | (with_reducible apply foldl_trip_frame)
      | (with_reducible refine ite_frame ?_ ?_) | (with_reducible refine ite_pair_frame ?_ ?_)
      | (with_reducible refine ite_trip_frame ?_ ?_) | split | (dsimp only))

theorem activateRing_frame {A : List Part} {s0 : State} (r : BitVec 12) (s : State) (hs : s0.agree A s)
    (hw : partsIn [.rings] A = true) : s0.agree A (activateRing r s) := by
  unfold activateRing
  try dsimp only
  repeat' (first
      | with_reducible assumption | (with_reducible intro _) | with_reducible apply modRingOf_frame
      | (with_reducible exact partsIn_trans (by decide) hw))

theorem arriveLine_frame {A : List Part} {s0 : State} (ring : BitVec 12) (message : BitVec 4) (addr : BitVec 64)
    (data : Bytes) (s : State) (hs : s0.agree A s)
    (hw : partsIn [.out, .pins, .sb, .polders, .cad, .keys, .link, .stack, .tray, .fau, .rings, .obj, .fns, .tracer, .gauge, .power, .free] A = true) :
    s0.agree A (arriveLine ring message addr data s) := by
  unfold arriveLine
  try dsimp only
  repeat' (first
      | with_reducible assumption | (with_reducible intro _) | with_reducible apply count_frame
      | with_reducible apply emit_frame | with_reducible apply homeLost_frame | with_reducible apply modRings_frame
      | with_reducible apply sendLine_frame | with_reducible apply serveLine_frame
      | (with_reducible exact partsIn_trans (by decide) hw) | (with_reducible refine ite_frame ?_ ?_) | split)

theorem giveUpRing_frame {A : List Part} {s0 : State} (r : Ring) (q : RingReq) (s : State) (hs : s0.agree A s)
    (hw : partsIn [.out, .pins, .sb, .polders, .cad, .keys, .link, .stack, .fau, .rings, .obj, .fns, .tracer, .gauge, .power, .free] A = true) :
    s0.agree A (giveUpRing r q s) := by
  unfold giveUpRing
  try dsimp only
  repeat' (first
      | with_reducible assumption | with_reducible apply dropRingReq_frame | with_reducible apply endLine_frame
      | with_reducible apply homeLost_frame | (with_reducible exact partsIn_trans (by decide) hw) | split)

theorem execRingHeartbeat_frame {A : List Part} {s0 : State} (s : State) (hs : s0.agree A s)
    (hw : partsIn [.link, .rings, .tracer] A = true) : FrameOut A s0 (execRingHeartbeat s) := by
  unfold execRingHeartbeat
  try dsimp only
  repeat' (first
      | with_reducible exact frameOut_fault | (with_reducible apply frameOut_next)
      | (with_reducible refine frameOut_ite ?_ ?_) | with_reducible assumption | (with_reducible intro _)
      | with_reducible apply count_frame | with_reducible apply dropReleased_frame
      | with_reducible apply modRingOf_frame | (with_reducible exact partsIn_trans (by decide) hw)
      | (with_reducible refine ite_frame ?_ ?_) | split | (dsimp only))

theorem execHeartbeatSend_frame {A : List Part} {s0 : State} (ring : BitVec 12) (s : State) (hs : s0.agree A s)
    (hw : partsIn [.out, .pins, .sb, .polders, .cad, .keys, .link, .stack, .fau, .rings, .obj, .fns, .tracer, .gauge, .power, .free] A = true) :
    FrameOut A s0 (execHeartbeatSend ring s) := by
  unfold execHeartbeatSend
  try dsimp only
  repeat' (first
      | with_reducible exact frameOut_fault | (with_reducible apply frameOut_next)
      | (with_reducible refine frameOut_ite ?_ ?_) | with_reducible assumption | (with_reducible intro _)
      | with_reducible apply modRingOf_frame | with_reducible apply sendQuietly_frame
      | (with_reducible exact partsIn_trans (by decide) hw) | (with_reducible apply foldl_frame)
      | (with_reducible refine ite_frame ?_ ?_) | split | (dsimp only))

theorem resendRing_frame {A : List Part} {s0 : State} (q : RingReq) (s : State) (hs : s0.agree A s)
    (hw : partsIn [.out, .pins, .sb, .polders, .cad, .keys, .link, .stack, .fau, .rings, .obj, .fns, .tracer, .gauge, .power, .free] A = true) :
    s0.agree A (resendRing q s) := by
  unfold resendRing
  try dsimp only
  repeat' (first
      | with_reducible assumption | (with_reducible intro _) | with_reducible apply giveUpRing_frame
      | with_reducible apply modRings_frame | with_reducible apply sendPacket_frame
      | (with_reducible exact partsIn_trans (by decide) hw) | (with_reducible refine ite_frame ?_ ?_)
      | (with_reducible refine ite_pair_frame ?_ ?_) | (with_reducible refine ite_trip_frame ?_ ?_) | split
      | (refine frame_of_pair (by with_reducible assumption) ?_)
      | (refine frame_of_trip (by with_reducible assumption) ?_) | (dsimp only))

end Sys2Proof.Machine
end

