-- ==== Sys2Proof/Laws/FrameExtents.lean ====
section
/-! SUPPORT. Which parts of the state the operations of Machine/Extents.lean may change (State.agree). -/

namespace Sys2Proof.Machine

theorem extentKeyFailed_frame {A : List Part} {s0 : State} (e : Extent) (st : Status) (s : State) (hs :
    s0.agree A s) (hw : partsIn [.out, .tray, .fau, .obj, .fns, .tracer] A = true) : s0.agree A
    (extentKeyFailed e st s) := by
  unfold extentKeyFailed
  try dsimp only
  repeat' (first
      | with_reducible assumption | (with_reducible intro _) | with_reducible apply finishAll_frame
      | with_reducible apply modExtent_frame | with_reducible apply reclaimLocation_frame
      | with_reducible apply removeRegion_frame | (with_reducible exact partsIn_trans (by decide) hw)
      | (with_reducible refine ite_frame ?_ ?_) | split | (with_reducible refine agree_tray ?_ ?_))

theorem extentKeyStep_frame {A : List Part} {s0 : State} (id : BitVec 13) (s : State) (hs : s0.agree A s)
    (hw : partsIn [.out, .pins, .sb, .polders, .cad, .keys, .stack, .tray, .fau, .obj, .fns, .tracer, .power, .free] A = true) :
    s0.agree A (extentKeyStep id s) := by
  unfold extentKeyStep
  try dsimp only
  repeat' (first
      | with_reducible assumption | with_reducible apply extentKeyFailed_frame | with_reducible apply needJob_frame
      | with_reducible apply needKey_frame | (with_reducible exact partsIn_trans (by decide) hw)
      | (with_reducible apply id_frame) | (with_reducible refine ite_frame ?_ ?_)
      | (with_reducible refine ite_pair_frame ?_ ?_) | (with_reducible refine ite_trip_frame ?_ ?_) | split
      | (refine frame_of_pair (by with_reducible assumption) ?_)
      | (refine frame_of_trip (by with_reducible assumption) ?_) | (dsimp only))

theorem extentDerived_frame {A : List Part} {s0 : State} (id : BitVec 13) (s : State) (hs : s0.agree A s)
    (hw : partsIn [.out, .pins, .sb, .polders, .cad, .keys, .stack, .tray, .fau, .obj, .fns, .tracer, .power, .free] A = true) :
    s0.agree A (extentDerived id s) := by
  unfold extentDerived
  try dsimp only
  repeat' (first
      | with_reducible assumption | (with_reducible intro _) | with_reducible apply extentKeyFailed_frame
      | with_reducible apply modExtent_frame | with_reducible apply needKey_frame
      | (with_reducible exact partsIn_trans (by decide) hw) | (with_reducible apply id_frame)
      | (with_reducible refine ite_frame ?_ ?_) | (with_reducible refine ite_pair_frame ?_ ?_)
      | (with_reducible refine ite_trip_frame ?_ ?_) | split
      | (refine frame_of_pair (by with_reducible assumption) ?_)
      | (refine frame_of_trip (by with_reducible assumption) ?_) | (dsimp only))

theorem execLeaseExpiry_frame {A : List Part} {s0 : State} (extent : BitVec 13) (s : State) (hs : s0.agree A s)
    (hw : partsIn [.out, .sb, .polders, .tray, .obj, .fns, .tracer, .free] A = true) : FrameOut A s0
    (execLeaseExpiry extent s) := by
  unfold execLeaseExpiry
  try dsimp only
  repeat' (first
      | with_reducible exact frameOut_fault | (with_reducible apply frameOut_next)
      | (with_reducible refine frameOut_ite ?_ ?_) | with_reducible assumption | (with_reducible intro _)
      | with_reducible apply beginRevoke_frame | (with_reducible exact partsIn_trans (by decide) hw)
      | (with_reducible refine ite_frame ?_ ?_) | split | (dsimp only))

theorem retryTray_frame {A : List Part} {s0 : State} (s : State) (hs : s0.agree A s)
    (hw : partsIn [.out, .pins, .sb, .polders, .cad, .keys, .link, .stack, .tray, .fau, .rings, .sca, .obj, .fns, .tracer, .gauge, .power, .free] A = true) :
    s0.agree A (retryTray s) := by
  unfold retryTray
  try dsimp only
  repeat' (first
      | with_reducible assumption | with_reducible apply fauSettle_frame | with_reducible apply pumpLines_frame
      | with_reducible apply pumpRings_frame | with_reducible apply retryAnswers_frame
      | with_reducible apply retryBacks_frame | with_reducible apply retryMemWait_frame
      | with_reducible apply retryReplies_frame | (with_reducible exact partsIn_trans (by decide) hw))

theorem execExtentRevokeDrained_frame {A : List Part} {s0 : State} (extent : BitVec 13) (s : State) (hs :
    s0.agree A s)
    (hw : partsIn [.out, .pins, .sb, .polders, .cad, .keys, .link, .stack, .tray, .fau, .rings, .sca, .obj, .fns, .tracer, .gauge, .power, .free] A = true) :
    FrameOut A s0 (execExtentRevokeDrained extent s) := by
  unfold execExtentRevokeDrained
  try dsimp only
  repeat' (first
      | with_reducible exact frameOut_fault | (with_reducible apply frameOut_next)
      | (with_reducible refine frameOut_ite ?_ ?_) | with_reducible assumption | (with_reducible intro _)
      | with_reducible apply finishAll_frame | with_reducible apply modExtent_frame
      | with_reducible apply reclaimLocation_frame | with_reducible apply retryTray_frame
      | (with_reducible exact partsIn_trans (by decide) hw) | (with_reducible refine ite_frame ?_ ?_) | split
      | (dsimp only))

theorem grantExtent_frame {A : List Part} {s0 : State} (e : Extent) (s : State) (hs : s0.agree A s)
    (hw : partsIn [.out, .pins, .sb, .polders, .cad, .keys, .link, .stack, .tray, .fau, .rings, .sca, .obj, .fns, .tracer, .gauge, .power, .free] A = true) :
    s0.agree A (grantExtent e s) := by
  unfold grantExtent
  try dsimp only
  repeat' (first
      | with_reducible assumption | (with_reducible intro _) | with_reducible apply drbgDraw_frame
      | with_reducible apply extentKeyFailed_frame | with_reducible apply finish_frame
      | with_reducible apply initLocation_frame | with_reducible apply modExtent_frame
      | with_reducible apply retryTray_frame | with_reducible apply setLoc_frame
      | (with_reducible exact partsIn_trans (by decide) hw) | (with_reducible apply foldl_frame)
      | (with_reducible refine ite_frame ?_ ?_) | split | (with_reducible refine agree_fau ?_ ?_) | (dsimp only))

theorem startCopy_frame {A : List Part} {s0 : State} (e : Extent) (r : Rekey) (s : State) (hs : s0.agree A s)
    (hw : partsIn [.tray] A = true) : s0.agree A (startCopy e r s) := by
  unfold startCopy
  try dsimp only
  repeat' (first
      | with_reducible assumption | (with_reducible intro _) | with_reducible apply initLocation_frame
      | with_reducible apply modExtent_frame | with_reducible apply setLoc_frame
      | (with_reducible exact partsIn_trans (by decide) hw))

theorem execExtentInitialisationComplete_frame {A : List Part} {s0 : State} (extent : BitVec 13) (s : State) (hs :
    s0.agree A s)
    (hw : partsIn [.out, .pins, .sb, .polders, .cad, .keys, .link, .stack, .tray, .fau, .rings, .sca, .obj, .fns, .tracer, .gauge, .power, .free] A = true) :
    FrameOut A s0 (execExtentInitialisationComplete extent s) := by
  unfold execExtentInitialisationComplete
  try dsimp only
  repeat' (first
      | with_reducible exact frameOut_fault | (with_reducible apply frameOut_next)
      | (with_reducible refine frameOut_ite ?_ ?_) | with_reducible assumption | (with_reducible intro _)
      | with_reducible apply grantExtent_frame | with_reducible apply startCopy_frame
      | with_reducible apply withDomains_frame | (with_reducible exact partsIn_trans (by decide) hw)
      | (with_reducible refine ite_frame ?_ ?_) | split | (dsimp only))

theorem copyPages_frame {A : List Part} {s0 : State} (id : BitVec 13) (old : Nat) (new : Nat) (oldKey : Key512)
    (newKey : Key512) (a0 : Nat) (a1 : State) (hs : s0.agree A a1)
    (hw : partsIn [.out, .sb, .polders, .tray, .obj, .fns, .tracer, .free] A = true) : s0.agree A
    (copyPages id old new oldKey newKey a0 a1) := by
  induction a0 generalizing a1 with
  | zero => 
    unfold copyPages
    try dsimp only
    repeat' (first
        | with_reducible assumption | with_reducible apply rekeyPage_frame
        | (with_reducible exact partsIn_trans (by decide) hw) | (with_reducible apply id_frame)
        | (with_reducible refine ite_pair_frame ?_ ?_) | (with_reducible refine ite_trip_frame ?_ ?_) | split
        | (refine frame_of_pair (by with_reducible assumption) ?_)
        | (refine frame_of_trip (by with_reducible assumption) ?_) | (dsimp only))
  | succ n ih => 
    unfold copyPages
    try dsimp only
    repeat' (first
        | with_reducible assumption | with_reducible apply rekeyPage_frame
        | (with_reducible exact partsIn_trans (by decide) hw) | with_reducible apply ih
        | (with_reducible apply id_frame) | (with_reducible refine ite_pair_frame ?_ ?_)
        | (with_reducible refine ite_trip_frame ?_ ?_) | split
        | (refine frame_of_pair (by with_reducible assumption) ?_)
        | (refine frame_of_trip (by with_reducible assumption) ?_) | (dsimp only))

theorem finishCopy_frame {A : List Part} {s0 : State} (e : Extent) (r : Rekey) (oldKey : Key512) (newKey : Key512)
    (s : State) (hs : s0.agree A s)
    (hw : partsIn [.out, .pins, .sb, .polders, .cad, .keys, .link, .stack, .tray, .fau, .rings, .sca, .obj, .fns, .tracer, .gauge, .power, .free] A = true) :
    s0.agree A (finishCopy e r oldKey newKey s) := by
  unfold finishCopy
  try dsimp only
  repeat' (first
      | with_reducible assumption | (with_reducible intro _) | with_reducible apply copyPages_frame
      | with_reducible apply finishAll_frame | with_reducible apply modExtent_frame
      | with_reducible apply reclaimLocation_frame | with_reducible apply retryTray_frame
      | with_reducible apply setLoc_frame | (with_reducible exact partsIn_trans (by decide) hw)
      | (with_reducible refine ite_pair_frame ?_ ?_) | (with_reducible refine ite_trip_frame ?_ ?_) | (dsimp only))

theorem execExtentRekeyCopyComplete_frame {A : List Part} {s0 : State} (extent : BitVec 13) (s : State) (hs :
    s0.agree A s)
    (hw : partsIn [.out, .pins, .sb, .polders, .cad, .keys, .link, .stack, .tray, .fau, .rings, .sca, .obj, .fns, .tracer, .gauge, .power, .free] A = true) :
    FrameOut A s0 (execExtentRekeyCopyComplete extent s) := by
  unfold execExtentRekeyCopyComplete
  try dsimp only
  repeat' (first
      | with_reducible exact frameOut_fault | (with_reducible apply frameOut_next)
      | (with_reducible refine frameOut_ite ?_ ?_) | with_reducible assumption | (with_reducible intro _)
      | with_reducible apply finishCopy_frame | with_reducible apply withDomains_frame
      | (with_reducible exact partsIn_trans (by decide) hw) | (with_reducible refine ite_frame ?_ ?_) | split
      | (dsimp only))

theorem beginGrant_frame {A : List Part} {s0 : State} (o : Origin) (tag : BitVec 32) (polder : PolderId)
    (holder : BitVec 16) (lease : BitVec 16) (perms : BitVec 8) (id : BitVec 13) (location : Nat) (s : State) (hs :
    s0.agree A s)
    (hw : partsIn [.out, .pins, .sb, .polders, .cad, .keys, .stack, .tray, .fau, .obj, .fns, .spdm, .tracer, .power, .free] A = true) :
    s0.agree A (beginGrant o tag polder holder lease perms id location s) := by
  unfold beginGrant
  try dsimp only
  repeat' (first
      | with_reducible assumption | (with_reducible intro _) | with_reducible apply drbgDraw_frame
      | with_reducible apply extentKeyStep_frame | with_reducible apply pend_frame
      | with_reducible apply removeRegion_frame | with_reducible apply setLoc_frame
      | (with_reducible exact partsIn_trans (by decide) hw) | (with_reducible apply id_frame) | split
      | (with_reducible refine agree_tray ?_ ?_) | (with_reducible refine agree_fau ?_ ?_)
      | (with_reducible refine agree_upd (W := [.tray, .fau]) ?_ rfl (by intro p hp; cases p <;> (try exact absurd hp (by decide)) <;> exact rfl) ?_))

theorem extentGrantCmd_frame {A : List Part} {s0 : State} (bad : Bool) (o : Origin) (tag : BitVec 32)
    (polder : PolderId) (holder : BitVec 16) (lease : BitVec 16) (perms : BitVec 8) (s : State) (hs : s0.agree A s)
    (hw : partsIn [.out, .pins, .sb, .polders, .cad, .keys, .stack, .tray, .fau, .obj, .fns, .spdm, .tracer, .power, .free] A = true) :
    s0.agree A (extentGrantCmd bad o tag polder holder lease perms s) := by
  unfold extentGrantCmd
  try dsimp only
  repeat' (first
      | with_reducible assumption | (with_reducible intro _) | with_reducible apply beginGrant_frame
      | with_reducible apply runCmd_frame | (with_reducible exact partsIn_trans (by decide) hw)
      | (with_reducible apply id_frame) | split)

theorem execExtentGrant_frame {A : List Part} {s0 : State} (o : Origin) (tag : BitVec 32) (polder : PolderId)
    (holder : BitVec 16) (lease : BitVec 16) (perms : BitVec 8) (s : State) (hs : s0.agree A s)
    (hw : partsIn [.out, .pins, .sb, .polders, .cad, .keys, .stack, .tray, .fau, .obj, .fns, .spdm, .tracer, .power, .free] A = true) :
    FrameOut A s0 (execExtentGrant o tag polder holder lease perms s) := by
  unfold execExtentGrant
  try dsimp only
  repeat' (first
      | with_reducible exact frameOut_fault | (with_reducible apply frameOut_next)
      | (with_reducible refine frameOut_ite ?_ ?_) | with_reducible assumption | (with_reducible intro _)
      | with_reducible apply extentGrantCmd_frame | (with_reducible exact partsIn_trans (by decide) hw)
      | (dsimp only))

theorem renewLease_frame {A : List Part} {s0 : State} (id : BitVec 16) (lease : BitVec 16) (s : State) (hs :
    s0.agree A s) (hw : partsIn [.tray] A = true) : s0.agree A (renewLease id lease s) := by
  unfold renewLease
  try dsimp only
  repeat' (first
      | with_reducible assumption | (with_reducible intro _) | with_reducible apply modExtent_frame
      | (with_reducible exact partsIn_trans (by decide) hw))

theorem extentRenewCmd_frame {A : List Part} {s0 : State} (bad : Bool) (o : Origin) (tag : BitVec 32)
    (extent : BitVec 16) (holder : BitVec 16) (lease : BitVec 16) (s : State) (hs : s0.agree A s)
    (hw : partsIn [.out, .sb, .polders, .keys, .tray, .obj, .fns, .spdm, .tracer, .power, .free] A = true) :
    s0.agree A (extentRenewCmd bad o tag extent holder lease s) := by
  unfold extentRenewCmd
  try dsimp only
  repeat' (first
      | with_reducible assumption | (with_reducible intro _) | with_reducible apply renewLease_frame
      | with_reducible apply reply_frame | with_reducible apply runCmd_frame
      | (with_reducible exact partsIn_trans (by decide) hw))

theorem execExtentRenew_frame {A : List Part} {s0 : State} (o : Origin) (tag : BitVec 32) (extent : BitVec 16)
    (holder : BitVec 16) (lease : BitVec 16) (s : State) (hs : s0.agree A s)
    (hw : partsIn [.out, .sb, .polders, .keys, .tray, .obj, .fns, .spdm, .tracer, .power, .free] A = true) :
    FrameOut A s0 (execExtentRenew o tag extent holder lease s) := by
  unfold execExtentRenew
  try dsimp only
  repeat' (first
      | with_reducible exact frameOut_fault | (with_reducible apply frameOut_next)
      | (with_reducible refine frameOut_ite ?_ ?_) | with_reducible assumption | (with_reducible intro _)
      | with_reducible apply extentRenewCmd_frame | (with_reducible exact partsIn_trans (by decide) hw)
      | (dsimp only))

theorem extentHandoverCmd_frame {A : List Part} {s0 : State} (bad : Bool) (o : Origin) (tag : BitVec 32)
    (extent : BitVec 16) (holder : BitVec 16) (newHolder : BitVec 16) (lease : BitVec 16) (s : State) (hs :
    s0.agree A s)
    (hw : partsIn [.out, .sb, .polders, .keys, .tray, .obj, .fns, .spdm, .tracer, .power, .free] A = true) :
    s0.agree A (extentHandoverCmd bad o tag extent holder newHolder lease s) := by
  unfold extentHandoverCmd
  try dsimp only
  repeat' (first
      | with_reducible assumption | (with_reducible intro _) | with_reducible apply modExtent_frame
      | with_reducible apply renewLease_frame | with_reducible apply reply_frame | with_reducible apply runCmd_frame
      | (with_reducible exact partsIn_trans (by decide) hw))

theorem execExtentHandover_frame {A : List Part} {s0 : State} (o : Origin) (tag : BitVec 32) (extent : BitVec 16)
    (holder : BitVec 16) (newHolder : BitVec 16) (lease : BitVec 16) (s : State) (hs : s0.agree A s)
    (hw : partsIn [.out, .sb, .polders, .keys, .tray, .obj, .fns, .spdm, .tracer, .power, .free] A = true) :
    FrameOut A s0 (execExtentHandover o tag extent holder newHolder lease s) := by
  unfold execExtentHandover
  try dsimp only
  repeat' (first
      | with_reducible exact frameOut_fault | (with_reducible apply frameOut_next)
      | (with_reducible refine frameOut_ite ?_ ?_) | with_reducible assumption | (with_reducible intro _)
      | with_reducible apply extentHandoverCmd_frame | (with_reducible exact partsIn_trans (by decide) hw)
      | (dsimp only))

theorem extentRevokeCmd_frame {A : List Part} {s0 : State} (bad : Bool) (o : Origin) (tag : BitVec 32)
    (extent : BitVec 16) (s : State) (hs : s0.agree A s)
    (hw : partsIn [.out, .sb, .polders, .keys, .tray, .obj, .fns, .spdm, .tracer, .power, .free] A = true) :
    s0.agree A (extentRevokeCmd bad o tag extent s) := by
  unfold extentRevokeCmd
  try dsimp only
  repeat' (first
      | with_reducible assumption | (with_reducible intro _) | with_reducible apply beginRevoke_frame
      | with_reducible apply finish_frame | with_reducible apply modExtent_frame | with_reducible apply pend_frame
      | with_reducible apply runCmd_frame | (with_reducible exact partsIn_trans (by decide) hw)
      | (with_reducible refine ite_frame ?_ ?_) | split)

theorem execExtentRevoke_frame {A : List Part} {s0 : State} (o : Origin) (tag : BitVec 32) (extent : BitVec 16)
    (s : State) (hs : s0.agree A s)
    (hw : partsIn [.out, .sb, .polders, .keys, .tray, .obj, .fns, .spdm, .tracer, .power, .free] A = true) :
    FrameOut A s0 (execExtentRevoke o tag extent s) := by
  unfold execExtentRevoke
  try dsimp only
  repeat' (first
      | with_reducible exact frameOut_fault | (with_reducible apply frameOut_next)
      | (with_reducible refine frameOut_ite ?_ ?_) | with_reducible assumption | (with_reducible intro _)
      | with_reducible apply extentRevokeCmd_frame | (with_reducible exact partsIn_trans (by decide) hw)
      | (dsimp only))

theorem extentRekeyCmd_frame {A : List Part} {s0 : State} (bad : Bool) (o : Origin) (tag : BitVec 32)
    (extent : BitVec 16) (s : State) (hs : s0.agree A s)
    (hw : partsIn [.out, .pins, .sb, .polders, .cad, .keys, .stack, .tray, .fau, .obj, .fns, .spdm, .tracer, .power, .free] A = true) :
    s0.agree A (extentRekeyCmd bad o tag extent s) := by
  unfold extentRekeyCmd
  try dsimp only
  repeat' (first
      | with_reducible assumption | (with_reducible intro _) | with_reducible apply drbgDraw_frame
      | with_reducible apply extentKeyStep_frame | with_reducible apply modExtent_frame
      | with_reducible apply pend_frame | with_reducible apply runCmd_frame | with_reducible apply setLoc_frame
      | (with_reducible exact partsIn_trans (by decide) hw) | split)

theorem execExtentRekey_frame {A : List Part} {s0 : State} (o : Origin) (tag : BitVec 32) (extent : BitVec 16)
    (s : State) (hs : s0.agree A s)
    (hw : partsIn [.out, .pins, .sb, .polders, .cad, .keys, .stack, .tray, .fau, .obj, .fns, .spdm, .tracer, .power, .free] A = true) :
    FrameOut A s0 (execExtentRekey o tag extent s) := by
  unfold execExtentRekey
  try dsimp only
  repeat' (first
      | with_reducible exact frameOut_fault | (with_reducible apply frameOut_next)
      | (with_reducible refine frameOut_ite ?_ ?_) | with_reducible assumption | (with_reducible intro _)
      | with_reducible apply extentRekeyCmd_frame | (with_reducible exact partsIn_trans (by decide) hw)
      | (dsimp only))

theorem extentHintCmd_frame {A : List Part} {s0 : State} (bad : Bool) (o : Origin) (tag : BitVec 32)
    (extent : BitVec 16) (hint : BitVec 8) (s : State) (hs : s0.agree A s)
    (hw : partsIn [.out, .sb, .polders, .keys, .tray, .obj, .fns, .spdm, .tracer, .power, .free] A = true) :
    s0.agree A (extentHintCmd bad o tag extent hint s) := by
  unfold extentHintCmd
  try dsimp only
  repeat' (first
      | with_reducible assumption | (with_reducible intro _) | with_reducible apply modExtent_frame
      | with_reducible apply reply_frame | with_reducible apply runCmd_frame
      | (with_reducible exact partsIn_trans (by decide) hw) | split)

theorem execExtentHint_frame {A : List Part} {s0 : State} (o : Origin) (tag : BitVec 32) (extent : BitVec 16)
    (hint : BitVec 8) (s : State) (hs : s0.agree A s)
    (hw : partsIn [.out, .sb, .polders, .keys, .tray, .obj, .fns, .spdm, .tracer, .power, .free] A = true) :
    FrameOut A s0 (execExtentHint o tag extent hint s) := by
  unfold execExtentHint
  try dsimp only
  repeat' (first
      | with_reducible exact frameOut_fault | (with_reducible apply frameOut_next)
      | (with_reducible refine frameOut_ite ?_ ?_) | with_reducible assumption | (with_reducible intro _)
      | with_reducible apply extentHintCmd_frame | (with_reducible exact partsIn_trans (by decide) hw)
      | (dsimp only))

theorem trayRebuildRateCmd_frame {A : List Part} {s0 : State} (bad : Bool) (o : Origin) (tag : BitVec 32)
    (percent : BitVec 8) (s : State) (hs : s0.agree A s)
    (hw : partsIn [.out, .sb, .polders, .keys, .tray, .obj, .fns, .spdm, .weirs, .tracer, .power, .free] A = true) :
    s0.agree A (trayRebuildRateCmd bad o tag percent s) := by
  unfold trayRebuildRateCmd
  try dsimp only
  repeat' (first
      | with_reducible assumption | (with_reducible intro _) | with_reducible apply mirrorChanged_frame
      | with_reducible apply reply_frame | with_reducible apply runCmd_frame
      | (with_reducible exact partsIn_trans (by decide) hw) | (with_reducible refine agree_tray ?_ ?_))

theorem execTrayRebuildRate_frame {A : List Part} {s0 : State} (o : Origin) (tag : BitVec 32) (percent : BitVec 8)
    (s : State) (hs : s0.agree A s)
    (hw : partsIn [.out, .sb, .polders, .keys, .tray, .obj, .fns, .spdm, .weirs, .tracer, .power, .free] A = true) :
    FrameOut A s0 (execTrayRebuildRate o tag percent s) := by
  unfold execTrayRebuildRate
  try dsimp only
  repeat' (first
      | with_reducible exact frameOut_fault | (with_reducible apply frameOut_next)
      | (with_reducible refine frameOut_ite ?_ ?_) | with_reducible assumption | (with_reducible intro _)
      | with_reducible apply trayRebuildRateCmd_frame | (with_reducible exact partsIn_trans (by decide) hw)
      | (dsimp only))

theorem extentStatusCmd_frame {A : List Part} {s0 : State} (bad : Bool) (o : Origin) (tag : BitVec 32)
    (extent : BitVec 16) (s : State) (hs : s0.agree A s)
    (hw : partsIn [.out, .sb, .polders, .keys, .obj, .fns, .spdm, .tracer, .power, .free] A = true) : s0.agree A
    (extentStatusCmd bad o tag extent s) := by
  unfold extentStatusCmd
  try dsimp only
  repeat' (first
      | with_reducible assumption | (with_reducible intro _) | with_reducible apply reply_frame
      | with_reducible apply runCmd_frame | (with_reducible exact partsIn_trans (by decide) hw))

theorem execExtentStatus_frame {A : List Part} {s0 : State} (o : Origin) (tag : BitVec 32) (extent : BitVec 16)
    (s : State) (hs : s0.agree A s)
    (hw : partsIn [.out, .sb, .polders, .keys, .obj, .fns, .spdm, .tracer, .power, .free] A = true) : FrameOut A s0
    (execExtentStatus o tag extent s) := by
  unfold execExtentStatus
  try dsimp only
  repeat' (first
      | with_reducible exact frameOut_fault | (with_reducible apply frameOut_next)
      | (with_reducible refine frameOut_ite ?_ ?_) | with_reducible assumption | (with_reducible intro _)
      | with_reducible apply extentStatusCmd_frame | (with_reducible exact partsIn_trans (by decide) hw)
      | (dsimp only))

theorem trayStatusCmd_frame {A : List Part} {s0 : State} (bad : Bool) (o : Origin) (tag : BitVec 32) (s : State)
    (hs : s0.agree A s)
    (hw : partsIn [.out, .sb, .polders, .keys, .obj, .fns, .spdm, .tracer, .power, .free] A = true) : s0.agree A
    (trayStatusCmd bad o tag s) := by
  unfold trayStatusCmd
  try dsimp only
  repeat' (first
      | with_reducible assumption | (with_reducible intro _) | with_reducible apply reply_frame
      | with_reducible apply runCmd_frame | with_reducible apply tookFree_frame
      | (with_reducible exact partsIn_trans (by decide) hw))

theorem execTrayStatus_frame {A : List Part} {s0 : State} (o : Origin) (tag : BitVec 32) (s : State) (hs :
    s0.agree A s) (hw : partsIn [.out, .sb, .polders, .keys, .obj, .fns, .spdm, .tracer, .power, .free] A = true) :
    FrameOut A s0 (execTrayStatus o tag s) := by
  unfold execTrayStatus
  try dsimp only
  repeat' (first
      | with_reducible exact frameOut_fault | (with_reducible apply frameOut_next)
      | (with_reducible refine frameOut_ite ?_ ?_) | with_reducible assumption | (with_reducible intro _)
      | with_reducible apply trayStatusCmd_frame | (with_reducible exact partsIn_trans (by decide) hw)
      | (dsimp only))

end Sys2Proof.Machine
end

