-- ==== Sys2Proof/Laws/FrameSca.lean ====
section
/-! SUPPORT. Which parts of the state the operations of Machine/Sca.lean may change (State.agree). -/

namespace Sys2Proof.Machine

theorem scaRefuse_frame {A : List Part} {s0 : State} (r : ScaReq) (op : BitVec 3) (st : Status) (s : State) (hs :
    s0.agree A s) (hw : partsIn [.out, .sb, .polders, .obj, .fns, .tracer, .free] A = true) : s0.agree A
    (scaRefuse r op st s) := by
  unfold scaRefuse
  try dsimp only
  repeat' (first
      | with_reducible assumption | with_reducible apply scaAnswer_frame | with_reducible apply writeFault_frame
      | (with_reducible exact partsIn_trans (by decide) hw) | split)

theorem scaReadEffect_frame {A : List Part} {s0 : State} (r : ScaReq) (s : State) (hs : s0.agree A s)
    (hw : partsIn [.out] A = true) : s0.agree A (scaReadEffect r s) := by
  unfold scaReadEffect
  try dsimp only
  repeat' (first
      | with_reducible assumption | with_reducible apply scaAnswer_frame
      | (with_reducible exact partsIn_trans (by decide) hw))

theorem incEffect_frame {A : List Part} {s0 : State} (r : ScaReq) (s : State) (hs : s0.agree A s)
    (hw : partsIn [.out, .sb, .polders, .sca, .obj, .fns, .tracer, .free] A = true) : s0.agree A
    (incEffect r s) := by
  unfold incEffect
  try dsimp only
  repeat' (first
      | with_reducible assumption | with_reducible apply changeSync_frame | with_reducible apply scaAnswer_frame
      | with_reducible apply syncFault_frame | (with_reducible exact partsIn_trans (by decide) hw)
      | (with_reducible refine ite_frame ?_ ?_) | split)

theorem decEffect_frame {A : List Part} {s0 : State} (r : ScaReq) (s : State) (hs : s0.agree A s)
    (hw : partsIn [.out, .sb, .polders, .sca, .obj, .fns, .tracer, .free] A = true) : s0.agree A
    (decEffect r s) := by
  unfold decEffect
  try dsimp only
  repeat' (first
      | with_reducible assumption | with_reducible apply changeSync_frame | with_reducible apply scaAnswer_frame
      | with_reducible apply syncFault_frame | (with_reducible exact partsIn_trans (by decide) hw)
      | (with_reducible refine ite_frame ?_ ?_) | split)

theorem setEffect_frame {A : List Part} {s0 : State} (r : ScaReq) (s : State) (hs : s0.agree A s)
    (hw : partsIn [.out, .sca] A = true) : s0.agree A (setEffect r s) := by
  unfold setEffect
  try dsimp only
  repeat' (first
      | with_reducible assumption | with_reducible apply changeSync_frame | with_reducible apply scaAnswer_frame
      | (with_reducible exact partsIn_trans (by decide) hw))

theorem waitEffect_frame {A : List Part} {s0 : State} (subtracts : Bool) (r : ScaReq) (s : State) (hs :
    s0.agree A s) (hw : partsIn [.out, .sca, .tracer] A = true) : s0.agree A (waitEffect subtracts r s) := by
  unfold waitEffect
  try dsimp only
  repeat' (first
      | with_reducible assumption | (with_reducible intro _) | with_reducible apply count_frame
      | with_reducible apply scaAnswer_frame | with_reducible apply setSync_frame
      | (with_reducible exact partsIn_trans (by decide) hw) | (with_reducible refine ite_frame ?_ ?_) | split
      | (with_reducible refine agree_sca ?_ ?_))

theorem scaEffect_frame {A : List Part} {s0 : State} (op : BitVec 3) (r : ScaReq) (s : State) (hs : s0.agree A s)
    (hw : partsIn [.out, .sb, .polders, .sca, .obj, .fns, .tracer, .free] A = true) : s0.agree A
    (scaEffect op r s) := by
  unfold scaEffect
  try dsimp only
  repeat' (first
      | with_reducible assumption | with_reducible apply decEffect_frame | with_reducible apply incEffect_frame
      | with_reducible apply scaReadEffect_frame | with_reducible apply setEffect_frame
      | with_reducible apply waitEffect_frame | (with_reducible exact partsIn_trans (by decide) hw) | split)

theorem scaRequest_frame {A : List Part} {s0 : State} (op : BitVec 3) (r : ScaReq) (s : State) (hs : s0.agree A s)
    (hw : partsIn [.out, .sb, .polders, .sca, .obj, .fns, .tracer, .free] A = true) : s0.agree A
    (scaRequest op r s) := by
  unfold scaRequest
  try dsimp only
  repeat' (first
      | with_reducible assumption | with_reducible apply scaAnswer_frame | with_reducible apply scaEffect_frame
      | with_reducible apply scaRefuse_frame | (with_reducible exact partsIn_trans (by decide) hw)
      | (with_reducible refine ite_frame ?_ ?_) | split | (with_reducible refine agree_sca ?_ ?_))

theorem scaArrive_frame {A : List Part} {s0 : State} (op : BitVec 3) (r : ScaReq) (s : State) (hs : s0.agree A s)
    (hw : partsIn [.out, .pins, .sb, .polders, .sca, .obj, .fns, .tracer, .power, .free] A = true) : s0.agree A
    (scaArrive op r s) := by
  unfold scaArrive
  try dsimp only
  repeat' (first
      | with_reducible assumption | (with_reducible intro _) | with_reducible apply enter_frame
      | with_reducible apply scaRequest_frame | (with_reducible exact partsIn_trans (by decide) hw)
      | (with_reducible refine ite_frame ?_ ?_) | split)

theorem execScaRead_frame {A : List Part} {s0 : State} (r : ScaReq) (s : State) (hs : s0.agree A s)
    (hw : partsIn [.out, .pins, .sb, .polders, .sca, .obj, .fns, .tracer, .power, .free] A = true) : FrameOut A s0
    (execScaRead r s) := by
  unfold execScaRead
  try dsimp only
  repeat' (first
      | with_reducible exact frameOut_fault | (with_reducible apply frameOut_next)
      | (with_reducible refine frameOut_ite ?_ ?_) | with_reducible assumption | (with_reducible intro _)
      | with_reducible apply scaArrive_frame | (with_reducible exact partsIn_trans (by decide) hw) | (dsimp only))

theorem execInc_frame {A : List Part} {s0 : State} (r : ScaReq) (s : State) (hs : s0.agree A s)
    (hw : partsIn [.out, .pins, .sb, .polders, .sca, .obj, .fns, .tracer, .power, .free] A = true) : FrameOut A s0
    (execInc r s) := by
  unfold execInc
  try dsimp only
  repeat' (first
      | with_reducible exact frameOut_fault | (with_reducible apply frameOut_next)
      | (with_reducible refine frameOut_ite ?_ ?_) | with_reducible assumption | (with_reducible intro _)
      | with_reducible apply scaArrive_frame | (with_reducible exact partsIn_trans (by decide) hw) | (dsimp only))

theorem execDec_frame {A : List Part} {s0 : State} (r : ScaReq) (s : State) (hs : s0.agree A s)
    (hw : partsIn [.out, .pins, .sb, .polders, .sca, .obj, .fns, .tracer, .power, .free] A = true) : FrameOut A s0
    (execDec r s) := by
  unfold execDec
  try dsimp only
  repeat' (first
      | with_reducible exact frameOut_fault | (with_reducible apply frameOut_next)
      | (with_reducible refine frameOut_ite ?_ ?_) | with_reducible assumption | (with_reducible intro _)
      | with_reducible apply scaArrive_frame | (with_reducible exact partsIn_trans (by decide) hw) | (dsimp only))

theorem execWaitGe_frame {A : List Part} {s0 : State} (r : ScaReq) (s : State) (hs : s0.agree A s)
    (hw : partsIn [.out, .pins, .sb, .polders, .sca, .obj, .fns, .tracer, .power, .free] A = true) : FrameOut A s0
    (execWaitGe r s) := by
  unfold execWaitGe
  try dsimp only
  repeat' (first
      | with_reducible exact frameOut_fault | (with_reducible apply frameOut_next)
      | (with_reducible refine frameOut_ite ?_ ?_) | with_reducible assumption | (with_reducible intro _)
      | with_reducible apply scaArrive_frame | (with_reducible exact partsIn_trans (by decide) hw) | (dsimp only))

theorem execWaitDec_frame {A : List Part} {s0 : State} (r : ScaReq) (s : State) (hs : s0.agree A s)
    (hw : partsIn [.out, .pins, .sb, .polders, .sca, .obj, .fns, .tracer, .power, .free] A = true) : FrameOut A s0
    (execWaitDec r s) := by
  unfold execWaitDec
  try dsimp only
  repeat' (first
      | with_reducible exact frameOut_fault | (with_reducible apply frameOut_next)
      | (with_reducible refine frameOut_ite ?_ ?_) | with_reducible assumption | (with_reducible intro _)
      | with_reducible apply scaArrive_frame | (with_reducible exact partsIn_trans (by decide) hw) | (dsimp only))

theorem execSet_frame {A : List Part} {s0 : State} (r : ScaReq) (s : State) (hs : s0.agree A s)
    (hw : partsIn [.out, .pins, .sb, .polders, .sca, .obj, .fns, .tracer, .power, .free] A = true) : FrameOut A s0
    (execSet r s) := by
  unfold execSet
  try dsimp only
  repeat' (first
      | with_reducible exact frameOut_fault | (with_reducible apply frameOut_next)
      | (with_reducible refine frameOut_ite ?_ ?_) | with_reducible assumption | (with_reducible intro _)
      | with_reducible apply scaArrive_frame | (with_reducible exact partsIn_trans (by decide) hw) | (dsimp only))

theorem execScaInvalidOp_frame {A : List Part} {s0 : State} (r : ScaReq) (op : BitVec 3) (s : State) (hs :
    s0.agree A s) (hw : partsIn [.out, .pins, .sb, .polders, .sca, .obj, .fns, .tracer, .power, .free] A = true) :
    FrameOut A s0 (execScaInvalidOp r op s) := by
  unfold execScaInvalidOp
  try dsimp only
  repeat' (first
      | with_reducible exact frameOut_fault | (with_reducible apply frameOut_next)
      | (with_reducible refine frameOut_ite ?_ ?_) | with_reducible assumption | (with_reducible intro _)
      | with_reducible apply scaArrive_frame | (with_reducible exact partsIn_trans (by decide) hw) | split
      | (dsimp only))

theorem execWaitIdleThreshold_frame {A : List Part} {s0 : State} (core : BitVec 9) (s : State) (hs : s0.agree A s)
    (hw : partsIn [.sca, .tracer] A = true) : FrameOut A s0 (execWaitIdleThreshold core s) := by
  unfold execWaitIdleThreshold
  try dsimp only
  repeat' (first
      | with_reducible exact frameOut_fault | (with_reducible apply frameOut_next)
      | (with_reducible refine frameOut_ite ?_ ?_) | with_reducible assumption | (with_reducible intro _)
      | with_reducible apply count_frame | (with_reducible exact partsIn_trans (by decide) hw)
      | (with_reducible refine ite_frame ?_ ?_) | split | (with_reducible refine agree_sca ?_ ?_) | (dsimp only))

end Sys2Proof.Machine
end

