-- ==== Sys2Proof/Laws/FrameFreeze.lean ====
section
/-! SUPPORT. Which parts of the state the operations of Machine/Freeze.lean may change (State.agree). -/

namespace Sys2Proof.Machine

theorem endHold_frame {A : List Part} {s0 : State} (c : CtxId) (st : Status) (s : State) (hs : s0.agree A s)
    (hw : partsIn [.out, .datum, .obj, .fns, .tracer, .free] A = true) : s0.agree A (endHold c st s) := by
  unfold endHold
  try dsimp only
  repeat' (first
      | with_reducible assumption | (with_reducible intro _) | with_reducible apply dropMarks_frame
      | with_reducible apply endDescriptor_frame | with_reducible apply modContext_frame
      | (with_reducible exact partsIn_trans (by decide) hw) | split)

theorem completeStep_frame {A : List Part} {s0 : State} (c : CtxId) (s : State) (hs : s0.agree A s)
    (hw : partsIn [.out, .datum, .obj, .fns, .tracer, .free] A = true) : s0.agree A (completeStep c s) := by
  unfold completeStep
  try dsimp only
  repeat' (first
      | with_reducible assumption | (with_reducible intro _) | with_reducible apply emitTrace_frame
      | with_reducible apply endHold_frame | with_reducible apply modContext_frame
      | with_reducible apply profResetQueue_frame | (with_reducible exact partsIn_trans (by decide) hw)
      | (with_reducible refine ite_frame ?_ ?_) | split)

theorem beginDueSteps_frame {A : List Part} {s0 : State} (p : PolderId) (s : State) (hs : s0.agree A s)
    (hw : partsIn [.out, .datum, .obj, .fns, .tracer, .free] A = true) : s0.agree A (beginDueSteps p s) := by
  unfold beginDueSteps
  try dsimp only
  repeat' (first
      | with_reducible assumption | (with_reducible intro _) | with_reducible apply completeStep_frame
      | (with_reducible exact partsIn_trans (by decide) hw) | (with_reducible apply foldl_frame) | (dsimp only))

theorem resumeSca_frame {A : List Part} {s0 : State} (p : PolderId) (s : State) (hs : s0.agree A s)
    (hw : partsIn [.out, .sb, .polders, .sca, .obj, .fns, .tracer, .free] A = true) : s0.agree A
    (resumeSca p s) := by
  unfold resumeSca
  try dsimp only
  repeat' (first
      | with_reducible assumption | (with_reducible intro _) | with_reducible apply scaRequest_frame
      | (with_reducible exact partsIn_trans (by decide) hw) | (with_reducible apply foldl_frame) | split
      | (with_reducible refine agree_sca ?_ ?_) | (dsimp only))

theorem thaw_frame {A : List Part} {s0 : State} (p : PolderId) (s : State) (hs : s0.agree A s)
    (hw : partsIn [.out, .pins, .sb, .datum, .polders, .cad, .keys, .stack, .sca, .obj, .fns, .tracer, .gauge, .power, .free] A = true) :
    s0.agree A (thaw p s) := by
  unfold thaw
  try dsimp only
  repeat' (first
      | with_reducible assumption | (with_reducible intro _) | with_reducible apply beginDueSteps_frame
      | with_reducible apply modPolder_frame | with_reducible apply resumeHeld_frame
      | with_reducible apply resumeSca_frame | (with_reducible exact partsIn_trans (by decide) hw))

theorem thawChart_frame {A : List Part} {s0 : State} (p : PolderId) (s : State) (hs : s0.agree A s)
    (hw : partsIn [.out, .pins, .sb, .datum, .polders, .cad, .keys, .stack, .sca, .obj, .fns, .tracer, .gauge, .power, .free] A = true) :
    s0.agree A (thawChart p s) := by
  unfold thawChart
  try dsimp only
  repeat' (first
      | with_reducible assumption | with_reducible apply thaw_frame
      | (with_reducible exact partsIn_trans (by decide) hw) | (with_reducible refine ite_frame ?_ ?_) | split)

theorem endExport_frame {A : List Part} {s0 : State} (p : PolderId) (st : Status) (payload : Bytes) (s : State)
    (hs : s0.agree A s) (hw : partsIn [.out, .obj, .fns, .charts, .tracer, .pool] A = true) : s0.agree A
    (endExport p st payload s) := by
  unfold endExport
  try dsimp only
  repeat' (first
      | with_reducible assumption | (with_reducible intro _) | with_reducible apply finish_frame
      | with_reducible apply poolGive_frame | (with_reducible exact partsIn_trans (by decide) hw) | split
      | (with_reducible refine agree_charts ?_ ?_))

theorem endImport_frame {A : List Part} {s0 : State} (p : PolderId) (st : Status) (s : State) (hs : s0.agree A s)
    (hw : partsIn [.out, .obj, .fns, .charts, .tracer, .pool] A = true) : s0.agree A (endImport p st s) := by
  unfold endImport
  try dsimp only
  repeat' (first
      | with_reducible assumption | (with_reducible intro _) | with_reducible apply finish_frame
      | with_reducible apply poolGive_frame | (with_reducible exact partsIn_trans (by decide) hw) | split
      | (with_reducible refine agree_charts ?_ ?_))

theorem endChartWaits_frame {A : List Part} {s0 : State} (p : PolderId) (st : Status) (s : State) (hs :
    s0.agree A s)
    (hw : partsIn [.out, .pins, .sb, .datum, .polders, .cad, .keys, .stack, .sca, .obj, .fns, .charts, .tracer, .gauge, .power, .pool, .free] A = true) :
    s0.agree A (endChartWaits p st s) := by
  unfold endChartWaits
  try dsimp only
  repeat' (first
      | with_reducible assumption | (with_reducible intro _) | with_reducible apply endExport_frame
      | with_reducible apply endImport_frame | with_reducible apply thawChart_frame
      | (with_reducible exact partsIn_trans (by decide) hw) | (with_reducible refine ite_frame ?_ ?_) | split)

end Sys2Proof.Machine
end

