-- ==== Sys2Proof/Laws/FrameSamples.lean ====
section
/-! SUPPORT. Which parts of the state the operations of Machine/Samples.lean may change (State.agree). -/

namespace Sys2Proof.Machine

theorem modTracer_frame {A : List Part} {s0 : State} (f : Tracer → Tracer) (s : State) (hs : s0.agree A s)
    (hw : partsIn [.tracer] A = true) : s0.agree A (modTracer f s) := by
  unfold modTracer
  try dsimp only
  repeat' (first
      | with_reducible assumption | (with_reducible exact partsIn_trans (by decide) hw)
      | (with_reducible refine agree_tracer ?_ ?_))

theorem settleSamples_frame {A : List Part} {s0 : State} (s : State) (hs : s0.agree A s)
    (hw : partsIn [.tracer] A = true) : s0.agree A (settleSamples s) := by
  unfold settleSamples
  try dsimp only
  repeat' (first
      | with_reducible assumption | (with_reducible intro _) | with_reducible apply modTracer_frame
      | (with_reducible exact partsIn_trans (by decide) hw) | (with_reducible apply foldl_frame) | (dsimp only))

theorem setPiece_frame {A : List Part} {s0 : State} (n : Nat) (i : Nat) (b : Bytes) (tag : BitVec 128) (s : State)
    (hs : s0.agree A s) (hw : partsIn [.tracer] A = true) : s0.agree A (setPiece n i b tag s) := by
  unfold setPiece
  try dsimp only
  repeat' (first
      | with_reducible assumption | (with_reducible intro _) | with_reducible apply modTracer_frame
      | with_reducible apply settleSamples_frame | (with_reducible exact partsIn_trans (by decide) hw))

theorem blankPiece_frame {A : List Part} {s0 : State} (n : Nat) (i : Nat) (s : State) (hs : s0.agree A s)
    (hw : partsIn [.tracer] A = true) : s0.agree A (blankPiece n i s) := by
  unfold blankPiece
  try dsimp only
  repeat' (first
      | with_reducible assumption | with_reducible apply setPiece_frame
      | (with_reducible exact partsIn_trans (by decide) hw))

theorem pumpPiece_frame {A : List Part} {s0 : State} (n : Nat) (i : Nat) (s : State) (hs : s0.agree A s)
    (hw : partsIn [.out, .pins, .sb, .polders, .cad, .keys, .stack, .obj, .fns, .tracer, .power, .free] A = true) :
    s0.agree A (pumpPiece n i s) := by
  unfold pumpPiece
  try dsimp only
  repeat' (first
      | with_reducible assumption | with_reducible apply blankPiece_frame | with_reducible apply needJob_frame
      | with_reducible apply needKey_frame | (with_reducible exact partsIn_trans (by decide) hw)
      | (with_reducible refine ite_pair_frame ?_ ?_) | (with_reducible refine ite_trip_frame ?_ ?_) | split
      | (refine frame_of_pair (by with_reducible assumption) ?_)
      | (refine frame_of_trip (by with_reducible assumption) ?_) | (dsimp only))

theorem pumpSamples_frame {A : List Part} {s0 : State} (p : PolderId) (s : State) (hs : s0.agree A s)
    (hw : partsIn [.out, .pins, .sb, .polders, .cad, .keys, .stack, .obj, .fns, .tracer, .power, .free] A = true) :
    s0.agree A (pumpSamples p s) := by
  unfold pumpSamples
  try dsimp only
  repeat' (first
      | with_reducible assumption | (with_reducible intro _) | with_reducible apply pumpPiece_frame
      | (with_reducible exact partsIn_trans (by decide) hw) | (with_reducible apply foldl_frame) | (dsimp only))

theorem sealPiece_frame {A : List Part} {s0 : State} (n : Nat) (i : Nat) (s : State) (hs : s0.agree A s)
    (hw : partsIn [.out, .pins, .sb, .polders, .cad, .keys, .stack, .obj, .fns, .tracer, .power, .free] A = true) :
    s0.agree A (sealPiece n i s) := by
  unfold sealPiece
  try dsimp only
  repeat' (first
      | with_reducible assumption | with_reducible apply blankPiece_frame | with_reducible apply needKey_frame
      | with_reducible apply setPiece_frame | (with_reducible exact partsIn_trans (by decide) hw)
      | (with_reducible refine ite_pair_frame ?_ ?_) | (with_reducible refine ite_trip_frame ?_ ?_) | split
      | (refine frame_of_pair (by with_reducible assumption) ?_)
      | (refine frame_of_trip (by with_reducible assumption) ?_) | (dsimp only))

theorem takeSample_frame {A : List Part} {s0 : State} (unit : BitVec 16) (seq : BitVec 64) (s : State) (hs :
    s0.agree A s)
    (hw : partsIn [.out, .pins, .sb, .polders, .cad, .keys, .stack, .obj, .fns, .tracer, .power, .free] A = true) :
    s0.agree A (takeSample unit seq s) := by
  unfold takeSample
  try dsimp only
  repeat' (first
      | with_reducible assumption | (with_reducible intro _) | with_reducible apply modTracer_frame
      | with_reducible apply pumpPiece_frame | with_reducible apply settleSamples_frame
      | (with_reducible exact partsIn_trans (by decide) hw) | (with_reducible apply foldl_frame)
      | (with_reducible refine ite_frame ?_ ?_) | split | (dsimp only))

theorem dropPieces_frame {A : List Part} {s0 : State} (p : PolderId) (s : State) (hs : s0.agree A s)
    (hw : partsIn [.tracer] A = true) : s0.agree A (dropPieces p s) := by
  unfold dropPieces
  try dsimp only
  repeat' (first
      | with_reducible assumption | (with_reducible intro _) | with_reducible apply blankPiece_frame
      | (with_reducible exact partsIn_trans (by decide) hw) | (with_reducible apply foldl_frame) | (dsimp only))

end Sys2Proof.Machine
end

