-- ==== Sys2Proof/Laws/FrameKeyJobs.lean ====
section
/-! SUPPORT. Which parts of the state the operations of Machine/KeyJobs.lean may change (State.agree). -/

namespace Sys2Proof.Machine

theorem modKeys_frame {A : List Part} {s0 : State} (f : KeyUnits → KeyUnits) (s : State) (hs : s0.agree A s)
    (hw : partsIn [.keys] A = true) : s0.agree A (modKeys f s) := by
  unfold modKeys
  try dsimp only
  repeat' (first
      | with_reducible assumption | (with_reducible exact partsIn_trans (by decide) hw)
      | (with_reducible refine agree_keys ?_ ?_))

theorem pumpAllTx_frame {A : List Part} {s0 : State} (p : PolderId) (s : State) (hs : s0.agree A s)
    (hw : partsIn [.out, .pins, .sb, .polders, .cad, .keys, .link, .stack, .fau, .rings, .obj, .fns, .tracer, .gauge, .power, .free] A = true) :
    s0.agree A (pumpAllTx p s) := by
  unfold pumpAllTx
  try dsimp only
  repeat' (first
      | with_reducible assumption | (with_reducible intro _) | with_reducible apply pumpTx_frame
      | (with_reducible exact partsIn_trans (by decide) hw) | (with_reducible apply foldl_frame)
      | (with_reducible apply foldl_pair_frame) | (with_reducible apply foldl_trip_frame)
      | (with_reducible refine ite_pair_frame ?_ ?_) | (with_reducible refine ite_trip_frame ?_ ?_) | (dsimp only))

theorem retryAllRx_frame {A : List Part} {s0 : State} (p : PolderId) (s : State) (hs : s0.agree A s)
    (hw : partsIn [.out, .pins, .sb, .polders, .cad, .keys, .link, .stack, .fau, .rings, .obj, .fns, .tracer, .gauge, .power, .free] A = true) :
    s0.agree A (retryAllRx p s) := by
  unfold retryAllRx
  try dsimp only
  repeat' (first
      | with_reducible assumption | (with_reducible intro _) | with_reducible apply retryRx_frame
      | (with_reducible exact partsIn_trans (by decide) hw) | (with_reducible apply foldl_frame) | (dsimp only))

theorem pumpFills_frame {A : List Part} {s0 : State} (p : PolderId) (s : State) (hs : s0.agree A s)
    (hw : partsIn [.out, .pins, .sb, .polders, .cad, .keys, .stack, .fau, .obj, .fns, .tracer, .power, .free] A = true) :
    s0.agree A (pumpFills p s) := by
  unfold pumpFills
  try dsimp only
  repeat' (first
      | with_reducible assumption | (with_reducible intro _) | with_reducible apply needKey_frame
      | with_reducible apply undoFill_frame | (with_reducible exact partsIn_trans (by decide) hw)
      | (with_reducible apply foldl_frame) | (with_reducible apply foldl_pair_frame)
      | (with_reducible apply foldl_trip_frame) | (with_reducible refine ite_pair_frame ?_ ?_)
      | (with_reducible refine ite_trip_frame ?_ ?_) | split
      | (refine frame_of_pair (by with_reducible assumption) ?_)
      | (refine frame_of_trip (by with_reducible assumption) ?_) | (dsimp only))

theorem retryUsers_frame {A : List Part} {s0 : State} (p : PolderId) (s : State) (hs : s0.agree A s)
    (hw : partsIn [.out, .pins, .sb, .datum, .polders, .cad, .keys, .link, .stack, .tray, .fau, .rings, .coll, .sca, .obj, .fns, .tracer, .gauge, .power, .free] A = true) :
    s0.agree A (retryUsers p s) := by
  unfold retryUsers
  try dsimp only
  repeat' (first
      | with_reducible assumption | (with_reducible intro _) | with_reducible apply extentKeyStep_frame
      | with_reducible apply fauSettle_frame | with_reducible apply pumpAllTx_frame
      | with_reducible apply pumpColl_frame | with_reducible apply pumpFills_frame
      | with_reducible apply pumpLines_frame | with_reducible apply pumpRings_frame
      | with_reducible apply pumpSamples_frame | with_reducible apply retryAllRx_frame
      | with_reducible apply retryKeyWait_frame | with_reducible apply retryMemWait_frame
      | (with_reducible exact partsIn_trans (by decide) hw) | (with_reducible apply foldl_frame) | (dsimp only))

theorem endWaitingTx_frame {A : List Part} {s0 : State} (k : TxPacket) (st : Status) (s : State) (hs : s0.agree A s)
    (hw : partsIn [.out, .pins, .sb, .datum, .polders, .cad, .keys, .link, .stack, .fau, .rings, .coll, .bars, .obj, .fns, .tracer, .gauge, .power, .free] A = true) :
    s0.agree A (endWaitingTx k st s) := by
  unfold endWaitingTx
  try dsimp only
  repeat' (first
      | with_reducible assumption | (with_reducible intro _) | with_reducible apply barrierFailed_frame
      | with_reducible apply collectiveFailed_frame | with_reducible apply denyTxn_frame
      | with_reducible apply dropRingReq_frame | with_reducible apply endLine_frame
      | with_reducible apply finishOp_frame | with_reducible apply requestRefused_frame
      | (with_reducible exact partsIn_trans (by decide) hw) | (with_reducible apply id_frame)
      | (with_reducible refine ite_frame ?_ ?_) | split)

theorem endUsers_frame {A : List Part} {s0 : State} (p : PolderId) (st : Status) (slot : Byte) (s : State) (hs :
    s0.agree A s)
    (hw : partsIn [.out, .pins, .sb, .datum, .polders, .cad, .keys, .link, .stack, .tray, .fau, .rings, .coll, .bars, .sca, .obj, .fns, .charts, .tracer, .gauge, .power, .pool, .free] A = true) :
    s0.agree A (endUsers p st slot s).1 := by
  unfold endUsers
  try dsimp only
  repeat' (first
      | with_reducible assumption | (with_reducible intro _) | with_reducible apply endChartWaits_frame
      | with_reducible apply endWaitingTx_frame | with_reducible apply releaseHeld_frame
      | with_reducible apply retryUsers_frame | with_reducible apply stackAnswer_frame
      | with_reducible apply undoFill_frame | (with_reducible exact partsIn_trans (by decide) hw)
      | (with_reducible apply foldl_frame) | (with_reducible apply foldl_pair_frame)
      | (with_reducible apply foldl_trip_frame) | (with_reducible refine ite_pair_frame ?_ ?_)
      | (with_reducible refine ite_trip_frame ?_ ?_) | (with_reducible refine agree_link ?_ ?_)
      | (with_reducible refine agree_stack ?_ ?_)
      | (with_reducible refine agree_upd (W := [.link, .stack]) ?_ rfl (by intro p hp; cases p <;> (try exact absurd hp (by decide)) <;> exact rfl) ?_)
      | (dsimp only))

theorem failUsers_frame {A : List Part} {s0 : State} (p : PolderId) (st : Status) (slot : Byte) (s : State) (hs :
    s0.agree A s)
    (hw : partsIn [.out, .pins, .sb, .datum, .polders, .cad, .keys, .link, .stack, .tray, .fau, .rings, .coll, .bars, .sca, .obj, .fns, .charts, .tracer, .gauge, .power, .pool, .free] A = true) :
    s0.agree A (failUsers p st slot s) := by
  unfold failUsers
  try dsimp only
  repeat' (first
      | with_reducible assumption | (with_reducible intro _) | with_reducible apply endUsers_frame
      | with_reducible apply modPolder_frame | with_reducible apply writeFault_frame
      | (with_reducible exact partsIn_trans (by decide) hw) | (with_reducible refine ite_frame ?_ ?_)
      | (with_reducible refine ite_pair_frame ?_ ?_) | (with_reducible refine ite_trip_frame ?_ ?_) | split
      | (dsimp only))

theorem answerPins_frame {A : List Part} {s0 : State} (p : PolderId) (st : Status) (s : State) (hs : s0.agree A s)
    (hw : partsIn [.out, .polders, .cad, .obj, .fns, .tracer] A = true) : s0.agree A (answerPins p st s) := by
  unfold answerPins
  try dsimp only
  repeat' (first
      | with_reducible assumption | (with_reducible intro _) | with_reducible apply finishAll_frame
      | with_reducible apply modPolder_frame | (with_reducible exact partsIn_trans (by decide) hw)
      | (with_reducible refine ite_frame ?_ ?_) | split | (with_reducible refine agree_cad ?_ ?_))

theorem endSlotless_frame {A : List Part} {s0 : State} (p : PolderId) (s : State) (hs : s0.agree A s)
    (hw : partsIn [.out, .pins, .sb, .datum, .polders, .cad, .keys, .link, .stack, .tray, .fau, .rings, .coll, .bars, .sca, .obj, .fns, .charts, .tracer, .gauge, .power, .pool, .free] A = true) :
    s0.agree A (endSlotless p s) := by
  unfold endSlotless
  try dsimp only
  repeat' (first
      | with_reducible assumption | (with_reducible intro _) | with_reducible apply answerPins_frame
      | with_reducible apply failUsers_frame | (with_reducible exact partsIn_trans (by decide) hw)
      | (with_reducible refine agree_cad ?_ ?_))

theorem endHopeless_frame {A : List Part} {s0 : State} (s : State) (hs : s0.agree A s)
    (hw : partsIn [.out, .pins, .sb, .datum, .polders, .cad, .keys, .link, .stack, .tray, .fau, .rings, .coll, .bars, .sca, .obj, .fns, .charts, .tracer, .gauge, .power, .pool, .free] A = true) :
    s0.agree A (endHopeless s) := by
  unfold endHopeless
  try dsimp only
  repeat' (first
      | with_reducible assumption | (with_reducible intro _) | with_reducible apply endSlotless_frame
      | (with_reducible exact partsIn_trans (by decide) hw) | (with_reducible apply foldl_frame)
      | (with_reducible refine ite_frame ?_ ?_) | split | (dsimp only))

theorem endBadUsers_frame {A : List Part} {s0 : State} (s : State) (hs : s0.agree A s)
    (hw : partsIn [.out, .pins, .sb, .datum, .polders, .cad, .keys, .link, .stack, .tray, .fau, .rings, .coll, .bars, .sca, .obj, .fns, .charts, .tracer, .gauge, .power, .pool, .free] A = true) :
    s0.agree A (endBadUsers s) := by
  unfold endBadUsers
  try dsimp only
  repeat' (first
      | with_reducible assumption | (with_reducible intro _) | with_reducible apply endUsers_frame
      | (with_reducible exact partsIn_trans (by decide) hw) | (with_reducible apply foldl_frame)
      | (with_reducible apply foldl_pair_frame) | (with_reducible apply foldl_trip_frame)
      | (with_reducible refine ite_frame ?_ ?_) | (with_reducible refine ite_pair_frame ?_ ?_)
      | (with_reducible refine ite_trip_frame ?_ ?_) | split | (dsimp only))

theorem sweepTx_frame {A : List Part} {s0 : State} (s : State) (hs : s0.agree A s)
    (hw : partsIn [.out, .pins, .sb, .datum, .polders, .cad, .keys, .link, .stack, .fau, .rings, .coll, .bars, .obj, .fns, .tracer, .gauge, .power, .free] A = true) :
    s0.agree A (sweepTx s) := by
  unfold sweepTx
  try dsimp only
  repeat' (first
      | with_reducible assumption | (with_reducible intro _) | with_reducible apply endWaitingTx_frame
      | with_reducible apply streamExhausted_frame | (with_reducible exact partsIn_trans (by decide) hw)
      | (with_reducible apply foldl_frame) | split | (with_reducible refine agree_link ?_ ?_) | (dsimp only))

theorem resumeStack_frame {A : List Part} {s0 : State} (s : State) (hs : s0.agree A s)
    (hw : partsIn [.out, .pins, .sb, .polders, .cad, .keys, .stack, .fau, .obj, .fns, .tracer, .gauge, .power, .free] A = true) :
    s0.agree A (resumeStack s) := by
  unfold resumeStack
  try dsimp only
  repeat' (first
      | with_reducible assumption | (with_reducible intro _) | with_reducible apply needKey_frame
      | with_reducible apply pumpFills_frame | with_reducible apply pumpPorts_frame
      | with_reducible apply retryKeyWait_frame | (with_reducible exact partsIn_trans (by decide) hw)
      | (with_reducible apply foldl_frame) | (with_reducible apply foldl_pair_frame)
      | (with_reducible apply foldl_trip_frame) | (with_reducible refine ite_pair_frame ?_ ?_)
      | (with_reducible refine ite_trip_frame ?_ ?_) | (dsimp only))

theorem resumeLink_frame {A : List Part} {s0 : State} (s : State) (hs : s0.agree A s)
    (hw : partsIn [.out, .pins, .sb, .datum, .polders, .cad, .keys, .link, .stack, .fau, .rings, .coll, .bars, .obj, .fns, .tracer, .gauge, .power, .free] A = true) :
    s0.agree A (resumeLink s) := by
  unfold resumeLink
  try dsimp only
  repeat' (first
      | with_reducible assumption | (with_reducible intro _) | with_reducible apply pumpRxPorts_frame
      | with_reducible apply pumpTx_frame | with_reducible apply retryAllRx_frame
      | with_reducible apply sweepTx_frame | (with_reducible exact partsIn_trans (by decide) hw)
      | (with_reducible apply foldl_frame) | (with_reducible apply foldl_pair_frame)
      | (with_reducible apply foldl_trip_frame) | (with_reducible refine ite_pair_frame ?_ ?_)
      | (with_reducible refine ite_trip_frame ?_ ?_) | (dsimp only))

theorem resumeOutside_frame {A : List Part} {s0 : State} (s : State) (hs : s0.agree A s)
    (hw : partsIn [.out, .pins, .sb, .datum, .polders, .cad, .keys, .link, .stack, .tray, .fau, .rings, .coll, .sca, .obj, .fns, .tracer, .gauge, .power, .free] A = true) :
    s0.agree A (resumeOutside s) := by
  unfold resumeOutside
  try dsimp only
  repeat' (first
      | with_reducible assumption | (with_reducible intro _) | with_reducible apply fauSettle_frame
      | with_reducible apply pumpColl_frame | with_reducible apply pumpLines_frame
      | with_reducible apply pumpRings_frame | with_reducible apply retryAgain_frame
      | with_reducible apply retryAnswerRoom_frame | with_reducible apply retryAnswers_frame
      | with_reducible apply retryBacks_frame | with_reducible apply retryMemWait_frame
      | with_reducible apply retryReplies_frame | with_reducible apply settleDestroys_frame
      | (with_reducible exact partsIn_trans (by decide) hw) | (with_reducible apply foldl_frame) | (dsimp only))

theorem resume_frame {A : List Part} {s0 : State} (s : State) (hs : s0.agree A s)
    (hw : partsIn [.out, .pins, .sb, .datum, .polders, .cad, .keys, .link, .stack, .tray, .fau, .rings, .coll, .bars, .sca, .obj, .fns, .charts, .tracer, .gauge, .power, .pool, .free] A = true) :
    s0.agree A (resume s) := by
  unfold resume
  try dsimp only
  repeat' (first
      | with_reducible assumption | with_reducible apply dispatchJobs_frame | with_reducible apply endBadUsers_frame
      | with_reducible apply endHopeless_frame | with_reducible apply resumeHeld_frame
      | with_reducible apply resumeLink_frame | with_reducible apply resumeOutside_frame
      | with_reducible apply resumeStack_frame | with_reducible apply retryLoads_frame
      | (with_reducible exact partsIn_trans (by decide) hw) | (with_reducible refine ite_frame ?_ ?_) | split)

theorem applyUnwrap_frame {A : List Part} {s0 : State} (p : PolderId) (kind : BitVec 8) (seen : DeedSeen)
    (s : State) (hs : s0.agree A s)
    (hw : partsIn [.out, .pins, .lc, .sb, .datum, .polders, .cad, .keys, .link, .stack, .tray, .fau, .rings, .coll, .bars, .sca, .obj, .fns, .charts, .tracer, .gauge, .power, .pool, .free] A = true) :
    s0.agree A (applyUnwrap p kind seen s) := by
  unfold applyUnwrap
  try dsimp only
  repeat' (first
      | with_reducible assumption | with_reducible apply answerPins_frame | with_reducible apply failLoad_frame
      | with_reducible apply failUsers_frame | with_reducible apply keyLoaded_frame
      | with_reducible apply markSlotBad_frame | with_reducible apply pmkLoaded_frame
      | with_reducible apply retryUsers_frame | (with_reducible exact partsIn_trans (by decide) hw)
      | (with_reducible refine ite_frame ?_ ?_) | split)

theorem askAgain_frame {A : List Part} {s0 : State} (r : StreamRef) (s : State) (hs : s0.agree A s)
    (hw : partsIn [.link] A = true) : s0.agree A (askAgain r s) := by
  unfold askAgain
  try dsimp only
  repeat' (first
      | with_reducible assumption | (with_reducible intro _) | (with_reducible exact partsIn_trans (by decide) hw)
      | split | (with_reducible refine agree_link ?_ ?_))

theorem applyStreamKey_frame {A : List Part} {s0 : State} (r : StreamRef) (epoch : BitVec 32) (s : State) (hs :
    s0.agree A s)
    (hw : partsIn [.out, .pins, .sb, .polders, .cad, .keys, .link, .stack, .fau, .rings, .obj, .fns, .tracer, .gauge, .power, .free] A = true) :
    s0.agree A (applyStreamKey r epoch s) := by
  unfold applyStreamKey
  try dsimp only
  repeat' (first
      | with_reducible assumption | (with_reducible intro _) | with_reducible apply askAgain_frame
      | with_reducible apply needKey_frame | with_reducible apply pumpTx_frame | with_reducible apply retryRx_frame
      | with_reducible apply setRx_frame | with_reducible apply setTx_frame
      | (with_reducible exact partsIn_trans (by decide) hw) | (with_reducible refine ite_frame ?_ ?_)
      | (with_reducible refine ite_pair_frame ?_ ?_) | (with_reducible refine ite_trip_frame ?_ ?_) | split
      | (refine frame_of_pair (by with_reducible assumption) ?_)
      | (refine frame_of_trip (by with_reducible assumption) ?_) | (dsimp only))

theorem refillBuffer_frame {A : List Part} {s0 : State} (s : State) (hs : s0.agree A s)
    (hw : partsIn [.out, .pins, .sb, .polders, .cad, .keys, .stack, .obj, .fns, .tracer, .power, .free] A = true) :
    s0.agree A (refillBuffer s) := by
  unfold refillBuffer
  try dsimp only
  repeat' (first
      | with_reducible assumption | (with_reducible intro _) | with_reducible apply modKeys_frame
      | with_reducible apply needJob_frame | with_reducible apply reseedIfDue_frame
      | (with_reducible exact partsIn_trans (by decide) hw) | (with_reducible refine ite_frame ?_ ?_) | split)

theorem applyJob_frame {A : List Part} {s0 : State} (j : KcuJob) (s : State) (hs : s0.agree A s)
    (hw : partsIn [.out, .pins, .lc, .sb, .datum, .polders, .cad, .keys, .link, .stack, .tray, .fau, .rings, .coll, .bars, .sca, .obj, .fns, .charts, .tracer, .gauge, .power, .pool, .free] A = true) :
    s0.agree A (applyJob j s) := by
  unfold applyJob
  try dsimp only
  repeat' (first
      | with_reducible assumption | with_reducible apply applyStreamKey_frame
      | with_reducible apply applyUnwrap_frame | with_reducible apply extentDerived_frame
      | with_reducible apply refillBuffer_frame | with_reducible apply sealPiece_frame
      | (with_reducible exact partsIn_trans (by decide) hw) | split)

theorem setKcu_frame {A : List Part} {s0 : State} (second : Bool) (k : Kcu) (s : State) (hs : s0.agree A s)
    (hw : partsIn [.keys] A = true) : s0.agree A (setKcu second k s) := by
  unfold setKcu
  try dsimp only
  repeat' (first
      | with_reducible assumption | (with_reducible intro _) | with_reducible apply modKeys_frame
      | (with_reducible exact partsIn_trans (by decide) hw) | (with_reducible refine ite_frame ?_ ?_) | split)

theorem kcuOut_frame {A : List Part} {s0 : State} (second : Bool) (j : KcuJob) (s : State) (hs : s0.agree A s)
    (hw : partsIn [.out, .sb, .polders, .keys, .obj, .fns, .tracer, .free] A = true) : s0.agree A
    (kcuOut second j s) := by
  unfold kcuOut
  try dsimp only
  repeat' (first
      | with_reducible assumption | (with_reducible intro _) | with_reducible apply modKeys_frame
      | with_reducible apply setKcu_frame | with_reducible apply writeFault_frame
      | (with_reducible exact partsIn_trans (by decide) hw) | (with_reducible refine ite_frame ?_ ?_) | split)

theorem afterKcuOut_frame {A : List Part} {s0 : State} (s : State) (hs : s0.agree A s)
    (hw : partsIn [.out, .owner, .pins, .boot, .flash, .lc, .sb, .datum, .polders, .cad, .keys, .link, .stack, .tray, .fau, .rings, .coll, .bars, .sca, .obj, .fns, .spdm, .weirs, .charts, .tracer, .gauge, .power, .regs, .pool, .free] A = true) :
    s0.agree A (afterKcuOut s) := by
  unfold afterKcuOut
  try dsimp only
  repeat' (first
      | with_reducible assumption | with_reducible apply blockReset_frame | with_reducible apply resume_frame
      | (with_reducible exact partsIn_trans (by decide) hw) | (with_reducible refine ite_frame ?_ ?_) | split)

theorem jobPasses_frame {A : List Part} {s0 : State} (second : Bool) (j : KcuJob) (s : State) (hs : s0.agree A s)
    (hw : partsIn [.out, .pins, .lc, .sb, .datum, .polders, .cad, .keys, .link, .stack, .tray, .fau, .rings, .coll, .bars, .sca, .obj, .fns, .charts, .tracer, .gauge, .power, .pool, .free] A = true) :
    s0.agree A (jobPasses second j s) := by
  unfold jobPasses
  try dsimp only
  repeat' (first
      | with_reducible assumption | with_reducible apply applyJob_frame | with_reducible apply markWork_frame
      | with_reducible apply resume_frame | with_reducible apply setKcu_frame | with_reducible apply traceJob_frame
      | (with_reducible exact partsIn_trans (by decide) hw) | (with_reducible refine ite_frame ?_ ?_) | split)

theorem jobMismatch_frame {A : List Part} {s0 : State} (second : Bool) (j : KcuJob) (s : State) (hs : s0.agree A s)
    (hw : partsIn [.out, .owner, .pins, .boot, .flash, .lc, .sb, .datum, .polders, .cad, .keys, .link, .stack, .tray, .fau, .rings, .coll, .bars, .sca, .obj, .fns, .spdm, .weirs, .charts, .tracer, .gauge, .power, .regs, .pool, .free] A = true) :
    s0.agree A (jobMismatch second j s) := by
  unfold jobMismatch
  try dsimp only
  repeat' (first
      | with_reducible assumption | (with_reducible intro _) | with_reducible apply afterKcuOut_frame
      | with_reducible apply blockReset_frame | with_reducible apply count_frame | with_reducible apply kcuOut_frame
      | with_reducible apply modKeys_frame | with_reducible apply setKcu_frame
      | (with_reducible exact partsIn_trans (by decide) hw) | (with_reducible refine ite_frame ?_ ?_) | split)

theorem execKcuJobComplete_frame {A : List Part} {s0 : State} (kcu : Bool) (outcome : KcuOutcome) (s : State) (hs :
    s0.agree A s)
    (hw : partsIn [.out, .owner, .pins, .boot, .flash, .lc, .sb, .datum, .polders, .cad, .keys, .link, .stack, .tray, .fau, .rings, .coll, .bars, .sca, .obj, .fns, .spdm, .weirs, .charts, .tracer, .gauge, .power, .regs, .pool, .free] A = true) :
    FrameOut A s0 (execKcuJobComplete kcu outcome s) := by
  unfold execKcuJobComplete
  try dsimp only
  repeat' (first
      | with_reducible exact frameOut_fault | (with_reducible apply frameOut_next)
      | (with_reducible refine frameOut_ite ?_ ?_) | with_reducible assumption | (with_reducible intro _)
      | with_reducible apply afterKcuOut_frame | with_reducible apply jobMismatch_frame
      | with_reducible apply jobPasses_frame | with_reducible apply kcuOut_frame
      | with_reducible apply modKeys_frame | (with_reducible exact partsIn_trans (by decide) hw)
      | (with_reducible refine ite_frame ?_ ?_) | split | (dsimp only))

theorem execSlotEvictionComplete_frame {A : List Part} {s0 : State} (slot : BitVec 8) (s : State) (hs :
    s0.agree A s)
    (hw : partsIn [.out, .pins, .sb, .datum, .polders, .cad, .keys, .link, .stack, .tray, .fau, .rings, .coll, .bars, .sca, .obj, .fns, .charts, .tracer, .gauge, .power, .pool, .free] A = true) :
    FrameOut A s0 (execSlotEvictionComplete slot s) := by
  unfold execSlotEvictionComplete
  try dsimp only
  repeat' (first
      | with_reducible exact frameOut_fault | (with_reducible apply frameOut_next)
      | (with_reducible refine frameOut_ite ?_ ?_) | with_reducible assumption | (with_reducible intro _)
      | with_reducible apply resume_frame | with_reducible apply zeroizeSlot_frame
      | (with_reducible exact partsIn_trans (by decide) hw) | (with_reducible refine ite_frame ?_ ?_) | split
      | (dsimp only))

theorem execSlotLoadTimeout_frame {A : List Part} {s0 : State} (polder : PolderId) (s : State) (hs : s0.agree A s)
    (hw : partsIn [.out, .pins, .sb, .datum, .polders, .cad, .keys, .link, .stack, .tray, .fau, .rings, .coll, .bars, .sca, .obj, .fns, .charts, .tracer, .gauge, .power, .pool, .free] A = true) :
    FrameOut A s0 (execSlotLoadTimeout polder s) := by
  unfold execSlotLoadTimeout
  try dsimp only
  repeat' (first
      | with_reducible exact frameOut_fault | (with_reducible apply frameOut_next)
      | (with_reducible refine frameOut_ite ?_ ?_) | with_reducible assumption | (with_reducible intro _)
      | with_reducible apply endSlotless_frame | with_reducible apply resume_frame
      | with_reducible apply retryLoads_frame | (with_reducible exact partsIn_trans (by decide) hw)
      | (with_reducible refine ite_frame ?_ ?_) | split | (dsimp only))

theorem execDrbgReseed_frame {A : List Part} {s0 : State} (s : State) (hs : s0.agree A s)
    (hw : partsIn [.keys, .free] A = true) : FrameOut A s0 (execDrbgReseed s) := by
  unfold execDrbgReseed
  try dsimp only
  repeat' (first
      | with_reducible exact frameOut_fault | (with_reducible apply frameOut_next)
      | (with_reducible refine frameOut_ite ?_ ?_) | with_reducible assumption | (with_reducible intro _)
      | with_reducible apply reseed_frame | (with_reducible exact partsIn_trans (by decide) hw)
      | (with_reducible refine ite_frame ?_ ?_) | split | (dsimp only))

theorem execEntropyHealthFailure_frame {A : List Part} {s0 : State} (test : BitVec 8) (s : State) (hs :
    s0.agree A s) (hw : partsIn [.out, .sb, .polders, .keys, .obj, .fns, .tracer, .free] A = true) : FrameOut A s0
    (execEntropyHealthFailure test s) := by
  unfold execEntropyHealthFailure
  try dsimp only
  repeat' (first
      | with_reducible exact frameOut_fault | (with_reducible apply frameOut_next)
      | (with_reducible refine frameOut_ite ?_ ?_) | with_reducible assumption | (with_reducible intro _)
      | with_reducible apply modKeys_frame | with_reducible apply writeFault_frame
      | (with_reducible exact partsIn_trans (by decide) hw) | (with_reducible refine ite_frame ?_ ?_) | split
      | (dsimp only))

theorem execProtectedPacketReceive_frame {A : List Part} {s0 : State} (port : BitVec 8) (packet : Bytes) (s : State)
    (hs : s0.agree A s)
    (hw : partsIn [.out, .pins, .sb, .polders, .cad, .keys, .link, .stack, .fau, .rings, .obj, .fns, .tracer, .gauge, .power, .free] A = true) :
    FrameOut A s0 (execProtectedPacketReceive port packet s) := by
  unfold execProtectedPacketReceive
  try dsimp only
  repeat' (first
      | with_reducible exact frameOut_fault | (with_reducible apply frameOut_next)
      | (with_reducible refine frameOut_ite ?_ ?_) | with_reducible assumption | (with_reducible intro _)
      | with_reducible apply arrivePacket_frame | with_reducible apply enter_frame
      | (with_reducible exact partsIn_trans (by decide) hw) | (with_reducible refine ite_frame ?_ ?_) | split
      | (dsimp only))

theorem cacheEntry_frame {A : List Part} {s0 : State} (slice : BitVec 8) (r : StreamRef) (s : State) (hs :
    s0.agree A s) (hw : partsIn [.link, .free] A = true) : s0.agree A (cacheEntry slice r s) := by
  unfold cacheEntry
  try dsimp only
  repeat' (first
      | with_reducible assumption | (with_reducible intro _) | with_reducible apply tookFree_frame
      | (with_reducible exact partsIn_trans (by decide) hw) | (with_reducible refine ite_frame ?_ ?_) | split
      | (with_reducible refine agree_link ?_ ?_))

theorem execStreamEntryFetch_frame {A : List Part} {s0 : State} (slice : BitVec 8) (stream : StreamRef) (s : State)
    (hs : s0.agree A s)
    (hw : partsIn [.out, .pins, .sb, .datum, .polders, .cad, .keys, .link, .stack, .tray, .fau, .rings, .coll, .bars, .sca, .obj, .fns, .charts, .tracer, .gauge, .power, .pool, .free] A = true) :
    FrameOut A s0 (execStreamEntryFetch slice stream s) := by
  unfold execStreamEntryFetch
  try dsimp only
  repeat' (first
      | with_reducible exact frameOut_fault | (with_reducible apply frameOut_next)
      | (with_reducible refine frameOut_ite ?_ ?_) | with_reducible assumption | (with_reducible intro _)
      | with_reducible apply cacheEntry_frame | with_reducible apply resume_frame
      | with_reducible apply withDomain_frame | (with_reducible exact partsIn_trans (by decide) hw)
      | (with_reducible refine ite_frame ?_ ?_) | split | (dsimp only))

end Sys2Proof.Machine
end

