-- ==== Sys2Proof/Laws/FramePower.lean ====
section
/-! SUPPORT. Which parts of the state the operations of Machine/Power.lean may change (State.agree). -/

namespace Sys2Proof.Machine

theorem serveEntry_frame {A : List Part} {s0 : State} (e : CulvertEntry) (s : State) (hs : s0.agree A s)
    (hw : partsIn [.out, .pins, .sb, .polders, .cad, .keys, .link, .stack, .tray, .fau, .rings, .sca, .obj, .fns, .tracer, .gauge, .power, .free] A = true) :
    s0.agree A (serveEntry e s) := by
  unfold serveEntry
  try dsimp only
  repeat' (first
      | with_reducible assumption | with_reducible apply arriveLine_frame | with_reducible apply arriveNotice_frame
      | with_reducible apply arrivePacket_frame | with_reducible apply arriveStack_frame
      | with_reducible apply scaRequest_frame | with_reducible apply submitOp_frame
      | (with_reducible exact partsIn_trans (by decide) hw) | split)

theorem nextEntry_frame {A : List Part} {s0 : State} (d : DomainId) (s : State) (e : CulvertEntry) (t : State)
    (h : nextEntry d s = some (e, t)) (hs : s0.agree A s) (hw : partsIn [.power] A = true) : s0.agree A t := by
  revert h
  unfold nextEntry
  dsimp only
  split
  · intro h
    cases h
    exact setCulvert_frame _ _ hs hw
  · split
    · intro h
      cases h
      exact modPower_frame _ _ hs hw
    · intro h
      cases h

theorem deliver_frame {A : List Part} {s0 : State} (d : DomainId) (a0 : Nat) (a1 : State) (hs : s0.agree A a1)
    (hw : partsIn [.out, .pins, .sb, .polders, .cad, .keys, .link, .stack, .tray, .fau, .rings, .sca, .obj, .fns, .tracer, .gauge, .power, .free] A = true) :
    s0.agree A (deliver d a0 a1) := by
  induction a0 generalizing a1 with
  | zero => exact hs
  | succ n ih =>
    unfold deliver
    split
    · exact hs
    · split
      · rename_i h
        exact ih _ (serveEntry_frame _ _ (markWork_frame _ _ (nextEntry_frame _ _ _ _ h hs
          (partsIn_trans (by decide) hw)) (partsIn_trans (by decide) hw)) (partsIn_trans (by decide) hw))
      · exact hs


theorem domainServes_frame {A : List Part} {s0 : State} (d : DomainId) (s : State) (hs : s0.agree A s)
    (hw : partsIn [.out, .pins, .sb, .datum, .polders, .cad, .keys, .link, .stack, .tray, .fau, .rings, .coll, .bars, .sca, .obj, .fns, .charts, .tracer, .gauge, .power, .pool, .free] A = true) :
    s0.agree A (domainServes d s) := by
  unfold domainServes
  try dsimp only
  repeat' (first
      | with_reducible assumption | with_reducible apply deliver_frame | with_reducible apply resume_frame
      | (with_reducible exact partsIn_trans (by decide) hw) | (with_reducible refine ite_pair_frame ?_ ?_)
      | (with_reducible refine ite_trip_frame ?_ ?_) | (dsimp only))

theorem execClockStopRequest_frame {A : List Part} {s0 : State} (d : DomainId) (s : State) (hs : s0.agree A s)
    (hw : partsIn [.pins, .tracer, .free] A = true) : FrameOut A s0 (execClockStopRequest d s) := by
  unfold execClockStopRequest
  try dsimp only
  repeat' (first
      | with_reducible exact frameOut_fault | (with_reducible apply frameOut_next)
      | (with_reducible refine frameOut_ite ?_ ?_) | with_reducible assumption | (with_reducible intro _)
      | with_reducible apply emitTrace_frame | with_reducible apply modPins_frame
      | with_reducible apply tookFree_frame | (with_reducible exact partsIn_trans (by decide) hw)
      | (with_reducible refine ite_frame ?_ ?_) | split | (dsimp only))

theorem writeBackEntries_frame {A : List Part} {s0 : State} (d : DomainId) (s : State) (hs : s0.agree A s)
    (hw : partsIn [.link] A = true) : s0.agree A (writeBackEntries d s) := by
  unfold writeBackEntries
  try dsimp only
  repeat' (first
      | with_reducible assumption | (with_reducible intro _) | (with_reducible exact partsIn_trans (by decide) hw)
      | split | (with_reducible refine agree_link ?_ ?_))

theorem zeroizeDomain_frame {A : List Part} {s0 : State} (d : DomainId) (s : State) (hs : s0.agree A s)
    (hw : partsIn [.keys, .link, .stack] A = true) : s0.agree A (zeroizeDomain d s) := by
  unfold zeroizeDomain
  try dsimp only
  repeat' (first
      | with_reducible assumption | with_reducible apply dropCopies_frame | with_reducible apply setKcu_frame
      | with_reducible apply writeBackEntries_frame | (with_reducible exact partsIn_trans (by decide) hw) | split)

theorem execDomainGate_frame {A : List Part} {s0 : State} (d : DomainId) (s : State) (hs : s0.agree A s)
    (hw : partsIn [.pins, .keys, .link, .stack, .tracer, .free] A = true) : FrameOut A s0 (execDomainGate d s) := by
  unfold execDomainGate
  try dsimp only
  repeat' (first
      | with_reducible exact frameOut_fault | (with_reducible apply frameOut_next)
      | (with_reducible refine frameOut_ite ?_ ?_) | with_reducible assumption | (with_reducible intro _)
      | with_reducible apply count_frame | with_reducible apply emitTrace_frame | with_reducible apply modPins_frame
      | with_reducible apply zeroizeDomain_frame | (with_reducible exact partsIn_trans (by decide) hw)
      | (with_reducible refine ite_frame ?_ ?_) | split | (dsimp only))

theorem execDomainWake_frame {A : List Part} {s0 : State} (d : DomainId) (s : State) (hs : s0.agree A s)
    (hw : partsIn [.pins, .tracer] A = true) : FrameOut A s0 (execDomainWake d s) := by
  unfold execDomainWake
  try dsimp only
  repeat' (first
      | with_reducible exact frameOut_fault | (with_reducible apply frameOut_next)
      | (with_reducible refine frameOut_ite ?_ ?_) | with_reducible assumption | (with_reducible intro _)
      | with_reducible apply wakeDomain_frame | (with_reducible exact partsIn_trans (by decide) hw) | (dsimp only))

end Sys2Proof.Machine
end

