-- ==== Sys2Proof/Laws/FrameReplay.lean ====
section
/-! SUPPORT. Which parts of the state the operations of Machine/Replay.lean may change (State.agree). -/

namespace Sys2Proof.Machine

theorem squashIn_frame {A : List Part} {s0 : State} (unit : BitVec 16) (c : CtxId) (s : State) (hs : s0.agree A s)
    (hw : partsIn [.out, .pins, .sb, .datum, .polders, .cad, .keys, .link, .stack, .fau, .rings, .coll, .bars, .obj, .fns, .tracer, .gauge, .power, .free] A = true) :
    s0.agree A (squashIn unit c s) := by
  unfold squashIn
  try dsimp only
  repeat' (first
      | with_reducible assumption | (with_reducible intro _) | with_reducible apply abortPart_frame
      | with_reducible apply endDescriptor_frame | with_reducible apply endOps_frame
      | with_reducible apply endWaitingTx_frame | with_reducible apply stackAnswer_frame
      | (with_reducible exact partsIn_trans (by decide) hw) | (with_reducible apply foldl_frame) | split
      | (with_reducible refine agree_link ?_ ?_) | (with_reducible refine agree_stack ?_ ?_)
      | (with_reducible refine agree_upd (W := [.link, .stack]) ?_ rfl (by intro p hp; cases p <;> (try exact absurd hp (by decide)) <;> exact rfl) ?_)
      | (dsimp only))

theorem resumeWork_frame {A : List Part} {s0 : State} (s : State) (hs : s0.agree A s)
    (hw : partsIn [.out, .pins, .sb, .datum, .polders, .cad, .keys, .link, .stack, .tray, .fau, .rings, .coll, .bars, .sca, .obj, .fns, .charts, .tracer, .gauge, .power, .pool, .free] A = true) :
    s0.agree A (resumeWork s) := by
  unfold resumeWork
  try dsimp only
  repeat' (first
      | with_reducible assumption | with_reducible apply resume_frame | with_reducible apply resumeHeld_frame
      | (with_reducible exact partsIn_trans (by decide) hw))

theorem joinSuspects_frame {A : List Part} {s0 : State} (unit : BitVec 16) (d : DomainId) (s : State) (hs :
    s0.agree A s) (hw : partsIn [.tracer] A = true) : s0.agree A (joinSuspects unit d s) := by
  unfold joinSuspects
  try dsimp only
  repeat' (first
      | with_reducible assumption | (with_reducible intro _) | with_reducible apply modTracer_frame
      | (with_reducible exact partsIn_trans (by decide) hw) | (with_reducible apply foldl_frame)
      | (with_reducible refine ite_frame ?_ ?_) | split | (dsimp only))

theorem noteUnits_frame {A : List Part} {s0 : State} (unit : BitVec 16) (s : State) (hs : s0.agree A s)
    (hw : partsIn [.tracer] A = true) : s0.agree A (noteUnits unit s) := by
  unfold noteUnits
  try dsimp only
  repeat' (first
      | with_reducible assumption | (with_reducible intro _) | with_reducible apply modTracer_frame
      | (with_reducible exact partsIn_trans (by decide) hw))

theorem resetEngine_frame {A : List Part} {s0 : State} (unit : BitVec 16) (s : State) (hs : s0.agree A s)
    (hw : partsIn [.link, .tracer, .power] A = true) : s0.agree A (resetEngine unit s) := by
  unfold resetEngine
  try dsimp only
  repeat' (first
      | with_reducible assumption | (with_reducible intro _) | with_reducible apply joinSuspects_frame
      | with_reducible apply noteUnits_frame | with_reducible apply resetCulverts_frame
      | (with_reducible exact partsIn_trans (by decide) hw) | (with_reducible refine ite_frame ?_ ?_) | split
      | (with_reducible refine agree_link ?_ ?_))

theorem resendSuspect_frame {A : List Part} {s0 : State} (h : Hang) (c : CtxId) (s : State) (hs : s0.agree A s)
    (hw : partsIn [.out, .pins, .sb, .polders, .cad, .keys, .link, .stack, .fau, .rings, .obj, .fns, .tracer, .gauge, .power, .free] A = true) :
    s0.agree A (resendSuspect h c s) := by
  unfold resendSuspect
  try dsimp only
  repeat' (first
      | with_reducible assumption | (with_reducible intro _) | with_reducible apply resendNow_frame
      | (with_reducible exact partsIn_trans (by decide) hw) | (with_reducible apply foldl_frame)
      | (with_reducible refine ite_frame ?_ ?_) | split | (dsimp only))

theorem askBlocks_frame {A : List Part} {s0 : State} (n : CollNode) (s : State) (hs : s0.agree A s)
    (hw : partsIn [.out, .pins, .sb, .datum, .polders, .cad, .keys, .link, .stack, .fau, .rings, .coll, .obj, .fns, .tracer, .gauge, .power, .free] A = true) :
    s0.agree A (askBlocks n s) := by
  unfold askBlocks
  try dsimp only
  repeat' (first
      | with_reducible assumption | (with_reducible intro _) | with_reducible apply abortNode_frame
      | with_reducible apply sendEach_frame | (with_reducible exact partsIn_trans (by decide) hw)
      | (with_reducible refine ite_pair_frame ?_ ?_) | (with_reducible refine ite_trip_frame ?_ ?_) | split
      | (refine frame_of_pair (by with_reducible assumption) ?_)
      | (refine frame_of_trip (by with_reducible assumption) ?_) | (dsimp only))

theorem reperform_frame {A : List Part} {s0 : State} (unit : BitVec 16) (s : State) (hs : s0.agree A s)
    (hw : partsIn [.out, .pins, .sb, .datum, .polders, .cad, .keys, .link, .stack, .fau, .rings, .coll, .obj, .fns, .tracer, .gauge, .power, .free] A = true) :
    s0.agree A (reperform unit s) := by
  unfold reperform
  try dsimp only
  repeat' (first
      | with_reducible assumption | (with_reducible intro _) | with_reducible apply askBlocks_frame
      | with_reducible apply resendSuspect_frame | (with_reducible exact partsIn_trans (by decide) hw)
      | (with_reducible apply foldl_frame) | (with_reducible refine ite_frame ?_ ?_) | split | (dsimp only))

theorem advanceHang_frame {A : List Part} {s0 : State} (unit : BitVec 16) (s : State) (hs : s0.agree A s)
    (hw : partsIn [.out, .pins, .sb, .datum, .polders, .cad, .keys, .link, .stack, .tray, .fau, .rings, .coll, .bars, .sca, .obj, .fns, .charts, .tracer, .gauge, .power, .pool, .free] A = true) :
    s0.agree A (advanceHang unit s) := by
  unfold advanceHang
  try dsimp only
  repeat' (first
      | with_reducible assumption | (with_reducible intro _) | with_reducible apply finishAll_frame
      | with_reducible apply modTracer_frame | with_reducible apply resendSuspect_frame
      | with_reducible apply resumeWork_frame | (with_reducible exact partsIn_trans (by decide) hw)
      | (with_reducible refine ite_frame ?_ ?_) | split)

theorem execCulvertHandshakeComplete_frame {A : List Part} {s0 : State} (c : CulvertId) (s : State) (hs :
    s0.agree A s)
    (hw : partsIn [.out, .pins, .sb, .datum, .polders, .cad, .keys, .link, .stack, .tray, .fau, .rings, .coll, .bars, .sca, .obj, .fns, .charts, .tracer, .gauge, .power, .pool, .free] A = true) :
    FrameOut A s0 (execCulvertHandshakeComplete c s) := by
  unfold execCulvertHandshakeComplete
  try dsimp only
  repeat' (first
      | with_reducible exact frameOut_fault | (with_reducible apply frameOut_next)
      | (with_reducible refine frameOut_ite ?_ ?_) | with_reducible assumption | (with_reducible intro _)
      | with_reducible apply domainServes_frame | with_reducible apply reperform_frame
      | with_reducible apply setCulvert_frame | (with_reducible exact partsIn_trans (by decide) hw)
      | (with_reducible refine ite_frame ?_ ?_) | split | (dsimp only))

theorem dropSuspect_frame {A : List Part} {s0 : State} (c : CtxId) (s : State) (hs : s0.agree A s)
    (hw : partsIn [.out, .pins, .sb, .datum, .polders, .cad, .keys, .link, .stack, .tray, .fau, .rings, .coll, .bars, .sca, .obj, .fns, .charts, .tracer, .gauge, .power, .pool, .free] A = true) :
    s0.agree A (dropSuspect c s) := by
  unfold dropSuspect
  try dsimp only
  repeat' (first
      | with_reducible assumption | (with_reducible intro _) | with_reducible apply advanceHang_frame
      | with_reducible apply modTracer_frame | (with_reducible exact partsIn_trans (by decide) hw)
      | (with_reducible apply foldl_frame) | (dsimp only))

end Sys2Proof.Machine
end

