-- ==== Sys2Proof/Laws/FrameContexts.lean ====
section
/-! SUPPORT. Which parts of the state the operations of Machine/Contexts.lean may change (State.agree). -/

namespace Sys2Proof.Machine

theorem modObj_frame {A : List Part} {s0 : State} (f : Objects → Objects) (s : State) (hs : s0.agree A s)
    (hw : partsIn [.obj] A = true) : s0.agree A (modObj f s) := by
  unfold modObj
  try dsimp only
  repeat' (first
      | with_reducible assumption | (with_reducible exact partsIn_trans (by decide) hw)
      | (with_reducible refine agree_obj ?_ ?_))

theorem passAhead_frame {A : List Part} {s0 : State} (q : BitVec 8) (n : Nat) (s : State) (hs : s0.agree A s)
    (hw : partsIn [.obj] A = true) : s0.agree A (passAhead q n s) := by
  unfold passAhead
  try dsimp only
  repeat' (first
      | with_reducible assumption | (with_reducible intro _) | with_reducible apply modObj_frame
      | (with_reducible exact partsIn_trans (by decide) hw) | (with_reducible refine ite_frame ?_ ?_) | split)

theorem squashUnfetched_frame {A : List Part} {s0 : State} (q : Queue) (a0 : Nat) (a1 : State) (hs : s0.agree A a1)
    (hw : partsIn [.out, .obj, .fns, .tracer, .free] A = true) : s0.agree A (squashUnfetched q a0 a1) := by
  induction a0 generalizing a1 with
  | zero => 
    unfold squashUnfetched
    try dsimp only
    repeat' (first
        | with_reducible assumption | with_reducible apply endUnstarted_frame | with_reducible apply tookFree_frame
        | (with_reducible exact partsIn_trans (by decide) hw) | (with_reducible refine ite_pair_frame ?_ ?_)
        | (with_reducible refine ite_trip_frame ?_ ?_) | split | (dsimp only))
  | succ n ih => 
    unfold squashUnfetched
    try dsimp only
    repeat' (first
        | with_reducible assumption | with_reducible apply endUnstarted_frame | with_reducible apply tookFree_frame
        | (with_reducible exact partsIn_trans (by decide) hw) | with_reducible apply ih
        | (with_reducible refine ite_pair_frame ?_ ?_) | (with_reducible refine ite_trip_frame ?_ ?_) | split
        | (dsimp only))

theorem squashQueue_frame {A : List Part} {s0 : State} (id : BitVec 8) (s : State) (hs : s0.agree A s)
    (hw : partsIn [.out, .obj, .fns, .tracer, .free] A = true) : s0.agree A (squashQueue id s) := by
  unfold squashQueue
  try dsimp only
  repeat' (first
      | with_reducible assumption | (with_reducible intro _) | with_reducible apply endDescriptor_frame
      | with_reducible apply modQueue_frame | with_reducible apply passAhead_frame
      | with_reducible apply squashUnfetched_frame | (with_reducible exact partsIn_trans (by decide) hw)
      | (with_reducible apply foldl_frame) | (with_reducible apply foldl_pair_frame)
      | (with_reducible apply foldl_trip_frame) | (with_reducible apply id_frame)
      | (with_reducible refine ite_pair_frame ?_ ?_) | (with_reducible refine ite_trip_frame ?_ ?_) | split
      | (refine frame_of_pair (by with_reducible assumption) ?_)
      | (refine frame_of_trip (by with_reducible assumption) ?_) | (dsimp only))

theorem abortArrival_frame {A : List Part} {s0 : State} (a : Arrival) (st : Status) (s : State) (hs : s0.agree A s)
    (hw : partsIn [.out, .pins, .sb, .datum, .polders, .cad, .keys, .link, .stack, .fau, .rings, .coll, .bars, .obj, .fns, .tracer, .gauge, .power, .free] A = true) :
    s0.agree A (abortArrival a st s) := by
  unfold abortArrival
  try dsimp only
  repeat' (first
      | with_reducible assumption | with_reducible apply completeArrival_frame
      | with_reducible apply sendAbort_frame | (with_reducible exact partsIn_trans (by decide) hw) | split)

theorem abortContext_frame {A : List Part} {s0 : State} (c : CtxId) (st : Status) (s : State) (hs : s0.agree A s)
    (hw : partsIn [.out, .pins, .sb, .datum, .polders, .cad, .keys, .link, .stack, .fau, .rings, .coll, .bars, .obj, .fns, .tracer, .gauge, .power, .free] A = true) :
    s0.agree A (abortContext c st s) := by
  unfold abortContext
  try dsimp only
  repeat' (first
      | with_reducible assumption | (with_reducible intro _) | with_reducible apply abortArrival_frame
      | with_reducible apply abortPart_frame | (with_reducible exact partsIn_trans (by decide) hw)
      | (with_reducible apply foldl_frame) | (dsimp only))

theorem endHeldSca_frame {A : List Part} {s0 : State} (x : Context) (s : State) (hs : s0.agree A s)
    (hw : partsIn [.out, .sca] A = true) : s0.agree A (endHeldSca x s) := by
  unfold endHeldSca
  try dsimp only
  repeat' (first
      | with_reducible assumption | (with_reducible intro _) | with_reducible apply scaAnswer_frame
      | (with_reducible exact partsIn_trans (by decide) hw) | (with_reducible apply foldl_frame)
      | (with_reducible refine agree_sca ?_ ?_) | (dsimp only))

theorem squashWork_frame {A : List Part} {s0 : State} (c : CtxId) (s : State) (hs : s0.agree A s)
    (hw : partsIn [.out, .pins, .sb, .datum, .polders, .cad, .keys, .link, .stack, .tray, .fau, .rings, .coll, .bars, .sca, .obj, .fns, .charts, .tracer, .gauge, .power, .pool, .free] A = true) :
    s0.agree A (squashWork c s) := by
  unfold squashWork
  try dsimp only
  repeat' (first
      | with_reducible assumption | (with_reducible intro _) | with_reducible apply abortContext_frame
      | with_reducible apply dropSuspect_frame | with_reducible apply endHeldSca_frame
      | with_reducible apply endHold_frame | with_reducible apply endOps_frame | with_reducible apply endWaits_frame
      | with_reducible apply resume_frame | with_reducible apply squashQueue_frame
      | (with_reducible exact partsIn_trans (by decide) hw) | (with_reducible apply foldl_frame) | split
      | (dsimp only))

theorem endFences_frame {A : List Part} {s0 : State} (c : CtxId) (s : State) (hs : s0.agree A s)
    (hw : partsIn [.out, .obj, .fns, .tracer, .free] A = true) : s0.agree A (endFences c s) := by
  unfold endFences
  try dsimp only
  repeat' (first
      | with_reducible assumption | (with_reducible intro _) | with_reducible apply abandonFence_frame
      | with_reducible apply dropShares_frame | (with_reducible exact partsIn_trans (by decide) hw)
      | (with_reducible apply foldl_frame) | (dsimp only))

theorem beginDestroy_frame {A : List Part} {s0 : State} (c : CtxId) (waiters : List (Origin × BitVec 32))
    (s : State) (hs : s0.agree A s)
    (hw : partsIn [.out, .pins, .sb, .datum, .polders, .cad, .keys, .link, .stack, .tray, .fau, .rings, .coll, .bars, .sca, .obj, .fns, .charts, .tracer, .gauge, .power, .pool, .free] A = true) :
    s0.agree A (beginDestroy c waiters s) := by
  unfold beginDestroy
  try dsimp only
  repeat' (first
      | with_reducible assumption | (with_reducible intro _) | with_reducible apply endFences_frame
      | with_reducible apply modContext_frame | with_reducible apply modObj_frame
      | with_reducible apply squashWork_frame | (with_reducible exact partsIn_trans (by decide) hw)
      | (with_reducible refine ite_frame ?_ ?_) | split)

theorem freeContext_frame {A : List Part} {s0 : State} (c : CtxId) (s : State) (hs : s0.agree A s)
    (hw : partsIn [.out, .sca, .obj, .fns, .tracer] A = true) : s0.agree A (freeContext c s) := by
  unfold freeContext
  try dsimp only
  repeat' (first
      | with_reducible assumption | (with_reducible intro _) | with_reducible apply finishAll_frame
      | with_reducible apply modObj_frame | with_reducible apply zeroSync_frame
      | (with_reducible exact partsIn_trans (by decide) hw) | (with_reducible apply foldl_frame) | split
      | (dsimp only))

theorem bringBack_frame {A : List Part} {s0 : State} (c : CtxId) (s : State) (hs : s0.agree A s)
    (hw : partsIn [.sca, .obj] A = true) : s0.agree A (bringBack c s) := by
  unfold bringBack
  try dsimp only
  repeat' (first
      | with_reducible assumption | (with_reducible intro _) | with_reducible apply modContext_frame
      | with_reducible apply modObj_frame | with_reducible apply zeroSync_frame
      | (with_reducible exact partsIn_trans (by decide) hw) | split)

theorem restoreContext_frame {A : List Part} {s0 : State} (c : CtxId) (s : State) (hs : s0.agree A s)
    (hw : partsIn [.out, .pins, .sb, .datum, .polders, .cad, .keys, .link, .stack, .tray, .fau, .rings, .coll, .bars, .sca, .obj, .fns, .charts, .tracer, .gauge, .power, .pool, .free] A = true) :
    s0.agree A (restoreContext c s) := by
  unfold restoreContext
  try dsimp only
  repeat' (first
      | with_reducible assumption | with_reducible apply bringBack_frame | with_reducible apply endFences_frame
      | with_reducible apply squashWork_frame | (with_reducible exact partsIn_trans (by decide) hw))

theorem settleReset_frame {A : List Part} {s0 : State} (c : CtxId) (s : State) (hs : s0.agree A s)
    (hw : partsIn [.out, .sca, .obj, .fns, .tracer] A = true) : s0.agree A (settleReset c s) := by
  unfold settleReset
  try dsimp only
  repeat' (first
      | with_reducible assumption | (with_reducible intro _) | with_reducible apply bringBack_frame
      | with_reducible apply finishAll_frame | with_reducible apply modContext_frame
      | (with_reducible exact partsIn_trans (by decide) hw) | (with_reducible refine ite_frame ?_ ?_) | split)

theorem resetContext_frame {A : List Part} {s0 : State} (c : CtxId) (o : Origin) (tag : BitVec 32) (s : State) (hs :
    s0.agree A s)
    (hw : partsIn [.out, .pins, .sb, .datum, .polders, .cad, .keys, .link, .stack, .tray, .fau, .rings, .coll, .bars, .sca, .obj, .fns, .charts, .tracer, .gauge, .power, .pool, .free] A = true) :
    s0.agree A (resetContext c o tag s) := by
  unfold resetContext
  try dsimp only
  repeat' (first
      | with_reducible assumption | (with_reducible intro _) | with_reducible apply bringBack_frame
      | with_reducible apply endFences_frame | with_reducible apply finish_frame
      | with_reducible apply modContext_frame | with_reducible apply squashWork_frame
      | (with_reducible exact partsIn_trans (by decide) hw) | (with_reducible refine ite_frame ?_ ?_) | split)

theorem execContextDestroyComplete_frame {A : List Part} {s0 : State} (context : CtxId) (s : State) (hs :
    s0.agree A s) (hw : partsIn [.out, .sca, .obj, .fns, .tracer] A = true) : FrameOut A s0
    (execContextDestroyComplete context s) := by
  unfold execContextDestroyComplete
  try dsimp only
  repeat' (first
      | with_reducible exact frameOut_fault | (with_reducible apply frameOut_next)
      | (with_reducible refine frameOut_ite ?_ ?_) | with_reducible assumption | (with_reducible intro _)
      | with_reducible apply freeContext_frame | (with_reducible exact partsIn_trans (by decide) hw)
      | (with_reducible refine ite_frame ?_ ?_) | split | (dsimp only))

theorem contextCreateCmd_frame {A : List Part} {s0 : State} (bad : Bool) (o : Origin) (tag : BitVec 32)
    (polder : PolderId) (cls : BitVec 8) (cores : BitVec 512) (s : State) (hs : s0.agree A s)
    (hw : partsIn [.out, .sb, .polders, .keys, .sca, .obj, .fns, .spdm, .tracer, .power, .free] A = true) :
    s0.agree A (contextCreateCmd bad o tag polder cls cores s) := by
  unfold contextCreateCmd
  try dsimp only
  repeat' (first
      | with_reducible assumption | (with_reducible intro _) | with_reducible apply modObj_frame
      | with_reducible apply reply_frame | with_reducible apply runCmd_frame | with_reducible apply zeroSync_frame
      | (with_reducible exact partsIn_trans (by decide) hw) | (with_reducible apply id_frame) | split)

theorem execContextCreate_frame {A : List Part} {s0 : State} (o : Origin) (tag : BitVec 32) (polder : PolderId)
    (cls : BitVec 8) (cores : BitVec 512) (s : State) (hs : s0.agree A s)
    (hw : partsIn [.out, .sb, .polders, .keys, .sca, .obj, .fns, .spdm, .tracer, .power, .free] A = true) :
    FrameOut A s0 (execContextCreate o tag polder cls cores s) := by
  unfold execContextCreate
  try dsimp only
  repeat' (first
      | with_reducible exact frameOut_fault | (with_reducible apply frameOut_next)
      | (with_reducible refine frameOut_ite ?_ ?_) | with_reducible assumption | (with_reducible intro _)
      | with_reducible apply contextCreateCmd_frame | (with_reducible exact partsIn_trans (by decide) hw)
      | (dsimp only))

theorem contextDestroyCmd_frame {A : List Part} {s0 : State} (bad : Bool) (o : Origin) (tag : BitVec 32)
    (context : BitVec 16) (s : State) (hs : s0.agree A s)
    (hw : partsIn [.out, .pins, .sb, .datum, .polders, .cad, .keys, .link, .stack, .tray, .fau, .rings, .coll, .bars, .sca, .obj, .fns, .spdm, .charts, .tracer, .gauge, .power, .pool, .free] A = true) :
    s0.agree A (contextDestroyCmd bad o tag context s) := by
  unfold contextDestroyCmd
  try dsimp only
  repeat' (first
      | with_reducible assumption | (with_reducible intro _) | with_reducible apply beginDestroy_frame
      | with_reducible apply pend_frame | with_reducible apply runCmd_frame
      | (with_reducible exact partsIn_trans (by decide) hw) | (with_reducible apply id_frame)
      | (with_reducible refine ite_frame ?_ ?_) | split)

theorem execContextDestroy_frame {A : List Part} {s0 : State} (o : Origin) (tag : BitVec 32) (context : BitVec 16)
    (s : State) (hs : s0.agree A s)
    (hw : partsIn [.out, .pins, .sb, .datum, .polders, .cad, .keys, .link, .stack, .tray, .fau, .rings, .coll, .bars, .sca, .obj, .fns, .spdm, .charts, .tracer, .gauge, .power, .pool, .free] A = true) :
    FrameOut A s0 (execContextDestroy o tag context s) := by
  unfold execContextDestroy
  try dsimp only
  repeat' (first
      | with_reducible exact frameOut_fault | (with_reducible apply frameOut_next)
      | (with_reducible refine frameOut_ite ?_ ?_) | with_reducible assumption | (with_reducible intro _)
      | with_reducible apply contextDestroyCmd_frame | (with_reducible exact partsIn_trans (by decide) hw)
      | (dsimp only))

theorem queueCreateCmd_frame {A : List Part} {s0 : State} (bad : Bool) (o : Origin) (tag : BitVec 32)
    (context : BitVec 16) (ring : BitVec 16) (depth : BitVec 16) (addr : BitVec 64) (s : State) (hs : s0.agree A s)
    (hw : partsIn [.out, .sb, .polders, .keys, .obj, .fns, .spdm, .tracer, .power, .free] A = true) : s0.agree A
    (queueCreateCmd bad o tag context ring depth addr s) := by
  unfold queueCreateCmd
  try dsimp only
  repeat' (first
      | with_reducible assumption | (with_reducible intro _) | with_reducible apply modObj_frame
      | with_reducible apply reply_frame | with_reducible apply runCmd_frame
      | (with_reducible exact partsIn_trans (by decide) hw) | (with_reducible apply id_frame)
      | (with_reducible refine ite_frame ?_ ?_) | split)

theorem execQueueCreate_frame {A : List Part} {s0 : State} (o : Origin) (tag : BitVec 32) (context : BitVec 16)
    (ring : BitVec 16) (depth : BitVec 16) (addr : BitVec 64) (s : State) (hs : s0.agree A s)
    (hw : partsIn [.out, .sb, .polders, .keys, .obj, .fns, .spdm, .tracer, .power, .free] A = true) : FrameOut A s0
    (execQueueCreate o tag context ring depth addr s) := by
  unfold execQueueCreate
  try dsimp only
  repeat' (first
      | with_reducible exact frameOut_fault | (with_reducible apply frameOut_next)
      | (with_reducible refine frameOut_ite ?_ ?_) | with_reducible assumption | (with_reducible intro _)
      | with_reducible apply queueCreateCmd_frame | (with_reducible exact partsIn_trans (by decide) hw)
      | (dsimp only))

theorem queueDestroyCmd_frame {A : List Part} {s0 : State} (bad : Bool) (o : Origin) (tag : BitVec 32)
    (queue : BitVec 8) (s : State) (hs : s0.agree A s)
    (hw : partsIn [.out, .sb, .polders, .keys, .obj, .fns, .spdm, .tracer, .power, .free] A = true) : s0.agree A
    (queueDestroyCmd bad o tag queue s) := by
  unfold queueDestroyCmd
  try dsimp only
  repeat' (first
      | with_reducible assumption | (with_reducible intro _) | with_reducible apply modQueue_frame
      | with_reducible apply pend_frame | with_reducible apply runCmd_frame | with_reducible apply settleQueue_frame
      | with_reducible apply squashQueue_frame | (with_reducible exact partsIn_trans (by decide) hw) | split)

theorem execQueueDestroy_frame {A : List Part} {s0 : State} (o : Origin) (tag : BitVec 32) (queue : BitVec 8)
    (s : State) (hs : s0.agree A s)
    (hw : partsIn [.out, .sb, .polders, .keys, .obj, .fns, .spdm, .tracer, .power, .free] A = true) : FrameOut A s0
    (execQueueDestroy o tag queue s) := by
  unfold execQueueDestroy
  try dsimp only
  repeat' (first
      | with_reducible exact frameOut_fault | (with_reducible apply frameOut_next)
      | (with_reducible refine frameOut_ite ?_ ?_) | with_reducible assumption | (with_reducible intro _)
      | with_reducible apply queueDestroyCmd_frame | (with_reducible exact partsIn_trans (by decide) hw)
      | (dsimp only))

theorem releaseEarly_frame {A : List Part} {s0 : State} (fn : FnId) (s : State) (hs : s0.agree A s)
    (hw : partsIn [.out, .obj, .fns, .tracer] A = true) : s0.agree A (releaseEarly fn s) := by
  unfold releaseEarly
  try dsimp only
  repeat' (first
      | with_reducible assumption | (with_reducible intro _) | with_reducible apply modObj_frame
      | with_reducible apply postEvent_frame | (with_reducible exact partsIn_trans (by decide) hw)
      | (with_reducible apply foldl_frame) | (dsimp only))

theorem eventRingCreateCmd_frame {A : List Part} {s0 : State} (bad : Bool) (o : Origin) (tag : BitVec 32)
    (size : BitVec 32) (vector : BitVec 16) (addr : BitVec 64) (s : State) (hs : s0.agree A s)
    (hw : partsIn [.out, .sb, .polders, .keys, .obj, .fns, .spdm, .tracer, .power, .free] A = true) : s0.agree A
    (eventRingCreateCmd bad o tag size vector addr s) := by
  unfold eventRingCreateCmd
  try dsimp only
  repeat' (first
      | with_reducible assumption | (with_reducible intro _) | with_reducible apply modObj_frame
      | with_reducible apply releaseEarly_frame | with_reducible apply reply_frame
      | with_reducible apply runCmd_frame | (with_reducible exact partsIn_trans (by decide) hw)
      | (with_reducible apply id_frame) | (with_reducible refine ite_frame ?_ ?_) | split)

theorem execEventRingCreate_frame {A : List Part} {s0 : State} (o : Origin) (tag : BitVec 32) (size : BitVec 32)
    (vector : BitVec 16) (addr : BitVec 64) (s : State) (hs : s0.agree A s)
    (hw : partsIn [.out, .sb, .polders, .keys, .obj, .fns, .spdm, .tracer, .power, .free] A = true) : FrameOut A s0
    (execEventRingCreate o tag size vector addr s) := by
  unfold execEventRingCreate
  try dsimp only
  repeat' (first
      | with_reducible exact frameOut_fault | (with_reducible apply frameOut_next)
      | (with_reducible refine frameOut_ite ?_ ?_) | with_reducible assumption | (with_reducible intro _)
      | with_reducible apply eventRingCreateCmd_frame | (with_reducible exact partsIn_trans (by decide) hw)
      | (dsimp only))

theorem settleRing_frame {A : List Part} {s0 : State} (fn : FnId) (id : BitVec 9) (s : State) (hs : s0.agree A s)
    (hw : partsIn [.out, .obj, .fns, .tracer] A = true) : s0.agree A (settleRing fn id s) := by
  unfold settleRing
  try dsimp only
  repeat' (first
      | with_reducible assumption | (with_reducible intro _) | with_reducible apply finishAll_frame
      | with_reducible apply modObj_frame | (with_reducible exact partsIn_trans (by decide) hw)
      | (with_reducible apply id_frame) | (with_reducible refine ite_frame ?_ ?_) | split)

theorem eventRingDestroyCmd_frame {A : List Part} {s0 : State} (bad : Bool) (o : Origin) (tag : BitVec 32)
    (ring : BitVec 16) (s : State) (hs : s0.agree A s)
    (hw : partsIn [.out, .sb, .polders, .keys, .obj, .fns, .spdm, .tracer, .power, .free] A = true) : s0.agree A
    (eventRingDestroyCmd bad o tag ring s) := by
  unfold eventRingDestroyCmd
  try dsimp only
  repeat' (first
      | with_reducible assumption | (with_reducible intro _) | with_reducible apply modRing_frame
      | with_reducible apply pend_frame | with_reducible apply runCmd_frame | with_reducible apply settleRing_frame
      | (with_reducible exact partsIn_trans (by decide) hw) | (with_reducible apply id_frame)
      | (with_reducible refine ite_frame ?_ ?_) | split)

theorem execEventRingDestroy_frame {A : List Part} {s0 : State} (o : Origin) (tag : BitVec 32) (ring : BitVec 16)
    (s : State) (hs : s0.agree A s)
    (hw : partsIn [.out, .sb, .polders, .keys, .obj, .fns, .spdm, .tracer, .power, .free] A = true) : FrameOut A s0
    (execEventRingDestroy o tag ring s) := by
  unfold execEventRingDestroy
  try dsimp only
  repeat' (first
      | with_reducible exact frameOut_fault | (with_reducible apply frameOut_next)
      | (with_reducible refine frameOut_ite ?_ ?_) | with_reducible assumption | (with_reducible intro _)
      | with_reducible apply eventRingDestroyCmd_frame | (with_reducible exact partsIn_trans (by decide) hw)
      | (dsimp only))

theorem fenceCreateCmd_frame {A : List Part} {s0 : State} (bad : Bool) (o : Origin) (tag : BitVec 32)
    (context : BitVec 16) (s : State) (hs : s0.agree A s)
    (hw : partsIn [.out, .sb, .polders, .keys, .obj, .fns, .spdm, .tracer, .power, .free] A = true) : s0.agree A
    (fenceCreateCmd bad o tag context s) := by
  unfold fenceCreateCmd
  try dsimp only
  repeat' (first
      | with_reducible assumption | (with_reducible intro _) | with_reducible apply modObj_frame
      | with_reducible apply reply_frame | with_reducible apply runCmd_frame
      | (with_reducible exact partsIn_trans (by decide) hw) | (with_reducible apply id_frame))

theorem execFenceCreate_frame {A : List Part} {s0 : State} (o : Origin) (tag : BitVec 32) (context : BitVec 16)
    (s : State) (hs : s0.agree A s)
    (hw : partsIn [.out, .sb, .polders, .keys, .obj, .fns, .spdm, .tracer, .power, .free] A = true) : FrameOut A s0
    (execFenceCreate o tag context s) := by
  unfold execFenceCreate
  try dsimp only
  repeat' (first
      | with_reducible exact frameOut_fault | (with_reducible apply frameOut_next)
      | (with_reducible refine frameOut_ite ?_ ?_) | with_reducible assumption | (with_reducible intro _)
      | with_reducible apply fenceCreateCmd_frame | (with_reducible exact partsIn_trans (by decide) hw)
      | (dsimp only))

theorem fenceShareCmd_frame {A : List Part} {s0 : State} (bad : Bool) (o : Origin) (tag : BitVec 32)
    (fence : BitVec 16) (context : BitVec 16) (s : State) (hs : s0.agree A s)
    (hw : partsIn [.out, .sb, .polders, .keys, .obj, .fns, .spdm, .tracer, .power, .free] A = true) : s0.agree A
    (fenceShareCmd bad o tag fence context s) := by
  unfold fenceShareCmd
  try dsimp only
  repeat' (first
      | with_reducible assumption | (with_reducible intro _) | with_reducible apply modFence_frame
      | with_reducible apply reply_frame | with_reducible apply runCmd_frame
      | (with_reducible exact partsIn_trans (by decide) hw) | (with_reducible refine ite_frame ?_ ?_) | split)

theorem execFenceShare_frame {A : List Part} {s0 : State} (o : Origin) (tag : BitVec 32) (fence : BitVec 16)
    (context : BitVec 16) (s : State) (hs : s0.agree A s)
    (hw : partsIn [.out, .sb, .polders, .keys, .obj, .fns, .spdm, .tracer, .power, .free] A = true) : FrameOut A s0
    (execFenceShare o tag fence context s) := by
  unfold execFenceShare
  try dsimp only
  repeat' (first
      | with_reducible exact frameOut_fault | (with_reducible apply frameOut_next)
      | (with_reducible refine frameOut_ite ?_ ?_) | with_reducible assumption | (with_reducible intro _)
      | with_reducible apply fenceShareCmd_frame | (with_reducible exact partsIn_trans (by decide) hw)
      | (dsimp only))

theorem fenceDestroyCmd_frame {A : List Part} {s0 : State} (bad : Bool) (o : Origin) (tag : BitVec 32)
    (fence : BitVec 16) (s : State) (hs : s0.agree A s)
    (hw : partsIn [.out, .sb, .polders, .keys, .obj, .fns, .spdm, .tracer, .power, .free] A = true) : s0.agree A
    (fenceDestroyCmd bad o tag fence s) := by
  unfold fenceDestroyCmd
  try dsimp only
  repeat' (first
      | with_reducible assumption | (with_reducible intro _) | with_reducible apply abandonFence_frame
      | with_reducible apply finish_frame | with_reducible apply pend_frame | with_reducible apply runCmd_frame
      | (with_reducible exact partsIn_trans (by decide) hw) | split)

theorem execFenceDestroy_frame {A : List Part} {s0 : State} (o : Origin) (tag : BitVec 32) (fence : BitVec 16)
    (s : State) (hs : s0.agree A s)
    (hw : partsIn [.out, .sb, .polders, .keys, .obj, .fns, .spdm, .tracer, .power, .free] A = true) : FrameOut A s0
    (execFenceDestroy o tag fence s) := by
  unfold execFenceDestroy
  try dsimp only
  repeat' (first
      | with_reducible exact frameOut_fault | (with_reducible apply frameOut_next)
      | (with_reducible refine frameOut_ite ?_ ?_) | with_reducible assumption | (with_reducible intro _)
      | with_reducible apply fenceDestroyCmd_frame | (with_reducible exact partsIn_trans (by decide) hw)
      | (dsimp only))

theorem memobjCreateCmd_frame {A : List Part} {s0 : State} (bad : Bool) (o : Origin) (tag : BitVec 32)
    (polder : PolderId) (s : State) (hs : s0.agree A s)
    (hw : partsIn [.out, .sb, .polders, .keys, .obj, .fns, .spdm, .tracer, .power, .free] A = true) : s0.agree A
    (memobjCreateCmd bad o tag polder s) := by
  unfold memobjCreateCmd
  try dsimp only
  repeat' (first
      | with_reducible assumption | (with_reducible intro _) | with_reducible apply modObj_frame
      | with_reducible apply reply_frame | with_reducible apply runCmd_frame
      | (with_reducible exact partsIn_trans (by decide) hw) | (with_reducible apply id_frame) | split)

theorem execMemobjCreate_frame {A : List Part} {s0 : State} (o : Origin) (tag : BitVec 32) (polder : PolderId)
    (s : State) (hs : s0.agree A s)
    (hw : partsIn [.out, .sb, .polders, .keys, .obj, .fns, .spdm, .tracer, .power, .free] A = true) : FrameOut A s0
    (execMemobjCreate o tag polder s) := by
  unfold execMemobjCreate
  try dsimp only
  repeat' (first
      | with_reducible exact frameOut_fault | (with_reducible apply frameOut_next)
      | (with_reducible refine frameOut_ite ?_ ?_) | with_reducible assumption | (with_reducible intro _)
      | with_reducible apply memobjCreateCmd_frame | (with_reducible exact partsIn_trans (by decide) hw)
      | (dsimp only))

theorem doomMemobj_frame {A : List Part} {s0 : State} (m : BitVec 13) (s : State) (hs : s0.agree A s)
    (hw : partsIn [.obj] A = true) : s0.agree A (doomMemobj m s) := by
  unfold doomMemobj
  try dsimp only
  repeat' (first
      | with_reducible assumption | (with_reducible intro _) | with_reducible apply modMemobj_frame
      | (with_reducible exact partsIn_trans (by decide) hw) | (with_reducible refine ite_frame ?_ ?_) | split)

theorem memobjFreeCmd_frame {A : List Part} {s0 : State} (bad : Bool) (o : Origin) (tag : BitVec 32)
    (memobj : BitVec 16) (s : State) (hs : s0.agree A s)
    (hw : partsIn [.out, .sb, .polders, .keys, .obj, .fns, .spdm, .tracer, .power, .free] A = true) : s0.agree A
    (memobjFreeCmd bad o tag memobj s) := by
  unfold memobjFreeCmd
  try dsimp only
  repeat' (first
      | with_reducible assumption | (with_reducible intro _) | with_reducible apply doomMemobj_frame
      | with_reducible apply modMemobj_frame | with_reducible apply pend_frame | with_reducible apply runCmd_frame
      | (with_reducible exact partsIn_trans (by decide) hw))

theorem execMemobjFree_frame {A : List Part} {s0 : State} (o : Origin) (tag : BitVec 32) (memobj : BitVec 16)
    (s : State) (hs : s0.agree A s)
    (hw : partsIn [.out, .sb, .polders, .keys, .obj, .fns, .spdm, .tracer, .power, .free] A = true) : FrameOut A s0
    (execMemobjFree o tag memobj s) := by
  unfold execMemobjFree
  try dsimp only
  repeat' (first
      | with_reducible exact frameOut_fault | (with_reducible apply frameOut_next)
      | (with_reducible refine frameOut_ite ?_ ?_) | with_reducible assumption | (with_reducible intro _)
      | with_reducible apply memobjFreeCmd_frame | (with_reducible exact partsIn_trans (by decide) hw)
      | (dsimp only))

theorem execMemobjLastReference_frame {A : List Part} {s0 : State} (memobj : BitVec 13) (s : State) (hs :
    s0.agree A s)
    (hw : partsIn [.out, .pins, .sb, .datum, .polders, .cad, .keys, .link, .stack, .tray, .fau, .rings, .coll, .bars, .sca, .obj, .fns, .charts, .tracer, .gauge, .power, .pool, .free] A = true) :
    FrameOut A s0 (execMemobjLastReference memobj s) := by
  unfold execMemobjLastReference
  try dsimp only
  repeat' (first
      | with_reducible exact frameOut_fault | (with_reducible apply frameOut_next)
      | (with_reducible refine frameOut_ite ?_ ?_) | with_reducible assumption | (with_reducible intro _)
      | with_reducible apply resume_frame | with_reducible apply settleMemobjs_frame
      | with_reducible apply startRelease_frame | (with_reducible exact partsIn_trans (by decide) hw)
      | (with_reducible apply foldl_frame) | (with_reducible refine ite_frame ?_ ?_) | split
      | (with_reducible refine agree_fau ?_ ?_) | (dsimp only))

end Sys2Proof.Machine
end

