-- ==== Sys2Proof/Laws/FrameTeardown.lean ====
section
/-! SUPPORT. Which parts of the state the operations of Machine/Teardown.lean may change (State.agree). -/

namespace Sys2Proof.Machine

theorem dropUnreleased_frame {A : List Part} {s0 : State} (p : PolderId) (s : State) (hs : s0.agree A s)
    (hw : partsIn [.out, .polders, .link, .free] A = true) : s0.agree A (dropUnreleased p s) := by
  unfold dropUnreleased
  try dsimp only
  repeat' (first
      | with_reducible assumption | (with_reducible intro _) | with_reducible apply modPolderCounters_frame
      | with_reducible apply sendNotice_frame | (with_reducible exact partsIn_trans (by decide) hw)
      | (with_reducible apply foldl_frame) | (with_reducible refine agree_link ?_ ?_) | (dsimp only))

theorem dropHolds_frame {A : List Part} {s0 : State} (p : PolderId) (s : State) (hs : s0.agree A s)
    (hw : partsIn [.out, .fau, .free] A = true) : s0.agree A (dropHolds p s) := by
  unfold dropHolds
  try dsimp only
  repeat' (first
      | with_reducible assumption | (with_reducible intro _) | with_reducible apply sendNotice_frame
      | (with_reducible exact partsIn_trans (by decide) hw) | (with_reducible apply foldl_frame)
      | (with_reducible refine agree_fau ?_ ?_) | (dsimp only))

theorem endRings_frame {A : List Part} {s0 : State} (p : PolderId) (s : State) (hs : s0.agree A s)
    (hw : partsIn [.out, .rings, .obj, .fns, .tracer] A = true) : s0.agree A (endRings p s) := by
  unfold endRings
  try dsimp only
  repeat' (first
      | with_reducible assumption | (with_reducible intro _) | with_reducible apply emit_frame
      | with_reducible apply finishAll_frame | with_reducible apply modRings_frame
      | (with_reducible exact partsIn_trans (by decide) hw) | (with_reducible apply foldl_frame)
      | (with_reducible refine ite_frame ?_ ?_) | split | (dsimp only))

theorem endMarks_frame {A : List Part} {s0 : State} (p : PolderId) (s : State) (hs : s0.agree A s)
    (hw : partsIn [.out, .datum, .obj, .fns, .tracer, .free] A = true) : s0.agree A (endMarks p s) := by
  unfold endMarks
  try dsimp only
  repeat' (first
      | with_reducible assumption | (with_reducible intro _) | with_reducible apply dropMarks_frame
      | with_reducible apply endHold_frame | with_reducible apply finish_frame
      | (with_reducible exact partsIn_trans (by decide) hw) | (with_reducible apply foldl_frame) | split
      | (dsimp only))

theorem revokeExtents_frame {A : List Part} {s0 : State} (p : PolderId) (s : State) (hs : s0.agree A s)
    (hw : partsIn [.out, .sb, .polders, .tray, .obj, .fns, .tracer, .free] A = true) : s0.agree A
    (revokeExtents p s) := by
  unfold revokeExtents
  try dsimp only
  repeat' (first
      | with_reducible assumption | (with_reducible intro _) | with_reducible apply beginRevoke_frame
      | with_reducible apply finishAll_frame | with_reducible apply modExtent_frame
      | (with_reducible exact partsIn_trans (by decide) hw) | (with_reducible apply foldl_frame) | split
      | (dsimp only))

theorem squashPolder_frame {A : List Part} {s0 : State} (p : PolderId) (s : State) (hs : s0.agree A s)
    (hw : partsIn [.out, .pins, .sb, .datum, .polders, .cad, .keys, .link, .stack, .tray, .fau, .rings, .coll, .bars, .sca, .obj, .fns, .charts, .tracer, .gauge, .power, .pool, .free] A = true) :
    s0.agree A (squashPolder p s) := by
  unfold squashPolder
  try dsimp only
  repeat' (first
      | with_reducible assumption | (with_reducible intro _) | with_reducible apply abandonJobs_frame
      | with_reducible apply beginDestroy_frame | with_reducible apply dropHolds_frame
      | with_reducible apply dropPieces_frame | with_reducible apply dropUnreleased_frame
      | with_reducible apply endBarriers_frame | with_reducible apply endColl_frame
      | with_reducible apply endExport_frame | with_reducible apply endImport_frame
      | with_reducible apply endMarks_frame | with_reducible apply endRings_frame
      | with_reducible apply endStackAccesses_frame | with_reducible apply finishAll_frame
      | with_reducible apply modColl_frame | with_reducible apply modObj_frame
      | with_reducible apply revokeExtents_frame | with_reducible apply setSlot_frame
      | with_reducible apply zeroizeSlot_frame | (with_reducible exact partsIn_trans (by decide) hw)
      | (with_reducible apply foldl_frame) | (with_reducible refine ite_frame ?_ ?_) | split
      | (with_reducible refine agree_cad ?_ ?_) | (with_reducible refine agree_link ?_ ?_)
      | (with_reducible refine agree_upd (W := [.cad, .link]) ?_ rfl (by intro p hp; cases p <;> (try exact absurd hp (by decide)) <;> exact rfl) ?_)
      | (dsimp only))

theorem beginTeardown_frame {A : List Part} {s0 : State} (p : PolderId) (forced : Bool) (waiters : List
    (Origin × BitVec 32)) (s : State) (hs : s0.agree A s)
    (hw : partsIn [.out, .pins, .sb, .datum, .polders, .cad, .keys, .link, .stack, .tray, .fau, .rings, .coll, .bars, .sca, .obj, .fns, .charts, .tracer, .gauge, .power, .pool, .free] A = true) :
    s0.agree A (beginTeardown p forced waiters s) := by
  unfold beginTeardown
  try dsimp only
  repeat' (first
      | with_reducible assumption | (with_reducible intro _) | with_reducible apply modPolder_frame
      | with_reducible apply resume_frame | with_reducible apply squashPolder_frame
      | (with_reducible exact partsIn_trans (by decide) hw) | split)

theorem squashRequests_frame {A : List Part} {s0 : State} (p : PolderId) (s : State) (hs : s0.agree A s)
    (hw : partsIn [.out, .pins, .sb, .polders, .cad, .keys, .link, .stack, .fau, .rings, .obj, .fns, .tracer, .gauge, .power, .free] A = true) :
    s0.agree A (squashRequests p s) := by
  unfold squashRequests
  try dsimp only
  repeat' (first
      | with_reducible assumption | (with_reducible intro _) | with_reducible apply sendCompletion_frame
      | (with_reducible exact partsIn_trans (by decide) hw) | (with_reducible apply foldl_frame)
      | (with_reducible refine agree_link ?_ ?_) | (with_reducible refine agree_fau ?_ ?_)
      | (with_reducible refine agree_upd (W := [.link, .fau]) ?_ rfl (by intro p hp; cases p <;> (try exact absurd hp (by decide)) <;> exact rfl) ?_)
      | (dsimp only))

theorem squashRest_frame {A : List Part} {s0 : State} (p : PolderId) (s : State) (hs : s0.agree A s)
    (hw : partsIn [.out, .pins, .sb, .polders, .cad, .keys, .link, .stack, .tray, .fau, .rings, .obj, .fns, .tracer, .gauge, .power, .free] A = true) :
    s0.agree A (squashRest p s) := by
  unfold squashRest
  try dsimp only
  repeat' (first
      | with_reducible assumption | (with_reducible intro _) | with_reducible apply endDescriptor_frame
      | with_reducible apply finishAll_frame | with_reducible apply modExtent_frame
      | with_reducible apply reclaimLocation_frame | with_reducible apply squashRequests_frame
      | (with_reducible exact partsIn_trans (by decide) hw) | (with_reducible apply foldl_frame) | split
      | (dsimp only))

theorem dropStreams_frame {A : List Part} {s0 : State} (p : PolderId) (s : State) (hs : s0.agree A s)
    (hw : partsIn [.out, .polders, .link, .free] A = true) : s0.agree A (dropStreams p s) := by
  unfold dropStreams
  try dsimp only
  repeat' (first
      | with_reducible assumption | (with_reducible intro _) | with_reducible apply dropUnreleased_frame
      | (with_reducible exact partsIn_trans (by decide) hw) | (with_reducible refine agree_link ?_ ?_))

theorem dropRecords_frame {A : List Part} {s0 : State} (p : PolderId) (s : State) (hs : s0.agree A s)
    (hw : partsIn [.fau] A = true) : s0.agree A (dropRecords p s) := by
  unfold dropRecords
  try dsimp only
  repeat' (first
      | with_reducible assumption | (with_reducible intro _) | (with_reducible exact partsIn_trans (by decide) hw)
      | (with_reducible refine agree_fau ?_ ?_))

theorem dropPlots_frame {A : List Part} {s0 : State} (p : PolderId) (slot : BitVec 12) (s : State) (hs :
    s0.agree A s) (hw : partsIn [.out, .stack, .obj, .fns, .tracer] A = true) : s0.agree A
    (dropPlots p slot s) := by
  unfold dropPlots
  try dsimp only
  repeat' (first
      | with_reducible assumption | (with_reducible intro _) | with_reducible apply dropPlot_frame
      | with_reducible apply finishAll_frame | with_reducible apply setPlot_frame
      | (with_reducible exact partsIn_trans (by decide) hw) | (with_reducible apply foldl_frame)
      | (with_reducible refine agree_stack ?_ ?_) | (dsimp only))

theorem dropRegions_frame {A : List Part} {s0 : State} (p : PolderId) (s : State) (hs : s0.agree A s)
    (hw : partsIn [.out, .fau, .obj, .fns, .tracer] A = true) : s0.agree A (dropRegions p s) := by
  unfold dropRegions
  try dsimp only
  repeat' (first
      | with_reducible assumption | (with_reducible intro _) | with_reducible apply finishAll_frame
      | with_reducible apply removeRegion_frame | (with_reducible exact partsIn_trans (by decide) hw)
      | (with_reducible apply foldl_frame) | (with_reducible refine ite_frame ?_ ?_) | split | (dsimp only))

theorem dropMemobjs_frame {A : List Part} {s0 : State} (p : PolderId) (s : State) (hs : s0.agree A s)
    (hw : partsIn [.out, .obj, .fns, .tracer] A = true) : s0.agree A (dropMemobjs p s) := by
  unfold dropMemobjs
  try dsimp only
  repeat' (first
      | with_reducible assumption | (with_reducible intro _) | with_reducible apply finishAll_frame
      | with_reducible apply modObj_frame | (with_reducible exact partsIn_trans (by decide) hw)
      | (with_reducible apply foldl_frame) | (dsimp only))

theorem dropExtents_frame {A : List Part} {s0 : State} (p : PolderId) (s : State) (hs : s0.agree A s)
    (hw : partsIn [.out, .tray, .obj, .fns, .tracer] A = true) : s0.agree A (dropExtents p s) := by
  unfold dropExtents
  try dsimp only
  repeat' (first
      | with_reducible assumption | (with_reducible intro _) | with_reducible apply finishAll_frame
      | with_reducible apply modExtent_frame | with_reducible apply reclaimLocation_frame
      | (with_reducible exact partsIn_trans (by decide) hw) | (with_reducible apply foldl_frame) | (dsimp only))

theorem dropGroups_frame {A : List Part} {s0 : State} (p : PolderId) (s : State) (hs : s0.agree A s)
    (hw : partsIn [.out, .fau, .rings, .coll, .bars, .obj, .fns, .tracer] A = true) : s0.agree A
    (dropGroups p s) := by
  unfold dropGroups
  try dsimp only
  repeat' (first
      | with_reducible assumption | (with_reducible intro _) | with_reducible apply dropRing_frame
      | with_reducible apply finishAll_frame | with_reducible apply modBars_frame
      | with_reducible apply modColl_frame | with_reducible apply modRings_frame
      | (with_reducible exact partsIn_trans (by decide) hw) | (with_reducible apply foldl_frame) | split
      | (dsimp only))

theorem dropKeys_frame {A : List Part} {s0 : State} (q : Polder) (s : State) (hs : s0.agree A s)
    (hw : partsIn [.out, .pins, .sb, .polders, .cad, .keys, .stack, .obj, .fns, .tracer, .power, .free] A = true) :
    s0.agree A (dropKeys q s) := by
  unfold dropKeys
  try dsimp only
  repeat' (first
      | with_reducible assumption | (with_reducible intro _) | with_reducible apply invalidateHandle_frame
      | with_reducible apply retryLoads_frame | with_reducible apply zeroizeSlot_frame
      | (with_reducible exact partsIn_trans (by decide) hw) | split | (with_reducible refine agree_cad ?_ ?_))

theorem removePolderState_frame {A : List Part} {s0 : State} (q : Polder) (s : State) (hs : s0.agree A s)
    (hw : partsIn [.out, .pins, .sb, .polders, .cad, .keys, .link, .stack, .tray, .fau, .rings, .coll, .bars, .sca, .obj, .fns, .tracer, .gauge, .power, .pool, .free] A = true) :
    s0.agree A (removePolderState q s) := by
  unfold removePolderState
  try dsimp only
  repeat' (first
      | with_reducible assumption | (with_reducible intro _) | with_reducible apply closeEntry_frame
      | with_reducible apply dropExtents_frame | with_reducible apply dropGroups_frame
      | with_reducible apply dropKeys_frame | with_reducible apply dropMemobjs_frame
      | with_reducible apply dropPlots_frame | with_reducible apply dropRecords_frame
      | with_reducible apply dropRegions_frame | with_reducible apply dropStreams_frame
      | with_reducible apply freeContext_frame | with_reducible apply modPolder_frame
      | (with_reducible exact partsIn_trans (by decide) hw) | (with_reducible apply foldl_frame) | split
      | (with_reducible refine agree_pool ?_ ?_) | (dsimp only))

theorem drainPolder_frame {A : List Part} {s0 : State} (q : Polder) (t : Teardown) (s : State) (hs : s0.agree A s)
    (hw : partsIn [.out, .pins, .sb, .polders, .cad, .keys, .link, .stack, .tray, .fau, .rings, .coll, .bars, .sca, .obj, .fns, .tracer, .gauge, .power, .pool, .free] A = true) :
    s0.agree A (drainPolder q t s) := by
  unfold drainPolder
  try dsimp only
  repeat' (first
      | with_reducible assumption | (with_reducible intro _) | with_reducible apply modPolder_frame
      | with_reducible apply removePolderState_frame | with_reducible apply squashRest_frame
      | with_reducible apply writeFault_frame | (with_reducible exact partsIn_trans (by decide) hw)
      | (with_reducible refine ite_frame ?_ ?_) | split)

theorem execTeardownDrained_frame {A : List Part} {s0 : State} (polder : PolderId) (s : State) (hs : s0.agree A s)
    (hw : partsIn [.out, .pins, .sb, .polders, .cad, .keys, .link, .stack, .tray, .fau, .rings, .coll, .bars, .sca, .obj, .fns, .tracer, .gauge, .power, .pool, .free] A = true) :
    FrameOut A s0 (execTeardownDrained polder s) := by
  unfold execTeardownDrained
  try dsimp only
  repeat' (first
      | with_reducible exact frameOut_fault | (with_reducible apply frameOut_next)
      | (with_reducible refine frameOut_ite ?_ ?_) | with_reducible assumption | (with_reducible intro _)
      | with_reducible apply drainPolder_frame | (with_reducible exact partsIn_trans (by decide) hw)
      | (with_reducible refine ite_frame ?_ ?_) | split | (dsimp only))

theorem completeTeardown_frame {A : List Part} {s0 : State} (q : Polder) (t : Teardown) (s : State) (hs :
    s0.agree A s)
    (hw : partsIn [.out, .pins, .sb, .datum, .polders, .cad, .keys, .link, .stack, .tray, .fau, .rings, .coll, .bars, .sca, .obj, .fns, .charts, .tracer, .gauge, .power, .pool, .free] A = true) :
    s0.agree A (completeTeardown q t s) := by
  unfold completeTeardown
  try dsimp only
  repeat' (first
      | with_reducible assumption | (with_reducible intro _) | with_reducible apply dropUnreleased_frame
      | with_reducible apply finishAll_frame | with_reducible apply resume_frame
      | (with_reducible exact partsIn_trans (by decide) hw) | (with_reducible refine agree_polders ?_ ?_))

theorem execTeardownComplete_frame {A : List Part} {s0 : State} (polder : PolderId) (s : State) (hs : s0.agree A s)
    (hw : partsIn [.out, .pins, .sb, .datum, .polders, .cad, .keys, .link, .stack, .tray, .fau, .rings, .coll, .bars, .sca, .obj, .fns, .charts, .tracer, .gauge, .power, .pool, .free] A = true) :
    FrameOut A s0 (execTeardownComplete polder s) := by
  unfold execTeardownComplete
  try dsimp only
  repeat' (first
      | with_reducible exact frameOut_fault | (with_reducible apply frameOut_next)
      | (with_reducible refine frameOut_ite ?_ ?_) | with_reducible assumption | (with_reducible intro _)
      | with_reducible apply completeTeardown_frame | (with_reducible exact partsIn_trans (by decide) hw)
      | (with_reducible refine ite_frame ?_ ?_) | split | (dsimp only))

theorem polderTeardownCmd_frame {A : List Part} {s0 : State} (bad : Bool) (o : Origin) (tag : BitVec 32)
    (polder : PolderId) (s : State) (hs : s0.agree A s)
    (hw : partsIn [.out, .pins, .sb, .datum, .polders, .cad, .keys, .link, .stack, .tray, .fau, .rings, .coll, .bars, .sca, .obj, .fns, .spdm, .charts, .tracer, .gauge, .power, .pool, .free] A = true) :
    s0.agree A (polderTeardownCmd bad o tag polder s) := by
  unfold polderTeardownCmd
  try dsimp only
  repeat' (first
      | with_reducible assumption | (with_reducible intro _) | with_reducible apply beginTeardown_frame
      | with_reducible apply pend_frame | with_reducible apply runCmd_frame
      | (with_reducible exact partsIn_trans (by decide) hw))

theorem execPolderTeardown_frame {A : List Part} {s0 : State} (o : Origin) (tag : BitVec 32) (polder : PolderId)
    (s : State) (hs : s0.agree A s)
    (hw : partsIn [.out, .pins, .sb, .datum, .polders, .cad, .keys, .link, .stack, .tray, .fau, .rings, .coll, .bars, .sca, .obj, .fns, .spdm, .charts, .tracer, .gauge, .power, .pool, .free] A = true) :
    FrameOut A s0 (execPolderTeardown o tag polder s) := by
  unfold execPolderTeardown
  try dsimp only
  repeat' (first
      | with_reducible exact frameOut_fault | (with_reducible apply frameOut_next)
      | (with_reducible refine frameOut_ite ?_ ?_) | with_reducible assumption | (with_reducible intro _)
      | with_reducible apply polderTeardownCmd_frame | (with_reducible exact partsIn_trans (by decide) hw)
      | (dsimp only))

theorem resetPolderCmd_frame {A : List Part} {s0 : State} (bad : Bool) (o : Origin) (tag : BitVec 32)
    (polder : PolderId) (s : State) (hs : s0.agree A s)
    (hw : partsIn [.out, .pins, .sb, .datum, .polders, .cad, .keys, .link, .stack, .tray, .fau, .rings, .coll, .bars, .sca, .obj, .fns, .spdm, .charts, .tracer, .gauge, .power, .pool, .free] A = true) :
    s0.agree A (resetPolderCmd bad o tag polder s) := by
  unfold resetPolderCmd
  try dsimp only
  repeat' (first
      | with_reducible assumption | (with_reducible intro _) | with_reducible apply beginTeardown_frame
      | with_reducible apply pend_frame | with_reducible apply runCmd_frame
      | (with_reducible exact partsIn_trans (by decide) hw))

theorem execResetPolder_frame {A : List Part} {s0 : State} (o : Origin) (tag : BitVec 32) (polder : PolderId)
    (s : State) (hs : s0.agree A s)
    (hw : partsIn [.out, .pins, .sb, .datum, .polders, .cad, .keys, .link, .stack, .tray, .fau, .rings, .coll, .bars, .sca, .obj, .fns, .spdm, .charts, .tracer, .gauge, .power, .pool, .free] A = true) :
    FrameOut A s0 (execResetPolder o tag polder s) := by
  unfold execResetPolder
  try dsimp only
  repeat' (first
      | with_reducible exact frameOut_fault | (with_reducible apply frameOut_next)
      | (with_reducible refine frameOut_ite ?_ ?_) | with_reducible assumption | (with_reducible intro _)
      | with_reducible apply resetPolderCmd_frame | (with_reducible exact partsIn_trans (by decide) hw)
      | (dsimp only))

theorem leaveService_frame {A : List Part} {s0 : State} (s : State) (hs : s0.agree A s)
    (hw : partsIn [.out, .pins, .sb, .datum, .polders, .cad, .keys, .link, .stack, .tray, .fau, .rings, .coll, .bars, .sca, .obj, .fns, .charts, .tracer, .gauge, .power, .pool, .free] A = true) :
    s0.agree A (leaveService s) := by
  unfold leaveService
  try dsimp only
  repeat' (first
      | with_reducible assumption | (with_reducible intro _) | with_reducible apply beginTeardown_frame
      | with_reducible apply writeFault_frame | (with_reducible exact partsIn_trans (by decide) hw)
      | (with_reducible apply foldl_frame) | (with_reducible refine agree_sb ?_ ?_) | (dsimp only))

theorem mirrorBoot_frame {A : List Part} {s0 : State} (s : State) (hs : s0.agree A s)
    (hw : partsIn [.out, .obj, .fns, .tracer] A = true) : s0.agree A (mirrorBoot s) := by
  unfold mirrorBoot
  try dsimp only
  repeat' (first
      | with_reducible assumption | (with_reducible intro _) | with_reducible apply postEvent_frame
      | (with_reducible exact partsIn_trans (by decide) hw) | split)

theorem execReady_frame {A : List Part} {s0 : State} (s : State) (hs : s0.agree A s)
    (hw : partsIn [.out, .pins, .boot, .sb, .datum, .polders, .cad, .keys, .link, .stack, .tray, .fau, .rings, .coll, .bars, .sca, .obj, .fns, .charts, .tracer, .gauge, .power, .pool, .free] A = true) :
    FrameOut A s0 (execReady s) := by
  unfold execReady
  try dsimp only
  repeat' (first
      | with_reducible exact frameOut_fault | (with_reducible apply frameOut_next)
      | (with_reducible refine frameOut_ite ?_ ?_) | with_reducible assumption | (with_reducible intro _)
      | with_reducible apply announceBoot_frame | with_reducible apply enterStage_frame
      | with_reducible apply leaveService_frame | with_reducible apply mirrorBoot_frame
      | with_reducible apply modBoot_frame | (with_reducible exact partsIn_trans (by decide) hw)
      | (with_reducible refine ite_frame ?_ ?_) | split | (dsimp only))

end Sys2Proof.Machine
end

