-- ==== Sys2Proof/Laws/State.lean ====
section
/-! SUPPORT. What each field of the state is after each of the small updates: one lemma a field and update. -/

namespace Sys2Proof.Machine

/-! ### emit -/

@[simp] theorem emit_pending (o : Output) (s : State) : (emit o s).pending = s.pending := rfl
@[simp] theorem emit_time (o : Output) (s : State) : (emit o s).time = s.time := rfl
@[simp] theorem emit_chip (o : Output) (s : State) : (emit o s).chip = s.chip := rfl
@[simp] theorem emit_owner (o : Output) (s : State) : (emit o s).owner = s.owner := rfl
@[simp] theorem emit_pins (o : Output) (s : State) : (emit o s).pins = s.pins := rfl
@[simp] theorem emit_boot (o : Output) (s : State) : (emit o s).boot = s.boot := rfl
@[simp] theorem emit_fuses (o : Output) (s : State) : (emit o s).fuses = s.fuses := rfl
@[simp] theorem emit_flash (o : Output) (s : State) : (emit o s).flash = s.flash := rfl
@[simp] theorem emit_lc (o : Output) (s : State) : (emit o s).lc = s.lc := rfl
@[simp] theorem emit_sb (o : Output) (s : State) : (emit o s).sb = s.sb := rfl
@[simp] theorem emit_datum (o : Output) (s : State) : (emit o s).datum = s.datum := rfl
@[simp] theorem emit_polders (o : Output) (s : State) : (emit o s).polders = s.polders := rfl
@[simp] theorem emit_cad (o : Output) (s : State) : (emit o s).cad = s.cad := rfl
@[simp] theorem emit_keys (o : Output) (s : State) : (emit o s).keys = s.keys := rfl
@[simp] theorem emit_link (o : Output) (s : State) : (emit o s).link = s.link := rfl
@[simp] theorem emit_stack (o : Output) (s : State) : (emit o s).stack = s.stack := rfl
@[simp] theorem emit_tray (o : Output) (s : State) : (emit o s).tray = s.tray := rfl
@[simp] theorem emit_fau (o : Output) (s : State) : (emit o s).fau = s.fau := rfl
@[simp] theorem emit_rings (o : Output) (s : State) : (emit o s).rings = s.rings := rfl
@[simp] theorem emit_coll (o : Output) (s : State) : (emit o s).coll = s.coll := rfl
@[simp] theorem emit_bars (o : Output) (s : State) : (emit o s).bars = s.bars := rfl
@[simp] theorem emit_sca (o : Output) (s : State) : (emit o s).sca = s.sca := rfl
@[simp] theorem emit_obj (o : Output) (s : State) : (emit o s).obj = s.obj := rfl
@[simp] theorem emit_fns (o : Output) (s : State) : (emit o s).fns = s.fns := rfl
@[simp] theorem emit_spdm (o : Output) (s : State) : (emit o s).spdm = s.spdm := rfl
@[simp] theorem emit_weirs (o : Output) (s : State) : (emit o s).weirs = s.weirs := rfl
@[simp] theorem emit_charts (o : Output) (s : State) : (emit o s).charts = s.charts := rfl
@[simp] theorem emit_tracer (o : Output) (s : State) : (emit o s).tracer = s.tracer := rfl
@[simp] theorem emit_gauge (o : Output) (s : State) : (emit o s).gauge = s.gauge := rfl
@[simp] theorem emit_power (o : Output) (s : State) : (emit o s).power = s.power := rfl
@[simp] theorem emit_regs (o : Output) (s : State) : (emit o s).regs = s.regs := rfl
@[simp] theorem emit_pool (o : Output) (s : State) : (emit o s).pool = s.pool := rfl
@[simp] theorem emit_free (o : Output) (s : State) : (emit o s).free = s.free := rfl

/-! ### tookFree -/

@[simp] theorem tookFree_pending (s : State) : (tookFree s).pending = s.pending := rfl
@[simp] theorem tookFree_out (s : State) : (tookFree s).out = s.out := rfl
@[simp] theorem tookFree_time (s : State) : (tookFree s).time = s.time := rfl
@[simp] theorem tookFree_chip (s : State) : (tookFree s).chip = s.chip := rfl
@[simp] theorem tookFree_owner (s : State) : (tookFree s).owner = s.owner := rfl
@[simp] theorem tookFree_pins (s : State) : (tookFree s).pins = s.pins := rfl
@[simp] theorem tookFree_boot (s : State) : (tookFree s).boot = s.boot := rfl
@[simp] theorem tookFree_fuses (s : State) : (tookFree s).fuses = s.fuses := rfl
@[simp] theorem tookFree_flash (s : State) : (tookFree s).flash = s.flash := rfl
@[simp] theorem tookFree_lc (s : State) : (tookFree s).lc = s.lc := rfl
@[simp] theorem tookFree_sb (s : State) : (tookFree s).sb = s.sb := rfl
@[simp] theorem tookFree_datum (s : State) : (tookFree s).datum = s.datum := rfl
@[simp] theorem tookFree_polders (s : State) : (tookFree s).polders = s.polders := rfl
@[simp] theorem tookFree_cad (s : State) : (tookFree s).cad = s.cad := rfl
@[simp] theorem tookFree_keys (s : State) : (tookFree s).keys = s.keys := rfl
@[simp] theorem tookFree_link (s : State) : (tookFree s).link = s.link := rfl
@[simp] theorem tookFree_stack (s : State) : (tookFree s).stack = s.stack := rfl
@[simp] theorem tookFree_tray (s : State) : (tookFree s).tray = s.tray := rfl
@[simp] theorem tookFree_fau (s : State) : (tookFree s).fau = s.fau := rfl
@[simp] theorem tookFree_rings (s : State) : (tookFree s).rings = s.rings := rfl
@[simp] theorem tookFree_coll (s : State) : (tookFree s).coll = s.coll := rfl
@[simp] theorem tookFree_bars (s : State) : (tookFree s).bars = s.bars := rfl
@[simp] theorem tookFree_sca (s : State) : (tookFree s).sca = s.sca := rfl
@[simp] theorem tookFree_obj (s : State) : (tookFree s).obj = s.obj := rfl
@[simp] theorem tookFree_fns (s : State) : (tookFree s).fns = s.fns := rfl
@[simp] theorem tookFree_spdm (s : State) : (tookFree s).spdm = s.spdm := rfl
@[simp] theorem tookFree_weirs (s : State) : (tookFree s).weirs = s.weirs := rfl
@[simp] theorem tookFree_charts (s : State) : (tookFree s).charts = s.charts := rfl
@[simp] theorem tookFree_tracer (s : State) : (tookFree s).tracer = s.tracer := rfl
@[simp] theorem tookFree_gauge (s : State) : (tookFree s).gauge = s.gauge := rfl
@[simp] theorem tookFree_power (s : State) : (tookFree s).power = s.power := rfl
@[simp] theorem tookFree_regs (s : State) : (tookFree s).regs = s.regs := rfl
@[simp] theorem tookFree_pool (s : State) : (tookFree s).pool = s.pool := rfl

/-! ### countBy -/

@[simp] theorem countBy_pending (i n : Nat) (s : State) : (countBy i n s).pending = s.pending := rfl
@[simp] theorem countBy_out (i n : Nat) (s : State) : (countBy i n s).out = s.out := rfl
@[simp] theorem countBy_time (i n : Nat) (s : State) : (countBy i n s).time = s.time := rfl
@[simp] theorem countBy_chip (i n : Nat) (s : State) : (countBy i n s).chip = s.chip := rfl
@[simp] theorem countBy_owner (i n : Nat) (s : State) : (countBy i n s).owner = s.owner := rfl
@[simp] theorem countBy_pins (i n : Nat) (s : State) : (countBy i n s).pins = s.pins := rfl
@[simp] theorem countBy_boot (i n : Nat) (s : State) : (countBy i n s).boot = s.boot := rfl
@[simp] theorem countBy_fuses (i n : Nat) (s : State) : (countBy i n s).fuses = s.fuses := rfl
@[simp] theorem countBy_flash (i n : Nat) (s : State) : (countBy i n s).flash = s.flash := rfl
@[simp] theorem countBy_lc (i n : Nat) (s : State) : (countBy i n s).lc = s.lc := rfl
@[simp] theorem countBy_sb (i n : Nat) (s : State) : (countBy i n s).sb = s.sb := rfl
@[simp] theorem countBy_datum (i n : Nat) (s : State) : (countBy i n s).datum = s.datum := rfl
@[simp] theorem countBy_polders (i n : Nat) (s : State) : (countBy i n s).polders = s.polders := rfl
@[simp] theorem countBy_cad (i n : Nat) (s : State) : (countBy i n s).cad = s.cad := rfl
@[simp] theorem countBy_keys (i n : Nat) (s : State) : (countBy i n s).keys = s.keys := rfl
@[simp] theorem countBy_link (i n : Nat) (s : State) : (countBy i n s).link = s.link := rfl
@[simp] theorem countBy_stack (i n : Nat) (s : State) : (countBy i n s).stack = s.stack := rfl
@[simp] theorem countBy_tray (i n : Nat) (s : State) : (countBy i n s).tray = s.tray := rfl
@[simp] theorem countBy_fau (i n : Nat) (s : State) : (countBy i n s).fau = s.fau := rfl
@[simp] theorem countBy_rings (i n : Nat) (s : State) : (countBy i n s).rings = s.rings := rfl
@[simp] theorem countBy_coll (i n : Nat) (s : State) : (countBy i n s).coll = s.coll := rfl
@[simp] theorem countBy_bars (i n : Nat) (s : State) : (countBy i n s).bars = s.bars := rfl
@[simp] theorem countBy_sca (i n : Nat) (s : State) : (countBy i n s).sca = s.sca := rfl
@[simp] theorem countBy_obj (i n : Nat) (s : State) : (countBy i n s).obj = s.obj := rfl
@[simp] theorem countBy_fns (i n : Nat) (s : State) : (countBy i n s).fns = s.fns := rfl
@[simp] theorem countBy_spdm (i n : Nat) (s : State) : (countBy i n s).spdm = s.spdm := rfl
@[simp] theorem countBy_weirs (i n : Nat) (s : State) : (countBy i n s).weirs = s.weirs := rfl
@[simp] theorem countBy_charts (i n : Nat) (s : State) : (countBy i n s).charts = s.charts := rfl
@[simp] theorem countBy_gauge (i n : Nat) (s : State) : (countBy i n s).gauge = s.gauge := rfl
@[simp] theorem countBy_power (i n : Nat) (s : State) : (countBy i n s).power = s.power := rfl
@[simp] theorem countBy_regs (i n : Nat) (s : State) : (countBy i n s).regs = s.regs := rfl
@[simp] theorem countBy_pool (i n : Nat) (s : State) : (countBy i n s).pool = s.pool := rfl
@[simp] theorem countBy_free (i n : Nat) (s : State) : (countBy i n s).free = s.free := rfl

/-! ### count -/

@[simp] theorem count_pending (i : Nat) (s : State) : (count i s).pending = s.pending := rfl
@[simp] theorem count_out (i : Nat) (s : State) : (count i s).out = s.out := rfl
@[simp] theorem count_time (i : Nat) (s : State) : (count i s).time = s.time := rfl
@[simp] theorem count_chip (i : Nat) (s : State) : (count i s).chip = s.chip := rfl
@[simp] theorem count_owner (i : Nat) (s : State) : (count i s).owner = s.owner := rfl
@[simp] theorem count_pins (i : Nat) (s : State) : (count i s).pins = s.pins := rfl
@[simp] theorem count_boot (i : Nat) (s : State) : (count i s).boot = s.boot := rfl
@[simp] theorem count_fuses (i : Nat) (s : State) : (count i s).fuses = s.fuses := rfl
@[simp] theorem count_flash (i : Nat) (s : State) : (count i s).flash = s.flash := rfl
@[simp] theorem count_lc (i : Nat) (s : State) : (count i s).lc = s.lc := rfl
@[simp] theorem count_sb (i : Nat) (s : State) : (count i s).sb = s.sb := rfl
@[simp] theorem count_datum (i : Nat) (s : State) : (count i s).datum = s.datum := rfl
@[simp] theorem count_polders (i : Nat) (s : State) : (count i s).polders = s.polders := rfl
@[simp] theorem count_cad (i : Nat) (s : State) : (count i s).cad = s.cad := rfl
@[simp] theorem count_keys (i : Nat) (s : State) : (count i s).keys = s.keys := rfl
@[simp] theorem count_link (i : Nat) (s : State) : (count i s).link = s.link := rfl
@[simp] theorem count_stack (i : Nat) (s : State) : (count i s).stack = s.stack := rfl
@[simp] theorem count_tray (i : Nat) (s : State) : (count i s).tray = s.tray := rfl
@[simp] theorem count_fau (i : Nat) (s : State) : (count i s).fau = s.fau := rfl
@[simp] theorem count_rings (i : Nat) (s : State) : (count i s).rings = s.rings := rfl
@[simp] theorem count_coll (i : Nat) (s : State) : (count i s).coll = s.coll := rfl
@[simp] theorem count_bars (i : Nat) (s : State) : (count i s).bars = s.bars := rfl
@[simp] theorem count_sca (i : Nat) (s : State) : (count i s).sca = s.sca := rfl
@[simp] theorem count_obj (i : Nat) (s : State) : (count i s).obj = s.obj := rfl
@[simp] theorem count_fns (i : Nat) (s : State) : (count i s).fns = s.fns := rfl
@[simp] theorem count_spdm (i : Nat) (s : State) : (count i s).spdm = s.spdm := rfl
@[simp] theorem count_weirs (i : Nat) (s : State) : (count i s).weirs = s.weirs := rfl
@[simp] theorem count_charts (i : Nat) (s : State) : (count i s).charts = s.charts := rfl
@[simp] theorem count_gauge (i : Nat) (s : State) : (count i s).gauge = s.gauge := rfl
@[simp] theorem count_power (i : Nat) (s : State) : (count i s).power = s.power := rfl
@[simp] theorem count_regs (i : Nat) (s : State) : (count i s).regs = s.regs := rfl
@[simp] theorem count_pool (i : Nat) (s : State) : (count i s).pool = s.pool := rfl
@[simp] theorem count_free (i : Nat) (s : State) : (count i s).free = s.free := rfl

/-! ### meter -/

@[simp] theorem meter_pending (p : PolderId) (c : Fin 7) (n : Nat) (s : State) : (meter p c n s).pending = s.pending := rfl
@[simp] theorem meter_out (p : PolderId) (c : Fin 7) (n : Nat) (s : State) : (meter p c n s).out = s.out := rfl
@[simp] theorem meter_time (p : PolderId) (c : Fin 7) (n : Nat) (s : State) : (meter p c n s).time = s.time := rfl
@[simp] theorem meter_chip (p : PolderId) (c : Fin 7) (n : Nat) (s : State) : (meter p c n s).chip = s.chip := rfl
@[simp] theorem meter_owner (p : PolderId) (c : Fin 7) (n : Nat) (s : State) : (meter p c n s).owner = s.owner := rfl
@[simp] theorem meter_pins (p : PolderId) (c : Fin 7) (n : Nat) (s : State) : (meter p c n s).pins = s.pins := rfl
@[simp] theorem meter_boot (p : PolderId) (c : Fin 7) (n : Nat) (s : State) : (meter p c n s).boot = s.boot := rfl
@[simp] theorem meter_fuses (p : PolderId) (c : Fin 7) (n : Nat) (s : State) : (meter p c n s).fuses = s.fuses := rfl
@[simp] theorem meter_flash (p : PolderId) (c : Fin 7) (n : Nat) (s : State) : (meter p c n s).flash = s.flash := rfl
@[simp] theorem meter_lc (p : PolderId) (c : Fin 7) (n : Nat) (s : State) : (meter p c n s).lc = s.lc := rfl
@[simp] theorem meter_sb (p : PolderId) (c : Fin 7) (n : Nat) (s : State) : (meter p c n s).sb = s.sb := rfl
@[simp] theorem meter_datum (p : PolderId) (c : Fin 7) (n : Nat) (s : State) : (meter p c n s).datum = s.datum := rfl
@[simp] theorem meter_polders (p : PolderId) (c : Fin 7) (n : Nat) (s : State) : (meter p c n s).polders = s.polders := rfl
@[simp] theorem meter_cad (p : PolderId) (c : Fin 7) (n : Nat) (s : State) : (meter p c n s).cad = s.cad := rfl
@[simp] theorem meter_keys (p : PolderId) (c : Fin 7) (n : Nat) (s : State) : (meter p c n s).keys = s.keys := rfl
@[simp] theorem meter_link (p : PolderId) (c : Fin 7) (n : Nat) (s : State) : (meter p c n s).link = s.link := rfl
@[simp] theorem meter_stack (p : PolderId) (c : Fin 7) (n : Nat) (s : State) : (meter p c n s).stack = s.stack := rfl
@[simp] theorem meter_tray (p : PolderId) (c : Fin 7) (n : Nat) (s : State) : (meter p c n s).tray = s.tray := rfl
@[simp] theorem meter_fau (p : PolderId) (c : Fin 7) (n : Nat) (s : State) : (meter p c n s).fau = s.fau := rfl
@[simp] theorem meter_rings (p : PolderId) (c : Fin 7) (n : Nat) (s : State) : (meter p c n s).rings = s.rings := rfl
@[simp] theorem meter_coll (p : PolderId) (c : Fin 7) (n : Nat) (s : State) : (meter p c n s).coll = s.coll := rfl
@[simp] theorem meter_bars (p : PolderId) (c : Fin 7) (n : Nat) (s : State) : (meter p c n s).bars = s.bars := rfl
@[simp] theorem meter_sca (p : PolderId) (c : Fin 7) (n : Nat) (s : State) : (meter p c n s).sca = s.sca := rfl
@[simp] theorem meter_obj (p : PolderId) (c : Fin 7) (n : Nat) (s : State) : (meter p c n s).obj = s.obj := rfl
@[simp] theorem meter_fns (p : PolderId) (c : Fin 7) (n : Nat) (s : State) : (meter p c n s).fns = s.fns := rfl
@[simp] theorem meter_spdm (p : PolderId) (c : Fin 7) (n : Nat) (s : State) : (meter p c n s).spdm = s.spdm := rfl
@[simp] theorem meter_weirs (p : PolderId) (c : Fin 7) (n : Nat) (s : State) : (meter p c n s).weirs = s.weirs := rfl
@[simp] theorem meter_charts (p : PolderId) (c : Fin 7) (n : Nat) (s : State) : (meter p c n s).charts = s.charts := rfl
@[simp] theorem meter_tracer (p : PolderId) (c : Fin 7) (n : Nat) (s : State) : (meter p c n s).tracer = s.tracer := rfl
@[simp] theorem meter_power (p : PolderId) (c : Fin 7) (n : Nat) (s : State) : (meter p c n s).power = s.power := rfl
@[simp] theorem meter_regs (p : PolderId) (c : Fin 7) (n : Nat) (s : State) : (meter p c n s).regs = s.regs := rfl
@[simp] theorem meter_pool (p : PolderId) (c : Fin 7) (n : Nat) (s : State) : (meter p c n s).pool = s.pool := rfl
@[simp] theorem meter_free (p : PolderId) (c : Fin 7) (n : Nat) (s : State) : (meter p c n s).free = s.free := rfl

/-! ### pushFault -/

@[simp] theorem pushFault_pending (r : FaultRecord) (s : State) : (pushFault r s).pending = s.pending := rfl
@[simp] theorem pushFault_out (r : FaultRecord) (s : State) : (pushFault r s).out = s.out := rfl
@[simp] theorem pushFault_time (r : FaultRecord) (s : State) : (pushFault r s).time = s.time := rfl
@[simp] theorem pushFault_chip (r : FaultRecord) (s : State) : (pushFault r s).chip = s.chip := rfl
@[simp] theorem pushFault_owner (r : FaultRecord) (s : State) : (pushFault r s).owner = s.owner := rfl
@[simp] theorem pushFault_pins (r : FaultRecord) (s : State) : (pushFault r s).pins = s.pins := rfl
@[simp] theorem pushFault_boot (r : FaultRecord) (s : State) : (pushFault r s).boot = s.boot := rfl
@[simp] theorem pushFault_fuses (r : FaultRecord) (s : State) : (pushFault r s).fuses = s.fuses := rfl
@[simp] theorem pushFault_flash (r : FaultRecord) (s : State) : (pushFault r s).flash = s.flash := rfl
@[simp] theorem pushFault_lc (r : FaultRecord) (s : State) : (pushFault r s).lc = s.lc := rfl
@[simp] theorem pushFault_sb (r : FaultRecord) (s : State) : (pushFault r s).sb = s.sb := rfl
@[simp] theorem pushFault_datum (r : FaultRecord) (s : State) : (pushFault r s).datum = s.datum := rfl
@[simp] theorem pushFault_polders (r : FaultRecord) (s : State) : (pushFault r s).polders = s.polders := rfl
@[simp] theorem pushFault_cad (r : FaultRecord) (s : State) : (pushFault r s).cad = s.cad := rfl
@[simp] theorem pushFault_keys (r : FaultRecord) (s : State) : (pushFault r s).keys = s.keys := rfl
@[simp] theorem pushFault_link (r : FaultRecord) (s : State) : (pushFault r s).link = s.link := rfl
@[simp] theorem pushFault_stack (r : FaultRecord) (s : State) : (pushFault r s).stack = s.stack := rfl
@[simp] theorem pushFault_tray (r : FaultRecord) (s : State) : (pushFault r s).tray = s.tray := rfl
@[simp] theorem pushFault_fau (r : FaultRecord) (s : State) : (pushFault r s).fau = s.fau := rfl
@[simp] theorem pushFault_rings (r : FaultRecord) (s : State) : (pushFault r s).rings = s.rings := rfl
@[simp] theorem pushFault_coll (r : FaultRecord) (s : State) : (pushFault r s).coll = s.coll := rfl
@[simp] theorem pushFault_bars (r : FaultRecord) (s : State) : (pushFault r s).bars = s.bars := rfl
@[simp] theorem pushFault_sca (r : FaultRecord) (s : State) : (pushFault r s).sca = s.sca := rfl
@[simp] theorem pushFault_obj (r : FaultRecord) (s : State) : (pushFault r s).obj = s.obj := rfl
@[simp] theorem pushFault_fns (r : FaultRecord) (s : State) : (pushFault r s).fns = s.fns := rfl
@[simp] theorem pushFault_spdm (r : FaultRecord) (s : State) : (pushFault r s).spdm = s.spdm := rfl
@[simp] theorem pushFault_weirs (r : FaultRecord) (s : State) : (pushFault r s).weirs = s.weirs := rfl
@[simp] theorem pushFault_charts (r : FaultRecord) (s : State) : (pushFault r s).charts = s.charts := rfl
@[simp] theorem pushFault_gauge (r : FaultRecord) (s : State) : (pushFault r s).gauge = s.gauge := rfl
@[simp] theorem pushFault_power (r : FaultRecord) (s : State) : (pushFault r s).power = s.power := rfl
@[simp] theorem pushFault_regs (r : FaultRecord) (s : State) : (pushFault r s).regs = s.regs := rfl
@[simp] theorem pushFault_pool (r : FaultRecord) (s : State) : (pushFault r s).pool = s.pool := rfl
@[simp] theorem pushFault_free (r : FaultRecord) (s : State) : (pushFault r s).free = s.free := rfl

/-! ### modPolder -/

@[simp] theorem modPolder_pending (p : PolderId) (f : Polder → Polder) (s : State) : (modPolder p f s).pending = s.pending := rfl
@[simp] theorem modPolder_out (p : PolderId) (f : Polder → Polder) (s : State) : (modPolder p f s).out = s.out := rfl
@[simp] theorem modPolder_time (p : PolderId) (f : Polder → Polder) (s : State) : (modPolder p f s).time = s.time := rfl
@[simp] theorem modPolder_chip (p : PolderId) (f : Polder → Polder) (s : State) : (modPolder p f s).chip = s.chip := rfl
@[simp] theorem modPolder_owner (p : PolderId) (f : Polder → Polder) (s : State) : (modPolder p f s).owner = s.owner := rfl
@[simp] theorem modPolder_pins (p : PolderId) (f : Polder → Polder) (s : State) : (modPolder p f s).pins = s.pins := rfl
@[simp] theorem modPolder_boot (p : PolderId) (f : Polder → Polder) (s : State) : (modPolder p f s).boot = s.boot := rfl
@[simp] theorem modPolder_fuses (p : PolderId) (f : Polder → Polder) (s : State) : (modPolder p f s).fuses = s.fuses := rfl
@[simp] theorem modPolder_flash (p : PolderId) (f : Polder → Polder) (s : State) : (modPolder p f s).flash = s.flash := rfl
@[simp] theorem modPolder_lc (p : PolderId) (f : Polder → Polder) (s : State) : (modPolder p f s).lc = s.lc := rfl
@[simp] theorem modPolder_sb (p : PolderId) (f : Polder → Polder) (s : State) : (modPolder p f s).sb = s.sb := rfl
@[simp] theorem modPolder_datum (p : PolderId) (f : Polder → Polder) (s : State) : (modPolder p f s).datum = s.datum := rfl
@[simp] theorem modPolder_cad (p : PolderId) (f : Polder → Polder) (s : State) : (modPolder p f s).cad = s.cad := rfl
@[simp] theorem modPolder_keys (p : PolderId) (f : Polder → Polder) (s : State) : (modPolder p f s).keys = s.keys := rfl
@[simp] theorem modPolder_link (p : PolderId) (f : Polder → Polder) (s : State) : (modPolder p f s).link = s.link := rfl
@[simp] theorem modPolder_stack (p : PolderId) (f : Polder → Polder) (s : State) : (modPolder p f s).stack = s.stack := rfl
@[simp] theorem modPolder_tray (p : PolderId) (f : Polder → Polder) (s : State) : (modPolder p f s).tray = s.tray := rfl
@[simp] theorem modPolder_fau (p : PolderId) (f : Polder → Polder) (s : State) : (modPolder p f s).fau = s.fau := rfl
@[simp] theorem modPolder_rings (p : PolderId) (f : Polder → Polder) (s : State) : (modPolder p f s).rings = s.rings := rfl
@[simp] theorem modPolder_coll (p : PolderId) (f : Polder → Polder) (s : State) : (modPolder p f s).coll = s.coll := rfl
@[simp] theorem modPolder_bars (p : PolderId) (f : Polder → Polder) (s : State) : (modPolder p f s).bars = s.bars := rfl
@[simp] theorem modPolder_sca (p : PolderId) (f : Polder → Polder) (s : State) : (modPolder p f s).sca = s.sca := rfl
@[simp] theorem modPolder_obj (p : PolderId) (f : Polder → Polder) (s : State) : (modPolder p f s).obj = s.obj := rfl
@[simp] theorem modPolder_fns (p : PolderId) (f : Polder → Polder) (s : State) : (modPolder p f s).fns = s.fns := rfl
@[simp] theorem modPolder_spdm (p : PolderId) (f : Polder → Polder) (s : State) : (modPolder p f s).spdm = s.spdm := rfl
@[simp] theorem modPolder_weirs (p : PolderId) (f : Polder → Polder) (s : State) : (modPolder p f s).weirs = s.weirs := rfl
@[simp] theorem modPolder_charts (p : PolderId) (f : Polder → Polder) (s : State) : (modPolder p f s).charts = s.charts := rfl
@[simp] theorem modPolder_tracer (p : PolderId) (f : Polder → Polder) (s : State) : (modPolder p f s).tracer = s.tracer := rfl
@[simp] theorem modPolder_gauge (p : PolderId) (f : Polder → Polder) (s : State) : (modPolder p f s).gauge = s.gauge := rfl
@[simp] theorem modPolder_power (p : PolderId) (f : Polder → Polder) (s : State) : (modPolder p f s).power = s.power := rfl
@[simp] theorem modPolder_regs (p : PolderId) (f : Polder → Polder) (s : State) : (modPolder p f s).regs = s.regs := rfl
@[simp] theorem modPolder_pool (p : PolderId) (f : Polder → Polder) (s : State) : (modPolder p f s).pool = s.pool := rfl
@[simp] theorem modPolder_free (p : PolderId) (f : Polder → Polder) (s : State) : (modPolder p f s).free = s.free := rfl

/-! ### modContext -/

@[simp] theorem modContext_pending (c : CtxId) (f : Context → Context) (s : State) : (modContext c f s).pending = s.pending := rfl
@[simp] theorem modContext_out (c : CtxId) (f : Context → Context) (s : State) : (modContext c f s).out = s.out := rfl
@[simp] theorem modContext_time (c : CtxId) (f : Context → Context) (s : State) : (modContext c f s).time = s.time := rfl
@[simp] theorem modContext_chip (c : CtxId) (f : Context → Context) (s : State) : (modContext c f s).chip = s.chip := rfl
@[simp] theorem modContext_owner (c : CtxId) (f : Context → Context) (s : State) : (modContext c f s).owner = s.owner := rfl
@[simp] theorem modContext_pins (c : CtxId) (f : Context → Context) (s : State) : (modContext c f s).pins = s.pins := rfl
@[simp] theorem modContext_boot (c : CtxId) (f : Context → Context) (s : State) : (modContext c f s).boot = s.boot := rfl
@[simp] theorem modContext_fuses (c : CtxId) (f : Context → Context) (s : State) : (modContext c f s).fuses = s.fuses := rfl
@[simp] theorem modContext_flash (c : CtxId) (f : Context → Context) (s : State) : (modContext c f s).flash = s.flash := rfl
@[simp] theorem modContext_lc (c : CtxId) (f : Context → Context) (s : State) : (modContext c f s).lc = s.lc := rfl
@[simp] theorem modContext_sb (c : CtxId) (f : Context → Context) (s : State) : (modContext c f s).sb = s.sb := rfl
@[simp] theorem modContext_datum (c : CtxId) (f : Context → Context) (s : State) : (modContext c f s).datum = s.datum := rfl
@[simp] theorem modContext_polders (c : CtxId) (f : Context → Context) (s : State) : (modContext c f s).polders = s.polders := rfl
@[simp] theorem modContext_cad (c : CtxId) (f : Context → Context) (s : State) : (modContext c f s).cad = s.cad := rfl
@[simp] theorem modContext_keys (c : CtxId) (f : Context → Context) (s : State) : (modContext c f s).keys = s.keys := rfl
@[simp] theorem modContext_link (c : CtxId) (f : Context → Context) (s : State) : (modContext c f s).link = s.link := rfl
@[simp] theorem modContext_stack (c : CtxId) (f : Context → Context) (s : State) : (modContext c f s).stack = s.stack := rfl
@[simp] theorem modContext_tray (c : CtxId) (f : Context → Context) (s : State) : (modContext c f s).tray = s.tray := rfl
@[simp] theorem modContext_fau (c : CtxId) (f : Context → Context) (s : State) : (modContext c f s).fau = s.fau := rfl
@[simp] theorem modContext_rings (c : CtxId) (f : Context → Context) (s : State) : (modContext c f s).rings = s.rings := rfl
@[simp] theorem modContext_coll (c : CtxId) (f : Context → Context) (s : State) : (modContext c f s).coll = s.coll := rfl
@[simp] theorem modContext_bars (c : CtxId) (f : Context → Context) (s : State) : (modContext c f s).bars = s.bars := rfl
@[simp] theorem modContext_sca (c : CtxId) (f : Context → Context) (s : State) : (modContext c f s).sca = s.sca := rfl
@[simp] theorem modContext_fns (c : CtxId) (f : Context → Context) (s : State) : (modContext c f s).fns = s.fns := rfl
@[simp] theorem modContext_spdm (c : CtxId) (f : Context → Context) (s : State) : (modContext c f s).spdm = s.spdm := rfl
@[simp] theorem modContext_weirs (c : CtxId) (f : Context → Context) (s : State) : (modContext c f s).weirs = s.weirs := rfl
@[simp] theorem modContext_charts (c : CtxId) (f : Context → Context) (s : State) : (modContext c f s).charts = s.charts := rfl
@[simp] theorem modContext_tracer (c : CtxId) (f : Context → Context) (s : State) : (modContext c f s).tracer = s.tracer := rfl
@[simp] theorem modContext_gauge (c : CtxId) (f : Context → Context) (s : State) : (modContext c f s).gauge = s.gauge := rfl
@[simp] theorem modContext_power (c : CtxId) (f : Context → Context) (s : State) : (modContext c f s).power = s.power := rfl
@[simp] theorem modContext_regs (c : CtxId) (f : Context → Context) (s : State) : (modContext c f s).regs = s.regs := rfl
@[simp] theorem modContext_pool (c : CtxId) (f : Context → Context) (s : State) : (modContext c f s).pool = s.pool := rfl
@[simp] theorem modContext_free (c : CtxId) (f : Context → Context) (s : State) : (modContext c f s).free = s.free := rfl

/-! ### modQueue -/

@[simp] theorem modQueue_pending (q : BitVec 8) (f : Queue → Queue) (s : State) : (modQueue q f s).pending = s.pending := rfl
@[simp] theorem modQueue_out (q : BitVec 8) (f : Queue → Queue) (s : State) : (modQueue q f s).out = s.out := rfl
@[simp] theorem modQueue_time (q : BitVec 8) (f : Queue → Queue) (s : State) : (modQueue q f s).time = s.time := rfl
@[simp] theorem modQueue_chip (q : BitVec 8) (f : Queue → Queue) (s : State) : (modQueue q f s).chip = s.chip := rfl
@[simp] theorem modQueue_owner (q : BitVec 8) (f : Queue → Queue) (s : State) : (modQueue q f s).owner = s.owner := rfl
@[simp] theorem modQueue_pins (q : BitVec 8) (f : Queue → Queue) (s : State) : (modQueue q f s).pins = s.pins := rfl
@[simp] theorem modQueue_boot (q : BitVec 8) (f : Queue → Queue) (s : State) : (modQueue q f s).boot = s.boot := rfl
@[simp] theorem modQueue_fuses (q : BitVec 8) (f : Queue → Queue) (s : State) : (modQueue q f s).fuses = s.fuses := rfl
@[simp] theorem modQueue_flash (q : BitVec 8) (f : Queue → Queue) (s : State) : (modQueue q f s).flash = s.flash := rfl
@[simp] theorem modQueue_lc (q : BitVec 8) (f : Queue → Queue) (s : State) : (modQueue q f s).lc = s.lc := rfl
@[simp] theorem modQueue_sb (q : BitVec 8) (f : Queue → Queue) (s : State) : (modQueue q f s).sb = s.sb := rfl
@[simp] theorem modQueue_datum (q : BitVec 8) (f : Queue → Queue) (s : State) : (modQueue q f s).datum = s.datum := rfl
@[simp] theorem modQueue_polders (q : BitVec 8) (f : Queue → Queue) (s : State) : (modQueue q f s).polders = s.polders := rfl
@[simp] theorem modQueue_cad (q : BitVec 8) (f : Queue → Queue) (s : State) : (modQueue q f s).cad = s.cad := rfl
@[simp] theorem modQueue_keys (q : BitVec 8) (f : Queue → Queue) (s : State) : (modQueue q f s).keys = s.keys := rfl
@[simp] theorem modQueue_link (q : BitVec 8) (f : Queue → Queue) (s : State) : (modQueue q f s).link = s.link := rfl
@[simp] theorem modQueue_stack (q : BitVec 8) (f : Queue → Queue) (s : State) : (modQueue q f s).stack = s.stack := rfl
@[simp] theorem modQueue_tray (q : BitVec 8) (f : Queue → Queue) (s : State) : (modQueue q f s).tray = s.tray := rfl
@[simp] theorem modQueue_fau (q : BitVec 8) (f : Queue → Queue) (s : State) : (modQueue q f s).fau = s.fau := rfl
@[simp] theorem modQueue_rings (q : BitVec 8) (f : Queue → Queue) (s : State) : (modQueue q f s).rings = s.rings := rfl
@[simp] theorem modQueue_coll (q : BitVec 8) (f : Queue → Queue) (s : State) : (modQueue q f s).coll = s.coll := rfl
@[simp] theorem modQueue_bars (q : BitVec 8) (f : Queue → Queue) (s : State) : (modQueue q f s).bars = s.bars := rfl
@[simp] theorem modQueue_sca (q : BitVec 8) (f : Queue → Queue) (s : State) : (modQueue q f s).sca = s.sca := rfl
@[simp] theorem modQueue_fns (q : BitVec 8) (f : Queue → Queue) (s : State) : (modQueue q f s).fns = s.fns := rfl
@[simp] theorem modQueue_spdm (q : BitVec 8) (f : Queue → Queue) (s : State) : (modQueue q f s).spdm = s.spdm := rfl
@[simp] theorem modQueue_weirs (q : BitVec 8) (f : Queue → Queue) (s : State) : (modQueue q f s).weirs = s.weirs := rfl
@[simp] theorem modQueue_charts (q : BitVec 8) (f : Queue → Queue) (s : State) : (modQueue q f s).charts = s.charts := rfl
@[simp] theorem modQueue_tracer (q : BitVec 8) (f : Queue → Queue) (s : State) : (modQueue q f s).tracer = s.tracer := rfl
@[simp] theorem modQueue_gauge (q : BitVec 8) (f : Queue → Queue) (s : State) : (modQueue q f s).gauge = s.gauge := rfl
@[simp] theorem modQueue_power (q : BitVec 8) (f : Queue → Queue) (s : State) : (modQueue q f s).power = s.power := rfl
@[simp] theorem modQueue_regs (q : BitVec 8) (f : Queue → Queue) (s : State) : (modQueue q f s).regs = s.regs := rfl
@[simp] theorem modQueue_pool (q : BitVec 8) (f : Queue → Queue) (s : State) : (modQueue q f s).pool = s.pool := rfl
@[simp] theorem modQueue_free (q : BitVec 8) (f : Queue → Queue) (s : State) : (modQueue q f s).free = s.free := rfl

/-! ### modRing -/

@[simp] theorem modRing_pending (fn : FnId) (r : BitVec 9) (f : EventRing → EventRing) (s : State) : (modRing fn r f s).pending = s.pending := rfl
@[simp] theorem modRing_out (fn : FnId) (r : BitVec 9) (f : EventRing → EventRing) (s : State) : (modRing fn r f s).out = s.out := rfl
@[simp] theorem modRing_time (fn : FnId) (r : BitVec 9) (f : EventRing → EventRing) (s : State) : (modRing fn r f s).time = s.time := rfl
@[simp] theorem modRing_chip (fn : FnId) (r : BitVec 9) (f : EventRing → EventRing) (s : State) : (modRing fn r f s).chip = s.chip := rfl
@[simp] theorem modRing_owner (fn : FnId) (r : BitVec 9) (f : EventRing → EventRing) (s : State) : (modRing fn r f s).owner = s.owner := rfl
@[simp] theorem modRing_pins (fn : FnId) (r : BitVec 9) (f : EventRing → EventRing) (s : State) : (modRing fn r f s).pins = s.pins := rfl
@[simp] theorem modRing_boot (fn : FnId) (r : BitVec 9) (f : EventRing → EventRing) (s : State) : (modRing fn r f s).boot = s.boot := rfl
@[simp] theorem modRing_fuses (fn : FnId) (r : BitVec 9) (f : EventRing → EventRing) (s : State) : (modRing fn r f s).fuses = s.fuses := rfl
@[simp] theorem modRing_flash (fn : FnId) (r : BitVec 9) (f : EventRing → EventRing) (s : State) : (modRing fn r f s).flash = s.flash := rfl
@[simp] theorem modRing_lc (fn : FnId) (r : BitVec 9) (f : EventRing → EventRing) (s : State) : (modRing fn r f s).lc = s.lc := rfl
@[simp] theorem modRing_sb (fn : FnId) (r : BitVec 9) (f : EventRing → EventRing) (s : State) : (modRing fn r f s).sb = s.sb := rfl
@[simp] theorem modRing_datum (fn : FnId) (r : BitVec 9) (f : EventRing → EventRing) (s : State) : (modRing fn r f s).datum = s.datum := rfl
@[simp] theorem modRing_polders (fn : FnId) (r : BitVec 9) (f : EventRing → EventRing) (s : State) : (modRing fn r f s).polders = s.polders := rfl
@[simp] theorem modRing_cad (fn : FnId) (r : BitVec 9) (f : EventRing → EventRing) (s : State) : (modRing fn r f s).cad = s.cad := rfl
@[simp] theorem modRing_keys (fn : FnId) (r : BitVec 9) (f : EventRing → EventRing) (s : State) : (modRing fn r f s).keys = s.keys := rfl
@[simp] theorem modRing_link (fn : FnId) (r : BitVec 9) (f : EventRing → EventRing) (s : State) : (modRing fn r f s).link = s.link := rfl
@[simp] theorem modRing_stack (fn : FnId) (r : BitVec 9) (f : EventRing → EventRing) (s : State) : (modRing fn r f s).stack = s.stack := rfl
@[simp] theorem modRing_tray (fn : FnId) (r : BitVec 9) (f : EventRing → EventRing) (s : State) : (modRing fn r f s).tray = s.tray := rfl
@[simp] theorem modRing_fau (fn : FnId) (r : BitVec 9) (f : EventRing → EventRing) (s : State) : (modRing fn r f s).fau = s.fau := rfl
@[simp] theorem modRing_rings (fn : FnId) (r : BitVec 9) (f : EventRing → EventRing) (s : State) : (modRing fn r f s).rings = s.rings := rfl
@[simp] theorem modRing_coll (fn : FnId) (r : BitVec 9) (f : EventRing → EventRing) (s : State) : (modRing fn r f s).coll = s.coll := rfl
@[simp] theorem modRing_bars (fn : FnId) (r : BitVec 9) (f : EventRing → EventRing) (s : State) : (modRing fn r f s).bars = s.bars := rfl
@[simp] theorem modRing_sca (fn : FnId) (r : BitVec 9) (f : EventRing → EventRing) (s : State) : (modRing fn r f s).sca = s.sca := rfl
@[simp] theorem modRing_fns (fn : FnId) (r : BitVec 9) (f : EventRing → EventRing) (s : State) : (modRing fn r f s).fns = s.fns := rfl
@[simp] theorem modRing_spdm (fn : FnId) (r : BitVec 9) (f : EventRing → EventRing) (s : State) : (modRing fn r f s).spdm = s.spdm := rfl
@[simp] theorem modRing_weirs (fn : FnId) (r : BitVec 9) (f : EventRing → EventRing) (s : State) : (modRing fn r f s).weirs = s.weirs := rfl
@[simp] theorem modRing_charts (fn : FnId) (r : BitVec 9) (f : EventRing → EventRing) (s : State) : (modRing fn r f s).charts = s.charts := rfl
@[simp] theorem modRing_tracer (fn : FnId) (r : BitVec 9) (f : EventRing → EventRing) (s : State) : (modRing fn r f s).tracer = s.tracer := rfl
@[simp] theorem modRing_gauge (fn : FnId) (r : BitVec 9) (f : EventRing → EventRing) (s : State) : (modRing fn r f s).gauge = s.gauge := rfl
@[simp] theorem modRing_power (fn : FnId) (r : BitVec 9) (f : EventRing → EventRing) (s : State) : (modRing fn r f s).power = s.power := rfl
@[simp] theorem modRing_regs (fn : FnId) (r : BitVec 9) (f : EventRing → EventRing) (s : State) : (modRing fn r f s).regs = s.regs := rfl
@[simp] theorem modRing_pool (fn : FnId) (r : BitVec 9) (f : EventRing → EventRing) (s : State) : (modRing fn r f s).pool = s.pool := rfl
@[simp] theorem modRing_free (fn : FnId) (r : BitVec 9) (f : EventRing → EventRing) (s : State) : (modRing fn r f s).free = s.free := rfl

/-! ### modVf -/

@[simp] theorem modVf_pending (n : VfId) (f : Vf → Vf) (s : State) : (modVf n f s).pending = s.pending := rfl
@[simp] theorem modVf_out (n : VfId) (f : Vf → Vf) (s : State) : (modVf n f s).out = s.out := rfl
@[simp] theorem modVf_time (n : VfId) (f : Vf → Vf) (s : State) : (modVf n f s).time = s.time := rfl
@[simp] theorem modVf_chip (n : VfId) (f : Vf → Vf) (s : State) : (modVf n f s).chip = s.chip := rfl
@[simp] theorem modVf_owner (n : VfId) (f : Vf → Vf) (s : State) : (modVf n f s).owner = s.owner := rfl
@[simp] theorem modVf_pins (n : VfId) (f : Vf → Vf) (s : State) : (modVf n f s).pins = s.pins := rfl
@[simp] theorem modVf_boot (n : VfId) (f : Vf → Vf) (s : State) : (modVf n f s).boot = s.boot := rfl
@[simp] theorem modVf_fuses (n : VfId) (f : Vf → Vf) (s : State) : (modVf n f s).fuses = s.fuses := rfl
@[simp] theorem modVf_flash (n : VfId) (f : Vf → Vf) (s : State) : (modVf n f s).flash = s.flash := rfl
@[simp] theorem modVf_lc (n : VfId) (f : Vf → Vf) (s : State) : (modVf n f s).lc = s.lc := rfl
@[simp] theorem modVf_sb (n : VfId) (f : Vf → Vf) (s : State) : (modVf n f s).sb = s.sb := rfl
@[simp] theorem modVf_datum (n : VfId) (f : Vf → Vf) (s : State) : (modVf n f s).datum = s.datum := rfl
@[simp] theorem modVf_polders (n : VfId) (f : Vf → Vf) (s : State) : (modVf n f s).polders = s.polders := rfl
@[simp] theorem modVf_cad (n : VfId) (f : Vf → Vf) (s : State) : (modVf n f s).cad = s.cad := rfl
@[simp] theorem modVf_keys (n : VfId) (f : Vf → Vf) (s : State) : (modVf n f s).keys = s.keys := rfl
@[simp] theorem modVf_link (n : VfId) (f : Vf → Vf) (s : State) : (modVf n f s).link = s.link := rfl
@[simp] theorem modVf_stack (n : VfId) (f : Vf → Vf) (s : State) : (modVf n f s).stack = s.stack := rfl
@[simp] theorem modVf_tray (n : VfId) (f : Vf → Vf) (s : State) : (modVf n f s).tray = s.tray := rfl
@[simp] theorem modVf_fau (n : VfId) (f : Vf → Vf) (s : State) : (modVf n f s).fau = s.fau := rfl
@[simp] theorem modVf_rings (n : VfId) (f : Vf → Vf) (s : State) : (modVf n f s).rings = s.rings := rfl
@[simp] theorem modVf_coll (n : VfId) (f : Vf → Vf) (s : State) : (modVf n f s).coll = s.coll := rfl
@[simp] theorem modVf_bars (n : VfId) (f : Vf → Vf) (s : State) : (modVf n f s).bars = s.bars := rfl
@[simp] theorem modVf_sca (n : VfId) (f : Vf → Vf) (s : State) : (modVf n f s).sca = s.sca := rfl
@[simp] theorem modVf_obj (n : VfId) (f : Vf → Vf) (s : State) : (modVf n f s).obj = s.obj := rfl
@[simp] theorem modVf_spdm (n : VfId) (f : Vf → Vf) (s : State) : (modVf n f s).spdm = s.spdm := rfl
@[simp] theorem modVf_weirs (n : VfId) (f : Vf → Vf) (s : State) : (modVf n f s).weirs = s.weirs := rfl
@[simp] theorem modVf_charts (n : VfId) (f : Vf → Vf) (s : State) : (modVf n f s).charts = s.charts := rfl
@[simp] theorem modVf_tracer (n : VfId) (f : Vf → Vf) (s : State) : (modVf n f s).tracer = s.tracer := rfl
@[simp] theorem modVf_gauge (n : VfId) (f : Vf → Vf) (s : State) : (modVf n f s).gauge = s.gauge := rfl
@[simp] theorem modVf_power (n : VfId) (f : Vf → Vf) (s : State) : (modVf n f s).power = s.power := rfl
@[simp] theorem modVf_regs (n : VfId) (f : Vf → Vf) (s : State) : (modVf n f s).regs = s.regs := rfl
@[simp] theorem modVf_pool (n : VfId) (f : Vf → Vf) (s : State) : (modVf n f s).pool = s.pool := rfl
@[simp] theorem modVf_free (n : VfId) (f : Vf → Vf) (s : State) : (modVf n f s).free = s.free := rfl

/-! ### modSession -/

@[simp] theorem modSession_pending (i : BitVec 32) (f : Session → Session) (s : State) : (modSession i f s).pending = s.pending := rfl
@[simp] theorem modSession_out (i : BitVec 32) (f : Session → Session) (s : State) : (modSession i f s).out = s.out := rfl
@[simp] theorem modSession_time (i : BitVec 32) (f : Session → Session) (s : State) : (modSession i f s).time = s.time := rfl
@[simp] theorem modSession_chip (i : BitVec 32) (f : Session → Session) (s : State) : (modSession i f s).chip = s.chip := rfl
@[simp] theorem modSession_owner (i : BitVec 32) (f : Session → Session) (s : State) : (modSession i f s).owner = s.owner := rfl
@[simp] theorem modSession_pins (i : BitVec 32) (f : Session → Session) (s : State) : (modSession i f s).pins = s.pins := rfl
@[simp] theorem modSession_boot (i : BitVec 32) (f : Session → Session) (s : State) : (modSession i f s).boot = s.boot := rfl
@[simp] theorem modSession_fuses (i : BitVec 32) (f : Session → Session) (s : State) : (modSession i f s).fuses = s.fuses := rfl
@[simp] theorem modSession_flash (i : BitVec 32) (f : Session → Session) (s : State) : (modSession i f s).flash = s.flash := rfl
@[simp] theorem modSession_lc (i : BitVec 32) (f : Session → Session) (s : State) : (modSession i f s).lc = s.lc := rfl
@[simp] theorem modSession_sb (i : BitVec 32) (f : Session → Session) (s : State) : (modSession i f s).sb = s.sb := rfl
@[simp] theorem modSession_datum (i : BitVec 32) (f : Session → Session) (s : State) : (modSession i f s).datum = s.datum := rfl
@[simp] theorem modSession_polders (i : BitVec 32) (f : Session → Session) (s : State) : (modSession i f s).polders = s.polders := rfl
@[simp] theorem modSession_cad (i : BitVec 32) (f : Session → Session) (s : State) : (modSession i f s).cad = s.cad := rfl
@[simp] theorem modSession_keys (i : BitVec 32) (f : Session → Session) (s : State) : (modSession i f s).keys = s.keys := rfl
@[simp] theorem modSession_link (i : BitVec 32) (f : Session → Session) (s : State) : (modSession i f s).link = s.link := rfl
@[simp] theorem modSession_stack (i : BitVec 32) (f : Session → Session) (s : State) : (modSession i f s).stack = s.stack := rfl
@[simp] theorem modSession_tray (i : BitVec 32) (f : Session → Session) (s : State) : (modSession i f s).tray = s.tray := rfl
@[simp] theorem modSession_fau (i : BitVec 32) (f : Session → Session) (s : State) : (modSession i f s).fau = s.fau := rfl
@[simp] theorem modSession_rings (i : BitVec 32) (f : Session → Session) (s : State) : (modSession i f s).rings = s.rings := rfl
@[simp] theorem modSession_coll (i : BitVec 32) (f : Session → Session) (s : State) : (modSession i f s).coll = s.coll := rfl
@[simp] theorem modSession_bars (i : BitVec 32) (f : Session → Session) (s : State) : (modSession i f s).bars = s.bars := rfl
@[simp] theorem modSession_sca (i : BitVec 32) (f : Session → Session) (s : State) : (modSession i f s).sca = s.sca := rfl
@[simp] theorem modSession_obj (i : BitVec 32) (f : Session → Session) (s : State) : (modSession i f s).obj = s.obj := rfl
@[simp] theorem modSession_fns (i : BitVec 32) (f : Session → Session) (s : State) : (modSession i f s).fns = s.fns := rfl
@[simp] theorem modSession_weirs (i : BitVec 32) (f : Session → Session) (s : State) : (modSession i f s).weirs = s.weirs := rfl
@[simp] theorem modSession_charts (i : BitVec 32) (f : Session → Session) (s : State) : (modSession i f s).charts = s.charts := rfl
@[simp] theorem modSession_tracer (i : BitVec 32) (f : Session → Session) (s : State) : (modSession i f s).tracer = s.tracer := rfl
@[simp] theorem modSession_gauge (i : BitVec 32) (f : Session → Session) (s : State) : (modSession i f s).gauge = s.gauge := rfl
@[simp] theorem modSession_power (i : BitVec 32) (f : Session → Session) (s : State) : (modSession i f s).power = s.power := rfl
@[simp] theorem modSession_regs (i : BitVec 32) (f : Session → Session) (s : State) : (modSession i f s).regs = s.regs := rfl
@[simp] theorem modSession_pool (i : BitVec 32) (f : Session → Session) (s : State) : (modSession i f s).pool = s.pool := rfl
@[simp] theorem modSession_free (i : BitVec 32) (f : Session → Session) (s : State) : (modSession i f s).free = s.free := rfl

/-! ### setMailbox -/

@[simp] theorem setMailbox_pending (m : Mailbox) (s : State) : (setMailbox m s).pending = s.pending := rfl
@[simp] theorem setMailbox_out (m : Mailbox) (s : State) : (setMailbox m s).out = s.out := rfl
@[simp] theorem setMailbox_time (m : Mailbox) (s : State) : (setMailbox m s).time = s.time := rfl
@[simp] theorem setMailbox_chip (m : Mailbox) (s : State) : (setMailbox m s).chip = s.chip := rfl
@[simp] theorem setMailbox_owner (m : Mailbox) (s : State) : (setMailbox m s).owner = s.owner := rfl
@[simp] theorem setMailbox_pins (m : Mailbox) (s : State) : (setMailbox m s).pins = s.pins := rfl
@[simp] theorem setMailbox_boot (m : Mailbox) (s : State) : (setMailbox m s).boot = s.boot := rfl
@[simp] theorem setMailbox_fuses (m : Mailbox) (s : State) : (setMailbox m s).fuses = s.fuses := rfl
@[simp] theorem setMailbox_flash (m : Mailbox) (s : State) : (setMailbox m s).flash = s.flash := rfl
@[simp] theorem setMailbox_lc (m : Mailbox) (s : State) : (setMailbox m s).lc = s.lc := rfl
@[simp] theorem setMailbox_sb (m : Mailbox) (s : State) : (setMailbox m s).sb = s.sb := rfl
@[simp] theorem setMailbox_datum (m : Mailbox) (s : State) : (setMailbox m s).datum = s.datum := rfl
@[simp] theorem setMailbox_polders (m : Mailbox) (s : State) : (setMailbox m s).polders = s.polders := rfl
@[simp] theorem setMailbox_cad (m : Mailbox) (s : State) : (setMailbox m s).cad = s.cad := rfl
@[simp] theorem setMailbox_keys (m : Mailbox) (s : State) : (setMailbox m s).keys = s.keys := rfl
@[simp] theorem setMailbox_link (m : Mailbox) (s : State) : (setMailbox m s).link = s.link := rfl
@[simp] theorem setMailbox_stack (m : Mailbox) (s : State) : (setMailbox m s).stack = s.stack := rfl
@[simp] theorem setMailbox_tray (m : Mailbox) (s : State) : (setMailbox m s).tray = s.tray := rfl
@[simp] theorem setMailbox_fau (m : Mailbox) (s : State) : (setMailbox m s).fau = s.fau := rfl
@[simp] theorem setMailbox_rings (m : Mailbox) (s : State) : (setMailbox m s).rings = s.rings := rfl
@[simp] theorem setMailbox_coll (m : Mailbox) (s : State) : (setMailbox m s).coll = s.coll := rfl
@[simp] theorem setMailbox_bars (m : Mailbox) (s : State) : (setMailbox m s).bars = s.bars := rfl
@[simp] theorem setMailbox_sca (m : Mailbox) (s : State) : (setMailbox m s).sca = s.sca := rfl
@[simp] theorem setMailbox_obj (m : Mailbox) (s : State) : (setMailbox m s).obj = s.obj := rfl
@[simp] theorem setMailbox_spdm (m : Mailbox) (s : State) : (setMailbox m s).spdm = s.spdm := rfl
@[simp] theorem setMailbox_weirs (m : Mailbox) (s : State) : (setMailbox m s).weirs = s.weirs := rfl
@[simp] theorem setMailbox_charts (m : Mailbox) (s : State) : (setMailbox m s).charts = s.charts := rfl
@[simp] theorem setMailbox_tracer (m : Mailbox) (s : State) : (setMailbox m s).tracer = s.tracer := rfl
@[simp] theorem setMailbox_gauge (m : Mailbox) (s : State) : (setMailbox m s).gauge = s.gauge := rfl
@[simp] theorem setMailbox_power (m : Mailbox) (s : State) : (setMailbox m s).power = s.power := rfl
@[simp] theorem setMailbox_regs (m : Mailbox) (s : State) : (setMailbox m s).regs = s.regs := rfl
@[simp] theorem setMailbox_pool (m : Mailbox) (s : State) : (setMailbox m s).pool = s.pool := rfl
@[simp] theorem setMailbox_free (m : Mailbox) (s : State) : (setMailbox m s).free = s.free := rfl

/-! ### modPins -/

@[simp] theorem modPins_pending (f : Pins → Pins) (s : State) : (modPins f s).pending = s.pending := rfl
@[simp] theorem modPins_out (f : Pins → Pins) (s : State) : (modPins f s).out = s.out := rfl
@[simp] theorem modPins_time (f : Pins → Pins) (s : State) : (modPins f s).time = s.time := rfl
@[simp] theorem modPins_chip (f : Pins → Pins) (s : State) : (modPins f s).chip = s.chip := rfl
@[simp] theorem modPins_owner (f : Pins → Pins) (s : State) : (modPins f s).owner = s.owner := rfl
@[simp] theorem modPins_pins (f : Pins → Pins) (s : State) : (modPins f s).pins = f s.pins := rfl
@[simp] theorem modPins_boot (f : Pins → Pins) (s : State) : (modPins f s).boot = s.boot := rfl
@[simp] theorem modPins_fuses (f : Pins → Pins) (s : State) : (modPins f s).fuses = s.fuses := rfl
@[simp] theorem modPins_flash (f : Pins → Pins) (s : State) : (modPins f s).flash = s.flash := rfl
@[simp] theorem modPins_lc (f : Pins → Pins) (s : State) : (modPins f s).lc = s.lc := rfl
@[simp] theorem modPins_sb (f : Pins → Pins) (s : State) : (modPins f s).sb = s.sb := rfl
@[simp] theorem modPins_datum (f : Pins → Pins) (s : State) : (modPins f s).datum = s.datum := rfl
@[simp] theorem modPins_polders (f : Pins → Pins) (s : State) : (modPins f s).polders = s.polders := rfl
@[simp] theorem modPins_cad (f : Pins → Pins) (s : State) : (modPins f s).cad = s.cad := rfl
@[simp] theorem modPins_keys (f : Pins → Pins) (s : State) : (modPins f s).keys = s.keys := rfl
@[simp] theorem modPins_link (f : Pins → Pins) (s : State) : (modPins f s).link = s.link := rfl
@[simp] theorem modPins_stack (f : Pins → Pins) (s : State) : (modPins f s).stack = s.stack := rfl
@[simp] theorem modPins_tray (f : Pins → Pins) (s : State) : (modPins f s).tray = s.tray := rfl
@[simp] theorem modPins_fau (f : Pins → Pins) (s : State) : (modPins f s).fau = s.fau := rfl
@[simp] theorem modPins_rings (f : Pins → Pins) (s : State) : (modPins f s).rings = s.rings := rfl
@[simp] theorem modPins_coll (f : Pins → Pins) (s : State) : (modPins f s).coll = s.coll := rfl
@[simp] theorem modPins_bars (f : Pins → Pins) (s : State) : (modPins f s).bars = s.bars := rfl
@[simp] theorem modPins_sca (f : Pins → Pins) (s : State) : (modPins f s).sca = s.sca := rfl
@[simp] theorem modPins_obj (f : Pins → Pins) (s : State) : (modPins f s).obj = s.obj := rfl
@[simp] theorem modPins_fns (f : Pins → Pins) (s : State) : (modPins f s).fns = s.fns := rfl
@[simp] theorem modPins_spdm (f : Pins → Pins) (s : State) : (modPins f s).spdm = s.spdm := rfl
@[simp] theorem modPins_weirs (f : Pins → Pins) (s : State) : (modPins f s).weirs = s.weirs := rfl
@[simp] theorem modPins_charts (f : Pins → Pins) (s : State) : (modPins f s).charts = s.charts := rfl
@[simp] theorem modPins_tracer (f : Pins → Pins) (s : State) : (modPins f s).tracer = s.tracer := rfl
@[simp] theorem modPins_gauge (f : Pins → Pins) (s : State) : (modPins f s).gauge = s.gauge := rfl
@[simp] theorem modPins_power (f : Pins → Pins) (s : State) : (modPins f s).power = s.power := rfl
@[simp] theorem modPins_regs (f : Pins → Pins) (s : State) : (modPins f s).regs = s.regs := rfl
@[simp] theorem modPins_pool (f : Pins → Pins) (s : State) : (modPins f s).pool = s.pool := rfl
@[simp] theorem modPins_free (f : Pins → Pins) (s : State) : (modPins f s).free = s.free := rfl

/-! ### modPower -/

@[simp] theorem modPower_pending (f : Power → Power) (s : State) : (modPower f s).pending = s.pending := rfl
@[simp] theorem modPower_out (f : Power → Power) (s : State) : (modPower f s).out = s.out := rfl
@[simp] theorem modPower_time (f : Power → Power) (s : State) : (modPower f s).time = s.time := rfl
@[simp] theorem modPower_chip (f : Power → Power) (s : State) : (modPower f s).chip = s.chip := rfl
@[simp] theorem modPower_owner (f : Power → Power) (s : State) : (modPower f s).owner = s.owner := rfl
@[simp] theorem modPower_pins (f : Power → Power) (s : State) : (modPower f s).pins = s.pins := rfl
@[simp] theorem modPower_boot (f : Power → Power) (s : State) : (modPower f s).boot = s.boot := rfl
@[simp] theorem modPower_fuses (f : Power → Power) (s : State) : (modPower f s).fuses = s.fuses := rfl
@[simp] theorem modPower_flash (f : Power → Power) (s : State) : (modPower f s).flash = s.flash := rfl
@[simp] theorem modPower_lc (f : Power → Power) (s : State) : (modPower f s).lc = s.lc := rfl
@[simp] theorem modPower_sb (f : Power → Power) (s : State) : (modPower f s).sb = s.sb := rfl
@[simp] theorem modPower_datum (f : Power → Power) (s : State) : (modPower f s).datum = s.datum := rfl
@[simp] theorem modPower_polders (f : Power → Power) (s : State) : (modPower f s).polders = s.polders := rfl
@[simp] theorem modPower_cad (f : Power → Power) (s : State) : (modPower f s).cad = s.cad := rfl
@[simp] theorem modPower_keys (f : Power → Power) (s : State) : (modPower f s).keys = s.keys := rfl
@[simp] theorem modPower_link (f : Power → Power) (s : State) : (modPower f s).link = s.link := rfl
@[simp] theorem modPower_stack (f : Power → Power) (s : State) : (modPower f s).stack = s.stack := rfl
@[simp] theorem modPower_tray (f : Power → Power) (s : State) : (modPower f s).tray = s.tray := rfl
@[simp] theorem modPower_fau (f : Power → Power) (s : State) : (modPower f s).fau = s.fau := rfl
@[simp] theorem modPower_rings (f : Power → Power) (s : State) : (modPower f s).rings = s.rings := rfl
@[simp] theorem modPower_coll (f : Power → Power) (s : State) : (modPower f s).coll = s.coll := rfl
@[simp] theorem modPower_bars (f : Power → Power) (s : State) : (modPower f s).bars = s.bars := rfl
@[simp] theorem modPower_sca (f : Power → Power) (s : State) : (modPower f s).sca = s.sca := rfl
@[simp] theorem modPower_obj (f : Power → Power) (s : State) : (modPower f s).obj = s.obj := rfl
@[simp] theorem modPower_fns (f : Power → Power) (s : State) : (modPower f s).fns = s.fns := rfl
@[simp] theorem modPower_spdm (f : Power → Power) (s : State) : (modPower f s).spdm = s.spdm := rfl
@[simp] theorem modPower_weirs (f : Power → Power) (s : State) : (modPower f s).weirs = s.weirs := rfl
@[simp] theorem modPower_charts (f : Power → Power) (s : State) : (modPower f s).charts = s.charts := rfl
@[simp] theorem modPower_tracer (f : Power → Power) (s : State) : (modPower f s).tracer = s.tracer := rfl
@[simp] theorem modPower_gauge (f : Power → Power) (s : State) : (modPower f s).gauge = s.gauge := rfl
@[simp] theorem modPower_power (f : Power → Power) (s : State) : (modPower f s).power = f s.power := rfl
@[simp] theorem modPower_regs (f : Power → Power) (s : State) : (modPower f s).regs = s.regs := rfl
@[simp] theorem modPower_pool (f : Power → Power) (s : State) : (modPower f s).pool = s.pool := rfl
@[simp] theorem modPower_free (f : Power → Power) (s : State) : (modPower f s).free = s.free := rfl

@[simp] theorem emit_out (o : Output) (s : State) : (emit o s).out = s.out ++ [o] := rfl
@[simp] theorem tookFree_free (s : State) : (tookFree s).free = s.free + 1 := rfl
@[simp] theorem modPolder_polders (p : PolderId) (f : Polder → Polder) (s : State) :
    (modPolder p f s).polders = alter (fun x => x.id = p) f s.polders := rfl

end Sys2Proof.Machine
end

