-- ==== Sys2Proof/Laws/Fields.lean ====
section
/-! SUPPORT. What the shared operations leave as it was, part by part: each lemma follows from its operation's frame. -/

namespace Sys2Proof.Machine

theorem writeTrace_parts (e : TraceEvent) (s : State) : s.agree [.tracer] (writeTrace e s) :=
  writeTrace_frame _ s (agree_refl _ s) rfl

@[simp] theorem writeTrace_pending (e : TraceEvent) (s : State) : (writeTrace e s).pending = s.pending :=
  writeTrace_parts _ s .pending rfl

@[simp] theorem writeTrace_out (e : TraceEvent) (s : State) : (writeTrace e s).out = s.out :=
  writeTrace_parts _ s .out rfl

@[simp] theorem writeTrace_time (e : TraceEvent) (s : State) : (writeTrace e s).time = s.time :=
  writeTrace_parts _ s .time rfl

@[simp] theorem writeTrace_chip (e : TraceEvent) (s : State) : (writeTrace e s).chip = s.chip :=
  writeTrace_parts _ s .chip rfl

@[simp] theorem writeTrace_owner (e : TraceEvent) (s : State) : (writeTrace e s).owner = s.owner :=
  writeTrace_parts _ s .owner rfl

@[simp] theorem writeTrace_pins (e : TraceEvent) (s : State) : (writeTrace e s).pins = s.pins :=
  writeTrace_parts _ s .pins rfl

@[simp] theorem writeTrace_boot (e : TraceEvent) (s : State) : (writeTrace e s).boot = s.boot :=
  writeTrace_parts _ s .boot rfl

@[simp] theorem writeTrace_fuses (e : TraceEvent) (s : State) : (writeTrace e s).fuses = s.fuses :=
  writeTrace_parts _ s .fuses rfl

@[simp] theorem writeTrace_flash (e : TraceEvent) (s : State) : (writeTrace e s).flash = s.flash :=
  writeTrace_parts _ s .flash rfl

@[simp] theorem writeTrace_lc (e : TraceEvent) (s : State) : (writeTrace e s).lc = s.lc :=
  writeTrace_parts _ s .lc rfl

@[simp] theorem writeTrace_sb (e : TraceEvent) (s : State) : (writeTrace e s).sb = s.sb :=
  writeTrace_parts _ s .sb rfl

@[simp] theorem writeTrace_datum (e : TraceEvent) (s : State) : (writeTrace e s).datum = s.datum :=
  writeTrace_parts _ s .datum rfl

@[simp] theorem writeTrace_polders (e : TraceEvent) (s : State) : (writeTrace e s).polders = s.polders :=
  writeTrace_parts _ s .polders rfl

@[simp] theorem writeTrace_cad (e : TraceEvent) (s : State) : (writeTrace e s).cad = s.cad :=
  writeTrace_parts _ s .cad rfl

@[simp] theorem writeTrace_keys (e : TraceEvent) (s : State) : (writeTrace e s).keys = s.keys :=
  writeTrace_parts _ s .keys rfl

@[simp] theorem writeTrace_link (e : TraceEvent) (s : State) : (writeTrace e s).link = s.link :=
  writeTrace_parts _ s .link rfl

@[simp] theorem writeTrace_stack (e : TraceEvent) (s : State) : (writeTrace e s).stack = s.stack :=
  writeTrace_parts _ s .stack rfl

@[simp] theorem writeTrace_tray (e : TraceEvent) (s : State) : (writeTrace e s).tray = s.tray :=
  writeTrace_parts _ s .tray rfl

@[simp] theorem writeTrace_fau (e : TraceEvent) (s : State) : (writeTrace e s).fau = s.fau :=
  writeTrace_parts _ s .fau rfl

@[simp] theorem writeTrace_rings (e : TraceEvent) (s : State) : (writeTrace e s).rings = s.rings :=
  writeTrace_parts _ s .rings rfl

@[simp] theorem writeTrace_coll (e : TraceEvent) (s : State) : (writeTrace e s).coll = s.coll :=
  writeTrace_parts _ s .coll rfl

@[simp] theorem writeTrace_bars (e : TraceEvent) (s : State) : (writeTrace e s).bars = s.bars :=
  writeTrace_parts _ s .bars rfl

@[simp] theorem writeTrace_sca (e : TraceEvent) (s : State) : (writeTrace e s).sca = s.sca :=
  writeTrace_parts _ s .sca rfl

@[simp] theorem writeTrace_obj (e : TraceEvent) (s : State) : (writeTrace e s).obj = s.obj :=
  writeTrace_parts _ s .obj rfl

@[simp] theorem writeTrace_fns (e : TraceEvent) (s : State) : (writeTrace e s).fns = s.fns :=
  writeTrace_parts _ s .fns rfl

@[simp] theorem writeTrace_spdm (e : TraceEvent) (s : State) : (writeTrace e s).spdm = s.spdm :=
  writeTrace_parts _ s .spdm rfl

@[simp] theorem writeTrace_weirs (e : TraceEvent) (s : State) : (writeTrace e s).weirs = s.weirs :=
  writeTrace_parts _ s .weirs rfl

@[simp] theorem writeTrace_charts (e : TraceEvent) (s : State) : (writeTrace e s).charts = s.charts :=
  writeTrace_parts _ s .charts rfl

@[simp] theorem writeTrace_gauge (e : TraceEvent) (s : State) : (writeTrace e s).gauge = s.gauge :=
  writeTrace_parts _ s .gauge rfl

@[simp] theorem writeTrace_power (e : TraceEvent) (s : State) : (writeTrace e s).power = s.power :=
  writeTrace_parts _ s .power rfl

@[simp] theorem writeTrace_regs (e : TraceEvent) (s : State) : (writeTrace e s).regs = s.regs :=
  writeTrace_parts _ s .regs rfl

@[simp] theorem writeTrace_pool (e : TraceEvent) (s : State) : (writeTrace e s).pool = s.pool :=
  writeTrace_parts _ s .pool rfl

@[simp] theorem writeTrace_free (e : TraceEvent) (s : State) : (writeTrace e s).free = s.free :=
  writeTrace_parts _ s .free rfl

theorem emitTrace_parts (bit : Nat) (code : BitVec 16) (unit : BitVec 16) (p : PolderId) (c : Option CtxId) (payload : Bytes) (s : State) : s.agree [.tracer, .free] (emitTrace bit code unit p c payload s) :=
  emitTrace_frame _ _ _ _ _ _ s (agree_refl _ s) rfl

@[simp] theorem emitTrace_pending (bit : Nat) (code : BitVec 16) (unit : BitVec 16) (p : PolderId) (c : Option CtxId) (payload : Bytes) (s : State) : (emitTrace bit code unit p c payload s).pending = s.pending :=
  emitTrace_parts _ _ _ _ _ _ s .pending rfl

@[simp] theorem emitTrace_out (bit : Nat) (code : BitVec 16) (unit : BitVec 16) (p : PolderId) (c : Option CtxId) (payload : Bytes) (s : State) : (emitTrace bit code unit p c payload s).out = s.out :=
  emitTrace_parts _ _ _ _ _ _ s .out rfl

@[simp] theorem emitTrace_time (bit : Nat) (code : BitVec 16) (unit : BitVec 16) (p : PolderId) (c : Option CtxId) (payload : Bytes) (s : State) : (emitTrace bit code unit p c payload s).time = s.time :=
  emitTrace_parts _ _ _ _ _ _ s .time rfl

@[simp] theorem emitTrace_chip (bit : Nat) (code : BitVec 16) (unit : BitVec 16) (p : PolderId) (c : Option CtxId) (payload : Bytes) (s : State) : (emitTrace bit code unit p c payload s).chip = s.chip :=
  emitTrace_parts _ _ _ _ _ _ s .chip rfl

@[simp] theorem emitTrace_owner (bit : Nat) (code : BitVec 16) (unit : BitVec 16) (p : PolderId) (c : Option CtxId) (payload : Bytes) (s : State) : (emitTrace bit code unit p c payload s).owner = s.owner :=
  emitTrace_parts _ _ _ _ _ _ s .owner rfl

@[simp] theorem emitTrace_pins (bit : Nat) (code : BitVec 16) (unit : BitVec 16) (p : PolderId) (c : Option CtxId) (payload : Bytes) (s : State) : (emitTrace bit code unit p c payload s).pins = s.pins :=
  emitTrace_parts _ _ _ _ _ _ s .pins rfl

@[simp] theorem emitTrace_boot (bit : Nat) (code : BitVec 16) (unit : BitVec 16) (p : PolderId) (c : Option CtxId) (payload : Bytes) (s : State) : (emitTrace bit code unit p c payload s).boot = s.boot :=
  emitTrace_parts _ _ _ _ _ _ s .boot rfl

@[simp] theorem emitTrace_fuses (bit : Nat) (code : BitVec 16) (unit : BitVec 16) (p : PolderId) (c : Option CtxId) (payload : Bytes) (s : State) : (emitTrace bit code unit p c payload s).fuses = s.fuses :=
  emitTrace_parts _ _ _ _ _ _ s .fuses rfl

@[simp] theorem emitTrace_flash (bit : Nat) (code : BitVec 16) (unit : BitVec 16) (p : PolderId) (c : Option CtxId) (payload : Bytes) (s : State) : (emitTrace bit code unit p c payload s).flash = s.flash :=
  emitTrace_parts _ _ _ _ _ _ s .flash rfl

@[simp] theorem emitTrace_lc (bit : Nat) (code : BitVec 16) (unit : BitVec 16) (p : PolderId) (c : Option CtxId) (payload : Bytes) (s : State) : (emitTrace bit code unit p c payload s).lc = s.lc :=
  emitTrace_parts _ _ _ _ _ _ s .lc rfl

@[simp] theorem emitTrace_sb (bit : Nat) (code : BitVec 16) (unit : BitVec 16) (p : PolderId) (c : Option CtxId) (payload : Bytes) (s : State) : (emitTrace bit code unit p c payload s).sb = s.sb :=
  emitTrace_parts _ _ _ _ _ _ s .sb rfl

@[simp] theorem emitTrace_datum (bit : Nat) (code : BitVec 16) (unit : BitVec 16) (p : PolderId) (c : Option CtxId) (payload : Bytes) (s : State) : (emitTrace bit code unit p c payload s).datum = s.datum :=
  emitTrace_parts _ _ _ _ _ _ s .datum rfl

@[simp] theorem emitTrace_polders (bit : Nat) (code : BitVec 16) (unit : BitVec 16) (p : PolderId) (c : Option CtxId) (payload : Bytes) (s : State) : (emitTrace bit code unit p c payload s).polders = s.polders :=
  emitTrace_parts _ _ _ _ _ _ s .polders rfl

@[simp] theorem emitTrace_cad (bit : Nat) (code : BitVec 16) (unit : BitVec 16) (p : PolderId) (c : Option CtxId) (payload : Bytes) (s : State) : (emitTrace bit code unit p c payload s).cad = s.cad :=
  emitTrace_parts _ _ _ _ _ _ s .cad rfl

@[simp] theorem emitTrace_keys (bit : Nat) (code : BitVec 16) (unit : BitVec 16) (p : PolderId) (c : Option CtxId) (payload : Bytes) (s : State) : (emitTrace bit code unit p c payload s).keys = s.keys :=
  emitTrace_parts _ _ _ _ _ _ s .keys rfl

@[simp] theorem emitTrace_link (bit : Nat) (code : BitVec 16) (unit : BitVec 16) (p : PolderId) (c : Option CtxId) (payload : Bytes) (s : State) : (emitTrace bit code unit p c payload s).link = s.link :=
  emitTrace_parts _ _ _ _ _ _ s .link rfl

@[simp] theorem emitTrace_stack (bit : Nat) (code : BitVec 16) (unit : BitVec 16) (p : PolderId) (c : Option CtxId) (payload : Bytes) (s : State) : (emitTrace bit code unit p c payload s).stack = s.stack :=
  emitTrace_parts _ _ _ _ _ _ s .stack rfl

@[simp] theorem emitTrace_tray (bit : Nat) (code : BitVec 16) (unit : BitVec 16) (p : PolderId) (c : Option CtxId) (payload : Bytes) (s : State) : (emitTrace bit code unit p c payload s).tray = s.tray :=
  emitTrace_parts _ _ _ _ _ _ s .tray rfl

@[simp] theorem emitTrace_fau (bit : Nat) (code : BitVec 16) (unit : BitVec 16) (p : PolderId) (c : Option CtxId) (payload : Bytes) (s : State) : (emitTrace bit code unit p c payload s).fau = s.fau :=
  emitTrace_parts _ _ _ _ _ _ s .fau rfl

@[simp] theorem emitTrace_rings (bit : Nat) (code : BitVec 16) (unit : BitVec 16) (p : PolderId) (c : Option CtxId) (payload : Bytes) (s : State) : (emitTrace bit code unit p c payload s).rings = s.rings :=
  emitTrace_parts _ _ _ _ _ _ s .rings rfl

@[simp] theorem emitTrace_coll (bit : Nat) (code : BitVec 16) (unit : BitVec 16) (p : PolderId) (c : Option CtxId) (payload : Bytes) (s : State) : (emitTrace bit code unit p c payload s).coll = s.coll :=
  emitTrace_parts _ _ _ _ _ _ s .coll rfl

@[simp] theorem emitTrace_bars (bit : Nat) (code : BitVec 16) (unit : BitVec 16) (p : PolderId) (c : Option CtxId) (payload : Bytes) (s : State) : (emitTrace bit code unit p c payload s).bars = s.bars :=
  emitTrace_parts _ _ _ _ _ _ s .bars rfl

@[simp] theorem emitTrace_sca (bit : Nat) (code : BitVec 16) (unit : BitVec 16) (p : PolderId) (c : Option CtxId) (payload : Bytes) (s : State) : (emitTrace bit code unit p c payload s).sca = s.sca :=
  emitTrace_parts _ _ _ _ _ _ s .sca rfl

@[simp] theorem emitTrace_obj (bit : Nat) (code : BitVec 16) (unit : BitVec 16) (p : PolderId) (c : Option CtxId) (payload : Bytes) (s : State) : (emitTrace bit code unit p c payload s).obj = s.obj :=
  emitTrace_parts _ _ _ _ _ _ s .obj rfl

@[simp] theorem emitTrace_fns (bit : Nat) (code : BitVec 16) (unit : BitVec 16) (p : PolderId) (c : Option CtxId) (payload : Bytes) (s : State) : (emitTrace bit code unit p c payload s).fns = s.fns :=
  emitTrace_parts _ _ _ _ _ _ s .fns rfl

@[simp] theorem emitTrace_spdm (bit : Nat) (code : BitVec 16) (unit : BitVec 16) (p : PolderId) (c : Option CtxId) (payload : Bytes) (s : State) : (emitTrace bit code unit p c payload s).spdm = s.spdm :=
  emitTrace_parts _ _ _ _ _ _ s .spdm rfl

@[simp] theorem emitTrace_weirs (bit : Nat) (code : BitVec 16) (unit : BitVec 16) (p : PolderId) (c : Option CtxId) (payload : Bytes) (s : State) : (emitTrace bit code unit p c payload s).weirs = s.weirs :=
  emitTrace_parts _ _ _ _ _ _ s .weirs rfl

@[simp] theorem emitTrace_charts (bit : Nat) (code : BitVec 16) (unit : BitVec 16) (p : PolderId) (c : Option CtxId) (payload : Bytes) (s : State) : (emitTrace bit code unit p c payload s).charts = s.charts :=
  emitTrace_parts _ _ _ _ _ _ s .charts rfl

@[simp] theorem emitTrace_gauge (bit : Nat) (code : BitVec 16) (unit : BitVec 16) (p : PolderId) (c : Option CtxId) (payload : Bytes) (s : State) : (emitTrace bit code unit p c payload s).gauge = s.gauge :=
  emitTrace_parts _ _ _ _ _ _ s .gauge rfl

@[simp] theorem emitTrace_power (bit : Nat) (code : BitVec 16) (unit : BitVec 16) (p : PolderId) (c : Option CtxId) (payload : Bytes) (s : State) : (emitTrace bit code unit p c payload s).power = s.power :=
  emitTrace_parts _ _ _ _ _ _ s .power rfl

@[simp] theorem emitTrace_regs (bit : Nat) (code : BitVec 16) (unit : BitVec 16) (p : PolderId) (c : Option CtxId) (payload : Bytes) (s : State) : (emitTrace bit code unit p c payload s).regs = s.regs :=
  emitTrace_parts _ _ _ _ _ _ s .regs rfl

@[simp] theorem emitTrace_pool (bit : Nat) (code : BitVec 16) (unit : BitVec 16) (p : PolderId) (c : Option CtxId) (payload : Bytes) (s : State) : (emitTrace bit code unit p c payload s).pool = s.pool :=
  emitTrace_parts _ _ _ _ _ _ s .pool rfl

theorem hostWrite_parts (fn : FnId) (addr : BitVec 64) (b : Bytes) (s : State) : s.agree [.out, .fns] (hostWrite fn addr b s) :=
  hostWrite_frame _ _ _ s (agree_refl _ s) rfl

@[simp] theorem hostWrite_pending (fn : FnId) (addr : BitVec 64) (b : Bytes) (s : State) : (hostWrite fn addr b s).pending = s.pending :=
  hostWrite_parts _ _ _ s .pending rfl

@[simp] theorem hostWrite_time (fn : FnId) (addr : BitVec 64) (b : Bytes) (s : State) : (hostWrite fn addr b s).time = s.time :=
  hostWrite_parts _ _ _ s .time rfl

@[simp] theorem hostWrite_chip (fn : FnId) (addr : BitVec 64) (b : Bytes) (s : State) : (hostWrite fn addr b s).chip = s.chip :=
  hostWrite_parts _ _ _ s .chip rfl

@[simp] theorem hostWrite_owner (fn : FnId) (addr : BitVec 64) (b : Bytes) (s : State) : (hostWrite fn addr b s).owner = s.owner :=
  hostWrite_parts _ _ _ s .owner rfl

@[simp] theorem hostWrite_pins (fn : FnId) (addr : BitVec 64) (b : Bytes) (s : State) : (hostWrite fn addr b s).pins = s.pins :=
  hostWrite_parts _ _ _ s .pins rfl

@[simp] theorem hostWrite_boot (fn : FnId) (addr : BitVec 64) (b : Bytes) (s : State) : (hostWrite fn addr b s).boot = s.boot :=
  hostWrite_parts _ _ _ s .boot rfl

@[simp] theorem hostWrite_fuses (fn : FnId) (addr : BitVec 64) (b : Bytes) (s : State) : (hostWrite fn addr b s).fuses = s.fuses :=
  hostWrite_parts _ _ _ s .fuses rfl

@[simp] theorem hostWrite_flash (fn : FnId) (addr : BitVec 64) (b : Bytes) (s : State) : (hostWrite fn addr b s).flash = s.flash :=
  hostWrite_parts _ _ _ s .flash rfl

@[simp] theorem hostWrite_lc (fn : FnId) (addr : BitVec 64) (b : Bytes) (s : State) : (hostWrite fn addr b s).lc = s.lc :=
  hostWrite_parts _ _ _ s .lc rfl

@[simp] theorem hostWrite_sb (fn : FnId) (addr : BitVec 64) (b : Bytes) (s : State) : (hostWrite fn addr b s).sb = s.sb :=
  hostWrite_parts _ _ _ s .sb rfl

@[simp] theorem hostWrite_datum (fn : FnId) (addr : BitVec 64) (b : Bytes) (s : State) : (hostWrite fn addr b s).datum = s.datum :=
  hostWrite_parts _ _ _ s .datum rfl

@[simp] theorem hostWrite_polders (fn : FnId) (addr : BitVec 64) (b : Bytes) (s : State) : (hostWrite fn addr b s).polders = s.polders :=
  hostWrite_parts _ _ _ s .polders rfl

@[simp] theorem hostWrite_cad (fn : FnId) (addr : BitVec 64) (b : Bytes) (s : State) : (hostWrite fn addr b s).cad = s.cad :=
  hostWrite_parts _ _ _ s .cad rfl

@[simp] theorem hostWrite_keys (fn : FnId) (addr : BitVec 64) (b : Bytes) (s : State) : (hostWrite fn addr b s).keys = s.keys :=
  hostWrite_parts _ _ _ s .keys rfl

@[simp] theorem hostWrite_link (fn : FnId) (addr : BitVec 64) (b : Bytes) (s : State) : (hostWrite fn addr b s).link = s.link :=
  hostWrite_parts _ _ _ s .link rfl

@[simp] theorem hostWrite_stack (fn : FnId) (addr : BitVec 64) (b : Bytes) (s : State) : (hostWrite fn addr b s).stack = s.stack :=
  hostWrite_parts _ _ _ s .stack rfl

@[simp] theorem hostWrite_tray (fn : FnId) (addr : BitVec 64) (b : Bytes) (s : State) : (hostWrite fn addr b s).tray = s.tray :=
  hostWrite_parts _ _ _ s .tray rfl

@[simp] theorem hostWrite_fau (fn : FnId) (addr : BitVec 64) (b : Bytes) (s : State) : (hostWrite fn addr b s).fau = s.fau :=
  hostWrite_parts _ _ _ s .fau rfl

@[simp] theorem hostWrite_rings (fn : FnId) (addr : BitVec 64) (b : Bytes) (s : State) : (hostWrite fn addr b s).rings = s.rings :=
  hostWrite_parts _ _ _ s .rings rfl

@[simp] theorem hostWrite_coll (fn : FnId) (addr : BitVec 64) (b : Bytes) (s : State) : (hostWrite fn addr b s).coll = s.coll :=
  hostWrite_parts _ _ _ s .coll rfl

@[simp] theorem hostWrite_bars (fn : FnId) (addr : BitVec 64) (b : Bytes) (s : State) : (hostWrite fn addr b s).bars = s.bars :=
  hostWrite_parts _ _ _ s .bars rfl

@[simp] theorem hostWrite_sca (fn : FnId) (addr : BitVec 64) (b : Bytes) (s : State) : (hostWrite fn addr b s).sca = s.sca :=
  hostWrite_parts _ _ _ s .sca rfl

@[simp] theorem hostWrite_obj (fn : FnId) (addr : BitVec 64) (b : Bytes) (s : State) : (hostWrite fn addr b s).obj = s.obj :=
  hostWrite_parts _ _ _ s .obj rfl

@[simp] theorem hostWrite_spdm (fn : FnId) (addr : BitVec 64) (b : Bytes) (s : State) : (hostWrite fn addr b s).spdm = s.spdm :=
  hostWrite_parts _ _ _ s .spdm rfl

@[simp] theorem hostWrite_weirs (fn : FnId) (addr : BitVec 64) (b : Bytes) (s : State) : (hostWrite fn addr b s).weirs = s.weirs :=
  hostWrite_parts _ _ _ s .weirs rfl

@[simp] theorem hostWrite_charts (fn : FnId) (addr : BitVec 64) (b : Bytes) (s : State) : (hostWrite fn addr b s).charts = s.charts :=
  hostWrite_parts _ _ _ s .charts rfl

@[simp] theorem hostWrite_tracer (fn : FnId) (addr : BitVec 64) (b : Bytes) (s : State) : (hostWrite fn addr b s).tracer = s.tracer :=
  hostWrite_parts _ _ _ s .tracer rfl

@[simp] theorem hostWrite_gauge (fn : FnId) (addr : BitVec 64) (b : Bytes) (s : State) : (hostWrite fn addr b s).gauge = s.gauge :=
  hostWrite_parts _ _ _ s .gauge rfl

@[simp] theorem hostWrite_power (fn : FnId) (addr : BitVec 64) (b : Bytes) (s : State) : (hostWrite fn addr b s).power = s.power :=
  hostWrite_parts _ _ _ s .power rfl

@[simp] theorem hostWrite_regs (fn : FnId) (addr : BitVec 64) (b : Bytes) (s : State) : (hostWrite fn addr b s).regs = s.regs :=
  hostWrite_parts _ _ _ s .regs rfl

@[simp] theorem hostWrite_pool (fn : FnId) (addr : BitVec 64) (b : Bytes) (s : State) : (hostWrite fn addr b s).pool = s.pool :=
  hostWrite_parts _ _ _ s .pool rfl

@[simp] theorem hostWrite_free (fn : FnId) (addr : BitVec 64) (b : Bytes) (s : State) : (hostWrite fn addr b s).free = s.free :=
  hostWrite_parts _ _ _ s .free rfl

theorem writeRecord_parts (fn : FnId) (id : BitVec 9) (e : EventRec) (s : State) : s.agree [.out, .obj, .fns] (writeRecord fn id e s) :=
  writeRecord_frame _ _ _ s (agree_refl _ s) rfl

@[simp] theorem writeRecord_pending (fn : FnId) (id : BitVec 9) (e : EventRec) (s : State) : (writeRecord fn id e s).pending = s.pending :=
  writeRecord_parts _ _ _ s .pending rfl

@[simp] theorem writeRecord_time (fn : FnId) (id : BitVec 9) (e : EventRec) (s : State) : (writeRecord fn id e s).time = s.time :=
  writeRecord_parts _ _ _ s .time rfl

@[simp] theorem writeRecord_chip (fn : FnId) (id : BitVec 9) (e : EventRec) (s : State) : (writeRecord fn id e s).chip = s.chip :=
  writeRecord_parts _ _ _ s .chip rfl

@[simp] theorem writeRecord_owner (fn : FnId) (id : BitVec 9) (e : EventRec) (s : State) : (writeRecord fn id e s).owner = s.owner :=
  writeRecord_parts _ _ _ s .owner rfl

@[simp] theorem writeRecord_pins (fn : FnId) (id : BitVec 9) (e : EventRec) (s : State) : (writeRecord fn id e s).pins = s.pins :=
  writeRecord_parts _ _ _ s .pins rfl

@[simp] theorem writeRecord_boot (fn : FnId) (id : BitVec 9) (e : EventRec) (s : State) : (writeRecord fn id e s).boot = s.boot :=
  writeRecord_parts _ _ _ s .boot rfl

@[simp] theorem writeRecord_fuses (fn : FnId) (id : BitVec 9) (e : EventRec) (s : State) : (writeRecord fn id e s).fuses = s.fuses :=
  writeRecord_parts _ _ _ s .fuses rfl

@[simp] theorem writeRecord_flash (fn : FnId) (id : BitVec 9) (e : EventRec) (s : State) : (writeRecord fn id e s).flash = s.flash :=
  writeRecord_parts _ _ _ s .flash rfl

@[simp] theorem writeRecord_lc (fn : FnId) (id : BitVec 9) (e : EventRec) (s : State) : (writeRecord fn id e s).lc = s.lc :=
  writeRecord_parts _ _ _ s .lc rfl

@[simp] theorem writeRecord_sb (fn : FnId) (id : BitVec 9) (e : EventRec) (s : State) : (writeRecord fn id e s).sb = s.sb :=
  writeRecord_parts _ _ _ s .sb rfl

@[simp] theorem writeRecord_datum (fn : FnId) (id : BitVec 9) (e : EventRec) (s : State) : (writeRecord fn id e s).datum = s.datum :=
  writeRecord_parts _ _ _ s .datum rfl

@[simp] theorem writeRecord_polders (fn : FnId) (id : BitVec 9) (e : EventRec) (s : State) : (writeRecord fn id e s).polders = s.polders :=
  writeRecord_parts _ _ _ s .polders rfl

@[simp] theorem writeRecord_cad (fn : FnId) (id : BitVec 9) (e : EventRec) (s : State) : (writeRecord fn id e s).cad = s.cad :=
  writeRecord_parts _ _ _ s .cad rfl

@[simp] theorem writeRecord_keys (fn : FnId) (id : BitVec 9) (e : EventRec) (s : State) : (writeRecord fn id e s).keys = s.keys :=
  writeRecord_parts _ _ _ s .keys rfl

@[simp] theorem writeRecord_link (fn : FnId) (id : BitVec 9) (e : EventRec) (s : State) : (writeRecord fn id e s).link = s.link :=
  writeRecord_parts _ _ _ s .link rfl

@[simp] theorem writeRecord_stack (fn : FnId) (id : BitVec 9) (e : EventRec) (s : State) : (writeRecord fn id e s).stack = s.stack :=
  writeRecord_parts _ _ _ s .stack rfl

@[simp] theorem writeRecord_tray (fn : FnId) (id : BitVec 9) (e : EventRec) (s : State) : (writeRecord fn id e s).tray = s.tray :=
  writeRecord_parts _ _ _ s .tray rfl

@[simp] theorem writeRecord_fau (fn : FnId) (id : BitVec 9) (e : EventRec) (s : State) : (writeRecord fn id e s).fau = s.fau :=
  writeRecord_parts _ _ _ s .fau rfl

@[simp] theorem writeRecord_rings (fn : FnId) (id : BitVec 9) (e : EventRec) (s : State) : (writeRecord fn id e s).rings = s.rings :=
  writeRecord_parts _ _ _ s .rings rfl

@[simp] theorem writeRecord_coll (fn : FnId) (id : BitVec 9) (e : EventRec) (s : State) : (writeRecord fn id e s).coll = s.coll :=
  writeRecord_parts _ _ _ s .coll rfl

@[simp] theorem writeRecord_bars (fn : FnId) (id : BitVec 9) (e : EventRec) (s : State) : (writeRecord fn id e s).bars = s.bars :=
  writeRecord_parts _ _ _ s .bars rfl

@[simp] theorem writeRecord_sca (fn : FnId) (id : BitVec 9) (e : EventRec) (s : State) : (writeRecord fn id e s).sca = s.sca :=
  writeRecord_parts _ _ _ s .sca rfl

@[simp] theorem writeRecord_spdm (fn : FnId) (id : BitVec 9) (e : EventRec) (s : State) : (writeRecord fn id e s).spdm = s.spdm :=
  writeRecord_parts _ _ _ s .spdm rfl

@[simp] theorem writeRecord_weirs (fn : FnId) (id : BitVec 9) (e : EventRec) (s : State) : (writeRecord fn id e s).weirs = s.weirs :=
  writeRecord_parts _ _ _ s .weirs rfl

@[simp] theorem writeRecord_charts (fn : FnId) (id : BitVec 9) (e : EventRec) (s : State) : (writeRecord fn id e s).charts = s.charts :=
  writeRecord_parts _ _ _ s .charts rfl

@[simp] theorem writeRecord_tracer (fn : FnId) (id : BitVec 9) (e : EventRec) (s : State) : (writeRecord fn id e s).tracer = s.tracer :=
  writeRecord_parts _ _ _ s .tracer rfl

@[simp] theorem writeRecord_gauge (fn : FnId) (id : BitVec 9) (e : EventRec) (s : State) : (writeRecord fn id e s).gauge = s.gauge :=
  writeRecord_parts _ _ _ s .gauge rfl

@[simp] theorem writeRecord_power (fn : FnId) (id : BitVec 9) (e : EventRec) (s : State) : (writeRecord fn id e s).power = s.power :=
  writeRecord_parts _ _ _ s .power rfl

@[simp] theorem writeRecord_regs (fn : FnId) (id : BitVec 9) (e : EventRec) (s : State) : (writeRecord fn id e s).regs = s.regs :=
  writeRecord_parts _ _ _ s .regs rfl

@[simp] theorem writeRecord_pool (fn : FnId) (id : BitVec 9) (e : EventRec) (s : State) : (writeRecord fn id e s).pool = s.pool :=
  writeRecord_parts _ _ _ s .pool rfl

@[simp] theorem writeRecord_free (fn : FnId) (id : BitVec 9) (e : EventRec) (s : State) : (writeRecord fn id e s).free = s.free :=
  writeRecord_parts _ _ _ s .free rfl

theorem postEvent_parts (fn : FnId) (id : BitVec 9) (e : EventRec) (s : State) : s.agree [.out, .obj, .fns, .tracer] (postEvent fn id e s) :=
  postEvent_frame _ _ _ s (agree_refl _ s) rfl

@[simp] theorem postEvent_pending (fn : FnId) (id : BitVec 9) (e : EventRec) (s : State) : (postEvent fn id e s).pending = s.pending :=
  postEvent_parts _ _ _ s .pending rfl

@[simp] theorem postEvent_time (fn : FnId) (id : BitVec 9) (e : EventRec) (s : State) : (postEvent fn id e s).time = s.time :=
  postEvent_parts _ _ _ s .time rfl

@[simp] theorem postEvent_chip (fn : FnId) (id : BitVec 9) (e : EventRec) (s : State) : (postEvent fn id e s).chip = s.chip :=
  postEvent_parts _ _ _ s .chip rfl

@[simp] theorem postEvent_owner (fn : FnId) (id : BitVec 9) (e : EventRec) (s : State) : (postEvent fn id e s).owner = s.owner :=
  postEvent_parts _ _ _ s .owner rfl

@[simp] theorem postEvent_pins (fn : FnId) (id : BitVec 9) (e : EventRec) (s : State) : (postEvent fn id e s).pins = s.pins :=
  postEvent_parts _ _ _ s .pins rfl

@[simp] theorem postEvent_boot (fn : FnId) (id : BitVec 9) (e : EventRec) (s : State) : (postEvent fn id e s).boot = s.boot :=
  postEvent_parts _ _ _ s .boot rfl

@[simp] theorem postEvent_fuses (fn : FnId) (id : BitVec 9) (e : EventRec) (s : State) : (postEvent fn id e s).fuses = s.fuses :=
  postEvent_parts _ _ _ s .fuses rfl

@[simp] theorem postEvent_flash (fn : FnId) (id : BitVec 9) (e : EventRec) (s : State) : (postEvent fn id e s).flash = s.flash :=
  postEvent_parts _ _ _ s .flash rfl

@[simp] theorem postEvent_lc (fn : FnId) (id : BitVec 9) (e : EventRec) (s : State) : (postEvent fn id e s).lc = s.lc :=
  postEvent_parts _ _ _ s .lc rfl

@[simp] theorem postEvent_sb (fn : FnId) (id : BitVec 9) (e : EventRec) (s : State) : (postEvent fn id e s).sb = s.sb :=
  postEvent_parts _ _ _ s .sb rfl

@[simp] theorem postEvent_datum (fn : FnId) (id : BitVec 9) (e : EventRec) (s : State) : (postEvent fn id e s).datum = s.datum :=
  postEvent_parts _ _ _ s .datum rfl

@[simp] theorem postEvent_polders (fn : FnId) (id : BitVec 9) (e : EventRec) (s : State) : (postEvent fn id e s).polders = s.polders :=
  postEvent_parts _ _ _ s .polders rfl

@[simp] theorem postEvent_cad (fn : FnId) (id : BitVec 9) (e : EventRec) (s : State) : (postEvent fn id e s).cad = s.cad :=
  postEvent_parts _ _ _ s .cad rfl

@[simp] theorem postEvent_keys (fn : FnId) (id : BitVec 9) (e : EventRec) (s : State) : (postEvent fn id e s).keys = s.keys :=
  postEvent_parts _ _ _ s .keys rfl

@[simp] theorem postEvent_link (fn : FnId) (id : BitVec 9) (e : EventRec) (s : State) : (postEvent fn id e s).link = s.link :=
  postEvent_parts _ _ _ s .link rfl

@[simp] theorem postEvent_stack (fn : FnId) (id : BitVec 9) (e : EventRec) (s : State) : (postEvent fn id e s).stack = s.stack :=
  postEvent_parts _ _ _ s .stack rfl

@[simp] theorem postEvent_tray (fn : FnId) (id : BitVec 9) (e : EventRec) (s : State) : (postEvent fn id e s).tray = s.tray :=
  postEvent_parts _ _ _ s .tray rfl

@[simp] theorem postEvent_fau (fn : FnId) (id : BitVec 9) (e : EventRec) (s : State) : (postEvent fn id e s).fau = s.fau :=
  postEvent_parts _ _ _ s .fau rfl

@[simp] theorem postEvent_rings (fn : FnId) (id : BitVec 9) (e : EventRec) (s : State) : (postEvent fn id e s).rings = s.rings :=
  postEvent_parts _ _ _ s .rings rfl

@[simp] theorem postEvent_coll (fn : FnId) (id : BitVec 9) (e : EventRec) (s : State) : (postEvent fn id e s).coll = s.coll :=
  postEvent_parts _ _ _ s .coll rfl

@[simp] theorem postEvent_bars (fn : FnId) (id : BitVec 9) (e : EventRec) (s : State) : (postEvent fn id e s).bars = s.bars :=
  postEvent_parts _ _ _ s .bars rfl

@[simp] theorem postEvent_sca (fn : FnId) (id : BitVec 9) (e : EventRec) (s : State) : (postEvent fn id e s).sca = s.sca :=
  postEvent_parts _ _ _ s .sca rfl

@[simp] theorem postEvent_spdm (fn : FnId) (id : BitVec 9) (e : EventRec) (s : State) : (postEvent fn id e s).spdm = s.spdm :=
  postEvent_parts _ _ _ s .spdm rfl

@[simp] theorem postEvent_weirs (fn : FnId) (id : BitVec 9) (e : EventRec) (s : State) : (postEvent fn id e s).weirs = s.weirs :=
  postEvent_parts _ _ _ s .weirs rfl

@[simp] theorem postEvent_charts (fn : FnId) (id : BitVec 9) (e : EventRec) (s : State) : (postEvent fn id e s).charts = s.charts :=
  postEvent_parts _ _ _ s .charts rfl

@[simp] theorem postEvent_gauge (fn : FnId) (id : BitVec 9) (e : EventRec) (s : State) : (postEvent fn id e s).gauge = s.gauge :=
  postEvent_parts _ _ _ s .gauge rfl

@[simp] theorem postEvent_power (fn : FnId) (id : BitVec 9) (e : EventRec) (s : State) : (postEvent fn id e s).power = s.power :=
  postEvent_parts _ _ _ s .power rfl

@[simp] theorem postEvent_regs (fn : FnId) (id : BitVec 9) (e : EventRec) (s : State) : (postEvent fn id e s).regs = s.regs :=
  postEvent_parts _ _ _ s .regs rfl

@[simp] theorem postEvent_pool (fn : FnId) (id : BitVec 9) (e : EventRec) (s : State) : (postEvent fn id e s).pool = s.pool :=
  postEvent_parts _ _ _ s .pool rfl

@[simp] theorem postEvent_free (fn : FnId) (id : BitVec 9) (e : EventRec) (s : State) : (postEvent fn id e s).free = s.free :=
  postEvent_parts _ _ _ s .free rfl

theorem writeFault_parts (n : FaultName) (i : FaultInfo) (s : State) : s.agree [.out, .sb, .polders, .obj, .fns, .tracer, .free] (writeFault n i s) :=
  writeFault_frame _ _ s (agree_refl _ s) rfl

@[simp] theorem writeFault_pending (n : FaultName) (i : FaultInfo) (s : State) : (writeFault n i s).pending = s.pending :=
  writeFault_parts _ _ s .pending rfl

@[simp] theorem writeFault_time (n : FaultName) (i : FaultInfo) (s : State) : (writeFault n i s).time = s.time :=
  writeFault_parts _ _ s .time rfl

@[simp] theorem writeFault_chip (n : FaultName) (i : FaultInfo) (s : State) : (writeFault n i s).chip = s.chip :=
  writeFault_parts _ _ s .chip rfl

@[simp] theorem writeFault_owner (n : FaultName) (i : FaultInfo) (s : State) : (writeFault n i s).owner = s.owner :=
  writeFault_parts _ _ s .owner rfl

@[simp] theorem writeFault_pins (n : FaultName) (i : FaultInfo) (s : State) : (writeFault n i s).pins = s.pins :=
  writeFault_parts _ _ s .pins rfl

@[simp] theorem writeFault_boot (n : FaultName) (i : FaultInfo) (s : State) : (writeFault n i s).boot = s.boot :=
  writeFault_parts _ _ s .boot rfl

@[simp] theorem writeFault_fuses (n : FaultName) (i : FaultInfo) (s : State) : (writeFault n i s).fuses = s.fuses :=
  writeFault_parts _ _ s .fuses rfl

@[simp] theorem writeFault_flash (n : FaultName) (i : FaultInfo) (s : State) : (writeFault n i s).flash = s.flash :=
  writeFault_parts _ _ s .flash rfl

@[simp] theorem writeFault_lc (n : FaultName) (i : FaultInfo) (s : State) : (writeFault n i s).lc = s.lc :=
  writeFault_parts _ _ s .lc rfl

@[simp] theorem writeFault_datum (n : FaultName) (i : FaultInfo) (s : State) : (writeFault n i s).datum = s.datum :=
  writeFault_parts _ _ s .datum rfl

@[simp] theorem writeFault_cad (n : FaultName) (i : FaultInfo) (s : State) : (writeFault n i s).cad = s.cad :=
  writeFault_parts _ _ s .cad rfl

@[simp] theorem writeFault_keys (n : FaultName) (i : FaultInfo) (s : State) : (writeFault n i s).keys = s.keys :=
  writeFault_parts _ _ s .keys rfl

@[simp] theorem writeFault_link (n : FaultName) (i : FaultInfo) (s : State) : (writeFault n i s).link = s.link :=
  writeFault_parts _ _ s .link rfl

@[simp] theorem writeFault_stack (n : FaultName) (i : FaultInfo) (s : State) : (writeFault n i s).stack = s.stack :=
  writeFault_parts _ _ s .stack rfl

@[simp] theorem writeFault_tray (n : FaultName) (i : FaultInfo) (s : State) : (writeFault n i s).tray = s.tray :=
  writeFault_parts _ _ s .tray rfl

@[simp] theorem writeFault_fau (n : FaultName) (i : FaultInfo) (s : State) : (writeFault n i s).fau = s.fau :=
  writeFault_parts _ _ s .fau rfl

@[simp] theorem writeFault_rings (n : FaultName) (i : FaultInfo) (s : State) : (writeFault n i s).rings = s.rings :=
  writeFault_parts _ _ s .rings rfl

@[simp] theorem writeFault_coll (n : FaultName) (i : FaultInfo) (s : State) : (writeFault n i s).coll = s.coll :=
  writeFault_parts _ _ s .coll rfl

@[simp] theorem writeFault_bars (n : FaultName) (i : FaultInfo) (s : State) : (writeFault n i s).bars = s.bars :=
  writeFault_parts _ _ s .bars rfl

@[simp] theorem writeFault_sca (n : FaultName) (i : FaultInfo) (s : State) : (writeFault n i s).sca = s.sca :=
  writeFault_parts _ _ s .sca rfl

@[simp] theorem writeFault_spdm (n : FaultName) (i : FaultInfo) (s : State) : (writeFault n i s).spdm = s.spdm :=
  writeFault_parts _ _ s .spdm rfl

@[simp] theorem writeFault_weirs (n : FaultName) (i : FaultInfo) (s : State) : (writeFault n i s).weirs = s.weirs :=
  writeFault_parts _ _ s .weirs rfl

@[simp] theorem writeFault_charts (n : FaultName) (i : FaultInfo) (s : State) : (writeFault n i s).charts = s.charts :=
  writeFault_parts _ _ s .charts rfl

@[simp] theorem writeFault_gauge (n : FaultName) (i : FaultInfo) (s : State) : (writeFault n i s).gauge = s.gauge :=
  writeFault_parts _ _ s .gauge rfl

@[simp] theorem writeFault_power (n : FaultName) (i : FaultInfo) (s : State) : (writeFault n i s).power = s.power :=
  writeFault_parts _ _ s .power rfl

@[simp] theorem writeFault_regs (n : FaultName) (i : FaultInfo) (s : State) : (writeFault n i s).regs = s.regs :=
  writeFault_parts _ _ s .regs rfl

@[simp] theorem writeFault_pool (n : FaultName) (i : FaultInfo) (s : State) : (writeFault n i s).pool = s.pool :=
  writeFault_parts _ _ s .pool rfl

theorem writeResponse_parts (fn : FnId) (b : Bytes) (s : State) : s.agree [.fns] (writeResponse fn b s) :=
  writeResponse_frame _ _ s (agree_refl _ s) rfl

@[simp] theorem writeResponse_pending (fn : FnId) (b : Bytes) (s : State) : (writeResponse fn b s).pending = s.pending :=
  writeResponse_parts _ _ s .pending rfl

@[simp] theorem writeResponse_out (fn : FnId) (b : Bytes) (s : State) : (writeResponse fn b s).out = s.out :=
  writeResponse_parts _ _ s .out rfl

@[simp] theorem writeResponse_time (fn : FnId) (b : Bytes) (s : State) : (writeResponse fn b s).time = s.time :=
  writeResponse_parts _ _ s .time rfl

@[simp] theorem writeResponse_chip (fn : FnId) (b : Bytes) (s : State) : (writeResponse fn b s).chip = s.chip :=
  writeResponse_parts _ _ s .chip rfl

@[simp] theorem writeResponse_owner (fn : FnId) (b : Bytes) (s : State) : (writeResponse fn b s).owner = s.owner :=
  writeResponse_parts _ _ s .owner rfl

@[simp] theorem writeResponse_pins (fn : FnId) (b : Bytes) (s : State) : (writeResponse fn b s).pins = s.pins :=
  writeResponse_parts _ _ s .pins rfl

@[simp] theorem writeResponse_boot (fn : FnId) (b : Bytes) (s : State) : (writeResponse fn b s).boot = s.boot :=
  writeResponse_parts _ _ s .boot rfl

@[simp] theorem writeResponse_fuses (fn : FnId) (b : Bytes) (s : State) : (writeResponse fn b s).fuses = s.fuses :=
  writeResponse_parts _ _ s .fuses rfl

@[simp] theorem writeResponse_flash (fn : FnId) (b : Bytes) (s : State) : (writeResponse fn b s).flash = s.flash :=
  writeResponse_parts _ _ s .flash rfl

@[simp] theorem writeResponse_lc (fn : FnId) (b : Bytes) (s : State) : (writeResponse fn b s).lc = s.lc :=
  writeResponse_parts _ _ s .lc rfl

@[simp] theorem writeResponse_sb (fn : FnId) (b : Bytes) (s : State) : (writeResponse fn b s).sb = s.sb :=
  writeResponse_parts _ _ s .sb rfl

@[simp] theorem writeResponse_datum (fn : FnId) (b : Bytes) (s : State) : (writeResponse fn b s).datum = s.datum :=
  writeResponse_parts _ _ s .datum rfl

@[simp] theorem writeResponse_polders (fn : FnId) (b : Bytes) (s : State) : (writeResponse fn b s).polders = s.polders :=
  writeResponse_parts _ _ s .polders rfl

@[simp] theorem writeResponse_cad (fn : FnId) (b : Bytes) (s : State) : (writeResponse fn b s).cad = s.cad :=
  writeResponse_parts _ _ s .cad rfl

@[simp] theorem writeResponse_keys (fn : FnId) (b : Bytes) (s : State) : (writeResponse fn b s).keys = s.keys :=
  writeResponse_parts _ _ s .keys rfl

@[simp] theorem writeResponse_link (fn : FnId) (b : Bytes) (s : State) : (writeResponse fn b s).link = s.link :=
  writeResponse_parts _ _ s .link rfl

@[simp] theorem writeResponse_stack (fn : FnId) (b : Bytes) (s : State) : (writeResponse fn b s).stack = s.stack :=
  writeResponse_parts _ _ s .stack rfl

@[simp] theorem writeResponse_tray (fn : FnId) (b : Bytes) (s : State) : (writeResponse fn b s).tray = s.tray :=
  writeResponse_parts _ _ s .tray rfl

@[simp] theorem writeResponse_fau (fn : FnId) (b : Bytes) (s : State) : (writeResponse fn b s).fau = s.fau :=
  writeResponse_parts _ _ s .fau rfl

@[simp] theorem writeResponse_rings (fn : FnId) (b : Bytes) (s : State) : (writeResponse fn b s).rings = s.rings :=
  writeResponse_parts _ _ s .rings rfl

@[simp] theorem writeResponse_coll (fn : FnId) (b : Bytes) (s : State) : (writeResponse fn b s).coll = s.coll :=
  writeResponse_parts _ _ s .coll rfl

@[simp] theorem writeResponse_bars (fn : FnId) (b : Bytes) (s : State) : (writeResponse fn b s).bars = s.bars :=
  writeResponse_parts _ _ s .bars rfl

@[simp] theorem writeResponse_sca (fn : FnId) (b : Bytes) (s : State) : (writeResponse fn b s).sca = s.sca :=
  writeResponse_parts _ _ s .sca rfl

@[simp] theorem writeResponse_obj (fn : FnId) (b : Bytes) (s : State) : (writeResponse fn b s).obj = s.obj :=
  writeResponse_parts _ _ s .obj rfl

@[simp] theorem writeResponse_spdm (fn : FnId) (b : Bytes) (s : State) : (writeResponse fn b s).spdm = s.spdm :=
  writeResponse_parts _ _ s .spdm rfl

@[simp] theorem writeResponse_weirs (fn : FnId) (b : Bytes) (s : State) : (writeResponse fn b s).weirs = s.weirs :=
  writeResponse_parts _ _ s .weirs rfl

@[simp] theorem writeResponse_charts (fn : FnId) (b : Bytes) (s : State) : (writeResponse fn b s).charts = s.charts :=
  writeResponse_parts _ _ s .charts rfl

@[simp] theorem writeResponse_tracer (fn : FnId) (b : Bytes) (s : State) : (writeResponse fn b s).tracer = s.tracer :=
  writeResponse_parts _ _ s .tracer rfl

@[simp] theorem writeResponse_gauge (fn : FnId) (b : Bytes) (s : State) : (writeResponse fn b s).gauge = s.gauge :=
  writeResponse_parts _ _ s .gauge rfl

@[simp] theorem writeResponse_power (fn : FnId) (b : Bytes) (s : State) : (writeResponse fn b s).power = s.power :=
  writeResponse_parts _ _ s .power rfl

@[simp] theorem writeResponse_regs (fn : FnId) (b : Bytes) (s : State) : (writeResponse fn b s).regs = s.regs :=
  writeResponse_parts _ _ s .regs rfl

@[simp] theorem writeResponse_pool (fn : FnId) (b : Bytes) (s : State) : (writeResponse fn b s).pool = s.pool :=
  writeResponse_parts _ _ s .pool rfl

@[simp] theorem writeResponse_free (fn : FnId) (b : Bytes) (s : State) : (writeResponse fn b s).free = s.free :=
  writeResponse_parts _ _ s .free rfl

theorem reply_parts (o : Origin) (tag : BitVec 32) (opcode : BitVec 16) (st : Status) (payload : Bytes) (s : State) : s.agree [.out, .sb, .polders, .keys, .obj, .fns, .spdm, .tracer, .power, .free] (reply o tag opcode st payload s) :=
  reply_frame _ _ _ _ _ s (agree_refl _ s) rfl

@[simp] theorem reply_pending (o : Origin) (tag : BitVec 32) (opcode : BitVec 16) (st : Status) (payload : Bytes) (s : State) : (reply o tag opcode st payload s).pending = s.pending :=
  reply_parts _ _ _ _ _ s .pending rfl

@[simp] theorem reply_time (o : Origin) (tag : BitVec 32) (opcode : BitVec 16) (st : Status) (payload : Bytes) (s : State) : (reply o tag opcode st payload s).time = s.time :=
  reply_parts _ _ _ _ _ s .time rfl

@[simp] theorem reply_chip (o : Origin) (tag : BitVec 32) (opcode : BitVec 16) (st : Status) (payload : Bytes) (s : State) : (reply o tag opcode st payload s).chip = s.chip :=
  reply_parts _ _ _ _ _ s .chip rfl

@[simp] theorem reply_owner (o : Origin) (tag : BitVec 32) (opcode : BitVec 16) (st : Status) (payload : Bytes) (s : State) : (reply o tag opcode st payload s).owner = s.owner :=
  reply_parts _ _ _ _ _ s .owner rfl

@[simp] theorem reply_pins (o : Origin) (tag : BitVec 32) (opcode : BitVec 16) (st : Status) (payload : Bytes) (s : State) : (reply o tag opcode st payload s).pins = s.pins :=
  reply_parts _ _ _ _ _ s .pins rfl

@[simp] theorem reply_boot (o : Origin) (tag : BitVec 32) (opcode : BitVec 16) (st : Status) (payload : Bytes) (s : State) : (reply o tag opcode st payload s).boot = s.boot :=
  reply_parts _ _ _ _ _ s .boot rfl

@[simp] theorem reply_fuses (o : Origin) (tag : BitVec 32) (opcode : BitVec 16) (st : Status) (payload : Bytes) (s : State) : (reply o tag opcode st payload s).fuses = s.fuses :=
  reply_parts _ _ _ _ _ s .fuses rfl

@[simp] theorem reply_flash (o : Origin) (tag : BitVec 32) (opcode : BitVec 16) (st : Status) (payload : Bytes) (s : State) : (reply o tag opcode st payload s).flash = s.flash :=
  reply_parts _ _ _ _ _ s .flash rfl

@[simp] theorem reply_lc (o : Origin) (tag : BitVec 32) (opcode : BitVec 16) (st : Status) (payload : Bytes) (s : State) : (reply o tag opcode st payload s).lc = s.lc :=
  reply_parts _ _ _ _ _ s .lc rfl

@[simp] theorem reply_datum (o : Origin) (tag : BitVec 32) (opcode : BitVec 16) (st : Status) (payload : Bytes) (s : State) : (reply o tag opcode st payload s).datum = s.datum :=
  reply_parts _ _ _ _ _ s .datum rfl

@[simp] theorem reply_cad (o : Origin) (tag : BitVec 32) (opcode : BitVec 16) (st : Status) (payload : Bytes) (s : State) : (reply o tag opcode st payload s).cad = s.cad :=
  reply_parts _ _ _ _ _ s .cad rfl

@[simp] theorem reply_link (o : Origin) (tag : BitVec 32) (opcode : BitVec 16) (st : Status) (payload : Bytes) (s : State) : (reply o tag opcode st payload s).link = s.link :=
  reply_parts _ _ _ _ _ s .link rfl

@[simp] theorem reply_stack (o : Origin) (tag : BitVec 32) (opcode : BitVec 16) (st : Status) (payload : Bytes) (s : State) : (reply o tag opcode st payload s).stack = s.stack :=
  reply_parts _ _ _ _ _ s .stack rfl

@[simp] theorem reply_tray (o : Origin) (tag : BitVec 32) (opcode : BitVec 16) (st : Status) (payload : Bytes) (s : State) : (reply o tag opcode st payload s).tray = s.tray :=
  reply_parts _ _ _ _ _ s .tray rfl

@[simp] theorem reply_fau (o : Origin) (tag : BitVec 32) (opcode : BitVec 16) (st : Status) (payload : Bytes) (s : State) : (reply o tag opcode st payload s).fau = s.fau :=
  reply_parts _ _ _ _ _ s .fau rfl

@[simp] theorem reply_rings (o : Origin) (tag : BitVec 32) (opcode : BitVec 16) (st : Status) (payload : Bytes) (s : State) : (reply o tag opcode st payload s).rings = s.rings :=
  reply_parts _ _ _ _ _ s .rings rfl

@[simp] theorem reply_coll (o : Origin) (tag : BitVec 32) (opcode : BitVec 16) (st : Status) (payload : Bytes) (s : State) : (reply o tag opcode st payload s).coll = s.coll :=
  reply_parts _ _ _ _ _ s .coll rfl

@[simp] theorem reply_bars (o : Origin) (tag : BitVec 32) (opcode : BitVec 16) (st : Status) (payload : Bytes) (s : State) : (reply o tag opcode st payload s).bars = s.bars :=
  reply_parts _ _ _ _ _ s .bars rfl

@[simp] theorem reply_sca (o : Origin) (tag : BitVec 32) (opcode : BitVec 16) (st : Status) (payload : Bytes) (s : State) : (reply o tag opcode st payload s).sca = s.sca :=
  reply_parts _ _ _ _ _ s .sca rfl

@[simp] theorem reply_weirs (o : Origin) (tag : BitVec 32) (opcode : BitVec 16) (st : Status) (payload : Bytes) (s : State) : (reply o tag opcode st payload s).weirs = s.weirs :=
  reply_parts _ _ _ _ _ s .weirs rfl

@[simp] theorem reply_charts (o : Origin) (tag : BitVec 32) (opcode : BitVec 16) (st : Status) (payload : Bytes) (s : State) : (reply o tag opcode st payload s).charts = s.charts :=
  reply_parts _ _ _ _ _ s .charts rfl

@[simp] theorem reply_gauge (o : Origin) (tag : BitVec 32) (opcode : BitVec 16) (st : Status) (payload : Bytes) (s : State) : (reply o tag opcode st payload s).gauge = s.gauge :=
  reply_parts _ _ _ _ _ s .gauge rfl

@[simp] theorem reply_regs (o : Origin) (tag : BitVec 32) (opcode : BitVec 16) (st : Status) (payload : Bytes) (s : State) : (reply o tag opcode st payload s).regs = s.regs :=
  reply_parts _ _ _ _ _ s .regs rfl

@[simp] theorem reply_pool (o : Origin) (tag : BitVec 32) (opcode : BitVec 16) (st : Status) (payload : Bytes) (s : State) : (reply o tag opcode st payload s).pool = s.pool :=
  reply_parts _ _ _ _ _ s .pool rfl

theorem refuse_parts (o : Origin) (tag : BitVec 32) (opcode : BitVec 16) (st : Status) (s : State) : s.agree [.out, .sb, .polders, .keys, .obj, .fns, .spdm, .tracer, .power, .free] (refuse o tag opcode st s) :=
  refuse_frame _ _ _ _ s (agree_refl _ s) rfl

@[simp] theorem refuse_pending (o : Origin) (tag : BitVec 32) (opcode : BitVec 16) (st : Status) (s : State) : (refuse o tag opcode st s).pending = s.pending :=
  refuse_parts _ _ _ _ s .pending rfl

@[simp] theorem refuse_time (o : Origin) (tag : BitVec 32) (opcode : BitVec 16) (st : Status) (s : State) : (refuse o tag opcode st s).time = s.time :=
  refuse_parts _ _ _ _ s .time rfl

@[simp] theorem refuse_chip (o : Origin) (tag : BitVec 32) (opcode : BitVec 16) (st : Status) (s : State) : (refuse o tag opcode st s).chip = s.chip :=
  refuse_parts _ _ _ _ s .chip rfl

@[simp] theorem refuse_owner (o : Origin) (tag : BitVec 32) (opcode : BitVec 16) (st : Status) (s : State) : (refuse o tag opcode st s).owner = s.owner :=
  refuse_parts _ _ _ _ s .owner rfl

@[simp] theorem refuse_pins (o : Origin) (tag : BitVec 32) (opcode : BitVec 16) (st : Status) (s : State) : (refuse o tag opcode st s).pins = s.pins :=
  refuse_parts _ _ _ _ s .pins rfl

@[simp] theorem refuse_boot (o : Origin) (tag : BitVec 32) (opcode : BitVec 16) (st : Status) (s : State) : (refuse o tag opcode st s).boot = s.boot :=
  refuse_parts _ _ _ _ s .boot rfl

@[simp] theorem refuse_fuses (o : Origin) (tag : BitVec 32) (opcode : BitVec 16) (st : Status) (s : State) : (refuse o tag opcode st s).fuses = s.fuses :=
  refuse_parts _ _ _ _ s .fuses rfl

@[simp] theorem refuse_flash (o : Origin) (tag : BitVec 32) (opcode : BitVec 16) (st : Status) (s : State) : (refuse o tag opcode st s).flash = s.flash :=
  refuse_parts _ _ _ _ s .flash rfl

@[simp] theorem refuse_lc (o : Origin) (tag : BitVec 32) (opcode : BitVec 16) (st : Status) (s : State) : (refuse o tag opcode st s).lc = s.lc :=
  refuse_parts _ _ _ _ s .lc rfl

@[simp] theorem refuse_datum (o : Origin) (tag : BitVec 32) (opcode : BitVec 16) (st : Status) (s : State) : (refuse o tag opcode st s).datum = s.datum :=
  refuse_parts _ _ _ _ s .datum rfl

@[simp] theorem refuse_cad (o : Origin) (tag : BitVec 32) (opcode : BitVec 16) (st : Status) (s : State) : (refuse o tag opcode st s).cad = s.cad :=
  refuse_parts _ _ _ _ s .cad rfl

@[simp] theorem refuse_link (o : Origin) (tag : BitVec 32) (opcode : BitVec 16) (st : Status) (s : State) : (refuse o tag opcode st s).link = s.link :=
  refuse_parts _ _ _ _ s .link rfl

@[simp] theorem refuse_stack (o : Origin) (tag : BitVec 32) (opcode : BitVec 16) (st : Status) (s : State) : (refuse o tag opcode st s).stack = s.stack :=
  refuse_parts _ _ _ _ s .stack rfl

@[simp] theorem refuse_tray (o : Origin) (tag : BitVec 32) (opcode : BitVec 16) (st : Status) (s : State) : (refuse o tag opcode st s).tray = s.tray :=
  refuse_parts _ _ _ _ s .tray rfl

@[simp] theorem refuse_fau (o : Origin) (tag : BitVec 32) (opcode : BitVec 16) (st : Status) (s : State) : (refuse o tag opcode st s).fau = s.fau :=
  refuse_parts _ _ _ _ s .fau rfl

@[simp] theorem refuse_rings (o : Origin) (tag : BitVec 32) (opcode : BitVec 16) (st : Status) (s : State) : (refuse o tag opcode st s).rings = s.rings :=
  refuse_parts _ _ _ _ s .rings rfl

@[simp] theorem refuse_coll (o : Origin) (tag : BitVec 32) (opcode : BitVec 16) (st : Status) (s : State) : (refuse o tag opcode st s).coll = s.coll :=
  refuse_parts _ _ _ _ s .coll rfl

@[simp] theorem refuse_bars (o : Origin) (tag : BitVec 32) (opcode : BitVec 16) (st : Status) (s : State) : (refuse o tag opcode st s).bars = s.bars :=
  refuse_parts _ _ _ _ s .bars rfl

@[simp] theorem refuse_sca (o : Origin) (tag : BitVec 32) (opcode : BitVec 16) (st : Status) (s : State) : (refuse o tag opcode st s).sca = s.sca :=
  refuse_parts _ _ _ _ s .sca rfl

@[simp] theorem refuse_weirs (o : Origin) (tag : BitVec 32) (opcode : BitVec 16) (st : Status) (s : State) : (refuse o tag opcode st s).weirs = s.weirs :=
  refuse_parts _ _ _ _ s .weirs rfl

@[simp] theorem refuse_charts (o : Origin) (tag : BitVec 32) (opcode : BitVec 16) (st : Status) (s : State) : (refuse o tag opcode st s).charts = s.charts :=
  refuse_parts _ _ _ _ s .charts rfl

@[simp] theorem refuse_gauge (o : Origin) (tag : BitVec 32) (opcode : BitVec 16) (st : Status) (s : State) : (refuse o tag opcode st s).gauge = s.gauge :=
  refuse_parts _ _ _ _ s .gauge rfl

@[simp] theorem refuse_regs (o : Origin) (tag : BitVec 32) (opcode : BitVec 16) (st : Status) (s : State) : (refuse o tag opcode st s).regs = s.regs :=
  refuse_parts _ _ _ _ s .regs rfl

@[simp] theorem refuse_pool (o : Origin) (tag : BitVec 32) (opcode : BitVec 16) (st : Status) (s : State) : (refuse o tag opcode st s).pool = s.pool :=
  refuse_parts _ _ _ _ s .pool rfl

theorem pend_parts (o : Origin) (tag : BitVec 32) (opcode : BitVec 16) (s : State) : s.agree [.out, .sb, .polders, .keys, .obj, .fns, .spdm, .tracer, .power, .free] (pend o tag opcode s) :=
  pend_frame _ _ _ s (agree_refl _ s) rfl

@[simp] theorem pend_pending (o : Origin) (tag : BitVec 32) (opcode : BitVec 16) (s : State) : (pend o tag opcode s).pending = s.pending :=
  pend_parts _ _ _ s .pending rfl

@[simp] theorem pend_time (o : Origin) (tag : BitVec 32) (opcode : BitVec 16) (s : State) : (pend o tag opcode s).time = s.time :=
  pend_parts _ _ _ s .time rfl

@[simp] theorem pend_chip (o : Origin) (tag : BitVec 32) (opcode : BitVec 16) (s : State) : (pend o tag opcode s).chip = s.chip :=
  pend_parts _ _ _ s .chip rfl

@[simp] theorem pend_owner (o : Origin) (tag : BitVec 32) (opcode : BitVec 16) (s : State) : (pend o tag opcode s).owner = s.owner :=
  pend_parts _ _ _ s .owner rfl

@[simp] theorem pend_pins (o : Origin) (tag : BitVec 32) (opcode : BitVec 16) (s : State) : (pend o tag opcode s).pins = s.pins :=
  pend_parts _ _ _ s .pins rfl

@[simp] theorem pend_boot (o : Origin) (tag : BitVec 32) (opcode : BitVec 16) (s : State) : (pend o tag opcode s).boot = s.boot :=
  pend_parts _ _ _ s .boot rfl

@[simp] theorem pend_fuses (o : Origin) (tag : BitVec 32) (opcode : BitVec 16) (s : State) : (pend o tag opcode s).fuses = s.fuses :=
  pend_parts _ _ _ s .fuses rfl

@[simp] theorem pend_flash (o : Origin) (tag : BitVec 32) (opcode : BitVec 16) (s : State) : (pend o tag opcode s).flash = s.flash :=
  pend_parts _ _ _ s .flash rfl

@[simp] theorem pend_lc (o : Origin) (tag : BitVec 32) (opcode : BitVec 16) (s : State) : (pend o tag opcode s).lc = s.lc :=
  pend_parts _ _ _ s .lc rfl

@[simp] theorem pend_datum (o : Origin) (tag : BitVec 32) (opcode : BitVec 16) (s : State) : (pend o tag opcode s).datum = s.datum :=
  pend_parts _ _ _ s .datum rfl

@[simp] theorem pend_cad (o : Origin) (tag : BitVec 32) (opcode : BitVec 16) (s : State) : (pend o tag opcode s).cad = s.cad :=
  pend_parts _ _ _ s .cad rfl

@[simp] theorem pend_link (o : Origin) (tag : BitVec 32) (opcode : BitVec 16) (s : State) : (pend o tag opcode s).link = s.link :=
  pend_parts _ _ _ s .link rfl

@[simp] theorem pend_stack (o : Origin) (tag : BitVec 32) (opcode : BitVec 16) (s : State) : (pend o tag opcode s).stack = s.stack :=
  pend_parts _ _ _ s .stack rfl

@[simp] theorem pend_tray (o : Origin) (tag : BitVec 32) (opcode : BitVec 16) (s : State) : (pend o tag opcode s).tray = s.tray :=
  pend_parts _ _ _ s .tray rfl

@[simp] theorem pend_fau (o : Origin) (tag : BitVec 32) (opcode : BitVec 16) (s : State) : (pend o tag opcode s).fau = s.fau :=
  pend_parts _ _ _ s .fau rfl

@[simp] theorem pend_rings (o : Origin) (tag : BitVec 32) (opcode : BitVec 16) (s : State) : (pend o tag opcode s).rings = s.rings :=
  pend_parts _ _ _ s .rings rfl

@[simp] theorem pend_coll (o : Origin) (tag : BitVec 32) (opcode : BitVec 16) (s : State) : (pend o tag opcode s).coll = s.coll :=
  pend_parts _ _ _ s .coll rfl

@[simp] theorem pend_bars (o : Origin) (tag : BitVec 32) (opcode : BitVec 16) (s : State) : (pend o tag opcode s).bars = s.bars :=
  pend_parts _ _ _ s .bars rfl

@[simp] theorem pend_sca (o : Origin) (tag : BitVec 32) (opcode : BitVec 16) (s : State) : (pend o tag opcode s).sca = s.sca :=
  pend_parts _ _ _ s .sca rfl

@[simp] theorem pend_weirs (o : Origin) (tag : BitVec 32) (opcode : BitVec 16) (s : State) : (pend o tag opcode s).weirs = s.weirs :=
  pend_parts _ _ _ s .weirs rfl

@[simp] theorem pend_charts (o : Origin) (tag : BitVec 32) (opcode : BitVec 16) (s : State) : (pend o tag opcode s).charts = s.charts :=
  pend_parts _ _ _ s .charts rfl

@[simp] theorem pend_gauge (o : Origin) (tag : BitVec 32) (opcode : BitVec 16) (s : State) : (pend o tag opcode s).gauge = s.gauge :=
  pend_parts _ _ _ s .gauge rfl

@[simp] theorem pend_regs (o : Origin) (tag : BitVec 32) (opcode : BitVec 16) (s : State) : (pend o tag opcode s).regs = s.regs :=
  pend_parts _ _ _ s .regs rfl

@[simp] theorem pend_pool (o : Origin) (tag : BitVec 32) (opcode : BitVec 16) (s : State) : (pend o tag opcode s).pool = s.pool :=
  pend_parts _ _ _ s .pool rfl

theorem finish_parts (o : Origin) (tag : BitVec 32) (st : Status) (payload : Bytes) (s : State) : s.agree [.out, .obj, .fns, .tracer] (finish o tag st payload s) :=
  finish_frame _ _ _ _ s (agree_refl _ s) rfl

@[simp] theorem finish_pending (o : Origin) (tag : BitVec 32) (st : Status) (payload : Bytes) (s : State) : (finish o tag st payload s).pending = s.pending :=
  finish_parts _ _ _ _ s .pending rfl

@[simp] theorem finish_time (o : Origin) (tag : BitVec 32) (st : Status) (payload : Bytes) (s : State) : (finish o tag st payload s).time = s.time :=
  finish_parts _ _ _ _ s .time rfl

@[simp] theorem finish_chip (o : Origin) (tag : BitVec 32) (st : Status) (payload : Bytes) (s : State) : (finish o tag st payload s).chip = s.chip :=
  finish_parts _ _ _ _ s .chip rfl

@[simp] theorem finish_owner (o : Origin) (tag : BitVec 32) (st : Status) (payload : Bytes) (s : State) : (finish o tag st payload s).owner = s.owner :=
  finish_parts _ _ _ _ s .owner rfl

@[simp] theorem finish_pins (o : Origin) (tag : BitVec 32) (st : Status) (payload : Bytes) (s : State) : (finish o tag st payload s).pins = s.pins :=
  finish_parts _ _ _ _ s .pins rfl

@[simp] theorem finish_boot (o : Origin) (tag : BitVec 32) (st : Status) (payload : Bytes) (s : State) : (finish o tag st payload s).boot = s.boot :=
  finish_parts _ _ _ _ s .boot rfl

@[simp] theorem finish_fuses (o : Origin) (tag : BitVec 32) (st : Status) (payload : Bytes) (s : State) : (finish o tag st payload s).fuses = s.fuses :=
  finish_parts _ _ _ _ s .fuses rfl

@[simp] theorem finish_flash (o : Origin) (tag : BitVec 32) (st : Status) (payload : Bytes) (s : State) : (finish o tag st payload s).flash = s.flash :=
  finish_parts _ _ _ _ s .flash rfl

@[simp] theorem finish_lc (o : Origin) (tag : BitVec 32) (st : Status) (payload : Bytes) (s : State) : (finish o tag st payload s).lc = s.lc :=
  finish_parts _ _ _ _ s .lc rfl

@[simp] theorem finish_sb (o : Origin) (tag : BitVec 32) (st : Status) (payload : Bytes) (s : State) : (finish o tag st payload s).sb = s.sb :=
  finish_parts _ _ _ _ s .sb rfl

@[simp] theorem finish_datum (o : Origin) (tag : BitVec 32) (st : Status) (payload : Bytes) (s : State) : (finish o tag st payload s).datum = s.datum :=
  finish_parts _ _ _ _ s .datum rfl

@[simp] theorem finish_polders (o : Origin) (tag : BitVec 32) (st : Status) (payload : Bytes) (s : State) : (finish o tag st payload s).polders = s.polders :=
  finish_parts _ _ _ _ s .polders rfl

@[simp] theorem finish_cad (o : Origin) (tag : BitVec 32) (st : Status) (payload : Bytes) (s : State) : (finish o tag st payload s).cad = s.cad :=
  finish_parts _ _ _ _ s .cad rfl

@[simp] theorem finish_keys (o : Origin) (tag : BitVec 32) (st : Status) (payload : Bytes) (s : State) : (finish o tag st payload s).keys = s.keys :=
  finish_parts _ _ _ _ s .keys rfl

@[simp] theorem finish_link (o : Origin) (tag : BitVec 32) (st : Status) (payload : Bytes) (s : State) : (finish o tag st payload s).link = s.link :=
  finish_parts _ _ _ _ s .link rfl

@[simp] theorem finish_stack (o : Origin) (tag : BitVec 32) (st : Status) (payload : Bytes) (s : State) : (finish o tag st payload s).stack = s.stack :=
  finish_parts _ _ _ _ s .stack rfl

@[simp] theorem finish_tray (o : Origin) (tag : BitVec 32) (st : Status) (payload : Bytes) (s : State) : (finish o tag st payload s).tray = s.tray :=
  finish_parts _ _ _ _ s .tray rfl

@[simp] theorem finish_fau (o : Origin) (tag : BitVec 32) (st : Status) (payload : Bytes) (s : State) : (finish o tag st payload s).fau = s.fau :=
  finish_parts _ _ _ _ s .fau rfl

@[simp] theorem finish_rings (o : Origin) (tag : BitVec 32) (st : Status) (payload : Bytes) (s : State) : (finish o tag st payload s).rings = s.rings :=
  finish_parts _ _ _ _ s .rings rfl

@[simp] theorem finish_coll (o : Origin) (tag : BitVec 32) (st : Status) (payload : Bytes) (s : State) : (finish o tag st payload s).coll = s.coll :=
  finish_parts _ _ _ _ s .coll rfl

@[simp] theorem finish_bars (o : Origin) (tag : BitVec 32) (st : Status) (payload : Bytes) (s : State) : (finish o tag st payload s).bars = s.bars :=
  finish_parts _ _ _ _ s .bars rfl

@[simp] theorem finish_sca (o : Origin) (tag : BitVec 32) (st : Status) (payload : Bytes) (s : State) : (finish o tag st payload s).sca = s.sca :=
  finish_parts _ _ _ _ s .sca rfl

@[simp] theorem finish_spdm (o : Origin) (tag : BitVec 32) (st : Status) (payload : Bytes) (s : State) : (finish o tag st payload s).spdm = s.spdm :=
  finish_parts _ _ _ _ s .spdm rfl

@[simp] theorem finish_weirs (o : Origin) (tag : BitVec 32) (st : Status) (payload : Bytes) (s : State) : (finish o tag st payload s).weirs = s.weirs :=
  finish_parts _ _ _ _ s .weirs rfl

@[simp] theorem finish_charts (o : Origin) (tag : BitVec 32) (st : Status) (payload : Bytes) (s : State) : (finish o tag st payload s).charts = s.charts :=
  finish_parts _ _ _ _ s .charts rfl

@[simp] theorem finish_gauge (o : Origin) (tag : BitVec 32) (st : Status) (payload : Bytes) (s : State) : (finish o tag st payload s).gauge = s.gauge :=
  finish_parts _ _ _ _ s .gauge rfl

@[simp] theorem finish_power (o : Origin) (tag : BitVec 32) (st : Status) (payload : Bytes) (s : State) : (finish o tag st payload s).power = s.power :=
  finish_parts _ _ _ _ s .power rfl

@[simp] theorem finish_regs (o : Origin) (tag : BitVec 32) (st : Status) (payload : Bytes) (s : State) : (finish o tag st payload s).regs = s.regs :=
  finish_parts _ _ _ _ s .regs rfl

@[simp] theorem finish_pool (o : Origin) (tag : BitVec 32) (st : Status) (payload : Bytes) (s : State) : (finish o tag st payload s).pool = s.pool :=
  finish_parts _ _ _ _ s .pool rfl

@[simp] theorem finish_free (o : Origin) (tag : BitVec 32) (st : Status) (payload : Bytes) (s : State) : (finish o tag st payload s).free = s.free :=
  finish_parts _ _ _ _ s .free rfl

theorem finishAll_parts (l : List (Origin × BitVec 32)) (st : Status) (s : State) : s.agree [.out, .obj, .fns, .tracer] (finishAll l st s) :=
  finishAll_frame _ _ s (agree_refl _ s) rfl

@[simp] theorem finishAll_pending (l : List (Origin × BitVec 32)) (st : Status) (s : State) : (finishAll l st s).pending = s.pending :=
  finishAll_parts _ _ s .pending rfl

@[simp] theorem finishAll_time (l : List (Origin × BitVec 32)) (st : Status) (s : State) : (finishAll l st s).time = s.time :=
  finishAll_parts _ _ s .time rfl

@[simp] theorem finishAll_chip (l : List (Origin × BitVec 32)) (st : Status) (s : State) : (finishAll l st s).chip = s.chip :=
  finishAll_parts _ _ s .chip rfl

@[simp] theorem finishAll_owner (l : List (Origin × BitVec 32)) (st : Status) (s : State) : (finishAll l st s).owner = s.owner :=
  finishAll_parts _ _ s .owner rfl

@[simp] theorem finishAll_pins (l : List (Origin × BitVec 32)) (st : Status) (s : State) : (finishAll l st s).pins = s.pins :=
  finishAll_parts _ _ s .pins rfl

@[simp] theorem finishAll_boot (l : List (Origin × BitVec 32)) (st : Status) (s : State) : (finishAll l st s).boot = s.boot :=
  finishAll_parts _ _ s .boot rfl

@[simp] theorem finishAll_fuses (l : List (Origin × BitVec 32)) (st : Status) (s : State) : (finishAll l st s).fuses = s.fuses :=
  finishAll_parts _ _ s .fuses rfl

@[simp] theorem finishAll_flash (l : List (Origin × BitVec 32)) (st : Status) (s : State) : (finishAll l st s).flash = s.flash :=
  finishAll_parts _ _ s .flash rfl

@[simp] theorem finishAll_lc (l : List (Origin × BitVec 32)) (st : Status) (s : State) : (finishAll l st s).lc = s.lc :=
  finishAll_parts _ _ s .lc rfl

@[simp] theorem finishAll_sb (l : List (Origin × BitVec 32)) (st : Status) (s : State) : (finishAll l st s).sb = s.sb :=
  finishAll_parts _ _ s .sb rfl

@[simp] theorem finishAll_datum (l : List (Origin × BitVec 32)) (st : Status) (s : State) : (finishAll l st s).datum = s.datum :=
  finishAll_parts _ _ s .datum rfl

@[simp] theorem finishAll_polders (l : List (Origin × BitVec 32)) (st : Status) (s : State) : (finishAll l st s).polders = s.polders :=
  finishAll_parts _ _ s .polders rfl

@[simp] theorem finishAll_cad (l : List (Origin × BitVec 32)) (st : Status) (s : State) : (finishAll l st s).cad = s.cad :=
  finishAll_parts _ _ s .cad rfl

@[simp] theorem finishAll_keys (l : List (Origin × BitVec 32)) (st : Status) (s : State) : (finishAll l st s).keys = s.keys :=
  finishAll_parts _ _ s .keys rfl

@[simp] theorem finishAll_link (l : List (Origin × BitVec 32)) (st : Status) (s : State) : (finishAll l st s).link = s.link :=
  finishAll_parts _ _ s .link rfl

@[simp] theorem finishAll_stack (l : List (Origin × BitVec 32)) (st : Status) (s : State) : (finishAll l st s).stack = s.stack :=
  finishAll_parts _ _ s .stack rfl

@[simp] theorem finishAll_tray (l : List (Origin × BitVec 32)) (st : Status) (s : State) : (finishAll l st s).tray = s.tray :=
  finishAll_parts _ _ s .tray rfl

@[simp] theorem finishAll_fau (l : List (Origin × BitVec 32)) (st : Status) (s : State) : (finishAll l st s).fau = s.fau :=
  finishAll_parts _ _ s .fau rfl

@[simp] theorem finishAll_rings (l : List (Origin × BitVec 32)) (st : Status) (s : State) : (finishAll l st s).rings = s.rings :=
  finishAll_parts _ _ s .rings rfl

@[simp] theorem finishAll_coll (l : List (Origin × BitVec 32)) (st : Status) (s : State) : (finishAll l st s).coll = s.coll :=
  finishAll_parts _ _ s .coll rfl

@[simp] theorem finishAll_bars (l : List (Origin × BitVec 32)) (st : Status) (s : State) : (finishAll l st s).bars = s.bars :=
  finishAll_parts _ _ s .bars rfl

@[simp] theorem finishAll_sca (l : List (Origin × BitVec 32)) (st : Status) (s : State) : (finishAll l st s).sca = s.sca :=
  finishAll_parts _ _ s .sca rfl

@[simp] theorem finishAll_spdm (l : List (Origin × BitVec 32)) (st : Status) (s : State) : (finishAll l st s).spdm = s.spdm :=
  finishAll_parts _ _ s .spdm rfl

@[simp] theorem finishAll_weirs (l : List (Origin × BitVec 32)) (st : Status) (s : State) : (finishAll l st s).weirs = s.weirs :=
  finishAll_parts _ _ s .weirs rfl

@[simp] theorem finishAll_charts (l : List (Origin × BitVec 32)) (st : Status) (s : State) : (finishAll l st s).charts = s.charts :=
  finishAll_parts _ _ s .charts rfl

@[simp] theorem finishAll_gauge (l : List (Origin × BitVec 32)) (st : Status) (s : State) : (finishAll l st s).gauge = s.gauge :=
  finishAll_parts _ _ s .gauge rfl

@[simp] theorem finishAll_power (l : List (Origin × BitVec 32)) (st : Status) (s : State) : (finishAll l st s).power = s.power :=
  finishAll_parts _ _ s .power rfl

@[simp] theorem finishAll_regs (l : List (Origin × BitVec 32)) (st : Status) (s : State) : (finishAll l st s).regs = s.regs :=
  finishAll_parts _ _ s .regs rfl

@[simp] theorem finishAll_pool (l : List (Origin × BitVec 32)) (st : Status) (s : State) : (finishAll l st s).pool = s.pool :=
  finishAll_parts _ _ s .pool rfl

@[simp] theorem finishAll_free (l : List (Origin × BitVec 32)) (st : Status) (s : State) : (finishAll l st s).free = s.free :=
  finishAll_parts _ _ s .free rfl

theorem closeAllEntries_parts (s : State) : s.agree [.gauge] (closeAllEntries s) :=
  closeAllEntries_frame s (agree_refl _ s) rfl

@[simp] theorem closeAllEntries_pending (s : State) : (closeAllEntries s).pending = s.pending :=
  closeAllEntries_parts s .pending rfl

@[simp] theorem closeAllEntries_out (s : State) : (closeAllEntries s).out = s.out :=
  closeAllEntries_parts s .out rfl

@[simp] theorem closeAllEntries_time (s : State) : (closeAllEntries s).time = s.time :=
  closeAllEntries_parts s .time rfl

@[simp] theorem closeAllEntries_chip (s : State) : (closeAllEntries s).chip = s.chip :=
  closeAllEntries_parts s .chip rfl

@[simp] theorem closeAllEntries_owner (s : State) : (closeAllEntries s).owner = s.owner :=
  closeAllEntries_parts s .owner rfl

@[simp] theorem closeAllEntries_pins (s : State) : (closeAllEntries s).pins = s.pins :=
  closeAllEntries_parts s .pins rfl

@[simp] theorem closeAllEntries_boot (s : State) : (closeAllEntries s).boot = s.boot :=
  closeAllEntries_parts s .boot rfl

@[simp] theorem closeAllEntries_fuses (s : State) : (closeAllEntries s).fuses = s.fuses :=
  closeAllEntries_parts s .fuses rfl

@[simp] theorem closeAllEntries_flash (s : State) : (closeAllEntries s).flash = s.flash :=
  closeAllEntries_parts s .flash rfl

@[simp] theorem closeAllEntries_lc (s : State) : (closeAllEntries s).lc = s.lc :=
  closeAllEntries_parts s .lc rfl

@[simp] theorem closeAllEntries_sb (s : State) : (closeAllEntries s).sb = s.sb :=
  closeAllEntries_parts s .sb rfl

@[simp] theorem closeAllEntries_datum (s : State) : (closeAllEntries s).datum = s.datum :=
  closeAllEntries_parts s .datum rfl

@[simp] theorem closeAllEntries_polders (s : State) : (closeAllEntries s).polders = s.polders :=
  closeAllEntries_parts s .polders rfl

@[simp] theorem closeAllEntries_cad (s : State) : (closeAllEntries s).cad = s.cad :=
  closeAllEntries_parts s .cad rfl

@[simp] theorem closeAllEntries_keys (s : State) : (closeAllEntries s).keys = s.keys :=
  closeAllEntries_parts s .keys rfl

@[simp] theorem closeAllEntries_link (s : State) : (closeAllEntries s).link = s.link :=
  closeAllEntries_parts s .link rfl

@[simp] theorem closeAllEntries_stack (s : State) : (closeAllEntries s).stack = s.stack :=
  closeAllEntries_parts s .stack rfl

@[simp] theorem closeAllEntries_tray (s : State) : (closeAllEntries s).tray = s.tray :=
  closeAllEntries_parts s .tray rfl

@[simp] theorem closeAllEntries_fau (s : State) : (closeAllEntries s).fau = s.fau :=
  closeAllEntries_parts s .fau rfl

@[simp] theorem closeAllEntries_rings (s : State) : (closeAllEntries s).rings = s.rings :=
  closeAllEntries_parts s .rings rfl

@[simp] theorem closeAllEntries_coll (s : State) : (closeAllEntries s).coll = s.coll :=
  closeAllEntries_parts s .coll rfl

@[simp] theorem closeAllEntries_bars (s : State) : (closeAllEntries s).bars = s.bars :=
  closeAllEntries_parts s .bars rfl

@[simp] theorem closeAllEntries_sca (s : State) : (closeAllEntries s).sca = s.sca :=
  closeAllEntries_parts s .sca rfl

@[simp] theorem closeAllEntries_obj (s : State) : (closeAllEntries s).obj = s.obj :=
  closeAllEntries_parts s .obj rfl

@[simp] theorem closeAllEntries_fns (s : State) : (closeAllEntries s).fns = s.fns :=
  closeAllEntries_parts s .fns rfl

@[simp] theorem closeAllEntries_spdm (s : State) : (closeAllEntries s).spdm = s.spdm :=
  closeAllEntries_parts s .spdm rfl

@[simp] theorem closeAllEntries_weirs (s : State) : (closeAllEntries s).weirs = s.weirs :=
  closeAllEntries_parts s .weirs rfl

@[simp] theorem closeAllEntries_charts (s : State) : (closeAllEntries s).charts = s.charts :=
  closeAllEntries_parts s .charts rfl

@[simp] theorem closeAllEntries_tracer (s : State) : (closeAllEntries s).tracer = s.tracer :=
  closeAllEntries_parts s .tracer rfl

@[simp] theorem closeAllEntries_power (s : State) : (closeAllEntries s).power = s.power :=
  closeAllEntries_parts s .power rfl

@[simp] theorem closeAllEntries_regs (s : State) : (closeAllEntries s).regs = s.regs :=
  closeAllEntries_parts s .regs rfl

@[simp] theorem closeAllEntries_pool (s : State) : (closeAllEntries s).pool = s.pool :=
  closeAllEntries_parts s .pool rfl

@[simp] theorem closeAllEntries_free (s : State) : (closeAllEntries s).free = s.free :=
  closeAllEntries_parts s .free rfl

theorem gaugeRead_parts (s : State) : s.agree [.gauge] (gaugeRead s) :=
  gaugeRead_frame s (agree_refl _ s) rfl

@[simp] theorem gaugeRead_pending (s : State) : (gaugeRead s).pending = s.pending :=
  gaugeRead_parts s .pending rfl

@[simp] theorem gaugeRead_out (s : State) : (gaugeRead s).out = s.out :=
  gaugeRead_parts s .out rfl

@[simp] theorem gaugeRead_time (s : State) : (gaugeRead s).time = s.time :=
  gaugeRead_parts s .time rfl

@[simp] theorem gaugeRead_chip (s : State) : (gaugeRead s).chip = s.chip :=
  gaugeRead_parts s .chip rfl

@[simp] theorem gaugeRead_owner (s : State) : (gaugeRead s).owner = s.owner :=
  gaugeRead_parts s .owner rfl

@[simp] theorem gaugeRead_pins (s : State) : (gaugeRead s).pins = s.pins :=
  gaugeRead_parts s .pins rfl

@[simp] theorem gaugeRead_boot (s : State) : (gaugeRead s).boot = s.boot :=
  gaugeRead_parts s .boot rfl

@[simp] theorem gaugeRead_fuses (s : State) : (gaugeRead s).fuses = s.fuses :=
  gaugeRead_parts s .fuses rfl

@[simp] theorem gaugeRead_flash (s : State) : (gaugeRead s).flash = s.flash :=
  gaugeRead_parts s .flash rfl

@[simp] theorem gaugeRead_lc (s : State) : (gaugeRead s).lc = s.lc :=
  gaugeRead_parts s .lc rfl

@[simp] theorem gaugeRead_sb (s : State) : (gaugeRead s).sb = s.sb :=
  gaugeRead_parts s .sb rfl

@[simp] theorem gaugeRead_datum (s : State) : (gaugeRead s).datum = s.datum :=
  gaugeRead_parts s .datum rfl

@[simp] theorem gaugeRead_polders (s : State) : (gaugeRead s).polders = s.polders :=
  gaugeRead_parts s .polders rfl

@[simp] theorem gaugeRead_cad (s : State) : (gaugeRead s).cad = s.cad :=
  gaugeRead_parts s .cad rfl

@[simp] theorem gaugeRead_keys (s : State) : (gaugeRead s).keys = s.keys :=
  gaugeRead_parts s .keys rfl

@[simp] theorem gaugeRead_link (s : State) : (gaugeRead s).link = s.link :=
  gaugeRead_parts s .link rfl

@[simp] theorem gaugeRead_stack (s : State) : (gaugeRead s).stack = s.stack :=
  gaugeRead_parts s .stack rfl

@[simp] theorem gaugeRead_tray (s : State) : (gaugeRead s).tray = s.tray :=
  gaugeRead_parts s .tray rfl

@[simp] theorem gaugeRead_fau (s : State) : (gaugeRead s).fau = s.fau :=
  gaugeRead_parts s .fau rfl

@[simp] theorem gaugeRead_rings (s : State) : (gaugeRead s).rings = s.rings :=
  gaugeRead_parts s .rings rfl

@[simp] theorem gaugeRead_coll (s : State) : (gaugeRead s).coll = s.coll :=
  gaugeRead_parts s .coll rfl

@[simp] theorem gaugeRead_bars (s : State) : (gaugeRead s).bars = s.bars :=
  gaugeRead_parts s .bars rfl

@[simp] theorem gaugeRead_sca (s : State) : (gaugeRead s).sca = s.sca :=
  gaugeRead_parts s .sca rfl

@[simp] theorem gaugeRead_obj (s : State) : (gaugeRead s).obj = s.obj :=
  gaugeRead_parts s .obj rfl

@[simp] theorem gaugeRead_fns (s : State) : (gaugeRead s).fns = s.fns :=
  gaugeRead_parts s .fns rfl

@[simp] theorem gaugeRead_spdm (s : State) : (gaugeRead s).spdm = s.spdm :=
  gaugeRead_parts s .spdm rfl

@[simp] theorem gaugeRead_weirs (s : State) : (gaugeRead s).weirs = s.weirs :=
  gaugeRead_parts s .weirs rfl

@[simp] theorem gaugeRead_charts (s : State) : (gaugeRead s).charts = s.charts :=
  gaugeRead_parts s .charts rfl

@[simp] theorem gaugeRead_tracer (s : State) : (gaugeRead s).tracer = s.tracer :=
  gaugeRead_parts s .tracer rfl

@[simp] theorem gaugeRead_power (s : State) : (gaugeRead s).power = s.power :=
  gaugeRead_parts s .power rfl

@[simp] theorem gaugeRead_regs (s : State) : (gaugeRead s).regs = s.regs :=
  gaugeRead_parts s .regs rfl

@[simp] theorem gaugeRead_pool (s : State) : (gaugeRead s).pool = s.pool :=
  gaugeRead_parts s .pool rfl

@[simp] theorem gaugeRead_free (s : State) : (gaugeRead s).free = s.free :=
  gaugeRead_parts s .free rfl

theorem bootRecord_parts (s : State) : s.agree [.sb, .tracer] (bootRecord s) :=
  bootRecord_frame s (agree_refl _ s) rfl

@[simp] theorem bootRecord_pending (s : State) : (bootRecord s).pending = s.pending :=
  bootRecord_parts s .pending rfl

@[simp] theorem bootRecord_out (s : State) : (bootRecord s).out = s.out :=
  bootRecord_parts s .out rfl

@[simp] theorem bootRecord_time (s : State) : (bootRecord s).time = s.time :=
  bootRecord_parts s .time rfl

@[simp] theorem bootRecord_chip (s : State) : (bootRecord s).chip = s.chip :=
  bootRecord_parts s .chip rfl

@[simp] theorem bootRecord_owner (s : State) : (bootRecord s).owner = s.owner :=
  bootRecord_parts s .owner rfl

@[simp] theorem bootRecord_pins (s : State) : (bootRecord s).pins = s.pins :=
  bootRecord_parts s .pins rfl

@[simp] theorem bootRecord_boot (s : State) : (bootRecord s).boot = s.boot :=
  bootRecord_parts s .boot rfl

@[simp] theorem bootRecord_fuses (s : State) : (bootRecord s).fuses = s.fuses :=
  bootRecord_parts s .fuses rfl

@[simp] theorem bootRecord_flash (s : State) : (bootRecord s).flash = s.flash :=
  bootRecord_parts s .flash rfl

@[simp] theorem bootRecord_lc (s : State) : (bootRecord s).lc = s.lc :=
  bootRecord_parts s .lc rfl

@[simp] theorem bootRecord_datum (s : State) : (bootRecord s).datum = s.datum :=
  bootRecord_parts s .datum rfl

@[simp] theorem bootRecord_polders (s : State) : (bootRecord s).polders = s.polders :=
  bootRecord_parts s .polders rfl

@[simp] theorem bootRecord_cad (s : State) : (bootRecord s).cad = s.cad :=
  bootRecord_parts s .cad rfl

@[simp] theorem bootRecord_keys (s : State) : (bootRecord s).keys = s.keys :=
  bootRecord_parts s .keys rfl

@[simp] theorem bootRecord_link (s : State) : (bootRecord s).link = s.link :=
  bootRecord_parts s .link rfl

@[simp] theorem bootRecord_stack (s : State) : (bootRecord s).stack = s.stack :=
  bootRecord_parts s .stack rfl

@[simp] theorem bootRecord_tray (s : State) : (bootRecord s).tray = s.tray :=
  bootRecord_parts s .tray rfl

@[simp] theorem bootRecord_fau (s : State) : (bootRecord s).fau = s.fau :=
  bootRecord_parts s .fau rfl

@[simp] theorem bootRecord_rings (s : State) : (bootRecord s).rings = s.rings :=
  bootRecord_parts s .rings rfl

@[simp] theorem bootRecord_coll (s : State) : (bootRecord s).coll = s.coll :=
  bootRecord_parts s .coll rfl

@[simp] theorem bootRecord_bars (s : State) : (bootRecord s).bars = s.bars :=
  bootRecord_parts s .bars rfl

@[simp] theorem bootRecord_sca (s : State) : (bootRecord s).sca = s.sca :=
  bootRecord_parts s .sca rfl

@[simp] theorem bootRecord_obj (s : State) : (bootRecord s).obj = s.obj :=
  bootRecord_parts s .obj rfl

@[simp] theorem bootRecord_fns (s : State) : (bootRecord s).fns = s.fns :=
  bootRecord_parts s .fns rfl

@[simp] theorem bootRecord_spdm (s : State) : (bootRecord s).spdm = s.spdm :=
  bootRecord_parts s .spdm rfl

@[simp] theorem bootRecord_weirs (s : State) : (bootRecord s).weirs = s.weirs :=
  bootRecord_parts s .weirs rfl

@[simp] theorem bootRecord_charts (s : State) : (bootRecord s).charts = s.charts :=
  bootRecord_parts s .charts rfl

@[simp] theorem bootRecord_gauge (s : State) : (bootRecord s).gauge = s.gauge :=
  bootRecord_parts s .gauge rfl

@[simp] theorem bootRecord_power (s : State) : (bootRecord s).power = s.power :=
  bootRecord_parts s .power rfl

@[simp] theorem bootRecord_regs (s : State) : (bootRecord s).regs = s.regs :=
  bootRecord_parts s .regs rfl

@[simp] theorem bootRecord_pool (s : State) : (bootRecord s).pool = s.pool :=
  bootRecord_parts s .pool rfl

@[simp] theorem bootRecord_free (s : State) : (bootRecord s).free = s.free :=
  bootRecord_parts s .free rfl

theorem romStart_parts (s : State) : s.agree [.out, .boot, .sb, .tracer, .gauge] (romStart s) :=
  romStart_frame s (agree_refl _ s) rfl

@[simp] theorem romStart_pending (s : State) : (romStart s).pending = s.pending :=
  romStart_parts s .pending rfl

@[simp] theorem romStart_time (s : State) : (romStart s).time = s.time :=
  romStart_parts s .time rfl

@[simp] theorem romStart_chip (s : State) : (romStart s).chip = s.chip :=
  romStart_parts s .chip rfl

@[simp] theorem romStart_owner (s : State) : (romStart s).owner = s.owner :=
  romStart_parts s .owner rfl

@[simp] theorem romStart_pins (s : State) : (romStart s).pins = s.pins :=
  romStart_parts s .pins rfl

@[simp] theorem romStart_fuses (s : State) : (romStart s).fuses = s.fuses :=
  romStart_parts s .fuses rfl

@[simp] theorem romStart_flash (s : State) : (romStart s).flash = s.flash :=
  romStart_parts s .flash rfl

@[simp] theorem romStart_lc (s : State) : (romStart s).lc = s.lc :=
  romStart_parts s .lc rfl

@[simp] theorem romStart_datum (s : State) : (romStart s).datum = s.datum :=
  romStart_parts s .datum rfl

@[simp] theorem romStart_polders (s : State) : (romStart s).polders = s.polders :=
  romStart_parts s .polders rfl

@[simp] theorem romStart_cad (s : State) : (romStart s).cad = s.cad :=
  romStart_parts s .cad rfl

@[simp] theorem romStart_keys (s : State) : (romStart s).keys = s.keys :=
  romStart_parts s .keys rfl

@[simp] theorem romStart_link (s : State) : (romStart s).link = s.link :=
  romStart_parts s .link rfl

@[simp] theorem romStart_stack (s : State) : (romStart s).stack = s.stack :=
  romStart_parts s .stack rfl

@[simp] theorem romStart_tray (s : State) : (romStart s).tray = s.tray :=
  romStart_parts s .tray rfl

@[simp] theorem romStart_fau (s : State) : (romStart s).fau = s.fau :=
  romStart_parts s .fau rfl

@[simp] theorem romStart_rings (s : State) : (romStart s).rings = s.rings :=
  romStart_parts s .rings rfl

@[simp] theorem romStart_coll (s : State) : (romStart s).coll = s.coll :=
  romStart_parts s .coll rfl

@[simp] theorem romStart_bars (s : State) : (romStart s).bars = s.bars :=
  romStart_parts s .bars rfl

@[simp] theorem romStart_sca (s : State) : (romStart s).sca = s.sca :=
  romStart_parts s .sca rfl

@[simp] theorem romStart_obj (s : State) : (romStart s).obj = s.obj :=
  romStart_parts s .obj rfl

@[simp] theorem romStart_fns (s : State) : (romStart s).fns = s.fns :=
  romStart_parts s .fns rfl

@[simp] theorem romStart_spdm (s : State) : (romStart s).spdm = s.spdm :=
  romStart_parts s .spdm rfl

@[simp] theorem romStart_weirs (s : State) : (romStart s).weirs = s.weirs :=
  romStart_parts s .weirs rfl

@[simp] theorem romStart_charts (s : State) : (romStart s).charts = s.charts :=
  romStart_parts s .charts rfl

@[simp] theorem romStart_power (s : State) : (romStart s).power = s.power :=
  romStart_parts s .power rfl

@[simp] theorem romStart_regs (s : State) : (romStart s).regs = s.regs :=
  romStart_parts s .regs rfl

@[simp] theorem romStart_pool (s : State) : (romStart s).pool = s.pool :=
  romStart_parts s .pool rfl

@[simp] theorem romStart_free (s : State) : (romStart s).free = s.free :=
  romStart_parts s .free rfl

theorem resetState_parts (s : State) : s.agree [.owner, .pins, .boot, .flash, .lc, .datum, .polders, .cad, .keys, .link, .stack, .tray, .fau, .rings, .coll, .bars, .sca, .obj, .fns, .spdm, .weirs, .charts, .tracer, .gauge, .power, .regs, .pool, .free] (resetState s) :=
  resetState_frame s (agree_refl _ s) rfl

@[simp] theorem resetState_pending (s : State) : (resetState s).pending = s.pending :=
  resetState_parts s .pending rfl

@[simp] theorem resetState_out (s : State) : (resetState s).out = s.out :=
  resetState_parts s .out rfl

@[simp] theorem resetState_time (s : State) : (resetState s).time = s.time :=
  resetState_parts s .time rfl

@[simp] theorem resetState_chip (s : State) : (resetState s).chip = s.chip :=
  resetState_parts s .chip rfl

@[simp] theorem resetState_fuses (s : State) : (resetState s).fuses = s.fuses :=
  resetState_parts s .fuses rfl

@[simp] theorem resetState_sb (s : State) : (resetState s).sb = s.sb :=
  resetState_parts s .sb rfl

theorem countEvent_parts (cause : BitVec 8) (s : State) : s.agree [.sb] (countEvent cause s) :=
  countEvent_frame _ s (agree_refl _ s) rfl

@[simp] theorem countEvent_pending (cause : BitVec 8) (s : State) : (countEvent cause s).pending = s.pending :=
  countEvent_parts _ s .pending rfl

@[simp] theorem countEvent_out (cause : BitVec 8) (s : State) : (countEvent cause s).out = s.out :=
  countEvent_parts _ s .out rfl

@[simp] theorem countEvent_time (cause : BitVec 8) (s : State) : (countEvent cause s).time = s.time :=
  countEvent_parts _ s .time rfl

@[simp] theorem countEvent_chip (cause : BitVec 8) (s : State) : (countEvent cause s).chip = s.chip :=
  countEvent_parts _ s .chip rfl

@[simp] theorem countEvent_owner (cause : BitVec 8) (s : State) : (countEvent cause s).owner = s.owner :=
  countEvent_parts _ s .owner rfl

@[simp] theorem countEvent_pins (cause : BitVec 8) (s : State) : (countEvent cause s).pins = s.pins :=
  countEvent_parts _ s .pins rfl

@[simp] theorem countEvent_boot (cause : BitVec 8) (s : State) : (countEvent cause s).boot = s.boot :=
  countEvent_parts _ s .boot rfl

@[simp] theorem countEvent_fuses (cause : BitVec 8) (s : State) : (countEvent cause s).fuses = s.fuses :=
  countEvent_parts _ s .fuses rfl

@[simp] theorem countEvent_flash (cause : BitVec 8) (s : State) : (countEvent cause s).flash = s.flash :=
  countEvent_parts _ s .flash rfl

@[simp] theorem countEvent_lc (cause : BitVec 8) (s : State) : (countEvent cause s).lc = s.lc :=
  countEvent_parts _ s .lc rfl

@[simp] theorem countEvent_datum (cause : BitVec 8) (s : State) : (countEvent cause s).datum = s.datum :=
  countEvent_parts _ s .datum rfl

@[simp] theorem countEvent_polders (cause : BitVec 8) (s : State) : (countEvent cause s).polders = s.polders :=
  countEvent_parts _ s .polders rfl

@[simp] theorem countEvent_cad (cause : BitVec 8) (s : State) : (countEvent cause s).cad = s.cad :=
  countEvent_parts _ s .cad rfl

@[simp] theorem countEvent_keys (cause : BitVec 8) (s : State) : (countEvent cause s).keys = s.keys :=
  countEvent_parts _ s .keys rfl

@[simp] theorem countEvent_link (cause : BitVec 8) (s : State) : (countEvent cause s).link = s.link :=
  countEvent_parts _ s .link rfl

@[simp] theorem countEvent_stack (cause : BitVec 8) (s : State) : (countEvent cause s).stack = s.stack :=
  countEvent_parts _ s .stack rfl

@[simp] theorem countEvent_tray (cause : BitVec 8) (s : State) : (countEvent cause s).tray = s.tray :=
  countEvent_parts _ s .tray rfl

@[simp] theorem countEvent_fau (cause : BitVec 8) (s : State) : (countEvent cause s).fau = s.fau :=
  countEvent_parts _ s .fau rfl

@[simp] theorem countEvent_rings (cause : BitVec 8) (s : State) : (countEvent cause s).rings = s.rings :=
  countEvent_parts _ s .rings rfl

@[simp] theorem countEvent_coll (cause : BitVec 8) (s : State) : (countEvent cause s).coll = s.coll :=
  countEvent_parts _ s .coll rfl

@[simp] theorem countEvent_bars (cause : BitVec 8) (s : State) : (countEvent cause s).bars = s.bars :=
  countEvent_parts _ s .bars rfl

@[simp] theorem countEvent_sca (cause : BitVec 8) (s : State) : (countEvent cause s).sca = s.sca :=
  countEvent_parts _ s .sca rfl

@[simp] theorem countEvent_obj (cause : BitVec 8) (s : State) : (countEvent cause s).obj = s.obj :=
  countEvent_parts _ s .obj rfl

@[simp] theorem countEvent_fns (cause : BitVec 8) (s : State) : (countEvent cause s).fns = s.fns :=
  countEvent_parts _ s .fns rfl

@[simp] theorem countEvent_spdm (cause : BitVec 8) (s : State) : (countEvent cause s).spdm = s.spdm :=
  countEvent_parts _ s .spdm rfl

@[simp] theorem countEvent_weirs (cause : BitVec 8) (s : State) : (countEvent cause s).weirs = s.weirs :=
  countEvent_parts _ s .weirs rfl

@[simp] theorem countEvent_charts (cause : BitVec 8) (s : State) : (countEvent cause s).charts = s.charts :=
  countEvent_parts _ s .charts rfl

@[simp] theorem countEvent_tracer (cause : BitVec 8) (s : State) : (countEvent cause s).tracer = s.tracer :=
  countEvent_parts _ s .tracer rfl

@[simp] theorem countEvent_gauge (cause : BitVec 8) (s : State) : (countEvent cause s).gauge = s.gauge :=
  countEvent_parts _ s .gauge rfl

@[simp] theorem countEvent_power (cause : BitVec 8) (s : State) : (countEvent cause s).power = s.power :=
  countEvent_parts _ s .power rfl

@[simp] theorem countEvent_regs (cause : BitVec 8) (s : State) : (countEvent cause s).regs = s.regs :=
  countEvent_parts _ s .regs rfl

@[simp] theorem countEvent_pool (cause : BitVec 8) (s : State) : (countEvent cause s).pool = s.pool :=
  countEvent_parts _ s .pool rfl

@[simp] theorem countEvent_free (cause : BitVec 8) (s : State) : (countEvent cause s).free = s.free :=
  countEvent_parts _ s .free rfl

theorem completeInterrupted_parts (s : State) : s.agree [.boot, .fuses, .flash, .cad, .stack, .tracer] (completeInterrupted s) :=
  completeInterrupted_frame s (agree_refl _ s) rfl

@[simp] theorem completeInterrupted_pending (s : State) : (completeInterrupted s).pending = s.pending :=
  completeInterrupted_parts s .pending rfl

@[simp] theorem completeInterrupted_out (s : State) : (completeInterrupted s).out = s.out :=
  completeInterrupted_parts s .out rfl

@[simp] theorem completeInterrupted_time (s : State) : (completeInterrupted s).time = s.time :=
  completeInterrupted_parts s .time rfl

@[simp] theorem completeInterrupted_chip (s : State) : (completeInterrupted s).chip = s.chip :=
  completeInterrupted_parts s .chip rfl

@[simp] theorem completeInterrupted_owner (s : State) : (completeInterrupted s).owner = s.owner :=
  completeInterrupted_parts s .owner rfl

@[simp] theorem completeInterrupted_pins (s : State) : (completeInterrupted s).pins = s.pins :=
  completeInterrupted_parts s .pins rfl

@[simp] theorem completeInterrupted_lc (s : State) : (completeInterrupted s).lc = s.lc :=
  completeInterrupted_parts s .lc rfl

@[simp] theorem completeInterrupted_sb (s : State) : (completeInterrupted s).sb = s.sb :=
  completeInterrupted_parts s .sb rfl

@[simp] theorem completeInterrupted_datum (s : State) : (completeInterrupted s).datum = s.datum :=
  completeInterrupted_parts s .datum rfl

@[simp] theorem completeInterrupted_polders (s : State) : (completeInterrupted s).polders = s.polders :=
  completeInterrupted_parts s .polders rfl

@[simp] theorem completeInterrupted_keys (s : State) : (completeInterrupted s).keys = s.keys :=
  completeInterrupted_parts s .keys rfl

@[simp] theorem completeInterrupted_link (s : State) : (completeInterrupted s).link = s.link :=
  completeInterrupted_parts s .link rfl

@[simp] theorem completeInterrupted_tray (s : State) : (completeInterrupted s).tray = s.tray :=
  completeInterrupted_parts s .tray rfl

@[simp] theorem completeInterrupted_fau (s : State) : (completeInterrupted s).fau = s.fau :=
  completeInterrupted_parts s .fau rfl

@[simp] theorem completeInterrupted_rings (s : State) : (completeInterrupted s).rings = s.rings :=
  completeInterrupted_parts s .rings rfl

@[simp] theorem completeInterrupted_coll (s : State) : (completeInterrupted s).coll = s.coll :=
  completeInterrupted_parts s .coll rfl

@[simp] theorem completeInterrupted_bars (s : State) : (completeInterrupted s).bars = s.bars :=
  completeInterrupted_parts s .bars rfl

@[simp] theorem completeInterrupted_sca (s : State) : (completeInterrupted s).sca = s.sca :=
  completeInterrupted_parts s .sca rfl

@[simp] theorem completeInterrupted_obj (s : State) : (completeInterrupted s).obj = s.obj :=
  completeInterrupted_parts s .obj rfl

@[simp] theorem completeInterrupted_fns (s : State) : (completeInterrupted s).fns = s.fns :=
  completeInterrupted_parts s .fns rfl

@[simp] theorem completeInterrupted_spdm (s : State) : (completeInterrupted s).spdm = s.spdm :=
  completeInterrupted_parts s .spdm rfl

@[simp] theorem completeInterrupted_weirs (s : State) : (completeInterrupted s).weirs = s.weirs :=
  completeInterrupted_parts s .weirs rfl

@[simp] theorem completeInterrupted_charts (s : State) : (completeInterrupted s).charts = s.charts :=
  completeInterrupted_parts s .charts rfl

@[simp] theorem completeInterrupted_gauge (s : State) : (completeInterrupted s).gauge = s.gauge :=
  completeInterrupted_parts s .gauge rfl

@[simp] theorem completeInterrupted_power (s : State) : (completeInterrupted s).power = s.power :=
  completeInterrupted_parts s .power rfl

@[simp] theorem completeInterrupted_regs (s : State) : (completeInterrupted s).regs = s.regs :=
  completeInterrupted_parts s .regs rfl

@[simp] theorem completeInterrupted_pool (s : State) : (completeInterrupted s).pool = s.pool :=
  completeInterrupted_parts s .pool rfl

@[simp] theorem completeInterrupted_free (s : State) : (completeInterrupted s).free = s.free :=
  completeInterrupted_parts s .free rfl

theorem eraseSealed_parts (s : State) : s.agree [.flash] (eraseSealed s) :=
  eraseSealed_frame s (agree_refl _ s) rfl

@[simp] theorem eraseSealed_pending (s : State) : (eraseSealed s).pending = s.pending :=
  eraseSealed_parts s .pending rfl

@[simp] theorem eraseSealed_out (s : State) : (eraseSealed s).out = s.out :=
  eraseSealed_parts s .out rfl

@[simp] theorem eraseSealed_time (s : State) : (eraseSealed s).time = s.time :=
  eraseSealed_parts s .time rfl

@[simp] theorem eraseSealed_chip (s : State) : (eraseSealed s).chip = s.chip :=
  eraseSealed_parts s .chip rfl

@[simp] theorem eraseSealed_owner (s : State) : (eraseSealed s).owner = s.owner :=
  eraseSealed_parts s .owner rfl

@[simp] theorem eraseSealed_pins (s : State) : (eraseSealed s).pins = s.pins :=
  eraseSealed_parts s .pins rfl

@[simp] theorem eraseSealed_boot (s : State) : (eraseSealed s).boot = s.boot :=
  eraseSealed_parts s .boot rfl

@[simp] theorem eraseSealed_fuses (s : State) : (eraseSealed s).fuses = s.fuses :=
  eraseSealed_parts s .fuses rfl

@[simp] theorem eraseSealed_lc (s : State) : (eraseSealed s).lc = s.lc :=
  eraseSealed_parts s .lc rfl

@[simp] theorem eraseSealed_sb (s : State) : (eraseSealed s).sb = s.sb :=
  eraseSealed_parts s .sb rfl

@[simp] theorem eraseSealed_datum (s : State) : (eraseSealed s).datum = s.datum :=
  eraseSealed_parts s .datum rfl

@[simp] theorem eraseSealed_polders (s : State) : (eraseSealed s).polders = s.polders :=
  eraseSealed_parts s .polders rfl

@[simp] theorem eraseSealed_cad (s : State) : (eraseSealed s).cad = s.cad :=
  eraseSealed_parts s .cad rfl

@[simp] theorem eraseSealed_keys (s : State) : (eraseSealed s).keys = s.keys :=
  eraseSealed_parts s .keys rfl

@[simp] theorem eraseSealed_link (s : State) : (eraseSealed s).link = s.link :=
  eraseSealed_parts s .link rfl

@[simp] theorem eraseSealed_stack (s : State) : (eraseSealed s).stack = s.stack :=
  eraseSealed_parts s .stack rfl

@[simp] theorem eraseSealed_tray (s : State) : (eraseSealed s).tray = s.tray :=
  eraseSealed_parts s .tray rfl

@[simp] theorem eraseSealed_fau (s : State) : (eraseSealed s).fau = s.fau :=
  eraseSealed_parts s .fau rfl

@[simp] theorem eraseSealed_rings (s : State) : (eraseSealed s).rings = s.rings :=
  eraseSealed_parts s .rings rfl

@[simp] theorem eraseSealed_coll (s : State) : (eraseSealed s).coll = s.coll :=
  eraseSealed_parts s .coll rfl

@[simp] theorem eraseSealed_bars (s : State) : (eraseSealed s).bars = s.bars :=
  eraseSealed_parts s .bars rfl

@[simp] theorem eraseSealed_sca (s : State) : (eraseSealed s).sca = s.sca :=
  eraseSealed_parts s .sca rfl

@[simp] theorem eraseSealed_obj (s : State) : (eraseSealed s).obj = s.obj :=
  eraseSealed_parts s .obj rfl

@[simp] theorem eraseSealed_fns (s : State) : (eraseSealed s).fns = s.fns :=
  eraseSealed_parts s .fns rfl

@[simp] theorem eraseSealed_spdm (s : State) : (eraseSealed s).spdm = s.spdm :=
  eraseSealed_parts s .spdm rfl

@[simp] theorem eraseSealed_weirs (s : State) : (eraseSealed s).weirs = s.weirs :=
  eraseSealed_parts s .weirs rfl

@[simp] theorem eraseSealed_charts (s : State) : (eraseSealed s).charts = s.charts :=
  eraseSealed_parts s .charts rfl

@[simp] theorem eraseSealed_tracer (s : State) : (eraseSealed s).tracer = s.tracer :=
  eraseSealed_parts s .tracer rfl

@[simp] theorem eraseSealed_gauge (s : State) : (eraseSealed s).gauge = s.gauge :=
  eraseSealed_parts s .gauge rfl

@[simp] theorem eraseSealed_power (s : State) : (eraseSealed s).power = s.power :=
  eraseSealed_parts s .power rfl

@[simp] theorem eraseSealed_regs (s : State) : (eraseSealed s).regs = s.regs :=
  eraseSealed_parts s .regs rfl

@[simp] theorem eraseSealed_pool (s : State) : (eraseSealed s).pool = s.pool :=
  eraseSealed_parts s .pool rfl

@[simp] theorem eraseSealed_free (s : State) : (eraseSealed s).free = s.free :=
  eraseSealed_parts s .free rfl

theorem writeImage_parts (i : Image) (s : State) : s.agree [.flash] (writeImage i s) :=
  writeImage_frame _ s (agree_refl _ s) rfl

@[simp] theorem writeImage_pending (i : Image) (s : State) : (writeImage i s).pending = s.pending :=
  writeImage_parts _ s .pending rfl

@[simp] theorem writeImage_out (i : Image) (s : State) : (writeImage i s).out = s.out :=
  writeImage_parts _ s .out rfl

@[simp] theorem writeImage_time (i : Image) (s : State) : (writeImage i s).time = s.time :=
  writeImage_parts _ s .time rfl

@[simp] theorem writeImage_chip (i : Image) (s : State) : (writeImage i s).chip = s.chip :=
  writeImage_parts _ s .chip rfl

@[simp] theorem writeImage_owner (i : Image) (s : State) : (writeImage i s).owner = s.owner :=
  writeImage_parts _ s .owner rfl

@[simp] theorem writeImage_pins (i : Image) (s : State) : (writeImage i s).pins = s.pins :=
  writeImage_parts _ s .pins rfl

@[simp] theorem writeImage_boot (i : Image) (s : State) : (writeImage i s).boot = s.boot :=
  writeImage_parts _ s .boot rfl

@[simp] theorem writeImage_fuses (i : Image) (s : State) : (writeImage i s).fuses = s.fuses :=
  writeImage_parts _ s .fuses rfl

@[simp] theorem writeImage_lc (i : Image) (s : State) : (writeImage i s).lc = s.lc :=
  writeImage_parts _ s .lc rfl

@[simp] theorem writeImage_sb (i : Image) (s : State) : (writeImage i s).sb = s.sb :=
  writeImage_parts _ s .sb rfl

@[simp] theorem writeImage_datum (i : Image) (s : State) : (writeImage i s).datum = s.datum :=
  writeImage_parts _ s .datum rfl

@[simp] theorem writeImage_polders (i : Image) (s : State) : (writeImage i s).polders = s.polders :=
  writeImage_parts _ s .polders rfl

@[simp] theorem writeImage_cad (i : Image) (s : State) : (writeImage i s).cad = s.cad :=
  writeImage_parts _ s .cad rfl

@[simp] theorem writeImage_keys (i : Image) (s : State) : (writeImage i s).keys = s.keys :=
  writeImage_parts _ s .keys rfl

@[simp] theorem writeImage_link (i : Image) (s : State) : (writeImage i s).link = s.link :=
  writeImage_parts _ s .link rfl

@[simp] theorem writeImage_stack (i : Image) (s : State) : (writeImage i s).stack = s.stack :=
  writeImage_parts _ s .stack rfl

@[simp] theorem writeImage_tray (i : Image) (s : State) : (writeImage i s).tray = s.tray :=
  writeImage_parts _ s .tray rfl

@[simp] theorem writeImage_fau (i : Image) (s : State) : (writeImage i s).fau = s.fau :=
  writeImage_parts _ s .fau rfl

@[simp] theorem writeImage_rings (i : Image) (s : State) : (writeImage i s).rings = s.rings :=
  writeImage_parts _ s .rings rfl

@[simp] theorem writeImage_coll (i : Image) (s : State) : (writeImage i s).coll = s.coll :=
  writeImage_parts _ s .coll rfl

@[simp] theorem writeImage_bars (i : Image) (s : State) : (writeImage i s).bars = s.bars :=
  writeImage_parts _ s .bars rfl

@[simp] theorem writeImage_sca (i : Image) (s : State) : (writeImage i s).sca = s.sca :=
  writeImage_parts _ s .sca rfl

@[simp] theorem writeImage_obj (i : Image) (s : State) : (writeImage i s).obj = s.obj :=
  writeImage_parts _ s .obj rfl

@[simp] theorem writeImage_fns (i : Image) (s : State) : (writeImage i s).fns = s.fns :=
  writeImage_parts _ s .fns rfl

@[simp] theorem writeImage_spdm (i : Image) (s : State) : (writeImage i s).spdm = s.spdm :=
  writeImage_parts _ s .spdm rfl

@[simp] theorem writeImage_weirs (i : Image) (s : State) : (writeImage i s).weirs = s.weirs :=
  writeImage_parts _ s .weirs rfl

@[simp] theorem writeImage_charts (i : Image) (s : State) : (writeImage i s).charts = s.charts :=
  writeImage_parts _ s .charts rfl

@[simp] theorem writeImage_tracer (i : Image) (s : State) : (writeImage i s).tracer = s.tracer :=
  writeImage_parts _ s .tracer rfl

@[simp] theorem writeImage_gauge (i : Image) (s : State) : (writeImage i s).gauge = s.gauge :=
  writeImage_parts _ s .gauge rfl

@[simp] theorem writeImage_power (i : Image) (s : State) : (writeImage i s).power = s.power :=
  writeImage_parts _ s .power rfl

@[simp] theorem writeImage_regs (i : Image) (s : State) : (writeImage i s).regs = s.regs :=
  writeImage_parts _ s .regs rfl

@[simp] theorem writeImage_pool (i : Image) (s : State) : (writeImage i s).pool = s.pool :=
  writeImage_parts _ s .pool rfl

@[simp] theorem writeImage_free (i : Image) (s : State) : (writeImage i s).free = s.free :=
  writeImage_parts _ s .free rfl

theorem announceBoot_parts (s : State) : s.agree [.out, .sb] (announceBoot s) :=
  announceBoot_frame s (agree_refl _ s) rfl

@[simp] theorem announceBoot_pending (s : State) : (announceBoot s).pending = s.pending :=
  announceBoot_parts s .pending rfl

@[simp] theorem announceBoot_time (s : State) : (announceBoot s).time = s.time :=
  announceBoot_parts s .time rfl

@[simp] theorem announceBoot_chip (s : State) : (announceBoot s).chip = s.chip :=
  announceBoot_parts s .chip rfl

@[simp] theorem announceBoot_owner (s : State) : (announceBoot s).owner = s.owner :=
  announceBoot_parts s .owner rfl

@[simp] theorem announceBoot_pins (s : State) : (announceBoot s).pins = s.pins :=
  announceBoot_parts s .pins rfl

@[simp] theorem announceBoot_boot (s : State) : (announceBoot s).boot = s.boot :=
  announceBoot_parts s .boot rfl

@[simp] theorem announceBoot_fuses (s : State) : (announceBoot s).fuses = s.fuses :=
  announceBoot_parts s .fuses rfl

@[simp] theorem announceBoot_flash (s : State) : (announceBoot s).flash = s.flash :=
  announceBoot_parts s .flash rfl

@[simp] theorem announceBoot_lc (s : State) : (announceBoot s).lc = s.lc :=
  announceBoot_parts s .lc rfl

@[simp] theorem announceBoot_datum (s : State) : (announceBoot s).datum = s.datum :=
  announceBoot_parts s .datum rfl

@[simp] theorem announceBoot_polders (s : State) : (announceBoot s).polders = s.polders :=
  announceBoot_parts s .polders rfl

@[simp] theorem announceBoot_cad (s : State) : (announceBoot s).cad = s.cad :=
  announceBoot_parts s .cad rfl

@[simp] theorem announceBoot_keys (s : State) : (announceBoot s).keys = s.keys :=
  announceBoot_parts s .keys rfl

@[simp] theorem announceBoot_link (s : State) : (announceBoot s).link = s.link :=
  announceBoot_parts s .link rfl

@[simp] theorem announceBoot_stack (s : State) : (announceBoot s).stack = s.stack :=
  announceBoot_parts s .stack rfl

@[simp] theorem announceBoot_tray (s : State) : (announceBoot s).tray = s.tray :=
  announceBoot_parts s .tray rfl

@[simp] theorem announceBoot_fau (s : State) : (announceBoot s).fau = s.fau :=
  announceBoot_parts s .fau rfl

@[simp] theorem announceBoot_rings (s : State) : (announceBoot s).rings = s.rings :=
  announceBoot_parts s .rings rfl

@[simp] theorem announceBoot_coll (s : State) : (announceBoot s).coll = s.coll :=
  announceBoot_parts s .coll rfl

@[simp] theorem announceBoot_bars (s : State) : (announceBoot s).bars = s.bars :=
  announceBoot_parts s .bars rfl

@[simp] theorem announceBoot_sca (s : State) : (announceBoot s).sca = s.sca :=
  announceBoot_parts s .sca rfl

@[simp] theorem announceBoot_obj (s : State) : (announceBoot s).obj = s.obj :=
  announceBoot_parts s .obj rfl

@[simp] theorem announceBoot_fns (s : State) : (announceBoot s).fns = s.fns :=
  announceBoot_parts s .fns rfl

@[simp] theorem announceBoot_spdm (s : State) : (announceBoot s).spdm = s.spdm :=
  announceBoot_parts s .spdm rfl

@[simp] theorem announceBoot_weirs (s : State) : (announceBoot s).weirs = s.weirs :=
  announceBoot_parts s .weirs rfl

@[simp] theorem announceBoot_charts (s : State) : (announceBoot s).charts = s.charts :=
  announceBoot_parts s .charts rfl

@[simp] theorem announceBoot_tracer (s : State) : (announceBoot s).tracer = s.tracer :=
  announceBoot_parts s .tracer rfl

@[simp] theorem announceBoot_gauge (s : State) : (announceBoot s).gauge = s.gauge :=
  announceBoot_parts s .gauge rfl

@[simp] theorem announceBoot_power (s : State) : (announceBoot s).power = s.power :=
  announceBoot_parts s .power rfl

@[simp] theorem announceBoot_regs (s : State) : (announceBoot s).regs = s.regs :=
  announceBoot_parts s .regs rfl

@[simp] theorem announceBoot_pool (s : State) : (announceBoot s).pool = s.pool :=
  announceBoot_parts s .pool rfl

@[simp] theorem announceBoot_free (s : State) : (announceBoot s).free = s.free :=
  announceBoot_parts s .free rfl

theorem cutRewrite_parts (s : State) : s.agree [.boot, .flash, .free] (cutRewrite s) :=
  cutRewrite_frame s (agree_refl _ s) rfl

@[simp] theorem cutRewrite_pending (s : State) : (cutRewrite s).pending = s.pending :=
  cutRewrite_parts s .pending rfl

@[simp] theorem cutRewrite_out (s : State) : (cutRewrite s).out = s.out :=
  cutRewrite_parts s .out rfl

@[simp] theorem cutRewrite_time (s : State) : (cutRewrite s).time = s.time :=
  cutRewrite_parts s .time rfl

@[simp] theorem cutRewrite_chip (s : State) : (cutRewrite s).chip = s.chip :=
  cutRewrite_parts s .chip rfl

@[simp] theorem cutRewrite_owner (s : State) : (cutRewrite s).owner = s.owner :=
  cutRewrite_parts s .owner rfl

@[simp] theorem cutRewrite_pins (s : State) : (cutRewrite s).pins = s.pins :=
  cutRewrite_parts s .pins rfl

@[simp] theorem cutRewrite_fuses (s : State) : (cutRewrite s).fuses = s.fuses :=
  cutRewrite_parts s .fuses rfl

@[simp] theorem cutRewrite_lc (s : State) : (cutRewrite s).lc = s.lc :=
  cutRewrite_parts s .lc rfl

@[simp] theorem cutRewrite_sb (s : State) : (cutRewrite s).sb = s.sb :=
  cutRewrite_parts s .sb rfl

@[simp] theorem cutRewrite_datum (s : State) : (cutRewrite s).datum = s.datum :=
  cutRewrite_parts s .datum rfl

@[simp] theorem cutRewrite_polders (s : State) : (cutRewrite s).polders = s.polders :=
  cutRewrite_parts s .polders rfl

@[simp] theorem cutRewrite_cad (s : State) : (cutRewrite s).cad = s.cad :=
  cutRewrite_parts s .cad rfl

@[simp] theorem cutRewrite_keys (s : State) : (cutRewrite s).keys = s.keys :=
  cutRewrite_parts s .keys rfl

@[simp] theorem cutRewrite_link (s : State) : (cutRewrite s).link = s.link :=
  cutRewrite_parts s .link rfl

@[simp] theorem cutRewrite_stack (s : State) : (cutRewrite s).stack = s.stack :=
  cutRewrite_parts s .stack rfl

@[simp] theorem cutRewrite_tray (s : State) : (cutRewrite s).tray = s.tray :=
  cutRewrite_parts s .tray rfl

@[simp] theorem cutRewrite_fau (s : State) : (cutRewrite s).fau = s.fau :=
  cutRewrite_parts s .fau rfl

@[simp] theorem cutRewrite_rings (s : State) : (cutRewrite s).rings = s.rings :=
  cutRewrite_parts s .rings rfl

@[simp] theorem cutRewrite_coll (s : State) : (cutRewrite s).coll = s.coll :=
  cutRewrite_parts s .coll rfl

@[simp] theorem cutRewrite_bars (s : State) : (cutRewrite s).bars = s.bars :=
  cutRewrite_parts s .bars rfl

@[simp] theorem cutRewrite_sca (s : State) : (cutRewrite s).sca = s.sca :=
  cutRewrite_parts s .sca rfl

@[simp] theorem cutRewrite_obj (s : State) : (cutRewrite s).obj = s.obj :=
  cutRewrite_parts s .obj rfl

@[simp] theorem cutRewrite_fns (s : State) : (cutRewrite s).fns = s.fns :=
  cutRewrite_parts s .fns rfl

@[simp] theorem cutRewrite_spdm (s : State) : (cutRewrite s).spdm = s.spdm :=
  cutRewrite_parts s .spdm rfl

@[simp] theorem cutRewrite_weirs (s : State) : (cutRewrite s).weirs = s.weirs :=
  cutRewrite_parts s .weirs rfl

@[simp] theorem cutRewrite_charts (s : State) : (cutRewrite s).charts = s.charts :=
  cutRewrite_parts s .charts rfl

@[simp] theorem cutRewrite_tracer (s : State) : (cutRewrite s).tracer = s.tracer :=
  cutRewrite_parts s .tracer rfl

@[simp] theorem cutRewrite_gauge (s : State) : (cutRewrite s).gauge = s.gauge :=
  cutRewrite_parts s .gauge rfl

@[simp] theorem cutRewrite_power (s : State) : (cutRewrite s).power = s.power :=
  cutRewrite_parts s .power rfl

@[simp] theorem cutRewrite_regs (s : State) : (cutRewrite s).regs = s.regs :=
  cutRewrite_parts s .regs rfl

@[simp] theorem cutRewrite_pool (s : State) : (cutRewrite s).pool = s.pool :=
  cutRewrite_parts s .pool rfl

theorem needJob_parts (cls : Nat) (work : KcuWork) (p : Option PolderId) (s : State) : s.agree [.out, .pins, .sb, .polders, .cad, .keys, .stack, .obj, .fns, .tracer, .power, .free] (needJob cls work p s) :=
  needJob_frame _ _ _ s (agree_refl _ s) rfl

@[simp] theorem needJob_pending (cls : Nat) (work : KcuWork) (p : Option PolderId) (s : State) : (needJob cls work p s).pending = s.pending :=
  needJob_parts _ _ _ s .pending rfl

@[simp] theorem needJob_time (cls : Nat) (work : KcuWork) (p : Option PolderId) (s : State) : (needJob cls work p s).time = s.time :=
  needJob_parts _ _ _ s .time rfl

@[simp] theorem needJob_chip (cls : Nat) (work : KcuWork) (p : Option PolderId) (s : State) : (needJob cls work p s).chip = s.chip :=
  needJob_parts _ _ _ s .chip rfl

@[simp] theorem needJob_owner (cls : Nat) (work : KcuWork) (p : Option PolderId) (s : State) : (needJob cls work p s).owner = s.owner :=
  needJob_parts _ _ _ s .owner rfl

@[simp] theorem needJob_boot (cls : Nat) (work : KcuWork) (p : Option PolderId) (s : State) : (needJob cls work p s).boot = s.boot :=
  needJob_parts _ _ _ s .boot rfl

@[simp] theorem needJob_fuses (cls : Nat) (work : KcuWork) (p : Option PolderId) (s : State) : (needJob cls work p s).fuses = s.fuses :=
  needJob_parts _ _ _ s .fuses rfl

@[simp] theorem needJob_flash (cls : Nat) (work : KcuWork) (p : Option PolderId) (s : State) : (needJob cls work p s).flash = s.flash :=
  needJob_parts _ _ _ s .flash rfl

@[simp] theorem needJob_lc (cls : Nat) (work : KcuWork) (p : Option PolderId) (s : State) : (needJob cls work p s).lc = s.lc :=
  needJob_parts _ _ _ s .lc rfl

@[simp] theorem needJob_datum (cls : Nat) (work : KcuWork) (p : Option PolderId) (s : State) : (needJob cls work p s).datum = s.datum :=
  needJob_parts _ _ _ s .datum rfl

@[simp] theorem needJob_link (cls : Nat) (work : KcuWork) (p : Option PolderId) (s : State) : (needJob cls work p s).link = s.link :=
  needJob_parts _ _ _ s .link rfl

@[simp] theorem needJob_tray (cls : Nat) (work : KcuWork) (p : Option PolderId) (s : State) : (needJob cls work p s).tray = s.tray :=
  needJob_parts _ _ _ s .tray rfl

@[simp] theorem needJob_fau (cls : Nat) (work : KcuWork) (p : Option PolderId) (s : State) : (needJob cls work p s).fau = s.fau :=
  needJob_parts _ _ _ s .fau rfl

@[simp] theorem needJob_rings (cls : Nat) (work : KcuWork) (p : Option PolderId) (s : State) : (needJob cls work p s).rings = s.rings :=
  needJob_parts _ _ _ s .rings rfl

@[simp] theorem needJob_coll (cls : Nat) (work : KcuWork) (p : Option PolderId) (s : State) : (needJob cls work p s).coll = s.coll :=
  needJob_parts _ _ _ s .coll rfl

@[simp] theorem needJob_bars (cls : Nat) (work : KcuWork) (p : Option PolderId) (s : State) : (needJob cls work p s).bars = s.bars :=
  needJob_parts _ _ _ s .bars rfl

@[simp] theorem needJob_sca (cls : Nat) (work : KcuWork) (p : Option PolderId) (s : State) : (needJob cls work p s).sca = s.sca :=
  needJob_parts _ _ _ s .sca rfl

@[simp] theorem needJob_spdm (cls : Nat) (work : KcuWork) (p : Option PolderId) (s : State) : (needJob cls work p s).spdm = s.spdm :=
  needJob_parts _ _ _ s .spdm rfl

@[simp] theorem needJob_weirs (cls : Nat) (work : KcuWork) (p : Option PolderId) (s : State) : (needJob cls work p s).weirs = s.weirs :=
  needJob_parts _ _ _ s .weirs rfl

@[simp] theorem needJob_charts (cls : Nat) (work : KcuWork) (p : Option PolderId) (s : State) : (needJob cls work p s).charts = s.charts :=
  needJob_parts _ _ _ s .charts rfl

@[simp] theorem needJob_gauge (cls : Nat) (work : KcuWork) (p : Option PolderId) (s : State) : (needJob cls work p s).gauge = s.gauge :=
  needJob_parts _ _ _ s .gauge rfl

@[simp] theorem needJob_regs (cls : Nat) (work : KcuWork) (p : Option PolderId) (s : State) : (needJob cls work p s).regs = s.regs :=
  needJob_parts _ _ _ s .regs rfl

@[simp] theorem needJob_pool (cls : Nat) (work : KcuWork) (p : Option PolderId) (s : State) : (needJob cls work p s).pool = s.pool :=
  needJob_parts _ _ _ s .pool rfl

theorem drbgDraw_parts (n : Nat) (s : State) : s.agree [.out, .pins, .sb, .polders, .cad, .keys, .stack, .obj, .fns, .tracer, .power, .free] (drbgDraw n s) :=
  drbgDraw_frame _ s (agree_refl _ s) rfl

@[simp] theorem drbgDraw_pending (n : Nat) (s : State) : (drbgDraw n s).pending = s.pending :=
  drbgDraw_parts _ s .pending rfl

@[simp] theorem drbgDraw_time (n : Nat) (s : State) : (drbgDraw n s).time = s.time :=
  drbgDraw_parts _ s .time rfl

@[simp] theorem drbgDraw_chip (n : Nat) (s : State) : (drbgDraw n s).chip = s.chip :=
  drbgDraw_parts _ s .chip rfl

@[simp] theorem drbgDraw_owner (n : Nat) (s : State) : (drbgDraw n s).owner = s.owner :=
  drbgDraw_parts _ s .owner rfl

@[simp] theorem drbgDraw_boot (n : Nat) (s : State) : (drbgDraw n s).boot = s.boot :=
  drbgDraw_parts _ s .boot rfl

@[simp] theorem drbgDraw_fuses (n : Nat) (s : State) : (drbgDraw n s).fuses = s.fuses :=
  drbgDraw_parts _ s .fuses rfl

@[simp] theorem drbgDraw_flash (n : Nat) (s : State) : (drbgDraw n s).flash = s.flash :=
  drbgDraw_parts _ s .flash rfl

@[simp] theorem drbgDraw_lc (n : Nat) (s : State) : (drbgDraw n s).lc = s.lc :=
  drbgDraw_parts _ s .lc rfl

@[simp] theorem drbgDraw_datum (n : Nat) (s : State) : (drbgDraw n s).datum = s.datum :=
  drbgDraw_parts _ s .datum rfl

@[simp] theorem drbgDraw_link (n : Nat) (s : State) : (drbgDraw n s).link = s.link :=
  drbgDraw_parts _ s .link rfl

@[simp] theorem drbgDraw_tray (n : Nat) (s : State) : (drbgDraw n s).tray = s.tray :=
  drbgDraw_parts _ s .tray rfl

@[simp] theorem drbgDraw_fau (n : Nat) (s : State) : (drbgDraw n s).fau = s.fau :=
  drbgDraw_parts _ s .fau rfl

@[simp] theorem drbgDraw_rings (n : Nat) (s : State) : (drbgDraw n s).rings = s.rings :=
  drbgDraw_parts _ s .rings rfl

@[simp] theorem drbgDraw_coll (n : Nat) (s : State) : (drbgDraw n s).coll = s.coll :=
  drbgDraw_parts _ s .coll rfl

@[simp] theorem drbgDraw_bars (n : Nat) (s : State) : (drbgDraw n s).bars = s.bars :=
  drbgDraw_parts _ s .bars rfl

@[simp] theorem drbgDraw_sca (n : Nat) (s : State) : (drbgDraw n s).sca = s.sca :=
  drbgDraw_parts _ s .sca rfl

@[simp] theorem drbgDraw_spdm (n : Nat) (s : State) : (drbgDraw n s).spdm = s.spdm :=
  drbgDraw_parts _ s .spdm rfl

@[simp] theorem drbgDraw_weirs (n : Nat) (s : State) : (drbgDraw n s).weirs = s.weirs :=
  drbgDraw_parts _ s .weirs rfl

@[simp] theorem drbgDraw_charts (n : Nat) (s : State) : (drbgDraw n s).charts = s.charts :=
  drbgDraw_parts _ s .charts rfl

@[simp] theorem drbgDraw_gauge (n : Nat) (s : State) : (drbgDraw n s).gauge = s.gauge :=
  drbgDraw_parts _ s .gauge rfl

@[simp] theorem drbgDraw_regs (n : Nat) (s : State) : (drbgDraw n s).regs = s.regs :=
  drbgDraw_parts _ s .regs rfl

@[simp] theorem drbgDraw_pool (n : Nat) (s : State) : (drbgDraw n s).pool = s.pool :=
  drbgDraw_parts _ s .pool rfl

theorem traceInline_parts (j : InlineJob) (p : Option PolderId) (s : State) : s.agree [.keys, .tracer, .power, .free] (traceInline j p s) :=
  traceInline_frame _ _ s (agree_refl _ s) rfl

@[simp] theorem traceInline_pending (j : InlineJob) (p : Option PolderId) (s : State) : (traceInline j p s).pending = s.pending :=
  traceInline_parts _ _ s .pending rfl

@[simp] theorem traceInline_out (j : InlineJob) (p : Option PolderId) (s : State) : (traceInline j p s).out = s.out :=
  traceInline_parts _ _ s .out rfl

@[simp] theorem traceInline_time (j : InlineJob) (p : Option PolderId) (s : State) : (traceInline j p s).time = s.time :=
  traceInline_parts _ _ s .time rfl

@[simp] theorem traceInline_chip (j : InlineJob) (p : Option PolderId) (s : State) : (traceInline j p s).chip = s.chip :=
  traceInline_parts _ _ s .chip rfl

@[simp] theorem traceInline_owner (j : InlineJob) (p : Option PolderId) (s : State) : (traceInline j p s).owner = s.owner :=
  traceInline_parts _ _ s .owner rfl

@[simp] theorem traceInline_pins (j : InlineJob) (p : Option PolderId) (s : State) : (traceInline j p s).pins = s.pins :=
  traceInline_parts _ _ s .pins rfl

@[simp] theorem traceInline_boot (j : InlineJob) (p : Option PolderId) (s : State) : (traceInline j p s).boot = s.boot :=
  traceInline_parts _ _ s .boot rfl

@[simp] theorem traceInline_fuses (j : InlineJob) (p : Option PolderId) (s : State) : (traceInline j p s).fuses = s.fuses :=
  traceInline_parts _ _ s .fuses rfl

@[simp] theorem traceInline_flash (j : InlineJob) (p : Option PolderId) (s : State) : (traceInline j p s).flash = s.flash :=
  traceInline_parts _ _ s .flash rfl

@[simp] theorem traceInline_lc (j : InlineJob) (p : Option PolderId) (s : State) : (traceInline j p s).lc = s.lc :=
  traceInline_parts _ _ s .lc rfl

@[simp] theorem traceInline_sb (j : InlineJob) (p : Option PolderId) (s : State) : (traceInline j p s).sb = s.sb :=
  traceInline_parts _ _ s .sb rfl

@[simp] theorem traceInline_datum (j : InlineJob) (p : Option PolderId) (s : State) : (traceInline j p s).datum = s.datum :=
  traceInline_parts _ _ s .datum rfl

@[simp] theorem traceInline_polders (j : InlineJob) (p : Option PolderId) (s : State) : (traceInline j p s).polders = s.polders :=
  traceInline_parts _ _ s .polders rfl

@[simp] theorem traceInline_cad (j : InlineJob) (p : Option PolderId) (s : State) : (traceInline j p s).cad = s.cad :=
  traceInline_parts _ _ s .cad rfl

@[simp] theorem traceInline_link (j : InlineJob) (p : Option PolderId) (s : State) : (traceInline j p s).link = s.link :=
  traceInline_parts _ _ s .link rfl

@[simp] theorem traceInline_stack (j : InlineJob) (p : Option PolderId) (s : State) : (traceInline j p s).stack = s.stack :=
  traceInline_parts _ _ s .stack rfl

@[simp] theorem traceInline_tray (j : InlineJob) (p : Option PolderId) (s : State) : (traceInline j p s).tray = s.tray :=
  traceInline_parts _ _ s .tray rfl

@[simp] theorem traceInline_fau (j : InlineJob) (p : Option PolderId) (s : State) : (traceInline j p s).fau = s.fau :=
  traceInline_parts _ _ s .fau rfl

@[simp] theorem traceInline_rings (j : InlineJob) (p : Option PolderId) (s : State) : (traceInline j p s).rings = s.rings :=
  traceInline_parts _ _ s .rings rfl

@[simp] theorem traceInline_coll (j : InlineJob) (p : Option PolderId) (s : State) : (traceInline j p s).coll = s.coll :=
  traceInline_parts _ _ s .coll rfl

@[simp] theorem traceInline_bars (j : InlineJob) (p : Option PolderId) (s : State) : (traceInline j p s).bars = s.bars :=
  traceInline_parts _ _ s .bars rfl

@[simp] theorem traceInline_sca (j : InlineJob) (p : Option PolderId) (s : State) : (traceInline j p s).sca = s.sca :=
  traceInline_parts _ _ s .sca rfl

@[simp] theorem traceInline_obj (j : InlineJob) (p : Option PolderId) (s : State) : (traceInline j p s).obj = s.obj :=
  traceInline_parts _ _ s .obj rfl

@[simp] theorem traceInline_fns (j : InlineJob) (p : Option PolderId) (s : State) : (traceInline j p s).fns = s.fns :=
  traceInline_parts _ _ s .fns rfl

@[simp] theorem traceInline_spdm (j : InlineJob) (p : Option PolderId) (s : State) : (traceInline j p s).spdm = s.spdm :=
  traceInline_parts _ _ s .spdm rfl

@[simp] theorem traceInline_weirs (j : InlineJob) (p : Option PolderId) (s : State) : (traceInline j p s).weirs = s.weirs :=
  traceInline_parts _ _ s .weirs rfl

@[simp] theorem traceInline_charts (j : InlineJob) (p : Option PolderId) (s : State) : (traceInline j p s).charts = s.charts :=
  traceInline_parts _ _ s .charts rfl

@[simp] theorem traceInline_gauge (j : InlineJob) (p : Option PolderId) (s : State) : (traceInline j p s).gauge = s.gauge :=
  traceInline_parts _ _ s .gauge rfl

@[simp] theorem traceInline_regs (j : InlineJob) (p : Option PolderId) (s : State) : (traceInline j p s).regs = s.regs :=
  traceInline_parts _ _ s .regs rfl

@[simp] theorem traceInline_pool (j : InlineJob) (p : Option PolderId) (s : State) : (traceInline j p s).pool = s.pool :=
  traceInline_parts _ _ s .pool rfl

theorem retryLoads_parts (s : State) : s.agree [.out, .pins, .sb, .polders, .cad, .keys, .stack, .obj, .fns, .tracer, .power, .free] (retryLoads s) :=
  retryLoads_frame s (agree_refl _ s) rfl

@[simp] theorem retryLoads_pending (s : State) : (retryLoads s).pending = s.pending :=
  retryLoads_parts s .pending rfl

@[simp] theorem retryLoads_time (s : State) : (retryLoads s).time = s.time :=
  retryLoads_parts s .time rfl

@[simp] theorem retryLoads_chip (s : State) : (retryLoads s).chip = s.chip :=
  retryLoads_parts s .chip rfl

@[simp] theorem retryLoads_owner (s : State) : (retryLoads s).owner = s.owner :=
  retryLoads_parts s .owner rfl

@[simp] theorem retryLoads_boot (s : State) : (retryLoads s).boot = s.boot :=
  retryLoads_parts s .boot rfl

@[simp] theorem retryLoads_fuses (s : State) : (retryLoads s).fuses = s.fuses :=
  retryLoads_parts s .fuses rfl

@[simp] theorem retryLoads_flash (s : State) : (retryLoads s).flash = s.flash :=
  retryLoads_parts s .flash rfl

@[simp] theorem retryLoads_lc (s : State) : (retryLoads s).lc = s.lc :=
  retryLoads_parts s .lc rfl

@[simp] theorem retryLoads_datum (s : State) : (retryLoads s).datum = s.datum :=
  retryLoads_parts s .datum rfl

@[simp] theorem retryLoads_link (s : State) : (retryLoads s).link = s.link :=
  retryLoads_parts s .link rfl

@[simp] theorem retryLoads_tray (s : State) : (retryLoads s).tray = s.tray :=
  retryLoads_parts s .tray rfl

@[simp] theorem retryLoads_fau (s : State) : (retryLoads s).fau = s.fau :=
  retryLoads_parts s .fau rfl

@[simp] theorem retryLoads_rings (s : State) : (retryLoads s).rings = s.rings :=
  retryLoads_parts s .rings rfl

@[simp] theorem retryLoads_coll (s : State) : (retryLoads s).coll = s.coll :=
  retryLoads_parts s .coll rfl

@[simp] theorem retryLoads_bars (s : State) : (retryLoads s).bars = s.bars :=
  retryLoads_parts s .bars rfl

@[simp] theorem retryLoads_sca (s : State) : (retryLoads s).sca = s.sca :=
  retryLoads_parts s .sca rfl

@[simp] theorem retryLoads_spdm (s : State) : (retryLoads s).spdm = s.spdm :=
  retryLoads_parts s .spdm rfl

@[simp] theorem retryLoads_weirs (s : State) : (retryLoads s).weirs = s.weirs :=
  retryLoads_parts s .weirs rfl

@[simp] theorem retryLoads_charts (s : State) : (retryLoads s).charts = s.charts :=
  retryLoads_parts s .charts rfl

@[simp] theorem retryLoads_gauge (s : State) : (retryLoads s).gauge = s.gauge :=
  retryLoads_parts s .gauge rfl

@[simp] theorem retryLoads_regs (s : State) : (retryLoads s).regs = s.regs :=
  retryLoads_parts s .regs rfl

@[simp] theorem retryLoads_pool (s : State) : (retryLoads s).pool = s.pool :=
  retryLoads_parts s .pool rfl

theorem inlineJobs_parts (p : Option PolderId) (l : List InlineJob) (s : State) : s.agree [.out, .sb, .polders, .keys, .obj, .fns, .tracer, .power, .free] (inlineJobs p l s).2 :=
  inlineJobs_frame _ _ s (agree_refl _ s) rfl

@[simp] theorem inlineJobs_pending (p : Option PolderId) (l : List InlineJob) (s : State) : (inlineJobs p l s).2.pending = s.pending :=
  inlineJobs_parts _ _ s .pending rfl

@[simp] theorem inlineJobs_time (p : Option PolderId) (l : List InlineJob) (s : State) : (inlineJobs p l s).2.time = s.time :=
  inlineJobs_parts _ _ s .time rfl

@[simp] theorem inlineJobs_chip (p : Option PolderId) (l : List InlineJob) (s : State) : (inlineJobs p l s).2.chip = s.chip :=
  inlineJobs_parts _ _ s .chip rfl

@[simp] theorem inlineJobs_owner (p : Option PolderId) (l : List InlineJob) (s : State) : (inlineJobs p l s).2.owner = s.owner :=
  inlineJobs_parts _ _ s .owner rfl

@[simp] theorem inlineJobs_pins (p : Option PolderId) (l : List InlineJob) (s : State) : (inlineJobs p l s).2.pins = s.pins :=
  inlineJobs_parts _ _ s .pins rfl

@[simp] theorem inlineJobs_boot (p : Option PolderId) (l : List InlineJob) (s : State) : (inlineJobs p l s).2.boot = s.boot :=
  inlineJobs_parts _ _ s .boot rfl

@[simp] theorem inlineJobs_fuses (p : Option PolderId) (l : List InlineJob) (s : State) : (inlineJobs p l s).2.fuses = s.fuses :=
  inlineJobs_parts _ _ s .fuses rfl

@[simp] theorem inlineJobs_flash (p : Option PolderId) (l : List InlineJob) (s : State) : (inlineJobs p l s).2.flash = s.flash :=
  inlineJobs_parts _ _ s .flash rfl

@[simp] theorem inlineJobs_lc (p : Option PolderId) (l : List InlineJob) (s : State) : (inlineJobs p l s).2.lc = s.lc :=
  inlineJobs_parts _ _ s .lc rfl

@[simp] theorem inlineJobs_datum (p : Option PolderId) (l : List InlineJob) (s : State) : (inlineJobs p l s).2.datum = s.datum :=
  inlineJobs_parts _ _ s .datum rfl

@[simp] theorem inlineJobs_cad (p : Option PolderId) (l : List InlineJob) (s : State) : (inlineJobs p l s).2.cad = s.cad :=
  inlineJobs_parts _ _ s .cad rfl

@[simp] theorem inlineJobs_link (p : Option PolderId) (l : List InlineJob) (s : State) : (inlineJobs p l s).2.link = s.link :=
  inlineJobs_parts _ _ s .link rfl

@[simp] theorem inlineJobs_stack (p : Option PolderId) (l : List InlineJob) (s : State) : (inlineJobs p l s).2.stack = s.stack :=
  inlineJobs_parts _ _ s .stack rfl

@[simp] theorem inlineJobs_tray (p : Option PolderId) (l : List InlineJob) (s : State) : (inlineJobs p l s).2.tray = s.tray :=
  inlineJobs_parts _ _ s .tray rfl

@[simp] theorem inlineJobs_fau (p : Option PolderId) (l : List InlineJob) (s : State) : (inlineJobs p l s).2.fau = s.fau :=
  inlineJobs_parts _ _ s .fau rfl

@[simp] theorem inlineJobs_rings (p : Option PolderId) (l : List InlineJob) (s : State) : (inlineJobs p l s).2.rings = s.rings :=
  inlineJobs_parts _ _ s .rings rfl

@[simp] theorem inlineJobs_coll (p : Option PolderId) (l : List InlineJob) (s : State) : (inlineJobs p l s).2.coll = s.coll :=
  inlineJobs_parts _ _ s .coll rfl

@[simp] theorem inlineJobs_bars (p : Option PolderId) (l : List InlineJob) (s : State) : (inlineJobs p l s).2.bars = s.bars :=
  inlineJobs_parts _ _ s .bars rfl

@[simp] theorem inlineJobs_sca (p : Option PolderId) (l : List InlineJob) (s : State) : (inlineJobs p l s).2.sca = s.sca :=
  inlineJobs_parts _ _ s .sca rfl

@[simp] theorem inlineJobs_spdm (p : Option PolderId) (l : List InlineJob) (s : State) : (inlineJobs p l s).2.spdm = s.spdm :=
  inlineJobs_parts _ _ s .spdm rfl

@[simp] theorem inlineJobs_weirs (p : Option PolderId) (l : List InlineJob) (s : State) : (inlineJobs p l s).2.weirs = s.weirs :=
  inlineJobs_parts _ _ s .weirs rfl

@[simp] theorem inlineJobs_charts (p : Option PolderId) (l : List InlineJob) (s : State) : (inlineJobs p l s).2.charts = s.charts :=
  inlineJobs_parts _ _ s .charts rfl

@[simp] theorem inlineJobs_gauge (p : Option PolderId) (l : List InlineJob) (s : State) : (inlineJobs p l s).2.gauge = s.gauge :=
  inlineJobs_parts _ _ s .gauge rfl

@[simp] theorem inlineJobs_regs (p : Option PolderId) (l : List InlineJob) (s : State) : (inlineJobs p l s).2.regs = s.regs :=
  inlineJobs_parts _ _ s .regs rfl

@[simp] theorem inlineJobs_pool (p : Option PolderId) (l : List InlineJob) (s : State) : (inlineJobs p l s).2.pool = s.pool :=
  inlineJobs_parts _ _ s .pool rfl

theorem dispatchJobs_parts (s : State) : s.agree [.out, .pins, .sb, .polders, .cad, .keys, .stack, .obj, .fns, .tracer, .power, .free] (dispatchJobs s) :=
  dispatchJobs_frame s (agree_refl _ s) rfl

@[simp] theorem dispatchJobs_pending (s : State) : (dispatchJobs s).pending = s.pending :=
  dispatchJobs_parts s .pending rfl

@[simp] theorem dispatchJobs_time (s : State) : (dispatchJobs s).time = s.time :=
  dispatchJobs_parts s .time rfl

@[simp] theorem dispatchJobs_chip (s : State) : (dispatchJobs s).chip = s.chip :=
  dispatchJobs_parts s .chip rfl

@[simp] theorem dispatchJobs_owner (s : State) : (dispatchJobs s).owner = s.owner :=
  dispatchJobs_parts s .owner rfl

@[simp] theorem dispatchJobs_boot (s : State) : (dispatchJobs s).boot = s.boot :=
  dispatchJobs_parts s .boot rfl

@[simp] theorem dispatchJobs_fuses (s : State) : (dispatchJobs s).fuses = s.fuses :=
  dispatchJobs_parts s .fuses rfl

@[simp] theorem dispatchJobs_flash (s : State) : (dispatchJobs s).flash = s.flash :=
  dispatchJobs_parts s .flash rfl

@[simp] theorem dispatchJobs_lc (s : State) : (dispatchJobs s).lc = s.lc :=
  dispatchJobs_parts s .lc rfl

@[simp] theorem dispatchJobs_datum (s : State) : (dispatchJobs s).datum = s.datum :=
  dispatchJobs_parts s .datum rfl

@[simp] theorem dispatchJobs_link (s : State) : (dispatchJobs s).link = s.link :=
  dispatchJobs_parts s .link rfl

@[simp] theorem dispatchJobs_tray (s : State) : (dispatchJobs s).tray = s.tray :=
  dispatchJobs_parts s .tray rfl

@[simp] theorem dispatchJobs_fau (s : State) : (dispatchJobs s).fau = s.fau :=
  dispatchJobs_parts s .fau rfl

@[simp] theorem dispatchJobs_rings (s : State) : (dispatchJobs s).rings = s.rings :=
  dispatchJobs_parts s .rings rfl

@[simp] theorem dispatchJobs_coll (s : State) : (dispatchJobs s).coll = s.coll :=
  dispatchJobs_parts s .coll rfl

@[simp] theorem dispatchJobs_bars (s : State) : (dispatchJobs s).bars = s.bars :=
  dispatchJobs_parts s .bars rfl

@[simp] theorem dispatchJobs_sca (s : State) : (dispatchJobs s).sca = s.sca :=
  dispatchJobs_parts s .sca rfl

@[simp] theorem dispatchJobs_spdm (s : State) : (dispatchJobs s).spdm = s.spdm :=
  dispatchJobs_parts s .spdm rfl

@[simp] theorem dispatchJobs_weirs (s : State) : (dispatchJobs s).weirs = s.weirs :=
  dispatchJobs_parts s .weirs rfl

@[simp] theorem dispatchJobs_charts (s : State) : (dispatchJobs s).charts = s.charts :=
  dispatchJobs_parts s .charts rfl

@[simp] theorem dispatchJobs_gauge (s : State) : (dispatchJobs s).gauge = s.gauge :=
  dispatchJobs_parts s .gauge rfl

@[simp] theorem dispatchJobs_regs (s : State) : (dispatchJobs s).regs = s.regs :=
  dispatchJobs_parts s .regs rfl

@[simp] theorem dispatchJobs_pool (s : State) : (dispatchJobs s).pool = s.pool :=
  dispatchJobs_parts s .pool rfl

theorem deriveDeviceKeys_parts (s : State) : s.agree [.out, .pins, .boot, .sb, .polders, .cad, .keys, .stack, .obj, .fns, .tracer, .power, .free] (deriveDeviceKeys s) :=
  deriveDeviceKeys_frame s (agree_refl _ s) rfl

@[simp] theorem deriveDeviceKeys_pending (s : State) : (deriveDeviceKeys s).pending = s.pending :=
  deriveDeviceKeys_parts s .pending rfl

@[simp] theorem deriveDeviceKeys_time (s : State) : (deriveDeviceKeys s).time = s.time :=
  deriveDeviceKeys_parts s .time rfl

@[simp] theorem deriveDeviceKeys_chip (s : State) : (deriveDeviceKeys s).chip = s.chip :=
  deriveDeviceKeys_parts s .chip rfl

@[simp] theorem deriveDeviceKeys_owner (s : State) : (deriveDeviceKeys s).owner = s.owner :=
  deriveDeviceKeys_parts s .owner rfl

@[simp] theorem deriveDeviceKeys_fuses (s : State) : (deriveDeviceKeys s).fuses = s.fuses :=
  deriveDeviceKeys_parts s .fuses rfl

@[simp] theorem deriveDeviceKeys_flash (s : State) : (deriveDeviceKeys s).flash = s.flash :=
  deriveDeviceKeys_parts s .flash rfl

@[simp] theorem deriveDeviceKeys_lc (s : State) : (deriveDeviceKeys s).lc = s.lc :=
  deriveDeviceKeys_parts s .lc rfl

@[simp] theorem deriveDeviceKeys_datum (s : State) : (deriveDeviceKeys s).datum = s.datum :=
  deriveDeviceKeys_parts s .datum rfl

@[simp] theorem deriveDeviceKeys_link (s : State) : (deriveDeviceKeys s).link = s.link :=
  deriveDeviceKeys_parts s .link rfl

@[simp] theorem deriveDeviceKeys_tray (s : State) : (deriveDeviceKeys s).tray = s.tray :=
  deriveDeviceKeys_parts s .tray rfl

@[simp] theorem deriveDeviceKeys_fau (s : State) : (deriveDeviceKeys s).fau = s.fau :=
  deriveDeviceKeys_parts s .fau rfl

@[simp] theorem deriveDeviceKeys_rings (s : State) : (deriveDeviceKeys s).rings = s.rings :=
  deriveDeviceKeys_parts s .rings rfl

@[simp] theorem deriveDeviceKeys_coll (s : State) : (deriveDeviceKeys s).coll = s.coll :=
  deriveDeviceKeys_parts s .coll rfl

@[simp] theorem deriveDeviceKeys_bars (s : State) : (deriveDeviceKeys s).bars = s.bars :=
  deriveDeviceKeys_parts s .bars rfl

@[simp] theorem deriveDeviceKeys_sca (s : State) : (deriveDeviceKeys s).sca = s.sca :=
  deriveDeviceKeys_parts s .sca rfl

@[simp] theorem deriveDeviceKeys_spdm (s : State) : (deriveDeviceKeys s).spdm = s.spdm :=
  deriveDeviceKeys_parts s .spdm rfl

@[simp] theorem deriveDeviceKeys_weirs (s : State) : (deriveDeviceKeys s).weirs = s.weirs :=
  deriveDeviceKeys_parts s .weirs rfl

@[simp] theorem deriveDeviceKeys_charts (s : State) : (deriveDeviceKeys s).charts = s.charts :=
  deriveDeviceKeys_parts s .charts rfl

@[simp] theorem deriveDeviceKeys_gauge (s : State) : (deriveDeviceKeys s).gauge = s.gauge :=
  deriveDeviceKeys_parts s .gauge rfl

@[simp] theorem deriveDeviceKeys_regs (s : State) : (deriveDeviceKeys s).regs = s.regs :=
  deriveDeviceKeys_parts s .regs rfl

@[simp] theorem deriveDeviceKeys_pool (s : State) : (deriveDeviceKeys s).pool = s.pool :=
  deriveDeviceKeys_parts s .pool rfl

theorem writeSurvey_parts (l : List SurveyEntry) (s : State) : s.agree [.boot] (writeSurvey l s) :=
  writeSurvey_frame _ s (agree_refl _ s) rfl

@[simp] theorem writeSurvey_pending (l : List SurveyEntry) (s : State) : (writeSurvey l s).pending = s.pending :=
  writeSurvey_parts _ s .pending rfl

@[simp] theorem writeSurvey_out (l : List SurveyEntry) (s : State) : (writeSurvey l s).out = s.out :=
  writeSurvey_parts _ s .out rfl

@[simp] theorem writeSurvey_time (l : List SurveyEntry) (s : State) : (writeSurvey l s).time = s.time :=
  writeSurvey_parts _ s .time rfl

@[simp] theorem writeSurvey_chip (l : List SurveyEntry) (s : State) : (writeSurvey l s).chip = s.chip :=
  writeSurvey_parts _ s .chip rfl

@[simp] theorem writeSurvey_owner (l : List SurveyEntry) (s : State) : (writeSurvey l s).owner = s.owner :=
  writeSurvey_parts _ s .owner rfl

@[simp] theorem writeSurvey_pins (l : List SurveyEntry) (s : State) : (writeSurvey l s).pins = s.pins :=
  writeSurvey_parts _ s .pins rfl

@[simp] theorem writeSurvey_fuses (l : List SurveyEntry) (s : State) : (writeSurvey l s).fuses = s.fuses :=
  writeSurvey_parts _ s .fuses rfl

@[simp] theorem writeSurvey_flash (l : List SurveyEntry) (s : State) : (writeSurvey l s).flash = s.flash :=
  writeSurvey_parts _ s .flash rfl

@[simp] theorem writeSurvey_lc (l : List SurveyEntry) (s : State) : (writeSurvey l s).lc = s.lc :=
  writeSurvey_parts _ s .lc rfl

@[simp] theorem writeSurvey_sb (l : List SurveyEntry) (s : State) : (writeSurvey l s).sb = s.sb :=
  writeSurvey_parts _ s .sb rfl

@[simp] theorem writeSurvey_datum (l : List SurveyEntry) (s : State) : (writeSurvey l s).datum = s.datum :=
  writeSurvey_parts _ s .datum rfl

@[simp] theorem writeSurvey_polders (l : List SurveyEntry) (s : State) : (writeSurvey l s).polders = s.polders :=
  writeSurvey_parts _ s .polders rfl

@[simp] theorem writeSurvey_cad (l : List SurveyEntry) (s : State) : (writeSurvey l s).cad = s.cad :=
  writeSurvey_parts _ s .cad rfl

@[simp] theorem writeSurvey_keys (l : List SurveyEntry) (s : State) : (writeSurvey l s).keys = s.keys :=
  writeSurvey_parts _ s .keys rfl

@[simp] theorem writeSurvey_link (l : List SurveyEntry) (s : State) : (writeSurvey l s).link = s.link :=
  writeSurvey_parts _ s .link rfl

@[simp] theorem writeSurvey_stack (l : List SurveyEntry) (s : State) : (writeSurvey l s).stack = s.stack :=
  writeSurvey_parts _ s .stack rfl

@[simp] theorem writeSurvey_tray (l : List SurveyEntry) (s : State) : (writeSurvey l s).tray = s.tray :=
  writeSurvey_parts _ s .tray rfl

@[simp] theorem writeSurvey_fau (l : List SurveyEntry) (s : State) : (writeSurvey l s).fau = s.fau :=
  writeSurvey_parts _ s .fau rfl

@[simp] theorem writeSurvey_rings (l : List SurveyEntry) (s : State) : (writeSurvey l s).rings = s.rings :=
  writeSurvey_parts _ s .rings rfl

@[simp] theorem writeSurvey_coll (l : List SurveyEntry) (s : State) : (writeSurvey l s).coll = s.coll :=
  writeSurvey_parts _ s .coll rfl

@[simp] theorem writeSurvey_bars (l : List SurveyEntry) (s : State) : (writeSurvey l s).bars = s.bars :=
  writeSurvey_parts _ s .bars rfl

@[simp] theorem writeSurvey_sca (l : List SurveyEntry) (s : State) : (writeSurvey l s).sca = s.sca :=
  writeSurvey_parts _ s .sca rfl

@[simp] theorem writeSurvey_obj (l : List SurveyEntry) (s : State) : (writeSurvey l s).obj = s.obj :=
  writeSurvey_parts _ s .obj rfl

@[simp] theorem writeSurvey_fns (l : List SurveyEntry) (s : State) : (writeSurvey l s).fns = s.fns :=
  writeSurvey_parts _ s .fns rfl

@[simp] theorem writeSurvey_spdm (l : List SurveyEntry) (s : State) : (writeSurvey l s).spdm = s.spdm :=
  writeSurvey_parts _ s .spdm rfl

@[simp] theorem writeSurvey_weirs (l : List SurveyEntry) (s : State) : (writeSurvey l s).weirs = s.weirs :=
  writeSurvey_parts _ s .weirs rfl

@[simp] theorem writeSurvey_charts (l : List SurveyEntry) (s : State) : (writeSurvey l s).charts = s.charts :=
  writeSurvey_parts _ s .charts rfl

@[simp] theorem writeSurvey_tracer (l : List SurveyEntry) (s : State) : (writeSurvey l s).tracer = s.tracer :=
  writeSurvey_parts _ s .tracer rfl

@[simp] theorem writeSurvey_gauge (l : List SurveyEntry) (s : State) : (writeSurvey l s).gauge = s.gauge :=
  writeSurvey_parts _ s .gauge rfl

@[simp] theorem writeSurvey_power (l : List SurveyEntry) (s : State) : (writeSurvey l s).power = s.power :=
  writeSurvey_parts _ s .power rfl

@[simp] theorem writeSurvey_regs (l : List SurveyEntry) (s : State) : (writeSurvey l s).regs = s.regs :=
  writeSurvey_parts _ s .regs rfl

@[simp] theorem writeSurvey_pool (l : List SurveyEntry) (s : State) : (writeSurvey l s).pool = s.pool :=
  writeSurvey_parts _ s .pool rfl

@[simp] theorem writeSurvey_free (l : List SurveyEntry) (s : State) : (writeSurvey l s).free = s.free :=
  writeSurvey_parts _ s .free rfl

theorem markPool_parts (s : State) : s.agree [.stack] (markPool s) :=
  markPool_frame s (agree_refl _ s) rfl

@[simp] theorem markPool_pending (s : State) : (markPool s).pending = s.pending :=
  markPool_parts s .pending rfl

@[simp] theorem markPool_out (s : State) : (markPool s).out = s.out :=
  markPool_parts s .out rfl

@[simp] theorem markPool_time (s : State) : (markPool s).time = s.time :=
  markPool_parts s .time rfl

@[simp] theorem markPool_chip (s : State) : (markPool s).chip = s.chip :=
  markPool_parts s .chip rfl

@[simp] theorem markPool_owner (s : State) : (markPool s).owner = s.owner :=
  markPool_parts s .owner rfl

@[simp] theorem markPool_pins (s : State) : (markPool s).pins = s.pins :=
  markPool_parts s .pins rfl

@[simp] theorem markPool_boot (s : State) : (markPool s).boot = s.boot :=
  markPool_parts s .boot rfl

@[simp] theorem markPool_fuses (s : State) : (markPool s).fuses = s.fuses :=
  markPool_parts s .fuses rfl

@[simp] theorem markPool_flash (s : State) : (markPool s).flash = s.flash :=
  markPool_parts s .flash rfl

@[simp] theorem markPool_lc (s : State) : (markPool s).lc = s.lc :=
  markPool_parts s .lc rfl

@[simp] theorem markPool_sb (s : State) : (markPool s).sb = s.sb :=
  markPool_parts s .sb rfl

@[simp] theorem markPool_datum (s : State) : (markPool s).datum = s.datum :=
  markPool_parts s .datum rfl

@[simp] theorem markPool_polders (s : State) : (markPool s).polders = s.polders :=
  markPool_parts s .polders rfl

@[simp] theorem markPool_cad (s : State) : (markPool s).cad = s.cad :=
  markPool_parts s .cad rfl

@[simp] theorem markPool_keys (s : State) : (markPool s).keys = s.keys :=
  markPool_parts s .keys rfl

@[simp] theorem markPool_link (s : State) : (markPool s).link = s.link :=
  markPool_parts s .link rfl

@[simp] theorem markPool_tray (s : State) : (markPool s).tray = s.tray :=
  markPool_parts s .tray rfl

@[simp] theorem markPool_fau (s : State) : (markPool s).fau = s.fau :=
  markPool_parts s .fau rfl

@[simp] theorem markPool_rings (s : State) : (markPool s).rings = s.rings :=
  markPool_parts s .rings rfl

@[simp] theorem markPool_coll (s : State) : (markPool s).coll = s.coll :=
  markPool_parts s .coll rfl

@[simp] theorem markPool_bars (s : State) : (markPool s).bars = s.bars :=
  markPool_parts s .bars rfl

@[simp] theorem markPool_sca (s : State) : (markPool s).sca = s.sca :=
  markPool_parts s .sca rfl

@[simp] theorem markPool_obj (s : State) : (markPool s).obj = s.obj :=
  markPool_parts s .obj rfl

@[simp] theorem markPool_fns (s : State) : (markPool s).fns = s.fns :=
  markPool_parts s .fns rfl

@[simp] theorem markPool_spdm (s : State) : (markPool s).spdm = s.spdm :=
  markPool_parts s .spdm rfl

@[simp] theorem markPool_weirs (s : State) : (markPool s).weirs = s.weirs :=
  markPool_parts s .weirs rfl

@[simp] theorem markPool_charts (s : State) : (markPool s).charts = s.charts :=
  markPool_parts s .charts rfl

@[simp] theorem markPool_tracer (s : State) : (markPool s).tracer = s.tracer :=
  markPool_parts s .tracer rfl

@[simp] theorem markPool_gauge (s : State) : (markPool s).gauge = s.gauge :=
  markPool_parts s .gauge rfl

@[simp] theorem markPool_power (s : State) : (markPool s).power = s.power :=
  markPool_parts s .power rfl

@[simp] theorem markPool_regs (s : State) : (markPool s).regs = s.regs :=
  markPool_parts s .regs rfl

@[simp] theorem markPool_pool (s : State) : (markPool s).pool = s.pool :=
  markPool_parts s .pool rfl

@[simp] theorem markPool_free (s : State) : (markPool s).free = s.free :=
  markPool_parts s .free rfl

theorem poolTake_parts (u : PoolUser) (n : Nat) (s : State) : s.agree [.pool] (poolTake u n s) :=
  poolTake_frame _ _ s (agree_refl _ s) rfl

@[simp] theorem poolTake_pending (u : PoolUser) (n : Nat) (s : State) : (poolTake u n s).pending = s.pending :=
  poolTake_parts _ _ s .pending rfl

@[simp] theorem poolTake_out (u : PoolUser) (n : Nat) (s : State) : (poolTake u n s).out = s.out :=
  poolTake_parts _ _ s .out rfl

@[simp] theorem poolTake_time (u : PoolUser) (n : Nat) (s : State) : (poolTake u n s).time = s.time :=
  poolTake_parts _ _ s .time rfl

@[simp] theorem poolTake_chip (u : PoolUser) (n : Nat) (s : State) : (poolTake u n s).chip = s.chip :=
  poolTake_parts _ _ s .chip rfl

@[simp] theorem poolTake_owner (u : PoolUser) (n : Nat) (s : State) : (poolTake u n s).owner = s.owner :=
  poolTake_parts _ _ s .owner rfl

@[simp] theorem poolTake_pins (u : PoolUser) (n : Nat) (s : State) : (poolTake u n s).pins = s.pins :=
  poolTake_parts _ _ s .pins rfl

@[simp] theorem poolTake_boot (u : PoolUser) (n : Nat) (s : State) : (poolTake u n s).boot = s.boot :=
  poolTake_parts _ _ s .boot rfl

@[simp] theorem poolTake_fuses (u : PoolUser) (n : Nat) (s : State) : (poolTake u n s).fuses = s.fuses :=
  poolTake_parts _ _ s .fuses rfl

@[simp] theorem poolTake_flash (u : PoolUser) (n : Nat) (s : State) : (poolTake u n s).flash = s.flash :=
  poolTake_parts _ _ s .flash rfl

@[simp] theorem poolTake_lc (u : PoolUser) (n : Nat) (s : State) : (poolTake u n s).lc = s.lc :=
  poolTake_parts _ _ s .lc rfl

@[simp] theorem poolTake_sb (u : PoolUser) (n : Nat) (s : State) : (poolTake u n s).sb = s.sb :=
  poolTake_parts _ _ s .sb rfl

@[simp] theorem poolTake_datum (u : PoolUser) (n : Nat) (s : State) : (poolTake u n s).datum = s.datum :=
  poolTake_parts _ _ s .datum rfl

@[simp] theorem poolTake_polders (u : PoolUser) (n : Nat) (s : State) : (poolTake u n s).polders = s.polders :=
  poolTake_parts _ _ s .polders rfl

@[simp] theorem poolTake_cad (u : PoolUser) (n : Nat) (s : State) : (poolTake u n s).cad = s.cad :=
  poolTake_parts _ _ s .cad rfl

@[simp] theorem poolTake_keys (u : PoolUser) (n : Nat) (s : State) : (poolTake u n s).keys = s.keys :=
  poolTake_parts _ _ s .keys rfl

@[simp] theorem poolTake_link (u : PoolUser) (n : Nat) (s : State) : (poolTake u n s).link = s.link :=
  poolTake_parts _ _ s .link rfl

@[simp] theorem poolTake_stack (u : PoolUser) (n : Nat) (s : State) : (poolTake u n s).stack = s.stack :=
  poolTake_parts _ _ s .stack rfl

@[simp] theorem poolTake_tray (u : PoolUser) (n : Nat) (s : State) : (poolTake u n s).tray = s.tray :=
  poolTake_parts _ _ s .tray rfl

@[simp] theorem poolTake_fau (u : PoolUser) (n : Nat) (s : State) : (poolTake u n s).fau = s.fau :=
  poolTake_parts _ _ s .fau rfl

@[simp] theorem poolTake_rings (u : PoolUser) (n : Nat) (s : State) : (poolTake u n s).rings = s.rings :=
  poolTake_parts _ _ s .rings rfl

@[simp] theorem poolTake_coll (u : PoolUser) (n : Nat) (s : State) : (poolTake u n s).coll = s.coll :=
  poolTake_parts _ _ s .coll rfl

@[simp] theorem poolTake_bars (u : PoolUser) (n : Nat) (s : State) : (poolTake u n s).bars = s.bars :=
  poolTake_parts _ _ s .bars rfl

@[simp] theorem poolTake_sca (u : PoolUser) (n : Nat) (s : State) : (poolTake u n s).sca = s.sca :=
  poolTake_parts _ _ s .sca rfl

@[simp] theorem poolTake_obj (u : PoolUser) (n : Nat) (s : State) : (poolTake u n s).obj = s.obj :=
  poolTake_parts _ _ s .obj rfl

@[simp] theorem poolTake_fns (u : PoolUser) (n : Nat) (s : State) : (poolTake u n s).fns = s.fns :=
  poolTake_parts _ _ s .fns rfl

@[simp] theorem poolTake_spdm (u : PoolUser) (n : Nat) (s : State) : (poolTake u n s).spdm = s.spdm :=
  poolTake_parts _ _ s .spdm rfl

@[simp] theorem poolTake_weirs (u : PoolUser) (n : Nat) (s : State) : (poolTake u n s).weirs = s.weirs :=
  poolTake_parts _ _ s .weirs rfl

@[simp] theorem poolTake_charts (u : PoolUser) (n : Nat) (s : State) : (poolTake u n s).charts = s.charts :=
  poolTake_parts _ _ s .charts rfl

@[simp] theorem poolTake_tracer (u : PoolUser) (n : Nat) (s : State) : (poolTake u n s).tracer = s.tracer :=
  poolTake_parts _ _ s .tracer rfl

@[simp] theorem poolTake_gauge (u : PoolUser) (n : Nat) (s : State) : (poolTake u n s).gauge = s.gauge :=
  poolTake_parts _ _ s .gauge rfl

@[simp] theorem poolTake_power (u : PoolUser) (n : Nat) (s : State) : (poolTake u n s).power = s.power :=
  poolTake_parts _ _ s .power rfl

@[simp] theorem poolTake_regs (u : PoolUser) (n : Nat) (s : State) : (poolTake u n s).regs = s.regs :=
  poolTake_parts _ _ s .regs rfl

@[simp] theorem poolTake_free (u : PoolUser) (n : Nat) (s : State) : (poolTake u n s).free = s.free :=
  poolTake_parts _ _ s .free rfl

theorem poolGive_parts (u : PoolUser) (s : State) : s.agree [.pool] (poolGive u s) :=
  poolGive_frame _ s (agree_refl _ s) rfl

@[simp] theorem poolGive_pending (u : PoolUser) (s : State) : (poolGive u s).pending = s.pending :=
  poolGive_parts _ s .pending rfl

@[simp] theorem poolGive_out (u : PoolUser) (s : State) : (poolGive u s).out = s.out :=
  poolGive_parts _ s .out rfl

@[simp] theorem poolGive_time (u : PoolUser) (s : State) : (poolGive u s).time = s.time :=
  poolGive_parts _ s .time rfl

@[simp] theorem poolGive_chip (u : PoolUser) (s : State) : (poolGive u s).chip = s.chip :=
  poolGive_parts _ s .chip rfl

@[simp] theorem poolGive_owner (u : PoolUser) (s : State) : (poolGive u s).owner = s.owner :=
  poolGive_parts _ s .owner rfl

@[simp] theorem poolGive_pins (u : PoolUser) (s : State) : (poolGive u s).pins = s.pins :=
  poolGive_parts _ s .pins rfl

@[simp] theorem poolGive_boot (u : PoolUser) (s : State) : (poolGive u s).boot = s.boot :=
  poolGive_parts _ s .boot rfl

@[simp] theorem poolGive_fuses (u : PoolUser) (s : State) : (poolGive u s).fuses = s.fuses :=
  poolGive_parts _ s .fuses rfl

@[simp] theorem poolGive_flash (u : PoolUser) (s : State) : (poolGive u s).flash = s.flash :=
  poolGive_parts _ s .flash rfl

@[simp] theorem poolGive_lc (u : PoolUser) (s : State) : (poolGive u s).lc = s.lc :=
  poolGive_parts _ s .lc rfl

@[simp] theorem poolGive_sb (u : PoolUser) (s : State) : (poolGive u s).sb = s.sb :=
  poolGive_parts _ s .sb rfl

@[simp] theorem poolGive_datum (u : PoolUser) (s : State) : (poolGive u s).datum = s.datum :=
  poolGive_parts _ s .datum rfl

@[simp] theorem poolGive_polders (u : PoolUser) (s : State) : (poolGive u s).polders = s.polders :=
  poolGive_parts _ s .polders rfl

@[simp] theorem poolGive_cad (u : PoolUser) (s : State) : (poolGive u s).cad = s.cad :=
  poolGive_parts _ s .cad rfl

@[simp] theorem poolGive_keys (u : PoolUser) (s : State) : (poolGive u s).keys = s.keys :=
  poolGive_parts _ s .keys rfl

@[simp] theorem poolGive_link (u : PoolUser) (s : State) : (poolGive u s).link = s.link :=
  poolGive_parts _ s .link rfl

@[simp] theorem poolGive_stack (u : PoolUser) (s : State) : (poolGive u s).stack = s.stack :=
  poolGive_parts _ s .stack rfl

@[simp] theorem poolGive_tray (u : PoolUser) (s : State) : (poolGive u s).tray = s.tray :=
  poolGive_parts _ s .tray rfl

@[simp] theorem poolGive_fau (u : PoolUser) (s : State) : (poolGive u s).fau = s.fau :=
  poolGive_parts _ s .fau rfl

@[simp] theorem poolGive_rings (u : PoolUser) (s : State) : (poolGive u s).rings = s.rings :=
  poolGive_parts _ s .rings rfl

@[simp] theorem poolGive_coll (u : PoolUser) (s : State) : (poolGive u s).coll = s.coll :=
  poolGive_parts _ s .coll rfl

@[simp] theorem poolGive_bars (u : PoolUser) (s : State) : (poolGive u s).bars = s.bars :=
  poolGive_parts _ s .bars rfl

@[simp] theorem poolGive_sca (u : PoolUser) (s : State) : (poolGive u s).sca = s.sca :=
  poolGive_parts _ s .sca rfl

@[simp] theorem poolGive_obj (u : PoolUser) (s : State) : (poolGive u s).obj = s.obj :=
  poolGive_parts _ s .obj rfl

@[simp] theorem poolGive_fns (u : PoolUser) (s : State) : (poolGive u s).fns = s.fns :=
  poolGive_parts _ s .fns rfl

@[simp] theorem poolGive_spdm (u : PoolUser) (s : State) : (poolGive u s).spdm = s.spdm :=
  poolGive_parts _ s .spdm rfl

@[simp] theorem poolGive_weirs (u : PoolUser) (s : State) : (poolGive u s).weirs = s.weirs :=
  poolGive_parts _ s .weirs rfl

@[simp] theorem poolGive_charts (u : PoolUser) (s : State) : (poolGive u s).charts = s.charts :=
  poolGive_parts _ s .charts rfl

@[simp] theorem poolGive_tracer (u : PoolUser) (s : State) : (poolGive u s).tracer = s.tracer :=
  poolGive_parts _ s .tracer rfl

@[simp] theorem poolGive_gauge (u : PoolUser) (s : State) : (poolGive u s).gauge = s.gauge :=
  poolGive_parts _ s .gauge rfl

@[simp] theorem poolGive_power (u : PoolUser) (s : State) : (poolGive u s).power = s.power :=
  poolGive_parts _ s .power rfl

@[simp] theorem poolGive_regs (u : PoolUser) (s : State) : (poolGive u s).regs = s.regs :=
  poolGive_parts _ s .regs rfl

@[simp] theorem poolGive_free (u : PoolUser) (s : State) : (poolGive u s).free = s.free :=
  poolGive_parts _ s .free rfl

theorem bootDerivations_parts (from_ : DeviceKey) (fixed : List (String × Nat × Nat)) (s : State) : s.agree [.out, .sb, .polders, .keys, .obj, .fns, .tracer, .power, .free] (bootDerivations from_ fixed s) :=
  bootDerivations_frame _ _ s (agree_refl _ s) rfl

@[simp] theorem bootDerivations_pending (from_ : DeviceKey) (fixed : List (String × Nat × Nat)) (s : State) : (bootDerivations from_ fixed s).pending = s.pending :=
  bootDerivations_parts _ _ s .pending rfl

@[simp] theorem bootDerivations_time (from_ : DeviceKey) (fixed : List (String × Nat × Nat)) (s : State) : (bootDerivations from_ fixed s).time = s.time :=
  bootDerivations_parts _ _ s .time rfl

@[simp] theorem bootDerivations_chip (from_ : DeviceKey) (fixed : List (String × Nat × Nat)) (s : State) : (bootDerivations from_ fixed s).chip = s.chip :=
  bootDerivations_parts _ _ s .chip rfl

@[simp] theorem bootDerivations_owner (from_ : DeviceKey) (fixed : List (String × Nat × Nat)) (s : State) : (bootDerivations from_ fixed s).owner = s.owner :=
  bootDerivations_parts _ _ s .owner rfl

@[simp] theorem bootDerivations_pins (from_ : DeviceKey) (fixed : List (String × Nat × Nat)) (s : State) : (bootDerivations from_ fixed s).pins = s.pins :=
  bootDerivations_parts _ _ s .pins rfl

@[simp] theorem bootDerivations_boot (from_ : DeviceKey) (fixed : List (String × Nat × Nat)) (s : State) : (bootDerivations from_ fixed s).boot = s.boot :=
  bootDerivations_parts _ _ s .boot rfl

@[simp] theorem bootDerivations_fuses (from_ : DeviceKey) (fixed : List (String × Nat × Nat)) (s : State) : (bootDerivations from_ fixed s).fuses = s.fuses :=
  bootDerivations_parts _ _ s .fuses rfl

@[simp] theorem bootDerivations_flash (from_ : DeviceKey) (fixed : List (String × Nat × Nat)) (s : State) : (bootDerivations from_ fixed s).flash = s.flash :=
  bootDerivations_parts _ _ s .flash rfl

@[simp] theorem bootDerivations_lc (from_ : DeviceKey) (fixed : List (String × Nat × Nat)) (s : State) : (bootDerivations from_ fixed s).lc = s.lc :=
  bootDerivations_parts _ _ s .lc rfl

@[simp] theorem bootDerivations_datum (from_ : DeviceKey) (fixed : List (String × Nat × Nat)) (s : State) : (bootDerivations from_ fixed s).datum = s.datum :=
  bootDerivations_parts _ _ s .datum rfl

@[simp] theorem bootDerivations_cad (from_ : DeviceKey) (fixed : List (String × Nat × Nat)) (s : State) : (bootDerivations from_ fixed s).cad = s.cad :=
  bootDerivations_parts _ _ s .cad rfl

@[simp] theorem bootDerivations_link (from_ : DeviceKey) (fixed : List (String × Nat × Nat)) (s : State) : (bootDerivations from_ fixed s).link = s.link :=
  bootDerivations_parts _ _ s .link rfl

@[simp] theorem bootDerivations_stack (from_ : DeviceKey) (fixed : List (String × Nat × Nat)) (s : State) : (bootDerivations from_ fixed s).stack = s.stack :=
  bootDerivations_parts _ _ s .stack rfl

@[simp] theorem bootDerivations_tray (from_ : DeviceKey) (fixed : List (String × Nat × Nat)) (s : State) : (bootDerivations from_ fixed s).tray = s.tray :=
  bootDerivations_parts _ _ s .tray rfl

@[simp] theorem bootDerivations_fau (from_ : DeviceKey) (fixed : List (String × Nat × Nat)) (s : State) : (bootDerivations from_ fixed s).fau = s.fau :=
  bootDerivations_parts _ _ s .fau rfl

@[simp] theorem bootDerivations_rings (from_ : DeviceKey) (fixed : List (String × Nat × Nat)) (s : State) : (bootDerivations from_ fixed s).rings = s.rings :=
  bootDerivations_parts _ _ s .rings rfl

@[simp] theorem bootDerivations_coll (from_ : DeviceKey) (fixed : List (String × Nat × Nat)) (s : State) : (bootDerivations from_ fixed s).coll = s.coll :=
  bootDerivations_parts _ _ s .coll rfl

@[simp] theorem bootDerivations_bars (from_ : DeviceKey) (fixed : List (String × Nat × Nat)) (s : State) : (bootDerivations from_ fixed s).bars = s.bars :=
  bootDerivations_parts _ _ s .bars rfl

@[simp] theorem bootDerivations_sca (from_ : DeviceKey) (fixed : List (String × Nat × Nat)) (s : State) : (bootDerivations from_ fixed s).sca = s.sca :=
  bootDerivations_parts _ _ s .sca rfl

@[simp] theorem bootDerivations_spdm (from_ : DeviceKey) (fixed : List (String × Nat × Nat)) (s : State) : (bootDerivations from_ fixed s).spdm = s.spdm :=
  bootDerivations_parts _ _ s .spdm rfl

@[simp] theorem bootDerivations_weirs (from_ : DeviceKey) (fixed : List (String × Nat × Nat)) (s : State) : (bootDerivations from_ fixed s).weirs = s.weirs :=
  bootDerivations_parts _ _ s .weirs rfl

@[simp] theorem bootDerivations_charts (from_ : DeviceKey) (fixed : List (String × Nat × Nat)) (s : State) : (bootDerivations from_ fixed s).charts = s.charts :=
  bootDerivations_parts _ _ s .charts rfl

@[simp] theorem bootDerivations_gauge (from_ : DeviceKey) (fixed : List (String × Nat × Nat)) (s : State) : (bootDerivations from_ fixed s).gauge = s.gauge :=
  bootDerivations_parts _ _ s .gauge rfl

@[simp] theorem bootDerivations_regs (from_ : DeviceKey) (fixed : List (String × Nat × Nat)) (s : State) : (bootDerivations from_ fixed s).regs = s.regs :=
  bootDerivations_parts _ _ s .regs rfl

@[simp] theorem bootDerivations_pool (from_ : DeviceKey) (fixed : List (String × Nat × Nat)) (s : State) : (bootDerivations from_ fixed s).pool = s.pool :=
  bootDerivations_parts _ _ s .pool rfl

theorem leaveService_parts (s : State) : s.agree [.out, .pins, .sb, .datum, .polders, .cad, .keys, .link, .stack, .tray, .fau, .rings, .coll, .bars, .sca, .obj, .fns, .charts, .tracer, .gauge, .power, .pool, .free] (leaveService s) :=
  leaveService_frame s (agree_refl _ s) rfl

@[simp] theorem leaveService_pending (s : State) : (leaveService s).pending = s.pending :=
  leaveService_parts s .pending rfl

@[simp] theorem leaveService_time (s : State) : (leaveService s).time = s.time :=
  leaveService_parts s .time rfl

@[simp] theorem leaveService_chip (s : State) : (leaveService s).chip = s.chip :=
  leaveService_parts s .chip rfl

@[simp] theorem leaveService_owner (s : State) : (leaveService s).owner = s.owner :=
  leaveService_parts s .owner rfl

@[simp] theorem leaveService_boot (s : State) : (leaveService s).boot = s.boot :=
  leaveService_parts s .boot rfl

@[simp] theorem leaveService_fuses (s : State) : (leaveService s).fuses = s.fuses :=
  leaveService_parts s .fuses rfl

@[simp] theorem leaveService_flash (s : State) : (leaveService s).flash = s.flash :=
  leaveService_parts s .flash rfl

@[simp] theorem leaveService_lc (s : State) : (leaveService s).lc = s.lc :=
  leaveService_parts s .lc rfl

@[simp] theorem leaveService_spdm (s : State) : (leaveService s).spdm = s.spdm :=
  leaveService_parts s .spdm rfl

@[simp] theorem leaveService_weirs (s : State) : (leaveService s).weirs = s.weirs :=
  leaveService_parts s .weirs rfl

@[simp] theorem leaveService_regs (s : State) : (leaveService s).regs = s.regs :=
  leaveService_parts s .regs rfl

theorem beginTeardown_parts (p : PolderId) (forced : Bool) (waiters : List (Origin × BitVec 32)) (s : State) : s.agree [.out, .pins, .sb, .datum, .polders, .cad, .keys, .link, .stack, .tray, .fau, .rings, .coll, .bars, .sca, .obj, .fns, .charts, .tracer, .gauge, .power, .pool, .free] (beginTeardown p forced waiters s) :=
  beginTeardown_frame _ _ _ s (agree_refl _ s) rfl

@[simp] theorem beginTeardown_pending (p : PolderId) (forced : Bool) (waiters : List (Origin × BitVec 32)) (s : State) : (beginTeardown p forced waiters s).pending = s.pending :=
  beginTeardown_parts _ _ _ s .pending rfl

@[simp] theorem beginTeardown_time (p : PolderId) (forced : Bool) (waiters : List (Origin × BitVec 32)) (s : State) : (beginTeardown p forced waiters s).time = s.time :=
  beginTeardown_parts _ _ _ s .time rfl

@[simp] theorem beginTeardown_chip (p : PolderId) (forced : Bool) (waiters : List (Origin × BitVec 32)) (s : State) : (beginTeardown p forced waiters s).chip = s.chip :=
  beginTeardown_parts _ _ _ s .chip rfl

@[simp] theorem beginTeardown_owner (p : PolderId) (forced : Bool) (waiters : List (Origin × BitVec 32)) (s : State) : (beginTeardown p forced waiters s).owner = s.owner :=
  beginTeardown_parts _ _ _ s .owner rfl

@[simp] theorem beginTeardown_boot (p : PolderId) (forced : Bool) (waiters : List (Origin × BitVec 32)) (s : State) : (beginTeardown p forced waiters s).boot = s.boot :=
  beginTeardown_parts _ _ _ s .boot rfl

@[simp] theorem beginTeardown_fuses (p : PolderId) (forced : Bool) (waiters : List (Origin × BitVec 32)) (s : State) : (beginTeardown p forced waiters s).fuses = s.fuses :=
  beginTeardown_parts _ _ _ s .fuses rfl

@[simp] theorem beginTeardown_flash (p : PolderId) (forced : Bool) (waiters : List (Origin × BitVec 32)) (s : State) : (beginTeardown p forced waiters s).flash = s.flash :=
  beginTeardown_parts _ _ _ s .flash rfl

@[simp] theorem beginTeardown_lc (p : PolderId) (forced : Bool) (waiters : List (Origin × BitVec 32)) (s : State) : (beginTeardown p forced waiters s).lc = s.lc :=
  beginTeardown_parts _ _ _ s .lc rfl

@[simp] theorem beginTeardown_spdm (p : PolderId) (forced : Bool) (waiters : List (Origin × BitVec 32)) (s : State) : (beginTeardown p forced waiters s).spdm = s.spdm :=
  beginTeardown_parts _ _ _ s .spdm rfl

@[simp] theorem beginTeardown_weirs (p : PolderId) (forced : Bool) (waiters : List (Origin × BitVec 32)) (s : State) : (beginTeardown p forced waiters s).weirs = s.weirs :=
  beginTeardown_parts _ _ _ s .weirs rfl

@[simp] theorem beginTeardown_regs (p : PolderId) (forced : Bool) (waiters : List (Origin × BitVec 32)) (s : State) : (beginTeardown p forced waiters s).regs = s.regs :=
  beginTeardown_parts _ _ _ s .regs rfl

theorem mirrorBoot_parts (s : State) : s.agree [.out, .obj, .fns, .tracer] (mirrorBoot s) :=
  mirrorBoot_frame s (agree_refl _ s) rfl

@[simp] theorem mirrorBoot_pending (s : State) : (mirrorBoot s).pending = s.pending :=
  mirrorBoot_parts s .pending rfl

@[simp] theorem mirrorBoot_time (s : State) : (mirrorBoot s).time = s.time :=
  mirrorBoot_parts s .time rfl

@[simp] theorem mirrorBoot_chip (s : State) : (mirrorBoot s).chip = s.chip :=
  mirrorBoot_parts s .chip rfl

@[simp] theorem mirrorBoot_owner (s : State) : (mirrorBoot s).owner = s.owner :=
  mirrorBoot_parts s .owner rfl

@[simp] theorem mirrorBoot_pins (s : State) : (mirrorBoot s).pins = s.pins :=
  mirrorBoot_parts s .pins rfl

@[simp] theorem mirrorBoot_boot (s : State) : (mirrorBoot s).boot = s.boot :=
  mirrorBoot_parts s .boot rfl

@[simp] theorem mirrorBoot_fuses (s : State) : (mirrorBoot s).fuses = s.fuses :=
  mirrorBoot_parts s .fuses rfl

@[simp] theorem mirrorBoot_flash (s : State) : (mirrorBoot s).flash = s.flash :=
  mirrorBoot_parts s .flash rfl

@[simp] theorem mirrorBoot_lc (s : State) : (mirrorBoot s).lc = s.lc :=
  mirrorBoot_parts s .lc rfl

@[simp] theorem mirrorBoot_sb (s : State) : (mirrorBoot s).sb = s.sb :=
  mirrorBoot_parts s .sb rfl

@[simp] theorem mirrorBoot_datum (s : State) : (mirrorBoot s).datum = s.datum :=
  mirrorBoot_parts s .datum rfl

@[simp] theorem mirrorBoot_polders (s : State) : (mirrorBoot s).polders = s.polders :=
  mirrorBoot_parts s .polders rfl

@[simp] theorem mirrorBoot_cad (s : State) : (mirrorBoot s).cad = s.cad :=
  mirrorBoot_parts s .cad rfl

@[simp] theorem mirrorBoot_keys (s : State) : (mirrorBoot s).keys = s.keys :=
  mirrorBoot_parts s .keys rfl

@[simp] theorem mirrorBoot_link (s : State) : (mirrorBoot s).link = s.link :=
  mirrorBoot_parts s .link rfl

@[simp] theorem mirrorBoot_stack (s : State) : (mirrorBoot s).stack = s.stack :=
  mirrorBoot_parts s .stack rfl

@[simp] theorem mirrorBoot_tray (s : State) : (mirrorBoot s).tray = s.tray :=
  mirrorBoot_parts s .tray rfl

@[simp] theorem mirrorBoot_fau (s : State) : (mirrorBoot s).fau = s.fau :=
  mirrorBoot_parts s .fau rfl

@[simp] theorem mirrorBoot_rings (s : State) : (mirrorBoot s).rings = s.rings :=
  mirrorBoot_parts s .rings rfl

@[simp] theorem mirrorBoot_coll (s : State) : (mirrorBoot s).coll = s.coll :=
  mirrorBoot_parts s .coll rfl

@[simp] theorem mirrorBoot_bars (s : State) : (mirrorBoot s).bars = s.bars :=
  mirrorBoot_parts s .bars rfl

@[simp] theorem mirrorBoot_sca (s : State) : (mirrorBoot s).sca = s.sca :=
  mirrorBoot_parts s .sca rfl

@[simp] theorem mirrorBoot_spdm (s : State) : (mirrorBoot s).spdm = s.spdm :=
  mirrorBoot_parts s .spdm rfl

@[simp] theorem mirrorBoot_weirs (s : State) : (mirrorBoot s).weirs = s.weirs :=
  mirrorBoot_parts s .weirs rfl

@[simp] theorem mirrorBoot_charts (s : State) : (mirrorBoot s).charts = s.charts :=
  mirrorBoot_parts s .charts rfl

@[simp] theorem mirrorBoot_gauge (s : State) : (mirrorBoot s).gauge = s.gauge :=
  mirrorBoot_parts s .gauge rfl

@[simp] theorem mirrorBoot_power (s : State) : (mirrorBoot s).power = s.power :=
  mirrorBoot_parts s .power rfl

@[simp] theorem mirrorBoot_regs (s : State) : (mirrorBoot s).regs = s.regs :=
  mirrorBoot_parts s .regs rfl

@[simp] theorem mirrorBoot_pool (s : State) : (mirrorBoot s).pool = s.pool :=
  mirrorBoot_parts s .pool rfl

@[simp] theorem mirrorBoot_free (s : State) : (mirrorBoot s).free = s.free :=
  mirrorBoot_parts s .free rfl

theorem markWork_parts (d : DomainId) (s : State) : s.agree [.power] (markWork d s) :=
  markWork_frame _ s (agree_refl _ s) rfl

@[simp] theorem markWork_pending (d : DomainId) (s : State) : (markWork d s).pending = s.pending :=
  markWork_parts _ s .pending rfl

@[simp] theorem markWork_out (d : DomainId) (s : State) : (markWork d s).out = s.out :=
  markWork_parts _ s .out rfl

@[simp] theorem markWork_time (d : DomainId) (s : State) : (markWork d s).time = s.time :=
  markWork_parts _ s .time rfl

@[simp] theorem markWork_chip (d : DomainId) (s : State) : (markWork d s).chip = s.chip :=
  markWork_parts _ s .chip rfl

@[simp] theorem markWork_owner (d : DomainId) (s : State) : (markWork d s).owner = s.owner :=
  markWork_parts _ s .owner rfl

@[simp] theorem markWork_pins (d : DomainId) (s : State) : (markWork d s).pins = s.pins :=
  markWork_parts _ s .pins rfl

@[simp] theorem markWork_boot (d : DomainId) (s : State) : (markWork d s).boot = s.boot :=
  markWork_parts _ s .boot rfl

@[simp] theorem markWork_fuses (d : DomainId) (s : State) : (markWork d s).fuses = s.fuses :=
  markWork_parts _ s .fuses rfl

@[simp] theorem markWork_flash (d : DomainId) (s : State) : (markWork d s).flash = s.flash :=
  markWork_parts _ s .flash rfl

@[simp] theorem markWork_lc (d : DomainId) (s : State) : (markWork d s).lc = s.lc :=
  markWork_parts _ s .lc rfl

@[simp] theorem markWork_sb (d : DomainId) (s : State) : (markWork d s).sb = s.sb :=
  markWork_parts _ s .sb rfl

@[simp] theorem markWork_datum (d : DomainId) (s : State) : (markWork d s).datum = s.datum :=
  markWork_parts _ s .datum rfl

@[simp] theorem markWork_polders (d : DomainId) (s : State) : (markWork d s).polders = s.polders :=
  markWork_parts _ s .polders rfl

@[simp] theorem markWork_cad (d : DomainId) (s : State) : (markWork d s).cad = s.cad :=
  markWork_parts _ s .cad rfl

@[simp] theorem markWork_keys (d : DomainId) (s : State) : (markWork d s).keys = s.keys :=
  markWork_parts _ s .keys rfl

@[simp] theorem markWork_link (d : DomainId) (s : State) : (markWork d s).link = s.link :=
  markWork_parts _ s .link rfl

@[simp] theorem markWork_stack (d : DomainId) (s : State) : (markWork d s).stack = s.stack :=
  markWork_parts _ s .stack rfl

@[simp] theorem markWork_tray (d : DomainId) (s : State) : (markWork d s).tray = s.tray :=
  markWork_parts _ s .tray rfl

@[simp] theorem markWork_fau (d : DomainId) (s : State) : (markWork d s).fau = s.fau :=
  markWork_parts _ s .fau rfl

@[simp] theorem markWork_rings (d : DomainId) (s : State) : (markWork d s).rings = s.rings :=
  markWork_parts _ s .rings rfl

@[simp] theorem markWork_coll (d : DomainId) (s : State) : (markWork d s).coll = s.coll :=
  markWork_parts _ s .coll rfl

@[simp] theorem markWork_bars (d : DomainId) (s : State) : (markWork d s).bars = s.bars :=
  markWork_parts _ s .bars rfl

@[simp] theorem markWork_sca (d : DomainId) (s : State) : (markWork d s).sca = s.sca :=
  markWork_parts _ s .sca rfl

@[simp] theorem markWork_obj (d : DomainId) (s : State) : (markWork d s).obj = s.obj :=
  markWork_parts _ s .obj rfl

@[simp] theorem markWork_fns (d : DomainId) (s : State) : (markWork d s).fns = s.fns :=
  markWork_parts _ s .fns rfl

@[simp] theorem markWork_spdm (d : DomainId) (s : State) : (markWork d s).spdm = s.spdm :=
  markWork_parts _ s .spdm rfl

@[simp] theorem markWork_weirs (d : DomainId) (s : State) : (markWork d s).weirs = s.weirs :=
  markWork_parts _ s .weirs rfl

@[simp] theorem markWork_charts (d : DomainId) (s : State) : (markWork d s).charts = s.charts :=
  markWork_parts _ s .charts rfl

@[simp] theorem markWork_tracer (d : DomainId) (s : State) : (markWork d s).tracer = s.tracer :=
  markWork_parts _ s .tracer rfl

@[simp] theorem markWork_gauge (d : DomainId) (s : State) : (markWork d s).gauge = s.gauge :=
  markWork_parts _ s .gauge rfl

@[simp] theorem markWork_regs (d : DomainId) (s : State) : (markWork d s).regs = s.regs :=
  markWork_parts _ s .regs rfl

@[simp] theorem markWork_pool (d : DomainId) (s : State) : (markWork d s).pool = s.pool :=
  markWork_parts _ s .pool rfl

@[simp] theorem markWork_free (d : DomainId) (s : State) : (markWork d s).free = s.free :=
  markWork_parts _ s .free rfl

theorem wakeDomain_parts (d : DomainId) (s : State) : s.agree [.pins, .tracer] (wakeDomain d s) :=
  wakeDomain_frame _ s (agree_refl _ s) rfl

@[simp] theorem wakeDomain_pending (d : DomainId) (s : State) : (wakeDomain d s).pending = s.pending :=
  wakeDomain_parts _ s .pending rfl

@[simp] theorem wakeDomain_out (d : DomainId) (s : State) : (wakeDomain d s).out = s.out :=
  wakeDomain_parts _ s .out rfl

@[simp] theorem wakeDomain_time (d : DomainId) (s : State) : (wakeDomain d s).time = s.time :=
  wakeDomain_parts _ s .time rfl

@[simp] theorem wakeDomain_chip (d : DomainId) (s : State) : (wakeDomain d s).chip = s.chip :=
  wakeDomain_parts _ s .chip rfl

@[simp] theorem wakeDomain_owner (d : DomainId) (s : State) : (wakeDomain d s).owner = s.owner :=
  wakeDomain_parts _ s .owner rfl

@[simp] theorem wakeDomain_boot (d : DomainId) (s : State) : (wakeDomain d s).boot = s.boot :=
  wakeDomain_parts _ s .boot rfl

@[simp] theorem wakeDomain_fuses (d : DomainId) (s : State) : (wakeDomain d s).fuses = s.fuses :=
  wakeDomain_parts _ s .fuses rfl

@[simp] theorem wakeDomain_flash (d : DomainId) (s : State) : (wakeDomain d s).flash = s.flash :=
  wakeDomain_parts _ s .flash rfl

@[simp] theorem wakeDomain_lc (d : DomainId) (s : State) : (wakeDomain d s).lc = s.lc :=
  wakeDomain_parts _ s .lc rfl

@[simp] theorem wakeDomain_sb (d : DomainId) (s : State) : (wakeDomain d s).sb = s.sb :=
  wakeDomain_parts _ s .sb rfl

@[simp] theorem wakeDomain_datum (d : DomainId) (s : State) : (wakeDomain d s).datum = s.datum :=
  wakeDomain_parts _ s .datum rfl

@[simp] theorem wakeDomain_polders (d : DomainId) (s : State) : (wakeDomain d s).polders = s.polders :=
  wakeDomain_parts _ s .polders rfl

@[simp] theorem wakeDomain_cad (d : DomainId) (s : State) : (wakeDomain d s).cad = s.cad :=
  wakeDomain_parts _ s .cad rfl

@[simp] theorem wakeDomain_keys (d : DomainId) (s : State) : (wakeDomain d s).keys = s.keys :=
  wakeDomain_parts _ s .keys rfl

@[simp] theorem wakeDomain_link (d : DomainId) (s : State) : (wakeDomain d s).link = s.link :=
  wakeDomain_parts _ s .link rfl

@[simp] theorem wakeDomain_stack (d : DomainId) (s : State) : (wakeDomain d s).stack = s.stack :=
  wakeDomain_parts _ s .stack rfl

@[simp] theorem wakeDomain_tray (d : DomainId) (s : State) : (wakeDomain d s).tray = s.tray :=
  wakeDomain_parts _ s .tray rfl

@[simp] theorem wakeDomain_fau (d : DomainId) (s : State) : (wakeDomain d s).fau = s.fau :=
  wakeDomain_parts _ s .fau rfl

@[simp] theorem wakeDomain_rings (d : DomainId) (s : State) : (wakeDomain d s).rings = s.rings :=
  wakeDomain_parts _ s .rings rfl

@[simp] theorem wakeDomain_coll (d : DomainId) (s : State) : (wakeDomain d s).coll = s.coll :=
  wakeDomain_parts _ s .coll rfl

@[simp] theorem wakeDomain_bars (d : DomainId) (s : State) : (wakeDomain d s).bars = s.bars :=
  wakeDomain_parts _ s .bars rfl

@[simp] theorem wakeDomain_sca (d : DomainId) (s : State) : (wakeDomain d s).sca = s.sca :=
  wakeDomain_parts _ s .sca rfl

@[simp] theorem wakeDomain_obj (d : DomainId) (s : State) : (wakeDomain d s).obj = s.obj :=
  wakeDomain_parts _ s .obj rfl

@[simp] theorem wakeDomain_fns (d : DomainId) (s : State) : (wakeDomain d s).fns = s.fns :=
  wakeDomain_parts _ s .fns rfl

@[simp] theorem wakeDomain_spdm (d : DomainId) (s : State) : (wakeDomain d s).spdm = s.spdm :=
  wakeDomain_parts _ s .spdm rfl

@[simp] theorem wakeDomain_weirs (d : DomainId) (s : State) : (wakeDomain d s).weirs = s.weirs :=
  wakeDomain_parts _ s .weirs rfl

@[simp] theorem wakeDomain_charts (d : DomainId) (s : State) : (wakeDomain d s).charts = s.charts :=
  wakeDomain_parts _ s .charts rfl

@[simp] theorem wakeDomain_gauge (d : DomainId) (s : State) : (wakeDomain d s).gauge = s.gauge :=
  wakeDomain_parts _ s .gauge rfl

@[simp] theorem wakeDomain_power (d : DomainId) (s : State) : (wakeDomain d s).power = s.power :=
  wakeDomain_parts _ s .power rfl

@[simp] theorem wakeDomain_regs (d : DomainId) (s : State) : (wakeDomain d s).regs = s.regs :=
  wakeDomain_parts _ s .regs rfl

@[simp] theorem wakeDomain_pool (d : DomainId) (s : State) : (wakeDomain d s).pool = s.pool :=
  wakeDomain_parts _ s .pool rfl

@[simp] theorem wakeDomain_free (d : DomainId) (s : State) : (wakeDomain d s).free = s.free :=
  wakeDomain_parts _ s .free rfl

theorem resume_parts (s : State) : s.agree [.out, .pins, .sb, .datum, .polders, .cad, .keys, .link, .stack, .tray, .fau, .rings, .coll, .bars, .sca, .obj, .fns, .charts, .tracer, .gauge, .power, .pool, .free] (resume s) :=
  resume_frame s (agree_refl _ s) rfl

@[simp] theorem resume_pending (s : State) : (resume s).pending = s.pending :=
  resume_parts s .pending rfl

@[simp] theorem resume_time (s : State) : (resume s).time = s.time :=
  resume_parts s .time rfl

@[simp] theorem resume_chip (s : State) : (resume s).chip = s.chip :=
  resume_parts s .chip rfl

@[simp] theorem resume_owner (s : State) : (resume s).owner = s.owner :=
  resume_parts s .owner rfl

@[simp] theorem resume_boot (s : State) : (resume s).boot = s.boot :=
  resume_parts s .boot rfl

@[simp] theorem resume_fuses (s : State) : (resume s).fuses = s.fuses :=
  resume_parts s .fuses rfl

@[simp] theorem resume_flash (s : State) : (resume s).flash = s.flash :=
  resume_parts s .flash rfl

@[simp] theorem resume_lc (s : State) : (resume s).lc = s.lc :=
  resume_parts s .lc rfl

@[simp] theorem resume_spdm (s : State) : (resume s).spdm = s.spdm :=
  resume_parts s .spdm rfl

@[simp] theorem resume_weirs (s : State) : (resume s).weirs = s.weirs :=
  resume_parts s .weirs rfl

@[simp] theorem resume_regs (s : State) : (resume s).regs = s.regs :=
  resume_parts s .regs rfl


end Sys2Proof.Machine
end

