-- ==== Sys2Proof/Laws/FramePlots.lean ====
section
/-! SUPPORT. Which parts of the state the operations of Machine/Plots.lean may change (State.agree). -/

namespace Sys2Proof.Machine

theorem assignPlot_frame {A : List Part} {s0 : State} (m : MemObj) (q : Polder) (plot : BitVec 16)
    (base : BitVec 24) (writable : Bool) (fill : Bool) (cls : BitVec 4) (s : State) (hs : s0.agree A s)
    (hw : partsIn [.stack, .obj] A = true) : s0.agree A (assignPlot m q plot base writable fill cls s) := by
  unfold assignPlot
  try dsimp only
  repeat' (first
      | with_reducible assumption | (with_reducible intro _) | with_reducible apply modMemobj_frame
      | with_reducible apply setPlot_frame | (with_reducible exact partsIn_trans (by decide) hw)
      | (with_reducible refine ite_frame ?_ ?_) | split | (with_reducible refine agree_stack ?_ ?_))

theorem plotAssignCmd_frame {A : List Part} {s0 : State} (bad : Bool) (o : Origin) (tag : BitVec 32)
    (memobj : BitVec 16) (plot : BitVec 16) (base : BitVec 24) (writable : Bool) (zeroFill : Bool)
    (fillClass : BitVec 4) (s : State) (hs : s0.agree A s)
    (hw : partsIn [.out, .pins, .sb, .polders, .cad, .keys, .stack, .fau, .obj, .fns, .spdm, .tracer, .power, .free] A = true) :
    s0.agree A (plotAssignCmd bad o tag memobj plot base writable zeroFill fillClass s) := by
  unfold plotAssignCmd
  try dsimp only
  repeat' (first
      | with_reducible assumption | (with_reducible intro _) | with_reducible apply assignPlot_frame
      | with_reducible apply pumpFills_frame | with_reducible apply reply_frame | with_reducible apply runCmd_frame
      | (with_reducible exact partsIn_trans (by decide) hw) | split)

theorem execPlotAssign_frame {A : List Part} {s0 : State} (o : Origin) (tag : BitVec 32) (memobj : BitVec 16)
    (plot : BitVec 16) (base : BitVec 24) (writable : Bool) (zeroFill : Bool) (fillClass : BitVec 4) (s : State)
    (hs : s0.agree A s)
    (hw : partsIn [.out, .pins, .sb, .polders, .cad, .keys, .stack, .fau, .obj, .fns, .spdm, .tracer, .power, .free] A = true) :
    FrameOut A s0 (execPlotAssign o tag memobj plot base writable zeroFill fillClass s) := by
  unfold execPlotAssign
  try dsimp only
  repeat' (first
      | with_reducible exact frameOut_fault | (with_reducible apply frameOut_next)
      | (with_reducible refine frameOut_ite ?_ ?_) | with_reducible assumption | (with_reducible intro _)
      | with_reducible apply plotAssignCmd_frame | (with_reducible exact partsIn_trans (by decide) hw)
      | (dsimp only))

theorem plotReleaseCmd_frame {A : List Part} {s0 : State} (bad : Bool) (o : Origin) (tag : BitVec 32)
    (plot : BitVec 16) (s : State) (hs : s0.agree A s)
    (hw : partsIn [.out, .pins, .sb, .datum, .polders, .cad, .keys, .link, .stack, .tray, .fau, .rings, .coll, .bars, .sca, .obj, .fns, .spdm, .charts, .tracer, .gauge, .power, .pool, .free] A = true) :
    s0.agree A (plotReleaseCmd bad o tag plot s) := by
  unfold plotReleaseCmd
  try dsimp only
  repeat' (first
      | with_reducible assumption | (with_reducible intro _) | with_reducible apply pend_frame
      | with_reducible apply resume_frame | with_reducible apply runCmd_frame
      | with_reducible apply startRelease_frame | (with_reducible exact partsIn_trans (by decide) hw) | split)

theorem execPlotRelease_frame {A : List Part} {s0 : State} (o : Origin) (tag : BitVec 32) (plot : BitVec 16)
    (s : State) (hs : s0.agree A s)
    (hw : partsIn [.out, .pins, .sb, .datum, .polders, .cad, .keys, .link, .stack, .tray, .fau, .rings, .coll, .bars, .sca, .obj, .fns, .spdm, .charts, .tracer, .gauge, .power, .pool, .free] A = true) :
    FrameOut A s0 (execPlotRelease o tag plot s) := by
  unfold execPlotRelease
  try dsimp only
  repeat' (first
      | with_reducible exact frameOut_fault | (with_reducible apply frameOut_next)
      | (with_reducible refine frameOut_ite ?_ ?_) | with_reducible assumption | (with_reducible intro _)
      | with_reducible apply plotReleaseCmd_frame | (with_reducible exact partsIn_trans (by decide) hw)
      | (dsimp only))

theorem plotQueryCmd_frame {A : List Part} {s0 : State} (bad : Bool) (o : Origin) (tag : BitVec 32)
    (plot : BitVec 16) (s : State) (hs : s0.agree A s)
    (hw : partsIn [.out, .sb, .polders, .keys, .obj, .fns, .spdm, .tracer, .power, .free] A = true) : s0.agree A
    (plotQueryCmd bad o tag plot s) := by
  unfold plotQueryCmd
  try dsimp only
  repeat' (first
      | with_reducible assumption | (with_reducible intro _) | with_reducible apply reply_frame
      | with_reducible apply runCmd_frame | (with_reducible exact partsIn_trans (by decide) hw) | split)

theorem execPlotQuery_frame {A : List Part} {s0 : State} (o : Origin) (tag : BitVec 32) (plot : BitVec 16)
    (s : State) (hs : s0.agree A s)
    (hw : partsIn [.out, .sb, .polders, .keys, .obj, .fns, .spdm, .tracer, .power, .free] A = true) : FrameOut A s0
    (execPlotQuery o tag plot s) := by
  unfold execPlotQuery
  try dsimp only
  repeat' (first
      | with_reducible exact frameOut_fault | (with_reducible apply frameOut_next)
      | (with_reducible refine frameOut_ite ?_ ?_) | with_reducible assumption | (with_reducible intro _)
      | with_reducible apply plotQueryCmd_frame | (with_reducible exact partsIn_trans (by decide) hw)
      | (dsimp only))

theorem fillRtt_frame {A : List Part} {s0 : State} (base : Nat) (plots : List (BitVec 16)) (s : State) (hs :
    s0.agree A s) (hw : partsIn [.fau] A = true) : s0.agree A (fillRtt base plots s) := by
  unfold fillRtt
  try dsimp only
  repeat' (first
      | with_reducible assumption | (with_reducible intro _) | (with_reducible exact partsIn_trans (by decide) hw)
      | (with_reducible refine agree_fau ?_ ?_))

theorem exportRegion_frame {A : List Part} {s0 : State} (m : MemObj) (q : Polder) (kind : BitVec 8)
    (perms : BitVec 8) (mcKey : BitVec 32) (length : BitVec 64) (first : BitVec 32) (core : BitVec 16)
    (base : BitVec 8) (count : BitVec 8) (plots : List (BitVec 16)) (s : State) (hs : s0.agree A s)
    (hw : partsIn [.out, .pins, .sb, .polders, .cad, .keys, .stack, .fau, .obj, .fns, .tracer, .power, .free] A = true) :
    s0.agree A (exportRegion m q kind perms mcKey length first core base count plots s).2 := by
  unfold exportRegion
  try dsimp only
  repeat' (first
      | with_reducible assumption | (with_reducible intro _) | with_reducible apply drbgDraw_frame
      | with_reducible apply fillRtt_frame | with_reducible apply modMemobj_frame
      | (with_reducible exact partsIn_trans (by decide) hw) | (with_reducible refine ite_frame ?_ ?_)
      | (with_reducible refine ite_pair_frame ?_ ?_) | (with_reducible refine ite_trip_frame ?_ ?_) | split
      | (with_reducible refine agree_fau ?_ ?_) | (dsimp only))

theorem regionExportCmd_frame {A : List Part} {s0 : State} (bad : Bool) (o : Origin) (tag : BitVec 32)
    (memobj : BitVec 16) (kind : BitVec 8) (perms : BitVec 8) (mcKey : BitVec 32) (length : BitVec 64)
    (firstOffset : BitVec 32) (core : BitVec 16) (base : BitVec 8) (count : BitVec 8) (plots : List (BitVec 16))
    (s : State) (hs : s0.agree A s)
    (hw : partsIn [.out, .pins, .sb, .polders, .cad, .keys, .stack, .fau, .obj, .fns, .spdm, .tracer, .power, .free] A = true) :
    s0.agree A (regionExportCmd bad o tag memobj kind perms mcKey length firstOffset core base count plots s) := by
  unfold regionExportCmd
  try dsimp only
  repeat' (first
      | with_reducible assumption | (with_reducible intro _) | with_reducible apply exportRegion_frame
      | with_reducible apply reply_frame | with_reducible apply runCmd_frame
      | (with_reducible exact partsIn_trans (by decide) hw) | (with_reducible refine ite_frame ?_ ?_)
      | (with_reducible refine ite_pair_frame ?_ ?_) | (with_reducible refine ite_trip_frame ?_ ?_) | split
      | (refine frame_of_pair (by with_reducible assumption) ?_)
      | (refine frame_of_trip (by with_reducible assumption) ?_) | (dsimp only))

theorem execRegionExport_frame {A : List Part} {s0 : State} (o : Origin) (tag : BitVec 32) (memobj : BitVec 16)
    (kind : BitVec 8) (perms : BitVec 8) (mcKey : BitVec 32) (length : BitVec 64) (firstOffset : BitVec 32)
    (core : BitVec 16) (base : BitVec 8) (count : BitVec 8) (plots : List (BitVec 16)) (s : State) (hs :
    s0.agree A s)
    (hw : partsIn [.out, .pins, .sb, .polders, .cad, .keys, .stack, .fau, .obj, .fns, .spdm, .tracer, .power, .free] A = true) :
    FrameOut A s0 (execRegionExport o tag memobj kind perms mcKey length firstOffset core base count plots s) := by
  unfold execRegionExport
  try dsimp only
  repeat' (first
      | with_reducible exact frameOut_fault | (with_reducible apply frameOut_next)
      | (with_reducible refine frameOut_ite ?_ ?_) | with_reducible assumption | (with_reducible intro _)
      | with_reducible apply regionExportCmd_frame | (with_reducible exact partsIn_trans (by decide) hw)
      | (dsimp only))

theorem regionWithdrawCmd_frame {A : List Part} {s0 : State} (bad : Bool) (o : Origin) (tag : BitVec 32)
    (key : BitVec 32) (s : State) (hs : s0.agree A s)
    (hw : partsIn [.out, .sb, .polders, .keys, .fau, .obj, .fns, .spdm, .tracer, .power, .free] A = true) :
    s0.agree A (regionWithdrawCmd bad o tag key s) := by
  unfold regionWithdrawCmd
  try dsimp only
  repeat' (first
      | with_reducible assumption | (with_reducible intro _) | with_reducible apply pend_frame
      | with_reducible apply runCmd_frame | (with_reducible exact partsIn_trans (by decide) hw)
      | (with_reducible refine agree_fau ?_ ?_))

theorem execRegionWithdraw_frame {A : List Part} {s0 : State} (o : Origin) (tag : BitVec 32) (key : BitVec 32)
    (s : State) (hs : s0.agree A s)
    (hw : partsIn [.out, .sb, .polders, .keys, .fau, .obj, .fns, .spdm, .tracer, .power, .free] A = true) :
    FrameOut A s0 (execRegionWithdraw o tag key s) := by
  unfold execRegionWithdraw
  try dsimp only
  repeat' (first
      | with_reducible exact frameOut_fault | (with_reducible apply frameOut_next)
      | (with_reducible refine frameOut_ite ?_ ?_) | with_reducible assumption | (with_reducible intro _)
      | with_reducible apply regionWithdrawCmd_frame | (with_reducible exact partsIn_trans (by decide) hw)
      | (dsimp only))

theorem regionQueryCmd_frame {A : List Part} {s0 : State} (bad : Bool) (o : Origin) (tag : BitVec 32)
    (index : BitVec 16) (s : State) (hs : s0.agree A s)
    (hw : partsIn [.out, .sb, .polders, .keys, .obj, .fns, .spdm, .tracer, .power, .free] A = true) : s0.agree A
    (regionQueryCmd bad o tag index s) := by
  unfold regionQueryCmd
  try dsimp only
  repeat' (first
      | with_reducible assumption | (with_reducible intro _) | with_reducible apply reply_frame
      | with_reducible apply runCmd_frame | (with_reducible exact partsIn_trans (by decide) hw) | split)

theorem execRegionQuery_frame {A : List Part} {s0 : State} (o : Origin) (tag : BitVec 32) (index : BitVec 16)
    (s : State) (hs : s0.agree A s)
    (hw : partsIn [.out, .sb, .polders, .keys, .obj, .fns, .spdm, .tracer, .power, .free] A = true) : FrameOut A s0
    (execRegionQuery o tag index s) := by
  unfold execRegionQuery
  try dsimp only
  repeat' (first
      | with_reducible exact frameOut_fault | (with_reducible apply frameOut_next)
      | (with_reducible refine frameOut_ite ?_ ?_) | with_reducible assumption | (with_reducible intro _)
      | with_reducible apply regionQueryCmd_frame | (with_reducible exact partsIn_trans (by decide) hw)
      | (dsimp only))

theorem createRing_frame {A : List Part} {s0 : State} (ring : BitVec 12) (p : PolderId) (members : List InstId)
    (own : BitVec 3) (home : List (BitVec 16)) (s : State) (hs : s0.agree A s)
    (hw : partsIn [.fau, .rings] A = true) : s0.agree A (createRing ring p members own home s) := by
  unfold createRing
  try dsimp only
  repeat' (first
      | with_reducible assumption | (with_reducible intro _) | with_reducible apply fillRtt_frame
      | with_reducible apply modRings_frame | (with_reducible exact partsIn_trans (by decide) hw)
      | (with_reducible apply id_frame) | (with_reducible refine ite_frame ?_ ?_) | split)

theorem ringCreateCmd_frame {A : List Part} {s0 : State} (bad : Bool) (o : Origin) (tag : BitVec 32)
    (ring : BitVec 16) (polder : PolderId) (members : List InstId) (own : BitVec 8) (home : List (BitVec 16))
    (mark : Datum) (s : State) (hs : s0.agree A s)
    (hw : partsIn [.out, .sb, .datum, .polders, .keys, .fau, .rings, .obj, .fns, .spdm, .tracer, .power, .free] A = true) :
    s0.agree A (ringCreateCmd bad o tag ring polder members own home mark s) := by
  unfold ringCreateCmd
  try dsimp only
  repeat' (first
      | with_reducible assumption | (with_reducible intro _) | with_reducible apply activateRing_frame
      | with_reducible apply countLate_frame | with_reducible apply createRing_frame
      | with_reducible apply enqueueMark_frame | with_reducible apply reply_frame
      | with_reducible apply runCmd_frame | (with_reducible exact partsIn_trans (by decide) hw)
      | (with_reducible apply id_frame) | (with_reducible refine ite_frame ?_ ?_) | split)

theorem execRingCreate_frame {A : List Part} {s0 : State} (o : Origin) (tag : BitVec 32) (ring : BitVec 16)
    (polder : PolderId) (members : List InstId) (own : BitVec 8) (home : List (BitVec 16)) (mark : Datum)
    (s : State) (hs : s0.agree A s)
    (hw : partsIn [.out, .sb, .datum, .polders, .keys, .fau, .rings, .obj, .fns, .spdm, .tracer, .power, .free] A = true) :
    FrameOut A s0 (execRingCreate o tag ring polder members own home mark s) := by
  unfold execRingCreate
  try dsimp only
  repeat' (first
      | with_reducible exact frameOut_fault | (with_reducible apply frameOut_next)
      | (with_reducible refine frameOut_ite ?_ ?_) | with_reducible assumption | (with_reducible intro _)
      | with_reducible apply ringCreateCmd_frame | (with_reducible exact partsIn_trans (by decide) hw)
      | (dsimp only))

theorem ringMemberDeadCmd_frame {A : List Part} {s0 : State} (bad : Bool) (o : Origin) (tag : BitVec 32)
    (ring : BitVec 16) (inst : BitVec 16) (s : State) (hs : s0.agree A s)
    (hw : partsIn [.out, .pins, .sb, .datum, .polders, .cad, .keys, .link, .stack, .tray, .fau, .rings, .coll, .bars, .sca, .obj, .fns, .spdm, .charts, .tracer, .gauge, .power, .pool, .free] A = true) :
    s0.agree A (ringMemberDeadCmd bad o tag ring inst s) := by
  unfold ringMemberDeadCmd
  try dsimp only
  repeat' (first
      | with_reducible assumption | (with_reducible intro _) | with_reducible apply declareDead_frame
      | with_reducible apply reply_frame | with_reducible apply resume_frame | with_reducible apply runCmd_frame
      | (with_reducible exact partsIn_trans (by decide) hw) | split)

theorem execRingMemberDead_frame {A : List Part} {s0 : State} (o : Origin) (tag : BitVec 32) (ring : BitVec 16)
    (inst : BitVec 16) (s : State) (hs : s0.agree A s)
    (hw : partsIn [.out, .pins, .sb, .datum, .polders, .cad, .keys, .link, .stack, .tray, .fau, .rings, .coll, .bars, .sca, .obj, .fns, .spdm, .charts, .tracer, .gauge, .power, .pool, .free] A = true) :
    FrameOut A s0 (execRingMemberDead o tag ring inst s) := by
  unfold execRingMemberDead
  try dsimp only
  repeat' (first
      | with_reducible exact frameOut_fault | (with_reducible apply frameOut_next)
      | (with_reducible refine frameOut_ite ?_ ?_) | with_reducible assumption | (with_reducible intro _)
      | with_reducible apply ringMemberDeadCmd_frame | (with_reducible exact partsIn_trans (by decide) hw)
      | (dsimp only))

theorem beginRingDestroy_frame {A : List Part} {s0 : State} (ring : BitVec 12) (o : Origin) (tag : BitVec 32)
    (s : State) (hs : s0.agree A s)
    (hw : partsIn [.out, .pins, .sb, .polders, .cad, .keys, .link, .stack, .fau, .rings, .obj, .fns, .tracer, .gauge, .power, .free] A = true) :
    s0.agree A (beginRingDestroy ring o tag s) := by
  unfold beginRingDestroy
  try dsimp only
  repeat' (first
      | with_reducible assumption | (with_reducible intro _) | with_reducible apply destroyStep_frame
      | with_reducible apply finish_frame | with_reducible apply modRingOf_frame
      | (with_reducible exact partsIn_trans (by decide) hw) | (with_reducible refine ite_frame ?_ ?_) | split)

theorem ringDestroyCmd_frame {A : List Part} {s0 : State} (bad : Bool) (o : Origin) (tag : BitVec 32)
    (ring : BitVec 16) (mark : Datum) (s : State) (hs : s0.agree A s)
    (hw : partsIn [.out, .pins, .sb, .datum, .polders, .cad, .keys, .link, .stack, .tray, .fau, .rings, .coll, .bars, .sca, .obj, .fns, .spdm, .charts, .tracer, .gauge, .power, .pool, .free] A = true) :
    s0.agree A (ringDestroyCmd bad o tag ring mark s) := by
  unfold ringDestroyCmd
  try dsimp only
  repeat' (first
      | with_reducible assumption | (with_reducible intro _) | with_reducible apply beginRingDestroy_frame
      | with_reducible apply countLate_frame | with_reducible apply enqueueMark_frame
      | with_reducible apply pend_frame | with_reducible apply resume_frame | with_reducible apply runCmd_frame
      | (with_reducible exact partsIn_trans (by decide) hw) | (with_reducible refine ite_frame ?_ ?_) | split)

theorem execRingDestroy_frame {A : List Part} {s0 : State} (o : Origin) (tag : BitVec 32) (ring : BitVec 16)
    (mark : Datum) (s : State) (hs : s0.agree A s)
    (hw : partsIn [.out, .pins, .sb, .datum, .polders, .cad, .keys, .link, .stack, .tray, .fau, .rings, .coll, .bars, .sca, .obj, .fns, .spdm, .charts, .tracer, .gauge, .power, .pool, .free] A = true) :
    FrameOut A s0 (execRingDestroy o tag ring mark s) := by
  unfold execRingDestroy
  try dsimp only
  repeat' (first
      | with_reducible exact frameOut_fault | (with_reducible apply frameOut_next)
      | (with_reducible refine frameOut_ite ?_ ?_) | with_reducible assumption | (with_reducible intro _)
      | with_reducible apply ringDestroyCmd_frame | (with_reducible exact partsIn_trans (by decide) hw)
      | (dsimp only))

end Sys2Proof.Machine
end

