-- ==== Sys2Proof/Laws/FrameCharts.lean ====
section
/-! SUPPORT. Which parts of the state the operations of Machine/Charts.lean may change (State.agree). -/

namespace Sys2Proof.Machine

theorem modCharts_frame {A : List Part} {s0 : State} (f : Charts → Charts) (s : State) (hs : s0.agree A s)
    (hw : partsIn [.charts] A = true) : s0.agree A (modCharts f s) := by
  unfold modCharts
  try dsimp only
  repeat' (first
      | with_reducible assumption | (with_reducible exact partsIn_trans (by decide) hw)
      | (with_reducible refine agree_charts ?_ ?_))

theorem needKeys_frame {A : List Part} {s0 : State} (p : PolderId) (a0 : List (BitVec 8)) (a1 : State) (hs :
    s0.agree A a1)
    (hw : partsIn [.out, .pins, .sb, .polders, .cad, .keys, .stack, .obj, .fns, .tracer, .power, .free] A = true) :
    s0.agree A (needKeys p a0 a1).2 := by
  induction a0 generalizing a1 with
  | nil => 
    unfold needKeys
    try dsimp only
    repeat' (first
        | with_reducible assumption | with_reducible apply needKey_frame
        | (with_reducible exact partsIn_trans (by decide) hw) | (with_reducible refine ite_pair_frame ?_ ?_)
        | (with_reducible refine ite_trip_frame ?_ ?_) | split
        | (refine frame_of_pair (by with_reducible assumption) ?_)
        | (refine frame_of_trip (by with_reducible assumption) ?_) | (dsimp only))
  | cons x l ih => 
    unfold needKeys
    try dsimp only
    repeat' (first
        | with_reducible assumption | with_reducible apply needKey_frame
        | (with_reducible exact partsIn_trans (by decide) hw) | with_reducible apply ih
        | (with_reducible refine ite_pair_frame ?_ ?_) | (with_reducible refine ite_trip_frame ?_ ?_) | split
        | (refine frame_of_pair (by with_reducible assumption) ?_)
        | (refine frame_of_trip (by with_reducible assumption) ?_) | (dsimp only))

theorem resumePolder_frame {A : List Part} {s0 : State} (p : PolderId) (s : State) (hs : s0.agree A s)
    (hw : partsIn [.out, .pins, .sb, .datum, .polders, .cad, .keys, .link, .stack, .tray, .fau, .rings, .coll, .bars, .sca, .obj, .fns, .charts, .tracer, .gauge, .power, .pool, .free] A = true) :
    s0.agree A (resumePolder p s) := by
  unfold resumePolder
  try dsimp only
  repeat' (first
      | with_reducible assumption | with_reducible apply resume_frame | with_reducible apply thaw_frame
      | (with_reducible exact partsIn_trans (by decide) hw))

theorem resumeChart_frame {A : List Part} {s0 : State} (p : PolderId) (chart : BitVec 32) (s : State) (hs :
    s0.agree A s)
    (hw : partsIn [.out, .pins, .sb, .datum, .polders, .cad, .keys, .link, .stack, .tray, .fau, .rings, .coll, .bars, .sca, .obj, .fns, .charts, .tracer, .gauge, .power, .pool, .free] A = true) :
    s0.agree A (resumeChart p chart s) := by
  unfold resumeChart
  try dsimp only
  repeat' (first
      | with_reducible assumption | with_reducible apply resumePolder_frame
      | (with_reducible exact partsIn_trans (by decide) hw) | (with_reducible refine ite_frame ?_ ?_) | split)

theorem deedRewraps_frame {A : List Part} {s0 : State} (p : PolderId) (s : State) (hs : s0.agree A s)
    (hw : partsIn [.out, .sb, .polders, .keys, .obj, .fns, .tracer, .power, .free] A = true) : s0.agree A
    (deedRewraps p s) := by
  unfold deedRewraps
  try dsimp only
  repeat' (first
      | with_reducible assumption | (with_reducible intro _) | with_reducible apply inlineJobs_frame
      | (with_reducible exact partsIn_trans (by decide) hw) | (with_reducible refine ite_pair_frame ?_ ?_)
      | (with_reducible refine ite_trip_frame ?_ ?_) | (dsimp only))

theorem chartExportCmd_frame {A : List Part} {s0 : State} (bad : Bool) (o : Origin) (tag : BitVec 32)
    (polder : PolderId) (chart : BitVec 32) (step : BitVec 64) (addr : BitVec 64) (len : BitVec 64) (s : State)
    (hs : s0.agree A s)
    (hw : partsIn [.out, .sb, .polders, .keys, .obj, .fns, .spdm, .charts, .tracer, .power, .pool, .free] A = true) :
    s0.agree A (chartExportCmd bad o tag polder chart step addr len s) := by
  unfold chartExportCmd
  try dsimp only
  repeat' (first
      | with_reducible assumption | (with_reducible intro _) | with_reducible apply modCharts_frame
      | with_reducible apply pend_frame | with_reducible apply poolTake_frame | with_reducible apply runCmd_frame
      | (with_reducible exact partsIn_trans (by decide) hw) | split)

theorem execChartExport_frame {A : List Part} {s0 : State} (o : Origin) (tag : BitVec 32) (polder : PolderId)
    (chart : BitVec 32) (step : BitVec 64) (addr : BitVec 64) (len : BitVec 64) (s : State) (hs : s0.agree A s)
    (hw : partsIn [.out, .sb, .polders, .keys, .obj, .fns, .spdm, .charts, .tracer, .power, .pool, .free] A = true) :
    FrameOut A s0 (execChartExport o tag polder chart step addr len s) := by
  unfold execChartExport
  try dsimp only
  repeat' (first
      | with_reducible exact frameOut_fault | (with_reducible apply frameOut_next)
      | (with_reducible refine frameOut_ite ?_ ?_) | with_reducible assumption | (with_reducible intro _)
      | with_reducible apply chartExportCmd_frame | (with_reducible exact partsIn_trans (by decide) hw)
      | (dsimp only))

theorem takeFreeze_frame {A : List Part} {s0 : State} (q : Polder) (e : Export) (s : State) (hs : s0.agree A s)
    (hw : partsIn [.out, .pins, .sb, .datum, .polders, .cad, .keys, .link, .stack, .tray, .fau, .rings, .coll, .bars, .sca, .obj, .fns, .charts, .tracer, .gauge, .power, .pool, .free] A = true) :
    s0.agree A (takeFreeze q e s) := by
  unfold takeFreeze
  try dsimp only
  repeat' (first
      | with_reducible assumption | (with_reducible intro _) | with_reducible apply drbgDraw_frame
      | with_reducible apply endExport_frame | with_reducible apply modCharts_frame
      | with_reducible apply modPolder_frame | with_reducible apply resume_frame
      | (with_reducible exact partsIn_trans (by decide) hw) | (with_reducible refine ite_frame ?_ ?_) | split)

theorem execChartFreeze_frame {A : List Part} {s0 : State} (polder : PolderId) (s : State) (hs : s0.agree A s)
    (hw : partsIn [.out, .pins, .sb, .datum, .polders, .cad, .keys, .link, .stack, .tray, .fau, .rings, .coll, .bars, .sca, .obj, .fns, .charts, .tracer, .gauge, .power, .pool, .free] A = true) :
    FrameOut A s0 (execChartFreeze polder s) := by
  unfold execChartFreeze
  try dsimp only
  repeat' (first
      | with_reducible exact frameOut_fault | (with_reducible apply frameOut_next)
      | (with_reducible refine frameOut_ite ?_ ?_) | with_reducible assumption | (with_reducible intro _)
      | with_reducible apply endExport_frame | with_reducible apply resume_frame
      | with_reducible apply takeFreeze_frame | with_reducible apply withDomain_frame
      | (with_reducible exact partsIn_trans (by decide) hw) | (with_reducible refine ite_frame ?_ ?_) | split
      | (dsimp only))

theorem execChartExportTimeout_frame {A : List Part} {s0 : State} (polder : PolderId) (s : State) (hs :
    s0.agree A s)
    (hw : partsIn [.out, .pins, .sb, .datum, .polders, .cad, .keys, .link, .stack, .tray, .fau, .rings, .coll, .bars, .sca, .obj, .fns, .charts, .tracer, .gauge, .power, .pool, .free] A = true) :
    FrameOut A s0 (execChartExportTimeout polder s) := by
  unfold execChartExportTimeout
  try dsimp only
  repeat' (first
      | with_reducible exact frameOut_fault | (with_reducible apply frameOut_next)
      | (with_reducible refine frameOut_ite ?_ ?_) | with_reducible assumption | (with_reducible intro _)
      | with_reducible apply endExport_frame | with_reducible apply resume_frame
      | (with_reducible exact partsIn_trans (by decide) hw) | (with_reducible refine ite_frame ?_ ?_) | split
      | (dsimp only))

theorem writeChart_frame {A : List Part} {s0 : State} (polder : PolderId) (q : Polder) (e : Export) (f : Frozen)
    (s : State) (hs : s0.agree A s)
    (hw : partsIn [.out, .pins, .sb, .datum, .polders, .cad, .keys, .link, .stack, .tray, .fau, .rings, .coll, .bars, .sca, .obj, .fns, .charts, .tracer, .gauge, .power, .pool, .free] A = true) :
    s0.agree A (writeChart polder q e f s) := by
  unfold writeChart
  try dsimp only
  repeat' (first
      | with_reducible assumption | (with_reducible intro _) | with_reducible apply deedRewraps_frame
      | with_reducible apply endExport_frame | with_reducible apply hostWrite_frame
      | with_reducible apply modCharts_frame | with_reducible apply modPolder_frame
      | with_reducible apply needKeys_frame | with_reducible apply resume_frame
      | with_reducible apply thawChart_frame | (with_reducible exact partsIn_trans (by decide) hw)
      | (with_reducible refine ite_pair_frame ?_ ?_) | (with_reducible refine ite_trip_frame ?_ ?_) | split
      | (refine frame_of_pair (by with_reducible assumption) ?_)
      | (refine frame_of_trip (by with_reducible assumption) ?_) | (dsimp only))

theorem execChartWritten_frame {A : List Part} {s0 : State} (polder : PolderId) (s : State) (hs : s0.agree A s)
    (hw : partsIn [.out, .pins, .sb, .datum, .polders, .cad, .keys, .link, .stack, .tray, .fau, .rings, .coll, .bars, .sca, .obj, .fns, .charts, .tracer, .gauge, .power, .pool, .free] A = true) :
    FrameOut A s0 (execChartWritten polder s) := by
  unfold execChartWritten
  try dsimp only
  repeat' (first
      | with_reducible exact frameOut_fault | (with_reducible apply frameOut_next)
      | (with_reducible refine frameOut_ite ?_ ?_) | with_reducible assumption | (with_reducible intro _)
      | with_reducible apply endExport_frame | with_reducible apply resume_frame
      | with_reducible apply thawChart_frame | with_reducible apply withDomain_frame
      | with_reducible apply writeChart_frame | (with_reducible exact partsIn_trans (by decide) hw)
      | (with_reducible refine ite_frame ?_ ?_) | split | (dsimp only))

theorem importContext_frame {A : List Part} {s0 : State} (m : Import) (x : ChartContext) (s : State) (hs :
    s0.agree A s) (hw : partsIn [.sca, .obj] A = true) : s0.agree A (importContext m x s) := by
  unfold importContext
  try dsimp only
  repeat' (first
      | with_reducible assumption | (with_reducible intro _) | with_reducible apply modObj_frame
      | with_reducible apply setSync_frame | (with_reducible exact partsIn_trans (by decide) hw)
      | (with_reducible apply foldl_frame) | (with_reducible apply id_frame) | (dsimp only))

theorem restorePlot_frame {A : List Part} {s0 : State} (memobj : BitVec 13) (q : Polder) (n : BitVec 16) (r : Bytes)
    (contents : Bytes) (s : State) (hs : s0.agree A s) (hw : partsIn [.stack, .obj] A = true) : s0.agree A
    (restorePlot memobj q n r contents s) := by
  unfold restorePlot
  try dsimp only
  repeat' (first
      | with_reducible assumption | (with_reducible intro _) | with_reducible apply modMemobj_frame
      | with_reducible apply setPlot_frame | (with_reducible exact partsIn_trans (by decide) hw)
      | (with_reducible refine agree_stack ?_ ?_))

theorem restoreRegion_frame {A : List Part} {s0 : State} (memobj : BitVec 13) (q : Polder) (plots : List
    (BitVec 16)) (r : Bytes) (s : State) (hs : s0.agree A s) (hw : partsIn [.fau, .obj] A = true) : s0.agree A
    (restoreRegion memobj q plots r s) := by
  unfold restoreRegion
  try dsimp only
  repeat' (first
      | with_reducible assumption | (with_reducible intro _) | with_reducible apply fillRtt_frame
      | with_reducible apply modMemobj_frame | (with_reducible exact partsIn_trans (by decide) hw)
      | (with_reducible refine ite_frame ?_ ?_) | split | (with_reducible refine agree_fau ?_ ?_))

theorem restoreStream_frame {A : List Part} {s0 : State} (p : PolderId) (r : Bytes) (s : State) (hs : s0.agree A s)
    (hw : partsIn [.link] A = true) : s0.agree A (restoreStream p r s) := by
  unfold restoreStream
  try dsimp only
  repeat' (first
      | with_reducible assumption | (with_reducible intro _) | (with_reducible exact partsIn_trans (by decide) hw)
      | (with_reducible refine agree_link ?_ ?_))

theorem restoreSpace_frame {A : List Part} {s0 : State} (p : PolderId) (r : Bytes) (s : State) (hs : s0.agree A s)
    (hw : partsIn [.fau] A = true) : s0.agree A (restoreSpace p r s) := by
  unfold restoreSpace
  try dsimp only
  repeat' (first
      | with_reducible assumption | (with_reducible exact partsIn_trans (by decide) hw)
      | (with_reducible refine agree_fau ?_ ?_))

theorem restoreChart_frame {A : List Part} {s0 : State} (q : Polder) (m : Import) (c : Chart) (s : State) (hs :
    s0.agree A s) (hw : partsIn [.polders, .link, .stack, .fau, .sca, .obj] A = true) : s0.agree A
    (restoreChart q m c s) := by
  unfold restoreChart
  try dsimp only
  repeat' (first
      | with_reducible assumption | (with_reducible intro _) | with_reducible apply importContext_frame
      | with_reducible apply modPolder_frame | with_reducible apply restorePlot_frame
      | with_reducible apply restoreRegion_frame | with_reducible apply restoreSpace_frame
      | with_reducible apply restoreStream_frame | (with_reducible exact partsIn_trans (by decide) hw)
      | (with_reducible apply foldl_frame) | (with_reducible refine ite_frame ?_ ?_) | split | (dsimp only))

theorem chartImportCmd_frame {A : List Part} {s0 : State} (bad : Bool) (o : Origin) (tag : BitVec 32)
    (polder : PolderId) (memobj : BitVec 16) (chart : BitVec 32) (addr : BitVec 64) (len : BitVec 64) (s : State)
    (hs : s0.agree A s)
    (hw : partsIn [.out, .sb, .polders, .keys, .obj, .fns, .spdm, .charts, .tracer, .power, .pool, .free] A = true) :
    s0.agree A (chartImportCmd bad o tag polder memobj chart addr len s) := by
  unfold chartImportCmd
  try dsimp only
  repeat' (first
      | with_reducible assumption | (with_reducible intro _) | with_reducible apply modCharts_frame
      | with_reducible apply pend_frame | with_reducible apply poolTake_frame | with_reducible apply runCmd_frame
      | (with_reducible exact partsIn_trans (by decide) hw) | split)

theorem execChartImport_frame {A : List Part} {s0 : State} (o : Origin) (tag : BitVec 32) (polder : PolderId)
    (memobj : BitVec 16) (chart : BitVec 32) (addr : BitVec 64) (len : BitVec 64) (s : State) (hs : s0.agree A s)
    (hw : partsIn [.out, .sb, .polders, .keys, .obj, .fns, .spdm, .charts, .tracer, .power, .pool, .free] A = true) :
    FrameOut A s0 (execChartImport o tag polder memobj chart addr len s) := by
  unfold execChartImport
  try dsimp only
  repeat' (first
      | with_reducible exact frameOut_fault | (with_reducible apply frameOut_next)
      | (with_reducible refine frameOut_ite ?_ ?_) | with_reducible assumption | (with_reducible intro _)
      | with_reducible apply chartImportCmd_frame | (with_reducible exact partsIn_trans (by decide) hw)
      | (dsimp only))

theorem takeChart_frame {A : List Part} {s0 : State} (polder : PolderId) (chart : Bytes) (q : Polder) (m : Import)
    (s : State) (hs : s0.agree A s)
    (hw : partsIn [.out, .pins, .sb, .datum, .polders, .cad, .keys, .link, .stack, .tray, .fau, .rings, .coll, .bars, .sca, .obj, .fns, .charts, .tracer, .gauge, .power, .pool, .free] A = true) :
    s0.agree A (takeChart polder chart q m s) := by
  unfold takeChart
  try dsimp only
  repeat' (first
      | with_reducible assumption | (with_reducible intro _) | with_reducible apply deedRewraps_frame
      | with_reducible apply endImport_frame | with_reducible apply modCharts_frame
      | with_reducible apply needKeys_frame | with_reducible apply restoreChart_frame
      | with_reducible apply resume_frame | (with_reducible exact partsIn_trans (by decide) hw)
      | (with_reducible refine ite_pair_frame ?_ ?_) | (with_reducible refine ite_trip_frame ?_ ?_) | split
      | (refine frame_of_pair (by with_reducible assumption) ?_)
      | (refine frame_of_trip (by with_reducible assumption) ?_) | (dsimp only))

theorem execChartImportComplete_frame {A : List Part} {s0 : State} (polder : PolderId) (chart : Bytes) (s : State)
    (hs : s0.agree A s)
    (hw : partsIn [.out, .pins, .sb, .datum, .polders, .cad, .keys, .link, .stack, .tray, .fau, .rings, .coll, .bars, .sca, .obj, .fns, .charts, .tracer, .gauge, .power, .pool, .free] A = true) :
    FrameOut A s0 (execChartImportComplete polder chart s) := by
  unfold execChartImportComplete
  try dsimp only
  repeat' (first
      | with_reducible exact frameOut_fault | (with_reducible apply frameOut_next)
      | (with_reducible refine frameOut_ite ?_ ?_) | with_reducible assumption | (with_reducible intro _)
      | with_reducible apply takeChart_frame | with_reducible apply withDomain_frame
      | (with_reducible exact partsIn_trans (by decide) hw) | (with_reducible refine ite_frame ?_ ?_) | split
      | (dsimp only))

theorem chartResumeCmd_frame {A : List Part} {s0 : State} (bad : Bool) (o : Origin) (tag : BitVec 32)
    (polder : PolderId) (chart : BitVec 32) (mark : Datum) (s : State) (hs : s0.agree A s)
    (hw : partsIn [.out, .pins, .sb, .datum, .polders, .cad, .keys, .link, .stack, .tray, .fau, .rings, .coll, .bars, .sca, .obj, .fns, .spdm, .charts, .tracer, .gauge, .power, .pool, .free] A = true) :
    s0.agree A (chartResumeCmd bad o tag polder chart mark s) := by
  unfold chartResumeCmd
  try dsimp only
  repeat' (first
      | with_reducible assumption | (with_reducible intro _) | with_reducible apply countLate_frame
      | with_reducible apply enqueueMark_frame | with_reducible apply refuse_frame
      | with_reducible apply reply_frame | with_reducible apply resumeChart_frame
      | with_reducible apply runCmd_frame | (with_reducible exact partsIn_trans (by decide) hw) | split)

theorem execChartResume_frame {A : List Part} {s0 : State} (o : Origin) (tag : BitVec 32) (polder : PolderId)
    (chart : BitVec 32) (mark : Datum) (s : State) (hs : s0.agree A s)
    (hw : partsIn [.out, .pins, .sb, .datum, .polders, .cad, .keys, .link, .stack, .tray, .fau, .rings, .coll, .bars, .sca, .obj, .fns, .spdm, .charts, .tracer, .gauge, .power, .pool, .free] A = true) :
    FrameOut A s0 (execChartResume o tag polder chart mark s) := by
  unfold execChartResume
  try dsimp only
  repeat' (first
      | with_reducible exact frameOut_fault | (with_reducible apply frameOut_next)
      | (with_reducible refine frameOut_ite ?_ ?_) | with_reducible assumption | (with_reducible intro _)
      | with_reducible apply chartResumeCmd_frame | (with_reducible exact partsIn_trans (by decide) hw)
      | (dsimp only))

theorem undoImport_frame {A : List Part} {s0 : State} (q : Polder) (s : State) (hs : s0.agree A s)
    (hw : partsIn [.out, .pins, .sb, .datum, .polders, .cad, .keys, .link, .stack, .tray, .fau, .rings, .coll, .bars, .sca, .obj, .fns, .charts, .tracer, .gauge, .power, .pool, .free] A = true) :
    s0.agree A (undoImport q s) := by
  unfold undoImport
  try dsimp only
  repeat' (first
      | with_reducible assumption | (with_reducible intro _) | with_reducible apply beginDestroy_frame
      | with_reducible apply dropMarks_frame | with_reducible apply dropPlots_frame
      | with_reducible apply dropRecords_frame | with_reducible apply dropRegions_frame
      | with_reducible apply dropStreams_frame | with_reducible apply freeContext_frame
      | with_reducible apply modPolder_frame | (with_reducible exact partsIn_trans (by decide) hw)
      | (with_reducible apply foldl_frame) | split | (with_reducible refine agree_link ?_ ?_) | (dsimp only))

theorem chartDiscardCmd_frame {A : List Part} {s0 : State} (bad : Bool) (o : Origin) (tag : BitVec 32)
    (polder : PolderId) (chart : BitVec 32) (s : State) (hs : s0.agree A s)
    (hw : partsIn [.out, .pins, .sb, .datum, .polders, .cad, .keys, .link, .stack, .tray, .fau, .rings, .coll, .bars, .sca, .obj, .fns, .spdm, .charts, .tracer, .gauge, .power, .pool, .free] A = true) :
    s0.agree A (chartDiscardCmd bad o tag polder chart s) := by
  unfold chartDiscardCmd
  try dsimp only
  repeat' (first
      | with_reducible assumption | (with_reducible intro _) | with_reducible apply finish_frame
      | with_reducible apply pend_frame | with_reducible apply runCmd_frame | with_reducible apply undoImport_frame
      | (with_reducible exact partsIn_trans (by decide) hw) | (with_reducible refine ite_frame ?_ ?_) | split)

theorem execChartDiscard_frame {A : List Part} {s0 : State} (o : Origin) (tag : BitVec 32) (polder : PolderId)
    (chart : BitVec 32) (s : State) (hs : s0.agree A s)
    (hw : partsIn [.out, .pins, .sb, .datum, .polders, .cad, .keys, .link, .stack, .tray, .fau, .rings, .coll, .bars, .sca, .obj, .fns, .spdm, .charts, .tracer, .gauge, .power, .pool, .free] A = true) :
    FrameOut A s0 (execChartDiscard o tag polder chart s) := by
  unfold execChartDiscard
  try dsimp only
  repeat' (first
      | with_reducible exact frameOut_fault | (with_reducible apply frameOut_next)
      | (with_reducible refine frameOut_ite ?_ ?_) | with_reducible assumption | (with_reducible intro _)
      | with_reducible apply chartDiscardCmd_frame | (with_reducible exact partsIn_trans (by decide) hw)
      | (dsimp only))

end Sys2Proof.Machine
end

