-- ==== Sys2Proof/Laws/FramePolders.lean ====
section
/-! SUPPORT. Which parts of the state the operations of Machine/Polders.lean may change (State.agree). -/

namespace Sys2Proof.Machine

theorem definePolder_frame {A : List Part} {s0 : State} (o : Origin) (p : PolderId) (conf : Bool) (pmk : Key256)
    (s : State) (hs : s0.agree A s)
    (hw : partsIn [.out, .sb, .polders, .cad, .keys, .obj, .fns, .tracer, .gauge, .power, .free] A = true) :
    s0.agree A (definePolder o p conf pmk s) := by
  unfold definePolder
  try dsimp only
  repeat' (first
      | with_reducible assumption | (with_reducible intro _) | with_reducible apply inlineJobs_frame
      | with_reducible apply openEntry_frame | with_reducible apply setPvt_frame
      | (with_reducible exact partsIn_trans (by decide) hw) | (with_reducible refine ite_frame ?_ ?_)
      | (with_reducible refine ite_pair_frame ?_ ?_) | (with_reducible refine ite_trip_frame ?_ ?_) | split
      | (with_reducible refine agree_polders ?_ ?_) | (with_reducible refine agree_cad ?_ ?_)
      | (with_reducible refine agree_upd (W := [.polders, .cad]) ?_ rfl (by intro p hp; cases p <;> (try exact absurd hp (by decide)) <;> exact rfl) ?_)
      | (dsimp only))

theorem polderProvisionCmd_frame {A : List Part} {s0 : State} (bad : Bool) (o : Origin) (tag : BitVec 32)
    (polder : PolderId) (confidential : BitVec 8) (pmk : Key256) (s : State) (hs : s0.agree A s)
    (hw : partsIn [.out, .sb, .polders, .cad, .keys, .obj, .fns, .spdm, .tracer, .gauge, .power, .free] A = true) :
    s0.agree A (polderProvisionCmd bad o tag polder confidential pmk s) := by
  unfold polderProvisionCmd
  try dsimp only
  repeat' (first
      | with_reducible assumption | (with_reducible intro _) | with_reducible apply definePolder_frame
      | with_reducible apply refuse_frame | with_reducible apply reply_frame | with_reducible apply runCmd_frame
      | (with_reducible exact partsIn_trans (by decide) hw) | (with_reducible refine ite_frame ?_ ?_) | split)

theorem execPolderProvision_frame {A : List Part} {s0 : State} (o : Origin) (tag : BitVec 32) (polder : PolderId)
    (confidential : BitVec 8) (pmk : Key256) (s : State) (hs : s0.agree A s)
    (hw : partsIn [.out, .sb, .polders, .cad, .keys, .obj, .fns, .spdm, .tracer, .gauge, .power, .free] A = true) :
    FrameOut A s0 (execPolderProvision o tag polder confidential pmk s) := by
  unfold execPolderProvision
  try dsimp only
  repeat' (first
      | with_reducible exact frameOut_fault | (with_reducible apply frameOut_next)
      | (with_reducible refine frameOut_ite ?_ ?_) | with_reducible assumption | (with_reducible intro _)
      | with_reducible apply polderProvisionCmd_frame | (with_reducible exact partsIn_trans (by decide) hw)
      | (dsimp only))

theorem setMembers_frame {A : List Part} {s0 : State} (p : PolderId) (members : BitVec 8192) (s : State) (hs :
    s0.agree A s)
    (hw : partsIn [.out, .pins, .sb, .datum, .polders, .cad, .keys, .link, .stack, .tray, .fau, .rings, .coll, .bars, .sca, .obj, .fns, .charts, .tracer, .gauge, .power, .pool, .free] A = true) :
    s0.agree A (setMembers p members s) := by
  unfold setMembers
  try dsimp only
  repeat' (first
      | with_reducible assumption | (with_reducible intro _) | with_reducible apply endWaitingTx_frame
      | with_reducible apply modPolder_frame | with_reducible apply resume_frame
      | (with_reducible exact partsIn_trans (by decide) hw) | (with_reducible apply foldl_frame)
      | (with_reducible refine ite_frame ?_ ?_) | split | (with_reducible refine agree_link ?_ ?_) | (dsimp only))

theorem polderMembershipCmd_frame {A : List Part} {s0 : State} (bad : Bool) (o : Origin) (tag : BitVec 32)
    (polder : PolderId) (mark : Datum) (members : BitVec 8192) (s : State) (hs : s0.agree A s)
    (hw : partsIn [.out, .pins, .sb, .datum, .polders, .cad, .keys, .link, .stack, .tray, .fau, .rings, .coll, .bars, .sca, .obj, .fns, .spdm, .charts, .tracer, .gauge, .power, .pool, .free] A = true) :
    s0.agree A (polderMembershipCmd bad o tag polder mark members s) := by
  unfold polderMembershipCmd
  try dsimp only
  repeat' (first
      | with_reducible assumption | (with_reducible intro _) | with_reducible apply countLate_frame
      | with_reducible apply enqueueMark_frame | with_reducible apply reply_frame
      | with_reducible apply runCmd_frame | with_reducible apply setMembers_frame
      | (with_reducible exact partsIn_trans (by decide) hw) | (with_reducible refine ite_frame ?_ ?_) | split)

theorem execPolderMembership_frame {A : List Part} {s0 : State} (o : Origin) (tag : BitVec 32) (polder : PolderId)
    (mark : Datum) (members : BitVec 8192) (s : State) (hs : s0.agree A s)
    (hw : partsIn [.out, .pins, .sb, .datum, .polders, .cad, .keys, .link, .stack, .tray, .fau, .rings, .coll, .bars, .sca, .obj, .fns, .spdm, .charts, .tracer, .gauge, .power, .pool, .free] A = true) :
    FrameOut A s0 (execPolderMembership o tag polder mark members s) := by
  unfold execPolderMembership
  try dsimp only
  repeat' (first
      | with_reducible exact frameOut_fault | (with_reducible apply frameOut_next)
      | (with_reducible refine frameOut_ite ?_ ?_) | with_reducible assumption | (with_reducible intro _)
      | with_reducible apply polderMembershipCmd_frame | (with_reducible exact partsIn_trans (by decide) hw)
      | (dsimp only))

theorem polderListCmd_frame {A : List Part} {s0 : State} (bad : Bool) (o : Origin) (tag : BitVec 32)
    (first : PolderId) (s : State) (hs : s0.agree A s)
    (hw : partsIn [.out, .sb, .polders, .keys, .obj, .fns, .spdm, .tracer, .power, .free] A = true) : s0.agree A
    (polderListCmd bad o tag first s) := by
  unfold polderListCmd
  try dsimp only
  repeat' (first
      | with_reducible assumption | (with_reducible intro _) | with_reducible apply reply_frame
      | with_reducible apply runCmd_frame | (with_reducible exact partsIn_trans (by decide) hw))

theorem execPolderList_frame {A : List Part} {s0 : State} (o : Origin) (tag : BitVec 32) (first : PolderId)
    (s : State) (hs : s0.agree A s)
    (hw : partsIn [.out, .sb, .polders, .keys, .obj, .fns, .spdm, .tracer, .power, .free] A = true) : FrameOut A s0
    (execPolderList o tag first s) := by
  unfold execPolderList
  try dsimp only
  repeat' (first
      | with_reducible exact frameOut_fault | (with_reducible apply frameOut_next)
      | (with_reducible refine frameOut_ite ?_ ?_) | with_reducible assumption | (with_reducible intro _)
      | with_reducible apply polderListCmd_frame | (with_reducible exact partsIn_trans (by decide) hw)
      | (dsimp only))

theorem setPinned_frame {A : List Part} {s0 : State} (p : PolderId) (b : Bool) (s : State) (hs : s0.agree A s)
    (hw : partsIn [.polders, .cad] A = true) : s0.agree A (setPinned p b s) := by
  unfold setPinned
  try dsimp only
  repeat' (first
      | with_reducible assumption | (with_reducible intro _) | with_reducible apply modPolder_frame
      | with_reducible apply writeSlot_frame | (with_reducible exact partsIn_trans (by decide) hw)
      | (with_reducible refine ite_frame ?_ ?_) | split)

theorem waitForLoad_frame {A : List Part} {s0 : State} (p : PolderId) (o : Origin) (tag : BitVec 32) (s : State)
    (hs : s0.agree A s)
    (hw : partsIn [.out, .pins, .sb, .polders, .cad, .keys, .stack, .obj, .fns, .tracer, .power, .free] A = true) :
    s0.agree A (waitForLoad p o tag s) := by
  unfold waitForLoad
  try dsimp only
  repeat' (first
      | with_reducible assumption | (with_reducible intro _) | with_reducible apply beginLoad_frame
      | (with_reducible exact partsIn_trans (by decide) hw) | (with_reducible refine agree_cad ?_ ?_))

theorem keySlotPinCmd_frame {A : List Part} {s0 : State} (bad : Bool) (o : Origin) (tag : BitVec 32)
    (polder : PolderId) (s : State) (hs : s0.agree A s)
    (hw : partsIn [.out, .pins, .sb, .polders, .cad, .keys, .stack, .obj, .fns, .spdm, .tracer, .power, .free] A = true) :
    s0.agree A (keySlotPinCmd bad o tag polder s) := by
  unfold keySlotPinCmd
  try dsimp only
  repeat' (first
      | with_reducible assumption | (with_reducible intro _) | with_reducible apply pend_frame
      | with_reducible apply reply_frame | with_reducible apply runCmd_frame | with_reducible apply setPinned_frame
      | with_reducible apply waitForLoad_frame | (with_reducible exact partsIn_trans (by decide) hw)
      | (with_reducible refine ite_frame ?_ ?_) | split)

theorem execKeySlotPin_frame {A : List Part} {s0 : State} (o : Origin) (tag : BitVec 32) (polder : PolderId)
    (s : State) (hs : s0.agree A s)
    (hw : partsIn [.out, .pins, .sb, .polders, .cad, .keys, .stack, .obj, .fns, .spdm, .tracer, .power, .free] A = true) :
    FrameOut A s0 (execKeySlotPin o tag polder s) := by
  unfold execKeySlotPin
  try dsimp only
  repeat' (first
      | with_reducible exact frameOut_fault | (with_reducible apply frameOut_next)
      | (with_reducible refine frameOut_ite ?_ ?_) | with_reducible assumption | (with_reducible intro _)
      | with_reducible apply keySlotPinCmd_frame | (with_reducible exact partsIn_trans (by decide) hw)
      | (dsimp only))

theorem keySlotUnpinCmd_frame {A : List Part} {s0 : State} (bad : Bool) (o : Origin) (tag : BitVec 32)
    (polder : PolderId) (s : State) (hs : s0.agree A s)
    (hw : partsIn [.out, .pins, .sb, .datum, .polders, .cad, .keys, .link, .stack, .tray, .fau, .rings, .coll, .bars, .sca, .obj, .fns, .spdm, .charts, .tracer, .gauge, .power, .pool, .free] A = true) :
    s0.agree A (keySlotUnpinCmd bad o tag polder s) := by
  unfold keySlotUnpinCmd
  try dsimp only
  repeat' (first
      | with_reducible assumption | (with_reducible intro _) | with_reducible apply reply_frame
      | with_reducible apply resume_frame | with_reducible apply runCmd_frame | with_reducible apply setPinned_frame
      | (with_reducible exact partsIn_trans (by decide) hw) | split)

theorem execKeySlotUnpin_frame {A : List Part} {s0 : State} (o : Origin) (tag : BitVec 32) (polder : PolderId)
    (s : State) (hs : s0.agree A s)
    (hw : partsIn [.out, .pins, .sb, .datum, .polders, .cad, .keys, .link, .stack, .tray, .fau, .rings, .coll, .bars, .sca, .obj, .fns, .spdm, .charts, .tracer, .gauge, .power, .pool, .free] A = true) :
    FrameOut A s0 (execKeySlotUnpin o tag polder s) := by
  unfold execKeySlotUnpin
  try dsimp only
  repeat' (first
      | with_reducible exact frameOut_fault | (with_reducible apply frameOut_next)
      | (with_reducible refine frameOut_ite ?_ ?_) | with_reducible assumption | (with_reducible intro _)
      | with_reducible apply keySlotUnpinCmd_frame | (with_reducible exact partsIn_trans (by decide) hw)
      | (dsimp only))

theorem keySlotStatusCmd_frame {A : List Part} {s0 : State} (bad : Bool) (o : Origin) (tag : BitVec 32)
    (slot : BitVec 8) (s : State) (hs : s0.agree A s)
    (hw : partsIn [.out, .sb, .polders, .keys, .obj, .fns, .spdm, .tracer, .power, .free] A = true) : s0.agree A
    (keySlotStatusCmd bad o tag slot s) := by
  unfold keySlotStatusCmd
  try dsimp only
  repeat' (first
      | with_reducible assumption | (with_reducible intro _) | with_reducible apply reply_frame
      | with_reducible apply runCmd_frame | (with_reducible exact partsIn_trans (by decide) hw)
      | (with_reducible refine ite_frame ?_ ?_) | split)

theorem execKeySlotStatus_frame {A : List Part} {s0 : State} (o : Origin) (tag : BitVec 32) (slot : BitVec 8)
    (s : State) (hs : s0.agree A s)
    (hw : partsIn [.out, .sb, .polders, .keys, .obj, .fns, .spdm, .tracer, .power, .free] A = true) : FrameOut A s0
    (execKeySlotStatus o tag slot s) := by
  unfold execKeySlotStatus
  try dsimp only
  repeat' (first
      | with_reducible exact frameOut_fault | (with_reducible apply frameOut_next)
      | (with_reducible refine frameOut_ite ?_ ?_) | with_reducible assumption | (with_reducible intro _)
      | with_reducible apply keySlotStatusCmd_frame | (with_reducible exact partsIn_trans (by decide) hw)
      | (dsimp only))

end Sys2Proof.Machine
end

