-- ==== Sys2Proof/Laws/FrameDescriptors.lean ====
section
/-! SUPPORT. Which parts of the state the operations of Machine/Descriptors.lean may change (State.agree). -/

namespace Sys2Proof.Machine

theorem takeRemote_frame {A : List Part} {s0 : State} (queue : BitVec 8) (d : Started) (s : State) (hs :
    s0.agree A s)
    (hw : partsIn [.out, .pins, .sb, .polders, .cad, .keys, .link, .stack, .fau, .rings, .obj, .fns, .tracer, .gauge, .power, .free] A = true) :
    s0.agree A (takeRemote queue d s) := by
  unfold takeRemote
  try dsimp only
  repeat' (first
      | with_reducible assumption | with_reducible apply beginDescriptor_frame | with_reducible apply submitOp_frame
      | (with_reducible exact partsIn_trans (by decide) hw) | (with_reducible refine agree_obj ?_ ?_))

theorem execRemoteOp_frame {A : List Part} {s0 : State} (queue : BitVec 8) (s : State) (hs : s0.agree A s)
    (hw : partsIn [.out, .pins, .sb, .polders, .cad, .keys, .link, .stack, .fau, .rings, .obj, .fns, .tracer, .gauge, .power, .free] A = true) :
    FrameOut A s0 (execRemoteOp queue s) := by
  unfold execRemoteOp
  try dsimp only
  repeat' (first
      | with_reducible exact frameOut_fault | (with_reducible apply frameOut_next)
      | (with_reducible refine frameOut_ite ?_ ?_) | with_reducible assumption | (with_reducible intro _)
      | with_reducible apply takeRemote_frame | with_reducible apply withFau_frame
      | (with_reducible exact partsIn_trans (by decide) hw) | (with_reducible refine ite_frame ?_ ?_) | split
      | (dsimp only))

theorem execFenceSignal_frame {A : List Part} {s0 : State} (queue : BitVec 8) (s : State) (hs : s0.agree A s)
    (hw : partsIn [.out, .obj, .fns, .tracer, .free] A = true) : FrameOut A s0 (execFenceSignal queue s) := by
  unfold execFenceSignal
  try dsimp only
  repeat' (first
      | with_reducible exact frameOut_fault | (with_reducible apply frameOut_next)
      | (with_reducible refine frameOut_ite ?_ ?_) | with_reducible assumption | (with_reducible intro _)
      | with_reducible apply endDescriptor_frame | with_reducible apply raiseFence_frame
      | (with_reducible exact partsIn_trans (by decide) hw) | (with_reducible refine ite_frame ?_ ?_) | split
      | (dsimp only))

theorem execFenceWait_frame {A : List Part} {s0 : State} (queue : BitVec 8) (s : State) (hs : s0.agree A s)
    (hw : partsIn [.out, .obj, .fns, .tracer, .free] A = true) : FrameOut A s0 (execFenceWait queue s) := by
  unfold execFenceWait
  try dsimp only
  repeat' (first
      | with_reducible exact frameOut_fault | (with_reducible apply frameOut_next)
      | (with_reducible refine frameOut_ite ?_ ?_) | with_reducible assumption | (with_reducible intro _)
      | with_reducible apply beginDescriptor_frame | with_reducible apply endDescriptor_frame
      | with_reducible apply modFence_frame | (with_reducible exact partsIn_trans (by decide) hw)
      | (with_reducible refine ite_frame ?_ ?_) | split | (dsimp only))

theorem copyRange_frame {A : List Part} {s0 : State} (p : PolderId) (src : Nat) (dst : Nat) (len : Nat) (s : State)
    (hs : s0.agree A s) (hw : partsIn [.stack, .tracer, .gauge] A = true) : s0.agree A
    (copyRange p src dst len s) := by
  unfold copyRange
  try dsimp only
  repeat' (first
      | with_reducible assumption | with_reducible apply stackCount_frame | with_reducible apply stackWrite_frame
      | (with_reducible exact partsIn_trans (by decide) hw))

theorem copyLeaves_frame {A : List Part} {s0 : State} (c : CtxId) (p : PolderId) (addr : Nat) (len : Nat)
    (write : Bool) (s : State) (hs : s0.agree A s)
    (hw : partsIn [.out, .sb, .polders, .obj, .fns, .tracer, .free] A = true) : FrameOpt A s0
    (copyLeaves c p addr len write s) := by
  unfold copyLeaves
  try dsimp only
  repeat' (first
      | with_reducible assumption | with_reducible apply localRefused_frame
      | (with_reducible exact partsIn_trans (by decide) hw) | (with_reducible exact frameOpt_none)
      | (with_reducible apply frameOpt_some) | (refine frame_of_opt (by with_reducible assumption) ?_)
      | (with_reducible refine ite_frame ?_ ?_) | split | (dsimp only))

theorem endCopy_frame {A : List Part} {s0 : State} (queue : BitVec 8) (d : Started) (st : Status) (copied : Nat)
    (s : State) (hs : s0.agree A s) (hw : partsIn [.out, .obj, .fns, .tracer, .free] A = true) : s0.agree A
    (endCopy queue d st copied s) := by
  unfold endCopy
  try dsimp only
  repeat' (first
      | with_reducible assumption | with_reducible apply endDescriptor_frame
      | (with_reducible exact partsIn_trans (by decide) hw))

theorem unitCopied_frame {A : List Part} {s0 : State} (queue : BitVec 8) (d : Started) (len : Nat) (n : Nat)
    (s : State) (hs : s0.agree A s) (hw : partsIn [.out, .obj, .fns, .tracer, .free] A = true) : s0.agree A
    (unitCopied queue d len n s) := by
  unfold unitCopied
  try dsimp only
  repeat' (first
      | with_reducible assumption | (with_reducible intro _) | with_reducible apply endCopy_frame
      | with_reducible apply modQueue_frame | with_reducible apply profAdd_frame
      | (with_reducible exact partsIn_trans (by decide) hw) | (with_reducible refine ite_frame ?_ ?_) | split
      | (with_reducible refine agree_obj ?_ ?_))

theorem performCopy_frame {A : List Part} {s0 : State} (queue : BitVec 8) (d : Started) (c : Context) (src : Nat)
    (dst : Nat) (len : Nat) (s : State) (hs : s0.agree A s)
    (hw : partsIn [.out, .pins, .sb, .polders, .cad, .keys, .stack, .obj, .fns, .tracer, .gauge, .power, .free] A = true) :
    s0.agree A (performCopy queue d c src dst len s) := by
  unfold performCopy
  try dsimp only
  repeat' (first
      | with_reducible assumption | (with_reducible intro _) | with_reducible apply copyLeaves_frame
      | with_reducible apply copyRange_frame | with_reducible apply endCopy_frame
      | with_reducible apply localCheck_frame | with_reducible apply unitCopied_frame
      | (with_reducible exact partsIn_trans (by decide) hw)
      | (refine frame_of_opt (by with_reducible assumption) ?_) | (with_reducible refine ite_pair_frame ?_ ?_)
      | (with_reducible refine ite_trip_frame ?_ ?_) | split
      | (refine frame_of_pair (by with_reducible assumption) ?_)
      | (refine frame_of_trip (by with_reducible assumption) ?_) | (dsimp only))

theorem moveUnit_frame {A : List Part} {s0 : State} (queue : BitVec 8) (d : Started) (c : Context) (s : State) (hs :
    s0.agree A s)
    (hw : partsIn [.out, .pins, .sb, .polders, .cad, .keys, .stack, .sca, .obj, .fns, .tracer, .gauge, .power, .free] A = true) :
    s0.agree A (moveUnit queue d c s) := by
  unfold moveUnit
  try dsimp only
  repeat' (first
      | with_reducible assumption | (with_reducible intro _) | with_reducible apply beginDescriptor_frame
      | with_reducible apply endDescriptor_frame | with_reducible apply modObj_frame
      | with_reducible apply performCopy_frame | with_reducible apply resumeHeld_frame
      | with_reducible apply settleReset_frame | (with_reducible exact partsIn_trans (by decide) hw)
      | (with_reducible refine ite_frame ?_ ?_) | split)

theorem execBulkCopy_frame {A : List Part} {s0 : State} (queue : BitVec 8) (s : State) (hs : s0.agree A s)
    (hw : partsIn [.out, .pins, .sb, .polders, .cad, .keys, .stack, .sca, .obj, .fns, .tracer, .gauge, .power, .free] A = true) :
    FrameOut A s0 (execBulkCopy queue s) := by
  unfold execBulkCopy
  try dsimp only
  repeat' (first
      | with_reducible exact frameOut_fault | (with_reducible apply frameOut_next)
      | (with_reducible refine frameOut_ite ?_ ?_) | with_reducible assumption | (with_reducible intro _)
      | with_reducible apply moveUnit_frame | (with_reducible exact partsIn_trans (by decide) hw)
      | (with_reducible refine ite_frame ?_ ?_) | split | (dsimp only))

theorem recordStepLate_frame {A : List Part} {s0 : State} (x : Context) (h : StepHold) (s : State) (hs :
    s0.agree A s) (hw : partsIn [.polders] A = true) : s0.agree A (recordStepLate x h s) := by
  unfold recordStepLate
  try dsimp only
  repeat' (first
      | with_reducible assumption | (with_reducible intro _) | with_reducible apply modPolder_frame
      | (with_reducible exact partsIn_trans (by decide) hw) | (with_reducible refine ite_frame ?_ ?_) | split)

theorem execStepBegin_frame {A : List Part} {s0 : State} (queue : BitVec 8) (s : State) (hs : s0.agree A s)
    (hw : partsIn [.out, .obj, .fns, .tracer, .free] A = true) : FrameOut A s0 (execStepBegin queue s) := by
  unfold execStepBegin
  try dsimp only
  repeat' (first
      | with_reducible exact frameOut_fault | (with_reducible apply frameOut_next)
      | (with_reducible refine frameOut_ite ?_ ?_) | with_reducible assumption | (with_reducible intro _)
      | with_reducible apply beginDescriptor_frame | with_reducible apply endDescriptor_frame
      | with_reducible apply modContext_frame | (with_reducible exact partsIn_trans (by decide) hw)
      | (with_reducible refine ite_frame ?_ ?_) | split | (dsimp only))

theorem execStepBeginBoundary_frame {A : List Part} {s0 : State} (context : CtxId) (s : State) (hs : s0.agree A s)
    (hw : partsIn [.out, .datum, .polders, .obj, .fns, .tracer, .free] A = true) : FrameOut A s0
    (execStepBeginBoundary context s) := by
  unfold execStepBeginBoundary
  try dsimp only
  repeat' (first
      | with_reducible exact frameOut_fault | (with_reducible apply frameOut_next)
      | (with_reducible refine frameOut_ite ?_ ?_) | with_reducible assumption | (with_reducible intro _)
      | with_reducible apply completeStep_frame | with_reducible apply countLate_frame
      | with_reducible apply endHold_frame | with_reducible apply enqueueMark_frame
      | with_reducible apply modContext_frame | with_reducible apply recordStepLate_frame
      | (with_reducible exact partsIn_trans (by decide) hw) | (with_reducible refine ite_frame ?_ ?_) | split
      | (dsimp only))

theorem fireAction_frame {A : List Part} {s0 : State} (a : MarkAction) (s : State) (hs : s0.agree A s)
    (hw : partsIn [.out, .pins, .sb, .datum, .polders, .cad, .keys, .link, .stack, .tray, .fau, .rings, .coll, .bars, .sca, .obj, .fns, .charts, .tracer, .gauge, .power, .pool, .free] A = true) :
    s0.agree A (fireAction a s) := by
  unfold fireAction
  try dsimp only
  repeat' (first
      | with_reducible assumption | with_reducible apply activateRing_frame
      | with_reducible apply beginRingDestroy_frame | with_reducible apply completeStep_frame
      | with_reducible apply fireLaunch_frame | with_reducible apply groupUsable_frame
      | with_reducible apply resume_frame | with_reducible apply resumeChart_frame
      | with_reducible apply setMembers_frame | (with_reducible exact partsIn_trans (by decide) hw)
      | (with_reducible apply id_frame) | split)

theorem execMarkFire_frame {A : List Part} {s0 : State} (s : State) (hs : s0.agree A s)
    (hw : partsIn [.out, .pins, .sb, .datum, .polders, .cad, .keys, .link, .stack, .tray, .fau, .rings, .coll, .bars, .sca, .obj, .fns, .charts, .tracer, .gauge, .power, .pool, .free] A = true) :
    FrameOut A s0 (execMarkFire s) := by
  unfold execMarkFire
  try dsimp only
  repeat' (first
      | with_reducible exact frameOut_fault | (with_reducible apply frameOut_next)
      | (with_reducible refine frameOut_ite ?_ ?_) | with_reducible assumption | (with_reducible intro _)
      | with_reducible apply emitTrace_frame | with_reducible apply fireAction_frame
      | with_reducible apply modDatum_frame | (with_reducible exact partsIn_trans (by decide) hw)
      | (with_reducible refine ite_frame ?_ ?_) | split | (dsimp only))

end Sys2Proof.Machine
end

