-- ==== Sys2Proof/Laws/FrameDevices.lean ====
section
/-! SUPPORT. Which parts of the state the operations of Machine/Devices.lean may change (State.agree). -/

namespace Sys2Proof.Machine

theorem stackReadReturn_frame {A : List Part} {s0 : State} (index : Nat) (data : Bytes) (uncorrectable : Bool)
    (s : State) (hs : s0.agree A s)
    (hw : partsIn [.out, .pins, .sb, .datum, .polders, .cad, .keys, .link, .stack, .tray, .fau, .rings, .coll, .bars, .sca, .obj, .fns, .charts, .tracer, .gauge, .power, .pool, .free] A = true) :
    s0.agree A (stackReadReturn index data uncorrectable s) := by
  unfold stackReadReturn
  try dsimp only
  repeat' (first
      | with_reducible assumption | (with_reducible intro _) | with_reducible apply resume_frame
      | with_reducible apply stackReturn_frame | with_reducible apply withDomain_frame
      | (with_reducible exact partsIn_trans (by decide) hw) | (with_reducible refine ite_frame ?_ ?_) | split)

theorem trayReadReturn_frame {A : List Part} {s0 : State} (device : Nat) (offset : Nat) (data : Bytes)
    (uncorrectable : Bool) (s : State) (hs : s0.agree A s)
    (hw : partsIn [.out, .pins, .sb, .polders, .tray, .obj, .fns, .weirs, .tracer, .power, .free] A = true) :
    s0.agree A (trayReadReturn device offset data uncorrectable s) := by
  unfold trayReadReturn
  try dsimp only
  repeat' (first
      | with_reducible assumption | (with_reducible intro _) | with_reducible apply deviceError_frame
      | with_reducible apply deviceReturned_frame | with_reducible apply withDomains_frame
      | (with_reducible exact partsIn_trans (by decide) hw) | (with_reducible refine ite_frame ?_ ?_)
      | (with_reducible refine ite_pair_frame ?_ ?_) | (with_reducible refine ite_trip_frame ?_ ?_) | split
      | (dsimp only))

theorem execDeviceReadReturn_frame {A : List Part} {s0 : State} (read : DeviceRead) (data : Bytes)
    (uncorrectable : Bool) (s : State) (hs : s0.agree A s)
    (hw : partsIn [.out, .pins, .sb, .datum, .polders, .cad, .keys, .link, .stack, .tray, .fau, .rings, .coll, .bars, .sca, .obj, .fns, .weirs, .charts, .tracer, .gauge, .power, .pool, .free] A = true) :
    FrameOut A s0 (execDeviceReadReturn read data uncorrectable s) := by
  unfold execDeviceReadReturn
  try dsimp only
  repeat' (first
      | with_reducible exact frameOut_fault | (with_reducible apply frameOut_next)
      | (with_reducible refine frameOut_ite ?_ ?_) | with_reducible assumption | (with_reducible intro _)
      | with_reducible apply stackReadReturn_frame | with_reducible apply trayReadReturn_frame
      | (with_reducible exact partsIn_trans (by decide) hw) | (with_reducible refine ite_frame ?_ ?_) | split
      | (dsimp only))

end Sys2Proof.Machine
end

