-- ==== Sys2Proof/Laws/FrameFunctions.lean ====
section
/-! SUPPORT. Which parts of the state the operations of Machine/Functions.lean may change (State.agree). -/

namespace Sys2Proof.Machine

theorem dropSpdm_frame {A : List Part} {s0 : State} (sl : Sluice) (s : State) (hs : s0.agree A s)
    (hw : partsIn [.spdm] A = true) : s0.agree A (dropSpdm sl s) := by
  unfold dropSpdm
  try dsimp only
  repeat' (first
      | with_reducible assumption | (with_reducible intro _) | (with_reducible exact partsIn_trans (by decide) hw)
      | (with_reducible refine agree_spdm ?_ ?_))

theorem endFnCharts_frame {A : List Part} {s0 : State} (n : VfId) (s : State) (hs : s0.agree A s)
    (hw : partsIn [.out, .pins, .sb, .datum, .polders, .cad, .keys, .stack, .sca, .obj, .fns, .charts, .tracer, .gauge, .power, .pool, .free] A = true) :
    s0.agree A (endFnCharts n s) := by
  unfold endFnCharts
  try dsimp only
  repeat' (first
      | with_reducible assumption | (with_reducible intro _) | with_reducible apply endExport_frame
      | with_reducible apply endImport_frame | with_reducible apply thawChart_frame
      | (with_reducible exact partsIn_trans (by decide) hw) | (with_reducible apply foldl_frame)
      | (with_reducible refine ite_frame ?_ ?_) | split | (dsimp only))

theorem startFnReset_frame {A : List Part} {s0 : State} (n : VfId) (waiters : List (Origin × BitVec 32)) (s : State)
    (hs : s0.agree A s)
    (hw : partsIn [.out, .pins, .sb, .datum, .polders, .cad, .keys, .stack, .sca, .obj, .fns, .spdm, .charts, .tracer, .gauge, .power, .pool, .free] A = true) :
    s0.agree A (startFnReset n waiters s) := by
  unfold startFnReset
  try dsimp only
  repeat' (first
      | with_reducible assumption | (with_reducible intro _) | with_reducible apply dropSpdm_frame
      | with_reducible apply endFnCharts_frame | with_reducible apply modVf_frame
      | with_reducible apply squashQueue_frame | (with_reducible exact partsIn_trans (by decide) hw)
      | (with_reducible apply foldl_frame) | split | (with_reducible refine agree_fns ?_ ?_) | (dsimp only))

theorem squashStarted_frame {A : List Part} {s0 : State} (fn : FnId) (s : State) (hs : s0.agree A s)
    (hw : partsIn [.out, .obj, .fns, .tracer, .free] A = true) : s0.agree A (squashStarted fn s) := by
  unfold squashStarted
  try dsimp only
  repeat' (first
      | with_reducible assumption | (with_reducible intro _) | with_reducible apply endDescriptor_frame
      | (with_reducible exact partsIn_trans (by decide) hw) | (with_reducible apply foldl_frame) | (dsimp only))

theorem dropFnObjects_frame {A : List Part} {s0 : State} (fn : FnId) (s : State) (hs : s0.agree A s)
    (hw : partsIn [.out, .pins, .sb, .datum, .polders, .cad, .keys, .link, .stack, .tray, .fau, .rings, .coll, .bars, .sca, .obj, .fns, .charts, .tracer, .gauge, .power, .pool, .free] A = true) :
    s0.agree A (dropFnObjects fn s) := by
  unfold dropFnObjects
  try dsimp only
  repeat' (first
      | with_reducible assumption | (with_reducible intro _) | with_reducible apply abandonFence_frame
      | with_reducible apply beginDestroy_frame | with_reducible apply finishAll_frame
      | with_reducible apply freeContext_frame | with_reducible apply modObj_frame
      | with_reducible apply squashStarted_frame | (with_reducible exact partsIn_trans (by decide) hw)
      | (with_reducible apply foldl_frame) | (dsimp only))

theorem drainFn_frame {A : List Part} {s0 : State} (n : VfId) (r : FnReset) (s : State) (hs : s0.agree A s)
    (hw : partsIn [.out, .pins, .sb, .datum, .polders, .cad, .keys, .link, .stack, .tray, .fau, .rings, .coll, .bars, .sca, .obj, .fns, .charts, .tracer, .gauge, .power, .pool, .free] A = true) :
    s0.agree A (drainFn n r s) := by
  unfold drainFn
  try dsimp only
  repeat' (first
      | with_reducible assumption | (with_reducible intro _) | with_reducible apply beginTeardown_frame
      | with_reducible apply dropFnObjects_frame | with_reducible apply modVf_frame
      | with_reducible apply squashStarted_frame | with_reducible apply squashWork_frame
      | (with_reducible exact partsIn_trans (by decide) hw) | (with_reducible apply foldl_frame) | (dsimp only))

theorem execFunctionResetDrained_frame {A : List Part} {s0 : State} (vf : VfId) (s : State) (hs : s0.agree A s)
    (hw : partsIn [.out, .pins, .sb, .datum, .polders, .cad, .keys, .link, .stack, .tray, .fau, .rings, .coll, .bars, .sca, .obj, .fns, .charts, .tracer, .gauge, .power, .pool, .free] A = true) :
    FrameOut A s0 (execFunctionResetDrained vf s) := by
  unfold execFunctionResetDrained
  try dsimp only
  repeat' (first
      | with_reducible exact frameOut_fault | (with_reducible apply frameOut_next)
      | (with_reducible refine frameOut_ite ?_ ?_) | with_reducible assumption | (with_reducible intro _)
      | with_reducible apply drainFn_frame | with_reducible apply resume_frame
      | (with_reducible exact partsIn_trans (by decide) hw) | (with_reducible refine ite_frame ?_ ?_) | split
      | (dsimp only))

theorem completeFnReset_frame {A : List Part} {s0 : State} (n : VfId) (r : FnReset) (s : State) (hs : s0.agree A s)
    (hw : partsIn [.out, .obj, .fns, .tracer] A = true) : s0.agree A (completeFnReset n r s) := by
  unfold completeFnReset
  try dsimp only
  repeat' (first
      | with_reducible assumption | (with_reducible intro _) | with_reducible apply emit_frame
      | with_reducible apply finishAll_frame | with_reducible apply modVf_frame
      | (with_reducible exact partsIn_trans (by decide) hw))

theorem execFunctionResetDone_frame {A : List Part} {s0 : State} (vf : VfId) (s : State) (hs : s0.agree A s)
    (hw : partsIn [.out, .obj, .fns, .tracer] A = true) : FrameOut A s0 (execFunctionResetDone vf s) := by
  unfold execFunctionResetDone
  try dsimp only
  repeat' (first
      | with_reducible exact frameOut_fault | (with_reducible apply frameOut_next)
      | (with_reducible refine frameOut_ite ?_ ?_) | with_reducible assumption | (with_reducible intro _)
      | with_reducible apply completeFnReset_frame | (with_reducible exact partsIn_trans (by decide) hw)
      | (with_reducible refine ite_frame ?_ ?_) | split | (dsimp only))

theorem execFuncEn_frame {A : List Part} {s0 : State} (vf : VfId) (enable : Bool) (s : State) (hs : s0.agree A s)
    (hw : partsIn [.out, .pins, .sb, .datum, .polders, .cad, .keys, .stack, .sca, .obj, .fns, .spdm, .charts, .tracer, .gauge, .power, .pool, .free] A = true) :
    FrameOut A s0 (execFuncEn vf enable s) := by
  unfold execFuncEn
  try dsimp only
  repeat' (first
      | with_reducible exact frameOut_fault | (with_reducible apply frameOut_next)
      | (with_reducible refine frameOut_ite ?_ ?_) | with_reducible assumption | (with_reducible intro _)
      | with_reducible apply modVf_frame | with_reducible apply startFnReset_frame
      | (with_reducible exact partsIn_trans (by decide) hw) | (with_reducible refine ite_frame ?_ ?_) | split
      | (dsimp only))

theorem execFlrReq_frame {A : List Part} {s0 : State} (vf : VfId) (s : State) (hs : s0.agree A s)
    (hw : partsIn [.out, .pins, .sb, .datum, .polders, .cad, .keys, .stack, .sca, .obj, .fns, .spdm, .charts, .tracer, .gauge, .power, .pool, .free] A = true) :
    FrameOut A s0 (execFlrReq vf s) := by
  unfold execFlrReq
  try dsimp only
  repeat' (first
      | with_reducible exact frameOut_fault | (with_reducible apply frameOut_next)
      | (with_reducible refine frameOut_ite ?_ ?_) | with_reducible assumption | (with_reducible intro _)
      | with_reducible apply startFnReset_frame | (with_reducible exact partsIn_trans (by decide) hw)
      | (with_reducible refine ite_frame ?_ ?_) | split | (dsimp only))

theorem resetVfCmd_frame {A : List Part} {s0 : State} (bad : Bool) (o : Origin) (tag : BitVec 32) (vf : BitVec 16)
    (s : State) (hs : s0.agree A s)
    (hw : partsIn [.out, .pins, .sb, .datum, .polders, .cad, .keys, .stack, .sca, .obj, .fns, .spdm, .charts, .tracer, .gauge, .power, .pool, .free] A = true) :
    s0.agree A (resetVfCmd bad o tag vf s) := by
  unfold resetVfCmd
  try dsimp only
  repeat' (first
      | with_reducible assumption | (with_reducible intro _) | with_reducible apply pend_frame
      | with_reducible apply runCmd_frame | with_reducible apply startFnReset_frame
      | (with_reducible exact partsIn_trans (by decide) hw) | split)

theorem execResetVf_frame {A : List Part} {s0 : State} (o : Origin) (tag : BitVec 32) (vf : BitVec 16) (s : State)
    (hs : s0.agree A s)
    (hw : partsIn [.out, .pins, .sb, .datum, .polders, .cad, .keys, .stack, .sca, .obj, .fns, .spdm, .charts, .tracer, .gauge, .power, .pool, .free] A = true) :
    FrameOut A s0 (execResetVf o tag vf s) := by
  unfold execResetVf
  try dsimp only
  repeat' (first
      | with_reducible exact frameOut_fault | (with_reducible apply frameOut_next)
      | (with_reducible refine frameOut_ite ?_ ?_) | with_reducible assumption | (with_reducible intro _)
      | with_reducible apply resetVfCmd_frame | (with_reducible exact partsIn_trans (by decide) hw) | (dsimp only))

theorem badReq_frame {A : List Part} {s0 : State} (n : VfId) (s : State) (hs : s0.agree A s)
    (hw : partsIn [.fns] A = true) : s0.agree A (badReq n s) := by
  unfold badReq
  try dsimp only
  repeat' (first
      | with_reducible assumption | (with_reducible intro _) | with_reducible apply modVf_frame
      | (with_reducible exact partsIn_trans (by decide) hw))

theorem vfError_frame {A : List Part} {s0 : State} (n : VfId) (cause : BitVec 4) (s : State) (hs : s0.agree A s)
    (hw : partsIn [.fns] A = true) : s0.agree A (vfError n cause s) := by
  unfold vfError
  try dsimp only
  repeat' (first
      | with_reducible assumption | (with_reducible intro _) | with_reducible apply modVf_frame
      | (with_reducible exact partsIn_trans (by decide) hw))

theorem reqLock_frame {A : List Part} {s0 : State} (vf : VfId) (s : State) (hs : s0.agree A s)
    (hw : partsIn [.fns] A = true) : s0.agree A (reqLock vf s) := by
  unfold reqLock
  try dsimp only
  repeat' (first
      | with_reducible assumption | (with_reducible intro _) | with_reducible apply badReq_frame
      | with_reducible apply modVf_frame | (with_reducible exact partsIn_trans (by decide) hw)
      | (with_reducible refine ite_frame ?_ ?_) | split)

theorem execStateReqLock_frame {A : List Part} {s0 : State} (vf : VfId) (s : State) (hs : s0.agree A s)
    (hw : partsIn [.fns] A = true) : FrameOut A s0 (execStateReqLock vf s) := by
  unfold execStateReqLock
  try dsimp only
  repeat' (first
      | with_reducible exact frameOut_fault | (with_reducible apply frameOut_next)
      | (with_reducible refine frameOut_ite ?_ ?_) | with_reducible assumption | (with_reducible intro _)
      | with_reducible apply reqLock_frame | (with_reducible exact partsIn_trans (by decide) hw) | (dsimp only))

theorem reqRun_frame {A : List Part} {s0 : State} (vf : VfId) (s : State) (hs : s0.agree A s)
    (hw : partsIn [.fns] A = true) : s0.agree A (reqRun vf s) := by
  unfold reqRun
  try dsimp only
  repeat' (first
      | with_reducible assumption | (with_reducible intro _) | with_reducible apply badReq_frame
      | with_reducible apply modVf_frame | (with_reducible exact partsIn_trans (by decide) hw)
      | (with_reducible refine ite_frame ?_ ?_) | split)

theorem execStateReqRun_frame {A : List Part} {s0 : State} (vf : VfId) (s : State) (hs : s0.agree A s)
    (hw : partsIn [.fns] A = true) : FrameOut A s0 (execStateReqRun vf s) := by
  unfold execStateReqRun
  try dsimp only
  repeat' (first
      | with_reducible exact frameOut_fault | (with_reducible apply frameOut_next)
      | (with_reducible refine frameOut_ite ?_ ?_) | with_reducible assumption | (with_reducible intro _)
      | with_reducible apply reqRun_frame | (with_reducible exact partsIn_trans (by decide) hw) | (dsimp only))

theorem reqUnlock_frame {A : List Part} {s0 : State} (vf : VfId) (s : State) (hs : s0.agree A s)
    (hw : partsIn [.out, .pins, .sb, .datum, .polders, .cad, .keys, .stack, .sca, .obj, .fns, .spdm, .charts, .tracer, .gauge, .power, .pool, .free] A = true) :
    s0.agree A (reqUnlock vf s) := by
  unfold reqUnlock
  try dsimp only
  repeat' (first
      | with_reducible assumption | with_reducible apply badReq_frame | with_reducible apply startFnReset_frame
      | (with_reducible exact partsIn_trans (by decide) hw) | (with_reducible refine ite_frame ?_ ?_) | split)

theorem execStateReqUnlock_frame {A : List Part} {s0 : State} (vf : VfId) (s : State) (hs : s0.agree A s)
    (hw : partsIn [.out, .pins, .sb, .datum, .polders, .cad, .keys, .stack, .sca, .obj, .fns, .spdm, .charts, .tracer, .gauge, .power, .pool, .free] A = true) :
    FrameOut A s0 (execStateReqUnlock vf s) := by
  unfold execStateReqUnlock
  try dsimp only
  repeat' (first
      | with_reducible exact frameOut_fault | (with_reducible apply frameOut_next)
      | (with_reducible refine frameOut_ite ?_ ?_) | with_reducible assumption | (with_reducible intro _)
      | with_reducible apply reqUnlock_frame | (with_reducible exact partsIn_trans (by decide) hw) | (dsimp only))

theorem writeAllot_frame {A : List Part} {s0 : State} (vf : VfId) (second : Bool) (value : BitVec 32) (s : State)
    (hs : s0.agree A s) (hw : partsIn [.fns] A = true) : s0.agree A (writeAllot vf second value s) := by
  unfold writeAllot
  try dsimp only
  repeat' (first
      | with_reducible assumption | (with_reducible intro _) | with_reducible apply modVf_frame
      | with_reducible apply vfError_frame | (with_reducible exact partsIn_trans (by decide) hw)
      | (with_reducible refine ite_frame ?_ ?_) | split)

theorem execAllotWrite_frame {A : List Part} {s0 : State} (vf : VfId) (second : Bool) (value : BitVec 32)
    (s : State) (hs : s0.agree A s) (hw : partsIn [.fns] A = true) : FrameOut A s0
    (execAllotWrite vf second value s) := by
  unfold execAllotWrite
  try dsimp only
  repeat' (first
      | with_reducible exact frameOut_fault | (with_reducible apply frameOut_next)
      | (with_reducible refine frameOut_ite ?_ ?_) | with_reducible assumption | (with_reducible intro _)
      | with_reducible apply writeAllot_frame | (with_reducible exact partsIn_trans (by decide) hw) | (dsimp only))

theorem setDirty_frame {A : List Part} {s0 : State} (vf : VfId) (enable : Bool) (s : State) (hs : s0.agree A s)
    (hw : partsIn [.out, .fns] A = true) : s0.agree A (setDirty vf enable s) := by
  unfold setDirty
  try dsimp only
  repeat' (first
      | with_reducible assumption | (with_reducible intro _) | with_reducible apply modVf_frame
      | with_reducible apply writeBackDirty_frame | (with_reducible exact partsIn_trans (by decide) hw)
      | (with_reducible refine ite_frame ?_ ?_) | split)

theorem execDirtyEnable_frame {A : List Part} {s0 : State} (vf : VfId) (enable : Bool) (s : State) (hs :
    s0.agree A s) (hw : partsIn [.out, .fns] A = true) : FrameOut A s0 (execDirtyEnable vf enable s) := by
  unfold execDirtyEnable
  try dsimp only
  repeat' (first
      | with_reducible exact frameOut_fault | (with_reducible apply frameOut_next)
      | (with_reducible refine frameOut_ite ?_ ?_) | with_reducible assumption | (with_reducible intro _)
      | with_reducible apply setDirty_frame | (with_reducible exact partsIn_trans (by decide) hw) | (dsimp only))

theorem completeSwap_frame {A : List Part} {s0 : State} (n : VfId) (s : State) (hs : s0.agree A s)
    (hw : partsIn [.fns] A = true) : s0.agree A (completeSwap n s) := by
  unfold completeSwap
  try dsimp only
  repeat' (first
      | with_reducible assumption | (with_reducible intro _) | with_reducible apply modVf_frame
      | (with_reducible exact partsIn_trans (by decide) hw))

theorem setSwap_frame {A : List Part} {s0 : State} (vf : VfId) (s : State) (hs : s0.agree A s)
    (hw : partsIn [.out, .fns] A = true) : s0.agree A (setSwap vf s) := by
  unfold setSwap
  try dsimp only
  repeat' (first
      | with_reducible assumption | (with_reducible intro _) | with_reducible apply completeSwap_frame
      | with_reducible apply modVf_frame | with_reducible apply writeBackDirty_frame
      | (with_reducible exact partsIn_trans (by decide) hw) | (with_reducible refine ite_frame ?_ ?_) | split)

theorem execSwap_frame {A : List Part} {s0 : State} (vf : VfId) (s : State) (hs : s0.agree A s)
    (hw : partsIn [.out, .fns] A = true) : FrameOut A s0 (execSwap vf s) := by
  unfold execSwap
  try dsimp only
  repeat' (first
      | with_reducible exact frameOut_fault | (with_reducible apply frameOut_next)
      | (with_reducible refine frameOut_ite ?_ ?_) | with_reducible assumption | (with_reducible intro _)
      | with_reducible apply setSwap_frame | (with_reducible exact partsIn_trans (by decide) hw) | (dsimp only))

theorem recordDone_frame {A : List Part} {s0 : State} (fn : FnId) (ring : BitVec 9) (s : State) (hs : s0.agree A s)
    (hw : partsIn [.out, .obj, .fns, .tracer] A = true) : s0.agree A (recordDone fn ring s) := by
  unfold recordDone
  try dsimp only
  repeat' (first
      | with_reducible assumption | (with_reducible intro _) | with_reducible apply modRing_frame
      | with_reducible apply settleRing_frame | (with_reducible exact partsIn_trans (by decide) hw))

theorem execHostPathFailure_frame {A : List Part} {s0 : State} (fn : FnId) (what : HostFailure) (s : State) (hs :
    s0.agree A s) (hw : partsIn [.out, .obj, .fns, .tracer] A = true) : FrameOut A s0
    (execHostPathFailure fn what s) := by
  unfold execHostPathFailure
  try dsimp only
  repeat' (first
      | with_reducible exact frameOut_fault | (with_reducible apply frameOut_next)
      | (with_reducible refine frameOut_ite ?_ ?_) | with_reducible assumption | (with_reducible intro _)
      | with_reducible apply recordDone_frame | with_reducible apply vfError_frame
      | (with_reducible exact partsIn_trans (by decide) hw) | (with_reducible refine ite_frame ?_ ?_) | split
      | (dsimp only))

theorem execHostRequestComplete_frame {A : List Part} {s0 : State} (what : HostDone) (s : State) (hs : s0.agree A s)
    (hw : partsIn [.out, .obj, .fns, .tracer] A = true) : FrameOut A s0 (execHostRequestComplete what s) := by
  unfold execHostRequestComplete
  try dsimp only
  repeat' (first
      | with_reducible exact frameOut_fault | (with_reducible apply frameOut_next)
      | (with_reducible refine frameOut_ite ?_ ?_) | with_reducible assumption | (with_reducible intro _)
      | with_reducible apply completeSwap_frame | with_reducible apply recordDone_frame
      | (with_reducible exact partsIn_trans (by decide) hw) | (with_reducible refine ite_frame ?_ ?_) | split
      | (dsimp only))

theorem advanceHead_frame {A : List Part} {s0 : State} (q : BitVec 8) (s : State) (hs : s0.agree A s)
    (hw : partsIn [.obj] A = true) : s0.agree A (advanceHead q s) := by
  unfold advanceHead
  try dsimp only
  repeat' (first
      | with_reducible assumption | (with_reducible intro _) | with_reducible apply modQueue_frame
      | with_reducible apply passAhead_frame | (with_reducible exact partsIn_trans (by decide) hw))

theorem haltQueue_frame {A : List Part} {s0 : State} (x : Queue) (ctag : BitVec 16) (s : State) (hs : s0.agree A s)
    (hw : partsIn [.out, .sb, .polders, .obj, .fns, .tracer, .free] A = true) : s0.agree A
    (haltQueue x ctag s) := by
  unfold haltQueue
  try dsimp only
  repeat' (first
      | with_reducible assumption | (with_reducible intro _) | with_reducible apply advanceHead_frame
      | with_reducible apply endUnstarted_frame | with_reducible apply modQueue_frame
      | with_reducible apply writeFault_frame | (with_reducible exact partsIn_trans (by decide) hw))

theorem startDescriptor_frame {A : List Part} {s0 : State} (x : Queue) (d : Bytes) (s : State) (hs : s0.agree A s)
    (hw : partsIn [.out, .obj, .fns, .tracer, .free] A = true) : s0.agree A (startDescriptor x d s) := by
  unfold startDescriptor
  try dsimp only
  repeat' (first
      | with_reducible assumption | (with_reducible intro _) | with_reducible apply advanceHead_frame
      | with_reducible apply emitTrace_frame | with_reducible apply endUnstarted_frame
      | with_reducible apply modQueue_frame | with_reducible apply profResetQueue_frame
      | (with_reducible exact partsIn_trans (by decide) hw) | (with_reducible refine ite_frame ?_ ?_) | split)

theorem execDescriptorFetch_frame {A : List Part} {s0 : State} (queue : BitVec 8) (data : Option Bytes) (s : State)
    (hs : s0.agree A s) (hw : partsIn [.out, .sb, .polders, .obj, .fns, .tracer, .free] A = true) : FrameOut A s0
    (execDescriptorFetch queue data s) := by
  unfold execDescriptorFetch
  try dsimp only
  repeat' (first
      | with_reducible exact frameOut_fault | (with_reducible apply frameOut_next)
      | (with_reducible refine frameOut_ite ?_ ?_) | with_reducible assumption | (with_reducible intro _)
      | with_reducible apply haltQueue_frame | with_reducible apply startDescriptor_frame
      | with_reducible apply tookFree_frame | with_reducible apply vfError_frame
      | (with_reducible exact partsIn_trans (by decide) hw) | (with_reducible refine ite_frame ?_ ?_) | split
      | (dsimp only))

theorem countIgnored_frame {A : List Part} {s0 : State} (fn : FnId) (s : State) (hs : s0.agree A s)
    (hw : partsIn [.tracer] A = true) : s0.agree A (countIgnored fn s) := by
  unfold countIgnored
  try dsimp only
  repeat' (first
      | with_reducible assumption | with_reducible apply count_frame
      | (with_reducible exact partsIn_trans (by decide) hw) | (with_reducible refine ite_frame ?_ ?_) | split)

theorem writeTail_frame {A : List Part} {s0 : State} (fn : FnId) (queue : BitVec 8) (value : BitVec 32) (s : State)
    (hs : s0.agree A s) (hw : partsIn [.obj, .tracer] A = true) : s0.agree A (writeTail fn queue value s) := by
  unfold writeTail
  try dsimp only
  repeat' (first
      | with_reducible assumption | (with_reducible intro _) | with_reducible apply countIgnored_frame
      | with_reducible apply modQueue_frame | (with_reducible exact partsIn_trans (by decide) hw)
      | (with_reducible refine ite_frame ?_ ?_) | split)

theorem execQueueDoorbell_frame {A : List Part} {s0 : State} (fn : FnId) (queue : BitVec 8) (value : BitVec 32)
    (s : State) (hs : s0.agree A s) (hw : partsIn [.obj, .tracer] A = true) : FrameOut A s0
    (execQueueDoorbell fn queue value s) := by
  unfold execQueueDoorbell
  try dsimp only
  repeat' (first
      | with_reducible exact frameOut_fault | (with_reducible apply frameOut_next)
      | (with_reducible refine frameOut_ite ?_ ?_) | with_reducible assumption | (with_reducible intro _)
      | with_reducible apply writeTail_frame | (with_reducible exact partsIn_trans (by decide) hw) | (dsimp only))

theorem writeHead_frame {A : List Part} {s0 : State} (fn : FnId) (ring : BitVec 9) (head : BitVec 16) (s : State)
    (hs : s0.agree A s) (hw : partsIn [.obj, .tracer] A = true) : s0.agree A (writeHead fn ring head s) := by
  unfold writeHead
  try dsimp only
  repeat' (first
      | with_reducible assumption | (with_reducible intro _) | with_reducible apply countIgnored_frame
      | with_reducible apply modRing_frame | (with_reducible exact partsIn_trans (by decide) hw)
      | (with_reducible refine ite_frame ?_ ?_) | split)

theorem execEventRingHead_frame {A : List Part} {s0 : State} (fn : FnId) (ring : BitVec 9) (head : BitVec 16)
    (s : State) (hs : s0.agree A s) (hw : partsIn [.obj, .tracer] A = true) : FrameOut A s0
    (execEventRingHead fn ring head s) := by
  unfold execEventRingHead
  try dsimp only
  repeat' (first
      | with_reducible exact frameOut_fault | (with_reducible apply frameOut_next)
      | (with_reducible refine frameOut_ite ?_ ?_) | with_reducible assumption | (with_reducible intro _)
      | with_reducible apply writeHead_frame | (with_reducible exact partsIn_trans (by decide) hw) | (dsimp only))

theorem execEventRingSpaceReturn_frame {A : List Part} {s0 : State} (fn : FnId) (ring : BitVec 9) (s : State) (hs :
    s0.agree A s) (hw : partsIn [.out, .obj, .fns] A = true) : FrameOut A s0
    (execEventRingSpaceReturn fn ring s) := by
  unfold execEventRingSpaceReturn
  try dsimp only
  repeat' (first
      | with_reducible exact frameOut_fault | (with_reducible apply frameOut_next)
      | (with_reducible refine frameOut_ite ?_ ?_) | with_reducible assumption | (with_reducible intro _)
      | with_reducible apply flushRing_frame | (with_reducible exact partsIn_trans (by decide) hw)
      | (with_reducible refine ite_frame ?_ ?_) | (with_reducible refine ite_pair_frame ?_ ?_)
      | (with_reducible refine ite_trip_frame ?_ ?_) | split
      | (refine frame_of_pair (by with_reducible assumption) ?_)
      | (refine frame_of_trip (by with_reducible assumption) ?_) | (dsimp only))

theorem setArm_frame {A : List Part} {s0 : State} (fn : FnId) (ring : BitVec 9) (s : State) (hs : s0.agree A s)
    (hw : partsIn [.out, .obj] A = true) : s0.agree A (setArm fn ring s) := by
  unfold setArm
  try dsimp only
  repeat' (first
      | with_reducible assumption | (with_reducible intro _) | with_reducible apply emit_frame
      | with_reducible apply modRing_frame | (with_reducible exact partsIn_trans (by decide) hw)
      | (with_reducible refine ite_frame ?_ ?_) | split)

theorem execArm_frame {A : List Part} {s0 : State} (fn : FnId) (ring : BitVec 9) (s : State) (hs : s0.agree A s)
    (hw : partsIn [.out, .obj] A = true) : FrameOut A s0 (execArm fn ring s) := by
  unfold execArm
  try dsimp only
  repeat' (first
      | with_reducible exact frameOut_fault | (with_reducible apply frameOut_next)
      | (with_reducible refine frameOut_ite ?_ ?_) | with_reducible assumption | (with_reducible intro _)
      | with_reducible apply setArm_frame | (with_reducible exact partsIn_trans (by decide) hw) | (dsimp only))

end Sys2Proof.Machine
end

