-- ==== Sys2Proof/Laws/FrameHangs.lean ====
section
/-! SUPPORT. Which parts of the state the operations of Machine/Hangs.lean may change (State.agree). -/

namespace Sys2Proof.Machine

theorem beginHang_frame {A : List Part} {s0 : State} (unit : BitVec 16) (sampled : Bool) (waiters : List
    (Origin × BitVec 32)) (s : State) (hs : s0.agree A s)
    (hw : partsIn [.out, .pins, .sb, .datum, .polders, .cad, .keys, .link, .stack, .tray, .fau, .rings, .coll, .bars, .sca, .obj, .fns, .charts, .tracer, .gauge, .power, .pool, .free] A = true) :
    s0.agree A (beginHang unit sampled waiters s) := by
  unfold beginHang
  try dsimp only
  repeat' (first
      | with_reducible assumption | (with_reducible intro _) | with_reducible apply advanceHang_frame
      | with_reducible apply modTracer_frame | with_reducible apply resetEngine_frame
      | with_reducible apply takeSample_frame | with_reducible apply writeFault_frame
      | (with_reducible exact partsIn_trans (by decide) hw) | (with_reducible refine ite_frame ?_ ?_) | split)

theorem faultSuspect_frame {A : List Part} {s0 : State} (unit : BitVec 16) (c : CtxId) (s : State) (hs :
    s0.agree A s)
    (hw : partsIn [.out, .pins, .sb, .datum, .polders, .cad, .keys, .link, .stack, .tray, .fau, .rings, .coll, .bars, .sca, .obj, .fns, .charts, .tracer, .gauge, .power, .pool, .free] A = true) :
    s0.agree A (faultSuspect unit c s) := by
  unfold faultSuspect
  try dsimp only
  repeat' (first
      | with_reducible assumption | with_reducible apply advanceHang_frame | with_reducible apply resetEngine_frame
      | with_reducible apply settleReset_frame | with_reducible apply squashIn_frame
      | with_reducible apply stopContext_frame | with_reducible apply writeFault_frame
      | (with_reducible exact partsIn_trans (by decide) hw))

theorem execEngineWatchdogExpiry_frame {A : List Part} {s0 : State} (unit : BitVec 16) (s : State) (hs :
    s0.agree A s)
    (hw : partsIn [.out, .pins, .sb, .datum, .polders, .cad, .keys, .link, .stack, .tray, .fau, .rings, .coll, .bars, .sca, .obj, .fns, .charts, .tracer, .gauge, .power, .pool, .free] A = true) :
    FrameOut A s0 (execEngineWatchdogExpiry unit s) := by
  unfold execEngineWatchdogExpiry
  try dsimp only
  repeat' (first
      | with_reducible exact frameOut_fault | (with_reducible apply frameOut_next)
      | (with_reducible refine frameOut_ite ?_ ?_) | with_reducible assumption | (with_reducible intro _)
      | with_reducible apply beginHang_frame | with_reducible apply countEvent_frame
      | with_reducible apply faultSuspect_frame | with_reducible apply leaveService_frame
      | (with_reducible exact partsIn_trans (by decide) hw) | (with_reducible refine ite_frame ?_ ?_) | split
      | (dsimp only))

theorem execSuspectCleared_frame {A : List Part} {s0 : State} (unit : BitVec 16) (s : State) (hs : s0.agree A s)
    (hw : partsIn [.out, .pins, .sb, .datum, .polders, .cad, .keys, .link, .stack, .tray, .fau, .rings, .coll, .bars, .sca, .obj, .fns, .charts, .tracer, .gauge, .power, .pool, .free] A = true) :
    FrameOut A s0 (execSuspectCleared unit s) := by
  unfold execSuspectCleared
  try dsimp only
  repeat' (first
      | with_reducible exact frameOut_fault | (with_reducible apply frameOut_next)
      | (with_reducible refine frameOut_ite ?_ ?_) | with_reducible assumption | (with_reducible intro _)
      | with_reducible apply advanceHang_frame | (with_reducible exact partsIn_trans (by decide) hw)
      | (with_reducible refine ite_frame ?_ ?_) | split | (dsimp only))

theorem resetEngineCmd_frame {A : List Part} {s0 : State} (bad : Bool) (o : Origin) (tag : BitVec 32)
    (unit : BitVec 16) (s : State) (hs : s0.agree A s)
    (hw : partsIn [.out, .pins, .sb, .datum, .polders, .cad, .keys, .link, .stack, .tray, .fau, .rings, .coll, .bars, .sca, .obj, .fns, .spdm, .charts, .tracer, .gauge, .power, .pool, .free] A = true) :
    s0.agree A (resetEngineCmd bad o tag unit s) := by
  unfold resetEngineCmd
  try dsimp only
  repeat' (first
      | with_reducible assumption | (with_reducible intro _) | with_reducible apply beginHang_frame
      | with_reducible apply modTracer_frame | with_reducible apply pend_frame
      | with_reducible apply resetEngine_frame | with_reducible apply runCmd_frame
      | (with_reducible exact partsIn_trans (by decide) hw) | (with_reducible refine ite_frame ?_ ?_) | split)

theorem execResetEngine_frame {A : List Part} {s0 : State} (o : Origin) (tag : BitVec 32) (unit : BitVec 16)
    (s : State) (hs : s0.agree A s)
    (hw : partsIn [.out, .pins, .sb, .datum, .polders, .cad, .keys, .link, .stack, .tray, .fau, .rings, .coll, .bars, .sca, .obj, .fns, .spdm, .charts, .tracer, .gauge, .power, .pool, .free] A = true) :
    FrameOut A s0 (execResetEngine o tag unit s) := by
  unfold execResetEngine
  try dsimp only
  repeat' (first
      | with_reducible exact frameOut_fault | (with_reducible apply frameOut_next)
      | (with_reducible refine frameOut_ite ?_ ?_) | with_reducible assumption | (with_reducible intro _)
      | with_reducible apply resetEngineCmd_frame | (with_reducible exact partsIn_trans (by decide) hw)
      | (dsimp only))

theorem resetContextCmd_frame {A : List Part} {s0 : State} (bad : Bool) (o : Origin) (tag : BitVec 32)
    (context : BitVec 16) (s : State) (hs : s0.agree A s)
    (hw : partsIn [.out, .pins, .sb, .datum, .polders, .cad, .keys, .link, .stack, .tray, .fau, .rings, .coll, .bars, .sca, .obj, .fns, .spdm, .charts, .tracer, .gauge, .power, .pool, .free] A = true) :
    s0.agree A (resetContextCmd bad o tag context s) := by
  unfold resetContextCmd
  try dsimp only
  repeat' (first
      | with_reducible assumption | (with_reducible intro _) | with_reducible apply pend_frame
      | with_reducible apply resetContext_frame | with_reducible apply runCmd_frame
      | (with_reducible exact partsIn_trans (by decide) hw) | split)

theorem execResetContext_frame {A : List Part} {s0 : State} (o : Origin) (tag : BitVec 32) (context : BitVec 16)
    (s : State) (hs : s0.agree A s)
    (hw : partsIn [.out, .pins, .sb, .datum, .polders, .cad, .keys, .link, .stack, .tray, .fau, .rings, .coll, .bars, .sca, .obj, .fns, .spdm, .charts, .tracer, .gauge, .power, .pool, .free] A = true) :
    FrameOut A s0 (execResetContext o tag context s) := by
  unfold execResetContext
  try dsimp only
  repeat' (first
      | with_reducible exact frameOut_fault | (with_reducible apply frameOut_next)
      | (with_reducible refine frameOut_ite ?_ ?_) | with_reducible assumption | (with_reducible intro _)
      | with_reducible apply resetContextCmd_frame | (with_reducible exact partsIn_trans (by decide) hw)
      | (dsimp only))

theorem resetBlockCmd_frame {A : List Part} {s0 : State} (bad : Bool) (o : Origin) (tag : BitVec 32) (s : State)
    (hs : s0.agree A s)
    (hw : partsIn [.out, .owner, .pins, .boot, .flash, .lc, .sb, .datum, .polders, .cad, .keys, .link, .stack, .tray, .fau, .rings, .coll, .bars, .sca, .obj, .fns, .spdm, .weirs, .charts, .tracer, .gauge, .power, .regs, .pool, .free] A = true) :
    s0.agree A (resetBlockCmd bad o tag s) := by
  unfold resetBlockCmd
  try dsimp only
  repeat' (first
      | with_reducible assumption | (with_reducible intro _) | with_reducible apply blockReset_frame
      | with_reducible apply pend_frame | with_reducible apply runCmdIn_frame
      | (with_reducible exact partsIn_trans (by decide) hw))

theorem execResetBlock_frame {A : List Part} {s0 : State} (o : Origin) (tag : BitVec 32) (s : State) (hs :
    s0.agree A s)
    (hw : partsIn [.out, .owner, .pins, .boot, .flash, .lc, .sb, .datum, .polders, .cad, .keys, .link, .stack, .tray, .fau, .rings, .coll, .bars, .sca, .obj, .fns, .spdm, .weirs, .charts, .tracer, .gauge, .power, .regs, .pool, .free] A = true) :
    FrameOut A s0 (execResetBlock o tag s) := by
  unfold execResetBlock
  try dsimp only
  repeat' (first
      | with_reducible exact frameOut_fault | (with_reducible apply frameOut_next)
      | (with_reducible refine frameOut_ite ?_ ?_) | with_reducible assumption | (with_reducible intro _)
      | with_reducible apply resetBlockCmd_frame | (with_reducible exact partsIn_trans (by decide) hw)
      | (dsimp only))

theorem serviceReleaseCmd_frame {A : List Part} {s0 : State} (bad : Bool) (o : Origin) (tag : BitVec 32) (s : State)
    (hs : s0.agree A s)
    (hw : partsIn [.out, .owner, .pins, .boot, .flash, .lc, .sb, .datum, .polders, .cad, .keys, .link, .stack, .tray, .fau, .rings, .coll, .bars, .sca, .obj, .fns, .spdm, .weirs, .charts, .tracer, .gauge, .power, .regs, .pool, .free] A = true) :
    s0.agree A (serviceReleaseCmd bad o tag s) := by
  unfold serviceReleaseCmd
  try dsimp only
  repeat' (first
      | with_reducible assumption | (with_reducible intro _) | with_reducible apply blockReset_frame
      | with_reducible apply reply_frame | with_reducible apply runCmd_frame
      | (with_reducible exact partsIn_trans (by decide) hw) | (with_reducible refine agree_sb ?_ ?_))

theorem execServiceRelease_frame {A : List Part} {s0 : State} (o : Origin) (tag : BitVec 32) (s : State) (hs :
    s0.agree A s)
    (hw : partsIn [.out, .owner, .pins, .boot, .flash, .lc, .sb, .datum, .polders, .cad, .keys, .link, .stack, .tray, .fau, .rings, .coll, .bars, .sca, .obj, .fns, .spdm, .weirs, .charts, .tracer, .gauge, .power, .regs, .pool, .free] A = true) :
    FrameOut A s0 (execServiceRelease o tag s) := by
  unfold execServiceRelease
  try dsimp only
  repeat' (first
      | with_reducible exact frameOut_fault | (with_reducible apply frameOut_next)
      | (with_reducible refine frameOut_ite ?_ ?_) | with_reducible assumption | (with_reducible intro _)
      | with_reducible apply serviceReleaseCmd_frame | (with_reducible exact partsIn_trans (by decide) hw)
      | (dsimp only))

theorem floodwatchConfigCmd_frame {A : List Part} {s0 : State} (bad : Bool) (o : Origin) (tag : BitVec 32)
    (enable : BitVec 8) (s : State) (hs : s0.agree A s)
    (hw : partsIn [.out, .sb, .polders, .keys, .obj, .fns, .spdm, .tracer, .power, .free] A = true) : s0.agree A
    (floodwatchConfigCmd bad o tag enable s) := by
  unfold floodwatchConfigCmd
  try dsimp only
  repeat' (first
      | with_reducible assumption | (with_reducible intro _) | with_reducible apply modTracer_frame
      | with_reducible apply reply_frame | with_reducible apply runCmd_frame
      | (with_reducible exact partsIn_trans (by decide) hw))

theorem execFloodwatchConfig_frame {A : List Part} {s0 : State} (o : Origin) (tag : BitVec 32) (enable : BitVec 8)
    (s : State) (hs : s0.agree A s)
    (hw : partsIn [.out, .sb, .polders, .keys, .obj, .fns, .spdm, .tracer, .power, .free] A = true) : FrameOut A s0
    (execFloodwatchConfig o tag enable s) := by
  unfold execFloodwatchConfig
  try dsimp only
  repeat' (first
      | with_reducible exact frameOut_fault | (with_reducible apply frameOut_next)
      | (with_reducible refine frameOut_ite ?_ ?_) | with_reducible assumption | (with_reducible intro _)
      | with_reducible apply floodwatchConfigCmd_frame | (with_reducible exact partsIn_trans (by decide) hw)
      | (dsimp only))

theorem execFloodwatchStop_frame {A : List Part} {s0 : State} (polder : PolderId) (originator : InstId) (s : State)
    (hs : s0.agree A s) (hw : partsIn [.out, .sb, .polders, .obj, .fns, .tracer, .free] A = true) : FrameOut A s0
    (execFloodwatchStop polder originator s) := by
  unfold execFloodwatchStop
  try dsimp only
  repeat' (first
      | with_reducible exact frameOut_fault | (with_reducible apply frameOut_next)
      | (with_reducible refine frameOut_ite ?_ ?_) | with_reducible assumption | (with_reducible intro _)
      | with_reducible apply count_frame | with_reducible apply modPolder_frame
      | with_reducible apply writeFault_frame | (with_reducible exact partsIn_trans (by decide) hw)
      | (with_reducible refine ite_frame ?_ ?_) | split | (dsimp only))

theorem faultReadCmd_frame {A : List Part} {s0 : State} (bad : Bool) (o : Origin) (tag : BitVec 32)
    (first : BitVec 32) (cnt : BitVec 16) (s : State) (hs : s0.agree A s)
    (hw : partsIn [.out, .sb, .polders, .keys, .obj, .fns, .spdm, .tracer, .power, .free] A = true) : s0.agree A
    (faultReadCmd bad o tag first cnt s) := by
  unfold faultReadCmd
  try dsimp only
  repeat' (first
      | with_reducible assumption | (with_reducible intro _) | with_reducible apply reply_frame
      | with_reducible apply runCmd_frame | (with_reducible exact partsIn_trans (by decide) hw)
      | (with_reducible refine ite_frame ?_ ?_) | split)

theorem execFaultRead_frame {A : List Part} {s0 : State} (o : Origin) (tag : BitVec 32) (first : BitVec 32)
    (cnt : BitVec 16) (s : State) (hs : s0.agree A s)
    (hw : partsIn [.out, .sb, .polders, .keys, .obj, .fns, .spdm, .tracer, .power, .free] A = true) : FrameOut A s0
    (execFaultRead o tag first cnt s) := by
  unfold execFaultRead
  try dsimp only
  repeat' (first
      | with_reducible exact frameOut_fault | (with_reducible apply frameOut_next)
      | (with_reducible refine frameOut_ite ?_ ?_) | with_reducible assumption | (with_reducible intro _)
      | with_reducible apply faultReadCmd_frame | (with_reducible exact partsIn_trans (by decide) hw)
      | (dsimp only))

theorem crashDumpReadCmd_frame {A : List Part} {s0 : State} (bad : Bool) (o : Origin) (tag : BitVec 32)
    (unit : BitVec 16) (offset : BitVec 32) (len : BitVec 16) (s : State) (hs : s0.agree A s)
    (hw : partsIn [.out, .sb, .polders, .keys, .obj, .fns, .spdm, .tracer, .power, .free] A = true) : s0.agree A
    (crashDumpReadCmd bad o tag unit offset len s) := by
  unfold crashDumpReadCmd
  try dsimp only
  repeat' (first
      | with_reducible assumption | (with_reducible intro _) | with_reducible apply reply_frame
      | with_reducible apply runCmd_frame | (with_reducible exact partsIn_trans (by decide) hw) | split)

theorem execCrashDumpRead_frame {A : List Part} {s0 : State} (o : Origin) (tag : BitVec 32) (unit : BitVec 16)
    (offset : BitVec 32) (len : BitVec 16) (s : State) (hs : s0.agree A s)
    (hw : partsIn [.out, .sb, .polders, .keys, .obj, .fns, .spdm, .tracer, .power, .free] A = true) : FrameOut A s0
    (execCrashDumpRead o tag unit offset len s) := by
  unfold execCrashDumpRead
  try dsimp only
  repeat' (first
      | with_reducible exact frameOut_fault | (with_reducible apply frameOut_next)
      | (with_reducible refine frameOut_ite ?_ ?_) | with_reducible assumption | (with_reducible intro _)
      | with_reducible apply crashDumpReadCmd_frame | (with_reducible exact partsIn_trans (by decide) hw)
      | (dsimp only))

theorem stragglerReadCmd_frame {A : List Part} {s0 : State} (bad : Bool) (o : Origin) (tag : BitVec 32)
    (polder : PolderId) (inst : BitVec 16) (s : State) (hs : s0.agree A s)
    (hw : partsIn [.out, .sb, .polders, .keys, .obj, .fns, .spdm, .tracer, .power, .free] A = true) : s0.agree A
    (stragglerReadCmd bad o tag polder inst s) := by
  unfold stragglerReadCmd
  try dsimp only
  repeat' (first
      | with_reducible assumption | (with_reducible intro _) | with_reducible apply reply_frame
      | with_reducible apply runCmd_frame | (with_reducible exact partsIn_trans (by decide) hw) | split)

theorem execStragglerRead_frame {A : List Part} {s0 : State} (o : Origin) (tag : BitVec 32) (polder : PolderId)
    (inst : BitVec 16) (s : State) (hs : s0.agree A s)
    (hw : partsIn [.out, .sb, .polders, .keys, .obj, .fns, .spdm, .tracer, .power, .free] A = true) : FrameOut A s0
    (execStragglerRead o tag polder inst s) := by
  unfold execStragglerRead
  try dsimp only
  repeat' (first
      | with_reducible exact frameOut_fault | (with_reducible apply frameOut_next)
      | (with_reducible refine frameOut_ite ?_ ?_) | with_reducible assumption | (with_reducible intro _)
      | with_reducible apply stragglerReadCmd_frame | (with_reducible exact partsIn_trans (by decide) hw)
      | (dsimp only))

end Sys2Proof.Machine
end

