-- ==== Sys2Proof/Laws/FrameIdentity.lean ====
section
/-! SUPPORT. Which parts of the state the operations of Machine/Identity.lean may change (State.agree). -/

namespace Sys2Proof.Machine

theorem identityReadCmd_frame {A : List Part} {s0 : State} (bad : Bool) (o : Origin) (tag : BitVec 32) (s : State)
    (hs : s0.agree A s)
    (hw : partsIn [.out, .sb, .polders, .keys, .obj, .fns, .spdm, .tracer, .power, .free] A = true) : s0.agree A
    (identityReadCmd bad o tag s) := by
  unfold identityReadCmd
  try dsimp only
  repeat' (first
      | with_reducible assumption | (with_reducible intro _) | with_reducible apply reply_frame
      | with_reducible apply runCmd_frame | (with_reducible exact partsIn_trans (by decide) hw))

theorem execIdentityRead_frame {A : List Part} {s0 : State} (o : Origin) (tag : BitVec 32) (s : State) (hs :
    s0.agree A s) (hw : partsIn [.out, .sb, .polders, .keys, .obj, .fns, .spdm, .tracer, .power, .free] A = true) :
    FrameOut A s0 (execIdentityRead o tag s) := by
  unfold execIdentityRead
  try dsimp only
  repeat' (first
      | with_reducible exact frameOut_fault | (with_reducible apply frameOut_next)
      | (with_reducible refine frameOut_ite ?_ ?_) | with_reducible assumption | (with_reducible intro _)
      | with_reducible apply identityReadCmd_frame | (with_reducible exact partsIn_trans (by decide) hw)
      | (dsimp only))

end Sys2Proof.Machine
end

