-- ==== Sys2Proof/Laws/FrameLifeCycle.lean ====
section
/-! SUPPORT. Which parts of the state the operations of Machine/LifeCycle.lean may change (State.agree). -/

namespace Sys2Proof.Machine

theorem modLc_frame {A : List Part} {s0 : State} (f : LifeCycle → LifeCycle) (s : State) (hs : s0.agree A s)
    (hw : partsIn [.lc] A = true) : s0.agree A (modLc f s) := by
  unfold modLc
  try dsimp only
  repeat' (first
      | with_reducible assumption | (with_reducible exact partsIn_trans (by decide) hw)
      | (with_reducible refine agree_lc ?_ ?_))

theorem lcStatusCmd_frame {A : List Part} {s0 : State} (bad : Bool) (o : Origin) (tag : BitVec 32) (s : State) (hs :
    s0.agree A s) (hw : partsIn [.out, .sb, .polders, .keys, .obj, .fns, .spdm, .tracer, .power, .free] A = true) :
    s0.agree A (lcStatusCmd bad o tag s) := by
  unfold lcStatusCmd
  try dsimp only
  repeat' (first
      | with_reducible assumption | (with_reducible intro _) | with_reducible apply reply_frame
      | with_reducible apply runCmd_frame | (with_reducible exact partsIn_trans (by decide) hw) | split)

theorem execLcStatus_frame {A : List Part} {s0 : State} (o : Origin) (tag : BitVec 32) (s : State) (hs :
    s0.agree A s) (hw : partsIn [.out, .sb, .polders, .keys, .obj, .fns, .spdm, .tracer, .power, .free] A = true) :
    FrameOut A s0 (execLcStatus o tag s) := by
  unfold execLcStatus
  try dsimp only
  repeat' (first
      | with_reducible exact frameOut_fault | (with_reducible apply frameOut_next)
      | (with_reducible refine frameOut_ite ?_ ?_) | with_reducible assumption | (with_reducible intro _)
      | with_reducible apply lcStatusCmd_frame | (with_reducible exact partsIn_trans (by decide) hw) | (dsimp only))

theorem lcChallengeCmd_frame {A : List Part} {s0 : State} (bad : Bool) (o : Origin) (tag : BitVec 32)
    (target : BitVec 8) (s : State) (hs : s0.agree A s)
    (hw : partsIn [.out, .pins, .lc, .sb, .polders, .cad, .keys, .stack, .obj, .fns, .spdm, .tracer, .power, .free] A = true) :
    s0.agree A (lcChallengeCmd bad o tag target s) := by
  unfold lcChallengeCmd
  try dsimp only
  repeat' (first
      | with_reducible assumption | (with_reducible intro _) | with_reducible apply drbgDraw_frame
      | with_reducible apply modLc_frame | with_reducible apply reply_frame | with_reducible apply runCmd_frame
      | (with_reducible exact partsIn_trans (by decide) hw))

theorem execLcChallenge_frame {A : List Part} {s0 : State} (o : Origin) (tag : BitVec 32) (target : BitVec 8)
    (s : State) (hs : s0.agree A s)
    (hw : partsIn [.out, .pins, .lc, .sb, .polders, .cad, .keys, .stack, .obj, .fns, .spdm, .tracer, .power, .free] A = true) :
    FrameOut A s0 (execLcChallenge o tag target s) := by
  unfold execLcChallenge
  try dsimp only
  repeat' (first
      | with_reducible exact frameOut_fault | (with_reducible apply frameOut_next)
      | (with_reducible refine frameOut_ite ?_ ?_) | with_reducible assumption | (with_reducible intro _)
      | with_reducible apply lcChallengeCmd_frame | (with_reducible exact partsIn_trans (by decide) hw)
      | (dsimp only))

theorem execNonceExpiry_frame {A : List Part} {s0 : State} (s : State) (hs : s0.agree A s)
    (hw : partsIn [.lc] A = true) : FrameOut A s0 (execNonceExpiry s) := by
  unfold execNonceExpiry
  try dsimp only
  repeat' (first
      | with_reducible exact frameOut_fault | (with_reducible apply frameOut_next)
      | (with_reducible refine frameOut_ite ?_ ?_) | with_reducible assumption | (with_reducible intro _)
      | with_reducible apply modLc_frame | (with_reducible exact partsIn_trans (by decide) hw)
      | (with_reducible refine ite_frame ?_ ?_) | split | (dsimp only))

theorem startTransition_frame {A : List Part} {s0 : State} (target : LcState) (o : Origin) (tag : BitVec 32)
    (s : State) (hs : s0.agree A s)
    (hw : partsIn [.out, .pins, .fuses, .lc, .sb, .datum, .polders, .cad, .keys, .link, .stack, .tray, .fau, .rings, .coll, .bars, .sca, .obj, .fns, .spdm, .charts, .tracer, .gauge, .power, .pool, .free] A = true) :
    s0.agree A (startTransition target o tag s) := by
  unfold startTransition
  try dsimp only
  repeat' (first
      | with_reducible assumption | (with_reducible intro _) | with_reducible apply beginTeardown_frame
      | with_reducible apply modLc_frame | with_reducible apply pend_frame
      | (with_reducible exact partsIn_trans (by decide) hw) | (with_reducible apply foldl_frame)
      | (with_reducible refine agree_fuses ?_ ?_) | (dsimp only))

theorem lcTransitionCmd_frame {A : List Part} {s0 : State} (bad : Bool) (o : Origin) (tag : BitVec 32)
    (target : BitVec 8) (response : Bytes) (s : State) (hs : s0.agree A s)
    (hw : partsIn [.out, .pins, .fuses, .lc, .sb, .datum, .polders, .cad, .keys, .link, .stack, .tray, .fau, .rings, .coll, .bars, .sca, .obj, .fns, .spdm, .charts, .tracer, .gauge, .power, .pool, .free] A = true) :
    s0.agree A (lcTransitionCmd bad o tag target response s) := by
  unfold lcTransitionCmd
  try dsimp only
  repeat' (first
      | with_reducible assumption | (with_reducible intro _) | with_reducible apply modLc_frame
      | with_reducible apply refuse_frame | with_reducible apply runCmd_frame
      | with_reducible apply startTransition_frame | (with_reducible exact partsIn_trans (by decide) hw)
      | (with_reducible refine ite_frame ?_ ?_) | split)

theorem execLcTransition_frame {A : List Part} {s0 : State} (o : Origin) (tag : BitVec 32) (target : BitVec 8)
    (response : Bytes) (s : State) (hs : s0.agree A s)
    (hw : partsIn [.out, .pins, .fuses, .lc, .sb, .datum, .polders, .cad, .keys, .link, .stack, .tray, .fau, .rings, .coll, .bars, .sca, .obj, .fns, .spdm, .charts, .tracer, .gauge, .power, .pool, .free] A = true) :
    FrameOut A s0 (execLcTransition o tag target response s) := by
  unfold execLcTransition
  try dsimp only
  repeat' (first
      | with_reducible exact frameOut_fault | (with_reducible apply frameOut_next)
      | (with_reducible refine frameOut_ite ?_ ?_) | with_reducible assumption | (with_reducible intro _)
      | with_reducible apply lcTransitionCmd_frame | (with_reducible exact partsIn_trans (by decide) hw)
      | (dsimp only))

theorem wipe_frame {A : List Part} {s0 : State} (s : State) (hs : s0.agree A s)
    (hw : partsIn [.boot, .flash, .cad, .link, .stack, .tray, .tracer] A = true) : s0.agree A (wipe s) := by
  unfold wipe
  try dsimp only
  repeat' (first
      | with_reducible assumption | with_reducible apply eraseSealed_frame | with_reducible apply wipePool_frame
      | (with_reducible exact partsIn_trans (by decide) hw) | (with_reducible refine agree_cad ?_ ?_)
      | (with_reducible refine agree_link ?_ ?_) | (with_reducible refine agree_tray ?_ ?_)
      | (with_reducible refine agree_upd (W := [.cad, .link, .tray]) ?_ rfl (by intro p hp; cases p <;> (try exact absurd hp (by decide)) <;> exact rfl) ?_))

theorem execLcTransitionComplete_frame {A : List Part} {s0 : State} (s : State) (hs : s0.agree A s)
    (hw : partsIn [.out, .boot, .fuses, .flash, .lc, .cad, .link, .stack, .tray, .obj, .fns, .tracer] A = true) :
    FrameOut A s0 (execLcTransitionComplete s) := by
  unfold execLcTransitionComplete
  try dsimp only
  repeat' (first
      | with_reducible exact frameOut_fault | (with_reducible apply frameOut_next)
      | (with_reducible refine frameOut_ite ?_ ?_) | with_reducible assumption | (with_reducible intro _)
      | with_reducible apply finish_frame | with_reducible apply modLc_frame | with_reducible apply wipe_frame
      | (with_reducible exact partsIn_trans (by decide) hw) | (with_reducible refine ite_frame ?_ ?_) | split
      | (with_reducible refine agree_fuses ?_ ?_) | (dsimp only))

theorem endAuthorisation_frame {A : List Part} {s0 : State} (s : State) (hs : s0.agree A s)
    (hw : partsIn [.out, .lc] A = true) : s0.agree A (endAuthorisation s) := by
  unfold endAuthorisation
  try dsimp only
  repeat' (first
      | with_reducible assumption | (with_reducible intro _) | with_reducible apply emit_frame
      | with_reducible apply modLc_frame | (with_reducible exact partsIn_trans (by decide) hw)
      | (with_reducible refine ite_frame ?_ ?_) | split)

theorem debugAuthoriseCmd_frame {A : List Part} {s0 : State} (bad : Bool) (o : Origin) (tag : BitVec 32)
    (authorisation : Bytes) (s : State) (hs : s0.agree A s)
    (hw : partsIn [.out, .lc, .sb, .polders, .keys, .obj, .fns, .spdm, .tracer, .power, .free] A = true) :
    s0.agree A (debugAuthoriseCmd bad o tag authorisation s) := by
  unfold debugAuthoriseCmd
  try dsimp only
  repeat' (first
      | with_reducible assumption | (with_reducible intro _) | with_reducible apply modLc_frame
      | with_reducible apply refuse_frame | with_reducible apply reply_frame | with_reducible apply runCmd_frame
      | (with_reducible exact partsIn_trans (by decide) hw) | (with_reducible refine ite_frame ?_ ?_) | split)

theorem execDebugAuthorise_frame {A : List Part} {s0 : State} (o : Origin) (tag : BitVec 32) (authorisation : Bytes)
    (s : State) (hs : s0.agree A s)
    (hw : partsIn [.out, .lc, .sb, .polders, .keys, .obj, .fns, .spdm, .tracer, .power, .free] A = true) :
    FrameOut A s0 (execDebugAuthorise o tag authorisation s) := by
  unfold execDebugAuthorise
  try dsimp only
  repeat' (first
      | with_reducible exact frameOut_fault | (with_reducible apply frameOut_next)
      | (with_reducible refine frameOut_ite ?_ ?_) | with_reducible assumption | (with_reducible intro _)
      | with_reducible apply debugAuthoriseCmd_frame | (with_reducible exact partsIn_trans (by decide) hw)
      | (dsimp only))

theorem debugCloseCmd_frame {A : List Part} {s0 : State} (bad : Bool) (o : Origin) (tag : BitVec 32) (s : State)
    (hs : s0.agree A s)
    (hw : partsIn [.out, .lc, .sb, .polders, .keys, .obj, .fns, .spdm, .tracer, .power, .free] A = true) :
    s0.agree A (debugCloseCmd bad o tag s) := by
  unfold debugCloseCmd
  try dsimp only
  repeat' (first
      | with_reducible assumption | (with_reducible intro _) | with_reducible apply endAuthorisation_frame
      | with_reducible apply reply_frame | with_reducible apply runCmd_frame
      | (with_reducible exact partsIn_trans (by decide) hw))

theorem execDebugClose_frame {A : List Part} {s0 : State} (o : Origin) (tag : BitVec 32) (s : State) (hs :
    s0.agree A s)
    (hw : partsIn [.out, .lc, .sb, .polders, .keys, .obj, .fns, .spdm, .tracer, .power, .free] A = true) :
    FrameOut A s0 (execDebugClose o tag s) := by
  unfold execDebugClose
  try dsimp only
  repeat' (first
      | with_reducible exact frameOut_fault | (with_reducible apply frameOut_next)
      | (with_reducible refine frameOut_ite ?_ ?_) | with_reducible assumption | (with_reducible intro _)
      | with_reducible apply debugCloseCmd_frame | (with_reducible exact partsIn_trans (by decide) hw)
      | (dsimp only))

theorem execAuthorisationExpiry_frame {A : List Part} {s0 : State} (s : State) (hs : s0.agree A s)
    (hw : partsIn [.out, .lc] A = true) : FrameOut A s0 (execAuthorisationExpiry s) := by
  unfold execAuthorisationExpiry
  try dsimp only
  repeat' (first
      | with_reducible exact frameOut_fault | (with_reducible apply frameOut_next)
      | (with_reducible refine frameOut_ite ?_ ?_) | with_reducible assumption | (with_reducible intro _)
      | with_reducible apply endAuthorisation_frame | (with_reducible exact partsIn_trans (by decide) hw)
      | (with_reducible refine ite_frame ?_ ?_) | split | (dsimp only))

end Sys2Proof.Machine
end

