-- ==== Sys2Proof/Laws/FrameObserve.lean ====
section
/-! SUPPORT. Which parts of the state the operations of Machine/Observe.lean may change (State.agree). -/

namespace Sys2Proof.Machine

theorem execFabricStatusUnreachable_frame {A : List Part} {s0 : State} (inst : InstId) (s : State) (hs :
    s0.agree A s)
    (hw : partsIn [.out, .pins, .sb, .datum, .polders, .cad, .keys, .link, .stack, .tray, .fau, .rings, .coll, .bars, .sca, .obj, .fns, .charts, .tracer, .gauge, .power, .pool, .free] A = true) :
    FrameOut A s0 (execFabricStatusUnreachable inst s) := by
  unfold execFabricStatusUnreachable
  try dsimp only
  repeat' (first
      | with_reducible exact frameOut_fault | (with_reducible apply frameOut_next)
      | (with_reducible refine frameOut_ite ?_ ?_) | with_reducible assumption | (with_reducible intro _)
      | with_reducible apply resume_frame | with_reducible apply unreachableColl_frame
      | with_reducible apply unreachableOps_frame | (with_reducible exact partsIn_trans (by decide) hw)
      | (with_reducible refine ite_frame ?_ ?_) | split | (with_reducible refine agree_fau ?_ ?_) | (dsimp only))

theorem execFabricStatusWithdraw_frame {A : List Part} {s0 : State} (inst : InstId) (s : State) (hs : s0.agree A s)
    (hw : partsIn [.fau] A = true) : FrameOut A s0 (execFabricStatusWithdraw inst s) := by
  unfold execFabricStatusWithdraw
  try dsimp only
  repeat' (first
      | with_reducible exact frameOut_fault | (with_reducible apply frameOut_next)
      | (with_reducible refine frameOut_ite ?_ ?_) | with_reducible assumption | (with_reducible intro _)
      | (with_reducible exact partsIn_trans (by decide) hw) | (with_reducible refine ite_frame ?_ ?_) | split
      | (with_reducible refine agree_fau ?_ ?_) | (dsimp only))

theorem execQueueLevelReport_frame {A : List Part} {s0 : State} (weir : BitVec 8) (level : BitVec 4)
    (capacity : Nat) (s : State) (hs : s0.agree A s)
    (hw : partsIn [.out, .pins, .sb, .datum, .polders, .cad, .keys, .link, .stack, .tray, .fau, .rings, .coll, .bars, .sca, .obj, .fns, .weirs, .charts, .tracer, .gauge, .power, .pool, .free] A = true) :
    FrameOut A s0 (execQueueLevelReport weir level capacity s) := by
  unfold execQueueLevelReport
  try dsimp only
  repeat' (first
      | with_reducible exact frameOut_fault | (with_reducible apply frameOut_next)
      | (with_reducible refine frameOut_ite ?_ ?_) | with_reducible assumption | (with_reducible intro _)
      | with_reducible apply resume_frame | with_reducible apply takeLevel_frame
      | (with_reducible exact partsIn_trans (by decide) hw) | (with_reducible refine ite_frame ?_ ?_) | split
      | (dsimp only))

theorem weirConfigCmd_frame {A : List Part} {s0 : State} (bad : Bool) (o : Origin) (tag : BitVec 32)
    (weir : BitVec 8) (minima : List (BitVec 16)) (s : State) (hs : s0.agree A s)
    (hw : partsIn [.out, .pins, .sb, .datum, .polders, .cad, .keys, .link, .stack, .tray, .fau, .rings, .coll, .bars, .sca, .obj, .fns, .spdm, .weirs, .charts, .tracer, .gauge, .power, .pool, .free] A = true) :
    s0.agree A (weirConfigCmd bad o tag weir minima s) := by
  unfold weirConfigCmd
  try dsimp only
  repeat' (first
      | with_reducible assumption | (with_reducible intro _) | with_reducible apply modWeir_frame
      | with_reducible apply reply_frame | with_reducible apply resume_frame | with_reducible apply runCmd_frame
      | (with_reducible exact partsIn_trans (by decide) hw) | split)

theorem execWeirConfig_frame {A : List Part} {s0 : State} (o : Origin) (tag : BitVec 32) (weir : BitVec 8)
    (minima : List (BitVec 16)) (s : State) (hs : s0.agree A s)
    (hw : partsIn [.out, .pins, .sb, .datum, .polders, .cad, .keys, .link, .stack, .tray, .fau, .rings, .coll, .bars, .sca, .obj, .fns, .spdm, .weirs, .charts, .tracer, .gauge, .power, .pool, .free] A = true) :
    FrameOut A s0 (execWeirConfig o tag weir minima s) := by
  unfold execWeirConfig
  try dsimp only
  repeat' (first
      | with_reducible exact frameOut_fault | (with_reducible apply frameOut_next)
      | (with_reducible refine frameOut_ite ?_ ?_) | with_reducible assumption | (with_reducible intro _)
      | with_reducible apply weirConfigCmd_frame | (with_reducible exact partsIn_trans (by decide) hw)
      | (dsimp only))

theorem configureDatum_frame {A : List Part} {s0 : State} (root : Bool) (port : BitVec 8) (s : State) (hs :
    s0.agree A s) (hw : partsIn [.out, .sb, .datum, .polders, .obj, .fns, .tracer, .free] A = true) : s0.agree A
    (configureDatum root port s) := by
  unfold configureDatum
  try dsimp only
  repeat' (first
      | with_reducible assumption | (with_reducible intro _) | with_reducible apply enterDatumState_frame
      | with_reducible apply modDatum_frame | (with_reducible exact partsIn_trans (by decide) hw)
      | (with_reducible refine ite_frame ?_ ?_) | split)

theorem datumConfigCmd_frame {A : List Part} {s0 : State} (bad : Bool) (o : Origin) (tag : BitVec 32)
    (root : BitVec 8) (port : BitVec 8) (s : State) (hs : s0.agree A s)
    (hw : partsIn [.out, .sb, .datum, .polders, .keys, .obj, .fns, .spdm, .tracer, .power, .free] A = true) :
    s0.agree A (datumConfigCmd bad o tag root port s) := by
  unfold datumConfigCmd
  try dsimp only
  repeat' (first
      | with_reducible assumption | (with_reducible intro _) | with_reducible apply configureDatum_frame
      | with_reducible apply reply_frame | with_reducible apply runCmd_frame
      | (with_reducible exact partsIn_trans (by decide) hw) | split)

theorem execDatumConfig_frame {A : List Part} {s0 : State} (o : Origin) (tag : BitVec 32) (root : BitVec 8)
    (port : BitVec 8) (s : State) (hs : s0.agree A s)
    (hw : partsIn [.out, .sb, .datum, .polders, .keys, .obj, .fns, .spdm, .tracer, .power, .free] A = true) :
    FrameOut A s0 (execDatumConfig o tag root port s) := by
  unfold execDatumConfig
  try dsimp only
  repeat' (first
      | with_reducible exact frameOut_fault | (with_reducible apply frameOut_next)
      | (with_reducible refine frameOut_ite ?_ ?_) | with_reducible assumption | (with_reducible intro _)
      | with_reducible apply datumConfigCmd_frame | (with_reducible exact partsIn_trans (by decide) hw)
      | (dsimp only))

theorem datumStatusCmd_frame {A : List Part} {s0 : State} (bad : Bool) (o : Origin) (tag : BitVec 32) (s : State)
    (hs : s0.agree A s)
    (hw : partsIn [.out, .sb, .polders, .keys, .obj, .fns, .spdm, .tracer, .power, .free] A = true) : s0.agree A
    (datumStatusCmd bad o tag s) := by
  unfold datumStatusCmd
  try dsimp only
  repeat' (first
      | with_reducible assumption | (with_reducible intro _) | with_reducible apply reply_frame
      | with_reducible apply runCmd_frame | (with_reducible exact partsIn_trans (by decide) hw))

theorem execDatumStatus_frame {A : List Part} {s0 : State} (o : Origin) (tag : BitVec 32) (s : State) (hs :
    s0.agree A s) (hw : partsIn [.out, .sb, .polders, .keys, .obj, .fns, .spdm, .tracer, .power, .free] A = true) :
    FrameOut A s0 (execDatumStatus o tag s) := by
  unfold execDatumStatus
  try dsimp only
  repeat' (first
      | with_reducible exact frameOut_fault | (with_reducible apply frameOut_next)
      | (with_reducible refine frameOut_ite ?_ ?_) | with_reducible assumption | (with_reducible intro _)
      | with_reducible apply datumStatusCmd_frame | (with_reducible exact partsIn_trans (by decide) hw)
      | (dsimp only))

theorem markQueueStatusCmd_frame {A : List Part} {s0 : State} (bad : Bool) (o : Origin) (tag : BitVec 32)
    (s : State) (hs : s0.agree A s)
    (hw : partsIn [.out, .sb, .polders, .keys, .obj, .fns, .spdm, .tracer, .power, .free] A = true) : s0.agree A
    (markQueueStatusCmd bad o tag s) := by
  unfold markQueueStatusCmd
  try dsimp only
  repeat' (first
      | with_reducible assumption | (with_reducible intro _) | with_reducible apply reply_frame
      | with_reducible apply runCmd_frame | (with_reducible exact partsIn_trans (by decide) hw))

theorem execMarkQueueStatus_frame {A : List Part} {s0 : State} (o : Origin) (tag : BitVec 32) (s : State) (hs :
    s0.agree A s) (hw : partsIn [.out, .sb, .polders, .keys, .obj, .fns, .spdm, .tracer, .power, .free] A = true) :
    FrameOut A s0 (execMarkQueueStatus o tag s) := by
  unfold execMarkQueueStatus
  try dsimp only
  repeat' (first
      | with_reducible exact frameOut_fault | (with_reducible apply frameOut_next)
      | (with_reducible refine frameOut_ite ?_ ?_) | with_reducible assumption | (with_reducible intro _)
      | with_reducible apply markQueueStatusCmd_frame | (with_reducible exact partsIn_trans (by decide) hw)
      | (dsimp only))

theorem syncCounterReadCmd_frame {A : List Part} {s0 : State} (bad : Bool) (o : Origin) (tag : BitVec 32)
    (core : BitVec 16) (s : State) (hs : s0.agree A s)
    (hw : partsIn [.out, .sb, .polders, .keys, .obj, .fns, .spdm, .tracer, .power, .free] A = true) : s0.agree A
    (syncCounterReadCmd bad o tag core s) := by
  unfold syncCounterReadCmd
  try dsimp only
  repeat' (first
      | with_reducible assumption | (with_reducible intro _) | with_reducible apply reply_frame
      | with_reducible apply runCmd_frame | (with_reducible exact partsIn_trans (by decide) hw) | split)

theorem execSyncCounterRead_frame {A : List Part} {s0 : State} (o : Origin) (tag : BitVec 32) (core : BitVec 16)
    (s : State) (hs : s0.agree A s)
    (hw : partsIn [.out, .sb, .polders, .keys, .obj, .fns, .spdm, .tracer, .power, .free] A = true) : FrameOut A s0
    (execSyncCounterRead o tag core s) := by
  unfold execSyncCounterRead
  try dsimp only
  repeat' (first
      | with_reducible exact frameOut_fault | (with_reducible apply frameOut_next)
      | (with_reducible refine frameOut_ite ?_ ?_) | with_reducible assumption | (with_reducible intro _)
      | with_reducible apply syncCounterReadCmd_frame | (with_reducible exact partsIn_trans (by decide) hw)
      | (dsimp only))

theorem contextStepReadCmd_frame {A : List Part} {s0 : State} (bad : Bool) (o : Origin) (tag : BitVec 32)
    (context : BitVec 16) (s : State) (hs : s0.agree A s)
    (hw : partsIn [.out, .sb, .polders, .keys, .obj, .fns, .spdm, .tracer, .power, .free] A = true) : s0.agree A
    (contextStepReadCmd bad o tag context s) := by
  unfold contextStepReadCmd
  try dsimp only
  repeat' (first
      | with_reducible assumption | (with_reducible intro _) | with_reducible apply reply_frame
      | with_reducible apply runCmd_frame | (with_reducible exact partsIn_trans (by decide) hw)
      | (with_reducible refine ite_frame ?_ ?_) | split)

theorem execContextStepRead_frame {A : List Part} {s0 : State} (o : Origin) (tag : BitVec 32) (context : BitVec 16)
    (s : State) (hs : s0.agree A s)
    (hw : partsIn [.out, .sb, .polders, .keys, .obj, .fns, .spdm, .tracer, .power, .free] A = true) : FrameOut A s0
    (execContextStepRead o tag context s) := by
  unfold execContextStepRead
  try dsimp only
  repeat' (first
      | with_reducible exact frameOut_fault | (with_reducible apply frameOut_next)
      | (with_reducible refine frameOut_ite ?_ ?_) | with_reducible assumption | (with_reducible intro _)
      | with_reducible apply contextStepReadCmd_frame | (with_reducible exact partsIn_trans (by decide) hw)
      | (dsimp only))

theorem clearSeen_frame {A : List Part} {s0 : State} (first : Nat) (n : Nat) (s : State) (hs : s0.agree A s)
    (hw : partsIn [.tracer] A = true) : s0.agree A (clearSeen first n s) := by
  unfold clearSeen
  try dsimp only
  repeat' (first
      | with_reducible assumption | (with_reducible intro _) | (with_reducible exact partsIn_trans (by decide) hw)
      | split | (with_reducible refine agree_tracer ?_ ?_))

theorem counterReadCmd_frame {A : List Part} {s0 : State} (bad : Bool) (o : Origin) (tag : BitVec 32)
    (first : BitVec 16) (n : BitVec 16) (s : State) (hs : s0.agree A s)
    (hw : partsIn [.out, .sb, .polders, .keys, .obj, .fns, .spdm, .tracer, .power, .free] A = true) : s0.agree A
    (counterReadCmd bad o tag first n s) := by
  unfold counterReadCmd
  try dsimp only
  repeat' (first
      | with_reducible assumption | (with_reducible intro _) | with_reducible apply clearSeen_frame
      | with_reducible apply reply_frame | with_reducible apply runCmd_frame
      | (with_reducible exact partsIn_trans (by decide) hw) | split)

theorem execCounterRead_frame {A : List Part} {s0 : State} (o : Origin) (tag : BitVec 32) (first : BitVec 16)
    (count : BitVec 16) (s : State) (hs : s0.agree A s)
    (hw : partsIn [.out, .sb, .polders, .keys, .obj, .fns, .spdm, .tracer, .power, .free] A = true) : FrameOut A s0
    (execCounterRead o tag first count s) := by
  unfold execCounterRead
  try dsimp only
  repeat' (first
      | with_reducible exact frameOut_fault | (with_reducible apply frameOut_next)
      | (with_reducible refine frameOut_ite ?_ ?_) | with_reducible assumption | (with_reducible intro _)
      | with_reducible apply counterReadCmd_frame | (with_reducible exact partsIn_trans (by decide) hw)
      | (dsimp only))

theorem streamCountersReadCmd_frame {A : List Part} {s0 : State} (bad : Bool) (o : Origin) (tag : BitVec 32)
    (polder : PolderId) (stream : BitVec 16) (peer : BitVec 16) (direction : BitVec 8) (s : State) (hs :
    s0.agree A s) (hw : partsIn [.out, .sb, .polders, .keys, .obj, .fns, .spdm, .tracer, .power, .free] A = true) :
    s0.agree A (streamCountersReadCmd bad o tag polder stream peer direction s) := by
  unfold streamCountersReadCmd
  try dsimp only
  repeat' (first
      | with_reducible assumption | (with_reducible intro _) | with_reducible apply reply_frame
      | with_reducible apply runCmd_frame | (with_reducible exact partsIn_trans (by decide) hw)
      | (with_reducible refine ite_frame ?_ ?_) | split)

theorem execStreamCountersRead_frame {A : List Part} {s0 : State} (o : Origin) (tag : BitVec 32) (polder : PolderId)
    (stream : BitVec 16) (peer : BitVec 16) (direction : BitVec 8) (s : State) (hs : s0.agree A s)
    (hw : partsIn [.out, .sb, .polders, .keys, .obj, .fns, .spdm, .tracer, .power, .free] A = true) : FrameOut A s0
    (execStreamCountersRead o tag polder stream peer direction s) := by
  unfold execStreamCountersRead
  try dsimp only
  repeat' (first
      | with_reducible exact frameOut_fault | (with_reducible apply frameOut_next)
      | (with_reducible refine frameOut_ite ?_ ?_) | with_reducible assumption | (with_reducible intro _)
      | with_reducible apply streamCountersReadCmd_frame | (with_reducible exact partsIn_trans (by decide) hw)
      | (dsimp only))

theorem polderCountersReadCmd_frame {A : List Part} {s0 : State} (bad : Bool) (o : Origin) (tag : BitVec 32)
    (polder : PolderId) (s : State) (hs : s0.agree A s)
    (hw : partsIn [.out, .sb, .polders, .keys, .obj, .fns, .spdm, .tracer, .power, .free] A = true) : s0.agree A
    (polderCountersReadCmd bad o tag polder s) := by
  unfold polderCountersReadCmd
  try dsimp only
  repeat' (first
      | with_reducible assumption | (with_reducible intro _) | with_reducible apply reply_frame
      | with_reducible apply runCmd_frame | (with_reducible exact partsIn_trans (by decide) hw) | split)

theorem execPolderCountersRead_frame {A : List Part} {s0 : State} (o : Origin) (tag : BitVec 32) (polder : PolderId)
    (s : State) (hs : s0.agree A s)
    (hw : partsIn [.out, .sb, .polders, .keys, .obj, .fns, .spdm, .tracer, .power, .free] A = true) : FrameOut A s0
    (execPolderCountersRead o tag polder s) := by
  unfold execPolderCountersRead
  try dsimp only
  repeat' (first
      | with_reducible exact frameOut_fault | (with_reducible apply frameOut_next)
      | (with_reducible refine frameOut_ite ?_ ?_) | with_reducible assumption | (with_reducible intro _)
      | with_reducible apply polderCountersReadCmd_frame | (with_reducible exact partsIn_trans (by decide) hw)
      | (dsimp only))

theorem configureTrace_frame {A : List Part} {s0 : State} (size : Nat) (enable : Bool) (mask : BitVec 64)
    (s : State) (hs : s0.agree A s) (hw : partsIn [.pins, .tracer, .pool] A = true) : s0.agree A
    (configureTrace size enable mask s) := by
  unfold configureTrace
  try dsimp only
  repeat' (first
      | with_reducible assumption | with_reducible apply poolGive_frame | with_reducible apply poolTake_frame
      | with_reducible apply wakeDomain_frame | (with_reducible exact partsIn_trans (by decide) hw)
      | (with_reducible refine ite_frame ?_ ?_) | split | (with_reducible refine agree_tracer ?_ ?_))

theorem traceConfigCmd_frame {A : List Part} {s0 : State} (bad : Bool) (o : Origin) (tag : BitVec 32)
    (size : BitVec 16) (enable : BitVec 8) (mask : BitVec 64) (s : State) (hs : s0.agree A s)
    (hw : partsIn [.out, .pins, .sb, .polders, .keys, .obj, .fns, .spdm, .tracer, .power, .pool, .free] A = true) :
    s0.agree A (traceConfigCmd bad o tag size enable mask s) := by
  unfold traceConfigCmd
  try dsimp only
  repeat' (first
      | with_reducible assumption | (with_reducible intro _) | with_reducible apply configureTrace_frame
      | with_reducible apply reply_frame | with_reducible apply runCmd_frame
      | (with_reducible exact partsIn_trans (by decide) hw) | split)

theorem execTraceConfig_frame {A : List Part} {s0 : State} (o : Origin) (tag : BitVec 32) (sizeMib : BitVec 16)
    (enable : BitVec 8) (mask : BitVec 64) (s : State) (hs : s0.agree A s)
    (hw : partsIn [.out, .pins, .sb, .polders, .keys, .obj, .fns, .spdm, .tracer, .power, .pool, .free] A = true) :
    FrameOut A s0 (execTraceConfig o tag sizeMib enable mask s) := by
  unfold execTraceConfig
  try dsimp only
  repeat' (first
      | with_reducible exact frameOut_fault | (with_reducible apply frameOut_next)
      | (with_reducible refine frameOut_ite ?_ ?_) | with_reducible assumption | (with_reducible intro _)
      | with_reducible apply traceConfigCmd_frame | (with_reducible exact partsIn_trans (by decide) hw)
      | (dsimp only))

theorem traceFetchCmd_frame {A : List Part} {s0 : State} (bad : Bool) (o : Origin) (tag : BitVec 32)
    (offset : BitVec 64) (length : BitVec 16) (s : State) (hs : s0.agree A s)
    (hw : partsIn [.out, .sb, .polders, .keys, .obj, .fns, .spdm, .tracer, .power, .free] A = true) : s0.agree A
    (traceFetchCmd bad o tag offset length s) := by
  unfold traceFetchCmd
  try dsimp only
  repeat' (first
      | with_reducible assumption | (with_reducible intro _) | with_reducible apply reply_frame
      | with_reducible apply runCmd_frame | (with_reducible exact partsIn_trans (by decide) hw) | split)

theorem execTraceFetch_frame {A : List Part} {s0 : State} (o : Origin) (tag : BitVec 32) (offset : BitVec 64)
    (length : BitVec 16) (s : State) (hs : s0.agree A s)
    (hw : partsIn [.out, .sb, .polders, .keys, .obj, .fns, .spdm, .tracer, .power, .free] A = true) : FrameOut A s0
    (execTraceFetch o tag offset length s) := by
  unfold execTraceFetch
  try dsimp only
  repeat' (first
      | with_reducible exact frameOut_fault | (with_reducible apply frameOut_next)
      | (with_reducible refine frameOut_ite ?_ ?_) | with_reducible assumption | (with_reducible intro _)
      | with_reducible apply traceFetchCmd_frame | (with_reducible exact partsIn_trans (by decide) hw)
      | (dsimp only))

end Sys2Proof.Machine
end

