-- ==== Sys2Proof/Laws/FrameSpdm.lean ====
section
/-! SUPPORT. Which parts of the state the operations of Machine/Spdm.lean may change (State.agree). -/

namespace Sys2Proof.Machine

theorem answerFrame_frame {A : List Part} {s0 : State} (sl : Sluice) (kind : Byte) (tag : BitVec 32) (st : Status)
    (payload : Bytes) (s : State) (hs : s0.agree A s) (hw : partsIn [.fns] A = true) : s0.agree A
    (answerFrame sl kind tag st payload s) := by
  unfold answerFrame
  try dsimp only
  repeat' (first
      | with_reducible assumption | with_reducible apply writeResponse_frame
      | (with_reducible exact partsIn_trans (by decide) hw) | split)

theorem endRequest_frame {A : List Part} {s0 : State} (sl : Sluice) (session : Option (BitVec 32)) (st : Status)
    (s : State) (hs : s0.agree A s) (hw : partsIn [.out, .fns] A = true) : s0.agree A
    (endRequest sl session st s) := by
  unfold endRequest
  try dsimp only
  repeat' (first
      | with_reducible assumption | with_reducible apply answerFrame_frame | with_reducible apply emit_frame
      | (with_reducible exact partsIn_trans (by decide) hw) | split)

theorem sendSpdm_frame {A : List Part} {s0 : State} (sl : Sluice) (session : Option (BitVec 32)) (a : SpdmAnswer)
    (s : State) (hs : s0.agree A s)
    (hw : partsIn [.out, .sb, .polders, .keys, .obj, .fns, .spdm, .tracer, .power, .free] A = true) : s0.agree A
    (sendSpdm sl session a s) := by
  unfold sendSpdm
  try dsimp only
  repeat' (first
      | with_reducible assumption | (with_reducible intro _) | with_reducible apply answerFrame_frame
      | with_reducible apply emit_frame | with_reducible apply endRequest_frame
      | with_reducible apply inlineJob_frame | with_reducible apply modSession_frame
      | (with_reducible exact partsIn_trans (by decide) hw) | (with_reducible refine ite_frame ?_ ?_)
      | (with_reducible refine ite_pair_frame ?_ ?_) | (with_reducible refine ite_trip_frame ?_ ?_) | split
      | (refine frame_of_pair (by with_reducible assumption) ?_)
      | (refine frame_of_trip (by with_reducible assumption) ?_) | (dsimp only))

theorem runSpdm_frame {A : List Part} {s0 : State} (sl : Sluice) (session : Option (BitVec 32))
    (f : State → SpdmAnswer × State) (s : State) (hs : s0.agree A s) (h_f : ∀ (s : State), s0.agree A s → s0.agree A
    (f s).2) (hw : partsIn [.out, .sb, .polders, .keys, .obj, .fns, .spdm, .tracer, .power, .free] A = true) :
    s0.agree A (runSpdm sl session f s) := by
  unfold runSpdm
  try dsimp only
  repeat' (first
      | with_reducible assumption | with_reducible apply chunkAnswer_frame | with_reducible apply endRequest_frame
      | with_reducible apply sendSpdm_frame | (with_reducible exact partsIn_trans (by decide) hw)
      | with_reducible apply h_f | (with_reducible refine ite_frame ?_ ?_)
      | (with_reducible refine ite_pair_frame ?_ ?_) | (with_reducible refine ite_trip_frame ?_ ?_) | split
      | (refine frame_of_pair (by with_reducible assumption) ?_)
      | (refine frame_of_trip (by with_reducible assumption) ?_) | (dsimp only))

theorem negotiated_frame {A : List Part} {s0 : State} (sl : Sluice) (f : State → SpdmAnswer × State) (s : State)
    (hs : s0.agree A s) (h_f : ∀ (s : State), s0.agree A s → s0.agree A (f s).2) (hw : partsIn [] A = true) :
    s0.agree A (negotiated sl f s).2 := by
  unfold negotiated
  try dsimp only
  repeat' (first
      | with_reducible assumption | (with_reducible exact partsIn_trans (by decide) hw) | with_reducible apply h_f
      | (with_reducible refine ite_frame ?_ ?_) | (with_reducible refine ite_pair_frame ?_ ?_)
      | (with_reducible refine ite_trip_frame ?_ ?_) | split | (dsimp only))

theorem inSession_frame {A : List Part} {s0 : State} (sl : Sluice) (session : Option (BitVec 32))
    (f : Session → State → SpdmAnswer × State) (s : State) (hs : s0.agree A s) (h_f : ∀ x0 (s : State),
    s0.agree A s → s0.agree A (f x0 s).2) (hw : partsIn [] A = true) : s0.agree A (inSession sl session f s).2 := by
  unfold inSession
  try dsimp only
  repeat' (first
      | with_reducible assumption | (with_reducible intro _) | (with_reducible exact partsIn_trans (by decide) hw)
      | with_reducible apply h_f | (with_reducible refine ite_pair_frame ?_ ?_)
      | (with_reducible refine ite_trip_frame ?_ ?_) | split
      | (refine frame_of_pair (by with_reducible assumption) ?_)
      | (refine frame_of_trip (by with_reducible assumption) ?_) | (dsimp only))

theorem dropSession_frame {A : List Part} {s0 : State} (id : BitVec 32) (sl : Sluice) (s : State) (hs :
    s0.agree A s) (hw : partsIn [.spdm] A = true) : s0.agree A (dropSession id sl s) := by
  unfold dropSession
  try dsimp only
  repeat' (first
      | with_reducible assumption | (with_reducible intro _) | with_reducible apply modSpdm_frame
      | (with_reducible exact partsIn_trans (by decide) hw) | (with_reducible apply id_frame))

theorem spdmVersion_frame {A : List Part} {s0 : State} (sl : Sluice) (s : State) (hs : s0.agree A s)
    (hw : partsIn [.spdm] A = true) : s0.agree A (spdmVersion sl s).2 := by
  unfold spdmVersion
  try dsimp only
  repeat' (first
      | with_reducible assumption | (with_reducible intro _) | with_reducible apply modSpdm_frame
      | (with_reducible exact partsIn_trans (by decide) hw) | (with_reducible refine ite_pair_frame ?_ ?_)
      | (with_reducible refine ite_trip_frame ?_ ?_) | (dsimp only))

theorem spdmCapabilities_frame {A : List Part} {s0 : State} (s : State) (hs : s0.agree A s)
    (hw : partsIn [] A = true) : s0.agree A (spdmCapabilities s).2 := by
  unfold spdmCapabilities
  try dsimp only
  repeat' (first
      | with_reducible assumption | (with_reducible exact partsIn_trans (by decide) hw)
      | (with_reducible refine ite_pair_frame ?_ ?_) | (with_reducible refine ite_trip_frame ?_ ?_) | (dsimp only))

theorem spdmAlgorithms_frame {A : List Part} {s0 : State} (sl : Sluice) (request : Bytes) (s : State) (hs :
    s0.agree A s) (hw : partsIn [.spdm] A = true) : s0.agree A (spdmAlgorithms sl request s).2 := by
  unfold spdmAlgorithms
  try dsimp only
  repeat' (first
      | with_reducible assumption | (with_reducible intro _) | with_reducible apply modSpdm_frame
      | (with_reducible exact partsIn_trans (by decide) hw) | (with_reducible refine ite_frame ?_ ?_)
      | (with_reducible refine ite_pair_frame ?_ ?_) | (with_reducible refine ite_trip_frame ?_ ?_) | split
      | (dsimp only))

theorem spdmDigests_frame {A : List Part} {s0 : State} (s : State) (hs : s0.agree A s) (hw : partsIn [] A = true) :
    s0.agree A (spdmDigests s).2 := by
  unfold spdmDigests
  try dsimp only
  repeat' (first
      | with_reducible assumption | (with_reducible exact partsIn_trans (by decide) hw)
      | (with_reducible refine ite_pair_frame ?_ ?_) | (with_reducible refine ite_trip_frame ?_ ?_) | split
      | (dsimp only))

theorem spdmCertificate_frame {A : List Part} {s0 : State} (slot : BitVec 8) (offset : Nat) (length : Nat)
    (s : State) (hs : s0.agree A s) (hw : partsIn [] A = true) : s0.agree A
    (spdmCertificate slot offset length s).2 := by
  unfold spdmCertificate
  try dsimp only
  repeat' (first
      | with_reducible assumption | (with_reducible exact partsIn_trans (by decide) hw)
      | (with_reducible refine ite_frame ?_ ?_) | (with_reducible refine ite_pair_frame ?_ ?_)
      | (with_reducible refine ite_trip_frame ?_ ?_) | split | (dsimp only))

theorem signTranscript_frame {A : List Part} {s0 : State} (sl : Sluice) (r : SpdmRequest) (a : SpdmAnswer)
    (s : State) (hs : s0.agree A s) (hw : partsIn [.spdm] A = true) : s0.agree A (signTranscript sl r a s).2.2 := by
  unfold signTranscript
  try dsimp only
  repeat' (first
      | with_reducible assumption | (with_reducible intro _) | with_reducible apply modSpdm_frame
      | (with_reducible exact partsIn_trans (by decide) hw) | (with_reducible refine ite_pair_frame ?_ ?_)
      | (with_reducible refine ite_trip_frame ?_ ?_) | (dsimp only))

theorem noted_frame {A : List Part} {s0 : State} (sl : Sluice) (session : Option (BitVec 32)) (r : SpdmRequest)
    (f : State → SpdmAnswer × State) (s : State) (hs : s0.agree A s) (h_f : ∀ (s : State), s0.agree A s → s0.agree A
    (f s).2) (hw : partsIn [.spdm] A = true) : s0.agree A (noted sl session r f s).2 := by
  unfold noted
  try dsimp only
  repeat' (first
      | with_reducible assumption | (with_reducible intro _) | with_reducible apply modSpdm_frame
      | (with_reducible exact partsIn_trans (by decide) hw) | with_reducible apply h_f
      | (with_reducible refine ite_frame ?_ ?_) | (with_reducible refine ite_pair_frame ?_ ?_)
      | (with_reducible refine ite_trip_frame ?_ ?_) | split | (dsimp only))

theorem drawNonce_frame {A : List Part} {s0 : State} (s : State) (hs : s0.agree A s)
    (hw : partsIn [.out, .pins, .sb, .polders, .cad, .keys, .stack, .obj, .fns, .tracer, .power, .free] A = true) :
    s0.agree A (drawNonce s).2 := by
  unfold drawNonce
  try dsimp only
  repeat' (first
      | with_reducible assumption | with_reducible apply drbgDraw_frame
      | (with_reducible exact partsIn_trans (by decide) hw) | (with_reducible refine ite_pair_frame ?_ ?_)
      | (with_reducible refine ite_trip_frame ?_ ?_) | (dsimp only))

theorem spdmChallenge_frame {A : List Part} {s0 : State} (sl : Sluice) (slot : BitVec 8) (nonce : BitVec 256)
    (s : State) (hs : s0.agree A s)
    (hw : partsIn [.out, .pins, .sb, .polders, .cad, .keys, .stack, .obj, .fns, .spdm, .tracer, .power, .free] A = true) :
    s0.agree A (spdmChallenge sl slot nonce s).2 := by
  unfold spdmChallenge
  try dsimp only
  repeat' (first
      | with_reducible assumption | with_reducible apply drawNonce_frame | with_reducible apply signTranscript_frame
      | (with_reducible exact partsIn_trans (by decide) hw) | (with_reducible refine ite_frame ?_ ?_)
      | (with_reducible refine ite_pair_frame ?_ ?_) | (with_reducible refine ite_trip_frame ?_ ?_) | split
      | (dsimp only))

theorem spdmMeasurements_frame {A : List Part} {s0 : State} (sl : Sluice) (index : BitVec 8) (signed : Bool)
    (nonce : BitVec 256) (s : State) (hs : s0.agree A s)
    (hw : partsIn [.out, .pins, .sb, .polders, .cad, .keys, .stack, .obj, .fns, .spdm, .tracer, .power, .free] A = true) :
    s0.agree A (spdmMeasurements sl index signed nonce s).2 := by
  unfold spdmMeasurements
  try dsimp only
  repeat' (first
      | with_reducible assumption | (with_reducible intro _) | with_reducible apply drawNonce_frame
      | with_reducible apply signTranscript_frame | (with_reducible exact partsIn_trans (by decide) hw)
      | (with_reducible refine ite_frame ?_ ?_) | (with_reducible refine ite_pair_frame ?_ ?_)
      | (with_reducible refine ite_trip_frame ?_ ?_) | split
      | (refine frame_of_pair (by with_reducible assumption) ?_)
      | (refine frame_of_trip (by with_reducible assumption) ?_) | (dsimp only))

theorem spdmPqSignature_frame {A : List Part} {s0 : State} (sl : Sluice) (s : State) (hs : s0.agree A s)
    (hw : partsIn [] A = true) : s0.agree A (spdmPqSignature sl s).2 := by
  unfold spdmPqSignature
  try dsimp only
  repeat' (first
      | with_reducible assumption | (with_reducible exact partsIn_trans (by decide) hw)
      | (with_reducible refine ite_pair_frame ?_ ?_) | (with_reducible refine ite_trip_frame ?_ ?_) | split
      | (refine frame_of_pair (by with_reducible assumption) ?_)
      | (refine frame_of_trip (by with_reducible assumption) ?_) | (dsimp only))

theorem spdmKemOffer_frame {A : List Part} {s0 : State} (sl : Sluice) (key : Bytes) (s : State) (hs : s0.agree A s)
    (hw : partsIn [.out, .pins, .sb, .polders, .cad, .keys, .stack, .obj, .fns, .spdm, .tracer, .power, .free] A = true) :
    s0.agree A (spdmKemOffer sl key s).2 := by
  unfold spdmKemOffer
  try dsimp only
  repeat' (first
      | with_reducible assumption | (with_reducible intro _) | with_reducible apply drbgDraw_frame
      | with_reducible apply modSpdm_frame | (with_reducible exact partsIn_trans (by decide) hw)
      | (with_reducible refine ite_frame ?_ ?_) | (with_reducible refine ite_pair_frame ?_ ?_)
      | (with_reducible refine ite_trip_frame ?_ ?_) | split | (dsimp only))

theorem spdmKeyExchange_frame {A : List Part} {s0 : State} (sl : Sluice) (half : BitVec 16) (share : Bytes)
    (kemHash : Digest) (wantMutual : Bool) (s : State) (hs : s0.agree A s)
    (hw : partsIn [.out, .pins, .sb, .polders, .cad, .keys, .stack, .obj, .fns, .spdm, .tracer, .power, .free] A = true) :
    s0.agree A (spdmKeyExchange sl half share kemHash wantMutual s).2 := by
  unfold spdmKeyExchange
  try dsimp only
  repeat' (first
      | with_reducible assumption | (with_reducible intro _) | with_reducible apply drbgDraw_frame
      | with_reducible apply modSpdm_frame | with_reducible apply signTranscript_frame
      | (with_reducible exact partsIn_trans (by decide) hw) | (with_reducible apply id_frame)
      | (with_reducible refine ite_frame ?_ ?_) | (with_reducible refine ite_pair_frame ?_ ?_)
      | (with_reducible refine ite_trip_frame ?_ ?_) | split
      | (refine frame_of_pair (by with_reducible assumption) ?_)
      | (refine frame_of_trip (by with_reducible assumption) ?_) | (dsimp only))

theorem spdmNextRequest_frame {A : List Part} {s0 : State} (x : Session) (s : State) (hs : s0.agree A s)
    (hw : partsIn [.spdm] A = true) : s0.agree A (spdmNextRequest x s).2 := by
  unfold spdmNextRequest
  try dsimp only
  repeat' (first
      | with_reducible assumption | (with_reducible intro _) | with_reducible apply modSession_frame
      | (with_reducible exact partsIn_trans (by decide) hw) | (with_reducible refine ite_frame ?_ ?_)
      | (with_reducible refine ite_pair_frame ?_ ?_) | (with_reducible refine ite_trip_frame ?_ ?_) | split
      | (dsimp only))

theorem spdmDelivered_frame {A : List Part} {s0 : State} (x : Session) (chain : Bytes) (signature : Bytes)
    (s : State) (hs : s0.agree A s) (hw : partsIn [.spdm] A = true) : s0.agree A
    (spdmDelivered x chain signature s).2 := by
  unfold spdmDelivered
  try dsimp only
  repeat' (first
      | with_reducible assumption | (with_reducible intro _) | with_reducible apply dropSession_frame
      | with_reducible apply modSession_frame | (with_reducible exact partsIn_trans (by decide) hw)
      | (with_reducible refine ite_frame ?_ ?_) | (with_reducible refine ite_pair_frame ?_ ?_)
      | (with_reducible refine ite_trip_frame ?_ ?_) | split | (dsimp only))

theorem spdmFinish_frame {A : List Part} {s0 : State} (x : Session) (verify : Digest) (s : State) (hs :
    s0.agree A s) (hw : partsIn [.spdm] A = true) : s0.agree A (spdmFinish x verify s).2 := by
  unfold spdmFinish
  try dsimp only
  repeat' (first
      | with_reducible assumption | (with_reducible intro _) | with_reducible apply dropSession_frame
      | with_reducible apply modSession_frame | (with_reducible exact partsIn_trans (by decide) hw)
      | (with_reducible refine ite_frame ?_ ?_) | (with_reducible refine ite_pair_frame ?_ ?_)
      | (with_reducible refine ite_trip_frame ?_ ?_) | split | (dsimp only))

theorem spdmHeartbeat_frame {A : List Part} {s0 : State} (x : Session) (s : State) (hs : s0.agree A s)
    (hw : partsIn [] A = true) : s0.agree A (spdmHeartbeat x s).2 := by
  unfold spdmHeartbeat
  try dsimp only
  repeat' (first
      | with_reducible assumption | (with_reducible exact partsIn_trans (by decide) hw)
      | (with_reducible refine ite_frame ?_ ?_) | (with_reducible refine ite_pair_frame ?_ ?_)
      | (with_reducible refine ite_trip_frame ?_ ?_) | split | (dsimp only))

theorem spdmKeyUpdate_frame {A : List Part} {s0 : State} (x : Session) (both : Bool) (s : State) (hs : s0.agree A s)
    (hw : partsIn [.spdm] A = true) : s0.agree A (spdmKeyUpdate x both s).2 := by
  unfold spdmKeyUpdate
  try dsimp only
  repeat' (first
      | with_reducible assumption | (with_reducible intro _) | with_reducible apply modSession_frame
      | (with_reducible exact partsIn_trans (by decide) hw) | (with_reducible refine ite_frame ?_ ?_)
      | (with_reducible refine ite_pair_frame ?_ ?_) | (with_reducible refine ite_trip_frame ?_ ?_) | split
      | (dsimp only))

theorem spdmEnded_frame {A : List Part} {s0 : State} (unused : Session) (s : State) (hs : s0.agree A s)
    (hw : partsIn [] A = true) : s0.agree A (spdmEnded unused s).2 := by
  unfold spdmEnded
  try dsimp only
  repeat' (first
      | with_reducible assumption | (with_reducible exact partsIn_trans (by decide) hw)
      | (with_reducible refine ite_pair_frame ?_ ?_) | (with_reducible refine ite_trip_frame ?_ ?_) | (dsimp only))

theorem endSessionSpdm_frame {A : List Part} {s0 : State} (sl : Sluice) (session : Option (BitVec 32)) (s : State)
    (hs : s0.agree A s)
    (hw : partsIn [.out, .sb, .polders, .keys, .obj, .fns, .spdm, .tracer, .power, .free] A = true) : s0.agree A
    (endSessionSpdm sl session s) := by
  unfold endSessionSpdm
  try dsimp only
  repeat' (first
      | with_reducible assumption | (with_reducible intro _) | with_reducible apply dropSession_frame
      | with_reducible apply inSession_frame | with_reducible apply runSpdm_frame
      | with_reducible apply spdmEnded_frame | (with_reducible exact partsIn_trans (by decide) hw)
      | (with_reducible apply foldl_frame) | (with_reducible apply foldl_pair_frame)
      | (with_reducible apply foldl_trip_frame) | (with_reducible apply id_frame)
      | (with_reducible exact frameOpt_none) | (with_reducible apply frameOpt_some)
      | (refine frame_of_opt (by with_reducible assumption) ?_) | (with_reducible refine ite_frame ?_ ?_)
      | (with_reducible refine ite_pair_frame ?_ ?_) | (with_reducible refine ite_trip_frame ?_ ?_) | split
      | (refine frame_of_pair (by with_reducible assumption) ?_)
      | (refine frame_of_trip (by with_reducible assumption) ?_) | (dsimp only))

theorem spdmChunkGet_frame {A : List Part} {s0 : State} (sl : Sluice) (handle : BitVec 8) (seq : BitVec 16)
    (s : State) (hs : s0.agree A s) (hw : partsIn [.spdm] A = true) : s0.agree A
    (spdmChunkGet sl handle seq s).2 := by
  unfold spdmChunkGet
  try dsimp only
  repeat' (first
      | with_reducible assumption | (with_reducible intro _) | with_reducible apply modSpdm_frame
      | (with_reducible exact partsIn_trans (by decide) hw) | (with_reducible refine ite_frame ?_ ?_)
      | (with_reducible refine ite_pair_frame ?_ ?_) | (with_reducible refine ite_trip_frame ?_ ?_) | split
      | (refine frame_of_pair (by with_reducible assumption) ?_)
      | (refine frame_of_trip (by with_reducible assumption) ?_) | (dsimp only))

theorem spdmChunkSend_frame {A : List Part} {s0 : State} (sl : Sluice) (handle : BitVec 8) (last : Bool)
    (data : Bytes) (s : State) (hs : s0.agree A s) (hw : partsIn [.spdm] A = true) : s0.agree A
    (spdmChunkSend sl handle last data s).2 := by
  unfold spdmChunkSend
  try dsimp only
  repeat' (first
      | with_reducible assumption | (with_reducible intro _) | with_reducible apply modSpdm_frame
      | (with_reducible exact partsIn_trans (by decide) hw) | (with_reducible refine ite_frame ?_ ?_)
      | (with_reducible refine ite_pair_frame ?_ ?_) | (with_reducible refine ite_trip_frame ?_ ?_) | split
      | (dsimp only))

end Sys2Proof.Machine
end

