-- ==== Sys2Proof/Laws/FrameFrames.lean ====
section
/-! SUPPORT. Which parts of the state the operations of Machine/Frames.lean may change (State.agree). -/

namespace Sys2Proof.Machine

theorem unassigned_frame {A : List Part} {s0 : State} (o : Origin) (tag : BitVec 32) (opcode : BitVec 16)
    (s : State) (hs : s0.agree A s)
    (hw : partsIn [.out, .sb, .polders, .keys, .obj, .fns, .spdm, .tracer, .power, .free] A = true) : s0.agree A
    (unassigned o tag opcode s) := by
  unfold unassigned
  try dsimp only
  repeat' (first
      | with_reducible assumption | with_reducible apply refuse_frame
      | (with_reducible exact partsIn_trans (by decide) hw) | (with_reducible refine ite_frame ?_ ?_) | split)

theorem polderFrame_frame {A : List Part} {s0 : State} (low : Nat) (o : Origin) (tag : BitVec 32) (bad : Bool)
    (p : Bytes) (s : State) (hs : s0.agree A s)
    (hw : partsIn [.out, .pins, .sb, .datum, .polders, .cad, .keys, .link, .stack, .tray, .fau, .rings, .coll, .bars, .sca, .obj, .fns, .spdm, .charts, .tracer, .gauge, .power, .pool, .free] A = true) :
    s0.agree A (polderFrame low o tag bad p s) := by
  unfold polderFrame
  try dsimp only
  repeat' (first
      | with_reducible assumption | with_reducible apply polderListCmd_frame
      | with_reducible apply polderMembershipCmd_frame | with_reducible apply polderProvisionCmd_frame
      | with_reducible apply polderTeardownCmd_frame | with_reducible apply unassigned_frame
      | (with_reducible exact partsIn_trans (by decide) hw) | (with_reducible apply id_frame) | split)

theorem keyFrame_frame {A : List Part} {s0 : State} (low : Nat) (o : Origin) (tag : BitVec 32) (bad : Bool)
    (p : Bytes) (s : State) (hs : s0.agree A s)
    (hw : partsIn [.out, .pins, .sb, .datum, .polders, .cad, .keys, .link, .stack, .tray, .fau, .rings, .coll, .bars, .sca, .obj, .fns, .spdm, .charts, .tracer, .gauge, .power, .pool, .free] A = true) :
    s0.agree A (keyFrame low o tag bad p s) := by
  unfold keyFrame
  try dsimp only
  repeat' (first
      | with_reducible assumption | with_reducible apply keySlotPinCmd_frame
      | with_reducible apply keySlotStatusCmd_frame | with_reducible apply keySlotUnpinCmd_frame
      | with_reducible apply unassigned_frame | (with_reducible exact partsIn_trans (by decide) hw) | split)

theorem plotFrame_frame {A : List Part} {s0 : State} (low : Nat) (o : Origin) (tag : BitVec 32) (bad : Bool)
    (p : Bytes) (s : State) (hs : s0.agree A s)
    (hw : partsIn [.out, .pins, .sb, .datum, .polders, .cad, .keys, .link, .stack, .tray, .fau, .rings, .coll, .bars, .sca, .obj, .fns, .spdm, .charts, .tracer, .gauge, .power, .pool, .free] A = true) :
    s0.agree A (plotFrame low o tag bad p s) := by
  unfold plotFrame
  try dsimp only
  repeat' (first
      | with_reducible assumption | with_reducible apply memobjCreateCmd_frame
      | with_reducible apply memobjFreeCmd_frame | with_reducible apply plotAssignCmd_frame
      | with_reducible apply plotQueryCmd_frame | with_reducible apply plotReleaseCmd_frame
      | with_reducible apply unassigned_frame | (with_reducible exact partsIn_trans (by decide) hw)
      | (with_reducible apply id_frame) | split)

theorem objectFrame_frame {A : List Part} {s0 : State} (low : Nat) (o : Origin) (tag : BitVec 32) (bad : Bool)
    (p : Bytes) (s : State) (hs : s0.agree A s)
    (hw : partsIn [.out, .pins, .sb, .datum, .polders, .cad, .keys, .link, .stack, .tray, .fau, .rings, .coll, .bars, .sca, .obj, .fns, .spdm, .charts, .tracer, .gauge, .power, .pool, .free] A = true) :
    s0.agree A (objectFrame low o tag bad p s) := by
  unfold objectFrame
  try dsimp only
  repeat' (first
      | with_reducible assumption | with_reducible apply contextCreateCmd_frame
      | with_reducible apply contextDestroyCmd_frame | with_reducible apply eventRingCreateCmd_frame
      | with_reducible apply eventRingDestroyCmd_frame | with_reducible apply fenceCreateCmd_frame
      | with_reducible apply fenceDestroyCmd_frame | with_reducible apply fenceShareCmd_frame
      | with_reducible apply queueCreateCmd_frame | with_reducible apply queueDestroyCmd_frame
      | with_reducible apply unassigned_frame | (with_reducible exact partsIn_trans (by decide) hw)
      | (with_reducible apply id_frame) | split)

theorem regionFrame_frame {A : List Part} {s0 : State} (low : Nat) (o : Origin) (tag : BitVec 32) (bad : Bool)
    (p : Bytes) (s : State) (hs : s0.agree A s)
    (hw : partsIn [.out, .pins, .sb, .polders, .cad, .keys, .stack, .fau, .obj, .fns, .spdm, .tracer, .power, .free] A = true) :
    s0.agree A (regionFrame low o tag bad p s) := by
  unfold regionFrame
  try dsimp only
  repeat' (first
      | with_reducible assumption | with_reducible apply regionExportCmd_frame
      | with_reducible apply regionQueryCmd_frame | with_reducible apply regionWithdrawCmd_frame
      | with_reducible apply unassigned_frame | (with_reducible exact partsIn_trans (by decide) hw) | split)

theorem extentFrame_frame {A : List Part} {s0 : State} (low : Nat) (o : Origin) (tag : BitVec 32) (bad : Bool)
    (p : Bytes) (s : State) (hs : s0.agree A s)
    (hw : partsIn [.out, .pins, .sb, .polders, .cad, .keys, .stack, .tray, .fau, .obj, .fns, .spdm, .weirs, .tracer, .power, .free] A = true) :
    s0.agree A (extentFrame low o tag bad p s) := by
  unfold extentFrame
  try dsimp only
  repeat' (first
      | with_reducible assumption | with_reducible apply extentGrantCmd_frame
      | with_reducible apply extentHandoverCmd_frame | with_reducible apply extentHintCmd_frame
      | with_reducible apply extentRekeyCmd_frame | with_reducible apply extentRenewCmd_frame
      | with_reducible apply extentRevokeCmd_frame | with_reducible apply extentStatusCmd_frame
      | with_reducible apply trayRebuildRateCmd_frame | with_reducible apply trayStatusCmd_frame
      | with_reducible apply unassigned_frame | (with_reducible exact partsIn_trans (by decide) hw)
      | (with_reducible apply id_frame) | split)

theorem groupFrame_frame {A : List Part} {s0 : State} (low : Nat) (o : Origin) (tag : BitVec 32) (bad : Bool)
    (p : Bytes) (s : State) (hs : s0.agree A s)
    (hw : partsIn [.out, .pins, .sb, .datum, .polders, .cad, .keys, .link, .stack, .tray, .fau, .rings, .coll, .bars, .sca, .obj, .fns, .spdm, .charts, .tracer, .gauge, .power, .pool, .free] A = true) :
    s0.agree A (groupFrame low o tag bad p s) := by
  unfold groupFrame
  try dsimp only
  repeat' (first
      | with_reducible assumption | (with_reducible intro _) | with_reducible apply collectiveGroupDefineCmd_frame
      | with_reducible apply collectiveGroupDestroyCmd_frame | with_reducible apply groupQueryCmd_frame
      | with_reducible apply mcastGroupJoinCmd_frame | with_reducible apply mcastGroupLeaveCmd_frame
      | with_reducible apply ringCreateCmd_frame | with_reducible apply ringDestroyCmd_frame
      | with_reducible apply ringMemberDeadCmd_frame | with_reducible apply unassigned_frame
      | (with_reducible exact partsIn_trans (by decide) hw) | split)

theorem syncFrame_frame {A : List Part} {s0 : State} (low : Nat) (o : Origin) (tag : BitVec 32) (bad : Bool)
    (p : Bytes) (s : State) (hs : s0.agree A s)
    (hw : partsIn [.out, .sb, .datum, .polders, .keys, .obj, .fns, .spdm, .tracer, .power, .free] A = true) :
    s0.agree A (syncFrame low o tag bad p s) := by
  unfold syncFrame
  try dsimp only
  repeat' (first
      | with_reducible assumption | with_reducible apply contextStepReadCmd_frame
      | with_reducible apply datumConfigCmd_frame | with_reducible apply datumStatusCmd_frame
      | with_reducible apply markQueueStatusCmd_frame | with_reducible apply syncCounterReadCmd_frame
      | with_reducible apply unassigned_frame | (with_reducible exact partsIn_trans (by decide) hw) | split)

theorem chartFrame_frame {A : List Part} {s0 : State} (low : Nat) (o : Origin) (tag : BitVec 32) (bad : Bool)
    (p : Bytes) (s : State) (hs : s0.agree A s)
    (hw : partsIn [.out, .pins, .sb, .datum, .polders, .cad, .keys, .link, .stack, .tray, .fau, .rings, .coll, .bars, .sca, .obj, .fns, .spdm, .charts, .tracer, .gauge, .power, .pool, .free] A = true) :
    s0.agree A (chartFrame low o tag bad p s) := by
  unfold chartFrame
  try dsimp only
  repeat' (first
      | with_reducible assumption | with_reducible apply chartDiscardCmd_frame
      | with_reducible apply chartExportCmd_frame | with_reducible apply chartImportCmd_frame
      | with_reducible apply chartResumeCmd_frame | with_reducible apply unassigned_frame
      | (with_reducible exact partsIn_trans (by decide) hw) | (with_reducible apply id_frame) | split)

theorem weirFrame_frame {A : List Part} {s0 : State} (low : Nat) (o : Origin) (tag : BitVec 32) (bad : Bool)
    (p : Bytes) (s : State) (hs : s0.agree A s)
    (hw : partsIn [.out, .pins, .sb, .datum, .polders, .cad, .keys, .link, .stack, .tray, .fau, .rings, .coll, .bars, .sca, .obj, .fns, .spdm, .weirs, .charts, .tracer, .gauge, .power, .pool, .free] A = true) :
    s0.agree A (weirFrame low o tag bad p s) := by
  unfold weirFrame
  try dsimp only
  repeat' (first
      | with_reducible assumption | with_reducible apply unassigned_frame | with_reducible apply weirConfigCmd_frame
      | with_reducible apply weirStatusCmd_frame | (with_reducible exact partsIn_trans (by decide) hw) | split)

theorem observeFrame_frame {A : List Part} {s0 : State} (low : Nat) (o : Origin) (tag : BitVec 32) (bad : Bool)
    (p : Bytes) (s : State) (hs : s0.agree A s)
    (hw : partsIn [.out, .pins, .sb, .polders, .keys, .obj, .fns, .spdm, .tracer, .power, .pool, .free] A = true) :
    s0.agree A (observeFrame low o tag bad p s) := by
  unfold observeFrame
  try dsimp only
  repeat' (first
      | with_reducible assumption | with_reducible apply counterReadCmd_frame
      | with_reducible apply polderCountersReadCmd_frame | with_reducible apply streamCountersReadCmd_frame
      | with_reducible apply traceConfigCmd_frame | with_reducible apply traceFetchCmd_frame
      | with_reducible apply unassigned_frame | (with_reducible exact partsIn_trans (by decide) hw) | split)

theorem lcFrame_frame {A : List Part} {s0 : State} (low : Nat) (o : Origin) (tag : BitVec 32) (bad : Bool)
    (p : Bytes) (s : State) (hs : s0.agree A s)
    (hw : partsIn [.out, .pins, .fuses, .lc, .sb, .datum, .polders, .cad, .keys, .link, .stack, .tray, .fau, .rings, .coll, .bars, .sca, .obj, .fns, .spdm, .charts, .tracer, .gauge, .power, .pool, .free] A = true) :
    s0.agree A (lcFrame low o tag bad p s) := by
  unfold lcFrame
  try dsimp only
  repeat' (first
      | with_reducible assumption | with_reducible apply debugAuthoriseCmd_frame
      | with_reducible apply debugCloseCmd_frame | with_reducible apply lcChallengeCmd_frame
      | with_reducible apply lcStatusCmd_frame | with_reducible apply lcTransitionCmd_frame
      | with_reducible apply unassigned_frame | (with_reducible exact partsIn_trans (by decide) hw) | split)

theorem gaugeFrame_frame {A : List Part} {s0 : State} (low : Nat) (o : Origin) (tag : BitVec 32) (bad : Bool)
    (p : Bytes) (s : State) (hs : s0.agree A s)
    (hw : partsIn [.out, .sb, .polders, .keys, .obj, .fns, .spdm, .tracer, .gauge, .power, .free] A = true) :
    s0.agree A (gaugeFrame low o tag bad p s) := by
  unfold gaugeFrame
  try dsimp only
  repeat' (first
      | with_reducible assumption | with_reducible apply gaugeCountersReadCmd_frame
      | with_reducible apply gaugeIdentityCmd_frame | with_reducible apply gaugeRecordFetchCmd_frame
      | with_reducible apply gaugeRecordReleaseCmd_frame | with_reducible apply unassigned_frame
      | (with_reducible exact partsIn_trans (by decide) hw) | split)

theorem resetFrame_frame {A : List Part} {s0 : State} (o : Origin) (tag : BitVec 32) (bad : Bool) (p : Bytes)
    (s : State) (hs : s0.agree A s)
    (hw : partsIn [.out, .owner, .pins, .boot, .flash, .lc, .sb, .datum, .polders, .cad, .keys, .link, .stack, .tray, .fau, .rings, .coll, .bars, .sca, .obj, .fns, .spdm, .weirs, .charts, .tracer, .gauge, .power, .regs, .pool, .free] A = true) :
    s0.agree A (resetFrame o tag bad p s) := by
  unfold resetFrame
  try dsimp only
  repeat' (first
      | with_reducible assumption | (with_reducible intro _) | with_reducible apply resetBlockCmd_frame
      | with_reducible apply resetContextCmd_frame | with_reducible apply resetEngineCmd_frame
      | with_reducible apply resetPolderCmd_frame | with_reducible apply resetVfCmd_frame
      | with_reducible apply runCmd_frame | (with_reducible exact partsIn_trans (by decide) hw)
      | (with_reducible apply id_frame) | split)

theorem faultFrame_frame {A : List Part} {s0 : State} (low : Nat) (o : Origin) (tag : BitVec 32) (bad : Bool)
    (p : Bytes) (s : State) (hs : s0.agree A s)
    (hw : partsIn [.out, .owner, .pins, .boot, .flash, .lc, .sb, .datum, .polders, .cad, .keys, .link, .stack, .tray, .fau, .rings, .coll, .bars, .sca, .obj, .fns, .spdm, .weirs, .charts, .tracer, .gauge, .power, .regs, .pool, .free] A = true) :
    s0.agree A (faultFrame low o tag bad p s) := by
  unfold faultFrame
  try dsimp only
  repeat' (first
      | with_reducible assumption | with_reducible apply crashDumpReadCmd_frame
      | with_reducible apply faultReadCmd_frame | with_reducible apply floodwatchConfigCmd_frame
      | with_reducible apply resetFrame_frame | with_reducible apply serviceReleaseCmd_frame
      | with_reducible apply stragglerReadCmd_frame | with_reducible apply unassigned_frame
      | (with_reducible exact partsIn_trans (by decide) hw) | split)

theorem firmwareFrame_frame {A : List Part} {s0 : State} (low : Nat) (o : Origin) (tag : BitVec 32) (bad : Bool)
    (p : Bytes) (s : State) (hs : s0.agree A s)
    (hw : partsIn [.out, .boot, .fuses, .sb, .polders, .keys, .obj, .fns, .spdm, .tracer, .power, .free] A = true) :
    s0.agree A (firmwareFrame low o tag bad p s) := by
  unfold firmwareFrame
  try dsimp only
  repeat' (first
      | with_reducible assumption | with_reducible apply firmwareActivateCmd_frame
      | with_reducible apply firmwareCommitSvnCmd_frame | with_reducible apply firmwareStageCmd_frame
      | with_reducible apply identityReadCmd_frame | with_reducible apply surveyReadCmd_frame
      | with_reducible apply unassigned_frame | (with_reducible exact partsIn_trans (by decide) hw) | split)

theorem runFrame_frame {A : List Part} {s0 : State} (o : Origin) (tag : BitVec 32) (opcode : BitVec 16) (bad : Bool)
    (p : Bytes) (s : State) (hs : s0.agree A s)
    (hw : partsIn [.out, .owner, .pins, .boot, .fuses, .flash, .lc, .sb, .datum, .polders, .cad, .keys, .link, .stack, .tray, .fau, .rings, .coll, .bars, .sca, .obj, .fns, .spdm, .weirs, .charts, .tracer, .gauge, .power, .regs, .pool, .free] A = true) :
    s0.agree A (runFrame o tag opcode bad p s) := by
  unfold runFrame
  try dsimp only
  repeat' (first
      | with_reducible assumption | with_reducible apply chartFrame_frame | with_reducible apply extentFrame_frame
      | with_reducible apply faultFrame_frame | with_reducible apply firmwareFrame_frame
      | with_reducible apply gaugeFrame_frame | with_reducible apply groupFrame_frame
      | with_reducible apply keyFrame_frame | with_reducible apply lcFrame_frame
      | with_reducible apply objectFrame_frame | with_reducible apply observeFrame_frame
      | with_reducible apply plotFrame_frame | with_reducible apply polderFrame_frame
      | with_reducible apply regionFrame_frame | with_reducible apply syncFrame_frame
      | with_reducible apply unassigned_frame | with_reducible apply weirFrame_frame
      | (with_reducible exact partsIn_trans (by decide) hw) | split)

theorem refuseFrame_frame {A : List Part} {s0 : State} (o : Origin) (kind : Byte) (tag : BitVec 32) (st : Status)
    (s : State) (hs : s0.agree A s) (hw : partsIn [.out, .fns] A = true) : s0.agree A
    (refuseFrame o kind tag st s) := by
  unfold refuseFrame
  try dsimp only
  repeat' (first
      | with_reducible assumption | with_reducible apply answerFrame_frame | with_reducible apply emit_frame
      | (with_reducible exact partsIn_trans (by decide) hw))

theorem fetchResult_frame {A : List Part} {s0 : State} (o : Origin) (tag : BitVec 32) (s : State) (hs :
    s0.agree A s) (hw : partsIn [.out, .sb, .polders, .keys, .obj, .fns, .spdm, .tracer, .power, .free] A = true) :
    s0.agree A (fetchResult o tag s) := by
  unfold fetchResult
  try dsimp only
  repeat' (first
      | with_reducible assumption | (with_reducible intro _) | with_reducible apply answerAs_frame
      | with_reducible apply refuseFrame_frame | (with_reducible exact partsIn_trans (by decide) hw)
      | (with_reducible refine ite_frame ?_ ?_) | split | (with_reducible refine agree_fns ?_ ?_))

theorem fetchFrame_frame {A : List Part} {s0 : State} (o : Origin) (tag : BitVec 32) (s : State) (hs : s0.agree A s)
    (hw : partsIn [.out, .sb, .polders, .keys, .obj, .fns, .spdm, .tracer, .power, .free] A = true) : s0.agree A
    (fetchFrame o tag s) := by
  unfold fetchFrame
  try dsimp only
  repeat' (first
      | with_reducible assumption | with_reducible apply fetchResult_frame | with_reducible apply refuseFrame_frame
      | (with_reducible exact partsIn_trans (by decide) hw) | (with_reducible refine ite_frame ?_ ?_) | split)

theorem execFetch_frame {A : List Part} {s0 : State} (o : Origin) (tag : BitVec 32) (s : State) (hs : s0.agree A s)
    (hw : partsIn [.out, .sb, .polders, .keys, .obj, .fns, .spdm, .tracer, .power, .free] A = true) : FrameOut A s0
    (execFetch o tag s) := by
  unfold execFetch
  try dsimp only
  repeat' (first
      | with_reducible exact frameOut_fault | (with_reducible apply frameOut_next)
      | (with_reducible refine frameOut_ite ?_ ?_) | with_reducible assumption | (with_reducible intro _)
      | with_reducible apply fetchFrame_frame | (with_reducible exact partsIn_trans (by decide) hw) | (dsimp only))

theorem plainSpdm_frame {A : List Part} {s0 : State} (sl : Sluice) (n : Option (BitVec 32)) (r : SpdmRequest)
    (s : State) (hs : s0.agree A s)
    (hw : partsIn [.out, .pins, .sb, .polders, .cad, .keys, .stack, .obj, .fns, .spdm, .tracer, .power, .free] A = true) :
    s0.agree A (plainSpdm sl n r s) := by
  unfold plainSpdm
  try dsimp only
  repeat' (first
      | with_reducible assumption | (with_reducible intro _) | with_reducible apply endSessionSpdm_frame
      | with_reducible apply inSession_frame | with_reducible apply negotiated_frame
      | with_reducible apply noted_frame | with_reducible apply runSpdm_frame
      | with_reducible apply spdmAlgorithms_frame | with_reducible apply spdmCapabilities_frame
      | with_reducible apply spdmCertificate_frame | with_reducible apply spdmChallenge_frame
      | with_reducible apply spdmChunkGet_frame | with_reducible apply spdmChunkSend_frame
      | with_reducible apply spdmDelivered_frame | with_reducible apply spdmDigests_frame
      | with_reducible apply spdmFinish_frame | with_reducible apply spdmHeartbeat_frame
      | with_reducible apply spdmKemOffer_frame | with_reducible apply spdmKeyExchange_frame
      | with_reducible apply spdmKeyUpdate_frame | with_reducible apply spdmMeasurements_frame
      | with_reducible apply spdmNextRequest_frame | with_reducible apply spdmPqSignature_frame
      | with_reducible apply spdmVersion_frame | (with_reducible exact partsIn_trans (by decide) hw)
      | (with_reducible refine ite_pair_frame ?_ ?_) | (with_reducible refine ite_trip_frame ?_ ?_) | split
      | (refine frame_of_pair (by with_reducible assumption) ?_)
      | (refine frame_of_trip (by with_reducible assumption) ?_) | (dsimp only))

theorem vendorMessage_frame {A : List Part} {s0 : State} (sl : Sluice) (n : BitVec 32) (r : SpdmRequest) (s : State)
    (hs : s0.agree A s)
    (hw : partsIn [.out, .owner, .pins, .boot, .fuses, .flash, .lc, .sb, .datum, .polders, .cad, .keys, .link, .stack, .tray, .fau, .rings, .coll, .bars, .sca, .obj, .fns, .spdm, .weirs, .charts, .tracer, .gauge, .power, .regs, .pool, .free] A = true) :
    s0.agree A (vendorMessage sl n r s) := by
  unfold vendorMessage
  try dsimp only
  repeat' (first
      | with_reducible assumption | with_reducible apply plainSpdm_frame | with_reducible apply polderFrame_frame
      | with_reducible apply refuseFrame_frame | with_reducible apply runFrame_frame
      | (with_reducible exact partsIn_trans (by decide) hw) | (with_reducible refine ite_frame ?_ ?_) | split)

theorem countRecord_frame {A : List Part} {s0 : State} (sl : Sluice) (n : Option (BitVec 32)) (s : State) (hs :
    s0.agree A s) (hw : partsIn [.spdm] A = true) : s0.agree A (countRecord sl n s) := by
  unfold countRecord
  try dsimp only
  repeat' (first
      | with_reducible assumption | (with_reducible intro _) | with_reducible apply modSession_frame
      | (with_reducible exact partsIn_trans (by decide) hw) | split)

theorem handleSpdm_frame {A : List Part} {s0 : State} (sl : Sluice) (n : Option (BitVec 32)) (r : SpdmRequest)
    (s : State) (hs : s0.agree A s)
    (hw : partsIn [.out, .owner, .pins, .boot, .fuses, .flash, .lc, .sb, .datum, .polders, .cad, .keys, .link, .stack, .tray, .fau, .rings, .coll, .bars, .sca, .obj, .fns, .spdm, .weirs, .charts, .tracer, .gauge, .power, .regs, .pool, .free] A = true) :
    s0.agree A (handleSpdm sl n r s) := by
  unfold handleSpdm
  try dsimp only
  repeat' (first
      | with_reducible assumption | (with_reducible intro _) | with_reducible apply countRecord_frame
      | with_reducible apply endRequest_frame | with_reducible apply plainSpdm_frame
      | with_reducible apply vendorMessage_frame | (with_reducible exact partsIn_trans (by decide) hw)
      | (with_reducible refine ite_frame ?_ ?_) | split)

theorem execGetVersion_frame {A : List Part} {s0 : State} (sl : Sluice) (s : State) (hs : s0.agree A s)
    (hw : partsIn [.out, .sb, .polders, .keys, .obj, .fns, .spdm, .tracer, .power, .free] A = true) : FrameOut A s0
    (execGetVersion sl s) := by
  unfold execGetVersion handleSpdm
  dsimp only [vendorMessage, plainSpdm, isVendor, Option.isSome]
  try simp only [Bool.false_eq_true, ↓reduceIte]
  repeat' (first
      | with_reducible exact frameOut_fault | (with_reducible apply frameOut_next)
      | (with_reducible refine frameOut_ite ?_ ?_) | with_reducible assumption | (with_reducible intro _)
      | with_reducible apply countRecord_frame | with_reducible apply endRequest_frame
      | with_reducible apply noted_frame | with_reducible apply runSpdm_frame
      | with_reducible apply spdmVersion_frame | (with_reducible exact partsIn_trans (by decide) hw)
      | (with_reducible apply foldl_frame) | (with_reducible apply foldl_pair_frame)
      | (with_reducible apply foldl_trip_frame) | (with_reducible apply id_frame)
      | (with_reducible exact frameOpt_none) | (with_reducible apply frameOpt_some)
      | (refine frame_of_opt (by with_reducible assumption) ?_) | (with_reducible refine ite_frame ?_ ?_)
      | (with_reducible refine ite_pair_frame ?_ ?_) | (with_reducible refine ite_trip_frame ?_ ?_) | split
      | (refine frame_of_pair (by with_reducible assumption) ?_)
      | (refine frame_of_trip (by with_reducible assumption) ?_) | (dsimp only))

theorem execGetCapabilities_frame {A : List Part} {s0 : State} (sl : Sluice) (s : State) (hs : s0.agree A s)
    (hw : partsIn [.out, .sb, .polders, .keys, .obj, .fns, .spdm, .tracer, .power, .free] A = true) : FrameOut A s0
    (execGetCapabilities sl s) := by
  unfold execGetCapabilities handleSpdm
  dsimp only [vendorMessage, plainSpdm, isVendor, Option.isSome]
  try simp only [Bool.false_eq_true, ↓reduceIte]
  repeat' (first
      | with_reducible exact frameOut_fault | (with_reducible apply frameOut_next)
      | (with_reducible refine frameOut_ite ?_ ?_) | with_reducible assumption | (with_reducible intro _)
      | with_reducible apply countRecord_frame | with_reducible apply endRequest_frame
      | with_reducible apply noted_frame | with_reducible apply runSpdm_frame
      | with_reducible apply spdmCapabilities_frame | (with_reducible exact partsIn_trans (by decide) hw)
      | (with_reducible apply foldl_frame) | (with_reducible apply foldl_pair_frame)
      | (with_reducible apply foldl_trip_frame) | (with_reducible apply id_frame)
      | (with_reducible exact frameOpt_none) | (with_reducible apply frameOpt_some)
      | (refine frame_of_opt (by with_reducible assumption) ?_) | (with_reducible refine ite_frame ?_ ?_)
      | (with_reducible refine ite_pair_frame ?_ ?_) | (with_reducible refine ite_trip_frame ?_ ?_) | split
      | (refine frame_of_pair (by with_reducible assumption) ?_)
      | (refine frame_of_trip (by with_reducible assumption) ?_) | (dsimp only))

theorem execNegotiateAlgorithms_frame {A : List Part} {s0 : State} (sl : Sluice) (request : Bytes) (s : State) (hs :
    s0.agree A s) (hw : partsIn [.out, .sb, .polders, .keys, .obj, .fns, .spdm, .tracer, .power, .free] A = true) :
    FrameOut A s0 (execNegotiateAlgorithms sl request s) := by
  unfold execNegotiateAlgorithms handleSpdm
  dsimp only [vendorMessage, plainSpdm, isVendor, Option.isSome]
  try simp only [Bool.false_eq_true, ↓reduceIte]
  repeat' (first
      | with_reducible exact frameOut_fault | (with_reducible apply frameOut_next)
      | (with_reducible refine frameOut_ite ?_ ?_) | with_reducible assumption | (with_reducible intro _)
      | with_reducible apply countRecord_frame | with_reducible apply endRequest_frame
      | with_reducible apply noted_frame | with_reducible apply runSpdm_frame
      | with_reducible apply spdmAlgorithms_frame | (with_reducible exact partsIn_trans (by decide) hw)
      | (with_reducible apply foldl_frame) | (with_reducible apply foldl_pair_frame)
      | (with_reducible apply foldl_trip_frame) | (with_reducible apply id_frame)
      | (with_reducible exact frameOpt_none) | (with_reducible apply frameOpt_some)
      | (refine frame_of_opt (by with_reducible assumption) ?_) | (with_reducible refine ite_frame ?_ ?_)
      | (with_reducible refine ite_pair_frame ?_ ?_) | (with_reducible refine ite_trip_frame ?_ ?_) | split
      | (refine frame_of_pair (by with_reducible assumption) ?_)
      | (refine frame_of_trip (by with_reducible assumption) ?_) | (dsimp only))

theorem execGetDigests_frame {A : List Part} {s0 : State} (sl : Sluice) (s : State) (hs : s0.agree A s)
    (hw : partsIn [.out, .sb, .polders, .keys, .obj, .fns, .spdm, .tracer, .power, .free] A = true) : FrameOut A s0
    (execGetDigests sl s) := by
  unfold execGetDigests handleSpdm
  dsimp only [vendorMessage, plainSpdm, isVendor, Option.isSome]
  try simp only [Bool.false_eq_true, ↓reduceIte]
  repeat' (first
      | with_reducible exact frameOut_fault | (with_reducible apply frameOut_next)
      | (with_reducible refine frameOut_ite ?_ ?_) | with_reducible assumption | (with_reducible intro _)
      | with_reducible apply countRecord_frame | with_reducible apply endRequest_frame
      | with_reducible apply negotiated_frame | with_reducible apply noted_frame
      | with_reducible apply runSpdm_frame | with_reducible apply spdmDigests_frame
      | (with_reducible exact partsIn_trans (by decide) hw) | (with_reducible apply foldl_frame)
      | (with_reducible apply foldl_pair_frame) | (with_reducible apply foldl_trip_frame)
      | (with_reducible apply id_frame) | (with_reducible exact frameOpt_none)
      | (with_reducible apply frameOpt_some) | (refine frame_of_opt (by with_reducible assumption) ?_)
      | (with_reducible refine ite_frame ?_ ?_) | (with_reducible refine ite_pair_frame ?_ ?_)
      | (with_reducible refine ite_trip_frame ?_ ?_) | split
      | (refine frame_of_pair (by with_reducible assumption) ?_)
      | (refine frame_of_trip (by with_reducible assumption) ?_) | (dsimp only))

theorem execGetCertificate_frame {A : List Part} {s0 : State} (sl : Sluice) (slot : BitVec 8) (offset : Nat)
    (length : Nat) (s : State) (hs : s0.agree A s)
    (hw : partsIn [.out, .sb, .polders, .keys, .obj, .fns, .spdm, .tracer, .power, .free] A = true) : FrameOut A s0
    (execGetCertificate sl slot offset length s) := by
  unfold execGetCertificate handleSpdm
  dsimp only [vendorMessage, plainSpdm, isVendor, Option.isSome]
  try simp only [Bool.false_eq_true, ↓reduceIte]
  repeat' (first
      | with_reducible exact frameOut_fault | (with_reducible apply frameOut_next)
      | (with_reducible refine frameOut_ite ?_ ?_) | with_reducible assumption | (with_reducible intro _)
      | with_reducible apply countRecord_frame | with_reducible apply endRequest_frame
      | with_reducible apply negotiated_frame | with_reducible apply noted_frame
      | with_reducible apply runSpdm_frame | with_reducible apply spdmCertificate_frame
      | (with_reducible exact partsIn_trans (by decide) hw) | (with_reducible apply foldl_frame)
      | (with_reducible apply foldl_pair_frame) | (with_reducible apply foldl_trip_frame)
      | (with_reducible apply id_frame) | (with_reducible exact frameOpt_none)
      | (with_reducible apply frameOpt_some) | (refine frame_of_opt (by with_reducible assumption) ?_)
      | (with_reducible refine ite_frame ?_ ?_) | (with_reducible refine ite_pair_frame ?_ ?_)
      | (with_reducible refine ite_trip_frame ?_ ?_) | split
      | (refine frame_of_pair (by with_reducible assumption) ?_)
      | (refine frame_of_trip (by with_reducible assumption) ?_) | (dsimp only))

theorem execChallenge_frame {A : List Part} {s0 : State} (sl : Sluice) (slot : BitVec 8) (nonce : BitVec 256)
    (s : State) (hs : s0.agree A s)
    (hw : partsIn [.out, .pins, .sb, .polders, .cad, .keys, .stack, .obj, .fns, .spdm, .tracer, .power, .free] A = true) :
    FrameOut A s0 (execChallenge sl slot nonce s) := by
  unfold execChallenge handleSpdm
  dsimp only [vendorMessage, plainSpdm, isVendor, Option.isSome]
  try simp only [Bool.false_eq_true, ↓reduceIte]
  repeat' (first
      | with_reducible exact frameOut_fault | (with_reducible apply frameOut_next)
      | (with_reducible refine frameOut_ite ?_ ?_) | with_reducible assumption | (with_reducible intro _)
      | with_reducible apply countRecord_frame | with_reducible apply endRequest_frame
      | with_reducible apply negotiated_frame | with_reducible apply noted_frame
      | with_reducible apply runSpdm_frame | with_reducible apply spdmChallenge_frame
      | (with_reducible exact partsIn_trans (by decide) hw) | (with_reducible apply foldl_frame)
      | (with_reducible apply foldl_pair_frame) | (with_reducible apply foldl_trip_frame)
      | (with_reducible apply id_frame) | (with_reducible exact frameOpt_none)
      | (with_reducible apply frameOpt_some) | (refine frame_of_opt (by with_reducible assumption) ?_)
      | (with_reducible refine ite_frame ?_ ?_) | (with_reducible refine ite_pair_frame ?_ ?_)
      | (with_reducible refine ite_trip_frame ?_ ?_) | split
      | (refine frame_of_pair (by with_reducible assumption) ?_)
      | (refine frame_of_trip (by with_reducible assumption) ?_) | (dsimp only))

theorem execGetMeasurements_frame {A : List Part} {s0 : State} (sl : Sluice) (index : BitVec 8) (signed : Bool)
    (nonce : BitVec 256) (s : State) (hs : s0.agree A s)
    (hw : partsIn [.out, .pins, .sb, .polders, .cad, .keys, .stack, .obj, .fns, .spdm, .tracer, .power, .free] A = true) :
    FrameOut A s0 (execGetMeasurements sl index signed nonce s) := by
  unfold execGetMeasurements handleSpdm
  dsimp only [vendorMessage, plainSpdm, isVendor, Option.isSome]
  try simp only [Bool.false_eq_true, ↓reduceIte]
  repeat' (first
      | with_reducible exact frameOut_fault | (with_reducible apply frameOut_next)
      | (with_reducible refine frameOut_ite ?_ ?_) | with_reducible assumption | (with_reducible intro _)
      | with_reducible apply countRecord_frame | with_reducible apply endRequest_frame
      | with_reducible apply negotiated_frame | with_reducible apply noted_frame
      | with_reducible apply runSpdm_frame | with_reducible apply spdmMeasurements_frame
      | (with_reducible exact partsIn_trans (by decide) hw) | (with_reducible apply foldl_frame)
      | (with_reducible apply foldl_pair_frame) | (with_reducible apply foldl_trip_frame)
      | (with_reducible apply id_frame) | (with_reducible exact frameOpt_none)
      | (with_reducible apply frameOpt_some) | (refine frame_of_opt (by with_reducible assumption) ?_)
      | (with_reducible refine ite_frame ?_ ?_) | (with_reducible refine ite_pair_frame ?_ ?_)
      | (with_reducible refine ite_trip_frame ?_ ?_) | split
      | (refine frame_of_pair (by with_reducible assumption) ?_)
      | (refine frame_of_trip (by with_reducible assumption) ?_) | (dsimp only))

theorem execKemOffer_frame {A : List Part} {s0 : State} (sl : Sluice) (key : Bytes) (s : State) (hs : s0.agree A s)
    (hw : partsIn [.out, .pins, .sb, .polders, .cad, .keys, .stack, .obj, .fns, .spdm, .tracer, .power, .free] A = true) :
    FrameOut A s0 (execKemOffer sl key s) := by
  unfold execKemOffer handleSpdm
  dsimp only [vendorMessage, plainSpdm, isVendor, Option.isSome]
  try simp only [Bool.false_eq_true, ↓reduceIte]
  repeat' (first
      | with_reducible exact frameOut_fault | (with_reducible apply frameOut_next)
      | (with_reducible refine frameOut_ite ?_ ?_) | with_reducible assumption | (with_reducible intro _)
      | with_reducible apply countRecord_frame | with_reducible apply endRequest_frame
      | with_reducible apply negotiated_frame | with_reducible apply noted_frame
      | with_reducible apply runSpdm_frame | with_reducible apply spdmKemOffer_frame
      | (with_reducible exact partsIn_trans (by decide) hw) | (with_reducible apply foldl_frame)
      | (with_reducible apply foldl_pair_frame) | (with_reducible apply foldl_trip_frame)
      | (with_reducible apply id_frame) | (with_reducible exact frameOpt_none)
      | (with_reducible apply frameOpt_some) | (refine frame_of_opt (by with_reducible assumption) ?_)
      | (with_reducible refine ite_frame ?_ ?_) | (with_reducible refine ite_pair_frame ?_ ?_)
      | (with_reducible refine ite_trip_frame ?_ ?_) | split
      | (refine frame_of_pair (by with_reducible assumption) ?_)
      | (refine frame_of_trip (by with_reducible assumption) ?_) | (dsimp only))

theorem execKeyExchange_frame {A : List Part} {s0 : State} (sl : Sluice) (session : BitVec 16) (share : Bytes)
    (kemHash : Digest) (wantMutual : Bool) (s : State) (hs : s0.agree A s)
    (hw : partsIn [.out, .pins, .sb, .polders, .cad, .keys, .stack, .obj, .fns, .spdm, .tracer, .power, .free] A = true) :
    FrameOut A s0 (execKeyExchange sl session share kemHash wantMutual s) := by
  unfold execKeyExchange handleSpdm
  dsimp only [vendorMessage, plainSpdm, isVendor, Option.isSome]
  try simp only [Bool.false_eq_true, ↓reduceIte]
  repeat' (first
      | with_reducible exact frameOut_fault | (with_reducible apply frameOut_next)
      | (with_reducible refine frameOut_ite ?_ ?_) | with_reducible assumption | (with_reducible intro _)
      | with_reducible apply countRecord_frame | with_reducible apply endRequest_frame
      | with_reducible apply negotiated_frame | with_reducible apply noted_frame
      | with_reducible apply runSpdm_frame | with_reducible apply spdmKeyExchange_frame
      | (with_reducible exact partsIn_trans (by decide) hw) | (with_reducible apply foldl_frame)
      | (with_reducible apply foldl_pair_frame) | (with_reducible apply foldl_trip_frame)
      | (with_reducible apply id_frame) | (with_reducible exact frameOpt_none)
      | (with_reducible apply frameOpt_some) | (refine frame_of_opt (by with_reducible assumption) ?_)
      | (with_reducible refine ite_frame ?_ ?_) | (with_reducible refine ite_pair_frame ?_ ?_)
      | (with_reducible refine ite_trip_frame ?_ ?_) | split
      | (refine frame_of_pair (by with_reducible assumption) ?_)
      | (refine frame_of_trip (by with_reducible assumption) ?_) | (dsimp only))

theorem execFinish_frame {A : List Part} {s0 : State} (sl : Sluice) (session : BitVec 32) (verify : Digest)
    (s : State) (hs : s0.agree A s)
    (hw : partsIn [.out, .sb, .polders, .keys, .obj, .fns, .spdm, .tracer, .power, .free] A = true) : FrameOut A s0
    (execFinish sl session verify s) := by
  unfold execFinish handleSpdm
  dsimp only [vendorMessage, plainSpdm, isVendor, Option.isSome]
  try simp only [Bool.false_eq_true, ↓reduceIte]
  repeat' (first
      | with_reducible exact frameOut_fault | (with_reducible apply frameOut_next)
      | (with_reducible refine frameOut_ite ?_ ?_) | with_reducible assumption | (with_reducible intro _)
      | with_reducible apply countRecord_frame | with_reducible apply endRequest_frame
      | with_reducible apply inSession_frame | with_reducible apply noted_frame | with_reducible apply runSpdm_frame
      | with_reducible apply spdmFinish_frame | (with_reducible exact partsIn_trans (by decide) hw)
      | (with_reducible apply foldl_frame) | (with_reducible apply foldl_pair_frame)
      | (with_reducible apply foldl_trip_frame) | (with_reducible apply id_frame)
      | (with_reducible exact frameOpt_none) | (with_reducible apply frameOpt_some)
      | (refine frame_of_opt (by with_reducible assumption) ?_) | (with_reducible refine ite_frame ?_ ?_)
      | (with_reducible refine ite_pair_frame ?_ ?_) | (with_reducible refine ite_trip_frame ?_ ?_) | split
      | (refine frame_of_pair (by with_reducible assumption) ?_)
      | (refine frame_of_trip (by with_reducible assumption) ?_) | (dsimp only))

theorem execPqSignature_frame {A : List Part} {s0 : State} (sl : Sluice) (s : State) (hs : s0.agree A s)
    (hw : partsIn [.out, .sb, .polders, .keys, .obj, .fns, .spdm, .tracer, .power, .free] A = true) : FrameOut A s0
    (execPqSignature sl s) := by
  unfold execPqSignature handleSpdm
  dsimp only [vendorMessage, plainSpdm, isVendor, Option.isSome]
  try simp only [Bool.false_eq_true, ↓reduceIte]
  repeat' (first
      | with_reducible exact frameOut_fault | (with_reducible apply frameOut_next)
      | (with_reducible refine frameOut_ite ?_ ?_) | with_reducible assumption | (with_reducible intro _)
      | with_reducible apply countRecord_frame | with_reducible apply endRequest_frame
      | with_reducible apply noted_frame | with_reducible apply runSpdm_frame
      | with_reducible apply spdmPqSignature_frame | (with_reducible exact partsIn_trans (by decide) hw)
      | (with_reducible apply foldl_frame) | (with_reducible apply foldl_pair_frame)
      | (with_reducible apply foldl_trip_frame) | (with_reducible apply id_frame)
      | (with_reducible exact frameOpt_none) | (with_reducible apply frameOpt_some)
      | (refine frame_of_opt (by with_reducible assumption) ?_) | (with_reducible refine ite_frame ?_ ?_)
      | (with_reducible refine ite_pair_frame ?_ ?_) | (with_reducible refine ite_trip_frame ?_ ?_) | split
      | (refine frame_of_pair (by with_reducible assumption) ?_)
      | (refine frame_of_trip (by with_reducible assumption) ?_) | (dsimp only))

theorem execHeartbeat_frame {A : List Part} {s0 : State} (sl : Sluice) (session : BitVec 32) (s : State) (hs :
    s0.agree A s) (hw : partsIn [.out, .sb, .polders, .keys, .obj, .fns, .spdm, .tracer, .power, .free] A = true) :
    FrameOut A s0 (execHeartbeat sl session s) := by
  unfold execHeartbeat handleSpdm
  dsimp only [vendorMessage, plainSpdm, isVendor, Option.isSome]
  try simp only [Bool.false_eq_true, ↓reduceIte]
  repeat' (first
      | with_reducible exact frameOut_fault | (with_reducible apply frameOut_next)
      | (with_reducible refine frameOut_ite ?_ ?_) | with_reducible assumption | (with_reducible intro _)
      | with_reducible apply countRecord_frame | with_reducible apply endRequest_frame
      | with_reducible apply inSession_frame | with_reducible apply noted_frame | with_reducible apply runSpdm_frame
      | with_reducible apply spdmHeartbeat_frame | (with_reducible exact partsIn_trans (by decide) hw)
      | (with_reducible apply foldl_frame) | (with_reducible apply foldl_pair_frame)
      | (with_reducible apply foldl_trip_frame) | (with_reducible apply id_frame)
      | (with_reducible exact frameOpt_none) | (with_reducible apply frameOpt_some)
      | (refine frame_of_opt (by with_reducible assumption) ?_) | (with_reducible refine ite_frame ?_ ?_)
      | (with_reducible refine ite_pair_frame ?_ ?_) | (with_reducible refine ite_trip_frame ?_ ?_) | split
      | (refine frame_of_pair (by with_reducible assumption) ?_)
      | (refine frame_of_trip (by with_reducible assumption) ?_) | (dsimp only))

theorem execKeyUpdate_frame {A : List Part} {s0 : State} (sl : Sluice) (session : BitVec 32) (both : Bool)
    (s : State) (hs : s0.agree A s)
    (hw : partsIn [.out, .sb, .polders, .keys, .obj, .fns, .spdm, .tracer, .power, .free] A = true) : FrameOut A s0
    (execKeyUpdate sl session both s) := by
  unfold execKeyUpdate handleSpdm
  dsimp only [vendorMessage, plainSpdm, isVendor, Option.isSome]
  try simp only [Bool.false_eq_true, ↓reduceIte]
  repeat' (first
      | with_reducible exact frameOut_fault | (with_reducible apply frameOut_next)
      | (with_reducible refine frameOut_ite ?_ ?_) | with_reducible assumption | (with_reducible intro _)
      | with_reducible apply countRecord_frame | with_reducible apply endRequest_frame
      | with_reducible apply inSession_frame | with_reducible apply noted_frame | with_reducible apply runSpdm_frame
      | with_reducible apply spdmKeyUpdate_frame | (with_reducible exact partsIn_trans (by decide) hw)
      | (with_reducible apply foldl_frame) | (with_reducible apply foldl_pair_frame)
      | (with_reducible apply foldl_trip_frame) | (with_reducible apply id_frame)
      | (with_reducible exact frameOpt_none) | (with_reducible apply frameOpt_some)
      | (refine frame_of_opt (by with_reducible assumption) ?_) | (with_reducible refine ite_frame ?_ ?_)
      | (with_reducible refine ite_pair_frame ?_ ?_) | (with_reducible refine ite_trip_frame ?_ ?_) | split
      | (refine frame_of_pair (by with_reducible assumption) ?_)
      | (refine frame_of_trip (by with_reducible assumption) ?_) | (dsimp only))

theorem execEndSession_frame {A : List Part} {s0 : State} (sl : Sluice) (session : BitVec 32) (s : State) (hs :
    s0.agree A s) (hw : partsIn [.out, .sb, .polders, .keys, .obj, .fns, .spdm, .tracer, .power, .free] A = true) :
    FrameOut A s0 (execEndSession sl session s) := by
  unfold execEndSession handleSpdm
  dsimp only [vendorMessage, plainSpdm, isVendor, Option.isSome]
  try simp only [Bool.false_eq_true, ↓reduceIte]
  repeat' (first
      | with_reducible exact frameOut_fault | (with_reducible apply frameOut_next)
      | (with_reducible refine frameOut_ite ?_ ?_) | with_reducible assumption | (with_reducible intro _)
      | with_reducible apply countRecord_frame | with_reducible apply endRequest_frame
      | with_reducible apply endSessionSpdm_frame | with_reducible apply runSpdm_frame
      | (with_reducible exact partsIn_trans (by decide) hw) | (with_reducible apply foldl_frame)
      | (with_reducible apply foldl_pair_frame) | (with_reducible apply foldl_trip_frame)
      | (with_reducible apply id_frame) | (with_reducible exact frameOpt_none)
      | (with_reducible apply frameOpt_some) | (refine frame_of_opt (by with_reducible assumption) ?_)
      | (with_reducible refine ite_frame ?_ ?_) | (with_reducible refine ite_pair_frame ?_ ?_)
      | (with_reducible refine ite_trip_frame ?_ ?_) | split
      | (refine frame_of_pair (by with_reducible assumption) ?_)
      | (refine frame_of_trip (by with_reducible assumption) ?_) | (dsimp only))

theorem execChunkSend_frame {A : List Part} {s0 : State} (sl : Sluice) (handle : BitVec 8) (last : Bool)
    (data : Bytes) (s : State) (hs : s0.agree A s)
    (hw : partsIn [.out, .pins, .sb, .polders, .cad, .keys, .stack, .obj, .fns, .spdm, .tracer, .power, .free] A = true) :
    FrameOut A s0 (execChunkSend sl handle last data s) := by
  unfold execChunkSend handleSpdm
  dsimp only
  repeat' (first
      | with_reducible exact frameOut_fault | (with_reducible apply frameOut_next)
      | (with_reducible refine frameOut_ite ?_ ?_) | with_reducible assumption | (with_reducible intro _)
      | with_reducible apply countRecord_frame | with_reducible apply endRequest_frame
      | with_reducible apply plainSpdm_frame | (with_reducible exact partsIn_trans (by decide) hw)
      | (with_reducible apply foldl_frame) | (with_reducible apply foldl_pair_frame)
      | (with_reducible apply foldl_trip_frame) | (with_reducible apply id_frame)
      | (with_reducible exact frameOpt_none) | (with_reducible apply frameOpt_some)
      | (refine frame_of_opt (by with_reducible assumption) ?_) | (with_reducible refine ite_frame ?_ ?_)
      | (with_reducible refine ite_pair_frame ?_ ?_) | (with_reducible refine ite_trip_frame ?_ ?_) | split
      | (refine frame_of_pair (by with_reducible assumption) ?_)
      | (refine frame_of_trip (by with_reducible assumption) ?_) | (dsimp only))

theorem execChunkGet_frame {A : List Part} {s0 : State} (sl : Sluice) (handle : BitVec 8) (seq : BitVec 16)
    (s : State) (hs : s0.agree A s)
    (hw : partsIn [.out, .sb, .polders, .keys, .obj, .fns, .spdm, .tracer, .power, .free] A = true) : FrameOut A s0
    (execChunkGet sl handle seq s) := by
  unfold execChunkGet handleSpdm
  dsimp only [vendorMessage, plainSpdm, isVendor, Option.isSome]
  try simp only [Bool.false_eq_true, ↓reduceIte]
  repeat' (first
      | with_reducible exact frameOut_fault | (with_reducible apply frameOut_next)
      | (with_reducible refine frameOut_ite ?_ ?_) | with_reducible assumption | (with_reducible intro _)
      | with_reducible apply countRecord_frame | with_reducible apply endRequest_frame
      | with_reducible apply noted_frame | with_reducible apply runSpdm_frame
      | with_reducible apply spdmChunkGet_frame | (with_reducible exact partsIn_trans (by decide) hw)
      | (with_reducible apply foldl_frame) | (with_reducible apply foldl_pair_frame)
      | (with_reducible apply foldl_trip_frame) | (with_reducible apply id_frame)
      | (with_reducible exact frameOpt_none) | (with_reducible apply frameOpt_some)
      | (refine frame_of_opt (by with_reducible assumption) ?_) | (with_reducible refine ite_frame ?_ ?_)
      | (with_reducible refine ite_pair_frame ?_ ?_) | (with_reducible refine ite_trip_frame ?_ ?_) | split
      | (refine frame_of_pair (by with_reducible assumption) ?_)
      | (refine frame_of_trip (by with_reducible assumption) ?_) | (dsimp only))

theorem execUnsupportedRequest_frame {A : List Part} {s0 : State} (sl : Sluice) (code : BitVec 8) (s : State) (hs :
    s0.agree A s) (hw : partsIn [.out, .sb, .polders, .keys, .obj, .fns, .spdm, .tracer, .power, .free] A = true) :
    FrameOut A s0 (execUnsupportedRequest sl code s) := by
  unfold execUnsupportedRequest handleSpdm
  dsimp only [vendorMessage, plainSpdm, isVendor, Option.isSome]
  try simp only [Bool.false_eq_true, ↓reduceIte]
  repeat' (first
      | with_reducible exact frameOut_fault | (with_reducible apply frameOut_next)
      | (with_reducible refine frameOut_ite ?_ ?_) | with_reducible assumption | (with_reducible intro _)
      | with_reducible apply countRecord_frame | with_reducible apply endRequest_frame
      | with_reducible apply noted_frame | with_reducible apply runSpdm_frame
      | (with_reducible exact partsIn_trans (by decide) hw) | (with_reducible apply foldl_frame)
      | (with_reducible apply foldl_pair_frame) | (with_reducible apply foldl_trip_frame)
      | (with_reducible apply id_frame) | (with_reducible exact frameOpt_none)
      | (with_reducible apply frameOpt_some) | (refine frame_of_opt (by with_reducible assumption) ?_)
      | (with_reducible refine ite_frame ?_ ?_) | (with_reducible refine ite_pair_frame ?_ ?_)
      | (with_reducible refine ite_trip_frame ?_ ?_) | split
      | (refine frame_of_pair (by with_reducible assumption) ?_)
      | (refine frame_of_trip (by with_reducible assumption) ?_) | (dsimp only))

theorem execDeliverEncapsulatedResponse_frame {A : List Part} {s0 : State} (sl : Sluice) (session : BitVec 32)
    (chain : Bytes) (signature : Bytes) (s : State) (hs : s0.agree A s)
    (hw : partsIn [.out, .sb, .polders, .keys, .obj, .fns, .spdm, .tracer, .power, .free] A = true) : FrameOut A s0
    (execDeliverEncapsulatedResponse sl session chain signature s) := by
  unfold execDeliverEncapsulatedResponse handleSpdm
  dsimp only [vendorMessage, plainSpdm, isVendor, Option.isSome]
  try simp only [Bool.false_eq_true, ↓reduceIte]
  repeat' (first
      | with_reducible exact frameOut_fault | (with_reducible apply frameOut_next)
      | (with_reducible refine frameOut_ite ?_ ?_) | with_reducible assumption | (with_reducible intro _)
      | with_reducible apply countRecord_frame | with_reducible apply endRequest_frame
      | with_reducible apply inSession_frame | with_reducible apply noted_frame | with_reducible apply runSpdm_frame
      | with_reducible apply spdmDelivered_frame | (with_reducible exact partsIn_trans (by decide) hw)
      | (with_reducible apply foldl_frame) | (with_reducible apply foldl_pair_frame)
      | (with_reducible apply foldl_trip_frame) | (with_reducible apply id_frame)
      | (with_reducible exact frameOpt_none) | (with_reducible apply frameOpt_some)
      | (refine frame_of_opt (by with_reducible assumption) ?_) | (with_reducible refine ite_frame ?_ ?_)
      | (with_reducible refine ite_pair_frame ?_ ?_) | (with_reducible refine ite_trip_frame ?_ ?_) | split
      | (refine frame_of_pair (by with_reducible assumption) ?_)
      | (refine frame_of_trip (by with_reducible assumption) ?_) | (dsimp only))

theorem execGetEncapsulatedRequest_frame {A : List Part} {s0 : State} (sl : Sluice) (session : BitVec 32)
    (s : State) (hs : s0.agree A s)
    (hw : partsIn [.out, .sb, .polders, .keys, .obj, .fns, .spdm, .tracer, .power, .free] A = true) : FrameOut A s0
    (execGetEncapsulatedRequest sl session s) := by
  unfold execGetEncapsulatedRequest handleSpdm
  dsimp only [vendorMessage, plainSpdm, isVendor, Option.isSome]
  try simp only [Bool.false_eq_true, ↓reduceIte]
  repeat' (first
      | with_reducible exact frameOut_fault | (with_reducible apply frameOut_next)
      | (with_reducible refine frameOut_ite ?_ ?_) | with_reducible assumption | (with_reducible intro _)
      | with_reducible apply countRecord_frame | with_reducible apply endRequest_frame
      | with_reducible apply inSession_frame | with_reducible apply noted_frame | with_reducible apply runSpdm_frame
      | with_reducible apply spdmNextRequest_frame | (with_reducible exact partsIn_trans (by decide) hw)
      | (with_reducible apply foldl_frame) | (with_reducible apply foldl_pair_frame)
      | (with_reducible apply foldl_trip_frame) | (with_reducible apply id_frame)
      | (with_reducible exact frameOpt_none) | (with_reducible apply frameOpt_some)
      | (refine frame_of_opt (by with_reducible assumption) ?_) | (with_reducible refine ite_frame ?_ ?_)
      | (with_reducible refine ite_pair_frame ?_ ?_) | (with_reducible refine ite_trip_frame ?_ ?_) | split
      | (refine frame_of_pair (by with_reducible assumption) ?_)
      | (refine frame_of_trip (by with_reducible assumption) ?_) | (dsimp only))

theorem execKemOfferExpiry_frame {A : List Part} {s0 : State} (sl : Sluice) (s : State) (hs : s0.agree A s)
    (hw : partsIn [.spdm] A = true) : FrameOut A s0 (execKemOfferExpiry sl s) := by
  unfold execKemOfferExpiry
  try dsimp only
  repeat' (first
      | with_reducible exact frameOut_fault | (with_reducible apply frameOut_next)
      | (with_reducible refine frameOut_ite ?_ ?_) | with_reducible assumption | (with_reducible intro _)
      | with_reducible apply modSpdm_frame | (with_reducible exact partsIn_trans (by decide) hw)
      | (with_reducible refine ite_frame ?_ ?_) | split | (dsimp only))

theorem securedRecord_frame {A : List Part} {s0 : State} (sl : Sluice) (n : Option (BitVec 32)) (record : Bytes)
    (s : State) (hs : s0.agree A s)
    (hw : partsIn [.out, .owner, .pins, .boot, .fuses, .flash, .lc, .sb, .datum, .polders, .cad, .keys, .link, .stack, .tray, .fau, .rings, .coll, .bars, .sca, .obj, .fns, .spdm, .weirs, .charts, .tracer, .gauge, .power, .regs, .pool, .free] A = true) :
    s0.agree A (securedRecord sl n record s) := by
  unfold securedRecord
  try dsimp only
  repeat' (first
      | with_reducible assumption | (with_reducible intro _) | with_reducible apply dropSession_frame
      | with_reducible apply handleSpdm_frame | with_reducible apply inlineJob_frame
      | with_reducible apply refuseFrame_frame | with_reducible apply sendSpdm_frame
      | (with_reducible exact partsIn_trans (by decide) hw) | (with_reducible refine ite_frame ?_ ?_)
      | (with_reducible refine ite_pair_frame ?_ ?_) | (with_reducible refine ite_trip_frame ?_ ?_) | split
      | (refine frame_of_pair (by with_reducible assumption) ?_)
      | (refine frame_of_trip (by with_reducible assumption) ?_) | (dsimp only))

theorem securedFrame_frame {A : List Part} {s0 : State} (sl : Sluice) (n : Option (BitVec 32)) (record : Bytes)
    (s : State) (hs : s0.agree A s)
    (hw : partsIn [.out, .owner, .pins, .boot, .fuses, .flash, .lc, .sb, .datum, .polders, .cad, .keys, .link, .stack, .tray, .fau, .rings, .coll, .bars, .sca, .obj, .fns, .spdm, .weirs, .charts, .tracer, .gauge, .power, .regs, .pool, .free] A = true) :
    s0.agree A (securedFrame sl n record s) := by
  unfold securedFrame
  try dsimp only
  repeat' (first
      | with_reducible assumption | with_reducible apply refuseFrame_frame
      | with_reducible apply securedRecord_frame | (with_reducible exact partsIn_trans (by decide) hw)
      | (with_reducible refine ite_frame ?_ ?_) | split)

theorem execSecuredMessage_frame {A : List Part} {s0 : State} (o : Origin) (record : Bytes) (s : State) (hs :
    s0.agree A s)
    (hw : partsIn [.out, .owner, .pins, .boot, .fuses, .flash, .lc, .sb, .datum, .polders, .cad, .keys, .link, .stack, .tray, .fau, .rings, .coll, .bars, .sca, .obj, .fns, .spdm, .weirs, .charts, .tracer, .gauge, .power, .regs, .pool, .free] A = true) :
    FrameOut A s0 (execSecuredMessage o record s) := by
  unfold execSecuredMessage
  try dsimp only
  repeat' (first
      | with_reducible exact frameOut_fault | (with_reducible apply frameOut_next)
      | (with_reducible refine frameOut_ite ?_ ?_) | with_reducible assumption | (with_reducible intro _)
      | with_reducible apply securedFrame_frame | (with_reducible exact partsIn_trans (by decide) hw)
      | (dsimp only))

theorem mailboxFrame_frame {A : List Part} {s0 : State} (fn : FnId) (s : State) (hs : s0.agree A s)
    (hw : partsIn [.out, .owner, .pins, .boot, .fuses, .flash, .lc, .sb, .datum, .polders, .cad, .keys, .link, .stack, .tray, .fau, .rings, .coll, .bars, .sca, .obj, .fns, .spdm, .weirs, .charts, .tracer, .gauge, .power, .regs, .pool, .free] A = true) :
    s0.agree A (mailboxFrame fn s) := by
  unfold mailboxFrame
  try dsimp only
  repeat' (first
      | with_reducible assumption | with_reducible apply fetchFrame_frame | with_reducible apply handleSpdm_frame
      | with_reducible apply refuseFrame_frame | with_reducible apply reply_frame
      | with_reducible apply runFrame_frame | with_reducible apply securedFrame_frame
      | (with_reducible exact partsIn_trans (by decide) hw) | (with_reducible refine ite_frame ?_ ?_) | split)

theorem ringDoorbell_frame {A : List Part} {s0 : State} (fn : FnId) (s : State) (hs : s0.agree A s)
    (hw : partsIn [.out, .owner, .pins, .boot, .fuses, .flash, .lc, .sb, .datum, .polders, .cad, .keys, .link, .stack, .tray, .fau, .rings, .coll, .bars, .sca, .obj, .fns, .spdm, .weirs, .charts, .tracer, .gauge, .power, .regs, .pool, .free] A = true) :
    s0.agree A (ringDoorbell fn s) := by
  unfold ringDoorbell
  try dsimp only
  repeat' (first
      | with_reducible assumption | with_reducible apply count_frame | with_reducible apply mailboxFrame_frame
      | with_reducible apply setMailbox_frame | (with_reducible exact partsIn_trans (by decide) hw)
      | (with_reducible refine ite_frame ?_ ?_) | split)

theorem execMailboxDoorbell_frame {A : List Part} {s0 : State} (fn : FnId) (s : State) (hs : s0.agree A s)
    (hw : partsIn [.out, .owner, .pins, .boot, .fuses, .flash, .lc, .sb, .datum, .polders, .cad, .keys, .link, .stack, .tray, .fau, .rings, .coll, .bars, .sca, .obj, .fns, .spdm, .weirs, .charts, .tracer, .gauge, .power, .regs, .pool, .free] A = true) :
    FrameOut A s0 (execMailboxDoorbell fn s) := by
  unfold execMailboxDoorbell
  try dsimp only
  repeat' (first
      | with_reducible exact frameOut_fault | (with_reducible apply frameOut_next)
      | (with_reducible refine frameOut_ite ?_ ?_) | with_reducible assumption | (with_reducible intro _)
      | with_reducible apply ringDoorbell_frame | (with_reducible exact partsIn_trans (by decide) hw)
      | (dsimp only))

end Sys2Proof.Machine
end

