-- ==== Sys2Proof/Laws/FrameRegisters.lean ====
section
/-! SUPPORT. Which parts of the state the operations of Machine/Registers.lean may change (State.agree). -/

namespace Sys2Proof.Machine

theorem seenRead_frame {A : List Part} {s0 : State} (off : Nat) (s : State) (hs : s0.agree A s)
    (hw : partsIn [.tracer] A = true) : s0.agree A (seenRead off s) := by
  unfold seenRead
  try dsimp only
  repeat' (first
      | with_reducible assumption | with_reducible apply clearSeen_frame
      | (with_reducible exact partsIn_trans (by decide) hw) | (with_reducible refine ite_frame ?_ ?_) | split)

theorem readWide_frame {A : List Part} {s0 : State} (w : Window) (off : Nat) (s : State) (hs : s0.agree A s)
    (hw : partsIn [.tracer] A = true) : s0.agree A (readWide w off s).2 := by
  unfold readWide
  try dsimp only
  repeat' (first
      | with_reducible assumption | with_reducible apply seenRead_frame
      | (with_reducible exact partsIn_trans (by decide) hw) | (with_reducible refine ite_frame ?_ ?_)
      | (with_reducible refine ite_pair_frame ?_ ?_) | (with_reducible refine ite_trip_frame ?_ ?_) | split
      | (refine frame_of_pair (by with_reducible assumption) ?_)
      | (refine frame_of_trip (by with_reducible assumption) ?_) | (dsimp only))

theorem readLow_frame {A : List Part} {s0 : State} (w : Window) (off : Nat) (v : BitVec 64) (s : State) (hs :
    s0.agree A s) (hw : partsIn [.tracer, .regs] A = true) : s0.agree A (readLow w off v s).2 := by
  unfold readLow
  try dsimp only
  repeat' (first
      | with_reducible assumption | with_reducible apply seenRead_frame
      | (with_reducible exact partsIn_trans (by decide) hw) | (with_reducible refine ite_pair_frame ?_ ?_)
      | (with_reducible refine ite_trip_frame ?_ ?_) | (with_reducible refine agree_regs ?_ ?_) | (dsimp only))

theorem readHigh_frame {A : List Part} {s0 : State} (w : Window) (base : Nat) (v : BitVec 64) (s : State) (hs :
    s0.agree A s) (hw : partsIn [.tracer, .regs] A = true) : s0.agree A (readHigh w base v s).2 := by
  unfold readHigh
  try dsimp only
  repeat' (first
      | with_reducible assumption | with_reducible apply seenRead_frame
      | (with_reducible exact partsIn_trans (by decide) hw) | (with_reducible refine ite_pair_frame ?_ ?_)
      | (with_reducible refine ite_trip_frame ?_ ?_) | split
      | (refine frame_of_pair (by with_reducible assumption) ?_)
      | (refine frame_of_trip (by with_reducible assumption) ?_) | (with_reducible refine agree_regs ?_ ?_)
      | (dsimp only))

theorem readNarrow_frame {A : List Part} {s0 : State} (w : Window) (off : Nat) (s : State) (hs : s0.agree A s)
    (hw : partsIn [.tracer, .regs] A = true) : s0.agree A (readNarrow w off s).2 := by
  unfold readNarrow
  try dsimp only
  repeat' (first
      | with_reducible assumption | with_reducible apply readHigh_frame | with_reducible apply readLow_frame
      | (with_reducible exact partsIn_trans (by decide) hw) | (with_reducible refine ite_frame ?_ ?_)
      | (with_reducible refine ite_pair_frame ?_ ?_) | (with_reducible refine ite_trip_frame ?_ ?_) | split
      | (refine frame_of_pair (by with_reducible assumption) ?_)
      | (refine frame_of_trip (by with_reducible assumption) ?_) | (dsimp only))

theorem answerRead_frame {A : List Part} {s0 : State} (w : Window) (off : Nat) (wide : Bool) (s : State) (hs :
    s0.agree A s) (hw : partsIn [.out, .tracer, .regs] A = true) : s0.agree A (answerRead w off wide s) := by
  unfold answerRead
  try dsimp only
  repeat' (first
      | with_reducible assumption | with_reducible apply emit_frame | with_reducible apply readNarrow_frame
      | with_reducible apply readWide_frame | (with_reducible exact partsIn_trans (by decide) hw)
      | (with_reducible refine ite_frame ?_ ?_) | (with_reducible refine ite_pair_frame ?_ ?_)
      | (with_reducible refine ite_trip_frame ?_ ?_) | split | (dsimp only))

theorem inTracerDomain_frame {A : List Part} {s0 : State} (work : RegWork) (serve : State → State) (s : State) (hs :
    s0.agree A s) (h_serve : ∀ s : State, s0.agree A s → s0.agree A (serve s))
    (hw : partsIn [.pins, .fns, .tracer, .power] A = true) : s0.agree A (inTracerDomain work serve s) := by
  unfold inTracerDomain
  try dsimp only
  repeat' (first
      | with_reducible assumption | with_reducible apply markWork_frame | with_reducible apply wakeDomain_frame
      | (with_reducible exact partsIn_trans (by decide) hw) | with_reducible apply h_serve
      | (with_reducible refine ite_frame ?_ ?_) | split | (with_reducible refine agree_fns ?_ ?_))

theorem readWindow_frame {A : List Part} {s0 : State} (w : Window) (off : Nat) (wide : Bool) (s : State) (hs :
    s0.agree A s) (hw : partsIn [.out, .pins, .fns, .tracer, .power, .regs] A = true) : s0.agree A
    (readWindow w off wide s) := by
  unfold readWindow
  try dsimp only
  repeat' (first
      | with_reducible assumption | (with_reducible intro _) | with_reducible apply answerRead_frame
      | with_reducible apply inTracerDomain_frame | (with_reducible exact partsIn_trans (by decide) hw)
      | (with_reducible refine ite_frame ?_ ?_) | split)

theorem execRegRead_frame {A : List Part} {s0 : State} (offset : BitVec 20) (wide : Bool) (s : State) (hs :
    s0.agree A s) (hw : partsIn [.out, .pins, .fns, .tracer, .power, .regs] A = true) : FrameOut A s0
    (execRegRead offset wide s) := by
  unfold execRegRead
  try dsimp only
  repeat' (first
      | with_reducible exact frameOut_fault | (with_reducible apply frameOut_next)
      | (with_reducible refine frameOut_ite ?_ ?_) | with_reducible assumption | (with_reducible intro _)
      | with_reducible apply emit_frame | with_reducible apply readWindow_frame
      | (with_reducible exact partsIn_trans (by decide) hw) | (with_reducible refine ite_frame ?_ ?_) | split
      | (dsimp only))

theorem execLowHalfRead_frame {A : List Part} {s0 : State} (window : Window) (offset : BitVec 20) (s : State) (hs :
    s0.agree A s) (hw : partsIn [.out, .pins, .fns, .tracer, .power, .regs] A = true) : FrameOut A s0
    (execLowHalfRead window offset s) := by
  unfold execLowHalfRead
  try dsimp only
  repeat' (first
      | with_reducible exact frameOut_fault | (with_reducible apply frameOut_next)
      | (with_reducible refine frameOut_ite ?_ ?_) | with_reducible assumption | (with_reducible intro _)
      | with_reducible apply emit_frame | with_reducible apply readWindow_frame
      | (with_reducible exact partsIn_trans (by decide) hw) | (with_reducible refine ite_frame ?_ ?_) | split
      | (dsimp only))

theorem execCounterRegisterRead_frame {A : List Part} {s0 : State} (index : BitVec 10) (wide : Bool) (s : State)
    (hs : s0.agree A s) (hw : partsIn [.out, .pins, .fns, .tracer, .power, .regs] A = true) : FrameOut A s0
    (execCounterRegisterRead index wide s) := by
  unfold execCounterRegisterRead
  try dsimp only
  repeat' (first
      | with_reducible exact frameOut_fault | (with_reducible apply frameOut_next)
      | (with_reducible refine frameOut_ite ?_ ?_) | with_reducible assumption | (with_reducible intro _)
      | with_reducible apply readWindow_frame | (with_reducible exact partsIn_trans (by decide) hw)
      | (with_reducible refine ite_frame ?_ ?_) | split | (dsimp only))

theorem writeConfig_frame {A : List Part} {s0 : State} (off : Nat) (v : BitVec 32) (s : State) (hs : s0.agree A s)
    (hw : partsIn [.regs] A = true) : s0.agree A (writeConfig off v s) := by
  unfold writeConfig
  try dsimp only
  repeat' (first
      | with_reducible assumption | (with_reducible exact partsIn_trans (by decide) hw)
      | (with_reducible refine ite_frame ?_ ?_) | split | (with_reducible refine agree_regs ?_ ?_))

theorem writeRequest_frame {A : List Part} {s0 : State} (fn : FnId) (off : Nat) (v : BitVec 32) (s : State) (hs :
    s0.agree A s) (hw : partsIn [.fns] A = true) : s0.agree A (writeRequest fn off v s) := by
  unfold writeRequest
  try dsimp only
  repeat' (first
      | with_reducible assumption | with_reducible apply setMailbox_frame
      | (with_reducible exact partsIn_trans (by decide) hw) | (with_reducible refine ite_frame ?_ ?_) | split)

theorem writeRingHead_frame {A : List Part} {s0 : State} (fn : FnId) (e : BitVec 9) (v : BitVec 32) (s : State)
    (hs : s0.agree A s) (hw : partsIn [.out, .obj, .tracer] A = true) : s0.agree A (writeRingHead fn e v s) := by
  unfold writeRingHead
  try dsimp only
  repeat' (first
      | with_reducible assumption | with_reducible apply setArm_frame | with_reducible apply writeHead_frame
      | (with_reducible exact partsIn_trans (by decide) hw) | (with_reducible refine ite_frame ?_ ?_) | split)

theorem writeDirty_frame {A : List Part} {s0 : State} (n : VfId) (r : Nat) (x : BitVec 32) (s : State) (hs :
    s0.agree A s) (hw : partsIn [.fns] A = true) : s0.agree A (writeDirty n r x s) := by
  unfold writeDirty
  try dsimp only
  repeat' (first
      | with_reducible assumption | (with_reducible intro _) | with_reducible apply modVf_frame
      | (with_reducible exact partsIn_trans (by decide) hw) | (with_reducible refine ite_frame ?_ ?_) | split)

theorem writeDirtyCtrl_frame {A : List Part} {s0 : State} (n : VfId) (x : BitVec 32) (s : State) (hs : s0.agree A s)
    (hw : partsIn [.out, .fns] A = true) : s0.agree A (writeDirtyCtrl n x s) := by
  unfold writeDirtyCtrl
  try dsimp only
  repeat' (first
      | with_reducible assumption | (with_reducible intro _) | with_reducible apply modVf_frame
      | with_reducible apply setDirty_frame | with_reducible apply setSwap_frame
      | (with_reducible exact partsIn_trans (by decide) hw) | (with_reducible refine ite_frame ?_ ?_) | split)

theorem writeVf_frame {A : List Part} {s0 : State} (off : Nat) (x : BitVec 32) (s : State) (hs : s0.agree A s)
    (hw : partsIn [.out, .pins, .sb, .datum, .polders, .cad, .keys, .stack, .sca, .obj, .fns, .spdm, .charts, .tracer, .gauge, .power, .pool, .free] A = true) :
    s0.agree A (writeVf off x s) := by
  unfold writeVf
  try dsimp only
  repeat' (first
      | with_reducible assumption | (with_reducible intro _) | with_reducible apply modVf_frame
      | with_reducible apply reqLock_frame | with_reducible apply reqRun_frame
      | with_reducible apply reqUnlock_frame | with_reducible apply writeAllot_frame
      | with_reducible apply writeDirty_frame | with_reducible apply writeDirtyCtrl_frame
      | (with_reducible exact partsIn_trans (by decide) hw) | (with_reducible refine ite_frame ?_ ?_) | split)

theorem setProf_frame {A : List Part} {s0 : State} (i : BitVec 6) (x : BitVec 32) (s : State) (hs : s0.agree A s)
    (hw : partsIn [.tracer] A = true) : s0.agree A (setProf i x s) := by
  unfold setProf
  try dsimp only
  repeat' (first
      | with_reducible assumption | (with_reducible intro _) | with_reducible apply profReset_frame
      | (with_reducible exact partsIn_trans (by decide) hw) | (with_reducible refine agree_tracer ?_ ?_))

theorem writeProf_frame {A : List Part} {s0 : State} (i : BitVec 6) (x : BitVec 32) (s : State) (hs : s0.agree A s)
    (hw : partsIn [.pins, .fns, .tracer, .power] A = true) : s0.agree A (writeProf i x s) := by
  unfold writeProf
  try dsimp only
  repeat' (first
      | with_reducible assumption | (with_reducible intro _) | with_reducible apply inTracerDomain_frame
      | with_reducible apply setProf_frame | (with_reducible exact partsIn_trans (by decide) hw)
      | (with_reducible refine ite_frame ?_ ?_) | split)

theorem execProfSelWrite_frame {A : List Part} {s0 : State} (index : BitVec 6) (value : BitVec 64) (s : State) (hs :
    s0.agree A s) (hw : partsIn [.pins, .fns, .tracer, .power] A = true) : FrameOut A s0
    (execProfSelWrite index value s) := by
  unfold execProfSelWrite
  try dsimp only
  repeat' (first
      | with_reducible exact frameOut_fault | (with_reducible apply frameOut_next)
      | (with_reducible refine frameOut_ite ?_ ?_) | with_reducible assumption | (with_reducible intro _)
      | with_reducible apply writeProf_frame | (with_reducible exact partsIn_trans (by decide) hw) | (dsimp only))

theorem write32_frame {A : List Part} {s0 : State} (w : Window) (off : Nat) (x : BitVec 32) (s : State) (hs :
    s0.agree A s)
    (hw : partsIn [.out, .owner, .pins, .boot, .fuses, .flash, .lc, .sb, .datum, .polders, .cad, .keys, .link, .stack, .tray, .fau, .rings, .coll, .bars, .sca, .obj, .fns, .spdm, .weirs, .charts, .tracer, .gauge, .power, .regs, .pool, .free] A = true) :
    s0.agree A (write32 w off x s) := by
  unfold write32
  try dsimp only
  repeat' (first
      | with_reducible assumption | with_reducible apply ringDoorbell_frame | with_reducible apply writeConfig_frame
      | with_reducible apply writeProf_frame | with_reducible apply writeRequest_frame
      | with_reducible apply writeRingHead_frame | with_reducible apply writeTail_frame
      | with_reducible apply writeVf_frame | (with_reducible exact partsIn_trans (by decide) hw)
      | (with_reducible refine ite_frame ?_ ?_) | split)

theorem execRegisterWrite_frame {A : List Part} {s0 : State} (window : Window) (offset : BitVec 20) (wide : Bool)
    (value : BitVec 64) (s : State) (hs : s0.agree A s)
    (hw : partsIn [.out, .owner, .pins, .boot, .fuses, .flash, .lc, .sb, .datum, .polders, .cad, .keys, .link, .stack, .tray, .fau, .rings, .coll, .bars, .sca, .obj, .fns, .spdm, .weirs, .charts, .tracer, .gauge, .power, .regs, .pool, .free] A = true) :
    FrameOut A s0 (execRegisterWrite window offset wide value s) := by
  unfold execRegisterWrite
  try dsimp only
  repeat' (first
      | with_reducible exact frameOut_fault | (with_reducible apply frameOut_next)
      | (with_reducible refine frameOut_ite ?_ ?_) | with_reducible assumption | (with_reducible intro _)
      | with_reducible apply write32_frame | (with_reducible exact partsIn_trans (by decide) hw)
      | (with_reducible refine ite_frame ?_ ?_) | split | (dsimp only))

theorem serveRegs_frame {A : List Part} {s0 : State} (s : State) (hs : s0.agree A s)
    (hw : partsIn [.out, .fns, .tracer, .regs] A = true) : s0.agree A (serveRegs s) := by
  unfold serveRegs
  try dsimp only
  repeat' (first
      | with_reducible assumption | (with_reducible intro _) | with_reducible apply answerRead_frame
      | with_reducible apply setProf_frame | (with_reducible exact partsIn_trans (by decide) hw)
      | (with_reducible apply foldl_frame) | split | (with_reducible refine agree_fns ?_ ?_) | (dsimp only))

theorem restartDomain_frame {A : List Part} {s0 : State} (d : DomainId) (s : State) (hs : s0.agree A s)
    (hw : partsIn [.out, .pins, .sb, .datum, .polders, .cad, .keys, .link, .stack, .tray, .fau, .rings, .coll, .bars, .sca, .obj, .fns, .charts, .tracer, .gauge, .power, .regs, .pool, .free] A = true) :
    s0.agree A (restartDomain d s) := by
  unfold restartDomain
  try dsimp only
  repeat' (first
      | with_reducible assumption | with_reducible apply domainServes_frame | with_reducible apply serveRegs_frame
      | (with_reducible exact partsIn_trans (by decide) hw) | (with_reducible refine ite_frame ?_ ?_) | split)

theorem execClockStopRelease_frame {A : List Part} {s0 : State} (d : DomainId) (s : State) (hs : s0.agree A s)
    (hw : partsIn [.out, .pins, .sb, .datum, .polders, .cad, .keys, .link, .stack, .tray, .fau, .rings, .coll, .bars, .sca, .obj, .fns, .charts, .tracer, .gauge, .power, .regs, .pool, .free] A = true) :
    FrameOut A s0 (execClockStopRelease d s) := by
  unfold execClockStopRelease
  try dsimp only
  repeat' (first
      | with_reducible exact frameOut_fault | (with_reducible apply frameOut_next)
      | (with_reducible refine frameOut_ite ?_ ?_) | with_reducible assumption | (with_reducible intro _)
      | with_reducible apply emitTrace_frame | with_reducible apply modPins_frame
      | with_reducible apply releaseTrace_frame | with_reducible apply restartDomain_frame
      | with_reducible apply tookFree_frame | (with_reducible exact partsIn_trans (by decide) hw)
      | (with_reducible refine ite_frame ?_ ?_) | split | (dsimp only))

theorem execPowerGood_frame {A : List Part} {s0 : State} (d : DomainId) (s : State) (hs : s0.agree A s)
    (hw : partsIn [.out, .pins, .sb, .datum, .polders, .cad, .keys, .link, .stack, .tray, .fau, .rings, .coll, .bars, .sca, .obj, .fns, .charts, .tracer, .gauge, .power, .regs, .pool, .free] A = true) :
    FrameOut A s0 (execPowerGood d s) := by
  unfold execPowerGood
  try dsimp only
  repeat' (first
      | with_reducible exact frameOut_fault | (with_reducible apply frameOut_next)
      | (with_reducible refine frameOut_ite ?_ ?_) | with_reducible assumption | (with_reducible intro _)
      | with_reducible apply emitTrace_frame | with_reducible apply markWork_frame
      | with_reducible apply modPins_frame | with_reducible apply releaseTrace_frame
      | with_reducible apply reloadCopies_frame | with_reducible apply restartDomain_frame
      | (with_reducible exact partsIn_trans (by decide) hw) | (with_reducible refine ite_frame ?_ ?_) | split
      | (dsimp only))

end Sys2Proof.Machine
end

