-- ==== Sys2Proof/Laws/FrameTick.lean ====
section
/-! SUPPORT. Which parts of the state the operations of Machine/Tick.lean may change (State.agree). -/

namespace Sys2Proof.Machine

theorem gaugeTick_frame {A : List Part} {s0 : State} (s : State) (hs : s0.agree A s)
    (hw : partsIn [.gauge] A = true) : s0.agree A (gaugeTick s) := by
  unfold gaugeTick
  try dsimp only
  repeat' (first
      | with_reducible assumption | (with_reducible intro _) | with_reducible apply meter_frame
      | (with_reducible exact partsIn_trans (by decide) hw) | (with_reducible apply foldl_frame)
      | (with_reducible refine ite_frame ?_ ?_) | split | (with_reducible refine agree_gauge ?_ ?_) | (dsimp only))

theorem tick_frame {A : List Part} {s0 : State} (s : State) (hs : s0.agree A s)
    (hw : partsIn [.time, .datum, .gauge] A = true) : s0.agree A (tick s) := by
  unfold tick
  try dsimp only
  repeat' (first
      | with_reducible assumption | with_reducible apply gaugeTick_frame
      | (with_reducible exact partsIn_trans (by decide) hw) | (with_reducible refine ite_frame ?_ ?_) | split
      | (with_reducible refine agree_time ?_ ?_) | (with_reducible refine agree_datum ?_ ?_)
      | (with_reducible refine agree_upd (W := [.time, .datum]) ?_ rfl (by intro p hp; cases p <;> (try exact absurd hp (by decide)) <;> exact rfl) ?_))

end Sys2Proof.Machine
end

