-- ==== Sys2Proof/Laws/Lists.lean ====
section
/-! SUPPORT. What the operations on association lists and on lists of records answer. -/

namespace Sys2Proof.Machine

/-- A key reads what was set for it. -/
theorem lookup_assocSet_same {κ ν : Type} [DecidableEq κ] (k : κ) (v : ν) (l : List (κ × ν)) :
    (assocSet k v l).lookup k = some v := by
  induction l with
  | nil => simp [assocSet]
  | cons x t ih =>
    obtain ⟨a, b⟩ := x
    unfold assocSet
    by_cases h : a = k
    · simp [h]
    · have e : (k == a) = false := beq_false_of_ne (Ne.symm h)
      simp [h, List.lookup_cons, e, ih]

/-- Another key reads what it did. -/
theorem lookup_assocSet_other {κ ν : Type} [DecidableEq κ] {k j : κ} (h : j ≠ k) (v : ν) (l : List (κ × ν)) :
    (assocSet k v l).lookup j = l.lookup j := by
  induction l with
  | nil => simp [assocSet, List.lookup_cons, beq_false_of_ne h]
  | cons x t ih =>
    obtain ⟨a, b⟩ := x
    unfold assocSet
    by_cases e : a = k
    · subst e; simp [List.lookup_cons, beq_false_of_ne h]
    · simp only [e, if_false, List.lookup_cons, ih]

@[simp] theorem assocGet_assocSet_same {κ ν : Type} [DecidableEq κ] (k : κ) (v d : ν) (l : List (κ × ν)) :
    assocGet k d (assocSet k v l) = v := by
  simp [assocGet, lookup_assocSet_same]

theorem assocGet_assocSet_other {κ ν : Type} [DecidableEq κ] {k j : κ} (h : j ≠ k) (v d : ν) (l : List (κ × ν)) :
    assocGet j d (assocSet k v l) = assocGet j d l := by
  simp [assocGet, lookup_assocSet_other h]

/-- An element put in with upsert is found. -/
@[simp] theorem find?_upsert {α : Type} {p : α → Bool} {a : α} (h : p a = true) (l : List α) :
    (upsert p a l).find? p = some a := by
  induction l with
  | nil => simp [upsert, h]
  | cons x t ih =>
    unfold upsert
    by_cases hx : p x = true
    · simp [hx, h]
    · simp [hx, ih]

/-- An element put in with upsert is a member. -/
theorem mem_upsert {α : Type} (p : α → Bool) (a : α) (l : List α) : a ∈ upsert p a l := by
  induction l with
  | nil => simp [upsert]
  | cons x t ih =>
    unfold upsert
    by_cases hx : p x = true <;> simp [hx, ih]

@[simp] theorem counterOf_count (i : Nat) (s : State) : counterOf i (count i s) = counterOf i s + 1 := by
  simp [counterOf, count, countBy]

end Sys2Proof.Machine
end

