-- ==== Sys2Proof/Laws/SoundOps.lean ====
section
/-! SUPPORT. What the operations of Machine/Ops.lean keep: memories in canonical form, registers in range, blown
fuses and bounded fault rings (State.Sound). -/

namespace Sys2Proof.Machine

theorem foldl_sound {F : Kept} {α : Type} (g : State → α → State) (l : List α) (s : State) (h : s.Sound F)
    (hg : ∀ t x, t.Sound F → (g t x).Sound F) : (l.foldl g s).Sound F := by
  induction l generalizing s with
  | nil => exact h
  | cons x t ih => exact ih _ (hg _ _ h)

theorem sound_of_pair {F : Kept} {α : Type} {p : α × State} {a : α} {t : State} (e : p = (a, t)) (h : p.2.Sound F) :
    t.Sound F := by subst e; exact h

theorem sound_of_trip {F : Kept} {α β : Type} {p : α × β × State} {a : α} {b : β} {t : State} (e : p = (a, b, t))
    (h : p.2.2.Sound F) : t.Sound F := by subst e; exact h

/-- A record update that leaves the memories, the configuration registers, the fuses and the fault rings as they are. -/
theorem sound_upd {F : Kept} {s : State} {x0 x1 x2 x3 x4 x5 x6 x7 x8 x9 x10 x11 x12 x13 x14 x15 x16 x17 x18 x19
    x20 x21 x22 x23 x24 x25 x26 x27 x28 x29 x30 x31 x32 x33} (h : s.Sound F)
    (h1 : x16.mem = s.stack.mem) (h2 : x17.devices = s.tray.devices) (h3 : x31 = s.regs)
    (h4 : x7 = s.fuses) (h5 : x28.faults = s.tracer.faults)
    (h6 : x10.faultCopy = s.sb.faultCopy)
    (h7 : x0 = s.pending) (h8 : x3 = s.chip) :
    State.Sound F (State.mk x0 x1 x2 x3 x4 x5 x6 x7 x8 x9 x10 x11 x12 x13 x14 x15 x16
      x17 x18 x19 x20 x21 x22 x23 x24 x25 x26 x27 x28 x29 x30 x31 x32 x33) := by
  obtain ⟨⟨a, b⟩, c, ⟨d, i, j⟩, e, f⟩ := h
  exact ⟨⟨h1 ▸ a, h2 ▸ b⟩, h3 ▸ c, ⟨h4 ▸ d, h7.trans i, h8.trans j⟩, h5 ▸ e, h6 ▸ f⟩

/-- A record goes into the side-band copy, of which the newest 64 stay (R436). -/
theorem faultCopy_sound {F : Kept} (r : FaultRecord) (s : State) (h : s.Sound F) :
    State.Sound F { s with sb := { s.sb with faultCopy := lastN 64 (s.sb.faultCopy ++ [r]) } } := by
  obtain ⟨a, b, c, d, e⟩ := h
  refine ⟨a, b, c, d, ?_⟩
  simp only [lastN, List.length_drop]
  omega


/-- Bytes are written to the stacks. -/
theorem stackWriteN_upd {F : Kept} {s : State} {x0 x1 x2 x3 x4 x5 x6 x7 x8 x9 x10 x11 x12 x13 x14 x15 x16 x17 x18 x19
    x20 x21 x22 x23 x24 x25 x26 x27 x28 x29 x30 x31 x32 x33} {y z} (h : s.Sound F)
    (h1 : x16.mem = memWriteN 0 s.stack.mem y z) (h2 : x17.devices = s.tray.devices) (h3 : x31 = s.regs)
    (h4 : x7 = s.fuses) (h5 : x28.faults = s.tracer.faults) (h6 : x10.faultCopy = s.sb.faultCopy)
    (h7 : x0 = s.pending) (h8 : x3 = s.chip) :
    State.Sound F (State.mk x0 x1 x2 x3 x4 x5 x6 x7 x8 x9 x10 x11 x12 x13 x14 x15 x16
      x17 x18 x19 x20 x21 x22 x23 x24 x25 x26 x27 x28 x29 x30 x31 x32 x33) := by
  obtain ⟨⟨a, b⟩, c, ⟨d, i, j⟩, e, f⟩ := h
  exact ⟨⟨h1 ▸ memWriteN_wf a y z, h2 ▸ b⟩, h3 ▸ c, ⟨h4 ▸ d, h7.trans i, h8.trans j⟩, h5 ▸ e, h6 ▸ f⟩

/-- Units of the stacks are filled. -/
theorem stackFill_upd {F : Kept} {s : State} {x0 x1 x2 x3 x4 x5 x6 x7 x8 x9 x10 x11 x12 x13 x14 x15 x16 x17 x18 x19
    x20 x21 x22 x23 x24 x25 x26 x27 x28 x29 x30 x31 x32 x33} {y z w} (h : s.Sound F)
    (h1 : x16.mem = memFill 0 s.stack.mem y z w) (h2 : x17.devices = s.tray.devices) (h3 : x31 = s.regs)
    (h4 : x7 = s.fuses) (h5 : x28.faults = s.tracer.faults) (h6 : x10.faultCopy = s.sb.faultCopy)
    (h7 : x0 = s.pending) (h8 : x3 = s.chip) :
    State.Sound F (State.mk x0 x1 x2 x3 x4 x5 x6 x7 x8 x9 x10 x11 x12 x13 x14 x15 x16
      x17 x18 x19 x20 x21 x22 x23 x24 x25 x26 x27 x28 x29 x30 x31 x32 x33) := by
  obtain ⟨⟨a, b⟩, c, ⟨d, i, j⟩, e, f⟩ := h
  exact ⟨⟨h1 ▸ memFill_wf a y z w, h2 ▸ b⟩, h3 ▸ c, ⟨h4 ▸ d, h7.trans i, h8.trans j⟩, h5 ▸ e, h6 ▸ f⟩

/-- Bytes of the stacks are erased. -/
theorem stackErase_upd {F : Kept} {s : State} {x0 x1 x2 x3 x4 x5 x6 x7 x8 x9 x10 x11 x12 x13 x14 x15 x16 x17 x18 x19
    x20 x21 x22 x23 x24 x25 x26 x27 x28 x29 x30 x31 x32 x33} {y z} (h : s.Sound F)
    (h1 : x16.mem = memErase s.stack.mem y z) (h2 : x17.devices = s.tray.devices) (h3 : x31 = s.regs)
    (h4 : x7 = s.fuses) (h5 : x28.faults = s.tracer.faults) (h6 : x10.faultCopy = s.sb.faultCopy)
    (h7 : x0 = s.pending) (h8 : x3 = s.chip) :
    State.Sound F (State.mk x0 x1 x2 x3 x4 x5 x6 x7 x8 x9 x10 x11 x12 x13 x14 x15 x16
      x17 x18 x19 x20 x21 x22 x23 x24 x25 x26 x27 x28 x29 x30 x31 x32 x33) := by
  obtain ⟨⟨a, b⟩, c, ⟨d, i, j⟩, e, f⟩ := h
  exact ⟨⟨h1 ▸ memErase_wf a y z, h2 ▸ b⟩, h3 ▸ c, ⟨h4 ▸ d, h7.trans i, h8.trans j⟩, h5 ▸ e, h6 ▸ f⟩

/-- Bytes are written to the tray devices. -/
theorem devicesWriteN_upd {F : Kept} {s : State} {x0 x1 x2 x3 x4 x5 x6 x7 x8 x9 x10 x11 x12 x13 x14 x15 x16 x17 x18 x19
    x20 x21 x22 x23 x24 x25 x26 x27 x28 x29 x30 x31 x32 x33} {y z} (h : s.Sound F)
    (h1 : x16.mem = s.stack.mem) (h2 : x17.devices = memWriteN 0 s.tray.devices y z) (h3 : x31 = s.regs)
    (h4 : x7 = s.fuses) (h5 : x28.faults = s.tracer.faults) (h6 : x10.faultCopy = s.sb.faultCopy)
    (h7 : x0 = s.pending) (h8 : x3 = s.chip) :
    State.Sound F (State.mk x0 x1 x2 x3 x4 x5 x6 x7 x8 x9 x10 x11 x12 x13 x14 x15 x16
      x17 x18 x19 x20 x21 x22 x23 x24 x25 x26 x27 x28 x29 x30 x31 x32 x33) := by
  obtain ⟨⟨a, b⟩, c, ⟨d, i, j⟩, e, f⟩ := h
  exact ⟨⟨h1 ▸ a, h2 ▸ memWriteN_wf b y z⟩, h3 ▸ c, ⟨h4 ▸ d, h7.trans i, h8.trans j⟩, h5 ▸ e, h6 ▸ f⟩

/-- The configuration registers change to others within their ranges. -/
theorem regs_upd {F : Kept} {s : State} {x0 x1 x2 x3 x4 x5 x6 x7 x8 x9 x10 x11 x12 x13 x14 x15 x16 x17 x18 x19
    x20 x21 x22 x23 x24 x25 x26 x27 x28 x29 x30 x31 x32 x33}  (h : s.Sound F)
    (h1 : x16.mem = s.stack.mem) (h2 : x17.devices = s.tray.devices) (h3 : x31.inRange)
    (h4 : x7 = s.fuses) (h5 : x28.faults = s.tracer.faults) (h6 : x10.faultCopy = s.sb.faultCopy)
    (h7 : x0 = s.pending) (h8 : x3 = s.chip) :
    State.Sound F (State.mk x0 x1 x2 x3 x4 x5 x6 x7 x8 x9 x10 x11 x12 x13 x14 x15 x16
      x17 x18 x19 x20 x21 x22 x23 x24 x25 x26 x27 x28 x29 x30 x31 x32 x33) := by
  obtain ⟨⟨a, b⟩, c, ⟨d, i, j⟩, e, f⟩ := h
  exact ⟨⟨h1 ▸ a, h2 ▸ b⟩, h3, ⟨h4 ▸ d, h7.trans i, h8.trans j⟩, h5 ▸ e, h6 ▸ f⟩

/-- The fuses change to others in which every bit blown stays blown. -/
theorem fuses_upd {F : Kept} {s : State} {x0 x1 x2 x3 x4 x5 x6 x7 x8 x9 x10 x11 x12 x13 x14 x15 x16 x17 x18 x19
    x20 x21 x22 x23 x24 x25 x26 x27 x28 x29 x30 x31 x32 x33}  (h : s.Sound F)
    (h1 : x16.mem = s.stack.mem) (h2 : x17.devices = s.tray.devices) (h3 : x31 = s.regs)
    (h4 : F.fuses.blownIn x7) (h5 : x28.faults = s.tracer.faults) (h6 : x10.faultCopy = s.sb.faultCopy)
    (h7 : x0 = s.pending) (h8 : x3 = s.chip) :
    State.Sound F (State.mk x0 x1 x2 x3 x4 x5 x6 x7 x8 x9 x10 x11 x12 x13 x14 x15 x16
      x17 x18 x19 x20 x21 x22 x23 x24 x25 x26 x27 x28 x29 x30 x31 x32 x33) := by
  obtain ⟨⟨a, b⟩, c, ⟨d, i, j⟩, e, f⟩ := h
  exact ⟨⟨h1 ▸ a, h2 ▸ b⟩, h3 ▸ c, ⟨h4, h7.trans i, h8.trans j⟩, h5 ▸ e, h6 ▸ f⟩

theorem foldl_pair_sound {F : Kept} {α β : Type} (g : α × State → β → α × State) (l : List β) (p : α × State)
    (h : p.2.Sound F) (hg : ∀ q x, q.2.Sound F → (g q x).2.Sound F) : (l.foldl g p).2.Sound F := by
  induction l generalizing p with
  | nil => exact h
  | cons x t ih => exact ih _ (hg _ _ h)

theorem foldl_trip_sound {F : Kept} {α β γ : Type} (g : α × γ × State → β → α × γ × State) (l : List β)
    (p : α × γ × State) (h : p.2.2.Sound F) (hg : ∀ q x, q.2.2.Sound F → (g q x).2.2.Sound F) :
    (l.foldl g p).2.2.Sound F := by
  induction l generalizing p with
  | nil => exact h
  | cons x t ih => exact ih _ (hg _ _ h)

theorem id_sound {F : Kept} {s : State} (h : s.Sound F) : State.Sound F (id s) := h

/-- Every state that an answer holds is sound. -/
def SoundOpt (F : Kept) : Option State → Prop
  | none => True
  | some t => t.Sound F

theorem soundOpt_none {F : Kept} : SoundOpt F none := trivial

theorem soundOpt_some {F : Kept} {t : State} (h : t.Sound F) : SoundOpt F (some t) := h

theorem sound_of_opt {F : Kept} {o : Option State} {t : State} (e : o = some t) (h : SoundOpt F o) : t.Sound F := by
  subst e; exact h

theorem ite_sound {F : Kept} {c : Prop} [Decidable c] {s t : State} (hs : s.Sound F) (ht : t.Sound F) :
    State.Sound F (if c then s else t) := by split <;> assumption

theorem ite_pair_sound {F : Kept} {α : Type} {c : Prop} [Decidable c] {p q : α × State} (hp : p.2.Sound F)
    (hq : q.2.Sound F) : State.Sound F (if c then p else q).2 := by split <;> assumption

theorem ite_trip_sound {F : Kept} {α β : Type} {c : Prop} [Decidable c] {p q : α × β × State} (hp : p.2.2.Sound F)
    (hq : q.2.2.Sound F) : State.Sound F (if c then p else q).2.2 := by split <;> assumption

/-- The next state of an outcome, if it has one, is sound. -/
def SoundOut (F : Kept) : Host.Outcome State Fault Refusal → Prop
  | .next t => t.Sound F
  | .fault _ => True
  | .refused _ => True

theorem soundOut_next {F : Kept} {t : State} (h : t.Sound F) : SoundOut F (.next t) := h

theorem soundOut_fault {F : Kept} {r : Fault} : SoundOut F (.fault r) := trivial

theorem soundOut_ite {F : Kept} {c : Prop} [Decidable c] {x y : Host.Outcome State Fault Refusal}
    (hx : SoundOut F x) (hy : SoundOut F y) : SoundOut F (if c then x else y) := by split <;> assumption

theorem emit_sound {F : Kept} (o : Output) (s : State) (hs : s.Sound F) : State.Sound F (emit o s) := by
  unfold emit
  try dsimp only
  repeat' (first | with_reducible assumption | (with_reducible refine sound_upd ?_ rfl rfl rfl rfl rfl rfl rfl rfl))

theorem tookFree_sound {F : Kept} (s : State) (hs : s.Sound F) : State.Sound F (tookFree s) := by
  unfold tookFree
  try dsimp only
  repeat' (first | with_reducible assumption | (with_reducible refine sound_upd ?_ rfl rfl rfl rfl rfl rfl rfl rfl))

theorem countBy_sound {F : Kept} (i : Nat) (n : Nat) (s : State) (hs : s.Sound F) : State.Sound F
    (countBy i n s) := by
  unfold countBy
  try dsimp only
  repeat' (first | with_reducible assumption | (with_reducible refine sound_upd ?_ rfl rfl rfl rfl rfl rfl rfl rfl))

theorem count_sound {F : Kept} (i : Nat) (s : State) (hs : s.Sound F) : State.Sound F (count i s) := by
  unfold count
  try dsimp only
  repeat' (first | with_reducible assumption | with_reducible apply countBy_sound)

theorem meter_sound {F : Kept} (p : PolderId) (c : Fin 7) (n : Nat) (s : State) (hs : s.Sound F) : State.Sound F
    (meter p c n s) := by
  unfold meter
  try dsimp only
  repeat' (first | with_reducible assumption | (with_reducible refine sound_upd ?_ rfl rfl rfl rfl rfl rfl rfl rfl))

theorem modPolder_sound {F : Kept} (p : PolderId) (f : Polder → Polder) (s : State) (hs : s.Sound F) : State.Sound F
    (modPolder p f s) := by
  unfold modPolder
  try dsimp only
  repeat' (first
      | with_reducible assumption | (with_reducible intro _)
      | (with_reducible refine sound_upd ?_ rfl rfl rfl rfl rfl rfl rfl rfl))

theorem modPolderCounters_sound {F : Kept} (p : PolderId) (f : PolderCounters → PolderCounters) (s : State)
    (hs : s.Sound F) : State.Sound F (modPolderCounters p f s) := by
  unfold modPolderCounters
  try dsimp only
  repeat' (first
      | with_reducible assumption | (with_reducible intro _) | with_reducible apply modPolder_sound
      | (with_reducible refine sound_upd ?_ rfl rfl rfl rfl rfl rfl rfl rfl))

theorem modContext_sound {F : Kept} (c : CtxId) (f : Context → Context) (s : State) (hs : s.Sound F) : State.Sound F
    (modContext c f s) := by
  unfold modContext
  try dsimp only
  repeat' (first
      | with_reducible assumption | (with_reducible intro _)
      | (with_reducible refine sound_upd ?_ rfl rfl rfl rfl rfl rfl rfl rfl))

theorem modQueue_sound {F : Kept} (q : BitVec 8) (f : Queue → Queue) (s : State) (hs : s.Sound F) : State.Sound F
    (modQueue q f s) := by
  unfold modQueue
  try dsimp only
  repeat' (first
      | with_reducible assumption | (with_reducible intro _)
      | (with_reducible refine sound_upd ?_ rfl rfl rfl rfl rfl rfl rfl rfl))

theorem modRing_sound {F : Kept} (fn : FnId) (r : BitVec 9) (f : EventRing → EventRing) (s : State)
    (hs : s.Sound F) : State.Sound F (modRing fn r f s) := by
  unfold modRing
  try dsimp only
  repeat' (first
      | with_reducible assumption | (with_reducible intro _)
      | (with_reducible refine sound_upd ?_ rfl rfl rfl rfl rfl rfl rfl rfl))

theorem modVf_sound {F : Kept} (n : VfId) (f : Vf → Vf) (s : State) (hs : s.Sound F) : State.Sound F
    (modVf n f s) := by
  unfold modVf
  try dsimp only
  repeat' (first
      | with_reducible assumption | (with_reducible intro _)
      | (with_reducible refine sound_upd ?_ rfl rfl rfl rfl rfl rfl rfl rfl))

theorem dirtyPage_sound {F : Kept} (n : VfId) (page : Nat) (s : State) (hs : s.Sound F) : State.Sound F
    (dirtyPage n page s) := by
  unfold dirtyPage
  try dsimp only
  repeat' (first
      | with_reducible assumption | (with_reducible intro _) | with_reducible apply emit_sound
      | (with_reducible refine ite_sound ?_ ?_) | split
      | (with_reducible refine sound_upd ?_ rfl rfl rfl rfl rfl rfl rfl rfl))

theorem dirtyLog_sound {F : Kept} (n : VfId) (addr : Nat) (len : Nat) (s : State) (hs : s.Sound F) : State.Sound F
    (dirtyLog n addr len s) := by
  unfold dirtyLog
  try dsimp only
  repeat' (first
      | with_reducible assumption | (with_reducible intro _) | with_reducible apply dirtyPage_sound
      | with_reducible apply modVf_sound | (with_reducible apply foldl_sound)
      | (with_reducible refine ite_sound ?_ ?_) | split
      | (with_reducible refine sound_upd ?_ rfl rfl rfl rfl rfl rfl rfl rfl) | (dsimp only))

theorem writeBackDirty_sound {F : Kept} (n : VfId) (buf : Bool) (s : State) (hs : s.Sound F) : State.Sound F
    (writeBackDirty n buf s) := by
  unfold writeBackDirty
  try dsimp only
  repeat' (first
      | with_reducible assumption | (with_reducible intro _) | with_reducible apply emit_sound
      | (with_reducible apply foldl_sound) | (with_reducible refine ite_sound ?_ ?_) | split
      | (with_reducible refine sound_upd ?_ rfl rfl rfl rfl rfl rfl rfl rfl) | (dsimp only))

theorem hostWrite_sound {F : Kept} (fn : FnId) (addr : BitVec 64) (b : Bytes) (s : State) (hs : s.Sound F) :
    State.Sound F (hostWrite fn addr b s) := by
  unfold hostWrite
  try dsimp only
  repeat' (first
      | with_reducible assumption | with_reducible apply dirtyLog_sound | with_reducible apply emit_sound
      | (with_reducible refine ite_sound ?_ ?_) | split
      | (with_reducible refine sound_upd ?_ rfl rfl rfl rfl rfl rfl rfl rfl))

theorem stampEvent_sound {F : Kept} (e : TraceEvent) (s : State) (hs : s.Sound F) : State.Sound F
    (stampEvent e s).2 := by
  unfold stampEvent
  try dsimp only
  repeat' (first
      | with_reducible assumption | with_reducible apply tookFree_sound
      | (with_reducible refine ite_pair_sound ?_ ?_) | (with_reducible refine ite_trip_sound ?_ ?_)
      | (with_reducible refine sound_upd ?_ rfl rfl rfl rfl rfl rfl rfl rfl) | (dsimp only))

theorem writeTrace_sound {F : Kept} (e : TraceEvent) (s : State) (hs : s.Sound F) : State.Sound F
    (writeTrace e s) := by
  unfold writeTrace
  try dsimp only
  repeat' (first | with_reducible assumption | (with_reducible refine sound_upd ?_ rfl rfl rfl rfl rfl rfl rfl rfl))

theorem dropTrace_sound {F : Kept} (s : State) (hs : s.Sound F) : State.Sound F (dropTrace s) := by
  unfold dropTrace
  try dsimp only
  repeat' (first
      | with_reducible assumption | with_reducible apply count_sound
      | (with_reducible refine sound_upd ?_ rfl rfl rfl rfl rfl rfl rfl rfl))

theorem takeTrace_sound {F : Kept} (e : TraceEvent) (s : State) (hs : s.Sound F) : State.Sound F (takeTrace e s) := by
  unfold takeTrace
  try dsimp only
  repeat' (first
      | with_reducible assumption | (with_reducible intro _) | with_reducible apply dropTrace_sound
      | with_reducible apply stampEvent_sound | with_reducible apply writeTrace_sound
      | (with_reducible refine ite_sound ?_ ?_) | (with_reducible refine ite_pair_sound ?_ ?_)
      | (with_reducible refine ite_trip_sound ?_ ?_) | split
      | (with_reducible refine sound_upd ?_ rfl rfl rfl rfl rfl rfl rfl rfl) | (dsimp only))

theorem sendTrace_sound {F : Kept} (e : TraceEvent) (s : State) (hs : s.Sound F) : State.Sound F (sendTrace e s) := by
  unfold sendTrace
  try dsimp only
  repeat' (first
      | with_reducible assumption | (with_reducible intro _) | with_reducible apply dropTrace_sound
      | with_reducible apply takeTrace_sound | (with_reducible refine ite_sound ?_ ?_) | split
      | (with_reducible refine sound_upd ?_ rfl rfl rfl rfl rfl rfl rfl rfl))

theorem emitTrace_sound {F : Kept} (bit : Nat) (code : BitVec 16) (unit : BitVec 16) (p : PolderId)
    (c : Option CtxId) (payload : Bytes) (s : State) (hs : s.Sound F) : State.Sound F
    (emitTrace bit code unit p c payload s) := by
  unfold emitTrace
  try dsimp only
  repeat' (first
      | with_reducible assumption | with_reducible apply sendTrace_sound | with_reducible apply stampEvent_sound
      | (with_reducible refine ite_sound ?_ ?_) | (with_reducible refine ite_pair_sound ?_ ?_)
      | (with_reducible refine ite_trip_sound ?_ ?_) | split
      | (with_reducible refine sound_upd ?_ rfl rfl rfl rfl rfl rfl rfl rfl) | (dsimp only))

theorem releaseTrace_sound {F : Kept} (d : DomainId) (s : State) (hs : s.Sound F) : State.Sound F
    (releaseTrace d s) := by
  unfold releaseTrace
  try dsimp only
  repeat' (first
      | with_reducible assumption | (with_reducible intro _) | with_reducible apply sendTrace_sound
      | with_reducible apply stampEvent_sound | with_reducible apply takeTrace_sound
      | (with_reducible apply foldl_sound) | (with_reducible apply foldl_pair_sound)
      | (with_reducible apply foldl_trip_sound) | (with_reducible refine ite_sound ?_ ?_)
      | (with_reducible refine ite_pair_sound ?_ ?_) | (with_reducible refine ite_trip_sound ?_ ?_) | split
      | (with_reducible refine sound_upd ?_ rfl rfl rfl rfl rfl rfl rfl rfl) | (dsimp only))

theorem writeRecord_sound {F : Kept} (fn : FnId) (id : BitVec 9) (e : EventRec) (s : State) (hs : s.Sound F) :
    State.Sound F (writeRecord fn id e s) := by
  unfold writeRecord
  try dsimp only
  repeat' (first
      | with_reducible assumption | (with_reducible intro _) | with_reducible apply emit_sound
      | with_reducible apply hostWrite_sound | with_reducible apply modRing_sound | (with_reducible apply id_sound)
      | (with_reducible refine ite_sound ?_ ?_) | split
      | (with_reducible refine sound_upd ?_ rfl rfl rfl rfl rfl rfl rfl rfl))

theorem flushRing_sound {F : Kept} (fn : FnId) (id : BitVec 9) (a0 : Nat) (a1 : State) (hs : a1.Sound F) :
    State.Sound F (flushRing fn id a0 a1) := by
  induction a0 generalizing a1 with
  | zero => 
    unfold flushRing
    try dsimp only
    repeat' (first
        | with_reducible assumption | (with_reducible intro _) | with_reducible apply modRing_sound
        | with_reducible apply writeRecord_sound | (with_reducible apply id_sound)
        | (with_reducible refine ite_sound ?_ ?_) | (with_reducible refine ite_pair_sound ?_ ?_)
        | (with_reducible refine ite_trip_sound ?_ ?_) | split
        | (refine sound_of_pair (by with_reducible assumption) ?_)
        | (refine sound_of_trip (by with_reducible assumption) ?_)
        | (with_reducible refine sound_upd ?_ rfl rfl rfl rfl rfl rfl rfl rfl) | (dsimp only))
  | succ n ih => 
    unfold flushRing
    try dsimp only
    repeat' (first
        | with_reducible assumption | (with_reducible intro _) | with_reducible apply modRing_sound
        | with_reducible apply writeRecord_sound | with_reducible apply ih | (with_reducible apply id_sound)
        | (with_reducible refine ite_sound ?_ ?_) | (with_reducible refine ite_pair_sound ?_ ?_)
        | (with_reducible refine ite_trip_sound ?_ ?_) | split
        | (refine sound_of_pair (by with_reducible assumption) ?_)
        | (refine sound_of_trip (by with_reducible assumption) ?_)
        | (with_reducible refine sound_upd ?_ rfl rfl rfl rfl rfl rfl rfl rfl) | (dsimp only))

theorem postEvent_sound {F : Kept} (fn : FnId) (id : BitVec 9) (e : EventRec) (s : State) (hs : s.Sound F) :
    State.Sound F (postEvent fn id e s) := by
  unfold postEvent
  try dsimp only
  repeat' (first
      | with_reducible assumption | (with_reducible intro _) | with_reducible apply count_sound
      | with_reducible apply flushRing_sound | with_reducible apply modRing_sound
      | with_reducible apply writeRecord_sound | (with_reducible apply id_sound)
      | (with_reducible refine ite_sound ?_ ?_) | (with_reducible refine ite_pair_sound ?_ ?_)
      | (with_reducible refine ite_trip_sound ?_ ?_) | split
      | (refine sound_of_pair (by with_reducible assumption) ?_)
      | (refine sound_of_trip (by with_reducible assumption) ?_)
      | (with_reducible refine sound_upd ?_ rfl rfl rfl rfl rfl rfl rfl rfl) | (dsimp only))

theorem pushFault_sound {F : Kept} (r : FaultRecord) (s : State) (h : s.Sound F) : State.Sound F (pushFault r s) := by
  obtain ⟨a, b, c, d, e⟩ := h
  refine ⟨a, b, c, ?_, e⟩
  unfold pushFault
  dsimp only
  by_cases hf : 4096 ≤ s.tracer.faults.length <;> simp [hf] <;> omega


theorem writeFault_sound {F : Kept} (n : FaultName) (i : FaultInfo) (s : State) (h : s.Sound F) : State.Sound F
    (writeFault n i s) := by
  unfold writeFault
  try dsimp only
  repeat' (first
      | assumption | with_reducible apply emit_sound | with_reducible apply emitTrace_sound
      | with_reducible apply modPolder_sound | with_reducible apply postEvent_sound
      | with_reducible apply pushFault_sound | with_reducible apply faultCopy_sound | split)


end Sys2Proof.Machine
end

