-- ==== Sys2Proof/Laws/SoundDatum.lean ====
section
/-! SUPPORT. What the operations of Machine/Datum.lean keep: memories in canonical form, registers in range, blown
fuses and bounded fault rings (State.Sound). -/

namespace Sys2Proof.Machine

theorem modDatum_sound {F : Kept} (f : DatumUnit → DatumUnit) (s : State) (hs : s.Sound F) : State.Sound F
    (modDatum f s) := by
  unfold modDatum
  try dsimp only
  repeat' (first | with_reducible assumption | (with_reducible refine sound_upd ?_ rfl rfl rfl rfl rfl rfl rfl rfl))

theorem enterDatumState_sound {F : Kept} (new : DatumState) (s : State) (hs : s.Sound F) : State.Sound F
    (enterDatumState new s) := by
  unfold enterDatumState
  try dsimp only
  repeat' (first
      | with_reducible assumption | (with_reducible intro _) | with_reducible apply emitTrace_sound
      | with_reducible apply modDatum_sound | with_reducible apply writeFault_sound
      | (with_reducible refine ite_sound ?_ ?_) | split
      | (with_reducible refine sound_upd ?_ rfl rfl rfl rfl rfl rfl rfl rfl))

theorem applyExchange_sound {F : Kept} (off : Int) (delay : Int) (upstreamLocked : Bool) (s : State)
    (hs : s.Sound F) : State.Sound F (applyExchange off delay upstreamLocked s) := by
  unfold applyExchange
  try dsimp only
  repeat' (first
      | with_reducible assumption | (with_reducible intro _) | with_reducible apply enterDatumState_sound
      | with_reducible apply modDatum_sound | (with_reducible refine ite_sound ?_ ?_) | split
      | (with_reducible refine sound_upd ?_ rfl rfl rfl rfl rfl rfl rfl rfl))

theorem countLate_sound {F : Kept} (m : Datum) (s : State) (hs : s.Sound F) : State.Sound F (countLate m s) := by
  unfold countLate
  try dsimp only
  repeat' (first
      | with_reducible assumption | with_reducible apply count_sound | (with_reducible refine ite_sound ?_ ?_)
      | split)

theorem enqueueMark_sound {F : Kept} (m : Datum) (a : MarkAction) (s : State) (hs : s.Sound F) : State.Sound F
    (enqueueMark m a s) := by
  unfold enqueueMark
  try dsimp only
  repeat' (first
      | with_reducible assumption | (with_reducible intro _) | with_reducible apply modDatum_sound
      | (with_reducible refine sound_upd ?_ rfl rfl rfl rfl rfl rfl rfl rfl))

theorem dropMarks_sound {F : Kept} (f : MarkAction → Bool) (s : State) (hs : s.Sound F) : State.Sound F
    (dropMarks f s) := by
  unfold dropMarks
  try dsimp only
  repeat' (first
      | with_reducible assumption | (with_reducible intro _) | with_reducible apply modDatum_sound
      | (with_reducible refine sound_upd ?_ rfl rfl rfl rfl rfl rfl rfl rfl))

theorem execDatumExchange_sound {F : Kept} (t1 : BitVec 64) (t2 : BitVec 64) (t3 : BitVec 64) (t4 : BitVec 64)
    (upstreamLocked : Bool) (s : State) (hs : s.Sound F) : SoundOut F
    (execDatumExchange t1 t2 t3 t4 upstreamLocked s) := by
  unfold execDatumExchange
  try dsimp only
  repeat' (first
      | with_reducible exact soundOut_fault | (with_reducible apply soundOut_next)
      | (with_reducible refine soundOut_ite ?_ ?_) | with_reducible assumption | (with_reducible intro _)
      | with_reducible apply applyExchange_sound | (with_reducible refine ite_sound ?_ ?_) | split | (dsimp only))

theorem execDatumExchangeMissed_sound {F : Kept} (s : State) (hs : s.Sound F) : SoundOut F
    (execDatumExchangeMissed s) := by
  unfold execDatumExchangeMissed
  try dsimp only
  repeat' (first
      | with_reducible exact soundOut_fault | (with_reducible apply soundOut_next)
      | (with_reducible refine soundOut_ite ?_ ?_) | with_reducible assumption | (with_reducible intro _)
      | with_reducible apply enterDatumState_sound | with_reducible apply modDatum_sound
      | (with_reducible refine ite_sound ?_ ?_) | split
      | (with_reducible refine sound_upd ?_ rfl rfl rfl rfl rfl rfl rfl rfl) | (dsimp only))

end Sys2Proof.Machine
end

