-- ==== Sys2Proof/Laws/SoundDomains.lean ====
section
/-! SUPPORT. What the operations of Machine/Domains.lean keep: memories in canonical form, registers in range, blown
fuses and bounded fault rings (State.Sound). -/

namespace Sys2Proof.Machine

theorem modPins_sound {F : Kept} (f : Pins → Pins) (s : State) (hs : s.Sound F) : State.Sound F (modPins f s) := by
  unfold modPins
  try dsimp only
  repeat' (first | with_reducible assumption | (with_reducible refine sound_upd ?_ rfl rfl rfl rfl rfl rfl rfl rfl))

theorem modPower_sound {F : Kept} (f : Power → Power) (s : State) (hs : s.Sound F) : State.Sound F
    (modPower f s) := by
  unfold modPower
  try dsimp only
  repeat' (first | with_reducible assumption | (with_reducible refine sound_upd ?_ rfl rfl rfl rfl rfl rfl rfl rfl))

theorem wakeDomain_sound {F : Kept} (d : DomainId) (s : State) (hs : s.Sound F) : State.Sound F (wakeDomain d s) := by
  unfold wakeDomain
  try dsimp only
  repeat' (first
      | with_reducible assumption | (with_reducible intro _) | with_reducible apply count_sound
      | with_reducible apply modPins_sound | (with_reducible refine ite_sound ?_ ?_) | split
      | (with_reducible refine sound_upd ?_ rfl rfl rfl rfl rfl rfl rfl rfl))

theorem markWork_sound {F : Kept} (d : DomainId) (s : State) (hs : s.Sound F) : State.Sound F (markWork d s) := by
  unfold markWork
  try dsimp only
  repeat' (first
      | with_reducible assumption | (with_reducible intro _) | with_reducible apply modPower_sound
      | (with_reducible refine sound_upd ?_ rfl rfl rfl rfl rfl rfl rfl rfl))

theorem setCulvert_sound {F : Kept} (c : Culvert) (s : State) (hs : s.Sound F) : State.Sound F (setCulvert c s) := by
  unfold setCulvert
  try dsimp only
  repeat' (first
      | with_reducible assumption | (with_reducible intro _) | with_reducible apply modPower_sound
      | (with_reducible refine ite_sound ?_ ?_) | split
      | (with_reducible refine sound_upd ?_ rfl rfl rfl rfl rfl rfl rfl rfl))

theorem waitToEnter_sound {F : Kept} (d : DomainId) (e : CulvertEntry) (s : State) (hs : s.Sound F) : State.Sound F
    (waitToEnter d e s) := by
  unfold waitToEnter
  try dsimp only
  repeat' (first
      | with_reducible assumption | (with_reducible intro _) | with_reducible apply modPower_sound
      | with_reducible apply setCulvert_sound | (with_reducible refine ite_sound ?_ ?_) | split
      | (with_reducible refine sound_upd ?_ rfl rfl rfl rfl rfl rfl rfl rfl))

theorem enter_sound {F : Kept} (d : DomainId) (e : CulvertEntry) (serve : State → State) (s : State)
    (hs : s.Sound F) (h_serve : ∀ s : State, s.Sound F → (serve s).Sound F) : State.Sound F
    (enter d e serve s) := by
  unfold enter
  try dsimp only
  repeat' (first
      | with_reducible assumption | with_reducible apply markWork_sound | with_reducible apply waitToEnter_sound
      | with_reducible apply wakeDomain_sound | with_reducible apply h_serve
      | (with_reducible refine ite_sound ?_ ?_) | split)

theorem withDomain_sound {F : Kept} (d : DomainId) (serve : State → State) (s : State) (hs : s.Sound F)
    (h_serve : ∀ s : State, s.Sound F → (serve s).Sound F) : State.Sound F (withDomain d serve s) := by
  unfold withDomain
  try dsimp only
  repeat' (first
      | with_reducible assumption | with_reducible apply markWork_sound | with_reducible apply wakeDomain_sound
      | with_reducible apply h_serve | (with_reducible refine ite_sound ?_ ?_) | split)

theorem wakeAll_sound {F : Kept} (ds : List DomainId) (s : State) (hs : s.Sound F) : State.Sound F
    (wakeAll ds s).2 := by
  unfold wakeAll
  try dsimp only
  repeat' (first
      | with_reducible assumption | (with_reducible intro _) | with_reducible apply markWork_sound
      | with_reducible apply wakeDomain_sound | (with_reducible apply foldl_sound)
      | (with_reducible apply foldl_pair_sound) | (with_reducible apply foldl_trip_sound)
      | (with_reducible refine ite_sound ?_ ?_) | (with_reducible refine ite_pair_sound ?_ ?_)
      | (with_reducible refine ite_trip_sound ?_ ?_) | split | (dsimp only))

theorem withDomains_sound {F : Kept} (ds : List DomainId) (serve : State → State) (s : State) (hs : s.Sound F)
    (h_serve : ∀ s : State, s.Sound F → (serve s).Sound F) : State.Sound F (withDomains ds serve s) := by
  unfold withDomains
  try dsimp only
  repeat' (first
      | with_reducible assumption | with_reducible apply wakeAll_sound | with_reducible apply h_serve
      | (with_reducible refine ite_pair_sound ?_ ?_) | (with_reducible refine ite_trip_sound ?_ ?_) | split
      | (refine sound_of_pair (by with_reducible assumption) ?_)
      | (refine sound_of_trip (by with_reducible assumption) ?_)
      | (with_reducible refine sound_upd ?_ rfl rfl rfl rfl rfl rfl rfl rfl) | (dsimp only))

theorem resetCulverts_sound {F : Kept} (d : DomainId) (contextOf : CulvertEntry → Option CtxId) (s : State)
    (hs : s.Sound F) : State.Sound F (resetCulverts d contextOf s) := by
  unfold resetCulverts
  try dsimp only
  repeat' (first
      | with_reducible assumption | with_reducible apply setCulvert_sound | (with_reducible apply id_sound)
      | (with_reducible refine sound_upd ?_ rfl rfl rfl rfl rfl rfl rfl rfl))

end Sys2Proof.Machine
end

