-- ==== Sys2Proof/Laws/SoundKeys.lean ====
section
/-! SUPPORT. What the operations of Machine/Keys.lean keep: memories in canonical form, registers in range, blown
fuses and bounded fault rings (State.Sound). -/

namespace Sys2Proof.Machine

theorem setPvt_sound {F : Kept} (e : PvtEntry) (s : State) (hs : s.Sound F) : State.Sound F (setPvt e s) := by
  unfold setPvt
  try dsimp only
  repeat' (first
      | with_reducible assumption | (with_reducible intro _)
      | (with_reducible refine sound_upd ?_ rfl rfl rfl rfl rfl rfl rfl rfl))

theorem invalidateHandle_sound {F : Kept} (h : BitVec 13) (s : State) (hs : s.Sound F) : State.Sound F
    (invalidateHandle h s) := by
  unfold invalidateHandle
  try dsimp only
  repeat' (first
      | with_reducible assumption | with_reducible apply setPvt_sound | (with_reducible refine ite_sound ?_ ?_)
      | split | (with_reducible refine sound_upd ?_ rfl rfl rfl rfl rfl rfl rfl rfl))

theorem setSlot_sound {F : Kept} (k : KeySlot) (s : State) (hs : s.Sound F) : State.Sound F (setSlot k s) := by
  unfold setSlot
  try dsimp only
  repeat' (first
      | with_reducible assumption | (with_reducible intro _)
      | (with_reducible refine sound_upd ?_ rfl rfl rfl rfl rfl rfl rfl rfl))

theorem writeSlot_sound {F : Kept} (k : KeySlot) (s : State) (hs : s.Sound F) : State.Sound F (writeSlot k s) := by
  unfold writeSlot
  try dsimp only
  repeat' (first
      | with_reducible assumption | with_reducible apply setSlot_sound
      | (with_reducible refine sound_upd ?_ rfl rfl rfl rfl rfl rfl rfl rfl))

theorem dropPrefixes_sound {F : Kept} (gone : KeySource → Bool) (s : State) (hs : s.Sound F) : State.Sound F
    (dropPrefixes gone s) := by
  unfold dropPrefixes
  try dsimp only
  repeat' (first
      | with_reducible assumption | (with_reducible intro _)
      | (with_reducible refine sound_upd ?_ rfl rfl rfl rfl rfl rfl rfl rfl))

theorem zeroizeSlot_sound {F : Kept} (k : KeySlot) (state : SlotState) (s : State) (hs : s.Sound F) : State.Sound F
    (zeroizeSlot k state s) := by
  unfold zeroizeSlot
  try dsimp only
  repeat' (first
      | with_reducible assumption | (with_reducible intro _) | with_reducible apply dropPrefixes_sound
      | with_reducible apply setSlot_sound | (with_reducible refine sound_upd ?_ rfl rfl rfl rfl rfl rfl rfl rfl))

theorem refuseJob_sound {F : Kept} (mode : Nat) (aad : Nat) (text : Nat) (p : Option PolderId) (s : State)
    (hs : s.Sound F) : State.Sound F (refuseJob mode aad text p s) := by
  unfold refuseJob
  try dsimp only
  repeat' (first | with_reducible assumption | with_reducible apply writeFault_sound | split)

theorem traceJob_sound {F : Kept} (ended : Bool) (second : Bool) (j : KcuJob) (s : State) (hs : s.Sound F) :
    State.Sound F (traceJob ended second j s) := by
  unfold traceJob
  try dsimp only
  repeat' (first | with_reducible assumption | with_reducible apply emitTrace_sound | split)

theorem abandonJobs_sound {F : Kept} (p : PolderId) (s : State) (hs : s.Sound F) : State.Sound F
    (abandonJobs p s) := by
  unfold abandonJobs
  try dsimp only
  repeat' (first
      | with_reducible assumption | (with_reducible intro _) | split
      | (with_reducible refine sound_upd ?_ rfl rfl rfl rfl rfl rfl rfl rfl))

theorem markSlotBad_sound {F : Kept} (k : KeySlot) (kind : BitVec 8) (s : State) (hs : s.Sound F) : State.Sound F
    (markSlotBad k kind s) := by
  unfold markSlotBad
  try dsimp only
  repeat' (first
      | with_reducible assumption | (with_reducible intro _) | with_reducible apply abandonJobs_sound
      | with_reducible apply modPolder_sound | with_reducible apply writeFault_sound
      | with_reducible apply zeroizeSlot_sound
      | (with_reducible refine sound_upd ?_ rfl rfl rfl rfl rfl rfl rfl rfl))

theorem startJob_sound {F : Kept} (second : Bool) (s : State) (hs : s.Sound F) : State.Sound F
    (startJob second s) := by
  unfold startJob
  try dsimp only
  repeat' (first
      | with_reducible assumption | with_reducible apply markSlotBad_sound | with_reducible apply markWork_sound
      | with_reducible apply traceJob_sound | (with_reducible refine ite_sound ?_ ?_) | split
      | (with_reducible refine sound_upd ?_ rfl rfl rfl rfl rfl rfl rfl rfl))

theorem dispatchJobs_sound {F : Kept} (s : State) (hs : s.Sound F) : State.Sound F (dispatchJobs s) := by
  unfold dispatchJobs
  try dsimp only
  repeat' (first
      | with_reducible assumption | with_reducible apply startJob_sound | with_reducible apply wakeDomain_sound
      | (with_reducible refine ite_sound ?_ ?_) | split)

theorem addJob_sound {F : Kept} (cls : Nat) (work : KcuWork) (p : Option PolderId) (s : State) (hs : s.Sound F) :
    State.Sound F (addJob cls work p s) := by
  unfold addJob
  try dsimp only
  repeat' (first
      | with_reducible assumption | with_reducible apply dispatchJobs_sound | with_reducible apply refuseJob_sound
      | (with_reducible refine ite_sound ?_ ?_) | split
      | (with_reducible refine sound_upd ?_ rfl rfl rfl rfl rfl rfl rfl rfl))

theorem traceInline_sound {F : Kept} (j : InlineJob) (p : Option PolderId) (s : State) (hs : s.Sound F) :
    State.Sound F (traceInline j p s) := by
  unfold traceInline
  try dsimp only
  repeat' (first
      | with_reducible assumption | (with_reducible intro _) | with_reducible apply emitTrace_sound
      | with_reducible apply markWork_sound | (with_reducible refine ite_sound ?_ ?_) | split
      | (with_reducible refine sound_upd ?_ rfl rfl rfl rfl rfl rfl rfl rfl))

theorem inlineJob_sound {F : Kept} (j : InlineJob) (p : Option PolderId) (s : State) (hs : s.Sound F) :
    State.Sound F (inlineJob j p s).2 := by
  unfold inlineJob
  try dsimp only
  repeat' (first
      | with_reducible assumption | with_reducible apply refuseJob_sound | with_reducible apply traceInline_sound
      | (with_reducible refine ite_sound ?_ ?_) | (with_reducible refine ite_pair_sound ?_ ?_)
      | (with_reducible refine ite_trip_sound ?_ ?_) | split | (dsimp only))

theorem inlineJobs_sound {F : Kept} (p : Option PolderId) (l : List InlineJob) (s : State) (hs : s.Sound F) :
    State.Sound F (inlineJobs p l s).2 := by
  unfold inlineJobs
  try dsimp only
  repeat' (first
      | with_reducible assumption | (with_reducible intro _) | with_reducible apply inlineJob_sound
      | (with_reducible apply foldl_sound) | (with_reducible apply foldl_pair_sound)
      | (with_reducible apply foldl_trip_sound) | (with_reducible refine ite_sound ?_ ?_)
      | (with_reducible refine ite_pair_sound ?_ ?_) | (with_reducible refine ite_trip_sound ?_ ?_) | split
      | (dsimp only))

theorem needJob_sound {F : Kept} (cls : Nat) (work : KcuWork) (p : Option PolderId) (s : State) (hs : s.Sound F) :
    State.Sound F (needJob cls work p s) := by
  unfold needJob
  try dsimp only
  repeat' (first
      | with_reducible assumption | (with_reducible intro _) | with_reducible apply addJob_sound
      | (with_reducible refine ite_sound ?_ ?_) | split
      | (with_reducible refine sound_upd ?_ rfl rfl rfl rfl rfl rfl rfl rfl))

theorem instantiate_sound {F : Kept} (s : State) (hs : s.Sound F) : State.Sound F (instantiate s) := by
  unfold instantiate
  try dsimp only
  repeat' (first
      | with_reducible assumption | with_reducible apply tookFree_sound
      | (with_reducible refine sound_upd ?_ rfl rfl rfl rfl rfl rfl rfl rfl))

theorem reseed_sound {F : Kept} (s : State) (hs : s.Sound F) : State.Sound F (reseed s) := by
  unfold reseed
  try dsimp only
  repeat' (first
      | with_reducible assumption | with_reducible apply tookFree_sound
      | (with_reducible refine sound_upd ?_ rfl rfl rfl rfl rfl rfl rfl rfl))

theorem reseedIfDue_sound {F : Kept} (s : State) (hs : s.Sound F) : State.Sound F (reseedIfDue s) := by
  unfold reseedIfDue
  try dsimp only
  repeat' (first
      | with_reducible assumption | with_reducible apply reseed_sound | (with_reducible refine ite_sound ?_ ?_)
      | split)

theorem drbgDraw_sound {F : Kept} (n : Nat) (s : State) (hs : s.Sound F) : State.Sound F (drbgDraw n s) := by
  unfold drbgDraw
  try dsimp only
  repeat' (first
      | with_reducible assumption | with_reducible apply inlineJob_sound | with_reducible apply needJob_sound
      | with_reducible apply reseedIfDue_sound | (with_reducible refine ite_sound ?_ ?_)
      | (with_reducible refine ite_pair_sound ?_ ?_) | (with_reducible refine ite_trip_sound ?_ ?_) | split
      | (with_reducible refine sound_upd ?_ rfl rfl rfl rfl rfl rfl rfl rfl) | (dsimp only))

theorem takeSlot_sound {F : Kept} (i : BitVec 8) (p : PolderId) (s : State) (hs : s.Sound F) : State.Sound F
    (takeSlot i p s) := by
  unfold takeSlot
  try dsimp only
  repeat' (first
      | with_reducible assumption | (with_reducible intro _) | with_reducible apply addJob_sound
      | with_reducible apply count_sound | with_reducible apply writeSlot_sound | split
      | (with_reducible refine sound_upd ?_ rfl rfl rfl rfl rfl rfl rfl rfl))

theorem findSlotFor_sound {F : Kept} (p : PolderId) (s : State) (hs : s.Sound F) : State.Sound F
    (findSlotFor p s) := by
  unfold findSlotFor
  try dsimp only
  repeat' (first
      | with_reducible assumption | (with_reducible intro _) | with_reducible apply setSlot_sound
      | with_reducible apply takeSlot_sound | (with_reducible refine ite_sound ?_ ?_) | split
      | (with_reducible refine sound_upd ?_ rfl rfl rfl rfl rfl rfl rfl rfl))

theorem retryLoads_sound {F : Kept} (s : State) (hs : s.Sound F) : State.Sound F (retryLoads s) := by
  unfold retryLoads
  try dsimp only
  repeat' (first
      | with_reducible assumption | (with_reducible intro _) | with_reducible apply findSlotFor_sound
      | (with_reducible apply foldl_sound) | (dsimp only))

theorem beginLoad_sound {F : Kept} (p : PolderId) (kind : BitVec 8) (s : State) (hs : s.Sound F) : State.Sound F
    (beginLoad p kind s) := by
  unfold beginLoad
  try dsimp only
  repeat' (first
      | with_reducible assumption | (with_reducible intro _) | with_reducible apply findSlotFor_sound
      | (with_reducible refine ite_sound ?_ ?_) | split
      | (with_reducible refine sound_upd ?_ rfl rfl rfl rfl rfl rfl rfl rfl))

theorem noSlotRecord_sound {F : Kept} (p : PolderId) (s : State) (hs : s.Sound F) : State.Sound F
    (noSlotRecord p s) := by
  unfold noSlotRecord
  try dsimp only
  repeat' (first | with_reducible assumption | with_reducible apply writeFault_sound)

theorem readKey_sound {F : Kept} (k : KeySlot) (kind : BitVec 8) (s : State) (hs : s.Sound F) : State.Sound F
    (readKey k kind s).2 := by
  unfold readKey
  try dsimp only
  repeat' (first
      | with_reducible assumption | with_reducible apply markSlotBad_sound | with_reducible apply setSlot_sound
      | (with_reducible refine ite_sound ?_ ?_) | (with_reducible refine ite_pair_sound ?_ ?_)
      | (with_reducible refine ite_trip_sound ?_ ?_) | split
      | (with_reducible refine sound_upd ?_ rfl rfl rfl rfl rfl rfl rfl rfl) | (dsimp only))

theorem needKey_sound {F : Kept} (p : PolderId) (kind : BitVec 8) (s : State) (hs : s.Sound F) : State.Sound F
    (needKey p kind s).2 := by
  unfold needKey
  try dsimp only
  repeat' (first
      | with_reducible assumption | with_reducible apply beginLoad_sound | with_reducible apply needJob_sound
      | with_reducible apply noSlotRecord_sound | with_reducible apply readKey_sound
      | (with_reducible refine ite_sound ?_ ?_) | (with_reducible refine ite_pair_sound ?_ ?_)
      | (with_reducible refine ite_trip_sound ?_ ?_) | split
      | (refine sound_of_pair (by with_reducible assumption) ?_)
      | (refine sound_of_trip (by with_reducible assumption) ?_)
      | (with_reducible refine sound_upd ?_ rfl rfl rfl rfl rfl rfl rfl rfl) | (dsimp only))

theorem failLoad_sound {F : Kept} (q : Polder) (kind : BitVec 8) (f : DeedFail) (s : State) (hs : s.Sound F) :
    State.Sound F (failLoad q kind f s) := by
  unfold failLoad
  try dsimp only
  repeat' (first
      | with_reducible assumption | (with_reducible intro _) | with_reducible apply abandonJobs_sound
      | with_reducible apply modPolder_sound | with_reducible apply retryLoads_sound
      | with_reducible apply writeFault_sound | with_reducible apply zeroizeSlot_sound | split
      | (with_reducible refine sound_upd ?_ rfl rfl rfl rfl rfl rfl rfl rfl))

theorem closeDebugFor_sound {F : Kept} (conf : Bool) (s : State) (hs : s.Sound F) : State.Sound F
    (closeDebugFor conf s) := by
  unfold closeDebugFor
  try dsimp only
  repeat' (first
      | with_reducible assumption | with_reducible apply emit_sound | (with_reducible refine ite_sound ?_ ?_)
      | split | (with_reducible refine sound_upd ?_ rfl rfl rfl rfl rfl rfl rfl rfl))

theorem pmkLoaded_sound {F : Kept} (q : Polder) (key : Bytes) (s : State) (hs : s.Sound F) : State.Sound F
    (pmkLoaded q key s) := by
  unfold pmkLoaded
  try dsimp only
  repeat' (first
      | with_reducible assumption | (with_reducible intro _) | with_reducible apply closeDebugFor_sound
      | with_reducible apply needJob_sound | with_reducible apply writeSlot_sound
      | (with_reducible apply foldl_sound) | split
      | (with_reducible refine sound_upd ?_ rfl rfl rfl rfl rfl rfl rfl rfl) | (dsimp only))

theorem keyLoaded_sound {F : Kept} (q : Polder) (kind : BitVec 8) (key : Bytes) (s : State) (hs : s.Sound F) :
    State.Sound F (keyLoaded q kind key s) := by
  unfold keyLoaded
  try dsimp only
  repeat' (first
      | with_reducible assumption | with_reducible apply writeSlot_sound | split
      | (with_reducible refine sound_upd ?_ rfl rfl rfl rfl rfl rfl rfl rfl))

end Sys2Proof.Machine
end

