-- ==== Sys2Proof/Laws/SoundLink.lean ====
section
/-! SUPPORT. What the operations of Machine/Link.lean keep: memories in canonical form, registers in range, blown
fuses and bounded fault rings (State.Sound). -/

namespace Sys2Proof.Machine

theorem sendNotice_sound {F : Kept} (h : Header) (s : State) (hs : s.Sound F) : State.Sound F (sendNotice h s) := by
  unfold sendNotice
  try dsimp only
  repeat' (first | with_reducible assumption | with_reducible apply emit_sound | with_reducible apply tookFree_sound)

theorem setTx_sound {F : Kept} (t : TxStream) (s : State) (hs : s.Sound F) : State.Sound F (setTx t s) := by
  unfold setTx
  try dsimp only
  repeat' (first | with_reducible assumption | (with_reducible refine sound_upd ?_ rfl rfl rfl rfl rfl rfl rfl rfl))

theorem streamExhausted_sound {F : Kept} (p : PolderId) (d : Dest) (sid : BitVec 16) (s : State) (hs : s.Sound F) :
    State.Sound F (streamExhausted p d sid s) := by
  unfold streamExhausted
  try dsimp only
  repeat' (first
      | with_reducible assumption | with_reducible apply writeFault_sound | (with_reducible refine ite_sound ?_ ?_)
      | split)

theorem openTx_sound {F : Kept} (p : PolderId) (d : Dest) (cls : BitVec 4) (lane : Nat) (s : State)
    (hs : s.Sound F) : State.Sound F (openTx p d cls lane s).2 := by
  unfold openTx
  try dsimp only
  repeat' (first
      | with_reducible assumption | with_reducible apply streamExhausted_sound
      | with_reducible apply writeFault_sound | (with_reducible refine ite_sound ?_ ?_)
      | (with_reducible refine ite_pair_sound ?_ ?_) | (with_reducible refine ite_trip_sound ?_ ?_) | split
      | (with_reducible refine sound_upd ?_ rfl rfl rfl rfl rfl rfl rfl rfl) | (dsimp only))

theorem noteSent_sound {F : Kept} (owner : TxOwner) (t : TxStream) (s : State) (hs : s.Sound F) : State.Sound F
    (noteSent owner t s) := by
  unfold noteSent
  try dsimp only
  repeat' (first
      | with_reducible assumption | (with_reducible intro _) | (with_reducible apply id_sound) | split
      | (with_reducible refine sound_upd ?_ rfl rfl rfl rfl rfl rfl rfl rfl))

theorem takeSeq_sound {F : Kept} (p : PolderId) (d : Dest) (s : State) (hs : s.Sound F) : State.Sound F
    (takeSeq p d s) := by
  unfold takeSeq
  try dsimp only
  repeat' (first
      | with_reducible assumption | (with_reducible intro _)
      | (with_reducible refine sound_upd ?_ rfl rfl rfl rfl rfl rfl rfl rfl))

theorem askNext_sound {F : Kept} (r : StreamRef) (p : PolderId) (epoch : BitVec 32) (s : State) (hs : s.Sound F) :
    State.Sound F (askNext r p epoch s).2 := by
  unfold askNext
  try dsimp only
  repeat' (first
      | with_reducible assumption | with_reducible apply needJob_sound | with_reducible apply needKey_sound
      | (with_reducible refine ite_pair_sound ?_ ?_) | (with_reducible refine ite_trip_sound ?_ ?_) | split
      | (refine sound_of_pair (by with_reducible assumption) ?_)
      | (refine sound_of_trip (by with_reducible assumption) ?_)
      | (with_reducible refine sound_upd ?_ rfl rfl rfl rfl rfl rfl rfl rfl) | (dsimp only))

theorem sealPacket_sound {F : Kept} (t : TxStream) (slice : BitVec 8) (key : Key256) (k : TxPacket) (s : State)
    (hs : s.Sound F) : State.Sound F (sealPacket t slice key k s) := by
  unfold sealPacket
  try dsimp only
  repeat' (first
      | with_reducible assumption | with_reducible apply askNext_sound | with_reducible apply count_sound
      | with_reducible apply countBy_sound | with_reducible apply emit_sound | with_reducible apply emitTrace_sound
      | with_reducible apply meter_sound | with_reducible apply noteSent_sound | with_reducible apply setTx_sound
      | with_reducible apply tookFree_sound | (with_reducible refine ite_sound ?_ ?_)
      | (with_reducible refine ite_pair_sound ?_ ?_) | (with_reducible refine ite_trip_sound ?_ ?_) | split
      | (with_reducible refine sound_upd ?_ rfl rfl rfl rfl rfl rfl rfl rfl) | (dsimp only))

theorem requestTx_sound {F : Kept} (t : TxStream) (s : State) (hs : s.Sound F) : State.Sound F (requestTx t s) := by
  unfold requestTx
  try dsimp only
  repeat' (first
      | with_reducible assumption | with_reducible apply needJob_sound | with_reducible apply needKey_sound
      | with_reducible apply setTx_sound | (with_reducible refine ite_sound ?_ ?_)
      | (with_reducible refine ite_pair_sound ?_ ?_) | (with_reducible refine ite_trip_sound ?_ ?_) | split
      | (refine sound_of_pair (by with_reducible assumption) ?_)
      | (refine sound_of_trip (by with_reducible assumption) ?_)
      | (with_reducible refine sound_upd ?_ rfl rfl rfl rfl rfl rfl rfl rfl) | (dsimp only))

theorem pumpTx_sound {F : Kept} (p : PolderId) (d : Dest) (cls : BitVec 4) (lane : Nat) (a0 : Nat) (a1 : State)
    (hs : a1.Sound F) : State.Sound F (pumpTx p d cls lane a0 a1) := by
  induction a0 generalizing a1 with
  | zero => 
    unfold pumpTx
    try dsimp only
    repeat' (first
        | with_reducible assumption | (with_reducible intro _) | with_reducible apply requestTx_sound
        | with_reducible apply sealPacket_sound | with_reducible apply wakeAll_sound
        | (with_reducible refine ite_sound ?_ ?_) | (with_reducible refine ite_pair_sound ?_ ?_)
        | (with_reducible refine ite_trip_sound ?_ ?_) | split
        | (refine sound_of_pair (by with_reducible assumption) ?_)
        | (refine sound_of_trip (by with_reducible assumption) ?_)
        | (with_reducible refine sound_upd ?_ rfl rfl rfl rfl rfl rfl rfl rfl) | (dsimp only))
  | succ n ih => 
    unfold pumpTx
    try dsimp only
    repeat' (first
        | with_reducible assumption | (with_reducible intro _) | with_reducible apply requestTx_sound
        | with_reducible apply sealPacket_sound | with_reducible apply wakeAll_sound | with_reducible apply ih
        | (with_reducible refine ite_sound ?_ ?_) | (with_reducible refine ite_pair_sound ?_ ?_)
        | (with_reducible refine ite_trip_sound ?_ ?_) | split
        | (refine sound_of_pair (by with_reducible assumption) ?_)
        | (refine sound_of_trip (by with_reducible assumption) ?_)
        | (with_reducible refine sound_upd ?_ rfl rfl rfl rfl rfl rfl rfl rfl) | (dsimp only))

theorem streamFor_sound {F : Kept} (k : TxPacket) (s : State) (hs : s.Sound F) : State.Sound F (streamFor k s).2 := by
  unfold streamFor
  try dsimp only
  repeat' (first
      | with_reducible assumption | with_reducible apply needKey_sound | with_reducible apply openTx_sound
      | with_reducible apply streamExhausted_sound | (with_reducible refine ite_sound ?_ ?_)
      | (with_reducible refine ite_pair_sound ?_ ?_) | (with_reducible refine ite_trip_sound ?_ ?_) | split
      | (refine sound_of_pair (by with_reducible assumption) ?_)
      | (refine sound_of_trip (by with_reducible assumption) ?_)
      | (with_reducible refine sound_upd ?_ rfl rfl rfl rfl rfl rfl rfl rfl) | (dsimp only))

theorem sendPacket_sound {F : Kept} (k : TxPacket) (s : State) (hs : s.Sound F) : State.Sound F
    (sendPacket k s).2 := by
  unfold sendPacket
  try dsimp only
  repeat' (first
      | with_reducible assumption | with_reducible apply count_sound | with_reducible apply pumpTx_sound
      | with_reducible apply streamFor_sound | (with_reducible refine ite_sound ?_ ?_)
      | (with_reducible refine ite_pair_sound ?_ ?_) | (with_reducible refine ite_trip_sound ?_ ?_) | split
      | (refine sound_of_pair (by with_reducible assumption) ?_)
      | (refine sound_of_trip (by with_reducible assumption) ?_)
      | (with_reducible refine sound_upd ?_ rfl rfl rfl rfl rfl rfl rfl rfl) | (dsimp only))

theorem sendQuietly_sound {F : Kept} (k : TxPacket) (s : State) (hs : s.Sound F) : State.Sound F
    (sendQuietly k s) := by
  unfold sendQuietly
  try dsimp only
  repeat' (first
      | with_reducible assumption | with_reducible apply sendPacket_sound
      | (with_reducible refine ite_pair_sound ?_ ?_) | (with_reducible refine ite_trip_sound ?_ ?_) | (dsimp only))

theorem sendCompletion_sound {F : Kept} (r : Released) (st : Status) (flags : BitVec 6) (data : Bytes) (s : State)
    (hs : s.Sound F) : State.Sound F (sendCompletion r st flags data s) := by
  unfold sendCompletion
  try dsimp only
  repeat' (first | with_reducible assumption | with_reducible apply sendQuietly_sound | split)

theorem setRx_sound {F : Kept} (r : RxStream) (s : State) (hs : s.Sound F) : State.Sound F (setRx r s) := by
  unfold setRx
  try dsimp only
  repeat' (first
      | with_reducible assumption | (with_reducible intro _)
      | (with_reducible refine sound_upd ?_ rfl rfl rfl rfl rfl rfl rfl rfl))

theorem countPort_sound {F : Kept} (malformed : Bool) (port : BitVec 8) (s : State) (hs : s.Sound F) : State.Sound F
    (countPort malformed port s) := by
  unfold countPort
  try dsimp only
  repeat' (first
      | with_reducible assumption | (with_reducible refine ite_sound ?_ ?_) | split
      | (with_reducible refine sound_upd ?_ rfl rfl rfl rfl rfl rfl rfl rfl))

theorem authRecord_sound {F : Kept} (port : BitVec 8) (h : Header) (folded : BitVec 32) (s : State)
    (hs : s.Sound F) : State.Sound F (authRecord port h folded s) := by
  unfold authRecord
  try dsimp only
  repeat' (first | with_reducible assumption | with_reducible apply writeFault_sound)

theorem authFailExisting_sound {F : Kept} (port : BitVec 8) (h : Header) (r : RxStream) (s : State)
    (hs : s.Sound F) : State.Sound F (authFailExisting port h r s) := by
  unfold authFailExisting
  try dsimp only
  repeat' (first
      | with_reducible assumption | with_reducible apply authRecord_sound | with_reducible apply setRx_sound
      | (with_reducible refine ite_sound ?_ ?_) | split
      | (with_reducible refine sound_upd ?_ rfl rfl rfl rfl rfl rfl rfl rfl))

theorem authFailNew_sound {F : Kept} (port : BitVec 8) (h : Header) (q : Polder) (s : State) (hs : s.Sound F) :
    State.Sound F (authFailNew port h q s) := by
  unfold authFailNew
  try dsimp only
  repeat' (first
      | with_reducible assumption | (with_reducible intro _) | with_reducible apply authRecord_sound
      | with_reducible apply modPolderCounters_sound | (with_reducible refine ite_sound ?_ ?_) | split
      | (with_reducible refine sound_upd ?_ rfl rfl rfl rfl rfl rfl rfl rfl))

theorem release_sound {F : Kept} (port : BitVec 8) (h : Header) (inner : Inner) (payload : Bytes) (s : State)
    (hs : s.Sound F) : State.Sound F (release port h inner payload s) := by
  unfold release
  try dsimp only
  repeat' (first
      | with_reducible assumption | with_reducible apply count_sound | with_reducible apply countBy_sound
      | with_reducible apply emitTrace_sound | with_reducible apply meter_sound | with_reducible apply setRx_sound
      | (with_reducible refine ite_sound ?_ ?_) | split
      | (with_reducible refine sound_upd ?_ rfl rfl rfl rfl rfl rfl rfl rfl))

theorem dropGone_sound {F : Kept} (h : Header) (q : Polder) (s : State) (hs : s.Sound F) : State.Sound F
    (dropGone h q s) := by
  unfold dropGone
  try dsimp only
  repeat' (first
      | with_reducible assumption | (with_reducible intro _) | with_reducible apply modPolderCounters_sound
      | with_reducible apply sendNotice_sound
      | (with_reducible refine sound_upd ?_ rfl rfl rfl rfl rfl rfl rfl rfl))

theorem dropKeyless_sound {F : Kept} (h : Header) (q : Polder) (s : State) (hs : s.Sound F) : State.Sound F
    (dropKeyless h q s) := by
  unfold dropKeyless
  try dsimp only
  repeat' (first
      | with_reducible assumption | (with_reducible intro _) | with_reducible apply dropGone_sound
      | with_reducible apply modPolderCounters_sound | (with_reducible refine ite_sound ?_ ?_) | split
      | (with_reducible refine sound_upd ?_ rfl rfl rfl rfl rfl rfl rfl rfl))

theorem afterTag_sound {F : Kept} (port : BitVec 8) (b : Bytes) (h : Header) (q : Polder) (r : RxStream)
    (key : Key256) (s : State) (hs : s.Sound F) : State.Sound F (afterTag port b h q r key s) := by
  unfold afterTag
  try dsimp only
  repeat' (first
      | with_reducible assumption | (with_reducible intro _) | with_reducible apply askNext_sound
      | with_reducible apply dropGone_sound | with_reducible apply modPolderCounters_sound
      | with_reducible apply release_sound | with_reducible apply sendCompletion_sound
      | with_reducible apply setRx_sound | with_reducible apply writeFault_sound
      | (with_reducible refine ite_sound ?_ ?_) | (with_reducible refine ite_pair_sound ?_ ?_)
      | (with_reducible refine ite_trip_sound ?_ ?_) | split
      | (refine sound_of_pair (by with_reducible assumption) ?_)
      | (refine sound_of_trip (by with_reducible assumption) ?_)
      | (with_reducible refine sound_upd ?_ rfl rfl rfl rfl rfl rfl rfl rfl) | (dsimp only))

theorem receiveExisting_sound {F : Kept} (port : BitVec 8) (b : Bytes) (h : Header) (q : Polder) (r : RxStream)
    (s : State) (hs : s.Sound F) : State.Sound F (receiveExisting port b h q r s) := by
  unfold receiveExisting
  try dsimp only
  repeat' (first
      | with_reducible assumption | with_reducible apply afterTag_sound
      | with_reducible apply authFailExisting_sound | with_reducible apply dropKeyless_sound
      | with_reducible apply needJob_sound | with_reducible apply needKey_sound | with_reducible apply setRx_sound
      | (with_reducible refine ite_sound ?_ ?_) | (with_reducible refine ite_pair_sound ?_ ?_)
      | (with_reducible refine ite_trip_sound ?_ ?_) | split
      | (refine sound_of_pair (by with_reducible assumption) ?_)
      | (refine sound_of_trip (by with_reducible assumption) ?_)
      | (with_reducible refine sound_upd ?_ rfl rfl rfl rfl rfl rfl rfl rfl) | (dsimp only))

theorem receiveNew_sound {F : Kept} (port : BitVec 8) (b : Bytes) (h : Header) (q : Polder) (derived : Bool)
    (s : State) (hs : s.Sound F) : State.Sound F (receiveNew port b h q derived s) := by
  unfold receiveNew
  try dsimp only
  repeat' (first
      | with_reducible assumption | (with_reducible intro _) | with_reducible apply afterTag_sound
      | with_reducible apply authFailNew_sound | with_reducible apply dropKeyless_sound
      | with_reducible apply modPolderCounters_sound | with_reducible apply needJob_sound
      | with_reducible apply needKey_sound | with_reducible apply writeFault_sound
      | (with_reducible refine ite_sound ?_ ?_) | (with_reducible refine ite_pair_sound ?_ ?_)
      | (with_reducible refine ite_trip_sound ?_ ?_) | split
      | (refine sound_of_pair (by with_reducible assumption) ?_)
      | (refine sound_of_trip (by with_reducible assumption) ?_)
      | (with_reducible refine sound_upd ?_ rfl rfl rfl rfl rfl rfl rfl rfl) | (dsimp only))

theorem receiveCached_sound {F : Kept} (port : BitVec 8) (b : Bytes) (derived : Bool) (s : State) (hs : s.Sound F) :
    State.Sound F (receiveCached port b derived s) := by
  unfold receiveCached
  try dsimp only
  repeat' (first
      | with_reducible assumption | with_reducible apply countPort_sound
      | with_reducible apply receiveExisting_sound | with_reducible apply receiveNew_sound
      | with_reducible apply sendNotice_sound | split
      | (with_reducible refine sound_upd ?_ rfl rfl rfl rfl rfl rfl rfl rfl))

theorem receivePacket_sound {F : Kept} (port : BitVec 8) (b : Bytes) (s : State) (hs : s.Sound F) : State.Sound F
    (receivePacket port b s) := by
  unfold receivePacket
  try dsimp only
  repeat' (first
      | with_reducible assumption | (with_reducible intro _) | with_reducible apply count_sound
      | with_reducible apply countPort_sound | with_reducible apply modPolderCounters_sound
      | with_reducible apply receiveCached_sound | with_reducible apply sendNotice_sound
      | (with_reducible refine ite_sound ?_ ?_) | split
      | (with_reducible refine sound_upd ?_ rfl rfl rfl rfl rfl rfl rfl rfl))

theorem retryRx_sound {F : Kept} (r : StreamRef) (derived : Bool) (s : State) (hs : s.Sound F) : State.Sound F
    (retryRx r derived s) := by
  unfold retryRx
  try dsimp only
  repeat' (first
      | with_reducible assumption | (with_reducible intro _) | with_reducible apply receiveCached_sound
      | with_reducible apply withDomain_sound | (with_reducible apply foldl_sound)
      | (with_reducible refine ite_sound ?_ ?_) | split
      | (with_reducible refine sound_upd ?_ rfl rfl rfl rfl rfl rfl rfl rfl) | (dsimp only))

theorem arrivePacket_sound {F : Kept} (port : BitVec 8) (b : Bytes) (s : State) (hs : s.Sound F) : State.Sound F
    (arrivePacket port b s) := by
  unfold arrivePacket
  try dsimp only
  repeat' (first
      | with_reducible assumption | (with_reducible intro _) | with_reducible apply receivePacket_sound
      | (with_reducible refine ite_sound ?_ ?_) | split
      | (with_reducible refine sound_upd ?_ rfl rfl rfl rfl rfl rfl rfl rfl))

theorem pumpRxPort_sound {F : Kept} (port : BitVec 8) (a0 : Nat) (a1 : State) (hs : a1.Sound F) : State.Sound F
    (pumpRxPort port a0 a1) := by
  induction a0 generalizing a1 with
  | zero => 
    unfold pumpRxPort
    try dsimp only
    repeat' (first
        | with_reducible assumption | (with_reducible intro _) | with_reducible apply receivePacket_sound
        | (with_reducible refine ite_sound ?_ ?_) | (with_reducible refine ite_pair_sound ?_ ?_)
        | (with_reducible refine ite_trip_sound ?_ ?_) | split
        | (refine sound_of_pair (by with_reducible assumption) ?_)
        | (refine sound_of_trip (by with_reducible assumption) ?_)
        | (with_reducible refine sound_upd ?_ rfl rfl rfl rfl rfl rfl rfl rfl) | (dsimp only))
  | succ n ih => 
    unfold pumpRxPort
    try dsimp only
    repeat' (first
        | with_reducible assumption | (with_reducible intro _) | with_reducible apply receivePacket_sound
        | with_reducible apply ih | (with_reducible refine ite_sound ?_ ?_)
        | (with_reducible refine ite_pair_sound ?_ ?_) | (with_reducible refine ite_trip_sound ?_ ?_) | split
        | (refine sound_of_pair (by with_reducible assumption) ?_)
        | (refine sound_of_trip (by with_reducible assumption) ?_)
        | (with_reducible refine sound_upd ?_ rfl rfl rfl rfl rfl rfl rfl rfl) | (dsimp only))

theorem pumpRxPorts_sound {F : Kept} (s : State) (hs : s.Sound F) : State.Sound F (pumpRxPorts s) := by
  unfold pumpRxPorts
  try dsimp only
  repeat' (first
      | with_reducible assumption | (with_reducible intro _) | with_reducible apply pumpRxPort_sound
      | (with_reducible apply foldl_sound) | (with_reducible apply foldl_pair_sound)
      | (with_reducible apply foldl_trip_sound) | (with_reducible refine ite_pair_sound ?_ ?_)
      | (with_reducible refine ite_trip_sound ?_ ?_) | (dsimp only))

end Sys2Proof.Machine
end

