-- ==== Sys2Proof/Laws/SoundSluices.lean ====
section
/-! SUPPORT. What the operations of Machine/Sluices.lean keep: memories in canonical form, registers in range, blown
fuses and bounded fault rings (State.Sound). -/

namespace Sys2Proof.Machine

theorem modSession_sound {F : Kept} (id : BitVec 32) (f : Session → Session) (s : State) (hs : s.Sound F) :
    State.Sound F (modSession id f s) := by
  unfold modSession
  try dsimp only
  repeat' (first
      | with_reducible assumption | (with_reducible intro _)
      | (with_reducible refine sound_upd ?_ rfl rfl rfl rfl rfl rfl rfl rfl))

theorem setMailbox_sound {F : Kept} (m : Mailbox) (s : State) (hs : s.Sound F) : State.Sound F (setMailbox m s) := by
  unfold setMailbox
  try dsimp only
  repeat' (first
      | with_reducible assumption | (with_reducible intro _)
      | (with_reducible refine sound_upd ?_ rfl rfl rfl rfl rfl rfl rfl rfl))

theorem writeResponse_sound {F : Kept} (fn : FnId) (b : Bytes) (s : State) (hs : s.Sound F) : State.Sound F
    (writeResponse fn b s) := by
  unfold writeResponse
  try dsimp only
  repeat' (first
      | with_reducible assumption | with_reducible apply setMailbox_sound
      | (with_reducible refine sound_upd ?_ rfl rfl rfl rfl rfl rfl rfl rfl)
      | (with_reducible refine stackWriteN_upd ?_ rfl rfl rfl rfl rfl rfl rfl rfl)
      | (with_reducible refine devicesWriteN_upd ?_ rfl rfl rfl rfl rfl rfl rfl rfl))

theorem modSpdm_sound {F : Kept} (f : Spdm → Spdm) (s : State) (hs : s.Sound F) : State.Sound F (modSpdm f s) := by
  unfold modSpdm
  try dsimp only
  repeat' (first | with_reducible assumption | (with_reducible refine sound_upd ?_ rfl rfl rfl rfl rfl rfl rfl rfl))

theorem chunkAnswer_sound {F : Kept} (sl : Sluice) (a : SpdmAnswer) (s : State) (hs : s.Sound F) : State.Sound F
    (chunkAnswer sl a s).2 := by
  unfold chunkAnswer
  try dsimp only
  repeat' (first
      | with_reducible assumption | (with_reducible intro _) | with_reducible apply modSpdm_sound
      | (with_reducible refine ite_sound ?_ ?_) | (with_reducible refine ite_pair_sound ?_ ?_)
      | (with_reducible refine ite_trip_sound ?_ ?_) | split
      | (with_reducible refine sound_upd ?_ rfl rfl rfl rfl rfl rfl rfl rfl) | (dsimp only))

theorem answerAs_sound {F : Kept} (outer : Byte) (kind : Byte) (o : Origin) (tag : BitVec 32) (opcode : BitVec 16)
    (st : Status) (payload : Bytes) (s : State) (hs : s.Sound F) : State.Sound F
    (answerAs outer kind o tag opcode st payload s) := by
  unfold answerAs
  try dsimp only
  repeat' (first
      | with_reducible assumption | (with_reducible intro _) | with_reducible apply chunkAnswer_sound
      | with_reducible apply emit_sound | with_reducible apply inlineJob_sound
      | with_reducible apply modSession_sound | with_reducible apply writeResponse_sound
      | (with_reducible refine ite_sound ?_ ?_) | (with_reducible refine ite_pair_sound ?_ ?_)
      | (with_reducible refine ite_trip_sound ?_ ?_) | split
      | (refine sound_of_pair (by with_reducible assumption) ?_)
      | (refine sound_of_trip (by with_reducible assumption) ?_)
      | (with_reducible refine sound_upd ?_ rfl rfl rfl rfl rfl rfl rfl rfl) | (dsimp only))

theorem reply_sound {F : Kept} (o : Origin) (tag : BitVec 32) (opcode : BitVec 16) (st : Status) (payload : Bytes)
    (s : State) (hs : s.Sound F) : State.Sound F (reply o tag opcode st payload s) := by
  unfold reply
  try dsimp only
  repeat' (first | with_reducible assumption | with_reducible apply answerAs_sound)

theorem refuse_sound {F : Kept} (o : Origin) (tag : BitVec 32) (opcode : BitVec 16) (st : Status) (s : State)
    (hs : s.Sound F) : State.Sound F (refuse o tag opcode st s) := by
  unfold refuse
  try dsimp only
  repeat' (first | with_reducible assumption | with_reducible apply reply_sound)

theorem pend_sound {F : Kept} (o : Origin) (tag : BitVec 32) (opcode : BitVec 16) (s : State) (hs : s.Sound F) :
    State.Sound F (pend o tag opcode s) := by
  unfold pend
  try dsimp only
  repeat' (first
      | with_reducible assumption | with_reducible apply refuse_sound
      | (with_reducible refine sound_upd ?_ rfl rfl rfl rfl rfl rfl rfl rfl))

theorem finish_sound {F : Kept} (o : Origin) (tag : BitVec 32) (st : Status) (payload : Bytes) (s : State)
    (hs : s.Sound F) : State.Sound F (finish o tag st payload s) := by
  unfold finish
  try dsimp only
  repeat' (first
      | with_reducible assumption | (with_reducible intro _) | with_reducible apply postEvent_sound
      | (with_reducible refine ite_sound ?_ ?_) | split
      | (with_reducible refine sound_upd ?_ rfl rfl rfl rfl rfl rfl rfl rfl))

theorem finishAll_sound {F : Kept} (l : List (Origin × BitVec 32)) (st : Status) (s : State) (hs : s.Sound F) :
    State.Sound F (finishAll l st s) := by
  unfold finishAll
  try dsimp only
  repeat' (first
      | with_reducible assumption | (with_reducible intro _) | with_reducible apply finish_sound
      | (with_reducible apply foldl_sound) | (dsimp only))

theorem runCmdIn_sound {F : Kept} (ci : CmdInfo) (o : Origin) (tag : BitVec 32) (denied : Bool) (malformed : Bool)
    (scopeBlock : Bool) (own : State → Option Status) (effect : State → State) (s : State) (hs : s.Sound F)
    (h_effect : ∀ s : State, s.Sound F → (effect s).Sound F) : State.Sound F
    (runCmdIn ci o tag denied malformed scopeBlock own effect s) := by
  unfold runCmdIn
  try dsimp only
  repeat' (first
      | with_reducible assumption | with_reducible apply refuse_sound | with_reducible apply h_effect
      | (with_reducible refine ite_sound ?_ ?_) | split
      | (with_reducible refine sound_upd ?_ rfl rfl rfl rfl rfl rfl rfl rfl))

theorem runCmd_sound {F : Kept} (ci : CmdInfo) (o : Origin) (tag : BitVec 32) (denied : Bool) (malformed : Bool)
    (own : State → Option Status) (effect : State → State) (s : State) (hs : s.Sound F)
    (h_effect : ∀ s : State, s.Sound F → (effect s).Sound F) : State.Sound F
    (runCmd ci o tag denied malformed own effect s) := by
  unfold runCmd
  try dsimp only
  repeat' (first
      | with_reducible assumption | (with_reducible intro _) | with_reducible apply runCmdIn_sound
      | with_reducible apply h_effect)

end Sys2Proof.Machine
end

