-- ==== Sys2Proof/Laws/SoundObjects.lean ====
section
/-! SUPPORT. What the operations of Machine/Objects.lean keep: memories in canonical form, registers in range, blown
fuses and bounded fault rings (State.Sound). -/

namespace Sys2Proof.Machine

theorem profReset_sound {F : Kept} (n : BitVec 6) (s : State) (hs : s.Sound F) : State.Sound F (profReset n s) := by
  unfold profReset
  try dsimp only
  repeat' (first
      | with_reducible assumption | (with_reducible intro _) | (with_reducible refine ite_sound ?_ ?_) | split
      | (with_reducible refine sound_upd ?_ rfl rfl rfl rfl rfl rfl rfl rfl))

theorem profResetQueue_sound {F : Kept} (q : BitVec 8) (scope : Bool) (s : State) (hs : s.Sound F) : State.Sound F
    (profResetQueue q scope s) := by
  unfold profResetQueue
  try dsimp only
  repeat' (first
      | with_reducible assumption | (with_reducible intro _) | with_reducible apply profReset_sound
      | (with_reducible apply foldl_sound) | (dsimp only))

theorem profAdd_sound {F : Kept} (q : BitVec 8) (bytes : Nat) (ops : Nat) (s : State) (hs : s.Sound F) :
    State.Sound F (profAdd q bytes ops s) := by
  unfold profAdd
  try dsimp only
  repeat' (first
      | with_reducible assumption | (with_reducible intro _)
      | (with_reducible refine sound_upd ?_ rfl rfl rfl rfl rfl rfl rfl rfl))

theorem settleQueue_sound {F : Kept} (q : BitVec 8) (s : State) (hs : s.Sound F) : State.Sound F
    (settleQueue q s) := by
  unfold settleQueue
  try dsimp only
  repeat' (first
      | with_reducible assumption | (with_reducible intro _) | with_reducible apply finishAll_sound
      | (with_reducible refine ite_sound ?_ ?_) | split
      | (with_reducible refine sound_upd ?_ rfl rfl rfl rfl rfl rfl rfl rfl))

theorem endDescriptor_sound {F : Kept} (q : BitVec 8) (idx : BitVec 12) (st : Status) (result : BitVec 64)
    (flags : BitVec 6) (s : State) (hs : s.Sound F) : State.Sound F (endDescriptor q idx st result flags s) := by
  unfold endDescriptor
  try dsimp only
  repeat' (first
      | with_reducible assumption | (with_reducible intro _) | with_reducible apply emitTrace_sound
      | with_reducible apply modQueue_sound | with_reducible apply postEvent_sound
      | with_reducible apply settleQueue_sound | split
      | (with_reducible refine sound_upd ?_ rfl rfl rfl rfl rfl rfl rfl rfl))

theorem endUnstarted_sound {F : Kept} (x : Queue) (idx : BitVec 12) (ctag : BitVec 16) (st : Status) (s : State)
    (hs : s.Sound F) : State.Sound F (endUnstarted x idx ctag st s) := by
  unfold endUnstarted
  try dsimp only
  repeat' (first | with_reducible assumption | with_reducible apply postEvent_sound)

theorem beginDescriptor_sound {F : Kept} (q : BitVec 8) (idx : BitVec 12) (s : State) (hs : s.Sound F) :
    State.Sound F (beginDescriptor q idx s) := by
  unfold beginDescriptor
  try dsimp only
  repeat' (first
      | with_reducible assumption | (with_reducible intro _) | with_reducible apply modQueue_sound
      | (with_reducible refine ite_sound ?_ ?_) | split
      | (with_reducible refine sound_upd ?_ rfl rfl rfl rfl rfl rfl rfl rfl))

theorem modFence_sound {F : Kept} (f : BitVec 14) (g : FenceObj → FenceObj) (s : State) (hs : s.Sound F) :
    State.Sound F (modFence f g s) := by
  unfold modFence
  try dsimp only
  repeat' (first
      | with_reducible assumption | (with_reducible intro _)
      | (with_reducible refine sound_upd ?_ rfl rfl rfl rfl rfl rfl rfl rfl))

theorem raiseFence_sound {F : Kept} (f : BitVec 14) (v : BitVec 64) (s : State) (hs : s.Sound F) : State.Sound F
    (raiseFence f v s) := by
  unfold raiseFence
  try dsimp only
  repeat' (first
      | with_reducible assumption | (with_reducible intro _) | with_reducible apply endDescriptor_sound
      | with_reducible apply modFence_sound | (with_reducible apply foldl_sound) | split
      | (with_reducible refine sound_upd ?_ rfl rfl rfl rfl rfl rfl rfl rfl) | (dsimp only))

theorem abandonFence_sound {F : Kept} (f : BitVec 14) (s : State) (hs : s.Sound F) : State.Sound F
    (abandonFence f s) := by
  unfold abandonFence
  try dsimp only
  repeat' (first
      | with_reducible assumption | (with_reducible intro _) | with_reducible apply endDescriptor_sound
      | with_reducible apply postEvent_sound | (with_reducible apply foldl_sound) | split
      | (with_reducible refine sound_upd ?_ rfl rfl rfl rfl rfl rfl rfl rfl) | (dsimp only))

theorem dropShares_sound {F : Kept} (c : CtxId) (s : State) (hs : s.Sound F) : State.Sound F (dropShares c s) := by
  unfold dropShares
  try dsimp only
  repeat' (first
      | with_reducible assumption | (with_reducible intro _) | with_reducible apply endDescriptor_sound
      | with_reducible apply modFence_sound | (with_reducible apply foldl_sound)
      | (with_reducible refine ite_sound ?_ ?_) | split
      | (with_reducible refine sound_upd ?_ rfl rfl rfl rfl rfl rfl rfl rfl) | (dsimp only))

theorem scaAnswer_sound {F : Kept} (core : BitVec 9) (st : Status) (v : BitVec 32) (s : State) (hs : s.Sound F) :
    State.Sound F (scaAnswer core st v s) := by
  unfold scaAnswer
  try dsimp only
  repeat' (first | with_reducible assumption | with_reducible apply emit_sound)

theorem answerWait_sound {F : Kept} (before : State) (w : SyncWait) (st : Status) (v : BitVec 32) (s : State)
    (hs : before.Sound F) (hs1 : s.Sound F) : State.Sound F (answerWait before w st v s) := by
  unfold answerWait
  try dsimp only
  repeat' (first
      | with_reducible assumption | with_reducible apply scaAnswer_sound | (with_reducible refine ite_sound ?_ ?_)
      | split | (with_reducible refine sound_upd ?_ rfl rfl rfl rfl rfl rfl rfl rfl))

theorem endWaits_sound {F : Kept} (c : Context) (s : State) (hs : s.Sound F) : State.Sound F (endWaits c s) := by
  unfold endWaits
  try dsimp only
  repeat' (first
      | with_reducible assumption | (with_reducible intro _) | with_reducible apply answerWait_sound
      | (with_reducible apply foldl_sound) | split
      | (with_reducible refine sound_upd ?_ rfl rfl rfl rfl rfl rfl rfl rfl) | (dsimp only))

theorem stopContext_sound {F : Kept} (c : CtxId) (s : State) (hs : s.Sound F) : State.Sound F (stopContext c s) := by
  unfold stopContext
  try dsimp only
  repeat' (first
      | with_reducible assumption | (with_reducible intro _) | with_reducible apply endWaits_sound
      | with_reducible apply modContext_sound | (with_reducible refine ite_sound ?_ ?_) | split
      | (with_reducible refine sound_upd ?_ rfl rfl rfl rfl rfl rfl rfl rfl))

theorem setSync_sound {F : Kept} (core : BitVec 9) (i : BitVec 6) (v : BitVec 32) (s : State) (hs : s.Sound F) :
    State.Sound F (setSync core i v s) := by
  unfold setSync
  try dsimp only
  repeat' (first
      | with_reducible assumption | (with_reducible refine ite_sound ?_ ?_) | split
      | (with_reducible refine sound_upd ?_ rfl rfl rfl rfl rfl rfl rfl rfl))

theorem zeroSync_sound {F : Kept} (cores : BitVec 512) (s : State) (hs : s.Sound F) : State.Sound F
    (zeroSync cores s) := by
  unfold zeroSync
  try dsimp only
  repeat' (first
      | with_reducible assumption | (with_reducible intro _)
      | (with_reducible refine sound_upd ?_ rfl rfl rfl rfl rfl rfl rfl rfl))

theorem examineWaits_sound {F : Kept} (core : BitVec 9) (i : BitVec 6) (a0 : Nat) (a1 : Nat) (a2 : State)
    (hs : a2.Sound F) : State.Sound F (examineWaits core i a0 a1 a2) := by
  induction a0 generalizing a1 a2 with
  | zero => 
    unfold examineWaits
    try dsimp only
    repeat' (first
        | with_reducible assumption | (with_reducible intro _) | with_reducible apply answerWait_sound
        | with_reducible apply setSync_sound | (with_reducible refine ite_sound ?_ ?_)
        | (with_reducible refine ite_pair_sound ?_ ?_) | (with_reducible refine ite_trip_sound ?_ ?_) | split
        | (refine sound_of_pair (by with_reducible assumption) ?_)
        | (refine sound_of_trip (by with_reducible assumption) ?_)
        | (with_reducible refine sound_upd ?_ rfl rfl rfl rfl rfl rfl rfl rfl) | (dsimp only))
  | succ n ih => 
    unfold examineWaits
    try dsimp only
    repeat' (first
        | with_reducible assumption | (with_reducible intro _) | with_reducible apply answerWait_sound
        | with_reducible apply setSync_sound | with_reducible apply ih | (with_reducible refine ite_sound ?_ ?_)
        | (with_reducible refine ite_pair_sound ?_ ?_) | (with_reducible refine ite_trip_sound ?_ ?_) | split
        | (refine sound_of_pair (by with_reducible assumption) ?_)
        | (refine sound_of_trip (by with_reducible assumption) ?_)
        | (with_reducible refine sound_upd ?_ rfl rfl rfl rfl rfl rfl rfl rfl) | (dsimp only))

theorem changeSync_sound {F : Kept} (core : BitVec 9) (i : BitVec 6) (v : BitVec 32) (s : State) (hs : s.Sound F) :
    State.Sound F (changeSync core i v s) := by
  unfold changeSync
  try dsimp only
  repeat' (first
      | with_reducible assumption | with_reducible apply examineWaits_sound | with_reducible apply setSync_sound
      | (with_reducible refine ite_pair_sound ?_ ?_) | (with_reducible refine ite_trip_sound ?_ ?_) | (dsimp only))

theorem syncFault_sound {F : Kept} (core : BitVec 9) (i : BitVec 6) (operand : BitVec 32) (st : Status)
    (peer : Option InstId) (seq : BitVec 32) (s : State) (hs : s.Sound F) : State.Sound F
    (syncFault core i operand st peer seq s) := by
  unfold syncFault
  try dsimp only
  repeat' (first
      | with_reducible assumption | with_reducible apply stopContext_sound | with_reducible apply writeFault_sound
      | split | (with_reducible refine sound_upd ?_ rfl rfl rfl rfl rfl rfl rfl rfl))

end Sys2Proof.Machine
end

