-- ==== Sys2Proof/Laws/SoundStack.lean ====
section
/-! SUPPORT. What the operations of Machine/Stack.lean keep: memories in canonical form, registers in range, blown
fuses and bounded fault rings (State.Sound). -/

namespace Sys2Proof.Machine

theorem setPlot_sound {F : Kept} (p : BitVec 16) (e : BitVec 64) (s : State) (hs : s.Sound F) : State.Sound F
    (setPlot p e s) := by
  unfold setPlot
  try dsimp only
  repeat' (first
      | with_reducible assumption | (with_reducible refine ite_sound ?_ ?_) | split
      | (with_reducible refine sound_upd ?_ rfl rfl rfl rfl rfl rfl rfl rfl))

theorem stackWrite_sound {F : Kept} (key : Key512) (addr : Nat) (b : Bytes) (s : State) (hs : s.Sound F) :
    State.Sound F (stackWrite key addr b s) := by
  unfold stackWrite
  try dsimp only
  repeat' (first
      | with_reducible assumption | (with_reducible intro _)
      | (with_reducible refine sound_upd ?_ rfl rfl rfl rfl rfl rfl rfl rfl)
      | (with_reducible refine stackWriteN_upd ?_ rfl rfl rfl rfl rfl rfl rfl rfl)
      | (with_reducible refine devicesWriteN_upd ?_ rfl rfl rfl rfl rfl rfl rfl rfl))

theorem stackAnswer_sound {F : Kept} (r : StackReq) (st : Status) (data : Bytes) (s : State) (hs : s.Sound F) :
    State.Sound F (stackAnswer r st data s) := by
  unfold stackAnswer
  try dsimp only
  repeat' (first | with_reducible assumption | with_reducible apply emit_sound)

theorem stackRefuse_sound {F : Kept} (r : StackReq) (check : Nat) (st : Status) (s : State) (hs : s.Sound F) :
    State.Sound F (stackRefuse r check st s) := by
  unfold stackRefuse
  try dsimp only
  repeat' (first
      | with_reducible assumption | with_reducible apply stackAnswer_sound | with_reducible apply writeFault_sound
      | (with_reducible refine ite_sound ?_ ?_) | split
      | (with_reducible refine sound_upd ?_ rfl rfl rfl rfl rfl rfl rfl rfl))

theorem keepCopy_sound {F : Kept} (slice : Nat) (p : PolderId) (s : State) (hs : s.Sound F) : State.Sound F
    (keepCopy slice p s) := by
  unfold keepCopy
  try dsimp only
  repeat' (first | with_reducible assumption | (with_reducible refine sound_upd ?_ rfl rfl rfl rfl rfl rfl rfl rfl))

theorem reloadCopies_sound {F : Kept} (slice : Nat) (s : State) (hs : s.Sound F) : State.Sound F
    (reloadCopies slice s) := by
  unfold reloadCopies
  try dsimp only
  repeat' (first
      | with_reducible assumption | (with_reducible intro _) | with_reducible apply keepCopy_sound
      | with_reducible apply markSlotBad_sound | (with_reducible apply foldl_sound)
      | (with_reducible refine ite_sound ?_ ?_) | split | (dsimp only))

theorem dropCopies_sound {F : Kept} (slice : Nat) (s : State) (hs : s.Sound F) : State.Sound F
    (dropCopies slice s) := by
  unfold dropCopies
  try dsimp only
  repeat' (first
      | with_reducible assumption | (with_reducible intro _)
      | (with_reducible refine sound_upd ?_ rfl rfl rfl rfl rfl rfl rfl rfl))

theorem performWrite_sound {F : Kept} (w : StackWait) (stored : Bytes) (s : State) (hs : s.Sound F) : State.Sound F
    (performWrite w stored s) := by
  unfold performWrite
  try dsimp only
  repeat' (first
      | with_reducible assumption | (with_reducible intro _) | with_reducible apply count_sound
      | with_reducible apply countBy_sound | with_reducible apply meter_sound
      | with_reducible apply stackAnswer_sound | with_reducible apply stackWrite_sound
      | (with_reducible apply foldl_sound) | (with_reducible refine ite_sound ?_ ?_) | split
      | (with_reducible refine sound_upd ?_ rfl rfl rfl rfl rfl rfl rfl rfl) | (dsimp only))

theorem stackCount_sound {F : Kept} (p : PolderId) (addr : Nat) (len : Nat) (write : Bool) (s : State)
    (hs : s.Sound F) : State.Sound F (stackCount p addr len write s) := by
  unfold stackCount
  try dsimp only
  repeat' (first
      | with_reducible assumption | (with_reducible intro _) | with_reducible apply count_sound
      | with_reducible apply countBy_sound | with_reducible apply meter_sound | (with_reducible apply foldl_sound)
      | (with_reducible refine ite_sound ?_ ?_) | split | (dsimp only))

theorem stackPerform_sound {F : Kept} (w : StackWait) (s : State) (hs : s.Sound F) : State.Sound F
    (stackPerform w s) := by
  unfold stackPerform
  try dsimp only
  repeat' (first
      | with_reducible assumption | with_reducible apply count_sound | with_reducible apply keepCopy_sound
      | with_reducible apply performWrite_sound | (with_reducible refine ite_sound ?_ ?_) | split
      | (with_reducible refine sound_upd ?_ rfl rfl rfl rfl rfl rfl rfl rfl))

theorem holdAccess_sound {F : Kept} (w : StackWait) (s : State) (hs : s.Sound F) : State.Sound F
    (holdAccess w s) := by
  unfold holdAccess
  try dsimp only
  repeat' (first | with_reducible assumption | (with_reducible refine sound_upd ?_ rfl rfl rfl rfl rfl rfl rfl rfl))

theorem pathHolds_sound {F : Kept} (w : StackWait) (s : State) (hs : s.Sound F) : State.Sound F
    (pathHolds w s).2 := by
  unfold pathHolds
  try dsimp only
  repeat' (first
      | with_reducible assumption | with_reducible apply wakeAll_sound
      | (with_reducible refine ite_pair_sound ?_ ?_) | (with_reducible refine ite_trip_sound ?_ ?_) | split
      | (refine sound_of_pair (by with_reducible assumption) ?_)
      | (refine sound_of_trip (by with_reducible assumption) ?_)
      | (with_reducible refine sound_upd ?_ rfl rfl rfl rfl rfl rfl rfl rfl) | (dsimp only))

theorem stackProceed_sound {F : Kept} (w : StackWait) (s : State) (hs : s.Sound F) : State.Sound F
    (stackProceed w s) := by
  unfold stackProceed
  try dsimp only
  repeat' (first
      | with_reducible assumption | with_reducible apply count_sound | with_reducible apply holdAccess_sound
      | with_reducible apply needKey_sound | with_reducible apply pathHolds_sound
      | with_reducible apply stackAnswer_sound | with_reducible apply stackPerform_sound
      | (with_reducible refine ite_sound ?_ ?_) | (with_reducible refine ite_pair_sound ?_ ?_)
      | (with_reducible refine ite_trip_sound ?_ ?_) | split
      | (refine sound_of_pair (by with_reducible assumption) ?_)
      | (refine sound_of_trip (by with_reducible assumption) ?_)
      | (with_reducible refine sound_upd ?_ rfl rfl rfl rfl rfl rfl rfl rfl) | (dsimp only))

theorem wakeSlices_sound {F : Kept} (l : List Lookup) (s : State) (hs : s.Sound F) : State.Sound F
    (wakeSlices l s).2 := by
  unfold wakeSlices
  try dsimp only
  repeat' (first
      | with_reducible assumption | (with_reducible intro _) | with_reducible apply wakeAll_sound
      | (with_reducible refine ite_pair_sound ?_ ?_) | (with_reducible refine ite_trip_sound ?_ ?_) | split
      | (refine sound_of_pair (by with_reducible assumption) ?_)
      | (refine sound_of_trip (by with_reducible assumption) ?_)
      | (with_reducible refine sound_upd ?_ rfl rfl rfl rfl rfl rfl rfl rfl) | (dsimp only))

theorem rangeUse_sound {F : Kept} (p : PolderId) (write : Bool) (l : List Lookup) (s : State) (hs : s.Sound F) :
    State.Sound F (rangeUse p write l s).2 := by
  unfold rangeUse
  try dsimp only
  repeat' (first
      | with_reducible assumption | (with_reducible intro _) | with_reducible apply needKey_sound
      | with_reducible apply wakeSlices_sound | (with_reducible refine ite_sound ?_ ?_)
      | (with_reducible refine ite_pair_sound ?_ ?_) | (with_reducible refine ite_trip_sound ?_ ?_) | split
      | (refine sound_of_pair (by with_reducible assumption) ?_)
      | (refine sound_of_trip (by with_reducible assumption) ?_)
      | (with_reducible refine sound_upd ?_ rfl rfl rfl rfl rfl rfl rfl rfl) | (dsimp only))

theorem releaseHeld_sound {F : Kept} (u : Nat) (a0 : Nat) (a1 : State) (hs : a1.Sound F) : State.Sound F
    (releaseHeld u a0 a1) := by
  induction a0 generalizing a1 with
  | zero => 
    unfold releaseHeld
    try dsimp only
    repeat' (first
        | with_reducible assumption | (with_reducible intro _) | with_reducible apply pathHolds_sound
        | with_reducible apply stackProceed_sound | (with_reducible refine ite_sound ?_ ?_)
        | (with_reducible refine ite_pair_sound ?_ ?_) | (with_reducible refine ite_trip_sound ?_ ?_) | split
        | (refine sound_of_pair (by with_reducible assumption) ?_)
        | (refine sound_of_trip (by with_reducible assumption) ?_)
        | (with_reducible refine sound_upd ?_ rfl rfl rfl rfl rfl rfl rfl rfl) | (dsimp only))
  | succ n ih => 
    unfold releaseHeld
    try dsimp only
    repeat' (first
        | with_reducible assumption | (with_reducible intro _) | with_reducible apply pathHolds_sound
        | with_reducible apply stackProceed_sound | with_reducible apply ih
        | (with_reducible refine ite_sound ?_ ?_) | (with_reducible refine ite_pair_sound ?_ ?_)
        | (with_reducible refine ite_trip_sound ?_ ?_) | split
        | (refine sound_of_pair (by with_reducible assumption) ?_)
        | (refine sound_of_trip (by with_reducible assumption) ?_)
        | (with_reducible refine sound_upd ?_ rfl rfl rfl rfl rfl rfl rfl rfl) | (dsimp only))

theorem resumeHeld_sound {F : Kept} (s : State) (hs : s.Sound F) : State.Sound F (resumeHeld s) := by
  unfold resumeHeld
  try dsimp only
  repeat' (first
      | with_reducible assumption | (with_reducible intro _) | with_reducible apply releaseHeld_sound
      | (with_reducible apply foldl_sound) | (with_reducible apply foldl_pair_sound)
      | (with_reducible apply foldl_trip_sound) | (with_reducible refine ite_pair_sound ?_ ?_)
      | (with_reducible refine ite_trip_sound ?_ ?_) | (dsimp only))

theorem stackStart_sound {F : Kept} (w : StackWait) (s : State) (hs : s.Sound F) : State.Sound F
    (stackStart w s) := by
  unfold stackStart
  try dsimp only
  repeat' (first
      | with_reducible assumption | (with_reducible intro _) | with_reducible apply holdAccess_sound
      | with_reducible apply stackProceed_sound | (with_reducible refine ite_sound ?_ ?_) | split
      | (with_reducible refine sound_upd ?_ rfl rfl rfl rfl rfl rfl rfl rfl))

theorem restart_sound {F : Kept} (ws : List StackWait) (s : State) (hs : s.Sound F) : State.Sound F
    (restart ws s) := by
  unfold restart
  try dsimp only
  repeat' (first
      | with_reducible assumption | (with_reducible intro _) | with_reducible apply releaseHeld_sound
      | with_reducible apply stackStart_sound | (with_reducible apply foldl_sound)
      | (with_reducible apply foldl_pair_sound) | (with_reducible apply foldl_trip_sound)
      | (with_reducible refine ite_pair_sound ?_ ?_) | (with_reducible refine ite_trip_sound ?_ ?_) | (dsimp only))

theorem retryFillWait_sound {F : Kept} (plot : BitVec 16) (s : State) (hs : s.Sound F) : State.Sound F
    (retryFillWait plot s) := by
  unfold retryFillWait
  try dsimp only
  repeat' (first
      | with_reducible assumption | (with_reducible intro _) | with_reducible apply restart_sound
      | (with_reducible refine sound_upd ?_ rfl rfl rfl rfl rfl rfl rfl rfl))

theorem retryKeyWait_sound {F : Kept} (p : PolderId) (s : State) (hs : s.Sound F) : State.Sound F
    (retryKeyWait p s) := by
  unfold retryKeyWait
  try dsimp only
  repeat' (first
      | with_reducible assumption | (with_reducible intro _) | with_reducible apply restart_sound
      | (with_reducible refine sound_upd ?_ rfl rfl rfl rfl rfl rfl rfl rfl))

theorem takeAccess_sound {F : Kept} (r : StackReq) (s : State) (hs : s.Sound F) : State.Sound F (takeAccess r s) := by
  unfold takeAccess
  try dsimp only
  repeat' (first
      | with_reducible assumption | with_reducible apply stackRefuse_sound | with_reducible apply stackStart_sound
      | split | (with_reducible refine sound_upd ?_ rfl rfl rfl rfl rfl rfl rfl rfl))

theorem arriveStack_sound {F : Kept} (r : StackReq) (s : State) (hs : s.Sound F) : State.Sound F
    (arriveStack r s) := by
  unfold arriveStack
  try dsimp only
  repeat' (first
      | with_reducible assumption | (with_reducible intro _) | with_reducible apply takeAccess_sound
      | with_reducible apply wakeDomain_sound | (with_reducible refine ite_sound ?_ ?_) | split
      | (with_reducible refine sound_upd ?_ rfl rfl rfl rfl rfl rfl rfl rfl))

theorem pumpPort_sound {F : Kept} (slice : Nat) (a0 : Nat) (a1 : State) (hs : a1.Sound F) : State.Sound F
    (pumpPort slice a0 a1) := by
  induction a0 generalizing a1 with
  | zero => 
    unfold pumpPort
    try dsimp only
    repeat' (first
        | with_reducible assumption | (with_reducible intro _) | with_reducible apply takeAccess_sound
        | (with_reducible refine ite_sound ?_ ?_) | (with_reducible refine ite_pair_sound ?_ ?_)
        | (with_reducible refine ite_trip_sound ?_ ?_) | split
        | (refine sound_of_pair (by with_reducible assumption) ?_)
        | (refine sound_of_trip (by with_reducible assumption) ?_)
        | (with_reducible refine sound_upd ?_ rfl rfl rfl rfl rfl rfl rfl rfl) | (dsimp only))
  | succ n ih => 
    unfold pumpPort
    try dsimp only
    repeat' (first
        | with_reducible assumption | (with_reducible intro _) | with_reducible apply takeAccess_sound
        | with_reducible apply ih | (with_reducible refine ite_sound ?_ ?_)
        | (with_reducible refine ite_pair_sound ?_ ?_) | (with_reducible refine ite_trip_sound ?_ ?_) | split
        | (refine sound_of_pair (by with_reducible assumption) ?_)
        | (refine sound_of_trip (by with_reducible assumption) ?_)
        | (with_reducible refine sound_upd ?_ rfl rfl rfl rfl rfl rfl rfl rfl) | (dsimp only))

theorem pumpPorts_sound {F : Kept} (s : State) (hs : s.Sound F) : State.Sound F (pumpPorts s) := by
  unfold pumpPorts
  try dsimp only
  repeat' (first
      | with_reducible assumption | (with_reducible intro _) | with_reducible apply pumpPort_sound
      | (with_reducible apply foldl_sound) | (with_reducible apply foldl_pair_sound)
      | (with_reducible apply foldl_trip_sound) | (with_reducible refine ite_pair_sound ?_ ?_)
      | (with_reducible refine ite_trip_sound ?_ ?_) | (dsimp only))

theorem endStackAccesses_sound {F : Kept} (p : PolderId) (st : Status) (s : State) (hs : s.Sound F) : State.Sound F
    (endStackAccesses p st s) := by
  unfold endStackAccesses
  try dsimp only
  repeat' (first
      | with_reducible assumption | (with_reducible intro _) | with_reducible apply stackAnswer_sound
      | (with_reducible apply foldl_sound) | split
      | (with_reducible refine sound_upd ?_ rfl rfl rfl rfl rfl rfl rfl rfl) | (dsimp only))

theorem finishRead_sound {F : Kept} (w : StackWait) (data : Bytes) (s : State) (hs : s.Sound F) : State.Sound F
    (finishRead w data s) := by
  unfold finishRead
  try dsimp only
  repeat' (first
      | with_reducible assumption | with_reducible apply count_sound | with_reducible apply countBy_sound
      | with_reducible apply meter_sound | with_reducible apply performWrite_sound
      | with_reducible apply stackAnswer_sound | (with_reducible refine ite_sound ?_ ?_) | split
      | (with_reducible refine sound_upd ?_ rfl rfl rfl rfl rfl rfl rfl rfl)
      | (with_reducible refine stackWriteN_upd ?_ rfl rfl rfl rfl rfl rfl rfl rfl)
      | (with_reducible refine devicesWriteN_upd ?_ rfl rfl rfl rfl rfl rfl rfl rfl))

theorem stackReturn_sound {F : Kept} (w : StackWait) (data : Bytes) (uncorrectable : Bool) (s : State)
    (hs : s.Sound F) : State.Sound F (stackReturn w data uncorrectable s) := by
  unfold stackReturn
  try dsimp only
  repeat' (first
      | with_reducible assumption | with_reducible apply count_sound | with_reducible apply finishRead_sound
      | with_reducible apply needKey_sound | with_reducible apply releaseHeld_sound
      | with_reducible apply stackAnswer_sound | with_reducible apply writeFault_sound
      | (with_reducible refine ite_sound ?_ ?_) | (with_reducible refine ite_pair_sound ?_ ?_)
      | (with_reducible refine ite_trip_sound ?_ ?_) | split
      | (refine sound_of_pair (by with_reducible assumption) ?_)
      | (refine sound_of_trip (by with_reducible assumption) ?_)
      | (with_reducible refine sound_upd ?_ rfl rfl rfl rfl rfl rfl rfl rfl) | (dsimp only))

theorem modMemobj_sound {F : Kept} (m : BitVec 13) (f : MemObj → MemObj) (s : State) (hs : s.Sound F) :
    State.Sound F (modMemobj m f s) := by
  unfold modMemobj
  try dsimp only
  repeat' (first
      | with_reducible assumption | (with_reducible intro _)
      | (with_reducible refine sound_upd ?_ rfl rfl rfl rfl rfl rfl rfl rfl))

theorem dropPlot_sound {F : Kept} (plot : BitVec 16) (s : State) (hs : s.Sound F) : State.Sound F
    (dropPlot plot s) := by
  unfold dropPlot
  try dsimp only
  repeat' (first
      | with_reducible assumption | (with_reducible intro _)
      | (with_reducible refine sound_upd ?_ rfl rfl rfl rfl rfl rfl rfl rfl))

theorem failPlotWaits_sound {F : Kept} (plot : BitVec 16) (f : Nat × Status) (s : State) (hs : s.Sound F) :
    State.Sound F (failPlotWaits plot f s) := by
  unfold failPlotWaits
  try dsimp only
  repeat' (first
      | with_reducible assumption | (with_reducible intro _)
      | (with_reducible refine sound_upd ?_ rfl rfl rfl rfl rfl rfl rfl rfl))

theorem endFillWait_sound {F : Kept} (plot : BitVec 16) (check : Option Nat) (st : Status) (s : State)
    (hs : s.Sound F) : State.Sound F (endFillWait plot check st s) := by
  unfold endFillWait
  try dsimp only
  repeat' (first
      | with_reducible assumption | (with_reducible intro _) | with_reducible apply failPlotWaits_sound
      | with_reducible apply stackAnswer_sound | with_reducible apply stackRefuse_sound
      | (with_reducible apply foldl_sound) | split
      | (with_reducible refine sound_upd ?_ rfl rfl rfl rfl rfl rfl rfl rfl) | (dsimp only))

theorem undoFill_sound {F : Kept} (f : Fill) (st : Status) (slot : Byte) (s : State) (hs : s.Sound F) :
    State.Sound F (undoFill f st slot s) := by
  unfold undoFill
  try dsimp only
  repeat' (first
      | with_reducible assumption | (with_reducible intro _) | with_reducible apply dropPlot_sound
      | with_reducible apply endFillWait_sound | with_reducible apply setPlot_sound
      | with_reducible apply writeFault_sound
      | (with_reducible refine sound_upd ?_ rfl rfl rfl rfl rfl rfl rfl rfl))

theorem zeroFill_sound {F : Kept} (plot : BitVec 16) (units : Nat) (key : Key512) (s : State) (hs : s.Sound F) :
    State.Sound F (zeroFill plot units key s) := by
  unfold zeroFill
  try dsimp only
  repeat' (first
      | with_reducible assumption | (with_reducible intro _)
      | (with_reducible refine sound_upd ?_ rfl rfl rfl rfl rfl rfl rfl rfl)
      | (with_reducible refine stackFill_upd ?_ rfl rfl rfl rfl rfl rfl rfl rfl))

theorem finishFill_sound {F : Kept} (f : Fill) (s : State) (hs : s.Sound F) : State.Sound F (finishFill f s) := by
  unfold finishFill
  try dsimp only
  repeat' (first
      | with_reducible assumption | (with_reducible intro _) | with_reducible apply meter_sound
      | with_reducible apply retryFillWait_sound | with_reducible apply setPlot_sound
      | with_reducible apply zeroFill_sound | (with_reducible refine sound_upd ?_ rfl rfl rfl rfl rfl rfl rfl rfl))

theorem startRelease_sound {F : Kept} (plot : BitVec 16) (waiters : List (Origin × BitVec 32)) (s : State)
    (hs : s.Sound F) : State.Sound F (startRelease plot waiters s) := by
  unfold startRelease
  try dsimp only
  repeat' (first
      | with_reducible assumption | (with_reducible intro _) | with_reducible apply endFillWait_sound
      | with_reducible apply meter_sound | with_reducible apply needKey_sound | with_reducible apply setPlot_sound
      | with_reducible apply tookFree_sound | with_reducible apply zeroFill_sound
      | (with_reducible refine ite_sound ?_ ?_) | (with_reducible refine ite_pair_sound ?_ ?_)
      | (with_reducible refine ite_trip_sound ?_ ?_) | split
      | (refine sound_of_pair (by with_reducible assumption) ?_)
      | (refine sound_of_trip (by with_reducible assumption) ?_)
      | (with_reducible refine sound_upd ?_ rfl rfl rfl rfl rfl rfl rfl rfl) | (dsimp only))

theorem settleMemobjs_sound {F : Kept} (s : State) (hs : s.Sound F) : State.Sound F (settleMemobjs s) := by
  unfold settleMemobjs
  try dsimp only
  repeat' (first
      | with_reducible assumption | (with_reducible intro _) | with_reducible apply finishAll_sound
      | (with_reducible apply foldl_sound) | (with_reducible refine sound_upd ?_ rfl rfl rfl rfl rfl rfl rfl rfl)
      | (dsimp only))

theorem finishRelease_sound {F : Kept} (plot : BitVec 16) (s : State) (hs : s.Sound F) : State.Sound F
    (finishRelease plot s) := by
  unfold finishRelease
  try dsimp only
  repeat' (first
      | with_reducible assumption | (with_reducible intro _) | with_reducible apply dropPlot_sound
      | with_reducible apply finishAll_sound | with_reducible apply setPlot_sound
      | with_reducible apply settleMemobjs_sound | (with_reducible refine ite_sound ?_ ?_) | split
      | (with_reducible refine sound_upd ?_ rfl rfl rfl rfl rfl rfl rfl rfl))

theorem execStackAccess_sound {F : Kept} (r : StackReq) (s : State) (hs : s.Sound F) : SoundOut F
    (execStackAccess r s) := by
  unfold execStackAccess
  try dsimp only
  repeat' (first
      | with_reducible exact soundOut_fault | (with_reducible apply soundOut_next)
      | (with_reducible refine soundOut_ite ?_ ?_) | with_reducible assumption | (with_reducible intro _)
      | with_reducible apply arriveStack_sound | with_reducible apply enter_sound
      | (with_reducible refine ite_sound ?_ ?_) | split | (dsimp only))

end Sys2Proof.Machine
end

