-- ==== Sys2Proof/Laws/SoundFau.lean ====
section
/-! SUPPORT. What the operations of Machine/Fau.lean keep: memories in canonical form, registers in range, blown
fuses and bounded fault rings (State.Sound). -/

namespace Sys2Proof.Machine

theorem localRefused_sound {F : Kept} (c : CtxId) (p : PolderId) (addr : Nat) (check : Nat) (write : Bool)
    (st : Status) (s : State) (hs : s.Sound F) : State.Sound F (localRefused c p addr check write st s) := by
  unfold localRefused
  try dsimp only
  repeat' (first
      | with_reducible assumption | with_reducible apply writeFault_sound | (with_reducible refine ite_sound ?_ ?_)
      | split)

theorem localUse_sound {F : Kept} (c : CtxId) (p : PolderId) (addr : Nat) (len : Nat) (write : Bool)
    (seen : List Lookup) (s : State) (hs : s.Sound F) : State.Sound F (localUse c p addr len write seen s).2.2 := by
  unfold localUse
  try dsimp only
  repeat' (first
      | with_reducible assumption | with_reducible apply localRefused_sound | with_reducible apply rangeUse_sound
      | (with_reducible refine ite_sound ?_ ?_) | (with_reducible refine ite_pair_sound ?_ ?_)
      | (with_reducible refine ite_trip_sound ?_ ?_) | split
      | (refine sound_of_pair (by with_reducible assumption) ?_)
      | (refine sound_of_trip (by with_reducible assumption) ?_)
      | (with_reducible refine sound_upd ?_ rfl rfl rfl rfl rfl rfl rfl rfl) | (dsimp only))

theorem keepLookups_sound {F : Kept} (user : StackUser) (p : PolderId) (addr : Nat) (len : Nat) (write : Bool)
    (l : List Lookup) (s : State) (hs : s.Sound F) : State.Sound F (keepLookups user p addr len write l s) := by
  unfold keepLookups
  try dsimp only
  repeat' (first
      | with_reducible assumption | (with_reducible intro _) | (with_reducible refine ite_sound ?_ ?_) | split
      | (with_reducible refine sound_upd ?_ rfl rfl rfl rfl rfl rfl rfl rfl))

theorem localCheck_sound {F : Kept} (user : StackUser) (c : CtxId) (p : PolderId) (addr : Nat) (len : Nat)
    (write : Bool) (s : State) (hs : s.Sound F) : State.Sound F (localCheck user c p addr len write s).2 := by
  unfold localCheck
  try dsimp only
  repeat' (first
      | with_reducible assumption | with_reducible apply keepLookups_sound | with_reducible apply localUse_sound
      | (with_reducible refine ite_pair_sound ?_ ?_) | (with_reducible refine ite_trip_sound ?_ ?_) | split
      | (refine sound_of_pair (by with_reducible assumption) ?_)
      | (refine sound_of_trip (by with_reducible assumption) ?_)
      | (with_reducible refine sound_upd ?_ rfl rfl rfl rfl rfl rfl rfl rfl) | (dsimp only))

theorem answerOp_sound {F : Kept} (c : CtxId) (ctag : BitVec 16) (src : OpSource) (st : Status) (result : BitVec 64)
    (flags : BitVec 6) (s : State) (hs : s.Sound F) : State.Sound F (answerOp c ctag src st result flags s) := by
  unfold answerOp
  try dsimp only
  repeat' (first
      | with_reducible assumption | with_reducible apply emit_sound | with_reducible apply endDescriptor_sound
      | split | (with_reducible refine sound_upd ?_ rfl rfl rfl rfl rfl rfl rfl rfl))

theorem requestRefused_sound {F : Kept} (r : RemoteReq) (p : PolderId) (check : Byte) (st : Status) (s : State)
    (hs : s.Sound F) : State.Sound F (requestRefused r p check st s) := by
  unfold requestRefused
  try dsimp only
  repeat' (first
      | with_reducible assumption | with_reducible apply writeFault_sound | (with_reducible refine ite_sound ?_ ?_)
      | split)

theorem refuseOp_sound {F : Kept} (r : RemoteReq) (src : OpSource) (p : PolderId) (check : Byte) (st : Status)
    (s : State) (hs : s.Sound F) : State.Sound F (refuseOp r src p check st s) := by
  unfold refuseOp
  try dsimp only
  repeat' (first
      | with_reducible assumption | with_reducible apply answerOp_sound | with_reducible apply requestRefused_sound)

theorem dropOp_sound {F : Kept} (id : Nat) (s : State) (hs : s.Sound F) : State.Sound F (dropOp id s) := by
  unfold dropOp
  try dsimp only
  repeat' (first
      | with_reducible assumption | (with_reducible intro _) | (with_reducible apply id_sound)
      | (with_reducible refine sound_upd ?_ rfl rfl rfl rfl rfl rfl rfl rfl))

theorem finishOp_sound {F : Kept} (o : OutOp) (st : Status) (result : BitVec 64) (flags : BitVec 6) (s : State)
    (hs : s.Sound F) : State.Sound F (finishOp o st result flags s) := by
  unfold finishOp
  try dsimp only
  repeat' (first
      | with_reducible assumption | (with_reducible intro _) | with_reducible apply answerOp_sound
      | with_reducible apply dropOp_sound | (with_reducible refine ite_sound ?_ ?_) | split
      | (with_reducible refine sound_upd ?_ rfl rfl rfl rfl rfl rfl rfl rfl))

theorem settleMember_sound {F : Kept} (o : OutOp) (m : InstId) (st : Status) (s : State) (hs : s.Sound F) :
    State.Sound F (settleMember o m st s) := by
  unfold settleMember
  try dsimp only
  repeat' (first
      | with_reducible assumption | (with_reducible intro _) | with_reducible apply finishOp_sound
      | (with_reducible refine ite_sound ?_ ?_) | split
      | (with_reducible refine sound_upd ?_ rfl rfl rfl rfl rfl rfl rfl rfl))

theorem failTo_sound {F : Kept} (o : OutOp) (m : InstId) (st : Status) (s : State) (hs : s.Sound F) : State.Sound F
    (failTo o m st s) := by
  unfold failTo
  try dsimp only
  repeat' (first
      | with_reducible assumption | with_reducible apply finishOp_sound | with_reducible apply settleMember_sound
      | (with_reducible refine ite_sound ?_ ?_) | split)

theorem outcomeUnknown_sound {F : Kept} (o : OutOp) (s : State) (hs : s.Sound F) : State.Sound F
    (outcomeUnknown o s) := by
  unfold outcomeUnknown
  try dsimp only
  repeat' (first | with_reducible assumption | with_reducible apply writeFault_sound | split)

theorem launchOp_sound {F : Kept} (r : RemoteReq) (src : OpSource) (c : Context) (d : Dest) (payload : Bytes)
    (fence : Option Nat) (s : State) (hs : s.Sound F) : State.Sound F (launchOp r src c d payload fence s) := by
  unfold launchOp
  try dsimp only
  repeat' (first
      | with_reducible assumption | (with_reducible intro _) | with_reducible apply finishOp_sound
      | with_reducible apply requestRefused_sound | with_reducible apply sendPacket_sound
      | with_reducible apply takeSeq_sound | (with_reducible apply id_sound)
      | (with_reducible refine ite_sound ?_ ?_) | (with_reducible refine ite_pair_sound ?_ ?_)
      | (with_reducible refine ite_trip_sound ?_ ?_) | split
      | (refine sound_of_pair (by with_reducible assumption) ?_)
      | (refine sound_of_trip (by with_reducible assumption) ?_)
      | (with_reducible refine sound_upd ?_ rfl rfl rfl rfl rfl rfl rfl rfl) | (dsimp only))

theorem modPending_sound {F : Kept} (id : Nat) (f : PendingFence → PendingFence) (s : State) (hs : s.Sound F) :
    State.Sound F (modPending id f s) := by
  unfold modPending
  try dsimp only
  repeat' (first
      | with_reducible assumption | (with_reducible intro _)
      | (with_reducible refine sound_upd ?_ rfl rfl rfl rfl rfl rfl rfl rfl))

theorem sendFencePacket_sound {F : Kept} (id : Nat) (s : State) (d : Dest) (hs : s.Sound F) : State.Sound F
    (sendFencePacket id s d) := by
  unfold sendFencePacket
  try dsimp only
  repeat' (first
      | with_reducible assumption | (with_reducible intro _) | with_reducible apply launchOp_sound
      | with_reducible apply modPending_sound | (with_reducible apply id_sound)
      | (with_reducible refine ite_sound ?_ ?_) | split
      | (with_reducible refine sound_upd ?_ rfl rfl rfl rfl rfl rfl rfl rfl))

theorem issueFence_sound {F : Kept} (r : RemoteReq) (src : OpSource) (c : Context) (s : State) (hs : s.Sound F) :
    State.Sound F (issueFence r src c s) := by
  unfold issueFence
  try dsimp only
  repeat' (first
      | with_reducible assumption | (with_reducible intro _) | with_reducible apply count_sound
      | with_reducible apply sendFencePacket_sound | (with_reducible apply foldl_sound)
      | (with_reducible apply id_sound) | (with_reducible refine ite_sound ?_ ?_) | split
      | (with_reducible refine sound_upd ?_ rfl rfl rfl rfl rfl rfl rfl rfl) | (dsimp only))

theorem sendUnsent_sound {F : Kept} (s : State) (hs : s.Sound F) : State.Sound F (sendUnsent s) := by
  unfold sendUnsent
  try dsimp only
  repeat' (first
      | with_reducible assumption | (with_reducible intro _) | with_reducible apply sendFencePacket_sound
      | (with_reducible apply foldl_sound) | (dsimp only))

theorem countIssued_sound {F : Kept} (r : RemoteReq) (src : OpSource) (s : State) (hs : s.Sound F) : State.Sound F
    (countIssued r src s) := by
  unfold countIssued
  try dsimp only
  repeat' (first
      | with_reducible assumption | with_reducible apply profAdd_sound | split
      | (with_reducible refine sound_upd ?_ rfl rfl rfl rfl rfl rfl rfl rfl))

theorem tryIssue_sound {F : Kept} (w : FauWait) (s : State) (hs : s.Sound F) : State.Sound F (tryIssue w s).2 := by
  unfold tryIssue
  try dsimp only
  repeat' (first
      | with_reducible assumption | with_reducible apply answerOp_sound | with_reducible apply count_sound
      | with_reducible apply countIssued_sound | with_reducible apply issueFence_sound
      | with_reducible apply launchOp_sound | with_reducible apply localUse_sound
      | with_reducible apply refuseOp_sound | with_reducible apply stackCount_sound
      | (with_reducible refine ite_sound ?_ ?_) | (with_reducible refine ite_pair_sound ?_ ?_)
      | (with_reducible refine ite_trip_sound ?_ ?_) | split
      | (refine sound_of_pair (by with_reducible assumption) ?_)
      | (refine sound_of_trip (by with_reducible assumption) ?_)
      | (with_reducible refine sound_upd ?_ rfl rfl rfl rfl rfl rfl rfl rfl) | (dsimp only))

theorem completeFences_sound {F : Kept} (s : State) (hs : s.Sound F) : State.Sound F (completeFences s) := by
  unfold completeFences
  try dsimp only
  repeat' (first
      | with_reducible assumption | (with_reducible intro _) | with_reducible apply answerOp_sound
      | (with_reducible apply foldl_sound) | (with_reducible refine ite_sound ?_ ?_) | split
      | (with_reducible refine sound_upd ?_ rfl rfl rfl rfl rfl rfl rfl rfl) | (dsimp only))

theorem noteWait_sound {F : Kept} (w : FauWait) (s : State) (hs : s.Sound F) : State.Sound F (noteWait w s).2 := by
  unfold noteWait
  try dsimp only
  repeat' (first
      | with_reducible assumption | with_reducible apply count_sound | (with_reducible refine ite_sound ?_ ?_)
      | (with_reducible refine ite_pair_sound ?_ ?_) | (with_reducible refine ite_trip_sound ?_ ?_) | split
      | (refine sound_of_pair (by with_reducible assumption) ?_)
      | (refine sound_of_trip (by with_reducible assumption) ?_)
      | (with_reducible refine sound_upd ?_ rfl rfl rfl rfl rfl rfl rfl rfl) | (dsimp only))

theorem pumpWaiting_sound {F : Kept} (s : State) (hs : s.Sound F) : State.Sound F (pumpWaiting s) := by
  unfold pumpWaiting
  try dsimp only
  repeat' (first
      | with_reducible assumption | (with_reducible intro _) | with_reducible apply noteWait_sound
      | with_reducible apply tryIssue_sound | (with_reducible apply foldl_sound)
      | (with_reducible apply foldl_pair_sound) | (with_reducible apply foldl_trip_sound)
      | (with_reducible refine ite_sound ?_ ?_) | (with_reducible refine ite_pair_sound ?_ ?_)
      | (with_reducible refine ite_trip_sound ?_ ?_) | split
      | (refine sound_of_pair (by with_reducible assumption) ?_)
      | (refine sound_of_trip (by with_reducible assumption) ?_)
      | (with_reducible refine sound_upd ?_ rfl rfl rfl rfl rfl rfl rfl rfl) | (dsimp only))

theorem settleRounds_sound {F : Kept}  (a0 : Nat) (a1 : State) (hs : a1.Sound F) : State.Sound F
    (settleRounds a0 a1) := by
  induction a0 generalizing a1 with
  | zero => 
    unfold settleRounds
    try dsimp only
    repeat' (first
        | with_reducible assumption | (with_reducible intro _) | with_reducible apply completeFences_sound
        | with_reducible apply pumpWaiting_sound | with_reducible apply sendUnsent_sound
        | (with_reducible refine ite_sound ?_ ?_) | (with_reducible refine ite_pair_sound ?_ ?_)
        | (with_reducible refine ite_trip_sound ?_ ?_) | split | (dsimp only))
  | succ n ih => 
    unfold settleRounds
    try dsimp only
    repeat' (first
        | with_reducible assumption | (with_reducible intro _) | with_reducible apply completeFences_sound
        | with_reducible apply pumpWaiting_sound | with_reducible apply sendUnsent_sound | with_reducible apply ih
        | (with_reducible refine ite_sound ?_ ?_) | (with_reducible refine ite_pair_sound ?_ ?_)
        | (with_reducible refine ite_trip_sound ?_ ?_) | split | (dsimp only))

theorem fauSettle_sound {F : Kept} (s : State) (hs : s.Sound F) : State.Sound F (fauSettle s) := by
  unfold fauSettle
  try dsimp only
  repeat' (first
      | with_reducible assumption | with_reducible apply settleRounds_sound
      | (with_reducible refine ite_pair_sound ?_ ?_) | (with_reducible refine ite_trip_sound ?_ ?_) | (dsimp only))

theorem submitOp_sound {F : Kept} (r : RemoteReq) (src : OpSource) (s : State) (hs : s.Sound F) : State.Sound F
    (submitOp r src s) := by
  unfold submitOp
  try dsimp only
  repeat' (first
      | with_reducible assumption | with_reducible apply fauSettle_sound
      | (with_reducible refine sound_upd ?_ rfl rfl rfl rfl rfl rfl rfl rfl))

theorem endOps_sound {F : Kept} (mine : CtxId → Bool) (st : Status) (s : State) (hs : s.Sound F) : State.Sound F
    (endOps mine st s) := by
  unfold endOps
  try dsimp only
  repeat' (first
      | with_reducible assumption | (with_reducible intro _) | with_reducible apply answerOp_sound
      | with_reducible apply finishOp_sound | (with_reducible apply foldl_sound)
      | (with_reducible refine sound_upd ?_ rfl rfl rfl rfl rfl rfl rfl rfl) | (dsimp only))

theorem unreachableOps_sound {F : Kept} (m : InstId) (s : State) (hs : s.Sound F) : State.Sound F
    (unreachableOps m s) := by
  unfold unreachableOps
  try dsimp only
  repeat' (first
      | with_reducible assumption | (with_reducible intro _) | with_reducible apply failTo_sound
      | with_reducible apply fauSettle_sound | with_reducible apply writeFault_sound
      | (with_reducible apply foldl_sound) | split
      | (with_reducible refine sound_upd ?_ rfl rfl rfl rfl rfl rfl rfl rfl) | (dsimp only))

theorem malformedAnswer_sound {F : Kept} (o : OutOp) (m : InstId) (s : State) (hs : s.Sound F) : State.Sound F
    (malformedAnswer o m s) := by
  unfold malformedAnswer
  try dsimp only
  repeat' (first
      | with_reducible assumption | with_reducible apply failTo_sound | with_reducible apply finishOp_sound
      | with_reducible apply outcomeUnknown_sound | with_reducible apply writeFault_sound
      | (with_reducible refine ite_sound ?_ ?_) | split)

theorem applyAnswer_sound {F : Kept} (o : OutOp) (rel : Released) (s : State) (hs : s.Sound F) : State.Sound F
    (applyAnswer o rel s).2 := by
  unfold applyAnswer
  try dsimp only
  repeat' (first
      | with_reducible assumption | (with_reducible intro _) | with_reducible apply failTo_sound
      | with_reducible apply finishOp_sound | with_reducible apply localUse_sound
      | with_reducible apply malformedAnswer_sound | with_reducible apply outcomeUnknown_sound
      | with_reducible apply settleMember_sound | with_reducible apply stackCount_sound
      | with_reducible apply stackWrite_sound | (with_reducible refine ite_sound ?_ ?_)
      | (with_reducible refine ite_pair_sound ?_ ?_) | (with_reducible refine ite_trip_sound ?_ ?_) | split
      | (refine sound_of_pair (by with_reducible assumption) ?_)
      | (refine sound_of_trip (by with_reducible assumption) ?_)
      | (with_reducible refine sound_upd ?_ rfl rfl rfl rfl rfl rfl rfl rfl) | (dsimp only))

theorem dropReleased_sound {F : Kept} (r : Released) (s : State) (hs : s.Sound F) : State.Sound F
    (dropReleased r s) := by
  unfold dropReleased
  try dsimp only
  repeat' (first | with_reducible assumption | (with_reducible refine sound_upd ?_ rfl rfl rfl rfl rfl rfl rfl rfl))

theorem serveCompletion_sound {F : Kept} (s : State) (rel : Released) (hs : s.Sound F) : State.Sound F
    (serveCompletion s rel) := by
  unfold serveCompletion
  try dsimp only
  repeat' (first
      | with_reducible assumption | with_reducible apply applyAnswer_sound | with_reducible apply count_sound
      | with_reducible apply dropReleased_sound | with_reducible apply fauSettle_sound
      | (with_reducible refine ite_pair_sound ?_ ?_) | (with_reducible refine ite_trip_sound ?_ ?_) | split
      | (refine sound_of_pair (by with_reducible assumption) ?_)
      | (refine sound_of_trip (by with_reducible assumption) ?_)
      | (with_reducible refine sound_upd ?_ rfl rfl rfl rfl rfl rfl rfl rfl) | (dsimp only))

theorem retryAnswers_sound {F : Kept} (s : State) (hs : s.Sound F) : State.Sound F (retryAnswers s) := by
  unfold retryAnswers
  try dsimp only
  repeat' (first
      | with_reducible assumption | (with_reducible intro _) | with_reducible apply serveCompletion_sound
      | (with_reducible apply foldl_sound) | (dsimp only))

theorem giveUp_sound {F : Kept} (o : OutOp) (s : State) (hs : s.Sound F) : State.Sound F (giveUp o s) := by
  unfold giveUp
  try dsimp only
  repeat' (first
      | with_reducible assumption | (with_reducible intro _) | with_reducible apply finishOp_sound
      | with_reducible apply outcomeUnknown_sound | with_reducible apply writeFault_sound
      | (with_reducible refine ite_sound ?_ ?_) | split
      | (with_reducible refine sound_upd ?_ rfl rfl rfl rfl rfl rfl rfl rfl))

theorem resendNow_sound {F : Kept} (o : OutOp) (s : State) (hs : s.Sound F) : State.Sound F (resendNow o s) := by
  unfold resendNow
  try dsimp only
  repeat' (first
      | with_reducible assumption | (with_reducible intro _) | with_reducible apply giveUp_sound
      | with_reducible apply sendPacket_sound | (with_reducible refine ite_sound ?_ ?_)
      | (with_reducible refine ite_pair_sound ?_ ?_) | (with_reducible refine ite_trip_sound ?_ ?_) | split
      | (with_reducible refine sound_upd ?_ rfl rfl rfl rfl rfl rfl rfl rfl) | (dsimp only))

theorem resendOp_sound {F : Kept} (o : OutOp) (s : State) (hs : s.Sound F) : State.Sound F (resendOp o s) := by
  unfold resendOp
  try dsimp only
  repeat' (first
      | with_reducible assumption | with_reducible apply resendNow_sound | (with_reducible refine ite_sound ?_ ?_)
      | split)

theorem arriveNotice_sound {F : Kept} (port : BitVec 8) (packet : Bytes) (s : State) (hs : s.Sound F) :
    State.Sound F (arriveNotice port packet s) := by
  unfold arriveNotice
  try dsimp only
  repeat' (first
      | with_reducible assumption | with_reducible apply count_sound | with_reducible apply countPort_sound
      | with_reducible apply failTo_sound | with_reducible apply fauSettle_sound
      | (with_reducible refine ite_sound ?_ ?_) | split
      | (with_reducible refine sound_upd ?_ rfl rfl rfl rfl rfl rfl rfl rfl))

end Sys2Proof.Machine
end

