-- ==== Sys2Proof/Laws/SoundWeirs.lean ====
section
/-! SUPPORT. What the operations of Machine/Weirs.lean keep: memories in canonical form, registers in range, blown
fuses and bounded fault rings (State.Sound). -/

namespace Sys2Proof.Machine

theorem modWeir_sound {F : Kept} (w : BitVec 8) (f : Weir → Weir) (s : State) (hs : s.Sound F) : State.Sound F
    (modWeir w f s) := by
  unfold modWeir
  try dsimp only
  repeat' (first
      | with_reducible assumption | (with_reducible intro _)
      | (with_reducible refine sound_upd ?_ rfl rfl rfl rfl rfl rfl rfl rfl))

theorem mirrorWeir_sound {F : Kept} (w : BitVec 8) (s : State) (hs : s.Sound F) : State.Sound F (mirrorWeir w s) := by
  unfold mirrorWeir
  try dsimp only
  repeat' (first
      | with_reducible assumption | (with_reducible intro _) | with_reducible apply modWeir_sound
      | (with_reducible refine sound_upd ?_ rfl rfl rfl rfl rfl rfl rfl rfl))

theorem mirrorChanged_sound {F : Kept} (s : State) (hs : s.Sound F) : State.Sound F (mirrorChanged s) := by
  unfold mirrorChanged
  try dsimp only
  repeat' (first
      | with_reducible assumption | (with_reducible intro _) | with_reducible apply mirrorWeir_sound
      | (with_reducible apply foldl_sound) | (with_reducible refine ite_sound ?_ ?_) | split | (dsimp only))

theorem takeLevel_sound {F : Kept} (w : BitVec 8) (level : BitVec 4) (capacity : Nat) (s : State) (hs : s.Sound F) :
    State.Sound F (takeLevel w level capacity s) := by
  unfold takeLevel
  try dsimp only
  repeat' (first
      | with_reducible assumption | (with_reducible intro _) | with_reducible apply count_sound
      | with_reducible apply emitTrace_sound | with_reducible apply mirrorChanged_sound
      | with_reducible apply modWeir_sound | (with_reducible refine ite_sound ?_ ?_) | split
      | (with_reducible refine sound_upd ?_ rfl rfl rfl rfl rfl rfl rfl rfl))

theorem missGuarantee_sound {F : Kept} (w : BitVec 8) (c : Nat) (admitted : Nat) (s : State) (hs : s.Sound F) :
    State.Sound F (missGuarantee w c admitted s) := by
  unfold missGuarantee
  try dsimp only
  repeat' (first
      | with_reducible assumption | (with_reducible intro _) | with_reducible apply modWeir_sound
      | with_reducible apply writeFault_sound | (with_reducible refine ite_sound ?_ ?_) | split
      | (with_reducible refine sound_upd ?_ rfl rfl rfl rfl rfl rfl rfl rfl))

theorem execWeirInterval_sound {F : Kept} (weir : BitVec 8) (backlogged : BitVec 16) (admitted : List Nat)
    (s : State) (hs : s.Sound F) : SoundOut F (execWeirInterval weir backlogged admitted s) := by
  unfold execWeirInterval
  try dsimp only
  repeat' (first
      | with_reducible exact soundOut_fault | (with_reducible apply soundOut_next)
      | (with_reducible refine soundOut_ite ?_ ?_) | with_reducible assumption | (with_reducible intro _)
      | with_reducible apply missGuarantee_sound | (with_reducible apply foldl_sound)
      | (with_reducible refine ite_sound ?_ ?_) | split | (dsimp only))

theorem execWeirStatusMirror_sound {F : Kept} (weir : BitVec 8) (s : State) (hs : s.Sound F) : SoundOut F
    (execWeirStatusMirror weir s) := by
  unfold execWeirStatusMirror
  try dsimp only
  repeat' (first
      | with_reducible exact soundOut_fault | (with_reducible apply soundOut_next)
      | (with_reducible refine soundOut_ite ?_ ?_) | with_reducible assumption | (with_reducible intro _)
      | with_reducible apply mirrorWeir_sound | (with_reducible refine ite_sound ?_ ?_) | split | (dsimp only))

theorem weirStatusCmd_sound {F : Kept} (bad : Bool) (o : Origin) (tag : BitVec 32) (weir : BitVec 8) (s : State)
    (hs : s.Sound F) : State.Sound F (weirStatusCmd bad o tag weir s) := by
  unfold weirStatusCmd
  try dsimp only
  repeat' (first
      | with_reducible assumption | (with_reducible intro _) | with_reducible apply reply_sound
      | with_reducible apply runCmd_sound)

theorem execWeirStatus_sound {F : Kept} (o : Origin) (tag : BitVec 32) (weir : BitVec 8) (s : State)
    (hs : s.Sound F) : SoundOut F (execWeirStatus o tag weir s) := by
  unfold execWeirStatus
  try dsimp only
  repeat' (first
      | with_reducible exact soundOut_fault | (with_reducible apply soundOut_next)
      | (with_reducible refine soundOut_ite ?_ ?_) | with_reducible assumption | (with_reducible intro _)
      | with_reducible apply weirStatusCmd_sound | (dsimp only))

end Sys2Proof.Machine
end

