-- ==== Sys2Proof/Laws/SoundTray.lean ====
section
/-! SUPPORT. What the operations of Machine/Tray.lean keep: memories in canonical form, registers in range, blown
fuses and bounded fault rings (State.Sound). -/

namespace Sys2Proof.Machine

theorem setGroup_sound {F : Kept} (g : Nat) (x : ParityGroup) (s : State) (hs : s.Sound F) : State.Sound F
    (setGroup g x s) := by
  unfold setGroup
  try dsimp only
  repeat' (first
      | with_reducible assumption | with_reducible apply mirrorChanged_sound
      | (with_reducible refine sound_upd ?_ rfl rfl rfl rfl rfl rfl rfl rfl))

theorem rawWrite_sound {F : Kept} (device : Nat) (row : Nat) (b : Bytes) (s : State) (hs : s.Sound F) :
    State.Sound F (rawWrite device row b s) := by
  unfold rawWrite
  try dsimp only
  repeat' (first
      | with_reducible assumption | (with_reducible refine sound_upd ?_ rfl rfl rfl rfl rfl rfl rfl rfl)
      | (with_reducible refine stackWriteN_upd ?_ rfl rfl rfl rfl rfl rfl rfl rfl)
      | (with_reducible refine devicesWriteN_upd ?_ rfl rfl rfl rfl rfl rfl rfl rfl))

theorem shareWrite_sound {F : Kept} (g : Nat) (k : Nat) (row : Nat) (b : Bytes) (s : State) (hs : s.Sound F) :
    State.Sound F (shareWrite g k row b s) := by
  unfold shareWrite
  try dsimp only
  repeat' (first
      | with_reducible assumption | with_reducible apply rawWrite_sound | split
      | (with_reducible refine sound_upd ?_ rfl rfl rfl rfl rfl rfl rfl rfl))

theorem stripeWrite_sound {F : Kept} (g : Nat) (row : Nat) (bs : List Bytes) (s : State) (hs : s.Sound F) :
    State.Sound F (stripeWrite g row bs s) := by
  unfold stripeWrite
  try dsimp only
  repeat' (first
      | with_reducible assumption | (with_reducible intro _) | with_reducible apply rawWrite_sound
      | (with_reducible apply foldl_sound) | split
      | (with_reducible refine sound_upd ?_ rfl rfl rfl rfl rfl rfl rfl rfl) | (dsimp only))

theorem startRebuild_sound {F : Kept} (g : Nat) (k : Nat) (device : Nat) (s : State) (hs : s.Sound F) :
    State.Sound F (startRebuild g k device s) := by
  unfold startRebuild
  try dsimp only
  repeat' (first
      | with_reducible assumption | with_reducible apply setGroup_sound | with_reducible apply writeFault_sound
      | split | (with_reducible refine sound_upd ?_ rfl rfl rfl rfl rfl rfl rfl rfl))

theorem failGroup_sound {F : Kept} (g : Nat) (k : Nat) (device : Nat) (s : State) (hs : s.Sound F) : State.Sound F
    (failGroup g k device s) := by
  unfold failGroup
  try dsimp only
  repeat' (first
      | with_reducible assumption | with_reducible apply setGroup_sound | with_reducible apply writeFault_sound
      | (with_reducible refine ite_sound ?_ ?_) | split
      | (with_reducible refine sound_upd ?_ rfl rfl rfl rfl rfl rfl rfl rfl))

theorem deviceDead_sound {F : Kept} (device : Nat) (s : State) (hs : s.Sound F) : State.Sound F
    (deviceDead device s) := by
  unfold deviceDead
  try dsimp only
  repeat' (first
      | with_reducible assumption | (with_reducible intro _) | with_reducible apply failGroup_sound
      | with_reducible apply setGroup_sound | with_reducible apply startRebuild_sound
      | with_reducible apply writeFault_sound | (with_reducible refine ite_sound ?_ ?_) | split
      | (with_reducible refine sound_upd ?_ rfl rfl rfl rfl rfl rfl rfl rfl))

theorem writeDelta_sound {F : Kept} (a : Nat) (d : Bytes) (s : State) (hs : s.Sound F) : State.Sound F
    (writeDelta a d s) := by
  unfold writeDelta
  try dsimp only
  repeat' (first
      | with_reducible assumption | with_reducible apply shareWrite_sound | (with_reducible refine ite_sound ?_ ?_)
      | split)

theorem eraseDeltas_sound {F : Kept} (a n : Nat) (s : State) (hs : s.Sound F) : State.Sound F
    (eraseDeltas a n s) := by
  obtain ⟨⟨x, y⟩, c, d, e, f⟩ := hs
  exact ⟨⟨x, Mem.filter_wf y _⟩, c, d, e, f⟩


theorem setBlock_sound {F : Kept} (b : TreeBlock) (s : State) (hs : s.Sound F) : State.Sound F (setBlock b s) := by
  unfold setBlock
  try dsimp only
  repeat' (first | with_reducible assumption | (with_reducible refine sound_upd ?_ rfl rfl rfl rfl rfl rfl rfl rfl))

theorem modExtent_sound {F : Kept} (id : BitVec 13) (f : Extent → Extent) (s : State) (hs : s.Sound F) :
    State.Sound F (modExtent id f s) := by
  unfold modExtent
  try dsimp only
  repeat' (first
      | with_reducible assumption | (with_reducible intro _)
      | (with_reducible refine sound_upd ?_ rfl rfl rfl rfl rfl rfl rfl rfl))

theorem modCtc_sound {F : Kept} (f : List CtcEntry → List CtcEntry) (s : State) (hs : s.Sound F) : State.Sound F
    (modCtc f s) := by
  unfold modCtc
  try dsimp only
  repeat' (first | with_reducible assumption | (with_reducible refine sound_upd ?_ rfl rfl rfl rfl rfl rfl rfl rfl))

theorem putCtc_sound {F : Kept} (location : Nat) (level : Nat) (index : Nat) (x : BitVec 512) (dirty : Bool)
    (s : State) (hs : s.Sound F) : State.Sound F (putCtc location level index x dirty s) := by
  unfold putCtc
  try dsimp only
  repeat' (first
      | with_reducible assumption | (with_reducible intro _) | with_reducible apply modCtc_sound
      | (with_reducible refine ite_sound ?_ ?_) | split
      | (with_reducible refine sound_upd ?_ rfl rfl rfl rfl rfl rfl rfl rfl))

theorem fetchBlock_sound {F : Kept} (e : Extent) (location : Nat) (k : Key256) (a0 : Nat) (a1 : Nat) (a2 : Nat)
    (a3 : State) (hs : a3.Sound F) : State.Sound F (fetchBlock e location k a0 a1 a2 a3).2 := by
  induction a0 generalizing a1 a2 a3 with
  | zero => 
    unfold fetchBlock
    try dsimp only
    repeat' (first
        | with_reducible assumption | with_reducible apply count_sound | with_reducible apply putCtc_sound
        | (with_reducible refine ite_sound ?_ ?_) | (with_reducible refine ite_pair_sound ?_ ?_)
        | (with_reducible refine ite_trip_sound ?_ ?_) | split
        | (refine sound_of_pair (by with_reducible assumption) ?_)
        | (refine sound_of_trip (by with_reducible assumption) ?_)
        | (with_reducible refine sound_upd ?_ rfl rfl rfl rfl rfl rfl rfl rfl) | (dsimp only))
  | succ n ih => 
    unfold fetchBlock
    try dsimp only
    repeat' (first
        | with_reducible assumption | with_reducible apply count_sound | with_reducible apply putCtc_sound
        | with_reducible apply ih | (with_reducible refine ite_sound ?_ ?_)
        | (with_reducible refine ite_pair_sound ?_ ?_) | (with_reducible refine ite_trip_sound ?_ ?_) | split
        | (refine sound_of_pair (by with_reducible assumption) ?_)
        | (refine sound_of_trip (by with_reducible assumption) ?_)
        | (with_reducible refine sound_upd ?_ rfl rfl rfl rfl rfl rfl rfl rfl) | (dsimp only))

theorem updateParent_sound {F : Kept} (x : CtcEntry) (s : State) (hs : s.Sound F) : State.Sound F
    (updateParent x s) := by
  unfold updateParent
  try dsimp only
  repeat' (first
      | with_reducible assumption | (with_reducible intro _) | with_reducible apply fetchBlock_sound
      | with_reducible apply modExtent_sound | with_reducible apply putCtc_sound
      | (with_reducible refine ite_sound ?_ ?_) | (with_reducible refine ite_pair_sound ?_ ?_)
      | (with_reducible refine ite_trip_sound ?_ ?_) | split
      | (refine sound_of_pair (by with_reducible assumption) ?_)
      | (refine sound_of_trip (by with_reducible assumption) ?_)
      | (with_reducible refine sound_upd ?_ rfl rfl rfl rfl rfl rfl rfl rfl) | (dsimp only))

theorem writtenBlock_sound {F : Kept} (x : CtcEntry) (s : State) (hs : s.Sound F) : State.Sound F
    (writtenBlock x s) := by
  unfold writtenBlock
  try dsimp only
  repeat' (first | with_reducible assumption | with_reducible apply setBlock_sound)

theorem evictCtc_sound {F : Kept} (x : CtcEntry) (s : State) (hs : s.Sound F) : State.Sound F (evictCtc x s) := by
  unfold evictCtc
  try dsimp only
  repeat' (first
      | with_reducible assumption | (with_reducible intro _) | with_reducible apply modCtc_sound
      | with_reducible apply stripeWrite_sound | with_reducible apply updateParent_sound
      | with_reducible apply writeDelta_sound | with_reducible apply writtenBlock_sound
      | (with_reducible apply foldl_sound) | (with_reducible refine ite_sound ?_ ?_) | split
      | (with_reducible refine sound_upd ?_ rfl rfl rfl rfl rfl rfl rfl rfl) | (dsimp only))

theorem trimRounds_sound {F : Kept}  (a0 : Nat) (a1 : State) (hs : a1.Sound F) : State.Sound F
    (trimRounds a0 a1) := by
  induction a0 generalizing a1 with
  | zero => 
    unfold trimRounds
    try dsimp only
    repeat' (first
        | with_reducible assumption | (with_reducible intro _) | with_reducible apply evictCtc_sound
        | (with_reducible refine ite_sound ?_ ?_) | (with_reducible refine ite_pair_sound ?_ ?_)
        | (with_reducible refine ite_trip_sound ?_ ?_) | split
        | (refine sound_of_pair (by with_reducible assumption) ?_)
        | (refine sound_of_trip (by with_reducible assumption) ?_)
        | (with_reducible refine sound_upd ?_ rfl rfl rfl rfl rfl rfl rfl rfl) | (dsimp only))
  | succ n ih => 
    unfold trimRounds
    try dsimp only
    repeat' (first
        | with_reducible assumption | (with_reducible intro _) | with_reducible apply evictCtc_sound
        | with_reducible apply ih | (with_reducible refine ite_sound ?_ ?_)
        | (with_reducible refine ite_pair_sound ?_ ?_) | (with_reducible refine ite_trip_sound ?_ ?_) | split
        | (refine sound_of_pair (by with_reducible assumption) ?_)
        | (refine sound_of_trip (by with_reducible assumption) ?_)
        | (with_reducible refine sound_upd ?_ rfl rfl rfl rfl rfl rfl rfl rfl) | (dsimp only))

theorem trimCtc_sound {F : Kept} (s : State) (hs : s.Sound F) : State.Sound F (trimCtc s) := by
  unfold trimCtc
  try dsimp only
  repeat' (first
      | with_reducible assumption | with_reducible apply trimRounds_sound
      | (with_reducible refine ite_pair_sound ?_ ?_) | (with_reducible refine ite_trip_sound ?_ ?_) | (dsimp only))

theorem loadTag_sound {F : Kept} (location : Nat) (q : Nat) (s : State) (hs : s.Sound F) : State.Sound F
    (loadTag location q s).2 := by
  unfold loadTag
  try dsimp only
  repeat' (first
      | with_reducible assumption | with_reducible apply count_sound | with_reducible apply putCtc_sound
      | with_reducible apply trimCtc_sound | (with_reducible refine ite_pair_sound ?_ ?_)
      | (with_reducible refine ite_trip_sound ?_ ?_) | split
      | (refine sound_of_pair (by with_reducible assumption) ?_)
      | (refine sound_of_trip (by with_reducible assumption) ?_)
      | (with_reducible refine sound_upd ?_ rfl rfl rfl rfl rfl rfl rfl rfl) | (dsimp only))

theorem setTag_sound {F : Kept} (location : Nat) (q : Nat) (tag : Bytes) (s : State) (hs : s.Sound F) :
    State.Sound F (setTag location q tag s) := by
  unfold setTag
  try dsimp only
  repeat' (first | with_reducible assumption | with_reducible apply putCtc_sound | with_reducible apply trimCtc_sound)

theorem mapWritten_sound {F : Kept} (a : Nat) (bit : Nat) (s : State) (hs : s.Sound F) : State.Sound F
    (mapWritten a bit s) := by
  unfold mapWritten
  try dsimp only
  repeat' (first
      | with_reducible assumption | with_reducible apply writeDelta_sound | (with_reducible refine ite_sound ?_ ?_)
      | split | (with_reducible refine sound_upd ?_ rfl rfl rfl rfl rfl rfl rfl rfl))

theorem markParcel_sound {F : Kept} (location : Nat) (q : Nat) (s : State) (hs : s.Sound F) : State.Sound F
    (markParcel location q s) := by
  unfold markParcel
  try dsimp only
  repeat' (first
      | with_reducible assumption | with_reducible apply mapWritten_sound | (with_reducible refine ite_sound ?_ ?_)
      | split | (with_reducible refine sound_upd ?_ rfl rfl rfl rfl rfl rfl rfl rfl))

theorem unmarkParcel_sound {F : Kept} (location : Nat) (q : Nat) (s : State) (hs : s.Sound F) : State.Sound F
    (unmarkParcel location q s) := by
  unfold unmarkParcel
  try dsimp only
  repeat' (first
      | with_reducible assumption | with_reducible apply mapWritten_sound
      | (with_reducible refine sound_upd ?_ rfl rfl rfl rfl rfl rfl rfl rfl))

theorem markPage_sound {F : Kept} (location : Nat) (page : Nat) (s : State) (hs : s.Sound F) : State.Sound F
    (markPage location page s) := by
  unfold markPage
  try dsimp only
  repeat' (first
      | with_reducible assumption | with_reducible apply mapWritten_sound | (with_reducible refine ite_sound ?_ ?_)
      | split | (with_reducible refine sound_upd ?_ rfl rfl rfl rfl rfl rfl rfl rfl))

theorem parcelBreach_sound {F : Kept} (e : Extent) (location : Nat) (q : Nat) (step : Nat) (s : State)
    (hs : s.Sound F) : State.Sound F (parcelBreach e location q step s) := by
  unfold parcelBreach
  try dsimp only
  repeat' (first | with_reducible assumption | with_reducible apply writeFault_sound)

theorem pageBreach_sound {F : Kept} (e : Extent) (location : Nat) (level : Nat) (index : Nat) (page : Nat)
    (s : State) (hs : s.Sound F) : State.Sound F (pageBreach e location level index page s) := by
  unfold pageBreach
  try dsimp only
  repeat' (first
      | with_reducible assumption | (with_reducible intro _) | with_reducible apply markPage_sound
      | with_reducible apply writeFault_sound | (with_reducible apply foldl_sound) | (dsimp only))

theorem fetchRecord_sound {F : Kept} (e : Extent) (location : Nat) (key : Key512) (page : Nat) (s : State)
    (hs : s.Sound F) : State.Sound F (fetchRecord e location key page s).2 := by
  unfold fetchRecord
  try dsimp only
  repeat' (first
      | with_reducible assumption | with_reducible apply fetchBlock_sound | with_reducible apply pageBreach_sound
      | with_reducible apply trimCtc_sound | (with_reducible refine ite_pair_sound ?_ ?_)
      | (with_reducible refine ite_trip_sound ?_ ?_) | split
      | (refine sound_of_pair (by with_reducible assumption) ?_)
      | (refine sound_of_trip (by with_reducible assumption) ?_)
      | (with_reducible refine sound_upd ?_ rfl rfl rfl rfl rfl rfl rfl rfl) | (dsimp only))

theorem storeRecord_sound {F : Kept} (e : Extent) (location : Nat) (key : Key512) (page : Nat) (r : BitVec 256)
    (s : State) (hs : s.Sound F) : State.Sound F (storeRecord e location key page r s) := by
  unfold storeRecord
  try dsimp only
  repeat' (first
      | with_reducible assumption | (with_reducible intro _) | with_reducible apply count_sound
      | with_reducible apply fetchBlock_sound | with_reducible apply pageBreach_sound
      | with_reducible apply putCtc_sound | with_reducible apply trimCtc_sound
      | (with_reducible refine ite_sound ?_ ?_) | (with_reducible refine ite_pair_sound ?_ ?_)
      | (with_reducible refine ite_trip_sound ?_ ?_) | split
      | (refine sound_of_pair (by with_reducible assumption) ?_)
      | (refine sound_of_trip (by with_reducible assumption) ?_)
      | (with_reducible refine sound_upd ?_ rfl rfl rfl rfl rfl rfl rfl rfl) | (dsimp only))

theorem openParcel_sound {F : Kept} (e : Extent) (location : Nat) (key : Key512) (kind : ParcelKind) (q : Nat)
    (s : State) (hs : s.Sound F) : State.Sound F (openParcel e location key kind q s).2 := by
  unfold openParcel
  try dsimp only
  repeat' (first
      | with_reducible assumption | with_reducible apply count_sound | with_reducible apply fetchRecord_sound
      | with_reducible apply loadTag_sound | with_reducible apply markParcel_sound
      | with_reducible apply parcelBreach_sound | (with_reducible refine ite_sound ?_ ?_)
      | (with_reducible refine ite_pair_sound ?_ ?_) | (with_reducible refine ite_trip_sound ?_ ?_) | split
      | (refine sound_of_pair (by with_reducible assumption) ?_)
      | (refine sound_of_trip (by with_reducible assumption) ?_)
      | (with_reducible refine sound_upd ?_ rfl rfl rfl rfl rfl rfl rfl rfl) | (dsimp only))

theorem putParcel_sound {F : Kept} (location : Nat) (key : Key512) (major : Nat) (minor : Nat) (q : Nat)
    (plain : Bytes) (s : State) (hs : s.Sound F) : State.Sound F
    (putParcel location key major minor q plain s) := by
  unfold putParcel
  try dsimp only
  repeat' (first
      | with_reducible assumption | with_reducible apply setTag_sound | with_reducible apply shareWrite_sound)

theorem putPage_sound {F : Kept} (location : Nat) (page : Nat) (cells : List (Bytes × Bytes)) (s : State)
    (hs : s.Sound F) : State.Sound F (putPage location page cells s) := by
  unfold putPage
  try dsimp only
  repeat' (first
      | with_reducible assumption | (with_reducible intro _) | with_reducible apply setTag_sound
      | with_reducible apply stripeWrite_sound | (with_reducible apply foldl_sound) | (dsimp only))

theorem rollVerify_sound {F : Kept} (e : Extent) (location : Nat) (key : Key512) (page : Nat) (own : Nat)
    (r : BitVec 256) (s : State) (hs : s.Sound F) : State.Sound F (rollVerify e location key page own r s) := by
  unfold rollVerify
  try dsimp only
  repeat' (first
      | with_reducible assumption | (with_reducible intro _) | with_reducible apply count_sound
      | with_reducible apply markParcel_sound | with_reducible apply parcelBreach_sound
      | (with_reducible apply foldl_sound) | (with_reducible refine ite_sound ?_ ?_) | split
      | (with_reducible refine sound_upd ?_ rfl rfl rfl rfl rfl rfl rfl rfl) | (dsimp only))

theorem rollPage_sound {F : Kept} (e : Extent) (location : Nat) (key : Key512) (q : Nat) (r : BitVec 256)
    (new : Option Bytes) (s : State) (hs : s.Sound F) : State.Sound F (rollPage e location key q r new s) := by
  unfold rollPage
  try dsimp only
  repeat' (first
      | with_reducible assumption | (with_reducible intro _) | with_reducible apply count_sound
      | with_reducible apply putPage_sound | with_reducible apply rollVerify_sound
      | with_reducible apply storeRecord_sound | (with_reducible refine ite_sound ?_ ?_) | split
      | (with_reducible refine sound_upd ?_ rfl rfl rfl rfl rfl rfl rfl rfl))

theorem parcelWritten_sound {F : Kept} (e : Extent) (location : Nat) (q : Nat) (kind : ParcelKind) (s : State)
    (hs : s.Sound F) : State.Sound F (parcelWritten e location q kind s) := by
  unfold parcelWritten
  try dsimp only
  repeat' (first
      | with_reducible assumption | with_reducible apply count_sound | with_reducible apply countBy_sound
      | with_reducible apply meter_sound | (with_reducible refine ite_sound ?_ ?_) | split)

theorem commitParcel_sound {F : Kept} (e : Extent) (location : Nat) (key : Key512) (kind : ParcelKind) (q : Nat)
    (o : OpenParcel) (new : Bytes) (s : State) (hs : s.Sound F) : State.Sound F
    (commitParcel e location key kind q o new s).2 := by
  unfold commitParcel
  try dsimp only
  repeat' (first
      | with_reducible assumption | (with_reducible intro _) | with_reducible apply parcelBreach_sound
      | with_reducible apply parcelWritten_sound | with_reducible apply putPage_sound
      | with_reducible apply putParcel_sound | with_reducible apply rollPage_sound
      | with_reducible apply storeRecord_sound | with_reducible apply unmarkParcel_sound
      | (with_reducible apply foldl_sound) | (with_reducible apply foldl_pair_sound)
      | (with_reducible apply foldl_trip_sound) | (with_reducible refine ite_sound ?_ ?_)
      | (with_reducible refine ite_pair_sound ?_ ?_) | (with_reducible refine ite_trip_sound ?_ ?_) | split
      | (refine sound_of_pair (by with_reducible assumption) ?_)
      | (refine sound_of_trip (by with_reducible assumption) ?_)
      | (with_reducible refine sound_upd ?_ rfl rfl rfl rfl rfl rfl rfl rfl) | (dsimp only))

theorem commitStripe_sound {F : Kept} (e : Extent) (location : Nat) (key : Key512) (q : Nat) (r : BitVec 256)
    (news : List Bytes) (s : State) (hs : s.Sound F) : State.Sound F (commitStripe e location key q r news s) := by
  unfold commitStripe
  try dsimp only
  repeat' (first
      | with_reducible assumption | (with_reducible intro _) | with_reducible apply parcelWritten_sound
      | with_reducible apply setTag_sound | with_reducible apply storeRecord_sound
      | with_reducible apply stripeWrite_sound | with_reducible apply unmarkParcel_sound
      | (with_reducible apply foldl_sound) | (with_reducible refine sound_upd ?_ rfl rfl rfl rfl rfl rfl rfl rfl)
      | (dsimp only))

theorem prefetch_sound {F : Kept} (e : Extent) (location : Nat) (key : Key512) (off : Nat) (len : Nat) (s : State)
    (hs : s.Sound F) : State.Sound F (prefetch e location key off len s) := by
  unfold prefetch
  try dsimp only
  repeat' (first
      | with_reducible assumption | (with_reducible intro _) | with_reducible apply fetchBlock_sound
      | with_reducible apply modExtent_sound | with_reducible apply trimCtc_sound
      | (with_reducible apply foldl_sound) | (with_reducible apply foldl_pair_sound)
      | (with_reducible apply foldl_trip_sound) | (with_reducible refine ite_sound ?_ ?_)
      | (with_reducible refine ite_pair_sound ?_ ?_) | (with_reducible refine ite_trip_sound ?_ ?_) | split
      | (refine sound_of_pair (by with_reducible assumption) ?_)
      | (refine sound_of_trip (by with_reducible assumption) ?_)
      | (with_reducible refine sound_upd ?_ rfl rfl rfl rfl rfl rfl rfl rfl) | (dsimp only))

theorem trayRead_sound {F : Kept} (e : Extent) (location : Nat) (key : Key512) (off : Nat) (len : Nat) (s : State)
    (hs : s.Sound F) : State.Sound F (trayRead e location key off len s).2 := by
  unfold trayRead
  try dsimp only
  repeat' (first
      | with_reducible assumption | (with_reducible intro _) | with_reducible apply count_sound
      | with_reducible apply countBy_sound | with_reducible apply meter_sound
      | with_reducible apply openParcel_sound | with_reducible apply prefetch_sound
      | (with_reducible apply foldl_sound) | (with_reducible apply foldl_pair_sound)
      | (with_reducible apply foldl_trip_sound) | (with_reducible refine ite_sound ?_ ?_)
      | (with_reducible refine ite_pair_sound ?_ ?_) | (with_reducible refine ite_trip_sound ?_ ?_) | split
      | (refine sound_of_pair (by with_reducible assumption) ?_)
      | (refine sound_of_trip (by with_reducible assumption) ?_)
      | (with_reducible refine sound_upd ?_ rfl rfl rfl rfl rfl rfl rfl rfl) | (dsimp only))

theorem commitOne_sound {F : Kept} (e : Extent) (location : Nat) (key : Key512) (x : ParcelChange) (s : State)
    (hs : s.Sound F) : State.Sound F (commitOne e location key x s).2 := by
  unfold commitOne
  try dsimp only
  repeat' (first
      | with_reducible assumption | with_reducible apply commitParcel_sound | with_reducible apply count_sound
      | with_reducible apply fetchRecord_sound | with_reducible apply meter_sound
      | (with_reducible refine ite_sound ?_ ?_) | (with_reducible refine ite_pair_sound ?_ ?_)
      | (with_reducible refine ite_trip_sound ?_ ?_) | split
      | (refine sound_of_pair (by with_reducible assumption) ?_)
      | (refine sound_of_trip (by with_reducible assumption) ?_)
      | (with_reducible refine sound_upd ?_ rfl rfl rfl rfl rfl rfl rfl rfl) | (dsimp only))

theorem headStripe_sound {F : Kept} (e : Extent) (location : Nat) (key : Key512) (xs : List ParcelChange)
    (s : State) (hs : s.Sound F) : State.Sound F (headStripe e location key xs s).2 := by
  unfold headStripe
  try dsimp only
  repeat' (first
      | with_reducible assumption | (with_reducible intro _) | with_reducible apply fetchRecord_sound
      | (with_reducible refine ite_sound ?_ ?_) | (with_reducible refine ite_pair_sound ?_ ?_)
      | (with_reducible refine ite_trip_sound ?_ ?_) | split
      | (refine sound_of_pair (by with_reducible assumption) ?_)
      | (refine sound_of_trip (by with_reducible assumption) ?_)
      | (with_reducible refine sound_upd ?_ rfl rfl rfl rfl rfl rfl rfl rfl) | (dsimp only))

theorem commitRun_sound {F : Kept} (e : Extent) (location : Nat) (key : Key512) (a0 : Nat)
    (a1 : List ParcelChange) (a2 : Status × List Nat × State) (hs : a2.2.2.Sound F) :
    State.Sound F (commitRun e location key a0 a1 a2).2.2 := by
  induction a0 generalizing a1 a2 with
  | zero => exact hs
  | succ n ih =>
    cases a1 with
    | nil => exact hs
    | cons x rest =>
      unfold commitRun
      try dsimp only
      repeat' (first
          | with_reducible assumption | with_reducible apply ih | with_reducible apply commitStripe_sound
          | with_reducible apply headStripe_sound | with_reducible apply commitOne_sound
          | split
          | (refine sound_of_pair (by with_reducible assumption) ?_) | (dsimp only))


theorem trayChange_sound {F : Kept} (e : Extent) (location : Nat) (key : Key512) (off : Nat) (len : Nat)
    (full : Bool) (change : Bytes → Option Bytes) (s : State) (hs : s.Sound F) : State.Sound F
    (trayChange e location key off len full change s).2 := by
  unfold trayChange
  try dsimp only
  repeat' (first
      | with_reducible assumption | (with_reducible intro _) | with_reducible apply commitRun_sound
      | with_reducible apply openParcel_sound | with_reducible apply prefetch_sound
      | (with_reducible apply foldl_sound) | (with_reducible apply foldl_pair_sound)
      | (with_reducible apply foldl_trip_sound) | (with_reducible refine ite_sound ?_ ?_)
      | (with_reducible refine ite_pair_sound ?_ ?_) | (with_reducible refine ite_trip_sound ?_ ?_) | split
      | (refine sound_of_pair (by with_reducible assumption) ?_)
      | (refine sound_of_trip (by with_reducible assumption) ?_)
      | (with_reducible refine sound_upd ?_ rfl rfl rfl rfl rfl rfl rfl rfl) | (dsimp only))

theorem setLoc_sound {F : Kept} (l : Nat) (x : LocState) (s : State) (hs : s.Sound F) : State.Sound F
    (setLoc l x s) := by
  unfold setLoc
  try dsimp only
  repeat' (first
      | with_reducible assumption | (with_reducible refine ite_sound ?_ ?_) | split
      | (with_reducible refine sound_upd ?_ rfl rfl rfl rfl rfl rfl rfl rfl))

theorem clearMaps_sound {F : Kept} (l : Nat) (s : State) (hs : s.Sound F) : State.Sound F (clearMaps l s) := by
  unfold clearMaps
  try dsimp only
  repeat' (first
      | with_reducible assumption | (with_reducible intro _) | with_reducible apply eraseDeltas_sound
      | (with_reducible refine sound_upd ?_ rfl rfl rfl rfl rfl rfl rfl rfl))

theorem initLocation_sound {F : Kept} (l : Nat) (s : State) (hs : s.Sound F) : State.Sound F (initLocation l s) := by
  unfold initLocation
  try dsimp only
  repeat' (first
      | with_reducible assumption | (with_reducible intro _) | with_reducible apply clearMaps_sound
      | with_reducible apply eraseDeltas_sound | split
      | (with_reducible refine sound_upd ?_ rfl rfl rfl rfl rfl rfl rfl rfl))

theorem reclaimLocation_sound {F : Kept} (l : Nat) (s : State) (hs : s.Sound F) : State.Sound F
    (reclaimLocation l s) := by
  unfold reclaimLocation
  try dsimp only
  repeat' (first
      | with_reducible assumption | (with_reducible intro _) | with_reducible apply clearMaps_sound
      | with_reducible apply setLoc_sound | (with_reducible refine sound_upd ?_ rfl rfl rfl rfl rfl rfl rfl rfl))

theorem rekeyPage_sound {F : Kept} (e : Extent) (old : Nat) (new : Nat) (oldKey : Key512) (newKey : Key512)
    (page : Nat) (s : State) (hs : s.Sound F) : State.Sound F (rekeyPage e old new oldKey newKey page s) := by
  unfold rekeyPage
  try dsimp only
  repeat' (first
      | with_reducible assumption | (with_reducible intro _) | with_reducible apply fetchRecord_sound
      | with_reducible apply markPage_sound | with_reducible apply markParcel_sound
      | with_reducible apply parcelBreach_sound | with_reducible apply putParcel_sound
      | with_reducible apply storeRecord_sound | (with_reducible apply foldl_sound)
      | (with_reducible apply foldl_pair_sound) | (with_reducible apply foldl_trip_sound)
      | (with_reducible refine ite_sound ?_ ?_) | (with_reducible refine ite_pair_sound ?_ ?_)
      | (with_reducible refine ite_trip_sound ?_ ?_) | split
      | (refine sound_of_pair (by with_reducible assumption) ?_)
      | (refine sound_of_trip (by with_reducible assumption) ?_)
      | (with_reducible refine sound_upd ?_ rfl rfl rfl rfl rfl rfl rfl rfl) | (dsimp only))

theorem deviceError_sound {F : Kept} (device : Nat) (offset : Nat) (s : State) (hs : s.Sound F) : State.Sound F
    (deviceError device offset s) := by
  unfold deviceError
  try dsimp only
  repeat' (first
      | with_reducible assumption | (with_reducible intro _) | with_reducible apply count_sound
      | with_reducible apply deviceDead_sound | with_reducible apply rawWrite_sound
      | (with_reducible refine ite_sound ?_ ?_) | split
      | (with_reducible refine sound_upd ?_ rfl rfl rfl rfl rfl rfl rfl rfl))

theorem deviceReturned_sound {F : Kept} (device : Nat) (a0 : Nat) (a1 : Nat) (a2 : Bytes) (a3 : State)
    (hs : a3.Sound F) : State.Sound F (deviceReturned device a0 a1 a2 a3) := by
  induction a0 generalizing a1 a2 a3 with
  | zero => 
    unfold deviceReturned
    try dsimp only
    repeat' (first
        | with_reducible assumption | (with_reducible refine ite_sound ?_ ?_)
        | (with_reducible refine ite_pair_sound ?_ ?_) | (with_reducible refine ite_trip_sound ?_ ?_) | split
        | (refine sound_of_pair (by with_reducible assumption) ?_)
        | (refine sound_of_trip (by with_reducible assumption) ?_)
        | (with_reducible refine sound_upd ?_ rfl rfl rfl rfl rfl rfl rfl rfl)
        | (with_reducible refine stackWriteN_upd ?_ rfl rfl rfl rfl rfl rfl rfl rfl)
        | (with_reducible refine devicesWriteN_upd ?_ rfl rfl rfl rfl rfl rfl rfl rfl) | (dsimp only))
  | succ n ih => 
    unfold deviceReturned
    try dsimp only
    repeat' (first
        | with_reducible assumption | with_reducible apply ih | (with_reducible refine ite_sound ?_ ?_)
        | (with_reducible refine ite_pair_sound ?_ ?_) | (with_reducible refine ite_trip_sound ?_ ?_) | split
        | (refine sound_of_pair (by with_reducible assumption) ?_)
        | (refine sound_of_trip (by with_reducible assumption) ?_)
        | (with_reducible refine sound_upd ?_ rfl rfl rfl rfl rfl rfl rfl rfl)
        | (with_reducible refine stackWriteN_upd ?_ rfl rfl rfl rfl rfl rfl rfl rfl)
        | (with_reducible refine devicesWriteN_upd ?_ rfl rfl rfl rfl rfl rfl rfl rfl) | (dsimp only))

theorem rebuildRow_sound {F : Kept} (group : Nat) (k : Nat) (sp : Nat) (x : ParityGroup) (s : State)
    (hs : s.Sound F) : State.Sound F (rebuildRow group k sp x s) := by
  unfold rebuildRow
  try dsimp only
  repeat' (first
      | with_reducible assumption | with_reducible apply count_sound | with_reducible apply rawWrite_sound
      | with_reducible apply setGroup_sound | split
      | (with_reducible refine sound_upd ?_ rfl rfl rfl rfl rfl rfl rfl rfl))

theorem execDeviceFailed_sound {F : Kept} (device : Nat) (s : State) (hs : s.Sound F) : SoundOut F
    (execDeviceFailed device s) := by
  unfold execDeviceFailed
  try dsimp only
  repeat' (first
      | with_reducible exact soundOut_fault | (with_reducible apply soundOut_next)
      | (with_reducible refine soundOut_ite ?_ ?_) | with_reducible assumption | (with_reducible intro _)
      | with_reducible apply deviceDead_sound | (with_reducible refine ite_sound ?_ ?_) | split | (dsimp only))

theorem execDevicePresent_sound {F : Kept} (device : Nat) (s : State) (hs : s.Sound F) : SoundOut F
    (execDevicePresent device s) := by
  unfold execDevicePresent
  try dsimp only
  repeat' (first
      | with_reducible exact soundOut_fault | (with_reducible apply soundOut_next)
      | (with_reducible refine soundOut_ite ?_ ?_) | with_reducible assumption | (with_reducible intro _)
      | (with_reducible refine ite_sound ?_ ?_) | split
      | (with_reducible refine sound_upd ?_ rfl rfl rfl rfl rfl rfl rfl rfl) | (dsimp only))

theorem execRebuildRow_sound {F : Kept} (group : Nat) (s : State) (hs : s.Sound F) : SoundOut F
    (execRebuildRow group s) := by
  unfold execRebuildRow
  try dsimp only
  repeat' (first
      | with_reducible exact soundOut_fault | (with_reducible apply soundOut_next)
      | (with_reducible refine soundOut_ite ?_ ?_) | with_reducible assumption | (with_reducible intro _)
      | with_reducible apply rebuildRow_sound | with_reducible apply withDomain_sound
      | (with_reducible refine ite_sound ?_ ?_) | split
      | (with_reducible refine sound_upd ?_ rfl rfl rfl rfl rfl rfl rfl rfl) | (dsimp only))

theorem execRebuildEnd_sound {F : Kept} (group : Nat) (s : State) (hs : s.Sound F) : SoundOut F
    (execRebuildEnd group s) := by
  unfold execRebuildEnd
  try dsimp only
  repeat' (first
      | with_reducible exact soundOut_fault | (with_reducible apply soundOut_next)
      | (with_reducible refine soundOut_ite ?_ ?_) | with_reducible assumption | (with_reducible intro _)
      | with_reducible apply setGroup_sound | with_reducible apply writeFault_sound
      | (with_reducible refine ite_sound ?_ ?_) | split
      | (with_reducible refine sound_upd ?_ rfl rfl rfl rfl rfl rfl rfl rfl) | (dsimp only))

end Sys2Proof.Machine
end

