-- ==== Sys2Proof/Laws/SoundFauTarget.lean ====
section
/-! SUPPORT. What the operations of Machine/FauTarget.lean keep: memories in canonical form, registers in range, blown
fuses and bounded fault rings (State.Sound). -/

namespace Sys2Proof.Machine

theorem setRecord_sound {F : Kept} (x : SeqRecord) (s : State) (hs : s.Sound F) : State.Sound F (setRecord x s) := by
  unfold setRecord
  try dsimp only
  repeat' (first
      | with_reducible assumption | (with_reducible intro _)
      | (with_reducible refine sound_upd ?_ rfl rfl rfl rfl rfl rfl rfl rfl))

theorem raiseRecord_sound {F : Kept} (r : Released) (s : State) (hs : s.Sound F) : State.Sound F
    (raiseRecord r s) := by
  unfold raiseRecord
  try dsimp only
  repeat' (first
      | with_reducible assumption | (with_reducible intro _) | with_reducible apply countBy_sound
      | with_reducible apply setRecord_sound | (with_reducible refine ite_sound ?_ ?_) | split
      | (with_reducible refine sound_upd ?_ rfl rfl rfl rfl rfl rfl rfl rfl))

theorem setSeen_sound {F : Kept} (r : Released) (s : State) (hs : s.Sound F) : State.Sound F (setSeen r s) := by
  unfold setSeen
  try dsimp only
  repeat' (first
      | with_reducible assumption | with_reducible apply setRecord_sound | split
      | (with_reducible refine sound_upd ?_ rfl rfl rfl rfl rfl rfl rfl rfl))

theorem countRoom_sound {F : Kept} (r : Released) (counted : Bool) (s : State) (hs : s.Sound F) : State.Sound F
    (countRoom r counted s) := by
  unfold countRoom
  try dsimp only
  repeat' (first
      | with_reducible assumption | with_reducible apply count_sound | with_reducible apply wakeAll_sound
      | (with_reducible refine ite_sound ?_ ?_) | (with_reducible refine ite_pair_sound ?_ ?_)
      | (with_reducible refine ite_trip_sound ?_ ?_) | split | (dsimp only))

theorem enterAnswer_sound {F : Kept} (r : Released) (st : Status) (flags : BitVec 6) (old : BitVec 64) (s : State)
    (hs : s.Sound F) : State.Sound F (enterAnswer r st flags old s) := by
  unfold enterAnswer
  try dsimp only
  repeat' (first
      | with_reducible assumption | (with_reducible refine ite_sound ?_ ?_) | split
      | (with_reducible refine sound_upd ?_ rfl rfl rfl rfl rfl rfl rfl rfl))

theorem completeRequest_sound {F : Kept} (r : Released) (st : Status) (flags : BitVec 6) (data : Bytes) (s : State)
    (hs : s.Sound F) : State.Sound F (completeRequest r st flags data s) := by
  unfold completeRequest
  try dsimp only
  repeat' (first
      | with_reducible assumption | with_reducible apply enterAnswer_sound
      | with_reducible apply sendCompletion_sound)

theorem awaitAck_sound {F : Kept} (r : Released) (st : Status) (flags : BitVec 6) (old : BitVec 64) (region : Nat)
    (s : State) (hs : s.Sound F) : State.Sound F (awaitAck r st flags old region s) := by
  unfold awaitAck
  try dsimp only
  repeat' (first | with_reducible assumption | (with_reducible refine sound_upd ?_ rfl rfl rfl rfl rfl rfl rfl rfl))

theorem keyMismatch_sound {F : Kept} (r : Released) (s : State) (hs : s.Sound F) : State.Sound F
    (keyMismatch r s) := by
  unfold keyMismatch
  try dsimp only
  repeat' (first
      | with_reducible assumption | (with_reducible intro _) | with_reducible apply writeFault_sound
      | (with_reducible refine ite_sound ?_ ?_) | split
      | (with_reducible refine sound_upd ?_ rfl rfl rfl rfl rfl rfl rfl rfl))

theorem targetRefused_sound {F : Kept} (r : Released) (check : Byte) (st : Status) (s : State) (hs : s.Sound F) :
    State.Sound F (targetRefused r check st s) := by
  unfold targetRefused
  try dsimp only
  repeat' (first | with_reducible assumption | with_reducible apply writeFault_sound)

theorem beginRevoke_sound {F : Kept} (e : Extent) (expired : Bool) (s : State) (hs : s.Sound F) : State.Sound F
    (beginRevoke e expired s) := by
  unfold beginRevoke
  try dsimp only
  repeat' (first
      | with_reducible assumption | (with_reducible intro _) | with_reducible apply modExtent_sound
      | with_reducible apply writeFault_sound | (with_reducible refine ite_sound ?_ ?_) | split
      | (with_reducible refine sound_upd ?_ rfl rfl rfl rfl rfl rfl rfl rfl))

theorem leaseCheck_sound {F : Kept} (e : Extent) (s : State) (hs : s.Sound F) : State.Sound F (leaseCheck e s).2 := by
  unfold leaseCheck
  try dsimp only
  repeat' (first
      | with_reducible assumption | with_reducible apply beginRevoke_sound | (with_reducible refine ite_sound ?_ ?_)
      | (with_reducible refine ite_pair_sound ?_ ?_) | (with_reducible refine ite_trip_sound ?_ ?_) | split
      | (refine sound_of_pair (by with_reducible assumption) ?_)
      | (refine sound_of_trip (by with_reducible assumption) ?_)
      | (with_reducible refine sound_upd ?_ rfl rfl rfl rfl rfl rfl rfl rfl) | (dsimp only))

theorem lateChecks_sound {F : Kept} (r : Released) (g : Region) (s : State) (hs : s.Sound F) : State.Sound F
    (lateChecks r g s).2 := by
  unfold lateChecks
  try dsimp only
  repeat' (first
      | with_reducible assumption | with_reducible apply targetRefused_sound
      | (with_reducible refine ite_sound ?_ ?_) | (with_reducible refine ite_pair_sound ?_ ?_)
      | (with_reducible refine ite_trip_sound ?_ ?_) | split | (dsimp only))

theorem targetChecks_sound {F : Kept} (r : Released) (admitted : Bool) (s : State) (hs : s.Sound F) : State.Sound F
    (targetChecks r admitted s).2 := by
  unfold targetChecks
  try dsimp only
  repeat' (first
      | with_reducible assumption | with_reducible apply keyMismatch_sound | with_reducible apply lateChecks_sound
      | with_reducible apply leaseCheck_sound | with_reducible apply targetRefused_sound
      | (with_reducible refine ite_sound ?_ ?_) | (with_reducible refine ite_pair_sound ?_ ?_)
      | (with_reducible refine ite_trip_sound ?_ ?_) | split
      | (refine sound_of_pair (by with_reducible assumption) ?_)
      | (refine sound_of_trip (by with_reducible assumption) ?_)
      | (with_reducible refine sound_upd ?_ rfl rfl rfl rfl rfl rfl rfl rfl) | (dsimp only))

theorem pieceStatuses_sound {F : Kept} (p : PolderId) (l : List Lookup) (write : Bool) (reads : Bool) (s : State)
    (hs : s.Sound F) : State.Sound F (pieceStatuses p l write reads s).2 := by
  unfold pieceStatuses
  try dsimp only
  repeat' (first
      | with_reducible assumption | (with_reducible intro _) | with_reducible apply needKey_sound
      | with_reducible apply wakeSlices_sound | with_reducible apply writeFault_sound
      | (with_reducible apply foldl_sound) | (with_reducible apply foldl_pair_sound)
      | (with_reducible apply foldl_trip_sound) | (with_reducible refine ite_sound ?_ ?_)
      | (with_reducible refine ite_pair_sound ?_ ?_) | (with_reducible refine ite_trip_sound ?_ ?_) | split
      | (refine sound_of_pair (by with_reducible assumption) ?_)
      | (refine sound_of_trip (by with_reducible assumption) ?_)
      | (with_reducible refine sound_upd ?_ rfl rfl rfl rfl rfl rfl rfl rfl) | (dsimp only))

theorem stackTargetRead_sound {F : Kept} (p : PolderId) (l : List Lookup) (s : State) (hs : s.Sound F) :
    State.Sound F (stackTargetRead p l s).2 := by
  unfold stackTargetRead
  try dsimp only
  repeat' (first
      | with_reducible assumption | (with_reducible intro _) | with_reducible apply pieceStatuses_sound
      | with_reducible apply stackCount_sound | (with_reducible apply foldl_sound)
      | (with_reducible apply foldl_pair_sound) | (with_reducible apply foldl_trip_sound)
      | (with_reducible refine ite_sound ?_ ?_) | (with_reducible refine ite_pair_sound ?_ ?_)
      | (with_reducible refine ite_trip_sound ?_ ?_) | split
      | (refine sound_of_pair (by with_reducible assumption) ?_)
      | (refine sound_of_trip (by with_reducible assumption) ?_)
      | (with_reducible refine sound_upd ?_ rfl rfl rfl rfl rfl rfl rfl rfl) | (dsimp only))

theorem stackTargetChange_sound {F : Kept} (p : PolderId) (l : List Lookup) (full : Bool)
    (change : Bytes → Option Bytes) (s : State) (hs : s.Sound F) : State.Sound F
    (stackTargetChange p l full change s).2 := by
  unfold stackTargetChange
  try dsimp only
  repeat' (first
      | with_reducible assumption | (with_reducible intro _) | with_reducible apply pieceStatuses_sound
      | with_reducible apply stackCount_sound | with_reducible apply stackWrite_sound
      | (with_reducible apply foldl_sound) | (with_reducible apply foldl_pair_sound)
      | (with_reducible apply foldl_trip_sound) | (with_reducible refine ite_sound ?_ ?_)
      | (with_reducible refine ite_pair_sound ?_ ?_) | (with_reducible refine ite_trip_sound ?_ ?_) | split
      | (refine sound_of_pair (by with_reducible assumption) ?_)
      | (refine sound_of_trip (by with_reducible assumption) ?_)
      | (with_reducible refine sound_upd ?_ rfl rfl rfl rfl rfl rfl rfl rfl) | (dsimp only))

theorem withTray_sound {F : Kept} {α : Type} (access : State → Option α × State) (s : State) (hs : s.Sound F)
    (h_access : ∀ (s : State), s.Sound F → (access s).2.Sound F) : State.Sound F (withTray access s).2 := by
  unfold withTray
  try dsimp only
  repeat' (first
      | with_reducible assumption | with_reducible apply wakeAll_sound | with_reducible apply h_access
      | (with_reducible refine ite_sound ?_ ?_) | (with_reducible refine ite_pair_sound ?_ ?_)
      | (with_reducible refine ite_trip_sound ?_ ?_) | split
      | (refine sound_of_pair (by with_reducible assumption) ?_)
      | (refine sound_of_trip (by with_reducible assumption) ?_)
      | (with_reducible refine sound_upd ?_ rfl rfl rfl rfl rfl rfl rfl rfl) | (dsimp only))

theorem targetRead_sound {F : Kept} (p : PolderId) (g : Region) (off : Nat) (len : Nat) (l : List Lookup)
    (s : State) (hs : s.Sound F) : State.Sound F (targetRead p g off len l s).2 := by
  unfold targetRead
  try dsimp only
  repeat' (first
      | with_reducible assumption | (with_reducible intro _) | with_reducible apply stackTargetRead_sound
      | with_reducible apply trayRead_sound | with_reducible apply withTray_sound
      | (with_reducible refine ite_sound ?_ ?_) | (with_reducible refine ite_pair_sound ?_ ?_)
      | (with_reducible refine ite_trip_sound ?_ ?_) | split
      | (refine sound_of_pair (by with_reducible assumption) ?_)
      | (refine sound_of_trip (by with_reducible assumption) ?_)
      | (with_reducible refine sound_upd ?_ rfl rfl rfl rfl rfl rfl rfl rfl) | (dsimp only))

theorem targetChange_sound {F : Kept} (p : PolderId) (g : Region) (off : Nat) (len : Nat) (full : Bool)
    (l : List Lookup) (change : Bytes → Option Bytes) (s : State) (hs : s.Sound F) : State.Sound F
    (targetChange p g off len full l change s).2 := by
  unfold targetChange
  try dsimp only
  repeat' (first
      | with_reducible assumption | (with_reducible intro _) | with_reducible apply stackTargetChange_sound
      | with_reducible apply trayChange_sound | with_reducible apply withTray_sound
      | (with_reducible refine ite_sound ?_ ?_) | (with_reducible refine ite_pair_sound ?_ ?_)
      | (with_reducible refine ite_trip_sound ?_ ?_) | split
      | (refine sound_of_pair (by with_reducible assumption) ?_)
      | (refine sound_of_trip (by with_reducible assumption) ?_)
      | (with_reducible refine sound_upd ?_ rfl rfl rfl rfl rfl rfl rfl rfl) | (dsimp only))

theorem waitMem_sound {F : Kept} (r : Released) (l : List Lookup) (s : State) (hs : s.Sound F) : State.Sound F
    (waitMem r l s) := by
  unfold waitMem
  try dsimp only
  repeat' (first | with_reducible assumption | (with_reducible refine sound_upd ?_ rfl rfl rfl rfl rfl rfl rfl rfl))

theorem performLoad_sound {F : Kept} (r : Released) (g : Region) (seen : List Lookup) (s : State) (hs : s.Sound F) :
    State.Sound F (performLoad r g seen s) := by
  unfold performLoad
  try dsimp only
  repeat' (first
      | with_reducible assumption | with_reducible apply completeRequest_sound
      | with_reducible apply targetRead_sound | with_reducible apply waitMem_sound
      | (with_reducible refine ite_sound ?_ ?_) | (with_reducible refine ite_pair_sound ?_ ?_)
      | (with_reducible refine ite_trip_sound ?_ ?_) | split
      | (refine sound_of_pair (by with_reducible assumption) ?_)
      | (refine sound_of_trip (by with_reducible assumption) ?_)
      | (with_reducible refine sound_upd ?_ rfl rfl rfl rfl rfl rfl rfl rfl) | (dsimp only))

theorem meterElems_sound {F : Kept} (p : PolderId) (n : Nat) (s : State) (hs : s.Sound F) : State.Sound F
    (meterElems p n s) := by
  unfold meterElems
  try dsimp only
  repeat' (first
      | with_reducible assumption | with_reducible apply meter_sound | (with_reducible refine ite_sound ?_ ?_)
      | split)

theorem performWriteAt_sound {F : Kept} (r : Released) (g : Region) (full : Bool) (new : Bytes → Option Bytes)
    (combined : Bytes → List (Nat × Nat) → BitVec 6 × Nat) (seen : List Lookup) (s : State) (hs : s.Sound F) :
    State.Sound F (performWriteAt r g full new combined seen s) := by
  unfold performWriteAt
  try dsimp only
  repeat' (first
      | with_reducible assumption | with_reducible apply awaitAck_sound | with_reducible apply enterAnswer_sound
      | with_reducible apply meterElems_sound | with_reducible apply sendCompletion_sound
      | with_reducible apply targetChange_sound | with_reducible apply waitMem_sound
      | (with_reducible refine ite_sound ?_ ?_) | (with_reducible refine ite_pair_sound ?_ ?_)
      | (with_reducible refine ite_trip_sound ?_ ?_) | split
      | (refine sound_of_pair (by with_reducible assumption) ?_)
      | (refine sound_of_trip (by with_reducible assumption) ?_)
      | (with_reducible refine sound_upd ?_ rfl rfl rfl rfl rfl rfl rfl rfl) | (dsimp only))

theorem performReduce_sound {F : Kept} (r : Released) (g : Region) (seen : List Lookup) (s : State)
    (hs : s.Sound F) : State.Sound F (performReduce r g seen s) := by
  unfold performReduce
  try dsimp only
  repeat' (first
      | with_reducible assumption | (with_reducible intro _) | with_reducible apply performWriteAt_sound | split)

theorem performOn_sound {F : Kept} (r : Released) (g : Region) (seen : List Lookup) (s : State) (hs : s.Sound F) :
    State.Sound F (performOn r g seen s) := by
  unfold performOn
  try dsimp only
  repeat' (first
      | with_reducible assumption | (with_reducible intro _) | with_reducible apply performLoad_sound
      | with_reducible apply performReduce_sound | with_reducible apply performWriteAt_sound | split
      | (with_reducible refine sound_upd ?_ rfl rfl rfl rfl rfl rfl rfl rfl))

theorem applySignal_sound {F : Kept} (r : Released) (g : Region) (s : State) (hs : s.Sound F) : State.Sound F
    (applySignal r g s).2 := by
  unfold applySignal
  try dsimp only
  repeat' (first
      | with_reducible assumption | with_reducible apply changeSync_sound | with_reducible apply syncFault_sound
      | with_reducible apply targetRefused_sound | (with_reducible refine ite_sound ?_ ?_)
      | (with_reducible refine ite_pair_sound ?_ ?_) | (with_reducible refine ite_trip_sound ?_ ?_) | split
      | (refine sound_of_pair (by with_reducible assumption) ?_)
      | (refine sound_of_trip (by with_reducible assumption) ?_)
      | (with_reducible refine sound_upd ?_ rfl rfl rfl rfl rfl rfl rfl rfl) | (dsimp only))

theorem answerSignal_sound {F : Kept} (r : Released) (s : State) (hs : s.Sound F) : State.Sound F
    (answerSignal r s) := by
  unfold answerSignal
  try dsimp only
  repeat' (first
      | with_reducible assumption | with_reducible apply applySignal_sound
      | with_reducible apply completeRequest_sound | (with_reducible refine ite_pair_sound ?_ ?_)
      | (with_reducible refine ite_trip_sound ?_ ?_) | split
      | (refine sound_of_pair (by with_reducible assumption) ?_)
      | (refine sound_of_trip (by with_reducible assumption) ?_)
      | (with_reducible refine sound_upd ?_ rfl rfl rfl rfl rfl rfl rfl rfl) | (dsimp only))

theorem holdRequest_sound {F : Kept} (r : Released) (s : State) (hs : s.Sound F) : State.Sound F
    (holdRequest r s) := by
  unfold holdRequest
  try dsimp only
  repeat' (first
      | with_reducible assumption | with_reducible apply count_sound | (with_reducible refine ite_sound ?_ ?_)
      | split | (with_reducible refine sound_upd ?_ rfl rfl rfl rfl rfl rfl rfl rfl))

theorem signalServed_sound {F : Kept} (r : Released) (s : State) (hs : s.Sound F) : State.Sound F
    (signalServed r s).2 := by
  unfold signalServed
  try dsimp only
  repeat' (first
      | with_reducible assumption | with_reducible apply wakeAll_sound
      | (with_reducible refine ite_pair_sound ?_ ?_) | (with_reducible refine ite_trip_sound ?_ ?_) | (dsimp only))

theorem meetSignal_sound {F : Kept} (r : Released) (s : State) (hs : s.Sound F) : State.Sound F (meetSignal r s) := by
  unfold meetSignal
  try dsimp only
  repeat' (first
      | with_reducible assumption | with_reducible apply answerSignal_sound | with_reducible apply holdRequest_sound
      | with_reducible apply signalServed_sound | (with_reducible refine ite_pair_sound ?_ ?_)
      | (with_reducible refine ite_trip_sound ?_ ?_) | split
      | (refine sound_of_pair (by with_reducible assumption) ?_)
      | (refine sound_of_trip (by with_reducible assumption) ?_)
      | (with_reducible refine sound_upd ?_ rfl rfl rfl rfl rfl rfl rfl rfl) | (dsimp only))

theorem performRequest_sound {F : Kept} (r : Released) (admitted : Bool) (s : State) (hs : s.Sound F) :
    State.Sound F (performRequest r admitted s) := by
  unfold performRequest
  try dsimp only
  repeat' (first
      | with_reducible assumption | with_reducible apply completeRequest_sound
      | with_reducible apply holdRequest_sound | with_reducible apply meetSignal_sound
      | with_reducible apply performOn_sound | with_reducible apply targetChecks_sound
      | with_reducible apply targetRefused_sound | (with_reducible refine ite_sound ?_ ?_)
      | (with_reducible refine ite_pair_sound ?_ ?_) | (with_reducible refine ite_trip_sound ?_ ?_) | split
      | (refine sound_of_pair (by with_reducible assumption) ?_)
      | (refine sound_of_trip (by with_reducible assumption) ?_)
      | (with_reducible refine sound_upd ?_ rfl rfl rfl rfl rfl rfl rfl rfl) | (dsimp only))

theorem answerAgain_sound {F : Kept} (r : Released) (s : State) (hs : s.Sound F) : State.Sound F
    (answerAgain r s) := by
  unfold answerAgain
  try dsimp only
  repeat' (first
      | with_reducible assumption | (with_reducible intro _) | with_reducible apply count_sound
      | with_reducible apply performRequest_sound | with_reducible apply sendCompletion_sound
      | (with_reducible refine ite_sound ?_ ?_) | split
      | (with_reducible refine sound_upd ?_ rfl rfl rfl rfl rfl rfl rfl rfl))

theorem performWait_sound {F : Kept} (w : MemWait) (s : State) (hs : s.Sound F) : State.Sound F
    (performWait w s) := by
  unfold performWait
  try dsimp only
  repeat' (first
      | with_reducible assumption | with_reducible apply completeRequest_sound
      | with_reducible apply performOn_sound | with_reducible apply performRequest_sound
      | (with_reducible refine ite_sound ?_ ?_) | split
      | (with_reducible refine sound_upd ?_ rfl rfl rfl rfl rfl rfl rfl rfl))

theorem retryMemWait_sound {F : Kept} (s : State) (hs : s.Sound F) : State.Sound F (retryMemWait s) := by
  unfold retryMemWait
  try dsimp only
  repeat' (first
      | with_reducible assumption | (with_reducible intro _) | with_reducible apply countRoom_sound
      | with_reducible apply performWait_sound | (with_reducible apply foldl_sound)
      | (with_reducible refine ite_sound ?_ ?_) | split
      | (with_reducible refine sound_upd ?_ rfl rfl rfl rfl rfl rfl rfl rfl) | (dsimp only))

theorem serveRequest_sound {F : Kept} (r : Released) (s : State) (hs : s.Sound F) : State.Sound F
    (serveRequest r s) := by
  unfold serveRequest
  try dsimp only
  repeat' (first
      | with_reducible assumption | with_reducible apply answerAgain_sound | with_reducible apply count_sound
      | with_reducible apply countRoom_sound | with_reducible apply dropReleased_sound
      | with_reducible apply performRequest_sound | with_reducible apply raiseRecord_sound
      | with_reducible apply retryMemWait_sound | with_reducible apply setSeen_sound
      | with_reducible apply signalServed_sound | (with_reducible refine ite_sound ?_ ?_)
      | (with_reducible refine ite_pair_sound ?_ ?_) | (with_reducible refine ite_trip_sound ?_ ?_) | split
      | (refine sound_of_pair (by with_reducible assumption) ?_)
      | (refine sound_of_trip (by with_reducible assumption) ?_)
      | (with_reducible refine sound_upd ?_ rfl rfl rfl rfl rfl rfl rfl rfl) | (dsimp only))

theorem withFau_sound {F : Kept} (serve : State → State) (s : State) (hs : s.Sound F)
    (h_serve : ∀ s : State, s.Sound F → (serve s).Sound F) : State.Sound F (withFau serve s) := by
  unfold withFau
  try dsimp only
  repeat' (first
      | with_reducible assumption | (with_reducible intro _) | with_reducible apply withDomain_sound
      | with_reducible apply h_serve | (with_reducible refine ite_sound ?_ ?_) | split
      | (with_reducible refine sound_upd ?_ rfl rfl rfl rfl rfl rfl rfl rfl))

theorem removeRegion_sound {F : Kept} (g : Region) (s : State) (hs : s.Sound F) : State.Sound F
    (removeRegion g s) := by
  unfold removeRegion
  try dsimp only
  repeat' (first
      | with_reducible assumption | (with_reducible intro _)
      | (with_reducible refine sound_upd ?_ rfl rfl rfl rfl rfl rfl rfl rfl))

theorem releaseHold_sound {F : Kept} (h : Held) (s : State) (hs : s.Sound F) : State.Sound F (releaseHold h s) := by
  unfold releaseHold
  try dsimp only
  repeat' (first
      | with_reducible assumption | (with_reducible intro _) | with_reducible apply answerSignal_sound
      | with_reducible apply completeRequest_sound | with_reducible apply countRoom_sound
      | with_reducible apply signalServed_sound | (with_reducible refine ite_sound ?_ ?_)
      | (with_reducible refine ite_pair_sound ?_ ?_) | (with_reducible refine ite_trip_sound ?_ ?_) | split
      | (refine sound_of_pair (by with_reducible assumption) ?_)
      | (refine sound_of_trip (by with_reducible assumption) ?_)
      | (with_reducible refine sound_upd ?_ rfl rfl rfl rfl rfl rfl rfl rfl) | (dsimp only))

theorem acknowledged_sound {F : Kept} (u : Unacked) (s : State) (hs : s.Sound F) : State.Sound F
    (acknowledged u s) := by
  unfold acknowledged
  try dsimp only
  repeat' (first
      | with_reducible assumption | (with_reducible intro _) | with_reducible apply countRoom_sound
      | with_reducible apply enterAnswer_sound | with_reducible apply sendCompletion_sound
      | (with_reducible refine ite_sound ?_ ?_) | split
      | (with_reducible refine sound_upd ?_ rfl rfl rfl rfl rfl rfl rfl rfl))

theorem retryAnswerRoom_sound {F : Kept} (s : State) (hs : s.Sound F) : State.Sound F (retryAnswerRoom s) := by
  unfold retryAnswerRoom
  try dsimp only
  repeat' (first
      | with_reducible assumption | (with_reducible intro _) | with_reducible apply acknowledged_sound
      | with_reducible apply releaseHold_sound | (with_reducible apply foldl_sound)
      | (with_reducible refine ite_sound ?_ ?_) | split | (dsimp only))

theorem execRegionWithdrawDrained_sound {F : Kept} (index : BitVec 14) (s : State) (hs : s.Sound F) : SoundOut F
    (execRegionWithdrawDrained index s) := by
  unfold execRegionWithdrawDrained
  try dsimp only
  repeat' (first
      | with_reducible exact soundOut_fault | (with_reducible apply soundOut_next)
      | (with_reducible refine soundOut_ite ?_ ?_) | with_reducible assumption | (with_reducible intro _)
      | with_reducible apply finishAll_sound | with_reducible apply removeRegion_sound
      | with_reducible apply settleMemobjs_sound | (with_reducible refine ite_sound ?_ ?_) | split
      | (with_reducible refine sound_upd ?_ rfl rfl rfl rfl rfl rfl rfl rfl) | (dsimp only))

end Sys2Proof.Machine
end

