-- ==== Sys2Proof/Laws/SoundGroups.lean ====
section
/-! SUPPORT. What the operations of Machine/Groups.lean keep: memories in canonical form, registers in range, blown
fuses and bounded fault rings (State.Sound). -/

namespace Sys2Proof.Machine

theorem modColl_sound {F : Kept} (f : Coll → Coll) (s : State) (hs : s.Sound F) : State.Sound F (modColl f s) := by
  unfold modColl
  try dsimp only
  repeat' (first | with_reducible assumption | (with_reducible refine sound_upd ?_ rfl rfl rfl rfl rfl rfl rfl rfl))

theorem modGroup_sound {F : Kept} (p : PolderId) (id : BitVec 16) (f : Group → Group) (s : State) (hs : s.Sound F) :
    State.Sound F (modGroup p id f s) := by
  unfold modGroup
  try dsimp only
  repeat' (first
      | with_reducible assumption | (with_reducible intro _) | with_reducible apply modColl_sound
      | (with_reducible refine sound_upd ?_ rfl rfl rfl rfl rfl rfl rfl rfl))

theorem groupUsable_sound {F : Kept} (p : PolderId) (id : BitVec 16) (s : State) (hs : s.Sound F) : State.Sound F
    (groupUsable p id s) := by
  unfold groupUsable
  try dsimp only
  repeat' (first
      | with_reducible assumption | (with_reducible intro _) | with_reducible apply modGroup_sound
      | (with_reducible apply id_sound) | (with_reducible refine sound_upd ?_ rfl rfl rfl rfl rfl rfl rfl rfl))

theorem removeGroup_sound {F : Kept} (g : Group) (s : State) (hs : s.Sound F) : State.Sound F (removeGroup g s) := by
  unfold removeGroup
  try dsimp only
  repeat' (first
      | with_reducible assumption | (with_reducible intro _) | with_reducible apply dropMarks_sound
      | with_reducible apply modColl_sound | (with_reducible refine sound_upd ?_ rfl rfl rfl rfl rfl rfl rfl rfl))

theorem settleGroups_sound {F : Kept} (s : State) (hs : s.Sound F) : State.Sound F (settleGroups s) := by
  unfold settleGroups
  try dsimp only
  repeat' (first
      | with_reducible assumption | (with_reducible intro _) | with_reducible apply finishAll_sound
      | with_reducible apply removeGroup_sound | (with_reducible apply foldl_sound) | (dsimp only))

theorem collectiveGroupDefineCmd_sound {F : Kept} (bad : Bool) (o : Origin) (tag : BitVec 32) (mark : Datum)
    (desc : Bytes) (s : State) (hs : s.Sound F) : State.Sound F
    (collectiveGroupDefineCmd bad o tag mark desc s) := by
  unfold collectiveGroupDefineCmd
  try dsimp only
  repeat' (first
      | with_reducible assumption | (with_reducible intro _) | with_reducible apply countLate_sound
      | with_reducible apply enqueueMark_sound | with_reducible apply groupUsable_sound
      | with_reducible apply modColl_sound | with_reducible apply reply_sound | with_reducible apply runCmd_sound
      | split | (with_reducible refine sound_upd ?_ rfl rfl rfl rfl rfl rfl rfl rfl))

theorem execCollectiveGroupDefine_sound {F : Kept} (o : Origin) (tag : BitVec 32) (mark : Datum) (desc : Bytes)
    (s : State) (hs : s.Sound F) : SoundOut F (execCollectiveGroupDefine o tag mark desc s) := by
  unfold execCollectiveGroupDefine
  try dsimp only
  repeat' (first
      | with_reducible exact soundOut_fault | (with_reducible apply soundOut_next)
      | (with_reducible refine soundOut_ite ?_ ?_) | with_reducible assumption | (with_reducible intro _)
      | with_reducible apply collectiveGroupDefineCmd_sound | (dsimp only))

theorem collectiveGroupDestroyCmd_sound {F : Kept} (bad : Bool) (o : Origin) (tag : BitVec 32) (polder : PolderId)
    (group : BitVec 16) (s : State) (hs : s.Sound F) : State.Sound F
    (collectiveGroupDestroyCmd bad o tag polder group s) := by
  unfold collectiveGroupDestroyCmd
  try dsimp only
  repeat' (first
      | with_reducible assumption | (with_reducible intro _) | with_reducible apply modGroup_sound
      | with_reducible apply pend_sound | with_reducible apply runCmd_sound
      | with_reducible apply settleGroups_sound
      | (with_reducible refine sound_upd ?_ rfl rfl rfl rfl rfl rfl rfl rfl))

theorem execCollectiveGroupDestroy_sound {F : Kept} (o : Origin) (tag : BitVec 32) (polder : PolderId)
    (group : BitVec 16) (s : State) (hs : s.Sound F) : SoundOut F
    (execCollectiveGroupDestroy o tag polder group s) := by
  unfold execCollectiveGroupDestroy
  try dsimp only
  repeat' (first
      | with_reducible exact soundOut_fault | (with_reducible apply soundOut_next)
      | (with_reducible refine soundOut_ite ?_ ?_) | with_reducible assumption | (with_reducible intro _)
      | with_reducible apply collectiveGroupDestroyCmd_sound | (dsimp only))

theorem groupQueryCmd_sound {F : Kept} (bad : Bool) (o : Origin) (tag : BitVec 32) (polder : PolderId)
    (group : BitVec 16) (s : State) (hs : s.Sound F) : State.Sound F (groupQueryCmd bad o tag polder group s) := by
  unfold groupQueryCmd
  try dsimp only
  repeat' (first
      | with_reducible assumption | (with_reducible intro _) | with_reducible apply reply_sound
      | with_reducible apply runCmd_sound | split
      | (with_reducible refine sound_upd ?_ rfl rfl rfl rfl rfl rfl rfl rfl))

theorem execGroupQuery_sound {F : Kept} (o : Origin) (tag : BitVec 32) (polder : PolderId) (group : BitVec 16)
    (s : State) (hs : s.Sound F) : SoundOut F (execGroupQuery o tag polder group s) := by
  unfold execGroupQuery
  try dsimp only
  repeat' (first
      | with_reducible exact soundOut_fault | (with_reducible apply soundOut_next)
      | (with_reducible refine soundOut_ite ?_ ?_) | with_reducible assumption | (with_reducible intro _)
      | with_reducible apply groupQueryCmd_sound | (dsimp only))

theorem mcastGroupJoinCmd_sound {F : Kept} (bad : Bool) (o : Origin) (tag : BitVec 32) (polder : PolderId)
    (group : InstId) (members : BitVec 8192) (s : State) (hs : s.Sound F) : State.Sound F
    (mcastGroupJoinCmd bad o tag polder group members s) := by
  unfold mcastGroupJoinCmd
  try dsimp only
  repeat' (first
      | with_reducible assumption | (with_reducible intro _) | with_reducible apply reply_sound
      | with_reducible apply runCmd_sound | split
      | (with_reducible refine sound_upd ?_ rfl rfl rfl rfl rfl rfl rfl rfl))

theorem execMcastGroupJoin_sound {F : Kept} (o : Origin) (tag : BitVec 32) (polder : PolderId) (group : InstId)
    (members : BitVec 8192) (s : State) (hs : s.Sound F) : SoundOut F
    (execMcastGroupJoin o tag polder group members s) := by
  unfold execMcastGroupJoin
  try dsimp only
  repeat' (first
      | with_reducible exact soundOut_fault | (with_reducible apply soundOut_next)
      | (with_reducible refine soundOut_ite ?_ ?_) | with_reducible assumption | (with_reducible intro _)
      | with_reducible apply mcastGroupJoinCmd_sound | (dsimp only))

theorem leaveGroup_sound {F : Kept} (polder : PolderId) (group : InstId) (s : State) (hs : s.Sound F) :
    State.Sound F (leaveGroup polder group s) := by
  unfold leaveGroup
  try dsimp only
  repeat' (first
      | with_reducible assumption | (with_reducible intro _) | split
      | (with_reducible refine sound_upd ?_ rfl rfl rfl rfl rfl rfl rfl rfl))

theorem mcastGroupLeaveCmd_sound {F : Kept} (bad : Bool) (o : Origin) (tag : BitVec 32) (polder : PolderId)
    (group : InstId) (s : State) (hs : s.Sound F) : State.Sound F
    (mcastGroupLeaveCmd bad o tag polder group s) := by
  unfold mcastGroupLeaveCmd
  try dsimp only
  repeat' (first
      | with_reducible assumption | (with_reducible intro _) | with_reducible apply leaveGroup_sound
      | with_reducible apply reply_sound | with_reducible apply runCmd_sound | split)

theorem execMcastGroupLeave_sound {F : Kept} (o : Origin) (tag : BitVec 32) (polder : PolderId) (group : InstId)
    (s : State) (hs : s.Sound F) : SoundOut F (execMcastGroupLeave o tag polder group s) := by
  unfold execMcastGroupLeave
  try dsimp only
  repeat' (first
      | with_reducible exact soundOut_fault | (with_reducible apply soundOut_next)
      | (with_reducible refine soundOut_ite ?_ ?_) | with_reducible assumption | (with_reducible intro _)
      | with_reducible apply mcastGroupLeaveCmd_sound | (dsimp only))

theorem dropMalformed_sound {F : Kept} (r : Released) (s : State) (hs : s.Sound F) : State.Sound F
    (dropMalformed r s) := by
  unfold dropMalformed
  try dsimp only
  repeat' (first
      | with_reducible assumption | (with_reducible intro _) | with_reducible apply modPolderCounters_sound
      | (with_reducible refine sound_upd ?_ rfl rfl rfl rfl rfl rfl rfl rfl))

theorem admitColl_sound {F : Kept} (r : Released) (open_ : Bool) (s : State) (hs : s.Sound F) : State.Sound F
    (admitColl r open_ s).2 := by
  unfold admitColl
  try dsimp only
  repeat' (first
      | with_reducible assumption | with_reducible apply dropMalformed_sound
      | (with_reducible refine ite_sound ?_ ?_) | (with_reducible refine ite_pair_sound ?_ ?_)
      | (with_reducible refine ite_trip_sound ?_ ?_) | split
      | (refine sound_of_pair (by with_reducible assumption) ?_)
      | (refine sound_of_trip (by with_reducible assumption) ?_)
      | (with_reducible refine sound_upd ?_ rfl rfl rfl rfl rfl rfl rfl rfl) | (dsimp only))

theorem serveColl_sound {F : Kept} (up : Bool) (type : BitVec 4) (barrier : Bool)
    (serve : Group → Released → State → State) (s : State) (hs : s.Sound F) (h_serve : ∀ x0 x1
    (s : State), s.Sound F → (serve x0 x1 s).Sound F) : State.Sound F (serveColl up type barrier serve s) := by
  unfold serveColl
  try dsimp only
  repeat' (first
      | with_reducible assumption | (with_reducible intro _) | with_reducible apply admitColl_sound
      | with_reducible apply dropReleased_sound | with_reducible apply withDomains_sound
      | with_reducible apply h_serve | (with_reducible refine ite_sound ?_ ?_)
      | (with_reducible refine ite_pair_sound ?_ ?_) | (with_reducible refine ite_trip_sound ?_ ?_) | split
      | (refine sound_of_pair (by with_reducible assumption) ?_)
      | (refine sound_of_trip (by with_reducible assumption) ?_)
      | (with_reducible refine sound_upd ?_ rfl rfl rfl rfl rfl rfl rfl rfl) | (dsimp only))

theorem recordLate_sound {F : Kept} (p : PolderId) (i : InstId) (first : Datum) (step : Option (BitVec 64))
    (s : State) (hs : s.Sound F) : State.Sound F (recordLate p i first step s) := by
  unfold recordLate
  try dsimp only
  repeat' (first
      | with_reducible assumption | (with_reducible intro _) | with_reducible apply modColl_sound
      | (with_reducible refine ite_sound ?_ ?_) | split
      | (with_reducible refine sound_upd ?_ rfl rfl rfl rfl rfl rfl rfl rfl))

end Sys2Proof.Machine
end

