-- ==== Sys2Proof/Laws/SoundColl.lean ====
section
/-! SUPPORT. What the operations of Machine/Coll.lean keep: memories in canonical form, registers in range, blown
fuses and bounded fault rings (State.Sound). -/

namespace Sys2Proof.Machine

theorem sendTracked_sound {F : Kept} (k : TxPacket) (id : BitVec 32) (below : Nat) (s : State) (hs : s.Sound F) :
    State.Sound F (sendTracked k id below s).2 := by
  unfold sendTracked
  try dsimp only
  repeat' (first
      | with_reducible assumption | (with_reducible intro _) | with_reducible apply modColl_sound
      | with_reducible apply sendPacket_sound | (with_reducible apply id_sound)
      | (with_reducible refine ite_pair_sound ?_ ?_) | (with_reducible refine ite_trip_sound ?_ ?_) | split
      | (refine sound_of_pair (by with_reducible assumption) ?_)
      | (refine sound_of_trip (by with_reducible assumption) ?_)
      | (with_reducible refine sound_upd ?_ rfl rfl rfl rfl rfl rfl rfl rfl) | (dsimp only))

theorem sendAll_sound {F : Kept} (id : BitVec 32) (a0 : List (TxPacket × Nat)) (a1 : State) (hs : a1.Sound F) :
    State.Sound F (sendAll id a0 a1).2 := by
  induction a0 generalizing a1 with
  | nil => 
    unfold sendAll
    try dsimp only
    repeat' (first
        | with_reducible assumption | with_reducible apply sendTracked_sound | (with_reducible apply id_sound)
        | (with_reducible refine ite_pair_sound ?_ ?_) | (with_reducible refine ite_trip_sound ?_ ?_) | split
        | (refine sound_of_pair (by with_reducible assumption) ?_)
        | (refine sound_of_trip (by with_reducible assumption) ?_)
        | (with_reducible refine sound_upd ?_ rfl rfl rfl rfl rfl rfl rfl rfl) | (dsimp only))
  | cons x l ih => 
    unfold sendAll
    try dsimp only
    repeat' (first
        | with_reducible assumption | with_reducible apply sendTracked_sound | with_reducible apply ih
        | (with_reducible apply id_sound) | (with_reducible refine ite_pair_sound ?_ ?_)
        | (with_reducible refine ite_trip_sound ?_ ?_) | split
        | (refine sound_of_pair (by with_reducible assumption) ?_)
        | (refine sound_of_trip (by with_reducible assumption) ?_)
        | (with_reducible refine sound_upd ?_ rfl rfl rfl rfl rfl rfl rfl rfl) | (dsimp only))

theorem sendEach_sound {F : Kept}  (a0 : List TxPacket) (a1 : State) (hs : a1.Sound F) : State.Sound F
    (sendEach a0 a1).2 := by
  induction a0 generalizing a1 with
  | nil => 
    unfold sendEach
    try dsimp only
    repeat' (first
        | with_reducible assumption | with_reducible apply sendPacket_sound
        | (with_reducible refine ite_pair_sound ?_ ?_) | (with_reducible refine ite_trip_sound ?_ ?_) | split
        | (refine sound_of_pair (by with_reducible assumption) ?_)
        | (refine sound_of_trip (by with_reducible assumption) ?_)
        | (with_reducible refine sound_upd ?_ rfl rfl rfl rfl rfl rfl rfl rfl) | (dsimp only))
  | cons x l ih => 
    unfold sendEach
    try dsimp only
    repeat' (first
        | with_reducible assumption | with_reducible apply sendPacket_sound | with_reducible apply ih
        | (with_reducible refine ite_pair_sound ?_ ?_) | (with_reducible refine ite_trip_sound ?_ ?_) | split
        | (refine sound_of_pair (by with_reducible assumption) ?_)
        | (refine sound_of_trip (by with_reducible assumption) ?_)
        | (with_reducible refine sound_upd ?_ rfl rfl rfl rfl rfl rfl rfl rfl) | (dsimp only))

theorem clearSent_sound {F : Kept} (p : PolderId) (id : BitVec 32) (through : Nat) (credit : Nat) (s : State)
    (hs : s.Sound F) : State.Sound F (clearSent p id through credit s) := by
  unfold clearSent
  try dsimp only
  repeat' (first
      | with_reducible assumption | (with_reducible intro _) | with_reducible apply modColl_sound
      | (with_reducible apply id_sound) | (with_reducible refine sound_upd ?_ rfl rfl rfl rfl rfl rfl rfl rfl))

theorem forgetPackets_sound {F : Kept} (p : PolderId) (id : BitVec 32) (s : State) (hs : s.Sound F) : State.Sound F
    (forgetPackets p id s) := by
  unfold forgetPackets
  try dsimp only
  repeat' (first
      | with_reducible assumption | (with_reducible intro _) | with_reducible apply modColl_sound
      | (with_reducible apply id_sound) | (with_reducible refine sound_upd ?_ rfl rfl rfl rfl rfl rfl rfl rfl))

theorem setPart_sound {F : Kept} (c : Participant) (s : State) (hs : s.Sound F) : State.Sound F (setPart c s) := by
  unfold setPart
  try dsimp only
  repeat' (first
      | with_reducible assumption | (with_reducible intro _) | with_reducible apply modColl_sound
      | (with_reducible refine sound_upd ?_ rfl rfl rfl rfl rfl rfl rfl rfl))

theorem traceColl_sound {F : Kept} (ended : Bool) (l : Launch) (c : Option CtxId) (st : Status) (s : State)
    (hs : s.Sound F) : State.Sound F (traceColl ended l c st s) := by
  unfold traceColl
  try dsimp only
  repeat' (first | with_reducible assumption | with_reducible apply emitTrace_sound | split)

theorem completePart_sound {F : Kept} (c : Participant) (st : Status) (result : Nat) (flags : BitVec 6) (s : State)
    (hs : s.Sound F) : State.Sound F (completePart c st result flags s) := by
  unfold completePart
  try dsimp only
  repeat' (first
      | with_reducible assumption | (with_reducible intro _) | with_reducible apply count_sound
      | with_reducible apply dropMarks_sound | with_reducible apply endDescriptor_sound
      | with_reducible apply forgetPackets_sound | with_reducible apply modColl_sound
      | with_reducible apply settleGroups_sound | with_reducible apply traceColl_sound
      | (with_reducible refine ite_sound ?_ ?_) | split
      | (with_reducible refine sound_upd ?_ rfl rfl rfl rfl rfl rfl rfl rfl))

theorem sendAbort_sound {F : Kept} (g : Group) (id : BitVec 32) (cls : BitVec 4) (m : BitVec 16) (node : Option Nat)
    (st : Status) (inst : InstId) (s : State) (hs : s.Sound F) : State.Sound F
    (sendAbort g id cls m node st inst s) := by
  unfold sendAbort
  try dsimp only
  repeat' (first
      | with_reducible assumption | (with_reducible intro _) | with_reducible apply sendQuietly_sound
      | (with_reducible apply id_sound) | (with_reducible refine ite_sound ?_ ?_) | split
      | (with_reducible refine sound_upd ?_ rfl rfl rfl rfl rfl rfl rfl rfl))

theorem abortPart_sound {F : Kept} (c : Participant) (st : Status) (s : State) (hs : s.Sound F) : State.Sound F
    (abortPart c st s) := by
  unfold abortPart
  try dsimp only
  repeat' (first
      | with_reducible assumption | with_reducible apply completePart_sound | with_reducible apply sendAbort_sound
      | split | (with_reducible refine sound_upd ?_ rfl rfl rfl rfl rfl rfl rfl rfl))

theorem readSource_sound {F : Kept} (c : Participant) (off : Nat) (len : Nat) (s : State) (hs : s.Sound F) :
    State.Sound F (readSource c off len s).2.2 := by
  unfold readSource
  try dsimp only
  repeat' (first
      | with_reducible assumption | with_reducible apply localCheck_sound | with_reducible apply stackCount_sound
      | (with_reducible refine ite_pair_sound ?_ ?_) | (with_reducible refine ite_trip_sound ?_ ?_) | split
      | (refine sound_of_pair (by with_reducible assumption) ?_)
      | (refine sound_of_trip (by with_reducible assumption) ?_)
      | (with_reducible refine sound_upd ?_ rfl rfl rfl rfl rfl rfl rfl rfl) | (dsimp only))

theorem pumpData_sound {F : Kept} (g : Group) (rank : Nat) (a0 : Nat) (a1 : Participant) (a2 : State)
    (hs : a2.Sound F) : State.Sound F (pumpData g rank a0 a1 a2) := by
  induction a0 generalizing a1 a2 with
  | zero => 
    unfold pumpData
    try dsimp only
    repeat' (first
        | with_reducible assumption | with_reducible apply abortPart_sound | with_reducible apply readSource_sound
        | with_reducible apply sendTracked_sound | with_reducible apply setPart_sound
        | (with_reducible refine ite_sound ?_ ?_) | (with_reducible refine ite_pair_sound ?_ ?_)
        | (with_reducible refine ite_trip_sound ?_ ?_) | split
        | (refine sound_of_pair (by with_reducible assumption) ?_)
        | (refine sound_of_trip (by with_reducible assumption) ?_)
        | (with_reducible refine sound_upd ?_ rfl rfl rfl rfl rfl rfl rfl rfl) | (dsimp only))
  | succ n ih => 
    unfold pumpData
    try dsimp only
    repeat' (first
        | with_reducible assumption | with_reducible apply abortPart_sound | with_reducible apply readSource_sound
        | with_reducible apply sendTracked_sound | with_reducible apply setPart_sound | with_reducible apply ih
        | (with_reducible refine ite_sound ?_ ?_) | (with_reducible refine ite_pair_sound ?_ ?_)
        | (with_reducible refine ite_trip_sound ?_ ?_) | split
        | (refine sound_of_pair (by with_reducible assumption) ?_)
        | (refine sound_of_trip (by with_reducible assumption) ?_)
        | (with_reducible refine sound_upd ?_ rfl rfl rfl rfl rfl rfl rfl rfl) | (dsimp only))

theorem pumpPart_sound {F : Kept} (p : PolderId) (id : BitVec 32) (s : State) (hs : s.Sound F) : State.Sound F
    (pumpPart p id s) := by
  unfold pumpPart
  try dsimp only
  repeat' (first
      | with_reducible assumption | (with_reducible intro _) | with_reducible apply abortPart_sound
      | with_reducible apply pumpData_sound | with_reducible apply readSource_sound
      | with_reducible apply sendAll_sound | with_reducible apply sendTracked_sound
      | with_reducible apply setPart_sound | with_reducible apply traceColl_sound | (with_reducible apply id_sound)
      | (with_reducible refine ite_sound ?_ ?_) | (with_reducible refine ite_pair_sound ?_ ?_)
      | (with_reducible refine ite_trip_sound ?_ ?_) | split
      | (refine sound_of_pair (by with_reducible assumption) ?_)
      | (refine sound_of_trip (by with_reducible assumption) ?_)
      | (with_reducible refine sound_upd ?_ rfl rfl rfl rfl rfl rfl rfl rfl) | (dsimp only))

theorem fireLaunch_sound {F : Kept} (p : PolderId) (id : BitVec 32) (s : State) (hs : s.Sound F) : State.Sound F
    (fireLaunch p id s) := by
  unfold fireLaunch
  try dsimp only
  repeat' (first
      | with_reducible assumption | with_reducible apply pumpPart_sound | with_reducible apply setPart_sound
      | (with_reducible apply id_sound) | split
      | (with_reducible refine sound_upd ?_ rfl rfl rfl rfl rfl rfl rfl rfl))

theorem execCollectiveLaunch_sound {F : Kept} (queue : BitVec 8) (s : State) (hs : s.Sound F) : SoundOut F
    (execCollectiveLaunch queue s) := by
  unfold execCollectiveLaunch
  try dsimp only
  repeat' (first
      | with_reducible exact soundOut_fault | (with_reducible apply soundOut_next)
      | (with_reducible refine soundOut_ite ?_ ?_) | with_reducible assumption | (with_reducible intro _)
      | with_reducible apply beginDescriptor_sound | with_reducible apply countLate_sound
      | with_reducible apply endDescriptor_sound | with_reducible apply enqueueMark_sound
      | with_reducible apply fireLaunch_sound | with_reducible apply modColl_sound
      | with_reducible apply withDomains_sound | (with_reducible refine ite_sound ?_ ?_) | split
      | (with_reducible refine sound_upd ?_ rfl rfl rfl rfl rfl rfl rfl rfl) | (dsimp only))

theorem partReceipt_sound {F : Kept} (c : Participant) (through : Nat) (credit : Nat) (s : State) (hs : s.Sound F) :
    State.Sound F (partReceipt c through credit s) := by
  unfold partReceipt
  try dsimp only
  repeat' (first
      | with_reducible assumption | with_reducible apply clearSent_sound | with_reducible apply pumpPart_sound
      | with_reducible apply setPart_sound | (with_reducible refine ite_sound ?_ ?_) | split
      | (with_reducible refine sound_upd ?_ rfl rfl rfl rfl rfl rfl rfl rfl))

theorem partReport_sound {F : Kept} (g : Group) (c : Participant) (s : State) (hs : s.Sound F) : State.Sound F
    (partReport g c s) := by
  unfold partReport
  try dsimp only
  repeat' (first
      | with_reducible assumption | with_reducible apply abortPart_sound | with_reducible apply sendPacket_sound
      | (with_reducible refine ite_pair_sound ?_ ?_) | (with_reducible refine ite_trip_sound ?_ ?_) | split
      | (refine sound_of_pair (by with_reducible assumption) ?_)
      | (refine sound_of_trip (by with_reducible assumption) ?_)
      | (with_reducible refine sound_upd ?_ rfl rfl rfl rfl rfl rfl rfl rfl) | (dsimp only))

theorem partResult_sound {F : Kept} (g : Group) (c : Participant) (r : Released) (s : State) (hs : s.Sound F) :
    State.Sound F (partResult g c r s) := by
  unfold partResult
  try dsimp only
  repeat' (first
      | with_reducible assumption | (with_reducible intro _) | with_reducible apply localCheck_sound
      | with_reducible apply partReport_sound | with_reducible apply setPart_sound
      | with_reducible apply stackCount_sound | with_reducible apply stackWrite_sound
      | (with_reducible refine ite_sound ?_ ?_) | (with_reducible refine ite_pair_sound ?_ ?_)
      | (with_reducible refine ite_trip_sound ?_ ?_) | split
      | (refine sound_of_pair (by with_reducible assumption) ?_)
      | (refine sound_of_trip (by with_reducible assumption) ?_)
      | (with_reducible refine sound_upd ?_ rfl rfl rfl rfl rfl rfl rfl rfl) | (dsimp only))

theorem partDone_sound {F : Kept} (c : Participant) (r : Released) (s : State) (hs : s.Sound F) : State.Sound F
    (partDone c r s) := by
  unfold partDone
  try dsimp only
  repeat' (first | with_reducible assumption | with_reducible apply completePart_sound)

theorem setSinkRec_sound {F : Kept} (k : SinkRecord) (s : State) (hs : s.Sound F) : State.Sound F
    (setSinkRec k s) := by
  unfold setSinkRec
  try dsimp only
  repeat' (first
      | with_reducible assumption | (with_reducible intro _) | with_reducible apply modColl_sound
      | (with_reducible refine sound_upd ?_ rfl rfl rfl rfl rfl rfl rfl rfl))

theorem sinkChecks_sound {F : Kept} (r : Released) (off : Nat) (len : Nat) (s : State) (hs : s.Sound F) :
    State.Sound F (sinkChecks r off len s).2 := by
  unfold sinkChecks
  try dsimp only
  repeat' (first
      | with_reducible assumption | with_reducible apply keyMismatch_sound | with_reducible apply leaseCheck_sound
      | with_reducible apply targetRefused_sound | (with_reducible refine ite_sound ?_ ?_)
      | (with_reducible refine ite_pair_sound ?_ ?_) | (with_reducible refine ite_trip_sound ?_ ?_) | split
      | (refine sound_of_pair (by with_reducible assumption) ?_)
      | (refine sound_of_trip (by with_reducible assumption) ?_)
      | (with_reducible refine sound_upd ?_ rfl rfl rfl rfl rfl rfl rfl rfl) | (dsimp only))

theorem sinkAdd_sound {F : Kept} (k : SinkEntry) (disp : Nat) (first : Nat) (n : Nat) (r : Released) (s : State)
    (hs : s.Sound F) : State.Sound F (sinkAdd k disp first n r s).2 := by
  unfold sinkAdd
  try dsimp only
  repeat' (first
      | with_reducible assumption | (with_reducible intro _) | with_reducible apply meterElems_sound
      | with_reducible apply sinkChecks_sound | with_reducible apply targetChange_sound
      | (with_reducible refine ite_sound ?_ ?_) | (with_reducible refine ite_pair_sound ?_ ?_)
      | (with_reducible refine ite_trip_sound ?_ ?_) | split
      | (refine sound_of_pair (by with_reducible assumption) ?_)
      | (refine sound_of_trip (by with_reducible assumption) ?_)
      | (with_reducible refine sound_upd ?_ rfl rfl rfl rfl rfl rfl rfl rfl) | (dsimp only))

theorem sinkAddAll_sound {F : Kept} (disp : Nat) (first : Nat) (n : Nat) (r : Released) (a0 : List
    (SinkEntry × Nat)) (a1 : SinkRecord) (a2 : State) (hs : a2.Sound F) : State.Sound F
    (sinkAddAll disp first n r a0 a1 a2).2.2 := by
  induction a0 generalizing a1 a2 with
  | nil => 
    unfold sinkAddAll
    try dsimp only
    repeat' (first
        | with_reducible assumption | with_reducible apply sinkAdd_sound | (with_reducible refine ite_sound ?_ ?_)
        | (with_reducible refine ite_pair_sound ?_ ?_) | (with_reducible refine ite_trip_sound ?_ ?_) | split
        | (refine sound_of_pair (by with_reducible assumption) ?_)
        | (refine sound_of_trip (by with_reducible assumption) ?_)
        | (with_reducible refine sound_upd ?_ rfl rfl rfl rfl rfl rfl rfl rfl) | (dsimp only))
  | cons x l ih => 
    unfold sinkAddAll
    try dsimp only
    repeat' (first
        | with_reducible assumption | with_reducible apply sinkAdd_sound | with_reducible apply ih
        | (with_reducible refine ite_sound ?_ ?_) | (with_reducible refine ite_pair_sound ?_ ?_)
        | (with_reducible refine ite_trip_sound ?_ ?_) | split
        | (refine sound_of_pair (by with_reducible assumption) ?_)
        | (refine sound_of_trip (by with_reducible assumption) ?_)
        | (with_reducible refine sound_upd ?_ rfl rfl rfl rfl rfl rfl rfl rfl) | (dsimp only))

theorem sinkReport_sound {F : Kept} (g : Group) (k : SinkRecord) (r : Released) (total : Nat) (s : State)
    (hs : s.Sound F) : State.Sound F (sinkReport g k r total s) := by
  unfold sinkReport
  try dsimp only
  repeat' (first
      | with_reducible assumption | (with_reducible intro _) | with_reducible apply sendQuietly_sound
      | (with_reducible refine ite_sound ?_ ?_) | split)

theorem sinkRecord_sound {F : Kept} (g : Group) (r : Released) (s : State) (hs : s.Sound F) : State.Sound F
    (sinkRecord g r s).2 := by
  unfold sinkRecord
  try dsimp only
  repeat' (first
      | with_reducible assumption | (with_reducible intro _) | with_reducible apply modColl_sound
      | with_reducible apply setSinkRec_sound | with_reducible apply tookFree_sound
      | (with_reducible apply id_sound) | (with_reducible refine ite_sound ?_ ?_)
      | (with_reducible refine ite_pair_sound ?_ ?_) | (with_reducible refine ite_trip_sound ?_ ?_) | split
      | (refine sound_of_pair (by with_reducible assumption) ?_)
      | (refine sound_of_trip (by with_reducible assumption) ?_)
      | (with_reducible refine sound_upd ?_ rfl rfl rfl rfl rfl rfl rfl rfl) | (dsimp only))

theorem sinkResult_sound {F : Kept} (g : Group) (r : Released) (s : State) (hs : s.Sound F) : State.Sound F
    (sinkResult g r s) := by
  unfold sinkResult
  try dsimp only
  repeat' (first
      | with_reducible assumption | (with_reducible intro _) | with_reducible apply setSinkRec_sound
      | with_reducible apply sinkAddAll_sound | with_reducible apply sinkRecord_sound
      | with_reducible apply sinkReport_sound | (with_reducible refine ite_sound ?_ ?_)
      | (with_reducible refine ite_pair_sound ?_ ?_) | (with_reducible refine ite_trip_sound ?_ ?_) | split
      | (refine sound_of_pair (by with_reducible assumption) ?_)
      | (refine sound_of_trip (by with_reducible assumption) ?_)
      | (with_reducible refine sound_upd ?_ rfl rfl rfl rfl rfl rfl rfl rfl) | (dsimp only))

theorem dropSinkRec_sound {F : Kept} (p : PolderId) (group : BitVec 16) (id : BitVec 32) (r : Released) (s : State)
    (hs : s.Sound F) : State.Sound F (dropSinkRec p group id r s) := by
  unfold dropSinkRec
  try dsimp only
  repeat' (first
      | with_reducible assumption | (with_reducible intro _) | with_reducible apply modColl_sound
      | with_reducible apply settleGroups_sound | (with_reducible apply id_sound) | split
      | (with_reducible refine sound_upd ?_ rfl rfl rfl rfl rfl rfl rfl rfl))

end Sys2Proof.Machine
end

