-- ==== Sys2Proof/Laws/SoundCollNode.lean ====
section
/-! SUPPORT. What the operations of Machine/CollNode.lean keep: memories in canonical form, registers in range, blown
fuses and bounded fault rings (State.Sound). -/

namespace Sys2Proof.Machine

theorem setNode_sound {F : Kept} (n : CollNode) (s : State) (hs : s.Sound F) : State.Sound F (setNode n s) := by
  unfold setNode
  try dsimp only
  repeat' (first
      | with_reducible assumption | (with_reducible intro _) | with_reducible apply modColl_sound
      | (with_reducible refine sound_upd ?_ rfl rfl rfl rfl rfl rfl rfl rfl))

theorem freeNode_sound {F : Kept} (n : CollNode) (s : State) (hs : s.Sound F) : State.Sound F (freeNode n s) := by
  unfold freeNode
  try dsimp only
  repeat' (first
      | with_reducible assumption | (with_reducible intro _) | with_reducible apply forgetPackets_sound
      | with_reducible apply modColl_sound | with_reducible apply retryLoads_sound
      | with_reducible apply settleGroups_sound | with_reducible apply writeFault_sound
      | (with_reducible refine ite_sound ?_ ?_) | split
      | (with_reducible refine sound_upd ?_ rfl rfl rfl rfl rfl rfl rfl rfl))

theorem abortNode_sound {F : Kept} (g : Group) (n : CollNode) (st : Status) (inst : InstId) (s : State)
    (hs : s.Sound F) : State.Sound F (abortNode g n st inst s) := by
  unfold abortNode
  try dsimp only
  repeat' (first
      | with_reducible assumption | with_reducible apply freeNode_sound | with_reducible apply sendAbort_sound
      | split)

theorem grantCredit_sound {F : Kept} (g : Group) (n : CollNode) (named : Option Nat) (s : State) (hs : s.Sound F) :
    State.Sound F (grantCredit g n named s) := by
  unfold grantCredit
  try dsimp only
  repeat' (first
      | with_reducible assumption | with_reducible apply abortNode_sound | with_reducible apply sendEach_sound
      | with_reducible apply setNode_sound | (with_reducible refine ite_pair_sound ?_ ?_)
      | (with_reducible refine ite_trip_sound ?_ ?_) | split
      | (refine sound_of_pair (by with_reducible assumption) ?_)
      | (refine sound_of_trip (by with_reducible assumption) ?_)
      | (with_reducible refine sound_upd ?_ rfl rfl rfl rfl rfl rfl rfl rfl) | (dsimp only))

theorem sendPieces_sound {F : Kept} (g : Group) (n : CollNode) (s : State) (hs : s.Sound F) : State.Sound F
    (sendPieces g n s).2.2 := by
  unfold sendPieces
  try dsimp only
  repeat' (first
      | with_reducible assumption | (with_reducible intro _) | with_reducible apply sendAll_sound
      | (with_reducible refine ite_sound ?_ ?_) | (with_reducible refine ite_pair_sound ?_ ?_)
      | (with_reducible refine ite_trip_sound ?_ ?_) | split
      | (refine sound_of_pair (by with_reducible assumption) ?_)
      | (refine sound_of_trip (by with_reducible assumption) ?_)
      | (with_reducible refine sound_upd ?_ rfl rfl rfl rfl rfl rfl rfl rfl) | (dsimp only))

theorem combineBlocks_sound {F : Kept}  (a0 : Nat) (a1 : CollNode) (a2 : State) (hs : a2.Sound F) : State.Sound F
    (combineBlocks a0 a1 a2).2 := by
  induction a0 generalizing a1 a2 with
  | zero => 
    unfold combineBlocks
    try dsimp only
    repeat' (first
        | with_reducible assumption | (with_reducible intro _) | with_reducible apply countBy_sound
        | with_reducible apply meter_sound | with_reducible apply modPolderCounters_sound
        | (with_reducible apply foldl_sound) | (with_reducible apply foldl_pair_sound)
        | (with_reducible apply foldl_trip_sound) | (with_reducible apply id_sound)
        | (with_reducible refine ite_sound ?_ ?_) | (with_reducible refine ite_pair_sound ?_ ?_)
        | (with_reducible refine ite_trip_sound ?_ ?_) | split
        | (refine sound_of_pair (by with_reducible assumption) ?_)
        | (refine sound_of_trip (by with_reducible assumption) ?_)
        | (with_reducible refine sound_upd ?_ rfl rfl rfl rfl rfl rfl rfl rfl) | (dsimp only))
  | succ n ih => 
    unfold combineBlocks
    try dsimp only
    repeat' (first
        | with_reducible assumption | (with_reducible intro _) | with_reducible apply countBy_sound
        | with_reducible apply meter_sound | with_reducible apply modPolderCounters_sound
        | (with_reducible apply foldl_sound) | (with_reducible apply foldl_pair_sound)
        | (with_reducible apply foldl_trip_sound) | with_reducible apply ih | (with_reducible apply id_sound)
        | (with_reducible refine ite_sound ?_ ?_) | (with_reducible refine ite_pair_sound ?_ ?_)
        | (with_reducible refine ite_trip_sound ?_ ?_) | split
        | (refine sound_of_pair (by with_reducible assumption) ?_)
        | (refine sound_of_trip (by with_reducible assumption) ?_)
        | (with_reducible refine sound_upd ?_ rfl rfl rfl rfl rfl rfl rfl rfl) | (dsimp only))

theorem beginPlacement_sound {F : Kept} (g : Group) (n : CollNode) (s : State) (hs : s.Sound F) : State.Sound F
    (beginPlacement g n s).2.2 := by
  unfold beginPlacement
  try dsimp only
  repeat' (first
      | with_reducible assumption | (with_reducible intro _) | with_reducible apply sendEach_sound
      | (with_reducible refine ite_pair_sound ?_ ?_) | (with_reducible refine ite_trip_sound ?_ ?_) | split
      | (refine sound_of_pair (by with_reducible assumption) ?_)
      | (refine sound_of_trip (by with_reducible assumption) ?_)
      | (with_reducible refine sound_upd ?_ rfl rfl rfl rfl rfl rfl rfl rfl) | (dsimp only))

theorem endCounts_sound {F : Kept} (g : Group) (n : CollNode) (s : State) (hs : s.Sound F) : State.Sound F
    (endCounts g n s).2.2 := by
  unfold endCounts
  try dsimp only
  repeat' (first
      | with_reducible assumption | (with_reducible intro _) | with_reducible apply beginPlacement_sound
      | with_reducible apply sendAll_sound | with_reducible apply sendEach_sound
      | (with_reducible refine ite_sound ?_ ?_) | (with_reducible refine ite_pair_sound ?_ ?_)
      | (with_reducible refine ite_trip_sound ?_ ?_) | split
      | (refine sound_of_pair (by with_reducible assumption) ?_)
      | (refine sound_of_trip (by with_reducible assumption) ?_)
      | (with_reducible refine sound_upd ?_ rfl rfl rfl rfl rfl rfl rfl rfl) | (dsimp only))

theorem sendCuts_sound {F : Kept} (g : Group) (old : CollNode) (n : CollNode) (s : State) (hs : s.Sound F) :
    State.Sound F (sendCuts g old n s).2 := by
  unfold sendCuts
  try dsimp only
  repeat' (first
      | with_reducible assumption | with_reducible apply sendAll_sound | (with_reducible refine ite_sound ?_ ?_)
      | (with_reducible refine ite_pair_sound ?_ ?_) | (with_reducible refine ite_trip_sound ?_ ?_) | split
      | (dsimp only))

theorem tryDone_sound {F : Kept} (g : Group) (n : CollNode) (s : State) (hs : s.Sound F) : SoundOpt F
    (tryDone g n s) := by
  unfold tryDone
  try dsimp only
  repeat' (first
      | with_reducible assumption | with_reducible apply freeNode_sound | with_reducible apply sendQuietly_sound
      | with_reducible apply traceColl_sound | (with_reducible exact soundOpt_none)
      | (with_reducible apply soundOpt_some) | (refine sound_of_opt (by with_reducible assumption) ?_)
      | (with_reducible refine ite_sound ?_ ?_) | split | (dsimp only))

theorem nodeWork_sound {F : Kept} (g : Group) (n : CollNode) (named : Option Nat) (s : State) (hs : s.Sound F) :
    State.Sound F (nodeWork g n named s) := by
  unfold nodeWork
  try dsimp only
  repeat' (first
      | with_reducible assumption | with_reducible apply abortNode_sound | with_reducible apply combineBlocks_sound
      | with_reducible apply endCounts_sound | with_reducible apply grantCredit_sound
      | with_reducible apply needKey_sound | with_reducible apply sendCuts_sound
      | with_reducible apply sendPieces_sound | with_reducible apply tryDone_sound
      | (refine sound_of_opt (by with_reducible assumption) ?_) | (with_reducible refine ite_sound ?_ ?_)
      | (with_reducible refine ite_pair_sound ?_ ?_) | (with_reducible refine ite_trip_sound ?_ ?_) | split
      | (refine sound_of_pair (by with_reducible assumption) ?_)
      | (refine sound_of_trip (by with_reducible assumption) ?_)
      | (with_reducible refine sound_upd ?_ rfl rfl rfl rfl rfl rfl rfl rfl) | (dsimp only))

theorem joinOpen_sound {F : Kept} (g : Group) (n : CollNode) (i : Nat) (r : Released) (s : State) (hs : s.Sound F) :
    State.Sound F (joinOpen g n i r s) := by
  unfold joinOpen
  try dsimp only
  repeat' (first
      | with_reducible assumption | (with_reducible intro _) | with_reducible apply abortNode_sound
      | with_reducible apply nodeWork_sound | with_reducible apply recordLate_sound
      | with_reducible apply sendTracked_sound | (with_reducible refine ite_sound ?_ ?_)
      | (with_reducible refine ite_pair_sound ?_ ?_) | (with_reducible refine ite_trip_sound ?_ ?_) | split
      | (refine sound_of_pair (by with_reducible assumption) ?_)
      | (refine sound_of_trip (by with_reducible assumption) ?_)
      | (with_reducible refine sound_upd ?_ rfl rfl rfl rfl rfl rfl rfl rfl) | (dsimp only))

theorem groupMismatch_sound {F : Kept} (n : CollNode) (s : State) (hs : s.Sound F) : State.Sound F
    (groupMismatch n s) := by
  unfold groupMismatch
  try dsimp only
  repeat' (first
      | with_reducible assumption | with_reducible apply abortNode_sound | with_reducible apply freeNode_sound
      | split | (with_reducible refine sound_upd ?_ rfl rfl rfl rfl rfl rfl rfl rfl))

theorem firstOpen_sound {F : Kept} (g : Group) (j : Nat) (i : Nat) (r : Released) (s : State) (hs : s.Sound F) :
    State.Sound F (firstOpen g j i r s) := by
  unfold firstOpen
  try dsimp only
  repeat' (first
      | with_reducible assumption | (with_reducible intro _) | with_reducible apply countBy_sound
      | with_reducible apply joinOpen_sound | with_reducible apply sendAbort_sound
      | with_reducible apply traceColl_sound | (with_reducible refine ite_sound ?_ ?_) | split)

theorem serveOpen_sound {F : Kept} (g : Group) (r : Released) (s : State) (hs : s.Sound F) : State.Sound F
    (serveOpen g r s) := by
  unfold serveOpen
  try dsimp only
  repeat' (first
      | with_reducible assumption | with_reducible apply firstOpen_sound | with_reducible apply groupMismatch_sound
      | with_reducible apply joinOpen_sound | (with_reducible refine ite_sound ?_ ?_) | split
      | (with_reducible refine sound_upd ?_ rfl rfl rfl rfl rfl rfl rfl rfl))

theorem ofNode_sound {F : Kept} (serve : Group → CollNode → Released → State → State) (g : Group) (r : Released)
    (s : State) (hs : s.Sound F) (h_serve : ∀ x0 x1 x2 (s : State), s.Sound F → (serve x0 x1 x2 s).Sound F) :
    State.Sound F (ofNode serve g r s) := by
  unfold ofNode
  try dsimp only
  repeat' (first
      | with_reducible assumption | with_reducible apply groupMismatch_sound | with_reducible apply h_serve
      | (with_reducible refine ite_sound ?_ ?_) | split
      | (with_reducible refine sound_upd ?_ rfl rfl rfl rfl rfl rfl rfl rfl))

theorem atNode_sound {F : Kept} (serve : Group → CollNode → Nat → Kid → Released → State → State) (g : Group)
    (r : Released) (s : State) (hs : s.Sound F) (h_serve : ∀ x0 x1 x2 x3 x4 (s : State), s.Sound F →
    (serve x0 x1 x2 x3 x4 s).Sound F) : State.Sound F (atNode serve g r s) := by
  unfold atNode
  try dsimp only
  repeat' (first
      | with_reducible assumption | (with_reducible intro _) | with_reducible apply ofNode_sound
      | with_reducible apply h_serve | (with_reducible refine ite_sound ?_ ?_) | split
      | (with_reducible refine sound_upd ?_ rfl rfl rfl rfl rfl rfl rfl rfl))

theorem sendBench_sound {F : Kept} (g : Group) (n : CollNode) (named : Option Nat) (s : State) (hs : s.Sound F) :
    State.Sound F (sendBench g n named s) := by
  unfold sendBench
  try dsimp only
  repeat' (first
      | with_reducible assumption | with_reducible apply abortNode_sound | with_reducible apply nodeWork_sound
      | with_reducible apply sendEach_sound | (with_reducible refine ite_pair_sound ?_ ?_)
      | (with_reducible refine ite_trip_sound ?_ ?_) | split
      | (refine sound_of_pair (by with_reducible assumption) ?_)
      | (refine sound_of_trip (by with_reducible assumption) ?_)
      | (with_reducible refine sound_upd ?_ rfl rfl rfl rfl rfl rfl rfl rfl) | (dsimp only))

theorem nodeCodes_sound {F : Kept} (g : Group) (n : CollNode) (i : Nat) (unused : Kid) (r : Released) (s : State)
    (hs : s.Sound F) : State.Sound F (nodeCodes g n i unused r s) := by
  unfold nodeCodes
  try dsimp only
  repeat' (first
      | with_reducible assumption | (with_reducible intro _) | with_reducible apply abortNode_sound
      | with_reducible apply nodeWork_sound | with_reducible apply sendAll_sound
      | with_reducible apply sendBench_sound | (with_reducible apply foldl_sound)
      | (with_reducible apply foldl_pair_sound) | (with_reducible apply foldl_trip_sound)
      | (with_reducible refine ite_sound ?_ ?_) | (with_reducible refine ite_pair_sound ?_ ?_)
      | (with_reducible refine ite_trip_sound ?_ ?_) | split
      | (refine sound_of_pair (by with_reducible assumption) ?_)
      | (refine sound_of_trip (by with_reducible assumption) ?_)
      | (with_reducible refine sound_upd ?_ rfl rfl rfl rfl rfl rfl rfl rfl) | (dsimp only))

theorem nodeBench_sound {F : Kept} (g : Group) (n : CollNode) (r : Released) (s : State) (hs : s.Sound F) :
    State.Sound F (nodeBench g n r s) := by
  unfold nodeBench
  try dsimp only
  repeat' (first
      | with_reducible assumption | (with_reducible intro _) | with_reducible apply clearSent_sound
      | with_reducible apply sendBench_sound | with_reducible apply setNode_sound
      | (with_reducible refine ite_sound ?_ ?_) | split
      | (with_reducible refine sound_upd ?_ rfl rfl rfl rfl rfl rfl rfl rfl))

theorem nodeReduce_sound {F : Kept} (g : Group) (n : CollNode) (i : Nat) (k : Kid) (r : Released) (s : State)
    (hs : s.Sound F) : State.Sound F (nodeReduce g n i k r s) := by
  unfold nodeReduce
  try dsimp only
  repeat' (first
      | with_reducible assumption | (with_reducible intro _) | with_reducible apply nodeWork_sound
      | (with_reducible refine ite_sound ?_ ?_) | split
      | (with_reducible refine sound_upd ?_ rfl rfl rfl rfl rfl rfl rfl rfl))

theorem nodeForward_sound {F : Kept} (g : Group) (n : CollNode) (i : Nat) (k : Kid) (r : Released) (s : State)
    (hs : s.Sound F) : State.Sound F (nodeForward g n i k r s) := by
  unfold nodeForward
  try dsimp only
  repeat' (first
      | with_reducible assumption | (with_reducible intro _) | with_reducible apply nodeWork_sound
      | (with_reducible refine ite_sound ?_ ?_) | split
      | (with_reducible refine sound_upd ?_ rfl rfl rfl rfl rfl rfl rfl rfl))

theorem countAgain_sound {F : Kept} (g : Group) (n : CollNode) (i : Nat) (k : Kid) (s : State) (hs : s.Sound F) :
    State.Sound F (countAgain g n i k s) := by
  unfold countAgain
  try dsimp only
  repeat' (first
      | with_reducible assumption | (with_reducible intro _) | with_reducible apply abortNode_sound
      | with_reducible apply sendEach_sound | with_reducible apply setNode_sound
      | (with_reducible refine ite_pair_sound ?_ ?_) | (with_reducible refine ite_trip_sound ?_ ?_) | split
      | (refine sound_of_pair (by with_reducible assumption) ?_)
      | (refine sound_of_trip (by with_reducible assumption) ?_)
      | (with_reducible refine sound_upd ?_ rfl rfl rfl rfl rfl rfl rfl rfl) | (dsimp only))

theorem nodeChunk_sound {F : Kept} (g : Group) (n : CollNode) (i : Nat) (k : Kid) (r : Released) (s : State)
    (hs : s.Sound F) : State.Sound F (nodeChunk g n i k r s) := by
  unfold nodeChunk
  try dsimp only
  repeat' (first
      | with_reducible assumption | (with_reducible intro _) | with_reducible apply countAgain_sound
      | with_reducible apply nodeWork_sound | (with_reducible refine ite_sound ?_ ?_) | split
      | (with_reducible refine sound_upd ?_ rfl rfl rfl rfl rfl rfl rfl rfl))

theorem nodeContribution_sound {F : Kept} (g : Group) (n : CollNode) (i : Nat) (k : Kid) (r : Released) (s : State)
    (hs : s.Sound F) : State.Sound F (nodeContribution g n i k r s) := by
  unfold nodeContribution
  try dsimp only
  repeat' (first
      | with_reducible assumption | with_reducible apply nodeChunk_sound | with_reducible apply nodeForward_sound
      | with_reducible apply nodeReduce_sound | (with_reducible refine ite_sound ?_ ?_) | split
      | (with_reducible refine sound_upd ?_ rfl rfl rfl rfl rfl rfl rfl rfl))

theorem nodeCounts_sound {F : Kept} (g : Group) (n : CollNode) (i : Nat) (k : Kid) (r : Released) (s : State)
    (hs : s.Sound F) : State.Sound F (nodeCounts g n i k r s) := by
  unfold nodeCounts
  try dsimp only
  repeat' (first
      | with_reducible assumption | (with_reducible intro _) | with_reducible apply abortNode_sound
      | with_reducible apply nodeWork_sound | with_reducible apply sendCuts_sound
      | (with_reducible refine ite_sound ?_ ?_) | (with_reducible refine ite_pair_sound ?_ ?_)
      | (with_reducible refine ite_trip_sound ?_ ?_) | split
      | (refine sound_of_pair (by with_reducible assumption) ?_)
      | (refine sound_of_trip (by with_reducible assumption) ?_)
      | (with_reducible refine sound_upd ?_ rfl rfl rfl rfl rfl rfl rfl rfl) | (dsimp only))

theorem nodeBases_sound {F : Kept} (g : Group) (n : CollNode) (r : Released) (s : State) (hs : s.Sound F) :
    State.Sound F (nodeBases g n r s) := by
  unfold nodeBases
  try dsimp only
  repeat' (first
      | with_reducible assumption | (with_reducible intro _) | with_reducible apply abortNode_sound
      | with_reducible apply beginPlacement_sound | with_reducible apply nodeWork_sound
      | with_reducible apply setNode_sound | (with_reducible refine ite_sound ?_ ?_)
      | (with_reducible refine ite_pair_sound ?_ ?_) | (with_reducible refine ite_trip_sound ?_ ?_) | split
      | (refine sound_of_pair (by with_reducible assumption) ?_)
      | (refine sound_of_trip (by with_reducible assumption) ?_)
      | (with_reducible refine sound_upd ?_ rfl rfl rfl rfl rfl rfl rfl rfl) | (dsimp only))

theorem nodeReceipt_sound {F : Kept} (g : Group) (n : CollNode) (r : Released) (s : State) (hs : s.Sound F) :
    State.Sound F (nodeReceipt g n r s) := by
  unfold nodeReceipt
  try dsimp only
  repeat' (first
      | with_reducible assumption | (with_reducible intro _) | with_reducible apply clearSent_sound
      | with_reducible apply nodeWork_sound | with_reducible apply setNode_sound
      | (with_reducible refine ite_sound ?_ ?_) | split
      | (with_reducible refine sound_upd ?_ rfl rfl rfl rfl rfl rfl rfl rfl))

theorem nodeReport_sound {F : Kept} (g : Group) (n : CollNode) (r : Released) (s : State) (hs : s.Sound F) :
    State.Sound F (nodeReport g n r s) := by
  unfold nodeReport
  try dsimp only
  repeat' (first
      | with_reducible assumption | (with_reducible intro _) | with_reducible apply abortNode_sound
      | with_reducible apply clearSent_sound | with_reducible apply nodeWork_sound
      | with_reducible apply sendPacket_sound | with_reducible apply setNode_sound
      | (with_reducible apply foldl_sound) | (with_reducible apply foldl_pair_sound)
      | (with_reducible apply foldl_trip_sound) | (with_reducible refine ite_sound ?_ ?_)
      | (with_reducible refine ite_pair_sound ?_ ?_) | (with_reducible refine ite_trip_sound ?_ ?_) | split
      | (refine sound_of_pair (by with_reducible assumption) ?_)
      | (refine sound_of_trip (by with_reducible assumption) ?_)
      | (with_reducible refine sound_upd ?_ rfl rfl rfl rfl rfl rfl rfl rfl) | (dsimp only))

theorem collectiveFailed_sound {F : Kept} (p : PolderId) (id : BitVec 32) (st : Status) (s : State)
    (hs : s.Sound F) : State.Sound F (collectiveFailed p id st s) := by
  unfold collectiveFailed
  try dsimp only
  repeat' (first
      | with_reducible assumption | with_reducible apply abortNode_sound | with_reducible apply abortPart_sound
      | with_reducible apply freeNode_sound | (with_reducible apply id_sound) | split
      | (with_reducible refine sound_upd ?_ rfl rfl rfl rfl rfl rfl rfl rfl))

theorem pumpColl_sound {F : Kept} (p : PolderId) (s : State) (hs : s.Sound F) : State.Sound F (pumpColl p s) := by
  unfold pumpColl
  try dsimp only
  repeat' (first
      | with_reducible assumption | (with_reducible intro _) | with_reducible apply nodeWork_sound
      | with_reducible apply pumpPart_sound | (with_reducible apply foldl_sound)
      | (with_reducible refine ite_sound ?_ ?_) | split
      | (with_reducible refine sound_upd ?_ rfl rfl rfl rfl rfl rfl rfl rfl) | (dsimp only))

theorem endColl_sound {F : Kept} (mine : Launch → Bool) (st : Status) (s : State) (hs : s.Sound F) : State.Sound F
    (endColl mine st s) := by
  unfold endColl
  try dsimp only
  repeat' (first
      | with_reducible assumption | (with_reducible intro _) | with_reducible apply completePart_sound
      | with_reducible apply freeNode_sound | (with_reducible apply foldl_sound) | (dsimp only))

theorem unreachableColl_sound {F : Kept} (i : InstId) (s : State) (hs : s.Sound F) : State.Sound F
    (unreachableColl i s) := by
  unfold unreachableColl
  try dsimp only
  repeat' (first
      | with_reducible assumption | (with_reducible intro _) | with_reducible apply endColl_sound
      | with_reducible apply modColl_sound | with_reducible apply settleGroups_sound | split
      | (with_reducible refine sound_upd ?_ rfl rfl rfl rfl rfl rfl rfl rfl))

theorem execOpen_sound {F : Kept} (s : State) (hs : s.Sound F) : SoundOut F (execOpen s) := by
  unfold execOpen
  try dsimp only
  repeat' (first
      | with_reducible exact soundOut_fault | (with_reducible apply soundOut_next)
      | (with_reducible refine soundOut_ite ?_ ?_) | with_reducible assumption | (with_reducible intro _)
      | with_reducible apply serveColl_sound | with_reducible apply serveOpen_sound | (dsimp only))

theorem execBenchmarkCodes_sound {F : Kept} (s : State) (hs : s.Sound F) : SoundOut F (execBenchmarkCodes s) := by
  unfold execBenchmarkCodes
  try dsimp only
  repeat' (first
      | with_reducible exact soundOut_fault | (with_reducible apply soundOut_next)
      | (with_reducible refine soundOut_ite ?_ ?_) | with_reducible assumption | (with_reducible intro _)
      | with_reducible apply atNode_sound | with_reducible apply nodeCodes_sound
      | with_reducible apply serveColl_sound | (dsimp only))

theorem execBenchmarks_sound {F : Kept} (s : State) (hs : s.Sound F) : SoundOut F (execBenchmarks s) := by
  unfold execBenchmarks
  try dsimp only
  repeat' (first
      | with_reducible exact soundOut_fault | (with_reducible apply soundOut_next)
      | (with_reducible refine soundOut_ite ?_ ?_) | with_reducible assumption | (with_reducible intro _)
      | with_reducible apply nodeBench_sound | with_reducible apply ofNode_sound
      | with_reducible apply serveColl_sound | (dsimp only))

theorem execContribution_sound {F : Kept} (s : State) (hs : s.Sound F) : SoundOut F (execContribution s) := by
  unfold execContribution
  try dsimp only
  repeat' (first
      | with_reducible exact soundOut_fault | (with_reducible apply soundOut_next)
      | (with_reducible refine soundOut_ite ?_ ?_) | with_reducible assumption | (with_reducible intro _)
      | with_reducible apply atNode_sound | with_reducible apply nodeContribution_sound
      | with_reducible apply serveColl_sound | (dsimp only))

theorem execResult_sound {F : Kept} (s : State) (hs : s.Sound F) : SoundOut F (execResult s) := by
  unfold execResult
  try dsimp only
  repeat' (first
      | with_reducible exact soundOut_fault | (with_reducible apply soundOut_next)
      | (with_reducible refine soundOut_ite ?_ ?_) | with_reducible assumption | (with_reducible intro _)
      | with_reducible apply partResult_sound | with_reducible apply serveColl_sound
      | with_reducible apply sinkResult_sound | (with_reducible refine ite_sound ?_ ?_) | split
      | (with_reducible refine sound_upd ?_ rfl rfl rfl rfl rfl rfl rfl rfl) | (dsimp only))

theorem execFilterCounts_sound {F : Kept} (s : State) (hs : s.Sound F) : SoundOut F (execFilterCounts s) := by
  unfold execFilterCounts
  try dsimp only
  repeat' (first
      | with_reducible exact soundOut_fault | (with_reducible apply soundOut_next)
      | (with_reducible refine soundOut_ite ?_ ?_) | with_reducible assumption | (with_reducible intro _)
      | with_reducible apply atNode_sound | with_reducible apply nodeCounts_sound
      | with_reducible apply serveColl_sound | (dsimp only))

theorem execFilterBases_sound {F : Kept} (s : State) (hs : s.Sound F) : SoundOut F (execFilterBases s) := by
  unfold execFilterBases
  try dsimp only
  repeat' (first
      | with_reducible exact soundOut_fault | (with_reducible apply soundOut_next)
      | (with_reducible refine soundOut_ite ?_ ?_) | with_reducible assumption | (with_reducible intro _)
      | with_reducible apply nodeBases_sound | with_reducible apply ofNode_sound
      | with_reducible apply serveColl_sound | (dsimp only))

theorem execReceipt_sound {F : Kept} (s : State) (hs : s.Sound F) : SoundOut F (execReceipt s) := by
  unfold execReceipt
  try dsimp only
  repeat' (first
      | with_reducible exact soundOut_fault | (with_reducible apply soundOut_next)
      | (with_reducible refine soundOut_ite ?_ ?_) | with_reducible assumption | (with_reducible intro _)
      | with_reducible apply nodeReceipt_sound | with_reducible apply ofNode_sound
      | with_reducible apply partReceipt_sound | with_reducible apply serveColl_sound
      | (with_reducible refine ite_sound ?_ ?_) | split
      | (with_reducible refine sound_upd ?_ rfl rfl rfl rfl rfl rfl rfl rfl) | (dsimp only))

theorem execReport_sound {F : Kept} (s : State) (hs : s.Sound F) : SoundOut F (execReport s) := by
  unfold execReport
  try dsimp only
  repeat' (first
      | with_reducible exact soundOut_fault | (with_reducible apply soundOut_next)
      | (with_reducible refine soundOut_ite ?_ ?_) | with_reducible assumption | (with_reducible intro _)
      | with_reducible apply nodeReport_sound | with_reducible apply ofNode_sound
      | with_reducible apply serveColl_sound | (dsimp only))

theorem execDone_sound {F : Kept} (s : State) (hs : s.Sound F) : SoundOut F (execDone s) := by
  unfold execDone
  try dsimp only
  repeat' (first
      | with_reducible exact soundOut_fault | (with_reducible apply soundOut_next)
      | (with_reducible refine soundOut_ite ?_ ?_) | with_reducible assumption | (with_reducible intro _)
      | with_reducible apply dropSinkRec_sound | with_reducible apply freeNode_sound
      | with_reducible apply partDone_sound | with_reducible apply serveColl_sound | (with_reducible apply id_sound)
      | (with_reducible refine ite_sound ?_ ?_) | split
      | (with_reducible refine sound_upd ?_ rfl rfl rfl rfl rfl rfl rfl rfl) | (dsimp only))

theorem execCollectiveWatchdog_sound {F : Kept} (polder : PolderId) (collective : BitVec 32) (s : State)
    (hs : s.Sound F) : SoundOut F (execCollectiveWatchdog polder collective s) := by
  unfold execCollectiveWatchdog
  try dsimp only
  repeat' (first
      | with_reducible exact soundOut_fault | (with_reducible apply soundOut_next)
      | (with_reducible refine soundOut_ite ?_ ?_) | with_reducible assumption | (with_reducible intro _)
      | with_reducible apply abortNode_sound | with_reducible apply abortPart_sound
      | with_reducible apply freeNode_sound | (with_reducible refine ite_sound ?_ ?_) | split
      | (with_reducible refine sound_upd ?_ rfl rfl rfl rfl rfl rfl rfl rfl) | (dsimp only))

theorem freshPacket_sound {F : Kept} (k : CollSent) (s : State) (hs : s.Sound F) : State.Sound F
    (freshPacket k s).2.2 := by
  unfold freshPacket
  try dsimp only
  repeat' (first
      | with_reducible assumption | with_reducible apply readSource_sound | (with_reducible refine ite_sound ?_ ?_)
      | (with_reducible refine ite_pair_sound ?_ ?_) | (with_reducible refine ite_trip_sound ?_ ?_) | split
      | (refine sound_of_pair (by with_reducible assumption) ?_)
      | (refine sound_of_trip (by with_reducible assumption) ?_)
      | (with_reducible refine sound_upd ?_ rfl rfl rfl rfl rfl rfl rfl rfl) | (dsimp only))

theorem execCollectiveResend_sound {F : Kept} (index : Nat) (s : State) (hs : s.Sound F) : SoundOut F
    (execCollectiveResend index s) := by
  unfold execCollectiveResend
  try dsimp only
  repeat' (first
      | with_reducible exact soundOut_fault | (with_reducible apply soundOut_next)
      | (with_reducible refine soundOut_ite ?_ ?_) | with_reducible assumption | (with_reducible intro _)
      | with_reducible apply collectiveFailed_sound | with_reducible apply freshPacket_sound
      | with_reducible apply modColl_sound | with_reducible apply sendPacket_sound
      | (with_reducible refine ite_sound ?_ ?_) | (with_reducible refine ite_pair_sound ?_ ?_)
      | (with_reducible refine ite_trip_sound ?_ ?_) | split
      | (refine sound_of_pair (by with_reducible assumption) ?_)
      | (refine sound_of_trip (by with_reducible assumption) ?_)
      | (with_reducible refine sound_upd ?_ rfl rfl rfl rfl rfl rfl rfl rfl) | (dsimp only))

end Sys2Proof.Machine
end

