-- ==== Sys2Proof/Laws/SoundBarriers.lean ====
section
/-! SUPPORT. What the operations of Machine/Barriers.lean keep: memories in canonical form, registers in range, blown
fuses and bounded fault rings (State.Sound). -/

namespace Sys2Proof.Machine

theorem modBars_sound {F : Kept} (f : Barriers → Barriers) (s : State) (hs : s.Sound F) : State.Sound F
    (modBars f s) := by
  unfold modBars
  try dsimp only
  repeat' (first | with_reducible assumption | (with_reducible refine sound_upd ?_ rfl rfl rfl rfl rfl rfl rfl rfl))

theorem setCounter_sound {F : Kept} (c : BarrierCounter) (s : State) (hs : s.Sound F) : State.Sound F
    (setCounter c s) := by
  unfold setCounter
  try dsimp only
  repeat' (first
      | with_reducible assumption | (with_reducible intro _) | with_reducible apply modBars_sound
      | (with_reducible refine sound_upd ?_ rfl rfl rfl rfl rfl rfl rfl rfl))

theorem completeArrival_sound {F : Kept} (a : Arrival) (st : Status) (s : State) (hs : s.Sound F) : State.Sound F
    (completeArrival a st s) := by
  unfold completeArrival
  try dsimp only
  repeat' (first
      | with_reducible assumption | (with_reducible intro _) | with_reducible apply endDescriptor_sound
      | with_reducible apply modBars_sound | with_reducible apply settleGroups_sound
      | (with_reducible refine sound_upd ?_ rfl rfl rfl rfl rfl rfl rfl rfl))

theorem endCounter_sound {F : Kept} (p : PolderId) (group : BitVec 16) (id : BitVec 32) (st : Status) (s : State)
    (hs : s.Sound F) : State.Sound F (endCounter p group id st s) := by
  unfold endCounter
  try dsimp only
  repeat' (first
      | with_reducible assumption | (with_reducible intro _) | with_reducible apply modBars_sound
      | with_reducible apply settleGroups_sound | (with_reducible apply id_sound)
      | (with_reducible refine sound_upd ?_ rfl rfl rfl rfl rfl rfl rfl rfl))

theorem abortBarrier_sound {F : Kept} (g : Group) (j : Nat) (id : BitVec 32) (cls : BitVec 4) (st : Status)
    (inst : InstId) (s : State) (hs : s.Sound F) : State.Sound F (abortBarrier g j id cls st inst s) := by
  unfold abortBarrier
  try dsimp only
  repeat' (first
      | with_reducible assumption | with_reducible apply endCounter_sound | with_reducible apply sendAbort_sound
      | (with_reducible apply id_sound))

theorem beginArrival_sound {F : Kept} (a : Arrival) (s : State) (hs : s.Sound F) : State.Sound F
    (beginArrival a s) := by
  unfold beginArrival
  try dsimp only
  repeat' (first
      | with_reducible assumption | (with_reducible intro _) | with_reducible apply completeArrival_sound
      | with_reducible apply modBars_sound | with_reducible apply sendPacket_sound
      | (with_reducible refine ite_pair_sound ?_ ?_) | (with_reducible refine ite_trip_sound ?_ ?_) | split
      | (refine sound_of_pair (by with_reducible assumption) ?_)
      | (refine sound_of_trip (by with_reducible assumption) ?_)
      | (with_reducible refine sound_upd ?_ rfl rfl rfl rfl rfl rfl rfl rfl) | (dsimp only))

theorem execBarrierArrive_sound {F : Kept} (queue : BitVec 8) (s : State) (hs : s.Sound F) : SoundOut F
    (execBarrierArrive queue s) := by
  unfold execBarrierArrive
  try dsimp only
  repeat' (first
      | with_reducible exact soundOut_fault | (with_reducible apply soundOut_next)
      | (with_reducible refine soundOut_ite ?_ ?_) | with_reducible assumption | (with_reducible intro _)
      | with_reducible apply beginArrival_sound | with_reducible apply beginDescriptor_sound
      | with_reducible apply endDescriptor_sound | with_reducible apply withDomains_sound
      | (with_reducible apply id_sound) | (with_reducible refine ite_sound ?_ ?_) | split
      | (with_reducible refine sound_upd ?_ rfl rfl rfl rfl rfl rfl rfl rfl) | (dsimp only))

theorem fullCounter_sound {F : Kept} (g : Group) (c : BarrierCounter) (s : State) (hs : s.Sound F) : State.Sound F
    (fullCounter g c s) := by
  unfold fullCounter
  try dsimp only
  repeat' (first
      | with_reducible assumption | with_reducible apply abortBarrier_sound | with_reducible apply endCounter_sound
      | with_reducible apply sendPacket_sound | with_reducible apply setCounter_sound
      | (with_reducible refine ite_sound ?_ ?_) | (with_reducible refine ite_pair_sound ?_ ?_)
      | (with_reducible refine ite_trip_sound ?_ ?_) | split
      | (refine sound_of_pair (by with_reducible assumption) ?_)
      | (refine sound_of_trip (by with_reducible assumption) ?_)
      | (with_reducible refine sound_upd ?_ rfl rfl rfl rfl rfl rfl rfl rfl) | (dsimp only))

theorem answerReleased_sound {F : Kept} (g : Group) (e : ReleasedBarrier) (r : Released) (s : State)
    (hs : s.Sound F) : State.Sound F (answerReleased g e r s) := by
  unfold answerReleased
  try dsimp only
  repeat' (first
      | with_reducible assumption | with_reducible apply sendQuietly_sound | (with_reducible refine ite_sound ?_ ?_)
      | split)

theorem serveArrival_sound {F : Kept} (g : Group) (r : Released) (s : State) (hs : s.Sound F) : State.Sound F
    (serveArrival g r s) := by
  unfold serveArrival
  try dsimp only
  repeat' (first
      | with_reducible assumption | (with_reducible intro _) | with_reducible apply abortBarrier_sound
      | with_reducible apply answerReleased_sound | with_reducible apply fullCounter_sound
      | with_reducible apply recordLate_sound | with_reducible apply setCounter_sound
      | (with_reducible apply id_sound) | (with_reducible refine ite_sound ?_ ?_) | split
      | (with_reducible refine sound_upd ?_ rfl rfl rfl rfl rfl rfl rfl rfl))

theorem applyRelease_sound {F : Kept} (a : Arrival) (s : State) (hs : s.Sound F) : State.Sound F
    (applyRelease a s).2 := by
  unfold applyRelease
  try dsimp only
  repeat' (first
      | with_reducible assumption | with_reducible apply changeSync_sound | with_reducible apply syncFault_sound
      | (with_reducible refine ite_sound ?_ ?_) | (with_reducible refine ite_pair_sound ?_ ?_)
      | (with_reducible refine ite_trip_sound ?_ ?_) | split
      | (refine sound_of_pair (by with_reducible assumption) ?_)
      | (refine sound_of_trip (by with_reducible assumption) ?_)
      | (with_reducible refine sound_upd ?_ rfl rfl rfl rfl rfl rfl rfl rfl) | (dsimp only))

theorem serveRelease_sound {F : Kept} (g : Group) (r : Released) (s : State) (hs : s.Sound F) : State.Sound F
    (serveRelease g r s) := by
  unfold serveRelease
  try dsimp only
  repeat' (first
      | with_reducible assumption | (with_reducible intro _) | with_reducible apply applyRelease_sound
      | with_reducible apply completeArrival_sound | with_reducible apply endCounter_sound
      | with_reducible apply modBars_sound | (with_reducible apply id_sound)
      | (with_reducible refine ite_sound ?_ ?_) | (with_reducible refine ite_pair_sound ?_ ?_)
      | (with_reducible refine ite_trip_sound ?_ ?_) | split
      | (refine sound_of_pair (by with_reducible assumption) ?_)
      | (refine sound_of_trip (by with_reducible assumption) ?_)
      | (with_reducible refine sound_upd ?_ rfl rfl rfl rfl rfl rfl rfl rfl) | (dsimp only))

theorem serveAbortUp_sound {F : Kept} (g : Group) (r : Released) (s : State) (hs : s.Sound F) : State.Sound F
    (serveAbortUp g r s) := by
  unfold serveAbortUp
  try dsimp only
  repeat' (first
      | with_reducible assumption | (with_reducible intro _) | with_reducible apply abortBarrier_sound
      | with_reducible apply abortNode_sound | with_reducible apply sendAbort_sound
      | (with_reducible apply id_sound) | (with_reducible refine ite_sound ?_ ?_) | split
      | (with_reducible refine sound_upd ?_ rfl rfl rfl rfl rfl rfl rfl rfl))

theorem serveAbortDown_sound {F : Kept} (g : Group) (r : Released) (s : State) (hs : s.Sound F) : State.Sound F
    (serveAbortDown g r s) := by
  unfold serveAbortDown
  try dsimp only
  repeat' (first
      | with_reducible assumption | with_reducible apply completeArrival_sound
      | with_reducible apply completePart_sound | with_reducible apply dropSinkRec_sound
      | with_reducible apply endCounter_sound | with_reducible apply freeNode_sound
      | (with_reducible apply id_sound) | (with_reducible refine ite_sound ?_ ?_) | split
      | (with_reducible refine sound_upd ?_ rfl rfl rfl rfl rfl rfl rfl rfl))

theorem barrierFailed_sound {F : Kept} (p : PolderId) (id : BitVec 32) (st : Status) (s : State) (hs : s.Sound F) :
    State.Sound F (barrierFailed p id st s) := by
  unfold barrierFailed
  try dsimp only
  repeat' (first
      | with_reducible assumption | with_reducible apply abortBarrier_sound
      | with_reducible apply completeArrival_sound | with_reducible apply endCounter_sound
      | (with_reducible apply id_sound) | split
      | (with_reducible refine sound_upd ?_ rfl rfl rfl rfl rfl rfl rfl rfl))

theorem endBarriers_sound {F : Kept} (mine : PolderId → BitVec 16 → Bool) (st : Status) (s : State)
    (hs : s.Sound F) : State.Sound F (endBarriers mine st s) := by
  unfold endBarriers
  try dsimp only
  repeat' (first
      | with_reducible assumption | (with_reducible intro _) | with_reducible apply completeArrival_sound
      | with_reducible apply modBars_sound | with_reducible apply settleGroups_sound
      | (with_reducible apply foldl_sound) | (with_reducible refine sound_upd ?_ rfl rfl rfl rfl rfl rfl rfl rfl)
      | (dsimp only))

theorem execAbort_sound {F : Kept} (s : State) (hs : s.Sound F) : SoundOut F (execAbort s) := by
  unfold execAbort
  try dsimp only
  repeat' (first
      | with_reducible exact soundOut_fault | (with_reducible apply soundOut_next)
      | (with_reducible refine soundOut_ite ?_ ?_) | with_reducible assumption | (with_reducible intro _)
      | with_reducible apply serveAbortDown_sound | with_reducible apply serveAbortUp_sound
      | with_reducible apply serveColl_sound | split
      | (with_reducible refine sound_upd ?_ rfl rfl rfl rfl rfl rfl rfl rfl) | (dsimp only))

theorem execBarrierArrival_sound {F : Kept} (s : State) (hs : s.Sound F) : SoundOut F (execBarrierArrival s) := by
  unfold execBarrierArrival
  try dsimp only
  repeat' (first
      | with_reducible exact soundOut_fault | (with_reducible apply soundOut_next)
      | (with_reducible refine soundOut_ite ?_ ?_) | with_reducible assumption | (with_reducible intro _)
      | with_reducible apply serveArrival_sound | with_reducible apply serveColl_sound | (dsimp only))

theorem execBarrierRelease_sound {F : Kept} (s : State) (hs : s.Sound F) : SoundOut F (execBarrierRelease s) := by
  unfold execBarrierRelease
  try dsimp only
  repeat' (first
      | with_reducible exact soundOut_fault | (with_reducible apply soundOut_next)
      | (with_reducible refine soundOut_ite ?_ ?_) | with_reducible assumption | (with_reducible intro _)
      | with_reducible apply serveColl_sound | with_reducible apply serveRelease_sound | (dsimp only))

theorem execBarrierArrivalResend_sound {F : Kept} (polder : PolderId) (barrier : BitVec 32) (s : State)
    (hs : s.Sound F) : SoundOut F (execBarrierArrivalResend polder barrier s) := by
  unfold execBarrierArrivalResend
  try dsimp only
  repeat' (first
      | with_reducible exact soundOut_fault | (with_reducible apply soundOut_next)
      | (with_reducible refine soundOut_ite ?_ ?_) | with_reducible assumption | (with_reducible intro _)
      | with_reducible apply abortBarrier_sound | with_reducible apply completeArrival_sound
      | with_reducible apply modBars_sound | with_reducible apply sendPacket_sound
      | with_reducible apply setCounter_sound | (with_reducible refine ite_sound ?_ ?_)
      | (with_reducible refine ite_pair_sound ?_ ?_) | (with_reducible refine ite_trip_sound ?_ ?_) | split
      | (refine sound_of_pair (by with_reducible assumption) ?_)
      | (refine sound_of_trip (by with_reducible assumption) ?_)
      | (with_reducible refine sound_upd ?_ rfl rfl rfl rfl rfl rfl rfl rfl) | (dsimp only))

theorem execBarrierNodeWatchdog_sound {F : Kept} (polder : PolderId) (barrier : BitVec 32) (s : State)
    (hs : s.Sound F) : SoundOut F (execBarrierNodeWatchdog polder barrier s) := by
  unfold execBarrierNodeWatchdog
  try dsimp only
  repeat' (first
      | with_reducible exact soundOut_fault | (with_reducible apply soundOut_next)
      | (with_reducible refine soundOut_ite ?_ ?_) | with_reducible assumption | (with_reducible intro _)
      | with_reducible apply abortBarrier_sound | with_reducible apply writeFault_sound
      | (with_reducible refine ite_sound ?_ ?_) | split
      | (with_reducible refine sound_upd ?_ rfl rfl rfl rfl rfl rfl rfl rfl) | (dsimp only))

theorem execBarrierParticipantWatchdog_sound {F : Kept} (polder : PolderId) (barrier : BitVec 32) (s : State)
    (hs : s.Sound F) : SoundOut F (execBarrierParticipantWatchdog polder barrier s) := by
  unfold execBarrierParticipantWatchdog
  try dsimp only
  repeat' (first
      | with_reducible exact soundOut_fault | (with_reducible apply soundOut_next)
      | (with_reducible refine soundOut_ite ?_ ?_) | with_reducible assumption | (with_reducible intro _)
      | with_reducible apply completeArrival_sound | with_reducible apply writeFault_sound
      | (with_reducible refine ite_sound ?_ ?_) | split
      | (with_reducible refine sound_upd ?_ rfl rfl rfl rfl rfl rfl rfl rfl) | (dsimp only))

theorem execReleasedListExpiry_sound {F : Kept} (index : Nat) (s : State) (hs : s.Sound F) : SoundOut F
    (execReleasedListExpiry index s) := by
  unfold execReleasedListExpiry
  try dsimp only
  repeat' (first
      | with_reducible exact soundOut_fault | (with_reducible apply soundOut_next)
      | (with_reducible refine soundOut_ite ?_ ?_) | with_reducible assumption | (with_reducible intro _)
      | with_reducible apply modBars_sound | (with_reducible refine ite_sound ?_ ?_) | split
      | (with_reducible refine sound_upd ?_ rfl rfl rfl rfl rfl rfl rfl rfl) | (dsimp only))

end Sys2Proof.Machine
end

