-- ==== Sys2Proof/Laws/SoundGauge.lean ====
section
/-! SUPPORT. What the operations of Machine/Gauge.lean keep: memories in canonical form, registers in range, blown
fuses and bounded fault rings (State.Sound). -/

namespace Sys2Proof.Machine

theorem modGauge_sound {F : Kept} (f : Gauge → Gauge) (s : State) (hs : s.Sound F) : State.Sound F
    (modGauge f s) := by
  unfold modGauge
  try dsimp only
  repeat' (first | with_reducible assumption | (with_reducible refine sound_upd ?_ rfl rfl rfl rfl rfl rfl rfl rfl))

theorem openEntry_sound {F : Kept} (p : PolderId) (conf : Bool) (s : State) (hs : s.Sound F) : State.Sound F
    (openEntry p conf s) := by
  unfold openEntry
  try dsimp only
  repeat' (first
      | with_reducible assumption | (with_reducible intro _) | with_reducible apply modGauge_sound
      | (with_reducible refine ite_sound ?_ ?_) | split
      | (with_reducible refine sound_upd ?_ rfl rfl rfl rfl rfl rfl rfl rfl))

theorem takeIncrement_sound {F : Kept} (p : PolderId) (c : Fin 7) (s : State) (hs : s.Sound F) : State.Sound F
    (takeIncrement p c s) := by
  unfold takeIncrement
  try dsimp only
  repeat' (first
      | with_reducible assumption | (with_reducible intro _) | with_reducible apply modGauge_sound
      | with_reducible apply openEntry_sound | (with_reducible refine ite_sound ?_ ?_) | split
      | (with_reducible refine sound_upd ?_ rfl rfl rfl rfl rfl rfl rfl rfl))

theorem flushPolder_sound {F : Kept} (p : PolderId) (s : State) (hs : s.Sound F) : State.Sound F
    (flushPolder p s) := by
  unfold flushPolder
  try dsimp only
  repeat' (first
      | with_reducible assumption | (with_reducible intro _) | with_reducible apply takeIncrement_sound
      | (with_reducible apply foldl_sound) | (dsimp only))

theorem flushAll_sound {F : Kept} (s : State) (hs : s.Sound F) : State.Sound F (flushAll s) := by
  unfold flushAll
  try dsimp only
  repeat' (first
      | with_reducible assumption | (with_reducible intro _) | with_reducible apply takeIncrement_sound
      | (with_reducible apply foldl_sound) | (dsimp only))

theorem closeEntry_sound {F : Kept} (p : PolderId) (kind : BitVec 8) (s : State) (hs : s.Sound F) : State.Sound F
    (closeEntry p kind s) := by
  unfold closeEntry
  try dsimp only
  repeat' (first
      | with_reducible assumption | (with_reducible intro _) | with_reducible apply flushPolder_sound
      | with_reducible apply modGauge_sound | split
      | (with_reducible refine sound_upd ?_ rfl rfl rfl rfl rfl rfl rfl rfl))

theorem closeAllEntries_sound {F : Kept} (s : State) (hs : s.Sound F) : State.Sound F (closeAllEntries s) := by
  unfold closeAllEntries
  try dsimp only
  repeat' (first
      | with_reducible assumption | (with_reducible intro _) | with_reducible apply closeEntry_sound
      | with_reducible apply flushAll_sound | (with_reducible apply foldl_sound) | (dsimp only))

theorem periodicCapture_sound {F : Kept} (s : State) (hs : s.Sound F) : State.Sound F (periodicCapture s) := by
  unfold periodicCapture
  try dsimp only
  repeat' (first
      | with_reducible assumption | (with_reducible intro _) | with_reducible apply modGauge_sound
      | (with_reducible refine ite_sound ?_ ?_) | split
      | (with_reducible refine sound_upd ?_ rfl rfl rfl rfl rfl rfl rfl rfl))

theorem writeGaugeRecord_sound {F : Kept} (c : Capture) (s : State) (hs : s.Sound F) : State.Sound F
    (writeGaugeRecord c s) := by
  unfold writeGaugeRecord
  try dsimp only
  repeat' (first
      | with_reducible assumption | (with_reducible intro _) | with_reducible apply modGauge_sound
      | (with_reducible refine ite_sound ?_ ?_) | split
      | (with_reducible refine sound_upd ?_ rfl rfl rfl rfl rfl rfl rfl rfl))

theorem signNext_sound {F : Kept} (s : State) (hs : s.Sound F) : State.Sound F (signNext s) := by
  unfold signNext
  try dsimp only
  repeat' (first
      | with_reducible assumption | (with_reducible intro _) | with_reducible apply modGauge_sound
      | with_reducible apply writeGaugeRecord_sound | (with_reducible refine ite_sound ?_ ?_) | split
      | (with_reducible refine sound_upd ?_ rfl rfl rfl rfl rfl rfl rfl rfl))

theorem execGaugeIncrement_sound {F : Kept} (polder : PolderId) (counter : Fin 7) (s : State) (hs : s.Sound F) :
    SoundOut F (execGaugeIncrement polder counter s) := by
  unfold execGaugeIncrement
  try dsimp only
  repeat' (first
      | with_reducible exact soundOut_fault | (with_reducible apply soundOut_next)
      | (with_reducible refine soundOut_ite ?_ ?_) | with_reducible assumption | (with_reducible intro _)
      | with_reducible apply takeIncrement_sound | (with_reducible refine ite_sound ?_ ?_) | split | (dsimp only))

theorem execGaugePeriodicCapture_sound {F : Kept} (s : State) (hs : s.Sound F) : SoundOut F
    (execGaugePeriodicCapture s) := by
  unfold execGaugePeriodicCapture
  try dsimp only
  repeat' (first
      | with_reducible exact soundOut_fault | (with_reducible apply soundOut_next)
      | (with_reducible refine soundOut_ite ?_ ?_) | with_reducible assumption | (with_reducible intro _)
      | with_reducible apply periodicCapture_sound | (with_reducible refine ite_sound ?_ ?_) | split | (dsimp only))

theorem execGaugeRecordSigned_sound {F : Kept} (s : State) (hs : s.Sound F) : SoundOut F
    (execGaugeRecordSigned s) := by
  unfold execGaugeRecordSigned
  try dsimp only
  repeat' (first
      | with_reducible exact soundOut_fault | (with_reducible apply soundOut_next)
      | (with_reducible refine soundOut_ite ?_ ?_) | with_reducible assumption | (with_reducible intro _)
      | with_reducible apply signNext_sound | (with_reducible refine ite_sound ?_ ?_) | split | (dsimp only))

theorem gaugeIdentityCmd_sound {F : Kept} (bad : Bool) (o : Origin) (tag : BitVec 32) (s : State) (hs : s.Sound F) :
    State.Sound F (gaugeIdentityCmd bad o tag s) := by
  unfold gaugeIdentityCmd
  try dsimp only
  repeat' (first
      | with_reducible assumption | (with_reducible intro _) | with_reducible apply reply_sound
      | with_reducible apply runCmd_sound)

theorem execGaugeIdentity_sound {F : Kept} (o : Origin) (tag : BitVec 32) (s : State) (hs : s.Sound F) : SoundOut F
    (execGaugeIdentity o tag s) := by
  unfold execGaugeIdentity
  try dsimp only
  repeat' (first
      | with_reducible exact soundOut_fault | (with_reducible apply soundOut_next)
      | (with_reducible refine soundOut_ite ?_ ?_) | with_reducible assumption | (with_reducible intro _)
      | with_reducible apply gaugeIdentityCmd_sound | (dsimp only))

theorem gaugeCountersReadCmd_sound {F : Kept} (bad : Bool) (o : Origin) (tag : BitVec 32) (polder : PolderId)
    (s : State) (hs : s.Sound F) : State.Sound F (gaugeCountersReadCmd bad o tag polder s) := by
  unfold gaugeCountersReadCmd
  try dsimp only
  repeat' (first
      | with_reducible assumption | (with_reducible intro _) | with_reducible apply reply_sound
      | with_reducible apply runCmd_sound | split)

theorem execGaugeCountersRead_sound {F : Kept} (o : Origin) (tag : BitVec 32) (polder : PolderId) (s : State)
    (hs : s.Sound F) : SoundOut F (execGaugeCountersRead o tag polder s) := by
  unfold execGaugeCountersRead
  try dsimp only
  repeat' (first
      | with_reducible exact soundOut_fault | (with_reducible apply soundOut_next)
      | (with_reducible refine soundOut_ite ?_ ?_) | with_reducible assumption | (with_reducible intro _)
      | with_reducible apply gaugeCountersReadCmd_sound | (dsimp only))

theorem gaugeRecordFetchCmd_sound {F : Kept} (bad : Bool) (o : Origin) (tag : BitVec 32) (first : BitVec 32)
    (max : BitVec 8) (s : State) (hs : s.Sound F) : State.Sound F (gaugeRecordFetchCmd bad o tag first max s) := by
  unfold gaugeRecordFetchCmd
  try dsimp only
  repeat' (first
      | with_reducible assumption | (with_reducible intro _) | with_reducible apply reply_sound
      | with_reducible apply runCmd_sound)

theorem execGaugeRecordFetch_sound {F : Kept} (o : Origin) (tag : BitVec 32) (first : BitVec 32) (max : BitVec 8)
    (s : State) (hs : s.Sound F) : SoundOut F (execGaugeRecordFetch o tag first max s) := by
  unfold execGaugeRecordFetch
  try dsimp only
  repeat' (first
      | with_reducible exact soundOut_fault | (with_reducible apply soundOut_next)
      | (with_reducible refine soundOut_ite ?_ ?_) | with_reducible assumption | (with_reducible intro _)
      | with_reducible apply gaugeRecordFetchCmd_sound | (dsimp only))

theorem gaugeRecordReleaseCmd_sound {F : Kept} (bad : Bool) (o : Origin) (tag : BitVec 32) (through : BitVec 32)
    (s : State) (hs : s.Sound F) : State.Sound F (gaugeRecordReleaseCmd bad o tag through s) := by
  unfold gaugeRecordReleaseCmd
  try dsimp only
  repeat' (first
      | with_reducible assumption | (with_reducible intro _) | with_reducible apply modGauge_sound
      | with_reducible apply reply_sound | with_reducible apply runCmd_sound
      | (with_reducible refine sound_upd ?_ rfl rfl rfl rfl rfl rfl rfl rfl))

theorem execGaugeRecordRelease_sound {F : Kept} (o : Origin) (tag : BitVec 32) (through : BitVec 32) (s : State)
    (hs : s.Sound F) : SoundOut F (execGaugeRecordRelease o tag through s) := by
  unfold execGaugeRecordRelease
  try dsimp only
  repeat' (first
      | with_reducible exact soundOut_fault | (with_reducible apply soundOut_next)
      | (with_reducible refine soundOut_ite ?_ ?_) | with_reducible assumption | (with_reducible intro _)
      | with_reducible apply gaugeRecordReleaseCmd_sound | (dsimp only))

end Sys2Proof.Machine
end

