-- ==== Sys2Proof/Laws/SoundReset.lean ====
section
/-! SUPPORT. What the operations of Machine/Reset.lean keep: memories in canonical form, registers in range, blown
fuses and bounded fault rings (State.Sound). -/

namespace Sys2Proof.Machine


/-- More bits blown keep what was blown. -/
theorem and_or_keep {n : Nat} {a b : BitVec n} (h : a &&& b = a) (x : BitVec n) : a &&& (b ||| x) = a := by
  apply BitVec.eq_of_getLsbD_eq
  intro i _
  have h' := congrArg (fun v => v.getLsbD i) h
  simp only [BitVec.getLsbD_and, BitVec.getLsbD_or] at h' ⊢
  cases ha : a.getLsbD i <;> cases hb : b.getLsbD i <;> simp_all

theorem Rows.blownIn_blowSlot {a b : Rows} (h : a.blownIn b) (code : BitVec 16) (i : Nat) :
    a.blownIn (blowSlot code i b) :=
  ⟨and_or_keep h.1 _, and_or_keep h.2.1 _, and_or_keep h.2.2 _⟩

theorem Fuses.blownIn_killRoot {f g : Fuses} (h : f.blownIn g) : f.blownIn (killRoot g) := by
  obtain ⟨_, _, h⟩ := h
  exact ⟨BitVec.and_allOnes, BitVec.and_allOnes, h⟩

theorem Fuses.blownIn_record {f g : Fuses} (h : f.blownIn g) (code : BitVec 16) (i : Nat) :
    f.blownIn { g with record := blowSlot code i g.record } := by
  obtain ⟨h1, h2, h3, h4⟩ := h
  exact ⟨h1, h2, Rows.blownIn_blowSlot h3 code i, h4⟩

theorem Fuses.blownIn_intent {f g : Fuses} (h : f.blownIn g) (code : BitVec 16) (i : Nat) :
    f.blownIn { g with intent := blowSlot code i g.intent } := by
  obtain ⟨h1, h2, h3, h4, h5⟩ := h
  exact ⟨h1, h2, h3, Rows.blownIn_blowSlot h4 code i, h5⟩

theorem Fuses.blownIn_svn {f g : Fuses} (h : f.blownIn g) (x : BitVec 64) :
    f.blownIn { g with svn := g.svn ||| x } := by
  obtain ⟨h1, h2, h3, h4, h5, h6⟩ := h
  exact ⟨h1, h2, h3, h4, and_or_keep h5 x, h6⟩

/-- The fuses change to others in which every bit blown stays blown. -/
theorem fuses_sound {F : Kept} {s : State} (hs : s.Sound F) {g : Fuses} (hg : F.fuses.blownIn g) :
    State.Sound F { s with fuses := g } := by
  obtain ⟨a, b, c, d⟩ := hs
  exact ⟨a, b, ⟨hg, c.2⟩, d⟩

theorem eraseSealed_sound {F : Kept} (s : State) (hs : s.Sound F) : State.Sound F (eraseSealed s) := by
  unfold eraseSealed
  with_reducible refine sound_upd ?_ rfl rfl rfl rfl rfl rfl rfl rfl
  assumption

theorem regs_reset_inRange : Regs.reset.inRange := by
  refine ⟨by decide, by decide, by decide, by decide, by decide, by decide, ?_⟩
  intro x hx
  cases hx


theorem wipePool_sound {F : Kept} (s : State) (hs : s.Sound F) : State.Sound F (wipePool s) := by
  unfold wipePool
  try dsimp only
  repeat' (first
      | with_reducible assumption | (with_reducible refine ite_sound ?_ ?_) | split
      | (with_reducible refine sound_upd ?_ rfl rfl rfl rfl rfl rfl rfl rfl)
      | (with_reducible refine stackErase_upd ?_ rfl rfl rfl rfl rfl rfl rfl rfl))

theorem completeInterrupted_sound {F : Kept} (s : State) (hs : s.Sound F) :
    State.Sound F (completeInterrupted s) := by
  unfold completeInterrupted
  split
  · assumption
  · dsimp only
    have hf := Fuses.blownIn_intent hs.2.2.1.1
    split
    · exact eraseSealed_sound _ (wipePool_sound _
        (fuses_sound hs (Fuses.blownIn_record (Fuses.blownIn_killRoot (hf _ _)) _ _)))
    · exact eraseSealed_sound _ (wipePool_sound _ (fuses_sound hs (Fuses.blownIn_record (hf _ _) _ _)))



theorem writeImagePart_sound {F : Kept} (i : Image) (n : Nat) (s : State) (hs : s.Sound F) : State.Sound F
    (writeImagePart i n s) := by
  unfold writeImagePart
  try dsimp only
  repeat' (first
      | with_reducible assumption | (with_reducible intro _)
      | (with_reducible refine sound_upd ?_ rfl rfl rfl rfl rfl rfl rfl rfl)
      | (with_reducible refine stackWriteN_upd ?_ rfl rfl rfl rfl rfl rfl rfl rfl)
      | (with_reducible refine devicesWriteN_upd ?_ rfl rfl rfl rfl rfl rfl rfl rfl)
      | (with_reducible refine stackErase_upd ?_ rfl rfl rfl rfl rfl rfl rfl rfl))

theorem writeImage_sound {F : Kept} (i : Image) (s : State) (hs : s.Sound F) : State.Sound F (writeImage i s) := by
  unfold writeImage
  try dsimp only
  repeat' (first | with_reducible assumption | with_reducible apply writeImagePart_sound)

theorem cutRewrite_sound {F : Kept} (s : State) (hs : s.Sound F) : State.Sound F (cutRewrite s) := by
  unfold cutRewrite
  try dsimp only
  repeat' (first
      | with_reducible assumption | with_reducible apply tookFree_sound | with_reducible apply writeImagePart_sound
      | split | (with_reducible refine sound_upd ?_ rfl rfl rfl rfl rfl rfl rfl rfl))

theorem gaugeRead_sound {F : Kept} (s : State) (hs : s.Sound F) : State.Sound F (gaugeRead s) := by
  unfold gaugeRead
  try dsimp only
  repeat' (first
      | with_reducible assumption | (with_reducible refine ite_sound ?_ ?_) | split
      | (with_reducible refine sound_upd ?_ rfl rfl rfl rfl rfl rfl rfl rfl))

theorem resetState_sound {F : Kept} (s : State) (hs : s.Sound F) : State.Sound F (resetState s) := by
  unfold resetState
  dsimp only
  have h := cutRewrite_sound _ (closeAllEntries_sound s hs)
  generalize cutRewrite (closeAllEntries s) = t at h
  obtain ⟨⟨a, b⟩, _, d, e, f⟩ := h
  exact ⟨⟨a, b⟩, regs_reset_inRange, d, Nat.zero_le _, f⟩


theorem countEvent_sound {F : Kept} (cause : BitVec 8) (s : State) (hs : s.Sound F) : State.Sound F
    (countEvent cause s) := by
  unfold countEvent
  try dsimp only
  repeat' (first
      | with_reducible assumption | split | (with_reducible refine sound_upd ?_ rfl rfl rfl rfl rfl rfl rfl rfl))

theorem announceBoot_sound {F : Kept} (s : State) (hs : s.Sound F) : State.Sound F (announceBoot s) := by
  unfold announceBoot
  try dsimp only
  repeat' (first
      | with_reducible assumption | with_reducible apply emit_sound | split
      | (with_reducible refine sound_upd ?_ rfl rfl rfl rfl rfl rfl rfl rfl))

theorem bootRecord_sound {F : Kept} (s : State) (hs : s.Sound F) : State.Sound F (bootRecord s) := by
  unfold bootRecord
  exact faultCopy_sound _ _ (pushFault_sound _ _ hs)


theorem romStart_sound {F : Kept} (s : State) (hs : s.Sound F) : State.Sound F (romStart s) := by
  unfold romStart
  try dsimp only
  repeat' (first
      | with_reducible assumption | with_reducible apply announceBoot_sound | with_reducible apply bootRecord_sound
      | with_reducible apply gaugeRead_sound | (with_reducible refine ite_sound ?_ ?_) | split
      | (with_reducible refine sound_upd ?_ rfl rfl rfl rfl rfl rfl rfl rfl))

theorem blockReset_sound {F : Kept} (cause : BitVec 4) (s : State) (hs : s.Sound F) : State.Sound F
    (blockReset cause s) := by
  unfold blockReset
  try dsimp only
  repeat' (first
      | with_reducible assumption | with_reducible apply countEvent_sound | with_reducible apply resetState_sound
      | with_reducible apply romStart_sound | (with_reducible refine ite_sound ?_ ?_) | split
      | (with_reducible refine sound_upd ?_ rfl rfl rfl rfl rfl rfl rfl rfl))

theorem execPowerOnResetRelease_sound {F : Kept} (s : State) (hs : s.Sound F) :
    SoundOut F (execPowerOnResetRelease s) := by
  unfold execPowerOnResetRelease
  refine soundOut_next (ite_sound hs (gaugeRead_sound _ ?_))
  obtain ⟨a, b, c, d, _⟩ := hs
  exact ⟨a, b, c, d, Nat.zero_le _⟩


theorem execPowerOnResetAssert_sound {F : Kept} (s : State) (hs : s.Sound F) :
    SoundOut F (execPowerOnResetAssert s) := by
  unfold execPowerOnResetAssert
  refine soundOut_next ?_
  obtain ⟨a, b, c, d, _⟩ := resetState_sound s hs
  exact ⟨a, b, c, d, Nat.zero_le _⟩


theorem execBlockResetAssert_sound {F : Kept} (s : State) (hs : s.Sound F) : SoundOut F (execBlockResetAssert s) := by
  unfold execBlockResetAssert
  try dsimp only
  repeat' (first
      | with_reducible exact soundOut_fault | (with_reducible apply soundOut_next)
      | (with_reducible refine soundOut_ite ?_ ?_) | with_reducible assumption | (with_reducible intro _)
      | with_reducible apply resetState_sound | (with_reducible refine ite_sound ?_ ?_) | split
      | (with_reducible refine sound_upd ?_ rfl rfl rfl rfl rfl rfl rfl rfl) | (dsimp only))

theorem execBlockResetRelease_sound {F : Kept} (strap : BitVec 2) (instanceId : InstId) (s : State)
    (hs : s.Sound F) : SoundOut F (execBlockResetRelease strap instanceId s) := by
  unfold execBlockResetRelease
  try dsimp only
  repeat' (first
      | with_reducible exact soundOut_fault | (with_reducible apply soundOut_next)
      | (with_reducible refine soundOut_ite ?_ ?_) | with_reducible assumption | (with_reducible intro _)
      | with_reducible apply romStart_sound | (with_reducible refine ite_sound ?_ ?_) | split
      | (with_reducible refine sound_upd ?_ rfl rfl rfl rfl rfl rfl rfl rfl) | (dsimp only))

theorem execWardenWatchdog_sound {F : Kept} (s : State) (hs : s.Sound F) : SoundOut F (execWardenWatchdog s) := by
  unfold execWardenWatchdog
  try dsimp only
  repeat' (first
      | with_reducible exact soundOut_fault | (with_reducible apply soundOut_next)
      | (with_reducible refine soundOut_ite ?_ ?_) | with_reducible assumption | (with_reducible intro _)
      | with_reducible apply blockReset_sound | (with_reducible refine ite_sound ?_ ?_) | split | (dsimp only))

theorem execWardenEcc_sound {F : Kept} (s : State) (hs : s.Sound F) : SoundOut F (execWardenEcc s) := by
  unfold execWardenEcc
  try dsimp only
  repeat' (first
      | with_reducible exact soundOut_fault | (with_reducible apply soundOut_next)
      | (with_reducible refine soundOut_ite ?_ ?_) | with_reducible assumption | (with_reducible intro _)
      | with_reducible apply blockReset_sound | (with_reducible refine ite_sound ?_ ?_) | split | (dsimp only))

theorem execCorrectableEcc_sound {F : Kept} (inRom : Bool) (s : State) (hs : s.Sound F) : SoundOut F
    (execCorrectableEcc inRom s) := by
  unfold execCorrectableEcc
  try dsimp only
  repeat' (first
      | with_reducible exact soundOut_fault | (with_reducible apply soundOut_next)
      | (with_reducible refine soundOut_ite ?_ ?_) | with_reducible assumption | (with_reducible intro _)
      | with_reducible apply count_sound | (with_reducible refine ite_sound ?_ ?_) | split | (dsimp only))

theorem execBootTimeout_sound {F : Kept} (s : State) (hs : s.Sound F) : SoundOut F (execBootTimeout s) := by
  unfold execBootTimeout
  try dsimp only
  repeat' (first
      | with_reducible exact soundOut_fault | (with_reducible apply soundOut_next)
      | (with_reducible refine soundOut_ite ?_ ?_) | with_reducible assumption | (with_reducible intro _)
      | with_reducible apply blockReset_sound | (with_reducible refine ite_sound ?_ ?_) | split | (dsimp only))

end Sys2Proof.Machine
end

