-- ==== Sys2Proof/Laws/SoundBoot.lean ====
section
/-! SUPPORT. What the operations of Machine/Boot.lean keep: memories in canonical form, registers in range, blown
fuses and bounded fault rings (State.Sound). -/

namespace Sys2Proof.Machine

theorem modBoot_sound {F : Kept} (f : Boot → Boot) (s : State) (hs : s.Sound F) : State.Sound F (modBoot f s) := by
  unfold modBoot
  try dsimp only
  repeat' (first | with_reducible assumption | (with_reducible refine sound_upd ?_ rfl rfl rfl rfl rfl rfl rfl rfl))

theorem enterStage_sound {F : Kept} (st : BootStage) (s : State) (hs : s.Sound F) : State.Sound F
    (enterStage st s) := by
  unfold enterStage
  try dsimp only
  repeat' (first
      | with_reducible assumption | (with_reducible intro _) | with_reducible apply modBoot_sound
      | (with_reducible refine sound_upd ?_ rfl rfl rfl rfl rfl rfl rfl rfl))

theorem stopBoot_sound {F : Kept} (st : BootStage) (reason : BitVec 8) (s : State) (hs : s.Sound F) : State.Sound F
    (stopBoot st reason s) := by
  unfold stopBoot
  try dsimp only
  repeat' (first
      | with_reducible assumption | (with_reducible intro _) | with_reducible apply announceBoot_sound
      | with_reducible apply enterStage_sound | with_reducible apply modBoot_sound
      | (with_reducible refine sound_upd ?_ rfl rfl rfl rfl rfl rfl rfl rfl))

theorem writeSurvey_sound {F : Kept} (l : List SurveyEntry) (s : State) (hs : s.Sound F) : State.Sound F
    (writeSurvey l s) := by
  unfold writeSurvey
  try dsimp only
  repeat' (first
      | with_reducible assumption | (with_reducible intro _) | with_reducible apply modBoot_sound
      | (with_reducible refine sound_upd ?_ rfl rfl rfl rfl rfl rfl rfl rfl))

theorem loadImage_sound {F : Kept} (s : State) (hs : s.Sound F) : State.Sound F (loadImage s) := by
  unfold loadImage
  try dsimp only
  repeat' (first
      | with_reducible assumption | (with_reducible intro _) | with_reducible apply enterStage_sound
      | with_reducible apply modBoot_sound | (with_reducible refine sound_upd ?_ rfl rfl rfl rfl rfl rfl rfl rfl))

theorem bootDerivations_sound {F : Kept} (from_ : DeviceKey) (fixed : List (String × Nat × Nat)) (s : State)
    (hs : s.Sound F) : State.Sound F (bootDerivations from_ fixed s) := by
  unfold bootDerivations
  try dsimp only
  repeat' (first
      | with_reducible assumption | (with_reducible intro _) | with_reducible apply inlineJobs_sound
      | (with_reducible refine ite_pair_sound ?_ ?_) | (with_reducible refine ite_trip_sound ?_ ?_) | (dsimp only))

theorem measureImage_sound {F : Kept} (i : Image) (s : State) (hs : s.Sound F) : State.Sound F
    (measureImage i s) := by
  unfold measureImage
  try dsimp only
  repeat' (first
      | with_reducible assumption | (with_reducible intro _) | with_reducible apply bootDerivations_sound
      | with_reducible apply modBoot_sound | with_reducible apply writeSurvey_sound | split
      | (with_reducible refine sound_upd ?_ rfl rfl rfl rfl rfl rfl rfl rfl))

theorem execLcResolve_sound {F : Kept} (s : State) (hs : s.Sound F) : SoundOut F (execLcResolve s) := by
  unfold execLcResolve
  try dsimp only
  repeat' (first
      | with_reducible exact soundOut_fault | (with_reducible apply soundOut_next)
      | (with_reducible refine soundOut_ite ?_ ?_) | with_reducible assumption | (with_reducible intro _)
      | with_reducible apply completeInterrupted_sound | with_reducible apply enterStage_sound
      | with_reducible apply stopBoot_sound | (with_reducible refine ite_sound ?_ ?_) | split
      | (with_reducible refine sound_upd ?_ rfl rfl rfl rfl rfl rfl rfl rfl) | (dsimp only))

theorem execEntropy_sound {F : Kept} (startUpPasses : Bool) (s : State) (hs : s.Sound F) : SoundOut F
    (execEntropy startUpPasses s) := by
  unfold execEntropy
  try dsimp only
  repeat' (first
      | with_reducible exact soundOut_fault | (with_reducible apply soundOut_next)
      | (with_reducible refine soundOut_ite ?_ ?_) | with_reducible assumption | (with_reducible intro _)
      | with_reducible apply enterStage_sound | with_reducible apply instantiate_sound
      | with_reducible apply needJob_sound | with_reducible apply stopBoot_sound
      | (with_reducible refine ite_sound ?_ ?_) | split | (dsimp only))

theorem deriveDeviceKeys_sound {F : Kept} (s : State) (hs : s.Sound F) : State.Sound F (deriveDeviceKeys s) := by
  unfold deriveDeviceKeys
  try dsimp only
  repeat' (first
      | with_reducible assumption | (with_reducible intro _) | with_reducible apply bootDerivations_sound
      | with_reducible apply drbgDraw_sound | with_reducible apply modBoot_sound | split
      | (with_reducible refine sound_upd ?_ rfl rfl rfl rfl rfl rfl rfl rfl))

theorem execKeys_sound {F : Kept} (s : State) (hs : s.Sound F) : SoundOut F (execKeys s) := by
  unfold execKeys
  try dsimp only
  repeat' (first
      | with_reducible exact soundOut_fault | (with_reducible apply soundOut_next)
      | (with_reducible refine soundOut_ite ?_ ?_) | with_reducible assumption | (with_reducible intro _)
      | with_reducible apply deriveDeviceKeys_sound | with_reducible apply drbgDraw_sound
      | with_reducible apply enterStage_sound | with_reducible apply writeSurvey_sound
      | (with_reducible refine ite_sound ?_ ?_) | split
      | (with_reducible refine sound_upd ?_ rfl rfl rfl rfl rfl rfl rfl rfl) | (dsimp only))

theorem execImageLoad_sound {F : Kept} (flashAnswers : Bool) (s : State) (hs : s.Sound F) : SoundOut F
    (execImageLoad flashAnswers s) := by
  unfold execImageLoad
  try dsimp only
  repeat' (first
      | with_reducible exact soundOut_fault | (with_reducible apply soundOut_next)
      | (with_reducible refine soundOut_ite ?_ ?_) | with_reducible assumption | (with_reducible intro _)
      | with_reducible apply loadImage_sound | with_reducible apply stopBoot_sound
      | (with_reducible refine ite_sound ?_ ?_) | split | (dsimp only))

theorem execImageVerify_sound {F : Kept} (s : State) (hs : s.Sound F) : SoundOut F (execImageVerify s) := by
  unfold execImageVerify
  try dsimp only
  repeat' (first
      | with_reducible exact soundOut_fault | (with_reducible apply soundOut_next)
      | (with_reducible refine soundOut_ite ?_ ?_) | with_reducible assumption | (with_reducible intro _)
      | with_reducible apply enterStage_sound | with_reducible apply measureImage_sound
      | with_reducible apply stopBoot_sound | (with_reducible refine ite_sound ?_ ?_) | split
      | (with_reducible refine sound_upd ?_ rfl rfl rfl rfl rfl rfl rfl rfl) | (dsimp only))

theorem poolTake_sound {F : Kept} (u : PoolUser) (n : Nat) (s : State) (hs : s.Sound F) : State.Sound F
    (poolTake u n s) := by
  unfold poolTake
  try dsimp only
  repeat' (first | with_reducible assumption | (with_reducible refine sound_upd ?_ rfl rfl rfl rfl rfl rfl rfl rfl))

theorem poolGive_sound {F : Kept} (u : PoolUser) (s : State) (hs : s.Sound F) : State.Sound F (poolGive u s) := by
  unfold poolGive
  try dsimp only
  repeat' (first | with_reducible assumption | (with_reducible refine sound_upd ?_ rfl rfl rfl rfl rfl rfl rfl rfl))

theorem markPool_sound {F : Kept} (s : State) (hs : s.Sound F) : State.Sound F (markPool s) := by
  unfold markPool
  try dsimp only
  repeat' (first
      | with_reducible assumption | (with_reducible intro _) | (with_reducible apply foldl_sound)
      | (with_reducible refine ite_sound ?_ ?_) | split
      | (with_reducible refine sound_upd ?_ rfl rfl rfl rfl rfl rfl rfl rfl) | (dsimp only))

theorem execFirmwareInit_sound {F : Kept} (objects : List Digest) (s : State) (hs : s.Sound F) : SoundOut F
    (execFirmwareInit objects s) := by
  unfold execFirmwareInit
  try dsimp only
  repeat' (first
      | with_reducible exact soundOut_fault | (with_reducible apply soundOut_next)
      | (with_reducible refine soundOut_ite ?_ ?_) | with_reducible assumption | (with_reducible intro _)
      | with_reducible apply enterStage_sound | with_reducible apply inlineJobs_sound
      | with_reducible apply markPool_sound | with_reducible apply modBoot_sound
      | with_reducible apply poolTake_sound | with_reducible apply stopBoot_sound
      | with_reducible apply writeSurvey_sound | (with_reducible refine ite_sound ?_ ?_)
      | (with_reducible refine ite_pair_sound ?_ ?_) | (with_reducible refine ite_trip_sound ?_ ?_) | split
      | (with_reducible refine sound_upd ?_ rfl rfl rfl rfl rfl rfl rfl rfl) | (dsimp only))

theorem execRecoveryLoad_sound {F : Kept} (image : Bytes) (s : State) (hs : s.Sound F) : SoundOut F
    (execRecoveryLoad image s) := by
  unfold execRecoveryLoad
  try dsimp only
  repeat' (first
      | with_reducible exact soundOut_fault | (with_reducible apply soundOut_next)
      | (with_reducible refine soundOut_ite ?_ ?_) | with_reducible assumption | (with_reducible intro _)
      | with_reducible apply emit_sound | with_reducible apply modBoot_sound
      | (with_reducible refine ite_sound ?_ ?_) | split
      | (with_reducible refine sound_upd ?_ rfl rfl rfl rfl rfl rfl rfl rfl) | (dsimp only))

theorem execImageRewriteComplete_sound {F : Kept} (s : State) (hs : s.Sound F) : SoundOut F
    (execImageRewriteComplete s) := by
  unfold execImageRewriteComplete
  try dsimp only
  repeat' (first
      | with_reducible exact soundOut_fault | (with_reducible apply soundOut_next)
      | (with_reducible refine soundOut_ite ?_ ?_) | with_reducible assumption | (with_reducible intro _)
      | with_reducible apply finish_sound | with_reducible apply loadImage_sound
      | with_reducible apply modBoot_sound | with_reducible apply writeImage_sound
      | (with_reducible refine ite_sound ?_ ?_) | split
      | (with_reducible refine sound_upd ?_ rfl rfl rfl rfl rfl rfl rfl rfl) | (dsimp only))

theorem surveyReadCmd_sound {F : Kept} (bad : Bool) (o : Origin) (tag : BitVec 32) (first : BitVec 8)
    (count : BitVec 8) (s : State) (hs : s.Sound F) : State.Sound F (surveyReadCmd bad o tag first count s) := by
  unfold surveyReadCmd
  try dsimp only
  repeat' (first
      | with_reducible assumption | (with_reducible intro _) | with_reducible apply reply_sound
      | with_reducible apply runCmd_sound | split)

theorem execSurveyRead_sound {F : Kept} (o : Origin) (tag : BitVec 32) (first : BitVec 8) (count : BitVec 8)
    (s : State) (hs : s.Sound F) : SoundOut F (execSurveyRead o tag first count s) := by
  unfold execSurveyRead
  try dsimp only
  repeat' (first
      | with_reducible exact soundOut_fault | (with_reducible apply soundOut_next)
      | (with_reducible refine soundOut_ite ?_ ?_) | with_reducible assumption | (with_reducible intro _)
      | with_reducible apply surveyReadCmd_sound | (dsimp only))

theorem firmwareStageCmd_sound {F : Kept} (bad : Bool) (o : Origin) (tag : BitVec 32) (offset : BitVec 32)
    (data : Bytes) (s : State) (hs : s.Sound F) : State.Sound F (firmwareStageCmd bad o tag offset data s) := by
  unfold firmwareStageCmd
  try dsimp only
  repeat' (first
      | with_reducible assumption | (with_reducible intro _) | with_reducible apply modBoot_sound
      | with_reducible apply reply_sound | with_reducible apply runCmd_sound | split
      | (with_reducible refine sound_upd ?_ rfl rfl rfl rfl rfl rfl rfl rfl)
      | (with_reducible refine stackWriteN_upd ?_ rfl rfl rfl rfl rfl rfl rfl rfl)
      | (with_reducible refine devicesWriteN_upd ?_ rfl rfl rfl rfl rfl rfl rfl rfl))

theorem execFirmwareStage_sound {F : Kept} (o : Origin) (tag : BitVec 32) (offset : BitVec 32) (data : Bytes)
    (s : State) (hs : s.Sound F) : SoundOut F (execFirmwareStage o tag offset data s) := by
  unfold execFirmwareStage
  try dsimp only
  repeat' (first
      | with_reducible exact soundOut_fault | (with_reducible apply soundOut_next)
      | (with_reducible refine soundOut_ite ?_ ?_) | with_reducible assumption | (with_reducible intro _)
      | with_reducible apply firmwareStageCmd_sound | (dsimp only))

theorem firmwareActivateCmd_sound {F : Kept} (bad : Bool) (o : Origin) (tag : BitVec 32) (length : BitVec 32)
    (s : State) (hs : s.Sound F) : State.Sound F (firmwareActivateCmd bad o tag length s) := by
  unfold firmwareActivateCmd
  try dsimp only
  repeat' (first
      | with_reducible assumption | (with_reducible intro _) | with_reducible apply finish_sound
      | with_reducible apply modBoot_sound | with_reducible apply pend_sound | with_reducible apply runCmd_sound
      | (with_reducible refine ite_sound ?_ ?_) | split
      | (with_reducible refine sound_upd ?_ rfl rfl rfl rfl rfl rfl rfl rfl))

theorem execFirmwareActivate_sound {F : Kept} (o : Origin) (tag : BitVec 32) (length : BitVec 32) (s : State)
    (hs : s.Sound F) : SoundOut F (execFirmwareActivate o tag length s) := by
  unfold execFirmwareActivate
  try dsimp only
  repeat' (first
      | with_reducible exact soundOut_fault | (with_reducible apply soundOut_next)
      | (with_reducible refine soundOut_ite ?_ ?_) | with_reducible assumption | (with_reducible intro _)
      | with_reducible apply firmwareActivateCmd_sound | (dsimp only))

theorem firmwareCommitSvnCmd_sound {F : Kept} (bad : Bool) (o : Origin) (tag n : BitVec 32) (s : State)
    (hs : s.Sound F) :
    State.Sound F (firmwareCommitSvnCmd bad o tag n s) := by
  unfold firmwareCommitSvnCmd
  refine runCmd_sound _ _ _ _ _ _ _ _ hs ?_
  intro t ht
  dsimp only
  refine reply_sound _ _ _ _ _ _ ?_
  split
  · exact ht
  · exact fuses_sound ht (Fuses.blownIn_svn ht.2.2.1.1 _)


theorem execFirmwareCommitSvn_sound {F : Kept} (o : Origin) (tag : BitVec 32) (n : BitVec 32) (s : State)
    (hs : s.Sound F) : SoundOut F (execFirmwareCommitSvn o tag n s) := by
  unfold execFirmwareCommitSvn
  try dsimp only
  repeat' (first
      | with_reducible exact soundOut_fault | (with_reducible apply soundOut_next)
      | (with_reducible refine soundOut_ite ?_ ?_) | with_reducible assumption | (with_reducible intro _)
      | with_reducible apply firmwareCommitSvnCmd_sound | (dsimp only))

end Sys2Proof.Machine
end

