-- ==== Sys2Proof/Laws/SoundSca.lean ====
section
/-! SUPPORT. What the operations of Machine/Sca.lean keep: memories in canonical form, registers in range, blown
fuses and bounded fault rings (State.Sound). -/

namespace Sys2Proof.Machine

theorem scaRefuse_sound {F : Kept} (r : ScaReq) (op : BitVec 3) (st : Status) (s : State) (hs : s.Sound F) :
    State.Sound F (scaRefuse r op st s) := by
  unfold scaRefuse
  try dsimp only
  repeat' (first
      | with_reducible assumption | with_reducible apply scaAnswer_sound | with_reducible apply writeFault_sound
      | split | (with_reducible refine sound_upd ?_ rfl rfl rfl rfl rfl rfl rfl rfl))

theorem scaReadEffect_sound {F : Kept} (r : ScaReq) (s : State) (hs : s.Sound F) : State.Sound F
    (scaReadEffect r s) := by
  unfold scaReadEffect
  try dsimp only
  repeat' (first | with_reducible assumption | with_reducible apply scaAnswer_sound)

theorem incEffect_sound {F : Kept} (r : ScaReq) (s : State) (hs : s.Sound F) : State.Sound F (incEffect r s) := by
  unfold incEffect
  try dsimp only
  repeat' (first
      | with_reducible assumption | with_reducible apply changeSync_sound | with_reducible apply scaAnswer_sound
      | with_reducible apply syncFault_sound | (with_reducible refine ite_sound ?_ ?_) | split)

theorem decEffect_sound {F : Kept} (r : ScaReq) (s : State) (hs : s.Sound F) : State.Sound F (decEffect r s) := by
  unfold decEffect
  try dsimp only
  repeat' (first
      | with_reducible assumption | with_reducible apply changeSync_sound | with_reducible apply scaAnswer_sound
      | with_reducible apply syncFault_sound | (with_reducible refine ite_sound ?_ ?_) | split)

theorem setEffect_sound {F : Kept} (r : ScaReq) (s : State) (hs : s.Sound F) : State.Sound F (setEffect r s) := by
  unfold setEffect
  try dsimp only
  repeat' (first
      | with_reducible assumption | with_reducible apply changeSync_sound | with_reducible apply scaAnswer_sound)

theorem waitEffect_sound {F : Kept} (subtracts : Bool) (r : ScaReq) (s : State) (hs : s.Sound F) : State.Sound F
    (waitEffect subtracts r s) := by
  unfold waitEffect
  try dsimp only
  repeat' (first
      | with_reducible assumption | (with_reducible intro _) | with_reducible apply count_sound
      | with_reducible apply scaAnswer_sound | with_reducible apply setSync_sound
      | (with_reducible refine ite_sound ?_ ?_) | split
      | (with_reducible refine sound_upd ?_ rfl rfl rfl rfl rfl rfl rfl rfl))

theorem scaEffect_sound {F : Kept} (op : BitVec 3) (r : ScaReq) (s : State) (hs : s.Sound F) : State.Sound F
    (scaEffect op r s) := by
  unfold scaEffect
  try dsimp only
  repeat' (first
      | with_reducible assumption | with_reducible apply decEffect_sound | with_reducible apply incEffect_sound
      | with_reducible apply scaReadEffect_sound | with_reducible apply setEffect_sound
      | with_reducible apply waitEffect_sound | split
      | (with_reducible refine sound_upd ?_ rfl rfl rfl rfl rfl rfl rfl rfl))

theorem scaRequest_sound {F : Kept} (op : BitVec 3) (r : ScaReq) (s : State) (hs : s.Sound F) : State.Sound F
    (scaRequest op r s) := by
  unfold scaRequest
  try dsimp only
  repeat' (first
      | with_reducible assumption | with_reducible apply scaAnswer_sound | with_reducible apply scaEffect_sound
      | with_reducible apply scaRefuse_sound | (with_reducible refine ite_sound ?_ ?_) | split
      | (with_reducible refine sound_upd ?_ rfl rfl rfl rfl rfl rfl rfl rfl))

theorem scaArrive_sound {F : Kept} (op : BitVec 3) (r : ScaReq) (s : State) (hs : s.Sound F) : State.Sound F
    (scaArrive op r s) := by
  unfold scaArrive
  try dsimp only
  repeat' (first
      | with_reducible assumption | (with_reducible intro _) | with_reducible apply enter_sound
      | with_reducible apply scaRequest_sound | (with_reducible refine ite_sound ?_ ?_) | split)

theorem execScaRead_sound {F : Kept} (r : ScaReq) (s : State) (hs : s.Sound F) : SoundOut F (execScaRead r s) := by
  unfold execScaRead
  try dsimp only
  repeat' (first
      | with_reducible exact soundOut_fault | (with_reducible apply soundOut_next)
      | (with_reducible refine soundOut_ite ?_ ?_) | with_reducible assumption | (with_reducible intro _)
      | with_reducible apply scaArrive_sound | (dsimp only))

theorem execInc_sound {F : Kept} (r : ScaReq) (s : State) (hs : s.Sound F) : SoundOut F (execInc r s) := by
  unfold execInc
  try dsimp only
  repeat' (first
      | with_reducible exact soundOut_fault | (with_reducible apply soundOut_next)
      | (with_reducible refine soundOut_ite ?_ ?_) | with_reducible assumption | (with_reducible intro _)
      | with_reducible apply scaArrive_sound | (dsimp only))

theorem execDec_sound {F : Kept} (r : ScaReq) (s : State) (hs : s.Sound F) : SoundOut F (execDec r s) := by
  unfold execDec
  try dsimp only
  repeat' (first
      | with_reducible exact soundOut_fault | (with_reducible apply soundOut_next)
      | (with_reducible refine soundOut_ite ?_ ?_) | with_reducible assumption | (with_reducible intro _)
      | with_reducible apply scaArrive_sound | (dsimp only))

theorem execWaitGe_sound {F : Kept} (r : ScaReq) (s : State) (hs : s.Sound F) : SoundOut F (execWaitGe r s) := by
  unfold execWaitGe
  try dsimp only
  repeat' (first
      | with_reducible exact soundOut_fault | (with_reducible apply soundOut_next)
      | (with_reducible refine soundOut_ite ?_ ?_) | with_reducible assumption | (with_reducible intro _)
      | with_reducible apply scaArrive_sound | (dsimp only))

theorem execWaitDec_sound {F : Kept} (r : ScaReq) (s : State) (hs : s.Sound F) : SoundOut F (execWaitDec r s) := by
  unfold execWaitDec
  try dsimp only
  repeat' (first
      | with_reducible exact soundOut_fault | (with_reducible apply soundOut_next)
      | (with_reducible refine soundOut_ite ?_ ?_) | with_reducible assumption | (with_reducible intro _)
      | with_reducible apply scaArrive_sound | (dsimp only))

theorem execSet_sound {F : Kept} (r : ScaReq) (s : State) (hs : s.Sound F) : SoundOut F (execSet r s) := by
  unfold execSet
  try dsimp only
  repeat' (first
      | with_reducible exact soundOut_fault | (with_reducible apply soundOut_next)
      | (with_reducible refine soundOut_ite ?_ ?_) | with_reducible assumption | (with_reducible intro _)
      | with_reducible apply scaArrive_sound | (dsimp only))

theorem execScaInvalidOp_sound {F : Kept} (r : ScaReq) (op : BitVec 3) (s : State) (hs : s.Sound F) : SoundOut F
    (execScaInvalidOp r op s) := by
  unfold execScaInvalidOp
  try dsimp only
  repeat' (first
      | with_reducible exact soundOut_fault | (with_reducible apply soundOut_next)
      | (with_reducible refine soundOut_ite ?_ ?_) | with_reducible assumption | (with_reducible intro _)
      | with_reducible apply scaArrive_sound | split | (dsimp only))

theorem execWaitIdleThreshold_sound {F : Kept} (core : BitVec 9) (s : State) (hs : s.Sound F) : SoundOut F
    (execWaitIdleThreshold core s) := by
  unfold execWaitIdleThreshold
  try dsimp only
  repeat' (first
      | with_reducible exact soundOut_fault | (with_reducible apply soundOut_next)
      | (with_reducible refine soundOut_ite ?_ ?_) | with_reducible assumption | (with_reducible intro _)
      | with_reducible apply count_sound | (with_reducible refine ite_sound ?_ ?_) | split
      | (with_reducible refine sound_upd ?_ rfl rfl rfl rfl rfl rfl rfl rfl) | (dsimp only))

end Sys2Proof.Machine
end

