-- ==== Sys2Proof/Laws/SoundFreeze.lean ====
section
/-! SUPPORT. What the operations of Machine/Freeze.lean keep: memories in canonical form, registers in range, blown
fuses and bounded fault rings (State.Sound). -/

namespace Sys2Proof.Machine

theorem endHold_sound {F : Kept} (c : CtxId) (st : Status) (s : State) (hs : s.Sound F) : State.Sound F
    (endHold c st s) := by
  unfold endHold
  try dsimp only
  repeat' (first
      | with_reducible assumption | (with_reducible intro _) | with_reducible apply dropMarks_sound
      | with_reducible apply endDescriptor_sound | with_reducible apply modContext_sound | split
      | (with_reducible refine sound_upd ?_ rfl rfl rfl rfl rfl rfl rfl rfl))

theorem completeStep_sound {F : Kept} (c : CtxId) (s : State) (hs : s.Sound F) : State.Sound F
    (completeStep c s) := by
  unfold completeStep
  try dsimp only
  repeat' (first
      | with_reducible assumption | (with_reducible intro _) | with_reducible apply emitTrace_sound
      | with_reducible apply endHold_sound | with_reducible apply modContext_sound
      | with_reducible apply profResetQueue_sound | (with_reducible refine ite_sound ?_ ?_) | split
      | (with_reducible refine sound_upd ?_ rfl rfl rfl rfl rfl rfl rfl rfl))

theorem beginDueSteps_sound {F : Kept} (p : PolderId) (s : State) (hs : s.Sound F) : State.Sound F
    (beginDueSteps p s) := by
  unfold beginDueSteps
  try dsimp only
  repeat' (first
      | with_reducible assumption | (with_reducible intro _) | with_reducible apply completeStep_sound
      | (with_reducible apply foldl_sound) | (dsimp only))

theorem resumeSca_sound {F : Kept} (p : PolderId) (s : State) (hs : s.Sound F) : State.Sound F (resumeSca p s) := by
  unfold resumeSca
  try dsimp only
  repeat' (first
      | with_reducible assumption | (with_reducible intro _) | with_reducible apply scaRequest_sound
      | (with_reducible apply foldl_sound) | split
      | (with_reducible refine sound_upd ?_ rfl rfl rfl rfl rfl rfl rfl rfl) | (dsimp only))

theorem thaw_sound {F : Kept} (p : PolderId) (s : State) (hs : s.Sound F) : State.Sound F (thaw p s) := by
  unfold thaw
  try dsimp only
  repeat' (first
      | with_reducible assumption | (with_reducible intro _) | with_reducible apply beginDueSteps_sound
      | with_reducible apply modPolder_sound | with_reducible apply resumeHeld_sound
      | with_reducible apply resumeSca_sound | (with_reducible refine sound_upd ?_ rfl rfl rfl rfl rfl rfl rfl rfl))

theorem thawChart_sound {F : Kept} (p : PolderId) (s : State) (hs : s.Sound F) : State.Sound F (thawChart p s) := by
  unfold thawChart
  try dsimp only
  repeat' (first
      | with_reducible assumption | with_reducible apply thaw_sound | (with_reducible refine ite_sound ?_ ?_)
      | split | (with_reducible refine sound_upd ?_ rfl rfl rfl rfl rfl rfl rfl rfl))

theorem endExport_sound {F : Kept} (p : PolderId) (st : Status) (payload : Bytes) (s : State) (hs : s.Sound F) :
    State.Sound F (endExport p st payload s) := by
  unfold endExport
  try dsimp only
  repeat' (first
      | with_reducible assumption | (with_reducible intro _) | with_reducible apply finish_sound
      | with_reducible apply poolGive_sound | split
      | (with_reducible refine sound_upd ?_ rfl rfl rfl rfl rfl rfl rfl rfl))

theorem endImport_sound {F : Kept} (p : PolderId) (st : Status) (s : State) (hs : s.Sound F) : State.Sound F
    (endImport p st s) := by
  unfold endImport
  try dsimp only
  repeat' (first
      | with_reducible assumption | (with_reducible intro _) | with_reducible apply finish_sound
      | with_reducible apply poolGive_sound | split
      | (with_reducible refine sound_upd ?_ rfl rfl rfl rfl rfl rfl rfl rfl))

theorem endChartWaits_sound {F : Kept} (p : PolderId) (st : Status) (s : State) (hs : s.Sound F) : State.Sound F
    (endChartWaits p st s) := by
  unfold endChartWaits
  try dsimp only
  repeat' (first
      | with_reducible assumption | (with_reducible intro _) | with_reducible apply endExport_sound
      | with_reducible apply endImport_sound | with_reducible apply thawChart_sound
      | (with_reducible refine ite_sound ?_ ?_) | split)

end Sys2Proof.Machine
end

