-- ==== Sys2Proof/Laws/SoundRings.lean ====
section
/-! SUPPORT. What the operations of Machine/Rings.lean keep: memories in canonical form, registers in range, blown
fuses and bounded fault rings (State.Sound). -/

namespace Sys2Proof.Machine

theorem modRingOf_sound {F : Kept} (r : BitVec 12) (f : Ring → Ring) (s : State) (hs : s.Sound F) : State.Sound F
    (modRingOf r f s) := by
  unfold modRingOf
  try dsimp only
  repeat' (first
      | with_reducible assumption | (with_reducible intro _)
      | (with_reducible refine sound_upd ?_ rfl rfl rfl rfl rfl rfl rfl rfl))

theorem modRings_sound {F : Kept} (f : Rings → Rings) (s : State) (hs : s.Sound F) : State.Sound F
    (modRings f s) := by
  unfold modRings
  try dsimp only
  repeat' (first | with_reducible assumption | (with_reducible refine sound_upd ?_ rfl rfl rfl rfl rfl rfl rfl rfl))

theorem homeLost_sound {F : Kept} (r : Ring) (home : BitVec 3) (cause : Nat) (s : State) (hs : s.Sound F) :
    State.Sound F (homeLost r home cause s) := by
  unfold homeLost
  try dsimp only
  repeat' (first | with_reducible assumption | with_reducible apply writeFault_sound)

theorem sendRingRequest_sound {F : Kept} (r : Ring) (k : BitVec 3) (msg : BitVec 4) (addr : BitVec 64)
    (data : Bytes) (s : State) (hs : s.Sound F) : State.Sound F (sendRingRequest r k msg addr data s).2 := by
  unfold sendRingRequest
  try dsimp only
  repeat' (first
      | with_reducible assumption | (with_reducible intro _) | with_reducible apply modRings_sound
      | with_reducible apply sendPacket_sound | with_reducible apply takeSeq_sound
      | (with_reducible refine ite_sound ?_ ?_) | (with_reducible refine ite_pair_sound ?_ ?_)
      | (with_reducible refine ite_trip_sound ?_ ?_) | split
      | (refine sound_of_pair (by with_reducible assumption) ?_)
      | (refine sound_of_trip (by with_reducible assumption) ?_)
      | (with_reducible refine sound_upd ?_ rfl rfl rfl rfl rfl rfl rfl rfl) | (dsimp only))

theorem sendLine_sound {F : Kept} (r : Ring) (k : BitVec 3) (msg : BitVec 4) (addr : BitVec 64) (data : Bytes)
    (s : State) (hs : s.Sound F) : State.Sound F (sendLine r k msg addr data s) := by
  unfold sendLine
  try dsimp only
  repeat' (first
      | with_reducible assumption | with_reducible apply emit_sound | with_reducible apply sendRingRequest_sound
      | (with_reducible refine ite_pair_sound ?_ ?_) | (with_reducible refine ite_trip_sound ?_ ?_) | split
      | (refine sound_of_pair (by with_reducible assumption) ?_)
      | (refine sound_of_trip (by with_reducible assumption) ?_)
      | (with_reducible refine sound_upd ?_ rfl rfl rfl rfl rfl rfl rfl rfl) | (dsimp only))

theorem ringReply_sound {F : Kept} (r : Ring) (m : Released) (msg : BitVec 4) (st : Status) (state : BitVec 2)
    (data : Bytes) (s : State) (hs : s.Sound F) : State.Sound F (ringReply r m msg st state data s) := by
  unfold ringReply
  try dsimp only
  repeat' (first
      | with_reducible assumption | with_reducible apply emit_sound | with_reducible apply sendQuietly_sound
      | (with_reducible refine ite_sound ?_ ?_) | split)

theorem ringRefuse_sound {F : Kept} (r : Ring) (m : Released) (st : Status) (s : State) (hs : s.Sound F) :
    State.Sound F (ringRefuse r m st s) := by
  unfold ringRefuse
  try dsimp only
  repeat' (first | with_reducible assumption | with_reducible apply ringReply_sound)

theorem setLine_sound {F : Kept} (e : DirEntry) (s : State) (hs : s.Sound F) : State.Sound F (setLine e s) := by
  unfold setLine
  try dsimp only
  repeat' (first
      | with_reducible assumption | (with_reducible intro _) | with_reducible apply modRings_sound
      | (with_reducible refine sound_upd ?_ rfl rfl rfl rfl rfl rfl rfl rfl))

theorem freeLine_sound {F : Kept} (ring : BitVec 12) (line : BitVec 37) (s : State) (hs : s.Sound F) : State.Sound F
    (freeLine ring line s) := by
  unfold freeLine
  try dsimp only
  repeat' (first
      | with_reducible assumption | (with_reducible intro _) | with_reducible apply modRings_sound
      | (with_reducible refine sound_upd ?_ rfl rfl rfl rfl rfl rfl rfl rfl))

theorem denyTxn_sound {F : Kept} (ring : BitVec 12) (line : BitVec 37) (s : State) (hs : s.Sound F) : State.Sound F
    (denyTxn ring line s) := by
  unfold denyTxn
  try dsimp only
  repeat' (first
      | with_reducible assumption | (with_reducible intro _) | with_reducible apply freeLine_sound
      | with_reducible apply modRings_sound | with_reducible apply ringRefuse_sound
      | with_reducible apply setLine_sound | split
      | (with_reducible refine sound_upd ?_ rfl rfl rfl rfl rfl rfl rfl rfl))

theorem numberSnoop_sound {F : Kept} (r : Ring) (k : BitVec 3) (msg : BitVec 4) (addr : BitVec 64) (s : State)
    (hs : s.Sound F) : State.Sound F (numberSnoop r k msg addr s) := by
  unfold numberSnoop
  try dsimp only
  repeat' (first
      | with_reducible assumption | with_reducible apply denyTxn_sound | with_reducible apply sendRingRequest_sound
      | (with_reducible refine ite_pair_sound ?_ ?_) | (with_reducible refine ite_trip_sound ?_ ?_) | split
      | (refine sound_of_pair (by with_reducible assumption) ?_)
      | (refine sound_of_trip (by with_reducible assumption) ?_)
      | (with_reducible refine sound_upd ?_ rfl rfl rfl rfl rfl rfl rfl rfl) | (dsimp only))

theorem sendSnoop_sound {F : Kept} (r : Ring) (line : BitVec 37) (k : BitVec 3) (msg : BitVec 4) (s : State)
    (hs : s.Sound F) : State.Sound F (sendSnoop r line k msg s) := by
  unfold sendSnoop
  try dsimp only
  repeat' (first
      | with_reducible assumption | (with_reducible intro _) | with_reducible apply count_sound
      | with_reducible apply emit_sound | with_reducible apply modRings_sound
      | with_reducible apply numberSnoop_sound | (with_reducible refine ite_sound ?_ ?_) | split
      | (with_reducible refine sound_upd ?_ rfl rfl rfl rfl rfl rfl rfl rfl))

theorem homeAccess_sound {F : Kept} (r : Ring) (line : BitVec 37) (data : Option Bytes) (s : State)
    (hs : s.Sound F) : State.Sound F (homeAccess r line data s).2 := by
  unfold homeAccess
  try dsimp only
  repeat' (first
      | with_reducible assumption | (with_reducible intro _) | with_reducible apply homeLost_sound
      | with_reducible apply keepLookups_sound | with_reducible apply leaseCheck_sound
      | with_reducible apply stackTargetChange_sound | with_reducible apply stackTargetRead_sound
      | with_reducible apply trayChange_sound | with_reducible apply trayRead_sound
      | with_reducible apply withTray_sound | (with_reducible refine ite_sound ?_ ?_)
      | (with_reducible refine ite_pair_sound ?_ ?_) | (with_reducible refine ite_trip_sound ?_ ?_) | split
      | (refine sound_of_pair (by with_reducible assumption) ?_)
      | (refine sound_of_trip (by with_reducible assumption) ?_)
      | (with_reducible refine sound_upd ?_ rfl rfl rfl rfl rfl rfl rfl rfl) | (dsimp only))

theorem allocLine_sound {F : Kept} (ring : BitVec 12) (line : BitVec 37) (state : LineState) (sharers : BitVec 8)
    (owner : BitVec 3) (s : State) (hs : s.Sound F) : State.Sound F
    (allocLine ring line state sharers owner s) := by
  unfold allocLine
  try dsimp only
  repeat' (first
      | with_reducible assumption | (with_reducible intro _) | with_reducible apply modRings_sound
      | (with_reducible refine sound_upd ?_ rfl rfl rfl rfl rfl rfl rfl rfl))

theorem startTxn_sound {F : Kept} (r : Ring) (e : DirEntry) (invalidate : List (BitVec 3)) (recalled : Option
    (BitVec 3 × BitVec 4)) (goal : RingGoal) (s : State) (hs : s.Sound F) : State.Sound F
    (startTxn r e invalidate recalled goal s) := by
  unfold startTxn
  try dsimp only
  repeat' (first
      | with_reducible assumption | (with_reducible intro _) | with_reducible apply modRings_sound
      | with_reducible apply sendSnoop_sound | with_reducible apply setLine_sound
      | (with_reducible apply foldl_sound) | split
      | (with_reducible refine sound_upd ?_ rfl rfl rfl rfl rfl rfl rfl rfl) | (dsimp only))

theorem clearLine_sound {F : Kept} (r : Ring) (e : DirEntry) (goal : RingGoal) (s : State) (hs : s.Sound F) :
    State.Sound F (clearLine r e goal s) := by
  unfold clearLine
  try dsimp only
  repeat' (first
      | with_reducible assumption | with_reducible apply startTxn_sound | split
      | (with_reducible refine sound_upd ?_ rfl rfl rfl rfl rfl rfl rfl rfl))

theorem keepWaiting_sound {F : Kept} (m : Released) (s : State) (hs : s.Sound F) : State.Sound F
    (keepWaiting m s) := by
  unfold keepWaiting
  try dsimp only
  repeat' (first
      | with_reducible assumption | (with_reducible intro _) | with_reducible apply modRings_sound
      | (with_reducible refine sound_upd ?_ rfl rfl rfl rfl rfl rfl rfl rfl))

theorem dropHeld_sound {F : Kept} (ring : BitVec 12) (line : BitVec 37) (s : State) (hs : s.Sound F) : State.Sound F
    (dropHeld ring line s) := by
  unfold dropHeld
  try dsimp only
  repeat' (first
      | with_reducible assumption | (with_reducible intro _) | with_reducible apply freeLine_sound
      | (with_reducible refine ite_sound ?_ ?_) | split
      | (with_reducible refine sound_upd ?_ rfl rfl rfl rfl rfl rfl rfl rfl))

theorem grantLine_sound {F : Kept} (r : Ring) (m : Released) (line : BitVec 37) (state : BitVec 2)
    (upd : State → State) (s : State) (hs : s.Sound F) (h_upd : ∀ s : State, s.Sound F → (upd s).Sound F) :
    State.Sound F (grantLine r m line state upd s) := by
  unfold grantLine
  try dsimp only
  repeat' (first
      | with_reducible assumption | with_reducible apply dropHeld_sound | with_reducible apply homeAccess_sound
      | with_reducible apply keepWaiting_sound | with_reducible apply ringRefuse_sound
      | with_reducible apply ringReply_sound | with_reducible apply h_upd
      | (with_reducible refine ite_pair_sound ?_ ?_) | (with_reducible refine ite_trip_sound ?_ ?_) | split
      | (refine sound_of_pair (by with_reducible assumption) ?_)
      | (refine sound_of_trip (by with_reducible assumption) ?_)
      | (with_reducible refine sound_upd ?_ rfl rfl rfl rfl rfl rfl rfl rfl) | (dsimp only))

theorem serveUncached_sound {F : Kept} (r : Ring) (k : BitVec 3) (m : Released) (line : BitVec 37) (shared : Bool)
    (s : State) (hs : s.Sound F) : State.Sound F (serveUncached r k m line shared s) := by
  unfold serveUncached
  try dsimp only
  repeat' (first
      | with_reducible assumption | (with_reducible intro _) | with_reducible apply allocLine_sound
      | with_reducible apply clearLine_sound | with_reducible apply count_sound
      | with_reducible apply grantLine_sound | with_reducible apply keepWaiting_sound
      | with_reducible apply ringRefuse_sound | (with_reducible apply foldl_sound)
      | (with_reducible refine ite_sound ?_ ?_) | split
      | (with_reducible refine sound_upd ?_ rfl rfl rfl rfl rfl rfl rfl rfl) | (dsimp only))

theorem serveShared_sound {F : Kept} (r : Ring) (k : BitVec 3) (m : Released) (e : DirEntry) (s : State)
    (hs : s.Sound F) : State.Sound F (serveShared r k m e s) := by
  unfold serveShared
  try dsimp only
  repeat' (first
      | with_reducible assumption | (with_reducible intro _) | with_reducible apply freeLine_sound
      | with_reducible apply grantLine_sound | with_reducible apply ringReply_sound
      | with_reducible apply setLine_sound | with_reducible apply startTxn_sound
      | (with_reducible refine ite_sound ?_ ?_) | split
      | (with_reducible refine sound_upd ?_ rfl rfl rfl rfl rfl rfl rfl rfl))

theorem serveModified_sound {F : Kept} (r : Ring) (k : BitVec 3) (m : Released) (e : DirEntry) (s : State)
    (hs : s.Sound F) : State.Sound F (serveModified r k m e s) := by
  unfold serveModified
  try dsimp only
  repeat' (first
      | with_reducible assumption | (with_reducible intro _) | with_reducible apply freeLine_sound
      | with_reducible apply grantLine_sound | with_reducible apply homeAccess_sound
      | with_reducible apply keepWaiting_sound | with_reducible apply ringReply_sound
      | with_reducible apply startTxn_sound | (with_reducible apply id_sound)
      | (with_reducible refine ite_sound ?_ ?_) | (with_reducible refine ite_pair_sound ?_ ?_)
      | (with_reducible refine ite_trip_sound ?_ ?_) | split
      | (refine sound_of_pair (by with_reducible assumption) ?_)
      | (refine sound_of_trip (by with_reducible assumption) ?_)
      | (with_reducible refine sound_upd ?_ rfl rfl rfl rfl rfl rfl rfl rfl) | (dsimp only))

theorem serveLine_sound {F : Kept} (m : Released) (s : State) (hs : s.Sound F) : State.Sound F (serveLine m s) := by
  unfold serveLine
  try dsimp only
  repeat' (first
      | with_reducible assumption | with_reducible apply dropHeld_sound | with_reducible apply keepWaiting_sound
      | with_reducible apply ringRefuse_sound | with_reducible apply ringReply_sound
      | with_reducible apply serveModified_sound | with_reducible apply serveShared_sound
      | with_reducible apply serveUncached_sound | with_reducible apply wakeDomain_sound
      | (with_reducible refine ite_sound ?_ ?_) | split
      | (with_reducible refine sound_upd ?_ rfl rfl rfl rfl rfl rfl rfl rfl))

theorem pumpRings_sound {F : Kept} (s : State) (hs : s.Sound F) : State.Sound F (pumpRings s) := by
  unfold pumpRings
  try dsimp only
  repeat' (first
      | with_reducible assumption | (with_reducible intro _) | with_reducible apply modRings_sound
      | with_reducible apply serveLine_sound | (with_reducible apply foldl_sound)
      | (with_reducible refine sound_upd ?_ rfl rfl rfl rfl rfl rfl rfl rfl) | (dsimp only))

theorem dropRing_sound {F : Kept} (r : Ring) (s : State) (hs : s.Sound F) : State.Sound F (dropRing r s) := by
  unfold dropRing
  try dsimp only
  repeat' (first
      | with_reducible assumption | (with_reducible intro _) | with_reducible apply modRings_sound
      | (with_reducible refine sound_upd ?_ rfl rfl rfl rfl rfl rfl rfl rfl))

theorem retireRing_sound {F : Kept} (r : Ring) (s : State) (hs : s.Sound F) : State.Sound F (retireRing r s) := by
  unfold retireRing
  try dsimp only
  repeat' (first
      | with_reducible assumption | (with_reducible intro _) | with_reducible apply dropRing_sound
      | with_reducible apply modRings_sound | (with_reducible refine sound_upd ?_ rfl rfl rfl rfl rfl rfl rfl rfl))

theorem destroyStep_sound {F : Kept} (r : Ring) (s : State) (hs : s.Sound F) : State.Sound F (destroyStep r s) := by
  unfold destroyStep
  try dsimp only
  repeat' (first
      | with_reducible assumption | (with_reducible intro _) | with_reducible apply clearLine_sound
      | with_reducible apply finishAll_sound | with_reducible apply freeLine_sound
      | with_reducible apply retireRing_sound | (with_reducible apply foldl_sound)
      | (with_reducible refine ite_sound ?_ ?_) | split
      | (with_reducible refine sound_upd ?_ rfl rfl rfl rfl rfl rfl rfl rfl) | (dsimp only))

theorem finishTxn_sound {F : Kept} (t : RingTxn) (lost : Bool) (s : State) (hs : s.Sound F) : State.Sound F
    (finishTxn t lost s) := by
  unfold finishTxn
  try dsimp only
  repeat' (first
      | with_reducible assumption | (with_reducible intro _) | with_reducible apply destroyStep_sound
      | with_reducible apply freeLine_sound | with_reducible apply modRings_sound
      | with_reducible apply pumpRings_sound | with_reducible apply setLine_sound
      | (with_reducible refine ite_sound ?_ ?_) | split
      | (with_reducible refine sound_upd ?_ rfl rfl rfl rfl rfl rfl rfl rfl))

theorem settleTxn_sound {F : Kept} (ring : BitVec 12) (line : BitVec 37) (k : BitVec 3) (lost : Bool) (s : State)
    (hs : s.Sound F) : State.Sound F (settleTxn ring line k lost s) := by
  unfold settleTxn
  try dsimp only
  repeat' (first
      | with_reducible assumption | (with_reducible intro _) | with_reducible apply finishTxn_sound
      | with_reducible apply modRings_sound | (with_reducible refine ite_sound ?_ ?_) | split
      | (with_reducible refine sound_upd ?_ rfl rfl rfl rfl rfl rfl rfl rfl))

theorem snoopAnswered_sound {F : Kept} (r : Ring) (line : BitVec 37) (k : BitVec 3) (data : Option Bytes)
    (s : State) (hs : s.Sound F) : State.Sound F (snoopAnswered r line k data s).2 := by
  unfold snoopAnswered
  try dsimp only
  repeat' (first
      | with_reducible assumption | (with_reducible intro _) | with_reducible apply homeAccess_sound
      | with_reducible apply modRings_sound | with_reducible apply settleTxn_sound
      | (with_reducible refine ite_sound ?_ ?_) | (with_reducible refine ite_pair_sound ?_ ?_)
      | (with_reducible refine ite_trip_sound ?_ ?_) | split
      | (refine sound_of_pair (by with_reducible assumption) ?_)
      | (refine sound_of_trip (by with_reducible assumption) ?_)
      | (with_reducible refine sound_upd ?_ rfl rfl rfl rfl rfl rfl rfl rfl) | (dsimp only))

theorem homeAgain_sound {F : Kept} (r : Ring) (m : Released) (s : State) (hs : s.Sound F) : State.Sound F
    (homeAgain r m s) := by
  unfold homeAgain
  try dsimp only
  repeat' (first
      | with_reducible assumption | (with_reducible intro _) | with_reducible apply homeAccess_sound
      | with_reducible apply modRings_sound | with_reducible apply ringReply_sound
      | (with_reducible refine ite_sound ?_ ?_) | (with_reducible refine ite_pair_sound ?_ ?_)
      | (with_reducible refine ite_trip_sound ?_ ?_) | split
      | (refine sound_of_pair (by with_reducible assumption) ?_)
      | (refine sound_of_trip (by with_reducible assumption) ?_)
      | (with_reducible refine sound_upd ?_ rfl rfl rfl rfl rfl rfl rfl rfl) | (dsimp only))

theorem homeRequest_sound {F : Kept} (msg : Nat) (s : State) (hs : s.Sound F) : State.Sound F
    (homeRequest msg s) := by
  unfold homeRequest
  try dsimp only
  repeat' (first
      | with_reducible assumption | with_reducible apply count_sound | with_reducible apply dropReleased_sound
      | with_reducible apply homeAgain_sound | with_reducible apply raiseRecord_sound
      | with_reducible apply retryMemWait_sound | with_reducible apply ringRefuse_sound
      | with_reducible apply serveLine_sound | with_reducible apply setSeen_sound
      | (with_reducible refine ite_sound ?_ ?_) | split
      | (with_reducible refine sound_upd ?_ rfl rfl rfl rfl rfl rfl rfl rfl))

theorem retryAgain_sound {F : Kept} (s : State) (hs : s.Sound F) : State.Sound F (retryAgain s) := by
  unfold retryAgain
  try dsimp only
  repeat' (first
      | with_reducible assumption | (with_reducible intro _) | with_reducible apply homeAgain_sound
      | with_reducible apply modRings_sound | (with_reducible apply foldl_sound) | split
      | (with_reducible refine sound_upd ?_ rfl rfl rfl rfl rfl rfl rfl rfl) | (dsimp only))

theorem answerSnoop_sound {F : Kept} (r : Ring) (m : Released) (data : Option Bytes) (s : State) (hs : s.Sound F) :
    State.Sound F (answerSnoop r m data s) := by
  unfold answerSnoop
  try dsimp only
  repeat' (first
      | with_reducible assumption | with_reducible apply ringReply_sound | split
      | (with_reducible refine sound_upd ?_ rfl rfl rfl rfl rfl rfl rfl rfl))

theorem takeReply_sound {F : Kept} (s : State) (x : SnoopReply) (hs : s.Sound F) : State.Sound F (takeReply s x) := by
  unfold takeReply
  try dsimp only
  repeat' (first
      | with_reducible assumption | (with_reducible intro _) | with_reducible apply answerSnoop_sound
      | with_reducible apply count_sound | with_reducible apply modRings_sound
      | with_reducible apply snoopAnswered_sound | (with_reducible refine ite_sound ?_ ?_)
      | (with_reducible refine ite_pair_sound ?_ ?_) | (with_reducible refine ite_trip_sound ?_ ?_) | split
      | (refine sound_of_pair (by with_reducible assumption) ?_)
      | (refine sound_of_trip (by with_reducible assumption) ?_)
      | (with_reducible refine sound_upd ?_ rfl rfl rfl rfl rfl rfl rfl rfl) | (dsimp only))

theorem retryReplies_sound {F : Kept} (s : State) (hs : s.Sound F) : State.Sound F (retryReplies s) := by
  unfold retryReplies
  try dsimp only
  repeat' (first
      | with_reducible assumption | (with_reducible intro _) | with_reducible apply modRings_sound
      | with_reducible apply takeReply_sound | (with_reducible apply foldl_sound)
      | (with_reducible refine sound_upd ?_ rfl rfl rfl rfl rfl rfl rfl rfl) | (dsimp only))

theorem memberSnoop_sound {F : Kept} (msg : Nat) (s : State) (hs : s.Sound F) : State.Sound F
    (memberSnoop msg s) := by
  unfold memberSnoop
  try dsimp only
  repeat' (first
      | with_reducible assumption | (with_reducible intro _) | with_reducible apply count_sound
      | with_reducible apply dropReleased_sound | with_reducible apply emit_sound
      | with_reducible apply modRings_sound | with_reducible apply raiseRecord_sound
      | with_reducible apply retryMemWait_sound | with_reducible apply ringRefuse_sound
      | with_reducible apply ringReply_sound | with_reducible apply setSeen_sound
      | (with_reducible refine ite_sound ?_ ?_) | split
      | (with_reducible refine sound_upd ?_ rfl rfl rfl rfl rfl rfl rfl rfl))

theorem dropRingReq_sound {F : Kept} (q : RingReq) (s : State) (hs : s.Sound F) : State.Sound F
    (dropRingReq q s) := by
  unfold dropRingReq
  try dsimp only
  repeat' (first
      | with_reducible assumption | (with_reducible intro _) | with_reducible apply modRings_sound
      | (with_reducible refine sound_upd ?_ rfl rfl rfl rfl rfl rfl rfl rfl))

theorem pumpLines_sound {F : Kept} (s : State) (hs : s.Sound F) : State.Sound F (pumpLines s) := by
  unfold pumpLines
  try dsimp only
  repeat' (first
      | with_reducible assumption | (with_reducible intro _) | with_reducible apply emit_sound
      | with_reducible apply modRings_sound | with_reducible apply numberSnoop_sound
      | with_reducible apply sendLine_sound | (with_reducible apply foldl_sound)
      | (with_reducible refine ite_sound ?_ ?_) | split
      | (with_reducible refine sound_upd ?_ rfl rfl rfl rfl rfl rfl rfl rfl) | (dsimp only))

theorem endLine_sound {F : Kept} (r : Ring) (q : RingReq) (st : Status) (data : Bytes) (s : State)
    (hs : s.Sound F) : State.Sound F (endLine r q st data s) := by
  unfold endLine
  try dsimp only
  repeat' (first
      | with_reducible assumption | with_reducible apply dropRingReq_sound | with_reducible apply emit_sound
      | with_reducible apply pumpLines_sound | (with_reducible refine ite_sound ?_ ?_) | split
      | (with_reducible refine sound_upd ?_ rfl rfl rfl rfl rfl rfl rfl rfl))

theorem ringResponse_sound {F : Kept} (msg : Nat) (s : State) (hs : s.Sound F) : State.Sound F
    (ringResponse msg s) := by
  unfold ringResponse
  try dsimp only
  repeat' (first
      | with_reducible assumption | (with_reducible intro _) | with_reducible apply count_sound
      | with_reducible apply dropReleased_sound | with_reducible apply dropRingReq_sound
      | with_reducible apply endLine_sound | with_reducible apply modRings_sound
      | with_reducible apply pumpLines_sound | with_reducible apply snoopAnswered_sound
      | (with_reducible refine ite_sound ?_ ?_) | (with_reducible refine ite_pair_sound ?_ ?_)
      | (with_reducible refine ite_trip_sound ?_ ?_) | split
      | (refine sound_of_pair (by with_reducible assumption) ?_)
      | (refine sound_of_trip (by with_reducible assumption) ?_)
      | (with_reducible refine sound_upd ?_ rfl rfl rfl rfl rfl rfl rfl rfl) | (dsimp only))

theorem settleLate_sound {F : Kept} (s : State) (hs : s.Sound F) : State.Sound F (settleLate s) := by
  unfold settleLate
  try dsimp only
  repeat' (first
      | with_reducible assumption | (with_reducible intro _) | with_reducible apply snoopAnswered_sound
      | (with_reducible apply foldl_sound) | (with_reducible apply foldl_pair_sound)
      | (with_reducible apply foldl_trip_sound) | (with_reducible refine ite_pair_sound ?_ ?_)
      | (with_reducible refine ite_trip_sound ?_ ?_) | split
      | (refine sound_of_pair (by with_reducible assumption) ?_)
      | (refine sound_of_trip (by with_reducible assumption) ?_)
      | (with_reducible refine sound_upd ?_ rfl rfl rfl rfl rfl rfl rfl rfl) | (dsimp only))

theorem retryBacks_sound {F : Kept} (s : State) (hs : s.Sound F) : State.Sound F (retryBacks s) := by
  unfold retryBacks
  try dsimp only
  repeat' (first
      | with_reducible assumption | (with_reducible intro _) | with_reducible apply modRings_sound
      | with_reducible apply settleLate_sound | with_reducible apply snoopAnswered_sound
      | (with_reducible apply foldl_sound) | (with_reducible apply foldl_pair_sound)
      | (with_reducible apply foldl_trip_sound) | (with_reducible refine ite_pair_sound ?_ ?_)
      | (with_reducible refine ite_trip_sound ?_ ?_) | split
      | (refine sound_of_pair (by with_reducible assumption) ?_)
      | (refine sound_of_trip (by with_reducible assumption) ?_)
      | (with_reducible refine sound_upd ?_ rfl rfl rfl rfl rfl rfl rfl rfl) | (dsimp only))

theorem settleDestroys_sound {F : Kept} (s : State) (hs : s.Sound F) : State.Sound F (settleDestroys s) := by
  unfold settleDestroys
  try dsimp only
  repeat' (first
      | with_reducible assumption | (with_reducible intro _) | with_reducible apply destroyStep_sound
      | (with_reducible apply foldl_sound) | split
      | (with_reducible refine sound_upd ?_ rfl rfl rfl rfl rfl rfl rfl rfl) | (dsimp only))

theorem settleDead_sound {F : Kept} (r : Ring) (k : BitVec 3) (s : State) (hs : s.Sound F) : State.Sound F
    (settleDead r k s).1 := by
  unfold settleDead
  try dsimp only
  repeat' (first
      | with_reducible assumption | (with_reducible intro _) | with_reducible apply modRings_sound
      | with_reducible apply settleTxn_sound | (with_reducible apply foldl_sound)
      | (with_reducible apply foldl_pair_sound) | (with_reducible apply foldl_trip_sound)
      | (with_reducible refine ite_sound ?_ ?_) | (with_reducible refine ite_pair_sound ?_ ?_)
      | (with_reducible refine ite_trip_sound ?_ ?_) | split
      | (with_reducible refine sound_upd ?_ rfl rfl rfl rfl rfl rfl rfl rfl) | (dsimp only))

theorem declareDead_sound {F : Kept} (r : Ring) (k : BitVec 3) (s : State) (hs : s.Sound F) : State.Sound F
    (declareDead r k s) := by
  unfold declareDead
  try dsimp only
  repeat' (first
      | with_reducible assumption | (with_reducible intro _) | with_reducible apply emit_sound
      | with_reducible apply homeLost_sound | with_reducible apply modRingOf_sound
      | with_reducible apply modRings_sound | with_reducible apply pumpLines_sound
      | with_reducible apply settleDead_sound | with_reducible apply writeFault_sound
      | (with_reducible apply foldl_sound) | (with_reducible apply foldl_pair_sound)
      | (with_reducible apply foldl_trip_sound) | (with_reducible refine ite_sound ?_ ?_)
      | (with_reducible refine ite_pair_sound ?_ ?_) | (with_reducible refine ite_trip_sound ?_ ?_) | split
      | (with_reducible refine sound_upd ?_ rfl rfl rfl rfl rfl rfl rfl rfl) | (dsimp only))

theorem activateRing_sound {F : Kept} (r : BitVec 12) (s : State) (hs : s.Sound F) : State.Sound F
    (activateRing r s) := by
  unfold activateRing
  try dsimp only
  repeat' (first
      | with_reducible assumption | (with_reducible intro _) | with_reducible apply modRingOf_sound
      | (with_reducible refine sound_upd ?_ rfl rfl rfl rfl rfl rfl rfl rfl))

theorem arriveLine_sound {F : Kept} (ring : BitVec 12) (message : BitVec 4) (addr : BitVec 64) (data : Bytes)
    (s : State) (hs : s.Sound F) : State.Sound F (arriveLine ring message addr data s) := by
  unfold arriveLine
  try dsimp only
  repeat' (first
      | with_reducible assumption | (with_reducible intro _) | with_reducible apply count_sound
      | with_reducible apply emit_sound | with_reducible apply homeLost_sound | with_reducible apply modRings_sound
      | with_reducible apply sendLine_sound | with_reducible apply serveLine_sound
      | (with_reducible refine ite_sound ?_ ?_) | split
      | (with_reducible refine sound_upd ?_ rfl rfl rfl rfl rfl rfl rfl rfl))

theorem giveUpRing_sound {F : Kept} (r : Ring) (q : RingReq) (s : State) (hs : s.Sound F) : State.Sound F
    (giveUpRing r q s) := by
  unfold giveUpRing
  try dsimp only
  repeat' (first
      | with_reducible assumption | with_reducible apply dropRingReq_sound | with_reducible apply endLine_sound
      | with_reducible apply homeLost_sound | split)

theorem execRingHeartbeat_sound {F : Kept} (s : State) (hs : s.Sound F) : SoundOut F (execRingHeartbeat s) := by
  unfold execRingHeartbeat
  try dsimp only
  repeat' (first
      | with_reducible exact soundOut_fault | (with_reducible apply soundOut_next)
      | (with_reducible refine soundOut_ite ?_ ?_) | with_reducible assumption | (with_reducible intro _)
      | with_reducible apply count_sound | with_reducible apply dropReleased_sound
      | with_reducible apply modRingOf_sound | (with_reducible refine ite_sound ?_ ?_) | split
      | (with_reducible refine sound_upd ?_ rfl rfl rfl rfl rfl rfl rfl rfl) | (dsimp only))

theorem execHeartbeatSend_sound {F : Kept} (ring : BitVec 12) (s : State) (hs : s.Sound F) : SoundOut F
    (execHeartbeatSend ring s) := by
  unfold execHeartbeatSend
  try dsimp only
  repeat' (first
      | with_reducible exact soundOut_fault | (with_reducible apply soundOut_next)
      | (with_reducible refine soundOut_ite ?_ ?_) | with_reducible assumption | (with_reducible intro _)
      | with_reducible apply modRingOf_sound | with_reducible apply sendQuietly_sound
      | (with_reducible apply foldl_sound) | (with_reducible refine ite_sound ?_ ?_) | split
      | (with_reducible refine sound_upd ?_ rfl rfl rfl rfl rfl rfl rfl rfl) | (dsimp only))

theorem resendRing_sound {F : Kept} (q : RingReq) (s : State) (hs : s.Sound F) : State.Sound F (resendRing q s) := by
  unfold resendRing
  try dsimp only
  repeat' (first
      | with_reducible assumption | (with_reducible intro _) | with_reducible apply giveUpRing_sound
      | with_reducible apply modRings_sound | with_reducible apply sendPacket_sound
      | (with_reducible refine ite_sound ?_ ?_) | (with_reducible refine ite_pair_sound ?_ ?_)
      | (with_reducible refine ite_trip_sound ?_ ?_) | split
      | (refine sound_of_pair (by with_reducible assumption) ?_)
      | (refine sound_of_trip (by with_reducible assumption) ?_)
      | (with_reducible refine sound_upd ?_ rfl rfl rfl rfl rfl rfl rfl rfl) | (dsimp only))

end Sys2Proof.Machine
end

