-- ==== Sys2Proof/Laws/SoundExtents.lean ====
section
/-! SUPPORT. What the operations of Machine/Extents.lean keep: memories in canonical form, registers in range, blown
fuses and bounded fault rings (State.Sound). -/

namespace Sys2Proof.Machine

theorem extentKeyFailed_sound {F : Kept} (e : Extent) (st : Status) (s : State) (hs : s.Sound F) : State.Sound F
    (extentKeyFailed e st s) := by
  unfold extentKeyFailed
  try dsimp only
  repeat' (first
      | with_reducible assumption | (with_reducible intro _) | with_reducible apply finishAll_sound
      | with_reducible apply modExtent_sound | with_reducible apply reclaimLocation_sound
      | with_reducible apply removeRegion_sound | (with_reducible refine ite_sound ?_ ?_) | split
      | (with_reducible refine sound_upd ?_ rfl rfl rfl rfl rfl rfl rfl rfl))

theorem extentKeyStep_sound {F : Kept} (id : BitVec 13) (s : State) (hs : s.Sound F) : State.Sound F
    (extentKeyStep id s) := by
  unfold extentKeyStep
  try dsimp only
  repeat' (first
      | with_reducible assumption | with_reducible apply extentKeyFailed_sound | with_reducible apply needJob_sound
      | with_reducible apply needKey_sound | (with_reducible apply id_sound)
      | (with_reducible refine ite_sound ?_ ?_) | (with_reducible refine ite_pair_sound ?_ ?_)
      | (with_reducible refine ite_trip_sound ?_ ?_) | split
      | (refine sound_of_pair (by with_reducible assumption) ?_)
      | (refine sound_of_trip (by with_reducible assumption) ?_)
      | (with_reducible refine sound_upd ?_ rfl rfl rfl rfl rfl rfl rfl rfl) | (dsimp only))

theorem extentDerived_sound {F : Kept} (id : BitVec 13) (s : State) (hs : s.Sound F) : State.Sound F
    (extentDerived id s) := by
  unfold extentDerived
  try dsimp only
  repeat' (first
      | with_reducible assumption | (with_reducible intro _) | with_reducible apply extentKeyFailed_sound
      | with_reducible apply modExtent_sound | with_reducible apply needKey_sound | (with_reducible apply id_sound)
      | (with_reducible refine ite_sound ?_ ?_) | (with_reducible refine ite_pair_sound ?_ ?_)
      | (with_reducible refine ite_trip_sound ?_ ?_) | split
      | (refine sound_of_pair (by with_reducible assumption) ?_)
      | (refine sound_of_trip (by with_reducible assumption) ?_)
      | (with_reducible refine sound_upd ?_ rfl rfl rfl rfl rfl rfl rfl rfl) | (dsimp only))

theorem execLeaseExpiry_sound {F : Kept} (extent : BitVec 13) (s : State) (hs : s.Sound F) : SoundOut F
    (execLeaseExpiry extent s) := by
  unfold execLeaseExpiry
  try dsimp only
  repeat' (first
      | with_reducible exact soundOut_fault | (with_reducible apply soundOut_next)
      | (with_reducible refine soundOut_ite ?_ ?_) | with_reducible assumption | (with_reducible intro _)
      | with_reducible apply beginRevoke_sound | (with_reducible refine ite_sound ?_ ?_) | split
      | (with_reducible refine sound_upd ?_ rfl rfl rfl rfl rfl rfl rfl rfl) | (dsimp only))

theorem retryTray_sound {F : Kept} (s : State) (hs : s.Sound F) : State.Sound F (retryTray s) := by
  unfold retryTray
  try dsimp only
  repeat' (first
      | with_reducible assumption | with_reducible apply fauSettle_sound | with_reducible apply pumpLines_sound
      | with_reducible apply pumpRings_sound | with_reducible apply retryAnswers_sound
      | with_reducible apply retryBacks_sound | with_reducible apply retryMemWait_sound
      | with_reducible apply retryReplies_sound)

theorem execExtentRevokeDrained_sound {F : Kept} (extent : BitVec 13) (s : State) (hs : s.Sound F) : SoundOut F
    (execExtentRevokeDrained extent s) := by
  unfold execExtentRevokeDrained
  try dsimp only
  repeat' (first
      | with_reducible exact soundOut_fault | (with_reducible apply soundOut_next)
      | (with_reducible refine soundOut_ite ?_ ?_) | with_reducible assumption | (with_reducible intro _)
      | with_reducible apply finishAll_sound | with_reducible apply modExtent_sound
      | with_reducible apply reclaimLocation_sound | with_reducible apply retryTray_sound
      | (with_reducible refine ite_sound ?_ ?_) | split
      | (with_reducible refine sound_upd ?_ rfl rfl rfl rfl rfl rfl rfl rfl) | (dsimp only))

theorem grantExtent_sound {F : Kept} (e : Extent) (s : State) (hs : s.Sound F) : State.Sound F (grantExtent e s) := by
  unfold grantExtent
  try dsimp only
  repeat' (first
      | with_reducible assumption | (with_reducible intro _) | with_reducible apply drbgDraw_sound
      | with_reducible apply extentKeyFailed_sound | with_reducible apply finish_sound
      | with_reducible apply initLocation_sound | with_reducible apply modExtent_sound
      | with_reducible apply retryTray_sound | with_reducible apply setLoc_sound
      | (with_reducible apply foldl_sound) | (with_reducible refine ite_sound ?_ ?_) | split
      | (with_reducible refine sound_upd ?_ rfl rfl rfl rfl rfl rfl rfl rfl) | (dsimp only))

theorem startCopy_sound {F : Kept} (e : Extent) (r : Rekey) (s : State) (hs : s.Sound F) : State.Sound F
    (startCopy e r s) := by
  unfold startCopy
  try dsimp only
  repeat' (first
      | with_reducible assumption | (with_reducible intro _) | with_reducible apply initLocation_sound
      | with_reducible apply modExtent_sound | with_reducible apply setLoc_sound
      | (with_reducible refine sound_upd ?_ rfl rfl rfl rfl rfl rfl rfl rfl))

theorem execExtentInitialisationComplete_sound {F : Kept} (extent : BitVec 13) (s : State) (hs : s.Sound F) :
    SoundOut F (execExtentInitialisationComplete extent s) := by
  unfold execExtentInitialisationComplete
  try dsimp only
  repeat' (first
      | with_reducible exact soundOut_fault | (with_reducible apply soundOut_next)
      | (with_reducible refine soundOut_ite ?_ ?_) | with_reducible assumption | (with_reducible intro _)
      | with_reducible apply grantExtent_sound | with_reducible apply startCopy_sound
      | with_reducible apply withDomains_sound | (with_reducible refine ite_sound ?_ ?_) | split
      | (with_reducible refine sound_upd ?_ rfl rfl rfl rfl rfl rfl rfl rfl) | (dsimp only))

theorem copyPages_sound {F : Kept} (id : BitVec 13) (old : Nat) (new : Nat) (oldKey : Key512) (newKey : Key512)
    (a0 : Nat) (a1 : State) (hs : a1.Sound F) : State.Sound F (copyPages id old new oldKey newKey a0 a1) := by
  induction a0 generalizing a1 with
  | zero => 
    unfold copyPages
    try dsimp only
    repeat' (first
        | with_reducible assumption | with_reducible apply rekeyPage_sound | (with_reducible apply id_sound)
        | (with_reducible refine ite_pair_sound ?_ ?_) | (with_reducible refine ite_trip_sound ?_ ?_) | split
        | (refine sound_of_pair (by with_reducible assumption) ?_)
        | (refine sound_of_trip (by with_reducible assumption) ?_)
        | (with_reducible refine sound_upd ?_ rfl rfl rfl rfl rfl rfl rfl rfl) | (dsimp only))
  | succ n ih => 
    unfold copyPages
    try dsimp only
    repeat' (first
        | with_reducible assumption | with_reducible apply rekeyPage_sound | with_reducible apply ih
        | (with_reducible apply id_sound) | (with_reducible refine ite_pair_sound ?_ ?_)
        | (with_reducible refine ite_trip_sound ?_ ?_) | split
        | (refine sound_of_pair (by with_reducible assumption) ?_)
        | (refine sound_of_trip (by with_reducible assumption) ?_)
        | (with_reducible refine sound_upd ?_ rfl rfl rfl rfl rfl rfl rfl rfl) | (dsimp only))

theorem finishCopy_sound {F : Kept} (e : Extent) (r : Rekey) (oldKey : Key512) (newKey : Key512) (s : State)
    (hs : s.Sound F) : State.Sound F (finishCopy e r oldKey newKey s) := by
  unfold finishCopy
  try dsimp only
  repeat' (first
      | with_reducible assumption | (with_reducible intro _) | with_reducible apply copyPages_sound
      | with_reducible apply finishAll_sound | with_reducible apply modExtent_sound
      | with_reducible apply reclaimLocation_sound | with_reducible apply retryTray_sound
      | with_reducible apply setLoc_sound | (with_reducible refine ite_pair_sound ?_ ?_)
      | (with_reducible refine ite_trip_sound ?_ ?_)
      | (with_reducible refine sound_upd ?_ rfl rfl rfl rfl rfl rfl rfl rfl) | (dsimp only))

theorem execExtentRekeyCopyComplete_sound {F : Kept} (extent : BitVec 13) (s : State) (hs : s.Sound F) : SoundOut F
    (execExtentRekeyCopyComplete extent s) := by
  unfold execExtentRekeyCopyComplete
  try dsimp only
  repeat' (first
      | with_reducible exact soundOut_fault | (with_reducible apply soundOut_next)
      | (with_reducible refine soundOut_ite ?_ ?_) | with_reducible assumption | (with_reducible intro _)
      | with_reducible apply finishCopy_sound | with_reducible apply withDomains_sound
      | (with_reducible refine ite_sound ?_ ?_) | split
      | (with_reducible refine sound_upd ?_ rfl rfl rfl rfl rfl rfl rfl rfl) | (dsimp only))

theorem beginGrant_sound {F : Kept} (o : Origin) (tag : BitVec 32) (polder : PolderId) (holder : BitVec 16)
    (lease : BitVec 16) (perms : BitVec 8) (id : BitVec 13) (location : Nat) (s : State) (hs : s.Sound F) :
    State.Sound F (beginGrant o tag polder holder lease perms id location s) := by
  unfold beginGrant
  try dsimp only
  repeat' (first
      | with_reducible assumption | (with_reducible intro _) | with_reducible apply drbgDraw_sound
      | with_reducible apply extentKeyStep_sound | with_reducible apply pend_sound
      | with_reducible apply removeRegion_sound | with_reducible apply setLoc_sound
      | (with_reducible apply id_sound) | split
      | (with_reducible refine sound_upd ?_ rfl rfl rfl rfl rfl rfl rfl rfl))

theorem extentGrantCmd_sound {F : Kept} (bad : Bool) (o : Origin) (tag : BitVec 32) (polder : PolderId)
    (holder : BitVec 16) (lease : BitVec 16) (perms : BitVec 8) (s : State) (hs : s.Sound F) : State.Sound F
    (extentGrantCmd bad o tag polder holder lease perms s) := by
  unfold extentGrantCmd
  try dsimp only
  repeat' (first
      | with_reducible assumption | (with_reducible intro _) | with_reducible apply beginGrant_sound
      | with_reducible apply runCmd_sound | (with_reducible apply id_sound) | split
      | (with_reducible refine sound_upd ?_ rfl rfl rfl rfl rfl rfl rfl rfl))

theorem execExtentGrant_sound {F : Kept} (o : Origin) (tag : BitVec 32) (polder : PolderId) (holder : BitVec 16)
    (lease : BitVec 16) (perms : BitVec 8) (s : State) (hs : s.Sound F) : SoundOut F
    (execExtentGrant o tag polder holder lease perms s) := by
  unfold execExtentGrant
  try dsimp only
  repeat' (first
      | with_reducible exact soundOut_fault | (with_reducible apply soundOut_next)
      | (with_reducible refine soundOut_ite ?_ ?_) | with_reducible assumption | (with_reducible intro _)
      | with_reducible apply extentGrantCmd_sound | (dsimp only))

theorem renewLease_sound {F : Kept} (id : BitVec 16) (lease : BitVec 16) (s : State) (hs : s.Sound F) :
    State.Sound F (renewLease id lease s) := by
  unfold renewLease
  try dsimp only
  repeat' (first
      | with_reducible assumption | (with_reducible intro _) | with_reducible apply modExtent_sound
      | (with_reducible refine sound_upd ?_ rfl rfl rfl rfl rfl rfl rfl rfl))

theorem extentRenewCmd_sound {F : Kept} (bad : Bool) (o : Origin) (tag : BitVec 32) (extent : BitVec 16)
    (holder : BitVec 16) (lease : BitVec 16) (s : State) (hs : s.Sound F) : State.Sound F
    (extentRenewCmd bad o tag extent holder lease s) := by
  unfold extentRenewCmd
  try dsimp only
  repeat' (first
      | with_reducible assumption | (with_reducible intro _) | with_reducible apply renewLease_sound
      | with_reducible apply reply_sound | with_reducible apply runCmd_sound)

theorem execExtentRenew_sound {F : Kept} (o : Origin) (tag : BitVec 32) (extent : BitVec 16) (holder : BitVec 16)
    (lease : BitVec 16) (s : State) (hs : s.Sound F) : SoundOut F
    (execExtentRenew o tag extent holder lease s) := by
  unfold execExtentRenew
  try dsimp only
  repeat' (first
      | with_reducible exact soundOut_fault | (with_reducible apply soundOut_next)
      | (with_reducible refine soundOut_ite ?_ ?_) | with_reducible assumption | (with_reducible intro _)
      | with_reducible apply extentRenewCmd_sound | (dsimp only))

theorem extentHandoverCmd_sound {F : Kept} (bad : Bool) (o : Origin) (tag : BitVec 32) (extent : BitVec 16)
    (holder : BitVec 16) (newHolder : BitVec 16) (lease : BitVec 16) (s : State) (hs : s.Sound F) : State.Sound F
    (extentHandoverCmd bad o tag extent holder newHolder lease s) := by
  unfold extentHandoverCmd
  try dsimp only
  repeat' (first
      | with_reducible assumption | (with_reducible intro _) | with_reducible apply modExtent_sound
      | with_reducible apply renewLease_sound | with_reducible apply reply_sound | with_reducible apply runCmd_sound
      | (with_reducible refine sound_upd ?_ rfl rfl rfl rfl rfl rfl rfl rfl))

theorem execExtentHandover_sound {F : Kept} (o : Origin) (tag : BitVec 32) (extent : BitVec 16) (holder : BitVec 16)
    (newHolder : BitVec 16) (lease : BitVec 16) (s : State) (hs : s.Sound F) : SoundOut F
    (execExtentHandover o tag extent holder newHolder lease s) := by
  unfold execExtentHandover
  try dsimp only
  repeat' (first
      | with_reducible exact soundOut_fault | (with_reducible apply soundOut_next)
      | (with_reducible refine soundOut_ite ?_ ?_) | with_reducible assumption | (with_reducible intro _)
      | with_reducible apply extentHandoverCmd_sound | (dsimp only))

theorem extentRevokeCmd_sound {F : Kept} (bad : Bool) (o : Origin) (tag : BitVec 32) (extent : BitVec 16)
    (s : State) (hs : s.Sound F) : State.Sound F (extentRevokeCmd bad o tag extent s) := by
  unfold extentRevokeCmd
  try dsimp only
  repeat' (first
      | with_reducible assumption | (with_reducible intro _) | with_reducible apply beginRevoke_sound
      | with_reducible apply finish_sound | with_reducible apply modExtent_sound | with_reducible apply pend_sound
      | with_reducible apply runCmd_sound | (with_reducible refine ite_sound ?_ ?_) | split
      | (with_reducible refine sound_upd ?_ rfl rfl rfl rfl rfl rfl rfl rfl))

theorem execExtentRevoke_sound {F : Kept} (o : Origin) (tag : BitVec 32) (extent : BitVec 16) (s : State)
    (hs : s.Sound F) : SoundOut F (execExtentRevoke o tag extent s) := by
  unfold execExtentRevoke
  try dsimp only
  repeat' (first
      | with_reducible exact soundOut_fault | (with_reducible apply soundOut_next)
      | (with_reducible refine soundOut_ite ?_ ?_) | with_reducible assumption | (with_reducible intro _)
      | with_reducible apply extentRevokeCmd_sound | (dsimp only))

theorem extentRekeyCmd_sound {F : Kept} (bad : Bool) (o : Origin) (tag : BitVec 32) (extent : BitVec 16) (s : State)
    (hs : s.Sound F) : State.Sound F (extentRekeyCmd bad o tag extent s) := by
  unfold extentRekeyCmd
  try dsimp only
  repeat' (first
      | with_reducible assumption | (with_reducible intro _) | with_reducible apply drbgDraw_sound
      | with_reducible apply extentKeyStep_sound | with_reducible apply modExtent_sound
      | with_reducible apply pend_sound | with_reducible apply runCmd_sound | with_reducible apply setLoc_sound
      | split | (with_reducible refine sound_upd ?_ rfl rfl rfl rfl rfl rfl rfl rfl))

theorem execExtentRekey_sound {F : Kept} (o : Origin) (tag : BitVec 32) (extent : BitVec 16) (s : State)
    (hs : s.Sound F) : SoundOut F (execExtentRekey o tag extent s) := by
  unfold execExtentRekey
  try dsimp only
  repeat' (first
      | with_reducible exact soundOut_fault | (with_reducible apply soundOut_next)
      | (with_reducible refine soundOut_ite ?_ ?_) | with_reducible assumption | (with_reducible intro _)
      | with_reducible apply extentRekeyCmd_sound | (dsimp only))

theorem extentHintCmd_sound {F : Kept} (bad : Bool) (o : Origin) (tag : BitVec 32) (extent : BitVec 16)
    (hint : BitVec 8) (s : State) (hs : s.Sound F) : State.Sound F (extentHintCmd bad o tag extent hint s) := by
  unfold extentHintCmd
  try dsimp only
  repeat' (first
      | with_reducible assumption | (with_reducible intro _) | with_reducible apply modExtent_sound
      | with_reducible apply reply_sound | with_reducible apply runCmd_sound | split
      | (with_reducible refine sound_upd ?_ rfl rfl rfl rfl rfl rfl rfl rfl))

theorem execExtentHint_sound {F : Kept} (o : Origin) (tag : BitVec 32) (extent : BitVec 16) (hint : BitVec 8)
    (s : State) (hs : s.Sound F) : SoundOut F (execExtentHint o tag extent hint s) := by
  unfold execExtentHint
  try dsimp only
  repeat' (first
      | with_reducible exact soundOut_fault | (with_reducible apply soundOut_next)
      | (with_reducible refine soundOut_ite ?_ ?_) | with_reducible assumption | (with_reducible intro _)
      | with_reducible apply extentHintCmd_sound | (dsimp only))

theorem trayRebuildRateCmd_sound {F : Kept} (bad : Bool) (o : Origin) (tag : BitVec 32) (percent : BitVec 8)
    (s : State) (hs : s.Sound F) : State.Sound F (trayRebuildRateCmd bad o tag percent s) := by
  unfold trayRebuildRateCmd
  try dsimp only
  repeat' (first
      | with_reducible assumption | (with_reducible intro _) | with_reducible apply mirrorChanged_sound
      | with_reducible apply reply_sound | with_reducible apply runCmd_sound
      | (with_reducible refine sound_upd ?_ rfl rfl rfl rfl rfl rfl rfl rfl))

theorem execTrayRebuildRate_sound {F : Kept} (o : Origin) (tag : BitVec 32) (percent : BitVec 8) (s : State)
    (hs : s.Sound F) : SoundOut F (execTrayRebuildRate o tag percent s) := by
  unfold execTrayRebuildRate
  try dsimp only
  repeat' (first
      | with_reducible exact soundOut_fault | (with_reducible apply soundOut_next)
      | (with_reducible refine soundOut_ite ?_ ?_) | with_reducible assumption | (with_reducible intro _)
      | with_reducible apply trayRebuildRateCmd_sound | (dsimp only))

theorem extentStatusCmd_sound {F : Kept} (bad : Bool) (o : Origin) (tag : BitVec 32) (extent : BitVec 16)
    (s : State) (hs : s.Sound F) : State.Sound F (extentStatusCmd bad o tag extent s) := by
  unfold extentStatusCmd
  try dsimp only
  repeat' (first
      | with_reducible assumption | (with_reducible intro _) | with_reducible apply reply_sound
      | with_reducible apply runCmd_sound)

theorem execExtentStatus_sound {F : Kept} (o : Origin) (tag : BitVec 32) (extent : BitVec 16) (s : State)
    (hs : s.Sound F) : SoundOut F (execExtentStatus o tag extent s) := by
  unfold execExtentStatus
  try dsimp only
  repeat' (first
      | with_reducible exact soundOut_fault | (with_reducible apply soundOut_next)
      | (with_reducible refine soundOut_ite ?_ ?_) | with_reducible assumption | (with_reducible intro _)
      | with_reducible apply extentStatusCmd_sound | (dsimp only))

theorem trayStatusCmd_sound {F : Kept} (bad : Bool) (o : Origin) (tag : BitVec 32) (s : State) (hs : s.Sound F) :
    State.Sound F (trayStatusCmd bad o tag s) := by
  unfold trayStatusCmd
  try dsimp only
  repeat' (first
      | with_reducible assumption | (with_reducible intro _) | with_reducible apply reply_sound
      | with_reducible apply runCmd_sound | with_reducible apply tookFree_sound)

theorem execTrayStatus_sound {F : Kept} (o : Origin) (tag : BitVec 32) (s : State) (hs : s.Sound F) : SoundOut F
    (execTrayStatus o tag s) := by
  unfold execTrayStatus
  try dsimp only
  repeat' (first
      | with_reducible exact soundOut_fault | (with_reducible apply soundOut_next)
      | (with_reducible refine soundOut_ite ?_ ?_) | with_reducible assumption | (with_reducible intro _)
      | with_reducible apply trayStatusCmd_sound | (dsimp only))

end Sys2Proof.Machine
end

