-- ==== Sys2Proof/Laws/SoundSamples.lean ====
section
/-! SUPPORT. What the operations of Machine/Samples.lean keep: memories in canonical form, registers in range, blown
fuses and bounded fault rings (State.Sound). -/

namespace Sys2Proof.Machine

theorem modTracer_sound {F : Kept} (f : Tracer → Tracer) (s : State) (hf : ∀ t, (f t).faults = t.faults)
    (hs : s.Sound F) : State.Sound F (modTracer f s) := by
  obtain ⟨a, b, c, d, e⟩ := hs
  exact ⟨a, b, c, (hf s.tracer).symm ▸ d, e⟩


theorem settleSamples_sound {F : Kept} (s : State) (hs : s.Sound F) : State.Sound F (settleSamples s) := by
  unfold settleSamples
  try dsimp only
  repeat' (first
      | with_reducible assumption | (with_reducible intro _)
      | with_reducible refine modTracer_sound _ _ (fun _ => rfl) ?_ | (with_reducible apply foldl_sound)
      | (with_reducible refine sound_upd ?_ rfl rfl rfl rfl rfl rfl rfl rfl) | (dsimp only))

theorem setPiece_sound {F : Kept} (n : Nat) (i : Nat) (b : Bytes) (tag : BitVec 128) (s : State) (hs : s.Sound F) :
    State.Sound F (setPiece n i b tag s) := by
  unfold setPiece
  try dsimp only
  repeat' (first
      | with_reducible assumption | (with_reducible intro _)
      | with_reducible refine modTracer_sound _ _ (fun _ => rfl) ?_ | with_reducible apply settleSamples_sound
      | (with_reducible refine sound_upd ?_ rfl rfl rfl rfl rfl rfl rfl rfl))

theorem blankPiece_sound {F : Kept} (n : Nat) (i : Nat) (s : State) (hs : s.Sound F) : State.Sound F
    (blankPiece n i s) := by
  unfold blankPiece
  try dsimp only
  repeat' (first | with_reducible assumption | with_reducible apply setPiece_sound)

theorem pumpPiece_sound {F : Kept} (n : Nat) (i : Nat) (s : State) (hs : s.Sound F) : State.Sound F
    (pumpPiece n i s) := by
  unfold pumpPiece
  try dsimp only
  repeat' (first
      | with_reducible assumption | with_reducible apply blankPiece_sound | with_reducible apply needJob_sound
      | with_reducible apply needKey_sound | (with_reducible refine ite_pair_sound ?_ ?_)
      | (with_reducible refine ite_trip_sound ?_ ?_) | split
      | (refine sound_of_pair (by with_reducible assumption) ?_)
      | (refine sound_of_trip (by with_reducible assumption) ?_)
      | (with_reducible refine sound_upd ?_ rfl rfl rfl rfl rfl rfl rfl rfl) | (dsimp only))

theorem pumpSamples_sound {F : Kept} (p : PolderId) (s : State) (hs : s.Sound F) : State.Sound F
    (pumpSamples p s) := by
  unfold pumpSamples
  try dsimp only
  repeat' (first
      | with_reducible assumption | (with_reducible intro _) | with_reducible apply pumpPiece_sound
      | (with_reducible apply foldl_sound) | (dsimp only))

theorem sealPiece_sound {F : Kept} (n : Nat) (i : Nat) (s : State) (hs : s.Sound F) : State.Sound F
    (sealPiece n i s) := by
  unfold sealPiece
  try dsimp only
  repeat' (first
      | with_reducible assumption | with_reducible apply blankPiece_sound | with_reducible apply needKey_sound
      | with_reducible apply setPiece_sound | (with_reducible refine ite_pair_sound ?_ ?_)
      | (with_reducible refine ite_trip_sound ?_ ?_) | split
      | (refine sound_of_pair (by with_reducible assumption) ?_)
      | (refine sound_of_trip (by with_reducible assumption) ?_)
      | (with_reducible refine sound_upd ?_ rfl rfl rfl rfl rfl rfl rfl rfl) | (dsimp only))

theorem takeSample_sound {F : Kept} (unit : BitVec 16) (seq : BitVec 64) (s : State) (hs : s.Sound F) :
    State.Sound F (takeSample unit seq s) := by
  unfold takeSample
  try dsimp only
  repeat' (first
      | with_reducible assumption | (with_reducible intro _)
      | with_reducible refine modTracer_sound _ _ (fun _ => rfl) ?_ | with_reducible apply pumpPiece_sound
      | with_reducible apply settleSamples_sound | (with_reducible apply foldl_sound)
      | (with_reducible refine ite_sound ?_ ?_) | split
      | (with_reducible refine sound_upd ?_ rfl rfl rfl rfl rfl rfl rfl rfl) | (dsimp only))

theorem dropPieces_sound {F : Kept} (p : PolderId) (s : State) (hs : s.Sound F) : State.Sound F (dropPieces p s) := by
  unfold dropPieces
  try dsimp only
  repeat' (first
      | with_reducible assumption | (with_reducible intro _) | with_reducible apply blankPiece_sound
      | (with_reducible apply foldl_sound) | (dsimp only))

end Sys2Proof.Machine
end

