-- ==== Sys2Proof/Laws/SoundKeyJobs.lean ====
section
/-! SUPPORT. What the operations of Machine/KeyJobs.lean keep: memories in canonical form, registers in range, blown
fuses and bounded fault rings (State.Sound). -/

namespace Sys2Proof.Machine

theorem modKeys_sound {F : Kept} (f : KeyUnits → KeyUnits) (s : State) (hs : s.Sound F) : State.Sound F
    (modKeys f s) := by
  unfold modKeys
  try dsimp only
  repeat' (first | with_reducible assumption | (with_reducible refine sound_upd ?_ rfl rfl rfl rfl rfl rfl rfl rfl))

theorem pumpAllTx_sound {F : Kept} (p : PolderId) (s : State) (hs : s.Sound F) : State.Sound F (pumpAllTx p s) := by
  unfold pumpAllTx
  try dsimp only
  repeat' (first
      | with_reducible assumption | (with_reducible intro _) | with_reducible apply pumpTx_sound
      | (with_reducible apply foldl_sound) | (with_reducible apply foldl_pair_sound)
      | (with_reducible apply foldl_trip_sound) | (with_reducible refine ite_pair_sound ?_ ?_)
      | (with_reducible refine ite_trip_sound ?_ ?_) | (dsimp only))

theorem retryAllRx_sound {F : Kept} (p : PolderId) (s : State) (hs : s.Sound F) : State.Sound F (retryAllRx p s) := by
  unfold retryAllRx
  try dsimp only
  repeat' (first
      | with_reducible assumption | (with_reducible intro _) | with_reducible apply retryRx_sound
      | (with_reducible apply foldl_sound) | (dsimp only))

theorem pumpFills_sound {F : Kept} (p : PolderId) (s : State) (hs : s.Sound F) : State.Sound F (pumpFills p s) := by
  unfold pumpFills
  try dsimp only
  repeat' (first
      | with_reducible assumption | (with_reducible intro _) | with_reducible apply needKey_sound
      | with_reducible apply undoFill_sound | (with_reducible apply foldl_sound)
      | (with_reducible apply foldl_pair_sound) | (with_reducible apply foldl_trip_sound)
      | (with_reducible refine ite_pair_sound ?_ ?_) | (with_reducible refine ite_trip_sound ?_ ?_) | split
      | (refine sound_of_pair (by with_reducible assumption) ?_)
      | (refine sound_of_trip (by with_reducible assumption) ?_)
      | (with_reducible refine sound_upd ?_ rfl rfl rfl rfl rfl rfl rfl rfl) | (dsimp only))

theorem retryUsers_sound {F : Kept} (p : PolderId) (s : State) (hs : s.Sound F) : State.Sound F (retryUsers p s) := by
  unfold retryUsers
  try dsimp only
  repeat' (first
      | with_reducible assumption | (with_reducible intro _) | with_reducible apply extentKeyStep_sound
      | with_reducible apply fauSettle_sound | with_reducible apply pumpAllTx_sound
      | with_reducible apply pumpColl_sound | with_reducible apply pumpFills_sound
      | with_reducible apply pumpLines_sound | with_reducible apply pumpRings_sound
      | with_reducible apply pumpSamples_sound | with_reducible apply retryAllRx_sound
      | with_reducible apply retryKeyWait_sound | with_reducible apply retryMemWait_sound
      | (with_reducible apply foldl_sound) | (dsimp only))

theorem endWaitingTx_sound {F : Kept} (k : TxPacket) (st : Status) (s : State) (hs : s.Sound F) : State.Sound F
    (endWaitingTx k st s) := by
  unfold endWaitingTx
  try dsimp only
  repeat' (first
      | with_reducible assumption | (with_reducible intro _) | with_reducible apply barrierFailed_sound
      | with_reducible apply collectiveFailed_sound | with_reducible apply denyTxn_sound
      | with_reducible apply dropRingReq_sound | with_reducible apply endLine_sound
      | with_reducible apply finishOp_sound | with_reducible apply requestRefused_sound
      | (with_reducible apply id_sound) | (with_reducible refine ite_sound ?_ ?_) | split
      | (with_reducible refine sound_upd ?_ rfl rfl rfl rfl rfl rfl rfl rfl))

theorem endUsers_sound {F : Kept} (p : PolderId) (st : Status) (slot : Byte) (s : State) (hs : s.Sound F) :
    State.Sound F (endUsers p st slot s).1 := by
  unfold endUsers
  try dsimp only
  repeat' (first
      | with_reducible assumption | (with_reducible intro _) | with_reducible apply endChartWaits_sound
      | with_reducible apply endWaitingTx_sound | with_reducible apply releaseHeld_sound
      | with_reducible apply retryUsers_sound | with_reducible apply stackAnswer_sound
      | with_reducible apply undoFill_sound | (with_reducible apply foldl_sound)
      | (with_reducible apply foldl_pair_sound) | (with_reducible apply foldl_trip_sound)
      | (with_reducible refine ite_pair_sound ?_ ?_) | (with_reducible refine ite_trip_sound ?_ ?_)
      | (with_reducible refine sound_upd ?_ rfl rfl rfl rfl rfl rfl rfl rfl) | (dsimp only))

theorem failUsers_sound {F : Kept} (p : PolderId) (st : Status) (slot : Byte) (s : State) (hs : s.Sound F) :
    State.Sound F (failUsers p st slot s) := by
  unfold failUsers
  try dsimp only
  repeat' (first
      | with_reducible assumption | (with_reducible intro _) | with_reducible apply endUsers_sound
      | with_reducible apply modPolder_sound | with_reducible apply writeFault_sound
      | (with_reducible refine ite_sound ?_ ?_) | (with_reducible refine ite_pair_sound ?_ ?_)
      | (with_reducible refine ite_trip_sound ?_ ?_) | split
      | (with_reducible refine sound_upd ?_ rfl rfl rfl rfl rfl rfl rfl rfl) | (dsimp only))

theorem answerPins_sound {F : Kept} (p : PolderId) (st : Status) (s : State) (hs : s.Sound F) : State.Sound F
    (answerPins p st s) := by
  unfold answerPins
  try dsimp only
  repeat' (first
      | with_reducible assumption | (with_reducible intro _) | with_reducible apply finishAll_sound
      | with_reducible apply modPolder_sound | (with_reducible refine ite_sound ?_ ?_) | split
      | (with_reducible refine sound_upd ?_ rfl rfl rfl rfl rfl rfl rfl rfl))

theorem endSlotless_sound {F : Kept} (p : PolderId) (s : State) (hs : s.Sound F) : State.Sound F
    (endSlotless p s) := by
  unfold endSlotless
  try dsimp only
  repeat' (first
      | with_reducible assumption | (with_reducible intro _) | with_reducible apply answerPins_sound
      | with_reducible apply failUsers_sound | (with_reducible refine sound_upd ?_ rfl rfl rfl rfl rfl rfl rfl rfl))

theorem endHopeless_sound {F : Kept} (s : State) (hs : s.Sound F) : State.Sound F (endHopeless s) := by
  unfold endHopeless
  try dsimp only
  repeat' (first
      | with_reducible assumption | (with_reducible intro _) | with_reducible apply endSlotless_sound
      | (with_reducible apply foldl_sound) | (with_reducible refine ite_sound ?_ ?_) | split | (dsimp only))

theorem endBadUsers_sound {F : Kept} (s : State) (hs : s.Sound F) : State.Sound F (endBadUsers s) := by
  unfold endBadUsers
  try dsimp only
  repeat' (first
      | with_reducible assumption | (with_reducible intro _) | with_reducible apply endUsers_sound
      | (with_reducible apply foldl_sound) | (with_reducible apply foldl_pair_sound)
      | (with_reducible apply foldl_trip_sound) | (with_reducible refine ite_sound ?_ ?_)
      | (with_reducible refine ite_pair_sound ?_ ?_) | (with_reducible refine ite_trip_sound ?_ ?_) | split
      | (dsimp only))

theorem sweepTx_sound {F : Kept} (s : State) (hs : s.Sound F) : State.Sound F (sweepTx s) := by
  unfold sweepTx
  try dsimp only
  repeat' (first
      | with_reducible assumption | (with_reducible intro _) | with_reducible apply endWaitingTx_sound
      | with_reducible apply streamExhausted_sound | (with_reducible apply foldl_sound) | split
      | (with_reducible refine sound_upd ?_ rfl rfl rfl rfl rfl rfl rfl rfl) | (dsimp only))

theorem resumeStack_sound {F : Kept} (s : State) (hs : s.Sound F) : State.Sound F (resumeStack s) := by
  unfold resumeStack
  try dsimp only
  repeat' (first
      | with_reducible assumption | (with_reducible intro _) | with_reducible apply needKey_sound
      | with_reducible apply pumpFills_sound | with_reducible apply pumpPorts_sound
      | with_reducible apply retryKeyWait_sound | (with_reducible apply foldl_sound)
      | (with_reducible apply foldl_pair_sound) | (with_reducible apply foldl_trip_sound)
      | (with_reducible refine ite_pair_sound ?_ ?_) | (with_reducible refine ite_trip_sound ?_ ?_) | (dsimp only))

theorem resumeLink_sound {F : Kept} (s : State) (hs : s.Sound F) : State.Sound F (resumeLink s) := by
  unfold resumeLink
  try dsimp only
  repeat' (first
      | with_reducible assumption | (with_reducible intro _) | with_reducible apply pumpRxPorts_sound
      | with_reducible apply pumpTx_sound | with_reducible apply retryAllRx_sound
      | with_reducible apply sweepTx_sound | (with_reducible apply foldl_sound)
      | (with_reducible apply foldl_pair_sound) | (with_reducible apply foldl_trip_sound)
      | (with_reducible refine ite_pair_sound ?_ ?_) | (with_reducible refine ite_trip_sound ?_ ?_) | (dsimp only))

theorem resumeOutside_sound {F : Kept} (s : State) (hs : s.Sound F) : State.Sound F (resumeOutside s) := by
  unfold resumeOutside
  try dsimp only
  repeat' (first
      | with_reducible assumption | (with_reducible intro _) | with_reducible apply fauSettle_sound
      | with_reducible apply pumpColl_sound | with_reducible apply pumpLines_sound
      | with_reducible apply pumpRings_sound | with_reducible apply retryAgain_sound
      | with_reducible apply retryAnswerRoom_sound | with_reducible apply retryAnswers_sound
      | with_reducible apply retryBacks_sound | with_reducible apply retryMemWait_sound
      | with_reducible apply retryReplies_sound | with_reducible apply settleDestroys_sound
      | (with_reducible apply foldl_sound) | (dsimp only))

theorem resume_sound {F : Kept} (s : State) (hs : s.Sound F) : State.Sound F (resume s) := by
  unfold resume
  try dsimp only
  repeat' (first
      | with_reducible assumption | with_reducible apply dispatchJobs_sound | with_reducible apply endBadUsers_sound
      | with_reducible apply endHopeless_sound | with_reducible apply resumeHeld_sound
      | with_reducible apply resumeLink_sound | with_reducible apply resumeOutside_sound
      | with_reducible apply resumeStack_sound | with_reducible apply retryLoads_sound
      | (with_reducible refine ite_sound ?_ ?_) | split)

theorem applyUnwrap_sound {F : Kept} (p : PolderId) (kind : BitVec 8) (seen : DeedSeen) (s : State)
    (hs : s.Sound F) : State.Sound F (applyUnwrap p kind seen s) := by
  unfold applyUnwrap
  try dsimp only
  repeat' (first
      | with_reducible assumption | with_reducible apply answerPins_sound | with_reducible apply failLoad_sound
      | with_reducible apply failUsers_sound | with_reducible apply keyLoaded_sound
      | with_reducible apply markSlotBad_sound | with_reducible apply pmkLoaded_sound
      | with_reducible apply retryUsers_sound | (with_reducible refine ite_sound ?_ ?_) | split
      | (with_reducible refine sound_upd ?_ rfl rfl rfl rfl rfl rfl rfl rfl))

theorem askAgain_sound {F : Kept} (r : StreamRef) (s : State) (hs : s.Sound F) : State.Sound F (askAgain r s) := by
  unfold askAgain
  try dsimp only
  repeat' (first
      | with_reducible assumption | (with_reducible intro _) | split
      | (with_reducible refine sound_upd ?_ rfl rfl rfl rfl rfl rfl rfl rfl))

theorem applyStreamKey_sound {F : Kept} (r : StreamRef) (epoch : BitVec 32) (s : State) (hs : s.Sound F) :
    State.Sound F (applyStreamKey r epoch s) := by
  unfold applyStreamKey
  try dsimp only
  repeat' (first
      | with_reducible assumption | (with_reducible intro _) | with_reducible apply askAgain_sound
      | with_reducible apply needKey_sound | with_reducible apply pumpTx_sound | with_reducible apply retryRx_sound
      | with_reducible apply setRx_sound | with_reducible apply setTx_sound
      | (with_reducible refine ite_sound ?_ ?_) | (with_reducible refine ite_pair_sound ?_ ?_)
      | (with_reducible refine ite_trip_sound ?_ ?_) | split
      | (refine sound_of_pair (by with_reducible assumption) ?_)
      | (refine sound_of_trip (by with_reducible assumption) ?_)
      | (with_reducible refine sound_upd ?_ rfl rfl rfl rfl rfl rfl rfl rfl) | (dsimp only))

theorem refillBuffer_sound {F : Kept} (s : State) (hs : s.Sound F) : State.Sound F (refillBuffer s) := by
  unfold refillBuffer
  try dsimp only
  repeat' (first
      | with_reducible assumption | (with_reducible intro _) | with_reducible apply modKeys_sound
      | with_reducible apply needJob_sound | with_reducible apply reseedIfDue_sound
      | (with_reducible refine ite_sound ?_ ?_) | split
      | (with_reducible refine sound_upd ?_ rfl rfl rfl rfl rfl rfl rfl rfl))

theorem applyJob_sound {F : Kept} (j : KcuJob) (s : State) (hs : s.Sound F) : State.Sound F (applyJob j s) := by
  unfold applyJob
  try dsimp only
  repeat' (first
      | with_reducible assumption | with_reducible apply applyStreamKey_sound
      | with_reducible apply applyUnwrap_sound | with_reducible apply extentDerived_sound
      | with_reducible apply refillBuffer_sound | with_reducible apply sealPiece_sound | split
      | (with_reducible refine sound_upd ?_ rfl rfl rfl rfl rfl rfl rfl rfl))

theorem setKcu_sound {F : Kept} (second : Bool) (k : Kcu) (s : State) (hs : s.Sound F) : State.Sound F
    (setKcu second k s) := by
  unfold setKcu
  try dsimp only
  repeat' (first
      | with_reducible assumption | (with_reducible intro _) | with_reducible apply modKeys_sound
      | (with_reducible refine ite_sound ?_ ?_) | split
      | (with_reducible refine sound_upd ?_ rfl rfl rfl rfl rfl rfl rfl rfl))

theorem kcuOut_sound {F : Kept} (second : Bool) (j : KcuJob) (s : State) (hs : s.Sound F) : State.Sound F
    (kcuOut second j s) := by
  unfold kcuOut
  try dsimp only
  repeat' (first
      | with_reducible assumption | (with_reducible intro _) | with_reducible apply modKeys_sound
      | with_reducible apply setKcu_sound | with_reducible apply writeFault_sound
      | (with_reducible refine ite_sound ?_ ?_) | split
      | (with_reducible refine sound_upd ?_ rfl rfl rfl rfl rfl rfl rfl rfl))

theorem afterKcuOut_sound {F : Kept} (s : State) (hs : s.Sound F) : State.Sound F (afterKcuOut s) := by
  unfold afterKcuOut
  try dsimp only
  repeat' (first
      | with_reducible assumption | with_reducible apply blockReset_sound | with_reducible apply resume_sound
      | (with_reducible refine ite_sound ?_ ?_) | split)

theorem jobPasses_sound {F : Kept} (second : Bool) (j : KcuJob) (s : State) (hs : s.Sound F) : State.Sound F
    (jobPasses second j s) := by
  unfold jobPasses
  try dsimp only
  repeat' (first
      | with_reducible assumption | with_reducible apply applyJob_sound | with_reducible apply markWork_sound
      | with_reducible apply resume_sound | with_reducible apply setKcu_sound | with_reducible apply traceJob_sound
      | (with_reducible refine ite_sound ?_ ?_) | split)

theorem jobMismatch_sound {F : Kept} (second : Bool) (j : KcuJob) (s : State) (hs : s.Sound F) : State.Sound F
    (jobMismatch second j s) := by
  unfold jobMismatch
  try dsimp only
  repeat' (first
      | with_reducible assumption | (with_reducible intro _) | with_reducible apply afterKcuOut_sound
      | with_reducible apply blockReset_sound | with_reducible apply count_sound | with_reducible apply kcuOut_sound
      | with_reducible apply modKeys_sound | with_reducible apply setKcu_sound
      | (with_reducible refine ite_sound ?_ ?_) | split
      | (with_reducible refine sound_upd ?_ rfl rfl rfl rfl rfl rfl rfl rfl))

theorem execKcuJobComplete_sound {F : Kept} (kcu : Bool) (outcome : KcuOutcome) (s : State) (hs : s.Sound F) :
    SoundOut F (execKcuJobComplete kcu outcome s) := by
  unfold execKcuJobComplete
  try dsimp only
  repeat' (first
      | with_reducible exact soundOut_fault | (with_reducible apply soundOut_next)
      | (with_reducible refine soundOut_ite ?_ ?_) | with_reducible assumption | (with_reducible intro _)
      | with_reducible apply afterKcuOut_sound | with_reducible apply jobMismatch_sound
      | with_reducible apply jobPasses_sound | with_reducible apply kcuOut_sound
      | with_reducible apply modKeys_sound | (with_reducible refine ite_sound ?_ ?_) | split
      | (with_reducible refine sound_upd ?_ rfl rfl rfl rfl rfl rfl rfl rfl) | (dsimp only))

theorem execSlotEvictionComplete_sound {F : Kept} (slot : BitVec 8) (s : State) (hs : s.Sound F) : SoundOut F
    (execSlotEvictionComplete slot s) := by
  unfold execSlotEvictionComplete
  try dsimp only
  repeat' (first
      | with_reducible exact soundOut_fault | (with_reducible apply soundOut_next)
      | (with_reducible refine soundOut_ite ?_ ?_) | with_reducible assumption | (with_reducible intro _)
      | with_reducible apply resume_sound | with_reducible apply zeroizeSlot_sound
      | (with_reducible refine ite_sound ?_ ?_) | split
      | (with_reducible refine sound_upd ?_ rfl rfl rfl rfl rfl rfl rfl rfl) | (dsimp only))

theorem execSlotLoadTimeout_sound {F : Kept} (polder : PolderId) (s : State) (hs : s.Sound F) : SoundOut F
    (execSlotLoadTimeout polder s) := by
  unfold execSlotLoadTimeout
  try dsimp only
  repeat' (first
      | with_reducible exact soundOut_fault | (with_reducible apply soundOut_next)
      | (with_reducible refine soundOut_ite ?_ ?_) | with_reducible assumption | (with_reducible intro _)
      | with_reducible apply endSlotless_sound | with_reducible apply resume_sound
      | with_reducible apply retryLoads_sound | (with_reducible refine ite_sound ?_ ?_) | split
      | (with_reducible refine sound_upd ?_ rfl rfl rfl rfl rfl rfl rfl rfl) | (dsimp only))

theorem execDrbgReseed_sound {F : Kept} (s : State) (hs : s.Sound F) : SoundOut F (execDrbgReseed s) := by
  unfold execDrbgReseed
  try dsimp only
  repeat' (first
      | with_reducible exact soundOut_fault | (with_reducible apply soundOut_next)
      | (with_reducible refine soundOut_ite ?_ ?_) | with_reducible assumption | (with_reducible intro _)
      | with_reducible apply reseed_sound | (with_reducible refine ite_sound ?_ ?_) | split | (dsimp only))

theorem execEntropyHealthFailure_sound {F : Kept} (test : BitVec 8) (s : State) (hs : s.Sound F) : SoundOut F
    (execEntropyHealthFailure test s) := by
  unfold execEntropyHealthFailure
  try dsimp only
  repeat' (first
      | with_reducible exact soundOut_fault | (with_reducible apply soundOut_next)
      | (with_reducible refine soundOut_ite ?_ ?_) | with_reducible assumption | (with_reducible intro _)
      | with_reducible apply modKeys_sound | with_reducible apply writeFault_sound
      | (with_reducible refine ite_sound ?_ ?_) | split
      | (with_reducible refine sound_upd ?_ rfl rfl rfl rfl rfl rfl rfl rfl) | (dsimp only))

theorem execProtectedPacketReceive_sound {F : Kept} (port : BitVec 8) (packet : Bytes) (s : State)
    (hs : s.Sound F) : SoundOut F (execProtectedPacketReceive port packet s) := by
  unfold execProtectedPacketReceive
  try dsimp only
  repeat' (first
      | with_reducible exact soundOut_fault | (with_reducible apply soundOut_next)
      | (with_reducible refine soundOut_ite ?_ ?_) | with_reducible assumption | (with_reducible intro _)
      | with_reducible apply arrivePacket_sound | with_reducible apply enter_sound
      | (with_reducible refine ite_sound ?_ ?_) | split | (dsimp only))

theorem cacheEntry_sound {F : Kept} (slice : BitVec 8) (r : StreamRef) (s : State) (hs : s.Sound F) : State.Sound F
    (cacheEntry slice r s) := by
  unfold cacheEntry
  try dsimp only
  repeat' (first
      | with_reducible assumption | (with_reducible intro _) | with_reducible apply tookFree_sound
      | (with_reducible refine ite_sound ?_ ?_) | split
      | (with_reducible refine sound_upd ?_ rfl rfl rfl rfl rfl rfl rfl rfl))

theorem execStreamEntryFetch_sound {F : Kept} (slice : BitVec 8) (stream : StreamRef) (s : State) (hs : s.Sound F) :
    SoundOut F (execStreamEntryFetch slice stream s) := by
  unfold execStreamEntryFetch
  try dsimp only
  repeat' (first
      | with_reducible exact soundOut_fault | (with_reducible apply soundOut_next)
      | (with_reducible refine soundOut_ite ?_ ?_) | with_reducible assumption | (with_reducible intro _)
      | with_reducible apply cacheEntry_sound | with_reducible apply resume_sound
      | with_reducible apply withDomain_sound | (with_reducible refine ite_sound ?_ ?_) | split
      | (with_reducible refine sound_upd ?_ rfl rfl rfl rfl rfl rfl rfl rfl) | (dsimp only))

end Sys2Proof.Machine
end

