-- ==== Sys2Proof/Laws/SoundPower.lean ====
section
/-! SUPPORT. What the operations of Machine/Power.lean keep: memories in canonical form, registers in range, blown
fuses and bounded fault rings (State.Sound). -/

namespace Sys2Proof.Machine

theorem serveEntry_sound {F : Kept} (e : CulvertEntry) (s : State) (hs : s.Sound F) : State.Sound F
    (serveEntry e s) := by
  unfold serveEntry
  try dsimp only
  repeat' (first
      | with_reducible assumption | with_reducible apply arriveLine_sound | with_reducible apply arriveNotice_sound
      | with_reducible apply arrivePacket_sound | with_reducible apply arriveStack_sound
      | with_reducible apply scaRequest_sound | with_reducible apply submitOp_sound | split
      | (with_reducible refine sound_upd ?_ rfl rfl rfl rfl rfl rfl rfl rfl))

theorem nextEntry_sound {F : Kept} (d : DomainId) (s : State) (e : CulvertEntry) (t : State)
    (h : nextEntry d s = some (e, t)) (hs : s.Sound F) : t.Sound F := by
  revert h
  unfold nextEntry
  dsimp only
  split
  · intro h
    cases h
    exact setCulvert_sound _ _ hs
  · split
    · intro h
      cases h
      exact modPower_sound _ _ hs
    · intro h
      cases h

theorem deliver_sound {F : Kept} (d : DomainId) (a0 : Nat) (a1 : State) (hs : a1.Sound F) :
    State.Sound F (deliver d a0 a1) := by
  induction a0 generalizing a1 with
  | zero => exact hs
  | succ n ih =>
    unfold deliver
    split
    · exact hs
    · split
      · rename_i h
        exact ih _ (serveEntry_sound _ _ (markWork_sound _ _ (nextEntry_sound _ _ _ _ h hs)))
      · exact hs


theorem domainServes_sound {F : Kept} (d : DomainId) (s : State) (hs : s.Sound F) : State.Sound F
    (domainServes d s) := by
  unfold domainServes
  try dsimp only
  repeat' (first
      | with_reducible assumption | with_reducible apply deliver_sound | with_reducible apply resume_sound
      | (with_reducible refine ite_pair_sound ?_ ?_) | (with_reducible refine ite_trip_sound ?_ ?_) | (dsimp only))

theorem execClockStopRequest_sound {F : Kept} (d : DomainId) (s : State) (hs : s.Sound F) : SoundOut F
    (execClockStopRequest d s) := by
  unfold execClockStopRequest
  try dsimp only
  repeat' (first
      | with_reducible exact soundOut_fault | (with_reducible apply soundOut_next)
      | (with_reducible refine soundOut_ite ?_ ?_) | with_reducible assumption | (with_reducible intro _)
      | with_reducible apply emitTrace_sound | with_reducible apply modPins_sound
      | with_reducible apply tookFree_sound | (with_reducible refine ite_sound ?_ ?_) | split
      | (with_reducible refine sound_upd ?_ rfl rfl rfl rfl rfl rfl rfl rfl) | (dsimp only))

theorem writeBackEntries_sound {F : Kept} (d : DomainId) (s : State) (hs : s.Sound F) : State.Sound F
    (writeBackEntries d s) := by
  unfold writeBackEntries
  try dsimp only
  repeat' (first
      | with_reducible assumption | (with_reducible intro _) | split
      | (with_reducible refine sound_upd ?_ rfl rfl rfl rfl rfl rfl rfl rfl))

theorem zeroizeDomain_sound {F : Kept} (d : DomainId) (s : State) (hs : s.Sound F) : State.Sound F
    (zeroizeDomain d s) := by
  unfold zeroizeDomain
  try dsimp only
  repeat' (first
      | with_reducible assumption | with_reducible apply dropCopies_sound | with_reducible apply setKcu_sound
      | with_reducible apply writeBackEntries_sound | split
      | (with_reducible refine sound_upd ?_ rfl rfl rfl rfl rfl rfl rfl rfl))

theorem execDomainGate_sound {F : Kept} (d : DomainId) (s : State) (hs : s.Sound F) : SoundOut F
    (execDomainGate d s) := by
  unfold execDomainGate
  try dsimp only
  repeat' (first
      | with_reducible exact soundOut_fault | (with_reducible apply soundOut_next)
      | (with_reducible refine soundOut_ite ?_ ?_) | with_reducible assumption | (with_reducible intro _)
      | with_reducible apply count_sound | with_reducible apply emitTrace_sound | with_reducible apply modPins_sound
      | with_reducible apply zeroizeDomain_sound | (with_reducible refine ite_sound ?_ ?_) | split
      | (with_reducible refine sound_upd ?_ rfl rfl rfl rfl rfl rfl rfl rfl) | (dsimp only))

theorem execDomainWake_sound {F : Kept} (d : DomainId) (s : State) (hs : s.Sound F) : SoundOut F
    (execDomainWake d s) := by
  unfold execDomainWake
  try dsimp only
  repeat' (first
      | with_reducible exact soundOut_fault | (with_reducible apply soundOut_next)
      | (with_reducible refine soundOut_ite ?_ ?_) | with_reducible assumption | (with_reducible intro _)
      | with_reducible apply wakeDomain_sound | (dsimp only))

end Sys2Proof.Machine
end

