-- ==== Sys2Proof/Laws/SoundReplay.lean ====
section
/-! SUPPORT. What the operations of Machine/Replay.lean keep: memories in canonical form, registers in range, blown
fuses and bounded fault rings (State.Sound). -/

namespace Sys2Proof.Machine

theorem squashIn_sound {F : Kept} (unit : BitVec 16) (c : CtxId) (s : State) (hs : s.Sound F) : State.Sound F
    (squashIn unit c s) := by
  unfold squashIn
  try dsimp only
  repeat' (first
      | with_reducible assumption | (with_reducible intro _) | with_reducible apply abortPart_sound
      | with_reducible apply endDescriptor_sound | with_reducible apply endOps_sound
      | with_reducible apply endWaitingTx_sound | with_reducible apply stackAnswer_sound
      | (with_reducible apply foldl_sound) | split
      | (with_reducible refine sound_upd ?_ rfl rfl rfl rfl rfl rfl rfl rfl) | (dsimp only))

theorem resumeWork_sound {F : Kept} (s : State) (hs : s.Sound F) : State.Sound F (resumeWork s) := by
  unfold resumeWork
  try dsimp only
  repeat' (first
      | with_reducible assumption | with_reducible apply resume_sound | with_reducible apply resumeHeld_sound)

theorem joinSuspects_sound {F : Kept} (unit : BitVec 16) (d : DomainId) (s : State) (hs : s.Sound F) : State.Sound F
    (joinSuspects unit d s) := by
  unfold joinSuspects
  try dsimp only
  repeat' (first
      | with_reducible assumption | (with_reducible intro _)
      | with_reducible refine modTracer_sound _ _ (fun _ => rfl) ?_ | (with_reducible apply foldl_sound)
      | (with_reducible refine ite_sound ?_ ?_) | split
      | (with_reducible refine sound_upd ?_ rfl rfl rfl rfl rfl rfl rfl rfl) | (dsimp only))

theorem noteUnits_sound {F : Kept} (unit : BitVec 16) (s : State) (hs : s.Sound F) : State.Sound F
    (noteUnits unit s) := by
  unfold noteUnits
  try dsimp only
  repeat' (first
      | with_reducible assumption | (with_reducible intro _)
      | with_reducible refine modTracer_sound _ _ (fun _ => rfl) ?_
      | (with_reducible refine sound_upd ?_ rfl rfl rfl rfl rfl rfl rfl rfl))

theorem resetEngine_sound {F : Kept} (unit : BitVec 16) (s : State) (hs : s.Sound F) : State.Sound F
    (resetEngine unit s) := by
  unfold resetEngine
  try dsimp only
  repeat' (first
      | with_reducible assumption | (with_reducible intro _) | with_reducible apply joinSuspects_sound
      | with_reducible apply noteUnits_sound | with_reducible apply resetCulverts_sound
      | (with_reducible refine ite_sound ?_ ?_) | split
      | (with_reducible refine sound_upd ?_ rfl rfl rfl rfl rfl rfl rfl rfl))

theorem resendSuspect_sound {F : Kept} (h : Hang) (c : CtxId) (s : State) (hs : s.Sound F) : State.Sound F
    (resendSuspect h c s) := by
  unfold resendSuspect
  try dsimp only
  repeat' (first
      | with_reducible assumption | (with_reducible intro _) | with_reducible apply resendNow_sound
      | (with_reducible apply foldl_sound) | (with_reducible refine ite_sound ?_ ?_) | split | (dsimp only))

theorem askBlocks_sound {F : Kept} (n : CollNode) (s : State) (hs : s.Sound F) : State.Sound F (askBlocks n s) := by
  unfold askBlocks
  try dsimp only
  repeat' (first
      | with_reducible assumption | (with_reducible intro _) | with_reducible apply abortNode_sound
      | with_reducible apply sendEach_sound | (with_reducible refine ite_pair_sound ?_ ?_)
      | (with_reducible refine ite_trip_sound ?_ ?_) | split
      | (refine sound_of_pair (by with_reducible assumption) ?_)
      | (refine sound_of_trip (by with_reducible assumption) ?_)
      | (with_reducible refine sound_upd ?_ rfl rfl rfl rfl rfl rfl rfl rfl) | (dsimp only))

theorem reperform_sound {F : Kept} (unit : BitVec 16) (s : State) (hs : s.Sound F) : State.Sound F
    (reperform unit s) := by
  unfold reperform
  try dsimp only
  repeat' (first
      | with_reducible assumption | (with_reducible intro _) | with_reducible apply askBlocks_sound
      | with_reducible apply resendSuspect_sound | (with_reducible apply foldl_sound)
      | (with_reducible refine ite_sound ?_ ?_) | split
      | (with_reducible refine sound_upd ?_ rfl rfl rfl rfl rfl rfl rfl rfl) | (dsimp only))

theorem advanceHang_sound {F : Kept} (unit : BitVec 16) (s : State) (hs : s.Sound F) : State.Sound F
    (advanceHang unit s) := by
  unfold advanceHang
  try dsimp only
  repeat' (first
      | with_reducible assumption | (with_reducible intro _) | with_reducible apply finishAll_sound
      | with_reducible refine modTracer_sound _ _ (fun _ => rfl) ?_ | with_reducible apply resendSuspect_sound
      | with_reducible apply resumeWork_sound | (with_reducible refine ite_sound ?_ ?_) | split
      | (with_reducible refine sound_upd ?_ rfl rfl rfl rfl rfl rfl rfl rfl))

theorem execCulvertHandshakeComplete_sound {F : Kept} (c : CulvertId) (s : State) (hs : s.Sound F) : SoundOut F
    (execCulvertHandshakeComplete c s) := by
  unfold execCulvertHandshakeComplete
  try dsimp only
  repeat' (first
      | with_reducible exact soundOut_fault | (with_reducible apply soundOut_next)
      | (with_reducible refine soundOut_ite ?_ ?_) | with_reducible assumption | (with_reducible intro _)
      | with_reducible apply domainServes_sound | with_reducible apply reperform_sound
      | with_reducible apply setCulvert_sound | (with_reducible refine ite_sound ?_ ?_) | split
      | (with_reducible refine sound_upd ?_ rfl rfl rfl rfl rfl rfl rfl rfl) | (dsimp only))

theorem dropSuspect_sound {F : Kept} (c : CtxId) (s : State) (hs : s.Sound F) : State.Sound F (dropSuspect c s) := by
  unfold dropSuspect
  try dsimp only
  repeat' (first
      | with_reducible assumption | (with_reducible intro _) | with_reducible apply advanceHang_sound
      | with_reducible refine modTracer_sound _ _ (fun _ => rfl) ?_ | (with_reducible apply foldl_sound)
      | (with_reducible refine sound_upd ?_ rfl rfl rfl rfl rfl rfl rfl rfl) | (dsimp only))

end Sys2Proof.Machine
end

