-- ==== Sys2Proof/Laws/SoundContexts.lean ====
section
/-! SUPPORT. What the operations of Machine/Contexts.lean keep: memories in canonical form, registers in range, blown
fuses and bounded fault rings (State.Sound). -/

namespace Sys2Proof.Machine

theorem modObj_sound {F : Kept} (f : Objects → Objects) (s : State) (hs : s.Sound F) : State.Sound F
    (modObj f s) := by
  unfold modObj
  try dsimp only
  repeat' (first | with_reducible assumption | (with_reducible refine sound_upd ?_ rfl rfl rfl rfl rfl rfl rfl rfl))

theorem passAhead_sound {F : Kept} (q : BitVec 8) (n : Nat) (s : State) (hs : s.Sound F) : State.Sound F
    (passAhead q n s) := by
  unfold passAhead
  try dsimp only
  repeat' (first
      | with_reducible assumption | (with_reducible intro _) | with_reducible apply modObj_sound
      | (with_reducible refine ite_sound ?_ ?_) | split
      | (with_reducible refine sound_upd ?_ rfl rfl rfl rfl rfl rfl rfl rfl))

theorem squashUnfetched_sound {F : Kept} (q : Queue) (a0 : Nat) (a1 : State) (hs : a1.Sound F) : State.Sound F
    (squashUnfetched q a0 a1) := by
  induction a0 generalizing a1 with
  | zero => 
    unfold squashUnfetched
    try dsimp only
    repeat' (first
        | with_reducible assumption | with_reducible apply endUnstarted_sound | with_reducible apply tookFree_sound
        | (with_reducible refine ite_pair_sound ?_ ?_) | (with_reducible refine ite_trip_sound ?_ ?_) | split
        | (dsimp only))
  | succ n ih => 
    unfold squashUnfetched
    try dsimp only
    repeat' (first
        | with_reducible assumption | with_reducible apply endUnstarted_sound | with_reducible apply tookFree_sound
        | with_reducible apply ih | (with_reducible refine ite_pair_sound ?_ ?_)
        | (with_reducible refine ite_trip_sound ?_ ?_) | split | (dsimp only))

theorem squashQueue_sound {F : Kept} (id : BitVec 8) (s : State) (hs : s.Sound F) : State.Sound F
    (squashQueue id s) := by
  unfold squashQueue
  try dsimp only
  repeat' (first
      | with_reducible assumption | (with_reducible intro _) | with_reducible apply endDescriptor_sound
      | with_reducible apply modQueue_sound | with_reducible apply passAhead_sound
      | with_reducible apply squashUnfetched_sound | (with_reducible apply foldl_sound)
      | (with_reducible apply foldl_pair_sound) | (with_reducible apply foldl_trip_sound)
      | (with_reducible apply id_sound) | (with_reducible refine ite_pair_sound ?_ ?_)
      | (with_reducible refine ite_trip_sound ?_ ?_) | split
      | (refine sound_of_pair (by with_reducible assumption) ?_)
      | (refine sound_of_trip (by with_reducible assumption) ?_)
      | (with_reducible refine sound_upd ?_ rfl rfl rfl rfl rfl rfl rfl rfl) | (dsimp only))

theorem abortArrival_sound {F : Kept} (a : Arrival) (st : Status) (s : State) (hs : s.Sound F) : State.Sound F
    (abortArrival a st s) := by
  unfold abortArrival
  try dsimp only
  repeat' (first
      | with_reducible assumption | with_reducible apply completeArrival_sound
      | with_reducible apply sendAbort_sound | split
      | (with_reducible refine sound_upd ?_ rfl rfl rfl rfl rfl rfl rfl rfl))

theorem abortContext_sound {F : Kept} (c : CtxId) (st : Status) (s : State) (hs : s.Sound F) : State.Sound F
    (abortContext c st s) := by
  unfold abortContext
  try dsimp only
  repeat' (first
      | with_reducible assumption | (with_reducible intro _) | with_reducible apply abortArrival_sound
      | with_reducible apply abortPart_sound | (with_reducible apply foldl_sound) | (dsimp only))

theorem endHeldSca_sound {F : Kept} (x : Context) (s : State) (hs : s.Sound F) : State.Sound F (endHeldSca x s) := by
  unfold endHeldSca
  try dsimp only
  repeat' (first
      | with_reducible assumption | (with_reducible intro _) | with_reducible apply scaAnswer_sound
      | (with_reducible apply foldl_sound) | (with_reducible refine sound_upd ?_ rfl rfl rfl rfl rfl rfl rfl rfl)
      | (dsimp only))

theorem squashWork_sound {F : Kept} (c : CtxId) (s : State) (hs : s.Sound F) : State.Sound F (squashWork c s) := by
  unfold squashWork
  try dsimp only
  repeat' (first
      | with_reducible assumption | (with_reducible intro _) | with_reducible apply abortContext_sound
      | with_reducible apply dropSuspect_sound | with_reducible apply endHeldSca_sound
      | with_reducible apply endHold_sound | with_reducible apply endOps_sound | with_reducible apply endWaits_sound
      | with_reducible apply resume_sound | with_reducible apply squashQueue_sound
      | (with_reducible apply foldl_sound) | split
      | (with_reducible refine sound_upd ?_ rfl rfl rfl rfl rfl rfl rfl rfl) | (dsimp only))

theorem endFences_sound {F : Kept} (c : CtxId) (s : State) (hs : s.Sound F) : State.Sound F (endFences c s) := by
  unfold endFences
  try dsimp only
  repeat' (first
      | with_reducible assumption | (with_reducible intro _) | with_reducible apply abandonFence_sound
      | with_reducible apply dropShares_sound | (with_reducible apply foldl_sound) | (dsimp only))

theorem beginDestroy_sound {F : Kept} (c : CtxId) (waiters : List (Origin × BitVec 32)) (s : State)
    (hs : s.Sound F) : State.Sound F (beginDestroy c waiters s) := by
  unfold beginDestroy
  try dsimp only
  repeat' (first
      | with_reducible assumption | (with_reducible intro _) | with_reducible apply endFences_sound
      | with_reducible apply modContext_sound | with_reducible apply modObj_sound
      | with_reducible apply squashWork_sound | (with_reducible refine ite_sound ?_ ?_) | split
      | (with_reducible refine sound_upd ?_ rfl rfl rfl rfl rfl rfl rfl rfl))

theorem freeContext_sound {F : Kept} (c : CtxId) (s : State) (hs : s.Sound F) : State.Sound F (freeContext c s) := by
  unfold freeContext
  try dsimp only
  repeat' (first
      | with_reducible assumption | (with_reducible intro _) | with_reducible apply finishAll_sound
      | with_reducible apply modObj_sound | with_reducible apply zeroSync_sound | (with_reducible apply foldl_sound)
      | split | (with_reducible refine sound_upd ?_ rfl rfl rfl rfl rfl rfl rfl rfl) | (dsimp only))

theorem bringBack_sound {F : Kept} (c : CtxId) (s : State) (hs : s.Sound F) : State.Sound F (bringBack c s) := by
  unfold bringBack
  try dsimp only
  repeat' (first
      | with_reducible assumption | (with_reducible intro _) | with_reducible apply modContext_sound
      | with_reducible apply modObj_sound | with_reducible apply zeroSync_sound | split
      | (with_reducible refine sound_upd ?_ rfl rfl rfl rfl rfl rfl rfl rfl))

theorem restoreContext_sound {F : Kept} (c : CtxId) (s : State) (hs : s.Sound F) : State.Sound F
    (restoreContext c s) := by
  unfold restoreContext
  try dsimp only
  repeat' (first
      | with_reducible assumption | with_reducible apply bringBack_sound | with_reducible apply endFences_sound
      | with_reducible apply squashWork_sound)

theorem settleReset_sound {F : Kept} (c : CtxId) (s : State) (hs : s.Sound F) : State.Sound F (settleReset c s) := by
  unfold settleReset
  try dsimp only
  repeat' (first
      | with_reducible assumption | (with_reducible intro _) | with_reducible apply bringBack_sound
      | with_reducible apply finishAll_sound | with_reducible apply modContext_sound
      | (with_reducible refine ite_sound ?_ ?_) | split
      | (with_reducible refine sound_upd ?_ rfl rfl rfl rfl rfl rfl rfl rfl))

theorem resetContext_sound {F : Kept} (c : CtxId) (o : Origin) (tag : BitVec 32) (s : State) (hs : s.Sound F) :
    State.Sound F (resetContext c o tag s) := by
  unfold resetContext
  try dsimp only
  repeat' (first
      | with_reducible assumption | (with_reducible intro _) | with_reducible apply bringBack_sound
      | with_reducible apply endFences_sound | with_reducible apply finish_sound
      | with_reducible apply modContext_sound | with_reducible apply squashWork_sound
      | (with_reducible refine ite_sound ?_ ?_) | split
      | (with_reducible refine sound_upd ?_ rfl rfl rfl rfl rfl rfl rfl rfl))

theorem execContextDestroyComplete_sound {F : Kept} (context : CtxId) (s : State) (hs : s.Sound F) : SoundOut F
    (execContextDestroyComplete context s) := by
  unfold execContextDestroyComplete
  try dsimp only
  repeat' (first
      | with_reducible exact soundOut_fault | (with_reducible apply soundOut_next)
      | (with_reducible refine soundOut_ite ?_ ?_) | with_reducible assumption | (with_reducible intro _)
      | with_reducible apply freeContext_sound | (with_reducible refine ite_sound ?_ ?_) | split
      | (with_reducible refine sound_upd ?_ rfl rfl rfl rfl rfl rfl rfl rfl) | (dsimp only))

theorem contextCreateCmd_sound {F : Kept} (bad : Bool) (o : Origin) (tag : BitVec 32) (polder : PolderId)
    (cls : BitVec 8) (cores : BitVec 512) (s : State) (hs : s.Sound F) : State.Sound F
    (contextCreateCmd bad o tag polder cls cores s) := by
  unfold contextCreateCmd
  try dsimp only
  repeat' (first
      | with_reducible assumption | (with_reducible intro _) | with_reducible apply modObj_sound
      | with_reducible apply reply_sound | with_reducible apply runCmd_sound | with_reducible apply zeroSync_sound
      | (with_reducible apply id_sound) | split
      | (with_reducible refine sound_upd ?_ rfl rfl rfl rfl rfl rfl rfl rfl))

theorem execContextCreate_sound {F : Kept} (o : Origin) (tag : BitVec 32) (polder : PolderId) (cls : BitVec 8)
    (cores : BitVec 512) (s : State) (hs : s.Sound F) : SoundOut F
    (execContextCreate o tag polder cls cores s) := by
  unfold execContextCreate
  try dsimp only
  repeat' (first
      | with_reducible exact soundOut_fault | (with_reducible apply soundOut_next)
      | (with_reducible refine soundOut_ite ?_ ?_) | with_reducible assumption | (with_reducible intro _)
      | with_reducible apply contextCreateCmd_sound | (dsimp only))

theorem contextDestroyCmd_sound {F : Kept} (bad : Bool) (o : Origin) (tag : BitVec 32) (context : BitVec 16)
    (s : State) (hs : s.Sound F) : State.Sound F (contextDestroyCmd bad o tag context s) := by
  unfold contextDestroyCmd
  try dsimp only
  repeat' (first
      | with_reducible assumption | (with_reducible intro _) | with_reducible apply beginDestroy_sound
      | with_reducible apply pend_sound | with_reducible apply runCmd_sound | (with_reducible apply id_sound)
      | (with_reducible refine ite_sound ?_ ?_) | split
      | (with_reducible refine sound_upd ?_ rfl rfl rfl rfl rfl rfl rfl rfl))

theorem execContextDestroy_sound {F : Kept} (o : Origin) (tag : BitVec 32) (context : BitVec 16) (s : State)
    (hs : s.Sound F) : SoundOut F (execContextDestroy o tag context s) := by
  unfold execContextDestroy
  try dsimp only
  repeat' (first
      | with_reducible exact soundOut_fault | (with_reducible apply soundOut_next)
      | (with_reducible refine soundOut_ite ?_ ?_) | with_reducible assumption | (with_reducible intro _)
      | with_reducible apply contextDestroyCmd_sound | (dsimp only))

theorem queueCreateCmd_sound {F : Kept} (bad : Bool) (o : Origin) (tag : BitVec 32) (context : BitVec 16)
    (ring : BitVec 16) (depth : BitVec 16) (addr : BitVec 64) (s : State) (hs : s.Sound F) : State.Sound F
    (queueCreateCmd bad o tag context ring depth addr s) := by
  unfold queueCreateCmd
  try dsimp only
  repeat' (first
      | with_reducible assumption | (with_reducible intro _) | with_reducible apply modObj_sound
      | with_reducible apply reply_sound | with_reducible apply runCmd_sound | (with_reducible apply id_sound)
      | (with_reducible refine ite_sound ?_ ?_) | split
      | (with_reducible refine sound_upd ?_ rfl rfl rfl rfl rfl rfl rfl rfl))

theorem execQueueCreate_sound {F : Kept} (o : Origin) (tag : BitVec 32) (context : BitVec 16) (ring : BitVec 16)
    (depth : BitVec 16) (addr : BitVec 64) (s : State) (hs : s.Sound F) : SoundOut F
    (execQueueCreate o tag context ring depth addr s) := by
  unfold execQueueCreate
  try dsimp only
  repeat' (first
      | with_reducible exact soundOut_fault | (with_reducible apply soundOut_next)
      | (with_reducible refine soundOut_ite ?_ ?_) | with_reducible assumption | (with_reducible intro _)
      | with_reducible apply queueCreateCmd_sound | (dsimp only))

theorem queueDestroyCmd_sound {F : Kept} (bad : Bool) (o : Origin) (tag : BitVec 32) (queue : BitVec 8) (s : State)
    (hs : s.Sound F) : State.Sound F (queueDestroyCmd bad o tag queue s) := by
  unfold queueDestroyCmd
  try dsimp only
  repeat' (first
      | with_reducible assumption | (with_reducible intro _) | with_reducible apply modQueue_sound
      | with_reducible apply pend_sound | with_reducible apply runCmd_sound | with_reducible apply settleQueue_sound
      | with_reducible apply squashQueue_sound | split
      | (with_reducible refine sound_upd ?_ rfl rfl rfl rfl rfl rfl rfl rfl))

theorem execQueueDestroy_sound {F : Kept} (o : Origin) (tag : BitVec 32) (queue : BitVec 8) (s : State)
    (hs : s.Sound F) : SoundOut F (execQueueDestroy o tag queue s) := by
  unfold execQueueDestroy
  try dsimp only
  repeat' (first
      | with_reducible exact soundOut_fault | (with_reducible apply soundOut_next)
      | (with_reducible refine soundOut_ite ?_ ?_) | with_reducible assumption | (with_reducible intro _)
      | with_reducible apply queueDestroyCmd_sound | (dsimp only))

theorem releaseEarly_sound {F : Kept} (fn : FnId) (s : State) (hs : s.Sound F) : State.Sound F
    (releaseEarly fn s) := by
  unfold releaseEarly
  try dsimp only
  repeat' (first
      | with_reducible assumption | (with_reducible intro _) | with_reducible apply modObj_sound
      | with_reducible apply postEvent_sound | (with_reducible apply foldl_sound)
      | (with_reducible refine sound_upd ?_ rfl rfl rfl rfl rfl rfl rfl rfl) | (dsimp only))

theorem eventRingCreateCmd_sound {F : Kept} (bad : Bool) (o : Origin) (tag : BitVec 32) (size : BitVec 32)
    (vector : BitVec 16) (addr : BitVec 64) (s : State) (hs : s.Sound F) : State.Sound F
    (eventRingCreateCmd bad o tag size vector addr s) := by
  unfold eventRingCreateCmd
  try dsimp only
  repeat' (first
      | with_reducible assumption | (with_reducible intro _) | with_reducible apply modObj_sound
      | with_reducible apply releaseEarly_sound | with_reducible apply reply_sound
      | with_reducible apply runCmd_sound | (with_reducible apply id_sound)
      | (with_reducible refine ite_sound ?_ ?_) | split
      | (with_reducible refine sound_upd ?_ rfl rfl rfl rfl rfl rfl rfl rfl))

theorem execEventRingCreate_sound {F : Kept} (o : Origin) (tag : BitVec 32) (size : BitVec 32) (vector : BitVec 16)
    (addr : BitVec 64) (s : State) (hs : s.Sound F) : SoundOut F
    (execEventRingCreate o tag size vector addr s) := by
  unfold execEventRingCreate
  try dsimp only
  repeat' (first
      | with_reducible exact soundOut_fault | (with_reducible apply soundOut_next)
      | (with_reducible refine soundOut_ite ?_ ?_) | with_reducible assumption | (with_reducible intro _)
      | with_reducible apply eventRingCreateCmd_sound | (dsimp only))

theorem settleRing_sound {F : Kept} (fn : FnId) (id : BitVec 9) (s : State) (hs : s.Sound F) : State.Sound F
    (settleRing fn id s) := by
  unfold settleRing
  try dsimp only
  repeat' (first
      | with_reducible assumption | (with_reducible intro _) | with_reducible apply finishAll_sound
      | with_reducible apply modObj_sound | (with_reducible apply id_sound)
      | (with_reducible refine ite_sound ?_ ?_) | split
      | (with_reducible refine sound_upd ?_ rfl rfl rfl rfl rfl rfl rfl rfl))

theorem eventRingDestroyCmd_sound {F : Kept} (bad : Bool) (o : Origin) (tag : BitVec 32) (ring : BitVec 16)
    (s : State) (hs : s.Sound F) : State.Sound F (eventRingDestroyCmd bad o tag ring s) := by
  unfold eventRingDestroyCmd
  try dsimp only
  repeat' (first
      | with_reducible assumption | (with_reducible intro _) | with_reducible apply modRing_sound
      | with_reducible apply pend_sound | with_reducible apply runCmd_sound | with_reducible apply settleRing_sound
      | (with_reducible apply id_sound) | (with_reducible refine ite_sound ?_ ?_) | split
      | (with_reducible refine sound_upd ?_ rfl rfl rfl rfl rfl rfl rfl rfl))

theorem execEventRingDestroy_sound {F : Kept} (o : Origin) (tag : BitVec 32) (ring : BitVec 16) (s : State)
    (hs : s.Sound F) : SoundOut F (execEventRingDestroy o tag ring s) := by
  unfold execEventRingDestroy
  try dsimp only
  repeat' (first
      | with_reducible exact soundOut_fault | (with_reducible apply soundOut_next)
      | (with_reducible refine soundOut_ite ?_ ?_) | with_reducible assumption | (with_reducible intro _)
      | with_reducible apply eventRingDestroyCmd_sound | (dsimp only))

theorem fenceCreateCmd_sound {F : Kept} (bad : Bool) (o : Origin) (tag : BitVec 32) (context : BitVec 16)
    (s : State) (hs : s.Sound F) : State.Sound F (fenceCreateCmd bad o tag context s) := by
  unfold fenceCreateCmd
  try dsimp only
  repeat' (first
      | with_reducible assumption | (with_reducible intro _) | with_reducible apply modObj_sound
      | with_reducible apply reply_sound | with_reducible apply runCmd_sound | (with_reducible apply id_sound)
      | (with_reducible refine sound_upd ?_ rfl rfl rfl rfl rfl rfl rfl rfl))

theorem execFenceCreate_sound {F : Kept} (o : Origin) (tag : BitVec 32) (context : BitVec 16) (s : State)
    (hs : s.Sound F) : SoundOut F (execFenceCreate o tag context s) := by
  unfold execFenceCreate
  try dsimp only
  repeat' (first
      | with_reducible exact soundOut_fault | (with_reducible apply soundOut_next)
      | (with_reducible refine soundOut_ite ?_ ?_) | with_reducible assumption | (with_reducible intro _)
      | with_reducible apply fenceCreateCmd_sound | (dsimp only))

theorem fenceShareCmd_sound {F : Kept} (bad : Bool) (o : Origin) (tag : BitVec 32) (fence : BitVec 16)
    (context : BitVec 16) (s : State) (hs : s.Sound F) : State.Sound F
    (fenceShareCmd bad o tag fence context s) := by
  unfold fenceShareCmd
  try dsimp only
  repeat' (first
      | with_reducible assumption | (with_reducible intro _) | with_reducible apply modFence_sound
      | with_reducible apply reply_sound | with_reducible apply runCmd_sound
      | (with_reducible refine ite_sound ?_ ?_) | split
      | (with_reducible refine sound_upd ?_ rfl rfl rfl rfl rfl rfl rfl rfl))

theorem execFenceShare_sound {F : Kept} (o : Origin) (tag : BitVec 32) (fence : BitVec 16) (context : BitVec 16)
    (s : State) (hs : s.Sound F) : SoundOut F (execFenceShare o tag fence context s) := by
  unfold execFenceShare
  try dsimp only
  repeat' (first
      | with_reducible exact soundOut_fault | (with_reducible apply soundOut_next)
      | (with_reducible refine soundOut_ite ?_ ?_) | with_reducible assumption | (with_reducible intro _)
      | with_reducible apply fenceShareCmd_sound | (dsimp only))

theorem fenceDestroyCmd_sound {F : Kept} (bad : Bool) (o : Origin) (tag : BitVec 32) (fence : BitVec 16) (s : State)
    (hs : s.Sound F) : State.Sound F (fenceDestroyCmd bad o tag fence s) := by
  unfold fenceDestroyCmd
  try dsimp only
  repeat' (first
      | with_reducible assumption | (with_reducible intro _) | with_reducible apply abandonFence_sound
      | with_reducible apply finish_sound | with_reducible apply pend_sound | with_reducible apply runCmd_sound
      | split | (with_reducible refine sound_upd ?_ rfl rfl rfl rfl rfl rfl rfl rfl))

theorem execFenceDestroy_sound {F : Kept} (o : Origin) (tag : BitVec 32) (fence : BitVec 16) (s : State)
    (hs : s.Sound F) : SoundOut F (execFenceDestroy o tag fence s) := by
  unfold execFenceDestroy
  try dsimp only
  repeat' (first
      | with_reducible exact soundOut_fault | (with_reducible apply soundOut_next)
      | (with_reducible refine soundOut_ite ?_ ?_) | with_reducible assumption | (with_reducible intro _)
      | with_reducible apply fenceDestroyCmd_sound | (dsimp only))

theorem memobjCreateCmd_sound {F : Kept} (bad : Bool) (o : Origin) (tag : BitVec 32) (polder : PolderId) (s : State)
    (hs : s.Sound F) : State.Sound F (memobjCreateCmd bad o tag polder s) := by
  unfold memobjCreateCmd
  try dsimp only
  repeat' (first
      | with_reducible assumption | (with_reducible intro _) | with_reducible apply modObj_sound
      | with_reducible apply reply_sound | with_reducible apply runCmd_sound | (with_reducible apply id_sound)
      | split | (with_reducible refine sound_upd ?_ rfl rfl rfl rfl rfl rfl rfl rfl))

theorem execMemobjCreate_sound {F : Kept} (o : Origin) (tag : BitVec 32) (polder : PolderId) (s : State)
    (hs : s.Sound F) : SoundOut F (execMemobjCreate o tag polder s) := by
  unfold execMemobjCreate
  try dsimp only
  repeat' (first
      | with_reducible exact soundOut_fault | (with_reducible apply soundOut_next)
      | (with_reducible refine soundOut_ite ?_ ?_) | with_reducible assumption | (with_reducible intro _)
      | with_reducible apply memobjCreateCmd_sound | (dsimp only))

theorem doomMemobj_sound {F : Kept} (m : BitVec 13) (s : State) (hs : s.Sound F) : State.Sound F
    (doomMemobj m s) := by
  unfold doomMemobj
  try dsimp only
  repeat' (first
      | with_reducible assumption | (with_reducible intro _) | with_reducible apply modMemobj_sound
      | (with_reducible refine ite_sound ?_ ?_) | split
      | (with_reducible refine sound_upd ?_ rfl rfl rfl rfl rfl rfl rfl rfl))

theorem memobjFreeCmd_sound {F : Kept} (bad : Bool) (o : Origin) (tag : BitVec 32) (memobj : BitVec 16) (s : State)
    (hs : s.Sound F) : State.Sound F (memobjFreeCmd bad o tag memobj s) := by
  unfold memobjFreeCmd
  try dsimp only
  repeat' (first
      | with_reducible assumption | (with_reducible intro _) | with_reducible apply doomMemobj_sound
      | with_reducible apply modMemobj_sound | with_reducible apply pend_sound | with_reducible apply runCmd_sound
      | (with_reducible refine sound_upd ?_ rfl rfl rfl rfl rfl rfl rfl rfl))

theorem execMemobjFree_sound {F : Kept} (o : Origin) (tag : BitVec 32) (memobj : BitVec 16) (s : State)
    (hs : s.Sound F) : SoundOut F (execMemobjFree o tag memobj s) := by
  unfold execMemobjFree
  try dsimp only
  repeat' (first
      | with_reducible exact soundOut_fault | (with_reducible apply soundOut_next)
      | (with_reducible refine soundOut_ite ?_ ?_) | with_reducible assumption | (with_reducible intro _)
      | with_reducible apply memobjFreeCmd_sound | (dsimp only))

theorem execMemobjLastReference_sound {F : Kept} (memobj : BitVec 13) (s : State) (hs : s.Sound F) : SoundOut F
    (execMemobjLastReference memobj s) := by
  unfold execMemobjLastReference
  try dsimp only
  repeat' (first
      | with_reducible exact soundOut_fault | (with_reducible apply soundOut_next)
      | (with_reducible refine soundOut_ite ?_ ?_) | with_reducible assumption | (with_reducible intro _)
      | with_reducible apply resume_sound | with_reducible apply settleMemobjs_sound
      | with_reducible apply startRelease_sound | (with_reducible apply foldl_sound)
      | (with_reducible refine ite_sound ?_ ?_) | split
      | (with_reducible refine sound_upd ?_ rfl rfl rfl rfl rfl rfl rfl rfl) | (dsimp only))

end Sys2Proof.Machine
end

