-- ==== Sys2Proof/Laws/SoundPlots.lean ====
section
/-! SUPPORT. What the operations of Machine/Plots.lean keep: memories in canonical form, registers in range, blown
fuses and bounded fault rings (State.Sound). -/

namespace Sys2Proof.Machine

theorem assignPlot_sound {F : Kept} (m : MemObj) (q : Polder) (plot : BitVec 16) (base : BitVec 24)
    (writable : Bool) (fill : Bool) (cls : BitVec 4) (s : State) (hs : s.Sound F) : State.Sound F
    (assignPlot m q plot base writable fill cls s) := by
  unfold assignPlot
  try dsimp only
  repeat' (first
      | with_reducible assumption | (with_reducible intro _) | with_reducible apply modMemobj_sound
      | with_reducible apply setPlot_sound | (with_reducible refine ite_sound ?_ ?_) | split
      | (with_reducible refine sound_upd ?_ rfl rfl rfl rfl rfl rfl rfl rfl))

theorem plotAssignCmd_sound {F : Kept} (bad : Bool) (o : Origin) (tag : BitVec 32) (memobj : BitVec 16)
    (plot : BitVec 16) (base : BitVec 24) (writable : Bool) (zeroFill : Bool) (fillClass : BitVec 4) (s : State)
    (hs : s.Sound F) : State.Sound F (plotAssignCmd bad o tag memobj plot base writable zeroFill fillClass s) := by
  unfold plotAssignCmd
  try dsimp only
  repeat' (first
      | with_reducible assumption | (with_reducible intro _) | with_reducible apply assignPlot_sound
      | with_reducible apply pumpFills_sound | with_reducible apply reply_sound | with_reducible apply runCmd_sound
      | split | (with_reducible refine sound_upd ?_ rfl rfl rfl rfl rfl rfl rfl rfl))

theorem execPlotAssign_sound {F : Kept} (o : Origin) (tag : BitVec 32) (memobj : BitVec 16) (plot : BitVec 16)
    (base : BitVec 24) (writable : Bool) (zeroFill : Bool) (fillClass : BitVec 4) (s : State) (hs : s.Sound F) :
    SoundOut F (execPlotAssign o tag memobj plot base writable zeroFill fillClass s) := by
  unfold execPlotAssign
  try dsimp only
  repeat' (first
      | with_reducible exact soundOut_fault | (with_reducible apply soundOut_next)
      | (with_reducible refine soundOut_ite ?_ ?_) | with_reducible assumption | (with_reducible intro _)
      | with_reducible apply plotAssignCmd_sound | (dsimp only))

theorem plotReleaseCmd_sound {F : Kept} (bad : Bool) (o : Origin) (tag : BitVec 32) (plot : BitVec 16) (s : State)
    (hs : s.Sound F) : State.Sound F (plotReleaseCmd bad o tag plot s) := by
  unfold plotReleaseCmd
  try dsimp only
  repeat' (first
      | with_reducible assumption | (with_reducible intro _) | with_reducible apply pend_sound
      | with_reducible apply resume_sound | with_reducible apply runCmd_sound
      | with_reducible apply startRelease_sound | split)

theorem execPlotRelease_sound {F : Kept} (o : Origin) (tag : BitVec 32) (plot : BitVec 16) (s : State)
    (hs : s.Sound F) : SoundOut F (execPlotRelease o tag plot s) := by
  unfold execPlotRelease
  try dsimp only
  repeat' (first
      | with_reducible exact soundOut_fault | (with_reducible apply soundOut_next)
      | (with_reducible refine soundOut_ite ?_ ?_) | with_reducible assumption | (with_reducible intro _)
      | with_reducible apply plotReleaseCmd_sound | (dsimp only))

theorem plotQueryCmd_sound {F : Kept} (bad : Bool) (o : Origin) (tag : BitVec 32) (plot : BitVec 16) (s : State)
    (hs : s.Sound F) : State.Sound F (plotQueryCmd bad o tag plot s) := by
  unfold plotQueryCmd
  try dsimp only
  repeat' (first
      | with_reducible assumption | (with_reducible intro _) | with_reducible apply reply_sound
      | with_reducible apply runCmd_sound | split
      | (with_reducible refine sound_upd ?_ rfl rfl rfl rfl rfl rfl rfl rfl))

theorem execPlotQuery_sound {F : Kept} (o : Origin) (tag : BitVec 32) (plot : BitVec 16) (s : State)
    (hs : s.Sound F) : SoundOut F (execPlotQuery o tag plot s) := by
  unfold execPlotQuery
  try dsimp only
  repeat' (first
      | with_reducible exact soundOut_fault | (with_reducible apply soundOut_next)
      | (with_reducible refine soundOut_ite ?_ ?_) | with_reducible assumption | (with_reducible intro _)
      | with_reducible apply plotQueryCmd_sound | (dsimp only))

theorem fillRtt_sound {F : Kept} (base : Nat) (plots : List (BitVec 16)) (s : State) (hs : s.Sound F) :
    State.Sound F (fillRtt base plots s) := by
  unfold fillRtt
  try dsimp only
  repeat' (first
      | with_reducible assumption | (with_reducible intro _)
      | (with_reducible refine sound_upd ?_ rfl rfl rfl rfl rfl rfl rfl rfl))

theorem exportRegion_sound {F : Kept} (m : MemObj) (q : Polder) (kind : BitVec 8) (perms : BitVec 8)
    (mcKey : BitVec 32) (length : BitVec 64) (first : BitVec 32) (core : BitVec 16) (base : BitVec 8)
    (count : BitVec 8) (plots : List (BitVec 16)) (s : State) (hs : s.Sound F) : State.Sound F
    (exportRegion m q kind perms mcKey length first core base count plots s).2 := by
  unfold exportRegion
  try dsimp only
  repeat' (first
      | with_reducible assumption | (with_reducible intro _) | with_reducible apply drbgDraw_sound
      | with_reducible apply fillRtt_sound | with_reducible apply modMemobj_sound
      | (with_reducible refine ite_sound ?_ ?_) | (with_reducible refine ite_pair_sound ?_ ?_)
      | (with_reducible refine ite_trip_sound ?_ ?_) | split
      | (with_reducible refine sound_upd ?_ rfl rfl rfl rfl rfl rfl rfl rfl) | (dsimp only))

theorem regionExportCmd_sound {F : Kept} (bad : Bool) (o : Origin) (tag : BitVec 32) (memobj : BitVec 16)
    (kind : BitVec 8) (perms : BitVec 8) (mcKey : BitVec 32) (length : BitVec 64) (firstOffset : BitVec 32)
    (core : BitVec 16) (base : BitVec 8) (count : BitVec 8) (plots : List (BitVec 16)) (s : State)
    (hs : s.Sound F) : State.Sound F
    (regionExportCmd bad o tag memobj kind perms mcKey length firstOffset core base count plots s) := by
  unfold regionExportCmd
  try dsimp only
  repeat' (first
      | with_reducible assumption | (with_reducible intro _) | with_reducible apply exportRegion_sound
      | with_reducible apply reply_sound | with_reducible apply runCmd_sound
      | (with_reducible refine ite_sound ?_ ?_) | (with_reducible refine ite_pair_sound ?_ ?_)
      | (with_reducible refine ite_trip_sound ?_ ?_) | split
      | (refine sound_of_pair (by with_reducible assumption) ?_)
      | (refine sound_of_trip (by with_reducible assumption) ?_)
      | (with_reducible refine sound_upd ?_ rfl rfl rfl rfl rfl rfl rfl rfl) | (dsimp only))

theorem execRegionExport_sound {F : Kept} (o : Origin) (tag : BitVec 32) (memobj : BitVec 16) (kind : BitVec 8)
    (perms : BitVec 8) (mcKey : BitVec 32) (length : BitVec 64) (firstOffset : BitVec 32) (core : BitVec 16)
    (base : BitVec 8) (count : BitVec 8) (plots : List (BitVec 16)) (s : State) (hs : s.Sound F) : SoundOut F
    (execRegionExport o tag memobj kind perms mcKey length firstOffset core base count plots s) := by
  unfold execRegionExport
  try dsimp only
  repeat' (first
      | with_reducible exact soundOut_fault | (with_reducible apply soundOut_next)
      | (with_reducible refine soundOut_ite ?_ ?_) | with_reducible assumption | (with_reducible intro _)
      | with_reducible apply regionExportCmd_sound | (dsimp only))

theorem regionWithdrawCmd_sound {F : Kept} (bad : Bool) (o : Origin) (tag : BitVec 32) (key : BitVec 32) (s : State)
    (hs : s.Sound F) : State.Sound F (regionWithdrawCmd bad o tag key s) := by
  unfold regionWithdrawCmd
  try dsimp only
  repeat' (first
      | with_reducible assumption | (with_reducible intro _) | with_reducible apply pend_sound
      | with_reducible apply runCmd_sound | (with_reducible refine sound_upd ?_ rfl rfl rfl rfl rfl rfl rfl rfl))

theorem execRegionWithdraw_sound {F : Kept} (o : Origin) (tag : BitVec 32) (key : BitVec 32) (s : State)
    (hs : s.Sound F) : SoundOut F (execRegionWithdraw o tag key s) := by
  unfold execRegionWithdraw
  try dsimp only
  repeat' (first
      | with_reducible exact soundOut_fault | (with_reducible apply soundOut_next)
      | (with_reducible refine soundOut_ite ?_ ?_) | with_reducible assumption | (with_reducible intro _)
      | with_reducible apply regionWithdrawCmd_sound | (dsimp only))

theorem regionQueryCmd_sound {F : Kept} (bad : Bool) (o : Origin) (tag : BitVec 32) (index : BitVec 16) (s : State)
    (hs : s.Sound F) : State.Sound F (regionQueryCmd bad o tag index s) := by
  unfold regionQueryCmd
  try dsimp only
  repeat' (first
      | with_reducible assumption | (with_reducible intro _) | with_reducible apply reply_sound
      | with_reducible apply runCmd_sound | split
      | (with_reducible refine sound_upd ?_ rfl rfl rfl rfl rfl rfl rfl rfl))

theorem execRegionQuery_sound {F : Kept} (o : Origin) (tag : BitVec 32) (index : BitVec 16) (s : State)
    (hs : s.Sound F) : SoundOut F (execRegionQuery o tag index s) := by
  unfold execRegionQuery
  try dsimp only
  repeat' (first
      | with_reducible exact soundOut_fault | (with_reducible apply soundOut_next)
      | (with_reducible refine soundOut_ite ?_ ?_) | with_reducible assumption | (with_reducible intro _)
      | with_reducible apply regionQueryCmd_sound | (dsimp only))

theorem createRing_sound {F : Kept} (ring : BitVec 12) (p : PolderId) (members : List InstId) (own : BitVec 3)
    (home : List (BitVec 16)) (s : State) (hs : s.Sound F) : State.Sound F
    (createRing ring p members own home s) := by
  unfold createRing
  try dsimp only
  repeat' (first
      | with_reducible assumption | (with_reducible intro _) | with_reducible apply fillRtt_sound
      | with_reducible apply modRings_sound | (with_reducible apply id_sound)
      | (with_reducible refine ite_sound ?_ ?_) | split
      | (with_reducible refine sound_upd ?_ rfl rfl rfl rfl rfl rfl rfl rfl))

theorem ringCreateCmd_sound {F : Kept} (bad : Bool) (o : Origin) (tag : BitVec 32) (ring : BitVec 16)
    (polder : PolderId) (members : List InstId) (own : BitVec 8) (home : List (BitVec 16)) (mark : Datum)
    (s : State) (hs : s.Sound F) : State.Sound F (ringCreateCmd bad o tag ring polder members own home mark s) := by
  unfold ringCreateCmd
  try dsimp only
  repeat' (first
      | with_reducible assumption | (with_reducible intro _) | with_reducible apply activateRing_sound
      | with_reducible apply countLate_sound | with_reducible apply createRing_sound
      | with_reducible apply enqueueMark_sound | with_reducible apply reply_sound
      | with_reducible apply runCmd_sound | (with_reducible apply id_sound)
      | (with_reducible refine ite_sound ?_ ?_) | split)

theorem execRingCreate_sound {F : Kept} (o : Origin) (tag : BitVec 32) (ring : BitVec 16) (polder : PolderId)
    (members : List InstId) (own : BitVec 8) (home : List (BitVec 16)) (mark : Datum) (s : State) (hs : s.Sound F) :
    SoundOut F (execRingCreate o tag ring polder members own home mark s) := by
  unfold execRingCreate
  try dsimp only
  repeat' (first
      | with_reducible exact soundOut_fault | (with_reducible apply soundOut_next)
      | (with_reducible refine soundOut_ite ?_ ?_) | with_reducible assumption | (with_reducible intro _)
      | with_reducible apply ringCreateCmd_sound | (dsimp only))

theorem ringMemberDeadCmd_sound {F : Kept} (bad : Bool) (o : Origin) (tag : BitVec 32) (ring : BitVec 16)
    (inst : BitVec 16) (s : State) (hs : s.Sound F) : State.Sound F (ringMemberDeadCmd bad o tag ring inst s) := by
  unfold ringMemberDeadCmd
  try dsimp only
  repeat' (first
      | with_reducible assumption | (with_reducible intro _) | with_reducible apply declareDead_sound
      | with_reducible apply reply_sound | with_reducible apply resume_sound | with_reducible apply runCmd_sound
      | split | (with_reducible refine sound_upd ?_ rfl rfl rfl rfl rfl rfl rfl rfl))

theorem execRingMemberDead_sound {F : Kept} (o : Origin) (tag : BitVec 32) (ring : BitVec 16) (inst : BitVec 16)
    (s : State) (hs : s.Sound F) : SoundOut F (execRingMemberDead o tag ring inst s) := by
  unfold execRingMemberDead
  try dsimp only
  repeat' (first
      | with_reducible exact soundOut_fault | (with_reducible apply soundOut_next)
      | (with_reducible refine soundOut_ite ?_ ?_) | with_reducible assumption | (with_reducible intro _)
      | with_reducible apply ringMemberDeadCmd_sound | (dsimp only))

theorem beginRingDestroy_sound {F : Kept} (ring : BitVec 12) (o : Origin) (tag : BitVec 32) (s : State)
    (hs : s.Sound F) : State.Sound F (beginRingDestroy ring o tag s) := by
  unfold beginRingDestroy
  try dsimp only
  repeat' (first
      | with_reducible assumption | (with_reducible intro _) | with_reducible apply destroyStep_sound
      | with_reducible apply finish_sound | with_reducible apply modRingOf_sound
      | (with_reducible refine ite_sound ?_ ?_) | split
      | (with_reducible refine sound_upd ?_ rfl rfl rfl rfl rfl rfl rfl rfl))

theorem ringDestroyCmd_sound {F : Kept} (bad : Bool) (o : Origin) (tag : BitVec 32) (ring : BitVec 16)
    (mark : Datum) (s : State) (hs : s.Sound F) : State.Sound F (ringDestroyCmd bad o tag ring mark s) := by
  unfold ringDestroyCmd
  try dsimp only
  repeat' (first
      | with_reducible assumption | (with_reducible intro _) | with_reducible apply beginRingDestroy_sound
      | with_reducible apply countLate_sound | with_reducible apply enqueueMark_sound
      | with_reducible apply pend_sound | with_reducible apply resume_sound | with_reducible apply runCmd_sound
      | (with_reducible refine ite_sound ?_ ?_) | split
      | (with_reducible refine sound_upd ?_ rfl rfl rfl rfl rfl rfl rfl rfl))

theorem execRingDestroy_sound {F : Kept} (o : Origin) (tag : BitVec 32) (ring : BitVec 16) (mark : Datum)
    (s : State) (hs : s.Sound F) : SoundOut F (execRingDestroy o tag ring mark s) := by
  unfold execRingDestroy
  try dsimp only
  repeat' (first
      | with_reducible exact soundOut_fault | (with_reducible apply soundOut_next)
      | (with_reducible refine soundOut_ite ?_ ?_) | with_reducible assumption | (with_reducible intro _)
      | with_reducible apply ringDestroyCmd_sound | (dsimp only))

end Sys2Proof.Machine
end

