-- ==== Sys2Proof/Laws/SoundTeardown.lean ====
section
/-! SUPPORT. What the operations of Machine/Teardown.lean keep: memories in canonical form, registers in range, blown
fuses and bounded fault rings (State.Sound). -/

namespace Sys2Proof.Machine

theorem dropUnreleased_sound {F : Kept} (p : PolderId) (s : State) (hs : s.Sound F) : State.Sound F
    (dropUnreleased p s) := by
  unfold dropUnreleased
  try dsimp only
  repeat' (first
      | with_reducible assumption | (with_reducible intro _) | with_reducible apply modPolderCounters_sound
      | with_reducible apply sendNotice_sound | (with_reducible apply foldl_sound)
      | (with_reducible refine sound_upd ?_ rfl rfl rfl rfl rfl rfl rfl rfl) | (dsimp only))

theorem dropHolds_sound {F : Kept} (p : PolderId) (s : State) (hs : s.Sound F) : State.Sound F (dropHolds p s) := by
  unfold dropHolds
  try dsimp only
  repeat' (first
      | with_reducible assumption | (with_reducible intro _) | with_reducible apply sendNotice_sound
      | (with_reducible apply foldl_sound) | (with_reducible refine sound_upd ?_ rfl rfl rfl rfl rfl rfl rfl rfl)
      | (dsimp only))

theorem endRings_sound {F : Kept} (p : PolderId) (s : State) (hs : s.Sound F) : State.Sound F (endRings p s) := by
  unfold endRings
  try dsimp only
  repeat' (first
      | with_reducible assumption | (with_reducible intro _) | with_reducible apply emit_sound
      | with_reducible apply finishAll_sound | with_reducible apply modRings_sound
      | (with_reducible apply foldl_sound) | (with_reducible refine ite_sound ?_ ?_) | split
      | (with_reducible refine sound_upd ?_ rfl rfl rfl rfl rfl rfl rfl rfl) | (dsimp only))

theorem endMarks_sound {F : Kept} (p : PolderId) (s : State) (hs : s.Sound F) : State.Sound F (endMarks p s) := by
  unfold endMarks
  try dsimp only
  repeat' (first
      | with_reducible assumption | (with_reducible intro _) | with_reducible apply dropMarks_sound
      | with_reducible apply endHold_sound | with_reducible apply finish_sound | (with_reducible apply foldl_sound)
      | split | (with_reducible refine sound_upd ?_ rfl rfl rfl rfl rfl rfl rfl rfl) | (dsimp only))

theorem revokeExtents_sound {F : Kept} (p : PolderId) (s : State) (hs : s.Sound F) : State.Sound F
    (revokeExtents p s) := by
  unfold revokeExtents
  try dsimp only
  repeat' (first
      | with_reducible assumption | (with_reducible intro _) | with_reducible apply beginRevoke_sound
      | with_reducible apply finishAll_sound | with_reducible apply modExtent_sound
      | (with_reducible apply foldl_sound) | split
      | (with_reducible refine sound_upd ?_ rfl rfl rfl rfl rfl rfl rfl rfl) | (dsimp only))

theorem squashPolder_sound {F : Kept} (p : PolderId) (s : State) (hs : s.Sound F) : State.Sound F
    (squashPolder p s) := by
  unfold squashPolder
  try dsimp only
  repeat' (first
      | with_reducible assumption | (with_reducible intro _) | with_reducible apply abandonJobs_sound
      | with_reducible apply beginDestroy_sound | with_reducible apply dropHolds_sound
      | with_reducible apply dropPieces_sound | with_reducible apply dropUnreleased_sound
      | with_reducible apply endBarriers_sound | with_reducible apply endColl_sound
      | with_reducible apply endExport_sound | with_reducible apply endImport_sound
      | with_reducible apply endMarks_sound | with_reducible apply endRings_sound
      | with_reducible apply endStackAccesses_sound | with_reducible apply finishAll_sound
      | with_reducible apply modColl_sound | with_reducible apply modObj_sound
      | with_reducible apply revokeExtents_sound | with_reducible apply setSlot_sound
      | with_reducible apply zeroizeSlot_sound | (with_reducible apply foldl_sound)
      | (with_reducible refine ite_sound ?_ ?_) | split
      | (with_reducible refine sound_upd ?_ rfl rfl rfl rfl rfl rfl rfl rfl) | (dsimp only))

theorem beginTeardown_sound {F : Kept} (p : PolderId) (forced : Bool) (waiters : List (Origin × BitVec 32))
    (s : State) (hs : s.Sound F) : State.Sound F (beginTeardown p forced waiters s) := by
  unfold beginTeardown
  try dsimp only
  repeat' (first
      | with_reducible assumption | (with_reducible intro _) | with_reducible apply modPolder_sound
      | with_reducible apply resume_sound | with_reducible apply squashPolder_sound | split
      | (with_reducible refine sound_upd ?_ rfl rfl rfl rfl rfl rfl rfl rfl))

theorem squashRequests_sound {F : Kept} (p : PolderId) (s : State) (hs : s.Sound F) : State.Sound F
    (squashRequests p s) := by
  unfold squashRequests
  try dsimp only
  repeat' (first
      | with_reducible assumption | (with_reducible intro _) | with_reducible apply sendCompletion_sound
      | (with_reducible apply foldl_sound) | (with_reducible refine sound_upd ?_ rfl rfl rfl rfl rfl rfl rfl rfl)
      | (dsimp only))

theorem squashRest_sound {F : Kept} (p : PolderId) (s : State) (hs : s.Sound F) : State.Sound F (squashRest p s) := by
  unfold squashRest
  try dsimp only
  repeat' (first
      | with_reducible assumption | (with_reducible intro _) | with_reducible apply endDescriptor_sound
      | with_reducible apply finishAll_sound | with_reducible apply modExtent_sound
      | with_reducible apply reclaimLocation_sound | with_reducible apply squashRequests_sound
      | (with_reducible apply foldl_sound) | split
      | (with_reducible refine sound_upd ?_ rfl rfl rfl rfl rfl rfl rfl rfl) | (dsimp only))

theorem dropStreams_sound {F : Kept} (p : PolderId) (s : State) (hs : s.Sound F) : State.Sound F
    (dropStreams p s) := by
  unfold dropStreams
  try dsimp only
  repeat' (first
      | with_reducible assumption | (with_reducible intro _) | with_reducible apply dropUnreleased_sound
      | (with_reducible refine sound_upd ?_ rfl rfl rfl rfl rfl rfl rfl rfl))

theorem dropRecords_sound {F : Kept} (p : PolderId) (s : State) (hs : s.Sound F) : State.Sound F
    (dropRecords p s) := by
  unfold dropRecords
  try dsimp only
  repeat' (first
      | with_reducible assumption | (with_reducible intro _)
      | (with_reducible refine sound_upd ?_ rfl rfl rfl rfl rfl rfl rfl rfl))

theorem dropPlots_sound {F : Kept} (p : PolderId) (slot : BitVec 12) (s : State) (hs : s.Sound F) : State.Sound F
    (dropPlots p slot s) := by
  unfold dropPlots
  try dsimp only
  repeat' (first
      | with_reducible assumption | (with_reducible intro _) | with_reducible apply dropPlot_sound
      | with_reducible apply finishAll_sound | with_reducible apply setPlot_sound
      | (with_reducible apply foldl_sound) | (with_reducible refine sound_upd ?_ rfl rfl rfl rfl rfl rfl rfl rfl)
      | (dsimp only))

theorem dropRegions_sound {F : Kept} (p : PolderId) (s : State) (hs : s.Sound F) : State.Sound F
    (dropRegions p s) := by
  unfold dropRegions
  try dsimp only
  repeat' (first
      | with_reducible assumption | (with_reducible intro _) | with_reducible apply finishAll_sound
      | with_reducible apply removeRegion_sound | (with_reducible apply foldl_sound)
      | (with_reducible refine ite_sound ?_ ?_) | split | (dsimp only))

theorem dropMemobjs_sound {F : Kept} (p : PolderId) (s : State) (hs : s.Sound F) : State.Sound F
    (dropMemobjs p s) := by
  unfold dropMemobjs
  try dsimp only
  repeat' (first
      | with_reducible assumption | (with_reducible intro _) | with_reducible apply finishAll_sound
      | with_reducible apply modObj_sound | (with_reducible apply foldl_sound)
      | (with_reducible refine sound_upd ?_ rfl rfl rfl rfl rfl rfl rfl rfl) | (dsimp only))

theorem dropExtents_sound {F : Kept} (p : PolderId) (s : State) (hs : s.Sound F) : State.Sound F
    (dropExtents p s) := by
  unfold dropExtents
  try dsimp only
  repeat' (first
      | with_reducible assumption | (with_reducible intro _) | with_reducible apply finishAll_sound
      | with_reducible apply modExtent_sound | with_reducible apply reclaimLocation_sound
      | (with_reducible apply foldl_sound) | (with_reducible refine sound_upd ?_ rfl rfl rfl rfl rfl rfl rfl rfl)
      | (dsimp only))

theorem dropGroups_sound {F : Kept} (p : PolderId) (s : State) (hs : s.Sound F) : State.Sound F (dropGroups p s) := by
  unfold dropGroups
  try dsimp only
  repeat' (first
      | with_reducible assumption | (with_reducible intro _) | with_reducible apply dropRing_sound
      | with_reducible apply finishAll_sound | with_reducible apply modBars_sound
      | with_reducible apply modColl_sound | with_reducible apply modRings_sound
      | (with_reducible apply foldl_sound) | split
      | (with_reducible refine sound_upd ?_ rfl rfl rfl rfl rfl rfl rfl rfl) | (dsimp only))

theorem dropKeys_sound {F : Kept} (q : Polder) (s : State) (hs : s.Sound F) : State.Sound F (dropKeys q s) := by
  unfold dropKeys
  try dsimp only
  repeat' (first
      | with_reducible assumption | (with_reducible intro _) | with_reducible apply invalidateHandle_sound
      | with_reducible apply retryLoads_sound | with_reducible apply zeroizeSlot_sound | split
      | (with_reducible refine sound_upd ?_ rfl rfl rfl rfl rfl rfl rfl rfl))

theorem removePolderState_sound {F : Kept} (q : Polder) (s : State) (hs : s.Sound F) : State.Sound F
    (removePolderState q s) := by
  unfold removePolderState
  try dsimp only
  repeat' (first
      | with_reducible assumption | (with_reducible intro _) | with_reducible apply closeEntry_sound
      | with_reducible apply dropExtents_sound | with_reducible apply dropGroups_sound
      | with_reducible apply dropKeys_sound | with_reducible apply dropMemobjs_sound
      | with_reducible apply dropPlots_sound | with_reducible apply dropRecords_sound
      | with_reducible apply dropRegions_sound | with_reducible apply dropStreams_sound
      | with_reducible apply freeContext_sound | with_reducible apply modPolder_sound
      | (with_reducible apply foldl_sound) | split
      | (with_reducible refine sound_upd ?_ rfl rfl rfl rfl rfl rfl rfl rfl) | (dsimp only))

theorem drainPolder_sound {F : Kept} (q : Polder) (t : Teardown) (s : State) (hs : s.Sound F) : State.Sound F
    (drainPolder q t s) := by
  unfold drainPolder
  try dsimp only
  repeat' (first
      | with_reducible assumption | (with_reducible intro _) | with_reducible apply modPolder_sound
      | with_reducible apply removePolderState_sound | with_reducible apply squashRest_sound
      | with_reducible apply writeFault_sound | (with_reducible refine ite_sound ?_ ?_) | split
      | (with_reducible refine sound_upd ?_ rfl rfl rfl rfl rfl rfl rfl rfl))

theorem execTeardownDrained_sound {F : Kept} (polder : PolderId) (s : State) (hs : s.Sound F) : SoundOut F
    (execTeardownDrained polder s) := by
  unfold execTeardownDrained
  try dsimp only
  repeat' (first
      | with_reducible exact soundOut_fault | (with_reducible apply soundOut_next)
      | (with_reducible refine soundOut_ite ?_ ?_) | with_reducible assumption | (with_reducible intro _)
      | with_reducible apply drainPolder_sound | (with_reducible refine ite_sound ?_ ?_) | split
      | (with_reducible refine sound_upd ?_ rfl rfl rfl rfl rfl rfl rfl rfl) | (dsimp only))

theorem completeTeardown_sound {F : Kept} (q : Polder) (t : Teardown) (s : State) (hs : s.Sound F) : State.Sound F
    (completeTeardown q t s) := by
  unfold completeTeardown
  try dsimp only
  repeat' (first
      | with_reducible assumption | (with_reducible intro _) | with_reducible apply dropUnreleased_sound
      | with_reducible apply finishAll_sound | with_reducible apply resume_sound
      | (with_reducible refine sound_upd ?_ rfl rfl rfl rfl rfl rfl rfl rfl))

theorem execTeardownComplete_sound {F : Kept} (polder : PolderId) (s : State) (hs : s.Sound F) : SoundOut F
    (execTeardownComplete polder s) := by
  unfold execTeardownComplete
  try dsimp only
  repeat' (first
      | with_reducible exact soundOut_fault | (with_reducible apply soundOut_next)
      | (with_reducible refine soundOut_ite ?_ ?_) | with_reducible assumption | (with_reducible intro _)
      | with_reducible apply completeTeardown_sound | (with_reducible refine ite_sound ?_ ?_) | split
      | (with_reducible refine sound_upd ?_ rfl rfl rfl rfl rfl rfl rfl rfl) | (dsimp only))

theorem polderTeardownCmd_sound {F : Kept} (bad : Bool) (o : Origin) (tag : BitVec 32) (polder : PolderId)
    (s : State) (hs : s.Sound F) : State.Sound F (polderTeardownCmd bad o tag polder s) := by
  unfold polderTeardownCmd
  try dsimp only
  repeat' (first
      | with_reducible assumption | (with_reducible intro _) | with_reducible apply beginTeardown_sound
      | with_reducible apply pend_sound | with_reducible apply runCmd_sound)

theorem execPolderTeardown_sound {F : Kept} (o : Origin) (tag : BitVec 32) (polder : PolderId) (s : State)
    (hs : s.Sound F) : SoundOut F (execPolderTeardown o tag polder s) := by
  unfold execPolderTeardown
  try dsimp only
  repeat' (first
      | with_reducible exact soundOut_fault | (with_reducible apply soundOut_next)
      | (with_reducible refine soundOut_ite ?_ ?_) | with_reducible assumption | (with_reducible intro _)
      | with_reducible apply polderTeardownCmd_sound | (dsimp only))

theorem resetPolderCmd_sound {F : Kept} (bad : Bool) (o : Origin) (tag : BitVec 32) (polder : PolderId) (s : State)
    (hs : s.Sound F) : State.Sound F (resetPolderCmd bad o tag polder s) := by
  unfold resetPolderCmd
  try dsimp only
  repeat' (first
      | with_reducible assumption | (with_reducible intro _) | with_reducible apply beginTeardown_sound
      | with_reducible apply pend_sound | with_reducible apply runCmd_sound)

theorem execResetPolder_sound {F : Kept} (o : Origin) (tag : BitVec 32) (polder : PolderId) (s : State)
    (hs : s.Sound F) : SoundOut F (execResetPolder o tag polder s) := by
  unfold execResetPolder
  try dsimp only
  repeat' (first
      | with_reducible exact soundOut_fault | (with_reducible apply soundOut_next)
      | (with_reducible refine soundOut_ite ?_ ?_) | with_reducible assumption | (with_reducible intro _)
      | with_reducible apply resetPolderCmd_sound | (dsimp only))

theorem leaveService_sound {F : Kept} (s : State) (hs : s.Sound F) : State.Sound F (leaveService s) := by
  unfold leaveService
  try dsimp only
  repeat' (first
      | with_reducible assumption | (with_reducible intro _) | with_reducible apply beginTeardown_sound
      | with_reducible apply writeFault_sound | (with_reducible apply foldl_sound)
      | (with_reducible refine sound_upd ?_ rfl rfl rfl rfl rfl rfl rfl rfl) | (dsimp only))

theorem mirrorBoot_sound {F : Kept} (s : State) (hs : s.Sound F) : State.Sound F (mirrorBoot s) := by
  unfold mirrorBoot
  try dsimp only
  repeat' (first
      | with_reducible assumption | (with_reducible intro _) | with_reducible apply postEvent_sound | split
      | (with_reducible refine sound_upd ?_ rfl rfl rfl rfl rfl rfl rfl rfl))

theorem execReady_sound {F : Kept} (s : State) (hs : s.Sound F) : SoundOut F (execReady s) := by
  unfold execReady
  try dsimp only
  repeat' (first
      | with_reducible exact soundOut_fault | (with_reducible apply soundOut_next)
      | (with_reducible refine soundOut_ite ?_ ?_) | with_reducible assumption | (with_reducible intro _)
      | with_reducible apply announceBoot_sound | with_reducible apply enterStage_sound
      | with_reducible apply leaveService_sound | with_reducible apply mirrorBoot_sound
      | with_reducible apply modBoot_sound | (with_reducible refine ite_sound ?_ ?_) | split
      | (with_reducible refine sound_upd ?_ rfl rfl rfl rfl rfl rfl rfl rfl) | (dsimp only))

end Sys2Proof.Machine
end

