-- ==== Sys2Proof/Laws/SoundCharts.lean ====
section
/-! SUPPORT. What the operations of Machine/Charts.lean keep: memories in canonical form, registers in range, blown
fuses and bounded fault rings (State.Sound). -/

namespace Sys2Proof.Machine

theorem modCharts_sound {F : Kept} (f : Charts → Charts) (s : State) (hs : s.Sound F) : State.Sound F
    (modCharts f s) := by
  unfold modCharts
  try dsimp only
  repeat' (first | with_reducible assumption | (with_reducible refine sound_upd ?_ rfl rfl rfl rfl rfl rfl rfl rfl))

theorem needKeys_sound {F : Kept} (p : PolderId) (a0 : List (BitVec 8)) (a1 : State) (hs : a1.Sound F) :
    State.Sound F (needKeys p a0 a1).2 := by
  induction a0 generalizing a1 with
  | nil => 
    unfold needKeys
    try dsimp only
    repeat' (first
        | with_reducible assumption | with_reducible apply needKey_sound
        | (with_reducible refine ite_pair_sound ?_ ?_) | (with_reducible refine ite_trip_sound ?_ ?_) | split
        | (refine sound_of_pair (by with_reducible assumption) ?_)
        | (refine sound_of_trip (by with_reducible assumption) ?_)
        | (with_reducible refine sound_upd ?_ rfl rfl rfl rfl rfl rfl rfl rfl) | (dsimp only))
  | cons x l ih => 
    unfold needKeys
    try dsimp only
    repeat' (first
        | with_reducible assumption | with_reducible apply needKey_sound | with_reducible apply ih
        | (with_reducible refine ite_pair_sound ?_ ?_) | (with_reducible refine ite_trip_sound ?_ ?_) | split
        | (refine sound_of_pair (by with_reducible assumption) ?_)
        | (refine sound_of_trip (by with_reducible assumption) ?_)
        | (with_reducible refine sound_upd ?_ rfl rfl rfl rfl rfl rfl rfl rfl) | (dsimp only))

theorem resumePolder_sound {F : Kept} (p : PolderId) (s : State) (hs : s.Sound F) : State.Sound F
    (resumePolder p s) := by
  unfold resumePolder
  try dsimp only
  repeat' (first | with_reducible assumption | with_reducible apply resume_sound | with_reducible apply thaw_sound)

theorem resumeChart_sound {F : Kept} (p : PolderId) (chart : BitVec 32) (s : State) (hs : s.Sound F) : State.Sound F
    (resumeChart p chart s) := by
  unfold resumeChart
  try dsimp only
  repeat' (first
      | with_reducible assumption | with_reducible apply resumePolder_sound
      | (with_reducible refine ite_sound ?_ ?_) | split
      | (with_reducible refine sound_upd ?_ rfl rfl rfl rfl rfl rfl rfl rfl))

theorem deedRewraps_sound {F : Kept} (p : PolderId) (s : State) (hs : s.Sound F) : State.Sound F
    (deedRewraps p s) := by
  unfold deedRewraps
  try dsimp only
  repeat' (first
      | with_reducible assumption | (with_reducible intro _) | with_reducible apply inlineJobs_sound
      | (with_reducible refine ite_pair_sound ?_ ?_) | (with_reducible refine ite_trip_sound ?_ ?_) | (dsimp only))

theorem chartExportCmd_sound {F : Kept} (bad : Bool) (o : Origin) (tag : BitVec 32) (polder : PolderId)
    (chart : BitVec 32) (step : BitVec 64) (addr : BitVec 64) (len : BitVec 64) (s : State) (hs : s.Sound F) :
    State.Sound F (chartExportCmd bad o tag polder chart step addr len s) := by
  unfold chartExportCmd
  try dsimp only
  repeat' (first
      | with_reducible assumption | (with_reducible intro _) | with_reducible apply modCharts_sound
      | with_reducible apply pend_sound | with_reducible apply poolTake_sound | with_reducible apply runCmd_sound
      | split | (with_reducible refine sound_upd ?_ rfl rfl rfl rfl rfl rfl rfl rfl))

theorem execChartExport_sound {F : Kept} (o : Origin) (tag : BitVec 32) (polder : PolderId) (chart : BitVec 32)
    (step : BitVec 64) (addr : BitVec 64) (len : BitVec 64) (s : State) (hs : s.Sound F) : SoundOut F
    (execChartExport o tag polder chart step addr len s) := by
  unfold execChartExport
  try dsimp only
  repeat' (first
      | with_reducible exact soundOut_fault | (with_reducible apply soundOut_next)
      | (with_reducible refine soundOut_ite ?_ ?_) | with_reducible assumption | (with_reducible intro _)
      | with_reducible apply chartExportCmd_sound | (dsimp only))

theorem takeFreeze_sound {F : Kept} (q : Polder) (e : Export) (s : State) (hs : s.Sound F) : State.Sound F
    (takeFreeze q e s) := by
  unfold takeFreeze
  try dsimp only
  repeat' (first
      | with_reducible assumption | (with_reducible intro _) | with_reducible apply drbgDraw_sound
      | with_reducible apply endExport_sound | with_reducible apply modCharts_sound
      | with_reducible apply modPolder_sound | with_reducible apply resume_sound
      | (with_reducible refine ite_sound ?_ ?_) | split
      | (with_reducible refine sound_upd ?_ rfl rfl rfl rfl rfl rfl rfl rfl))

theorem execChartFreeze_sound {F : Kept} (polder : PolderId) (s : State) (hs : s.Sound F) : SoundOut F
    (execChartFreeze polder s) := by
  unfold execChartFreeze
  try dsimp only
  repeat' (first
      | with_reducible exact soundOut_fault | (with_reducible apply soundOut_next)
      | (with_reducible refine soundOut_ite ?_ ?_) | with_reducible assumption | (with_reducible intro _)
      | with_reducible apply endExport_sound | with_reducible apply resume_sound
      | with_reducible apply takeFreeze_sound | with_reducible apply withDomain_sound
      | (with_reducible refine ite_sound ?_ ?_) | split
      | (with_reducible refine sound_upd ?_ rfl rfl rfl rfl rfl rfl rfl rfl) | (dsimp only))

theorem execChartExportTimeout_sound {F : Kept} (polder : PolderId) (s : State) (hs : s.Sound F) : SoundOut F
    (execChartExportTimeout polder s) := by
  unfold execChartExportTimeout
  try dsimp only
  repeat' (first
      | with_reducible exact soundOut_fault | (with_reducible apply soundOut_next)
      | (with_reducible refine soundOut_ite ?_ ?_) | with_reducible assumption | (with_reducible intro _)
      | with_reducible apply endExport_sound | with_reducible apply resume_sound
      | (with_reducible refine ite_sound ?_ ?_) | split
      | (with_reducible refine sound_upd ?_ rfl rfl rfl rfl rfl rfl rfl rfl) | (dsimp only))

theorem writeChart_sound {F : Kept} (polder : PolderId) (q : Polder) (e : Export) (f : Frozen) (s : State)
    (hs : s.Sound F) : State.Sound F (writeChart polder q e f s) := by
  unfold writeChart
  try dsimp only
  repeat' (first
      | with_reducible assumption | (with_reducible intro _) | with_reducible apply deedRewraps_sound
      | with_reducible apply endExport_sound | with_reducible apply hostWrite_sound
      | with_reducible apply modCharts_sound | with_reducible apply modPolder_sound
      | with_reducible apply needKeys_sound | with_reducible apply resume_sound
      | with_reducible apply thawChart_sound | (with_reducible refine ite_pair_sound ?_ ?_)
      | (with_reducible refine ite_trip_sound ?_ ?_) | split
      | (refine sound_of_pair (by with_reducible assumption) ?_)
      | (refine sound_of_trip (by with_reducible assumption) ?_)
      | (with_reducible refine sound_upd ?_ rfl rfl rfl rfl rfl rfl rfl rfl) | (dsimp only))

theorem execChartWritten_sound {F : Kept} (polder : PolderId) (s : State) (hs : s.Sound F) : SoundOut F
    (execChartWritten polder s) := by
  unfold execChartWritten
  try dsimp only
  repeat' (first
      | with_reducible exact soundOut_fault | (with_reducible apply soundOut_next)
      | (with_reducible refine soundOut_ite ?_ ?_) | with_reducible assumption | (with_reducible intro _)
      | with_reducible apply endExport_sound | with_reducible apply resume_sound
      | with_reducible apply thawChart_sound | with_reducible apply withDomain_sound
      | with_reducible apply writeChart_sound | (with_reducible refine ite_sound ?_ ?_) | split
      | (with_reducible refine sound_upd ?_ rfl rfl rfl rfl rfl rfl rfl rfl) | (dsimp only))

theorem importContext_sound {F : Kept} (m : Import) (x : ChartContext) (s : State) (hs : s.Sound F) : State.Sound F
    (importContext m x s) := by
  unfold importContext
  try dsimp only
  repeat' (first
      | with_reducible assumption | (with_reducible intro _) | with_reducible apply modObj_sound
      | with_reducible apply setSync_sound | (with_reducible apply foldl_sound) | (with_reducible apply id_sound)
      | (with_reducible refine sound_upd ?_ rfl rfl rfl rfl rfl rfl rfl rfl) | (dsimp only))

theorem restorePlot_sound {F : Kept} (memobj : BitVec 13) (q : Polder) (n : BitVec 16) (r : Bytes)
    (contents : Bytes) (s : State) (hs : s.Sound F) : State.Sound F (restorePlot memobj q n r contents s) := by
  unfold restorePlot
  try dsimp only
  repeat' (first
      | with_reducible assumption | (with_reducible intro _) | with_reducible apply modMemobj_sound
      | with_reducible apply setPlot_sound | (with_reducible refine sound_upd ?_ rfl rfl rfl rfl rfl rfl rfl rfl)
      | (with_reducible refine stackWriteN_upd ?_ rfl rfl rfl rfl rfl rfl rfl rfl)
      | (with_reducible refine devicesWriteN_upd ?_ rfl rfl rfl rfl rfl rfl rfl rfl))

theorem restoreRegion_sound {F : Kept} (memobj : BitVec 13) (q : Polder) (plots : List (BitVec 16)) (r : Bytes)
    (s : State) (hs : s.Sound F) : State.Sound F (restoreRegion memobj q plots r s) := by
  unfold restoreRegion
  try dsimp only
  repeat' (first
      | with_reducible assumption | (with_reducible intro _) | with_reducible apply fillRtt_sound
      | with_reducible apply modMemobj_sound | (with_reducible refine ite_sound ?_ ?_) | split
      | (with_reducible refine sound_upd ?_ rfl rfl rfl rfl rfl rfl rfl rfl))

theorem restoreStream_sound {F : Kept} (p : PolderId) (r : Bytes) (s : State) (hs : s.Sound F) : State.Sound F
    (restoreStream p r s) := by
  unfold restoreStream
  try dsimp only
  repeat' (first
      | with_reducible assumption | (with_reducible intro _)
      | (with_reducible refine sound_upd ?_ rfl rfl rfl rfl rfl rfl rfl rfl))

theorem restoreSpace_sound {F : Kept} (p : PolderId) (r : Bytes) (s : State) (hs : s.Sound F) : State.Sound F
    (restoreSpace p r s) := by
  unfold restoreSpace
  try dsimp only
  repeat' (first | with_reducible assumption | (with_reducible refine sound_upd ?_ rfl rfl rfl rfl rfl rfl rfl rfl))

theorem restoreChart_sound {F : Kept} (q : Polder) (m : Import) (c : Chart) (s : State) (hs : s.Sound F) :
    State.Sound F (restoreChart q m c s) := by
  unfold restoreChart
  try dsimp only
  repeat' (first
      | with_reducible assumption | (with_reducible intro _) | with_reducible apply importContext_sound
      | with_reducible apply modPolder_sound | with_reducible apply restorePlot_sound
      | with_reducible apply restoreRegion_sound | with_reducible apply restoreSpace_sound
      | with_reducible apply restoreStream_sound | (with_reducible apply foldl_sound)
      | (with_reducible refine ite_sound ?_ ?_) | split
      | (with_reducible refine sound_upd ?_ rfl rfl rfl rfl rfl rfl rfl rfl) | (dsimp only))

theorem chartImportCmd_sound {F : Kept} (bad : Bool) (o : Origin) (tag : BitVec 32) (polder : PolderId)
    (memobj : BitVec 16) (chart : BitVec 32) (addr : BitVec 64) (len : BitVec 64) (s : State) (hs : s.Sound F) :
    State.Sound F (chartImportCmd bad o tag polder memobj chart addr len s) := by
  unfold chartImportCmd
  try dsimp only
  repeat' (first
      | with_reducible assumption | (with_reducible intro _) | with_reducible apply modCharts_sound
      | with_reducible apply pend_sound | with_reducible apply poolTake_sound | with_reducible apply runCmd_sound
      | split | (with_reducible refine sound_upd ?_ rfl rfl rfl rfl rfl rfl rfl rfl))

theorem execChartImport_sound {F : Kept} (o : Origin) (tag : BitVec 32) (polder : PolderId) (memobj : BitVec 16)
    (chart : BitVec 32) (addr : BitVec 64) (len : BitVec 64) (s : State) (hs : s.Sound F) : SoundOut F
    (execChartImport o tag polder memobj chart addr len s) := by
  unfold execChartImport
  try dsimp only
  repeat' (first
      | with_reducible exact soundOut_fault | (with_reducible apply soundOut_next)
      | (with_reducible refine soundOut_ite ?_ ?_) | with_reducible assumption | (with_reducible intro _)
      | with_reducible apply chartImportCmd_sound | (dsimp only))

theorem takeChart_sound {F : Kept} (polder : PolderId) (chart : Bytes) (q : Polder) (m : Import) (s : State)
    (hs : s.Sound F) : State.Sound F (takeChart polder chart q m s) := by
  unfold takeChart
  try dsimp only
  repeat' (first
      | with_reducible assumption | (with_reducible intro _) | with_reducible apply deedRewraps_sound
      | with_reducible apply endImport_sound | with_reducible apply modCharts_sound
      | with_reducible apply needKeys_sound | with_reducible apply restoreChart_sound
      | with_reducible apply resume_sound | (with_reducible refine ite_pair_sound ?_ ?_)
      | (with_reducible refine ite_trip_sound ?_ ?_) | split
      | (refine sound_of_pair (by with_reducible assumption) ?_)
      | (refine sound_of_trip (by with_reducible assumption) ?_)
      | (with_reducible refine sound_upd ?_ rfl rfl rfl rfl rfl rfl rfl rfl) | (dsimp only))

theorem execChartImportComplete_sound {F : Kept} (polder : PolderId) (chart : Bytes) (s : State) (hs : s.Sound F) :
    SoundOut F (execChartImportComplete polder chart s) := by
  unfold execChartImportComplete
  try dsimp only
  repeat' (first
      | with_reducible exact soundOut_fault | (with_reducible apply soundOut_next)
      | (with_reducible refine soundOut_ite ?_ ?_) | with_reducible assumption | (with_reducible intro _)
      | with_reducible apply takeChart_sound | with_reducible apply withDomain_sound
      | (with_reducible refine ite_sound ?_ ?_) | split
      | (with_reducible refine sound_upd ?_ rfl rfl rfl rfl rfl rfl rfl rfl) | (dsimp only))

theorem chartResumeCmd_sound {F : Kept} (bad : Bool) (o : Origin) (tag : BitVec 32) (polder : PolderId)
    (chart : BitVec 32) (mark : Datum) (s : State) (hs : s.Sound F) : State.Sound F
    (chartResumeCmd bad o tag polder chart mark s) := by
  unfold chartResumeCmd
  try dsimp only
  repeat' (first
      | with_reducible assumption | (with_reducible intro _) | with_reducible apply countLate_sound
      | with_reducible apply enqueueMark_sound | with_reducible apply refuse_sound
      | with_reducible apply reply_sound | with_reducible apply resumeChart_sound
      | with_reducible apply runCmd_sound | split
      | (with_reducible refine sound_upd ?_ rfl rfl rfl rfl rfl rfl rfl rfl))

theorem execChartResume_sound {F : Kept} (o : Origin) (tag : BitVec 32) (polder : PolderId) (chart : BitVec 32)
    (mark : Datum) (s : State) (hs : s.Sound F) : SoundOut F (execChartResume o tag polder chart mark s) := by
  unfold execChartResume
  try dsimp only
  repeat' (first
      | with_reducible exact soundOut_fault | (with_reducible apply soundOut_next)
      | (with_reducible refine soundOut_ite ?_ ?_) | with_reducible assumption | (with_reducible intro _)
      | with_reducible apply chartResumeCmd_sound | (dsimp only))

theorem undoImport_sound {F : Kept} (q : Polder) (s : State) (hs : s.Sound F) : State.Sound F (undoImport q s) := by
  unfold undoImport
  try dsimp only
  repeat' (first
      | with_reducible assumption | (with_reducible intro _) | with_reducible apply beginDestroy_sound
      | with_reducible apply dropMarks_sound | with_reducible apply dropPlots_sound
      | with_reducible apply dropRecords_sound | with_reducible apply dropRegions_sound
      | with_reducible apply dropStreams_sound | with_reducible apply freeContext_sound
      | with_reducible apply modPolder_sound | (with_reducible apply foldl_sound) | split
      | (with_reducible refine sound_upd ?_ rfl rfl rfl rfl rfl rfl rfl rfl) | (dsimp only))

theorem chartDiscardCmd_sound {F : Kept} (bad : Bool) (o : Origin) (tag : BitVec 32) (polder : PolderId)
    (chart : BitVec 32) (s : State) (hs : s.Sound F) : State.Sound F
    (chartDiscardCmd bad o tag polder chart s) := by
  unfold chartDiscardCmd
  try dsimp only
  repeat' (first
      | with_reducible assumption | (with_reducible intro _) | with_reducible apply finish_sound
      | with_reducible apply pend_sound | with_reducible apply runCmd_sound | with_reducible apply undoImport_sound
      | (with_reducible refine ite_sound ?_ ?_) | split
      | (with_reducible refine sound_upd ?_ rfl rfl rfl rfl rfl rfl rfl rfl))

theorem execChartDiscard_sound {F : Kept} (o : Origin) (tag : BitVec 32) (polder : PolderId) (chart : BitVec 32)
    (s : State) (hs : s.Sound F) : SoundOut F (execChartDiscard o tag polder chart s) := by
  unfold execChartDiscard
  try dsimp only
  repeat' (first
      | with_reducible exact soundOut_fault | (with_reducible apply soundOut_next)
      | (with_reducible refine soundOut_ite ?_ ?_) | with_reducible assumption | (with_reducible intro _)
      | with_reducible apply chartDiscardCmd_sound | (dsimp only))

end Sys2Proof.Machine
end

