-- ==== Sys2Proof/Laws/SoundPolders.lean ====
section
/-! SUPPORT. What the operations of Machine/Polders.lean keep: memories in canonical form, registers in range, blown
fuses and bounded fault rings (State.Sound). -/

namespace Sys2Proof.Machine

theorem definePolder_sound {F : Kept} (o : Origin) (p : PolderId) (conf : Bool) (pmk : Key256) (s : State)
    (hs : s.Sound F) : State.Sound F (definePolder o p conf pmk s) := by
  unfold definePolder
  try dsimp only
  repeat' (first
      | with_reducible assumption | (with_reducible intro _) | with_reducible apply inlineJobs_sound
      | with_reducible apply openEntry_sound | with_reducible apply setPvt_sound
      | (with_reducible refine ite_sound ?_ ?_) | (with_reducible refine ite_pair_sound ?_ ?_)
      | (with_reducible refine ite_trip_sound ?_ ?_) | split
      | (with_reducible refine sound_upd ?_ rfl rfl rfl rfl rfl rfl rfl rfl) | (dsimp only))

theorem polderProvisionCmd_sound {F : Kept} (bad : Bool) (o : Origin) (tag : BitVec 32) (polder : PolderId)
    (confidential : BitVec 8) (pmk : Key256) (s : State) (hs : s.Sound F) : State.Sound F
    (polderProvisionCmd bad o tag polder confidential pmk s) := by
  unfold polderProvisionCmd
  try dsimp only
  repeat' (first
      | with_reducible assumption | (with_reducible intro _) | with_reducible apply definePolder_sound
      | with_reducible apply refuse_sound | with_reducible apply reply_sound | with_reducible apply runCmd_sound
      | (with_reducible refine ite_sound ?_ ?_) | split)

theorem execPolderProvision_sound {F : Kept} (o : Origin) (tag : BitVec 32) (polder : PolderId)
    (confidential : BitVec 8) (pmk : Key256) (s : State) (hs : s.Sound F) : SoundOut F
    (execPolderProvision o tag polder confidential pmk s) := by
  unfold execPolderProvision
  try dsimp only
  repeat' (first
      | with_reducible exact soundOut_fault | (with_reducible apply soundOut_next)
      | (with_reducible refine soundOut_ite ?_ ?_) | with_reducible assumption | (with_reducible intro _)
      | with_reducible apply polderProvisionCmd_sound | (dsimp only))

theorem setMembers_sound {F : Kept} (p : PolderId) (members : BitVec 8192) (s : State) (hs : s.Sound F) :
    State.Sound F (setMembers p members s) := by
  unfold setMembers
  try dsimp only
  repeat' (first
      | with_reducible assumption | (with_reducible intro _) | with_reducible apply endWaitingTx_sound
      | with_reducible apply modPolder_sound | with_reducible apply resume_sound
      | (with_reducible apply foldl_sound) | (with_reducible refine ite_sound ?_ ?_) | split
      | (with_reducible refine sound_upd ?_ rfl rfl rfl rfl rfl rfl rfl rfl) | (dsimp only))

theorem polderMembershipCmd_sound {F : Kept} (bad : Bool) (o : Origin) (tag : BitVec 32) (polder : PolderId)
    (mark : Datum) (members : BitVec 8192) (s : State) (hs : s.Sound F) : State.Sound F
    (polderMembershipCmd bad o tag polder mark members s) := by
  unfold polderMembershipCmd
  try dsimp only
  repeat' (first
      | with_reducible assumption | (with_reducible intro _) | with_reducible apply countLate_sound
      | with_reducible apply enqueueMark_sound | with_reducible apply reply_sound
      | with_reducible apply runCmd_sound | with_reducible apply setMembers_sound
      | (with_reducible refine ite_sound ?_ ?_) | split)

theorem execPolderMembership_sound {F : Kept} (o : Origin) (tag : BitVec 32) (polder : PolderId) (mark : Datum)
    (members : BitVec 8192) (s : State) (hs : s.Sound F) : SoundOut F
    (execPolderMembership o tag polder mark members s) := by
  unfold execPolderMembership
  try dsimp only
  repeat' (first
      | with_reducible exact soundOut_fault | (with_reducible apply soundOut_next)
      | (with_reducible refine soundOut_ite ?_ ?_) | with_reducible assumption | (with_reducible intro _)
      | with_reducible apply polderMembershipCmd_sound | (dsimp only))

theorem polderListCmd_sound {F : Kept} (bad : Bool) (o : Origin) (tag : BitVec 32) (first : PolderId) (s : State)
    (hs : s.Sound F) : State.Sound F (polderListCmd bad o tag first s) := by
  unfold polderListCmd
  try dsimp only
  repeat' (first
      | with_reducible assumption | (with_reducible intro _) | with_reducible apply reply_sound
      | with_reducible apply runCmd_sound)

theorem execPolderList_sound {F : Kept} (o : Origin) (tag : BitVec 32) (first : PolderId) (s : State)
    (hs : s.Sound F) : SoundOut F (execPolderList o tag first s) := by
  unfold execPolderList
  try dsimp only
  repeat' (first
      | with_reducible exact soundOut_fault | (with_reducible apply soundOut_next)
      | (with_reducible refine soundOut_ite ?_ ?_) | with_reducible assumption | (with_reducible intro _)
      | with_reducible apply polderListCmd_sound | (dsimp only))

theorem setPinned_sound {F : Kept} (p : PolderId) (b : Bool) (s : State) (hs : s.Sound F) : State.Sound F
    (setPinned p b s) := by
  unfold setPinned
  try dsimp only
  repeat' (first
      | with_reducible assumption | (with_reducible intro _) | with_reducible apply modPolder_sound
      | with_reducible apply writeSlot_sound | (with_reducible refine ite_sound ?_ ?_) | split
      | (with_reducible refine sound_upd ?_ rfl rfl rfl rfl rfl rfl rfl rfl))

theorem waitForLoad_sound {F : Kept} (p : PolderId) (o : Origin) (tag : BitVec 32) (s : State) (hs : s.Sound F) :
    State.Sound F (waitForLoad p o tag s) := by
  unfold waitForLoad
  try dsimp only
  repeat' (first
      | with_reducible assumption | (with_reducible intro _) | with_reducible apply beginLoad_sound
      | (with_reducible refine sound_upd ?_ rfl rfl rfl rfl rfl rfl rfl rfl))

theorem keySlotPinCmd_sound {F : Kept} (bad : Bool) (o : Origin) (tag : BitVec 32) (polder : PolderId) (s : State)
    (hs : s.Sound F) : State.Sound F (keySlotPinCmd bad o tag polder s) := by
  unfold keySlotPinCmd
  try dsimp only
  repeat' (first
      | with_reducible assumption | (with_reducible intro _) | with_reducible apply pend_sound
      | with_reducible apply reply_sound | with_reducible apply runCmd_sound | with_reducible apply setPinned_sound
      | with_reducible apply waitForLoad_sound | (with_reducible refine ite_sound ?_ ?_) | split
      | (with_reducible refine sound_upd ?_ rfl rfl rfl rfl rfl rfl rfl rfl))

theorem execKeySlotPin_sound {F : Kept} (o : Origin) (tag : BitVec 32) (polder : PolderId) (s : State)
    (hs : s.Sound F) : SoundOut F (execKeySlotPin o tag polder s) := by
  unfold execKeySlotPin
  try dsimp only
  repeat' (first
      | with_reducible exact soundOut_fault | (with_reducible apply soundOut_next)
      | (with_reducible refine soundOut_ite ?_ ?_) | with_reducible assumption | (with_reducible intro _)
      | with_reducible apply keySlotPinCmd_sound | (dsimp only))

theorem keySlotUnpinCmd_sound {F : Kept} (bad : Bool) (o : Origin) (tag : BitVec 32) (polder : PolderId) (s : State)
    (hs : s.Sound F) : State.Sound F (keySlotUnpinCmd bad o tag polder s) := by
  unfold keySlotUnpinCmd
  try dsimp only
  repeat' (first
      | with_reducible assumption | (with_reducible intro _) | with_reducible apply reply_sound
      | with_reducible apply resume_sound | with_reducible apply runCmd_sound | with_reducible apply setPinned_sound
      | split | (with_reducible refine sound_upd ?_ rfl rfl rfl rfl rfl rfl rfl rfl))

theorem execKeySlotUnpin_sound {F : Kept} (o : Origin) (tag : BitVec 32) (polder : PolderId) (s : State)
    (hs : s.Sound F) : SoundOut F (execKeySlotUnpin o tag polder s) := by
  unfold execKeySlotUnpin
  try dsimp only
  repeat' (first
      | with_reducible exact soundOut_fault | (with_reducible apply soundOut_next)
      | (with_reducible refine soundOut_ite ?_ ?_) | with_reducible assumption | (with_reducible intro _)
      | with_reducible apply keySlotUnpinCmd_sound | (dsimp only))

theorem keySlotStatusCmd_sound {F : Kept} (bad : Bool) (o : Origin) (tag : BitVec 32) (slot : BitVec 8) (s : State)
    (hs : s.Sound F) : State.Sound F (keySlotStatusCmd bad o tag slot s) := by
  unfold keySlotStatusCmd
  try dsimp only
  repeat' (first
      | with_reducible assumption | (with_reducible intro _) | with_reducible apply reply_sound
      | with_reducible apply runCmd_sound | (with_reducible refine ite_sound ?_ ?_) | split)

theorem execKeySlotStatus_sound {F : Kept} (o : Origin) (tag : BitVec 32) (slot : BitVec 8) (s : State)
    (hs : s.Sound F) : SoundOut F (execKeySlotStatus o tag slot s) := by
  unfold execKeySlotStatus
  try dsimp only
  repeat' (first
      | with_reducible exact soundOut_fault | (with_reducible apply soundOut_next)
      | (with_reducible refine soundOut_ite ?_ ?_) | with_reducible assumption | (with_reducible intro _)
      | with_reducible apply keySlotStatusCmd_sound | (dsimp only))

end Sys2Proof.Machine
end

