-- ==== Sys2Proof/Laws/SoundDescriptors.lean ====
section
/-! SUPPORT. What the operations of Machine/Descriptors.lean keep: memories in canonical form, registers in range, blown
fuses and bounded fault rings (State.Sound). -/

namespace Sys2Proof.Machine

theorem takeRemote_sound {F : Kept} (queue : BitVec 8) (d : Started) (s : State) (hs : s.Sound F) : State.Sound F
    (takeRemote queue d s) := by
  unfold takeRemote
  try dsimp only
  repeat' (first
      | with_reducible assumption | with_reducible apply beginDescriptor_sound | with_reducible apply submitOp_sound
      | (with_reducible refine sound_upd ?_ rfl rfl rfl rfl rfl rfl rfl rfl))

theorem execRemoteOp_sound {F : Kept} (queue : BitVec 8) (s : State) (hs : s.Sound F) : SoundOut F
    (execRemoteOp queue s) := by
  unfold execRemoteOp
  try dsimp only
  repeat' (first
      | with_reducible exact soundOut_fault | (with_reducible apply soundOut_next)
      | (with_reducible refine soundOut_ite ?_ ?_) | with_reducible assumption | (with_reducible intro _)
      | with_reducible apply takeRemote_sound | with_reducible apply withFau_sound
      | (with_reducible refine ite_sound ?_ ?_) | split
      | (with_reducible refine sound_upd ?_ rfl rfl rfl rfl rfl rfl rfl rfl) | (dsimp only))

theorem execFenceSignal_sound {F : Kept} (queue : BitVec 8) (s : State) (hs : s.Sound F) : SoundOut F
    (execFenceSignal queue s) := by
  unfold execFenceSignal
  try dsimp only
  repeat' (first
      | with_reducible exact soundOut_fault | (with_reducible apply soundOut_next)
      | (with_reducible refine soundOut_ite ?_ ?_) | with_reducible assumption | (with_reducible intro _)
      | with_reducible apply endDescriptor_sound | with_reducible apply raiseFence_sound
      | (with_reducible refine ite_sound ?_ ?_) | split
      | (with_reducible refine sound_upd ?_ rfl rfl rfl rfl rfl rfl rfl rfl) | (dsimp only))

theorem execFenceWait_sound {F : Kept} (queue : BitVec 8) (s : State) (hs : s.Sound F) : SoundOut F
    (execFenceWait queue s) := by
  unfold execFenceWait
  try dsimp only
  repeat' (first
      | with_reducible exact soundOut_fault | (with_reducible apply soundOut_next)
      | (with_reducible refine soundOut_ite ?_ ?_) | with_reducible assumption | (with_reducible intro _)
      | with_reducible apply beginDescriptor_sound | with_reducible apply endDescriptor_sound
      | with_reducible apply modFence_sound | (with_reducible refine ite_sound ?_ ?_) | split
      | (with_reducible refine sound_upd ?_ rfl rfl rfl rfl rfl rfl rfl rfl) | (dsimp only))

theorem copyRange_sound {F : Kept} (p : PolderId) (src : Nat) (dst : Nat) (len : Nat) (s : State) (hs : s.Sound F) :
    State.Sound F (copyRange p src dst len s) := by
  unfold copyRange
  try dsimp only
  repeat' (first
      | with_reducible assumption | with_reducible apply stackCount_sound | with_reducible apply stackWrite_sound)

theorem copyLeaves_sound {F : Kept} (c : CtxId) (p : PolderId) (addr : Nat) (len : Nat) (write : Bool) (s : State)
    (hs : s.Sound F) : SoundOpt F (copyLeaves c p addr len write s) := by
  unfold copyLeaves
  try dsimp only
  repeat' (first
      | with_reducible assumption | with_reducible apply localRefused_sound | (with_reducible exact soundOpt_none)
      | (with_reducible apply soundOpt_some) | (refine sound_of_opt (by with_reducible assumption) ?_)
      | (with_reducible refine ite_sound ?_ ?_) | split | (dsimp only))

theorem endCopy_sound {F : Kept} (queue : BitVec 8) (d : Started) (st : Status) (copied : Nat) (s : State)
    (hs : s.Sound F) : State.Sound F (endCopy queue d st copied s) := by
  unfold endCopy
  try dsimp only
  repeat' (first | with_reducible assumption | with_reducible apply endDescriptor_sound)

theorem unitCopied_sound {F : Kept} (queue : BitVec 8) (d : Started) (len : Nat) (n : Nat) (s : State)
    (hs : s.Sound F) : State.Sound F (unitCopied queue d len n s) := by
  unfold unitCopied
  try dsimp only
  repeat' (first
      | with_reducible assumption | (with_reducible intro _) | with_reducible apply endCopy_sound
      | with_reducible apply modQueue_sound | with_reducible apply profAdd_sound
      | (with_reducible refine ite_sound ?_ ?_) | split
      | (with_reducible refine sound_upd ?_ rfl rfl rfl rfl rfl rfl rfl rfl))

theorem performCopy_sound {F : Kept} (queue : BitVec 8) (d : Started) (c : Context) (src : Nat) (dst : Nat)
    (len : Nat) (s : State) (hs : s.Sound F) : State.Sound F (performCopy queue d c src dst len s) := by
  unfold performCopy
  try dsimp only
  repeat' (first
      | with_reducible assumption | (with_reducible intro _) | with_reducible apply copyLeaves_sound
      | with_reducible apply copyRange_sound | with_reducible apply endCopy_sound
      | with_reducible apply localCheck_sound | with_reducible apply unitCopied_sound
      | (refine sound_of_opt (by with_reducible assumption) ?_) | (with_reducible refine ite_pair_sound ?_ ?_)
      | (with_reducible refine ite_trip_sound ?_ ?_) | split
      | (refine sound_of_pair (by with_reducible assumption) ?_)
      | (refine sound_of_trip (by with_reducible assumption) ?_)
      | (with_reducible refine sound_upd ?_ rfl rfl rfl rfl rfl rfl rfl rfl) | (dsimp only))

theorem moveUnit_sound {F : Kept} (queue : BitVec 8) (d : Started) (c : Context) (s : State) (hs : s.Sound F) :
    State.Sound F (moveUnit queue d c s) := by
  unfold moveUnit
  try dsimp only
  repeat' (first
      | with_reducible assumption | (with_reducible intro _) | with_reducible apply beginDescriptor_sound
      | with_reducible apply endDescriptor_sound | with_reducible apply modObj_sound
      | with_reducible apply performCopy_sound | with_reducible apply resumeHeld_sound
      | with_reducible apply settleReset_sound | (with_reducible refine ite_sound ?_ ?_) | split
      | (with_reducible refine sound_upd ?_ rfl rfl rfl rfl rfl rfl rfl rfl))

theorem execBulkCopy_sound {F : Kept} (queue : BitVec 8) (s : State) (hs : s.Sound F) : SoundOut F
    (execBulkCopy queue s) := by
  unfold execBulkCopy
  try dsimp only
  repeat' (first
      | with_reducible exact soundOut_fault | (with_reducible apply soundOut_next)
      | (with_reducible refine soundOut_ite ?_ ?_) | with_reducible assumption | (with_reducible intro _)
      | with_reducible apply moveUnit_sound | (with_reducible refine ite_sound ?_ ?_) | split
      | (with_reducible refine sound_upd ?_ rfl rfl rfl rfl rfl rfl rfl rfl) | (dsimp only))

theorem recordStepLate_sound {F : Kept} (x : Context) (h : StepHold) (s : State) (hs : s.Sound F) : State.Sound F
    (recordStepLate x h s) := by
  unfold recordStepLate
  try dsimp only
  repeat' (first
      | with_reducible assumption | (with_reducible intro _) | with_reducible apply modPolder_sound
      | (with_reducible refine ite_sound ?_ ?_) | split
      | (with_reducible refine sound_upd ?_ rfl rfl rfl rfl rfl rfl rfl rfl))

theorem execStepBegin_sound {F : Kept} (queue : BitVec 8) (s : State) (hs : s.Sound F) : SoundOut F
    (execStepBegin queue s) := by
  unfold execStepBegin
  try dsimp only
  repeat' (first
      | with_reducible exact soundOut_fault | (with_reducible apply soundOut_next)
      | (with_reducible refine soundOut_ite ?_ ?_) | with_reducible assumption | (with_reducible intro _)
      | with_reducible apply beginDescriptor_sound | with_reducible apply endDescriptor_sound
      | with_reducible apply modContext_sound | (with_reducible refine ite_sound ?_ ?_) | split
      | (with_reducible refine sound_upd ?_ rfl rfl rfl rfl rfl rfl rfl rfl) | (dsimp only))

theorem execStepBeginBoundary_sound {F : Kept} (context : CtxId) (s : State) (hs : s.Sound F) : SoundOut F
    (execStepBeginBoundary context s) := by
  unfold execStepBeginBoundary
  try dsimp only
  repeat' (first
      | with_reducible exact soundOut_fault | (with_reducible apply soundOut_next)
      | (with_reducible refine soundOut_ite ?_ ?_) | with_reducible assumption | (with_reducible intro _)
      | with_reducible apply completeStep_sound | with_reducible apply countLate_sound
      | with_reducible apply endHold_sound | with_reducible apply enqueueMark_sound
      | with_reducible apply modContext_sound | with_reducible apply recordStepLate_sound
      | (with_reducible refine ite_sound ?_ ?_) | split
      | (with_reducible refine sound_upd ?_ rfl rfl rfl rfl rfl rfl rfl rfl) | (dsimp only))

theorem fireAction_sound {F : Kept} (a : MarkAction) (s : State) (hs : s.Sound F) : State.Sound F
    (fireAction a s) := by
  unfold fireAction
  try dsimp only
  repeat' (first
      | with_reducible assumption | with_reducible apply activateRing_sound
      | with_reducible apply beginRingDestroy_sound | with_reducible apply completeStep_sound
      | with_reducible apply fireLaunch_sound | with_reducible apply groupUsable_sound
      | with_reducible apply resume_sound | with_reducible apply resumeChart_sound
      | with_reducible apply setMembers_sound | (with_reducible apply id_sound) | split
      | (with_reducible refine sound_upd ?_ rfl rfl rfl rfl rfl rfl rfl rfl))

theorem execMarkFire_sound {F : Kept} (s : State) (hs : s.Sound F) : SoundOut F (execMarkFire s) := by
  unfold execMarkFire
  try dsimp only
  repeat' (first
      | with_reducible exact soundOut_fault | (with_reducible apply soundOut_next)
      | (with_reducible refine soundOut_ite ?_ ?_) | with_reducible assumption | (with_reducible intro _)
      | with_reducible apply emitTrace_sound | with_reducible apply fireAction_sound
      | with_reducible apply modDatum_sound | (with_reducible refine ite_sound ?_ ?_) | split
      | (with_reducible refine sound_upd ?_ rfl rfl rfl rfl rfl rfl rfl rfl) | (dsimp only))

end Sys2Proof.Machine
end

