-- ==== Sys2Proof/Laws/SoundDevices.lean ====
section
/-! SUPPORT. What the operations of Machine/Devices.lean keep: memories in canonical form, registers in range, blown
fuses and bounded fault rings (State.Sound). -/

namespace Sys2Proof.Machine

theorem stackReadReturn_sound {F : Kept} (index : Nat) (data : Bytes) (uncorrectable : Bool) (s : State)
    (hs : s.Sound F) : State.Sound F (stackReadReturn index data uncorrectable s) := by
  unfold stackReadReturn
  try dsimp only
  repeat' (first
      | with_reducible assumption | (with_reducible intro _) | with_reducible apply resume_sound
      | with_reducible apply stackReturn_sound | with_reducible apply withDomain_sound
      | (with_reducible refine ite_sound ?_ ?_) | split
      | (with_reducible refine sound_upd ?_ rfl rfl rfl rfl rfl rfl rfl rfl))

theorem trayReadReturn_sound {F : Kept} (device : Nat) (offset : Nat) (data : Bytes) (uncorrectable : Bool)
    (s : State) (hs : s.Sound F) : State.Sound F (trayReadReturn device offset data uncorrectable s) := by
  unfold trayReadReturn
  try dsimp only
  repeat' (first
      | with_reducible assumption | (with_reducible intro _) | with_reducible apply deviceError_sound
      | with_reducible apply deviceReturned_sound | with_reducible apply withDomains_sound
      | (with_reducible refine ite_sound ?_ ?_) | (with_reducible refine ite_pair_sound ?_ ?_)
      | (with_reducible refine ite_trip_sound ?_ ?_) | split
      | (with_reducible refine sound_upd ?_ rfl rfl rfl rfl rfl rfl rfl rfl) | (dsimp only))

theorem execDeviceReadReturn_sound {F : Kept} (read : DeviceRead) (data : Bytes) (uncorrectable : Bool) (s : State)
    (hs : s.Sound F) : SoundOut F (execDeviceReadReturn read data uncorrectable s) := by
  unfold execDeviceReadReturn
  try dsimp only
  repeat' (first
      | with_reducible exact soundOut_fault | (with_reducible apply soundOut_next)
      | (with_reducible refine soundOut_ite ?_ ?_) | with_reducible assumption | (with_reducible intro _)
      | with_reducible apply stackReadReturn_sound | with_reducible apply trayReadReturn_sound
      | (with_reducible refine ite_sound ?_ ?_) | split
      | (with_reducible refine sound_upd ?_ rfl rfl rfl rfl rfl rfl rfl rfl) | (dsimp only))

end Sys2Proof.Machine
end

