-- ==== Sys2Proof/Laws/SoundEntries.lean ====
section
/-! SUPPORT. What the operations of Machine/Entries.lean keep: memories in canonical form, registers in range, blown
fuses and bounded fault rings (State.Sound). -/

namespace Sys2Proof.Machine

theorem execRemoteRequest_sound {F : Kept} (r : RemoteReq) (s : State) (hs : s.Sound F) : SoundOut F
    (execRemoteRequest r s) := by
  unfold execRemoteRequest
  try dsimp only
  repeat' (first
      | with_reducible exact soundOut_fault | (with_reducible apply soundOut_next)
      | (with_reducible refine soundOut_ite ?_ ?_) | with_reducible assumption | (with_reducible intro _)
      | with_reducible apply enter_sound | with_reducible apply submitOp_sound
      | (with_reducible refine ite_sound ?_ ?_) | split | (dsimp only))

theorem execCompletion_sound {F : Kept} (s : State) (hs : s.Sound F) : SoundOut F (execCompletion s) := by
  unfold execCompletion
  try dsimp only
  repeat' (first
      | with_reducible exact soundOut_fault | (with_reducible apply soundOut_next)
      | (with_reducible refine soundOut_ite ?_ ?_) | with_reducible assumption | (with_reducible intro _)
      | with_reducible apply resume_sound | with_reducible apply serveCompletion_sound
      | with_reducible apply withFau_sound | split
      | (with_reducible refine sound_upd ?_ rfl rfl rfl rfl rfl rfl rfl rfl) | (dsimp only))

theorem execLinkNoticeReceive_sound {F : Kept} (port : BitVec 8) (packet : Bytes) (s : State) (hs : s.Sound F) :
    SoundOut F (execLinkNoticeReceive port packet s) := by
  unfold execLinkNoticeReceive
  try dsimp only
  repeat' (first
      | with_reducible exact soundOut_fault | (with_reducible apply soundOut_next)
      | (with_reducible refine soundOut_ite ?_ ?_) | with_reducible assumption | (with_reducible intro _)
      | with_reducible apply arriveNotice_sound | with_reducible apply enter_sound
      | with_reducible apply resume_sound | (with_reducible refine ite_sound ?_ ?_) | split | (dsimp only))

theorem serveOp_sound {F : Kept} (op : BitVec 8) (s : State) (hs : s.Sound F) : State.Sound F (serveOp op s) := by
  unfold serveOp
  try dsimp only
  repeat' (first
      | with_reducible assumption | (with_reducible intro _) | with_reducible apply resume_sound
      | with_reducible apply serveRequest_sound | with_reducible apply withDomains_sound
      | with_reducible apply withFau_sound | (with_reducible refine ite_sound ?_ ?_) | split
      | (with_reducible refine sound_upd ?_ rfl rfl rfl rfl rfl rfl rfl rfl))

theorem execLoad_sound {F : Kept} (s : State) (hs : s.Sound F) : SoundOut F (execLoad s) := by
  unfold execLoad
  try dsimp only
  repeat' (first
      | with_reducible exact soundOut_fault | (with_reducible apply soundOut_next)
      | (with_reducible refine soundOut_ite ?_ ?_) | with_reducible assumption | (with_reducible intro _)
      | with_reducible apply serveOp_sound | (dsimp only))

theorem execStore_sound {F : Kept} (s : State) (hs : s.Sound F) : SoundOut F (execStore s) := by
  unfold execStore
  try dsimp only
  repeat' (first
      | with_reducible exact soundOut_fault | (with_reducible apply soundOut_next)
      | (with_reducible refine soundOut_ite ?_ ?_) | with_reducible assumption | (with_reducible intro _)
      | with_reducible apply serveOp_sound | (dsimp only))

theorem execAtomic_sound {F : Kept} (s : State) (hs : s.Sound F) : SoundOut F (execAtomic s) := by
  unfold execAtomic
  try dsimp only
  repeat' (first
      | with_reducible exact soundOut_fault | (with_reducible apply soundOut_next)
      | (with_reducible refine soundOut_ite ?_ ?_) | with_reducible assumption | (with_reducible intro _)
      | with_reducible apply serveOp_sound | (dsimp only))

theorem execReduceIntoRemoteMemory_sound {F : Kept} (s : State) (hs : s.Sound F) : SoundOut F
    (execReduceIntoRemoteMemory s) := by
  unfold execReduceIntoRemoteMemory
  try dsimp only
  repeat' (first
      | with_reducible exact soundOut_fault | (with_reducible apply soundOut_next)
      | (with_reducible refine soundOut_ite ?_ ?_) | with_reducible assumption | (with_reducible intro _)
      | with_reducible apply serveOp_sound | (dsimp only))

theorem execMulticastStore_sound {F : Kept} (s : State) (hs : s.Sound F) : SoundOut F (execMulticastStore s) := by
  unfold execMulticastStore
  try dsimp only
  repeat' (first
      | with_reducible exact soundOut_fault | (with_reducible apply soundOut_next)
      | (with_reducible refine soundOut_ite ?_ ?_) | with_reducible assumption | (with_reducible intro _)
      | with_reducible apply serveOp_sound | (dsimp only))

theorem execSignal_sound {F : Kept} (s : State) (hs : s.Sound F) : SoundOut F (execSignal s) := by
  unfold execSignal
  try dsimp only
  repeat' (first
      | with_reducible exact soundOut_fault | (with_reducible apply soundOut_next)
      | (with_reducible refine soundOut_ite ?_ ?_) | with_reducible assumption | (with_reducible intro _)
      | with_reducible apply serveOp_sound | (dsimp only))

theorem execFence_sound {F : Kept} (s : State) (hs : s.Sound F) : SoundOut F (execFence s) := by
  unfold execFence
  try dsimp only
  repeat' (first
      | with_reducible exact soundOut_fault | (with_reducible apply soundOut_next)
      | (with_reducible refine soundOut_ite ?_ ?_) | with_reducible assumption | (with_reducible intro _)
      | with_reducible apply serveOp_sound | (dsimp only))

theorem execSignalHoldRelease_sound {F : Kept} (index : Nat) (s : State) (hs : s.Sound F) : SoundOut F
    (execSignalHoldRelease index s) := by
  unfold execSignalHoldRelease
  try dsimp only
  repeat' (first
      | with_reducible exact soundOut_fault | (with_reducible apply soundOut_next)
      | (with_reducible refine soundOut_ite ?_ ?_) | with_reducible assumption | (with_reducible intro _)
      | with_reducible apply releaseHold_sound | with_reducible apply resume_sound
      | (with_reducible refine ite_sound ?_ ?_) | split
      | (with_reducible refine sound_upd ?_ rfl rfl rfl rfl rfl rfl rfl rfl) | (dsimp only))

theorem execFenceAnswerRelease_sound {F : Kept} (index : Nat) (s : State) (hs : s.Sound F) : SoundOut F
    (execFenceAnswerRelease index s) := by
  unfold execFenceAnswerRelease
  try dsimp only
  repeat' (first
      | with_reducible exact soundOut_fault | (with_reducible apply soundOut_next)
      | (with_reducible refine soundOut_ite ?_ ?_) | with_reducible assumption | (with_reducible intro _)
      | with_reducible apply releaseHold_sound | with_reducible apply resume_sound
      | (with_reducible refine ite_sound ?_ ?_) | split
      | (with_reducible refine sound_upd ?_ rfl rfl rfl rfl rfl rfl rfl rfl) | (dsimp only))

theorem execWriteAcknowledged_sound {F : Kept} (index : Nat) (s : State) (hs : s.Sound F) : SoundOut F
    (execWriteAcknowledged index s) := by
  unfold execWriteAcknowledged
  try dsimp only
  repeat' (first
      | with_reducible exact soundOut_fault | (with_reducible apply soundOut_next)
      | (with_reducible refine soundOut_ite ?_ ?_) | with_reducible assumption | (with_reducible intro _)
      | with_reducible apply acknowledged_sound | with_reducible apply resume_sound | split
      | (with_reducible refine sound_upd ?_ rfl rfl rfl rfl rfl rfl rfl rfl) | (dsimp only))

theorem execAnswerLogExpiry_sound {F : Kept} (index : Nat) (s : State) (hs : s.Sound F) : SoundOut F
    (execAnswerLogExpiry index s) := by
  unfold execAnswerLogExpiry
  try dsimp only
  repeat' (first
      | with_reducible exact soundOut_fault | (with_reducible apply soundOut_next)
      | (with_reducible refine soundOut_ite ?_ ?_) | with_reducible assumption | (with_reducible intro _)
      | with_reducible apply resume_sound | (with_reducible refine ite_sound ?_ ?_) | split
      | (with_reducible refine sound_upd ?_ rfl rfl rfl rfl rfl rfl rfl rfl) | (dsimp only))

theorem execReplayEntryExpiry_sound {F : Kept} (index : Nat) (s : State) (hs : s.Sound F) : SoundOut F
    (execReplayEntryExpiry index s) := by
  unfold execReplayEntryExpiry
  try dsimp only
  repeat' (first
      | with_reducible exact soundOut_fault | (with_reducible apply soundOut_next)
      | (with_reducible refine soundOut_ite ?_ ?_) | with_reducible assumption | (with_reducible intro _)
      | with_reducible apply resume_sound | (with_reducible refine ite_sound ?_ ?_) | split
      | (with_reducible refine sound_upd ?_ rfl rfl rfl rfl rfl rfl rfl rfl) | (dsimp only))

theorem execHoldQueueDiscard_sound {F : Kept} (index : Nat) (s : State) (hs : s.Sound F) : SoundOut F
    (execHoldQueueDiscard index s) := by
  unfold execHoldQueueDiscard
  try dsimp only
  repeat' (first
      | with_reducible exact soundOut_fault | (with_reducible apply soundOut_next)
      | (with_reducible refine soundOut_ite ?_ ?_) | with_reducible assumption | (with_reducible intro _)
      | with_reducible apply resume_sound | with_reducible apply writeFault_sound
      | (with_reducible refine ite_sound ?_ ?_) | split
      | (with_reducible refine sound_upd ?_ rfl rfl rfl rfl rfl rfl rfl rfl) | (dsimp only))

theorem execLineRequest_sound {F : Kept} (ring : BitVec 12) (message : BitVec 4) (addr : BitVec 64) (data : Bytes)
    (s : State) (hs : s.Sound F) : SoundOut F (execLineRequest ring message addr data s) := by
  unfold execLineRequest
  try dsimp only
  repeat' (first
      | with_reducible exact soundOut_fault | (with_reducible apply soundOut_next)
      | (with_reducible refine soundOut_ite ?_ ?_) | with_reducible assumption | (with_reducible intro _)
      | with_reducible apply arriveLine_sound | with_reducible apply enter_sound
      | (with_reducible refine ite_sound ?_ ?_) | split | (dsimp only))

theorem execSnoopResponse_sound {F : Kept} (ring : BitVec 12) (addr : BitVec 64) (data : Option Bytes) (s : State)
    (hs : s.Sound F) : SoundOut F (execSnoopResponse ring addr data s) := by
  unfold execSnoopResponse
  try dsimp only
  repeat' (first
      | with_reducible exact soundOut_fault | (with_reducible apply soundOut_next)
      | (with_reducible refine soundOut_ite ?_ ?_) | with_reducible assumption | (with_reducible intro _)
      | with_reducible apply resume_sound | with_reducible apply takeReply_sound
      | with_reducible apply withFau_sound | (with_reducible refine ite_sound ?_ ?_) | split
      | (with_reducible refine sound_upd ?_ rfl rfl rfl rfl rfl rfl rfl rfl) | (dsimp only))

theorem serveRing_sound {F : Kept} (serve : State → State) (s : State) (hs : s.Sound F)
    (h_serve : ∀ s : State, s.Sound F → (serve s).Sound F) : State.Sound F (serveRing serve s) := by
  unfold serveRing
  try dsimp only
  repeat' (first
      | with_reducible assumption | (with_reducible intro _) | with_reducible apply resume_sound
      | with_reducible apply withFau_sound | with_reducible apply h_serve
      | (with_reducible refine sound_upd ?_ rfl rfl rfl rfl rfl rfl rfl rfl))

theorem execReadShared_sound {F : Kept} (s : State) (hs : s.Sound F) : SoundOut F (execReadShared s) := by
  unfold execReadShared
  try dsimp only
  repeat' (first
      | with_reducible exact soundOut_fault | (with_reducible apply soundOut_next)
      | (with_reducible refine soundOut_ite ?_ ?_) | with_reducible assumption | (with_reducible intro _)
      | with_reducible apply homeRequest_sound | with_reducible apply serveRing_sound | (dsimp only))

theorem execReadOwn_sound {F : Kept} (s : State) (hs : s.Sound F) : SoundOut F (execReadOwn s) := by
  unfold execReadOwn
  try dsimp only
  repeat' (first
      | with_reducible exact soundOut_fault | (with_reducible apply soundOut_next)
      | (with_reducible refine soundOut_ite ?_ ?_) | with_reducible assumption | (with_reducible intro _)
      | with_reducible apply homeRequest_sound | with_reducible apply serveRing_sound | (dsimp only))

theorem execUpgrade_sound {F : Kept} (s : State) (hs : s.Sound F) : SoundOut F (execUpgrade s) := by
  unfold execUpgrade
  try dsimp only
  repeat' (first
      | with_reducible exact soundOut_fault | (with_reducible apply soundOut_next)
      | (with_reducible refine soundOut_ite ?_ ?_) | with_reducible assumption | (with_reducible intro _)
      | with_reducible apply homeRequest_sound | with_reducible apply serveRing_sound | (dsimp only))

theorem execWriteBack_sound {F : Kept} (s : State) (hs : s.Sound F) : SoundOut F (execWriteBack s) := by
  unfold execWriteBack
  try dsimp only
  repeat' (first
      | with_reducible exact soundOut_fault | (with_reducible apply soundOut_next)
      | (with_reducible refine soundOut_ite ?_ ?_) | with_reducible assumption | (with_reducible intro _)
      | with_reducible apply homeRequest_sound | with_reducible apply serveRing_sound | (dsimp only))

theorem execEvictClean_sound {F : Kept} (s : State) (hs : s.Sound F) : SoundOut F (execEvictClean s) := by
  unfold execEvictClean
  try dsimp only
  repeat' (first
      | with_reducible exact soundOut_fault | (with_reducible apply soundOut_next)
      | (with_reducible refine soundOut_ite ?_ ?_) | with_reducible assumption | (with_reducible intro _)
      | with_reducible apply homeRequest_sound | with_reducible apply serveRing_sound | (dsimp only))

theorem execInvalidate_sound {F : Kept} (s : State) (hs : s.Sound F) : SoundOut F (execInvalidate s) := by
  unfold execInvalidate
  try dsimp only
  repeat' (first
      | with_reducible exact soundOut_fault | (with_reducible apply soundOut_next)
      | (with_reducible refine soundOut_ite ?_ ?_) | with_reducible assumption | (with_reducible intro _)
      | with_reducible apply memberSnoop_sound | with_reducible apply serveRing_sound | (dsimp only))

theorem execRecall_sound {F : Kept} (s : State) (hs : s.Sound F) : SoundOut F (execRecall s) := by
  unfold execRecall
  try dsimp only
  repeat' (first
      | with_reducible exact soundOut_fault | (with_reducible apply soundOut_next)
      | (with_reducible refine soundOut_ite ?_ ?_) | with_reducible assumption | (with_reducible intro _)
      | with_reducible apply memberSnoop_sound | with_reducible apply serveRing_sound | (dsimp only))

theorem execDowngrade_sound {F : Kept} (s : State) (hs : s.Sound F) : SoundOut F (execDowngrade s) := by
  unfold execDowngrade
  try dsimp only
  repeat' (first
      | with_reducible exact soundOut_fault | (with_reducible apply soundOut_next)
      | (with_reducible refine soundOut_ite ?_ ?_) | with_reducible assumption | (with_reducible intro _)
      | with_reducible apply memberSnoop_sound | with_reducible apply serveRing_sound | (dsimp only))

theorem execGrant_sound {F : Kept} (s : State) (hs : s.Sound F) : SoundOut F (execGrant s) := by
  unfold execGrant
  try dsimp only
  repeat' (first
      | with_reducible exact soundOut_fault | (with_reducible apply soundOut_next)
      | (with_reducible refine soundOut_ite ?_ ?_) | with_reducible assumption | (with_reducible intro _)
      | with_reducible apply ringResponse_sound | with_reducible apply serveRing_sound | (dsimp only))

theorem execAck_sound {F : Kept} (s : State) (hs : s.Sound F) : SoundOut F (execAck s) := by
  unfold execAck
  try dsimp only
  repeat' (first
      | with_reducible exact soundOut_fault | (with_reducible apply soundOut_next)
      | (with_reducible refine soundOut_ite ?_ ?_) | with_reducible assumption | (with_reducible intro _)
      | with_reducible apply ringResponse_sound | with_reducible apply serveRing_sound | (dsimp only))

theorem execDataBack_sound {F : Kept} (s : State) (hs : s.Sound F) : SoundOut F (execDataBack s) := by
  unfold execDataBack
  try dsimp only
  repeat' (first
      | with_reducible exact soundOut_fault | (with_reducible apply soundOut_next)
      | (with_reducible refine soundOut_ite ?_ ?_) | with_reducible assumption | (with_reducible intro _)
      | with_reducible apply ringResponse_sound | with_reducible apply serveRing_sound | (dsimp only))

theorem execHeartbeatMissed_sound {F : Kept} (ring : BitVec 12) (member : BitVec 3) (s : State) (hs : s.Sound F) :
    SoundOut F (execHeartbeatMissed ring member s) := by
  unfold execHeartbeatMissed
  try dsimp only
  repeat' (first
      | with_reducible exact soundOut_fault | (with_reducible apply soundOut_next)
      | (with_reducible refine soundOut_ite ?_ ?_) | with_reducible assumption | (with_reducible intro _)
      | with_reducible apply declareDead_sound | with_reducible apply resume_sound
      | (with_reducible refine ite_sound ?_ ?_) | split
      | (with_reducible refine sound_upd ?_ rfl rfl rfl rfl rfl rfl rfl rfl) | (dsimp only))

theorem execFauResend_sound {F : Kept} (index : Nat) (s : State) (hs : s.Sound F) : SoundOut F
    (execFauResend index s) := by
  unfold execFauResend
  try dsimp only
  repeat' (first
      | with_reducible exact soundOut_fault | (with_reducible apply soundOut_next)
      | (with_reducible refine soundOut_ite ?_ ?_) | with_reducible assumption | (with_reducible intro _)
      | with_reducible apply fauSettle_sound | with_reducible apply resendOp_sound
      | with_reducible apply resendRing_sound | with_reducible apply resume_sound
      | with_reducible apply withFau_sound | split
      | (with_reducible refine sound_upd ?_ rfl rfl rfl rfl rfl rfl rfl rfl) | (dsimp only))

theorem expireRing_sound {F : Kept} (q : RingReq) (s : State) (hs : s.Sound F) : State.Sound F (expireRing q s) := by
  unfold expireRing
  try dsimp only
  repeat' (first
      | with_reducible assumption | with_reducible apply giveUpRing_sound | (with_reducible refine ite_sound ?_ ?_)
      | split | (with_reducible refine sound_upd ?_ rfl rfl rfl rfl rfl rfl rfl rfl))

theorem execFauGiveUp_sound {F : Kept} (index : Nat) (s : State) (hs : s.Sound F) : SoundOut F
    (execFauGiveUp index s) := by
  unfold execFauGiveUp
  try dsimp only
  repeat' (first
      | with_reducible exact soundOut_fault | (with_reducible apply soundOut_next)
      | (with_reducible refine soundOut_ite ?_ ?_) | with_reducible assumption | (with_reducible intro _)
      | with_reducible apply expireRing_sound | with_reducible apply giveUp_sound
      | with_reducible apply resume_sound | with_reducible apply withFau_sound
      | (with_reducible refine ite_sound ?_ ?_) | split
      | (with_reducible refine sound_upd ?_ rfl rfl rfl rfl rfl rfl rfl rfl) | (dsimp only))

theorem execZeroFillComplete_sound {F : Kept} (plot : BitVec 16) (s : State) (hs : s.Sound F) : SoundOut F
    (execZeroFillComplete plot s) := by
  unfold execZeroFillComplete
  try dsimp only
  repeat' (first
      | with_reducible exact soundOut_fault | (with_reducible apply soundOut_next)
      | (with_reducible refine soundOut_ite ?_ ?_) | with_reducible assumption | (with_reducible intro _)
      | with_reducible apply finishFill_sound | with_reducible apply needKey_sound
      | with_reducible apply resume_sound | with_reducible apply undoFill_sound
      | with_reducible apply withDomain_sound | (with_reducible refine ite_pair_sound ?_ ?_)
      | (with_reducible refine ite_trip_sound ?_ ?_) | split
      | (refine sound_of_pair (by with_reducible assumption) ?_)
      | (refine sound_of_trip (by with_reducible assumption) ?_)
      | (with_reducible refine sound_upd ?_ rfl rfl rfl rfl rfl rfl rfl rfl) | (dsimp only))

theorem execPlotReleaseDrained_sound {F : Kept} (plot : BitVec 16) (s : State) (hs : s.Sound F) : SoundOut F
    (execPlotReleaseDrained plot s) := by
  unfold execPlotReleaseDrained
  try dsimp only
  repeat' (first
      | with_reducible exact soundOut_fault | (with_reducible apply soundOut_next)
      | (with_reducible refine soundOut_ite ?_ ?_) | with_reducible assumption | (with_reducible intro _)
      | with_reducible apply finishRelease_sound | with_reducible apply resume_sound
      | (with_reducible refine ite_sound ?_ ?_) | split | (dsimp only))

end Sys2Proof.Machine
end

