-- ==== Sys2Proof/Laws/SoundFunctions.lean ====
section
/-! SUPPORT. What the operations of Machine/Functions.lean keep: memories in canonical form, registers in range, blown
fuses and bounded fault rings (State.Sound). -/

namespace Sys2Proof.Machine

theorem dropSpdm_sound {F : Kept} (sl : Sluice) (s : State) (hs : s.Sound F) : State.Sound F (dropSpdm sl s) := by
  unfold dropSpdm
  try dsimp only
  repeat' (first
      | with_reducible assumption | (with_reducible intro _)
      | (with_reducible refine sound_upd ?_ rfl rfl rfl rfl rfl rfl rfl rfl))

theorem endFnCharts_sound {F : Kept} (n : VfId) (s : State) (hs : s.Sound F) : State.Sound F (endFnCharts n s) := by
  unfold endFnCharts
  try dsimp only
  repeat' (first
      | with_reducible assumption | (with_reducible intro _) | with_reducible apply endExport_sound
      | with_reducible apply endImport_sound | with_reducible apply thawChart_sound
      | (with_reducible apply foldl_sound) | (with_reducible refine ite_sound ?_ ?_) | split | (dsimp only))

theorem startFnReset_sound {F : Kept} (n : VfId) (waiters : List (Origin × BitVec 32)) (s : State)
    (hs : s.Sound F) : State.Sound F (startFnReset n waiters s) := by
  unfold startFnReset
  try dsimp only
  repeat' (first
      | with_reducible assumption | (with_reducible intro _) | with_reducible apply dropSpdm_sound
      | with_reducible apply endFnCharts_sound | with_reducible apply modVf_sound
      | with_reducible apply squashQueue_sound | (with_reducible apply foldl_sound) | split
      | (with_reducible refine sound_upd ?_ rfl rfl rfl rfl rfl rfl rfl rfl) | (dsimp only))

theorem squashStarted_sound {F : Kept} (fn : FnId) (s : State) (hs : s.Sound F) : State.Sound F
    (squashStarted fn s) := by
  unfold squashStarted
  try dsimp only
  repeat' (first
      | with_reducible assumption | (with_reducible intro _) | with_reducible apply endDescriptor_sound
      | (with_reducible apply foldl_sound) | (dsimp only))

theorem dropFnObjects_sound {F : Kept} (fn : FnId) (s : State) (hs : s.Sound F) : State.Sound F
    (dropFnObjects fn s) := by
  unfold dropFnObjects
  try dsimp only
  repeat' (first
      | with_reducible assumption | (with_reducible intro _) | with_reducible apply abandonFence_sound
      | with_reducible apply beginDestroy_sound | with_reducible apply finishAll_sound
      | with_reducible apply freeContext_sound | with_reducible apply modObj_sound
      | with_reducible apply squashStarted_sound | (with_reducible apply foldl_sound)
      | (with_reducible refine sound_upd ?_ rfl rfl rfl rfl rfl rfl rfl rfl) | (dsimp only))

theorem drainFn_sound {F : Kept} (n : VfId) (r : FnReset) (s : State) (hs : s.Sound F) : State.Sound F
    (drainFn n r s) := by
  unfold drainFn
  try dsimp only
  repeat' (first
      | with_reducible assumption | (with_reducible intro _) | with_reducible apply beginTeardown_sound
      | with_reducible apply dropFnObjects_sound | with_reducible apply modVf_sound
      | with_reducible apply squashStarted_sound | with_reducible apply squashWork_sound
      | (with_reducible apply foldl_sound) | (with_reducible refine sound_upd ?_ rfl rfl rfl rfl rfl rfl rfl rfl)
      | (dsimp only))

theorem execFunctionResetDrained_sound {F : Kept} (vf : VfId) (s : State) (hs : s.Sound F) : SoundOut F
    (execFunctionResetDrained vf s) := by
  unfold execFunctionResetDrained
  try dsimp only
  repeat' (first
      | with_reducible exact soundOut_fault | (with_reducible apply soundOut_next)
      | (with_reducible refine soundOut_ite ?_ ?_) | with_reducible assumption | (with_reducible intro _)
      | with_reducible apply drainFn_sound | with_reducible apply resume_sound
      | (with_reducible refine ite_sound ?_ ?_) | split
      | (with_reducible refine sound_upd ?_ rfl rfl rfl rfl rfl rfl rfl rfl) | (dsimp only))

theorem completeFnReset_sound {F : Kept} (n : VfId) (r : FnReset) (s : State) (hs : s.Sound F) : State.Sound F
    (completeFnReset n r s) := by
  unfold completeFnReset
  try dsimp only
  repeat' (first
      | with_reducible assumption | (with_reducible intro _) | with_reducible apply emit_sound
      | with_reducible apply finishAll_sound | with_reducible apply modVf_sound
      | (with_reducible refine sound_upd ?_ rfl rfl rfl rfl rfl rfl rfl rfl))

theorem execFunctionResetDone_sound {F : Kept} (vf : VfId) (s : State) (hs : s.Sound F) : SoundOut F
    (execFunctionResetDone vf s) := by
  unfold execFunctionResetDone
  try dsimp only
  repeat' (first
      | with_reducible exact soundOut_fault | (with_reducible apply soundOut_next)
      | (with_reducible refine soundOut_ite ?_ ?_) | with_reducible assumption | (with_reducible intro _)
      | with_reducible apply completeFnReset_sound | (with_reducible refine ite_sound ?_ ?_) | split
      | (with_reducible refine sound_upd ?_ rfl rfl rfl rfl rfl rfl rfl rfl) | (dsimp only))

theorem execFuncEn_sound {F : Kept} (vf : VfId) (enable : Bool) (s : State) (hs : s.Sound F) : SoundOut F
    (execFuncEn vf enable s) := by
  unfold execFuncEn
  try dsimp only
  repeat' (first
      | with_reducible exact soundOut_fault | (with_reducible apply soundOut_next)
      | (with_reducible refine soundOut_ite ?_ ?_) | with_reducible assumption | (with_reducible intro _)
      | with_reducible apply modVf_sound | with_reducible apply startFnReset_sound
      | (with_reducible refine ite_sound ?_ ?_) | split
      | (with_reducible refine sound_upd ?_ rfl rfl rfl rfl rfl rfl rfl rfl) | (dsimp only))

theorem execFlrReq_sound {F : Kept} (vf : VfId) (s : State) (hs : s.Sound F) : SoundOut F (execFlrReq vf s) := by
  unfold execFlrReq
  try dsimp only
  repeat' (first
      | with_reducible exact soundOut_fault | (with_reducible apply soundOut_next)
      | (with_reducible refine soundOut_ite ?_ ?_) | with_reducible assumption | (with_reducible intro _)
      | with_reducible apply startFnReset_sound | (with_reducible refine ite_sound ?_ ?_) | split | (dsimp only))

theorem resetVfCmd_sound {F : Kept} (bad : Bool) (o : Origin) (tag : BitVec 32) (vf : BitVec 16) (s : State)
    (hs : s.Sound F) : State.Sound F (resetVfCmd bad o tag vf s) := by
  unfold resetVfCmd
  try dsimp only
  repeat' (first
      | with_reducible assumption | (with_reducible intro _) | with_reducible apply pend_sound
      | with_reducible apply runCmd_sound | with_reducible apply startFnReset_sound | split)

theorem execResetVf_sound {F : Kept} (o : Origin) (tag : BitVec 32) (vf : BitVec 16) (s : State) (hs : s.Sound F) :
    SoundOut F (execResetVf o tag vf s) := by
  unfold execResetVf
  try dsimp only
  repeat' (first
      | with_reducible exact soundOut_fault | (with_reducible apply soundOut_next)
      | (with_reducible refine soundOut_ite ?_ ?_) | with_reducible assumption | (with_reducible intro _)
      | with_reducible apply resetVfCmd_sound | (dsimp only))

theorem badReq_sound {F : Kept} (n : VfId) (s : State) (hs : s.Sound F) : State.Sound F (badReq n s) := by
  unfold badReq
  try dsimp only
  repeat' (first
      | with_reducible assumption | (with_reducible intro _) | with_reducible apply modVf_sound
      | (with_reducible refine sound_upd ?_ rfl rfl rfl rfl rfl rfl rfl rfl))

theorem vfError_sound {F : Kept} (n : VfId) (cause : BitVec 4) (s : State) (hs : s.Sound F) : State.Sound F
    (vfError n cause s) := by
  unfold vfError
  try dsimp only
  repeat' (first
      | with_reducible assumption | (with_reducible intro _) | with_reducible apply modVf_sound
      | (with_reducible refine sound_upd ?_ rfl rfl rfl rfl rfl rfl rfl rfl))

theorem reqLock_sound {F : Kept} (vf : VfId) (s : State) (hs : s.Sound F) : State.Sound F (reqLock vf s) := by
  unfold reqLock
  try dsimp only
  repeat' (first
      | with_reducible assumption | (with_reducible intro _) | with_reducible apply badReq_sound
      | with_reducible apply modVf_sound | (with_reducible refine ite_sound ?_ ?_) | split
      | (with_reducible refine sound_upd ?_ rfl rfl rfl rfl rfl rfl rfl rfl))

theorem execStateReqLock_sound {F : Kept} (vf : VfId) (s : State) (hs : s.Sound F) : SoundOut F
    (execStateReqLock vf s) := by
  unfold execStateReqLock
  try dsimp only
  repeat' (first
      | with_reducible exact soundOut_fault | (with_reducible apply soundOut_next)
      | (with_reducible refine soundOut_ite ?_ ?_) | with_reducible assumption | (with_reducible intro _)
      | with_reducible apply reqLock_sound | (dsimp only))

theorem reqRun_sound {F : Kept} (vf : VfId) (s : State) (hs : s.Sound F) : State.Sound F (reqRun vf s) := by
  unfold reqRun
  try dsimp only
  repeat' (first
      | with_reducible assumption | (with_reducible intro _) | with_reducible apply badReq_sound
      | with_reducible apply modVf_sound | (with_reducible refine ite_sound ?_ ?_) | split
      | (with_reducible refine sound_upd ?_ rfl rfl rfl rfl rfl rfl rfl rfl))

theorem execStateReqRun_sound {F : Kept} (vf : VfId) (s : State) (hs : s.Sound F) : SoundOut F
    (execStateReqRun vf s) := by
  unfold execStateReqRun
  try dsimp only
  repeat' (first
      | with_reducible exact soundOut_fault | (with_reducible apply soundOut_next)
      | (with_reducible refine soundOut_ite ?_ ?_) | with_reducible assumption | (with_reducible intro _)
      | with_reducible apply reqRun_sound | (dsimp only))

theorem reqUnlock_sound {F : Kept} (vf : VfId) (s : State) (hs : s.Sound F) : State.Sound F (reqUnlock vf s) := by
  unfold reqUnlock
  try dsimp only
  repeat' (first
      | with_reducible assumption | with_reducible apply badReq_sound | with_reducible apply startFnReset_sound
      | (with_reducible refine ite_sound ?_ ?_) | split)

theorem execStateReqUnlock_sound {F : Kept} (vf : VfId) (s : State) (hs : s.Sound F) : SoundOut F
    (execStateReqUnlock vf s) := by
  unfold execStateReqUnlock
  try dsimp only
  repeat' (first
      | with_reducible exact soundOut_fault | (with_reducible apply soundOut_next)
      | (with_reducible refine soundOut_ite ?_ ?_) | with_reducible assumption | (with_reducible intro _)
      | with_reducible apply reqUnlock_sound | (dsimp only))

theorem writeAllot_sound {F : Kept} (vf : VfId) (second : Bool) (value : BitVec 32) (s : State) (hs : s.Sound F) :
    State.Sound F (writeAllot vf second value s) := by
  unfold writeAllot
  try dsimp only
  repeat' (first
      | with_reducible assumption | (with_reducible intro _) | with_reducible apply modVf_sound
      | with_reducible apply vfError_sound | (with_reducible refine ite_sound ?_ ?_) | split
      | (with_reducible refine sound_upd ?_ rfl rfl rfl rfl rfl rfl rfl rfl))

theorem execAllotWrite_sound {F : Kept} (vf : VfId) (second : Bool) (value : BitVec 32) (s : State)
    (hs : s.Sound F) : SoundOut F (execAllotWrite vf second value s) := by
  unfold execAllotWrite
  try dsimp only
  repeat' (first
      | with_reducible exact soundOut_fault | (with_reducible apply soundOut_next)
      | (with_reducible refine soundOut_ite ?_ ?_) | with_reducible assumption | (with_reducible intro _)
      | with_reducible apply writeAllot_sound | (dsimp only))

theorem setDirty_sound {F : Kept} (vf : VfId) (enable : Bool) (s : State) (hs : s.Sound F) : State.Sound F
    (setDirty vf enable s) := by
  unfold setDirty
  try dsimp only
  repeat' (first
      | with_reducible assumption | (with_reducible intro _) | with_reducible apply modVf_sound
      | with_reducible apply writeBackDirty_sound | (with_reducible refine ite_sound ?_ ?_) | split
      | (with_reducible refine sound_upd ?_ rfl rfl rfl rfl rfl rfl rfl rfl))

theorem execDirtyEnable_sound {F : Kept} (vf : VfId) (enable : Bool) (s : State) (hs : s.Sound F) : SoundOut F
    (execDirtyEnable vf enable s) := by
  unfold execDirtyEnable
  try dsimp only
  repeat' (first
      | with_reducible exact soundOut_fault | (with_reducible apply soundOut_next)
      | (with_reducible refine soundOut_ite ?_ ?_) | with_reducible assumption | (with_reducible intro _)
      | with_reducible apply setDirty_sound | (dsimp only))

theorem completeSwap_sound {F : Kept} (n : VfId) (s : State) (hs : s.Sound F) : State.Sound F (completeSwap n s) := by
  unfold completeSwap
  try dsimp only
  repeat' (first
      | with_reducible assumption | (with_reducible intro _) | with_reducible apply modVf_sound
      | (with_reducible refine sound_upd ?_ rfl rfl rfl rfl rfl rfl rfl rfl))

theorem setSwap_sound {F : Kept} (vf : VfId) (s : State) (hs : s.Sound F) : State.Sound F (setSwap vf s) := by
  unfold setSwap
  try dsimp only
  repeat' (first
      | with_reducible assumption | (with_reducible intro _) | with_reducible apply completeSwap_sound
      | with_reducible apply modVf_sound | with_reducible apply writeBackDirty_sound
      | (with_reducible refine ite_sound ?_ ?_) | split
      | (with_reducible refine sound_upd ?_ rfl rfl rfl rfl rfl rfl rfl rfl))

theorem execSwap_sound {F : Kept} (vf : VfId) (s : State) (hs : s.Sound F) : SoundOut F (execSwap vf s) := by
  unfold execSwap
  try dsimp only
  repeat' (first
      | with_reducible exact soundOut_fault | (with_reducible apply soundOut_next)
      | (with_reducible refine soundOut_ite ?_ ?_) | with_reducible assumption | (with_reducible intro _)
      | with_reducible apply setSwap_sound | (dsimp only))

theorem recordDone_sound {F : Kept} (fn : FnId) (ring : BitVec 9) (s : State) (hs : s.Sound F) : State.Sound F
    (recordDone fn ring s) := by
  unfold recordDone
  try dsimp only
  repeat' (first
      | with_reducible assumption | (with_reducible intro _) | with_reducible apply modRing_sound
      | with_reducible apply settleRing_sound
      | (with_reducible refine sound_upd ?_ rfl rfl rfl rfl rfl rfl rfl rfl))

theorem execHostPathFailure_sound {F : Kept} (fn : FnId) (what : HostFailure) (s : State) (hs : s.Sound F) :
    SoundOut F (execHostPathFailure fn what s) := by
  unfold execHostPathFailure
  try dsimp only
  repeat' (first
      | with_reducible exact soundOut_fault | (with_reducible apply soundOut_next)
      | (with_reducible refine soundOut_ite ?_ ?_) | with_reducible assumption | (with_reducible intro _)
      | with_reducible apply recordDone_sound | with_reducible apply vfError_sound
      | (with_reducible refine ite_sound ?_ ?_) | split
      | (with_reducible refine sound_upd ?_ rfl rfl rfl rfl rfl rfl rfl rfl) | (dsimp only))

theorem execHostRequestComplete_sound {F : Kept} (what : HostDone) (s : State) (hs : s.Sound F) : SoundOut F
    (execHostRequestComplete what s) := by
  unfold execHostRequestComplete
  try dsimp only
  repeat' (first
      | with_reducible exact soundOut_fault | (with_reducible apply soundOut_next)
      | (with_reducible refine soundOut_ite ?_ ?_) | with_reducible assumption | (with_reducible intro _)
      | with_reducible apply completeSwap_sound | with_reducible apply recordDone_sound
      | (with_reducible refine ite_sound ?_ ?_) | split
      | (with_reducible refine sound_upd ?_ rfl rfl rfl rfl rfl rfl rfl rfl) | (dsimp only))

theorem advanceHead_sound {F : Kept} (q : BitVec 8) (s : State) (hs : s.Sound F) : State.Sound F
    (advanceHead q s) := by
  unfold advanceHead
  try dsimp only
  repeat' (first
      | with_reducible assumption | (with_reducible intro _) | with_reducible apply modQueue_sound
      | with_reducible apply passAhead_sound | (with_reducible refine sound_upd ?_ rfl rfl rfl rfl rfl rfl rfl rfl))

theorem haltQueue_sound {F : Kept} (x : Queue) (ctag : BitVec 16) (s : State) (hs : s.Sound F) : State.Sound F
    (haltQueue x ctag s) := by
  unfold haltQueue
  try dsimp only
  repeat' (first
      | with_reducible assumption | (with_reducible intro _) | with_reducible apply advanceHead_sound
      | with_reducible apply endUnstarted_sound | with_reducible apply modQueue_sound
      | with_reducible apply writeFault_sound
      | (with_reducible refine sound_upd ?_ rfl rfl rfl rfl rfl rfl rfl rfl))

theorem startDescriptor_sound {F : Kept} (x : Queue) (d : Bytes) (s : State) (hs : s.Sound F) : State.Sound F
    (startDescriptor x d s) := by
  unfold startDescriptor
  try dsimp only
  repeat' (first
      | with_reducible assumption | (with_reducible intro _) | with_reducible apply advanceHead_sound
      | with_reducible apply emitTrace_sound | with_reducible apply endUnstarted_sound
      | with_reducible apply modQueue_sound | with_reducible apply profResetQueue_sound
      | (with_reducible refine ite_sound ?_ ?_) | split
      | (with_reducible refine sound_upd ?_ rfl rfl rfl rfl rfl rfl rfl rfl))

theorem execDescriptorFetch_sound {F : Kept} (queue : BitVec 8) (data : Option Bytes) (s : State) (hs : s.Sound F) :
    SoundOut F (execDescriptorFetch queue data s) := by
  unfold execDescriptorFetch
  try dsimp only
  repeat' (first
      | with_reducible exact soundOut_fault | (with_reducible apply soundOut_next)
      | (with_reducible refine soundOut_ite ?_ ?_) | with_reducible assumption | (with_reducible intro _)
      | with_reducible apply haltQueue_sound | with_reducible apply startDescriptor_sound
      | with_reducible apply tookFree_sound | with_reducible apply vfError_sound
      | (with_reducible refine ite_sound ?_ ?_) | split
      | (with_reducible refine sound_upd ?_ rfl rfl rfl rfl rfl rfl rfl rfl) | (dsimp only))

theorem countIgnored_sound {F : Kept} (fn : FnId) (s : State) (hs : s.Sound F) : State.Sound F
    (countIgnored fn s) := by
  unfold countIgnored
  try dsimp only
  repeat' (first
      | with_reducible assumption | with_reducible apply count_sound | (with_reducible refine ite_sound ?_ ?_)
      | split)

theorem writeTail_sound {F : Kept} (fn : FnId) (queue : BitVec 8) (value : BitVec 32) (s : State) (hs : s.Sound F) :
    State.Sound F (writeTail fn queue value s) := by
  unfold writeTail
  try dsimp only
  repeat' (first
      | with_reducible assumption | (with_reducible intro _) | with_reducible apply countIgnored_sound
      | with_reducible apply modQueue_sound | (with_reducible refine ite_sound ?_ ?_) | split
      | (with_reducible refine sound_upd ?_ rfl rfl rfl rfl rfl rfl rfl rfl))

theorem execQueueDoorbell_sound {F : Kept} (fn : FnId) (queue : BitVec 8) (value : BitVec 32) (s : State)
    (hs : s.Sound F) : SoundOut F (execQueueDoorbell fn queue value s) := by
  unfold execQueueDoorbell
  try dsimp only
  repeat' (first
      | with_reducible exact soundOut_fault | (with_reducible apply soundOut_next)
      | (with_reducible refine soundOut_ite ?_ ?_) | with_reducible assumption | (with_reducible intro _)
      | with_reducible apply writeTail_sound | (dsimp only))

theorem writeHead_sound {F : Kept} (fn : FnId) (ring : BitVec 9) (head : BitVec 16) (s : State) (hs : s.Sound F) :
    State.Sound F (writeHead fn ring head s) := by
  unfold writeHead
  try dsimp only
  repeat' (first
      | with_reducible assumption | (with_reducible intro _) | with_reducible apply countIgnored_sound
      | with_reducible apply modRing_sound | (with_reducible refine ite_sound ?_ ?_) | split
      | (with_reducible refine sound_upd ?_ rfl rfl rfl rfl rfl rfl rfl rfl))

theorem execEventRingHead_sound {F : Kept} (fn : FnId) (ring : BitVec 9) (head : BitVec 16) (s : State)
    (hs : s.Sound F) : SoundOut F (execEventRingHead fn ring head s) := by
  unfold execEventRingHead
  try dsimp only
  repeat' (first
      | with_reducible exact soundOut_fault | (with_reducible apply soundOut_next)
      | (with_reducible refine soundOut_ite ?_ ?_) | with_reducible assumption | (with_reducible intro _)
      | with_reducible apply writeHead_sound | (dsimp only))

theorem execEventRingSpaceReturn_sound {F : Kept} (fn : FnId) (ring : BitVec 9) (s : State) (hs : s.Sound F) :
    SoundOut F (execEventRingSpaceReturn fn ring s) := by
  unfold execEventRingSpaceReturn
  try dsimp only
  repeat' (first
      | with_reducible exact soundOut_fault | (with_reducible apply soundOut_next)
      | (with_reducible refine soundOut_ite ?_ ?_) | with_reducible assumption | (with_reducible intro _)
      | with_reducible apply flushRing_sound | (with_reducible refine ite_sound ?_ ?_)
      | (with_reducible refine ite_pair_sound ?_ ?_) | (with_reducible refine ite_trip_sound ?_ ?_) | split
      | (refine sound_of_pair (by with_reducible assumption) ?_)
      | (refine sound_of_trip (by with_reducible assumption) ?_)
      | (with_reducible refine sound_upd ?_ rfl rfl rfl rfl rfl rfl rfl rfl) | (dsimp only))

theorem setArm_sound {F : Kept} (fn : FnId) (ring : BitVec 9) (s : State) (hs : s.Sound F) : State.Sound F
    (setArm fn ring s) := by
  unfold setArm
  try dsimp only
  repeat' (first
      | with_reducible assumption | (with_reducible intro _) | with_reducible apply emit_sound
      | with_reducible apply modRing_sound | (with_reducible refine ite_sound ?_ ?_) | split
      | (with_reducible refine sound_upd ?_ rfl rfl rfl rfl rfl rfl rfl rfl))

theorem execArm_sound {F : Kept} (fn : FnId) (ring : BitVec 9) (s : State) (hs : s.Sound F) : SoundOut F
    (execArm fn ring s) := by
  unfold execArm
  try dsimp only
  repeat' (first
      | with_reducible exact soundOut_fault | (with_reducible apply soundOut_next)
      | (with_reducible refine soundOut_ite ?_ ?_) | with_reducible assumption | (with_reducible intro _)
      | with_reducible apply setArm_sound | (dsimp only))

end Sys2Proof.Machine
end

