-- ==== Sys2Proof/Laws/SoundHangs.lean ====
section
/-! SUPPORT. What the operations of Machine/Hangs.lean keep: memories in canonical form, registers in range, blown
fuses and bounded fault rings (State.Sound). -/

namespace Sys2Proof.Machine

theorem beginHang_sound {F : Kept} (unit : BitVec 16) (sampled : Bool) (waiters : List (Origin × BitVec 32))
    (s : State) (hs : s.Sound F) : State.Sound F (beginHang unit sampled waiters s) := by
  unfold beginHang
  try dsimp only
  repeat' (first
      | with_reducible assumption | (with_reducible intro _) | with_reducible apply advanceHang_sound
      | with_reducible refine modTracer_sound _ _ (fun _ => rfl) ?_ | with_reducible apply resetEngine_sound
      | with_reducible apply takeSample_sound | with_reducible apply writeFault_sound
      | (with_reducible refine ite_sound ?_ ?_) | split
      | (with_reducible refine sound_upd ?_ rfl rfl rfl rfl rfl rfl rfl rfl))

theorem faultSuspect_sound {F : Kept} (unit : BitVec 16) (c : CtxId) (s : State) (hs : s.Sound F) : State.Sound F
    (faultSuspect unit c s) := by
  unfold faultSuspect
  try dsimp only
  repeat' (first
      | with_reducible assumption | with_reducible apply advanceHang_sound | with_reducible apply resetEngine_sound
      | with_reducible apply settleReset_sound | with_reducible apply squashIn_sound
      | with_reducible apply stopContext_sound | with_reducible apply writeFault_sound)

theorem execEngineWatchdogExpiry_sound {F : Kept} (unit : BitVec 16) (s : State) (hs : s.Sound F) : SoundOut F
    (execEngineWatchdogExpiry unit s) := by
  unfold execEngineWatchdogExpiry
  try dsimp only
  repeat' (first
      | with_reducible exact soundOut_fault | (with_reducible apply soundOut_next)
      | (with_reducible refine soundOut_ite ?_ ?_) | with_reducible assumption | (with_reducible intro _)
      | with_reducible apply beginHang_sound | with_reducible apply countEvent_sound
      | with_reducible apply faultSuspect_sound | with_reducible apply leaveService_sound
      | (with_reducible refine ite_sound ?_ ?_) | split
      | (with_reducible refine sound_upd ?_ rfl rfl rfl rfl rfl rfl rfl rfl) | (dsimp only))

theorem execSuspectCleared_sound {F : Kept} (unit : BitVec 16) (s : State) (hs : s.Sound F) : SoundOut F
    (execSuspectCleared unit s) := by
  unfold execSuspectCleared
  try dsimp only
  repeat' (first
      | with_reducible exact soundOut_fault | (with_reducible apply soundOut_next)
      | (with_reducible refine soundOut_ite ?_ ?_) | with_reducible assumption | (with_reducible intro _)
      | with_reducible apply advanceHang_sound | (with_reducible refine ite_sound ?_ ?_) | split
      | (with_reducible refine sound_upd ?_ rfl rfl rfl rfl rfl rfl rfl rfl) | (dsimp only))

theorem resetEngineCmd_sound {F : Kept} (bad : Bool) (o : Origin) (tag : BitVec 32) (unit : BitVec 16) (s : State)
    (hs : s.Sound F) : State.Sound F (resetEngineCmd bad o tag unit s) := by
  unfold resetEngineCmd
  try dsimp only
  repeat' (first
      | with_reducible assumption | (with_reducible intro _) | with_reducible apply beginHang_sound
      | with_reducible refine modTracer_sound _ _ (fun _ => rfl) ?_ | with_reducible apply pend_sound
      | with_reducible apply resetEngine_sound | with_reducible apply runCmd_sound
      | (with_reducible refine ite_sound ?_ ?_) | split
      | (with_reducible refine sound_upd ?_ rfl rfl rfl rfl rfl rfl rfl rfl))

theorem execResetEngine_sound {F : Kept} (o : Origin) (tag : BitVec 32) (unit : BitVec 16) (s : State)
    (hs : s.Sound F) : SoundOut F (execResetEngine o tag unit s) := by
  unfold execResetEngine
  try dsimp only
  repeat' (first
      | with_reducible exact soundOut_fault | (with_reducible apply soundOut_next)
      | (with_reducible refine soundOut_ite ?_ ?_) | with_reducible assumption | (with_reducible intro _)
      | with_reducible apply resetEngineCmd_sound | (dsimp only))

theorem resetContextCmd_sound {F : Kept} (bad : Bool) (o : Origin) (tag : BitVec 32) (context : BitVec 16)
    (s : State) (hs : s.Sound F) : State.Sound F (resetContextCmd bad o tag context s) := by
  unfold resetContextCmd
  try dsimp only
  repeat' (first
      | with_reducible assumption | (with_reducible intro _) | with_reducible apply pend_sound
      | with_reducible apply resetContext_sound | with_reducible apply runCmd_sound | split
      | (with_reducible refine sound_upd ?_ rfl rfl rfl rfl rfl rfl rfl rfl))

theorem execResetContext_sound {F : Kept} (o : Origin) (tag : BitVec 32) (context : BitVec 16) (s : State)
    (hs : s.Sound F) : SoundOut F (execResetContext o tag context s) := by
  unfold execResetContext
  try dsimp only
  repeat' (first
      | with_reducible exact soundOut_fault | (with_reducible apply soundOut_next)
      | (with_reducible refine soundOut_ite ?_ ?_) | with_reducible assumption | (with_reducible intro _)
      | with_reducible apply resetContextCmd_sound | (dsimp only))

theorem resetBlockCmd_sound {F : Kept} (bad : Bool) (o : Origin) (tag : BitVec 32) (s : State) (hs : s.Sound F) :
    State.Sound F (resetBlockCmd bad o tag s) := by
  unfold resetBlockCmd
  try dsimp only
  repeat' (first
      | with_reducible assumption | (with_reducible intro _) | with_reducible apply blockReset_sound
      | with_reducible apply pend_sound | with_reducible apply runCmdIn_sound)

theorem execResetBlock_sound {F : Kept} (o : Origin) (tag : BitVec 32) (s : State) (hs : s.Sound F) : SoundOut F
    (execResetBlock o tag s) := by
  unfold execResetBlock
  try dsimp only
  repeat' (first
      | with_reducible exact soundOut_fault | (with_reducible apply soundOut_next)
      | (with_reducible refine soundOut_ite ?_ ?_) | with_reducible assumption | (with_reducible intro _)
      | with_reducible apply resetBlockCmd_sound | (dsimp only))

theorem serviceReleaseCmd_sound {F : Kept} (bad : Bool) (o : Origin) (tag : BitVec 32) (s : State)
    (hs : s.Sound F) : State.Sound F (serviceReleaseCmd bad o tag s) := by
  unfold serviceReleaseCmd
  try dsimp only
  repeat' (first
      | with_reducible assumption | (with_reducible intro _) | with_reducible apply blockReset_sound
      | with_reducible apply reply_sound | with_reducible apply runCmd_sound
      | (with_reducible refine sound_upd ?_ rfl rfl rfl rfl rfl rfl rfl rfl))

theorem execServiceRelease_sound {F : Kept} (o : Origin) (tag : BitVec 32) (s : State) (hs : s.Sound F) : SoundOut F
    (execServiceRelease o tag s) := by
  unfold execServiceRelease
  try dsimp only
  repeat' (first
      | with_reducible exact soundOut_fault | (with_reducible apply soundOut_next)
      | (with_reducible refine soundOut_ite ?_ ?_) | with_reducible assumption | (with_reducible intro _)
      | with_reducible apply serviceReleaseCmd_sound | (dsimp only))

theorem floodwatchConfigCmd_sound {F : Kept} (bad : Bool) (o : Origin) (tag : BitVec 32) (enable : BitVec 8)
    (s : State) (hs : s.Sound F) : State.Sound F (floodwatchConfigCmd bad o tag enable s) := by
  unfold floodwatchConfigCmd
  try dsimp only
  repeat' (first
      | with_reducible assumption | (with_reducible intro _)
      | with_reducible refine modTracer_sound _ _ (fun _ => rfl) ?_ | with_reducible apply reply_sound
      | with_reducible apply runCmd_sound | (with_reducible refine sound_upd ?_ rfl rfl rfl rfl rfl rfl rfl rfl))

theorem execFloodwatchConfig_sound {F : Kept} (o : Origin) (tag : BitVec 32) (enable : BitVec 8) (s : State)
    (hs : s.Sound F) : SoundOut F (execFloodwatchConfig o tag enable s) := by
  unfold execFloodwatchConfig
  try dsimp only
  repeat' (first
      | with_reducible exact soundOut_fault | (with_reducible apply soundOut_next)
      | (with_reducible refine soundOut_ite ?_ ?_) | with_reducible assumption | (with_reducible intro _)
      | with_reducible apply floodwatchConfigCmd_sound | (dsimp only))

theorem execFloodwatchStop_sound {F : Kept} (polder : PolderId) (originator : InstId) (s : State) (hs : s.Sound F) :
    SoundOut F (execFloodwatchStop polder originator s) := by
  unfold execFloodwatchStop
  try dsimp only
  repeat' (first
      | with_reducible exact soundOut_fault | (with_reducible apply soundOut_next)
      | (with_reducible refine soundOut_ite ?_ ?_) | with_reducible assumption | (with_reducible intro _)
      | with_reducible apply count_sound | with_reducible apply modPolder_sound
      | with_reducible apply writeFault_sound | (with_reducible refine ite_sound ?_ ?_) | split
      | (with_reducible refine sound_upd ?_ rfl rfl rfl rfl rfl rfl rfl rfl) | (dsimp only))

theorem faultReadCmd_sound {F : Kept} (bad : Bool) (o : Origin) (tag : BitVec 32) (first : BitVec 32)
    (cnt : BitVec 16) (s : State) (hs : s.Sound F) : State.Sound F (faultReadCmd bad o tag first cnt s) := by
  unfold faultReadCmd
  try dsimp only
  repeat' (first
      | with_reducible assumption | (with_reducible intro _) | with_reducible apply reply_sound
      | with_reducible apply runCmd_sound | (with_reducible refine ite_sound ?_ ?_) | split)

theorem execFaultRead_sound {F : Kept} (o : Origin) (tag : BitVec 32) (first : BitVec 32) (cnt : BitVec 16)
    (s : State) (hs : s.Sound F) : SoundOut F (execFaultRead o tag first cnt s) := by
  unfold execFaultRead
  try dsimp only
  repeat' (first
      | with_reducible exact soundOut_fault | (with_reducible apply soundOut_next)
      | (with_reducible refine soundOut_ite ?_ ?_) | with_reducible assumption | (with_reducible intro _)
      | with_reducible apply faultReadCmd_sound | (dsimp only))

theorem crashDumpReadCmd_sound {F : Kept} (bad : Bool) (o : Origin) (tag : BitVec 32) (unit : BitVec 16)
    (offset : BitVec 32) (len : BitVec 16) (s : State) (hs : s.Sound F) : State.Sound F
    (crashDumpReadCmd bad o tag unit offset len s) := by
  unfold crashDumpReadCmd
  try dsimp only
  repeat' (first
      | with_reducible assumption | (with_reducible intro _) | with_reducible apply reply_sound
      | with_reducible apply runCmd_sound | split)

theorem execCrashDumpRead_sound {F : Kept} (o : Origin) (tag : BitVec 32) (unit : BitVec 16) (offset : BitVec 32)
    (len : BitVec 16) (s : State) (hs : s.Sound F) : SoundOut F (execCrashDumpRead o tag unit offset len s) := by
  unfold execCrashDumpRead
  try dsimp only
  repeat' (first
      | with_reducible exact soundOut_fault | (with_reducible apply soundOut_next)
      | (with_reducible refine soundOut_ite ?_ ?_) | with_reducible assumption | (with_reducible intro _)
      | with_reducible apply crashDumpReadCmd_sound | (dsimp only))

theorem stragglerReadCmd_sound {F : Kept} (bad : Bool) (o : Origin) (tag : BitVec 32) (polder : PolderId)
    (inst : BitVec 16) (s : State) (hs : s.Sound F) : State.Sound F (stragglerReadCmd bad o tag polder inst s) := by
  unfold stragglerReadCmd
  try dsimp only
  repeat' (first
      | with_reducible assumption | (with_reducible intro _) | with_reducible apply reply_sound
      | with_reducible apply runCmd_sound | split
      | (with_reducible refine sound_upd ?_ rfl rfl rfl rfl rfl rfl rfl rfl))

theorem execStragglerRead_sound {F : Kept} (o : Origin) (tag : BitVec 32) (polder : PolderId) (inst : BitVec 16)
    (s : State) (hs : s.Sound F) : SoundOut F (execStragglerRead o tag polder inst s) := by
  unfold execStragglerRead
  try dsimp only
  repeat' (first
      | with_reducible exact soundOut_fault | (with_reducible apply soundOut_next)
      | (with_reducible refine soundOut_ite ?_ ?_) | with_reducible assumption | (with_reducible intro _)
      | with_reducible apply stragglerReadCmd_sound | (dsimp only))

end Sys2Proof.Machine
end

