-- ==== Sys2Proof/Laws/SoundIdentity.lean ====
section
/-! SUPPORT. What the operations of Machine/Identity.lean keep: memories in canonical form, registers in range, blown
fuses and bounded fault rings (State.Sound). -/

namespace Sys2Proof.Machine

theorem identityReadCmd_sound {F : Kept} (bad : Bool) (o : Origin) (tag : BitVec 32) (s : State) (hs : s.Sound F) :
    State.Sound F (identityReadCmd bad o tag s) := by
  unfold identityReadCmd
  try dsimp only
  repeat' (first
      | with_reducible assumption | (with_reducible intro _) | with_reducible apply reply_sound
      | with_reducible apply runCmd_sound)

theorem execIdentityRead_sound {F : Kept} (o : Origin) (tag : BitVec 32) (s : State) (hs : s.Sound F) : SoundOut F
    (execIdentityRead o tag s) := by
  unfold execIdentityRead
  try dsimp only
  repeat' (first
      | with_reducible exact soundOut_fault | (with_reducible apply soundOut_next)
      | (with_reducible refine soundOut_ite ?_ ?_) | with_reducible assumption | (with_reducible intro _)
      | with_reducible apply identityReadCmd_sound | (dsimp only))

end Sys2Proof.Machine
end

