-- ==== Sys2Proof/Laws/SoundLifeCycle.lean ====
section
/-! SUPPORT. What the operations of Machine/LifeCycle.lean keep: memories in canonical form, registers in range, blown
fuses and bounded fault rings (State.Sound). -/

namespace Sys2Proof.Machine

theorem modLc_sound {F : Kept} (f : LifeCycle → LifeCycle) (s : State) (hs : s.Sound F) : State.Sound F
    (modLc f s) := by
  unfold modLc
  try dsimp only
  repeat' (first | with_reducible assumption | (with_reducible refine sound_upd ?_ rfl rfl rfl rfl rfl rfl rfl rfl))

theorem lcStatusCmd_sound {F : Kept} (bad : Bool) (o : Origin) (tag : BitVec 32) (s : State) (hs : s.Sound F) :
    State.Sound F (lcStatusCmd bad o tag s) := by
  unfold lcStatusCmd
  try dsimp only
  repeat' (first
      | with_reducible assumption | (with_reducible intro _) | with_reducible apply reply_sound
      | with_reducible apply runCmd_sound | split)

theorem execLcStatus_sound {F : Kept} (o : Origin) (tag : BitVec 32) (s : State) (hs : s.Sound F) : SoundOut F
    (execLcStatus o tag s) := by
  unfold execLcStatus
  try dsimp only
  repeat' (first
      | with_reducible exact soundOut_fault | (with_reducible apply soundOut_next)
      | (with_reducible refine soundOut_ite ?_ ?_) | with_reducible assumption | (with_reducible intro _)
      | with_reducible apply lcStatusCmd_sound | (dsimp only))

theorem lcChallengeCmd_sound {F : Kept} (bad : Bool) (o : Origin) (tag : BitVec 32) (target : BitVec 8) (s : State)
    (hs : s.Sound F) : State.Sound F (lcChallengeCmd bad o tag target s) := by
  unfold lcChallengeCmd
  try dsimp only
  repeat' (first
      | with_reducible assumption | (with_reducible intro _) | with_reducible apply drbgDraw_sound
      | with_reducible apply modLc_sound | with_reducible apply reply_sound | with_reducible apply runCmd_sound
      | (with_reducible refine sound_upd ?_ rfl rfl rfl rfl rfl rfl rfl rfl))

theorem execLcChallenge_sound {F : Kept} (o : Origin) (tag : BitVec 32) (target : BitVec 8) (s : State)
    (hs : s.Sound F) : SoundOut F (execLcChallenge o tag target s) := by
  unfold execLcChallenge
  try dsimp only
  repeat' (first
      | with_reducible exact soundOut_fault | (with_reducible apply soundOut_next)
      | (with_reducible refine soundOut_ite ?_ ?_) | with_reducible assumption | (with_reducible intro _)
      | with_reducible apply lcChallengeCmd_sound | (dsimp only))

theorem execNonceExpiry_sound {F : Kept} (s : State) (hs : s.Sound F) : SoundOut F (execNonceExpiry s) := by
  unfold execNonceExpiry
  try dsimp only
  repeat' (first
      | with_reducible exact soundOut_fault | (with_reducible apply soundOut_next)
      | (with_reducible refine soundOut_ite ?_ ?_) | with_reducible assumption | (with_reducible intro _)
      | with_reducible apply modLc_sound | (with_reducible refine ite_sound ?_ ?_) | split
      | (with_reducible refine sound_upd ?_ rfl rfl rfl rfl rfl rfl rfl rfl) | (dsimp only))

theorem startTransition_sound {F : Kept} (target : LcState) (o : Origin) (tag : BitVec 32) (s : State)
    (hs : s.Sound F) :
    State.Sound F (startTransition target o tag s) := by
  unfold startTransition
  dsimp only
  refine foldl_sound _ _ _ ?_ fun t x ht => beginTeardown_sound _ _ _ _ ht
  refine modLc_sound _ _ ?_
  have hp := pend_sound o tag 0x0C03 s hs
  exact fuses_sound hp (Fuses.blownIn_intent hp.2.2.1.1 _ _)


theorem lcTransitionCmd_sound {F : Kept} (bad : Bool) (o : Origin) (tag : BitVec 32) (target : BitVec 8)
    (response : Bytes) (s : State) (hs : s.Sound F) : State.Sound F
    (lcTransitionCmd bad o tag target response s) := by
  unfold lcTransitionCmd
  try dsimp only
  repeat' (first
      | with_reducible assumption | (with_reducible intro _) | with_reducible apply modLc_sound
      | with_reducible apply refuse_sound | with_reducible apply runCmd_sound
      | with_reducible apply startTransition_sound | (with_reducible refine ite_sound ?_ ?_) | split
      | (with_reducible refine sound_upd ?_ rfl rfl rfl rfl rfl rfl rfl rfl))

theorem execLcTransition_sound {F : Kept} (o : Origin) (tag : BitVec 32) (target : BitVec 8) (response : Bytes)
    (s : State) (hs : s.Sound F) : SoundOut F (execLcTransition o tag target response s) := by
  unfold execLcTransition
  try dsimp only
  repeat' (first
      | with_reducible exact soundOut_fault | (with_reducible apply soundOut_next)
      | (with_reducible refine soundOut_ite ?_ ?_) | with_reducible assumption | (with_reducible intro _)
      | with_reducible apply lcTransitionCmd_sound | (dsimp only))

theorem wipe_sound {F : Kept} (s : State) (hs : s.Sound F) : State.Sound F (wipe s) := by
  unfold wipe
  try dsimp only
  repeat' (first
      | with_reducible assumption | with_reducible apply eraseSealed_sound | with_reducible apply wipePool_sound
      | (with_reducible refine sound_upd ?_ rfl rfl rfl rfl rfl rfl rfl rfl))

theorem execLcTransitionComplete_sound {F : Kept} (s : State) (hs : s.Sound F) :
    SoundOut F (execLcTransitionComplete s) := by
  unfold execLcTransitionComplete
  dsimp only
  refine soundOut_next ?_
  split
  · exact hs
  · refine ite_sound hs (finish_sound _ _ _ _ _ (modLc_sound _ _ ?_))
    have hw := wipe_sound s hs
    refine fuses_sound hw (Fuses.blownIn_record ?_ _ _)
    split
    · exact Fuses.blownIn_killRoot hw.2.2.1.1
    · exact hw.2.2.1.1


theorem endAuthorisation_sound {F : Kept} (s : State) (hs : s.Sound F) : State.Sound F (endAuthorisation s) := by
  unfold endAuthorisation
  try dsimp only
  repeat' (first
      | with_reducible assumption | (with_reducible intro _) | with_reducible apply emit_sound
      | with_reducible apply modLc_sound | (with_reducible refine ite_sound ?_ ?_) | split
      | (with_reducible refine sound_upd ?_ rfl rfl rfl rfl rfl rfl rfl rfl))

theorem debugAuthoriseCmd_sound {F : Kept} (bad : Bool) (o : Origin) (tag : BitVec 32) (authorisation : Bytes)
    (s : State) (hs : s.Sound F) : State.Sound F (debugAuthoriseCmd bad o tag authorisation s) := by
  unfold debugAuthoriseCmd
  try dsimp only
  repeat' (first
      | with_reducible assumption | (with_reducible intro _) | with_reducible apply modLc_sound
      | with_reducible apply refuse_sound | with_reducible apply reply_sound | with_reducible apply runCmd_sound
      | (with_reducible refine ite_sound ?_ ?_) | split
      | (with_reducible refine sound_upd ?_ rfl rfl rfl rfl rfl rfl rfl rfl))

theorem execDebugAuthorise_sound {F : Kept} (o : Origin) (tag : BitVec 32) (authorisation : Bytes) (s : State)
    (hs : s.Sound F) : SoundOut F (execDebugAuthorise o tag authorisation s) := by
  unfold execDebugAuthorise
  try dsimp only
  repeat' (first
      | with_reducible exact soundOut_fault | (with_reducible apply soundOut_next)
      | (with_reducible refine soundOut_ite ?_ ?_) | with_reducible assumption | (with_reducible intro _)
      | with_reducible apply debugAuthoriseCmd_sound | (dsimp only))

theorem debugCloseCmd_sound {F : Kept} (bad : Bool) (o : Origin) (tag : BitVec 32) (s : State) (hs : s.Sound F) :
    State.Sound F (debugCloseCmd bad o tag s) := by
  unfold debugCloseCmd
  try dsimp only
  repeat' (first
      | with_reducible assumption | (with_reducible intro _) | with_reducible apply endAuthorisation_sound
      | with_reducible apply reply_sound | with_reducible apply runCmd_sound)

theorem execDebugClose_sound {F : Kept} (o : Origin) (tag : BitVec 32) (s : State) (hs : s.Sound F) : SoundOut F
    (execDebugClose o tag s) := by
  unfold execDebugClose
  try dsimp only
  repeat' (first
      | with_reducible exact soundOut_fault | (with_reducible apply soundOut_next)
      | (with_reducible refine soundOut_ite ?_ ?_) | with_reducible assumption | (with_reducible intro _)
      | with_reducible apply debugCloseCmd_sound | (dsimp only))

theorem execAuthorisationExpiry_sound {F : Kept} (s : State) (hs : s.Sound F) : SoundOut F
    (execAuthorisationExpiry s) := by
  unfold execAuthorisationExpiry
  try dsimp only
  repeat' (first
      | with_reducible exact soundOut_fault | (with_reducible apply soundOut_next)
      | (with_reducible refine soundOut_ite ?_ ?_) | with_reducible assumption | (with_reducible intro _)
      | with_reducible apply endAuthorisation_sound | (with_reducible refine ite_sound ?_ ?_) | split
      | (with_reducible refine sound_upd ?_ rfl rfl rfl rfl rfl rfl rfl rfl) | (dsimp only))

end Sys2Proof.Machine
end

