-- ==== Sys2Proof/Laws/SoundObserve.lean ====
section
/-! SUPPORT. What the operations of Machine/Observe.lean keep: memories in canonical form, registers in range, blown
fuses and bounded fault rings (State.Sound). -/

namespace Sys2Proof.Machine

theorem execFabricStatusUnreachable_sound {F : Kept} (inst : InstId) (s : State) (hs : s.Sound F) : SoundOut F
    (execFabricStatusUnreachable inst s) := by
  unfold execFabricStatusUnreachable
  try dsimp only
  repeat' (first
      | with_reducible exact soundOut_fault | (with_reducible apply soundOut_next)
      | (with_reducible refine soundOut_ite ?_ ?_) | with_reducible assumption | (with_reducible intro _)
      | with_reducible apply resume_sound | with_reducible apply unreachableColl_sound
      | with_reducible apply unreachableOps_sound | (with_reducible refine ite_sound ?_ ?_) | split
      | (with_reducible refine sound_upd ?_ rfl rfl rfl rfl rfl rfl rfl rfl) | (dsimp only))

theorem execFabricStatusWithdraw_sound {F : Kept} (inst : InstId) (s : State) (hs : s.Sound F) : SoundOut F
    (execFabricStatusWithdraw inst s) := by
  unfold execFabricStatusWithdraw
  try dsimp only
  repeat' (first
      | with_reducible exact soundOut_fault | (with_reducible apply soundOut_next)
      | (with_reducible refine soundOut_ite ?_ ?_) | with_reducible assumption | (with_reducible intro _)
      | (with_reducible refine ite_sound ?_ ?_) | split
      | (with_reducible refine sound_upd ?_ rfl rfl rfl rfl rfl rfl rfl rfl) | (dsimp only))

theorem execQueueLevelReport_sound {F : Kept} (weir : BitVec 8) (level : BitVec 4) (capacity : Nat) (s : State)
    (hs : s.Sound F) : SoundOut F (execQueueLevelReport weir level capacity s) := by
  unfold execQueueLevelReport
  try dsimp only
  repeat' (first
      | with_reducible exact soundOut_fault | (with_reducible apply soundOut_next)
      | (with_reducible refine soundOut_ite ?_ ?_) | with_reducible assumption | (with_reducible intro _)
      | with_reducible apply resume_sound | with_reducible apply takeLevel_sound
      | (with_reducible refine ite_sound ?_ ?_) | split | (dsimp only))

theorem weirConfigCmd_sound {F : Kept} (bad : Bool) (o : Origin) (tag : BitVec 32) (weir : BitVec 8) (minima : List
    (BitVec 16)) (s : State) (hs : s.Sound F) : State.Sound F (weirConfigCmd bad o tag weir minima s) := by
  unfold weirConfigCmd
  try dsimp only
  repeat' (first
      | with_reducible assumption | (with_reducible intro _) | with_reducible apply modWeir_sound
      | with_reducible apply reply_sound | with_reducible apply resume_sound | with_reducible apply runCmd_sound
      | split | (with_reducible refine sound_upd ?_ rfl rfl rfl rfl rfl rfl rfl rfl))

theorem execWeirConfig_sound {F : Kept} (o : Origin) (tag : BitVec 32) (weir : BitVec 8) (minima : List (BitVec 16))
    (s : State) (hs : s.Sound F) : SoundOut F (execWeirConfig o tag weir minima s) := by
  unfold execWeirConfig
  try dsimp only
  repeat' (first
      | with_reducible exact soundOut_fault | (with_reducible apply soundOut_next)
      | (with_reducible refine soundOut_ite ?_ ?_) | with_reducible assumption | (with_reducible intro _)
      | with_reducible apply weirConfigCmd_sound | (dsimp only))

theorem configureDatum_sound {F : Kept} (root : Bool) (port : BitVec 8) (s : State) (hs : s.Sound F) : State.Sound F
    (configureDatum root port s) := by
  unfold configureDatum
  try dsimp only
  repeat' (first
      | with_reducible assumption | (with_reducible intro _) | with_reducible apply enterDatumState_sound
      | with_reducible apply modDatum_sound | (with_reducible refine ite_sound ?_ ?_) | split
      | (with_reducible refine sound_upd ?_ rfl rfl rfl rfl rfl rfl rfl rfl))

theorem datumConfigCmd_sound {F : Kept} (bad : Bool) (o : Origin) (tag : BitVec 32) (root : BitVec 8)
    (port : BitVec 8) (s : State) (hs : s.Sound F) : State.Sound F (datumConfigCmd bad o tag root port s) := by
  unfold datumConfigCmd
  try dsimp only
  repeat' (first
      | with_reducible assumption | (with_reducible intro _) | with_reducible apply configureDatum_sound
      | with_reducible apply reply_sound | with_reducible apply runCmd_sound | split)

theorem execDatumConfig_sound {F : Kept} (o : Origin) (tag : BitVec 32) (root : BitVec 8) (port : BitVec 8)
    (s : State) (hs : s.Sound F) : SoundOut F (execDatumConfig o tag root port s) := by
  unfold execDatumConfig
  try dsimp only
  repeat' (first
      | with_reducible exact soundOut_fault | (with_reducible apply soundOut_next)
      | (with_reducible refine soundOut_ite ?_ ?_) | with_reducible assumption | (with_reducible intro _)
      | with_reducible apply datumConfigCmd_sound | (dsimp only))

theorem datumStatusCmd_sound {F : Kept} (bad : Bool) (o : Origin) (tag : BitVec 32) (s : State) (hs : s.Sound F) :
    State.Sound F (datumStatusCmd bad o tag s) := by
  unfold datumStatusCmd
  try dsimp only
  repeat' (first
      | with_reducible assumption | (with_reducible intro _) | with_reducible apply reply_sound
      | with_reducible apply runCmd_sound)

theorem execDatumStatus_sound {F : Kept} (o : Origin) (tag : BitVec 32) (s : State) (hs : s.Sound F) : SoundOut F
    (execDatumStatus o tag s) := by
  unfold execDatumStatus
  try dsimp only
  repeat' (first
      | with_reducible exact soundOut_fault | (with_reducible apply soundOut_next)
      | (with_reducible refine soundOut_ite ?_ ?_) | with_reducible assumption | (with_reducible intro _)
      | with_reducible apply datumStatusCmd_sound | (dsimp only))

theorem markQueueStatusCmd_sound {F : Kept} (bad : Bool) (o : Origin) (tag : BitVec 32) (s : State)
    (hs : s.Sound F) : State.Sound F (markQueueStatusCmd bad o tag s) := by
  unfold markQueueStatusCmd
  try dsimp only
  repeat' (first
      | with_reducible assumption | (with_reducible intro _) | with_reducible apply reply_sound
      | with_reducible apply runCmd_sound)

theorem execMarkQueueStatus_sound {F : Kept} (o : Origin) (tag : BitVec 32) (s : State) (hs : s.Sound F) :
    SoundOut F (execMarkQueueStatus o tag s) := by
  unfold execMarkQueueStatus
  try dsimp only
  repeat' (first
      | with_reducible exact soundOut_fault | (with_reducible apply soundOut_next)
      | (with_reducible refine soundOut_ite ?_ ?_) | with_reducible assumption | (with_reducible intro _)
      | with_reducible apply markQueueStatusCmd_sound | (dsimp only))

theorem syncCounterReadCmd_sound {F : Kept} (bad : Bool) (o : Origin) (tag : BitVec 32) (core : BitVec 16)
    (s : State) (hs : s.Sound F) : State.Sound F (syncCounterReadCmd bad o tag core s) := by
  unfold syncCounterReadCmd
  try dsimp only
  repeat' (first
      | with_reducible assumption | (with_reducible intro _) | with_reducible apply reply_sound
      | with_reducible apply runCmd_sound | split
      | (with_reducible refine sound_upd ?_ rfl rfl rfl rfl rfl rfl rfl rfl))

theorem execSyncCounterRead_sound {F : Kept} (o : Origin) (tag : BitVec 32) (core : BitVec 16) (s : State)
    (hs : s.Sound F) : SoundOut F (execSyncCounterRead o tag core s) := by
  unfold execSyncCounterRead
  try dsimp only
  repeat' (first
      | with_reducible exact soundOut_fault | (with_reducible apply soundOut_next)
      | (with_reducible refine soundOut_ite ?_ ?_) | with_reducible assumption | (with_reducible intro _)
      | with_reducible apply syncCounterReadCmd_sound | (dsimp only))

theorem contextStepReadCmd_sound {F : Kept} (bad : Bool) (o : Origin) (tag : BitVec 32) (context : BitVec 16)
    (s : State) (hs : s.Sound F) : State.Sound F (contextStepReadCmd bad o tag context s) := by
  unfold contextStepReadCmd
  try dsimp only
  repeat' (first
      | with_reducible assumption | (with_reducible intro _) | with_reducible apply reply_sound
      | with_reducible apply runCmd_sound | (with_reducible refine ite_sound ?_ ?_) | split
      | (with_reducible refine sound_upd ?_ rfl rfl rfl rfl rfl rfl rfl rfl))

theorem execContextStepRead_sound {F : Kept} (o : Origin) (tag : BitVec 32) (context : BitVec 16) (s : State)
    (hs : s.Sound F) : SoundOut F (execContextStepRead o tag context s) := by
  unfold execContextStepRead
  try dsimp only
  repeat' (first
      | with_reducible exact soundOut_fault | (with_reducible apply soundOut_next)
      | (with_reducible refine soundOut_ite ?_ ?_) | with_reducible assumption | (with_reducible intro _)
      | with_reducible apply contextStepReadCmd_sound | (dsimp only))

theorem clearSeen_sound {F : Kept} (first : Nat) (n : Nat) (s : State) (hs : s.Sound F) : State.Sound F
    (clearSeen first n s) := by
  unfold clearSeen
  try dsimp only
  repeat' (first
      | with_reducible assumption | (with_reducible intro _) | split
      | (with_reducible refine sound_upd ?_ rfl rfl rfl rfl rfl rfl rfl rfl))

theorem counterReadCmd_sound {F : Kept} (bad : Bool) (o : Origin) (tag : BitVec 32) (first : BitVec 16)
    (n : BitVec 16) (s : State) (hs : s.Sound F) : State.Sound F (counterReadCmd bad o tag first n s) := by
  unfold counterReadCmd
  try dsimp only
  repeat' (first
      | with_reducible assumption | (with_reducible intro _) | with_reducible apply clearSeen_sound
      | with_reducible apply reply_sound | with_reducible apply runCmd_sound | split)

theorem execCounterRead_sound {F : Kept} (o : Origin) (tag : BitVec 32) (first : BitVec 16) (count : BitVec 16)
    (s : State) (hs : s.Sound F) : SoundOut F (execCounterRead o tag first count s) := by
  unfold execCounterRead
  try dsimp only
  repeat' (first
      | with_reducible exact soundOut_fault | (with_reducible apply soundOut_next)
      | (with_reducible refine soundOut_ite ?_ ?_) | with_reducible assumption | (with_reducible intro _)
      | with_reducible apply counterReadCmd_sound | (dsimp only))

theorem streamCountersReadCmd_sound {F : Kept} (bad : Bool) (o : Origin) (tag : BitVec 32) (polder : PolderId)
    (stream : BitVec 16) (peer : BitVec 16) (direction : BitVec 8) (s : State) (hs : s.Sound F) : State.Sound F
    (streamCountersReadCmd bad o tag polder stream peer direction s) := by
  unfold streamCountersReadCmd
  try dsimp only
  repeat' (first
      | with_reducible assumption | (with_reducible intro _) | with_reducible apply reply_sound
      | with_reducible apply runCmd_sound | (with_reducible refine ite_sound ?_ ?_) | split
      | (with_reducible refine sound_upd ?_ rfl rfl rfl rfl rfl rfl rfl rfl))

theorem execStreamCountersRead_sound {F : Kept} (o : Origin) (tag : BitVec 32) (polder : PolderId)
    (stream : BitVec 16) (peer : BitVec 16) (direction : BitVec 8) (s : State) (hs : s.Sound F) : SoundOut F
    (execStreamCountersRead o tag polder stream peer direction s) := by
  unfold execStreamCountersRead
  try dsimp only
  repeat' (first
      | with_reducible exact soundOut_fault | (with_reducible apply soundOut_next)
      | (with_reducible refine soundOut_ite ?_ ?_) | with_reducible assumption | (with_reducible intro _)
      | with_reducible apply streamCountersReadCmd_sound | (dsimp only))

theorem polderCountersReadCmd_sound {F : Kept} (bad : Bool) (o : Origin) (tag : BitVec 32) (polder : PolderId)
    (s : State) (hs : s.Sound F) : State.Sound F (polderCountersReadCmd bad o tag polder s) := by
  unfold polderCountersReadCmd
  try dsimp only
  repeat' (first
      | with_reducible assumption | (with_reducible intro _) | with_reducible apply reply_sound
      | with_reducible apply runCmd_sound | split
      | (with_reducible refine sound_upd ?_ rfl rfl rfl rfl rfl rfl rfl rfl))

theorem execPolderCountersRead_sound {F : Kept} (o : Origin) (tag : BitVec 32) (polder : PolderId) (s : State)
    (hs : s.Sound F) : SoundOut F (execPolderCountersRead o tag polder s) := by
  unfold execPolderCountersRead
  try dsimp only
  repeat' (first
      | with_reducible exact soundOut_fault | (with_reducible apply soundOut_next)
      | (with_reducible refine soundOut_ite ?_ ?_) | with_reducible assumption | (with_reducible intro _)
      | with_reducible apply polderCountersReadCmd_sound | (dsimp only))

theorem configureTrace_sound {F : Kept} (size : Nat) (enable : Bool) (mask : BitVec 64) (s : State)
    (hs : s.Sound F) : State.Sound F (configureTrace size enable mask s) := by
  unfold configureTrace
  try dsimp only
  repeat' (first
      | with_reducible assumption | with_reducible apply poolGive_sound | with_reducible apply poolTake_sound
      | with_reducible apply wakeDomain_sound | (with_reducible refine ite_sound ?_ ?_) | split
      | (with_reducible refine sound_upd ?_ rfl rfl rfl rfl rfl rfl rfl rfl))

theorem traceConfigCmd_sound {F : Kept} (bad : Bool) (o : Origin) (tag : BitVec 32) (size : BitVec 16)
    (enable : BitVec 8) (mask : BitVec 64) (s : State) (hs : s.Sound F) : State.Sound F
    (traceConfigCmd bad o tag size enable mask s) := by
  unfold traceConfigCmd
  try dsimp only
  repeat' (first
      | with_reducible assumption | (with_reducible intro _) | with_reducible apply configureTrace_sound
      | with_reducible apply reply_sound | with_reducible apply runCmd_sound | split)

theorem execTraceConfig_sound {F : Kept} (o : Origin) (tag : BitVec 32) (sizeMib : BitVec 16) (enable : BitVec 8)
    (mask : BitVec 64) (s : State) (hs : s.Sound F) : SoundOut F (execTraceConfig o tag sizeMib enable mask s) := by
  unfold execTraceConfig
  try dsimp only
  repeat' (first
      | with_reducible exact soundOut_fault | (with_reducible apply soundOut_next)
      | (with_reducible refine soundOut_ite ?_ ?_) | with_reducible assumption | (with_reducible intro _)
      | with_reducible apply traceConfigCmd_sound | (dsimp only))

theorem traceFetchCmd_sound {F : Kept} (bad : Bool) (o : Origin) (tag : BitVec 32) (offset : BitVec 64)
    (length : BitVec 16) (s : State) (hs : s.Sound F) : State.Sound F
    (traceFetchCmd bad o tag offset length s) := by
  unfold traceFetchCmd
  try dsimp only
  repeat' (first
      | with_reducible assumption | (with_reducible intro _) | with_reducible apply reply_sound
      | with_reducible apply runCmd_sound | split)

theorem execTraceFetch_sound {F : Kept} (o : Origin) (tag : BitVec 32) (offset : BitVec 64) (length : BitVec 16)
    (s : State) (hs : s.Sound F) : SoundOut F (execTraceFetch o tag offset length s) := by
  unfold execTraceFetch
  try dsimp only
  repeat' (first
      | with_reducible exact soundOut_fault | (with_reducible apply soundOut_next)
      | (with_reducible refine soundOut_ite ?_ ?_) | with_reducible assumption | (with_reducible intro _)
      | with_reducible apply traceFetchCmd_sound | (dsimp only))

end Sys2Proof.Machine
end

