-- ==== Sys2Proof/Laws/SoundSpdm.lean ====
section
/-! SUPPORT. What the operations of Machine/Spdm.lean keep: memories in canonical form, registers in range, blown
fuses and bounded fault rings (State.Sound). -/

namespace Sys2Proof.Machine

theorem answerFrame_sound {F : Kept} (sl : Sluice) (kind : Byte) (tag : BitVec 32) (st : Status) (payload : Bytes)
    (s : State) (hs : s.Sound F) : State.Sound F (answerFrame sl kind tag st payload s) := by
  unfold answerFrame
  try dsimp only
  repeat' (first
      | with_reducible assumption | with_reducible apply writeResponse_sound | split
      | (with_reducible refine sound_upd ?_ rfl rfl rfl rfl rfl rfl rfl rfl))

theorem endRequest_sound {F : Kept} (sl : Sluice) (session : Option (BitVec 32)) (st : Status) (s : State)
    (hs : s.Sound F) : State.Sound F (endRequest sl session st s) := by
  unfold endRequest
  try dsimp only
  repeat' (first
      | with_reducible assumption | with_reducible apply answerFrame_sound | with_reducible apply emit_sound
      | split)

theorem sendSpdm_sound {F : Kept} (sl : Sluice) (session : Option (BitVec 32)) (a : SpdmAnswer) (s : State)
    (hs : s.Sound F) : State.Sound F (sendSpdm sl session a s) := by
  unfold sendSpdm
  try dsimp only
  repeat' (first
      | with_reducible assumption | (with_reducible intro _) | with_reducible apply answerFrame_sound
      | with_reducible apply emit_sound | with_reducible apply endRequest_sound
      | with_reducible apply inlineJob_sound | with_reducible apply modSession_sound
      | (with_reducible refine ite_sound ?_ ?_) | (with_reducible refine ite_pair_sound ?_ ?_)
      | (with_reducible refine ite_trip_sound ?_ ?_) | split
      | (refine sound_of_pair (by with_reducible assumption) ?_)
      | (refine sound_of_trip (by with_reducible assumption) ?_)
      | (with_reducible refine sound_upd ?_ rfl rfl rfl rfl rfl rfl rfl rfl) | (dsimp only))

theorem runSpdm_sound {F : Kept} (sl : Sluice) (session : Option (BitVec 32)) (f : State → SpdmAnswer × State)
    (s : State) (hs : s.Sound F) (h_f : ∀ (s : State), s.Sound F → (f s).2.Sound F) : State.Sound F
    (runSpdm sl session f s) := by
  unfold runSpdm
  try dsimp only
  repeat' (first
      | with_reducible assumption | with_reducible apply chunkAnswer_sound | with_reducible apply endRequest_sound
      | with_reducible apply sendSpdm_sound | with_reducible apply h_f | (with_reducible refine ite_sound ?_ ?_)
      | (with_reducible refine ite_pair_sound ?_ ?_) | (with_reducible refine ite_trip_sound ?_ ?_) | split
      | (refine sound_of_pair (by with_reducible assumption) ?_)
      | (refine sound_of_trip (by with_reducible assumption) ?_)
      | (with_reducible refine sound_upd ?_ rfl rfl rfl rfl rfl rfl rfl rfl) | (dsimp only))

theorem negotiated_sound {F : Kept} (sl : Sluice) (f : State → SpdmAnswer × State) (s : State) (hs : s.Sound F)
    (h_f : ∀ (s : State), s.Sound F → (f s).2.Sound F) : State.Sound F (negotiated sl f s).2 := by
  unfold negotiated
  try dsimp only
  repeat' (first
      | with_reducible assumption | with_reducible apply h_f | (with_reducible refine ite_sound ?_ ?_)
      | (with_reducible refine ite_pair_sound ?_ ?_) | (with_reducible refine ite_trip_sound ?_ ?_) | split
      | (dsimp only))

theorem inSession_sound {F : Kept} (sl : Sluice) (session : Option (BitVec 32))
    (f : Session → State → SpdmAnswer × State) (s : State) (hs : s.Sound F) (h_f : ∀ x0 (s : State), s.Sound F →
    (f x0 s).2.Sound F) : State.Sound F (inSession sl session f s).2 := by
  unfold inSession
  try dsimp only
  repeat' (first
      | with_reducible assumption | (with_reducible intro _) | with_reducible apply h_f
      | (with_reducible refine ite_pair_sound ?_ ?_) | (with_reducible refine ite_trip_sound ?_ ?_) | split
      | (refine sound_of_pair (by with_reducible assumption) ?_)
      | (refine sound_of_trip (by with_reducible assumption) ?_)
      | (with_reducible refine sound_upd ?_ rfl rfl rfl rfl rfl rfl rfl rfl) | (dsimp only))

theorem dropSession_sound {F : Kept} (id : BitVec 32) (sl : Sluice) (s : State) (hs : s.Sound F) : State.Sound F
    (dropSession id sl s) := by
  unfold dropSession
  try dsimp only
  repeat' (first
      | with_reducible assumption | (with_reducible intro _) | with_reducible apply modSpdm_sound
      | (with_reducible apply id_sound) | (with_reducible refine sound_upd ?_ rfl rfl rfl rfl rfl rfl rfl rfl))

theorem spdmVersion_sound {F : Kept} (sl : Sluice) (s : State) (hs : s.Sound F) : State.Sound F
    (spdmVersion sl s).2 := by
  unfold spdmVersion
  try dsimp only
  repeat' (first
      | with_reducible assumption | (with_reducible intro _) | with_reducible apply modSpdm_sound
      | (with_reducible refine ite_pair_sound ?_ ?_) | (with_reducible refine ite_trip_sound ?_ ?_)
      | (with_reducible refine sound_upd ?_ rfl rfl rfl rfl rfl rfl rfl rfl) | (dsimp only))

theorem spdmCapabilities_sound {F : Kept} (s : State) (hs : s.Sound F) : State.Sound F (spdmCapabilities s).2 := by
  unfold spdmCapabilities
  try dsimp only
  repeat' (first
      | with_reducible assumption | (with_reducible refine ite_pair_sound ?_ ?_)
      | (with_reducible refine ite_trip_sound ?_ ?_) | (dsimp only))

theorem spdmAlgorithms_sound {F : Kept} (sl : Sluice) (request : Bytes) (s : State) (hs : s.Sound F) : State.Sound F
    (spdmAlgorithms sl request s).2 := by
  unfold spdmAlgorithms
  try dsimp only
  repeat' (first
      | with_reducible assumption | (with_reducible intro _) | with_reducible apply modSpdm_sound
      | (with_reducible refine ite_sound ?_ ?_) | (with_reducible refine ite_pair_sound ?_ ?_)
      | (with_reducible refine ite_trip_sound ?_ ?_) | split
      | (with_reducible refine sound_upd ?_ rfl rfl rfl rfl rfl rfl rfl rfl) | (dsimp only))

theorem spdmDigests_sound {F : Kept} (s : State) (hs : s.Sound F) : State.Sound F (spdmDigests s).2 := by
  unfold spdmDigests
  try dsimp only
  repeat' (first
      | with_reducible assumption | (with_reducible refine ite_pair_sound ?_ ?_)
      | (with_reducible refine ite_trip_sound ?_ ?_) | split | (dsimp only))

theorem spdmCertificate_sound {F : Kept} (slot : BitVec 8) (offset : Nat) (length : Nat) (s : State)
    (hs : s.Sound F) : State.Sound F (spdmCertificate slot offset length s).2 := by
  unfold spdmCertificate
  try dsimp only
  repeat' (first
      | with_reducible assumption | (with_reducible refine ite_sound ?_ ?_)
      | (with_reducible refine ite_pair_sound ?_ ?_) | (with_reducible refine ite_trip_sound ?_ ?_) | split
      | (dsimp only))

theorem signTranscript_sound {F : Kept} (sl : Sluice) (r : SpdmRequest) (a : SpdmAnswer) (s : State)
    (hs : s.Sound F) : State.Sound F (signTranscript sl r a s).2.2 := by
  unfold signTranscript
  try dsimp only
  repeat' (first
      | with_reducible assumption | (with_reducible intro _) | with_reducible apply modSpdm_sound
      | (with_reducible refine ite_pair_sound ?_ ?_) | (with_reducible refine ite_trip_sound ?_ ?_)
      | (with_reducible refine sound_upd ?_ rfl rfl rfl rfl rfl rfl rfl rfl) | (dsimp only))

theorem noted_sound {F : Kept} (sl : Sluice) (session : Option (BitVec 32)) (r : SpdmRequest)
    (f : State → SpdmAnswer × State) (s : State) (hs : s.Sound F) (h_f : ∀ (s : State), s.Sound F →
    (f s).2.Sound F) : State.Sound F (noted sl session r f s).2 := by
  unfold noted
  try dsimp only
  repeat' (first
      | with_reducible assumption | (with_reducible intro _) | with_reducible apply modSpdm_sound
      | with_reducible apply h_f | (with_reducible refine ite_sound ?_ ?_)
      | (with_reducible refine ite_pair_sound ?_ ?_) | (with_reducible refine ite_trip_sound ?_ ?_) | split
      | (with_reducible refine sound_upd ?_ rfl rfl rfl rfl rfl rfl rfl rfl) | (dsimp only))

theorem drawNonce_sound {F : Kept} (s : State) (hs : s.Sound F) : State.Sound F (drawNonce s).2 := by
  unfold drawNonce
  try dsimp only
  repeat' (first
      | with_reducible assumption | with_reducible apply drbgDraw_sound
      | (with_reducible refine ite_pair_sound ?_ ?_) | (with_reducible refine ite_trip_sound ?_ ?_) | (dsimp only))

theorem spdmChallenge_sound {F : Kept} (sl : Sluice) (slot : BitVec 8) (nonce : BitVec 256) (s : State)
    (hs : s.Sound F) : State.Sound F (spdmChallenge sl slot nonce s).2 := by
  unfold spdmChallenge
  try dsimp only
  repeat' (first
      | with_reducible assumption | with_reducible apply drawNonce_sound | with_reducible apply signTranscript_sound
      | (with_reducible refine ite_sound ?_ ?_) | (with_reducible refine ite_pair_sound ?_ ?_)
      | (with_reducible refine ite_trip_sound ?_ ?_) | split | (dsimp only))

theorem spdmMeasurements_sound {F : Kept} (sl : Sluice) (index : BitVec 8) (signed : Bool) (nonce : BitVec 256)
    (s : State) (hs : s.Sound F) : State.Sound F (spdmMeasurements sl index signed nonce s).2 := by
  unfold spdmMeasurements
  try dsimp only
  repeat' (first
      | with_reducible assumption | (with_reducible intro _) | with_reducible apply drawNonce_sound
      | with_reducible apply signTranscript_sound | (with_reducible refine ite_sound ?_ ?_)
      | (with_reducible refine ite_pair_sound ?_ ?_) | (with_reducible refine ite_trip_sound ?_ ?_) | split
      | (refine sound_of_pair (by with_reducible assumption) ?_)
      | (refine sound_of_trip (by with_reducible assumption) ?_)
      | (with_reducible refine sound_upd ?_ rfl rfl rfl rfl rfl rfl rfl rfl) | (dsimp only))

theorem spdmPqSignature_sound {F : Kept} (sl : Sluice) (s : State) (hs : s.Sound F) : State.Sound F
    (spdmPqSignature sl s).2 := by
  unfold spdmPqSignature
  try dsimp only
  repeat' (first
      | with_reducible assumption | (with_reducible refine ite_pair_sound ?_ ?_)
      | (with_reducible refine ite_trip_sound ?_ ?_) | split
      | (refine sound_of_pair (by with_reducible assumption) ?_)
      | (refine sound_of_trip (by with_reducible assumption) ?_)
      | (with_reducible refine sound_upd ?_ rfl rfl rfl rfl rfl rfl rfl rfl) | (dsimp only))

theorem spdmKemOffer_sound {F : Kept} (sl : Sluice) (key : Bytes) (s : State) (hs : s.Sound F) : State.Sound F
    (spdmKemOffer sl key s).2 := by
  unfold spdmKemOffer
  try dsimp only
  repeat' (first
      | with_reducible assumption | (with_reducible intro _) | with_reducible apply drbgDraw_sound
      | with_reducible apply modSpdm_sound | (with_reducible refine ite_sound ?_ ?_)
      | (with_reducible refine ite_pair_sound ?_ ?_) | (with_reducible refine ite_trip_sound ?_ ?_) | split
      | (with_reducible refine sound_upd ?_ rfl rfl rfl rfl rfl rfl rfl rfl) | (dsimp only))

theorem spdmKeyExchange_sound {F : Kept} (sl : Sluice) (half : BitVec 16) (share : Bytes) (kemHash : Digest)
    (wantMutual : Bool) (s : State) (hs : s.Sound F) : State.Sound F
    (spdmKeyExchange sl half share kemHash wantMutual s).2 := by
  unfold spdmKeyExchange
  try dsimp only
  repeat' (first
      | with_reducible assumption | (with_reducible intro _) | with_reducible apply drbgDraw_sound
      | with_reducible apply modSpdm_sound | with_reducible apply signTranscript_sound
      | (with_reducible apply id_sound) | (with_reducible refine ite_sound ?_ ?_)
      | (with_reducible refine ite_pair_sound ?_ ?_) | (with_reducible refine ite_trip_sound ?_ ?_) | split
      | (refine sound_of_pair (by with_reducible assumption) ?_)
      | (refine sound_of_trip (by with_reducible assumption) ?_)
      | (with_reducible refine sound_upd ?_ rfl rfl rfl rfl rfl rfl rfl rfl) | (dsimp only))

theorem spdmNextRequest_sound {F : Kept} (x : Session) (s : State) (hs : s.Sound F) : State.Sound F
    (spdmNextRequest x s).2 := by
  unfold spdmNextRequest
  try dsimp only
  repeat' (first
      | with_reducible assumption | (with_reducible intro _) | with_reducible apply modSession_sound
      | (with_reducible refine ite_sound ?_ ?_) | (with_reducible refine ite_pair_sound ?_ ?_)
      | (with_reducible refine ite_trip_sound ?_ ?_) | split
      | (with_reducible refine sound_upd ?_ rfl rfl rfl rfl rfl rfl rfl rfl) | (dsimp only))

theorem spdmDelivered_sound {F : Kept} (x : Session) (chain : Bytes) (signature : Bytes) (s : State)
    (hs : s.Sound F) : State.Sound F (spdmDelivered x chain signature s).2 := by
  unfold spdmDelivered
  try dsimp only
  repeat' (first
      | with_reducible assumption | (with_reducible intro _) | with_reducible apply dropSession_sound
      | with_reducible apply modSession_sound | (with_reducible refine ite_sound ?_ ?_)
      | (with_reducible refine ite_pair_sound ?_ ?_) | (with_reducible refine ite_trip_sound ?_ ?_) | split
      | (with_reducible refine sound_upd ?_ rfl rfl rfl rfl rfl rfl rfl rfl) | (dsimp only))

theorem spdmFinish_sound {F : Kept} (x : Session) (verify : Digest) (s : State) (hs : s.Sound F) : State.Sound F
    (spdmFinish x verify s).2 := by
  unfold spdmFinish
  try dsimp only
  repeat' (first
      | with_reducible assumption | (with_reducible intro _) | with_reducible apply dropSession_sound
      | with_reducible apply modSession_sound | (with_reducible refine ite_sound ?_ ?_)
      | (with_reducible refine ite_pair_sound ?_ ?_) | (with_reducible refine ite_trip_sound ?_ ?_) | split
      | (with_reducible refine sound_upd ?_ rfl rfl rfl rfl rfl rfl rfl rfl) | (dsimp only))

theorem spdmHeartbeat_sound {F : Kept} (x : Session) (s : State) (hs : s.Sound F) : State.Sound F
    (spdmHeartbeat x s).2 := by
  unfold spdmHeartbeat
  try dsimp only
  repeat' (first
      | with_reducible assumption | (with_reducible refine ite_sound ?_ ?_)
      | (with_reducible refine ite_pair_sound ?_ ?_) | (with_reducible refine ite_trip_sound ?_ ?_) | split
      | (dsimp only))

theorem spdmKeyUpdate_sound {F : Kept} (x : Session) (both : Bool) (s : State) (hs : s.Sound F) : State.Sound F
    (spdmKeyUpdate x both s).2 := by
  unfold spdmKeyUpdate
  try dsimp only
  repeat' (first
      | with_reducible assumption | (with_reducible intro _) | with_reducible apply modSession_sound
      | (with_reducible refine ite_sound ?_ ?_) | (with_reducible refine ite_pair_sound ?_ ?_)
      | (with_reducible refine ite_trip_sound ?_ ?_) | split
      | (with_reducible refine sound_upd ?_ rfl rfl rfl rfl rfl rfl rfl rfl) | (dsimp only))

theorem spdmEnded_sound {F : Kept} (unused : Session) (s : State) (hs : s.Sound F) : State.Sound F
    (spdmEnded unused s).2 := by
  unfold spdmEnded
  try dsimp only
  repeat' (first
      | with_reducible assumption | (with_reducible refine ite_pair_sound ?_ ?_)
      | (with_reducible refine ite_trip_sound ?_ ?_) | (dsimp only))

theorem endSessionSpdm_sound {F : Kept} (sl : Sluice) (session : Option (BitVec 32)) (s : State) (hs : s.Sound F) :
    State.Sound F (endSessionSpdm sl session s) := by
  unfold endSessionSpdm
  try dsimp only
  repeat' (first
      | with_reducible assumption | (with_reducible intro _) | with_reducible apply dropSession_sound
      | with_reducible apply inSession_sound | with_reducible apply runSpdm_sound
      | with_reducible apply spdmEnded_sound | (with_reducible apply foldl_sound)
      | (with_reducible apply foldl_pair_sound) | (with_reducible apply foldl_trip_sound)
      | (with_reducible apply id_sound) | (with_reducible exact soundOpt_none)
      | (with_reducible apply soundOpt_some) | (refine sound_of_opt (by with_reducible assumption) ?_)
      | (with_reducible refine ite_sound ?_ ?_) | (with_reducible refine ite_pair_sound ?_ ?_)
      | (with_reducible refine ite_trip_sound ?_ ?_) | split
      | (refine sound_of_pair (by with_reducible assumption) ?_)
      | (refine sound_of_trip (by with_reducible assumption) ?_)
      | (with_reducible refine sound_upd ?_ rfl rfl rfl rfl rfl rfl rfl rfl)
      | (with_reducible refine stackWriteN_upd ?_ rfl rfl rfl rfl rfl rfl rfl rfl)
      | (with_reducible refine devicesWriteN_upd ?_ rfl rfl rfl rfl rfl rfl rfl rfl)
      | (with_reducible refine stackFill_upd ?_ rfl rfl rfl rfl rfl rfl rfl rfl)
      | (with_reducible refine stackErase_upd ?_ rfl rfl rfl rfl rfl rfl rfl rfl) | (dsimp only))

theorem spdmChunkGet_sound {F : Kept} (sl : Sluice) (handle : BitVec 8) (seq : BitVec 16) (s : State)
    (hs : s.Sound F) : State.Sound F (spdmChunkGet sl handle seq s).2 := by
  unfold spdmChunkGet
  try dsimp only
  repeat' (first
      | with_reducible assumption | (with_reducible intro _) | with_reducible apply modSpdm_sound
      | (with_reducible refine ite_sound ?_ ?_) | (with_reducible refine ite_pair_sound ?_ ?_)
      | (with_reducible refine ite_trip_sound ?_ ?_) | split
      | (refine sound_of_pair (by with_reducible assumption) ?_)
      | (refine sound_of_trip (by with_reducible assumption) ?_)
      | (with_reducible refine sound_upd ?_ rfl rfl rfl rfl rfl rfl rfl rfl) | (dsimp only))

theorem spdmChunkSend_sound {F : Kept} (sl : Sluice) (handle : BitVec 8) (last : Bool) (data : Bytes) (s : State)
    (hs : s.Sound F) : State.Sound F (spdmChunkSend sl handle last data s).2 := by
  unfold spdmChunkSend
  try dsimp only
  repeat' (first
      | with_reducible assumption | (with_reducible intro _) | with_reducible apply modSpdm_sound
      | (with_reducible refine ite_sound ?_ ?_) | (with_reducible refine ite_pair_sound ?_ ?_)
      | (with_reducible refine ite_trip_sound ?_ ?_) | split
      | (with_reducible refine sound_upd ?_ rfl rfl rfl rfl rfl rfl rfl rfl) | (dsimp only))

end Sys2Proof.Machine
end

