-- ==== Sys2Proof/Laws/SoundFrames.lean ====
section
/-! SUPPORT. What the operations of Machine/Frames.lean keep: memories in canonical form, registers in range, blown
fuses and bounded fault rings (State.Sound). -/

namespace Sys2Proof.Machine

theorem unassigned_sound {F : Kept} (o : Origin) (tag : BitVec 32) (opcode : BitVec 16) (s : State)
    (hs : s.Sound F) : State.Sound F (unassigned o tag opcode s) := by
  unfold unassigned
  try dsimp only
  repeat' (first
      | with_reducible assumption | with_reducible apply refuse_sound | (with_reducible refine ite_sound ?_ ?_)
      | split)

theorem polderFrame_sound {F : Kept} (low : Nat) (o : Origin) (tag : BitVec 32) (bad : Bool) (p : Bytes) (s : State)
    (hs : s.Sound F) : State.Sound F (polderFrame low o tag bad p s) := by
  unfold polderFrame
  try dsimp only
  repeat' (first
      | with_reducible assumption | with_reducible apply polderListCmd_sound
      | with_reducible apply polderMembershipCmd_sound | with_reducible apply polderProvisionCmd_sound
      | with_reducible apply polderTeardownCmd_sound | with_reducible apply unassigned_sound
      | (with_reducible apply id_sound) | split
      | (with_reducible refine sound_upd ?_ rfl rfl rfl rfl rfl rfl rfl rfl))

theorem keyFrame_sound {F : Kept} (low : Nat) (o : Origin) (tag : BitVec 32) (bad : Bool) (p : Bytes) (s : State)
    (hs : s.Sound F) : State.Sound F (keyFrame low o tag bad p s) := by
  unfold keyFrame
  try dsimp only
  repeat' (first
      | with_reducible assumption | with_reducible apply keySlotPinCmd_sound
      | with_reducible apply keySlotStatusCmd_sound | with_reducible apply keySlotUnpinCmd_sound
      | with_reducible apply unassigned_sound | split
      | (with_reducible refine sound_upd ?_ rfl rfl rfl rfl rfl rfl rfl rfl))

theorem plotFrame_sound {F : Kept} (low : Nat) (o : Origin) (tag : BitVec 32) (bad : Bool) (p : Bytes) (s : State)
    (hs : s.Sound F) : State.Sound F (plotFrame low o tag bad p s) := by
  unfold plotFrame
  try dsimp only
  repeat' (first
      | with_reducible assumption | with_reducible apply memobjCreateCmd_sound
      | with_reducible apply memobjFreeCmd_sound | with_reducible apply plotAssignCmd_sound
      | with_reducible apply plotQueryCmd_sound | with_reducible apply plotReleaseCmd_sound
      | with_reducible apply unassigned_sound | (with_reducible apply id_sound) | split
      | (with_reducible refine sound_upd ?_ rfl rfl rfl rfl rfl rfl rfl rfl))

theorem objectFrame_sound {F : Kept} (low : Nat) (o : Origin) (tag : BitVec 32) (bad : Bool) (p : Bytes) (s : State)
    (hs : s.Sound F) : State.Sound F (objectFrame low o tag bad p s) := by
  unfold objectFrame
  try dsimp only
  repeat' (first
      | with_reducible assumption | with_reducible apply contextCreateCmd_sound
      | with_reducible apply contextDestroyCmd_sound | with_reducible apply eventRingCreateCmd_sound
      | with_reducible apply eventRingDestroyCmd_sound | with_reducible apply fenceCreateCmd_sound
      | with_reducible apply fenceDestroyCmd_sound | with_reducible apply fenceShareCmd_sound
      | with_reducible apply queueCreateCmd_sound | with_reducible apply queueDestroyCmd_sound
      | with_reducible apply unassigned_sound | (with_reducible apply id_sound) | split
      | (with_reducible refine sound_upd ?_ rfl rfl rfl rfl rfl rfl rfl rfl))

theorem regionFrame_sound {F : Kept} (low : Nat) (o : Origin) (tag : BitVec 32) (bad : Bool) (p : Bytes) (s : State)
    (hs : s.Sound F) : State.Sound F (regionFrame low o tag bad p s) := by
  unfold regionFrame
  try dsimp only
  repeat' (first
      | with_reducible assumption | with_reducible apply regionExportCmd_sound
      | with_reducible apply regionQueryCmd_sound | with_reducible apply regionWithdrawCmd_sound
      | with_reducible apply unassigned_sound | split
      | (with_reducible refine sound_upd ?_ rfl rfl rfl rfl rfl rfl rfl rfl))

theorem extentFrame_sound {F : Kept} (low : Nat) (o : Origin) (tag : BitVec 32) (bad : Bool) (p : Bytes) (s : State)
    (hs : s.Sound F) : State.Sound F (extentFrame low o tag bad p s) := by
  unfold extentFrame
  try dsimp only
  repeat' (first
      | with_reducible assumption | with_reducible apply extentGrantCmd_sound
      | with_reducible apply extentHandoverCmd_sound | with_reducible apply extentHintCmd_sound
      | with_reducible apply extentRekeyCmd_sound | with_reducible apply extentRenewCmd_sound
      | with_reducible apply extentRevokeCmd_sound | with_reducible apply extentStatusCmd_sound
      | with_reducible apply trayRebuildRateCmd_sound | with_reducible apply trayStatusCmd_sound
      | with_reducible apply unassigned_sound | (with_reducible apply id_sound) | split
      | (with_reducible refine sound_upd ?_ rfl rfl rfl rfl rfl rfl rfl rfl))

theorem groupFrame_sound {F : Kept} (low : Nat) (o : Origin) (tag : BitVec 32) (bad : Bool) (p : Bytes) (s : State)
    (hs : s.Sound F) : State.Sound F (groupFrame low o tag bad p s) := by
  unfold groupFrame
  try dsimp only
  repeat' (first
      | with_reducible assumption | (with_reducible intro _) | with_reducible apply collectiveGroupDefineCmd_sound
      | with_reducible apply collectiveGroupDestroyCmd_sound | with_reducible apply groupQueryCmd_sound
      | with_reducible apply mcastGroupJoinCmd_sound | with_reducible apply mcastGroupLeaveCmd_sound
      | with_reducible apply ringCreateCmd_sound | with_reducible apply ringDestroyCmd_sound
      | with_reducible apply ringMemberDeadCmd_sound | with_reducible apply unassigned_sound | split
      | (with_reducible refine sound_upd ?_ rfl rfl rfl rfl rfl rfl rfl rfl))

theorem syncFrame_sound {F : Kept} (low : Nat) (o : Origin) (tag : BitVec 32) (bad : Bool) (p : Bytes) (s : State)
    (hs : s.Sound F) : State.Sound F (syncFrame low o tag bad p s) := by
  unfold syncFrame
  try dsimp only
  repeat' (first
      | with_reducible assumption | with_reducible apply contextStepReadCmd_sound
      | with_reducible apply datumConfigCmd_sound | with_reducible apply datumStatusCmd_sound
      | with_reducible apply markQueueStatusCmd_sound | with_reducible apply syncCounterReadCmd_sound
      | with_reducible apply unassigned_sound | split
      | (with_reducible refine sound_upd ?_ rfl rfl rfl rfl rfl rfl rfl rfl))

theorem chartFrame_sound {F : Kept} (low : Nat) (o : Origin) (tag : BitVec 32) (bad : Bool) (p : Bytes) (s : State)
    (hs : s.Sound F) : State.Sound F (chartFrame low o tag bad p s) := by
  unfold chartFrame
  try dsimp only
  repeat' (first
      | with_reducible assumption | with_reducible apply chartDiscardCmd_sound
      | with_reducible apply chartExportCmd_sound | with_reducible apply chartImportCmd_sound
      | with_reducible apply chartResumeCmd_sound | with_reducible apply unassigned_sound
      | (with_reducible apply id_sound) | split
      | (with_reducible refine sound_upd ?_ rfl rfl rfl rfl rfl rfl rfl rfl))

theorem weirFrame_sound {F : Kept} (low : Nat) (o : Origin) (tag : BitVec 32) (bad : Bool) (p : Bytes) (s : State)
    (hs : s.Sound F) : State.Sound F (weirFrame low o tag bad p s) := by
  unfold weirFrame
  try dsimp only
  repeat' (first
      | with_reducible assumption | with_reducible apply unassigned_sound | with_reducible apply weirConfigCmd_sound
      | with_reducible apply weirStatusCmd_sound | split
      | (with_reducible refine sound_upd ?_ rfl rfl rfl rfl rfl rfl rfl rfl))

theorem observeFrame_sound {F : Kept} (low : Nat) (o : Origin) (tag : BitVec 32) (bad : Bool) (p : Bytes)
    (s : State) (hs : s.Sound F) : State.Sound F (observeFrame low o tag bad p s) := by
  unfold observeFrame
  try dsimp only
  repeat' (first
      | with_reducible assumption | with_reducible apply counterReadCmd_sound
      | with_reducible apply polderCountersReadCmd_sound | with_reducible apply streamCountersReadCmd_sound
      | with_reducible apply traceConfigCmd_sound | with_reducible apply traceFetchCmd_sound
      | with_reducible apply unassigned_sound | split
      | (with_reducible refine sound_upd ?_ rfl rfl rfl rfl rfl rfl rfl rfl))

theorem lcFrame_sound {F : Kept} (low : Nat) (o : Origin) (tag : BitVec 32) (bad : Bool) (p : Bytes) (s : State)
    (hs : s.Sound F) : State.Sound F (lcFrame low o tag bad p s) := by
  unfold lcFrame
  try dsimp only
  repeat' (first
      | with_reducible assumption | with_reducible apply debugAuthoriseCmd_sound
      | with_reducible apply debugCloseCmd_sound | with_reducible apply lcChallengeCmd_sound
      | with_reducible apply lcStatusCmd_sound | with_reducible apply lcTransitionCmd_sound
      | with_reducible apply unassigned_sound | split
      | (with_reducible refine sound_upd ?_ rfl rfl rfl rfl rfl rfl rfl rfl))

theorem gaugeFrame_sound {F : Kept} (low : Nat) (o : Origin) (tag : BitVec 32) (bad : Bool) (p : Bytes) (s : State)
    (hs : s.Sound F) : State.Sound F (gaugeFrame low o tag bad p s) := by
  unfold gaugeFrame
  try dsimp only
  repeat' (first
      | with_reducible assumption | with_reducible apply gaugeCountersReadCmd_sound
      | with_reducible apply gaugeIdentityCmd_sound | with_reducible apply gaugeRecordFetchCmd_sound
      | with_reducible apply gaugeRecordReleaseCmd_sound | with_reducible apply unassigned_sound | split
      | (with_reducible refine sound_upd ?_ rfl rfl rfl rfl rfl rfl rfl rfl))

theorem resetFrame_sound {F : Kept} (o : Origin) (tag : BitVec 32) (bad : Bool) (p : Bytes) (s : State)
    (hs : s.Sound F) : State.Sound F (resetFrame o tag bad p s) := by
  unfold resetFrame
  try dsimp only
  repeat' (first
      | with_reducible assumption | (with_reducible intro _) | with_reducible apply resetBlockCmd_sound
      | with_reducible apply resetContextCmd_sound | with_reducible apply resetEngineCmd_sound
      | with_reducible apply resetPolderCmd_sound | with_reducible apply resetVfCmd_sound
      | with_reducible apply runCmd_sound | (with_reducible apply id_sound) | split
      | (with_reducible refine sound_upd ?_ rfl rfl rfl rfl rfl rfl rfl rfl))

theorem faultFrame_sound {F : Kept} (low : Nat) (o : Origin) (tag : BitVec 32) (bad : Bool) (p : Bytes) (s : State)
    (hs : s.Sound F) : State.Sound F (faultFrame low o tag bad p s) := by
  unfold faultFrame
  try dsimp only
  repeat' (first
      | with_reducible assumption | with_reducible apply crashDumpReadCmd_sound
      | with_reducible apply faultReadCmd_sound | with_reducible apply floodwatchConfigCmd_sound
      | with_reducible apply resetFrame_sound | with_reducible apply serviceReleaseCmd_sound
      | with_reducible apply stragglerReadCmd_sound | with_reducible apply unassigned_sound | split
      | (with_reducible refine sound_upd ?_ rfl rfl rfl rfl rfl rfl rfl rfl))

theorem firmwareFrame_sound {F : Kept} (low : Nat) (o : Origin) (tag : BitVec 32) (bad : Bool) (p : Bytes)
    (s : State) (hs : s.Sound F) : State.Sound F (firmwareFrame low o tag bad p s) := by
  unfold firmwareFrame
  try dsimp only
  repeat' (first
      | with_reducible assumption | with_reducible apply firmwareActivateCmd_sound
      | with_reducible apply firmwareCommitSvnCmd_sound | with_reducible apply firmwareStageCmd_sound
      | with_reducible apply identityReadCmd_sound | with_reducible apply surveyReadCmd_sound
      | with_reducible apply unassigned_sound | split
      | (with_reducible refine sound_upd ?_ rfl rfl rfl rfl rfl rfl rfl rfl))

theorem runFrame_sound {F : Kept} (o : Origin) (tag : BitVec 32) (opcode : BitVec 16) (bad : Bool) (p : Bytes)
    (s : State) (hs : s.Sound F) : State.Sound F (runFrame o tag opcode bad p s) := by
  unfold runFrame
  try dsimp only
  repeat' (first
      | with_reducible assumption | with_reducible apply chartFrame_sound | with_reducible apply extentFrame_sound
      | with_reducible apply faultFrame_sound | with_reducible apply firmwareFrame_sound
      | with_reducible apply gaugeFrame_sound | with_reducible apply groupFrame_sound
      | with_reducible apply keyFrame_sound | with_reducible apply lcFrame_sound
      | with_reducible apply objectFrame_sound | with_reducible apply observeFrame_sound
      | with_reducible apply plotFrame_sound | with_reducible apply polderFrame_sound
      | with_reducible apply regionFrame_sound | with_reducible apply syncFrame_sound
      | with_reducible apply unassigned_sound | with_reducible apply weirFrame_sound | split
      | (with_reducible refine sound_upd ?_ rfl rfl rfl rfl rfl rfl rfl rfl))

theorem refuseFrame_sound {F : Kept} (o : Origin) (kind : Byte) (tag : BitVec 32) (st : Status) (s : State)
    (hs : s.Sound F) : State.Sound F (refuseFrame o kind tag st s) := by
  unfold refuseFrame
  try dsimp only
  repeat' (first
      | with_reducible assumption | with_reducible apply answerFrame_sound | with_reducible apply emit_sound)

theorem fetchResult_sound {F : Kept} (o : Origin) (tag : BitVec 32) (s : State) (hs : s.Sound F) : State.Sound F
    (fetchResult o tag s) := by
  unfold fetchResult
  try dsimp only
  repeat' (first
      | with_reducible assumption | (with_reducible intro _) | with_reducible apply answerAs_sound
      | with_reducible apply refuseFrame_sound | (with_reducible refine ite_sound ?_ ?_) | split
      | (with_reducible refine sound_upd ?_ rfl rfl rfl rfl rfl rfl rfl rfl))

theorem fetchFrame_sound {F : Kept} (o : Origin) (tag : BitVec 32) (s : State) (hs : s.Sound F) : State.Sound F
    (fetchFrame o tag s) := by
  unfold fetchFrame
  try dsimp only
  repeat' (first
      | with_reducible assumption | with_reducible apply fetchResult_sound | with_reducible apply refuseFrame_sound
      | (with_reducible refine ite_sound ?_ ?_) | split
      | (with_reducible refine sound_upd ?_ rfl rfl rfl rfl rfl rfl rfl rfl))

theorem execFetch_sound {F : Kept} (o : Origin) (tag : BitVec 32) (s : State) (hs : s.Sound F) : SoundOut F
    (execFetch o tag s) := by
  unfold execFetch
  try dsimp only
  repeat' (first
      | with_reducible exact soundOut_fault | (with_reducible apply soundOut_next)
      | (with_reducible refine soundOut_ite ?_ ?_) | with_reducible assumption | (with_reducible intro _)
      | with_reducible apply fetchFrame_sound | (dsimp only))

theorem plainSpdm_sound {F : Kept} (sl : Sluice) (n : Option (BitVec 32)) (r : SpdmRequest) (s : State)
    (hs : s.Sound F) : State.Sound F (plainSpdm sl n r s) := by
  unfold plainSpdm
  try dsimp only
  repeat' (first
      | with_reducible assumption | (with_reducible intro _) | with_reducible apply endSessionSpdm_sound
      | with_reducible apply inSession_sound | with_reducible apply negotiated_sound
      | with_reducible apply noted_sound | with_reducible apply runSpdm_sound
      | with_reducible apply spdmAlgorithms_sound | with_reducible apply spdmCapabilities_sound
      | with_reducible apply spdmCertificate_sound | with_reducible apply spdmChallenge_sound
      | with_reducible apply spdmChunkGet_sound | with_reducible apply spdmChunkSend_sound
      | with_reducible apply spdmDelivered_sound | with_reducible apply spdmDigests_sound
      | with_reducible apply spdmFinish_sound | with_reducible apply spdmHeartbeat_sound
      | with_reducible apply spdmKemOffer_sound | with_reducible apply spdmKeyExchange_sound
      | with_reducible apply spdmKeyUpdate_sound | with_reducible apply spdmMeasurements_sound
      | with_reducible apply spdmNextRequest_sound | with_reducible apply spdmPqSignature_sound
      | with_reducible apply spdmVersion_sound | (with_reducible refine ite_pair_sound ?_ ?_)
      | (with_reducible refine ite_trip_sound ?_ ?_) | split
      | (refine sound_of_pair (by with_reducible assumption) ?_)
      | (refine sound_of_trip (by with_reducible assumption) ?_)
      | (with_reducible refine sound_upd ?_ rfl rfl rfl rfl rfl rfl rfl rfl) | (dsimp only))

theorem vendorMessage_sound {F : Kept} (sl : Sluice) (n : BitVec 32) (r : SpdmRequest) (s : State)
    (hs : s.Sound F) : State.Sound F (vendorMessage sl n r s) := by
  unfold vendorMessage
  try dsimp only
  repeat' (first
      | with_reducible assumption | with_reducible apply plainSpdm_sound | with_reducible apply polderFrame_sound
      | with_reducible apply refuseFrame_sound | with_reducible apply runFrame_sound
      | (with_reducible refine ite_sound ?_ ?_) | split
      | (with_reducible refine sound_upd ?_ rfl rfl rfl rfl rfl rfl rfl rfl))

theorem countRecord_sound {F : Kept} (sl : Sluice) (n : Option (BitVec 32)) (s : State) (hs : s.Sound F) :
    State.Sound F (countRecord sl n s) := by
  unfold countRecord
  try dsimp only
  repeat' (first
      | with_reducible assumption | (with_reducible intro _) | with_reducible apply modSession_sound | split
      | (with_reducible refine sound_upd ?_ rfl rfl rfl rfl rfl rfl rfl rfl))

theorem handleSpdm_sound {F : Kept} (sl : Sluice) (n : Option (BitVec 32)) (r : SpdmRequest) (s : State)
    (hs : s.Sound F) : State.Sound F (handleSpdm sl n r s) := by
  unfold handleSpdm
  try dsimp only
  repeat' (first
      | with_reducible assumption | (with_reducible intro _) | with_reducible apply countRecord_sound
      | with_reducible apply endRequest_sound | with_reducible apply plainSpdm_sound
      | with_reducible apply vendorMessage_sound | (with_reducible refine ite_sound ?_ ?_) | split
      | (with_reducible refine sound_upd ?_ rfl rfl rfl rfl rfl rfl rfl rfl))

theorem execGetVersion_sound {F : Kept} (sl : Sluice) (s : State) (hs : s.Sound F) : SoundOut F
    (execGetVersion sl s) := by
  unfold execGetVersion
  try dsimp only
  repeat' (first
      | with_reducible exact soundOut_fault | (with_reducible apply soundOut_next)
      | (with_reducible refine soundOut_ite ?_ ?_) | with_reducible assumption | (with_reducible intro _)
      | with_reducible apply handleSpdm_sound | (dsimp only))

theorem execGetCapabilities_sound {F : Kept} (sl : Sluice) (s : State) (hs : s.Sound F) : SoundOut F
    (execGetCapabilities sl s) := by
  unfold execGetCapabilities
  try dsimp only
  repeat' (first
      | with_reducible exact soundOut_fault | (with_reducible apply soundOut_next)
      | (with_reducible refine soundOut_ite ?_ ?_) | with_reducible assumption | (with_reducible intro _)
      | with_reducible apply handleSpdm_sound | (dsimp only))

theorem execNegotiateAlgorithms_sound {F : Kept} (sl : Sluice) (request : Bytes) (s : State) (hs : s.Sound F) :
    SoundOut F (execNegotiateAlgorithms sl request s) := by
  unfold execNegotiateAlgorithms
  try dsimp only
  repeat' (first
      | with_reducible exact soundOut_fault | (with_reducible apply soundOut_next)
      | (with_reducible refine soundOut_ite ?_ ?_) | with_reducible assumption | (with_reducible intro _)
      | with_reducible apply handleSpdm_sound | (dsimp only))

theorem execGetDigests_sound {F : Kept} (sl : Sluice) (s : State) (hs : s.Sound F) : SoundOut F
    (execGetDigests sl s) := by
  unfold execGetDigests
  try dsimp only
  repeat' (first
      | with_reducible exact soundOut_fault | (with_reducible apply soundOut_next)
      | (with_reducible refine soundOut_ite ?_ ?_) | with_reducible assumption | (with_reducible intro _)
      | with_reducible apply handleSpdm_sound | (dsimp only))

theorem execGetCertificate_sound {F : Kept} (sl : Sluice) (slot : BitVec 8) (offset : Nat) (length : Nat)
    (s : State) (hs : s.Sound F) : SoundOut F (execGetCertificate sl slot offset length s) := by
  unfold execGetCertificate
  try dsimp only
  repeat' (first
      | with_reducible exact soundOut_fault | (with_reducible apply soundOut_next)
      | (with_reducible refine soundOut_ite ?_ ?_) | with_reducible assumption | (with_reducible intro _)
      | with_reducible apply handleSpdm_sound | split | (dsimp only))

theorem execChallenge_sound {F : Kept} (sl : Sluice) (slot : BitVec 8) (nonce : BitVec 256) (s : State)
    (hs : s.Sound F) : SoundOut F (execChallenge sl slot nonce s) := by
  unfold execChallenge
  try dsimp only
  repeat' (first
      | with_reducible exact soundOut_fault | (with_reducible apply soundOut_next)
      | (with_reducible refine soundOut_ite ?_ ?_) | with_reducible assumption | (with_reducible intro _)
      | with_reducible apply handleSpdm_sound | (dsimp only))

theorem execGetMeasurements_sound {F : Kept} (sl : Sluice) (index : BitVec 8) (signed : Bool) (nonce : BitVec 256)
    (s : State) (hs : s.Sound F) : SoundOut F (execGetMeasurements sl index signed nonce s) := by
  unfold execGetMeasurements
  try dsimp only
  repeat' (first
      | with_reducible exact soundOut_fault | (with_reducible apply soundOut_next)
      | (with_reducible refine soundOut_ite ?_ ?_) | with_reducible assumption | (with_reducible intro _)
      | with_reducible apply handleSpdm_sound | (dsimp only))

theorem execKemOffer_sound {F : Kept} (sl : Sluice) (key : Bytes) (s : State) (hs : s.Sound F) : SoundOut F
    (execKemOffer sl key s) := by
  unfold execKemOffer
  try dsimp only
  repeat' (first
      | with_reducible exact soundOut_fault | (with_reducible apply soundOut_next)
      | (with_reducible refine soundOut_ite ?_ ?_) | with_reducible assumption | (with_reducible intro _)
      | with_reducible apply handleSpdm_sound | (dsimp only))

theorem execKeyExchange_sound {F : Kept} (sl : Sluice) (session : BitVec 16) (share : Bytes) (kemHash : Digest)
    (wantMutual : Bool) (s : State) (hs : s.Sound F) : SoundOut F
    (execKeyExchange sl session share kemHash wantMutual s) := by
  unfold execKeyExchange
  try dsimp only
  repeat' (first
      | with_reducible exact soundOut_fault | (with_reducible apply soundOut_next)
      | (with_reducible refine soundOut_ite ?_ ?_) | with_reducible assumption | (with_reducible intro _)
      | with_reducible apply handleSpdm_sound | (dsimp only))

theorem execFinish_sound {F : Kept} (sl : Sluice) (session : BitVec 32) (verify : Digest) (s : State)
    (hs : s.Sound F) : SoundOut F (execFinish sl session verify s) := by
  unfold execFinish
  try dsimp only
  repeat' (first
      | with_reducible exact soundOut_fault | (with_reducible apply soundOut_next)
      | (with_reducible refine soundOut_ite ?_ ?_) | with_reducible assumption | (with_reducible intro _)
      | with_reducible apply handleSpdm_sound | split | (dsimp only))

theorem execPqSignature_sound {F : Kept} (sl : Sluice) (s : State) (hs : s.Sound F) : SoundOut F
    (execPqSignature sl s) := by
  unfold execPqSignature
  try dsimp only
  repeat' (first
      | with_reducible exact soundOut_fault | (with_reducible apply soundOut_next)
      | (with_reducible refine soundOut_ite ?_ ?_) | with_reducible assumption | (with_reducible intro _)
      | with_reducible apply handleSpdm_sound | (dsimp only))

theorem execHeartbeat_sound {F : Kept} (sl : Sluice) (session : BitVec 32) (s : State) (hs : s.Sound F) : SoundOut F
    (execHeartbeat sl session s) := by
  unfold execHeartbeat
  try dsimp only
  repeat' (first
      | with_reducible exact soundOut_fault | (with_reducible apply soundOut_next)
      | (with_reducible refine soundOut_ite ?_ ?_) | with_reducible assumption | (with_reducible intro _)
      | with_reducible apply handleSpdm_sound | (dsimp only))

theorem execKeyUpdate_sound {F : Kept} (sl : Sluice) (session : BitVec 32) (both : Bool) (s : State)
    (hs : s.Sound F) : SoundOut F (execKeyUpdate sl session both s) := by
  unfold execKeyUpdate
  try dsimp only
  repeat' (first
      | with_reducible exact soundOut_fault | (with_reducible apply soundOut_next)
      | (with_reducible refine soundOut_ite ?_ ?_) | with_reducible assumption | (with_reducible intro _)
      | with_reducible apply handleSpdm_sound | (dsimp only))

theorem execEndSession_sound {F : Kept} (sl : Sluice) (session : BitVec 32) (s : State) (hs : s.Sound F) :
    SoundOut F (execEndSession sl session s) := by
  unfold execEndSession
  try dsimp only
  repeat' (first
      | with_reducible exact soundOut_fault | (with_reducible apply soundOut_next)
      | (with_reducible refine soundOut_ite ?_ ?_) | with_reducible assumption | (with_reducible intro _)
      | with_reducible apply handleSpdm_sound | (dsimp only))

theorem execChunkSend_sound {F : Kept} (sl : Sluice) (handle : BitVec 8) (last : Bool) (data : Bytes) (s : State)
    (hs : s.Sound F) : SoundOut F (execChunkSend sl handle last data s) := by
  unfold execChunkSend
  try dsimp only
  repeat' (first
      | with_reducible exact soundOut_fault | (with_reducible apply soundOut_next)
      | (with_reducible refine soundOut_ite ?_ ?_) | with_reducible assumption | (with_reducible intro _)
      | with_reducible apply handleSpdm_sound | (dsimp only))

theorem execChunkGet_sound {F : Kept} (sl : Sluice) (handle : BitVec 8) (seq : BitVec 16) (s : State)
    (hs : s.Sound F) : SoundOut F (execChunkGet sl handle seq s) := by
  unfold execChunkGet
  try dsimp only
  repeat' (first
      | with_reducible exact soundOut_fault | (with_reducible apply soundOut_next)
      | (with_reducible refine soundOut_ite ?_ ?_) | with_reducible assumption | (with_reducible intro _)
      | with_reducible apply handleSpdm_sound | (dsimp only))

theorem execUnsupportedRequest_sound {F : Kept} (sl : Sluice) (code : BitVec 8) (s : State) (hs : s.Sound F) :
    SoundOut F (execUnsupportedRequest sl code s) := by
  unfold execUnsupportedRequest
  try dsimp only
  repeat' (first
      | with_reducible exact soundOut_fault | (with_reducible apply soundOut_next)
      | (with_reducible refine soundOut_ite ?_ ?_) | with_reducible assumption | (with_reducible intro _)
      | with_reducible apply handleSpdm_sound | (dsimp only))

theorem execDeliverEncapsulatedResponse_sound {F : Kept} (sl : Sluice) (session : BitVec 32) (chain : Bytes)
    (signature : Bytes) (s : State) (hs : s.Sound F) : SoundOut F
    (execDeliverEncapsulatedResponse sl session chain signature s) := by
  unfold execDeliverEncapsulatedResponse
  try dsimp only
  repeat' (first
      | with_reducible exact soundOut_fault | (with_reducible apply soundOut_next)
      | (with_reducible refine soundOut_ite ?_ ?_) | with_reducible assumption | (with_reducible intro _)
      | with_reducible apply handleSpdm_sound | (dsimp only))

theorem execGetEncapsulatedRequest_sound {F : Kept} (sl : Sluice) (session : BitVec 32) (s : State)
    (hs : s.Sound F) : SoundOut F (execGetEncapsulatedRequest sl session s) := by
  unfold execGetEncapsulatedRequest
  try dsimp only
  repeat' (first
      | with_reducible exact soundOut_fault | (with_reducible apply soundOut_next)
      | (with_reducible refine soundOut_ite ?_ ?_) | with_reducible assumption | (with_reducible intro _)
      | with_reducible apply handleSpdm_sound | (dsimp only))

theorem execKemOfferExpiry_sound {F : Kept} (sl : Sluice) (s : State) (hs : s.Sound F) : SoundOut F
    (execKemOfferExpiry sl s) := by
  unfold execKemOfferExpiry
  try dsimp only
  repeat' (first
      | with_reducible exact soundOut_fault | (with_reducible apply soundOut_next)
      | (with_reducible refine soundOut_ite ?_ ?_) | with_reducible assumption | (with_reducible intro _)
      | with_reducible apply modSpdm_sound | (with_reducible refine ite_sound ?_ ?_) | split
      | (with_reducible refine sound_upd ?_ rfl rfl rfl rfl rfl rfl rfl rfl) | (dsimp only))

theorem securedRecord_sound {F : Kept} (sl : Sluice) (n : Option (BitVec 32)) (record : Bytes) (s : State)
    (hs : s.Sound F) : State.Sound F (securedRecord sl n record s) := by
  unfold securedRecord
  try dsimp only
  repeat' (first
      | with_reducible assumption | (with_reducible intro _) | with_reducible apply dropSession_sound
      | with_reducible apply handleSpdm_sound | with_reducible apply inlineJob_sound
      | with_reducible apply refuseFrame_sound | with_reducible apply sendSpdm_sound
      | (with_reducible refine ite_sound ?_ ?_) | (with_reducible refine ite_pair_sound ?_ ?_)
      | (with_reducible refine ite_trip_sound ?_ ?_) | split
      | (refine sound_of_pair (by with_reducible assumption) ?_)
      | (refine sound_of_trip (by with_reducible assumption) ?_)
      | (with_reducible refine sound_upd ?_ rfl rfl rfl rfl rfl rfl rfl rfl) | (dsimp only))

theorem securedFrame_sound {F : Kept} (sl : Sluice) (n : Option (BitVec 32)) (record : Bytes) (s : State)
    (hs : s.Sound F) : State.Sound F (securedFrame sl n record s) := by
  unfold securedFrame
  try dsimp only
  repeat' (first
      | with_reducible assumption | with_reducible apply refuseFrame_sound
      | with_reducible apply securedRecord_sound | (with_reducible refine ite_sound ?_ ?_) | split
      | (with_reducible refine sound_upd ?_ rfl rfl rfl rfl rfl rfl rfl rfl))

theorem execSecuredMessage_sound {F : Kept} (o : Origin) (record : Bytes) (s : State) (hs : s.Sound F) : SoundOut F
    (execSecuredMessage o record s) := by
  unfold execSecuredMessage
  try dsimp only
  repeat' (first
      | with_reducible exact soundOut_fault | (with_reducible apply soundOut_next)
      | (with_reducible refine soundOut_ite ?_ ?_) | with_reducible assumption | (with_reducible intro _)
      | with_reducible apply securedFrame_sound | (dsimp only))

theorem mailboxFrame_sound {F : Kept} (fn : FnId) (s : State) (hs : s.Sound F) : State.Sound F
    (mailboxFrame fn s) := by
  unfold mailboxFrame
  try dsimp only
  repeat' (first
      | with_reducible assumption | with_reducible apply fetchFrame_sound | with_reducible apply handleSpdm_sound
      | with_reducible apply refuseFrame_sound | with_reducible apply reply_sound
      | with_reducible apply runFrame_sound | with_reducible apply securedFrame_sound
      | (with_reducible refine ite_sound ?_ ?_) | split
      | (with_reducible refine sound_upd ?_ rfl rfl rfl rfl rfl rfl rfl rfl))

theorem ringDoorbell_sound {F : Kept} (fn : FnId) (s : State) (hs : s.Sound F) : State.Sound F
    (ringDoorbell fn s) := by
  unfold ringDoorbell
  try dsimp only
  repeat' (first
      | with_reducible assumption | with_reducible apply count_sound | with_reducible apply mailboxFrame_sound
      | with_reducible apply setMailbox_sound | (with_reducible refine ite_sound ?_ ?_) | split
      | (with_reducible refine sound_upd ?_ rfl rfl rfl rfl rfl rfl rfl rfl))

theorem execMailboxDoorbell_sound {F : Kept} (fn : FnId) (s : State) (hs : s.Sound F) : SoundOut F
    (execMailboxDoorbell fn s) := by
  unfold execMailboxDoorbell
  try dsimp only
  repeat' (first
      | with_reducible exact soundOut_fault | (with_reducible apply soundOut_next)
      | (with_reducible refine soundOut_ite ?_ ?_) | with_reducible assumption | (with_reducible intro _)
      | with_reducible apply ringDoorbell_sound | (dsimp only))

end Sys2Proof.Machine
end

