-- ==== Sys2Proof/Laws/SoundRegisters.lean ====
section
/-! SUPPORT. What the operations of Machine/Registers.lean keep: memories in canonical form, registers in range, blown
fuses and bounded fault rings (State.Sound). -/

namespace Sys2Proof.Machine

theorem seenRead_sound {F : Kept} (off : Nat) (s : State) (hs : s.Sound F) : State.Sound F (seenRead off s) := by
  unfold seenRead
  try dsimp only
  repeat' (first
      | with_reducible assumption | with_reducible apply clearSeen_sound | (with_reducible refine ite_sound ?_ ?_)
      | split)

theorem readWide_sound {F : Kept} (w : Window) (off : Nat) (s : State) (hs : s.Sound F) : State.Sound F
    (readWide w off s).2 := by
  unfold readWide
  try dsimp only
  repeat' (first
      | with_reducible assumption | with_reducible apply seenRead_sound | (with_reducible refine ite_sound ?_ ?_)
      | (with_reducible refine ite_pair_sound ?_ ?_) | (with_reducible refine ite_trip_sound ?_ ?_) | split
      | (refine sound_of_pair (by with_reducible assumption) ?_)
      | (refine sound_of_trip (by with_reducible assumption) ?_)
      | (with_reducible refine sound_upd ?_ rfl rfl rfl rfl rfl rfl rfl rfl) | (dsimp only))

theorem ranged_bounds {old v low high : Nat} (h : low ≤ old ∧ old ≤ high) :
    low ≤ ranged old v low high ∧ ranged old v low high ≤ high := by
  unfold ranged
  split
  · rename_i c
    simp only [Bool.and_eq_true, decide_eq_true_eq] at c
    exact c
  · exact h

theorem mem_assocSet {κ ν : Type} [DecidableEq κ] {k : κ} {v : ν} {l : List (κ × ν)} {x : κ × ν}
    (h : x ∈ assocSet k v l) : x = (k, v) ∨ x ∈ l := by
  induction l with
  | nil => exact .inl (List.mem_singleton.mp h)
  | cons y t ih =>
    obtain ⟨k', v'⟩ := y
    unfold assocSet at h
    split at h
    · rcases List.mem_cons.mp h with h | h
      · exact .inl h
      · exact .inr (List.mem_cons_of_mem _ h)
    · rcases List.mem_cons.mp h with h | h
      · exact .inr (h ▸ List.mem_cons_self)
      · exact (ih h).imp id (List.mem_cons_of_mem _)

theorem assocGet_bounds {k : Nat} {l : List (Nat × Nat)} (h : ∀ x ∈ l, 1 ≤ x.2 ∧ x.2 ≤ 1000) :
    1 ≤ assocGet k 20 l ∧ assocGet k 20 l ≤ 1000 := by
  induction l with
  | nil => exact ⟨Nat.le_of_ble_eq_true rfl, Nat.le_of_ble_eq_true rfl⟩
  | cons y t ih =>
    obtain ⟨a, b⟩ := y
    simp only [assocGet, List.lookup_cons]
    by_cases c : k = a
    · subst c
      simpa using h (k, b) List.mem_cons_self
    · have e : (k == a) = false := beq_false_of_ne c
      simpa [e, assocGet] using ih fun x hx => h x (List.mem_cons_of_mem _ hx)

theorem readLow_sound {F : Kept} (w : Window) (off : Nat) (v : BitVec 64) (s : State) (hs : s.Sound F) :
    State.Sound F (readLow w off v s).2 := by
  unfold readLow
  dsimp only
  refine seenRead_sound _ _ ?_
  exact regs_upd hs rfl rfl hs.2.1 rfl rfl rfl rfl rfl


theorem readHigh_sound {F : Kept} (w : Window) (base : Nat) (v : BitVec 64) (s : State) (hs : s.Sound F) :
    State.Sound F (readHigh w base v s).2 := by
  unfold readHigh
  split
  · exact regs_upd hs rfl rfl hs.2.1 rfl rfl rfl rfl rfl
  · exact seenRead_sound _ _ hs


theorem readNarrow_sound {F : Kept} (w : Window) (off : Nat) (s : State) (hs : s.Sound F) : State.Sound F
    (readNarrow w off s).2 := by
  unfold readNarrow
  try dsimp only
  repeat' (first
      | with_reducible assumption | with_reducible apply readHigh_sound | with_reducible apply readLow_sound
      | (with_reducible refine ite_sound ?_ ?_) | (with_reducible refine ite_pair_sound ?_ ?_)
      | (with_reducible refine ite_trip_sound ?_ ?_) | split
      | (refine sound_of_pair (by with_reducible assumption) ?_)
      | (refine sound_of_trip (by with_reducible assumption) ?_)
      | (with_reducible refine sound_upd ?_ rfl rfl rfl rfl rfl rfl rfl rfl) | (dsimp only))

theorem answerRead_sound {F : Kept} (w : Window) (off : Nat) (wide : Bool) (s : State) (hs : s.Sound F) :
    State.Sound F (answerRead w off wide s) := by
  unfold answerRead
  try dsimp only
  repeat' (first
      | with_reducible assumption | with_reducible apply emit_sound | with_reducible apply readNarrow_sound
      | with_reducible apply readWide_sound | (with_reducible refine ite_sound ?_ ?_)
      | (with_reducible refine ite_pair_sound ?_ ?_) | (with_reducible refine ite_trip_sound ?_ ?_) | split
      | (dsimp only))

theorem inTracerDomain_sound {F : Kept} (work : RegWork) (serve : State → State) (s : State) (hs : s.Sound F)
    (h_serve : ∀ s : State, s.Sound F → (serve s).Sound F) : State.Sound F (inTracerDomain work serve s) := by
  unfold inTracerDomain
  try dsimp only
  repeat' (first
      | with_reducible assumption | with_reducible apply markWork_sound | with_reducible apply wakeDomain_sound
      | with_reducible apply h_serve | (with_reducible refine ite_sound ?_ ?_) | split
      | (with_reducible refine sound_upd ?_ rfl rfl rfl rfl rfl rfl rfl rfl))

theorem readWindow_sound {F : Kept} (w : Window) (off : Nat) (wide : Bool) (s : State) (hs : s.Sound F) :
    State.Sound F (readWindow w off wide s) := by
  unfold readWindow
  try dsimp only
  repeat' (first
      | with_reducible assumption | (with_reducible intro _) | with_reducible apply answerRead_sound
      | with_reducible apply inTracerDomain_sound | (with_reducible refine ite_sound ?_ ?_) | split)

theorem execRegRead_sound {F : Kept} (offset : BitVec 20) (wide : Bool) (s : State) (hs : s.Sound F) : SoundOut F
    (execRegRead offset wide s) := by
  unfold execRegRead
  try dsimp only
  repeat' (first
      | with_reducible exact soundOut_fault | (with_reducible apply soundOut_next)
      | (with_reducible refine soundOut_ite ?_ ?_) | with_reducible assumption | (with_reducible intro _)
      | with_reducible apply emit_sound | with_reducible apply readWindow_sound
      | (with_reducible refine ite_sound ?_ ?_) | split | (dsimp only))

theorem execLowHalfRead_sound {F : Kept} (window : Window) (offset : BitVec 20) (s : State) (hs : s.Sound F) :
    SoundOut F (execLowHalfRead window offset s) := by
  unfold execLowHalfRead
  try dsimp only
  repeat' (first
      | with_reducible exact soundOut_fault | (with_reducible apply soundOut_next)
      | (with_reducible refine soundOut_ite ?_ ?_) | with_reducible assumption | (with_reducible intro _)
      | with_reducible apply emit_sound | with_reducible apply readWindow_sound
      | (with_reducible refine ite_sound ?_ ?_) | split | (dsimp only))

theorem execCounterRegisterRead_sound {F : Kept} (index : BitVec 10) (wide : Bool) (s : State) (hs : s.Sound F) :
    SoundOut F (execCounterRegisterRead index wide s) := by
  unfold execCounterRegisterRead
  try dsimp only
  repeat' (first
      | with_reducible exact soundOut_fault | (with_reducible apply soundOut_next)
      | (with_reducible refine soundOut_ite ?_ ?_) | with_reducible assumption | (with_reducible intro _)
      | with_reducible apply readWindow_sound | (with_reducible refine ite_sound ?_ ?_) | split | (dsimp only))

theorem writeConfig_sound {F : Kept} (off : Nat) (v : BitVec 32) (s : State) (hs : s.Sound F) :
    State.Sound F (writeConfig off v s) := by
  obtain ⟨g1, g2, w1, w2, t1, t2, wd⟩ := hs.2.1
  unfold writeConfig
  dsimp only
  split
  · have hg := ranged_bounds (v := (v.extractLsb' 0 10).toNat) ⟨g1, g2⟩
    exact regs_upd hs rfl rfl ⟨hg.1, hg.2, w1, w2, t1, t2, wd⟩ rfl rfl rfl rfl rfl
  · split
    · exact hs
    have hw := ranged_bounds (v := (v.extractLsb' 0 14).toNat) ⟨w1, w2⟩
    exact regs_upd hs rfl rfl ⟨g1, g2, hw.1, hw.2, t1, t2, wd⟩ rfl rfl rfl rfl rfl
  · have ht := ranged_bounds (v := (v.extractLsb' 0 20).toNat) ⟨t1, t2⟩
    exact regs_upd hs rfl rfl ⟨g1, g2, w1, w2, ht.1, ht.2, wd⟩ rfl rfl rfl rfl rfl
  · split
    · refine regs_upd hs rfl rfl ⟨g1, g2, w1, w2, t1, t2, ?_⟩ rfl rfl rfl rfl rfl
      intro x hx
      rcases mem_assocSet hx with rfl | hx
      · refine ranged_bounds ?_
        rename_i c
        unfold wdogPeriod at c ⊢
        split
        · exact assocGet_bounds wd
        · rename_i n
          simp [n] at c
      · exact wd x hx
    · exact hs


theorem writeRequest_sound {F : Kept} (fn : FnId) (off : Nat) (v : BitVec 32) (s : State) (hs : s.Sound F) :
    State.Sound F (writeRequest fn off v s) := by
  unfold writeRequest
  try dsimp only
  repeat' (first
      | with_reducible assumption | with_reducible apply setMailbox_sound | (with_reducible refine ite_sound ?_ ?_)
      | split | (with_reducible refine sound_upd ?_ rfl rfl rfl rfl rfl rfl rfl rfl)
      | (with_reducible refine stackWriteN_upd ?_ rfl rfl rfl rfl rfl rfl rfl rfl)
      | (with_reducible refine devicesWriteN_upd ?_ rfl rfl rfl rfl rfl rfl rfl rfl))

theorem writeRingHead_sound {F : Kept} (fn : FnId) (e : BitVec 9) (v : BitVec 32) (s : State) (hs : s.Sound F) :
    State.Sound F (writeRingHead fn e v s) := by
  unfold writeRingHead
  try dsimp only
  repeat' (first
      | with_reducible assumption | with_reducible apply setArm_sound | with_reducible apply writeHead_sound
      | (with_reducible refine ite_sound ?_ ?_) | split)

theorem writeDirty_sound {F : Kept} (n : VfId) (r : Nat) (x : BitVec 32) (s : State) (hs : s.Sound F) :
    State.Sound F (writeDirty n r x s) := by
  unfold writeDirty
  try dsimp only
  repeat' (first
      | with_reducible assumption | (with_reducible intro _) | with_reducible apply modVf_sound
      | (with_reducible refine ite_sound ?_ ?_) | split
      | (with_reducible refine sound_upd ?_ rfl rfl rfl rfl rfl rfl rfl rfl))

theorem writeDirtyCtrl_sound {F : Kept} (n : VfId) (x : BitVec 32) (s : State) (hs : s.Sound F) : State.Sound F
    (writeDirtyCtrl n x s) := by
  unfold writeDirtyCtrl
  try dsimp only
  repeat' (first
      | with_reducible assumption | (with_reducible intro _) | with_reducible apply modVf_sound
      | with_reducible apply setDirty_sound | with_reducible apply setSwap_sound
      | (with_reducible refine ite_sound ?_ ?_) | split
      | (with_reducible refine sound_upd ?_ rfl rfl rfl rfl rfl rfl rfl rfl))

theorem writeVf_sound {F : Kept} (off : Nat) (x : BitVec 32) (s : State) (hs : s.Sound F) : State.Sound F
    (writeVf off x s) := by
  unfold writeVf
  try dsimp only
  repeat' (first
      | with_reducible assumption | (with_reducible intro _) | with_reducible apply modVf_sound
      | with_reducible apply reqLock_sound | with_reducible apply reqRun_sound
      | with_reducible apply reqUnlock_sound | with_reducible apply writeAllot_sound
      | with_reducible apply writeDirty_sound | with_reducible apply writeDirtyCtrl_sound
      | (with_reducible refine ite_sound ?_ ?_) | split
      | (with_reducible refine sound_upd ?_ rfl rfl rfl rfl rfl rfl rfl rfl))

theorem setProf_sound {F : Kept} (i : BitVec 6) (x : BitVec 32) (s : State) (hs : s.Sound F) : State.Sound F
    (setProf i x s) := by
  unfold setProf
  try dsimp only
  repeat' (first
      | with_reducible assumption | (with_reducible intro _) | with_reducible apply profReset_sound
      | (with_reducible refine sound_upd ?_ rfl rfl rfl rfl rfl rfl rfl rfl))

theorem writeProf_sound {F : Kept} (i : BitVec 6) (x : BitVec 32) (s : State) (hs : s.Sound F) : State.Sound F
    (writeProf i x s) := by
  unfold writeProf
  try dsimp only
  repeat' (first
      | with_reducible assumption | (with_reducible intro _) | with_reducible apply inTracerDomain_sound
      | with_reducible apply setProf_sound | (with_reducible refine ite_sound ?_ ?_) | split)

theorem execProfSelWrite_sound {F : Kept} (index : BitVec 6) (value : BitVec 64) (s : State) (hs : s.Sound F) :
    SoundOut F (execProfSelWrite index value s) := by
  unfold execProfSelWrite
  try dsimp only
  repeat' (first
      | with_reducible exact soundOut_fault | (with_reducible apply soundOut_next)
      | (with_reducible refine soundOut_ite ?_ ?_) | with_reducible assumption | (with_reducible intro _)
      | with_reducible apply writeProf_sound | (dsimp only))

theorem write32_sound {F : Kept} (w : Window) (off : Nat) (x : BitVec 32) (s : State) (hs : s.Sound F) :
    State.Sound F (write32 w off x s) := by
  unfold write32
  try dsimp only
  repeat' (first
      | with_reducible assumption | with_reducible apply ringDoorbell_sound | with_reducible apply writeConfig_sound
      | with_reducible apply writeProf_sound | with_reducible apply writeRequest_sound
      | with_reducible apply writeRingHead_sound | with_reducible apply writeTail_sound
      | with_reducible apply writeVf_sound | (with_reducible refine ite_sound ?_ ?_) | split)

theorem execRegisterWrite_sound {F : Kept} (window : Window) (offset : BitVec 20) (wide : Bool) (value : BitVec 64)
    (s : State) (hs : s.Sound F) : SoundOut F (execRegisterWrite window offset wide value s) := by
  unfold execRegisterWrite
  try dsimp only
  repeat' (first
      | with_reducible exact soundOut_fault | (with_reducible apply soundOut_next)
      | (with_reducible refine soundOut_ite ?_ ?_) | with_reducible assumption | (with_reducible intro _)
      | with_reducible apply write32_sound | (with_reducible refine ite_sound ?_ ?_) | split | (dsimp only))

theorem serveRegs_sound {F : Kept} (s : State) (hs : s.Sound F) : State.Sound F (serveRegs s) := by
  unfold serveRegs
  try dsimp only
  repeat' (first
      | with_reducible assumption | (with_reducible intro _) | with_reducible apply answerRead_sound
      | with_reducible apply setProf_sound | (with_reducible apply foldl_sound) | split
      | (with_reducible refine sound_upd ?_ rfl rfl rfl rfl rfl rfl rfl rfl) | (dsimp only))

theorem restartDomain_sound {F : Kept} (d : DomainId) (s : State) (hs : s.Sound F) : State.Sound F
    (restartDomain d s) := by
  unfold restartDomain
  try dsimp only
  repeat' (first
      | with_reducible assumption | with_reducible apply domainServes_sound | with_reducible apply serveRegs_sound
      | (with_reducible refine ite_sound ?_ ?_) | split)

theorem execClockStopRelease_sound {F : Kept} (d : DomainId) (s : State) (hs : s.Sound F) : SoundOut F
    (execClockStopRelease d s) := by
  unfold execClockStopRelease
  try dsimp only
  repeat' (first
      | with_reducible exact soundOut_fault | (with_reducible apply soundOut_next)
      | (with_reducible refine soundOut_ite ?_ ?_) | with_reducible assumption | (with_reducible intro _)
      | with_reducible apply emitTrace_sound | with_reducible apply modPins_sound
      | with_reducible apply releaseTrace_sound | with_reducible apply restartDomain_sound
      | with_reducible apply tookFree_sound | (with_reducible refine ite_sound ?_ ?_) | split
      | (with_reducible refine sound_upd ?_ rfl rfl rfl rfl rfl rfl rfl rfl) | (dsimp only))

theorem execPowerGood_sound {F : Kept} (d : DomainId) (s : State) (hs : s.Sound F) : SoundOut F
    (execPowerGood d s) := by
  unfold execPowerGood
  try dsimp only
  repeat' (first
      | with_reducible exact soundOut_fault | (with_reducible apply soundOut_next)
      | (with_reducible refine soundOut_ite ?_ ?_) | with_reducible assumption | (with_reducible intro _)
      | with_reducible apply emitTrace_sound | with_reducible apply markWork_sound
      | with_reducible apply modPins_sound | with_reducible apply releaseTrace_sound
      | with_reducible apply reloadCopies_sound | with_reducible apply restartDomain_sound
      | (with_reducible refine ite_sound ?_ ?_) | split
      | (with_reducible refine sound_upd ?_ rfl rfl rfl rfl rfl rfl rfl rfl) | (dsimp only))

end Sys2Proof.Machine
end

