-- ==== Sys2Proof/Laws/SoundTick.lean ====
section
/-! SUPPORT. What the operations of Machine/Tick.lean keep: memories in canonical form, registers in range, blown
fuses and bounded fault rings (State.Sound). -/

namespace Sys2Proof.Machine

theorem gaugeTick_sound {F : Kept} (s : State) (hs : s.Sound F) : State.Sound F (gaugeTick s) := by
  unfold gaugeTick
  try dsimp only
  repeat' (first
      | with_reducible assumption | (with_reducible intro _) | with_reducible apply meter_sound
      | (with_reducible apply foldl_sound) | (with_reducible refine ite_sound ?_ ?_) | split
      | (with_reducible refine sound_upd ?_ rfl rfl rfl rfl rfl rfl rfl rfl) | (dsimp only))

theorem tick_sound {F : Kept} (s : State) (hs : s.Sound F) : State.Sound F (tick s) := by
  unfold tick
  try dsimp only
  repeat' (first
      | with_reducible assumption | with_reducible apply gaugeTick_sound | (with_reducible refine ite_sound ?_ ?_)
      | split | (with_reducible refine sound_upd ?_ rfl rfl rfl rfl rfl rfl rfl rfl))

end Sys2Proof.Machine
end

