-- ==== Sys2Proof/Laws/Warden.lean ====
section
/-! SUPPORT. What a Warden command does: it is refused by the checks before its own, or by its own, or it has its effect; and
what an answer holds. -/

namespace Sys2Proof.Machine

/-- A check before the command's own refuses it. -/
theorem runCmdIn_checked {ci : CmdInfo} {o : Origin} {tag : BitVec 32} {d m b : Bool} {s : State} {st : Status}
    (own : State → Option Status) (eff : State → State) (hr : running s = true)
    (h : cmdCheck ci o tag d m b s = some st) : runCmdIn ci o tag d m b own eff s = refuse o tag ci.opcode st s := by
  simp [runCmdIn, hr, h]

/-- The command's own check refuses it. -/
theorem runCmdIn_refused {ci : CmdInfo} {o : Origin} {tag : BitVec 32} {d m b : Bool} {s : State} {st : Status}
    {own : State → Option Status} (eff : State → State) (hr : running s = true)
    (h : cmdCheck ci o tag d m b s = none) (ho : own s = some st) :
    runCmdIn ci o tag d m b own eff s = refuse o tag ci.opcode st s := by
  simp [runCmdIn, hr, h, ho]

/-- No check refuses the command: it has its effect. -/
theorem runCmdIn_effect {ci : CmdInfo} {o : Origin} {tag : BitVec 32} {d m b : Bool} {s : State}
    {own : State → Option Status} (eff : State → State) (hr : running s = true)
    (h : cmdCheck ci o tag d m b s = none) (ho : own s = none) : runCmdIn ci o tag d m b own eff s = eff s := by
  simp [runCmdIn, hr, h, ho]

/-- Every Warden command is run by its row of R383's tables; POLDER_PROVISION is refused before that where its fields break
check 1 of R343. -/
theorem exec_warden (c : Instr) (ci : CmdInfo) (o : Origin) (tag : BitVec 32) (s : State)
    (h : wardenRow c = some (ci, o, tag)) :
    (∃ d m own eff, exec c s = .next (runCmdIn ci o tag d m (resetsBlock c) own eff s))
      ∨ (ci.opcode = 0x0101 ∧ exec c s = .next (refuse o tag ci.opcode .badParam s)) := by
  cases c
  case polderProvision =>
    cases h
    simp only [exec, execPolderProvision, polderProvisionCmd, runCmd, resetsBlock]
    split
    · exact .inr ⟨trivial, rfl⟩
    · exact .inl ⟨_, _, _, _, rfl⟩
  case polderMembership => cases h; simp only [exec, execPolderMembership, polderMembershipCmd, runCmd, resetsBlock]; exact .inl ⟨_, _, _, _, rfl⟩
  case polderTeardown => cases h; simp only [exec, execPolderTeardown, polderTeardownCmd, runCmd, resetsBlock]; exact .inl ⟨_, _, _, _, rfl⟩
  case polderList => cases h; simp only [exec, execPolderList, polderListCmd, runCmd, resetsBlock]; exact .inl ⟨_, _, _, _, rfl⟩
  case keySlotPin => cases h; simp only [exec, execKeySlotPin, keySlotPinCmd, runCmd, resetsBlock]; exact .inl ⟨_, _, _, _, rfl⟩
  case keySlotUnpin => cases h; simp only [exec, execKeySlotUnpin, keySlotUnpinCmd, runCmd, resetsBlock]; exact .inl ⟨_, _, _, _, rfl⟩
  case keySlotStatus => cases h; simp only [exec, execKeySlotStatus, keySlotStatusCmd, runCmd, resetsBlock]; exact .inl ⟨_, _, _, _, rfl⟩
  case plotAssign => cases h; simp only [exec, execPlotAssign, plotAssignCmd, runCmd, resetsBlock]; exact .inl ⟨_, _, _, _, rfl⟩
  case plotRelease => cases h; simp only [exec, execPlotRelease, plotReleaseCmd, runCmd, resetsBlock]; exact .inl ⟨_, _, _, _, rfl⟩
  case plotQuery => cases h; simp only [exec, execPlotQuery, plotQueryCmd, runCmd, resetsBlock]; exact .inl ⟨_, _, _, _, rfl⟩
  case memobjCreate => cases h; simp only [exec, execMemobjCreate, memobjCreateCmd, runCmd, resetsBlock]; exact .inl ⟨_, _, _, _, rfl⟩
  case memobjFree => cases h; simp only [exec, execMemobjFree, memobjFreeCmd, runCmd, resetsBlock]; exact .inl ⟨_, _, _, _, rfl⟩
  case contextCreate => cases h; simp only [exec, execContextCreate, contextCreateCmd, runCmd, resetsBlock]; exact .inl ⟨_, _, _, _, rfl⟩
  case contextDestroy => cases h; simp only [exec, execContextDestroy, contextDestroyCmd, runCmd, resetsBlock]; exact .inl ⟨_, _, _, _, rfl⟩
  case queueCreate => cases h; simp only [exec, execQueueCreate, queueCreateCmd, runCmd, resetsBlock]; exact .inl ⟨_, _, _, _, rfl⟩
  case queueDestroy => cases h; simp only [exec, execQueueDestroy, queueDestroyCmd, runCmd, resetsBlock]; exact .inl ⟨_, _, _, _, rfl⟩
  case eventRingCreate => cases h; simp only [exec, execEventRingCreate, eventRingCreateCmd, runCmd, resetsBlock]; exact .inl ⟨_, _, _, _, rfl⟩
  case eventRingDestroy => cases h; simp only [exec, execEventRingDestroy, eventRingDestroyCmd, runCmd, resetsBlock]; exact .inl ⟨_, _, _, _, rfl⟩
  case fenceCreate => cases h; simp only [exec, execFenceCreate, fenceCreateCmd, runCmd, resetsBlock]; exact .inl ⟨_, _, _, _, rfl⟩
  case fenceShare => cases h; simp only [exec, execFenceShare, fenceShareCmd, runCmd, resetsBlock]; exact .inl ⟨_, _, _, _, rfl⟩
  case fenceDestroy => cases h; simp only [exec, execFenceDestroy, fenceDestroyCmd, runCmd, resetsBlock]; exact .inl ⟨_, _, _, _, rfl⟩
  case regionExport => cases h; simp only [exec, execRegionExport, regionExportCmd, runCmd, resetsBlock]; exact .inl ⟨_, _, _, _, rfl⟩
  case regionWithdraw => cases h; simp only [exec, execRegionWithdraw, regionWithdrawCmd, runCmd, resetsBlock]; exact .inl ⟨_, _, _, _, rfl⟩
  case regionQuery => cases h; simp only [exec, execRegionQuery, regionQueryCmd, runCmd, resetsBlock]; exact .inl ⟨_, _, _, _, rfl⟩
  case extentGrant => cases h; simp only [exec, execExtentGrant, extentGrantCmd, runCmd, resetsBlock]; exact .inl ⟨_, _, _, _, rfl⟩
  case extentRenew => cases h; simp only [exec, execExtentRenew, extentRenewCmd, runCmd, resetsBlock]; exact .inl ⟨_, _, _, _, rfl⟩
  case extentHandover => cases h; simp only [exec, execExtentHandover, extentHandoverCmd, runCmd, resetsBlock]; exact .inl ⟨_, _, _, _, rfl⟩
  case extentRevoke => cases h; simp only [exec, execExtentRevoke, extentRevokeCmd, runCmd, resetsBlock]; exact .inl ⟨_, _, _, _, rfl⟩
  case extentRekey => cases h; simp only [exec, execExtentRekey, extentRekeyCmd, runCmd, resetsBlock]; exact .inl ⟨_, _, _, _, rfl⟩
  case extentHint => cases h; simp only [exec, execExtentHint, extentHintCmd, runCmd, resetsBlock]; exact .inl ⟨_, _, _, _, rfl⟩
  case trayRebuildRate => cases h; simp only [exec, execTrayRebuildRate, trayRebuildRateCmd, runCmd, resetsBlock]; exact .inl ⟨_, _, _, _, rfl⟩
  case extentStatus => cases h; simp only [exec, execExtentStatus, extentStatusCmd, runCmd, resetsBlock]; exact .inl ⟨_, _, _, _, rfl⟩
  case trayStatus => cases h; simp only [exec, execTrayStatus, trayStatusCmd, runCmd, resetsBlock]; exact .inl ⟨_, _, _, _, rfl⟩
  case collectiveGroupDefine => cases h; simp only [exec, execCollectiveGroupDefine, collectiveGroupDefineCmd, runCmd, resetsBlock]; exact .inl ⟨_, _, _, _, rfl⟩
  case collectiveGroupDestroy => cases h; simp only [exec, execCollectiveGroupDestroy, collectiveGroupDestroyCmd, runCmd, resetsBlock]; exact .inl ⟨_, _, _, _, rfl⟩
  case groupQuery => cases h; simp only [exec, execGroupQuery, groupQueryCmd, runCmd, resetsBlock]; exact .inl ⟨_, _, _, _, rfl⟩
  case ringCreate => cases h; simp only [exec, execRingCreate, ringCreateCmd, runCmd, resetsBlock]; exact .inl ⟨_, _, _, _, rfl⟩
  case ringMemberDead => cases h; simp only [exec, execRingMemberDead, ringMemberDeadCmd, runCmd, resetsBlock]; exact .inl ⟨_, _, _, _, rfl⟩
  case ringDestroy => cases h; simp only [exec, execRingDestroy, ringDestroyCmd, runCmd, resetsBlock]; exact .inl ⟨_, _, _, _, rfl⟩
  case mcastGroupJoin => cases h; simp only [exec, execMcastGroupJoin, mcastGroupJoinCmd, runCmd, resetsBlock]; exact .inl ⟨_, _, _, _, rfl⟩
  case mcastGroupLeave => cases h; simp only [exec, execMcastGroupLeave, mcastGroupLeaveCmd, runCmd, resetsBlock]; exact .inl ⟨_, _, _, _, rfl⟩
  case datumConfig => cases h; simp only [exec, execDatumConfig, datumConfigCmd, runCmd, resetsBlock]; exact .inl ⟨_, _, _, _, rfl⟩
  case datumStatus => cases h; simp only [exec, execDatumStatus, datumStatusCmd, runCmd, resetsBlock]; exact .inl ⟨_, _, _, _, rfl⟩
  case syncCounterRead => cases h; simp only [exec, execSyncCounterRead, syncCounterReadCmd, runCmd, resetsBlock]; exact .inl ⟨_, _, _, _, rfl⟩
  case contextStepRead => cases h; simp only [exec, execContextStepRead, contextStepReadCmd, runCmd, resetsBlock]; exact .inl ⟨_, _, _, _, rfl⟩
  case markQueueStatus => cases h; simp only [exec, execMarkQueueStatus, markQueueStatusCmd, runCmd, resetsBlock]; exact .inl ⟨_, _, _, _, rfl⟩
  case chartExport => cases h; simp only [exec, execChartExport, chartExportCmd, runCmd, resetsBlock]; exact .inl ⟨_, _, _, _, rfl⟩
  case chartImport => cases h; simp only [exec, execChartImport, chartImportCmd, runCmd, resetsBlock]; exact .inl ⟨_, _, _, _, rfl⟩
  case chartResume => cases h; simp only [exec, execChartResume, chartResumeCmd, runCmd, resetsBlock]; exact .inl ⟨_, _, _, _, rfl⟩
  case chartDiscard => cases h; simp only [exec, execChartDiscard, chartDiscardCmd, runCmd, resetsBlock]; exact .inl ⟨_, _, _, _, rfl⟩
  case weirConfig => cases h; simp only [exec, execWeirConfig, weirConfigCmd, runCmd, resetsBlock]; exact .inl ⟨_, _, _, _, rfl⟩
  case weirStatus => cases h; simp only [exec, execWeirStatus, weirStatusCmd, runCmd, resetsBlock]; exact .inl ⟨_, _, _, _, rfl⟩
  case counterRead => cases h; simp only [exec, execCounterRead, counterReadCmd, runCmd, resetsBlock]; exact .inl ⟨_, _, _, _, rfl⟩
  case streamCountersRead => cases h; simp only [exec, execStreamCountersRead, streamCountersReadCmd, runCmd, resetsBlock]; exact .inl ⟨_, _, _, _, rfl⟩
  case polderCountersRead => cases h; simp only [exec, execPolderCountersRead, polderCountersReadCmd, runCmd, resetsBlock]; exact .inl ⟨_, _, _, _, rfl⟩
  case traceConfig => cases h; simp only [exec, execTraceConfig, traceConfigCmd, runCmd, resetsBlock]; exact .inl ⟨_, _, _, _, rfl⟩
  case traceFetch => cases h; simp only [exec, execTraceFetch, traceFetchCmd, runCmd, resetsBlock]; exact .inl ⟨_, _, _, _, rfl⟩
  case lcStatus => cases h; simp only [exec, execLcStatus, lcStatusCmd, runCmd, resetsBlock]; exact .inl ⟨_, _, _, _, rfl⟩
  case lcChallenge => cases h; simp only [exec, execLcChallenge, lcChallengeCmd, runCmd, resetsBlock]; exact .inl ⟨_, _, _, _, rfl⟩
  case lcTransition => cases h; simp only [exec, execLcTransition, lcTransitionCmd, runCmd, resetsBlock]; exact .inl ⟨_, _, _, _, rfl⟩
  case debugAuthorise => cases h; simp only [exec, execDebugAuthorise, debugAuthoriseCmd, runCmd, resetsBlock]; exact .inl ⟨_, _, _, _, rfl⟩
  case debugClose => cases h; simp only [exec, execDebugClose, debugCloseCmd, runCmd, resetsBlock]; exact .inl ⟨_, _, _, _, rfl⟩
  case gaugeIdentity => cases h; simp only [exec, execGaugeIdentity, gaugeIdentityCmd, runCmd, resetsBlock]; exact .inl ⟨_, _, _, _, rfl⟩
  case gaugeCountersRead => cases h; simp only [exec, execGaugeCountersRead, gaugeCountersReadCmd, runCmd, resetsBlock]; exact .inl ⟨_, _, _, _, rfl⟩
  case gaugeRecordFetch => cases h; simp only [exec, execGaugeRecordFetch, gaugeRecordFetchCmd, runCmd, resetsBlock]; exact .inl ⟨_, _, _, _, rfl⟩
  case gaugeRecordRelease => cases h; simp only [exec, execGaugeRecordRelease, gaugeRecordReleaseCmd, runCmd, resetsBlock]; exact .inl ⟨_, _, _, _, rfl⟩
  case faultRead => cases h; simp only [exec, execFaultRead, faultReadCmd, runCmd, resetsBlock]; exact .inl ⟨_, _, _, _, rfl⟩
  case resetEngine => cases h; simp only [exec, execResetEngine, resetEngineCmd, runCmd, resetsBlock]; exact .inl ⟨_, _, _, _, rfl⟩
  case resetContext => cases h; simp only [exec, execResetContext, resetContextCmd, runCmd, resetsBlock]; exact .inl ⟨_, _, _, _, rfl⟩
  case resetPolder => cases h; simp only [exec, execResetPolder, resetPolderCmd, runCmd, resetsBlock]; exact .inl ⟨_, _, _, _, rfl⟩
  case resetVf => cases h; simp only [exec, execResetVf, resetVfCmd, runCmd, resetsBlock]; exact .inl ⟨_, _, _, _, rfl⟩
  case resetBlock => cases h; simp only [exec, execResetBlock, resetBlockCmd, resetsBlock]; exact .inl ⟨_, _, _, _, rfl⟩
  case serviceRelease => cases h; simp only [exec, execServiceRelease, serviceReleaseCmd, runCmd, resetsBlock]; exact .inl ⟨_, _, _, _, rfl⟩
  case floodwatchConfig => cases h; simp only [exec, execFloodwatchConfig, floodwatchConfigCmd, runCmd, resetsBlock]; exact .inl ⟨_, _, _, _, rfl⟩
  case crashDumpRead => cases h; simp only [exec, execCrashDumpRead, crashDumpReadCmd, runCmd, resetsBlock]; exact .inl ⟨_, _, _, _, rfl⟩
  case stragglerRead => cases h; simp only [exec, execStragglerRead, stragglerReadCmd, runCmd, resetsBlock]; exact .inl ⟨_, _, _, _, rfl⟩
  case identityRead => cases h; simp only [exec, execIdentityRead, identityReadCmd, runCmd, resetsBlock]; exact .inl ⟨_, _, _, _, rfl⟩
  case surveyRead => cases h; simp only [exec, execSurveyRead, surveyReadCmd, runCmd, resetsBlock]; exact .inl ⟨_, _, _, _, rfl⟩
  case firmwareStage => cases h; simp only [exec, execFirmwareStage, firmwareStageCmd, runCmd, resetsBlock]; exact .inl ⟨_, _, _, _, rfl⟩
  case firmwareActivate => cases h; simp only [exec, execFirmwareActivate, firmwareActivateCmd, runCmd, resetsBlock]; exact .inl ⟨_, _, _, _, rfl⟩
  case firmwareCommitSvn => cases h; simp only [exec, execFirmwareCommitSvn, firmwareCommitSvnCmd, runCmd, resetsBlock]; exact .inl ⟨_, _, _, _, rfl⟩
  all_goals cases h

/-- Dropping an event leaves the Tracer still: counter 0x010 counts it. -/
@[simp] theorem dropTrace_still (s : State) : (dropTrace s).tracer.still = s.tracer.still := by
  have drop : ∀ (l : List (Nat × BitVec 63)) (v : BitVec 63),
      (assocSet 0x010 v l).filter (fun x => decide (x.1 ≠ 0x010)) = l.filter (fun x => decide (x.1 ≠ 0x010)) := by
    intro l v
    induction l with
    | nil => simp [assocSet]
    | cons x t ih =>
      by_cases h : x.1 = 0x010
      · simp [assocSet, h]
      · simp [assocSet, h]
        simpa using ih
  simp only [dropTrace, count, countBy, Tracer.still, drop]

/-- The Tracer writes an event, or drops it, and is still. -/
@[simp] theorem takeTrace_still (e : TraceEvent) (s : State) : (takeTrace e s).tracer.still = s.tracer.still := by
  unfold takeTrace
  dsimp only
  split
  · split
    · exact dropTrace_still s
    · rfl
  · split
    · exact dropTrace_still s
    · rfl

/-- An event on its way to the Tracer leaves it still. -/
@[simp] theorem sendTrace_still (e : TraceEvent) (s : State) : (sendTrace e s).tracer.still = s.tracer.still := by
  unfold sendTrace
  split
  · exact takeTrace_still e s
  · split
    · exact dropTrace_still s
    · rfl

/-- Tracing an event leaves the Tracer still. -/
@[simp] theorem emitTrace_still (bit : Nat) (code unit : BitVec 16) (p : PolderId) (c : Option CtxId) (payload : Bytes)
    (s : State) : (emitTrace bit code unit p c payload s).tracer.still = s.tracer.still := by
  unfold emitTrace
  split
  · rfl
  · dsimp only
    split
    · rfl
    · exact sendTrace_still _ _

/-- Marking work at a domain leaves the Tracer as it was. -/
theorem markWork_still (d : DomainId) (s : State) : (markWork d s).tracer.still = s.tracer.still := by
  rw [markWork_tracer]

/-- The trace of a job that a KCU does inside a command leaves the Tracer still. -/
@[simp] theorem traceInline_still (j : InlineJob) (p : Option PolderId) (s : State) :
    (traceInline j p s).tracer.still = s.tracer.still := by
  unfold traceInline
  dsimp only
  rw [emitTrace_still, emitTrace_still, markWork_still]

/-- A Warden answer that leaves sealed holds at most 1,024 bytes: a longer one goes in chunks (R338). -/
theorem chunkAnswer_short (sl : Sluice) (b : Bytes) (s : State) :
    (spdmBytes (chunkAnswer sl (wrapped b) s).1).length ≤ 1024 := by
  unfold chunkAnswer
  split
  · rename_i h
    simp [wrapped] at h
    exact of_decide_eq_true h
  · simp [spdmBytes]

/-- The record of such an answer is never refused for its length. -/
theorem recordJob_fits (id : BitVec 32) (key : Key256) (sl : Sluice) (b : Bytes) (p : Option PolderId) (s t : State) :
    inlineJob (recordJob id key (spdmBytes (chunkAnswer sl (wrapped b) s).1).length) p t
      = (true, traceInline (recordJob id key (spdmBytes (chunkAnswer sl (wrapped b) s).1).length) p t) := by
  have h := chunkAnswer_short sl b s
  have f : lengthsFit 4 12 (spdmBytes (chunkAnswer sl (wrapped b) s).1).length = true := by
    simp only [lengthsFit, Bool.and_eq_true, decide_eq_true_eq]
    omega
  simp [inlineJob, recordJob, f]

/-- Chunking an answer changes the SPDM state alone. -/
theorem chunkAnswer_keeps (sl : Sluice) (a : SpdmAnswer) (s : State) : ∃ x, (chunkAnswer sl a s).2 = { s with spdm := x } := by
  unfold chunkAnswer
  split
  · exact ⟨s.spdm, rfl⟩
  · exact ⟨_, rfl⟩

/-- A reply leaves the Tracer still. -/
@[simp] theorem reply_still (o : Origin) (tag : BitVec 32) (opcode : BitVec 16) (st : Status) (payload : Bytes) (s : State) :
    (reply o tag opcode st payload s).tracer.still = s.tracer.still := by
  unfold reply answerAs
  dsimp only
  split
  · split <;> rfl
  · split
    · split <;> rfl
    · rw [recordJob_fits]
      generalize ht : traceInline _ _ _ = t
      have h : t.tracer.still = s.tracer.still := by
        rw [← ht, traceInline_still]
        obtain ⟨y, e⟩ := chunkAnswer_keeps _ _ _
        rw [e]
        rfl
      split <;> exact h

/-- An answer that can be sealed is the last output of its command's reply. -/
theorem reply_out {o : Origin} {s : State} (tag : BitVec 32) (opcode : BitVec 16) (st : Status) (payload : Bytes)
    (h : canSeal o s) : (reply o tag opcode st payload s).out = s.out ++ [.response o tag opcode st payload] := by
  unfold reply answerAs
  dsimp only
  split
  · split <;> rfl
  · rename_i x hx
    rw [if_neg (h x hx), recordJob_fits]
    generalize ht : traceInline _ _ _ = t
    have h : t.out = s.out ++ [.response o tag opcode st payload] := by
      rw [← ht, traceInline_out]
      obtain ⟨y, e⟩ := chunkAnswer_keeps _ _ _
      rw [e]
      rfl
    split <;> exact h

/-- A session that has used its last sequence number seals no answer: the answer is ST_EXHAUSTED (R317). -/
theorem reply_exhausted {o : Origin} {s : State} {x : Session} (tag : BitVec 32) (opcode : BitVec 16) (st : Status)
    (payload : Bytes) (h : sessionOf o s = some x) (hx : x.txSeq = BitVec.allOnes 64) :
    (reply o tag opcode st payload s).out = s.out ++ [.response o tag opcode .exhausted []]
      ∧ (reply o tag opcode st payload s).spdm = s.spdm := by
  have h' : sessionOf o { s with fns := { s.fns with serviced := s.time } } = some x := h
  unfold reply answerAs
  dsimp only
  rw [h']
  simp only [hx, if_true]
  split <;> exact ⟨rfl, rfl⟩

/-- A reply does not change the commands that wait. -/
@[simp] theorem reply_pendings (o : Origin) (tag : BitVec 32) (opcode : BitVec 16) (st : Status) (payload : Bytes)
    (s : State) : (reply o tag opcode st payload s).fns.pendings = s.fns.pendings := by
  unfold reply answerAs
  dsimp only
  split
  · split <;> rfl
  · split
    · split <;> rfl
    · rw [recordJob_fits]
      generalize ht : traceInline _ _ _ = t
      have h : t.fns.pendings = s.fns.pendings := by
        rw [← ht, traceInline_fns]
        obtain ⟨y, e⟩ := chunkAnswer_keeps _ _ _
        rw [e]
        rfl
      split <;> exact h

/-- A reply changes the outputs, the sluices and the SPDM state, and what the job that seals it leaves; nothing else. -/
theorem reply_only (o : Origin) (tag : BitVec 32) (opcode : BitVec 16) (st : Status) (payload : Bytes) (s : State) :
    s.agree [.out, .keys, .fns, .spdm, .tracer, .power, .free] (reply o tag opcode st payload s) := by
  have h0 : s.agree [.out, .keys, .fns, .spdm, .tracer, .power, .free]
      { s with fns := { s.fns with serviced := s.time } } := agree_fns (agree_refl _ s) rfl
  unfold reply answerAs
  dsimp only
  split
  · split
    · exact emit_frame _ _ h0 rfl
    · exact writeResponse_frame _ _ _ (emit_frame _ _ h0 rfl) rfl
  · split
    · split
      · exact emit_frame _ _ h0 rfl
      · exact writeResponse_frame _ _ _ (emit_frame _ _ h0 rfl) rfl
    · rw [recordJob_fits]
      generalize ht : traceInline _ _ _ = t
      have h : s.agree [.out, .keys, .fns, .spdm, .tracer, .power, .free] t := by
        rw [← ht]
        exact traceInline_frame _ _ _ (chunkAnswer_frame _ _ _ (emit_frame _ _ h0 rfl) rfl) rfl
      split
      · exact modSession_frame _ _ _ h rfl
      · exact writeResponse_frame _ _ _ (modSession_frame _ _ _ h rfl) rfl

@[simp] theorem reply_polders (o : Origin) (tag : BitVec 32) (opcode : BitVec 16) (st : Status) (payload : Bytes) (s : State) :
    (reply o tag opcode st payload s).polders = s.polders :=
  reply_only _ _ _ _ _ s .polders rfl

@[simp] theorem reply_obj (o : Origin) (tag : BitVec 32) (opcode : BitVec 16) (st : Status) (payload : Bytes) (s : State) :
    (reply o tag opcode st payload s).obj = s.obj :=
  reply_only _ _ _ _ _ s .obj rfl

@[simp] theorem reply_sb (o : Origin) (tag : BitVec 32) (opcode : BitVec 16) (st : Status) (payload : Bytes) (s : State) :
    (reply o tag opcode st payload s).sb = s.sb :=
  reply_only _ _ _ _ _ s .sb rfl

@[simp] theorem pend_polders (o : Origin) (tag : BitVec 32) (opcode : BitVec 16) (s : State) :
    (pend o tag opcode s).polders = s.polders :=
  reply_only _ _ _ _ _ _ .polders rfl

@[simp] theorem pend_obj (o : Origin) (tag : BitVec 32) (opcode : BitVec 16) (s : State) :
    (pend o tag opcode s).obj = s.obj :=
  reply_only _ _ _ _ _ _ .obj rfl

@[simp] theorem pend_sb (o : Origin) (tag : BitVec 32) (opcode : BitVec 16) (s : State) :
    (pend o tag opcode s).sb = s.sb :=
  reply_only _ _ _ _ _ _ .sb rfl

/-- A command that ends later is answered pending. -/
theorem pend_out {o : Origin} {s : State} (tag : BitVec 32) (opcode : BitVec 16) (h : canSeal o s) :
    (pend o tag opcode s).out = s.out ++ [.response o tag opcode .pending []] :=
  reply_out tag opcode .pending [] h

/-- A command that ends later is held, with no final status yet. -/
@[simp] theorem pend_pendings (o : Origin) (tag : BitVec 32) (opcode : BitVec 16) (s : State) :
    (pend o tag opcode s).fns.pendings
      = s.fns.pendings ++ [{ origin := o, tag := tag, opcode := opcode, final := none }] := by
  simp [pend, refuse]

/-- No check of a list fails when each of them holds off. -/
theorem firstFail_none (l : List (Bool × Status)) : firstFail l = none ↔ ∀ x ∈ l, x.1 = false := by
  induction l with
  | nil => simp [firstFail]
  | cons x t ih =>
    obtain ⟨b, st⟩ := x
    cases b <;> simp [firstFail, ih]

/-- A command that passes every check has its effect. -/
theorem exec_effect {c : Instr} {s : State} {ci : CmdInfo} {o : Origin} {tag : BitVec 32} {d m : Bool}
    {own : State → Option Status} {eff : State → State} (h : Passes c s) (hw : wardenRow c = some (ci, o, tag))
    (he : exec c s = .next (runCmdIn ci o tag d m (resetsBlock c) own eff s)) (hd : d = false) (hm : m = false)
    (ho : own s = none) : exec c s = .next (eff s) := by
  obtain ⟨ci', o', tag', hw', hr, _, hc⟩ := h
  rw [hw] at hw'
  cases hw'
  subst hd hm
  rw [he, runCmdIn_effect eff hr hc ho]

/-- A command that passes every check answers what its effect answers. -/
theorem answers_effect {c : Instr} {s : State} {st : Status} {payload : Bytes} {P : State → Prop} {ci : CmdInfo}
    {o : Origin} {tag : BitVec 32} {d m : Bool} {own : State → Option Status} {eff : State → State} (h : Passes c s)
    (hw : wardenRow c = some (ci, o, tag)) (he : exec c s = .next (runCmdIn ci o tag d m (resetsBlock c) own eff s))
    (hd : d = false) (hm : m = false) (ho : own s = none) (hout : .response o tag ci.opcode st payload ∈ (eff s).out)
    (hP : P (eff s)) : Answers c s st payload P :=
  ⟨ci, o, tag, hw, eff s, exec_effect h hw he hd hm ho, hout, hP⟩

end Sys2Proof.Machine
end

