-- ==== Sys2Proof/Tests/Slice0.lean ====
section
/-! SUPPORT. Tests on small states, and for the statements of Certificates/Slice0/Obligations.lean a witness: a state and
operands that meet the hypotheses of each clause together. A clause with a hypothesis about a primitive that Config leaves
without a body has its other hypotheses witnessed. -/

namespace Sys2Proof.Tests

open Sys2Proof Sys2Proof.Machine

set_option Elab.async false

/-! ### Small states -/

/-- A block that has booted in a role: instance 1, READY, 100 s after power-on, every domain powered. -/
def up (r : Role) : State :=
  { State.reset with
    time := 100000000000
    pins := { Pins.reset with porN := true, blockRstN := true, pwrEn := roleDomains r, pwrGood := roleDomains r }
    boot := { Boot.reset with stage := .ready, role := r, instanceId := 1, svn := 5 }
    cad := { Cadastre.reset with ladder := true }
    keys := { KeyUnits.reset with instantiated := true, reseededAt := 100000000000 }
    gauge := { Gauge.reset with powered := true } }

/-- Polder 5, of this instance and of instance 2. -/
def polder : Polder :=
  { id := 5, confidential := false, slot := 7, handle := 1, bound := .pf, identity := none, members := 6,
    fatal := false, teardown := none, freeze := .none, exported := [9], pinned := false, loadFailed := none,
    slotBad := false, counters := ⟨0, 0, 0, 0, 0, 0, 0⟩, straggler := some ⟨3, 1, 100⟩ }

/-- The key slot of polder 5, but for its check. -/
def slotBody : KeySlot :=
  { index := 0, state := .resident, polder := 5, pmk := 1, link := 2, stack := 3, tray := 4, seed := 5, dump := 6,
    chart := 7, polderSlot := 7, present := 0xFF, pinned := false, confidential := false, check := 0, lastUse := 0 }

/-- The key slot of polder 5. -/
def slot : KeySlot := { slotBody with check := slotCheck 0 slotBody }

/-- Context 1 of polder 5, on core 0. -/
def context : Context :=
  { id := 1, state := .bound, fn := 0, polder := 5, cls := 0, cores := 1, step := 3, hold := none, waiters := [] }

/-- Event ring 0 of the PF, with two records that the host has not consumed. -/
def ring : EventRing :=
  { fn := 0, id := 0, addr := 0x1000, size := 64, vector := 1, head := 0, tail := 2, phase := true, armed := false,
    waiting := [], dropped := 0, inFlight := 1, waiters := [] }

/-- Queue 2 of context 1, with one descriptor to be fetched. -/
def queue : Queue :=
  { id := 2, state := .active, context := 1, fn := 0, addr := 0x2000, depth := 16, ring := 0, head := 0, tail := 1,
    started := [], waiters := [] }

/-- Region 9: one plot of polder 5, with every permission. -/
def region : Region :=
  { index := 9, key := 2359373, withdrawing := false, signalKind := false, polderSlot := 7, polder := 5, perms := 0x1F,
    length := 4096, rttBase := 0, rttCount := 1, firstOffset := 0, core := 0, counterBase := 0, counterCnt := 0,
    memobj := some 4, waiters := [] }

/-- Memory object 4: plot 3 and region 9. -/
def memobj : MemObj :=
  { id := 4, doomed := false, fn := 0, polder := 5, plots := [3], regions := [9], waiters := [] }

/-- A block of role E or T that holds polder 5 with its key slot, and one of each host object. -/
def world (r : Role) : State :=
  { up r with
    polders := [polder]
    cad := { (up r).cad with slots := [slot] }
    stack := { Stack.reset with spm := [(3, mkPlot 7 0 true false)] }
    fau := { Fau.reset with regions := [region], rtt := [(0, 3)] }
    obj := { Objects.reset with
      contexts := [context], queues := [queue], rings := [ring], memobjs := [memobj]
      fences := [{ id := 6, owner := 1, fn := 0, value := 4, shares := [], waits := [] }] } }

/-- The world of role E. -/
abbrev e : State := world .e

/-- VF 0 as it is when the PF has enabled it. -/
def vf : Vf := { resetVf 0 with enabled := true, allot0 := 0xFFFFFFFF, allot1 := 0xFFFFFFFF }

/-- A world of role E with VF 0. -/
def withVf (v : Vf) : State := { e with fns := { Functions.reset with vfs := [v] } }

/-- The PF's sluice. -/
def pf : Origin := { sluice := .pf, session := none }

/-- The side-band sluice, outside a session. -/
def side : Origin := { sluice := .sb, session := none }

/-- A session of the fabric manager. -/
def fmSession : Session :=
  { id := 1, sluice := .fm, stage := .established, wantMutual := true, mutual_ := true, identity := none,
    fabricKey := true, transcript := 0, chain := [], rxKey := 1, txKey := 2, rxSeq := 0, txSeq := 0, asked := 0 }

/-- The fabric manager's sluice, in its session. -/
def fm : Origin := { sluice := .fm, session := some 1 }

/-- A state with the fabric manager's session. -/
def managed (s : State) : State := { s with spdm := { s.spdm with negotiated := [.fm], sessions := [fmSession] } }

/-- Of any state with the world's polder and key slot, the polder's keys are ready to use. -/
theorem key_ready {s : State} {t : Nat} {k : BitVec 8} (hp : s.polders = [polder])
    (hk : s.cad.slots = [{ slot with lastUse := t }]) (hm : s.cad.slotMask = 0)
    (hb : k ∈ [(1 : BitVec 8), 2, 3, 6, 7]) : needKey 5 k s = (.ready, setSlot { slot with lastUse := s.time } s) := by
  have hc : slotSound s { slot with lastUse := t } = true := decide_eq_true (by rw [hm]; rfl)
  have h1 : findPolder s 5 = some polder := by simp [findPolder, hp, polder]
  have h2 : slotOf s 5 = some { slot with lastUse := t } := by simp [slotOf, hk, slot, slotBody]
  have h3 : slotHas { slot with lastUse := t } k = true := by
    show slotBody.present.getLsbD (k.toNat - 1) = true
    revert k
    decide
  unfold needKey
  rw [h1]
  simp only [h2, show polder.slotBad = false from rfl, show polder.loadFailed = none from rfl,
    show polder.teardown = none from rfl, show slot.state = .resident from rfl, Option.isSome_none, Bool.false_eq_true,
    if_false, if_true]
  exact (if_pos h3).trans (if_pos hc)

/-! ### Well-formedness: each check refuses a term -/

theorem test_wf_descriptor : Instr.wf (.descriptorFetch 2 (some (zeros 63))) = false := by decide
theorem test_wf_packet : Instr.wf (.protectedPacketReceive 0 (zeros 4177)) = false
    ∧ Instr.wf (.linkNoticeReceive 0 (zeros 4177)) = false := by decide +kernel
theorem test_wf_stack : Instr.wf (.stackAccess ⟨1, 0, false, 257, [], none⟩) = false
    ∧ Instr.wf (.stackAccess ⟨1, 0, true, 4, [], none⟩) = false
    ∧ Instr.wf (.stackAccess ⟨1, 0, true, 1, [0], some []⟩) = false := by decide
theorem test_wf_device : Instr.wf (.deviceFailed 74) = false ∧ Instr.wf (.devicePresent 74) = false
    ∧ Instr.wf (.rebuildRow 8) = false ∧ Instr.wf (.rebuildEnd 8) = false
    ∧ Instr.wf (.deviceReadReturn (.tray 74 0) [0] false) = false
    ∧ Instr.wf (.deviceReadReturn (.tray 0 103079215104) [0] false) = false
    ∧ Instr.wf (.deviceReadReturn (.stack 0) [] false) = false := by decide
theorem test_wf_weir : Instr.wf (.queueLevelReport 9 0 0) = false ∧ Instr.wf (.queueLevelReport 0 0 1001) = false
    ∧ Instr.wf (.weirInterval 0 0 []) = false ∧ Instr.wf (.weirStatusMirror 9) = false
    ∧ Instr.wf (.weirConfig pf 1 0 []) = false := by decide
theorem test_wf_lengths : Instr.wf (.getCertificate .pf 0 65536 0) = false
    ∧ Instr.wf (.getCertificate .pf 0 0 65536) = false
    ∧ Instr.wf (.ringCreate fm 1 0 5 (List.replicate 9 1) 0 [] 0) = false := by decide
theorem test_wf_long (l : List (BitVec 16)) (d : Bytes) (hl : l.length = 65536) (hd : d.length = 65536) :
    Instr.wf (.regionExport pf 1 0 0 0 0 0 0 0 0 0 l) = false ∧ Instr.wf (.ringCreate fm 1 0 5 [] 0 l 0) = false
    ∧ Instr.wf (.lcTransition pf 1 0 d) = false ∧ Instr.wf (.debugAuthorise pf 1 d) = false
    ∧ Instr.wf (.firmwareStage pf 1 0 d) = false := by simp [Instr.wf, hl, hd]
theorem test_wf_group (mark : Datum) (d : Bytes) (h : d.length = 4294967296) :
    Instr.wf (.collectiveGroupDefine fm 1 mark d) = false := by simp [Instr.wf, h]
theorem test_wf_good : Instr.wf (.descriptorFetch 2 (some (zeros 64))) = true ∧ Instr.wf (.deviceFailed 73) = true
    ∧ Instr.wf (.stackAccess ⟨1, 0, true, 2, [1, 2], none⟩) = true
    ∧ Instr.wf (.weirConfig pf 1 0 (List.replicate 16 0)) = true := by decide

/-- The table gives no word: no command is read from one (R516 and the opcode table). -/
theorem test_no_table_word : decodeTableWord 32 0 = none ∧ State.reset.withFetchWord 32 0 = State.reset := ⟨rfl, rfl⟩

/-! ### The machine, resets and boot -/

/-- StepRunsTheFrontCommand: a queue with a command, and an empty one. -/
theorem witness_step : ({ e with pending := [.ready] } : State).pending = [.ready] ∧ e.pending = [] := by decide

/-- EveryStepKeepsSound and ResetIsSound: the invariant holds of the reset state, and a step from it answers a next
state. -/
theorem witness_sound : (State.reset.kept.fuses = State.reset.fuses) ∧ ∃ t, step State.reset = .next t :=
  ⟨rfl, _, rfl⟩

/-- EveryCommandTouchesOnlyItsParts: a command that answers a next state. -/
theorem witness_touches : ∃ t, exec .powerOnResetRelease State.reset = .next t := ⟨_, rfl⟩

/-- OnlyAbsentDevicesStop: the first device that is absent. -/
theorem witness_absent : exec (.deviceFailed 74) e = .fault .noSuchDevice ∧ Instr.wf (.deviceFailed 73) = true := ⟨rfl, by decide⟩

/-- TheDatumRuns: in reset, running, and with an offset to remove each way. -/
theorem witness_datum : State.reset.pins.porN = false ∧ e.pins.porN = true ∧ e.pins.blockRstN = true ∧ e.datum.slew = 0
    ∧ (0 : Int) < ({ DatumUnit.reset with slew := 1, sinceSlew := 4999 } : DatumUnit).slew
    ∧ ({ DatumUnit.reset with slew := -1, sinceSlew := 4999 } : DatumUnit).slew < 0 := by decide

/-- R276, R277: a nanosecond of the Datum. -/
theorem test_tick : (tick e).datum.value = 1 ∧ (tick State.reset).datum.value = 0
    ∧ (tick { e with datum := { e.datum with slew := 1, sinceSlew := 4999 } }).datum.value = 2
    ∧ (tick { e with datum := { e.datum with slew := -1, sinceSlew := 4999 } }).datum.value = 0 := by decide +kernel

/-- A block at a stage of boot. -/
def booting (x : BootStage) : State := { up .e with boot := { (up .e).boot with stage := x, stageAt := 0 } }

/-- An image of 1,024 header bytes. -/
def image : Image := { header := zeros 1024, body := [] }

/-- ResetsComplete. -/
theorem witness_resets : State.reset.pins.porN = false ∧ e.pins.blockRstN = true
    ∧ (({ State.reset with pins := { Pins.reset with porN := true } } : State).pins.blockRstN = false)
    ∧ (running e = true ∧ e.boot.stage = .ready ∧ watchdogDue e = true)
    ∧ (running (booting .firmwareInit) = true ∧ (booting .firmwareInit).boot.stage = .firmwareInit
        ∧ (booting .firmwareInit).boot.stageAt + 2000000000 ≤ (booting .firmwareInit).time) := by decide +kernel

/-- BootStagesComplete. -/
theorem witness_boot : ((booting .romStart).boot.stage = .romStart ∧ interrupted (booting .romStart).fuses = none)
    ∧ (booting .lcResolve).boot.stage = .lcResolve ∧ (booting .entropy).boot.stage = .entropy
    ∧ (booting .keys).boot.stage = .keys ∧ (booting .imageLoad).boot.stage = .imageLoad
    ∧ (({ booting .imageLoad with boot := { (booting .imageLoad).boot with image := some image } } : State).boot.image = some image)
    ∧ imageFail image e = some 2
    ∧ ((booting .imageVerify).boot.role ≠ .s) ∧ ([] : List Digest).length ≤ 237
    ∧ (running (booting .firmwareInit) = true)
    ∧ (let r : FaultRecord := { seq := 1, datum := 0, code := 0x0801, severity := 3, status := 0, unit := 0, polder := 0,
                                context := none, peer := none, count := 0, detail := [], conf := false }
       let s : State := { booting .firmwareInit with sb := { (booting .firmwareInit).sb with unsent := some r, leaving := true } }
       running s = true ∧ s.boot.stage = .firmwareInit ∧ s.sb.unsent = some r ∧ s.sb.leaving = true)
    ∧ ((booting .recovery).boot.stage = .recovery ∧ (booting .recovery).boot.rewrite = none)
    ∧ (running (booting .halted) = true ∧ (booting .halted).boot.stage = .halted) := by decide +kernel

/-- R328: ROM_START goes to LC_RESOLVE with the fuses' majority; blank fuses are the state BLANK. -/
theorem test_lc_resolve : ∃ t, exec .lcResolve (booting .romStart) = .next t ∧ t.boot.stage = .lcResolve ∧ t.lc.state = .blank :=
  ⟨_, rfl, by decide +kernel, by decide +kernel⟩

/-- A state whose domains are gated, but for those of a list. -/
def gated (on : List DomainId) (s : State) : State := { s with pins := { s.pins with pwrEn := on, pwrGood := on } }

/-- ClocksAndPowerComplete. -/
theorem witness_power :
    let d : DomainId := ⟨.scaBank, 1⟩
    let c : CulvertId := ⟨.domain d, .warden⟩
    let x : Culvert := { id := c, ready := false, entries := [], discarded := 0, suspects := [] }
    (running e = true ∧ domainExists e d = true ∧ inCluster d.kind = false ∧ e.pins.clkStopReq.contains d = false)
    ∧ (({ e with pins := { e.pins with clkStopReq := [d] } } : State).pins.clkStopReq.contains d = true)
    ∧ (gateable d.kind = true ∧ domainOn (gated [d] e) d = true ∧ idleLong (gated [d] e) d = true
        ∧ (gated [d] e).pins.clkStopAck.contains d = false)
    ∧ ((gated [] e).pins.pwrEn.contains d = false ∧ serves (gated [] e) d = false)
    ∧ (({ gated [] e with pins := { e.pins with pwrEn := [d], pwrGood := [] } } : State).pins.pwrEn.contains d = true
        ∧ (gated [] e).pins.pwrGood.contains d = false)
    ∧ (let s : State := { e with power := { e.power with culverts := [x] } }
       c.left = .domain d ∧ islandStopped s .warden = false ∧ islandStopped s (.domain d) = false
         ∧ (getCulvert s c).ready = false) := by decide +kernel

/-! ### Functions and the host path -/

/-- FunctionResetCompletes. -/
theorem witness_function_reset :
    let r : FnReset := { start := 0, drained := false, squashed := 0, waiters := [] }
    (vfPresent (withVf (resetVf 0)) 0 = true ∧ (getVf (withVf (resetVf 0)) 0).enabled = false)
    ∧ (vfPresent (withVf vf) 0 = true ∧ (getVf (withVf vf) 0).enabled = true ∧ (getVf (withVf vf) 0).reset = none)
    ∧ (getVf (withVf { vf with state := .run }) 0).state ≠ .unlocked
    ∧ ((getVf (withVf { vf with reset := some r }) 0).reset = some r ∧ r.drained = false
        ∧ r.start + 10000000 ≤ (withVf vf).time)
    ∧ ((getVf (withVf { vf with reset := some { r with drained := true } }) 0).reset = some { r with drained := true }
        ∧ boundTo 0 (withVf vf) = []) := by decide +kernel

/-- FunctionStatesComplete: each state that a clause names, of the lowest VF and of the highest. -/
theorem witness_function_states : (getVf (withVf vf) 0).state = .unlocked
    ∧ (getVf (withVf { vf with state := .locked }) 0).state = .locked
    ∧ (getVf (withVf { vf with state := .run }) 0).state = .run
    ∧ vfPresent e 63 = true ∧ (getVf e 63).state = .unlocked := by decide +kernel

/-- R395, R499: field by field, at each field's greatest value and one more. -/
theorem test_allotment :
    (∃ t, exec (.allotWrite 0 false (BitVec.ofNat 32 (4096 + 8192 * 256 + 4194304 * 513))) (withVf (resetVf 0)) = .next t
      ∧ (getVf t 0).allot0 = BitVec.ofNat 32 (4096 + 8192 * 256)) := ⟨_, rfl, by decide +kernel⟩

/-- HostPathCompletes. -/
theorem witness_host_path : (getVf (withVf { vf with pages := 1 }) 0).pages ≠ 0
    ∧ (getVf (withVf vf) 0).swapping = false ∧ (getVf (withVf { vf with swapping := true }) 0).swapping = true
    ∧ (∃ l ∈ ({ withVf vf with fns := { (withVf vf).fns with dirty := [⟨0, false, 1, 1⟩] } } : State).fns.dirty,
        l.vf = 0 ∧ l.buf = (getVf (withVf vf) 0).activeBuf)
    ∧ (running e = true ∧ findRing e 0 0 = some ring ∧ ring.waiters = [])
    ∧ (fnPresent (withVf { vf with state := .run }) 1 = true ∧ vfOf 1 = some 0
        ∧ (getVf (withVf { vf with state := .run }) 0).state = .run
        ∧ (∀ r, HostFailure.dirtyLog ≠ .write (some r)))
    ∧ (findRing (withVf { vf with state := .run }) 1 0 = none) := by
  refine ⟨?_, ?_, ?_, ?_, ?_, ⟨?_, ?_, ?_, ?_⟩, ?_⟩
  all_goals first | decide +kernel | (intro r h; cases h)

/-- A descriptor of context 1: its kind in byte 0, its context in bytes 4 and 5. -/
def desc (kind : Byte) (rest : Bytes) : Bytes := padTo 64 ([kind, 0, 0, 0, 1, 0, 0, 0] ++ rest)

/-- QueuesAndEventRingsComplete. -/
theorem witness_queues :
    let d := desc 4 (zeros 8 ++ [4])
    (windowOpen e 0 = true ∧ findQueue e 2 = some queue ∧ queue.fn = 0 ∧ fnRuns e 0 = true
        ∧ ((15 : BitVec 32).extractLsb' 0 12).toNat < queue.depth ∧ queue.state ≠ .destroying)
    ∧ (running e = true ∧ mayStart e queue = true ∧ d.length = 64 ∧ descWellFormed d = true
        ∧ descContext d = queue.context ∧ namesDoomed e queue d = false)
    ∧ (let c := desc 7 ([0, 0, 0, 3, 0, 0, 0, 0, 0, 1, 0, 3, 0, 0, 0, 0, 0, 1])
       let x : MemObj := { memobj with doomed := true }
       let s : State := { e with obj := { e.obj with memobjs := [x] } }
       let t : State := { e with obj := { e.obj with memobjs := [{ x with ahead := [(2, 1)] }] } }
       c.length = 64 ∧ descWellFormed c = true ∧ descContext c = queue.context ∧ mayStart s queue = true
         ∧ namesDoomed s queue c = true ∧ namesDoomed t queue c = false)
    ∧ descWellFormed (desc 8 []) = false
    ∧ (vfOf 1 = some 0
        ∧ (let v : State := { withVf { vf with state := .run } with
              obj := { e.obj with contexts := [{ context with fn := 1 }], queues := [{ queue with fn := 1 }] } }
           findQueue v 2 = some { queue with fn := 1 } ∧ mayStart v { queue with fn := 1 } = true))
    ∧ (findRing e 0 0 = some ring ∧ headFits ring 2 = true ∧ headFits ring 3 = false)
    ∧ (fnResetting e 0 = false ∧ ringSpace { ring with dropped := 1 } = true)
    ∧ (ring.tail ≠ ring.head) := by decide +kernel

/-- R370: an armed ring with unconsumed records interrupts at once. -/
theorem test_arm : ∃ t, exec (.arm 0 0) e = .next t ∧ t.out = [.interrupt 0 1] := ⟨_, rfl, by decide +kernel⟩

/-- FabricStatusCompletes: an instance that an operation awaits. -/
theorem witness_fabric : running e = true ∧ (2 : InstId) ≠ e.boot.instanceId ∧ (2 : InstId) ∉ e.fau.dead
    ∧ (2 : InstId) ∈ ({ e with fau := { e.fau with dead := [2] } } : State).fau.dead := by decide +kernel

/-! ### Packets and the Fabric Access Unit -/

/-- The slice of the world's plot. -/
abbrev slice3 : DomainId := sceDomain 50331648

/-- The Weir before that slice. -/
abbrev weir3 : DomainId := stackWeir 50331648

/-- Every slice and Weir serves, every Weir takes traffic, and no unit outside the cores waits for the stack. -/
abbrev WayFree (s : State) : Prop :=
  (∀ i : BitVec 3, serves s ⟨.sce, BitVec.ofNat 8 i.toNat⟩ = true ∧ serves s ⟨.weir, BitVec.ofNat 8 i.toNat⟩ = true
    ∧ weirAdmits s (BitVec.ofNat 8 i.toNat) 0 = true) ∧ ∀ x ∈ outsideWaits s, x.2 = []

theorem way_slice {s : State} (h : WayFree s) : serves s slice3 = true := (h.1 _).1

theorem way_weir {s : State} (h : WayFree s) : serves s weir3 = true := (h.1 _).2.1

theorem way_admits {s : State} (h : WayFree s) : weirAdmits s weir3.index 0 = true := (h.1 _).2.2

/-- The state in which the world's plot is used: its slice and its Weir have work, and the polder's slot was used. -/
def used (s : State) : State := setSlot { slot with lastUse := s.time } (markWork weir3 (markWork slice3 s))

/-- Where nothing outside the cores waits for the stack, none of it is looked up, and none misses a key. -/
theorem no_outside {s : State} (hw : ∀ x ∈ outsideWaits s, x.2 = []) :
    outsideUnits s = [] ∧ ∀ k, outsideMisses s k = 0 := by
  have h2 : ∀ (l : List (PolderId × List Lookup)) (n k : Nat), (∀ y ∈ l, y.2 = []) →
      l.foldl (fun m y => m + (y.2.filter fun z => z.fail.isNone && sceSlice (plotOf z.addr) = k).length) n = n := by
    intro l
    induction l with
    | nil => intro n k _; rfl
    | cons y l ih =>
      intro n k h
      rw [List.foldl_cons, h y (List.mem_cons_self ..)]
      exact ih _ _ fun z hz => h z (List.mem_cons_of_mem _ hz)
  refine ⟨?_, fun k => h2 _ 0 k fun y hy => hw y (List.mem_filter.mp hy |>.1)⟩
  unfold outsideUnits
  exact List.flatMap_eq_nil_iff.mpr fun y hy => by rw [hw y hy]; rfl

/-- Where nothing waits for the stack, an access of a unit is not behind another. -/
theorem unit_free {s : State} (hs : s.stack = e.stack) (hw : ∀ x ∈ outsideWaits s, x.2 = []) (x : Lookup) :
    pieceBusy s x = false := by
  unfold pieceBusy
  simp only [sliceFull, (no_outside hw).2, (no_outside hw).1, missQueue, coreFirst, hs]
  rfl

/-- Of a state whose way is free, the units of an access of plot 3 wake nothing. -/
theorem way_wakes {a : Nat} {s : State} (ha : plotOf a = 3) (n : Nat) (hv : WayFree s) :
    wakeSlices [⟨a, n, none, 0⟩] s = (false, markWork weir3 (markWork slice3 s)) := by
  have h1 : stackPath a = [slice3, weir3] := by
    simp only [stackPath, slice3, weir3, sceDomain, stackWeir, ha]
    rfl
  have h2 : stackWeir a = weir3 := by
    simp only [weir3, stackWeir, ha]
    rfl
  have h3 : weirTakes (markWork weir3 (markWork slice3 s)) weir3.index = true := (Bool.and_eq_true_iff.mp (way_admits hv)).1
  simp only [wakeSlices, wakeAll, List.flatMap_cons, List.flatMap_nil, List.append_nil, h1, List.filter_cons, way_slice hv, way_weir hv,
    Bool.not_true, Bool.false_eq_true, if_false, List.filter_nil, List.isEmpty_nil, if_true, List.foldl_cons, List.foldl_nil,
    List.any_cons, List.any_nil, h2, h3, Bool.or_self]

/-- Of any state with the world's polder, key slot and stacks, whose way is free, an access of plot 3 meets no check. -/
theorem pieces_ready {s : State} (w reads : Bool) (n : Nat) (hp : s.polders = [polder]) (hk : s.cad.slots = [slot])
    (hm : s.cad.slotMask = 0) (hs : s.stack = e.stack) (hv : WayFree s) :
    pieceStatuses 5 [⟨50331648, n, none, 0⟩] w reads s = (some [.ok], used s) := by
  have h1 : isFrozen s 5 = false := by simp [isFrozen, findPolder, hp, polder]
  have h2 : plotFilling (plotEntry s (plotOf 50331648)) = false := by simp only [plotEntry, hs]; decide +kernel
  have h3 : pieceBusy s ⟨50331648, n, none, 0⟩ = false := unit_free hs hv.2 _
  have h4 := way_wakes (a := 50331648) (by decide) n hv
  have h5 : needKey 5 3 (markWork weir3 (markWork slice3 s)) = (.ready, used s) :=
    key_ready (t := 0) (s := markWork weir3 (markWork slice3 s)) hp hk hm (by decide)
  have h6 : ∀ m, stackBad (used s) 50331648 m = false := by
    intro m
    show (s.stack.bad.any _) = false
    rw [hs]
    rfl
  unfold pieceStatuses
  simp only [h1, List.filter_cons, Option.isNone_none, List.filter_nil, if_true, List.isEmpty_cons, List.any_cons,
    List.any_nil, h2, h3, h4, h5, h6, Bool.or_self, Bool.false_eq_true, if_false, List.map_cons, List.map_nil,
    Bool.and_false, List.foldl_cons, List.foldl_nil]
  rfl

/-- What the FAU finds of a region that lies at plot 3: an access that passed every check. -/
def plot3 (n : Nat) : Lookup := ⟨50331648, n, none, 0⟩

/-- A released request of instance 2 in polder 5: an opcode, modifier, length and payload, to region 9. -/
def request (op : BitVec 8) (m : BitVec 16) (n : BitVec 13) (payload : Bytes) : Released :=
  { polder := 5, src := 2, group := none, sid := 1, epoch := 0, counter := 0, kind := 0, cls := 0, retry := false
    inner := { offset := 0, regionKey := 2359373, seq := 0, ctag := 3, opLength := n, opcode := op, classLabel := 0,
               opFlags := 0, modifier := m, aux := 0 }
    payload := payload }

/-- A state with one packet released to it. -/
def given (r : Released) (s : State) : State := { s with link := { s.link with inbox := [r] } }

/-- The state in which the request of given is performed. -/
def served (r : Released) : State := (targetChecks r false (taken r (given r e))).2

/-- A load of region 9 reads its bytes. -/
theorem read_ready {r : Released} {l : List Lookup} {s : State} (n : Nat) (hl : l = [plot3 n]) (hr : s.boot.role = .e)
    (hp : s.polders = [polder]) (hk : s.cad.slots = [slot]) (hm : s.cad.slotMask = 0) (hs : s.stack = e.stack)
    (hv : WayFree s) (h5 : r.polder = 5) :
    ∃ b v, targetRead r.polder region r.inner.offset.toNat n l s = (some (.ok, b), v) := by
  subst hl
  unfold targetRead
  rw [if_neg (by rw [hr]; decide), h5]
  unfold stackTargetRead
  rw [show [plot3 n] = [⟨50331648, n, none, 0⟩] from rfl, pieces_ready false true n hp hk hm hs hv]
  exact ⟨_, _, rfl⟩

/-- A change of region 9 writes its bytes. -/
theorem change_ready {r : Released} {l : List Lookup} {s : State} (n : Nat) (full : Bool) (f : Bytes → Option Bytes)
    (hl : l = [plot3 n]) (hr : s.boot.role = .e) (hp : s.polders = [polder]) (hk : s.cad.slots = [slot])
    (hm : s.cad.slotMask = 0) (hs : s.stack = e.stack) (hv : WayFree s) (h5 : r.polder = 5)
    (hf : ∀ b, (f b).isSome = true) :
    ∃ old v, targetChange r.polder region r.inner.offset.toNat n full l f s = (some (.ok, old, [(0, n)]), v) := by
  subst hl
  unfold targetChange
  rw [if_neg (by rw [hr]; decide), h5]
  unfold stackTargetChange
  rw [show [plot3 n] = [⟨50331648, n, none, 0⟩] from rfl, pieces_ready true (!full) n hp hk hm hs hv]
  dsimp only
  split
  · next h =>
    have h' := congrArg Option.isSome h
    rw [hf] at h'
    cases h'
  · exact ⟨_, _, rfl⟩

/-- A signal region of core 0. -/
def signalRegion : Region := { region with signalKind := true, counterCnt := 4 }

/-- TargetMemoryOperationsComplete, RefusedRequestsAreAnswered: a new request of each opcode. -/
theorem witness_requests :
    FreshRequest 0x01 (request 1 0 64 []) (given (request 1 0 64 []) e)
    ∧ FreshRequest 0x02 (request 2 0 64 (zeros 64)) (given (request 2 0 64 (zeros 64)) e)
    ∧ FreshRequest 0x05 (request 5 0 64 (zeros 64)) (given (request 5 0 64 (zeros 64)) e)
    ∧ FreshRequest 0x03 (request 3 0x20 4 (zeros 4)) (given (request 3 0x20 4 (zeros 4)) e)
    ∧ FreshRequest 0x04 (request 4 0x550 64 (zeros 64)) (given (request 4 0x550 64 (zeros 64)) e)
    ∧ FreshRequest 0x06 (request 6 0 4 [1, 0, 0, 0]) (given (request 6 0 4 [1, 0, 0, 0]) e)
    ∧ FreshRequest 0x07 (request 7 0 0 []) (given (request 7 0 0 []) e) := by
  unfold FreshRequest
  decide +kernel

/-- TargetMemoryOperationsComplete: the target's checks pass, and what they look up meets none. -/
theorem witness_target_checks :
    ∀ x ∈ [(request 1 0 64 [], false), (request 2 0 64 (zeros 64), true), (request 5 0 64 (zeros 64), true),
      (request 3 0x20 4 (zeros 4), true), (request 4 0x550 64 (zeros 64), true)],
      (targetChecks x.1 false (taken x.1 (given x.1 e))).1 = .pass region
        ∧ targetLookups x.1.polder region 0 (coveredBytes x.1.inner) x.2 [] (served x.1)
          = [plot3 (coveredBytes x.1.inner)]
        ∧ targetAdmits (served x.1) [plot3 (coveredBytes x.1.inner)] x.1.cls = true := by
  decide +kernel

/-- TargetMemoryOperationsComplete: the region is read, written, changed and reduced into. -/
theorem witness_target :
    (∃ b v, targetRead 5 region 0 64 [plot3 64] (served (request 1 0 64 [])) = (some (.ok, b), v))
    ∧ (∀ op ∈ [(2 : BitVec 8), 5], ∃ old v, targetChange 5 region 0 64 true [plot3 64]
        (fun _ => some (zeros 64)) (served (request op 0 64 (zeros 64))) = (some (.ok, old, [(0, 64)]), v))
    ∧ (∃ old v, targetChange 5 region 0 4 false [plot3 4] (atomicNew 0x20 (zeros 4))
        (served (request 3 0x20 4 (zeros 4))) = (some (.ok, old, [(0, 4)]), v))
    ∧ (∃ old v, targetChange 5 region 0 64 false [plot3 64] (fun old => some (reduceStored 0x550 old (zeros 64)).1)
        (meter 5 5 16 (served (request 4 0x550 64 (zeros 64)))) = (some (.ok, old, [(0, 64)]), v)) := by
  refine ⟨read_ready (r := request 1 0 64 []) 64 rfl rfl rfl rfl rfl rfl (by decide +kernel) rfl, ?_, ?_, ?_⟩
  · intro op h
    rcases List.mem_cons.mp h with rfl | h
    · exact change_ready (r := request 2 0 64 []) 64 true _ rfl rfl rfl rfl rfl rfl (by decide +kernel) rfl fun _ => rfl
    · obtain rfl := List.mem_singleton.mp h
      exact change_ready (r := request 5 0 64 []) 64 true _ rfl rfl rfl rfl rfl rfl (by decide +kernel) rfl fun _ => rfl
  · exact change_ready (r := request 3 0 4 []) 4 false _ rfl rfl rfl rfl rfl rfl (by decide +kernel) rfl fun _ => rfl
  · exact change_ready (r := request 4 0 64 []) 64 false _ rfl rfl rfl rfl rfl rfl (by decide +kernel) rfl fun _ => rfl

/-- RefusedRequestsAreAnswered: a key that names no region, and an extent that has no key yet. -/
theorem witness_refused :
    let r := { request 1 0 64 [] with inner := { (request 1 0 64 []).inner with regionKey := 1 } }
    FreshRequest 0x01 r (given r e) ∧ fenceLike 1 r.inner.opLength.toNat = false
    ∧ (targetChecks r false (taken r (given r e))).1 = .fail .denied := by
  unfold FreshRequest
  decide +kernel

/-- CopiesAreNotPerformedTwice: a number below A_r, and one whose first copy waits for its acknowledgement. -/
theorem witness_copies :
    let r := request 1 0 64 []
    let rec_ : SeqRecord := { polder := 5, src := 2, dest := destOf false 1, ar := 0, m := 0, seen := 1 }
    let old := given r { e with fau := { e.fau with records := [{ rec_ with ar := 1, m := 1 }] } }
    let busy := given r { e with fau := { e.fau with
      records := [rec_], unacked := [{ rel := r, status := .ok, flags := 0, old := 0, region := 9, noRoom := false }] } }
    (running old = true ∧ nextReleased old 1 0 = some r ∧ isFrozen old 5 = false ∧ fauServes old = true
      ∧ seqCase r (raisedAt r old) = .stale)
    ∧ seqCase r (raisedAt r busy) = .inProgress := by decide +kernel

/-- SignalsAndFencesComplete. -/
theorem witness_signals :
    let r := request 6 0 4 [1, 0, 0, 0]
    let w : State := { e with fau := { e.fau with regions := [signalRegion] } }
    let late := { r with inner := { r.inner with aux := 4, seq := 9 } }
    let f := { request 7 0 0 [] with inner := { (request 7 0 0 []).inner with regionKey := 0 } }
    let u := (targetChecks r false (taken r (given r w))).2
    let h : Held := { rel := r, isFence := false, at_ := 0, noRoom := false }
    (FreshRequest 6 r (given r w) ∧ (targetChecks r false (taken r (given r w))).1 = .pass signalRegion ∧ holdMet r u = true
      ∧ findRegion u (keyIndex r.inner.regionKey) = some signalRegion ∧ coreContext u 0 = some context
      ∧ signalIncrement r ≠ 0 ∧ serves u (scaDomain 0) = true)
    ∧ (FreshRequest 6 late (given late w) ∧ (targetChecks late false (taken late (given late w))).1 = .pass signalRegion
      ∧ holdMet late (targetChecks late false (taken late (given late w))).2 = false)
    ∧ (FreshRequest 7 f (given f e) ∧ f.inner.opcode = 7
      ∧ shapeOk 7 f.inner.modifier f.inner.regionKey f.inner.offset f.inner.opLength.toNat = true
      ∧ holdMet f (taken f (given f e)) = true)
    ∧ (let g := { f with inner := { f.inner with seq := 9 } }
       FreshRequest 7 g (given g e) ∧ holdMet g (taken g (given g e)) = false)
    ∧ (∀ k ∈ [h, { h with rel := f, isFence := true }],
        let s : State := { w with fau := { w.fau with hold := [k], records := [⟨5, 2, destOf false 1, 1, 1, 0⟩] } }
        s.fau.hold[0]? = some k ∧ holdMet k.rel s = true ∧ isFrozen s 5 = false ∧ answerRoom k.rel s = true
          ∧ findRegion s (keyIndex r.inner.regionKey) = some signalRegion ∧ serves s (scaDomain 0) = true)
    ∧ (h.at_ + 2000000 ≤ e.time) := by
  unfold FreshRequest
  decide +kernel

/-- The 32 bytes of an outer header to instance 1 from instance 2 (R51). -/
def header (version : Nat) (kind length : Nat) : Bytes :=
  leBytes 4 (1 + version * 16384 + 2 * 65536) ++ leBytes 4 (length * 256) ++ zeros 8 ++ leBytes 4 (5 + 65536)
    ++ leBytes 4 0 ++ leBytes 4 0 ++ leBytes 4 kind

/-- A receive stream of polder 5 from instance 2. -/
def rxStream : RxStream :=
  { polder := 5, src := 2, sid := 1, group := none, cls := 0, h := 0, w := 0, window := 0, prevKey := none,
    key := some 3, nextKey := none, counts := [], folded := 0, recordAt := none }

/-- A transmit stream of polder 5 to instance 2. -/
def txStream : TxStream :=
  { polder := 5, dest := 2, sid := 1, cls := 0, lane := 0, epoch := 0, counter := 1, key := some 3, nextKey := none,
    requested := false, stalled := false, ended := false, counts := [] }

/-- A request of context 1 to instance 2. -/
def remote (op : BitVec 8) (len : BitVec 13) : RemoteReq :=
  { context := 1, opcode := op, modifier := 0, dst := 2, mc := false, regionKey := 9, offset := 0, len := len,
    localAddr := 50331648, ctag := 7, increment := 1 }

/-- An outstanding load, first sent at time 0. -/
def outOp : OutOp :=
  { id := 3, req := remote 1 64, source := .core, polder := 5, cls := 0, dest := 2, seq := 0, aux := 0, payload := [],
    firstTx := some 0, lastTx := 0, resends := 0, sentAs := [(1, 0, 0)], awaiting := [2], results := [], fence := none, lookups := [] }

/-- PacketReceptionCompletes: a packet that passes check 1 and those after it, up to the tag and the plaintext; one of no
known polder; one that fails check 1; a notice that ends an operation, and one that does not pass; a stream's entry. -/
theorem witness_packets :
    let b := header 1 0 0 ++ zeros 48
    let h := parseHeader b
    let s : State := { e with link := { Link.reset with rx := [rxStream], tx := [txStream], cached := [(rxRef h, 0)] } }
    let n := header 2 0 0
    (portOpen 0 s = true ∧ linkServes s = true ∧ (0 : BitVec 8).toNat < portCount s.boot.role
      ∧ accepts s ⟨.lceRx, 0⟩ = true ∧ ¬(h.mc = true ∧ h.src = s.boot.instanceId)
      ∧ passesCheck1 b h s = true ∧ findPolder s h.polder = some polder ∧ h.kind ≠ 3 ∧ h.reserved7 = 0 ∧ sidFits h = true
      ∧ cachedIn s (rxRef h) = some 0 ∧ findRx s h.polder h.src h.sid (headerGroup h) = some rxStream
      ∧ epochHeld rxStream h.epoch = true ∧ rxKey rxStream h.epoch = some 3
      ∧ isMember polder h.src = true ∧ isMember polder s.boot.instanceId = true ∧ polder.teardown = none
      ∧ polder.freeze = .none)
    ∧ windowFree { rxStream with w := 7, window := 1 } 5 = true
    ∧ findPolder (up .e) h.polder = none ∧ passesCheck1 b h (up .e) = true ∧ passesCheck1 (b.take 79) h s = false
    ∧ (noticePasses (n.take 28 ++ [statusCode .polderGone, 0, 0, 0]) (parseHeader n) s = true
      ∧ noticedOp { s with fau := { s.fau with ops := [outOp] } } (parseHeader n) = some outOp)
    ∧ noticePasses n (parseHeader n) s = false
    ∧ (let r := rxRef h
       streamThere s 0 r = true ∧ serves s (streamDomain 0 r) = true) := by decide +kernel

/-- TargetTablesComplete. -/
theorem witness_target_tables :
    let r := request 2 0 64 (zeros 64)
    let x : Unacked := { rel := r, status := .ok, flags := 0, old := 0, region := 9, noRoom := false }
    let a : Answer :=
      { polder := 5, src := 2, dest := 1, seq := 0, status := .ok, flags := 0, data := [], at_ := 99998000000 }
    let p : Replay := { polder := 5, src := 2, seq := 0, status := .ok, old := 0, width := 4, at_ := 99998000000, datum := 0 }
    let s : State := { e with fau := { e.fau with
      regions := [{ region with withdrawing := true }], unacked := [x], answers := [a], replays := [p] } }
    (s.fau.unacked[0]? = some x ∧ answerRoom x.rel s = true)
    ∧ (s.fau.answers[0]? = some a ∧ a.at_ + 2000000 ≤ s.time) ∧ (s.fau.replays[0]? = some p ∧ p.at_ + 2000000 ≤ s.time)
    ∧ (s.time - 1 < a.at_ + 2000000)
    ∧ (let y : Unacked := { x with rel := request 3 0x20 4 (zeros 4) }
       let full : State := gated [] { s with fau := { s.fau with unacked := [y] } }
       full.fau.unacked[0]? = some y ∧ answerRoom y.rel full = false)
    ∧ (findRegion e 9 = some region ∧ regionInUse 9 e = false) := by decide +kernel

/-- Nothing is looked up for no bytes. -/
theorem local_none (a : Nat) (w : Bool) {s : State} (hp : s.polders = [polder]) (ho : findContext s 1 = some context) :
    localUse 1 5 a 0 w [] s = (.ready, [], s) := by
  have h1 : findPolder s 5 = some polder := by simp [findPolder, hp, polder]
  unfold localUse
  simp only [ho, h1, unitPieces, lookUp, if_true, List.isEmpty_nil, List.map_nil, rangeUse, rangeAdmits, List.all_nil,
    Bool.not_true, Bool.false_eq_true, if_false]

/-- An access within one data unit of plot 3 by context 1 meets no check. -/
theorem local_at (w : Bool) {a n t : Nat} {s : State} (ha : plotOf a = 3) (h0 : ¬2 ^ 40 ≤ a) (hn : unitPieces a n = [(a, n)])
    (hp : s.polders = [polder]) (hk : s.cad.slots = [{ slot with lastUse := t }]) (hm : s.cad.slotMask = 0)
    (hs : s.stack = e.stack) (hc : s.chip = .reset) (hv : WayFree s)
    (ho : findContext s 1 = some context) : localUse 1 5 a n w [] s = (.ready, [⟨a, n, none, 0⟩], used s) := by
  have h1 : findPolder s 5 = some polder := by simp [findPolder, hp, polder]
  have h2 : polderPlotChecks s polder 3 w = none := by
    have h3 : plotEntry s 3 = mkPlot 7 0 true false := by simp only [plotEntry, hs]; decide +kernel
    have h4 : plotReleasing s 3 = false := by simp only [plotReleasing, hs]; decide +kernel
    unfold polderPlotChecks
    simp only [h3, h4, hc]
    cases w <;> decide +kernel
  have h3 : lookUp s polder [(a, n)] w = [⟨a, n, none, 0⟩] := by
    simp only [lookUp, List.map_cons, List.map_nil, ha, h2, h0, if_false, hs]
    rfl
  have h4 : isFrozen s 5 = false := by simp [isFrozen, findPolder, hp, polder]
  have h5 : ∀ u : State, u.stack = s.stack → plotFilling (plotEntry u 3) = false := by
    intro u hu
    simp only [plotEntry, hu, hs]
    decide +kernel
  have h6 : wakeSlices [⟨a, n, none, 0⟩] s = (false, markWork weir3 (markWork slice3 s)) := way_wakes ha n hv
  have h7 : needKey 5 3 (markWork weir3 (markWork slice3 s)) = (.ready, used s) :=
    key_ready (s := markWork weir3 (markWork slice3 s)) hp hk hm (by decide)
  have h9 : pieceBusy (used s) ⟨a, n, none, 0⟩ = false := unit_free (s := used s) hs hv.2 _
  have h12 : rangeAdmits s [⟨a, n, none, 0⟩] (contextClass s 1) = true := by
    have h13 : stackWeir a = weir3 := by
      simp only [weir3, stackWeir, ha]
      rfl
    have h14 : contextClass s 1 = 0 := by
      simp only [contextClass, ho]
      rfl
    have h15 := way_admits hv
    simp only [rangeAdmits, stackAdmits, List.all_cons, List.all_nil, h13, h14, h15, Option.isSome_none, Bool.false_or,
      Bool.and_self]
  have h10 : stackBad (used s) a n = false := by
    show (s.stack.bad.any _) = false
    rw [hs]
    rfl
  have h11 : rangeUse 5 w [⟨a, n, none, 0⟩] s = (.ready, used s) := by
    unfold rangeUse
    simp only [h4, Bool.false_eq_true, if_false, ha, h5 s rfl, ne_eq, not_true_eq_false, h6, h7,
      List.find?_cons, List.find?_nil, h10, decide_false, Bool.and_false, Bool.or_false, h9]
  unfold localUse
  simp only [ho, h1, hn, h3, List.isEmpty_nil, if_true, h11, h12, Bool.not_true, Bool.false_eq_true, if_false]

/-- An access of 64 B of plot 3 by context 1 meets no check. -/
theorem local_ready (w : Bool) {s : State} (hp : s.polders = [polder]) (hk : s.cad.slots = [slot])
    (hm : s.cad.slotMask = 0) (hs : s.stack = e.stack) (hc : s.chip = .reset) (hv : WayFree s)
    (ho : findContext s 1 = some context) : localUse 1 5 50331648 64 w [] s = (.ready, [plot3 64], used s) :=
  local_at (t := 0) w (by decide +kernel) (by decide) (by decide +kernel) hp hk hm hs hc hv ho

/-- So a collective's or a bulk copy's access that meets no check keeps no lookup. -/
theorem check_ready (user : StackUser) {c : CtxId} {p : PolderId} {a n : Nat} {w : Bool} {l : List Lookup} {s : State}
    (hs : s.stack.others = []) (h : localUse c p a n w [] s = (.ready, l, used s)) :
    localCheck user c p a n w s = (.ready, used s) := by
  have h1 : keptLookups s user a n w = [] := by
    simp only [keptLookups, hs]
    rfl
  unfold localCheck
  simp only [h1, h, keepLookups, otherUses]
  rw [show (used s).stack.others = [] from hs]
  simp only [List.filter_nil, List.isEmpty_nil, if_true]
  rw [← show (used s).stack.others = [] from hs]

/-- RequesterCompletes: a load and a signal that no check refuses. -/
theorem witness_requester :
    (∀ r ∈ [remote 1 64, remote 6 4], running e = true ∧ e.boot.role = .e ∧ accepts e fauDomain = true
      ∧ e.fau.waiting = [] ∧ e.fau.fences = []
      ∧ findContext e r.context = some context ∧ findPolder e context.polder = some polder ∧ polder.teardown = none
      ∧ context.state = .bound ∧ shapeOk r.opcode r.modifier r.regionKey r.offset r.len.toNat = true ∧ r.opcode ≠ 7
      ∧ r.len ≠ 0 ∧ mcOk r = true ∧ (isMember polder r.dst = true ∧ r.dst ∉ e.fau.dead)
      ∧ isFrozen e 5 = false ∧ isMember polder e.boot.instanceId = true ∧ hungFor e fauUnit (some r.context) = false ∧ e.fau.ops.length < 4096
      ∧ spaceOpen e 5 (reqDest r) = true ∧ sourceLen r = 0)
    ∧ localUse 1 5 (remote 1 64).localAddr.toNat 0 false [] (markWork fauDomain e) = (.ready, [], markWork fauDomain e)
    ∧ localUse 1 5 (remote 1 64).localAddr.toNat (sinkLen (remote 1 64)) true [] (markWork fauDomain e)
      = (.ready, [plot3 64], used (markWork fauDomain e)) := by
  refine ⟨by decide +kernel, local_none _ _ rfl rfl, ?_⟩
  exact local_ready (s := markWork fauDomain e) true rfl rfl rfl rfl rfl (by decide +kernel) rfl

/-- An answer to the load of outOp. -/
def answer : Released :=
  { request 8 0 64 (zeros 64) with
    kind := 1, inner := { (request 8 0 64 []).inner with seq := 0, ctag := 3, regionKey := 0 } }

/-- The world with outOp outstanding. -/
def awaiting : State := { e with fau := { e.fau with ops := [outOp] } }

/-- RequesterCompletes: an answer to a load, one that answers nothing, an operation to send again and one to give up. -/
theorem witness_answers :
    (fauServes awaiting = true
      ∧ ((given answer awaiting).link.inbox.find? fun r => isCompletion r && !answerWaits (given answer awaiting) r)
        = some answer
      ∧ answeredOp (given answer awaiting) answer = some outOp ∧ outOp.req.opcode = 1 ∧ destIsGroup outOp.dest = false
      ∧ outOp.req.len ≠ 0 ∧ answer.payload.length = outOp.req.len.toNat ∧ answer.inner.aux.extractLsb' 0 8 = 0)
    ∧ (((given answer e).link.inbox.find? fun r => isCompletion r && !answerWaits (given answer e) r) = some answer
      ∧ answeredOp (given answer e) answer = none)
    ∧ (awaiting.fau.ops[0]? = some outOp ∧ outOp.firstTx.isSome = true ∧ outOp.resends < 3
      ∧ outOp.lastTx + 250000 ≤ awaiting.time ∧ silent awaiting outOp ≠ [] ∧ awaiting.link.txWait = []
      ∧ admitted awaiting 5 = true
      ∧ admitted { awaiting with polders := [{ polder with members := 4 }] } 5 = false)
    ∧ opExpired { outOp with resends := 3 } awaiting = true := by decide +kernel

/-- RequesterCompletes: the answer's data is written. -/
theorem witness_sink : localUse 1 5 50331648 64 true [] (atFau (given answer awaiting))
    = (.ready, [plot3 64], used (atFau (given answer awaiting))) :=
  local_ready true rfl rfl rfl rfl rfl (by decide +kernel) rfl


/-! ### Rings -/

/-- Ring 8 of polder 5: instance 1 is its member 0, whose home memory is plot 3, and instance 2 its member 1. -/
def ring8 : Ring :=
  { id := 8, polder := 5, members := [1, 2], own := 0, home := [3], active := true, heartbeat := 0, sentAt := 0,
    peers := [{ member := 1, last := some 4, at_ := 0, dead := false }], destroying := none, rttBase := 0 }

/-- A ring message of member 1 about line 0 of member 0. -/
def ringMsg (msg : Nat) (payload : Bytes) : Released :=
  { request 0x0B (BitVec.ofNat 16 msg) (BitVec.ofNat 13 payload.length) payload with
    inner := { (request 0x0B (BitVec.ofNat 16 msg) (BitVec.ofNat 13 payload.length) payload).inner with regionKey := 8 } }

/-- The world with ring 8 and a directory, given a message. -/
def ringed (dir : List DirEntry) (m : Released) : State :=
  given m { e with rings := { Rings.reset with rings := [ring8], directory := dir } }

/-- Line 0 in the directory: shared by member 1, by both, or owned by member 0 or 1. -/
def sharedBy (sharers : BitVec 8) : DirEntry :=
  { ring := 8, line := 0, state := .shared, busy := false, sharers := sharers, owner := 0, order := 0 }

def ownedBy (k : BitVec 3) : DirEntry :=
  { ring := 8, line := 0, state := .modified, busy := false, sharers := 0, owner := k, order := 0 }

/-- Home memory of line 0 is read and written. -/
theorem home_ready (data : Option Bytes) {s : State} (hr : s.boot.role = .e) (hp : s.polders = [polder])
    (hk : s.cad.slots = [slot]) (hm : s.cad.slotMask = 0) (hs : s.stack = e.stack) (hc : s.chip = .reset)
    (hv : WayFree s) :
    ∃ b v, homeAccess ring8 0 data s = (.ended .ok b, v) ∧ (data.isSome = true → b = []) := by
  have h1 : findPolder s ring8.polder = some polder := by simp [findPolder, hp, ring8, polder]
  have h2 : homeUnit ring8 0 16777216 = some 3 := by decide +kernel
  have h3 : ((3 : BitVec 16).toNat * 16777216 + 256 * (0 : BitVec 37).toNat % 16777216) = 50331648 := by decide
  have h4 : ∀ w, lookUp s polder [(50331648, 256)] w = [⟨50331648, 256, none, 0⟩] := by
    intro w
    have h5 : plotEntry s (plotOf 50331648) = mkPlot 7 0 true false := by simp only [plotEntry, hs]; decide +kernel
    have h6 : plotReleasing s (plotOf 50331648) = false := by simp only [plotReleasing, hs]; decide +kernel
    have h7 : polderPlotChecks s polder (plotOf 50331648) w = none := by
      unfold polderPlotChecks
      simp only [h5, h6, hc]
      cases w <;> decide +kernel
    simp only [lookUp, List.map_cons, List.map_nil, h7, hs]
    rfl
  have h8 : ∀ w, keptLookups s (.home ring8.id 0) 50331648 256 w = [] := by
    intro w
    simp only [keptLookups, hs]
    rfl
  unfold homeAccess
  rw [if_neg (by rw [hr]; decide)]
  simp only [h1, h2, h3, h4, h8, List.isEmpty_nil, if_true]
  cases data
  · simp only [show polder.id = 5#16 from rfl, stackTargetRead]
    have h5 := pieces_ready false true 256 hp hk hm hs hv
    rw [show (5 : PolderId) = 5#16 from rfl] at h5
    rw [h5]
    exact ⟨_, _, rfl, fun h => by cases h⟩
  · simp only [show polder.id = 5#16 from rfl, stackTargetChange]
    have h5 := pieces_ready true (!true) 256 hp hk hm hs hv
    rw [show (5 : PolderId) = 5#16 from rfl] at h5
    rw [h5]
    exact ⟨_, _, rfl, fun _ => rfl⟩

/-- HomeRequestsComplete: for each clause, the message that is at home and the line as it stands. -/
theorem witness_home :
    (∀ x ∈ [(0, ([] : Bytes), ([] : List DirEntry)), (0, [], [sharedBy 1]), (0, [], [ownedBy 0]), (1, [], []),
        (1, [], [sharedBy 3]), (1, [], [ownedBy 0]), (2, [], [sharedBy 2]), (3, zeros 256, [ownedBy 1]),
        (4, [], [sharedBy 2])],
      AtHome x.1 ring8 1 (ringMsg x.1 x.2.1) (ringed x.2.2 (ringMsg x.1 x.2.1))
        ∧ findLine (seenRing (ringMsg x.1 x.2.1) (ringed x.2.2 (ringMsg x.1 x.2.1))) 8 0 = x.2.2.head?)
    ∧ (∃ j ∈ sharersOf 3, j ≠ 1) ∧ (∀ j ∈ sharersOf 2, j = 1) ∧ (sharedBy 2).sharers.getLsbD (1 : BitVec 3).toNat = true := by
  unfold AtHome FreshRing
  decide +kernel

theorem witness_home_memory :
    (∃ b v, homeAccess ring8 0 none (seenRing (ringMsg 0 []) (ringed [] (ringMsg 0 []))) = (.ended .ok b, v))
    ∧ (∃ v, homeAccess ring8 0 (some (zeros 256)) (seenRing (ringMsg 3 (zeros 256))
        (ringed [ownedBy 1] (ringMsg 3 (zeros 256)))) = (.ended .ok [], v)) := by
  constructor
  · obtain ⟨b, v, h, _⟩ := home_ready (s := seenRing (ringMsg 0 []) (ringed [] (ringMsg 0 []))) none rfl rfl rfl rfl rfl rfl (by decide +kernel)
    exact ⟨b, v, h⟩
  · obtain ⟨b, v, h, hb⟩ := home_ready (data := some (zeros 256)) (s := seenRing (ringMsg 3 (zeros 256))
      (ringed [ownedBy 1] (ringMsg 3 (zeros 256)))) rfl rfl rfl rfl rfl rfl (by decide +kernel)
    rw [hb rfl] at h
    exact ⟨v, h⟩

/-- SnoopsAndAnswersComplete: a snoop of member 1's line; answers to this member's request and to its snoop, one that
answers nothing, and a snoop that waits for the caching agent. -/
theorem witness_snoops :
    let away : BitVec 64 := BitVec.ofNat 64 (2 ^ 45)
    let at1 := fun (m : Released) => { m with inner := { m.inner with offset := away } }
    let q : RingReq :=
      { ring := 8, addr := 0, message := 1, member := 1, seq := 0, data := [], firstTx := some 0, lastTx := 0, resends := 0 }
    let waiting := fun (q : RingReq) (m : Released) =>
      ({ ringed [] m with rings := { (ringed [] m).rings with requests := [q] } } : State)
    let snoop := at1 (ringMsg 5 [])
    (∀ msg ∈ [5, 6, 7], FreshRing msg ring8 (at1 (ringMsg msg [])) (ringed [] (at1 (ringMsg msg [])))
      ∧ memberIndex ring8 2 = some 1 ∧ memberDead ring8 1 = false ∧ addrHome away = 1)
    ∧ (∀ msg ∈ [8, 9], fauServes (waiting q (ringMsg msg [])) = true
      ∧ nextRing (waiting q (ringMsg msg [])) msg = some (ringMsg msg [])
      ∧ answeredRing (ringMsg msg []) (waiting q (ringMsg msg [])) = some (ring8, q) ∧ q.message.toNat ≤ 4)
    ∧ (nextRing (waiting { q with message := 6 } (ringMsg 0xA (zeros 256))) 0xA = some (ringMsg 0xA (zeros 256))
      ∧ answeredRing (ringMsg 0xA (zeros 256)) (waiting { q with message := 6 } (ringMsg 0xA (zeros 256)))
        = some (ring8, { q with message := 6 }))
    ∧ (let x : RingTxn := { ring := 8, line := 0, acks := [], data := some 1, answered := false, goal := .serve (ringMsg 0 []) }
       let w := fun (m : Released) (d : List RingTxn) => (({ waiting { q with message := 6 } m with
         rings := { (waiting { q with message := 6 } m).rings with txns := d } } : State))
       awaitsData ring8 { q with message := 6 } (w (ringMsg 0xA (zeros 256)) [x]) = true
         ∧ awaitsData ring8 { q with message := 6 } (w (ringMsg 9 []) [x]) = true
         ∧ awaitsData ring8 { q with message := 6 } (w (ringMsg 9 []) [{ x with data := none, acks := [1] }]) = false
         ∧ answeredRing (ringMsg 9 []) (w (ringMsg 9 []) [x]) = some (ring8, { q with message := 6 })
         ∧ (w (ringMsg 9 []) [x]).rings.waiting = [])
    ∧ answeredRing (ringMsg 8 []) (ringed [] (ringMsg 8 [])) = none
    ∧ (let s : State := { ringed [] snoop with rings := { (ringed [] snoop).rings with snoops := [snoop] } }
       (s.rings.snoops.find? fun m => messageRing m.inner = 8 && m.inner.offset = away) = some snoop
         ∧ s.rings.replies = [] ∧ findRingOf s 8 = some ring8 ∧ snoop.src ≠ s.boot.instanceId
         ∧ s.fau.answers.length < 65536) := by
  unfold FreshRing
  decide +kernel

/-- LineRequestsAndHeartbeatsComplete: lines of this member, of another and of a dead one; heartbeats in sequence, to send
and missed. -/
theorem witness_lines :
    let s := ringed [] (ringMsg 0 [])
    let beat : Released := { request 0x0C 0 0 [] with
      inner := { (request 0x0C 0 0 []).inner with regionKey := 8, aux := 5, offset := 0 } }
    let away : BitVec 64 := BitVec.ofNat 64 (2 ^ 45)
    let late : State := { s with datum := { s.datum with value := 350000 } }
    let served := fun (addr : BitVec 64) => domainExists s (lineDomain s 8 addr) = true → accepts s (lineDomain s 8 addr) = true
    (running s = true ∧ findRingOf s 8 = some ring8 ∧ findPolder s ring8.polder = some polder ∧ ring8.active = true
      ∧ ring8.destroying = none ∧ served 0 ∧ served away ∧ addrValid ring8 0 = true ∧ addrValid ring8 away = true ∧ addrHome 0 = ring8.own ∧ addrHome away ≠ ring8.own
      ∧ memberDead ring8 0 = false ∧ memberDead ring8 1 = false
      ∧ memberDead { ring8 with peers := [⟨1, none, 0, true⟩] } 1 = true
      ∧ spaceOpen s 5 (destOf false (memberInst ring8 1)) = true)
    ∧ (let t := ringed [] beat
       nextReleased t 0x0C 0 = some beat ∧ findRingOf t (messageRing beat.inner) = some ring8
         ∧ (ring8.peers.find? fun p => memberInst ring8 p.member = beat.src) = some ⟨1, some 4, 0, false⟩
         ∧ ring8.polder = beat.polder ∧ serialLt 4 beat.inner.aux = true)
    ∧ (ring8.sentAt + 100000 ≤ late.datum.value.toNat)
    ∧ ((ring8.peers.find? fun p => p.member = 1) = some ⟨1, some 4, 0, false⟩ ∧ 0 + 350000 ≤ late.datum.value.toNat
      ∧ s.datum.value.toNat < 0 + 350000) := by decide +kernel

/-! ### Collectives and barriers -/

/-- Group 20 of polder 5: instance 2 is its rank and instance 1 its root, or with another root 3 above it. -/
def group (root : Bool) : Group :=
  { id := 20, polder := 5, usable := true, result := 6, watchdog := 10, ranks := [⟨2, if root then 0 else 1⟩],
    nodes := if root then [⟨1, 0, 1⟩] else [⟨3, 0, 1⟩, ⟨1, 0, 1⟩], sinks := [], digest := 77, destroy := [] }

/-- The group with this instance as its rank. -/
def ranked : Group := { group true with ranks := [⟨1, 0⟩], nodes := [⟨2, 0, 1⟩] }

/-- A launch of collective 40 of four elements. -/
def launch (m : BitVec 16) : Launch :=
  { polder := 5, group := 20, id := 40, modifier := m, count := 4, threshold := 0, sinkDisp := 0, dstLength := 64,
    step := 0, mark := 0 }

/-- A node of collective 40 with one child, which has opened it. -/
def node (root : Bool) (m : BitVec 16) : CollNode :=
  { launch := launch m, cls := 0, node := if root then 0 else 1, root := root, kids := [⟨true, 0, [], 1024⟩], quanta := 1,
    window := 1, codes := [], codesUp := 0, bench := [], inputs := [], nextBlock := 0, ready := [], out := [], outPos := 0,
    ackedUp := 0, creditUp := 0, sums := [], counted := false, bases := [], second := false, placed := [], cuts := [],
    reports := [], sinkFails := [], flags := 0, outside := 0, outsideAt := 0, firstAt := 0, progressAt := 0 }

/-- A participant in collective 40 whose destination is plot 3. -/
def part : Participant :=
  { launch := launch 0x550, context := 1, cls := 0, queue := 2, index := 0, ctag := 7, src := 0, dst := 50331648,
    fired := true, opened := true, coded := true, sent := 0, acked := 0, credit := 0, second := false, written := [],
    through := 0, chunks := 0, writeStatus := none, progressAt := 0 }

/-- A packet of collective 40, upward or downward, of a type. -/
def collMsg (up : Bool) (type : BitVec 4) (payload : Bytes) : Released :=
  let r := request (if up then 9 else 10) 0x550 (BitVec.ofNat 13 payload.length) payload
  { r with kind := 2, inner := { r.inner with opFlags := type, ctag := 20, regionKey := 40, seq := 77, offset := 0 } }

/-- A block of role S or E with a group, a node or a participant, given a packet. -/
def collState (x : Role) (g : Group) (nodes : List CollNode) (parts : List Participant) (r : Released) : State :=
  given r { world x with coll := { Coll.reset with groups := [g], nodes := nodes, participants := parts } }

/-- Every domain of a block that is up serves. -/
theorem up_serves (x : Role) : ∀ d ∈ roleDomains x, serves (up x) d = true := by cases x <;> decide +kernel

/-- The domains a collective's packet uses, of each role. -/
def collUsed (x : Role) (id : BitVec 32) (barrier : Bool) : List DomainId :=
  if barrier then
    match x with
    | .e => [⟨.barrierUnit, 0⟩]
    | .s => [⟨.barrierBank, BitVec.ofNat 8 (id.toNat % 4)⟩]
    | .t => []
  else ⟨.rmuPair, BitVec.ofNat 8 (Config.lanePair id % domainCount x .rmuPair)⟩
    :: (List.range (domainCount x .bas)).map fun i => ⟨.bas, BitVec.ofNat 8 i⟩

theorem coll_used {s : State} {x : Role} (hr : s.boot.role = x) (id : BitVec 32) (barrier : Bool) :
    collDomains s id barrier = collUsed x id barrier := by
  have hp : ∀ k, k < 16 → unitDomain s (BitVec.ofNat 16 (0x0600 + k)) = some ⟨.rmuPair, BitVec.ofNat 8 k⟩ := by
    intro k hk
    rcases k with _|_|_|_|_|_|_|_|_|_|_|_|_|_|_|_|k <;> first | rfl | omega
  have hb : x = .s → ∀ k, k < 4 →
      unitDomain s (BitVec.ofNat 16 (0x1100 + k)) = some ⟨.barrierBank, BitVec.ofNat 8 k⟩ := by
    intro hx k hk
    rcases k with _|_|_|_|k <;> first | omega | simp [unitDomain, hr, hx]
  have he : x = .e → unitDomain s 0x1100 = some ⟨.barrierUnit, 0⟩ := fun hx => by simp [unitDomain, hr, hx]
  cases barrier with
  | false =>
    have h16 : Config.lanePair id % domainCount x .rmuPair < 16 :=
      Nat.lt_of_lt_of_le (Nat.mod_lt _ (by cases x <;> decide)) (by cases x <;> decide)
    have h1 : rmuUnit s id = BitVec.ofNat 16 (0x0600 + Config.lanePair id % domainCount x .rmuPair) := by
      cases x <;> simp only [rmuUnit, hr] <;> rfl
    simp only [collDomains, collUsed, Bool.false_eq_true, if_false, h1, hp _ h16, hr]
    rfl
  | true =>
    cases x
    · simp only [collDomains, collUsed, barrierUnit, hr, if_true, he rfl, reduceCtorEq, if_false, Option.toList]
    · simp [collDomains, collUsed, barrierUnit, hr, hb rfl _ (Nat.mod_lt id.toNat (show 0 < 4 by decide))]
    · simp [collDomains, collUsed, hr]

/-- Of any state with the power and the role of up, every domain that a collective's packet uses serves: the condition of
Admitted that Admits leaves out. -/
theorem coll_serves (x : Role) {s : State} (hb : s.boot = (up x).boot) (hp : s.pins = (up x).pins)
    (hw : s.power = (up x).power) (id : BitVec 32) (barrier : Bool) :
    ∀ d ∈ collDomains s id barrier, serves s d = true := by
  intro d hd
  rw [coll_used (x := x) (by rw [hb]; rfl)] at hd
  have h1 : serves s d = serves (up x) d := by
    simp only [serves, domainHeld, domainOn, getCulvert, hp, hw]
  rw [h1]
  refine up_serves x d ?_
  have hin : ∀ k i, i < domainCount x k → (⟨k, BitVec.ofNat 8 i⟩ : DomainId) ∈ roleDomains x := by
    intro k i hi
    simp only [roleDomains, List.mem_flatMap, List.mem_map, List.mem_range]
    exact ⟨k, by cases k <;> decide, i, hi, rfl⟩
  cases barrier with
  | false =>
    simp only [collUsed, Bool.false_eq_true, if_false, List.mem_cons, List.mem_map, List.mem_range] at hd
    rcases hd with rfl | ⟨i, hi, rfl⟩
    · exact hin _ _ (Nat.mod_lt _ (by cases x <;> decide))
    · exact hin _ _ hi
  | true =>
    cases x <;> simp only [collUsed, if_true, List.mem_singleton, List.not_mem_nil] at hd
    · exact hd ▸ hin .barrierUnit 0 (by decide)
    · exact hd ▸ hin .barrierBank _ (Nat.mod_lt _ (by decide))

/-- The state in which an admitted packet is served. -/
def admitted (r : Released) (s : State) (barrier : Bool := false) : State :=
  dropReleased r ((collUsed s.boot.role r.inner.regionKey barrier).foldl (fun t d => markWork d t) s)

/-- The packet of a direction and type is admitted. -/
def Admits (up : Bool) (type : BitVec 4) (barrier : Bool) (g : Group) (r : Released) (s : State) : Prop :=
  running s = true ∧ nextColl s up type barrier = some r ∧ isFrozen s r.polder = false
    ∧ (admitColl r (up && type = 0 && !barrier) (admitted r s barrier)).1 = some g

/-- An admitted packet leaves the state as it is. -/
theorem admits_state {r : Released} {b : Bool} {g : Group} {u : State} (h : (admitColl r b u).1 = some g) :
    (admitColl r b u).2 = u := by
  revert h
  unfold admitColl
  split
  · exact fun h => by cases h
  · split
    · exact fun h => by cases h
    · exact fun _ => rfl

/-- The first open packet: step, mark, count 4, threshold, displacement, destination length and digest. -/
def openPayload : Bytes := zeros 16 ++ leBytes 8 4 ++ zeros 16 ++ leBytes 8 77 ++ zeros 16

/-- CollectiveNodesComplete: opening, with the quanta and without. -/
theorem witness_open :
    let r := collMsg true 0 openPayload
    let s := collState .s (group true) [] [] r
    let full := collState .s (group true) [{ node true 0x550 with launch := { launch 0x550 with id := 41 }, quanta := 512 }] [] r
    (Admits true 0 false (group true) r s ∧ ownNode (group true) (admitted r s) = some 0
      ∧ kidFrom (group true) 0 r.src = some (0, .rank 0) ∧ findNode (admitted r s) 5 40 = none ∧ openFits (group true) r = true
      ∧ leastQuanta r.inner.modifier (kidsOf (group true) 0).length ≤ freeQuanta (admitted r s))
    ∧ freeQuanta (admitted r full) < leastQuanta r.inner.modifier (kidsOf (group true) 0).length
    ∧ findNode (admitted r full) 5 40 = none := by
  unfold Admits
  decide +kernel

/-- CollectiveNodesComplete: what comes from the child. -/
theorem witness_from_child :
    (∀ x ∈ [(1, zeros 1, (0x550 : BitVec 16)), (2, zeros 16, 0x550), (3, zeros 16, 0x555), (5, zeros 8, 0x550)],
      let r := collMsg true (BitVec.ofNat 4 x.1) x.2.1
      let s := collState .s (group true) [node true x.2.2] [] r
      Admits true (BitVec.ofNat 4 x.1) false (group true) r s
        ∧ FromKid (group true) r (node true x.2.2) 0 (.rank 0) (admitted r s))
    ∧ (allOpened (node true 0x550) = true ∧ benchHeld (node true 0x550) = true ∧ isFilter 0x550 = false
      ∧ isGather 0x550 = false ∧ isFilter 0x555 = true
      ∧ (let x := packetPartials { node true 0x550 with progressAt := 100000000000 } (.rank 0) (collMsg true 2 (zeros 16))
         x.1.length = 4 ∧ x.1.length ≤ (getKid (node true 0x550) 0).credit
           ∧ covers 0 x.1.length (getKid (node true 0x550) 0).got = false ∧ x.2.2 = [])) := by
  unfold Admits FromKid
  decide +kernel

/-- CollectiveNodesComplete: what comes from the parent. -/
theorem witness_from_parent :
    let r := collMsg false 1 (zeros 1)
    let b := collMsg false 3 (zeros 16)
    let a := collMsg false 4 (zeros 8 ++ leBytes 8 256)
    let g := group false
    let n := node false 0x4220
    let f := node false 0x555
    (Admits false 1 false g r (collState .s g [n] [] r) ∧ findNode (admitted r (collState .s g [n] [] r)) 5 40 = some n
      ∧ n.root = false ∧ benchHeld n = false ∧ 0 + r.payload.length ≤ blockCount n.launch
      ∧ benchHeld { n with bench := [(0, 0)] } = true)
    ∧ (Admits false 3 false g b (collState .s g [f] [] b) ∧ isFilter f.launch.modifier = true ∧ f.second = false
      ∧ ranksUnder g 1 = [(0, .rank 0)])
    ∧ (Admits false 4 false g a (collState .s g [n] [] a) ∧ findPart (admitted a (collState .s g [n] [] a)) 5 40 = none
      ∧ leField a.payload 8 8 ≠ 0) := by
  unfold Admits
  decide +kernel

/-- CollectiveParticipantsComplete: a participant's packets, those of a sink and of a node that end, aborts either way,
packets to send again and the watchdogs. -/
theorem witness_participants :
    let st := fun (t : BitVec 4) (b : Bytes) => (collMsg false t b, collState .e ranked [] [part] (collMsg false t b))
    (∀ x ∈ [(4, zeros 16), (2, zeros 64), (6, zeros 8)],
      let y := st (BitVec.ofNat 4 x.1) x.2
      Admits false (BitVec.ofNat 4 x.1) false ranked y.1 y.2 ∧ findPart (admitted y.1 y.2) 5 40 = some part
        ∧ part.launch.group = ranked.id ∧ (admitted y.1 y.2).boot.role ≠ .t)
    ∧ (let x := resultRange (launch 0x550) (collMsg false 2 (zeros 64))
       covers x.1 x.2.1 part.written = false ∧ part.dst.toNat + x.2.2 = 50331648)
    ∧ (let r := collMsg false 2 (zeros 16)
       Admits false 2 false ranked r (collState .t ranked [] [] r) ∧ (admitted r (collState .t ranked [] [] r)).boot.role = .t)
    ∧ (let r := collMsg false 6 (zeros 8)
       let s := collState .s (group false) [node false 0x550] [] r
       Admits false 6 false (group false) r s ∧ findPart (admitted r s) 5 40 = none
         ∧ findNode (admitted r s) 5 40 = some (node false 0x550)
         ∧ findNode (admitted r (collState .s (group false) [] [] r)) 5 40 = none)
    ∧ (let r := collMsg true 7 []
       let s := collState .s (group true) [node true 0x550] [] r
       Admits true 7 true (group true) r s ∧ ownNode (group true) (admitted r s true) = some 0
         ∧ findNode (admitted r s true) 5 40 = some (node true 0x550))
    ∧ (let r := collMsg false 7 []
       Admits false 7 true ranked r (collState .e ranked [] [part] r)
         ∧ nextColl (collState .e ranked [] [part] r) true 7 true = none)
    ∧ (let k : CollSent := { packet := opPacket outOp false, id := 40, below := 0, sentAt := 0, resends := 3 }
       let s : State := { e with coll := { Coll.reset with sent := [k] } }
       s.coll.sent[0]? = some k ∧ k.sentAt + 250000 ≤ s.time ∧ (∀ w ∈ s.link.txWait, w.inner ≠ k.packet.inner)
         ∧ 3 ≤ k.resends ∧ findPart s k.packet.polder k.id = none)
    ∧ (let s := collState .e ranked [] [part] (collMsg false 6 [])
       findPart s 5 40 = some part ∧ findGroup s 5 20 = some ranked ∧ part.fired = true
         ∧ part.progressAt + ranked.watchdog * 1000000 ≤ s.time)
    ∧ (let s := collState .s (group true) [node true 0x550] [] (collMsg false 6 [])
       findPart s 5 40 = none ∧ findNode s 5 40 = some (node true 0x550) ∧ nodeFinished (group true) (node true 0x550) = false) := by
  unfold Admits
  decide +kernel

/-- CollectiveParticipantsComplete: the result's write meets no check. -/
theorem witness_result_write :
    let r := collMsg false 2 (zeros 64)
    let s := collState .e ranked [] [part] r
    localCheck (.result 5 40) 1 5 50331648 64 true (admitted r s) = (.ready, used (admitted r s)) := by
  intro r s
  have h := local_ready (s := admitted r s) true rfl rfl rfl rfl rfl (by decide +kernel) rfl
  exact check_ready _ rfl h

/-- BarriersComplete. -/
theorem witness_barriers :
    let g : Group := { group true with ranks := [⟨2, 0⟩, ⟨4, 0⟩] }
    let r := collMsg true 0 []
    let s := collState .s g [] [] r
    let c : BarrierCounter := { polder := 5, group := 20, id := 40, cls := 0, node := 0, children := 2, first := 0,
                                firstAt := 0, sentUp := false, lastTx := 0 }
    let a : Arrival := { polder := 5, group := 20, id := 40, context := 1, cls := 0, queue := 2, index := 0, ctag := 7,
                         core := 0, counter := 3, increment := 1, start := 0, lastTx := 0 }
    let t : State := { s with bars := { Barriers.reset with counters := [c], released := [⟨5, 20, 41, .ok, 0⟩] } }
    let d := collMsg false 6 []
    let v : State := { collState .e ranked [] [] d with bars := { Barriers.reset with arrivals := [a] } }
    (Admits true 0 true g r s ∧ ownNode g (admitted r s true) = some 0 ∧ kidFrom g 0 r.src = some (0, .rank 0)
      ∧ findCounter (admitted r s true) 5 40 = none
      ∧ missingKids g { c with children := 1 } ≠ [])
    ∧ (Admits true 0 true g r t ∧ findCounter (admitted r t true) 5 40 = some c ∧ c.children.getLsbD 0 = false
      ∧ missingKids g { c with children := c.children ||| BitVec.ofNat 64 (2 ^ 0) } = [] ∧ nodeParent g c.node = c.node)
    ∧ (Admits false 6 true ranked d v ∧ findArrival (admitted d v true) 5 40 = some a
      ∧ coreContext (admitted d v true) a.core = some context ∧ context.polder = a.polder ∧ context.state = .bound
      ∧ a.increment ≠ 0 ∧ (syncValue (admitted d v true) a.core a.counter).toNat + a.increment.toNat < 4294967296)
    ∧ (findArrival v 5 40 = some a ∧ usableGroup v 5 20 = some ranked ∧ (∀ k ∈ v.link.txWait, k.owner ≠ .barrier 5 40)
      ∧ a.lastTx + 250000 ≤ v.time ∧ a.start + ranked.watchdog * 1000000 + 10000000 ≤ v.time)
    ∧ (findGroup t 5 20 = some g ∧ c.first + g.watchdog * 1000000 ≤ t.time)
    ∧ (t.bars.released[0]? = some ⟨5, 20, 41, .ok, 0⟩ ∧ 0 + 100000000 ≤ t.time) := by
  unfold Admits
  decide +kernel

/-! ### Stacks, sync counters, the Datum -/

/-- A core's access of 16 B of plot 3. -/
def access (write : Bool) (mask : Option (List Bool)) : StackReq :=
  { context := 1, addr := 50331648, write := write, len := 16, data := if write then zeros 16 else [], mask := mask }

/-- An access to plot 3 waits at no port and enters its slice at once: what AtStack asks, but for the freeze and the room. -/
theorem slice_accepts {s : State} (h : ∀ i : BitVec 3, accepts s ⟨.sce, BitVec.ofNat 8 i.toNat⟩ = true) :
    accepts s slice3 = true := h _

/-- The polder of the world frozen. -/
def frozen : State := { e with polders := [{ polder with freeze := .floodwatch }] }

/-- The world with plot 3 filling. -/
def filling : State :=
  { e with stack := { e.stack with spm := [(3, mkPlot 7 0 true true)], fills := [⟨3, 5, 0⟩] } }

/-- The world with a home access to the first unit of plot 3 waiting. -/
def behind : State :=
  { e with
    rings := { Rings.reset with rings := [ring8] }
    stack := { e.stack with
      turns := 1
      others := [{ user := .home 8 0, polder := 5, write := true, lookups := [⟨50331648, 256, none, 0⟩] }] } }

/-- The world with every Weir at level 15. -/
def shut : State := { e with weirs := (List.range 8).map fun i => { resetWeir (BitVec.ofNat 8 i) with level := 15 } }

/-- An access of context 1 finds its way free where WayFree says so, and not where its Weir takes nothing. -/
theorem path_free {r : StackReq} (h : r.addr = 50331648) (hc : r.context = 1) :
    pathServes e (asWait r context e) = true := by
  have h1 : WayFree e := by decide +kernel
  have h2 : contextClass e 1 = 0 := by decide +kernel
  simp only [pathServes, asWait, h, hc, h2]
  change ((serves e slice3 && (serves e weir3 && true)) && weirAdmits e weir3.index 0) = true
  rw [way_slice h1, way_weir h1, way_admits h1]
  rfl

theorem path_shut : pathServes shut (asWait (access false none) context shut) = false := by
  have h1 : ∀ i : BitVec 3, weirAdmits shut (BitVec.ofNat 8 i.toNat) (contextClass shut 1) = false := by decide +kernel
  have h2 : stackAdmits shut 50331648 (contextClass shut 1) = false := h1 _
  show (_ && stackAdmits shut 50331648 (contextClass shut 1)) = false
  rw [h2, Bool.and_false]

/-- StackAccessesComplete: the accesses that a slice takes. -/
theorem witness_stack :
    let odd := access true (some (true :: List.replicate 15 false))
    let w : StackWait := ⟨access false none, 5, 0⟩
    let busy : State := { e with stack := { e.stack with reads := [w] } }
    (∀ r ∈ [access true none, access false none, odd], AtStack r e ∧ stackChecks e r = none
      ∧ findContext e r.context = some context ∧ UnitFree r e ∧ pathServes e (asWait r context e) = true
      ∧ hungFor e (sceUnit r.addr.toNat) (some r.context) = false
      ∧ plotFilling (plotEntry e (plotOf r.addr.toNat)) = false)
    ∧ (partialBlocks (access true none) = [] ∧ partialBlocks odd ≠ [])
    ∧ (let r : StackReq := { access false none with context := 2 }
       AtStack r e ∧ stackChecks e r = some (2, .badParam))
    ∧ (AtStack (access false none) busy ∧ stackChecks busy (access false none) = none
      ∧ sameUnit ((access false none).addr.toNat / 256) w.req = true)
    ∧ (outsideFirst behind ((access false none).addr.toNat / 256) behind.stack.turns = true
      ∧ stackChecks behind (access false none) = none)
    ∧ (UnitFree (access false none) shut ∧ pathServes shut (asWait (access false none) context shut) = false)
    ∧ (AtStack (access false none) filling ∧ stackChecks filling (access false none) = none ∧ UnitFree (access false none) filling
      ∧ plotFilling (plotEntry filling (plotOf (access false none).addr.toNat)) = true)
    ∧ (accepts frozen slice3 = true ∧ reqFrozen frozen (access false none) = true)
    ∧ (busy.stack.reads[0]? = some w ∧ serves busy slice3 = true ∧ isFrozen busy w.polder = false)
    ∧ ((filling.stack.fills.find? fun f => f.plot = 3) = some ⟨3, 5, 0⟩ ∧ serves filling slice3 = true
      ∧ filling.stack.fillWait = [])
    ∧ (let s : State := { e with stack := { e.stack with releases := [(3, [])] } }
       plotReleasing s 3 = true ∧ plotInUse s 3 = false) := by
  have ha : ∀ (r : StackReq) (s : State), r.addr = 50331648 → running s = true → s.boot.role = .e →
      accepts s slice3 = true → serves s (spmDomain 50331648) = true → reqFrozen s r = false → s.stack.keyWait = [] →
      s.stack.port = [] → (∀ x ∈ outsideWaits s, x.2 = []) → AtStack r s := by
    intro r s h1 h2 h3 h4 h5 h6 h7 h8 h9
    refine ⟨h2, h3, ?_, ?_, h6, ?_, ?_⟩
    · rw [h1]; exact h4
    · rw [h1]; exact h5
    · simp only [sliceFull, missQueue, h7, (no_outside h9).2]; rfl
    · rw [h8]; exact fun p hp => by cases hp
  have hserve : ∀ {s : State}, (∀ i : BitVec 3, serves s ⟨.sce, BitVec.ofNat 8 i.toNat⟩ = true) → serves s slice3 = true :=
    fun h => h _
  refine ⟨?_, ?_, ?_, ?_, by decide +kernel, ⟨by unfold UnitFree; decide +kernel, path_shut⟩, ?_, ?_, ?_, ?_, ?_⟩
  · intro r hr
    simp only [List.mem_cons, List.not_mem_nil, or_false] at hr
    rcases hr with rfl | rfl | rfl <;>
      exact ⟨ha _ _ rfl (by decide) rfl (slice_accepts (by decide +kernel)) (by decide +kernel) (by decide +kernel) rfl rfl (by decide +kernel),
        by decide +kernel, by decide +kernel, by unfold UnitFree; decide +kernel, path_free rfl rfl, by decide +kernel, by decide +kernel⟩
  · decide +kernel
  · exact ⟨ha _ _ rfl (by decide) rfl (slice_accepts (by decide +kernel)) (by decide +kernel) (by decide +kernel) rfl rfl (by decide +kernel),
      by decide +kernel⟩
  · exact ⟨ha _ _ rfl (by decide) rfl (slice_accepts (by decide +kernel)) (by decide +kernel) (by decide +kernel) rfl rfl (by decide +kernel),
      by decide +kernel⟩
  · exact ⟨ha _ _ rfl (by decide) rfl (slice_accepts (by decide +kernel)) (by decide +kernel) (by decide +kernel) rfl rfl (by decide +kernel),
      by decide +kernel, by unfold UnitFree; decide +kernel, by decide +kernel⟩
  · exact ⟨slice_accepts (by decide +kernel), by decide +kernel⟩
  · exact ⟨rfl, hserve (by decide +kernel), by decide +kernel⟩
  · exact ⟨by decide +kernel, hserve (by decide +kernel), rfl⟩
  · decide +kernel

/-- StackAccessesComplete: the key is ready, or can not be had. -/
theorem witness_stack_key : needKey 5 3 (markWork weir3 (markWork slice3 filling)) = (.ready, used filling)
    ∧ needKey 5 3 { filling with polders := [{ polder with slotBad := true }] }
      = (.failed .slotBad, { filling with polders := [{ polder with slotBad := true }] }) :=
  ⟨key_ready (t := 0) rfl rfl rfl (by decide), rfl⟩

/-- R92: check 4 refuses a plot without an entry, check 1 a length that is no whole block. -/
theorem test_stack_checks : stackChecks e { access false none with addr := 0 } = some (4, .badParam)
    ∧ stackChecks e { access false none with len := 8 } = some (1, .badParam) := by decide +kernel

/-- SyncCountersComplete: each clause at the boundary of its operands. -/
theorem witness_sca :
    let r : ScaReq := { core := 0, target := 0, counter := 47, value := 5 }
    let s : State := { e with sca := { Sca.reset with counters := [((0, 47), 4294967290)] } }
    let full : State := { e with sca := { Sca.reset with waits := List.replicate 4 ⟨r, false, 0⟩ } }
    let late : State := { full with datum := { DatumUnit.reset with value := 4000000 } }
    let stopped : State := { e with obj := { e.obj with contexts := [{ context with state := .stopped }] } }
    (running s = true ∧ s.boot.role = .e ∧ accepts s (scaDomain r.target) = true
      ∧ scaCheck r true s = none ∧ coreStopped r.target s = false ∧ scaHeld r s = false)
    ∧ (r.value ≠ 0 ∧ ({ r with value := 0 } : ScaReq).value = 0 ∧ coreStopped r.core s = false
      ∧ coreStopped r.core stopped = true)
    ∧ (scaHeld r { s with polders := [{ polder with freeze := .floodwatch }] } = true)
    ∧ ((syncValue s 0 47).toNat + r.value.toNat < 4294967296 ∧ 4294967296 ≤ (syncValue s 0 47).toNat + 6)
    ∧ (r.value.toNat ≤ (syncValue s 0 47).toNat ∧ (syncValue e 0 47).toNat < r.value.toNat)
    ∧ ((e.sca.waits.filter fun x => x.req.core = r.core).length < 4
      ∧ 4 ≤ (full.sca.waits.filter fun x => x.req.core = r.core).length)
    ∧ (oldestWait 0 late = some ⟨r, false, 0⟩ ∧ 0 + 1000 * late.regs.waitIdleUs ≤ late.datum.value.toNat
      ∧ (0 : BitVec 9) ∉ late.sca.hints)
    ∧ 6 ≤ (6 : BitVec 3).toNat := by decide +kernel

/-- R258, R259: INC answers the new value; past the top it answers ST_SYNC_OVERFLOW and changes nothing. -/
theorem test_inc :
    let s : State := { e with sca := { Sca.reset with counters := [((0, 47), 4294967290)] } }
    (∃ t, exec (.inc ⟨0, 0, 47, 5⟩) s = .next t ∧ syncValue t 0 47 = 4294967295
      ∧ .scaAnswer 0 .ok 4294967295 ∈ t.out)
    ∧ (∃ t, exec (.inc ⟨0, 0, 47, 6⟩) s = .next t ∧ syncValue t 0 47 = 4294967290
      ∧ .scaAnswer 0 .syncOverflow 0 ∈ t.out) :=
  ⟨⟨_, rfl, by decide +kernel, by decide +kernel⟩, ⟨_, rfl, by decide +kernel, by decide +kernel⟩⟩

/-- The Datum unit following an upstream in a state. -/
def following (x : DatumState) : State :=
  { e with datum := { DatumUnit.reset with state := x, hasUpstream := true, missed := 7, good := 15 } }

/-- DatumAndMarksComplete: each state and offset that a clause names. -/
theorem witness_marks :
    let m : MarkEntry := { mark := 5, action := .launch 5 40 }
    let s : State := { e with datum := { DatumUnit.reset with value := 5, state := .locked, marks := [m] } }
    (∀ x ∈ [DatumState.locked, .freeRunning, .acquiring, .holdover], followsUpstream (following x) = true
      ∧ (following x).datum.missed = 7 ∧ (following x).datum.state = x)
    ∧ (exchangeOffset 0 2 2 0).natAbs ≤ 2 ∧ 2 < (exchangeOffset 0 3 3 0).natAbs
    ∧ (following .freeRunning).datum.lockedOnce = false ∧ (following .acquiring).datum.good = 15
    ∧ (earliestMark s = some m ∧ running s = true ∧ m.mark.toNat ≤ s.datum.value.toNat)
    ∧ (earliestMark { s with datum := { s.datum with value := 4 } } = some m ∧ (4 : Datum).toNat < m.mark.toNat)
    ∧ (findPolder e 5 = some polder ∧ polder.freeze ≠ .floodwatch ∧ polder.teardown = none
      ∧ ({ e with tracer := { e.tracer with floodwatch := true } } : State).tracer.floodwatch = true
      ∧ e.tracer.floodwatch = false) := by decide +kernel

/-- R278, R279: in LOCKED an offset of 2 slews, and one of 3 leaves for HOLDOVER. -/
theorem test_exchange : (∃ t, exec (.datumExchange 0 2 2 0 true) (following .locked) = .next t ∧ t.datum.state = .locked
      ∧ t.datum.slew = -2)
    ∧ (∃ t, exec (.datumExchange 0 3 3 0 true) (following .locked) = .next t ∧ t.datum.state = .holdover) :=
  ⟨⟨_, rfl, by decide +kernel, by decide +kernel⟩, ⟨_, rfl, by decide +kernel⟩⟩

/-! ### The tray -/

/-- An extent of polder 5 in a state. -/
def extent (x : ExtState) : Extent :=
  { id := 12, state := x, polder := 5, slot := 7, location := 3, holder := 1, expiry := 50, lease := 16, hint := 0,
    lastPage := none, nonce := 1, key := some 1, roots := [], rekey := none, granting := [], revoking := [] }

/-- A block of role T with an extent, the Datum at 50 and LOCKED, and a parity group as given. -/
def trayed (x : Extent) (g : ParityGroup) : State :=
  { world .t with
    datum := { DatumUnit.reset with value := 50, state := .locked }
    tray := { Tray.reset with extents := [x], dead := [9], groups := [(1, g)] } }

/-- TrayDevicesComplete. -/
theorem witness_devices :
    let g : ParityGroup := ⟨.rebuilding, some 1, some 72, 0, [], trayRows⟩
    let lost : ParityGroup := { g with others := [3], lostFrom := 0 }
    let s := trayed (extent .leased) g
    (hasTray s = true ∧ 73 < 74 ∧ 9 ∈ s.tray.dead ∧ 8 ∉ s.tray.dead)
    ∧ ((getGroup s 1).state = .rebuilding ∧ (getGroup s 1).dead = some 1 ∧ (getGroup s 1).spare = some 72
      ∧ (getGroup s 1).watermark < trayRows ∧ (shareRead s 1 1 0).isSome = true)
    ∧ ((getGroup (trayed (extent .leased) lost) 1).others = [3] ∧ shareRead (trayed (extent .leased) lost) 1 1 0 = none)
    ∧ (∀ x ∈ trayDomains, serves s x = true)
    ∧ (getGroup (trayed (extent .leased) { g with watermark := trayRows }) 1).watermark = trayRows
    ∧ (103079215103 + [(0 : Byte)].length ≤ deviceSize) := by decide +kernel

/-- ExtentTimersComplete. -/
theorem witness_extents :
    let r : Rekey := { location := 4, nonce := 2, key := some 2, copying := false, waiters := [] }
    let s := fun (x : Extent) => trayed x .normal
    (findExtent (s (extent .leased)) 12 = some (extent .leased) ∧ hasTray (s (extent .leased)) = true
      ∧ (extent .leased).expiry.toNat ≤ (s (extent .leased)).datum.value.toNat)
    ∧ (s (extent .leased)).datum.value.toNat < ({ extent .leased with expiry := 51 } : Extent).expiry.toNat
    ∧ (findExtent (s (extent .revoking)) 12 = some (extent .revoking) ∧ (extent .revoking).rekey = none
      ∧ regionInUse 12 (s (extent .revoking)) = false)
    ∧ (findExtent (s (extent .granting)) 12 = some (extent .granting) ∧ extentKeyless (extent .granting) = false)
    ∧ (let x : Extent := { extent .leased with rekey := some r }
       findExtent (s x) 12 = some x ∧ extentKeyless x = false ∧ x.state ≠ .granting)
    ∧ (let x : Extent := { extent .leased with rekey := some { r with copying := true } }
       findExtent (s x) 12 = some x ∧ x.key = some 1) := by decide +kernel

/-! ### Keys, hangs, endings, charts, the Gauge -/

/-- KeyUnitsComplete. -/
theorem witness_keys :
    let j : KcuJob := { cls := 3, work := .drbgRefill, restarted := false, polder := none, abandoned := false, aad := 0, text := 0, seen := none }
    let s := fun (j : KcuJob) => ({ e with keys := { e.keys with kcu1 := { inService := true, job := some j, regs := .zero, prefixes := [] } } } : State)
    let out : KeySlot := { slot with state := .evicting, polder := 6, check := 0 }
    let l : SlotLoad := { polder := 5, slot := none, start := 0, wanted := [], waiters := [] }
    ((getKcu true (s j)).job = some j ∧ j.abandoned = false ∧ j.restarted = false
      ∧ ((s j).keys.mismatches.filter fun t => (s j).time < t + 1000000000).length < 15
      ∧ ({ j with restarted := true } : KcuJob).restarted = true)
    ∧ (let v : State := { e with cad := { e.cad with slots := [out] } }
       running v = true ∧ (getSlot v 0).state = .evicting
         ∧ slotUsed v (getSlot v 0).polder = false
         ∧ findPolder v (getSlot v 0).polder = none)
    ∧ (let v : State := { e with cad := { e.cad with loads := [l] } }
       (v.cad.loads.find? fun l => l.polder = 5 && l.slot.isNone) = some l ∧ l.start + 1000000 ≤ v.time ∧ victimless v 5 = true
         ∧ victimless (retryLoads v) 5 = true)
    ∧ (let v : State := { e with keys := { e.keys with requests := 1048576, failures := 2 } }
       running v = true ∧ v.keys.instantiated = true ∧ reseedDue v = true ∧ v.keys.sourceFailed = false
         ∧ 2 ≤ v.keys.failures)
    ∧ (getKcu false (s j)).inService = true
    ∧ (let v : State := { s j with keys := { (s j).keys with mismatches := List.replicate 15 (s j).time } }
       15 ≤ (v.keys.mismatches.filter fun t => v.time < t + 1000000000).length) := by decide +kernel

/-- EngineHangsComplete. -/
theorem witness_hangs :
    let s : State := { e with fau := { e.fau with ops := [outOp] } }
    let h : Hang := { unit := 0x0500, current := some 1, suspects := [], units := [], start := 0, waiters := [] }
    let v : State := { s with tracer := { s.tracer with hangs := [h] } }
    (running s = true ∧ watched s 0x0500 = true ∧ findHang s 0x0500 = none ∧ engineHolds s 0x0500 = true
      ∧ engineAt s 0x0500 + watchdogPeriod s 0x0500 ≤ s.time)
    ∧ (findHang v 0x0500 = some h ∧ h.start + watchdogPeriod v 0x0500 ≤ v.time)
    ∧ (let t : State := { s with power := { s.power with lastWork := [(fauDomain, s.time)] } }
       engineHolds t 0x0500 = true ∧ t.time < engineAt t 0x0500 + watchdogPeriod t 0x0500)
    ∧ (suspectDone v h 1 = true ∧ suspectDone v { h with units := unitsIn v 0x0500 } 1 = (unitsIn v 0x0500).isEmpty)
    ∧ (3 ≤ (recentEvents ({ s with sb := { s.sb with events := List.replicate 3 (100000000000, 2) } } : State)).length
      ∧ (recentEvents s).length < 3) := by decide +kernel

/-- DestructionsComplete. -/
theorem witness_endings :
    let d : Teardown := { start := 99990000000, drained := false, squashed := 0, forced := false, waiters := [] }
    let s := fun (d : Teardown) => ({ e with polders := [{ polder with teardown := some d }] } : State)
    (findPolder (s d) 5 = some { polder with teardown := some d } ∧ outstanding 5 (s d) = 0
      ∧ d.start + 10000000 ≤ (s d).time)
    ∧ (∃ x, findPolder (s { d with drained := true }) 5 = some { polder with teardown := some x } ∧ x.drained = true)
    ∧ (outstanding 5 (given (request 1 0 64 []) (s { d with start := 99990000001 })) ≠ 0
      ∧ (s d).time < 99990000001 + 10000000)
    ∧ (let x : Context := { context with state := .destroying }
       findContext { e with obj := { e.obj with contexts := [x] } } 1 = some x
         ∧ contextIdle { e with obj := { e.obj with contexts := [x] } } 1 = true)
    ∧ (let x : MemObj := { memobj with doomed := true }
       findMemobj { e with obj := { e.obj with memobjs := [x] } } 4 = some x
         ∧ memobjReferred { e with obj := { e.obj with memobjs := [x] } } x = false) := by
  refine ⟨by decide +kernel, ⟨_, rfl, by decide +kernel⟩, by decide +kernel, by decide +kernel, by decide +kernel⟩

/-- ChartsComplete. -/
theorem witness_charts :
    let h : StepHold := { queue := 2, index := 0, step := 4, mark := 0, atBoundary := false, due := false }
    let x : Export := { polder := 5, chart := 9, step := 3, addr := 0x10000, len := 20000000, origin := pf, tag := 1,
                        start := 99000000000, frozen := none, waits := false, fn := 0 }
    let m : Import := { polder := 5, memobj := 4, chart := 9, addr := 0x10000, len := 20000000, fn := 0, waits := false, origin := pf,
                        tag := 1 }
    let s : State :=
      { e with chip := { Integration.reset with plots := 4 }, charts := { exports := [x], imports := [m] } }
    (findContext { e with obj := { e.obj with contexts := [{ context with hold := some h }] } } 1
        = some { context with hold := some h } ∧ atBoundary e 1 = true ∧ isFatal e 5 = false)
    ∧ (isFatal { s with polders := [{ polder with fatal := true }] } 5 = true
      ∧ findPolder { s with polders := [{ polder with fatal := true }] } 5 = some { polder with fatal := true })
    ∧ (markUse 51 (trayed (extent .leased) .normal) = .later ∧ markUse 5 e = .refused .busy)
    ∧ ((s.charts.exports.find? fun e => e.polder = 5) = some x ∧ findPolder s 5 = some polder ∧ running s = true
      ∧ s.time < x.start + 10000000000 ∧ exportWaits s 5 = false ∧ (∀ c ∈ polderContexts s 5, c.step = x.step)
      ∧ sealedLen s polder ≤ x.len.toNat ∧ serves s chartDomain = true ∧ x.frozen = none ∧ drbgAvailable s = true)
    ∧ (({ x with frozen := some (frozenOf s polder x 0) } : Export).frozen ≠ none)
    ∧ ({ x with start := 0 } : Export).start + 10000000000 ≤ s.time
    ∧ (hungFor s 0x0800 none = false ∧ (s.charts.imports.find? fun m => m.polder = 5) = some m) := by decide +kernel

/-- ChartsComplete: the keys of a chart are ready. -/
theorem witness_chart_keys : ∃ u, needKeys 5 (7 :: chartKinds .e) (markWork chartDomain e) = (.ready, u) := by
  have hl : ∀ (l : List (BitVec 8)) (t : Nat) (s : State), s.polders = [polder] →
      s.cad.slots = [{ slot with lastUse := t }] → s.cad.slotMask = 0 → (∀ k ∈ l, k ∈ [(1 : BitVec 8), 2, 3, 6, 7]) →
      ∃ u, needKeys 5 l s = (.ready, u) := by
    intro l
    induction l with
    | nil => intro t s _ _ _ _; exact ⟨_, rfl⟩
    | cons k l ih =>
      intro t s hp hk hm hmem
      unfold needKeys
      rw [key_ready hp hk hm (hmem k List.mem_cons_self)]
      refine ih s.time _ hp ?_ hm fun k hk => hmem k (List.mem_cons_of_mem _ hk)
      show upsert _ _ s.cad.slots = _
      rw [hk]
      rfl
  exact hl _ 0 (markWork chartDomain e) rfl rfl rfl (by decide)

/-- ExpiriesAndGaugeComplete. -/
theorem witness_expiries :
    let n : Nonce := { target := 2, value := 1, at_ := 40000000000 }
    let a : DebugAuth := { scope := 1, expiry := 100000000000 }
    let x : Transition := { code := 0x1FE0, slot := 0, rootKill := true, origin := side, tag := 1 }
    let g : GaugeEntry := { polder := 5, conf := false, closed := false, definedAt := 0, counters := List.replicate 7 0 }
    let c : Capture := { kind := 1, polder := 5, spill := false, conf := false, datum := 0, gaugeTime := 0, definedAt := 0,
                         counters := List.replicate 7 0, held := false, refused := false }
    let s : State := { up .e with
      lc := { LifeCycle.reset with nonce := some n, auth := some a, transition := some x }
      gauge := { (up .e).gauge with entries := [g], transit := [((5, 0), 3)], time := 900000000000, finals := [c] } }
    running s = true ∧ (s.lc.nonce = some n ∧ n.at_ + 60000000000 ≤ s.time) ∧ (s.lc.auth = some a ∧ a.expiry ≤ s.time)
    ∧ (s.lc.transition = some x ∧ s.polders = [])
    ∧ (s.gauge.powered = true ∧ gaugeEntry s 5 = some g ∧ assocGet ((5 : PolderId), (0 : Fin 7)) 0 s.gauge.transit ≠ 0)
    ∧ (s.gauge.time ≠ 0 ∧ s.gauge.time % 900000000000 = 0)
    ∧ (s.gauge.records.length < 1024 ∧ (s.gauge.finals.find? fun c => !c.held) = some c) := by decide +kernel

/-! ### Descriptors, registers, mailboxes, SPDM -/

/-- A state with a started descriptor of queue 2. -/
def holding (d : Bytes) (s : State) : State :=
  { s with obj := { s.obj with queues := [{ queue with head := 1, started := [⟨0, d, false, 0⟩] }] } }

/-- DescriptorsComplete: a descriptor of each kind, the group of a launch and of an arrival, marks in LOCKED. -/
theorem witness_descriptors :
    let s : State := collState .e ranked [] [] (collMsg false 6 [])
    let q : Queue := { queue with head := 1, started := [] }
    let d1 := desc 1 ([1] ++ zeros 55)
    let d2 := desc 2 ([20, 0, 0x50, 5, 40, 0, 0, 0, 4, 0, 0, 0, 0] ++ zeros 10 ++ [0, 1, 0, 0, 0])
    let d3 := desc 3 ([20, 0, 0, 0, 3, 0, 0, 0, 40, 0, 0, 0, 1])
    let d4 := desc 4 (zeros 8 ++ [4])
    let d5 := desc 5 ([6, 0] ++ zeros 6 ++ [5])
    let d6 := desc 6 ([6, 0] ++ zeros 6 ++ [4])
    let d7 := desc 7 ([0, 0, 0, 3, 0, 0, 0, 0, 0, 1, 0, 3, 0, 0, 0, 0, 0, 1])
    let locked : State := { holding d2 s with datum := { DatumUnit.reset with state := .locked, value := 50 } }
    (nextOfKind (holding d1 s) 2 1 = some ⟨0, d1, false, 0⟩ ∧ running s = true
      ∧ fauServes (holding d1 s) = true
      ∧ (∀ x ∈ [((2 : BitVec 8), true), (3, false)],
        engineTurn (fun q => (nextOfKind (holding d1 s) q 1).isSome) (holding d1 s).obj.lastIssue x.1 (holding d1 s) = x.2))
    ∧ (nextOfKind (holding d2 s) 2 2 = some ⟨0, d2, false, 0⟩
      ∧ findQueue (holding d2 s) 2 = some { q with started := [⟨0, d2, false, 0⟩] }
      ∧ findContext s queue.context = some context ∧ s.coll.participants.length < 32
      ∧ launchBad (descLaunch d2 5) (beginDescriptor 2 0 (holding d2 s)) = false
      ∧ launchBad (descLaunch d1 5) (beginDescriptor 2 0 (holding d1 s)) = true
      ∧ markUse 0 (beginDescriptor 2 0 (holding d2 s)) = .refused .busy ∧ markUse 0 locked = .now ∧ markUse 51 locked = .later)
    ∧ (nextOfKind (holding d3 s) 2 3 = some ⟨0, d3, false, 0⟩
      ∧ arrivalBad d3 context (beginDescriptor 2 0 (holding d3 s)) = false ∧ usableGroup s 5 20 = some ranked
      ∧ arrivalBad d1 context (beginDescriptor 2 0 (holding d1 s)) = true)
    ∧ (nextOfKind (holding d4 s) 2 4 = some ⟨0, d4, false, 0⟩ ∧ context.hold = none ∧ isFatal (holding d4 s) 5 = false
      ∧ isFatal { holding d4 s with polders := [{ polder with fatal := true }] } 5 = true
      ∧ nextOfKind { holding d4 s with polders := [{ polder with fatal := true }] } 2 4 = some ⟨0, d4, false, 0⟩)
    ∧ (let f : FenceObj := { id := 6, owner := 1, fn := 0, value := 4, shares := [], waits := [] }
       nextOfKind (holding d5 s) 2 5 = some ⟨0, d5, false, 0⟩ ∧ isOldest (holding d5 s) 2 0 = true
         ∧ descFence d5 1 (holding d5 s) = some f ∧ f.value.toNat ≤ (BitVec.ofNat 64 (leField d5 16 8)).toNat
         ∧ nextOfKind (holding d6 s) 2 6 = some ⟨0, d6, false, 0⟩ ∧ descFence d6 1 (holding d6 s) = some f
         ∧ leField d6 16 8 ≤ f.value.toNat ∧ f.value.toNat < leField d5 16 8)
    ∧ (nextCopy (holding d7 s) 2 = some ⟨0, d7, false, 0⟩ ∧ leField d7 8 5 = 50331648 ∧ leField d7 16 5 = 50331904
      ∧ leField d7 24 8 = 256 ∧ copyBad (leField d7 8 5) (leField d7 16 5) (leField d7 24 8) = false
      ∧ isFrozen s 5 = false ∧ hungFor s 0x0900 (some 1) = false
      ∧ ∀ x ∈ [((2 : BitVec 8), true), (3, false)],
        engineTurn (copyReady (holding d7 s)) (holding d7 s).obj.lastCopy x.1 (holding d7 s) = x.2) :=
  ⟨by decide +kernel, by decide +kernel, by decide +kernel, by decide +kernel, by decide +kernel, by decide +kernel⟩

/-- R437: a STEP_BEGIN of a polder for which POLDER_FATAL has been raised ends, and holds no context. -/
theorem test_step_of_fatal :
    let s : State := { holding (desc 4 (zeros 8 ++ [4])) e with polders := [{ polder with fatal := true }] }
    ∃ t, exec (.stepBegin 2) s = .next t ∧ (t.obj.queues.map fun q => q.started) = [[]]
      ∧ findContext t 1 = some context := ⟨_, rfl, by decide +kernel⟩

/-- R371: a copy whose range covers a plot names its object, though neither of its addresses lies there. -/
theorem test_copy_names :
    let c := desc 7 ([0, 0, 0, 2, 0, 0, 0, 0, 0, 0, 0, 9, 0, 0, 0, 0, 0, 0, 0, 3])
    namesMemobj 5 c memobj = true ∧ namesMemobj 5 c { memobj with plots := [1, 5, 8, 12] } = false
      ∧ memobjReferred (holding c e) memobj = true := by decide +kernel

/-- R444: RESET of a context whose copy runs waits for it. -/
theorem test_reset_waits :
    let s := holding (desc 7 ([0, 0, 0, 3, 0, 0, 0, 0, 0, 1, 0, 3, 0, 0, 0, 0, 0, 1])) e
    let r : State := { s with obj := { s.obj with queues := s.obj.queues.map fun q =>
      { q with started := q.started.map fun d => { d with begun := true } } } }
    ∃ t, exec (.resetContext pf 1 1) r = .next t ∧ (findContext t 1).map (·.resetting) = some [(pf, 1)] :=
  ⟨_, rfl, by decide +kernel⟩

/-- DescriptorsComplete: a bulk copy's source and then its destination meet no check. -/
theorem witness_copy :
    localCheck (.copy 2 0) 1 5 50331648 256 false e = (.ready, used e)
      ∧ localCheck (.copy 2 0) 1 5 50331904 256 true (used e) = (.ready, used (used e)) := by
  have h1 := local_at (s := e) (a := 50331648) (n := 256) (t := 0) false (by decide) (by decide) (by decide +kernel) rfl
    rfl rfl rfl rfl (by decide +kernel) rfl
  have h2 := local_at (s := used e) (a := 50331904) (n := 256) (t := e.time) true (by decide) (by decide)
    (by decide +kernel) rfl rfl rfl rfl rfl (show WayFree e by decide +kernel) rfl
  exact ⟨check_ready _ rfl h1, check_ready _ rfl h2⟩

/-- DescriptorsComplete: the domains of a launch and of an arrival serve, and the RMU is not hung. -/
theorem witness_descriptor_domains (b : Bool) :
    let s : State := collState .e ranked [] [] (collMsg false 6 [])
    (∀ d ∈ collDomains s 40 b, serves s d = true) ∧ hungFor s (rmuUnit s 40) (some 1) = false
      ∧ s.bars.arrivals.length < 32 :=
  ⟨coll_serves .e rfl rfl rfl 40 b, rfl, by decide⟩

/-- RegisterReadsComplete: the Datum through the side-band, a register that it may not read now, both halves of one, and
a counter. -/
theorem witness_reads :
    let s : State := { e with regs := { e.regs with latches := [((.pf, 0x200), 7)] } }
    let w : State := { e with tracer := { e.tracer with counters := [(3, 9)] } }
    (s.pins.porN = true ∧ sideHeld s 0x200 = false ∧ 0x200 % 8 = 0 ∧ shows s .sb 0x200 = true ∧ reg64 s 0 0x200 = some 0)
    ∧ (serves s tracerDomain = true ∧ serves (gated [] e) tracerDomain = false ∧ inTracer 0x40018 = true
      ∧ shows (gated [] e) .pf 0x40018 = true)
    ∧ sideHeld (gated [] e) 0x300 = true
    ∧ (shows s .pf 0x200 = true ∧ reg64 s (windowFn .pf) 0x200 = some 0)
    ∧ (0x204 % 8 = 4 ∧ inTracer 0x204 = false ∧ shows s .pf 0x204 = true ∧ reg64 s 0 (0x204 - 4) = some 0
      ∧ s.regs.latches.lookup (.pf, BitVec.ofNat 20 (0x204 - 4)) = some 7)
    ∧ (shows w .pf (0x40000 + 8 * 1023) = true ∧ inTracer 0x40018 = true) := by decide +kernel

/-- RegisterWritesComplete. -/
theorem witness_writes : running e = true ∧ (Window.pf ≠ .sb) ∧ 0x2ffc < 0x3000 ∧ 0x2ffc % 4 = 0 ∧ shows e .pf 0x2ffc = true
    ∧ (getMailbox e (windowFn .pf)).ring = false ∧ Mem.wf 0 (getMailbox e (windowFn .pf)).req = true
    ∧ e.boot.role = .e := by decide +kernel

/-- R504: the gating delay takes 1 to 1,000 and keeps its value for 0 and 1,001. -/
theorem test_gate_delay : ∀ x ∈ [((1 : BitVec 64), 1), (1000, 1000), (0, 10), (1001, 10)],
    ∃ t, exec (.registerWrite .pf 0x100 false x.1) e = .next t ∧ t.regs.gateDelayUs = x.2 := by
  intro x h
  refine ⟨_, rfl, ?_⟩
  simp only [List.mem_cons, List.not_mem_nil, or_false] at h
  rcases h with rfl | rfl | rfl | rfl <;> decide +kernel

/-- MailboxCompletes. -/
theorem witness_mailbox :
    let c : PendingCmd := { origin := pf, tag := 1, opcode := 0x0103, final := none }
    let s : State := { managed e with fns := { Functions.reset with pendings := [c] } }
    (windowOpen e 0 = true ∧ (getMailbox e 0).ring = false
      ∧ (getMailbox { e with fns := { e.fns with mailboxes := [⟨0, [], [], true⟩] } } 0).ring = true)
    ∧ (sluiceOpen s pf.sluice = true ∧ frameCheck pf.sluice s = none
      ∧ (s.fns.pendings.find? fun c => c.origin.sluice = pf.sluice && c.tag = 1) = some c ∧ c.origin.session = none)
    ∧ (({ c with final := some (.ok, []) } : PendingCmd).final = some (.ok, []))
    ∧ (spdmClosed .fm s = none ∧ sessionOf fm s = some fmSession ∧ isVendor .heartbeat = false)
    ∧ (carriesSpdm s .fm = true ∧ frameCheck .fm s = none ∧ fm.session = some 1
      ∧ (s.spdm.sessions.find? fun x => x.id = 1 && x.sluice = .fm) = some fmSession
      ∧ fmSession.rxSeq ≠ BitVec.allOnes 64) := by decide +kernel

/-- SpdmConnectionCompletes. -/
theorem witness_connection :
    let m : SurveyEntry := { index := 0, kind := 1, writer := 1, value := 0, digest := 1 }
    let s : State := { managed e with
      boot := { e.boot with certificates := [(0, zeros 600)], survey := [m] }
      spdm := { (managed e).spdm with lastSigned := [(.fm, 3)], chunksOut := [((.fm, 1), zeros 2000)] } }
    (carriesSpdm s .fm = true ∧ isReady s = true ∧ Sluice.fm ∈ s.spdm.negotiated ∧ drbgAvailable s = true)
    ∧ (600 ≤ (certificate s 0).length ∧ (1 : BitVec 8).toNat ≤ 1)
    ∧ ((1 : BitVec 8) ≠ 0xFF ∧ measured s 1 = some [m])
    ∧ (s.spdm.lastSigned.lookup .fm = some 3)
    ∧ (s.spdm.chunksOut.lookup (.fm, 1) = some (zeros 2000) ∧ (0 : BitVec 16).toNat * 1024 + 1024 < (zeros 2000).length) := by
  decide +kernel

/-- SpdmSessionsComplete. -/
theorem witness_sessions :
    let k : KemOffer := { sluice := .fm, hash := 1, answer := 2, secret := 3, at_ := 90000000001 }
    let x : Session := { fmSession with stage := .handshake, mutual_ := false }
    let s : State := { managed e with spdm := { (managed e).spdm with offers := [k], sessions := [x] } }
    (carriesSpdm s .fm = true ∧ isReady s = true ∧ Sluice.fm ∈ s.spdm.negotiated ∧ (zeros 1568).length = 1568
      ∧ drbgAvailable s = true)
    ∧ ((s.spdm.offers.find? fun k => k.sluice = .fm) = some k ∧ offerOver k s = false
      ∧ (s.spdm.sessions.filter fun x => x.sluice = .fm).length < sessionLimit .fm)
    ∧ ((s.spdm.sessions.find? fun x => x.id = 1 && x.sluice = .fm) = some x
      ∧ x.rxSeq ≠ BitVec.allOnes 64 ∧ x.txSeq ≠ BitVec.allOnes 64
      ∧ x.stage ≠ .established ∧ x.wantMutual = true ∧ x.asked < 3)
    ∧ (fmSession.stage = .established ∧ (fmSession.wantMutual = true → fmSession.mutual_ = true)) := by decide +kernel

/-! ### Warden commands -/

/-- Passes, computed. -/
def passes (c : Instr) (s : State) : Bool :=
  match wardenRow c with
  | some (ci, o, tag) => running s
      && (match sessionOf o s with | some x => x.txSeq ≠ BitVec.allOnes 64 | none => true)
      && decide (cmdCheck ci o tag false false (resetsBlock c) s = none)
  | none => false

theorem of_passes {c : Instr} {s : State} (h : passes c s = true) : Passes c s := by
  unfold passes at h
  split at h
  · next ci o tag hr =>
    simp only [Bool.and_eq_true, decide_eq_true_eq] at h
    refine ⟨ci, o, tag, hr, h.1.1, ?_, h.2⟩
    intro x hx
    have h1 := h.1.2
    rw [hx] at h1
    exact of_decide_eq_true h1
  · cases h

/-- The PF's commands of role E, in the world. -/
theorem witness_pf_commands : ∀ c ∈ [Instr.polderTeardown pf 1 5, .polderList pf 1 5, .keySlotPin pf 1 5, .keySlotUnpin pf 1 5,
      .keySlotStatus pf 1 0, .memobjCreate pf 1 5, .memobjFree pf 1 4, .plotAssign pf 1 4 9 9 true false 0,
      .plotRelease pf 1 3, .plotQuery pf 1 3, .contextCreate pf 1 5 0 2, .contextDestroy pf 1 1,
      .queueCreate pf 1 1 0 16 0x1000, .queueDestroy pf 1 2, .eventRingCreate pf 1 64 1 0x1000, .eventRingDestroy pf 1 3,
      .fenceCreate pf 1 1, .fenceShare pf 1 6 1, .fenceDestroy pf 1 6, .regionExport pf 1 4 0 0x1F 262145 4096 0 0 0 0 [3],
      .regionExport pf 1 4 1 0x1F 262145 4 0 0 0 1 [], .regionWithdraw pf 1 2359373, .regionQuery pf 1 9, .groupQuery pf 1 5 20,
      .datumStatus pf 1, .markQueueStatus pf 1, .syncCounterRead pf 1 0, .contextStepRead pf 1 1, .counterRead pf 1 0 510,
      .streamCountersRead pf 1 5 1 2 0, .polderCountersRead pf 1 5, .weirConfig pf 1 0 [], .weirStatus pf 1 0,
      .traceConfig pf 1 1 1 1, .traceFetch pf 1 0 32, .lcStatus pf 1, .gaugeIdentity pf 1, .gaugeCountersRead pf 1 0xFFFF,
      .gaugeRecordFetch pf 1 0 15, .gaugeRecordRelease pf 1 0, .faultRead pf 1 0 63, .resetEngine pf 1 0x0500,
      .resetContext pf 1 1, .resetPolder pf 1 5, .resetVf pf 1 0, .resetBlock pf 1, .crashDumpRead pf 1 0x8000 0 4072,
      .stragglerRead pf 1 5 1, .identityRead pf 1, .surveyRead pf 1 193 63, .firmwareStage pf 1 0 [1],
      .firmwareActivate pf 1 1024, .firmwareCommitSvn pf 1 5], Passes c e := by
  intro c h
  apply of_passes
  revert c
  decide +kernel

/-- The fabric manager's commands, in its session. -/
theorem witness_fm_commands : ∀ c ∈ [Instr.polderMembership fm 1 5 0 6, .collectiveGroupDefine fm 1 0 [],
      .collectiveGroupDestroy fm 1 5 20, .ringCreate fm 1 8 5 [1, 2] 0 [3] 0, .ringMemberDead fm 1 8 2,
      .ringDestroy fm 1 8 0, .mcastGroupJoin fm 1 5 30 6, .mcastGroupLeave fm 1 5 30, .datumConfig fm 1 1 0,
      .floodwatchConfig fm 1 1, .floodwatchConfig fm 1 0, .chartResume fm 1 5 9 0], Passes c (managed e) := by
  intro c h
  apply of_passes
  revert c
  decide +kernel

/-- A tenant's session of VF 0. -/
def tenant : Session := { fmSession with sluice := .vf 0 }

/-- VF 0's sluice, in its session. -/
def vf0 : Origin := { sluice := .vf 0, session := some 1 }

/-- The world with VF 0 in RUN, its session, and polder 5 and its objects bound to it. -/
def rented : State :=
  { e with
    polders := [{ polder with bound := .vf 0 }]
    spdm := { e.spdm with sessions := [tenant] }
    obj := { Objects.reset with memobjs := [{ memobj with fn := 1, plots := [], regions := [] }] }
    fns := { e.fns with vfs := [{ vf with state := .run }] }
    pool := [] }

/-- A tenant's commands. -/
theorem witness_tenant_commands : ∀ c ∈ [Instr.polderProvision vf0 1 6 0 1, .chartExport vf0 1 5 10 3 0x10000 20000000,
      .chartImport vf0 1 5 4 10 0x10000 20000000, .chartResume vf0 1 5 9 0, .chartDiscard vf0 1 5 9], Passes c rented := by
  intro c h
  apply of_passes
  revert c
  decide +kernel

/-- The commands of role T and those of the side-band. -/
theorem witness_tray_commands : (∀ c ∈ [Instr.extentGrant fm 1 5 1 16 0x1F, .extentRenew fm 1 12 1 16,
      .extentHandover fm 1 12 1 2 16, .extentRevoke fm 1 12, .extentStatus fm 1 12, .trayStatus fm 1],
      Passes c (managed (trayed (extent .leased) .normal)))
    ∧ (∀ c ∈ [Instr.extentHint pf 1 12 2, .trayRebuildRate pf 1 50], Passes c (trayed (extent .leased) .normal))
    ∧ ∀ c ∈ [Instr.lcChallenge side 1 2, .lcTransition side 1 1 [], .debugAuthorise side 1 [], .debugClose side 1,
      .serviceRelease side 1], Passes c e := by
  refine ⟨?_, ?_, ?_⟩ <;>
    · intro c h
      apply of_passes
      revert c
      decide +kernel

/-- A tenant of the tray, on the side-band in a session, rekeys its extent. -/
theorem witness_rekey :
    let o : Origin := { sluice := .sb, session := some 1 }
    let t := trayed { extent .leased with expiry := 51 } .normal
    let s : State := { t with
      polders := [{ polder with bound := .sb }], spdm := { t.spdm with sessions := [{ fmSession with sluice := .sb }] } }
    Passes (.extentRekey o 1 12) s ∧ Passes (.extentGrant o 1 5 1 16 0x1F) s ∧ extentDenied o 12 s = false := by
  refine ⟨of_passes (by decide +kernel), of_passes (by decide +kernel), by decide +kernel⟩

/-- WardenCommandsAreChecked, WardenCommandsAreTurnedAway. -/
theorem witness_checked :
    ((wardenRow (.lcStatus { sluice := .dbg, session := none } 1)).isSome = true ∧ running e = true
      ∧ debugAdmits 0x0C01 { e with lc := { e.lc with state := .field } } = false)
    ∧ (let s : State := { e with lc := { e.lc with frozen := true } }
       s.lc.frozen = true ∧ (0x0103 : BitVec 16) ≠ 0x0C01 ∧ resetsBlock (.polderTeardown pf 1 5) = false)
    ∧ (permitted { opcode := 0x0102, fm := true } pf e = false ∧ e.lc.frozen = false)
    ∧ (isReady (booting .firmwareInit) = false ∧ running (booting .firmwareInit) = true)
    ∧ (({ e with sb := { e.sb with outOfService := true } } : State).sb.outOfService = true
      ∧ servedOutOfService 0x0103 = false)
    ∧ (pendingLimit .pf ≤ (pendingOn .pf { e with fns := { e.fns with
        pendings := List.replicate 256 { origin := pf, tag := 2, opcode := 0, final := none } } }).length)
    ∧ (up .s).boot.role ∉ [Role.e]
    ∧ (shutSluice pf 0x0103 (booting .firmwareInit) = true ∧ shutSluice pf 0x0103 e = false ∧ sessionSpent fm (managed e) = false
      ∧ sessionSpent fm { managed e with spdm := { (managed e).spdm with
          sessions := [{ fmSession with rxSeq := BitVec.allOnes 64 }] } } = true)
    ∧ (badProvision (.polderProvision vf0 1 0 1 1) = true ∧ badProvision (.polderProvision vf0 1 6 0 1) = false
      ∧ badProvision (.lcStatus pf 1) = false)
    ∧ (let r : EventRing := { ring with waiting :=
         [{ ctag := 0, status := 0, kind := 2, queue := 0, context := 0, result := 0, datum := 0, ref := 7, flags := 0 }] }
       noticesWaiting .pf { e with obj := { e.obj with rings := [r] } } = 1) := by decide +kernel

/-- WardenCommandsAreTurnedAway: a session whose numbers are used up can seal no response. -/
theorem witness_exhausted :
    let x : Session := { fmSession with txSeq := BitVec.allOnes 64 }
    let s : State := { managed e with spdm := { (managed e).spdm with sessions := [x] } }
    sessionOf fm s = some x ∧ x.txSeq = BitVec.allOnes 64 := by decide +kernel

/-- PoldersAndKeySlotsComplete. -/
theorem witness_polders :
    let locked : State := { managed e with datum := { DatumUnit.reset with value := 50, state := .locked } }
    ((6 : PolderId) ≠ 0 ∧ (6 : PolderId) ≠ 0xFFFF ∧ (0 : BitVec 8).toNat < 2 ∧ provisionPlace vf0 rented = true
      ∧ mutualSession vf0 rented = true ∧ findPolder rented 6 = none ∧ (freeIndex rented).isSome = true
      ∧ (freeHandle rented).isSome = true ∧ 64 ≤ freeEntries rented ∧ rented.cad.ladder = true)
    ∧ (polderLive locked 5 = true ∧ (6 : BitVec 8192) ≠ 0 ∧ markUse 51 locked = .later ∧ markUse 50 locked = .now
      ∧ (6 : BitVec 8192).getLsbD locked.boot.instanceId.toNat = true)
    ∧ (findPolder e 5 = some polder ∧ mayNamePolder pf 5 e = true)
    ∧ (keyTrouble e 5 = none ∧ pinnedCount e < slotCount e.boot.role - 8 ∧ isResident e 5 = true
      ∧ isResident { e with cad := { e.cad with slots := [] } } 5 = false
      ∧ noSlotAtAll { e with cad := { e.cad with slots := [] } } = false)
    ∧ ({ polder with pinned := true } : Polder).pinned = true
    ∧ (255 < slotCount e.boot.role ∨ (0 : BitVec 8).toNat < slotCount e.boot.role) ∧ isTenant pf = false := by
  decide +kernel

/-- PlotsComplete. -/
theorem witness_plots :
    (findPolder e 5 = some polder ∧ polder.teardown = none ∧ mayNamePolder pf 5 e = true
      ∧ (leastBelow 8192 fun n => (findMemobj e (BitVec.ofNat 13 n)).isNone) = some 0)
    ∧ (memobjOf 4 e = some memobj ∧ memobjDenied pf 4 true e = false ∧ memobjDenied pf 4 false e = false)
    ∧ (findPolder e memobj.polder = some polder ∧ memobj.doomed = false ∧ plotValid (plotEntry e 9) = false
      ∧ plotReserved (plotEntry e 9) = false ∧ (9 : BitVec 16).toNat < e.chip.plots ∧ baseTaken e 7 9 = false
      ∧ memobj.plots.length < 4096 ∧ polder.confidential = false)
    ∧ (plotValid (plotEntry e 3) = true ∧ plotReserved (plotEntry e 3) = false ∧ releaseDenied pf 3 e = false)
    ∧ readDenied pf (plotPolder e 3) e = false := by decide +kernel

/-- HostObjectsComplete. -/
theorem witness_objects :
    let f : FenceObj := { id := 6, owner := 1, fn := 0, value := 4, shares := [], waits := [] }
    let x : EventRing := { ring with id := 3 }
    (findPolder e 5 = some polder ∧ polder.confidential = false ∧ (15 : BitVec 8).toNat < 16 ∧ sluiceVf pf.sluice = none
      ∧ (1 < e.chip.cores ∧ coreContext e 1 = none)
      ∧ (leastBelow 4096 fun n => (findContext e (BitVec.ofNat 12 n)).isNone) = some 0)
    ∧ ((4095 : BitVec 16).toNat < 4096 ∧ findContext e ((1 : BitVec 16).setWidth 12) = some context
      ∧ mayName pf 0 5 true e = true ∧ mayName pf 0 5 false e = true ∧ contextLive 1 e = true)
    ∧ (powerWithin 16 4096 16 = true ∧ powerWithin 16 4096 4096 = true ∧ findRing e (ownerFn pf) ((0 : BitVec 16).setWidth 9) = some ring
      ∧ ring.waiters = [] ∧ (leastBelow 256 fun n => (findQueue e (BitVec.ofNat 8 n)).isNone) = some 0)
    ∧ (findQueue e 2 = some queue ∧ mayName pf queue.fn (contextPolder e queue.context) true e = true)
    ∧ (powerWithin 64 65536 64 = true ∧ powerWithin 64 65536 65536 = true ∧ e.obj.rings.length < ringLimit e.boot.role
      ∧ (leastBelow (ringLimit e.boot.role) fun n => (findRing e (ownerFn pf) (BitVec.ofNat 9 n)).isNone) = some 1
      ∧ findRing (up .e) (ownerFn pf) 0 = none)
    ∧ (let s : State := { e with obj := { e.obj with rings := [ring, x] } }
       findRing s (ownerFn pf) ((3 : BitVec 16).setWidth 9) = some x
         ∧ ∀ q ∈ s.obj.queues, q.fn = ownerFn pf → q.ring ≠ (3 : BitVec 16).setWidth 9)
    ∧ (leastBelow 16384 fun n => (findFence e (BitVec.ofNat 14 n)).isNone) = some 0
    ∧ (fenceOf 6 e = some f ∧ mayName pf f.fn (contextPolder e f.owner) true e = true ∧ context.fn = f.fn
      ∧ isConfidential e (contextPolder e f.owner) = false
      ∧ mayName pf context.fn context.polder false e = true) := by decide +kernel

/-- HostObjectsComplete: the cores of a context that is made are free. -/
theorem witness_cores : ∀ i, (2 : BitVec 512).getLsbD i = true → i < e.chip.cores ∧ coreContext e (BitVec.ofNat 9 i) = none := by
  intro i h
  have hi : i < 512 := Nat.lt_of_not_le fun hn => by
    rw [BitVec.getLsbD_of_ge _ _ hn] at h
    cases h
  have : ∀ k : Fin 512, (2 : BitVec 512).getLsbD k = true → k.val < e.chip.cores ∧ coreContext e (BitVec.ofNat 9 k.val) = none := by
    decide +kernel
  exact this ⟨i, hi⟩ h

/-- RegionsAndRingsComplete. -/
theorem witness_regions :
    let s := managed (ringed [] (ringMsg 0 []))
    let locked : State := { s with datum := { DatumUnit.reset with value := 50, state := .locked } }
    (memobjOf 4 e = some memobj ∧ findPolder e memobj.polder = some polder ∧ memobjDenied pf 4 false e = false
      ∧ (0x1F : BitVec 8).toNat < 32 ∧ (16777152 : BitVec 32).toNat < 16777216
      ∧ [(3 : BitVec 16)].length ≤ 2024
      ∧ memoryRegionBad e polder 4096 0 [3] = false ∧ memobj.regions.length < 256
      ∧ (0x1F : BitVec 8).getLsbD 4 = true ∧ (262145 : BitVec 32).toNat % 262144 ≠ 0 ∧ findRegion e (keyIndex 262145) = none)
    ∧ ((0x0F : BitVec 8).getLsbD 4 = false ∧ drbgAvailable e = true ∧ freeRegion e = some 0)
    ∧ (signalRegionBad e polder 4 0 0 1 [] = false ∧ signalRegionBad e polder 192 0 0 48 [] = false
      ∧ signalRegionBad e polder 4 0 48 1 [] = true)
    ∧ (regionByKey e 2359373 = some region ∧ withdrawDenied pf 2359373 e = false)
    ∧ ((16383 : BitVec 16).toNat < 16384
      ∧ readDenied pf ((findRegion e 16383).bind fun g => findPolder e g.polder) e = false)
    ∧ (ringBad (managed e) 8 5 [1, 2] 0 [] = false ∧ e.rings.rings.length < 16)
    ∧ (namedMember 8 2 s = some (ring8, 1) ∧ ringNamed 8 s = some ring8 ∧ ring8.destroying = none
      ∧ ringEnding ring8 s = false ∧ ringEnding { ring8 with destroying := some [] } s = true)
    ∧ (2047 : BitVec 16).toNat < 2048
    ∧ (markUse 51 locked = .later ∧ markUse 50 locked = .now) := by decide +kernel

/-- A group descriptor of two ranks under one node: group 21 of polder 5 (R236). -/
def groupDesc : Bytes :=
  padTo 1152 (leBytes 2 21 ++ leBytes 2 5 ++ leBytes 2 2 ++ leBytes 2 1 ++ leBytes 2 6 ++ [0, 0] ++ leBytes 4 10 ++ zeros 48
    ++ padTo 1024 [6] ++ leBytes 4 1 ++ leBytes 4 2 ++ leBytes 8 (3 + 8589934592))

/-- GroupsComplete. -/
theorem witness_groups :
    let s : State := { managed e with coll := { Coll.reset with groups := [ranked] } }
    let j : State := { managed e with link := { e.link with joins := [⟨30, 5, 6⟩] } }
    (1088 ≤ groupDesc.length ∧ groupCountsOk groupDesc = true ∧ groupDesc.length = groupLength 2 1 0
      ∧ leField groupDesc 4 2 = 2 ∧ leField groupDesc 6 2 = 1 ∧ leField groupDesc 10 1 = 0
      ∧ groupReservedClear groupDesc 2 1 0 = true ∧ groupTreeOk groupDesc (parseGroup groupDesc) = true
      ∧ polderStands s (parseGroup groupDesc).polder = true ∧ findGroup s 5 (parseGroup groupDesc).id = none)
    ∧ (findGroup s 5 20 = some ranked ∧ mayNamePolder pf 5 s = true ∧ isTearing s 5 = false ∧ ranked.destroy = [])
    ∧ ((∀ x ∈ (managed e).link.joins, x.group = 30 → x.polder = 5) ∧ (6 : BitVec 8192).getLsbD e.boot.instanceId.toNat = true
      ∧ polderStands e 5 = true ∧ joined j 30 5 = true) := by decide +kernel

/-- ExtentCommandsComplete. -/
theorem witness_extent_commands :
    let x : Extent := { extent .leased with expiry := 51 }
    let s := managed (trayed x .normal)
    (mayNamePolder fm 5 s = true ∧ (0x1F : BitVec 8).toNat < 32 ∧ polderStands s 5 = true ∧ leaseOk 3600 = true ∧ leaseOk 1 = true
      ∧ leaseOk 3601 = false ∧ grantId s = some 0 ∧ freeLocation s = some 0 ∧ drbgAvailable s = true)
    ∧ (namedExtent s 12 = some x ∧ extentDenied fm 12 s = false ∧ x.state = .leased
      ∧ s.datum.value.toNat < x.expiry.toNat ∧ x.holder = 1 ∧ x.rekey = none)
    ∧ (namedExtent (trayed (extent .revoking) .normal) 12 = some (extent .revoking)
      ∧ namedExtent (trayed (extent .revoked) .normal) 12 = some (extent .revoked))
    ∧ ((8191 : BitVec 16).toNat < 8192 ∧ extentUnread fm 12 s = false) := by decide +kernel

/-- DatumAndCountersComplete. -/
theorem witness_datum_commands :
    let s : State := { e with link := { e.link with tx := [txStream] } }
    (e.datum.marks = [] ∧ (15 : BitVec 8).toNat < fabricPorts .e ∧ (47 : BitVec 8).toNat < fabricPorts .s)
    ∧ (corePolder e 0 = some polder ∧ readDenied pf (some polder) e = false ∧ polder.confidential = false
      ∧ polder.teardown = none)
    ∧ (findContext e ((1 : BitVec 16).setWidth 12) = some context ∧ contextDenied pf 1 e = false
      ∧ context.state ≠ .destroying ∧ isTearing e 5 = false)
    ∧ (0 + (510 : BitVec 16).toNat ≤ 1024 ∧ (514 : BitVec 16).toNat + (510 : BitVec 16).toNat ≤ 1024)
    ∧ streamReading s 5 1 2 0 = some (0, 1, []) := by decide +kernel

/-- Weir 0 with a minimum of 50 for each class. -/
def weir : Weir :=
  { id := 0, minima := List.replicate 16 50, capacity := 1000, level := 0, limited := false,
    misses := List.replicate 16 0, recordAt := [], folded := List.replicate 16 0, mirrorScale := 0, mirrorLevel := 0,
    mirrored := [] }

/-- WeirsAndTraceComplete. -/
theorem witness_weirs :
    let s : State := { e with weirs := [weir] }
    (running e = true ∧ hasWeir e 0 = true)
    ∧ (0 * 100 < 98 * configuredBytes s 0 15)
    ∧ (traceFits e 1 = true ∧ (511 : BitVec 64).toNat < 512 ∧ (1 : BitVec 64).getLsbD 0 = true)
    ∧ e.tracer.head ≤ ringBytes e := by decide +kernel

/-- WeirsAndTraceComplete: minima that fit in 900 thousandths, and minima that do not. -/
theorem witness_minima (a b : List (BitVec 16)) (ha : a = List.replicate 16 50) (hb : b = List.replicate 16 57) :
    a.length = 16 ∧ (a.map BitVec.toNat).sum = 800 ∧ (b.map BitVec.toNat).sum = 912 ∧ ∀ m ∈ b, m.toNat ≤ 1000 := by
  subst ha hb
  refine ⟨rfl, rfl, rfl, ?_⟩
  intro m hm
  obtain rfl := List.eq_of_mem_replicate hm
  decide

/-- ChartCommandsComplete. -/
theorem witness_chart_commands :
    let q : Polder := { polder with bound := .vf 0 }
    let fresh : State := { rented with chip := { Integration.reset with plots := 4 }, cad := { e.cad with slots := [] },
                                       stack := .reset, fau := .reset }
    let held : State := { rented with polders := [{ q with freeze := .chart 9 }] }
    (findPolder rented 5 = some q ∧ q.teardown = none ∧ q.fatal = false ∧ mayNamePolder vf0 5 rented = true)
    ∧ ((∀ r ∈ rented.rings.rings, r.polder ≠ 5) ∧ 256 ≤ poolFree rented ∧ chartBusy rented 5 = false
      ∧ isFrozen rented 5 = false ∧ (10 : BitVec 32) ∉ q.exported)
    ∧ (findPolder fresh 5 = some q ∧ notFresh fresh 5 4 = false ∧ memobjDenied vf0 4 false fresh = false)
    ∧ (findPolder held 5 = some { q with freeze := .chart 9 } ∧ heldChart { q with freeze := .chart 9 } = some 9)
    ∧ ((9 : BitVec 32) ∈ q.exported ∧ q.freeze ≠ .imported 9) := by decide +kernel

/-- LifeCycleCommandsComplete. -/
theorem witness_life_cycle :
    let n : Nonce := { target := 2, value := 1, at_ := 40000000001 }
    let s : State := { e with lc := { LifeCycle.reset with state := .factory, nonce := some n },
                              fuses := { Fuses.reset with rootFlag := 0x1F } }
    let a : Bytes := leBytes 4 3 ++ leBytes 4 86400 ++ zeros 196
    (challengeTarget 4 = true ∧ challengeTarget 0x10 = true ∧ challengeTarget 5 = false ∧ drbgAvailable e = true)
    ∧ (lcTarget 1 = some .factory ∧ transitionPermitted .factory e = true ∧ e.lc.state = .blank)
    ∧ (lcTarget 2 = some .field ∧ transitionPermitted .field s = true ∧ responseShape (zeros 196) = true
      ∧ nonceFor 2 s = some n ∧ transitionPermitted .field { s with fuses := { s.fuses with rootFlag := 0x0F } } = false)
    ∧ (authorisationShape a = true ∧ confidentialResident e = false ∧ e.lc.state ≠ .field
      ∧ ({ Fuses.reset with debugPolicy := 1 } : Fuses).debugPolicy.getLsbD 0 = true
      ∧ Fuses.reset.debugPolicy.getLsbD 0 = false
      ∧ (activeOwner { Fuses.reset with owner := [⟨1, false⟩] }).isSome = true
      ∧ nonceFor 0x10 { e with lc := { LifeCycle.reset with nonce := some { n with target := 0x10 } } } = some { n with target := 0x10 }) := by
  decide +kernel

/-- GaugeSurveyAndFirmwareComplete. -/
theorem witness_gauge_commands : (gaugeUnread pf 0xFFFF e = false ∧ gaugeCounters 0xFFFF e = some e.gauge.spill)
    ∧ ((63 : BitVec 8).toNat ≤ 63 ∧ (193 : BitVec 8).toNat + (63 : BitVec 8).toNat ≤ 256)
    ∧ (394239 + [(1 : Byte)].length ≤ 394240 ∧ e.boot.rewrite = none)
    ∧ imageFail (stagedImage e) e = some 2 ∧ (5 : BitVec 32).toNat ≤ e.boot.svn.toNat := by decide +kernel

/-- FaultsAndResetsComplete. -/
theorem witness_fault_commands :
    let h : Hang := { unit := 0x0500, current := some 1, suspects := [], units := [], start := 0, waiters := [] }
    (watched e 0x0500 = true ∧ findHang e 0x0500 = none
      ∧ findHang { e with tracer := { e.tracer with hangs := [h] } } 0x0500 = some h)
    ∧ (findContext e ((1 : BitVec 16).setWidth 12) = some context ∧ contextLive 1 e = true ∧ mayName pf 0 5 false e = true)
    ∧ (63 < e.chip.vfs ∧ (63 : BitVec 16).toNat < 64)
    ∧ (sampleUnit 0x8003 = true ∧ unitExists e 0x0900 = true)
    ∧ (stragglerOf e 5 1 = some ⟨3, 1, 100⟩ ∧ isTearing e 5 = false)
    ∧ (copyRuns (endFences 1 (squashWork 1 e)) 1 = false) := by decide +kernel

/-- TheDatumAfterBlockReset, ServiceReleaseResets, FloodwatchIsConfigured. -/
theorem witness_stated : e.pins.porN = true ∧ e.pins.blockRstN = true ∧ e.datum.slew = 0
    ∧ ({ e with sb := { e.sb with outOfService := true } } : State).sb.outOfService = true ∧ e.sb.outOfService = false
    ∧ pf.sluice ≠ .fm := by decide +kernel

/-- R453: FLOODWATCH_CONFIG of the fabric manager turns Floodwatch on; the PF may not. -/
theorem test_floodwatch :
    (∃ t, exec (.floodwatchConfig fm 1 1) (managed e) = .next t ∧ t.tracer.floodwatch = true
      ∧ .response fm 1 0x0E04 .ok [] ∈ t.out)
    ∧ (∃ t, exec (.floodwatchConfig pf 1 1) e = .next t ∧ t.tracer.floodwatch = false
      ∧ .response pf 1 0x0E04 .denied [] ∈ t.out) :=
  ⟨⟨_, rfl, by decide +kernel, by decide +kernel⟩, ⟨_, rfl, by decide +kernel, by decide +kernel⟩⟩

/-- R447: SERVICE_RELEASE on the side-band resets the block with cause 7. -/
theorem test_service_release :
    ∃ t, exec (.serviceRelease side 1) { e with sb := { e.sb with outOfService := true, events := [(0, 2)] } } = .next t
      ∧ t.sb.cause = 7 ∧ t.sb.events = [] ∧ t.sb.outOfService = false := ⟨_, rfl, by decide +kernel⟩

/-- R444, R498: RESET of scope 4 answers at once and resets the block with cause 6, its stacks' bytes kept. -/
theorem test_reset_block : ∃ t, exec (.resetBlock pf 1) e = .next t ∧ t.sb.cause = 6 ∧ t.polders = [] :=
  ⟨_, rfl, by decide +kernel⟩

/-- R383: DATUM_STATUS answers the value, the state and two offsets, 20 bytes in all. -/
theorem test_datum_status : ∃ t, exec (.datumStatus pf 1) e = .next t
    ∧ .response pf 1 0x0802 .ok (zeros 20) ∈ t.out := ⟨_, rfl, by decide +kernel⟩

/-- R125, R383: TRAY_REBUILD_RATE takes 1 to 50 per cent. -/
theorem test_rebuild_rate :
    (∃ t, exec (.trayRebuildRate pf 1 50) (trayed (extent .leased) .normal) = .next t ∧ t.tray.rebuildRate = 50)
    ∧ (∃ t, exec (.trayRebuildRate pf 1 51) (trayed (extent .leased) .normal) = .next t ∧ t.tray.rebuildRate = 10
      ∧ .response pf 1 0x0607 .badParam [] ∈ t.out) :=
  ⟨⟨_, rfl, by decide +kernel⟩, ⟨_, rfl, by decide +kernel, by decide +kernel⟩⟩

end Sys2Proof.Tests
end

section
/-! SUPPORT. What the resets of Machine/Reset.lean leave (R330, R444, R445), and the statements about them. -/

namespace Sys2Proof.Machine

/-! ### The image partition under a reset (R330) -/

/-- What a write of an image leaves in the flash depends on the flash alone. -/
theorem writeImagePart_flash_congr {s t : State} (h : s.flash = t.flash) (i : Image) (n : Nat) :
    (writeImagePart i n s).flash = (writeImagePart i n t).flash := by
  simp only [writeImagePart, h]

theorem cutRewrite_flash_of_none {s : State} (h : s.boot.rewrite = none) : (cutRewrite s).flash = s.flash := by
  simp [cutRewrite, h]

/-- A rewrite that is cut short leaves fewer bytes than its whole image written. -/
theorem cutRewrite_flash_of_some {s : State} {w : Rewrite} (h : s.boot.rewrite = some w) :
    ∃ n < 1024 + bodyLength w.image.header, (cutRewrite s).flash = (writeImagePart w.image n s).flash := by
  refine ⟨(fresh s).toNat % (1024 + bodyLength w.image.header), Nat.mod_lt _ (by omega), ?_⟩
  simp only [cutRewrite, h, tookFree_flash]
  exact writeImagePart_flash_congr rfl _ _

/-! ### What a block reset leaves (R444) -/

@[simp] theorem resetState_polders (s : State) : (resetState s).polders = [] := rfl
@[simp] theorem resetState_cad (s : State) : (resetState s).cad = Cadastre.reset := rfl
@[simp] theorem resetState_obj (s : State) : (resetState s).obj = Objects.reset := rfl
@[simp] theorem resetState_datum (s : State) : (resetState s).datum = DatumUnit.reset := rfl
@[simp] theorem resetState_stage (s : State) : (resetState s).boot.stage = .held := rfl

@[simp] theorem resetState_stackMem (s : State) : (resetState s).stack.mem = s.stack.mem := by
  simp [resetState]

@[simp] theorem resetState_devices (s : State) : (resetState s).tray.devices = s.tray.devices := by
  simp [resetState]

/-- Cutting a rewrite short clears it, and leaves the rest of the boot state. -/
theorem cutRewrite_boot (s : State) : (cutRewrite s).boot = { s.boot with rewrite := none } := by
  unfold cutRewrite
  split
  · rename_i h
    rw [← h]
  · rfl

/-- The straps and the role stay sampled through a reset from inside (R34). -/
@[simp] theorem resetState_role (s : State) : (resetState s).boot.role = s.boot.role := by
  simp [resetState, cutRewrite_boot]

@[simp] theorem resetState_strapInvalid (s : State) : (resetState s).boot.strapInvalid = s.boot.strapInvalid := by
  simp [resetState, cutRewrite_boot]

/-- Closing the Gauge's entries touches no flash: a block reset leaves what cutting a rewrite short leaves. -/
theorem resetState_flash (s : State) : (resetState s).flash = (cutRewrite (closeAllEntries s)).flash := rfl

theorem resetState_flash_of_none {s : State} (h : s.boot.rewrite = none) : (resetState s).flash = s.flash := by
  rw [resetState_flash, cutRewrite_flash_of_none (by simpa using h), closeAllEntries_flash]

theorem resetState_flash_of_some {s : State} {w : Rewrite} (h : s.boot.rewrite = some w) :
    ∃ n < 1024 + bodyLength w.image.header, (resetState s).flash = (writeImagePart w.image n s).flash := by
  have hc : (closeAllEntries s).boot.rewrite = some w := by simpa using h
  obtain ⟨n, hn, hf⟩ := cutRewrite_flash_of_some hc
  exact ⟨n, hn, hf.trans (writeImagePart_flash_congr (closeAllEntries_flash s) _ _)⟩

/-! ### The start of boot (R1, R2, R327) -/

/-- The record of the reset changes only the copies and the unsent record of the side-band island. -/
theorem bootRecord_sb (s : State) :
    ∃ copies unsent, (bootRecord s).sb = { s.sb with faultCopy := copies, unsent := unsent } := ⟨_, _, rfl⟩

/-- Once the boot's notice has left, no record of the side-band island is unsent; the rest of it stays. -/
theorem announceBoot_sb (s : State) : (announceBoot s).sb = { s.sb with unsent := none } := by
  unfold announceBoot
  split
  · rename_i h
    rw [← h]
  · rfl

/-- Boot under an invalid strap stops at once. -/
theorem romStart_boot_of_invalid {s : State} (h : s.boot.strapInvalid = true) :
    (romStart s).boot = { s.boot with stage := .halted, reason := 0x20, stageAt := s.time } := by
  simp [romStart, h]

/-- Boot under a valid strap is at ROM_START, with the ROM's identity fields written. -/
theorem romStart_boot_of_valid {s : State} (h : s.boot.strapInvalid = false) :
    (romStart s).boot = { s.boot with stage := .romStart, stageAt := s.time, idRom := true } := by
  simp [romStart, h]

@[simp] theorem romStart_role (s : State) : (romStart s).boot.role = s.boot.role := by
  cases h : s.boot.strapInvalid
  · rw [romStart_boot_of_valid h]
  · rw [romStart_boot_of_invalid h]

@[simp] theorem romStart_instanceId (s : State) : (romStart s).boot.instanceId = s.boot.instanceId := by
  cases h : s.boot.strapInvalid
  · rw [romStart_boot_of_valid h]
  · rw [romStart_boot_of_invalid h]

/-- The start of boot changes only the copies and the unsent record of the side-band island. -/
theorem romStart_sb (s : State) :
    ∃ copies unsent, (romStart s).sb = { s.sb with faultCopy := copies, unsent := unsent } := by
  obtain ⟨copies, unsent, hr⟩ := bootRecord_sb (gaugeRead s)
  rw [gaugeRead_sb] at hr
  unfold romStart
  dsimp only
  split
  · exact ⟨copies, none, by rw [announceBoot_sb, hr]⟩
  · exact ⟨copies, unsent, hr⟩

@[simp] theorem romStart_cause (s : State) : (romStart s).sb.cause = s.sb.cause := by
  obtain ⟨copies, unsent, h⟩ := romStart_sb s
  rw [h]

@[simp] theorem romStart_events (s : State) : (romStart s).sb.events = s.sb.events := by
  obtain ⟨copies, unsent, h⟩ := romStart_sb s
  rw [h]

@[simp] theorem romStart_leaving (s : State) : (romStart s).sb.leaving = s.sb.leaving := by
  obtain ⟨copies, unsent, h⟩ := romStart_sb s
  rw [h]

/-! ### The resets from inside, and leaving service (R34, R331, R445) -/

theorem countEvent_events (cause : BitVec 8) (s : State) :
    (countEvent cause s).sb.events = recentEvents s ++ [(s.time, cause)] := rfl

/-- The third event within 600 s begins leaving service. -/
theorem countEvent_leaving (cause : BitVec 8) (s : State) :
    (countEvent cause s).sb.leaving = true ↔ s.sb.leaving = true ∨ 2 ≤ (recentEvents s).length := by
  simp [countEvent]

@[simp] theorem blockReset_cause (cause : BitVec 4) (s : State) : (blockReset cause s).sb.cause = cause := by
  simp [blockReset]

@[simp] theorem blockReset_polders (cause : BitVec 4) (s : State) : (blockReset cause s).polders = [] := by
  simp [blockReset]

@[simp] theorem blockReset_role (cause : BitVec 4) (s : State) : (blockReset cause s).boot.role = s.boot.role := by
  simp only [blockReset, romStart_role, resetState_role]
  split <;> simp

/-- The causes that count towards leaving service (R445). -/
def countedCause (cause : BitVec 4) : Bool := 2 ≤ cause.toNat && cause.toNat ≤ 5

/-- A block reset of a counted cause is in the list of events. -/
theorem blockReset_events {cause : BitVec 4} (h : countedCause cause = true) (s : State) :
    (blockReset cause s).sb.events = recentEvents s ++ [(s.time, cause.setWidth 8)] := by
  unfold countedCause at h
  simp only [blockReset, h, if_true, romStart_events, resetState_sb, countEvent_events]

/-- A block reset of a counted cause begins leaving service where it is the third event within 600 s. -/
theorem blockReset_leaving {cause : BitVec 4} (h : countedCause cause = true) (s : State) :
    (blockReset cause s).sb.leaving = true ↔ s.sb.leaving = true ∨ 2 ≤ (recentEvents s).length := by
  unfold countedCause at h
  simp only [blockReset, h, if_true, romStart_leaving, resetState_sb, countEvent_leaving]

/-- A command that resets the block from inside with a counted cause leaves that cause, counts the event, and keeps the
role sampled. -/
theorem completes_countedReset {c : Instr} {cause : BitVec 4} {s : State} (hc : countedCause cause = true)
    (he : exec c s = .next (blockReset cause s)) :
    Completes c s fun t => t.sb.cause = cause ∧ (s.time, cause.setWidth 8) ∈ t.sb.events ∧ t.polders = []
      ∧ t.boot.role = s.boot.role ∧ (t.sb.leaving = true ↔ s.sb.leaving = true ∨ 2 ≤ (recentEvents s).length) :=
  ⟨_, he, blockReset_cause cause s, by simp [blockReset_events hc], blockReset_polders cause s,
    blockReset_role cause s, blockReset_leaving hc s⟩

/-- The watchdog, not serviced for 250 ms by a firmware that runs, resets the block with cause 2. -/
theorem exec_wardenWatchdog {s : State} (hr : running s = true)
    (hst : s.boot.stage = .firmwareInit ∨ s.boot.stage = .ready) (hd : watchdogDue s = true) :
    exec .wardenWatchdog s = .next (blockReset 2 s) := by
  simp [exec, execWardenWatchdog, hr, hst, hd]

/-- An uncorrectable error of the Warden resets the block with cause 3. -/
theorem exec_wardenEcc {s : State} (hr : running s = true) : exec .wardenEcc s = .next (blockReset 3 s) := by
  simp [exec, execWardenEcc, hr]

/-- Firmware that takes 2 s to initialise resets the block with cause 5. -/
theorem exec_bootTimeout {s : State} (hr : running s = true) (hst : s.boot.stage = .firmwareInit)
    (ht : s.boot.stageAt + 2000000000 ≤ s.time) : exec .bootTimeout s = .next (blockReset 5 s) := by
  simp [exec, execBootTimeout, hr, hst, ht]

/-! ### The reset pins (R1, R2, R498, R527, R528) -/

/-- BLOCK_RESET_ASSERT of a block out of reset. -/
theorem exec_blockResetAssert {s : State} (h : s.pins.blockRstN = true) :
    exec .blockResetAssert s = .next { resetState s with
      pins := { (resetState s).pins with blockRstN := false }
      sb := { (resetState s).sb with cause := 1 } } := by
  simp [exec, execBlockResetAssert, h]

/-- BLOCK_RESET_RELEASE of a powered block in reset starts boot under the straps it samples. -/
theorem exec_blockResetRelease {s : State} (strap : BitVec 2) (id : InstId) (hp : s.pins.porN = true)
    (hb : s.pins.blockRstN = false) :
    exec (.blockResetRelease strap id) s = .next (romStart { s with
      pins := { s.pins with blockRstN := true }
      boot := { s.boot with role := strapRole strap, strapInvalid := decide (strap = 3), instanceId := id } }) := by
  simp [exec, execBlockResetRelease, hp, hb]

/-- Releasing power-on reset starts the always-on islands: the Datum at 0, the Gauge with the voted life-cycle code. -/
theorem completes_powerOnResetRelease {s : State} (h : s.pins.porN = false) :
    Completes .powerOnResetRelease s fun t =>
      t.pins = { s.pins with porN := true } ∧ t.sb = SideBand.reset ∧ t.datum.value = 0 ∧ t.datum.state = .freeRunning
        ∧ t.gauge.powered = true ∧ t.gauge.time = 0 ∧ t.gauge.lcCode = lcCodeOf s.fuses := by
  refine ⟨_, by simp only [exec, execPowerOnResetRelease, h]; rfl, ?_⟩
  exact ⟨rfl, rfl, rfl, rfl, rfl, rfl, rfl⟩

/-- Asserting power-on reset holds both resets and clears the always-on state; the flash keeps what R330 says. -/
theorem completes_powerOnResetAssert (s : State) :
    Completes .powerOnResetAssert s fun t =>
      t.pins.porN = false ∧ t.pins.blockRstN = false ∧ t.sb = SideBand.reset ∧ t.gauge = Gauge.reset
        ∧ t.boot.stage = .held ∧ t.polders = [] ∧ t.fuses = s.fuses ∧ (s.boot.rewrite = none → t.flash = s.flash)
        ∧ ∀ w, s.boot.rewrite = some w →
          ∃ n < 1024 + bodyLength w.image.header, t.flash = (writeImagePart w.image n s).flash :=
  ⟨_, rfl, rfl, rfl, rfl, rfl, rfl, resetState_polders s, resetState_fuses s, resetState_flash_of_none,
    fun _ => resetState_flash_of_some⟩

/-- Asserting block reset holds the block with cause CHIP_RESET, and clears it but for the fuses, the flash and what the
stacks and devices hold. -/
theorem completes_blockResetAssert {s : State} (h : s.pins.blockRstN = true) :
    Completes .blockResetAssert s fun t =>
      t.pins.blockRstN = false ∧ t.boot.stage = .held ∧ t.sb = { s.sb with cause := 1 } ∧ t.polders = []
        ∧ t.cad = Cadastre.reset ∧ t.obj = Objects.reset ∧ t.fuses = s.fuses
        ∧ (s.boot.rewrite = none → t.flash = s.flash) ∧ t.stack.mem = s.stack.mem ∧ t.tray.devices = s.tray.devices :=
  ⟨_, exec_blockResetAssert h, rfl, resetState_stage s, by simp, resetState_polders s, resetState_cad s,
    resetState_obj s, resetState_fuses s, resetState_flash_of_none, resetState_stackMem s, resetState_devices s⟩

/-- Releasing block reset samples the role and the identifier, and boot is at ROM_START or stopped by the strap. -/
theorem completes_blockResetRelease {s : State} (strap : BitVec 2) (id : InstId) (hp : s.pins.porN = true)
    (hb : s.pins.blockRstN = false) :
    Completes (.blockResetRelease strap id) s fun t =>
      t.pins.blockRstN = true ∧ t.boot.instanceId = id
        ∧ (strap = 0 → t.boot.role = .e) ∧ (strap = 1 → t.boot.role = .s) ∧ (strap = 2 → t.boot.role = .t)
        ∧ (strap ≠ 3 → t.boot.stage = .romStart)
        ∧ (strap = 3 → t.boot.stage = .halted ∧ t.boot.reason = 0x20) := by
  refine ⟨_, exec_blockResetRelease strap id hp hb, by simp, by simp, ?_, ?_, ?_, fun h => ?_, fun h => ?_⟩
  · rintro rfl
    exact romStart_role _
  · rintro rfl
    exact romStart_role _
  · rintro rfl
    exact romStart_role _
  · rw [romStart_boot_of_valid (decide_eq_false h)]
  · rw [romStart_boot_of_invalid (decide_eq_true h)]
    exact ⟨rfl, rfl⟩

/-- A correctable error of the Warden is counted. -/
theorem completes_correctableEcc {s : State} (inRom : Bool) (h : running s = true) :
    Completes (.correctableEcc inRom) s fun t =>
      counterOf (if inRom then 1 else 0) t = counterOf (if inRom then 1 else 0) s + 1 :=
  ⟨_, by simp only [exec, execCorrectableEcc, h]; rfl, counterOf_count _ s⟩

/-- Settles O7: the pins by what resetState and romStart leave, the resets from inside by what blockReset counts. -/
theorem resetsComplete : Obligations.ResetsComplete :=
  ⟨fun _ => completes_powerOnResetRelease, completes_powerOnResetAssert, fun _ => completes_blockResetAssert,
    fun strap id _ => completes_blockResetRelease strap id,
    fun _ hr hst hd => completes_countedReset (cause := 2) rfl (exec_wardenWatchdog hr hst hd),
    fun _ hr => completes_countedReset (cause := 3) rfl (exec_wardenEcc hr),
    fun _ hr hst ht => completes_countedReset (cause := 5) rfl (exec_bootTimeout hr hst ht),
    fun inRom _ => completes_correctableEcc inRom⟩

end Sys2Proof.Machine
end

section
/-! SUPPORT. What the commands for polders and key slots do (R302, R343 to R345, R383), and the statement about them. -/

namespace Sys2Proof.Machine

/-! ### Replies keep what the command did -/

/-- Whether an answer can be sealed depends on the sessions alone. -/
theorem canSeal_of_spdm_eq {o : Origin} {s t : State} (h : t.spdm = s.spdm) (hs : canSeal o s) : canSeal o t := by
  unfold canSeal sessionOf at *
  rwa [h]

/-- A reply made after an effect that leaves the sessions alone is among the outputs. -/
theorem response_mem_reply {o : Origin} {s t : State} (tag : BitVec 32) (opcode : BitVec 16) (st : Status)
    (payload : Bytes) (hs : canSeal o s) (h : t.spdm = s.spdm) :
    .response o tag opcode st payload ∈ (reply o tag opcode st payload t).out := by
  simp [reply_out tag opcode st payload (canSeal_of_spdm_eq h hs)]

/-- A command that passes can have its answer sealed. -/
theorem Passes.canSeal {c : Instr} {s : State} {ci : CmdInfo} {o : Origin} {tag : BitVec 32} (h : Passes c s)
    (hw : wardenRow c = some (ci, o, tag)) : Machine.canSeal o s := by
  obtain ⟨_, _, _, hw', _, hs, _⟩ := h
  rw [hw] at hw'
  cases hw'
  exact hs

/-! ### Provisioning (R292, R343) -/

/-- Jobs whose lengths the KCU takes are only traced: they leave no record of a refusal. -/
theorem inlineJobs_of_fit {l : List InlineJob} (h : ∀ j ∈ l, lengthsFit j.mode j.aad j.text = true)
    (p : Option PolderId) (s : State) :
    inlineJobs p l s = (true, l.foldl (fun t j => traceInline j p t) s) := by
  unfold inlineJobs
  induction l generalizing s with
  | nil => rfl
  | cons j l ih =>
    have hj : inlineJob j p s = (true, traceInline j p s) := by simp [inlineJob, h j]
    simpa [hj] using ih (fun k hk => h k (List.mem_cons_of_mem _ hk)) (traceInline j p s)

theorem foldl_traceInline_polders (l : List InlineJob) (p : Option PolderId) (s : State) :
    (l.foldl (fun t j => traceInline j p t) s).polders = s.polders := by
  induction l generalizing s with
  | nil => rfl
  | cons j l ih => simp [ih]

/-- The length of a wrapped key, of either size, fits a wrap. -/
theorem deedText_fits (kind : BitVec 8) : lengthsFit 2 0 (if kind = 3 then 64 else 32) = true := by
  split <;> rfl

/-- The jobs that make a deed have lengths that the KCU takes. -/
theorem deedJobs_fit {s : State} {p : PolderId} {pmk : Key256} {d : Deed} {j : InlineJob}
    (h : j ∈ deedJobs s p pmk d) : lengthsFit j.mode j.aad j.text = true := by
  unfold deedJobs deedKeying at h
  split at h <;> simp only [List.mem_cons, List.not_mem_nil, or_false] at h
  · obtain rfl | rfl := h
    · rfl
    · exact deedText_fits 1
  · obtain rfl | rfl | rfl := h
    · rfl
    · rfl
    · exact deedText_fits _

/-- So have those of a whole provisioning. -/
theorem provisionJobs_fit (s : State) (p : PolderId) (pmk : Key256) (deeds : List Deed) :
    ∀ j ∈ deeds.flatMap (deedJobs s p pmk) ++ [keyCheckJob p pmk], lengthsFit j.mode j.aad j.text = true := by
  intro j hj
  rw [List.mem_append, List.mem_flatMap, List.mem_singleton] at hj
  obtain ⟨d, _, hd⟩ | rfl := hj
  · exact deedJobs_fit hd
  · rfl

theorem openEntry_parts (p : PolderId) (conf : Bool) (s : State) : s.agree [.gauge] (openEntry p conf s) :=
  openEntry_frame p conf s (agree_refl _ s) rfl

@[simp] theorem openEntry_polders (p : PolderId) (conf : Bool) (s : State) : (openEntry p conf s).polders = s.polders :=
  openEntry_parts p conf s .polders rfl

@[simp] theorem openEntry_cad (p : PolderId) (conf : Bool) (s : State) : (openEntry p conf s).cad = s.cad :=
  openEntry_parts p conf s .cad rfl

/-- A definition adds the polder, without members, to those there are. -/
theorem definePolder_polders (o : Origin) (p : PolderId) (conf : Bool) (pmk : Key256) (s : State) :
    ∃ identity, (definePolder o p conf pmk s).polders = s.polders ++ [newPolder p conf
      (BitVec.ofNat 12 ((freeIndex s).getD 0)) ((freeHandle s).getD 0) o.sluice identity] := by
  refine ⟨(sessionOf o s).bind fun x => if x.mutual_ then x.identity else none, ?_⟩
  simp only [definePolder, openEntry_polders, inlineJobs_of_fit (provisionJobs_fit _ p pmk _),
    foldl_traceInline_polders]
  rfl

/-- A definition writes its handle's entry, LIVE, to the PVT. -/
theorem definePolder_pvt (o : Origin) (p : PolderId) (conf : Bool) (pmk : Key256) (s : State) :
    (definePolder o p conf pmk s).cad.pvt = (setPvt { pvtEntry s ((freeHandle s).getD 0) with
      state := .live, polderSlot := BitVec.ofNat 12 ((freeIndex s).getD 0) } s).cad.pvt := by
  simp only [definePolder, openEntry_cad, inlineJobs_cad]

/-- A definition writes the polder's deeds. -/
theorem definePolder_deeds (o : Origin) (p : PolderId) (conf : Bool) (pmk : Key256) (s : State) :
    (definePolder o p conf pmk s).cad.deeds = s.cad.deeds ++ polderDeeds s p conf pmk ((freeHandle s).getD 0) := by
  simp only [definePolder, openEntry_cad, inlineJobs_cad]
  rfl

theorem definePolder_spdm (o : Origin) (p : PolderId) (conf : Bool) (pmk : Key256) (s : State) :
    (definePolder o p conf pmk s).spdm = s.spdm :=
  definePolder_frame (A := [.out, .sb, .polders, .cad, .keys, .obj, .fns, .tracer, .gauge, .power, .free])
    o p conf pmk s (agree_refl _ s) rfl .spdm rfl

/-- What a PVT entry reads depends on the PVT alone. -/
theorem pvtEntry_congr {s t : State} (h : t.cad.pvt = s.cad.pvt) (n : BitVec 13) : pvtEntry t n = pvtEntry s n := by
  simp only [pvtEntry, h]

/-- Every PVT entry has the handle it is read by. -/
@[simp] theorem pvtEntry_handle (s : State) (n : BitVec 13) : (pvtEntry s n).handle = n := by
  unfold pvtEntry
  cases h : s.cad.pvt.find? fun e => e.handle = n with
  | none => rfl
  | some e => simpa using List.find?_some h

/-- A PVT entry reads what was written to it. -/
theorem pvtEntry_setPvt {e : PvtEntry} {n : BitVec 13} (h : e.handle = n) (s : State) :
    pvtEntry (setPvt e s) n = e := by
  subst h
  simp [pvtEntry, setPvt]

/-- So the handle of a defined polder is LIVE. -/
theorem definePolder_handle_live (o : Origin) (p : PolderId) (conf : Bool) (pmk : Key256) (s : State) :
    (pvtEntry (definePolder o p conf pmk s) ((freeHandle s).getD 0)).state = .live := by
  rw [pvtEntry_congr (definePolder_pvt o p conf pmk s)]
  rw [pvtEntry_setPvt]
  exact pvtEntry_handle s _

/-- POLDER_PROVISION with well-formed fields is run as every Warden command. -/
theorem exec_polderProvision {p : PolderId} {conf : BitVec 8} (h : provisionMalformed false p conf = false) (o : Origin)
    (tag : BitVec 32) (pmk : Key256) (s : State) :
    exec (.polderProvision o tag p conf pmk) s = .next (runCmdIn { opcode := 0x0101, vf := true, sbt := true } o tag
      false false false (provisionCheck false o p conf pmk) (fun s =>
        reply o tag 0x0101 .ok (keyCheck pmk) (definePolder o p (conf = 1) pmk s)) s) := by
  simp [exec, execPolderProvision, polderProvisionCmd, h, runCmd]

/-- A provisioning that meets every check of R343 defines its polder. -/
theorem answers_polderProvision {o : Origin} {tag : BitVec 32} {p : PolderId} {conf : BitVec 8} {pmk : Key256}
    {s : State} (hp : Passes (.polderProvision o tag p conf pmk) s) (hm : provisionMalformed false p conf = false)
    (hc : provisionCheck false o p conf pmk s = none) (hh : (freeHandle s).isSome = true) :
    Answers (.polderProvision o tag p conf pmk) s .ok (keyCheck pmk) fun t =>
      ∃ q, t.polders = s.polders ++ [q] ∧ q.id = p ∧ q.confidential = decide (conf = 1) ∧ q.members = 0
        ∧ q.bound = o.sluice ∧ freeHandle s = some q.handle ∧ (pvtEntry t q.handle).state = .live
        ∧ t.cad.deeds = s.cad.deeds ++ polderDeeds s p (decide (conf = 1)) pmk q.handle := by
  refine answers_effect hp rfl (exec_polderProvision hm o tag pmk s) rfl rfl hc
    (response_mem_reply _ _ _ _ (hp.canSeal rfl) (definePolder_spdm o p _ pmk s)) ?_
  obtain ⟨handle, hf⟩ := Option.isSome_iff_exists.1 hh
  obtain ⟨identity, hq⟩ := definePolder_polders o p (conf = 1) pmk s
  have hlive := definePolder_handle_live o p (conf = 1) pmk s
  have hdeeds := definePolder_deeds o p (conf = 1) pmk s
  rw [hf, Option.getD_some] at hq hlive hdeeds
  exact ⟨_, (reply_polders ..).trans hq, rfl, rfl, rfl, rfl, hf,
    (congrArg PvtEntry.state (pvtEntry_congr (congrArg Cadastre.pvt (reply_cad ..)) handle)).trans hlive,
    (congrArg Cadastre.deeds (reply_cad ..)).trans hdeeds⟩

/-! ### Membership (R345) -/

theorem countLate_parts (m : Datum) (s : State) : s.agree [.tracer] (countLate m s) :=
  countLate_frame m s (agree_refl _ s) rfl

/-- A change that keeps this end a member changes the members and nothing else. -/
theorem setMembers_of_member {members : BitVec 8192} {s : State}
    (h : members.getLsbD s.boot.instanceId.toNat = true) (p : PolderId) :
    setMembers p members s = modPolder p (fun q => { q with members := members }) s := by
  unfold setMembers
  dsimp only
  rw [modPolder_boot, if_pos h]

/-- POLDER_MEMBERSHIP is run as every Warden command: its own checks, then its effect at once or at its mark. -/
theorem exec_polderMembership (o : Origin) (tag : BitVec 32) (p : PolderId) (mark : Datum) (members : BitVec 8192)
    (s : State) :
    exec (.polderMembership o tag p mark members) s = .next (runCmdIn { opcode := 0x0102, fm := true } o tag false false
      false
      (fun s => firstFail [(!polderLive s p || decide (members = 0), .badParam),
        (markUse mark s = .refused .busy, .busy), (markUse mark s = .refused .badParam, .badParam)])
      (fun s => reply o tag 0x0102 .ok [] (if markUse mark s = .later then enqueueMark mark (.membership p members) s
        else setMembers p members (countLate mark s))) s) := rfl

/-- A change whose mark is still to come is queued for it. -/
theorem answers_membership_later {o : Origin} {tag : BitVec 32} {p : PolderId} {mark : Datum} {members : BitVec 8192}
    {s : State} (hp : Passes (.polderMembership o tag p mark members) s) (hl : polderLive s p = true)
    (hm : members ≠ 0) (hu : markUse mark s = .later) :
    Answers (.polderMembership o tag p mark members) s .ok [] fun t =>
      t.polders = s.polders
        ∧ t.datum.marks = s.datum.marks ++ [{ mark := mark, action := .membership p members }] := by
  refine answers_effect hp rfl (exec_polderMembership ..) rfl rfl ?_ ?_ ?_
  · exact (firstFail_none _).2 (by rw [decide_eq_false hm]; simp [hl, hu])
  · exact response_mem_reply _ _ _ _ (hp.canSeal rfl) (by rw [if_pos hu]; rfl)
  · simp only [hu, if_true, reply_polders, reply_datum]
    exact ⟨rfl, rfl⟩

/-- A change whose mark has come is made, and counted where it comes late. -/
theorem answers_membership_now {o : Origin} {tag : BitVec 32} {p : PolderId} {mark : Datum} {members : BitVec 8192}
    {s : State} (hp : Passes (.polderMembership o tag p mark members) s) (hl : polderLive s p = true)
    (hm : members ≠ 0) (hu : markUse mark s = .now) (hi : members.getLsbD s.boot.instanceId.toNat = true) :
    Answers (.polderMembership o tag p mark members) s .ok [] fun t =>
      t.polders = alter (fun q => q.id = p) (fun q => { q with members := members }) s.polders := by
  have hn : markUse mark s ≠ .later := by simp [hu]
  have hb : (countLate mark s).boot = s.boot := countLate_parts mark s .boot rfl
  have hset := setMembers_of_member (s := countLate mark s) (by rwa [hb]) p
  refine answers_effect hp rfl (exec_polderMembership ..) rfl rfl ?_ ?_ ?_
  · exact (firstFail_none _).2 (by rw [decide_eq_false hm]; simp [hl, hu])
  · refine response_mem_reply _ _ _ _ (hp.canSeal rfl) ?_
    rw [if_neg hn, hset]
    exact countLate_parts mark s .spdm rfl
  · rw [reply_polders, if_neg hn, hset, modPolder_polders, countLate_parts mark s .polders rfl]

/-! ### Key slots (R302) -/

/-- An element put in by an index that the first match of another test has is the first match of that test. -/
theorem find?_upsert_of_find? {α : Type} {p q : α → Bool} {a k : α} {l : List α} (hk : l.find? q = some k)
    (hp : p k = true) (ha : q a = true) : (upsert p a l).find? q = some a := by
  induction l with
  | nil => simp at hk
  | cons x t ih =>
    unfold upsert
    by_cases hx : p x = true
    · simp [hx, ha]
    · rw [if_neg hx]
      cases hq : q x with
      | true =>
        rw [List.find?_cons_of_pos hq, Option.some.injEq] at hk
        exact absurd (hk ▸ hp) hx
      | false =>
        have hn : ¬q x = true := Bool.eq_false_iff.1 hq
        rw [List.find?_cons_of_neg hn] at hk ⊢
        exact ih hk

/-- A polder's slot belongs to it and is in use. -/
theorem slotOf_some {s : State} {p : PolderId} {k : KeySlot} (h : slotOf s p = some k) :
    (decide (k.polder = p) && k.state != .free && k.state != .bad) = true := by
  unfold slotOf at h
  simpa using List.find?_some h

/-- A slot written over the one of a polder, for that polder and in the same state, is the polder's slot. -/
theorem slotOf_writeSlot {s : State} {p : PolderId} {k k' : KeySlot} (h : slotOf s p = some k)
    (hi : k'.index = k.index) (hp : k'.polder = k.polder) (hs : k'.state = k.state) :
    slotOf (writeSlot k' s) p = some { k' with check := slotCheck s.cad.slotMask k' } := by
  refine find?_upsert_of_find? (k := k) h (decide_eq_true hi.symm) ?_
  dsimp only
  rw [hp, hs]
  exact slotOf_some h

/-- Pinning and unpinning leave the state of the polder's slot. -/
theorem slotOf_setPinned (s : State) (p : PolderId) (b : Bool) :
    (slotOf (setPinned p b s) p).map (·.state) = (slotOf s p).map (·.state) := by
  unfold setPinned
  dsimp only
  have hm : slotOf (modPolder p (fun q => { q with pinned := b }) s) p = slotOf s p := rfl
  cases h : slotOf s p with
  | none => simp [hm, h]
  | some k =>
    simp only [hm, h]
    split
    · rw [hm, h]
    · rw [slotOf_writeSlot (k' := { k with pinned := b }) (hm.trans h) rfl rfl rfl]
      rfl

/-- A polder is resident by the state of its slot alone. -/
theorem isResident_eq (s : State) (p : PolderId) :
    isResident s p = decide ((slotOf s p).map (·.state) = some .resident) := by
  unfold isResident
  cases slotOf s p <;> simp

/-- So pinning leaves whether the polder is resident. -/
@[simp] theorem isResident_setPinned (s : State) (p : PolderId) (b : Bool) :
    isResident (setPinned p b s) p = isResident s p := by
  simp only [isResident_eq, slotOf_setPinned]

/-- Pinning marks the polder, whatever becomes of its slot. -/
theorem setPinned_polders (p : PolderId) (b : Bool) (s : State) :
    (setPinned p b s).polders = alter (fun x => x.id = p) (fun q => { q with pinned := b }) s.polders := by
  unfold setPinned
  dsimp only
  split
  · split <;> rfl
  · rfl

theorem setPinned_spdm (p : PolderId) (b : Bool) (s : State) : (setPinned p b s).spdm = s.spdm :=
  setPinned_frame (A := [.polders, .cad]) p b s (agree_refl _ s) rfl .spdm rfl

/-- A polder found after a change to all of its ID is the change of one. -/
theorem findPolder_of_alter {s t : State} {p : PolderId} {f : Polder → Polder} {q : Polder}
    (ht : t.polders = alter (fun x => x.id = p) f s.polders) (hq : findPolder t p = some q) :
    ∃ x, q = f x := by
  unfold findPolder at hq
  have hid : q.id = p := by simpa using List.find?_some hq
  have hmem := List.mem_of_find?_eq_some hq
  rw [ht, alter, List.mem_map] at hmem
  obtain ⟨x, _, rfl⟩ := hmem
  by_cases hx : x.id = p
  · exact ⟨x, by simp [hx]⟩
  · simp [hx] at hid

/-- After pinning or unpinning, the polder is marked so. -/
theorem pinned_of_setPinned {s t : State} {p : PolderId} {b : Bool} {q : Polder}
    (ht : t.polders = (setPinned p b s).polders) (hq : findPolder t p = some q) : q.pinned = b := by
  rw [setPinned_polders] at ht
  obtain ⟨x, rfl⟩ := findPolder_of_alter ht hq
  rfl

/-- The own checks of KEY_SLOT_PIN refuse none that has keys, or a slot to wait for. -/
theorem keySlotPin_checks {s : State} {p : PolderId} {b : Bool} (hl : polderLive s p = true)
    (hk : keyTrouble s p = none) (hn : pinnedCount s < slotCount s.boot.role - 8)
    (hr : isResident s p = true ∨ noSlotAtAll s = false) :
    firstFail
      [(!polderLive s p, .badParam),
       ((keyTrouble s p).isSome, (keyTrouble s p).getD .ok),
       (!b && decide (slotCount s.boot.role - 8 ≤ pinnedCount s), .noSlot),
       (!isResident s p && noSlotAtAll s && (slotOf s p).isNone, .noSlot)] = none := by
  have hroom : pinnedCount s + 8 < slotCount s.boot.role := by omega
  refine (firstFail_none _).2 ?_
  rcases hr with hr | hr <;> simp [hl, hk, hroom, hr]

/-- KEY_SLOT_PIN is run as every Warden command: its own checks, then the answer or the wait for a load. -/
theorem exec_keySlotPin (o : Origin) (tag : BitVec 32) (p : PolderId) (s : State) :
    exec (.keySlotPin o tag p) s
      = .next (runCmdIn { opcode := 0x0201, pf := true, vf := true, sbt := true, ladder := true } o tag
        (polderDenied o p s) false false
        (fun s => firstFail
          [(!polderLive s p, .badParam),
           ((keyTrouble s p).isSome, (keyTrouble s p).getD .ok),
           (!(match findPolder s p with | some q => q.pinned | none => false)
              && decide (slotCount s.boot.role - 8 ≤ pinnedCount s), .noSlot),
           (!isResident s p && noSlotAtAll s && (slotOf s p).isNone, .noSlot)])
        (fun s => if isResident (setPinned p true s) p then reply o tag 0x0201 .ok [] (setPinned p true s)
          else waitForLoad p o tag (pend o tag 0x0201 (setPinned p true s))) s) := rfl

/-- Pinning a resident polder is final. -/
theorem answers_keySlotPin {o : Origin} {tag : BitVec 32} {p : PolderId} {s : State}
    (hp : Passes (.keySlotPin o tag p) s) (hl : polderLive s p = true) (hm : mayNamePolder o p s = true)
    (hk : keyTrouble s p = none) (hn : pinnedCount s < slotCount s.boot.role - 8) (hr : isResident s p = true) :
    Answers (.keySlotPin o tag p) s .ok [] fun t => ∀ q, findPolder t p = some q → q.pinned = true := by
  refine answers_effect hp rfl (exec_keySlotPin ..) (by simp [polderDenied, hm]) rfl
    (keySlotPin_checks hl hk hn (.inl hr)) ?_ ?_
  · rw [isResident_setPinned, if_pos hr]
    exact response_mem_reply _ _ _ _ (hp.canSeal rfl) (setPinned_spdm p true s)
  · rw [isResident_setPinned, if_pos hr]
    exact fun q => pinned_of_setPinned (reply_polders ..)

/-- Pinning another polder waits for its load. -/
theorem exec_keySlotPin_waits {o : Origin} {tag : BitVec 32} {p : PolderId} {s : State}
    (hp : Passes (.keySlotPin o tag p) s) (hl : polderLive s p = true) (hm : mayNamePolder o p s = true)
    (hk : keyTrouble s p = none) (hn : pinnedCount s < slotCount s.boot.role - 8) (hr : isResident s p = false)
    (hs : noSlotAtAll s = false) :
    exec (.keySlotPin o tag p) s = .next (waitForLoad p o tag (pend o tag 0x0201 (setPinned p true s))) := by
  rw [exec_effect hp rfl (exec_keySlotPin ..) (by simp [polderDenied, hm]) rfl (keySlotPin_checks hl hk hn (.inr hs))]
  simp [hr]

/-! ### The commands that have one check of their own, or none -/

theorem exec_polderTeardown (o : Origin) (tag : BitVec 32) (p : PolderId) (s : State) :
    exec (.polderTeardown o tag p) s
      = .next (runCmdIn { opcode := 0x0103, pf := true, vf := true, sbp := true, sbt := true, fm := true } o tag
        (polderDenied o p s) false false (fun s => firstFail [((findPolder s p).isNone, .badParam)])
        (fun s => beginTeardown p false [(o, tag)] (pend o tag 0x0103 s)) s) := rfl

theorem exec_polderList (o : Origin) (tag : BitVec 32) (p : PolderId) (s : State) :
    exec (.polderList o tag p) s
      = .next (runCmdIn { opcode := 0x0104, pf := true, sbp := true } o tag false false false noCheck
        (fun s => reply o tag 0x0104 .ok (leBytes 2 (listedPolders s p).length ++ zeros 2
          ++ (listedPolders s p).flatMap (listEntry s)) s) s) := rfl

theorem exec_keySlotUnpin (o : Origin) (tag : BitVec 32) (p : PolderId) (s : State) :
    exec (.keySlotUnpin o tag p) s
      = .next (runCmdIn { opcode := 0x0202, pf := true, vf := true, sbt := true, ladder := true } o tag
        (polderDenied o p s) false false
        (fun s => firstFail
          [(!(match findPolder s p with | some q => q.pinned && q.teardown.isNone | none => false), .badParam)])
        (fun s => resume (reply o tag 0x0202 .ok [] (setPinned p false s))) s) := rfl

theorem exec_keySlotStatus (o : Origin) (tag : BitVec 32) (slot : BitVec 8) (s : State) :
    exec (.keySlotStatus o tag slot) s
      = .next (runCmdIn { opcode := 0x0203, pf := true, vf := true, sbt := true } o tag
        (readDenied o (if (getSlot s slot).state = .free || (getSlot s slot).state = .bad then none
          else findPolder s (getSlot s slot).polder) s) false false
        (fun s => firstFail [(decide (slotCount s.boot.role ≤ slot.toNat), .badParam)])
        (fun t => reply o tag 0x0203 .ok ([slotStateCode (getSlot s slot).state,
          if (getSlot s slot).pinned then 1 else 0, (getSlot s slot).present, 0]
          ++ leBytes 2 (getSlot s slot).polder.toNat ++ zeros 2) t) s) := rfl

/-- A read of a slot is no other tenant's where the slot holds the tenant's own polder. -/
theorem readDenied_slot {o : Origin} {k : KeySlot} {s : State}
    (h : isTenant o = true → k.state ≠ .free ∧ k.state ≠ .bad
      ∧ ∃ q, findPolder s k.polder = some q ∧ tenantOf o q s = true) :
    readDenied o (if k.state = .free || k.state = .bad then none else findPolder s k.polder) s = false := by
  cases ho : isTenant o with
  | false => simp [readDenied, ho]
  | true =>
    obtain ⟨hfree, hbad, q, hq, hten⟩ := h ho
    simp [readDenied, hfree, hbad, hq, hten]

/-- A slot's status is read from the slot. -/
theorem answers_keySlotStatus {o : Origin} {tag : BitVec 32} {slot : BitVec 8} {s : State}
    (hp : Passes (.keySlotStatus o tag slot) s) (hs : slot.toNat < slotCount s.boot.role)
    (ht : isTenant o = true → (getSlot s slot).state ≠ .free ∧ (getSlot s slot).state ≠ .bad
      ∧ ∃ q, findPolder s (getSlot s slot).polder = some q ∧ tenantOf o q s = true) :
    Answers (.keySlotStatus o tag slot) s .ok
      ([slotStateCode (getSlot s slot).state, if (getSlot s slot).pinned then 1 else 0, (getSlot s slot).present, 0]
        ++ leBytes 2 (getSlot s slot).polder.toNat ++ zeros 2) fun t => t.cad = s.cad := by
  refine answers_effect hp rfl (exec_keySlotStatus ..) (readDenied_slot ht) rfl ?_ ?_ ?_
  · exact (firstFail_none _).2 (by simp [hs])
  · exact response_mem_reply _ _ _ _ (hp.canSeal rfl) rfl
  · exact reply_cad ..

/-- Settles O46: each command passes the checks before its own by hypothesis; what is left is its own checks and its
effect. -/
theorem poldersAndKeySlotsComplete : Obligations.PoldersAndKeySlotsComplete := by
  intro o tag p s
  refine ⟨?provision, ?membership, ?teardown, ?list, ?pin, ?unpin, ?status⟩
  case provision =>
    intro conf pmk hp h0 h1 hconf hplace hmutual hfind hindex hhandle hroom hladder hhalves
    have hm : provisionMalformed false p conf = false := by
      simp only [provisionMalformed, decide_eq_false h0, decide_eq_false h1, decide_eq_false (Nat.not_le.2 hconf)]
      rfl
    refine answers_polderProvision hp hm ((firstFail_none _).2 ?_) hhandle
    simp only [List.mem_cons, List.not_mem_nil, or_false, forall_eq_or_imp, forall_eq]
    refine ⟨hm, by simp [hplace], ?_, by simp [hfind], ?_, by simp [hladder], ?_⟩
    · cases hc : decide (conf = 1) with
      | false => rfl
      | true => simp [hmutual (of_decide_eq_true hc)]
    · have hfull : decide (freeEntries s < 64) = false := decide_eq_false (by omega)
      simp [hindex, hhandle, hfull]
    · by_cases hrole : s.boot.role = .e
      · simpa [hrole] using hhalves hrole
      · simp [hrole]
  case membership =>
    exact fun mark members hp hl hm =>
      ⟨answers_membership_later hp hl hm, answers_membership_now hp hl hm⟩
  case teardown =>
    intro q hp hq hm
    exact exec_effect hp rfl (exec_polderTeardown ..) (by simp [polderDenied, hm]) rfl
      ((firstFail_none _).2 (by simp [hq]))
  case list =>
    intro hp
    exact answers_effect hp rfl (exec_polderList ..) rfl rfl rfl
      (response_mem_reply _ _ _ _ (hp.canSeal rfl) rfl) (reply_polders ..)
  case pin =>
    exact fun hp hl hm hk hn => ⟨answers_keySlotPin hp hl hm hk hn, exec_keySlotPin_waits hp hl hm hk hn⟩
  case unpin =>
    intro q hp hq hm hpin ht
    rw [exec_effect hp rfl (exec_keySlotUnpin ..) (by simp [polderDenied, hm]) rfl
      ((firstFail_none _).2 (by simp [hq, hpin, ht]))]
  case status =>
    intro slot hp hslot k htenant
    exact answers_keySlotStatus hp hslot htenant

end Sys2Proof.Machine
end

section
/-! SUPPORT. What the FAU does as a requester (R136, R152 to R156, R162, R183, R534, R537), and the statement about it. -/

namespace Sys2Proof.Machine

/-! ### A request that is issued at once (R135, R136, R152, R156, R163) -/

/-- What the FAU asks of a request, fences apart, before it looks at its local memory. -/
structure Issuable (r : RemoteReq) (c : Context) (q : Polder) (s : State) : Prop where
  context : findContext s r.context = some c
  polder : findPolder s c.polder = some q
  live : q.teardown = none
  bound : c.state = .bound
  thawed : isFrozen s q.id = false
  shape : shapeOk r.opcode r.modifier r.regionKey r.offset r.len.toNat = true
  multicast : mcOk r = true
  noFence : r.opcode ≠ 7
  data : r.len ≠ 0
  target : r.mc = false → isMember q r.dst = true ∧ r.dst ∉ s.fau.dead
  group : r.mc = true → joined s r.dst q.id = true
  member : isMember q s.boot.instanceId = true
  pending : s.fau.fences = []
  hung : hungFor s fauUnit (some r.context) = false
  room : s.fau.ops.length < 4096
  window : spaceOpen s q.id (reqDest r) = true

/-- The marks of work are no part of that. -/
theorem Issuable.markWork {r : RemoteReq} {c : Context} {q : Polder} {s : State} (h : Issuable r c q s) (d : DomainId) :
    Issuable r c q (markWork d s) := { h with }

/-- Only a fence is wide. -/
theorem wideFence_of_ne {r : RemoteReq} (h : r.opcode ≠ 7) : wideFence r = false := by
  rw [wideFence, decide_eq_false h, Bool.false_and]

/-- A request with data is no fence, nor treated as one. -/
theorem fenceLike_of_data {r : RemoteReq} (h : r.opcode ≠ 7) (hl : r.len ≠ 0) :
    fenceLike r.opcode r.len.toNat = false := by
  have hn : r.len.toNat ≠ 0 := fun hz => hl (BitVec.eq_of_toNat_eq hz)
  rw [fenceLike, decide_eq_false h, decide_eq_false hn, Bool.and_false, Bool.or_false]

/-- The FAU after a request whose local memory is ready: numbered, counted and sent. -/
def issued (r : RemoteReq) (src : OpSource) (c : Context) (q : Polder) (s : State) : State :=
  launchOp r src c (reqDest r) (reqPayload r q.id s) none (count 0x280 (countIssued r src
    (if r.opcode = 6 then s else stackCount q.id r.localAddr.toNat (sourceLen r) false s)))

/-- An issuable request whose local memory is ready is issued. -/
theorem tryIssue_ready {w : FauWait} {c : Context} {q : Polder} {s u v : State} {l m : List Lookup}
    (h : Issuable w.req c q s)
    (hu : localUse c.id q.id w.req.localAddr.toNat (sourceLen w.req) false w.reads s = (.ready, l, u))
    (hv : localUse c.id q.id w.req.localAddr.toNat (sinkLen w.req) true w.writes u = (.ready, m, v)) :
    tryIssue w s = (none, issued w.req w.source c q v) := by
  have hwide := wideFence_of_ne h.noFence
  have htarget : (!w.req.mc && !isMember q w.req.dst) = false := by
    cases hm : w.req.mc with
    | false => simp [h.target hm]
    | true => rfl
  have hgroup : (w.req.mc && !joined s w.req.dst q.id) = false := by
    cases hm : w.req.mc with
    | false => rfl
    | true => simp [h.group hm]
  have hdead : ¬(w.req.mc = false ∧ w.req.dst ∈ s.fau.dead) := fun ⟨hm, hd⟩ => (h.target hm).2 hd
  have hpending : fencePending s w.req.context = false := by simp [fencePending, h.pending]
  simp [tryIssue, h.context, h.polder, h.live, h.bound, h.thawed, h.shape, h.multicast, hwide, htarget, hgroup, hdead,
    h.member, hpending, h.hung, Nat.not_le.2 h.room, h.window, fenceLike_of_data h.noFence h.data, hu, hv, issued]

/-! ### Settling where no fence is pending -/

theorem completeFences_of_none {s : State} (h : s.fau.fences = []) : completeFences s = s := by
  simp [completeFences, h]

theorem sendUnsent_of_none {s : State} (h : s.fau.fences = []) : sendUnsent s = s := by
  simp [sendUnsent, h]

/-- The only request that waits is issued, or ended, and none waits any longer. -/
theorem pumpWaiting_single {w : FauWait} {s t : State} (h : s.fau.waiting = [w])
    (ht : tryIssue w { s with fau := { s.fau with waiting := [] } } = (none, t)) : pumpWaiting s = t := by
  simp [pumpWaiting, h, ht]

/-- Settling issues the only request that waits, and is done. -/
theorem fauSettle_single {w : FauWait} {s t : State} (hw : s.fau.waiting = [w]) (hf : s.fau.fences = [])
    (h : tryIssue w { s with fau := { s.fau with waiting := [] } } = (none, t)) (ht : t.fau.fences = []) :
    fauSettle s = t := by
  have hround : pumpWaiting (sendUnsent (completeFences s)) = t := by
    rw [completeFences_of_none hf, sendUnsent_of_none hf, pumpWaiting_single hw h]
  unfold fauSettle settleRounds
  dsimp only
  rw [hround]
  simp [ht]

/-- A request that need not wait is issued where none waits. -/
theorem submitOp_of_issued {r : RemoteReq} {src : OpSource} {s t : State} (hw : s.fau.waiting = [])
    (hf : s.fau.fences = [])
    (h : tryIssue { req := r, source := src, cause := .new, reads := [], writes := [] } s = (none, t))
    (ht : t.fau.fences = []) : submitOp r src s = t := by
  have hs : { s with fau := { s.fau with waiting := [] } } = s := by rw [← hw]
  exact fauSettle_single (by rw [hw]; rfl) hf ((congrArg (tryIssue _) hs).trans h) ht

/-- A request from a core is taken by an FAU that serves. -/
theorem exec_remoteRequest {r : RemoteReq} {s : State} (hr : running s = true) (he : s.boot.role = .e)
    (ha : accepts s fauDomain = true) :
    exec (.remoteRequest r) s = .next (submitOp r .core (markWork fauDomain s)) := by
  have ha' : (serves s fauDomain && !entering s fauDomain) = true := ha
  simp [exec, execRemoteRequest, enter, hr, he, ha']

/-! ### The FAU's domain -/

/-- What the FAU does where it serves. -/
theorem withFau_of_serves {s : State} (h : fauServes s = true) (serve : State → State) :
    withFau serve s = serve (atFau s) := by
  unfold fauServes at h
  unfold withFau atFau withDomain
  cases hd : domainExists s fauDomain with
  | false => rfl
  | true => simp_all

theorem atFau_parts (s : State) : s.agree [.power] (atFau s) := by
  unfold atFau
  split
  · exact markWork_parts _ s
  · exact agree_refl _ s

@[simp] theorem atFau_time (s : State) : (atFau s).time = s.time := atFau_parts s .time rfl
@[simp] theorem atFau_boot (s : State) : (atFau s).boot = s.boot := atFau_parts s .boot rfl
@[simp] theorem atFau_polders (s : State) : (atFau s).polders = s.polders := atFau_parts s .polders rfl
@[simp] theorem atFau_link (s : State) : (atFau s).link = s.link := atFau_parts s .link rfl
@[simp] theorem atFau_fau (s : State) : (atFau s).fau = s.fau := atFau_parts s .fau rfl

@[simp] theorem answeredOp_atFau (s : State) (rel : Released) : answeredOp (atFau s) rel = answeredOp s rel := by
  simp only [answeredOp, atFau_fau]

@[simp] theorem silent_atFau (s : State) (o : OutOp) : silent (atFau s) o = silent s o := by
  simp only [silent, atFau_link]

@[simp] theorem admitted_atFau (s : State) (p : PolderId) : admitted (atFau s) p = admitted s p := by
  simp only [admitted, findPolder, atFau_polders, atFau_boot]

/-! ### Answers (R136, R153, R534) -/

/-- The first completion that does not wait already is served. -/
theorem exec_completion {rel : Released} {s : State} (hf : fauServes s = true)
    (hi : (s.link.inbox.find? fun r => isCompletion r && !answerWaits s r) = some rel) :
    exec .completion s = .next (resume (serveCompletion (atFau s) rel)) := by
  simp only [exec, execCompletion, hi, withFau_of_serves hf]

theorem serveCompletion_of_answered {s t : State} {rel : Released} {o : OutOp} (h : answeredOp s rel = some o)
    (ht : applyAnswer o rel s = (true, t)) : serveCompletion s rel = fauSettle (dropReleased rel t) := by
  simp only [serveCompletion, h, ht]

theorem serveCompletion_of_unmatched {s : State} {rel : Released} (h : answeredOp s rel = none) :
    serveCompletion s rel = count 0x00E (dropReleased rel s) := by
  simp only [serveCompletion, h]

/-- An ST_OK answer to a load, its sink ready, is written at the operation's own address. -/
theorem applyAnswer_load {s u : State} {rel : Released} {o : OutOp} {l : List Lookup} (hop : o.req.opcode = 1)
    (hd : destIsGroup o.dest = false) (hn : o.req.len ≠ 0) (hlen : rel.payload.length = o.req.len.toNat)
    (hst : rel.inner.aux.extractLsb' 0 8 = 0)
    (hu : localUse o.req.context o.polder o.req.localAddr.toNat rel.payload.length true o.lookups s = (.ready, l, u)) :
    applyAnswer o rel s = (true, finishOp o .ok 0 (rel.inner.aux.extractLsb' 8 6)
      (stackCount o.polder o.req.localAddr.toNat rel.payload.length true
        (stackWrite (polderStackKey u o.polder) o.req.localAddr.toNat rel.payload u))) := by
  have hbytes : answerBytes o = o.req.len.toNat := by simp [answerBytes, hop]
  have hne : o.req.len.toNat ≠ 0 := fun hz => hn (BitVec.eq_of_toNat_eq hz)
  have hok : statusOf (0 : BitVec 8).toNat = some .ok := rfl
  simp only [applyAnswer, hst, hok, hbytes, hlen, ne_eq, not_true_eq_false, if_false, hd, hne]
  rw [← hlen, hu]
  simp [hop]

/-! ### Re-sends and giving up (R154, R183, R537) -/

theorem exec_fauResend {n : Nat} {o : OutOp} {s : State} (hf : fauServes s = true) (ho : s.fau.ops[n]? = some o) :
    exec (.fauResend n) s = .next (fauSettle (resendOp o (atFau s))) := by
  simp only [exec, execFauResend, ho, withFau_of_serves hf]

/-- An operation that is due to be sent again is sent by a member, and given up by any other. -/
theorem resendOp_of_due {o : OutOp} {s : State} (ht : o.firstTx.isSome = true) (hr : o.resends < 3)
    (hd : o.lastTx + 250000 ≤ s.time) (hs : silent s o ≠ []) (hx : ∀ k ∈ s.link.txWait, k.owner ≠ .op o.id) :
    resendOp o s = if admitted s o.polder then
        (sendPacket (opPacket o true) { s with fau := { s.fau with
          ops := alter (fun x => x.id = o.id) (fun x => { x with resends := x.resends + 1, lastTx := s.time })
            s.fau.ops } }).2
      else giveUp o s := by
  have hwait : (s.link.txWait.any fun k => k.owner = .op o.id) = false := by simpa using hx
  have hsilent : (silent s o).isEmpty = false := by simpa using hs
  unfold resendOp resendNow
  rw [if_pos hd, ht, hwait, hsilent, decide_eq_true hr]
  cases admitted s o.polder <;> rfl

theorem exec_fauGiveUp {n : Nat} {o : OutOp} {s : State} (hf : fauServes s = true) (ho : s.fau.ops[n]? = some o)
    (hx : opExpired o s = true) : exec (.fauGiveUp n) s = .next (resume (giveUp o (atFau s))) := by
  simp only [exec, execFauGiveUp, ho, hx, if_true, withFau_of_serves hf]

/-- The outcome of an atomic that is given up is not known. -/
theorem giveUp_atomic {o : OutOp} (h : o.req.opcode = 3) (s : State) :
    giveUp o s = finishOp o .outcomeUnknown 0 0 (outcomeUnknown o s) := by
  rw [giveUp, if_pos h]

/-- Settles O21: a request by what tryIssue answers for it, an answer by applyAnswer, and the two expiries by resendOp and
giveUp. -/
theorem requesterCompletes : Obligations.RequesterCompletes := by
  refine ⟨?request, ?answer, ?unmatched, ?resend, ?giveUp⟩
  case request =>
    intro r c q l m s u v hrun hrole hacc hw hf hc hq hlive hbound hthawed hshape hnf hdata hmc htarget hgroup hmember
      hhung hroom hwin hu hv t _ ht
    have hi : Issuable r c q s :=
      { context := hc, polder := hq, live := hlive, bound := hbound, thawed := hthawed, shape := hshape
        multicast := hmc, noFence := hnf, data := hdata, target := htarget, group := hgroup, member := hmember, pending := hf
        hung := hhung, room := hroom, window := hwin }
    rw [exec_remoteRequest hrun hrole hacc,
      submitOp_of_issued (s := markWork fauDomain s) hw hf (tryIssue_ready (hi.markWork fauDomain) hu hv) ht]
    rfl
  case answer =>
    intro rel o l s u hf hi ho hop hd hn hlen hst hu
    rw [exec_completion hf hi,
      serveCompletion_of_answered ((answeredOp_atFau s rel).trans ho) (applyAnswer_load hop hd hn hlen hst hu)]
  case unmatched =>
    intro rel s hf hi ho
    rw [exec_completion hf hi, serveCompletion_of_unmatched ((answeredOp_atFau s rel).trans ho)]
  case resend =>
    intro n o s hf ho htx hr hd hs hx
    have he := exec_fauResend hf ho
    rw [resendOp_of_due htx hr (by simpa using hd) (by simpa using hs) (by simpa using hx), admitted_atFau] at he
    exact ⟨fun ha => by rw [he, if_pos ha, atFau_time], fun ha => by rw [he, if_neg (by simp [ha])]⟩
  case giveUp =>
    exact fun n o s hf ho hx => ⟨exec_fauGiveUp hf ho hx, fun h => giveUp_atomic h s⟩

end Sys2Proof.Machine
end

section
/-! SUPPORT. What the arrivals, releases, re-sends and watchdogs of barriers do (R269 to R274, R538), and the statement about
them. -/

namespace Sys2Proof.Machine

/-! ### A packet that is served (R42, R420, R541) -/

/-- Work whose domains all serve begins. -/
theorem withDomains_of_serves {ds : List DomainId} {s : State} (h : ∀ d ∈ ds, serves s d = true) (serve : State → State) :
    withDomains ds serve s = serve (ds.foldl (fun t d => markWork d t) s) := by
  have hoff : (ds.filter fun d => !serves s d) = [] := List.filter_eq_nil_iff.2 fun d hd => by simp [h d hd]
  simp [withDomains, wakeAll, hoff]

/-- An admitted packet is served for its group. -/
theorem serveColl_of_admitted {up barrier : Bool} {type : BitVec 4} {g : Group} {r : Released} {s u : State}
    (h : Admitted up type barrier g r s u) (serve : Group → Released → State → State) :
    serveColl up type barrier serve s = serve g r u := by
  obtain ⟨hrun, hnext, hthawed, hserves, hadmit⟩ := h
  simp only [serveColl, hnext, hrun, hthawed, Bool.not_true, Bool.or_false, Bool.false_eq_true, if_false,
    withDomains_of_serves hserves, hadmit]

/-! ### Arrivals at a node (R270, R271, R538) -/

/-- A barrier as its first arrival, of child i, enters it (R270). -/
def firstCounter (g : Group) (r : Released) (i j : Nat) (s : State) : BarrierCounter :=
  { polder := g.polder, group := g.id, id := r.inner.regionKey, cls := r.cls, node := j, children := BitVec.ofNat 64 (2 ^ i)
    first := s.time, firstAt := s.datum.value, sentUp := false, lastTx := s.time }

/-- A barrier with the arrival of child i noted (R270). -/
def withChild (i : Nat) (c : BarrierCounter) : BarrierCounter :=
  { c with children := c.children ||| BitVec.ofNat 64 (2 ^ i) }

/-- The first arrival of a barrier that is not in the released list takes a counter. -/
theorem serveArrival_first {g : Group} {r : Released} {i j : Nat} {k : Kid} {s : State} (hj : ownNode g s = some j)
    (hk : kidFrom g j r.src = some (i, k)) (hc : findCounter s g.polder r.inner.regionKey = none)
    (hr : ∀ e ∈ s.bars.released, ¬(e.polder = g.polder ∧ e.group = g.id ∧ e.id = r.inner.regionKey))
    (hroom : s.bars.counters.length < 4096) (hm : missingKids g (firstCounter g r i j s) ≠ []) :
    serveArrival g r s = setCounter (firstCounter g r i j s) s := by
  have hrel : (s.bars.released.find? fun e => e.polder = g.polder && e.group = g.id && e.id = r.inner.regionKey) = none :=
    List.find?_eq_none.2 fun e he => by simpa [and_assoc] using hr e he
  have hmiss : (missingKids g (firstCounter g r i j s)).isEmpty = false := List.isEmpty_eq_false_iff.2 hm
  unfold firstCounter at hmiss
  simp only [serveArrival, hj, hk, hc, hrel, if_neg (Nat.not_le.2 hroom), hmiss]
  rfl

/-- The arrival of the last child that a node awaits fills its counter, and its lateness is recorded. -/
theorem serveArrival_last {g : Group} {r : Released} {i j : Nat} {k : Kid} {c : BarrierCounter} {s : State}
    (hj : ownNode g s = some j) (hk : kidFrom g j r.src = some (i, k))
    (hc : findCounter s g.polder r.inner.regionKey = some c) (hg : c.group = g.id) (hnew : c.children.getLsbD i = false)
    (hm : missingKids g (withChild i c) = []) :
    serveArrival g r s = fullCounter g (withChild i c) (recordLate g.polder r.src c.firstAt none s) := by
  have hdup : (decide (c.group ≠ g.id) || c.children.getLsbD i) = false := by simp [hg, hnew]
  have hmiss : (missingKids g (withChild i c)).isEmpty = true := List.isEmpty_iff.2 hm
  unfold withChild at hmiss
  simp only [serveArrival, hj, hk, hc, hdup, hmiss]
  rfl

/-- A full counter of the root whose release is sent, or waits, ends with ST_OK. -/
theorem fullCounter_root_sent {g : Group} {c : BarrierCounter} {s v : State} (hroot : nodeParent g c.node = c.node)
    (hv : sendPacket (barrierPacket g c.id c.cls false (toMembers g) 6 0 .ok false .none) s = (none, v)) :
    fullCounter g c s = endCounter c.polder c.group c.id .ok v := by
  simp only [fullCounter, if_pos hroot, hv]

/-- A full counter of the root whose release can not be sent ends its barrier. -/
theorem fullCounter_root_failed {g : Group} {c : BarrierCounter} {st : Status} {s v : State}
    (hroot : nodeParent g c.node = c.node)
    (hv : sendPacket (barrierPacket g c.id c.cls false (toMembers g) 6 0 .ok false .none) s = (some st, v)) :
    fullCounter g c s = abortBarrier g c.node c.id c.cls st v.boot.instanceId v := by
  simp only [fullCounter, if_pos hroot, hv]

/-! ### Releases at a participant (R272) -/

/-- A release whose increment fits is added to the counter that the arrival names. -/
theorem applyRelease_fits {a : Arrival} {c : Context} {s : State} (hc : coreContext s a.core = some c)
    (hp : c.polder = a.polder) (hb : c.state = .bound) (hi : a.increment ≠ 0)
    (hfit : (syncValue s a.core a.counter).toNat + a.increment.toNat < 4294967296) :
    applyRelease a s = (.ok, changeSync a.core a.counter (syncValue s a.core a.counter + a.increment) s) := by
  have hother : (decide (c.polder ≠ a.polder) || decide (c.state ≠ .bound)) = false := by simp [hp, hb]
  simp only [applyRelease, hc, hother, if_neg hi, if_neg (Nat.not_le.2 hfit)]
  rfl

/-- A release completes the arrival of its barrier with what it comes to. -/
theorem serveRelease_arrival {g : Group} {r : Released} {a : Arrival} {s : State} (hrole : s.boot.role ≠ .t)
    (ha : findArrival s g.polder r.inner.regionKey = some a) (hg : a.group = g.id) :
    serveRelease g r s = completeArrival a (applyRelease a s).1 (applyRelease a s).2 := by
  simp [serveRelease, hrole, ha, hg]

/-! ### Re-sends, watchdogs and the released list (R271, R274, R538) -/

/-- A participant's arrival is noted as sent now. -/
def resentAt (p : PolderId) (id : BitVec 32) (s : State) : State :=
  modBars (fun b => { b with arrivals := b.arrivals.map fun x =>
    if x.polder = p && x.id = id then { x with lastTx := s.time } else x }) s

/-- What a participant makes of sending its arrival: it awaits the release, or completes with why none can be sent. -/
def afterSend (a : Arrival) : Option Status × State → State
  | (none, s) => s
  | (some st, s) => completeArrival a st s

theorem afterSend_sent {a : Arrival} {x : Option Status × State} (h : x.1 = none) : afterSend a x = x.2 := by
  obtain ⟨_, s⟩ := x
  cases h
  rfl

theorem afterSend_failed {a : Arrival} {x : Option Status × State} {st : Status} (h : x.1 = some st) :
    afterSend a x = completeArrival a st x.2 := by
  obtain ⟨_, s⟩ := x
  cases h
  rfl

/-- A participant's arrival that is due goes to its leaf again. -/
theorem exec_barrierArrivalResend {p : PolderId} {id : BitVec 32} {a : Arrival} {g : Group} {s : State}
    (ha : findArrival s p id = some a) (hg : usableGroup s p a.group = some g)
    (hw : ∀ k ∈ s.link.txWait, k.owner ≠ .barrier p id) (hd : a.lastTx + 250000 ≤ s.time) :
    exec (.barrierArrivalResend p id) s = .next (afterSend a
      (sendPacket (barrierPacket g a.id a.cls true (toInst (ownLeaf g s)) 0 0 .ok true (.barrier p id))
        (resentAt p id s))) := by
  have hwait : (s.link.txWait.any fun k => decide (k.owner = .barrier p id)) = false := by simpa using hw
  simp only [exec, execBarrierArrivalResend, ha, hg, hwait, Bool.false_or, decide_eq_true_eq, if_neg (Nat.not_lt.2 hd)]
  rfl

/-- A node's barrier that lasts as long as its group's watchdog is recorded with the children it lacks, and aborted. -/
theorem exec_barrierNodeWatchdog {p : PolderId} {id : BitVec 32} {c : BarrierCounter} {g : Group} {s : State}
    (hc : findCounter s p id = some c) (hg : findGroup s p c.group = some g) (hd : c.first + g.watchdog * 1000000 ≤ s.time) :
    exec (.barrierNodeWatchdog p id) s
      = .next (abortBarrier g c.node id c.cls .timeout s.boot.instanceId (writeFault .barrierWatchdog
          { unit := barrierUnit s id, polder := p, count := (missingKids g c).length,
            detail := leBytes 2 c.group.toNat ++ leBytes 4 id.toNat ++ packIds (missingKids g c) } s)) := by
  simp [exec, execBarrierNodeWatchdog, hc, hg, Nat.not_lt.2 hd]

/-- A participant's barrier that lasts 10 s longer than its group's watchdog is recorded, and completes. -/
theorem exec_barrierParticipantWatchdog {p : PolderId} {id : BitVec 32} {a : Arrival} {g : Group} {s : State}
    (ha : findArrival s p id = some a) (hg : findGroup s p a.group = some g)
    (hd : a.start + g.watchdog * 1000000 + 10000000 ≤ s.time) :
    exec (.barrierParticipantWatchdog p id) s
      = .next (completeArrival a .timeout (writeFault .barrierWatchdog
          { unit := barrierUnit s id, polder := p, context := some a.context, peer := some (ownLeaf g s), count := 1,
            detail := leBytes 2 a.group.toNat ++ leBytes 4 id.toNat ++ packIds [ownLeaf g s] } s)) := by
  simp [exec, execBarrierParticipantWatchdog, ha, hg, Nat.not_lt.2 hd]

/-- An outcome that has been in the released list for 100 ms leaves it. -/
theorem exec_releasedListExpiry {n : Nat} {e : ReleasedBarrier} {s : State} (he : s.bars.released[n]? = some e)
    (hd : e.at_ + 100000000 ≤ s.time) :
    exec (.releasedListExpiry n) s
      = .next { s with bars := { s.bars with released := removeAt n s.bars.released } } := by
  simp [exec, execReleasedListExpiry, he, hd, modBars]

/-- Settles O27: an admitted packet by what serveArrival or serveRelease makes of it, the expiries by their guards. -/
theorem barriersComplete : Obligations.BarriersComplete := by
  refine ⟨?first, ?last, ?release, ?resend, ?nodeWatchdog, ?participantWatchdog, ?expiry⟩
  case first =>
    intro g r i j k s u hadm hj hk hc hr hroom c hm
    exact congrArg Host.Outcome.next
      ((serveColl_of_admitted hadm serveArrival).trans (serveArrival_first hj hk hc hr hroom hm))
  case last =>
    intro g r i j k c s u hadm hj hk hc hg hnew d hm hroot v
    have he : exec .barrierArrival s
        = .next (fullCounter g (withChild i c) (recordLate g.polder r.src c.firstAt none u)) :=
      congrArg Host.Outcome.next
        ((serveColl_of_admitted hadm serveArrival).trans (serveArrival_last hj hk hc hg hnew hm))
    exact ⟨fun hv => he.trans (congrArg Host.Outcome.next (fullCounter_root_sent (c := withChild i c) hroot hv)),
      fun st hv => he.trans (congrArg Host.Outcome.next (fullCounter_root_failed (c := withChild i c) hroot hv))⟩
  case release =>
    intro g r a c s u hadm hrole ha hg hc hp hb hi hfit
    refine congrArg Host.Outcome.next ((serveColl_of_admitted hadm serveRelease).trans ?_)
    rw [serveRelease_arrival hrole ha hg, applyRelease_fits hc hp hb hi hfit]
  case resend =>
    intro p id a g s ha hg hw hd x
    have he := exec_barrierArrivalResend ha hg hw hd
    exact ⟨fun hx => he.trans (congrArg Host.Outcome.next (afterSend_sent hx)),
      fun st hx => he.trans (congrArg Host.Outcome.next (afterSend_failed hx))⟩
  case nodeWatchdog => exact fun p id c g s => exec_barrierNodeWatchdog
  case participantWatchdog => exact fun p id a g s ha hg hd => ⟨_, exec_barrierParticipantWatchdog ha hg hd⟩
  case expiry => exact fun n e s => exec_releasedListExpiry

end Sys2Proof.Machine
end

section
/-! SUPPORT. What the configuration of the Datum and the readings of the Datum, of counters and of steps answer (R257, R278,
R279, R282, R286, R287, R471 to R475, R535, R536), and the statement about them. -/

namespace Sys2Proof.Machine

/-! ### Commands that end as they are answered -/

/-- Every command but RESET of scope 4 is run as one that is not. -/
theorem runCmd_eq {c : Instr} {s t : State} {ci : CmdInfo} {o : Origin} {tag : BitVec 32} {d m : Bool}
    {own : State → Option Status} {eff : State → State} (he : exec c s = .next (runCmd ci o tag d m own eff t))
    (hb : resetsBlock c = false) : exec c s = .next (runCmdIn ci o tag d m (resetsBlock c) own eff t) := by
  rw [he, hb]
  rfl

/-- A command that passes every check, and whose effect is a change that leaves the sessions alone and then its reply,
answers; what it leaves is what the reply leaves of the change. -/
theorem answers_reply {c : Instr} {s : State} {st : Status} {payload : Bytes} {P : State → Prop} {ci : CmdInfo}
    {o : Origin} {tag : BitVec 32} {d m : Bool} {own : State → Option Status} {eff : State → State} (u : State)
    (h : Passes c s) (hw : wardenRow c = some (ci, o, tag)) (he : exec c s = .next (runCmd ci o tag d m own eff s))
    (hb : resetsBlock c = false) (hd : d = false) (hm : m = false) (ho : own s = none)
    (hr : eff s = reply o tag ci.opcode st payload u) (hu : u.spdm = s.spdm)
    (hP : P (reply o tag ci.opcode st payload u)) : Answers c s st payload P := by
  refine answers_effect h hw (runCmd_eq he hb) hd hm ho ?_ (hr ▸ hP)
  rw [hr]
  exact response_mem_reply tag ci.opcode st payload (h.canSeal hw) hu

/-- A command that its own check refuses answers the status, without a payload. -/
theorem answers_refused {c : Instr} {s : State} {st : Status} {P : State → Prop} {ci : CmdInfo} {o : Origin}
    {tag : BitVec 32} {d m : Bool} {own : State → Option Status} {eff : State → State} (h : Passes c s)
    (hw : wardenRow c = some (ci, o, tag)) (he : exec c s = .next (runCmd ci o tag d m own eff s))
    (hb : resetsBlock c = false) (hd : d = false) (hm : m = false) (ho : own s = some st)
    (hP : P (refuse o tag ci.opcode st s)) : Answers c s st [] P := by
  have hseal := h.canSeal hw
  obtain ⟨_, _, _, hw', hrun, _, hc⟩ := h
  rw [hw] at hw'
  cases hw'
  subst hd hm
  exact ⟨ci, o, tag, hw, _,
    (runCmd_eq he hb).trans (congrArg Host.Outcome.next (runCmdIn_refused eff hrun hc ho)),
    response_mem_reply tag ci.opcode st [] hseal rfl, hP⟩

/-! ### The configuration of the Datum (R278, R279) -/

/-- Entering a state changes the Datum's state, and whether it was ever locked. -/
theorem enterDatumState_datum (new : DatumState) (s : State) :
    ∃ locked, (enterDatumState new s).datum = { s.datum with state := new, lockedOnce := locked } := by
  unfold enterDatumState
  dsimp only
  split
  · rename_i h
    exact ⟨s.datum.lockedOnce, by rw [← h]⟩
  · exact ⟨_, (emitTrace_datum ..).trans (writeFault_datum ..)⟩

theorem configureDatum_spdm (root : Bool) (port : BitVec 8) (s : State) :
    (configureDatum root port s).spdm = s.spdm :=
  configureDatum_frame (A := [.out, .sb, .datum, .polders, .obj, .fns, .tracer, .free]) root port s (agree_refl _ s) rfl
    .spdm rfl

/-- A root is LOCKED, with no upstream. -/
theorem configureDatum_root (port : BitVec 8) (s : State) :
    (configureDatum true port s).datum.root = true ∧ (configureDatum true port s).datum.hasUpstream = false
      ∧ (configureDatum true port s).datum.state = .locked ∧ (configureDatum true port s).datum.slew = 0 := by
  obtain ⟨locked, h⟩ := enterDatumState_datum .locked
    (modDatum (fun d => { d with root := true, hasUpstream := false, slew := 0, rate := 0, missed := 0 }) s)
  rw [configureDatum, if_pos rfl, h]
  exact ⟨rfl, rfl, rfl, rfl⟩

/-- A block with no upstream is FREE_RUNNING. -/
theorem configureDatum_alone (s : State) :
    (configureDatum false 0xFF s).datum.root = false ∧ (configureDatum false 0xFF s).datum.hasUpstream = false
      ∧ (configureDatum false 0xFF s).datum.state = .freeRunning ∧ (configureDatum false 0xFF s).datum.slew = 0 := by
  obtain ⟨locked, h⟩ := enterDatumState_datum .freeRunning (modDatum (fun d => { d with
    root := false, hasUpstream := false, upstream := 0xFF, slew := 0, rate := 0, missed := 0, good := 0 }) s)
  rw [configureDatum, if_neg Bool.false_ne_true, if_pos rfl, h]
  exact ⟨rfl, rfl, rfl, rfl⟩

/-- A block with an upstream keeps its state and its value. -/
theorem configureDatum_upstream {port : BitVec 8} (h : port ≠ 0xFF) (s : State) :
    (configureDatum false port s).datum
      = { s.datum with root := false, hasUpstream := true, upstream := port, missed := 0, good := 0 } := by
  rw [configureDatum, if_neg Bool.false_ne_true, if_neg h]
  rfl

/-- DATUM_CONFIG with no mark queued, of a root or of a port that there is, configures the Datum. -/
theorem answers_datumConfig {o : Origin} {tag : BitVec 32} {root port : BitVec 8} {s : State} {P : State → Prop}
    (h : Passes (.datumConfig o tag root port) s) (hm : s.datum.marks = [])
    (hr : root.toNat ≤ 1) (hp : root = 0 → port ≠ 0xFF → port.toNat < fabricPorts s.boot.role)
    (hP : P (reply o tag 0x0801 .ok [] (configureDatum (root = 1) port s))) :
    Answers (.datumConfig o tag root port) s .ok [] P := by
  refine answers_reply _ h rfl rfl rfl rfl rfl ?_ ?_ (configureDatum_spdm (root = 1) port s) hP
  · exact (firstFail_none _).2 (by simpa [hm, hr] using hp)
  · rfl

/-! ### Readings -/

/-- A context that is found, and whose destruction has not begun, is live. -/
theorem contextLive_of_find {c : BitVec 16} {x : Context} {s : State} (hlt : c.toNat < 4096)
    (hx : findContext s (c.setWidth 12) = some x) (hd : x.state ≠ .destroying) : contextLive c s = true := by
  simp [contextLive, hlt, hx, hd]

/-- The latches that a reading has returned are cleared, and no others (R475). -/
theorem mem_clearSeen {first n i : Nat} {s : State} :
    i ∈ (clearSeen first n s).tracer.resetSeen ↔ i ∈ s.tracer.resetSeen ∧ ¬(first ≤ i ∧ i < first + n) := by
  simp only [clearSeen, List.mem_filter, Bool.or_eq_true, decide_eq_true_eq, and_congr_right_iff]
  omega

/-- Clearing latches leaves the rest of the Tracer. -/
theorem clearSeen_still (first n : Nat) (s : State) :
    (clearSeen first n s).tracer.still
      = { s.tracer.still with resetSeen := (clearSeen first n s).tracer.resetSeen } := rfl

/-- What leaves the Tracer still leaves the latches. -/
theorem resetSeen_of_still {s t : State} (h : t.tracer.still = s.tracer.still) :
    t.tracer.resetSeen = s.tracer.resetSeen := by
  show t.tracer.still.resetSeen = s.tracer.still.resetSeen
  rw [h]

/-- COUNTER_READ answers the counters of its range, and clears the latches that it has returned. -/
theorem answers_counterRead {o : Origin} {tag : BitVec 32} {first n : BitVec 16} {s : State}
    (h : Passes (.counterRead o tag first n) s) (h0 : n ≠ 0) (hn : n.toNat ≤ 510) (hlast : first.toNat + n.toNat ≤ 1024) :
    Answers (.counterRead o tag first n) s .ok
      ((List.range n.toNat).flatMap fun i => leBytes 8 (counterReading s (first.toNat + i)).toNat) fun t =>
        t.tracer.still = { s.tracer.still with resetSeen := t.tracer.resetSeen }
          ∧ ∀ i, i ∈ t.tracer.resetSeen ↔ i ∈ s.tracer.resetSeen ∧ ¬(first.toNat ≤ i ∧ i < first.toNat + n.toNat) := by
  have hout := response_mem_reply (o := o) tag 0x0B01 .ok
    ((List.range n.toNat).flatMap fun i => leBytes 8 (counterReading s (first.toNat + i)).toNat) (h.canSeal rfl)
    (rfl : s.spdm = s.spdm)
  refine answers_effect h rfl (runCmd_eq rfl rfl) rfl rfl ?_ ?_ ⟨?_, fun i => ?_⟩
  · refine (firstFail_none _).2 ?_
    simp only [List.mem_singleton, forall_eq, decide_eq_false h0, decide_eq_false (Nat.not_lt.2 hn),
      decide_eq_false (Nat.not_lt.2 hlast)]
    rfl
  · exact hout
  · rw [clearSeen_still, reply_still]
  · rw [mem_clearSeen, resetSeen_of_still (reply_still ..)]

/-- POLDER_COUNTERS_READ answers the counters of a polder that no teardown has begun to end. -/
theorem answers_polderCountersRead {o : Origin} {tag : BitVec 32} {p : PolderId} {q : Polder} {s : State}
    (h : Passes (.polderCountersRead o tag p) s) (hq : findPolder s p = some q) (hd : readDenied o (some q) s = false)
    (ht : q.teardown = none) :
    Answers (.polderCountersRead o tag p) s .ok (polderReading q) fun t => t.polders = s.polders := by
  refine answers_reply s h rfl rfl rfl ?_ rfl ?_ ?_ rfl (reply_polders ..)
  · rw [hq, hd]
  · exact (firstFail_none _).2 (by simp [polderLive, hq, ht])
  · simp only [hq]

/-- It is refused of a polder in teardown. -/
theorem answers_polderCountersRead_tearing {o : Origin} {tag : BitVec 32} {p : PolderId} {q : Polder} {s : State}
    (h : Passes (.polderCountersRead o tag p) s) (hq : findPolder s p = some q) (hd : readDenied o (some q) s = false)
    (ht : q.teardown ≠ none) :
    Answers (.polderCountersRead o tag p) s .badParam [] fun t => t.polders = s.polders := by
  have hlive : polderLive s p = false := by
    rw [polderLive, hq]
    exact Option.isNone_eq_false_iff.2 (Option.isSome_iff_ne_none.2 ht)
  refine answers_refused h rfl rfl rfl ?_ rfl ?_ (reply_polders ..)
  · rw [hq, hd]
  · simp [hlive, firstFail]

/-- Settles O52: each command passes the checks before its own by hypothesis; what is left is its own checks, what it answers
and what it leaves. -/
theorem datumAndCountersComplete : Obligations.DatumAndCountersComplete := by
  intro o tag s
  refine ⟨?config, ?status, ?marks, ?sync, ?step, ?counters, ?streams, ?polders⟩
  case config =>
    intro root port h hm
    refine ⟨?_, ?_, ?_⟩
    · rintro rfl
      exact answers_datumConfig h hm (by decide) (by simp) (by rw [reply_datum]; exact configureDatum_root port s)
    · rintro rfl rfl
      exact answers_datumConfig h hm (by decide) (by simp) (by rw [reply_datum]; exact configureDatum_alone s)
    · rintro rfl hport hlt
      refine answers_datumConfig h hm (by decide) (fun _ _ => hlt) ?_
      have hu : (configureDatum (decide ((0 : BitVec 8) = 1)) port s).datum = _ := configureDatum_upstream hport s
      rw [reply_datum, hu]
      exact ⟨rfl, rfl, rfl, rfl, rfl⟩
  case status =>
    intro h
    refine answers_reply s h rfl rfl rfl rfl rfl ?_ ?_ rfl (reply_datum ..)
    · rfl
    · rfl
  case marks =>
    intro h
    refine answers_reply s h rfl rfl rfl rfl rfl ?_ ?_ rfl (reply_datum ..)
    · rfl
    · rfl
  case sync =>
    intro core q h hq hr hc
    refine answers_reply s h rfl rfl rfl ?_ rfl ?_ ?_ rfl (reply_sca ..)
    · rw [hq, hr, Bool.false_or, Bool.and_eq_false_imp]
      exact fun hpf => hc (of_decide_eq_true hpf)
    · exact (firstFail_none _).2 (by simp [hq])
    · rfl
  case step =>
    intro c x h hlt hx hd hden
    have hid : x.id = c.setWidth 12 := by simpa using List.find?_some hx
    refine answers_reply s h rfl rfl rfl hden rfl ?_ ?_ rfl (reply_obj ..)
    · exact (firstFail_none _).2 (by simp [contextLive_of_find hlt hx hd])
    · simp only [if_pos hlt, hx, hid]
  case counters => exact fun first n => answers_counterRead
  case streams =>
    intro p sid peer dir x h ht hx hden
    refine answers_reply s h rfl rfl rfl hden rfl ?_ ?_ rfl (reply_link ..)
    · exact (firstFail_none _).2 (by simp [ht, hx])
    · simp only [hx]
  case polders =>
    exact fun p q h hq hd =>
      ⟨answers_polderCountersRead h hq hd, answers_polderCountersRead_tearing h hq hd⟩

end Sys2Proof.Machine
end

section
/-! SUPPORT. What the commands on groups and on multicast groups do (R61, R235 to R237, R383), and the statement about them. -/

namespace Sys2Proof.Machine

/-! ### Defining a group (R235 to R237) -/

/-- A change that keeps what a test names is a change of what the test finds. -/
theorem find?_alter {α : Type} {p : α → Bool} {f : α → α} (h : ∀ x, p x = true → p (f x) = true) (l : List α) :
    (alter p f l).find? p = (l.find? p).map f := by
  induction l with
  | nil => rfl
  | cons x t ih =>
    unfold alter at ih ⊢
    by_cases hx : p x = true
    · simp [hx, h x hx]
    · simp [hx, ih]

/-- A group that becomes usable is found as it was but for that. -/
theorem findGroup_groupUsable (p : PolderId) (id : BitVec 16) (s : State) :
    findGroup (groupUsable p id s) p id = (findGroup s p id).map fun g => { g with usable := true } :=
  find?_alter (p := fun g : Group => g.polder = p && g.id = id) (f := fun g => { g with usable := true }) (fun _ h => h)
    s.coll.groups

/-- A group added to those there are, of which none has its key, is found. -/
theorem findGroup_of_append {s t : State} {g : Group} (h : t.coll.groups = s.coll.groups ++ [g])
    (hn : findGroup s g.polder g.id = none) : findGroup t g.polder g.id = some g := by
  unfold findGroup at hn ⊢
  simp [h, hn]

/-- What finding a group reads is the state of collectives. -/
theorem findGroup_congr {s t : State} (h : t.coll = s.coll) (p : PolderId) (id : BitVec 16) :
    findGroup t p id = findGroup s p id := by
  rw [findGroup, findGroup, h]

/-- The group of a descriptor, put in: usable at once, or at its mark (R235, R284). -/
def defineGroup (mark : Datum) (g : Group) (s : State) : State :=
  let t := modColl (fun c => { c with groups := c.groups ++ [g] }) s
  match markUse mark s with
  | .later => enqueueMark mark (.groupDefine g.polder g.id) t
  | _ => groupUsable g.polder g.id (countLate mark t)

theorem defineGroup_later {mark : Datum} {s : State} (h : markUse mark s = .later) (g : Group) :
    defineGroup mark g s = enqueueMark mark (.groupDefine g.polder g.id)
      (modColl (fun c => { c with groups := c.groups ++ [g] }) s) := by
  simp only [defineGroup, h]

theorem defineGroup_now {mark : Datum} {s : State} (h : markUse mark s = .now) (g : Group) :
    defineGroup mark g s = groupUsable g.polder g.id
      (countLate mark (modColl (fun c => { c with groups := c.groups ++ [g] }) s)) := by
  simp only [defineGroup, h]

/-- Putting a group in leaves the sessions alone. -/
theorem defineGroup_spdm (mark : Datum) (g : Group) (s : State) : (defineGroup mark g s).spdm = s.spdm := by
  unfold defineGroup
  dsimp only
  split
  · rfl
  · exact countLate_parts mark _ .spdm rfl

/-- A defined group, new here, is found: usable where its mark has come. -/
theorem findGroup_defineGroup {mark : Datum} {g : Group} {s : State} (hu : g.usable = false)
    (hn : findGroup s g.polder g.id = none) (hm : markUse mark s = .now ∨ markUse mark s = .later) :
    findGroup (defineGroup mark g s) g.polder g.id
      = some { g with usable := decide (markUse mark s = .now) } := by
  have hadd : findGroup (modColl (fun c => { c with groups := c.groups ++ [g] }) s) g.polder g.id = some g :=
    findGroup_of_append rfl hn
  obtain hnow | hlater := hm
  · rw [defineGroup_now hnow, findGroup_groupUsable, findGroup_congr (countLate_parts mark _ .coll rfl), hadd, hnow]
    rfl
  · have hsame : { g with usable := decide (MarkUse.later = .now) } = g := by
      rw [show decide (MarkUse.later = .now) = g.usable from hu.symm]
    rw [defineGroup_later hlater, hlater, hsame]
    exact hadd

/-- A descriptor that meets R236 and R237 passes COLLECTIVE_GROUP_DEFINE's own checks. -/
theorem groupDefine_checks {mark : Datum} {desc : Bytes} {g : Group} {s : State} (ht : groupTreeOk desc g = true)
    (hp : polderStands s g.polder = true) (hn : findGroup s g.polder g.id = none) (hroom : s.coll.groups.length < 1024)
    (hm : markUse mark s = .now ∨ markUse mark s = .later) :
    firstFail
      [(!groupTreeOk desc g || !polderStands s g.polder || (findGroup s g.polder g.id).isSome, .badParam),
       (decide (1024 ≤ s.coll.groups.length), .exhausted),
       (markUse mark s = .refused .busy, .busy), (markUse mark s = .refused .badParam, .badParam)] = none := by
  refine (firstFail_none _).2 ?_
  obtain h | h := hm <;> simp [ht, hp, hn, hroom, h]

/-- COLLECTIVE_GROUP_DEFINE of a descriptor that is admitted puts its group in. -/
theorem answers_collectiveGroupDefine {o : Origin} {tag : BitVec 32} {mark : Datum} {desc : Bytes} {s : State}
    (h : Passes (.collectiveGroupDefine o tag mark desc) s) (hlen : 1088 ≤ desc.length) (hc : groupCountsOk desc = true)
    (hl : desc.length = groupLength (leField desc 4 2) (leField desc 6 2) (leField desc 10 1))
    (hr : groupReservedClear desc (leField desc 4 2) (leField desc 6 2) (leField desc 10 1) = true)
    (ht : groupTreeOk desc (parseGroup desc) = true) (hp : polderStands s (parseGroup desc).polder = true)
    (hn : findGroup s (parseGroup desc).polder (parseGroup desc).id = none) (hroom : s.coll.groups.length < 1024)
    (hm : markUse mark s = .now ∨ markUse mark s = .later) :
    Answers (.collectiveGroupDefine o tag mark desc) s .ok [] fun t =>
      findGroup t (parseGroup desc).polder (parseGroup desc).id
        = some { parseGroup desc with usable := decide (markUse mark s = .now) } := by
  refine answers_reply (defineGroup mark (parseGroup desc) s) h rfl rfl rfl rfl ?_ ?_ ?_ (defineGroup_spdm ..) ?_
  · simp only [hc, hr, decide_eq_true hlen, decide_eq_true hl]
    rfl
  · exact groupDefine_checks ht hp hn hroom hm
  · rfl
  · rw [findGroup_congr (reply_coll ..)]
    exact findGroup_defineGroup rfl hn hm

/-! ### The commands that have one check of their own -/

/-- COLLECTIVE_GROUP_DESTROY of a group that is here is pending, and ends once the group is in no use. -/
theorem exec_collectiveGroupDestroy {o : Origin} {tag : BitVec 32} {p : PolderId} {id : BitVec 16} {g : Group} {s : State}
    (h : Passes (.collectiveGroupDestroy o tag p id) s) (hg : findGroup s p id = some g) :
    exec (.collectiveGroupDestroy o tag p id) s = .next (settleGroups (modGroup p id
      (fun g => { g with destroy := g.destroy ++ [(o, tag)] }) (pend o tag 0x0702 s))) := by
  refine exec_effect h rfl (runCmd_eq rfl rfl) rfl rfl ?_
  exact (firstFail_none _).2 (by simp [hg])

/-- GROUP_QUERY of a group that no destruction awaits reads the group. -/
theorem answers_groupQuery {o : Origin} {tag : BitVec 32} {p : PolderId} {id : BitVec 16} {g : Group} {s : State}
    (h : Passes (.groupQuery o tag p id) s) (hm : mayNamePolder o p s = true) (ht : isTearing s p = false)
    (hg : findGroup s p id = some g) (hd : g.destroy = []) :
    Answers (.groupQuery o tag p id) s .ok (leBytes 8 g.digest.toNat ++ leBytes 2 g.ranks.length
      ++ leBytes 2 g.nodes.length ++ ownPlace (ownRank g s) ++ ownPlace (ownNode g s)) fun t => t.coll = s.coll := by
  refine answers_reply s h rfl rfl rfl ?_ rfl ?_ ?_ rfl (reply_coll ..)
  · rw [hm]
    rfl
  · exact (firstFail_none _).2 (by simp [ht, hg, hd])
  · simp only [hg]

/-! ### Multicast groups (R61) -/

/-- A join of a group, with its members, in the place of the one there is (R61). -/
def joinGroup (p : PolderId) (group : InstId) (members : BitVec 8192) (s : State) : State :=
  { s with link := { s.link with
      joins := upsert (fun j => j.group = group) { group := group, polder := p, mask := members } s.link.joins } }

/-- MCAST_GROUP_JOIN of a group that no other polder has joined records its members. -/
theorem answers_mcastGroupJoin {o : Origin} {tag : BitVec 32} {p : PolderId} {group : InstId} {members : BitVec 8192}
    {s : State} (h : Passes (.mcastGroupJoin o tag p group members) s)
    (hj : ∀ j ∈ s.link.joins, j.group = group → j.polder = p) (hm : members.getLsbD s.boot.instanceId.toNat = true)
    (hp : polderStands s p = true) (hroom : s.link.joins.length < 1024) :
    Answers (.mcastGroupJoin o tag p group members) s .ok [] fun t =>
      (t.link.joins.find? fun j => j.group = group) = some { group := group, polder := p, mask := members } := by
  refine answers_reply (joinGroup p group members s) h rfl rfl rfl rfl rfl ?_ ?_ rfl ?_
  · exact (firstFail_none _).2 (by simpa [hm, hp, hroom] using hj)
  · rfl
  · rw [reply_link]
    exact find?_upsert (by simp) _

/-- Leaving a group removes its join, and the receive streams that the polder has of it. -/
theorem leaveGroup_gone (p : PolderId) (group : InstId) (s : State) :
    (∀ j ∈ (leaveGroup p group s).link.joins, j.group ≠ group)
      ∧ ∀ r ∈ (leaveGroup p group s).link.rx, ¬(r.polder = p ∧ r.group = some group) := by
  simp only [leaveGroup, List.mem_filter]
  exact ⟨fun j hj => of_decide_eq_true hj.2, fun r hr ⟨hp, hg⟩ => by simp [hp, hg] at hr⟩

/-- MCAST_GROUP_LEAVE of a group that the polder has joined leaves it. -/
theorem answers_mcastGroupLeave {o : Origin} {tag : BitVec 32} {p : PolderId} {group : InstId} {s : State}
    (h : Passes (.mcastGroupLeave o tag p group) s) (ht : isTearing s p = false) (hj : joined s group p = true) :
    Answers (.mcastGroupLeave o tag p group) s .ok [] fun t => (∀ j ∈ t.link.joins, j.group ≠ group)
      ∧ ∀ r ∈ t.link.rx, ¬(r.polder = p ∧ r.group = some group) := by
  refine answers_reply (leaveGroup p group s) h rfl rfl rfl rfl rfl ?_ ?_ rfl ?_
  · exact (firstFail_none _).2 (by simp [ht, hj])
  · rfl
  · rw [reply_link]
    exact leaveGroup_gone p group s

/-- Settles O50: each command passes the checks before its own by hypothesis; what is left is its own checks, and what its
effect leaves. -/
theorem groupsComplete : Obligations.GroupsComplete := by
  intro o tag s
  exact ⟨fun mark desc => answers_collectiveGroupDefine, fun p id g => exec_collectiveGroupDestroy,
    fun p id g => answers_groupQuery, fun p group members => answers_mcastGroupJoin,
    fun p group => answers_mcastGroupLeave⟩

end Sys2Proof.Machine
end

section
/-! SUPPORT. What a port makes of a packet and of a link notice, and a slice of a stream entry that is fetched (R42, R57, R71,
R75, R155), and the statement about them. -/

namespace Sys2Proof.Machine

/-! ### Work that is taken now (R42, R75) -/

/-- Work that a domain takes now is served. -/
theorem enter_of_accepts {d : DomainId} {s : State} (h : accepts s d = true) (e : CulvertEntry) (serve : State → State) :
    enter d e serve s = serve (markWork d s) := if_pos h

theorem withDomain_of_serves {d : DomainId} {s : State} (h : serves s d = true) (serve : State → State) :
    withDomain d serve s = serve (markWork d s) := if_pos h

/-- A packet at an open port goes through the receive checks at once. -/
theorem exec_protectedPacketReceive {port : BitVec 8} {s : State} (h : portOpen port s = true) (b : Bytes) :
    exec (.protectedPacketReceive port b) s = .next (receivePacket port b (markWork ⟨.lceRx, port⟩ s)) := by
  simp only [portOpen, Bool.and_eq_true, decide_eq_true_eq, Bool.not_eq_true'] at h
  obtain ⟨⟨⟨⟨hlink, hport⟩, haccepts⟩, hroom⟩, hfirst⟩ := h
  have hnow : (rxFull (markWork ⟨.lceRx, port⟩ s) port
      || (markWork ⟨.lceRx, port⟩ s).link.rxPort.any fun x => x.1 = port) = false :=
    Bool.or_eq_false_iff.2 ⟨hroom, hfirst⟩
  simp only [exec, execProtectedPacketReceive, hlink, decide_eq_true hport, Bool.and_self, if_true,
    enter_of_accepts haccepts, arrivePacket, hnow, Bool.false_eq_true, if_false]

/-! ### Checks 1 to 4 of R71 -/

/-- A packet is this block's own, come back from a group (R61). -/
def comesBack (h : Header) (s : State) : Bool := h.mc && h.src = s.boot.instanceId && h.version = 1

/-- A packet passes checks 1 to 4 of R71 for a polder. -/
structure PassesHeader (b : Bytes) (q : Polder) (s : State) : Prop where
  foreign : comesBack (parseHeader b) s = false
  outer : passesCheck1 b (parseHeader b) s = true
  polder : findPolder s (parseHeader b).polder = some q
  kind : (parseHeader b).kind ≠ 3
  reserved : (parseHeader b).reserved7 = 0
  sid : sidFits (parseHeader b) = true

/-- The marks of work are no part of that. -/
theorem PassesHeader.markWork {b : Bytes} {q : Polder} {s : State} (h : PassesHeader b q s) (d : DomainId) :
    PassesHeader b q (markWork d s) := { h with }

/-- A packet waits at a slice for its stream's entry, and the miss is counted (R75). -/
def waitForEntry (port : BitVec 8) (b : Bytes) (s : State) : State :=
  count (sliceCounter s true port + 3)
    { s with link := { s.link with rxWait := s.link.rxWait ++ [(rxRef (parseHeader b), port, b)] } }

/-- A packet that fails check 1 is counted at its port. -/
theorem receivePacket_malformed {b : Bytes} {s : State} (hf : comesBack (parseHeader b) s = false)
    (h : passesCheck1 b (parseHeader b) s = false) (port : BitVec 8) : receivePacket port b s = countPort true port s := by
  unfold comesBack at hf
  simp only [receivePacket, hf, h]
  rfl

/-- A packet of no polder is counted at its port, and answered with a notice. -/
theorem receivePacket_unknown {b : Bytes} {s : State} (hf : comesBack (parseHeader b) s = false)
    (h : passesCheck1 b (parseHeader b) s = true) (hq : findPolder s (parseHeader b).polder = none) (port : BitVec 8) :
    receivePacket port b s = sendNotice (parseHeader b) (countPort false port s) := by
  unfold comesBack at hf
  simp only [receivePacket, hf, h, hq]
  rfl

/-- Checks 1 to 4 passed, what becomes of a packet turns on its stream's entry. -/
theorem receivePacket_of_header {b : Bytes} {q : Polder} {s : State} (h : PassesHeader b q s) (port : BitVec 8) :
    receivePacket port b s = if cachedIn s (rxRef (parseHeader b)) = some port then receiveCached port b false s
      else waitForEntry port b s := by
  obtain ⟨hf, ho, hq, hk, hr, hs⟩ := h
  have hfour : (decide ((parseHeader b).kind = 3) || decide ((parseHeader b).reserved7 ≠ 0)
      || !sidFits (parseHeader b)) = false := by
    rw [decide_eq_false hk, hs]
    simp [hr]
  unfold comesBack at hf
  simp only [receivePacket, hf, ho, hq, hfour]
  rfl

theorem receivePacket_cached {b : Bytes} {q : Polder} {port : BitVec 8} {s : State} (h : PassesHeader b q s)
    (hc : cachedIn s (rxRef (parseHeader b)) = some port) : receivePacket port b s = receiveCached port b false s :=
  (receivePacket_of_header h port).trans (if_pos hc)

theorem receivePacket_missing {b : Bytes} {q : Polder} {port : BitVec 8} {s : State} (h : PassesHeader b q s)
    (hc : cachedIn s (rxRef (parseHeader b)) ≠ some port) : receivePacket port b s = waitForEntry port b s :=
  (receivePacket_of_header h port).trans (if_neg hc)

/-! ### Checks 5 to 12 of R71, and the release -/

theorem windowFree_raiseEpoch (r : RxStream) (epoch : BitVec 32) (v : Nat) :
    windowFree (raiseEpoch r epoch) v = windowFree r v := by
  unfold raiseEpoch
  split
  · rfl
  · rfl

/-- The state once a packet's number has been accepted: it is in its stream's window, and the subkey of the next epoch is
asked for where the stream lacks it (R67, R68). -/
def numberAccepted (h : Header) (r : RxStream) (s : State) : State :=
  let t := setRx (windowSet r (packetSeq h)) s
  if r.nextKey.isNone && r.h ≠ BitVec.allOnes 32 then (askNext (rxRef h) h.polder (r.h + 1) t).2 else t

theorem askNext_parts (r : StreamRef) (p : PolderId) (epoch : BitVec 32) (s : State) :
    s.agree [.out, .pins, .sb, .polders, .cad, .keys, .stack, .obj, .fns, .tracer, .power, .free]
      (askNext r p epoch s).2 :=
  askNext_frame r p epoch s (agree_refl _ s) rfl

@[simp] theorem askNext_boot (r : StreamRef) (p : PolderId) (epoch : BitVec 32) (s : State) :
    (askNext r p epoch s).2.boot = s.boot := askNext_parts r p epoch s .boot rfl

@[simp] theorem askNext_link (r : StreamRef) (p : PolderId) (epoch : BitVec 32) (s : State) :
    (askNext r p epoch s).2.link = s.link := askNext_parts r p epoch s .link rfl

@[simp] theorem setRx_boot (r : RxStream) (s : State) : (setRx r s).boot = s.boot := rfl

@[simp] theorem setRx_inbox (r : RxStream) (s : State) : (setRx r s).link.inbox = s.link.inbox := rfl

@[simp] theorem numberAccepted_boot (h : Header) (r : RxStream) (s : State) : (numberAccepted h r s).boot = s.boot := by
  unfold numberAccepted
  dsimp only
  split
  · simp
  · rfl

@[simp] theorem numberAccepted_inbox (h : Header) (r : RxStream) (s : State) :
    (numberAccepted h r s).link.inbox = s.link.inbox := by
  unfold numberAccepted
  dsimp only
  split
  · simp
  · rfl

/-- The plaintext of a packet under a subkey (R56). -/
def packetPlain (b : Bytes) (h : Header) (key : Key256) : Bytes :=
  gcmCrypt key (packetIv h.src h.sid h.epoch h.counter) (slice b 32 (32 + h.length.toNat))

/-- A packet whose tag has verified, and that passes checks 9 to 12 of R71, is released with what its plaintext holds. -/
theorem afterTag_released {b : Bytes} {h : Header} {q : Polder} {r : RxStream} {key : Key256} {s : State}
    (hw : windowFree r (packetSeq h) = true) (hsrc : isMember q h.src = true)
    (hown : isMember q s.boot.instanceId = true) (ht : q.teardown = none) (hz : q.freeze = .none)
    (hclean : innerClean (packetPlain b h key) = true) (hcls : (parseInner (packetPlain b h key)).classLabel = h.cls)
    (hop : opcodeConsistent h.kind (parseInner (packetPlain b h key)) h.length.toNat = true) (port : BitVec 8) :
    afterTag port b h q r key s = release port h (parseInner (packetPlain b h key)) ((packetPlain b h key).drop 32)
      (numberAccepted h (raiseEpoch r h.epoch) s) := by
  have hfree : windowFree (raiseEpoch r h.epoch) (packetSeq h) = true := (windowFree_raiseEpoch ..).trans hw
  have hmember : (!isMember q h.src || !isMember q (numberAccepted h (raiseEpoch r h.epoch) s).boot.instanceId) = false := by
    simp [hsrc, hown]
  have hlive : (q.teardown.isSome || decide (q.freeze ≠ .none)) = false := by simp [ht, hz]
  have hinner : (innerClean (packetPlain b h key) && decide ((parseInner (packetPlain b h key)).classLabel = h.cls)
      && opcodeConsistent h.kind (parseInner (packetPlain b h key)) h.length.toNat) = true := by
    simp [hclean, hcls, hop]
  unfold numberAccepted at hmember ⊢
  unfold packetPlain at hinner ⊢
  simp only [afterTag, hfree, hmember, hlive, hinner]
  rfl

/-- What a packet is in the inbox. -/
def releasedPacket (h : Header) (inner : Inner) (payload : Bytes) : Released :=
  { polder := h.polder, src := h.src, group := headerGroup h, sid := h.sid, epoch := h.epoch, counter := h.counter
    kind := h.kind, cls := h.cls, retry := h.retry, inner := inner, payload := payload }

/-- A release puts the packet into the inbox, behind those that are there. -/
theorem release_inbox (port : BitVec 8) (h : Header) (inner : Inner) (payload : Bytes) (s : State) :
    (release port h inner payload s).link.inbox = s.link.inbox ++ [releasedPacket h inner payload] := by
  unfold release
  dsimp only
  split
  · split
    · simp [releasedPacket]
    · simp [releasedPacket]
  · split
    · simp [releasedPacket]
    · simp [releasedPacket]

/-- A packet of a stream that exists, whose subkey is held and whose tag verifies, goes on to check 9. -/
theorem receiveExisting_verified {b : Bytes} {h : Header} {r : RxStream} {key : Key256} {s : State}
    (he : epochHeld r h.epoch = true) (hw : windowFree r (packetSeq h) = true) (hk : rxKey r h.epoch = some key)
    (ht : tagVerifies b h key = true) (port : BitVec 8) (q : Polder) :
    receiveExisting port b h q r s = afterTag port b h q r key s := by
  simp [receiveExisting, he, hw, hk, ht]

/-- A packet at a slice that holds its stream's entry goes on to check 5. -/
theorem receiveCached_existing {b : Bytes} {q : Polder} {r : RxStream} {s : State}
    (hq : findPolder s (parseHeader b).polder = some q)
    (hr : findRx s (parseHeader b).polder (parseHeader b).src (parseHeader b).sid (headerGroup (parseHeader b)) = some r)
    (port : BitVec 8) (derived : Bool) :
    receiveCached port b derived s = receiveExisting port b (parseHeader b) q r s := by
  simp only [receiveCached, hq, hr]

/-! ### Link notices (R57, R155) -/

/-- A notice at a port that takes work reaches its slice at once. -/
theorem exec_linkNoticeReceive {port : BitVec 8} {s : State} (hl : linkServes s = true)
    (hp : port.toNat < portCount s.boot.role) (ha : accepts s ⟨.lceRx, port⟩ = true) (b : Bytes) :
    exec (.linkNoticeReceive port b) s = .next (resume (arriveNotice port b (markWork ⟨.lceRx, port⟩ s))) := by
  simp only [exec, execLinkNoticeReceive, hl, decide_eq_true hp, Bool.and_self, if_true, enter_of_accepts ha]

/-- A notice that matches an operation ends it for the notice's sender. -/
theorem arriveNotice_matched {b : Bytes} {o : OutOp} {s : State} (hl : linkServes s = true)
    (hp : noticePasses b (parseHeader b) s = true) (ho : noticedOp s (parseHeader b) = some o) (port : BitVec 8) :
    arriveNotice port b s = fauSettle (failTo o (parseHeader b).src .polderGone s) := by
  simp [arriveNotice, hl, hp, ho]

theorem arriveNotice_unmatched {b : Bytes} {s : State} (hl : linkServes s = true)
    (hp : noticePasses b (parseHeader b) s = true) (ho : noticedOp s (parseHeader b) = none) (port : BitVec 8) :
    arriveNotice port b s = count 0x00F s := by
  simp [arriveNotice, hl, hp, ho]

theorem arriveNotice_malformed {b : Bytes} {s : State} (hl : linkServes s = true)
    (hp : noticePasses b (parseHeader b) s = false) (port : BitVec 8) :
    arriveNotice port b s = countPort true port s := by
  simp [arriveNotice, hl, hp]

/-! ### Stream entries (R75) -/

/-- A fetched entry enters its slice, and what waits goes on. -/
theorem exec_streamEntryFetch {slice : BitVec 8} {r : StreamRef} {s : State} (hr : running s = true)
    (hp : slice.toNat < portCount s.boot.role) (ht : streamThere s slice r = true)
    (hs : serves s (streamDomain slice r) = true) :
    exec (.streamEntryFetch slice r) s
      = .next (resume (cacheEntry slice r (markWork (streamDomain slice r) s))) := by
  have hno : (!running s || decide (portCount s.boot.role ≤ slice.toNat) || !streamThere s slice r) = false := by
    simp [hr, hp, ht]
  simp only [exec, execStreamEntryFetch, hno, Bool.false_eq_true, if_false, withDomain_of_serves hs]

/-- The slice that an entry has entered holds it. -/
theorem cachedIn_cacheEntry (slice : BitVec 8) (r : StreamRef) (s : State) :
    cachedIn (cacheEntry slice r s) r = some slice :=
  lookup_assocSet_same ..

/-- Entries move in the slices alone: the link's streams and packets stay. -/
theorem cacheEntry_link (slice : BitVec 8) (r : StreamRef) (s : State) :
    (cacheEntry slice r s).link = { s.link with cached := (cacheEntry slice r s).link.cached } := by
  unfold cacheEntry
  dsimp only
  generalize List.filter _ s.link.cached = mine
  split
  · rfl
  · split
    · rfl
    · rfl

/-- Settles O15: a packet at an open port by the first check of R71 that it fails, or by its release; a notice by what it
matches; an entry by what its slice holds then. -/
theorem packetReceptionCompletes : Obligations.PacketReceptionCompletes := by
  refine ⟨?checks, ?release, ?notice, ?entry⟩
  case checks =>
    intro port b s hopen hforeign u
    have hf : comesBack (parseHeader b) s = false := by simpa [comesBack] using hforeign
    have he := exec_protectedPacketReceive hopen b
    refine ⟨fun h => ?_, fun h hq => ?_, fun q h hq hk h7 hs hc => ?_⟩
    · rw [he, receivePacket_malformed (s := markWork _ s) hf h]
    · rw [he, receivePacket_unknown (s := markWork _ s) hf h hq]
    · have hh : PassesHeader b q s := ⟨hf, h, hq, hk, h7, hs⟩
      rw [receivePacket_missing (hh.markWork _) hc] at he
      exact ⟨_, he, rfl, rfl⟩
  case release =>
    intro port b q r key s h plain hopen hforeign hc1 hq hk h7 hs hc hr he hw hkey htag hsrc hown ht hz hclean hcls hop
    have hf : comesBack h s = false := by
      simp only [comesBack, Bool.and_eq_false_imp]
      simpa using fun hm hsrc => absurd ⟨hm, hsrc⟩ hforeign
    have hh : PassesHeader b q s := ⟨hf, hc1, hq, hk, h7, hs⟩
    have hx := exec_protectedPacketReceive hopen b
    rw [receivePacket_cached (hh.markWork _) hc, receiveCached_existing (s := markWork _ s) hq hr,
      receiveExisting_verified he hw hkey htag, afterTag_released (s := markWork _ s) hw hsrc hown ht hz hclean hcls hop]
      at hx
    exact ⟨_, hx, (release_inbox ..).trans (congrArg (· ++ _) (numberAccepted_inbox ..))⟩
  case notice =>
    intro port b s hl hp ha u
    have hlu : linkServes u = true := hl
    rw [exec_linkNoticeReceive hl hp ha]
    refine ⟨fun o h ho => ?_, fun h ho => ?_, fun h => ?_⟩
    · rw [arriveNotice_matched hlu h ho]
    · rw [arriveNotice_unmatched hlu h ho]
    · rw [arriveNotice_malformed hlu h]
  case entry =>
    intro slice r s hrun hp ht hs u
    have hlink : u.link = { s.link with cached := u.link.cached } := cacheEntry_link slice r _
    exact ⟨exec_streamEntryFetch hrun hp ht hs, cachedIn_cacheEntry slice r _, by rw [hlink], by rw [hlink], by rw [hlink]⟩

end Sys2Proof.Machine
end

section
/-! SUPPORT. What the commands for memory objects and plots do (R82, R97 to R101, R359, R371, R372, R383, R539), and the
statement about them. -/

namespace Sys2Proof.Machine

/-! ### Memory objects (R371, R372) -/

/-- A free number is below the bound of those that there are. -/
theorem lt_of_leastBelow {bound n : Nat} {p : Nat → Bool} (h : leastBelow bound p = some n) : n < bound :=
  List.mem_range.1 (List.mem_of_find?_eq_some h)

/-- Two changes of what a test names are one, where the first keeps what it names. -/
theorem alter_alter {α : Type} {p : α → Bool} {f : α → α} (h : ∀ x, p x = true → p (f x) = true) (g : α → α)
    (l : List α) : alter p g (alter p f l) = alter p (fun x => g (f x)) l := by
  unfold alter
  rw [List.map_map]
  refine List.map_congr_left fun x _ => ?_
  cases hx : p x with
  | true => simp [hx, h x hx]
  | false => simp [hx]

/-- The field that a memory object is found by holds its number. -/
theorem id_of_memobjOf {mo : BitVec 16} {m : MemObj} {s : State} (h : memobjOf mo s = some m) :
    mo.setWidth 13 = m.id := by
  unfold memobjOf findMemobj at h
  split at h
  · have hid := List.find?_some h
    exact (of_decide_eq_true hid).symm
  · cases h

/-- A memory object that is not doomed, of a polder not in teardown, takes plots. -/
theorem memobjLive_of_find {mo : BitVec 16} {m : MemObj} {q : Polder} {s : State} (hm : memobjOf mo s = some m)
    (hq : findPolder s m.polder = some q) (hd : m.doomed = false) (ht : q.teardown = none) :
    memobjLive mo s = true := by
  simp [memobjLive, polderLive, hm, hq, hd, ht]

theorem memobjPolder_of_find {mo : BitVec 16} {m : MemObj} {q : Polder} {s : State} (hm : memobjOf mo s = some m)
    (hq : findPolder s m.polder = some q) : memobjPolder mo s = some q := by
  simp [memobjPolder, hm, hq]

/-- A memory object as MEMOBJ_CREATE makes it, with no plot and no region. -/
def newMemobj (o : Origin) (p : PolderId) (n : Nat) : MemObj :=
  { id := BitVec.ofNat 13 n, doomed := false, fn := ownerFn o, polder := p, plots := [], regions := [], waiters := [] }

/-- MEMOBJ_CREATE for a polder not in teardown makes the object under the lowest free number. -/
theorem answers_memobjCreate {o : Origin} {tag : BitVec 32} {p : PolderId} {q : Polder} {n : Nat} {s : State}
    (h : Passes (.memobjCreate o tag p) s) (hq : findPolder s p = some q) (ht : q.teardown = none)
    (hm : mayNamePolder o p s = true)
    (hn : (leastBelow 8192 fun n => (findMemobj s (BitVec.ofNat 13 n)).isNone) = some n) :
    Answers (.memobjCreate o tag p) s .ok (leBytes 2 n ++ zeros 2) fun t =>
      t.obj.memobjs = s.obj.memobjs ++ [newMemobj o p n] := by
  have hid : (BitVec.ofNat 13 n).toNat = n := Nat.mod_eq_of_lt (lt_of_leastBelow hn)
  refine answers_reply (modObj (fun x => { x with memobjs := x.memobjs ++ [newMemobj o p n] }) s) h rfl rfl rfl
    (by simp [hm]) rfl ?_ ?_ rfl ?_
  · exact (firstFail_none _).2 (by simp [hq, ht, hn])
  · simp only [hn, Option.getD_some, hid]
    rfl
  · rw [reply_obj]
    rfl

/-- A memory object as dooming leaves it: the descriptors that stand in the rings of its polder's queues are noted, once
(R372). -/
def doomedMemobj (s : State) (x : MemObj) : MemObj :=
  if x.doomed then x else { x with
    doomed := true
    ahead := (s.obj.queues.filter fun q => unfetched q ≠ 0 && contextPolder s q.context = x.polder).map fun q =>
      (q.id, unfetched q) }

theorem doomMemobj_eq (m : BitVec 13) (s : State) : doomMemobj m s = modMemobj m (doomedMemobj s) s := by
  unfold doomMemobj doomedMemobj
  simp only [List.filter_filter, Bool.and_comm]

@[simp] theorem doomedMemobj_id (s : State) (x : MemObj) : (doomedMemobj s x).id = x.id := by
  unfold doomedMemobj
  split <;> rfl

@[simp] theorem doomedMemobj_waiters (s : State) (x : MemObj) : (doomedMemobj s x).waiters = x.waiters := by
  unfold doomedMemobj
  split <;> rfl

/-- What dooming leaves of an object depends on the host objects alone. -/
theorem doomedMemobj_congr {s t : State} (h : t.obj = s.obj) : doomedMemobj t = doomedMemobj s := by
  unfold doomedMemobj contextPolder findContext
  rw [h]

/-- MEMOBJ_FREE is pending, and dooms the object, which then waits for its last reference. -/
theorem answers_memobjFree {o : Origin} {tag : BitVec 32} {mo : BitVec 16} {m : MemObj} {s : State}
    (h : Passes (.memobjFree o tag mo) s) (hm : memobjOf mo s = some m) (hd : memobjDenied o mo true s = false) :
    Answers (.memobjFree o tag mo) s .pending [] fun t => t.obj.memobjs
      = alter (fun x => x.id = m.id) (fun x => { doomedMemobj s x with waiters := x.waiters ++ [(o, tag)] })
        s.obj.memobjs := by
  refine answers_effect h rfl (runCmd_eq rfl rfl) hd rfl ?_ ?_ ?_
  · exact (firstFail_none _).2 (by simp [hm])
  · show _ ∈ (pend o tag 0x0305 s).out
    rw [pend_out tag 0x0305 (h.canSeal rfl)]
    exact List.mem_append_right _ (List.mem_singleton_self _)
  · rw [id_of_memobjOf hm, doomMemobj_eq, doomedMemobj_congr (pend_obj ..)]
    simp only [modMemobj, pend_obj]
    rw [alter_alter (by simp)]
    simp only [doomedMemobj_waiters]

/-! ### Plots (R97 to R101) -/

/-- Bit 0 of an entry made of fields is set: it is listed. -/
theorem mkPlot_ne_zero (slot : BitVec 12) (base : BitVec 24) (writable filling : Bool) :
    mkPlot slot base writable filling ≠ 0 := by
  intro h
  have hn := congrArg BitVec.toNat h
  rw [mkPlot, BitVec.toNat_ofNat, BitVec.ofNat_eq_ofNat, BitVec.toNat_zero] at hn
  split at hn <;> split at hn <;> omega

/-- A plot's entry is what was written to it. -/
theorem plotEntry_setPlot {plot : BitVec 16} {e : BitVec 64} (h : e ≠ 0) (s : State) :
    plotEntry (setPlot plot e s) plot = e := by
  rw [plotEntry, setPlot, if_neg h]
  exact assocGet_assocSet_same ..

/-- A plot mapped without a fill has its entry, and no fill begins. -/
theorem assignPlot_unfilled (m : MemObj) (q : Polder) (plot : BitVec 16) (base : BitVec 24) (w : Bool)
    (cls : BitVec 4) (s : State) :
    plotEntry (assignPlot m q plot base w false cls s) plot = mkPlot q.slot base w false
      ∧ (assignPlot m q plot base w false cls s).stack.fills = s.stack.fills :=
  ⟨plotEntry_setPlot (mkPlot_ne_zero q.slot base w false) s, rfl⟩

/-- PLOT_ASSIGN of a free plot, at a base where the polder has none, maps it and lets its fill ask for the key. -/
theorem exec_plotAssign {o : Origin} {tag : BitVec 32} {mo plot : BitVec 16} {base : BitVec 24} {w z : Bool}
    {cls : BitVec 4} {m : MemObj} {q : Polder} {s : State} (h : Passes (.plotAssign o tag mo plot base w z cls) s)
    (hm : memobjOf mo s = some m) (hq : findPolder s m.polder = some q) (hd : memobjDenied o mo false s = false)
    (hlive : memobjLive mo s = true) (hv : plotValid (plotEntry s plot) = false)
    (hr : plotReserved (plotEntry s plot) = false) (hp : plot.toNat < s.chip.plots)
    (hb : baseTaken s q.slot base = false) (hroom : m.plots.length < 4096) :
    exec (.plotAssign o tag mo plot base w z cls) s = .next (pumpFills q.id (reply o tag 0x0301 .ok []
      (assignPlot m q plot base w (z || q.confidential) cls s))) := by
  have hpol := memobjPolder_of_find hm hq
  have he := exec_effect h rfl (runCmd_eq rfl rfl) hd rfl
    ((firstFail_none _).2 (by simp [hlive, hv, hr, hp, hpol, hb, hm, hroom]))
  simpa only [hm, hpol] using he

/-- PLOT_RELEASE of a mapped plot is pending, and marks the plot for release. -/
theorem exec_plotRelease {o : Origin} {tag : BitVec 32} {plot : BitVec 16} {s : State}
    (h : Passes (.plotRelease o tag plot) s) (hv : plotValid (plotEntry s plot) = true)
    (hr : plotReserved (plotEntry s plot) = false) (hd : releaseDenied o plot s = false) :
    exec (.plotRelease o tag plot) s = .next (resume (startRelease plot [(o, tag)] (pend o tag 0x0302 s))) := by
  have he := exec_effect h rfl (runCmd_eq rfl rfl) hd rfl ((firstFail_none _).2 (by simp [hv, hr]))
  exact he

/-- PLOT_QUERY reads the plot's entry and its memory object. -/
theorem answers_plotQuery {o : Origin} {tag : BitVec 32} {plot : BitVec 16} {s : State}
    (h : Passes (.plotQuery o tag plot) s) (hp : plot.toNat < s.chip.plots)
    (hd : readDenied o (plotPolder s plot) s = false) :
    Answers (.plotQuery o tag plot) s .ok
      (leBytes 8 (plotEntry s plot).toNat ++ leBytes 2 (match plotMemobj s plot with | some m => m.id.toNat | none => 0)
        ++ zeros 6) fun t => t.stack = s.stack := by
  refine answers_reply s h rfl rfl rfl hd rfl ?_ rfl rfl (reply_stack ..)
  exact (firstFail_none _).2 (by simp [hp])

/-- Settles O47: each command passes the checks before its own by hypothesis; what is left is its own checks, and what its
effect leaves. -/
theorem plotsComplete : Obligations.PlotsComplete := by
  intro o tag s
  refine ⟨?create, ?free, ?assign, fun _ => exec_plotRelease, fun _ => answers_plotQuery⟩
  case create =>
    intro p q n h hq ht hm hn
    obtain ⟨ci, o', tag', hw, t, he, hout, ht'⟩ := answers_memobjCreate h hq ht hm hn
    exact ⟨ci, o', tag', hw, t, he, hout, newMemobj o p n, ht', rfl, rfl, rfl, rfl, rfl, rfl⟩
  case free => exact fun mo m => answers_memobjFree
  case assign =>
    intro mo plot base w z cls m q h hm hq hd hdoomed ht hv hr hp hb hroom
    refine ⟨exec_plotAssign h hm hq hd (memobjLive_of_find hm hq hdoomed ht) hv hr hp hb hroom, ?_⟩
    intro hz hc
    rw [hz, hc]
    exact ⟨_, rfl, assignPlot_unfilled ..⟩

end Sys2Proof.Machine
end

section
/-! SUPPORT. Which commands stop: those that name a device the tray does not have (R105, R106), and the statement about
them. -/

namespace Sys2Proof.Machine

/-! ### Commands that name a device of the tray -/

/-- Whether a command reports on a device of the tray by its number (R127, R521). -/
def namesDevice : Instr → Bool
  | .deviceFailed _ | .devicePresent _ | .deviceReadReturn (.tray _ _) _ _ => true
  | _ => false

/-- A command that names no device of the tray answers a next state, in every state. -/
theorem exec_next_of_not_namesDevice {c : Instr} (h : namesDevice c = false) (s : State) :
    ∃ t, exec c s = .next t := by
  cases c
  case deviceFailed => cases h
  case devicePresent => cases h
  case deviceReadReturn read data u =>
    cases read with
    | tray d offset => cases h
    | stack index => exact ⟨_, rfl⟩
  all_goals exact ⟨_, rfl⟩

theorem exec_deviceFailed_absent {d : Nat} (h : 74 ≤ d) (s : State) :
    exec (.deviceFailed d) s = .fault .noSuchDevice :=
  if_pos h

theorem exec_deviceFailed_there {d : Nat} (h : d < 74) (s : State) :
    exec (.deviceFailed d) s = .next (if hasTray s then deviceDead d s else s) :=
  if_neg (Nat.not_le.2 h)

theorem exec_devicePresent_absent {d : Nat} (h : 74 ≤ d) (s : State) :
    exec (.devicePresent d) s = .fault .noSuchDevice :=
  if_pos h

/-- A device that was dead, and is present again, is a spare; of its errors and unreadable rows nothing is
held (R131). -/
def rejoined (d : Nat) (s : State) : State :=
  { s with tray := { s.tray with
      dead := s.tray.dead.filter (· ≠ d)
      spares := s.tray.spares ++ [d]
      errors := s.tray.errors.filter fun x => x.1 ≠ d
      badRows := s.tray.badRows.filter fun x => x.1 ≠ d } }

theorem exec_devicePresent_there {d : Nat} (h : d < 74) (s : State) :
    exec (.devicePresent d) s = .next (if hasTray s && s.tray.dead.contains d then rejoined d s else s) :=
  if_neg (Nat.not_le.2 h)

/-- A read return of a device, or from an offset on one, that the tray does not have. -/
theorem exec_deviceReadReturn_absent {d offset : Nat} {data : Bytes} (h : 74 ≤ d ∨ deviceSize < offset + data.length)
    (u : Bool) (s : State) : exec (.deviceReadReturn (.tray d offset) data u) s = .fault .noSuchDevice :=
  if_pos (by simpa using h)

theorem exec_deviceReadReturn_there {d offset : Nat} {data : Bytes} (hd : d < 74)
    (ho : offset + data.length ≤ deviceSize) (u : Bool) (s : State) :
    exec (.deviceReadReturn (.tray d offset) data u) s = .next (trayReadReturn d offset data u s) :=
  if_neg (by simpa using ⟨hd, ho⟩)

/-- A command that names a device either stops, and is ill-formed, or answers a next state. -/
theorem exec_of_namesDevice {c : Instr} (h : namesDevice c = true) (s : State) :
    (exec c s = .fault .noSuchDevice ∧ c.wf = false) ∨ ∃ t, exec c s = .next t := by
  cases c
  case deviceFailed d =>
    rcases Nat.lt_or_ge d 74 with hd | hd
    · exact .inr ⟨_, exec_deviceFailed_there hd s⟩
    · exact .inl ⟨exec_deviceFailed_absent hd s, decide_eq_false (Nat.not_lt.2 hd)⟩
  case devicePresent d =>
    rcases Nat.lt_or_ge d 74 with hd | hd
    · exact .inr ⟨_, exec_devicePresent_there hd s⟩
    · exact .inl ⟨exec_devicePresent_absent hd s, decide_eq_false (Nat.not_lt.2 hd)⟩
  case deviceReadReturn read data u =>
    cases read with
    | stack index => cases h
    | tray d offset =>
      by_cases ha : 74 ≤ d ∨ deviceSize < offset + data.length
      · refine .inl ⟨exec_deviceReadReturn_absent ha u s, ?_⟩
        unfold deviceSize at ha
        simp only [Instr.wf, readWf, Bool.and_eq_false_iff, decide_eq_false_iff_not]
        omega
      · obtain ⟨hd, ho⟩ := not_or.1 ha
        exact .inr ⟨_, exec_deviceReadReturn_there (Nat.not_le.1 hd) (Nat.not_lt.1 ho) u s⟩
  all_goals cases h

/-- Every command answers a next state, or stops at an absent device and is ill-formed. -/
theorem exec_next_or_absent (c : Instr) (s : State) :
    (exec c s = .fault .noSuchDevice ∧ c.wf = false) ∨ ∃ t, exec c s = .next t := by
  cases h : namesDevice c with
  | true => exact exec_of_namesDevice h s
  | false => exact .inr (exec_next_of_not_namesDevice h s)

/-- Settles O5: every command has one of two outcomes, and a refusal is neither. -/
theorem onlyAbsentDevicesStop : Obligations.OnlyAbsentDevicesStop := by
  refine ⟨fun c s r hr => ?_, fun c s r hf => ?_, fun d s hd => ?_⟩
  · rcases exec_next_or_absent c s with ⟨hx, _⟩ | ⟨t, ht⟩
    · cases hx.symm.trans hr
    · cases ht.symm.trans hr
  · rcases exec_next_or_absent c s with ⟨hx, hwf⟩ | ⟨t, ht⟩
    · cases hx.symm.trans hf
      exact ⟨rfl, hwf⟩
    · cases ht.symm.trans hf
  · exact ⟨exec_deviceFailed_absent hd s, exec_devicePresent_absent hd s,
      fun _ _ u => exec_deviceReadReturn_absent (.inl hd) u s⟩

end Sys2Proof.Machine
end

section
/-! SUPPORT. What a fault record leaves of the Tracer's sequence number and of the outputs (R431, R435). -/

namespace Sys2Proof.Machine

/-! ### The sequence number of records (R431) -/

/-- What leaves the Tracer still leaves the sequence number of its records. -/
theorem nextSeq_of_still {s t : State} (h : t.tracer.still = s.tracer.still) : t.tracer.nextSeq = s.tracer.nextSeq := by
  show t.tracer.still.nextSeq = s.tracer.still.nextSeq
  rw [h]

theorem flushRing_tracer (fn : FnId) (id : BitVec 9) (n : Nat) (s : State) : (flushRing fn id n s).tracer = s.tracer :=
  flushRing_frame (A := [.out, .obj, .fns]) fn id n s (agree_refl _ s) rfl .tracer rfl

/-- An event record takes no sequence number of the fault records. -/
@[simp] theorem postEvent_nextSeq (fn : FnId) (id : BitVec 9) (e : EventRec) (s : State) :
    (postEvent fn id e s).tracer.nextSeq = s.tracer.nextSeq := by
  have hflush (n : Nat) : (flushRing fn id n s).tracer.nextSeq = s.tracer.nextSeq := by rw [flushRing_tracer]
  unfold postEvent
  split
  · rfl
  · split
    · repeat' split
      all_goals rfl
    · dsimp only
      split
      · exact hflush _
      · split
        · rw [writeRecord_tracer]
          exact hflush _
        · split
          · exact hflush _
          · exact hflush _

@[simp] theorem emitTrace_nextSeq (bit : Nat) (code unit : BitVec 16) (p : PolderId) (c : Option CtxId)
    (payload : Bytes) (s : State) : (emitTrace bit code unit p c payload s).tracer.nextSeq = s.tracer.nextSeq :=
  nextSeq_of_still (emitTrace_still bit code unit p c payload s)

@[simp] theorem pend_nextSeq (o : Origin) (tag : BitVec 32) (opcode : BitVec 16) (s : State) :
    (pend o tag opcode s).tracer.nextSeq = s.tracer.nextSeq :=
  nextSeq_of_still (reply_still ..)

/-- A fault record takes the next sequence number. -/
@[simp] theorem writeFault_nextSeq (n : FaultName) (i : FaultInfo) (s : State) :
    (writeFault n i s).tracer.nextSeq = s.tracer.nextSeq + 1 := by
  unfold writeFault
  extract_lets r pushed sb copied mirrored mirroredVf traced fatal
  have hcopied : copied.tracer.nextSeq = s.tracer.nextSeq + 1 := by
    unfold copied
    split
    · rfl
    · rfl
  have hmirrored : mirroredVf.tracer.nextSeq = s.tracer.nextSeq + 1 := by
    unfold mirroredVf
    split
    · rw [postEvent_nextSeq, postEvent_nextSeq, hcopied]
    · rw [postEvent_nextSeq, hcopied]
  have htraced : traced.tracer.nextSeq = s.tracer.nextSeq + 1 := (emitTrace_nextSeq ..).trans hmirrored
  split
  · split
    · exact htraced
    · exact htraced
  · exact htraced

/-! ### Outputs -/

/-- What is put out stays put out. -/
theorem out_subset_foldl {α : Type} {g : State → α → State} (hg : ∀ t x, t.out ⊆ (g t x).out) (l : List α)
    (s : State) : s.out ⊆ (l.foldl g s).out := by
  induction l generalizing s with
  | nil => exact List.Subset.refl _
  | cons x l ih => exact List.Subset.trans (hg s x) (ih (g s x))

theorem out_subset_emit (o : Output) (s : State) : s.out ⊆ (emit o s).out := List.subset_append_left ..

theorem out_subset_dirtyPage (n : VfId) (page : Nat) (s : State) : s.out ⊆ (dirtyPage n page s).out := by
  unfold dirtyPage
  dsimp only
  split
  · exact List.Subset.refl _
  · split
    · split
      · exact List.Subset.refl _
      · exact out_subset_emit ..
    · exact List.Subset.refl _

theorem out_subset_dirtyLog (n : VfId) (addr len : Nat) (s : State) : s.out ⊆ (dirtyLog n addr len s).out := by
  unfold dirtyLog
  dsimp only
  split
  · refine out_subset_foldl (fun t p => ?_) _ s
    split
    · exact out_subset_dirtyPage ..
    · exact List.Subset.refl _
  · exact List.Subset.refl _

theorem out_subset_hostWrite (fn : FnId) (addr : BitVec 64) (b : Bytes) (s : State) :
    s.out ⊆ (hostWrite fn addr b s).out := by
  unfold hostWrite
  split
  · exact List.Subset.refl _
  · split
    · exact List.Subset.trans (out_subset_emit ..) (out_subset_dirtyLog ..)
    · exact out_subset_emit ..

theorem out_subset_writeRecord (fn : FnId) (id : BitVec 9) (e : EventRec) (s : State) :
    s.out ⊆ (writeRecord fn id e s).out := by
  unfold writeRecord
  split
  · exact List.Subset.refl _
  · dsimp only
    split
    · exact List.Subset.trans (out_subset_hostWrite ..) (out_subset_emit ..)
    · exact out_subset_hostWrite ..

theorem out_subset_flushRing (fn : FnId) (id : BitVec 9) (n : Nat) (s : State) : s.out ⊆ (flushRing fn id n s).out := by
  induction n generalizing s with
  | zero => exact List.Subset.refl _
  | succ n ih =>
    unfold flushRing
    split
    · exact List.Subset.refl _
    · split
      · exact List.Subset.refl _
      · split
        · exact List.Subset.trans (out_subset_writeRecord fn id _ (modRing fn id _ s)) (ih _)
        · split
          · exact List.Subset.refl _
          · exact List.Subset.trans (out_subset_writeRecord fn id _ (modRing fn id _ s)) (ih _)

theorem out_subset_postEvent (fn : FnId) (id : BitVec 9) (e : EventRec) (s : State) :
    s.out ⊆ (postEvent fn id e s).out := by
  unfold postEvent
  split
  · exact List.Subset.refl _
  · split
    · repeat' split
      all_goals exact List.Subset.refl _
    · dsimp only
      split
      · exact out_subset_flushRing ..
      · split
        · exact List.Subset.trans (out_subset_flushRing ..) (out_subset_writeRecord ..)
        · split
          · exact out_subset_flushRing ..
          · exact out_subset_flushRing ..

/-- A fault record adds to the outputs. -/
theorem out_subset_writeFault (n : FaultName) (i : FaultInfo) (s : State) : s.out ⊆ (writeFault n i s).out := by
  unfold writeFault
  extract_lets r pushed sb copied mirrored mirroredVf traced fatal
  have hcopied : s.out ⊆ copied.out := by
    unfold copied
    split
    · exact List.subset_append_left ..
    · exact List.Subset.refl _
  have hmirrored : s.out ⊆ mirroredVf.out := by
    unfold mirroredVf
    split
    · exact List.Subset.trans (List.Subset.trans hcopied (out_subset_postEvent ..)) (out_subset_postEvent ..)
    · exact List.Subset.trans hcopied (out_subset_postEvent ..)
  have htraced : s.out ⊆ traced.out := by rwa [emitTrace_out]
  split
  · split
    · exact List.Subset.trans htraced (out_subset_emit ..)
    · exact htraced
  · exact htraced

end Sys2Proof.Machine
end

section
/-! SUPPORT. What the tray's devices and parity groups do (R106, R127 to R131), and the statement about them. -/

namespace Sys2Proof.Machine

/-! ### Parity groups -/

theorem mirrorChanged_parts (s : State) : s.agree [.weirs] (mirrorChanged s) :=
  mirrorChanged_frame s (agree_refl _ s) rfl

@[simp] theorem mirrorChanged_tray (s : State) : (mirrorChanged s).tray = s.tray := mirrorChanged_parts s .tray rfl

@[simp] theorem mirrorChanged_tracer (s : State) : (mirrorChanged s).tracer = s.tracer :=
  mirrorChanged_parts s .tracer rfl

@[simp] theorem mirrorChanged_spdm (s : State) : (mirrorChanged s).spdm = s.spdm := mirrorChanged_parts s .spdm rfl

/-- Replacing a group changes the groups alone, of the tray. -/
@[simp] theorem setGroup_tray (g : Nat) (x : ParityGroup) (s : State) :
    (setGroup g x s).tray = { s.tray with groups := assocSet g x s.tray.groups } :=
  mirrorChanged_tray _

@[simp] theorem setGroup_tracer (g : Nat) (x : ParityGroup) (s : State) : (setGroup g x s).tracer = s.tracer :=
  mirrorChanged_tracer _

/-- What finding a group reads is the tray. -/
theorem getGroup_congr {s t : State} (h : t.tray.groups = s.tray.groups) (g : Nat) : getGroup t g = getGroup s g := by
  rw [getGroup, getGroup, h]

@[simp] theorem getGroup_setGroup (g : Nat) (x : ParityGroup) (s : State) : getGroup (setGroup g x s) g = x := by
  rw [getGroup, setGroup_tray]
  exact assocGet_assocSet_same ..

/-- A group in a rebuild, its dead member and its spare. -/
structure Rebuilding (g k spare : Nat) (s : State) : Prop where
  tray : hasTray s = true
  state : (getGroup s g).state = .rebuilding
  dead : (getGroup s g).dead = some k
  spare : (getGroup s g).spare = some spare

/-- A row of a group in a rebuild, whose Levee serves, is rebuilt (R129). -/
theorem exec_rebuildRow {g k spare : Nat} {s : State} (h : Rebuilding g k spare s)
    (hw : (getGroup s g).watermark < trayRows) (hs : serves s (leveeDomain g) = true) :
    exec (.rebuildRow g) s = .next (rebuildRow g k spare (getGroup s g) (markWork (leveeDomain g) s)) := by
  simp only [exec, execRebuildRow, h.state, h.dead, h.spare, h.tray, hw, decide_true, Bool.and_self, if_true,
    withDomain_of_serves hs]

theorem exec_rebuildEnd {g k spare : Nat} {s : State} (h : Rebuilding g k spare s)
    (hw : (getGroup s g).watermark = trayRows) :
    exec (.rebuildEnd g) s = .next (writeFault .trayRebuildEnd
      { unit := leveeUnit g,
        detail := [BitVec.ofNat 8 g, BitVec.ofNat 8 (assocGet (memberDevice g k) (memberDevice g k) s.tray.remap)] }
      (setGroup g .normal
        { s with tray := { s.tray with remap := assocSet (memberDevice g k) spare s.tray.remap } })) := by
  simp only [exec, execRebuildEnd, h.state, h.dead, h.spare, h.tray, hw, decide_true, Bool.and_self, if_true]

/-- A row that can be read or reconstructed is written to the spare. -/
theorem rebuildRow_of_share {g k spare : Nat} {x : ParityGroup} {b : Bytes} {s : State}
    (h : shareRead s g k x.watermark = some b) :
    rebuildRow g k spare x s
      = setGroup g { x with watermark := x.watermark + 1 } (count 0x245 (rawWrite spare x.watermark b s)) := by
  simp only [rebuildRow, h]

/-- A row that can be neither is lost on the spare. -/
theorem rebuildRow_of_lost {g k spare : Nat} {x : ParityGroup} {s : State} (h : shareRead s g k x.watermark = none) :
    rebuildRow g k spare x s = setGroup g { x with watermark := x.watermark + 1 }
      { s with tray := { s.tray with badRows := s.tray.badRows ++ [(spare, x.watermark)] } } := by
  simp only [rebuildRow, h]

/-! ### What a device returns (R128, R521) -/

/-- A return of a live device, while the Levees serve, is taken at once. -/
theorem trayReadReturn_served {d : Nat} {s : State} (ht : hasTray s = true) (hd : d ∉ s.tray.dead)
    (hs : ∀ x ∈ trayDomains, x.kind = .levee → serves s x = true) (offset : Nat) (data : Bytes) (bad : Bool) :
    trayReadReturn d offset data bad s
      = (fun u => if bad then deviceError d offset u else deviceReturned d (data.length + 1) offset data u)
        ((trayDomains.filter fun x => x.kind = .levee).foldl (fun t x => markWork x t) s) := by
  have hserves : ∀ x ∈ trayDomains.filter (fun x => x.kind = .levee), serves s x = true := fun x hx =>
    hs x (List.mem_filter.1 hx).1 (of_decide_eq_true (List.mem_filter.1 hx).2)
  have hno : (!hasTray s || s.tray.dead.contains d) = false := by simp [ht, hd]
  rw [trayReadReturn, hno, if_neg Bool.false_ne_true, withDomains_of_serves hserves]

/-- Settles O31: what each command does is said by one lemma, and what the statement asks of the state is read off. -/
theorem trayDevicesComplete : Obligations.TrayDevicesComplete := by
  refine ⟨?failed, ?present, ?rebuilt, ?lost, ?ended, ?returned⟩
  case failed =>
    intro d s hd ht
    rw [exec_deviceFailed_there hd, if_pos ht]
  case present =>
    intro d s hd ht hdead
    refine ⟨rejoined d s, ?_, ?_, rfl, rfl, fun x hx => ?_⟩
    · rw [exec_devicePresent_there hd, if_pos (by simp [ht, hdead])]
    · exact fun hmem => of_decide_eq_true (List.mem_filter.1 hmem).2 rfl
    · exact of_decide_eq_true (List.mem_filter.1 hx).2
  case rebuilt =>
    intro g k spare b s ht hst hk hsp hw hs hb
    refine ⟨_, exec_rebuildRow ⟨ht, hst, hk, hsp⟩ hw hs, ?_⟩
    rw [rebuildRow_of_share (s := markWork _ s) hb]
    refine ⟨?_, ?_, ?_⟩
    · rw [getGroup_setGroup]
    · rw [setGroup_tray]
      rfl
    · simp only [counterOf, setGroup_tracer]
      exact counterOf_count ..
  case lost =>
    intro g k spare s ht hst hk hsp hw hs hb
    refine ⟨_, exec_rebuildRow ⟨ht, hst, hk, hsp⟩ hw hs, ?_⟩
    rw [rebuildRow_of_lost (s := markWork _ s) hb]
    refine ⟨?_, ?_, ?_⟩
    · rw [getGroup_setGroup]
    · rw [setGroup_tray]
      rfl
    · rw [setGroup_tray]
      exact List.mem_append_right _ (List.mem_singleton_self _)
  case ended =>
    intro g k spare s ht hst hk hsp hw
    refine ⟨_, exec_rebuildEnd ⟨ht, hst, hk, hsp⟩ hw, ?_, ?_, ?_⟩
    · rw [getGroup_congr (congrArg Tray.groups (writeFault_tray ..)), getGroup_setGroup]
    · rw [writeFault_tray, setGroup_tray]
      exact assocGet_assocSet_same ..
    · rw [writeFault_nextSeq, setGroup_tracer]
  case returned =>
    intro d offset data s hd ho ht hdead hs u
    refine ⟨?_, ?_⟩
    · rw [exec_deviceReadReturn_there hd ho, trayReadReturn_served ht hdead hs]
      rfl
    · rw [exec_deviceReadReturn_there hd ho, trayReadReturn_served ht hdead hs]
      rfl

end Sys2Proof.Machine
end

section
/-! SUPPORT. What the timers of extents and of their leases do (R123, R198 to R204), and the statement about them. -/

namespace Sys2Proof.Machine

/-! ### Extents -/

/-- The extent that is found under an ID has it. -/
theorem id_of_findExtent {id : BitVec 13} {e : Extent} {s : State} (h : findExtent s id = some e) : e.id = id := by
  simpa using List.find?_some h

/-- What finding an extent reads is the extent root table. -/
theorem findExtent_congr {s t : State} (h : t.tray.extents = s.tray.extents) (id : BitVec 13) :
    findExtent t id = findExtent s id := by
  rw [findExtent, findExtent, h]

/-- A change of an extent, which keeps its ID, is a change of what is found. -/
theorem findExtent_modExtent {id : BitVec 13} {f : Extent → Extent} (h : ∀ x, (f x).id = x.id) (s : State) :
    findExtent (modExtent id f s) id = (findExtent s id).map f :=
  find?_alter (p := fun x : Extent => x.id = id) (f := f) (fun x hx => by simpa [h x] using hx) s.tray.extents

/-- The table of a state that has had an extent of it changed, and nothing else. -/
theorem findExtent_of_modified {id : BitVec 13} {e : Extent} {f : Extent → Extent} {s t : State}
    (ht : t.tray.extents = (modExtent id f s).tray.extents) (hf : ∀ x, (f x).id = x.id)
    (h : findExtent s id = some e) : findExtent t id = some (f e) := by
  rw [findExtent_congr ht, findExtent_modExtent hf, h]
  rfl

/-- Marking work at domains leaves the tray. -/
theorem foldl_markWork_tray (l : List DomainId) (s : State) :
    (l.foldl (fun t d => markWork d t) s).tray = s.tray := by
  induction l generalizing s with
  | nil => rfl
  | cons d l ih => rw [List.foldl_cons, ih, markWork_tray]

/-! ### The end of a lease (R202, R203) -/

/-- The revocation of an extent changes its state alone, of the tray. -/
theorem beginRevoke_tray (e : Extent) (expired : Bool) (s : State) :
    (beginRevoke e expired s).tray = (modExtent e.id (fun x => { x with state := .revoking }) s).tray := by
  cases expired with
  | true => simp only [beginRevoke, if_true, writeFault_tray]
  | false => rfl

/-- An extent whose revocation has begun is found REVOKING. -/
theorem findExtent_beginRevoke {e : Extent} {s : State} (h : findExtent s e.id = some e) (expired : Bool) :
    findExtent (beginRevoke e expired s) e.id = some { e with state := .revoking } :=
  findExtent_of_modified (congrArg Tray.extents (beginRevoke_tray e expired s)) (fun _ => rfl) h

/-- An expired lease leaves a record, a revocation by command none. -/
theorem beginRevoke_nextSeq (e : Extent) (expired : Bool) (s : State) :
    (beginRevoke e expired s).tracer.nextSeq = if expired then s.tracer.nextSeq + 1 else s.tracer.nextSeq := by
  cases expired with
  | true =>
    simp only [beginRevoke, if_true, writeFault_nextSeq]
    rfl
  | false => rfl

/-- A lease that has expired begins its revocation. -/
theorem exec_leaseExpiry_expired {x : BitVec 13} {e : Extent} {s : State} (h : findExtent s x = some e)
    (ht : hasTray s = true) (hst : e.state = .leased) (hx : e.expiry.toNat ≤ s.datum.value.toNat) :
    exec (.leaseExpiry x) s = .next (beginRevoke e true s) := by
  simp [exec, execLeaseExpiry, h, ht, hst, hx]

/-- Before its expiry nothing happens to a lease. -/
theorem exec_leaseExpiry_early {x : BitVec 13} {e : Extent} {s : State} (h : findExtent s x = some e)
    (hx : s.datum.value.toNat < e.expiry.toNat) : exec (.leaseExpiry x) s = .next s := by
  simp [exec, execLeaseExpiry, h, Nat.not_le.2 hx]

/-! ### Initialisations and the copy of a rekey (R115, R123) -/

/-- A location initialised for a grant, with its key, is granted. -/
theorem exec_extentInitialisationComplete_grant {x : BitVec 13} {e : Extent} {s : State} (h : findExtent s x = some e)
    (ht : hasTray s = true) (hk : extentKeyless e = false) (hst : e.state = .granting)
    (hs : ∀ d ∈ trayDomains, serves s d = true) :
    exec (.extentInitialisationComplete x) s
      = .next (grantExtent e (trayDomains.foldl (fun t d => markWork d t) s)) := by
  simp [exec, execExtentInitialisationComplete, h, ht, hk, hst, withDomains_of_serves hs]

/-- A location initialised for a rekey, with its key, is copied to. -/
theorem exec_extentInitialisationComplete_rekey {x : BitVec 13} {e : Extent} {r : Rekey} {s : State}
    (h : findExtent s x = some e) (ht : hasTray s = true) (hk : extentKeyless e = false) (hst : e.state ≠ .granting)
    (hr : e.rekey = some r) (hc : r.copying = false) (hs : ∀ d ∈ trayDomains, serves s d = true) :
    exec (.extentInitialisationComplete x) s
      = .next (startCopy e r (trayDomains.foldl (fun t d => markWork d t) s)) := by
  simp [exec, execExtentInitialisationComplete, h, ht, hk, hst, hr, hc, withDomains_of_serves hs]

/-- The start of a copy changes the extent of the rekey alone, of the extents. -/
theorem startCopy_extents (e : Extent) (r : Rekey) (s : State) :
    (startCopy e r s).tray.extents = (modExtent e.id (fun x => { x with
      rekey := some { r with copying := true }, roots := x.roots.filter fun y => y.1 < 4 }) s).tray.extents := rfl

/-- Settles O32: each timer, by the state of its extent. -/
theorem extentTimersComplete : Obligations.ExtentTimersComplete := by
  refine ⟨?expired, fun x e s => exec_leaseExpiry_early, ?drained,
    fun x e s => exec_extentInitialisationComplete_grant, ?copying, ?copied⟩
  case expired =>
    intro x e s h ht hst hx
    have hid := id_of_findExtent h
    refine ⟨_, exec_leaseExpiry_expired h ht hst hx, ?_, ?_⟩
    · subst hid
      exact findExtent_beginRevoke h true
    · rw [beginRevoke_nextSeq, if_pos rfl]
  case drained =>
    intro x e s h ht hst hr hu
    simp [exec, execExtentRevokeDrained, h, ht, hst, hr, hu]
  case copying =>
    intro x e r s h ht hk hst hr hc hs
    have hid := id_of_findExtent h
    refine ⟨_, exec_extentInitialisationComplete_rekey h ht hk hst hr hc hs, ?_⟩
    subst hid
    refine findExtent_of_modified (startCopy_extents e r _) (fun _ => rfl) ?_
    rwa [findExtent_congr (congrArg Tray.extents (foldl_markWork_tray ..))]
  case copied =>
    intro x e r old new s h ht hk hr hn hc hs
    have hid := id_of_findExtent h
    subst hid
    simp only [exec, execExtentRekeyCopyComplete, h, ht, hk, hr, hn, hc, withDomains_of_serves hs]
    rfl

end Sys2Proof.Machine
end

section
/-! SUPPORT. What the commands for extents and for the tray do (R123, R125, R130, R198 to R203, R359, R383, R384), and the
statement about them. -/

namespace Sys2Proof.Machine

/-! ### Naming an extent -/

/-- The field that an extent is found by holds its ID. -/
theorem id_of_namedExtent {id : BitVec 16} {e : Extent} {s : State} (h : namedExtent s id = some e) :
    id.setWidth 13 = e.id := by
  unfold namedExtent at h
  split at h
  · exact (id_of_findExtent h).symm
  · cases h

/-- An extent that is named is found under its ID. -/
theorem findExtent_of_named {id : BitVec 16} {e : Extent} {s : State} (h : namedExtent s id = some e) :
    findExtent s e.id = some e := by
  have hid := id_of_namedExtent h
  unfold namedExtent at h
  split at h
  · rwa [← hid]
  · cases h

theorem extentGranted_of_named {id : BitVec 16} {e : Extent} {s : State} (h : namedExtent s id = some e)
    (hst : e.state ≠ .granting) : extentGranted id s = true := by
  simp [extentGranted, h, hst]

/-- Two changes of an extent are one. -/
theorem modExtent_modExtent {id : BitVec 13} {f : Extent → Extent} (hf : ∀ x, (f x).id = x.id) (g : Extent → Extent)
    (s : State) : modExtent id g (modExtent id f s) = modExtent id (fun x => g (f x)) s := by
  unfold modExtent
  dsimp only
  rw [alter_alter (fun x hx => by simpa [hf x] using hx)]

/-- An extent within its lease is renewed by its holder, or by one who needs not be. -/
theorem renewCheck_none {id holder lease : BitVec 16} {anyHolder : Bool} {e : Extent} {s : State}
    (h : namedExtent s id = some e) (hl : leaseOk lease = true) (hst : e.state = .leased)
    (hx : s.datum.value.toNat < e.expiry.toNat) (hh : anyHolder = false → e.holder = holder) :
    renewCheck id holder lease anyHolder s = none := by
  have hholder : (!anyHolder && decide (e.holder ≠ holder)) = false := by
    cases anyHolder with
    | true => rfl
    | false => simp [hh rfl]
  simp only [renewCheck, h]
  exact (firstFail_none _).2 (by simpa [hl, hst, hx] using hholder)

/-! ### Commands that are answered at once -/

/-- A command whose effect is a change of one extent and then its reply answers ST_OK, and the extent is found changed. -/
theorem answers_modExtent {c : Instr} {s : State} {ci : CmdInfo} {o : Origin} {tag : BitVec 32} {d m : Bool}
    {own : State → Option Status} {eff : State → State} {e : Extent} (f : Extent → Extent) (u : State) (h : Passes c s)
    (hw : wardenRow c = some (ci, o, tag)) (hc : exec c s = .next (runCmd ci o tag d m own eff s))
    (hb : resetsBlock c = false) (hd : d = false) (hm : m = false) (ho : own s = none)
    (hr : eff s = reply o tag ci.opcode .ok [] u) (hsp : u.spdm = s.spdm)
    (hu : u.tray.extents = (modExtent e.id f s).tray.extents) (hf : ∀ x, (f x).id = x.id)
    (he : findExtent s e.id = some e) : Answers c s .ok [] fun t => findExtent t e.id = some (f e) := by
  refine answers_reply u h hw hc hb hd hm ho hr hsp ?_
  exact findExtent_of_modified ((congrArg Tray.extents (reply_tray ..)).trans hu) hf he

/-- EXTENT_RENEW by the holder within the lease. -/
theorem answers_extentRenew {o : Origin} {tag : BitVec 32} {id holder lease : BitVec 16} {e : Extent} {s : State}
    (h : Passes (.extentRenew o tag id holder lease) s) (hn : namedExtent s id = some e)
    (hd : extentDenied o id s = false) (hl : leaseOk lease = true) (hst : e.state = .leased)
    (hx : s.datum.value.toNat < e.expiry.toNat) (hh : e.holder = holder) :
    Answers (.extentRenew o tag id holder lease) s .ok [] fun t =>
      findExtent t e.id = some { e with expiry := leaseEnd s lease } := by
  refine answers_modExtent (fun x => { x with expiry := leaseEnd s lease }) (renewLease id lease s) h rfl rfl rfl hd rfl
    (renewCheck_none hn hl hst hx fun _ => hh) rfl rfl ?_ (fun _ => rfl) (findExtent_of_named hn)
  rw [renewLease, id_of_namedExtent hn]

/-- EXTENT_HANDOVER within the lease, by the holder or by the fabric manager. -/
theorem answers_extentHandover {o : Origin} {tag : BitVec 32} {id holder taker lease : BitVec 16} {e : Extent} {s : State}
    (h : Passes (.extentHandover o tag id holder taker lease) s) (hn : namedExtent s id = some e)
    (hd : extentDenied o id s = false) (hl : leaseOk lease = true) (hst : e.state = .leased)
    (hx : s.datum.value.toNat < e.expiry.toNat) (hh : o.sluice ≠ .fm → e.holder = holder) :
    Answers (.extentHandover o tag id holder taker lease) s .ok [] fun t =>
      findExtent t e.id = some { e with expiry := leaseEnd s lease, holder := taker } := by
  refine answers_modExtent (fun x => { x with expiry := leaseEnd s lease, holder := taker })
    (modExtent (id.setWidth 13) (fun x => { x with holder := taker }) (renewLease id lease s)) h rfl rfl rfl hd rfl
    (renewCheck_none hn hl hst hx fun hfm => hh (of_decide_eq_false hfm)) rfl rfl ?_ (fun _ => rfl)
    (findExtent_of_named hn)
  rw [renewLease, id_of_namedExtent hn]
  exact congrArg (fun t => t.tray.extents) (modExtent_modExtent (f := fun x => { x with expiry := leaseEnd s lease })
    (fun _ => rfl) (fun x => { x with holder := taker }) s)

/-- EXTENT_HINT of an extent that is granted. -/
theorem answers_extentHint {o : Origin} {tag : BitVec 32} {id : BitVec 16} {hint : BitVec 8} {e : Extent} {s : State}
    (h : Passes (.extentHint o tag id hint) s) (hn : namedExtent s id = some e) (hd : extentDenied o id s = false)
    (hst : e.state ≠ .granting) (hh : hint.toNat ≤ 2) :
    Answers (.extentHint o tag id hint) s .ok [] fun t => findExtent t e.id = some { e with hint := hint.setWidth 2 } := by
  refine answers_modExtent (fun x => { x with hint := hint.setWidth 2 })
    (modExtent (id.setWidth 13) (fun x => { x with hint := hint.setWidth 2 }) s) h rfl rfl rfl hd rfl ?_ rfl rfl ?_
    (fun _ => rfl) (findExtent_of_named hn)
  · exact (firstFail_none _).2 (by simp [extentGranted_of_named hn hst, hh])
  · rw [id_of_namedExtent hn]

/-- TRAY_REBUILD_RATE in range sets the rate. -/
theorem answers_trayRebuildRate {o : Origin} {tag : BitVec 32} {percent : BitVec 8} {s : State}
    (h : Passes (.trayRebuildRate o tag percent) s) (h1 : 1 ≤ percent.toNat) (h50 : percent.toNat ≤ 50) :
    Answers (.trayRebuildRate o tag percent) s .ok [] fun t =>
      t.tray = { s.tray with rebuildRate := percent.toNat } := by
  refine answers_reply _ h rfl rfl rfl rfl rfl ?_ rfl (mirrorChanged_spdm _) ?_
  · exact (firstFail_none _).2 (by simp [h1, h50])
  · rw [reply_tray, mirrorChanged_tray]

/-- EXTENT_STATUS of an ID in range answers the extent's record. -/
theorem answers_extentStatus {o : Origin} {tag : BitVec 32} {id : BitVec 16} {s : State}
    (h : Passes (.extentStatus o tag id) s) (hid : id.toNat < 8192) (hd : extentUnread o id s = false) :
    Answers (.extentStatus o tag id) s .ok (extentRecord (namedExtent s id)) fun t => t.tray = s.tray := by
  refine answers_reply s h rfl rfl rfl hd rfl ?_ rfl rfl (reply_tray ..)
  exact (firstFail_none _).2 (by simp [hid])

/-- TRAY_STATUS answers the groups' records, the free locations and the spares. -/
theorem answers_trayStatus {o : Origin} {tag : BitVec 32} {s : State} (h : Passes (.trayStatus o tag) s) :
    Answers (.trayStatus o tag) s .ok ((List.range 8).flatMap (groupRecord s)
      ++ leBytes 2 ((List.range 5898).filter fun l => locState s l = .free).length
      ++ [BitVec.ofNat 8 s.tray.spares.length, 0]) fun t => t.tray = s.tray :=
  answers_reply (tookFree s) h rfl rfl rfl rfl rfl rfl rfl rfl (reply_tray ..)

/-! ### Commands that wait -/

/-- EXTENT_GRANT of a polder that stands, with an ID, a location and the random draw to be had, begins. -/
theorem exec_extentGrant {o : Origin} {tag : BitVec 32} {p : PolderId} {holder lease : BitVec 16} {perms : BitVec 8}
    {id : BitVec 13} {l : Nat} {s : State} (h : Passes (.extentGrant o tag p holder lease perms) s)
    (hn : mayNamePolder o p s = true) (hperms : perms.toNat < 32) (hp : polderStands s p = true)
    (hl : leaseOk lease = true) (hid : grantId s = some id) (hloc : freeLocation s = some l)
    (hdraw : drbgAvailable s = true) :
    exec (.extentGrant o tag p holder lease perms) s
      = .next (beginGrant o tag p holder lease perms id l s) := by
  have he := exec_effect h rfl (runCmd_eq rfl rfl) (by simp [hn]) (by simpa using hperms)
    ((firstFail_none _).2 (by simp [hp, hl, hid, hloc, hdraw]))
  simpa only [hid, hloc] using he

/-- EXTENT_REKEY within the lease takes a location and waits for its key. -/
theorem exec_extentRekey {o : Origin} {tag : BitVec 32} {id : BitVec 16} {e : Extent} {l : Nat} {s : State}
    (h : Passes (.extentRekey o tag id) s) (hn : namedExtent s id = some e) (hd : extentDenied o id s = false)
    (hst : e.state = .leased) (hx : s.datum.value.toNat < e.expiry.toNat) (hr : e.rekey = none)
    (hloc : freeLocation s = some l) (hdraw : drbgAvailable s = true) :
    exec (.extentRekey o tag id) s = .next (extentKeyStep e.id (pend o tag 0x0605 (modExtent e.id
      (fun x => { x with rekey := some { location := l, nonce := (drbgValue s).setWidth 64, key := none,
                                         copying := false, waiters := [(o, tag)] } })
      (drbgDraw 8 (setLoc l .initialising s))))) := by
  have he := exec_effect h rfl (runCmd_eq rfl rfl) hd rfl
    (by simp only [hn]; exact (firstFail_none _).2 (by simp [hst, hx, hr, hloc, hdraw]))
  simpa only [hn, hloc] using he

/-- A command that is pending leaves an extent that is named. -/
theorem findExtent_pend {id : BitVec 16} {e : Extent} {s : State} (h : namedExtent s id = some e) {o : Origin}
    {tag : BitVec 32} {opcode : BitVec 16} : findExtent (pend o tag opcode s) e.id = some e := by
  rw [findExtent_congr (congrArg Tray.extents (pend_tray ..)), findExtent_of_named h]

/-- An extent that one more EXTENT_REVOKE waits for, of an ID. -/
def addRevoker (id : BitVec 13) (o : Origin) (tag : BitVec 32) (s : State) : State :=
  modExtent id (fun x => { x with revoking := x.revoking ++ [(o, tag)] }) s

theorem findExtent_addRevoker {id : BitVec 13} {e : Extent} {o : Origin} {tag : BitVec 32} {s : State}
    (h : findExtent s id = some e) :
    findExtent (addRevoker id o tag s) id = some { e with revoking := e.revoking ++ [(o, tag)] } :=
  findExtent_of_modified (f := fun x => { x with revoking := x.revoking ++ [(o, tag)] }) rfl (fun _ => rfl) h

/-- What EXTENT_REVOKE does to an extent that is granted. -/
def revokeEffect (o : Origin) (tag : BitVec 32) (e : Extent) (s : State) : State :=
  if e.state = .revoked then finish o tag .ok [] s
  else addRevoker e.id o tag
    (if e.state = .leased then beginRevoke e (decide (e.expiry.toNat ≤ s.datum.value.toNat)) s else s)

/-- EXTENT_REVOKE of an extent that is granted is pending, and revokes. -/
theorem exec_extentRevoke {o : Origin} {tag : BitVec 32} {id : BitVec 16} {e : Extent} {s : State}
    (h : Passes (.extentRevoke o tag id) s) (hn : namedExtent s id = some e) (hd : extentDenied o id s = false)
    (hst : e.state ≠ .granting) :
    exec (.extentRevoke o tag id) s = .next (revokeEffect o tag e (pend o tag 0x0604 s)) := by
  have he := exec_effect h rfl (runCmd_eq rfl rfl) hd rfl
    ((firstFail_none _).2 (by simp [extentGranted_of_named hn hst]))
  simpa only [hn, revokeEffect, addRevoker] using he

/-- A revocation keeps the outputs. -/
theorem out_subset_beginRevoke (e : Extent) (expired : Bool) (s : State) : s.out ⊆ (beginRevoke e expired s).out := by
  cases expired with
  | true =>
    simp only [beginRevoke, if_true]
    exact out_subset_writeFault _ _ (modExtent e.id _ s)
  | false => exact List.Subset.refl _

/-- EXTENT_REVOKE is answered pending, whatever it then does to the extent that keeps the outputs. -/
theorem answers_extentRevoke {o : Origin} {tag : BitVec 32} {id : BitVec 16} {e : Extent} {s : State}
    {P : State → Prop} (h : Passes (.extentRevoke o tag id) s) (hn : namedExtent s id = some e)
    (hd : extentDenied o id s = false) (hst : e.state ≠ .granting)
    (hout : (pend o tag 0x0604 s).out ⊆ (revokeEffect o tag e (pend o tag 0x0604 s)).out)
    (hP : P (revokeEffect o tag e (pend o tag 0x0604 s))) : Answers (.extentRevoke o tag id) s .pending [] P := by
  refine ⟨_, o, tag, rfl, _, exec_extentRevoke h hn hd hst, hout ?_, hP⟩
  rw [pend_out tag 0x0604 (h.canSeal rfl)]
  exact List.mem_append_right _ (List.mem_singleton_self _)

/-- EXTENT_REVOKE of a LEASED extent shuts it and waits; a lease that has expired leaves its record. -/
theorem answers_extentRevoke_leased {o : Origin} {tag : BitVec 32} {id : BitVec 16} {e : Extent} {s : State}
    (h : Passes (.extentRevoke o tag id) s) (hn : namedExtent s id = some e) (hd : extentDenied o id s = false)
    (hst : e.state = .leased) :
    Answers (.extentRevoke o tag id) s .pending [] fun t =>
      findExtent t e.id = some { e with state := .revoking, revoking := e.revoking ++ [(o, tag)] }
        ∧ t.tracer.nextSeq = if e.expiry.toNat ≤ s.datum.value.toNat then s.tracer.nextSeq + 1 else s.tracer.nextSeq := by
  have he : revokeEffect o tag e (pend o tag 0x0604 s) = addRevoker e.id o tag
      (beginRevoke e (decide (e.expiry.toNat ≤ s.datum.value.toNat)) (pend o tag 0x0604 s)) := by
    simp [revokeEffect, hst]
  refine answers_extentRevoke h hn hd (by simp [hst]) ?_ ?_
  · rw [he]
    exact out_subset_beginRevoke ..
  · rw [he]
    refine ⟨?_, ?_⟩
    · exact findExtent_addRevoker (findExtent_beginRevoke (findExtent_pend hn) _)
    · refine (beginRevoke_nextSeq ..).trans ?_
      simp only [pend_nextSeq, decide_eq_true_eq]

/-- EXTENT_REVOKE of an extent that a revocation shuts already waits with it (R359). -/
theorem answers_extentRevoke_revoking {o : Origin} {tag : BitVec 32} {id : BitVec 16} {e : Extent} {s : State}
    (h : Passes (.extentRevoke o tag id) s) (hn : namedExtent s id = some e) (hd : extentDenied o id s = false)
    (hst : e.state = .revoking) :
    Answers (.extentRevoke o tag id) s .pending [] fun t =>
      findExtent t e.id = some { e with revoking := e.revoking ++ [(o, tag)] } := by
  have he : revokeEffect o tag e (pend o tag 0x0604 s) = addRevoker e.id o tag (pend o tag 0x0604 s) := by
    simp [revokeEffect, hst]
  refine answers_extentRevoke h hn hd (by simp [hst]) ?_ ?_
  · rw [he]
    exact List.Subset.refl _
  · rw [he]
    exact findExtent_addRevoker (findExtent_pend hn)

/-- Settles O51: each command passes the checks before its own by hypothesis; what is left is its own checks, and what
its effect leaves of the extent. -/
theorem extentCommandsComplete : Obligations.ExtentCommandsComplete := by
  intro o tag s
  refine ⟨?grant, ?lease, ?revoke, ?rekey, ?hint, fun _ => answers_trayRebuildRate, fun _ => answers_extentStatus,
    answers_trayStatus⟩
  case grant => exact fun p holder lease perms id l => exec_extentGrant
  case lease =>
    intro id holder lease e hn hd hl hst hx
    exact ⟨fun h => answers_extentRenew h hn hd hl hst hx, fun taker h => answers_extentHandover h hn hd hl hst hx⟩
  case revoke =>
    intro id e h hn hd
    refine ⟨answers_extentRevoke_leased h hn hd, answers_extentRevoke_revoking h hn hd, fun hst => ?_⟩
    rw [exec_extentRevoke h hn hd (by simp [hst]), revokeEffect, if_pos hst]
  case rekey => exact fun id e l => exec_extentRekey
  case hint => exact fun id hint e => answers_extentHint

end Sys2Proof.Machine
end

section
/-! SUPPORT. What the FAU makes of a request at its target (R42, R143 to R151, R166 to R169), and the statements about memory
operations and about requests that are refused. -/

namespace Sys2Proof.Machine

/-! ### A request that is served (R42, R166 to R168) -/

/-- The next request of an opcode has that opcode. -/
theorem opcode_of_nextReleased {s : State} {op : BitVec 8} {kind : BitVec 2} {r : Released}
    (h : nextReleased s op kind = some r) : r.inner.opcode = op := by
  have hr := List.find?_some h
  simp only [Bool.and_eq_true, decide_eq_true_eq] at hr
  exact hr.1

@[simp] theorem serves_atFau (s : State) (d : DomainId) : serves (atFau s) d = serves s d := by
  unfold atFau
  split <;> rfl

/-- Where its domains serve, the FAU serves the next request of an opcode. -/
theorem serveOp_of_opServes {op : BitVec 8} {r : Released} {s : State} (hr : running s = true)
    (hn : nextReleased s op 0 = some r) (hf : isFrozen s r.polder = false) (ho : opServes op s = true) :
    serveOp op s = resume (serveRequest r (atTarget op s)) := by
  simp only [opServes, Bool.and_eq_true] at ho
  obtain ⟨hfau, hbanks⟩ := ho
  simp only [serveOp, hn, hr, hf, Bool.not_false, Bool.and_self, if_true, withFau_of_serves hfau]
  by_cases hop : (decide (op = 3) && decide (s.boot.role ≠ .s)) = true
  · have hserve : ∀ d ∈ replayDomains, serves (atFau s) d = true := by
      rw [Bool.and_eq_true, decide_eq_true_eq, decide_eq_true_eq] at hop
      simpa [hop.1, hop.2] using hbanks
    rw [if_pos hop, withDomains_of_serves hserve, atTarget, if_pos hop]
  · rw [if_neg hop, withDomains_of_serves (by simp), atTarget, if_neg hop]
    rfl

/-- A request that is new, and need not wait for room, is performed (R168). -/
theorem serveRequest_fresh {r : Released} {s : State} (hs : seqCase r (raisedAt r s) = .fresh)
    (hh : holdFull r (raisedAt r s) = false) (ha : answerRoom r (taken r s) = true) :
    serveRequest r (atTarget r.inner.opcode s) = performRequest r false (taken r s) := by
  unfold taken at ha ⊢
  unfold raisedAt at hs hh ha ⊢
  simp only [serveRequest, hs, hh, ha, Bool.false_eq_true, if_false, if_true]

/-- So is what the command of its opcode does of a new request. -/
theorem serveOp_fresh {op : BitVec 8} {r : Released} {s : State} (h : FreshRequest op r s) :
    serveOp op s = resume (performRequest r false (taken r s)) := by
  obtain ⟨hrun, hnext, hthawed, hserves, hseq, hhold, hroom⟩ := h
  rw [serveOp_of_opServes hrun hnext hthawed hserves, ← opcode_of_nextReleased hnext,
    serveRequest_fresh hseq hhold hroom]

theorem FreshRequest.opcode {op : BitVec 8} {r : Released} {s : State} (h : FreshRequest op r s) : r.inner.opcode = op :=
  opcode_of_nextReleased h.2.1

/-- Taking up a request at the target marks work at its domains. -/
theorem atTarget_frame {A : List Part} {s0 : State} (op : BitVec 8) (s : State) (hs : s0.agree A s)
    (hw : partsIn [.power] A = true) : s0.agree A (atTarget op s) := by
  have hfau : s0.agree A (atFau s) := ite_frame (markWork_frame _ s hs hw) hs
  unfold atTarget
  split
  · exact foldl_frame _ _ _ hfau fun t d ht => markWork_frame d t ht hw
  · exact hfau

/-- Taking a request changes no part that trying again what waited, and the tables, do not. -/
theorem taken_parts (r : Released) (s : State) :
    s.agree [.out, .pins, .sb, .polders, .cad, .keys, .link, .stack, .tray, .fau, .rings, .sca, .obj, .fns, .tracer,
      .gauge, .power, .free] (taken r s) := by
  unfold taken raisedAt
  exact count_frame _ _ (setSeen_frame _ _ (dropReleased_frame _ _ (retryMemWait_frame _ (raiseRecord_frame _ _
    (atTarget_frame _ _ (agree_refl _ s) rfl) rfl) rfl) rfl) rfl) rfl

@[simp] theorem taken_boot (r : Released) (s : State) : (taken r s).boot = s.boot := taken_parts r s .boot rfl

/-! ### The checks of R143 -/

/-- This instance's role has the opcode, and it is not a fence's: the checks of the region judge the request (R143). -/
structure Judged (op : BitVec 8) (r : Released) (s : State) : Prop where
  opcode : r.inner.opcode = op
  role : ¬(s.boot.role = .s ∨ s.boot.role = .t ∧ op = 6)
  data : fenceLike op r.inner.opLength.toNat = false

/-- What the checks of the region pass is performed; a signal is first held until its earlier numbers are done (R177). -/
theorem performRequest_passed {op : BitVec 8} {r : Released} {g : Region} {s u : State} (h : Judged op r s)
    (hu : targetChecks r false s = (.pass g, u)) : performRequest r false s
      = if op = 6 then (if holdMet r u then meetSignal r u else holdRequest r u) else performOn r g [] u := by
  obtain ⟨rfl, hrole, hdata⟩ := h
  rw [performRequest, if_neg (by simpa using hrole), hdata, hu]
  rfl

/-- What they refuse is answered with the status of the check (R143). -/
theorem performRequest_refused {op : BitVec 8} {r : Released} {st : Status} {s u : State} (h : Judged op r s)
    (hu : targetChecks r false s = (.fail st, u)) : performRequest r false s = completeRequest r st 0 [] u := by
  obtain ⟨rfl, hrole, hdata⟩ := h
  rw [performRequest, if_neg (by simpa using hrole), hdata, hu]
  rfl

/-- What an initialisation holds up waits (R201). -/
theorem performRequest_waits {op : BitVec 8} {r : Released} {s u : State} (h : Judged op r s)
    (hu : targetChecks r false s = (.wait, u)) : performRequest r false s = { u with fau := { u.fau with
      memWait := u.fau.memWait ++ [{ rel := r, admitted := false, lookups := [], noRoom := false }] } } := by
  obtain ⟨rfl, hrole, hdata⟩ := h
  rw [performRequest, if_neg (by simpa using hrole), hdata, hu]
  rfl

/-- So a new request is performed after the checks, as they find. -/
theorem FreshRequest.judged {op : BitVec 8} {r : Released} {s : State} (h : FreshRequest op r s)
    (hrole : ¬(s.boot.role = .s ∨ s.boot.role = .t ∧ op = 6)) (hdata : fenceLike op r.inner.opLength.toNat = false) :
    Judged op r (taken r s) :=
  ⟨h.opcode, by rwa [taken_boot], hdata⟩

/-- Settles O17: what the checks find decides, whatever the opcode. -/
theorem refusedRequestsAreAnswered : Obligations.RefusedRequestsAreAnswered := by
  intro c op hc r s h hrole hdata
  have he : exec c s = .next (serveOp op s) := by
    simp only [List.mem_cons, Prod.mk.injEq, List.not_mem_nil, or_false] at hc
    obtain ⟨rfl, rfl⟩ | ⟨rfl, rfl⟩ | ⟨rfl, rfl⟩ | ⟨rfl, rfl⟩ | ⟨rfl, rfl⟩ | ⟨rfl, rfl⟩ := hc <;> rfl
  have hj := h.judged hrole hdata
  rw [he, serveOp_fresh h]
  exact ⟨fun st u hu => by rw [performRequest_refused hj hu], fun u hu => by rw [performRequest_waits hj hu]⟩

/-! ### Memory operations (R145 to R149, R151) -/

/-- A request of a memory operation that passes the checks is performed on its region. -/
theorem serveOp_passed {op : BitVec 8} {r : Released} {g : Region} {s u : State} (h : FreshRequest op r s)
    (hrole : s.boot.role ≠ .s) (hop : op ≠ 6) (hdata : fenceLike op r.inner.opLength.toNat = false)
    (hu : targetChecks r false (taken r s) = (.pass g, u)) : serveOp op s = resume (performOn r g [] u) := by
  have hj := h.judged (fun hr => hr.elim hrole fun ht => hop ht.2) hdata
  rw [serveOp_fresh h, performRequest_passed hj hu, if_neg hop]

/-- A load or a store of some bytes is no fence. -/
theorem fenceLike_of_bytes {op : BitVec 8} {n : BitVec 13} (h : op ≠ 7) (hn : n ≠ 0) : fenceLike op n.toNat = false := by
  have hz : n.toNat ≠ 0 := fun hz => hn (BitVec.eq_of_toNat_eq hz)
  rw [fenceLike, decide_eq_false h, decide_eq_false hz, Bool.and_false, Bool.false_or]

/-- A load whose bytes are read is answered with them. -/
theorem performLoad_read {r : Released} {g : Region} {b : Bytes} {u v : State}
    (ha : targetAdmits u (targetLookups r.polder g r.inner.offset.toNat (coveredBytes r.inner) false [] u) r.cls = true)
    (hv : targetRead r.polder g r.inner.offset.toNat (coveredBytes r.inner)
      (targetLookups r.polder g r.inner.offset.toNat (coveredBytes r.inner) false [] u) u = (some (.ok, b), v)) :
    performLoad r g [] u = completeRequest r .ok 0 b v := by
  simp only [performLoad, ha, hv, Bool.not_true, Bool.false_eq_true, if_false, if_true]

/-- A write that has changed some of its range awaits its acknowledgement, the combined elements counted; one that has
changed nothing is answered at once. -/
theorem performWriteAt_changed {r : Released} {g : Region} {full : Bool} {new : Bytes → Option Bytes}
    {combined : Bytes → List (Nat × Nat) → BitVec 6 × Nat} {st : Status} {old : Bytes} {parts : List (Nat × Nat)}
    {u v : State}
    (ha : targetAdmits u (targetLookups r.polder g r.inner.offset.toNat (coveredBytes r.inner) true [] u) r.cls = true)
    (hv : targetChange r.polder g r.inner.offset.toNat (coveredBytes r.inner) full
      (targetLookups r.polder g r.inner.offset.toNat (coveredBytes r.inner) true [] u) new u = (some (st, old, parts), v)) :
    performWriteAt r g full new combined [] u
      = (let value := BitVec.ofNat 64 (leNat old)
         let w := meterElems r.polder (combined old parts).2 v
         if parts ≠ [] then awaitAck r st (combined old parts).1 value g.index w
         else sendCompletion r st (combined old parts).1 (oldBytes r st value)
           (enterAnswer r st (combined old parts).1 value w)) := by
  simp only [performWriteAt, ha, hv, Bool.not_true, Bool.false_eq_true, if_false]
  cases parts <;> rfl

@[simp] theorem meterElems_zero (p : PolderId) (s : State) : meterElems p 0 s = s := rfl

theorem oldBytes_atomic {r : Released} (h : r.inner.opcode = 3) (old : BitVec 64) :
    oldBytes r .ok old = leBytes (atomicWidth r.inner.modifier) old.toNat := by
  simp [oldBytes, h]

/-- Settles O16: the checks pass by hypothesis, so the operation of the opcode is performed. -/
theorem targetMemoryOperationsComplete : Obligations.TargetMemoryOperationsComplete := by
  refine ⟨?load, ?store, ?atomic, ?reduce⟩
  case load =>
    intro r g b s u v h hrole hlen hu off len l ha hv
    have hon : performOn r g [] u = performLoad r g [] u := by simp [performOn, h.opcode]
    have he : exec .load s = .next (serveOp 0x01 s) := rfl
    rw [he, serveOp_passed h hrole (by decide) (fenceLike_of_bytes (by decide) hlen) hu, hon, performLoad_read ha hv]
  case store =>
    intro c op hc r g old parts s u v h hrole hlen hu off len l ha hparts hv
    have hon : performOn r g [] u = performWriteAt r g true (fun _ => some r.payload) (fun _ _ => (0, 0)) [] u
        ∧ op ≠ 6 ∧ op ≠ 7 ∧ exec c s = .next (serveOp op s) := by
      simp only [List.mem_cons, Prod.mk.injEq, List.not_mem_nil, or_false] at hc
      obtain ⟨rfl, rfl⟩ | ⟨rfl, rfl⟩ := hc <;> exact ⟨by simp [performOn, h.opcode], by decide, by decide, rfl⟩
    obtain ⟨hon, h6, h7, he⟩ := hon
    rw [he, serveOp_passed h hrole h6 (fenceLike_of_bytes h7 hlen) hu, hon, performWriteAt_changed ha hv]
    simp [hparts]
  case atomic =>
    intro r g old parts s u v h hrole hu off len l value ha hv
    have hon : performOn r g [] u
        = performWriteAt r g false (atomicNew r.inner.modifier r.payload) (fun _ _ => (0, 0)) [] u := by
      simp [performOn, h.opcode]
    have he : exec .atomic s = .next (serveOp 0x03 s) := rfl
    rw [he, serveOp_passed h hrole (by decide) rfl hu, hon, performWriteAt_changed ha hv]
    exact ⟨fun hp => by simp [hp, value], fun hp => by simp [hp, oldBytes_atomic h.opcode, value]⟩
  case reduce =>
    intro r g st old parts s u v h hrole hu off len l ha hparts hv done
    have hon : performOn r g [] u = performReduce r g [] u := by simp [performOn, h.opcode]
    have he : exec .reduceIntoRemoteMemory s = .next (serveOp 0x04 s) := rfl
    rw [he, serveOp_passed h hrole (by decide) rfl hu, hon, performReduce, performWriteAt_changed ha hv]
    simp [hparts, done]

end Sys2Proof.Machine
end

section
/-! SUPPORT. What becomes of signals and fences at their target (R150, R172, R177, R178, R264), and the statement about them. -/

namespace Sys2Proof.Machine

/-! ### Signals (R150, R177, R264) -/

/-- Domains that all serve have work now, and none is woken. -/
theorem wakeAll_of_serves {ds : List DomainId} {s : State} (h : ∀ d ∈ ds, serves s d = true) :
    wakeAll ds s = (false, ds.foldl (fun t d => markWork d t) s) := by
  have hoff : (ds.filter fun d => !serves s d) = [] := List.filter_eq_nil_iff.2 fun d hd => by simp [h d hd]
  simp [wakeAll, hoff]

/-- A signal whose SCA bank serves needs no waking: the bank has work now. -/
theorem signalServed_of_serves {r : Released} {g : Region} {s : State} (hop : r.inner.opcode = 6)
    (hg : findRegion s (keyIndex r.inner.regionKey) = some g) (hs : serves s (scaDomain g.core) = true) :
    signalServed r s = (true, markWork (scaDomain g.core) s) := by
  have hbank : signalBank r s = [scaDomain g.core] := by simp only [signalBank, hg, hop, if_true]
  rw [signalServed, hbank, wakeAll_of_serves (by simpa using hs)]
  rfl

/-- A signal that is applied adds its increment where the sum fits (R150). -/
theorem applySignal_adds {r : Released} {g : Region} {c : Context} {s : State} (hc : coreContext s g.core = some c)
    (hp : c.polder = g.polder) (hst : c.state ≠ .stopped) (hn : signalIncrement r ≠ 0)
    (hfit : (syncValue s g.core (g.counterBase + BitVec.ofNat 6 (r.inner.offset.toNat / 4))).toNat
      + (signalIncrement r).toNat < 4294967296) :
    applySignal r g s = (.ok, changeSync g.core (g.counterBase + BitVec.ofNat 6 (r.inner.offset.toNat / 4))
      (syncValue s g.core (g.counterBase + BitVec.ofNat 6 (r.inner.offset.toNat / 4)) + signalIncrement r) s) := by
  simp only [applySignal, hc, hp, hst, hn, ne_eq, not_true_eq_false, if_false, if_neg (Nat.not_le.2 hfit)]

/-- The answer to a signal is what its application finds. -/
theorem answerSignal_of_region {r : Released} {g : Region} {s : State}
    (hg : findRegion s (keyIndex r.inner.regionKey) = some g) :
    answerSignal r s = completeRequest r (applySignal r g s).1 0 [] (applySignal r g s).2 := by
  simp only [answerSignal, hg]

theorem meetSignal_of_serves {r : Released} {g : Region} {s : State} (hop : r.inner.opcode = 6)
    (hg : findRegion s (keyIndex r.inner.regionKey) = some g) (hs : serves s (scaDomain g.core) = true) :
    meetSignal r s = answerSignal r (markWork (scaDomain g.core) s) := by
  simp only [meetSignal, signalServed_of_serves hop hg hs]

/-- A new signal that passes the checks is applied, or held (R177). -/
theorem exec_signal {r : Released} {g : Region} {s u : State} (h : FreshRequest 0x06 r s) (hrole : s.boot.role = .e)
    (hu : targetChecks r false (taken r s) = (.pass g, u)) :
    exec .signal s = .next (resume (if holdMet r u then meetSignal r u else holdRequest r u)) := by
  have he : exec .signal s = .next (serveOp 0x06 s) := rfl
  have hj := h.judged (by simp [hrole]) rfl
  rw [he, serveOp_fresh h, performRequest_passed hj hu]
  rfl

/-! ### Fences (R172) -/

/-- A new fence of a valid scope is answered, or held (R172). -/
theorem exec_fence {r : Released} {s : State} (h : FreshRequest 0x07 r s) (hrole : s.boot.role ≠ .s)
    (hshape : shapeOk 7 r.inner.modifier r.inner.regionKey r.inner.offset r.inner.opLength.toNat = true) :
    exec .fence s = .next (resume
      (if holdMet r (taken r s) then completeRequest r .ok 0 [] (taken r s) else holdRequest r (taken r s))) := by
  have he : exec .fence s = .next (serveOp 0x07 s) := rfl
  have hop : r.inner.opcode = 7 := h.opcode
  have hrole' : (decide (s.boot.role = .s) || decide (s.boot.role = .t) && decide ((7 : BitVec 8) = 6)) = false := by
    simpa using hrole
  rw [he, serveOp_fresh h]
  simp only [performRequest, hop, taken_boot, hrole', hshape]
  rfl

/-! ### The hold queue (R172, R177, R178) -/

/-- A request leaves the hold queue. -/
def leaveHold (h : Held) (s : State) : State := { s with fau := { s.fau with hold := s.fau.hold.erase h } }

theorem holdOver_of_met {h : Held} {s : State} (hm : holdMet h.rel s = true) (hf : isFrozen s h.rel.polder = false) :
    holdOver h s = true := by
  rw [holdOver, hm, hf]
  rfl

/-- A held signal is released once what it waits for is done (R177). -/
theorem exec_signalHoldRelease {n : Nat} {h : Held} {s : State} (hn : s.fau.hold[n]? = some h) (hf : h.isFence = false)
    (hm : holdMet h.rel s = true) (hthawed : isFrozen s h.rel.polder = false) :
    exec (.signalHoldRelease n) s = .next (resume (releaseHold h s)) := by
  simp only [exec, execSignalHoldRelease, hn, hf, holdOver_of_met hm hthawed, Bool.not_false, Bool.and_self, if_true]

/-- So is a held fence (R172). -/
theorem exec_fenceAnswerRelease {n : Nat} {h : Held} {s : State} (hn : s.fau.hold[n]? = some h) (hf : h.isFence = true)
    (hm : holdMet h.rel s = true) (hthawed : isFrozen s h.rel.polder = false) :
    exec (.fenceAnswerRelease n) s = .next (resume (releaseHold h s)) := by
  simp only [exec, execFenceAnswerRelease, hn, hf, holdOver_of_met hm hthawed, Bool.and_self, if_true]

/-- A held fence whose answer has room is answered. -/
theorem releaseHold_fence {h : Held} {s : State} (ha : answerRoom h.rel s = true) (hf : h.isFence = true) :
    releaseHold h s = completeRequest h.rel .ok 0 [] (leaveHold h s) := by
  simp only [releaseHold, ha, hf, Bool.not_true, Bool.false_eq_true, if_false, if_true]
  rfl

/-- A held signal whose answer has room and whose SCA bank serves is applied. -/
theorem releaseHold_signal {h : Held} {g : Region} {s : State} (ha : answerRoom h.rel s = true) (hf : h.isFence = false)
    (hop : h.rel.inner.opcode = 6) (hg : findRegion s (keyIndex h.rel.inner.regionKey) = some g)
    (hs : serves s (scaDomain g.core) = true) :
    releaseHold h s = answerSignal h.rel (leaveHold h (markWork (scaDomain g.core) s)) := by
  simp only [releaseHold, ha, hf, signalServed_of_serves hop hg hs, Bool.not_true, Bool.false_eq_true, if_false]
  rfl

/-- An entry of the hold queue is discarded, counted, and recorded (R178). -/
def discardHeld (n : Nat) (h : Held) (s : State) : State :=
  writeFault .fauHoldDiscard
    { unit := fauUnit, polder := h.rel.polder, peer := some h.rel.src,
      detail := leBytes 4 h.rel.inner.seq.toNat ++ leBytes 4 h.rel.inner.aux.toNat }
    { s with fau := { s.fau with hold := removeAt n s.fau.hold, discards := satInc s.fau.discards } }

/-- What has been held for 2 ms is discarded. -/
theorem exec_holdQueueDiscard {n : Nat} {h : Held} {s : State} (hn : s.fau.hold[n]? = some h)
    (ht : h.at_ + 2000000 ≤ s.time) : exec (.holdQueueDiscard n) s = .next (resume (discardHeld n h s)) := by
  simp only [exec, execHoldQueueDiscard, hn, if_pos ht]
  rfl

/-- Settles O19: a new signal or fence by what holding it turns on, a held one by releaseHold. -/
theorem signalsAndFencesComplete : Obligations.SignalsAndFencesComplete := by
  refine ⟨?signal, ?held, ?fence, ?released, ?answered, ?discarded⟩
  case signal =>
    intro r g c s u h hrole hu hmet hg hc hp hst hn hserves i hfit
    have hadd := applySignal_adds (s := markWork (scaDomain g.core) u) hc hp hst hn hfit
    have hanswer := answerSignal_of_region (s := markWork (scaDomain g.core) u) hg
    rw [exec_signal h hrole hu, if_pos hmet, meetSignal_of_serves h.opcode hg hserves, hanswer, hadd]
    rfl
  case held =>
    intro r g s u h hrole hu hmet
    rw [exec_signal h hrole hu, hmet]
    rfl
  case fence =>
    intro r s h hrole _ hshape
    rw [exec_fence h hrole hshape]
    exact ⟨fun hm => by rw [if_pos hm], fun hm => by rw [hm]; rfl⟩
  case released =>
    intro n h g s hn hf hop hm hthawed ha hg hs u
    rw [exec_signalHoldRelease hn hf hm hthawed, releaseHold_signal ha hf hop hg hs]
    rfl
  case answered =>
    intro n h s hn hf hm hthawed ha
    rw [exec_fenceAnswerRelease hn hf hm hthawed, releaseHold_fence ha hf]
    rfl
  case discarded =>
    intro n h s hn ht
    exact ⟨_, exec_holdQueueDiscard hn ht, by simp [discardHeld], by simp [discardHeld], by simp [discardHeld]⟩

end Sys2Proof.Machine
end

section
/-! SUPPORT. What the tables of the target do (R142, R167, R169, R181), and the statement about them. -/

namespace Sys2Proof.Machine

/-- An acknowledged write whose answer has room is answered (R169). -/
theorem acknowledged_of_room {x : Unacked} {s : State} (h : answerRoom x.rel s = true) :
    acknowledged x s = (let u := { s with fau := { s.fau with unacked := s.fau.unacked.erase x } }
      sendCompletion x.rel x.status x.flags (oldBytes x.rel x.status x.old)
        (enterAnswer x.rel x.status x.flags x.old u)) := by
  simp only [acknowledged, h, Bool.not_true, Bool.false_eq_true, if_false]

/-- One whose answer has none waits for it, and the wait is counted once (R167, R181). -/
theorem acknowledged_of_full {x : Unacked} {s : State} (h : answerRoom x.rel s = false) :
    acknowledged x s = countRoom x.rel x.noRoom { s with fau := { s.fau with
      unacked := alter (fun y => y = x) (fun y => { y with noRoom := true }) s.fau.unacked } } := by
  simp only [acknowledged, h, Bool.not_false, if_true]

theorem exec_writeAcknowledged {n : Nat} {x : Unacked} {s : State} (h : s.fau.unacked[n]? = some x) :
    exec (.writeAcknowledged n) s = .next (resume (acknowledged x s)) := by
  simp only [exec, execWriteAcknowledged, h]

/-- An answer leaves the log 2 ms after it was written (R167). -/
theorem exec_answerLogExpiry {n : Nat} {a : Answer} {s : State} (h : s.fau.answers[n]? = some a)
    (ht : a.at_ + 2000000 ≤ s.time) : exec (.answerLogExpiry n) s
      = .next (resume { s with fau := { s.fau with answers := removeAt n s.fau.answers } }) := by
  simp only [exec, execAnswerLogExpiry, h, if_pos ht]

/-- Until then, the log is as it was. -/
theorem exec_answerLogExpiry_early {n : Nat} {s : State}
    (h : ∀ a, s.fau.answers[n]? = some a → s.time < a.at_ + 2000000) : exec (.answerLogExpiry n) s = .next s := by
  simp only [exec, execAnswerLogExpiry]
  cases ha : s.fau.answers[n]? with
  | none => rfl
  | some a => simp only [if_neg (Nat.not_le.2 (h a ha))]

/-- An entry leaves the replay table 2 ms after it was written (R181). -/
theorem exec_replayEntryExpiry {n : Nat} {a : Replay} {s : State} (h : s.fau.replays[n]? = some a)
    (ht : a.at_ + 2000000 ≤ s.time) : exec (.replayEntryExpiry n) s
      = .next (resume { s with fau := { s.fau with replays := removeAt n s.fau.replays } }) := by
  simp only [exec, execReplayEntryExpiry, h, if_pos ht]

/-- A region that is being withdrawn, and that no request is past the checks of, leaves the table (R142). -/
theorem exec_regionWithdrawDrained {i : BitVec 14} {g : Region} {s : State} (hg : findRegion s i.toNat = some g)
    (hw : g.withdrawing = true) (hu : regionInUse g.index s = false) : exec (.regionWithdrawDrained i) s
      = .next (settleMemobjs (finishAll g.waiters .ok (removeRegion g s))) := by
  simp only [exec, execRegionWithdrawDrained, hg, hw, hu, Bool.not_false, Bool.and_self, if_true]

/-- Settles O20: an acknowledged write by whether its answer has room, an expiry by whether its 2 ms are over. -/
theorem targetTablesComplete : Obligations.TargetTablesComplete :=
  ⟨fun n x s hx ha => by rw [exec_writeAcknowledged hx, acknowledged_of_room ha],
    fun n x s hx ha => by rw [exec_writeAcknowledged hx, acknowledged_of_full ha],
    fun n a s => exec_answerLogExpiry, fun n a s => exec_replayEntryExpiry, fun n s => exec_answerLogExpiry_early,
    fun i g s => exec_regionWithdrawDrained⟩

end Sys2Proof.Machine
end

section
/-! SUPPORT. What the engines make of the oldest descriptor of each kind (R135, R239, R267, R373, R387 to R389, R406, R407,
R437), and the statement about them. -/

namespace Sys2Proof.Machine

/-- A descriptor is the oldest of its kind in a queue, begun by no engine, and its queue's context is here. -/
structure OldestOf (kind : Nat) (queue : BitVec 8) (d : Started) (q : Queue) (x : Context) (s : State) : Prop where
  running : running s = true
  next : nextOfKind s queue kind = some d
  queue : findQueue s queue = some q
  context : findContext s q.context = some x

/-- A descriptor as its engine takes it: its domains have work, and it has begun (R41). -/
def begunAt (domains : List DomainId) (queue : BitVec 8) (d : Started) (s : State) : State :=
  beginDescriptor queue d.index (domains.foldl (fun t e => markWork e t) s)

@[simp] theorem begunAt_time (domains : List DomainId) (queue : BitVec 8) (d : Started) (s : State) :
    (begunAt domains queue d s).time = s.time :=
  foldl_frame (A := [.power]) _ domains s (agree_refl _ s) (fun t e ht => markWork_frame e t ht rfl) .time rfl

/-! ### Remote operations (R135, R406) -/

/-- The FAU takes the oldest remote operation of the queue whose turn it is. -/
theorem exec_remoteOp {queue : BitVec 8} {d : Started} {s : State} (hn : nextOfKind s queue 1 = some d)
    (hr : running s = true) (hf : fauServes s = true)
    (ht : engineTurn (fun q => (nextOfKind s q 1).isSome) s.obj.lastIssue queue s = true) :
    exec (.remoteOp queue) s = .next (takeRemote queue d (atFau s)) := by
  simp only [exec, execRemoteOp, hn, hr, ht, withFau_of_serves hf, Bool.not_true, Bool.or_self, Bool.false_eq_true,
    if_false]

theorem exec_remoteOp_later {queue : BitVec 8} {s : State}
    (ht : engineTurn (fun q => (nextOfKind s q 1).isSome) s.obj.lastIssue queue s = false) :
    exec (.remoteOp queue) s = .next s := by
  simp only [exec, execRemoteOp, ht, Bool.not_false, Bool.or_true, if_true]
  cases nextOfKind s queue 1 <;> rfl

/-! ### Launches (R239 to R241) -/

/-- The participant that a launch descriptor makes of this instance. -/
def newParticipant (queue : BitVec 8) (d : Started) (x : Context) (s : State) : Participant :=
  { launch := descLaunch d.data x.polder, context := x.id, cls := x.cls, queue := queue, index := d.index
    ctag := descCtag d.data, src := BitVec.ofNat 40 (leField d.data 21 5), dst := BitVec.ofNat 40 (leField d.data 26 5)
    fired := false, opened := false, coded := false, sent := 0, acked := 0, credit := 0, second := false
    written := [], through := 0, chunks := 0, writeStatus := none, progressAt := s.time }

/-- This instance becomes a participant. -/
def participate (c : Participant) (s : State) : State :=
  modColl (fun y => { y with participants := y.participants ++ [c] }) s

/-- What a launch that has begun does: it is refused, or it fires at its mark or now. -/
def beginLaunch (queue : BitVec 8) (d : Started) (x : Context) (u : State) : State :=
  let l := descLaunch d.data x.polder
  if launchBad l u then endDescriptor queue d.index .badParam 0 0 u
  else
    match markUse l.mark u with
    | .refused st => endDescriptor queue d.index st 0 0 u
    | use =>
      let v := participate (newParticipant queue d x u) u
      if use = .later then enqueueMark l.mark (.launch l.polder l.id) v else fireLaunch l.polder l.id (countLate l.mark v)

theorem beginLaunch_bad {queue : BitVec 8} {d : Started} {x : Context} {u : State}
    (h : launchBad (descLaunch d.data x.polder) u = true) :
    beginLaunch queue d x u = endDescriptor queue d.index .badParam 0 0 u :=
  if_pos h

theorem beginLaunch_refused {queue : BitVec 8} {d : Started} {x : Context} {st : Status} {u : State}
    (h : launchBad (descLaunch d.data x.polder) u = false) (hu : markUse (descLaunch d.data x.polder).mark u = .refused st) :
    beginLaunch queue d x u = endDescriptor queue d.index st 0 0 u := by
  simp only [beginLaunch, h, hu, Bool.false_eq_true, if_false]

theorem beginLaunch_later {queue : BitVec 8} {d : Started} {x : Context} {u : State}
    (h : launchBad (descLaunch d.data x.polder) u = false) (hu : markUse (descLaunch d.data x.polder).mark u = .later) :
    beginLaunch queue d x u = enqueueMark (descLaunch d.data x.polder).mark
      (.launch x.polder (descLaunch d.data x.polder).id) (participate (newParticipant queue d x u) u) := by
  simp only [beginLaunch, h, hu, Bool.false_eq_true, if_false, if_true]
  rfl

theorem beginLaunch_now {queue : BitVec 8} {d : Started} {x : Context} {u : State}
    (h : launchBad (descLaunch d.data x.polder) u = false) (hu : markUse (descLaunch d.data x.polder).mark u = .now) :
    beginLaunch queue d x u = fireLaunch x.polder (descLaunch d.data x.polder).id
      (countLate (descLaunch d.data x.polder).mark (participate (newParticipant queue d x u) u)) := by
  simp only [beginLaunch, h, hu, Bool.false_eq_true, if_false, reduceCtorEq]
  rfl

/-- A launch for which there is room, and whose RMU and domains take work, begins. -/
theorem exec_collectiveLaunch {queue : BitVec 8} {d : Started} {q : Queue} {x : Context} {s : State}
    (h : OldestOf 2 queue d q x s) (hroom : s.coll.participants.length < 32)
    (hhung : hungFor s (rmuUnit s (descLaunch d.data x.polder).id) (some x.id) = false)
    (hserves : ∀ e ∈ collDomains s (descLaunch d.data x.polder).id false, serves s e = true) :
    exec (.collectiveLaunch queue) s
      = .next (beginLaunch queue d x (begunAt (collDomains s (descLaunch d.data x.polder).id false) queue d s)) := by
  obtain ⟨hr, hn, hq, hc⟩ := h
  simp only [exec, execCollectiveLaunch, hr, hn, hq, hc, hhung, withDomains_of_serves hserves,
    decide_eq_false (Nat.not_le.2 hroom), Bool.not_true, Bool.or_self, Bool.false_eq_true, if_false]
  rfl

/-! ### Arrivals at a barrier (R267, R268) -/

/-- The arrival that a descriptor asks for. -/
def newArrival (queue : BitVec 8) (d : Started) (x : Context) (s : State) : Arrival :=
  { polder := x.polder, group := BitVec.ofNat 16 (leField d.data 8 2), id := BitVec.ofNat 32 (leField d.data 16 4)
    context := x.id, cls := x.cls, queue := queue, index := d.index, ctag := descCtag d.data
    core := BitVec.ofNat 9 (leField d.data 10 2), counter := BitVec.ofNat 6 (leField d.data 12 1)
    increment := BitVec.ofNat 32 (leField d.data 20 4), start := s.time, lastTx := s.time }

/-- An arrival for which there is room, and whose domains serve, begins, or is refused. -/
theorem exec_barrierArrive {queue : BitVec 8} {d : Started} {q : Queue} {x : Context} {s : State}
    (h : OldestOf 3 queue d q x s) (hroom : s.bars.arrivals.length < 32)
    (hserves : ∀ e ∈ collDomains s (BitVec.ofNat 32 (leField d.data 16 4)) true, serves s e = true) :
    exec (.barrierArrive queue) s = .next
      (let u := begunAt (collDomains s (BitVec.ofNat 32 (leField d.data 16 4)) true) queue d s
       if arrivalBad d.data x u then endDescriptor queue d.index .badParam 0 0 u
       else beginArrival (newArrival queue d x u) u) := by
  obtain ⟨hr, hn, hq, hc⟩ := h
  simp only [exec, execBarrierArrive, hr, hn, hq, hc, withDomains_of_serves hserves, decide_eq_false (Nat.not_le.2 hroom),
    Bool.not_true, Bool.or_self, Bool.false_eq_true, if_false]
  rfl

/-- An arrival whose packet is sent, or waits, is in progress. -/
theorem beginArrival_sent {a : Arrival} {g : Group} {s t : State}
    (hg : usableGroup (modBars (fun b => { b with arrivals := b.arrivals ++ [a] }) s) a.polder a.group = some g)
    (hs : sendPacket (barrierPacket g a.id a.cls true
      (toInst (ownLeaf g (modBars (fun b => { b with arrivals := b.arrivals ++ [a] }) s))) 0 0 .ok false
      (.barrier a.polder a.id)) (modBars (fun b => { b with arrivals := b.arrivals ++ [a] }) s) = (none, t)) :
    beginArrival a s = t := by
  simp only [beginArrival, hg, hs]

/-! ### Steps (R407, R437) -/

/-- A STEP_BEGIN of a fatal polder ends ST_SQUASHED (R437). -/
theorem exec_stepBegin_fatal {queue : BitVec 8} {d : Started} {q : Queue} {x : Context} {s : State}
    (h : OldestOf 4 queue d q x s) (hf : isFatal s x.polder = true) :
    exec (.stepBegin queue) s = .next (endDescriptor queue d.index .squashed 0 0 s) := by
  obtain ⟨hr, hn, hq, hc⟩ := h
  simp only [exec, execStepBegin, hr, hn, hq, hc, hf, Bool.not_true, Bool.false_eq_true, if_false, if_true]

/-- What a STEP_BEGIN holds its context with. -/
def newHold (queue : BitVec 8) (d : Started) : StepHold :=
  { queue := queue, index := d.index, step := BitVec.ofNat 64 (leField d.data 16 8)
    mark := BitVec.ofNat 64 (leField d.data 24 8), atBoundary := false, due := false }

/-- Another STEP_BEGIN holds its context, where none does yet (R407). -/
theorem exec_stepBegin_holds {queue : BitVec 8} {d : Started} {q : Queue} {x : Context} {s : State}
    (h : OldestOf 4 queue d q x s) (hh : x.hold = none) (hf : isFatal s x.polder = false) :
    exec (.stepBegin queue) s = .next (modContext x.id (fun y => { y with hold := some (newHold queue d) })
      (beginDescriptor queue d.index s)) := by
  obtain ⟨hr, hn, hq, hc⟩ := h
  simp only [exec, execStepBegin, hr, hn, hq, hc, hf, hh, Option.isSome_none, Bool.not_true, Bool.false_eq_true, if_false]
  rfl

/-- A context found after a change of it is the change of the one found before. -/
theorem findContext_modContext {c : CtxId} {f : Context → Context} (h : ∀ y, (f y).id = y.id) (s : State) :
    findContext (modContext c f s) c = (findContext s c).map f :=
  find?_alter (p := fun y : Context => y.id = c) (f := f) (fun y hy => by simpa [h] using hy) s.obj.contexts

theorem id_of_findContext {c : CtxId} {x : Context} {s : State} (h : findContext s c = some x) : x.id = c := by
  simpa using List.find?_some h

/-! ### Fences (R373, R388) -/

/-- The oldest descriptor of a queue raises the fence that it names, no value below the fence's. -/
theorem exec_fenceSignal {queue : BitVec 8} {d : Started} {q : Queue} {f : FenceObj} {s : State} (hr : running s = true)
    (hn : nextOfKind s queue 5 = some d) (hq : findQueue s queue = some q) (ho : isOldest s queue d.index = true)
    (hf : descFence d.data q.context s = some f) (hv : f.value.toNat ≤ (BitVec.ofNat 64 (leField d.data 16 8)).toNat) :
    exec (.fenceSignal queue) s
      = .next (raiseFence f.id (BitVec.ofNat 64 (leField d.data 16 8)) (endDescriptor queue d.index .ok 0 0 s)) := by
  simp only [exec, execFenceSignal, hr, hn, hq, ho, hf, if_neg (Nat.not_lt.2 hv), Bool.not_true, Bool.or_self,
    Bool.false_eq_true, if_false]

/-- A wait on a fence ends where the fence has its target, or waits there. -/
theorem exec_fenceWait {queue : BitVec 8} {d : Started} {q : Queue} {f : FenceObj} {s : State} (hr : running s = true)
    (hn : nextOfKind s queue 6 = some d) (hq : findQueue s queue = some q) (hf : descFence d.data q.context s = some f) :
    exec (.fenceWait queue) s = .next
      (if (BitVec.ofNat 64 (leField d.data 16 8)).toNat ≤ f.value.toNat then endDescriptor queue d.index .ok 0 0 s
       else modFence f.id (fun x => { x with waits := x.waits ++
           [{ queue := queue, index := d.index, target := BitVec.ofNat 64 (leField d.data 16 8) }] })
         (beginDescriptor queue d.index s)) := by
  simp only [exec, execFenceWait, hr, hn, hq, hf, Bool.not_true, Bool.false_eq_true, if_false]

/-! ### Bulk copies (R389, R406) -/

/-- The bulk mover moves nothing of a queue whose turn it is not. -/
theorem exec_bulkCopy_later {queue : BitVec 8} {s : State} (ht : engineTurn (copyReady s) s.obj.lastCopy queue s = false) :
    exec (.bulkCopy queue) s = .next s := by
  simp only [exec, execBulkCopy, ht, Bool.not_false, Bool.or_true, if_true]
  split
  · split <;> rfl
  · rfl

/-- The bulk mover moves a unit of a queue's next copy at the queue's turn. -/
theorem exec_bulkCopy {queue : BitVec 8} {d : Started} {q : Queue} {x : Context} {s : State} (hr : running s = true)
    (hn : nextCopy s queue = some d) (hq : findQueue s queue = some q) (hc : findContext s q.context = some x)
    (hthawed : isFrozen s x.polder = false) (hhung : hungFor s 0x0900 (some x.id) = false)
    (ht : engineTurn (copyReady s) s.obj.lastCopy queue s = true) :
    exec (.bulkCopy queue) s = .next (moveUnit queue d x s) := by
  simp only [exec, execBulkCopy, hr, hn, hq, hc, hthawed, hhung, ht, Bool.not_true, Bool.or_self, Bool.false_eq_true,
    if_false]

/-- A copy of a valid shape goes on with its next unit, and a reset that waited for it goes on. -/
theorem moveUnit_of_shape {queue : BitVec 8} {d : Started} {x : Context} {s : State} (hlen : leField d.data 24 8 ≠ 0)
    (hshape : copyBad (leField d.data 8 5) (leField d.data 16 5) (leField d.data 24 8) = false) :
    moveUnit queue d x s = settleReset x.id (resumeHeld (performCopy queue d x (leField d.data 8 5) (leField d.data 16 5)
      (leField d.data 24 8) (modObj (fun o => { o with copiedAt := s.time }) (beginDescriptor queue d.index s)))) := by
  simp only [moveUnit, if_neg hlen, hshape, Bool.false_eq_true, if_false]

theorem copyLeaves_of_le {addr len : Nat} (h : addr + len ≤ 2 ^ 40) (c : CtxId) (p : PolderId) (write : Bool) (s : State) :
    copyLeaves c p addr len write s = none :=
  if_neg (Nat.not_lt.2 h)

/-- A unit whose source and destination meet no check is copied. -/
theorem performCopy_ready {queue : BitVec 8} {d : Started} {x : Context} {src dst len : Nat} {u v w : State}
    (hsrc : src + len ≤ 2 ^ 40) (hdst : dst + len ≤ 2 ^ 40)
    (hv : localCheck (.copy queue d.index) x.id x.polder (src + d.done) (min 65536 (len - d.done)) false u = (.ready, v))
    (hw : localCheck (.copy queue d.index) x.id x.polder (dst + d.done) (min 65536 (len - d.done)) true v = (.ready, w)) :
    performCopy queue d x src dst len u = unitCopied queue d len (min 65536 (len - d.done))
      (copyRange x.polder (src + d.done) (dst + d.done) (min 65536 (len - d.done)) w) := by
  simp only [performCopy, moverUnit, copyLeaves_of_le hsrc, copyLeaves_of_le hdst, hv, hw]

/-- Settles O38: each kind by the lemma of its command above. -/
theorem descriptorsComplete : Obligations.DescriptorsComplete := by
  refine ⟨?remote, ?launch, ?arrival, ?fatal, ?step, ?signal, ?wait, ?copy, fun queue s => exec_bulkCopy_later⟩
  case remote =>
    exact fun queue d s hn hr hf => ⟨exec_remoteOp hn hr hf, exec_remoteOp_later⟩
  case launch =>
    intro queue d q x s hr hroom hn hq hc l u hhung hserves
    have he : exec (.collectiveLaunch queue) s = .next (beginLaunch queue d x u) :=
      exec_collectiveLaunch ⟨hr, hn, hq, hc⟩ hroom hhung hserves
    rw [he]
    exact ⟨fun hb => congrArg _ (beginLaunch_bad hb), fun hb st hu => congrArg _ (beginLaunch_refused hb hu), fun hb =>
      ⟨newParticipant queue d x u, rfl, rfl, rfl, rfl, rfl, rfl, fun hu => congrArg _ (beginLaunch_later hb hu),
        fun hu => congrArg _ (beginLaunch_now hb hu)⟩⟩
  case arrival =>
    intro queue d q x s hr hroom hn hq hc p id u hserves
    have he : exec (.barrierArrive queue) s = .next (if arrivalBad d.data x u
        then endDescriptor queue d.index .badParam 0 0 u else beginArrival (newArrival queue d x u) u) :=
      exec_barrierArrive ⟨hr, hn, hq, hc⟩ hroom hserves
    refine ⟨fun hb => by rw [he, if_pos hb], fun hb => ?_⟩
    refine ⟨newArrival queue d x u, rfl, rfl, rfl, rfl, rfl, rfl, begunAt_time _ queue d s, fun g t => ?_⟩
    intro v hg ht
    rw [he, hb]
    exact congrArg _ (beginArrival_sent hg ht)
  case fatal => exact fun queue d q x s hr hn hq hc => exec_stepBegin_fatal ⟨hr, hn, hq, hc⟩
  case step =>
    intro queue d q x s hr hn hq hc hh hf h
    refine ⟨_, exec_stepBegin_holds ⟨hr, hn, hq, hc⟩ hh hf, ?_⟩
    have hx : findContext (beginDescriptor queue d.index s) x.id = some x := by
      rw [id_of_findContext hc]
      exact hc
    exact (findContext_modContext (f := fun y => { y with hold := some h }) (fun _ => rfl) _).trans
      (congrArg (Option.map _) hx)
  case signal => exact fun queue d q f s => exec_fenceSignal
  case wait =>
    intro queue d q f s hr hn hq hf target
    rw [exec_fenceWait hr hn hq hf]
    exact ⟨fun ht => by rw [if_pos ht], fun ht => by rw [if_neg (Nat.not_le.2 ht)]⟩
  case copy =>
    intro queue d q x s v w hr hn hq hc hthawed hhung hturn src dst len n u hlen hshape hsrc hdst hv hw c
    rw [exec_bulkCopy hr hn hq hc hthawed hhung hturn, moveUnit_of_shape hlen hshape,
      performCopy_ready hsrc hdst hv hw]
    rfl

end Sys2Proof.Machine
end

section
/-! SUPPORT. What ends when the fabric reports an instance unreachable (R156, R254, R518), and the statement about it. -/

namespace Sys2Proof.Machine

/-! ### Folds over the state -/

/-- What a fold's step leaves, the fold leaves. -/
theorem foldl_keeps {α β : Type} {f : State → β} {g : State → α → State} (h : ∀ t a, f (g t a) = f t) (l : List α)
    (s : State) : f (l.foldl g s) = f s := by
  induction l generalizing s with
  | nil => rfl
  | cons a l ih => rw [List.foldl_cons, ih, h]

/-- A fold whose step filters a list by its element leaves what no element filters out. -/
theorem mem_foldl_filter {α β : Type} {f : State → List β} {g : State → α → State} {same : α → β → Bool}
    (h : ∀ t a, f (g t a) = (f t).filter fun b => !same a b) (l : List α) (s : State) {b : β}
    (hb : b ∈ f (l.foldl g s)) : b ∈ f s ∧ ∀ a ∈ l, same a b = false := by
  induction l generalizing s with
  | nil => exact ⟨hb, by simp⟩
  | cons a l ih =>
    obtain ⟨hmem, hl⟩ := ih (g s a) hb
    rw [h, List.mem_filter, Bool.not_eq_true'] at hmem
    exact ⟨hmem.1, List.forall_mem_cons.2 ⟨hmem.2, hl⟩⟩

/-- What one step of a fold puts out stands at its end, if the steps take nothing back. -/
theorem mem_out_foldl {α : Type} {g : State → α → State} (hg : ∀ t x, t.out ⊆ (g t x).out) {l : List α} {a : α}
    (ha : a ∈ l) {o : Output} (ho : ∀ t, o ∈ (g t a).out) (s : State) : o ∈ (l.foldl g s).out := by
  induction l generalizing s with
  | nil => simp at ha
  | cons x l ih =>
    obtain rfl | hl := List.mem_cons.1 ha
    · exact out_subset_foldl hg l _ (ho s)
    · exact ih hl (g s x)

/-! ### Outputs of what ends -/

theorem out_subset_finish (o : Origin) (tag : BitVec 32) (st : Status) (payload : Bytes) (s : State) :
    s.out ⊆ (finish o tag st payload s).out := by
  unfold finish
  dsimp only
  split
  · exact List.Subset.refl _
  · split
    · exact List.Subset.refl _
    · refine List.Subset.trans ?_ (out_subset_postEvent ..)
      exact List.Subset.refl _

theorem out_subset_finishAll (l : List (Origin × BitVec 32)) (st : Status) (s : State) :
    s.out ⊆ (finishAll l st s).out :=
  out_subset_foldl (fun _ _ => out_subset_finish ..) l s

theorem out_subset_settleQueue (q : BitVec 8) (s : State) : s.out ⊆ (settleQueue q s).out := by
  unfold settleQueue
  split
  · exact List.Subset.refl _
  · extract_lets ctx
    split
    · refine List.Subset.trans ?_ (out_subset_finishAll ..)
      exact List.Subset.refl _
    · exact List.Subset.refl _

theorem out_subset_endDescriptor (q : BitVec 8) (idx : BitVec 12) (st : Status) (result : BitVec 64) (flags : BitVec 6)
    (s : State) : s.out ⊆ (endDescriptor q idx st result flags s).out := by
  unfold endDescriptor
  split
  · exact List.Subset.refl _
  · split
    · exact List.Subset.refl _
    · extract_lets ended p traced
      have htraced : s.out ⊆ traced.out := by
        unfold traced
        rw [emitTrace_out]
        exact List.Subset.refl _
      exact List.Subset.trans htraced (List.Subset.trans (out_subset_postEvent ..) (out_subset_settleQueue ..))

theorem out_subset_answerOp (c : CtxId) (ctag : BitVec 16) (src : OpSource) (st : Status) (result : BitVec 64)
    (flags : BitVec 6) (s : State) : s.out ⊆ (answerOp c ctag src st result flags s).out := by
  cases src
  · exact out_subset_emit ..
  · exact out_subset_endDescriptor ..

theorem out_subset_finishOp (o : OutOp) (st : Status) (result : BitVec 64) (flags : BitVec 6) (s : State) :
    s.out ⊆ (finishOp o st result flags s).out := by
  unfold finishOp
  dsimp only
  split
  · exact List.Subset.refl _
  · exact out_subset_answerOp _ _ _ _ _ _ (dropOp o.id s)

theorem out_subset_failTo (o : OutOp) (m : InstId) (st : Status) (s : State) : s.out ⊆ (failTo o m st s).out := by
  unfold failTo settleMember
  dsimp only
  split
  · split
    · exact out_subset_finishOp ..
    · exact List.Subset.refl _
  · exact out_subset_finishOp ..

/-- A core's operation that is no fence packet, failing at its one target, is answered to the core. -/
theorem failTo_answers {o : OutOp} (hg : destIsGroup o.dest = false) (hf : o.fence = none) (hc : o.source = .core)
    (m : InstId) (st : Status) (s : State) : .remoteAnswer o.req.context o.req.ctag st 0 ∈ (failTo o m st s).out := by
  simp [failTo, hg, finishOp, hf, hc, answerOp, emit]

/-! ### Operations that end (R156) -/

@[simp] theorem answerOp_fau (c : CtxId) (ctag : BitVec 16) (src : OpSource) (st : Status) (result : BitVec 64)
    (flags : BitVec 6) (s : State) : (answerOp c ctag src st result flags s).fau = s.fau := by
  cases src
  · rfl
  · exact endDescriptor_frame (A := [.out, .obj, .fns, .tracer, .free]) _ _ _ _ _ s (agree_refl _ s) rfl .fau rfl

/-- An operation that ends leaves the table, with every other of its number. -/
theorem finishOp_ops (o : OutOp) (st : Status) (result : BitVec 64) (flags : BitVec 6) (s : State) :
    (finishOp o st result flags s).fau.ops = s.fau.ops.filter fun x => x.id ≠ o.id := by
  unfold finishOp
  dsimp only
  split
  · rfl
  · rw [answerOp_fau]
    rfl

@[simp] theorem finishOp_dead (o : OutOp) (st : Status) (result : BitVec 64) (flags : BitVec 6) (s : State) :
    (finishOp o st result flags s).fau.dead = s.fau.dead := by
  unfold finishOp
  dsimp only
  split
  · rfl
  · rw [answerOp_fau]
    rfl

@[simp] theorem failTo_dead (o : OutOp) (m : InstId) (st : Status) (s : State) :
    (failTo o m st s).fau.dead = s.fau.dead := by
  unfold failTo settleMember
  dsimp only
  split
  · split
    · exact finishOp_dead ..
    · rfl
  · exact finishOp_dead ..

/-- After an operation fails at an instance, those of its number do not await the instance, and the others stand. -/
theorem ops_of_failTo {o x : OutOp} {m : InstId} {st : Status} {s : State} (h : x ∈ (failTo o m st s).fau.ops) :
    x ∈ s.fau.ops ∧ x.id ≠ o.id ∨ m ∉ x.awaiting := by
  unfold failTo settleMember at h
  dsimp only at h
  split at h
  · split at h
    · rw [finishOp_ops, List.mem_filter, decide_eq_true_eq] at h
      exact .inl h
    · rw [alter, List.mem_map] at h
      obtain ⟨y, hy, rfl⟩ := h
      by_cases hid : y.id = o.id
      · exact .inr (by simp [hid])
      · exact .inl (by simpa [hid] using hy)
  · rw [finishOp_ops, List.mem_filter, decide_eq_true_eq] at h
    exact .inl h

theorem mem_ops_failTo {o x : OutOp} {s : State} (h : x ∈ s.fau.ops) (hid : o.id ≠ x.id) (m : InstId) (st : Status) :
    x ∈ (failTo o m st s).fau.ops := by
  have hfilter : x ∈ s.fau.ops.filter fun y => y.id ≠ o.id := List.mem_filter.2 ⟨h, decide_eq_true hid.symm⟩
  unfold failTo settleMember
  dsimp only
  split
  · split
    · rwa [finishOp_ops]
    · exact List.mem_map.2 ⟨x, h, if_neg (by simpa using hid.symm)⟩
  · rwa [finishOp_ops]

/-- Operations fail at an instance, one after another. -/
def failAll (m : InstId) (hit : List OutOp) (s : State) : State := hit.foldl (fun t o => failTo o m .targetDead t) s

theorem ops_of_failAll {m : InstId} {hit : List OutOp} {x : OutOp} {s : State} (h : x ∈ (failAll m hit s).fau.ops) :
    (x ∈ s.fau.ops ∧ ∀ o ∈ hit, o.id ≠ x.id) ∨ m ∉ x.awaiting := by
  induction hit generalizing s with
  | nil => exact .inl ⟨h, by simp⟩
  | cons o hit ih =>
    obtain ⟨hx, hhit⟩ | hm := ih h
    · exact (ops_of_failTo hx).imp_left fun ⟨hs, ho⟩ => ⟨hs, List.forall_mem_cons.2 ⟨ho.symm, hhit⟩⟩
    · exact .inr hm

theorem mem_ops_failAll {m : InstId} {hit : List OutOp} {x : OutOp} {s : State} (h : x ∈ s.fau.ops)
    (hid : ∀ o ∈ hit, o.id ≠ x.id) : x ∈ (failAll m hit s).fau.ops := by
  induction hit generalizing s with
  | nil => exact h
  | cons o hit ih =>
    obtain ⟨ho, hhit⟩ := List.forall_mem_cons.1 hid
    exact ih (mem_ops_failTo h ho m _) hhit

/-- The polders with a load outstanding to a dead instance are fatal, with a record each (R157). -/
def recordDeadLoads (m : InstId) (hit : List OutOp) (s : State) : State :=
  let loads := hit.filter fun o => o.req.opcode = 1 && o.fence.isNone
  (loads.map (·.polder)).eraseDups.foldl (fun t p =>
    let mine := loads.filter fun o => o.polder = p
    match mine with
    | [] => t
    | o :: _ => writeFault .fauLoadTargetDead
        { unit := fauUnit, status := statusCode .targetDead, polder := p, context := some o.req.context, peer := some m,
          count := mine.length, detail := leBytes 4 o.seq.toNat } t) s

@[simp] theorem recordDeadLoads_fau (m : InstId) (hit : List OutOp) (s : State) :
    (recordDeadLoads m hit s).fau = s.fau := by
  refine foldl_keeps (fun t p => ?_) _ s
  extract_lets mine
  clear_value mine
  cases mine
  · rfl
  · exact writeFault_fau ..

theorem out_subset_recordDeadLoads (m : InstId) (hit : List OutOp) (s : State) :
    s.out ⊆ (recordDeadLoads m hit s).out := by
  refine out_subset_foldl (fun t p => ?_) _ s
  extract_lets mine
  clear_value mine
  cases mine
  · exact List.Subset.refl _
  · exact out_subset_writeFault ..

/-- The operations that await an instance. -/
def awaitingOps (m : InstId) (s : State) : List OutOp := s.fau.ops.filter fun o => o.awaiting.contains m

theorem mem_awaitingOps {m : InstId} {o : OutOp} {s : State} :
    o ∈ awaitingOps m s ↔ o ∈ s.fau.ops ∧ m ∈ o.awaiting := by
  rw [awaitingOps, List.mem_filter, List.contains_iff_mem]

/-- An instance is dead to the FAU. -/
def declareUnreachable (m : InstId) (s : State) : State :=
  { s with fau := { s.fau with dead := if s.fau.dead.contains m then s.fau.dead else s.fau.dead ++ [m] } }

/-- What awaits an instance fails there, and the loads of it are recorded (R156, R157). -/
def opsUnreachable (m : InstId) (s : State) : State :=
  recordDeadLoads m (awaitingOps m s) (failAll m (awaitingOps m s) s)

theorem unreachableOps_eq (m : InstId) (s : State) : unreachableOps m s = fauSettle (opsUnreachable m s) := rfl

theorem exec_fabricStatusUnreachable {inst : InstId} {s : State} (hr : running s = true) (hi : inst ≠ s.boot.instanceId) :
    exec (.fabricStatusUnreachable inst) s
      = .next (resume (unreachableColl inst (fauSettle (opsUnreachable inst (declareUnreachable inst s))))) := by
  simp only [exec, execFabricStatusUnreachable, hr, decide_eq_false hi, Bool.not_true, Bool.or_self, Bool.false_eq_true,
    if_false, unreachableOps_eq]
  rfl

theorem declareUnreachable_dead (m : InstId) (s : State) (i : InstId) :
    i ∈ (declareUnreachable m s).fau.dead ↔ i ∈ s.fau.dead ∨ i = m := by
  unfold declareUnreachable
  dsimp only
  split
  · rename_i h
    exact ⟨.inl, fun hi => hi.elim id fun hm => hm ▸ List.contains_iff_mem.1 h⟩
  · simp

theorem opsUnreachable_dead (m : InstId) (s : State) : (opsUnreachable m s).fau.dead = s.fau.dead := by
  rw [opsUnreachable, recordDeadLoads_fau]
  exact foldl_keeps (f := fun t => t.fau.dead) (fun t o => failTo_dead o m .targetDead t) _ s

theorem opsUnreachable_awaits {m : InstId} {s : State} {o : OutOp} (h : o ∈ (opsUnreachable m s).fau.ops) :
    m ∉ o.awaiting := by
  rw [opsUnreachable, recordDeadLoads_fau] at h
  obtain ⟨ho, hid⟩ | hm := ops_of_failAll h
  · exact fun hm => hid o (mem_awaitingOps.2 ⟨ho, hm⟩) rfl
  · exact hm

theorem opsUnreachable_others {m : InstId} {s : State} {o : OutOp} (h : o ∈ s.fau.ops)
    (hid : ∀ p ∈ s.fau.ops, m ∈ p.awaiting → p.id ≠ o.id) : o ∈ (opsUnreachable m s).fau.ops := by
  rw [opsUnreachable, recordDeadLoads_fau]
  exact mem_ops_failAll h fun p hp => hid p (mem_awaitingOps.1 hp).1 (mem_awaitingOps.1 hp).2

theorem opsUnreachable_answers {m : InstId} {s : State} {o : OutOp} (h : o ∈ s.fau.ops) (hm : m ∈ o.awaiting)
    (hg : destIsGroup o.dest = false) (hf : o.fence = none) (hc : o.source = .core) :
    .remoteAnswer o.req.context o.req.ctag .targetDead 0 ∈ (opsUnreachable m s).out :=
  out_subset_recordDeadLoads _ _ _ (mem_out_foldl (fun t x => out_subset_failTo x m .targetDead t)
    (mem_awaitingOps.2 ⟨h, hm⟩) (failTo_answers hg hf hc m .targetDead) s)

/-! ### Collectives that end (R254) -/

theorem settleGroups_keeps {β : Type} {f : State → β} (hr : ∀ g t, f (removeGroup g t) = f t)
    (hf : ∀ l st t, f (finishAll l st t) = f t) (s : State) : f (settleGroups s) = f s :=
  foldl_keeps (fun t g => (hf ..).trans (hr g t)) _ s

@[simp] theorem settleGroups_participants (s : State) : (settleGroups s).coll.participants = s.coll.participants :=
  settleGroups_keeps (f := fun t => t.coll.participants) (fun _ _ => rfl) (fun l st t => by rw [finishAll_coll]) s

@[simp] theorem settleGroups_nodes (s : State) : (settleGroups s).coll.nodes = s.coll.nodes :=
  settleGroups_keeps (f := fun t => t.coll.nodes) (fun _ _ => rfl) (fun l st t => by rw [finishAll_coll]) s

@[simp] theorem endDescriptor_coll (q : BitVec 8) (idx : BitVec 12) (st : Status) (result : BitVec 64) (flags : BitVec 6)
    (s : State) : (endDescriptor q idx st result flags s).coll = s.coll :=
  endDescriptor_frame (A := [.out, .obj, .fns, .tracer, .free]) _ _ _ _ _ s (agree_refl _ s) rfl .coll rfl

/-- A collective that ends at its participant is no participant's any longer; the nodes stay. -/
theorem completePart_coll (c : Participant) (st : Status) (result : Nat) (flags : BitVec 6) (s : State) :
    (completePart c st result flags s).coll.participants
        = s.coll.participants.filter (fun d => !sameColl d.launch c.launch)
      ∧ (completePart c st result flags s).coll.nodes = s.coll.nodes := by
  unfold completePart
  dsimp only
  rw [settleGroups_participants, settleGroups_nodes, endDescriptor_coll, traceColl, emitTrace_coll]
  split <;> exact ⟨rfl, rfl⟩

/-- A node that is freed is no node any longer; the participants stay. -/
theorem freeNode_coll (n : CollNode) (s : State) :
    (freeNode n s).coll.nodes = s.coll.nodes.filter (fun d => !sameColl d.launch n.launch)
      ∧ (freeNode n s).coll.participants = s.coll.participants := by
  unfold freeNode
  dsimp only
  rw [retryLoads_coll, settleGroups_participants, settleGroups_nodes]
  split
  · exact ⟨rfl, rfl⟩
  · rw [writeFault_coll]
    exact ⟨rfl, rfl⟩

/-- The collectives that a test names end at their participants. -/
def endParts (mine : Launch → Bool) (st : Status) (s : State) : State :=
  (s.coll.participants.filter fun c => mine c.launch).foldl (fun t c => completePart c st 0 0 t) s

theorem endColl_eq (mine : Launch → Bool) (st : Status) (s : State) :
    endColl mine st s = ((endParts mine st s).coll.nodes.filter fun n => mine n.launch).foldl (fun t n => freeNode n t)
      (endParts mine st s) := rfl

/-- No participant of the collectives that end is left. -/
theorem endColl_participants {mine : Launch → Bool} {st : Status} {s : State} {c d : Participant}
    (hc : c ∈ s.coll.participants) (hm : mine c.launch = true) (hd : d ∈ (endColl mine st s).coll.participants) :
    sameColl d.launch c.launch = false := by
  rw [endColl_eq, foldl_keeps (f := fun t => t.coll.participants) (fun t n => (freeNode_coll n t).2)] at hd
  exact (mem_foldl_filter (f := fun t => t.coll.participants)
    (same := fun (a : Participant) (b : Participant) => sameColl b.launch a.launch)
    (fun t c => (completePart_coll c st 0 0 t).1) _ s hd).2 c (List.mem_filter.2 ⟨hc, hm⟩)

/-- No node of them is left. -/
theorem endColl_nodes {mine : Launch → Bool} {st : Status} {s : State} {n d : CollNode}
    (hn : n ∈ s.coll.nodes) (hm : mine n.launch = true) (hd : d ∈ (endColl mine st s).coll.nodes) :
    sameColl d.launch n.launch = false := by
  have hnodes : (endParts mine st s).coll.nodes = s.coll.nodes :=
    foldl_keeps (f := fun t => t.coll.nodes) (fun t c => (completePart_coll c st 0 0 t).2) _ s
  rw [endColl_eq] at hd
  exact (mem_foldl_filter (f := fun t => t.coll.nodes)
    (same := fun (a : CollNode) (b : CollNode) => sameColl b.launch a.launch)
    (fun t n => (freeNode_coll n t).1) _ _ hd).2 n (List.mem_filter.2 ⟨hnodes ▸ hn, hm⟩)

/-- Whether the group of a launch names an instance. -/
def launchNames (i : InstId) (s : State) (l : Launch) : Bool :=
  match findGroup s l.polder l.group with
  | some g => groupNames g i
  | none => false

theorem launchNames_of_group {i : InstId} {s : State} {l : Launch} {g : Group}
    (hg : findGroup s l.polder l.group = some g) (hn : groupNames g i = true) : launchNames i s l = true := by
  rw [launchNames, hg]
  exact hn

/-- Of an unreachable instance's collectives, what stays is what ending them leaves. -/
theorem unreachableColl_coll (i : InstId) (s : State) :
    (unreachableColl i s).coll.participants = (endColl (launchNames i s) .targetDead s).coll.participants
      ∧ (unreachableColl i s).coll.nodes = (endColl (launchNames i s) .targetDead s).coll.nodes := by
  unfold unreachableColl
  dsimp only
  rw [settleGroups_participants, settleGroups_nodes]
  exact ⟨rfl, rfl⟩

/-- Settles O14: the operations by what failing them one after another leaves, the collectives by what ending each of them
leaves. -/
theorem fabricStatusCompletes : Obligations.FabricStatusCompletes := by
  refine ⟨fun inst s hr hi => ?_, fun inst l g s hg hn => ⟨?_, ?_⟩, fun inst s hr hi => ?_⟩
  · refine ⟨_, exec_fabricStatusUnreachable hr hi, fun i => ?_, fun _ => opsUnreachable_awaits,
      fun o => opsUnreachable_others (s := declareUnreachable inst s),
      fun o => opsUnreachable_answers (s := declareUnreachable inst s)⟩
    rw [opsUnreachable_dead, declareUnreachable_dead]
  · rintro c hc rfl d hd
    rw [(unreachableColl_coll inst s).1] at hd
    simpa [sameColl] using endColl_participants hc (launchNames_of_group hg hn) hd
  · rintro n hnode rfl d hd
    rw [(unreachableColl_coll inst s).2] at hd
    exact endColl_nodes hnode (launchNames_of_group hg hn) hd
  · refine ⟨{ s with fau := { s.fau with dead := s.fau.dead.filter (· ≠ inst) } }, ?_, by simp, ?_, rfl⟩
    · simp only [exec, execFabricStatusWithdraw, hr, decide_eq_false hi, Bool.not_true, Bool.or_self, Bool.false_eq_true,
        if_false]
    · exact fun i hne => by simp [hne]

end Sys2Proof.Machine
end

section
/-! SUPPORT. What the commands on regions and rings do (R137 to R142, R185, R186, R195, R383, R385, R540), and the statement
about them. -/

namespace Sys2Proof.Machine

/-! ### Exports (R137 to R141, R540) -/

/-- A region's entry is written for a memory object, with the run of RTT entries that it takes (R139, R140). -/
def writeRegion (m : MemObj) (g : Region) (plots : List (BitVec 16)) (s : State) : State :=
  let s := modMemobj m.id (fun x => { x with regions := x.regions ++ [g.index] }) s
  fillRtt g.rttBase plots { s with fau := { s.fau with regions := s.fau.regions ++ [g] } }

@[simp] theorem writeRegion_spdm (m : MemObj) (g : Region) (plots : List (BitVec 16)) (s : State) :
    (writeRegion m g plots s).spdm = s.spdm := rfl

@[simp] theorem writeRegion_regions (m : MemObj) (g : Region) (plots : List (BitVec 16)) (s : State) :
    (writeRegion m g plots s).fau.regions = s.fau.regions ++ [g] := rfl

@[simp] theorem writeRegion_rtt (m : MemObj) (g : Region) (plots : List (BitVec 16)) (s : State) :
    (writeRegion m g plots s).fau.rtt
      = s.fau.rtt ++ (List.range plots.length).map fun i => (g.rttBase + i, plots.getD i 0) := rfl

section
variable {o : Origin} {tag : BitVec 32} {mo : BitVec 16} {kind perms : BitVec 8} {key : BitVec 32} {length : BitVec 64}
  {first : BitVec 32} {core : BitVec 16} {base count : BitVec 8} {plots : List (BitVec 16)} {m : MemObj} {q : Polder}
  {s : State}

/-- A memory object takes a region of an origin: the object is named rightly and not doomed, its polder stands, and the
fields of the command fit (R360, R371). -/
structure Exportable (o : Origin) (mo : BitVec 16) (perms : BitVec 8) (first : BitVec 32) (plots : List (BitVec 16))
    (m : MemObj) (q : Polder) (s : State) : Prop where
  memobj : memobjOf mo s = some m
  polder : findPolder s m.polder = some q
  allowed : memobjDenied o mo false s = false
  live : m.doomed = false
  standing : q.teardown = none
  perms : perms.toNat < 32
  first : first.toNat < 16777216
  listed : o.session = none → plots.length ≤ 2024
  room : m.regions.length < 256

/-- The key of an export can be had: a multicast key whose index is free, or one that the block draws (R137, R141). -/
def keyToBeHad (perms : BitVec 8) (key : BitVec 32) (s : State) : Bool :=
  if perms.getLsbD 4 then decide (key.toNat % 262144 ≠ 0) && (findRegion s (keyIndex key)).isNone
  else decide (key = 0) && drbgAvailable s && (freeRegion s).isSome

/-- The key is what REGION_EXPORT's own checks ask of it. -/
theorem keyToBeHad_checks (h : keyToBeHad perms key s = true) :
    (!perms.getLsbD 4 && decide (key ≠ 0)) = false
      ∧ (perms.getLsbD 4 && (decide (key.toNat % 262144 = 0) || (findRegion s (keyIndex key)).isSome)) = false
      ∧ ((exportIndex perms key s).isNone || (!perms.getLsbD 4 && !drbgAvailable s)) = false := by
  unfold keyToBeHad at h
  unfold exportIndex
  cases hp : perms.getLsbD 4 <;> rw [hp] at h <;> simp_all

/-- An export that meets its own checks writes its region and answers its key. -/
theorem answers_regionExport {P : State → Prop} {k : BitVec 32} {u : State}
    (h : Passes (.regionExport o tag mo kind perms key length first core base count plots) s)
    (hx : Exportable o mo perms first plots m q s) (hkind : kind.toNat < 2)
    (hshape : (if kind = 0 then memoryRegionBad s q length first plots
      else signalRegionBad s q length core base count plots) = false)
    (hkey : keyToBeHad perms key s = true)
    (hu : exportRegion m q kind perms key length first core base count plots s = (k, u)) (hspdm : u.spdm = s.spdm)
    (hP : ∀ t : State, t.fau = u.fau → P t) :
    Answers (.regionExport o tag mo kind perms key length first core base count plots) s .ok (leBytes 4 k.toNat) P := by
  obtain ⟨hm, hq, hd, hlive, hstand, hperms, hfirst, hlist, hroom⟩ := hx
  have hpol := memobjPolder_of_find hm hq
  obtain ⟨hzero, hmc, hdraw⟩ := keyToBeHad_checks hkey
  refine answers_reply u h rfl rfl rfl hd ?_ ?_ ?_ hspdm (hP _ (reply_fau ..))
  · simpa [hperms, hfirst] using hlist
  · refine (firstFail_none _).2 ?_
    simp only [List.forall_mem_cons, hpol, hm, hshape, hmc, hdraw, hzero, memobjLive_of_find hm hq hlive hstand,
      decide_eq_false (Nat.not_le.2 hkind), decide_eq_false (Nat.not_le.2 hroom)]
    simp
  · simp only [hm, hpol, hu]

/-- The region that an export under the key `key` writes at the index `index`, its RTT run at `rtt` (R140, R540). -/
def exportedRegion (m : MemObj) (q : Polder) (signal : Bool) (perms : BitVec 8) (index : Nat) (key : BitVec 32) (rtt : Nat)
    (length : BitVec 64) (first : BitVec 32) (core : BitVec 16) (base count : BitVec 8) (plots : List (BitVec 16)) :
    Region :=
  { index := index, key := key, withdrawing := false, signalKind := signal, polderSlot := q.slot, polder := q.id,
    perms := perms.setWidth 5, length := length, rttBase := if signal then 0 else rtt, rttCount := plots.length,
    firstOffset := if signal then 0 else first.setWidth 24, core := core.setWidth 9, counterBase := base.setWidth 6,
    counterCnt := count.setWidth 6, memobj := some m.id, waiters := [] }

/-- An export under a multicast key takes that key and the index that it names (R141). -/
theorem exportRegion_multicast (hp : perms.getLsbD 4 = true) :
    exportRegion m q kind perms key length first core base count plots s
      = (key, writeRegion m (exportedRegion m q (decide (kind = 1)) perms (keyIndex key) key
          ((freeRtt s plots.length).getD 0) length first core base count plots) plots s) := by
  unfold exportRegion exportIndex
  rw [hp]
  rfl

/-- The key of an index that the block draws (R137). -/
def drawnKey (i : Nat) (s : State) : BitVec 32 := BitVec.ofNat 32 (i * 262144 + checkValue (drbgValue s))

/-- A check value is one of the 18 low bits, and not 0 (R137). -/
theorem checkValue_range (draw : BitVec 512) : checkValue draw ≠ 0 ∧ checkValue draw < 262144 := by
  unfold checkValue
  omega

/-- An index above a check value is read back from the key of the two. -/
theorem key_parts {i c : Nat} (hi : i < 16384) (hc : c < 262144) :
    (BitVec.ofNat 32 (i * 262144 + c)).toNat / 262144 = i ∧ (BitVec.ofNat 32 (i * 262144 + c)).toNat % 262144 = c := by
  rw [BitVec.toNat_ofNat]
  omega

/-- A drawn key names the index, with a check value from 1 on. -/
theorem drawnKey_parts {i : Nat} (h : i < 16384) (s : State) :
    (drawnKey i s).toNat / 262144 = i ∧ (drawnKey i s).toNat % 262144 ≠ 0 := by
  obtain ⟨hne, hlt⟩ := checkValue_range (drbgValue s)
  obtain ⟨hindex, hcheck⟩ := key_parts h hlt
  exact ⟨hindex, fun hzero => hne (hcheck.symm.trans hzero)⟩

/-- An export under a drawn key takes the lowest free index. -/
theorem exportRegion_drawn {i : Nat} (hp : perms.getLsbD 4 = false) (hi : freeRegion s = some i) :
    exportRegion m q kind perms key length first core base count plots s
      = (drawnKey i s, writeRegion m (exportedRegion m q (decide (kind = 1)) perms i (drawnKey i s)
          ((freeRtt (drbgDraw 3 s) plots.length).getD 0) length first core base count plots) plots (drbgDraw 3 s)) := by
  unfold exportRegion exportIndex
  rw [hp, hi]
  rfl

/-- So a memory region under a multicast key has the fields of its command, and its plots' RTT entries. -/
theorem answers_regionExport_memory (h : Passes (.regionExport o tag mo 0 perms key length first core base count plots) s)
    (hx : Exportable o mo perms first plots m q s) (hshape : memoryRegionBad s q length first plots = false)
    (hp : perms.getLsbD 4 = true) (hkey : key.toNat % 262144 ≠ 0) (hfree : findRegion s (keyIndex key) = none) :
    Answers (.regionExport o tag mo 0 perms key length first core base count plots) s .ok (leBytes 4 key.toNat)
      fun t => ∃ g : Region, t.fau.regions = s.fau.regions ++ [g] ∧ g.index = keyIndex key ∧ g.key = key
        ∧ g.withdrawing = false ∧ g.signalKind = false ∧ g.polder = q.id ∧ g.polderSlot = q.slot
        ∧ g.perms = perms.setWidth 5 ∧ g.length = length ∧ g.firstOffset = first.setWidth 24
        ∧ g.rttCount = plots.length ∧ g.memobj = some m.id ∧ freeRtt s plots.length = some g.rttBase
        ∧ t.fau.rtt = s.fau.rtt ++ (List.range plots.length).map fun i => (g.rttBase + i, plots.getD i 0) := by
  have hhad : keyToBeHad perms key s = true := by simp [keyToBeHad, hp, hkey, hfree]
  have hrun : (freeRtt s plots.length).isNone = false := by
    unfold memoryRegionBad at hshape
    exact (Bool.or_eq_false_iff.1 hshape).2
  obtain ⟨b, hb⟩ := Option.isSome_iff_exists.1 (Option.isNone_eq_false_iff.1 hrun)
  refine answers_regionExport h hx (by decide) hshape hhad (exportRegion_multicast hp) rfl fun t ht => ?_
  refine ⟨_, by rw [ht, writeRegion_regions], rfl, rfl, rfl, rfl, rfl, rfl, rfl, rfl, rfl, rfl, rfl, ?_,
    by rw [ht, writeRegion_rtt]⟩
  rw [hb]
  rfl

/-- A memory region under a drawn key. -/
theorem answers_regionExport_drawn {i : Nat}
    (h : Passes (.regionExport o tag mo 0 perms 0 length first core base count plots) s)
    (hx : Exportable o mo perms first plots m q s) (hshape : memoryRegionBad s q length first plots = false)
    (hp : perms.getLsbD 4 = false) (hdraw : drbgAvailable s = true) (hi : freeRegion s = some i) :
    Answers (.regionExport o tag mo 0 perms 0 length first core base count plots) s .ok (leBytes 4 (drawnKey i s).toNat)
      fun t => ∃ g : Region, t.fau.regions = s.fau.regions ++ [g] ∧ g.index = i ∧ g.key = drawnKey i s
        ∧ g.polder = q.id := by
  have hhad : keyToBeHad perms 0 s = true := by
    rw [keyToBeHad, hp, hdraw, hi]
    rfl
  refine answers_regionExport h hx (by decide) hshape hhad (exportRegion_drawn hp hi) ?_ fun t ht => ?_
  · rw [writeRegion_spdm, drbgDraw_spdm]
  · exact ⟨_, by rw [ht, writeRegion_regions, drbgDraw_fau], rfl, rfl, rfl⟩

/-- A signal region under a multicast key takes no RTT entry (R540). -/
theorem answers_regionExport_signal (h : Passes (.regionExport o tag mo 1 perms key length first core base count []) s)
    (hx : Exportable o mo perms first [] m q s) (hshape : signalRegionBad s q length core base count [] = false)
    (hp : perms.getLsbD 4 = true) (hkey : key.toNat % 262144 ≠ 0) (hfree : findRegion s (keyIndex key) = none) :
    Answers (.regionExport o tag mo 1 perms key length first core base count []) s .ok (leBytes 4 key.toNat)
      fun t => ∃ g : Region, t.fau.regions = s.fau.regions ++ [g] ∧ g.key = key ∧ g.signalKind = true
        ∧ g.core = core.setWidth 9 ∧ g.counterBase = base.setWidth 6 ∧ g.counterCnt = count.setWidth 6
        ∧ t.fau.rtt = s.fau.rtt := by
  have hhad : keyToBeHad perms key s = true := by simp [keyToBeHad, hp, hkey, hfree]
  refine answers_regionExport h hx (by decide) hshape hhad (exportRegion_multicast hp) rfl fun t ht => ?_
  exact ⟨_, by rw [ht, writeRegion_regions], rfl, rfl, rfl, rfl, rfl,
    by rw [ht, writeRegion_rtt]; exact List.append_nil _⟩

end

/-! ### Withdrawals and queries (R139, R142) -/

/-- REGION_WITHDRAW of a region that is here is pending, and shuts the region. -/
theorem answers_regionWithdraw {o : Origin} {tag key : BitVec 32} {g : Region} {s : State}
    (h : Passes (.regionWithdraw o tag key) s) (hg : regionByKey s key = some g) (hd : withdrawDenied o key s = false) :
    Answers (.regionWithdraw o tag key) s .pending [] fun t =>
      t.fau.regions = alter (fun x => x.index = keyIndex key)
        (fun x => { x with withdrawing := true, waiters := x.waiters ++ [(o, tag)] }) s.fau.regions := by
  refine answers_effect h rfl (runCmd_eq rfl rfl) hd rfl ?_ ?_ ?_
  · exact (firstFail_none _).2 (by simp [hg])
  · simp only [pend_out tag 0x0502 (h.canSeal rfl)]
    exact List.mem_append_right _ (List.mem_singleton_self _)
  · simp only [pend_fau]

/-- REGION_QUERY reads the entry of an index, or zeros where there is none. -/
theorem answers_regionQuery {o : Origin} {tag : BitVec 32} {index : BitVec 16} {s : State}
    (h : Passes (.regionQuery o tag index) s) (hi : index.toNat < 16384)
    (hd : readDenied o ((findRegion s index.toNat).bind fun g => findPolder s g.polder) s = false) :
    Answers (.regionQuery o tag index) s .ok
      (match findRegion s index.toNat with | some g => regionBytes g | none => zeros 32) fun t => t.fau = s.fau := by
  refine answers_reply s h rfl rfl rfl hd rfl ?_ rfl rfl (reply_fau ..)
  exact (firstFail_none _).2 (by simp [hi])

/-! ### Rings (R185, R186, R195, R385) -/

/-- A change by a test that only the last of a list meets is a change of the last. -/
theorem alter_append_of_none {α : Type} {p : α → Bool} {l : List α} {a : α} (hl : l.find? p = none) (ha : p a = true)
    (f : α → α) : alter p f (l ++ [a]) = l ++ [f a] := by
  have hsame : l.map (fun x => if p x then f x else x) = l.map id :=
    List.map_congr_left fun x hx => if_neg (List.find?_eq_none.1 hl x hx)
  simp [alter, hsame, ha]

/-- Filling RTT entries, or not, leaves the rings. -/
theorem fillRtt_if_rings (c : Prop) [Decidable c] (base : Nat) (plots : List (BitVec 16)) (s : State) :
    (if c then fillRtt base plots s else s).rings = s.rings := by
  split <;> rfl

/-- A ring as RING_CREATE puts it in, not active yet. -/
theorem createRing_rings (ring : BitVec 12) (p : PolderId) (members : List InstId) (own : BitVec 3)
    (home : List (BitVec 16)) (s : State) :
    ∃ r : Ring, (createRing ring p members own home s).rings.rings = s.rings.rings ++ [r] ∧ r.id = ring ∧ r.polder = p
      ∧ r.members = members ∧ r.own = own ∧ r.home = home ∧ r.active = false ∧ r.heartbeat = 0
      ∧ (∀ x ∈ r.peers, x.dead = false) ∧ r.destroying = none := by
  have hpeers : ∀ x ∈ newPeers members.length own, x.dead = false := by
    intro x hx
    obtain ⟨i, -, rfl⟩ := List.mem_map.1 hx
    rfl
  refine ⟨_, congrArg Rings.rings (fillRtt_if_rings _ _ _ _), ?_⟩
  exact ⟨rfl, rfl, rfl, rfl, rfl, rfl, rfl, hpeers, rfl⟩

theorem createRing_parts (ring : BitVec 12) (p : PolderId) (members : List InstId) (own : BitVec 3)
    (home : List (BitVec 16)) (s : State) : s.agree [.fau, .rings] (createRing ring p members own home s) :=
  createRing_frame ring p members own home s (agree_refl _ s) rfl

/-- What RING_CREATE leaves before its answer: the ring is there, active now or at its mark (R185, R284). -/
def formRing (ring : BitVec 12) (p : PolderId) (members : List InstId) (own : BitVec 3) (home : List (BitVec 16))
    (mark : Datum) (s : State) : State :=
  let s := createRing ring p members own home s
  if markUse mark s = .later then enqueueMark mark (.ringCreate p ring) s else activateRing ring (countLate mark s)

theorem formRing_spdm (ring : BitVec 12) (p : PolderId) (members : List InstId) (own : BitVec 3)
    (home : List (BitVec 16)) (mark : Datum) (s : State) : (formRing ring p members own home mark s).spdm = s.spdm := by
  have hmade := createRing_parts ring p members own home s .spdm rfl
  unfold formRing
  dsimp only
  split
  · exact hmade
  · exact (countLate_parts mark _ .spdm rfl).trans hmade

/-- Judging a mark reads the Datum alone. -/
theorem markUse_congr {s t : State} (h : t.datum = s.datum) (mark : Datum) : markUse mark t = markUse mark s := by
  unfold markUse
  rw [h]

/-- A ring that is new here is put in, active at once where its mark has come. -/
theorem formRing_rings {ring : BitVec 12} {s : State} (hnew : findRingOf s ring = none) (p : PolderId)
    (members : List InstId) (own : BitVec 3) (home : List (BitVec 16)) {mark : Datum}
    (hm : markUse mark s = .now ∨ markUse mark s = .later) :
    ∃ r : Ring, (formRing ring p members own home mark s).rings.rings = s.rings.rings ++ [r] ∧ r.id = ring ∧ r.polder = p
      ∧ r.members = members ∧ r.own = own ∧ r.home = home ∧ r.active = decide (markUse mark s = .now) ∧ r.heartbeat = 0
      ∧ (∀ x ∈ r.peers, x.dead = false) ∧ r.destroying = none := by
  obtain ⟨r, hr, hid, hpol, hmem, hown, hhome, hact, hbeat, hpeers, hdes⟩ :=
    createRing_rings ring p members own home s
  have hjudge : markUse mark (createRing ring p members own home s) = markUse mark s :=
    markUse_congr (createRing_parts ring p members own home s .datum rfl) mark
  unfold formRing
  dsimp only
  rw [hjudge]
  obtain hnow | hlater := hm
  · rw [if_neg (by simp [hnow]), hnow]
    have hlate := congrArg Rings.rings (countLate_parts mark (createRing ring p members own home s) .rings rfl)
    have hdatum := congrArg DatumUnit.value ((countLate_parts mark _ .datum rfl).trans
      (createRing_parts ring p members own home s .datum rfl))
    refine ⟨{ r with active := true, sentAt := s.datum.value.toNat
                     peers := r.peers.map fun k => { k with at_ := s.datum.value.toNat } },
      ?_, hid, hpol, hmem, hown, hhome, rfl, hbeat, ?_, hdes⟩
    · simp only [activateRing, modRingOf, hlate, hr, hdatum]
      exact alter_append_of_none hnew (decide_eq_true hid) _
    · exact List.forall_mem_map.2 hpeers
  · rw [if_pos hlater, hlater]
    exact ⟨r, hr, hid, hpol, hmem, hown, hhome, hact, hbeat, hpeers, hdes⟩

/-- A ring that RING_CREATE does not refuse is new here. -/
theorem findRingOf_of_ringBad {s : State} {ring : BitVec 16} {p : PolderId} {members : List InstId} {own : BitVec 8}
    {home : List (BitVec 16)} (h : ringBad s ring p members own home = false) :
    findRingOf s (ring.setWidth 12) = none := by
  simp only [ringBad, Bool.or_eq_false_iff] at h
  obtain ⟨⟨⟨⟨⟨⟨⟨⟨⟨⟨-, hnew⟩, -⟩, -⟩, -⟩, -⟩, -⟩, -⟩, -⟩, -⟩, -⟩ := h
  exact Option.not_isSome_iff_eq_none.1 (Bool.eq_false_iff.1 hnew)

/-- RING_CREATE of a ring that is admitted puts it in. -/
theorem answers_ringCreate {o : Origin} {tag : BitVec 32} {ring : BitVec 16} {p : PolderId} {members : List InstId}
    {own : BitVec 8} {home : List (BitVec 16)} {mark : Datum} {s : State}
    (h : Passes (.ringCreate o tag ring p members own home mark) s)
    (hbad : ringBad s ring p members own home = false) (hroom : s.rings.rings.length < 16)
    (hm : markUse mark s = .now ∨ markUse mark s = .later) :
    Answers (.ringCreate o tag ring p members own home mark) s .ok [] fun t =>
      ∃ r : Ring, t.rings.rings = s.rings.rings ++ [r] ∧ r.id = ring.setWidth 12 ∧ r.polder = p ∧ r.members = members
        ∧ r.own = own.setWidth 3 ∧ r.home = home ∧ r.active = decide (markUse mark s = .now) ∧ r.heartbeat = 0
        ∧ (∀ x ∈ r.peers, x.dead = false) ∧ r.destroying = none := by
  refine answers_reply (formRing (ring.setWidth 12) p members (own.setWidth 3) home mark s) h rfl rfl rfl rfl rfl ?_ rfl
    (formRing_spdm ..) ?_
  · refine (firstFail_none _).2 ?_
    obtain hu | hu := hm <;> simp [hbad, hroom, hu]
  · rw [reply_rings]
    exact formRing_rings (findRingOf_of_ringBad hbad) p members (own.setWidth 3) home hm

/-- RING_MEMBER_DEAD declares the member that it names dead, and answers. -/
theorem exec_ringMemberDead {o : Origin} {tag : BitVec 32} {ring inst : BitVec 16} {x : Ring × BitVec 3} {s : State}
    (h : Passes (.ringMemberDead o tag ring inst) s) (hx : namedMember ring inst s = some x) :
    exec (.ringMemberDead o tag ring inst) s = .next (reply o tag 0x0705 .ok [] (resume (declareDead x.1 x.2 s))) := by
  have he := exec_effect h rfl (runCmd_eq rfl rfl) rfl rfl ((firstFail_none _).2 (by simp [hx]))
  simpa only [hx] using he

/-- RING_DESTROY of a ring that stands is pending: the destruction waits for its mark, or begins. -/
theorem exec_ringDestroy {o : Origin} {tag : BitVec 32} {ring : BitVec 16} {mark : Datum} {r : Ring} {s : State}
    (h : Passes (.ringDestroy o tag ring mark) s) (hr : ringNamed ring s = some r) (he : ringEnding r s = false)
    (hm : markUse mark s = .now ∨ markUse mark s = .later) :
    exec (.ringDestroy o tag ring mark) s = .next
      (if markUse mark s = .later then enqueueMark mark (.ringDestroy r.polder r.id o tag) (pend o tag 0x0706 s)
       else resume (beginRingDestroy r.id o tag (countLate mark (pend o tag 0x0706 s)))) := by
  have hr' : ringNamed ring (pend o tag 0x0706 s) = some r := by
    simpa only [ringNamed, findRingOf, pend_rings] using hr
  have he' : ringEnding r (pend o tag 0x0706 s) = false := by
    simpa only [ringEnding, findPolder, pend_polders] using he
  have hx := exec_effect h rfl (runCmd_eq rfl rfl) rfl rfl ((firstFail_none _).2 (by
    obtain hu | hu := hm <;> simp [hr, he, hu]))
  rw [hx]
  obtain hu | hu := hm <;>
    simp only [hr, he, hr', he', hu, Bool.not_false, Bool.true_and, decide_true, decide_false, Bool.false_eq_true,
      if_true, if_false, reduceCtorEq]

/-- Settles O49: each command passes the checks before its own by hypothesis; what is left is its own checks, and what its
effect leaves. -/
theorem regionsAndRingsComplete : Obligations.RegionsAndRingsComplete := by
  intro o tag s
  refine ⟨?memory, ?signal, fun key g => answers_regionWithdraw, fun index => answers_regionQuery,
    fun ring p members own home mark => answers_ringCreate, fun ring inst x => exec_ringMemberDead, ?destroy⟩
  case memory =>
    intro mo perms key length first core base count plots m q h hm hq hd hlive hstand hperms hfirst hlist hshape hroom
    have hx : Exportable o mo perms first plots m q s := ⟨hm, hq, hd, hlive, hstand, hperms, hfirst, hlist, hroom⟩
    refine ⟨answers_regionExport_memory h hx hshape, ?_⟩
    rintro hp rfl hdraw i hi
    obtain ⟨hindex, hcheck⟩ := drawnKey_parts (lt_of_leastBelow hi) s
    exact ⟨drawnKey i s, hindex, hcheck, answers_regionExport_drawn h hx hshape hp hdraw hi⟩
  case signal =>
    intro mo perms key length first core base count m q h hm hq hd hlive hstand hperms hfirst hshape hroom
    exact answers_regionExport_signal h ⟨hm, hq, hd, hlive, hstand, hperms, hfirst, fun _ => Nat.zero_le _, hroom⟩ hshape
  case destroy =>
    intro ring mark r h hr he
    refine ⟨fun hu => ?_, fun hu => ?_⟩
    · have hx := exec_ringDestroy h hr he (.inr hu)
      rw [if_pos hu] at hx
      refine ⟨_, o, tag, rfl, _, hx, ?_, pend_rings .., ?_⟩
      · exact (pend_out tag 0x0706 (h.canSeal rfl)).symm ▸ List.mem_append_right _ (List.mem_singleton_self _)
      · exact congrArg (fun d => d.marks ++ [_]) (pend_datum o tag 0x0706 s)
    · rw [exec_ringDestroy h hr he (.inl hu), if_neg (by simp [hu])]

end Sys2Proof.Machine
end

section
/-! SUPPORT. What the FAU makes of a copy of a request (R168, R182), and the statement about copies. -/

namespace Sys2Proof.Machine

/-- A request whose number precedes A_r is dropped and counted (R168). -/
theorem serveRequest_stale {r : Released} {s : State} (h : seqCase r (raisedAt r s) = .stale) :
    serveRequest r (atTarget r.inner.opcode s) = count 0x00C (dropReleased r (raisedAt r s)) := by
  unfold raisedAt at h ⊢
  simp only [serveRequest, h]

/-- A copy of a request that is being performed, or held, is dropped (R168). -/
theorem serveRequest_inProgress {r : Released} {s : State} (h : seqCase r (raisedAt r s) = .inProgress) :
    serveRequest r (atTarget r.inner.opcode s) = dropReleased r (raisedAt r s) := by
  unfold raisedAt at h ⊢
  simp only [serveRequest, h]

/-- Settles O18: every command of the list serves the next request of its opcode, and the request's number decides before
anything looks at the opcode. -/
theorem copiesAreNotPerformedTwice : Obligations.CopiesAreNotPerformedTwice := by
  intro c op hc r s hrun hnext hthawed hserves
  have he : exec c s = .next (serveOp op s) := by
    simp only [List.mem_cons, Prod.mk.injEq, List.not_mem_nil, or_false] at hc
    obtain ⟨rfl, rfl⟩ | ⟨rfl, rfl⟩ | ⟨rfl, rfl⟩ | ⟨rfl, rfl⟩ | ⟨rfl, rfl⟩ | ⟨rfl, rfl⟩ | ⟨rfl, rfl⟩ := hc <;> rfl
  rw [he, serveOp_of_opServes hrun hnext hthawed hserves, ← opcode_of_nextReleased hnext]
  exact ⟨fun hs => by rw [serveRequest_stale hs], fun hp => by rw [serveRequest_inProgress hp]⟩

end Sys2Proof.Machine
end

section
/-! SUPPORT. What the home of a line makes of a request (R190 to R193), and the statement about it. -/

namespace Sys2Proof.Machine

/-! ### Rings, and the messages that name them (R188) -/

theorem id_of_findRingOf {ring : BitVec 12} {r : Ring} {s : State} (h : findRingOf s ring = some r) : r.id = ring := by
  simpa using List.find?_some h

/-- A ring whose member this block still is stands before those destroyed here. -/
theorem findAnyRing_of_findRingOf {ring : BitVec 12} {r : Ring} {s : State} (h : findRingOf s ring = some r) :
    findAnyRing s ring = some r := by
  unfold findRingOf at h
  simp [findAnyRing, List.find?_append, h]

theorem message_of_nextRing {s : State} {msg : Nat} {m : Released} (h : nextRing s msg = some m) :
    m.inner.modifier = BitVec.ofNat 16 msg := by
  have hm := List.find?_some h
  simp only [Bool.and_eq_true, decide_eq_true_eq] at hm
  rw [← hm.2, BitVec.ofNat_toNat, BitVec.setWidth_eq]

/-- What a message that is admitted names. -/
theorem ringAdmits_parts {m : Released} {r : Ring} {s : State} (h : ringAdmits m s = some r) :
    findRingOf s (messageRing m.inner) = some r
      ∧ (r.active && r.polder = m.polder && (memberIndex r m.src).isSome && addrValid r m.inner.offset) = true := by
  unfold ringAdmits at h
  split at h
  · next hr =>
    split at h
    · next ha =>
      cases h
      exact ⟨hr, ha⟩
    · cases h
  · cases h

@[simp] theorem atFau_rings (s : State) : (atFau s).rings = s.rings := atFau_parts s .rings rfl
@[simp] theorem atFau_pins (s : State) : (atFau s).pins = s.pins := atFau_parts s .pins rfl

@[simp] theorem running_atFau (s : State) : running (atFau s) = running s := by
  simp only [running, atFau_pins, atFau_boot]

@[simp] theorem nextRing_atFau (s : State) (msg : Nat) : nextRing (atFau s) msg = nextRing s msg := by
  simp only [nextRing, atFau_link]

/-- A ring message that the FAU takes is served, and what that lets go on goes on. -/
theorem serveRing_of_serves {s : State} (h : fauServes s = true) (serve : State → State) :
    serveRing serve s = resume (serve (atFau s)) :=
  withFau_of_serves h _

/-! ### A request that the home takes (R168, R189, R191) -/

/-- A new request of a line of this home is served by the state of the line. -/
theorem serveRing_homeRequest {msg : Nat} {r : Ring} {m : Released} {s : State} (h : FreshRing msg r m s)
    (hown : addrHome m.inner.offset = r.own) :
    serveRing (homeRequest msg) s = resume (count 0x283 (serveLine m (seenRing m s))) := by
  obtain ⟨hrun, hnext, hfau, hdead, hseq, hadmit⟩ := h
  have hserve : homeRequest msg (atFau s) = count 0x283 (serveLine m (seenRing m s)) := by
    unfold seenRing ringAt at hadmit ⊢
    unfold ringAt at hdead hseq
    simp only [homeRequest, nextRing_atFau, hnext, running_atFau, hrun, hdead, hseq, hadmit, hown, ne_eq,
      not_true_eq_false, Bool.not_true, Bool.false_eq_true, if_false]
  rw [serveRing_of_serves hfau, hserve]

/-- What the home asks of a request and its line before it looks at the line's state (R191, R195). -/
structure Unheld (r : Ring) (k : BitVec 3) (m : Released) (s : State) : Prop where
  ring : findRingOf s (messageRing m.inner) = some r
  member : memberIndex r m.src = some k
  alive : memberDead r k = false
  stands : r.destroying = none
  idle : lineBusy s r.id (addrLine m.inner.offset) = false
  first : s.rings.waiting.any (ofLine r.id (addrLine m.inner.offset)) = false
  bank : serves s (ringDomain r.id (addrLine m.inner.offset)) = true

section
variable {msg : Nat} {r : Ring} {k : BitVec 3} {m : Released} {e : DirEntry} {s : State}

theorem AtHome.unheld (h : AtHome msg r k m s) : Unheld r k m (seenRing m s) := by
  obtain ⟨⟨-, -, -, -, -, hadmit⟩, -, hmember, halive, hstands, hidle, hfirst, hbank⟩ := h
  exact ⟨(ringAdmits_parts hadmit).1, hmember, halive, hstands, hidle, hfirst, hbank⟩

theorem AtHome.message (h : AtHome msg r k m s) : m.inner.modifier = BitVec.ofNat 16 msg := by
  obtain ⟨⟨-, hnext, -⟩, -⟩ := h
  exact message_of_nextRing hnext

/-- The command of a request that nothing holds back does what the line's state makes of it. -/
theorem AtHome.exec_eq {c : Instr} {t : State} (h : AtHome msg r k m s)
    (hc : exec c s = .next (serveRing (homeRequest msg) s)) (ht : serveLine m (seenRing m s) = t) :
    exec c s = .next (resume (count 0x283 t)) := by
  obtain ⟨hfresh, hown, -⟩ := h
  rw [hc, serveRing_homeRequest hfresh hown, ht]

/-- A line without an entry is read, to be shared or to be owned. -/
theorem Unheld.serveLine_uncached (h : Unheld r k m s) (hf : findLine s r.id (addrLine m.inner.offset) = none)
    {shared : Bool} (hm : m.inner.modifier = if shared then 0 else 1) :
    serveLine m s = serveUncached r k m (addrLine m.inner.offset) shared s := by
  obtain ⟨hring, hmember, halive, hstands, hidle, hfirst, hbank⟩ := h
  cases shared <;> simp [serveLine, hring, hmember, halive, hstands, hidle, hfirst, hbank, hf, hm]

theorem Unheld.serveLine_shared (h : Unheld r k m s) (hf : findLine s r.id (addrLine m.inner.offset) = some e)
    (he : e.state = .shared) : serveLine m s = serveShared r k m e s := by
  obtain ⟨hring, hmember, halive, hstands, hidle, hfirst, hbank⟩ := h
  simp [serveLine, hring, hmember, halive, hstands, hidle, hfirst, hbank, hf, he]

theorem Unheld.serveLine_modified (h : Unheld r k m s) (hf : findLine s r.id (addrLine m.inner.offset) = some e)
    (he : e.state = .modified) : serveLine m s = serveModified r k m e s := by
  obtain ⟨hring, hmember, halive, hstands, hidle, hfirst, hbank⟩ := h
  simp [serveLine, hring, hmember, halive, hstands, hidle, hfirst, hbank, hf, he]

/-! ### What the state of the line makes of it (R192, R193) -/

/-- A line whose home memory is read is granted, then enters its new state. -/
theorem grantLine_read {line : BitVec 37} {data : Bytes} {v : State}
    (h : homeAccess r line none s = (.ended .ok data, v)) (state : BitVec 2) (upd : State → State) :
    grantLine r m line state upd s = ringReply r m 8 .ok state data (upd v) := by
  simp only [grantLine, h]

/-- A line that is not cached takes an entry of its set, where one is free. -/
theorem serveUncached_read {line : BitVec 37} {data : Bytes} {v : State}
    (hroom : (setEntries s (lineSet r.id line)).length < 8) (h : homeAccess r line none s = (.ended .ok data, v))
    (shared : Bool) :
    serveUncached r k m line shared s = ringReply r m 8 .ok (if shared then 1 else 2) data
      (allocLine r.id line (if shared then .shared else .modified) (if shared then memberBit k else 0) k v) := by
  simp only [serveUncached, if_pos hroom, grantLine_read h]

/-- READ_SHARED of a shared line adds its sender to the sharers. -/
theorem serveShared_readShared {data : Bytes} {v : State} (hm : m.inner.modifier = 0)
    (h : homeAccess r e.line none s = (.ended .ok data, v)) : serveShared r k m e s
      = ringReply r m 8 .ok 1 data (setLine { e with busy := false, sharers := e.sharers ||| memberBit k } v) := by
  simp [serveShared, hm, grantLine_read h]

/-- READ_OWN of a line that others share invalidates their copies first. -/
theorem serveShared_readOwn (hm : m.inner.modifier = 1) (ho : ∃ j ∈ sharersOf e.sharers, j ≠ k) :
    serveShared r k m e s = startTxn r e ((sharersOf e.sharers).filter (· ≠ k)) none (.serve m) s := by
  have hothers : ((sharersOf e.sharers).filter (· ≠ k)).isEmpty = false := by simpa using ho
  simp only [serveShared, hm, hothers]
  rfl

/-- UPGRADE of the only sharer makes it the owner, with no data. -/
theorem serveShared_upgrade (hm : m.inner.modifier = 2) (hk : e.sharers.getLsbD k.toNat = true)
    (ho : ∀ j ∈ sharersOf e.sharers, j = k) : serveShared r k m e s = ringReply r m 9 .ok 2 []
      (setLine { e with state := .modified, busy := false, sharers := 0, owner := k } s) := by
  have hothers : ((sharersOf e.sharers).filter (· ≠ k)).isEmpty = true := by simpa using ho
  simp only [serveShared, hm, hothers, hk]
  rfl

/-- EVICT_CLEAN takes its sender out of the sharers, and the entry goes with the last. -/
theorem serveShared_evictClean (hm : m.inner.modifier = 4) (hk : e.sharers.getLsbD k.toNat = true) :
    serveShared r k m e s = ringReply r m 9 .ok 0 []
      (if e.sharers &&& ~~~ memberBit k = 0 then freeLine e.ring e.line s
       else setLine { e with sharers := e.sharers &&& ~~~ memberBit k } s) := by
  simp only [serveShared, hm, hk]
  rfl

/-- READ_SHARED of a line that another owns downgrades the owner first. -/
theorem serveModified_readShared (hm : m.inner.modifier = 0) (ho : e.owner ≠ k) :
    serveModified r k m e s = startTxn r e [] (some (e.owner, 7)) (.serve m) s := by
  simp [serveModified, hm, ho]

/-- READ_OWN of a line that another owns recalls it first. -/
theorem serveModified_readOwn (hm : m.inner.modifier = 1) (ho : e.owner ≠ k) :
    serveModified r k m e s = startTxn r e [] (some (e.owner, 6)) (.serve m) s := by
  simp [serveModified, hm, ho]

/-- WRITE_BACK of the owner writes the line to home memory, and frees its entry. -/
theorem serveModified_writeBack {st : Status} {data : Bytes} {v : State} (hm : m.inner.modifier = 3) (ho : e.owner = k)
    (h : homeAccess r e.line (some m.payload) s = (.ended st data, v)) :
    serveModified r k m e s = ringReply r m 9 st 0 [] (freeLine e.ring e.line v) := by
  simp [serveModified, hm, ho, h]

end

/-- Settles O22: the home serves a request that nothing holds back by the state of its line, and what that comes to is said
message by message. -/
theorem homeRequestsComplete : Obligations.HomeRequestsComplete := by
  intro r k m s line u
  refine ⟨?readSharedUncached, ?readSharedShared, ?readSharedModified, ?readOwnUncached, ?readOwnShared,
    ?readOwnModified, ?upgrade, ?writeBack, ?evictClean⟩
  case readSharedUncached =>
    exact fun data v h hf hroom ha =>
      h.exec_eq rfl ((h.unheld.serveLine_uncached (shared := true) hf h.message).trans
        (serveUncached_read hroom ha true))
  case readSharedShared =>
    exact fun e data v h hf he ha =>
      h.exec_eq rfl ((h.unheld.serveLine_shared hf he).trans (serveShared_readShared h.message ha))
  case readSharedModified =>
    exact fun e h hf he ho =>
      h.exec_eq rfl ((h.unheld.serveLine_modified hf he).trans (serveModified_readShared h.message ho))
  case readOwnUncached =>
    exact fun data v h hf hroom ha =>
      h.exec_eq rfl ((h.unheld.serveLine_uncached (shared := false) hf h.message).trans
        (serveUncached_read hroom ha false))
  case readOwnShared =>
    exact fun e h hf he ho => h.exec_eq rfl ((h.unheld.serveLine_shared hf he).trans (serveShared_readOwn h.message ho))
  case readOwnModified =>
    exact fun e h hf he ho =>
      h.exec_eq rfl ((h.unheld.serveLine_modified hf he).trans (serveModified_readOwn h.message ho))
  case upgrade =>
    exact fun e h hf he hk ho =>
      h.exec_eq rfl ((h.unheld.serveLine_shared hf he).trans (serveShared_upgrade h.message hk ho))
  case writeBack =>
    exact fun e v h hf he ho ha =>
      h.exec_eq rfl ((h.unheld.serveLine_modified hf he).trans (serveModified_writeBack h.message ho ha))
  case evictClean =>
    exact fun e h hf he hk =>
      h.exec_eq rfl ((h.unheld.serveLine_shared hf he).trans (serveShared_evictClean h.message hk))

end Sys2Proof.Machine
end

section
/-! SUPPORT. What members make of snoops, and homes and members of answers (R188, R189, R192), and the statement about
them. -/

namespace Sys2Proof.Machine

/-! ### Snoops (R188, R189) -/

theorem FreshRing.serves {msg : Nat} {r : Ring} {m : Released} {s : State} (h : FreshRing msg r m s) :
    fauServes s = true := by
  obtain ⟨-, -, hfau, -⟩ := h
  exact hfau

/-- A new snoop of a home is put to the caching agent, and stands open until that answers. -/
theorem memberSnoop_fresh {msg : Nat} {r : Ring} {m : Released} {k : BitVec 3} {s : State} (h : FreshRing msg r m s)
    (hk : memberIndex r m.src = some k) (hhome : addrHome m.inner.offset = k) :
    memberSnoop msg (atFau s) = emit (.snoop r.id m.inner.offset (BitVec.ofNat 4 msg))
      (modRings (fun x => { x with snoops := x.snoops ++ [m] }) (seenRing m s)) := by
  obtain ⟨hrun, hnext, -, hdead, hseq, hadmit⟩ := h
  obtain ⟨hring, hnames⟩ := ringAdmits_parts hadmit
  have hsnoop : snoopRing m (seenRing m s) = some r := by
    rw [snoopRing, findAnyRing_of_findRingOf hring, Option.filter_some, if_pos hnames]
  unfold seenRing ringAt at hsnoop ⊢
  unfold ringAt at hdead hseq
  simp only [memberSnoop, nextRing_atFau, hnext, running_atFau, hrun, hdead, hseq, hsnoop, hk, hhome, ne_eq,
    not_true_eq_false, Bool.not_true, Bool.false_eq_true, if_false]

/-- The answer to another home's snoop is logged and sent, where the log has room. -/
theorem takeReply_other {x : SnoopReply} {r : Ring} {s : State}
    (hr : findRingOf s (messageRing x.snoop.inner) = some r) (hsrc : x.snoop.src ≠ s.boot.instanceId)
    (hroom : s.fau.answers.length < 65536) :
    takeReply s x = answerSnoop r x.snoop x.data (modRings (fun y => { y with snoops := y.snoops.erase x.snoop }) s) := by
  simp only [takeReply, findAnyRing_of_findRingOf hr, if_neg hsrc, if_pos hroom]

/-! ### Answers (R153, R188, R192) -/

@[simp] theorem answeredRing_atFau (m : Released) (s : State) : answeredRing m (atFau s) = answeredRing m s := by
  simp only [answeredRing, findAnyRing, atFau_rings]

@[simp] theorem awaitsData_atFau (r : Ring) (q : RingReq) (s : State) : awaitsData r q (atFau s) = awaitsData r q s := by
  simp only [awaitsData, atFau_rings]

@[simp] theorem awaitsData_dropReleased (r : Ring) (q : RingReq) (m : Released) (s : State) :
    awaitsData r q (dropReleased m s) = awaitsData r q s := rfl

@[simp] theorem awaitsData_dropRingReq (r : Ring) (q p : RingReq) (s : State) :
    awaitsData r q (dropRingReq p s) = awaitsData r q s := rfl

@[simp] theorem waiting_dropRingReq (q : RingReq) (s : State) :
    (dropRingReq q s).rings.waiting = s.rings.waiting := rfl

@[simp] theorem dropReleased_rings (m : Released) (s : State) : (dropReleased m s).rings = s.rings := rfl

section
variable {msg : Nat} {r : Ring} {q : RingReq} {m : Released} {s : State}

theorem ringResponse_unmatched (hn : nextRing s msg = some m) (ha : answeredRing m s = none) :
    ringResponse msg s = count 0x00E (dropReleased m s) := by
  simp only [ringResponse, hn, ha]

/-- A response without a member's data ends the line request that it answers. -/
theorem ringResponse_line (hn : nextRing s msg = some m) (ha : answeredRing m s = some (r, q)) (hq : q.message.toNat ≤ 4)
    (hmsg : msg ≠ 0xA) : ringResponse msg s = endLine r q (responseStatus m) m.payload (dropReleased m s) := by
  simp only [ringResponse, hn, ha, if_pos hq, if_neg hmsg]

/-- An answer that the home can take settles the snoop. -/
theorem ringResponse_snoop {v : State} (hn : nextRing s msg = some m) (ha : answeredRing m s = some (r, q))
    (hq : 4 < q.message.toNat) (hmsg : (msg = 8 || (msg = 0xA && q.message = 5)) = false)
    (hv : snoopAnswered r (addrLine q.addr) q.member (if msg = 0xA then some m.payload else none)
      (dropRingReq q (dropReleased m s)) = (true, v)) : ringResponse msg s = pumpLines v := by
  simp only [ringResponse, hn, ha, if_neg (Nat.not_le.2 hq), hmsg, Bool.false_eq_true, if_false, hv]

/-- Where the home awaits no data of the member, its answer ends its wait. -/
theorem snoopAnswered_noData (ha : awaitsData r q s = false) (data : Option Bytes) :
    snoopAnswered r (addrLine q.addr) q.member data s = (true, settleTxn r.id (addrLine q.addr) q.member false s) := by
  unfold awaitsData at ha
  simp only [snoopAnswered, ha, Bool.not_false, if_true]

/-- Data that the home awaits is written to home memory first. -/
theorem snoopAnswered_data {b data : Bytes} {st : Status} {v : State} (ha : awaitsData r q s = true)
    (hv : homeAccess r (addrLine q.addr) (some b) s = (.ended st data, v)) :
    snoopAnswered r (addrLine q.addr) q.member (some b) s
      = (true, settleTxn r.id (addrLine q.addr) q.member false v) := by
  unfold awaitsData at ha
  simp only [snoopAnswered, ha, Bool.not_true, Bool.false_eq_true, if_false, Option.some_or, hv]

/-- The transaction that awaits a line's data of a member has had that member's answer, without data (R192). -/
def awaitWriteBack (r : Ring) (q : RingReq) (s : State) : State :=
  modRings (fun x => { x with
    txns := alter (fun t => t.ring = r.id && t.line = addrLine q.addr && t.data = some q.member)
      (fun t => { t with answered := true }) x.txns }) s

/-- An answer without the data that the home awaits leaves that to the owner's WRITE_BACK. -/
theorem snoopAnswered_later (ha : awaitsData r q s = true)
    (hw : ∀ w ∈ s.rings.waiting, ofLine r.id (addrLine q.addr) w = false) :
    snoopAnswered r (addrLine q.addr) q.member none s = (true, awaitWriteBack r q s) := by
  have hnone : (s.rings.waiting.find? fun w => ofLine r.id (addrLine q.addr) w && w.inner.modifier = 3
      && w.src = memberInst r q.member) = none := List.find?_eq_none.2 fun w h => by simp [hw w h]
  unfold awaitsData at ha
  simp only [snoopAnswered, ha, Bool.not_true, Bool.false_eq_true, if_false, hnone]
  rfl

end

/-- The FAU that serves takes the next snoop of a type. -/
theorem exec_memberSnoop {c : Instr} {msg : Nat} {s : State}
    (hc : (c, msg) ∈ [((.invalidate : Instr), 5), (.recall, 6), (.downgrade, 7)]) (hf : fauServes s = true) :
    exec c s = .next (resume (memberSnoop msg (atFau s))) := by
  have he : exec c s = .next (serveRing (memberSnoop msg) s) := by
    simp only [List.mem_cons, Prod.mk.injEq, List.not_mem_nil, or_false] at hc
    obtain ⟨rfl, rfl⟩ | ⟨rfl, rfl⟩ | ⟨rfl, rfl⟩ := hc <;> rfl
  rw [he, serveRing_of_serves hf]

/-- The FAU that serves takes the next response of a type. -/
theorem exec_ringResponse {c : Instr} {msg : Nat} {s : State}
    (hc : (c, msg) ∈ [((.grant : Instr), 8), (.ack, 9), (.dataBack, 0xA)]) (hf : fauServes s = true) :
    exec c s = .next (resume (ringResponse msg (atFau s))) := by
  have he : exec c s = .next (serveRing (ringResponse msg) s) := by
    simp only [List.mem_cons, Prod.mk.injEq, List.not_mem_nil, or_false] at hc
    obtain ⟨rfl, rfl⟩ | ⟨rfl, rfl⟩ | ⟨rfl, rfl⟩ := hc <;> rfl
  rw [he, serveRing_of_serves hf]

/-- Settles O23: a snoop by memberSnoop, an answer by the request that it answers and what the home awaits, the caching
agent's answer by takeReply. -/
theorem snoopsAndAnswersComplete : Obligations.SnoopsAndAnswersComplete := by
  refine ⟨?snoop, ?line, ?data, ?ack, ?unmatched, ?reply⟩
  case snoop =>
    intro c msg hc r m k s h hk hhome
    rw [exec_memberSnoop hc h.serves, memberSnoop_fresh h hk hhome]
  case line =>
    intro c msg hc r q m s hf hn ha hq
    have hmem : (c, msg) ∈ [((.grant : Instr), 8), (.ack, 9), (.dataBack, 0xA)] := List.mem_append_left [_] hc
    have hmsg : msg ≠ 0xA := by
      rintro rfl
      simp at hc
    rw [exec_ringResponse hmem hf, ringResponse_line (by simpa using hn) (by simpa using ha) hq hmsg]
  case data =>
    intro r q m s v hf hn ha hq hawait hv
    have hmsg : ((0xA : Nat) = 8 || ((0xA : Nat) = 0xA && q.message = 5)) = false := by
      have hne : q.message ≠ 5 := fun h => by simp [h] at hq
      rw [decide_eq_false hne]
      rfl
    rw [exec_ringResponse (msg := 0xA) (by simp) hf,
      ringResponse_snoop (by simpa using hn) (by simpa using ha) (by omega) hmsg
        (snoopAnswered_data (by simpa using hawait) hv)]
  case ack =>
    intro r q m s hf hn ha hq u
    have settled : ∀ {v : State}, snoopAnswered r (addrLine q.addr) q.member none u = (true, v) →
        exec .ack s = .next (resume (pumpLines v)) := by
      intro v hv
      rw [exec_ringResponse (msg := 9) (by simp) hf,
        ringResponse_snoop (by simpa using hn) (by simpa using ha) hq rfl hv]
    exact ⟨fun hawait => settled (snoopAnswered_noData (by simpa [u] using hawait) none),
      fun hawait hw => settled (snoopAnswered_later (by simpa [u] using hawait) (by simpa [u] using hw))⟩
  case unmatched =>
    intro c msg hc m s hf hn ha
    rw [exec_ringResponse hc hf, ringResponse_unmatched (by simpa using hn) (by simpa using ha)]
  case reply =>
    intro ring addr data r m s hf hopen hr hsrc hroom
    obtain rfl : messageRing m.inner = ring := by
      have hm := List.find?_some hopen
      simp only [Bool.and_eq_true, decide_eq_true_eq] at hm
      exact hm.1.1
    refine congrArg Host.Outcome.next ?_
    dsimp only
    rw [hopen]
    dsimp only
    rw [withFau_of_serves hf,
      takeReply_other (by simpa [findRingOf] using hr) (by simpa using hsrc) (by simpa using hroom)]

end Sys2Proof.Machine
end

section
/-! SUPPORT. What becomes of the caching agent's line requests, and of heartbeats (R187, R188, R194, R195, R197), and the
statement about them. -/

namespace Sys2Proof.Machine

/-! ### Line requests (R187, R188, R197, R385) -/

/-- The state in which a line request is taken: the domain that takes it, if there is one, has work now (R41, R42). -/
def atLine (ring : BitVec 12) (addr : BitVec 64) (s : State) : State :=
  if domainExists s (lineDomain s ring addr) then markWork (lineDomain s ring addr) s else s

/-- What a mark of work leaves, taking a line request leaves. -/
theorem atLine_keeps {β : Type} {f : State → β} {s : State} (h : ∀ d, f (markWork d s) = f s) (ring : BitVec 12)
    (addr : BitVec 64) : f (atLine ring addr s) = f s := by
  unfold atLine
  split
  · exact h _
  · rfl

/-- A line request whose domain takes work now arrives. -/
theorem exec_lineRequest {ring : BitVec 12} {addr : BitVec 64} {s : State} (hrun : running s = true)
    (hd : domainExists s (lineDomain s ring addr) = true → accepts s (lineDomain s ring addr) = true)
    (message : BitVec 4) (data : Bytes) :
    exec (.lineRequest ring message addr data) s = .next (arriveLine ring message addr data (atLine ring addr s)) := by
  refine congrArg Host.Outcome.next ?_
  rw [hrun]
  unfold atLine
  by_cases h : domainExists s (lineDomain s ring addr) = true
  · have ha : (serves s (lineDomain s ring addr) && !entering s (lineDomain s ring addr)) = true := hd h
    simp only [h, if_true, enter, ha, Bool.not_true, Bool.false_eq_true, if_false]
  · simp only [h, Bool.not_true, Bool.false_eq_true, if_false]

/-- What is asked of a line request before its home is looked at (R187, R385). -/
structure LineOk (r : Ring) (q : Polder) (ring : BitVec 12) (message : BitVec 4) (addr : BitVec 64) (data : Bytes)
    (s : State) : Prop where
  ring : findRingOf s ring = some r
  polder : findPolder s r.polder = some q
  live : q.teardown = none
  active : r.active = true
  stands : r.destroying = none
  valid : addrValid r addr = true
  request : message.toNat ≤ 4
  length : data.length = if message = 3 then 256 else 0

/-- A line request of this member's own memory, as the message that its home serves. -/
def ownLine (r : Ring) (message : BitVec 4) (addr : BitVec 64) (data : Bytes) (s : State) : Released :=
  { polder := r.polder, src := s.boot.instanceId, group := none, sid := 0, epoch := 0, counter := 0, kind := 0,
    cls := Config.ringClass r.polder, retry := false,
    inner := (ringPacket r s.boot.instanceId message addr 0 0 .ok data false).inner, payload := data }

theorem ownLine_modifier (r : Ring) (message : BitVec 4) (addr : BitVec 64) (data : Bytes) (s : State) :
    (ownLine r message addr data s).inner.modifier.toNat = message.toNat :=
  (BitVec.toNat_ofNat ..).trans (Nat.mod_eq_of_lt (by omega))

section
variable {r : Ring} {q : Polder} {ring : BitVec 12} {message : BitVec 4} {addr : BitVec 64} {data : Bytes} {s : State}

/-- The mark of work is no part of that. -/
theorem LineOk.atLine (h : LineOk r q ring message addr data s) :
    LineOk r q ring message addr data (atLine ring addr s) :=
  { h with
    ring := (atLine_keeps (f := fun t => findRingOf t ring) (fun _ => rfl) ring addr).trans h.ring
    polder := (atLine_keeps (f := fun t => findPolder t r.polder) (fun _ => rfl) ring addr).trans h.polder }

/-- A line request that is in order goes by its home. -/
theorem LineOk.arriveLine_eq (h : LineOk r q ring message addr data s) : arriveLine ring message addr data s
    = if memberDead r (addrHome addr) then homeLost r (addrHome addr) 1 (emit (.ringAnswer ring addr .lineLost 0 []) s)
      else if addrHome addr = r.own then count 0x283 (serveLine (ownLine r message addr data s) s)
      else if spaceOpen s r.polder (destOf false (memberInst r (addrHome addr))) then
        sendLine r (addrHome addr) message addr data s
      else count 0x009 (modRings (fun x => { x with lineWait := x.lineWait ++ [(ring, message, addr, data)] }) s) := by
  obtain ⟨hr, hq, hlive, hactive, hstands, hvalid, hmsg, hlen⟩ := h
  have hshape : (!r.active || r.destroying.isSome || !addrValid r addr || decide (4 < message.toNat)
      || decide (data.length ≠ if message = 3 then 256 else 0)) = false := by
    simp [hactive, hstands, hvalid, hmsg, hlen]
  simp only [arriveLine, hr, hq, hlive, hshape, Option.isSome_none, Bool.false_eq_true, if_false]
  rfl

end

/-! ### Heartbeats (R194, R195) -/

/-- A change of a ring that keeps its number is a change of the ring found. -/
theorem findRingOf_modRingOf {ring : BitVec 12} {f : Ring → Ring} (h : ∀ x, (f x).id = x.id) (s : State) :
    findRingOf (modRingOf ring f s) ring = (findRingOf s ring).map f :=
  find?_alter (p := fun x : Ring => x.id = ring) (f := f) (fun x hx => by simpa [h] using hx) s.rings.rings

/-- Sealing a packet notes in the rings only when a request was sent. -/
theorem noteSent_ringList (owner : TxOwner) (t : TxStream) (s : State) :
    (noteSent owner t s).rings.rings = s.rings.rings := by
  cases owner <;> rfl

@[simp] theorem setTx_rings (t : TxStream) (s : State) : (setTx t s).rings = s.rings := rfl

@[simp] theorem askNext_rings (r : StreamRef) (p : PolderId) (epoch : BitVec 32) (s : State) :
    (askNext r p epoch s).2.rings = s.rings :=
  askNext_frame (A := [.out, .pins, .sb, .polders, .cad, .keys, .stack, .obj, .fns, .tracer, .power, .free])
    r p epoch s (agree_refl _ s) rfl .rings rfl

theorem sealPacket_ringList (t : TxStream) (slice : BitVec 8) (key : Key256) (k : TxPacket) (s : State) :
    (sealPacket t slice key k s).rings.rings = s.rings.rings := by
  unfold sealPacket
  dsimp only
  split <;> split <;> simp [noteSent_ringList]

theorem rings_of_wakeAll {ds : List DomainId} {s u : State} {b : Bool} (h : wakeAll ds s = (b, u)) :
    u.rings = s.rings := by
  have hr := wakeAll_frame (A := [.pins, .tracer, .power]) ds s (agree_refl _ s) rfl .rings rfl
  rw [h] at hr
  exact hr

theorem requestTx_rings (t : TxStream) (s : State) : (requestTx t s).rings = s.rings :=
  requestTx_frame (A := [.out, .pins, .sb, .polders, .cad, .keys, .link, .stack, .obj, .fns, .tracer, .power, .free])
    t s (agree_refl _ s) rfl .rings rfl

theorem rings_of_streamFor {k : TxPacket} {x : Except Status TxStream} {s u : State} (h : streamFor k s = (x, u)) :
    u.rings = s.rings := by
  have hr := streamFor_frame (A := [.out, .pins, .sb, .polders, .cad, .keys, .link, .stack, .obj, .fns, .tracer, .power,
    .free]) k s (agree_refl _ s) rfl .rings rfl
  rw [h] at hr
  exact hr

/-- Sealing is the only branch that touches the rings, and it notes the sending of a request alone. -/
theorem pumpTx_ringList (p : PolderId) (d : Dest) (cls : BitVec 4) (lane n : Nat) (s : State) :
    (pumpTx p d cls lane n s).rings.rings = s.rings.rings := by
  induction n generalizing s with
  | zero => rfl
  | succ n ih =>
    unfold pumpTx
    dsimp only
    split
    · split
      · rfl
      · split
        · split
          · rfl
          · split
            · next hwake => exact congrArg Rings.rings (rings_of_wakeAll hwake)
            · next hwake => rw [ih, sealPacket_ringList, ← rings_of_wakeAll hwake]
        · rw [requestTx_rings]
    · rfl

theorem sendPacket_ringList (k : TxPacket) (s : State) : (sendPacket k s).2.rings.rings = s.rings.rings := by
  unfold sendPacket
  split
  · rfl
  · split
    · rfl
    · split
      · rfl
      · split
        · next hstream => exact congrArg Rings.rings (rings_of_streamFor hstream)
        · next hstream =>
          rw [← rings_of_streamFor hstream]
          dsimp only
          rw [pumpTx_ringList]
          split <;> rfl

/-- The heartbeat of a ring to one of its members (R194). -/
def heartbeatPacket (ring : BitVec 12) (r : Ring) (p : RingPeer) : TxPacket :=
  { polder := r.polder, dest := destOf false (memberInst r p.member), cls := Config.ringClass r.polder, lane := 0,
    kind := 0, retry := false,
    inner := { offset := 0, regionKey := BitVec.ofNat 32 ring.toNat, seq := 0, ctag := 0, opLength := 0,
               opcode := 0x0C, classLabel := Config.ringClass r.polder, opFlags := 0, modifier := 0, aux := r.heartbeat },
    payload := [], owner := .none }

/-- Where its heartbeat is due, a ring's own count goes on, and every other member is sent one. -/
theorem exec_heartbeatSend {ring : BitVec 12} {r : Ring} {s : State} (hr : findRingOf s ring = some r)
    (ha : r.active = true) (hd : r.sentAt + 100000 ≤ s.datum.value.toNat) :
    exec (.heartbeatSend ring) s = .next (r.peers.foldl (fun t p => sendQuietly (heartbeatPacket ring r p) t)
      (modRingOf ring (fun x => { x with heartbeat := x.heartbeat + 1, sentAt := s.datum.value.toNat }) s)) := by
  have hdue : (!r.active || decide (s.datum.value.toNat < r.sentAt + 100000)) = false := by simp [ha, hd]
  simp only [exec, execHeartbeatSend, hr, hdue, Bool.false_eq_true, if_false]
  rfl

/-- A peer as a heartbeat leaves it, where it is the one that sent it (R194). -/
def heardFrom (p : RingPeer) (seq : BitVec 32) (now : Nat) (x : RingPeer) : RingPeer :=
  if x.member = p.member then { x with last := some seq, at_ := now } else x

/-- A heartbeat that follows the last one accepted of its sender is accepted. -/
theorem exec_ringHeartbeat {m : Released} {r : Ring} {p : RingPeer} {s : State} (hn : nextReleased s 0x0C 0 = some m)
    (hr : findRingOf s (messageRing m.inner) = some r)
    (hp : (r.peers.find? fun p => memberInst r p.member = m.src) = some p) (ha : r.active = true)
    (hpol : r.polder = m.polder) (hlive : p.dead = false) (hseq : ∀ n, p.last = some n → serialLt n m.inner.aux = true) :
    exec .ringHeartbeat s = .next (modRingOf r.id
      (fun x => { x with peers := x.peers.map (heardFrom p m.inner.aux s.datum.value.toNat) }) (dropReleased m s)) := by
  have hr' : findRingOf (dropReleased m s) (messageRing m.inner) = some r := hr
  cases hl : p.last with
  | none =>
    simp only [exec, execRingHeartbeat, hn, hr', hp, ha, hpol, hlive, hl, Bool.not_true, ne_eq, not_true_eq_false,
      decide_false, Bool.or_self, Bool.false_eq_true, if_false]
    rfl
  | some n =>
    simp only [exec, execRingHeartbeat, hn, hr', hp, ha, hpol, hlive, hl, hseq n hl, Bool.not_true, ne_eq,
      not_true_eq_false, decide_false, Bool.or_self, Bool.false_eq_true, if_false]
    rfl

/-- A member without a heartbeat for 350 µs of Datum is declared dead. -/
theorem exec_heartbeatMissed {ring : BitVec 12} {member : BitVec 3} {r : Ring} {p : RingPeer} {s : State}
    (hr : findRingOf s ring = some r) (hp : (r.peers.find? fun p => p.member = member) = some p) :
    exec (.heartbeatMissed ring member) s = .next
      (if r.active && p.at_ + 350000 ≤ s.datum.value.toNat then resume (declareDead r member s) else s) := by
  simp only [exec, execHeartbeatMissed, hr, hp]

/-- Settles O24: a line request by its home, a heartbeat by its sender's place in the ring. -/
theorem lineRequestsAndHeartbeatsComplete : Obligations.LineRequestsAndHeartbeatsComplete := by
  refine ⟨?line, ?accepted, ?sent, ?missed, ?early⟩
  case line =>
    intro ring message addr data r q s hrun hr hq hlive ha hstands hvalid hmsg hlen hd k u
    have hok : LineOk r q ring message addr data s := ⟨hr, hq, hlive, ha, hstands, hvalid, hmsg, hlen⟩
    have he := exec_lineRequest hrun hd message data
    rw [hok.atLine.arriveLine_eq] at he
    refine ⟨fun hdead hown => ?_, fun hdead hown hopen => ?_, fun hdead => ?_⟩
    · rw [if_neg (ne_true_of_eq_false hdead), if_pos hown] at he
      have hsrc := atLine_keeps (s := s) (f := fun t => t.boot.instanceId) (fun _ => rfl) ring addr
      exact ⟨ownLine r message addr data u, hsrc, rfl, ownLine_modifier .., rfl, he⟩
    · have hspace := atLine_keeps (s := s) (f := fun t => spaceOpen t r.polder (destOf false (memberInst r k)))
        (fun _ => rfl) ring addr
      rwa [if_neg (ne_true_of_eq_false hdead), if_neg hown, if_pos (hspace.trans hopen)] at he
    · rwa [if_pos hdead] at he
  case accepted =>
    intro m r p s hn hr hp ha hpol hlive hseq
    refine ⟨_, exec_ringHeartbeat hn hr hp ha hpol hlive hseq, rfl, ?_⟩
    have hid : findRingOf s r.id = some r := by rwa [id_of_findRingOf hr]
    exact (findRingOf_modRingOf (by exact fun _ => rfl) (dropReleased m s)).trans (congrArg (Option.map _) hid)
  case sent =>
    intro ring r s hr ha hd
    refine ⟨_, exec_heartbeatSend hr ha hd, ?_⟩
    have hkeep := foldl_keeps (f := fun t => t.rings.rings) (g := fun t p => sendQuietly (heartbeatPacket ring r p) t)
      (fun t p => sendPacket_ringList _ t) r.peers
    exact (congrArg (List.find? _) (hkeep _)).trans
      ((findRingOf_modRingOf (by exact fun _ => rfl) s).trans (congrArg (Option.map _) hr))
  case missed =>
    intro ring member r p s hr hp ha hd
    rw [exec_heartbeatMissed hr hp, if_pos (by simp [ha, hd])]
  case early =>
    intro ring member r p s hr hp hd
    rw [exec_heartbeatMissed hr hp, if_neg (by simp [Nat.not_le.2 hd])]

end Sys2Proof.Machine
end

section
/-! SUPPORT. What the packets of collectives do at a node (R243 to R252), and the statement about them. -/

namespace Sys2Proof.Machine

/-! ### A packet and the record it belongs to (R541) -/

/-- A command that serves an admitted packet goes on to the state that serving the packet for its group leaves. -/
theorem next_of_admitted {up barrier : Bool} {type : BitVec 4} {g : Group} {r : Released} {s u t : State}
    {serve : Group → Released → State → State} (h : Admitted up type barrier g r s u) (ht : serve g r u = t) :
    (.next (serveColl up type barrier serve s) : Host.Outcome State Fault Refusal) = .next t := by
  rw [serveColl_of_admitted h serve, ht]

/-- A packet of the group of the collective in progress is served with the node's record. -/
theorem ofNode_of_found {g : Group} {r : Released} {n : CollNode} {s : State}
    (hn : findNode s g.polder r.inner.regionKey = some n) (hg : n.launch.group = g.id)
    (serve : Group → CollNode → Released → State → State) : ofNode serve g r s = serve g n r s := by
  simp only [ofNode, hn, if_pos hg]

/-- A packet from a child that has opened is progress of the node, and is served as that child's. -/
theorem atNode_of_fromKid {g : Group} {r : Released} {n : CollNode} {i : Nat} {k : Kid} {s : State}
    (h : FromKid g r n i k s) (serve : Group → CollNode → Nat → Kid → Released → State → State) :
    atNode serve g r s = serve g { n with progressAt := s.time } i k r s := by
  obtain ⟨hn, hg, hk, hopen⟩ := h
  unfold atNode
  simp only [ofNode_of_found hn hg, hk, if_pos hopen]

/-! ### Opening (R243, R245) -/

/-- The open packet of a child whose collective the node does not hold is its first. -/
theorem serveOpen_first {g : Group} {r : Released} {i j : Nat} {k : Kid} {s : State} (hj : ownNode g s = some j)
    (hk : kidFrom g j r.src = some (i, k)) (hn : findNode s g.polder r.inner.regionKey = none) :
    serveOpen g r s = firstOpen g j i r s := by
  simp only [serveOpen, hn, hj, hk]

/-- A first open packet that fits takes a record where the quanta and a place for it are free. -/
theorem firstOpen_room {g : Group} {r : Released} {i j : Nat} {s : State} (hfits : openFits g r = true)
    (hq : leastQuanta r.inner.modifier (kidsOf g j).length ≤ freeQuanta s) (hroom : s.coll.nodes.length < 512) :
    firstOpen g j i r s = joinOpen g (newNode g j (min 32 (freeQuanta s)) r s) i r
      (traceColl false (newNode g j (min 32 (freeQuanta s)) r s).launch none .ok s) := by
  have hfree : (decide (freeQuanta s < leastQuanta r.inner.modifier (kidsOf g j).length)
      || decide (512 ≤ s.coll.nodes.length)) = false := by simp [hq, hroom]
  simp only [firstOpen, hfits, hfree, Bool.not_true, Bool.false_eq_true, if_false]

/-- A first open packet that fits is refused with ST_BUSY where the quanta of the least window are not free. -/
theorem firstOpen_busy {g : Group} {r : Released} {i j : Nat} {s : State} (hfits : openFits g r = true)
    (hq : freeQuanta s < leastQuanta r.inner.modifier (kidsOf g j).length) :
    firstOpen g j i r s = sendAbort g r.inner.regionKey r.cls r.inner.modifier (some j) .busy s.boot.instanceId
      (countBy 0x2C3 (leastQuanta r.inner.modifier (kidsOf g j).length) s) := by
  simp only [firstOpen, hfits, hq, decide_true, Bool.true_or, Bool.not_true, Bool.false_eq_true, if_false, if_true,
    countBy_boot]

/-! ### Benchmarks from the parent (R247) -/

/-- A node with the benchmarks of a packet at a time: those of the blocks it has none for. -/
def benchTaken (r : Released) (at_ : Nat) (n : CollNode) : CollNode :=
  { n with
    bench := n.bench ++ (r.payload.zipIdx).filterMap fun x =>
      if n.bench.any fun b => b.1 = r.inner.offset.toNat + x.2 then none else some (r.inner.offset.toNat + x.2, x.1)
    progressAt := at_ }

/-- A node that lacks benchmarks takes those of its parent, and starts the data pass once it has them all. -/
theorem nodeBench_lacking {g : Group} {r : Released} {n : CollNode} {s : State} (hroot : n.root = false)
    (hlacks : benchHeld n = false) (hin : r.inner.offset.toNat + r.payload.length ≤ blockCount n.launch) :
    nodeBench g n r s
      = if benchHeld (benchTaken r s.time n) then
          sendBench g (beginData { benchTaken r s.time n with codes := [] }) none
            (clearSent n.launch.polder n.launch.id n.launch.count 0 s)
        else setNode (benchTaken r s.time n) (clearSent n.launch.polder n.launch.id n.launch.count 0 s) := by
  have htake : (n.root || benchHeld n || decide (blockCount n.launch < r.inner.offset.toNat + r.payload.length))
      = false := by simp [hroot, hlacks, hin]
  simp only [nodeBench, htake, Bool.false_eq_true, if_false]
  rfl

/-! ### Contributions of a reduction (R246, R248) -/

/-- The inputs that a packet of child i brings: its blocks that the ranges it has sent do not cover. -/
def newBlocks (i : Nat) (k : Kid) (r : Released) (n : CollNode) : List NodeInput :=
  let first := r.inner.offset.toNat
  let x := packetPartials n k r
  let last := first + x.1.length
  let blocks := (List.range ((x.1.length + 255) / 256)).filter fun b =>
    !covers (first + 256 * b) (min last (first + 256 * b + 256)) (getKid n i).got
  blocks.map fun b =>
    { child := i, block := first / 256 + b, values := (x.1.drop (256 * b)).take 256,
      lost := (x.2.2.filter fun e => e / 256 = b).map (· % 256), raw := [] }

/-- A node with the blocks of a packet of child i. -/
def blocksTaken (i : Nat) (k : Kid) (r : Released) (n : CollNode) : CollNode :=
  let x := packetPartials n k r
  let got := addRange r.inner.offset.toNat (r.inner.offset.toNat + x.1.length) (getKid n i).got
  modKid i (fun y => { y with got := got, through := reach got })
    { n with inputs := n.inputs ++ newBlocks i k r n, flags := n.flags ||| x.2.1 }

/-- A child of a node that is changed is what the change makes of it. -/
theorem getKid_modKid {n : CollNode} {i : Nat} (f : NodeChild → NodeChild) (hi : i < n.kids.length) :
    getKid (modKid i f n) i = f (getKid n i) := by
  simp [getKid, modKid, List.getD_eq_getElem?_getD, hi]

/-- Each input that a packet brings is the child's, of a block that it had not sent: where the packet starts with a
block, of the elements from the block's first to its last or the packet's. -/
theorem newBlocks_new {i : Nat} {k : Kid} {r : Released} {n : CollNode} (hstart : r.inner.offset.toNat % 256 = 0)
    {y : NodeInput} (hy : y ∈ newBlocks i k r n) :
    y.child = i ∧ covers (256 * y.block) (min (r.inner.offset.toNat + (packetPartials n k r).1.length)
      (256 * y.block + 256)) (getKid n i).got = false := by
  simp only [newBlocks, List.mem_map, List.mem_filter, Bool.not_eq_true'] at hy
  obtain ⟨b, ⟨-, hb⟩, rfl⟩ := hy
  have hplace : 256 * (r.inner.offset.toNat / 256 + b) = r.inner.offset.toNat + 256 * b := by omega
  exact ⟨rfl, by rwa [hplace]⟩

/-- A contribution to a reduction whose pass has begun is taken as one. -/
theorem nodeContribution_reduce {g : Group} {n : CollNode} {i : Nat} {k : Kid} {r : Released} {s : State}
    (hopen : allOpened n = true) (hbench : benchHeld n = true) (hf : isFilter n.launch.modifier = false)
    (hga : isGather n.launch.modifier = false) : nodeContribution g n i k r s = nodeReduce g n i k r s := by
  simp [nodeContribution, hopen, hbench, hf, hga]

/-- Whole blocks within the child's credit, that it had not all sent, are taken into the node's inputs. -/
theorem nodeReduce_new {g : Group} {n : CollNode} {i : Nat} {k : Kid} {r : Released} {s : State} {last : Nat}
    (hl : last = r.inner.offset.toNat + (packetPartials n k r).1.length) (hstart : r.inner.offset.toNat % 256 = 0)
    (hcredit : last ≤ (getKid n i).credit) (hend : last % 256 = 0 ∨ last = n.launch.count)
    (hnew : covers r.inner.offset.toNat last (getKid n i).got = false) :
    nodeReduce g n i k r s = nodeWork g (blocksTaken i k r n) (some i) s := by
  subst hl
  have hwhole : (decide ((r.inner.offset.toNat + (packetPartials n k r).1.length) % 256 ≠ 0)
      && decide (r.inner.offset.toNat + (packetPartials n k r).1.length ≠ n.launch.count)) = false := by
    cases hend with
    | inl hblocks => simp only [hblocks, ne_eq, not_true_eq_false, decide_false, Bool.false_and]
    | inr hall => simp only [hall, ne_eq, not_true_eq_false, decide_false, Bool.and_false]
  simp only [nodeReduce, hstart, Nat.not_lt.2 hcredit, hwhole, hnew, ne_eq, not_true_eq_false, decide_false, Bool.or_self,
    Bool.false_eq_true, if_false]
  rfl

/-! ### The passes of a filter (R249) -/

/-- The counts of a child in a filter's count pass are summed, once for each rank, with the flags they carry. -/
theorem nodeCounts_first {g : Group} {n : CollNode} {i : Nat} {k : Kid} {r : Released} {s : State}
    (hf : isFilter n.launch.modifier = true) (hsecond : n.second = false) :
    nodeCounts g n i k r s = nodeWork g { n with
      flags := n.flags ||| packetFlags r
      sums := n.sums ++ ((parseEntries r.payload).filter fun x => (ranksOf g n.node k).contains x.1).filter
        fun x => (n.sums.lookup x.1).isNone } (some i) s := by
  simp only [nodeCounts, hf, hsecond, Bool.not_true, Bool.not_false, Bool.false_eq_true, if_false, if_true]

/-- A node with the bases of a packet at a time: those of the ranks it has none for. -/
def basesTaken (r : Released) (at_ : Nat) (n : CollNode) : CollNode :=
  { n with bases := n.bases ++ (parseEntries r.payload).filter fun x => (n.bases.lookup x.1).isNone, progressAt := at_ }

/-- What a node makes of the start of its placement pass: it works, or aborts where the bases can not be sent on. -/
def afterPlacement (g : Group) : Option Status × CollNode × State → State
  | (none, n, s) => nodeWork g n none s
  | (some st, n, s) => abortNode g n st s.boot.instanceId s

/-- A node that waits for bases takes those of its parent, and starts the placement pass once every rank has one. -/
theorem nodeBases_waiting {g : Group} {n : CollNode} {r : Released} {s : State} (hf : isFilter n.launch.modifier = true)
    (hroot : n.root = false) (hsecond : n.second = false) :
    nodeBases g n r s
      = if (ranksUnder g n.node).all fun x => ((basesTaken r s.time n).bases.lookup x.1).isSome then
          afterPlacement g (beginPlacement g (basesTaken r s.time n) s)
        else setNode (basesTaken r s.time n) s := by
  have hwait : (!isFilter n.launch.modifier || n.root || n.second) = false := by simp [hf, hroot, hsecond]
  simp only [nodeBases, hwait, Bool.false_eq_true, if_false]
  rfl

/-! ### Receipts from the parent (R246) -/

/-- A receipt at an instance without the participant's record is the node's. -/
theorem exec_receipt_node {g : Group} {r : Released} {n : CollNode} {s u : State} (h : Admitted false 4 false g r s u)
    (hp : findPart u g.polder r.inner.regionKey = none) (hn : findNode u g.polder r.inner.regionKey = some n)
    (hg : n.launch.group = g.id) : exec .receipt s = .next (nodeReceipt g n r u) :=
  next_of_admitted h (by simp only [hp, ofNode_of_found hn hg])

/-- A receipt that gives a node credit frees what it covers, and lets the node go on. -/
theorem nodeReceipt_credit {g : Group} {n : CollNode} {r : Released} {s : State} (hroot : n.root = false)
    (hcredit : leField r.payload 8 8 ≠ 0) :
    nodeReceipt g n r s = nodeWork g { n with
      progressAt := s.time
      ackedUp := max n.ackedUp (leField r.payload 0 8)
      creditUp := max n.creditUp (leField r.payload 8 8)
      out := n.out.filter fun x => max n.ackedUp (leField r.payload 0 8) < x.pos + x.len } none
      (clearSent n.launch.polder n.launch.id (leField r.payload 0 8) (leField r.payload 8 8) s) := by
  simp only [nodeReceipt, hroot, Bool.false_eq_true, if_false, if_neg hcredit]
  rfl

/-- Settles O25: an admitted packet by its node's record and by what the node makes of its type. -/
theorem collectiveNodesComplete : Obligations.CollectiveNodesComplete := by
  refine ⟨?opens, ?codes, ?benchmarks, ?contribution, ?counts, ?bases, ?receipt, ?report⟩
  case opens =>
    intro g r i j k s u hadm hj hk hn hfits
    have hfirst := serveOpen_first hj hk hn
    exact ⟨fun hq hroom => next_of_admitted hadm (hfirst.trans (firstOpen_room hfits hq hroom)),
      fun hq => next_of_admitted hadm (hfirst.trans (firstOpen_busy hfits hq))⟩
  case codes => exact fun g r n i k s u hadm hkid => next_of_admitted hadm (atNode_of_fromKid hkid nodeCodes)
  case benchmarks =>
    intro g r n s u hadm hn hg hroot hlacks hin m v
    have he := (ofNode_of_found hn hg nodeBench).trans (nodeBench_lacking hroot hlacks hin)
    exact ⟨fun hm => next_of_admitted hadm (he.trans (if_neg (ne_true_of_eq_false hm))),
      fun hm => next_of_admitted hadm (he.trans (if_pos hm))⟩
  case contribution =>
    intro g r n i k s u hadm hkid hopen hbench hf hga x first last hstart hcredit hend hnew
    have htaken : nodeContribution g { n with progressAt := u.time } i k r u
        = nodeWork g (blocksTaken i k r { n with progressAt := u.time }) (some i) u :=
      Eq.trans (nodeContribution_reduce hopen hbench hf hga) (nodeReduce_new rfl hstart hcredit hend hnew)
    have he := next_of_admitted hadm ((atNode_of_fromKid hkid nodeContribution).trans htaken)
    exact ⟨_, he, rfl, rfl, rfl, rfl, ⟨_, rfl, fun y hy => newBlocks_new hstart hy⟩,
      fun hi => congrArg NodeChild.got (getKid_modKid _ hi)⟩
  case counts =>
    intro g r n i k s u hadm hkid hf hsecond
    exact next_of_admitted hadm ((atNode_of_fromKid hkid nodeCounts).trans (nodeCounts_first hf hsecond))
  case bases =>
    intro g r n s u hadm hn hg hf hroot hsecond m
    have he := (ofNode_of_found hn hg nodeBases).trans (nodeBases_waiting hf hroot hsecond)
    refine ⟨fun w v hall => ?whole, fun hsome => ?part⟩
    case whole =>
      have hwhole := he.trans (if_pos (List.all_eq_true.2 hall))
      exact ⟨fun hb => next_of_admitted hadm (hwhole.trans (congrArg (afterPlacement g) hb)),
        fun st hb => next_of_admitted hadm (hwhole.trans (congrArg (afterPlacement g) hb))⟩
    case part =>
      obtain ⟨x, hx, hlack⟩ := hsome
      refine next_of_admitted hadm (he.trans (if_neg fun hall => ?_))
      have hheld := List.all_eq_true.1 hall x hx
      exact absurd hheld (ne_true_of_eq_false (Option.isSome_eq_false_iff.2 (Option.isNone_iff_eq_none.2 hlack)))
  case receipt =>
    intro g r n s u hadm hp hn hg hroot hcredit
    rw [exec_receipt_node hadm hp hn hg, nodeReceipt_credit hroot hcredit]
  case report => exact fun g r n s u hadm hn hg => next_of_admitted hadm (ofNode_of_found hn hg nodeReport)

end Sys2Proof.Machine
end

section
/-! SUPPORT. What the packets, re-sends and watchdogs of collectives do at a participant and a sink, and how collectives
end (R246, R250 to R254), and the statement about them. -/

namespace Sys2Proof.Machine

/-! ### Results (R250, R251) -/

/-- A result at a role other than T is the participant's of its collective. -/
theorem exec_result_part {g : Group} {r : Released} {c : Participant} {s u : State} (h : Admitted false 2 false g r s u)
    (hrole : u.boot.role ≠ .t) (hc : findPart u g.polder r.inner.regionKey = some c) (hg : c.launch.group = g.id) :
    exec .result s = .next (partResult g c r u) :=
  next_of_admitted h (by simp only [if_neg hrole, hc, if_pos hg])

/-- A participant with a chunk of the result, of a range, at a time. -/
def chunkTaken (x : Nat × Nat × Nat) (at_ : Nat) (c : Participant) : Participant :=
  { c with
    written := addRange x.1 x.2.1 c.written
    through := reach (addRange x.1 x.2.1 c.written)
    chunks := c.chunks + 1
    progressAt := at_ }

/-- A chunk of the result whose range the participant has not written, and whose write is ready, is written; the
participant reports after every 64 chunks and at the end. -/
theorem partResult_new {g : Group} {c : Participant} {r : Released} {s v w : State}
    (hnew : covers (resultRange c.launch r).1 (resultRange c.launch r).2.1 c.written = false)
    (hv : localCheck (.result c.launch.polder c.launch.id) c.context c.launch.polder
      (c.dst.toNat + (resultRange c.launch r).2.2) r.payload.length true s = (.ready, v))
    (hw : w = stackCount c.launch.polder (c.dst.toNat + (resultRange c.launch r).2.2) r.payload.length true
      (stackWrite (polderStackKey v c.launch.polder) (c.dst.toNat + (resultRange c.launch r).2.2) r.payload v)) :
    partResult g c r s
      = if isFilter c.launch.modifier || (chunkTaken (resultRange c.launch r) w.time c).chunks % 64 = 0
          || (chunkTaken (resultRange c.launch r) w.time c).through = resultTotal c.launch g.ranks.length then
        partReport g (chunkTaken (resultRange c.launch r) w.time c)
          (setPart (chunkTaken (resultRange c.launch r) w.time c) w)
      else setPart (chunkTaken (resultRange c.launch r) w.time c) w := by
  subst hw
  rw [Bool.or_right_comm]
  simp only [partResult, hnew, hv, Bool.false_eq_true, if_false]
  cases hst : c.writeStatus <;> simp only [chunkTaken, hst]

/-- A copy of a chunk is dropped, but that the report at the end goes again. -/
theorem partResult_copy {g : Group} {c : Participant} {r : Released} {s : State}
    (hold : covers (resultRange c.launch r).1 (resultRange c.launch r).2.1 c.written = true) :
    partResult g c r s
      = if isFilter c.launch.modifier || c.through = resultTotal c.launch g.ranks.length then
        partReport g c (setPart { c with progressAt := s.time } s)
      else setPart { c with progressAt := s.time } s := by
  simp only [partResult, hold, if_true]

/-! ### Aborts (R253) -/

/-- An abort that is on its way up is served as one, whatever else waits. -/
theorem exec_abort_up {g : Group} {r : Released} {s u : State} (h : Admitted true 7 true g r s u) :
    exec .abort s = .next (serveAbortUp g r u) := by
  have ⟨_, hnext, _⟩ := h
  simp only [exec, execAbort, hnext, serveColl_of_admitted h]

/-- An abort on its way down is served where none is on its way up. -/
theorem exec_abort_down {g : Group} {r : Released} {s u : State} (hup : nextColl s true 7 true = none)
    (h : Admitted false 7 true g r s u) : exec .abort s = .next (serveAbortDown g r u) := by
  simp only [exec, execAbort, hup, serveColl_of_admitted h]

/-- An abort from below ends a node's collective, and goes on with the status and the instance it names. -/
theorem serveAbortUp_node {g : Group} {r : Released} {n : CollNode} {j : Nat} {s : State} (hj : ownNode g s = some j)
    (hn : findNode s g.polder r.inner.regionKey = some n) (hg : n.launch.group = g.id) :
    serveAbortUp g r s = abortNode g n (packetStatus r) (BitVec.ofNat 13 r.inner.offset.toNat) s := by
  simp only [serveAbortUp, hj, hn, if_pos hg]

/-! ### Re-sends (R246, R254) -/

/-- A packet without a receipt is noted as sent again now. -/
def resentNow (k : CollSent) (s : State) : State :=
  modColl (fun c => { c with
    sent := c.sent.map fun x => if x = k then { x with sentAt := s.time, resends := x.resends + 1 } else x }) s

/-- A packet is due to be sent again 250 µs after it was sent, where it does not still wait to be sealed. -/
theorem resend_due {k : CollSent} {s : State} (hd : k.sentAt + 250000 ≤ s.time)
    (hw : ∀ w ∈ s.link.txWait, w.inner ≠ k.packet.inner) :
    (decide (s.time < k.sentAt + 250000) || s.link.txWait.any fun w => decide (w.inner = k.packet.inner)) = false := by
  simpa [hd] using hw

/-- A packet that is due after three re-sends ends its collective with ST_TIMEOUT. -/
theorem exec_collectiveResend_last {n : Nat} {k : CollSent} {s : State} (hk : s.coll.sent[n]? = some k)
    (hd : k.sentAt + 250000 ≤ s.time) (hw : ∀ w ∈ s.link.txWait, w.inner ≠ k.packet.inner) (hthree : 3 ≤ k.resends) :
    exec (.collectiveResend n) s = .next (collectiveFailed k.packet.polder k.id .timeout s) := by
  simp only [exec, execCollectiveResend, hk, resend_due hd hw, Bool.false_eq_true, if_false, if_pos hthree]

/-- A packet of a node or a sink is sent again as it was, marked as a retry. -/
theorem freshPacket_of_no_part {k : CollSent} {s : State} (hp : findPart s k.packet.polder k.id = none) :
    freshPacket k s = (.ready, { k.packet with retry := true }, s) := by
  simp only [freshPacket, hp]

/-- A packet of a node or a sink that is due before its third re-send is sent again. -/
theorem exec_collectiveResend_again {n : Nat} {k : CollSent} {s t : State} (hk : s.coll.sent[n]? = some k)
    (hd : k.sentAt + 250000 ≤ s.time) (hw : ∀ w ∈ s.link.txWait, w.inner ≠ k.packet.inner) (hfew : k.resends < 3)
    (hp : findPart s k.packet.polder k.id = none)
    (ht : sendPacket { k.packet with retry := true } (resentNow k s) = (none, t)) :
    exec (.collectiveResend n) s = .next t := by
  unfold resentNow at ht
  simp only [exec, execCollectiveResend, hk, resend_due hd hw, Bool.false_eq_true, if_false, if_neg (Nat.not_le.2 hfew),
    freshPacket_of_no_part hp, ht]

/-! ### Watchdogs (R253) -/

/-- A participant's collective without progress for its group's watchdog is aborted with ST_TIMEOUT. -/
theorem exec_collectiveWatchdog_part {p : PolderId} {id : BitVec 32} {c : Participant} {g : Group} {s : State}
    (hc : findPart s p id = some c) (hg : findGroup s p c.launch.group = some g) (hfired : c.fired = true)
    (hd : c.progressAt + g.watchdog * 1000000 ≤ s.time) :
    exec (.collectiveWatchdog p id) s = .next (abortPart c .timeout s) := by
  simp [exec, execCollectiveWatchdog, hc, hg, hfired, hd]

/-- A node's collective without progress for its group's watchdog, and not finished, is aborted with ST_TIMEOUT. -/
theorem exec_collectiveWatchdog_node {p : PolderId} {id : BitVec 32} {n : CollNode} {g : Group} {s : State}
    (hp : findPart s p id = none) (hn : findNode s p id = some n) (hg : findGroup s p n.launch.group = some g)
    (hd : n.progressAt + g.watchdog * 1000000 ≤ s.time) (hmore : nodeFinished g n = false) :
    exec (.collectiveWatchdog p id) s = .next (abortNode g n .timeout s.boot.instanceId s) := by
  simp [exec, execCollectiveWatchdog, hp, hn, hg, hd, hmore]

/-- Settles O26: an admitted packet by the record that it is for, re-sends and watchdogs by their guards. -/
theorem collectiveParticipantsComplete : Obligations.CollectiveParticipantsComplete := by
  refine ⟨?receipt, ?result, ?copy, ?sinkResult, ?donePart, ?doneNode, ?doneSink, ?abortUp, ?abortDown, ?resendLast,
    ?resendAgain, ?watchdogPart, ?watchdogNode⟩
  case receipt => exact fun g r c s u hadm hc hg => next_of_admitted hadm (by simp only [hc, if_pos hg])
  case result =>
    intro g r c s u v hadm hrole hc hg x hnew hv w d
    rw [exec_result_part hadm hrole hc hg, partResult_new hnew hv rfl]
    rfl
  case copy =>
    intro g r c s u hadm hrole hc hg x v hold
    rw [exec_result_part hadm hrole hc hg, partResult_copy hold]
  case sinkResult => exact fun g r s u hadm hrole => next_of_admitted hadm (if_pos hrole)
  case donePart => exact fun g r c s u hadm hc hg => next_of_admitted hadm (by simp only [hc, if_pos hg, partDone])
  case doneNode => exact fun g r n s u hadm hp hn hg => next_of_admitted hadm (by simp only [hp, hn, if_pos hg])
  case doneSink => exact fun g r s u hadm hp hn => next_of_admitted hadm (by simp only [hp, hn])
  case abortUp =>
    intro g r n j s u hadm hj hn hg
    rw [exec_abort_up hadm, serveAbortUp_node hj hn hg]
  case abortDown => exact fun g r s u => exec_abort_down
  case resendLast => exact fun n k s => exec_collectiveResend_last
  case resendAgain => exact fun n k s t => exec_collectiveResend_again
  case watchdogPart => exact fun p id c g s => exec_collectiveWatchdog_part
  case watchdogNode => exact fun p id n g s => exec_collectiveWatchdog_node

end Sys2Proof.Machine
end

section
/-! SUPPORT. How the Datum runs, and what an exchange, a mark and a Floodwatch stop do (R276 to R283, R456), and the
statements about them. -/

namespace Sys2Proof.Machine

/-! ### One cycle of the Datum (R277) -/

/-- A correction that is not yet due only moves the phase on. -/
theorem steer_of_early {d : DatumUnit} (h : d.phase + d.rate.natAbs < 15625000) :
    steer d = { d with phase := d.phase + d.rate.natAbs } := if_neg (Nat.not_le.2 h)

/-- A correction that is due is one more nanosecond to remove. -/
theorem steer_of_due {d : DatumUnit} (h : 15625000 ≤ d.phase + d.rate.natAbs) :
    (steer d).slew = d.slew + d.rate.sign := congrArg DatumUnit.slew (if_pos h)

/-- Without a rate to correct, and with no correction due, nothing is corrected. -/
theorem steer_of_rate_zero {d : DatumUnit} (hr : d.rate = 0) (hp : d.phase < 15625000) : steer d = d := by
  have hsame : d.phase + d.rate.natAbs = d.phase := by rw [hr, Int.natAbs_zero, Nat.add_zero]
  rw [steer_of_early (by rwa [hsame]), hsame]

theorem slewTick_of_done {d : DatumUnit} (h : d.slew = 0) : slewTick d = { d with value := d.value + 1 } := by
  simp [slewTick, h]

/-- With an offset to remove, every 5,000th cycle counts 2 or 0. -/
theorem slewTick_of_due {d : DatumUnit} (h : d.slew ≠ 0) (hdue : 4999 ≤ d.sinceSlew) :
    slewTick d = { d with
      value := d.value + (if 0 < d.slew then 2 else 0), slew := if 0 < d.slew then d.slew - 1 else d.slew + 1,
      sinceSlew := 0 } :=
  if_pos (Bool.and_eq_true_iff.2 ⟨decide_eq_true h, decide_eq_true hdue⟩)

theorem slewTick_up {d : DatumUnit} (h : 0 < d.slew) (hdue : 4999 ≤ d.sinceSlew) :
    slewTick d = { d with value := d.value + 2, slew := d.slew - 1, sinceSlew := 0 } := by
  rw [slewTick_of_due (Int.ne_of_gt h) hdue, if_pos h, if_pos h]

theorem slewTick_down {d : DatumUnit} (h : d.slew < 0) (hdue : 4999 ≤ d.sinceSlew) :
    slewTick d = { d with slew := d.slew + 1, sinceSlew := 0 } := by
  have hneg : ¬0 < d.slew := Int.not_lt.2 (Int.le_of_lt h)
  have hvalue : d.value + 0 = d.value := BitVec.add_zero d.value
  rw [slewTick_of_due (Int.ne_of_lt h) hdue, if_neg hneg, if_neg hneg, hvalue]

theorem slewTick_between {d : DatumUnit} (h : d.slew ≠ 0) (hearly : d.sinceSlew < 4999) :
    slewTick d = { d with value := d.value + 1, sinceSlew := d.sinceSlew + 1 } := by
  simp [slewTick, h, Nat.not_le.2 hearly]

/-! ### One nanosecond (R277, R490) -/

theorem gaugeTick_parts (s : State) : s.agree [.gauge] (gaugeTick s) := gaugeTick_frame s (agree_refl _ s) rfl

@[simp] theorem gaugeTick_datum (s : State) : (gaugeTick s).datum = s.datum := gaugeTick_parts s .datum rfl

@[simp] theorem gaugeTick_pins (s : State) : (gaugeTick s).pins = s.pins := gaugeTick_parts s .pins rfl

@[simp] theorem gaugeTick_time (s : State) : (gaugeTick s).time = s.time := gaugeTick_parts s .time rfl

/-- The Datum runs in neither reset, and stands still in either. -/
theorem tick_datum (s : State) :
    (tick s).datum = if s.pins.porN && s.pins.blockRstN then datumTick s.datum else s.datum := by
  unfold tick
  dsimp only
  rw [gaugeTick_pins, gaugeTick_datum]
  split
  · rfl
  · exact gaugeTick_datum s

theorem tick_datum_of_running {s : State} (hp : s.pins.porN = true) (hb : s.pins.blockRstN = true) :
    (tick s).datum = slewTick (steer s.datum) := by
  rw [tick_datum, hp, hb]
  rfl

theorem tick_datum_of_reset {s : State} (h : s.pins.porN = false ∨ s.pins.blockRstN = false) :
    (tick s).datum = s.datum := by
  obtain h | h := h
  · simp [tick_datum, h]
  · simp [tick_datum, h]

theorem tick_time (s : State) : (tick s).time = s.time + 1 := by
  unfold tick
  dsimp only
  split
  · exact congrArg (· + 1) (gaugeTick_time s)
  · exact congrArg (· + 1) (gaugeTick_time s)

/-- Settles O6: each cycle corrects the rate, then counts by what is left to slew. -/
theorem theDatumRuns : Obligations.TheDatumRuns := by
  intro s d
  refine ⟨tick_datum_of_reset, fun hp hb => ?_, steer_of_rate_zero, steer_of_early, steer_of_due, tick_time s⟩
  rw [tick_datum_of_running hp hb]
  exact ⟨slewTick_of_done, slewTick_up, slewTick_down, slewTick_between⟩

/-! ### The Datum after block reset (R276) -/

@[simp] theorem blockReset_datum (cause : BitVec 4) (s : State) : (blockReset cause s).datum = DatumUnit.reset := by
  simp [blockReset]

/-- Settles O58: a reset leaves the Datum unit as it is at power-on, and with nothing to slew or correct it counts by one. -/
theorem theDatumAfterBlockReset : Obligations.TheDatumAfterBlockReset := by
  refine ⟨fun s hp hb hslew hrate hphase => ⟨?_, tick_time s⟩, fun s hb => ?_, fun cause s => ?_⟩
  · rw [tick_datum_of_running hp hb, steer_of_rate_zero hrate hphase, slewTick_of_done hslew]
  · exact ⟨_, exec_blockResetAssert hb, rfl, rfl⟩
  · rw [blockReset_datum]
    exact ⟨rfl, rfl⟩

/-! ### Exchanges (R278, R279) -/

/-- A state of the Datum that is newly entered changes the state, and to LOCKED is a first lock. -/
theorem enterDatumState_datum_of_ne {new : DatumState} {s : State} (h : s.datum.state ≠ new) :
    (enterDatumState new s).datum
      = { s.datum with state := new, lockedOnce := s.datum.lockedOnce || decide (new = .locked) } :=
  (congrArg State.datum (if_neg h)).trans ((emitTrace_datum ..).trans (writeFault_datum ..))

/-- The Datum unit with the offset and delay of an exchange, which ends a row of missed ones. -/
def DatumUnit.noted (off delay : Int) (d : DatumUnit) : DatumUnit :=
  { d with offset := BitVec.ofInt 32 off, delay := BitVec.ofInt 32 delay, missed := 0 }

section
variable {off delay : Int} {up : Bool} {s : State}

/-- FREE_RUNNING under an upstream that is not LOCKED stays so. -/
theorem applyExchange_unlocked (h : s.datum.state = .freeRunning) :
    (applyExchange off delay false s).datum = s.datum.noted off delay := by
  simp only [applyExchange, h]
  rfl

/-- The first entry to ACQUIRING before any lock steps the Datum. -/
theorem applyExchange_step (h : s.datum.state = .freeRunning) (hl : s.datum.lockedOnce = false) :
    (applyExchange off delay true s).datum = { s.datum.noted off delay with
      value := s.datum.value - BitVec.ofInt 64 off, slew := 0, good := 0, state := .acquiring } := by
  simp only [applyExchange, h, Bool.not_true, Bool.false_eq_true, if_false]
  rw [enterDatumState_datum_of_ne (by simp [modDatum, h, hl])]
  simp [modDatum, DatumUnit.noted, hl]

/-- An entry to ACQUIRING after a lock slews. -/
theorem applyExchange_again (h : s.datum.state = .freeRunning) (hl : s.datum.lockedOnce = true) :
    (applyExchange off delay true s).datum = { s.datum.noted off delay with
      slew := -off, good := 0, state := .acquiring } := by
  simp only [applyExchange, h, Bool.not_true, Bool.false_eq_true, if_false]
  rw [enterDatumState_datum_of_ne (by simp [modDatum, h, hl])]
  simp [modDatum, DatumUnit.noted, hl]

/-- In LOCKED an offset within 2 ns slews. -/
theorem applyExchange_near (h : s.datum.state = .locked) (hoff : off.natAbs ≤ 2) :
    (applyExchange off delay up s).datum = (steerTo off s.datum).noted off delay := by
  simp only [applyExchange, h, if_pos hoff]
  rfl

/-- In LOCKED a greater offset slews, and leaves for HOLDOVER. -/
theorem applyExchange_far (h : s.datum.state = .locked) (hoff : 2 < off.natAbs) :
    (applyExchange off delay up s).datum = { (steerTo off s.datum).noted off delay with state := .holdover } := by
  simp only [applyExchange, h, if_neg (Nat.not_le.2 hoff)]
  rw [enterDatumState_datum_of_ne (by simp [modDatum, steerTo, h])]
  simp [modDatum, DatumUnit.noted]

/-- In ACQUIRING and HOLDOVER the offset slews, and the sixteenth exchange within 2 ns locks. -/
theorem applyExchange_seeking (h : s.datum.state = .acquiring ∨ s.datum.state = .holdover) :
    (applyExchange off delay up s).datum = if 16 ≤ (steerTo off s.datum).good
      then { (steerTo off s.datum).noted off delay with state := .locked, lockedOnce := true }
      else (steerTo off s.datum).noted off delay := by
  have hlock : (modDatum (fun d => (steerTo off d).noted off delay) s).datum.state ≠ .locked := by
    show s.datum.state ≠ .locked
    obtain h | h := h
    · simp [h]
    · simp [h]
  have hcase : applyExchange off delay up s =
      (let t := modDatum (fun d => (steerTo off d).noted off delay) s
       if 16 ≤ t.datum.good then enterDatumState .locked t else t) := by
    obtain h | h := h
    · simp only [applyExchange, h]
      rfl
    · simp only [applyExchange, h]
      rfl
  rw [hcase]
  dsimp only
  rw [apply_ite State.datum, enterDatumState_datum_of_ne hlock]
  simp [modDatum, DatumUnit.noted]

/-- Whatever the state, an exchange sets the offset and the delay, and none is missed. -/
theorem applyExchange_notes :
    (applyExchange off delay up s).datum.offset = BitVec.ofInt 32 off
      ∧ (applyExchange off delay up s).datum.delay = BitVec.ofInt 32 delay
      ∧ (applyExchange off delay up s).datum.missed = 0 := by
  cases h : s.datum.state with
  | freeRunning =>
    cases up with
    | false => rw [applyExchange_unlocked h]; exact ⟨rfl, rfl, rfl⟩
    | true =>
      cases hl : s.datum.lockedOnce with
      | false => rw [applyExchange_step h hl]; exact ⟨rfl, rfl, rfl⟩
      | true => rw [applyExchange_again h hl]; exact ⟨rfl, rfl, rfl⟩
  | locked =>
    obtain hoff | hoff := Nat.lt_or_ge 2 off.natAbs
    · rw [applyExchange_far h hoff]; exact ⟨rfl, rfl, rfl⟩
    · rw [applyExchange_near h hoff]; exact ⟨rfl, rfl, rfl⟩
  | acquiring => rw [applyExchange_seeking (.inl h)]; split <;> exact ⟨rfl, rfl, rfl⟩
  | holdover => rw [applyExchange_seeking (.inr h)]; split <;> exact ⟨rfl, rfl, rfl⟩

end

/-- An exchange that concerns this instance is applied. -/
theorem exec_datumExchange {s : State} (h : followsUpstream s = true) (t1 t2 t3 t4 : BitVec 64) (up : Bool) :
    exec (.datumExchange t1 t2 t3 t4 up) s
      = .next (applyExchange (exchangeOffset t1 t2 t3 t4) (exchangeDelay t1 t2 t3 t4) up s) := by
  simp only [exec, execDatumExchange, if_pos h]

/-- The state of the Datum in which the eighth missed exchange in a row leaves a state (R278). -/
def DatumState.afterMisses : DatumState → DatumState
  | .acquiring => .freeRunning
  | .locked => .holdover
  | x => x

/-- The state in which an exchange has been missed, before it changes the state of the Datum. -/
def missExchange (s : State) : State := modDatum (fun d => { d with missed := d.missed + 1, good := 0 }) s

/-- The eighth missed exchange in a row leaves ACQUIRING for FREE_RUNNING, and LOCKED for HOLDOVER. -/
theorem exec_datumExchangeMissed_eighth {s : State} (h : followsUpstream s = true) (hm : s.datum.missed = 7) :
    exec .datumExchangeMissed s = .next (enterDatumState s.datum.state.afterMisses (missExchange s)) := by
  have heighth : ¬(missExchange s).datum.missed < 8 := by simp [missExchange, modDatum, hm]
  simp only [exec, execDatumExchangeMissed, if_pos h]
  refine congrArg Host.Outcome.next ((if_neg heighth).trans ?_)
  show _ = enterDatumState (missExchange s).datum.state.afterMisses (missExchange s)
  unfold missExchange
  generalize modDatum _ s = t
  cases ht : t.datum.state with
  | acquiring => rfl
  | locked => rfl
  | freeRunning => exact (if_pos ht).symm
  | holdover => exact (if_pos ht).symm

/-- After the eighth missed exchange, by the state in which it was missed. -/
theorem completes_datumExchangeMissed_eighth {s : State} (h : followsUpstream s = true) (hm : s.datum.missed = 7) :
    Completes .datumExchangeMissed s fun t =>
      t.datum.missed = 8
        ∧ (s.datum.state = .acquiring → t.datum.state = .freeRunning)
        ∧ (s.datum.state = .locked → t.datum.state = .holdover)
        ∧ (s.datum.state = .holdover → t.datum.state = .holdover) := by
  obtain ⟨locked, he⟩ := enterDatumState_datum s.datum.state.afterMisses (missExchange s)
  refine ⟨_, exec_datumExchangeMissed_eighth h hm, ?_⟩
  dsimp only
  rw [he]
  exact ⟨congrArg (· + 1) hm, congrArg DatumState.afterMisses, congrArg DatumState.afterMisses,
    congrArg DatumState.afterMisses⟩

/-! ### Marks (R283) -/

/-- The earliest mark, once reached, leaves the queue and its action is done. -/
theorem exec_markFire_reached {e : MarkEntry} {s : State} (he : earliestMark s = some e) (hr : running s = true)
    (hm : e.mark.toNat ≤ s.datum.value.toNat) :
    exec .markFire s = .next (fireAction e.action (emitTrace 4 0x0401 0x0D00 (markPolder e.action)
      (markContext e.action) (leBytes 8 e.mark.toNat ++ [Config.markKind (markOrder e.action)])
      (modDatum (fun d => { d with marks := d.marks.erase e }) s))) := by
  simp [exec, execMarkFire, he, hr, Nat.not_lt.2 hm]

/-- A mark that is not yet reached stays queued. -/
theorem exec_markFire_early {e : MarkEntry} {s : State} (he : earliestMark s = some e)
    (hm : s.datum.value.toNat < e.mark.toNat) : exec .markFire s = .next s := by
  simp [exec, execMarkFire, he, hm]

/-! ### Floodwatch (R456) -/

/-- A change of a polder that leaves its ID is a change of what is found under that ID, and of nothing else. -/
theorem findPolder_modPolder {f : Polder → Polder} (hid : ∀ x, (f x).id = x.id) (p q : PolderId) (s : State) :
    findPolder (modPolder p f s) q = (findPolder s q).map fun x => if x.id = p then f x else x := by
  unfold findPolder modPolder alter
  rw [List.find?_map]
  simp only [decide_eq_true_eq]
  congr 2
  funext x
  simp [apply_ite Polder.id, hid]

/-- A change of a polder that leaves its ID and its freeze freezes no polder, and thaws none. -/
theorem isFrozen_modPolder {f : Polder → Polder} (hid : ∀ x, (f x).id = x.id) (hf : ∀ x, (f x).freeze = x.freeze)
    (p q : PolderId) (s : State) : isFrozen (modPolder p f s) q = isFrozen s q := by
  unfold isFrozen
  rw [findPolder_modPolder hid]
  cases findPolder s q with
  | none => rfl
  | some x => simp [apply_ite Polder.freeze, hf]

theorem isFrozen_of_polders_eq {s t : State} (h : t.polders = s.polders) (p : PolderId) :
    isFrozen t p = isFrozen s p := by
  unfold isFrozen findPolder
  rw [h]

/-- A fault record freezes no polder, and thaws none. -/
@[simp] theorem isFrozen_writeFault (n : FaultName) (i : FaultInfo) (s : State) (p : PolderId) :
    isFrozen (writeFault n i s) p = isFrozen s p := by
  unfold writeFault
  extract_lets r pushed sb copied mirrored mirroredVf traced fatal
  have hcopied : copied.polders = s.polders := by
    unfold copied
    split
    · rfl
    · rfl
  have hmirrored : mirroredVf.polders = s.polders := by
    unfold mirroredVf
    split
    · rw [postEvent_polders, postEvent_polders, hcopied]
    · rw [postEvent_polders, hcopied]
  have htraced : isFrozen traced p = isFrozen s p :=
    isFrozen_of_polders_eq ((emitTrace_polders ..).trans hmirrored) p
  have hfatal : isFrozen fatal p = isFrozen s p :=
    (isFrozen_modPolder (f := fun x => { x with fatal := true }) (fun _ => rfl) (fun _ => rfl) i.polder p traced).trans
      htraced
  split
  · split
    · exact hfatal
    · exact hfatal
  · exact htraced

/-- A polder that there is, is frozen once its freeze is set. -/
theorem isFrozen_of_freeze {p : PolderId} {q : Polder} {s : State} (h : findPolder s p = some q) :
    isFrozen (modPolder p (fun x => { x with freeze := .floodwatch }) s) p = true := by
  have hid : q.id = p := by simpa using List.find?_some h
  rw [isFrozen, findPolder_modPolder (by exact fun _ => rfl), h]
  simp [hid]

/-- A Floodwatch stop of a polder that is neither stopped nor being torn down freezes it, and is recorded. -/
theorem completes_floodwatchStop {p : PolderId} {q : Polder} {s : State} (i : InstId) (hr : running s = true)
    (hw : s.tracer.floodwatch = true) (hq : findPolder s p = some q) (hf : q.freeze ≠ .floodwatch)
    (ht : q.teardown = none) :
    Completes (.floodwatchStop p i) s fun t => isFrozen t p = true ∧ t.tracer.nextSeq = s.tracer.nextSeq + 1 := by
  have he : exec (.floodwatchStop p i) s = .next (writeFault .floodwatchStop
      { unit := 0x0C00, polder := p, peer := some i, detail := leBytes 2 i.toNat }
      (modPolder p (fun x => { x with freeze := .floodwatch }) s)) := by
    simp [exec, execFloodwatchStop, hr, hw, hq, hf, ht]
  exact ⟨_, he, (isFrozen_writeFault ..).trans (isFrozen_of_freeze hq), writeFault_nextSeq ..⟩

/-- While Floodwatch is off, a stop is counted. -/
theorem exec_floodwatchStop_off {s : State} (p : PolderId) (i : InstId) (hr : running s = true)
    (hw : s.tracer.floodwatch = false) : exec (.floodwatchStop p i) s = .next (count 0x012 s) := by
  simp [exec, execFloodwatchStop, hr, hw]

/-- Settles O30: an exchange by the state that it finds, the rest by the lemma of each command. -/
theorem datumAndMarksComplete : Obligations.DatumAndMarksComplete := by
  refine ⟨fun t1 t2 t3 t4 up s h => ?exchange, fun _ => completes_datumExchangeMissed_eighth,
    fun _ _ => exec_markFire_reached, fun _ _ => exec_markFire_early, fun _ _ i _ => completes_floodwatchStop i,
    fun p i _ => exec_floodwatchStop_off p i⟩
  intro off
  obtain ⟨hoffset, hdelay, hmissed⟩ :=
    applyExchange_notes (off := off) (delay := exchangeDelay t1 t2 t3 t4) (up := up) (s := s)
  refine ⟨_, exec_datumExchange h t1 t2 t3 t4 up, hoffset, hdelay, hmissed, ?near, ?far, ?step, ?unlocked, ?lock⟩
  case near =>
    intro hs hoff
    rw [applyExchange_near hs hoff]
    exact ⟨hs, rfl, if_pos hoff, if_pos (by simp [hoff])⟩
  case far =>
    intro hs hoff
    rw [applyExchange_far hs hoff]
    exact ⟨rfl, rfl, rfl⟩
  case step =>
    intro hs hup hl
    rw [hup, applyExchange_step hs hl]
    exact ⟨rfl, rfl, rfl⟩
  case unlocked =>
    intro hs hup
    rw [hup, applyExchange_unlocked hs]
    exact ⟨hs, rfl⟩
  case lock =>
    intro hs hoff hgood
    have hsixteen : 16 ≤ (steerTo off s.datum).good := by simp [steerTo, hoff, hgood]
    rw [applyExchange_seeking (.inl hs), if_pos hsixteen]
    exact ⟨rfl, rfl⟩

end Sys2Proof.Machine
end

section
/-! SUPPORT. What the Signal Counter Array does for its cores (R258 to R265), and the statement about it. -/

namespace Sys2Proof.Machine

/-! ### What each operation does to its counter (R258 to R263) -/

section
variable {r : ScaReq} {s : State}

theorem incEffect_overflow (h : 4294967296 ≤ (syncValue s r.target r.counter).toNat + r.value.toNat) :
    incEffect r s = scaAnswer r.core .syncOverflow 0
      (syncFault r.target r.counter r.value .syncOverflow none (BitVec.ofNat 32 r.core.toNat) s) := if_pos h

theorem incEffect_fits (h : (syncValue s r.target r.counter).toNat + r.value.toNat < 4294967296) (hv : r.value ≠ 0) :
    incEffect r s = changeSync r.target r.counter (syncValue s r.target r.counter + r.value)
      (scaAnswer r.core .ok (syncValue s r.target r.counter + r.value) s) :=
  (if_neg (Nat.not_le.2 h)).trans (if_neg hv)

theorem incEffect_zero (hv : r.value = 0) :
    incEffect r s = scaAnswer r.core .ok (syncValue s r.target r.counter) s := by
  have hfits : ¬4294967296 ≤ (syncValue s r.target r.counter).toNat := Nat.not_le.2 (BitVec.isLt _)
  simp [incEffect, hv, hfits]

theorem decEffect_underflow (h : (syncValue s r.target r.counter).toNat < r.value.toNat) :
    decEffect r s = scaAnswer r.core .syncUnderflow 0
      (syncFault r.target r.counter r.value .syncUnderflow none (BitVec.ofNat 32 r.core.toNat) s) := if_pos h

theorem decEffect_fits (h : r.value.toNat ≤ (syncValue s r.target r.counter).toNat) (hv : r.value ≠ 0) :
    decEffect r s = changeSync r.target r.counter (syncValue s r.target r.counter - r.value)
      (scaAnswer r.core .ok (syncValue s r.target r.counter - r.value) s) :=
  (if_neg (Nat.not_lt.2 h)).trans (if_neg hv)

theorem decEffect_zero (hv : r.value = 0) :
    decEffect r s = scaAnswer r.core .ok (syncValue s r.target r.counter) s := by
  simp [decEffect, hv]

/-- A wait whose condition holds is answered at once. -/
theorem waitEffect_met (subtracts : Bool) (h : r.value.toNat ≤ (syncValue s r.target r.counter).toNat) :
    waitEffect subtracts r s
      = (let new := if subtracts then syncValue s r.target r.counter - r.value else syncValue s r.target r.counter
         count 0x286 (scaAnswer r.core .ok new (setSync r.target r.counter new s))) :=
  if_pos (decide_eq_true h)

/-- A wait whose condition does not hold goes on to the limits of its core. -/
theorem waitEffect_unmet (subtracts : Bool) (h : (syncValue s r.target r.counter).toNat < r.value.toNat) :
    waitEffect subtracts r s
      = if coreStopped r.core s then scaAnswer r.core .squashed 0 s
        else if 4 ≤ (s.sca.waits.filter fun x => x.req.core = r.core).length then scaAnswer r.core .busy 0 s
        else count 0x286 { s with sca := { s.sca with
          waits := s.sca.waits ++ [{ req := r, subtracts := subtracts, at_ := s.datum.value.toNat }] } } :=
  if_neg (by simp [waitHolds, h])

theorem waitEffect_squashed (subtracts : Bool) (h : (syncValue s r.target r.counter).toNat < r.value.toNat)
    (hc : coreStopped r.core s = true) : waitEffect subtracts r s = scaAnswer r.core .squashed 0 s :=
  (waitEffect_unmet subtracts h).trans (if_pos hc)

theorem waitEffect_busy (subtracts : Bool) (h : (syncValue s r.target r.counter).toNat < r.value.toNat)
    (hc : coreStopped r.core s = false) (hn : 4 ≤ (s.sca.waits.filter fun x => x.req.core = r.core).length) :
    waitEffect subtracts r s = scaAnswer r.core .busy 0 s := by
  rw [waitEffect_unmet subtracts h, if_neg (by simp [hc]), if_pos hn]

theorem waitEffect_pending (subtracts : Bool) (h : (syncValue s r.target r.counter).toNat < r.value.toNat)
    (hc : coreStopped r.core s = false) (hn : (s.sca.waits.filter fun x => x.req.core = r.core).length < 4) :
    waitEffect subtracts r s = count 0x286 { s with sca := { s.sca with
      waits := s.sca.waits ++ [{ req := r, subtracts := subtracts, at_ := s.datum.value.toNat }] } } := by
  rw [waitEffect_unmet subtracts h, if_neg (by simp [hc]), if_neg (Nat.not_le.2 hn)]

end

/-! ### A request at its bank (R259, R264, R420) -/

/-- A request to a bank that takes work is judged at once. -/
theorem scaArrive_of_accepts {r : ScaReq} {s : State} (hr : running s = true) (he : s.boot.role = .e)
    (ha : accepts s (scaDomain r.target) = true) (op : BitVec 3) :
    scaArrive op r s = scaRequest op r (markWork (scaDomain r.target) s) := by
  rw [scaArrive, if_neg (by simp [hr, he]), enter_of_accepts ha]

/-- A request of a frozen polder is held, whatever its op. -/
theorem scaRequest_held {r : ScaReq} {s : State} (h : scaHeld r s = true) (op : BitVec 3) :
    scaRequest op r s = { s with sca := { s.sca with held := s.sca.held ++ [(r, op)] } } := if_pos h

/-- A request that nothing holds, refuses or squashes is performed. -/
theorem scaRequest_performed {r : ScaReq} {s : State} {op : BitVec 3} (hop : op.toNat < 6)
    (hc : scaCheck r true s = none) (hs : coreStopped r.target s = false) (hh : scaHeld r s = false) :
    scaRequest op r s = scaEffect op r s := by
  simp [scaRequest, hh, hop, hc, hs]

/-- An op that does not exist fails the check of its parameters (R259). -/
theorem scaCheck_invalid (r : ScaReq) (s : State) : scaCheck r false s = some .badParam := by
  unfold scaCheck
  split
  · simp
  · rfl

/-- A request of an op that does not exist is refused with a record. -/
theorem scaRequest_invalid {r : ScaReq} {s : State} {op : BitVec 3} (hop : 6 ≤ op.toNat) (hh : scaHeld r s = false) :
    scaRequest op r s = scaRefuse r op .badParam s := by
  simp [scaRequest, hh, Nat.not_lt.2 hop, scaCheck_invalid]

/-- What a refusal records is its status, whatever else. -/
theorem scaRefuse_badParam (r : ScaReq) (op : BitVec 3) (s : State) :
    ∃ f, scaRefuse r op .badParam s = scaAnswer r.core .badParam 0 (writeFault .scaRefused f s)
      ∧ f.status = statusCode .badParam := ⟨_, rfl, rfl⟩

/-- An op that does not exist, at a bank that takes work. -/
theorem exec_scaInvalidOp {r : ScaReq} {op : BitVec 3} {s : State} (hr : running s = true) (he : s.boot.role = .e)
    (ha : accepts s (scaDomain r.target) = true) (hop : 6 ≤ op.toNat) :
    exec (.scaInvalidOp r op) s = .next (scaRequest op r (markWork (scaDomain r.target) s)) := by
  rw [← scaArrive_of_accepts hr he ha op]
  exact congrArg Host.Outcome.next (if_pos hop)

/-- The hint of a core whose oldest wait has lasted the threshold is asserted and counted (R265). -/
theorem completes_waitIdleThreshold {core : BitVec 9} {w : SyncWait} {s : State} (hw : oldestWait core s = some w)
    (ht : w.at_ + 1000 * s.regs.waitIdleUs ≤ s.datum.value.toNat) (hh : core ∉ s.sca.hints) :
    Completes (.waitIdleThreshold core) s fun t =>
      t.sca = { s.sca with hints := s.sca.hints ++ [core] } ∧ counterOf 0x287 t = counterOf 0x287 s + 1 := by
  have he : exec (.waitIdleThreshold core) s
      = .next (count 0x287 { s with sca := { s.sca with hints := s.sca.hints ++ [core] } }) := by
    simp [exec, execWaitIdleThreshold, hw, ht, hh]
  exact ⟨_, he, rfl, counterOf_count 0x287 _⟩

/-- Settles O29: a request that is performed by what its op does to the counter, the others by what stops them. -/
theorem syncCountersComplete : Obligations.SyncCountersComplete := by
  refine ⟨?performed, fun r op s hr he ha hop => ⟨?invalid, ?held⟩, fun core w s => completes_waitIdleThreshold⟩
  case invalid =>
    intro hh
    obtain ⟨f, hf, hst⟩ := scaRefuse_badParam r op (markWork (scaDomain r.target) s)
    exact ⟨f, by rw [exec_scaInvalidOp hr he ha hop, scaRequest_invalid (s := markWork _ s) hop hh, hf], hst⟩
  case held =>
    intro hh
    rw [exec_scaInvalidOp hr he ha hop, scaRequest_held (s := markWork _ s) hh]
  case performed =>
    intro r s hr he ha hc hs hh u v
    have hdo (op : BitVec 3) (hop : op.toNat < 6) {t : State} (ht : scaEffect op r u = t) :
        (.next (scaArrive op r s) : Host.Outcome State Fault Refusal) = .next t := by
      rw [scaArrive_of_accepts hr he ha op, scaRequest_performed (s := u) hop hc hs hh, ht]
    refine ⟨hdo 0 (by decide) rfl, ?incFits, ?incOverflow, ?decFits, ?decUnderflow, ?zero, hdo 5 (by decide) rfl, ?met,
      ?pending, ?busy, ?squashed⟩
    case incFits => exact fun h hv => hdo 1 (by decide) (incEffect_fits h hv)
    case incOverflow => exact fun h => hdo 1 (by decide) (incEffect_overflow h)
    case decFits => exact fun h hv => hdo 2 (by decide) (decEffect_fits h hv)
    case decUnderflow => exact fun h => hdo 2 (by decide) (decEffect_underflow h)
    case zero => exact fun hv => ⟨hdo 1 (by decide) (incEffect_zero hv), hdo 2 (by decide) (decEffect_zero hv)⟩
    case met => exact fun h => ⟨hdo 3 (by decide) (waitEffect_met false h), hdo 4 (by decide) (waitEffect_met true h)⟩
    case pending =>
      exact fun h hrun hn =>
        ⟨hdo 3 (by decide) (waitEffect_pending false h hrun hn), hdo 4 (by decide) (waitEffect_pending true h hrun hn)⟩
    case busy =>
      exact fun h hrun hn =>
        ⟨hdo 3 (by decide) (waitEffect_busy false h hrun hn), hdo 4 (by decide) (waitEffect_busy true h hrun hn)⟩
    case squashed =>
      exact fun h hstop =>
        ⟨hdo 3 (by decide) (waitEffect_squashed false h hstop), hdo 4 (by decide) (waitEffect_squashed true h hstop)⟩

end Sys2Proof.Machine
end

section
/-! SUPPORT. What every command keeps and which parts of the state it leaves, and the statements about the machine as a
whole (R431, R436, R459, R499, R504). -/

namespace Sys2Proof.Machine

/-! ### Every command keeps the invariant -/

/-- Every command keeps the invariant: the lemma of its meaning, command by command. -/
theorem exec_sound {k : Kept} (c : Instr) {s : State} (hs : s.Sound k) : SoundOut k (exec c s) :=
  match c with
  | .powerOnResetRelease => execPowerOnResetRelease_sound s hs
  | .powerOnResetAssert => execPowerOnResetAssert_sound s hs
  | .blockResetAssert => execBlockResetAssert_sound s hs
  | .blockResetRelease strap instanceId => execBlockResetRelease_sound strap instanceId s hs
  | .lcResolve => execLcResolve_sound s hs
  | .entropy startUpPasses => execEntropy_sound startUpPasses s hs
  | .keys => execKeys_sound s hs
  | .imageLoad flashAnswers => execImageLoad_sound flashAnswers s hs
  | .imageVerify => execImageVerify_sound s hs
  | .firmwareInit objects => execFirmwareInit_sound objects s hs
  | .ready => execReady_sound s hs
  | .bootTimeout => execBootTimeout_sound s hs
  | .wardenWatchdog => execWardenWatchdog_sound s hs
  | .wardenEcc => execWardenEcc_sound s hs
  | .correctableEcc inRom => execCorrectableEcc_sound inRom s hs
  | .clockStopRequest d => execClockStopRequest_sound d s hs
  | .clockStopRelease d => execClockStopRelease_sound d s hs
  | .domainGate d => execDomainGate_sound d s hs
  | .domainWake d => execDomainWake_sound d s hs
  | .powerGood d => execPowerGood_sound d s hs
  | .culvertHandshakeComplete c => execCulvertHandshakeComplete_sound c s hs
  | .fabricStatusUnreachable inst => execFabricStatusUnreachable_sound inst s hs
  | .fabricStatusWithdraw inst => execFabricStatusWithdraw_sound inst s hs
  | .funcEn vf enable => execFuncEn_sound vf enable s hs
  | .flrReq vf => execFlrReq_sound vf s hs
  | .functionResetDrained vf => execFunctionResetDrained_sound vf s hs
  | .functionResetDone vf => execFunctionResetDone_sound vf s hs
  | .hostPathFailure fn what => execHostPathFailure_sound fn what s hs
  | .descriptorFetch queue data => execDescriptorFetch_sound queue data s hs
  | .protectedPacketReceive port packet => execProtectedPacketReceive_sound port packet s hs
  | .linkNoticeReceive port packet => execLinkNoticeReceive_sound port packet s hs
  | .streamEntryFetch slice stream => execStreamEntryFetch_sound slice stream s hs
  | .load => execLoad_sound s hs
  | .store => execStore_sound s hs
  | .atomic => execAtomic_sound s hs
  | .reduceIntoRemoteMemory => execReduceIntoRemoteMemory_sound s hs
  | .multicastStore => execMulticastStore_sound s hs
  | .signal => execSignal_sound s hs
  | .signalHoldRelease index => execSignalHoldRelease_sound index s hs
  | .fence => execFence_sound s hs
  | .fenceAnswerRelease index => execFenceAnswerRelease_sound index s hs
  | .completion => execCompletion_sound s hs
  | .ringHeartbeat => execRingHeartbeat_sound s hs
  | .heartbeatSend ring => execHeartbeatSend_sound ring s hs
  | .heartbeatMissed ring member => execHeartbeatMissed_sound ring member s hs
  | .readShared => execReadShared_sound s hs
  | .readOwn => execReadOwn_sound s hs
  | .upgrade => execUpgrade_sound s hs
  | .writeBack => execWriteBack_sound s hs
  | .evictClean => execEvictClean_sound s hs
  | .invalidate => execInvalidate_sound s hs
  | .recall => execRecall_sound s hs
  | .downgrade => execDowngrade_sound s hs
  | .grant => execGrant_sound s hs
  | .ack => execAck_sound s hs
  | .dataBack => execDataBack_sound s hs
  | .lineRequest ring message addr data => execLineRequest_sound ring message addr data s hs
  | .open_ => execOpen_sound s hs
  | .benchmarkCodes => execBenchmarkCodes_sound s hs
  | .benchmarks => execBenchmarks_sound s hs
  | .contribution => execContribution_sound s hs
  | .result => execResult_sound s hs
  | .filterCounts => execFilterCounts_sound s hs
  | .filterBases => execFilterBases_sound s hs
  | .receipt => execReceipt_sound s hs
  | .report => execReport_sound s hs
  | .done_ => execDone_sound s hs
  | .abort => execAbort_sound s hs
  | .collectiveResend index => execCollectiveResend_sound index s hs
  | .collectiveWatchdog polder collective => execCollectiveWatchdog_sound polder collective s hs
  | .barrierArrival => execBarrierArrival_sound s hs
  | .barrierRelease => execBarrierRelease_sound s hs
  | .barrierArrivalResend polder barrier => execBarrierArrivalResend_sound polder barrier s hs
  | .barrierNodeWatchdog polder barrier => execBarrierNodeWatchdog_sound polder barrier s hs
  | .barrierParticipantWatchdog polder barrier => execBarrierParticipantWatchdog_sound polder barrier s hs
  | .releasedListExpiry index => execReleasedListExpiry_sound index s hs
  | .stackAccess r => execStackAccess_sound r s hs
  | .scaRead r => execScaRead_sound r s hs
  | .inc r => execInc_sound r s hs
  | .dec r => execDec_sound r s hs
  | .waitGe r => execWaitGe_sound r s hs
  | .waitDec r => execWaitDec_sound r s hs
  | .set r => execSet_sound r s hs
  | .scaInvalidOp r op => execScaInvalidOp_sound r op s hs
  | .waitIdleThreshold core => execWaitIdleThreshold_sound core s hs
  | .remoteRequest r => execRemoteRequest_sound r s hs
  | .fauResend index => execFauResend_sound index s hs
  | .fauGiveUp index => execFauGiveUp_sound index s hs
  | .answerLogExpiry index => execAnswerLogExpiry_sound index s hs
  | .replayEntryExpiry index => execReplayEntryExpiry_sound index s hs
  | .holdQueueDiscard index => execHoldQueueDiscard_sound index s hs
  | .markFire => execMarkFire_sound s hs
  | .datumExchange t1 t2 t3 t4 upstreamLocked => execDatumExchange_sound t1 t2 t3 t4 upstreamLocked s hs
  | .datumExchangeMissed => execDatumExchangeMissed_sound s hs
  | .floodwatchStop polder originator => execFloodwatchStop_sound polder originator s hs
  | .deviceFailed device => execDeviceFailed_sound device s hs
  | .devicePresent device => execDevicePresent_sound device s hs
  | .rebuildRow group => execRebuildRow_sound group s hs
  | .rebuildEnd group => execRebuildEnd_sound group s hs
  | .queueLevelReport weir level capacity => execQueueLevelReport_sound weir level capacity s hs
  | .writeAcknowledged index => execWriteAcknowledged_sound index s hs
  | .weirInterval weir backlogged admitted => execWeirInterval_sound weir backlogged admitted s hs
  | .weirStatusMirror weir => execWeirStatusMirror_sound weir s hs
  | .leaseExpiry extent => execLeaseExpiry_sound extent s hs
  | .extentRevokeDrained extent => execExtentRevokeDrained_sound extent s hs
  | .extentInitialisationComplete extent => execExtentInitialisationComplete_sound extent s hs
  | .extentRekeyCopyComplete extent => execExtentRekeyCopyComplete_sound extent s hs
  | .zeroFillComplete plot => execZeroFillComplete_sound plot s hs
  | .plotReleaseDrained plot => execPlotReleaseDrained_sound plot s hs
  | .regionWithdrawDrained index => execRegionWithdrawDrained_sound index s hs
  | .kcuJobComplete kcu outcome => execKcuJobComplete_sound kcu outcome s hs
  | .slotEvictionComplete slot => execSlotEvictionComplete_sound slot s hs
  | .slotLoadTimeout polder => execSlotLoadTimeout_sound polder s hs
  | .drbgReseed => execDrbgReseed_sound s hs
  | .entropyHealthFailure test => execEntropyHealthFailure_sound test s hs
  | .engineWatchdogExpiry unit => execEngineWatchdogExpiry_sound unit s hs
  | .suspectCleared unit => execSuspectCleared_sound unit s hs
  | .teardownDrained polder => execTeardownDrained_sound polder s hs
  | .teardownComplete polder => execTeardownComplete_sound polder s hs
  | .contextDestroyComplete context => execContextDestroyComplete_sound context s hs
  | .memobjLastReference memobj => execMemobjLastReference_sound memobj s hs
  | .stepBeginBoundary context => execStepBeginBoundary_sound context s hs
  | .chartFreeze polder => execChartFreeze_sound polder s hs
  | .chartExportTimeout polder => execChartExportTimeout_sound polder s hs
  | .chartWritten polder => execChartWritten_sound polder s hs
  | .imageRewriteComplete => execImageRewriteComplete_sound s hs
  | .lcTransitionComplete => execLcTransitionComplete_sound s hs
  | .kemOfferExpiry sluice => execKemOfferExpiry_sound sluice s hs
  | .nonceExpiry => execNonceExpiry_sound s hs
  | .authorisationExpiry => execAuthorisationExpiry_sound s hs
  | .gaugeIncrement polder counter => execGaugeIncrement_sound polder counter s hs
  | .gaugePeriodicCapture => execGaugePeriodicCapture_sound s hs
  | .gaugeRecordSigned => execGaugeRecordSigned_sound s hs
  | .eventRingSpaceReturn fn ring => execEventRingSpaceReturn_sound fn ring s hs
  | .mailboxDoorbell fn => execMailboxDoorbell_sound fn s hs
  | .fetch o tag => execFetch_sound o tag s hs
  | .securedMessage o record => execSecuredMessage_sound o record s hs
  | .regRead offset wide => execRegRead_sound offset wide s hs
  | .recoveryLoad image => execRecoveryLoad_sound image s hs
  | .getVersion sluice => execGetVersion_sound sluice s hs
  | .getCapabilities sluice => execGetCapabilities_sound sluice s hs
  | .negotiateAlgorithms sluice request => execNegotiateAlgorithms_sound sluice request s hs
  | .getDigests sluice => execGetDigests_sound sluice s hs
  | .getCertificate sluice slot offset length => execGetCertificate_sound sluice slot offset length s hs
  | .challenge sluice slot nonce => execChallenge_sound sluice slot nonce s hs
  | .getMeasurements sluice index signed nonce => execGetMeasurements_sound sluice index signed nonce s hs
  | .kemOffer sluice key => execKemOffer_sound sluice key s hs
  | .keyExchange sluice session share kemHash wantMutual =>
    execKeyExchange_sound sluice session share kemHash wantMutual s hs
  | .finish sluice session verify => execFinish_sound sluice session verify s hs
  | .pqSignature sluice => execPqSignature_sound sluice s hs
  | .heartbeat sluice session => execHeartbeat_sound sluice session s hs
  | .keyUpdate sluice session both => execKeyUpdate_sound sluice session both s hs
  | .endSession sluice session => execEndSession_sound sluice session s hs
  | .chunkSend sluice handle last data => execChunkSend_sound sluice handle last data s hs
  | .chunkGet sluice handle seq => execChunkGet_sound sluice handle seq s hs
  | .unsupportedRequest sluice code => execUnsupportedRequest_sound sluice code s hs
  | .polderProvision o tag polder confidential pmk => execPolderProvision_sound o tag polder confidential pmk s hs
  | .polderMembership o tag polder mark members => execPolderMembership_sound o tag polder mark members s hs
  | .polderTeardown o tag polder => execPolderTeardown_sound o tag polder s hs
  | .polderList o tag first => execPolderList_sound o tag first s hs
  | .keySlotPin o tag polder => execKeySlotPin_sound o tag polder s hs
  | .keySlotUnpin o tag polder => execKeySlotUnpin_sound o tag polder s hs
  | .keySlotStatus o tag slot => execKeySlotStatus_sound o tag slot s hs
  | .plotAssign o tag memobj plot base writable zeroFill fillClass =>
    execPlotAssign_sound o tag memobj plot base writable zeroFill fillClass s hs
  | .plotRelease o tag plot => execPlotRelease_sound o tag plot s hs
  | .plotQuery o tag plot => execPlotQuery_sound o tag plot s hs
  | .memobjCreate o tag polder => execMemobjCreate_sound o tag polder s hs
  | .memobjFree o tag memobj => execMemobjFree_sound o tag memobj s hs
  | .contextCreate o tag polder cls cores => execContextCreate_sound o tag polder cls cores s hs
  | .contextDestroy o tag context => execContextDestroy_sound o tag context s hs
  | .queueCreate o tag context ring depth addr => execQueueCreate_sound o tag context ring depth addr s hs
  | .queueDestroy o tag queue => execQueueDestroy_sound o tag queue s hs
  | .eventRingCreate o tag size vector addr => execEventRingCreate_sound o tag size vector addr s hs
  | .eventRingDestroy o tag ring => execEventRingDestroy_sound o tag ring s hs
  | .fenceCreate o tag context => execFenceCreate_sound o tag context s hs
  | .fenceShare o tag fence context => execFenceShare_sound o tag fence context s hs
  | .fenceDestroy o tag fence => execFenceDestroy_sound o tag fence s hs
  | .regionExport o tag memobj kind perms mcKey length firstOffset core base count plots =>
    execRegionExport_sound o tag memobj kind perms mcKey length firstOffset core base count plots s hs
  | .regionWithdraw o tag key => execRegionWithdraw_sound o tag key s hs
  | .regionQuery o tag index => execRegionQuery_sound o tag index s hs
  | .extentGrant o tag polder holder lease perms => execExtentGrant_sound o tag polder holder lease perms s hs
  | .extentRenew o tag extent holder lease => execExtentRenew_sound o tag extent holder lease s hs
  | .extentHandover o tag extent holder newHolder lease =>
    execExtentHandover_sound o tag extent holder newHolder lease s hs
  | .extentRevoke o tag extent => execExtentRevoke_sound o tag extent s hs
  | .extentRekey o tag extent => execExtentRekey_sound o tag extent s hs
  | .extentHint o tag extent hint => execExtentHint_sound o tag extent hint s hs
  | .trayRebuildRate o tag percent => execTrayRebuildRate_sound o tag percent s hs
  | .extentStatus o tag extent => execExtentStatus_sound o tag extent s hs
  | .trayStatus o tag => execTrayStatus_sound o tag s hs
  | .collectiveGroupDefine o tag mark desc => execCollectiveGroupDefine_sound o tag mark desc s hs
  | .collectiveGroupDestroy o tag polder group => execCollectiveGroupDestroy_sound o tag polder group s hs
  | .groupQuery o tag polder group => execGroupQuery_sound o tag polder group s hs
  | .ringCreate o tag ring polder members own home mark =>
    execRingCreate_sound o tag ring polder members own home mark s hs
  | .ringMemberDead o tag ring inst => execRingMemberDead_sound o tag ring inst s hs
  | .ringDestroy o tag ring mark => execRingDestroy_sound o tag ring mark s hs
  | .mcastGroupJoin o tag polder group members => execMcastGroupJoin_sound o tag polder group members s hs
  | .mcastGroupLeave o tag polder group => execMcastGroupLeave_sound o tag polder group s hs
  | .datumConfig o tag root port => execDatumConfig_sound o tag root port s hs
  | .datumStatus o tag => execDatumStatus_sound o tag s hs
  | .syncCounterRead o tag core => execSyncCounterRead_sound o tag core s hs
  | .contextStepRead o tag context => execContextStepRead_sound o tag context s hs
  | .markQueueStatus o tag => execMarkQueueStatus_sound o tag s hs
  | .chartExport o tag polder chart step addr len => execChartExport_sound o tag polder chart step addr len s hs
  | .chartImport o tag polder memobj chart addr len => execChartImport_sound o tag polder memobj chart addr len s hs
  | .chartResume o tag polder chart mark => execChartResume_sound o tag polder chart mark s hs
  | .chartDiscard o tag polder chart => execChartDiscard_sound o tag polder chart s hs
  | .weirConfig o tag weir minima => execWeirConfig_sound o tag weir minima s hs
  | .weirStatus o tag weir => execWeirStatus_sound o tag weir s hs
  | .counterRead o tag first count => execCounterRead_sound o tag first count s hs
  | .streamCountersRead o tag polder stream peer direction =>
    execStreamCountersRead_sound o tag polder stream peer direction s hs
  | .polderCountersRead o tag polder => execPolderCountersRead_sound o tag polder s hs
  | .traceConfig o tag sizeMib enable mask => execTraceConfig_sound o tag sizeMib enable mask s hs
  | .traceFetch o tag offset length => execTraceFetch_sound o tag offset length s hs
  | .lcStatus o tag => execLcStatus_sound o tag s hs
  | .lcChallenge o tag target => execLcChallenge_sound o tag target s hs
  | .lcTransition o tag target response => execLcTransition_sound o tag target response s hs
  | .debugAuthorise o tag authorisation => execDebugAuthorise_sound o tag authorisation s hs
  | .debugClose o tag => execDebugClose_sound o tag s hs
  | .gaugeIdentity o tag => execGaugeIdentity_sound o tag s hs
  | .gaugeCountersRead o tag polder => execGaugeCountersRead_sound o tag polder s hs
  | .gaugeRecordFetch o tag first max => execGaugeRecordFetch_sound o tag first max s hs
  | .gaugeRecordRelease o tag through => execGaugeRecordRelease_sound o tag through s hs
  | .faultRead o tag first count => execFaultRead_sound o tag first count s hs
  | .resetEngine o tag unit => execResetEngine_sound o tag unit s hs
  | .resetContext o tag context => execResetContext_sound o tag context s hs
  | .resetPolder o tag polder => execResetPolder_sound o tag polder s hs
  | .resetVf o tag vf => execResetVf_sound o tag vf s hs
  | .resetBlock o tag => execResetBlock_sound o tag s hs
  | .serviceRelease o tag => execServiceRelease_sound o tag s hs
  | .floodwatchConfig o tag enable => execFloodwatchConfig_sound o tag enable s hs
  | .crashDumpRead o tag unit offset length => execCrashDumpRead_sound o tag unit offset length s hs
  | .stragglerRead o tag polder inst => execStragglerRead_sound o tag polder inst s hs
  | .identityRead o tag => execIdentityRead_sound o tag s hs
  | .surveyRead o tag first count => execSurveyRead_sound o tag first count s hs
  | .firmwareStage o tag offset data => execFirmwareStage_sound o tag offset data s hs
  | .firmwareActivate o tag length => execFirmwareActivate_sound o tag length s hs
  | .firmwareCommitSvn o tag n => execFirmwareCommitSvn_sound o tag n s hs
  | .remoteOp queue => execRemoteOp_sound queue s hs
  | .collectiveLaunch queue => execCollectiveLaunch_sound queue s hs
  | .barrierArrive queue => execBarrierArrive_sound queue s hs
  | .stepBegin queue => execStepBegin_sound queue s hs
  | .fenceSignal queue => execFenceSignal_sound queue s hs
  | .fenceWait queue => execFenceWait_sound queue s hs
  | .bulkCopy queue => execBulkCopy_sound queue s hs
  | .stateReqLock vf => execStateReqLock_sound vf s hs
  | .stateReqRun vf => execStateReqRun_sound vf s hs
  | .stateReqUnlock vf => execStateReqUnlock_sound vf s hs
  | .allotWrite vf second value => execAllotWrite_sound vf second value s hs
  | .dirtyEnable vf enable => execDirtyEnable_sound vf enable s hs
  | .swap vf => execSwap_sound vf s hs
  | .queueDoorbell fn queue value => execQueueDoorbell_sound fn queue value s hs
  | .eventRingHead fn ring head => execEventRingHead_sound fn ring head s hs
  | .arm fn ring => execArm_sound fn ring s hs
  | .profSelWrite index value => execProfSelWrite_sound index value s hs
  | .counterRegisterRead index wide => execCounterRegisterRead_sound index wide s hs
  | .lowHalfRead window offset => execLowHalfRead_sound window offset s hs
  | .registerWrite window offset wide value => execRegisterWrite_sound window offset wide value s hs
  | .deliverEncapsulatedResponse sluice session chain signature =>
    execDeliverEncapsulatedResponse_sound sluice session chain signature s hs
  | .getEncapsulatedRequest sluice session => execGetEncapsulatedRequest_sound sluice session s hs
  | .snoopResponse ring addr data => execSnoopResponse_sound ring addr data s hs
  | .deviceReadReturn read data uncorrectable => execDeviceReadReturn_sound read data uncorrectable s hs
  | .hostRequestComplete what => execHostRequestComplete_sound what s hs
  | .chartImportComplete polder chart => execChartImportComplete_sound polder chart s hs

/-- A command of the queue leaves what it keeps but for itself. -/
theorem sound_of_pending_tail {k : Kept} {s : State} {rest : List Instr} (h : s.Sound k)
    (hp : s.pending.tail = rest) : State.Sound { k with pending := k.pending.tail } { s with pending := rest } := by
  obtain ⟨hm, hr, ⟨hf, hq, hc⟩, hb⟩ := h
  exact ⟨hm, hr, ⟨hf, hp.symm.trans (congrArg List.tail hq), hc⟩, hb⟩

/-- Where no command waits, none is kept. -/
theorem kept_tail_of_nil {k : Kept} {s : State} (h : s.Sound k) (hp : s.pending = []) :
    { k with pending := k.pending.tail } = k := by
  obtain ⟨_, _, ⟨_, hq, _⟩, _⟩ := h
  cases k
  simp_all

theorem step_of_cons {c : Instr} {rest : List Instr} {s : State} (h : s.pending = c :: rest) :
    step s = exec c { s with pending := rest } := by
  simp only [step, h]

theorem step_of_nil {s : State} (h : s.pending = []) : step s = .next (tick s) := by
  simp only [step, h]

/-- A command that ends keeps what it keeps of the outcome. -/
theorem sound_of_soundOut {k : Kept} {x : Host.Outcome State Fault Refusal} {t : State} (h : SoundOut k x)
    (hx : x = .next t) : t.Sound k := by
  subst hx
  exact h

/-- Settles O2: a command keeps the invariant by the lemma of its meaning, a nanosecond by that of the clocks. -/
theorem everyStepKeepsSound : Obligations.EveryStepKeepsSound := by
  intro k s t hs ht
  cases hp : s.pending with
  | nil =>
    rw [step_of_nil hp] at ht
    cases ht
    rw [kept_tail_of_nil hs hp]
    exact tick_sound s hs
  | cons c rest =>
    rw [step_of_cons hp] at ht
    exact sound_of_soundOut (exec_sound c (sound_of_pending_tail hs (congrArg List.tail hp))) ht

/-- Settles O1: by the two equations of a step. -/
theorem stepRunsTheFrontCommand : Obligations.StepRunsTheFrontCommand :=
  ⟨fun _ _ _ => step_of_cons, fun _ => step_of_nil⟩

/-- Settles O3: right after reset the memories and the rings of records are empty, and the registers hold the values of
R499 and R504. -/
theorem resetIsSound : Obligations.ResetIsSound := by
  have hregs : State.reset.regs.inRange := by
    refine ⟨by decide, by decide, by decide, by decide, by decide, by decide, ?_⟩
    simp [State.reset, Regs.reset]
  have hfuses : State.reset.fuses.blownIn State.reset.fuses := by
    simp [Fuses.blownIn, Rows.blownIn]
  exact ⟨⟨rfl, rfl⟩, hregs, ⟨hfuses, rfl, rfl⟩, Nat.zero_le _, Nat.zero_le _⟩

/-! ### Every command touches only its parts -/

/-- Every command leaves all but the parts that touches lists: the frame of its meaning, command by command. -/
theorem exec_frame (c : Instr) (s : State) : FrameOut (touches c) s (exec c s) :=
  match c with
  | .powerOnResetRelease => execPowerOnResetRelease_frame s (agree_refl _ s) rfl
  | .powerOnResetAssert => execPowerOnResetAssert_frame s (agree_refl _ s) rfl
  | .blockResetAssert => execBlockResetAssert_frame s (agree_refl _ s) rfl
  | .blockResetRelease strap instanceId => execBlockResetRelease_frame strap instanceId s (agree_refl _ s) rfl
  | .lcResolve => execLcResolve_frame s (agree_refl _ s) rfl
  | .entropy startUpPasses => execEntropy_frame startUpPasses s (agree_refl _ s) rfl
  | .keys => execKeys_frame s (agree_refl _ s) rfl
  | .imageLoad flashAnswers => execImageLoad_frame flashAnswers s (agree_refl _ s) rfl
  | .imageVerify => execImageVerify_frame s (agree_refl _ s) rfl
  | .firmwareInit objects => execFirmwareInit_frame objects s (agree_refl _ s) rfl
  | .ready => execReady_frame s (agree_refl _ s) rfl
  | .bootTimeout => execBootTimeout_frame s (agree_refl _ s) rfl
  | .wardenWatchdog => execWardenWatchdog_frame s (agree_refl _ s) rfl
  | .wardenEcc => execWardenEcc_frame s (agree_refl _ s) rfl
  | .correctableEcc inRom => execCorrectableEcc_frame inRom s (agree_refl _ s) rfl
  | .clockStopRequest d => execClockStopRequest_frame d s (agree_refl _ s) rfl
  | .clockStopRelease d => execClockStopRelease_frame d s (agree_refl _ s) rfl
  | .domainGate d => execDomainGate_frame d s (agree_refl _ s) rfl
  | .domainWake d => execDomainWake_frame d s (agree_refl _ s) rfl
  | .powerGood d => execPowerGood_frame d s (agree_refl _ s) rfl
  | .culvertHandshakeComplete c => execCulvertHandshakeComplete_frame c s (agree_refl _ s) rfl
  | .fabricStatusUnreachable inst => execFabricStatusUnreachable_frame inst s (agree_refl _ s) rfl
  | .fabricStatusWithdraw inst => execFabricStatusWithdraw_frame inst s (agree_refl _ s) rfl
  | .funcEn vf enable => execFuncEn_frame vf enable s (agree_refl _ s) rfl
  | .flrReq vf => execFlrReq_frame vf s (agree_refl _ s) rfl
  | .functionResetDrained vf => execFunctionResetDrained_frame vf s (agree_refl _ s) rfl
  | .functionResetDone vf => execFunctionResetDone_frame vf s (agree_refl _ s) rfl
  | .hostPathFailure fn what => execHostPathFailure_frame fn what s (agree_refl _ s) rfl
  | .descriptorFetch queue data => execDescriptorFetch_frame queue data s (agree_refl _ s) rfl
  | .protectedPacketReceive port packet => execProtectedPacketReceive_frame port packet s (agree_refl _ s) rfl
  | .linkNoticeReceive port packet => execLinkNoticeReceive_frame port packet s (agree_refl _ s) rfl
  | .streamEntryFetch slice stream => execStreamEntryFetch_frame slice stream s (agree_refl _ s) rfl
  | .load => execLoad_frame s (agree_refl _ s) rfl
  | .store => execStore_frame s (agree_refl _ s) rfl
  | .atomic => execAtomic_frame s (agree_refl _ s) rfl
  | .reduceIntoRemoteMemory => execReduceIntoRemoteMemory_frame s (agree_refl _ s) rfl
  | .multicastStore => execMulticastStore_frame s (agree_refl _ s) rfl
  | .signal => execSignal_frame s (agree_refl _ s) rfl
  | .signalHoldRelease index => execSignalHoldRelease_frame index s (agree_refl _ s) rfl
  | .fence => execFence_frame s (agree_refl _ s) rfl
  | .fenceAnswerRelease index => execFenceAnswerRelease_frame index s (agree_refl _ s) rfl
  | .completion => execCompletion_frame s (agree_refl _ s) rfl
  | .ringHeartbeat => execRingHeartbeat_frame s (agree_refl _ s) rfl
  | .heartbeatSend ring => execHeartbeatSend_frame ring s (agree_refl _ s) rfl
  | .heartbeatMissed ring member => execHeartbeatMissed_frame ring member s (agree_refl _ s) rfl
  | .readShared => execReadShared_frame s (agree_refl _ s) rfl
  | .readOwn => execReadOwn_frame s (agree_refl _ s) rfl
  | .upgrade => execUpgrade_frame s (agree_refl _ s) rfl
  | .writeBack => execWriteBack_frame s (agree_refl _ s) rfl
  | .evictClean => execEvictClean_frame s (agree_refl _ s) rfl
  | .invalidate => execInvalidate_frame s (agree_refl _ s) rfl
  | .recall => execRecall_frame s (agree_refl _ s) rfl
  | .downgrade => execDowngrade_frame s (agree_refl _ s) rfl
  | .grant => execGrant_frame s (agree_refl _ s) rfl
  | .ack => execAck_frame s (agree_refl _ s) rfl
  | .dataBack => execDataBack_frame s (agree_refl _ s) rfl
  | .lineRequest ring message addr data => execLineRequest_frame ring message addr data s (agree_refl _ s) rfl
  | .open_ => execOpen_frame s (agree_refl _ s) rfl
  | .benchmarkCodes => execBenchmarkCodes_frame s (agree_refl _ s) rfl
  | .benchmarks => execBenchmarks_frame s (agree_refl _ s) rfl
  | .contribution => execContribution_frame s (agree_refl _ s) rfl
  | .result => execResult_frame s (agree_refl _ s) rfl
  | .filterCounts => execFilterCounts_frame s (agree_refl _ s) rfl
  | .filterBases => execFilterBases_frame s (agree_refl _ s) rfl
  | .receipt => execReceipt_frame s (agree_refl _ s) rfl
  | .report => execReport_frame s (agree_refl _ s) rfl
  | .done_ => execDone_frame s (agree_refl _ s) rfl
  | .abort => execAbort_frame s (agree_refl _ s) rfl
  | .collectiveResend index => execCollectiveResend_frame index s (agree_refl _ s) rfl
  | .collectiveWatchdog polder collective => execCollectiveWatchdog_frame polder collective s (agree_refl _ s) rfl
  | .barrierArrival => execBarrierArrival_frame s (agree_refl _ s) rfl
  | .barrierRelease => execBarrierRelease_frame s (agree_refl _ s) rfl
  | .barrierArrivalResend polder barrier => execBarrierArrivalResend_frame polder barrier s (agree_refl _ s) rfl
  | .barrierNodeWatchdog polder barrier => execBarrierNodeWatchdog_frame polder barrier s (agree_refl _ s) rfl
  | .barrierParticipantWatchdog polder barrier =>
    execBarrierParticipantWatchdog_frame polder barrier s (agree_refl _ s) rfl
  | .releasedListExpiry index => execReleasedListExpiry_frame index s (agree_refl _ s) rfl
  | .stackAccess r => execStackAccess_frame r s (agree_refl _ s) rfl
  | .scaRead r => execScaRead_frame r s (agree_refl _ s) rfl
  | .inc r => execInc_frame r s (agree_refl _ s) rfl
  | .dec r => execDec_frame r s (agree_refl _ s) rfl
  | .waitGe r => execWaitGe_frame r s (agree_refl _ s) rfl
  | .waitDec r => execWaitDec_frame r s (agree_refl _ s) rfl
  | .set r => execSet_frame r s (agree_refl _ s) rfl
  | .scaInvalidOp r op => execScaInvalidOp_frame r op s (agree_refl _ s) rfl
  | .waitIdleThreshold core => execWaitIdleThreshold_frame core s (agree_refl _ s) rfl
  | .remoteRequest r => execRemoteRequest_frame r s (agree_refl _ s) rfl
  | .fauResend index => execFauResend_frame index s (agree_refl _ s) rfl
  | .fauGiveUp index => execFauGiveUp_frame index s (agree_refl _ s) rfl
  | .answerLogExpiry index => execAnswerLogExpiry_frame index s (agree_refl _ s) rfl
  | .replayEntryExpiry index => execReplayEntryExpiry_frame index s (agree_refl _ s) rfl
  | .holdQueueDiscard index => execHoldQueueDiscard_frame index s (agree_refl _ s) rfl
  | .markFire => execMarkFire_frame s (agree_refl _ s) rfl
  | .datumExchange t1 t2 t3 t4 upstreamLocked =>
    execDatumExchange_frame t1 t2 t3 t4 upstreamLocked s (agree_refl _ s) rfl
  | .datumExchangeMissed => execDatumExchangeMissed_frame s (agree_refl _ s) rfl
  | .floodwatchStop polder originator => execFloodwatchStop_frame polder originator s (agree_refl _ s) rfl
  | .deviceFailed device => execDeviceFailed_frame device s (agree_refl _ s) rfl
  | .devicePresent device => execDevicePresent_frame device s (agree_refl _ s) rfl
  | .rebuildRow group => execRebuildRow_frame group s (agree_refl _ s) rfl
  | .rebuildEnd group => execRebuildEnd_frame group s (agree_refl _ s) rfl
  | .queueLevelReport weir level capacity => execQueueLevelReport_frame weir level capacity s (agree_refl _ s) rfl
  | .writeAcknowledged index => execWriteAcknowledged_frame index s (agree_refl _ s) rfl
  | .weirInterval weir backlogged admitted => execWeirInterval_frame weir backlogged admitted s (agree_refl _ s) rfl
  | .weirStatusMirror weir => execWeirStatusMirror_frame weir s (agree_refl _ s) rfl
  | .leaseExpiry extent => execLeaseExpiry_frame extent s (agree_refl _ s) rfl
  | .extentRevokeDrained extent => execExtentRevokeDrained_frame extent s (agree_refl _ s) rfl
  | .extentInitialisationComplete extent => execExtentInitialisationComplete_frame extent s (agree_refl _ s) rfl
  | .extentRekeyCopyComplete extent => execExtentRekeyCopyComplete_frame extent s (agree_refl _ s) rfl
  | .zeroFillComplete plot => execZeroFillComplete_frame plot s (agree_refl _ s) rfl
  | .plotReleaseDrained plot => execPlotReleaseDrained_frame plot s (agree_refl _ s) rfl
  | .regionWithdrawDrained index => execRegionWithdrawDrained_frame index s (agree_refl _ s) rfl
  | .kcuJobComplete kcu outcome => execKcuJobComplete_frame kcu outcome s (agree_refl _ s) rfl
  | .slotEvictionComplete slot => execSlotEvictionComplete_frame slot s (agree_refl _ s) rfl
  | .slotLoadTimeout polder => execSlotLoadTimeout_frame polder s (agree_refl _ s) rfl
  | .drbgReseed => execDrbgReseed_frame s (agree_refl _ s) rfl
  | .entropyHealthFailure test => execEntropyHealthFailure_frame test s (agree_refl _ s) rfl
  | .engineWatchdogExpiry unit => execEngineWatchdogExpiry_frame unit s (agree_refl _ s) rfl
  | .suspectCleared unit => execSuspectCleared_frame unit s (agree_refl _ s) rfl
  | .teardownDrained polder => execTeardownDrained_frame polder s (agree_refl _ s) rfl
  | .teardownComplete polder => execTeardownComplete_frame polder s (agree_refl _ s) rfl
  | .contextDestroyComplete context => execContextDestroyComplete_frame context s (agree_refl _ s) rfl
  | .memobjLastReference memobj => execMemobjLastReference_frame memobj s (agree_refl _ s) rfl
  | .stepBeginBoundary context => execStepBeginBoundary_frame context s (agree_refl _ s) rfl
  | .chartFreeze polder => execChartFreeze_frame polder s (agree_refl _ s) rfl
  | .chartExportTimeout polder => execChartExportTimeout_frame polder s (agree_refl _ s) rfl
  | .chartWritten polder => execChartWritten_frame polder s (agree_refl _ s) rfl
  | .imageRewriteComplete => execImageRewriteComplete_frame s (agree_refl _ s) rfl
  | .lcTransitionComplete => execLcTransitionComplete_frame s (agree_refl _ s) rfl
  | .kemOfferExpiry sluice => execKemOfferExpiry_frame sluice s (agree_refl _ s) rfl
  | .nonceExpiry => execNonceExpiry_frame s (agree_refl _ s) rfl
  | .authorisationExpiry => execAuthorisationExpiry_frame s (agree_refl _ s) rfl
  | .gaugeIncrement polder counter => execGaugeIncrement_frame polder counter s (agree_refl _ s) rfl
  | .gaugePeriodicCapture => execGaugePeriodicCapture_frame s (agree_refl _ s) rfl
  | .gaugeRecordSigned => execGaugeRecordSigned_frame s (agree_refl _ s) rfl
  | .eventRingSpaceReturn fn ring => execEventRingSpaceReturn_frame fn ring s (agree_refl _ s) rfl
  | .mailboxDoorbell fn => execMailboxDoorbell_frame fn s (agree_refl _ s) rfl
  | .fetch o tag => execFetch_frame o tag s (agree_refl _ s) rfl
  | .securedMessage o record => execSecuredMessage_frame o record s (agree_refl _ s) rfl
  | .regRead offset wide => execRegRead_frame offset wide s (agree_refl _ s) rfl
  | .recoveryLoad image => execRecoveryLoad_frame image s (agree_refl _ s) rfl
  | .getVersion sluice => execGetVersion_frame sluice s (agree_refl _ s) rfl
  | .getCapabilities sluice => execGetCapabilities_frame sluice s (agree_refl _ s) rfl
  | .negotiateAlgorithms sluice request => execNegotiateAlgorithms_frame sluice request s (agree_refl _ s) rfl
  | .getDigests sluice => execGetDigests_frame sluice s (agree_refl _ s) rfl
  | .getCertificate sluice slot offset length =>
    execGetCertificate_frame sluice slot offset length s (agree_refl _ s) rfl
  | .challenge sluice slot nonce => execChallenge_frame sluice slot nonce s (agree_refl _ s) rfl
  | .getMeasurements sluice index signed nonce =>
    execGetMeasurements_frame sluice index signed nonce s (agree_refl _ s) rfl
  | .kemOffer sluice key => execKemOffer_frame sluice key s (agree_refl _ s) rfl
  | .keyExchange sluice session share kemHash wantMutual =>
    execKeyExchange_frame sluice session share kemHash wantMutual s (agree_refl _ s) rfl
  | .finish sluice session verify => execFinish_frame sluice session verify s (agree_refl _ s) rfl
  | .pqSignature sluice => execPqSignature_frame sluice s (agree_refl _ s) rfl
  | .heartbeat sluice session => execHeartbeat_frame sluice session s (agree_refl _ s) rfl
  | .keyUpdate sluice session both => execKeyUpdate_frame sluice session both s (agree_refl _ s) rfl
  | .endSession sluice session => execEndSession_frame sluice session s (agree_refl _ s) rfl
  | .chunkSend sluice handle last data => execChunkSend_frame sluice handle last data s (agree_refl _ s) rfl
  | .chunkGet sluice handle seq => execChunkGet_frame sluice handle seq s (agree_refl _ s) rfl
  | .unsupportedRequest sluice code => execUnsupportedRequest_frame sluice code s (agree_refl _ s) rfl
  | .polderProvision o tag polder confidential pmk =>
    execPolderProvision_frame o tag polder confidential pmk s (agree_refl _ s) rfl
  | .polderMembership o tag polder mark members =>
    execPolderMembership_frame o tag polder mark members s (agree_refl _ s) rfl
  | .polderTeardown o tag polder => execPolderTeardown_frame o tag polder s (agree_refl _ s) rfl
  | .polderList o tag first => execPolderList_frame o tag first s (agree_refl _ s) rfl
  | .keySlotPin o tag polder => execKeySlotPin_frame o tag polder s (agree_refl _ s) rfl
  | .keySlotUnpin o tag polder => execKeySlotUnpin_frame o tag polder s (agree_refl _ s) rfl
  | .keySlotStatus o tag slot => execKeySlotStatus_frame o tag slot s (agree_refl _ s) rfl
  | .plotAssign o tag memobj plot base writable zeroFill fillClass =>
    execPlotAssign_frame o tag memobj plot base writable zeroFill fillClass s (agree_refl _ s) rfl
  | .plotRelease o tag plot => execPlotRelease_frame o tag plot s (agree_refl _ s) rfl
  | .plotQuery o tag plot => execPlotQuery_frame o tag plot s (agree_refl _ s) rfl
  | .memobjCreate o tag polder => execMemobjCreate_frame o tag polder s (agree_refl _ s) rfl
  | .memobjFree o tag memobj => execMemobjFree_frame o tag memobj s (agree_refl _ s) rfl
  | .contextCreate o tag polder cls cores => execContextCreate_frame o tag polder cls cores s (agree_refl _ s) rfl
  | .contextDestroy o tag context => execContextDestroy_frame o tag context s (agree_refl _ s) rfl
  | .queueCreate o tag context ring depth addr =>
    execQueueCreate_frame o tag context ring depth addr s (agree_refl _ s) rfl
  | .queueDestroy o tag queue => execQueueDestroy_frame o tag queue s (agree_refl _ s) rfl
  | .eventRingCreate o tag size vector addr => execEventRingCreate_frame o tag size vector addr s (agree_refl _ s) rfl
  | .eventRingDestroy o tag ring => execEventRingDestroy_frame o tag ring s (agree_refl _ s) rfl
  | .fenceCreate o tag context => execFenceCreate_frame o tag context s (agree_refl _ s) rfl
  | .fenceShare o tag fence context => execFenceShare_frame o tag fence context s (agree_refl _ s) rfl
  | .fenceDestroy o tag fence => execFenceDestroy_frame o tag fence s (agree_refl _ s) rfl
  | .regionExport o tag memobj kind perms mcKey length firstOffset core base count plots =>
    execRegionExport_frame o tag memobj kind perms mcKey length firstOffset core base count plots s (agree_refl _ s) rfl
  | .regionWithdraw o tag key => execRegionWithdraw_frame o tag key s (agree_refl _ s) rfl
  | .regionQuery o tag index => execRegionQuery_frame o tag index s (agree_refl _ s) rfl
  | .extentGrant o tag polder holder lease perms =>
    execExtentGrant_frame o tag polder holder lease perms s (agree_refl _ s) rfl
  | .extentRenew o tag extent holder lease => execExtentRenew_frame o tag extent holder lease s (agree_refl _ s) rfl
  | .extentHandover o tag extent holder newHolder lease =>
    execExtentHandover_frame o tag extent holder newHolder lease s (agree_refl _ s) rfl
  | .extentRevoke o tag extent => execExtentRevoke_frame o tag extent s (agree_refl _ s) rfl
  | .extentRekey o tag extent => execExtentRekey_frame o tag extent s (agree_refl _ s) rfl
  | .extentHint o tag extent hint => execExtentHint_frame o tag extent hint s (agree_refl _ s) rfl
  | .trayRebuildRate o tag percent => execTrayRebuildRate_frame o tag percent s (agree_refl _ s) rfl
  | .extentStatus o tag extent => execExtentStatus_frame o tag extent s (agree_refl _ s) rfl
  | .trayStatus o tag => execTrayStatus_frame o tag s (agree_refl _ s) rfl
  | .collectiveGroupDefine o tag mark desc => execCollectiveGroupDefine_frame o tag mark desc s (agree_refl _ s) rfl
  | .collectiveGroupDestroy o tag polder group =>
    execCollectiveGroupDestroy_frame o tag polder group s (agree_refl _ s) rfl
  | .groupQuery o tag polder group => execGroupQuery_frame o tag polder group s (agree_refl _ s) rfl
  | .ringCreate o tag ring polder members own home mark =>
    execRingCreate_frame o tag ring polder members own home mark s (agree_refl _ s) rfl
  | .ringMemberDead o tag ring inst => execRingMemberDead_frame o tag ring inst s (agree_refl _ s) rfl
  | .ringDestroy o tag ring mark => execRingDestroy_frame o tag ring mark s (agree_refl _ s) rfl
  | .mcastGroupJoin o tag polder group members =>
    execMcastGroupJoin_frame o tag polder group members s (agree_refl _ s) rfl
  | .mcastGroupLeave o tag polder group => execMcastGroupLeave_frame o tag polder group s (agree_refl _ s) rfl
  | .datumConfig o tag root port => execDatumConfig_frame o tag root port s (agree_refl _ s) rfl
  | .datumStatus o tag => execDatumStatus_frame o tag s (agree_refl _ s) rfl
  | .syncCounterRead o tag core => execSyncCounterRead_frame o tag core s (agree_refl _ s) rfl
  | .contextStepRead o tag context => execContextStepRead_frame o tag context s (agree_refl _ s) rfl
  | .markQueueStatus o tag => execMarkQueueStatus_frame o tag s (agree_refl _ s) rfl
  | .chartExport o tag polder chart step addr len =>
    execChartExport_frame o tag polder chart step addr len s (agree_refl _ s) rfl
  | .chartImport o tag polder memobj chart addr len =>
    execChartImport_frame o tag polder memobj chart addr len s (agree_refl _ s) rfl
  | .chartResume o tag polder chart mark => execChartResume_frame o tag polder chart mark s (agree_refl _ s) rfl
  | .chartDiscard o tag polder chart => execChartDiscard_frame o tag polder chart s (agree_refl _ s) rfl
  | .weirConfig o tag weir minima => execWeirConfig_frame o tag weir minima s (agree_refl _ s) rfl
  | .weirStatus o tag weir => execWeirStatus_frame o tag weir s (agree_refl _ s) rfl
  | .counterRead o tag first count => execCounterRead_frame o tag first count s (agree_refl _ s) rfl
  | .streamCountersRead o tag polder stream peer direction =>
    execStreamCountersRead_frame o tag polder stream peer direction s (agree_refl _ s) rfl
  | .polderCountersRead o tag polder => execPolderCountersRead_frame o tag polder s (agree_refl _ s) rfl
  | .traceConfig o tag sizeMib enable mask => execTraceConfig_frame o tag sizeMib enable mask s (agree_refl _ s) rfl
  | .traceFetch o tag offset length => execTraceFetch_frame o tag offset length s (agree_refl _ s) rfl
  | .lcStatus o tag => execLcStatus_frame o tag s (agree_refl _ s) rfl
  | .lcChallenge o tag target => execLcChallenge_frame o tag target s (agree_refl _ s) rfl
  | .lcTransition o tag target response => execLcTransition_frame o tag target response s (agree_refl _ s) rfl
  | .debugAuthorise o tag authorisation => execDebugAuthorise_frame o tag authorisation s (agree_refl _ s) rfl
  | .debugClose o tag => execDebugClose_frame o tag s (agree_refl _ s) rfl
  | .gaugeIdentity o tag => execGaugeIdentity_frame o tag s (agree_refl _ s) rfl
  | .gaugeCountersRead o tag polder => execGaugeCountersRead_frame o tag polder s (agree_refl _ s) rfl
  | .gaugeRecordFetch o tag first max => execGaugeRecordFetch_frame o tag first max s (agree_refl _ s) rfl
  | .gaugeRecordRelease o tag through => execGaugeRecordRelease_frame o tag through s (agree_refl _ s) rfl
  | .faultRead o tag first count => execFaultRead_frame o tag first count s (agree_refl _ s) rfl
  | .resetEngine o tag unit => execResetEngine_frame o tag unit s (agree_refl _ s) rfl
  | .resetContext o tag context => execResetContext_frame o tag context s (agree_refl _ s) rfl
  | .resetPolder o tag polder => execResetPolder_frame o tag polder s (agree_refl _ s) rfl
  | .resetVf o tag vf => execResetVf_frame o tag vf s (agree_refl _ s) rfl
  | .resetBlock o tag => execResetBlock_frame o tag s (agree_refl _ s) rfl
  | .serviceRelease o tag => execServiceRelease_frame o tag s (agree_refl _ s) rfl
  | .floodwatchConfig o tag enable => execFloodwatchConfig_frame o tag enable s (agree_refl _ s) rfl
  | .crashDumpRead o tag unit offset length => execCrashDumpRead_frame o tag unit offset length s (agree_refl _ s) rfl
  | .stragglerRead o tag polder inst => execStragglerRead_frame o tag polder inst s (agree_refl _ s) rfl
  | .identityRead o tag => execIdentityRead_frame o tag s (agree_refl _ s) rfl
  | .surveyRead o tag first count => execSurveyRead_frame o tag first count s (agree_refl _ s) rfl
  | .firmwareStage o tag offset data => execFirmwareStage_frame o tag offset data s (agree_refl _ s) rfl
  | .firmwareActivate o tag length => execFirmwareActivate_frame o tag length s (agree_refl _ s) rfl
  | .firmwareCommitSvn o tag n => execFirmwareCommitSvn_frame o tag n s (agree_refl _ s) rfl
  | .remoteOp queue => execRemoteOp_frame queue s (agree_refl _ s) rfl
  | .collectiveLaunch queue => execCollectiveLaunch_frame queue s (agree_refl _ s) rfl
  | .barrierArrive queue => execBarrierArrive_frame queue s (agree_refl _ s) rfl
  | .stepBegin queue => execStepBegin_frame queue s (agree_refl _ s) rfl
  | .fenceSignal queue => execFenceSignal_frame queue s (agree_refl _ s) rfl
  | .fenceWait queue => execFenceWait_frame queue s (agree_refl _ s) rfl
  | .bulkCopy queue => execBulkCopy_frame queue s (agree_refl _ s) rfl
  | .stateReqLock vf => execStateReqLock_frame vf s (agree_refl _ s) rfl
  | .stateReqRun vf => execStateReqRun_frame vf s (agree_refl _ s) rfl
  | .stateReqUnlock vf => execStateReqUnlock_frame vf s (agree_refl _ s) rfl
  | .allotWrite vf second value => execAllotWrite_frame vf second value s (agree_refl _ s) rfl
  | .dirtyEnable vf enable => execDirtyEnable_frame vf enable s (agree_refl _ s) rfl
  | .swap vf => execSwap_frame vf s (agree_refl _ s) rfl
  | .queueDoorbell fn queue value => execQueueDoorbell_frame fn queue value s (agree_refl _ s) rfl
  | .eventRingHead fn ring head => execEventRingHead_frame fn ring head s (agree_refl _ s) rfl
  | .arm fn ring => execArm_frame fn ring s (agree_refl _ s) rfl
  | .profSelWrite index value => execProfSelWrite_frame index value s (agree_refl _ s) rfl
  | .counterRegisterRead index wide => execCounterRegisterRead_frame index wide s (agree_refl _ s) rfl
  | .lowHalfRead window offset => execLowHalfRead_frame window offset s (agree_refl _ s) rfl
  | .registerWrite window offset wide value => execRegisterWrite_frame window offset wide value s (agree_refl _ s) rfl
  | .deliverEncapsulatedResponse sluice session chain signature =>
    execDeliverEncapsulatedResponse_frame sluice session chain signature s (agree_refl _ s) rfl
  | .getEncapsulatedRequest sluice session => execGetEncapsulatedRequest_frame sluice session s (agree_refl _ s) rfl
  | .snoopResponse ring addr data => execSnoopResponse_frame ring addr data s (agree_refl _ s) rfl
  | .deviceReadReturn read data uncorrectable =>
    execDeviceReadReturn_frame read data uncorrectable s (agree_refl _ s) rfl
  | .hostRequestComplete what => execHostRequestComplete_frame what s (agree_refl _ s) rfl
  | .chartImportComplete polder chart => execChartImportComplete_frame polder chart s (agree_refl _ s) rfl

/-- Settles O4: by the frame of each command's meaning. -/
theorem everyCommandTouchesOnlyItsParts : Obligations.EveryCommandTouchesOnlyItsParts := by
  intro c s t h
  have hf := exec_frame c s
  rw [h] at hf
  exact hf

end Sys2Proof.Machine
end

section
/-! SUPPORT. What FAULT_READ, the scopes of RESET, SERVICE_RELEASE, FLOODWATCH_CONFIG, CRASH_DUMP_READ and STRAGGLER_READ do
(R434 to R447, R453, R457), and the statements about them. -/

namespace Sys2Proof.Machine

/-- A command that passes the checks before its own, and is refused by its own, answers that status and does nothing
else. -/
theorem exec_refused {c : Instr} {s : State} {st : Status} {ci : CmdInfo} {o : Origin} {tag : BitVec 32} {d m : Bool}
    {own : State → Option Status} {eff : State → State} (h : Passes c s) (hw : wardenRow c = some (ci, o, tag))
    (he : exec c s = .next (runCmd ci o tag d m own eff s)) (hb : resetsBlock c = false) (hd : d = false) (hm : m = false)
    (ho : own s = some st) : exec c s = .next (refuse o tag ci.opcode st s) := by
  obtain ⟨_, _, _, hw', hrun, _, hc⟩ := h
  rw [hw] at hw'
  cases hw'
  subst hd hm
  rw [runCmd_eq he hb, runCmdIn_refused eff hrun hc ho]

/-! ### The scopes of RESET (R444) -/

/-- The hang procedures running are what the trace leaves still. -/
theorem findHang_of_still {s t : State} (h : t.tracer.still = s.tracer.still) (unit : BitVec 16) :
    findHang t unit = findHang s unit := by
  show t.tracer.still.hangs.find? _ = s.tracer.still.hangs.find? _
  rw [h]

@[simp] theorem pend_still (o : Origin) (tag : BitVec 32) (opcode : BitVec 16) (s : State) :
    (pend o tag opcode s).tracer.still = s.tracer.still :=
  reply_still ..

theorem faults_of_still {s t : State} (h : t.tracer.still = s.tracer.still) : t.tracer.faults = s.tracer.faults := by
  show t.tracer.still.faults = s.tracer.still.faults
  rw [h]

theorem floodwatch_of_still {s t : State} (h : t.tracer.still = s.tracer.still) :
    t.tracer.floodwatch = s.tracer.floodwatch := by
  show t.tracer.still.floodwatch = s.tracer.still.floodwatch
  rw [h]

/-- RESET of scope 0 on a unit that has a watchdog begins its hang procedure, or joins the one that runs. -/
theorem exec_resetEngine {o : Origin} {tag : BitVec 32} {unit : BitVec 16} {s : State}
    (h : Passes (.resetEngine o tag unit) s) (hw : watched s unit = true) :
    exec (.resetEngine o tag unit) s = .next (
      if (findHang s unit).isSome then resetEngine unit (modTracer (fun t => { t with
        hangs := alter (fun h => h.unit = unit) (fun h => { h with waiters := h.waiters ++ [(o, tag)] }) t.hangs })
          (pend o tag 0x0E02 s))
      else beginHang unit false [(o, tag)] (pend o tag 0x0E02 s)) := by
  rw [exec_effect h rfl (runCmd_eq rfl rfl) rfl rfl ((firstFail_none _).2 (by simp [hw]))]
  dsimp only
  rw [findHang_of_still (pend_still o tag 0x0E02 s)]

/-- RESET of scope 1 on a live context that the sender may name stops its work at once. -/
theorem exec_resetContext {o : Origin} {tag : BitVec 32} {c : BitVec 16} {x : Context} {s : State}
    (h : Passes (.resetContext o tag c) s) (hlt : c.toNat < 4096) (hx : findContext s (c.setWidth 12) = some x)
    (hl : contextLive c s = true) (hn : mayName o x.fn x.polder (o.sluice = .sb) s = true) :
    exec (.resetContext o tag c) s = .next (resetContext x.id o tag (pend o tag 0x0E02 s)) := by
  rw [exec_effect h rfl (runCmd_eq rfl rfl) (by simp [hlt, hx, hn]) rfl ((firstFail_none _).2 (by simp [hl])),
    id_of_findContext hx]

/-- A context with no copy running on an engine is BOUND again, and the command ends. -/
theorem resetContext_idle {c : CtxId} {s : State} (h : copyRuns (endFences c (squashWork c s)) c = false) (o : Origin)
    (tag : BitVec 32) : resetContext c o tag s = finish o tag .ok [] (restoreContext c s) := by
  simp [resetContext, h, restoreContext]

/-- The command waits for a copy that runs on an engine. -/
theorem resetContext_waits {c : CtxId} {s : State} (h : copyRuns (endFences c (squashWork c s)) c = true) (o : Origin)
    (tag : BitVec 32) : resetContext c o tag s
      = modContext c (fun x => { x with resetting := x.resetting ++ [(o, tag)] }) (endFences c (squashWork c s)) := by
  simp [resetContext, h]

/-- RESET of scope 2 is a teardown. -/
theorem exec_resetPolder {o : Origin} {tag : BitVec 32} {p : PolderId} {q : Polder} {s : State}
    (h : Passes (.resetPolder o tag p) s) (hq : findPolder s p = some q) (hm : mayNamePolder o p s = true) :
    exec (.resetPolder o tag p) s = .next (beginTeardown p false [(o, tag)] (pend o tag 0x0E02 s)) :=
  exec_effect h rfl (runCmd_eq rfl rfl) (by simp [polderDenied, hm]) rfl ((firstFail_none _).2 (by simp [hq]))

/-- RESET of scope 3 starts the VF's function reset sequence. -/
theorem exec_resetVf {o : Origin} {tag : BitVec 32} {vf : BitVec 16} {s : State} (h : Passes (.resetVf o tag vf) s)
    (he : s.boot.role = .e) (hv : vf.toNat < s.chip.vfs) (hlt : vf.toNat < 64) :
    exec (.resetVf o tag vf) s = .next (startFnReset (vf.setWidth 6) [(o, tag)] (pend o tag 0x0E02 s)) :=
  exec_effect h rfl (runCmd_eq rfl rfl) rfl rfl ((firstFail_none _).2 (by simp [he, hv, hlt]))

/-- RESET of scope 4 is a block reset with cause COMMANDED. -/
theorem exec_resetBlock {o : Origin} {tag : BitVec 32} {s : State} (h : Passes (.resetBlock o tag) s) :
    exec (.resetBlock o tag) s = .next (blockReset 6 (pend o tag 0x0E02 s)) :=
  exec_effect (own := noCheck) (eff := fun s => blockReset 6 (pend o tag 0x0E02 s)) h rfl rfl rfl rfl rfl

/-! ### Readings of failures (R434 to R436, R442, R457) -/

/-- FAULT_READ answers the records of its range that the reader may see, as it may see them. -/
theorem answers_faultRead {o : Origin} {tag first : BitVec 32} {n : BitVec 16} {s : State}
    (h : Passes (.faultRead o tag first n) s) (h0 : n ≠ 0) (hn : n.toNat ≤ 63) :
    let held := if o.sluice = .sb then s.sb.faultCopy else s.tracer.faults
    let mine := (held.filter fun r => first.toNat ≤ r.seq.toNat && mayReadRecord o s r).take n.toNat
    Answers (.faultRead o tag first n) s .ok (leBytes 8 s.tracer.overwritten.toNat ++ leBytes 2 mine.length ++ zeros 6
      ++ mine.flatMap fun r => faultBytes (shownRecord o s r)) fun t => t.tracer.faults = s.tracer.faults := by
  have hpos : n.toNat ≠ 0 := fun e => h0 (BitVec.eq_of_toNat_eq e)
  refine answers_reply s h rfl rfl rfl rfl rfl ?_ rfl rfl ?_
  · exact (firstFail_none _).2 (by simp [hpos, hn])
  · exact faults_of_still (reply_still ..)

/-- CRASH_DUMP_READ of a unit or a sample slot that there is answers what can be read of it. -/
theorem answers_crashDumpRead {o : Origin} {tag offset : BitVec 32} {unit len : BitVec 16} {s : State}
    (h : Passes (.crashDumpRead o tag unit offset len) s) (hu : sampleUnit unit = true ∨ unitExists s unit = true)
    (h0 : len ≠ 0) (hlen : len.toNat ≤ 4072) :
    Answers (.crashDumpRead o tag unit offset len) s .ok ([(dumpAnswer s unit offset.toNat len.toNat).1] ++ zeros 7
      ++ (dumpAnswer s unit offset.toNat len.toNat).2) fun t => t.tracer.still = s.tracer.still := by
  have hpos : len.toNat ≠ 0 := fun e => h0 (BitVec.eq_of_toNat_eq e)
  refine answers_reply s h rfl rfl rfl rfl rfl ?_ rfl rfl (reply_still ..)
  refine (firstFail_none _).2 ?_
  obtain hu | hu := hu <;> simp [hu, hpos, hlen]

/-- STRAGGLER_READ answers the entry, or zeros where the PF asks for a confidential polder's. -/
theorem answers_stragglerRead {o : Origin} {tag : BitVec 32} {p : PolderId} {inst : BitVec 16} {x : Straggler} {s : State}
    (h : Passes (.stragglerRead o tag p inst) s) (ht : isTearing s p = false) (hx : stragglerOf s p inst = some x) :
    Answers (.stragglerRead o tag p inst) s .ok
      (if isConfidential s p && o.sluice = .pf then zeros 16
        else leBytes 8 x.lastStep.toNat ++ leBytes 4 x.late.toNat ++ leBytes 4 x.worst.toNat)
      fun t => t.tracer.still = s.tracer.still := by
  refine answers_reply s h rfl rfl rfl rfl rfl ?_ ?_ rfl (reply_still ..)
  · exact (firstFail_none _).2 (by simp [ht, hx])
  · simp only [hx]

/-! ### Floodwatch (R453) -/

/-- FLOODWATCH_CONFIG turns Floodwatch on or off, and leaves the rest of the Tracer. -/
theorem answers_floodwatchConfig {o : Origin} {tag : BitVec 32} {enable : BitVec 8} {s : State}
    (h : Passes (.floodwatchConfig o tag enable) s) (he : enable.toNat ≤ 1) :
    Answers (.floodwatchConfig o tag enable) s .ok [] fun t =>
      t.tracer.still = { s.tracer.still with floodwatch := decide (enable = 1) } := by
  refine answers_reply (modTracer (fun t => { t with floodwatch := decide (enable = 1) }) s) h rfl rfl rfl rfl rfl ?_ rfl rfl ?_
  · exact (firstFail_none _).2 (by simp; omega)
  · rw [reply_still]
    rfl

theorem answers_floodwatch {o : Origin} {tag : BitVec 32} {enable : BitVec 8} {s : State}
    (h : Passes (.floodwatchConfig o tag enable) s) (he : enable.toNat ≤ 1) :
    Answers (.floodwatchConfig o tag enable) s .ok [] fun t => t.tracer.floodwatch = decide (enable = 1) := by
  obtain ⟨ci, o', tag', hw, t, ht, hout, hstill⟩ := answers_floodwatchConfig h he
  exact ⟨ci, o', tag', hw, t, ht, hout, congrArg Tracer.floodwatch hstill⟩

/-- A command that is not permitted on its sluice is refused by a check before its own. -/
theorem cmdCheck_of_not_permitted {ci : CmdInfo} {o : Origin} {s : State} (h : permitted ci o s = false) (tag : BitVec 32)
    (denied malformed scopeBlock : Bool) : ∃ st, cmdCheck ci o tag denied malformed scopeBlock s = some st := by
  unfold cmdCheck
  split
  · rename_i hc
    exact Option.isSome_iff_exists.1 hc
  · exact ⟨.denied, by rw [if_pos (by rw [h]; rfl)]⟩

/-- FLOODWATCH_CONFIG is permitted on the fabric manager's sluice alone. -/
theorem floodwatchConfig_not_permitted {o : Origin} (ho : o.sluice ≠ .fm) (s : State) :
    permitted { opcode := 0x0E04, fm := true } o s = false := by
  unfold permitted
  cases hs : o.sluice with
  | pf => rfl
  | vf n => rfl
  | sb => cases o.session <;> rfl
  | fm => exact absurd hs ho
  | dbg => rfl

/-- There it leaves Floodwatch as it was. -/
theorem floodwatch_of_other_sluice {o : Origin} (ho : o.sluice ≠ .fm) {tag : BitVec 32} {enable : BitVec 8} {s t : State}
    (h : exec (.floodwatchConfig o tag enable) s = .next t) : t.tracer.floodwatch = s.tracer.floodwatch := by
  obtain ⟨st, hst⟩ := cmdCheck_of_not_permitted (floodwatchConfig_not_permitted ho s) tag false false false
  cases h
  cases hr : running s with
  | false => simp [floodwatchConfigCmd, runCmd, runCmdIn, hr]
  | true =>
    rw [floodwatchConfigCmd, runCmd, runCmdIn_checked _ _ hr hst]
    exact floodwatch_of_still (reply_still ..)

@[simp] theorem resetState_tracer (s : State) : (resetState s).tracer = Tracer.reset := rfl

/-- The start of boot writes a fault record and leaves the other settings of the Tracer. -/
theorem romStart_floodwatch (s : State) : (romStart s).tracer.floodwatch = s.tracer.floodwatch := by
  have hb : (bootRecord (gaugeRead s)).tracer.floodwatch = s.tracer.floodwatch := rfl
  unfold romStart
  dsimp only
  split
  · rw [announceBoot_tracer, hb]
  · exact hb

theorem blockReset_floodwatch (cause : BitVec 4) (s : State) : (blockReset cause s).tracer.floodwatch = false := by
  rw [blockReset, romStart_floodwatch]
  rfl

/-- Settles O60: Floodwatch is off by what a block reset leaves of the Tracer, and on no other sluice is the command
permitted. -/
theorem floodwatchIsConfigured : Obligations.FloodwatchIsConfigured :=
  ⟨fun _ h => ⟨_, exec_blockResetAssert h, rfl⟩, blockReset_floodwatch,
    fun _ _ _ h => answers_floodwatch (enable := 1) h (by decide),
    fun _ _ _ h => answers_floodwatch (enable := 0) h (by decide),
    fun _ _ _ _ _ ho h => floodwatch_of_other_sluice ho h⟩

/-- Settles O57: each command passes the checks before its own by hypothesis; what is left is its own checks and what it
answers or begins. -/
theorem faultsAndResetsComplete : Obligations.FaultsAndResetsComplete := by
  intro o tag s
  refine ⟨fun first n => answers_faultRead, ?engine, ?context, fun p q => exec_resetPolder, fun vf => exec_resetVf,
    exec_resetBlock, fun enable => answers_floodwatchConfig, fun unit offset len => answers_crashDumpRead,
    fun p inst x => answers_stragglerRead⟩
  case engine =>
    intro unit h hw
    rw [exec_resetEngine h hw]
    exact ⟨fun hf => by simp [hf], fun g hf => by simp [hf]⟩
  case context =>
    intro c x h hlt hx hl hn
    rw [exec_resetContext h hlt hx hl hn]
    exact ⟨fun hc => by rw [resetContext_idle hc], fun hc => by rw [resetContext_waits hc]⟩

/-! ### SERVICE_RELEASE (R447) -/

theorem romStart_outOfService (s : State) : (romStart s).sb.outOfService = s.sb.outOfService := by
  obtain ⟨copies, unsent, h⟩ := romStart_sb s
  rw [h]

/-- A cause that does not count leaves the list of events and the out-of-service state. -/
theorem blockReset_sb_of_uncounted {cause : BitVec 4} (h : countedCause cause = false) (s : State) :
    (blockReset cause s).sb.events = s.sb.events ∧ (blockReset cause s).sb.outOfService = s.sb.outOfService
      ∧ (blockReset cause s).sb.leaving = s.sb.leaving := by
  have hs : blockReset cause s
      = romStart { resetState s with sb := { (resetState s).sb with cause := cause } } := by
    unfold countedCause at h
    simp only [blockReset, h]
    rfl
  rw [hs, romStart_events, romStart_outOfService, romStart_leaving, resetState_sb]
  exact ⟨rfl, rfl, rfl⟩

/-- Boot starts again under the straps already sampled. -/
theorem blockReset_stage (cause : BitVec 4) (s : State) :
    (blockReset cause s).boot.stage = if s.boot.strapInvalid then .halted else .romStart := by
  have hstrap : ∀ t : State, t.boot.strapInvalid = s.boot.strapInvalid →
      (romStart t).boot.stage = if s.boot.strapInvalid then .halted else .romStart := by
    intro t ht
    cases hs : s.boot.strapInvalid with
    | false => rw [romStart_boot_of_valid (ht.trans hs)]; rfl
    | true => rw [romStart_boot_of_invalid (ht.trans hs)]; rfl
  refine hstrap _ ?_
  show (resetState _).boot.strapInvalid = _
  rw [resetState_strapInvalid]
  split <;> rfl

theorem blockReset_cad (cause : BitVec 4) (s : State) : (blockReset cause s).cad = Cadastre.reset := by
  simp [blockReset]

theorem out_subset_announceBoot (s : State) : s.out ⊆ (announceBoot s).out := by
  unfold announceBoot
  split
  · exact List.Subset.refl _
  · exact out_subset_emit _ _

/-- What was put out before a reset from inside stays. -/
theorem out_subset_romStart (s : State) : s.out ⊆ (romStart s).out := by
  have hb : s.out ⊆ (bootRecord (gaugeRead s)).out := by simp
  unfold romStart
  dsimp only
  split
  · exact List.Subset.trans hb (out_subset_announceBoot _)
  · exact hb

theorem out_subset_blockReset (cause : BitVec 4) (s : State) : s.out ⊆ (blockReset cause s).out := by
  intro x hx
  refine out_subset_romStart _ ?_
  show x ∈ (resetState _).out
  rw [resetState_out]
  split <;> exact hx

/-- The side-band island with the count of R445 and the out-of-service state cleared. -/
def released (s : State) : State :=
  { s with sb := { s.sb with events := [], outOfService := false, leaving := false } }

/-- SERVICE_RELEASE of an instance out of service answers, and resets the block with cause 7. -/
theorem exec_serviceRelease {o : Origin} {tag : BitVec 32} {s : State} (h : Passes (.serviceRelease o tag) s)
    (hs : s.sb.outOfService = true) :
    exec (.serviceRelease o tag) s = .next (blockReset 7 (reply o tag 0x0E03 .ok [] (released s))) :=
  exec_effect h rfl (runCmd_eq rfl rfl) rfl rfl ((firstFail_none _).2 (by simp [hs]))

/-- An instance in service refuses it. -/
theorem exec_serviceRelease_refused {o : Origin} {tag : BitVec 32} {s : State} (h : Passes (.serviceRelease o tag) s)
    (hs : s.sb.outOfService = false) :
    exec (.serviceRelease o tag) s = .next (refuse o tag 0x0E03 .badParam s) := by
  exact exec_refused h rfl rfl rfl rfl rfl (by simp [hs, firstFail])

/-- Settles O59: by what a block reset of a cause that does not count leaves of the side-band island. -/
theorem serviceReleaseResets : Obligations.ServiceReleaseResets := by
  intro tag s h
  refine ⟨fun hs => ?_, exec_serviceRelease_refused h⟩
  obtain ⟨hevents, hout, hleaving⟩ := blockReset_sb_of_uncounted (cause := 7) rfl
    (reply { sluice := .sb, session := none } tag 0x0E03 .ok [] (released s))
  rw [reply_sb] at hevents hout hleaving
  refine ⟨_, _, _, rfl, _, exec_serviceRelease h hs, ?_, hevents, hout, hleaving, blockReset_cause .., blockReset_polders ..,
    blockReset_cad .., ?_⟩
  · exact out_subset_blockReset 7 _ (response_mem_reply _ _ _ _ (h.canSeal rfl) rfl)
  · rw [blockReset_stage, reply_boot]
    rfl

end Sys2Proof.Machine
end

section
/-! SUPPORT. What the life-cycle commands do (R458, R462 to R470), and the statement about them. -/

namespace Sys2Proof.Machine

/-! ### Nonces and transitions (R462 to R466) -/

/-- LC_CHALLENGE draws a nonce for its target, and answers it. -/
theorem answers_lcChallenge {o : Origin} {tag : BitVec 32} {target : BitVec 8} {s : State}
    (h : Passes (.lcChallenge o tag target) s) (ht : challengeTarget target = true) (hd : drbgAvailable s = true) :
    ∃ v : Digest, Answers (.lcChallenge o tag target) s .ok (beBytes 48 v.toNat) fun t =>
      t.lc = { s.lc with nonce := some { target := target, value := v, at_ := s.time } } := by
  let v : Digest := (drbgValue s).setWidth 384
  refine ⟨v, answers_reply (modLc (fun l => { l with nonce := some ⟨target, v, s.time⟩ }) (drbgDraw 48 s))
    h rfl rfl rfl rfl rfl ?_ rfl (drbgDraw_spdm ..) ?_⟩
  · exact (firstFail_none _).2 (by simp [ht, hd])
  · simp [modLc]

/-- A transition that R462 permits, whose response has the form that the present state asks, is begun where the response is
right; a wrong one is refused and consumes the nonce. -/
theorem exec_lcTransition {o : Origin} {tag : BitVec 32} {target : BitVec 8} {goal : LcState} {response : Bytes}
    {s : State} (h : Passes (.lcTransition o tag target response) s) (hg : lcTarget target = some goal)
    (hp : transitionPermitted goal s = true) (hd : ¬(s.lc.state = .field ∧ goal = .analysis ∧ o.sluice = .dbg))
    (hshape : (if s.lc.state ≠ .blank then responseShape response else response.isEmpty) = true) :
    exec (.lcTransition o tag target response) s = .next (
      if s.lc.state = .blank ∨ (nonceFor target s).any (fun n =>
          responseOk (ownerSigns goal s) n (beBytes 2 (lcCodeFor goal).toNat) response s) = true
      then startTransition goal o tag s
      else refuse o tag 0x0C03 .denied (modLc (fun l => { l with nonce := none }) s)) := by
  have hside : (decide (s.lc.state = .field) && decide (lcTarget target = some .analysis) && decide (o.sluice = .dbg))
      = false := by
    simpa [hg, and_assoc] using hd
  rw [exec_effect h rfl (runCmd_eq rfl rfl) hside rfl ((firstFail_none _).2 (by simpa [hg, hp] using hshape))]
  simp only [hg]
  by_cases hb : s.lc.state = .blank
  · simp [hb]
  · cases hn : nonceFor target s <;> simp [hb]

/-! ### Debug authorisations (R469, R470) -/

/-- A right authorisation opens debug to its scope until its time, and consumes the nonce. -/
theorem answers_debugAuthorise {o : Origin} {tag : BitVec 32} {a : Bytes} {n : Nonce} {s : State}
    (h : Passes (.debugAuthorise o tag a) s) (hs : authorisationShape a = true) (ho : (activeOwner s.fuses).isSome = true)
    (hc : confidentialResident s = false) (hf : s.lc.state = .field → s.fuses.debugPolicy.getLsbD 0 = true)
    (hn : nonceFor 0x10 s = some n)
    (hr : responseOk true n (beBytes 4 (leField a 0 4) ++ beBytes 4 (leField a 4 4)) (a.drop 8) s = true) :
    Answers (.debugAuthorise o tag a) s .ok [] fun t =>
      t.lc = { s.lc with nonce := none, auth := some { scope := BitVec.ofNat 32 (leField a 0 4),
                                                       expiry := s.time + leField a 4 4 * 1000000000 } } := by
  let auth : DebugAuth := ⟨BitVec.ofNat 32 (leField a 0 4), s.time + leField a 4 4 * 1000000000⟩
  refine answers_reply (modLc (fun l => { l with nonce := none, auth := some auth }) s) h rfl rfl rfl rfl rfl ?_ ?_ rfl
    (reply_lc ..)
  · exact (firstFail_none _).2 (by simpa [hs, ho, hc] using hf)
  · simp only [hn, hr, if_true]
    rfl

/-- In FIELD, without the owner's debug fuse, every authorisation is refused. -/
theorem answers_debugAuthorise_forbidden {o : Origin} {tag : BitVec 32} {a : Bytes} {s : State}
    (h : Passes (.debugAuthorise o tag a) s) (hs : authorisationShape a = true) (hst : s.lc.state = .field)
    (hf : s.fuses.debugPolicy.getLsbD 0 = false) :
    Answers (.debugAuthorise o tag a) s .denied [] fun t => t.lc = s.lc := by
  refine answers_refused h rfl rfl rfl rfl rfl ?_ (reply_lc ..)
  simp only [hs, hst, hf]
  cases (activeOwner s.fuses).isNone <;> rfl

/-- An authorisation that ends leaves the rest of the life-cycle state. -/
theorem endAuthorisation_lc (s : State) : (endAuthorisation s).lc = { s.lc with auth := none } := by
  unfold endAuthorisation
  split
  · rfl
  · rename_i h
    have hn : s.lc.auth = none := by simpa using h
    rw [← hn]

theorem out_subset_endAuthorisation (s : State) : s.out ⊆ (endAuthorisation s).out := by
  unfold endAuthorisation
  split
  · exact out_subset_emit _ _
  · exact List.Subset.refl _

/-- DEBUG_CLOSE answers, and ends an authorisation. -/
theorem answers_debugClose {o : Origin} {tag : BitVec 32} {s : State} (h : Passes (.debugClose o tag) s) :
    Answers (.debugClose o tag) s .ok [] fun t =>
      t.lc = { s.lc with auth := none } ∧ (s.lc.auth.isSome = true → .debugClosed ∈ t.out) := by
  refine answers_effect h rfl (runCmd_eq rfl rfl) rfl rfl rfl ?_ ⟨?_, fun ha => ?_⟩
  · exact out_subset_endAuthorisation _ (response_mem_reply _ _ _ _ (h.canSeal rfl) rfl)
  · rw [endAuthorisation_lc, reply_lc]
  · rw [endAuthorisation, reply_lc, if_pos ha]
    exact List.mem_append_right _ (List.mem_singleton_self _)

/-- Settles O55: each command passes the checks before its own by hypothesis; what is left is its own checks and its
effect. -/
theorem lifeCycleCommandsComplete : Obligations.LifeCycleCommandsComplete := by
  intro o tag s
  refine ⟨?status, fun target => answers_lcChallenge, ?transition, ?authorise, fun a => answers_debugAuthorise_forbidden,
    answers_debugClose⟩
  case status =>
    intro h
    exact answers_reply s h rfl rfl rfl rfl rfl rfl rfl rfl (reply_lc ..)
  case transition =>
    intro target goal response h hg hp hd
    refine ⟨fun hb hr => ?_, fun n hb hs hn => ⟨fun hok => ?_, fun hok => ?_⟩⟩
    · rw [exec_lcTransition h hg hp hd (by simp [hb, hr]), if_pos (.inl hb)]
    · rw [exec_lcTransition h hg hp hd (by simp [hb, hs]), if_pos (.inr (by simp [hn, hok]))]
    · have he := exec_lcTransition h hg hp hd (by simp [hb, hs])
      rw [if_neg (by simp [hb, hn, hok])] at he
      exact ⟨_, _, _, rfl, _, he, response_mem_reply tag 0x0C03 .denied [] (h.canSeal rfl) rfl, reply_lc .., reply_fuses ..⟩
  case authorise =>
    exact fun a h hs ho hc hf n => answers_debugAuthorise h hs ho hc hf

end Sys2Proof.Machine
end

section
/-! SUPPORT. What the commands on the Gauge, the survey, the identity and the firmware do (R326, R335, R383, R386, R494,
R503), and the statement about them. -/

namespace Sys2Proof.Machine

/-! ### Readings -/

/-- GAUGE_COUNTERS_READ answers the counters of an entry that the reader may have. -/
theorem answers_gaugeCountersRead {o : Origin} {tag : BitVec 32} {p : PolderId} {l : List (BitVec 64)} {s : State}
    (h : Passes (.gaugeCountersRead o tag p) s) (ht : isTearing s p = false) (hu : gaugeUnread o p s = false)
    (hl : gaugeCounters p s = some l) :
    Answers (.gaugeCountersRead o tag p) s .ok (l.flatMap fun v => leBytes 8 v.toNat) fun t => t.gauge = s.gauge := by
  refine answers_reply s h rfl rfl rfl hu rfl ?_ ?_ rfl (reply_gauge ..)
  · exact (firstFail_none _).2 (by simp [ht, hl])
  · simp only [hl, Option.getD_some]
    rfl

/-- GAUGE_RECORD_FETCH answers the first records of its range that the reader may have. -/
theorem answers_gaugeRecordFetch {o : Origin} {tag first : BitVec 32} {max : BitVec 8} {s : State}
    (h : Passes (.gaugeRecordFetch o tag first max) s) (h0 : max ≠ 0) :
    let hits := (s.gauge.records.filter fun x => decide (first.toNat ≤ x.1.toNat) && recordRead o x.2 s).take
      (min 15 max.toNat)
    Answers (.gaugeRecordFetch o tag first max) s .ok
      ([BitVec.ofNat 8 hits.length] ++ zeros 7 ++ hits.flatMap (·.2)) fun t => t.gauge = s.gauge :=
  answers_reply s h rfl rfl rfl rfl rfl ((firstFail_none _).2 (by simpa using h0)) rfl rfl (reply_gauge ..)

/-- GAUGE_RECORD_RELEASE removes the records up to a number. -/
theorem answers_gaugeRecordRelease {o : Origin} {tag through : BitVec 32} {s : State}
    (h : Passes (.gaugeRecordRelease o tag through) s) :
    Answers (.gaugeRecordRelease o tag through) s .ok [] fun t =>
      ∀ x, x ∈ t.gauge.records ↔ x ∈ s.gauge.records ∧ through.toNat < x.1.toNat := by
  refine answers_reply (modGauge (fun g => { g with
    records := g.records.filter fun x => decide (through.toNat < x.1.toNat) }) s) h rfl rfl rfl rfl rfl rfl rfl rfl ?_
  intro x
  rw [reply_gauge]
  simp [modGauge]

/-- SURVEY_READ answers the entries of its range. -/
theorem answers_surveyRead {o : Origin} {tag : BitVec 32} {first n : BitVec 8} {s : State}
    (h : Passes (.surveyRead o tag first n) s) (h0 : n ≠ 0) (hn : n.toNat ≤ 63) (hlast : first.toNat + n.toNat ≤ 256) :
    Answers (.surveyRead o tag first n) s .ok
      ((List.range n.toNat).flatMap fun i => surveyBytes s (first.toNat + i)) fun t => t.boot = s.boot :=
  answers_reply s h rfl rfl rfl rfl rfl ((firstFail_none _).2 (by simpa [hn, hlast] using h0)) rfl rfl (reply_boot ..)

/-! ### Firmware (R326, R383, R386) -/

/-- FIRMWARE_STAGE writes its bytes to the staged image. -/
theorem answers_firmwareStage {o : Origin} {tag offset : BitVec 32} {data : Bytes} {s : State}
    (h : Passes (.firmwareStage o tag offset data) s) (h0 : data ≠ []) (hlast : offset.toNat + data.length ≤ 394240)
    (hlen : o.session = none → data.length ≤ 4072) (hr : s.boot.rewrite = none) :
    Answers (.firmwareStage o tag offset data) s .ok [] fun t =>
      t.boot.staged = memWriteN 0xFF s.boot.staged offset.toNat data
        ∧ t.boot.stagedLength = max s.boot.stagedLength (offset.toNat + data.length) := by
  refine answers_reply (modBoot (fun b => { b with
    staged := memWriteN 0xFF b.staged offset.toNat data
    stagedLength := max b.stagedLength (offset.toNat + data.length) }) s) h rfl rfl rfl rfl ?_ ?_ rfl rfl ?_
  · simpa using hlen
  · exact (firstFail_none _).2 (by simp [h0, hlast, hr])
  · rw [reply_boot]
    exact ⟨rfl, rfl⟩

/-- What fails of an image depends on the life cycle and the fuses alone. -/
theorem imageFail_congr {s t : State} (hl : t.lc = s.lc) (hf : t.fuses = s.fuses) (i : Image) :
    imageFail i t = imageFail i s := by
  unfold imageFail vendorHash
  rw [hl, hf]

/-- FIRMWARE_ACTIVATE of a staged image that passes the checks, of the length it says, begins its rewrite. -/
theorem exec_firmwareActivate {o : Origin} {tag length : BitVec 32} {s : State}
    (h : Passes (.firmwareActivate o tag length) s) (hr : s.boot.rewrite = none) (hf : imageFail (stagedImage s) s = none)
    (hlen : length.toNat = 1024 + bodyLength (stagedImage s).header) :
    exec (.firmwareActivate o tag length) s = .next (modBoot (fun b => { b with
      rewrite := some { image := stagedImage s, recovery := false, origin := o, tag := tag } }) (pend o tag 0x0F04 s)) := by
  rw [exec_effect h rfl (runCmd_eq rfl rfl) rfl rfl ((firstFail_none _).2 (by simp [hr]))]
  dsimp only
  rw [imageFail_congr (pend_lc o tag 0x0F04 s) (pend_fuses ..), hf, if_neg (not_not_intro hlen)]
  rfl

/-- An image that fails ends the command with the reason. -/
theorem exec_firmwareActivate_fails {o : Origin} {tag length : BitVec 32} {reason : BitVec 8} {s : State}
    (h : Passes (.firmwareActivate o tag length) s) (hr : s.boot.rewrite = none)
    (hf : imageFail (stagedImage s) s = some reason) :
    exec (.firmwareActivate o tag length) s
      = .next (finish o tag .badParam ([reason] ++ zeros 3) (pend o tag 0x0F04 s)) := by
  rw [exec_effect h rfl (runCmd_eq rfl rfl) rfl rfl ((firstFail_none _).2 (by simp [hr]))]
  dsimp only
  rw [imageFail_congr (pend_lc o tag 0x0F04 s) (pend_fuses ..), hf]
  rfl

/-- The bits below a number are those of its power of two less one. -/
theorem getLsbD_lowBits (n i : Nat) (hi : i < 64) : (BitVec.ofNat 64 (2 ^ n - 1)).getLsbD i = decide (i < n) := by
  rw [BitVec.getLsbD_ofNat, Nat.testBit_two_pow_sub_one]
  simp [hi]

/-- FIRMWARE_COMMIT_SVN blows the counter's fuses up to its version. -/
theorem answers_firmwareCommitSvn {o : Origin} {tag n : BitVec 32} {s : State} (h : Passes (.firmwareCommitSvn o tag n) s)
    (hn : n.toNat ≤ s.boot.svn.toNat) :
    Answers (.firmwareCommitSvn o tag n) s .ok [] fun t =>
      (n.toNat ≤ svnCounter s.fuses → t.fuses = s.fuses)
        ∧ (svnCounter s.fuses < n.toNat → ∀ i : Nat, i < 64 →
          t.fuses.svn.getLsbD i = (s.fuses.svn.getLsbD i || decide (i < n.toNat))) := by
  refine answers_reply (if n.toNat ≤ svnCounter s.fuses then s else
    { s with fuses := { s.fuses with svn := s.fuses.svn ||| BitVec.ofNat 64 (2 ^ n.toNat - 1) } })
    h rfl rfl rfl rfl rfl ?_ rfl (by split <;> rfl) ⟨fun hle => ?_, fun hlt i hi => ?_⟩
  · exact (firstFail_none _).2 (by simp [hn])
  · rw [reply_fuses, if_pos hle]
  · rw [reply_fuses, if_neg (Nat.not_le.2 hlt)]
    simp only [BitVec.getLsbD_or, getLsbD_lowBits _ _ hi]

/-- Settles O56: each command passes the checks before its own by hypothesis; what is left is its own checks, what it
answers and what it leaves. -/
theorem gaugeSurveyAndFirmwareComplete : Obligations.GaugeSurveyAndFirmwareComplete := by
  intro o tag s
  refine ⟨?gauge, fun p l => answers_gaugeCountersRead, fun first max => answers_gaugeRecordFetch,
    fun through => answers_gaugeRecordRelease, ?identity, fun first n => answers_surveyRead,
    fun offset data => answers_firmwareStage, ?activate, fun n => answers_firmwareCommitSvn⟩
  case gauge =>
    intro h
    exact answers_reply s h rfl rfl rfl rfl rfl rfl rfl rfl (reply_gauge ..)
  case identity =>
    intro h
    exact answers_reply s h rfl rfl rfl rfl rfl rfl rfl rfl (reply_boot ..)
  case activate =>
    intro length h hr
    exact ⟨fun hf hlen => ⟨_, _, _, rfl, _, exec_firmwareActivate h hr hf hlen,
      response_mem_reply tag 0x0F04 .pending [] (h.canSeal rfl) rfl, rfl⟩, fun reason => exec_firmwareActivate_fails h hr⟩

end Sys2Proof.Machine
end

section
/-! SUPPORT. What the expiries, the end of a life-cycle transition and the Gauge's own commands leave (R341, R463, R465, R470,
R487 to R493), and the statement about them. -/

namespace Sys2Proof.Machine

/-! ### Expiries (R341, R463, R470) -/

/-- KEM_OFFER_EXPIRY drops the sluice's offers whose 10 s are over, and no others. -/
theorem completes_kemOfferExpiry {sl : Sluice} {s : State} (hr : running s = true) :
    Completes (.kemOfferExpiry sl) s fun t =>
      (∀ k, k ∈ t.spdm.offers ↔ k ∈ s.spdm.offers ∧ ¬(k.sluice = sl ∧ k.at_ + 10000000000 ≤ s.time))
        ∧ t.spdm.sessions = s.spdm.sessions := by
  refine ⟨modSpdm (fun x => { x with offers := x.offers.filter fun k => !(k.sluice = sl && offerOver k s) }) s, ?_, ?_, rfl⟩
  · simp [exec, execKemOfferExpiry, hr]
  · intro k
    simp only [modSpdm, List.mem_filter, Bool.not_eq_true', Bool.and_eq_false_imp, decide_eq_true_eq, offerOver,
      decide_eq_false_iff_not, not_and]

theorem exec_nonceExpiry {n : Nonce} {s : State} (hr : running s = true) (hn : s.lc.nonce = some n)
    (ht : n.at_ + 60000000000 ≤ s.time) :
    exec .nonceExpiry s = .next { s with lc := { s.lc with nonce := none } } := by
  simp [exec, execNonceExpiry, hn, hr, nonceOver, ht, modLc]

theorem completes_authorisationExpiry {a : DebugAuth} {s : State} (hr : running s = true) (ha : s.lc.auth = some a)
    (ht : a.expiry ≤ s.time) :
    Completes .authorisationExpiry s fun t =>
      t.lc = { s.lc with auth := none } ∧ t.out = s.out ++ [.debugClosed] ∧ t.fuses = s.fuses := by
  refine ⟨endAuthorisation s, by simp [exec, execAuthorisationExpiry, ha, hr, ht], endAuthorisation_lc s, ?_, ?_⟩ <;>
    simp [endAuthorisation, ha, emit, modLc]

/-! ### The end of a transition (R465) -/

theorem eraseSealed_wipePool_parts (s : State) :
    s.agree [.boot, .flash, .cad, .stack, .tracer] (eraseSealed (wipePool s)) :=
  eraseSealed_frame _ (wipePool_frame _ (agree_refl _ s) rfl) rfl

/-- The block wiped and the transition's code burnt, with every bit of a root that is to be killed (R465 steps 2 and 3). -/
def burnCode (x : Transition) (s : State) : State :=
  let fuses := if x.rootKill then killRoot (wipe s).fuses else (wipe s).fuses
  modLc (fun l => { l with intent := false, transition := none })
    { wipe s with fuses := { fuses with record := blowSlot x.code x.slot fuses.record } }

theorem exec_lcTransitionComplete {x : Transition} {s : State} (hr : running s = true)
    (hx : s.lc.transition = some x) (hp : s.polders = []) :
    exec .lcTransitionComplete s = .next (finish x.origin x.tag .ok [] (burnCode x s)) := by
  simp only [exec, execLcTransitionComplete, hx, hr, hp]
  rfl

/-- The block is wiped, the transition's code burnt, and with a root to be killed every bit of it. -/
theorem completes_lcTransitionComplete {x : Transition} {s : State} (hr : running s = true)
    (hx : s.lc.transition = some x) (hp : s.polders = []) :
    Completes .lcTransitionComplete s fun t =>
      t.fuses.record = blowSlot x.code x.slot s.fuses.record ∧ (x.rootKill = true → t.fuses.root = BitVec.allOnes 256)
        ∧ (x.rootKill = false → t.fuses.root = s.fuses.root) ∧ t.lc.transition = none ∧ t.lc.intent = false
        ∧ t.cad.slots = [] ∧ t.link.tx = [] ∧ t.link.rx = [] ∧ t.tray.extents = [] := by
  have hfuses : (wipe s).fuses = s.fuses := eraseSealed_wipePool_parts _ .fuses rfl
  have hlink : (wipe s).link = { s.link with
      tx := [], rx := [], nextSid := [], cached := [], txWait := [], rxWait := [] } :=
    eraseSealed_wipePool_parts _ .link rfl
  have htray : (wipe s).tray = { s.tray with extents := [], locations := [] } := eraseSealed_wipePool_parts _ .tray rfl
  refine ⟨_, exec_lcTransitionComplete hr hx hp, ?_⟩
  simp only [finish_fuses, finish_lc, finish_cad, finish_link, finish_tray, burnCode, modLc, hfuses, hlink, htray]
  refine ⟨?_, fun hk => by rw [if_pos hk]; rfl, fun hk => by rw [if_neg (by simp [hk])], trivial, trivial, rfl, trivial,
    trivial, trivial⟩
  split <;> rfl

/-! ### Increments, captures and records of the Gauge (R487 to R493) -/

/-- An increment of a polder with an open entry is added to it. -/
theorem completes_gaugeIncrement {p : PolderId} {c : Fin 7} {e : GaugeEntry} {s : State} (hp : s.gauge.powered = true)
    (he : gaugeEntry s p = some e) (hn : assocGet (p, c) 0 s.gauge.transit ≠ 0) :
    Completes (.gaugeIncrement p c) s fun t =>
      gaugeEntry t p = some { e with counters := addVolume c (assocGet (p, c) 0 s.gauge.transit) e.counters }
        ∧ t.gauge.transit = assocDel (p, c) s.gauge.transit ∧ t.gauge.spill = s.gauge.spill := by
  have hopen : gaugeEntry (modGauge (fun g => { g with transit := assocDel (p, c) g.transit }) s) p = some e := he
  refine ⟨takeIncrement p c s, by simp [exec, execGaugeIncrement, hp], ?_⟩
  simp only [takeIncrement, if_neg hn, hopen, Option.isSome_some, if_true]
  refine ⟨?_, rfl, rfl⟩
  refine (find?_alter ?_ s.gauge.entries).trans (congrArg _ he)
  exact fun _ h => h

/-- At each 900 s every open entry is captured. -/
theorem completes_gaugePeriodicCapture {s : State} (hp : s.gauge.powered = true) (h0 : s.gauge.time ≠ 0)
    (ht : s.gauge.time % 900000000000 = 0) :
    Completes .gaugePeriodicCapture s fun t =>
      (∀ e ∈ s.gauge.entries, e.closed = false → ∃ c ∈ t.gauge.periodics, c.polder = e.polder ∧ c.counters = e.counters
        ∧ c.gaugeTime = s.gauge.time)
      ∧ t.gauge.entries = s.gauge.entries ∧ t.gauge.finals.length = s.gauge.finals.length := by
  refine ⟨periodicCapture s, by simp [exec, execGaugePeriodicCapture, hp, h0, ht], fun e he hc => ?_, rfl, ?_⟩
  · refine ⟨captureOf 0x01 e s, ?_, rfl, rfl, rfl⟩
    have hfresh : captureOf 0x01 e s
        ∈ (s.gauge.entries.filter fun e => !e.closed).map fun e => captureOf 0x01 e s :=
      List.mem_map_of_mem (List.mem_filter.2 ⟨he, by simp [hc]⟩)
    refine List.mem_append_right _ ?_
    split
    · exact hfresh
    · exact List.mem_append_left _ hfresh
  · exact List.length_map _

/-- With room in the buffer the oldest final capture offered is signed into it. -/
theorem completes_gaugeRecordSigned {c : Capture} {s : State} (hp : s.gauge.powered = true)
    (hl : s.gauge.records.length < 1024) (hc : (s.gauge.finals.find? fun c => !c.held) = some c) :
    Completes .gaugeRecordSigned s fun t =>
      t.gauge.records = s.gauge.records ++ [(s.gauge.nextSeq, recordBytes c s)]
        ∧ t.gauge.nextSeq = s.gauge.nextSeq + 1 ∧ t.gauge.finals = s.gauge.finals.erase c := by
  refine ⟨writeGaugeRecord c (modGauge (fun g => { g with finals := g.finals.erase c }) s), ?_, rfl, rfl, rfl⟩
  simp [exec, execGaugeRecordSigned, hp, signNext, hc, Nat.not_le.2 hl]

/-- Settles O37: each moment by what its own condition, met by hypothesis, lets happen. -/
theorem expiriesAndGaugeComplete : Obligations.ExpiriesAndGaugeComplete :=
  ⟨fun _ _ => completes_kemOfferExpiry, fun _ _ => exec_nonceExpiry, fun _ _ => completes_authorisationExpiry,
    fun _ _ => completes_lcTransitionComplete, fun _ _ _ _ => completes_gaugeIncrement,
    fun _ => completes_gaugePeriodicCapture, fun _ _ => completes_gaugeRecordSigned⟩

end Sys2Proof.Machine
end

section
/-! SUPPORT. What the Weirs and the trace's commands do (R377, R408 to R412, R476, R479, R506), and the statement about
them. -/

namespace Sys2Proof.Machine

/-! ### A Weir after a change (R408) -/

/-- An element put in by its key leaves what another key finds. -/
theorem find?_upsert_other {α : Type} {p q : α → Bool} {a : α} (ha : q a = false) (hpq : ∀ x, p x = true → q x = false)
    (l : List α) : (upsert p a l).find? q = l.find? q := by
  induction l with
  | nil => simp [upsert, ha]
  | cons x t ih =>
    unfold upsert
    by_cases hx : p x = true
    · simp [hx, ha, hpq x hx]
    · rw [if_neg hx, List.find?_cons, List.find?_cons, ih]

/-- Every Weir has the number it is read by. -/
theorem getWeir_id (s : State) (w : BitVec 8) : (getWeir s w).id = w := by
  unfold getWeir
  cases h : s.weirs.find? fun x => x.id = w with
  | none => rfl
  | some x => simpa using List.find?_some h

theorem getWeir_congr {s t : State} (h : t.weirs = s.weirs) (w : BitVec 8) : getWeir t w = getWeir s w := by
  simp only [getWeir, h]

/-- A changed Weir reads what it was changed to. -/
theorem getWeir_modWeir {f : Weir → Weir} (hf : ∀ x, (f x).id = x.id) (w : BitVec 8) (s : State) :
    getWeir (modWeir w f s) w = f (getWeir s w) := by
  have hid : (f (getWeir s w)).id = w := (hf _).trans (getWeir_id s w)
  exact congrArg (Option.getD · (resetWeir w)) (find?_upsert (p := fun x => x.id = w) (decide_eq_true hid) s.weirs)

/-- Another Weir reads what it did. -/
theorem getWeir_modWeir_other {f : Weir → Weir} (hf : ∀ x, (f x).id = x.id) {w v : BitVec 8} (h : v ≠ w) (s : State) :
    getWeir (modWeir w f s) v = getWeir s v := by
  have hid : (f (getWeir s w)).id = w := (hf _).trans (getWeir_id s w)
  have hv : decide ((f (getWeir s w)).id = v) = false := decide_eq_false fun e => h (e.symm.trans hid)
  have hne : ∀ x : Weir, decide (x.id = w) = true → decide (x.id = v) = false := fun x hx =>
    decide_eq_false fun e => h (e.symm.trans (of_decide_eq_true hx))
  exact congrArg (Option.getD · (resetWeir v)) (find?_upsert_other (q := fun x => x.id = v) hv hne s.weirs)

/-- A Weir but for what it has mirrored into the Tracer. -/
def Weir.unmirrored (x : Weir) : Weir := { x with mirrorScale := 0, mirrorLevel := 0, mirrored := [] }

/-- A mirror changes no more of any Weir than what it has mirrored. -/
theorem mirrorWeir_unmirrored (w v : BitVec 8) (s : State) :
    (getWeir (mirrorWeir w s) v).unmirrored = (getWeir s v).unmirrored := by
  unfold mirrorWeir
  by_cases h : v = w
  · subst h
    rw [getWeir_modWeir]
    · rfl
    · exact fun _ => rfl
  · rw [getWeir_modWeir_other _ h]
    exact fun _ => rfl

theorem mirrorChanged_unmirrored (w : BitVec 8) (s : State) :
    (getWeir (mirrorChanged s) w).unmirrored = (getWeir s w).unmirrored := by
  refine foldl_keeps (f := fun t => (getWeir t w).unmirrored) (fun t v => ?_) _ s
  split
  · exact mirrorWeir_unmirrored v w t
  · rfl

/-! ### Levels, guarantees and the mirror (R411, R412, R506) -/

/-- Whether a Weir admits only guarantees after a report of a level (R411). -/
def limitedAfter (level : BitVec 4) (before : Bool) : Bool :=
  if 12 ≤ level.toNat then true else if level.toNat ≤ 8 then false else before

/-- A Weir with a reported level and capacity (R411). -/
def levelTaken (w : BitVec 8) (level : BitVec 4) (capacity : Nat) (s : State) : State :=
  modWeir w (fun x => { x with
    level := level, capacity := min 1000 capacity, limited := limitedAfter level (getWeir s w).limited }) s

/-- A report sets them, and the Weirs whose scale it changes mirror again. -/
theorem takeLevel_weirs (w : BitVec 8) (level : BitVec 4) (capacity : Nat) (s : State) :
    (takeLevel w level capacity s).weirs = (mirrorChanged (levelTaken w level capacity s)).weirs := by
  unfold takeLevel levelTaken limitedAfter
  dsimp only
  split
  · rfl
  · rw [emitTrace_weirs]
    split
    · rw [count_weirs]
    · rfl

/-- A report sets the level, the capacity and whether only guarantees are admitted. -/
theorem takeLevel_unmirrored (w : BitVec 8) (level : BitVec 4) (capacity : Nat) (s : State) :
    (getWeir (takeLevel w level capacity s) w).unmirrored = { (getWeir s w).unmirrored with
      level := level, capacity := min 1000 capacity, limited := limitedAfter level (getWeir s w).limited } := by
  rw [getWeir_congr (takeLevel_weirs ..), mirrorChanged_unmirrored, levelTaken, getWeir_modWeir]
  · rfl
  · exact fun _ => rfl

/-- QUEUE_LEVEL_REPORT takes the level, and what the Weir did not admit goes on. -/
theorem completes_queueLevelReport {w : BitVec 8} {level : BitVec 4} {capacity : Nat} {s : State}
    (hr : running s = true) (hw : hasWeir s w = true) :
    Completes (.queueLevelReport w level capacity) s fun t =>
      (getWeir t w).level = level ∧ (getWeir t w).capacity = min 1000 capacity
        ∧ (12 ≤ level.toNat → (getWeir t w).limited = true) ∧ (level.toNat ≤ 8 → (getWeir t w).limited = false)
        ∧ (8 < level.toNat → level.toNat < 12 → (getWeir t w).limited = (getWeir s w).limited)
        ∧ (getWeir t w).misses = (getWeir s w).misses := by
  refine ⟨resume (takeLevel w level capacity s), by simp [exec, execQueueLevelReport, hr, hw], ?_⟩
  have h := takeLevel_unmirrored w level capacity s
  dsimp only
  rw [getWeir_congr (resume_weirs (takeLevel w level capacity s))]
  have hlimited : (getWeir (takeLevel w level capacity s) w).limited = limitedAfter level (getWeir s w).limited :=
    congrArg Weir.limited h
  refine ⟨congrArg Weir.level h, congrArg Weir.capacity h, fun h12 => ?_, fun h8 => ?_, fun h8 h12 => ?_,
    (congrArg (fun x : Weir => x.misses) h :)⟩ <;> rw [hlimited, limitedAfter]
  · rw [if_pos h12]
  · rw [if_neg (by omega), if_pos h8]
  · rw [if_neg (by omega), if_neg (by omega)]

/-- A missed guarantee is counted, once. -/
theorem misses_missGuarantee (w : BitVec 8) (c admitted : Nat) (s : State) :
    (getWeir (missGuarantee w c admitted s) w).misses = (getWeir s w).misses.modify c satInc := by
  have hcount : (getWeir (modWeir w (fun x => { x with misses := x.misses.modify c satInc }) s) w).misses
      = (getWeir s w).misses.modify c satInc := by
    rw [getWeir_modWeir]
    exact fun _ => rfl
  have hkeep : ∀ (f : Weir → Weir) (t : State), (∀ x, (f x).id = x.id) → (∀ x, (f x).misses = x.misses) →
      (getWeir (modWeir w f t) w).misses = (getWeir t w).misses := by
    intro f t hid hm
    rw [getWeir_modWeir hid, hm]
  unfold missGuarantee
  refine iteInduction (motive := fun t => (getWeir t w).misses = _) (fun _ => ?_) (fun _ => ?_)
  · rw [hkeep, hcount] <;> exact fun _ => rfl
  · rw [getWeir_congr (writeFault_weirs ..), hkeep, hcount] <;> exact fun _ => rfl

/-- One bit of a number with a single bit set. -/
theorem getLsbD_twoPow16 {c i : Nat} (hi : i < 16) :
    (BitVec.ofNat 16 (2 ^ c)).getLsbD i = decide (i = c) := by
  rw [BitVec.getLsbD_ofNat, Nat.testBit_two_pow]
  simp [hi, eq_comm]

/-- A fold none of whose elements acts leaves the state. -/
theorem foldl_idle {α : Type} {g : State → α → State} {l : List α} (h : ∀ t, ∀ x ∈ l, g t x = t) (s : State) :
    l.foldl g s = s := by
  induction l generalizing s with
  | nil => rfl
  | cons x t ih =>
    rw [List.foldl_cons, h s x (List.mem_cons_self ..), ih fun u y hy => h u y (List.mem_cons_of_mem _ hy)]

/-- A fold in which a single element of a list without duplicates acts is that element's act. -/
theorem foldl_single {α : Type} {g : State → α → State} {c : α} {l : List α} {s : State} (hd : l.Nodup) (hc : c ∈ l)
    (hg : ∀ t, ∀ x ∈ l, x ≠ c → g t x = t) : l.foldl g s = g s c := by
  induction l generalizing s with
  | nil => cases hc
  | cons x t ih =>
    obtain ⟨hx, hd⟩ := List.nodup_cons.1 hd
    have hrest : ∀ u, ∀ y ∈ t, y ≠ c → g u y = u := fun u y hy => hg u y (List.mem_cons_of_mem _ hy)
    by_cases hxc : x = c
    · subst hxc
      rw [List.foldl_cons, foldl_idle fun u y hy => hrest u y hy fun e => hx (e ▸ hy)]
    · rw [List.foldl_cons, hg s x (List.mem_cons_self ..) hxc]
      exact ih hd ((List.mem_cons.1 hc).resolve_left (Ne.symm hxc)) hrest

/-- An interval without a backlogged class misses no guarantee. -/
theorem exec_weirInterval_idle {w : BitVec 8} {s : State} (hr : running s = true) (hw : hasWeir s w = true) :
    exec (.weirInterval w 0 []) s = .next s := by
  simp only [exec, execWeirInterval, hr, hw, Bool.and_self, if_true]
  exact congrArg Host.Outcome.next (foldl_idle (fun t c _ => by simp) s)

/-- A class that alone was backlogged, and got less than 98 % of its minimum, has missed its guarantee. -/
theorem exec_weirInterval_missed {w : BitVec 8} {c : Nat} {got : List Nat} {s : State} (hr : running s = true)
    (hw : hasWeir s w = true) (hc : c < 16) (hgot : got.getD c 0 * 100 < 98 * configuredBytes s w c) :
    exec (.weirInterval w (BitVec.ofNat 16 (2 ^ c)) got) s = .next (missGuarantee w c (got.getD c 0) s) := by
  simp only [exec, execWeirInterval, hr, hw, Bool.and_self, if_true]
  refine congrArg Host.Outcome.next ((foldl_single List.nodup_range (List.mem_range.2 hc) fun t i hi hne => ?_).trans ?_)
  · rw [getLsbD_twoPow16 (List.mem_range.1 hi), decide_eq_false hne, Bool.false_and, if_neg Bool.false_ne_true]
  · rw [getLsbD_twoPow16 hc, decide_eq_true rfl, decide_eq_true hgot, Bool.and_self, if_pos rfl]

/-- WEIR_STATUS_MIRROR copies scale, level and misses. -/
theorem completes_weirStatusMirror {w : BitVec 8} {s : State} (hr : running s = true) (hw : hasWeir s w = true) :
    Completes (.weirStatusMirror w) s fun t => getWeir t w = { getWeir s w with
      mirrorScale := weirScale s w, mirrorLevel := (getWeir s w).level, mirrored := (getWeir s w).misses } :=
  ⟨mirrorWeir w s, by simp [exec, execWeirStatusMirror, hr, hw], getWeir_modWeir (by exact fun _ => rfl) w s⟩

/-! ### WEIR_CONFIG and WEIR_STATUS (R408, R409, R412) -/

/-- The minima of all sixteen classes, as numbers. -/
theorem classMinima_eq {minima : List (BitVec 16)} (h : minima.length = 16) :
    ((List.range 16).map fun c => (minima.getD c 0).toNat) = minima.map BitVec.toNat := by
  refine List.ext_getElem (by simp [h]) fun i hi _ => ?_
  simp only [List.length_map, List.length_range] at hi
  simp [List.getD_eq_getElem?_getD, List.getElem?_eq_getElem (h.symm ▸ hi : i < minima.length)]

/-- The checks of WEIR_CONFIG on minima of at most 1,000 each: their sum alone can fail. -/
theorem weirConfig_checks {w : BitVec 8} {minima : List (BitVec 16)} {s : State} (hw : hasWeir s w = true)
    (hl : minima.length = 16) (hm : ∀ m ∈ minima, m.toNat ≤ 1000) :
    firstFail [(!hasWeir s w || ((List.range 16).map fun c => (minima.getD c 0).toNat).any (1000 < ·), .badParam),
      (decide (900 < ((List.range 16).map fun c => (minima.getD c 0).toNat).sum), .oversubscribed)]
      = if 900 < (minima.map BitVec.toNat).sum then some .oversubscribed else none := by
  have hany : (minima.map BitVec.toNat).any (1000 < ·) = false := by
    simp only [List.any_eq_false, List.mem_map, decide_eq_true_eq]
    rintro _ ⟨m, hm', rfl⟩
    exact Nat.not_lt.2 (hm m hm')
  rw [classMinima_eq hl, hw, hany]
  by_cases hsum : 900 < (minima.map BitVec.toNat).sum
  · rw [decide_eq_true hsum, if_pos hsum]
    rfl
  · rw [decide_eq_false hsum, if_neg hsum]
    rfl

/-- WEIR_CONFIG sets minima of 900 in sum. -/
theorem answers_weirConfig {o : Origin} {tag : BitVec 32} {w : BitVec 8} {minima : List (BitVec 16)} {s : State}
    (h : Passes (.weirConfig o tag w minima) s) (hw : hasWeir s w = true) (hl : minima.length = 16)
    (hm : ∀ m ∈ minima, m.toNat ≤ 1000) (hsum : (minima.map BitVec.toNat).sum ≤ 900) :
    Answers (.weirConfig o tag w minima) s .ok [] fun t => (getWeir t w).minima = minima.map BitVec.toNat := by
  refine answers_reply (resume (modWeir w (fun x => { x with minima := minima.map BitVec.toNat }) s)) h rfl rfl rfl rfl rfl
    ((weirConfig_checks hw hl hm).trans (if_neg (Nat.not_lt.2 hsum))) ?_ (resume_spdm _) ?_
  · dsimp only
    rw [classMinima_eq hl]
  · rw [getWeir_congr ((reply_weirs ..).trans (resume_weirs _)), getWeir_modWeir]
    exact fun _ => rfl

/-! ### The trace's commands (R377, R476, R479) -/

/-- What a domain's waking leaves of the Tracer: one more is counted, at most. -/
theorem wakeDomain_counters (d : DomainId) (s : State) :
    ∃ l, (wakeDomain d s).tracer = { s.tracer with counters := l } := by
  unfold wakeDomain
  split
  · exact ⟨s.tracer.counters, rfl⟩
  · exact ⟨_, rfl⟩

/-- The trace is set; a ring of another size starts empty. -/
theorem configureTrace_tracer (size : Nat) (enable : Bool) (mask : BitVec 64) (s : State) :
    let t := (configureTrace size enable mask s).tracer
    t.sizeMib = size ∧ t.enabled = enable ∧ t.mask = mask ∧ (size ≠ s.tracer.sizeMib → t.head = 0 ∧ t.ring = [])
      ∧ (size = s.tracer.sizeMib → t.head = s.tracer.head ∧ t.ring = s.tracer.ring) := by
  unfold configureTrace
  dsimp only
  obtain ⟨l, h⟩ := wakeDomain_counters tracerDomain _
  rw [h]
  split
  · rename_i hsize
    exact ⟨hsize.symm, rfl, rfl, fun hne => absurd hsize hne, fun _ => ⟨rfl, rfl⟩⟩
  · rename_i hsize
    exact ⟨rfl, rfl, rfl, fun _ => ⟨rfl, rfl⟩, fun heq => absurd heq hsize⟩

/-- A reply in the clear leaves the Tracer as it was. -/
theorem reply_tracer_of_clear {o : Origin} {s : State} (h : sessionOf o s = none) (tag : BitVec 32) (opcode : BitVec 16)
    (st : Status) (payload : Bytes) : (reply o tag opcode st payload s).tracer = s.tracer := by
  have h' : sessionOf o { s with fns := { s.fns with serviced := s.time } } = none := h
  unfold reply answerAs
  dsimp only
  rw [h']
  dsimp only
  split <;> rfl

theorem configureTrace_spdm (size : Nat) (enable : Bool) (mask : BitVec 64) (s : State) :
    (configureTrace size enable mask s).spdm = s.spdm :=
  configureTrace_frame (A := [.pins, .tracer, .pool]) size enable mask s (agree_refl _ s) rfl .spdm rfl

/-- TRACE_CONFIG sets a ring that the pool can hold. -/
theorem answers_traceConfig {o : Origin} {tag : BitVec 32} {size : BitVec 16} {enable : BitVec 8} {mask : BitVec 64}
    {s : State} (h : Passes (.traceConfig o tag size enable mask) s) (h0 : size ≠ 0) (hs : size.toNat ≤ 256)
    (he : enable.toNat ≤ 1) (hm : mask.toNat < 512) (hem : enable = 1 → mask.getLsbD 0 = true)
    (hf : traceFits s size.toNat = true) :
    Answers (.traceConfig o tag size enable mask) s .ok [] fun t => t.tracer.sizeMib = size.toNat
      ∧ t.tracer.enabled = decide (enable = 1) ∧ t.tracer.mask = mask
      ∧ (sessionOf o s = none → size.toNat ≠ s.tracer.sizeMib → t.tracer.head = 0 ∧ t.tracer.ring = [])
      ∧ (sessionOf o s = none → size.toNat = s.tracer.sizeMib →
          t.tracer.head = s.tracer.head ∧ t.tracer.ring = s.tracer.ring) := by
  let u := configureTrace size.toNat (enable = 1) mask s
  have hspdm : u.spdm = s.spdm := configureTrace_spdm _ _ _ s
  obtain ⟨hsize, henable, hmask, hother, hsame⟩ := configureTrace_tracer size.toNat (enable = 1) mask s
  have hstill : (reply o tag 0x0B04 .ok [] u).tracer.still = u.tracer.still := reply_still ..
  have hclear : sessionOf o s = none → (reply o tag 0x0B04 .ok [] u).tracer = u.tracer := fun hn =>
    reply_tracer_of_clear (by rw [← hn]; simp only [sessionOf, hspdm]) _ _ _ _
  refine answers_reply u h rfl rfl rfl rfl rfl ?_ rfl hspdm
    ⟨(congrArg Tracer.sizeMib hstill).trans hsize, (congrArg Tracer.enabled hstill).trans henable,
      (congrArg Tracer.mask hstill).trans hmask, fun hn hne => ?_, fun hn heq => ?_⟩
  · exact (firstFail_none _).2 (by simpa [hf, hs, he, hm] using And.intro h0 hem)
  · rw [hclear hn]
    exact hother hne
  · rw [hclear hn]
    exact hsame heq

/-- TRACE_FETCH answers the events of a range that the ring still holds. -/
theorem answers_traceFetch {o : Origin} {tag : BitVec 32} {offset : BitVec 64} {length : BitVec 16} {s : State}
    (h : Passes (.traceFetch o tag offset length) s) (ho : offset.toNat % 32 = 0) (hl : length.toNat % 32 = 0)
    (h0 : length ≠ 0) (hlen : length.toNat ≤ 4072) (hring : s.tracer.head ≤ offset.toNat + ringBytes s) :
    Answers (.traceFetch o tag offset length) s .ok (leBytes 4 (wrapCount s) ++ zeros 4
      ++ (s.tracer.ring.filter fun e => offset.toNat ≤ e.position && e.position < offset.toNat + length.toNat).flatMap
        traceBytes) fun t => t.tracer.still = s.tracer.still := by
  refine answers_reply s h rfl rfl rfl rfl rfl ?_ rfl rfl (reply_still ..)
  exact (firstFail_none _).2 (by simpa [ho, hl, hlen, hring] using h0)

/-- Settles O53: a report and a miss by what they change of a Weir, the commands by their checks and what they answer. -/
theorem weirsAndTraceComplete : Obligations.WeirsAndTraceComplete := by
  refine ⟨⟨fun w level capacity s => completes_queueLevelReport, fun w s => exec_weirInterval_idle,
    fun w c got s hr hw hc hgot => ⟨exec_weirInterval_missed hr hw hc hgot, misses_missGuarantee ..⟩,
    fun w s => completes_weirStatusMirror⟩, fun o tag s => ⟨fun w minima h hw hl hm => ⟨answers_weirConfig h hw hl hm,
      fun hsum => ?refused⟩, fun w h hw => ?status, fun size enable mask => answers_traceConfig,
    fun offset length => answers_traceFetch⟩⟩
  case refused => exact exec_refused h rfl rfl rfl rfl rfl ((weirConfig_checks hw hl hm).trans (if_pos hsum))
  case status =>
    exact answers_reply s h rfl rfl rfl rfl rfl ((firstFail_none _).2 (by simp [hw])) rfl rfl (reply_weirs ..)

end Sys2Proof.Machine
end

section
/-! SUPPORT. Virtual functions: what a changed VF reads, its states and its allotment (R393, R395, R499), and the statement
about them. -/

namespace Sys2Proof.Machine

/-! ### A VF after a change -/

/-- Every VF has the number it is read by. -/
@[simp] theorem getVf_id (s : State) (n : VfId) : (getVf s n).id = n := by
  unfold getVf
  cases h : s.fns.vfs.find? fun v => v.id = n with
  | none => rfl
  | some x => simpa using List.find?_some h

theorem getVf_congr {s t : State} (h : t.fns.vfs = s.fns.vfs) (n : VfId) : getVf t n = getVf s n := by
  simp only [getVf, h]

/-- A changed VF reads what it was changed to. -/
theorem getVf_modVf {f : Vf → Vf} (n : VfId) (s : State) (hf : ∀ x, (f x).id = x.id) :
    getVf (modVf n f s) n = f (getVf s n) := by
  have hid : (f (getVf s n)).id = n := (hf _).trans (getVf_id s n)
  exact congrArg (Option.getD · (resetVf n)) (find?_upsert (p := fun x => x.id = n) (decide_eq_true hid) s.fns.vfs)

/-- Another VF reads what it did. -/
theorem getVf_modVf_other {f : Vf → Vf} {n m : VfId} (h : m ≠ n) (s : State) (hf : ∀ x, (f x).id = x.id) :
    getVf (modVf n f s) m = getVf s m := by
  have hid : (f (getVf s n)).id = n := (hf _).trans (getVf_id s n)
  have hm : decide ((f (getVf s n)).id = m) = false := decide_eq_false fun e => h (e.symm.trans hid)
  have hne : ∀ x : Vf, decide (x.id = n) = true → decide (x.id = m) = false := fun x hx =>
    decide_eq_false fun e => h (e.symm.trans (of_decide_eq_true hx))
  exact congrArg (Option.getD · (resetVf m)) (find?_upsert_other (q := fun x => x.id = m) hm hne s.fns.vfs)

/-! ### The states of a VF (R395) -/

theorem completes_stateReqLock {n : VfId} {s : State} (hp : vfPresent s n = true) (hs : (getVf s n).state = .unlocked) :
    Completes (.stateReqLock n) s fun t => getVf t n = { getVf s n with state := .locked } := by
  refine ⟨modVf n (fun v => { v with state := .locked }) s, ?_, ?_⟩
  · simp [exec, execStateReqLock, reqLock, hp, hs]
  · exact getVf_modVf n s (by exact fun _ => rfl)

theorem completes_stateReqRun {n : VfId} {s : State} (hp : vfPresent s n = true) (hs : (getVf s n).state = .locked) :
    Completes (.stateReqRun n) s fun t => getVf t n = { getVf s n with state := .run } := by
  refine ⟨modVf n (fun v => { v with state := .run }) s, ?_, ?_⟩
  · simp [exec, execStateReqRun, reqRun, hp, hs]
  · exact getVf_modVf n s (by exact fun _ => rfl)

theorem badReq_set (n : VfId) (s : State) : (getVf (badReq n s) n).badReq = true := by
  unfold badReq
  rw [getVf_modVf]
  exact fun _ => rfl

/-- A request that the VF's state does not allow sets bad_req and does nothing else. -/
theorem exec_stateReq_refused {n : VfId} {s : State} (hp : vfPresent s n = true) :
    ((getVf s n).state ≠ .unlocked → exec (.stateReqLock n) s = .next (badReq n s))
      ∧ ((getVf s n).state ≠ .locked → exec (.stateReqRun n) s = .next (badReq n s))
      ∧ ((getVf s n).state = .unlocked → exec (.stateReqUnlock n) s = .next (badReq n s))
      ∧ (getVf (badReq n s) n).badReq = true := by
  refine ⟨fun h => ?_, fun h => ?_, fun h => ?_, badReq_set n s⟩
  · simp [exec, execStateReqLock, reqLock, hp, h]
  · simp [exec, execStateReqRun, reqRun, hp, h]
  · simp [exec, execStateReqUnlock, reqUnlock, hp, h]

/-! ### The allotment (R393, R499) -/

/-- The value that a field of an allotment register takes: the new one if it is in range, else the old one. -/
def chosenField (old new : BitVec 32) (start len limit : Nat) : BitVec len :=
  if (new.extractLsb' start len).toNat ≤ limit then new.extractLsb' start len else old.extractLsb' start len

theorem rangedField_eq (old new : BitVec 32) (start len limit : Nat) :
    rangedField old new start len limit = (chosenField old new start len limit).toNat * 2 ^ start := by
  unfold rangedField chosenField
  by_cases h : (new.extractLsb' start len).toNat ≤ limit
  · rw [if_pos h]
    exact congrArg (· * 2 ^ start) (if_pos h)
  · rw [if_neg h]
    exact congrArg (· * 2 ^ start) (if_neg h)

/-- Three fields packed at 0, 13 and 22 are the fields one after another. -/
theorem packed_three (a : BitVec 13) (b : BitVec 9) (c : BitVec 10) :
    BitVec.ofNat 32 (a.toNat * 2 ^ 0 + b.toNat * 2 ^ 13 + c.toNat * 2 ^ 22) = c ++ b ++ a := by
  have ha : a.toNat < 2 ^ 13 := a.isLt
  have hb : b.toNat < 2 ^ 9 := b.isLt
  have hc : c.toNat < 2 ^ 10 := c.isLt
  refine BitVec.eq_of_toNat_eq ?_
  rw [BitVec.toNat_append, BitVec.toNat_append, ← Nat.shiftLeft_add_eq_or_of_lt a.isLt,
    ← Nat.shiftLeft_add_eq_or_of_lt b.isLt, Nat.shiftLeft_eq, Nat.shiftLeft_eq, BitVec.toNat_ofNat]
  omega

/-- Three fields packed at 0, 13 and 22 are read back. -/
theorem extract_packed_three (a : BitVec 13) (b : BitVec 9) (c : BitVec 10) {x : BitVec 32}
    (hx : x = BitVec.ofNat 32 (a.toNat * 2 ^ 0 + b.toNat * 2 ^ 13 + c.toNat * 2 ^ 22)) :
    x.extractLsb' 0 13 = a ∧ x.extractLsb' 13 9 = b ∧ x.extractLsb' 22 10 = c := by
  obtain rfl : x = c ++ b ++ a := hx.trans (packed_three a b c)
  refine ⟨BitVec.extractLsb'_append_eq_right, ?_, ?_⟩ <;> ext i hi <;>
    simp only [BitVec.getElem_extractLsb', BitVec.getLsbD_append]
  · simp [hi]
  · rw [if_neg (by omega), if_neg (by omega)]
    simp [show 22 + i - 13 - 9 = i by omega, hi]

/-- Two fields packed at 0 and 16 are read back. -/
theorem extract_packed_two (a : BitVec 16) (b : BitVec 15) {x : BitVec 32}
    (hx : x = BitVec.ofNat 32 (a.toNat + b.toNat * 2 ^ 16)) : x.extractLsb' 0 16 = a ∧ x.extractLsb' 16 15 = b := by
  have ha : a.toNat < 2 ^ 16 := a.isLt
  have hb : b.toNat < 2 ^ 15 := b.isLt
  obtain rfl : x = (b ++ a).setWidth 32 := by
    refine hx.trans (BitVec.eq_of_toNat_eq ?_)
    rw [BitVec.toNat_setWidth, BitVec.toNat_append, ← Nat.shiftLeft_add_eq_or_of_lt a.isLt, Nat.shiftLeft_eq,
      BitVec.toNat_ofNat]
    omega
  refine ⟨?_, ?_⟩ <;> ext i hi <;>
    simp only [BitVec.getElem_extractLsb', BitVec.getLsbD_setWidth, BitVec.getLsbD_append]
  · simp [hi, show i < 32 by omega]
  · simp [hi, show 16 + i < 32 by omega]

theorem allotValue_first (old new : BitVec 32) : allotValue false old new
    = BitVec.ofNat 32 ((chosenField old new 0 13 4096).toNat * 2 ^ 0 + (chosenField old new 13 9 256).toNat * 2 ^ 13
        + (chosenField old new 22 10 512).toNat * 2 ^ 22) := by
  rw [← rangedField_eq, ← rangedField_eq, ← rangedField_eq]
  rfl

theorem allotValue_second (old new : BitVec 32) : allotValue true old new
    = BitVec.ofNat 32 ((new.extractLsb' 0 16).toNat + (chosenField old new 16 15 16384).toNat * 2 ^ 16) := by
  rw [← rangedField_eq]
  rfl

/-- In CONFIG_UNLOCKED a write of the first register takes each field that is in range. -/
theorem completes_allotWrite_first {n : VfId} {value : BitVec 32} {s : State} (hp : vfPresent s n = true)
    (hs : (getVf s n).state = .unlocked) : Completes (.allotWrite n false value) s fun t =>
      let old := (getVf s n).allot0
      let new := (getVf t n).allot0
      (new.extractLsb' 0 13 = if (value.extractLsb' 0 13).toNat ≤ 4096 then value.extractLsb' 0 13 else old.extractLsb' 0 13)
        ∧ (new.extractLsb' 13 9 = if (value.extractLsb' 13 9).toNat ≤ 256 then value.extractLsb' 13 9
            else old.extractLsb' 13 9)
        ∧ (new.extractLsb' 22 10 = if (value.extractLsb' 22 10).toNat ≤ 512 then value.extractLsb' 22 10
            else old.extractLsb' 22 10)
        ∧ (getVf t n).allot1 = (getVf s n).allot1 := by
  refine ⟨modVf n (fun v => { v with allot0 := allotValue false v.allot0 value }) s, ?_, ?_⟩
  · simp [exec, execAllotWrite, writeAllot, hp, hs]
  · dsimp only
    rw [getVf_modVf _ _ (by exact fun _ => rfl)]
    obtain ⟨h0, h1, h2⟩ := extract_packed_three _ _ _ (allotValue_first (getVf s n).allot0 value)
    exact ⟨h0, h1, h2, rfl⟩

/-- In CONFIG_UNLOCKED a write of the second register takes its low field, and its high field if that is in range. -/
theorem completes_allotWrite_second {n : VfId} {value : BitVec 32} {s : State} (hp : vfPresent s n = true)
    (hs : (getVf s n).state = .unlocked) : Completes (.allotWrite n true value) s fun t =>
      let old := (getVf s n).allot1
      let new := (getVf t n).allot1
      new.extractLsb' 0 16 = value.extractLsb' 0 16
        ∧ (new.extractLsb' 16 15 = if (value.extractLsb' 16 15).toNat ≤ 16384 then value.extractLsb' 16 15
            else old.extractLsb' 16 15)
        ∧ (getVf t n).allot0 = (getVf s n).allot0 := by
  refine ⟨modVf n (fun v => { v with allot1 := allotValue true v.allot1 value }) s, ?_, ?_⟩
  · simp [exec, execAllotWrite, writeAllot, hp, hs]
  · dsimp only
    rw [getVf_modVf _ _ (by exact fun _ => rfl)]
    obtain ⟨h0, h1⟩ := extract_packed_two _ _ (allotValue_second (getVf s n).allot1 value)
    exact ⟨h0, h1, rfl⟩

/-- A VF in ERROR reads its cause. -/
theorem getVf_vfError (n : VfId) (cause : BitVec 4) (s : State) :
    getVf (vfError n cause s) n = { getVf s n with state := .error, cause := cause } := by
  unfold vfError
  rw [getVf_modVf]
  exact fun _ => rfl

theorem completes_allotWrite_locked {n : VfId} {second : Bool} {value : BitVec 32} {s : State}
    (hp : vfPresent s n = true) (hs : (getVf s n).state = .locked ∨ (getVf s n).state = .run) :
    Completes (.allotWrite n second value) s fun t => getVf t n = { getVf s n with state := .error, cause := 1 } := by
  refine ⟨vfError n 1 s, ?_, getVf_vfError n 1 s⟩
  obtain h | h := hs <;> simp [exec, execAllotWrite, writeAllot, hp, h]

/-- Settles O11: each request and each write by the VF's state. -/
theorem functionStatesComplete : Obligations.FunctionStatesComplete :=
  ⟨fun _ _ => completes_stateReqLock, fun _ _ => completes_stateReqRun, fun _ _ => exec_stateReq_refused,
    fun _ _ _ => completes_allotWrite_first, fun _ _ _ => completes_allotWrite_second,
    fun _ _ _ _ => completes_allotWrite_locked⟩

end Sys2Proof.Machine
end

section
/-! SUPPORT. Host objects by their numbers, what the host's writes leave of VFs and queues, the dirty log and the host path
(R368, R374, R395, R401, R404), and the statement about them. -/

namespace Sys2Proof.Machine

/-! ### Event rings and queues by their numbers -/

theorem findRing_modRing {fn : FnId} {ring : BitVec 9} {f : EventRing → EventRing} (s : State)
    (h : ∀ y, (f y).fn = y.fn ∧ (f y).id = y.id) :
    findRing (modRing fn ring f s) fn ring = (findRing s fn ring).map f :=
  find?_alter (p := fun y : EventRing => y.fn = fn && y.id = ring) (f := f)
    (fun y hy => by obtain ⟨hfn, hid⟩ := h y; simpa [hfn, hid] using hy) s.obj.rings

theorem findQueue_modQueue {q : BitVec 8} {f : Queue → Queue} (s : State) (h : ∀ y, (f y).id = y.id) :
    findQueue (modQueue q f s) q = (findQueue s q).map f :=
  find?_alter (p := fun y : Queue => y.id = q) (f := f) (fun y hy => by simpa [h] using hy) s.obj.queues

theorem id_of_findQueue {q : BitVec 8} {x : Queue} {s : State} (h : findQueue s q = some x) : x.id = q := by
  simpa using List.find?_some h

theorem findQueue_congr {s t : State} (h : t.obj.queues = s.obj.queues) (q : BitVec 8) : findQueue t q = findQueue s q := by
  simp only [findQueue, h]

/-! ### What the host's writes leave of the VFs and the queues (R402, R516) -/

/-- The VFs but for all_dirty, which any write to a VF's memory may set. -/
def vfsButDirty (s : State) (n : VfId) : Vf := { getVf s n with allDirty := false }

theorem vfsButDirty_congr {s t : State} (h : t.fns.vfs = s.fns.vfs) : vfsButDirty t = vfsButDirty s :=
  funext fun n => by simp only [vfsButDirty, getVf_congr h]

/-- What a VF reads is known from all of it but all_dirty. -/
theorem state_of_vfsButDirty {s t : State} (h : vfsButDirty t = vfsButDirty s) (n : VfId) :
    (getVf t n).state = (getVf s n).state :=
  (congrArg Vf.state (congrFun h n) :)

theorem reset_of_vfsButDirty {s t : State} (h : vfsButDirty t = vfsButDirty s) (n : VfId) :
    (getVf t n).reset = (getVf s n).reset :=
  (congrArg Vf.reset (congrFun h n) :)

theorem enabled_of_vfsButDirty {s t : State} (h : vfsButDirty t = vfsButDirty s) (n : VfId) :
    (getVf t n).enabled = (getVf s n).enabled :=
  (congrArg Vf.enabled (congrFun h n) :)

theorem vfsButDirty_allDirty (n : VfId) (s : State) :
    vfsButDirty (modVf n (fun x => { x with allDirty := true }) s) = vfsButDirty s := by
  funext m
  by_cases hm : m = n
  · subst hm
    simp only [vfsButDirty]
    rw [getVf_modVf _ _ (by exact fun _ => rfl)]
  · simp only [vfsButDirty]
    rw [getVf_modVf_other hm _ (by exact fun _ => rfl)]

theorem dirtyPage_vfs (n : VfId) (page : Nat) (s : State) : (dirtyPage n page s).fns.vfs = s.fns.vfs := by
  unfold dirtyPage
  dsimp only
  repeat' split
  all_goals rfl

@[simp] theorem vfsButDirty_dirtyLog (n : VfId) (addr len : Nat) (s : State) :
    vfsButDirty (dirtyLog n addr len s) = vfsButDirty s := by
  unfold dirtyLog
  dsimp only
  split
  · refine foldl_keeps (fun t p => ?_) _ s
    split
    · exact vfsButDirty_congr (dirtyPage_vfs _ _ t)
    · exact vfsButDirty_allDirty n t
  · rfl

@[simp] theorem vfsButDirty_hostWrite (fn : FnId) (addr : BitVec 64) (b : Bytes) (s : State) :
    vfsButDirty (hostWrite fn addr b s) = vfsButDirty s := by
  unfold hostWrite
  split
  · rfl
  · split
    · exact vfsButDirty_dirtyLog _ _ _ _
    · rfl

@[simp] theorem vfsButDirty_modRing (fn : FnId) (ring : BitVec 9) (f : EventRing → EventRing) (s : State) :
    vfsButDirty (modRing fn ring f s) = vfsButDirty s := rfl

@[simp] theorem vfsButDirty_count (c : Nat) (s : State) : vfsButDirty (count c s) = vfsButDirty s := rfl

@[simp] theorem vfsButDirty_emit (e : Output) (s : State) : vfsButDirty (emit e s) = vfsButDirty s := rfl

@[simp] theorem vfsButDirty_writeRecord (fn : FnId) (ring : BitVec 9) (e : EventRec) (s : State) :
    vfsButDirty (writeRecord fn ring e s) = vfsButDirty s := by
  unfold writeRecord
  split
  · rfl
  · dsimp only
    split <;> simp

@[simp] theorem vfsButDirty_flushRing (fn : FnId) (ring : BitVec 9) (k : Nat) (s : State) :
    vfsButDirty (flushRing fn ring k s) = vfsButDirty s := by
  induction k generalizing s with
  | zero => rfl
  | succ k ih =>
    unfold flushRing
    split
    · rfl
    · split
      · rfl
      · split
        · simp [ih]
        · split
          · rfl
          · simp [ih]

@[simp] theorem vfsButDirty_postEvent (fn : FnId) (ring : BitVec 9) (e : EventRec) (s : State) :
    vfsButDirty (postEvent fn ring e s) = vfsButDirty s := by
  unfold postEvent
  split
  · rfl
  · split
    · split
      · rfl
      · split
        · exact vfsButDirty_count _ s
        · rfl
    · dsimp only
      split
      · exact vfsButDirty_flushRing _ _ _ _
      · split
        · rw [vfsButDirty_writeRecord, vfsButDirty_flushRing]
        · split
          · rw [vfsButDirty_modRing, vfsButDirty_flushRing]
          · rw [vfsButDirty_count, vfsButDirty_modRing, vfsButDirty_flushRing]

@[simp] theorem vfsButDirty_finish (o : Origin) (tag : BitVec 32) (st : Status) (payload : Bytes) (s : State) :
    vfsButDirty (finish o tag st payload s) = vfsButDirty s := by
  unfold finish
  dsimp only
  split
  · rfl
  · split
    · rfl
    · exact vfsButDirty_postEvent _ _ _ _

@[simp] theorem vfsButDirty_finishAll (l : List (Origin × BitVec 32)) (st : Status) (s : State) :
    vfsButDirty (finishAll l st s) = vfsButDirty s := by
  unfold finishAll
  refine foldl_keeps (f := vfsButDirty) (fun t x => ?_) l s
  exact vfsButDirty_finish x.1 x.2 st [] t

@[simp] theorem vfsButDirty_emitTrace (bit : Nat) (code unit : BitVec 16) (p : PolderId) (c : Option CtxId)
    (payload : Bytes) (s : State) : vfsButDirty (emitTrace bit code unit p c payload s) = vfsButDirty s :=
  vfsButDirty_congr (by rw [emitTrace_fns])

/-- A fault record changes nothing of the objects and the functions but by the events it posts (R348, R431). -/
theorem writeFault_keeps {β : Type} {f : State → β} (hf : ∀ s t : State, t.obj = s.obj → t.fns = s.fns → f t = f s)
    (hpost : ∀ fn ring e s, f (postEvent fn ring e s) = f s) (n : FaultName) (i : FaultInfo) (s : State) :
    f (writeFault n i s) = f s := by
  unfold writeFault
  extract_lets r pushed sb copied mirrored mirroredVf traced fatal
  have hcopied : f copied = f s := by
    unfold copied
    split <;> exact hf _ _ rfl rfl
  have hmirrored : f mirroredVf = f s := by
    unfold mirroredVf
    split
    · rw [hpost, hpost, hcopied]
    · rw [hpost, hcopied]
  have htraced : f traced = f s := (hf _ _ (emitTrace_obj ..) (emitTrace_fns ..)).trans hmirrored
  split
  · split
    · exact (hf traced (emit _ fatal) rfl rfl).trans htraced
    · exact (hf traced fatal rfl rfl).trans htraced
  · exact htraced

@[simp] theorem vfsButDirty_writeFault (n : FaultName) (i : FaultInfo) (s : State) :
    vfsButDirty (writeFault n i s) = vfsButDirty s :=
  writeFault_keeps (fun s t _ h => vfsButDirty_congr (by rw [h])) vfsButDirty_postEvent n i s

/-- The host's objects but for the event rings and the records that wait for ring 0. -/
def objButRings (s : State) : Objects := { s.obj with rings := [], early := [] }

theorem objButRings_congr {s t : State} (h : t.obj = s.obj) : objButRings t = objButRings s := by
  simp only [objButRings, h]

theorem queues_of_objButRings {s t : State} (h : objButRings t = objButRings s) : t.obj.queues = s.obj.queues :=
  (congrArg Objects.queues h :)

theorem objButRings_modRing (fn : FnId) (ring : BitVec 9) (f : EventRing → EventRing) (s : State) :
    objButRings (modRing fn ring f s) = objButRings s := rfl

theorem objButRings_hostWrite (fn : FnId) (addr : BitVec 64) (b : Bytes) (s : State) :
    objButRings (hostWrite fn addr b s) = objButRings s :=
  objButRings_congr (hostWrite_obj ..)

theorem objButRings_writeRecord (fn : FnId) (ring : BitVec 9) (e : EventRec) (s : State) :
    objButRings (writeRecord fn ring e s) = objButRings s := by
  unfold writeRecord
  split
  · rfl
  · dsimp only
    split
    · exact (objButRings_modRing ..).trans (objButRings_hostWrite ..)
    · exact (objButRings_modRing ..).trans (objButRings_hostWrite ..)

theorem objButRings_flushRing (fn : FnId) (ring : BitVec 9) (k : Nat) (s : State) :
    objButRings (flushRing fn ring k s) = objButRings s := by
  induction k generalizing s with
  | zero => rfl
  | succ k ih =>
    unfold flushRing
    split
    · rfl
    · split
      · rfl
      · split
        · rw [ih, objButRings_writeRecord, objButRings_modRing]
        · split
          · rfl
          · rw [ih, objButRings_writeRecord, objButRings_modRing]

/-- An event changes nothing of the objects but its ring and the records that wait for ring 0 (R369, R370). -/
theorem objButRings_postEvent (fn : FnId) (ring : BitVec 9) (e : EventRec) (s : State) :
    objButRings (postEvent fn ring e s) = objButRings s := by
  unfold postEvent
  split
  · rfl
  · split
    · split
      · rfl
      · split <;> rfl
    · dsimp only
      split
      · exact objButRings_flushRing _ _ _ _
      · split
        · rw [objButRings_writeRecord, objButRings_flushRing]
        · split
          · rw [objButRings_modRing, objButRings_flushRing]
          · exact (objButRings_modRing ..).trans (objButRings_flushRing ..)

theorem objButRings_writeFault (n : FaultName) (i : FaultInfo) (s : State) :
    objButRings (writeFault n i s) = objButRings s :=
  writeFault_keeps (fun _ _ h _ => objButRings_congr h) objButRings_postEvent n i s

/-! ### The dirty log (R401, R404) -/

/-- A write-back takes a buffer's cached lines out, and changes nothing else of the functions. -/
@[simp] theorem writeBackDirty_fns (n : VfId) (buf : Bool) (s : State) : (writeBackDirty n buf s).fns =
    { s.fns with dirty := s.fns.dirty.filter fun l => !(l.vf = n && l.buf = buf) } := by
  unfold writeBackDirty
  dsimp only
  refine foldl_keeps (f := State.fns) ?_ _ _
  exact fun _ _ => rfl

theorem getVf_writeBackDirty (n : VfId) (buf : Bool) (s : State) (m : VfId) :
    getVf (writeBackDirty n buf s) m = getVf s m :=
  getVf_congr (by rw [writeBackDirty_fns]) m

/-- With pages to log, an enable is taken. -/
theorem completes_dirtyEnable_on {n : VfId} {s : State} (hp : vfPresent s n = true) (h0 : (getVf s n).pages ≠ 0) :
    Completes (.dirtyEnable n true) s fun t =>
      getVf t n = { getVf s n with dirtyEnable := true } ∧ t.fns.dirty = s.fns.dirty := by
  refine ⟨modVf n (fun v => { v with dirtyEnable := decide (v.pages ≠ 0) || v.dirtyEnable }) s, ?_, ?_, rfl⟩
  · simp [exec, execDirtyEnable, setDirty, hp]
  · rw [getVf_modVf _ _ (by exact fun _ => rfl)]
    simp only [h0, ne_eq, not_false_eq_true, decide_true, Bool.true_or]

/-- A disable writes the lines of both buffers back. -/
theorem completes_dirtyEnable_off {n : VfId} {s : State} (hp : vfPresent s n = true) :
    Completes (.dirtyEnable n false) s fun t =>
      getVf t n = { getVf s n with dirtyEnable := false } ∧ (∀ l ∈ t.fns.dirty, l.vf ≠ n)
        ∧ ∀ l, l.vf ≠ n → (l ∈ t.fns.dirty ↔ l ∈ s.fns.dirty) := by
  let a := (getVf s n).activeBuf
  refine ⟨modVf n (fun x => { x with dirtyEnable := false }) (writeBackDirty n (!a) (writeBackDirty n a s)), ?_, ?_, ?_⟩
  · simp [exec, execDirtyEnable, setDirty, hp, a]
  · rw [getVf_modVf _ _ (by exact fun _ => rfl), getVf_writeBackDirty, getVf_writeBackDirty]
  · have hdirty : (modVf n (fun x => { x with dirtyEnable := false })
        (writeBackDirty n (!a) (writeBackDirty n a s))).fns.dirty
        = (s.fns.dirty.filter fun l => !(l.vf = n && l.buf = a)).filter fun l => !(l.vf = n && l.buf = !a) := by
      simp only [modVf, writeBackDirty_fns]
    rw [hdirty]
    refine ⟨fun l hl hn => ?_, fun l hn => ?_⟩
    · simp only [List.mem_filter, hn] at hl
      cases h : l.buf <;> cases h' : a <;> simp [h, h'] at hl
    · simp [List.mem_filter, hn]

theorem getVf_completeSwap (n : VfId) (s : State) :
    getVf (completeSwap n s) n = { getVf s n with activeBuf := !(getVf s n).activeBuf, swapping := false } := by
  unfold completeSwap
  rw [getVf_modVf]
  exact fun _ => rfl

/-- A swap writes the active buffer's lines back; without any it ends at once. -/
theorem completes_swap {n : VfId} {s : State} (hp : vfPresent s n = true) (hw : (getVf s n).swapping = false) :
    Completes (.swap n) s fun t =>
      (∀ l ∈ t.fns.dirty, l.vf = n → l.buf ≠ (getVf s n).activeBuf)
        ∧ ((∃ l ∈ s.fns.dirty, l.vf = n ∧ l.buf = (getVf s n).activeBuf) →
            getVf t n = { getVf s n with swapping := true })
        ∧ ((∀ l ∈ s.fns.dirty, l.vf = n → l.buf ≠ (getVf s n).activeBuf) →
            getVf t n = { getVf s n with activeBuf := !(getVf s n).activeBuf, swapping := false }) := by
  let u := modVf n (fun v => { v with swapping := true }) (writeBackDirty n (getVf s n).activeBuf s)
  have hu : getVf u n = { getVf s n with swapping := true } := by
    unfold u
    rw [getVf_modVf _ _ (by exact fun _ => rfl), getVf_writeBackDirty]
  have hdirty : u.fns.dirty = s.fns.dirty.filter fun l => !(l.vf = n && l.buf = (getVf s n).activeBuf) := by
    simp only [u, modVf, writeBackDirty_fns]
  have hgone : ∀ l ∈ u.fns.dirty, l.vf = n → l.buf ≠ (getVf s n).activeBuf := fun l hl hn hb => by
    simp [hdirty, hn, hb] at hl
  have hexec : exec (.swap n) s = .next
      (if s.fns.dirty.any fun l => l.vf = n && l.buf = (getVf s n).activeBuf then u else completeSwap n u) := by
    simp only [exec, execSwap, setSwap, hp, hw, Bool.not_true, Bool.or_false, Bool.false_eq_true, if_false, u]
  refine ⟨_, hexec, ?_, fun ⟨l, hl, hn, hb⟩ => ?_, fun hnone => ?_⟩
  · split <;> exact hgone
  · rw [if_pos (List.any_eq_true.2 ⟨l, hl, by simp [hn, hb]⟩), hu]
  · rw [if_neg, getVf_completeSwap, hu]
    simpa using hnone

theorem completes_hostRequestComplete_dirtyLog {n : VfId} {s : State} (hw : (getVf s n).swapping = true) :
    Completes (.hostRequestComplete (.dirtyLog n)) s fun t =>
      getVf t n = { getVf s n with activeBuf := !(getVf s n).activeBuf, swapping := false } :=
  ⟨completeSwap n s, by simp [exec, execHostRequestComplete, hw], getVf_completeSwap n s⟩

/-! ### The host path (R368, R374, R395) -/

/-- An event ring that no command waits for stays as it is. -/
theorem settleRing_of_no_waiters {fn : FnId} {ring : BitVec 9} {s : State}
    (h : ∀ r, findRing s fn ring = some r → r.waiters = []) : settleRing fn ring s = s := by
  unfold settleRing
  split
  · rfl
  · next r hr => simp [h r hr]

/-- The end of a record's write counts it out of a ring that no command waits for. -/
theorem recordDone_of_no_waiters {fn : FnId} {ring : BitVec 9} {s : State}
    (h : ∀ r, findRing s fn ring = some r → r.waiters = []) :
    recordDone fn ring s = modRing fn ring (fun r => { r with inFlight := r.inFlight - 1 }) s := by
  refine settleRing_of_no_waiters fun y hy => ?_
  rw [findRing_modRing _ (by exact fun _ => ⟨rfl, rfl⟩)] at hy
  obtain ⟨r, hr, rfl⟩ := Option.map_eq_some_iff.1 hy
  exact h r hr

theorem completes_hostRequestComplete_eventRecord {fn : FnId} {ring : BitVec 9} {r : EventRing} {s : State}
    (hrun : running s = true) (hr : findRing s fn ring = some r) (hw : r.waiters = []) :
    Completes (.hostRequestComplete (.eventRecord fn ring)) s fun t =>
      findRing t fn ring = some { r with inFlight := r.inFlight - 1 } := by
  refine ⟨recordDone fn ring s, by simp [exec, execHostRequestComplete, hrun], ?_⟩
  dsimp only
  rw [recordDone_of_no_waiters (by rintro _ hx; rwa [Option.some.inj (hx.symm.trans hr)]),
    findRing_modRing _ (by exact fun _ => ⟨rfl, rfl⟩), hr]
  rfl

/-- A failed access that is no event record's write takes a VF in RUN to ERROR, with the cause of its kind. -/
theorem completes_hostPathFailure {fn : FnId} {n : VfId} {what : HostFailure} {s : State} (hp : fnPresent s fn = true)
    (hn : vfOf fn = some n) (hs : (getVf s n).state = .run) (hw : ∀ r, what ≠ .write (some r)) :
    Completes (.hostPathFailure fn what) s fun t =>
      getVf t n = { getVf s n with state := .error, cause := if what = .dirtyLog then 3 else 2 } := by
  refine ⟨vfError n (if what = .dirtyLog then 3 else 2) s, ?_, getVf_vfError n _ s⟩
  simp only [exec, execHostPathFailure, hp, Bool.not_true, Bool.false_eq_true, if_false]
  match what, hw with
  | .write none, _ | .descriptorRead, _ | .dirtyLog, _ => simp [hn, hs]
  | .write (some r), hw => exact absurd rfl (hw r)

theorem completes_hostPathFailure_record {fn : FnId} {n : VfId} {ring : BitVec 9} {s : State}
    (hp : fnPresent s fn = true) (hn : vfOf fn = some n) (hs : (getVf s n).state = .run)
    (hw : ∀ r, findRing s fn ring = some r → r.waiters = []) :
    Completes (.hostPathFailure fn (.write (some ring))) s fun t =>
      getVf t n = { getVf s n with state := .error, cause := 2 } := by
  have hvf : getVf (recordDone fn ring s) n = getVf s n := by
    rw [recordDone_of_no_waiters hw]
    rfl
  refine ⟨vfError n 2 (recordDone fn ring s), ?_, by dsimp only; rw [getVf_vfError, hvf]⟩
  simp [exec, execHostPathFailure, hp, hn, hvf, hs]

/-- Settles O12: the dirty log by what a write-back leaves, the host path by a ring that no command waits for. -/
theorem hostPathCompletes : Obligations.HostPathCompletes :=
  ⟨fun _ _ => completes_dirtyEnable_on, fun _ _ => completes_dirtyEnable_off, fun _ _ => completes_swap,
    fun _ _ => completes_hostRequestComplete_dirtyLog, fun _ _ _ _ => completes_hostRequestComplete_eventRecord,
    fun _ _ _ _ => completes_hostPathFailure, fun _ _ _ _ => completes_hostPathFailure_record⟩

end Sys2Proof.Machine
end

section
/-! SUPPORT. Queues and event rings at the host: doorbells, descriptors and the rings' registers (R367 to R370, R396, R511 to
R514), and the statement about them. -/

namespace Sys2Proof.Machine

/-! ### Queues (R367, R368, R396) -/

theorem completes_queueDoorbell {fn : FnId} {queue : BitVec 8} {value : BitVec 32} {q : Queue} {s : State}
    (hw : windowOpen s fn = true) (hq : findQueue s queue = some q) (hfn : q.fn = fn) (hr : fnRuns s fn = true)
    (hd : (value.extractLsb' 0 12).toNat < q.depth) (hs : q.state ≠ .destroying) :
    Completes (.queueDoorbell fn queue value) s fun t =>
      findQueue t queue = some { q with tail := value.extractLsb' 0 12 } ∧ t.out = s.out := by
  refine ⟨modQueue queue (fun x => { x with tail := value.extractLsb' 0 12 }) s, ?_, ?_, rfl⟩
  · simp only [exec, execQueueDoorbell, writeTail, hw, hq, hfn, hr, hs, Nat.not_le.2 hd, Bool.not_true, ne_eq,
      not_true_eq_false, decide_false, Bool.or_false, Bool.false_eq_true, if_false]
  · rw [findQueue_modQueue _ (by exact fun _ => rfl), hq]
    rfl

/-- Past a descriptor the head stands at the next slot of the ring. -/
theorem findQueue_advanceHead {q : BitVec 8} {x : Queue} {s : State} (h : findQueue s q = some x) :
    findQueue (advanceHead q s) q = some { x with head := BitVec.ofNat 12 ((x.head.toNat + 1) % max x.depth 1) } := by
  refine (findQueue_congr (s := modQueue q _ s) (by rfl) q).trans ?_
  rw [findQueue_modQueue _ (by exact fun _ => rfl), h]
  rfl

theorem fns_advanceHead (q : BitVec 8) (s : State) : (advanceHead q s).fns = s.fns := rfl

@[simp] theorem profResetQueue_obj (q : BitVec 8) (scope : Bool) (s : State) :
    (profResetQueue q scope s).obj = s.obj :=
  profResetQueue_frame q scope s (agree_refl [.tracer] s) rfl .obj rfl

/-- A descriptor of the queue's context that names no doomed object anew is started. -/
theorem completes_descriptorFetch_started {queue : BitVec 8} {x : Queue} {d : Bytes} {s : State} (hr : running s = true)
    (hq : findQueue s queue = some x) (hm : mayStart s x = true) (hl : d.length = 64) (hw : descWellFormed d = true)
    (hc : descContext d = x.context) (hn : namesDoomed s x d = false) :
    Completes (.descriptorFetch queue (some d)) s fun t =>
      findQueue t queue = some { x with
        head := BitVec.ofNat 12 ((x.head.toNat + 1) % max x.depth 1)
        started := x.started ++ [{ index := x.head, data := d, begun := false, done := 0 }] } := by
  obtain rfl := id_of_findQueue hq
  refine ⟨startDescriptor x d s, ?_, ?_⟩
  · simp [exec, execDescriptorFetch, hq, hr, hm, hl, hw]
  · simp only [startDescriptor, hc, hn, ne_eq, not_true_eq_false, decide_false, Bool.or_false, Bool.false_eq_true,
      if_false]
    rw [findQueue_congr (congrArg _ (profResetQueue_obj ..)), findQueue_congr (congrArg _ (emitTrace_obj ..)),
      findQueue_modQueue _ (by exact fun _ => rfl), findQueue_advanceHead hq]
    rfl

/-- A descriptor that newly names a doomed object ends with ST_BAD_PARAM. -/
theorem exec_descriptorFetch_doomed {queue : BitVec 8} {x : Queue} {d : Bytes} {s : State} (hr : running s = true)
    (hq : findQueue s queue = some x) (hm : mayStart s x = true) (hl : d.length = 64) (hw : descWellFormed d = true)
    (hn : namesDoomed s x d = true) :
    ∃ u, exec (.descriptorFetch queue (some d)) s = .next (endUnstarted x x.head (descCtag d) .badParam u)
      ∧ findQueue u queue = some { x with head := BitVec.ofNat 12 ((x.head.toNat + 1) % max x.depth 1) } := by
  obtain rfl := id_of_findQueue hq
  refine ⟨advanceHead x.id s, ?_, findQueue_advanceHead hq⟩
  simp [exec, execDescriptorFetch, hq, hr, hm, hl, hw, startDescriptor, hn]

/-- A bad descriptor leaves its queue HALTED. -/
theorem findQueue_haltQueue {x : Queue} {ctag : BitVec 16} {s : State} (h : findQueue s x.id = some x) :
    ∃ y, findQueue (haltQueue x ctag s) x.id = some y ∧ y.state = .halted := by
  let u := modQueue x.id (fun q => { q with state := .halted }) (advanceHead x.id s)
  have hobj : objButRings (haltQueue x ctag s) = objButRings u :=
    (objButRings_postEvent ..).trans (objButRings_writeFault ..)
  rw [findQueue_congr (queues_of_objButRings hobj), findQueue_modQueue _ (by exact fun _ => rfl),
    findQueue_advanceHead h]
  exact ⟨_, rfl, rfl⟩

theorem vfsButDirty_haltQueue (x : Queue) (ctag : BitVec 16) (s : State) :
    vfsButDirty (haltQueue x ctag s) = vfsButDirty s := by
  unfold haltQueue endUnstarted
  rw [vfsButDirty_postEvent, vfsButDirty_writeFault]
  rfl

theorem completes_descriptorFetch_malformed {queue : BitVec 8} {x : Queue} {d : Bytes} {s : State}
    (hr : running s = true) (hq : findQueue s queue = some x) (hm : mayStart s x = true)
    (hw : descWellFormed d = false) :
    Completes (.descriptorFetch queue (some d)) s fun t => ∃ y, findQueue t queue = some y ∧ y.state = .halted := by
  obtain rfl := id_of_findQueue hq
  refine ⟨haltQueue x (descCtag d) s, ?_, findQueue_haltQueue hq⟩
  simp [exec, execDescriptorFetch, hq, hr, hm, hw]

theorem state_of_mayStart {x : Queue} {n : VfId} {s : State} (h : mayStart s x = true) (hn : vfOf x.fn = some n) :
    (getVf s n).state = .run := by
  have hruns : fnRuns s x.fn = true := by
    simp only [mayStart, Bool.and_eq_true] at h
    exact h.1.1.1.2
  simp only [fnRuns, hn, Bool.and_eq_true, decide_eq_true_eq] at hruns
  exact hruns.1

/-- A descriptor that can not be read halts its queue and takes its VF to ERROR. -/
theorem completes_descriptorFetch_unread {queue : BitVec 8} {x : Queue} {n : VfId} {s : State} (hr : running s = true)
    (hq : findQueue s queue = some x) (hm : mayStart s x = true) (hn : vfOf x.fn = some n) :
    Completes (.descriptorFetch queue none) s fun t =>
      (getVf t n).state = .error ∧ (getVf t n).cause = 2 ∧ ∃ y, findQueue t queue = some y ∧ y.state = .halted := by
  obtain rfl := id_of_findQueue hq
  let u := haltQueue x ((fresh s).setWidth 16) (tookFree s)
  have hu : (getVf u n).state = .run := by
    rw [state_of_vfsButDirty (t := u) (s := s) (vfsButDirty_haltQueue ..) n]
    exact state_of_mayStart hm hn
  refine ⟨vfError n 2 u, ?_, ?_, ?_, findQueue_haltQueue (s := tookFree s) hq⟩
  · simp [exec, execDescriptorFetch, hq, hr, hm, hn, hu, u]
  · exact congrArg Vf.state (getVf_vfError n 2 u)
  · exact congrArg Vf.cause (getVf_vfError n 2 u)

/-! ### Event rings (R370, R511 to R514) -/

theorem completes_eventRingHead {fn : FnId} {ring : BitVec 9} {head : BitVec 16} {r : EventRing} {s : State}
    (hw : windowOpen s fn = true) (hr : findRing s fn ring = some r) (hf : headFits r head = true) :
    Completes (.eventRingHead fn ring head) s fun t =>
      findRing t fn ring = some { r with head := head.toNat } ∧ t.out = s.out := by
  refine ⟨modRing fn ring (fun x => { x with head := head.toNat }) s, ?_, ?_, rfl⟩
  · simp [exec, execEventRingHead, writeHead, hw, hr, hf]
  · rw [findRing_modRing _ (by exact fun _ => ⟨rfl, rfl⟩), hr]
    rfl

/-- Space that has returned takes the marker of what was dropped, then what waits. -/
theorem exec_eventRingSpaceReturn {fn : FnId} {ring : BitVec 9} {r : EventRing} {s : State} (hrun : running s = true)
    (hf : fnResetting s fn = false) (hr : findRing s fn ring = some r) :
    exec (.eventRingSpaceReturn fn ring) s = .next (flushRing fn ring (r.waiting.length + 1) s)
      ∧ (ringSpace r = true → r.dropped ≠ 0 → r.waiting = [] →
          exec (.eventRingSpaceReturn fn ring) s = .next (writeRecord fn ring (overflowMarker r.dropped s)
            (modRing fn ring (fun r => { r with dropped := 0 }) s))) := by
  have hexec : exec (.eventRingSpaceReturn fn ring) s = .next (flushRing fn ring (r.waiting.length + 1) s) := by
    simp [exec, execEventRingSpaceReturn, hrun, hf, hr]
  refine ⟨hexec, fun hspace hdropped hwait => hexec.trans ?_⟩
  simp [hwait, flushRing, hr, hspace, hdropped]

/-- An armed ring with records not consumed interrupts at once. -/
theorem completes_arm {fn : FnId} {ring : BitVec 9} {r : EventRing} {s : State} (hw : windowOpen s fn = true)
    (hr : findRing s fn ring = some r) : Completes (.arm fn ring) s fun t =>
      (r.tail = r.head → findRing t fn ring = some { r with armed := true } ∧ t.out = s.out)
        ∧ (r.tail ≠ r.head → findRing t fn ring = some { r with armed := false }
            ∧ t.out = s.out ++ [.interrupt fn r.vector]) := by
  have harmed : ∀ a, findRing (modRing fn ring (fun x => { x with armed := a }) s) fn ring = some { r with armed := a } :=
    fun a => by
      rw [findRing_modRing _ (by exact fun _ => ⟨rfl, rfl⟩), hr]
      rfl
  by_cases h : r.tail = r.head
  · refine ⟨modRing fn ring (fun x => { x with armed := true }) s, ?_, fun _ => ⟨harmed true, rfl⟩, fun h' => absurd h h'⟩
    simp [exec, execArm, setArm, hw, hr, h]
  · refine ⟨emit (.interrupt fn r.vector) (modRing fn ring (fun x => { x with armed := false }) s), ?_,
      fun h' => absurd h' h, fun _ => ⟨harmed false, rfl⟩⟩
    simp [exec, execArm, setArm, hw, hr, h]

/-- Settles O13: a queue by what its head, its state and its started descriptors become, a ring by its registers. -/
theorem queuesAndEventRingsComplete : Obligations.QueuesAndEventRingsComplete :=
  ⟨fun _ _ _ _ _ => completes_queueDoorbell,
    fun _ _ _ _ hr hq hm hl hw hc => ⟨completes_descriptorFetch_started hr hq hm hl hw hc,
      exec_descriptorFetch_doomed hr hq hm hl hw⟩,
    fun _ _ _ _ => completes_descriptorFetch_malformed, fun _ _ _ _ => completes_descriptorFetch_unread,
    fun _ _ _ _ _ => completes_eventRingHead, fun _ _ _ _ => exec_eventRingSpaceReturn, fun _ _ _ _ => completes_arm⟩

end Sys2Proof.Machine
end

section
/-! SUPPORT. The key units: jobs that end, slots evicted and loads timed out, the DRBG and its entropy source (R305, R306,
R311 to R320), and the statement about them. -/

namespace Sys2Proof.Machine

/-! ### Counters that neither events nor the trace count -/

theorem counterOf_congr {s t : State} (h : t.tracer.counters = s.tracer.counters) (c : Nat) :
    counterOf c t = counterOf c s := by
  simp only [counterOf, h]

theorem counterOf_count_other {c i : Nat} (h : c ≠ i) (s : State) : counterOf c (count i s) = counterOf c s :=
  assocGet_assocSet_other h _ _ _

theorem counterOf_writeRecord (c : Nat) (fn : FnId) (ring : BitVec 9) (e : EventRec) (s : State) :
    counterOf c (writeRecord fn ring e s) = counterOf c s := by
  unfold writeRecord
  split
  · rfl
  · dsimp only
    split
    · exact counterOf_congr (congrArg _ (hostWrite_tracer ..)) c
    · exact counterOf_congr (congrArg _ (hostWrite_tracer ..)) c

theorem counterOf_flushRing (c : Nat) (fn : FnId) (ring : BitVec 9) (k : Nat) (s : State) :
    counterOf c (flushRing fn ring k s) = counterOf c s := by
  induction k generalizing s with
  | zero => rfl
  | succ k ih =>
    unfold flushRing
    split
    · rfl
    · split
      · rfl
      · split
        · rw [ih, counterOf_writeRecord]
          rfl
        · split
          · rfl
          · rw [ih, counterOf_writeRecord]
            rfl

/-- An event counts only where its record is dropped, at 0x011 (R370). -/
theorem counterOf_postEvent {c : Nat} (h : c ≠ 0x011) (fn : FnId) (ring : BitVec 9) (e : EventRec) (s : State) :
    counterOf c (postEvent fn ring e s) = counterOf c s := by
  unfold postEvent
  split
  · rfl
  · split
    · split
      · rfl
      · split
        · exact counterOf_count_other h s
        · rfl
    · dsimp only
      split
      · exact counterOf_flushRing ..
      · split
        · rw [counterOf_writeRecord, counterOf_flushRing]
        · split
          · exact counterOf_flushRing ..
          · exact (counterOf_count_other h _).trans (counterOf_flushRing ..)

theorem counterOf_takeTrace {c : Nat} (h : c ≠ 0x010) (e : TraceEvent) (s : State) :
    counterOf c (takeTrace e s) = counterOf c s := by
  unfold takeTrace
  dsimp only
  split
  · split
    · exact counterOf_count_other h _
    · rfl
  · split
    · exact counterOf_count_other h _
    · rfl

/-- A trace event counts only where it is dropped, at 0x010 (R478). -/
theorem counterOf_emitTrace {c : Nat} (h : c ≠ 0x010) (bit : Nat) (code unit : BitVec 16) (p : PolderId)
    (x : Option CtxId) (payload : Bytes) (s : State) : counterOf c (emitTrace bit code unit p x payload s) = counterOf c s := by
  unfold emitTrace
  dsimp only
  split
  · rfl
  · split
    · rfl
    · unfold sendTrace
      split
      · exact (counterOf_takeTrace h _ _).trans rfl
      · split
        · exact counterOf_count_other h _
        · rfl

theorem counterOf_writeFault {c : Nat} (h0 : c ≠ 0x010) (h1 : c ≠ 0x011) (n : FaultName) (i : FaultInfo) (s : State) :
    counterOf c (writeFault n i s) = counterOf c s := by
  unfold writeFault
  extract_lets r pushed sb copied mirrored mirroredVf traced fatal
  have hcopied : counterOf c copied = counterOf c s := by
    unfold copied
    split <;> rfl
  have hmirrored : counterOf c mirroredVf = counterOf c s := by
    unfold mirroredVf
    split
    · rw [counterOf_postEvent h1, counterOf_postEvent h1, hcopied]
    · rw [counterOf_postEvent h1, hcopied]
  have htraced : counterOf c traced = counterOf c s := (counterOf_emitTrace h0 ..).trans hmirrored
  split
  · split <;> exact htraced
  · exact htraced

/-! ### A KCU after a change (R311 to R315) -/

@[simp] theorem getKcu_setKcu (kcu : Bool) (k : Kcu) (s : State) : getKcu kcu (setKcu kcu k s) = k := by
  cases kcu <;> rfl

@[simp] theorem getKcu_setKcu_other (kcu : Bool) (k : Kcu) (s : State) :
    getKcu (!kcu) (setKcu kcu k s) = getKcu (!kcu) s := by
  cases kcu <;> rfl

theorem getKcu_congr {s t : State} (h : t.keys = s.keys) (kcu : Bool) : getKcu kcu t = getKcu kcu s := by
  simp only [getKcu, h]

/-- The prefix states that a job leaves change nothing else of its KCU (R316). -/
theorem cacheJob_keeps (w : KcuWork) (s : State) (k : Kcu) :
    (cacheJob w s k).inService = k.inService ∧ (cacheJob w s k).job = k.job ∧ (cacheJob w s k).regs = k.regs := by
  unfold cacheJob
  dsimp only
  split <;> exact ⟨rfl, rfl, rfl⟩

/-- A job that passes takes effect, and its KCU stands idle. -/
theorem exec_kcuJobComplete_pass {kcu : Bool} {j : KcuJob} {s : State} (hj : (getKcu kcu s).job = some j)
    (ha : j.abandoned = false) :
    ∃ k, exec (.kcuJobComplete kcu .pass) s
        = .next (resume (applyJob j (markWork (kcuDomain kcu) (traceJob true kcu j (setKcu kcu k s)))))
      ∧ k.inService = true ∧ k.job = none ∧ k.regs = .zero := by
  refine ⟨cacheJob j.work s (idleKcu (getKcu kcu s) true), ?_, cacheJob_keeps ..⟩
  simp [exec, execKcuJobComplete, hj, jobPasses, ha]

/-- The state with one more mismatch noted and counted. -/
def mismatchNoted (s : State) : State :=
  count 0x007 (modKeys (fun u => { u with
    mismatches := (s.keys.mismatches.filter fun t => s.time < t + 1000000000) ++ [s.time] }) s)

theorem counterOf_mismatchNoted (s : State) : counterOf 0x007 (mismatchNoted s) = counterOf 0x007 s + 1 :=
  counterOf_count ..

theorem getKcu_mismatchNoted (kcu : Bool) (s : State) : getKcu kcu (mismatchNoted s) = getKcu kcu s := by
  cases kcu <;> rfl

theorem exec_kcuJobComplete_mismatch {kcu : Bool} {j : KcuJob} {s : State} (hj : (getKcu kcu s).job = some j) :
    exec (.kcuJobComplete kcu .mismatch) s = .next (jobMismatch kcu j s) := by
  simp [exec, execKcuJobComplete, hj]

/-- Whether the mismatch at hand is the sixteenth within a second. -/
theorem full_iff (s : State) :
    16 ≤ (mismatchNoted s).keys.mismatches.length
      ↔ 15 ≤ (s.keys.mismatches.filter fun t => s.time < t + 1000000000).length := by
  show 16 ≤ ((s.keys.mismatches.filter fun t => s.time < t + 1000000000) ++ [s.time]).length ↔ _
  rw [List.length_append, List.length_singleton]
  omega

theorem jobSeen_mismatchNoted (s : State) (w : KcuWork) : jobSeen (mismatchNoted s) w = jobSeen s w := by
  cases w <;> rfl

theorem loadRegs_mismatchNoted (s : State) (w : KcuWork) : loadRegs (mismatchNoted s) w = loadRegs s w := by
  cases w <;> rfl

/-- A mismatch by what its job has been through and whether the count is full. -/
theorem jobMismatch_eq (kcu : Bool) (j : KcuJob) (s : State) : jobMismatch kcu j s =
    if j.restarted then
      if 15 ≤ (s.keys.mismatches.filter fun t => s.time < t + 1000000000).length
      then blockReset 4 (kcuOut kcu j (mismatchNoted s)) else afterKcuOut (kcuOut kcu j (mismatchNoted s))
    else if 15 ≤ (s.keys.mismatches.filter fun t => s.time < t + 1000000000).length
      then blockReset 4 (mismatchNoted s)
    else setKcu kcu { getKcu kcu (mismatchNoted s) with
      job := some { j with restarted := true, seen := jobSeen s j.work }, regs := loadRegs s j.work } (mismatchNoted s) := by
  have hfull : decide (16 ≤ ((s.keys.mismatches.filter fun t => s.time < t + 1000000000) ++ [s.time]).length)
      = decide (15 ≤ (s.keys.mismatches.filter fun t => s.time < t + 1000000000).length) :=
    decide_eq_decide.2 (full_iff s)
  rw [← jobSeen_mismatchNoted s, ← loadRegs_mismatchNoted s]
  simp only [jobMismatch, hfull, decide_eq_true_eq]
  rfl

/-- The first mismatch of a job starts it again. -/
theorem completes_kcuJobComplete_restart {kcu : Bool} {j : KcuJob} {s : State} (hj : (getKcu kcu s).job = some j)
    (hr : j.restarted = false) (hn : (s.keys.mismatches.filter fun t => s.time < t + 1000000000).length < 15) :
    Completes (.kcuJobComplete kcu .mismatch) s fun t =>
      (getKcu kcu t).job = some { j with restarted := true, seen := jobSeen s j.work }
        ∧ (getKcu kcu t).regs = loadRegs s j.work ∧ (getKcu kcu t).inService = (getKcu kcu s).inService
        ∧ getKcu (!kcu) t = getKcu (!kcu) s ∧ counterOf 0x007 t = counterOf 0x007 s + 1 := by
  refine ⟨_, exec_kcuJobComplete_mismatch hj, ?_⟩
  rw [jobMismatch_eq, if_neg (by simp [hr]), if_neg (Nat.not_le.2 hn)]
  dsimp only
  rw [getKcu_setKcu, getKcu_setKcu_other, getKcu_mismatchNoted, getKcu_mismatchNoted]
  exact ⟨rfl, rfl, rfl, rfl, counterOf_mismatchNoted s⟩

/-- A KCU that leaves service stands idle, its job heads the queue again, and one record tells of it. -/
theorem kcuOut_leaves (kcu : Bool) (j : KcuJob) (s : State) :
    getKcu kcu (kcuOut kcu j s) = idleKcu (getKcu kcu s) false ∧ getKcu (!kcu) (kcuOut kcu j s) = getKcu (!kcu) s
      ∧ (j.abandoned = false → (kcuOut kcu j s).keys.queue = { j with restarted := false, seen := none } :: s.keys.queue)
      ∧ (kcuOut kcu j s).tracer.nextSeq = s.tracer.nextSeq + 1
      ∧ counterOf 0x007 (kcuOut kcu j s) = counterOf 0x007 s := by
  unfold kcuOut
  dsimp only
  refine ⟨(getKcu_congr (writeFault_keys ..) kcu).trans ?_, (getKcu_congr (writeFault_keys ..) (!kcu)).trans ?_,
    fun ha => ?_, writeFault_nextSeq .., counterOf_writeFault (by decide) (by decide) ..⟩
  · cases kcu <;> rfl
  · cases kcu <;> rfl
  · rw [writeFault_keys, ha]
    cases kcu <;> rfl

/-- A second mismatch takes the KCU out of service; the other, in service, goes on. -/
theorem exec_kcuJobComplete_out {kcu : Bool} {j : KcuJob} {s : State} (hj : (getKcu kcu s).job = some j)
    (hr : j.restarted = true) (hn : (s.keys.mismatches.filter fun t => s.time < t + 1000000000).length < 15)
    (ho : (getKcu (!kcu) s).inService = true) :
    ∃ u, exec (.kcuJobComplete kcu .mismatch) s = .next (resume u) ∧ (getKcu kcu u).inService = false
      ∧ (getKcu kcu u).job = none ∧ (getKcu kcu u).regs = .zero ∧ counterOf 0x007 u = counterOf 0x007 s + 1
      ∧ (j.abandoned = false → u.keys.queue = { j with restarted := false, seen := none } :: s.keys.queue)
      ∧ u.tracer.nextSeq = s.tracer.nextSeq + 1 := by
  obtain ⟨hout, hother, hqueue, hseq, hcount⟩ := kcuOut_leaves kcu j (mismatchNoted s)
  have hserves : (getKcu (!kcu) (kcuOut kcu j (mismatchNoted s))).inService = true := by
    rw [hother, getKcu_mismatchNoted, ho]
  have hgoes : afterKcuOut (kcuOut kcu j (mismatchNoted s)) = resume (kcuOut kcu j (mismatchNoted s)) := by
    refine if_neg ?_
    cases kcu <;> simp_all [getKcu]
  refine ⟨kcuOut kcu j (mismatchNoted s), ?_, ?_, ?_, ?_, hcount.trans (counterOf_mismatchNoted s), hqueue, hseq⟩
  · rw [exec_kcuJobComplete_mismatch hj, jobMismatch_eq, if_pos hr, if_neg (Nat.not_le.2 hn), hgoes]
  · rw [hout]
    rfl
  · rw [hout]
    rfl
  · rw [hout]
    rfl

/-- The sixteenth mismatch within a second resets the block. -/
theorem exec_kcuJobComplete_reset {kcu : Bool} {j : KcuJob} {s : State} (hj : (getKcu kcu s).job = some j)
    (hn : 15 ≤ (s.keys.mismatches.filter fun t => s.time < t + 1000000000).length) :
    ∃ u, exec (.kcuJobComplete kcu .mismatch) s = .next (blockReset 4 u) ∧ counterOf 0x007 u = counterOf 0x007 s + 1
      ∧ (j.restarted = true → u.tracer.nextSeq = s.tracer.nextSeq + 1) := by
  rw [exec_kcuJobComplete_mismatch hj, jobMismatch_eq, if_pos hn, if_pos hn]
  obtain ⟨-, -, -, hseq, hcount⟩ := kcuOut_leaves kcu j (mismatchNoted s)
  cases hr : j.restarted with
  | true => exact ⟨_, by rw [if_pos rfl], hcount.trans (counterOf_mismatchNoted s), fun _ => hseq⟩
  | false => exact ⟨_, by rw [if_neg Bool.false_ne_true], counterOf_mismatchNoted s, fun h => absurd h Bool.false_ne_true⟩

/-! ### Slots (R305, R306) -/

theorem getSlot_index (s : State) (i : BitVec 8) : (getSlot s i).index = i := by
  unfold getSlot
  cases h : s.cad.slots.find? fun k => k.index = i with
  | none => rfl
  | some k => simpa using List.find?_some h

/-- A slot put in by its number is read back. -/
theorem getSlot_setSlot (k : KeySlot) (s : State) : getSlot (setSlot k s) k.index = k :=
  congrArg (Option.getD · (freeSlot k.index))
    (find?_upsert (p := fun x : KeySlot => x.index = k.index) (a := k) (decide_eq_true rfl) s.cad.slots)

/-- The eviction of a slot that no use holds frees it, with the copies and the prefix states of its keys. -/
theorem exec_slotEvictionComplete {i : BitVec 8} {s : State} (hr : running s = true)
    (hs : (getSlot s i).state = .evicting) (hu : slotUsed s (getSlot s i).polder = false)
    (ht : ∀ q, findPolder s (getSlot s i).polder = some q → q.teardown = none) :
    ∃ u, exec (.slotEvictionComplete i) s = .next (resume u) ∧ getSlot u i = freeSlot i
      ∧ (∀ c ∈ u.stack.copies, c.1.2 ≠ (getSlot s i).polder)
      ∧ ∀ (kcu : Bool), ∀ x ∈ (getKcu kcu u).prefixes, sourceOf (getSlot s i).polder x.source = false := by
  refine ⟨zeroizeSlot (getSlot s i) .free s, ?_, ?_, fun c hc => ?_, fun kcu x hx => ?_⟩
  · cases hq : findPolder s (getSlot s i).polder with
    | none => simp [exec, execSlotEvictionComplete, hr, hs, hu, hq]
    | some q => simp [exec, execSlotEvictionComplete, hr, hs, hu, hq, ht q hq]
  · have hfree := getSlot_setSlot (freeSlot i)
      { dropPrefixes (sourceOf (getSlot s i).polder) s with
        stack := { s.stack with copies := s.stack.copies.filter fun c => c.1.2 ≠ (getSlot s i).polder } }
    unfold zeroizeSlot
    rw [getSlot_index]
    exact hfree
  · simpa using (List.mem_filter.1 hc).2
  · cases kcu <;> simpa using (List.mem_filter.1 hx).2

theorem answerPins_stack (p : PolderId) (st : Status) (s : State) : (answerPins p st s).stack = s.stack :=
  answerPins_frame p st s (agree_refl [.out, .polders, .cad, .obj, .fns, .tracer] s) rfl .stack rfl

theorem answerPins_link (p : PolderId) (st : Status) (s : State) : (answerPins p st s).link = s.link :=
  answerPins_frame p st s (agree_refl [.out, .polders, .cad, .obj, .fns, .tracer] s) rfl .link rfl

/-- After 1 ms a load that still has no victim fails with all that waits for it; one that has one by now takes it. -/
theorem exec_slotLoadTimeout {p : PolderId} {l : SlotLoad} {s : State}
    (hl : (s.cad.loads.find? fun l => l.polder = p && l.slot.isNone) = some l) (ht : l.start + 1000000 ≤ s.time) :
    let v := retryLoads s
    (victimless v p = true →
      ∃ u, exec (.slotLoadTimeout p) s = .next (resume (failUsers p .noSlot 0xFF u)) ∧ (∀ x ∈ u.cad.loads, x.polder ≠ p)
        ∧ u.stack = v.stack ∧ u.link = v.link)
      ∧ (victimless v p = false → exec (.slotLoadTimeout p) s = .next v) := by
  intro v
  have hexec : exec (.slotLoadTimeout p) s = .next (if victimless v p then resume (endSlotless p v) else v) := by
    simp [exec, execSlotLoadTimeout, hl, ht, v]
  refine ⟨fun h => ?_, fun h => by rw [hexec, h]; rfl⟩
  let w := answerPins p .noSlot v
  refine ⟨{ w with cad := { w.cad with loads := w.cad.loads.filter fun x => x.polder ≠ p } }, ?_, fun x hx => ?_,
    answerPins_stack p .noSlot v, answerPins_link p .noSlot v⟩
  · rw [hexec, if_pos h]
    rfl
  · simpa using (List.mem_filter.1 hx).2

/-! ### The DRBG and its source (R317, R320) -/

theorem completes_drbgReseed {s : State} (hr : running s = true) (hi : s.keys.instantiated = true)
    (hd : reseedDue s = true) (hf : s.keys.sourceFailed = false) : Completes .drbgReseed s fun t =>
      t.keys.requests = 0 ∧ t.keys.reseededAt = s.time ∧ t.keys.failures = 0 ∧ t.keys.buffer = s.keys.buffer
        ∧ t.keys.drbg = Config.drbgReseed s.keys.drbg ((fresh s).setWidth 384) ∧ t.free = s.free + 1 :=
  ⟨reseed s, by simp [exec, execDrbgReseed, hr, hi, hd, hf], rfl, rfl, rfl, rfl, rfl, rfl⟩

/-- A failure of the source is counted; the third in a row makes it FAILED. -/
theorem completes_entropyHealthFailure {test : BitVec 8} {s : State} (hr : running s = true)
    (hi : s.keys.instantiated = true) (hf : s.keys.sourceFailed = false) :
    Completes (.entropyHealthFailure test) s fun t =>
      t.keys.failures = s.keys.failures + 1 ∧ (t.keys.sourceFailed = true ↔ 2 ≤ s.keys.failures)
        ∧ t.keys.buffer = s.keys.buffer := by
  by_cases h : 2 ≤ s.keys.failures
  · refine ⟨_, by
      simp only [exec, execEntropyHealthFailure, hr, hi, hf, Bool.not_true, Bool.or_false, Bool.false_eq_true, if_false]
      rw [if_neg (by omega)], ?_⟩
    simp only [writeFault_keys]
    exact ⟨rfl, iff_of_true rfl h, rfl⟩
  · refine ⟨modKeys (fun u => { u with failures := s.keys.failures + 1 }) s, ?_, rfl, ?_, rfl⟩
    · simp only [exec, execEntropyHealthFailure, hr, hi, hf, Bool.not_true, Bool.or_false, Bool.false_eq_true, if_false]
      rw [if_pos (by omega)]
    · exact iff_of_false (by simp [modKeys, hf]) h

/-- Settles O33: a job by its outcome and what it has been through, a slot and a load by what holds them, the source by the
failures in a row. -/
theorem keyUnitsComplete : Obligations.KeyUnitsComplete :=
  ⟨fun _ _ _ => exec_kcuJobComplete_pass, fun _ _ _ => completes_kcuJobComplete_restart,
    fun _ _ _ => exec_kcuJobComplete_out, fun _ _ _ => exec_kcuJobComplete_reset, fun _ _ => exec_slotEvictionComplete,
    fun _ _ _ => exec_slotLoadTimeout, fun _ => completes_drbgReseed, fun _ _ => completes_entropyHealthFailure⟩

end Sys2Proof.Machine
end

section
/-! SUPPORT. Charts: step boundaries, exports and imports to their ends (R407, R418 to R426, R437), and the statement about
them. -/

namespace Sys2Proof.Machine

/-! ### What a KCU job leaves as it was (R301, R309, R312) -/

/-- What no job of the KCUs changes: whether the DRBG is instantiated and the ladder there, and which polders are defined. -/
def pastJobs (s : State) : Bool × Bool × List PolderId := (s.keys.instantiated, s.cad.ladder, s.polders.map (·.id))

theorem pastJobs_congr {s t : State} (hk : t.keys = s.keys) (hc : t.cad = s.cad) (hp : t.polders = s.polders) :
    pastJobs t = pastJobs s := by
  simp only [pastJobs, hk, hc, hp]

theorem polderIds_modPolder {f : Polder → Polder} (hf : ∀ x, (f x).id = x.id) (p : PolderId) (s : State) :
    (modPolder p f s).polders.map (·.id) = s.polders.map (·.id) := by
  simp [modPolder, alter, apply_ite Polder.id, hf]

theorem polders_postEvent (fn : FnId) (ring : BitVec 9) (e : EventRec) (s : State) :
    (postEvent fn ring e s).polders = s.polders := by simp

theorem polderIds_writeFault (n : FaultName) (i : FaultInfo) (s : State) :
    (writeFault n i s).polders.map (·.id) = s.polders.map (·.id) := by
  unfold writeFault
  extract_lets r pushed sb copied mirrored mirroredVf traced fatal
  have hcopied : copied.polders = s.polders := by
    unfold copied
    split <;> rfl
  have htraced : traced.polders = s.polders := by
    refine (emitTrace_polders ..).trans ?_
    unfold mirroredVf
    split
    · rw [polders_postEvent, polders_postEvent, hcopied]
    · rw [polders_postEvent, hcopied]
  have hfatal : fatal.polders.map (·.id) = s.polders.map (·.id) :=
    (polderIds_modPolder (by exact fun _ => rfl) ..).trans (by rw [htraced])
  split
  · split <;> exact hfatal
  · rw [htraced]

theorem pastJobs_writeFault (n : FaultName) (i : FaultInfo) (s : State) : pastJobs (writeFault n i s) = pastJobs s := by
  simp only [pastJobs, writeFault_keys, writeFault_cad, polderIds_writeFault]

theorem pastJobs_markSlotBad (k : KeySlot) (kind : BitVec 8) (s : State) : pastJobs (markSlotBad k kind s) = pastJobs s := by
  unfold markSlotBad
  rw [pastJobs_writeFault]
  refine Prod.ext rfl (Prod.ext rfl ?_)
  exact polderIds_modPolder (by exact fun _ => rfl) ..

theorem pastJobs_startJob (second : Bool) (s : State) : pastJobs (startJob second s) = pastJobs s := by
  unfold startJob
  refine iteInduction (motive := fun t => pastJobs t = pastJobs s) (fun _ => ?_) fun _ => rfl
  cases nextJob s with
  | none => rfl
  | some j =>
    refine iteInduction (motive := fun t => pastJobs t = pastJobs s) (fun _ => rfl) fun _ => ?_
    dsimp only
    cases unsoundSource s (jobSource s j.work) with
    | some slot => exact pastJobs_markSlotBad ..
    | none =>
      refine (pastJobs_congr (emitTrace_keys ..) (emitTrace_cad ..) (emitTrace_polders ..)).trans ?_
      cases second <;> rfl

theorem pastJobs_dispatchJobs (s : State) : pastJobs (dispatchJobs s) = pastJobs s := by
  have h : pastJobs (startJob true (startJob false s)) = pastJobs s := by rw [pastJobs_startJob, pastJobs_startJob]
  unfold dispatchJobs
  dsimp only
  split
  · exact h
  · exact (pastJobs_congr (wakeDomain_keys ..) (wakeDomain_cad ..) (wakeDomain_polders ..)).trans h

theorem pastJobs_needJob (cls : Nat) (work : KcuWork) (p : Option PolderId) (s : State) :
    pastJobs (needJob cls work p s) = pastJobs s := by
  unfold needJob addJob
  dsimp only
  split
  · rfl
  · split
    · exact pastJobs_writeFault ..
    · exact pastJobs_dispatchJobs _

theorem pastJobs_traceInline (j : InlineJob) (p : Option PolderId) (s : State) :
    pastJobs (traceInline j p s) = pastJobs s := by
  unfold traceInline
  dsimp only
  refine (pastJobs_congr (emitTrace_keys ..) (emitTrace_cad ..) (emitTrace_polders ..)).trans ?_
  refine (pastJobs_congr (emitTrace_keys ..) (emitTrace_cad ..) (emitTrace_polders ..)).trans ?_
  refine Prod.ext ?_ rfl
  show KeyUnits.instantiated (if _ then _ else _) = _
  split
  · rfl
  · split <;> rfl

theorem pastJobs_inlineJob (j : InlineJob) (p : Option PolderId) (s : State) :
    pastJobs (inlineJob j p s).2 = pastJobs s := by
  unfold inlineJob
  split
  · exact pastJobs_writeFault ..
  · exact pastJobs_traceInline j p s

theorem pastJobs_drbgDraw (n : Nat) (s : State) : pastJobs (drbgDraw n s) = pastJobs s := by
  have hdue : pastJobs (reseedIfDue s) = pastJobs s := by
    unfold reseedIfDue
    split <;> rfl
  unfold drbgDraw
  extract_lets due more keys spent drawn
  have hdrawn : pastJobs drawn = pastJobs s := by
    unfold drawn
    split
    · exact hdue
    · exact (pastJobs_inlineJob ..).trans hdue
  split
  · rw [pastJobs_needJob, hdrawn]
  · exact hdrawn

/-- A polder is defined after a draw of the DRBG as before it. -/
theorem findPolder_drbgDraw {p : PolderId} {q : Polder} {s : State} (n : Nat) (h : findPolder s p = some q) :
    ∃ x, findPolder (drbgDraw n s) p = some x := by
  have hids : (drbgDraw n s).polders.map (·.id) = s.polders.map (·.id) :=
    congrArg (fun x => x.2.2) (pastJobs_drbgDraw n s)
  have hid : q.id = p := by simpa using List.find?_some h
  have hmem : p ∈ (drbgDraw n s).polders.map (·.id) := by
    rw [hids, List.mem_map]
    exact ⟨q, List.mem_of_find?_eq_some h, hid⟩
  obtain ⟨x, hx, hxp⟩ := List.mem_map.1 hmem
  exact Option.isSome_iff_exists.1 (List.find?_isSome.2 ⟨x, hx, by simpa using hxp⟩)

/-! ### Step boundaries (R407) -/

/-- At its boundary a STEP_BEGIN takes effect, waits for its mark, or ends with what the Datum says of the mark. -/
theorem exec_stepBeginBoundary {c : CtxId} {x : Context} {h : StepHold} {s : State} (hc : findContext s c = some x)
    (hh : x.hold = some h) (hr : running s = true) (hf : isFatal s x.polder = false) (ha : h.atBoundary = false)
    (hb : atBoundary s c = true) :
    let u := recordStepLate x h (modContext c (fun y => { y with hold := some { h with atBoundary := true } }) s)
    (h.mark = 0 → exec (.stepBeginBoundary c) s = .next (completeStep c u))
      ∧ (h.mark ≠ 0 → markUse h.mark u = .later → exec (.stepBeginBoundary c) s
        = .next (enqueueMark h.mark (.stepBegin x.polder c) u))
      ∧ (∀ st, h.mark ≠ 0 → markUse h.mark u = .refused st → exec (.stepBeginBoundary c) s = .next (endHold c st u)) := by
  intro u
  refine ⟨fun h0 => ?_, fun h0 hu => ?_, fun st h0 hu => ?_⟩
  · simp only [exec, execStepBeginBoundary, hc, hh, hr, hf, ha, hb, Bool.not_true, Bool.or_false, Bool.false_eq_true,
      if_false, if_pos h0]
    rfl
  · simp only [exec, execStepBeginBoundary, hc, hh, hr, hf, ha, hb, Bool.not_true, Bool.or_false, Bool.false_eq_true,
      if_false, if_neg h0]
    unfold u at hu ⊢
    rw [hu]
  · simp only [exec, execStepBeginBoundary, hc, hh, hr, hf, ha, hb, Bool.not_true, Bool.or_false, Bool.false_eq_true,
      if_false, if_neg h0]
    unfold u at hu ⊢
    rw [hu]

theorem exec_stepBeginBoundary_fatal {c : CtxId} {x : Context} {h : StepHold} {s : State}
    (hc : findContext s c = some x) (hh : x.hold = some h) (hr : running s = true) (hf : isFatal s x.polder = true) :
    exec (.stepBeginBoundary c) s = .next (endHold c .squashed s) := by
  simp [exec, execStepBeginBoundary, hc, hh, hr, hf]

/-! ### Exports (R418, R419, R437) -/

/-- The freeze of an export that has nothing against it: the polder is frozen, and the export keeps what the freeze fixes. -/
def frozenBy (p : PolderId) (e : Export) (f : Frozen) (s : State) : State :=
  modPolder p (fun x => { x with freeze := .chart e.chart })
    (modCharts (fun c => { c with
      exports := alter (fun x => x.polder = p) (fun x => { x with frozen := some f }) c.exports }) (drbgDraw 16 s))

theorem isFrozen_frozenBy {p : PolderId} {q : Polder} {s : State} (e : Export) (f : Frozen)
    (h : findPolder s p = some q) : isFrozen (frozenBy p e f s) p = true := by
  obtain ⟨x, hx⟩ := findPolder_drbgDraw 16 h
  have hid : x.id = p := by simpa using List.find?_some hx
  unfold frozenBy isFrozen
  rw [findPolder_modPolder (by exact fun _ => rfl)]
  have hx' : findPolder (modCharts (fun c => { c with
      exports := alter (fun x => x.polder = p) (fun x => { x with frozen := some f }) c.exports }) (drbgDraw 16 s)) p
      = some x := hx
  rw [hx']
  simp [hid]

/-- Every export of the polder keeps what the freeze fixed. -/
theorem frozen_of_mem_frozenBy {p : PolderId} {e : Export} {f : Frozen} {s : State} :
    ∀ x ∈ (frozenBy p e f s).charts.exports, x.polder = p → x.frozen = some f := by
  intro x hx hp
  obtain ⟨y, -, rfl⟩ := List.mem_map.1 hx
  dsimp only at hp ⊢
  split at hp
  · next h => rw [if_pos h]
  · next h => exact absurd (decide_eq_true hp) h

theorem completes_chartFreeze {p : PolderId} {e : Export} {q : Polder} {s : State}
    (he : (s.charts.exports.find? fun e => e.polder = p) = some e) (hq : findPolder s p = some q)
    (hr : running s = true) (hn : e.frozen = none) (ht : s.time < e.start + 10000000000) (hf : isFatal s p = false)
    (hw : exportWaits s p = false) (hd : serves s chartDomain = true)
    (hstep : ∀ c ∈ polderContexts s q.id, c.step = e.step) (hlen : sealedLen s q ≤ e.len.toNat)
    (hdrbg : drbgAvailable s = true) :
    Completes (.chartFreeze p) s fun t => isFrozen t p = true ∧ ∀ x ∈ t.charts.exports, x.polder = p →
      ∃ f, x.frozen = some f ∧ f.datum = s.datum.value ∧ f.records = stateRecords s q ∧ f.plots = polderPlots s q
        ∧ f.len = sealedLen s q ∧ f.header = chartHeader s q e f.datum f.salt := by
  have hid : q.id = p := by simpa using List.find?_some hq
  let m := markWork chartDomain s
  let f := frozenOf m q e ((drbgValue m).setWidth 128)
  have htake : takeFreeze q e m = frozenBy p e f m := by
    have hsteps : ((polderContexts s q.id).any fun c => c.step ≠ e.step) = false := by
      simpa using fun c hc => hstep c hc
    have hsteps : ((polderContexts m q.id).any fun c => c.step ≠ e.step) = false := hsteps
    have hfits : ¬e.len.toNat < sealedLen m q := Nat.not_lt.2 hlen
    have hdraws : drbgAvailable m = true := hdrbg
    unfold takeFreeze
    rw [hsteps, if_neg Bool.false_ne_true, if_neg hfits, hdraws, hid]
    rfl
  refine ⟨frozenBy p e f m, ?_, isFrozen_frozenBy (s := m) e f hq, fun x hx hp =>
    ⟨f, frozen_of_mem_frozenBy x hx hp, rfl, rfl, rfl, rfl, rfl⟩⟩
  simp only [exec, execChartFreeze, he, hq, hr, hn, hf, hw, withDomain_of_serves hd, Nat.not_le.2 ht, Bool.not_true,
    Option.isSome_none, Bool.or_false, decide_false, Bool.false_eq_true, if_false]
  rw [show takeFreeze q e (markWork chartDomain s) = _ from htake]

theorem exec_chartExportTimeout {p : PolderId} {e : Export} {s : State}
    (he : (s.charts.exports.find? fun e => e.polder = p) = some e) (hr : running s = true) (hn : e.frozen = none)
    (ht : e.start + 10000000000 ≤ s.time) : exec (.chartExportTimeout p) s
      = .next (resume (endExport p (if isFatal s p then .squashed else .timeout) [] s)) := by
  simp [exec, execChartExportTimeout, he, hr, hn, ht]

/-- The export of a fatal polder ends with ST_SQUASHED, and a frozen one lets its polder go. -/
theorem exec_chartExport_fatal {p : PolderId} {e : Export} {q : Polder} {s : State}
    (he : (s.charts.exports.find? fun e => e.polder = p) = some e) (hq : findPolder s p = some q)
    (hr : running s = true) (hf : isFatal s p = true) :
    (e.frozen = none → exec (.chartFreeze p) s = .next (resume (endExport p .squashed [] s)))
      ∧ (e.frozen ≠ none → exec (.chartWritten p) s = .next (resume (thawChart p (endExport p .squashed [] s)))) := by
  refine ⟨fun hn => ?_, fun hn => ?_⟩
  · simp [exec, execChartFreeze, he, hq, hr, hf, hn]
  · obtain ⟨f, hf'⟩ := Option.ne_none_iff_exists'.1 hn
    simp [exec, execChartWritten, he, hq, hr, hf, hf']

/-- A frozen export whose keys are there is written, and the chart counts as exported. -/
theorem exec_chartWritten {p : PolderId} {e : Export} {q : Polder} {f : Frozen} {s u : State}
    (he : (s.charts.exports.find? fun e => e.polder = p) = some e) (hq : findPolder s p = some q)
    (hf : e.frozen = some f) (hr : running s = true) (hfatal : isFatal s p = false) (hh : hungFor s 0x0800 none = false)
    (hd : serves s chartDomain = true)
    (hk : needKeys p (7 :: chartKinds s.boot.role) (markWork chartDomain s) = (.ready, u)) :
    ∃ v w, exec (.chartWritten p) s = .next (resume (endExport p .ok (chartResult f.len f.plots) v)) ∧ w = deedRewraps p u
      ∧ v = modPolder p (fun x => { x with exported := x.exported ++ [e.chart] })
        (hostWrite e.fn e.addr (chartBytes w q e f) w) := by
  have hk' : needKeys p (7 :: chartKinds (markWork chartDomain s).boot.role) (markWork chartDomain s) = (.ready, u) := hk
  refine ⟨_, _, ?_, rfl, rfl⟩
  simp only [exec, execChartWritten, he, hq, hf, hr, hfatal, hh, withDomain_of_serves hd, writeChart, hk', Bool.not_true,
    Bool.false_eq_true, if_false]

/-! ### Imports (R422 to R426) -/

/-- An import whose keys are there restores what its chart carries, or ends with the check that failed. -/
theorem exec_chartImportComplete {p : PolderId} {chart : Bytes} {m : Import} {q : Polder} {s u : State}
    (hm : (s.charts.imports.find? fun m => m.polder = p) = some m) (hq : findPolder s p = some q)
    (hr : running s = true) (hh : hungFor s 0x0800 none = false) (hd : serves s chartDomain = true)
    (hk : needKeys p (7 :: chartKinds s.boot.role) (markWork chartDomain s) = (.ready, u)) :
    let w := deedRewraps p u
    let c := readChart (polderKey w p 7) (chartKinds w.boot.role).length (padTo m.len.toNat chart)
    (importFail w q m c = none →
        exec (.chartImportComplete p chart) s = .next (resume (endImport p .ok (restoreChart q m c w))))
      ∧ (∀ st, importFail w q m c = some st →
        exec (.chartImportComplete p chart) s = .next (resume (endImport p st w))) := by
  intro w c
  have hk' : needKeys p (7 :: chartKinds (markWork chartDomain s).boot.role) (markWork chartDomain s) = (.ready, u) := hk
  refine ⟨fun hn => ?_, fun st hs => ?_⟩
  · simp only [exec, execChartImportComplete, hm, hq, hr, hh, withDomain_of_serves hd, takeChart, hk', Bool.not_true,
      Bool.or_false, Bool.false_eq_true, if_false]
    rw [hn]
  · simp only [exec, execChartImportComplete, hm, hq, hr, hh, withDomain_of_serves hd, takeChart, hk', Bool.not_true,
      Bool.or_false, Bool.false_eq_true, if_false]
    rw [hs]

/-- Settles O36: a step by its mark, an export and an import by their polder's state and their checks. -/
theorem chartsComplete : Obligations.ChartsComplete :=
  ⟨fun _ _ _ _ => exec_stepBeginBoundary, fun _ _ _ _ => exec_stepBeginBoundary_fatal,
    fun _ _ _ _ => completes_chartFreeze, fun _ _ _ => exec_chartExportTimeout, fun _ _ _ _ => exec_chartExport_fatal,
    fun _ _ _ _ _ _ => exec_chartWritten, fun _ _ _ _ _ _ => exec_chartImportComplete⟩

end Sys2Proof.Machine
end

section
/-! SUPPORT. The ends of teardowns and destructions (R366, R371, R372, R449, R450), and the statement about them. -/

namespace Sys2Proof.Machine

/-! ### Teardowns (R449, R450) -/

theorem exec_teardownDrained {p : PolderId} {q : Polder} {d : Teardown} {s : State} (hq : findPolder s p = some q)
    (hd : q.teardown = some d) (hn : d.drained = false)
    (hw : d.forced = true ∨ outstanding p s = 0 ∨ d.start + 10000000 ≤ s.time) :
    exec (.teardownDrained p) s = .next (drainPolder q d s) := by
  have hdue : (d.forced || outstanding p s = 0 || d.start + 10000000 ≤ s.time) = true := by
    simpa [or_assoc] using hw
  simp [exec, execTeardownDrained, hq, hd, hn, hdue]

/-- Before 10 ms a teardown with work outstanding that does not force it goes no further. -/
theorem exec_teardown_early {p : PolderId} {q : Polder} {d : Teardown} {s : State} (hq : findPolder s p = some q)
    (hd : q.teardown = some d) (hn : d.drained = false) (hf : d.forced = false) (ho : outstanding p s ≠ 0)
    (ht : s.time < d.start + 10000000) :
    exec (.teardownDrained p) s = .next s ∧ exec (.teardownComplete p) s = .next s := by
  refine ⟨?_, ?_⟩
  · simp [exec, execTeardownDrained, hq, hd, hn, hf, ho, Nat.not_le.2 ht]
  · simp [exec, execTeardownComplete, hq, hd, hn]

/-- The packets of a polder that fail check 11 are counted at it, and at no other. -/
theorem findPolder_dropUnreleased {p r : PolderId} (h : r ≠ p) (s : State) :
    findPolder (dropUnreleased p s) r = findPolder s r := by
  have hcount : ∀ (f : PolderCounters → PolderCounters) (t : State),
      findPolder (modPolderCounters p f t) r = findPolder t r := by
    intro f t
    unfold modPolderCounters
    rw [findPolder_modPolder (by exact fun _ => rfl)]
    cases hx : findPolder t r with
    | none => rfl
    | some x =>
      have hid : x.id = r := by simpa using List.find?_some hx
      rw [Option.map_some, if_neg (by rw [hid]; exact h)]
  unfold dropUnreleased
  dsimp only
  refine (foldl_keeps (f := fun t => findPolder t r) ?_ _ _).trans rfl
  exact fun t w => .trans rfl (hcount (fun c => { c with goneDrop := satInc c.goneDrop }) t)

/-- A polder that is drained is no longer defined, and every other is as it was. -/
theorem exec_teardownComplete {p : PolderId} {q : Polder} {d : Teardown} {s : State} (hq : findPolder s p = some q)
    (hd : q.teardown = some d) (hn : d.drained = true) :
    ∃ u, exec (.teardownComplete p) s = .next (resume u) ∧ findPolder u p = none
      ∧ ∀ r ≠ p, findPolder u r = findPolder s r := by
  have hid : q.id = p := by simpa using List.find?_some hq
  let v := dropUnreleased q.id s
  let u := finishAll d.waiters .ok { v with polders := v.polders.filter fun x => x.id ≠ q.id }
  have hpolders : u.polders = v.polders.filter fun x => x.id ≠ q.id := finishAll_polders ..
  refine ⟨u, ?_, ?_, fun r hr => ?_⟩
  · simp only [exec, execTeardownComplete, hq, hd, hn, if_true]
    rfl
  · unfold findPolder
    rw [hpolders, hid]
    simp [List.find?_filter]
  · rw [← findPolder_dropUnreleased (hid ▸ hr : r ≠ q.id) s]
    show u.polders.find? _ = v.polders.find? _
    rw [hpolders, List.find?_filter, hid]
    congr 1
    funext x
    by_cases hx : x.id = r <;> simp [hx, hr]

/-! ### Contexts and memory objects (R366, R371, R372) -/

theorem exec_contextDestroyComplete {c : CtxId} {x : Context} {s : State} (hc : findContext s c = some x)
    (hx : x.state = .destroying) (hi : contextIdle s c = true) :
    exec (.contextDestroyComplete c) s = .next (freeContext c s) := by
  simp [exec, execContextDestroyComplete, hc, hx, hi]

theorem exec_memobjLastReference {m : BitVec 13} {x : MemObj} {s : State} (hm : findMemobj s m = some x)
    (hd : x.doomed = true) (hr : memobjReferred s x = false) : exec (.memobjLastReference m) s
      = .next (resume (settleMemobjs (x.plots.foldl (fun t p => if plotReleasing t p then t else startRelease p [] t)
          { s with fau := { s.fau with
            regions := alter (fun g => x.regions.contains g.index) (fun g => { g with withdrawing := true })
              s.fau.regions } }))) := by
  simp only [exec, execMemobjLastReference, hm, hd, hr, Bool.not_true, Bool.or_false, Bool.false_eq_true, if_false]

/-- Settles O35: a teardown by how far it has come, a context and a memory object by what still holds them. -/
theorem destructionsComplete : Obligations.DestructionsComplete :=
  ⟨fun _ _ _ _ => exec_teardownDrained, fun _ _ _ _ => exec_teardownComplete, fun _ _ _ _ => exec_teardown_early,
    fun _ _ _ => exec_contextDestroyComplete, fun _ _ _ => exec_memobjLastReference⟩

end Sys2Proof.Machine
end

section
/-! SUPPORT. Engine hangs and the replay of their suspects (R439, R440), and the statement about them. -/

namespace Sys2Proof.Machine

/-! ### The suspects of a hang (R440) -/

theorem mem_insertCtx {a c : CtxId} {l : List CtxId} (h : a = c ∨ a ∈ l) : a ∈ insertCtx c l := by
  induction l with
  | nil => simpa [insertCtx] using h
  | cons x t ih =>
    unfold insertCtx
    split
    · simpa using h
    · split
      · next hx => simpa [hx] using h
      · rcases h with rfl | h
        · exact List.mem_cons_of_mem _ (ih (.inl rfl))
        · rcases List.mem_cons.1 h with rfl | h
          · exact List.mem_cons_self ..
          · exact List.mem_cons_of_mem _ (ih (.inr h))

/-- A context put in, or there before, is in the list that insertions make. -/
theorem mem_foldl_insertCtx {a : CtxId} {l m : List CtxId} (h : a ∈ l ∨ a ∈ m) :
    a ∈ l.foldl (fun l c => insertCtx c l) m := by
  induction l generalizing m with
  | nil => simpa using h
  | cons x t ih =>
    refine ih ?_
    rcases h with h | h
    · rcases List.mem_cons.1 h with rfl | h
      · exact .inr (mem_insertCtx (.inl rfl))
      · exact .inl h
    · exact .inr (mem_insertCtx (.inr h))

theorem mem_suspectsOf {c : CtxId} {unit : BitVec 16} {s : State} (h : c ∈ engineWork s unit) : c ∈ suspectsOf s unit :=
  mem_foldl_insertCtx (.inl h)

/-- The suspects that the culverts tell of join those that a hang has. -/
theorem mem_joined {a : CtxId} {h : Hang} {told l : List CtxId} (ha : a ∈ l) :
    a ∈ told.foldl (fun l c => if h.current = some c then l else insertCtx c l) l := by
  induction told generalizing l with
  | nil => exact ha
  | cons x t ih =>
    refine ih ?_
    dsimp only
    split
    · exact ha
    · exact mem_insertCtx (.inr ha)

/-- A reset engine keeps every hang, with at least the suspects that it had. -/
theorem hang_resetEngine {unit : BitVec 16} {h : Hang} {s : State} (hh : h ∈ s.tracer.hangs) (hu : h.unit = unit) :
    ∃ x ∈ (resetEngine unit s).tracer.hangs, x.unit = unit ∧ x.start = h.start ∧ x.waiters = h.waiters
      ∧ ∀ c ∈ h.suspects, c ∈ x.suspects := by
  have hnoted : { h with units := unitsIn s unit } ∈ (noteUnits unit s).tracer.hangs :=
    List.mem_map.2 ⟨h, hh, by simp [hu]⟩
  unfold resetEngine
  extract_lets noted link dropped
  have hdropped : { h with units := unitsIn s unit } ∈ dropped.tracer.hangs := by
    unfold dropped
    split <;> exact hnoted
  clear_value dropped
  split
  · next d hd =>
    refine ⟨_, List.mem_map.2 ⟨_, hdropped, rfl⟩, ?_⟩
    rw [if_pos (by simp [hu])]
    exact ⟨hu, rfl, rfl, fun c hc => mem_joined hc⟩
  · exact ⟨_, hdropped, hu, rfl, rfl, fun c hc => hc⟩

/-- A reset receive slice drops the packets that wait in it. -/
theorem rxWait_resetEngine {unit : BitVec 16} {s : State} (h : unit.toNat / 256 = 2) :
    ∀ x ∈ (resetEngine unit s).link.rxWait, x.2.1.toNat ≠ unit.toNat % 256 := by
  intro x hx
  have hlink : (resetEngine unit s).link.rxWait = s.link.rxWait.filter fun w => w.2.1.toNat ≠ unit.toNat % 256 := by
    unfold resetEngine
    simp only [h, if_true]
    split <;> rfl
  rw [hlink, List.mem_filter] at hx
  exact of_decide_eq_true hx.2

/-! ### The watchdog (R439, R440) -/

/-- The hang procedure up to its first suspect, before that one's replay. -/
def hangBegun (unit : BitVec 16) (s : State) : State :=
  let take := sampleFree s
  let number := if take then s.tracer.nextSample else BitVec.allOnes 32
  let t := writeFault .engineHang { unit := unit, count := (suspectsOf s unit).length, detail := leBytes 4 number.toNat } s
  let t := if take then takeSample unit s.tracer.nextSeq t else t
  resetEngine unit (modTracer (fun x => { x with
    hangs := x.hangs ++ [{ unit := unit, current := none, suspects := suspectsOf s unit, units := [], start := t.time,
                           waiters := [] }] }) t)

theorem beginHang_eq (unit : BitVec 16) (s : State) : beginHang unit true [] s = advanceHang unit (hangBegun unit s) := rfl

theorem takeSample_time (unit : BitVec 16) (seq : BitVec 64) (s : State) : (takeSample unit seq s).time = s.time :=
  takeSample_frame unit seq s
    (agree_refl [.out, .pins, .sb, .polders, .cad, .keys, .stack, .obj, .fns, .tracer, .power, .free] s) rfl .time rfl

/-- The hang is noted with every context that has work in the engine as a suspect. -/
theorem hang_hangBegun (unit : BitVec 16) (s : State) :
    ∃ h ∈ (hangBegun unit s).tracer.hangs, h.unit = unit ∧ h.start = s.time ∧ h.waiters = []
      ∧ ∀ c ∈ engineWork s unit, c ∈ h.suspects := by
  unfold hangBegun
  extract_lets take number faulted sampled
  have htime : sampled.time = s.time := by
    unfold sampled
    split
    · rw [takeSample_time, writeFault_time]
    · exact writeFault_time ..
  let h : Hang := { unit := unit, current := none, suspects := suspectsOf s unit, units := [], start := sampled.time,
                    waiters := [] }
  have hmem : h ∈ (modTracer (fun x => { x with hangs := x.hangs ++ [h] }) sampled).tracer.hangs :=
    List.mem_append_right _ (List.mem_singleton.2 rfl)
  obtain ⟨x, hx, hu, hstart, hwaiters, hsuspects⟩ := hang_resetEngine hmem rfl
  exact ⟨x, hx, hu, hstart.trans htime, hwaiters, fun c hc => hsuspects c (mem_suspectsOf hc)⟩

/-- The watchdog of an engine that has held work without doing any starts the hang procedure. -/
theorem exec_engineWatchdogExpiry {unit : BitVec 16} {s : State} (hr : running s = true) (hw : watched s unit = true)
    (hn : findHang s unit = none) (hh : engineHolds s unit = true)
    (ht : engineAt s unit + watchdogPeriod s unit ≤ s.time) :
    ∃ w, (let u := countEvent Config.hangCause (advanceHang unit w)
        exec (.engineWatchdogExpiry unit) s
          = .next (if u.sb.leaving = true ∧ u.sb.outOfService = false then leaveService u else u))
      ∧ (∃ h ∈ w.tracer.hangs, h.unit = unit ∧ h.start = s.time ∧ h.waiters = []
          ∧ ∀ c ∈ engineWork s unit, c ∈ h.suspects)
      ∧ (unit.toNat / 256 = 2 → ∀ x ∈ w.link.rxWait, x.2.1.toNat ≠ unit.toNat % 256) := by
  refine ⟨hangBegun unit s, ?_, hang_hangBegun unit s, fun h => rxWait_resetEngine h⟩
  simp only [exec, execEngineWatchdogExpiry, hr, hw, hn, hh, Nat.not_lt.2 ht, beginHang_eq, Bool.not_true, Bool.or_false,
    decide_false, Bool.false_eq_true, if_false, Bool.and_eq_true, Bool.not_eq_true']

theorem exec_engineWatchdogExpiry_early {unit : BitVec 16} {s : State} (hn : findHang s unit = none)
    (hh : engineHolds s unit = true) (ht : s.time < engineAt s unit + watchdogPeriod s unit) :
    exec (.engineWatchdogExpiry unit) s = .next s := by
  simp [exec, execEngineWatchdogExpiry, hn, hh, ht]

/-- A context's accesses in a slice, where its work there ends, are there no more. -/
theorem stack_squashIn {unit : BitVec 16} {c : CtxId} {s : State} (h : unit.toNat / 256 = 3) :
    ∀ x ∈ (squashIn unit c s).stack.reads ++ (squashIn unit c s).stack.keyWait ++ (squashIn unit c s).stack.fillWait,
      ¬(sceSlice (plotOf x.req.addr.toNat) = unit.toNat % 256 ∧ x.req.context = c) := by
  let mine := fun (w : StackWait) => sceSlice (plotOf w.req.addr.toNat) = unit.toNat % 256 && w.req.context = c
  have hstack : (squashIn unit c s).stack = { s.stack with
      reads := s.stack.reads.filter fun w => !mine w
      keyWait := s.stack.keyWait.filter fun w => !mine w
      fillWait := s.stack.fillWait.filter fun w => !mine w } := by
    simp only [squashIn, h]
    refine (foldl_keeps (f := State.stack) ?_ _ _).trans rfl
    exact fun _ _ => rfl
  rw [hstack, ← List.filter_append, ← List.filter_append]
  intro x hx
  have hnot : mine x = false := by simpa using (List.mem_filter.1 hx).2
  simpa [mine] using hnot

/-- During a suspect's replay the watchdog ends what the suspect has in the engine. -/
theorem exec_engineWatchdogExpiry_replay {unit : BitVec 16} {h : Hang} {c : CtxId} {s : State} (hr : running s = true)
    (hw : watched s unit = true) (hh : findHang s unit = some h) (hc : h.current = some c)
    (ht : h.start + watchdogPeriod s unit ≤ s.time) :
    ∃ w, exec (.engineWatchdogExpiry unit) s = .next (advanceHang unit w)
      ∧ (unit.toNat / 256 = 3 → ∀ x ∈ w.stack.reads ++ w.stack.keyWait ++ w.stack.fillWait,
          ¬(sceSlice (plotOf x.req.addr.toNat) = unit.toNat % 256 ∧ x.req.context = c)) := by
  refine ⟨_, by simp only [exec, execEngineWatchdogExpiry, hr, hw, hh, hc, ht, Bool.not_true, Bool.or_false,
    Bool.false_eq_true, if_false, if_true]; rfl, fun h3 => ?_⟩
  have hstack : ∀ t, (settleReset c t).stack = t.stack := fun t =>
    settleReset_frame c t (agree_refl [.out, .sca, .obj, .fns, .tracer] t) rfl .stack rfl
  have hstop : ∀ t, (stopContext c t).stack = t.stack := fun t =>
    stopContext_frame c t (agree_refl [.out, .sca, .obj] t) rfl .stack rfl
  rw [hstack, writeFault_stack, hstop]
  exact stack_squashIn h3

/-! ### A suspect cleared (R440) -/

theorem findHang_modTracer_filter (unit : BitVec 16) (s : State) :
    let w := modTracer (fun t => { t with hangs := t.hangs.filter fun x => x.unit ≠ unit }) s
    findHang w unit = none ∧ ∀ v ≠ unit, findHang w v = findHang s v := by
  intro w
  refine ⟨?_, fun v hv => ?_⟩
  · simp [findHang, w, modTracer, List.find?_filter]
  · show (s.tracer.hangs.filter _).find? _ = s.tracer.hangs.find? _
    rw [List.find?_filter]
    congr 1
    funext x
    by_cases hx : x.unit = v <;> simp [hx, hv]

theorem findHang_modTracer_upsert {unit : BitVec 16} {next : Hang} (hu : next.unit = unit) (s : State) :
    let w := modTracer (fun t => { t with hangs := upsert (fun x => x.unit = unit) next t.hangs }) s
    findHang w unit = some next ∧ ∀ v ≠ unit, findHang w v = findHang s v := by
  intro w
  refine ⟨find?_upsert (p := fun x : Hang => x.unit = unit) (a := next) (decide_eq_true hu) _,
    fun v hv => find?_upsert_other ?_ (fun x hx => ?_) _⟩
  · exact decide_eq_false fun e => hv (e.symm.trans hu)
  · exact decide_eq_false fun e => hv (e.symm.trans (of_decide_eq_true hx))

/-- A suspect is cleared once its work of the reset has ended, and the next one goes on alone. -/
theorem exec_suspectCleared {unit : BitVec 16} {h : Hang} {c : CtxId} {s : State} (hh : findHang s unit = some h)
    (hc : h.current = some c) :
    (suspectDone s h c = false → exec (.suspectCleared unit) s = .next s)
      ∧ (suspectDone s h c = true → h.suspects = [] → h.waiters = [] →
        ∃ w, exec (.suspectCleared unit) s = .next (resumeWork w) ∧ findHang w unit = none
          ∧ ∀ v ≠ unit, findHang w v = findHang s v)
      ∧ (∀ d rest, suspectDone s h c = true → h.suspects = d :: rest →
        let next : Hang := { h with current := some d, suspects := rest, start := s.time }
        ∃ w, (let v := resumeWork w
            exec (.suspectCleared unit) s
              = .next (if (unitDomain v unit).any (serves v) then resendSuspect next d v else v))
          ∧ findHang w unit = some next ∧ (∀ v ≠ unit, findHang w v = findHang s v) ∧ w.out = s.out) := by
  have hunit : h.unit = unit := by simpa using List.find?_some hh
  have hexec : exec (.suspectCleared unit) s = .next (if suspectDone s h c then advanceHang unit s else s) := by
    simp only [exec, execSuspectCleared, hh, hc]
  refine ⟨fun hd => by rw [hexec, hd]; rfl, fun hd hs hw => ?_, fun d rest hd hs => ?_⟩
  · refine ⟨_, ?_, findHang_modTracer_filter unit s⟩
    rw [hexec, if_pos hd]
    simp only [advanceHang, hh, hs, hw]
    rfl
  · intro next
    obtain ⟨hnext, hothers⟩ := findHang_modTracer_upsert (next := next) hunit s
    refine ⟨_, ?_, hnext, hothers, rfl⟩
    rw [hexec, if_pos hd]
    simp only [advanceHang, hh, hs]
    rfl

/-- Settles O34: the watchdog by whether its engine's hang runs, a suspect by whether its work has ended. -/
theorem engineHangsComplete : Obligations.EngineHangsComplete :=
  ⟨fun _ _ => exec_engineWatchdogExpiry, fun _ _ _ _ => exec_engineWatchdogExpiry_replay,
    fun _ _ => exec_engineWatchdogExpiry_early, fun _ _ _ _ => exec_suspectCleared⟩

end Sys2Proof.Machine
end

section
/-! SUPPORT. Charts as commands begin and end them (R418, R419, R423, R426, R427, R437), and the statement about them. -/

namespace Sys2Proof.Machine

theorem findPolder_congr {s t : State} (h : t.polders = s.polders) (p : PolderId) : findPolder t p = findPolder s p := by
  simp only [findPolder, h]

theorem polderLive_of_find {s : State} {p : PolderId} {q : Polder} (h : findPolder s p = some q)
    (ht : q.teardown = none) : polderLive s p = true := by
  simp [polderLive, h, ht]

/-- Granules taken of the pool add to what the user holds. -/
theorem assocGet_poolTake (u : PoolUser) (n : Nat) (s : State) :
    assocGet u 0 (poolTake u n s).pool = assocGet u 0 s.pool + n :=
  assocGet_assocSet_same ..

/-! ### Export and import (R418, R423) -/

section
variable {o : Origin} {tag : BitVec 32} {p : PolderId} {q : Polder} {s : State}

theorem answers_chartExport_fatal {chart : BitVec 32} {step addr len : BitVec 64} (hq : findPolder s p = some q)
    (ht : q.teardown = none) (hm : mayNamePolder o p s = true) (h : Passes (.chartExport o tag p chart step addr len) s)
    (hl : len ≠ 0) (hf : q.fatal = true) :
    Answers (.chartExport o tag p chart step addr len) s .squashed [] fun t => t.charts = s.charts := by
  refine answers_refused h rfl rfl rfl ?_ rfl ?_ (refuse_charts ..)
  · simp [hm]
  · simp [firstFail, polderLive_of_find hq ht, isFatal, hq, hf, show ¬len = 0#64 from hl]

/-- An export that nothing stands against begins, with its granules. -/
theorem answers_chartExport {chart : BitVec 32} {step addr len : BitVec 64} (hq : findPolder s p = some q)
    (ht : q.teardown = none) (hm : mayNamePolder o p s = true) (h : Passes (.chartExport o tag p chart step addr len) s)
    (hl : len ≠ 0) (hf : q.fatal = false) (hr : ∀ r ∈ s.rings.rings, r.polder ≠ p) (hp : 256 ≤ poolFree s)
    (hb : chartBusy s p = false) (hc : chart ∉ q.exported) :
    Answers (.chartExport o tag p chart step addr len) s .pending [] fun t =>
      (∃ e, t.charts.exports = s.charts.exports ++ [e] ∧ e.polder = p ∧ e.chart = chart ∧ e.step = step
        ∧ e.addr = addr ∧ e.len = len ∧ e.frozen = none ∧ e.fn = ownerFn o)
        ∧ assocGet (.chart p) 0 t.pool = assocGet (.chart p) 0 s.pool + 256 := by
  have hrings : (s.rings.rings.any fun r => r.polder = p) = false := by simpa using hr
  let e : Export :=
    { polder := p, chart := chart, step := step, addr := addr, len := len, origin := o, tag := tag, start := s.time,
      frozen := none, waits := false, fn := ownerFn o }
  refine answers_effect h rfl (runCmd_eq rfl rfl) ?_ rfl ?_ ?_ ⟨⟨e, ?_, rfl, rfl, rfl, rfl, rfl, rfl, rfl⟩, ?_⟩
  · simp [hm]
  · simp [firstFail, polderLive_of_find hq ht, isFatal, hq, hf, show ¬len = 0#64 from hl, hrings, Nat.not_lt.2 hp, hb, hc]
  · exact response_mem_reply tag 0x0901 .pending [] (h.canSeal rfl) rfl
  · show (pend o tag 0x0901 s).charts.exports ++ [_] = _
    rw [pend_charts]
  · exact (assocGet_poolTake ..).trans (congrArg (fun l => assocGet (.chart p) 0 l + 256) (pend_pool o tag 0x0901 s))

theorem answers_chartImport {mo : BitVec 16} {chart : BitVec 32} {addr len : BitVec 64} (hq : findPolder s p = some q)
    (ht : q.teardown = none) (hm : mayNamePolder o p s = true) (h : Passes (.chartImport o tag p mo chart addr len) s)
    (hl : len ≠ 0) (hrole : s.boot.role ≠ .t) (hb : chartBusy s p = false) (hp : 256 ≤ poolFree s)
    (hn : notFresh s p mo = false) (hd : memobjDenied o mo false s = false) :
    Answers (.chartImport o tag p mo chart addr len) s .pending [] fun t =>
      (∃ m, t.charts.imports = s.charts.imports ++ [m] ∧ m.polder = p ∧ m.memobj = mo.setWidth 13 ∧ m.chart = chart
        ∧ m.addr = addr ∧ m.len = len)
        ∧ assocGet (.chart p) 0 t.pool = assocGet (.chart p) 0 s.pool + 256 := by
  let m : Import :=
    { polder := p, memobj := mo.setWidth 13, chart := chart, addr := addr, len := len, fn := ownerFn o, waits := false,
      origin := o, tag := tag }
  refine answers_effect h rfl (runCmd_eq rfl rfl) ?_ rfl ?_ ?_ ⟨⟨m, ?_, rfl, rfl, rfl, rfl, rfl⟩, ?_⟩
  · simp [hm, hd]
  · simp [firstFail, polderLive_of_find hq ht, show ¬len = 0#64 from hl, hrole, Nat.not_lt.2 hp, hb, hn]
  · exact response_mem_reply tag 0x0902 .pending [] (h.canSeal rfl) rfl
  · show (pend o tag 0x0902 s).charts.imports ++ [_] = _
    rw [pend_charts]
  · exact (assocGet_poolTake ..).trans (congrArg (fun l => assocGet (.chart p) 0 l + 256) (pend_pool o tag 0x0902 s))

/-! ### Resumption and discarding (R426, R427) -/

theorem exec_chartResume {chart : BitVec 32} {mark : Datum} (hq : findPolder s p = some q) (ht : q.teardown = none)
    (hm : mayNamePolder o p s = true) (h : Passes (.chartResume o tag p chart mark) s) (hh : heldChart q = some chart)
    (hb : chartBusy s p = false) :
    exec (.chartResume o tag p chart mark) s = .next (match markUse mark s with
      | .refused st => refuse o tag 0x0903 st s
      | .now => resumeChart p chart (countLate mark (reply o tag 0x0903 .ok [] s))
      | .later => enqueueMark mark (.chartResume p chart) (reply o tag 0x0903 .ok [] s)) := by
  refine (exec_effect h rfl (runCmd_eq rfl rfl) ?_ rfl ?_).trans ?_
  · simp [hm]
  · simp [firstFail, hq, ht, hh, hb]
  · rfl

/-- A resumption for a later mark waits for it. -/
theorem answers_chartResume_later {chart : BitVec 32} {mark : Datum} (hq : findPolder s p = some q)
    (ht : q.teardown = none) (hm : mayNamePolder o p s = true) (h : Passes (.chartResume o tag p chart mark) s)
    (hh : heldChart q = some chart) (hb : chartBusy s p = false) (hu : markUse mark s = .later) :
    Answers (.chartResume o tag p chart mark) s .ok [] fun t =>
      t.polders = s.polders ∧ t.datum.marks = s.datum.marks ++ [{ mark := mark, action := .chartResume p chart }] := by
  refine ⟨_, o, tag, rfl, enqueueMark mark (.chartResume p chart) (reply o tag 0x0903 .ok [] s), ?_, ?_, ?_, ?_⟩
  · rw [exec_chartResume hq ht hm h hh hb, hu]
  · exact response_mem_reply tag 0x0903 .ok [] (h.canSeal rfl) rfl
  · exact reply_polders ..
  · show (reply o tag 0x0903 .ok [] s).datum.marks ++ _ = _
    rw [reply_datum]

/-- A resumption now ends the polder's hold. -/
theorem exec_chartResume_now {chart : BitVec 32} {mark : Datum} (hq : findPolder s p = some q) (ht : q.teardown = none)
    (hm : mayNamePolder o p s = true) (h : Passes (.chartResume o tag p chart mark) s) (hh : heldChart q = some chart)
    (hb : chartBusy s p = false) (hu : markUse mark s = .now) :
    exec (.chartResume o tag p chart mark) s = .next (resumePolder p (countLate mark (reply o tag 0x0903 .ok [] s))) := by
  have hpolders : (countLate mark (reply o tag 0x0903 .ok [] s)).polders = s.polders := by
    unfold countLate
    split <;> exact reply_polders ..
  rw [exec_chartResume hq ht hm h hh hb, hu]
  simp only [resumeChart, (findPolder_congr hpolders p).trans hq, hh, if_true]

theorem exec_chartDiscard {chart : BitVec 32} (hq : findPolder s p = some q) (ht : q.teardown = none)
    (hm : mayNamePolder o p s = true) (h : Passes (.chartDiscard o tag p chart) s) (hb : chartBusy s p = false)
    (hk : chart ∈ q.exported ∨ q.freeze = .imported chart) :
    exec (.chartDiscard o tag p chart) s = .next (finish o tag .ok []
      (if q.freeze = .imported chart then undoImport q (pend o tag 0x0904 s) else pend o tag 0x0904 s)) := by
  have hknows : knowsChart s p chart = true := by
    rcases hk with hk | hk <;> simp [knowsChart, hq, ht, heldChart, hk]
  refine (exec_effect h rfl (runCmd_eq rfl rfl) ?_ rfl ?_).trans ?_
  · simp [hm]
  · simp [firstFail, hknows, hb]
  · simp only [(findPolder_congr (pend_polders o tag 0x0904 s) p).trans hq]

end

/-- Settles O54: each command by what its checks, met by hypothesis, let it begin or end. -/
theorem chartCommandsComplete : Obligations.ChartCommandsComplete := fun _ _ _ _ _ hq ht hm =>
  ⟨fun _ _ _ _ => answers_chartExport_fatal hq ht hm, fun _ _ _ _ => answers_chartExport hq ht hm,
    fun _ _ _ _ => answers_chartImport hq ht hm,
    fun _ _ h hh hb => ⟨answers_chartResume_later hq ht hm h hh hb, exec_chartResume_now hq ht hm h hh hb⟩,
    fun _ h hb => ⟨fun hf => by rw [exec_chartDiscard hq ht hm h hb (.inr hf), if_pos hf],
      fun he hf => by rw [exec_chartDiscard hq ht hm h hb (.inl he), if_neg hf]⟩⟩

end Sys2Proof.Machine
end

section
/-! SUPPORT. The checks before a Warden command's own, in their order, and what turns a command away (R317, R329, R347, R350,
R355, R379, R446, R466), and the statements about them. -/

namespace Sys2Proof.Machine

/-! ### POLDER_PROVISION among the commands (R343) -/

theorem provision_of_opcode {c : Instr} {ci : CmdInfo} {o : Origin} {tag : BitVec 32}
    (h : wardenRow c = some (ci, o, tag)) (hop : ci.opcode = 0x0101) :
    ∃ p conf pmk, c = .polderProvision o tag p conf pmk := by
  cases c <;> cases h
  case polderProvision => exact ⟨_, _, _, rfl⟩
  all_goals exact absurd hop (by decide)

theorem provision_of_bad {c : Instr} (h : badProvision c = true) :
    ∃ o tag p conf pmk, c = .polderProvision o tag p conf pmk ∧ provisionMalformed false p conf = true := by
  unfold badProvision at h
  split at h
  · exact ⟨_, _, _, _, _, rfl, h⟩
  · exact absurd h Bool.false_ne_true

section
variable {c : Instr} {ci : CmdInfo} {o : Origin} {tag : BitVec 32} {s : State}

/-- A command that is no malformed POLDER_PROVISION, or that comes where nothing is looked at, is run by its row. -/
theorem exec_warden_run (hrow : wardenRow c = some (ci, o, tag))
    (h : badProvision c = false ∨ (closedCheck ci o (resetsBlock c) s).isSome = true) :
    ∃ d m own eff, exec c s = .next (runCmdIn ci o tag d m (resetsBlock c) own eff s) := by
  rcases exec_warden c ci o tag s hrow with hrun | ⟨hop, -⟩
  · exact hrun
  · obtain ⟨p, conf, pmk, rfl⟩ := provision_of_opcode hrow hop
    cases hrow
    have hcond : (running s && (closedCheck { opcode := 0x0101, vf := true, sbt := true } o false s).isNone
        && provisionMalformed false p conf) = false := by
      rcases h with h | h
      · rw [show provisionMalformed false p conf = false from h, Bool.and_false]
      · have h : (closedCheck { opcode := 0x0101, vf := true, sbt := true } o false s).isSome = true := h
        rw [Option.isNone_eq_false_iff.2 h, Bool.and_false, Bool.false_and]
    refine ⟨false, false, provisionCheck false o p conf pmk,
      fun s => reply o tag 0x0101 .ok (keyCheck pmk) (definePolder o p (conf = 1) pmk s), ?_⟩
    simp only [exec, execPolderProvision, polderProvisionCmd, hcond, Bool.false_eq_true, if_false]
    rfl

/-- What refuses a command before it is looked at refuses it. -/
theorem exec_of_closed {st : Status} (hrow : wardenRow c = some (ci, o, tag)) (hr : running s = true)
    (h : closedCheck ci o (resetsBlock c) s = some st) : exec c s = .next (refuse o tag ci.opcode st s) := by
  obtain ⟨d, m, own, eff, he⟩ := exec_warden_run hrow (.inr (by rw [h]; rfl))
  rw [he, runCmdIn_checked own eff hr (by rw [cmdCheck, h]; rfl)]

/-- A malformed POLDER_PROVISION is refused where a command is looked at. -/
theorem exec_of_bad (hrow : wardenRow c = some (ci, o, tag)) (hr : running s = true)
    (hc : closedCheck ci o (resetsBlock c) s = none) (hb : badProvision c = true) :
    exec c s = .next (refuse o tag ci.opcode .badParam s) := by
  obtain ⟨o', tag', p, conf, pmk, rfl, hm⟩ := provision_of_bad hb
  cases hrow
  have hcond : (running s && (closedCheck { opcode := 0x0101, vf := true, sbt := true } o false s).isNone
      && provisionMalformed false p conf) = true := by
    rw [hr, hm, show closedCheck { opcode := 0x0101, vf := true, sbt := true } o false s = none from hc]
    rfl
  simp only [exec, execPolderProvision, polderProvisionCmd, hcond, if_true]

/-! ### The order of the checks (R317, R329, R350, R379, R466) -/

theorem closedCheck_debug (ho : o.sluice = .dbg) (hd : debugAdmits ci.opcode s = false) (b : Bool) :
    closedCheck ci o b s = some .lcForbids :=
  if_pos (by simp [ho, hd])

theorem closedCheck_frozen (hf : s.lc.frozen = true) (h0 : ci.opcode ≠ 0x0C01) (h1 : ci.opcode ≠ 0x0F01)
    (h2 : ci.opcode ≠ 0x0E01) : closedCheck ci o false s = some .lcForbids := by
  have hs : servedFrozen ci.opcode false = false := by
    simp [servedFrozen, show ¬ci.opcode = 3073#16 from h0, show ¬ci.opcode = 3841#16 from h1,
      show ¬ci.opcode = 3585#16 from h2]
  unfold closedCheck
  rw [hf, hs]
  exact ite_self _

/-- Where debug admits the command, no transition is under way and HALTED leaves it, a shut sluice and then a spent session
are what refuses it. -/
theorem closedCheck_open (hd : o.sluice = .dbg → debugAdmits ci.opcode s = true) (hf : s.lc.frozen = false)
    (hh : o.sluice = .sb → s.boot.stage = .halted → servedHalted ci.opcode s = true) (b : Bool) :
    closedCheck ci o b s = if shutSluice o ci.opcode s then some .busy
      else if sessionSpent o s then some .exhausted else none := by
  unfold closedCheck
  rw [if_neg, if_neg, if_neg]
  · simp only [Bool.and_eq_true, decide_eq_true_eq, Bool.not_eq_true', not_and, Bool.not_eq_false, and_imp]
    exact hh
  · simp [hf]
  · simp only [Bool.and_eq_true, decide_eq_true_eq, Bool.not_eq_true', not_and, Bool.not_eq_false]
    exact hd

/-- What refuses a command before it is looked at is one of three statuses, and ST_EXHAUSTED only for a spent session. -/
theorem closedCheck_mem {b : Bool} {st : Status} (h : closedCheck ci o b s = some st) :
    st = .lcForbids ∨ st = .busy ∨ (st = .exhausted ∧ sessionSpent o s = true) := by
  unfold closedCheck at h
  split_ifs at h with hd hf hh hs he <;> cases h
  · exact .inl rfl
  · exact .inl rfl
  · exact .inl rfl
  · exact .inr (.inl rfl)
  · exact .inr (.inr ⟨rfl, he⟩)

theorem cmdCheck_denied {d m b : Bool} (hc : closedCheck ci o b s = none) (hp : permitted ci o s = false) :
    cmdCheck ci o tag d m b s = some .denied := by
  unfold cmdCheck
  rw [hc, if_neg (by simp), if_pos (by simp [hp])]

end

/-- Settles O44: each check by the ones before it. -/
theorem wardenCommandsAreChecked : Obligations.WardenCommandsAreChecked := by
  intro c ci o tag s hrow hr
  refine ⟨fun ho hd => exec_of_closed hrow hr (closedCheck_debug ho hd _), fun hf h0 h1 h2 hb =>
    exec_of_closed hrow hr (by rw [hb]; exact closedCheck_frozen hf h0 h1 h2), fun hd hf hh => ?_⟩
  have hopen := closedCheck_open (ci := ci) hd hf hh (resetsBlock c)
  refine ⟨fun hs => exec_of_closed hrow hr (by rw [hopen, if_pos hs]), fun hs => ⟨fun he => exec_of_closed hrow hr (by
    rw [hopen, if_neg (by simp [hs]), if_pos he]), fun he => ?_⟩⟩
  have hnone : closedCheck ci o (resetsBlock c) s = none := by
    rw [hopen, if_neg (by simp [hs]), if_neg (by simp [he])]
  refine ⟨exec_of_bad hrow hr hnone, fun hb hp => ?_⟩
  obtain ⟨d, m, own, eff, hexec⟩ := exec_warden_run (s := s) hrow (.inl hb)
  rw [hexec, runCmdIn_checked own eff hr (cmdCheck_denied hnone hp)]

/-! ### What turns a command away (R355, R370, R379, R446) -/

section
variable {c : Instr} {ci : CmdInfo} {o : Origin} {tag : BitVec 32} {s : State}

/-- A command is turned away by whatever check before its own fails first. -/
theorem exec_of_check {l : List Status} (hrow : wardenRow c = some (ci, o, tag)) (hr : running s = true)
    (hb : badProvision c = false) (h : ∀ d m, ∃ st ∈ l, cmdCheck ci o tag d m (resetsBlock c) s = some st) :
    ∃ st ∈ l, exec c s = .next (refuse o tag ci.opcode st s) := by
  obtain ⟨d, m, own, eff, hexec⟩ := exec_warden_run (s := s) hrow (.inl hb)
  obtain ⟨st, hl, hst⟩ := h d m
  exact ⟨st, hl, by rw [hexec, runCmdIn_checked own eff hr hst]⟩

/-- A refusal before a command is looked at, of a session that is not spent. -/
theorem closedCheck_mem_of_unspent {b : Bool} (hs : sessionSpent o s = false)
    (h : (closedCheck ci o b s).isSome = true) : ∃ st ∈ [Status.lcForbids, .denied, .busy], closedCheck ci o b s = some st := by
  obtain ⟨st, hst⟩ := Option.isSome_iff_exists.1 h
  rcases closedCheck_mem hst with rfl | rfl | ⟨-, he⟩
  · exact ⟨_, by simp, hst⟩
  · exact ⟨_, by simp, hst⟩
  · exact absurd he (by simp [hs])

/-- Before READY the commands that R329 and R330 do not leave are turned away. -/
theorem cmdCheck_not_ready {b : Bool} (hs : sessionSpent o s = false) (hn : isReady s = false)
    (ho : ¬(o.sluice = .sb ∧ (ci.opcode = 0x0F01 ∨ (ci.opcode = 0x0E01 ∧ s.boot.stage = .recovery)
      ∨ (s.boot.stage = .halted ∧ servedHalted ci.opcode s = true)))) (d m : Bool) :
    ∃ st ∈ [Status.lcForbids, .denied, .busy], cmdCheck ci o tag d m b s = some st := by
  unfold cmdCheck
  split_ifs with hc hp hout hready
  · exact closedCheck_mem_of_unspent hs hc
  · exact ⟨_, by simp, rfl⟩
  · exact ⟨_, by simp, rfl⟩
  · exact ⟨_, by simp, rfl⟩
  all_goals
    refine absurd ?_ hready
    simp only [hn, Bool.not_false, Bool.true_and, Bool.not_eq_true', Bool.eq_false_iff, ne_eq]
    simpa [or_assoc] using ho

/-- Out of service the commands that R446 does not leave are turned away. -/
theorem cmdCheck_out_of_service {b : Bool} (hs : closedCheck ci o b s = none ∨ closedCheck ci o b s = some .lcForbids)
    (hout : s.sb.outOfService = true) (hsb : o.sluice ≠ .sb) (hdbg : o.sluice ≠ .dbg)
    (hn : servedOutOfService ci.opcode = false) (d m : Bool) :
    ∃ st ∈ [Status.lcForbids, .denied], cmdCheck ci o tag d m b s = some st := by
  unfold cmdCheck
  split_ifs with hc hp ho
  · rcases hs with hs | hs
    · exact absurd hc (by simp [hs])
    · exact ⟨_, by simp, hs⟩
  · exact ⟨_, by simp, rfl⟩
  · exact ⟨_, by simp, rfl⟩
  all_goals exact absurd (by simp [hout, hsb, hdbg, hn]) ho

/-- In READY nothing but a life-cycle rule refuses a command of a session that is not spent before it is looked at. -/
theorem closedCheck_ready {b : Bool} (hs : sessionSpent o s = false) (hn : isReady s = true) :
    closedCheck ci o b s = none ∨ closedCheck ci o b s = some .lcForbids := by
  unfold closedCheck
  split_ifs with hd hf hh hshut he
  · exact .inr rfl
  · exact .inr rfl
  · exact .inr rfl
  · exact absurd hshut (by simp [shutSluice, hn])
  · exact absurd he (by simp [hs])
  · exact .inl rfl

/-- A sluice that holds all the commands that it may takes no more. -/
theorem cmdCheck_full {b : Bool} (hs : sessionSpent o s = false)
    (hl : pendingLimit o.sluice ≤ (pendingOn o.sluice s).length + noticesWaiting o.sluice s) (d m : Bool) :
    ∃ st ∈ [Status.lcForbids, .denied, .busy], cmdCheck ci o tag d m b s = some st := by
  unfold cmdCheck
  split_ifs with hc
  · exact closedCheck_mem_of_unspent hs hc
  all_goals exact ⟨_, by simp, rfl⟩

/-- A command of another role is refused, by this check or one before it, and not as done or pending. -/
theorem cmdCheck_other_role {b : Bool} (h : s.boot.role ∉ ci.roles) (d m : Bool) :
    ∃ st ∈ [Status.lcForbids, .denied, .busy, .exhausted, .badParam], cmdCheck ci o tag d m b s = some st := by
  have hrole : (!ci.roles.contains s.boot.role || m) = true := by simp [h]
  unfold cmdCheck
  rw [hrole, if_pos rfl]
  split_ifs with hc
  · obtain ⟨st, hst⟩ := Option.isSome_iff_exists.1 hc
    refine ⟨st, ?_, hst⟩
    rcases closedCheck_mem hst with rfl | rfl | ⟨rfl, -⟩ <;> simp
  all_goals exact ⟨_, by simp, rfl⟩

theorem exec_other_role (hrow : wardenRow c = some (ci, o, tag)) (hr : running s = true) (h : s.boot.role ∉ ci.roles) :
    ∃ st, st ≠ .ok ∧ st ≠ .pending ∧ exec c s = .next (refuse o tag ci.opcode st s) := by
  rcases exec_warden c ci o tag s hrow with ⟨d, m, own, eff, he⟩ | ⟨-, he⟩
  · obtain ⟨st, hmem, hst⟩ := cmdCheck_other_role (o := o) (tag := tag) (b := resetsBlock c) h d m
    refine ⟨st, ?_, ?_, by rw [he, runCmdIn_checked own eff hr hst]⟩
    · rintro rfl
      exact absurd hmem (by decide)
    · rintro rfl
      exact absurd hmem (by decide)
  · exact ⟨.badParam, by decide, by decide, he⟩

end

/-- Settles O45: each reason by the check that it fails, and what an answer leaves by the sluices' rules. -/
theorem wardenCommandsAreTurnedAway : Obligations.WardenCommandsAreTurnedAway := by
  refine ⟨fun c ci o tag s hrow hr => ⟨fun hs hb => ⟨fun hn ho => exec_of_check hrow hr hb (cmdCheck_not_ready hs hn ho),
      fun hout hsb hdbg hn hready => exec_of_check hrow hr hb
        (cmdCheck_out_of_service (closedCheck_ready hs hready) hout hsb hdbg hn),
      fun hl => exec_of_check hrow hr hb (cmdCheck_full hs hl)⟩, exec_other_role hrow hr⟩,
    fun o tag opcode s => ⟨fun h => ?_, pend_pendings o tag opcode s, fun x st payload hx hseq => ?_⟩⟩
  · rw [pend_out tag opcode h]
    exact List.mem_append_right _ (List.mem_singleton_self _)
  · obtain ⟨hout, hspdm⟩ := reply_exhausted tag opcode st payload hx hseq
    refine ⟨?_, hspdm⟩
    rw [hout]
    exact List.mem_append_right _ (List.mem_singleton_self _)

end Sys2Proof.Machine
end

section
/-! SUPPORT. Contexts, queues, event rings and fences as commands make and end them (R364 to R369, R373, R374), and the
statement about them. -/

namespace Sys2Proof.Machine

/-! ### Allotments, numbers and what a command may name -/

theorem allotted_of_room {o : Origin} {s : State} {held : FnId → Nat} {limit : Vf → Nat}
    (h : ∀ v, sluiceVf o.sluice = some v → held (fnOf v) < limit (getVf s v)) : allotted o s held limit = false := by
  unfold allotted
  split
  · next n hn => exact decide_eq_false (Nat.not_le.2 (h n hn))
  · rfl

theorem contextDenied_of_find {o : Origin} {c : BitVec 16} {x : Context} {s : State} (hlt : c.toNat < 4096)
    (hx : findContext s (c.setWidth 12) = some x) (hm : mayName o x.fn x.polder false s = true) :
    contextDenied o c s = false := by
  simp [contextDenied, hlt, hx, hm]

theorem lt_of_contextLive {c : BitVec 16} {s : State} (h : contextLive c s = true) : c.toNat < 4096 := by
  by_contra hlt
  simp [contextLive, hlt] at h

theorem id_of_fenceOf {fence : BitVec 16} {f : FenceObj} {s : State} (h : fenceOf fence s = some f) :
    f.id = fence.setWidth 14 := by
  unfold fenceOf at h
  split at h
  · simpa using List.find?_some h
  · cases h

theorem findFence_modFence {n : BitVec 14} {g : FenceObj → FenceObj} (s : State) (h : ∀ y, (g y).id = y.id) :
    findFence (modFence n g s) n = (findFence s n).map g :=
  find?_alter (p := fun y : FenceObj => y.id = n) (f := g) (fun y hy => by simpa [h] using hy) s.obj.fences

theorem toNat_ofNat_lt {w n : Nat} (h : n < 2 ^ w) : (BitVec.ofNat w n).toNat = n := by
  rw [BitVec.toNat_ofNat, Nat.mod_eq_of_lt h]

/-- A number below a bound that nothing below it has is the least where it is 0. -/
theorem leastBelow_zero {bound : Nat} {p : Nat → Bool} (hb : 0 < bound) (hp : p 0 = true) :
    leastBelow bound p = some 0 := by
  obtain ⟨k, rfl⟩ := Nat.exists_eq_add_of_lt hb
  rw [Nat.zero_add, leastBelow, List.range_succ_eq_map, List.find?_cons_of_pos hp]

section
variable {o : Origin} {tag : BitVec 32} {s : State}

/-! ### Contexts (R364 to R366) -/

theorem answers_contextCreate {p : PolderId} {cls : BitVec 8} {cores : BitVec 512} {q : Polder} {n : Nat}
    (h : Passes (.contextCreate o tag p cls cores) s) (hq : findPolder s p = some q)
    (hpf : o.sluice = .pf → q.confidential = false) (ht : q.teardown = none) (hm : mayNamePolder o p s = true)
    (hcls : cls.toNat < 16)
    (hcores : ∀ i, cores.getLsbD i = true → i < s.chip.cores ∧ coreContext s (BitVec.ofNat 9 i) = none)
    (hvf : ∀ v, sluiceVf o.sluice = some v → (getVf s v).allot1.getLsbD cls.toNat = true
      ∧ (s.obj.contexts.filter fun c => c.fn = fnOf v).length < ((getVf s v).allot0.extractLsb' 0 13).toNat)
    (hn : (leastBelow 4096 fun n => (findContext s (BitVec.ofNat 12 n)).isNone) = some n) :
    Answers (.contextCreate o tag p cls cores) s .ok (leBytes 2 n ++ zeros 2) fun t =>
      ∃ c, t.obj.contexts = s.obj.contexts ++ [c] ∧ c.id = BitVec.ofNat 12 n ∧ c.state = .bound ∧ c.fn = ownerFn o
        ∧ c.polder = p ∧ c.cls = cls.setWidth 4 ∧ c.cores = cores ∧ c.step = 0
        ∧ ∀ x ∈ t.sca.counters, cores.getLsbD x.1.1.toNat = false := by
  let c : Context :=
    { id := BitVec.ofNat 12 n, state := .bound, fn := ownerFn o, polder := p, cls := cls.setWidth 4, cores := cores,
      step := 0, hold := none, waiters := [] }
  let u := zeroSync cores (modObj (fun x => { x with contexts := x.contexts ++ [c] }) s)
  have hid : (BitVec.ofNat 12 n).toNat = n := toNat_ofNat_lt (lt_of_leastBelow hn)
  have hfree : ((List.range 512).any fun i =>
      cores.getLsbD i && (decide (s.chip.cores ≤ i) || (coreContext s (BitVec.ofNat 9 i)).isSome)) = false := by
    refine List.any_eq_false.2 fun i _ => ?_
    cases hi : cores.getLsbD i with
    | false => simp
    | true =>
      obtain ⟨hlt, hnone⟩ := hcores i hi
      simp [hnone, hlt]
  have hconf : (o.sluice = .pf && isConfidential s p) = false := by
    by_cases ho : o.sluice = .pf
    · simp [isConfidential, hq, hpf ho]
    · simp [ho]
  have hroom := allotted_of_room (held := fun f => (s.obj.contexts.filter fun c => c.fn = f).length)
    (limit := fun v => (v.allot0.extractLsb' 0 13).toNat) fun v hv => (hvf v hv).2
  refine answers_reply u h rfl rfl rfl ?_ ?_ ?_ ?_ rfl ⟨c, ?_, rfl, rfl, rfl, rfl, rfl, rfl, rfl, fun x hx => ?_⟩
  · simp [hm]
  · simp [Nat.not_le.2 hcls]
  · cases hv : sluiceVf o.sluice with
    | none => simp [firstFail, hq, hconf, ht, hfree, hroom, hn, -BitVec.extractLsb'_toNat]
    | some v => simp [firstFail, hq, hconf, ht, hfree, hroom, hn, (hvf v hv).1, -BitVec.extractLsb'_toNat]
  · simp only [hn, Option.getD_some, hid]
    rfl
  · rw [reply_obj]
    rfl
  · rw [reply_sca] at hx
    simpa using (List.mem_filter.1 hx).2

theorem exec_contextDestroy {c : BitVec 16} {x : Context} (h : Passes (.contextDestroy o tag c) s)
    (hlt : c.toNat < 4096) (hx : findContext s (c.setWidth 12) = some x) (hm : mayName o x.fn x.polder true s = true) :
    exec (.contextDestroy o tag c) s = .next (beginDestroy (c.setWidth 12) [(o, tag)] (pend o tag 0x0402 s)) := by
  refine exec_effect h rfl (runCmd_eq rfl rfl) ?_ rfl ?_
  · simp [hlt, hx, hm]
  · simp [firstFail, hlt, hx]

/-! ### Queues (R367) -/

theorem answers_queueCreate {c ring depth : BitVec 16} {addr : BitVec 64} {x : Context} {r : EventRing} {n : Nat}
    (h : Passes (.queueCreate o tag c ring depth addr) s) (hlt : c.toNat < 4096)
    (hx : findContext s (c.setWidth 12) = some x) (hlive : contextLive c s = true)
    (hm : mayName o x.fn x.polder false s = true) (hd : powerWithin 16 4096 depth.toNat = true)
    (ha : addr.toNat % 4096 = 0) (hring : ring.toNat < 512) (hr : findRing s (ownerFn o) (ring.setWidth 9) = some r)
    (hw : r.waiters = [])
    (hvf : ∀ v, sluiceVf o.sluice = some v → (s.obj.queues.filter fun q => q.fn = fnOf v).length
      < ((getVf s v).allot0.extractLsb' 13 9).toNat)
    (hn : (leastBelow 256 fun n => (findQueue s (BitVec.ofNat 8 n)).isNone) = some n) :
    Answers (.queueCreate o tag c ring depth addr) s .ok ([BitVec.ofNat 8 n] ++ zeros 3) fun t =>
      ∃ q, t.obj.queues = s.obj.queues ++ [q] ∧ q.id = BitVec.ofNat 8 n ∧ q.context = c.setWidth 12
        ∧ q.state = (if x.state = .stopped then .halted else .active) ∧ q.fn = ownerFn o ∧ q.addr = addr
        ∧ q.depth = depth.toNat ∧ q.ring = ring.setWidth 9 ∧ q.head = 0 ∧ q.tail = 0 ∧ q.started = [] := by
  let q : Queue :=
    { id := BitVec.ofNat 8 n, state := if x.state = .stopped then .halted else .active, context := c.setWidth 12,
      fn := ownerFn o, addr := addr, depth := depth.toNat, ring := ring.setWidth 9, head := 0, tail := 0, started := [],
      waiters := [] }
  have hroom := allotted_of_room (held := fun f => (s.obj.queues.filter fun q => q.fn = f).length)
    (limit := fun v => (v.allot0.extractLsb' 13 9).toNat) hvf
  refine answers_reply (modObj (fun y => { y with queues := y.queues ++ [q] }) s) h rfl rfl rfl
    (contextDenied_of_find hlt hx hm) rfl ?_ ?_ rfl ⟨q, ?_, rfl, rfl, rfl, rfl, rfl, rfl, rfl, rfl, rfl, rfl⟩
  · simp [firstFail, hlive, hd, ha, hring, hr, hw, hroom, hn, -BitVec.extractLsb'_toNat]
  · simp only [hn, hx, Option.getD_some, decide_eq_true_eq]
    rfl
  · rw [reply_obj]
    rfl

theorem exec_queueDestroy {q : BitVec 8} {x : Queue} (h : Passes (.queueDestroy o tag q) s)
    (hx : findQueue s q = some x) (hm : mayName o x.fn (contextPolder s x.context) true s = true) :
    exec (.queueDestroy o tag q) s = .next (settleQueue q (squashQueue q (modQueue q
      (fun y => { y with state := .destroying, waiters := y.waiters ++ [(o, tag)] }) (pend o tag 0x0404 s)))) := by
  refine exec_effect h rfl (runCmd_eq rfl rfl) ?_ rfl ?_
  · simp [hx, hm]
  · simp [firstFail, hx]

/-! ### Event rings (R368, R369) -/

theorem eventRingCreate_checks {size : BitVec 32} {vector : BitVec 16} {addr : BitVec 64} {n : Nat}
    (hsize : powerWithin 64 65536 size.toNat = true) (hv : vector.toNat < 2048) (ha : addr.toNat % 4096 = 0)
    (hl : s.obj.rings.length < ringLimit s.boot.role)
    (hvf : ∀ v, sluiceVf o.sluice = some v → (s.obj.rings.filter fun r => r.fn = fnOf v).length
      < ((getVf s v).allot0.extractLsb' 22 10).toNat)
    (hn : (leastBelow (ringLimit s.boot.role) fun n => (findRing s (ownerFn o) (BitVec.ofNat 9 n)).isNone) = some n) :
    firstFail
      [(!powerWithin 64 65536 size.toNat, .badParam), (decide (2048 ≤ vector.toNat), .badParam),
       (decide (addr.toNat % 4096 ≠ 0), .badParam),
       (allotted o s (fun f => (s.obj.rings.filter fun r => r.fn = f).length) fun v => (v.allot0.extractLsb' 22 10).toNat,
         .exhausted),
       ((leastBelow (ringLimit s.boot.role) fun n => (findRing s (ownerFn o) (BitVec.ofNat 9 n)).isNone).isNone
         || decide (ringLimit s.boot.role ≤ s.obj.rings.length), .exhausted)] = none := by
  have hroom := allotted_of_room (held := fun f => (s.obj.rings.filter fun r => r.fn = f).length)
    (limit := fun v => (v.allot0.extractLsb' 22 10).toNat) hvf
  simp [firstFail, hsize, Nat.not_le.2 hv, ha, hroom, hn, Nat.not_le.2 hl, -BitVec.extractLsb'_toNat]

/-- An event ring as a command makes it. -/
def newRing (o : Origin) (n : Nat) (size : BitVec 32) (vector : BitVec 16) (addr : BitVec 64) : EventRing :=
  { fn := ownerFn o, id := BitVec.ofNat 9 n, addr := addr, size := size.toNat, vector := vector, head := 0, tail := 0,
    phase := true, armed := false, waiting := [], dropped := 0, inFlight := 0, waiters := [] }

/-- The ring made and answered; ring 0 then takes what has waited for it. -/
theorem exec_eventRingCreate {size : BitVec 32} {vector : BitVec 16} {addr : BitVec 64} {n : Nat}
    (h : Passes (.eventRingCreate o tag size vector addr) s) (hsize : powerWithin 64 65536 size.toNat = true)
    (hv : vector.toNat < 2048) (ha : addr.toNat % 4096 = 0) (hl : s.obj.rings.length < ringLimit s.boot.role)
    (hvf : ∀ v, sluiceVf o.sluice = some v → (s.obj.rings.filter fun r => r.fn = fnOf v).length
      < ((getVf s v).allot0.extractLsb' 22 10).toNat)
    (hn : (leastBelow (ringLimit s.boot.role) fun n => (findRing s (ownerFn o) (BitVec.ofNat 9 n)).isNone) = some n)
    (h512 : n < 512) :
    let u := reply o tag 0x0405 .ok (leBytes 2 n ++ zeros 2)
      (modObj (fun x => { x with rings := x.rings ++ [newRing o n size vector addr] }) s)
    exec (.eventRingCreate o tag size vector addr) s = .next (if n = 0 then releaseEarly (ownerFn o) u else u) := by
  intro u
  refine (exec_effect h rfl (runCmd_eq rfl rfl) rfl rfl (eventRingCreate_checks hsize hv ha hl hvf hn)).trans ?_
  have hid : (BitVec.ofNat 9 n).toNat = n := toNat_ofNat_lt h512
  have hzero : (BitVec.ofNat 9 n = 0) ↔ n = 0 := by
    rw [← BitVec.toNat_inj, hid]
    rfl
  simp only [hn, Option.getD_some, hid, hzero]
  rfl

theorem answers_eventRingCreate {size : BitVec 32} {vector : BitVec 16} {addr : BitVec 64} {n : Nat}
    (h : Passes (.eventRingCreate o tag size vector addr) s) (hsize : powerWithin 64 65536 size.toNat = true)
    (hv : vector.toNat < 2048) (ha : addr.toNat % 4096 = 0) (hl : s.obj.rings.length < ringLimit s.boot.role)
    (hvf : ∀ v, sluiceVf o.sluice = some v → (s.obj.rings.filter fun r => r.fn = fnOf v).length
      < ((getVf s v).allot0.extractLsb' 22 10).toNat) (h0 : 0 < n)
    (hn : (leastBelow (ringLimit s.boot.role) fun n => (findRing s (ownerFn o) (BitVec.ofNat 9 n)).isNone) = some n)
    (h512 : n < 512) :
    Answers (.eventRingCreate o tag size vector addr) s .ok (leBytes 2 n ++ zeros 2) fun t =>
      ∃ r, t.obj.rings = s.obj.rings ++ [r] ∧ r.fn = ownerFn o ∧ r.id = BitVec.ofNat 9 n ∧ r.addr = addr
        ∧ r.size = size.toNat ∧ r.vector = vector ∧ r.head = 0 ∧ r.tail = 0 ∧ r.phase = true ∧ r.dropped = 0 := by
  have hexec := exec_eventRingCreate h hsize hv ha hl hvf hn h512
  dsimp only at hexec
  rw [if_neg (Nat.pos_iff_ne_zero.1 h0)] at hexec
  refine ⟨_, o, tag, rfl, _, hexec, response_mem_reply tag 0x0405 .ok _ (h.canSeal rfl) rfl,
    newRing o n size vector addr, ?_, rfl, rfl, rfl, rfl, rfl, rfl, rfl, rfl, rfl⟩
  rw [reply_obj]
  rfl

theorem exec_eventRingCreate_first {size : BitVec 32} {vector : BitVec 16} {addr : BitVec 64}
    (h : Passes (.eventRingCreate o tag size vector addr) s) (hsize : powerWithin 64 65536 size.toNat = true)
    (hv : vector.toNat < 2048) (ha : addr.toNat % 4096 = 0) (hl : s.obj.rings.length < ringLimit s.boot.role)
    (hvf : ∀ v, sluiceVf o.sluice = some v → (s.obj.rings.filter fun r => r.fn = fnOf v).length
      < ((getVf s v).allot0.extractLsb' 22 10).toNat) (hz : findRing s (ownerFn o) 0 = none) :
    ∃ u, exec (.eventRingCreate o tag size vector addr) s = .next (releaseEarly (ownerFn o) u)
      ∧ .response o tag 0x0405 .ok (zeros 4) ∈ u.out
      ∧ ∃ r, u.obj.rings = s.obj.rings ++ [r] ∧ r.fn = ownerFn o ∧ r.id = 0 ∧ r.size = size.toNat := by
  have hn : (leastBelow (ringLimit s.boot.role) fun n => (findRing s (ownerFn o) (BitVec.ofNat 9 n)).isNone) = some 0 :=
    leastBelow_zero (by omega) (by rw [show BitVec.ofNat 9 0 = 0 from rfl, hz]; rfl)
  have hexec := exec_eventRingCreate h hsize hv ha hl hvf hn (by omega)
  dsimp only at hexec
  rw [if_pos rfl] at hexec
  refine ⟨_, hexec, response_mem_reply tag 0x0405 .ok _ (h.canSeal rfl) rfl, newRing o 0 size vector addr, ?_, rfl, rfl,
    rfl⟩
  rw [reply_obj]
  rfl

theorem exec_eventRingDestroy {ring : BitVec 16} {r : EventRing} (h : Passes (.eventRingDestroy o tag ring) s)
    (h0 : ring ≠ 0) (hlt : ring.toNat < 512) (hr : findRing s (ownerFn o) (ring.setWidth 9) = some r)
    (hq : ∀ q ∈ s.obj.queues, q.fn = ownerFn o → q.ring ≠ ring.setWidth 9) :
    exec (.eventRingDestroy o tag ring) s = .next (settleRing (ownerFn o) r.id (modRing (ownerFn o) r.id
      (fun x => { x with waiters := x.waiters ++ [(o, tag)] }) (pend o tag 0x0406 s))) := by
  have hid : r.id = ring.setWidth 9 := by
    have hfound : r.fn = ownerFn o ∧ r.id = ring.setWidth 9 := by simpa using List.find?_some hr
    exact hfound.2
  have hnamed : (s.obj.queues.any fun q => q.fn = ownerFn o && q.ring = ring.setWidth 9) = false := by
    simpa using hq
  rw [hid]
  refine exec_effect h rfl (runCmd_eq rfl rfl) rfl rfl ?_
  simp [firstFail, hlt, hr, hnamed, show ¬ring = 0#16 from h0]

/-! ### Fences (R373) -/

theorem answers_fenceCreate {c : BitVec 16} {x : Context} {n : Nat} (h : Passes (.fenceCreate o tag c) s)
    (hlt : c.toNat < 4096) (hx : findContext s (c.setWidth 12) = some x) (hlive : contextLive c s = true)
    (hm : mayName o x.fn x.polder false s = true)
    (hvf : ∀ v, sluiceVf o.sluice = some v → (s.obj.fences.filter fun f => f.fn = fnOf v).length
      < ((getVf s v).allot1.extractLsb' 16 15).toNat)
    (hn : (leastBelow 16384 fun n => (findFence s (BitVec.ofNat 14 n)).isNone) = some n) :
    Answers (.fenceCreate o tag c) s .ok (leBytes 2 n ++ zeros 2) fun t =>
      ∃ f, t.obj.fences = s.obj.fences ++ [f] ∧ f.id = BitVec.ofNat 14 n ∧ f.owner = c.setWidth 12
        ∧ f.fn = ownerFn o ∧ f.value = 0 ∧ f.shares = [] ∧ f.waits = [] := by
  let f : FenceObj :=
    { id := BitVec.ofNat 14 n, owner := c.setWidth 12, fn := ownerFn o, value := 0, shares := [], waits := [] }
  have hid : (BitVec.ofNat 14 n).toNat = n := toNat_ofNat_lt (lt_of_leastBelow hn)
  have hroom := allotted_of_room (held := fun f => (s.obj.fences.filter fun x => x.fn = f).length)
    (limit := fun v => (v.allot1.extractLsb' 16 15).toNat) hvf
  refine answers_reply (modObj (fun y => { y with fences := y.fences ++ [f] }) s) h rfl rfl rfl
    (contextDenied_of_find hlt hx hm) rfl ?_ ?_ rfl ⟨f, ?_, rfl, rfl, rfl, rfl, rfl, rfl⟩
  · simp [firstFail, hlive, hroom, hn, -BitVec.extractLsb'_toNat]
  · simp only [hn, Option.getD_some, hid]
    rfl
  · rw [reply_obj]
    rfl

/-- A share adds the context to those that may name the fence. -/
theorem answers_fenceShare {fence c : BitVec 16} {f : FenceObj} {x : Context} (h : Passes (.fenceShare o tag fence c) s)
    (hf : fenceOf fence s = some f) (hx : findContext s (c.setWidth 12) = some x) (hlive : contextLive c s = true)
    (hmf : mayName o f.fn (contextPolder s f.owner) false s = true) (hm : mayName o x.fn x.polder false s = true)
    (hfn : x.fn = f.fn)
    (hconf : isConfidential s (contextPolder s f.owner) = true → x.polder = contextPolder s f.owner) :
    Answers (.fenceShare o tag fence c) s .ok [] fun t => ∀ y, findFence t f.id = some y → fenceNamedBy y x.id = true := by
  let add := fun (f : FenceObj) => if fenceNamedBy f (c.setWidth 12) then f else { f with shares := f.shares ++ [c.setWidth 12] }
  have hadd : ∀ y, (add y).id = y.id ∧ fenceNamedBy (add y) (c.setWidth 12) = true := fun y => by
    unfold add
    split
    · next hn => exact ⟨rfl, hn⟩
    · exact ⟨rfl, by simp [fenceNamedBy]⟩
  refine answers_reply (modFence (fence.setWidth 14) add s) h rfl rfl rfl ?_ rfl ?_ rfl rfl fun y hy => ?_
  · simp [contextDenied_of_find (lt_of_contextLive hlive) hx hm, hf, hmf]
  · by_cases hc : isConfidential s (contextPolder s f.owner) = true
    · simp [firstFail, hf, hlive, hx, hfn, hconf hc]
    · simp [firstFail, hf, hlive, hx, hfn, hc]
  · have hy : findFence (modFence (fence.setWidth 14) add s) (fence.setWidth 14) = some y := by
      rw [← id_of_fenceOf hf, ← hy]
      unfold findFence
      rw [reply_obj, id_of_fenceOf hf]
    rw [findFence_modFence _ fun z => (hadd z).1] at hy
    obtain ⟨z, -, rfl⟩ := Option.map_eq_some_iff.1 hy
    rw [id_of_findContext hx]
    exact (hadd z).2

theorem exec_fenceDestroy {fence : BitVec 16} {f : FenceObj} (h : Passes (.fenceDestroy o tag fence) s)
    (hf : fenceOf fence s = some f) (hm : mayName o f.fn (contextPolder s f.owner) true s = true) :
    exec (.fenceDestroy o tag fence) s = .next (finish o tag .ok [] (abandonFence f.id (pend o tag 0x0409 s))) := by
  rw [id_of_fenceOf hf]
  refine exec_effect h rfl (runCmd_eq rfl rfl) ?_ rfl ?_
  · simp [hf, hm]
  · simp [firstFail, hf]

end

/-- Settles O48: a creation by the number that it takes, a destruction by what its checks, met by hypothesis, let begin. -/
theorem hostObjectsComplete : Obligations.HostObjectsComplete := fun _ _ _ =>
  ⟨fun _ _ _ _ _ => answers_contextCreate, fun _ _ => exec_contextDestroy, fun _ _ _ _ _ _ _ => answers_queueCreate,
    fun _ _ => exec_queueDestroy, fun _ _ _ _ => answers_eventRingCreate, fun _ _ _ => exec_eventRingCreate_first,
    fun _ _ => exec_eventRingDestroy, fun _ _ _ => answers_fenceCreate, fun _ _ _ _ => answers_fenceShare,
    fun _ _ => exec_fenceDestroy⟩

end Sys2Proof.Machine
end

section
/-! SUPPORT. The mailbox, fetches and secured records (R317, R353, R356, R357), and the statement about them. -/

namespace Sys2Proof.Machine

/-! ### Sluices that carry SPDM -/

theorem running_of_carriesSpdm {s : State} {sl : Sluice} (h : carriesSpdm s sl = true) : running s = true := by
  cases sl with
  | vf n =>
    simp only [carriesSpdm, windowOpen, fnPresent, Bool.and_eq_true] at h
    exact h.1.1
  | sb => exact h
  | fm => exact h
  | pf => cases h
  | dbg => cases h

theorem sluiceOpen_of_carriesSpdm {s : State} {sl : Sluice} (h : carriesSpdm s sl = true) : sluiceOpen s sl = true := by
  have hrun := running_of_carriesSpdm h
  cases sl with
  | vf n =>
    have hw : windowOpen s (fnOf n) = true := h
    simp [sluiceOpen, hrun, hw]
  | pf => cases h
  | dbg => cases h
  | sb => simp [sluiceOpen, hrun]
  | fm => simp [sluiceOpen, hrun]

theorem spdmClosed_of_ready {s : State} {sl : Sluice} (h : carriesSpdm s sl = true) (hr : isReady s = true) :
    spdmClosed sl s = none := by
  cases sl with
  | pf => cases h
  | dbg => cases h
  | vf n => simp [spdmClosed, hr]
  | fm => simp [spdmClosed, hr]
  | sb =>
    have hstage : s.boot.stage = .ready := by
      simp only [isReady, Bool.and_eq_true, decide_eq_true_eq] at hr
      exact hr.2
    simp [spdmClosed, hstage]

/-! ### Doorbells and fetches -/

theorem answerFrame_out (sl : Sluice) (kind : Byte) (tag : BitVec 32) (st : Status) (payload : Bytes) (s : State) :
    (answerFrame sl kind tag st payload s).out = s.out := by
  unfold answerFrame
  split
  · rfl
  · exact writeResponse_out _ _ s

theorem answerFrame_spdm (sl : Sluice) (kind : Byte) (tag : BitVec 32) (st : Status) (payload : Bytes) (s : State) :
    (answerFrame sl kind tag st payload s).spdm = s.spdm := by
  unfold answerFrame
  split
  · rfl
  · exact writeResponse_spdm _ _ s

theorem answerFrame_pendings (sl : Sluice) (kind : Byte) (tag : BitVec 32) (st : Status) (payload : Bytes) (s : State) :
    (answerFrame sl kind tag st payload s).fns.pendings = s.fns.pendings := by
  unfold answerFrame
  split <;> rfl

/-- An answer to a command that came in no session is its output, unsealed. -/
theorem response_mem_answerAs_clear {o : Origin} (outer kind : Byte) (tag : BitVec 32) (opcode : BitVec 16) (st : Status)
    (payload : Bytes) (s : State) (h : o.session = none) :
    .response o tag opcode st payload ∈ (answerAs outer kind o tag opcode st payload s).out := by
  have hnone : ∀ u, sessionOf o u = none := fun u => by simp [sessionOf, h]
  unfold answerAs
  dsimp only
  rw [hnone]
  dsimp only
  split
  · simp [emit]
  · rw [writeResponse_out]
    simp [emit]

theorem exec_mailboxDoorbell {fn : FnId} {s : State} (h : windowOpen s fn = true) :
    exec (.mailboxDoorbell fn) s = .next (if (getMailbox s fn).ring then count 0x002 s
      else mailboxFrame fn (setMailbox { getMailbox s fn with ring := true } s)) := by
  change Host.Outcome.next (ringDoorbell fn s) = _
  simp [ringDoorbell, h]

theorem exec_fetch {o : Origin} {tag : BitVec 32} {s : State} (h : sluiceOpen s o.sluice = true)
    (hc : frameCheck o.sluice s = none) : exec (.fetch o tag) s = .next (fetchResult o tag s) := by
  change Host.Outcome.next (fetchFrame o tag s) = _
  simp [fetchFrame, h, hc]

/-- A result that has come for a command in the clear. -/
theorem fetchResult_clear {o : Origin} {tag : BitVec 32} {c : PendingCmd} {st : Status} {payload : Bytes} {s : State}
    (hf : (s.fns.pendings.find? fun c => c.origin.sluice = o.sluice && c.tag = tag) = some c)
    (hr : c.final = some (st, payload)) (hc : c.origin.session = none) :
    fetchResult o tag s = answerAs 3 3 c.origin tag 0 st payload { s with fns := { s.fns with
      pendings := s.fns.pendings.eraseP fun c => c.origin.sluice = o.sluice && c.tag = tag } } := by
  simp [fetchResult, hf, hr, hc]

/-- A result that has come for a command of a session that goes on. -/
theorem fetchResult_session {o : Origin} {tag : BitVec 32} {c : PendingCmd} {st : Status} {payload : Bytes} {x : Session}
    {s : State} (hf : (s.fns.pendings.find? fun c => c.origin.sluice = o.sluice && c.tag = tag) = some c)
    (hr : c.final = some (st, payload)) (hx : sessionOf c.origin s = some x) :
    fetchResult o tag s = answerAs 3 0 c.origin tag c.opcode st payload { s with fns := { s.fns with
      pendings := s.fns.pendings.eraseP fun c => c.origin.sluice = o.sluice && c.tag = tag } } := by
  have hsome : c.origin.session.isSome = true := by
    cases h : c.origin.session with
    | none => simp [sessionOf, h] at hx
    | some n => rfl
  have hx : sessionOf c.origin { s with fns := { s.fns with
      pendings := s.fns.pendings.eraseP fun c => c.origin.sluice = o.sluice && c.tag = tag } } = some x := hx
  simp [fetchResult, hf, hr, hsome, hx]

theorem fetchResult_pending {o : Origin} {tag : BitVec 32} {c : PendingCmd} {s : State}
    (hf : (s.fns.pendings.find? fun c => c.origin.sluice = o.sluice && c.tag = tag) = some c) (hr : c.final = none) :
    fetchResult o tag s = refuseFrame o 3 tag .pending s := by
  simp [fetchResult, hf, hr]

theorem response_mem_refuseFrame (o : Origin) (kind : Byte) (tag : BitVec 32) (st : Status) (s : State) :
    .response o tag 0 st [] ∈ (refuseFrame o kind tag st s).out := by
  unfold refuseFrame
  rw [answerFrame_out]
  simp [emit]

/-! ### Secured records -/

/-- A record of up to 65,536 bytes fits its job. -/
theorem inlineJob_record (id : BitVec 32) (key : Key256) {n : Nat} (h : n ≤ 65536) (s : State) :
    inlineJob (recordJob id key n) none s = (true, traceInline (recordJob id key n) none s) := by
  have hfit : lengthsFit 4 12 n = true := by
    simp only [lengthsFit, Bool.and_eq_true, decide_eq_true_eq]
    omega
  simp [inlineJob, recordJob, hfit]

theorem exec_securedMessage {o : Origin} {n : BitVec 32} {record : Bytes} {x : Session} {s : State}
    (h : carriesSpdm s o.sluice = true) (hf : frameCheck o.sluice s = none) (hc : spdmClosed o.sluice s = none)
    (ho : o.session = some n) (hx : (s.spdm.sessions.find? fun x => x.id = n && x.sluice = o.sluice) = some x)
    (hseq : x.rxSeq ≠ BitVec.allOnes 64) (hlen : record.length ≤ 65536) :
    exec (.securedMessage o record) s = .next (match Config.spdmOpen x.rxKey x.rxSeq record with
      | none => sendSpdm o.sluice none decryptError
          (dropSession n o.sluice (traceInline (recordJob x.id x.rxKey record.length) none s))
      | some data => handleSpdm o.sluice (some x.id) (Config.spdmParse data)
          (traceInline (recordJob x.id x.rxKey record.length) none s)) := by
  obtain rfl : x.id = n := (by simpa using List.find?_some hx : x.id = n ∧ x.sluice = o.sluice).1
  change Host.Outcome.next (securedFrame o.sluice o.session record s) = _
  unfold securedFrame securedRecord
  simp only [sluiceOpen_of_carriesSpdm h, hf, hc, ho, Option.bind_some, hx, hseq, inlineJob_record x.id x.rxKey hlen s]
  rfl

theorem not_mem_dropSession (n : BitVec 32) (sl : Sluice) (s : State) :
    ∀ y ∈ (dropSession n sl s).spdm.sessions, ¬(y.id = n ∧ y.sluice = sl) := by
  rintro y hy ⟨hid, hsl⟩
  simpa [hid, hsl] using (List.mem_filter.1 hy).2

/-- A request of a session, in one piece, counts its record and is handled. -/
theorem handleSpdm_session {sl : Sluice} {n : BitVec 32} {r : SpdmRequest} {x : Session} {s : State}
    (hx : sessionOf { sluice := sl, session := some n } s = some x) (hseq : x.rxSeq ≠ BitVec.allOnes 64)
    (hv : isVendor r = false) (hr : ∀ h data, r ≠ .chunkSend h true data) :
    handleSpdm sl (some n) r s
      = vendorMessage sl n r (modSession x.id (fun y => { y with rxSeq := nextSeq y.rxSeq }) s) := by
  have hspent : sessionSpent { sluice := sl, session := some n } s = false := by
    simp only [sessionSpent, hx]
    exact decide_eq_false hseq
  have hcount : countRecord sl (some n) s = modSession x.id (fun y => { y with rxSeq := nextSeq y.rxSeq }) s := by
    simp [countRecord, hx]
  unfold handleSpdm
  rw [hspent, ← hcount]
  cases r with
  | chunkSend h last data =>
    cases last with
    | true => exact absurd rfl (hr h data)
    | false => rfl
  | warden f => simp [hv]
  | provision f => cases hv
  | _ => rfl

/-- Settles O41: a doorbell by whether one is rung, a fetch by what it finds, a record by whether it opens. -/
theorem mailboxCompletes : Obligations.MailboxCompletes := by
  refine ⟨fun fn s h => ⟨fun hr => ?_, fun hr => ?_⟩, fun o tag c st payload s h hf hc hr => ⟨fun hn => ⟨?_, ?_⟩, fun x hx => ?_⟩,
    fun o tag c s h hf hc hr => ⟨?_, response_mem_refuseFrame o 3 tag .pending s, ?_⟩,
    fun o n record x s h hf hc ho hx hseq hlen => ⟨fun data hd => ?_, fun hd => ⟨?_, not_mem_dropSession n o.sluice _⟩⟩,
    fun _ _ _ _ _ => handleSpdm_session⟩
  · rw [exec_mailboxDoorbell h, hr]
    rfl
  · rw [exec_mailboxDoorbell h, hr]
    rfl
  · rw [exec_fetch h hf, fetchResult_clear hc hr hn]
  · exact response_mem_answerAs_clear 3 3 tag 0 st payload _ hn
  · rw [exec_fetch h hf, fetchResult_session hc hr hx]
  · rw [exec_fetch h hf, fetchResult_pending hc hr]
  · exact answerFrame_pendings _ _ _ _ _ _
  · rw [exec_securedMessage h hf hc ho hx hseq hlen, hd]
  · rw [exec_securedMessage h hf hc ho hx hseq hlen, hd]

end Sys2Proof.Machine
end

section
/-! SUPPORT. SPDM requests in the clear (R334, R337, R338, R340), and the statement about the connection. -/

namespace Sys2Proof.Machine

/-! ### Lengths -/

@[simp] theorem length_leBytes (n v : Nat) : (leBytes n v).length = n := by
  induction n generalizing v with
  | zero => rfl
  | succ n ih => simp [leBytes, ih]

@[simp] theorem length_beBytes (n v : Nat) : (beBytes n v).length = n := by
  simp [beBytes]

@[simp] theorem length_zeros (n : Nat) : (zeros n).length = n := by
  simp [zeros]

theorem length_slice_le (b : Bytes) (off len : Nat) : (slice b off len).length ≤ len :=
  List.length_take_le len _

/-- An answer of up to a chunk's size is sent as it is. -/
theorem chunkAnswer_of_short {a : SpdmAnswer} (sl : Sluice) (s : State) (h : a.2.length ≤ 1022) :
    chunkAnswer sl a s = (a, s) := by
  have hlen : (spdmBytes a).length ≤ 1024 := by
    simp only [spdmBytes, List.length_append, List.length_cons, List.length_nil]
    omega
  simp [chunkAnswer, hlen]

/-! ### Answers in the clear -/

theorem endRequest_spdm (sl : Sluice) (session : Option (BitVec 32)) (st : Status) (s : State) :
    (endRequest sl session st s).spdm = s.spdm := answerFrame_spdm _ _ _ _ _ _

theorem sendSpdm_clear_spdm (sl : Sluice) (a : SpdmAnswer) (s : State) : (sendSpdm sl none a s).spdm = s.spdm := by
  unfold sendSpdm
  dsimp only
  split
  · exact endRequest_spdm _ _ _ _
  · exact answerFrame_spdm _ _ _ _ _ _

theorem spdm_mem_sendSpdm_clear {a : SpdmAnswer} (sl : Sluice) (s : State) (h : a ≠ noDraw) :
    .spdm sl a.1 a.2 ∈ (sendSpdm sl none a s).out := by
  unfold sendSpdm
  dsimp only
  rw [if_neg h, Option.bind_none]
  dsimp only
  rw [answerFrame_out]
  simp [emit]

/-- What an answer in the clear leaves of the responder's state: its transcripts grow, and a large answer is kept. -/
def Spdm.noting (x : Spdm) (transcript : List (Sluice × Bytes)) (chunks : List ((Sluice × BitVec 8) × Bytes)) : Spdm :=
  { x with transcript := transcript, chunksOut := chunks }

theorem chunkAnswer_spdm (sl : Sluice) (a : SpdmAnswer) (s : State) :
    ∃ c, (chunkAnswer sl a s).2.spdm = { s.spdm with chunksOut := c } := by
  unfold chunkAnswer
  split
  · exact ⟨_, rfl⟩
  · exact ⟨_, rfl⟩

theorem noted_fst (sl : Sluice) (session : Option (BitVec 32)) (r : SpdmRequest) (f : State → SpdmAnswer × State) (s : State) :
    (noted sl session r f s).1 = (f s).1 := by
  unfold noted
  dsimp only
  split <;> rfl

theorem noted_spdm (sl : Sluice) (session : Option (BitVec 32)) (r : SpdmRequest) (f : State → SpdmAnswer × State) (s : State) :
    ∃ tr, (noted sl session r f s).2.spdm = { (f s).2.spdm with transcript := tr } := by
  unfold noted
  dsimp only
  split
  · exact ⟨_, rfl⟩
  · exact ⟨_, rfl⟩

/-- A request on a sluice that carries SPDM, once boot is READY: what its handling answers is sent (R329, R337). -/
theorem runSpdm_of_carries {sl : Sluice} {s : State} (n : Option (BitVec 32)) (f : State → SpdmAnswer × State)
    (hc : carriesSpdm s sl = true) (hr : isReady s = true) :
    runSpdm sl n f s = sendSpdm sl n (chunkAnswer sl (f s).1 (f s).2).1 (chunkAnswer sl (f s).1 (f s).2).2 := by
  simp [runSpdm, sluiceOpen_of_carriesSpdm hc, spdmClosed_of_ready hc hr, hr]

/-- A request in the clear, by what its handling answers and leaves. -/
theorem completes_clear {c : Instr} {sl : Sluice} {r : SpdmRequest} {f : State → SpdmAnswer × State} {a : SpdmAnswer}
    {s u : State} {P : State → Prop} (he : exec c s = .next (runSpdm sl none (noted sl none r f) s))
    (hc : carriesSpdm s sl = true) (hr : isReady s = true) (hf : f s = (a, u))
    (hP : ∀ t, (a ≠ noDraw → a.2.length ≤ 1022 → .spdm sl a.1 a.2 ∈ t.out) → (∃ tr ch, t.spdm = u.spdm.noting tr ch) → P t) :
    Completes c s P := by
  have hfst : (noted sl none r f s).1 = a := by rw [noted_fst, hf]
  obtain ⟨tr, htr⟩ := noted_spdm sl none r f s
  obtain ⟨ch, hch⟩ := chunkAnswer_spdm sl (noted sl none r f s).1 (noted sl none r f s).2
  rw [hf] at htr
  rw [runSpdm_of_carries none _ hc hr] at he
  refine ⟨_, he, hP _ (fun hd hl => ?_) ⟨tr, ch, ?_⟩⟩
  · rw [chunkAnswer_of_short sl _ (hfst.symm ▸ hl), hfst]
    exact spdm_mem_sendSpdm_clear sl _ hd
  · rw [sendSpdm_clear_spdm, hch, htr]
    rfl

theorem negotiated_of_mem {sl : Sluice} {s : State} (f : State → SpdmAnswer × State) (h : sl ∈ s.spdm.negotiated) :
    negotiated sl f s = f s := by
  simp [negotiated, h]

/-- The entry that an index other than 0xFF names is one, or none for the number alone. -/
theorem length_measured_le {s : State} {index : BitVec 8} {l : List SurveyEntry} (hi : index ≠ 0xFF)
    (h : measured s index = some l) : l.length ≤ 1 := by
  unfold measured at h
  dsimp only at h
  rw [if_neg hi] at h
  split at h
  · cases h
    exact Nat.zero_le 1
  · obtain ⟨e, -, rfl⟩ := Option.map_eq_some_iff.1 h
    exact Nat.le_refl 1

theorem length_measurementBlock (e : SurveyEntry) : (measurementBlock e).length = 55 := by
  simp [measurementBlock]

theorem length_measurements_le {l : List SurveyEntry} (h : l.length ≤ 1) : (l.flatMap measurementBlock).length ≤ 55 := by
  match l, h with
  | [], _ => simp
  | [e], _ => simp [length_measurementBlock]

section
variable {sl : Sluice} {s : State}

theorem completes_getVersion (hc : carriesSpdm s sl = true) (hr : isReady s = true) :
    Completes (.getVersion sl) s fun t => .spdm sl 0x04 [0, 0, 0, 1, 0x00, 0x13] ∈ t.out ∧ sl ∉ t.spdm.negotiated := by
  refine completes_clear rfl hc hr rfl fun t hout ⟨tr, ch, hspdm⟩ => ⟨hout (by decide) (by decide), ?_⟩
  rw [hspdm]
  simp [Spdm.noting, modSpdm]

theorem completes_getCapabilities (hc : carriesSpdm s sl = true) (hr : isReady s = true) :
    Completes (.getCapabilities sl) s fun t =>
      .spdm sl 0x61 (zeros 6 ++ leBytes 4 spdmFlags ++ leBytes 4 1024 ++ leBytes 4 65536) ∈ t.out :=
  completes_clear rfl hc hr rfl fun _ hout _ => hout (by simp [noDraw]) (by simp)

theorem completes_negotiateAlgorithms (request : Bytes) (hc : carriesSpdm s sl = true) (hr : isReady s = true) :
    Completes (.negotiateAlgorithms sl request) s fun t => sl ∈ t.spdm.negotiated ↔ agrees request = true := by
  refine completes_clear rfl hc hr rfl fun t _ ⟨tr, ch, hspdm⟩ => ?_
  rw [hspdm]
  cases agrees request with
  | false => simp [Spdm.noting, modSpdm]
  | true => simp [Spdm.noting, modSpdm]

theorem completes_getDigests (hc : carriesSpdm s sl = true) (hr : isReady s = true) (hn : sl ∈ s.spdm.negotiated) :
    Completes (.getDigests sl) s fun t =>
      .spdm sl 0x01 ([0x03, 0x03] ++ beBytes 48 (Config.sha384 (certificate s 0)).toNat
        ++ beBytes 48 (Config.sha384 (certificate s 1)).toNat) ∈ t.out :=
  completes_clear rfl hc hr (negotiated_of_mem _ hn) fun _ hout _ => hout (by simp [noDraw]) (by simp)

theorem completes_getCertificate {slot : BitVec 8} {off len : Nat} (hc : carriesSpdm s sl = true) (hr : isReady s = true)
    (hn : sl ∈ s.spdm.negotiated) (hs : slot.toNat ≤ 1) (ho : off ≤ (certificate s slot.toNat).length) (hl : len ≤ 512) :
    Completes (.getCertificate sl slot off len) s fun t =>
      let part := slice (certificate s slot.toNat) off len
      .spdm sl 0x02 ([slot, 0] ++ leBytes 2 part.length
        ++ leBytes 2 ((certificate s slot.toNat).length - off - part.length) ++ part) ∈ t.out := by
  have hcert : spdmCertificate slot off len s = ((0x02, [slot, 0]
      ++ leBytes 2 (slice (certificate s slot.toNat) off len).length
      ++ leBytes 2 ((certificate s slot.toNat).length - off - (slice (certificate s slot.toNat) off len).length)
      ++ slice (certificate s slot.toNat) off len), s) := by
    simp [spdmCertificate, Nat.not_lt.2 hs, Nat.not_lt.2 ho, Nat.min_eq_left (by omega : len ≤ 65535)]
  have hpart := length_slice_le (certificate s slot.toNat) off len
  refine completes_clear rfl hc hr ((negotiated_of_mem _ hn).trans hcert) fun t hout _ => hout (by simp [noDraw]) ?_
  simp only [List.length_append, List.length_cons, List.length_nil, length_leBytes]
  omega

/-! ### Signed responses (R338, R340) -/

/-- The hash that a signature over a request and its response covers. -/
def signedHash (sl : Sluice) (r : SpdmRequest) (a : SpdmAnswer) (s : State) : Digest :=
  Config.sha384 (transcriptOf s sl ++ Config.spdmEncode r ++ spdmBytes a)

theorem signTranscript_fst (sl : Sluice) (r : SpdmRequest) (a : SpdmAnswer) (s : State) :
    (signTranscript sl r a s).1 = beBytes 96 (Config.ecdsaSign s.boot.aliasSeed (signedHash sl r a s)).toNat := by
  simp only [signTranscript, signedHash]

theorem lookup_signTranscript (sl : Sluice) (r : SpdmRequest) (a : SpdmAnswer) (s : State) (tr : List (Sluice × Bytes))
    (ch : List ((Sluice × BitVec 8) × Bytes)) :
    (((signTranscript sl r a s).2.2.spdm.noting tr ch).lastSigned.lookup sl) = some (signedHash sl r a s) :=
  lookup_assocSet_same sl _ s.spdm.lastSigned

theorem signedHash_drbgDraw (r : SpdmRequest) (a : SpdmAnswer) (n : Nat) :
    signedHash sl r a (drbgDraw n s) = signedHash sl r a s := by
  simp [signedHash, transcriptOf]

theorem completes_challenge {slot : BitVec 8} {nonce : BitVec 256} (hc : carriesSpdm s sl = true) (hr : isReady s = true)
    (hn : sl ∈ s.spdm.negotiated) (hs : slot.toNat ≤ 1) (hd : drbgAvailable s = true) :
    Completes (.challenge sl slot nonce) s fun t => ∃ body,
      let h := Config.sha384 (transcriptOf s sl ++ Config.spdmEncode (.challenge slot nonce) ++ spdmBytes (0x03, body))
      .spdm sl 0x03 (body ++ beBytes 96 (Config.ecdsaSign s.boot.aliasSeed h).toNat) ∈ t.out
        ∧ t.spdm.lastSigned.lookup sl = some h := by
  let body := [slot, 0x03] ++ beBytes 48 (Config.sha384 (certificate s slot.toNat)).toNat ++ (drawNonce s).1 ++ zeros 2
  let g := signTranscript sl (.challenge slot nonce) (0x03, body) (drawNonce s).2
  have hf : spdmChallenge sl slot nonce s = ((0x03, body ++ g.1), g.2.2) := by
    simp only [spdmChallenge, Nat.not_lt.2 hs, hd]
    rfl
  have hsig : g.1 = beBytes 96 (Config.ecdsaSign s.boot.aliasSeed (signedHash sl (.challenge slot nonce) (0x03, body) s)).toNat := by
    simp only [g, signTranscript_fst, drawNonce, signedHash_drbgDraw, drbgDraw_boot]
  refine completes_clear rfl hc hr ((negotiated_of_mem _ hn).trans hf) fun t hout ⟨tr, ch, hspdm⟩ => ⟨body, ?_, ?_⟩
  · rw [hsig] at hout
    exact hout (by simp [noDraw]) (by simp [body, drawNonce])
  · rw [hspdm, lookup_signTranscript]
    exact congrArg some (signedHash_drbgDraw _ _ 32)

theorem completes_getMeasurements {index : BitVec 8} {signed : Bool} {nonce : BitVec 256} {l : List SurveyEntry}
    (hc : carriesSpdm s sl = true) (hr : isReady s = true) (hn : sl ∈ s.spdm.negotiated) (hi : index ≠ 0xFF)
    (hl : measured s index = some l) (hd : drbgAvailable s = true) :
    Completes (.getMeasurements sl index signed nonce) s fun t => ∃ body,
      let h := Config.sha384 (transcriptOf s sl ++ Config.spdmEncode (.getMeasurements index signed nonce)
        ++ spdmBytes (0x60, body))
      (signed = false → .spdm sl 0x60 body ∈ t.out)
        ∧ (signed = true → .spdm sl 0x60 (body ++ beBytes 96 (Config.ecdsaSign s.boot.aliasSeed h).toNat) ∈ t.out
          ∧ t.spdm.lastSigned.lookup sl = some h) := by
  let total := if index = 0 then (s.boot.survey.filter fun e => e.index ≤ 253).length else 0
  let record := l.flatMap measurementBlock
  let body := [BitVec.ofNat 8 total, 0, BitVec.ofNat 8 l.length] ++ leBytes 3 record.length ++ record ++ (drawNonce s).1
    ++ zeros 2
  have hbody : body.length ≤ 120 := by
    have hrecord : record.length ≤ 55 := length_measurements_le (length_measured_le hi hl)
    simp only [body, drawNonce, List.length_append, List.length_cons, List.length_nil, length_leBytes, length_beBytes,
      length_zeros]
    omega
  cases signed with
  | false =>
    have hf : spdmMeasurements sl index false nonce s = ((0x60, body), (drawNonce s).2) := by
      simp only [spdmMeasurements, hl, hd]
      rfl
    refine completes_clear rfl hc hr ((negotiated_of_mem _ hn).trans hf) fun t hout _ => ⟨body, fun _ => ?_, fun h => ?_⟩
    · exact hout (by simp [noDraw]) (hbody.trans (by omega))
    · cases h
  | true =>
    let g := signTranscript sl (.getMeasurements index true nonce) (0x60, body) (drawNonce s).2
    have hf : spdmMeasurements sl index true nonce s = ((0x60, body ++ g.1), g.2.2) := by
      simp only [spdmMeasurements, hl, hd]
      rfl
    have hsig : g.1 = beBytes 96
        (Config.ecdsaSign s.boot.aliasSeed (signedHash sl (.getMeasurements index true nonce) (0x60, body) s)).toNat := by
      simp only [g, signTranscript_fst, drawNonce, signedHash_drbgDraw, drbgDraw_boot]
    refine completes_clear rfl hc hr ((negotiated_of_mem _ hn).trans hf) fun t hout ⟨tr, ch, hspdm⟩ =>
      ⟨body, fun h => ?_, fun _ => ⟨?_, ?_⟩⟩
    · cases h
    · rw [hsig] at hout
      refine hout (by simp [noDraw]) ?_
      simp only [List.length_append, length_beBytes]
      omega
    · rw [hspdm, lookup_signTranscript]
      exact congrArg some (signedHash_drbgDraw _ _ 32)

theorem exec_pqSignature {h : Digest} (hc : carriesSpdm s sl = true) (hr : isReady s = true)
    (hl : s.spdm.lastSigned.lookup sl = some h) :
    exec (.pqSignature sl) s
      = .next (let x := noted sl none .pqSignature (fun s => (wrapped (Config.mldsaSign s.boot.aliasPqSeed h), s)) s
               let c := chunkAnswer sl x.1 x.2
               sendSpdm sl none c.1 c.2) := by
  have hf : spdmPqSignature sl s = (wrapped (Config.mldsaSign s.boot.aliasPqSeed h), s) := by
    simp [spdmPqSignature, hl]
  change Host.Outcome.next (runSpdm sl none (noted sl none .pqSignature (spdmPqSignature sl)) s) = _
  rw [runSpdm_of_carries none _ hc hr]
  simp only [noted, hf]

/-! ### Chunks and what is not supported (R338, R354) -/

theorem completes_unsupportedRequest (code : BitVec 8) (hc : carriesSpdm s sl = true) (hr : isReady s = true) :
    Completes (.unsupportedRequest sl code) s fun t => .spdm sl 0x7F [0x07, code] ∈ t.out :=
  completes_clear (f := fun s => (spdmError 0x07 code, s)) rfl hc hr rfl fun _ hout _ =>
    hout (by simp [noDraw, spdmError]) (by simp [spdmError])

theorem completes_chunkSend {h : BitVec 8} {data : Bytes} (hc : carriesSpdm s sl = true) (hr : isReady s = true)
    (hl : data.length ≤ 1024) :
    Completes (.chunkSend sl h false data) s fun t =>
      chunksOf sl h t = chunksOf sl h s ++ data ∧ .spdm sl 0x05 [0, h] ∈ t.out := by
  have hf : spdmChunkSend sl h false data s = ((0x05, [0, h]), modSpdm (fun x => { x with
      chunksIn := assocSet (sl, h) (chunksOf sl h s ++ data) x.chunksIn }) s) := by
    simp only [spdmChunkSend, Nat.not_lt.2 hl]
    rfl
  refine completes_clear (f := spdmChunkSend sl h false data) rfl hc hr hf fun t hout ⟨tr, ch, hspdm⟩ =>
    ⟨?_, hout (by simp [noDraw]) (by simp)⟩
  unfold chunksOf
  rw [hspdm]
  exact assocGet_assocSet_same _ _ _ _

/-- A chunk that is not the last is sent, and the kept response stays. -/
theorem exec_chunkGet {h : BitVec 8} {seq : BitVec 16} {m : Bytes} (hc : carriesSpdm s sl = true) (hr : isReady s = true)
    (hm : s.spdm.chunksOut.lookup (sl, h) = some m) (hlen : seq.toNat * 1024 + 1024 < m.length) :
    exec (.chunkGet sl h seq) s
      = .next (let part := slice m (seq.toNat * 1024) 1024
               let a := (0x06, [0, h] ++ leBytes 2 seq.toNat ++ zeros 2 ++ leBytes 4 part.length ++ part)
               sendSpdm sl none a (noted sl none (.chunkGet h seq) (fun s => (a, s)) s).2) := by
  have hf : spdmChunkGet sl h seq s = ((0x06, [0, h] ++ leBytes 2 seq.toNat ++ zeros 2
      ++ leBytes 4 (slice m (seq.toNat * 1024) 1024).length ++ slice m (seq.toNat * 1024) 1024), s) := by
    simp [spdmChunkGet, hm, Nat.not_le.2 hlen, Nat.not_le.2 (Nat.lt_of_le_of_lt (Nat.le_add_right _ 1024) hlen)]
  change Host.Outcome.next (runSpdm sl none (noted sl none (.chunkGet h seq) (spdmChunkGet sl h seq)) s) = _
  rw [runSpdm_of_carries none _ hc hr]
  have hnoted : noted sl none (.chunkGet h seq) (spdmChunkGet sl h seq) s = noted sl none (.chunkGet h seq) (fun s =>
      ((0x06, [0, h] ++ leBytes 2 seq.toNat ++ zeros 2 ++ leBytes 4 (slice m (seq.toNat * 1024) 1024).length
        ++ slice m (seq.toNat * 1024) 1024), s)) s := by
    simp only [noted, hf]
  have hchunk : ∀ (b : Bytes) (u : State), chunkAnswer sl (0x06, b) u = ((0x06, b), u) := fun b u => by
    simp [chunkAnswer]
  rw [hnoted, noted_fst, hchunk]

end

/-- Settles O42: each request by what its handling answers and what of the responder's state it leaves. -/
theorem spdmConnectionCompletes : Obligations.SpdmConnectionCompletes := fun _ _ hc hr =>
  ⟨completes_getVersion hc hr, completes_getCapabilities hc hr, fun request => completes_negotiateAlgorithms request hc hr,
    completes_getDigests hc hr, fun _ _ _ => completes_getCertificate hc hr,
    fun _ _ hn hs => completes_challenge hc hr hn hs, fun _ _ _ _ hn hi hl => completes_getMeasurements hc hr hn hi hl,
    fun _ => exec_pqSignature hc hr, fun code => completes_unsupportedRequest code hc hr,
    fun _ _ => completes_chunkSend hc hr, fun _ _ _ => exec_chunkGet hc hr⟩

end Sys2Proof.Machine
end

section
/-! SUPPORT. Key exchange and sessions (R317, R338, R339, R341, R342), and the statement about them. -/

namespace Sys2Proof.Machine

/-! ### Sessions -/

/-- The session of an ID on a sluice. -/
def findSession (s : State) (n : BitVec 32) (sl : Sluice) : Option Session :=
  s.spdm.sessions.find? fun x => x.id = n && x.sluice = sl

theorem sessionOf_eq_findSession (sl : Sluice) (n : BitVec 32) (s : State) :
    sessionOf { sluice := sl, session := some n } s = findSession s n sl := rfl

theorem findSession_congr {s t : State} (n : BitVec 32) (sl : Sluice) (h : t.spdm = s.spdm) :
    findSession t n sl = findSession s n sl := by
  unfold findSession
  rw [h]

theorem ids_of_findSession {s : State} {n : BitVec 32} {sl : Sluice} {x : Session} (h : findSession s n sl = some x) :
    x.id = n ∧ x.sluice = sl := by
  simpa using List.find?_some h

theorem mem_of_findSession {s : State} {n : BitVec 32} {sl : Sluice} {x : Session} (h : findSession s n sl = some x) :
    x ∈ s.spdm.sessions := List.mem_of_find?_eq_some h

theorem findSession_modSession {n : BitVec 32} {f : Session → Session} (sl : Sluice) (s : State)
    (h : ∀ x, (f x).id = x.id ∧ (f x).sluice = x.sluice) :
    findSession (modSession n f s) n sl = (findSession s n sl).map f := by
  let g := fun x : Session => if x.id = n then f x else x
  have hids : ∀ x, (g x).id = x.id ∧ (g x).sluice = x.sluice := fun x => by
    dsimp only [g]
    split
    · exact h x
    · exact ⟨rfl, rfl⟩
  have hsame : ((fun x : Session => x.id = n && x.sluice = sl) ∘ g) = fun x => x.id = n && x.sluice = sl :=
    funext fun x => by simp [hids x]
  have halter : (modSession n f s).spdm.sessions = s.spdm.sessions.map g :=
    List.map_congr_left fun x _ => by simp [g]
  unfold findSession
  rw [halter, List.find?_map, hsame]
  cases hx : s.spdm.sessions.find? fun x => x.id = n && x.sluice = sl with
  | none => rfl
  | some x =>
    have hid : x.id = n := (ids_of_findSession hx).1
    simp [g, hid]

theorem findSession_modSession_of_find {n : BitVec 32} {f : Session → Session} {sl : Sluice} {s : State} {x : Session}
    (hx : findSession s n sl = some x) (h : ∀ x, (f x).id = x.id ∧ (f x).sluice = x.sluice) :
    findSession (modSession n f s) n sl = some (f x) := by
  rw [findSession_modSession sl s h, hx]
  rfl

/-- A session that has sent one more record. -/
def Session.sent (x : Session) : Session := { x with txSeq := x.txSeq + 1 }

/-- A session whose requester has sent one more record (R317). -/
def Session.received (x : Session) : Session := { x with rxSeq := nextSeq x.rxSeq }

/-- An answer to a request of a session is sent as a record of it. -/
theorem sendSpdm_session {sl : Sluice} {n : BitVec 32} {a : SpdmAnswer} {s : State} {x : Session} (ha : a ≠ noDraw)
    (hl : a.2.length ≤ 1022) (hx : findSession s n sl = some x) (ht : x.txSeq ≠ BitVec.allOnes 64) :
    .spdm sl a.1 a.2 ∈ (sendSpdm sl (some n) a s).out
      ∧ findSession (sendSpdm sl (some n) a s) n sl = some x.sent := by
  have hbytes : (spdmBytes a).length ≤ 65536 := by
    simp only [spdmBytes, List.length_append, List.length_cons, List.length_nil]
    omega
  have hid := (ids_of_findSession hx).1
  have hfind : ((some n).bind fun n => s.spdm.sessions.find? fun x => x.id = n && x.sluice = sl) = some x := hx
  unfold sendSpdm
  dsimp only
  rw [if_neg ha, hfind]
  dsimp only
  rw [if_neg ht, inlineJob_record x.id x.txKey hbytes, hid]
  refine ⟨?_, ?_⟩
  · rw [answerFrame_out, modSession_out, traceInline_out]
    simp [emit]
  · rw [findSession_congr n sl (answerFrame_spdm _ _ _ _ _ _)]
    refine findSession_modSession_of_find (f := Session.sent) ?_ fun _ => ⟨rfl, rfl⟩
    rw [findSession_congr n sl (traceInline_spdm _ _ _)]
    exact hx

/-- A request of a session as its record leaves the session: what its handling answers is sent in it. -/
theorem runSpdm_session {sl : Sluice} {n : BitVec 32} {f : Session → State → SpdmAnswer × State} {a : SpdmAnswer}
    {s u : State} {x y : Session} (hc : carriesSpdm s sl = true) (hr : isReady s = true) (hx : findSession s n sl = some x)
    (hf : f x s = (a, u)) (ha : a ≠ noDraw) (hl : a.2.length ≤ 1022) (hy : findSession u n sl = some y)
    (ht : y.txSeq ≠ BitVec.allOnes 64) :
    .spdm sl a.1 a.2 ∈ (runSpdm sl (some n) (inSession sl (some n) f) s).out
      ∧ findSession (runSpdm sl (some n) (inSession sl (some n) f) s) n sl = some y.sent := by
  have hin : inSession sl (some n) f s = (a, u) := by
    have hfind : ((some n).bind fun n => s.spdm.sessions.find? fun x => x.id = n && x.sluice = sl) = some x := hx
    unfold inSession
    rw [hfind]
    exact hf
  rw [runSpdm_of_carries (some n) _ hc hr, hin, chunkAnswer_of_short sl u hl]
  exact sendSpdm_session ha hl hy ht

/-- A request of a session keeps no transcript. -/
theorem noted_session (sl : Sluice) (n : BitVec 32) (r : SpdmRequest) (f : State → SpdmAnswer × State) :
    noted sl (some n) r f = f := rfl

/-- The state once the record that a session's request came in has counted. -/
def countedRecord (n : BitVec 32) (s : State) : State := modSession n Session.received s

theorem findSession_countedRecord {sl : Sluice} {n : BitVec 32} {s : State} {x : Session} (h : findSession s n sl = some x) :
    findSession (countedRecord n s) n sl = some x.received :=
  findSession_modSession_of_find h fun _ => ⟨rfl, rfl⟩

section
variable {sl : Sluice} {n : BitVec 32} {x : Session} {s : State}

/-- A request of a session counts its record and is handled there. -/
theorem handleSpdm_of_findSession {r : SpdmRequest} (hx : findSession s n sl = some x) (hseq : x.rxSeq ≠ BitVec.allOnes 64)
    (hv : isVendor r = false) (hr : ∀ h data, r ≠ .chunkSend h true data) :
    handleSpdm sl (some n) r s = vendorMessage sl n r (countedRecord n s) := by
  rw [handleSpdm_session hx hseq hv hr, (ids_of_findSession hx).1]
  rfl

/-- A request of a session, by what its handling answers and the session that it leaves. -/
theorem completes_session {c : Instr} {r : SpdmRequest} {f : Session → State → SpdmAnswer × State} {a : SpdmAnswer}
    {u : State} {y : Session} {P : State → Prop} (he : exec c s = .next (handleSpdm sl (some n) r s))
    (hv : isVendor r = false) (hk : ∀ h data, r ≠ .chunkSend h true data)
    (hp : ∀ v, vendorMessage sl n r v = runSpdm sl (some n) (inSession sl (some n) f) v)
    (hc : carriesSpdm s sl = true) (hr : isReady s = true) (hx : findSession s n sl = some x)
    (hseq : x.rxSeq ≠ BitVec.allOnes 64) (hf : f x.received (countedRecord n s) = (a, u)) (ha : a ≠ noDraw)
    (hl : a.2.length ≤ 1022) (hy : findSession u n sl = some y) (ht : y.txSeq ≠ BitVec.allOnes 64)
    (hP : ∀ t, .spdm sl a.1 a.2 ∈ t.out → findSession t n sl = some y.sent → P t) : Completes c s P := by
  have hcounted : carriesSpdm (countedRecord n s) sl = true := hc
  obtain ⟨hout, hsent⟩ := runSpdm_session hcounted hr (findSession_countedRecord hx) hf ha hl hy ht
  refine ⟨_, he, ?_⟩
  rw [handleSpdm_of_findSession hx hseq hv hk, hp]
  exact hP _ hout hsent

/-- FINISH with the right value establishes the session. -/
theorem completes_finish {verify : Digest} (hc : carriesSpdm s sl = true) (hr : isReady s = true) (hx : findSession s n sl = some x)
    (hseq : x.rxSeq ≠ BitVec.allOnes 64) (he : x.stage ≠ .established) (hm : x.wantMutual = true → x.mutual_ = true)
    (hv : verify = Config.spdmFinished x.rxKey x.transcript) :
    Completes (.finish sl n verify) s fun t =>
      ∃ y ∈ t.spdm.sessions, y.id = n ∧ y.sluice = sl ∧ y.stage = .established ∧ y.rxSeq = 0 := by
  let g := fun y : Session => { y with
    stage := .established, rxKey := Config.spdmData y.rxKey y.transcript, txKey := Config.spdmData y.txKey y.transcript
    rxSeq := 0, txSeq := 0 }
  have hwait : ¬(x.received.stage = .established || (x.received.wantMutual && !x.received.mutual_)) = true := by
    cases hw : x.wantMutual with
    | false => simp [Session.received, he, hw]
    | true => simp [Session.received, he, hm hw]
  have hf : spdmFinish x.received verify (countedRecord n s) = ((0x65, zeros 2), modSession x.id g (countedRecord n s)) :=
    (if_neg hwait).trans (if_neg (not_not.2 hv))
  obtain ⟨hid, hsl⟩ := ids_of_findSession hx
  refine completes_session (f := fun x => spdmFinish x verify) (y := g x.received) rfl rfl
    (by simp) (fun _ => rfl) hc hr hx hseq hf (by simp [noDraw]) (by simp) ?_ (by simp [g]) fun t _ ht =>
      ⟨_, mem_of_findSession ht, hid, hsl, rfl, rfl⟩
  rw [hid]
  exact findSession_modSession_of_find (findSession_countedRecord hx) fun _ => ⟨rfl, rfl⟩

theorem completes_heartbeat (hc : carriesSpdm s sl = true) (hr : isReady s = true) (hx : findSession s n sl = some x)
    (hseq : x.rxSeq ≠ BitVec.allOnes 64) (htx : x.txSeq ≠ BitVec.allOnes 64) (he : x.stage = .established) :
    Completes (.heartbeat sl n) s fun t => .spdm sl 0x68 (zeros 2) ∈ t.out := by
  have hf : spdmHeartbeat x.received (countedRecord n s) = ((0x68, zeros 2), countedRecord n s) := if_pos he
  exact completes_session rfl rfl (by simp) (fun _ => rfl) hc hr hx hseq hf (by simp [noDraw]) (by simp)
    (findSession_countedRecord hx) htx fun t ht _ => ht

/-- A session whose keys are replaced (R317). -/
def Session.rekeyed (both : Bool) (x : Session) : Session :=
  let y := { x with rxKey := Config.spdmUpdate x.rxKey, rxSeq := 0 }
  if both then { y with txKey := Config.spdmUpdate y.txKey, txSeq := 0 } else y

theorem completes_keyUpdate (both : Bool) (hc : carriesSpdm s sl = true) (hr : isReady s = true)
    (hx : findSession s n sl = some x) (hseq : x.rxSeq ≠ BitVec.allOnes 64) (htx : x.txSeq ≠ BitVec.allOnes 64)
    (he : x.stage = .established) :
    Completes (.keyUpdate sl n both) s fun t =>
      ∃ y ∈ t.spdm.sessions, y.id = n ∧ y.sluice = sl ∧ y.rxKey = Config.spdmUpdate x.rxKey ∧ y.rxSeq = 0
        ∧ y.txKey = if both then Config.spdmUpdate x.txKey else x.txKey := by
  have hf : spdmKeyUpdate x.received both (countedRecord n s)
      = ((0x69, [if both then 2 else 1, 0]), modSession x.id (Session.rekeyed both) (countedRecord n s)) :=
    if_neg (not_not.2 he)
  have hkeeps : ∀ y, (Session.rekeyed both y).id = y.id ∧ (Session.rekeyed both y).sluice = y.sluice := fun y => by
    cases both <;> exact ⟨rfl, rfl⟩
  have hy : findSession (modSession x.id (Session.rekeyed both) (countedRecord n s)) n sl
      = some (Session.rekeyed both x.received) := by
    rw [(ids_of_findSession hx).1]
    exact findSession_modSession_of_find (findSession_countedRecord hx) hkeeps
  obtain ⟨hid, hsl⟩ := ids_of_findSession hx
  refine completes_session rfl rfl (by simp) (fun _ => rfl) hc hr hx hseq hf (by simp [noDraw]) (by simp) hy ?_ fun t _ ht =>
    ⟨_, mem_of_findSession ht, (ids_of_findSession ht).1, (ids_of_findSession ht).2, ?_, ?_, ?_⟩
  · cases both with
    | false => exact htx
    | true => simp [Session.rekeyed]
  · cases both <;> rfl
  · cases both <;> rfl
  · cases both <;> rfl

/-- END_SESSION is answered in the session, which then is over. -/
theorem completes_endSession (hc : carriesSpdm s sl = true) (hr : isReady s = true) (hx : findSession s n sl = some x)
    (hseq : x.rxSeq ≠ BitVec.allOnes 64) (htx : x.txSeq ≠ BitVec.allOnes 64) :
    Completes (.endSession sl n) s fun t => .spdm sl 0x6C (zeros 2) ∈ t.out
      ∧ ∀ y ∈ t.spdm.sessions, ¬(y.id = n ∧ y.sluice = sl) := by
  have hcounted : carriesSpdm (countedRecord n s) sl = true := hc
  have hready : isReady (countedRecord n s) = true := hr
  obtain ⟨hout, -⟩ := runSpdm_session (f := spdmEnded) hcounted hready (findSession_countedRecord hx) rfl (by simp [noDraw])
    (by simp) (findSession_countedRecord hx) htx
  refine ⟨_, rfl, ?_⟩
  have hend : handleSpdm sl (some n) .endSession s
      = dropSession n sl (runSpdm sl (some n) (inSession sl (some n) spdmEnded) (countedRecord n s)) := by
    rw [handleSpdm_of_findSession hx hseq rfl (by simp)]
    exact if_pos hready
  rw [hend]
  exact ⟨hout, not_mem_dropSession n sl _⟩

theorem completes_getEncapsulatedRequest (hc : carriesSpdm s sl = true) (hr : isReady s = true)
    (hx : findSession s n sl = some x) (hseq : x.rxSeq ≠ BitVec.allOnes 64) (htx : x.txSeq ≠ BitVec.allOnes 64)
    (hw : x.wantMutual = true) (he : x.stage ≠ .established) (ha : x.asked < 3) :
    Completes (.getEncapsulatedRequest sl n) s fun t =>
      ∃ y ∈ t.spdm.sessions, y.id = n ∧ y.sluice = sl ∧ y.stage = .encapsulated ∧ y.asked = x.asked + 1 := by
  let g := fun x : Session => { x with stage := .encapsulated, asked := x.asked + 1 }
  have hf : spdmNextRequest x.received (countedRecord n s)
      = ((0x6A, [BitVec.ofNat 8 (x.asked + 1), 0] ++ encapsulated x.asked), modSession x.id g (countedRecord n s)) := by
    simp [spdmNextRequest, Session.received, hw, he, Nat.not_le.2 ha, g]
  have hlen : (encapsulated x.asked).length ≤ 4 := by
    unfold encapsulated
    split <;> simp
  obtain ⟨hid, hsl⟩ := ids_of_findSession hx
  refine completes_session (y := g x.received) rfl rfl (by simp) (fun _ => rfl) hc hr hx hseq hf (by simp [noDraw]) ?_ ?_ htx
    fun t _ ht => ⟨_, mem_of_findSession ht, hid, hsl, rfl, rfl⟩
  · simp only [List.length_append, List.length_cons, List.length_nil]
    omega
  · rw [hid]
    exact findSession_modSession_of_find (findSession_countedRecord hx) fun _ => ⟨rfl, rfl⟩

/-- A chain whose signature verifies authenticates the requester. -/
theorem completes_deliverEncapsulatedResponse {chain sig : Bytes} (hc : carriesSpdm s sl = true) (hr : isReady s = true)
    (hx : findSession s n sl = some x) (hseq : x.rxSeq ≠ BitVec.allOnes 64) (htx : x.txSeq ≠ BitVec.allOnes 64)
    (he : x.stage = .encapsulated) (hchain : chain ≠ []) (hsig : sig ≠ [])
    (hv : Config.chainSigned chain sig x.transcript = true) :
    Completes (.deliverEncapsulatedResponse sl n chain sig) s fun t =>
      ∃ y ∈ t.spdm.sessions, y.id = n ∧ y.sluice = sl ∧ y.mutual_ = true
        ∧ y.identity = some (Config.chainLeaf chain) ∧ y.fabricKey = Config.chainEndsIn chain s.owner.fmKey := by
  let k := fun x : Session => { x with chain := chain }
  let g := fun y : Session => { y with
    mutual_ := true, identity := some (Config.chainLeaf chain), asked := 3
    fabricKey := Config.chainEndsIn chain s.owner.fmKey }
  have hf : spdmDelivered x.received chain sig (countedRecord n s)
      = ((0x6B, zeros 2), modSession x.id g (modSession x.id k (countedRecord n s))) := by
    have hempty : sig.isEmpty = false := by simpa using hsig
    have hsome : chain.isEmpty = false := by simpa using hchain
    simp only [spdmDelivered, Session.received, he, hempty, hsome, hv, ne_eq, not_true_eq_false, if_false,
      Bool.false_eq_true, Bool.not_true]
    rfl
  obtain ⟨hid, hsl⟩ := ids_of_findSession hx
  refine completes_session (f := fun x => spdmDelivered x chain sig) (y := g (k x.received)) rfl rfl (by simp) (fun _ => rfl)
    hc hr hx hseq hf (by simp [noDraw]) (by simp) ?_ htx
    fun t _ ht => ⟨_, mem_of_findSession ht, hid, hsl, rfl, rfl, rfl⟩
  rw [hid]
  exact findSession_modSession_of_find (findSession_modSession_of_find (findSession_countedRecord hx) fun _ => ⟨rfl, rfl⟩)
    fun _ => ⟨rfl, rfl⟩

/-! ### Offers and exchanges -/

theorem completes_kemOffer {key : Bytes} (hc : carriesSpdm s sl = true) (hr : isReady s = true)
    (hn : sl ∈ s.spdm.negotiated) (hk : key.length = 1568) (hd : drbgAvailable s = true) :
    Completes (.kemOffer sl key) s fun t =>
      ∃ k ∈ t.spdm.offers, k.sluice = sl ∧ k.hash = Config.sha384 key ∧ k.at_ = s.time := by
  let r : BitVec 256 := (drbgValue s).setWidth 256
  let offer : KemOffer :=
    { sluice := sl, hash := Config.sha384 key, answer := Config.sha384 (Config.mlkemCiphertext key r),
      secret := Config.mlkemSecret key r, at_ := s.time }
  have hf : spdmKemOffer sl key s = (wrapped (Config.mlkemCiphertext key r), modSpdm (fun x => { x with
      offers := upsert (fun y => y.sluice = sl) offer x.offers }) (drbgDraw 32 s)) := by
    simp only [spdmKemOffer, hk, hd]
    rfl
  refine completes_clear rfl hc hr ((negotiated_of_mem _ hn).trans hf) fun t _ ⟨tr, ch, hspdm⟩ => ⟨offer, ?_, rfl, rfl, rfl⟩
  rw [hspdm]
  exact mem_upsert _ _ _

theorem signTranscript_offers (sl : Sluice) (r : SpdmRequest) (a : SpdmAnswer) (s : State) :
    (signTranscript sl r a s).2.2.spdm.offers = s.spdm.offers := by
  simp only [signTranscript, modSpdm]

theorem signTranscript_sessions (sl : Sluice) (r : SpdmRequest) (a : SpdmAnswer) (s : State) :
    (signTranscript sl r a s).2.2.spdm.sessions = s.spdm.sessions := by
  simp only [signTranscript, modSpdm]

/-- A session as its exchange makes it (R339). -/
theorem completes_keyExchange {half : BitVec 16} {share : Bytes} {k : KemOffer} {m : Bool} (hc : carriesSpdm s sl = true)
    (hr : isReady s = true) (hn : sl ∈ s.spdm.negotiated) (hk : (s.spdm.offers.find? fun k => k.sluice = sl) = some k)
    (ho : offerOver k s = false) (hlim : (s.spdm.sessions.filter fun x => x.sluice = sl).length < sessionLimit sl)
    (hd : drbgAvailable s = true) :
    Completes (.keyExchange sl half share k.hash m) s fun t =>
      (∀ y ∈ t.spdm.offers, y.sluice ≠ sl) ∧ ∃ x, t.spdm.sessions = s.spdm.sessions ++ [x] ∧ x.sluice = sl
        ∧ x.id = newSessionId half s ∧ x.stage = .handshake ∧ x.wantMutual = m ∧ x.rxSeq = 0 ∧ x.txSeq = 0 := by
  let u := modSpdm (fun x => { x with offers := x.offers.filter fun k => k.sluice ≠ sl }) s
  have hoffer : (s.spdm.offers.find? fun k => k.sluice = sl).filter (fun k => !offerOver k s) = some k := by
    simp [hk, ho]
  obtain ⟨a, w, x, hf, hoffers, hsessions, hx⟩ : ∃ a w x, spdmKeyExchange sl half share k.hash m s = (a, w)
      ∧ w.spdm.offers = u.spdm.offers ∧ w.spdm.sessions = s.spdm.sessions ++ [x] ∧ x.sluice = sl
      ∧ x.id = newSessionId half s ∧ x.stage = .handshake ∧ x.wantMutual = m ∧ x.rxSeq = 0 ∧ x.txSeq = 0 := by
    generalize hp : spdmKeyExchange sl half share k.hash m s = p
    unfold spdmKeyExchange at hp
    extract_lets offer e id at hp
    have hpending : offer = some k := hoffer
    clear_value offer
    subst hpending
    split at hp
    · next hnone => cases hnone
    · next l hsome =>
      obtain rfl : k = l := Option.some.inj hsome
      rw [if_neg (not_not.2 rfl)] at hp
      split at hp
      · next hfull => exact absurd hlim (Nat.not_lt.2 hfull)
      · split at hp
        · next hout => cases hd.symm.trans ((Bool.not_eq_true' _).mp hout)
        · extract_lets body g secret keys x verify at hp
          have hoffers : g.2.2.spdm.offers = u.spdm.offers := by
            unfold g
            rw [signTranscript_offers, drbgDraw_spdm]
          have hsessions : g.2.2.spdm.sessions = u.spdm.sessions := by
            unfold g
            rw [signTranscript_sessions, drbgDraw_spdm]
          subst hp
          exact ⟨_, _, x, rfl, hoffers, congrArg (· ++ [x]) hsessions, rfl, rfl, rfl, rfl, rfl, rfl⟩
  have hneg : negotiated sl (spdmKeyExchange sl half share k.hash m) s = (a, w) := (negotiated_of_mem _ hn).trans hf
  refine completes_clear rfl hc hr hneg fun t _ ⟨tr, ch, hspdm⟩ => ⟨fun y hy => ?_, x, ?_, hx⟩
  · rw [hspdm] at hy
    have hy : y ∈ u.spdm.offers := hoffers ▸ hy
    simpa using (List.mem_filter.1 hy).2
  · rw [hspdm]
    exact hsessions

end

/-- Settles O43: an offer and an exchange in the clear, then each request of a session by the session that it leaves. -/
theorem spdmSessionsComplete : Obligations.SpdmSessionsComplete :=
  ⟨fun _ _ _ => completes_kemOffer, fun _ _ _ _ _ _ => completes_keyExchange, fun _ _ _ _ hc hr hx hseq htx =>
    ⟨fun _ he hm hv => completes_finish hc hr hx hseq he hm hv, completes_heartbeat hc hr hx hseq htx,
      fun both => completes_keyUpdate both hc hr hx hseq htx, completes_endSession hc hr hx hseq htx,
      completes_getEncapsulatedRequest hc hr hx hseq htx,
      fun _ _ => completes_deliverEncapsulatedResponse hc hr hx hseq htx⟩⟩

end Sys2Proof.Machine
end

section
/-! SUPPORT. What the operations of the model keep of the outputs, of a notice that waits, and of the VFs: the first only
grow, the others stay, but for the pages that a VF's dirty log could not hold (R401, R436). One lemma for each operation
that a teardown or a function's reset goes through, by the operations that its definition is made of. -/

namespace Sys2Proof.Machine

/-- From s to t the outputs only grow, and the notice that waits and the VFs, but for all_dirty, are the same. -/
structure State.grows (s t : State) : Prop where
  out : s.out ⊆ t.out
  unsent : t.sb.unsent = s.sb.unsent
  vfs : vfsButDirty t = vfsButDirty s

theorem grows_refl (s : State) : s.grows s := ⟨List.Subset.refl _, rfl, rfl⟩

theorem State.grows.trans {s t u : State} (h : s.grows t) (h' : t.grows u) : s.grows u :=
  ⟨List.Subset.trans h.out h'.out, h'.unsent.trans h.unsent, h'.vfs.trans h.vfs⟩

/-- An operation that changes none of the outputs, the side-band and the functions. -/
theorem grows_of_agree {A : List Part} {s0 s t : State} (hs : s0.grows s) (h : s.agree A t)
    (hA : (A.contains .out || A.contains .sb || A.contains .fns) = false) : s0.grows t := by
  simp only [Bool.or_eq_false_iff] at hA
  obtain ⟨⟨hout, hsb⟩, hfns⟩ := hA
  have hout : t.out = s.out := h .out hout
  have hsb : t.sb = s.sb := h .sb hsb
  have hfns : t.fns = s.fns := h .fns hfns
  exact hs.trans ⟨hout ▸ List.Subset.refl _, by rw [hsb], vfsButDirty_congr (by rw [hfns])⟩

/-- A record update that leaves the outputs, the notice that waits and the VFs. -/
theorem grows_mk {s0 s : State} {x0 x1 x2 x3 x4 x5 x6 x7 x8 x9 x10 x11 x12 x13 x14 x15 x16 x17 x18
    x19 x20 x21 x22 x23 x24 x25 x26 x27 x28 x29 x30 x31 x32 x33} (hs : s0.grows s) (hout : x1 = s.out)
    (hsb : x10.unsent = s.sb.unsent) (hfns : x24.vfs = s.fns.vfs) :
    s0.grows (State.mk x0 x1 x2 x3 x4 x5 x6 x7 x8 x9 x10 x11 x12 x13 x14 x15 x16 x17 x18 x19 x20 x21 x22 x23 x24 x25 x26
      x27 x28 x29 x30 x31 x32 x33) :=
  hs.trans ⟨hout ▸ List.Subset.refl _, hsb, vfsButDirty_congr hfns⟩

theorem ite_grows {s0 : State} {c : Prop} [Decidable c] {s t : State} (hs : s0.grows s) (ht : s0.grows t) :
    s0.grows (if c then s else t) := by split <;> assumption

theorem ite_pair_grows {s0 : State} {α : Type} {c : Prop} [Decidable c] {p q : α × State} (hp : s0.grows p.2)
    (hq : s0.grows q.2) : s0.grows (if c then p else q).2 := by split <;> assumption

theorem ite_trip_grows {s0 : State} {α β : Type} {c : Prop} [Decidable c] {p q : α × β × State} (hp : s0.grows p.2.2)
    (hq : s0.grows q.2.2) : s0.grows (if c then p else q).2.2 := by split <;> assumption

theorem id_grows {s0 s : State} (h : s0.grows s) : s0.grows (id s) := h

theorem grows_of_pair {s0 : State} {α : Type} {p : α × State} {a : α} {t : State} (e : p = (a, t)) (h : s0.grows p.2) :
    s0.grows t := by
  subst e
  exact h

theorem grows_of_trip {s0 : State} {α β : Type} {p : α × β × State} {a : α} {b : β} {t : State} (e : p = (a, b, t))
    (h : s0.grows p.2.2) : s0.grows t := by
  subst e
  exact h

/-- Every state that an answer holds has grown. -/
def GrowsOpt (s0 : State) (o : Option State) : Prop := ∀ t, o = some t → s0.grows t

theorem growsOpt_none {s0 : State} : GrowsOpt s0 none := fun _ h => nomatch h

theorem growsOpt_some {s0 t : State} (h : s0.grows t) : GrowsOpt s0 (some t) := fun _ e => Option.some.inj e ▸ h

theorem grows_of_opt {s0 : State} {o : Option State} {t : State} (e : o = some t) (h : GrowsOpt s0 o) : s0.grows t := h t e

theorem foldl_grows {s0 : State} {α : Type} (g : State → α → State) (l : List α) (s : State) (h : s0.grows s)
    (hg : ∀ t x, s0.grows t → s0.grows (g t x)) : s0.grows (l.foldl g s) := by
  induction l generalizing s with
  | nil => exact h
  | cons x t ih => exact ih _ (hg _ _ h)

theorem foldl_pair_grows {s0 : State} {α β : Type} (g : α × State → β → α × State) (l : List β) (p : α × State)
    (h : s0.grows p.2) (hg : ∀ q x, s0.grows q.2 → s0.grows (g q x).2) : s0.grows (l.foldl g p).2 := by
  induction l generalizing p with
  | nil => exact h
  | cons x t ih => exact ih _ (hg _ _ h)

theorem foldl_trip_grows {s0 : State} {α β γ : Type} (g : α × γ × State → β → α × γ × State) (l : List β)
    (p : α × γ × State) (h : s0.grows p.2.2) (hg : ∀ q x, s0.grows q.2.2 → s0.grows (g q x).2.2) :
    s0.grows (l.foldl g p).2.2 := by
  induction l generalizing p with
  | nil => exact h
  | cons x t ih => exact ih _ (hg _ _ h)

theorem emit_grows {s0 : State} (o : Output) (s : State) (hs : s0.grows s) : s0.grows (emit o s) :=
  hs.trans ⟨out_subset_emit o s, rfl, vfsButDirty_emit o s⟩

theorem dirtyLog_grows {s0 : State} (n : VfId) (addr len : Nat) (s : State) (hs : s0.grows s) :
    s0.grows (dirtyLog n addr len s) := by
  have hsb : (dirtyLog n addr len s).sb = s.sb := dirtyLog_frame n addr len s (agree_refl [.out, .fns] s) rfl .sb rfl
  exact hs.trans ⟨out_subset_dirtyLog n addr len s, by rw [hsb], vfsButDirty_dirtyLog n addr len s⟩

/-! ### Machine/Ops.lean -/

theorem tookFree_grows {s0 : State} (s : State) (hs : s0.grows s) : s0.grows (tookFree s) :=
  grows_of_agree hs (tookFree_frame s (agree_refl [.free] _) rfl) rfl

theorem countBy_grows {s0 : State} (i : Nat) (n : Nat) (s : State) (hs : s0.grows s) : s0.grows (countBy i n s) :=
  grows_of_agree hs (countBy_frame i n s (agree_refl [.tracer] _) rfl) rfl

theorem count_grows {s0 : State} (i : Nat) (s : State) (hs : s0.grows s) : s0.grows (count i s) :=
  grows_of_agree hs (count_frame i s (agree_refl [.tracer] _) rfl) rfl

theorem meter_grows {s0 : State} (p : PolderId) (c : Fin 7) (n : Nat) (s : State) (hs : s0.grows s) :
    s0.grows (meter p c n s) :=
  grows_of_agree hs (meter_frame p c n s (agree_refl [.gauge] _) rfl) rfl

theorem modPolder_grows {s0 : State} (p : PolderId) (f : Polder → Polder) (s : State) (hs : s0.grows s) :
    s0.grows (modPolder p f s) :=
  grows_of_agree hs (modPolder_frame p f s (agree_refl [.polders] _) rfl) rfl

theorem modPolderCounters_grows {s0 : State} (p : PolderId) (f : PolderCounters → PolderCounters) (s : State)
    (hs : s0.grows s) : s0.grows (modPolderCounters p f s) :=
  grows_of_agree hs (modPolderCounters_frame p f s (agree_refl [.polders] _) rfl) rfl

theorem modContext_grows {s0 : State} (c : CtxId) (f : Context → Context) (s : State) (hs : s0.grows s) :
    s0.grows (modContext c f s) :=
  grows_of_agree hs (modContext_frame c f s (agree_refl [.obj] _) rfl) rfl

theorem modQueue_grows {s0 : State} (q : BitVec 8) (f : Queue → Queue) (s : State) (hs : s0.grows s) :
    s0.grows (modQueue q f s) :=
  grows_of_agree hs (modQueue_frame q f s (agree_refl [.obj] _) rfl) rfl

theorem modRing_grows {s0 : State} (fn : FnId) (r : BitVec 9) (f : EventRing → EventRing) (s : State)
    (hs : s0.grows s) : s0.grows (modRing fn r f s) :=
  grows_of_agree hs (modRing_frame fn r f s (agree_refl [.obj] _) rfl) rfl

theorem hostWrite_grows {s0 : State} (fn : FnId) (addr : BitVec 64) (b : Bytes) (s : State) (hs : s0.grows s) :
    s0.grows (hostWrite fn addr b s) := by
  unfold hostWrite
  repeat' first
    | with_reducible assumption | with_reducible apply dirtyLog_grows | with_reducible apply emit_grows | split

theorem emitTrace_grows {s0 : State} (bit : Nat) (code : BitVec 16) (unit : BitVec 16) (p : PolderId)
    (c : Option CtxId) (payload : Bytes) (s : State) (hs : s0.grows s) :
    s0.grows (emitTrace bit code unit p c payload s) :=
  grows_of_agree hs (emitTrace_frame bit code unit p c payload s (agree_refl [.tracer, .free] _) rfl) rfl

theorem writeRecord_grows {s0 : State} (fn : FnId) (id : BitVec 9) (e : EventRec) (s : State) (hs : s0.grows s) :
    s0.grows (writeRecord fn id e s) := by
  unfold writeRecord
  repeat' first
    | with_reducible assumption | with_reducible apply emit_grows | with_reducible apply hostWrite_grows
    | with_reducible apply modRing_grows | split

theorem flushRing_grows {s0 : State} (fn : FnId) (id : BitVec 9) (a0 : Nat) (a1 : State) (hs : s0.grows a1) :
    s0.grows (flushRing fn id a0 a1) := by
  induction a0 generalizing a1 with
  | zero => exact hs
  | succ n ih =>
    unfold flushRing
    repeat' first
      | with_reducible assumption | with_reducible apply modRing_grows | with_reducible apply writeRecord_grows
      | with_reducible apply ih | split

theorem postEvent_grows {s0 : State} (fn : FnId) (id : BitVec 9) (e : EventRec) (s : State) (hs : s0.grows s) :
    s0.grows (postEvent fn id e s) := by
  unfold postEvent
  repeat' first
    | with_reducible assumption | with_reducible apply count_grows | with_reducible apply flushRing_grows
    | with_reducible apply modRing_grows | with_reducible apply writeRecord_grows | split
    | (with_reducible refine grows_mk ?_ rfl rfl rfl)

theorem pushFault_grows {s0 : State} (r : FaultRecord) (s : State) (hs : s0.grows s) : s0.grows (pushFault r s) :=
  grows_of_agree hs (pushFault_frame r s (agree_refl [.tracer] _) rfl) rfl

theorem writeFault_grows {s0 : State} (n : FaultName) (i : FaultInfo) (s : State) (hs : s0.grows s) :
    s0.grows (writeFault n i s) := by
  unfold writeFault
  repeat' first
    | with_reducible assumption | with_reducible apply emit_grows | with_reducible apply emitTrace_grows
    | with_reducible apply modPolder_grows | with_reducible apply postEvent_grows
    | with_reducible apply pushFault_grows | split | (with_reducible refine grows_mk ?_ rfl rfl rfl)

/-! ### Machine/Domains.lean -/

theorem wakeDomain_grows {s0 : State} (d : DomainId) (s : State) (hs : s0.grows s) : s0.grows (wakeDomain d s) :=
  grows_of_agree hs (wakeDomain_frame d s (agree_refl [.pins, .tracer] _) rfl) rfl

theorem markWork_grows {s0 : State} (d : DomainId) (s : State) (hs : s0.grows s) : s0.grows (markWork d s) :=
  grows_of_agree hs (markWork_frame d s (agree_refl [.power] _) rfl) rfl

theorem withDomain_grows {s0 : State} (d : DomainId) (serve : State → State) (s : State) (hs : s0.grows s)
    (h_serve : ∀ s : State, s0.grows s → s0.grows (serve s)) : s0.grows (withDomain d serve s) := by
  unfold withDomain
  repeat' first
    | with_reducible assumption | with_reducible apply markWork_grows | with_reducible apply wakeDomain_grows
    | with_reducible apply h_serve | (with_reducible refine ite_grows ?_ ?_)

theorem wakeAll_grows {s0 : State} (ds : List DomainId) (s : State) (hs : s0.grows s) : s0.grows (wakeAll ds s).2 :=
  grows_of_agree hs (wakeAll_frame ds s (agree_refl [.pins, .tracer, .power] _) rfl) rfl

/-! ### Machine/Keys.lean -/

theorem setSlot_grows {s0 : State} (k : KeySlot) (s : State) (hs : s0.grows s) : s0.grows (setSlot k s) :=
  grows_of_agree hs (setSlot_frame k s (agree_refl [.cad] _) rfl) rfl

theorem writeSlot_grows {s0 : State} (k : KeySlot) (s : State) (hs : s0.grows s) : s0.grows (writeSlot k s) :=
  grows_of_agree hs (writeSlot_frame k s (agree_refl [.cad] _) rfl) rfl

theorem zeroizeSlot_grows {s0 : State} (k : KeySlot) (state : SlotState) (s : State) (hs : s0.grows s) :
    s0.grows (zeroizeSlot k state s) :=
  grows_of_agree hs (zeroizeSlot_frame k state s (agree_refl [.cad, .keys, .stack] _) rfl) rfl

theorem refuseJob_grows {s0 : State} (mode : Nat) (aad : Nat) (text : Nat) (p : Option PolderId) (s : State)
    (hs : s0.grows s) : s0.grows (refuseJob mode aad text p s) :=
  writeFault_grows _ _ _ hs

theorem traceJob_grows {s0 : State} (ended : Bool) (second : Bool) (j : KcuJob) (s : State) (hs : s0.grows s) :
    s0.grows (traceJob ended second j s) :=
  grows_of_agree hs (traceJob_frame ended second j s (agree_refl [.tracer, .free] _) rfl) rfl

theorem abandonJobs_grows {s0 : State} (p : PolderId) (s : State) (hs : s0.grows s) : s0.grows (abandonJobs p s) :=
  grows_of_agree hs (abandonJobs_frame p s (agree_refl [.keys] _) rfl) rfl

theorem markSlotBad_grows {s0 : State} (k : KeySlot) (kind : BitVec 8) (s : State) (hs : s0.grows s) :
    s0.grows (markSlotBad k kind s) := by
  unfold markSlotBad
  repeat' first
    | with_reducible assumption | with_reducible apply abandonJobs_grows | with_reducible apply modPolder_grows
    | with_reducible apply writeFault_grows | with_reducible apply zeroizeSlot_grows

theorem startJob_grows {s0 : State} (second : Bool) (s : State) (hs : s0.grows s) : s0.grows (startJob second s) := by
  unfold startJob
  repeat' first
    | with_reducible assumption | with_reducible apply markSlotBad_grows | with_reducible apply markWork_grows
    | with_reducible apply traceJob_grows | split | (with_reducible refine grows_mk ?_ rfl rfl rfl)

theorem dispatchJobs_grows {s0 : State} (s : State) (hs : s0.grows s) : s0.grows (dispatchJobs s) := by
  unfold dispatchJobs
  repeat' first
    | with_reducible assumption | with_reducible apply startJob_grows | with_reducible apply wakeDomain_grows
    | (with_reducible refine ite_grows ?_ ?_)

theorem addJob_grows {s0 : State} (cls : Nat) (work : KcuWork) (p : Option PolderId) (s : State) (hs : s0.grows s) :
    s0.grows (addJob cls work p s) := by
  unfold addJob
  repeat' first
    | with_reducible assumption | with_reducible apply dispatchJobs_grows | with_reducible apply refuseJob_grows
    | (with_reducible refine ite_grows ?_ ?_) | (with_reducible refine grows_mk ?_ rfl rfl rfl)

theorem needJob_grows {s0 : State} (cls : Nat) (work : KcuWork) (p : Option PolderId) (s : State) (hs : s0.grows s) :
    s0.grows (needJob cls work p s) := by
  unfold needJob
  repeat' first
    | with_reducible assumption | with_reducible apply addJob_grows | (with_reducible refine ite_grows ?_ ?_)
    | (with_reducible refine grows_mk ?_ rfl rfl rfl)

theorem takeSlot_grows {s0 : State} (i : BitVec 8) (p : PolderId) (s : State) (hs : s0.grows s) :
    s0.grows (takeSlot i p s) := by
  unfold takeSlot
  repeat' first
    | with_reducible assumption | with_reducible apply addJob_grows | with_reducible apply count_grows
    | with_reducible apply writeSlot_grows | (with_reducible refine grows_mk ?_ rfl rfl rfl)

theorem findSlotFor_grows {s0 : State} (p : PolderId) (s : State) (hs : s0.grows s) : s0.grows (findSlotFor p s) := by
  unfold findSlotFor
  repeat' first
    | with_reducible assumption | with_reducible apply setSlot_grows | with_reducible apply takeSlot_grows | split

theorem retryLoads_grows {s0 : State} (s : State) (hs : s0.grows s) : s0.grows (retryLoads s) := by
  unfold retryLoads
  repeat' first
    | with_reducible assumption | with_reducible intro _ | with_reducible apply findSlotFor_grows
    | with_reducible apply foldl_grows

theorem beginLoad_grows {s0 : State} (p : PolderId) (kind : BitVec 8) (s : State) (hs : s0.grows s) :
    s0.grows (beginLoad p kind s) := by
  unfold beginLoad
  repeat' first
    | with_reducible assumption | with_reducible apply findSlotFor_grows | split
    | (with_reducible refine grows_mk ?_ rfl rfl rfl)

theorem noSlotRecord_grows {s0 : State} (p : PolderId) (s : State) (hs : s0.grows s) :
    s0.grows (noSlotRecord p s) :=
  writeFault_grows _ _ _ hs

theorem readKey_grows {s0 : State} (k : KeySlot) (kind : BitVec 8) (s : State) (hs : s0.grows s) :
    s0.grows (readKey k kind s).2 := by
  unfold readKey
  repeat' first
    | with_reducible assumption | with_reducible apply markSlotBad_grows | with_reducible apply setSlot_grows
    | (with_reducible refine ite_pair_grows ?_ ?_)

theorem needKey_grows {s0 : State} (p : PolderId) (kind : BitVec 8) (s : State) (hs : s0.grows s) :
    s0.grows (needKey p kind s).2 := by
  unfold needKey
  repeat' first
    | with_reducible assumption | with_reducible apply beginLoad_grows | with_reducible apply needJob_grows
    | with_reducible apply noSlotRecord_grows | with_reducible apply readKey_grows | split

/-! ### Machine/Sluices.lean -/

theorem finish_grows {s0 : State} (o : Origin) (tag : BitVec 32) (st : Status) (payload : Bytes) (s : State)
    (hs : s0.grows s) : s0.grows (finish o tag st payload s) := by
  unfold finish
  repeat' first
    | with_reducible assumption | with_reducible apply postEvent_grows | split
    | (with_reducible refine grows_mk ?_ rfl rfl rfl)

theorem finishAll_grows {s0 : State} (l : List (Origin × BitVec 32)) (st : Status) (s : State) (hs : s0.grows s) :
    s0.grows (finishAll l st s) := by
  unfold finishAll
  repeat' first
    | with_reducible assumption | with_reducible intro _ | with_reducible apply finish_grows
    | with_reducible apply foldl_grows

/-! ### Machine/Boot.lean -/

theorem poolGive_grows {s0 : State} (u : PoolUser) (s : State) (hs : s0.grows s) : s0.grows (poolGive u s) :=
  grows_of_agree hs (poolGive_frame u s (agree_refl [.pool] _) rfl) rfl

/-! ### Machine/Datum.lean -/

theorem dropMarks_grows {s0 : State} (f : MarkAction → Bool) (s : State) (hs : s0.grows s) :
    s0.grows (dropMarks f s) :=
  grows_of_agree hs (dropMarks_frame f s (agree_refl [.datum] _) rfl) rfl

/-! ### Machine/Link.lean -/

theorem sendNotice_grows {s0 : State} (h : Header) (s : State) (hs : s0.grows s) : s0.grows (sendNotice h s) :=
  emit_grows _ _ (tookFree_grows _ hs)

theorem setTx_grows {s0 : State} (t : TxStream) (s : State) (hs : s0.grows s) : s0.grows (setTx t s) :=
  grows_of_agree hs (setTx_frame t s (agree_refl [.link] _) rfl) rfl

theorem streamExhausted_grows {s0 : State} (p : PolderId) (d : Dest) (sid : BitVec 16) (s : State) (hs : s0.grows s) :
    s0.grows (streamExhausted p d sid s) :=
  writeFault_grows _ _ _ hs

theorem openTx_grows {s0 : State} (p : PolderId) (d : Dest) (cls : BitVec 4) (lane : Nat) (s : State)
    (hs : s0.grows s) : s0.grows (openTx p d cls lane s).2 := by
  unfold openTx
  repeat' first
    | with_reducible assumption | with_reducible apply streamExhausted_grows | with_reducible apply writeFault_grows
    | (with_reducible refine ite_pair_grows ?_ ?_) | (with_reducible refine grows_mk ?_ rfl rfl rfl)

theorem noteSent_grows {s0 : State} (owner : TxOwner) (t : TxStream) (s : State) (hs : s0.grows s) :
    s0.grows (noteSent owner t s) :=
  grows_of_agree hs (noteSent_frame owner t s (agree_refl [.fau, .rings] _) rfl) rfl

theorem takeSeq_grows {s0 : State} (p : PolderId) (d : Dest) (s : State) (hs : s0.grows s) :
    s0.grows (takeSeq p d s) :=
  grows_of_agree hs (takeSeq_frame p d s (agree_refl [.fau] _) rfl) rfl

theorem askNext_grows {s0 : State} (r : StreamRef) (p : PolderId) (epoch : BitVec 32) (s : State) (hs : s0.grows s) :
    s0.grows (askNext r p epoch s).2 := by
  unfold askNext
  repeat' first
    | with_reducible assumption | with_reducible apply needJob_grows | with_reducible apply needKey_grows | split
    | (refine grows_of_pair (by with_reducible assumption) ?_)

theorem sealPacket_grows {s0 : State} (t : TxStream) (slice : BitVec 8) (key : Key256) (k : TxPacket) (s : State)
    (hs : s0.grows s) : s0.grows (sealPacket t slice key k s) := by
  unfold sealPacket
  repeat' first
    | with_reducible assumption | with_reducible apply askNext_grows | with_reducible apply count_grows
    | with_reducible apply countBy_grows | with_reducible apply emit_grows | with_reducible apply emitTrace_grows
    | with_reducible apply meter_grows | with_reducible apply noteSent_grows | with_reducible apply setTx_grows
    | with_reducible apply tookFree_grows | (with_reducible refine ite_grows ?_ ?_)

theorem requestTx_grows {s0 : State} (t : TxStream) (s : State) (hs : s0.grows s) : s0.grows (requestTx t s) := by
  unfold requestTx
  repeat' first
    | with_reducible assumption | with_reducible apply needJob_grows | with_reducible apply needKey_grows
    | with_reducible apply setTx_grows | split | (refine grows_of_pair (by with_reducible assumption) ?_)
    | (dsimp only)

theorem pumpTx_grows {s0 : State} (p : PolderId) (d : Dest) (cls : BitVec 4) (lane : Nat) (a0 : Nat) (a1 : State)
    (hs : s0.grows a1) : s0.grows (pumpTx p d cls lane a0 a1) := by
  induction a0 generalizing a1 with
  | zero => exact hs
  | succ n ih =>
    unfold pumpTx
    repeat' first
      | with_reducible assumption | with_reducible apply requestTx_grows | with_reducible apply sealPacket_grows
      | with_reducible apply wakeAll_grows | with_reducible apply ih | split
      | (refine grows_of_pair (by with_reducible assumption) ?_) | (with_reducible refine grows_mk ?_ rfl rfl rfl)

theorem streamFor_grows {s0 : State} (k : TxPacket) (s : State) (hs : s0.grows s) : s0.grows (streamFor k s).2 := by
  unfold streamFor
  repeat' first
    | with_reducible assumption | with_reducible apply needKey_grows | with_reducible apply openTx_grows
    | with_reducible apply streamExhausted_grows | split | (refine grows_of_pair (by with_reducible assumption) ?_)

theorem sendPacket_grows {s0 : State} (k : TxPacket) (s : State) (hs : s0.grows s) : s0.grows (sendPacket k s).2 := by
  unfold sendPacket
  repeat' first
    | with_reducible assumption | with_reducible apply count_grows | with_reducible apply pumpTx_grows
    | with_reducible apply streamFor_grows | split | (refine grows_of_pair (by with_reducible assumption) ?_)
    | (with_reducible refine grows_mk ?_ rfl rfl rfl)

theorem sendQuietly_grows {s0 : State} (k : TxPacket) (s : State) (hs : s0.grows s) : s0.grows (sendQuietly k s) :=
  sendPacket_grows _ _ hs

theorem sendCompletion_grows {s0 : State} (r : Released) (st : Status) (flags : BitVec 6) (data : Bytes) (s : State)
    (hs : s0.grows s) : s0.grows (sendCompletion r st flags data s) :=
  sendQuietly_grows _ _ hs

theorem setRx_grows {s0 : State} (r : RxStream) (s : State) (hs : s0.grows s) : s0.grows (setRx r s) :=
  grows_of_agree hs (setRx_frame r s (agree_refl [.link] _) rfl) rfl

theorem countPort_grows {s0 : State} (malformed : Bool) (port : BitVec 8) (s : State) (hs : s0.grows s) :
    s0.grows (countPort malformed port s) :=
  grows_of_agree hs (countPort_frame malformed port s (agree_refl [.link] _) rfl) rfl

theorem authRecord_grows {s0 : State} (port : BitVec 8) (h : Header) (folded : BitVec 32) (s : State)
    (hs : s0.grows s) : s0.grows (authRecord port h folded s) :=
  writeFault_grows _ _ _ hs

theorem authFailExisting_grows {s0 : State} (port : BitVec 8) (h : Header) (r : RxStream) (s : State)
    (hs : s0.grows s) : s0.grows (authFailExisting port h r s) := by
  unfold authFailExisting
  repeat' first
    | with_reducible assumption | with_reducible apply authRecord_grows | with_reducible apply setRx_grows
    | (with_reducible refine ite_grows ?_ ?_)

theorem authFailNew_grows {s0 : State} (port : BitVec 8) (h : Header) (q : Polder) (s : State) (hs : s0.grows s) :
    s0.grows (authFailNew port h q s) := by
  unfold authFailNew
  repeat' first
    | with_reducible assumption | with_reducible apply authRecord_grows | with_reducible apply modPolderCounters_grows
    | split | (with_reducible refine grows_mk ?_ rfl rfl rfl)

theorem release_grows {s0 : State} (port : BitVec 8) (h : Header) (inner : Inner) (payload : Bytes) (s : State)
    (hs : s0.grows s) : s0.grows (release port h inner payload s) :=
  grows_of_agree hs (release_frame port h inner payload s (agree_refl [.link, .tracer, .gauge, .free] _) rfl) rfl

theorem dropGone_grows {s0 : State} (h : Header) (q : Polder) (s : State) (hs : s0.grows s) :
    s0.grows (dropGone h q s) :=
  sendNotice_grows _ _ (modPolderCounters_grows _ _ _ hs)

theorem dropKeyless_grows {s0 : State} (h : Header) (q : Polder) (s : State) (hs : s0.grows s) :
    s0.grows (dropKeyless h q s) := by
  unfold dropKeyless
  repeat' first
    | with_reducible assumption | with_reducible apply dropGone_grows | with_reducible apply modPolderCounters_grows
    | (with_reducible refine ite_grows ?_ ?_)

theorem afterTag_grows {s0 : State} (port : BitVec 8) (b : Bytes) (h : Header) (q : Polder) (r : RxStream)
    (key : Key256) (s : State) (hs : s0.grows s) : s0.grows (afterTag port b h q r key s) := by
  unfold afterTag
  repeat' first
    | with_reducible assumption | with_reducible apply askNext_grows | with_reducible apply dropGone_grows
    | with_reducible apply modPolderCounters_grows | with_reducible apply release_grows
    | with_reducible apply sendCompletion_grows | with_reducible apply setRx_grows
    | with_reducible apply writeFault_grows | (with_reducible refine ite_grows ?_ ?_) | split

theorem receiveExisting_grows {s0 : State} (port : BitVec 8) (b : Bytes) (h : Header) (q : Polder) (r : RxStream)
    (s : State) (hs : s0.grows s) : s0.grows (receiveExisting port b h q r s) := by
  unfold receiveExisting
  repeat' first
    | with_reducible assumption | with_reducible apply afterTag_grows | with_reducible apply authFailExisting_grows
    | with_reducible apply dropKeyless_grows | with_reducible apply needJob_grows | with_reducible apply needKey_grows
    | with_reducible apply setRx_grows | split | (refine grows_of_pair (by with_reducible assumption) ?_)
    | (with_reducible refine grows_mk ?_ rfl rfl rfl)

theorem receiveNew_grows {s0 : State} (port : BitVec 8) (b : Bytes) (h : Header) (q : Polder) (derived : Bool)
    (s : State) (hs : s0.grows s) : s0.grows (receiveNew port b h q derived s) := by
  unfold receiveNew
  repeat' first
    | with_reducible assumption | with_reducible apply afterTag_grows | with_reducible apply authFailNew_grows
    | with_reducible apply dropKeyless_grows | with_reducible apply modPolderCounters_grows
    | with_reducible apply needJob_grows | with_reducible apply needKey_grows | with_reducible apply writeFault_grows
    | split | (refine grows_of_pair (by with_reducible assumption) ?_)
    | (with_reducible refine grows_mk ?_ rfl rfl rfl)

theorem receiveCached_grows {s0 : State} (port : BitVec 8) (b : Bytes) (derived : Bool) (s : State)
    (hs : s0.grows s) : s0.grows (receiveCached port b derived s) := by
  unfold receiveCached
  dsimp only
  repeat' first
    | with_reducible assumption | with_reducible apply countPort_grows | with_reducible apply receiveExisting_grows
    | with_reducible apply receiveNew_grows | with_reducible apply sendNotice_grows | split

theorem receivePacket_grows {s0 : State} (port : BitVec 8) (b : Bytes) (s : State) (hs : s0.grows s) :
    s0.grows (receivePacket port b s) := by
  unfold receivePacket
  repeat' first
    | with_reducible assumption | with_reducible apply count_grows | with_reducible apply countPort_grows
    | with_reducible apply modPolderCounters_grows | with_reducible apply receiveCached_grows
    | with_reducible apply sendNotice_grows | split | (with_reducible refine grows_mk ?_ rfl rfl rfl)

theorem retryRx_grows {s0 : State} (r : StreamRef) (derived : Bool) (s : State) (hs : s0.grows s) :
    s0.grows (retryRx r derived s) := by
  unfold retryRx
  repeat' first
    | with_reducible assumption | with_reducible intro _ | with_reducible apply receiveCached_grows
    | with_reducible apply withDomain_grows | with_reducible apply foldl_grows | split
    | (with_reducible refine grows_mk ?_ rfl rfl rfl)

theorem pumpRxPort_grows {s0 : State} (port : BitVec 8) (a0 : Nat) (a1 : State) (hs : s0.grows a1) :
    s0.grows (pumpRxPort port a0 a1) := by
  induction a0 generalizing a1 with
  | zero => exact hs
  | succ n ih =>
    unfold pumpRxPort
    repeat' first
      | with_reducible assumption | with_reducible apply receivePacket_grows | with_reducible apply ih | split
      | (with_reducible refine grows_mk ?_ rfl rfl rfl)

theorem pumpRxPorts_grows {s0 : State} (s : State) (hs : s0.grows s) : s0.grows (pumpRxPorts s) := by
  unfold pumpRxPorts
  repeat' first
    | with_reducible assumption | with_reducible intro _ | with_reducible apply pumpRxPort_grows
    | with_reducible apply foldl_grows

/-! ### Machine/Objects.lean -/

theorem profResetQueue_grows {s0 : State} (q : BitVec 8) (scope : Bool) (s : State) (hs : s0.grows s) :
    s0.grows (profResetQueue q scope s) :=
  grows_of_agree hs (profResetQueue_frame q scope s (agree_refl [.tracer] _) rfl) rfl

theorem settleQueue_grows {s0 : State} (q : BitVec 8) (s : State) (hs : s0.grows s) : s0.grows (settleQueue q s) := by
  unfold settleQueue
  repeat' first
    | with_reducible assumption | with_reducible apply finishAll_grows | split
    | (with_reducible refine grows_mk ?_ rfl rfl rfl)

theorem endDescriptor_grows {s0 : State} (q : BitVec 8) (idx : BitVec 12) (st : Status) (result : BitVec 64)
    (flags : BitVec 6) (s : State) (hs : s0.grows s) : s0.grows (endDescriptor q idx st result flags s) := by
  unfold endDescriptor
  repeat' first
    | with_reducible assumption | with_reducible apply emitTrace_grows | with_reducible apply modQueue_grows
    | with_reducible apply postEvent_grows | with_reducible apply settleQueue_grows | split

theorem endUnstarted_grows {s0 : State} (x : Queue) (idx : BitVec 12) (ctag : BitVec 16) (st : Status) (s : State)
    (hs : s0.grows s) : s0.grows (endUnstarted x idx ctag st s) :=
  postEvent_grows _ _ _ _ hs

theorem modFence_grows {s0 : State} (f : BitVec 14) (g : FenceObj → FenceObj) (s : State) (hs : s0.grows s) :
    s0.grows (modFence f g s) :=
  grows_of_agree hs (modFence_frame f g s (agree_refl [.obj] _) rfl) rfl

theorem abandonFence_grows {s0 : State} (f : BitVec 14) (s : State) (hs : s0.grows s) :
    s0.grows (abandonFence f s) := by
  unfold abandonFence
  repeat' first
    | with_reducible assumption | with_reducible intro _ | with_reducible apply endDescriptor_grows
    | with_reducible apply postEvent_grows | with_reducible apply foldl_grows | split
    | (with_reducible refine grows_mk ?_ rfl rfl rfl)

theorem dropShares_grows {s0 : State} (c : CtxId) (s : State) (hs : s0.grows s) : s0.grows (dropShares c s) := by
  unfold dropShares
  repeat' first
    | with_reducible assumption | with_reducible intro _ | with_reducible apply endDescriptor_grows
    | with_reducible apply modFence_grows | with_reducible apply foldl_grows | (with_reducible refine ite_grows ?_ ?_)

theorem scaAnswer_grows {s0 : State} (core : BitVec 9) (st : Status) (v : BitVec 32) (s : State) (hs : s0.grows s) :
    s0.grows (scaAnswer core st v s) :=
  emit_grows _ _ hs

theorem answerWait_grows {s0 : State} (before : State) (w : SyncWait) (st : Status) (v : BitVec 32) (s : State)
    (hs : s0.grows s) : s0.grows (answerWait before w st v s) := by
  unfold answerWait
  repeat' first
    | with_reducible assumption | with_reducible apply scaAnswer_grows | (with_reducible refine ite_grows ?_ ?_)
    | (with_reducible refine grows_mk ?_ rfl rfl rfl)

theorem endWaits_grows {s0 : State} (c : Context) (s : State) (hs : s0.grows s) : s0.grows (endWaits c s) := by
  unfold endWaits
  repeat' first
    | with_reducible assumption | with_reducible intro _ | with_reducible apply answerWait_grows
    | with_reducible apply foldl_grows | (with_reducible refine grows_mk ?_ rfl rfl rfl)

theorem stopContext_grows {s0 : State} (c : CtxId) (s : State) (hs : s0.grows s) : s0.grows (stopContext c s) := by
  unfold stopContext
  repeat' first
    | with_reducible assumption | with_reducible apply endWaits_grows | with_reducible apply modContext_grows | split
    | (with_reducible refine grows_mk ?_ rfl rfl rfl)

theorem setSync_grows {s0 : State} (core : BitVec 9) (i : BitVec 6) (v : BitVec 32) (s : State) (hs : s0.grows s) :
    s0.grows (setSync core i v s) :=
  grows_of_agree hs (setSync_frame core i v s (agree_refl [.sca] _) rfl) rfl

theorem examineWaits_grows {s0 : State} (core : BitVec 9) (i : BitVec 6) (a0 : Nat) (a1 : Nat) (a2 : State)
    (hs : s0.grows a2) : s0.grows (examineWaits core i a0 a1 a2) := by
  induction a0 generalizing a1 a2 with
  | zero => exact hs
  | succ n ih =>
    unfold examineWaits
    repeat' first
      | with_reducible assumption | with_reducible apply answerWait_grows | with_reducible apply setSync_grows
      | with_reducible apply ih | split | (with_reducible refine grows_mk ?_ rfl rfl rfl)

theorem changeSync_grows {s0 : State} (core : BitVec 9) (i : BitVec 6) (v : BitVec 32) (s : State) (hs : s0.grows s) :
    s0.grows (changeSync core i v s) :=
  examineWaits_grows _ _ _ _ _ (setSync_grows _ _ _ _ hs)

theorem syncFault_grows {s0 : State} (core : BitVec 9) (i : BitVec 6) (operand : BitVec 32) (st : Status)
    (peer : Option InstId) (seq : BitVec 32) (s : State) (hs : s0.grows s) :
    s0.grows (syncFault core i operand st peer seq s) := by
  unfold syncFault
  repeat' first
    | with_reducible assumption | with_reducible apply stopContext_grows | with_reducible apply writeFault_grows
    | split

/-! ### Machine/Stack.lean -/

theorem setPlot_grows {s0 : State} (p : BitVec 16) (e : BitVec 64) (s : State) (hs : s0.grows s) :
    s0.grows (setPlot p e s) :=
  grows_of_agree hs (setPlot_frame p e s (agree_refl [.stack] _) rfl) rfl

theorem stackWrite_grows {s0 : State} (key : Key512) (addr : Nat) (b : Bytes) (s : State) (hs : s0.grows s) :
    s0.grows (stackWrite key addr b s) :=
  grows_of_agree hs (stackWrite_frame key addr b s (agree_refl [.stack] _) rfl) rfl

theorem stackAnswer_grows {s0 : State} (r : StackReq) (st : Status) (data : Bytes) (s : State) (hs : s0.grows s) :
    s0.grows (stackAnswer r st data s) :=
  emit_grows _ _ hs

theorem stackRefuse_grows {s0 : State} (r : StackReq) (check : Nat) (st : Status) (s : State) (hs : s0.grows s) :
    s0.grows (stackRefuse r check st s) := by
  unfold stackRefuse
  repeat' first
    | with_reducible assumption | with_reducible apply stackAnswer_grows | with_reducible apply writeFault_grows
    | (with_reducible refine ite_grows ?_ ?_)

theorem keepCopy_grows {s0 : State} (slice : Nat) (p : PolderId) (s : State) (hs : s0.grows s) :
    s0.grows (keepCopy slice p s) :=
  grows_of_agree hs (keepCopy_frame slice p s (agree_refl [.stack] _) rfl) rfl

theorem performWrite_grows {s0 : State} (w : StackWait) (stored : Bytes) (s : State) (hs : s0.grows s) :
    s0.grows (performWrite w stored s) := by
  unfold performWrite
  repeat' first
    | with_reducible assumption | with_reducible intro _ | with_reducible apply count_grows
    | with_reducible apply countBy_grows | with_reducible apply meter_grows | with_reducible apply stackAnswer_grows
    | with_reducible apply stackWrite_grows | with_reducible apply foldl_grows

theorem stackCount_grows {s0 : State} (p : PolderId) (addr : Nat) (len : Nat) (write : Bool) (s : State)
    (hs : s0.grows s) : s0.grows (stackCount p addr len write s) :=
  grows_of_agree hs (stackCount_frame p addr len write s (agree_refl [.tracer, .gauge] _) rfl) rfl

theorem stackPerform_grows {s0 : State} (w : StackWait) (s : State) (hs : s0.grows s) :
    s0.grows (stackPerform w s) := by
  unfold stackPerform
  repeat' first
    | with_reducible assumption | with_reducible apply count_grows | with_reducible apply keepCopy_grows
    | with_reducible apply performWrite_grows | (with_reducible refine ite_grows ?_ ?_)
    | (with_reducible refine grows_mk ?_ rfl rfl rfl)

theorem holdAccess_grows {s0 : State} (w : StackWait) (s : State) (hs : s0.grows s) : s0.grows (holdAccess w s) :=
  grows_of_agree hs (holdAccess_frame w s (agree_refl [.stack] _) rfl) rfl

theorem pathHolds_grows {s0 : State} (w : StackWait) (s : State) (hs : s0.grows s) : s0.grows (pathHolds w s).2 :=
  grows_of_agree hs (pathHolds_frame w s (agree_refl [.pins, .tracer, .power] _) rfl) rfl

theorem stackProceed_grows {s0 : State} (w : StackWait) (s : State) (hs : s0.grows s) :
    s0.grows (stackProceed w s) := by
  unfold stackProceed
  repeat' first
    | with_reducible assumption | with_reducible apply count_grows | with_reducible apply holdAccess_grows
    | with_reducible apply needKey_grows | with_reducible apply pathHolds_grows
    | with_reducible apply stackAnswer_grows | with_reducible apply stackPerform_grows | split
    | (refine grows_of_pair (by with_reducible assumption) ?_) | (with_reducible refine grows_mk ?_ rfl rfl rfl)

theorem wakeSlices_grows {s0 : State} (l : List Lookup) (s : State) (hs : s0.grows s) : s0.grows (wakeSlices l s).2 :=
  grows_of_agree hs (wakeSlices_frame l s (agree_refl [.pins, .tracer, .power] _) rfl) rfl

theorem rangeUse_grows {s0 : State} (p : PolderId) (write : Bool) (l : List Lookup) (s : State) (hs : s0.grows s) :
    s0.grows (rangeUse p write l s).2 := by
  unfold rangeUse
  repeat' first
    | with_reducible assumption | with_reducible apply needKey_grows | with_reducible apply wakeSlices_grows
    | (with_reducible refine ite_pair_grows ?_ ?_) | split | (refine grows_of_pair (by with_reducible assumption) ?_)

theorem releaseHeld_grows {s0 : State} (u : Nat) (a0 : Nat) (a1 : State) (hs : s0.grows a1) :
    s0.grows (releaseHeld u a0 a1) := by
  induction a0 generalizing a1 with
  | zero => exact hs
  | succ n ih =>
    unfold releaseHeld
    repeat' first
      | with_reducible assumption | with_reducible apply pathHolds_grows | with_reducible apply stackProceed_grows
      | with_reducible apply ih | split | (refine grows_of_pair (by with_reducible assumption) ?_)
      | (with_reducible refine grows_mk ?_ rfl rfl rfl)

theorem resumeHeld_grows {s0 : State} (s : State) (hs : s0.grows s) : s0.grows (resumeHeld s) := by
  unfold resumeHeld
  repeat' first
    | with_reducible assumption | with_reducible intro _ | with_reducible apply releaseHeld_grows
    | with_reducible apply foldl_grows

theorem stackStart_grows {s0 : State} (w : StackWait) (s : State) (hs : s0.grows s) : s0.grows (stackStart w s) := by
  unfold stackStart
  repeat' first
    | with_reducible assumption | with_reducible apply holdAccess_grows | with_reducible apply stackProceed_grows
    | (with_reducible refine ite_grows ?_ ?_) | (with_reducible refine grows_mk ?_ rfl rfl rfl)

theorem restart_grows {s0 : State} (ws : List StackWait) (s : State) (hs : s0.grows s) : s0.grows (restart ws s) := by
  unfold restart
  repeat' first
    | with_reducible assumption | with_reducible intro _ | with_reducible apply releaseHeld_grows
    | with_reducible apply stackStart_grows | with_reducible apply foldl_grows

theorem retryKeyWait_grows {s0 : State} (p : PolderId) (s : State) (hs : s0.grows s) :
    s0.grows (retryKeyWait p s) := by
  unfold retryKeyWait
  repeat' first
    | with_reducible assumption | with_reducible apply restart_grows | (with_reducible refine grows_mk ?_ rfl rfl rfl)

theorem takeAccess_grows {s0 : State} (r : StackReq) (s : State) (hs : s0.grows s) : s0.grows (takeAccess r s) := by
  unfold takeAccess
  repeat' first
    | with_reducible assumption | with_reducible apply stackRefuse_grows | with_reducible apply stackStart_grows
    | split | (with_reducible refine grows_mk ?_ rfl rfl rfl)

theorem pumpPort_grows {s0 : State} (slice : Nat) (a0 : Nat) (a1 : State) (hs : s0.grows a1) :
    s0.grows (pumpPort slice a0 a1) := by
  induction a0 generalizing a1 with
  | zero => exact hs
  | succ n ih =>
    unfold pumpPort
    repeat' first
      | with_reducible assumption | with_reducible apply takeAccess_grows | with_reducible apply ih | split
      | (with_reducible refine grows_mk ?_ rfl rfl rfl)

theorem pumpPorts_grows {s0 : State} (s : State) (hs : s0.grows s) : s0.grows (pumpPorts s) := by
  unfold pumpPorts
  repeat' first
    | with_reducible assumption | with_reducible intro _ | with_reducible apply pumpPort_grows
    | with_reducible apply foldl_grows

theorem endStackAccesses_grows {s0 : State} (p : PolderId) (st : Status) (s : State) (hs : s0.grows s) :
    s0.grows (endStackAccesses p st s) := by
  unfold endStackAccesses
  repeat' first
    | with_reducible assumption | with_reducible intro _ | with_reducible apply stackAnswer_grows
    | with_reducible apply foldl_grows | (with_reducible refine grows_mk ?_ rfl rfl rfl)

theorem dropPlot_grows {s0 : State} (plot : BitVec 16) (s : State) (hs : s0.grows s) : s0.grows (dropPlot plot s) :=
  grows_of_agree hs (dropPlot_frame plot s (agree_refl [.obj] _) rfl) rfl

theorem failPlotWaits_grows {s0 : State} (plot : BitVec 16) (f : Nat × Status) (s : State) (hs : s0.grows s) :
    s0.grows (failPlotWaits plot f s) :=
  grows_of_agree hs (failPlotWaits_frame plot f s (agree_refl [.stack, .fau] _) rfl) rfl

theorem endFillWait_grows {s0 : State} (plot : BitVec 16) (check : Option Nat) (st : Status) (s : State)
    (hs : s0.grows s) : s0.grows (endFillWait plot check st s) := by
  unfold endFillWait
  repeat' first
    | with_reducible assumption | with_reducible intro _ | with_reducible apply failPlotWaits_grows
    | with_reducible apply stackAnswer_grows | with_reducible apply stackRefuse_grows
    | with_reducible apply foldl_grows | split | (with_reducible refine grows_mk ?_ rfl rfl rfl)

theorem undoFill_grows {s0 : State} (f : Fill) (st : Status) (slot : Byte) (s : State) (hs : s0.grows s) :
    s0.grows (undoFill f st slot s) := by
  unfold undoFill
  repeat' first
    | with_reducible assumption | with_reducible apply dropPlot_grows | with_reducible apply endFillWait_grows
    | with_reducible apply setPlot_grows | with_reducible apply writeFault_grows
    | (with_reducible refine grows_mk ?_ rfl rfl rfl)

/-! ### Machine/Fau.lean -/

theorem localRefused_grows {s0 : State} (c : CtxId) (p : PolderId) (addr : Nat) (check : Nat) (write : Bool)
    (st : Status) (s : State) (hs : s0.grows s) : s0.grows (localRefused c p addr check write st s) := by
  unfold localRefused
  repeat' first
    | with_reducible assumption | with_reducible apply writeFault_grows | (with_reducible refine ite_grows ?_ ?_)

theorem localUse_grows {s0 : State} (c : CtxId) (p : PolderId) (addr : Nat) (len : Nat) (write : Bool)
    (seen : List Lookup) (s : State) (hs : s0.grows s) : s0.grows (localUse c p addr len write seen s).2.2 := by
  unfold localUse
  repeat' first
    | with_reducible assumption | with_reducible apply localRefused_grows | with_reducible apply rangeUse_grows
    | (with_reducible refine ite_trip_grows ?_ ?_) | split | (refine grows_of_pair (by with_reducible assumption) ?_)

theorem keepLookups_grows {s0 : State} (user : StackUser) (p : PolderId) (addr : Nat) (len : Nat) (write : Bool)
    (l : List Lookup) (s : State) (hs : s0.grows s) : s0.grows (keepLookups user p addr len write l s) :=
  grows_of_agree hs (keepLookups_frame user p addr len write l s (agree_refl [.stack] _) rfl) rfl

theorem localCheck_grows {s0 : State} (user : StackUser) (c : CtxId) (p : PolderId) (addr : Nat) (len : Nat)
    (write : Bool) (s : State) (hs : s0.grows s) : s0.grows (localCheck user c p addr len write s).2 := by
  unfold localCheck
  repeat' first
    | with_reducible assumption | with_reducible apply keepLookups_grows | with_reducible apply localUse_grows | split
    | (refine grows_of_trip (by with_reducible assumption) ?_)

theorem answerOp_grows {s0 : State} (c : CtxId) (ctag : BitVec 16) (src : OpSource) (st : Status) (result : BitVec 64)
    (flags : BitVec 6) (s : State) (hs : s0.grows s) : s0.grows (answerOp c ctag src st result flags s) := by
  unfold answerOp
  repeat' first
    | with_reducible assumption | with_reducible apply emit_grows | with_reducible apply endDescriptor_grows | split

theorem requestRefused_grows {s0 : State} (r : RemoteReq) (p : PolderId) (check : Byte) (st : Status) (s : State)
    (hs : s0.grows s) : s0.grows (requestRefused r p check st s) :=
  writeFault_grows _ _ _ hs

theorem refuseOp_grows {s0 : State} (r : RemoteReq) (src : OpSource) (p : PolderId) (check : Byte) (st : Status)
    (s : State) (hs : s0.grows s) : s0.grows (refuseOp r src p check st s) :=
  answerOp_grows _ _ _ _ _ _ _ (requestRefused_grows _ _ _ _ _ hs)

theorem dropOp_grows {s0 : State} (id : Nat) (s : State) (hs : s0.grows s) : s0.grows (dropOp id s) :=
  grows_of_agree hs (dropOp_frame id s (agree_refl [.link, .fau] _) rfl) rfl

theorem finishOp_grows {s0 : State} (o : OutOp) (st : Status) (result : BitVec 64) (flags : BitVec 6) (s : State)
    (hs : s0.grows s) : s0.grows (finishOp o st result flags s) := by
  unfold finishOp
  repeat' first
    | with_reducible assumption | with_reducible apply answerOp_grows | with_reducible apply dropOp_grows | split
    | (with_reducible refine grows_mk ?_ rfl rfl rfl)

theorem settleMember_grows {s0 : State} (o : OutOp) (m : InstId) (st : Status) (s : State) (hs : s0.grows s) :
    s0.grows (settleMember o m st s) := by
  unfold settleMember
  repeat' first
    | with_reducible assumption | with_reducible apply finishOp_grows | (with_reducible refine ite_grows ?_ ?_)
    | (with_reducible refine grows_mk ?_ rfl rfl rfl)

theorem failTo_grows {s0 : State} (o : OutOp) (m : InstId) (st : Status) (s : State) (hs : s0.grows s) :
    s0.grows (failTo o m st s) := by
  unfold failTo
  repeat' first
    | with_reducible assumption | with_reducible apply finishOp_grows | with_reducible apply settleMember_grows
    | (with_reducible refine ite_grows ?_ ?_)

theorem outcomeUnknown_grows {s0 : State} (o : OutOp) (s : State) (hs : s0.grows s) :
    s0.grows (outcomeUnknown o s) :=
  writeFault_grows _ _ _ hs

theorem launchOp_grows {s0 : State} (r : RemoteReq) (src : OpSource) (c : Context) (d : Dest) (payload : Bytes)
    (fence : Option Nat) (s : State) (hs : s0.grows s) : s0.grows (launchOp r src c d payload fence s) := by
  unfold launchOp
  repeat' first
    | with_reducible assumption | with_reducible apply finishOp_grows | with_reducible apply requestRefused_grows
    | with_reducible apply sendPacket_grows | with_reducible apply takeSeq_grows | split
    | (refine grows_of_pair (by with_reducible assumption) ?_) | (with_reducible refine grows_mk ?_ rfl rfl rfl)

theorem modPending_grows {s0 : State} (id : Nat) (f : PendingFence → PendingFence) (s : State) (hs : s0.grows s) :
    s0.grows (modPending id f s) :=
  grows_of_agree hs (modPending_frame id f s (agree_refl [.fau] _) rfl) rfl

theorem sendFencePacket_grows {s0 : State} (id : Nat) (s : State) (d : Dest) (hs : s0.grows s) :
    s0.grows (sendFencePacket id s d) := by
  unfold sendFencePacket
  repeat' first
    | with_reducible assumption | with_reducible apply launchOp_grows | with_reducible apply modPending_grows | split

theorem issueFence_grows {s0 : State} (r : RemoteReq) (src : OpSource) (c : Context) (s : State) (hs : s0.grows s) :
    s0.grows (issueFence r src c s) := by
  unfold issueFence
  repeat' first
    | with_reducible assumption | with_reducible intro _ | with_reducible apply count_grows
    | with_reducible apply sendFencePacket_grows | with_reducible apply foldl_grows
    | (with_reducible refine grows_mk ?_ rfl rfl rfl)

theorem sendUnsent_grows {s0 : State} (s : State) (hs : s0.grows s) : s0.grows (sendUnsent s) := by
  unfold sendUnsent
  repeat' first
    | with_reducible assumption | with_reducible intro _ | with_reducible apply sendFencePacket_grows
    | with_reducible apply foldl_grows

theorem countIssued_grows {s0 : State} (r : RemoteReq) (src : OpSource) (s : State) (hs : s0.grows s) :
    s0.grows (countIssued r src s) :=
  grows_of_agree hs (countIssued_frame r src s (agree_refl [.tracer] _) rfl) rfl

theorem tryIssue_grows {s0 : State} (w : FauWait) (s : State) (hs : s0.grows s) : s0.grows (tryIssue w s).2 := by
  unfold tryIssue
  repeat' first
    | with_reducible assumption | with_reducible apply answerOp_grows | with_reducible apply count_grows
    | with_reducible apply countIssued_grows | with_reducible apply issueFence_grows
    | with_reducible apply launchOp_grows | with_reducible apply localUse_grows | with_reducible apply refuseOp_grows
    | with_reducible apply stackCount_grows | (with_reducible refine ite_pair_grows ?_ ?_) | split
    | (refine grows_of_trip (by with_reducible assumption) ?_) | (dsimp only)

theorem completeFences_grows {s0 : State} (s : State) (hs : s0.grows s) : s0.grows (completeFences s) := by
  unfold completeFences
  repeat' first
    | with_reducible assumption | with_reducible intro _ | with_reducible apply answerOp_grows
    | with_reducible apply foldl_grows | (with_reducible refine grows_mk ?_ rfl rfl rfl)

theorem noteWait_grows {s0 : State} (w : FauWait) (s : State) (hs : s0.grows s) : s0.grows (noteWait w s).2 :=
  grows_of_agree hs (noteWait_frame w s (agree_refl [.tracer] _) rfl) rfl

theorem pumpWaiting_grows {s0 : State} (s : State) (hs : s0.grows s) : s0.grows (pumpWaiting s) := by
  unfold pumpWaiting
  repeat' first
    | with_reducible assumption | with_reducible intro _ | with_reducible apply noteWait_grows
    | with_reducible apply tryIssue_grows | with_reducible apply foldl_grows | with_reducible apply foldl_pair_grows
    | split | (refine grows_of_pair (by with_reducible assumption) ?_)
    | (with_reducible refine grows_mk ?_ rfl rfl rfl)

theorem settleRounds_grows {s0 : State} (a0 : Nat) (a1 : State) (hs : s0.grows a1) :
    s0.grows (settleRounds a0 a1) := by
  induction a0 generalizing a1 with
  | zero => exact hs
  | succ n ih =>
    unfold settleRounds
    repeat' first
      | with_reducible assumption | with_reducible apply completeFences_grows | with_reducible apply pumpWaiting_grows
      | with_reducible apply sendUnsent_grows | with_reducible apply ih | (with_reducible refine ite_grows ?_ ?_)

theorem fauSettle_grows {s0 : State} (s : State) (hs : s0.grows s) : s0.grows (fauSettle s) :=
  settleRounds_grows _ _ hs

theorem endOps_grows {s0 : State} (mine : CtxId → Bool) (st : Status) (s : State) (hs : s0.grows s) :
    s0.grows (endOps mine st s) := by
  unfold endOps
  repeat' first
    | with_reducible assumption | with_reducible intro _ | with_reducible apply answerOp_grows
    | with_reducible apply finishOp_grows | with_reducible apply foldl_grows
    | (with_reducible refine grows_mk ?_ rfl rfl rfl)

theorem malformedAnswer_grows {s0 : State} (o : OutOp) (m : InstId) (s : State) (hs : s0.grows s) :
    s0.grows (malformedAnswer o m s) := by
  unfold malformedAnswer
  repeat' first
    | with_reducible assumption | with_reducible apply failTo_grows | with_reducible apply finishOp_grows
    | with_reducible apply outcomeUnknown_grows | with_reducible apply writeFault_grows
    | (with_reducible refine ite_grows ?_ ?_)

theorem applyAnswer_grows {s0 : State} (o : OutOp) (rel : Released) (s : State) (hs : s0.grows s) :
    s0.grows (applyAnswer o rel s).2 := by
  unfold applyAnswer
  repeat' first
    | with_reducible assumption | with_reducible apply failTo_grows | with_reducible apply finishOp_grows
    | with_reducible apply localUse_grows | with_reducible apply malformedAnswer_grows
    | with_reducible apply outcomeUnknown_grows | with_reducible apply settleMember_grows
    | with_reducible apply stackCount_grows | with_reducible apply stackWrite_grows | split
    | (refine grows_of_trip (by with_reducible assumption) ?_) | (with_reducible refine grows_mk ?_ rfl rfl rfl)

theorem dropReleased_grows {s0 : State} (r : Released) (s : State) (hs : s0.grows s) : s0.grows (dropReleased r s) :=
  grows_of_agree hs (dropReleased_frame r s (agree_refl [.link] _) rfl) rfl

theorem serveCompletion_grows {s0 : State} (s : State) (rel : Released) (hs : s0.grows s) :
    s0.grows (serveCompletion s rel) := by
  unfold serveCompletion
  repeat' first
    | with_reducible assumption | with_reducible apply applyAnswer_grows | with_reducible apply count_grows
    | with_reducible apply dropReleased_grows | with_reducible apply fauSettle_grows | split
    | (refine grows_of_pair (by with_reducible assumption) ?_)

theorem retryAnswers_grows {s0 : State} (s : State) (hs : s0.grows s) : s0.grows (retryAnswers s) := by
  unfold retryAnswers
  repeat' first
    | with_reducible assumption | with_reducible apply serveCompletion_grows | with_reducible apply foldl_grows

theorem giveUp_grows {s0 : State} (o : OutOp) (s : State) (hs : s0.grows s) : s0.grows (giveUp o s) := by
  unfold giveUp
  repeat' first
    | with_reducible assumption | with_reducible apply finishOp_grows | with_reducible apply outcomeUnknown_grows
    | with_reducible apply writeFault_grows | (with_reducible refine ite_grows ?_ ?_)
    | (with_reducible refine grows_mk ?_ rfl rfl rfl)

theorem resendNow_grows {s0 : State} (o : OutOp) (s : State) (hs : s0.grows s) : s0.grows (resendNow o s) := by
  unfold resendNow
  repeat' first
    | with_reducible assumption | with_reducible apply giveUp_grows | with_reducible apply sendPacket_grows
    | (with_reducible refine ite_grows ?_ ?_) | (with_reducible refine grows_mk ?_ rfl rfl rfl)

/-! ### Machine/Tray.lean -/

theorem stripeWrite_grows {s0 : State} (g : Nat) (row : Nat) (bs : List Bytes) (s : State) (hs : s0.grows s) :
    s0.grows (stripeWrite g row bs s) :=
  grows_of_agree hs (stripeWrite_frame g row bs s (agree_refl [.tray] _) rfl) rfl

theorem modExtent_grows {s0 : State} (id : BitVec 13) (f : Extent → Extent) (s : State) (hs : s0.grows s) :
    s0.grows (modExtent id f s) :=
  grows_of_agree hs (modExtent_frame id f s (agree_refl [.tray] _) rfl) rfl

theorem putCtc_grows {s0 : State} (location : Nat) (level : Nat) (index : Nat) (x : BitVec 512) (dirty : Bool)
    (s : State) (hs : s0.grows s) : s0.grows (putCtc location level index x dirty s) :=
  grows_of_agree hs (putCtc_frame location level index x dirty s (agree_refl [.tray] _) rfl) rfl

theorem fetchBlock_grows {s0 : State} (e : Extent) (location : Nat) (k : Key256) (a0 : Nat) (a1 : Nat) (a2 : Nat)
    (a3 : State) (hs : s0.grows a3) : s0.grows (fetchBlock e location k a0 a1 a2 a3).2 :=
  grows_of_agree hs (fetchBlock_frame e location k a0 a1 a2 a3 (agree_refl [.tray, .tracer] _) rfl) rfl

theorem trimCtc_grows {s0 : State} (s : State) (hs : s0.grows s) : s0.grows (trimCtc s) :=
  grows_of_agree hs (trimCtc_frame s (agree_refl [.tray, .tracer] _) rfl) rfl

theorem loadTag_grows {s0 : State} (location : Nat) (q : Nat) (s : State) (hs : s0.grows s) :
    s0.grows (loadTag location q s).2 :=
  grows_of_agree hs (loadTag_frame location q s (agree_refl [.tray, .tracer] _) rfl) rfl

theorem setTag_grows {s0 : State} (location : Nat) (q : Nat) (tag : Bytes) (s : State) (hs : s0.grows s) :
    s0.grows (setTag location q tag s) :=
  grows_of_agree hs (setTag_frame location q tag s (agree_refl [.tray, .tracer] _) rfl) rfl

theorem markParcel_grows {s0 : State} (location : Nat) (q : Nat) (s : State) (hs : s0.grows s) :
    s0.grows (markParcel location q s) :=
  grows_of_agree hs (markParcel_frame location q s (agree_refl [.tray] _) rfl) rfl

theorem unmarkParcel_grows {s0 : State} (location : Nat) (q : Nat) (s : State) (hs : s0.grows s) :
    s0.grows (unmarkParcel location q s) :=
  grows_of_agree hs (unmarkParcel_frame location q s (agree_refl [.tray] _) rfl) rfl

theorem markPage_grows {s0 : State} (location : Nat) (page : Nat) (s : State) (hs : s0.grows s) :
    s0.grows (markPage location page s) :=
  grows_of_agree hs (markPage_frame location page s (agree_refl [.tray] _) rfl) rfl

theorem parcelBreach_grows {s0 : State} (e : Extent) (location : Nat) (q : Nat) (step : Nat) (s : State)
    (hs : s0.grows s) : s0.grows (parcelBreach e location q step s) :=
  writeFault_grows _ _ _ hs

theorem pageBreach_grows {s0 : State} (e : Extent) (location : Nat) (level : Nat) (index : Nat) (page : Nat)
    (s : State) (hs : s0.grows s) : s0.grows (pageBreach e location level index page s) := by
  unfold pageBreach
  repeat' first
    | with_reducible assumption | with_reducible intro _ | with_reducible apply markPage_grows
    | with_reducible apply writeFault_grows | with_reducible apply foldl_grows

theorem fetchRecord_grows {s0 : State} (e : Extent) (location : Nat) (key : Key512) (page : Nat) (s : State)
    (hs : s0.grows s) : s0.grows (fetchRecord e location key page s).2 := by
  unfold fetchRecord
  repeat' first
    | with_reducible assumption | with_reducible apply fetchBlock_grows | with_reducible apply pageBreach_grows
    | with_reducible apply trimCtc_grows | split | (refine grows_of_pair (by with_reducible assumption) ?_)

theorem storeRecord_grows {s0 : State} (e : Extent) (location : Nat) (key : Key512) (page : Nat) (r : BitVec 256)
    (s : State) (hs : s0.grows s) : s0.grows (storeRecord e location key page r s) := by
  unfold storeRecord
  repeat' first
    | with_reducible assumption | with_reducible apply count_grows | with_reducible apply fetchBlock_grows
    | with_reducible apply pageBreach_grows | with_reducible apply putCtc_grows | with_reducible apply trimCtc_grows
    | split | (refine grows_of_pair (by with_reducible assumption) ?_)

theorem openParcel_grows {s0 : State} (e : Extent) (location : Nat) (key : Key512) (kind : ParcelKind) (q : Nat)
    (s : State) (hs : s0.grows s) : s0.grows (openParcel e location key kind q s).2 := by
  unfold openParcel
  repeat' first
    | with_reducible assumption | with_reducible apply count_grows | with_reducible apply fetchRecord_grows
    | with_reducible apply loadTag_grows | with_reducible apply markParcel_grows
    | with_reducible apply parcelBreach_grows | (with_reducible refine ite_pair_grows ?_ ?_) | split
    | (refine grows_of_pair (by with_reducible assumption) ?_)

theorem putParcel_grows {s0 : State} (location : Nat) (key : Key512) (major : Nat) (minor : Nat) (q : Nat)
    (plain : Bytes) (s : State) (hs : s0.grows s) : s0.grows (putParcel location key major minor q plain s) :=
  grows_of_agree hs (putParcel_frame location key major minor q plain s (agree_refl [.tray, .tracer] _) rfl) rfl

theorem putPage_grows {s0 : State} (location : Nat) (page : Nat) (cells : List (Bytes × Bytes)) (s : State)
    (hs : s0.grows s) : s0.grows (putPage location page cells s) :=
  grows_of_agree hs (putPage_frame location page cells s (agree_refl [.tray, .tracer] _) rfl) rfl

theorem rollVerify_grows {s0 : State} (e : Extent) (location : Nat) (key : Key512) (page : Nat) (own : Nat)
    (r : BitVec 256) (s : State) (hs : s0.grows s) : s0.grows (rollVerify e location key page own r s) := by
  unfold rollVerify
  repeat' first
    | with_reducible assumption | with_reducible intro _ | with_reducible apply count_grows
    | with_reducible apply markParcel_grows | with_reducible apply parcelBreach_grows
    | with_reducible apply foldl_grows | (with_reducible refine ite_grows ?_ ?_) | split

theorem rollPage_grows {s0 : State} (e : Extent) (location : Nat) (key : Key512) (q : Nat) (r : BitVec 256)
    (new : Option Bytes) (s : State) (hs : s0.grows s) : s0.grows (rollPage e location key q r new s) := by
  unfold rollPage
  repeat' first
    | with_reducible assumption | with_reducible apply count_grows | with_reducible apply putPage_grows
    | with_reducible apply rollVerify_grows | with_reducible apply storeRecord_grows

theorem parcelWritten_grows {s0 : State} (e : Extent) (location : Nat) (q : Nat) (kind : ParcelKind) (s : State)
    (hs : s0.grows s) : s0.grows (parcelWritten e location q kind s) :=
  grows_of_agree hs (parcelWritten_frame e location q kind s (agree_refl [.tracer, .gauge] _) rfl) rfl

theorem commitParcel_grows {s0 : State} (e : Extent) (location : Nat) (key : Key512) (kind : ParcelKind) (q : Nat)
    (o : OpenParcel) (new : Bytes) (s : State) (hs : s0.grows s) :
    s0.grows (commitParcel e location key kind q o new s).2 := by
  unfold commitParcel
  repeat' first
    | with_reducible assumption | with_reducible intro _ | with_reducible apply parcelBreach_grows
    | with_reducible apply parcelWritten_grows | with_reducible apply putPage_grows
    | with_reducible apply putParcel_grows | with_reducible apply rollPage_grows
    | with_reducible apply storeRecord_grows | with_reducible apply unmarkParcel_grows
    | with_reducible apply foldl_grows | (with_reducible refine ite_grows ?_ ?_)
    | (with_reducible refine ite_pair_grows ?_ ?_)

theorem commitStripe_grows {s0 : State} (e : Extent) (location : Nat) (key : Key512) (q : Nat) (r : BitVec 256)
    (news : List Bytes) (s : State) (hs : s0.grows s) : s0.grows (commitStripe e location key q r news s) := by
  unfold commitStripe
  repeat' first
    | with_reducible assumption | with_reducible intro _ | with_reducible apply parcelWritten_grows
    | with_reducible apply setTag_grows | with_reducible apply storeRecord_grows
    | with_reducible apply stripeWrite_grows | with_reducible apply unmarkParcel_grows
    | with_reducible apply foldl_grows

theorem prefetch_grows {s0 : State} (e : Extent) (location : Nat) (key : Key512) (off : Nat) (len : Nat) (s : State)
    (hs : s0.grows s) : s0.grows (prefetch e location key off len s) :=
  grows_of_agree hs (prefetch_frame e location key off len s (agree_refl [.tray, .tracer] _) rfl) rfl

theorem trayRead_grows {s0 : State} (e : Extent) (location : Nat) (key : Key512) (off : Nat) (len : Nat) (s : State)
    (hs : s0.grows s) : s0.grows (trayRead e location key off len s).2 := by
  unfold trayRead
  repeat' first
    | with_reducible assumption | with_reducible intro _ | with_reducible apply count_grows
    | with_reducible apply countBy_grows | with_reducible apply meter_grows | with_reducible apply openParcel_grows
    | with_reducible apply prefetch_grows | with_reducible apply foldl_grows | with_reducible apply foldl_trip_grows
    | split | (refine grows_of_pair (by with_reducible assumption) ?_)

theorem commitOne_grows {s0 : State} (e : Extent) (location : Nat) (key : Key512) (x : ParcelChange) (s : State)
    (hs : s0.grows s) : s0.grows (commitOne e location key x s).2 := by
  unfold commitOne
  repeat' first
    | with_reducible assumption | with_reducible apply commitParcel_grows | with_reducible apply count_grows
    | with_reducible apply fetchRecord_grows | with_reducible apply meter_grows
    | (with_reducible refine ite_pair_grows ?_ ?_) | split | (refine grows_of_pair (by with_reducible assumption) ?_)

theorem headStripe_grows {s0 : State} (e : Extent) (location : Nat) (key : Key512) (xs : List ParcelChange)
    (s : State) (hs : s0.grows s) : s0.grows (headStripe e location key xs s).2 := by
  unfold headStripe
  repeat' first
    | with_reducible assumption | with_reducible apply fetchRecord_grows | split
    | (refine grows_of_pair (by with_reducible assumption) ?_) | (dsimp only)

theorem commitRun_grows {s0 : State} (e : Extent) (location : Nat) (key : Key512) (a0 : Nat) (a1 : List ParcelChange)
    (a2 : Status × List Nat × State) (hs : s0.grows a2.2.2) : s0.grows (commitRun e location key a0 a1 a2).2.2 := by
  induction a0 generalizing a1 a2 with
  | zero => exact hs
  | succ n ih =>
    cases a1 with
    | nil => exact hs
    | cons x rest =>
      unfold commitRun
      repeat' first
        | with_reducible assumption | with_reducible apply ih | with_reducible apply commitStripe_grows
        | with_reducible apply headStripe_grows | with_reducible apply commitOne_grows | split
        | (refine grows_of_pair (by with_reducible assumption) ?_)

theorem trayChange_grows {s0 : State} (e : Extent) (location : Nat) (key : Key512) (off : Nat) (len : Nat)
    (full : Bool) (change : Bytes → Option Bytes) (s : State) (hs : s0.grows s) :
    s0.grows (trayChange e location key off len full change s).2 := by
  unfold trayChange
  repeat' first
    | with_reducible assumption | with_reducible intro _ | with_reducible apply commitRun_grows
    | with_reducible apply openParcel_grows | with_reducible apply prefetch_grows | with_reducible apply foldl_grows
    | with_reducible apply foldl_pair_grows | (with_reducible refine grows_mk ?_ rfl rfl rfl)

theorem reclaimLocation_grows {s0 : State} (l : Nat) (s : State) (hs : s0.grows s) : s0.grows (reclaimLocation l s) :=
  grows_of_agree hs (reclaimLocation_frame l s (agree_refl [.tray] _) rfl) rfl

/-! ### Machine/FauTarget.lean -/

theorem countRoom_grows {s0 : State} (r : Released) (counted : Bool) (s : State) (hs : s0.grows s) :
    s0.grows (countRoom r counted s) :=
  grows_of_agree hs (countRoom_frame r counted s (agree_refl [.pins, .tracer, .power] _) rfl) rfl

theorem enterAnswer_grows {s0 : State} (r : Released) (st : Status) (flags : BitVec 6) (old : BitVec 64) (s : State)
    (hs : s0.grows s) : s0.grows (enterAnswer r st flags old s) :=
  grows_of_agree hs (enterAnswer_frame r st flags old s (agree_refl [.fau] _) rfl) rfl

theorem completeRequest_grows {s0 : State} (r : Released) (st : Status) (flags : BitVec 6) (data : Bytes) (s : State)
    (hs : s0.grows s) : s0.grows (completeRequest r st flags data s) :=
  sendCompletion_grows _ _ _ _ _ (enterAnswer_grows _ _ _ _ _ hs)

theorem awaitAck_grows {s0 : State} (r : Released) (st : Status) (flags : BitVec 6) (old : BitVec 64) (region : Nat)
    (s : State) (hs : s0.grows s) : s0.grows (awaitAck r st flags old region s) :=
  grows_of_agree hs (awaitAck_frame r st flags old region s (agree_refl [.fau] _) rfl) rfl

theorem keyMismatch_grows {s0 : State} (r : Released) (s : State) (hs : s0.grows s) : s0.grows (keyMismatch r s) := by
  unfold keyMismatch
  repeat' first
    | with_reducible assumption | with_reducible apply writeFault_grows | split
    | (with_reducible refine grows_mk ?_ rfl rfl rfl)

theorem targetRefused_grows {s0 : State} (r : Released) (check : Byte) (st : Status) (s : State) (hs : s0.grows s) :
    s0.grows (targetRefused r check st s) :=
  writeFault_grows _ _ _ hs

theorem beginRevoke_grows {s0 : State} (e : Extent) (expired : Bool) (s : State) (hs : s0.grows s) :
    s0.grows (beginRevoke e expired s) := by
  unfold beginRevoke
  repeat' first
    | with_reducible assumption | with_reducible apply modExtent_grows | with_reducible apply writeFault_grows
    | (with_reducible refine ite_grows ?_ ?_)

theorem leaseCheck_grows {s0 : State} (e : Extent) (s : State) (hs : s0.grows s) : s0.grows (leaseCheck e s).2 := by
  unfold leaseCheck
  repeat' first
    | with_reducible assumption | with_reducible apply beginRevoke_grows | split

theorem lateChecks_grows {s0 : State} (r : Released) (g : Region) (s : State) (hs : s0.grows s) :
    s0.grows (lateChecks r g s).2 := by
  unfold lateChecks
  repeat' first
    | with_reducible assumption | with_reducible apply targetRefused_grows
    | (with_reducible refine ite_pair_grows ?_ ?_)

theorem targetChecks_grows {s0 : State} (r : Released) (admitted : Bool) (s : State) (hs : s0.grows s) :
    s0.grows (targetChecks r admitted s).2 := by
  unfold targetChecks
  repeat' first
    | with_reducible assumption | with_reducible apply keyMismatch_grows | with_reducible apply lateChecks_grows
    | with_reducible apply leaseCheck_grows | with_reducible apply targetRefused_grows | split
    | (refine grows_of_pair (by with_reducible assumption) ?_)

theorem pieceStatuses_grows {s0 : State} (p : PolderId) (l : List Lookup) (write : Bool) (reads : Bool) (s : State)
    (hs : s0.grows s) : s0.grows (pieceStatuses p l write reads s).2 := by
  unfold pieceStatuses
  repeat' first
    | with_reducible assumption | with_reducible intro _ | with_reducible apply needKey_grows
    | with_reducible apply wakeSlices_grows | with_reducible apply writeFault_grows | with_reducible apply foldl_grows
    | (with_reducible refine ite_pair_grows ?_ ?_) | split | (refine grows_of_pair (by with_reducible assumption) ?_)

theorem stackTargetRead_grows {s0 : State} (p : PolderId) (l : List Lookup) (s : State) (hs : s0.grows s) :
    s0.grows (stackTargetRead p l s).2 := by
  unfold stackTargetRead
  repeat' first
    | with_reducible assumption | with_reducible intro _ | with_reducible apply pieceStatuses_grows
    | with_reducible apply stackCount_grows | with_reducible apply foldl_grows | split
    | (refine grows_of_pair (by with_reducible assumption) ?_)

theorem stackTargetChange_grows {s0 : State} (p : PolderId) (l : List Lookup) (full : Bool)
    (change : Bytes → Option Bytes) (s : State) (hs : s0.grows s) :
    s0.grows (stackTargetChange p l full change s).2 := by
  unfold stackTargetChange
  dsimp only
  repeat' first
    | with_reducible assumption | with_reducible intro _ | with_reducible apply pieceStatuses_grows
    | with_reducible apply stackCount_grows | with_reducible apply stackWrite_grows | with_reducible apply foldl_grows
    | with_reducible apply foldl_trip_grows | split | (refine grows_of_pair (by with_reducible assumption) ?_)
    | (with_reducible refine grows_mk ?_ rfl rfl rfl)

theorem withTray_grows {s0 : State} {α : Type} (access : State → Option α × State) (s : State) (hs : s0.grows s)
    (h_access : ∀ (s : State), s0.grows s → s0.grows (access s).2) : s0.grows (withTray access s).2 := by
  unfold withTray
  repeat' first
    | with_reducible assumption | with_reducible apply wakeAll_grows | with_reducible apply h_access | split
    | (refine grows_of_pair (by with_reducible assumption) ?_)

theorem targetRead_grows {s0 : State} (p : PolderId) (g : Region) (off : Nat) (len : Nat) (l : List Lookup)
    (s : State) (hs : s0.grows s) : s0.grows (targetRead p g off len l s).2 := by
  unfold targetRead
  repeat' first
    | with_reducible assumption | with_reducible apply stackTargetRead_grows | with_reducible apply trayRead_grows
    | with_reducible apply withTray_grows | split

theorem targetChange_grows {s0 : State} (p : PolderId) (g : Region) (off : Nat) (len : Nat) (full : Bool)
    (l : List Lookup) (change : Bytes → Option Bytes) (s : State) (hs : s0.grows s) :
    s0.grows (targetChange p g off len full l change s).2 := by
  unfold targetChange
  dsimp only
  repeat' first
    | with_reducible assumption | with_reducible intro _ | with_reducible apply stackTargetChange_grows
    | with_reducible apply trayChange_grows | with_reducible apply withTray_grows | split

theorem waitMem_grows {s0 : State} (r : Released) (l : List Lookup) (s : State) (hs : s0.grows s) :
    s0.grows (waitMem r l s) :=
  grows_of_agree hs (waitMem_frame r l s (agree_refl [.fau] _) rfl) rfl

theorem performLoad_grows {s0 : State} (r : Released) (g : Region) (seen : List Lookup) (s : State)
    (hs : s0.grows s) : s0.grows (performLoad r g seen s) := by
  unfold performLoad
  repeat' first
    | with_reducible assumption | with_reducible apply completeRequest_grows | with_reducible apply targetRead_grows
    | with_reducible apply waitMem_grows | (with_reducible refine ite_grows ?_ ?_) | split
    | (refine grows_of_pair (by with_reducible assumption) ?_)

theorem meterElems_grows {s0 : State} (p : PolderId) (n : Nat) (s : State) (hs : s0.grows s) :
    s0.grows (meterElems p n s) :=
  grows_of_agree hs (meterElems_frame p n s (agree_refl [.gauge] _) rfl) rfl

theorem performWriteAt_grows {s0 : State} (r : Released) (g : Region) (full : Bool) (new : Bytes → Option Bytes)
    (combined : Bytes → List (Nat × Nat) → BitVec 6 × Nat) (seen : List Lookup) (s : State) (hs : s0.grows s) :
    s0.grows (performWriteAt r g full new combined seen s) := by
  unfold performWriteAt
  repeat' first
    | with_reducible assumption | with_reducible apply awaitAck_grows | with_reducible apply enterAnswer_grows
    | with_reducible apply meterElems_grows | with_reducible apply sendCompletion_grows
    | with_reducible apply targetChange_grows | with_reducible apply waitMem_grows
    | (with_reducible refine ite_grows ?_ ?_) | split | (refine grows_of_pair (by with_reducible assumption) ?_)

theorem performReduce_grows {s0 : State} (r : Released) (g : Region) (seen : List Lookup) (s : State)
    (hs : s0.grows s) : s0.grows (performReduce r g seen s) :=
  performWriteAt_grows _ _ _ _ _ _ _ hs

theorem performOn_grows {s0 : State} (r : Released) (g : Region) (seen : List Lookup) (s : State) (hs : s0.grows s) :
    s0.grows (performOn r g seen s) := by
  unfold performOn
  repeat' first
    | with_reducible assumption | with_reducible apply performLoad_grows | with_reducible apply performReduce_grows
    | with_reducible apply performWriteAt_grows | split

theorem applySignal_grows {s0 : State} (r : Released) (g : Region) (s : State) (hs : s0.grows s) :
    s0.grows (applySignal r g s).2 := by
  unfold applySignal
  repeat' first
    | with_reducible assumption | with_reducible apply changeSync_grows | with_reducible apply syncFault_grows
    | with_reducible apply targetRefused_grows | (with_reducible refine ite_pair_grows ?_ ?_) | split

theorem answerSignal_grows {s0 : State} (r : Released) (s : State) (hs : s0.grows s) :
    s0.grows (answerSignal r s) := by
  unfold answerSignal
  repeat' first
    | with_reducible assumption | with_reducible apply applySignal_grows | with_reducible apply completeRequest_grows
    | split

theorem holdRequest_grows {s0 : State} (r : Released) (s : State) (hs : s0.grows s) : s0.grows (holdRequest r s) :=
  grows_of_agree hs (holdRequest_frame r s (agree_refl [.fau, .tracer] _) rfl) rfl

theorem signalServed_grows {s0 : State} (r : Released) (s : State) (hs : s0.grows s) :
    s0.grows (signalServed r s).2 :=
  grows_of_agree hs (signalServed_frame r s (agree_refl [.pins, .tracer, .power] _) rfl) rfl

theorem meetSignal_grows {s0 : State} (r : Released) (s : State) (hs : s0.grows s) : s0.grows (meetSignal r s) := by
  unfold meetSignal
  repeat' first
    | with_reducible assumption | with_reducible apply answerSignal_grows | with_reducible apply holdRequest_grows
    | with_reducible apply signalServed_grows | split | (refine grows_of_pair (by with_reducible assumption) ?_)

theorem performRequest_grows {s0 : State} (r : Released) (admitted : Bool) (s : State) (hs : s0.grows s) :
    s0.grows (performRequest r admitted s) := by
  unfold performRequest
  repeat' first
    | with_reducible assumption | with_reducible apply completeRequest_grows | with_reducible apply holdRequest_grows
    | with_reducible apply meetSignal_grows | with_reducible apply performOn_grows
    | with_reducible apply targetChecks_grows | with_reducible apply targetRefused_grows | split
    | (refine grows_of_pair (by with_reducible assumption) ?_) | (with_reducible refine grows_mk ?_ rfl rfl rfl)

theorem performWait_grows {s0 : State} (w : MemWait) (s : State) (hs : s0.grows s) : s0.grows (performWait w s) := by
  unfold performWait
  repeat' first
    | with_reducible assumption | with_reducible apply completeRequest_grows | with_reducible apply performOn_grows
    | with_reducible apply performRequest_grows | split

theorem retryMemWait_grows {s0 : State} (s : State) (hs : s0.grows s) : s0.grows (retryMemWait s) := by
  unfold retryMemWait
  repeat' first
    | with_reducible assumption | with_reducible intro _ | with_reducible apply countRoom_grows
    | with_reducible apply performWait_grows | with_reducible apply foldl_grows
    | (with_reducible refine ite_grows ?_ ?_) | (with_reducible refine grows_mk ?_ rfl rfl rfl)

theorem removeRegion_grows {s0 : State} (g : Region) (s : State) (hs : s0.grows s) : s0.grows (removeRegion g s) :=
  grows_of_agree hs (removeRegion_frame g s (agree_refl [.fau, .obj] _) rfl) rfl

theorem releaseHold_grows {s0 : State} (h : Held) (s : State) (hs : s0.grows s) : s0.grows (releaseHold h s) := by
  unfold releaseHold
  repeat' first
    | with_reducible assumption | with_reducible apply answerSignal_grows | with_reducible apply completeRequest_grows
    | with_reducible apply countRoom_grows | with_reducible apply signalServed_grows | split
    | (refine grows_of_pair (by with_reducible assumption) ?_) | (with_reducible refine grows_mk ?_ rfl rfl rfl)

theorem acknowledged_grows {s0 : State} (u : Unacked) (s : State) (hs : s0.grows s) :
    s0.grows (acknowledged u s) := by
  unfold acknowledged
  repeat' first
    | with_reducible assumption | with_reducible apply countRoom_grows | with_reducible apply enterAnswer_grows
    | with_reducible apply sendCompletion_grows | (with_reducible refine ite_grows ?_ ?_)
    | (with_reducible refine grows_mk ?_ rfl rfl rfl)

theorem retryAnswerRoom_grows {s0 : State} (s : State) (hs : s0.grows s) : s0.grows (retryAnswerRoom s) := by
  unfold retryAnswerRoom
  repeat' first
    | with_reducible assumption | with_reducible intro _ | with_reducible apply acknowledged_grows
    | with_reducible apply releaseHold_grows | with_reducible apply foldl_grows
    | (with_reducible refine ite_grows ?_ ?_)

/-! ### Machine/Groups.lean -/

theorem modColl_grows {s0 : State} (f : Coll → Coll) (s : State) (hs : s0.grows s) : s0.grows (modColl f s) :=
  grows_of_agree hs (modColl_frame f s (agree_refl [.coll] _) rfl) rfl

theorem removeGroup_grows {s0 : State} (g : Group) (s : State) (hs : s0.grows s) : s0.grows (removeGroup g s) :=
  grows_of_agree hs (removeGroup_frame g s (agree_refl [.datum, .coll] _) rfl) rfl

theorem settleGroups_grows {s0 : State} (s : State) (hs : s0.grows s) : s0.grows (settleGroups s) := by
  unfold settleGroups
  repeat' first
    | with_reducible assumption | with_reducible intro _ | with_reducible apply finishAll_grows
    | with_reducible apply removeGroup_grows | with_reducible apply foldl_grows

/-! ### Machine/Coll.lean -/

theorem sendTracked_grows {s0 : State} (k : TxPacket) (id : BitVec 32) (below : Nat) (s : State) (hs : s0.grows s) :
    s0.grows (sendTracked k id below s).2 := by
  unfold sendTracked
  repeat' first
    | with_reducible assumption | with_reducible apply modColl_grows | with_reducible apply sendPacket_grows | split
    | (refine grows_of_pair (by with_reducible assumption) ?_)

theorem sendAll_grows {s0 : State} (id : BitVec 32) (a0 : List (TxPacket × Nat)) (a1 : State) (hs : s0.grows a1) :
    s0.grows (sendAll id a0 a1).2 := by
  induction a0 generalizing a1 with
  | nil => exact hs
  | cons x l ih =>
    unfold sendAll
    repeat' first
      | with_reducible assumption | with_reducible apply sendTracked_grows | with_reducible apply ih | split
      | (refine grows_of_pair (by with_reducible assumption) ?_)

theorem sendEach_grows {s0 : State} (a0 : List TxPacket) (a1 : State) (hs : s0.grows a1) :
    s0.grows (sendEach a0 a1).2 := by
  induction a0 generalizing a1 with
  | nil => exact hs
  | cons x l ih =>
    unfold sendEach
    repeat' first
      | with_reducible assumption | with_reducible apply sendPacket_grows | with_reducible apply ih | split
      | (refine grows_of_pair (by with_reducible assumption) ?_)

theorem forgetPackets_grows {s0 : State} (p : PolderId) (id : BitVec 32) (s : State) (hs : s0.grows s) :
    s0.grows (forgetPackets p id s) :=
  grows_of_agree hs (forgetPackets_frame p id s (agree_refl [.link, .coll] _) rfl) rfl

theorem setPart_grows {s0 : State} (c : Participant) (s : State) (hs : s0.grows s) : s0.grows (setPart c s) :=
  grows_of_agree hs (setPart_frame c s (agree_refl [.coll] _) rfl) rfl

theorem traceColl_grows {s0 : State} (ended : Bool) (l : Launch) (c : Option CtxId) (st : Status) (s : State)
    (hs : s0.grows s) : s0.grows (traceColl ended l c st s) :=
  grows_of_agree hs (traceColl_frame ended l c st s (agree_refl [.tracer, .free] _) rfl) rfl

theorem completePart_grows {s0 : State} (c : Participant) (st : Status) (result : Nat) (flags : BitVec 6) (s : State)
    (hs : s0.grows s) : s0.grows (completePart c st result flags s) := by
  unfold completePart
  repeat' first
    | with_reducible assumption | with_reducible apply count_grows | with_reducible apply dropMarks_grows
    | with_reducible apply endDescriptor_grows | with_reducible apply forgetPackets_grows
    | with_reducible apply modColl_grows | with_reducible apply settleGroups_grows
    | with_reducible apply traceColl_grows | (with_reducible refine ite_grows ?_ ?_)

theorem sendAbort_grows {s0 : State} (g : Group) (id : BitVec 32) (cls : BitVec 4) (m : BitVec 16) (node : Option Nat)
    (st : Status) (inst : InstId) (s : State) (hs : s0.grows s) : s0.grows (sendAbort g id cls m node st inst s) :=
  sendQuietly_grows _ _ hs

theorem abortPart_grows {s0 : State} (c : Participant) (st : Status) (s : State) (hs : s0.grows s) :
    s0.grows (abortPart c st s) := by
  unfold abortPart
  dsimp only
  repeat' first
    | with_reducible assumption | with_reducible apply completePart_grows | with_reducible apply sendAbort_grows
    | split

theorem readSource_grows {s0 : State} (c : Participant) (off : Nat) (len : Nat) (s : State) (hs : s0.grows s) :
    s0.grows (readSource c off len s).2.2 := by
  unfold readSource
  repeat' first
    | with_reducible assumption | with_reducible apply localCheck_grows | with_reducible apply stackCount_grows
    | split | (refine grows_of_pair (by with_reducible assumption) ?_) | (dsimp only)

theorem pumpData_grows {s0 : State} (g : Group) (rank : Nat) (a0 : Nat) (a1 : Participant) (a2 : State)
    (hs : s0.grows a2) : s0.grows (pumpData g rank a0 a1 a2) := by
  induction a0 generalizing a1 a2 with
  | zero =>
    unfold pumpData
    repeat' first
      | with_reducible assumption | with_reducible apply abortPart_grows | with_reducible apply readSource_grows
      | with_reducible apply sendTracked_grows | with_reducible apply setPart_grows
  | succ n ih =>
    unfold pumpData
    repeat' first
      | with_reducible assumption | with_reducible apply abortPart_grows | with_reducible apply readSource_grows
      | with_reducible apply sendTracked_grows | with_reducible apply setPart_grows | with_reducible apply ih
      | (with_reducible refine ite_grows ?_ ?_) | split | (refine grows_of_pair (by with_reducible assumption) ?_)
      | (refine grows_of_trip (by with_reducible assumption) ?_)

theorem pumpPart_grows {s0 : State} (p : PolderId) (id : BitVec 32) (s : State) (hs : s0.grows s) :
    s0.grows (pumpPart p id s) := by
  unfold pumpPart
  repeat' first
    | with_reducible assumption | with_reducible apply abortPart_grows | with_reducible apply pumpData_grows
    | with_reducible apply readSource_grows | with_reducible apply sendAll_grows
    | with_reducible apply sendTracked_grows | with_reducible apply setPart_grows
    | with_reducible apply traceColl_grows | split | (refine grows_of_pair (by with_reducible assumption) ?_)
    | (refine grows_of_trip (by with_reducible assumption) ?_) | (dsimp only)

/-! ### Machine/CollNode.lean -/

theorem setNode_grows {s0 : State} (n : CollNode) (s : State) (hs : s0.grows s) : s0.grows (setNode n s) :=
  grows_of_agree hs (setNode_frame n s (agree_refl [.coll] _) rfl) rfl

theorem freeNode_grows {s0 : State} (n : CollNode) (s : State) (hs : s0.grows s) : s0.grows (freeNode n s) := by
  unfold freeNode
  repeat' first
    | with_reducible assumption | with_reducible apply forgetPackets_grows | with_reducible apply modColl_grows
    | with_reducible apply retryLoads_grows | with_reducible apply settleGroups_grows
    | with_reducible apply writeFault_grows | (with_reducible refine ite_grows ?_ ?_)

theorem abortNode_grows {s0 : State} (g : Group) (n : CollNode) (st : Status) (inst : InstId) (s : State)
    (hs : s0.grows s) : s0.grows (abortNode g n st inst s) :=
  sendAbort_grows _ _ _ _ _ _ _ _ (freeNode_grows _ _ hs)

theorem grantCredit_grows {s0 : State} (g : Group) (n : CollNode) (named : Option Nat) (s : State) (hs : s0.grows s) :
    s0.grows (grantCredit g n named s) := by
  unfold grantCredit
  repeat' first
    | with_reducible assumption | with_reducible apply abortNode_grows | with_reducible apply sendEach_grows
    | with_reducible apply setNode_grows | split | (refine grows_of_pair (by with_reducible assumption) ?_)

theorem sendPieces_grows {s0 : State} (g : Group) (n : CollNode) (s : State) (hs : s0.grows s) :
    s0.grows (sendPieces g n s).2.2 :=
  sendAll_grows _ _ _ hs

theorem combineBlocks_grows {s0 : State} (a0 : Nat) (a1 : CollNode) (a2 : State) (hs : s0.grows a2) :
    s0.grows (combineBlocks a0 a1 a2).2 :=
  grows_of_agree hs (combineBlocks_frame a0 a1 a2 (agree_refl [.polders, .tracer, .gauge] _) rfl) rfl

theorem beginPlacement_grows {s0 : State} (g : Group) (n : CollNode) (s : State) (hs : s0.grows s) :
    s0.grows (beginPlacement g n s).2.2 :=
  sendEach_grows _ _ hs

theorem endCounts_grows {s0 : State} (g : Group) (n : CollNode) (s : State) (hs : s0.grows s) :
    s0.grows (endCounts g n s).2.2 := by
  unfold endCounts
  repeat' first
    | with_reducible assumption | with_reducible apply beginPlacement_grows | with_reducible apply sendAll_grows
    | with_reducible apply sendEach_grows | (with_reducible refine ite_trip_grows ?_ ?_) | split
    | (refine grows_of_pair (by with_reducible assumption) ?_)

theorem sendCuts_grows {s0 : State} (g : Group) (old : CollNode) (n : CollNode) (s : State) (hs : s0.grows s) :
    s0.grows (sendCuts g old n s).2 := by
  unfold sendCuts
  repeat' first
    | with_reducible assumption | with_reducible apply sendAll_grows | (with_reducible refine ite_pair_grows ?_ ?_)

theorem tryDone_grows {s0 : State} (g : Group) (n : CollNode) (s : State) (hs : s0.grows s) :
    GrowsOpt s0 (tryDone g n s) := by
  unfold tryDone
  repeat' first
    | with_reducible assumption | with_reducible apply freeNode_grows | with_reducible apply sendQuietly_grows
    | with_reducible apply traceColl_grows | with_reducible exact growsOpt_none | with_reducible apply growsOpt_some
    | (refine grows_of_opt (by with_reducible assumption) ?_) | split

theorem nodeWork_grows {s0 : State} (g : Group) (n : CollNode) (named : Option Nat) (s : State) (hs : s0.grows s) :
    s0.grows (nodeWork g n named s) := by
  unfold nodeWork
  repeat' first
    | with_reducible assumption | with_reducible apply abortNode_grows | with_reducible apply combineBlocks_grows
    | with_reducible apply endCounts_grows | with_reducible apply grantCredit_grows
    | with_reducible apply needKey_grows | with_reducible apply sendCuts_grows | with_reducible apply sendPieces_grows
    | with_reducible apply tryDone_grows | (refine grows_of_opt (by with_reducible assumption) ?_) | split
    | (refine grows_of_pair (by with_reducible assumption) ?_)
    | (refine grows_of_trip (by with_reducible assumption) ?_) | (dsimp only)

theorem collectiveFailed_grows {s0 : State} (p : PolderId) (id : BitVec 32) (st : Status) (s : State)
    (hs : s0.grows s) : s0.grows (collectiveFailed p id st s) := by
  unfold collectiveFailed
  repeat' first
    | with_reducible assumption | with_reducible apply abortNode_grows | with_reducible apply abortPart_grows
    | with_reducible apply freeNode_grows | split

theorem pumpColl_grows {s0 : State} (p : PolderId) (s : State) (hs : s0.grows s) : s0.grows (pumpColl p s) := by
  unfold pumpColl
  repeat' first
    | with_reducible assumption | with_reducible intro _ | with_reducible apply nodeWork_grows
    | with_reducible apply pumpPart_grows | with_reducible apply foldl_grows | split

theorem endColl_grows {s0 : State} (mine : Launch → Bool) (st : Status) (s : State) (hs : s0.grows s) :
    s0.grows (endColl mine st s) := by
  unfold endColl
  repeat' first
    | with_reducible assumption | with_reducible intro _ | with_reducible apply completePart_grows
    | with_reducible apply freeNode_grows | with_reducible apply foldl_grows

/-! ### Machine/Barriers.lean -/

theorem modBars_grows {s0 : State} (f : Barriers → Barriers) (s : State) (hs : s0.grows s) : s0.grows (modBars f s) :=
  grows_of_agree hs (modBars_frame f s (agree_refl [.bars] _) rfl) rfl

theorem completeArrival_grows {s0 : State} (a : Arrival) (st : Status) (s : State) (hs : s0.grows s) :
    s0.grows (completeArrival a st s) := by
  unfold completeArrival
  repeat' first
    | with_reducible assumption | with_reducible apply endDescriptor_grows | with_reducible apply modBars_grows
    | with_reducible apply settleGroups_grows | (with_reducible refine grows_mk ?_ rfl rfl rfl)

theorem endCounter_grows {s0 : State} (p : PolderId) (group : BitVec 16) (id : BitVec 32) (st : Status) (s : State)
    (hs : s0.grows s) : s0.grows (endCounter p group id st s) := by
  unfold endCounter
  repeat' first
    | with_reducible assumption | with_reducible apply modBars_grows | with_reducible apply settleGroups_grows
    | (with_reducible refine grows_mk ?_ rfl rfl rfl)

theorem abortBarrier_grows {s0 : State} (g : Group) (j : Nat) (id : BitVec 32) (cls : BitVec 4) (st : Status)
    (inst : InstId) (s : State) (hs : s0.grows s) : s0.grows (abortBarrier g j id cls st inst s) :=
  sendAbort_grows _ _ _ _ _ _ _ _ (endCounter_grows _ _ _ _ _ hs)

theorem barrierFailed_grows {s0 : State} (p : PolderId) (id : BitVec 32) (st : Status) (s : State) (hs : s0.grows s) :
    s0.grows (barrierFailed p id st s) := by
  unfold barrierFailed
  repeat' first
    | with_reducible assumption | with_reducible apply abortBarrier_grows | with_reducible apply completeArrival_grows
    | with_reducible apply endCounter_grows | split

theorem endBarriers_grows {s0 : State} (mine : PolderId → BitVec 16 → Bool) (st : Status) (s : State)
    (hs : s0.grows s) : s0.grows (endBarriers mine st s) := by
  unfold endBarriers
  repeat' first
    | with_reducible assumption | with_reducible intro _ | with_reducible apply completeArrival_grows
    | with_reducible apply modBars_grows | with_reducible apply settleGroups_grows | with_reducible apply foldl_grows

/-! ### Machine/Rings.lean -/

theorem modRings_grows {s0 : State} (f : Rings → Rings) (s : State) (hs : s0.grows s) : s0.grows (modRings f s) :=
  grows_of_agree hs (modRings_frame f s (agree_refl [.rings] _) rfl) rfl

theorem homeLost_grows {s0 : State} (r : Ring) (home : BitVec 3) (cause : Nat) (s : State) (hs : s0.grows s) :
    s0.grows (homeLost r home cause s) :=
  writeFault_grows _ _ _ hs

theorem sendRingRequest_grows {s0 : State} (r : Ring) (k : BitVec 3) (msg : BitVec 4) (addr : BitVec 64)
    (data : Bytes) (s : State) (hs : s0.grows s) : s0.grows (sendRingRequest r k msg addr data s).2 := by
  unfold sendRingRequest
  repeat' first
    | with_reducible assumption | with_reducible apply modRings_grows | with_reducible apply sendPacket_grows
    | with_reducible apply takeSeq_grows | split | (refine grows_of_pair (by with_reducible assumption) ?_)
    | (dsimp only)

theorem sendLine_grows {s0 : State} (r : Ring) (k : BitVec 3) (msg : BitVec 4) (addr : BitVec 64) (data : Bytes)
    (s : State) (hs : s0.grows s) : s0.grows (sendLine r k msg addr data s) := by
  unfold sendLine
  repeat' first
    | with_reducible assumption | with_reducible apply emit_grows | with_reducible apply sendRingRequest_grows | split
    | (refine grows_of_pair (by with_reducible assumption) ?_)

theorem ringReply_grows {s0 : State} (r : Ring) (m : Released) (msg : BitVec 4) (st : Status) (state : BitVec 2)
    (data : Bytes) (s : State) (hs : s0.grows s) : s0.grows (ringReply r m msg st state data s) := by
  unfold ringReply
  repeat' first
    | with_reducible assumption | with_reducible apply emit_grows | with_reducible apply sendQuietly_grows
    | (with_reducible refine ite_grows ?_ ?_)

theorem ringRefuse_grows {s0 : State} (r : Ring) (m : Released) (st : Status) (s : State) (hs : s0.grows s) :
    s0.grows (ringRefuse r m st s) :=
  ringReply_grows _ _ _ _ _ _ _ hs

theorem setLine_grows {s0 : State} (e : DirEntry) (s : State) (hs : s0.grows s) : s0.grows (setLine e s) :=
  grows_of_agree hs (setLine_frame e s (agree_refl [.rings] _) rfl) rfl

theorem freeLine_grows {s0 : State} (ring : BitVec 12) (line : BitVec 37) (s : State) (hs : s0.grows s) :
    s0.grows (freeLine ring line s) :=
  grows_of_agree hs (freeLine_frame ring line s (agree_refl [.rings] _) rfl) rfl

theorem denyTxn_grows {s0 : State} (ring : BitVec 12) (line : BitVec 37) (s : State) (hs : s0.grows s) :
    s0.grows (denyTxn ring line s) := by
  unfold denyTxn
  dsimp only
  repeat' first
    | with_reducible assumption | with_reducible apply freeLine_grows | with_reducible apply modRings_grows
    | with_reducible apply ringRefuse_grows | with_reducible apply setLine_grows | split

theorem numberSnoop_grows {s0 : State} (r : Ring) (k : BitVec 3) (msg : BitVec 4) (addr : BitVec 64) (s : State)
    (hs : s0.grows s) : s0.grows (numberSnoop r k msg addr s) := by
  unfold numberSnoop
  repeat' first
    | with_reducible assumption | with_reducible apply denyTxn_grows | with_reducible apply sendRingRequest_grows
    | split | (refine grows_of_pair (by with_reducible assumption) ?_)

theorem sendSnoop_grows {s0 : State} (r : Ring) (line : BitVec 37) (k : BitVec 3) (msg : BitVec 4) (s : State)
    (hs : s0.grows s) : s0.grows (sendSnoop r line k msg s) := by
  unfold sendSnoop
  repeat' first
    | with_reducible assumption | with_reducible apply count_grows | with_reducible apply emit_grows
    | with_reducible apply modRings_grows | with_reducible apply numberSnoop_grows
    | (with_reducible refine ite_grows ?_ ?_)

theorem homeAccess_grows {s0 : State} (r : Ring) (line : BitVec 37) (data : Option Bytes) (s : State)
    (hs : s0.grows s) : s0.grows (homeAccess r line data s).2 := by
  unfold homeAccess
  dsimp only
  repeat' first
    | with_reducible assumption | with_reducible intro _ | with_reducible apply homeLost_grows
    | with_reducible apply keepLookups_grows | with_reducible apply leaseCheck_grows
    | with_reducible apply stackTargetChange_grows | with_reducible apply stackTargetRead_grows
    | with_reducible apply trayChange_grows | with_reducible apply trayRead_grows
    | with_reducible apply withTray_grows | split | (refine grows_of_pair (by with_reducible assumption) ?_)

theorem allocLine_grows {s0 : State} (ring : BitVec 12) (line : BitVec 37) (state : LineState) (sharers : BitVec 8)
    (owner : BitVec 3) (s : State) (hs : s0.grows s) : s0.grows (allocLine ring line state sharers owner s) :=
  grows_of_agree hs (allocLine_frame ring line state sharers owner s (agree_refl [.rings] _) rfl) rfl

theorem startTxn_grows {s0 : State} (r : Ring) (e : DirEntry) (invalidate : List (BitVec 3))
    (recalled : Option (BitVec 3 × BitVec 4)) (goal : RingGoal) (s : State) (hs : s0.grows s) :
    s0.grows (startTxn r e invalidate recalled goal s) := by
  unfold startTxn
  repeat' first
    | with_reducible assumption | with_reducible intro _ | with_reducible apply modRings_grows
    | with_reducible apply sendSnoop_grows | with_reducible apply setLine_grows | with_reducible apply foldl_grows
    | split

theorem clearLine_grows {s0 : State} (r : Ring) (e : DirEntry) (goal : RingGoal) (s : State) (hs : s0.grows s) :
    s0.grows (clearLine r e goal s) := by
  unfold clearLine
  repeat' first
    | with_reducible assumption | with_reducible apply startTxn_grows | split

theorem keepWaiting_grows {s0 : State} (m : Released) (s : State) (hs : s0.grows s) : s0.grows (keepWaiting m s) :=
  grows_of_agree hs (keepWaiting_frame m s (agree_refl [.rings] _) rfl) rfl

theorem dropHeld_grows {s0 : State} (ring : BitVec 12) (line : BitVec 37) (s : State) (hs : s0.grows s) :
    s0.grows (dropHeld ring line s) :=
  grows_of_agree hs (dropHeld_frame ring line s (agree_refl [.rings] _) rfl) rfl

theorem grantLine_grows {s0 : State} (r : Ring) (m : Released) (line : BitVec 37) (state : BitVec 2)
    (upd : State → State) (s : State) (hs : s0.grows s) (h_upd : ∀ s : State, s0.grows s → s0.grows (upd s)) :
    s0.grows (grantLine r m line state upd s) := by
  unfold grantLine
  repeat' first
    | with_reducible assumption | with_reducible apply dropHeld_grows | with_reducible apply homeAccess_grows
    | with_reducible apply keepWaiting_grows | with_reducible apply ringRefuse_grows
    | with_reducible apply ringReply_grows | with_reducible apply h_upd | split
    | (refine grows_of_pair (by with_reducible assumption) ?_)

theorem serveUncached_grows {s0 : State} (r : Ring) (k : BitVec 3) (m : Released) (line : BitVec 37) (shared : Bool)
    (s : State) (hs : s0.grows s) : s0.grows (serveUncached r k m line shared s) := by
  unfold serveUncached
  repeat' first
    | with_reducible assumption | with_reducible apply allocLine_grows | with_reducible apply clearLine_grows
    | with_reducible apply count_grows | with_reducible apply grantLine_grows | with_reducible apply keepWaiting_grows
    | with_reducible apply ringRefuse_grows | with_reducible apply foldl_grows | split | (dsimp only)

theorem serveShared_grows {s0 : State} (r : Ring) (k : BitVec 3) (m : Released) (e : DirEntry) (s : State)
    (hs : s0.grows s) : s0.grows (serveShared r k m e s) := by
  unfold serveShared
  repeat' first
    | with_reducible assumption | with_reducible apply freeLine_grows | with_reducible apply grantLine_grows
    | with_reducible apply ringReply_grows | with_reducible apply setLine_grows | with_reducible apply startTxn_grows
    | (with_reducible refine ite_grows ?_ ?_) | split

theorem serveModified_grows {s0 : State} (r : Ring) (k : BitVec 3) (m : Released) (e : DirEntry) (s : State)
    (hs : s0.grows s) : s0.grows (serveModified r k m e s) := by
  unfold serveModified
  repeat' first
    | with_reducible assumption | with_reducible apply freeLine_grows | with_reducible apply grantLine_grows
    | with_reducible apply homeAccess_grows | with_reducible apply keepWaiting_grows
    | with_reducible apply ringReply_grows | with_reducible apply startTxn_grows | with_reducible apply id_grows
    | split | (refine grows_of_pair (by with_reducible assumption) ?_)

theorem serveLine_grows {s0 : State} (m : Released) (s : State) (hs : s0.grows s) : s0.grows (serveLine m s) := by
  unfold serveLine
  repeat' first
    | with_reducible assumption | with_reducible apply dropHeld_grows | with_reducible apply keepWaiting_grows
    | with_reducible apply ringRefuse_grows | with_reducible apply ringReply_grows
    | with_reducible apply serveModified_grows | with_reducible apply serveShared_grows
    | with_reducible apply serveUncached_grows | with_reducible apply wakeDomain_grows
    | (with_reducible refine ite_grows ?_ ?_) | split

theorem pumpRings_grows {s0 : State} (s : State) (hs : s0.grows s) : s0.grows (pumpRings s) := by
  unfold pumpRings
  repeat' first
    | with_reducible assumption | with_reducible intro _ | with_reducible apply modRings_grows
    | with_reducible apply serveLine_grows | with_reducible apply foldl_grows

theorem retireRing_grows {s0 : State} (r : Ring) (s : State) (hs : s0.grows s) : s0.grows (retireRing r s) :=
  grows_of_agree hs (retireRing_frame r s (agree_refl [.fau, .rings] _) rfl) rfl

theorem destroyStep_grows {s0 : State} (r : Ring) (s : State) (hs : s0.grows s) : s0.grows (destroyStep r s) := by
  unfold destroyStep
  repeat' first
    | with_reducible assumption | with_reducible intro _ | with_reducible apply clearLine_grows
    | with_reducible apply finishAll_grows | with_reducible apply freeLine_grows
    | with_reducible apply retireRing_grows | with_reducible apply foldl_grows
    | (with_reducible refine ite_grows ?_ ?_) | split

theorem finishTxn_grows {s0 : State} (t : RingTxn) (lost : Bool) (s : State) (hs : s0.grows s) :
    s0.grows (finishTxn t lost s) := by
  unfold finishTxn
  dsimp only
  repeat' first
    | with_reducible assumption | with_reducible apply destroyStep_grows | with_reducible apply freeLine_grows
    | with_reducible apply modRings_grows | with_reducible apply pumpRings_grows | with_reducible apply setLine_grows
    | split

theorem settleTxn_grows {s0 : State} (ring : BitVec 12) (line : BitVec 37) (k : BitVec 3) (lost : Bool) (s : State)
    (hs : s0.grows s) : s0.grows (settleTxn ring line k lost s) := by
  unfold settleTxn
  repeat' first
    | with_reducible assumption | with_reducible apply finishTxn_grows | with_reducible apply modRings_grows
    | (with_reducible refine ite_grows ?_ ?_) | split

theorem snoopAnswered_grows {s0 : State} (r : Ring) (line : BitVec 37) (k : BitVec 3) (data : Option Bytes)
    (s : State) (hs : s0.grows s) : s0.grows (snoopAnswered r line k data s).2 := by
  unfold snoopAnswered
  repeat' first
    | with_reducible assumption | with_reducible apply homeAccess_grows | with_reducible apply modRings_grows
    | with_reducible apply settleTxn_grows | (with_reducible refine ite_pair_grows ?_ ?_) | split
    | (refine grows_of_pair (by with_reducible assumption) ?_)

theorem homeAgain_grows {s0 : State} (r : Ring) (m : Released) (s : State) (hs : s0.grows s) :
    s0.grows (homeAgain r m s) := by
  unfold homeAgain
  repeat' first
    | with_reducible assumption | with_reducible apply homeAccess_grows | with_reducible apply modRings_grows
    | with_reducible apply ringReply_grows | (with_reducible refine ite_grows ?_ ?_) | split
    | (refine grows_of_pair (by with_reducible assumption) ?_)

theorem retryAgain_grows {s0 : State} (s : State) (hs : s0.grows s) : s0.grows (retryAgain s) := by
  unfold retryAgain
  repeat' first
    | with_reducible assumption | with_reducible intro _ | with_reducible apply homeAgain_grows
    | with_reducible apply modRings_grows | with_reducible apply foldl_grows | split

theorem answerSnoop_grows {s0 : State} (r : Ring) (m : Released) (data : Option Bytes) (s : State) (hs : s0.grows s) :
    s0.grows (answerSnoop r m data s) := by
  unfold answerSnoop
  repeat' first
    | with_reducible assumption | with_reducible apply ringReply_grows | split
    | (with_reducible refine grows_mk ?_ rfl rfl rfl)

theorem takeReply_grows {s0 : State} (s : State) (x : SnoopReply) (hs : s0.grows s) : s0.grows (takeReply s x) := by
  unfold takeReply
  repeat' first
    | with_reducible assumption | with_reducible apply answerSnoop_grows | with_reducible apply count_grows
    | with_reducible apply modRings_grows | with_reducible apply snoopAnswered_grows | split
    | (refine grows_of_pair (by with_reducible assumption) ?_) | (dsimp only)

theorem retryReplies_grows {s0 : State} (s : State) (hs : s0.grows s) : s0.grows (retryReplies s) := by
  unfold retryReplies
  repeat' first
    | with_reducible assumption | with_reducible apply modRings_grows | with_reducible apply takeReply_grows
    | with_reducible apply foldl_grows

theorem dropRingReq_grows {s0 : State} (q : RingReq) (s : State) (hs : s0.grows s) : s0.grows (dropRingReq q s) :=
  grows_of_agree hs (dropRingReq_frame q s (agree_refl [.rings] _) rfl) rfl

theorem pumpLines_grows {s0 : State} (s : State) (hs : s0.grows s) : s0.grows (pumpLines s) := by
  unfold pumpLines
  repeat' first
    | with_reducible assumption | with_reducible intro _ | with_reducible apply emit_grows
    | with_reducible apply modRings_grows | with_reducible apply numberSnoop_grows
    | with_reducible apply sendLine_grows | with_reducible apply foldl_grows | (with_reducible refine ite_grows ?_ ?_)
    | split

theorem endLine_grows {s0 : State} (r : Ring) (q : RingReq) (st : Status) (data : Bytes) (s : State)
    (hs : s0.grows s) : s0.grows (endLine r q st data s) :=
  pumpLines_grows _ (dropRingReq_grows _ _ (emit_grows _ _ hs))

theorem settleLate_grows {s0 : State} (s : State) (hs : s0.grows s) : s0.grows (settleLate s) := by
  unfold settleLate
  repeat' first
    | with_reducible assumption | with_reducible intro _ | with_reducible apply snoopAnswered_grows
    | with_reducible apply foldl_grows | split

theorem retryBacks_grows {s0 : State} (s : State) (hs : s0.grows s) : s0.grows (retryBacks s) := by
  unfold retryBacks
  repeat' first
    | with_reducible assumption | with_reducible intro _ | with_reducible apply modRings_grows
    | with_reducible apply settleLate_grows | with_reducible apply snoopAnswered_grows
    | with_reducible apply foldl_grows | split | (refine grows_of_pair (by with_reducible assumption) ?_)

theorem settleDestroys_grows {s0 : State} (s : State) (hs : s0.grows s) : s0.grows (settleDestroys s) := by
  unfold settleDestroys
  repeat' first
    | with_reducible assumption | with_reducible intro _ | with_reducible apply destroyStep_grows
    | with_reducible apply foldl_grows | split

/-! ### Machine/Extents.lean -/

theorem extentKeyFailed_grows {s0 : State} (e : Extent) (st : Status) (s : State) (hs : s0.grows s) :
    s0.grows (extentKeyFailed e st s) := by
  unfold extentKeyFailed
  repeat' first
    | with_reducible assumption | with_reducible apply finishAll_grows | with_reducible apply modExtent_grows
    | with_reducible apply reclaimLocation_grows | with_reducible apply removeRegion_grows | split
    | (with_reducible refine grows_mk ?_ rfl rfl rfl)

theorem extentKeyStep_grows {s0 : State} (id : BitVec 13) (s : State) (hs : s0.grows s) :
    s0.grows (extentKeyStep id s) := by
  unfold extentKeyStep
  repeat' first
    | with_reducible assumption | with_reducible apply extentKeyFailed_grows | with_reducible apply needJob_grows
    | with_reducible apply needKey_grows | split | (refine grows_of_pair (by with_reducible assumption) ?_)

/-! ### Machine/Sca.lean -/

theorem scaRefuse_grows {s0 : State} (r : ScaReq) (op : BitVec 3) (st : Status) (s : State) (hs : s0.grows s) :
    s0.grows (scaRefuse r op st s) :=
  scaAnswer_grows _ _ _ _ (writeFault_grows _ _ _ hs)

theorem scaReadEffect_grows {s0 : State} (r : ScaReq) (s : State) (hs : s0.grows s) :
    s0.grows (scaReadEffect r s) :=
  scaAnswer_grows _ _ _ _ hs

theorem incEffect_grows {s0 : State} (r : ScaReq) (s : State) (hs : s0.grows s) : s0.grows (incEffect r s) := by
  unfold incEffect
  repeat' first
    | with_reducible assumption | with_reducible apply changeSync_grows | with_reducible apply scaAnswer_grows
    | with_reducible apply syncFault_grows | (with_reducible refine ite_grows ?_ ?_)

theorem decEffect_grows {s0 : State} (r : ScaReq) (s : State) (hs : s0.grows s) : s0.grows (decEffect r s) := by
  unfold decEffect
  repeat' first
    | with_reducible assumption | with_reducible apply changeSync_grows | with_reducible apply scaAnswer_grows
    | with_reducible apply syncFault_grows | (with_reducible refine ite_grows ?_ ?_)

theorem setEffect_grows {s0 : State} (r : ScaReq) (s : State) (hs : s0.grows s) : s0.grows (setEffect r s) :=
  changeSync_grows _ _ _ _ (scaAnswer_grows _ _ _ _ hs)

theorem waitEffect_grows {s0 : State} (subtracts : Bool) (r : ScaReq) (s : State) (hs : s0.grows s) :
    s0.grows (waitEffect subtracts r s) := by
  unfold waitEffect
  repeat' first
    | with_reducible assumption | with_reducible apply count_grows | with_reducible apply scaAnswer_grows
    | with_reducible apply setSync_grows | (with_reducible refine ite_grows ?_ ?_)
    | (with_reducible refine grows_mk ?_ rfl rfl rfl)

theorem scaEffect_grows {s0 : State} (op : BitVec 3) (r : ScaReq) (s : State) (hs : s0.grows s) :
    s0.grows (scaEffect op r s) := by
  unfold scaEffect
  repeat' first
    | with_reducible assumption | with_reducible apply decEffect_grows | with_reducible apply incEffect_grows
    | with_reducible apply scaReadEffect_grows | with_reducible apply setEffect_grows
    | with_reducible apply waitEffect_grows | split

theorem scaRequest_grows {s0 : State} (op : BitVec 3) (r : ScaReq) (s : State) (hs : s0.grows s) :
    s0.grows (scaRequest op r s) := by
  unfold scaRequest
  repeat' first
    | with_reducible assumption | with_reducible apply scaAnswer_grows | with_reducible apply scaEffect_grows
    | with_reducible apply scaRefuse_grows | split | (with_reducible refine grows_mk ?_ rfl rfl rfl)

/-! ### Machine/Freeze.lean -/

theorem endHold_grows {s0 : State} (c : CtxId) (st : Status) (s : State) (hs : s0.grows s) :
    s0.grows (endHold c st s) := by
  unfold endHold
  repeat' first
    | with_reducible assumption | with_reducible apply dropMarks_grows | with_reducible apply endDescriptor_grows
    | with_reducible apply modContext_grows | split

theorem completeStep_grows {s0 : State} (c : CtxId) (s : State) (hs : s0.grows s) : s0.grows (completeStep c s) := by
  unfold completeStep
  repeat' first
    | with_reducible assumption | with_reducible apply emitTrace_grows | with_reducible apply endHold_grows
    | with_reducible apply modContext_grows | with_reducible apply profResetQueue_grows | split

theorem beginDueSteps_grows {s0 : State} (p : PolderId) (s : State) (hs : s0.grows s) :
    s0.grows (beginDueSteps p s) := by
  unfold beginDueSteps
  repeat' first
    | with_reducible assumption | with_reducible intro _ | with_reducible apply completeStep_grows
    | with_reducible apply foldl_grows

theorem resumeSca_grows {s0 : State} (p : PolderId) (s : State) (hs : s0.grows s) : s0.grows (resumeSca p s) := by
  unfold resumeSca
  repeat' first
    | with_reducible assumption | with_reducible intro _ | with_reducible apply scaRequest_grows
    | with_reducible apply foldl_grows | (with_reducible refine grows_mk ?_ rfl rfl rfl)

theorem thaw_grows {s0 : State} (p : PolderId) (s : State) (hs : s0.grows s) : s0.grows (thaw p s) := by
  unfold thaw
  repeat' first
    | with_reducible assumption | with_reducible apply beginDueSteps_grows | with_reducible apply modPolder_grows
    | with_reducible apply resumeHeld_grows | with_reducible apply resumeSca_grows

theorem thawChart_grows {s0 : State} (p : PolderId) (s : State) (hs : s0.grows s) : s0.grows (thawChart p s) := by
  unfold thawChart
  repeat' first
    | with_reducible assumption | with_reducible apply thaw_grows | split

theorem endExport_grows {s0 : State} (p : PolderId) (st : Status) (payload : Bytes) (s : State) (hs : s0.grows s) :
    s0.grows (endExport p st payload s) := by
  unfold endExport
  repeat' first
    | with_reducible assumption | with_reducible apply finish_grows | with_reducible apply poolGive_grows | split
    | (with_reducible refine grows_mk ?_ rfl rfl rfl)

theorem endImport_grows {s0 : State} (p : PolderId) (st : Status) (s : State) (hs : s0.grows s) :
    s0.grows (endImport p st s) := by
  unfold endImport
  repeat' first
    | with_reducible assumption | with_reducible apply finish_grows | with_reducible apply poolGive_grows | split
    | (with_reducible refine grows_mk ?_ rfl rfl rfl)

theorem endChartWaits_grows {s0 : State} (p : PolderId) (st : Status) (s : State) (hs : s0.grows s) :
    s0.grows (endChartWaits p st s) := by
  unfold endChartWaits
  repeat' first
    | with_reducible assumption | with_reducible apply endExport_grows | with_reducible apply endImport_grows
    | with_reducible apply thawChart_grows | (with_reducible refine ite_grows ?_ ?_)

/-! ### Machine/Samples.lean -/

theorem modTracer_grows {s0 : State} (f : Tracer → Tracer) (s : State) (hs : s0.grows s) : s0.grows (modTracer f s) :=
  grows_of_agree hs (modTracer_frame f s (agree_refl [.tracer] _) rfl) rfl

theorem blankPiece_grows {s0 : State} (n : Nat) (i : Nat) (s : State) (hs : s0.grows s) :
    s0.grows (blankPiece n i s) :=
  grows_of_agree hs (blankPiece_frame n i s (agree_refl [.tracer] _) rfl) rfl

theorem pumpPiece_grows {s0 : State} (n : Nat) (i : Nat) (s : State) (hs : s0.grows s) :
    s0.grows (pumpPiece n i s) := by
  unfold pumpPiece
  repeat' first
    | with_reducible assumption | with_reducible apply blankPiece_grows | with_reducible apply needJob_grows
    | with_reducible apply needKey_grows | split | (refine grows_of_pair (by with_reducible assumption) ?_)
    | (dsimp only)

theorem pumpSamples_grows {s0 : State} (p : PolderId) (s : State) (hs : s0.grows s) : s0.grows (pumpSamples p s) := by
  unfold pumpSamples
  repeat' first
    | with_reducible assumption | with_reducible intro _ | with_reducible apply pumpPiece_grows
    | with_reducible apply foldl_grows

theorem dropPieces_grows {s0 : State} (p : PolderId) (s : State) (hs : s0.grows s) : s0.grows (dropPieces p s) :=
  grows_of_agree hs (dropPieces_frame p s (agree_refl [.tracer] _) rfl) rfl

/-! ### Machine/KeyJobs.lean -/

theorem pumpAllTx_grows {s0 : State} (p : PolderId) (s : State) (hs : s0.grows s) : s0.grows (pumpAllTx p s) := by
  unfold pumpAllTx
  repeat' first
    | with_reducible assumption | with_reducible intro _ | with_reducible apply pumpTx_grows
    | with_reducible apply foldl_grows

theorem retryAllRx_grows {s0 : State} (p : PolderId) (s : State) (hs : s0.grows s) : s0.grows (retryAllRx p s) := by
  unfold retryAllRx
  repeat' first
    | with_reducible assumption | with_reducible intro _ | with_reducible apply retryRx_grows
    | with_reducible apply foldl_grows

theorem pumpFills_grows {s0 : State} (p : PolderId) (s : State) (hs : s0.grows s) : s0.grows (pumpFills p s) := by
  unfold pumpFills
  repeat' first
    | with_reducible assumption | with_reducible intro _ | with_reducible apply needKey_grows
    | with_reducible apply undoFill_grows | with_reducible apply foldl_grows | split
    | (refine grows_of_pair (by with_reducible assumption) ?_)

theorem retryUsers_grows {s0 : State} (p : PolderId) (s : State) (hs : s0.grows s) : s0.grows (retryUsers p s) := by
  unfold retryUsers
  repeat' first
    | with_reducible assumption | with_reducible intro _ | with_reducible apply extentKeyStep_grows
    | with_reducible apply fauSettle_grows | with_reducible apply pumpAllTx_grows
    | with_reducible apply pumpColl_grows | with_reducible apply pumpFills_grows
    | with_reducible apply pumpLines_grows | with_reducible apply pumpRings_grows
    | with_reducible apply pumpSamples_grows | with_reducible apply retryAllRx_grows
    | with_reducible apply retryKeyWait_grows | with_reducible apply retryMemWait_grows
    | with_reducible apply foldl_grows

theorem endWaitingTx_grows {s0 : State} (k : TxPacket) (st : Status) (s : State) (hs : s0.grows s) :
    s0.grows (endWaitingTx k st s) := by
  unfold endWaitingTx
  repeat' first
    | with_reducible assumption | with_reducible apply barrierFailed_grows
    | with_reducible apply collectiveFailed_grows | with_reducible apply denyTxn_grows
    | with_reducible apply dropRingReq_grows | with_reducible apply endLine_grows
    | with_reducible apply finishOp_grows | with_reducible apply requestRefused_grows | split

theorem endUsers_grows {s0 : State} (p : PolderId) (st : Status) (slot : Byte) (s : State) (hs : s0.grows s) :
    s0.grows (endUsers p st slot s).1 := by
  unfold endUsers
  repeat' first
    | with_reducible assumption | with_reducible intro _ | with_reducible apply endChartWaits_grows
    | with_reducible apply endWaitingTx_grows | with_reducible apply releaseHeld_grows
    | with_reducible apply retryUsers_grows | with_reducible apply stackAnswer_grows
    | with_reducible apply undoFill_grows | with_reducible apply foldl_grows
    | (with_reducible refine grows_mk ?_ rfl rfl rfl)

theorem failUsers_grows {s0 : State} (p : PolderId) (st : Status) (slot : Byte) (s : State) (hs : s0.grows s) :
    s0.grows (failUsers p st slot s) := by
  unfold failUsers
  repeat' first
    | with_reducible assumption | with_reducible apply endUsers_grows | with_reducible apply modPolder_grows
    | with_reducible apply writeFault_grows | (with_reducible refine ite_grows ?_ ?_)

theorem answerPins_grows {s0 : State} (p : PolderId) (st : Status) (s : State) (hs : s0.grows s) :
    s0.grows (answerPins p st s) := by
  unfold answerPins
  repeat' first
    | with_reducible assumption | with_reducible apply finishAll_grows | with_reducible apply modPolder_grows
    | (with_reducible refine ite_grows ?_ ?_) | (with_reducible refine grows_mk ?_ rfl rfl rfl)

theorem endSlotless_grows {s0 : State} (p : PolderId) (s : State) (hs : s0.grows s) : s0.grows (endSlotless p s) := by
  unfold endSlotless
  repeat' first
    | with_reducible assumption | with_reducible apply answerPins_grows | with_reducible apply failUsers_grows
    | (with_reducible refine grows_mk ?_ rfl rfl rfl)

theorem endHopeless_grows {s0 : State} (s : State) (hs : s0.grows s) : s0.grows (endHopeless s) := by
  unfold endHopeless
  repeat' first
    | with_reducible assumption | with_reducible intro _ | with_reducible apply endSlotless_grows
    | with_reducible apply foldl_grows | (with_reducible refine ite_grows ?_ ?_)

theorem endBadUsers_grows {s0 : State} (s : State) (hs : s0.grows s) : s0.grows (endBadUsers s) := by
  unfold endBadUsers
  repeat' first
    | with_reducible assumption | with_reducible intro _ | with_reducible apply endUsers_grows
    | with_reducible apply foldl_grows | (with_reducible refine ite_grows ?_ ?_)

theorem sweepTx_grows {s0 : State} (s : State) (hs : s0.grows s) : s0.grows (sweepTx s) := by
  unfold sweepTx
  repeat' first
    | with_reducible assumption | with_reducible intro _ | with_reducible apply endWaitingTx_grows
    | with_reducible apply streamExhausted_grows | with_reducible apply foldl_grows
    | (with_reducible refine grows_mk ?_ rfl rfl rfl)

theorem resumeStack_grows {s0 : State} (s : State) (hs : s0.grows s) : s0.grows (resumeStack s) := by
  unfold resumeStack
  repeat' first
    | with_reducible assumption | with_reducible intro _ | with_reducible apply needKey_grows
    | with_reducible apply pumpFills_grows | with_reducible apply pumpPorts_grows
    | with_reducible apply retryKeyWait_grows | with_reducible apply foldl_grows

theorem resumeLink_grows {s0 : State} (s : State) (hs : s0.grows s) : s0.grows (resumeLink s) := by
  unfold resumeLink
  repeat' first
    | with_reducible assumption | with_reducible intro _ | with_reducible apply pumpRxPorts_grows
    | with_reducible apply pumpTx_grows | with_reducible apply retryAllRx_grows | with_reducible apply sweepTx_grows
    | with_reducible apply foldl_grows

theorem resumeOutside_grows {s0 : State} (s : State) (hs : s0.grows s) : s0.grows (resumeOutside s) := by
  unfold resumeOutside
  repeat' first
    | with_reducible assumption | with_reducible intro _ | with_reducible apply fauSettle_grows
    | with_reducible apply pumpColl_grows | with_reducible apply pumpLines_grows
    | with_reducible apply pumpRings_grows | with_reducible apply retryAgain_grows
    | with_reducible apply retryAnswerRoom_grows | with_reducible apply retryAnswers_grows
    | with_reducible apply retryBacks_grows | with_reducible apply retryMemWait_grows
    | with_reducible apply retryReplies_grows | with_reducible apply settleDestroys_grows
    | with_reducible apply foldl_grows

theorem resume_grows {s0 : State} (s : State) (hs : s0.grows s) : s0.grows (resume s) := by
  unfold resume
  repeat' first
    | with_reducible assumption | with_reducible apply dispatchJobs_grows | with_reducible apply endBadUsers_grows
    | with_reducible apply endHopeless_grows | with_reducible apply resumeHeld_grows
    | with_reducible apply resumeLink_grows | with_reducible apply resumeOutside_grows
    | with_reducible apply resumeStack_grows | with_reducible apply retryLoads_grows
    | (with_reducible refine ite_grows ?_ ?_)

/-! ### Machine/Replay.lean -/

theorem resumeWork_grows {s0 : State} (s : State) (hs : s0.grows s) : s0.grows (resumeWork s) :=
  resume_grows _ (resumeHeld_grows _ hs)

theorem resendSuspect_grows {s0 : State} (h : Hang) (c : CtxId) (s : State) (hs : s0.grows s) :
    s0.grows (resendSuspect h c s) := by
  unfold resendSuspect
  repeat' first
    | with_reducible assumption | with_reducible intro _ | with_reducible apply resendNow_grows
    | with_reducible apply foldl_grows | (with_reducible refine ite_grows ?_ ?_)

theorem advanceHang_grows {s0 : State} (unit : BitVec 16) (s : State) (hs : s0.grows s) :
    s0.grows (advanceHang unit s) := by
  unfold advanceHang
  repeat' first
    | with_reducible assumption | with_reducible apply finishAll_grows | with_reducible apply modTracer_grows
    | with_reducible apply resendSuspect_grows | with_reducible apply resumeWork_grows
    | (with_reducible refine ite_grows ?_ ?_) | split

theorem dropSuspect_grows {s0 : State} (c : CtxId) (s : State) (hs : s0.grows s) : s0.grows (dropSuspect c s) := by
  unfold dropSuspect
  repeat' first
    | with_reducible assumption | with_reducible intro _ | with_reducible apply advanceHang_grows
    | with_reducible apply modTracer_grows | with_reducible apply foldl_grows

/-! ### Machine/Contexts.lean -/

theorem modObj_grows {s0 : State} (f : Objects → Objects) (s : State) (hs : s0.grows s) : s0.grows (modObj f s) :=
  grows_of_agree hs (modObj_frame f s (agree_refl [.obj] _) rfl) rfl

theorem passAhead_grows {s0 : State} (q : BitVec 8) (n : Nat) (s : State) (hs : s0.grows s) :
    s0.grows (passAhead q n s) :=
  grows_of_agree hs (passAhead_frame q n s (agree_refl [.obj] _) rfl) rfl

theorem squashUnfetched_grows {s0 : State} (q : Queue) (a0 : Nat) (a1 : State) (hs : s0.grows a1) :
    s0.grows (squashUnfetched q a0 a1) := by
  induction a0 generalizing a1 with
  | zero => exact hs
  | succ n ih =>
    unfold squashUnfetched
    repeat' first
      | with_reducible assumption | with_reducible apply endUnstarted_grows | with_reducible apply tookFree_grows
      | with_reducible apply ih

theorem squashQueue_grows {s0 : State} (id : BitVec 8) (s : State) (hs : s0.grows s) :
    s0.grows (squashQueue id s) := by
  unfold squashQueue
  repeat' first
    | with_reducible assumption | with_reducible intro _ | with_reducible apply endDescriptor_grows
    | with_reducible apply modQueue_grows | with_reducible apply passAhead_grows
    | with_reducible apply squashUnfetched_grows | with_reducible apply foldl_grows | split

theorem abortArrival_grows {s0 : State} (a : Arrival) (st : Status) (s : State) (hs : s0.grows s) :
    s0.grows (abortArrival a st s) := by
  unfold abortArrival
  dsimp only
  repeat' first
    | with_reducible assumption | with_reducible apply completeArrival_grows | with_reducible apply sendAbort_grows
    | split

theorem abortContext_grows {s0 : State} (c : CtxId) (st : Status) (s : State) (hs : s0.grows s) :
    s0.grows (abortContext c st s) := by
  unfold abortContext
  repeat' first
    | with_reducible assumption | with_reducible intro _ | with_reducible apply abortArrival_grows
    | with_reducible apply abortPart_grows | with_reducible apply foldl_grows

theorem endHeldSca_grows {s0 : State} (x : Context) (s : State) (hs : s0.grows s) : s0.grows (endHeldSca x s) := by
  unfold endHeldSca
  repeat' first
    | with_reducible assumption | with_reducible intro _ | with_reducible apply scaAnswer_grows
    | with_reducible apply foldl_grows | (with_reducible refine grows_mk ?_ rfl rfl rfl)

theorem squashWork_grows {s0 : State} (c : CtxId) (s : State) (hs : s0.grows s) : s0.grows (squashWork c s) := by
  unfold squashWork
  repeat' first
    | with_reducible assumption | with_reducible intro _ | with_reducible apply abortContext_grows
    | with_reducible apply dropSuspect_grows | with_reducible apply endHeldSca_grows
    | with_reducible apply endHold_grows | with_reducible apply endOps_grows | with_reducible apply endWaits_grows
    | with_reducible apply resume_grows | with_reducible apply squashQueue_grows | with_reducible apply foldl_grows
    | split

theorem endFences_grows {s0 : State} (c : CtxId) (s : State) (hs : s0.grows s) : s0.grows (endFences c s) := by
  unfold endFences
  repeat' first
    | with_reducible assumption | with_reducible intro _ | with_reducible apply abandonFence_grows
    | with_reducible apply dropShares_grows | with_reducible apply foldl_grows

theorem beginDestroy_grows {s0 : State} (c : CtxId) (waiters : List (Origin × BitVec 32)) (s : State)
    (hs : s0.grows s) : s0.grows (beginDestroy c waiters s) := by
  unfold beginDestroy
  repeat' first
    | with_reducible assumption | with_reducible apply endFences_grows | with_reducible apply modContext_grows
    | with_reducible apply modObj_grows | with_reducible apply squashWork_grows | split

/-! ### Machine/Teardown.lean -/

theorem dropUnreleased_grows {s0 : State} (p : PolderId) (s : State) (hs : s0.grows s) :
    s0.grows (dropUnreleased p s) := by
  unfold dropUnreleased
  repeat' first
    | with_reducible assumption | with_reducible intro _ | with_reducible apply modPolderCounters_grows
    | with_reducible apply sendNotice_grows | with_reducible apply foldl_grows
    | (with_reducible refine grows_mk ?_ rfl rfl rfl)

theorem dropHolds_grows {s0 : State} (p : PolderId) (s : State) (hs : s0.grows s) : s0.grows (dropHolds p s) := by
  unfold dropHolds
  repeat' first
    | with_reducible assumption | with_reducible intro _ | with_reducible apply sendNotice_grows
    | with_reducible apply foldl_grows | (with_reducible refine grows_mk ?_ rfl rfl rfl)

theorem endRings_grows {s0 : State} (p : PolderId) (s : State) (hs : s0.grows s) : s0.grows (endRings p s) := by
  unfold endRings
  repeat' first
    | with_reducible assumption | with_reducible intro _ | with_reducible apply emit_grows
    | with_reducible apply finishAll_grows | with_reducible apply modRings_grows | with_reducible apply foldl_grows
    | split

theorem endMarks_grows {s0 : State} (p : PolderId) (s : State) (hs : s0.grows s) : s0.grows (endMarks p s) := by
  unfold endMarks
  repeat' first
    | with_reducible assumption | with_reducible intro _ | with_reducible apply dropMarks_grows
    | with_reducible apply endHold_grows | with_reducible apply finish_grows | with_reducible apply foldl_grows
    | split

theorem revokeExtents_grows {s0 : State} (p : PolderId) (s : State) (hs : s0.grows s) :
    s0.grows (revokeExtents p s) := by
  unfold revokeExtents
  repeat' first
    | with_reducible assumption | with_reducible intro _ | with_reducible apply beginRevoke_grows
    | with_reducible apply finishAll_grows | with_reducible apply modExtent_grows | with_reducible apply foldl_grows
    | split

theorem squashPolder_grows {s0 : State} (p : PolderId) (s : State) (hs : s0.grows s) :
    s0.grows (squashPolder p s) := by
  unfold squashPolder
  repeat' first
    | with_reducible assumption | with_reducible intro _ | with_reducible apply abandonJobs_grows
    | with_reducible apply beginDestroy_grows | with_reducible apply dropHolds_grows
    | with_reducible apply dropPieces_grows | with_reducible apply dropUnreleased_grows
    | with_reducible apply endBarriers_grows | with_reducible apply endColl_grows
    | with_reducible apply endExport_grows | with_reducible apply endImport_grows
    | with_reducible apply endMarks_grows | with_reducible apply endRings_grows
    | with_reducible apply endStackAccesses_grows | with_reducible apply finishAll_grows
    | with_reducible apply modColl_grows | with_reducible apply modObj_grows
    | with_reducible apply revokeExtents_grows | with_reducible apply setSlot_grows
    | with_reducible apply zeroizeSlot_grows | with_reducible apply foldl_grows | split
    | (with_reducible refine grows_mk ?_ rfl rfl rfl)

theorem beginTeardown_grows {s0 : State} (p : PolderId) (forced : Bool) (waiters : List (Origin × BitVec 32))
    (s : State) (hs : s0.grows s) : s0.grows (beginTeardown p forced waiters s) := by
  unfold beginTeardown
  repeat' first
    | with_reducible assumption | with_reducible apply modPolder_grows | with_reducible apply resume_grows
    | with_reducible apply squashPolder_grows | split

/-! ### Machine/Functions.lean -/

theorem endFnCharts_grows {s0 : State} (n : VfId) (s : State) (hs : s0.grows s) : s0.grows (endFnCharts n s) := by
  unfold endFnCharts
  repeat' first
    | with_reducible assumption | with_reducible intro _ | with_reducible apply endExport_grows
    | with_reducible apply endImport_grows | with_reducible apply thawChart_grows | with_reducible apply foldl_grows
    | (with_reducible refine ite_grows ?_ ?_)

end Sys2Proof.Machine
end

section
/-! SUPPORT. The function reset sequence (R392, R395, R398), and the statement about it. -/

namespace Sys2Proof.Machine

section
variable {vf : VfId} {s : State}

/-- A function's reset leaves the VFs but for the start of the sequence. -/
theorem startFnReset_vfs {waiters : List (Origin × BitVec 32)} (h : (getVf s vf).reset = none) :
    ∃ r, r.start = s.time ∧ r.drained = false ∧ r.waiters = waiters
      ∧ vfsButDirty (startFnReset vf waiters s) = vfsButDirty (modVf vf (fun v => { v with reset := some r }) s) := by
  unfold startFnReset
  rw [h]
  extract_lets qs r ended fns zeroed
  refine ⟨r, rfl, rfl, rfl, State.grows.vfs (s := modVf vf (fun v => { v with reset := some r }) s) ?_⟩
  have hended : (modVf vf (fun v => { v with reset := some r }) s).grows ended := endFnCharts_grows vf _ (grows_refl _)
  have hzeroed : (modVf vf (fun v => { v with reset := some r }) s).grows zeroed := grows_mk hended rfl rfl rfl
  exact foldl_grows _ qs _ (grows_mk hzeroed rfl rfl rfl) fun t q => squashQueue_grows q.id t

/-- The sequence has started at a time, with nobody waiting for it yet. -/
def resetStarted (v : Vf) (time : Nat) : Prop :=
  ∃ r, v.reset = some r ∧ r.start = time ∧ r.drained = false ∧ r.waiters = []

theorem resetStarted_startFnReset (h : (getVf s vf).reset = none) :
    resetStarted (getVf (startFnReset vf [] s) vf) s.time
      ∧ (getVf (startFnReset vf [] s) vf).enabled = (getVf s vf).enabled := by
  obtain ⟨r, hstart, hdrained, hwaiters, hvfs⟩ := startFnReset_vfs (waiters := []) h
  refine ⟨⟨r, ?_, hstart, hdrained, hwaiters⟩, ?_⟩
  · rw [reset_of_vfsButDirty hvfs, getVf_modVf _ _ (by exact fun _ => rfl)]
  · rw [enabled_of_vfsButDirty hvfs, getVf_modVf _ _ (by exact fun _ => rfl)]

theorem completes_funcEn_enable (hp : vfPresent s vf = true) (he : (getVf s vf).enabled = false) :
    Completes (.funcEn vf true) s fun t =>
      getVf t vf = { getVf s vf with enabled := true } ∧ ∀ m ≠ vf, getVf t m = getVf s m := by
  refine ⟨modVf vf (fun v => { v with enabled := true }) s, ?_, getVf_modVf vf s (by exact fun _ => rfl),
    fun m hm => getVf_modVf_other hm s (by exact fun _ => rfl)⟩
  change Host.Outcome.next (if _ then _ else _) = _
  rw [if_neg (by simp [hp, he])]
  rfl

theorem completes_funcEn_disable (hp : vfPresent s vf = true) (he : (getVf s vf).enabled = true)
    (hr : (getVf s vf).reset = none) :
    Completes (.funcEn vf false) s fun t => (getVf t vf).enabled = false ∧ resetStarted (getVf t vf) s.time := by
  let u := modVf vf (fun v => { v with enabled := false }) s
  have hu : getVf u vf = { getVf s vf with enabled := false } := getVf_modVf vf s (by exact fun _ => rfl)
  have hreset : (getVf u vf).reset = none := by rw [hu]; exact hr
  obtain ⟨hstarted, henabled⟩ := resetStarted_startFnReset hreset
  refine ⟨startFnReset vf [] u, ?_, henabled.trans (by rw [hu]), hstarted⟩
  change Host.Outcome.next (if _ then _ else _) = _
  rw [if_neg (by simp [hp, he])]
  rfl

theorem completes_flrReq (hp : vfPresent s vf = true) (hr : (getVf s vf).reset = none) :
    Completes (.flrReq vf) s fun t => resetStarted (getVf t vf) s.time :=
  ⟨startFnReset vf [] s, congrArg Host.Outcome.next (if_pos hp), (resetStarted_startFnReset hr).1⟩

theorem completes_stateReqUnlock (hp : vfPresent s vf = true) (hr : (getVf s vf).reset = none)
    (hu : (getVf s vf).state ≠ .unlocked) :
    Completes (.stateReqUnlock vf) s fun t => resetStarted (getVf t vf) s.time := by
  refine ⟨startFnReset vf [] s, ?_, (resetStarted_startFnReset hr).1⟩
  change Host.Outcome.next (reqUnlock vf s) = _
  unfold reqUnlock
  rw [if_neg (by simp [hp]), if_neg hu]

/-- Ten milliseconds on, the sequence ends the work that is left and counts it (R398 steps 3 and 4). -/
theorem exec_functionResetDrained {r : FnReset} (hr : (getVf s vf).reset = some r) (hd : r.drained = false)
    (ht : r.start + 10000000 ≤ s.time) :
    exec (.functionResetDrained vf) s = .next (resume (drainFn vf r s)) := by
  change Host.Outcome.next (match (getVf s vf).reset with | none => s | some r => _) = _
  rw [hr]
  dsimp only
  rw [if_neg (by simp [hd, ht])]

theorem getVf_drainFn (vf : VfId) (r : FnReset) (s : State) :
    ∃ v : Vf, getVf (drainFn vf r s) vf = { v with
      forced := decide (fnOutstanding (fnOf vf) s ≠ 0)
      squashed := BitVec.ofNat 16 (min (r.squashed + fnOutstanding (fnOf vf) s) 65535)
      reset := some { r with drained := true, squashed := r.squashed + fnOutstanding (fnOf vf) s } } := by
  unfold drainFn
  extract_lets fn k stopped squashed torn freed
  exact ⟨getVf freed vf, getVf_modVf vf freed (by exact fun _ => rfl)⟩

theorem completes_functionResetDone {r : FnReset} (hr : (getVf s vf).reset = some r) (hd : r.drained = true)
    (hb : boundTo vf s = []) :
    Completes (.functionResetDone vf) s fun t =>
      (getVf t vf).state = .unlocked ∧ (getVf t vf).reset = none ∧ .functionResetDone vf ∈ t.out := by
  let unlocked := modVf vf (fun v => { v with state := .unlocked, reset := none }) s
  let u := emit (.functionResetDone vf) unlocked
  have hu : getVf unlocked vf = { getVf s vf with state := .unlocked, reset := none } :=
    getVf_modVf vf s (by exact fun _ => rfl)
  have hvfs : vfsButDirty (finishAll r.waiters .ok u) = vfsButDirty u := vfsButDirty_finishAll _ _ _
  refine ⟨finishAll r.waiters .ok u, ?_, ?_, ?_, out_subset_finishAll _ _ _ ?_⟩
  · change Host.Outcome.next (match (getVf s vf).reset with | none => s | some r => _) = _
    rw [hr]
    dsimp only
    rw [if_pos (by simp [hd, hb])]
    rfl
  · exact (state_of_vfsButDirty hvfs vf).trans (congrArg Vf.state hu)
  · exact (reset_of_vfsButDirty hvfs vf).trans (congrArg Vf.reset hu)
  · simp [u, emit]

end

/-- Settles O10: what starts the sequence, what it counts at its limit, and its end. -/
theorem functionResetCompletes : Obligations.FunctionResetCompletes := by
  refine ⟨fun _ _ => completes_funcEn_enable, fun _ _ => completes_funcEn_disable, fun _ _ => completes_flrReq,
    fun _ _ => completes_stateReqUnlock, fun vf r s hr hd ht =>
      ⟨drainFn vf r s, exec_functionResetDrained hr hd ht, ?_, ?_, ?_⟩, fun _ _ _ => completes_functionResetDone⟩
  all_goals
    obtain ⟨v, hv⟩ := getVf_drainFn vf r s
    rw [hv]

end Sys2Proof.Machine
end

section
/-! SUPPORT. The stages of boot (R290, R318 to R331, R436, R445, R460, R461), and the statement about them. -/

namespace Sys2Proof.Machine

/-! ### Stops, notices and the jobs of a stage -/

theorem announceBoot_unsent (s : State) : (announceBoot s).sb.unsent = none := by
  unfold announceBoot
  split
  · assumption
  · rfl

theorem announceBoot_service (s : State) :
    (announceBoot s).sb.leaving = s.sb.leaving ∧ (announceBoot s).sb.outOfService = s.sb.outOfService := by
  unfold announceBoot
  split
  · exact ⟨rfl, rfl⟩
  · exact ⟨rfl, rfl⟩

/-- The notice of the boot's first record leaves, where none has left before (R436). -/
theorem notice_mem_announceBoot {s : State} {r : FaultRecord} (h : s.sb.unsent = some r) :
    ∃ e, .faultNotice e r ∈ (announceBoot s).out := by
  unfold announceBoot
  rw [h]
  exact ⟨_, List.mem_append_right _ (List.mem_singleton.2 rfl)⟩

theorem stopBoot_boot (st : BootStage) (reason : BitVec 8) (s : State) :
    (stopBoot st reason s).boot = { s.boot with reason := reason, stage := st, stageAt := s.time } := by
  unfold stopBoot
  rw [announceBoot_boot]
  rfl

theorem pastJobs_inlineJobs (p : Option PolderId) (l : List InlineJob) (s : State) :
    pastJobs (inlineJobs p l s).2 = pastJobs s := by
  unfold inlineJobs
  suffices h : ∀ x : Bool × State,
      pastJobs (l.foldl (fun x j => if x.1 then inlineJob j p x.2 else x) x).2 = pastJobs x.2 from h (true, s)
  induction l with
  | nil => exact fun _ => rfl
  | cons j l ih =>
    intro x
    rw [List.foldl_cons, ih]
    split
    · exact pastJobs_inlineJob j p x.2
    · rfl

theorem pastJobs_bootDerivations (from_ : DeviceKey) (fixed : List (String × Nat × Nat)) (s : State) :
    pastJobs (bootDerivations from_ fixed s) = pastJobs s := pastJobs_inlineJobs _ _ s

theorem ladder_of_pastJobs {s t : State} (h : pastJobs t = pastJobs s) : t.cad.ladder = s.cad.ladder :=
  congrArg (fun x => x.2.1) h

theorem instantiated_of_pastJobs {s t : State} (h : pastJobs t = pastJobs s) : t.keys.instantiated = s.keys.instantiated :=
  congrArg (fun x => x.1) h

section
variable {s : State}

/-! ### The life cycle, the DRBG and the device keys -/

theorem completes_lcResolve (h : s.boot.stage = .romStart) (hi : interrupted s.fuses = none) :
    Completes .lcResolve s fun t =>
      t.lc.code = lcCodeOf s.fuses ∧ t.lc.state = lcStateOf (lcCodeOf s.fuses) ∧ t.fuses = s.fuses
        ∧ (t.lc.state = .retired ∨ t.lc.state = .invalid → t.boot.stage = .halted ∧ t.boot.reason = 0x21)
        ∧ (t.lc.state ≠ .retired → t.lc.state ≠ .invalid → t.boot.stage = .lcResolve) := by
  let st := lcStateOf (lcCodeOf s.fuses)
  let u := { s with lc := { s.lc with code := lcCodeOf s.fuses, state := st, intent := false } }
  have hc : completeInterrupted s = s := by simp [completeInterrupted, hi]
  have hexec : exec .lcResolve s
      = .next (if st = .retired || st = .invalid then stopBoot .halted 0x21 u else enterStage .lcResolve u) := by
    change Host.Outcome.next (if _ then _ else _) = _
    rw [if_neg (not_not.2 h), hc]
  rw [Completes, hexec]
  refine ⟨_, rfl, ?_⟩
  by_cases hst : st = .retired ∨ st = .invalid
  · rw [if_pos (by simpa using hst)]
    have hlc : (stopBoot .halted 0x21 u).lc = u.lc := announceBoot_lc _
    have hfuses : (stopBoot .halted 0x21 u).fuses = u.fuses := announceBoot_fuses _
    rw [hlc, hfuses, stopBoot_boot]
    exact ⟨rfl, rfl, rfl, fun _ => ⟨rfl, rfl⟩, fun hr hv => (hst.elim hr hv).elim⟩
  · rw [if_neg (by simpa using hst)]
    exact ⟨rfl, rfl, rfl, fun hs => (hst hs).elim, fun _ _ => rfl⟩

theorem completes_entropy (passes : Bool) (h : s.boot.stage = .lcResolve) :
    Completes (.entropy passes) s fun t =>
      (passes = true → t.boot.stage = .entropy ∧ t.keys.instantiated = true)
        ∧ (passes = false → t.boot.stage = .halted ∧ t.boot.reason = 0x22 ∧ t.keys = s.keys) := by
  cases passes with
  | true =>
    refine ⟨needJob 4 .drbgRefill none (enterStage .entropy (instantiate s)), ?_, fun _ => ⟨?_, ?_⟩, fun hf => nomatch hf⟩
    · exact congrArg Host.Outcome.next (if_neg (not_not.2 h))
    · rw [needJob_boot]
      rfl
    · rw [instantiated_of_pastJobs (pastJobs_needJob ..)]
      rfl
  | false =>
    refine ⟨stopBoot .halted 0x22 s, ?_, fun ht => (nomatch ht), fun _ => ?_⟩
    · exact congrArg Host.Outcome.next (if_neg (not_not.2 h))
    · have hkeys : (stopBoot .halted 0x22 s).keys = s.keys := announceBoot_keys _
      rw [stopBoot_boot, hkeys]
      exact ⟨rfl, rfl, rfl⟩

theorem deriveDeviceKeys_survey (s : State) : (deriveDeviceKeys s).boot.survey = s.boot.survey := by
  unfold deriveDeviceKeys
  split
  · rfl
  · dsimp only [modBoot]
    rw [bootDerivations_boot]
    dsimp only
    rw [bootDerivations_boot, drbgDraw_boot]

theorem deriveDeviceKeys_ladder (h : ladderRoot s ≠ none) : (deriveDeviceKeys s).cad.ladder = true := by
  unfold deriveDeviceKeys
  split
  · next hn => exact (h hn).elim
  · dsimp only [modBoot]
    rw [bootDerivations_cad]

theorem completes_keys (h : s.boot.stage = .entropy) :
    Completes .keys s fun t =>
      t.boot.stage = .keys ∧ (ladderRoot s = none → t.cad.ladder = s.cad.ladder)
        ∧ (ladderRoot s ≠ none → t.cad.ladder = true) ∧ t.boot.survey.length = s.boot.survey.length + 6 := by
  let derived := deriveDeviceKeys s
  let masked := { derived with cad := { derived.cad with slotMask := (drbgValue derived).setWidth 32 } }
  let drawn := drbgDraw 4 masked
  have hladder : drawn.cad.ladder = derived.cad.ladder := ladder_of_pastJobs (s := masked) (pastJobs_drbgDraw 4 masked)
  refine ⟨enterStage .keys (writeSurvey (romEntries drawn) drawn), congrArg Host.Outcome.next (if_neg (not_not.2 h)), rfl,
    fun hn => ?_, fun hn => hladder.trans (deriveDeviceKeys_ladder hn), ?_⟩
  · refine hladder.trans ?_
    unfold derived deriveDeviceKeys
    rw [hn]
  · have hsurvey : drawn.boot.survey = s.boot.survey := by
      unfold drawn
      rw [drbgDraw_boot]
      exact deriveDeviceKeys_survey s
    change (drawn.boot.survey ++ romEntries drawn).length = _
    rw [List.length_append, hsurvey]
    rfl

/-! ### The image and the firmware -/

theorem completes_imageLoad (answers : Bool) (h : s.boot.stage = .keys) :
    Completes (.imageLoad answers) s fun t =>
      (answers = true → t.boot.stage = .imageLoad ∧ t.boot.image = some (flashImage s))
        ∧ (answers = false → t.boot.stage = .recovery ∧ t.boot.reason = 1) := by
  cases answers with
  | true =>
    exact ⟨loadImage s, congrArg Host.Outcome.next (if_neg (not_not.2 h)), fun _ => ⟨rfl, rfl⟩, fun hf => nomatch hf⟩
  | false =>
    refine ⟨stopBoot .recovery 1 s, congrArg Host.Outcome.next (if_neg (not_not.2 h)), fun ht => (nomatch ht), fun _ => ?_⟩
    rw [stopBoot_boot]
    exact ⟨rfl, rfl⟩

theorem completes_imageVerify {i : Image} (h : s.boot.stage = .imageLoad) (hi : s.boot.image = some i) :
    Completes .imageVerify s fun t =>
      (∀ reason, imageFail i s = some reason → t.boot.stage = .recovery ∧ t.boot.reason = reason)
        ∧ (imageFail i s = none → t.boot.stage = .imageVerify ∧ t.boot.svn.toNat = headerSvn i.header % 2 ^ 32
            ∧ t.boot.idImage = true) := by
  have hexec : exec .imageVerify s = .next (match imageFail i s with
      | some reason => stopBoot .recovery reason s
      | none => enterStage .imageVerify (measureImage i s)) := by
    change Host.Outcome.next (match s.boot.image with | none => s | some i => _) = _
    rw [hi]
    exact congrArg Host.Outcome.next (if_neg (not_not.2 h))
  rw [Completes, hexec]
  refine ⟨_, rfl, fun reason hf => ?_, fun hf => ?_⟩
  · rw [hf]
    dsimp only
    rw [stopBoot_boot]
    exact ⟨rfl, rfl⟩
  · rw [hf]
    exact ⟨rfl, BitVec.toNat_ofNat .., rfl⟩

/-- The pool of every role holds its first users' share (R377). -/
theorem poolGranules_ge (hs : s.boot.role = .s → 8 ≤ s.chip.poolMib) (he : s.boot.role = .e → 1 ≤ s.owner.poolPlots) :
    128 ≤ poolGranules s := by
  unfold poolGranules
  cases hr : s.boot.role with
  | e =>
    have := he hr
    dsimp only
    omega
  | s =>
    have := hs hr
    dsimp only
    omega
  | t => exact (by decide : 128 ≤ 16384)

theorem completes_firmwareInit {objects : List Digest} (h : s.boot.stage = .imageVerify) (ho : objects.length ≤ 237)
    (hs : s.boot.role = .s → 8 ≤ s.chip.poolMib) :
    Completes (.firmwareInit objects) s fun t =>
      t.boot.stage = .firmwareInit ∧ t.boot.codeLocked = true ∧ t.boot.idFirmware = true
        ∧ t.boot.survey.length = s.boot.survey.length + objects.length + 1 := by
  change ∃ t, execFirmwareInit objects s = .next t ∧ _
  unfold execFirmwareInit
  rw [if_neg (not_not.2 h)]
  extract_lets locked sealed part owned all entries pooled
  have hboot : sealed.boot = locked.boot := inlineJobs_boot ..
  have hchip : sealed.chip = s.chip := inlineJobs_chip ..
  have hlocked : locked.boot.survey = s.boot.survey := rfl
  have hpooled : pooled.boot = { locked.boot with survey := s.boot.survey ++ entries } := by
    unfold pooled
    rw [poolTake_boot, poolTake_boot, markPool_boot, ← hlocked, ← hboot]
    rfl
  have hlen : ¬238 < all.length := by
    simp only [all, List.length_cons]
    omega
  have hpool : ¬poolGranules owned < 128 := by
    refine Nat.not_lt.2 (poolGranules_ge (fun hr => ?_) fun _ => Nat.le_trans (by decide) (Nat.le_add_right 16 _))
    have hrole : sealed.boot.role = .s := hr
    change 8 ≤ sealed.chip.poolMib
    rw [hchip]
    rw [hboot] at hrole
    exact hs hrole
  rw [if_neg hlen, if_neg hpool]
  refine ⟨_, rfl, ?_⟩
  change (pooled.boot.stage = _ ∧ pooled.boot.codeLocked = true ∧ true = true ∧ pooled.boot.survey.length = _)
  rw [hpooled]
  refine ⟨rfl, rfl, rfl, ?_⟩
  simp only [entries, all, List.length_append, List.length_map, List.length_zipIdx, List.length_cons]
  omega

/-! ### READY, recovery and rewrites -/

theorem mirrorBoot_out (s : State) : s.out ⊆ (mirrorBoot s).out := by
  unfold mirrorBoot
  split
  · exact List.Subset.refl _
  · exact out_subset_postEvent ..

/-- An instance that leaves service puts out all that it has, and its notice stays as it was (R446). -/
theorem leaveService_grows (s : State) : s.grows (leaveService s) := by
  unfold leaveService
  extract_lets faulted torn sb
  have hfaulted : s.grows faulted := writeFault_grows .outOfService _ s (grows_refl s)
  exact grows_mk (foldl_grows _ faulted.polders faulted hfaulted fun t p => beginTeardown_grows p.id true [] t) rfl rfl rfl

theorem leaveService_service (s : State) : (leaveService s).sb.outOfService = true ∧ (leaveService s).sb.leaving = false :=
  ⟨rfl, rfl⟩

/-- READY once its stage and its locks are set: the notice has left, and an instance that must leave service does. -/
theorem completes_ready (hr : running s = true) (h : s.boot.stage = .firmwareInit) :
    Completes .ready s fun t =>
      t.boot.stage = .ready ∧ t.boot.reason = 0 ∧ t.boot.rlLocked = true ∧ t.boot.surveyLocked = true
        ∧ t.boot.survey = s.boot.survey ∧ t.sb.unsent = none ∧ t.sb.leaving = false
        ∧ (s.sb.leaving = true ∨ s.sb.outOfService = true ↔ t.sb.outOfService = true)
        ∧ ∀ r, s.sb.unsent = some r → ∃ e, .faultNotice e r ∈ t.out := by
  let entered := enterStage .ready (modBoot (fun b => { b with reason := 0, rlLocked := true, surveyLocked := true }) s)
  let u := mirrorBoot (announceBoot entered)
  have hexec : exec .ready s = .next (if mustLeave u then leaveService u else u) :=
    congrArg Host.Outcome.next (if_neg (by simp [hr, h]))
  have hboot : u.boot = entered.boot := (mirrorBoot_boot _).trans (announceBoot_boot _)
  have hsb : u.sb = (announceBoot entered).sb := mirrorBoot_sb _
  have hunsent : u.sb.unsent = none := (congrArg SideBand.unsent hsb).trans (announceBoot_unsent entered)
  obtain ⟨hleaving, hservice⟩ := announceBoot_service entered
  have hmust : mustLeave u = (s.sb.leaving || s.sb.outOfService) := by
    unfold mustLeave
    rw [hsb, hleaving, hservice]
    rfl
  have hnotice : ∀ r, s.sb.unsent = some r → ∃ e, .faultNotice e r ∈ u.out := fun r hs => by
    obtain ⟨e, he⟩ := notice_mem_announceBoot (s := entered) hs
    exact ⟨e, mirrorBoot_out _ he⟩
  rw [Completes, hexec]
  refine ⟨_, rfl, ?_⟩
  cases hm : mustLeave u with
  | true =>
    rw [if_pos rfl, leaveService_boot, hboot]
    rw [hmust, Bool.or_eq_true] at hm
    have hgrows := leaveService_grows u
    refine ⟨rfl, rfl, rfl, rfl, rfl, hgrows.unsent.trans hunsent, rfl, iff_of_true hm rfl, fun r hs => ?_⟩
    obtain ⟨e, he⟩ := hnotice r hs
    exact ⟨e, hgrows.out he⟩
  | false =>
    rw [if_neg (by decide), hboot]
    rw [hmust, Bool.or_eq_false_iff] at hm
    obtain ⟨hl, ho⟩ := hm
    refine ⟨rfl, rfl, rfl, rfl, rfl, hunsent, ?_, ?_, hnotice⟩
    · rw [hsb, hleaving]
      exact hl
    · have hout : u.sb.outOfService = s.sb.outOfService := by
        rw [hsb, hservice]
        rfl
      rw [hout, hl, ho]
      decide

theorem exec_recoveryLoad_halted (image : Bytes) (hr : running s = true) (h : s.boot.stage = .halted) :
    exec (.recoveryLoad image) s = .next (emit (.response { sluice := .sb, session := none } 0 0 .lcForbids []) s) := by
  have hclosed : recoveryClosed s = some .lcForbids := if_pos h
  change Host.Outcome.next (if _ then _ else match recoveryClosed s with | some st => _ | none => _) = _
  rw [if_neg (by simp [hr]), hclosed]

theorem completes_recoveryLoad (image : Bytes) (hr : running s = true) (h : s.boot.stage = .recovery)
    (hw : s.boot.rewrite = none) :
    Completes (.recoveryLoad image) s fun t =>
      (∀ reason, imageFail (bytesImage image) s = some reason → t.boot.reason = reason ∧ t.boot.rewrite = none)
        ∧ (imageFail (bytesImage image) s = none → ∃ w, t.boot.rewrite = some w ∧ w.image = bytesImage image
            ∧ w.recovery = true) := by
  have hopen : recoveryClosed s = none := by simp [recoveryClosed, h, hw]
  have hexec : exec (.recoveryLoad image) s = .next (match imageFail (bytesImage image) s with
      | some reason => modBoot (fun b => { b with reason := reason }) s
      | none => modBoot (fun b => { b with
          rewrite := some { image := bytesImage image, recovery := true, origin := { sluice := .sb, session := none }, tag := 0 } })
          s) := by
    change Host.Outcome.next (if _ then _ else match recoveryClosed s with | some st => _ | none => _) = _
    rw [if_neg (by simp [hr]), hopen] <;> rfl
  rw [Completes, hexec]
  refine ⟨_, rfl, fun reason hf => ?_, fun hf => ?_⟩
  · rw [hf]
    exact ⟨rfl, hw⟩
  · rw [hf]
    exact ⟨_, rfl, rfl, rfl⟩

theorem completes_imageRewriteComplete {w : Rewrite} (h : s.boot.rewrite = some w) :
    Completes .imageRewriteComplete s fun t =>
      t.flash = (writeImage w.image s).flash ∧ t.boot.rewrite = none
        ∧ (w.recovery = true → s.boot.stage = .recovery → t.boot.stage = .imageLoad) := by
  let u := modBoot (fun b => { b with rewrite := none }) (writeImage w.image s)
  have hexec : exec .imageRewriteComplete s = .next
      (if w.recovery then (if u.boot.stage = .recovery then loadImage u else u) else finish w.origin w.tag .ok [] u) := by
    change Host.Outcome.next (match s.boot.rewrite with | none => s | some w => _) = _
    rw [h]
  rw [Completes, hexec]
  refine ⟨_, rfl, ?_⟩
  cases hw : w.recovery with
  | false =>
    rw [if_neg (by decide), finish_flash, finish_boot]
    exact ⟨rfl, rfl, fun hf => nomatch hf⟩
  | true =>
    rw [if_pos rfl]
    by_cases hs : u.boot.stage = .recovery
    · rw [if_pos hs]
      exact ⟨rfl, rfl, fun _ _ => rfl⟩
    · rw [if_neg hs]
      exact ⟨rfl, rfl, fun _ hst => (hs hst).elim⟩

end

/-- Settles O8: each stage from the one before it; READY by what leaving service keeps of the outputs and the notice. -/
theorem bootStagesComplete : Obligations.BootStagesComplete :=
  ⟨fun _ => completes_lcResolve, fun passes _ => completes_entropy passes, fun _ => completes_keys,
    fun answers _ => completes_imageLoad answers, fun _ _ => completes_imageVerify, fun _ _ => completes_firmwareInit,
    fun _ => completes_ready, fun image _ => exec_recoveryLoad_halted image, fun image _ => completes_recoveryLoad image,
    fun _ _ => completes_imageRewriteComplete⟩

end Sys2Proof.Machine
end

section
/-! SUPPORT. What reads and writes of registers do (R33, R42, R474, R475, R496, R497, R499, R502, R504, R510, R515), and the
statements about them. -/

namespace Sys2Proof.Machine

/-! ### What a read leaves (R475, R497) -/

section

variable {w : Window} {off : Nat} {v : BitVec 64} {s : State}

@[simp] theorem seenRead_out (off : Nat) (s : State) : (seenRead off s).out = s.out := by
  unfold seenRead
  split
  · rfl
  · rfl

@[simp] theorem seenRead_regs (off : Nat) (s : State) : (seenRead off s).regs = s.regs := by
  unfold seenRead
  split
  · rfl
  · rfl

/-- A 64-bit register is read whole. -/
theorem readWide_of_reg64 (halign : off % 8 = 0) (hshow : shows s w off = true)
    (hreg : reg64 s (windowFn w) off = some v) : readWide w off s = (v, seenRead off s) := by
  simp [readWide, halign, hshow, hreg]

/-- A 32-bit read at a 64-bit register is one of its low half. -/
theorem readNarrow_of_low (halign : off % 8 = 0) (hshow : shows s w off = true)
    (hreg : reg64 s (windowFn w) off = some v) : readNarrow w off s = readLow w off v s := by
  have h4 : off % 4 = 0 := by omega
  rw [readNarrow, if_neg (by simp [h4, hshow])]
  dsimp only
  rw [halign, Nat.sub_zero, hreg]
  exact if_pos rfl

/-- A 32-bit read in the middle of a 64-bit register is one of its high half. -/
theorem readNarrow_of_high (halign : off % 8 = 4) (hshow : shows s w off = true)
    (hreg : reg64 s (windowFn w) (off - 4) = some v) : readNarrow w off s = readHigh w (off - 4) v s := by
  have h4 : off % 4 = 0 := by omega
  have hmid : off ≠ off - 4 := by omega
  rw [readNarrow, if_neg (by simp [h4, hshow])]
  dsimp only
  rw [halign, hreg]
  exact if_neg hmid

/-- What is latched is what the high half reads, and it is latched no more. -/
theorem readHigh_of_latched {base : Nat} {x : BitVec 32}
    (hlatch : s.regs.latches.lookup (w, BitVec.ofNat 20 base) = some x) :
    readHigh w base v s = (x, { s with regs := { s.regs with
      latches := assocDel (w, BitVec.ofNat 20 base) s.regs.latches } }) := by
  simp only [readHigh, hlatch]

/-- A key that is dropped is found no more. -/
theorem lookup_assocDel_same {κ ν : Type} [BEq κ] [LawfulBEq κ] [DecidableEq κ] (k : κ) (l : List (κ × ν)) :
    (assocDel k l).lookup k = none := by
  rw [List.lookup_eq_none_iff]
  intro x hx
  exact bne_iff_ne.2 (Ne.symm (of_decide_eq_true (List.mem_filter.1 hx).2))

/-- A key reads what was set for it, whichever equality it is looked up by. -/
theorem lookup_assocSet_lawful {κ ν : Type} [i : BEq κ] [LawfulBEq κ] [DecidableEq κ] (k : κ) (v : ν) (l : List (κ × ν)) :
    (assocSet k v l).lookup k = some v := by
  obtain rfl : i = instBEqOfDecidableEq := lawful_beq_subsingleton _ _
  exact lookup_assocSet_same k v l

/-! ### The way to a read (R42, R502) -/

/-- What a window shows does not depend on when a domain last had work. -/
theorem shows_markWork (d : DomainId) (s : State) (w : Window) (off : Nat) : shows (markWork d s) w off = shows s w off := by
  cases w <;> rfl

theorem reg64_markWork (d : DomainId) (s : State) (fn : FnId) (off : Nat) : reg64 (markWork d s) fn off = reg64 s fn off := by
  have hmark : earliestValue (markWork d s) = earliestValue s := rfl
  have htrace : traceStatus (markWork d s) = traceStatus s := rfl
  have hseq : newestSeq (markWork d s) = newestSeq s := rfl
  have hring : ringHead (markWork d s) = ringHead s := rfl
  have hcount : counterReading (markWork d s) = counterReading s := rfl
  have hthere : vfPresent (markWork d s) = vfPresent s := rfl
  have hget : getVf (markWork d s) = getVf s := rfl
  have hvf : vfWide (markWork d s) = vfWide s := by
    funext off
    unfold vfWide
    rw [hthere, hget]
  have hprof : profSelect (markWork d s) = profSelect s := rfl
  simp only [reg64, hmark, htrace, hseq, hring, hcount, hvf, hprof, markWork_datum, markWork_tracer]

/-- The side-band's read waits for no domain. -/
theorem readWindow_sb (off : Nat) (wide : Bool) (s : State) : readWindow .sb off wide s = answerRead .sb off wide s :=
  if_neg (by simp)

/-- A window's read that need not wait for the Tracer is answered at once. -/
theorem readWindow_answers (off : Nat) (wide : Bool)
    (hserve : w ≠ .sb → inTracer off = true → shows s w off = true → serves s tracerDomain = true) :
    ∃ u, (u = s ∨ u = markWork tracerDomain s) ∧ readWindow w off wide s = answerRead w off wide u := by
  unfold readWindow
  by_cases hwait : (w ≠ .sb && inTracer off && shows s w off) = true
  · rw [if_pos hwait]
    simp only [Bool.and_eq_true, decide_eq_true_eq] at hwait
    obtain ⟨⟨hside, htracer⟩, hshow⟩ := hwait
    exact ⟨_, .inr rfl, if_pos (hserve hside htracer hshow)⟩
  · rw [if_neg hwait]
    exact ⟨s, .inl rfl, rfl⟩

/-- Where a 64-bit register is shown, it is so in the state in which a read is answered. -/
theorem reg64_of_answers {u : State} (hu : u = s ∨ u = markWork tracerDomain s) (hshow : shows s w off = true) {base : Nat}
    (hreg : reg64 s (windowFn w) base = some v) :
    shows u w off = true ∧ reg64 u (windowFn w) base = some v ∧ u.out = s.out ∧ u.regs = s.regs := by
  obtain rfl | rfl := hu
  · exact ⟨hshow, hreg, rfl, rfl⟩
  · exact ⟨(shows_markWork ..).trans hshow, (reg64_markWork ..).trans hreg, rfl, rfl⟩

theorem exec_regRead (hpor : s.pins.porN = true) (off : BitVec 20) (wide : Bool) :
    exec (.regRead off wide) s = .next (if sideHeld s off.toNat then emit (.registerData 1 0) s
      else readWindow .sb off.toNat wide s) := by
  change Host.Outcome.next (if _ then _ else _) = _
  rw [if_neg (by simp [hpor])]

theorem exec_lowHalfRead {off : BitVec 20} (hpor : s.pins.porN = true) (hfree : w = .sb → sideHeld s off.toNat = false) :
    exec (.lowHalfRead w off) s = .next (readWindow w off.toNat false s) := by
  change Host.Outcome.next (if _ then _ else if _ then _ else _) = _
  rw [if_neg (by simp [hpor]), if_neg]
  simpa using hfree

theorem exec_counterRegisterRead (hpor : s.pins.porN = true) (i : BitVec 10) (wide : Bool) :
    exec (.counterRegisterRead i wide) s = .next (readWindow .pf (0x40000 + 8 * i.toNat) wide s) := by
  change Host.Outcome.next (if _ then _ else _) = _
  rw [if_neg (by simp [hpor])]

/-! ### The statement about reads -/

/-- A 64-bit read answers the register and leaves the configuration and the latches. -/
theorem answerRead_wide (halign : off % 8 = 0) (hshow : shows s w off = true)
    (hreg : reg64 s (windowFn w) off = some v) :
    (answerRead w off true s).out = s.out ++ [.registerData 0 v] ∧ (answerRead w off true s).regs = s.regs := by
  rw [answerRead, if_pos rfl, readWide_of_reg64 halign hshow hreg]
  exact ⟨congrArg (· ++ _) (seenRead_out off s), seenRead_regs off s⟩

theorem answerRead_low {off : BitVec 20} (halign : off.toNat % 8 = 0) (hshow : shows s w off.toNat = true)
    (hreg : reg64 s (windowFn w) off.toNat = some v) :
    (answerRead w off.toNat false s).out = s.out ++ [.registerData 0 ((v.extractLsb' 0 32).setWidth 64)]
      ∧ (answerRead w off.toNat false s).regs.latches.lookup (w, off) = some (v.extractLsb' 32 32) := by
  rw [answerRead, if_neg (by decide), readNarrow_of_low halign hshow hreg]
  refine ⟨congrArg (· ++ _) (seenRead_out ..), ?_⟩
  change (seenRead off.toNat _).regs.latches.lookup (w, off) = _
  rw [seenRead_regs, BitVec.ofNat_toNat, BitVec.setWidth_eq]
  exact lookup_assocSet_lawful ..

theorem answerRead_high {x : BitVec 32} (halign : off % 8 = 4) (hshow : shows s w off = true)
    (hreg : reg64 s (windowFn w) (off - 4) = some v)
    (hlatch : s.regs.latches.lookup (w, BitVec.ofNat 20 (off - 4)) = some x) :
    (answerRead w off false s).out = s.out ++ [.registerData 0 (x.setWidth 64)]
      ∧ (answerRead w off false s).regs.latches.lookup (w, BitVec.ofNat 20 (off - 4)) = none := by
  rw [answerRead, if_neg (by decide), readNarrow_of_high halign hshow hreg, readHigh_of_latched hlatch]
  exact ⟨rfl, lookup_assocDel_same ..⟩

/-- A counter register shows its counter's reading. -/
theorem reg64_counter (s : State) (fn : FnId) (i : BitVec 10) :
    reg64 s fn (0x40000 + 8 * i.toNat) = some (counterReading s i.toNat) := by
  have hi : i.toNat < 1024 := i.isLt
  have hindex : (0x40000 + 8 * i.toNat - 0x40000) / 8 = i.toNat := by omega
  unfold reg64
  rw [if_neg (by omega), if_neg (by omega), if_neg (by omega), if_neg (by omega), if_neg (by omega), if_neg (by omega),
    if_neg (by omega), if_neg (by omega), if_neg (by simp only [Bool.and_eq_true, decide_eq_true_eq]; omega),
    if_pos (by simp only [Bool.and_eq_true, decide_eq_true_eq]; omega), hindex]

end

/-- Settles O39: a read that nothing holds by what answering it emits and latches, one of the Tracer's by its domain. -/
theorem registerReadsComplete : Obligations.RegisterReadsComplete := by
  refine ⟨fun off v s hpor hheld halign hshow hreg => ?_, fun off wide s hpor hheld => ?_,
    fun w off v s hpor halign hheld hshow hserve hreg => ?_, fun w off s hpor hside htracer hshow hserve => ?_,
    fun w off v x s hpor halign hheld htracer hshow hreg hlatch => ?_, fun i s hpor hshow hserve => ?_⟩
  · rw [Completes, exec_regRead hpor, hheld, if_neg (by decide), readWindow_sb]
    exact ⟨_, rfl, answerRead_wide halign hshow hreg⟩
  · rw [exec_regRead hpor, hheld]
    rfl
  · obtain ⟨u, hu, hread⟩ := readWindow_answers off.toNat false fun hw ht _ => hserve hw ht
    obtain ⟨hshow', hreg', hout, -⟩ := reg64_of_answers hu hshow hreg
    rw [Completes, exec_lowHalfRead hpor hheld, hread, ← hout]
    exact ⟨_, rfl, answerRead_low halign hshow' hreg'⟩
  · rw [exec_lowHalfRead hpor fun hw => absurd hw hside, readWindow, if_pos (by simp [hside, htracer, hshow]),
      inTracerDomain, if_neg (by simp [hserve])]
  · obtain ⟨u, hu, hread⟩ := readWindow_answers (w := w) (s := s) off.toNat false
      fun _ ht _ => nomatch htracer.symm.trans ht
    obtain ⟨hshow', hreg', hout, hregs⟩ := reg64_of_answers hu hshow hreg
    rw [Completes, exec_lowHalfRead hpor hheld, hread, ← hout]
    exact ⟨_, rfl, answerRead_high halign hshow' hreg' (hregs ▸ hlatch)⟩
  · obtain ⟨u, hu, hread⟩ := readWindow_answers (w := .pf) (s := s) (0x40000 + 8 * i.toNat) true
      fun _ ht _ => hserve ht
    obtain ⟨hshow', hreg', hout, -⟩ := reg64_of_answers hu hshow (reg64_counter s (windowFn .pf) i)
    rw [Completes, exec_counterRegisterRead hpor, hread, ← hout]
    exact ⟨_, rfl, (answerRead_wide (by omega) hshow' hreg').1⟩

/-! ### Writes (R474, R496, R499, R504, R510) -/

section

variable {w : Window} {s : State}

/-- A 32-bit write through a function's window. -/
theorem exec_registerWrite_narrow {off : BitVec 20} (hrun : running s = true) (hw : w ≠ .sb) (halign : off.toNat % 4 = 0)
    (v : BitVec 64) :
    exec (.registerWrite w off false v) s = .next (write32 w off.toNat (v.extractLsb' 0 32) s) := by
  change Host.Outcome.next (if _ then _ else _) = _
  rw [if_neg (by simp [hrun, hw, halign])]
  rfl

theorem exec_registerWrite_wide {off : BitVec 20} (hrun : running s = true) (hw : w ≠ .sb) (halign : off.toNat % 8 = 0)
    (v : BitVec 64) :
    exec (.registerWrite w off true v) s = .next (write32 w (off.toNat + 4) (v.extractLsb' 32 32)
      (write32 w off.toNat (v.extractLsb' 0 32) s)) := by
  change Host.Outcome.next (if _ then _ else _) = _
  rw [if_neg (by simp [hrun, hw, halign])]
  rfl

/-- The low bits of a 32-bit write are those of the value. -/
theorem extractLsb'_low (v : BitVec 64) {n : Nat} (h : n ≤ 32) :
    (v.extractLsb' 0 32).extractLsb' 0 n = v.extractLsb' 0 n := by
  apply BitVec.eq_of_toNat_eq
  simp only [BitVec.extractLsb'_toNat, Nat.shiftRight_zero]
  exact Nat.mod_mod_of_dvd _ (Nat.pow_dvd_pow 2 h)

theorem ranged_eq (old v low high : Nat) : ranged old v low high = if low ≤ v ∧ v ≤ high then v else old := by
  simp [ranged]

theorem completes_write_gateDelay (hrun : running s = true) (v : BitVec 64) :
    Completes (.registerWrite .pf 0x100 false v) s fun t =>
      t.regs = { s.regs with gateDelayUs :=
        if 1 ≤ (v.extractLsb' 0 10).toNat ∧ (v.extractLsb' 0 10).toNat ≤ 1000 then (v.extractLsb' 0 10).toNat
        else s.regs.gateDelayUs } := by
  rw [Completes, exec_registerWrite_narrow hrun (by decide) (by decide)]
  refine ⟨_, rfl, ?_⟩
  change { s.regs with
    gateDelayUs := ranged s.regs.gateDelayUs ((v.extractLsb' 0 32).extractLsb' 0 10).toNat 1 1000 } = _
  rw [extractLsb'_low v (by decide), ranged_eq]

theorem completes_write_waitIdle (hrun : running s = true) (v : BitVec 64) :
    Completes (.registerWrite .pf 0x104 false v) s fun t =>
      t.regs = { s.regs with waitIdleUs :=
        if s.boot.role = .e ∧ 1 ≤ (v.extractLsb' 0 14).toNat ∧ (v.extractLsb' 0 14).toNat ≤ 10000
        then (v.extractLsb' 0 14).toNat else s.regs.waitIdleUs } := by
  rw [Completes, exec_registerWrite_narrow hrun (by decide) (by decide)]
  refine ⟨_, rfl, ?_⟩
  change (if s.boot.role ≠ .e then s else { s with regs := { s.regs with
    waitIdleUs := ranged s.regs.waitIdleUs ((v.extractLsb' 0 32).extractLsb' 0 14).toNat 1 10000 } } : State).regs = _
  rw [extractLsb'_low v (by decide), ranged_eq]
  by_cases hrole : s.boot.role = .e
  · simp only [hrole, ne_eq, not_true, if_false, true_and]
  · simp only [hrole, ne_eq, not_false_iff, if_true, false_and, if_false]

/-! ### A mailbox's request buffer (R510) -/

theorem getMailbox_fn (s : State) (fn : FnId) : (getMailbox s fn).fn = fn := by
  unfold getMailbox
  cases h : s.fns.mailboxes.find? fun m => m.fn = fn with
  | none => rfl
  | some m => simpa using List.find?_some h

theorem getMailbox_setMailbox {m : Mailbox} {fn : FnId} (h : m.fn = fn) (s : State) : getMailbox (setMailbox m s) fn = m := by
  subst h
  simp [getMailbox, setMailbox]

/-- A byte after a run of bytes has been written: one of the run inside it, and what was there outside it. -/
theorem memRead_memWriteN {d : Byte} {m : Mem} (h : Mem.wf d m = true) (a : Nat) (b : Bytes) (x : Nat) :
    memRead d (memWriteN d m a b) x = if a ≤ x ∧ x < a + b.length then b.getD (x - a) 0 else memRead d m x := by
  induction b generalizing m a with
  | nil => rw [if_neg (by simp)]; rfl
  | cons y t ih =>
    rw [memWriteN, ih (memWrite_wf h a y), memRead_memWrite h, List.length_cons]
    by_cases hx : x = a
    · subst hx
      rw [if_neg (by omega), if_pos rfl, if_pos (by omega), Nat.sub_self, List.getD_cons_zero]
    · by_cases hin : a + 1 ≤ x ∧ x < a + 1 + t.length
      · rw [if_pos hin, if_pos (by omega), show x - a = x - (a + 1) + 1 by omega, List.getD_cons_succ]
      · rw [if_neg hin, if_neg hx, if_neg (by omega)]

theorem write32_request {off : Nat} (hlow : 0x2000 ≤ off) (hhigh : off < 0x3000) (hshow : shows s w off = true)
    (x : BitVec 32) : write32 w off x s = writeRequest (windowFn w) off x s := by
  unfold write32
  simp only [hshow, Bool.not_true, Bool.false_eq_true, if_false]
  rw [if_neg (by simp; omega), if_neg (by omega), if_pos (by simp; omega)]

/-- While the doorbell is clear, a write of the request buffer puts the word's bytes in. -/
theorem memRead_writeRequest {fn : FnId} {off : Nat} (hring : (getMailbox s fn).ring = false)
    (hwf : Mem.wf 0 (getMailbox s fn).req = true) (x : BitVec 32) :
    ∀ i < 4, memRead 0 (getMailbox (writeRequest fn off x s) fn).req (off - 0x2000 + i) = (leBytes 4 x.toNat).getD i 0 := by
  intro i hi
  let m : Mailbox := { getMailbox s fn with req := memWriteN 0 (getMailbox s fn).req (off - 0x2000) (leBytes 4 x.toNat) }
  have hwrite : writeRequest fn off x s = setMailbox m s := if_neg (by simp [hring])
  rw [hwrite, getMailbox_setMailbox (m := m) (getMailbox_fn s fn), memRead_memWriteN hwf, if_pos (by rw [length_leBytes]; omega), Nat.add_sub_cancel_left]

/-! ### Profiling selects (R474) -/

/-- A profiling set that is programmed holds what the select says, and its counters start anew. -/
theorem setProf_find (i : BitVec 6) (x : BitVec 32) (s : State) :
    ∃ p, ((setProf i x s).tracer.prof.find? fun y => y.index = i) = some p
      ∧ p.queue = x.extractLsb' 0 8 ∧ p.enable = x.getLsbD 8 ∧ p.scope = x.getLsbD 9 ∧ p.bytes = 0 ∧ p.ops = 0 := by
  unfold setProf profReset
  extract_lets old p before latches
  have hold : old.index = i := by
    unfold old
    cases h : s.tracer.prof.find? fun y => y.index = i with
    | none => rfl
    | some y => simpa using List.find?_some h
  have hp : decide (p.index = i) = true := decide_eq_true hold
  dsimp only
  refine ⟨_, (find?_alter (p := fun y : ProfSel => y.index = i) ?_ _).trans
    (congrArg _ (find?_upsert (p := fun y : ProfSel => y.index = i) hp _)), rfl, rfl, rfl, rfl, rfl⟩
  exact fun y hy => hy

theorem completes_profSelWrite (hrun : running s = true) (hrole : s.boot.role = .e)
    (hserve : serves s tracerDomain = true) (i : BitVec 6) (v : BitVec 64) :
    Completes (.profSelWrite i v) s fun t => ∃ p, (t.tracer.prof.find? fun y => y.index = i) = some p
      ∧ p.queue = v.extractLsb' 0 8 ∧ p.enable = v.getLsbD 8 ∧ p.scope = v.getLsbD 9 ∧ p.bytes = 0 ∧ p.ops = 0 := by
  have hexec : exec (.profSelWrite i v) s
      = .next (setProf i (v.extractLsb' 0 32) (markWork tracerDomain s)) := by
    change Host.Outcome.next (writeProf i _ s) = _
    rw [writeProf, if_neg (by simp [hrun, hrole]), inTracerDomain, if_pos hserve]
  obtain ⟨p, hfind, hqueue, henable, hscope, hreset⟩ :=
    setProf_find i (v.extractLsb' 0 32) (markWork tracerDomain s)
  rw [Completes, hexec]
  refine ⟨_, rfl, p, hfind, ?_, ?_, ?_, hreset⟩
  · rw [hqueue, extractLsb'_low v (by decide)]
  · simp [henable]
  · simp [hscope]

end

/-- Settles O40: each register by what the write at its offset does. -/
theorem registerWritesComplete : Obligations.RegisterWritesComplete := by
  refine ⟨fun v s hrun => completes_write_gateDelay hrun v, fun v s hrun => completes_write_waitIdle hrun v,
    fun off wide v s => ?_, fun off v w s hrun hw hlow hhigh halign hshow hring hwf => ?_,
    fun off v w s hrun hw halign => exec_registerWrite_wide hrun hw halign v,
    fun i v s hrun hrole hserve => completes_profSelWrite hrun hrole hserve i v⟩
  · change Host.Outcome.next (if _ then _ else _) = _
    rw [if_pos (by simp)]
  · rw [Completes, exec_registerWrite_narrow hrun hw halign, write32_request hlow hhigh hshow]
    exact ⟨_, rfl, memRead_writeRequest hring hwf _⟩

end Sys2Proof.Machine
end

section
/-! SUPPORT. Clocks, power and culverts as commands act on them (R41 to R48, R481, R519, R520), and the statement about them. -/

namespace Sys2Proof.Machine

/-! ### Culverts after a change (R44 to R48) -/

section

variable {d : DomainId} {s : State}

/-- Every culvert has the number it is read by. -/
theorem getCulvert_id (s : State) (c : CulvertId) : (getCulvert s c).id = c := by
  unfold getCulvert
  cases h : s.power.culverts.find? fun x => x.id = c with
  | none => rfl
  | some x => simpa using List.find?_some h

theorem getCulvert_congr {s t : State} (h : t.power = s.power) (c : CulvertId) : getCulvert t c = getCulvert s c := by
  simp only [getCulvert, h]

/-- A culvert that is replaced is as ready, and holds what it then does, listed or not. -/
theorem getCulvert_setCulvert_same {x : Culvert} {c : CulvertId} (h : x.id = c) (s : State) :
    (getCulvert (setCulvert x s) c).ready = x.ready ∧ (getCulvert (setCulvert x s) c).entries = x.entries := by
  subst h
  unfold getCulvert setCulvert
  simp only [modPower_power]
  by_cases hidle : (x.ready && x.entries.isEmpty) = true
  · rw [if_pos hidle, List.find?_eq_none.2 (by simp)]
    simp only [Bool.and_eq_true, List.isEmpty_iff] at hidle
    exact ⟨hidle.1.symm, hidle.2.symm⟩
  · rw [if_neg hidle, find?_upsert (by simp)]
    exact ⟨rfl, rfl⟩

theorem getCulvert_setCulvert_other {x : Culvert} {c : CulvertId} (h : c ≠ x.id) (s : State) :
    getCulvert (setCulvert x s) c = getCulvert s c := by
  unfold getCulvert setCulvert
  simp only [modPower_power]
  by_cases hidle : (x.ready && x.entries.isEmpty) = true
  · rw [if_pos hidle, List.find?_filter]
    congr 2
    funext y
    by_cases hy : y.id = c
    · simp [hy, h]
    · simp [hy]
  · rw [if_neg hidle, find?_upsert_other (by simpa using Ne.symm h) fun y hy => ?_]
    simp only [decide_eq_true_eq] at hy
    simpa [hy] using Ne.symm h

/-! ### Switches (R42, R520) -/

/-- A domain of the role for which work has come has its switch closed. -/
theorem wakeDomain_powered (hrun : running s = true) (hexists : domainExists s d = true) :
    (wakeDomain d s).pins.pwrEn.contains d = true := by
  unfold wakeDomain
  by_cases hon : s.pins.pwrEn.contains d = true
  · rw [if_pos (by rw [hon, Bool.or_true])]
    exact hon
  · rw [hrun, hexists, Bool.eq_false_iff.2 hon, if_neg (by decide)]
    simp

theorem domainOn_congr {s t : State} (h : t.pins = s.pins) (e : DomainId) : domainOn t e = domainOn s e := by
  simp only [domainOn, h]

/-! ### A gated domain (R41, R75, R305, R316) -/

theorem zeroizeDomain_parts (d : DomainId) (s : State) : s.agree [.keys, .link, .stack] (zeroizeDomain d s) :=
  zeroizeDomain_frame d s (agree_refl _ s) rfl

theorem zeroizeDomain_copies (h : d.kind = .sce) : ∀ c ∈ (zeroizeDomain d s).stack.copies, c.1.1 ≠ d.index.toNat := by
  simp only [zeroizeDomain, h]
  exact fun c hc => of_decide_eq_true (List.mem_filter.1 hc).2

theorem zeroizeDomain_prefixes (h : d.kind = .kcu) :
    (getKcu (decide (d.index.toNat = 1)) (zeroizeDomain d s)).prefixes = [] := by
  simp only [zeroizeDomain, h, getKcu_setKcu]

theorem zeroizeDomain_cached (h : d.kind = .lceRx) (p : PolderId) (src : InstId) (sid : BitVec 16) (g : Option InstId) :
    (StreamRef.rx p src sid g, d.index) ∉ (zeroizeDomain d s).link.cached := by
  simp [zeroizeDomain, h, writeBackEntries]

/-- What a domain leaves that is gated: its switch opens, it is counted, and what it kept is gone. -/
def gatedState (d : DomainId) (s : State) : State :=
  modPins (fun p => { p with pwrEn := p.pwrEn.filter (· ≠ d), pwrGood := p.pwrGood.filter (· ≠ d) })
    (count 0x013 (emitTrace 0 0x0003 (domainUnit d) 0 none [] (zeroizeDomain d s)))

theorem exec_domainGate (hrun : running s = true) (hexists : domainExists s d = true) (hgate : gateable d.kind = true)
    (hon : domainOn s d = true) (hidle : idleLong s d = true) (hclock : s.pins.clkStopAck.contains d = false) :
    exec (.domainGate d) s = .next (gatedState d s) := by
  change Host.Outcome.next (if _ then _ else _) = _
  rw [hrun, hexists, hgate, hon, hidle, hclock, if_neg (by decide)]
  rfl

theorem gatedState_pins (d : DomainId) (s : State) : (gatedState d s).pins = { s.pins with
    pwrEn := s.pins.pwrEn.filter (· ≠ d), pwrGood := s.pins.pwrGood.filter (· ≠ d) } := by
  simp only [gatedState, modPins_pins, count_pins, emitTrace_pins, zeroizeDomain_parts d s .pins rfl]

theorem domainOn_gatedState_other {e : DomainId} (h : e ≠ d) : domainOn (gatedState d s) e = domainOn s e := by
  simp [domainOn, gatedState_pins, h]

theorem counterOf_gatedState (d : DomainId) (s : State) : counterOf 0x013 (gatedState d s) = counterOf 0x013 s + 1 := by
  change counterOf 0x013 (count 0x013 _) = _
  rw [counterOf_count, counterOf_emitTrace (by decide),
    counterOf_congr (congrArg Tracer.counters (zeroizeDomain_parts d s .tracer rfl))]

theorem completes_domainGate (hrun : running s = true) (hexists : domainExists s d = true) (hgate : gateable d.kind = true)
    (hon : domainOn s d = true) (hidle : idleLong s d = true) (hclock : s.pins.clkStopAck.contains d = false) :
    Completes (.domainGate d) s fun t =>
      domainOn t d = false ∧ (∀ e ≠ d, domainOn t e = domainOn s e) ∧ counterOf 0x013 t = counterOf 0x013 s + 1
        ∧ (d.kind = .sce → ∀ c ∈ t.stack.copies, c.1.1 ≠ d.index.toNat)
        ∧ (d.kind = .kcu → (getKcu (decide (d.index.toNat = 1)) t).prefixes = [])
        ∧ (d.kind = .lceRx → ∀ (p : PolderId) (src : InstId) (sid : BitVec 16) (g : Option InstId),
            (StreamRef.rx p src sid g, d.index) ∉ t.link.cached) := by
  have hstack : (gatedState d s).stack = (zeroizeDomain d s).stack := emitTrace_stack ..
  have hkeys : (gatedState d s).keys = (zeroizeDomain d s).keys := emitTrace_keys ..
  have hlink : (gatedState d s).link = (zeroizeDomain d s).link := emitTrace_link ..
  refine ⟨_, exec_domainGate hrun hexists hgate hon hidle hclock, by simp [domainOn, gatedState_pins],
    fun e he => domainOn_gatedState_other he, counterOf_gatedState d s, fun h => ?_, fun h => ?_, fun h => ?_⟩
  · rw [hstack]
    exact zeroizeDomain_copies h
  · rw [getKcu_congr hkeys]
    exact zeroizeDomain_prefixes h
  · rw [hlink]
    exact zeroizeDomain_cached h

/-! ### Stopped and released clocks (R46, R481, R519) -/

theorem releaseTrace_parts (d : DomainId) (s : State) : s.agree [.tracer, .free] (releaseTrace d s) :=
  releaseTrace_frame d s (agree_refl _ s) rfl

/-- The event that a stopped or released clock has a domain emit, where it has power (R481). -/
def clockEvent (code : BitVec 16) (d : DomainId) (mhz : Nat) (s : State) : State :=
  if domainOn s d then tookFree (emitTrace 0 code (domainUnit d) 0 none (leBytes 4 mhz) s) else s

theorem clockEvent_parts (code : BitVec 16) (d : DomainId) (mhz : Nat) (s : State) :
    s.agree [.tracer, .free] (clockEvent code d mhz s) := by
  unfold clockEvent
  split
  · exact tookFree_frame _ (emitTrace_frame _ _ _ _ _ _ s (agree_refl _ s) rfl) rfl
  · exact agree_refl _ s

theorem completes_clockStopRequest (hrun : running s = true) (hexists : domainExists s d = true)
    (hout : inCluster d.kind = false) (hnew : s.pins.clkStopReq.contains d = false) :
    Completes (.clockStopRequest d) s fun t =>
      t.pins = { s.pins with clkStopReq := s.pins.clkStopReq ++ [d], clkStopAck := s.pins.clkStopAck ++ [d] }
        ∧ (domainOn s d = false → t.tracer = s.tracer) := by
  have hexec : exec (.clockStopRequest d) s = .next (modPins (fun p => { p with
      clkStopReq := p.clkStopReq ++ [d], clkStopAck := p.clkStopAck ++ [d] })
      (clockEvent 0x0001 d (800 + (fresh s).toNat % 801) s)) := by
    change Host.Outcome.next (if _ then _ else _) = _
    rw [hrun, hexists, hout, hnew, if_neg (by decide)]
    rfl
  refine ⟨_, hexec, ?_, fun hoff => ?_⟩
  · rw [modPins_pins, clockEvent_parts _ d _ s .pins rfl]
  · rw [modPins_tracer, clockEvent, hoff]
    rfl

/-- A domain's clock runs again. -/
def clockReleased (d : DomainId) (s : State) : State :=
  modPins (fun p => { p with clkStopReq := p.clkStopReq.filter (· ≠ d), clkStopAck := p.clkStopAck.filter (· ≠ d) }) s

theorem exec_clockStopRelease (hreq : s.pins.clkStopReq.contains d = true) :
    ∃ u, exec (.clockStopRelease d) s = .next (restartDomain d u)
      ∧ d ∉ u.pins.clkStopReq ∧ d ∉ u.pins.clkStopAck ∧ u.pins.pwrEn = s.pins.pwrEn ∧ u.pins.pwrGood = s.pins.pwrGood
      ∧ (∀ e ≠ d, e ∈ u.pins.clkStopReq ↔ e ∈ s.pins.clkStopReq)
      ∧ (∀ e ≠ d, e ∈ u.pins.clkStopAck ↔ e ∈ s.pins.clkStopAck)
      ∧ u.power = s.power ∧ u.link = s.link ∧ u.stack = s.stack ∧ u.fau = s.fau := by
  let u := releaseTrace d (clockEvent 0x0002 d (800 + (fresh s).toNat % 801) (clockReleased d s))
  have hexec : exec (.clockStopRelease d) s = .next (restartDomain d u) := by
    change Host.Outcome.next (if _ then _ else _) = _
    rw [hreq, if_neg (by decide)]
    rfl
  have hparts : (clockReleased d s).agree [.tracer, .free] u :=
    releaseTrace_frame d _ (clockEvent_parts _ d _ _) rfl
  have hpins : u.pins = (clockReleased d s).pins := hparts .pins rfl
  refine ⟨u, hexec, ?_, ?_, ?_, ?_, fun e he => ?_, fun e he => ?_, hparts .power rfl, hparts .link rfl, hparts .stack rfl,
    hparts .fau rfl⟩
  · simp [hpins, clockReleased]
  · simp [hpins, clockReleased]
  · rw [hpins]
    rfl
  · rw [hpins]
    rfl
  · simp [hpins, clockReleased, he]
  · simp [hpins, clockReleased, he]

/-! ### Power that is good (R42, R481, R520) -/

/-- A domain's power is good. -/
def powered (d : DomainId) (s : State) : State := modPins (fun p => { p with pwrGood := p.pwrGood ++ [d] }) s

/-- A domain whose power is good is ready: its event is out, and a slice has its keys again (R305). -/
def readied (d : DomainId) (s : State) : State :=
  let s := emitTrace 0 0x0004 (domainUnit d) 0 none [] (powered d s)
  releaseTrace d (if d.kind = .sce then reloadCopies d.index.toNat s else s)

theorem readied_parts (d : DomainId) (s : State) :
    (powered d s).agree [.out, .sb, .polders, .cad, .keys, .stack, .obj, .fns, .tracer, .free] (readied d s) := by
  unfold readied
  dsimp only
  have hevent := emitTrace_frame (A := [.out, .sb, .polders, .cad, .keys, .stack, .obj, .fns, .tracer, .free])
    0 0x0004 (domainUnit d) 0 none [] (powered d s) (agree_refl _ _) rfl
  split
  · exact releaseTrace_frame d _ (reloadCopies_frame _ _ hevent rfl) rfl
  · exact releaseTrace_frame d _ hevent rfl

theorem readied_stack (h : d.kind ≠ .sce) : (readied d s).stack = s.stack := by
  unfold readied
  dsimp only
  rw [if_neg h, releaseTrace_parts d _ .stack rfl, emitTrace_stack]
  rfl

theorem exec_powerGood (hen : s.pins.pwrEn.contains d = true) (hgood : s.pins.pwrGood.contains d = false) :
    ∃ u, exec (.powerGood d) s = .next (restartDomain d u) ∧ u.pins = { s.pins with pwrGood := s.pins.pwrGood ++ [d] }
      ∧ domainOn u d = true ∧ assocGet d 0 u.power.lastWork = s.time ∧ u.power.outside = s.power.outside
      ∧ u.link = s.link ∧ (d.kind ≠ .sce → u.stack = s.stack) := by
  have hexec : exec (.powerGood d) s = .next (restartDomain d (markWork d (readied d s))) := by
    change Host.Outcome.next (if _ then _ else _) = _
    rw [hen, hgood, if_neg (by decide)]
    rfl
  have hpins : (markWork d (readied d s)).pins = { s.pins with pwrGood := s.pins.pwrGood ++ [d] } :=
    (markWork_pins ..).trans (readied_parts d s .pins rfl)
  have hpower : (readied d s).power = s.power := readied_parts d s .power rfl
  have htime : (readied d s).time = s.time := readied_parts d s .time rfl
  refine ⟨_, hexec, hpins, ?_, ?_, ?_, (markWork_link ..).trans (readied_parts d s .link rfl), fun h => ?_⟩
  · simp only [domainOn, hpins, hen, Bool.true_and]
    simp
  · rw [← htime]
    exact assocGet_assocSet_same ..
  · change (readied d s).power.outside = _
    rw [hpower]
  · rw [markWork_stack, readied_stack h]

/-! ### Work that comes, and handshakes (R42, R45, R46, R48) -/

theorem completes_domainWake (hrun : running s = true) (hexists : domainExists s d = true)
    (hoff : s.pins.pwrEn.contains d = false) :
    Completes (.domainWake d) s fun t =>
      t.pins = { s.pins with pwrEn := s.pins.pwrEn ++ [d] } ∧ counterOf 0x014 t = counterOf 0x014 s + 1 := by
  refine ⟨wakeDomain d s, rfl, ?_⟩
  rw [wakeDomain, hrun, hexists, hoff, if_neg (by decide)]
  exact ⟨rfl, counterOf_count ..⟩

theorem exec_culvertHandshakeComplete {c : CulvertId} (hleft : c.left = .domain d) (hl : islandStopped s c.left = false)
    (hr : islandStopped s c.right = false) (hready : (getCulvert s c).ready = false) :
    ∃ u, exec (.culvertHandshakeComplete c) s = .next (reperform (domainUnit d) (domainServes d u))
      ∧ (getCulvert u c).ready = true ∧ (getCulvert u c).entries = (getCulvert s c).entries
      ∧ (∀ x ≠ c, getCulvert u x = getCulvert s x) ∧ u.pins = s.pins ∧ u.power.outside = s.power.outside := by
  have hexec : exec (.culvertHandshakeComplete c) s
      = .next (reperform (domainUnit d) (domainServes d (setCulvert { getCulvert s c with ready := true } s))) := by
    change Host.Outcome.next (if _ then _ else match c.left with | .domain d => _ | _ => _) = _
    rw [hl, hr, hready, if_neg (by decide), hleft]
  obtain ⟨h1, h2⟩ := getCulvert_setCulvert_same (x := { getCulvert s c with ready := true }) (getCulvert_id s c) s
  refine ⟨_, hexec, h1, h2, fun x hx => getCulvert_setCulvert_other ?_ s, rfl, rfl⟩
  rw [getCulvert_id]
  exact hx

theorem waitToEnter_parts (d : DomainId) (e : CulvertEntry) (s : State) : s.agree [.power] (waitToEnter d e s) :=
  waitToEnter_frame d e s (agree_refl _ s) rfl

/-- What waits to enter a domain stands last in its culvert, or last outside it. -/
theorem waitToEnter_cases (d : DomainId) (e : CulvertEntry) (s : State) :
    ((getCulvert (waitToEnter d e s) (portCulvert d)).entries = (getCulvert s (portCulvert d)).entries ++ [e]
        ∧ (waitToEnter d e s).power.outside = s.power.outside)
      ∨ (getCulvert (waitToEnter d e s) (portCulvert d) = getCulvert s (portCulvert d)
        ∧ (waitToEnter d e s).power.outside = s.power.outside ++ [(d, e)]) := by
  unfold waitToEnter
  dsimp only
  split
  · exact .inl ⟨(getCulvert_setCulvert_same (x := { getCulvert s (portCulvert d) with
      entries := (getCulvert s (portCulvert d)).entries ++ [e] }) (getCulvert_id s (portCulvert d)) s).2, rfl⟩
  · exact .inr ⟨rfl, rfl⟩

/-- Work for a domain that does not serve waits to enter it, and closes its switch. -/
theorem enter_of_not_serves (hoff : serves s d = false) (e : CulvertEntry) (serve : State → State) :
    enter d e serve s = wakeDomain d (waitToEnter d e s) := by
  rw [enter, hoff, Bool.false_and, if_neg Bool.false_ne_true]

end

/-- Settles O9: each command by the state it leaves, and work that comes by where it waits. -/
theorem clocksAndPowerComplete : Obligations.ClocksAndPowerComplete := by
  refine ⟨fun _ _ hrun hexists hout hnew => completes_clockStopRequest hrun hexists hout hnew,
    fun _ _ hreq => exec_clockStopRelease hreq,
    fun _ _ hrun hexists hgate hon hidle hclock => completes_domainGate hrun hexists hgate hon hidle hclock,
    fun _ _ hrun hexists hoff => completes_domainWake hrun hexists hoff,
    fun _ _ hen hgood => exec_powerGood hen hgood,
    fun _ _ _ hleft hl hr hready => exec_culvertHandshakeComplete hleft hl hr hready,
    fun d e serve s hrun hexists hoff => ?_⟩
  have hwait := waitToEnter_parts d e s
  have hpower := wakeDomain_power d (waitToEnter d e s)
  have hrun' : running (waitToEnter d e s) = true := by
    rw [running, hwait .pins rfl, hwait .boot rfl]
    exact hrun
  have hexists' : domainExists (waitToEnter d e s) d = true := by
    rw [domainExists, hwait .boot rfl]
    exact hexists
  rw [enter_of_not_serves hoff]
  refine ⟨wakeDomain_powered hrun' hexists', (wakeDomain_link ..).trans (hwait .link rfl),
    (wakeDomain_stack ..).trans (hwait .stack rfl), ?_⟩
  rw [getCulvert_congr hpower, hpower]
  exact waitToEnter_cases d e s

end Sys2Proof.Machine
end

section
/-! SUPPORT. Accesses to the stacks, what their controllers return, and the ends of fills and releases (R84 to R87, R92, R93,
R99 to R101, R411, R420, R539), and the statement about them. -/

namespace Sys2Proof.Machine

/-! ### A key that is ready (R300, R301) -/

section

variable {s u : State}

/-- A use of a key that is ready marks its slot's last use, and nothing else. -/
theorem needKey_ready_parts {p : PolderId} {kind : BitVec 8} (h : needKey p kind s = (.ready, u)) : s.agree [.cad] u := by
  suffices hslot : ∃ k, u = setSlot k s by
    obtain ⟨k, rfl⟩ := hslot
    exact setSlot_frame k s (agree_refl _ s) rfl
  have hread (k : KeySlot) (hk : readKey k kind s = (.ready, u)) : ∃ k, u = setSlot k s := by
    unfold readKey at hk
    split at hk
    · exact ⟨_, (congrArg Prod.snd hk).symm⟩
    · cases hk
  unfold needKey at h
  split at h
  · cases h
  split at h
  · cases h
  split at h
  · cases h
  split at h
  · split at h
    · split at h
      · exact hread _ h
      · cases h
    · split at h
      · split at h
        · exact hread _ h
        · cases h
      · cases h
  · split at h
    · cases h
    · split at h
      · cases h
      · cases h

/-! ### An access that its slice takes (R42, R87, R92) -/

variable {r : StackReq} {x : Context}

/-- The state in which a slice has taken an access: it has work, and the access has its turn (R41, R87). -/
def turned (r : StackReq) (s : State) : State :=
  let t := markWork (sceDomain r.addr.toNat) s
  { t with stack := { t.stack with turns := t.stack.turns + 1 } }

theorem atSlice_eq (r : StackReq) (s : State) :
    atSlice r s = (stackPath r.addr.toNat).foldl (fun t d => markWork d t) (turned r s) := rfl

theorem atSlice_parts (r : StackReq) (s : State) : (turned r s).agree [.power] (atSlice r s) :=
  foldl_frame _ _ _ (agree_refl _ _) fun t d ht => markWork_frame d t ht rfl

theorem exec_stackAccess (h : AtStack r s) :
    exec (.stackAccess r) s = .next (takeAccess r (markWork (sceDomain r.addr.toNat) s)) := by
  obtain ⟨hrun, hrole, haccepts, hmap, hthawed, hroom, hport⟩ := h
  have hfirst : (s.stack.port.any fun x => reqSlice x = reqSlice r && !reqFrozen s x) = false := by
    rw [List.any_eq_false]
    intro p hp
    by_cases hslice : reqSlice p = reqSlice r
    · simp [hport p hp hslice]
    · simp [hslice]
  have hgo : (reqFrozen s r || sliceFull s (reqSlice r)
      || s.stack.port.any fun x => reqSlice x = reqSlice r && !reqFrozen s x) = false := by
    rw [hthawed, hroom, hfirst]
    rfl
  change Host.Outcome.next (if _ then _ else enter _ _ (arriveStack r) s) = _
  rw [if_neg (by simp [hrun, hrole]), enter_of_accepts haccepts, arriveStack]
  congr 1
  exact (if_neg (ne_true_of_eq_false hgo)).trans (if_neg (by
    change ¬ (!serves s (spmDomain r.addr.toNat)) = true
    rw [hmap]
    decide))

/-- An access that passes the checks begins with its turn. -/
theorem exec_stackAccess_passed (h : AtStack r s) (hcheck : stackChecks s r = none)
    (hx : findContext s r.context = some x) :
    exec (.stackAccess r) s = .next (stackStart (asWait r x s) (turned r s)) := by
  have hcheck' : stackChecks (markWork (sceDomain r.addr.toNat) s) r = none := hcheck
  have hx' : findContext (markWork (sceDomain r.addr.toNat) s) r.context = some x := hx
  rw [exec_stackAccess h, takeAccess, hcheck', hx']
  rfl

/-! ### Refusals (R92) -/

theorem stackRefuse_stack (r : StackReq) (check : Nat) (st : Status) (s : State) :
    (stackRefuse r check st s).stack = s.stack := by
  unfold stackRefuse
  split
  · rfl
  · exact writeFault_stack ..

theorem stackRefuse_nextSeq (r : StackReq) (check : Nat) (st : Status) (s : State) :
    (stackRefuse r check st s).tracer.nextSeq = if check = 3 then s.tracer.nextSeq else s.tracer.nextSeq + 1 := by
  unfold stackRefuse
  split
  · rfl
  · exact writeFault_nextSeq ..

theorem stackAnswer_mem (r : StackReq) (st : Status) (data : Bytes) (s : State) :
    .stackAnswer r.context r.addr st data ∈ (stackAnswer r st data s).out := by
  simp [stackAnswer]

theorem completes_stackAccess_refused {check : Nat} {st : Status} (h : AtStack r s)
    (hcheck : stackChecks s r = some (check, st)) :
    Completes (.stackAccess r) s fun t =>
      .stackAnswer r.context r.addr st [] ∈ t.out ∧ t.stack = s.stack
        ∧ t.tracer.nextSeq = if check = 3 then s.tracer.nextSeq else s.tracer.nextSeq + 1 := by
  have hcheck' : stackChecks (markWork (sceDomain r.addr.toNat) s) r = some (check, st) := hcheck
  rw [Completes, exec_stackAccess h, takeAccess, hcheck']
  exact ⟨_, rfl, stackAnswer_mem .., stackRefuse_stack .., stackRefuse_nextSeq ..⟩

/-! ### What waits (R42, R87, R411, R420) -/

variable {w : StackWait}

theorem stackStart_of_busy
    (h : (∃ v ∈ s.stack.reads ++ s.stack.fillWait ++ s.stack.held, sameUnit (w.req.addr.toNat / 256) v.req = true)
      ∨ outsideFirst s (w.req.addr.toNat / 256) w.turn = true) : stackStart w s = holdAccess w s := by
  refine if_pos ?_
  rcases h with ⟨v, hv, hunit⟩ | hout
  · simp only [Bool.or_eq_true, ← List.any_append]
    exact .inl (List.any_eq_true.2 ⟨v, hv, hunit⟩)
  · rw [hout, Bool.or_true]

theorem stackStart_of_free (hbusy : unitBusy s (w.req.addr.toNat / 256) = false)
    (hheld : ∀ h ∈ s.stack.held, sameUnit (w.req.addr.toNat / 256) h.req = false)
    (hout : outsideFirst s (w.req.addr.toNat / 256) w.turn = false) : stackStart w s = stackProceed w s := by
  simp only [unitBusy, Bool.or_eq_false_iff] at hbusy
  obtain ⟨⟨hreads, hkeys⟩, hfills⟩ := hbusy
  have hnone : (s.stack.held.any fun y => sameUnit (w.req.addr.toNat / 256) y.req) = false :=
    List.any_eq_false.2 fun y hy => ne_true_of_eq_false (hheld y hy)
  simp only [stackStart, hreads, hkeys, hfills, hnone, hout, Bool.or_self, Bool.false_eq_true, if_false]

theorem pathHolds_of_serves (h : pathServes s w = true) :
    pathHolds w s = (false, (stackPath w.req.addr.toNat).foldl (fun t d => markWork d t) s) := by
  simp only [pathServes, Bool.and_eq_true, List.all_eq_true] at h
  obtain ⟨hserve, hadmit⟩ := h
  rw [pathHolds, wakeAll_of_serves hserve]
  change (!stackAdmits s _ (contextClass s _), _) = _
  rw [hadmit]
  rfl

theorem pathHolds_of_not_serves (h : pathServes s w = false) : (pathHolds w s).1 = true := by
  by_cases hserve : ∀ d ∈ stackPath w.req.addr.toNat, serves s d = true
  · have hadmit : stackAdmits s w.req.addr.toNat (contextClass s w.req.context) = false := by
      rw [pathServes, List.all_eq_true.2 hserve, Bool.true_and] at h
      exact h
    rw [pathHolds, wakeAll_of_serves hserve]
    change (!stackAdmits s _ (contextClass s _)) = true
    rw [hadmit]
    rfl
  · have hoff : ((stackPath w.req.addr.toNat).filter fun d => !serves s d).isEmpty = false := by
      simpa [List.isEmpty_eq_false_iff, List.filter_eq_nil_iff] using hserve
    rw [pathHolds, wakeAll, hoff]
    rfl

theorem pathHolds_parts (w : StackWait) (s : State) : s.agree [.pins, .tracer, .power] (pathHolds w s).2 :=
  pathHolds_frame w s (agree_refl _ s) rfl

/-- An access whose slice is hung for it, or whose slice or Weir does not take it, is held. -/
theorem stackProceed_held (h : hungFor s (sceUnit w.req.addr.toNat) (some w.req.context) = true ∨ pathServes s w = false) :
    (stackProceed w s).stack = { s.stack with held := s.stack.held ++ [w] } ∧ (stackProceed w s).out = s.out := by
  unfold stackProceed
  split
  · exact ⟨rfl, rfl⟩
  next hgo =>
    simp only [Bool.or_eq_true, not_or] at hgo
    have hpath : pathServes s w = false := h.resolve_left hgo.2
    rcases hp : pathHolds w s with ⟨b, t⟩
    have hb : b = true := by simpa [hp] using pathHolds_of_not_serves hpath
    have ht : s.agree [.pins, .tracer, .power] t := by simpa [hp] using pathHolds_parts w s
    subst hb
    dsimp only [holdAccess]
    rw [ht .stack rfl, ht .out rfl]
    exact ⟨rfl, rfl⟩

section

variable {t : State} (hthawed : isFrozen s w.polder = false)
  (hhung : hungFor s (sceUnit w.req.addr.toNat) (some w.req.context) = false) (hpath : pathServes s w = true)
  (ht : (stackPath w.req.addr.toNat).foldl (fun t d => markWork d t) s = t)

include hthawed hhung hpath ht

/-- An access that its slice and Weir take waits for its plot's fill. -/
theorem stackProceed_filling (hfill : plotFilling (plotEntry t (plotOf w.req.addr.toNat)) = true) :
    stackProceed w s = { t with stack := { t.stack with fillWait := t.stack.fillWait ++ [w] } } := by
  rw [stackProceed, hthawed, hhung, if_neg (by decide), pathHolds_of_serves hpath, ht]
  exact if_pos hfill

/-- An access that its slice and Weir take, to a filled plot and with its key ready, is performed. -/
theorem stackProceed_ready (hfill : plotFilling (plotEntry t (plotOf w.req.addr.toNat)) = false)
    (hkey : needKey w.polder 3 t = (.ready, u)) : stackProceed w s = stackPerform w u := by
  rw [stackProceed, hthawed, hhung, if_neg (by decide), pathHolds_of_serves hpath, ht]
  dsimp only
  rw [hfill, if_neg Bool.false_ne_true, hkey]

end

/-- An access that its slice takes is of no frozen polder (R420). -/
theorem AtStack.thawed (h : AtStack r s) (hx : findContext s r.context = some x) : isFrozen s x.polder = false := by
  obtain ⟨-, -, -, -, hthawed, -, -⟩ := h
  simpa only [reqFrozen, hx] using hthawed

/-- An access whose data unit is free goes on to its slice and its Weir. -/
theorem stackStart_turned (hfree : UnitFree r s) : stackStart (asWait r x s) (turned r s)
    = stackProceed (asWait r x s) (turned r s) := by
  obtain ⟨hbusy, hheld, hout⟩ := hfree
  exact stackStart_of_free hbusy hheld hout

/-- The turn that an access is given stops it nowhere. -/
theorem turned_goes (hthawed : isFrozen s x.polder = false)
    (hhung : hungFor s (sceUnit r.addr.toNat) (some r.context) = false) (hpath : pathServes s (asWait r x s) = true) :
    isFrozen (turned r s) (asWait r x s).polder = false
      ∧ hungFor (turned r s) (sceUnit (asWait r x s).req.addr.toNat) (some (asWait r x s).req.context) = false
      ∧ pathServes (turned r s) (asWait r x s) = true := ⟨hthawed, hhung, hpath⟩

theorem completes_stackAccess_waits (h : AtStack r s) (hcheck : stackChecks s r = none)
    (hx : findContext s r.context = some x) :
    Completes (.stackAccess r) s fun t =>
      let later := { s.stack with turns := s.stack.turns + 1 }
      let waits := t.stack = { later with held := s.stack.held ++ [asWait r x s] } ∧ t.out = s.out
      ((∃ w ∈ s.stack.reads ++ s.stack.fillWait ++ s.stack.held, sameUnit (r.addr.toNat / 256) w.req = true) → waits)
        ∧ (outsideFirst s (r.addr.toNat / 256) s.stack.turns = true → waits)
        ∧ (UnitFree r s → pathServes s (asWait r x s) = false → waits)
        ∧ (UnitFree r s → hungFor s (sceUnit r.addr.toNat) (some r.context) = false → pathServes s (asWait r x s) = true →
            plotFilling (plotEntry s (plotOf r.addr.toNat)) = true →
            t.stack = { later with fillWait := s.stack.fillWait ++ [asWait r x s] } ∧ t.out = s.out) := by
  refine ⟨_, exec_stackAccess_passed h hcheck hx, fun hbusy => ?_, fun hout => ?_, fun hfree hpath => ?_,
    fun hfree hhung hpath hfill => ?_⟩
  · rw [stackStart_of_busy (w := asWait r x s) (s := turned r s) (.inl hbusy)]
    exact ⟨rfl, rfl⟩
  · rw [stackStart_of_busy (w := asWait r x s) (s := turned r s) (.inr hout)]
    exact ⟨rfl, rfl⟩
  · rw [stackStart_turned hfree]
    exact stackProceed_held (s := turned r s) (.inr hpath)
  · have hfill' : plotFilling (plotEntry (atSlice r s) (plotOf (asWait r x s).req.addr.toNat)) = true := hfill
    have hstack : (atSlice r s).stack = (turned r s).stack := atSlice_parts r s .stack rfl
    have hout : (atSlice r s).out = (turned r s).out := atSlice_parts r s .out rfl
    obtain ⟨hthawed', hhung', hpath'⟩ := turned_goes (h.thawed hx) hhung hpath
    rw [stackStart_turned hfree, stackProceed_filling hthawed' hhung' hpath' (atSlice_eq r s).symm hfill']
    dsimp only
    rw [hstack, hout]
    exact ⟨rfl, rfl⟩

/-- Behind a freeze or a full miss queue an access waits at its slice's port. -/
theorem completes_stackAccess_port (hrun : running s = true) (hrole : s.boot.role = .e)
    (haccepts : accepts s (sceDomain r.addr.toNat) = true)
    (hshut : reqFrozen s r = true ∨ sliceFull s (reqSlice r) = true) :
    Completes (.stackAccess r) s fun t =>
      t.stack = { s.stack with port := s.stack.port ++ [r] } ∧ t.out = s.out ∧ t.fau = s.fau := by
  have hexec : exec (.stackAccess r) s = .next (arriveStack r (markWork (sceDomain r.addr.toNat) s)) := by
    change Host.Outcome.next (if _ then _ else enter _ _ (arriveStack r) s) = _
    rw [if_neg (by simp [hrun, hrole]), enter_of_accepts haccepts]
  have hwait : (reqFrozen (markWork (sceDomain r.addr.toNat) s) r
      || sliceFull (markWork (sceDomain r.addr.toNat) s) (reqSlice r)) = true :=
    Bool.or_eq_true_iff.2 hshut
  rw [Completes, hexec, arriveStack, if_pos (by rw [hwait, Bool.true_or])]
  exact ⟨_, rfl, rfl, rfl, rfl⟩

/-! ### Blocks that are written (R83, R84, R86) -/

@[simp] theorem length_xtsBlock (enc : Bool) (k : Key512) (unit j : Nat) (b : Bytes) : (xtsBlock enc k unit j b).length = 16 := by
  simp only [xtsBlock, xorBytes, keyBytes, List.length_zipWith, length_leBytes, length_beBytes]
  rfl

theorem stackSeal_congr {t : State} (h : t.stack.spm = s.stack.spm) (key : Key512) (addr : Nat) (b : Bytes) :
    stackSeal t key addr b = stackSeal s key addr b := by
  simp only [stackSeal, plotEntry, h]

/-- A write of one whole block stores its ciphertext. -/
theorem stackWrite_block_mem {addr : Nat} {b : Bytes} (halign : addr % 16 = 0) (hlen : b.length = 16) (key : Key512)
    (s : State) : (stackWrite key addr b s).stack.mem = memWriteN 0 s.stack.mem addr (stackSeal s key addr b) := by
  have hone : (addr + b.length + 15) / 16 - addr / 16 = 1 := by omega
  have hbase : 16 * (addr / 16) = addr := by omega
  have hblock (plain : Bytes) : slice (plain.take 0 ++ b ++ plain.drop (0 + b.length)) 0 16 = b := by
    simp only [slice, List.take_zero, List.nil_append, List.drop_zero]
    rw [← hlen, List.take_left]
  unfold stackWrite
  simp only [hone, halign, List.range_one, List.flatMap_cons, List.flatMap_nil, List.append_nil, Nat.mul_zero, Nat.add_zero,
    hbase, hblock]

/-- Blocks of a plaintext written one after another. -/
def writeBlocks (key : Key512) (addr : Nat) (data : Bytes) (blocks : List Nat) (s : State) : State :=
  blocks.foldl (fun t i => stackWrite key (addr + 16 * i) (slice data (16 * i) 16) t) s

/-- A byte of the stacks after blocks have been written: in one of them its ciphertext's, else what it was. -/
theorem memRead_writeBlocks {key : Key512} {addr : Nat} {data : Bytes} {blocks : List Nat} (halign : addr % 16 = 0)
    (hblocks : ∀ i ∈ blocks, 16 * i + 16 ≤ data.length) (hwf : Mem.wf 0 s.stack.mem = true) (a : Nat) :
    memRead 0 (writeBlocks key addr data blocks s).stack.mem a
      = if addr ≤ a ∧ (a - addr) / 16 ∈ blocks then
          (stackSeal s key (addr + 16 * ((a - addr) / 16)) (slice data (16 * ((a - addr) / 16)) 16)).getD ((a - addr) % 16) 0
        else memRead 0 s.stack.mem a := by
  induction blocks generalizing s with
  | nil => simp [writeBlocks]
  | cons k t ih =>
    have hk : (slice data (16 * k) 16).length = 16 := by
      have := hblocks k (by simp)
      simp only [slice, List.length_take, List.length_drop]
      omega
    have hmem := stackWrite_block_mem (addr := addr + 16 * k) (by omega) hk key s
    have hseal : (stackSeal s key (addr + 16 * k) (slice data (16 * k) 16)).length = 16 := length_xtsBlock ..
    rw [writeBlocks, List.foldl_cons, ← writeBlocks,
      ih (fun i hi => hblocks i (by simp [hi])) (by rw [hmem]; exact memWriteN_wf hwf ..), hmem, memRead_memWriteN hwf, hseal,
      stackSeal_congr (s := s) (t := stackWrite key (addr + 16 * k) (slice data (16 * k) 16) s) rfl]
    by_cases htail : addr ≤ a ∧ (a - addr) / 16 ∈ t
    · rw [if_pos htail, if_pos ⟨htail.1, by simp [htail.2]⟩]
    · rw [if_neg htail]
      by_cases hhead : addr + 16 * k ≤ a ∧ a < addr + 16 * k + 16
      · have hq : (a - addr) / 16 = k := by omega
        have hrest : a - (addr + 16 * k) = (a - addr) % 16 := by omega
        rw [if_pos hhead, if_pos ⟨by omega, by simp [hq]⟩, hq, hrest]
      · rw [if_neg hhead, if_neg]
        rintro ⟨ha, hin⟩
        rcases List.mem_cons.1 hin with hq | hq
        · omega
        · exact htail ⟨ha, hq⟩

/-- The bytes of a run that is read one after another. -/
theorem memReadN_eq {d : Byte} {m : Mem} {a : Nat} {b : Bytes} (h : ∀ j < b.length, memRead d m (a + j) = b.getD j 0) :
    memReadN d m a b.length = b := by
  induction b generalizing a with
  | nil => rfl
  | cons y t ih =>
    rw [List.length_cons, memReadN, ih fun j hj => ?_]
    · exact congrArg (· :: t) (h 0 (by simp))
    · have := h (j + 1) (by simpa using hj)
      rwa [List.getD_cons_succ, show a + (j + 1) = a + 1 + j by omega] at this

theorem memReadN_writeBlocks {key : Key512} {addr : Nat} {data : Bytes} {blocks : List Nat} (halign : addr % 16 = 0)
    (hblocks : ∀ i ∈ blocks, 16 * i + 16 ≤ data.length) (hwf : Mem.wf 0 s.stack.mem = true) {i : Nat} (hi : i ∈ blocks) :
    memReadN 0 (writeBlocks key addr data blocks s).stack.mem (addr + 16 * i) 16
      = stackSeal s key (addr + 16 * i) (slice data (16 * i) 16) := by
  have hlen : (stackSeal s key (addr + 16 * i) (slice data (16 * i) 16)).length = 16 := length_xtsBlock ..
  refine (congrArg (memReadN 0 _ _) hlen.symm).trans (memReadN_eq fun j hj => ?_)
  rw [hlen] at hj
  have hq : (addr + 16 * i + j - addr) / 16 = i := by omega
  have hj' : (addr + 16 * i + j - addr) % 16 = j := by omega
  rw [memRead_writeBlocks halign hblocks hwf, hq, hj', if_pos ⟨by omega, hi⟩]

theorem writeBlocks_keeps {β : Type} {f : State → β} (hf : ∀ key a b t, f (stackWrite key a b t) = f t) (key : Key512)
    (addr : Nat) (data : Bytes) (blocks : List Nat) (s : State) : f (writeBlocks key addr data blocks s) = f s :=
  foldl_keeps (fun t i => hf key (addr + 16 * i) (slice data (16 * i) 16) t) blocks s

/-! ### An access that is performed (R84, R86, R87) -/

/-- The plaintext that a write leaves in its range, over what is stored there. -/
def writtenData (r : StackReq) (stored : Bytes) : Bytes :=
  match r.mask with
  | none => r.data
  | some m => (List.zip m (List.zip r.data stored)).map fun x => if x.1 then x.2.1 else x.2.2

/-- The blocks of its range that a write touches. -/
def writtenBlocks (r : StackReq) : List Nat :=
  (List.range (r.len / 16)).filter fun i => match r.mask with
    | none => true
    | some m => ((m.drop (16 * i)).take 16).any id

theorem performWrite_eq (w : StackWait) (stored : Bytes) (s : State) : performWrite w stored s
    = stackAnswer w.req .ok [] (meter w.polder 2 (16 * ((writtenBlocks w.req).length + (partialBlocks w.req).length))
        (countBy (sceCounter w.req.addr.toNat 3) w.req.len (count (sceCounter w.req.addr.toNat 1)
          (writeBlocks (polderStackKey s w.polder) w.req.addr.toNat (writtenData w.req stored) (writtenBlocks w.req) s)))) :=
  rfl

theorem performWrite_stack (w : StackWait) (stored : Bytes) (s : State) : (performWrite w stored s).stack
    = (writeBlocks (polderStackKey s w.polder) w.req.addr.toNat (writtenData w.req stored) (writtenBlocks w.req) s).stack := by
  rw [performWrite_eq, stackAnswer, emit_stack, meter_stack, countBy_stack, count_stack]

/-- What the shape of a write gives (R85). -/
theorem stackShape_of_write (h : stackShape r = true) (hw : r.write = true) :
    r.addr.toNat % 16 = 0 ∧ r.data.length = r.len ∧ ∀ m, r.mask = some m → m.length = r.len := by
  simp only [stackShape, hw, Bool.and_eq_true, decide_eq_true_eq, Bool.not_true, Bool.false_or, Bool.true_and] at h
  obtain ⟨⟨⟨⟨-, halign⟩, -⟩, hdata⟩, hmask⟩ := h
  refine ⟨halign, hdata, fun m hm => ?_⟩
  simpa [hm] using hmask

theorem shape_of_checks (h : stackChecks s r = none) : stackShape r = true := by
  cases hshape : stackShape r with
  | true => rfl
  | false => simp [stackChecks, hshape] at h

theorem length_writtenData (h : stackShape r = true) (hw : r.write = true) {stored : Bytes} (hs : stored.length = r.len) :
    (writtenData r stored).length = r.len := by
  obtain ⟨-, hdata, hmask⟩ := stackShape_of_write h hw
  unfold writtenData
  split
  · exact hdata
  next m hm => simp [hmask m hm, hdata, hs]

theorem lt_of_mem_writtenBlocks {i : Nat} (h : i ∈ writtenBlocks r) : i < r.len / 16 :=
  List.mem_range.1 (List.mem_filter.1 h).1

/-- A write of whole blocks stores their ciphertext, and leaves every byte outside its range. -/
theorem performWrite_mem (hshape : stackShape r = true) (hw : r.write = true) {stored : Bytes}
    (hs : stored.length = r.len) (hwf : Mem.wf 0 u.stack.mem = true) (turn : Nat) (p : PolderId) :
    (∀ a, (a < r.addr.toNat ∨ r.addr.toNat + r.len ≤ a) →
        memRead 0 (performWrite ⟨r, p, turn⟩ stored u).stack.mem a = memRead 0 u.stack.mem a)
      ∧ (r.mask = none → ∀ i < r.len / 16,
        memReadN 0 (performWrite ⟨r, p, turn⟩ stored u).stack.mem (r.addr.toNat + 16 * i) 16
          = stackSeal u (polderStackKey u p) (r.addr.toNat + 16 * i) (slice r.data (16 * i) 16)) := by
  obtain ⟨halign, -, -⟩ := stackShape_of_write hshape hw
  have hblocks : ∀ i ∈ writtenBlocks r, 16 * i + 16 ≤ (writtenData r stored).length := by
    intro i hi
    have := lt_of_mem_writtenBlocks hi
    rw [length_writtenData hshape hw hs]
    omega
  rw [performWrite_stack]
  refine ⟨fun a ha => ?_, fun hmask i hi => ?_⟩
  · rw [memRead_writeBlocks halign hblocks hwf, if_neg]
    rintro ⟨hge, hin⟩
    have := lt_of_mem_writtenBlocks hin
    omega
  · have hdata : writtenData r stored = r.data := by simp only [writtenData, hmask]
    have hin : i ∈ writtenBlocks r := by simpa [writtenBlocks, hmask] using hi
    rw [memReadN_writeBlocks halign hblocks hwf hin, hdata]

/-- An access that nothing stops reaches its key: a write of whole blocks is performed, any other goes to the controller. -/
theorem exec_stackAccess_ready (h : AtStack r s) (hcheck : stackChecks s r = none)
    (hx : findContext s r.context = some x) (hfree : UnitFree r s)
    (hhung : hungFor s (sceUnit r.addr.toNat) (some r.context) = false) (hpath : pathServes s (asWait r x s) = true)
    (hfill : plotFilling (plotEntry s (plotOf r.addr.toNat)) = false)
    (hkey : needKey x.polder 3 (atSlice r s) = (.ready, u)) :
    exec (.stackAccess r) s = .next (stackPerform (asWait r x s) u) := by
  have hfill' : plotFilling (plotEntry (atSlice r s) (plotOf (asWait r x s).req.addr.toNat)) = false := hfill
  have hkey' : needKey (asWait r x s).polder 3 (atSlice r s) = (.ready, u) := hkey
  obtain ⟨hthawed', hhung', hpath'⟩ := turned_goes (h.thawed hx) hhung hpath
  rw [exec_stackAccess_passed h hcheck hx, stackStart_turned hfree,
    stackProceed_ready hthawed' hhung' hpath' (atSlice_eq r s).symm hfill' hkey']

theorem stackPerform_full (hw : w.req.write = true) (hfull : partialBlocks w.req = []) (s : State) : stackPerform w s
    = performWrite w (zeros w.req.len) (keepCopy (sceSlice (plotOf w.req.addr.toNat)) w.polder s) := by
  rw [stackPerform, if_pos (by simp [hw, hfull])]

theorem stackPerform_reads (h : w.req.write = false ∨ partialBlocks w.req ≠ []) (s : State) :
    (stackPerform w s).stack.reads = s.stack.reads ++ [w] ∧ (stackPerform w s).stack.mem = s.stack.mem
      ∧ (stackPerform w s).out = s.out := by
  have hwait : ¬ (w.req.write && (partialBlocks w.req).isEmpty) = true := by
    rcases h with hw | hp
    · simp [hw]
    · simp [hp]
  rw [stackPerform, if_neg hwait]
  dsimp only
  split
  · exact ⟨rfl, rfl, rfl⟩
  · exact ⟨rfl, rfl, rfl⟩

theorem completes_stackAccess_ready (h : AtStack r s) (hcheck : stackChecks s r = none)
    (hx : findContext s r.context = some x) (hfree : UnitFree r s)
    (hhung : hungFor s (sceUnit r.addr.toNat) (some r.context) = false) (hpath : pathServes s (asWait r x s) = true)
    (hfill : plotFilling (plotEntry s (plotOf r.addr.toNat)) = false)
    (hkey : needKey x.polder 3 (atSlice r s) = (.ready, u)) :
    (r.write = true → partialBlocks r = [] → Completes (.stackAccess r) s fun t =>
        .stackAnswer r.context r.addr .ok [] ∈ t.out ∧ t.stack.reads = u.stack.reads ∧ t.stack.keyWait = u.stack.keyWait
          ∧ (Mem.wf 0 u.stack.mem = true → ∀ a, (a < r.addr.toNat ∨ r.addr.toNat + r.len ≤ a) →
              memRead 0 t.stack.mem a = memRead 0 u.stack.mem a)
          ∧ (Mem.wf 0 u.stack.mem = true → r.mask = none → ∀ i < r.len / 16,
              memReadN 0 t.stack.mem (r.addr.toNat + 16 * i) 16
                = stackSeal u (polderStackKey u x.polder) (r.addr.toNat + 16 * i) (slice r.data (16 * i) 16)))
      ∧ ((r.write = false ∨ partialBlocks r ≠ []) → Completes (.stackAccess r) s fun t =>
        t.stack.reads = u.stack.reads ++ [asWait r x s] ∧ t.stack.mem = u.stack.mem ∧ t.out = u.out) := by
  have hexec := exec_stackAccess_ready h hcheck hx hfree hhung hpath hfill hkey
  have hshape := shape_of_checks hcheck
  refine ⟨fun hw hfull => ⟨_, hexec, ?_⟩, fun hwait => ⟨_, hexec, stackPerform_reads (w := asWait r x s) hwait u⟩⟩
  rw [stackPerform_full (w := asWait r x s) hw hfull]
  let copied := keepCopy (sceSlice (plotOf r.addr.toNat)) x.polder u
  refine ⟨stackAnswer_mem r .ok [] _, ?_, ?_, fun hwf => ?_, fun hwf => ?_⟩
  · exact congrArg Stack.reads (performWrite_stack ..) |>.trans
      (writeBlocks_keeps (f := fun t => t.stack.reads) (fun _ _ _ _ => rfl) _ _ _ _ copied)
  · exact congrArg Stack.keyWait (performWrite_stack ..) |>.trans
      (writeBlocks_keeps (f := fun t => t.stack.keyWait) (fun _ _ _ _ => rfl) _ _ _ _ copied)
  · exact (performWrite_mem (u := copied) hshape hw (length_zeros _) hwf s.stack.turns x.polder).1
  · exact (performWrite_mem (u := copied) hshape hw (length_zeros _) hwf s.stack.turns x.polder).2

/-! ### What the controllers return (R86, R92, R521) -/

/-- Where no access to a data unit is held, none is let go. -/
theorem releaseHeld_of_none {unit : Nat} (h : ∀ w ∈ s.stack.held, sameUnit unit w.req = false) (n : Nat) :
    releaseHeld unit n s = s := by
  cases n with
  | zero => rfl
  | succ n =>
    unfold releaseHeld
    split
    · rfl
    · rw [List.find?_eq_none.2 fun w hw => ne_true_of_eq_false (h w hw)]

theorem stackRead_congr {t : State} (hspm : t.stack.spm = s.stack.spm) (hmem : t.stack.mem = s.stack.mem) (key : Key512)
    (addr len : Nat) : stackRead t key addr len = stackRead s key addr len := by
  simp only [stackRead, stackBlock, plotEntry, hspm, hmem]

/-- A returned read waits no more. -/
def unqueued (w : StackWait) (s : State) : State :=
  { s with stack := { s.stack with reads := s.stack.reads.erase w } }

/-- The state in which a returned read is judged: its slice has work, and it waits no more. -/
def returned (w : StackWait) (s : State) : State := unqueued w (markWork (sceDomain w.req.addr.toNat) s)

theorem exec_deviceReadReturn_stack {n : Nat} (hrun : running s = true) (hw : s.stack.reads[n]? = some w)
    (hserve : serves s (sceDomain w.req.addr.toNat) = true) (data : Bytes) (bad : Bool) :
    exec (.deviceReadReturn (.stack n) data bad) s
      = .next (resume (stackReturn w data bad (markWork (sceDomain w.req.addr.toNat) s))) := by
  change Host.Outcome.next (if _ then _ else match s.stack.reads[n]? with | some w => withDomain _ _ s | none => s) = _
  rw [if_neg (by simp [hrun]), hw]
  exact congrArg _ (withDomain_of_serves hserve _)

/-- The record of an uncorrectable read (R92). -/
def uncorrectable (w : StackWait) (s : State) : State :=
  let r := w.req
  let u := r.addr.toNat / 256
  stackAnswer r .breach [] (writeFault .stackUncorrectable
    { unit := sceUnit r.addr.toNat, status := statusCode .breach, polder := w.polder, context := some r.context,
      detail := leBytes 5 r.addr.toNat }
    (count (sceCounter r.addr.toNat 7)
      { s with stack := { s.stack with bad := if s.stack.bad.contains u then s.stack.bad else s.stack.bad ++ [u] } }))

theorem uncorrectable_stack (w : StackWait) (s : State) : (uncorrectable w s).stack = { s.stack with
    bad := if s.stack.bad.contains (w.req.addr.toNat / 256) then s.stack.bad
      else s.stack.bad ++ [w.req.addr.toNat / 256] } :=
  writeFault_stack ..

/-- What a returned read comes to, before the accesses held behind it go on (R86, R92, R420, R521). -/
def judged (w : StackWait) (data : Bytes) (bad : Bool) (s : State) : State :=
  if isFrozen s w.polder then { s with stack := { s.stack with held := w :: s.stack.held } }
  else if bad then uncorrectable w s
  else match needKey w.polder 3 s with
    | (.failed st, s) => stackAnswer w.req st [] s
    | (.wait, s) => { s with stack := { s.stack with keyWait := s.stack.keyWait ++ [w] } }
    | (.ready, s) => finishRead w data s

theorem stackReturn_eq (w : StackWait) (data : Bytes) (bad : Bool) (s : State) : stackReturn w data bad s
    = releaseHeld (w.req.addr.toNat / 256) ((judged w data bad (unqueued w s)).stack.held.length + 1)
        (judged w data bad (unqueued w s)) := rfl

theorem stackReturn_bad (hthawed : isFrozen s w.polder = false)
    (hheld : ∀ h ∈ s.stack.held, sameUnit (w.req.addr.toNat / 256) h.req = false) (data : Bytes) :
    stackReturn w data true (markWork (sceDomain w.req.addr.toNat) s) = uncorrectable w (returned w s) := by
  have hthawed' : isFrozen (returned w s) w.polder = false := hthawed
  have hjudged : judged w data true (returned w s) = uncorrectable w (returned w s) := by
    rw [judged, hthawed', if_neg Bool.false_ne_true, if_pos rfl]
  have hheld' : ∀ h ∈ (uncorrectable w (returned w s)).stack.held, sameUnit (w.req.addr.toNat / 256) h.req = false := by
    rw [uncorrectable_stack]
    exact hheld
  rw [stackReturn_eq, ← returned, hjudged, releaseHeld_of_none hheld']

theorem finishRead_held (w : StackWait) (data : Bytes) (s : State) (h : w.req.write = false) :
    (finishRead w data s).stack = { s.stack with
      mem := memWriteN 0 s.stack.mem w.req.addr.toNat (padTo w.req.len data)
      bad := s.stack.bad.filter (· ≠ w.req.addr.toNat / 256) } := by
  unfold finishRead
  dsimp only
  rw [if_neg (by simp [h])]
  rfl

theorem finishRead_answer (w : StackWait) (data : Bytes) (s : State) (h : w.req.write = false) :
    .stackAnswer w.req.context w.req.addr .ok
      (stackRead (finishRead w data s) (polderStackKey s w.polder) w.req.addr.toNat w.req.len) ∈ (finishRead w data s).out := by
  have hstack := finishRead_held w data s h
  rw [stackRead_congr (s := { s with stack := { s.stack with
    mem := memWriteN 0 s.stack.mem w.req.addr.toNat (padTo w.req.len data)
    bad := s.stack.bad.filter (· ≠ w.req.addr.toNat / 256) } }) (congrArg Stack.spm hstack) (congrArg Stack.mem hstack)]
  unfold finishRead
  dsimp only
  rw [if_neg (by simp [h])]
  exact stackAnswer_mem ..

theorem stackReturn_ready (hthawed : isFrozen s w.polder = false)
    (hheld : ∀ h ∈ s.stack.held, sameUnit (w.req.addr.toNat / 256) h.req = false) (hread : w.req.write = false)
    (hkey : needKey w.polder 3 (returned w s) = (.ready, u)) (data : Bytes) :
    stackReturn w data false (markWork (sceDomain w.req.addr.toNat) s) = finishRead w data u := by
  have hthawed' : isFrozen (returned w s) w.polder = false := hthawed
  have hheld' : ∀ h ∈ (finishRead w data u).stack.held, sameUnit (w.req.addr.toNat / 256) h.req = false := by
    rw [finishRead_held w data u hread, needKey_ready_parts hkey .stack rfl]
    exact hheld
  have hjudged : judged w data false (returned w s) = finishRead w data u := by
    rw [judged, hthawed', if_neg Bool.false_ne_true, if_neg Bool.false_ne_true, hkey]
  rw [stackReturn_eq, ← returned, hjudged, releaseHeld_of_none hheld']

theorem exec_stackReturn {n : Nat} (hrun : running s = true) (hw : s.stack.reads[n]? = some w)
    (hserve : serves s (sceDomain w.req.addr.toNat) = true) (hthawed : isFrozen s w.polder = false)
    (hheld : ∀ h ∈ s.stack.held, sameUnit (w.req.addr.toNat / 256) h.req = false) (data : Bytes) (bad : Bool) :
    ∃ u, exec (.deviceReadReturn (.stack n) data bad) s = .next (resume u)
      ∧ (bad = true → .stackAnswer w.req.context w.req.addr .breach [] ∈ u.out ∧ w.req.addr.toNat / 256 ∈ u.stack.bad
          ∧ u.stack.mem = s.stack.mem ∧ u.stack.reads = s.stack.reads.erase w)
      ∧ (∀ v, bad = false → w.req.write = false → needKey w.polder 3 (returned w s) = (.ready, v) →
          u.stack.mem = memWriteN 0 s.stack.mem w.req.addr.toNat (padTo w.req.len data)
            ∧ u.stack.reads = s.stack.reads.erase w
            ∧ .stackAnswer w.req.context w.req.addr .ok
                (stackRead u (polderStackKey v w.polder) w.req.addr.toNat w.req.len) ∈ u.out) := by
  refine ⟨_, exec_deviceReadReturn_stack hrun hw hserve data bad, fun hbad => ?_, fun v hgood hread hkey => ?_⟩
  · subst hbad
    rw [stackReturn_bad hthawed hheld, uncorrectable_stack]
    refine ⟨stackAnswer_mem .., ?_, rfl, rfl⟩
    dsimp only
    split
    next hin => simpa using hin
    · simp
  · subst hgood
    have hstack : v.stack = (returned w s).stack := needKey_ready_parts hkey .stack rfl
    rw [stackReturn_ready hthawed hheld hread hkey]
    refine ⟨?_, ?_, finishRead_answer w data v hread⟩
    · rw [finishRead_held w data v hread, hstack]
      rfl
    · rw [finishRead_held w data v hread, hstack]
      rfl

/-! ### The map after a change (R88) -/

/-- A plot's entry is what was written to it, and an entry of zeros is none. -/
@[simp] theorem plotEntry_setPlot_same (plot : BitVec 16) (e : BitVec 64) (s : State) :
    plotEntry (setPlot plot e s) plot = e := by
  by_cases h : e = 0
  · subst h
    rw [plotEntry, setPlot, if_pos rfl]
    change ((assocDel plot s.stack.spm).lookup plot).getD 0 = 0
    rw [lookup_assocDel_same]
    rfl
  · exact plotEntry_setPlot h s

theorem lookup_assocDel_other {κ ν : Type} [DecidableEq κ] {k j : κ} (h : j ≠ k) (l : List (κ × ν)) :
    (assocDel k l).lookup j = l.lookup j := by
  induction l with
  | nil => rfl
  | cons y t ih =>
    obtain ⟨a, b⟩ := y
    unfold assocDel at ih ⊢
    by_cases ha : a = k
    · subst ha
      rw [List.filter_cons_of_neg (by simp), ih, List.lookup_cons, beq_false_of_ne h]
    · rw [List.filter_cons_of_pos (by simpa using ha), List.lookup_cons, List.lookup_cons, ih]

theorem plotEntry_setPlot_other {plot q : BitVec 16} (h : q ≠ plot) (e : BitVec 64) (s : State) :
    plotEntry (setPlot plot e s) q = plotEntry s q := by
  unfold plotEntry setPlot assocGet
  dsimp only
  split
  · rw [lookup_assocDel_other h]
  · rw [lookup_assocSet_other h]

theorem plotEntry_congr {t : State} (h : t.stack.spm = s.stack.spm) (plot : BitVec 16) : plotEntry t plot = plotEntry s plot := by
  simp only [plotEntry, h]

/-- Bit 38 cleared in an entry clears the filling flag and leaves every other bit. -/
theorem getLsbD_unfilled (e : BitVec 64) (i : Nat) :
    (e &&& ~~~ (BitVec.ofNat 64 (2 ^ 38))).getLsbD i = (e.getLsbD i && decide (i ≠ 38)) := by
  by_cases hi : i < 64
  · rw [BitVec.getLsbD_and, BitVec.getLsbD_not, BitVec.getLsbD_ofNat, Nat.testBit_two_pow]
    simp [hi, eq_comm]
  · rw [BitVec.getLsbD_of_ge _ _ (by omega), BitVec.getLsbD_of_ge _ _ (by omega), Bool.false_and]

/-! ### The end of a fill (R99, R539) -/

/-- A byte after a range has been filled: the function's in it, else what it was. -/
theorem memRead_memFill {d : Byte} {m : Mem} (h : Mem.wf d m = true) (a : Nat) (f : Nat → Byte) (n y : Nat) :
    memRead d (memFill d m a f n) y = if a ≤ y ∧ y < a + n then f (y - a) else memRead d m y := by
  induction n with
  | zero => rw [if_neg (by omega)]; rfl
  | succ n ih =>
    rw [memFill, memRead_memWrite (memFill_wf h a f n), ih]
    by_cases hy : y = a + n
    · rw [if_pos hy, if_pos (by omega), hy, Nat.add_sub_cancel_left]
    · rw [if_neg hy]
      exact if_congr (by omega) rfl rfl

variable {f : Fill} {plot : BitVec 16}

theorem exec_zeroFillComplete (hf : (s.stack.fills.find? fun f => f.plot = plot) = some f)
    (hserve : serves s (sceDomain (16777216 * plot.toNat)) = true) :
    exec (.zeroFillComplete plot) s = .next (match needKey f.polder 3 (markWork (sceDomain (16777216 * plot.toNat)) s) with
      | (.ready, s) => resume (finishFill f s)
      | (.wait, s) => s
      | (.failed st, s) => resume (undoFill f st 0xFF s)) := by
  change Host.Outcome.next (match s.stack.fills.find? fun f => f.plot = plot with
    | none => s | some f => withDomain _ _ s) = _
  rw [hf]
  exact congrArg _ (withDomain_of_serves hserve _)

theorem retryFillWait_of_none (h : ∀ w ∈ s.stack.fillWait, plotOf w.req.addr.toNat ≠ plot) : retryFillWait plot s = s := by
  have hnone : (s.stack.fillWait.filter fun w => plotOf w.req.addr.toNat = plot) = [] :=
    List.filter_eq_nil_iff.2 fun w hw => by simpa using h w hw
  have hall : (s.stack.fillWait.filter fun w => plotOf w.req.addr.toNat ≠ plot) = s.stack.fillWait :=
    List.filter_eq_self.2 fun w hw => by simpa using h w hw
  rw [retryFillWait, hnone, hall]
  rfl

/-- A plot whose fill has ended: so many units of zeros are stored, and it is filled. -/
def filled (units : Nat) (f : Fill) (s : State) : State :=
  let s := meter f.polder 2 16777216 (zeroFill f.plot units (polderStackKey s f.polder) s)
  let s := { s with stack := { s.stack with fills := s.stack.fills.filter fun x => x.plot ≠ f.plot } }
  setPlot f.plot (plotEntry s f.plot &&& ~~~ (BitVec.ofNat 64 (2 ^ 38))) s

theorem finishFill_eq (f : Fill) (s : State) : finishFill f s = retryFillWait f.plot (filled 65536 f s) := by
  unfold finishFill filled
  rfl

theorem filled_waits (units : Nat) (f : Fill) (s : State) : (filled units f s).stack.fillWait = s.stack.fillWait
    ∧ (filled units f s).stack.fills = s.stack.fills.filter fun x => x.plot ≠ f.plot := ⟨rfl, rfl⟩

theorem filled_entry (units : Nat) (f : Fill) (s : State) :
    plotEntry (filled units f s) f.plot = plotEntry s f.plot &&& ~~~ (BitVec.ofNat 64 (2 ^ 38)) :=
  plotEntry_setPlot_same ..

theorem filled_mem (hwf : Mem.wf 0 s.stack.mem = true) {units a : Nat} (ha : a < 256 * units) :
    memRead 0 (filled units f s).stack.mem (16777216 * f.plot.toNat + a)
      = (xtsBlock true (polderStackKey s f.polder) (polderOffset (plotEntry s f.plot) a / 256)
          (polderOffset (plotEntry s f.plot) a % 256 / 16) (zeros 16)).getD (a % 16) 0 := by
  refine (memRead_memFill hwf ..).trans ?_
  rw [if_pos (by omega), show 16777216 * f.plot.toNat + a - f.plot.toNat * 16777216 = a by omega]

theorem exec_zeroFillComplete_ready (hf : (s.stack.fills.find? fun f => f.plot = plot) = some f)
    (hserve : serves s (sceDomain (16777216 * plot.toNat)) = true)
    (hfree : ∀ w ∈ s.stack.fillWait, plotOf w.req.addr.toNat ≠ plot)
    (hkey : needKey f.polder 3 (markWork (sceDomain (16777216 * plot.toNat)) s) = (.ready, u)) :
    ∃ v, exec (.zeroFillComplete plot) s = .next (resume v) ∧ (∀ g ∈ v.stack.fills, g.plot ≠ plot)
      ∧ plotFilling (plotEntry v plot) = false
      ∧ (∀ i < 64, i ≠ 38 → (plotEntry v plot).getLsbD i = (plotEntry s plot).getLsbD i)
      ∧ (Mem.wf 0 s.stack.mem = true → ∀ a < 16777216, memRead 0 v.stack.mem (16777216 * plot.toNat + a)
          = let o := polderOffset (plotEntry s plot) a
            (xtsBlock true (polderStackKey u f.polder) (o / 256) (o % 256 / 16) (zeros 16)).getD (a % 16) 0) := by
  obtain rfl : f.plot = plot := by simpa using List.find?_some hf
  have hstack : u.stack = s.stack := needKey_ready_parts hkey .stack rfl
  have hentry : plotEntry u f.plot = plotEntry s f.plot := plotEntry_congr (congrArg Stack.spm hstack) _
  have hfree' : ∀ w ∈ (filled 65536 f u).stack.fillWait, plotOf w.req.addr.toNat ≠ f.plot := by
    rw [(filled_waits ..).1, hstack]
    exact hfree
  have hexec : exec (.zeroFillComplete f.plot) s = .next (resume (filled 65536 f u)) := by
    rw [exec_zeroFillComplete hf hserve, hkey, ← retryFillWait_of_none hfree', ← finishFill_eq]
  refine ⟨_, hexec, fun g hg => ?_, ?_, fun i _ hi => ?_, fun hwf a ha => ?_⟩
  · rw [(filled_waits ..).2] at hg
    exact of_decide_eq_true (List.mem_filter.1 hg).2
  · rw [plotFilling, filled_entry, getLsbD_unfilled]
    simp
  · rw [filled_entry, getLsbD_unfilled, hentry]
    simp [hi]
  · rw [filled_mem (by rw [hstack]; exact hwf) (units := 65536) (by omega), hentry]

/-- What an access that is only answered leaves: every part but the outputs. -/
theorem foldl_stackAnswer_parts (st : Status) (l : List StackReq) (s : State) :
    s.agree [.out] (l.foldl (fun t r => stackAnswer r st [] t) s) :=
  foldl_frame _ _ _ (agree_refl _ s) fun t _ ht => emit_frame _ t ht rfl

theorem endFillWait_none_nextSeq (plot : BitVec 16) (st : Status) (s : State) :
    (endFillWait plot none st s).tracer.nextSeq = s.tracer.nextSeq := by
  unfold endFillWait
  exact congrArg Tracer.nextSeq (foldl_stackAnswer_parts st _ _ .tracer rfl)

theorem endFillWait_none_stack (plot : BitVec 16) (st : Status) (s : State) :
    (endFillWait plot none st s).stack.spm = s.stack.spm ∧ (endFillWait plot none st s).stack.fills = s.stack.fills := by
  have hstack := foldl_stackAnswer_parts st
  unfold endFillWait
  dsimp only
  rw [hstack _ _ .stack rfl]
  exact ⟨rfl, rfl⟩

/-- A plot whose fill has ended without its key. -/
def unfilled (f : Fill) (s : State) : State :=
  dropPlot f.plot (setPlot f.plot 0
    { s with stack := { s.stack with fills := s.stack.fills.filter fun x => x.plot ≠ f.plot } })

/-- A fill whose key can not be had leaves its plot unmapped, and its record. -/
theorem undoFill_leaves (f : Fill) (st : Status) (slot : Byte) (s : State) :
    (∀ g ∈ (undoFill f st slot s).stack.fills, g.plot ≠ f.plot) ∧ plotEntry (undoFill f st slot s) f.plot = 0
      ∧ (undoFill f st slot s).tracer.nextSeq = s.tracer.nextSeq + 1 := by
  have hstack : (undoFill f st slot s).stack = (endFillWait f.plot none st (unfilled f s)).stack := writeFault_stack ..
  have hseq : (undoFill f st slot s).tracer.nextSeq = (endFillWait f.plot none st (unfilled f s)).tracer.nextSeq + 1 :=
    writeFault_nextSeq ..
  obtain ⟨hspm, hfills⟩ := endFillWait_none_stack f.plot st (unfilled f s)
  refine ⟨fun g hg => ?_, ?_, ?_⟩
  · rw [hstack, hfills] at hg
    exact of_decide_eq_true (List.mem_filter.1 hg).2
  · rw [plotEntry_congr ((congrArg Stack.spm hstack).trans hspm)]
    exact plotEntry_setPlot_same f.plot 0 _
  · rw [hseq, endFillWait_none_nextSeq]
    rfl

theorem exec_zeroFillComplete_failed {st : Status} (hf : (s.stack.fills.find? fun f => f.plot = plot) = some f)
    (hserve : serves s (sceDomain (16777216 * plot.toNat)) = true)
    (hkey : needKey f.polder 3 (markWork (sceDomain (16777216 * plot.toNat)) s) = (.failed st, u)) :
    ∃ v, exec (.zeroFillComplete plot) s = .next (resume v) ∧ (∀ g ∈ v.stack.fills, g.plot ≠ plot)
      ∧ plotEntry v plot = 0 ∧ v.tracer.nextSeq = u.tracer.nextSeq + 1 := by
  obtain rfl : f.plot = plot := by simpa using List.find?_some hf
  refine ⟨undoFill f st 0xFF u, ?_, undoFill_leaves f st 0xFF u⟩
  rw [exec_zeroFillComplete hf hserve, hkey]

/-! ### The end of a release (R101, R372) -/

@[simp] theorem objButRings_finish (o : Origin) (tag : BitVec 32) (st : Status) (payload : Bytes) (s : State) :
    objButRings (finish o tag st payload s) = objButRings s := by
  unfold finish
  dsimp only
  split
  · rfl
  · split
    · rfl
    · exact objButRings_postEvent _ _ _ _

theorem memobjs_of_objButRings {t : State} (h : objButRings t = objButRings s) : t.obj.memobjs = s.obj.memobjs := by
  change (objButRings t).memobjs = (objButRings s).memobjs
  rw [h]

/-- Commands that end leave the memory objects. -/
theorem finishAll_memobjs (l : List (Origin × BitVec 32)) (st : Status) (s : State) :
    (finishAll l st s).obj.memobjs = s.obj.memobjs := by
  unfold finishAll
  refine foldl_keeps (f := fun t => t.obj.memobjs) (fun t x => ?_) l s
  exact memobjs_of_objButRings (objButRings_finish x.1 x.2 st [] t)

theorem settleMemobjs_memobjs (s : State) : ∀ m ∈ (settleMemobjs s).obj.memobjs, m ∈ s.obj.memobjs := by
  intro m hm
  unfold settleMemobjs at hm
  dsimp only at hm
  rw [foldl_keeps (f := fun t => t.obj.memobjs) fun t x => finishAll_memobjs ..] at hm
  exact (List.mem_filter.1 hm).1

theorem settleMemobjs_stack (s : State) : (settleMemobjs s).stack = s.stack :=
  settleMemobjs_frame (A := [.out, .obj, .fns, .tracer]) s (agree_refl _ s) rfl .stack rfl

/-- A plot whose release is complete is unmapped, and no memory object holds it. -/
def unmapped (plot : BitVec 16) (s : State) : State :=
  dropPlot plot (setPlot plot 0 { s with stack := { s.stack with releases := s.stack.releases.filter fun r => r.1 ≠ plot } })

theorem finishRelease_stack (plot : BitVec 16) (s : State) : (finishRelease plot s).stack = (unmapped plot s).stack :=
  (settleMemobjs_stack _).trans (finishAll_stack ..)

theorem finishRelease_memobjs (plot : BitVec 16) (s : State) : ∀ m ∈ (finishRelease plot s).obj.memobjs, plot ∉ m.plots := by
  intro m hm
  have hin := settleMemobjs_memobjs _ m hm
  rw [finishAll_memobjs] at hin
  obtain ⟨y, -, rfl⟩ := List.mem_map.1 hin
  simp

theorem exec_plotReleaseDrained (hrel : plotReleasing s plot = true) (huse : plotInUse s plot = false) :
    ∃ u, exec (.plotReleaseDrained plot) s = .next (resume u) ∧ plotEntry u plot = 0 ∧ plotReleasing u plot = false
      ∧ (∀ q ≠ plot, plotEntry u q = plotEntry s q) ∧ (∀ q ≠ plot, plotReleasing u q = plotReleasing s q)
      ∧ ∀ m ∈ u.obj.memobjs, plot ∉ m.plots := by
  have hexec : exec (.plotReleaseDrained plot) s = .next (resume (finishRelease plot s)) := by
    change Host.Outcome.next (if _ then _ else _) = _
    rw [hrel, huse, if_pos (by decide)]
  have hstack := finishRelease_stack plot s
  have hspm := congrArg Stack.spm hstack
  have hlist : (finishRelease plot s).stack.releases = s.stack.releases.filter fun r => r.1 ≠ plot :=
    congrArg Stack.releases hstack
  refine ⟨_, hexec, ?_, ?_, fun q hq => ?_, fun q hq => ?_, finishRelease_memobjs plot s⟩
  · rw [plotEntry_congr hspm]
    exact plotEntry_setPlot_same plot 0 _
  · simp [plotReleasing, hlist]
  · rw [plotEntry_congr hspm]
    exact plotEntry_setPlot_other hq 0 _
  · rw [plotReleasing, plotReleasing, hlist, List.any_filter]
    congr 1
    funext y
    by_cases hy : y.1 = q
    · simp [hy, hq]
    · simp [hy]

end

/-- Settles O28: an access by what stops it before its stack, a read by what its controller returns, a fill and a release by
what their ends leave of the map. -/
theorem stackAccessesComplete : Obligations.StackAccessesComplete :=
  ⟨fun _ _ _ _ h hcheck hx hfree hhung hpath hfill hkey =>
      completes_stackAccess_ready h hcheck hx hfree hhung hpath hfill hkey,
    fun _ _ _ _ h hcheck => completes_stackAccess_refused h hcheck,
    fun _ _ _ h hcheck hx => completes_stackAccess_waits h hcheck hx,
    fun _ _ hrun hrole haccepts hshut => completes_stackAccess_port hrun hrole haccepts hshut,
    fun _ data bad _ _ hrun hw hserve hthawed hheld => exec_stackReturn hrun hw hserve hthawed hheld data bad,
    fun _ _ _ hf hserve hfree => ⟨fun _ hkey => exec_zeroFillComplete_ready hf hserve hfree hkey,
      fun _ _ hkey => exec_zeroFillComplete_failed hf hserve hkey⟩,
    fun _ _ hrel huse => exec_plotReleaseDrained hrel huse⟩

end Sys2Proof.Machine
end
